-- ==== Sys2Proof/Word.lean ====
section
/-!
DEFINITION. The machine's word types. Registers are 32 bits wide (R14); general registers of a station are 64 bits
(R141); memory is addressed by bytes (R8).
-/
namespace Sys2Proof

/-- A byte of memory. -/
abbrev Byte := BitVec 8
/-- A register, instruction or Counter word (R14, R148). -/
abbrev Word := BitVec 32
/-- A general register of a station (R141). -/
abbrev DWord := BitVec 64

end Sys2Proof
end

