-- ==== Sys2Proof/Syntax.lean ====
section
/-!
DEFINITION. The commands of the block: one constructor of `Instr` for each row of spec/opcode_table.json, with the
row's operands, and the types of those operands. A command that reports something measured or received carries it as an
operand (a temperature, a tile, the bits that a word was hit in): the spec gives the block no value for those.
-/
namespace Sys2Proof

/-- The two hubs (R10). -/
inductive Hub where
  | ha | hb
  deriving DecidableEq, Repr

/-- A tile header (R41). -/
structure TileHeader where
  streamId : Word
  seq : Word
  frame : Word
  format : Byte
  shape : Byte
  flags : BitVec 16
  postmark : Word
  tileScale : BitVec 16
  len : BitVec 16
  index : Word
  origin : Word
  deriving DecidableEq, Repr

/-- A tile as it is carried (R40, R232): header, 4,096 payload bytes, 128 bytes of scale block, and for each of its
266 words whose carried check field is not the computed one, the difference (key the word's number, R228). -/
structure Tile where
  hdr : TileHeader
  payload : List Byte
  scale : List Byte
  chk : List (Nat × BitVec 16)
  deriving DecidableEq, Repr

/-- A physical upset of one symbol of a stored or carried word (R228): the word, the symbol 0 to 17, the bits flipped. -/
structure Upset where
  word : Nat
  sym : Nat
  val : Byte
  deriving DecidableEq, Repr

/-- Who sends a register access (R14): a Counter session by its number, or the arbiter over I3C to a hub (R486). -/
inductive Origin where
  | session (id : Nat)
  | i3c (hub : Hub)
  deriving DecidableEq, Repr

/-- Operations on a tally (R161, R267). -/
inductive TallyOp where
  | give | take | debit | watch
  deriving DecidableEq, Repr

/-- The issuer of a tally operation: a station of the tally's bundle by its index, or another module's station, by its
postcode and the number of its cell (R273, R277). -/
inductive TallySrc where
  | station (idx : Nat)
  | remote (postcode tag : Nat) (op : TallyOp) (amount : Word)
  deriving DecidableEq, Repr

/-- The kinds of LINK flits (R364, R367, R370, R378, R381, R402, R473). -/
inductive LinkMsg where
  | retry (seq : Nat)
  | laneset (lanes : List Nat)
  | ident (kind postcode port channel version txLat rxLat loopLat : Nat)
  | quiesce
  | echo (marker : Nat)
  | echoReply (marker turnaround : Nat)
  | time (tx : Nat)
  | window (channel start len : Nat)
  | laneFail (channel : Nat)
  deriving DecidableEq, Repr

/-- What a flit holds (R361): nothing (IDLE), coded words of a tile with their check differences, or one message. -/
inductive FlitBody where
  | idle
  | tile (words : List (List Byte × BitVec 16))
  | tallyOp (tallyId : Nat) (op : TallyOp) (amount : Word) (src tag : Nat)
  | tallyAnswer (tag status : Nat)
  | tallyProbe (tallyId src tag : Nat)
  /-- the answer to a probe: whether the home holds the waiter (R278) -/
  | tallyHeld (tag : Nat) (held : Bool)
  /-- a waiter that stopped leaves the tally's queue (R175) -/
  | tallyLeave (tallyId src tag : Nat)
  | stepAck (streamId : Word) (step : Nat)
  | collAbort (streamId : Word)
  /-- a request over VC2 to set λS of a pair THROUGH with its pair cell in LOOP (R381) -/
  | loopRequest (pair : Nat)
  | link (m : LinkMsg)
  deriving DecidableEq, Repr

/-- A flit (R361): channel, first and last of its tile or message, destination, SEQ, ACK, credits returned by channel. -/
structure Flit where
  vc : Nat
  first : Bool
  last : Bool
  dest : Nat
  seq : Nat
  ack : Nat
  credit : List Nat
  body : FlitBody
  deriving DecidableEq, Repr

/-- Why a wait on a remote tally ends (R278). -/
inductive ProbeEnd where
  | notHeld | noHome | noAnswer | noRoute
  deriving DecidableEq, Repr

/-- Sides of a compute die, each with an edge link (R27). -/
inductive Side where
  | west | north | east | south
  deriving DecidableEq, Repr

/-- What a hop inside the module crosses (R27 to R29, R233): a router of a die's mesh, in a quadrant; an edge link of the die; the
carrier link of a hub to the die. -/
inductive HopLink where
  | mesh (quadrant : Nat)
  | edge (side : Side)
  | carrier (hub : Hub)
  deriving DecidableEq, Repr

/-- What a hop of a tile met (R233, R318): the die, the link crossed, the time in ns it was held for lack of acknowledgement,
how often the receiving side refused a word (4: it accepted the word unchanged after the third resend), and the bits that
word then carries wrong. -/
structure HopInfo where
  die : Nat
  link : HopLink
  heldNs : Nat
  fails : Nat
  hit : List Upset
  deriving DecidableEq, Repr

/-- The first hop of a cell's waiting POST: the cell, and what the hop met (R46, R233). -/
structure FirstHop where
  cell : Nat
  hop : HopInfo
  deriving DecidableEq, Repr

/-- The way of a stack access: the time in ns for which the logic die's request queue was full since the access before (R318), and
what the hops of its tile met (R233). -/
structure StackTrip where
  queueNs : Nat
  hops : List HopInfo
  deriving DecidableEq, Repr

/-- Upsets that a scratch patrol meets outside data scratch (R238): words of the tiles in the input queues and of the pages saved
under checkpoints, by place, and the words of the end control words. -/
structure PatrolHits where
  queue : List (Nat × Upset)
  pages : List (Nat × Upset)
  ctl : List Upset
  deriving DecidableEq, Repr

/-- What a stack patrol's pass meets: upsets of words (R252), and the row activations that it makes (R255). -/
structure StackPass where
  hits : List Upset
  acts : List (Nat × Nat)
  deriving DecidableEq, Repr

/-- A channel whose items run, and whether the references compared then differ by more than 3 mV (R397). -/
structure LaneCheck where
  chan : Nat
  mismatch : Bool
  deriving DecidableEq, Repr

/-- One datagram of a Counter request (R450 to R452): FRAG, whether its MAGIC, VERSION, LENGTH and reserved fields are
right, its 32-byte tag, and its body. -/
structure Dgram where
  frag : Nat
  ok : Bool
  mac : List Byte
  body : List Byte
  deriving DecidableEq, Repr

/-- A Counter request as it arrives on a hub's port: SESSION, SEQ, TAG, FRAG_COUNT and the datagrams of the message that
come together; the rest of a longer message comes with a later command of the same SEQ (R451). -/
structure CtrHdr where
  port : Hub
  session : Nat
  seq : Word
  tag : Nat
  count : Nat
  dgrams : List Dgram
  deriving DecidableEq, Repr

/-- A PTP message as an instance uses it (R467, R468), stamps in 1/16 ns of the PTP timescale with the correctionField applied:
a Sync with its origin stamp and its ingress stamp at the MAC; a delay measurement with its four stamps in order, those of
this module at the MAC. -/
inductive PtpMsg where
  | sync (t1 t2 : Int)
  | delay (t1 t2 t3 t4 : Int)
  deriving DecidableEq, Repr


/-- The commands, one for each row of spec/opcode_table.json. Rows that a station issues carry the cell and the
instruction word issued. -/
inductive Instr where
  -- 05 Station code, in the table's order
  | alu (cell : Nat) (w : Word)
  | addi (cell : Nat) (w : Word)
  | andi (cell : Nat) (w : Word)
  | ori (cell : Nat) (w : Word)
  | xori (cell : Nat) (w : Word)
  | shli (cell : Nat) (w : Word)
  | shri (cell : Nat) (w : Word)
  | sari (cell : Nat) (w : Word)
  | movi (cell : Nat) (w : Word)
  | movs (cell : Nat) (w : Word)
  | cmp (cell : Nat) (w : Word)
  | cmpi (cell : Nat) (w : Word)
  | plog (cell : Nat) (w : Word)
  | ld64 (cell : Nat) (w : Word)
  | ld32 (cell : Nat) (w : Word)
  | ld8 (cell : Nat) (w : Word)
  | st64 (cell : Nat) (w : Word)
  | st32 (cell : Nat) (w : Word)
  | st8 (cell : Nat) (w : Word)
  | br (cell : Nat) (w : Word)
  | call (cell : Nat) (w : Word)
  | jr (cell : Nat) (w : Word)
  | halt (cell : Nat) (w : Word)
  | tset (cell : Nat) (w : Word)
  | thdrR (cell : Nat) (w : Word)
  | thdrW (cell : Nat) (w : Word)
  | tcopy (cell : Nat) (w : Word)
  | tzero (cell : Nat) (w : Word)
  | cvt (cell : Nat) (w : Word)
  | collect (cell : Nat) (w : Word)
  | collectTileArrived (cell : Nat)
  | post (cell : Nat) (w : Word)
  | postFirstHopAccept (first : FirstHop)
  | trycollect (cell : Nat) (w : Word)
  | endctl (cell : Nat) (w : Word)
  | endstat (cell : Nat) (w : Word)
  | fetch (cell : Nat) (w : Word)
  | stash (cell : Nat) (w : Word)
  | gather (cell : Nat) (w : Word)
  | scatter (cell : Nat) (w : Word)
  | radd (cell : Nat) (w : Word)
  | stackAccessComplete (cell : Nat) (k : Nat) (acts : List (Nat × Nat)) (trip : StackTrip)
  | sfence (cell : Nat) (w : Word)
  | sfenceComplete (cell : Nat)
  | tgive (cell : Nat) (w : Word)
  | ttake (cell : Nat) (w : Word)
  | tdebit (cell : Nat) (w : Word)
  | twatch (cell : Nat) (w : Word)
  | tallyOpAccept (slot : Nat) (tally : Nat) (src : TallySrc)
  | tallyStatusReturn (cell : Nat) (status : Nat)
  | tallyEpochMarker (slot : Nat) (tally : Nat)
  | tallyRemoteProbe (cell : Nat)
  | tallyProbeTimeout (cell : Nat) (reason : ProbeEnd)
  | tallyHomeWaiterExpire (postcode : Nat)
  | confirm (cell : Nat) (w : Word)
  | cancel (cell : Nat) (w : Word)
  | drain (cell : Nat) (w : Word)
  | drainPointReached (cell : Nat)
  | stamp (cell : Nat) (w : Word)
  | ctr (cell : Nat) (w : Word)
  | waitt (cell : Nat) (w : Word)
  | waittTimeReached (cell : Nat)
  | accz (cell : Nat) (w : Word)
  | mma (cell : Nat) (w : Word)
  | accrd (cell : Nat) (w : Word)
  | vOpF32 (cell : Nat) (w : Word)
  | vOpF64 (cell : Nat) (w : Word)
  | blockInstructionComplete (cell : Nat) (tensor : Bool) (latencyNs : Nat)
  | tileHop (slot : Nat) (stream : Nat) (cons : Nat) (last : Bool) (hop : HopInfo)
  | streamStallLimit (cell : Nat)
  | remoteTileArrival (link : Nat) (vc : Nat)
  | streamGapTimeout (slot : Nat) (stream : Nat)
  | hostTileAdmit (tile : Tile)
  | hostReceivePosted (streamId : Word) (count : Nat)
  | roceCnpReceived
  | rdmaWriteStage (stage : Nat) (rkeyOk : Bool) (offset : Nat) (data : List Byte)
  | servoStreamTile (slot : Nat) (stream : Nat)
  -- 15 Counter commands
  | sessionOpen (h : CtrHdr)
  | sessionAuth (h : CtrHdr)
  | sessionClose (h : CtrHdr)
  | status (h : CtrHdr)
  | regRead (h : CtrHdr)
  | regWrite (h : CtrHdr)
  | bundleStage (h : CtrHdr)
  | bundleLoad (h : CtrHdr)
  | fitProbe (h : CtrHdr)
  | planCircuitsLit (slot : Nat)
  | planWaitExpiry (slot : Nat)
  | preloadStorageComplete (slot : Nat) (images : List (List Byte × Bool))
  | start (h : CtrHdr)
  | hold (h : CtrHdr)
  | evict (h : CtrHdr)
  | evictDrained (slot : Nat)
  | evictDrainTimeout (slot : Nat)
  | unload (h : CtrHdr)
  | mapRead (h : CtrHdr)
  | dlqRead (h : CtrHdr)
  | dlqRelease (h : CtrHdr)
  | deltaRead (h : CtrHdr)
  | memRead (h : CtrHdr)
  | memWrite (h : CtrHdr)
  | calSave (h : CtrHdr)
  | calRestore (h : CtrHdr)
  | cellRetire (h : CtrHdr)
  | cellRestore (h : CtrHdr)
  | hostQp (h : CtrHdr)
  | reset (h : CtrHdr)
  | counterCommandUnknown (h : CtrHdr) (code : Nat)
  | counterFragmentTimeout (port : Hub) (session : Nat) (seq : Word)
  | sessionIdleTimeout (session : Nat)
  | cellHardFailure (cell : Nat)
  | relocatePendingTimeout (cell : Nat)
  | scratchPatrol (cell : Nat) (hits : List Upset) (others : PatrolHits)
  | stackPatrol (stack : Nat) (pass : StackPass)
  | rowRepairDone (stack bank row : Nat)
  | stackWipeTimeout (stack : Nat)
  | frameStartTimer (slot : Nat)
  | frameDeadlineExpiry (slot number : Nat)
  | frameLateSummary
  | powerCapTick (volt curr power : Nat) (doms : List (Nat × Nat × Nat)) (busy : List (Nat × Nat × Nat))
  | brakeOvercurrent
  | brakeOverpower
  | brakeRelease (cause die : Nat)
  | pwrCapWrite (o : Origin) (v : Word)
  | pwrEnergyLoRead (o : Origin)
  | ageingMeasure (domain measured recorded : Nat) (points : List (Nat × Nat))
  | eolPrediction (means : List (Nat × Nat × Nat))
  | elementLoopSample (e : Nat) (elems : List (Nat × Nat × Nat × Bool)) (lasers : List (Nat × Nat × Nat))
  | elementTrip (e i : Nat) (noMatch : Bool)
  | identityCheck (e i : Nat) (levels : List (Nat × Int)) (ref : Int) (within : Bool)
  | laneLossOfLight (e : Nat) (lanes : List (Nat × Nat))
  | laneErrorRatio (e p c : Nat)
  | laneFarEndFail (e p c : Nat)
  | laneTrainingTimeout (e p c : Nat)
  | laneRetry (e p c : Nat) (locked : Bool)
  | lightReturnRetry (e p c : Nat) (locked : Bool)
  | spareMarginTest (e p near far : Nat)
  | marginTestComplete (e p c near far full : Nat)
  | laneTrainingComplete (e p c : Nat)
  | calCoverSwitchPoint (e p : Nat) (lane : LaneCheck)
  | laserHandoverTrigger (e n : Nat)
  | laserSpareLocked (e c : Nat)
  | handoverWindowOpen (e c : Nat)
  | laserFail (e n : Nat)
  | optSteerGo (o : Origin) (e : Nat) (v : Word)
  | steerDone (e : Nat)
  | flitReceive (key corr uncorr : Nat) (ok : Bool) (f : Flit)
  | linkRetryFlit (key seq : Nat)
  | linkLanesetFlit (key : Nat) (lanes : List Nat)
  | linkIdentFlit (P c kind pc port channel version txLat rxLat loopLat : Nat)
  | linkQuiesceFlit (key : Nat)
  | linkLostTimer (key : Nat)
  | fabRecableGo (o : Origin) (v : Word)
  | fabRecableResume (o : Origin) (v : Word)
  | quiesceIdle
  | quiesceTimeout
  | fabRbSwap (o : Origin) (v : Word)
  | fabRbCopy (o : Origin) (v : Word)
  | fabRbDataAccess (o : Origin) (v : Option Word)
  | fabRbActiveRead (o : Origin)
  | fabPostcodeWrite (o : Origin) (v : Word)
  | fabExpectBypassWrite (o : Origin) (bypass : Bool) (P c : Nat) (v : Word)
  | tofMeasurement (key : Nat) (loop : Bool) (trip turnaround : Nat)
  | tofLambdaWaitTimeout (key : Nat)
  | tofLoopRequest (e k : Nat) (overs : Bool)
  | linkEchoFlit (key marker turnaround : Nat)
  | collTransferTile (key vc : Nat)
  | collStepAck (streamId : Word) (step : Nat)
  | collStepTimeout (slot stream : Nat)
  | collPeerAbort (streamId : Word)
  | calRunStart (cls inst : Nat) (mismatch : Bool)
  | calRunComplete (cls inst : Nat) (values : List Word) (quality tmean : Nat) (moved : Bool)
  | calRunTimeout (cls inst : Nat)
  | calBadRunRetry (cls inst : Nat)
  | calStarved (cls inst : Nat)
  | calCmdCommit (o : Origin) (v : Word)
  | calCmdRun (o : Origin) (v : Word)
  | calDataAccess (o : Origin) (v : Option Word)
  | calWindowAnnounce (e p : Nat) (lane : LaneCheck)
  | servoSample (base : List Nat) (conv : List (Nat × Nat × List Word × List Word)) (refuse : List Nat)
  | srvClose (o : Origin)
  | srvOpen (o : Origin)
  | srvRearm (o : Origin)
  | srvTestStart (o : Origin)
  | srvStop (o : Origin)
  | srvParamAccess (o : Origin) (v : Option Word)
  | servoSatTrip (loop : Nat)
  | servoOutHoldExpiry (pin : Nat)
  | servoStreamStale (slot : Nat)
  | pulseEdge (i : Nat) (level : Bool) (t held : Nat)
  | fsyncEdge (n t held : Nat)
  | ainEvent (n t : Nat)
  | inputStuck (i : Nat)
  | ptpMessageReceive (h : Hub) (domain transport : Nat) (m : PtpMsg)
  | ptpSyncLoss
  | ptpHoldExpiry
  | tbSlewComplete
  | tbAdjWrite (o : Origin) (v : Word)
  | tbIncrLoWrite (o : Origin) (v : Word)
  | tbIncrHiWrite (o : Origin) (v : Word)
  | tbSelectWrite (o : Origin) (v : Word)
  | tbServoWrite (o : Origin) (v : Word)
  | tbSecLoRead (o : Origin)
  | linkTimeExchange (key tx rx limit : Nat)
  | powerUp (badA badB : List Nat) (badLc : Bool) (badFw : List Hub)
  | rstNAssert
  | rstNRelease
  | undervoltageOff (mv : Nat)
  | overvoltageOff
  | inputDip (mv : Nat)
  | inputWarningBandEntry (mv : Nat)
  | inputWarningBandExit
  | refclkLoss
  | refclkRestore
  | i3cSetdasa (static dyn : Nat)
  | i3cEntdaa (dyn : Nat)
  | leaseRenewal (h : Hub)
  | leaseLineRise (a b : Bool)
  | leaseLineLow (h : Hub)
  | leaseLapse (h : Hub)
  | hubBecomeActive (h : Hub)
  | heartbeatLoss (h : Hub) (isolate : Bool)
  | watchdogExpiry (h : Hub)
  | crosslinkReturn
  | hubSelfCheckFail (h : Hub)
  | hubRestartComplete (h : Hub)
  | fwWriteStandby (o : Origin) (v : Option Word)
  | fwHandover (o : Origin) (v : Word)
  | fwAbort (o : Origin)
  | ethLinkLoss (h : Hub)
  | ethLinkReturn (h : Hub)
  | arpNdIcmpEcho (h : Hub) (kind : Nat) (target payload : List Byte)
  | recMirrorReceive (h : Hub)
  | recSuppressed (h : Hub)
  | optimeSave (elapsed : Nat) (bad : List Hub)
  | recCursorWrite (o : Origin) (v : Word)
  | recFind (o : Origin) (v : Word)
  | recRetry (o : Origin) (v : Word) (good : Bool)
  | pctClr (o : Origin) (v : Word)
  | pctValLoRead (o : Origin)
  | pctSmpEnable (o : Origin) (k : Nat) (v : Word)
  | pctSmpPop (o : Origin) (v : Word)
  | redOptimeLoRead (o : Origin)
  | dieDbgLoRead (o : Origin) (d : Nat)
  | dieDbgWrite (o : Origin) (d : Nat) (v : Word)
  | svnCommit (o : Origin) (v : Word)
  | secReqSignedWrite (o : Origin) (v : Word)
  | secRetCommit (o : Origin) (v : Word)
  | retainedCommitTimer
  | secLcCmd (o : Origin) (v : Word) (cut : Bool)
  | secKeyCommit (o : Origin) (v : Word)
  | secKeyErase (o : Origin) (v : Word)
  | secGrantDataAccess (o : Origin) (v : Option Word)
  | secGrantCommit (o : Origin) (v : Word)
  | secGrantRevoke (o : Origin) (v : Word)
  | grantExpiry
  | grantNotBefore
  | secAttGo (o : Origin) (v : Word)
  | attestationReady
  | temperatureSample (samples : List (Nat × Nat × Nat))
  | talSetWrite (o : Origin) (v : Word)
  | talRehomeWrite (o : Origin) (v : Word)
  | talEpochEndWrite (o : Origin) (v : Word)
  | dltKeyreqWrite (o : Origin) (v : Word)
  | registerWritePlain (o : Origin) (addr : Nat) (v : Word)
  | reservedOpcode (cell : Nat) (w : Word)
  deriving DecidableEq, Repr


end Sys2Proof
end

