-- ==== Sys2Proof/WellFormed.lean ====
section
/-!
DEFINITION. Well-formed commands: every operand within what the spec gives it. A command that is not well-formed names a part
that no module has (R1, R31, R324), carries a word of another opcode (R150), or a message that R450 does not allow; its meaning
leaves the machine as it is or treats it as the meaning says.
-/
namespace Sys2Proof

/-- The opcode of an instruction word (R149). -/
def Instr.opcodeOf (w : Word) : Nat := w.toNat / 2 ^ 25
/-- A tile with its 4,096 payload bytes, its 128 bytes of scale block, and check differences of its 266 words (R40, R232). -/
def Tile.wellFormed (t : Tile) : Bool :=
  decide (t.payload.length = 4096) && decide (t.scale.length = 128) && t.chk.all (fun e => decide (e.1 < 266))
/-- A Counter request whose session and tag fit their fields and whose datagrams are numbered below the count (R450, R451). -/
def CtrHdr.wellFormed (h : CtrHdr) : Bool :=
  decide (h.session < 2 ^ 32) && decide (h.tag < 2 ^ 16) && decide (1 ≤ h.count) && !h.dgrams.isEmpty &&
  h.dgrams.all (fun d => decide (d.frag < h.count) && decide (d.mac.length = 0 ∨ d.mac.length = 32))
/-- A session number fits its field (R450). -/
def Origin.wellFormed : Origin → Bool
  | .session id => decide (id < 2 ^ 32)
  | .i3c _ => true
/-- A quadrant of a mesh that exists (R507). -/
def HopLink.wellFormed : HopLink → Bool
  | .mesh q => decide (q < 4)
  | .edge _ => true
  | .carrier _ => true
/-- Parts of the hop of a tile: a die of the module, a link of it, flips of one of its 266 words (R40, R318, R233). -/
def HopInfo.wellFormed (h : HopInfo) : Bool :=
  decide (h.die < 8) && h.link.wellFormed && decide (h.fails ≤ 4) && h.hit.all (fun u => decide (u.word < 266) && decide (u.sym < 18))
/-- A flit of a channel that exists, its SEQ and ACK within their fields (R361). -/
def Flit.wellFormed (f : Flit) : Bool := decide (f.vc < 4) && decide (f.dest < 2 ^ 16)

/-- Operands within what the spec gives them. -/
def Instr.wellFormed : Instr → Bool
  | .alu cell w => decide (cell < 2048) && decide (Instr.opcodeOf w = 0x01)
  | .addi cell w => decide (cell < 2048) && decide (Instr.opcodeOf w = 0x02)
  | .andi cell w => decide (cell < 2048) && decide (Instr.opcodeOf w = 0x03)
  | .ori cell w => decide (cell < 2048) && decide (Instr.opcodeOf w = 0x04)
  | .xori cell w => decide (cell < 2048) && decide (Instr.opcodeOf w = 0x05)
  | .shli cell w => decide (cell < 2048) && decide (Instr.opcodeOf w = 0x06)
  | .shri cell w => decide (cell < 2048) && decide (Instr.opcodeOf w = 0x07)
  | .sari cell w => decide (cell < 2048) && decide (Instr.opcodeOf w = 0x08)
  | .movi cell w => decide (cell < 2048) && decide (Instr.opcodeOf w = 0x09)
  | .movs cell w => decide (cell < 2048) && decide (Instr.opcodeOf w = 0x0A)
  | .cmp cell w => decide (cell < 2048) && decide (Instr.opcodeOf w = 0x0B)
  | .cmpi cell w => decide (cell < 2048) && decide (Instr.opcodeOf w = 0x0C)
  | .plog cell w => decide (cell < 2048) && decide (Instr.opcodeOf w = 0x0D)
  | .ld64 cell w => decide (cell < 2048) && decide (Instr.opcodeOf w = 0x10)
  | .ld32 cell w => decide (cell < 2048) && decide (Instr.opcodeOf w = 0x11)
  | .ld8 cell w => decide (cell < 2048) && decide (Instr.opcodeOf w = 0x12)
  | .st64 cell w => decide (cell < 2048) && decide (Instr.opcodeOf w = 0x13)
  | .st32 cell w => decide (cell < 2048) && decide (Instr.opcodeOf w = 0x14)
  | .st8 cell w => decide (cell < 2048) && decide (Instr.opcodeOf w = 0x15)
  | .br cell w => decide (cell < 2048) && decide (Instr.opcodeOf w = 0x18)
  | .call cell w => decide (cell < 2048) && decide (Instr.opcodeOf w = 0x19)
  | .jr cell w => decide (cell < 2048) && decide (Instr.opcodeOf w = 0x1A)
  | .halt cell w => decide (cell < 2048) && decide (Instr.opcodeOf w = 0x1F)
  | .tset cell w => decide (cell < 2048) && decide (Instr.opcodeOf w = 0x20)
  | .thdrR cell w => decide (cell < 2048) && decide (Instr.opcodeOf w = 0x21)
  | .thdrW cell w => decide (cell < 2048) && decide (Instr.opcodeOf w = 0x22)
  | .tcopy cell w => decide (cell < 2048) && decide (Instr.opcodeOf w = 0x23)
  | .tzero cell w => decide (cell < 2048) && decide (Instr.opcodeOf w = 0x24)
  | .cvt cell w => decide (cell < 2048) && decide (Instr.opcodeOf w = 0x25)
  | .collect cell w => decide (cell < 2048) && decide (Instr.opcodeOf w = 0x28)
  | .collectTileArrived cell => decide (cell < 2048)
  | .post cell w => decide (cell < 2048) && decide (Instr.opcodeOf w = 0x29)
  | .postFirstHopAccept first => decide (first.cell < 2048) && first.hop.wellFormed
  | .trycollect cell w => decide (cell < 2048) && decide (Instr.opcodeOf w = 0x2A)
  | .endctl cell w => decide (cell < 2048) && decide (Instr.opcodeOf w = 0x2B)
  | .endstat cell w => decide (cell < 2048) && decide (Instr.opcodeOf w = 0x2C)
  | .fetch cell w => decide (cell < 2048) && decide (Instr.opcodeOf w = 0x30)
  | .stash cell w => decide (cell < 2048) && decide (Instr.opcodeOf w = 0x31)
  | .gather cell w => decide (cell < 2048) && decide (Instr.opcodeOf w = 0x32)
  | .scatter cell w => decide (cell < 2048) && decide (Instr.opcodeOf w = 0x33)
  | .radd cell w => decide (cell < 2048) && decide (Instr.opcodeOf w = 0x34)
  | .stackAccessComplete cell _ _ trip => decide (cell < 2048) && trip.hops.all HopInfo.wellFormed
  | .sfence cell w => decide (cell < 2048) && decide (Instr.opcodeOf w = 0x35)
  | .sfenceComplete cell => decide (cell < 2048)
  | .tgive cell w => decide (cell < 2048) && decide (Instr.opcodeOf w = 0x38)
  | .ttake cell w => decide (cell < 2048) && decide (Instr.opcodeOf w = 0x39)
  | .tdebit cell w => decide (cell < 2048) && decide (Instr.opcodeOf w = 0x3A)
  | .twatch cell w => decide (cell < 2048) && decide (Instr.opcodeOf w = 0x3B)
  | .tallyOpAccept _ _ _ => true
  | .tallyStatusReturn cell code => decide (cell < 2048) && decide (code < 65536)
  | .tallyEpochMarker _ _ => true
  | .tallyRemoteProbe cell => decide (cell < 2048)
  | .tallyProbeTimeout cell _ => decide (cell < 2048)
  | .tallyHomeWaiterExpire _ => true
  | .confirm cell w => decide (cell < 2048) && decide (Instr.opcodeOf w = 0x3C)
  | .cancel cell w => decide (cell < 2048) && decide (Instr.opcodeOf w = 0x3D)
  | .drain cell w => decide (cell < 2048) && decide (Instr.opcodeOf w = 0x40)
  | .drainPointReached cell => decide (cell < 2048)
  | .stamp cell w => decide (cell < 2048) && decide (Instr.opcodeOf w = 0x41)
  | .ctr cell w => decide (cell < 2048) && decide (Instr.opcodeOf w = 0x42)
  | .waitt cell w => decide (cell < 2048) && decide (Instr.opcodeOf w = 0x43)
  | .waittTimeReached cell => decide (cell < 2048)
  | .accz cell w => decide (cell < 2048) && decide (Instr.opcodeOf w = 0x50)
  | .mma cell w => decide (cell < 2048) && decide (Instr.opcodeOf w = 0x51)
  | .accrd cell w => decide (cell < 2048) && decide (Instr.opcodeOf w = 0x52)
  | .vOpF32 cell w => decide (cell < 2048) && decide (Instr.opcodeOf w = 0x58)
  | .vOpF64 cell w => decide (cell < 2048) && decide (Instr.opcodeOf w = 0x59)
  | .blockInstructionComplete cell _ _ => decide (cell < 2048)
  | .tileHop _ _ _ _ hop => hop.wellFormed
  | .streamStallLimit cell => decide (cell < 2048)
  | .remoteTileArrival _ vc => decide (vc < 4)
  | .streamGapTimeout _ _ => true
  | .hostTileAdmit tile => tile.wellFormed
  | .hostReceivePosted _ _ => true
  | .roceCnpReceived => true
  | .rdmaWriteStage _ _ _ _ => true
  | .servoStreamTile _ _ => true
  | .sessionOpen h => h.wellFormed
  | .sessionAuth h => h.wellFormed
  | .sessionClose h => h.wellFormed
  | .status h => h.wellFormed
  | .regRead h => h.wellFormed
  | .regWrite h => h.wellFormed
  | .bundleStage h => h.wellFormed
  | .bundleLoad h => h.wellFormed
  | .fitProbe h => h.wellFormed
  | .planCircuitsLit _ => true
  | .planWaitExpiry _ => true
  | .preloadStorageComplete _ _ => true
  | .start h => h.wellFormed
  | .hold h => h.wellFormed
  | .evict h => h.wellFormed
  | .evictDrained _ => true
  | .evictDrainTimeout _ => true
  | .unload h => h.wellFormed
  | .mapRead h => h.wellFormed
  | .dlqRead h => h.wellFormed
  | .dlqRelease h => h.wellFormed
  | .deltaRead h => h.wellFormed
  | .memRead h => h.wellFormed
  | .memWrite h => h.wellFormed
  | .calSave h => h.wellFormed
  | .calRestore h => h.wellFormed
  | .cellRetire h => h.wellFormed
  | .cellRestore h => h.wellFormed
  | .hostQp h => h.wellFormed
  | .reset h => h.wellFormed
  | .counterCommandUnknown h code => h.wellFormed && decide (code < 65536)
  | .counterFragmentTimeout _ _ _ => true
  | .sessionIdleTimeout _ => true
  | .cellHardFailure cell => decide (cell < 2048)
  | .relocatePendingTimeout cell => decide (cell < 2048)
  | .scratchPatrol cell hits _ => decide (cell < 2048) && hits.all (fun u => decide (u.sym < 18))
  | .stackPatrol stack pass => decide (stack < 16) && pass.hits.all (fun u => decide (u.sym < 18))
  | .rowRepairDone stack _ _ => decide (stack < 16)
  | .stackWipeTimeout stack => decide (stack < 16)
  | .frameStartTimer _ => true
  | .frameDeadlineExpiry _ _ => true
  | .frameLateSummary => true
  | .powerCapTick _ _ _ _ _ => true
  | .brakeOvercurrent => true
  | .brakeOverpower => true
  | .brakeRelease cause die => decide (die < 8) && (decide (1 ≤ cause) && decide (cause ≤ 3))
  | .pwrCapWrite o _ => o.wellFormed
  | .pwrEnergyLoRead o => o.wellFormed
  | .ageingMeasure _ _ _ _ => true
  | .eolPrediction _ => true
  | .elementLoopSample e _ _ => decide (e < 4)
  | .elementTrip e i _ => decide (e < 4) && decide (i < 200)
  | .identityCheck e i _ _ _ => decide (e < 4) && decide (i < 200)
  | .laneLossOfLight e _ => decide (e < 4)
  | .laneErrorRatio e p c => decide (e < 4) && decide (p < 8) && decide (c < 9)
  | .laneFarEndFail e p c => decide (e < 4) && decide (p < 8) && decide (c < 9)
  | .laneTrainingTimeout e p c => decide (e < 4) && decide (p < 8) && decide (c < 9)
  | .laneRetry e p c _ => decide (e < 4) && decide (p < 8) && decide (c < 9)
  | .lightReturnRetry e p c _ => decide (e < 4) && decide (p < 8) && decide (c < 9)
  | .spareMarginTest e p _ _ => decide (e < 4) && decide (p < 8)
  | .marginTestComplete e p c _ _ _ => decide (e < 4) && decide (p < 8) && decide (c < 9)
  | .laneTrainingComplete e p c => decide (e < 4) && decide (p < 8) && decide (c < 9)
  | .calCoverSwitchPoint e p lane => decide (e < 4) && decide (p < 8) && decide (lane.chan < 9)
  | .laserHandoverTrigger e n => decide (e < 4) && decide (n < 18)
  | .laserSpareLocked e c => decide (e < 4) && decide (c < 9)
  | .handoverWindowOpen e c => decide (e < 4) && decide (c < 9)
  | .laserFail e n => decide (e < 4) && decide (n < 18)
  | .optSteerGo o e _ => o.wellFormed && decide (e < 4)
  | .steerDone e => decide (e < 4)
  | .flitReceive key _ _ _ f => (decide (key / 16 < 32) && decide (key % 16 < 9)) && f.wellFormed
  | .linkRetryFlit key _ => (decide (key / 16 < 32) && decide (key % 16 < 9))
  | .linkLanesetFlit key _ => (decide (key / 16 < 32) && decide (key % 16 < 9))
  | .linkIdentFlit P c _ _ _ _ _ _ _ _ => decide (P < 32) && decide (c < 9)
  | .linkQuiesceFlit key => (decide (key / 16 < 32) && decide (key % 16 < 9))
  | .linkLostTimer key => (decide (key / 16 < 32) && decide (key % 16 < 9))
  | .fabRecableGo o _ => o.wellFormed
  | .fabRecableResume o _ => o.wellFormed
  | .quiesceIdle => true
  | .quiesceTimeout => true
  | .fabRbSwap o _ => o.wellFormed
  | .fabRbCopy o _ => o.wellFormed
  | .fabRbDataAccess o _ => o.wellFormed
  | .fabRbActiveRead o => o.wellFormed
  | .fabPostcodeWrite o _ => o.wellFormed
  | .fabExpectBypassWrite o _ P c _ => o.wellFormed && decide (P < 32) && decide (c < 9)
  | .tofMeasurement key _ _ _ => (decide (key / 16 < 32) && decide (key % 16 < 9))
  | .tofLambdaWaitTimeout key => (decide (key / 16 < 32) && decide (key % 16 < 9))
  | .tofLoopRequest e k _ => decide (e < 4) && decide (k < 4)
  | .linkEchoFlit key _ _ => (decide (key / 16 < 32) && decide (key % 16 < 9))
  | .collTransferTile key vc => (decide (key / 16 < 32) && decide (key % 16 < 9)) && decide (vc < 4)
  | .collStepAck _ _ => true
  | .collStepTimeout _ _ => true
  | .collPeerAbort _ => true
  | .calRunStart cls _ _ => decide (cls < 8)
  | .calRunComplete cls _ _ _ _ _ => decide (cls < 8)
  | .calRunTimeout cls _ => decide (cls < 8)
  | .calBadRunRetry cls _ => decide (cls < 8)
  | .calStarved cls _ => decide (cls < 8)
  | .calCmdCommit o _ => o.wellFormed
  | .calCmdRun o _ => o.wellFormed
  | .calDataAccess o _ => o.wellFormed
  | .calWindowAnnounce e p lane => decide (e < 4) && decide (p < 8) && decide (lane.chan < 9)
  | .servoSample _ _ _ => true
  | .srvClose o => o.wellFormed
  | .srvOpen o => o.wellFormed
  | .srvRearm o => o.wellFormed
  | .srvTestStart o => o.wellFormed
  | .srvStop o => o.wellFormed
  | .srvParamAccess o _ => o.wellFormed
  | .servoSatTrip loop => decide (loop < 32)
  | .servoOutHoldExpiry pin => decide (pin < 12)
  | .servoStreamStale _ => true
  | .pulseEdge i _ _ _ => decide (8 ≤ i) && decide (i < 24)
  | .fsyncEdge n _ _ => decide (n < 4)
  | .ainEvent n _ => decide (n < 8)
  | .inputStuck i => decide (i < 28)
  | .ptpMessageReceive _ domain transport _ => (decide (domain < 256) && decide (transport < 3))
  | .ptpSyncLoss => true
  | .ptpHoldExpiry => true
  | .tbSlewComplete => true
  | .tbAdjWrite o _ => o.wellFormed
  | .tbIncrLoWrite o _ => o.wellFormed
  | .tbIncrHiWrite o _ => o.wellFormed
  | .tbSelectWrite o _ => o.wellFormed
  | .tbServoWrite o _ => o.wellFormed
  | .tbSecLoRead o => o.wellFormed
  | .linkTimeExchange key _ _ _ => (decide (key / 16 < 32) && decide (key % 16 < 9))
  | .powerUp _ _ _ _ => true
  | .rstNAssert => true
  | .rstNRelease => true
  | .undervoltageOff _ => true
  | .overvoltageOff => true
  | .inputDip _ => true
  | .inputWarningBandEntry _ => true
  | .inputWarningBandExit => true
  | .refclkLoss => true
  | .refclkRestore => true
  | .i3cSetdasa static dyn => (decide (static < 128) && decide (dyn < 128))
  | .i3cEntdaa dyn => decide (dyn < 128)
  | .leaseRenewal _ => true
  | .leaseLineRise _ _ => true
  | .leaseLineLow _ => true
  | .leaseLapse _ => true
  | .hubBecomeActive _ => true
  | .heartbeatLoss _ _ => true
  | .watchdogExpiry _ => true
  | .crosslinkReturn => true
  | .hubSelfCheckFail _ => true
  | .hubRestartComplete _ => true
  | .fwWriteStandby o _ => o.wellFormed
  | .fwHandover o _ => o.wellFormed
  | .fwAbort o => o.wellFormed
  | .ethLinkLoss _ => true
  | .ethLinkReturn _ => true
  | .arpNdIcmpEcho _ kind _ _ => decide (kind < 3)
  | .recMirrorReceive _ => true
  | .recSuppressed _ => true
  | .optimeSave _ _ => true
  | .recCursorWrite o _ => o.wellFormed
  | .recFind o _ => o.wellFormed
  | .recRetry o _ _ => o.wellFormed
  | .pctClr o _ => o.wellFormed
  | .pctValLoRead o => o.wellFormed
  | .pctSmpEnable o k _ => o.wellFormed && decide (k < 8)
  | .pctSmpPop o _ => o.wellFormed
  | .redOptimeLoRead o => o.wellFormed
  | .dieDbgLoRead o d => o.wellFormed && decide (d < 8)
  | .dieDbgWrite o d _ => o.wellFormed && decide (d < 8)
  | .svnCommit o _ => o.wellFormed
  | .secReqSignedWrite o _ => o.wellFormed
  | .secRetCommit o _ => o.wellFormed
  | .retainedCommitTimer => true
  | .secLcCmd o _ _ => o.wellFormed
  | .secKeyCommit o _ => o.wellFormed
  | .secKeyErase o _ => o.wellFormed
  | .secGrantDataAccess o _ => o.wellFormed
  | .secGrantCommit o _ => o.wellFormed
  | .secGrantRevoke o _ => o.wellFormed
  | .grantExpiry => true
  | .grantNotBefore => true
  | .secAttGo o _ => o.wellFormed
  | .attestationReady => true
  | .temperatureSample _ => true
  | .talSetWrite o _ => o.wellFormed
  | .talRehomeWrite o _ => o.wellFormed
  | .talEpochEndWrite o _ => o.wellFormed
  | .dltKeyreqWrite o _ => o.wellFormed
  | .registerWritePlain o _ _ => o.wellFormed
  | .reservedOpcode cell w => decide (cell < 2048) && !([0x01, 0x02, 0x03, 0x04, 0x05, 0x06, 0x07, 0x08, 0x09, 0x0A, 0x0B, 0x0C, 0x0D, 0x10, 0x11, 0x12, 0x13, 0x14, 0x15, 0x18, 0x19, 0x1A, 0x1F, 0x20, 0x21, 0x22, 0x23, 0x24, 0x25, 0x28, 0x29, 0x2A, 0x2B, 0x2C, 0x30, 0x31, 0x32, 0x33, 0x34, 0x35, 0x38, 0x39, 0x3A, 0x3B, 0x3C, 0x3D, 0x40, 0x41, 0x42, 0x43, 0x50, 0x51, 0x52, 0x58, 0x59].contains (Instr.opcodeOf w))

end Sys2Proof
end

