-- ==== Sys2Proof/Decode.lean ====
section
/-!
DEFINITION. The command that a word spells. The rows of spec/opcode_table.json give no bits: a command of this block is a
message, an event or a register access, not a word, so no word spells one. (The instruction words of a station, which are
state of the block, are read in Machine/Operands.lean.)
-/
namespace Sys2Proof

/-- No row gives bits, so no word spells a command. (DESIGN CHOICE, log entry 3) -/
def decodeTableWord (_nbits _w : Nat) : Option Instr := none

end Sys2Proof
end

