-- ==== Sys2Proof/Machine/Codes.lean ====
section
/-!
DEFINITION. The status codes of R22 to R25, R70, R84, R85, R107, R172, R227, R262, R287 and the other tables of codes, and
the event codes of R508, each said once. Generated from the tables of spec/.
-/
namespace Sys2Proof.Machine
namespace C
/-- Success (R22). -/
def ok : Nat := 0x0000
def bndMagic : Nat := 0x0101
def bndVersion : Nat := 0x0102
def bndLength : Nat := 0x0103
def bndHash : Nat := 0x0104
def bndSection : Nat := 0x0105
def bndRecord : Nat := 0x0106
def signMissing : Nat := 0x0107
def signBad : Nat := 0x0108
def constHash : Nat := 0x010A
def constSource : Nat := 0x010B
def cellsShort : Nat := 0x0110
def scratchShort : Nat := 0x0111
def stackShort : Nat := 0x0112
def stationLimit : Nat := 0x0113
def streamIdInUse : Nat := 0x0114
def tallyIdInUse : Nat := 0x0115
def specDieShort : Nat := 0x0116
def powerShort : Nat := 0x0117
def groupShort : Nat := 0x0118
def planAbsent : Nat := 0x0119
def planUnlit : Nat := 0x011A
def bundleSlots : Nat := 0x011B
def handleUnknown : Nat := 0x0120
def stateInvalid : Nat := 0x0121
def evictNotAllowed : Nat := 0x0122
def drainTimeout : Nat := 0x0123
def loadAbandoned : Nat := 0x0124
def relocateNoCell : Nat := 0x0125
def cellLost : Nat := 0x0126
def relocated : Nat := 0x0127
def relocatePending : Nat := 0x0128
def retireAdvised : Nat := 0x0129
def loadCancelled : Nat := 0x012A
def deltaParam : Nat := 0x012B
def specParam : Nat := 0x012C
def collParam : Nat := 0x012D
def cellInvalid : Nat := 0x012E
def cellHardRetired : Nat := 0x012F
def streamUnknown : Nat := 0x0201
def tileHeader : Nat := 0x0202
def tileFormat : Nat := 0x0203
def streamStalled : Nat := 0x0204
def streamGap : Nat := 0x0205
def dlqNoConsumer : Nat := 0x0206
def dlqNoRoute : Nat := 0x0207
def dlqUnknownStream : Nat := 0x0208
def dlqOverflow : Nat := 0x0209
def opcodeInvalid : Nat := 0x0210
def pcRange : Nat := 0x0211
def scratchRange : Nat := 0x0212
def scratchAlign : Nat := 0x0213
def endInvalid : Nat := 0x0214
def regionInvalid : Nat := 0x0215
def tallyInvalid : Nat := 0x0216
def counterInvalid : Nat := 0x0217
def handleUnset : Nat := 0x0218
def specInvalid : Nat := 0x0219
def tileShape : Nat := 0x021A
def bundleHalted : Nat := 0x021B
def deltaIndex : Nat := 0x0220
def deltaFrame : Nat := 0x0221
def deltaIncomplete : Nat := 0x0222
def specRange : Nat := 0x0228
def specSpill : Nat := 0x0229
def tallyOverflow : Nat := 0x0230
def tallyUnderflow : Nat := 0x0231
def ownerLost : Nat := 0x0232
def tallyOrphaned : Nat := 0x0233
def tallyNoHome : Nat := 0x0234
def tallyAmount : Nat := 0x0235
def tallyDbgDenied : Nat := 0x0236
def tallyNotOrphaned : Nat := 0x0237
def tallySetRange : Nat := 0x0238
def tallyDbgWrite : Nat := 0x0239
/-- DEDUCED, log entry 19. -/
def collPost : Nat := 0x0240
def memPoison : Nat := 0x0301
def memScratchUe : Nat := 0x0302
def memDescriptor : Nat := 0x0303
def memStackUe : Nat := 0x0304
def memRepaired : Nat := 0x0305
def memRaddRefused : Nat := 0x0306
def memSparesLow : Nat := 0x0307
def memSparesOut : Nat := 0x0308
def memStackFailed : Nat := 0x0309
def memHostRange : Nat := 0x030A
def fabLinkDown : Nat := 0x0401
def fabLinkLost : Nat := 0x0402
def fabLinkUp : Nat := 0x0403
def fabNbrUnplanned : Nat := 0x0404
def fabNbrAbsent : Nat := 0x0405
def fabNbrBypassed : Nat := 0x0406
def fabLanesReduced : Nat := 0x0407
def fabRecableBusy : Nat := 0x0409
def fabRbInvalid : Nat := 0x040A
def fabQuiesceTimeout : Nat := 0x040B
def fabPostcodeUnset : Nat := 0x040C
def collResend : Nat := 0x0410
/-- DEDUCED, log entry 19. -/
def collAbort : Nat := 0x0411
def collPeerAbort : Nat := 0x0412
def collStepTimeout : Nat := 0x0413
def optLaneFailed : Nat := 0x0501
def optLaneSpared : Nat := 0x0502
def optLaneDropped : Nat := 0x0503
def optMarginShort : Nat := 0x0504
def optWrongLambda : Nat := 0x0505
def optRelockFailed : Nat := 0x0506
def optLaserHandover : Nat := 0x0507
def optLaserNoSpare : Nat := 0x0508
def optLaserFailed : Nat := 0x0509
def optElemTrip : Nat := 0x050A
def optSteerBusy : Nat := 0x050B
def optSteerInvalid : Nat := 0x050C
def srvLoopClosed : Nat := 0x0601
def srvParamInvalid : Nat := 0x0602
def srvCloseInvalid : Nat := 0x0603
def srvTrip : Nat := 0x0604
def srvInOverrun : Nat := 0x0605
def srvInStuck : Nat := 0x0606
def srvSpHold : Nat := 0x0607
def srvCapBusy : Nat := 0x0608
def srvColdOpen : Nat := 0x0609
def srvOutHold : Nat := 0x060A
def timeIncrRange : Nat := 0x0701
def timeServoOwns : Nat := 0x0702
def timeStepRefused : Nat := 0x0703
def timeHoldover : Nat := 0x0710
def timeDomainSwitch : Nat := 0x0711
def timeSwitchRefused : Nat := 0x0712
def timeLocked : Nat := 0x0713
def timeNbrDisagree : Nat := 0x0714
def regUnmapped : Nat := 0x0801
def regLocked : Nat := 0x0802
def regAbsent : Nat := 0x0803
def regReadOnly : Nat := 0x0804
def ctrSessionUnknown : Nat := 0x0810
def ctrAuthFailed : Nat := 0x0811
def ctrReplay : Nat := 0x0813
def ctrNotPermitted : Nat := 0x0814
def ctrSessionsFull : Nat := 0x0815
def ctrMalformed : Nat := 0x0816
def ctrCommandUnknown : Nat := 0x0817
def hubStandby : Nat := 0x0818
def ctrStageBusy : Nat := 0x0819
def hubFailover : Nat := 0x0820
def hubColdTakeover : Nat := 0x0821
def hubUnsync : Nat := 0x0822
def hubSync : Nat := 0x0823
def hubLeaseConflict : Nat := 0x0824
def hubLeaseLapsed : Nat := 0x0825
def fwImageBad : Nat := 0x0828
def fwBusy : Nat := 0x0829
def fwNotSync : Nat := 0x082A
def fwUpdated : Nat := 0x082B
def fwRecovery : Nat := 0x082C
def recBoot : Nat := 0x0830
def recorderDegraded : Nat := 0x0831
def recSuppressed : Nat := 0x0832
def recMirrorGap : Nat := 0x0833
def recRecovered : Nat := 0x0834
def dbgDenied : Nat := 0x0838
def dbgNotStopped : Nat := 0x0839
def dbgWrite : Nat := 0x083A
def frameLate : Nat := 0x08A0
def frameUnmatched : Nat := 0x08A1
def pwrBrake : Nat := 0x08A2
def thermHigh : Nat := 0x08A3
def thermShutdown : Nat := 0x08A4
def ageEolNear : Nat := 0x08A5
def pwrCapRange : Nat := 0x08A6
def calTimeout : Nat := 0x08B0
def calQuality : Nat := 0x08B1
def calAbandoned : Nat := 0x08B2
def calItemFailed : Nat := 0x08B3
def calStarved : Nat := 0x08B4
def calRefMismatch : Nat := 0x08B5
def calRestoreBad : Nat := 0x08B6
def elecRefclkLost : Nat := 0x08C0
def elecInputDip : Nat := 0x08C1
def elecInputRange : Nat := 0x08C2
def secRetFallback : Nat := 0x0901
def secKeyDenied : Nat := 0x0902
def secKeyInvalid : Nat := 0x0903
def secLcDenied : Nat := 0x0904
def secLcChanged : Nat := 0x0905
def secGrantBad : Nat := 0x0906
def secTimeUntrusted : Nat := 0x0907
def secGrantAccepted : Nat := 0x0908
def secGrantEnded : Nat := 0x0909
def secAttBusy : Nat := 0x090A
def secSvnHeld : Nat := 0x090C
end C

/-! Event codes (R508). -/
namespace Ev
def issueBusy : Nat := 0x000
def stallPost : Nat := 0x001
def stallCollect : Nat := 0x002
def stallStack : Nat := 0x003
def tensorBusy : Nat := 0x010
def tensorMac : Nat := 0x011
def vectorBusy : Nat := 0x012
def vectorElem : Nat := 0x013
def operandCvt : Nat := 0x014
def arithNan : Nat := 0x020
def arithInf : Nat := 0x021
def arithSat : Nat := 0x022
def arithNanToInt : Nat := 0x023
def arithUnderflow : Nat := 0x024
def arithSrDraw : Nat := 0x025
def deltaSent : Nat := 0x030
def deltaSuppressed : Nat := 0x031
def keyframeSent : Nat := 0x032
def specCheckpoint : Nat := 0x033
def specRollback : Nat := 0x034
def specPageSave : Nat := 0x035
def specHeldWrite : Nat := 0x036
def scrCe : Nat := 0x040
def scrUe : Nat := 0x041
def meshHold : Nat := 0x100
def edgeHold : Nat := 0x101
def stkQueueFull : Nat := 0x102
def hopRetry : Nat := 0x110
def hopPersist : Nat := 0x111
def stkCe : Nat := 0x112
def stkUe : Nat := 0x113
def stkRepair : Nat := 0x114
def stkDisturb : Nat := 0x115
def stkCvtSkipped : Nat := 0x116
def raddRefused : Nat := 0x117
def collResent : Nat := 0x120
def collDup : Nat := 0x121
def portCreditWait : Nat := 0x200
def mioraWordErr : Nat := 0x201
def mioraFecCorr : Nat := 0x210
def mioraFecUncorr : Nat := 0x211
def mioraReplay : Nat := 0x212
def mioraTilesLost : Nat := 0x213
def laneSetChange : Nat := 0x214
def fwdTiles : Nat := 0x215
def routeAlt : Nat := 0x216
def srvNumSat : Nat := 0x300
def srvStreamDiscard : Nat := 0x301
def srvPostSkip : Nat := 0x302
def hostTileRefused : Nat := 0x303
end Ev
end Sys2Proof.Machine
end

