-- ==== Sys2Proof/Machine/Bits.lean ====
section
/-!
DEFINITION. Bit fields (R9), little-endian byte order (R8, R108) and byte-string helpers, each said once.
-/
namespace Sys2Proof.Machine
open Sys2Proof

/-- Bits `lsb + w - 1` down to `lsb` of a natural number (R9). -/
def fieldOf (x lsb w : Nat) : Nat := (x >>> lsb) % 2 ^ w

/-- `x` with bits `lsb + w - 1` down to `lsb` replaced by `v` (R9). -/
def setField (x lsb w v : Nat) : Nat :=
  (x % 2 ^ lsb) + (v % 2 ^ w) * 2 ^ lsb + (x >>> (lsb + w)) * 2 ^ (lsb + w)

/-- One bit as a Bool. -/
def bitAt (x n : Nat) : Bool := fieldOf x n 1 == 1

/-- A flag as 0 or 1. -/
def b2n (b : Bool) : Nat := if b then 1 else 0

/-- Two's complement value of the low `w` bits (R8, R149). -/
def signedOf (w x : Nat) : Int :=
  if x % 2 ^ w < 2 ^ (w - 1) then (x % 2 ^ w : Nat) else (x % 2 ^ w : Nat) - (2 : Int) ^ w

/-- Little-endian value of a byte string (R8). -/
def leNat : List Byte → Nat
  | [] => 0
  | b :: bs => b.toNat + 256 * leNat bs

/-- The `n` little-endian bytes of a value (R8). -/
def leBytes : Nat → Nat → List Byte
  | 0, _ => []
  | n + 1, v => BitVec.ofNat 8 v :: leBytes n (v / 256)

/-- `n` bytes of a byte string from `off`; bytes beyond its end are absent. -/
def slice (bs : List Byte) (off n : Nat) : List Byte := (bs.drop off).take n

/-- The little-endian number in `n` bytes at `off` (R8). -/
def fieldLE (bs : List Byte) (off n : Nat) : Nat := leNat (slice bs off n)

/-- A byte string padded with 0x00, or cut, to exactly `n` bytes. -/
def padTo (n : Nat) (bs : List Byte) : List Byte := (bs ++ List.replicate (n - bs.length) 0#8).take n

/-- A byte string with `new` written over it from `off`. -/
def splice (bs : List Byte) (off : Nat) (new : List Byte) : List Byte :=
  bs.take off ++ new ++ bs.drop (off + new.length)

/-- Whether every byte is 0x00 (reserved bytes, R73). -/
def allZero (bs : List Byte) : Bool := bs.all (· == 0#8)

/-- The 32-bit words of a byte string, little-endian (R8). -/
def wordsOf : List Byte → List Word
  | b0 :: b1 :: b2 :: b3 :: r => BitVec.ofNat 32 (leNat [b0, b1, b2, b3]) :: wordsOf r
  | _ => []

/-- Ceiling division. -/
def ceilDiv (a b : Nat) : Nat := (a + (b - 1)) / b

/-- A number brought into a closed range: the nearer bound is taken (R261, R515). -/
def clampNat (lo hi v : Nat) : Nat := if v < lo then lo else if hi < v then hi else v

/-- `a` counts as later than `b`, sequence and frame numbers compared modulo 2^32 (R47). -/
def laterThan (a b : Word) : Bool := 1 ≤ (a - b).toNat && (a - b).toNat ≤ 2 ^ 31 - 1

/-- A saturating 32-bit counter increment (R69, R261). -/
def satInc (bits n by_ : Nat) : Nat := min (n + by_) (2 ^ bits - 1)

/-- The text of an ASCII string as bytes. -/
def asciiBytes (s : String) : List Byte := s.toList.map (fun c => BitVec.ofNat 8 c.toNat)

/-- Update of the entry at `i` of a list, nothing where there is none. -/
def modAt {α : Type} (l : List α) (i : Nat) (f : α → α) : List α :=
  match l[i]? with
  | some a => l.set i (f a)
  | none => l

/-- The elements with their positions. -/
def withIdx {α : Type} (l : List α) : List (Nat × α) := (List.range l.length).zip l

/-- The greatest of a list of numbers, 0 for none. -/
def maxOf (l : List Nat) : Nat := l.foldl max 0

/-- floor(log2 n), 0 for 0. -/
def log2 (n : Nat) : Nat := Nat.log2 n

/-- CRC-32C of bytes. -/
def crc32c (bs : List Byte) : Word :=
  let step (x : Word) : Word := if x.getLsbD 0 then (x >>> 1) ^^^ 0x82F63B78#32 else x >>> 1
  let byte (x : Word) (b : Byte) : Word :=
    let y := x ^^^ BitVec.setWidth 32 b
    step (step (step (step (step (step (step (step y)))))))
  bs.foldl byte 0xFFFFFFFF#32 ^^^ 0xFFFFFFFF#32

end Sys2Proof.Machine
end

