-- ==== Sys2Proof/Machine/SMap.lean ====
section
/-!
DEFINITION. Sparse maps from numbers, kept in ONE canonical form: keys strictly rising, and no entry equal to what an
unlisted key reads as. Memory, register values, counters and every other array of the machine are held this way, so
that equal contents are equal data.
-/
namespace Sys2Proof.Machine

/-- A sparse map as plain data. -/
abbrev SMap (α : Type) := List (Nat × α)

/-- The entry listed at a key. -/
def SMap.find {α : Type} : SMap α → Nat → Option α
  | [], _ => none
  | (k, v) :: r, i => if i = k then some v else SMap.find r i

/-- The value at a key; `d` where none is listed. -/
def SMap.getD {α : Type} (m : SMap α) (i : Nat) (d : α) : α := (SMap.find m i).getD d

/-- List `v` at key `i`. -/
def SMap.insert {α : Type} : SMap α → Nat → α → SMap α
  | [], i, v => [(i, v)]
  | (k, w) :: r, i, v => if i < k then (i, v) :: (k, w) :: r else if i = k then (i, v) :: r else (k, w) :: SMap.insert r i v

/-- Drop the entry at key `i`. -/
def SMap.erase {α : Type} : SMap α → Nat → SMap α
  | [], _ => []
  | (k, w) :: r, i => if i = k then SMap.erase r i else (k, w) :: SMap.erase r i

/-- Make key `i` read as `v`, where an unlisted key reads as `d`. -/
def SMap.setD {α : Type} [DecidableEq α] (m : SMap α) (i : Nat) (v d : α) : SMap α :=
  if v = d then SMap.erase m i else SMap.insert m i v

/-- Every key of the list is above `lo`, and keys strictly rise. -/
def SMap.risingFrom {α : Type} : Nat → SMap α → Bool
  | _, [] => true
  | lo, (k, _) :: r => decide (lo ≤ k) && SMap.risingFrom (k + 1) r

/-- The canonical form, for a map whose unlisted keys read as `d`. -/
def SMap.wf {α : Type} [DecidableEq α] (d : α) (m : SMap α) : Bool :=
  SMap.risingFrom 0 m && m.all (fun e => decide (e.2 ≠ d))

end Sys2Proof.Machine
end

