-- ==== Sys2Proof/Machine/Mem.lean ====
section
/-!
DEFINITION. Words of memory and their code (R228 to R234, R249): the check symbols, the classes of a word, memory as a
sorted list of bytes with the words whose stored check field differs from the computed one, and tiles as slot bytes.
-/
namespace Sys2Proof.Machine
open Sys2Proof

/-! ### RS(18,16) over GF(2^8) (R228) -/

/-- Multiplication by the primitive element 0x02 (R228). -/
def gfTimes2 (x : Nat) : Nat := if 2 * x < 256 then 2 * x else (2 * x) ^^^ 0x11D
/-- Multiplication in GF(2^8), by the bits of the second factor. -/
def gfMul (x y : Nat) : Nat :=
  (List.range 8).foldl (fun acc i =>
    let d := gfTimes2 acc
    if bitAt y (7 - i) then d ^^^ x else d) 0
/-- Powers of the primitive element. -/
def gfPow2 (n : Nat) : Nat := (List.range n).foldl (fun x _ => gfTimes2 x) 1

/-- The check field of a word: CHK[7:0] = c16 and CHK[15:8] = c17 (R228), by Horner's rule modulo
x^2 + 0x03·x + 0x02. (DEDUCED, log entry 8) -/
def checkField (bytes : List Byte) : BitVec 16 :=
  let r := bytes.foldl (fun (p : Nat × Nat) b =>
    -- (hi·x + lo)·x + b·x^2, reduced: x^2 = 0x03·x + 0x02
    let t := p.1 ^^^ b.toNat
    (gfMul t 3 ^^^ p.2, gfMul t 2)) (0, 0)
  BitVec.ofNat 16 (r.1 + 256 * r.2)

/-- Classes of a word (R229). -/
inductive WordClass where
  | clean
  | single (sym val : Nat)
  | poison
  | uncorrectable
  deriving DecidableEq, Repr

/-- The syndromes depend only on how the stored check field differs from the computed one: S0 = d16 + d17 and
S1 = α·d16 + d17 (R229). (DEDUCED, log entry 8) -/
def classify (d : BitVec 16) : WordClass :=
  let d16 := d.toNat % 256
  let d17 := d.toNat / 256
  let s0 := d16 ^^^ d17
  let s1 := gfTimes2 d16 ^^^ d17
  if s0 = 0 ∧ s1 = 0 then .clean
  else if s0 = 0 ∧ s1 = 0xF2 then .poison
  else match (List.range 18).find? (fun i => s0 != 0 && s1 == gfMul s0 (gfPow2 (17 - i))) with
    | some i => .single i s0
    | none => .uncorrectable

/-- Uncorrectable in the sense of R230: poison-marked words included. -/
def WordClass.bad : WordClass → Bool
  | .poison => true
  | .uncorrectable => true
  | _ => false

/-- The difference of a poison-marked word's check field (R230). (DEDUCED, log entry 8) -/
def poisonMark : BitVec 16 := 0xA5A5#16

/-- A 16-byte word with `v` flipped in byte `i`. -/
def flipByte (bytes : List Byte) (i : Nat) (v : Nat) : List Byte := modAt bytes i (fun b => b ^^^ BitVec.ofNat 8 v)

/-- The bytes and the check difference after symbol `sym` of a word is hit with `v`: the stored check field of the
other bytes stands, so the difference takes in the code of the change (R228). -/
def upsetWord (bytes : List Byte) (d : BitVec 16) (sym v : Nat) : List Byte × BitVec 16 :=
  if sym < 16 then
    (flipByte bytes sym v, d ^^^ checkField (flipByte (List.replicate 16 0#8) sym v))
  else if sym = 16 then (bytes, d ^^^ BitVec.ofNat 16 (v % 256))
  else (bytes, d ^^^ BitVec.ofNat 16 (256 * (v % 256)))

/-! ### Memory -/

/-- A memory: its bytes, sorted, an unlisted byte reading 0 (the value a wipe leaves, R256), and by word number (address
÷ 16) the differences of the check fields that do not agree with their bytes. -/
structure Mem where
  bytes : List Host.Cell
  chk : SMap (BitVec 16)
  deriving DecidableEq, Repr

/-- What an unlisted byte reads as: wiped (R256). (DESIGN CHOICE, log entry 7) -/
def Mem.unlisted : Byte := 0#8
/-- A wiped memory (R256). (DESIGN CHOICE, log entry 7) -/
def Mem.wiped : Mem := ⟨[], []⟩
/-- The canonical form: addresses strictly rising, no entry equal to what an unlisted address reads as. (DEDUCED, log entry 8) -/
def Mem.wf (m : Mem) : Bool := SMap.wf Mem.unlisted m.bytes && SMap.wf (0#16) m.chk

/-- One byte. (DESIGN CHOICE, log entry 7) -/
def Mem.byte (m : Mem) (a : Nat) : Byte := SMap.getD m.bytes a Mem.unlisted
/-- The check difference of a word. (DEDUCED, log entry 8) -/
def Mem.diff (m : Mem) (w : Nat) : BitVec 16 := SMap.getD m.chk w 0#16

/-- `n` bytes from `a` (R242: runs are contiguous). -/
def Mem.read (m : Mem) (a n : Nat) : List Byte := (List.range n).map (fun i => m.byte (a + i))

/-- One byte written, the canonical form kept. -/
def Mem.put (m : Mem) (a : Nat) (b : Byte) : Mem := { m with bytes := SMap.setD m.bytes a b Mem.unlisted }
/-- The check difference of a word set. -/
def Mem.setDiff (m : Mem) (w : Nat) (d : BitVec 16) : Mem := { m with chk := SMap.setD m.chk w d 0#16 }
/-- Bytes written from `a` on, check fields left as they are. -/
def Mem.putBytes : Mem → Nat → List Byte → Mem
  | m, _, [] => m
  | m, a, b :: bs => Mem.putBytes (m.put a b) (a + 1) bs

/-- The words a run of bytes touches. -/
def wordsIn (a n : Nat) : List Nat := if n = 0 then [] else (List.range ((a + n - 1) / 16 - a / 16 + 1)).map (· + a / 16)

/-- Bytes written with new check fields (R232, R237): a word wholly covered becomes valid; a word partly covered that
was correctable becomes valid, and one that was uncorrectable becomes poison-marked with the bytes written. -/
def Mem.store (m : Mem) (a : Nat) (bs : List Byte) : Mem :=
  let m1 := (wordsIn a bs.length).foldl (fun m w =>
    if a ≤ 16 * w ∧ 16 * w + 16 ≤ a + bs.length then m.setDiff w 0#16
    else match classify (m.diff w) with
      | .clean => m
      | .single i v =>
        let m' := if i < 16 then m.put (16 * w + i) (m.byte (16 * w + i) ^^^ BitVec.ofNat 8 v) else m
        m'.setDiff w 0#16
      | _ => m.setDiff w poisonMark) m
  m1.putBytes a bs

/-- Words written together with their check differences, carried unchanged (R232). -/
def Mem.storeCarried (m : Mem) (a : Nat) (bs : List Byte) (chk : List (Nat × BitVec 16)) : Mem :=
  let m1 := m.putBytes a bs
  (wordsIn a bs.length).foldl (fun m w => m.setDiff w (SMap.getD chk (w - a / 16) 0#16)) m1

/-- A run of bytes wiped to zeros with valid check fields (R256). -/
def Mem.wipe (m : Mem) (a n : Nat) : Mem :=
  ⟨m.bytes.filter (fun e => e.1 < a || a + n ≤ e.1),
   m.chk.filter (fun e => 16 * e.1 < a || a + n ≤ 16 * e.1)⟩

/-- `n` bytes from `a` of one memory carried with their check fields to `b` of another, on multiples of 16. -/
def Mem.carry (src : Mem) (a n : Nat) (dst : Mem) (b : Nat) : Mem :=
  let d := dst.wipe b n
  ⟨(src.bytes.filter (fun e => a ≤ e.1 && decide (e.1 < a + n))).foldl (fun m e => SMap.setD m (e.1 - a + b) e.2 Mem.unlisted) d.bytes,
   (src.chk.filter (fun e => a ≤ 16 * e.1 && decide (16 * e.1 < a + n))).foldl (fun m e => SMap.setD m (e.1 - a / 16 + b / 16) e.2 0#16) d.chk⟩

/-- What a correcting reader finds in a run of words (R234, R249): the memory with corrected words written back, how
words it corrected, and the words it could not correct with whether each was already poison-marked. -/
structure Scrub where
  mem : Mem
  fixed : List Nat
  bad : List (Nat × Bool)
  deriving DecidableEq, Repr

/-- A correcting read of every word that a run of bytes touches (R234). (DEDUCED, log entry 8) -/
def Mem.correct (m : Mem) (a n : Nat) : Scrub :=
  -- only words with a listed difference can need anything
  ((m.chk.filter (fun e => a / 16 ≤ e.1 && decide (16 * e.1 < a + n))).foldl (fun (s : Scrub) e =>
    match classify e.2 with
    | .clean => s
    | .single i v =>
      let m' := if i < 16 then s.mem.put (16 * e.1 + i) (s.mem.byte (16 * e.1 + i) ^^^ BitVec.ofNat 8 v) else s.mem
      ⟨m'.setDiff e.1 0#16, s.fixed ++ [e.1], s.bad⟩
    | .poison => { s with bad := s.bad ++ [(e.1, true)] }
    | .uncorrectable => { s with bad := s.bad ++ [(e.1, false)] }) ⟨m, [], []⟩)

/-- A word poison-marked (R230). -/
def Mem.poisonWord (m : Mem) (w : Nat) : Mem := m.setDiff w poisonMark
/-- A memory read through its corrector: single errors corrected, uncorrectable words poison-marked; how many of each. -/
structure Scrubbed where
  mem : Mem
  ce : Nat
  ue : Nat
def Mem.scrub (m : Mem) (a n : Nat) : Scrubbed :=
  let r := m.correct a n
  ⟨r.bad.foldl (fun m e => m.poisonWord e.1) r.mem, r.fixed.length, (r.bad.filter (fun e => !e.2)).length⟩
/-- A physical upset of a stored word. (DEDUCED, log entry 8) -/
def Mem.upset (m : Mem) (u : Upset) : Mem :=
  let r := upsetWord (m.read (16 * u.word) 16) (m.diff u.word) u.sym u.val.toNat
  (m.putBytes (16 * u.word) r.1).setDiff u.word r.2

/-! ### Tiles as slot bytes (R40, R41, R144) -/

/-- Bytes of a slot (R40). -/
def slotBytes : Nat := 4256

end Sys2Proof.Machine
namespace Sys2Proof
open Sys2Proof.Machine

/-- Header bytes (R41). -/
def TileHeader.bytes (h : TileHeader) : List Byte :=
  leBytes 4 h.streamId.toNat ++ leBytes 4 h.seq.toNat ++ leBytes 4 h.frame.toNat ++ [h.format, h.shape] ++
  leBytes 2 h.flags.toNat ++ leBytes 4 h.postmark.toNat ++ leBytes 2 h.tileScale.toNat ++ leBytes 2 h.len.toNat ++
  leBytes 4 h.index.toNat ++ leBytes 4 h.origin.toNat
/-- The header held in 32 bytes (R41). -/
def TileHeader.ofBytes (b : List Byte) : TileHeader :=
  ⟨BitVec.ofNat 32 (fieldLE b 0 4), BitVec.ofNat 32 (fieldLE b 4 4), BitVec.ofNat 32 (fieldLE b 8 4),
   BitVec.ofNat 8 (fieldLE b 12 1), BitVec.ofNat 8 (fieldLE b 13 1), BitVec.ofNat 16 (fieldLE b 14 2),
   BitVec.ofNat 32 (fieldLE b 16 4), BitVec.ofNat 16 (fieldLE b 20 2), BitVec.ofNat 16 (fieldLE b 22 2),
   BitVec.ofNat 32 (fieldLE b 24 4), BitVec.ofNat 32 (fieldLE b 28 4)⟩
/-- The slot image of a tile (R40). -/
def Tile.slot (t : Tile) : List Byte := t.hdr.bytes ++ padTo 4096 t.payload ++ padTo 128 t.scale
/-- The tile in a slot image. -/
def Tile.ofSlot (b : List Byte) (chk : List (Nat × BitVec 16)) : Tile :=
  ⟨TileHeader.ofBytes b, slice b 32 4096, slice b 4128 128, chk⟩
/-- An all-zero tile. -/
def Tile.zero : Tile := Tile.ofSlot (List.replicate slotBytes 0#8) []

/-! FLAGS bits (R42). -/
def flagProvisional : Nat := 0
def flagDelta : Nat := 1
def flagKeyframe : Nat := 2
def flagLast : Nat := 3
def flagPoison : Nat := 4
def flagResend : Nat := 5
def TileHeader.flag (h : TileHeader) (n : Nat) : Bool := h.flags.getLsbD n
def TileHeader.setFlag (h : TileHeader) (n : Nat) (b : Bool) : TileHeader :=
  { h with flags := BitVec.ofNat 16 (setField h.flags.toNat n 1 (b2n b)) }
def Tile.setFlag (t : Tile) (n : Nat) (b : Bool) : Tile := { t with hdr := t.hdr.setFlag n b }

/-- The values of a tile's elements under its header (R44, R45, R108 to R117); none where its format is not listed. -/
def Tile.poisoned (t : Tile) : Bool := t.hdr.flag flagPoison

end Sys2Proof
namespace Sys2Proof.Machine
open Sys2Proof

/-- The tile a correcting reader delivers from a slot at `a` (R249): corrected words corrected, uncorrectable words
poison-marked, POISON set in the header where there is any, and header word 0's check field recomputed. -/
structure SlotRead where
  tile : Tile
  mem : Mem
  fixed : List Nat
  bad : List (Nat × Bool)
  deriving DecidableEq, Repr

/-- POISON set in the header of a slot, the check field of header word 0 computed again (R249). -/
def Mem.setPoison (m : Mem) (a : Nat) : Mem :=
  let h := TileHeader.ofBytes (m.read a 32)
  (m.putBytes (a + 14) (leBytes 2 (h.setFlag flagPoison true).flags.toNat)).setDiff (a / 16) 0#16
/-- Read a slot through the corrector (R234, R249): uncorrectable words are poison-marked in storage and in the tile, and
POISON is set in the tile's header; `keep` sets it in the slot too, as for a scratch slot read by POST, TCOPY or STASH. -/
def Mem.readSlot (m : Mem) (a : Nat) (keep : Bool) : SlotRead :=
  let s := m.correct a slotBytes
  let m1 := s.bad.foldl (fun m e => m.poisonWord e.1) s.mem
  let m2 := if s.bad.isEmpty then m1 else m1.setPoison a
  let chk := (m2.chk.filter (fun e => a / 16 ≤ e.1 && decide (16 * e.1 < a + slotBytes))).map (fun e => (e.1 - a / 16, e.2))
  ⟨Tile.ofSlot (m2.read a slotBytes) chk, if keep then m2 else m1, s.fixed, s.bad⟩

/-- Write a tile into a slot with the check fields it carries (R232). -/
def Mem.writeSlot (m : Mem) (a : Nat) (t : Tile) : Mem := m.storeCarried a t.slot t.chk

end Sys2Proof.Machine
end

