-- ==== Sys2Proof/Machine/RegMap.lean ====
section
/-!
DEFINITION. The register map of the module: every register of the tables of spec/ (R33, R69, R106, R174, R225, R261,
R286, R320, R356, R392, R410, R444, R477, R478, R515 to R518, R546, R571), with its block (R14), offset, index
dimensions, and each field's place, access code (R18), reset value and reset kind (R21) and stated range.
Reserved bits belong to no field and read 0 (R17).
-/
namespace Sys2Proof.Machine

/-- Access codes of R18. -/
inductive Access where
  | ro | rw | rw1c | wo | rwl
  deriving DecidableEq, Repr

/-- Reset kinds of R21. -/
inductive ResetKind where
  | cold | warm | kept
  deriving DecidableEq, Repr

/-- Register blocks of R14. -/
inductive Block where
  | identity | pace | bundles | tally | perf | recorder | time | eth | cal | servo | red | sec | die | engine | fabric
  deriving DecidableEq, Repr

/-- The registers, by the names of their tables. -/
inductive Reg where
  | idPart | idPop | idSerialLo | idSerialHi | idCells | dieDlqStat | dieDlqDiscard | dieDlqTotal | bndCtl
  | bndStat | bndMapGen | bndEvent | bndRetireThresh | bndCells | bndSlotStat | bndRetired | dieFltStat | dieFltPc
  | dieFltInsn | dieFltDetail | dltKeyreq | dltEvent | spcEvent | spcRollbacks | memCtl | memStkStat | memStkCe
  | memStkUe | memStkUeAddrLo | memStkUeAddrHi | memStkRepair | memStkDisturb | memScrStat | memScrCe | memScrUe
  | talCtl | talSel | talValue | talStat | talMulti | talFaults | talSet | talRehome | talEpochEnd | talEvent
  | paceCtl | paceVlim | paceFixed | paceHyst | pwrCap | pwrIn | pwrInP | pwrStat | pwrEvent | pwrEnergyLo
  | pwrEnergyHi | thermCtl | thermMax | ageCtl | ageModule | ageKind | paceFrmOntime | paceFrmLate | paceFrmSlack
  | paceFrmMin | domStat | domTemp | domRate | domAge | optCtl | optCtl2 | optStat | optEvent | optSteer | optPath
  | optLaser | optLaneStat | optElemSel | optElemStat | optElemTrips | fabCtl | fabPostcode | fabStat | fabEvent
  | fabRecable | fabRbAddr | fabRbData | fabRbActive | fabRbCtl | fabRbErr | fabPort | fabExpect | fabBypass
  | fabFar | fabTof | calCtl | calStat | calEvent | calRefFault | calTrig | calSel | calItemStat | calItemQual
  | calData | calCmd | srvCtl | srvStat | srvEvent | srvSel | srvParam | srvCmd | srvObjStat | tbCtl | tbIncrLo
  | tbIncrHi | tbSecLo | tbSecHi | tbNs | tbFrac | tbAdj | tbStat | tbQual | tbEvent | ptpLim | ptpHold | ptpBound
  | tbNbrWorst | ptpCfg | ptpOfs | ptpMpd | ethCtl | ethStat | ethIp4 | ethIp6 | ethTsc | ctrCfg | ctrStat
  | redStat | redHealth | redCtl | redEvent | redFault | redFwCmd | redFwStat | redFwVer | redOptimeLo
  | redOptimeHi | redCycles | recCtl | recStat | recOldest | recNewest | recCursor | recWstat | recFindSLo
  | recFindSHi | recFindNs | recWin | pctSel | pctValLo | pctValHi | pctClr | pctSmpEvt | pctSmpCtl | pctSmpStat
  | pctSmpPop | pctSmpWin | dieDbgSel | dieDbgLo | dieDbgHi | dieDbgCmd | secCtl | secStat | secResetCause
  | secRetSrc | secRetCmd | secLcCmd | secKeySel | secKeyW | secKeyCmd | secIdPub | secGrantPtr | secGrantData
  | secGrantCmd | secAttNonce | secAttCtl | secAttStat | secAttWin | elecStat | elecVmin
  deriving DecidableEq, Repr

/-- One field: its register, place, access code, reset value and kind, and the range a written value is brought into. -/
structure Fld where
  reg : Reg
  lsb : Nat
  width : Nat
  acc : Access
  rst : Nat
  kind : ResetKind
  lo : Nat
  hi : Nat
  deriving DecidableEq, Repr

/-- The block a register lies in (R14). -/
def Reg.block : Reg → Block
  | .idPart => .identity
  | .idPop => .identity
  | .idSerialLo => .identity
  | .idSerialHi => .identity
  | .idCells => .identity
  | .dieDlqStat => .die
  | .dieDlqDiscard => .die
  | .dieDlqTotal => .die
  | .bndCtl => .bundles
  | .bndStat => .bundles
  | .bndMapGen => .bundles
  | .bndEvent => .bundles
  | .bndRetireThresh => .bundles
  | .bndCells => .bundles
  | .bndSlotStat => .bundles
  | .bndRetired => .bundles
  | .dieFltStat => .die
  | .dieFltPc => .die
  | .dieFltInsn => .die
  | .dieFltDetail => .die
  | .dltKeyreq => .bundles
  | .dltEvent => .bundles
  | .spcEvent => .bundles
  | .spcRollbacks => .bundles
  | .memCtl => .die
  | .memStkStat => .die
  | .memStkCe => .die
  | .memStkUe => .die
  | .memStkUeAddrLo => .die
  | .memStkUeAddrHi => .die
  | .memStkRepair => .die
  | .memStkDisturb => .die
  | .memScrStat => .die
  | .memScrCe => .die
  | .memScrUe => .die
  | .talCtl => .tally
  | .talSel => .tally
  | .talValue => .tally
  | .talStat => .tally
  | .talMulti => .tally
  | .talFaults => .tally
  | .talSet => .tally
  | .talRehome => .tally
  | .talEpochEnd => .tally
  | .talEvent => .tally
  | .paceCtl => .pace
  | .paceVlim => .pace
  | .paceFixed => .pace
  | .paceHyst => .pace
  | .pwrCap => .pace
  | .pwrIn => .pace
  | .pwrInP => .pace
  | .pwrStat => .pace
  | .pwrEvent => .pace
  | .pwrEnergyLo => .pace
  | .pwrEnergyHi => .pace
  | .thermCtl => .pace
  | .thermMax => .pace
  | .ageCtl => .pace
  | .ageModule => .pace
  | .ageKind => .pace
  | .paceFrmOntime => .pace
  | .paceFrmLate => .pace
  | .paceFrmSlack => .pace
  | .paceFrmMin => .pace
  | .domStat => .pace
  | .domTemp => .pace
  | .domRate => .pace
  | .domAge => .pace
  | .optCtl => .engine
  | .optCtl2 => .engine
  | .optStat => .engine
  | .optEvent => .engine
  | .optSteer => .engine
  | .optPath => .engine
  | .optLaser => .engine
  | .optLaneStat => .engine
  | .optElemSel => .engine
  | .optElemStat => .engine
  | .optElemTrips => .engine
  | .fabCtl => .fabric
  | .fabPostcode => .fabric
  | .fabStat => .fabric
  | .fabEvent => .fabric
  | .fabRecable => .fabric
  | .fabRbAddr => .fabric
  | .fabRbData => .fabric
  | .fabRbActive => .fabric
  | .fabRbCtl => .fabric
  | .fabRbErr => .fabric
  | .fabPort => .fabric
  | .fabExpect => .fabric
  | .fabBypass => .fabric
  | .fabFar => .fabric
  | .fabTof => .fabric
  | .calCtl => .cal
  | .calStat => .cal
  | .calEvent => .cal
  | .calRefFault => .cal
  | .calTrig => .cal
  | .calSel => .cal
  | .calItemStat => .cal
  | .calItemQual => .cal
  | .calData => .cal
  | .calCmd => .cal
  | .srvCtl => .servo
  | .srvStat => .servo
  | .srvEvent => .servo
  | .srvSel => .servo
  | .srvParam => .servo
  | .srvCmd => .servo
  | .srvObjStat => .servo
  | .tbCtl => .time
  | .tbIncrLo => .time
  | .tbIncrHi => .time
  | .tbSecLo => .time
  | .tbSecHi => .time
  | .tbNs => .time
  | .tbFrac => .time
  | .tbAdj => .time
  | .tbStat => .time
  | .tbQual => .time
  | .tbEvent => .time
  | .ptpLim => .time
  | .ptpHold => .time
  | .ptpBound => .time
  | .tbNbrWorst => .time
  | .ptpCfg => .time
  | .ptpOfs => .time
  | .ptpMpd => .time
  | .ethCtl => .eth
  | .ethStat => .eth
  | .ethIp4 => .eth
  | .ethIp6 => .eth
  | .ethTsc => .eth
  | .ctrCfg => .eth
  | .ctrStat => .eth
  | .redStat => .red
  | .redHealth => .red
  | .redCtl => .red
  | .redEvent => .red
  | .redFault => .red
  | .redFwCmd => .red
  | .redFwStat => .red
  | .redFwVer => .red
  | .redOptimeLo => .red
  | .redOptimeHi => .red
  | .redCycles => .red
  | .recCtl => .recorder
  | .recStat => .recorder
  | .recOldest => .recorder
  | .recNewest => .recorder
  | .recCursor => .recorder
  | .recWstat => .recorder
  | .recFindSLo => .recorder
  | .recFindSHi => .recorder
  | .recFindNs => .recorder
  | .recWin => .recorder
  | .pctSel => .perf
  | .pctValLo => .perf
  | .pctValHi => .perf
  | .pctClr => .perf
  | .pctSmpEvt => .perf
  | .pctSmpCtl => .perf
  | .pctSmpStat => .perf
  | .pctSmpPop => .perf
  | .pctSmpWin => .perf
  | .dieDbgSel => .die
  | .dieDbgLo => .die
  | .dieDbgHi => .die
  | .dieDbgCmd => .die
  | .secCtl => .sec
  | .secStat => .sec
  | .secResetCause => .sec
  | .secRetSrc => .sec
  | .secRetCmd => .sec
  | .secLcCmd => .sec
  | .secKeySel => .sec
  | .secKeyW => .sec
  | .secKeyCmd => .sec
  | .secIdPub => .sec
  | .secGrantPtr => .sec
  | .secGrantData => .sec
  | .secGrantCmd => .sec
  | .secAttNonce => .sec
  | .secAttCtl => .sec
  | .secAttStat => .sec
  | .secAttWin => .sec
  | .elecStat => .pace
  | .elecVmin => .pace

/-- Offset of a register (its first instance) within its block. -/
def Reg.off : Reg → Nat
  | .idPart => 0x0
  | .idPop => 0x4
  | .idSerialLo => 0x8
  | .idSerialHi => 0xC
  | .idCells => 0x10
  | .dieDlqStat => 0x400
  | .dieDlqDiscard => 0x404
  | .dieDlqTotal => 0x408
  | .bndCtl => 0x0
  | .bndStat => 0x4
  | .bndMapGen => 0x8
  | .bndEvent => 0xC
  | .bndRetireThresh => 0x10
  | .bndCells => 0x20
  | .bndSlotStat => 0x100
  | .bndRetired => 0x200
  | .dieFltStat => 0x2000
  | .dieFltPc => 0x2004
  | .dieFltInsn => 0x2008
  | .dieFltDetail => 0x200C
  | .dltKeyreq => 0x400
  | .dltEvent => 0x404
  | .spcEvent => 0x408
  | .spcRollbacks => 0x40C
  | .memCtl => 0x800
  | .memStkStat => 0x810
  | .memStkCe => 0x814
  | .memStkUe => 0x818
  | .memStkUeAddrLo => 0x81C
  | .memStkUeAddrHi => 0x820
  | .memStkRepair => 0x824
  | .memStkDisturb => 0x828
  | .memScrStat => 0x850
  | .memScrCe => 0x854
  | .memScrUe => 0x858
  | .talCtl => 0x0
  | .talSel => 0x4
  | .talValue => 0x8
  | .talStat => 0xC
  | .talMulti => 0x10
  | .talFaults => 0x14
  | .talSet => 0x18
  | .talRehome => 0x1C
  | .talEpochEnd => 0x20
  | .talEvent => 0x24
  | .paceCtl => 0x0
  | .paceVlim => 0x4
  | .paceFixed => 0x8
  | .paceHyst => 0xC
  | .pwrCap => 0x10
  | .pwrIn => 0x14
  | .pwrInP => 0x18
  | .pwrStat => 0x1C
  | .pwrEvent => 0x20
  | .pwrEnergyLo => 0x24
  | .pwrEnergyHi => 0x28
  | .thermCtl => 0x2C
  | .thermMax => 0x30
  | .ageCtl => 0x34
  | .ageModule => 0x38
  | .ageKind => 0x40
  | .paceFrmOntime => 0x100
  | .paceFrmLate => 0x104
  | .paceFrmSlack => 0x108
  | .paceFrmMin => 0x10C
  | .domStat => 0x800
  | .domTemp => 0x804
  | .domRate => 0x808
  | .domAge => 0x80C
  | .optCtl => 0x0
  | .optCtl2 => 0x4
  | .optStat => 0x8
  | .optEvent => 0xC
  | .optSteer => 0x10
  | .optPath => 0x20
  | .optLaser => 0x40
  | .optLaneStat => 0x100
  | .optElemSel => 0x400
  | .optElemStat => 0x404
  | .optElemTrips => 0x408
  | .fabCtl => 0x0
  | .fabPostcode => 0x4
  | .fabStat => 0x8
  | .fabEvent => 0xC
  | .fabRecable => 0x10
  | .fabRbAddr => 0x20
  | .fabRbData => 0x24
  | .fabRbActive => 0x28
  | .fabRbCtl => 0x2C
  | .fabRbErr => 0x30
  | .fabPort => 0x100
  | .fabExpect => 0x1000
  | .fabBypass => 0x1004
  | .fabFar => 0x2000
  | .fabTof => 0x3000
  | .calCtl => 0x0
  | .calStat => 0x4
  | .calEvent => 0x8
  | .calRefFault => 0xC
  | .calTrig => 0x10
  | .calSel => 0x40
  | .calItemStat => 0x44
  | .calItemQual => 0x48
  | .calData => 0x4C
  | .calCmd => 0x50
  | .srvCtl => 0x0
  | .srvStat => 0x4
  | .srvEvent => 0x8
  | .srvSel => 0x10
  | .srvParam => 0x14
  | .srvCmd => 0x18
  | .srvObjStat => 0x1C
  | .tbCtl => 0x0
  | .tbIncrLo => 0x4
  | .tbIncrHi => 0x8
  | .tbSecLo => 0xC
  | .tbSecHi => 0x10
  | .tbNs => 0x14
  | .tbFrac => 0x18
  | .tbAdj => 0x1C
  | .tbStat => 0x20
  | .tbQual => 0x24
  | .tbEvent => 0x28
  | .ptpLim => 0x30
  | .ptpHold => 0x34
  | .ptpBound => 0x38
  | .tbNbrWorst => 0x3C
  | .ptpCfg => 0x100
  | .ptpOfs => 0x104
  | .ptpMpd => 0x108
  | .ethCtl => 0x0
  | .ethStat => 0x4
  | .ethIp4 => 0x8
  | .ethIp6 => 0x10
  | .ethTsc => 0x20
  | .ctrCfg => 0x400
  | .ctrStat => 0x404
  | .redStat => 0x0
  | .redHealth => 0x4
  | .redCtl => 0xC
  | .redEvent => 0x10
  | .redFault => 0x14
  | .redFwCmd => 0x20
  | .redFwStat => 0x24
  | .redFwVer => 0x28
  | .redOptimeLo => 0x30
  | .redOptimeHi => 0x34
  | .redCycles => 0x38
  | .recCtl => 0x0
  | .recStat => 0x4
  | .recOldest => 0x8
  | .recNewest => 0xC
  | .recCursor => 0x10
  | .recWstat => 0x14
  | .recFindSLo => 0x20
  | .recFindSHi => 0x24
  | .recFindNs => 0x28
  | .recWin => 0x400
  | .pctSel => 0x0
  | .pctValLo => 0x4
  | .pctValHi => 0x8
  | .pctClr => 0xC
  | .pctSmpEvt => 0x100
  | .pctSmpCtl => 0x104
  | .pctSmpStat => 0x200
  | .pctSmpPop => 0x204
  | .pctSmpWin => 0x400
  | .dieDbgSel => 0x3000
  | .dieDbgLo => 0x3004
  | .dieDbgHi => 0x3008
  | .dieDbgCmd => 0x300C
  | .secCtl => 0x0
  | .secStat => 0x4
  | .secResetCause => 0x8
  | .secRetSrc => 0xC
  | .secRetCmd => 0x10
  | .secLcCmd => 0x14
  | .secKeySel => 0x20
  | .secKeyW => 0x24
  | .secKeyCmd => 0x44
  | .secIdPub => 0x50
  | .secGrantPtr => 0x80
  | .secGrantData => 0x84
  | .secGrantCmd => 0x88
  | .secAttNonce => 0xA0
  | .secAttCtl => 0xC0
  | .secAttStat => 0xC4
  | .secAttWin => 0x400
  | .elecStat => 0x60
  | .elecVmin => 0x64

/-- Index dimensions of a register family: (stride in bytes, count), outermost first; none for a single register. -/
def Reg.dims : Reg → List (Nat × Nat)
  | .idCells => [(0x4, 8)]
  | .bndCells => [(0x4, 8)]
  | .calTrig => [(0x4, 8)]
  | .secKeyW => [(0x4, 8)]
  | .secIdPub => [(0x4, 8)]
  | .secAttNonce => [(0x4, 8)]
  | .bndSlotStat => [(0x4, 64)]
  | .bndRetired => [(0x20, 8), (0x4, 8)]
  | .dieFltStat => [(0x10, 256)]
  | .dieFltPc => [(0x10, 256)]
  | .dieFltInsn => [(0x10, 256)]
  | .dieFltDetail => [(0x10, 256)]
  | .memStkStat => [(0x20, 2)]
  | .memStkCe => [(0x20, 2)]
  | .memStkUe => [(0x20, 2)]
  | .memStkUeAddrLo => [(0x20, 2)]
  | .memStkUeAddrHi => [(0x20, 2)]
  | .memStkRepair => [(0x20, 2)]
  | .memStkDisturb => [(0x20, 2)]
  | .ageKind => [(0x4, 5)]
  | .paceFrmOntime => [(0x10, 64)]
  | .paceFrmLate => [(0x10, 64)]
  | .paceFrmSlack => [(0x10, 64)]
  | .paceFrmMin => [(0x10, 64)]
  | .domStat => [(0x10, 80)]
  | .domTemp => [(0x10, 80)]
  | .domRate => [(0x10, 80)]
  | .domAge => [(0x10, 80)]
  | .optPath => [(0x4, 4)]
  | .optLaser => [(0x4, 18)]
  | .optLaneStat => [(0x40, 8), (0x4, 9)]
  | .fabPort => [(0x4, 32)]
  | .fabExpect => [(0x80, 32), (0x8, 9)]
  | .fabBypass => [(0x80, 32), (0x8, 9)]
  | .fabFar => [(0x40, 32), (0x4, 9)]
  | .fabTof => [(0x40, 32), (0x4, 9)]
  | .ptpCfg => [(0x10, 2)]
  | .ptpOfs => [(0x10, 2)]
  | .ptpMpd => [(0x10, 2)]
  | .ethCtl => [(0x40, 2)]
  | .ethStat => [(0x40, 2)]
  | .ethIp4 => [(0x40, 2)]
  | .ethIp6 => [(0x40, 2), (0x4, 4)]
  | .ethTsc => [(0x40, 2), (0x4, 2)]
  | .redHealth => [(0x4, 2)]
  | .redFwVer => [(0x4, 2)]
  | .recWin => [(0x4, 256)]
  | .secAttWin => [(0x4, 256)]
  | .pctSmpEvt => [(0x8, 8)]
  | .pctSmpCtl => [(0x8, 8)]
  | .pctSmpWin => [(0x4, 20)]
  | .idPart => []
  | .idPop => []
  | .idSerialLo => []
  | .idSerialHi => []
  | .dieDlqStat => []
  | .dieDlqDiscard => []
  | .dieDlqTotal => []
  | .bndCtl => []
  | .bndStat => []
  | .bndMapGen => []
  | .bndEvent => []
  | .bndRetireThresh => []
  | .dltKeyreq => []
  | .dltEvent => []
  | .spcEvent => []
  | .spcRollbacks => []
  | .memCtl => []
  | .memScrStat => []
  | .memScrCe => []
  | .memScrUe => []
  | .talCtl => []
  | .talSel => []
  | .talValue => []
  | .talStat => []
  | .talMulti => []
  | .talFaults => []
  | .talSet => []
  | .talRehome => []
  | .talEpochEnd => []
  | .talEvent => []
  | .paceCtl => []
  | .paceVlim => []
  | .paceFixed => []
  | .paceHyst => []
  | .pwrCap => []
  | .pwrIn => []
  | .pwrInP => []
  | .pwrStat => []
  | .pwrEvent => []
  | .pwrEnergyLo => []
  | .pwrEnergyHi => []
  | .thermCtl => []
  | .thermMax => []
  | .ageCtl => []
  | .ageModule => []
  | .optCtl => []
  | .optCtl2 => []
  | .optStat => []
  | .optEvent => []
  | .optSteer => []
  | .optElemSel => []
  | .optElemStat => []
  | .optElemTrips => []
  | .fabCtl => []
  | .fabPostcode => []
  | .fabStat => []
  | .fabEvent => []
  | .fabRecable => []
  | .fabRbAddr => []
  | .fabRbData => []
  | .fabRbActive => []
  | .fabRbCtl => []
  | .fabRbErr => []
  | .calCtl => []
  | .calStat => []
  | .calEvent => []
  | .calRefFault => []
  | .calSel => []
  | .calItemStat => []
  | .calItemQual => []
  | .calData => []
  | .calCmd => []
  | .srvCtl => []
  | .srvStat => []
  | .srvEvent => []
  | .srvSel => []
  | .srvParam => []
  | .srvCmd => []
  | .srvObjStat => []
  | .tbCtl => []
  | .tbIncrLo => []
  | .tbIncrHi => []
  | .tbSecLo => []
  | .tbSecHi => []
  | .tbNs => []
  | .tbFrac => []
  | .tbAdj => []
  | .tbStat => []
  | .tbQual => []
  | .tbEvent => []
  | .ptpLim => []
  | .ptpHold => []
  | .ptpBound => []
  | .tbNbrWorst => []
  | .ctrCfg => []
  | .ctrStat => []
  | .redStat => []
  | .redCtl => []
  | .redEvent => []
  | .redFault => []
  | .redFwCmd => []
  | .redFwStat => []
  | .redOptimeLo => []
  | .redOptimeHi => []
  | .redCycles => []
  | .recCtl => []
  | .recStat => []
  | .recOldest => []
  | .recNewest => []
  | .recCursor => []
  | .recWstat => []
  | .recFindSLo => []
  | .recFindSHi => []
  | .recFindNs => []
  | .pctSel => []
  | .pctValLo => []
  | .pctValHi => []
  | .pctClr => []
  | .pctSmpStat => []
  | .pctSmpPop => []
  | .dieDbgSel => []
  | .dieDbgLo => []
  | .dieDbgHi => []
  | .dieDbgCmd => []
  | .secCtl => []
  | .secStat => []
  | .secResetCause => []
  | .secRetSrc => []
  | .secRetCmd => []
  | .secLcCmd => []
  | .secKeySel => []
  | .secKeyCmd => []
  | .secGrantPtr => []
  | .secGrantData => []
  | .secGrantCmd => []
  | .secAttCtl => []
  | .secAttStat => []
  | .elecStat => []
  | .elecVmin => []

/-! The fields, named by register and field. -/
namespace F
def idPartPart : Fld := ⟨.idPart, 0, 16, .ro, 0x0, .cold, 0, 65535⟩
def idPartStep : Fld := ⟨.idPart, 16, 4, .ro, 0x2, .cold, 0, 15⟩
def idPartLid : Fld := ⟨.idPart, 20, 1, .ro, 0x0, .cold, 0, 1⟩
def idPopDiePresent : Fld := ⟨.idPop, 0, 8, .ro, 0x0, .cold, 0, 255⟩
def idPopEngPresent : Fld := ⟨.idPop, 8, 4, .ro, 0x0, .cold, 0, 15⟩
def idPopHubPresent : Fld := ⟨.idPop, 12, 2, .ro, 0x3, .cold, 0, 3⟩
def idSerialLoSerial : Fld := ⟨.idSerialLo, 0, 32, .ro, 0x0, .cold, 0, 4294967295⟩
def idSerialHiSerial : Fld := ⟨.idSerialHi, 0, 32, .ro, 0x0, .cold, 0, 4294967295⟩
def idCellsGood : Fld := ⟨.idCells, 0, 9, .ro, 0x0, .cold, 0, 511⟩
def dieDlqStatCount : Fld := ⟨.dieDlqStat, 0, 11, .ro, 0x0, .warm, 0, 2047⟩
def dieDlqStatFull : Fld := ⟨.dieDlqStat, 11, 1, .ro, 0x0, .warm, 0, 1⟩
def dieDlqStatAdded : Fld := ⟨.dieDlqStat, 12, 1, .rw1c, 0x0, .warm, 0, 1⟩
def dieDlqStatOverflow : Fld := ⟨.dieDlqStat, 13, 1, .rw1c, 0x0, .warm, 0, 1⟩
def dieDlqDiscardDiscarded : Fld := ⟨.dieDlqDiscard, 0, 32, .ro, 0x0, .warm, 0, 4294967295⟩
def dieDlqTotalTotal : Fld := ⟨.dieDlqTotal, 0, 32, .ro, 0x0, .warm, 0, 4294967295⟩
def bndCtlAutoRetire : Fld := ⟨.bndCtl, 0, 1, .rw, 0x1, .kept, 0, 1⟩
def bndStatSlotsUsed : Fld := ⟨.bndStat, 0, 7, .ro, 0x0, .warm, 0, 127⟩
def bndStatLoadBusy : Fld := ⟨.bndStat, 7, 1, .ro, 0x0, .warm, 0, 1⟩
def bndStatQueued : Fld := ⟨.bndStat, 8, 8, .ro, 0x0, .warm, 0, 255⟩
def bndMapGenGen : Fld := ⟨.bndMapGen, 0, 32, .ro, 0x0, .warm, 0, 4294967295⟩
def bndEventReady : Fld := ⟨.bndEvent, 0, 1, .rw1c, 0x0, .warm, 0, 1⟩
def bndEventRefused : Fld := ⟨.bndEvent, 1, 1, .rw1c, 0x0, .warm, 0, 1⟩
def bndEventEvicted : Fld := ⟨.bndEvent, 2, 1, .rw1c, 0x0, .warm, 0, 1⟩
def bndEventRelocated : Fld := ⟨.bndEvent, 3, 1, .rw1c, 0x0, .warm, 0, 1⟩
def bndEventRetired : Fld := ⟨.bndEvent, 4, 1, .rw1c, 0x0, .warm, 0, 1⟩
def bndEventFaulted : Fld := ⟨.bndEvent, 5, 1, .rw1c, 0x0, .warm, 0, 1⟩
def bndEventAbandoned : Fld := ⟨.bndEvent, 6, 1, .rw1c, 0x0, .warm, 0, 1⟩
def bndRetireThreshThresh : Fld := ⟨.bndRetireThresh, 0, 20, .rw, 0x3E8, .kept, 0, 1048575⟩
def bndCellsFree : Fld := ⟨.bndCells, 0, 9, .ro, 0x0, .warm, 0, 511⟩
def bndCellsRetired : Fld := ⟨.bndCells, 9, 9, .ro, 0x0, .kept, 0, 511⟩
def bndSlotStatState : Fld := ⟨.bndSlotStat, 0, 4, .ro, 0xF, .warm, 0, 15⟩
def bndSlotStatPriority : Fld := ⟨.bndSlotStat, 4, 3, .ro, 0x0, .warm, 0, 7⟩
def bndSlotStatEvictable : Fld := ⟨.bndSlotStat, 7, 1, .ro, 0x0, .warm, 0, 1⟩
def bndSlotStatReuse : Fld := ⟨.bndSlotStat, 8, 10, .ro, 0x0, .warm, 0, 1023⟩
def bndSlotStatPreload : Fld := ⟨.bndSlotStat, 18, 7, .ro, 0x0, .warm, 0, 127⟩
def bndRetiredCells : Fld := ⟨.bndRetired, 0, 32, .ro, 0x0, .kept, 0, 4294967295⟩
def dieFltStatCode : Fld := ⟨.dieFltStat, 0, 16, .ro, 0x0, .warm, 0, 65535⟩
def dieFltStatValid : Fld := ⟨.dieFltStat, 16, 1, .rw1c, 0x0, .warm, 0, 1⟩
def dieFltStatLost : Fld := ⟨.dieFltStat, 17, 1, .ro, 0x0, .warm, 0, 1⟩
def dieFltStatOverrun : Fld := ⟨.dieFltStat, 18, 1, .rw1c, 0x0, .warm, 0, 1⟩
def dieFltPcPc : Fld := ⟨.dieFltPc, 0, 16, .ro, 0x0, .warm, 0, 65535⟩
def dieFltInsnInsn : Fld := ⟨.dieFltInsn, 0, 32, .ro, 0x0, .warm, 0, 4294967295⟩
def dieFltDetailDetail : Fld := ⟨.dieFltDetail, 0, 32, .ro, 0x0, .warm, 0, 4294967295⟩
def dltKeyreqHandle : Fld := ⟨.dltKeyreq, 0, 16, .wo, 0x0, .warm, 0, 65535⟩
def dltEventKeyBound : Fld := ⟨.dltEvent, 0, 1, .rw1c, 0x0, .warm, 0, 1⟩
def dltEventKeyCount : Fld := ⟨.dltEvent, 1, 1, .rw1c, 0x0, .warm, 0, 1⟩
def dltEventIncomplete : Fld := ⟨.dltEvent, 2, 1, .rw1c, 0x0, .warm, 0, 1⟩
def spcEventRollback : Fld := ⟨.spcEvent, 0, 1, .rw1c, 0x0, .warm, 0, 1⟩
def spcEventResourceWait : Fld := ⟨.spcEvent, 1, 1, .rw1c, 0x0, .warm, 0, 1⟩
def spcRollbacksCount : Fld := ⟨.spcRollbacks, 0, 32, .ro, 0x0, .warm, 0, 4294967295⟩
def memCtlScrubHours : Fld := ⟨.memCtl, 0, 8, .rw, 0x18, .kept, 1, 168⟩
def memCtlRowCeThresh : Fld := ⟨.memCtl, 8, 8, .rw, 0x4, .kept, 1, 255⟩
def memCtlDisturbThresh : Fld := ⟨.memCtl, 16, 16, .rw, 0x1000, .kept, 512, 32768⟩
def memStkStatWipeBusy : Fld := ⟨.memStkStat, 0, 1, .ro, 0x1, .warm, 0, 1⟩
def memStkStatFailed : Fld := ⟨.memStkStat, 1, 1, .ro, 0x0, .warm, 0, 1⟩
def memStkStatCe : Fld := ⟨.memStkStat, 2, 1, .rw1c, 0x0, .warm, 0, 1⟩
def memStkStatUe : Fld := ⟨.memStkStat, 3, 1, .rw1c, 0x0, .warm, 0, 1⟩
def memStkStatRepaired : Fld := ⟨.memStkStat, 4, 1, .rw1c, 0x0, .warm, 0, 1⟩
def memStkStatSparesLow : Fld := ⟨.memStkStat, 5, 1, .ro, 0x0, .cold, 0, 1⟩
def memStkStatSparesOut : Fld := ⟨.memStkStat, 6, 1, .ro, 0x0, .cold, 0, 1⟩
def memStkStatScrubPass : Fld := ⟨.memStkStat, 7, 1, .rw1c, 0x0, .warm, 0, 1⟩
def memStkCeCount : Fld := ⟨.memStkCe, 0, 32, .ro, 0x0, .warm, 0, 4294967295⟩
def memStkUeCount : Fld := ⟨.memStkUe, 0, 32, .ro, 0x0, .warm, 0, 4294967295⟩
def memStkUeAddrLoOffsetLo : Fld := ⟨.memStkUeAddrLo, 0, 32, .ro, 0x0, .warm, 0, 4294967295⟩
def memStkUeAddrHiOffsetHi : Fld := ⟨.memStkUeAddrHi, 0, 4, .ro, 0x0, .warm, 0, 15⟩
def memStkUeAddrHiValid : Fld := ⟨.memStkUeAddrHi, 4, 1, .ro, 0x0, .warm, 0, 1⟩
def memStkRepairUsed : Fld := ⟨.memStkRepair, 0, 16, .ro, 0x0, .cold, 0, 65535⟩
def memStkRepairFewestLeft : Fld := ⟨.memStkRepair, 16, 4, .ro, 0x0, .cold, 0, 15⟩
def memStkDisturbRefreshes : Fld := ⟨.memStkDisturb, 0, 32, .ro, 0x0, .warm, 0, 4294967295⟩
def memScrStatCe : Fld := ⟨.memScrStat, 0, 1, .rw1c, 0x0, .warm, 0, 1⟩
def memScrStatUe : Fld := ⟨.memScrStat, 1, 1, .rw1c, 0x0, .warm, 0, 1⟩
def memScrCeCount : Fld := ⟨.memScrCe, 0, 32, .ro, 0x0, .warm, 0, 4294967295⟩
def memScrUeCount : Fld := ⟨.memScrUe, 0, 32, .ro, 0x0, .warm, 0, 4294967295⟩
def talCtlEpochAction : Fld := ⟨.talCtl, 0, 1, .rw, 0x1, .kept, 0, 1⟩
def talCtlDbgSet : Fld := ⟨.talCtl, 1, 1, .rw, 0x0, .cold, 0, 1⟩
def talCtlDbgActive : Fld := ⟨.talCtl, 2, 1, .ro, 0x0, .cold, 0, 1⟩
def talSelHandle : Fld := ⟨.talSel, 0, 16, .rw, 0x0, .warm, 0, 65535⟩
def talSelIndex : Fld := ⟨.talSel, 16, 16, .rw, 0x0, .warm, 0, 65535⟩
def talValueValue : Fld := ⟨.talValue, 0, 32, .ro, 0x0, .warm, 0, 4294967295⟩
def talStatValid : Fld := ⟨.talStat, 0, 1, .ro, 0x0, .warm, 0, 1⟩
def talStatOrphaned : Fld := ⟨.talStat, 1, 1, .ro, 0x0, .warm, 0, 1⟩
def talStatRemote : Fld := ⟨.talStat, 2, 1, .ro, 0x0, .warm, 0, 1⟩
def talStatTakers : Fld := ⟨.talStat, 8, 8, .ro, 0x0, .warm, 0, 255⟩
def talStatWatchers : Fld := ⟨.talStat, 16, 8, .ro, 0x0, .warm, 0, 255⟩
def talMultiMulti : Fld := ⟨.talMulti, 0, 32, .ro, 0x0, .warm, 0, 4294967295⟩
def talFaultsOver : Fld := ⟨.talFaults, 0, 16, .ro, 0x0, .warm, 0, 65535⟩
def talFaultsUnder : Fld := ⟨.talFaults, 16, 16, .ro, 0x0, .warm, 0, 65535⟩
def talSetValue : Fld := ⟨.talSet, 0, 32, .wo, 0x0, .warm, 0, 4294967295⟩
def talRehomeStation : Fld := ⟨.talRehome, 0, 16, .wo, 0x0, .warm, 0, 65535⟩
def talRehomePostcode : Fld := ⟨.talRehome, 16, 16, .wo, 0x0, .warm, 0, 65535⟩
def talEpochEndHandle : Fld := ⟨.talEpochEnd, 0, 16, .wo, 0x0, .warm, 0, 65535⟩
def talEventOverflow : Fld := ⟨.talEvent, 0, 1, .rw1c, 0x0, .warm, 0, 1⟩
def talEventUnderflow : Fld := ⟨.talEvent, 1, 1, .rw1c, 0x0, .warm, 0, 1⟩
def talEventEpoch : Fld := ⟨.talEvent, 2, 1, .rw1c, 0x0, .warm, 0, 1⟩
def talEventOrphaned : Fld := ⟨.talEvent, 3, 1, .rw1c, 0x0, .warm, 0, 1⟩
def talEventDbgWrite : Fld := ⟨.talEvent, 4, 1, .rw1c, 0x0, .warm, 0, 1⟩
def paceCtlEnable : Fld := ⟨.paceCtl, 0, 1, .rw, 0x1, .kept, 0, 1⟩
def paceCtlWindow : Fld := ⟨.paceCtl, 4, 4, .rw, 0x8, .kept, 1, 15⟩
def paceVlimVmin : Fld := ⟨.paceVlim, 0, 12, .rw, 0x226, .kept, 550, 900⟩
def paceVlimVmax : Fld := ⟨.paceVlim, 16, 12, .rw, 0x384, .kept, 550, 900⟩
def paceFixedFixedMv : Fld := ⟨.paceFixed, 0, 12, .rw, 0x2EE, .kept, 550, 900⟩
def paceHystHystUs : Fld := ⟨.paceHyst, 0, 20, .rw, 0x1F4, .kept, 0, 1000000⟩
def pwrCapCapW : Fld := ⟨.pwrCap, 0, 13, .rw, 0x1194, .kept, 200, 4500⟩
def pwrInVolt : Fld := ⟨.pwrIn, 0, 16, .ro, 0x0, .cold, 0, 65535⟩
def pwrInCurr : Fld := ⟨.pwrIn, 16, 16, .ro, 0x0, .cold, 0, 65535⟩
def pwrInPPower : Fld := ⟨.pwrInP, 0, 16, .ro, 0x0, .cold, 0, 65535⟩
def pwrInPPeak : Fld := ⟨.pwrInP, 16, 16, .ro, 0x0, .warm, 0, 65535⟩
def pwrStatCapping : Fld := ⟨.pwrStat, 0, 1, .ro, 0x0, .warm, 0, 1⟩
def pwrStatBrake : Fld := ⟨.pwrStat, 1, 1, .ro, 0x0, .cold, 0, 1⟩
def pwrStatBrakeCause : Fld := ⟨.pwrStat, 2, 2, .ro, 0x0, .cold, 0, 3⟩
def pwrStatThermHigh : Fld := ⟨.pwrStat, 4, 1, .ro, 0x0, .warm, 0, 1⟩
def pwrEventCapped : Fld := ⟨.pwrEvent, 0, 1, .rw1c, 0x0, .warm, 0, 1⟩
def pwrEventBrake : Fld := ⟨.pwrEvent, 1, 1, .rw1c, 0x0, .cold, 0, 1⟩
def pwrEventLate : Fld := ⟨.pwrEvent, 2, 1, .rw1c, 0x0, .warm, 0, 1⟩
def pwrEventTherm : Fld := ⟨.pwrEvent, 3, 1, .rw1c, 0x0, .warm, 0, 1⟩
def pwrEventShutdown : Fld := ⟨.pwrEvent, 4, 1, .rw1c, 0x0, .cold, 0, 1⟩
def pwrEventAgeNear : Fld := ⟨.pwrEvent, 5, 1, .rw1c, 0x0, .warm, 0, 1⟩
def pwrEnergyLoEnergy : Fld := ⟨.pwrEnergyLo, 0, 32, .ro, 0x0, .cold, 0, 4294967295⟩
def pwrEnergyHiEnergy : Fld := ⟨.pwrEnergyHi, 0, 32, .ro, 0x0, .cold, 0, 4294967295⟩
def thermCtlHighC : Fld := ⟨.thermCtl, 0, 8, .rw, 0x5A, .kept, 60, 95⟩
def thermMaxTemp : Fld := ⟨.thermMax, 0, 12, .ro, 0x0, .warm, 0, 4095⟩
def thermMaxDomain : Fld := ⟨.thermMax, 16, 7, .ro, 0x0, .warm, 0, 127⟩
def ageCtlEolShift : Fld := ⟨.ageCtl, 0, 16, .rw, 0x3E8, .kept, 100, 5000⟩
def ageCtlWarnDays : Fld := ⟨.ageCtl, 16, 16, .rw, 0x5A, .kept, 0, 65535⟩
def ageModuleDays : Fld := ⟨.ageModule, 0, 16, .ro, 0xFFFF, .warm, 0, 65535⟩
def ageModuleKind : Fld := ⟨.ageModule, 16, 4, .ro, 0x0, .warm, 0, 15⟩
def ageModuleIndex : Fld := ⟨.ageModule, 20, 8, .ro, 0x0, .warm, 0, 255⟩
def ageKindDays : Fld := ⟨.ageKind, 0, 16, .ro, 0xFFFF, .warm, 0, 65535⟩
def ageKindIndex : Fld := ⟨.ageKind, 16, 8, .ro, 0x0, .warm, 0, 255⟩
def paceFrmOntimeCount : Fld := ⟨.paceFrmOntime, 0, 32, .ro, 0x0, .warm, 0, 4294967295⟩
def paceFrmLateCount : Fld := ⟨.paceFrmLate, 0, 32, .ro, 0x0, .warm, 0, 4294967295⟩
def paceFrmSlackSlack : Fld := ⟨.paceFrmSlack, 0, 32, .ro, 0x80000000, .warm, 0, 4294967295⟩
def paceFrmMinSlack : Fld := ⟨.paceFrmMin, 0, 32, .ro, 0x80000000, .warm, 0, 4294967295⟩
def domStatState : Fld := ⟨.domStat, 0, 2, .ro, 0x0, .warm, 0, 3⟩
def domStatGoverned : Fld := ⟨.domStat, 2, 1, .ro, 0x0, .cold, 0, 1⟩
def domStatVolt : Fld := ⟨.domStat, 4, 12, .ro, 0x0, .warm, 0, 4095⟩
def domStatTarget : Fld := ⟨.domStat, 16, 12, .ro, 0x0, .warm, 0, 4095⟩
def domTempTemp : Fld := ⟨.domTemp, 0, 12, .ro, 0x0, .warm, 0, 4095⟩
def domTempPeak : Fld := ⟨.domTemp, 16, 12, .ro, 0x0, .warm, 0, 4095⟩
def domRateRate : Fld := ⟨.domRate, 0, 16, .ro, 0x0, .warm, 0, 65535⟩
def domRatePower : Fld := ⟨.domRate, 16, 16, .ro, 0x0, .warm, 0, 65535⟩
def domAgeShift : Fld := ⟨.domAge, 0, 16, .ro, 0x0, .warm, 0, 65535⟩
def domAgeDays : Fld := ⟨.domAge, 16, 16, .ro, 0xFFFF, .warm, 0, 65535⟩
def optCtlDacBits : Fld := ⟨.optCtl, 0, 4, .rw, 0x6, .kept, 4, 8⟩
def optCtlHoBiasPct : Fld := ⟨.optCtl, 8, 8, .rw, 0x55, .kept, 60, 94⟩
def optCtlHoMargin : Fld := ⟨.optCtl, 16, 8, .rw, 0xF, .kept, 5, 50⟩
def optCtlTestMargin : Fld := ⟨.optCtl, 24, 8, .rw, 0x1E, .kept, 30, 60⟩
def optCtl2RetryS : Fld := ⟨.optCtl2, 0, 16, .rw, 0xA, .kept, 1, 3600⟩
def optCtl2TripMs : Fld := ⟨.optCtl2, 16, 8, .rw, 0x5, .kept, 1, 50⟩
def optStatLightReady : Fld := ⟨.optStat, 0, 1, .ro, 0x0, .cold, 0, 1⟩
def optStatSteerBusy : Fld := ⟨.optStat, 1, 1, .ro, 0x0, .warm, 0, 1⟩
def optStatHoPending : Fld := ⟨.optStat, 2, 1, .ro, 0x0, .warm, 0, 1⟩
def optStatPortsUp : Fld := ⟨.optStat, 3, 8, .ro, 0x0, .warm, 0, 255⟩
def optEventLaneFail : Fld := ⟨.optEvent, 0, 1, .rw1c, 0x0, .warm, 0, 1⟩
def optEventSpared : Fld := ⟨.optEvent, 1, 1, .rw1c, 0x0, .warm, 0, 1⟩
def optEventDropped : Fld := ⟨.optEvent, 2, 1, .rw1c, 0x0, .warm, 0, 1⟩
def optEventMarginShort : Fld := ⟨.optEvent, 3, 1, .rw1c, 0x0, .warm, 0, 1⟩
def optEventWrongLambda : Fld := ⟨.optEvent, 4, 1, .rw1c, 0x0, .warm, 0, 1⟩
def optEventHandover : Fld := ⟨.optEvent, 5, 1, .rw1c, 0x0, .warm, 0, 1⟩
def optEventLaserFail : Fld := ⟨.optEvent, 6, 1, .rw1c, 0x0, .warm, 0, 1⟩
def optEventTrip : Fld := ⟨.optEvent, 7, 1, .rw1c, 0x0, .warm, 0, 1⟩
def optEventSteerDone : Fld := ⟨.optEvent, 8, 1, .rw1c, 0x0, .warm, 0, 1⟩
def optSteerGo : Fld := ⟨.optSteer, 0, 1, .wo, 0x0, .warm, 0, 1⟩
def optPathThrough : Fld := ⟨.optPath, 0, 9, .rw, 0x1FF, .cold, 0, 511⟩
def optPathLitA : Fld := ⟨.optPath, 16, 1, .rw, 0x0, .cold, 0, 1⟩
def optPathLitB : Fld := ⟨.optPath, 17, 1, .rw, 0x0, .cold, 0, 1⟩
def optPathLoop : Fld := ⟨.optPath, 18, 1, .rw, 0x0, .cold, 0, 1⟩
def optLaserState : Fld := ⟨.optLaser, 0, 3, .ro, 0x0, .cold, 0, 7⟩
def optLaserFailed : Fld := ⟨.optLaser, 3, 1, .ro, 0x0, .cold, 0, 1⟩
def optLaserBiasPct : Fld := ⟨.optLaser, 4, 8, .ro, 0x0, .cold, 0, 255⟩
def optLaserPower : Fld := ⟨.optLaser, 12, 12, .ro, 0x0, .cold, 0, 4095⟩
def optLaneStatState : Fld := ⟨.optLaneStat, 0, 4, .ro, 0x0, .warm, 0, 15⟩
def optLaneStatCover : Fld := ⟨.optLaneStat, 4, 4, .ro, 0xF, .warm, 0, 15⟩
def optLaneStatMargin : Fld := ⟨.optLaneStat, 8, 8, .ro, 0x0, .warm, 0, 255⟩
def optLaneStatCause : Fld := ⟨.optLaneStat, 16, 4, .ro, 0x0, .warm, 0, 15⟩
def optLaneStatRetries : Fld := ⟨.optLaneStat, 20, 4, .ro, 0x0, .warm, 0, 15⟩
def optElemSelIndex : Fld := ⟨.optElemSel, 0, 8, .rw, 0x0, .warm, 0, 199⟩
def optElemStatState : Fld := ⟨.optElemStat, 0, 2, .ro, 0x0, .warm, 0, 3⟩
def optElemStatIdentOk : Fld := ⟨.optElemStat, 2, 1, .ro, 0x0, .warm, 0, 1⟩
def optElemStatPilot : Fld := ⟨.optElemStat, 3, 4, .ro, 0xF, .warm, 0, 15⟩
def optElemStatHeater : Fld := ⟨.optElemStat, 8, 12, .ro, 0x0, .warm, 0, 4095⟩
def optElemStatError : Fld := ⟨.optElemStat, 20, 12, .ro, 0x0, .warm, 0, 4095⟩
def optElemTripsCount : Fld := ⟨.optElemTrips, 0, 32, .ro, 0x0, .warm, 0, 4294967295⟩
def fabCtlTwoNet : Fld := ⟨.fabCtl, 0, 1, .rwl, 0x0, .kept, 0, 1⟩
def fabCtlWeightVc0 : Fld := ⟨.fabCtl, 4, 4, .rw, 0x3, .kept, 1, 15⟩
def fabCtlWeightVc3 : Fld := ⟨.fabCtl, 8, 4, .rw, 0x1, .kept, 1, 15⟩
def fabPostcodePostcode : Fld := ⟨.fabPostcode, 0, 16, .rwl, 0x0, .kept, 0, 65535⟩
def fabPostcodeValid : Fld := ⟨.fabPostcode, 16, 1, .rwl, 0x0, .kept, 0, 1⟩
def fabStatRecableBusy : Fld := ⟨.fabStat, 0, 1, .ro, 0x0, .warm, 0, 1⟩
def fabStatPaused : Fld := ⟨.fabStat, 1, 1, .ro, 0x0, .warm, 0, 1⟩
def fabStatLinksUp : Fld := ⟨.fabStat, 8, 8, .ro, 0x0, .warm, 0, 255⟩
def fabEventLinkDown : Fld := ⟨.fabEvent, 0, 1, .rw1c, 0x0, .warm, 0, 1⟩
def fabEventLinkLost : Fld := ⟨.fabEvent, 1, 1, .rw1c, 0x0, .warm, 0, 1⟩
def fabEventLinkUp : Fld := ⟨.fabEvent, 2, 1, .rw1c, 0x0, .warm, 0, 1⟩
def fabEventUnplanned : Fld := ⟨.fabEvent, 3, 1, .rw1c, 0x0, .warm, 0, 1⟩
def fabEventAbsent : Fld := ⟨.fabEvent, 4, 1, .rw1c, 0x0, .warm, 0, 1⟩
def fabEventBypassed : Fld := ⟨.fabEvent, 5, 1, .rw1c, 0x0, .warm, 0, 1⟩
def fabEventRecableDone : Fld := ⟨.fabEvent, 6, 1, .rw1c, 0x0, .warm, 0, 1⟩
def fabEventCollResend : Fld := ⟨.fabEvent, 7, 1, .rw1c, 0x0, .warm, 0, 1⟩
def fabEventCollAbort : Fld := ⟨.fabEvent, 8, 1, .rw1c, 0x0, .warm, 0, 1⟩
def fabEventTofDone : Fld := ⟨.fabEvent, 9, 1, .rw1c, 0x0, .warm, 0, 1⟩
def fabRecableGo : Fld := ⟨.fabRecable, 0, 1, .wo, 0x0, .warm, 0, 1⟩
def fabRecableResume : Fld := ⟨.fabRecable, 1, 1, .wo, 0x0, .warm, 0, 1⟩
def fabRecablePause : Fld := ⟨.fabRecable, 2, 1, .rw, 0x0, .warm, 0, 1⟩
def fabRbAddrIndex : Fld := ⟨.fabRbAddr, 0, 18, .rw, 0x0, .warm, 0, 262143⟩
def fabRbDataEntry : Fld := ⟨.fabRbData, 0, 32, .rw, 0x0, .kept, 0, 4294967295⟩
def fabRbActiveEntry : Fld := ⟨.fabRbActive, 0, 32, .ro, 0x0, .kept, 0, 4294967295⟩
def fabRbCtlSwap : Fld := ⟨.fabRbCtl, 0, 1, .wo, 0x0, .warm, 0, 1⟩
def fabRbCtlCopy : Fld := ⟨.fabRbCtl, 1, 1, .wo, 0x0, .warm, 0, 1⟩
def fabRbCtlGen : Fld := ⟨.fabRbCtl, 16, 16, .ro, 0x0, .warm, 0, 65535⟩
def fabRbErrIndex : Fld := ⟨.fabRbErr, 0, 18, .ro, 0x0, .warm, 0, 262143⟩
def fabPortState : Fld := ⟨.fabPort, 0, 3, .ro, 0x0, .warm, 0, 7⟩
def fabPortRole : Fld := ⟨.fabPort, 3, 2, .ro, 0x0, .cold, 0, 3⟩
def fabPortLanes : Fld := ⟨.fabPort, 5, 4, .ro, 0x0, .warm, 0, 15⟩
def fabPortLinks : Fld := ⟨.fabPort, 9, 4, .ro, 0x0, .warm, 0, 15⟩
def fabExpectNbr : Fld := ⟨.fabExpect, 0, 16, .rw, 0x0, .kept, 0, 65535⟩
def fabExpectNbrPort : Fld := ⟨.fabExpect, 16, 5, .rw, 0x0, .kept, 0, 31⟩
def fabExpectKind : Fld := ⟨.fabExpect, 21, 2, .rw, 0x0, .kept, 0, 3⟩
def fabBypassNbr : Fld := ⟨.fabBypass, 0, 16, .rw, 0x0, .kept, 0, 65535⟩
def fabBypassNbrPort : Fld := ⟨.fabBypass, 16, 5, .rw, 0x0, .kept, 0, 31⟩
def fabBypassValid : Fld := ⟨.fabBypass, 21, 1, .rw, 0x0, .kept, 0, 1⟩
def fabFarPostcode : Fld := ⟨.fabFar, 0, 16, .ro, 0x0, .warm, 0, 65535⟩
def fabFarPort : Fld := ⟨.fabFar, 16, 5, .ro, 0x0, .warm, 0, 31⟩
def fabFarKind : Fld := ⟨.fabFar, 21, 2, .ro, 0x0, .warm, 0, 3⟩
def fabFarMatch : Fld := ⟨.fabFar, 23, 2, .ro, 0x0, .warm, 0, 3⟩
def fabFarLinkState : Fld := ⟨.fabFar, 25, 2, .ro, 0x0, .warm, 0, 3⟩
def fabTofTof : Fld := ⟨.fabTof, 0, 24, .ro, 0x0, .warm, 0, 16777215⟩
def fabTofValid : Fld := ⟨.fabTof, 24, 1, .ro, 0x0, .warm, 0, 1⟩
def fabTofEcho : Fld := ⟨.fabTof, 25, 1, .ro, 0x0, .warm, 0, 1⟩
def calCtlEnable : Fld := ⟨.calCtl, 0, 1, .rw, 0x1, .kept, 0, 1⟩
def calCtlStarveS : Fld := ⟨.calCtl, 16, 16, .rw, 0x258, .kept, 10, 65535⟩
def calStatRunning : Fld := ⟨.calStat, 0, 11, .ro, 0x0, .warm, 0, 2047⟩
def calStatDue : Fld := ⟨.calStat, 16, 12, .ro, 0x0, .warm, 0, 4095⟩
def calEventRunDone : Fld := ⟨.calEvent, 0, 1, .rw1c, 0x0, .warm, 0, 1⟩
def calEventBadRun : Fld := ⟨.calEvent, 1, 1, .rw1c, 0x0, .warm, 0, 1⟩
def calEventAbandoned : Fld := ⟨.calEvent, 2, 1, .rw1c, 0x0, .warm, 0, 1⟩
def calEventStarved : Fld := ⟨.calEvent, 3, 1, .rw1c, 0x0, .warm, 0, 1⟩
def calEventItemFailed : Fld := ⟨.calEvent, 4, 1, .rw1c, 0x0, .warm, 0, 1⟩
def calEventRefMismatch : Fld := ⟨.calEvent, 5, 1, .rw1c, 0x0, .warm, 0, 1⟩
def calEventRestored : Fld := ⟨.calEvent, 6, 1, .rw1c, 0x0, .warm, 0, 1⟩
def calRefFaultDie : Fld := ⟨.calRefFault, 0, 8, .ro, 0x0, .warm, 0, 255⟩
def calRefFaultEngine : Fld := ⟨.calRefFault, 8, 4, .ro, 0x0, .warm, 0, 15⟩
def calRefFaultHub : Fld := ⟨.calRefFault, 12, 2, .ro, 0x0, .warm, 0, 3⟩
def calTrigThresh : Fld := ⟨.calTrig, 0, 5, .rw, 0x4, .kept, 1, 20⟩
def calSelClass : Fld := ⟨.calSel, 0, 4, .rw, 0x0, .warm, 0, 7⟩
def calSelInstance : Fld := ⟨.calSel, 4, 10, .rw, 0x0, .warm, 0, 1023⟩
def calSelWord : Fld := ⟨.calSel, 16, 6, .rw, 0x0, .warm, 0, 63⟩
def calItemStatSource : Fld := ⟨.calItemStat, 0, 2, .ro, 0x0, .cold, 0, 3⟩
def calItemStatDue : Fld := ⟨.calItemStat, 2, 1, .ro, 0x0, .warm, 0, 1⟩
def calItemStatRunning : Fld := ⟨.calItemStat, 3, 1, .ro, 0x0, .warm, 0, 1⟩
def calItemStatFailed : Fld := ⟨.calItemStat, 4, 1, .ro, 0x0, .cold, 0, 1⟩
def calItemStatBadRuns : Fld := ⟨.calItemStat, 5, 2, .ro, 0x0, .cold, 0, 3⟩
def calItemStatTref : Fld := ⟨.calItemStat, 8, 12, .ro, 0x0, .cold, 0, 4095⟩
def calItemQualQuality : Fld := ⟨.calItemQual, 0, 16, .ro, 0x0, .cold, 0, 65535⟩
def calItemQualAgeS : Fld := ⟨.calItemQual, 16, 16, .ro, 0x0, .warm, 0, 65535⟩
def calDataWordData : Fld := ⟨.calData, 0, 32, .rw, 0x0, .warm, 0, 4294967295⟩
def calCmdCommit : Fld := ⟨.calCmd, 0, 1, .wo, 0x0, .warm, 0, 1⟩
def calCmdRun : Fld := ⟨.calCmd, 1, 1, .wo, 0x0, .warm, 0, 1⟩
def srvCtlOutHoldMs : Fld := ⟨.srvCtl, 0, 7, .rw, 0x2, .kept, 1, 100⟩
def srvCtlPwmKhz : Fld := ⟨.srvCtl, 16, 8, .rw, 0x14, .kept, 10, 200⟩
def srvStatActiveHub : Fld := ⟨.srvStat, 0, 1, .ro, 0x0, .warm, 0, 1⟩
def srvStatStandbySync : Fld := ⟨.srvStat, 1, 1, .ro, 0x0, .warm, 0, 1⟩
def srvStatClosed : Fld := ⟨.srvStat, 8, 6, .ro, 0x0, .warm, 0, 63⟩
def srvEventTrip : Fld := ⟨.srvEvent, 0, 1, .rw1c, 0x0, .warm, 0, 1⟩
def srvEventOverrun : Fld := ⟨.srvEvent, 1, 1, .rw1c, 0x0, .warm, 0, 1⟩
def srvEventStuck : Fld := ⟨.srvEvent, 2, 1, .rw1c, 0x0, .warm, 0, 1⟩
def srvEventSpHold : Fld := ⟨.srvEvent, 3, 1, .rw1c, 0x0, .warm, 0, 1⟩
def srvEventOutHold : Fld := ⟨.srvEvent, 4, 1, .rw1c, 0x0, .warm, 0, 1⟩
def srvEventColdOpen : Fld := ⟨.srvEvent, 5, 1, .rw1c, 0x0, .warm, 0, 1⟩
def srvEventCapDone : Fld := ⟨.srvEvent, 6, 1, .rw1c, 0x0, .warm, 0, 1⟩
def srvEventCapAbort : Fld := ⟨.srvEvent, 7, 1, .rw1c, 0x0, .warm, 0, 1⟩
def srvEventNumSat : Fld := ⟨.srvEvent, 8, 1, .rw1c, 0x0, .warm, 0, 1⟩
def srvSelKind : Fld := ⟨.srvSel, 0, 3, .rw, 0x0, .warm, 0, 7⟩
def srvSelIndex : Fld := ⟨.srvSel, 3, 5, .rw, 0x0, .warm, 0, 31⟩
def srvSelParam : Fld := ⟨.srvSel, 8, 8, .rw, 0x0, .warm, 0, 255⟩
def srvSelElem : Fld := ⟨.srvSel, 16, 16, .rw, 0x0, .warm, 0, 65535⟩
def srvParamValue : Fld := ⟨.srvParam, 0, 32, .rw, 0x0, .kept, 0, 4294967295⟩
def srvCmdCmd : Fld := ⟨.srvCmd, 0, 3, .wo, 0x0, .warm, 0, 7⟩
def srvObjStatState : Fld := ⟨.srvObjStat, 0, 2, .ro, 0x0, .warm, 0, 3⟩
def srvObjStatSpHold : Fld := ⟨.srvObjStat, 2, 1, .ro, 0x0, .warm, 0, 1⟩
def srvObjStatSat : Fld := ⟨.srvObjStat, 3, 4, .ro, 0x0, .warm, 0, 15⟩
def srvObjStatCause : Fld := ⟨.srvObjStat, 7, 3, .ro, 0x0, .warm, 0, 7⟩
def srvObjStatReason : Fld := ⟨.srvObjStat, 10, 4, .ro, 0x0, .warm, 0, 15⟩
def srvObjStatCount : Fld := ⟨.srvObjStat, 15, 17, .ro, 0x0, .warm, 0, 131071⟩
def tbCtlServo : Fld := ⟨.tbCtl, 0, 1, .rw, 0x1, .kept, 0, 1⟩
def tbCtlSelect : Fld := ⟨.tbCtl, 1, 1, .rw, 0x0, .warm, 0, 1⟩
def tbCtlAutoSwitch : Fld := ⟨.tbCtl, 2, 1, .rw, 0x1, .kept, 0, 1⟩
def tbCtlSlewPpm : Fld := ⟨.tbCtl, 8, 8, .rw, 0xA, .kept, 1, 100⟩
def tbIncrLoIncrLo : Fld := ⟨.tbIncrLo, 0, 32, .rw, 0x66666666, .cold, 0, 4294967295⟩
def tbIncrHiIncrHi : Fld := ⟨.tbIncrHi, 0, 8, .rw, 0x6, .cold, 0, 255⟩
def tbSecLoSec : Fld := ⟨.tbSecLo, 0, 32, .ro, 0x0, .cold, 0, 4294967295⟩
def tbSecHiSec : Fld := ⟨.tbSecHi, 0, 32, .ro, 0x0, .cold, 0, 4294967295⟩
def tbNsNs : Fld := ⟨.tbNs, 0, 30, .ro, 0x0, .cold, 0, 1073741823⟩
def tbFracFrac : Fld := ⟨.tbFrac, 0, 16, .ro, 0x0, .cold, 0, 65535⟩
def tbAdjOffset : Fld := ⟨.tbAdj, 0, 30, .wo, 0x0, .warm, 0, 1073741823⟩
def tbAdjStep : Fld := ⟨.tbAdj, 30, 1, .wo, 0x0, .warm, 0, 1⟩
def tbStatState : Fld := ⟨.tbStat, 0, 3, .ro, 0x0, .warm, 0, 7⟩
def tbQualBound : Fld := ⟨.tbQual, 0, 31, .ro, 0x7FFFFFFF, .warm, 0, 2147483647⟩
def tbQualUncertain : Fld := ⟨.tbQual, 31, 1, .ro, 0x1, .warm, 0, 1⟩
def tbEventHoldover : Fld := ⟨.tbEvent, 0, 1, .rw1c, 0x0, .warm, 0, 1⟩
def tbEventSwitched : Fld := ⟨.tbEvent, 1, 1, .rw1c, 0x0, .warm, 0, 1⟩
def tbEventLocked : Fld := ⟨.tbEvent, 2, 1, .rw1c, 0x0, .warm, 0, 1⟩
def tbEventStepped : Fld := ⟨.tbEvent, 3, 1, .rw1c, 0x0, .warm, 0, 1⟩
def tbEventNbr : Fld := ⟨.tbEvent, 4, 1, .rw1c, 0x0, .warm, 0, 1⟩
def ptpLimPathchgNs : Fld := ⟨.ptpLim, 0, 10, .rw, 0x32, .kept, 10, 1000⟩
def ptpLimSwitchNs : Fld := ⟨.ptpLim, 16, 10, .rw, 0x64, .kept, 10, 1000⟩
def ptpHoldHoldMs : Fld := ⟨.ptpHold, 0, 16, .rw, 0x7D0, .kept, 100, 60000⟩
def ptpHoldStepNs : Fld := ⟨.ptpHold, 16, 16, .rw, 0x3E8, .kept, 100, 65535⟩
def ptpBoundBaseNs : Fld := ⟨.ptpBound, 0, 16, .rw, 0x19, .kept, 0, 65535⟩
def ptpBoundDriftPpb : Fld := ⟨.ptpBound, 16, 16, .rw, 0x32, .kept, 0, 65535⟩
def tbNbrWorstOffset : Fld := ⟨.tbNbrWorst, 0, 27, .ro, 0x0, .warm, 0, 134217727⟩
def tbNbrWorstPort : Fld := ⟨.tbNbrWorst, 27, 5, .ro, 0x0, .warm, 0, 31⟩
def ptpCfgDomain : Fld := ⟨.ptpCfg, 0, 8, .rw, 0x0, .kept, 0, 127⟩
def ptpCfgTransport : Fld := ⟨.ptpCfg, 8, 2, .rw, 0x0, .kept, 0, 2⟩
def ptpCfgDelay : Fld := ⟨.ptpCfg, 10, 1, .rw, 0x0, .kept, 0, 1⟩
def ptpCfgEnable : Fld := ⟨.ptpCfg, 11, 1, .rw, 0x1, .kept, 0, 1⟩
def ptpCfgState : Fld := ⟨.ptpCfg, 12, 2, .ro, 0x0, .warm, 0, 3⟩
def ptpOfsValue : Fld := ⟨.ptpOfs, 0, 32, .ro, 0x0, .warm, 0, 4294967295⟩
def ptpMpdValue : Fld := ⟨.ptpMpd, 0, 32, .ro, 0x0, .warm, 0, 4294967295⟩
def ethCtlEnable : Fld := ⟨.ethCtl, 0, 1, .rw, 0x1, .kept, 0, 1⟩
def ethCtlSpeed : Fld := ⟨.ethCtl, 1, 1, .rw, 0x0, .kept, 0, 1⟩
def ethCtlJumbo : Fld := ⟨.ethCtl, 2, 1, .rw, 0x0, .kept, 0, 1⟩
def ethStatLink : Fld := ⟨.ethStat, 0, 1, .ro, 0x0, .warm, 0, 1⟩
def ethStatServing : Fld := ⟨.ethStat, 1, 1, .ro, 0x0, .warm, 0, 1⟩
def ethIp4Addr : Fld := ⟨.ethIp4, 0, 32, .rw, 0x0, .kept, 0, 4294967295⟩
def ethIp6Addr : Fld := ⟨.ethIp6, 0, 32, .rw, 0x0, .kept, 0, 4294967295⟩
def ethTscTx : Fld := ⟨.ethTsc, 0, 16, .ro, 0x208, .cold, 0, 65535⟩
def ethTscRx : Fld := ⟨.ethTsc, 16, 16, .ro, 0x3D0, .cold, 0, 65535⟩
def ctrCfgUdpPort : Fld := ⟨.ctrCfg, 0, 16, .rw, 0x5A46, .kept, 0, 65535⟩
def ctrCfgIdleS : Fld := ⟨.ctrCfg, 16, 8, .rw, 0x3C, .kept, 10, 255⟩
def ctrStatSessions : Fld := ⟨.ctrStat, 0, 5, .ro, 0x0, .warm, 0, 31⟩
def ctrStatControl : Fld := ⟨.ctrStat, 5, 5, .ro, 0x0, .warm, 0, 31⟩
def ctrStatDiscards : Fld := ⟨.ctrStat, 10, 22, .ro, 0x0, .warm, 0, 4194303⟩
def redStatActive : Fld := ⟨.redStat, 0, 1, .ro, 0x0, .warm, 0, 1⟩
def redStatLeaseA : Fld := ⟨.redStat, 1, 1, .ro, 0x0, .warm, 0, 1⟩
def redStatLeaseB : Fld := ⟨.redStat, 2, 1, .ro, 0x0, .warm, 0, 1⟩
def redStatSync : Fld := ⟨.redStat, 3, 1, .ro, 0x0, .warm, 0, 1⟩
def redStatXlink : Fld := ⟨.redStat, 4, 1, .ro, 0x0, .warm, 0, 1⟩
def redHealthCode : Fld := ⟨.redHealth, 0, 3, .ro, 0x5, .warm, 0, 7⟩
def redHealthEthDown : Fld := ⟨.redHealth, 3, 1, .ro, 0x0, .warm, 0, 1⟩
def redHealthRecDegraded : Fld := ⟨.redHealth, 4, 1, .ro, 0x0, .warm, 0, 1⟩
def redCtlWdogReset : Fld := ⟨.redCtl, 0, 1, .rw, 0x0, .kept, 0, 1⟩
def redCtlWdogMs : Fld := ⟨.redCtl, 8, 8, .rw, 0x64, .kept, 10, 255⟩
def redEventFailover : Fld := ⟨.redEvent, 0, 1, .rw1c, 0x0, .warm, 0, 1⟩
def redEventCold : Fld := ⟨.redEvent, 1, 1, .rw1c, 0x0, .warm, 0, 1⟩
def redEventUnsync : Fld := ⟨.redEvent, 2, 1, .rw1c, 0x0, .warm, 0, 1⟩
def redEventSync : Fld := ⟨.redEvent, 3, 1, .rw1c, 0x0, .warm, 0, 1⟩
def redEventLapsed : Fld := ⟨.redEvent, 4, 1, .rw1c, 0x0, .warm, 0, 1⟩
def redFaultRecorder : Fld := ⟨.redFault, 0, 1, .rw1c, 0x0, .warm, 0, 1⟩
def redFaultShutdown : Fld := ⟨.redFault, 1, 1, .rw1c, 0x0, .warm, 0, 1⟩
def redFaultConflict : Fld := ⟨.redFault, 2, 1, .rw1c, 0x0, .warm, 0, 1⟩
def redFaultHubFailed : Fld := ⟨.redFault, 3, 1, .rw1c, 0x0, .warm, 0, 1⟩
def redFwCmdStage : Fld := ⟨.redFwCmd, 0, 16, .wo, 0x0, .warm, 0, 65535⟩
def redFwCmdAction : Fld := ⟨.redFwCmd, 16, 2, .wo, 0x0, .warm, 0, 3⟩
def redFwCmdForce : Fld := ⟨.redFwCmd, 18, 1, .wo, 0x0, .warm, 0, 1⟩
def redFwStatStep : Fld := ⟨.redFwStat, 0, 3, .ro, 0x0, .warm, 0, 7⟩
def redFwStatProgress : Fld := ⟨.redFwStat, 3, 7, .ro, 0x0, .warm, 0, 127⟩
def redFwStatLast : Fld := ⟨.redFwStat, 16, 16, .ro, 0x0, .warm, 0, 65535⟩
def redFwVerVersion : Fld := ⟨.redFwVer, 0, 16, .ro, 0x0, .cold, 0, 65535⟩
def redFwVerRepl : Fld := ⟨.redFwVer, 16, 8, .ro, 0x0, .cold, 0, 255⟩
def redFwVerRecovery : Fld := ⟨.redFwVer, 24, 1, .ro, 0x0, .cold, 0, 1⟩
def redOptimeLoValue : Fld := ⟨.redOptimeLo, 0, 32, .ro, 0x0, .kept, 0, 4294967295⟩
def redOptimeHiValue : Fld := ⟨.redOptimeHi, 0, 8, .ro, 0x0, .kept, 0, 255⟩
def redCyclesValue : Fld := ⟨.redCycles, 0, 24, .ro, 0x0, .kept, 0, 16777215⟩
def recCtlRetry : Fld := ⟨.recCtl, 0, 1, .wo, 0x0, .warm, 0, 1⟩
def recStatDegraded : Fld := ⟨.recStat, 0, 1, .ro, 0x0, .warm, 0, 1⟩
def recStatAdded : Fld := ⟨.recStat, 1, 1, .rw1c, 0x0, .warm, 0, 1⟩
def recOldestSeq : Fld := ⟨.recOldest, 0, 32, .ro, 0x0, .warm, 0, 4294967295⟩
def recNewestSeq : Fld := ⟨.recNewest, 0, 32, .ro, 0x0, .warm, 0, 4294967295⟩
def recCursorSeq : Fld := ⟨.recCursor, 0, 32, .rw, 0x0, .warm, 0, 4294967295⟩
def recWstatState : Fld := ⟨.recWstat, 0, 2, .ro, 0x2, .warm, 0, 3⟩
def recWstatLength : Fld := ⟨.recWstat, 4, 11, .ro, 0x0, .warm, 0, 2047⟩
def recFindSLoValue : Fld := ⟨.recFindSLo, 0, 32, .rw, 0x0, .warm, 0, 4294967295⟩
def recFindSHiValue : Fld := ⟨.recFindSHi, 0, 32, .rw, 0x0, .warm, 0, 4294967295⟩
def recFindNsValue : Fld := ⟨.recFindNs, 0, 32, .rw, 0x0, .warm, 0, 4294967295⟩
def recWinWord : Fld := ⟨.recWin, 0, 32, .ro, 0x0, .warm, 0, 4294967295⟩
def pctSelEvent : Fld := ⟨.pctSel, 0, 32, .rw, 0x0, .warm, 0, 4294967295⟩
def pctValLoLo : Fld := ⟨.pctValLo, 0, 32, .ro, 0x0, .warm, 0, 4294967295⟩
def pctValHiHi : Fld := ⟨.pctValHi, 0, 16, .ro, 0x0, .warm, 0, 65535⟩
def pctValHiInvalid : Fld := ⟨.pctValHi, 29, 1, .ro, 0x0, .warm, 0, 1⟩
def pctValHiDenied : Fld := ⟨.pctValHi, 30, 1, .ro, 0x0, .warm, 0, 1⟩
def pctValHiWrap : Fld := ⟨.pctValHi, 31, 1, .ro, 0x0, .warm, 0, 1⟩
def pctClrWrap : Fld := ⟨.pctClr, 0, 1, .wo, 0x0, .warm, 0, 1⟩
def pctSmpEvtEvent : Fld := ⟨.pctSmpEvt, 0, 32, .rw, 0x0, .warm, 0, 4294967295⟩
def pctSmpCtlPeriod : Fld := ⟨.pctSmpCtl, 0, 24, .rw, 0x1, .warm, 1, 16777215⟩
def pctSmpCtlEnable : Fld := ⟨.pctSmpCtl, 31, 1, .rw, 0x0, .warm, 0, 1⟩
def pctSmpStatCount : Fld := ⟨.pctSmpStat, 0, 13, .ro, 0x0, .warm, 0, 8191⟩
def pctSmpStatLost : Fld := ⟨.pctSmpStat, 16, 16, .ro, 0x0, .warm, 0, 65535⟩
def pctSmpPopPop : Fld := ⟨.pctSmpPop, 0, 1, .wo, 0x0, .warm, 0, 1⟩
def pctSmpWinWord : Fld := ⟨.pctSmpWin, 0, 32, .ro, 0x0, .warm, 0, 4294967295⟩
def dieDbgSelCell : Fld := ⟨.dieDbgSel, 0, 8, .rw, 0x0, .warm, 0, 255⟩
def dieDbgSelItem : Fld := ⟨.dieDbgSel, 8, 3, .rw, 0x0, .warm, 0, 7⟩
def dieDbgSelIndex : Fld := ⟨.dieDbgSel, 11, 19, .rw, 0x0, .warm, 0, 524287⟩
def dieDbgLoData : Fld := ⟨.dieDbgLo, 0, 32, .rw, 0x0, .warm, 0, 4294967295⟩
def dieDbgHiData : Fld := ⟨.dieDbgHi, 0, 32, .rw, 0x0, .warm, 0, 4294967295⟩
def dieDbgCmdWrite : Fld := ⟨.dieDbgCmd, 0, 1, .wo, 0x0, .warm, 0, 1⟩
def secCtlReqSigned : Fld := ⟨.secCtl, 0, 1, .rw, 0x0, .kept, 0, 1⟩
def secCtlSvnCommit : Fld := ⟨.secCtl, 1, 1, .wo, 0x0, .warm, 0, 1⟩
def secStatLc : Fld := ⟨.secStat, 0, 2, .ro, 0x0, .cold, 0, 3⟩
def secStatRights : Fld := ⟨.secStat, 2, 3, .ro, 0x0, .warm, 0, 7⟩
def secStatBootDone : Fld := ⟨.secStat, 5, 1, .ro, 0x0, .warm, 0, 1⟩
def secStatSvnMin : Fld := ⟨.secStat, 16, 6, .ro, 0x0, .cold, 0, 63⟩
def secResetCauseCause : Fld := ⟨.secResetCause, 0, 3, .ro, 0x0, .warm, 0, 7⟩
def secRetSrcGroup0 : Fld := ⟨.secRetSrc, 0, 2, .ro, 0x0, .cold, 0, 3⟩
def secRetSrcGroup1 : Fld := ⟨.secRetSrc, 2, 2, .ro, 0x0, .cold, 0, 3⟩
def secRetSrcGroup2 : Fld := ⟨.secRetSrc, 4, 2, .ro, 0x0, .cold, 0, 3⟩
def secRetSrcGroup3 : Fld := ⟨.secRetSrc, 6, 2, .ro, 0x0, .cold, 0, 3⟩
def secRetSrcGroup4 : Fld := ⟨.secRetSrc, 8, 2, .ro, 0x0, .cold, 0, 3⟩
def secRetSrcGroup5 : Fld := ⟨.secRetSrc, 10, 2, .ro, 0x0, .cold, 0, 3⟩
def secRetSrcGroup6 : Fld := ⟨.secRetSrc, 12, 2, .ro, 0x0, .cold, 0, 3⟩
def secRetSrcGroup7 : Fld := ⟨.secRetSrc, 14, 2, .ro, 0x0, .cold, 0, 3⟩
def secRetSrcGroup8 : Fld := ⟨.secRetSrc, 16, 2, .ro, 0x0, .cold, 0, 3⟩
def secRetSrcGroup9 : Fld := ⟨.secRetSrc, 18, 2, .ro, 0x0, .cold, 0, 3⟩
def secRetSrcGroup10 : Fld := ⟨.secRetSrc, 20, 2, .ro, 0x0, .cold, 0, 3⟩
def secRetSrcGroup11 : Fld := ⟨.secRetSrc, 22, 2, .ro, 0x0, .cold, 0, 3⟩
def secRetSrcGroup12 : Fld := ⟨.secRetSrc, 24, 2, .ro, 0x0, .cold, 0, 3⟩
def secRetSrcGroup13 : Fld := ⟨.secRetSrc, 26, 2, .ro, 0x0, .cold, 0, 3⟩
def secRetSrcGroup14 : Fld := ⟨.secRetSrc, 28, 2, .ro, 0x0, .cold, 0, 3⟩
def secRetSrcGroup15 : Fld := ⟨.secRetSrc, 30, 2, .ro, 0x0, .cold, 0, 3⟩
def secRetCmdCommit : Fld := ⟨.secRetCmd, 0, 1, .wo, 0x0, .warm, 0, 1⟩
def secRetCmdPending : Fld := ⟨.secRetCmd, 1, 1, .ro, 0x0, .warm, 0, 1⟩
def secLcCmdTarget : Fld := ⟨.secLcCmd, 0, 2, .wo, 0x0, .warm, 0, 3⟩
def secLcCmdKey : Fld := ⟨.secLcCmd, 16, 16, .wo, 0x0, .warm, 0, 65535⟩
def secKeySelSlot : Fld := ⟨.secKeySel, 0, 4, .rw, 0x0, .warm, 0, 15⟩
def secKeySelKind : Fld := ⟨.secKeySel, 4, 3, .rw, 0x0, .warm, 0, 4⟩
def secKeyWWord : Fld := ⟨.secKeyW, 0, 32, .rw, 0x0, .warm, 0, 4294967295⟩
def secKeyCmdCommit : Fld := ⟨.secKeyCmd, 0, 1, .wo, 0x0, .warm, 0, 1⟩
def secKeyCmdErase : Fld := ⟨.secKeyCmd, 1, 1, .wo, 0x0, .warm, 0, 1⟩
def secIdPubWord : Fld := ⟨.secIdPub, 0, 32, .ro, 0x0, .cold, 0, 4294967295⟩
def secGrantPtrWord : Fld := ⟨.secGrantPtr, 0, 11, .rw, 0x0, .warm, 0, 1979⟩
def secGrantDataData : Fld := ⟨.secGrantData, 0, 32, .rw, 0x0, .warm, 0, 4294967295⟩
def secGrantCmdCommit : Fld := ⟨.secGrantCmd, 0, 1, .wo, 0x0, .warm, 0, 1⟩
def secGrantCmdRevoke : Fld := ⟨.secGrantCmd, 1, 1, .wo, 0x0, .warm, 0, 1⟩
def secAttNonceWord : Fld := ⟨.secAttNonce, 0, 32, .rw, 0x0, .warm, 0, 4294967295⟩
def secAttCtlGo : Fld := ⟨.secAttCtl, 0, 1, .wo, 0x0, .warm, 0, 1⟩
def secAttCtlSource : Fld := ⟨.secAttCtl, 1, 1, .rw, 0x0, .warm, 0, 1⟩
def secAttCtlPage : Fld := ⟨.secAttCtl, 4, 4, .rw, 0x0, .warm, 0, 15⟩
def secAttStatBusy : Fld := ⟨.secAttStat, 0, 1, .ro, 0x0, .warm, 0, 1⟩
def secAttStatReady : Fld := ⟨.secAttStat, 1, 1, .ro, 0x0, .warm, 0, 1⟩
def secAttStatLength : Fld := ⟨.secAttStat, 16, 14, .ro, 0x0, .warm, 0, 16383⟩
def secAttWinWord : Fld := ⟨.secAttWin, 0, 32, .ro, 0x0, .warm, 0, 4294967295⟩
def elecStatRefclkOk : Fld := ⟨.elecStat, 0, 1, .ro, 0x0, .cold, 0, 1⟩
def elecStatRefclkCause : Fld := ⟨.elecStat, 1, 1, .ro, 0x0, .cold, 0, 1⟩
def elecStatOutOfRange : Fld := ⟨.elecStat, 2, 1, .ro, 0x0, .cold, 0, 1⟩
def elecStatDips : Fld := ⟨.elecStat, 16, 16, .ro, 0x0, .cold, 0, 65535⟩
def elecVminVmin : Fld := ⟨.elecVmin, 0, 16, .ro, 0xFFFF, .cold, 0, 65535⟩
end F

/-- The fields of a register, lowest bit first. -/
def Reg.fields : Reg → List Fld
  | .idPart => [F.idPartPart, F.idPartStep, F.idPartLid]
  | .idPop => [F.idPopDiePresent, F.idPopEngPresent, F.idPopHubPresent]
  | .idSerialLo => [F.idSerialLoSerial]
  | .idSerialHi => [F.idSerialHiSerial]
  | .idCells => [F.idCellsGood]
  | .dieDlqStat => [F.dieDlqStatCount, F.dieDlqStatFull, F.dieDlqStatAdded, F.dieDlqStatOverflow]
  | .dieDlqDiscard => [F.dieDlqDiscardDiscarded]
  | .dieDlqTotal => [F.dieDlqTotalTotal]
  | .bndCtl => [F.bndCtlAutoRetire]
  | .bndStat => [F.bndStatSlotsUsed, F.bndStatLoadBusy, F.bndStatQueued]
  | .bndMapGen => [F.bndMapGenGen]
  | .bndEvent => [F.bndEventReady, F.bndEventRefused, F.bndEventEvicted, F.bndEventRelocated, F.bndEventRetired, F.bndEventFaulted, F.bndEventAbandoned]
  | .bndRetireThresh => [F.bndRetireThreshThresh]
  | .bndCells => [F.bndCellsFree, F.bndCellsRetired]
  | .bndSlotStat => [F.bndSlotStatState, F.bndSlotStatPriority, F.bndSlotStatEvictable, F.bndSlotStatReuse, F.bndSlotStatPreload]
  | .bndRetired => [F.bndRetiredCells]
  | .dieFltStat => [F.dieFltStatCode, F.dieFltStatValid, F.dieFltStatLost, F.dieFltStatOverrun]
  | .dieFltPc => [F.dieFltPcPc]
  | .dieFltInsn => [F.dieFltInsnInsn]
  | .dieFltDetail => [F.dieFltDetailDetail]
  | .dltKeyreq => [F.dltKeyreqHandle]
  | .dltEvent => [F.dltEventKeyBound, F.dltEventKeyCount, F.dltEventIncomplete]
  | .spcEvent => [F.spcEventRollback, F.spcEventResourceWait]
  | .spcRollbacks => [F.spcRollbacksCount]
  | .memCtl => [F.memCtlScrubHours, F.memCtlRowCeThresh, F.memCtlDisturbThresh]
  | .memStkStat => [F.memStkStatWipeBusy, F.memStkStatFailed, F.memStkStatCe, F.memStkStatUe, F.memStkStatRepaired, F.memStkStatSparesLow, F.memStkStatSparesOut, F.memStkStatScrubPass]
  | .memStkCe => [F.memStkCeCount]
  | .memStkUe => [F.memStkUeCount]
  | .memStkUeAddrLo => [F.memStkUeAddrLoOffsetLo]
  | .memStkUeAddrHi => [F.memStkUeAddrHiOffsetHi, F.memStkUeAddrHiValid]
  | .memStkRepair => [F.memStkRepairUsed, F.memStkRepairFewestLeft]
  | .memStkDisturb => [F.memStkDisturbRefreshes]
  | .memScrStat => [F.memScrStatCe, F.memScrStatUe]
  | .memScrCe => [F.memScrCeCount]
  | .memScrUe => [F.memScrUeCount]
  | .talCtl => [F.talCtlEpochAction, F.talCtlDbgSet, F.talCtlDbgActive]
  | .talSel => [F.talSelHandle, F.talSelIndex]
  | .talValue => [F.talValueValue]
  | .talStat => [F.talStatValid, F.talStatOrphaned, F.talStatRemote, F.talStatTakers, F.talStatWatchers]
  | .talMulti => [F.talMultiMulti]
  | .talFaults => [F.talFaultsOver, F.talFaultsUnder]
  | .talSet => [F.talSetValue]
  | .talRehome => [F.talRehomeStation, F.talRehomePostcode]
  | .talEpochEnd => [F.talEpochEndHandle]
  | .talEvent => [F.talEventOverflow, F.talEventUnderflow, F.talEventEpoch, F.talEventOrphaned, F.talEventDbgWrite]
  | .paceCtl => [F.paceCtlEnable, F.paceCtlWindow]
  | .paceVlim => [F.paceVlimVmin, F.paceVlimVmax]
  | .paceFixed => [F.paceFixedFixedMv]
  | .paceHyst => [F.paceHystHystUs]
  | .pwrCap => [F.pwrCapCapW]
  | .pwrIn => [F.pwrInVolt, F.pwrInCurr]
  | .pwrInP => [F.pwrInPPower, F.pwrInPPeak]
  | .pwrStat => [F.pwrStatCapping, F.pwrStatBrake, F.pwrStatBrakeCause, F.pwrStatThermHigh]
  | .pwrEvent => [F.pwrEventCapped, F.pwrEventBrake, F.pwrEventLate, F.pwrEventTherm, F.pwrEventShutdown, F.pwrEventAgeNear]
  | .pwrEnergyLo => [F.pwrEnergyLoEnergy]
  | .pwrEnergyHi => [F.pwrEnergyHiEnergy]
  | .thermCtl => [F.thermCtlHighC]
  | .thermMax => [F.thermMaxTemp, F.thermMaxDomain]
  | .ageCtl => [F.ageCtlEolShift, F.ageCtlWarnDays]
  | .ageModule => [F.ageModuleDays, F.ageModuleKind, F.ageModuleIndex]
  | .ageKind => [F.ageKindDays, F.ageKindIndex]
  | .paceFrmOntime => [F.paceFrmOntimeCount]
  | .paceFrmLate => [F.paceFrmLateCount]
  | .paceFrmSlack => [F.paceFrmSlackSlack]
  | .paceFrmMin => [F.paceFrmMinSlack]
  | .domStat => [F.domStatState, F.domStatGoverned, F.domStatVolt, F.domStatTarget]
  | .domTemp => [F.domTempTemp, F.domTempPeak]
  | .domRate => [F.domRateRate, F.domRatePower]
  | .domAge => [F.domAgeShift, F.domAgeDays]
  | .optCtl => [F.optCtlDacBits, F.optCtlHoBiasPct, F.optCtlHoMargin, F.optCtlTestMargin]
  | .optCtl2 => [F.optCtl2RetryS, F.optCtl2TripMs]
  | .optStat => [F.optStatLightReady, F.optStatSteerBusy, F.optStatHoPending, F.optStatPortsUp]
  | .optEvent => [F.optEventLaneFail, F.optEventSpared, F.optEventDropped, F.optEventMarginShort, F.optEventWrongLambda, F.optEventHandover, F.optEventLaserFail, F.optEventTrip, F.optEventSteerDone]
  | .optSteer => [F.optSteerGo]
  | .optPath => [F.optPathThrough, F.optPathLitA, F.optPathLitB, F.optPathLoop]
  | .optLaser => [F.optLaserState, F.optLaserFailed, F.optLaserBiasPct, F.optLaserPower]
  | .optLaneStat => [F.optLaneStatState, F.optLaneStatCover, F.optLaneStatMargin, F.optLaneStatCause, F.optLaneStatRetries]
  | .optElemSel => [F.optElemSelIndex]
  | .optElemStat => [F.optElemStatState, F.optElemStatIdentOk, F.optElemStatPilot, F.optElemStatHeater, F.optElemStatError]
  | .optElemTrips => [F.optElemTripsCount]
  | .fabCtl => [F.fabCtlTwoNet, F.fabCtlWeightVc0, F.fabCtlWeightVc3]
  | .fabPostcode => [F.fabPostcodePostcode, F.fabPostcodeValid]
  | .fabStat => [F.fabStatRecableBusy, F.fabStatPaused, F.fabStatLinksUp]
  | .fabEvent => [F.fabEventLinkDown, F.fabEventLinkLost, F.fabEventLinkUp, F.fabEventUnplanned, F.fabEventAbsent, F.fabEventBypassed, F.fabEventRecableDone, F.fabEventCollResend, F.fabEventCollAbort, F.fabEventTofDone]
  | .fabRecable => [F.fabRecableGo, F.fabRecableResume, F.fabRecablePause]
  | .fabRbAddr => [F.fabRbAddrIndex]
  | .fabRbData => [F.fabRbDataEntry]
  | .fabRbActive => [F.fabRbActiveEntry]
  | .fabRbCtl => [F.fabRbCtlSwap, F.fabRbCtlCopy, F.fabRbCtlGen]
  | .fabRbErr => [F.fabRbErrIndex]
  | .fabPort => [F.fabPortState, F.fabPortRole, F.fabPortLanes, F.fabPortLinks]
  | .fabExpect => [F.fabExpectNbr, F.fabExpectNbrPort, F.fabExpectKind]
  | .fabBypass => [F.fabBypassNbr, F.fabBypassNbrPort, F.fabBypassValid]
  | .fabFar => [F.fabFarPostcode, F.fabFarPort, F.fabFarKind, F.fabFarMatch, F.fabFarLinkState]
  | .fabTof => [F.fabTofTof, F.fabTofValid, F.fabTofEcho]
  | .calCtl => [F.calCtlEnable, F.calCtlStarveS]
  | .calStat => [F.calStatRunning, F.calStatDue]
  | .calEvent => [F.calEventRunDone, F.calEventBadRun, F.calEventAbandoned, F.calEventStarved, F.calEventItemFailed, F.calEventRefMismatch, F.calEventRestored]
  | .calRefFault => [F.calRefFaultDie, F.calRefFaultEngine, F.calRefFaultHub]
  | .calTrig => [F.calTrigThresh]
  | .calSel => [F.calSelClass, F.calSelInstance, F.calSelWord]
  | .calItemStat => [F.calItemStatSource, F.calItemStatDue, F.calItemStatRunning, F.calItemStatFailed, F.calItemStatBadRuns, F.calItemStatTref]
  | .calItemQual => [F.calItemQualQuality, F.calItemQualAgeS]
  | .calData => [F.calDataWordData]
  | .calCmd => [F.calCmdCommit, F.calCmdRun]
  | .srvCtl => [F.srvCtlOutHoldMs, F.srvCtlPwmKhz]
  | .srvStat => [F.srvStatActiveHub, F.srvStatStandbySync, F.srvStatClosed]
  | .srvEvent => [F.srvEventTrip, F.srvEventOverrun, F.srvEventStuck, F.srvEventSpHold, F.srvEventOutHold, F.srvEventColdOpen, F.srvEventCapDone, F.srvEventCapAbort, F.srvEventNumSat]
  | .srvSel => [F.srvSelKind, F.srvSelIndex, F.srvSelParam, F.srvSelElem]
  | .srvParam => [F.srvParamValue]
  | .srvCmd => [F.srvCmdCmd]
  | .srvObjStat => [F.srvObjStatState, F.srvObjStatSpHold, F.srvObjStatSat, F.srvObjStatCause, F.srvObjStatReason, F.srvObjStatCount]
  | .tbCtl => [F.tbCtlServo, F.tbCtlSelect, F.tbCtlAutoSwitch, F.tbCtlSlewPpm]
  | .tbIncrLo => [F.tbIncrLoIncrLo]
  | .tbIncrHi => [F.tbIncrHiIncrHi]
  | .tbSecLo => [F.tbSecLoSec]
  | .tbSecHi => [F.tbSecHiSec]
  | .tbNs => [F.tbNsNs]
  | .tbFrac => [F.tbFracFrac]
  | .tbAdj => [F.tbAdjOffset, F.tbAdjStep]
  | .tbStat => [F.tbStatState]
  | .tbQual => [F.tbQualBound, F.tbQualUncertain]
  | .tbEvent => [F.tbEventHoldover, F.tbEventSwitched, F.tbEventLocked, F.tbEventStepped, F.tbEventNbr]
  | .ptpLim => [F.ptpLimPathchgNs, F.ptpLimSwitchNs]
  | .ptpHold => [F.ptpHoldHoldMs, F.ptpHoldStepNs]
  | .ptpBound => [F.ptpBoundBaseNs, F.ptpBoundDriftPpb]
  | .tbNbrWorst => [F.tbNbrWorstOffset, F.tbNbrWorstPort]
  | .ptpCfg => [F.ptpCfgDomain, F.ptpCfgTransport, F.ptpCfgDelay, F.ptpCfgEnable, F.ptpCfgState]
  | .ptpOfs => [F.ptpOfsValue]
  | .ptpMpd => [F.ptpMpdValue]
  | .ethCtl => [F.ethCtlEnable, F.ethCtlSpeed, F.ethCtlJumbo]
  | .ethStat => [F.ethStatLink, F.ethStatServing]
  | .ethIp4 => [F.ethIp4Addr]
  | .ethIp6 => [F.ethIp6Addr]
  | .ethTsc => [F.ethTscTx, F.ethTscRx]
  | .ctrCfg => [F.ctrCfgUdpPort, F.ctrCfgIdleS]
  | .ctrStat => [F.ctrStatSessions, F.ctrStatControl, F.ctrStatDiscards]
  | .redStat => [F.redStatActive, F.redStatLeaseA, F.redStatLeaseB, F.redStatSync, F.redStatXlink]
  | .redHealth => [F.redHealthCode, F.redHealthEthDown, F.redHealthRecDegraded]
  | .redCtl => [F.redCtlWdogReset, F.redCtlWdogMs]
  | .redEvent => [F.redEventFailover, F.redEventCold, F.redEventUnsync, F.redEventSync, F.redEventLapsed]
  | .redFault => [F.redFaultRecorder, F.redFaultShutdown, F.redFaultConflict, F.redFaultHubFailed]
  | .redFwCmd => [F.redFwCmdStage, F.redFwCmdAction, F.redFwCmdForce]
  | .redFwStat => [F.redFwStatStep, F.redFwStatProgress, F.redFwStatLast]
  | .redFwVer => [F.redFwVerVersion, F.redFwVerRepl, F.redFwVerRecovery]
  | .redOptimeLo => [F.redOptimeLoValue]
  | .redOptimeHi => [F.redOptimeHiValue]
  | .redCycles => [F.redCyclesValue]
  | .recCtl => [F.recCtlRetry]
  | .recStat => [F.recStatDegraded, F.recStatAdded]
  | .recOldest => [F.recOldestSeq]
  | .recNewest => [F.recNewestSeq]
  | .recCursor => [F.recCursorSeq]
  | .recWstat => [F.recWstatState, F.recWstatLength]
  | .recFindSLo => [F.recFindSLoValue]
  | .recFindSHi => [F.recFindSHiValue]
  | .recFindNs => [F.recFindNsValue]
  | .recWin => [F.recWinWord]
  | .pctSel => [F.pctSelEvent]
  | .pctValLo => [F.pctValLoLo]
  | .pctValHi => [F.pctValHiHi, F.pctValHiInvalid, F.pctValHiDenied, F.pctValHiWrap]
  | .pctClr => [F.pctClrWrap]
  | .pctSmpEvt => [F.pctSmpEvtEvent]
  | .pctSmpCtl => [F.pctSmpCtlPeriod, F.pctSmpCtlEnable]
  | .pctSmpStat => [F.pctSmpStatCount, F.pctSmpStatLost]
  | .pctSmpPop => [F.pctSmpPopPop]
  | .pctSmpWin => [F.pctSmpWinWord]
  | .dieDbgSel => [F.dieDbgSelCell, F.dieDbgSelItem, F.dieDbgSelIndex]
  | .dieDbgLo => [F.dieDbgLoData]
  | .dieDbgHi => [F.dieDbgHiData]
  | .dieDbgCmd => [F.dieDbgCmdWrite]
  | .secCtl => [F.secCtlReqSigned, F.secCtlSvnCommit]
  | .secStat => [F.secStatLc, F.secStatRights, F.secStatBootDone, F.secStatSvnMin]
  | .secResetCause => [F.secResetCauseCause]
  | .secRetSrc => [F.secRetSrcGroup0, F.secRetSrcGroup1, F.secRetSrcGroup2, F.secRetSrcGroup3, F.secRetSrcGroup4, F.secRetSrcGroup5, F.secRetSrcGroup6, F.secRetSrcGroup7, F.secRetSrcGroup8, F.secRetSrcGroup9, F.secRetSrcGroup10, F.secRetSrcGroup11, F.secRetSrcGroup12, F.secRetSrcGroup13, F.secRetSrcGroup14, F.secRetSrcGroup15]
  | .secRetCmd => [F.secRetCmdCommit, F.secRetCmdPending]
  | .secLcCmd => [F.secLcCmdTarget, F.secLcCmdKey]
  | .secKeySel => [F.secKeySelSlot, F.secKeySelKind]
  | .secKeyW => [F.secKeyWWord]
  | .secKeyCmd => [F.secKeyCmdCommit, F.secKeyCmdErase]
  | .secIdPub => [F.secIdPubWord]
  | .secGrantPtr => [F.secGrantPtrWord]
  | .secGrantData => [F.secGrantDataData]
  | .secGrantCmd => [F.secGrantCmdCommit, F.secGrantCmdRevoke]
  | .secAttNonce => [F.secAttNonceWord]
  | .secAttCtl => [F.secAttCtlGo, F.secAttCtlSource, F.secAttCtlPage]
  | .secAttStat => [F.secAttStatBusy, F.secAttStatReady, F.secAttStatLength]
  | .secAttWin => [F.secAttWinWord]
  | .elecStat => [F.elecStatRefclkOk, F.elecStatRefclkCause, F.elecStatOutOfRange, F.elecStatDips]
  | .elecVmin => [F.elecVminVmin]

/-! Every register, in the order of the tables. -/
def Reg.all0 : List Reg :=
  [.idPart, .idPop, .idSerialLo, .idSerialHi, .idCells, .dieDlqStat, .dieDlqDiscard, .dieDlqTotal, .bndCtl, .bndStat, .bndMapGen, .bndEvent, .bndRetireThresh, .bndCells, .bndSlotStat, .bndRetired, .dieFltStat, .dieFltPc, .dieFltInsn, .dieFltDetail, .dltKeyreq, .dltEvent, .spcEvent, .spcRollbacks]
def Reg.all1 : List Reg :=
  [.memCtl, .memStkStat, .memStkCe, .memStkUe, .memStkUeAddrLo, .memStkUeAddrHi, .memStkRepair, .memStkDisturb, .memScrStat, .memScrCe, .memScrUe, .talCtl, .talSel, .talValue, .talStat, .talMulti, .talFaults, .talSet, .talRehome, .talEpochEnd, .talEvent, .paceCtl, .paceVlim, .paceFixed]
def Reg.all2 : List Reg :=
  [.paceHyst, .pwrCap, .pwrIn, .pwrInP, .pwrStat, .pwrEvent, .pwrEnergyLo, .pwrEnergyHi, .thermCtl, .thermMax, .ageCtl, .ageModule, .ageKind, .paceFrmOntime, .paceFrmLate, .paceFrmSlack, .paceFrmMin, .domStat, .domTemp, .domRate, .domAge, .optCtl, .optCtl2, .optStat]
def Reg.all3 : List Reg :=
  [.optEvent, .optSteer, .optPath, .optLaser, .optLaneStat, .optElemSel, .optElemStat, .optElemTrips, .fabCtl, .fabPostcode, .fabStat, .fabEvent, .fabRecable, .fabRbAddr, .fabRbData, .fabRbActive, .fabRbCtl, .fabRbErr, .fabPort, .fabExpect, .fabBypass, .fabFar, .fabTof, .calCtl]
def Reg.all4 : List Reg :=
  [.calStat, .calEvent, .calRefFault, .calTrig, .calSel, .calItemStat, .calItemQual, .calData, .calCmd, .srvCtl, .srvStat, .srvEvent, .srvSel, .srvParam, .srvCmd, .srvObjStat, .tbCtl, .tbIncrLo, .tbIncrHi, .tbSecLo, .tbSecHi, .tbNs, .tbFrac, .tbAdj]
def Reg.all5 : List Reg :=
  [.tbStat, .tbQual, .tbEvent, .ptpLim, .ptpHold, .ptpBound, .tbNbrWorst, .ptpCfg, .ptpOfs, .ptpMpd, .ethCtl, .ethStat, .ethIp4, .ethIp6, .ethTsc, .ctrCfg, .ctrStat, .redStat, .redHealth, .redCtl, .redEvent, .redFault, .redFwCmd, .redFwStat]
def Reg.all6 : List Reg :=
  [.redFwVer, .redOptimeLo, .redOptimeHi, .redCycles, .recCtl, .recStat, .recOldest, .recNewest, .recCursor, .recWstat, .recFindSLo, .recFindSHi, .recFindNs, .recWin, .pctSel, .pctValLo, .pctValHi, .pctClr, .pctSmpEvt, .pctSmpCtl, .pctSmpStat, .pctSmpPop, .pctSmpWin, .dieDbgSel]
def Reg.all7 : List Reg :=
  [.dieDbgLo, .dieDbgHi, .dieDbgCmd, .secCtl, .secStat, .secResetCause, .secRetSrc, .secRetCmd, .secLcCmd, .secKeySel, .secKeyW, .secKeyCmd, .secIdPub, .secGrantPtr, .secGrantData, .secGrantCmd, .secAttNonce, .secAttCtl, .secAttStat, .secAttWin, .elecStat, .elecVmin]
/-- Every register, in the order of the tables. -/
def Reg.all : List Reg := Reg.all0 ++ Reg.all1 ++ Reg.all2 ++ Reg.all3 ++ Reg.all4 ++ Reg.all5 ++ Reg.all6 ++ Reg.all7

end Sys2Proof.Machine
end

