-- ==== Sys2Proof/Config.lean ====
section
/-!
DEFINITION. What the spec leaves open, as constants with no body: nothing in Lean can evaluate them, so a statement
proved of the machine holds for every value of them. Each is named in a log entry of notes/assumptions.
-/
namespace Sys2Proof

/-- A fresh open value, by the number of open values taken so far (the field `free` of State): what `ENDSTAT` reads of
an output port's readiness (R159), and every other value the spec leaves to traffic. (DESIGN CHOICE, log entry 6) -/
opaque Config.freeWord : Nat → DWord

/-- The place, in units in the last place from the correctly rounded result, of the result of a class D or T vector
operation (R192: which result within the bound is not specified, but a fixed function of the input). The arguments are
the operation's FN, whether it is the FP64 form, and the operand's encoding. (DESIGN CHOICE, log entry 6; DEDUCED, log entry 55) -/
opaque Config.transcendPick : Nat → Bool → Nat → Int

/-- For SIN and COS beyond the ulp-bounded range (R192): the offset from the correctly rounded result, in the same units. (DESIGN CHOICE, log entry 6) -/
opaque Config.wideTrigPick : Nat → Bool → Nat → Int

/-- The encoding of element `i` of an MX block whose scale byte is 0xFF after a conversion (R119 states the scale byte
alone). The arguments are the format code, the encodings of the values converted, and the element's place. (DESIGN CHOICE, log entry 6) -/
opaque Config.mxNanElement : Nat → List (Option (Int × Int)) → Nat → Nat

/-- The placer's free choices (R87: the placement algorithm is not specified but is a fixed function of the bundle's
bytes, the load options, the firmware version and the placement state). The arguments are those, coded as numbers, and
the number of the choice within the placement; a choice among `n` legal options is this value modulo `n`. (DESIGN CHOICE, log entry 6; DESIGN CHOICE, log entry 23) -/
opaque Config.placerPick : List Byte → List Nat → Nat → Nat

/-- The predicted increase of a domain's power in 0.1 W when its voltage is raised (R309: "the prediction uses each domain's
measured power and its measured curve", with no formula): power, curve, present and new voltage. (DESIGN CHOICE, log entry 6; DESIGN CHOICE, log entry 28) -/
opaque Config.powerPredict : Nat → List (Nat × Nat) → Nat → Nat → Nat

/-- Verification of an SLH-DSA-SHA2-128s signature: public key, message, signature (external standard). (DESIGN CHOICE, log entry 22) -/
opaque Config.slhVerify : List Byte → List Byte → List Byte → Bool

/-- Signing with a device-held key: key name, message (external standard). (DESIGN CHOICE, log entry 47) -/
opaque Config.slhSign : List Byte → List Byte → List Byte

/-- ML-KEM-768 encapsulation to a key with given randomness: ciphertext and shared secret (external standard). (DESIGN CHOICE, log entry 47) -/
opaque Config.mlkemEncaps : List Byte → Nat → List Byte × List Byte

/-- Bytes of the module's random source, by the number of values taken so far. (DESIGN CHOICE, log entry 47) -/
opaque Config.randomBytes : Nat → Nat → List Byte

/-- The factory values of a calibrated item (R408: those measured at production test; R406: opaque to the host): QUALITY and the
value words, by class and instance. (DESIGN CHOICE, log entry 6; DESIGN CHOICE, log entry 32) -/
opaque Config.calFactory : Nat → Nat → Nat × List Word

/-- The fixed latencies that a port's IDENT carries (R370: the module's own, with no figure): the port, and 0 transmit, 1
receive, 2 the loop of its pair cells, in units of 10 ps. (DESIGN CHOICE, log entry 6; DESIGN CHOICE, log entry 30) -/
opaque Config.latency : Nat → Nat → Nat

/-- The coded words that hold a message's content (R361 gives them no layout): at most 13 words of 18 bytes. (DESIGN CHOICE, log
entry 6; DESIGN CHOICE, log entry 31) -/
opaque Config.messageWords : FlitBody → List Byte

/-- The heater power in ‰ of maximum that the calibrated slope of an element predicts for its target, and the park power calibrated
for a ring (R334, with no formula): whether parked, the element's index, the value words of its HEATER item. (DESIGN CHOICE, log
entry 6; DESIGN CHOICE, log entry 30) -/
opaque Config.heaterStart : Bool → Nat → List Word → Nat

/-- Public half of the device identity key (R537), by serial number and how often one was generated. (DESIGN CHOICE, log entry 47) -/
opaque Config.identityKey : Nat → Nat → List Byte
/-- The two endorsement statements of R537, by the same. (DESIGN CHOICE, log entry 47) -/
opaque Config.endorsement : Nat → Nat → List Byte
/-- The bytes of a retained-state copy as the store holds it (R527 gives its content and no layout), by its generation and the
numbers it holds. (DESIGN CHOICE, log entry 45) -/
opaque Config.retainedImage : Nat → List (Nat × Nat) → List Byte
/-- The bytes of the key table as the store holds it (R534 gives no layout), by kind and key of each slot. (DESIGN CHOICE, log entry 45) -/
opaque Config.keyTableImage : List (Nat × List Byte) → List Byte
/-- SHA-256 of the firmware image that a hub is delivered with. -/
opaque Config.factoryImageHash : List Byte
/-- The four fused hashes of firmware keys and their revocation bits (R531). -/
opaque Config.fwKeyHash : Nat → List Byte
opaque Config.fwKeyRevoked : Nat → Bool

/-- The sine of a chirp as FP32 (R434 gives the formula and no precision): TEST_AMP, F0, F1, TEST_LEN, the loop's period in
ns and the sample number. (DESIGN CHOICE, log entry 6) -/
opaque Config.chirp : Word → Word → Word → Nat → Nat → Nat → Word

/-- The value that a servo engine takes for an FP32 input that is not finite (R417 forms a block from finite values alone), as
a multiple of 2^−149. (DESIGN CHOICE, log entry 6; DESIGN CHOICE, log entry 33) -/
opaque Config.servoNonFinite : Word → Int

/-- The senses in which a pulse pair counts, which R436 leaves open: whether a step with the direction level active counts up,
and whether A leading B in quadrature counts up. (DESIGN CHOICE, log entry 6; DESIGN CHOICE, log entry 35) -/
opaque Config.stepUp : Bool
/-- DESIGN CHOICE, log entry 6; DESIGN CHOICE, log entry 35. -/
opaque Config.quadUp : Bool

end Sys2Proof
end

