-- ==== Sys2Proof/Machine/Num.lean ====
section
/-!
DEFINITION. Number formats and conversions (R44, R108 to R128): exact values, the element formats, rounding, block
scales, and the counts of R138. Values are exact dyadic numbers, so that every rounding happens in one named place.
-/
namespace Sys2Proof.Machine
open Sys2Proof

/-- An exact value: NaN, an infinity, a signed zero, or ± m × 2^e with m > 0. -/
inductive NumV where
  | nan
  | inf (neg : Bool)
  | zero (neg : Bool)
  | fin (neg : Bool) (m : Nat) (e : Int)
  deriving DecidableEq, Repr

/-- What the last two columns of R111 give a floating-point format. -/
inductive FpSpecial where
  | ieee | e4m3 | none
  deriving DecidableEq, Repr

/-- A floating-point element layout of R111. -/
structure FpFmt where
  ebits : Nat
  sbits : Nat
  bias : Nat
  special : FpSpecial
  deriving DecidableEq, Repr

def fp64 : FpFmt := ⟨11, 52, 1023, .ieee⟩
def fp32 : FpFmt := ⟨8, 23, 127, .ieee⟩
def bf16 : FpFmt := ⟨8, 7, 127, .ieee⟩
def fp16 : FpFmt := ⟨5, 10, 15, .ieee⟩
def fpE4M3 : FpFmt := ⟨4, 3, 7, .e4m3⟩
def fpE5M2 : FpFmt := ⟨5, 2, 15, .ieee⟩
def fpE3M2 : FpFmt := ⟨3, 2, 3, .none⟩
def fpE2M3 : FpFmt := ⟨2, 3, 1, .none⟩
def fpE2M1 : FpFmt := ⟨2, 1, 1, .none⟩

/-- Bits of an element of the layout. -/
def FpFmt.width (f : FpFmt) : Nat := 1 + f.ebits + f.sbits
/-- Exponent of the least significant bit of a subnormal. -/
def FpFmt.qmin (f : FpFmt) : Int := 1 - (f.bias : Int) - f.sbits
/-- The magnitude encoding of the largest finite value (R111). -/
def FpFmt.maxMag (f : FpFmt) : Nat :=
  match f.special with
  | .ieee => (2 ^ f.ebits - 1) * 2 ^ f.sbits - 1
  | .e4m3 => 2 ^ (f.ebits + f.sbits) - 2
  | .none => 2 ^ (f.ebits + f.sbits) - 1
/-- The canonical NaN of R113. -/
def FpFmt.canonNaN (f : FpFmt) : Nat :=
  match f.special with
  | .ieee => (2 ^ f.ebits - 1) * 2 ^ f.sbits + 2 ^ (f.sbits - 1)
  | .e4m3 => 2 ^ (f.ebits + f.sbits) - 1
  | .none => 0
/-- The sign bit of an encoding. -/
def FpFmt.signBit (f : FpFmt) (neg : Bool) : Nat := b2n neg * 2 ^ (f.ebits + f.sbits)

/-- The value of a finite magnitude encoding (R111): zero, subnormal or normal. -/
def FpFmt.magValue (f : FpFmt) (neg : Bool) (mag : Nat) : NumV :=
  let ex := mag / 2 ^ f.sbits
  let sg := mag % 2 ^ f.sbits
  if mag = 0 then .zero neg
  else if ex = 0 then .fin neg sg f.qmin
  else .fin neg (2 ^ f.sbits + sg) (f.qmin + ex - 1)

/-- The value of an encoding (R111). -/
def FpFmt.decode (f : FpFmt) (x : Nat) : NumV :=
  let neg := bitAt x (f.ebits + f.sbits)
  let mag := x % 2 ^ (f.ebits + f.sbits)
  match f.special with
  | .ieee =>
    if mag / 2 ^ f.sbits = 2 ^ f.ebits - 1 then (if mag % 2 ^ f.sbits = 0 then .inf neg else .nan)
    else f.magValue neg mag
  | .e4m3 => if mag = 2 ^ (f.ebits + f.sbits) - 1 then .nan else f.magValue neg mag
  | .none => f.magValue neg mag

/-- Kinds of elements of the formats of R44. -/
inductive ElemKind where
  | raw
  | fp (f : FpFmt) (saturates : Bool)
  | int (w : Nat)
  | mx (f : FpFmt) (emax : Nat)
  | mxInt
  | sb (w : Nat)
  deriving DecidableEq, Repr

/-- One row of R44. -/
structure FmtInfo where
  bits : Nat
  maxElems : Nat
  kind : ElemKind
  deriving DecidableEq, Repr

/-- The format codes of R44; none for a code it does not list. -/
def fmtInfo (code : Nat) : Option FmtInfo :=
  match code with
  | 0x00 => some ⟨8, 4096, .raw⟩
  | 0x01 => some ⟨64, 512, .fp fp64 false⟩
  | 0x02 => some ⟨32, 1024, .fp fp32 false⟩
  | 0x03 => some ⟨16, 2048, .fp bf16 false⟩
  | 0x04 => some ⟨16, 2048, .fp fp16 false⟩
  | 0x05 => some ⟨8, 4096, .fp fpE4M3 true⟩
  | 0x06 => some ⟨8, 4096, .fp fpE5M2 true⟩
  | 0x10 => some ⟨8, 4096, .mx fpE4M3 8⟩
  | 0x11 => some ⟨8, 4096, .mx fpE5M2 15⟩
  | 0x12 => some ⟨6, 4096, .mx fpE3M2 4⟩
  | 0x13 => some ⟨6, 4096, .mx fpE2M3 2⟩
  | 0x14 => some ⟨4, 4096, .mx fpE2M1 2⟩
  | 0x15 => some ⟨8, 4096, .mxInt⟩
  | 0x20 => some ⟨8, 4096, .int 8⟩
  | 0x21 => some ⟨4, 8192, .int 4⟩
  | 0x22 => some ⟨32, 1024, .int 32⟩
  | 0x30 => some ⟨6, 4096, .sb 6⟩
  | 0x31 => some ⟨4, 4096, .sb 4⟩
  | _ => none

def ElemKind.isMx : ElemKind → Bool
  | .mx _ _ => true
  | .mxInt => true
  | _ => false
def ElemKind.isSb : ElemKind → Bool
  | .sb _ => true
  | _ => false
def isMxFmt (code : Nat) : Bool := match fmtInfo code with | some i => i.kind.isMx | none => false
def isSbFmt (code : Nat) : Bool := match fmtInfo code with | some i => i.kind.isSb | none => false
/-- Elements that share one scale byte or stamp (R109, R110). -/
def ElemKind.blockLen (k : ElemKind) : Nat := if k.isMx then 32 else 16

/-! ### Exact arithmetic -/

def NumV.isNaN : NumV → Bool
  | .nan => true
  | _ => false
def NumV.isInf : NumV → Bool
  | .inf _ => true
  | _ => false
def NumV.isZero : NumV → Bool
  | .zero _ => true
  | _ => false
def NumV.neg? : NumV → Bool
  | .nan => false
  | .inf s => s
  | .zero s => s
  | .fin s _ _ => s
def NumV.negate : NumV → NumV
  | .nan => .nan
  | .inf s => .inf (!s)
  | .zero s => .zero (!s)
  | .fin s m e => .fin (!s) m e
def NumV.abs : NumV → NumV
  | .nan => .nan
  | .inf _ => .inf false
  | .zero _ => .zero false
  | .fin _ m e => .fin false m e

/-- An exact integer multiple of 2^e as a value; zero takes the sign given. -/
def NumV.ofInt (zneg : Bool) (i e : Int) : NumV :=
  if i = 0 then .zero zneg else .fin (decide (i < 0)) i.natAbs e
/-- floor(log2 (m × 2^e)) for m > 0. -/
def floorLog2 (m : Nat) (e : Int) : Int := (log2 m : Int) + e
/-- Whether m1 × 2^e1 < m2 × 2^e2. -/
def magLt (m1 : Nat) (e1 : Int) (m2 : Nat) (e2 : Int) : Bool :=
  let e := min e1 e2
  decide (m1 * 2 ^ (e1 - e).toNat < m2 * 2 ^ (e2 - e).toNat)
/-- Exact product, with the special cases of IEEE 754-2019. -/
def NumV.mul : NumV → NumV → NumV
  | .nan, _ => .nan
  | _, .nan => .nan
  | .inf a, .inf b => .inf (a != b)
  | .inf _, .zero _ => .nan
  | .zero _, .inf _ => .nan
  | .inf a, .fin b _ _ => .inf (a != b)
  | .fin a _ _, .inf b => .inf (a != b)
  | .zero a, .zero b => .zero (a != b)
  | .zero a, .fin b _ _ => .zero (a != b)
  | .fin a _ _, .zero b => .zero (a != b)
  | .fin a m e, .fin b n f => .fin (a != b) (m * n) (e + f)
/-- Signed significand. -/
def sgnInt (s : Bool) (m : Nat) : Int := if s then -(m : Int) else m
/-- Exact sum; an exact zero of opposite signs is +0, as round-to-nearest gives (R135). -/
def NumV.add : NumV → NumV → NumV
  | .nan, _ => .nan
  | _, .nan => .nan
  | .inf a, .inf b => if a = b then .inf a else .nan
  | .inf a, _ => .inf a
  | _, .inf b => .inf b
  | .zero a, .zero b => .zero (a && b)
  | .zero _, y => y
  | x, .zero _ => x
  | .fin a m e, .fin b n f =>
    let q := min e f
    .ofInt false (sgnInt a m * 2 ^ (e - q).toNat + sgnInt b n * 2 ^ (f - q).toNat) q
def NumV.sub (a b : NumV) : NumV := a.add b.negate
/-- Numeric order of two values that are not NaN, with −0 below +0 (R190). -/
def NumV.lt : NumV → NumV → Bool
  | .nan, _ => false
  | _, .nan => false
  | .inf a, .inf b => a && !b
  | .inf a, _ => a
  | _, .inf b => !b
  | .zero a, .zero b => a && !b
  | .zero _, .fin b _ _ => !b
  | .fin a _ _, .zero _ => a
  | .fin a m e, .fin b n f =>
    if a != b then a else if a then magLt n f m e else magLt m e n f
/-- `a > b` numerically, ±0 equal, false for NaN (GT of R187). -/
def NumV.gt (a b : NumV) : Bool := if a.isZero && b.isZero then false else b.lt a
/-- IEEE 754-2019 minimum and maximum (R190). -/
def NumV.minimum (a b : NumV) : NumV := if a.isNaN || b.isNaN then .nan else if b.lt a then b else a
def NumV.maximum (a b : NumV) : NumV := if a.isNaN || b.isNaN then .nan else if a.lt b then b else a

/-! ### The stochastic-rounding generator (R127) -/

/-- The 64-bit generator, with the draws left of the last value it returned. -/
structure Gen where
  st : DWord
  left : Nat
  deriving DecidableEq, Repr

/-- The generator as a bundle load sets it from SEED (R127). -/
def Gen.seed (s : DWord) : Gen := ⟨if s = 0 then 0x9E3779B97F4A7C15#64 else s, 0⟩
/-- next() of R127. -/
def Gen.next (x : DWord) : DWord :=
  let a := x ^^^ (x <<< 13)
  let b := a ^^^ (a >>> 7)
  b ^^^ (b <<< 17)
/-- One 16-bit draw (R127): bits 15:0 of a value first. (DEDUCED, log entry 55) -/
def Gen.draw (g : Gen) : Nat × Gen :=
  if g.left = 0 then ((Gen.next g.st).toNat % 65536, ⟨Gen.next g.st, 3⟩)
  else (fieldOf g.st.toNat (16 * (4 - g.left)) 16, ⟨g.st, g.left - 1⟩)

/-! ### Counts (R138) -/

/-- Counts of the arithmetic events of R138 that one instruction causes. -/
structure Cnt where
  nan : Nat := 0
  inf : Nat := 0
  sat : Nat := 0
  nanToInt : Nat := 0
  under : Nat := 0
  draws : Nat := 0
  deriving DecidableEq, Repr
def Cnt.add (a b : Cnt) : Cnt :=
  ⟨a.nan + b.nan, a.inf + b.inf, a.sat + b.sat, a.nanToInt + b.nanToInt, a.under + b.under, a.draws + b.draws⟩

/-! ### Rounding (R124, R126) -/

/-- Rounding modes of R125. -/
inductive RMode where
  | rne | sr
  deriving DecidableEq, Repr

/-- num ÷ den (den > 0) rounded to an integer: to nearest even (R124), or stochastically with d the first 16 bits of
the discarded fraction and one draw (R126). The second component is the number of draws taken. -/
def roundRat (md : RMode) (g : Gen) (num den : Nat) : Nat × Nat × Gen :=
  let lo := num / den
  let rem := num % den
  if rem = 0 then (lo, 0, g)
  else match md with
    | .rne =>
      if 2 * rem < den then (lo, 0, g)
      else if den < 2 * rem then (lo + 1, 0, g)
      else (if lo % 2 = 0 then lo else lo + 1, 0, g)
    | .sr =>
      let (r, g') := g.draw
      (if 65536 ≤ rem * 65536 / den + r then lo + 1 else lo, 1, g')

/-- m × 2^e as a multiple of 2^q, rounded. (DEDUCED, log entry 55) -/
def roundQ (md : RMode) (g : Gen) (m : Nat) (e q : Int) : Nat × Nat × Gen :=
  if q ≤ e then (m * 2 ^ (e - q).toNat, 0, g) else roundRat md g m (2 ^ (q - e).toNat)

/-- One encoded element, the counts it caused and the generator after it. -/
structure Enc1 where
  bits : Nat
  cnt : Cnt
  gen : Gen
  deriving DecidableEq, Repr

/-- The result of a finite value beyond the largest finite, or of an infinity, in the format (R119). -/
def FpFmt.overflow (f : FpFmt) (saturates neg : Bool) (g : Gen) : Enc1 :=
  if saturates then ⟨f.signBit neg + f.maxMag, { sat := 1 }, g⟩
  else ⟨f.signBit neg + f.maxMag + 1, { inf := 1 }, g⟩

/-- Narrowing of one value to a floating-point element (R119, R124, R126). (DEDUCED, log entry 55) -/
def FpFmt.encode (f : FpFmt) (saturates : Bool) (md : RMode) (g : Gen) (v : NumV) : Enc1 :=
  match v with
  | .nan => ⟨f.canonNaN, { nan := 1 }, g⟩
  | .inf s =>
    match f.special with
    | .ieee => ⟨f.signBit s + f.maxMag + 1, {}, g⟩
    | _ => ⟨f.signBit s + f.maxMag, { sat := 1 }, g⟩
  | .zero s => ⟨f.signBit s, {}, g⟩
  | .fin s m e =>
    let beyond := match f.magValue false f.maxMag with
      | .fin _ mm me => magLt mm me m e
      | _ => false
    if beyond && (saturates || md = .sr) then f.overflow saturates s g
    else
      let q := max (floorLog2 m e - f.sbits) f.qmin
      let (n, d, g') := roundQ md g m e q
      let mag := (q - f.qmin).toNat * 2 ^ f.sbits + n
      if f.maxMag < mag then { f.overflow saturates s g' with cnt := { (f.overflow saturates s g').cnt with draws := d } }
      else ⟨f.signBit s + mag, { under := b2n (n == 0), draws := d }, g'⟩

/-- Narrowing to a w-bit two's complement integer (R119). -/
def intEncode (w : Nat) (md : RMode) (g : Gen) (v : NumV) : Enc1 :=
  let hi := 2 ^ (w - 1) - 1
  let lo := 2 ^ (w - 1)
  match v with
  | .nan => ⟨0, { nanToInt := 1 }, g⟩
  | .inf s => ⟨if s then lo else hi, { sat := 1 }, g⟩
  | .zero _ => ⟨0, {}, g⟩
  | .fin s m e =>
    let bound := if s then lo else hi
    if magLt bound 0 m e then ⟨if s then lo else hi, { sat := 1 }, g⟩
    else
      let (n, d, g') := roundQ md g m e 0
      ⟨if s then (2 ^ w - n) % 2 ^ w else n, { under := b2n (n == 0), draws := d }, g'⟩

/-- An integer code as a value. -/
def intDecode (w x : Nat) : NumV := NumV.ofInt false (signedOf w x) 0

/-- A value scaled by 2^k. -/
def NumV.scale2 (k : Int) : NumV → NumV
  | .fin s m e => .fin s m (e + k)
  | v => v

/-- The values of a block, as the operands of the open encodings of a NaN block. -/
def numKey : NumV → Option (Int × Int)
  | .nan => none
  | .inf s => some (if s then -1 else 1, 2 ^ 20)
  | .zero s => some (0, if s then 1 else 0)
  | .fin s m e => some (sgnInt s m, e)

/-- An encoded block: element codes, the scale byte or stamp, counts and generator. -/
structure EncB where
  codes : List Nat
  scale : Nat
  cnt : Cnt
  gen : Gen
  deriving DecidableEq, Repr

/-- The largest finite magnitude of a list of values; none when every one is zero. -/
def amax (vs : List NumV) : Option (Nat × Int) :=
  vs.foldl (fun a v => match a, v with
    | none, .fin _ m e => some (m, e)
    | some (m', e'), .fin _ m e => if magLt m' e' m e then some (m, e) else some (m', e')
    | a, _ => a) none

/-- Elements encoded one after another, draws in order (R128). -/
def encodeEach (f : Gen → NumV → Enc1) : Gen → List NumV → List Nat × Cnt × Gen
  | g, [] => ([], {}, g)
  | g, v :: vs =>
    let r := f g v
    let (cs, c, g') := encodeEach f r.gen vs
    (r.bits :: cs, r.cnt.add c, g')

/-- An MXINT8 element: k × 2^−6, both bounds symmetric (R120). -/
def mxIntEncode (md : RMode) (g : Gen) (v : NumV) : Enc1 :=
  match v with
  | .fin s m e =>
    if magLt 127 (-6) m e then ⟨if s then 256 - 127 else 127, { sat := 1 }, g⟩
    else
      let (n, d, g') := roundQ md g m e (-6)
      ⟨if s then (256 - n) % 256 else n, { under := b2n (n == 0), draws := d }, g'⟩
  | _ => ⟨0, {}, g⟩

/-- Conversion of a block of 32 values to an MX format (R119, R120). -/
def mxBlock (code : Nat) (k : ElemKind) (md : RMode) (g : Gen) (vs : List NumV) : EncB :=
  let emax : Int := match k with
    | .mx _ e => e
    | _ => 0
  let one : Gen → NumV → Enc1 := match k with
    | .mx f _ => fun g v => f.encode true md g v
    | _ => mxIntEncode md
  if vs.any (fun v => v.isNaN || v.isInf) then
    ⟨(List.range vs.length).map (fun i => Config.mxNanElement code (vs.map numKey) i), 255, { nan := vs.length }, g⟩
  else match amax vs with
    | none =>
      let (cs, _, _) := encodeEach one g vs
      ⟨cs, 127, {}, g⟩
    | some (m, e) =>
      let sc := (max 0 (min 254 (floorLog2 m e - emax + 127))).toNat
      let (cs, c, g') := encodeEach one g (vs.map (NumV.scale2 (127 - (sc : Int))))
      ⟨cs, sc, c, g'⟩

/-- floor(log2 (a ÷ b)) of two dyadic magnitudes. -/
def floorLog2Div (m : Nat) (e : Int) (n : Nat) (f : Int) : Int :=
  -- a ÷ b = (m ÷ n) × 2^(e − f); the integer logarithms are off by at most one
  let t := (log2 m : Int) - log2 n
  -- m ÷ n ≥ 2^t exactly when m ≥ n × 2^t
  (if magLt m 0 n t then t - 1 else t) + e - f

/-- One SB mantissa (R121): value ÷ (T × 2^(stamp − 127)) × 2^(w − 2), rounded and brought within its bounds. -/
def sbMant (w : Nat) (tneg : Bool) (tm : Nat) (te : Int) (stamp : Nat) (md : RMode) (g : Gen) (v : NumV) : Enc1 :=
  match v with
  | .fin s m e =>
    let neg := s != tneg
    let x := e - te - ((stamp : Int) - 127) + (w : Int) - 2
    let num := m * 2 ^ (max x 0).toNat
    let den := tm * 2 ^ (max (-x) 0).toNat
    let hi := if neg then 2 ^ (w - 1) else 2 ^ (w - 1) - 1
    if md = .sr && decide (hi * den < num) then ⟨if neg then 2 ^ w - hi else hi, { sat := 1 }, g⟩
    else
      let (n, d, g') := roundRat md g num den
      let n' := min n hi
      ⟨if neg then (2 ^ w - n') % 2 ^ w else n', { sat := b2n (n' != n), under := b2n (n == 0), draws := d }, g'⟩
  | _ => ⟨0, {}, g⟩

/-- Conversion of a block of 16 values to an SB format under tile scale T (R121). -/
def sbBlock (w : Nat) (tneg : Bool) (tm : Nat) (te : Int) (md : RMode) (g : Gen) (vs : List NumV) : EncB :=
  if vs.any (fun v => v.isNaN || v.isInf) then ⟨List.replicate vs.length 0, 255, { nan := vs.length }, g⟩
  else match amax vs with
    | none => ⟨List.replicate vs.length 0, 127, {}, g⟩
    | some (m, e) =>
      let st := (max 0 (min 254 (floorLog2Div m e tm te + 127))).toNat
      let (cs, c, g') := encodeEach (fun g v => sbMant w tneg tm te st md g v) g vs
      ⟨cs, st, c, g'⟩

/-! ### Payload layout (R108 to R110) -/

/-- `n` fields of `w` bits from bit 0 up (R108). -/
def unpack (w : Nat) : Nat → Nat → List Nat
  | 0, _ => []
  | n + 1, x => x % 2 ^ w :: unpack w n (x / 2 ^ w)
/-- The number holding fields of `w` bits from bit 0 up (R108). -/
def pack (w : Nat) : List Nat → Nat
  | [] => 0
  | c :: cs => c % 2 ^ w + 2 ^ w * pack w cs
/-- A list cut into pieces of `k`, `fuel` pieces at most. -/
def chunks {α : Type} (k : Nat) : Nat → List α → List (List α)
  | 0, _ => []
  | n + 1, l => if l.isEmpty then [] else l.take k :: chunks k n (l.drop k)

/-- The value of an MX element under its block's scale byte (R114, R115). -/
def mxValue (k : ElemKind) (s code : Nat) : NumV :=
  if s = 255 then .nan
  else match k with
    | .mx f _ => (f.decode code).scale2 ((s : Int) - 127)
    | _ => (intDecode 8 code).scale2 ((s : Int) - 127 - 6)
/-- The value of an SB element under its block's stamp and TILE_SCALE (R116, R117). -/
def sbValue (w ts s code : Nat) : NumV :=
  if s = 255 then .nan
  else if ts % 2 ^ 15 = 0 then .zero (bitAt code (w - 1))
  else match bf16.decode ts with
    | .inf _ => .nan
    | .nan => .nan
    | t => t.mul ((intDecode w code).scale2 ((s : Int) - 127 - ((w : Int) - 2)))

/-- The values of the first `n` elements of a payload (R108 to R117). -/
def decodeElems (fi : FmtInfo) (n : Nat) (payload scale : List Byte) (ts : Nat) : List NumV :=
  let codes := unpack fi.bits n (leNat (payload.take (ceilDiv (n * fi.bits) 8)))
  match fi.kind with
  | .raw => codes.map (fun (c : Nat) => NumV.ofInt false (c : Int) 0)
  | .fp f _ => codes.map f.decode
  | .int w => codes.map (intDecode w)
  | .sb w =>
    let stamps := slice payload (n * w / 8) (n / 16)
    ((chunks 16 n codes).zip stamps).flatMap (fun p => p.1.map (sbValue w ts p.2.toNat))
  | k => ((chunks 32 n codes).zip scale).flatMap (fun p => p.1.map (mxValue k p.2.toNat))

/-- An encoded tile body. -/
structure EncT where
  payload : List Byte
  scale : List Byte
  ts : Nat
  cnt : Cnt
  gen : Gen
  deriving DecidableEq, Repr

/-- Blocks encoded one after another, draws in order (R128). (DEDUCED, log entry 55) -/
def encodeBlocks (f : Gen → List NumV → EncB) : Gen → List (List NumV) → List Nat × List Nat × Cnt × Gen
  | g, [] => ([], [], {}, g)
  | g, b :: bs =>
    let r := f g b
    let (cs, ss, c, g') := encodeBlocks f r.gen bs
    (r.codes ++ cs, r.scale :: ss, r.cnt.add c, g')

/-- The bytes of a list of small numbers. -/
def bytesOf (l : List Nat) : List Byte := l.map (BitVec.ofNat 8)

/-- A list of values narrowed to a format, `ts` the tile scale named for an SB format (R118 to R122). Every payload
byte beyond the content is zero (R44). -/
def encodeElems (code : Nat) (fi : FmtInfo) (md : RMode) (g : Gen) (ts : Nat) (vs : List NumV) : EncT :=
  let n := vs.length
  let simple (one : Gen → NumV → Enc1) : EncT :=
    let (cs, c, g') := encodeEach one g vs
    ⟨leBytes 4096 (pack fi.bits cs), List.replicate 128 0#8, 0, c, g'⟩
  match fi.kind with
  | .raw => simple (fun g v => match v with
      | .fin s m e => ⟨(if s then 0 else (m * 2 ^ e.toNat)) % 256, {}, g⟩
      | _ => ⟨0, {}, g⟩)
  | .fp f sat => simple (fun g v => f.encode sat md g v)
  | .int w => simple (fun g v => intEncode w md g v)
  | .sb w =>
    let ts' := if ts % 2 ^ 15 = 0 then 0x3F80 else ts
    let r := match bf16.decode ts' with
      | .fin tn tm te => encodeBlocks (fun g b => sbBlock w tn tm te md g b) g (chunks 16 n vs)
      | _ => encodeBlocks (fun g b => ⟨List.replicate b.length 0, 255, { nan := b.length }, g⟩) g (chunks 16 n vs)
    let (cs, ss, c, g') := r
    ⟨padTo 4096 (leBytes (n * w / 8) (pack w cs) ++ bytesOf ss), List.replicate 128 0#8, ts', c, g'⟩
  | k =>
    let (cs, ss, c, g') := encodeBlocks (fun g b => mxBlock code k md g b) g (chunks 32 n vs)
    ⟨leBytes 4096 (pack fi.bits cs), padTo 128 (bytesOf ss), 0, c, g'⟩

/-- Payload bytes that `n` elements of a format fill, stamps aside (R108). -/
def payloadBytes (fi : FmtInfo) (n : Nat) : Nat := ceilDiv (n * fi.bits) 8

/-! ### Shapes (R45) -/

/-- Row count of a shape code. -/
def shapeRows (sh : Nat) : Nat := 2 ^ (sh % 16)
/-- Column count of a shape code. -/
def shapeCols (sh : Nat) : Nat := 2 ^ (sh / 16 % 16)
/-- Element count of a shape code. -/
def shapeCount (sh : Nat) : Nat := shapeRows sh * shapeCols sh
/-- The shape code of a row and a column count, each a power of two. -/
def shapeCode (rows cols : Nat) : Nat := log2 rows + 16 * log2 cols
/-- The shape conditions of R45 for a format; RAW uses shape code 0x00. -/
def shapeOk (code sh : Nat) : Bool :=
  match fmtInfo code with
  | none => false
  | some fi =>
    match fi.kind with
    | .raw => sh == 0
    | k => decide (sh % 16 ≤ 13) && decide (sh / 16 ≤ 13) && decide (shapeCount sh ≤ fi.maxElems) &&
        (!k.isMx || shapeCount sh % 32 == 0) && (!k.isSb || shapeCount sh % 16 == 0)
/-- LEN is 1 to 4,096 for RAW and 0 for every other format (R41). -/
def lenOk (code len : Nat) : Bool := if code = 0 then decide (1 ≤ len ∧ len ≤ 4096) else len == 0

/-- A value rounded to a working format to nearest even, exactly where R118 makes it exact (R135). -/
def workRound (f : FpFmt) (v : NumV) : NumV × Cnt :=
  let r := f.encode false .rne ⟨0, 0⟩ v
  (f.decode r.bits, r.cnt)

end Sys2Proof.Machine
end

