-- ==== Sys2Proof/Machine/Tensor.lean ====
section
/-!
DEFINITION. Tensor-block accumulation (R130 to R134, R179 to R184) and the vector operations (R135, R186 to R193), as
functions of operand values. The instructions that call them stand in Station.lean.
-/
namespace Sys2Proof.Machine
open Sys2Proof

/-! ### The accumulator (R183) -/

/-- The kind of accumulator elements. -/
inductive AccKind where
  | unset | f32 | i32
  deriving DecidableEq, Repr

/-- The accumulator: shape, kind, 64 × 64 element encodings (key row × 64 + column, 0 unlisted), and the INT32 elements
that hold a bound until the next ACCZ (R133). -/
structure Acc where
  rows : Nat
  cols : Nat
  kind : AccKind
  elems : SMap Word
  held : SMap Bool
  deriving DecidableEq, Repr

/-- The accumulator after ACCZ and at first START (R142, R183). -/
def Acc.clear : Acc := ⟨0, 0, .unset, [], []⟩

/-- One row of R180. -/
structure MmaFmt where
  smallestK : Nat
  beatsNum : Nat
  beatsDen : Nat
  kind : AccKind
  deriving DecidableEq, Repr

/-- The formats MMA accepts (R180). -/
def mmaFmt (code : Nat) : Option MmaFmt :=
  match code with
  | 0x05 => some ⟨1, 1, 1, .f32⟩
  | 0x06 => some ⟨1, 1, 1, .f32⟩
  | 0x10 => some ⟨32, 1, 1, .f32⟩
  | 0x11 => some ⟨32, 1, 1, .f32⟩
  | 0x12 => some ⟨32, 1, 1, .f32⟩
  | 0x13 => some ⟨32, 1, 1, .f32⟩
  | 0x14 => some ⟨32, 1, 2, .f32⟩
  | 0x15 => some ⟨32, 1, 1, .f32⟩
  | 0x20 => some ⟨1, 1, 1, .i32⟩
  | 0x21 => some ⟨1, 1, 2, .i32⟩
  | 0x30 => some ⟨16, 1, 1, .f32⟩
  | 0x31 => some ⟨16, 1, 2, .f32⟩
  | 0x03 => some ⟨1, 4, 1, .f32⟩
  | 0x04 => some ⟨1, 4, 1, .f32⟩
  | _ => none
/-- Beats of one MMA of inner dimension K (R180). -/
def MmaFmt.beats (f : MmaFmt) (k : Nat) : Nat := ceilDiv (k * f.beatsNum) f.beatsDen

/-- Whether an operand of format `have_` enters an MMA of format `fn` without conversion (R163): equal formats, and
E4M3 with E5M2 for the FP8 and MXFP8 pairs. -/
def mmaSameFamily (fn have_ : Nat) : Bool :=
  fn == have_ || ((fn == 5 || fn == 6) && (have_ == 5 || have_ == 6)) ||
  ((fn == 16 || fn == 17) && (have_ == 16 || have_ == 17))

/-- The largest magnitude that each block of an MX or SB operand could hold (R131): none for other formats, for a block
marked NaN, and for an all-zero tile scale. -/
def blockMax (code n : Nat) (payload scale : List Byte) (ts : Nat) : List (Option (Nat × Int)) :=
  match fmtInfo code with
  | none => []
  | some fi =>
    match fi.kind with
    | .mx f _ =>
      ((scale.take (n / 32)).map (fun s => match f.magValue false f.maxMag with
        | .fin _ m e => if s.toNat = 255 then none else
            some (m, e + s.toNat - 127)
        | _ => none))
    | .mxInt => (scale.take (n / 32)).map (fun s => if s.toNat = 255 then none else some (2, (s.toNat : Int) - 127))
    | .sb w =>
      (slice payload (n * w / 8) (n / 16)).map (fun s =>
        if s.toNat = 255 then none
        else match (bf16.decode ts) with
          | .fin _ m e => some (m * 2, e + s.toNat - 127)
          | _ => none)
    | _ => []

/-- An operand of the tensor block: element values, block maxima and elements in a block. -/
structure MmaOp where
  vals : List NumV
  maxes : List (Option (Nat × Int))
  blockLen : Nat
  deriving DecidableEq, Repr

/-- The window value of one reduction (R131, R134): `ps` its products with, for block formats, the largest magnitude
each could have. (DEDUCED, log entry 55) -/
def windowSum (isBlock : Bool) (ps : List (NumV × Option (Nat × Int))) : NumV :=
  if ps.any (fun p => p.1.isNaN) then .nan
  else
    let pos := ps.any (fun p => p.1 == .inf false)
    let neg := ps.any (fun p => p.1 == .inf true)
    if pos && neg then .nan
    else if pos then .inf false
    else if neg then .inf true
    else
      let exps : List Int :=
        if isBlock then ps.filterMap (fun p => p.2.map (fun q => floorLog2 q.1 q.2))
        else ps.filterMap (fun p => match p.1 with | .fin _ m e => some (floorLog2 m e) | _ => none)
      match exps with
      | [] => .zero false
      | x :: xs =>
        let top := xs.foldl max x
        let q := top - 39
        let term (v : NumV) : Int := match v with
          | .fin s m e => sgnInt s (if q ≤ e then m * 2 ^ (e - q).toNat else m / 2 ^ (q - e).toNat)
          | _ => 0
        NumV.ofInt false (ps.foldl (fun a p => a + term p.1) 0) q

/-- One accumulator element after one MMA (R132, R133, R182): the products of each reduction of 64 in order. -/
def accumulate (kind : AccKind) (isBlock : Bool) (reds : List (List (NumV × Option (Nat × Int))))
    (x : Word) (held : Bool) : Word × Bool × Cnt :=
  reds.foldl (fun (acc : Word × Bool × Cnt) r =>
    let (w, h, c) := acc
    match kind with
    | .i32 =>
      if h then (w, h, c)
      else
        let s : Int := r.foldl (fun a p => a + (match p.1 with
          | .fin sg m e => sgnInt sg (m * 2 ^ e.toNat)
          | _ => 0)) 0
        let t := w.toInt + s
        if (2 : Int) ^ 31 - 1 < t then (BitVec.ofNat 32 (2 ^ 31 - 1), true, { c with sat := 1 })
        else if t < -(2 : Int) ^ 31 then (BitVec.ofNat 32 (2 ^ 31), true, { c with sat := 1 })
        else (BitVec.ofInt 32 t, h, c)
    | _ =>
      let v := (fp32.decode w.toNat).add (windowSum isBlock r)
      let e := fp32.encode false .rne ⟨0, 0⟩ v
      (BitVec.ofNat 32 e.bits, h,
        { c with nan := max c.nan e.cnt.nan, inf := max c.inf e.cnt.inf, under := max c.under e.cnt.under }))
    (x, held, {})

/-- Products of row m of A and row n of B over k, in reductions of 64 (R179, R182). -/
def mmaReductions (a b : MmaOp) (k m n : Nat) : List (List (NumV × Option (Nat × Int))) :=
  chunks 64 (ceilDiv k 64) ((List.range k).map (fun i =>
    let x := (a.vals[m * k + i]?).getD (.zero false)
    let y := (b.vals[n * k + i]?).getD (.zero false)
    let bm := match (a.maxes[(m * k + i) / a.blockLen]?).getD none, (b.maxes[(n * k + i) / b.blockLen]?).getD none with
      | some p, some q => some (p.1 * q.1, p.2 + q.2)
      | _, _ => none
    (x.mul y, bm)))

/-- The accumulator after A × Bᵀ is added (R179 to R183), with the counts of R138. (DEDUCED, log entry 55) -/
def mmaAcc (kind : AccKind) (isBlock : Bool) (a b : MmaOp) (rows cols k : Nat) (acc : Acc) : Acc × Cnt :=
  let step (st : SMap Word × SMap Bool × Cnt) (key : Nat) : SMap Word × SMap Bool × Cnt :=
    let m := key / cols
    let n := key % cols
    let idx := m * 64 + n
    let (w, h, c) := accumulate kind isBlock (mmaReductions a b k m n) (SMap.getD st.1 idx 0) (SMap.getD st.2.1 idx false)
    (SMap.setD st.1 idx w 0, SMap.setD st.2.1 idx h false, st.2.2.add c)
  let (es, hs, c) := (List.range (rows * cols)).foldl step (acc.elems, acc.held, {})
  (⟨rows, cols, kind, es, hs⟩, c)

/-- Rows that one ACCRD writes (R184): the largest power of two within the row count and FN's element maximum. -/
def accrdRows (rows cols maxElems : Nat) : Nat :=
  let fits := (List.range 7).filter (fun i => decide (2 ^ i ≤ rows ∧ 2 ^ i * cols ≤ maxElems))
  2 ^ maxOf fits

/-- Accumulator values of rows r0 to r0 + n − 1 (R184). An unset accumulator reads as FP32 zeros. -/
def accValues (acc : Acc) (cols r0 n : Nat) : List NumV :=
  (List.range (n * cols)).map (fun i =>
    let w := SMap.getD acc.elems ((r0 + i / cols) * 64 + i % cols) 0
    match acc.kind with
    | .i32 => NumV.ofInt false w.toInt 0
    | _ => fp32.decode w.toNat)

/-! ### Correctly rounded division and square root (R135, R193) -/

/-- Exact quotient with a sticky last place, enough for one rounding. -/
def NumV.divSticky (a b : NumV) : NumV :=
  match a, b with
  | .nan, _ => .nan
  | _, .nan => .nan
  | .inf _, .inf _ => .nan
  | .inf s, y => .inf (s != y.neg?)
  | x, .inf t => .zero (x.neg? != t)
  | .zero _, .zero _ => .nan
  | .zero s, y => .zero (s != y.neg?)
  | x, .zero t => .inf (x.neg? != t)
  | .fin s m e, .fin t n f =>
    let sh := 130 + log2 n
    let num := m * 2 ^ sh
    .fin (s != t) (2 * (num / n) + b2n (num % n != 0)) (e - f - sh - 1)

/-- Exact square root with a sticky last place. -/
def NumV.sqrtSticky (a : NumV) : NumV :=
  match a with
  | .fin false m e =>
    let e' := if e % 2 = 0 then e else e - 1
    let m' := if e % 2 = 0 then m else 2 * m
    let num := m' * 2 ^ 260
    let r := Nat.sqrt num
    .fin false (2 * r + b2n (r * r != num)) (e' / 2 - 131)
  | .zero s => .zero s
  | .inf false => .inf false
  | _ => .nan

/-! ### Operations bounded in units in the last place (R192) -/

/-- Fixed-point values scaled by 2^P. -/
def fxOf (p : Nat) (v : NumV) : Int :=
  match v with
  | .fin s m e => let x := e + p
    sgnInt s (if 0 ≤ x then m * 2 ^ x.toNat else m / 2 ^ (-x).toNat)
  | _ => 0
def fxMul (p : Nat) (a b : Int) : Int := a * b / (2 : Int) ^ p
def fxDiv (p : Nat) (a b : Int) : Int := if b = 0 then 0 else a * (2 : Int) ^ p / b

/-- Sum of a series whose next term is made from the last by `f n`, `n` rising, stopping at a zero term. -/
def fxSeries (f : Nat → Int → Int) : Nat → Nat → Int → Int → Int
  | 0, _, _, sum => sum
  | fuel + 1, n, t, sum => if t = 0 then sum else fxSeries f fuel (n + 1) (f n t) (sum + t)

/-- atanh z for a small fixed-point z: Σ z^(2n+1) ÷ (2n+1). -/
def fxAtanh (p : Nat) (z : Int) : Int :=
  let z2 := fxMul p z z
  let rec go : Nat → Nat → Int → Int → Int
    | 0, _, _, s => s
    | fuel + 1, n, t, s => if t = 0 then s else go fuel (n + 1) (fxMul p t z2) (s + t / (2 * n + 1 : Nat))
  go (p + 8) 0 z 0
/-- ln 2. -/
def fxLn2 (p : Nat) : Int := 2 * fxAtanh p ((2 : Int) ^ p / 3)
/-- arctan of 1 ÷ k. -/
def fxAtanInv (p k : Nat) : Int :=
  let rec go : Nat → Nat → Int → Int → Int
    | 0, _, _, s => s
    | fuel + 1, n, t, s => if t = 0 then s else
        go fuel (n + 1) (t / ((k : Int) * k)) (if n % 2 = 0 then s + t / (2 * n + 1 : Nat) else s - t / (2 * n + 1 : Nat))
  go (p + 8) 0 ((2 : Int) ^ p / k) 0
/-- π. -/
def fxPi (p : Nat) : Int := 16 * fxAtanInv p 5 - 4 * fxAtanInv p 239
/-- e^r for a fixed-point r of small magnitude. -/
def fxExpSmall (p : Nat) (r : Int) : Int := fxSeries (fun n t => fxMul p t r / ((n + 1 : Nat) : Int)) (p + 64) 0 ((2 : Int) ^ p) 0
/-- e^x as a fixed-point mantissa and a binary exponent. -/
def fxExp (p : Nat) (x : Int) : Int × Int :=
  let k := x / fxLn2 p
  (fxExpSmall p (x - k * fxLn2 p), k)
/-- ln of ± m × 2^e with m > 0. -/
def fxLn (p m : Nat) (e : Int) : Int :=
  let b : Int := log2 m
  let x : Int := (m : Int) * (2 : Int) ^ p / (2 : Int) ^ b.toNat
  2 * fxAtanh p (fxDiv p (x - (2 : Int) ^ p) (x + (2 : Int) ^ p)) + (e + b) * fxLn2 p
/-- erf for a fixed-point argument. -/
def fxErf (p : Nat) (x : Int) : Int :=
  let x2 := fxMul p x x
  let rec go : Nat → Nat → Int → Int → Int
    | 0, _, _, s => s
    | fuel + 1, n, t, s => if t = 0 then s else
        go fuel (n + 1) (-(fxMul p t x2) / ((n + 1 : Nat) : Int)) (s + t / ((2 * n + 1 : Nat) : Int))
  let s := go (4 * p) 0 x 0
  fxDiv p (2 * s) (Nat.sqrt ((fxPi p).toNat * 2 ^ p))
/-- sin and cos of a fixed-point angle, by reduction modulo 2π. -/
def fxSinCos (p : Nat) (x : Int) : Int × Int :=
  let tp := 2 * fxPi p
  let r := x % tp
  let r2 := fxMul p r r
  let s := fxSeries (fun n t => -(fxMul p t r2) / (((2 * n + 2) * (2 * n + 3) : Nat) : Int)) (p + 64) 0 r 0
  let c := fxSeries (fun n t => -(fxMul p t r2) / (((2 * n + 1) * (2 * n + 2) : Nat) : Int)) (p + 64) 0 ((2 : Int) ^ p) 0
  (s, c)

/-- A value that a result falls short of by less than any bound tells. (DEDUCED, log entry 55) -/
def nearBelow : NumV → NumV
  | .fin s m e => .fin s (m * 2 ^ 2000 - 1) (e - 2000)
  | v => v
/-- A fixed-point value as an exact dyadic; zero keeps the sign given. -/
def ofFx (zneg : Bool) (p : Nat) (k : Int) (x : Int) : NumV := NumV.ofInt zneg x (k - p)

/-- The result of a class T operation, or of RECIP and RSQRT, far more exactly than any bound of R192. -/
def transcendExact (fn : Nat) (v : NumV) : NumV :=
  let p := 1300
  let x := fxOf p v
  let one : Int := (2 : Int) ^ p
  let big := magLt 1 12 (match v with | .fin _ m _ => m | _ => 0) (match v with | .fin _ _ e => e | _ => 0)
  let neg := v.neg?
  match fn with
  | 0x14 => (NumV.fin false 1 0).divSticky v
  | 0x15 => (NumV.fin false 1 0).divSticky v.sqrtSticky
  | 0x16 => if big then (if neg then .fin false 1 (-5000) else .fin false 1 5000) else let (m, k) := fxExp p x; ofFx false p k m
  | 0x17 => if big then (if neg then .fin false 1 (-5000) else .fin false 1 5000)
      else if x % one = 0 then .fin false 1 (x / one) else
      let (m, k) := fxExp p (fxMul p x (fxLn2 p)); ofFx false p k m
  | 0x18 => match v with | .fin _ m e => ofFx false p 0 (fxLn p m e) | _ => .nan
  | 0x19 => match v with
    | .fin _ m e => if m = 2 ^ log2 m then .ofInt false (e + log2 m) 0 else ofFx false p 0 (fxDiv p (fxLn p m e) (fxLn2 p))
    | _ => .nan
  | 0x1A => if big then nearBelow (.fin neg 1 0) else
      let (m, k) := fxExp p (2 * (x.natAbs : Int))
      let e2 := m * (2 : Int) ^ k.toNat
      if e2 = one then nearBelow v else ofFx neg p 0 (sgnInt neg (fxDiv p (e2 - one) (e2 + one)).toNat)
  | 0x1B => if big then (if neg then .fin false 1 (-5000) else nearBelow (.fin false 1 0)) else
      let (m, k) := fxExp p (x.natAbs : Int)
      let e2 := m * (2 : Int) ^ k.toNat
      if neg then .ofInt false (one * (2 : Int) ^ 3000 / (one + e2)) (-3000) else ofFx false p 0 (fxDiv p e2 (one + e2))
  | 0x1C => if magLt 8 0 (match v with | .fin _ m _ => m | _ => 0) (match v with | .fin _ _ e => e | _ => 0) then nearBelow (.fin neg 1 0)
      else if x = 0 then v else ofFx neg p 0 (fxErf p x)
  | 0x1D =>
    let q := 4600
    let y := fxOf q v
    if magLt 40 0 (match v with | .fin _ m _ => m | _ => 0) (match v with | .fin _ _ e => e | _ => 0) then
      (if neg then .fin true 1 (-5000) else nearBelow v)
    else
      let r2 : Int := Nat.sqrt (2 * 2 ^ (2 * q))
      ofFx neg q 0 (fxMul q y (((2 : Int) ^ q + fxErf q (fxDiv q y r2)) / 2))
  | 0x1E =>
    let y := (fxSinCos p (x.natAbs : Int)).1
    if y = x.natAbs then nearBelow v else ofFx neg p 0 (sgnInt neg 1 * y)
  | 0x1F =>
    let y := (fxSinCos p (x.natAbs : Int)).2
    if y = one then nearBelow (.fin false 1 0) else ofFx false p 0 y
  | _ => .nan

/-- The value of the encoding `j` places from an encoding, counted along the number line, zero at place 0. -/
def fpPlace (f : FpFmt) (bits : Nat) : Int :=
  let mag := bits % 2 ^ (f.ebits + f.sbits)
  if bitAt bits (f.ebits + f.sbits) then -(mag : Int) else mag
def fpOfPlace (f : FpFmt) (zneg : Bool) (p : Int) : NumV :=
  if p = 0 then .zero zneg else f.magValue (decide (p < 0)) p.natAbs

/-- Whether |y − exact| ≤ n units in the last place of the exact result (R192). (DEDUCED, log entry 55) -/
def withinUlp (f : FpFmt) (n : Nat) (y exact : NumV) : Bool :=
  match exact with
  | .fin _ m e =>
    let q := max (floorLog2 m e - f.sbits) f.qmin
    match (y.sub exact) with
    | .fin _ dm de => !magLt n q dm de
    | .zero _ => true
    | _ => false
  | _ => false
/-- Whether |y − exact| ≤ 2^k. -/
def withinAbs (k : Int) (y exact : NumV) : Bool :=
  match (y.sub exact) with
  | .fin _ dm de => !magLt 1 k dm de
  | .zero _ => true
  | _ => false

/-- The bound of R192 in units in the last place. -/
def ulpBound (fn : Nat) (f64 : Bool) : Nat :=
  match fn with
  | 0x14 => 1
  | 0x15 => 1
  | 0x16 => if f64 then 2 else 1
  | 0x17 => if f64 then 2 else 1
  | 0x18 => if f64 then 2 else 1
  | 0x19 => if f64 then 2 else 1
  | 0x1D => 4
  | _ => 2

/-- The special inputs of R193; none for an input its table does not name. -/
def transcendSpecial (fn : Nat) (v : NumV) : Option NumV :=
  match v with
  | .nan => some .nan
  | .inf s =>
    match fn with
    | 0x14 => some (.zero s)
    | 0x15 => some (if s then .nan else .zero false)
    | 0x16 => some (if s then .zero false else .inf false)
    | 0x17 => some (if s then .zero false else .inf false)
    | 0x18 => some (if s then .nan else .inf false)
    | 0x19 => some (if s then .nan else .inf false)
    | 0x1A => some (.fin s 1 0)
    | 0x1B => some (if s then .zero false else .fin false 1 0)
    | 0x1C => some (.fin s 1 0)
    | 0x1D => some (if s then .zero true else .inf false)
    | _ => some .nan
  | .zero s =>
    match fn with
    | 0x14 => some (.inf s)
    | 0x15 => some (.inf s)
    | 0x18 => some (.inf true)
    | 0x19 => some (.inf true)
    | 0x16 => some (.fin false 1 0)
    | 0x17 => some (.fin false 1 0)
    | 0x1B => some (.fin false 1 (-1))
    | 0x1F => some (.fin false 1 0)
    | _ => some (.zero s)
  | .fin true _ _ => if fn = 0x15 || fn = 0x18 || fn = 0x19 then some .nan else none
  | _ => none

/-- Overflow and underflow of such an operation (R138): an infinity or a zero that its exact result is not. -/
def transcendCnt (fn : Nat) (v y : NumV) : Cnt :=
  if (transcendSpecial fn v).isSome then {} else { inf := b2n y.isInf, under := b2n y.isZero }
/-- Result of a class D or T operation other than DIV and SQRT in a working format (R192, R193): the table's value for
an input it names; else an encoding near the exact result, the place chosen by the open function and kept only within
the bound, and within 0 to 1 for SIGMOID and −1 to 1 for TANH. (DEDUCED, log entry 55) -/
def transcend (fn : Nat) (f64 : Bool) (v : NumV) : NumV :=
  match transcendSpecial fn v with
  | some r => r
  | none =>
    let f := if f64 then fp64 else fp32
    let exact := transcendExact fn v
    let key := (f.encode false .rne ⟨0, 0⟩ v).bits
    let c := (f.encode false .rne ⟨0, 0⟩ exact).bits
    let center := f.decode c
    let wide := (fn == 0x1E || fn == 0x1F) && (match v with
      | .fin _ m e => magLt 1 (if f64 then 30 else 17) m e
      | _ => false)
    let pick := if wide then Config.wideTrigPick fn f64 key else Config.transcendPick fn f64 key
    let y := fpOfPlace f exact.neg? (fpPlace f c + pick)
    let inside := match center with
      | .inf _ => false
      | _ => if wide then withinAbs (if f64 then -50 else -22) y exact else withinUlp f (ulpBound fn f64) y exact
    let inRange := !((fn == 0x1B && (y.lt (.zero true) || y.gt (.fin false 1 0))) || (fn == 0x1A && y.abs.gt (.fin false 1 0)))
    if inside && inRange && decide ((fpPlace f c + pick).natAbs ≤ f.maxMag) then y else center

/-! ### Vector operations (R187 to R191) -/

/-- Rate classes of R187. -/
inductive RateClass where
  | a | d | t | r | m
  deriving DecidableEq, Repr

/-- An operation of R187: its rate class and which of tb and td it reads. -/
structure VOp where
  cls : RateClass
  readsB : Bool
  readsD : Bool
  deriving DecidableEq, Repr

/-- The operations of R187; none for an FN it does not list. -/
def vopInfo (fn : Nat) : Option VOp :=
  if fn ≤ 0x02 then some ⟨.a, true, false⟩
  else if fn ≤ 0x04 then some ⟨.a, true, true⟩
  else if fn ≤ 0x07 then some ⟨.a, true, false⟩
  else if fn = 0x08 then some ⟨.a, true, true⟩
  else if fn = 0x09 then some ⟨.d, true, false⟩
  else if fn < 0x10 then none
  else if fn ≤ 0x12 then some ⟨.a, false, false⟩
  else if fn ≤ 0x15 then some ⟨.d, false, false⟩
  else if fn ≤ 0x1F then some ⟨.t, false, false⟩
  else if fn ≤ 0x22 then some ⟨.a, true, false⟩
  else if fn ≤ 0x24 then some ⟨.a, true, true⟩
  else if fn ≤ 0x27 then some ⟨.a, true, false⟩
  else if fn = 0x28 then some ⟨.a, true, true⟩
  else if fn = 0x29 then some ⟨.d, true, false⟩
  else if fn < 0x30 then none
  else if fn ≤ 0x37 then some ⟨.r, false, false⟩
  else if fn = 0x38 then some ⟨.m, false, false⟩
  else if fn ≤ 0x3F then some ⟨.m, true, false⟩
  else none

/-- Whether FN is a row-broadcast form. -/
def isRowBroadcast (fn : Nat) : Bool := decide (0x20 ≤ fn) && decide (fn ≤ 0x29)

/-- The result of an elementwise operation before rounding to the working format (R187, R190). -/
def vElem (fn : Nat) (f64 : Bool) (a b d : NumV) : NumV :=
  match fn with
  | 0x00 => a.add b
  | 0x01 => a.sub b
  | 0x02 => a.mul b
  | 0x03 => (a.mul b).add d
  | 0x04 => d.sub (a.mul b)
  | 0x05 => a.minimum b
  | 0x06 => a.maximum b
  | 0x07 => if a.gt b then .fin false 1 0 else .zero false
  | 0x08 => if d.isZero then b else a
  | 0x09 => a.divSticky b
  | 0x10 => a.abs
  | 0x11 => a.negate
  | 0x12 => a.maximum (.zero false)
  | 0x13 => a.sqrtSticky
  | n => transcend n f64 a

/-- A value rounded to the working format, with its counts; a NaN is counted once, where it is written (R138). -/
def wr (f64 : Bool) (v : NumV) : NumV × Cnt :=
  let r := workRound (if f64 then fp64 else fp32) v
  (r.1, { r.2 with nan := 0 })

/-- One level of the fixed tree of R191: pairs combined, an odd last element passed on. -/
def pairUp {α : Type} (f : α → α → α) : List α → List α
  | a :: b :: r => f a b :: pairUp f r
  | l => l
/-- The root of the tree, `z` where there is nothing. -/
def treeFold {α : Type} (z : α) (f : α → α → α) : Nat → List α → α
  | 0, l => l.headD z
  | n + 1, l => match l with
    | [] => z
    | [x] => x
    | l => treeFold z f n (pairUp f l)
/-- Whether an overflow or an underflow is among two accounts: an event counts once for an element (R138). -/
def Cnt.either (a b : Cnt) : Cnt := { inf := max a.inf b.inf, under := max a.under b.under }
/-- Sum of a list by the tree, every node rounded to the working format, with what its nodes met. -/
def treeSum (f64 : Bool) (l : List (NumV × Cnt)) : NumV × Cnt :=
  treeFold (.zero false, {}) (fun a b => let r := wr f64 (a.1.add b.1); (r.1, (a.2.either b.2).either r.2)) l.length l
def treeMax (l : List NumV) : NumV := treeFold (.zero false) NumV.maximum l.length l
def treeMin (l : List NumV) : NumV := treeFold (.zero false) NumV.minimum l.length l

/-- The rows of an element list. -/
def rowsOf (rows cols : Nat) (l : List NumV) : List (List NumV) := chunks cols rows l
/-- The columns of an element list. -/
def colsOf (rows cols : Nat) (l : List NumV) : List (List NumV) :=
  (List.range cols).map (fun c => (List.range rows).map (fun r => (l[r * cols + c]?).getD (.zero false)))

/-- Shape of the result of an operation on an M × N ta (R187, R188). -/
def vopShape (fn rows cols : Nat) : Nat × Nat :=
  if 0x30 ≤ fn ∧ fn ≤ 0x33 then (rows, 1)
  else if fn = 0x34 ∨ fn = 0x35 then (1, cols)
  else if fn = 0x36 ∨ fn = 0x37 then (1, 1)
  else if fn = 0x38 then (cols, rows)
  else (rows, cols)

/-- Result values in the working format, with the counts of the working roundings (R187 to R191). -/
def vopValues (fn : Nat) (f64 : Bool) (rows cols : Nat) (a b d : List NumV) : List (NumV × Cnt) :=
  let plain (l : List NumV) : List (NumV × Cnt) := l.map (fun v => (v, {}))
  if fn = 0x30 then (rowsOf rows cols a).map (fun r => treeSum f64 (plain r))
  else if fn = 0x31 then plain ((rowsOf rows cols a).map treeMax)
  else if fn = 0x32 then plain ((rowsOf rows cols a).map treeMin)
  else if fn = 0x33 then (rowsOf rows cols a).map (fun r => treeSum f64 (r.map (fun v => wr f64 (v.mul v))))
  else if fn = 0x34 then (colsOf rows cols a).map (fun c => treeSum f64 (plain c))
  else if fn = 0x35 then plain ((colsOf rows cols a).map treeMax)
  else if fn = 0x36 then [treeSum f64 ((rowsOf rows cols a).map (fun r => treeSum f64 (plain r)))]
  else if fn = 0x37 then plain [treeMax ((rowsOf rows cols a).map treeMax)]
  else if fn = 0x38 then plain (colsOf rows cols a).flatten
  else if 0x39 ≤ fn then
    let s := fn - 0x38
    plain (((rowsOf rows cols a).drop s ++ (rowsOf rows cols b).take s).flatten)
  else
    let base := if isRowBroadcast fn then fn - 0x20 else fn
    (List.range (rows * cols)).map (fun i =>
      let bi := if isRowBroadcast fn then i % cols else i
      let x := (a[i]?).getD (.zero false)
      let r := wr f64 (vElem base f64 x ((b[bi]?).getD (.zero false)) ((d[i]?).getD (.zero false)))
      if 0x14 ≤ base then (r.1, transcendCnt base x r.1) else r)

/-- Beats of a vector operation (R189): E elements, P payload bytes, `copy` whether the formats let encodings move. (DESIGN CHOICE, log entry 59) -/
def vopBeats (cls : RateClass) (f64 copy : Bool) (e p : Nat) : Nat :=
  match cls with
  | .a => ceilDiv e (if f64 then 16 else 64)
  | .d => ceilDiv e (if f64 then 4 else 16)
  | .t => ceilDiv e (if f64 then 4 else 16)
  | .r => ceilDiv e (if f64 then 16 else 64) + 6
  | .m => if copy then ceilDiv p 256 else ceilDiv e (if f64 then 16 else 64)

end Sys2Proof.Machine
end

