-- ==== Sys2Proof/Machine/Types.lean ====
section
/-!
DEFINITION. The parts of the state that belong to tiles, streams, stations, bundles, tallies and memory
(spec/02, 03, 05, 07, 08, 09): plain data, one structure for each thing the spec names.
-/
namespace Sys2Proof.Machine
open Sys2Proof

/-! ### Parsed bundle records (R71 to R76) -/

/-- STATION record. -/
structure StationRec where
  name : List Byte
  codeOff : Nat
  codeLen : Nat
  entry : Nat
  scratch : Nat
  group : Nat
  spec : Nat
  seed : DWord
  deriving DecidableEq, Repr

/-- Consumer-table entry; station 0xFFFF lies outside the bundle. -/
structure ConsumerRec where
  station : Nat
  depth : Nat
  stall : Nat
  deriving DecidableEq, Repr

/-- STREAM record with its consumer table and parameter block bytes. -/
structure StreamRec where
  id : Nat
  kind : Nat
  format : Nat
  producer : Nat
  remote : Nat
  remoteValid : Nat
  vc : Nat
  stall : Nat
  cons : List ConsumerRec
  paramOff : Nat
  param : List Byte
  /-- the peer table of a collective stream (R383) -/
  peers : List Nat
  deriving DecidableEq, Repr

/-- REGION record. -/
structure RegionRec where
  owner : Nat
  anyStack : Nat
  readOnly : Bool
  slots : Nat
  const : Nat
  deriving DecidableEq, Repr

/-- TALLY record (R263). -/
structure TallyRec where
  id : Nat
  home : Nat
  postcode : Nat
  capacity : Nat
  initial : Nat
  epoch : Nat
  deriving DecidableEq, Repr

/-- CONST record. -/
structure ConstRec where
  source : Nat
  format : Nat
  address : Nat
  length : Nat
  sha : List Byte
  deriving DecidableEq, Repr

/-- One circuit entry of the PLAN section. -/
structure CircuitRec where
  port : Nat
  neighbour : Nat
  minLanes : Nat
  deriving DecidableEq, Repr

/-- PLAN section. -/
structure PlanRec where
  degradedOk : Bool
  waitMs : Nat
  circuits : List CircuitRec
  deriving DecidableEq, Repr

/-- LIMITS record. -/
structure LimitsRec where
  framePeriod : Nat
  slack : Nat
  powerShare : Nat
  priority : Nat
  evictable : Bool
  frameStart : Nat
  drainBound : Nat
  completion : Nat
  deriving DecidableEq, Repr

/-- A verified bundle. -/
structure BundleImg where
  bytes : List Byte
  buildId : Nat
  stations : List StationRec
  streams : List StreamRec
  regions : List RegionRec
  tallies : List TallyRec
  code : List Word
  consts : List ConstRec
  plan : Option PlanRec
  limits : LimitsRec
  spill : List Nat
  deriving DecidableEq, Repr

/-- A region, spill reserve or save area placed on a stack (R242). -/
structure Placed where
  stack : Nat
  off : Nat
  len : Nat
  deriving DecidableEq, Repr

/-! ### Stations (R141) -/

/-- A tile handle: the slot's first byte in data scratch, and the rounding end (R144, R157). -/
structure Handle where
  addr : Nat
  roundEnd : Option Nat
  deriving DecidableEq, Repr

/-- How a station stands. -/
inductive RunState where
  /-- placed, never started -/
  | fresh
  | running
  /-- stopped by HOLD or a fault of its bundle (R81, R169) -/
  | held
  /-- stopped at a drain point (R94) -/
  | drained
  /-- stopped for good by HALT (R167) -/
  | halted
  /-- stopped by its own fault (R169) -/
  | faulted
  deriving DecidableEq, Repr

/-- What a W-class instruction waits for (R153). -/
inductive Waiting where
  | no
  | collect (end_ : Nat)
  /-- waits for the first hop of an output end; `free` whether R211, R213 and R217 let it be accepted -/
  | post (end_ : Nat)
  | tally
  | time (until_ : DWord)
  | fence
  | drain
  | halt
  /-- R216, R217: until the station's checkpoints let the instruction issue -/
  | resolution
  /-- after such a wait the instruction tries again, its wait unbroken (R54) -/
  | retry
  deriving DecidableEq, Repr

/-- An item an instruction reads or writes (R152): bytes of data scratch, or the first bytes of a tile's slot. -/
inductive Item where
  | reg (n : Nat)
  | pred (n : Nat)
  | handle (n : Nat)
  | bytes (lo n : Nat)
  | slot (lo n : Nat)
  | acc
  deriving DecidableEq, Repr

/-- Stack instructions (R160). -/
inductive StackKind where
  | fetch | stash | gather | scatter | radd
  deriving DecidableEq, Repr

/-- An issued X-class stack instruction not yet done at its logic die (R154). -/
structure StackOp where
  kind : StackKind
  word : Word
  pc : Nat
  order : Nat
  tdAddr : Nat
  region : Nat
  slot : Nat
  fmt : Nat
  tile : Tile
  desc : List Byte
  offsets : List Nat
  reads : List Item
  writes : List Item
  deriving DecidableEq, Repr

/-- An issued B-class instruction in the tensor or the vector block (R178). Its operands cannot change while it runs
(R152), so what it will write is settled at issue, its stochastic draws in program order: the tile for td's slot, or the
accumulator; with the events it causes (R138), its operand conversions and its multiply-accumulates or elements (R195). -/
structure BlockOp where
  word : Word
  pc : Nat
  order : Nat
  tensor : Bool
  beats : Nat
  tdAddr : Nat
  tile : Tile
  acc : Acc
  cnt : Cnt
  conv : Nat
  work : Nat
  reads : List Item
  writes : List Item
  deriving DecidableEq, Repr

/-- A tally instruction that has issued and whose status has not returned (R161, R271). -/
structure TallyWait where
  tally : Nat
  op : TallyOp
  amount : Word
  rd : Nat
  word : Word
  pc : Nat
  order : Nat
  /-- accepted at the home cell -/
  accepted : Bool
  /-- the home cell's answer, on its way back -/
  answer : Option Nat
  deriving DecidableEq, Repr

/-- The state a CANCEL restores (R168, R215). -/
structure Snap where
  g : SMap DWord
  p : BitVec 8
  t : SMap Handle
  pc : Nat
  acc : Acc
  endCtl : SMap Word
  gen : Gen
  scratch : Mem
  /-- the station's place in program order, so that instructions in flight before it still land in it -/
  order : Nat
  deriving DecidableEq, Repr

/-- A checkpoint (R215): its number, the input end, the covered tiles by SEQ, the state saved, and the pages saved. -/
structure Checkpoint where
  id : Nat
  end_ : Nat
  /-- how many tiles each checkpoint held before it covered when it was taken -/
  older : SMap Nat
  covers : List Word
  snap : Snap
  pages : List Nat
  deriving DecidableEq, Repr

/-- A held stack write (R215). -/
structure HeldWrite where
  op : StackOp
  ckpts : List Nat
  deriving DecidableEq, Repr

/-- Whom a long command answers (R453): port, session, SEQ and TAG of its request, and its command code. -/
structure Caller where
  hub : Hub
  session : Nat
  seq : Word
  tag : Nat
  command : Nat
  deriving DecidableEq, Repr

/-- A station on its cell. -/
structure Station where
  cell : Option Nat
  run : RunState
  waiting : Waiting
  waitInsn : Word
  /-- module time at which the wait began, for R54 and R318 -/
  waitSince : Nat
  /-- module time since which the next instruction waits for a FETCH or GATHER result (R152, R318) -/
  blockedSince : Option Nat
  drainReq : Bool
  g : SMap DWord
  p : BitVec 8
  t : SMap Handle
  pc : Nat
  acc : Acc
  endCtl : SMap Word
  /-- check differences of the words that hold the end control words, four of them to a word (R237) -/
  endChk : SMap (BitVec 16)
  gen : Gen
  scratch : Mem
  code : List Word
  order : Nat
  stackOps : List StackOp
  blockOps : List BlockOp
  tallyOps : List TallyWait
  ckpts : List Checkpoint
  ckptNext : Nat
  heldWrites : List HeldWrite
  relocations : Nat
  relocating : Bool
  /-- RELOCATE_PENDING has been reported (R100) -/
  relocReported : Bool
  stallReported : Bool
  /-- save area on a stack (R95), and the generator kept with it while the bundle is EVICTED (R129) -/
  save : Option Placed
  saved : Option Gen
  /-- deferred tally faults not yet taken (R161), oldest first: code, PC and word of the TGIVE or TDEBIT -/
  deferred : List (Nat × Nat × Word)
  deriving DecidableEq, Repr

/-! ### Streams -/

/-- An entry of an input queue; a consumed entry stays while the checkpoints listed are open (R215). -/
structure QEntry where
  tile : Tile
  consumed : Option (List Nat)
  deriving DecidableEq, Repr

/-- A consumer end of a stream (R53, R55). -/
structure ConsEnd where
  queue : List QEntry
  /-- SEQ of the next tile to deliver, for a stream between modules (R51) -/
  nextSeq : Word
  /-- tiles held ahead of a missing one (R55) -/
  reorder : List Tile
  broken : Bool
  discarded : Nat
  stallReported : Bool
  deriving DecidableEq, Repr

/-- A tile accepted by its first hop and under way to the consumers listed (R52). -/
structure Flight where
  tile : Tile
  toCons : List Nat
  deriving DecidableEq, Repr

/-- An unresolved provisional tile of an output end (R210), held in the spill reserve where its stream is a boundary
stream (R213). -/
structure ProvTile where
  seq : Word
  /-- the place of its POST in its station's program order -/
  order : Nat
  confirmed : Bool
  ckpts : List Nat
  held : Bool
  tile : Tile
  deriving DecidableEq, Repr

/-- A delta end (R197 to R209). -/
structure DeltaEnd where
  opened : Bool
  frame : Word
  lastClosed : Option Word
  posted : List Nat
  key : Bool
  acc : Word
  local_ : Word
  sinceKey : Nat
  sent : Nat
  suppressed : Nat
  keyPending : Bool
  incomplete : Bool
  /-- the record of R209 as of the last close; none before the first -/
  last : List Byte
  deriving DecidableEq, Repr

/-- A collective stream's instance on this module (R386 to R390): open, its FRAME, the indices posted, whether its steps
run, the present step, whether its send is acknowledged, how often it was sent and over which option, and the (step, J)
pairs applied, so that a resent tile is a duplicate (R388). Posted tiles
are numbered by `postSeq`; a tile of a speculation region is posted when it enters the hold and staged when it is resolved. `past` holds the pairs applied of the instances before, by FRAME; `blocked` says that the step
waits for a postcode (R369). -/
structure Coll where
  active : Bool
  frame : Word
  posted : List Nat
  postSeq : Word
  staged : Nat
  started : Bool
  step : Nat
  acked : Bool
  sends : Nat
  option : Nat
  link : Nat
  applied : List (Nat × Nat)
  past : SMap (List (Nat × Nat))
  blocked : Bool
  deriving DecidableEq, Repr

/-- A stream of a bundle at run time. -/
structure Stream where
  nextSeq : Word
  ends : List ConsEnd
  flight : List Flight
  prov : List ProvTile
  delta : DeltaEnd
  coll : Coll
  /-- receives that the host has posted and the module has not used (R461) -/
  receives : Nat
  qp : Option Nat
  deriving DecidableEq, Repr

/-! ### Tallies (R263 to R281) -/

/-- A waiting taker or watcher. -/
structure Waiter where
  src : TallySrc
  amount : Word
  deriving DecidableEq, Repr

/-- A tally of a bundle. -/
structure Tally where
  value : Word
  multi : Nat
  overs : Nat
  under : Nat
  orphaned : Bool
  takers : List Waiter
  watchers : List Waiter
  /-- the present home station, and the home postcode of a tally homed elsewhere (R283) -/
  home : Option Nat
  remoteHome : Nat
  /-- epoch markers sent and not yet accepted: the station whose operations they follow with its place in its program
  order, none for a host-written one (R274) -/
  markers : List (Option (Nat × Nat))
  deriving DecidableEq, Repr

/-! ### Bundles (R75) -/

/-- Bundle states, with their codes in BND_SLOT_STAT (R106). -/
inductive BState where
  | loading | planWait | ready | running | held | evicting | evicted | faulted
  deriving DecidableEq, Repr

/-- The options of R77. -/
structure LoadOpts where
  replace : Option Nat
  preempt : Bool
  start : Bool
  countersReadable : Bool
  deriving DecidableEq, Repr

/-- A frame of a bundle that has started and not completed (R297, R298). -/
structure Frame where
  number : Nat
  start : Nat
  late : Bool
  deriving DecidableEq, Repr

/-- A bundle held in a slot. -/
structure Bundle where
  reuse : Nat
  st : BState
  img : BundleImg
  opts : LoadOpts
  /-- the staging buffer that the load releases when it completes (R460) -/
  stage : Nat
  /-- the order of loading, for R98 -/
  loaded : Nat
  /-- fit passed: the bundle counts as loaded under RWL (R19) and holds its resources (R84) -/
  fits : Bool
  placed : Bool
  everStarted : Bool
  stations : List Station
  streams : List Stream
  regions : List Placed
  spills : List Placed
  tallies : List Tally
  preload : Nat
  haltReported : Bool
  /-- state to return to when an eviction ends with DRAIN_TIMEOUT (R96) -/
  evictFrom : BState
  /-- victims whose eviction this PREEMPT load waits for (R98) -/
  victims : List Nat
  /-- PLAN entries that failed and were let through (R80): code, entry number, lanes found lit -/
  planShort : List (Nat × Nat × Nat)
  /-- the Counter request to answer when the load or eviction ends -/
  reply : Option Caller
  frames : List Frame
  frameK : Nat
  frameS0 : Nat
  lastFrame : Option Word
  /-- slack of the last completed frames, newest first, and frames completed since the last request under R303 -/
  slacks : List Int
  sinceRaise : Nat
  /-- FIXED_MV as a framed bundle's requests began (R305) -/
  baseMv : Option Nat
  /-- voltage this bundle asks of each of its domains, in mV (R302 to R305) -/
  requests : SMap Nat
  /-- last second in which MEM_RADD_REFUSED was reported, per region (R248) -/
  raddReported : SMap Nat
  deriving DecidableEq, Repr

/-! ### Dead letters and memory -/

/-- A dead-letter entry (R66), with the check differences of its words outside the tile. -/
structure DlqEntry where
  reason : Nat
  seq : Nat
  timeS : Nat
  timeNs : Nat
  cell : Nat
  consumer : List Byte
  tile : Tile
  chk : SMap (BitVec 16)
  deriving DecidableEq, Repr

/-- Per-row account of a stack: the seconds of its corrected words in the last 24 hours (R253), activations in the refresh
window `win` (R255). -/
structure RowAcct where
  ces : List Nat
  act : Nat
  win : Nat
  deriving DecidableEq, Repr

/-- A Holok stack (R239). The repair map lists, per bank number (pseudo-channel × 32 + bank), the rows remapped, in the
order their spares were taken; it is kept in the persistent store (R254). `repairing` lists the rows (bank number × 65,536 +
row) whose repair runs (R253). -/
structure Stack where
  mem : Mem
  failed : Bool
  wiping : Bool
  repairing : List Nat
  repaired : SMap (List Nat)
  rows : SMap RowAcct
  deriving DecidableEq, Repr

/-- A compute die: its dead-letter queue and two stacks. -/
structure Die where
  dlq : List DlqEntry
  stks : List Stack
  deriving DecidableEq, Repr

/-- How a cell stands (R99 to R104): soft or hard retired, and its corrected symbols in the 1-hour window. -/
inductive Retired where
  | soft | hard
  deriving DecidableEq, Repr

/-- A stream identifier an engine remembers (R63). -/
structure Remembered where
  id : Nat
  consumer : List Byte
  deriving DecidableEq, Repr

/-! ### Pace, power and temperature (R288 to R317) -/

/-- The parts that R314 shuts. -/
inductive Part where
  | die (d : Nat)
  | engine (e : Nat)
  | hub (h : Nat)
  deriving DecidableEq, Repr

/-- Pace, power and temperature state beside the registers: the granted voltage of each governed domain in mV (R294,
R309), the measured curves (R303, R315: by voltage in mV, the rate in Mbeat/s), what is shut (R314), the brake's causes
(R311, R313), the domains at or above HIGH_C, the input energy in units of 0.1 mJ and its latched high word (R320), the
account of late reports (R301), the daily means of each component (R317; key kind × 65,536 + index) and the components
already below WARN_DAYS. -/
structure Pace where
  setting : SMap Nat
  curve : SMap (SMap Nat)
  shut : List Part
  brakeCur : Bool
  brakePow : Bool
  brakeDies : List Nat
  high : List Nat
  energy : Nat
  energyHi : Word
  lateSec : Nat
  lateMade : Nat
  lateHeld : Nat
  means : SMap (List Nat)
  warned : Bool
  /-- domains whose temperature has been read since reset -/
  sampled : List Nat
  /-- busy beats and power share of each loaded slot over the last 100 µs (R310) -/
  share : SMap Nat
  deriving DecidableEq, Repr

end Sys2Proof.Machine
end

