-- ==== Sys2Proof/Machine/TypesFab.lean ====
section
/-!
DEFINITION. The parts of the state that belong to the fabric (spec/12): flits, links, the route books, a re-cable in
progress.
-/
namespace Sys2Proof.Machine
open Sys2Proof

/-- A tile that an engine has received whole: channel, destination, and the flits it holds in the receive buffer. -/
structure Arrival where
  vc : Nat
  dest : Nat
  tile : Tile
  flits : Nat
  deriving DecidableEq, Repr

/-- A flit that waits to be sent, with the port on which its tile or message arrived, none for the module's own (R375). -/
structure Queued where
  flit : Flit
  via : Option Nat
  deriving DecidableEq, Repr

/-- States of a link (R368). -/
inductive LinkState where
  | up | down | lost
  deriving DecidableEq, Repr

/-- What an IDENT of a lane gave (R370) and the result of its comparison (R371, FAB_FAR MATCH). -/
structure IdentInfo where
  kind : Nat
  postcode : Nat
  port : Nat
  channel : Nat
  version : Nat
  txLat : Nat
  rxLat : Nat
  loopLat : Nat
  matched : Nat
  deriving DecidableEq, Repr

/-- A link of a port (R373): far end, its channels, lanes in service by channel, sequence state of both directions (R364), credits held
and freed by channel (R365), flits waiting by channel (R366) with the tiles sent in the present round of the weights, and
the words of the tile being received on each channel, the time since which each channel's flit waits for a credit
(R318), the channel that λS carries for the link (R363, R367) and the flits sent so far (R363). -/
structure Link where
  farPostcode : Nat
  farPort : Nat
  farKind : Nat
  chans : List Nat
  lanes : List Nat
  st : LinkState
  downSince : Nat
  trained : Nat
  reduced : Bool
  txNext : Nat
  rxNext : Nat
  retrying : Bool
  replay : List Flit
  credits : List Nat
  freed : List Nat
  txq : List (List Queued)
  round : Nat
  rx : List (List (List Byte × BitVec 16))
  inbox : List Arrival
  quiesced : Bool
  changing : Bool
  tofDone : Bool
  creditWait : SMap Nat
  spare : Option Nat
  sent : Nat
  deriving DecidableEq, Repr

/-- A message that waits for a usable route (R369), with the port on which it arrived. -/
structure WaitingMsg where
  dest : Nat
  vc : Nat
  via : Option Nat
  body : FlitBody
  deriving DecidableEq, Repr

/-- How far a re-cable or swap is (R378). -/
inductive Recable where
  | idle | quiescing | paused | committing | discovering
  deriving DecidableEq, Repr

/-- The time exchange of a link (R473): the neighbour's offset last found in ps, consecutive exchanges beyond the bound, and
whether that was reported. -/
structure Nbr where
  offset : Int
  beyond : Nat
  reported : Bool
  deriving DecidableEq, Repr

/-- The fabric: links by port × 16 + their lowest channel, both books by index (R374), messages that wait (R369), a re-cable
or swap in progress and the links it changes (R378), ports reported bypassed once, marked ABSENT and held UNPLANNED (R371),
what each lane's IDENT gave, and the expectations FAB_EXPECT and FAB_BYPASS in force by port × 16 + channel. -/
structure Fabric where
  links : SMap Link
  active : SMap Nat
  shadow : SMap Nat
  waiting : List WaitingMsg
  recable : Recable
  changing : List Nat
  bypassed : List Nat
  absent : List Nat
  unplanned : List Nat
  ident : SMap IdentInfo
  inForce : SMap (Word × Word)
  nbr : SMap Nbr
  /-- a time-of-flight measurement that waits for λS, by link, with the time its wait began (R381) -/
  tofWait : SMap Nat
  /-- lanes, by port × 16 + channel, that the re-cable in progress changes (R378) -/
  recut : List Nat
  deriving DecidableEq, Repr

end Sys2Proof.Machine
end

