-- ==== Sys2Proof/Machine/TypesHub.lean ====
section
/-!
DEFINITION. The parts of the state that belong to the hubs, the Counter, time, the recorder and the performance counters
(spec/15, 16): plain data, one structure for each thing the spec names; and what the block emits.
-/
namespace Sys2Proof.Machine
open Sys2Proof

/-! ### What leaves the block -/

/-- A Counter reply (KIND 1) or event (KIND 2) on a hub's port (R450), and whether it carries a tag (R456). -/
structure CtrMsg where
  port : Hub
  kind : Nat
  command : Nat
  status : Nat
  session : Nat
  seq : Nat
  tag : Nat
  timeNs : Nat
  timeS : Nat
  quality : Word
  body : List Byte
  tagged : Bool
  deriving DecidableEq, Repr

/-- What the block sends or drives outward. -/
inductive Emit where
  /-- Counter reply or event (R450) -/
  | counter (m : CtrMsg)
  /-- answer to a register access: status and word read (R14, R25) -/
  | reg (origin : Origin) (status : Nat) (value : Word)
  /-- I3C in-band interrupt (R486) -/
  | ibi (hub : Hub)
  /-- a tile to the host on a host stream (R461) -/
  | toHost (streamId : Word) (tile : Tile)
  /-- a receiver-not-ready NAK to a SEND (R461) -/
  | rnr (streamId : Word)
  /-- a SEND acknowledged (R461) -/
  | sendAck (streamId : Word)
  /-- a flit on a lane of a link of an optical port, the link by port × 16 + channel (R361, R363) -/
  | flit (link lane : Nat) (f : Flit)
  /-- an answer of a port to ARP, Neighbor Discovery or ICMP echo (R448) -/
  | ether (hub : Hub) (kind : Nat) (payload : List Byte)
  /-- a tile from a servo output binding (R428) -/
  | servoOut (streamId : Word) (tile : Tile)
  deriving DecidableEq, Repr

/-! ### Recorder (R496 to R505) -/

/-- A report: its code, source number (R475), load handle, detail bytes (R499), and whether it goes to the host, to the
recorder, and stands for a count (SUMMARY). -/
structure Report where
  code : Nat
  source : Nat
  handle : Nat
  detail : List Byte
  toHost : Bool
  toRec : Bool
  summary : Bool
  timeS : Nat
  timeNs : Nat
  frac : Nat
  uncertain : Bool
  deriving DecidableEq, Repr

/-- A record (R497, R498). -/
structure Record where
  type : Nat
  seq : Nat
  optime : Nat
  cycles : Nat
  timeS : Nat
  timeNs : Nat
  frac : Nat
  flags : Nat
  source : Nat
  handle : Nat
  detail : List Byte
  deriving DecidableEq, Repr

/-- A hub's recorder: the flash ring and the holding ring (oldest first), the mirror queue, and the reader's window. -/
structure Recorder where
  ring : List Record
  holding : List Record
  nextSeq : Nat
  degraded : Bool
  mirrorQ : List Record
  mirrorDropped : Nat
  cursor : Nat
  wState : Nat
  wLen : Nat
  win : List Word
  second : Nat
  written : Nat
  suppressed : SMap Nat
  added : Bool
  /-- the flash blocks in use fail their next write-verify (R505); a physical condition -/
  flashBad : Bool
  deriving DecidableEq, Repr

/-! ### Time (R463 to R473) -/

/-- The time-base: seconds, nanoseconds, fraction in 2^−32 ns, slew still to add in 2^−32 ns, a staged low increment
word, and the latched words of R477. -/
structure TimeBase where
  sec : Nat
  ns : Nat
  frac : Nat
  slew : Int
  incrLo : Option Word
  latchHi : Word
  latchNs : Word
  latchFrac : Word
  deriving DecidableEq, Repr

/-- A PTP instance of a hub (R467, R469): OFS and MPD in 1/16 ns, whether each has been measured, consecutive Syncs
within and beyond STEP_NS, Syncs since HOLDOVER, whether it is locked, and the module time of its last path jump. -/
structure Ptp where
  ofs : Int
  mpd : Int
  hasOfs : Bool
  hasMpd : Bool
  good : Nat
  beyond : Nat
  syncs : Nat
  locked : Bool
  jumpAt : Option Nat
  deriving DecidableEq, Repr

/-- States of the PTP servo (R469), with their codes in TB_STAT. -/
inductive ServoState where
  | free | acquiring | locked | holdover | slewing | manual
  deriving DecidableEq, Repr

/-- The PTP servo of the active hub (R469, R470): HOLDOVER's jump in 1/16 ns, its start (module time in ns), the
selected instance's OFS before it, and whether HOLD_MS has elapsed. -/
structure PtpServo where
  st : ServoState
  jump : Nat
  since : Nat
  ofsBefore : Int
  elapsed : Bool
  stepped : Bool
  deriving DecidableEq, Repr

/-! ### Counter sessions (R450 to R460) -/

/-- A staging buffer (R460). -/
structure Stage where
  id : Nat
  session : Nat
  len : Nat
  bytes : List Host.Cell
  deriving DecidableEq, Repr

/-- A Counter request held by a session while an earlier one of it executes (R453). -/
structure CtrReq where
  caller : Caller
  body : List Byte
  deriving DecidableEq, Repr

/-- A Counter message of which datagrams are missing (R451): its port, session, SEQ, command, FRAG_COUNT and the bodies of
the datagrams that have come. -/
structure Partial where
  port : Hub
  session : Nat
  seq : Word
  command : Nat
  count : Nat
  got : SMap (List Byte)
  deriving DecidableEq, Repr

/-- A Counter session: its class and options, whether it is authenticated, its KEY_INDEX, whether it was authenticated with an ADMIN key
(R535), K, H of R455, its last accepted SEQ, the reply cached for it, the requests accepted and not
yet executed, whether one executes, and the events sent. -/
structure Session where
  id : Nat
  control : Bool
  events : Bool
  authed : Bool
  keyIndex : Nat
  admin : Bool
  key : List Byte
  hash : List Byte
  lastSeq : Word
  cached : Option CtrMsg
  busy : Bool
  backlog : List CtrReq
  eventNum : Nat
  eventSecond : Nat
  eventCount : Nat
  deriving DecidableEq, Repr

/-! ### Hubs (R480 to R495) -/

/-- Health codes (R484). -/
inductive Health where
  | active | standbySync | standbyUnsync | hbLost | handoverReq | restarting | recovery | failed
  deriving DecidableEq, Repr

/-- A firmware image in the persistent store (R493, R532). -/
structure FwImage where
  version : Nat
  repl : Nat
  svn : Nat
  valid : Bool
  /-- SHA-256 of its header and body (R538) -/
  hash : List Byte
  deriving DecidableEq, Repr

/-- A hub: its lease line, whether it holds its lease and whether the line is treated as not granted (R480 to R482), its health
code, whether it holds a current copy of the replicated state (R488), its Ethernet link, whether it has isolated itself (R490),
the image stored and the one that runs, its recorder, its PTP instances and its dynamic I3C address (R558). -/
structure HubSt where
  line : Bool
  lease : Bool
  conflict : Bool
  health : Health
  current : Bool
  ethDown : Bool
  link : Bool
  isolated : Bool
  fw : FwImage
  running : FwImage
  recovery : Bool
  recorder : Recorder
  ptp : List Ptp
  i3cDynamic : Option Nat
  deriving DecidableEq, Repr

/-- A firmware update (R494): the step under way (0 idle), the status of the last action, the image verified and its stage. -/
structure FwUpdate where
  step : Nat
  last : Nat
  image : Option FwImage
  stage : Nat
  deriving DecidableEq, Repr

/-! ### Security (R519 to R546) -/

/-- Life-cycle states, with their LC codes (R541). -/
inductive LifeCycle where
  | manufacturing | provisioned | field | returned
  deriving DecidableEq, Repr

/-- A slot of the key table (R534): kind 0 empty, else the kind's code. -/
structure KeySlot where
  kind : Nat
  key : List Byte
  deriving DecidableEq, Repr

/-- An accepted debug grant (R539, R540). -/
structure Grant where
  rights : Nat
  notBefore : Nat
  notAfter : Nat
  number : Nat
  inForce : Bool
  deriving DecidableEq, Repr

/-- One copy of retained state in the persistent store (R526, R527): its generation (0: never written), the words of
registers that hold kept fields, the retirement record, the active route book, the servo parameters, and the groups whose
record does not verify. -/
structure Retained where
  gen : Nat
  kept : SMap Word
  retired : SMap Retired
  routes : SMap Nat
  params : SMap Word
  bad : List Nat
  deriving DecidableEq, Repr

/-- The security block: the life-cycle state and the target of a transition that a loss of power cut short (R543, R544),
the key table and the staged key (words 0 to 7; its kind is SEC_KEY_SEL's), the grant accepted, the greatest NUMBER and the
staged grant words (R539, R540), the fused minimum SVN, how often an identity key was generated (R537), the nonce of an
attestation under way and the last report (R538), both copies of retained state and whether a change waits to be committed,
and how many random values were taken. -/
structure Security where
  lc : LifeCycle
  incomplete : Option LifeCycle
  keys : List KeySlot
  stagedKey : SMap Word
  stagedKind : Option Nat
  grant : Option Grant
  grantMax : Option Nat
  grantWords : SMap Word
  svnMin : Nat
  idGen : Nat
  attesting : Option (List Byte)
  attReport : List Byte
  retA : Retained
  retB : Retained
  retPending : Bool
  random : Nat
  deriving DecidableEq, Repr

/-! ### Performance counters (R506 to R512) -/

/-- A 48-bit counter with its WRAP bit. -/
structure Count where
  value : Nat
  wrap : Bool
  deriving DecidableEq, Repr

/-- A sample of the buffer (R512). -/
structure Sample where
  timeS : Nat
  timeNs : Nat
  frac : Nat
  flags : Nat
  event : Nat
  seq : Nat
  source : Nat
  cell : Nat
  pc : Nat
  insn : Word
  latency : Nat
  handle : Nat
  name : List Byte
  deriving DecidableEq, Repr

/-- A sampling slot: events counted towards its PERIOD on each unit it names, by UNIT (R510). -/
structure SampleSlot where
  counted : SMap Nat
  deriving DecidableEq, Repr

/-- Sampling state of the active hub (R512). -/
structure Sampling where
  slots : List SampleSlot
  buffer : List Sample
  lost : Nat
  lostBefore : Bool
  nextSeq : Nat
  deriving DecidableEq, Repr

end Sys2Proof.Machine
end

