-- ==== Sys2Proof/Machine/TypesOpt.lean ====
section
/-!
DEFINITION. The parts of the state that belong to the optical engines (spec/11), the calibration store (spec/13), the servo
loop engines (spec/14) and the electrical interface (spec/18): plain data, one structure for each thing the spec names.
-/
namespace Sys2Proof.Machine
open Sys2Proof

/-! ### Optical engines (R322 to R357) -/

/-- Lane states (R340). -/
inductive LaneState where
  | dark | lighting | training | margin | active | spareIdle | covering | cal | spared | dropped | held | recover
  | through | tripped
  deriving DecidableEq, Repr

/-- A lane (p, c) of an engine (R324, R340 to R347): its state, the channel that λS covers, margin, last cause, failed
retries, whether its full margin was measured since reset, the DAC resolution and the equaliser seeds of its last training
(R327, R328), whether a planned cover of it is announced (R342), and whether a retry of it runs (R344). -/
structure Lane where
  st : LaneState
  cover : Option Nat
  margin : Nat
  cause : Nat
  retries : Nat
  full : Bool
  dacBits : Nat
  seeds : List Word
  planned : Bool
  trying : Bool
  deriving DecidableEq, Repr

/-- States of an element (R356): safe output, steering, locked or parked, tripped. -/
inductive ElemState where
  | safe | steering | locked | tripped
  deriving DecidableEq, Repr

/-- A tunable element (R333, R334, R338): its state, identity, strongest pilot, heater power, loop error, consecutive
samples within tolerance. -/
structure Elem where
  st : ElemState
  identOk : Bool
  pilot : Option Nat
  heater : Nat
  error : Nat
  good : Nat
  deriving DecidableEq, Repr

/-- States of a laser (R356). -/
inductive LaserState where
  | off | warming | lockedDark | inUse | retired
  deriving DecidableEq, Repr

/-- A laser (R348 to R351): its state, whether it was retired by failure, bias in % of maximum, power in 0.01 dBm. -/
structure Laser where
  st : LaserState
  failed : Bool
  bias : Nat
  power : Nat
  deriving DecidableEq, Repr

/-- The setting of a through-pair in force (R329 to R331): THROUGH by channel, ports lit, pair cell in LOOP. -/
structure PairSet where
  through : Nat
  litA : Bool
  litB : Bool
  loop : Bool
  deriving DecidableEq, Repr

/-- How far the handover of a channel is (R349): its spare warms; it is locked and the window waits to be announced; the
window is announced. -/
inductive Handover where
  | warming | locked | announced
  deriving DecidableEq, Repr

/-- An optical engine: pair settings in force by pair, lanes by 9p + c, elements by index, lasers by n, handovers by
channel, whether a commit runs, the lanes it changes, and a commit that waits for LIGHT_READY: its settings and the lanes that
it changes besides (R336). -/
structure Optic where
  pairs : SMap PairSet
  lanes : SMap Lane
  elems : SMap Elem
  lasers : SMap Laser
  handover : SMap Handover
  busy : Bool
  changed : List Nat
  waits : Option (SMap PairSet × List Nat)
  deriving DecidableEq, Repr

/-! ### Calibration (R395 to R411) -/

/-- Sources of an item's values (R410). -/
inductive CalSource where
  | factory | measured | restored | none
  deriving DecidableEq, Repr

/-- A calibrated item (R395, R398, R404 to R408): where its values come from, whether it is due, whether the host asked,
whether it runs, failed, consecutive bad runs, the second at which the last bad run ended, TREF, QUALITY, the second its
values took effect, its values, whether its starvation was reported, whether its domain's mean temperature has strayed from
TREF, whether a run is due again after a bad run or a run over which the temperature moved, and its place in the order of
becoming due (R399). -/
structure CalItem where
  source : CalSource
  due : Bool
  asked : Bool
  running : Bool
  failed : Bool
  bad : Nat
  badAt : Option Nat
  tref : Nat
  quality : Nat
  effect : Nat
  values : List Word
  starved : Bool
  hot : Bool
  again : Bool
  rank : Nat
  deriving DecidableEq, Repr

/-- The calibration store: items by class × 1,024 + instance, staged record words, consecutive reference mismatches by block (0 to 7
dies, 8 to 11 engines, 12 and 13 hubs, 14 the domains that belong to none), the mean over the last second of each domain's
sensor in 0.25 °C (R398), how many items have become due, the steps of module time in 1/16 ns, and the second of the last reset,
from which AGE_S counts (R410). -/
structure Calib where
  items : SMap CalItem
  staged : SMap Word
  mismatch : SMap Nat
  means : SMap Nat
  ranks : Nat
  stepped : Int
  since : Nat
  deriving DecidableEq, Repr

/-! ### Servo loop engines (R412 to R446) -/

/-- A matrix or vector in block floating point (R416): element i is m_i × 2^(e − 149). -/
structure Blk where
  e : Nat
  m : List Int
  deriving DecidableEq, Repr

/-- Loop states (R430). -/
inductive LoopState where
  | open_ | closed | tripped
  deriving DecidableEq, Repr

/-- A loop of a servo engine: its state, its matrices converted at CLOSE, the estimate, the last latched and computed
vectors (y, r, u*, u, ν, x̂ as FP32), the set-points that hold, outputs saturated at the last sample and the
time since which each is, last trip cause and CLOSE refusal, trips, samples since CLOSE, samples of the loop it is paced by
since CLOSE, and the configuration generation of its CLOSE (R442). -/
structure Loop where
  st : LoopState
  a : Blk
  b : Blk
  c : Blk
  l : Blk
  k : Blk
  n : Blk
  x : Blk
  y : List Word
  r : List Word
  us : List Word
  u : List Word
  nu : List Word
  xs : List Word
  spHold : List Nat
  sat : Nat
  satSince : SMap Nat
  cause : Nat
  reason : Nat
  trips : Nat
  samples : Nat
  paced : Nat
  gen : Nat
  deriving DecidableEq, Repr

/-- States of an input (R436 to R439). -/
inductive InputState where
  | armed | masked | overrun
  deriving DecidableEq, Repr

/-- An input: its state, overrun edges, level, pulse count (A inputs), time of its last accepted edge in ns. -/
structure Input where
  st : InputState
  overs : Nat
  level : Bool
  count : Word
  last : Option Nat
  deriving DecidableEq, Repr

/-- States of a test and capture (R434, R435). -/
inductive CapState where
  | idle | running | done_ | aborted
  deriving DecidableEq, Repr

/-- A test and capture: its state, whether a capture waits for the event of CAP_TRIG, samples so far, the shift register of
a PRBS, and the samples captured (four words each). -/
structure Capture where
  st : CapState
  waiting : Bool
  j : Nat
  prbs : Nat
  data : List (List Word)
  deriving DecidableEq, Repr

/-- A servo loop engine of a hub: parameters other than defaults by their key, loops, inputs, the position of each axis at
the previous sample (R429), values received by input slot × 64 + element, the times of the newest tile of each input slot
and the test and capture. -/
structure Servo where
  params : SMap Word
  loops : SMap Loop
  inputs : SMap Input
  axisPos : SMap Word
  inVals : SMap Word
  inTime : SMap Nat
  stale : List Nat
  cap : Capture
  deriving DecidableEq, Repr

/-- A pin driver (R440): the value driven (none: released), the SAFE value of the output it serves, the loop and output, the
time of its last value, and whether it went to SAFE for want of values. -/
structure Driver where
  value : Option Word
  safe : Option Word
  loop : Nat
  out : Nat
  at_ : Nat
  held : Bool
  deriving DecidableEq, Repr

/-- Drivers by pin (0 to 7 PWM, 8 to 11 DOUT), and the generation of each loop's last CLOSE written into them (R442). -/
structure Drivers where
  pins : SMap Driver
  gens : SMap Nat
  deriving DecidableEq, Repr

/-! ### Electrical interface (R548 to R563) -/

/-- The functions of the test access port (R559): BYPASS, IDCODE, SAMPLE and EXTEST over the boundary cells of the signal connector,
and every other test function. -/
inductive TapFn where
  | bypass | idcode | sample | extest | other
  deriving DecidableEq, Repr

/-- What holds the module: the input switch open, and latched so (R314), RST_N low, REFCLK out of tolerance; whether the start
that waits is a power-up; the second of the last dip report (R552); and the function selected at the test access port (R559). -/
structure Elec where
  off : Bool
  latched : Bool
  fresh : Bool
  rstLow : Bool
  clkLost : Bool
  dipSecond : Option Nat
  tap : TapFn
  deriving DecidableEq, Repr

end Sys2Proof.Machine
end

