-- ==== Sys2Proof/Machine/State.lean ====
section
/-!
DEFINITION. The whole machine as plain data: everything the spec gives the module, the queue of commands that wait, and
what the module has sent. `State.reset` is the module right after reset.
-/
namespace Sys2Proof.Machine
open Sys2Proof

/-- The part as it was made (R1, R33): which module, its lid, serial number, MAC addresses, and the cells that failed
production test or are fused off (R31). -/
structure Ident where
  fm2 : Bool
  coldPlate : Bool
  serial : Nat
  mac0 : List Byte
  mac1 : List Byte
  badCells : List Nat
  deriving DecidableEq, Repr

/-- Whether the module runs, is held in reset (RST_N low or no REFCLK), or is unpowered (R522, R551, R563). -/
inductive Phase where
  | running
  | resetHeld
  | unpowered
  deriving DecidableEq, Repr

/-- A load or probe that waits its turn (R78). -/
structure LoadReq where
  probe : Bool
  caller : Caller
  stage : Nat
  opts : LoadOpts
  deriving DecidableEq, Repr

/-- Bundles and what the placer keeps. -/
structure Placer where
  slots : SMap Bundle
  /-- loads and probes that wait (R78), bundles whose circuits are lit and that wait to go on (R80), and the slot of the load
  that runs across commands: it waits for victims to drain or for storage objects -/
  queue : List LoadReq
  ready : List Nat
  busy : Option Nat
  reuse : SMap Nat
  loads : Nat
  retired : SMap Retired
  /-- loads that a failover ended, to be reported once the host holds a Counter session (R105) -/
  abandoned : List Report
  /-- corrected scratch symbols of each cell in the last hour: the second and how many (R99) -/
  ceWindow : SMap (List (Nat × Nat))
  deriving DecidableEq, Repr

/-- The state of the block. -/
structure State where
  /-- commands that wait, first in, first out -/
  pending : List Instr
  out : List Emit
  /-- number of open values taken (a field of the model, not of the spec) -/
  free : Nat
  ident : Ident
  phase : Phase
  regs : SMap Word
  tb : TimeBase
  servo : PtpServo
  sessions : List Session
  stages : List Stage
  sessionNext : Nat
  /-- Counter messages not complete (R451) -/
  partials : List Partial
  /-- untagged replies sent in the second given (R456) -/
  untagged : Nat × Nat
  pl : Placer
  dies : List Die
  remembered : List (List Remembered)
  counts : SMap Count
  sampling : Sampling
  ha : HubSt
  hb : HubSt
  active : Option Hub
  /-- the hub that acted as active last -/
  last : Option Hub
  xlink : Bool
  synced : Bool
  heldReports : List Report
  fw : FwUpdate
  optime : Nat
  optimeSaved : Nat
  cycles : Nat
  roceRate : Nat
  sec : Security
  pace : Pace
  fab : Fabric
  optics : List Optic
  cal : Calib
  engA : Servo
  engB : Servo
  drivers : Drivers
  elec : Elec
  deriving DecidableEq, Repr

/-- Reasons a step could stop with a fault: none, since every command of the spec goes on (see NOTES.md, Stops). -/
inductive Fault where
  /-- raised by no command; the type may not be empty. Safe: no step answers it. -/
  | none
  deriving DecidableEq, Repr

/-- Reasons for a refusal. -/
inductive Refusal where
  /-- raised by an arm of `exec` whose command has no meaning yet. Safe: the machine stops. -/
  | notModelled (mnemonic : String)
  deriving DecidableEq, Repr

/-! ### Reset -/

/-- DESIGN CHOICE, log entry 9. -/
def Recorder.reset : Recorder :=
  { ring := [], holding := [], nextSeq := 0, degraded := false, mirrorQ := [], mirrorDropped := 0, cursor := 0, wState := 2, wLen := 0,
    win := [], second := 0, written := 0, suppressed := [], added := false, flashBad := false }
/-- DESIGN CHOICE, log entry 9. -/
def Ptp.reset : Ptp :=
  { ofs := 0, mpd := 0, hasOfs := false, hasMpd := false, good := 0, beyond := 0, syncs := 0, locked := false, jumpAt := none }
/-- DESIGN CHOICE, log entry 9; DESIGN CHOICE, log entry 10. -/
def FwImage.factory : FwImage := { version := 1, repl := 1, svn := 0, valid := true, hash := [] }
/-- A hub at reset: its firmware not yet running (RED_HEALTH 5), no lease. (DESIGN CHOICE, log entry 9; DESIGN CHOICE, log entry 10) -/
def HubSt.reset : HubSt :=
  { line := false, lease := false, conflict := false, health := .restarting, current := false, ethDown := false, link := false, isolated := false,
    fw := FwImage.factory, running := FwImage.factory, recovery := false, recorder := Recorder.reset, ptp := [Ptp.reset, Ptp.reset], i3cDynamic := none }
/-- DESIGN CHOICE, log entry 9; DESIGN CHOICE, log entry 10. -/
def Retained.empty : Retained := { gen := 0, kept := [], retired := [], routes := [], params := [], bad := [] }
/-- DESIGN CHOICE, log entry 9; DESIGN CHOICE, log entry 10. -/
def Security.reset : Security :=
  { lc := .provisioned, incomplete := none, keys := List.replicate 16 ⟨0, []⟩, stagedKey := [], stagedKind := none, grant := none, grantMax := none,
    grantWords := [], svnMin := 0, idGen := 0, attesting := none, attReport := [], retA := Retained.empty, retB := Retained.empty,
    retPending := false, random := 0 }
/-- DESIGN CHOICE, log entry 9. -/
def Pace.reset : Pace :=
  { setting := [], curve := [], shut := [], brakeCur := false, brakePow := false, brakeDies := [], high := [], energy := 0, energyHi := 0,
    lateSec := 0, lateMade := 0, lateHeld := 0, means := [], warned := false, sampled := [], share := [] }
/-- DESIGN CHOICE, log entry 9. -/
def Fabric.reset : Fabric :=
  { links := [], active := [], shadow := [], waiting := [], recable := .idle, changing := [], bypassed := [], absent := [], unplanned := [],
    ident := [], inForce := [], nbr := [], tofWait := [], recut := [] }
/-- An engine that has just started: every pair THROUGH, unlit, its pair cell in BYPASS (R354). (DESIGN CHOICE, log entry 9) -/
def Optic.reset : Optic :=
  { pairs := [], lanes := [], elems := [], lasers := [], handover := [], busy := false, changed := [], waits := none }
/-- DESIGN CHOICE, log entry 9. -/
def Calib.reset : Calib := { items := [], staged := [], mismatch := [], means := [], ranks := 0, stepped := 0, since := 0 }
/-- DESIGN CHOICE, log entry 9. -/
def Servo.reset : Servo :=
  { params := [], loops := [], inputs := [], axisPos := [], inVals := [], inTime := [], stale := [], cap := ⟨.idle, false, 0, 0, []⟩ }
/-- A stack whose wipe runs: it ends before the Counter is served (R256, R523). (DESIGN CHOICE, log entry 7) -/
def Stack.wiped : Stack := { mem := Mem.wiped, failed := false, wiping := true, repairing := [], repaired := [], rows := [] }
def Die.reset : Die := { dlq := [], stks := [Stack.wiped, Stack.wiped] }

/-- The module right after reset (R520 to R523): an FM-8 with its lid a cold plate, powered up, memory wiped, no bundle, every
register at the value of its table, no lease, both hubs restarting. (DESIGN CHOICE, log entry 1; DESIGN CHOICE, log entry 10) -/
def State.reset : State :=
  { pending := [], out := [], free := 0
    ident := { fm2 := false, coldPlate := true, serial := 0, mac0 := List.replicate 6 0#8, mac1 := List.replicate 6 0#8, badCells := [] }
    phase := .running, regs := []
    tb := { sec := 0, ns := 0, frac := 0, slew := 0, incrLo := none, latchHi := 0, latchNs := 0, latchFrac := 0 }
    servo := { st := .free, jump := 0, since := 0, ofsBefore := 0, elapsed := false, stepped := false }
    sessions := [], stages := [], sessionNext := 0, partials := [], untagged := (0, 0)
    pl := { slots := [], queue := [], ready := [], busy := none, reuse := [], loads := 0, retired := [], abandoned := [], ceWindow := [] }
    dies := List.replicate 8 Die.reset, remembered := List.replicate 4 []
    counts := [], sampling := { slots := List.replicate 8 ⟨[]⟩, buffer := [], lost := 0, lostBefore := false, nextSeq := 0 }
    ha := HubSt.reset, hb := HubSt.reset, active := none, last := none, xlink := true, synced := false, heldReports := []
    fw := { step := 0, last := 0, image := none, stage := 0 }
    optime := 0, optimeSaved := 0, cycles := 0, roceRate := 100000
    sec := Security.reset, pace := Pace.reset, fab := Fabric.reset
    optics := List.replicate 4 Optic.reset, cal := Calib.reset, engA := Servo.reset, engB := Servo.reset
    drivers := { pins := [], gens := [] }
    elec := { off := false, latched := false, fresh := false, rstLow := false, clkLost := false, dipSecond := none, tap := .idcode } }

end Sys2Proof.Machine
end

