-- ==== Sys2Proof/Machine/Ops.lean ====
section
/-!
DEFINITION. The named operations over the state that every family uses: register words and fields, module time, hubs,
reports (R454, R496 to R501), event counters and sampling (R506 to R512), and the lookup of bundles and stations.
-/
namespace Sys2Proof.Machine
open Sys2Proof

/-! ### Outcomes -/

/-- Outcomes of a command of the block. -/
abbrev Out := Host.Outcome State Fault Refusal
/-- A command ends in a next state. -/
def done (s : State) : Out := .next s
/-- The queue of emissions extended. (DEDUCED, log entry 58) -/
def emit (s : State) (e : Emit) : State := { s with out := s.out ++ [e] }
/-- A fresh open value. (DESIGN CHOICE, log entry 6) -/
def takeFree (s : State) : DWord × State := (Config.freeWord s.free, { s with free := s.free + 1 })

/-! ### Registers (R14 to R18) -/

/-- A register of an indexed block and family: the die or engine, and up to two indices. -/
structure RegRef where
  reg : Reg
  blk : Nat
  i : Nat
  j : Nat
  deriving DecidableEq, Repr

/-- Base of a block; `n` the die or the engine (R14). -/
def Block.base (b : Block) (n : Nat) : Nat :=
  match b with
  | .identity => 0x00000000
  | .pace => 0x00010000
  | .bundles => 0x00020000
  | .tally => 0x00030000
  | .perf => 0x00040000
  | .recorder => 0x00050000
  | .time => 0x00060000
  | .eth => 0x00070000
  | .cal => 0x00080000
  | .servo => 0x00090000
  | .red => 0x000A0000
  | .sec => 0x000B0000
  | .die => 0x00100000 + n * 0x10000
  | .engine => 0x00200000 + n * 0x10000
  | .fabric => 0x00300000

/-- The address of a register (R14). -/
def RegRef.addr (r : RegRef) : Nat :=
  r.reg.block.base r.blk + r.reg.off +
  (match r.reg.dims with
    | [] => 0
    | [(st, _)] => st * r.i
    | (st, _) :: (st2, _) :: _ => st * r.i + st2 * r.j)

/-- Dies populated (R26, R36). (DESIGN CHOICE, log entry 1) -/
def Ident.dies (d : Ident) : Nat := if d.fm2 then 2 else 8
/-- Engines populated (R26, R36). (DESIGN CHOICE, log entry 1) -/
def Ident.engines (d : Ident) : Nat := if d.fm2 then 1 else 4

/-- The word a register takes at reset, from the Reset column of its table; the tables give some instances values of
their own: PTP_CFG DOMAIN is j (R477) and PWR_CAP differs on the FM-2 (R320). (DESIGN CHOICE, log entry 9) -/
def resetWord (fm2 : Bool) (r : RegRef) : Word :=
  let base := r.reg.fields.foldl (fun x f => setField x f.lsb f.width f.rst) 0
  BitVec.ofNat 32 (match r.reg with
    | .ptpCfg => setField base 0 8 r.i
    | .pwrCap => if fm2 then setField base 0 13 1300 else setField base 0 13 4500
    | _ => base)

/-- The stored word of a register. (DESIGN CHOICE, log entry 9) -/
def regWord (s : State) (r : RegRef) : Word := SMap.getD s.regs r.addr (resetWord s.ident.fm2 r)
/-- A register's stored word replaced. -/
def setRegWord (s : State) (r : RegRef) (v : Word) : State :=
  { s with regs := SMap.setD s.regs r.addr v (resetWord s.ident.fm2 r) }
/-- A field of an indexed register. -/
def fldAt (s : State) (f : Fld) (blk i j : Nat) : Nat := fieldOf (regWord s ⟨f.reg, blk, i, j⟩).toNat f.lsb f.width
/-- A field of an indexed register replaced. -/
def setFldAt (s : State) (f : Fld) (blk i j v : Nat) : State :=
  setRegWord s ⟨f.reg, blk, i, j⟩ (BitVec.ofNat 32 (setField (regWord s ⟨f.reg, blk, i, j⟩).toNat f.lsb f.width v))
/-- A field of a register that stands alone. -/
def fld (s : State) (f : Fld) : Nat := fldAt s f 0 0 0
/-- A field of a register that stands alone, replaced. -/
def setFld (s : State) (f : Fld) (v : Nat) : State := setFldAt s f 0 0 0 v
/-- A counting field raised by `n`, wrapping at its width. -/
def bumpFldAt (s : State) (f : Fld) (blk i j n : Nat) : State := setFldAt s f blk i j (fldAt s f blk i j + n)
/-- A counting field raised by `n`, stopping at its largest value. -/
def satFldAt (s : State) (f : Fld) (blk i j n : Nat) : State :=
  setFldAt s f blk i j (satInc f.width (fldAt s f blk i j) n)

/-! ### Time (R463, R474) -/

/-- Module time in ns. -/
def now (s : State) : Nat := s.tb.sec * 1000000000 + s.tb.ns
/-- The postmark of the present instant (R46). -/
def postmarkNow (s : State) : Word := BitVec.ofNat 32 (now s % 2 ^ 32)
/-- The uncertain flag and error bound of the quality word (R162, R469). -/
def uncertain (s : State) : Bool := fld s F.tbQualUncertain == 1
/-- The quality word STAMP FN 4 reads (R162). -/
def qualityWord (s : State) : Word := regWord s ⟨.tbQual, 0, 0, 0⟩

/-! ### Hubs -/

/-- Whether a hub's firmware runs. -/
def firmwareRuns (x : HubSt) : Bool := x.health != .restarting && x.health != .failed
def hubOf (s : State) : Hub → HubSt
  | .ha => s.ha
  | .hb => s.hb
def setHub (s : State) (h : Hub) (x : HubSt) : State :=
  match h with
  | .ha => { s with ha := x }
  | .hb => { s with hb := x }
def peer : Hub → Hub
  | .ha => .hb
  | .hb => .ha
def hubIndex : Hub → Nat
  | .ha => 0
  | .hb => 1

/-- This module's postcode (R32, R369). -/
def postcode (s : State) : Nat := fld s F.fabPostcodePostcode
/-- SOURCE numbers (R475). -/
def srcCell (cell : Nat) : Nat := cell
def srcDie (d : Nat) : Nat := 0xF000 + d
def srcEngine (e : Nat) : Nat := 0xF100 + e
def srcHub (h : Hub) : Nat := 0xFFF0 + hubIndex h
def srcActive (s : State) : Nat := match s.active with | some h => srcHub h | none => 0xFFF0

/-! ### Recorder (R496 to R501) -/

/-- Bytes of a record (R497): 44 and the detail padded to a multiple of 4. -/
def Record.length (r : Record) : Nat := 44 + ceilDiv r.detail.length 4 * 4
/-- Bytes of the flash ring and the holding ring (R496, R505). -/
def flashBytes : Nat := 64 * 1024 * 1024
def holdingBytes : Nat := 1024 * 1024
/-- A ring with its oldest records overwritten to keep it within its size. -/
def trimRing (cap : Nat) : Nat → List Record → List Record
  | 0, l => l
  | fuel + 1, l => if cap < (l.map Record.length).foldl (· + ·) 0 then trimRing cap fuel (l.drop 1) else l

/-- The record of a report under a ring's next SEQ (R497, R498); `mirrored` for one that the peer sent (R500). -/
def recordOf (s : State) (h : Hub) (r : Report) : Record :=
  ⟨r.code, (hubOf s h).recorder.nextSeq, s.optime, s.cycles, r.timeS, r.timeNs, r.frac,
   b2n r.uncertain + 4 * hubIndex h + 8 * b2n r.summary, postcode s * 65536 + r.source, r.handle, r.detail⟩

/-- A record appended to a hub's ring, or to the holding ring while it is degraded (R496, R505). -/
def Recorder.append (c : Recorder) (r : Record) : Recorder :=
  let c1 := { c with nextSeq := (c.nextSeq + 1) % 2 ^ 32, added := true }
  if c.degraded then { c1 with holding := trimRing holdingBytes (c.holding.length + 1) (c.holding ++ [r]) }
  else { c1 with ring := trimRing flashBytes (c.ring.length + 1) (c.ring ++ [r]) }

/-- A record queued for the peer; while the cross-link is down at most 4,096 are kept (R500). -/
def Recorder.mirror (c : Recorder) (up : Bool) (r : Record) : Recorder :=
  if !up && decide (4096 ≤ c.mirrorQ.length) then
    { c with mirrorQ := c.mirrorQ.drop 1 ++ [r], mirrorDropped := c.mirrorDropped + 1 }
  else { c with mirrorQ := c.mirrorQ ++ [r] }

/-- RECORDER_DEGRADED (R505): recording moves to the holding ring; the record of it goes to the peer's ring by way of the
mirror queue, the host is told, RED_FAULT RECORDER is set. -/
def degradeRecorder (s : State) (h : Hub) : State :=
  let c := (hubOf s h).recorder
  let r : Record := ⟨C.recorderDegraded, c.nextSeq, s.optime, s.cycles, s.tb.sec, s.tb.ns, s.tb.frac / 65536,
    b2n (uncertain s) + 4 * hubIndex h, postcode s * 65536 + srcHub h, 0xFFFF, []⟩
  let s1 := setHub s h { hubOf s h with recorder := ({ c with degraded := true }).mirror s.xlink r }
  setFld s1 F.redFaultRecorder 1

/-- A record of a type written by `put` to a hub's ring, which is verified; at most 10,000 in a second, those beyond counted
(R501). (DESIGN CHOICE, log entry 42) -/
def recordWithin (s : State) (h : Hub) (code : Nat) (put : State → State) : State :=
  let c0 := (hubOf s h).recorder
  let c := if c0.second = s.tb.sec then c0 else { c0 with second := s.tb.sec, written := 0 }
  if 10000 ≤ c.written then
    setHub s h { hubOf s h with recorder := { c with suppressed := SMap.setD c.suppressed code (SMap.getD c.suppressed code 0 + 1) 0 } }
  else
    let s0 := setHub s h { hubOf s h with recorder := { c with written := c.written + 1 } }
    put (if c.flashBad && !c.degraded then degradeRecorder s0 h else s0)
/-- A report written to a hub's ring, and sent to the peer (R500). -/
def writeRecord (s : State) (h : Hub) (r : Report) : State :=
  recordWithin s h r.code (fun s1 =>
    let rec_ := recordOf s1 h r
    let c1 := (hubOf s1 h).recorder
    setHub s1 h { hubOf s1 h with recorder := (c1.append rec_).mirror s1.xlink rec_ })

/-- The record prefix of a report (R498). -/
def prefixBytes (s : State) (r : Report) : List Byte :=
  leBytes 8 r.timeS ++ leBytes 4 r.timeNs ++ leBytes 2 r.frac ++
  leBytes 2 (b2n r.uncertain + 4 * (match s.active with | some h => hubIndex h | none => 0) + 8 * b2n r.summary) ++
  leBytes 4 (postcode s * 65536 + r.source) ++ leBytes 2 r.handle ++ leBytes 2 r.detail.length

/-- Whether a session is open: an observer's once opened, a control session's once authenticated (R455). -/
def Session.isOpen (x : Session) : Bool := !x.control || x.authed

/-- The report as an event to one session that set EVENTS, at most 1,000 each second; an event over the limit still
takes its number, so that the gap tells the host (R454). -/
def eventTo (s : State) (hub : Hub) (r : Report) (x : Session) : Session × List Emit :=
  if x.isOpen && x.events then
    let n := if x.eventSecond = s.tb.sec then x.eventCount else 0
    let x' := { x with eventNum := x.eventNum + 1, eventSecond := s.tb.sec, eventCount := n + 1 }
    (x', if n < 1000 then [Emit.counter ⟨hub, 2, 0x00F0, r.code, x.id, x.eventNum, 0, s.tb.ns, s.tb.sec, qualityWord s, prefixBytes s r ++ r.detail, true⟩] else [])
  else (x, [])

/-- A report as events to every open session that set EVENTS (R454). -/
def hostEvents (s : State) (hub : Hub) (r : Report) : State :=
  let l := s.sessions.map (eventTo s hub r)
  { s with sessions := l.map (·.1), out := s.out ++ l.flatMap (·.2) }

/-- A report made: recorded and sent by the active hub, held by its part while no hub is active (R35, R454, R496). -/
def fileReport (s : State) (r : Report) : State :=
  match s.active with
  | none => { s with heldReports := s.heldReports ++ [r] }
  | some h =>
    let s1 := if r.toRec then writeRecord s h r else s
    if r.toHost then hostEvents s1 h r else s1

/-- A report of the present instant. -/
def reportNow (s : State) (code source handle : Nat) (detail : List Byte) (toHost toRec : Bool) : State :=
  fileReport s ⟨code, source, handle, detail, toHost, toRec, false, s.tb.sec, s.tb.ns, s.tb.frac / 65536, uncertain s⟩
/-- A report to the host and the recorder. (DEDUCED, log entry 12) -/
def report (s : State) (code source handle : Nat) (detail : List Byte) : State :=
  reportNow s code source handle detail true true
/-- A report from the active hub with no bundle. -/
def hubReport (s : State) (code : Nat) (detail : List Byte) : State := report s code (srcActive s) 0xFFFF detail
/-- Detail fields of R499. (DEDUCED, log entry 12) -/
def d4 (n : Nat) : List Byte := leBytes 4 n
/-- DEDUCED, log entry 12. -/
def d8 (n : Nat) : List Byte := leBytes 8 n
/-- DEDUCED, log entry 12. -/
def dName (n : List Byte) : List Byte := padTo 32 n

/-! ### Counters and sampling (R506 to R512) -/

/-- Event numbers (R507). -/
def evCell (code cell : Nat) (prov : Bool) : Nat := 0x10000000 + cell * 65536 + b2n prov * 1024 + code
def evDie (code d sub : Nat) : Nat := 0x20000000 + d * 65536 + sub * 2048 + code
def evEngine (code e sub : Nat) : Nat := 0x30000000 + e * 65536 + sub * 2048 + code
def evHub (code : Nat) (h : Hub) : Nat := 0x40000000 + hubIndex h * 65536 + code

/-- What caused a cell event: the instruction, its station and its latency in ns (R510; none where the instruction's
completion time is not an operand of the command, so that a sample of it takes a free value). -/
structure EvCtx where
  pc : Nat
  insn : Word
  latency : Option Nat
  handle : Nat
  name : List Byte
  prov : Bool
  deriving DecidableEq, Repr
/-- An event that no instruction caused (R510, R511). -/
def noCtx : EvCtx := ⟨0xFFFF, 0, some 0, 0xFFFF, [], false⟩

/-- The counter of an event. -/
def countOf (s : State) (ev : Nat) : Count := SMap.getD s.counts ev ⟨0, false⟩
/-- The counter of an event raised by n; it wraps to 0 past 48 bits, setting WRAP (R506). -/
def Count.plus (c : Count) (n : Nat) : Count := ⟨(c.value + n) % 2 ^ 48, c.wrap || decide (2 ^ 48 ≤ c.value + n)⟩

/-- A sample entered in the buffer of 4,096; one that finds it full is counted lost (R512). -/
def Sampling.push (p : Sampling) (x : Sample) : Sampling :=
  if 4096 ≤ p.buffer.length then { p with lost := min (p.lost + 1) 0xFFFF, lostBefore := true, nextSeq := (p.nextSeq + 1) % 2 ^ 32 }
  else { p with buffer := p.buffer ++ [{ x with seq := p.nextSeq, flags := x.flags + 4 * b2n p.lostBefore }], lostBefore := false,
                nextSeq := (p.nextSeq + 1) % 2 ^ 32 }

/-- Whether a slot's event number names an event: equal, or UNIT 0xFFF for every cell (R510). -/
def slotNames (slotEv ev : Nat) : Bool :=
  slotEv == ev || (slotEv / 2 ^ 28 == 1 && fieldOf slotEv 16 12 == 0xFFF && ev / 2 ^ 28 == 1 && slotEv % 65536 == ev % 65536)

/-- The sample of an event (R512): precise for a cell event (R510), skidding for another (R511). (DESIGN CHOICE, log entry 20; DESIGN CHOICE, log entry 43) -/
def sampleOf (s : State) (ev : Nat) (ctx : EvCtx) : Sample :=
  let cellEv := ev / 2 ^ 28 == 1
  let unit := fieldOf ev 16 12
  let source := match ev / 2 ^ 28 with
    | 1 => unit
    | 2 => srcDie unit
    | 3 => srcEngine unit
    | _ => 0xFFF0 + unit
  ⟨s.tb.sec, s.tb.ns, s.tb.frac / 65536, b2n (cellEv && ctx.prov) + 2 * b2n (!cellEv), ev, 0, postcode s * 65536 + source,
   if cellEv then unit else 0xFFFF, if cellEv then ctx.pc else 0xFFFF, if cellEv then ctx.insn else 0,
   if cellEv then ctx.latency.getD ((Config.freeWord s.free).toNat % 2 ^ 32) else 0, if cellEv then ctx.handle else 0xFFFF, if cellEv then ctx.name else []⟩

/-- One slot's account of `n` events on a unit, and the samples it takes. `readable` says whether the unit's counters
are readable to the session that configured the slot (R510). (DESIGN CHOICE, log entry 43) -/
def slotCount (s : State) (k : Nat) (readable : Bool) (ev : Nat) (ctx : EvCtx) (n : Nat) : State :=
  let period := fldAt s F.pctSmpCtlPeriod 0 k 0
  match s.sampling.slots[k]? with
  | none => s
  | some sl =>
    if fldAt s F.pctSmpCtlEnable 0 k 0 = 1 ∧ slotNames (fldAt s F.pctSmpEvtEvent 0 k 0) ev = true then
      let (skid, s1) := if ev / 2 ^ 28 = 1 then (0, s) else ((Config.freeWord s.free).toNat % 65, { s with free := s.free + 1 })
      let c := SMap.getD sl.counted (fieldOf ev 16 12) 0 + n
      let taken := if c < period + skid ∨ period = 0 then 0 else c / period
      let sl' := { sl with counted := SMap.setD sl.counted (fieldOf ev 16 12) (c - taken * period) 0 }
      let smp := if readable then (List.range taken).foldl (fun p _ => p.push (sampleOf s1 ev ctx)) s1.sampling else s1.sampling
      { s1 with sampling := { smp with slots := smp.slots.set k sl' },
                free := s1.free + b2n (decide (0 < taken) && readable && ctx.latency.isNone) }
    else s

/-! ### Bundles and stations -/

def slotBundle (s : State) (slot : Nat) : Option Bundle := SMap.find s.pl.slots slot
def setSlot (s : State) (slot : Nat) (b : Bundle) : State := { s with pl := { s.pl with slots := SMap.insert s.pl.slots slot b } }
def clearSlot (s : State) (slot : Nat) : State := { s with pl := { s.pl with slots := SMap.erase s.pl.slots slot } }
/-- The load handle of a slot's bundle: HANDLE[5:0] the slot, HANDLE[15:6] the reuse count (spec/03). -/
def handleOf (slot : Nat) (b : Bundle) : Nat := slot + 64 * b.reuse
/-- The bundle a handle names. -/
def byHandle (s : State) (h : Nat) : Option (Nat × Bundle) :=
  match slotBundle s (h % 64) with
  | some b => if handleOf (h % 64) b = h then some (h % 64, b) else none
  | none => none
def modBundle (s : State) (slot : Nat) (f : Bundle → Bundle) : State :=
  match slotBundle s slot with
  | some b => setSlot s slot (f b)
  | none => s
def modStation (s : State) (slot idx : Nat) (f : Station → Station) : State :=
  modBundle s slot (fun b => { b with stations := modAt b.stations idx f })
def modStream (s : State) (slot idx : Nat) (f : Stream → Stream) : State :=
  modBundle s slot (fun b => { b with streams := modAt b.streams idx f })
def modTally (s : State) (slot idx : Nat) (f : Tally → Tally) : State :=
  modBundle s slot (fun b => { b with tallies := modAt b.tallies idx f })

/-- Where a station is: bundle slot and station index. -/
structure Where where
  slot : Nat
  idx : Nat
  b : Bundle
  st : Station
  sr : StationRec
  deriving DecidableEq, Repr

/-- The station placed on a cell (R59: a cell runs at most one). -/
def stationOn (s : State) (cell : Nat) : Option Where :=
  s.pl.slots.findSome? (fun e =>
    (withIdx e.2.stations).findSome? (fun p =>
      if p.2.cell = some cell then
        match e.2.img.stations[p.1]? with
        | some sr => some ⟨e.1, p.1, e.2, p.2, sr⟩
        | none => none
      else none))

def Where.handle (w : Where) : Nat := handleOf w.slot w.b
/-- The cell a station is on; 0xFFFF where it is not placed (R76). -/
def cellNo (st : Station) : Nat := st.cell.getD 0xFFFF
def dieOf (cell : Nat) : Nat := cell / 256

/-- Whether module time lies in a grant's interval [NOT_BEFORE, NOT_AFTER), so that it is in force (R540). -/
def Grant.current (g : Grant) (sec : Nat) : Bool := decide (g.notBefore ≤ sec) && decide (sec < g.notAfter)
/-- A debug right: every right outside Field, and in Field those of a grant in force (R541). -/
def debugRight (s : State) (bit : Nat) : Bool :=
  s.sec.lc != .field || (match s.sec.grant with
    | some g => g.current s.tb.sec && bitAt g.rights bit
    | none => false)
def rightTally : Nat := 0
def rightCounters : Nat := 1
def rightStation : Nat := 2

/-- Whether a host session may read a cell's counters (R509): the cell holds no station, or its bundle has
COUNTERS_READABLE, or the life-cycle state is not Field, or a grant with COUNTERS is in force. -/
def cellReadable (s : State) (cell : Nat) : Bool :=
  match stationOn s cell with
  | none => true
  | some w => w.b.opts.countersReadable || debugRight s rightCounters

/-- Raise the counter of an event by n, with the samples it causes (R506, R510, R511). -/
def bumpEv (s : State) (ev : Nat) (ctx : EvCtx) (n : Nat) : State :=
  if n = 0 then s
  else
    let s1 := { s with counts := SMap.setD s.counts ev ((countOf s ev).plus n) ⟨0, false⟩ }
    let readable := if ev / 2 ^ 28 = 1 then cellReadable s (fieldOf ev 16 12) else true
    (List.range 8).foldl (fun s k => slotCount s k readable ev ctx n) s1

/-- A memory of a stack: die d, j 0 or 1. -/
def stackOf (s : State) (n : Nat) : Option Stack :=
  match s.dies[n / 2]? with
  | some d => d.stks[n % 2]?
  | none => none
def modStack (s : State) (n : Nat) (f : Stack → Stack) : State :=
  { s with dies := modAt s.dies (n / 2) (fun d => { d with stks := modAt d.stks (n % 2) f }) }

end Sys2Proof.Machine
end

