-- ==== Sys2Proof/Machine/Operands.lean ====
section
/-!
DEFINITION. The operands of a station instruction: the fields of its word (R148, R149), the check of fields that must be
0 and of FN codes (R150, R151, R155 to R163), the registers, predicates, handles and ends they name, and the items an
instruction reads and writes (R152).
-/
namespace Sys2Proof.Machine
open Sys2Proof

/-! ### Fields (R148, R149) -/
/-- DESIGN CHOICE, log entry 3. -/
def fOpc (w : Word) : Nat := fieldOf w.toNat 25 7
def fPG (w : Word) : Nat := fieldOf w.toNat 22 3
def fPN (w : Word) : Bool := bitAt w.toNat 21
def fRD (w : Word) : Nat := fieldOf w.toNat 16 5
def fRA (w : Word) : Nat := fieldOf w.toNat 11 5
def fRB (w : Word) : Nat := fieldOf w.toNat 6 5
def fFN (w : Word) : Nat := fieldOf w.toNat 0 6
/-- IMM of format I, unsigned: 11 bits. -/
def fImmU (w : Word) : Nat := fieldOf w.toNat 0 11
/-- IMM of format I, sign-extended. -/
def fImm (w : Word) : Int := signedOf 11 (fImmU w)
/-- IMM of format M, unsigned: 16 bits. -/
def fImm16U (w : Word) : Nat := fieldOf w.toNat 0 16
/-- IMM of format M, sign-extended. -/
def fImm16 (w : Word) : Int := signedOf 16 (fImm16U w)
/-- OFF of format B, sign-extended: 21 bits. -/
def fOff (w : Word) : Int := signedOf 21 (fieldOf w.toNat 0 21)

/-! ### Validity (R150) -/

/-- A format code a type suffix names (R151). -/
def isFmt (n : Nat) : Bool := (fmtInfo n).isSome
/-- Selectors THDR.W may write (R158). -/
def thdrWritable (sel : Nat) : Bool := [2, 3, 4, 6, 7, 9, 10, 11].contains sel

/-- Whether a word's opcode is listed, its fields that must be 0 are 0, and its FN is listed (R149, R150, R164). (DESIGN CHOICE, log entry 3) -/
def validWord (w : Word) : Bool :=
  let rd := fRD w
  let ra := fRA w
  let rb := fRB w
  let fn := fFN w
  let h (x : Nat) : Bool := decide (x < 16)
  let p (x : Nat) : Bool := decide (x < 8)
  let z (x : Nat) : Bool := x == 0
  match fOpc w with
  | 0x01 => decide (fn ≤ 0x0E)
  | 0x02 => true
  | 0x03 => true
  | 0x04 => true
  | 0x05 => true
  | 0x06 => z rb
  | 0x07 => z rb
  | 0x08 => z rb
  | 0x09 => true
  | 0x0A => true
  | 0x0B => p rd && decide (fn ≤ 5)
  | 0x0C => true
  | 0x0D => p rd && p ra && p rb && decide (fn ≤ 3)
  | 0x10 => true
  | 0x11 => true
  | 0x12 => true
  | 0x13 => true
  | 0x14 => true
  | 0x15 => true
  | 0x18 => true
  | 0x19 => true
  | 0x1A => z rd && z rb && z fn
  | 0x1F => z rd && z ra && z rb && z fn
  | 0x20 => h rd && (z rb || decide (16 ≤ rb)) && z fn
  | 0x21 => h ra && decide (fImmU w ≤ 12)
  | 0x22 => h rd && thdrWritable (fImmU w)
  | 0x23 => h rd && h ra
  | 0x24 => h rd
  | 0x25 => h rd && h ra && isFmt fn
  | 0x28 => h rd && h ra && z rb && z fn
  | 0x29 => h rd && h ra && z rb && z fn
  | 0x2A => h rd && h ra && p rb && z fn
  | 0x2B => h rd
  | 0x2C => true
  | 0x30 => h rd && h rb && (isFmt fn || fn == 0x3F)
  | 0x31 => h rd && h rb && (isFmt fn || fn == 0x3F)
  | 0x32 => h rd && h rb && z fn
  | 0x33 => h rd && h rb && z fn
  | 0x34 => h rd && h rb && z fn
  | 0x35 => z rd && z ra && z rb && z fn
  | 0x38 => true
  | 0x39 => true
  | 0x3A => true
  | 0x3B => true
  | 0x3C => h rd && z fn
  | 0x3D => h rd && z fn
  | 0x40 => z rd && z ra && z rb && z fn
  | 0x41 => decide (fn ≤ 4)
  | 0x42 => true
  | 0x43 => true
  | 0x50 => z rd && z ra && z rb && z fn
  | 0x51 => z rd && h ra && h rb && (mmaFmt fn).isSome
  | 0x52 => h rd && isFmt fn
  | 0x58 => h rd && h ra && (match vopInfo fn with | some o => if o.readsB then h rb else z rb | none => false)
  | 0x59 => h rd && h ra && (match vopInfo fn with | some o => if o.readsB then h rb else z rb | none => false)
  | _ => false

/-- Whether an opcode is listed in R155 and R157 to R163 (R164). -/
def listedOpcode (o : Nat) : Bool :=
  [0x01, 0x02, 0x03, 0x04, 0x05, 0x06, 0x07, 0x08, 0x09, 0x0A, 0x0B, 0x0C, 0x0D, 0x10, 0x11, 0x12, 0x13, 0x14, 0x15,
   0x18, 0x19, 0x1A, 0x1F, 0x20, 0x21, 0x22, 0x23, 0x24, 0x25, 0x28, 0x29, 0x2A, 0x2B, 0x2C, 0x30, 0x31, 0x32, 0x33,
   0x34, 0x35, 0x38, 0x39, 0x3A, 0x3B, 0x3C, 0x3D, 0x40, 0x41, 0x42, 0x43, 0x50, 0x51, 0x52, 0x58, 0x59].contains o

/-! ### Registers of a station (R141) -/

/-- g0 reads 0. -/
def getG (st : Station) (n : Nat) : DWord := if n = 0 then 0#64 else SMap.getD st.g n 0#64
/-- Writes to g0 are discarded. -/
def setG (st : Station) (n : Nat) (v : DWord) : Station := if n = 0 then st else { st with g := SMap.setD st.g n v 0#64 }
/-- p0 reads 1. -/
def getP (st : Station) (n : Nat) : Bool := if n = 0 then true else st.p.getLsbD n
/-- Writes to p0 are discarded. -/
def setP (st : Station) (n : Nat) (v : Bool) : Station :=
  if n = 0 then st else { st with p := BitVec.ofNat 8 (setField st.p.toNat n 1 (b2n v)) }
/-- A tile handle; none while it is unset. -/
def getT (st : Station) (n : Nat) : Option Handle := SMap.find st.t n
/-- The control word of an output end (R147). -/
def endCtl (st : Station) (n : Nat) : Word := SMap.getD st.endCtl n 0#32
/-- The scratch words that hold a station's end control words, four to a word (R237). (DESIGN CHOICE, log entry 14) -/
def ctlMem (st : Station) : Mem := { (Mem.wiped.putBytes 0 ((List.range 16).flatMap (fun n => leBytes 4 (endCtl st n).toNat))) with chk := st.endChk }
/-- Those words replaced. -/
def setCtlMem (st : Station) (m : Mem) : Station :=
  { st with endCtl := (List.range 16).foldl (fun c n => SMap.setD c n (BitVec.ofNat 32 (leNat (m.read (4 * n) 4))) 0#32) [], endChk := m.chk }
/-- The rounding mode of a handle: its rounding end's, nearest-even where it has none (R125, R157). -/
def handleMode (st : Station) (re : Option Nat) : RMode :=
  match re with
  | some e => if bitAt (endCtl st e).toNat 0 then .sr else .rne
  | none => .rne
/-- Whether the guard lets the instruction execute (R148). -/
def guardTrue (st : Station) (w : Word) : Bool := getP st (fPG w) != fPN w

/-! ### Ends and regions (R145, R146) -/

/-- Input ends of a station: stream and consumer entry, in bundle order. -/
def inputEnds (img : BundleImg) (idx : Nat) : List (Nat × Nat) :=
  (withIdx img.streams).flatMap (fun p =>
    (withIdx p.2.cons).filterMap (fun c => if c.2.station = idx then some (p.1, c.1) else none))
/-- Output ends of a station: streams whose PRODUCER it is, in order. -/
def outputEnds (img : BundleImg) (idx : Nat) : List Nat :=
  (withIdx img.streams).filterMap (fun p => if p.2.producer = idx then some p.1 else none)
/-- Regions of a station: REGION records whose OWNER it is, in order. -/
def stationRegions (img : BundleImg) (idx : Nat) : List Nat :=
  (withIdx img.regions).filterMap (fun p => if p.2.owner = idx then some p.1 else none)

/-! ### Items read and written (R152) -/

/-- The bytes of a handle's slot, none while it is unset. -/
def slotItem (st : Station) (n : Nat) (len : Nat) : List Item :=
  match getT st n with
  | some h => [.slot h.addr len]
  | none => []

/-- The descriptor bytes of a GATHER or SCATTER and, for KIND 1, its offset table (R246). -/
def descItems (st : Station) (a : Nat) : List Item :=
  let d := st.scratch.read a 64
  .bytes a 64 :: (if fieldLE d 0 1 = 1 then [.bytes (fieldLE d 28 4) (4 * fieldLE d 24 4)] else [])

/-- What a vector instruction reads (R186, R187): ta, tb and td where the operation reads them, and td's header. -/
def vectorReads (st : Station) (w : Word) : List Item :=
  let o := (vopInfo (fFN w)).getD ⟨.a, false, false⟩
  [Item.handle (fRA w), .handle (fRD w)] ++ (if o.readsB then .handle (fRB w) :: slotItem st (fRB w) slotBytes else []) ++
  slotItem st (fRA w) slotBytes ++ slotItem st (fRD w) (if o.readsD then slotBytes else 32)

/-- Items an instruction reads and items it writes (R152): general registers, predicates, handles, slot bytes and the
accumulator; a guard is read as well. -/
def footprint (st : Station) (w : Word) : List Item × List Item :=
  let rd := fRD w
  let ra := fRA w
  let rb := fRB w
  let g := [Item.pred (fPG w)]
  match fOpc w with
  | 0x01 => (g ++ [.reg ra, .reg rb], [.reg rd])
  | 0x02 => (g ++ [.reg ra], [.reg rd])
  | 0x03 => (g ++ [.reg ra], [.reg rd])
  | 0x04 => (g ++ [.reg ra], [.reg rd])
  | 0x05 => (g ++ [.reg ra], [.reg rd])
  | 0x06 => (g ++ [.reg ra], [.reg rd])
  | 0x07 => (g ++ [.reg ra], [.reg rd])
  | 0x08 => (g ++ [.reg ra], [.reg rd])
  | 0x09 => (g, [.reg rd])
  | 0x0A => (g ++ [.reg rd], [.reg rd])
  | 0x0B => (g ++ [.reg ra, .reg rb], [.pred rd])
  | 0x0C => (g ++ [.reg ra], [.pred (rd % 8)])
  | 0x0D => (g ++ [.pred ra, .pred rb], [.pred rd])
  | 0x10 => (g ++ [.reg ra], [.reg rd])
  | 0x11 => (g ++ [.reg ra], [.reg rd])
  | 0x12 => (g ++ [.reg ra], [.reg rd])
  | 0x13 => (g ++ [.reg ra, .reg rd], [])
  | 0x14 => (g ++ [.reg ra, .reg rd], [])
  | 0x15 => (g ++ [.reg ra, .reg rd], [])
  | 0x18 => (g, [])
  | 0x19 => (g, [.reg 31])
  | 0x1A => (g ++ [.reg ra], [])
  | 0x20 => (g ++ [.reg ra], [.handle rd])
  | 0x21 => (g ++ [.handle ra] ++ slotItem st ra 32, [.reg rd])
  | 0x22 => (g ++ [.handle rd, .reg ra], slotItem st rd 32)
  | 0x23 => (g ++ [.handle rd, .handle ra] ++ slotItem st ra slotBytes, slotItem st rd slotBytes)
  | 0x24 => (g ++ [.handle rd], slotItem st rd slotBytes)
  | 0x25 => (g ++ [.handle rd, .handle ra] ++ slotItem st ra slotBytes ++ (if isSbFmt (fFN w) then slotItem st rd 32 else []), slotItem st rd slotBytes)
  | 0x28 => (g ++ [.handle rd], slotItem st rd slotBytes)
  | 0x29 => (g ++ [.handle ra] ++ slotItem st ra slotBytes, [])
  | 0x2A => (g ++ [.handle rd], .pred rb :: slotItem st rd slotBytes)
  | 0x2B => (g ++ [.reg ra], [])
  | 0x2C => (g, [.reg rd])
  | 0x30 => (g ++ [.handle rd, .reg ra], slotItem st rd slotBytes)
  | 0x31 => (g ++ [.handle rd, .reg ra] ++ slotItem st rd slotBytes, [])
  | 0x32 => (g ++ [.handle rd, .reg ra] ++ descItems st (getG st ra).toNat, slotItem st rd slotBytes)
  | 0x33 => (g ++ [.handle rd, .reg ra] ++ descItems st (getG st ra).toNat ++ slotItem st rd slotBytes, [])
  | 0x34 => (g ++ [.handle rd, .reg ra] ++ slotItem st rd slotBytes, [])
  | 0x38 => (g ++ [.reg ra, .reg rb], [.reg rd])
  | 0x39 => (g ++ [.reg ra, .reg rb], [.reg rd])
  | 0x3A => (g ++ [.reg ra, .reg rb], [.reg rd])
  | 0x3B => (g ++ [.reg ra, .reg rb], [.reg rd])
  | 0x3C => (g ++ [.reg ra, .reg rb], [])
  | 0x3D => (g ++ [.reg ra, .reg rb], [])
  | 0x41 => (g, [.reg rd])
  | 0x42 => (g ++ [.reg ra], [.reg rd])
  | 0x43 => (g ++ [.reg ra], [])
  | 0x50 => (g, [.acc])
  | 0x51 => (g ++ [.acc, .handle ra, .handle rb] ++ slotItem st ra slotBytes ++ slotItem st rb slotBytes, [.acc])
  | 0x52 => (g ++ [.acc, .handle rd] ++ slotItem st rd 32, slotItem st rd slotBytes)
  | 0x58 => (g ++ vectorReads st w, slotItem st rd slotBytes)
  | 0x59 => (g ++ vectorReads st w, slotItem st rd slotBytes)
  | _ => (g, [])

/-- The scratch bytes that a load or a store touches: bytes of its size at ga + size × imm (R155). -/
def accessAddr (st : Station) (w : Word) (size : Nat) : Int := ((getG st (fRA w)).toNat : Int) + size * fImm w
/-- Bytes of a load or store by its opcode. -/
def accessSize (opc : Nat) : Nat :=
  match opc with
  | 0x10 => 8
  | 0x11 => 4
  | 0x12 => 1
  | 0x13 => 8
  | 0x14 => 4
  | 0x15 => 1
  | _ => 0
/-- The footprint with the scratch bytes of a load or store. -/
def fullFootprint (st : Station) (w : Word) : List Item × List Item :=
  let fp := footprint st w
  let sz := accessSize (fOpc w)
  if sz = 0 then fp
  else
    let it := Item.bytes (accessAddr st w sz).toNat sz
    if fOpc w ≤ 0x12 then (fp.1 ++ [it], fp.2) else (fp.1, fp.2 ++ [it])

/-- The bytes of data scratch that an item is. -/
def Item.span : Item → Option (Nat × Nat)
  | .bytes a n => some (a, n)
  | .slot a n => some (a, n)
  | _ => none
/-- Whether two items share a part. -/
def Item.meets (x y : Item) : Bool :=
  match x, y with
  | .reg a, .reg b => a == b && a != 0
  | .pred a, .pred b => a == b && a != 0
  | .handle a, .handle b => a == b
  | .acc, .acc => true
  | _, _ => match x.span, y.span with
    | some (a, n), some (b, m) => decide (a < b + m) && decide (b < a + n)
    | _, _ => false
def anyMeets (xs ys : List Item) : Bool := xs.any (fun x => ys.any (fun y => x.meets y))

/-- Items that instructions still running read and write: stack and block instructions, and the gd of an X-class tally
instruction (R152, R161). -/
def busyReads (st : Station) : List Item := st.stackOps.flatMap (·.reads) ++ st.blockOps.flatMap (·.reads)
def busyWrites (st : Station) : List Item :=
  st.stackOps.flatMap (·.writes) ++ st.blockOps.flatMap (·.writes) ++ st.tallyOps.map (fun t => .reg t.rd)
/-- Whether an instruction must wait to issue (R152). -/
def mustWait (st : Station) (w : Word) : Bool :=
  let fp := fullFootprint st w
  anyMeets fp.1 (busyWrites st) || anyMeets fp.2 (busyWrites st) || anyMeets fp.2 (busyReads st)

end Sys2Proof.Machine
end

