-- ==== Sys2Proof/Machine/Flags.lean ====
section
/-!
DEFINITION. Flag computations: the comparisons and predicate logic of R155, the ALU operations of R156, the RW1C event
flags (R18, R20) and the FAULT_N pin (R515).
-/
namespace Sys2Proof.Machine
open Sys2Proof

/-- The comparison FN of CMP (R155): 0 EQ, 1 NE, 2 LT, 3 GE, 4 LTU, 5 GEU. -/
def cmpHolds (fn : Nat) (a b : DWord) : Bool :=
  match fn with
  | 0 => a == b
  | 1 => a != b
  | 2 => a.slt b
  | 3 => !a.slt b
  | 4 => a.ult b
  | _ => !a.ult b

/-- The predicate operation FN of PLOG (R155): 0 AND, 1 OR, 2 XOR, 3 ANDN. -/
def plogOp (fn : Nat) (a b : Bool) : Bool :=
  match fn with
  | 0 => a && b
  | 1 => a || b
  | 2 => a != b
  | _ => a && !b

/-- The operation FN of ALU (R156); shift amounts are gb[5:0], arithmetic wraps modulo 2^64. -/
def aluOp (fn : Nat) (a b : DWord) : DWord :=
  let sh := b.toNat % 64
  match fn with
  | 0x00 => a + b
  | 0x01 => a - b
  | 0x02 => a &&& b
  | 0x03 => a ||| b
  | 0x04 => a ^^^ b
  | 0x05 => a <<< sh
  | 0x06 => a >>> sh
  | 0x07 => a.sshiftRight sh
  | 0x08 => a * b
  | 0x09 => BitVec.ofInt 64 ((a.toInt * b.toInt) / (2 : Int) ^ 64)
  | 0x0A => BitVec.ofNat 64 (a.toNat * b.toNat / 2 ^ 64)
  | 0x0B => if a.slt b then a else b
  | 0x0C => if a.slt b then b else a
  | 0x0D => if a.ult b then a else b
  | _ => if a.ult b then b else a

/-- Module time in units of 2^−32 ns. -/
def TimeBase.total (t : TimeBase) : Nat := (t.sec * 1000000000 + t.ns) * 2 ^ 32 + t.frac
def TimeBase.setTotal (t : TimeBase) (x : Nat) : TimeBase :=
  { t with sec := x / 2 ^ 32 / 1000000000 % 2 ^ 64, ns := x / 2 ^ 32 % 1000000000, frac := x % 2 ^ 32 }

/-- An RW1C event bit set (R18, R20: a set wins over a clear, since each command is whole and they come in order). -/
def setEvent (s : State) (f : Fld) : State := setFld s f 1
def setEventAt (s : State) (f : Fld) (blk i j : Nat) : State := setFldAt s f blk i j 1
/-- FAULT_N is asserted while any bit of RED_FAULT is 1 (R515). -/
def faultAsserted (s : State) : Bool := fieldOf (regWord s ⟨.redFault, 0, 0, 0⟩).toNat 0 4 != 0

end Sys2Proof.Machine
end

