-- ==== Sys2Proof/Machine/Fab.lean ====
section
/-!
DEFINITION. Routing and sending on the fabric (R358, R359, R361, R362, R364 to R366, R369, R374, R375, R382), as other
families use it.
-/
namespace Sys2Proof.Machine
open Sys2Proof

/-! ### Ports (R358, R39) -/

/-- Roles of ports: 0 switched, 1 circuit, 2 storage; every port of an FM-2 is a switched port. -/
def portRole (d : Ident) (p : Nat) : Nat := if d.fm2 then 0 else if p < 16 then 0 else if p < 28 then 1 else 2
/-- Ports of the part. -/
def portCount (d : Ident) : Nat := if d.fm2 then 8 else 32
/-- Whether a role carries a channel (R359), two-network mode applied. -/
def roleCarries (role vc : Nat) (twoNet : Bool) : Bool :=
  match vc with
  | 0 => role == 0 || (role == 1 && !twoNet)
  | 1 => role == 1 || (role == 0 && !twoNet)
  | 2 => true
  | _ => role == 0 || role == 2
/-- DESIGN CHOICE, log entry 50. -/
def twoNet (s : State) : Bool := fld s F.fabCtlTwoNet == 1
/-- Whether a link to a far end of its kind carries a channel (R382). -/
def linkCarries (s : State) (key : Nat) (l : Link) (vc : Nat) : Bool :=
  let role := portRole s.ident (key / 16)
  roleCarries role vc (twoNet s) &&
  (!(twoNet s && l.farKind == 3) || vc == 2 || (role == 0 && vc == 0) || (role == 1 && vc == 1))

/-! ### Links and routes (R373, R375) -/

def linkOf (s : State) (key : Nat) : Option Link := SMap.find s.fab.links key
def modLink (s : State) (key : Nat) (f : Link → Link) : State :=
  match linkOf s key with
  | some l => { s with fab := { s.fab with links := SMap.insert s.fab.links key (f l) } }
  | none => s
/-- The links of a port with their keys. -/
def portLinks (s : State) (p : Nat) : List (Nat × Link) := s.fab.links.filter (fun e => e.1 / 16 == p)
/-- A link that an option can use: UP, neither quiesced nor changing, carrying the channel. -/
def usable (s : State) (vc : Nat) (e : Nat × Link) : Bool :=
  e.2.st == .up && !e.2.quiesced && !e.2.changing && linkCarries s e.1 e.2 vc
/-- The link of a port that an option uses (R375): the one whose far end is P, else the one that holds the port's
lowest-numbered channel. -/
def portLink (s : State) (p dest vc : Nat) : Option Nat :=
  let ls := (portLinks s p).filter (fun e => !e.2.chans.isEmpty)
  let low (a : Option (Nat × Link)) (e : Nat × Link) : Option (Nat × Link) := match a with
    | some b => if e.2.chans.headD 9 < b.2.chans.headD 9 then some e else some b
    | none => some e
  let pick := match ls.find? (fun e => e.2.farPostcode == dest) with
    | some e => some e
    | none => ls.foldl low none
  match pick with
  | some e => if usable s vc e then some e.1 else none
  | none => none
/-- The options of an entry in order, each with its place (R374). -/
def options (entry : Nat) : List (Nat × Nat) :=
  (List.range 4).filterMap (fun i => if bitAt entry (6 * i + 5) then some (i, fieldOf entry (6 * i) 5) else none)
/-- The first usable option for a destination on a channel, with its place and link; `notPort` the port of arrival that
forwarding never uses, `skip` an option's place to pass over (R375, R389). -/
def route (s : State) (dest vc : Nat) (notPort : Option Nat) (skip : Option Nat) : Option (Nat × Nat) :=
  (options (SMap.getD s.fab.active (4 * dest + vc) 0)).findSome? (fun o =>
    if notPort = some o.2 ∨ skip = some o.1 then none
    else match portLink s o.2 dest vc with
      | some k => some (o.1, k)
      | none => none)
/-- Whether any valid option is listed for a destination (R278). -/
def hasEntry (s : State) (dest vc : Nat) : Bool := !(options (SMap.getD s.fab.active (4 * dest + vc) 0)).isEmpty
/-- Every module but this one waits for the postcode (R369). -/
def postcodeValid (s : State) : Bool := fld s F.fabPostcodeValid == 1

/-! ### Flits (R361, R362) -/

/-- The engine and local port of a port. -/
def portEngine (p : Nat) : Nat := p / 8
def portEvent (s : State) (p code n : Nat) : State := bumpEv s (evEngine code (p / 8) (p % 8)) noCtx n

/-- The coded words of a tile in slot order with the scale block its format has (R40, R362). -/
def tileWords (t : Tile) : List (List Byte × BitVec 16) :=
  let bytes := t.slot
  let n := 258 + (match fmtInfo t.hdr.format.toNat with
    | some fi => if fi.kind.isMx then ceilDiv (ceilDiv (shapeCount t.hdr.shape.toNat) 32) 16 else 0
    | none => 0)
  (List.range (min n 266)).map (fun i => (slice bytes (16 * i) 16, SMap.getD t.chk i 0#16))
/-- The tile that a run of words holds. -/
def tileOfWords (ws : List (List Byte × BitVec 16)) : Tile :=
  Tile.ofSlot (padTo slotBytes (ws.flatMap (fun w => w.1)))
    ((withIdx ws).filterMap (fun p => if p.2.2 = 0#16 then none else some (p.1, p.2.2)))
/-- Flits of a tile before they take a SEQ (R362). -/
def tileFlits (vc dest : Nat) (t : Tile) : List Flit :=
  let groups := chunks 13 (ceilDiv (tileWords t).length 13) (tileWords t)
  (withIdx groups).map (fun p => ⟨vc, p.1 == 0, p.1 + 1 == groups.length, dest, 0, 0, [], .tile p.2⟩)
/-- The one flit of a message. -/
def msgFlit (vc dest : Nat) (b : FlitBody) : Flit := ⟨vc, true, true, dest, 0, 0, [], b⟩

/-- TYPE of a flit: a request of R381 goes as a LINK flit does. -/
def flitType : FlitBody → Nat
  | .idle => 0
  | .tile _ => 1
  | .tallyOp .. => 2
  | .tallyAnswer .. => 2
  | .tallyProbe .. => 2
  | .tallyHeld .. => 2
  | .tallyLeave .. => 2
  | .loopRequest _ => 3
  | .link _ => 3
  | .stepAck .. => 4
  | .collAbort _ => 4
/-- The coded words of a flit, 16 data bytes and the check field each (R228). -/
def flitWords : FlitBody → List Byte
  | .idle => []
  | .tile ws => ws.flatMap (fun w => w.1 ++ leBytes 2 (checkField w.1 ^^^ w.2).toNat)
  | b => (Config.messageWords b).take 234
/-- The first 252 bytes of a flit. -/
def flitHead (f : Flit) : List Byte :=
  let ws := flitWords f.body
  leBytes 1 (flitType f.body) ++ leBytes 1 (ceilDiv ws.length 18 + 16 * f.vc + 64 * b2n f.first + 128 * b2n f.last) ++
  leBytes 2 f.dest ++ leBytes 4 f.seq ++ leBytes 4 f.ack ++
  (List.range 4).flatMap (fun v => leBytes 1 ((f.credit[v]?).getD 0)) ++ padTo 234 ws ++ [0, 0]
/-- The 256 bytes of a flit (R361). (DESIGN CHOICE, log entry 31: WORDS of an IDLE flit reads 0) -/
def flitImage (f : Flit) : List Byte := flitHead f ++ leBytes 4 (crc32c (flitHead f)).toNat

/-! ### Sending (R364 to R366) -/

/-- Flits of each channel's receive buffer (R365). -/
def vcBuffer (vc : Nat) : Nat := match vc with | 0 => 384 | 1 => 384 | 2 => 64 | _ => 192
/-- Flits a replay buffer holds. -/
def replayFlits : Nat := 4096

/-- Whether a channel has a flit and a credit; a quiesced or changing link starts no tile (R378, R379). -/
def ready (l : Link) (vc : Nat) : Bool :=
  decide (0 < (l.credits[vc]?).getD 0) &&
  (match (l.txq[vc]?).getD [] with
    | [] => false
    | q :: _ => !(l.quiesced || l.changing) || vc == 2 || !q.flit.first)
/-- The channel the next flit is taken from (R366): a LINK flit has none and goes by VC2. Between VC0 and VC3 the weights
count tiles: VC0 first in each round. -/
def nextVc (l : Link) (w0 w3 : Nat) : Option Nat :=
  if ready l 2 then some 2
  else if ready l 1 then some 1
  else
    let prefer := if l.round % (w0 + w3) < w0 then 0 else 3
    if ready l prefer then some prefer
    else if ready l (3 - prefer) then some (3 - prefer)
    else none

/-- The credits that the next flit returns, at most 255 of a channel (R361), and those left. -/
def giveCredits (l : Link) : List Nat := l.freed.map (min 255)
def keepCredits (l : Link) : List Nat := l.freed.map (· - 255)
/-- The ACK that a link's flits carry. -/
def linkAck (l : Link) : Nat := (l.rxNext + (2 ^ 32 - 1)) % 2 ^ 32
/-- The lane that a link's next flit goes to: flit i to the (i modulo n)-th lane in service in order of channel, λS standing for
the lane that it covers (R363). (DESIGN CHOICE, log entry 31: i counts every flit sent on the link) -/
def flitLane (l : Link) : Nat :=
  match l.lanes[l.sent % max 1 l.lanes.length]? with
  | some c => if l.spare = some c then 8 else c
  | none => 8
/-- A flit leaves on its lane. -/
def emitFlit (s : State) (key : Nat) (f : Flit) : State :=
  match linkOf s key with
  | none => s
  | some l => emit (modLink s key (fun l => { l with sent := l.sent + 1 })) (.flit key (flitLane l) f)
/-- The next flit sent: it takes the next SEQ, carries the ACK and the credits freed, and is held for replay. -/
def sendOne (s : State) (key : Nat) (l : Link) (vc : Nat) : State :=
  match (l.txq[vc]?).getD [] with
  | [] => s
  | q :: rest =>
    let g := { q.flit with seq := l.txNext, ack := linkAck l, credit := giveCredits l }
    let tileEnd := g.last && (vc == 0 || vc == 3)
    emitFlit (modLink s key (fun l => { l with
      txq := l.txq.set vc rest, txNext := (l.txNext + 1) % 2 ^ 32, freed := keepCredits l, replay := l.replay ++ [g],
      credits := modAt l.credits vc (· - 1), round := l.round + b2n tileEnd })) key g

/-- Flits sent while the link is UP, the replay buffer has room and a channel is ready. -/
def pump : Nat → State → Nat → State
  | 0, s, _ => s
  | fuel + 1, s, key =>
    match linkOf s key with
    | none => s
    | some l =>
      if l.st ≠ .up ∨ replayFlits ≤ l.replay.length then s
      else match nextVc l (fld s F.fabCtlWeightVc0) (fld s F.fabCtlWeightVc3) with
        | none => s
        | some vc => pump fuel (sendOne s key l vc) key

/-- One channel's wait for credits (R318): it begins when a flit finds none, and is counted when credits come. -/
def creditWaitOne (key : Nat) (s : State) (vc : Nat) : State :=
  match linkOf s key with
  | none => s
  | some l =>
    let waits := !((l.txq[vc]?).getD []).isEmpty && (l.credits[vc]?).getD 0 == 0 && l.st == .up
    match waits, SMap.find l.creditWait vc with
    | true, none => modLink s key (fun l => { l with creditWait := SMap.insert l.creditWait vc (now s) })
    | false, some t =>
      bumpEv (modLink s key (fun l => { l with creditWait := SMap.erase l.creditWait vc }))
        (evEngine Ev.portCreditWait (key / 128) (4 * (key / 16 % 8) + vc)) noCtx (now s - t)
    | _, _ => s
/-- Flits sent as far as credits allow. -/
def pumpLink (s : State) (key : Nat) : State :=
  match linkOf s key with
  | some l => (List.range 4).foldl (creditWaitOne key) (pump ((l.txq.map List.length).foldl (· + ·) 0) s key)
  | none => s
/-- Flits queued on a link's channel and sent as far as credits allow; `via` the port on which they arrived. -/
def queueFrom (via : Option Nat) (s : State) (key vc : Nat) (fs : List Flit) : State :=
  pumpLink (modLink s key (fun l => { l with txq := modAt l.txq vc (· ++ fs.map (fun f => ⟨f, via⟩)) })) key
/-- Flits of the module's own queued. -/
def queueFlits (s : State) (key vc : Nat) (fs : List Flit) : State := queueFrom none s key vc fs

/-- The next option is not PRIMARY: counted at its port (R393). -/
def countAlt (s : State) (o : Nat × Nat) (tiles : Nat) : State := if o.1 = 0 then s else portEvent s (o.2 / 16) Ev.routeAlt tiles

/-- A message to another module over the first usable option; while there is none, or no postcode is set, it waits (R369, R375),
and so do those behind it for the same module on the same channel (R270, R277). One for this module is delivered within it:
its own row carries its effect. `via` the port on which it arrived. (DESIGN CHOICE, log entry 31) -/
def sendVia (via : Option Nat) (s : State) (dest vc : Nat) (b : FlitBody) : State :=
  if postcodeValid s && dest == postcode s then s
  else if s.fab.waiting.any (fun m => m.dest == dest && m.vc == vc) then
    { s with fab := { s.fab with waiting := s.fab.waiting ++ [⟨dest, vc, via, b⟩] } }
  else match if postcodeValid s then route s dest vc via none else none with
    | some o => queueFrom via s o.2 vc [msgFlit vc dest b]
    | none => { s with fab := { s.fab with waiting := s.fab.waiting ++ [⟨dest, vc, via, b⟩] } }
def sendMsg (s : State) (dest vc : Nat) (b : FlitBody) : State := sendVia none s dest vc b
/-- Messages that waited are tried again. -/
def flushWaiting (s : State) : State :=
  s.fab.waiting.foldl (fun s m => sendVia m.via s m.dest m.vc m.body) { s with fab := { s.fab with waiting := [] } }
/-- A LINK flit on a link (R361: destination 0xFFFF). -/
def sendLink (s : State) (key : Nat) (m : LinkMsg) : State := queueFlits s key 2 [msgFlit 2 0xFFFF (.link m)]

end Sys2Proof.Machine
end

