-- ==== Sys2Proof/Machine/Pace.lean ====
section
/-!
DEFINITION. Operations of spec/10 that other families use: power domains and their settings (R288 to R295, R305), frames
and their completion (R297 to R302), and the governor's requests (R303, R304, R306).
-/
namespace Sys2Proof.Machine
open Sys2Proof

/-! ### Domains (R292, R293) -/

/-- The quadrant domain of a cell. -/
def quadOf (cell : Nat) : Nat := 8 * (cell / 256) + 2 * (cell % 256 / 128) + cell % 16 / 8
/-- The mesh domain of a die. -/
def meshOf (d : Nat) : Nat := 8 * d + 4
/-- A governed domain: a cell quadrant or a mesh. -/
def governed (n : Nat) : Bool := decide (n < 64) && decide (n % 8 ≤ 4)
/-- The domains of the part (R292). -/
def domainExists (d : Ident) (n : Nat) : Bool :=
  if n < 64 then decide (n / 8 < d.dies) else if n < 72 then decide ((n - 64) / 2 < d.engines) else decide (n < 80)
/-- Set points of the fixed domains in mV. (DESIGN CHOICE, log entry 28) -/
def fixedMv (n : Nat) : Nat :=
  if n < 64 then (if n % 8 = 7 then 850 else 1100)
  else if n < 72 then (if n % 2 = 0 then 900 else 2500)
  else if n = 78 then 1800 else 850
/-- The die, engine or hub that holds a domain; none for domains 78 and 79 (R314). -/
def partOf (n : Nat) : Option Part :=
  if n < 64 then some (.die (n / 8)) else if n < 72 then some (.engine ((n - 64) / 2))
  else if n < 78 then some (.hub ((n - 72) / 3)) else none
/-- Whether a part is shut (R314). -/
def isShut (s : State) (p : Part) : Bool := s.pace.shut.contains p

/-- The governed domains that hold a station of a bundle: the quadrants of its cells and the meshes of their dies. -/
def bundleDomains (b : Bundle) : List Nat :=
  (b.stations.flatMap (fun st => match st.cell with
    | some c => [quadOf c, meshOf (dieOf c)]
    | none => [])).eraseDups

/-- Whether a bundle's stations stand in a domain. -/
def inDomain (b : Bundle) (n : Nat) : Bool := (bundleDomains b).contains n
/-- The quadrants that are on: those of placed stations, and every one while the wipes of a start run, which end with BOOT_DONE (R295,
R523). The wipe of a load or an UNLOAD is over with the command that makes it. (DESIGN CHOICE, log entry 59) -/
def quadOn (s : State) (n : Nat) : Bool :=
  fld s F.secStatBootDone == 0 || s.pl.slots.any (fun e => e.2.stations.any (fun st => match st.cell with | some c => quadOf c == n | none => false))

/-! ### Curves (R288 to R290, R303) -/

/-- The pace curves in Mbeat/s at 550, 600 … 900 mV for 25, 60 and 95 °C (R288). -/
def paceTable : List (Nat × Nat × Nat) :=
  [(740, 800, 840), (890, 950, 970), (1050, 1100, 1100), (1220, 1250, 1220), (1430, 1400, 1330), (1580, 1530, 1450),
   (1740, 1660, 1570), (1890, 1800, 1690)]
/-- Linear interpolation of y at x between (x0, y0) and (x1, y1), in Mbeat/s scaled by 1,000 (R289). -/
def lerp (x0 x1 x : Int) (y0 y1 : Int) : Int := y0 + (y1 - y0) * (x - x0) / (x1 - x0)
/-- The guaranteed rate in kbeat/s at a voltage in mV and a temperature in quarter °C, for a shift in 0.01 % (R288 to
R290); beyond 25 °C to 95 °C, where no rate is guaranteed, the nearest end of the range stands in for it. -/
def paceRate (mv : Nat) (quarterC : Int) (shift : Nat) : Nat :=
  let v := clampNat 550 900 mv
  let i := min ((v - 550) / 50) 6
  let a := (paceTable[i]?).getD (0, 0, 0)
  let b := (paceTable[i + 1]?).getD (0, 0, 0)
  let at_ (f : Nat × Nat × Nat → Nat) : Int := lerp (550 + 50 * i) (600 + 50 * i) v (1000 * f a) (1000 * f b)
  let t : Int := if quarterC < 100 then 100 else if 380 < quarterC then 380 else quarterC
  let r := if t ≤ 240 then lerp 100 240 t (at_ (·.1)) (at_ (·.2.1)) else lerp 240 380 t (at_ (·.2.1)) (at_ (·.2.2))
  (r * 10000 / (10000 + shift)).toNat

/-- Junction temperature of a domain in quarter °C (R312). -/
def domTemp (s : State) (n : Nat) : Int := signedOf 12 (fldAt s F.domTempTemp 0 n 0)
/-- A measured curve at a voltage, in kbeat/s: interpolated between the nearest points on both sides; beyond the first and the last
point that point's rate stands. (DESIGN CHOICE, log entry 28) -/
def curveAt (pts : SMap Nat) (first : Nat × Nat) (mv : Nat) : Nat :=
  let lo := ((pts.reverse.find? (fun p => decide (p.1 ≤ mv)))).getD first
  let hi := ((pts.find? (fun p => decide (mv ≤ p.1)))).getD lo
  if hi.1 ≤ lo.1 then 1000 * lo.2 else (lerp lo.1 hi.1 mv (1000 * lo.2) (1000 * hi.2)).toNat
/-- The rate of a domain's measured curve at a voltage, in kbeat/s (R303, R315): interpolated between the points measured; the pace
curve stands for it until the first measurement. -/
def curveRate (s : State) (n mv : Nat) : Nat :=
  match SMap.getD s.pace.curve n [] with
  | p :: r => curveAt (p :: r) p mv
  | [] => paceRate mv (domTemp s n) (fldAt s F.domAgeShift 0 n 0)

/-! ### Settings (R294, R305, R309) -/

def vmin (s : State) : Nat := fld s F.paceVlimVmin
def vmax (s : State) : Nat := fld s F.paceVlimVmax
/-- What a bundle asks of a domain that holds its stations: FIXED_MV without a frame period or while the governor is
disabled, else its own request (R303 to R306). -/
def requestOf (s : State) (b : Bundle) (n : Nat) : Nat :=
  if b.img.limits.framePeriod = 0 ∨ fld s F.paceCtlEnable = 0 then fld s F.paceFixedFixedMv
  else SMap.getD b.requests n (b.baseMv.getD (fld s F.paceFixedFixedMv))
/-- A voltage brought to a step of 5 mV between two bounds: the next multiple of 5 mV, the last within the bounds where it lies above
them, the first where it lies below; the lower bound where no multiple lies between them. (DESIGN CHOICE, log entry 28) -/
def stepMv (lo hi v : Nat) : Nat := max (min ((lo + 4) / 5 * 5) hi) (min ((v + 4) / 5 * 5) (hi / 5 * 5))
/-- The lowest step of a governed domain. -/
def floorMv (s : State) : Nat := stepMv (vmin s) (vmax s) 0
/-- The setting of R294 of a domain: the largest request for it, from VMIN to VMAX in steps of 5 mV. -/
def wanted (s : State) (n : Nat) : Nat :=
  stepMv (vmin s) (vmax s) (maxOf (s.pl.slots.map (fun e => if inDomain e.2 n then requestOf s e.2 n else 0)))
/-- The voltage granted (R309), the lowest step where none is granted above it. -/
def settingOf (s : State) (n : Nat) : Nat := max (floorMv s) (SMap.getD s.pace.setting n 0)
/-- Whether the brake acts on a governed domain (R311). -/
def braked (s : State) (n : Nat) : Bool := s.pace.brakeCur || s.pace.brakePow || s.pace.brakeDies.contains (n / 8)
/-- The governed domains of the part. -/
def governedDomains (d : Ident) : List Nat := (List.range (8 * d.dies)).filter governed
/-- Whether a domain is on (R295): quadrants while a station is placed or their scratch is wiped, the rest of a die while it is not shut, an engine's
lasers while a lane is lit (the flag given), a stack while it has not failed. -/
def domainOn (s : State) (lasersLit : Nat → Bool) (n : Nat) : Bool :=
  domainExists s.ident n && (match partOf n with | some p => !isShut s p | none => true) &&
  (if n < 64 then
    (if n % 8 < 4 then quadOn s n
     else if n % 8 = 5 ∨ n % 8 = 6 then (match stackOf s (2 * (n / 8) + (n % 8 - 5)) with | some k => !k.failed | none => false)
     else true)
   else if n < 72 then (if n % 2 = 1 then lasersLit ((n - 64) / 2) else true)
   else true)

/-- One domain's setting after requests or placements changed: a request at or below the setting takes effect at once, one
above it waits for R309, and a quadrant just switched on comes up at its setting (R294, R295). Under the brake no voltage
changes (R311), and while no hub is active every domain holds its own (R35). -/
def settleOne (s before : State) (m : SMap Nat) (n : Nat) : SMap Nat :=
  let w := wanted s n
  if n % 8 < 4 && quadOn s n && !quadOn before n then SMap.setD m n w 0
  else if n % 8 < 4 && !quadOn s n then SMap.setD m n 0 0
  else if braked s n || s.active.isNone then m
  else if w < settingOf s n then SMap.setD m n w 0
  else m
/-- Every governed domain's setting after requests or placements changed. -/
def settle (s before : State) : State :=
  { s with pace := { s.pace with setting := (governedDomains s.ident).foldl (settleOne s before) s.pace.setting } }
/-- Settings after a change that places or frees nothing. (DESIGN CHOICE, log entry 51) -/
def resettle (s : State) : State := settle s s

/-! ### Frames (R297 to R302) -/

/-- Power event of a late frame (R320). (DEDUCED, log entry 56) -/
def lateReport (s : State) (slot : Nat) (b : Bundle) (f : Frame) : State :=
  let s0 := setEvent s F.pwrEventLate
  let p := if s0.pace.lateSec = s0.tb.sec then s0.pace else { s0.pace with lateSec := s0.tb.sec, lateMade := 0 }
  if p.lateMade < 100 then
    report { s0 with pace := { p with lateMade := p.lateMade + 1 } } C.frameLate (srcActive s) (handleOf slot b)
      (d4 (handleOf slot b) ++ d4 f.number ++ d8 f.start)
  else { s0 with pace := { p with lateHeld := p.lateHeld + 1 } }

/-- A frame start recorded for a running bundle; a 17th removes the oldest (R297, R300). (DEDUCED, log entry 56) -/
def frameStart (s : State) (slot number start : Nat) : State :=
  modBundle s slot (fun b =>
    let b1 := { b with frameK := b.frameK + 1 }
    if b.st = .running && s.active.isSome then
      let l := b.frames ++ [⟨number % 2 ^ 32, start, false⟩]
      { b1 with frames := l.drop (l.length - 16) }
    else b1)

/-- A frame's deadline in ns (R299). -/
def deadline (b : Bundle) (f : Frame) : Nat := f.start + 1000 * b.img.limits.framePeriod

/-- R303 for one domain: the lowest multiple of 5 mV whose rate on the measured curve reaches r × w ÷ span, r as DOM_RATE
reports it in whole Mbeat/s. -/
def raiseOne (s : State) (w span : Nat) (m : SMap Nat) (n : Nat) : SMap Nat :=
  let r := curveRate s n (settingOf s n) / 1000 * 1000
  let v := (((List.range 71).map (fun k => 550 + 5 * k)).find? (fun v => decide (r * w ≤ curveRate s n v * span))).getD 900
  SMap.insert m n (min v (vmax s))
/-- The governor's requests after a completion or a deadline with too little slack (R303): `w` the time used in ns. It pauses while no
hub is active (R35). -/
def governorRaise (s : State) (slot : Nat) (w : Nat) : State :=
  if fld s F.paceCtlEnable = 0 ∨ s.active = none then s
  else match slotBundle s slot with
    | none => s
    | some b =>
      let span := 1000 * (b.img.limits.framePeriod - b.img.limits.slack)
      resettle (setSlot s slot { b with requests := (bundleDomains b).foldl (raiseOne s w span) b.requests, sinceRaise := 0 })

/-- The governor's lowering after a window of ample slack (R304), while a hub is active (R35). -/
def governorLower (s : State) (slot : Nat) : State :=
  match slotBundle s slot with
  | none => s
  | some b =>
    let win := fld s F.paceCtlWindow
    let need : Int := b.img.limits.slack + fld s F.paceHystHystUs
    if fld s F.paceCtlEnable = 1 ∧ s.active.isSome = true ∧ win ≤ b.slacks.length ∧ win ≤ b.sinceRaise ∧ (b.slacks.take win).all (fun x => decide (need ≤ x)) = true then
      let reqs := (bundleDomains b).foldl (fun m n => SMap.insert m n (max (vmin s) (requestOf s b n - 5))) b.requests
      resettle (setSlot s slot { b with requests := reqs })
    else s

/-- A frame completes at time `c` (R298 to R304): `frame` the FRAME of the LAST tile on the completion stream. (DEDUCED, log entry 56) -/
def frameComplete (s : State) (slot : Nat) (frame : Word) (c : Nat) : State :=
  match slotBundle s slot with
  | none => s
  | some b =>
    match b.frames.find? (fun f => f.number == frame.toNat) with
    | none => report s C.frameUnmatched (srcActive s) (handleOf slot b) []
    | some f =>
      let d := deadline b f
      let slack : Int := ((d : Int) - c) / 1000
      let win := fld s F.paceCtlWindow
      let slacks := slack :: b.slacks.take 14
      let least := (slacks.take win).foldl min slack
      let b1 := { b with frames := b.frames.erase f, slacks := slacks, sinceRaise := b.sinceRaise + 1 }
      let s1 := setSlot s slot b1
      let s2 := if f.late then s1
        else if f.start ≤ c ∧ c < d then bumpFldAt s1 F.paceFrmOntimeCount 0 slot 0 1
        else lateReport (bumpFldAt s1 F.paceFrmLateCount 0 slot 0 1) slot b f
      let s3 := setFldAt s2 F.paceFrmSlackSlack 0 slot 0 (BitVec.ofInt 32 slack).toNat
      let s4 := setFldAt s3 F.paceFrmMinSlack 0 slot 0 (BitVec.ofInt 32 least).toNat
      if slack < b.img.limits.slack then governorRaise s4 slot (c - f.start) else governorLower s4 slot

/-- A frame's deadline passes without completion (R299, R301, R303). (DEDUCED, log entry 56) -/
def frameDeadline (s : State) (slot number : Nat) : State :=
  match slotBundle s slot with
  | none => s
  | some b =>
    match b.frames.find? (fun f => f.number == number && !f.late) with
    | none => s
    | some f =>
      let b1 := { b with frames := b.frames.map (fun g => if g = f then { g with late := true } else g) }
      let s1 := bumpFldAt (setSlot s slot b1) F.paceFrmLateCount 0 slot 0 1
      governorRaise (lateReport s1 slot b f) slot (1000 * b.img.limits.framePeriod)

/-- The bundle leaves RUNNING: its outstanding frames are removed from pairing (R297). -/
def Bundle.dropFrames (b : Bundle) : Bundle := { b with frames := [] }

end Sys2Proof.Machine
end

