-- ==== Sys2Proof/Machine/Stop.lean ====
section
/-!
DEFINITION. How stations and bundles stop: HOLD of a station (R81, R175), a bundle entering HELD or FAULTED (R82, R279),
answers to tally waiters (R267), and the station fault (R169 to R174) as one shared operation.
-/
namespace Sys2Proof.Machine
open Sys2Proof

/-! ### Tally waiters (R175, R267, R279) -/

/-- A waiting TTAKE or TWATCH of a station. -/
def TallyWait.isWait (t : TallyWait) : Bool := t.op == .take || t.op == .watch

/-- An answer recorded for one operation of a station, by its place in program order. -/
def answerOp (order status : Nat) (l : List TallyWait) : List TallyWait :=
  l.map (fun e => if e.order = order then { e with answer := some status } else e)
/-- The answer recorded at the issuing station: its oldest operation on the tally that is accepted and not answered. -/
def answerIn (tally status : Nat) : List TallyWait → List TallyWait
  | [] => []
  | t :: r => if t.tally = tally ∧ t.accepted = true ∧ t.answer = none then { t with answer := some status } :: r
              else t :: answerIn tally status r

/-- A home cell answers an operation (R267): to a station of the bundle, or to another module (R277). -/
def answer (s : State) (slot tally : Nat) (src : TallySrc) (status : Nat) : State :=
  match src with
  | .station idx => modStation s slot idx (fun st => { st with tallyOps := answerIn tally status st.tallyOps })
  | .remote pc tag _ _ => sendMsg s pc 1 (.tallyAnswer tag status)

/-- The waits of this module's stations on a tally homed elsewhere end with OWNER_LOST (R278, R279). -/
def loseRemote (b : Bundle) (i : Nat) : Bundle :=
  { b with stations := b.stations.map (fun st => { st with tallyOps := st.tallyOps.map (fun e =>
    if e.tally = i ∧ e.isWait = true ∧ e.accepted = true ∧ e.answer = none then { e with answer := some C.ownerLost } else e) }) }

/-- A tally becomes orphaned: each waiter present completes with OWNER_LOST, nothing subtracted (R279). -/
def orphanTally (s : State) (slot i : Nat) : State :=
  match (slotBundle s slot).bind (fun b => b.tallies[i]?) with
  | none => s
  | some t =>
    if t.orphaned then s
    else
      let s1 := (t.takers ++ t.watchers).foldl (fun s w => answer s slot i w.src C.ownerLost) s
      let s2 := if t.home.isSome then s1 else modBundle s1 slot (fun b => loseRemote b i)
      setEvent (modTally s2 slot i (fun t => { t with orphaned := true, takers := [], watchers := [], markers := [] })) F.talEventOrphaned

/-- Every tally that a bundle homes becomes orphaned (R279). -/
def orphanHomed (s : State) (slot : Nat) : State :=
  match slotBundle s slot with
  | none => s
  | some b => (List.range b.tallies.length).foldl (fun s i =>
      match b.tallies[i]? with
      | some t => if t.home.isSome then orphanTally s slot i else s
      | none => s) s

/-- A station's waiters leave the queues of its bundle's tallies (R175, R223). -/
def leaveQueues (b : Bundle) (idx : Nat) : Bundle :=
  let keep (w : Waiter) : Bool := w.src != .station idx
  { b with tallies := b.tallies.map (fun t => { t with takers := t.takers.filter keep, watchers := t.watchers.filter keep }) }

/-! ### Stall counters (R318) -/

/-- The time a wait in COLLECT, POST or SFENCE has lasted is counted when it ends. -/
def stallCount (s : State) (w : Where) : State :=
  let t := now s - w.st.waitSince
  let ctx : EvCtx := ⟨w.st.pc, w.st.waitInsn, some t, w.handle, w.sr.name, !w.st.ckpts.isEmpty⟩
  match w.st.waiting with
  | .collect _ => bumpEv s (evCell Ev.stallCollect (cellNo w.st) false) ctx t
  | .post _ => bumpEv s (evCell Ev.stallPost (cellNo w.st) false) ctx t
  | .fence => bumpEv s (evCell Ev.stallStack (cellNo w.st) false) ctx t
  | _ => s
/-- A station of a bundle with its record. -/
def whereAt (s : State) (slot idx : Nat) : Option Where :=
  match slotBundle s slot with
  | none => none
  | some b => match b.stations[idx]?, b.img.stations[idx]? with
    | some st, some sr => some ⟨slot, idx, b, st, sr⟩
    | _, _ => none
/-- The waits of a bundle's stations end. -/
def stallAll (s : State) (slot : Nat) : State :=
  match slotBundle s slot with
  | none => s
  | some b => (List.range b.stations.length).foldl (fun s i => match whereAt s slot i with | some w => stallCount s w | none => s) s

/-! ### HOLD (R81, R175) -/

/-- A running station stops before its next instruction: a wait is cancelled with PC at its instruction, nothing taken,
posted or subtracted; a tally wait already answered completes when the answer returns. -/
def holdOne (b : Bundle) (idx : Nat) : Bundle :=
  match b.stations[idx]? with
  | none => b
  | some st =>
    if st.run ≠ .running then b
    else if st.waiting = .tally ∧ st.tallyOps.any (fun t => t.isWait && t.answer.isSome) = true then
      { b with stations := b.stations.set idx { st with run := .held } }
    else
      let st1 := { st with run := .held, waiting := .no, tallyOps := st.tallyOps.filter (fun t => !t.isWait) }
      leaveQueues { b with stations := b.stations.set idx st1 } idx

/-- The home of a tally of another module is told that a waiter leaves its queue (R175). (DESIGN CHOICE, log entry 15) -/
def leaveRemote (s : State) (slot : Nat) : State :=
  match slotBundle s slot with
  | none => s
  | some b => b.stations.foldl (fun s st =>
      if st.run ≠ .running ∨ st.waiting ≠ .tally then s
      else match st.tallyOps.find? (fun e => e.isWait && e.accepted && e.answer.isNone) with
        | none => s
        | some e => match b.tallies[e.tally]?, b.img.tallies[e.tally]? with
          | some t, some r => if t.home.isNone && !t.orphaned then sendMsg s t.remoteHome 1 (.tallyLeave r.id (postcode s) (cellNo st)) else s
          | _, _ => s) s

/-- Every station of a bundle stops (R81). -/
def holdAll (b : Bundle) : Bundle := (List.range b.stations.length).foldl holdOne b

/-- The bundle enters HELD (R81); its outstanding frames leave pairing (R297). -/
def holdBundle (s : State) (slot : Nat) : State :=
  modBundle (leaveRemote (stallAll s slot) slot) slot (fun b => { (holdAll b).dropFrames with st := .held })

/-- A bundle that runs, for a drain too, is held for a cause of its own (R55, R102, R169); its eviction then ends at its
DRAIN_BOUND (R170). -/
def holdFor (s : State) (slot : Nat) : State :=
  match slotBundle s slot with
  | none => s
  | some b => if b.st = .running ∨ b.st = .evicting then holdBundle s slot else s

/-- The bundle enters FAULTED (R82): its stations stop, its tallies are orphaned (R279). -/
def faultBundle (s : State) (slot : Nat) : State :=
  match slotBundle s slot with
  | none => s
  | some b =>
    if b.st = .faulted then s
    else
      let s1 := orphanHomed (leaveRemote (stallAll s slot) slot) slot
      setEvent (modBundle s1 slot (fun b => { (holdAll b).dropFrames with st := .faulted })) F.bndEventFaulted

/-- A bundle faulted by a cause that is reported with it (R82): its detail the fields that the rule names. (DEDUCED, log entry 12) -/
def faultWith (s : State) (slot code source : Nat) (detail : List Byte) : State :=
  match slotBundle s slot with
  | none => s
  | some b =>
    if b.st = .faulted then s
    else faultBundle (report s code source (handleOf slot b) detail) slot

/-! ### Speculation regions (R171, R210) -/

/-- Whether a stream's producer lies in speculation region n (the SPEC field). -/
def producerSpec (b : Bundle) (r : StreamRec) : Nat := match b.img.stations[r.producer]? with | some sr => sr.spec | none => 0
/-- Whether a speculation region holds an unresolved provisional tile (R210). -/
def regionUnresolved (b : Bundle) (spec : Nat) : Bool :=
  (b.img.streams.zip b.streams).any (fun p => decide (producerSpec b p.1 = spec) && !p.2.prov.isEmpty)

/-! ### Station faults (R169 to R174) -/

/-- The fault registers of a cell (R174): a new fault overwrites them, setting OVERRUN while VALID is 1. -/
def faultRegs (s : State) (cell code pc : Nat) (insn : Word) (detail : Nat) (lost : Bool) : State :=
  let d := dieOf cell
  let k := cell % 256
  let overs := fldAt s F.dieFltStatValid d k 0
  let s1 := if overs = 1 then setFldAt s F.dieFltStatOverrun d k 0 1 else s
  let s2 := setFldAt (setFldAt (setFldAt s1 F.dieFltStatCode d k 0 code) F.dieFltStatValid d k 0 1) F.dieFltStatLost d k 0 (b2n lost)
  setFldAt (setFldAt (setFldAt s2 F.dieFltPcPc d k 0 pc) F.dieFltInsnInsn d k 0 insn.toNat) F.dieFltDetailDetail d k 0 detail

/-- A station fault (R169): the station stops, the registers of R174 and the report of R173 hold it, and its bundle enters
HELD, or FAULTED where the fault loses state (R171). (DEDUCED, log entry 12) -/
def stationFaultAt (s : State) (w : Where) (code detail pc : Nat) (insn : Word) : State :=
  let inSpec := w.sr.spec != 0 && regionUnresolved w.b w.sr.spec
  let lost := code == C.memScratchUe || inSpec
  let dt := if inSpec then 0 else detail % 2 ^ 32
  let cell := cellNo w.st
  let s1 := faultRegs s cell code pc insn dt lost
  let s2 := report s1 code (srcCell cell) w.handle
    (dName w.sr.name ++ leBytes 2 cell ++ leBytes 2 pc ++ leBytes 4 insn.toNat ++ d4 dt)
  let s3 := modStation s2 w.slot w.idx (fun st => { st with run := .faulted, waiting := .no })
  if lost then faultBundle s3 w.slot else holdFor s3 w.slot

/-- A precise fault of the instruction at PC (R169). -/
def stationFault (s : State) (w : Where) (insn : Word) (code detail : Nat) : State :=
  stationFaultAt s w code detail w.st.pc insn

end Sys2Proof.Machine
end

