-- ==== Sys2Proof/Machine/StackMem.lean ====
section
/-!
DEFINITION. Stack memory as its logic dies serve it (R234, R239 to R243, R252, R253, R255): correcting reads with their
counts and reports, row repair, whole-slot reads and writes; and correcting reads of scratch with their counts (R234, R260).
-/
namespace Sys2Proof.Machine
open Sys2Proof

/-! ### Addresses (R240) -/

/-- The row key of a byte offset in a stack: bank number × 65,536 + row, the bank number pseudo-channel × 32 + bank. -/
def rowKey (off : Nat) : Nat := (fieldOf off 6 5 * 32 + fieldOf off 15 5) * 65536 + fieldOf off 20 16
/-- The global address of a byte offset in a stack of this module. -/
def globalAddr (s : State) (n off : Nat) : Nat := postcode s * 2 ^ 40 + n * 2 ^ 36 + off
/-- The distinct rows that a run of bytes touches. -/
def rowsIn (off len : Nat) : List Nat :=
  if len = 0 then [] else
    ((List.range ((off + len - 1) / 64 - off / 64 + 1)).map (fun i => rowKey ((off / 64 + i) * 64))).eraseDups
/-- Spare rows of a bank (R239). -/
def spareRows : Nat := 8

/-- Die, index j and source number of a stack. -/
def stkDie (n : Nat) : Nat := n / 2
def stkIdx (n : Nat) : Nat := n % 2
/-- A die event of a stack (R508: SUB the index j). -/
def stkEvent (s : State) (n code k : Nat) : State := bumpEv s (evDie code (stkDie n) (stkIdx n)) noCtx k

/-! ### Corrected and uncorrectable words (R234, R252, R253) -/

/-- A row's repair starts where its bank has a spare row and no repair of it runs (R253). -/
def repairStart (s : State) (n key : Nat) : State :=
  modStack s n (fun k =>
    if k.repairing.contains key || decide (spareRows ≤ (SMap.getD k.repaired (key / 65536) []).length +
        (k.repairing.filter (fun r => r / 65536 == key / 65536)).length) then k
    else { k with repairing := k.repairing ++ [key] })

/-- One corrected word: counted, and the row's account kept over 24 hours (R234, R253, R260). -/
def stackCe (s : State) (n w : Nat) : State :=
  let d := stkDie n
  let j := stkIdx n
  let s1 := setEventAt (satFldAt (stkEvent s n Ev.stkCe 1) F.memStkCeCount d j 0 1) F.memStkStatCe d j 0
  let key := rowKey (16 * w)
  match stackOf s1 n with
  | none => s1
  | some k =>
    let a := SMap.getD k.rows key ⟨[], 0, 0⟩
    let ces := a.ces.filter (fun t => decide (s.tb.sec < t + 86400)) ++ [s.tb.sec]
    let hit := decide (fldAt s1 F.memCtlRowCeThresh d 0 0 ≤ ces.length)
    let s2 := modStack s1 n (fun k => { k with rows := SMap.setD k.rows key { a with ces := if hit then [] else ces } ⟨[], 0, 0⟩ })
    if hit then repairStart s2 n key else s2

/-- One uncorrectable word that was not poison-marked: marked, counted, recorded and reported by its first reader, and its
row repaired (R252, R253). -/
def stackUe (s : State) (n w : Nat) : State :=
  let d := stkDie n
  let j := stkIdx n
  let s1 := setEventAt (satFldAt (stkEvent s n Ev.stkUe 1) F.memStkUeCount d j 0 1) F.memStkStatUe d j 0
  let s2 := setFldAt s1 F.memStkUeAddrLoOffsetLo d j 0 (16 * w % 2 ^ 32)
  let s3 := setFldAt (setFldAt s2 F.memStkUeAddrHiOffsetHi d j 0 (16 * w / 2 ^ 32)) F.memStkUeAddrHiValid d j 0 1
  repairStart (report s3 C.memStackUe (srcDie d) 0xFFFF (d8 (globalAddr s n (16 * w)))) n (rowKey (16 * w))

/-- What a correcting read of a stack found: its memory replaced, its corrected and its new uncorrectable words accounted. -/
def stackFound (s : State) (n : Nat) (m : Mem) (fixed : List Nat) (bad : List (Nat × Bool)) : State :=
  let s1 := modStack s n (fun k => { k with mem := m })
  let s2 := fixed.foldl (fun s w => stackCe s n w) s1
  bad.foldl (fun s e => if e.2 then s else stackUe s n e.1) s2

/-- A correcting read of a run of bytes (R234): the bytes, the check differences left, and the words uncorrectable. -/
structure StackRead where
  st : State
  bytes : List Byte
  bad : List Nat

def stackRead (s : State) (n off len : Nat) : StackRead :=
  match stackOf s n with
  | none => ⟨s, List.replicate len 0#8, []⟩
  | some k =>
    let r := k.mem.correct off len
    let m := r.bad.foldl (fun m e => m.poisonWord e.1) r.mem
    ⟨stackFound s n m r.fixed r.bad, m.read off len, r.bad.map (·.1)⟩

/-- A slot read whole (R243). -/
def stackTile (s : State) (n off : Nat) : State × Tile :=
  match stackOf s n with
  | none => (s, Tile.zero)
  | some k =>
    let r := k.mem.readSlot off false
    (stackFound s n r.mem r.fixed r.bad, r.tile)

/-- A tile written whole with the check fields it carries (R232, R243). -/
def stackPutTile (s : State) (n off : Nat) (t : Tile) : State :=
  modStack s n (fun k => { k with mem := k.mem.writeSlot off t })
/-- A tile whose words the logic die computes is written with new check fields; words poison-marked stay so (R232). -/
def recoded (t : Tile) : Tile := { t with chk := t.chk.filter (fun e => e.2 == poisonMark) }

/-- Activations of rows counted in the 32 ms refresh window; a row reaching the threshold has its neighbours refreshed and
its count started again (R255). -/
def activate (s : State) (n : Nat) (acts : List (Nat × Nat)) : State :=
  let d := stkDie n
  let win := now s / 32000000
  acts.foldl (fun s e =>
    match stackOf s n with
    | none => s
    | some k =>
      let a := SMap.getD k.rows e.1 ⟨[], 0, 0⟩
      let c := (if a.win = win then a.act else 0) + e.2
      let th := fldAt s F.memCtlDisturbThresh d 0 0
      let s1 := modStack s n (fun k => { k with rows := SMap.setD k.rows e.1 { a with act := c % th, win := win } ⟨[], 0, 0⟩ })
      bumpFldAt (stkEvent s1 n Ev.stkDisturb (c / th)) F.memStkDisturbRefreshes d (stkIdx n) 0 (c / th)) s

/-! ### Row repair (R253, R254) -/

/-- The offsets of a row's 64-byte sectors (R240). -/
def rowSectors (key : Nat) : List Nat :=
  (List.range 16).map (fun i => (key % 65536) * 2 ^ 20 + (key / 65536 % 32) * 2 ^ 15 + i * 2 ^ 11 + (key / 65536 / 32) * 2 ^ 6)
/-- Spare rows that a bank has left. -/
def sparesLeft (k : Stack) (bank : Nat) : Nat := spareRows - (SMap.getD k.repaired bank []).length
/-- A row read through the corrector as it is copied. (DESIGN CHOICE, log entry 27) -/
def correctRow (s : State) (n key : Nat) : State :=
  (rowSectors key).foldl (fun s off => (stackRead s n off 64).st) s

/-- A row remapped to a spare of its bank: its account starts again. -/
def Stack.remap (k : Stack) (bank row : Nat) : Stack :=
  { k with repairing := k.repairing.filter (· != bank * 65536 + row)
           repaired := SMap.setD k.repaired bank (SMap.getD k.repaired bank [] ++ [row]) []
           rows := SMap.erase k.rows (bank * 65536 + row) }
/-- A bank whose spares fall to 2 or to none is reported. -/
def spareReports (s : State) (n bank : Nat) : State :=
  match (stackOf s n).map (fun k => sparesLeft k bank) with
  | some 2 => report s C.memSparesLow (srcDie (stkDie n)) 0xFFFF []
  | some 0 => report s C.memSparesOut (srcDie (stkDie n)) 0xFFFF []
  | _ => s
/-- A repair completes: counted and reported. (DESIGN CHOICE, log entry 27) -/
def finishRepair (s : State) (n bank row : Nat) : State :=
  let s1 := modStack (correctRow s n (bank * 65536 + row)) n (fun k => k.remap bank row)
  let s2 := setEventAt (stkEvent s1 n Ev.stkRepair 1) F.memStkStatRepaired (stkDie n) (stkIdx n) 0
  spareReports (report s2 C.memRepaired (srcDie (stkDie n)) 0xFFFF []) n bank

/-- Whether a row holds a byte of a run. -/
def rowMeets (off len key : Nat) : Bool := (rowSectors key).any (fun o => decide (o < off + len) && decide (off < o + 64))
/-- An access to rows under repair waits and is then served from the spare (R253): where one command makes the access, it finds
those repairs done. (DESIGN CHOICE, log entry 27) -/
def awaitRepairs (s : State) (n off len : Nat) : State :=
  match stackOf s n with
  | none => s
  | some k => (k.repairing.filter (rowMeets off len)).foldl (fun s key => finishRepair s n (key / 65536) (key % 65536)) s
/-- An access that the module makes by itself reaches its rows: it waits for their repair, and activates each once (R255).
(DESIGN CHOICE, log entry 27) -/
def openRows (s : State) (n off len : Nat) : State :=
  activate (awaitRepairs s n off len) n ((rowsIn off len).map (fun r => (r, 1)))

/-! ### Scratch (R30, R234, R235, R238, R260) -/

/-- The banks of a cell's scratch, the 128-bit words of each, and the bytes of all (R30, R235). -/
def scratchBanks : Nat := 16
def bankWords : Nat := 16384
def scratchBytes : Nat := scratchBanks * bankWords * 16
/-- The bank that holds a byte address, and its row there (R235). -/
def scratchBank (a : Nat) : Nat := a / 16 % scratchBanks
def scratchRow (a : Nat) : Nat := a / (16 * scratchBanks)

/-- A cell that passed production test, on a populated die (R31, R104). -/
def goodCell (s : State) (c : Nat) : Bool := decide (c < 256 * s.ident.dies) && !s.ident.badCells.contains c
def retiredCell (s : State) (c : Nat) : Bool := (SMap.find s.pl.retired c).isSome
/-- A kept field, the retirement record or the active route book has changed (R527, R528). -/
def keptChanged (s : State) : State := { s with sec := { s.sec with retPending := true } }

/-- A cell is soft-retired (R99, R100): recorded, and its station marked to move at its next drain point. -/
def softRetire (s : State) (cell : Nat) : State :=
  if !goodCell s cell || retiredCell s cell then s
  else
    let s1 := keptChanged (setEvent { s with pl := { s.pl with retired := SMap.insert s.pl.retired cell .soft } } F.bndEventRetired)
    match stationOn s1 cell with
    | some w => if w.b.st = .faulted then s1 else modStation s1 w.slot w.idx (fun st => { st with relocating := true })
    | none => s1
/-- A soft cause found by the module (R99, R106). (DESIGN CHOICE, log entry 27) -/
def softCause (s : State) (cell : Nat) : State :=
  if retiredCell s cell then s
  else if fld s F.bndCtlAutoRetire = 1 then softRetire s cell
  else report s C.retireAdvised (srcCell cell) 0xFFFF []

/-- Corrected symbols and new uncorrectable words found in a cell's scratch: counters and registers of its die (R260,
R261), and the hour's account of R99. -/
def scratchFound (s : State) (cell : Nat) (ctx : EvCtx) (ce ue : Nat) : State :=
  let d := dieOf cell
  let s1 := if ce = 0 then s else
    setEventAt (satFldAt (bumpEv s (evCell Ev.scrCe cell false) ctx ce) F.memScrCeCount d 0 0 ce) F.memScrStatCe d 0 0
  let s2 := if ue = 0 then s1 else
    setEventAt (satFldAt (bumpEv s1 (evCell Ev.scrUe cell false) ctx ue) F.memScrUeCount d 0 0 ue) F.memScrStatUe d 0 0
  if ce = 0 then s2 else
    let w := (SMap.getD s2.pl.ceWindow cell []).filter (fun e => decide (s.tb.sec < e.1 + 3600)) ++ [(s.tb.sec, ce)]
    let overs := decide (fld s F.bndRetireThreshThresh < (w.map (·.2)).foldl (· + ·) 0)
    let s3 : State := { s2 with pl := { s2.pl with ceWindow := SMap.setD s2.pl.ceWindow cell (if overs then [] else w) [] } }
    if overs then softCause s3 cell else s3

end Sys2Proof.Machine
end

