-- ==== Sys2Proof/Machine/Tally.lean ====
section
/-!
DEFINITION. Tallies at their home cell (R263 to R281): acceptance of an operation, release of waiters, reports, epoch
markers, the return of a status to its station, and waits between modules (R277, R278).
-/
namespace Sys2Proof.Machine
open Sys2Proof

/-- A tally of a bundle with its record. -/
def tallyAt (s : State) (slot i : Nat) : Option (Bundle × Tally × TallyRec) :=
  match slotBundle s slot with
  | none => none
  | some b => match b.tallies[i]?, b.img.tallies[i]? with
    | some t, some r => some (b, t, r)
    | _, _ => none

/-- The cell of a tally's home station, 0xFFFF while it is not placed. -/
def homeCell (b : Bundle) (t : Tally) : Nat :=
  match t.home.bind (fun h => b.stations[h]?) with
  | some st => cellNo st
  | none => 0xFFFF

/-! ### Release (R267, R268) -/

/-- Takers served from the front while the head's amount fits. -/
def serveTakers : Nat → List Waiter → Nat × List Waiter × List Waiter
  | v, [] => (v, [], [])
  | v, w :: ws =>
    if w.amount.toNat ≤ v then
      let r := serveTakers (v - w.amount.toNat) ws
      (r.1, w :: r.2.1, r.2.2)
    else (v, [], w :: ws)

/-- release() of R267: watchers whose amount is reached go first, MULTI rises where two or more go, then takers in order. -/
def release (s : State) (slot i : Nat) : State :=
  match tallyAt s slot i with
  | none => s
  | some (_, t, _) =>
    let go := t.watchers.filter (fun w => decide (w.amount.toNat ≤ t.value.toNat))
    let stay := t.watchers.filter (fun w => !decide (w.amount.toNat ≤ t.value.toNat))
    let r := serveTakers t.value.toNat t.takers
    let t' := { t with value := BitVec.ofNat 32 r.1, watchers := stay, takers := r.2.2,
                       multi := if 2 ≤ go.length then (t.multi + 1) % 2 ^ 32 else t.multi }
    (go ++ r.2.1).foldl (fun s w => answer s slot i w.src C.ok) (modTally s slot i (fun _ => t'))

/-! ### Overflow and underflow (R273, R275) -/

/-- The issuing station's name and cell in a report; of a station of another module the cell, which its message carries. (DESIGN
CHOICE, log entry 15) -/
def issuerOf (b : Bundle) (src : Option TallySrc) : List Byte × Nat :=
  match src with
  | some (.station idx) =>
    (match b.img.stations[idx]?, b.stations[idx]? with
      | some sr, some st => (sr.name, cellNo st)
      | _, _ => ([], 0xFFFF))
  | some (.remote _ tag _ _) => ([], tag)
  | none => ([], 0xFFFF)

/-- An overflow or underflow reported and counted: load handle, record index, TALLY_ID, value, amount (for an epoch check
the DETAIL of R275), station name and cell. -/
def tallyReport (s : State) (slot i : Nat) (overs : Bool) (amount : Nat) (src : Option TallySrc) : State :=
  match tallyAt s slot i with
  | none => s
  | some (b, t, r) =>
    let who := issuerOf b src
    let h := handleOf slot b
    let s1 := modTally s slot i (fun t => if overs then { t with overs := satInc 16 t.overs 1 } else { t with under := satInc 16 t.under 1 })
    let s2 := if overs then setEvent s1 F.talEventOverflow else setEvent s1 F.talEventUnderflow
    report s2 (if overs then C.tallyOverflow else C.tallyUnderflow) (srcCell (homeCell b t)) h
      (d4 h ++ d4 i ++ d4 r.id ++ d4 t.value.toNat ++ d4 amount ++ dName who.1 ++ d4 who.2)

/-! ### Operations (R267, R279) -/

/-- The home cell accepts one operation and applies it completely. -/
def tallyApply (s : State) (slot i : Nat) (src : TallySrc) (op : TallyOp) (n : Word) : State :=
  match tallyAt s slot i with
  | none => s
  | some (_, t, r) =>
    if t.orphaned then answer s slot i src C.tallyOrphaned
    else match op with
    | .give =>
      if r.capacity < t.value.toNat + n.toNat then answer (tallyReport s slot i true n.toNat (some src)) slot i src C.tallyOverflow
      else release (answer (modTally s slot i (fun t => { t with value := t.value + n })) slot i src C.ok) slot i
    | .debit =>
      if t.value.toNat < n.toNat then answer (tallyReport s slot i false n.toNat (some src)) slot i src C.tallyUnderflow
      else answer (modTally s slot i (fun t => { t with value := t.value - n })) slot i src C.ok
    | .take =>
      if r.capacity < n.toNat then answer s slot i src C.tallyAmount
      else release (modTally s slot i (fun t => { t with takers := t.takers ++ [⟨src, n⟩] })) slot i
    | .watch =>
      if r.capacity < n.toNat then answer s slot i src C.tallyAmount
      else if n.toNat ≤ t.value.toNat then answer s slot i src C.ok
      else modTally s slot i (fun t => { t with watchers := t.watchers ++ [⟨src, n⟩] })

/-- Waiters held by the home cell of a tally, over all the tallies in its store (R272). -/
def storeWaiters (b : Bundle) (home : Option Nat) : Nat :=
  (b.tallies.map (fun t => if t.home = home then t.takers.length + t.watchers.length else 0)).foldl (· + ·) 0

/-- Whether an operation would have to wait on acceptance (R267, R272). -/
def wouldWait (t : Tally) (r : TallyRec) (op : TallyOp) (n : Nat) : Bool :=
  !t.orphaned && decide (n ≤ r.capacity) &&
  (match op with
    | .take => !t.takers.isEmpty || decide (t.value.toNat < n)
    | .watch => decide (t.value.toNat < n)
    | _ => false)

/-- Whether a station's operation may be accepted now: stack writes issued before a give or a debit are done (R269), and
no epoch marker of the same station stands before it (R270, R274). (DEDUCED, log entry 15) -/
def orderFree (st : Station) (idx : Nat) (t : Tally) (e : TallyWait) : Bool :=
  ((e.op == .take || e.op == .watch) ||
    st.stackOps.all (fun o => decide (e.order < o.order) || (o.kind == .fetch || o.kind == .gather))) &&
  t.markers.all (fun m => match m with | some (k, o) => k != idx || decide (e.order < o) | none => true)

/-- The message of a remote-homed tally's operation (R277): the tag is the issuing cell. -/
def tallyMessage (s : State) (b : Bundle) (t : Tally) (r : TallyRec) (idx : Nat) (e : TallyWait) : State :=
  sendMsg s t.remoteHome 1 (.tallyOp r.id e.op e.amount (postcode s) (match b.stations[idx]? with | some st => cellNo st | none => 0xFFFF))

/-- In two-network mode a tally message that would be routed to an FM-1 is answered with TALLY_NO_HOME (R382). (DEDUCED, log entry 19) -/
def toFm1 (s : State) (dest : Nat) : Bool :=
  twoNet s && (match route s dest 1 none none with
    | some o => (match linkOf s o.2 with | some l => l.farKind == 3 && l.farPostcode == dest | none => false)
    | none => false)

def markAccepted (tally : Nat) : List TallyWait → List TallyWait
  | [] => []
  | t :: r => if t.tally = tally ∧ t.accepted = false then { t with accepted := true } :: r else t :: markAccepted tally r

/-- The tally homed on this module that a TALLY_ID names: its slot and record index (R277). -/
def tallyById (s : State) (id : Nat) : Option (Nat × Nat) :=
  s.pl.slots.findSome? (fun e => (withIdx (e.2.tallies.zip e.2.img.tallies)).findSome? (fun p =>
    if p.2.1.home.isSome && p.2.2.id == id then some (e.1, p.1) else none))
/-- A station's operation is accepted and answered at once. -/
def answerAccepted (s : State) (slot idx : Nat) (e : TallyWait) (status : Nat) : State :=
  modStation s slot idx (fun st => { st with tallyOps := answerOp e.order status st.tallyOps })

/-- TALLY_OP_ACCEPT: the home cell accepts one operation, a station's in its program order (R270), `tally` being the record's
index in the bundle of `slot`, or another module's, `tally` being the TALLY_ID that its message carries; an operation on a
tally homed elsewhere leaves as a message to the home module (R277). An operation that would have to wait
stays held at the last hop while the store holds 256 waiters (R272). -/
def execTallyOpAccept (slot tally : Nat) (src : TallySrc) (s : State) : Out :=
  done (match src with
    | .station idx =>
      match tallyAt s slot tally with
      | none => s
      | some (b, t, r) =>
        match b.stations[idx]? with
        | none => s
        | some st =>
          match st.tallyOps.find? (fun e => e.tally == tally && !e.accepted) with
          | none => s
          | some e =>
            if orderFree st idx t e = false ∨
               (t.home.isSome && wouldWait t r e.op e.amount.toNat && decide (256 ≤ storeWaiters b t.home)) = true then s
            else
              let s1 := modStation s slot idx (fun st => { st with tallyOps := markAccepted tally st.tallyOps })
              match t.home with
              | some _ => tallyApply s1 slot tally src e.op e.amount
              | none =>
                if t.orphaned then answerAccepted s1 slot idx e C.tallyOrphaned
                else if toFm1 s1 t.remoteHome then orphanTally (answerAccepted s1 slot idx e C.tallyNoHome) slot tally
                else tallyMessage s1 b t r idx e
    | .remote pc tag op amount =>
      match (tallyById s tally).bind (fun k => (tallyAt s k.1 k.2).map (fun v => (k, v))) with
      | some (k, b, t, r) =>
        if wouldWait t r op amount.toNat && decide (256 ≤ storeWaiters b t.home) then s
        else tallyApply s k.1 k.2 src op amount
      | none => sendMsg s pc 1 (.tallyAnswer tag C.tallyNoHome))

/-! ### The status comes back (R161) -/

/-- The oldest deferred tally fault is taken once no instruction waits, or while a DRAIN or HALT waits, which counts as not yet
issued, as does an instruction that waits for a resolution: PC and word of the TGIVE or TDEBIT, DETAIL the PC at which the station stopped (R161). -/
def settleDeferred (s : State) (slot idx : Nat) : State :=
  match whereAt s slot idx with
  | none => s
  | some w =>
    match w.st.deferred with
    | [] => s
    | (code, pc, insn) :: rest =>
      if w.st.run ≠ .faulted ∧ (w.st.waiting = .no ∨ w.st.waiting = .drain ∨ w.st.waiting = .halt ∨ w.st.waiting = .resolution ∨ w.st.waiting = .retry) then
        stationFaultAt (modStation s slot idx (fun st => { st with deferred := rest }))
          { w with st := { w.st with deferred := rest } } code w.st.pc pc insn
      else s

/-- A general register written by an instruction of a place in program order, in every checkpoint taken after it too. -/
def landG (order rd : Nat) (v : DWord) (st : Station) : Station :=
  let st1 := setG st rd v
  { st1 with ckpts := st1.ckpts.map (fun c =>
      if order < c.snap.order ∧ rd ≠ 0 then { c with snap := { c.snap with g := SMap.setD c.snap.g rd v 0#64 } } else c) }

/-- An operation's status reaches its station: written to gd; with RD g0 a status other than 0x0000 faults the station,
precisely for a waiting instruction, deferred for a TGIVE or TDEBIT. A waiting instruction completes. -/
def deliverStatus (s : State) (w : Where) (e : TallyWait) (status : Nat) : State :=
  let s1 := modStation s w.slot w.idx (fun st => { st with tallyOps := st.tallyOps.erase e })
  if e.isWait then
    if e.rd = 0 ∧ status ≠ 0 then
      stationFault s1 { w with st := { w.st with tallyOps := w.st.tallyOps.erase e, waiting := .no } } e.word status 0
    else
      settleDeferred (modStation s1 w.slot w.idx (fun st =>
        let st1 := setG st e.rd (BitVec.ofNat 64 status)
        { st1 with waiting := .no, pc := st1.pc + 4 })) w.slot w.idx
  else if e.rd = 0 ∧ status ≠ 0 then
    settleDeferred (modStation s1 w.slot w.idx (fun st => { st with deferred := st.deferred ++ [(status, e.pc, e.word)] })) w.slot w.idx
  else modStation s1 w.slot w.idx (landG e.order e.rd (BitVec.ofNat 64 status))

/-- The operation whose status comes back next: the oldest answered, else the oldest sent to another module. -/
def returning (b : Bundle) (st : Station) : Option (TallyWait × Option Nat) :=
  match st.tallyOps.find? (fun e => e.answer.isSome) with
  | some e => some (e, e.answer)
  | none =>
    match st.tallyOps.find? (fun e => e.accepted && (match b.tallies[e.tally]? with | some t => t.home.isNone | none => false)) with
    | some e => some (e, none)
    | none => none

/-- TALLY_STATUS_RETURN: the answer reaches the issuing station; `status` is what the home module answered, for a tally
homed elsewhere. An answer of TALLY_NO_HOME orphans the record (R279). -/
def execTallyStatusReturn (cell status : Nat) (s : State) : Out :=
  done (match stationOn s cell with
    | none => s
    | some w =>
      match returning w.b w.st with
      | none => s
      | some (e, some a) => deliverStatus s w e a
      | some (e, none) =>
        let code := status % 65536
        let s1 := if code = C.tallyNoHome then orphanTally s w.slot e.tally else s
        match stationOn s1 cell with
        | none => s1
        | some w1 =>
          match w1.st.tallyOps.find? (fun x => decide (x.order = e.order)) with
          | none => s1
          | some e1 => deliverStatus s1 w1 e1 code)

/-! ### Epochs (R274 to R276) -/

/-- An epoch end of a bundle: markers sent to its homed tallies with an epoch value, after the operations of a station
where a frame's completion ends the epoch (R274). -/
def epochEnd (s : State) (slot : Nat) (after : Option (Nat × Nat)) : State :=
  modBundle s slot (fun b => { b with tallies := (withIdx b.tallies).map (fun p =>
    match b.img.tallies[p.1]? with
    | some r => if p.2.home.isSome && r.epoch != 0xFFFFFFFF then { p.2 with markers := p.2.markers ++ [after] } else p.2
    | none => p.2) })

/-- Whether a marker may be accepted: every earlier operation of its station on the tally has been (R270). -/
def markerFree (b : Bundle) (tally : Nat) (m : Option (Nat × Nat)) : Bool :=
  match m with
  | none => true
  | some (idx, o) =>
    match b.stations[idx]? with
    | none => true
    | some st => st.tallyOps.all (fun e => e.tally != tally || e.accepted || decide (o < e.order))

/-- The bundle held by an epoch fault where EPOCH_ACTION says so (R276). -/
def epochHold (s : State) (slot : Nat) : State :=
  match slotBundle s slot with
  | some b => if fld s F.talCtlEpochAction = 1 ∧ (b.st = .running ∨ b.st = .evicting) then holdBundle s slot else s
  | none => s

/-- TALLY_EPOCH_MARKER: the home cell accepts the oldest marker and compares the value with EPOCH_VALUE (R275). -/
def execTallyEpochMarker (slot tally : Nat) (s : State) : Out :=
  done (match tallyAt s slot tally with
    | none => s
    | some (b, t, r) =>
      match t.markers with
      | [] => s
      | m :: ms =>
        if markerFree b tally m = false then s
        else
          let s1 := modTally s slot tally (fun t => { t with markers := ms })
          let v := t.value.toNat
          if v = r.epoch then s1
          else
            let diff := if v < r.epoch then r.epoch - v else v - r.epoch
            let s2 := tallyReport s1 slot tally (decide (r.epoch < v)) (0x80000000 + min diff 0x7FFFFFFF) none
            epochHold (setEvent s2 F.talEventEpoch) slot)

/-! ### Waits between modules (R278) -/

/-- The remote-homed tally that a station waits on. -/
def remoteWait (w : Where) : Option (TallyWait × Tally × TallyRec) :=
  if w.st.waiting = .tally then
    match w.st.tallyOps.find? (fun e => e.isWait && e.accepted && e.answer.isNone) with
    | none => none
    | some e =>
      match w.b.tallies[e.tally]?, w.b.img.tallies[e.tally]? with
      | some t, some r => if t.home.isNone then some (e, t, r) else none
      | _, _ => none
  else none

/-- A wait on a remote tally ends with OWNER_LOST, and the record is orphaned (R278, R279). -/
def remoteWaitLost (s : State) (cell : Nat) : State :=
  match stationOn s cell with
  | none => s
  | some w =>
    match remoteWait w with
    | none => s
    | some (e, _, _) =>
      let s1 := orphanTally s w.slot e.tally
      match stationOn s1 cell with
      | none => s1
      | some w1 =>
        match w1.st.tallyOps.find? (fun x => decide (x.order = e.order)) with
        | none => s1
        | some e1 => deliverStatus s1 w1 e1 C.ownerLost

/-- TALLY_REMOTE_PROBE: the module probes the home of the tally that the station waits on; without a valid route-book
option for the home the wait ends with OWNER_LOST (R278). -/
def execTallyRemoteProbe (cell : Nat) (s : State) : Out :=
  done (match (stationOn s cell).bind remoteWait with
    | none => s
    | some (_, t, r) =>
      if hasEntry s t.remoteHome 1 && !toFm1 s t.remoteHome then sendMsg s t.remoteHome 1 (.tallyProbe r.id (postcode s) cell)
      else remoteWaitLost s cell)

/-- TALLY_PROBE_TIMEOUT: the home answered that it holds no such waiter, answered TALLY_NO_HOME, gave no answer within
100 ms, or cannot be routed to: the wait ends with OWNER_LOST (R278). -/
def execTallyProbeTimeout (cell : Nat) (_reason : ProbeEnd) (s : State) : Out := done (remoteWaitLost s cell)

/-- A probe answered at the home: whether the waiter is held, or that no such tally is homed here (R278). -/
def answerProbe (s : State) (id src tag : Nat) : State :=
  match (tallyById s id).bind (fun k => tallyAt s k.1 k.2) with
  | none => sendMsg s src 1 (.tallyAnswer tag C.tallyNoHome)
  | some (_, t, _) =>
    sendMsg s src 1 (.tallyHeld tag ((t.takers ++ t.watchers).any (fun w => match w.src with
      | .remote p g _ _ => p == src && g == tag
      | .station _ => false)))
/-- A waiter of another module leaves the queue of a tally homed here (R175). -/
def dropWaiter (s : State) (id src tag : Nat) : State :=
  let keep (w : Waiter) : Bool := match w.src with
    | .remote p g _ _ => !(p == src && g == tag)
    | .station _ => true
  match tallyById s id with
  | none => s
  | some (slot, i) => modTally s slot i (fun t => { t with takers := t.takers.filter keep, watchers := t.watchers.filter keep })

/-- TALLY_HOME_WAITER_EXPIRE: the home module removes, without subtracting, every waiter of a module it has not heard from
within 100 ms (R278). -/
def execTallyHomeWaiterExpire (pc : Nat) (s : State) : Out :=
  let keep (w : Waiter) : Bool := match w.src with
    | .remote p _ _ _ => p != pc
    | .station _ => true
  done { s with pl := { s.pl with slots := s.pl.slots.map (fun e => (e.1, { e.2 with tallies := e.2.tallies.map (fun t =>
    { t with takers := t.takers.filter keep, watchers := t.watchers.filter keep }) })) } }

end Sys2Proof.Machine
end

