-- ==== Sys2Proof/Machine/Services.lean ====
section
/-!
DEFINITION. What a stack logic die computes (R244 to R248): conversion of a slot, reduce-add, and the gather and scatter
descriptors; and the values of a tile, which the tensor and vector blocks read as well.
-/
namespace Sys2Proof.Machine
open Sys2Proof

/-! ### Tiles as values -/

end Sys2Proof.Machine
namespace Sys2Proof
open Sys2Proof.Machine

def Tile.fmt (t : Tile) : Nat := t.hdr.format.toNat
def Tile.shape (t : Tile) : Nat := t.hdr.shape.toNat
def Tile.rows (t : Tile) : Nat := shapeRows t.shape
def Tile.cols (t : Tile) : Nat := shapeCols t.shape
def Tile.count (t : Tile) : Nat := shapeCount t.shape
/-- Values of a tile's elements (R108 to R117). -/
def Tile.values (t : Tile) : List NumV :=
  match fmtInfo t.fmt with
  | some fi => decodeElems fi t.count t.payload t.scale t.hdr.tileScale.toNat
  | none => []

end Sys2Proof
namespace Sys2Proof.Machine
open Sys2Proof

/-- Whether a format is listed and is not RAW (R137). -/
def computable (code : Nat) : Bool :=
  match fmtInfo code with
  | some fi => fi.kind != .raw
  | none => false
/-- Whether a count of elements fits a format: its maximum, and whole blocks (R44, R45). -/
def countFits (code n : Nat) : Bool :=
  match fmtInfo code with
  | some fi => decide (n ≤ fi.maxElems) && (!fi.kind.isMx || n % 32 == 0) && (!fi.kind.isSb || n % 16 == 0)
  | none => false

/-- 1.0 as a tile scale (R122). -/
def scaleOne : Nat := 0x3F80

/-! ### Conversion (R245) -/

/-- The tile scale a conversion into `fn` names: the source's where it is SB, else 1.0. -/
def cvtScale (t : Tile) : Nat := if isSbFmt t.fmt then t.hdr.tileScale.toNat else scaleOne

/-- A slot converted to FN, to nearest even (R123); none where it is moved unconverted. -/
def logicConvert (fn : Nat) (t : Tile) : Option Tile :=
  if computable t.fmt && computable fn && countFits fn t.count then
    match fmtInfo fn with
    | none => none
    | some fi =>
      let e := encodeElems fn fi .rne ⟨0, 0⟩ (cvtScale t) t.values
      let ts := if fi.kind.isSb then e.ts else if isSbFmt t.fmt then 0 else t.hdr.tileScale.toNat
      some ⟨{ t.hdr with format := BitVec.ofNat 8 fn, len := 0, tileScale := BitVec.ofNat 16 ts }, e.payload, e.scale, []⟩
  else none

/-! ### Reduce-add (R136, R248) -/

/-- The resident tile after an incoming tile is added; none where the die refuses it. -/
def raddTile (resident incoming : Tile) : Option Tile :=
  if computable resident.fmt && decide (resident.count = incoming.count) then
    match fmtInfo resident.fmt with
    | none => none
    | some fi =>
      let sums := (resident.values.zip incoming.values).map (fun p => (workRound fp32 (p.1.add p.2)).1)
      let e := encodeElems resident.fmt fi .rne ⟨0, 0⟩ resident.hdr.tileScale.toNat sums
      let h := if incoming.poisoned then resident.hdr.setFlag flagPoison true else resident.hdr
      some ⟨h, e.payload, e.scale, resident.chk.filter (fun c => c.2 == poisonMark)⟩
  else none

/-- A reduce-add at its logic die, whole-slot atomic (R243); a refusal is counted, and reported once for each region and
second. -/
def raddAt (s : State) (slot region n off : Nat) (t : Tile) : State :=
  let (s1, res) := stackTile s n off
  match raddTile res t with
  | some r => stackPutTile s1 n off r
  | none =>
    let s2 := stkEvent s1 n Ev.raddRefused 1
    match slotBundle s2 slot with
    | none => s2
    | some b =>
      if SMap.getD b.raddReported region 0 = s.tb.sec + 1 then s2
      else report (setSlot s2 slot { b with raddReported := SMap.insert b.raddReported region (s.tb.sec + 1) })
        C.memRaddRefused (srcDie (stkDie n)) (handleOf slot b) []

/-! ### Descriptors (R246, R247) -/

/-- The fields of a GATHER or SCATTER descriptor. -/
structure Desc where
  kind : Nat
  fmt : Nat
  outFmt : Nat
  shape : Nat
  run : Nat
  base : Nat
  stride : Int
  count : Nat
  indexAddr : Nat
  reserved : Bool
  deriving DecidableEq, Repr

def Desc.parse (b : List Byte) : Desc :=
  ⟨fieldLE b 0 1, fieldLE b 1 1, fieldLE b 2 1, fieldLE b 3 1, fieldLE b 4 2, fieldLE b 8 8, signedOf 64 (fieldLE b 16 8),
   fieldLE b 24 4, fieldLE b 28 4, allZero (slice b 6 2) && allZero (slice b 32 32)⟩

/-- Formats of region slots that a descriptor allows (R246). -/
def descFmt (n : Nat) : Bool := [0x00, 0x01, 0x02, 0x03, 0x04, 0x05, 0x06, 0x20, 0x22].contains n
/-- Bytes of an element of those formats. -/
def elemBytes (fmt : Nat) : Nat := match fmtInfo fmt with | some fi => fi.bits / 8 | none => 1
/-- The tile format of a GATHER. -/
def Desc.tileFmt (d : Desc) : Nat := if d.outFmt = 0x3F then d.fmt else d.outFmt

/-- Whether a descriptor passes the checks of R247 beyond addresses, for a tile of a format and an element count; `gather`
says which of the two it is. -/
def Desc.ok (d : Desc) (gather : Bool) (tileFmt tileCount : Nat) : Bool :=
  d.reserved && decide (d.kind ≤ 1) && descFmt d.fmt && (!gather || d.outFmt == 0x3F || descFmt d.outFmt) && descFmt tileFmt &&
  ((d.fmt == 0) == (tileFmt == 0)) && decide (1 ≤ d.run) && decide (d.run ≤ 4096) && decide (1 ≤ d.count) &&
  decide (d.run * d.count = tileCount) &&
  (match fmtInfo tileFmt with | some fi => decide (tileCount ≤ fi.maxElems) | none => false) &&
  (!(gather && d.tileFmt == 0) || (d.shape == 0 && decide (d.run * d.count ≤ 4096)))

/-- The region elements of a descriptor in order: runs by stride, or by the offsets of its table. -/
def Desc.elems (d : Desc) (offs : List Nat) : List Int :=
  (List.range d.count).flatMap (fun (k : Nat) =>
    let start : Int := if d.kind = 0 then (d.base : Int) + (k : Int) * d.stride else (d.base : Int) + ((offs[k]?).getD 0 : Nat)
    (List.range d.run).map (fun (i : Nat) => start + (i : Int)))
/-- Elements that a slot of the region holds. -/
def Desc.perSlot (d : Desc) : Nat := match fmtInfo d.fmt with | some fi => fi.maxElems | none => 1
/-- The stack offset of region element e. -/
def Desc.elemOff (d : Desc) (off e : Nat) : Nat := off + slotBytes * (e / d.perSlot) + 32 + e % d.perSlot * elemBytes d.fmt

/-- The value of one element's bytes, and the bytes of a value (R247: converted to nearest even). -/
def elemConvert (src dst : Nat) (bytes : List Byte) : List Byte :=
  if src = dst then bytes
  else match fmtInfo src, fmtInfo dst with
    | some fs, some fd =>
      let e := encodeElems dst fd .rne ⟨0, 0⟩ 0 (decodeElems fs 1 bytes [] 0)
      e.payload.take (fd.bits / 8)
    | _, _ => bytes

/-- A GATHER at its logic die: the elements' bytes in OUT_FORMAT and which came from a bad word. -/
def gatherAt (s : State) (n off : Nat) (d : Desc) (offs : List Nat) : State × List (List Byte × Bool) :=
  (d.elems offs).foldl (fun (acc : State × List (List Byte × Bool)) e =>
    let r := stackRead acc.1 n (d.elemOff off e.toNat) (elemBytes d.fmt)
    (r.st, acc.2 ++ [(elemConvert d.fmt d.tileFmt r.bytes, !r.bad.isEmpty)])) (s, [])

/-- A SCATTER at its logic die: each element converted to FORMAT and merged into its word, which passes the corrector; a later
one wins (R247). An element from a poison-marked word of a held write leaves its word poison-marked (R259). -/
def scatterAt (s : State) (n off : Nat) (d : Desc) (offs : List Nat) (t : Tile) : State :=
  let w := elemBytes t.fmt
  (withIdx (d.elems offs)).foldl (fun s p =>
    let bytes := elemConvert t.fmt d.fmt (slice t.payload (p.1 * w) w)
    let a := d.elemOff off p.2.toNat
    let r := stackRead s n a (elemBytes d.fmt)
    modStack r.st n (fun k =>
      let m := k.mem.store a bytes
      { k with mem := if SMap.find t.chk (2 + p.1 * w / 16) = some poisonMark then m.poisonWord (a / 16) else m })) s
/-- The rows of the elements of a GATHER or SCATTER. -/
def Desc.rows (d : Desc) (off : Nat) (offs : List Nat) : List Nat :=
  ((d.elems offs).flatMap (fun e => rowsIn (d.elemOff off e.toNat) (elemBytes d.fmt))).eraseDups

end Sys2Proof.Machine
end

