-- ==== Sys2Proof/Machine/Stream.lean ====
section
/-!
DEFINITION. Streams as their ends and hops see them: input queues (R53, R55), the dead-letter queue (R62 to R67), posting a
tile (R43, R46, R47, R52), frame completion on the completion stream (R298) and the delta end (R197 to R205, R251).
-/
namespace Sys2Proof.Machine
open Sys2Proof

/-! ### Dead letters (R62 to R67) -/

/-- Entries a die's queue holds (R65). -/
def dlqEntries : Nat := 1024

/-- A dead-letter entry as it is read (R66). -/
def DlqEntry.bytes (d : Nat) (e : DlqEntry) : List Byte :=
  leBytes 2 e.reason ++ leBytes 2 d ++ leBytes 4 e.seq ++ leBytes 8 e.timeS ++ leBytes 4 e.timeNs ++ leBytes 2 e.cell ++ leBytes 2 0 ++
  padTo 32 e.consumer ++ leBytes 8 0 ++ e.tile.slot ++ List.replicate 3872 0#8
def dlqOf (s : State) (d : Nat) : List DlqEntry := match s.dies[d]? with | some x => x.dlq | none => []
/-- Where the queue of die d keeps the entry of an ENTRY_SEQ on stack S(2d), and its reorder store (R241). (DESIGN CHOICE, log entry
27: entries take their places in turn) -/
def dlqPlace (seq : Nat) : Nat := 0xFFF600000 + 8192 * (seq % dlqEntries)
def reorderBase : Nat := 0xFFFE00000

/-- Whether a stack of a die has failed (R257). -/
def stackFailed (l : List Stack) (j : Nat) : Bool :=
  match l[j]? with
  | some k => k.failed
  | none => true

/-- A tile whose route vanished enters the queue of its die; a provisional tile never does (R64), and a full queue, or one
whose stack has failed (R257), keeps none and reports DLQ_OVERFLOW (R67). (DESIGN CHOICE, log entry 21) -/
def dlqAdd (s : State) (d reason cell : Nat) (consumer : List Byte) (t : Tile) : State :=
  if t.hdr.flag flagProvisional then s
  else match s.dies[d]? with
    | none => s
    | some die =>
      if stackFailed die.stks 0 || decide (dlqEntries ≤ die.dlq.length) then
        let s1 := setEventAt (satFldAt s F.dieDlqDiscardDiscarded d 0 0 1) F.dieDlqStatOverflow d 0 0
        report s1 C.dlqOverflow (srcDie d) 0xFFFF t.hdr.bytes
      else
        let e : DlqEntry := ⟨reason, fldAt s F.dieDlqTotalTotal d 0 0, s.tb.sec, s.tb.ns, cell, consumer, t, []⟩
        let s1 := { s with dies := modAt s.dies d (fun x => { x with dlq := x.dlq ++ [e] }) }
        setEventAt (bumpFldAt s1 F.dieDlqTotalTotal d 0 0 1) F.dieDlqStatAdded d 0 0

/-! ### Links and hops inside the module (R27 to R29, R37, R88, R233, R295) -/

/-- What the edge link of a die on a side connects to on an FM-8; none where it is not bonded (R27). -/
def edgeLink (d : Nat) : Side → Option Part
  | .west => if d % 4 = 0 then none else some (.die (d - 1))
  | .east => if d % 4 = 3 then none else some (.die (d + 1))
  | .north => if d < 4 then some (.engine (d / 2)) else some (.die (d - 4))
  | .south => if d < 4 then some (.die (d + 4)) else some (.engine (d / 2))
/-- A part that the module has (R26, R36). -/
def Ident.has (m : Ident) : Part → Bool
  | .die d => decide (d < m.dies)
  | .engine e => decide (e < m.engines)
  | .hub h => decide (h < 2)
/-- What a bonded edge link of a populated die connects to; one whose other end is not populated is not bonded (R28, R37). -/
def Ident.bonded (m : Ident) (d : Nat) (x : Side) : Option Part :=
  if m.has (.die d) then (edgeLink d x).filter m.has else none
/-- Whether a hub has a carrier link to a part: to every populated die and engine (R29). -/
def Ident.carrier (m : Ident) : Part → Bool
  | .hub _ => false
  | p => m.has p
/-- The lower-numbered die that an engine reaches (R65). -/
def engineDie (e : Nat) : Nat := 2 * e
/-- Sides in the order of their counters (R508). -/
def sideIndex : Side → Nat
  | .west => 0
  | .north => 1
  | .east => 2
  | .south => 3
/-- A part that is there and not shut (R295, R314). -/
def partRuns (s : State) (p : Part) : Bool := s.ident.has p && !s.pace.shut.contains p
/-- Whether a hop can take a tile: its die runs, and what it crosses is there; an edge link that is not bonded is powered down and
carries nothing (R28). -/
def hopOpen (s : State) (h : HopInfo) : Bool :=
  partRuns s (.die h.die) && (match h.link with
    | .mesh q => decide (q < 4)
    | .edge x => (match s.ident.bonded h.die x with | some p => partRuns s p | none => false)
    | .carrier _ => s.ident.carrier (.die h.die))
/-- Retries and persistent errors of one hop, and the time that a router or an edge link held it (R233, R318). (DESIGN CHOICE,
log entry 17) -/
def hopCounts (s : State) (h : HopInfo) : State :=
  let s1 := match h.link with
    | .mesh q => bumpEv s (evDie Ev.meshHold h.die q) noCtx h.heldNs
    | .edge x => bumpEv s (evDie Ev.edgeHold h.die (sideIndex x)) noCtx h.heldNs
    | .carrier _ => s
  let s2 := bumpEv s1 (evDie Ev.hopRetry h.die 0) noCtx (min h.fails 3)
  bumpEv s2 (evDie Ev.hopPersist h.die 0) noCtx (b2n (decide (4 ≤ h.fails)))
/-- A tile with words hit on the way. (DESIGN CHOICE, log entry 17) -/
def upsetTile (t : Tile) (hits : List Upset) : Tile :=
  let m := hits.foldl Mem.upset (Mem.wiped.writeSlot 0 t)
  Tile.ofSlot (m.read 0 slotBytes) m.chk
/-- The tile that a hop passes on: a word that still fails after the third resend is accepted unchanged (R233). -/
def hopTile (h : HopInfo) (t : Tile) : Tile := if 4 ≤ h.fails then upsetTile t h.hit else t

/-! ### Input queues (R53) -/

/-- A consumer's declared depth: 0 means 2. -/
def depthOf (c : ConsumerRec) : Nat := if c.depth = 0 then 2 else c.depth
/-- Whether a queue has room; a consumed entry that a checkpoint retains still counts (R215). (DESIGN CHOICE, log entry 17) -/
def hasRoom (c : ConsumerRec) (e : ConsEnd) : Bool := decide (e.queue.length < depthOf c)
/-- The oldest entry not consumed. -/
def headTile (e : ConsEnd) : Option Tile := (e.queue.find? (fun q => q.consumed.isNone)).map (·.tile)
/-- Tiles queued at an end (R159). -/
def queued (e : ConsEnd) : Nat := (e.queue.filter (fun q => q.consumed.isNone)).length
/-- The oldest entry taken, its tile read as `t`: gone, or retained for the checkpoints open (R215). -/
def takeHead (ckpts : List Nat) (t : Tile) : List QEntry → List QEntry
  | [] => []
  | q :: r =>
    if q.consumed.isSome then q :: takeHead ckpts t r
    else if ckpts.isEmpty then r
    else ⟨t, some ckpts⟩ :: r

/-- A tile read through the corrector, POISON set where a word is uncorrectable (R234, R249): the words corrected, and those
newly found uncorrectable. -/
structure TileRead where
  tile : Tile
  ce : Nat
  ue : Nat
def correctedTile (t : Tile) : TileRead :=
  if t.chk.isEmpty then ⟨t, 0, 0⟩
  else
    let r := (Mem.wiped.writeSlot 0 t).readSlot 0 true
    ⟨r.tile, r.fixed.length, (r.bad.filter (fun e => !e.2)).length⟩

def modEnd (s : State) (slot si ci : Nat) (f : ConsEnd → ConsEnd) : State :=
  modStream s slot si (fun x => { x with ends := modAt x.ends ci f })
/-- A tile enters an input queue. -/
def enqueue (s : State) (slot si ci : Nat) (t : Tile) : State :=
  modEnd s slot si ci (fun e => { e with queue := e.queue ++ [⟨t, none⟩] })

/-! ### Posting (R43, R47) -/

/-- Source field of ORIGIN: a cell, or one of the values of R41. (DESIGN CHOICE, log entry 21) -/
def originOf (s : State) (source : Nat) : Word := BitVec.ofNat 32 (postcode s + source * 65536)

/-- The bytes of a payload that a tile's format fills: LEN of RAW, else its elements with their stamps (R44). -/
def tileContent (t : Tile) : Nat :=
  match fmtInfo t.fmt with
  | none => 4096
  | some fi => if fi.kind = .raw then t.hdr.len.toNat else payloadBytes fi t.count + (if fi.kind.isSb then t.count / 16 else 0)
/-- Payload bytes beyond the format's content set to zero (R44), as R237 writes them. -/
def trimmedTile (t : Tile) : Tile :=
  let n := tileContent t
  if (t.payload.drop n).all (· == 0#8) then t
  else { t with payload := padTo 4096 (t.payload.take n)
                chk := t.chk.filter (fun c => c.1 < 2 || 258 ≤ c.1 || decide (16 * c.1 ≤ n + 16) ||
                  (decide (16 * c.1 < n + 32) && c.2 == poisonMark)) }
/-- Both header words with new check fields, a poison mark of the second kept (R232, R237, R249). -/
def headerCoded (chk : List (Nat × BitVec 16)) : List (Nat × BitVec 16) := chk.filter (fun c => c.1 != 0 && (c.1 != 1 || c.2 == poisonMark))

/-- The header fields that the module sets at POST (R43), with the check fields of its words (R232). -/
def postHeader (s : State) (r : StreamRec) (cell : Nat) (seq : Word) (prov : Bool) (t : Tile) : Tile :=
  let h := t.hdr
  let f1 := ((h.setFlag flagDelta (r.kind == 2)).setFlag flagProvisional prov).setFlag flagResend false
  { t with hdr := { f1 with streamId := BitVec.ofNat 32 r.id, seq := seq, postmark := postmarkNow s, origin := originOf s cell },
           chk := headerCoded t.chk }
/-- A tile that the module admits from the host or from storage (R41, R43, R44, R232): POISON is the module's to set, and every
word gets its check field. -/
def admitTile (s : State) (r : StreamRec) (source : Nat) (seq : Word) (t : Tile) : Tile :=
  { (postHeader s r source seq false (trimmedTile t)).setFlag flagPoison false with chk := [] }

/-- Whether a stream is the bundle's completion stream (R298). -/
def isCompletion (b : Bundle) (r : StreamRec) : Bool := b.img.limits.framePeriod != 0 && r.id == b.img.limits.completion

/-- Module time in ns rebuilt from a postmark of the last 2^32 ns (R46). -/
def rebuilt (s : State) (pm : Word) : Nat := now s - (postmarkNow s - pm).toNat
/-- A LAST tile posted on the completion stream completes its frame, at its postmark, and ends an epoch behind the operations
that its station issued before the POST, whose place in program order is `order` (R274, R298). -/
def completion (s : State) (slot idx order : Nat) (r : StreamRec) (t : Tile) : State :=
  match slotBundle s slot with
  | none => s
  | some b =>
    if isCompletion b r && t.hdr.flag flagLast then
      frameComplete (epochEnd s slot (some (idx, order))) slot t.hdr.frame (rebuilt s t.hdr.postmark)
    else s

/-- A posted tile is under way to every consumer (R52). -/
def launch (s : State) (slot si : Nat) (t : Tile) : State :=
  modStream s slot si (fun x => { x with flight := x.flight ++ [⟨t, List.range x.ends.length⟩] })

/-! ### Header checks (R48) -/

/-- The status of the first check of R48 that a header fails against a declared format; none where it passes. -/
def headerFault (fmt : Nat) (h : TileHeader) : Option Nat :=
  if h.format.toNat ≠ fmt then some C.tileFormat
  else if 2 ^ 24 ≤ h.index.toNat ∨ 64 ≤ h.flags.toNat ∨ shapeOk fmt h.shape.toNat = false ∨ lenOk fmt h.len.toNat = false then
    some C.tileHeader
  else none

/-! ### The delta end (R196 to R207) -/

/-- The parameter block of a delta stream (R207). -/
structure DeltaParam where
  diff : Bool
  store : Nat
  frameTiles : Nat
  threshold : Nat
  keyInterval : Nat
  boundLimit : Nat
  drift : Nat
  gain : Nat
  deriving DecidableEq, Repr

def DeltaParam.parse (b : List Byte) : DeltaParam :=
  ⟨fieldLE b 0 1 == 1, fieldLE b 1 1, fieldLE b 4 4, fieldLE b 8 4, fieldLE b 12 4, fieldLE b 16 4, fieldLE b 20 4, fieldLE b 24 4⟩

/-- Whether a station consumes a delta stream of its bundle. -/
def consumesDelta (img : BundleImg) (idx : Nat) : Bool := img.streams.any (fun r => r.kind == 2 && r.cons.any (fun c => c.station == idx))
/-- A source end: its producer consumes no delta stream (R201). -/
def isSource (img : BundleImg) (r : StreamRec) : Bool := !consumesDelta img r.producer

/-- The place of a station's region k (R146). -/
def regionPlace (b : Bundle) (idx k : Nat) : Option (Nat × RegionRec × Placed) :=
  match (stationRegions b.img idx)[k]? with
  | none => none
  | some ri => match b.img.regions[ri]?, b.regions[ri]? with
    | some r, some p => some (ri, r, p)
    | _, _ => none

/-- A breach of R200: the status and DETAIL; none where the tile may be posted. -/
def deltaBreach (p : DeltaParam) (d : DeltaEnd) (h : TileHeader) : Option (Nat × Nat) :=
  let i := h.index.toNat
  if p.frameTiles ≤ i then some (C.deltaIndex, i)
  else if d.opened then
    if h.frame ≠ d.frame then some (C.deltaFrame, h.frame.toNat)
    else if d.posted.contains i then some (C.deltaIndex, i)
    else none
  else match d.lastClosed with
    | some c => if laterThan h.frame c then none else some (C.deltaFrame, h.frame.toNat)
    | none => none

/-- The frame that a tile begins, or the open one (R200, R202). -/
def deltaOpen (source : Bool) (d : DeltaEnd) (h : TileHeader) : DeltaEnd :=
  if d.opened then d
  else
    let key := (source && d.keyPending) || h.flag flagKeyframe
    { d with opened := true, frame := h.frame, posted := [], key := key, keyPending := d.keyPending && !(source && key) }

/-- What a delta end does with a tile: the tile sent, if any, the store slot written, if any, and the events of its arithmetic
(R138). -/
structure DeltaAct where
  send : Option Tile
  store : Option Tile
  cnt : Cnt
  deriving DecidableEq, Repr

/-- A store slot written with the posted tile's shape in the stream's format (R198). -/
def storeTile (t : Tile) (e : EncT) (sb : Bool) : Tile :=
  ⟨{ t.hdr with tileScale := BitVec.ofNat 16 (if sb then e.ts else 0), len := 0 }.setFlag flagPoison false, e.payload, e.scale, []⟩
/-- A payload of zeros. -/
def zeroBody (t : Tile) : Tile := { t with payload := List.replicate 4096 0#8, scale := List.replicate 128 0#8, chk := [] }

/-- R198, R202 and R251 for one posted tile `t` and its store slot `s`. -/
def deltaAct (p : DeltaParam) (key : Bool) (fi : FmtInfo) (t s : Tile) : DeltaAct :=
  let f := if t.fmt = 0x01 then fp64 else fp32
  let sb := fi.kind.isSb
  let clean := { t with hdr := t.hdr.setFlag flagPoison false }
  let taken : Tile := if p.diff then zeroBody clean else clean
  if t.poisoned then ⟨some t, some t, {}⟩
  else if key || s.poisoned then ⟨some t, some taken, {}⟩
  else
    let pv := t.values.map (fun v => (workRound f v).1)
    let sv := if s.fmt = t.fmt ∧ s.shape = t.shape then s.values.map (fun v => (workRound f v).1) else pv.map (fun _ => NumV.zero false)
    let enc (vs : List NumV) : EncT := encodeElems t.fmt fi .rne ⟨0, 0⟩ t.hdr.tileScale.toNat vs
    let round (v : NumV) : NumV × Cnt := let r := workRound f v; (r.1, { r.2 with nan := 0 })
    let c := (pv.zip sv).map (fun q => round (if p.diff then q.2.add q.1 else q.1.sub q.2))
    let q := enc (c.map (·.1))
    let met := (c.map (·.2)).foldl Cnt.add q.cnt
    let qv := decodeElems fi t.count q.payload q.scale q.ts
    let thr := fp32.decode p.threshold
    let big := qv.any (fun v => v.isNaN || v.abs.gt thr)
    let qt : Tile := ⟨{ t.hdr with tileScale := BitVec.ofNat 16 (if sb then q.ts else 0) }, q.payload, q.scale, []⟩
    if big then
      let sum := (sv.zip qv).map (fun x => round (x.1.add (workRound f x.2).1))
      let ns := enc (sum.map (·.1))
      ⟨some qt, some (if p.diff then zeroBody clean else storeTile t ns sb),
       if p.diff then met else met.add ((sum.map (·.2)).foldl Cnt.add ns.cnt)⟩
    else
      ⟨if t.hdr.flag flagLast then some (zeroBody t) else none, if p.diff then some (storeTile t q sb) else none, met⟩

/-- FP32 sum and product of two encodings, each rounded to nearest even (R205). -/
def f32Add (a b : Nat) : Nat := (fp32.encode false .rne ⟨0, 0⟩ ((fp32.decode a).add (fp32.decode b))).bits
def f32Mul (a b : Nat) : Nat := (fp32.encode false .rne ⟨0, 0⟩ ((fp32.decode a).mul (fp32.decode b))).bits
def f32Gt (a b : Nat) : Bool := (fp32.decode a).gt (fp32.decode b)

/-- IN of R205: the largest ACC at any delta stream that the producer consumes. -/
def driftIn (b : Bundle) (idx : Nat) : Nat :=
  (b.img.streams.zip b.streams).foldl (fun m p =>
    if p.1.kind = 2 ∧ p.1.cons.any (fun c => c.station == idx) = true ∧ f32Gt p.2.delta.acc.toNat m = true then p.2.delta.acc.toNat else m) 0

/-- A keyframe request raised for a whole bundle: pending at every source end (R203). -/
def raiseKey (s : State) (slot : Nat) : State :=
  modBundle s slot (fun b => { b with streams := (b.img.streams.zip b.streams).map (fun p =>
    if p.1.kind = 2 ∧ p.1.producer < 0xFFFE ∧ isSource b.img p.1 = true then { p.2 with delta := { p.2.delta with keyPending := true } } else p.2) })

/-- A record of R209. -/
def deltaRecord (img : BundleImg) (r : StreamRec) (d : DeltaEnd) : List Byte :=
  let flags := b2n (isSource img r) + 2 * b2n (DeltaParam.parse r.param).diff + 4 * b2n d.keyPending + 8 * b2n d.incomplete
  leBytes 4 r.id ++ leBytes 4 d.frame.toNat ++ leBytes 4 d.acc.toNat ++ leBytes 4 d.local_.toNat ++ leBytes 4 d.sinceKey ++
  leBytes 4 d.sent ++ leBytes 4 d.suppressed ++ leBytes 4 flags
/-- The record of a stream's end taken at a close. -/
def keepRecord (s : State) (slot si : Nat) : State :=
  modBundle s slot (fun b => match b.img.streams[si]? with
    | some r => { b with streams := modAt b.streams si (fun x => { x with delta := { x.delta with last := deltaRecord b.img r x.delta } }) }
    | none => b)

/-- A frame closes at a delta end with its LAST tile (R203 to R205), and its record is taken (R76, R209). -/
def deltaClose (s : State) (slot si : Nat) : State :=
  match slotBundle s slot with
  | none => s
  | some b =>
    match b.streams[si]?, b.img.streams[si]? with
    | some x, some r =>
      let p := DeltaParam.parse r.param
      let d := x.delta
      let source := isSource b.img r
      let short := d.key && decide (d.posted.length < p.frameTiles)
      let local_ := if d.key && !short then 0 else f32Add d.local_.toNat p.drift
      let acc := f32Add (f32Add p.threshold local_) (f32Mul p.gain (if source then 0 else driftIn b r.producer))
      let since := if d.key then 0 else d.sinceKey + 1
      let d1 := { d with opened := false, lastClosed := some d.frame, posted := [], key := false, acc := BitVec.ofNat 32 acc,
                         local_ := BitVec.ofNat 32 local_, sinceKey := since,
                         incomplete := if d.key then short else d.incomplete,
                         keyPending := d.keyPending || (short && source) }
      let s1 := modStream s slot si (fun x => { x with delta := d1 })
      let s2 := if short then
          report (setEvent s1 F.dltEventIncomplete) C.deltaIncomplete (srcActive s) (handleOf slot b) (d4 r.id ++ d4 d.frame.toNat)
        else s1
      let s3 := if p.boundLimit % 2 ^ 31 ≠ 0 ∧ f32Gt acc p.boundLimit = true then raiseKey (setEvent s2 F.dltEventKeyBound) slot else s2
      let s4 := if p.keyInterval ≠ 0 ∧ since = p.keyInterval then raiseKey (setEvent s3 F.dltEventKeyCount) slot else s3
      keepRecord s4 slot si
    | _, _ => s

/-- Where a posted tile's store slot lies. -/
def storeAt (b : Bundle) (r : StreamRec) (p : DeltaParam) (i : Nat) : Option (Nat × Nat) :=
  match regionPlace b r.producer p.store with
  | some (_, _, pl) => some (pl.stack, pl.off + slotBytes * i)
  | none => none

/-- The delta end's view of a posted tile: the end with its frame open, and what it does (R198, R202). -/
structure DeltaView where
  st : State
  d : DeltaEnd
  act : DeltaAct
  place : Option (Nat × Nat)

def deltaView (s : State) (slot si : Nat) (t : Tile) : Option DeltaView :=
  match slotBundle s slot with
  | none => none
  | some b =>
    match b.streams[si]?, b.img.streams[si]?, fmtInfo t.fmt with
    | some x, some r, some fi =>
      let p := DeltaParam.parse r.param
      let d := deltaOpen (isSource b.img r) x.delta t.hdr
      let place := storeAt b r p t.hdr.index.toNat
      let (s1, store) := match place with
        | some (n, off) => stackTile (openRows s n off slotBytes) n off
        | none => (s, Tile.zero)
      some ⟨s1, d, deltaAct p d.key fi t store, place⟩
    | _, _, _ => none

/-- The store slot and the end's account written, the frame closed with LAST (R199, R205). -/
def deltaApply (v : DeltaView) (slot si : Nat) (t : Tile) (sent : Bool) : State :=
  let s1 := match v.place, v.act.store with
    | some (n, off), some x => stackPutTile v.st n off (if t.poisoned then x else recoded x)
    | _, _ => v.st
  let d1 := { v.d with posted := v.d.posted ++ [t.hdr.index.toNat],
                       sent := (v.d.sent + b2n sent) % 2 ^ 32, suppressed := (v.d.suppressed + b2n (!sent)) % 2 ^ 32 }
  let s2 := modStream s1 slot si (fun x => { x with delta := d1 })
  if t.hdr.flag flagLast then deltaClose s2 slot si else s2

end Sys2Proof.Machine
end

