-- ==== Sys2Proof/Machine/Block.lean ====
section
/-!
DEFINITION. The tensor and the vector block (R137, R177 to R194): the checks that an instruction passes at issue, its beats,
and what it writes when it completes, with the events of R138 and R195.
-/
namespace Sys2Proof.Machine
open Sys2Proof

/-! ### Landing of results (R152, R168) -/

/-- Scratch changed by an instruction of a place in program order: it lands in the live scratch and in the copy kept by
every checkpoint taken after it. -/
def landScratch (order : Nat) (f : Mem → Mem) (st : Station) : Station :=
  { st with scratch := f st.scratch,
            ckpts := st.ckpts.map (fun c => if order < c.snap.order then { c with snap := { c.snap with scratch := f c.snap.scratch } } else c) }
/-- The accumulator likewise. -/
def landAcc (order : Nat) (a : Acc) (st : Station) : Station :=
  { st with acc := a,
            ckpts := st.ckpts.map (fun c => if order < c.snap.order then { c with snap := { c.snap with acc := a } } else c) }
/-! ### Counting (R138, R195, R224, R510) -/

/-- The context of an event that a station's instruction causes. -/
def ctxOf (w : Where) (pc : Nat) (insn : Word) (lat : Option Nat) : EvCtx :=
  ⟨pc, insn, lat, w.handle, w.sr.name, !w.st.ckpts.isEmpty⟩
/-- A cell event of R138 or R195: while the station holds a checkpoint its provisional counterpart counts (R224). -/
def workEvent (s : State) (cell code : Nat) (ctx : EvCtx) (n : Nat) : State := bumpEv s (evCell code cell ctx.prov) ctx n
/-- The arithmetic events of one instruction. -/
def arithEvents (s : State) (cell : Nat) (ctx : EvCtx) (c : Cnt) : State :=
  [(Ev.arithNan, c.nan), (Ev.arithInf, c.inf), (Ev.arithSat, c.sat), (Ev.arithNanToInt, c.nanToInt),
   (Ev.arithUnderflow, c.under), (Ev.arithSrDraw, c.draws)].foldl (fun s e => workEvent s cell e.1 ctx e.2) s

/-! ### Tiles in a slot -/

/-- The tile that a slot of data scratch holds. -/
def slotTile (m : Mem) (a : Nat) : Tile := Tile.ofSlot (m.read a slotBytes) []
/-- A block result, CVT or GATHER writes a slot with new check fields (R232). -/
def putTile (a : Nat) (t : Tile) (m : Mem) : Mem := m.writeSlot a { t with chk := [] }
/-- A result tile: format, shape, LEN 0 and, for an SB format, the tile scale written; the other header fields stand. -/
def resultTile (t : Tile) (fmt shape : Nat) (e : EncT) : Tile :=
  ⟨{ t.hdr with format := BitVec.ofNat 8 fmt, shape := BitVec.ofNat 8 shape, len := 0,
                tileScale := BitVec.ofNat 16 (if isSbFmt fmt then e.ts else 0) }, e.payload, e.scale, []⟩

/-! ### MMA (R163, R180 to R183) -/

/-- Whether an operand is first converted to FN. -/
def mmaConverts (fn : Nat) (t : Tile) : Bool := !(t.fmt == fn || mmaSameFamily fn t.fmt)
/-- The operand as the tensor block multiplies it, with the events of its conversion. -/
def mmaOperand (fn : Nat) (t : Tile) : MmaOp × Cnt :=
  match fmtInfo (if mmaConverts fn t then fn else t.fmt) with
  | none => (⟨[], [], 1⟩, {})
  | some fi =>
    if mmaConverts fn t then
      let e := encodeElems fn fi .rne ⟨0, 0⟩ (cvtScale t) t.values
      (⟨decodeElems fi t.count e.payload e.scale e.ts, blockMax fn t.count e.payload e.scale e.ts, fi.kind.blockLen⟩, e.cnt)
    else
      (⟨t.values, blockMax t.fmt t.count t.payload t.scale t.hdr.tileScale.toNat, fi.kind.blockLen⟩, {})
/-- Whether an operand holds no more elements than its format, and the format it is converted to, allow. -/
def fitsFmt (code n : Nat) : Bool := match fmtInfo code with | some fi => decide (n ≤ fi.maxElems) | none => false

/-- The shape conditions of R181 and R183. -/
def mmaShapes (fn : Nat) (a b : Tile) (acc : Acc) : Bool :=
  match mmaFmt fn with
  | none => false
  | some f =>
    decide (a.rows ≤ 64) && decide (b.rows ≤ 64) && a.cols == b.cols && decide (f.smallestK ≤ a.cols) &&
    fitsFmt a.fmt a.count && fitsFmt b.fmt b.count && fitsFmt fn a.count && fitsFmt fn b.count &&
    (acc.kind == .unset || (acc.rows == a.rows && acc.cols == b.rows && acc.kind == f.kind))

/-- The check of an MMA at issue in the order of R137, `bad` whether a word of an operand is uncorrectable; none where it
passes. (DEDUCED, log entry 13) -/
def mmaCheck (fn : Nat) (a b : Tile) (acc : Acc) (bad : Bool) : Option Nat :=
  if !(computable a.fmt && computable b.fmt) then some C.tileFormat
  else if !mmaShapes fn a b acc then some C.tileShape
  else if a.poisoned || b.poisoned || bad then some C.memPoison
  else none

/-- Beats of an MMA, 34 for each operand conversion first (R180). (DESIGN CHOICE, log entry 59) -/
def mmaBeats (fn : Nat) (a b : Tile) : Nat :=
  (match mmaFmt fn with | some f => f.beats a.cols | none => 0) + 34 * (b2n (mmaConverts fn a) + b2n (mmaConverts fn b))

/-! ### ACCRD (R184, R185) -/

def accShape (acc : Acc) : Nat × Nat := if acc.kind = .unset then (64, 64) else (acc.rows, acc.cols)
def accPart (fn : Nat) (acc : Acc) : Nat := match fmtInfo fn with | some fi => accrdRows (accShape acc).1 (accShape acc).2 fi.maxElems | none => 1
/-- The check of an ACCRD at issue, `poison` whether td's header carries POISON or fails its check (R194). (DEDUCED, log entry 14) -/
def accrdCheck (fn part : Nat) (acc : Acc) (poison : Bool) : Option Nat :=
  if !computable fn then some C.tileFormat
  else if (isMxFmt fn && decide ((accShape acc).2 < 32)) || (isSbFmt fn && decide ((accShape acc).2 < 16)) ||
    decide ((accShape acc).1 / accPart fn acc ≤ part) then some C.tileShape
  else if poison then some C.memPoison
  else none
/-- DESIGN CHOICE, log entry 59. -/
def accrdBeats (fn : Nat) (acc : Acc) : Nat :=
  ceilDiv (accPart fn acc * (accShape acc).2) 256 + (if isMxFmt fn || isSbFmt fn then 2 else 0)

/-! ### V (R186 to R191) -/

/-- Whether a class-M operation copies encodings (R189). -/
def vecCopies (o : VOp) (a b d : Tile) : Bool :=
  o.cls == .m && a.fmt == d.fmt && (!o.readsB || b.fmt == a.fmt) && !isMxFmt a.fmt && !isSbFmt a.fmt

/-- The check of a V operation at issue in the order of R137; its operands are ta, and tb and td where it reads them. (DEDUCED, log entry 13) -/
def vecCheck (fn : Nat) (o : VOp) (a b d : Tile) (bad : Bool) : Option Nat :=
  let rs := vopShape fn a.rows a.cols
  if !(computable a.fmt && (!o.readsB || computable b.fmt) && computable d.fmt) then some C.tileFormat
  else if !(shapeOk a.fmt a.shape && (!o.readsB || shapeOk b.fmt b.shape) && (!o.readsD || shapeOk d.fmt d.shape) &&
      (!o.readsB || (if isRowBroadcast fn then b.cols == a.cols else b.rows == a.rows && b.cols == a.cols)) &&
      (!o.readsD || (d.rows == a.rows && d.cols == a.cols)) &&
      (!decide (0x39 ≤ fn) || decide (fn - 0x38 < a.rows)) && shapeOk d.fmt (shapeCode rs.1 rs.2)) then some C.tileShape
  else if a.poisoned || (o.readsB && b.poisoned) || (o.readsD && d.poisoned) || bad then some C.memPoison
  else none

/-- Values brought to the working format of an instruction, with what that met (R135, R138, R186). -/
def widened (f64 : Bool) (t : Tile) : List (NumV × Cnt) := t.values.map (wr f64)

/-- The encodings of a tile's elements, moved unchanged by a copying class-M operation. -/
def rawCodes (t : Tile) : List Nat :=
  match fmtInfo t.fmt with
  | some fi => unpack fi.bits t.count (leNat t.payload)
  | none => []
/-- The order in which a class-M operation moves elements: the sources' indices, tb's counted on from ta's. -/
def moveOrder (fn rows cols : Nat) : List Nat :=
  if fn = 0x38 then (List.range cols).flatMap (fun c => (List.range rows).map (fun r => r * cols + c))
  else
    let s := fn - 0x38
    (List.range rows).flatMap (fun r => (List.range cols).map (fun c =>
      if r < rows - s then (r + s) * cols + c else rows * cols + (r - (rows - s)) * cols + c))

/-- The result of a V operation: the tile written to td's slot, the generator, and the events. -/
def vecResult (fn : Nat) (o : VOp) (f64 : Bool) (a b d : Tile) (md : RMode) (g : Gen) : Tile × Gen × Cnt :=
  let rs := vopShape fn a.rows a.cols
  let shape := shapeCode rs.1 rs.2
  match fmtInfo d.fmt with
  | none => (d, g, {})
  | some fi =>
    if vecCopies o a b d then
      let src := rawCodes a ++ (if o.readsB then rawCodes b else [])
      let codes := (moveOrder fn a.rows a.cols).map (fun i => (src[i]?).getD 0)
      (resultTile d d.fmt shape ⟨leBytes 4096 (pack fi.bits codes), List.replicate 128 0#8, 0, {}, g⟩, g, {})
    else
      let wa := widened f64 a
      let wb := if o.readsB then widened f64 b else []
      let wd := if o.readsD then widened f64 d else []
      let vs := vopValues fn f64 a.rows a.cols (wa.map (·.1)) (wb.map (·.1)) (wd.map (·.1))
      let e := encodeElems d.fmt fi md g d.hdr.tileScale.toNat (vs.map (·.1))
      (resultTile d d.fmt shape e, e.gen, ((wa ++ wb ++ wd ++ vs).map (·.2)).foldl Cnt.add e.cnt)

/-! ### Issue and completion -/

/-- An MMA as it issues, its checks passed: the accumulator it will leave and its events. -/
def mmaOp (st : Station) (w : Word) (a b : Tile) (reads writes : List Item) : BlockOp :=
  let fn := fFN w
  let ra := mmaOperand fn a
  let rb := mmaOperand fn b
  let kind := match mmaFmt fn with | some f => f.kind | none => .f32
  let r := mmaAcc kind (isMxFmt fn || isSbFmt fn) ra.1 rb.1 a.rows b.rows a.cols st.acc
  ⟨w, st.pc, st.order, true, mmaBeats fn a b, 0, Tile.zero, r.1, (ra.2.add rb.2).add r.2,
   b2n (mmaConverts fn a) + b2n (mmaConverts fn b), a.rows * b.rows * a.cols, reads, writes⟩

/-- An ACCRD as it issues: the tile it will write and the generator after its draws. -/
def accrdOp (st : Station) (w : Word) (tdAddr : Nat) (roundEnd : Option Nat) (d : Tile) (reads writes : List Item) : BlockOp × Gen :=
  let fn := fFN w
  let n := accPart fn st.acc
  let cols := (accShape st.acc).2
  let e : EncT := match fmtInfo fn with
    | some fi => encodeElems fn fi (handleMode st roundEnd) st.gen d.hdr.tileScale.toNat (accValues st.acc cols (fRB w * n) n)
    | none => ⟨[], [], 0, {}, st.gen⟩
  (⟨w, st.pc, st.order, true, accrdBeats fn st.acc, tdAddr, resultTile d fn (shapeCode n cols) e, st.acc, e.cnt, 0, 0, reads, writes⟩, e.gen)

/-- A V operation as it issues. -/
def vecOp (st : Station) (w : Word) (f64 : Bool) (o : VOp) (tdAddr : Nat) (roundEnd : Option Nat) (a b d : Tile)
    (reads writes : List Item) : BlockOp × Gen :=
  let fn := fFN w
  let r := vecResult fn o f64 a b d (handleMode st roundEnd) st.gen
  let bytes := match fmtInfo a.fmt with | some fi => payloadBytes fi a.count | none => 0
  (⟨w, st.pc, st.order, false, vopBeats o.cls f64 (vecCopies o a b d) a.count bytes, tdAddr, r.1, st.acc, r.2.2, 0, r.1.count, reads, writes⟩, r.2.1)

/-- A block instruction completes: its result is written and its events are counted (R177, R178, R195). -/
def blockFinish (s : State) (w : Where) (op : BlockOp) (lat : Option Nat) : State :=
  let cell := cellNo w.st
  let ctx := ctxOf w op.pc op.word lat
  let mma := fOpc op.word == 0x51
  let s1 := modStation s w.slot w.idx (fun st =>
    let st1 := { st with blockOps := st.blockOps.erase op }
    if mma then landAcc op.order op.acc st1 else landScratch op.order (putTile op.tdAddr op.tile) st1)
  let s2 := workEvent (arithEvents s1 cell ctx op.cnt) cell Ev.operandCvt ctx op.conv
  let s3 := workEvent s2 cell (if op.tensor then Ev.tensorMac else Ev.vectorElem) ctx op.work
  workEvent s3 cell (if op.tensor then Ev.tensorBusy else Ev.vectorBusy) ctx op.beats

/-- BLOCK_INSTRUCTION_COMPLETE: the tensor or the vector block of a cell completes its oldest instruction (R178). (DESIGN CHOICE, log entry 4; DESIGN CHOICE, log entry 20) -/
def execBlockInstructionComplete (cell : Nat) (tensor : Bool) (latencyNs : Nat) (s : State) : Out :=
  done (match stationOn s cell with
    | none => s
    | some w =>
      match w.st.blockOps.find? (fun o => o.tensor == tensor) with
      | none => s
      | some op => blockFinish s w op (some latencyNs))

end Sys2Proof.Machine
end

