-- ==== Sys2Proof/Machine/Coll.lean ====
section
/-!
DEFINITION. The collective engine (R383 to R390): the parameters of a collective stream, what a step sends and receives, how
steps follow one another, the results, and abort.
-/
namespace Sys2Proof.Machine
open Sys2Proof

/-! ### Parameters (R383, R384) -/

/-- The parameter block of a collective stream. -/
structure CollParam where
  op : Nat
  staging : Nat
  ranks : Nat
  rank : Nat
  timeoutMs : Nat
  tiles : Nat
  peersOff : Nat
  deriving DecidableEq, Repr

def CollParam.parse (b : List Byte) : CollParam :=
  ⟨fieldLE b 0 1, fieldLE b 1 1, fieldLE b 2 2, fieldLE b 4 2, (if fieldLE b 6 2 = 0 then 10 else fieldLE b 6 2), fieldLE b 8 4, fieldLE b 12 4⟩
/-- W of R384. -/
def CollParam.width (p : CollParam) : Nat := if p.op ≤ 1 then p.tiles else p.ranks * p.tiles
/-- Steps of R384. -/
def CollParam.steps (p : CollParam) : Nat := if p.op = 0 then 2 * p.ranks - 2 else p.ranks - 1
/-- Staging slots of R384. -/
def CollParam.slots (p : CollParam) : Nat := if p.op ≤ 1 then p.tiles else if p.op = 2 then p.ranks * p.tiles else 2 * p.ranks * p.tiles
/-- Tiles that the participant posts for an instance (R386). -/
def CollParam.posts (p : CollParam) : Nat := if p.op = 3 then p.ranks * p.tiles else p.tiles
/-- The staging slot of a posted INDEX. -/
def CollParam.postSlot (p : CollParam) (i : Nat) : Nat := if p.op = 2 then p.rank * p.tiles + i else i
/-- The results with their slots in INDEX order (R386); an all-to-all's own share stands where it was posted. -/
def CollParam.results (p : CollParam) : List (Nat × Nat) :=
  match p.op with
  | 0 => (List.range p.tiles).map (fun i => (i, i))
  | 1 => ((List.range p.tiles).filter (fun i => i % p.ranks == p.rank)).map (fun i => (i, i))
  | 2 => (List.range p.width).map (fun i => (i, i))
  | _ => (List.range p.width).map (fun i => (i, if i / p.tiles = p.rank then i else p.width + i))

/-! ### Steps (R387) -/

/-- A number modulo the rank count. -/
def CollParam.mod (p : CollParam) (x : Int) : Nat := (x % (p.ranks : Int)).toNat
/-- The INDEX values of a chunk. -/
def CollParam.chunk (p : CollParam) (j : Nat) : List Nat :=
  if p.op = 2 then (List.range p.tiles).map (· + j * p.tiles) else (List.range p.tiles).filter (fun i => i % p.ranks == j)
/-- Whether a step is a gather step, and its number among those. -/
def CollParam.gather (p : CollParam) (s : Nat) : Option Nat :=
  if p.op = 2 then some s else if p.op = 0 && decide (p.ranks - 1 ≤ s) then some (s - (p.ranks - 1)) else none
/-- The rank that a step sends to, and the one it receives from. -/
def CollParam.toRank (p : CollParam) (s : Nat) : Nat := if p.op = 3 then p.mod (p.rank + s + 1) else p.mod (p.rank + 1)
def CollParam.fromRank (p : CollParam) (s : Nat) : Nat := if p.op = 3 then p.mod ((p.rank : Int) - s - 1) else p.mod ((p.rank : Int) - 1)
/-- What a step sends: slot and J, the INDEX in the receiver's result. -/
def CollParam.sends (p : CollParam) (s : Nat) : List (Nat × Nat) :=
  let r : Int := p.rank
  match p.op with
  | 3 => (List.range p.tiles).map (fun i => (p.toRank s * p.tiles + i, p.rank * p.tiles + i))
  | _ => match p.gather s with
    | some t => (p.chunk (p.mod (r - t))).map (fun i => (i, i))
    | none => (p.chunk (p.mod (r - s - 1))).map (fun i => (i, i))
/-- The J values that a step receives. -/
def CollParam.receives (p : CollParam) (s : Nat) : List Nat :=
  let r : Int := p.rank
  match p.op with
  | 3 => (List.range p.tiles).map (· + p.fromRank s * p.tiles)
  | _ => match p.gather s with
    | some t => p.chunk (p.mod (r - t - 1))
    | none => p.chunk (p.mod (r - s - 2))

/-! ### A collective stream of a bundle -/

/-- What the engine needs of one collective stream: its record, parameters, instance and staging area. -/
structure CollView where
  b : Bundle
  r : StreamRec
  p : CollParam
  x : Stream
  stack : Nat
  base : Nat
  region : Nat
  deriving DecidableEq, Repr

def collView (s : State) (slot si : Nat) : Option CollView :=
  match slotBundle s slot with
  | none => none
  | some b => match b.img.streams[si]?, b.streams[si]? with
    | some r, some x =>
      if r.kind = 3 then
        let p := CollParam.parse r.param
        match regionPlace b r.producer p.staging with
        | some (ri, _, pl) => some ⟨b, r, p, x, pl.stack, pl.off, ri⟩
        | none => none
      else none
    | _, _ => none

def modColl (s : State) (slot si : Nat) (f : Coll → Coll) : State := modStream s slot si (fun x => { x with coll := f x.coll })
/-- The postcode of a rank. -/
def CollView.peer (v : CollView) (k : Nat) : Nat := (v.r.peers[k]?).getD 0

/-! ### Abort (R390) -/

/-- The engine drops an instance: nothing of it is sent or applied any more (R390). -/
def Coll.stop (c : Coll) : Coll := { c with active := false, started := false, acked := true, blocked := false, sends := 0 }
/-- The cause is reported, the bundle enters FAULTED, the engine drops the instance, and every peer that can be routed to is
told on VC2. (DEDUCED, log entry 19) -/
def collAbort (s : State) (slot si cause : Nat) : State :=
  match collView s slot si with
  | none => s
  | some v =>
    let s1 := modColl (faultWith (setEvent s F.fabEventCollAbort) slot cause (srcDie (stkDie v.stack)) []) slot si Coll.stop
    ((List.range v.p.ranks).filter (· != v.p.rank)).foldl (fun s k =>
      match route s (v.peer k) 2 none none with
      | some o => queueFlits s o.2 2 [msgFlit 2 (v.peer k) (.collAbort (BitVec.ofNat 32 v.r.id))]
      | none => s) s1

/-! ### Sending a step (R387, R389) -/

/-- One transfer tile read from staging and queued on a link. -/
def sendTransfer (v : CollView) (step key dest : Nat) (resend : Bool) (s : State) (e : Nat × Nat) : State :=
  let a := v.base + slotBytes * e.1
  let (s1, t) := stackTile (openRows s v.stack a slotBytes) v.stack a
  let h := { (t.hdr.setFlag flagResend resend) with
    streamId := BitVec.ofNat 32 v.r.id, seq := BitVec.ofNat 32 (step * v.p.width + e.2), index := BitVec.ofNat 32 e.2,
    origin := originOf s1 0xFFD }
  queueFlits s1 key v.r.vc (tileFlits v.r.vc dest { t with hdr := h, chk := headerCoded t.chk })

/-- A step sent over the first usable option, `skip` an option passed over where another is usable; with no usable option
the collective aborts. While no postcode is set the step waits (R369). (DEDUCED, log entry 19) -/
def sendStep (s : State) (slot si : Nat) (resend : Bool) (skip : Option Nat) : State :=
  match collView s slot si with
  | none => s
  | some v =>
    let step := v.x.coll.step
    let dest := v.peer (v.p.toRank step)
    let list := v.p.sends step
    if list.isEmpty then modColl s slot si (fun c => { c with acked := true })
    else if postcodeValid s = false then modColl s slot si (fun c => { c with acked := false, blocked := true })
    else
      let o := match route s dest v.r.vc none skip with
        | some o => some o
        | none => if skip.isSome then route s dest v.r.vc none none else none
      match o with
      | none => collAbort s slot si C.collAbort
      | some o =>
        let s1 := modColl (countAlt s o list.length) slot si (fun c =>
          { c with acked := false, sends := c.sends + 1, option := o.1, link := o.2, blocked := false })
        let s2 := list.foldl (sendTransfer v step o.2 dest resend) s1
        if resend then
          let s3 := bumpEv (setEvent s2 F.fabEventCollResend) (evDie Ev.collResent (stkDie v.stack) 0) noCtx list.length
          report s3 C.collResend (srcDie (stkDie v.stack)) (handleOf slot v.b) []
        else s2

/-! ### Results (R386, R387) -/

/-- The results delivered to the participant's input queue in INDEX order, with SEQ under R47. -/
def collDeliver (s : State) (slot si : Nat) : State :=
  match collView s slot si with
  | none => s
  | some v =>
    let s1 := v.p.results.foldl (fun s e =>
      let a := v.base + slotBytes * e.2
      let (s1, t) := stackTile (openRows s v.stack a slotBytes) v.stack a
      modStream s1 slot si (fun x =>
        let h := { t.hdr with streamId := BitVec.ofNat 32 v.r.id, seq := x.nextSeq, index := BitVec.ofNat 32 e.1 }
        { x with nextSeq := x.nextSeq + 1,
                 flight := x.flight ++ [⟨{ t with hdr := h, chk := headerCoded t.chk }, [0]⟩] })) s
    modColl s1 slot si (fun c => { c with active := false, started := false, past := SMap.insert c.past c.frame.toNat c.applied })

/-! ### Progress (R387, R388) -/

/-- Whether every tile of a step has been applied. (DEDUCED, log entry 19) -/
def stepReceived (p : CollParam) (c : Coll) (step : Nat) : Bool := (p.receives step).all (fun j => c.applied.contains (step, j))

/-- The next step starts once the present one is acknowledged and received; after the last, the results go out. (DEDUCED, log entry 19) -/
def collAdvance : Nat → State → Nat → Nat → State
  | 0, s, _, _ => s
  | fuel + 1, s, slot, si =>
    match collView s slot si with
    | none => s
    | some v =>
      let c := v.x.coll
      if !c.started || !c.acked || !stepReceived v.p c c.step then s
      else if v.p.steps ≤ c.step + 1 then collDeliver s slot si
      else
        let s1 := modColl s slot si (fun c => { c with step := c.step + 1, sends := 0, acked := false })
        collAdvance fuel (sendStep s1 slot si false none) slot si

/-- The engine starts step 0 once every tile is posted (R387); a peer that is an FM-1 in two-network mode aborts it (R382). -/
def collStart (s : State) (slot si : Nat) : State :=
  match collView s slot si with
  | none => s
  | some v =>
    if v.r.peers.any (toFm1 s) then collAbort s slot si C.collAbort
    else
      let s1 := modColl s slot si (fun c => { c with started := true, step := 0, sends := 0, acked := false })
      collAdvance v.p.steps (sendStep s1 slot si false none) slot si

/-! ### Posting (R386) -/

/-- A breach of R386 by a tile, judged against the instance that it would join. (DEDUCED, log entry 19) -/
def collBreach (p : CollParam) (c : Coll) (h : TileHeader) : Bool :=
  let i := h.index.toNat
  let joins := c.active && decide (c.posted.length < p.posts)
  let n := if joins then c.posted.length else 0
  decide (p.posts ≤ i) || (joins && (h.frame != c.frame || c.posted.contains i)) || (decide (n + 1 = p.posts) && !h.flag flagLast)

/-- Whether a POST may be accepted: the instance before has been delivered and acknowledged. -/
def collFree (x : Stream) (p : CollParam) : Bool :=
  (x.coll.active && decide (x.coll.posted.length < p.posts)) || (!x.coll.active && x.flight.isEmpty)

/-- A tile that is posted joins its instance, or begins one. -/
def Coll.enter (t : Tile) (c : Coll) : Coll :=
  let c1 := if c.active then c
    else { c with active := true, frame := t.hdr.frame, posted := [], staged := 0, started := false, applied := [],
                  past := SMap.erase c.past t.hdr.frame.toNat }
  { c1 with posted := c1.posted ++ [t.hdr.index.toNat], postSeq := c1.postSeq + 1 }
/-- A posted tile written into its staging slot; the engine starts with the last. (DEDUCED, log entry 19) -/
def collStage (s : State) (slot si : Nat) (t : Tile) : State :=
  match collView s slot si with
  | none => s
  | some v =>
    let a := v.base + slotBytes * v.p.postSlot t.hdr.index.toNat
    let s1 := stackPutTile (openRows s v.stack a slotBytes) v.stack a t
    let s2 := modColl s1 slot si (fun c => { c with staged := c.staged + 1 })
    match collView s2 slot si with
    | some v2 => if v2.x.coll.staged = v2.p.posts then collStart s2 slot si else s2
    | none => s2
/-- A tile posted outside every speculation region. (DEDUCED, log entry 19) -/
def collPost (s : State) (slot si : Nat) (t : Tile) : State := collStage (modColl s slot si (Coll.enter t)) slot si t

/-! ### Receiving (R388) -/

/-- STEP_ACK to the rank that sends a step. -/
def sendAck (s : State) (v : CollView) (step : Nat) : State :=
  sendMsg s (v.peer (v.p.fromRank step)) v.r.vc (.stepAck (BitVec.ofNat 32 v.r.id) step)

/-- The pairs applied of the instance that a transfer tile belongs to: the last one begun, or one before it (R388). -/
def Coll.record (c : Coll) (frame : Word) : List (Nat × Nat) :=
  if frame = c.frame then c.applied else SMap.getD c.past frame.toNat []
/-- Whether a transfer tile can be judged now: it belongs to the running instance, or repeats a tile applied; any other waits
in the receive buffer. -/
def transferNow (v : CollView) (t : Tile) : Bool :=
  let c := v.x.coll
  let step := t.hdr.seq.toNat / v.p.width
  let j := t.hdr.seq.toNat % v.p.width
  (c.record t.hdr.frame).contains (step, j) || (c.started && decide (t.hdr.frame = c.frame) && decide (step < v.p.steps))

/-- A transfer tile applied, or discarded as a duplicate (R388): reduced into staging, or written there. -/
def transferApply (s : State) (slot si : Nat) (v : CollView) (t : Tile) : State :=
  let c := v.x.coll
  let step := t.hdr.seq.toNat / v.p.width
  let j := t.hdr.seq.toNat % v.p.width
  let d := stkDie v.stack
  if (c.record t.hdr.frame).contains (step, j) then
    let s1 := bumpEv s (evDie Ev.collDup d 0) noCtx 1
    if stepReceived v.p { c with applied := c.record t.hdr.frame } step then sendAck s1 v step else s1
  else
    let reduce := v.p.op ≤ 1 && (v.p.gather step).isNone
    let off := v.base + slotBytes * (if v.p.op = 3 then v.p.width + j else j)
    let s0 := openRows s v.stack off slotBytes
    let s1 := if reduce then raddAt s0 slot v.region v.stack off t else stackPutTile s0 v.stack off t
    let s2 := modColl s1 slot si (fun c => { c with applied := c.applied ++ [(step, j)] })
    match collView s2 slot si with
    | none => s2
    | some v2 =>
      let s3 := if stepReceived v2.p v2.x.coll step then sendAck s2 v2 step else s2
      collAdvance (v.p.steps + 1) s3 slot si

/-- A postcode has been set: the steps that waited for it are sent (R369). -/
def collUnblock (s : State) : State :=
  s.pl.slots.foldl (fun s e => (List.range e.2.streams.length).foldl (fun s si =>
    match collView s e.1 si with
    | some v => if v.x.coll.blocked then sendStep s e.1 si false none else s
    | none => s) s) s
/-- STEP_ACK received for a step of a stream. -/
def ackApply (s : State) (slot si step : Nat) : State :=
  match collView s slot si with
  | none => s
  | some v =>
    if v.x.coll.started && v.x.coll.step == step then
      collAdvance (v.p.steps + 1) (modColl s slot si (fun c => { c with acked := true })) slot si
    else s

end Sys2Proof.Machine
end

