-- ==== Sys2Proof/Machine/Spec.lean ====
section
/-!
DEFINITION. Speculation (R210 to R224): which tiles are provisional, checkpoints and what they keep, how a confirmation
releases them, and the rollback of a CANCEL.
-/
namespace Sys2Proof.Machine
open Sys2Proof

/-! ### Regions and streams (R210, R213, R214, R217) -/

/-- The speculation region number plus one of a station, 0 outside every region (the SPEC field). -/
def specOf (img : BundleImg) (idx : Nat) : Nat := match img.stations[idx]? with | some sr => sr.spec | none => 0
/-- A stream whose producer lies in a region and a consumer outside it (R210). -/
def isBoundary (img : BundleImg) (r : StreamRec) : Bool :=
  specOf img r.producer != 0 && r.cons.any (fun c => specOf img c.station != specOf img r.producer)
/-- The boundary streams of a region. -/
def boundaryCount (img : BundleImg) (spec : Nat) : Nat :=
  (img.streams.filter (fun r => specOf img r.producer == spec && isBoundary img r)).length
/-- A stream whose provisional tiles wait in a hold of the spill reserve: a boundary stream, and a collective stream, whose
tiles go to stack memory and leave the die (R212, R213). (DEDUCED, log entry 18) -/
def isHeld (img : BundleImg) (r : StreamRec) : Bool := isBoundary img r || (r.kind == 3 && specOf img r.producer != 0)
/-- Spill slots left for held writes once eight serve each boundary stream's hold (R214). -/
def writeSlots (img : BundleImg) (spec : Nat) : Nat := (img.spill[spec - 1]?).getD 0 - 8 * boundaryCount img spec
/-- Writes held in a region's spill reserve. -/
def heldCount (b : Bundle) (spec : Nat) : Nat :=
  ((withIdx b.stations).map (fun p => if specOf b.img p.1 = spec then p.2.heldWrites.length else 0)).foldl (· + ·) 0
/-- A provisional tile resolved as confirmed (R210). -/
def ProvTile.resolved (p : ProvTile) : Bool := p.confirmed && p.ckpts.isEmpty
/-- Whether a tile of a stream is provisional and unresolved. -/
def unresolved (x : Stream) (seq : Word) : Bool := x.prov.any (fun p => p.seq == seq)

/-! ### Pages (R215, R217, R218) -/

/-- Bytes of a page of data scratch. -/
def pageBytes : Nat := 4096
/-- The pages that a list of items touches. -/
def pagesOf (items : List Item) : List Nat :=
  (items.flatMap (fun i => match i.span with
    | some (a, n) => if n = 0 then [] else (List.range ((a + n - 1) / pageBytes - a / pageBytes + 1)).map (· + a / pageBytes)
    | none => [])).eraseDups
/-- Saved pages of a station. -/
def savedPages (st : Station) : Nat := (st.ckpts.map (fun c => c.pages.length)).foldl (· + ·) 0
/-- Pages that a write still has to save, over the checkpoints held. -/
def newPages (st : Station) (pages : List Nat) : Nat :=
  (st.ckpts.map (fun c => (pages.filter (fun p => !c.pages.contains p)).length)).foldl (· + ·) 0
/-- The pages saved. (DEDUCED, log entry 18) -/
def savePages (st : Station) (pages : List Nat) : Station :=
  { st with ckpts := st.ckpts.map (fun c => { c with pages := c.pages ++ pages.filter (fun p => !c.pages.contains p) }) }
/-- A host's or debugger's view of data scratch: pages saved under a checkpoint as the oldest one saved them (R218). -/
def hostByte (st : Station) (a : Nat) : Byte :=
  match st.ckpts.find? (fun c => c.pages.contains (a / pageBytes)) with
  | some c => c.snap.scratch.byte a
  | none => st.scratch.byte a

/-! ### Checkpoints (R215) -/

/-- The state of R168 as it stands. -/
def snapOf (st : Station) : Snap := ⟨st.g, st.p, st.t, st.pc, st.acc, st.endCtl, st.gen, st.scratch, st.order⟩
/-- Whether an input end holds a checkpoint. -/
def hasCkpt (st : Station) (end_ : Nat) : Bool := st.ckpts.any (fun c => c.end_ == end_)
/-- A checkpoint taken for an input end. -/
def takeCkpt (st : Station) (end_ : Nat) : Station :=
  { st with ckpts := st.ckpts ++ [⟨st.ckptNext, end_, st.ckpts.map (fun d => (d.id, d.covers.length)), [], snapOf st, []⟩], ckptNext := st.ckptNext + 1 }
/-- A tile consumed from an end is covered by its checkpoint. -/
def cover (st : Station) (end_ : Nat) (seq : Word) : Station :=
  { st with ckpts := st.ckpts.map (fun c => if c.end_ = end_ then { c with covers := c.covers ++ [seq] } else c) }

/-- A stack access put in its place in program order. -/
def insertOp (o : StackOp) : List StackOp → List StackOp
  | [] => [o]
  | x :: r => if o.order < x.order then o :: x :: r else x :: insertOp o r

/-- A released checkpoint leaves every list it stands in: its station's held writes go to the stack once no checkpoint
holds them, its retained queue entries are freed, tiles posted under it no longer wait for it (R215, R220). -/
def releaseCkpt (b : Bundle) (idx id : Nat) : Bundle :=
  let free (st : Station) : Station :=
    let hw := st.heldWrites.map (fun h => { h with ckpts := h.ckpts.filter (· != id) })
    { st with ckpts := st.ckpts.filter (fun c => c.id != id), heldWrites := hw.filter (fun h => !h.ckpts.isEmpty),
              stackOps := (hw.filter (fun h => h.ckpts.isEmpty)).foldl (fun l h => insertOp h.op l) st.stackOps }
  let entry (q : QEntry) : Option QEntry := match q.consumed with
    | none => some q
    | some l => if (l.filter (· != id)).isEmpty then none else some { q with consumed := some (l.filter (· != id)) }
  { b with
    stations := modAt b.stations idx free
    streams := (b.img.streams.zip b.streams).map (fun p =>
      let x := if p.1.producer = idx then { p.2 with prov := p.2.prov.map (fun t => { t with ckpts := t.ckpts.filter (· != id) }) } else p.2
      { x with ends := (withIdx x.ends).map (fun e => match p.1.cons[e.1]? with
          | some c => if c.station = idx then { e.2 with queue := e.2.queue.filterMap entry } else e.2
          | none => e.2) }) }

/-- Resolved tiles of internal streams are provisional no longer. -/
def settleProv (b : Bundle) : Bundle :=
  { b with streams := (b.img.streams.zip b.streams).map (fun p =>
      if isHeld b.img p.1 then p.2 else { p.2 with prov := p.2.prov.filter (fun t => !t.resolved) }) }

/-- Whether every tile that a checkpoint covers is resolved. -/
def ckptReady (b : Bundle) (idx : Nat) (c : Checkpoint) : Bool :=
  match (inputEnds b.img idx)[c.end_]? with
  | none => true
  | some e => match b.streams[e.1]? with
    | some x => c.covers.all (fun q => !unresolved x q)
    | none => true

/-- Checkpoints released one after another while any is ready (R220). -/
def releaseAll : Nat → Bundle → Bundle
  | 0, b => settleProv b
  | fuel + 1, b =>
    let b1 := settleProv b
    match (withIdx b1.stations).findSome? (fun p => (p.2.ckpts.find? (ckptReady b1 p.1)).map (fun c => (p.1, c.id))) with
    | some (idx, id) => releaseAll fuel (releaseCkpt b1 idx id)
    | none => b1

/-- Stations that waited for a resolution (R216, R217) may try again. -/
def wakeResolution (b : Bundle) : Bundle :=
  { b with stations := b.stations.map (fun st => if st.waiting = .resolution then { st with waiting := .retry } else st) }

/-- A held boundary tile as the hold posts it (R213): PROVISIONAL 0, POSTMARK of now. -/
def releasedTile (s : State) (t : Tile) : Tile :=
  { t with hdr := { (t.hdr.setFlag flagProvisional false) with postmark := postmarkNow s }, chk := headerCoded t.chk }

/-- The hold of a boundary stream releases its resolved tiles in SEQ order (R213). (DEDUCED, log entry 18) -/
def launchHeld : Nat → State → Nat → Nat → State
  | 0, s, _, _ => s
  | fuel + 1, s, slot, si =>
    match slotBundle s slot with
    | none => s
    | some b => match b.streams[si]?, b.img.streams[si]? with
      | some x, some r =>
        (match x.prov with
          | p :: rest =>
            if p.resolved then
              let t := releasedTile s p.tile
              let s1 := modStream s slot si (fun x => { x with prov := rest })
              let s2 := if r.kind = 3 then collStage s1 slot si t else launch s1 slot si t
              launchHeld fuel (completion s2 slot r.producer p.order r t) slot si
            else s
          | [] => s)
      | _, _ => s

/-- The tiles of internal streams that one state of a bundle holds as provisional and a later one no more: resolved, the LAST
ones complete their frames now (R212, R298). -/
def completeResolved (s : State) (slot : Nat) (b : Bundle) : State :=
  (withIdx (b.img.streams.zip b.streams)).foldl (fun s p =>
    if isHeld b.img p.2.1 then s
    else
      let now_ := match (slotBundle s slot).bind (fun c => c.streams[p.1]?) with | some x => x.prov.map (fun (t : ProvTile) => t.seq) | none => []
      (p.2.2.prov.filter (fun t => !now_.contains t.seq)).foldl (fun s t => completion s slot p.2.1.producer t.order p.2.1 t.tile) s) s
/-- Everything that a resolution lets go (R213, R215, R216, R217, R220). (DEDUCED, log entry 18) -/
def resolveAll (s : State) (slot : Nat) : State :=
  match slotBundle s slot with
  | none => s
  | some b =>
    let fuel := (b.stations.map (fun st => st.ckpts.length)).foldl (· + ·) 0
    let s1 := completeResolved (setSlot s slot (wakeResolution (releaseAll fuel b))) slot b
    (List.range b.img.streams.length).foldl (fun s si => match b.img.streams[si]? with
      | some r => if isHeld b.img r then launchHeld 9 s slot si else s
      | none => s) s1

/-! ### CONFIRM and CANCEL (R219, R221) -/

/-- The tiles of a range confirmed. -/
def confirmRange (x : Stream) (lo hi : Word) : Stream :=
  { x with prov := x.prov.map (fun p => if (p.seq - lo).toNat ≤ (hi - lo).toNat then { p with confirmed := true } else p) }
/-- Whether CONFIRM may name a range: from the oldest unresolved tile to one posted. -/
def confirmOk (x : Stream) (lo hi : Word) : Bool :=
  (match x.prov.head? with | some p => p.seq == lo | none => false) && unresolved x hi
/-- Whether CANCEL may name a range: from an unresolved tile to the newest posted. -/
def cancelOk (x : Stream) (lo hi : Word) : Bool :=
  unresolved x lo && (match x.prov.getLast? with | some p => p.seq == hi | none => false)

/-- What a CANCEL cancels: for each stream the place in its list of unresolved tiles from which they are cancelled. -/
abbrev Cancelled := SMap Nat
/-- The SEQ values cancelled on a stream. -/
def cancelledSeqs (b : Bundle) (cm : Cancelled) (si : Nat) : List Word :=
  match SMap.find cm si, b.streams[si]? with
  | some p, some x => (x.prov.drop p).map (fun t => t.seq)
  | _, _ => []
/-- The oldest checkpoint of a station that covers a cancelled tile. -/
def rollTo (b : Bundle) (cm : Cancelled) (idx : Nat) (st : Station) : Option Checkpoint :=
  st.ckpts.find? (fun c => match (inputEnds b.img idx)[c.end_]? with
    | some e => c.covers.any (fun q => (cancelledSeqs b cm e.1).contains q)
    | none => false)
/-- Tiles that a station rolled back to a checkpoint posted after it are cancelled in turn. -/
def cancelMore (b : Bundle) (cm : Cancelled) : Cancelled :=
  (withIdx b.stations).foldl (fun cm p =>
    match rollTo b cm p.1 p.2 with
    | none => cm
    | some c => (withIdx (b.img.streams.zip b.streams)).foldl (fun cm e =>
        if e.2.1.producer = p.1 then
          match e.2.2.prov.findIdx? (fun t => t.ckpts.contains c.id) with
          | some k => SMap.insert cm e.1 (min k (SMap.getD cm e.1 k))
          | none => cm
        else cm) cm) cm
/-- The whole set of R221. -/
def cancelClosure (b : Bundle) : Nat → Cancelled → Cancelled
  | 0, cm => cm
  | fuel + 1, cm => cancelClosure b fuel (cancelMore b cm)

/-- Data scratch as a checkpoint saved it: the pages saved put back (R215, R222). -/
def restoredScratch (c : Checkpoint) (m : Mem) : Mem :=
  c.pages.foldl (fun m p => c.snap.scratch.carry (p * pageBytes) pageBytes m (p * pageBytes)) m
/-- A station restored to a checkpoint (R221, R222): what R168 names, later stack accesses and held writes dropped, any wait
abandoned; a checkpoint taken before it covers what it covered then. It runs on from its restored PC unless its bundle is
held. -/
def restore (running : Bool) (c : Checkpoint) (st : Station) : Station :=
  { st with
    g := c.snap.g, p := c.snap.p, t := c.snap.t, pc := c.snap.pc, acc := c.snap.acc, endCtl := c.snap.endCtl, gen := c.snap.gen
    scratch := restoredScratch c st.scratch, waiting := .no, blockedSince := none
    run := if running then .running else .held
    ckpts := (st.ckpts.filter (fun d => decide (d.id < c.id))).map (fun d => { d with covers := d.covers.take (SMap.getD c.older d.id d.covers.length) })
    heldWrites := st.heldWrites.filter (fun h => !h.ckpts.contains c.id)
    stackOps := st.stackOps.filter (fun o => decide (o.order < c.snap.order)) }

/-- A stream after a rollback: cancelled tiles leave its queues, hops and hold, SEQ goes back to the first one cancelled,
and entries that rolled-back consumers had taken go back. -/
def rewind (r : StreamRec) (seqs : List Word) (back : List (Nat × Nat)) (x : Stream) : Stream :=
  let keep (t : Tile) : Bool := !seqs.contains t.hdr.seq
  let gone := if r.kind = 3 then (x.prov.filter (fun p => seqs.contains p.seq)).map (fun p => p.tile.hdr.index.toNat) else []
  let left := x.coll.posted.filter (fun i => !gone.contains i)
  { x with
    coll := if gone.isEmpty then x.coll
      else { x.coll with posted := left, active := x.coll.active && !left.isEmpty, postSeq := seqs.headD x.coll.postSeq }
    nextSeq := if r.kind = 3 then x.nextSeq else seqs.headD x.nextSeq
    prov := x.prov.filter (fun p => !seqs.contains p.seq)
    flight := x.flight.filter (fun f => keep f.tile)
    ends := (withIdx x.ends).map (fun e =>
      let ids : List Nat := match r.cons[e.1]? with | some c => (back.filter (fun q => q.1 == c.station)).map Prod.snd | none => []
      let entry (q : QEntry) : QEntry := match q.consumed with
        | some l => if l.any (fun i => ids.contains i) then { q with consumed := none } else q
        | none => q
      { e.2 with queue := (e.2.queue.map entry).filter (fun q => keep q.tile) }) }

/-- The rollback of R221 and R222 for what is cancelled, counted on each station rolled back and once for the CANCEL. -/
def rollback (s : State) (slot : Nat) (cm : Cancelled) : State :=
  match slotBundle s slot with
  | none => s
  | some b =>
    let hit := (withIdx b.stations).filterMap (fun p => (rollTo b cm p.1 p.2).map (fun c => (p.1, c)))
    let s1 := hit.foldl (fun s h => match whereAt s slot h.1 with
      | some w => (stallCount s w) |> fun s => w.st.blockOps.foldl (fun s o => match whereAt s slot h.1 with
          | some w => blockFinish s w o none
          | none => s) s
      | none => s) s
    let s2 := hit.foldl (fun s h => modStation s slot h.1 (fun st => match st.ckpts.find? (fun c => c.id == h.2.id) with
      | some c => restore (b.st == .running || b.st == .evicting) c st
      | none => st)) s1
    let back := hit.map (fun h => (h.1, h.2.id))
    let s3 := modBundle s2 slot (fun b2 => { b2 with streams := (withIdx (b.img.streams.zip b2.streams)).map (fun p =>
      rewind p.2.1 (cancelledSeqs b cm p.1) back p.2.2) })
    let s4 := hit.foldl (fun s h => match whereAt s slot h.1 with
      | some w => bumpEv s (evCell Ev.specRollback (cellNo w.st) false) (ctxOf w w.st.pc 0 none) 1
      | none => s) s3
    let s5 := if hit.isEmpty then s4 else bumpFldAt (setEvent s4 F.spcEventRollback) F.spcRollbacksCount 0 0 0 1
    resolveAll s5 slot

/-- CANCEL of a range on a stream. -/
def cancelRange (s : State) (slot si : Nat) (lo : Word) : State :=
  match slotBundle s slot with
  | none => s
  | some b => match b.streams[si]? with
    | none => s
    | some x => match x.prov.findIdx? (fun p => p.seq == lo) with
      | none => s
      | some k =>
        let fuel := (b.streams.map (fun y => y.prov.length + 1)).foldl (· + ·) 0
        rollback s slot (cancelClosure b fuel [(si, k)])

end Sys2Proof.Machine
end

