-- ==== Sys2Proof/Machine/Perf.lean ====
section
/-!
DEFINITION. Which event numbers name a counter (R507, R508), and who may read one (R509).
-/
namespace Sys2Proof.Machine
open Sys2Proof

/-- Codes of cell events (R508). -/
def cellCode (c : Nat) : Bool :=
  decide (c ≤ 0x003) || (decide (0x010 ≤ c) && decide (c ≤ 0x014)) || (decide (0x020 ≤ c) && decide (c ≤ 0x025)) ||
  (decide (0x030 ≤ c) && decide (c ≤ 0x036)) || c == 0x040 || c == 0x041
/-- Largest SUB of a die event's code; none where the code is no die event's. -/
def dieSub (c : Nat) : Option Nat :=
  if c = 0x100 ∨ c = 0x101 then some 3
  else if c = 0x102 ∨ (0x112 ≤ c ∧ c ≤ 0x117) then some 1
  else if c = 0x110 ∨ c = 0x111 ∨ c = 0x120 ∨ c = 0x121 then some 0
  else none
/-- Largest SUB of an engine event's code. -/
def engineSub (c : Nat) : Option Nat :=
  if c = 0x200 then some 31 else if c = 0x201 then some 0 else if 0x210 ≤ c ∧ c ≤ 0x216 then some 7 else none
/-- Whether a SUB lies within what its code allows. -/
def subOk (o : Option Nat) (sub : Nat) : Bool := match o with | some m => decide (sub ≤ m) | none => false

/-- Whether an event number names a counter of the part (R507, R508). -/
def eventExists (d : Ident) (ev : Nat) : Bool :=
  let code := ev % 1024
  let prov := bitAt ev 10
  let sub := fieldOf ev 11 5
  let unit := fieldOf ev 16 12
  (!prov || (ev / 2 ^ 28 == 1 && decide (0x010 ≤ code) && decide (code ≤ 0x025))) &&
  (match ev / 2 ^ 28 with
    | 1 => cellCode code && sub == 0 && decide (unit < 256 * d.dies)
    | 2 => subOk (dieSub code) sub && decide (unit < d.dies)
    | 3 => subOk (engineSub code) sub && decide (unit < d.engines)
    | 4 => decide (0x300 ≤ code) && decide (code ≤ 0x303) && sub == 0 && decide (unit < 2)
    | _ => false)

/-- The event that a station's CTR reads (R507, R509); none where it may not or there is no such counter. -/
def ctrEvent (s : State) (w : Where) (ev : Nat) : Option Nat :=
  if !w.b.opts.countersReadable then none
  else
    let e := if ev / 2 ^ 28 = 0 then (if fieldOf ev 16 12 = 0 then evCell 0 (cellNo w.st) false + ev else 0) else ev
    let own := w.b.stations.any (fun st => st.cell == some (fieldOf e 16 12))
    if eventExists s.ident e && (e / 2 ^ 28 != 1 || own) then some e else none

/-- Whether a host session may read a counter (R509). -/
def hostReadable (s : State) (ev : Nat) : Bool := ev / 2 ^ 28 != 1 || cellReadable s (fieldOf ev 16 12)

end Sys2Proof.Machine
end

