-- ==== Sys2Proof/Machine/Issue.lean ====
section
/-!
DEFINITION. How a station instruction issues (R140, R148 to R154, R169, R216, R217, R234, R250), as one shared operation
that each instruction's meaning calls with its own body.
-/
namespace Sys2Proof.Machine
open Sys2Proof

/-! ### Words read (R234, R249, R250) -/

/-- What correcting reads of a list of items find in scratch. -/
structure ScanR where
  mem : Mem
  ce : Nat
  ue : Nat
  bad : List Nat
  deriving DecidableEq, Repr

/-- One run of bytes through the corrector: single errors are corrected in storage, an uncorrectable word is poison-marked and
counted when it is first found. -/
def ScanR.run (r : ScanR) (a n : Nat) : ScanR :=
  let c := r.mem.correct a n
  ⟨c.bad.foldl (fun m e => m.poisonWord e.1) c.mem, r.ce + c.fixed.length, r.ue + (c.bad.filter (fun e => !e.2)).length, r.bad ++ c.bad.map (·.1)⟩
/-- Every word that an instruction reads passes the corrector; a tile read that holds an uncorrectable word has POISON set in
its slot (R249). (DEDUCED, log entry 14) -/
def scanItems (m : Mem) (items : List Item) : ScanR :=
  items.foldl (fun r i => match i with
    | .bytes a n => r.run a n
    | .slot a n =>
      let q := r.run a n
      if q.bad.length = r.bad.length then q else { q with mem := q.mem.setPoison a }
    | _ => r) ⟨m, 0, 0, []⟩

/-- Items that pass the corrector: those read, and the words that a store smaller than a word merges into, which sets POISON
nowhere (R237). -/
def scanned (st : Station) (w : Word) : List Item :=
  let fp := fullFootprint st w
  let o := fOpc w
  if o = 0x13 ∨ o = 0x14 ∨ o = 0x15 ∨ o = 0x22 then
    fp.1 ++ fp.2.map (fun i => match i with | .slot a n => .bytes a n | x => x)
  else fp.1

/-- Whether a list of bad words meets a run of bytes. -/
def badIn (bad : List Nat) (a n : Nat) : Bool := bad.any (fun x => decide (a < 16 * x + 16) && decide (16 * x < a + n))
/-- Whether a word lies in a slot, named by a handle, whose header carries POISON (R171, R250). (DEDUCED, log entry 14) -/
def inPoisonSlot (st : Station) (x : Nat) : Bool :=
  st.t.any (fun e => decide (e.2.addr ≤ 16 * x) && decide (16 * x < e.2.addr + slotBytes) &&
    (TileHeader.ofBytes (st.scratch.read e.2.addr 32)).flag flagPoison)

/-! ### Issue -/

/-- An instruction at issue: the state with its reads accounted, its station, and the bad words among those it reads. -/
structure Issue where
  s : State
  w : Where
  insn : Word
  bad : List Nat
  deriving DecidableEq, Repr

/-- Whether a cell runs a station that may issue now. (DESIGN CHOICE, log entry 4) -/
def mayIssue (s : State) (w : Where) : Bool :=
  s.phase == .running && w.st.run == .running && (w.st.waiting == .no || w.st.waiting == .retry) && (w.b.st == .running || w.b.st == .evicting)

/-- The station moves on past the instruction with a change. -/
def goOn (s : State) (w : Where) (f : Station → Station) : State :=
  modStation s w.slot w.idx (fun st => let st1 := f st; { st1 with pc := st1.pc + 4 })
/-- The station's wait of a W-class instruction begins, PC at the instruction. -/
def startWait (i : Issue) (k : Waiting) : State :=
  modStation i.s i.w.slot i.w.idx (fun st => { st with waiting := k, waitInsn := i.insn, waitSince := now i.s })
/-- The end of a wait: counted (R318), PC moved past the instruction, and a deferred tally fault taken if one is due. -/
def endWait (s : State) (w : Where) (f : Station → Station) : State :=
  settleDeferred (goOn (stallCount s w) w (fun st => { f st with waiting := .no })) w.slot w.idx
/-- A fault of the instruction at issue. -/
def Issue.fault (i : Issue) (code detail : Nat) : State := stationFault i.s i.w i.insn code detail

/-- A wait under R211 or R217 begins. -/
def resourceWait (s : State) : State := setEvent s F.spcEventResourceWait
/-- An instruction that a resource of R217, or R216, keeps from issuing; a wait that goes on with it stays one wait (R54). -/
def waitResolution (s : State) (w : Where) (insn : Word) (resource : Bool) : State :=
  let s1 := if resource then resourceWait s else s
  modStation s1 w.slot w.idx (fun st => { st with waiting := .resolution, waitInsn := insn, waitSince := now s, stallReported := st.stallReported && st.waiting != .no })

/-- Tally instructions (R161). -/
def isTallyOp (opc : Nat) : Bool := decide (0x38 ≤ opc) && decide (opc ≤ 0x3B)
/-- Stack writes (R215). -/
def isStackWrite (opc : Nat) : Bool := opc == 0x31 || opc == 0x33 || opc == 0x34
/-- The last word of the code would fall through to CODE_LENGTH (R148, R172). -/
def fallsThrough (st : Station) (w : Word) : Bool :=
  decide (4 * st.code.length ≤ st.pc + 4) && (!guardTrue st w || !([0x18, 0x19, 0x1A, 0x1F].contains (fOpc w)))

/-- The time that an instruction waited for a FETCH or GATHER result is counted when it issues (R318). -/
def countBlocked (s : State) (w : Where) (insn : Word) : State :=
  match w.st.blockedSince with
  | none => s
  | some t => bumpEv s (evCell Ev.stallStack (cellNo w.st) false) (ctxOf w w.st.pc insn none) (now s - t)
/-- Whether an instruction waits for a FETCH or GATHER. -/
def blockedByStack (st : Station) (w : Word) : Bool :=
  let fp := fullFootprint st w
  st.stackOps.any (fun o => (o.kind == .fetch || o.kind == .gather) && (anyMeets fp.1 o.writes || anyMeets fp.2 o.writes))

/-- The instruction issues: counted, its place in program order taken, its reads corrected. -/
def begin_ (s : State) (w : Where) (insn : Word) (reads : List Item) : Issue :=
  let ctx := ctxOf w w.st.pc insn none
  let r := scanItems w.st.scratch reads
  let s1 := bumpEv (countBlocked s w insn) (evCell Ev.issueBusy (cellNo w.st) false) ctx 1
  let s2 := modStation s1 w.slot w.idx (fun st => { st with scratch := r.mem, order := st.order + 1, blockedSince := none, waiting := .no,
                                                            stallReported := st.stallReported && st.waiting == .retry })
  let s3 := scratchFound s2 (cellNo w.st) ctx r.ce r.ue
  let st := { w.st with scratch := r.mem, blockedSince := none, waiting := .no }
  ⟨s3, { w with st := st, b := { w.b with stations := w.b.stations.set w.idx st } }, insn, r.bad⟩

/-- Pages that an instruction writes are saved for the checkpoints held (R215). -/
def savePagesAt (i : Issue) (items : List Item) : Issue :=
  if i.w.st.ckpts.isEmpty then i
  else
    let pages := pagesOf items
    let n := newPages i.w.st pages
    let s1 := modStation i.s i.w.slot i.w.idx (fun st => savePages st pages)
    { i with s := bumpEv s1 (evCell Ev.specPageSave (cellNo i.w.st) false) (ctxOf i.w i.w.st.pc i.insn none) n,
             w := { i.w with st := savePages i.w.st pages } }

/-- A station on `cell` issues the word `insn` of the row whose opcode is `opc`: nothing happens where the cell runs no
station that may issue that word now, or where R152 still holds it; a deferred tally fault not yet taken comes first (R161); an invalid word faults even when guarded off (R150); the
last word of the code faults where it would fall through; a guarded-off instruction only moves PC; under checkpoints a tally
instruction waits (R216), and so does a write that finds no page left (R217; COLLECT and
TRYCOLLECT see to theirs when they take a tile), or that `gate` holds back for another resource of R217. Else the body
runs. (DESIGN CHOICE, log entry 4; DEDUCED, log entry 13) -/
def issueGated (s : State) (cell : Nat) (insn : Word) (opc : Nat) (gate : Where → Bool) (body : Issue → State) : State :=
  match stationOn s cell with
  | none => s
  | some w =>
    if !mayIssue s w || w.st.code[w.st.pc / 4]? != some insn || fOpc insn != opc then s
    else if !w.st.deferred.isEmpty then settleDeferred s w.slot w.idx
    else if !validWord insn then (begin_ s w insn []).fault C.opcodeInvalid 0
    else if mustWait w.st insn then
      (if blockedByStack w.st insn && w.st.blockedSince.isNone then
        modStation s w.slot w.idx (fun st => { st with blockedSince := some (now s) }) else s)
    else if fallsThrough w.st insn then (begin_ s w insn []).fault C.pcRange (w.st.pc + 4)
    else if !guardTrue w.st insn then
      let i := begin_ s w insn []
      goOn i.s i.w id
    else if isTallyOp opc && !w.st.ckpts.isEmpty then waitResolution s w insn false
    else
      let writes := if opc = 0x28 ∨ opc = 0x2A then [] else (fullFootprint w.st insn).2
      if 64 < savedPages w.st + newPages w.st (pagesOf writes) ∨ gate w = true then waitResolution s w insn true
      else body (savePagesAt (begin_ s w insn (scanned w.st insn)) writes)

/-- An instruction with no resource of its own to wait for. -/
def issue (s : State) (cell : Nat) (insn : Word) (opc : Nat) (body : Issue → State) : State :=
  issueGated s cell insn opc (fun _ => false) body

/-- The tile handles that an instruction reads or writes through must be set (R172); the first unset one faults. (DEDUCED, log entry 13) -/
def needHandles (i : Issue) (ns : List Nat) (k : List Handle → State) : State :=
  match ns.find? (fun n => (getT i.w.st n).isNone) with
  | some n => i.fault C.handleUnset n
  | none => k (ns.filterMap (getT i.w.st))

/-- One handle needed. (DEDUCED, log entry 13) -/
def needHandle (i : Issue) (n : Nat) (k : Handle → State) : State :=
  match getT i.w.st n with
  | some h => k h
  | none => i.fault C.handleUnset n

end Sys2Proof.Machine
end

