-- ==== Sys2Proof/Machine/Scalar.lean ====
section
/-!
DEFINITION. Scalar and control instructions (R155, R156, R172, R250): one meaning each.
-/
namespace Sys2Proof.Machine
open Sys2Proof

/-- gd := a value (R141). -/
def setGd (i : Issue) (v : DWord) : State := goOn i.s i.w (fun st => setG st (fRD i.insn) v)
/-- ga and gb. -/
def Issue.ga (i : Issue) : DWord := getG i.w.st (fRA i.insn)
def Issue.gb (i : Issue) : DWord := getG i.w.st (fRB i.insn)
def Issue.gd (i : Issue) : DWord := getG i.w.st (fRD i.insn)
/-- imm, sign-extended to 64 bits (R149). -/
def Issue.imm (i : Issue) : DWord := BitVec.ofInt 64 (fImm i.insn)
/-- A shift amount n = IMM[5:0]. -/
def Issue.shift (i : Issue) : Nat := fImmU i.insn % 64

def execAlu (cell : Nat) (w : Word) (s : State) : Out :=
  done (issue s cell w 0x01 (fun i => setGd i (aluOp (fFN i.insn) i.ga i.gb)))
def execAddi (cell : Nat) (w : Word) (s : State) : Out := done (issue s cell w 0x02 (fun i => setGd i (i.ga + i.imm)))
def execAndi (cell : Nat) (w : Word) (s : State) : Out := done (issue s cell w 0x03 (fun i => setGd i (i.ga &&& i.imm)))
def execOri (cell : Nat) (w : Word) (s : State) : Out := done (issue s cell w 0x04 (fun i => setGd i (i.ga ||| i.imm)))
def execXori (cell : Nat) (w : Word) (s : State) : Out := done (issue s cell w 0x05 (fun i => setGd i (i.ga ^^^ i.imm)))
def execShli (cell : Nat) (w : Word) (s : State) : Out := done (issue s cell w 0x06 (fun i => setGd i (i.ga <<< i.shift)))
def execShri (cell : Nat) (w : Word) (s : State) : Out := done (issue s cell w 0x07 (fun i => setGd i (i.ga >>> i.shift)))
def execSari (cell : Nat) (w : Word) (s : State) : Out := done (issue s cell w 0x08 (fun i => setGd i (i.ga.sshiftRight i.shift)))
def execMovi (cell : Nat) (w : Word) (s : State) : Out :=
  done (issue s cell w 0x09 (fun i => setGd i (BitVec.ofInt 64 (fImm16 i.insn))))
def execMovs (cell : Nat) (w : Word) (s : State) : Out :=
  done (issue s cell w 0x0A (fun i => setGd i ((i.gd <<< 16) ||| BitVec.ofNat 64 (fImm16U i.insn))))
def execCmp (cell : Nat) (w : Word) (s : State) : Out :=
  done (issue s cell w 0x0B (fun i => goOn i.s i.w (fun st => setP st (fRD i.insn) (cmpHolds (fFN i.insn) i.ga i.gb))))
/-- CMPI: pd is RD[2:0], RD[4:3] the comparison. -/
def execCmpi (cell : Nat) (w : Word) (s : State) : Out :=
  done (issue s cell w 0x0C (fun i => goOn i.s i.w (fun st => setP st (fRD i.insn % 8) (cmpHolds (fRD i.insn / 8) i.ga i.imm))))
def execPlog (cell : Nat) (w : Word) (s : State) : Out :=
  done (issue s cell w 0x0D (fun i => goOn i.s i.w (fun st =>
    setP st (fRD i.insn) (plogOp (fFN i.insn) (getP st (fRA i.insn)) (getP st (fRB i.insn))))))

/-! ### Loads and stores -/

/-- DETAIL of an address: 0xFFFF_FFFF where it is negative or 2^32 or more (R172). -/
def addrDetail (a : Int) : Nat := if a < 0 ∨ (2 : Int) ^ 32 ≤ a then 0xFFFFFFFF else a.toNat
/-- An access of `size` bytes: within data scratch first, aligned second (R155, R172). (DEDUCED, log entry 13) -/
def needScratch (i : Issue) (a : Int) (size align : Nat) (k : Nat → State) : State :=
  if a < 0 ∨ (i.w.sr.scratch : Int) < a + size then i.fault C.scratchRange (addrDetail a)
  else if a.toNat % align ≠ 0 then i.fault C.scratchAlign a.toNat
  else k a.toNat
/-- A load: an uncorrectable word faults, keeping state where its slot's header carries POISON (R250). -/
def loadBody (size : Nat) (i : Issue) : State :=
  needScratch i (accessAddr i.w.st i.insn size) size size (fun a =>
    if badIn i.bad a size then
      (if inPoisonSlot i.w.st (a / 16) then i.fault C.memPoison 0 else i.fault C.memScratchUe a)
    else setGd i (BitVec.ofNat 64 (leNat (i.w.st.scratch.read a size))))
/-- A store (R237: a word smaller than 16 bytes is merged). -/
def storeBody (size : Nat) (i : Issue) : State :=
  needScratch i (accessAddr i.w.st i.insn size) size size (fun a =>
    goOn i.s i.w (fun st => { st with scratch := st.scratch.store a (leBytes size i.gd.toNat) }))

def execLd64 (cell : Nat) (w : Word) (s : State) : Out := done (issue s cell w 0x10 (loadBody 8))
def execLd32 (cell : Nat) (w : Word) (s : State) : Out := done (issue s cell w 0x11 (loadBody 4))
def execLd8 (cell : Nat) (w : Word) (s : State) : Out := done (issue s cell w 0x12 (loadBody 1))
def execSt64 (cell : Nat) (w : Word) (s : State) : Out := done (issue s cell w 0x13 (storeBody 8))
def execSt32 (cell : Nat) (w : Word) (s : State) : Out := done (issue s cell w 0x14 (storeBody 4))
def execSt8 (cell : Nat) (w : Word) (s : State) : Out := done (issue s cell w 0x15 (storeBody 1))

/-! ### Control -/

/-- PC moves to a target inside the code and a multiple of 4, else PC_RANGE with the target as DETAIL (R172). -/
def jumpTo (i : Issue) (target : Int) (f : Station → Station) : State :=
  if target < 0 ∨ (4 * i.w.st.code.length : Int) ≤ target ∨ target % 4 ≠ 0 then i.fault C.pcRange (BitVec.ofInt 32 target).toNat
  else modStation i.s i.w.slot i.w.idx (fun st => { f st with pc := target.toNat })
/-- The target of a branch: words from the branch itself. -/
def branchTarget (i : Issue) : Int := (i.w.st.pc : Int) + 4 * fOff i.insn

def execBr (cell : Nat) (w : Word) (s : State) : Out := done (issue s cell w 0x18 (fun i => jumpTo i (branchTarget i) id))
/-- CALL: the return address goes to g31. -/
def execCall (cell : Nat) (w : Word) (s : State) : Out :=
  done (issue s cell w 0x19 (fun i => jumpTo i (branchTarget i) (fun st => setG st 31 (BitVec.ofNat 64 (i.w.st.pc + 4)))))
def execJr (cell : Nat) (w : Word) (s : State) : Out := done (issue s cell w 0x1A (fun i => jumpTo i i.ga.toNat id))

/-- A word with a reserved opcode faults (R150, R164). -/
def execReservedOpcode (cell : Nat) (w : Word) (s : State) : Out :=
  done (if listedOpcode (fOpc w) then s else issue s cell w (fOpc w) (fun i => i.s))

end Sys2Proof.Machine
end

