-- ==== Sys2Proof/Machine/TileOps.lean ====
section
/-!
DEFINITION. Tile instructions in scratch (R144, R157, R158, R249, R250).
-/
namespace Sys2Proof.Machine
open Sys2Proof

/-- TSET: the slot lies wholly in data scratch at a multiple of 32 (R144), a rounding end is an output end. -/
def execTset (cell : Nat) (w : Word) (s : State) : Out :=
  done (issue s cell w 0x20 (fun i =>
    needScratch i i.ga.toNat slotBytes 32 (fun a =>
      let rb := fRB i.insn
      if rb ≠ 0 ∧ (outputEnds i.w.b.img i.w.idx).length ≤ rb % 16 then i.fault C.endInvalid rb
      else goOn i.s i.w (fun st =>
        { st with t := SMap.insert st.t (fRD i.insn) ⟨a, if rb = 0 then none else some (rb % 16)⟩ }))))

/-- A header field by its selector (R158). -/
def headerField (h : TileHeader) (sel : Nat) : Nat :=
  match sel with
  | 0 => h.streamId.toNat
  | 1 => h.seq.toNat
  | 2 => h.frame.toNat
  | 3 => h.format.toNat
  | 4 => h.shape.toNat
  | 5 => h.flags.toNat
  | 6 => b2n (h.flag flagLast)
  | 7 => b2n (h.flag flagKeyframe)
  | 8 => h.postmark.toNat
  | 9 => h.tileScale.toNat
  | 10 => h.len.toNat
  | 11 => h.index.toNat
  | _ => h.origin.toNat

/-- THDR.R: a header word found uncorrectable has POISON set as it is read, without fault (R249, R250). -/
def execThdrR (cell : Nat) (w : Word) (s : State) : Out :=
  done (issue s cell w 0x21 (fun i =>
    needHandle i (fRA i.insn) (fun h =>
      setGd i (BitVec.ofNat 64 (headerField (TileHeader.ofBytes (i.w.st.scratch.read h.addr 32)) (fImmU i.insn))))))

/-- The bytes that THDR.W stores and their place in the header (R158). -/
def headerStore (h : TileHeader) (sel : Nat) (v : DWord) : Nat × List Byte :=
  let x := v.toNat
  match sel with
  | 2 => (8, leBytes 4 x)
  | 3 => (12, leBytes 1 x)
  | 4 => (13, leBytes 1 x)
  | 6 => (14, leBytes 2 (h.setFlag flagLast (bitAt x 0)).flags.toNat)
  | 7 => (14, leBytes 2 (h.setFlag flagKeyframe (bitAt x 0)).flags.toNat)
  | 9 => (20, leBytes 2 x)
  | 10 => (22, leBytes 2 x)
  | _ => (24, leBytes 4 (x % 2 ^ 24))

def execThdrW (cell : Nat) (w : Word) (s : State) : Out :=
  done (issue s cell w 0x22 (fun i =>
    needHandle i (fRD i.insn) (fun h =>
      let r := headerStore (TileHeader.ofBytes (i.w.st.scratch.read h.addr 32)) (fImmU i.insn) i.ga
      goOn i.s i.w (fun st => { st with scratch := st.scratch.store (h.addr + r.1) r.2 }))))

/-- TCOPY: words are carried with their check fields (R232); POISON is set in the slot and in the copy where a word is
uncorrectable (R249). -/
def execTcopy (cell : Nat) (w : Word) (s : State) : Out :=
  done (issue s cell w 0x23 (fun i =>
    needHandles i [fRA i.insn, fRD i.insn] (fun hs =>
      match hs with
      | [a, d] => goOn i.s i.w (fun st =>
          let r := st.scratch.readSlot a.addr true
          { st with scratch := r.mem.writeSlot d.addr r.tile })
      | _ => i.s)))

def execTzero (cell : Nat) (w : Word) (s : State) : Out :=
  done (issue s cell w 0x24 (fun i =>
    needHandle i (fRD i.insn) (fun d => goOn i.s i.w (fun st => { st with scratch := st.scratch.wipe d.addr slotBytes }))))

/-- The check of a CVT in the order of R137. -/
def cvtCheck (fn : Nat) (t : Tile) (bad : Bool) : Option Nat :=
  if !(computable t.fmt && computable fn) then some C.tileFormat
  else if !(shapeOk t.fmt t.shape && countFits fn t.count) then some C.tileShape
  else if t.poisoned || bad then some C.memPoison
  else none

/-- CVT: every header field comes from ta but FORMAT, LEN and TILE_SCALE; the result rounds by td's rounding end (R157). -/
def execCvt (cell : Nat) (w : Word) (s : State) : Out :=
  done (issue s cell w 0x25 (fun i =>
    needHandles i [fRA i.insn, fRD i.insn] (fun hs =>
      match hs with
      | [a, d] =>
        let fn := fFN i.insn
        let t := slotTile i.w.st.scratch a.addr
        (match cvtCheck fn t (badIn i.bad a.addr slotBytes || (isSbFmt fn && badIn i.bad d.addr 32)), fmtInfo fn with
          | some c, _ => i.fault c 0
          | none, none => i.s
          | none, some fi =>
            let ts := (TileHeader.ofBytes (i.w.st.scratch.read d.addr 32)).tileScale.toNat
            let e := encodeElems fn fi (handleMode i.w.st d.roundEnd) i.w.st.gen ts t.values
            let s1 := arithEvents i.s (cellNo i.w.st) (ctxOf i.w i.w.st.pc i.insn none) e.cnt
            goOn s1 i.w (fun st => { st with scratch := putTile d.addr (resultTile t fn t.shape e) st.scratch, gen := e.gen }))
      | _ => i.s)))

end Sys2Proof.Machine
end

