-- ==== Sys2Proof/Machine/BlockInsn.lean ====
section
/-!
DEFINITION. Tensor and vector instructions at issue (R163, R178 to R189, R194). They run in their blocks and complete by
BLOCK_INSTRUCTION_COMPLETE.
-/
namespace Sys2Proof.Machine
open Sys2Proof

/-- A block instruction enters its block, the generator moved on by its draws. -/
def enterBlock (i : Issue) (o : BlockOp) (g : Gen) : State :=
  goOn i.s i.w (fun st => { st with blockOps := st.blockOps ++ [o], gen := g })
/-- The footprint of an instruction at issue. -/
def Issue.fp (i : Issue) : List Item × List Item := fullFootprint i.w.st i.insn

def execAccz (cell : Nat) (w : Word) (s : State) : Out :=
  done (issue s cell w 0x50 (fun i => goOn i.s i.w (fun st => { st with acc := Acc.clear })))

def execMma (cell : Nat) (w : Word) (s : State) : Out :=
  done (issue s cell w 0x51 (fun i =>
    needHandles i [fRA i.insn, fRB i.insn] (fun hs =>
      match hs with
      | [ha, hb] =>
        let a := slotTile i.w.st.scratch ha.addr
        let b := slotTile i.w.st.scratch hb.addr
        (match mmaCheck (fFN i.insn) a b i.w.st.acc (badIn i.bad ha.addr slotBytes || badIn i.bad hb.addr slotBytes) with
          | some c => i.fault c 0
          | none => enterBlock i (mmaOp i.w.st i.insn a b i.fp.1 i.fp.2) i.w.st.gen)
      | _ => i.s)))

def execAccrd (cell : Nat) (w : Word) (s : State) : Out :=
  done (issue s cell w 0x52 (fun i =>
    needHandle i (fRD i.insn) (fun d =>
      let t := slotTile i.w.st.scratch d.addr
      match accrdCheck (fFN i.insn) (fRB i.insn) i.w.st.acc (t.poisoned || badIn i.bad d.addr 32) with
      | some c => i.fault c 0
      | none =>
        let o := accrdOp i.w.st i.insn d.addr d.roundEnd t i.fp.1 i.fp.2
        enterBlock i o.1 o.2)))

/-- A V operation at issue in the working format of its row. -/
def vecBody (f64 : Bool) (i : Issue) : State :=
  match vopInfo (fFN i.insn) with
  | none => i.s
  | some o =>
    needHandles i ([fRA i.insn] ++ (if o.readsB then [fRB i.insn] else []) ++ [fRD i.insn]) (fun hs =>
      match hs.head?, hs.getLast? with
      | some ha, some hd =>
        let hb := if o.readsB then (hs[1]?).getD ha else ha
        let m := i.w.st.scratch
        let a := slotTile m ha.addr
        let b := slotTile m hb.addr
        let d := slotTile m hd.addr
        let bad := badIn i.bad ha.addr slotBytes || (o.readsB && badIn i.bad hb.addr slotBytes) ||
          badIn i.bad hd.addr (if o.readsD then slotBytes else 32)
        (match vecCheck (fFN i.insn) o a b d bad with
          | some c => i.fault c 0
          | none =>
            let op := vecOp i.w.st i.insn f64 o hd.addr hd.roundEnd a b d i.fp.1 i.fp.2
            enterBlock i op.1 op.2)
      | _, _ => i.s)

def execVOpF32 (cell : Nat) (w : Word) (s : State) : Out := done (issue s cell w 0x58 (vecBody false))
def execVOpF64 (cell : Nat) (w : Word) (s : State) : Out := done (issue s cell w 0x59 (vecBody true))

end Sys2Proof.Machine
end

