-- ==== Sys2Proof/Machine/Ends.lean ====
section
/-!
DEFINITION. Stream instructions and what completes them (R48, R52 to R54, R159, R200, R211, R213, R215, R386).
-/
namespace Sys2Proof.Machine
open Sys2Proof

/-! ### Taking a tile (R53, R159, R215) -/

/-- An input end of a station: stream, consumer entry, and what stands there. -/
structure InEnd where
  si : Nat
  ci : Nat
  rec_ : StreamRec
  cons : ConsumerRec
  x : Stream
  e : ConsEnd
  deriving DecidableEq, Repr

def inEnd (b : Bundle) (idx n : Nat) : Option InEnd :=
  match (inputEnds b.img idx)[n]? with
  | none => none
  | some p => match b.img.streams[p.1]?, b.streams[p.1]? with
    | some r, some x => match r.cons[p.2]?, x.ends[p.2]? with
      | some c, some e => some ⟨p.1, p.2, r, c, x, e⟩
      | _, _ => none
    | _, _ => none

/-- Whether consuming the oldest tile needs a new checkpoint: it is provisional and unresolved, and the end holds none
(R215). -/
def needsCkpt (st : Station) (n : Nat) (ie : InEnd) (t : Tile) : Bool := !hasCkpt st n && unresolved ie.x t.hdr.seq

/-- Whether the checkpoints and pages that a consumption needs are there (R217). -/
def takeRoom (st : Station) (n : Nat) (ie : InEnd) (t : Tile) (writes : List Item) : Bool :=
  let new := needsCkpt st n ie t
  let pages := pagesOf writes
  (!new || decide (st.ckpts.length < 8)) &&
  decide (savedPages st + newPages st pages + (if new then pages.length else 0) ≤ 64)

/-- The oldest tile is taken into a slot: a checkpoint if one is needed, the pages saved, the entry freed or retained, the
tile's words carried with their check fields, through the corrector of the scratch that holds the queue (R53, R234). -/
def takeTile (s : State) (w : Where) (n : Nat) (ie : InEnd) (h : Handle) (t : Tile) (insn : Word) : State :=
  let new := needsCkpt w.st n ie t
  let st1 := if new then takeCkpt w.st n else w.st
  let st2 := if hasCkpt st1 n then cover st1 n t.hdr.seq else st1
  let pages := pagesOf [.bytes h.addr slotBytes]
  let saved := newPages st2 pages
  let q := correctedTile t
  let st3 := savePages st2 pages
  let cell := cellNo w.st
  let ctx := ctxOf w w.st.pc insn none
  let s1 := modStation s w.slot w.idx (fun st => { st with ckpts := st3.ckpts, ckptNext := st3.ckptNext, scratch := st.scratch.writeSlot h.addr q.tile })
  let s2 := scratchFound (modEnd s1 w.slot ie.si ie.ci (fun e => { e with queue := takeHead (st3.ckpts.map (·.id)) q.tile e.queue })) cell ctx q.ce q.ue
  let s3 := bumpEv s2 (evCell Ev.specCheckpoint cell false) ctx (b2n new)
  bumpEv s3 (evCell Ev.specPageSave cell false) ctx (if st3.ckpts.isEmpty then 0 else saved)

/-- Whether a COLLECT or TRYCOLLECT must wait for checkpoints or pages before it can take the tile that is there (R217). -/
def takeGate (insn : Word) (w : Where) : Bool :=
  match inEnd w.b w.idx (fRA insn), getT w.st (fRD insn) with
  | some ie, some h => (match headTile ie.e with
      | some t => !ie.e.broken && !takeRoom w.st (fRA insn) ie t [.bytes h.addr slotBytes]
      | none => false)
  | _, _ => false

/-- COLLECT: waits while the end is empty; a broken end faults (R55). -/
def execCollect (cell : Nat) (w : Word) (s : State) : Out :=
  done (issueGated s cell w 0x28 (takeGate w) (fun i =>
    needHandle i (fRD i.insn) (fun h =>
      match inEnd i.w.b i.w.idx (fRA i.insn) with
      | none => i.fault C.endInvalid (fRA i.insn)
      | some ie =>
        if ie.e.broken then i.fault C.streamGap 0
        else match headTile ie.e with
          | none => startWait i (.collect (fRA i.insn))
          | some t => goOn (takeTile i.s i.w (fRA i.insn) ie h t i.insn) i.w id)))

/-- COLLECT_TILE_ARRIVED: the station that waits in COLLECT takes the tile. -/
def execCollectTileArrived (cell : Nat) (s : State) : Out :=
  done (match stationOn s cell with
    | none => s
    | some w => match w.st.run, w.st.waiting with
      | .running, .collect n =>
        (match inEnd w.b w.idx n, getT w.st (fRD w.st.waitInsn) with
          | some ie, some h => match headTile ie.e with
            | none => s
            | some t =>
              if takeRoom w.st n ie t [.bytes h.addr slotBytes] then
                endWait (takeTile s w n ie h t w.st.waitInsn) w id
              else waitResolution (stallCount s w) w w.st.waitInsn true
          | _, _ => s)
      | _, _ => s)

/-- TRYCOLLECT: takes a tile if one is queued, and says so in pd. -/
def execTrycollect (cell : Nat) (w : Word) (s : State) : Out :=
  done (issueGated s cell w 0x2A (takeGate w) (fun i =>
    needHandle i (fRD i.insn) (fun h =>
      match inEnd i.w.b i.w.idx (fRA i.insn) with
      | none => i.fault C.endInvalid (fRA i.insn)
      | some ie =>
        if ie.e.broken then i.fault C.streamGap 0
        else match headTile ie.e with
          | none => goOn i.s i.w (fun st => setP st (fRB i.insn) false)
          | some t => goOn (takeTile i.s i.w (fRA i.insn) ie h t i.insn) i.w (fun st => setP st (fRB i.insn) true))))

/-! ### Posting (R48, R52) -/

/-- An output end of a station: stream, record and what stands there. -/
def outEnd (b : Bundle) (idx n : Nat) : Option (Nat × StreamRec × Stream) :=
  match (outputEnds b.img idx)[n]? with
  | none => none
  | some si => match b.img.streams[si]?, b.streams[si]? with
    | some r, some x => some (si, r, x)
    | _, _ => none

/-- Why a tile may not be posted on an end, in order: the header (R48), then the rules of a delta (R200) or a collective
stream (R386); status and DETAIL. -/
def postFault (r : StreamRec) (x : Stream) (h : TileHeader) : Option (Nat × Nat) :=
  match headerFault r.format h with
  | some c => some (c, 0)
  | none =>
    if r.kind = 2 then deltaBreach (DeltaParam.parse r.param) x.delta h
    else if r.kind = 3 then (if collBreach (CollParam.parse r.param) x.coll h then some (C.collPost, h.index.toNat) else none)
    else none

/-- Counts of a delta end (R226). -/
def deltaCount (s : State) (w : Where) (insn : Word) (sent key : Bool) : State :=
  let ctx := ctxOf w w.st.pc insn none
  let cell := cellNo w.st
  let s1 := bumpEv s (evCell (if sent then Ev.deltaSent else Ev.deltaSuppressed) cell false) ctx 1
  bumpEv s1 (evCell Ev.keyframeSent cell false) ctx (b2n (sent && key))

/-- POST: the header is checked; a tile that its delta end suppresses completes at once; any other waits for its first
hop, and for its turn under R211. -/
def execPost (cell : Nat) (w : Word) (s : State) : Out :=
  done (issue s cell w 0x29 (fun i =>
    needHandle i (fRA i.insn) (fun h =>
      match outEnd i.w.b i.w.idx (fRD i.insn) with
      | none => i.fault C.endInvalid (fRD i.insn)
      | some (si, r, x) =>
        let sr := i.w.st.scratch.readSlot h.addr true
        let i1 : Issue := { i with s := modStation i.s i.w.slot i.w.idx (fun st => { st with scratch := sr.mem }),
                                   w := { i.w with st := { i.w.st with scratch := sr.mem } } }
        let t := trimmedTile sr.tile
        match postFault r x t.hdr with
        | some (c, d) => i1.fault c d
        | none =>
          let full := specOf i.w.b.img i.w.idx != 0 && decide (8 ≤ x.prov.length)
          let wait := startWait { i1 with s := if full then resourceWait i1.s else i1.s } (.post (fRD i.insn))
          if r.kind = 2 then
            match deltaView i1.s i.w.slot si t with
            | none => wait
            | some v => match v.act.send with
              | some _ => wait
              | none => goOn (deltaCount (deltaApply v i.w.slot si t false) i1.w i.insn false false) i1.w id
          else wait)))

/-- The place of the POST that a station waits in, in its program order. -/
def postOrder (w : Where) : Nat := w.st.order - 1
/-- A provisional tile enters its end: under way inside the region, or held in the spill reserve; what a LAST tile completes
waits until it is resolved (R210, R212, R213). -/
def postProvisional (s : State) (w : Where) (si : Nat) (r : StreamRec) (x : Stream) (t : Tile) : State :=
  let t1 := postHeader s r (cellNo w.st) (if r.kind = 3 then x.coll.postSeq else x.nextSeq) true t
  let held := isHeld w.b.img r
  let s1 := modStream s w.slot si (fun x => { x with
    nextSeq := if r.kind = 3 then x.nextSeq else x.nextSeq + 1
    coll := if r.kind = 3 then x.coll.enter t1 else x.coll
    prov := x.prov ++ [⟨t1.hdr.seq, postOrder w, false, w.st.ckpts.map (·.id), held, t1⟩] })
  if held then s1 else launch s1 w.slot si t1

/-- A tile posted outside every region (R43, R47, R52), on a collective stream into its staging slot (R386). -/
def postPlain (s : State) (w : Where) (si : Nat) (r : StreamRec) (x : Stream) (t : Tile) : State :=
  let t1 := postHeader s r (cellNo w.st) (if r.kind = 3 then x.coll.postSeq else x.nextSeq) false t
  let s1 := if r.kind = 3 then collPost s w.slot si t1
    else launch (modStream s w.slot si (fun x => { x with nextSeq := x.nextSeq + 1 })) w.slot si t1
  completion s1 w.slot w.idx (postOrder w) r t1

/-- Whether a hop is one that a cell's own tile makes first: through the mesh of its die (R28, R52). -/
def firstHop (x : FirstHop) : Bool :=
  x.hop.die == dieOf x.cell && (match x.hop.link with | .mesh _ => true | _ => false)

/-- POST_FIRST_HOP_ACCEPT: the first hop takes the tile of the POST that waits, unless R211 or R386 still holds it; what the hop
met is counted, and a word that fails its check three times more is taken as it is (R233). (DESIGN CHOICE, log entry 17) -/
def execPostFirstHopAccept (first : FirstHop) (s : State) : Out :=
  done (match stationOn s first.cell with
    | none => s
    | some w => match w.st.run, w.st.waiting with
      | .running, .post n =>
        (match outEnd w.b w.idx n, getT w.st (fRA w.st.waitInsn) with
          | some (si, r, x), some h =>
            if !firstHop first || !hopOpen s first.hop then s
            else
              let t := hopTile first.hop (trimmedTile (w.st.scratch.readSlot h.addr true).tile)
              let spec := specOf w.b.img w.idx != 0
              if (decide (r.kind = 3) && !collFree x (CollParam.parse r.param)) || (spec && decide (8 ≤ x.prov.length)) then s
              else
                let s0 := hopCounts s first.hop
                if r.kind = 2 then
                  match deltaView s0 w.slot si t with
                  | none => s
                  | some v0 =>
                    let v := { v0 with st := arithEvents v0.st first.cell (ctxOf w w.st.pc w.st.waitInsn none) v0.act.cnt }
                    match v.act.send with
                    | none => endWait (deltaCount (deltaApply v w.slot si t false) w w.st.waitInsn false false) w id
                    | some q =>
                      let q1 := q.setFlag flagKeyframe v.d.key
                      endWait (deltaCount (postPlain (deltaApply v w.slot si t true) w si r x q1) w w.st.waitInsn true v.d.key) w id
                else if spec then endWait (postProvisional s0 w si r x t) w id
                else endWait (postPlain s0 w si r x t) w id
          | _, _ => s)
      | _, _ => s)

/-! ### End control and status (R147, R159) -/

/-- ENDCTL: a store smaller than a word, which reads the word that holds the control word, merges and writes it back: one that
was uncorrectable stays poison-marked, without fault (R237). -/
def execEndctl (cell : Nat) (w : Word) (s : State) : Out :=
  done (issue s cell w 0x2B (fun i =>
    let v := i.ga.toNat % 2 ^ 32
    let n := fRD i.insn
    if (outEnd i.w.b i.w.idx n).isNone ∨ 2 ≤ v then i.fault C.endInvalid n
    else
      let r := (ctlMem i.w.st).scrub (4 * n) 4
      let s1 := goOn i.s i.w (fun st =>
        let st1 := setCtlMem st r.mem
        { st1 with endCtl := SMap.setD st1.endCtl n (BitVec.ofNat 32 v) 0#32 })
      scratchFound s1 (cellNo i.w.st) (ctxOf i.w i.w.st.pc i.insn none) r.ce r.ue))

/-- ENDSTAT of an output end: certainly 0 where R211 or R386 would hold a POST; else what the traffic allows at that
instant, an open value. (DEDUCED, log entry 16) -/
def execEndstat (cell : Nat) (w : Word) (s : State) : Out :=
  done (issue s cell w 0x2C (fun i =>
    let ra := fRA i.insn
    if ra < 16 then
      match inEnd i.w.b i.w.idx ra with
      | none => i.fault C.endInvalid ra
      | some ie => setGd i (BitVec.ofNat 64 (queued ie.e))
    else
      match outEnd i.w.b i.w.idx (ra - 16) with
      | none => i.fault C.endInvalid ra
      | some (_, r, x) =>
        let held := (r.kind = 3 ∧ collFree x (CollParam.parse r.param) = false) ∨
                    (specOf i.w.b.img i.w.idx ≠ 0 ∧ 8 ≤ x.prov.length)
        if held then setGd i 0#64
        else
          let (v, s1) := takeFree i.s
          setGd { i with s := s1 } (v &&& 1#64)))

/-! ### Stall limits (R54) -/

/-- The stream, its stall limit in ms and its end, of the COLLECT or POST in which a station waits. -/
def stallEnd (w : Where) : Option (StreamRec × Nat × Nat) :=
  match fOpc w.st.waitInsn with
  | 0x28 => (inEnd w.b w.idx (fRA w.st.waitInsn)).map (fun e => (e.rec_, e.cons.stall, fRA w.st.waitInsn))
  | 0x2A => (inEnd w.b w.idx (fRA w.st.waitInsn)).map (fun e => (e.rec_, e.cons.stall, fRA w.st.waitInsn))
  | 0x29 => (outEnd w.b w.idx (fRD w.st.waitInsn)).map (fun e => (e.2.1, e.2.1.stall, 16 + fRD w.st.waitInsn))
  | _ => none

/-- STREAM_STALL_LIMIT: the wait of a station has passed its end's limit; reported once for each unbroken wait. (DESIGN CHOICE, log entry 5) -/
def execStreamStallLimit (cell : Nat) (s : State) : Out :=
  done (match stationOn s cell with
    | none => s
    | some w =>
      match (if w.st.waiting = .no then none else stallEnd w) with
      | none => s
      | some (r, limit, e) =>
        if limit = 0 ∨ w.st.stallReported = true then s
        else
          report (modStation s w.slot w.idx (fun st => { st with stallReported := true })) C.streamStalled (srcCell cell) w.handle
            (dName w.sr.name ++ d4 r.id ++ d4 e))

end Sys2Proof.Machine
end

