-- ==== Sys2Proof/Machine/Sha.lean ====
section
/-!
DEFINITION. SHA-256 (FIPS 180-4), HMAC-SHA-256 (RFC 2104) and HKDF-SHA-256 (RFC 5869), which R71, R73, R450 and R455 name:
external standards, computed so that a tag or a hash is judged and not guessed. The constants are computed from the primes
that the standard takes them from.
-/
namespace Sys2Proof.Machine
open Sys2Proof

/-- The greatest number whose `k`-th power is at most `n`, for a root of at most 41 bits, from its highest bit down. -/
def rootFloor (k n : Nat) : Nat := (List.range 41).foldl (fun r i => let x := r + 2 ^ (40 - i); if x ^ k ≤ n then x else r) 0
/-- The first 32 bits of the fractional part of a `k`-th root. -/
def rootFraction (k p : Nat) : Word := BitVec.ofNat 32 (rootFloor k (p * 2 ^ (32 * k)))
/-- The first 64 primes. -/
def firstPrimes : List Nat := (List.range 312).filter (fun n => decide (2 ≤ n) && (List.range 18).all (fun d => decide (d < 2) || n == d || n % d != 0))

/-- Three terms of a word under xor, as every mixing function of the standard has them. -/
def xor3 (x y z : Word) : Word := x ^^^ y ^^^ z
/-- A word turned right by three amounts. -/
def turns (i j k : Nat) (w : Word) : Word := xor3 (w.rotateRight i) (w.rotateRight j) (w.rotateRight k)
/-- A word turned right by two amounts and shifted by a third. -/
def turnsShift (i j k : Nat) (w : Word) : Word := xor3 (w.rotateRight i) (w.rotateRight j) (w >>> k)

/-- The words of a block: each four bytes, the first the most significant. -/
def blockWords (block : List Byte) : List Word :=
  (List.range 16).map (fun i => BitVec.ofNat 32 (leNat (slice block (4 * i) 4).reverse))
/-- One more word of the schedule before those there are, the newest first. -/
def schedule (newest : List Word) : List Word :=
  let back (n : Nat) : Word := (newest[n - 1]?).getD 0
  (turnsShift 17 19 10 (back 2) + back 7 + turnsShift 7 18 3 (back 15) + back 16) :: newest
/-- The 64 words that a block's rounds take. -/
def roundWords (block : List Byte) : List Word :=
  ((List.range 48).foldl (fun l _ => schedule l) (blockWords block).reverse).reverse

/-- A round on the eight words of a hash in progress: all move one place on, the first and the fifth are new. `x` is the sum of the
round's constant and its word. -/
def hashRound (v : List Word) (x : Word) : List Word :=
  let at_ (n : Nat) : Word := (v[n]?).getD 0
  let choice := at_ 6 ^^^ (at_ 4 &&& (at_ 5 ^^^ at_ 6))
  let majority := (at_ 0 &&& at_ 1) ||| (at_ 2 &&& (at_ 0 ||| at_ 1))
  let t := x + at_ 7 + choice + turns 6 11 25 (at_ 4)
  (t + majority + turns 2 13 22 (at_ 0)) :: modAt (v.take 7) 3 (· + t)
/-- One 64-byte block. -/
def hashBlock (v : List Word) (block : List Byte) : List Word :=
  let xs := List.zipWith (· + ·) (firstPrimes.map (rootFraction 3)) (roundWords block)
  List.zipWith (· + ·) v (xs.foldl hashRound v)

/-- Big-endian bytes. -/
def beBytes (n v : Nat) : List Byte := (leBytes n v).reverse
/-- SHA-256 of a message: a one bit, zeros and the length in bits fill the last block. -/
def sha256 (m : List Byte) : List Byte :=
  let blocks := (m.length + 72) / 64
  let text := padTo (64 * blocks - 8) (m ++ [0x80#8]) ++ beBytes 8 (8 * m.length)
  let v := (List.range blocks).foldl (fun v i => hashBlock v (slice text (64 * i) 64)) ((firstPrimes.take 8).map (rootFraction 2))
  v.flatMap (fun w => beBytes 4 w.toNat)

/-- HMAC-SHA-256. -/
def hmac (key m : List Byte) : List Byte :=
  let k := padTo 64 (if 64 < key.length then sha256 key else key)
  sha256 (k.map (· ^^^ 0x5C#8) ++ sha256 (k.map (· ^^^ 0x36#8) ++ m))

/-- HKDF-SHA-256, one block of 32 bytes. -/
def hkdf32 (secret salt info : List Byte) : List Byte := hmac (hmac salt secret) (info ++ [0x01#8])

end Sys2Proof.Machine
end

