-- ==== Sys2Proof/Machine/Verify.lean ====
section
/-!
DEFINITION. The bytes of a bundle and their verification (R71 to R74, R85, R207, R208, R214, R263 to R265, R296, R383 to
R385, R426, R461, R462): what each check is, in the order of R85, and the parsed bundle.
-/
namespace Sys2Proof.Machine
open Sys2Proof

/-! ### The section table (R72, R73) -/

/-- A section-table entry. -/
structure Section where
  type : Nat
  rsv : Nat
  off : Nat
  len : Nat
  count : Nat
  deriving DecidableEq, Repr

/-- Section types (R73). -/
def secStation : Nat := 1
def secStream : Nat := 2
def secRegion : Nat := 3
def secTally : Nat := 4
def secCode : Nat := 5
def secConst : Nat := 6
def secPlan : Nat := 7
def secLimits : Nat := 8
def secSpec : Nat := 9
def secSign : Nat := 15

def sectionAt (b : List Byte) (i : Nat) : Section :=
  let o := 64 + 16 * i
  ⟨fieldLE b o 2, fieldLE b (o + 2) 2, fieldLE b (o + 4) 4, fieldLE b (o + 8) 4, fieldLE b (o + 12) 4⟩
def sectionsOf (b : List Byte) : List Section := (List.range (fieldLE b 6 2)).map (sectionAt b)
def sectionOf (l : List Section) (t : Nat) : Option Section := l.find? (fun x => x.type == t)
/-- The body of a section; none of it where the section is absent. -/
def bodyOf (b : List Byte) (l : List Section) (t : Nat) : List Byte :=
  match sectionOf l t with
  | some x => slice b x.off x.len
  | none => []
def countOfSec (l : List Section) (t : Nat) : Nat := match sectionOf l t with | some x => x.count | none => 0

/-- Bytes of a kind's parameter block; 0 for a kind that has none. (DEDUCED, log entry 11) -/
def paramBytes (kind : Nat) : Nat :=
  match kind with
  | 2 => 32
  | 3 => 32
  | 4 => 16
  | 5 => 32
  | _ => 0

/-- Whether the tables and blocks that one STREAM record names lie within its section. -/
def streamBounds (body : List Byte) (i : Nat) : Bool :=
  let o := 32 * i
  let po := fieldLE body (o + 20) 4
  decide (fieldLE body (o + 16) 4 + 8 * fieldLE body (o + 12) 2 ≤ body.length) &&
  (po == 0 || decide (po + paramBytes (fieldLE body (o + 4) 1) ≤ body.length))

/-- Whether COUNT and LENGTH of a section agree (R72). -/
def countAgrees (b : List Byte) (x : Section) : Bool :=
  match x.type with
  | 1 => x.len == 64 * x.count
  | 2 => decide (32 * x.count ≤ x.len) && (List.range x.count).all (streamBounds (slice b x.off x.len))
  | 3 => x.len == 32 * x.count
  | 4 => x.len == 24 * x.count
  | 5 => x.len == 4 * x.count
  | 6 => x.len == 64 * x.count
  | 7 => x.count == fieldLE b (x.off + 4) 4 && x.len == 8 + 8 * x.count
  | 8 => x.count == 1 && x.len == 32
  | 9 => x.len == 8 * x.count
  | 15 => x.count == 1 && x.len == 7864
  | _ => false

/-- Whether no two sections of a list overlap. -/
def noOverlap : List Section → Bool
  | [] => true
  | x :: r => r.all (fun y => decide (x.off + x.len ≤ y.off) || decide (y.off + y.len ≤ x.off)) && noOverlap r
/-- Whether no type appears twice. -/
def noRepeat : List Nat → Bool
  | [] => true
  | x :: r => !r.contains x && noRepeat r

/-- R72 and R73 for the whole table of a bundle of `total` bytes. -/
def sectionsOk (b : List Byte) (total : Nat) : Bool :=
  let n := fieldLE b 6 2
  let l := sectionsOf b
  decide (3 ≤ n) && decide (n ≤ 10) && decide (64 + 16 * n ≤ total) &&
  l.all (fun x => x.rsv == 0 && x.off % 8 == 0 && decide (64 + 16 * n ≤ x.off) && decide (x.off + x.len ≤ total) && countAgrees b x) &&
  noRepeat (l.map (·.type)) && noOverlap l &&
  (sectionOf l secStation).isSome && (sectionOf l secCode).isSome && (sectionOf l secLimits).isSome &&
  ((sectionOf l secSign).isSome == bitAt (fieldLE b 12 4) 0) &&
  (match sectionOf l secSign with
    | some x => l.getLast? == some x && l.all (fun y => y.type == secSign || decide (y.off + y.len ≤ x.off))
    | none => true)

/-! ### Records -/

def parseStation (b : List Byte) : StationRec :=
  ⟨b.take 32, fieldLE b 32 4, fieldLE b 36 4, fieldLE b 40 4, fieldLE b 44 4, fieldLE b 48 2, fieldLE b 50 2,
   BitVec.ofNat 64 (fieldLE b 52 8)⟩
/-- A name of R12, padded with 0x00. -/
def nameOk (n : List Byte) : Bool :=
  let t := n.takeWhile (· != 0#8)
  decide (1 ≤ t.length) && decide (t.length ≤ 31) && t.all (fun c => decide (0x21 ≤ c.toNat) && decide (c.toNat ≤ 0x7E)) &&
  allZero (n.drop t.length)
def stationOk (b : List Byte) (codeLen specs : Nat) : Bool :=
  let r := parseStation b
  nameOk r.name && r.codeOff % 4 == 0 && decide (4 ≤ r.codeLen) && decide (r.codeLen ≤ 65536) && r.codeLen % 4 == 0 &&
  r.entry % 4 == 0 && decide (r.entry < r.codeLen) && decide (r.codeOff + r.codeLen ≤ codeLen) && decide (r.spec ≤ specs) &&
  allZero (slice b 60 4)

/-- A STREAM record of a section body, with its consumer table, parameter block and peer table. -/
def parseStream (body : List Byte) (i : Nat) : StreamRec :=
  let b := slice body (32 * i) 32
  let kind := fieldLE b 4 1
  let po := fieldLE b 20 4
  let param := if po = 0 then [] else slice body po (paramBytes kind)
  let cp := CollParam.parse param
  ⟨fieldLE b 0 4, kind, fieldLE b 5 1, fieldLE b 6 2, fieldLE b 8 2, fieldLE b 10 1, fieldLE b 11 1, fieldLE b 14 2,
   (List.range (fieldLE b 12 2)).map (fun k =>
     let e := slice body (fieldLE b 16 4 + 8 * k) 8
     ⟨fieldLE e 0 2, fieldLE e 2 1, fieldLE e 4 2⟩),
   po, param,
   if kind = 3 ∧ cp.peersOff % 8 = 0 ∧ cp.peersOff + 2 * cp.ranks ≤ body.length then
     (List.range cp.ranks).map (fun k => fieldLE body (cp.peersOff + 2 * k) 2) else []⟩

/-- How a stream's ends and REMOTE_VALID must agree (R49, R73, R426). A broadcast record has two consumer entries at least, also
where its producer lies on another module and one of its stations lies here (DESIGN CHOICE, log entry 22). -/
def streamEndsOk (r : StreamRec) : Bool :=
  let out (n : Nat) : Bool := n == 0xFFFF
  let servo := r.producer == 0xFFFE || r.cons.any (fun c => c.station == 0xFFFE)
  let outs := (r.cons.filter (fun c => out c.station)).length
  let one := r.cons.length == 1
  let shape := match r.kind with
    | 0 => one
    | 1 => decide (2 ≤ r.cons.length)
    | 4 => one
    | 5 => one
    | _ => true
  if servo then
    r.kind == 0 && one && r.format == 0x02 && r.remoteValid == 0 && outs == 0 && !out r.producer &&
    !(r.producer == 0xFFFE && r.cons.any (fun c => c.station == 0xFFFE))
  else if r.kind ≤ 2 then
    shape && (r.remoteValid == 1) == (out r.producer || outs != 0) && decide (outs ≤ 1) && !(out r.producer && outs != 0)
  else if r.kind = 3 then true
  else shape && r.remoteValid == 0 && out r.producer != (outs == 1)

/-- The checks of a STREAM record that give BND_RECORD. (DEDUCED, log entry 11; DESIGN CHOICE, log entry 22) -/
def streamOk (body : List Byte) (i stations : Nat) : Bool :=
  let b := slice body (32 * i) 32
  let r := parseStream body i
  let idx (n : Nat) : Bool := decide (n < stations) || n == 0xFFFF || n == 0xFFFE
  decide (r.kind ≤ 5) && isFmt r.format && idx r.producer && decide (r.remoteValid ≤ 1) &&
  (r.remoteValid == 0 || r.kind == 3 || decide (r.vc ≤ 3)) && decide (1 ≤ r.cons.length) && decide (r.cons.length ≤ 64) &&
  fieldLE b 16 4 % 8 == 0 && (r.kind == 4 || (r.paramOff == 0) == (paramBytes r.kind == 0)) && (r.kind != 2 || r.paramOff % 8 == 0) && allZero (slice b 24 8) &&
  (List.range r.cons.length).all (fun k =>
    let e := slice body (fieldLE b 16 4 + 8 * k) 8
    idx (fieldLE e 0 2) && decide (fieldLE e 2 1 ≤ 32) && allZero (slice e 3 1) && allZero (slice e 6 2)) &&
  streamEndsOk r &&
  (r.kind != 4 || r.paramOff == 0 || (decide (fieldLE r.param 0 2 ≤ 256) && allZero (slice r.param 2 14))) &&
  (r.kind != 5 || (allZero (slice r.param 2 6) && allZero (slice r.param 24 8))) &&
  (r.kind != 2 || (decide (fieldLE r.param 0 1 ≤ 1) && decide (fieldLE r.param 1 1 ≤ 15) && allZero (slice r.param 2 2) &&
    decide (1 ≤ fieldLE r.param 4 4) && decide (fieldLE r.param 4 4 ≤ 16777216) && decide (fieldLE r.param 12 4 ≤ 65535) &&
    allZero (slice r.param 28 4)))

def parseRegion (b : List Byte) : RegionRec := ⟨fieldLE b 0 2, fieldLE b 2 1, bitAt (fieldLE b 3 1) 0, fieldLE b 4 4, fieldLE b 8 4⟩
def parseConst (b : List Byte) : ConstRec := ⟨fieldLE b 0 1, fieldLE b 1 1, fieldLE b 8 8, fieldLE b 16 8, slice b 32 32⟩
/-- DESIGN CHOICE, log entry 22. -/
def regionOk (b : List Byte) (stations : Nat) (consts : List ConstRec) : Bool :=
  let r := parseRegion b
  decide (r.owner < stations) && decide (r.anyStack ≤ 1) && decide (fieldLE b 3 1 ≤ 1) && decide (1 ≤ r.slots) &&
  decide (r.const ≤ consts.length) && allZero (slice b 12 20) &&
  (r.const == 0 || (match consts[r.const - 1]? with | some c => decide (c.length ≤ r.slots * slotBytes) | none => false))
/-- DESIGN CHOICE, log entry 22. -/
def constOk (b : List Byte) : Bool :=
  let c := parseConst b
  decide (c.source ≤ 1) && isFmt c.format && c.length % slotBytes == 0 && allZero (slice b 2 6) && allZero (slice b 24 8)

def parseTally (b : List Byte) : TallyRec := ⟨fieldLE b 0 4, fieldLE b 4 2, fieldLE b 6 2, fieldLE b 8 4, fieldLE b 12 4, fieldLE b 16 4⟩
/-- R263 to R265. (DESIGN CHOICE, log entry 22) -/
def tallyOk (b : List Byte) (stations own : Nat) : Bool :=
  let r := parseTally b
  allZero (slice b 20 4) &&
  (if r.home = 0xFFFF then r.postcode != own && r.capacity == 0 && r.initial == 0 && r.epoch == 0
   else decide (r.home < stations) && r.postcode == 0 && decide (1 ≤ r.capacity) && decide (r.initial ≤ r.capacity) &&
     (r.epoch == 0xFFFFFFFF || decide (r.epoch ≤ r.capacity)))

def parsePlan (b : List Byte) : PlanRec :=
  ⟨bitAt (fieldLE b 0 2) 0, fieldLE b 2 2, (List.range (fieldLE b 4 4)).map (fun i =>
    let e := slice b (8 + 8 * i) 8
    ⟨fieldLE e 0 1, fieldLE e 1 2, fieldLE e 3 1⟩)⟩
/-- DESIGN CHOICE, log entry 22. -/
def planOk (b : List Byte) : Bool :=
  let p := parsePlan b
  decide (fieldLE b 0 2 ≤ 1) && decide (p.waitMs ≤ 60000) &&
  (List.range p.circuits.length).all (fun i =>
    let e := slice b (8 + 8 * i) 8
    decide (fieldLE e 0 1 ≤ 31) && decide (1 ≤ fieldLE e 3 1) && decide (fieldLE e 3 1 ≤ 8) && allZero (slice e 4 4))

def parseLimits (b : List Byte) : LimitsRec :=
  ⟨fieldLE b 0 4, fieldLE b 4 4, fieldLE b 8 2, fieldLE b 10 1, bitAt (fieldLE b 11 1) 0, fieldLE b 12 1,
   (if fieldLE b 16 4 = 0 then 100 else fieldLE b 16 4), fieldLE b 20 4⟩
/-- The LIMITS record (R73, R296). (DESIGN CHOICE, log entry 22) -/
def limitsOk (b : List Byte) (streams : List StreamRec) : Bool :=
  let l := parseLimits b
  decide (l.priority ≤ 7) && decide (fieldLE b 11 1 ≤ 1) && allZero (slice b 13 3) && allZero (slice b 24 8) &&
  decide (fieldLE b 16 4 ≤ 60000) && decide (l.frameStart ≤ 5) &&
  (if l.framePeriod = 0 then l.completion == 0
   else decide (100 ≤ l.framePeriod) && decide (l.framePeriod ≤ 10000000) && decide (l.slack < l.framePeriod) &&
     streams.any (fun r => r.id == l.completion && decide (r.producer < 0xFFFE))) &&
  (l.frameStart != 5 || streams.any (fun r => r.kind == 4 && r.producer == 0xFFFF))

/-! ### Parameters of delta streams, speculation regions and collective streams (R208, R214, R385) -/

/-- FP32 finite and not negative. -/
def finiteNonNeg (x : Nat) : Bool :=
  let v := fp32.decode x
  !v.isNaN && !v.isInf && !(v.neg? && !v.isZero) && decide (x < 2 ^ 31)
/-- R208 for one delta stream; what it says of the producer is judged where the producer is a station of the bundle. -/
def deltaOk (img : BundleImg) (i : Nat) (r : StreamRec) : Bool :=
  let p := DeltaParam.parse r.param
  finiteNonNeg p.threshold && finiteNonNeg p.boundLimit && finiteNonNeg p.drift && finiteNonNeg p.gain && r.format != 0 &&
  (decide (0xFFFE ≤ r.producer) ||
    ((match ((stationRegions img r.producer)[p.store]?).bind (fun k => img.regions[k]?) with
        | some g => !g.readOnly && decide (p.frameTiles ≤ g.slots)
        | none => false) &&
     (!isSource img r || !p.diff) && specOf img r.producer == 0 &&
     (withIdx img.streams).all (fun q => q.1 == i || q.2.kind != 2 || q.2.producer != r.producer || (DeltaParam.parse q.2.param).store != p.store)))
/-- R385 for one collective stream. -/
def collOk (img : BundleImg) (own : Nat) (r : StreamRec) : Bool :=
  let p := CollParam.parse r.param
  decide (p.op ≤ 3) && decide (p.staging ≤ 15) && decide (2 ≤ p.ranks) && decide (p.ranks ≤ 16384) && decide (p.rank < p.ranks) &&
  decide (fieldLE r.param 6 2 ≤ 60000) && decide (1 ≤ p.tiles) && decide (p.tiles ≤ 16777216) && allZero (slice r.param 16 16) &&
  r.peers.length == p.ranks && r.peers[p.rank]? == some own && noRepeat r.peers &&
  decide (r.producer < img.stations.length) && r.cons.map (·.station) == [r.producer] &&
  r.remoteValid == 0 && decide (r.vc ≤ 1) && r.format != 0 &&
  (match ((stationRegions img r.producer)[p.staging]?).bind (fun k => img.regions[k]?) with
    | some g => !g.readOnly && decide (p.slots ≤ g.slots)
    | none => false) &&
  decide (p.steps * p.width ≤ 2 ^ 32) && (decide (p.op ≤ 1) || decide (p.ranks * p.tiles ≤ 2 ^ 24))
/-- R214 for every speculation region. -/
def specOk (img : BundleImg) : Bool := (withIdx img.spill).all (fun p => decide (8 * boundaryCount img (p.1 + 1) ≤ p.2))

/-! ### The whole verification, in the order of R85 -/

/-- The parsed bundle. -/
def parseBundle (b : List Byte) : BundleImg :=
  let l := sectionsOf b
  let recs (t size : Nat) : List (List Byte) := (List.range (countOfSec l t)).map (fun i => slice (bodyOf b l t) (size * i) size)
  ⟨b, fieldLE b 48 8, (recs secStation 64).map parseStation,
   (List.range (countOfSec l secStream)).map (parseStream (bodyOf b l secStream)), (recs secRegion 32).map parseRegion,
   (recs secTally 24).map parseTally, wordsOf (bodyOf b l secCode), (recs secConst 64).map parseConst,
   (sectionOf l secPlan).map (fun _ => parsePlan (bodyOf b l secPlan)), parseLimits (bodyOf b l secLimits),
   (recs secSpec 8).map (fun r => fieldLE r 0 4)⟩

/-- Whether every record of a bundle is in range, with nothing named that is not there (R50, R61, R73, R85, R265, R296). (DESIGN CHOICE, log entry 22) -/
def recordsOk (b : List Byte) (img : BundleImg) (own : Nat) : Bool :=
  let l := sectionsOf b
  let recs (t size : Nat) : List (List Byte) := (List.range (countOfSec l t)).map (fun i => slice (bodyOf b l t) (size * i) size)
  let n := img.stations.length
  (recs secStation 64).all (fun r => stationOk r (4 * img.code.length) img.spill.length) &&
  (List.range img.streams.length).all (fun i => streamOk (bodyOf b l secStream) i n) &&
  (recs secRegion 32).all (fun r => regionOk r n img.consts) &&
  decide (img.tallies.length ≤ 65536) && (recs secTally 24).all (fun r => tallyOk r n own) &&
  (recs secConst 64).all constOk && (img.plan.isNone || planOk (bodyOf b l secPlan)) &&
  limitsOk (bodyOf b l secLimits) img.streams && (recs secSpec 8).all (fun r => allZero (slice r 4 4)) &&
  (match sectionOf l secSign with | some x => allZero (slice b (x.off + 4) 4) | none => true) &&
  noRepeat (img.streams.map (·.id)) && noRepeat (img.tallies.map (·.id)) && (img.stations.map (·.name)).Nodup

/-- The key that KEY_INDEX names, of a kind among those given (R534). -/
def keyOf (s : State) (kinds : List Nat) (i : Nat) : Option (List Byte) :=
  match s.sec.keys[i]? with
  | some k => if kinds.contains k.kind then some k.key else none
  | none => none

/-- The signature of R73 and R74: none where it passes. -/
def signFault (s : State) (b : List Byte) : Option Nat :=
  match sectionOf (sectionsOf b) secSign with
  | none => if fld s F.secCtlReqSigned = 1 then some C.signMissing else none
  | some x =>
    match keyOf s [3] (fieldLE b x.off 4) with
    | some k => if Config.slhVerify k (b.take 64) (slice b (x.off + 8) 7856) then none else some C.signBad
    | none => some C.signBad

/-- Verification (R85): the parsed bundle, or the first failure. (DESIGN CHOICE, log entry 22) -/
def verifyBundle (s : State) (b : List Byte) : Except Nat BundleImg :=
  if b.take 4 ≠ [0x5A#8, 0x46#8, 0x42#8, 0x31#8] then .error C.bndMagic
  else if fieldLE b 4 2 ≠ 1 then .error C.bndVersion
  else if fieldLE b 8 4 ≠ b.length ∨ 268435456 < b.length then .error C.bndLength
  else if 2 ≤ fieldLE b 12 4 ∨ allZero (slice b 56 8) = false then .error C.bndRecord
  else if sectionsOk b b.length = false then .error C.bndSection
  else
    let l := sectionsOf b
    let end_ := match sectionOf l secSign with | some x => x.off | none => b.length
    if sha256 (slice b 64 (end_ - 64)) ≠ slice b 16 32 then .error C.bndHash
    else match signFault s b with
      | some c => .error c
      | none =>
        let img := parseBundle b
        if recordsOk b img (postcode s) = false then .error C.bndRecord
        else if (withIdx img.streams).any (fun p => p.2.kind == 2 && !deltaOk img p.1 p.2) then .error C.deltaParam
        else if specOk img = false then .error C.specParam
        else if img.streams.any (fun r => r.kind == 3 && !collOk img (postcode s) r) then .error C.collParam
        else .ok img

end Sys2Proof.Machine
end

