-- ==== Sys2Proof/Machine/Placer.lean ====
section
/-!
DEFINITION. The fit check and the placer (R59, R60, R83 to R89, R94, R98): which resources are free, the tests of R84 with
their entries, and a placement that satisfies R88. Among legal options the placer's choice is open (R87): the opaque
`Config.placerPick`, applied to what R87 says the placement is a function of. A placement is found whenever there is one:
where a choice leads to no placement, the next option is tried.
-/
namespace Sys2Proof.Machine
open Sys2Proof

/-! ### What is free (R84) -/

/-- Cells that stations of a bundle hold. -/
def cellsOf (b : Bundle) : List Nat := b.stations.filterMap (·.cell)
/-- Cells free for placement, those of the bundles in `ignore` counted free. -/
def freeCells (s : State) (ignore : List Nat) : List Nat :=
  let held := (s.pl.slots.filter (fun e => !ignore.contains e.1)).flatMap (fun e => cellsOf e.2)
  (List.range (256 * s.ident.dies)).filter (fun c => goodCell s c && !retiredCell s c && !held.contains c && !isShut s (.die (dieOf c)))

/-- Stack bytes that a bundle holds. -/
def placedOf (b : Bundle) : List Placed := b.regions ++ b.spills ++ b.stations.filterMap (·.save)
/-- Bytes of a stack, and of the reserve at the top of an even-numbered one (R65, R241). -/
def stackBytes : Nat := 68719476736
def usableBytes (s : State) (n : Nat) : Nat :=
  match stackOf s n with
  | some k => if k.failed then 0 else if n % 2 = 0 then stackBytes - 10485760 else stackBytes
  | none => 0
/-- Extents held on every stack, those of the bundles in `ignore` left out. -/
def heldExtents (s : State) (ignore : List Nat) : List Placed :=
  ((s.pl.slots.filter (fun e => !ignore.contains e.1)).flatMap (fun e => placedOf e.2)).filter (fun p => p.len != 0)

/-! ### A placement in progress -/

/-- Resources left while a placement goes on. -/
structure Avail where
  cells : List Nat
  held : List Placed
  usable : List Nat
  pick : Nat
  deriving DecidableEq, Repr

def availOf (s : State) (ignoreCells ignoreBytes : List Nat) : Avail :=
  ⟨freeCells s ignoreCells, heldExtents s ignoreBytes, (List.range (2 * s.ident.dies)).map (usableBytes s), 0⟩
/-- Free bytes of a stack. -/
def Avail.free (a : Avail) (n : Nat) : Nat :=
  (a.usable[n]?).getD 0 - ((a.held.filter (fun p => p.stack == n)).map (·.len)).foldl (· + ·) 0
/-- Offsets at which a run of bytes fits on a stack: at its start or after something held, on a multiple of 64 (R242). -/
def Avail.starts (a : Avail) (n len : Nat) : List Nat :=
  let h := a.held.filter (fun p => p.stack == n)
  ((0 :: h.map (fun p => ceilDiv (p.off + p.len) 64 * 64)).eraseDups).filter (fun o =>
    decide (o + len ≤ (a.usable[n]?).getD 0) && h.all (fun p => decide (o + len ≤ p.off) || decide (p.off + p.len ≤ o)))
/-- The bytes that a failed entry gives as HAVE: the free bytes, or, where those would do and no single run of them is long
enough, the longest that the stack's free bytes are short of the need. (DESIGN CHOICE, log entry 23) -/
def Avail.have_ (a : Avail) (n len : Nat) : Nat := min (a.free n) (len - 1)
/-- Free cells of a die. -/
def Avail.onDie (a : Avail) (d : Nat) : Nat := (a.cells.filter (fun c => c / 256 == d)).length

/-- A list turned so that it begins with the option the placer prefers. -/
def rotate {α : Type} (l : List α) (k : Nat) : List α := if l.isEmpty then l else l.drop (k % l.length) ++ l.take (k % l.length)

/-- What a placement is a function of (R87): the bundle's bytes; the options, firmware version, and placement state. -/
structure PickKey where
  bytes : List Byte
  key : List Nat
  deriving DecidableEq, Repr
/-- DESIGN CHOICE, log entry 23. -/
def PickKey.at_ (k : PickKey) (n : Nat) : Nat := Config.placerPick k.bytes k.key n

/-! ### What must be placed (R84, R88, R95) -/

/-- A run of stack bytes to place: region number, spill reserve or save area; its length; the station it is named by. -/
inductive Need where
  | region (i : Nat)
  | spill (i : Nat)
  | save (i : Nat)
  deriving DecidableEq, Repr

structure Run where
  need : Need
  len : Nat
  owner : Nat
  deriving DecidableEq, Repr

/-- Input-queue bytes of a station (R60). -/
def queueBytes (img : BundleImg) (i : Nat) : Nat :=
  slotBytes * ((inputEnds img i).map (fun e => match (img.streams[e.1]?).bind (fun r => r.cons[e.2]?) with | some c => depthOf c | none => 0)).foldl (· + ·) 0
/-- The sum of R60 without the shadow reserve, and with it. -/
def scratchNeed (img : BundleImg) (i : Nat) (r : StationRec) : Nat := r.scratch + queueBytes img i
def scratchSum (img : BundleImg) (i : Nat) (r : StationRec) : Nat := scratchNeed img i r + (if r.spec = 0 then 0 else 262144)
/-- Bytes of a station's eviction save area (R95). -/
def saveBytes (img : BundleImg) (i : Nat) (r : StationRec) : Nat := ceilDiv (scratchNeed img i r + r.codeLen) slotBytes * slotBytes

/-- Stations that one die must hold together: those joined by a GROUP or a speculation region, directly or by way of
others. -/
def joined (img : BundleImg) (i j : Nat) : Bool :=
  match img.stations[i]?, img.stations[j]? with
  | some a, some b => (a.group != 0 && a.group == b.group) || (a.spec != 0 && a.spec == b.spec)
  | _, _ => false
def addStation (img : BundleImg) (sets : List (List Nat)) (i : Nat) : List (List Nat) :=
  let t := sets.filter (fun c => c.any (joined img i))
  sets.filter (fun c => !c.any (joined img i)) ++ [t.flatten ++ [i]]
def stationSets (img : BundleImg) : List (List Nat) := (List.range img.stations.length).foldl (addStation img) []

/-- The runs that lie on a stack of a set's die: regions with NEAR 0, spill reserves, save areas. -/
def setRuns (img : BundleImg) (set : List Nat) : List Run :=
  ((withIdx img.regions).filterMap (fun p => if p.2.anyStack = 0 ∧ set.contains p.2.owner = true then some (⟨.region p.1, p.2.slots * slotBytes, p.2.owner⟩ : Run) else none)) ++
  ((withIdx img.spill).filterMap (fun p =>
    match set.find? (fun i => specOf img i == p.1 + 1) with
    | some i => some (⟨.spill p.1, p.2 * slotBytes, i⟩ : Run)
    | none => none)) ++
  (if img.limits.evictable then set.filterMap (fun i => (img.stations[i]?).map (fun r => (⟨.save i, saveBytes img i r, i⟩ : Run))) else [])
/-- Regions that may lie on any stack. (DESIGN CHOICE, log entry 23) -/
def freeRuns (img : BundleImg) : List Run :=
  (withIdx img.regions).filterMap (fun p => if p.2.anyStack = 0 then none else some (⟨.region p.1, p.2.slots * slotBytes, p.2.owner⟩ : Run))

/-! ### The search -/

/-- A placement: die of each station set and where each run lies. -/
structure Plan where
  /-- stations of a set, their cells, and the die -/
  dies : List (List Nat × List Nat × Nat)
  runs : List (Need × Placed)
  left : Avail
  deriving DecidableEq, Repr

/-- Why a placement ended: a set that no die has cells for, or a run that no stack it may lie on has room for, with what
the placement had put where by then. -/
inductive PlanFail where
  | set (stations : List Nat) (at_ : Plan)
  | run (r : Run) (stks : List Nat) (at_ : Plan)
  deriving DecidableEq, Repr

/-- One thing to place. -/
inductive Todo where
  | set (stations : List Nat) (runs : List Run)
  | run (r : Run) (die : Option Nat)
  deriving DecidableEq, Repr

/-- More items of a size or larger remain than the room there is can hold: whatever is chosen, no placement follows. -/
def hopeless (sizes rooms : List Nat) : Bool :=
  sizes.any (fun k => k != 0 && decide ((rooms.map (· / k)).foldl (· + ·) 0 < (sizes.filter (fun x => decide (k ≤ x))).length))

/-- The first option that leads to a placement; where none does, the failure met behind the first option. `none_` says that
no other option can do better. -/
def firstOf {α : Type} (none_ : Bool) (fail : PlanFail) (f : α → Except PlanFail Plan) : List α → Except PlanFail Plan
  | [] => .error fail
  | [o] => f o
  | o :: os => match f o with
    | .ok p => .ok p
    | .error e => if none_ then .error e else match firstOf none_ e f os with
      | .ok p => .ok p
      | .error _ => .error e

/-- Runs placed one after another, each on a stack that it may lie on, then the rest of the placement. (DESIGN CHOICE, log entry 23) -/
def placeRuns (k : PickKey) (stks : List Nat) (rest : Plan → Except PlanFail Plan) : List Run → Plan → Except PlanFail Plan
  | [], p => rest p
  | r :: rs, p =>
    let opts := stks.flatMap (fun n => (p.left.starts n r.len).map (fun o => (⟨n, o, r.len⟩ : Placed)))
    firstOf (hopeless (r.len :: rs.map (·.len)) (stks.map p.left.free)) (.run r stks p) (fun (pl : Placed) =>
      placeRuns k stks rest rs { p with runs := p.runs ++ [(r.need, pl)], left := { p.left with held := p.left.held ++ [pl], pick := p.left.pick + 1 } })
      (rotate opts (k.at_ p.left.pick))

/-- Sets placed one after another, each on a die with cells for it; `cells` false where the cells are too few in all, and
the placement then goes as far as the stacks alone let it. (DESIGN CHOICE, log entry 23) -/
def placeSets (k : PickKey) (dies : Nat) (cells : Bool) (rest : Plan → Except PlanFail Plan) : List (List Nat × List Run) → Plan → Except PlanFail Plan
  | [], p => rest p
  | (set, runs) :: more, p =>
    let opts := (List.range dies).filter (fun d => !cells || decide (set.length ≤ p.left.onDie d))
    firstOf (cells && hopeless (set.length :: more.map (fun x => x.1.length)) ((List.range dies).map p.left.onDie)) (.set set p) (fun d =>
      let gone := rotate (p.left.cells.filter (fun c => c / 256 == d)) (k.at_ p.left.pick)
      let used := gone.take set.length
      let a := { p.left with cells := p.left.cells.filter (fun c => !used.contains c), pick := p.left.pick + 1 }
      placeRuns k [2 * d, 2 * d + 1] (placeSets k dies cells rest more) runs { p with dies := p.dies ++ [(set, used, d)], left := a })
      (rotate opts (k.at_ (p.left.pick + 1000000)))

/-- A placement of a bundle (R88): the sets that more than cells bind first, then regions that may lie anywhere, then the
rest; runs that no stack has room for alone are left out of it (their own test reports them). (DESIGN CHOICE, log entry 23) -/
def placeAll (k : PickKey) (dies : Nat) (cells : Bool) (img : BundleImg) (sets : List (List Nat)) (tooLong : Run → Bool) (a : Avail) : Except PlanFail Plan :=
  let all := sets.map (fun c => (c, (setRuns img c).filter (fun r => !tooLong r)))
  let bound := all.filter (fun c => decide (1 < c.1.length) || !c.2.isEmpty)
  let loose := all.filter (fun c => !(decide (1 < c.1.length) || !c.2.isEmpty))
  placeSets k dies cells
    (placeRuns k (List.range (2 * dies)) (placeSets k dies cells .ok loose) ((freeRuns img).filter (fun r => !tooLong r)))
    bound ⟨[], [], a⟩

/-! ### Shortfall entries (R86) -/

structure Entry where
  code : Nat
  kind : Nat
  scope : Nat
  need : Nat
  have_ : Nat
  name : List Byte
  station : Nat
  deriving DecidableEq, Repr

def Entry.bytes (e : Entry) : List Byte :=
  leBytes 2 e.code ++ leBytes 1 e.kind ++ leBytes 1 0 ++ leBytes 4 e.scope ++ leBytes 8 e.need ++ leBytes 8 e.have_ ++ padTo 32 e.name
def nameOf (img : BundleImg) (i : Nat) : List Byte := match img.stations[i]? with | some r => r.name | none => []
/-- The order of a refusal. -/
def Entry.before (a b : Entry) : Bool :=
  let key (e : Entry) : List Nat := [e.code, e.kind, e.scope, e.station]
  match ((key a).zip (key b)).find? (fun p => p.1 != p.2) with
  | some p => decide (p.1 < p.2)
  | none => true
def insertEntry (e : Entry) : List Entry → List Entry
  | [] => [e]
  | x :: r => if x.before e then x :: insertEntry e r else e :: x :: r
def sortEntries (l : List Entry) : List Entry := l.foldl (fun a e => insertEntry e a) []

/-- The greatest of a list by a measure, the first where several tie. -/
def argMax (l : List Nat) (f : Nat → Nat) : Nat := l.foldl (fun m x => if f m < f x then x else m) (l.headD 0)

/-- The state of a fit: what it counts as free, and what it must place. -/
structure FitIn where
  img : BundleImg
  a : Avail
  slotsFree : Nat
  shares : Nat
  cap : Nat
  streamIds : List Nat
  tallyIds : List Nat
  dies : Nat
  key : PickKey

/-- Sets of the stations named by a group, or by a speculation region. -/
def stationsWith (img : BundleImg) (f : StationRec → Bool) : List Nat :=
  (withIdx img.stations).filterMap (fun p => if f p.2 then some p.1 else none)

/-- Stream ports of a cell each way (R30), and the ends that a port carries (R59). -/
def cellPorts : Nat := 4
def endsPerPort : Nat := 4

/-- The tests of R84 that need no placement. -/
def plainTests (f : FitIn) : List Entry :=
  let img := f.img
  let n := img.stations.length
  let diesL := List.range f.dies
  let best := argMax diesL f.a.onDie
  let st := withIdx img.stations
  let overs (i : Nat) : List Nat :=
    let nIn := (inputEnds img i).length
    let nOut := (outputEnds img i).length
    let nReg := (stationRegions img i).length
    let nTal := (img.tallies.filter (fun t => t.home == i)).length
    (if cellPorts * endsPerPort < nIn then [nIn, cellPorts * endsPerPort] else []) ++
    (if cellPorts * endsPerPort < nOut then [nOut, cellPorts * endsPerPort] else []) ++ (if 16 < nReg then [nReg, 16] else []) ++
    (if 64 < nTal then [nTal, 64] else [])
  let rec pairs : List Nat → List (Nat × Nat)
    | x :: y :: r => (x, y) :: pairs r
    | _ => []
  (if f.a.cells.length < n then [⟨C.cellsShort, 0, 0, n, f.a.cells.length, [], 0⟩] else []) ++
  (st.filterMap (fun p => let k := scratchSum img p.1 p.2
    if scratchBytes < k then some (⟨C.scratchShort, 3, 0, k, scratchBytes, p.2.name, p.1⟩ : Entry) else none)) ++
  (st.flatMap (fun p => (pairs (overs p.1)).map (fun q => (⟨C.stationLimit, 3, 0, q.1, q.2, p.2.name, p.1⟩ : Entry)))) ++
  ((img.streams.filter (fun r => f.streamIds.contains r.id)).map (fun r => (⟨C.streamIdInUse, 0, 0, r.id, 0, [], 0⟩ : Entry))) ++
  ((img.tallies.filter (fun t => f.tallyIds.contains t.id)).map (fun t => (⟨C.tallyIdInUse, 0, 0, t.id, 0, [], 0⟩ : Entry))) ++
  ((List.range img.spill.length).filterMap (fun i =>
    let k := (stationsWith img (fun r => r.spec == i + 1)).length
    if f.a.onDie best < k then some (⟨C.specDieShort, 4, i, k, f.a.onDie best, [], 0⟩ : Entry) else none)) ++
  (if f.cap < f.shares + img.limits.powerShare then [⟨C.powerShort, 0, 0, f.shares + img.limits.powerShare, f.cap, [], 0⟩] else []) ++
  (((img.stations.map (·.group)).eraseDups.filter (· != 0)).filterMap (fun g =>
    let k := (stationsWith img (fun r => r.group == g)).length
    if f.a.onDie best < k then some (⟨C.groupShort, 5, g, k, f.a.onDie best, [], 0⟩ : Entry) else none)) ++
  (if f.slotsFree = 0 then [⟨C.bundleSlots, 0, 0, 1, 0, [], 0⟩] else [])

/-- A run that no stack has room for alone, as an entry of the stack that came closest. -/
def runEntry (f : FitIn) (a : Avail) (stks : List Nat) (r : Run) : Entry :=
  let n := argMax stks a.free
  ⟨C.stackShort, 2, n, r.len, a.have_ n r.len, nameOf f.img r.owner, r.owner⟩

/-- The entry for a placement that ended though every test passes alone. -/
def failEntry (f : FitIn) : PlanFail → Entry
  | .run r stks p => runEntry f p.left stks r
  | .set set p =>
    let most := maxOf ((List.range f.dies).map p.left.onDie)
    let groups := (set.filterMap (fun i => (f.img.stations[i]?).map (·.group))).filter (· != 0)
    let specs := (set.map (specOf f.img)).filter (· != 0)
    match groups, specs with
    | g :: _, _ => ⟨C.groupShort, 5, g, set.length, most, [], 0⟩
    | [], k :: _ => ⟨C.specDieShort, 4, k - 1, set.length, most, [], 0⟩
    | [], [] => ⟨C.cellsShort, 0, 0, f.img.stations.length, f.a.cells.length, [], 0⟩

/-- The result of the fit check: the failed tests in the order of a refusal, and the placement as far as it went. -/
structure FitOut where
  failed : List Entry
  plan : Plan
  deriving DecidableEq, Repr

/-- The fit check (R84): every test, and the placement. -/
def fitCheck (f : FitIn) : FitOut :=
  let plain := plainTests f
  let sets := stationSets f.img
  let stks := List.range (2 * f.dies)
  let tooLong (r : Run) : Bool := stks.all (fun n => (f.a.starts n r.len).isEmpty)
  let runs := sets.flatMap (setRuns f.img) ++ freeRuns f.img
  let long := (runs.filter tooLong).map (runEntry f f.a stks)
  let cells := plain.all (fun e => e.code != C.cellsShort && e.code != C.groupShort && e.code != C.specDieShort)
  match placeAll f.key f.dies cells f.img sets tooLong f.a with
  | .ok p => ⟨sortEntries (plain ++ long), p⟩
  | .error e => ⟨sortEntries (plain ++ long ++ [failEntry f e]), match e with | .set _ p => p | .run _ _ p => p⟩

/-- The entries of a FIT_PROBE result before PLAN entries (R86): the fixed ones, then the other failed tests. -/
def probeEntries (f : FitIn) (o : FitOut) (plan : List Entry) : List Entry :=
  let img := f.img
  let stack (n : Nat) : Entry :=
    match o.failed.find? (fun e => e.code == C.stackShort && e.scope == n) with
    | some e => e
    | none => ⟨C.stackShort, 2, n, ((o.plan.runs.filter (fun r => r.2.stack == n)).map (fun r => r.2.len)).foldl (· + ·) 0, f.a.free n, [], 0⟩
  let die (d : Nat) : Entry := ⟨C.cellsShort, 1, d, ((o.plan.dies.filter (fun c => c.2.2 == d)).map (fun c => c.2.1.length)).foldl (· + ·) 0, f.a.onDie d, [], 0⟩
  let sums := (withIdx img.stations).map (fun p => scratchSum img p.1 p.2)
  let worst := argMax (List.range sums.length) (fun i => (sums[i]?).getD 0)
  let fixed := (List.range f.dies).map die ++ (List.range (2 * f.dies)).map stack ++
    [⟨C.cellsShort, 0, 0, img.stations.length, f.a.cells.length, [], 0⟩,
     ⟨C.powerShort, 0, 0, f.shares + img.limits.powerShare, f.cap, [], 0⟩,
     ⟨C.bundleSlots, 0, 0, 1, f.slotsFree, [], 0⟩,
     ⟨C.scratchShort, 3, 0, (sums[worst]?).getD 0, scratchBytes, nameOf img worst, worst⟩]
  fixed ++ sortEntries (o.failed.filter (fun e => !fixed.contains e) ++ plan)

end Sys2Proof.Machine
end

