-- ==== Sys2Proof/Machine/StackInsn.lean ====
section
/-!
DEFINITION. Stack instructions and their completion at the logic die (R154, R160, R206, R215, R217, R242 to R250).
-/
namespace Sys2Proof.Machine
open Sys2Proof

/-! ### Regions (R146, R160) -/

/-- Whether a station's region is the store of one of its delta ends (R206). -/
def isDeltaStore (img : BundleImg) (idx k : Nat) : Bool :=
  img.streams.any (fun r => r.kind == 2 && r.producer == idx && (DeltaParam.parse r.param).store == k)
/-- DETAIL of REGION_INVALID (R172). -/
def regionDetail (k : Nat) (slot : Int) : Nat := k * 2 ^ 28 + (slot % 2 ^ 28).toNat
/-- A region of the station that exists and, for a write, may be written. (DEDUCED, log entry 13) -/
def needRegion (i : Issue) (k : Nat) (slot : Nat) (write : Bool) (body : Nat → RegionRec → State) : State :=
  match regionPlace i.w.b i.w.idx k with
  | none => i.fault C.regionInvalid (regionDetail k slot)
  | some (ri, r, _) =>
    if write && (r.readOnly || isDeltaStore i.w.b.img i.w.idx k) then i.fault C.regionInvalid (regionDetail k slot)
    else body ri r
/-- A slot of a region. -/
def needSlot (i : Issue) (write : Bool) (body : Nat → Nat → State) : State :=
  let k := fRB i.insn
  let slot := i.ga.toNat
  needRegion i k slot write (fun ri r => if r.slots ≤ slot then i.fault C.regionInvalid (regionDetail k slot) else body ri slot)

/-! ### Entering the queue of stack accesses -/

/-- A stack access issues: it is under way to its logic die; a write under a checkpoint is held in the spill reserve (R215),
and faults where the region's reserve has no slot for writes (R217). -/
def enterStack (i : Issue) (o : StackOp) : State :=
  let write := o.kind == .stash || o.kind == .scatter || o.kind == .radd
  if write && !i.w.st.ckpts.isEmpty then
    if writeSlots i.w.b.img i.w.sr.spec = 0 then i.fault C.specSpill 0
    else
      let s1 := goOn i.s i.w (fun st =>
        { st with heldWrites := st.heldWrites ++ [⟨{ o with reads := [], writes := [] }, st.ckpts.map (·.id)⟩] })
      bumpEv s1 (evCell Ev.specHeldWrite (cellNo i.w.st) false) (ctxOf i.w i.w.st.pc i.insn none) 1
  else goOn i.s i.w (fun st => { st with stackOps := st.stackOps ++ [o] })

/-- Whether a stack write must wait for a slot of the spill reserve (R217). -/
def spillGate (w : Where) : Bool :=
  !w.st.ckpts.isEmpty && decide (0 < writeSlots w.b.img w.sr.spec) && decide (writeSlots w.b.img w.sr.spec ≤ heldCount w.b w.sr.spec)

/-- The access of an instruction at issue. -/
def stackOp (i : Issue) (k : StackKind) (tdAddr ri slot fmt : Nat) (t : Tile) (desc : List Byte) (offs : List Nat) : StackOp :=
  ⟨k, i.insn, i.w.st.pc, i.w.st.order, tdAddr, ri, slot, fmt, t, desc, offs, i.fp.1, i.fp.2⟩

/-! ### FETCH, STASH, RADD -/

def execFetch (cell : Nat) (w : Word) (s : State) : Out :=
  done (issue s cell w 0x30 (fun i =>
    needHandle i (fRD i.insn) (fun h =>
      needSlot i false (fun ri slot => enterStack i (stackOp i .fetch h.addr ri slot (fFN i.insn) Tile.zero [] [])))))

/-- STASH: POISON is set in the slot and in the tile where a word is uncorrectable (R249). -/
def execStash (cell : Nat) (w : Word) (s : State) : Out :=
  done (issueGated s cell w 0x31 spillGate (fun i =>
    needHandle i (fRD i.insn) (fun h =>
      needSlot i true (fun ri slot =>
        let r := i.w.st.scratch.readSlot h.addr true
        let i1 := { i with s := modStation i.s i.w.slot i.w.idx (fun st => { st with scratch := r.mem }) }
        enterStack i1 (stackOp i .stash h.addr ri slot (fFN i.insn) r.tile [] [])))))

def execRadd (cell : Nat) (w : Word) (s : State) : Out :=
  done (issueGated s cell w 0x34 spillGate (fun i =>
    needHandle i (fRD i.insn) (fun h =>
      needSlot i true (fun ri slot =>
        let t := (i.w.st.scratch.readSlot h.addr false).tile
        if computable t.fmt = false then i.fault C.tileFormat 0
        else enterStack i (stackOp i .radd h.addr ri slot 0 t [] [])))))

/-! ### GATHER and SCATTER (R246, R247) -/

/-- A read of scratch that is no LD: a bad word outside every slot marked POISON loses state (R171, R250). (DEDUCED, log entry 13) -/
def needClean (i : Issue) (a n : Nat) (k : Unit → State) : State :=
  match i.bad.find? (fun x => decide (a < 16 * x + 16) && decide (16 * x < a + n)) with
  | some x => if inPoisonSlot i.w.st x then i.fault C.memPoison 0 else i.fault C.memScratchUe (16 * x)
  | none => k ()

/-- The descriptor at ga: wholly in data scratch at a multiple of 16, and a KIND 1 table at a multiple of 4. (DEDUCED, log entry 13) -/
def needDesc (i : Issue) (k : Nat → Desc → List Nat → State) : State :=
  needScratch i i.ga.toNat 64 16 (fun a =>
    needClean i a 64 (fun _ =>
      let d := Desc.parse (i.w.st.scratch.read a 64)
      if d.kind = 1 then
        needScratch i d.indexAddr (4 * d.count) 4 (fun b =>
          needClean i b (4 * d.count) (fun _ =>
            k a d ((List.range d.count).map (fun n => leNat (i.w.st.scratch.read (b + 4 * n) 4)))))
      else k a d []))

/-- The first region element of a descriptor that lies outside a region. -/
def outside (d : Desc) (offs : List Nat) (slots : Nat) : Option Int :=
  (d.elems offs).find? (fun e => decide (e < 0) || decide ((slots * d.perSlot : Nat) ≤ e))

def execGather (cell : Nat) (w : Word) (s : State) : Out :=
  done (issue s cell w 0x32 (fun i =>
    needHandle i (fRD i.insn) (fun h =>
      needDesc i (fun a d offs =>
        needRegion i (fRB i.insn) 0 false (fun ri r =>
          let count := if d.tileFmt = 0 then d.run * d.count else shapeCount d.shape
          if d.ok true d.tileFmt count = false then i.fault C.memDescriptor a
          else match outside d offs r.slots with
            | some e => i.fault C.regionInvalid (regionDetail (fRB i.insn) (e / d.perSlot))
            | none => enterStack i (stackOp i .gather h.addr ri 0 0 Tile.zero (i.w.st.scratch.read a 64) offs))))))

/-- SCATTER: a poisoned td faults after the checks of R247 and before any element moves (R250). -/
def execScatter (cell : Nat) (w : Word) (s : State) : Out :=
  done (issueGated s cell w 0x33 spillGate (fun i =>
    needHandle i (fRD i.insn) (fun h =>
      needDesc i (fun a d offs =>
        needRegion i (fRB i.insn) 0 true (fun ri r =>
          let t := slotTile i.w.st.scratch h.addr
          let count := if t.fmt = 0 then t.hdr.len.toNat else t.count
          if d.ok false t.fmt count = false then i.fault C.memDescriptor a
          else match outside d offs r.slots with
            | some e => i.fault C.regionInvalid (regionDetail (fRB i.insn) (e / d.perSlot))
            | none =>
              if t.poisoned || badIn i.bad h.addr slotBytes then i.fault C.memPoison 0
              else enterStack i (stackOp i .scatter h.addr ri 0 0 t (i.w.st.scratch.read a 64) offs))))))

/-! ### Completion at the logic die (R154, R215, R243, R245) -/

/-- A conversion by the logic die, counted where it is skipped. -/
def dieConvert (s : State) (n fn : Nat) (t : Tile) : State × Tile :=
  if fn = 0x3F then (s, t)
  else match logicConvert fn t with
    | some c => (s, c)
    | none => (stkEvent s n Ev.stkCvtSkipped 1, t)

/-- Whether two accesses of one region may touch the same slot. -/
def sameSlot (a b : StackOp) : Bool :=
  a.region == b.region &&
  (a.kind == .gather || a.kind == .scatter || b.kind == .gather || b.kind == .scatter || a.slot == b.slot)

/-- The newest STASH to a slot that is held and stands before a FETCH in program order (R215). (DEDUCED, log entry 18) -/
def heldStash (st : Station) (o : StackOp) : Option StackOp :=
  ((st.heldWrites.filter (fun h => h.op.kind == .stash && h.op.region == o.region && h.op.slot == o.slot && decide (h.op.order < o.order))).getLast?).map (·.op)

/-- The tile of a GATHER: the elements' bytes in order over td's slot, words with a bad element poison-marked (R247, R250). -/
def gatherTile (d : Desc) (els : List (List Byte × Bool)) (old : Tile) : Tile :=
  let w := elemBytes d.tileFmt
  let bad := (withIdx els).filterMap (fun p => if p.2.2 then some (2 + p.1 * w / 16) else none)
  let h := { old.hdr with format := BitVec.ofNat 8 d.tileFmt, shape := BitVec.ofNat 8 d.shape,
                          len := BitVec.ofNat 16 (if d.tileFmt = 0 then d.run * d.count else 0), tileScale := 0 }
  ⟨if bad.isEmpty then h else h.setFlag flagPoison true, padTo 4096 (els.flatMap (·.1)), List.replicate 128 0#8,
   (bad.eraseDups).map (fun x => (x, poisonMark))⟩

/-- A write whose tile a patrol found uncorrectable in the spill reserve is applied with POISON (R259). -/
def appliedTile (t : Tile) : Tile := if t.chk.any (fun c => c.2 == poisonMark) then t.setFlag flagPoison true else t
/-- The effect of a stack access at its logic die; `way` is what the hops between cell and die do to the tile (R233). -/
def stackEffect (s : State) (slot idx : Nat) (st : Station) (o : StackOp) (p : Placed) (way : Tile → Tile) : State :=
  let off := p.off + slotBytes * o.slot
  match o.kind with
  | .fetch =>
    let (s1, t) := match heldStash st o with
      | some h => dieConvert s p.stack h.fmt h.tile
      | none => stackTile s p.stack off
    let (s2, t2) := dieConvert s1 p.stack o.fmt t
    modStation s2 slot idx (landScratch o.order (fun m => m.writeSlot o.tdAddr (way t2)))
  | .stash =>
    let (s1, t) := dieConvert s p.stack o.fmt (way (appliedTile o.tile))
    stackPutTile s1 p.stack off t
  | .radd => raddAt s slot o.region p.stack off (way (appliedTile o.tile))
  | .gather =>
    let d := Desc.parse o.desc
    let (s1, els) := gatherAt s p.stack p.off d o.offsets
    modStation s1 slot idx (landScratch o.order (fun m => m.writeSlot o.tdAddr (gatherTile d els (slotTile m o.tdAddr))))
  | .scatter => scatterAt s p.stack p.off (Desc.parse o.desc) o.offsets (way o.tile)

/-- The rows that an access touches: those of its slot, or of its elements. -/
def opRows (o : StackOp) (p : Placed) : List Nat :=
  match o.kind with
  | .gather => (Desc.parse o.desc).rows p.off o.offsets
  | .scatter => (Desc.parse o.desc).rows p.off o.offsets
  | _ => rowsIn (p.off + slotBytes * o.slot) slotBytes

/-- STACK_ACCESS_COMPLETE: the logic die completes the k-th access of a cell's station, in program order for one slot of one
region (R154); an access to a row under repair waits (R253); no path reads a failed stack (R257). `acts` are the row
activations that the access caused, `trip` its way through the die's mesh and queue (R233, R318). (DESIGN CHOICE, log entry 17;
DESIGN CHOICE, log entry 20) -/
def execStackAccessComplete (cell k : Nat) (acts : List (Nat × Nat)) (trip : StackTrip) (s : State) : Out :=
  done (match stationOn s cell with
    | none => s
    | some w => match w.st.stackOps[k]? with
      | none => s
      | some o =>
        if (w.st.stackOps.take k).any (sameSlot o) then s
        else match w.b.regions[o.region]? with
          | none => s
          | some p => match stackOf s p.stack with
            | none => s
            | some stk =>
              let drop (s : State) : State := modStation s w.slot w.idx (fun st => { st with stackOps := st.stackOps.erase o })
              if stk.failed then drop s
              else if (opRows o p).any (fun r => stk.repairing.contains r) then s
              else
                let s1 := (trip.hops.filter (hopOpen s)).foldl hopCounts (drop s)
                let s2 := stackEffect s1 w.slot w.idx w.st o p (fun t => (trip.hops.filter (hopOpen s)).foldl (fun t h => hopTile h t) t)
                activate (stkEvent s2 p.stack Ev.stkQueueFull trip.queueNs) p.stack acts)

/-! ### SFENCE (R154) -/

/-- Whether stack writes of a station are still under way; held ones count as written (R215). -/
def writesPending (st : Station) : Bool := st.stackOps.any (fun o => o.kind == .stash || o.kind == .scatter || o.kind == .radd)

def execSfence (cell : Nat) (w : Word) (s : State) : Out :=
  done (issue s cell w 0x35 (fun i => if writesPending i.w.st then startWait i .fence else goOn i.s i.w id))

def execSfenceComplete (cell : Nat) (s : State) : Out :=
  done (match stationOn s cell with
    | none => s
    | some w =>
      if w.st.run = .running ∧ w.st.waiting = .fence ∧ writesPending w.st = false then endWait s w id else s)

end Sys2Proof.Machine
end

