-- ==== Sys2Proof/Machine/TallyInsn.lean ====
section
/-!
DEFINITION. Tally, speculation, time and counter instructions (R161, R162, R216, R219, R267).
-/
namespace Sys2Proof.Machine
open Sys2Proof

/-! ### Tallies (R161) -/

/-- A tally of the bundle by ga[31:0]. -/
def needTally (i : Issue) (k : Nat → Tally → State) : State :=
  let n := i.ga.toNat % 2 ^ 32
  match i.w.b.tallies[n]? with
  | none => i.fault C.tallyInvalid n
  | some t => k n t

/-- The operation of a tally instruction. -/
def tallyWait (i : Issue) (n : Nat) (op : TallyOp) (accepted : Bool) : TallyWait :=
  ⟨n, op, BitVec.ofNat 32 (i.gb.toNat % 2 ^ 32), fRD i.insn, i.insn, i.w.st.pc, i.w.st.order, accepted, none⟩

/-- TTAKE and TWATCH wait for the answer of the home cell. (DEDUCED, log entry 15) -/
def tallyWaitBody (op : TallyOp) (i : Issue) : State :=
  needTally i (fun n _ =>
    modStation (startWait i .tally) i.w.slot i.w.idx (fun st => { st with tallyOps := st.tallyOps ++ [tallyWait i n op false] }))

/-- The answer to an operation applied at once at the station's own cell: written to gd, or a precise fault with RD g0. (DEDUCED, log entry 15) -/
def localAnswer (i : Issue) (s : State) : State :=
  match whereAt s i.w.slot i.w.idx with
  | none => s
  | some w => match w.st.tallyOps.find? (fun e => decide (e.order = i.w.st.order)) with
    | none => s
    | some e =>
      let s1 := modStation s w.slot w.idx (fun st => { st with tallyOps := st.tallyOps.erase e })
      let a := e.answer.getD 0
      if fRD i.insn = 0 ∧ a ≠ 0 then stationFault s1 { w with st := { w.st with tallyOps := w.st.tallyOps.erase e } } i.insn a 0
      else goOn s1 w (fun st => setG st (fRD i.insn) (BitVec.ofNat 64 a))

/-- TGIVE and TDEBIT: an operation on a tally of the station's own cell is applied at once where nothing stands before it
(class F); any other is under way to its home cell, gd busy until the status returns. (DEDUCED, log entry 15) -/
def tallySendBody (op : TallyOp) (i : Issue) : State :=
  needTally i (fun n t =>
    let e := tallyWait i n op true
    if t.home = some i.w.idx ∧ orderFree i.w.st i.w.idx t e = true ∧ i.w.st.tallyOps.all (fun x => x.tally != n || x.accepted) = true then
      let s1 := modStation i.s i.w.slot i.w.idx (fun st => { st with tallyOps := st.tallyOps ++ [e] })
      localAnswer i (tallyApply s1 i.w.slot n (.station i.w.idx) op e.amount)
    else goOn i.s i.w (fun st => { st with tallyOps := st.tallyOps ++ [{ e with accepted := false }] }))

def execTgive (cell : Nat) (w : Word) (s : State) : Out := done (issue s cell w 0x38 (tallySendBody .give))
def execTtake (cell : Nat) (w : Word) (s : State) : Out := done (issue s cell w 0x39 (tallyWaitBody .take))
def execTdebit (cell : Nat) (w : Word) (s : State) : Out := done (issue s cell w 0x3A (tallySendBody .debit))
def execTwatch (cell : Nat) (w : Word) (s : State) : Out := done (issue s cell w 0x3B (tallyWaitBody .watch))

/-! ### CONFIRM and CANCEL (R219 to R221) -/

/-- The output end and the range of a CONFIRM or CANCEL. (DEDUCED, log entry 13) -/
def needRange (i : Issue) (ok : Stream → Word → Word → Bool) (k : Nat → Word → Word → State) : State :=
  let lo := BitVec.ofNat 32 (i.ga.toNat % 2 ^ 32)
  let hi := BitVec.ofNat 32 (i.gb.toNat % 2 ^ 32)
  if i.w.sr.spec = 0 then i.fault C.specInvalid (fRD i.insn)
  else match outEnd i.w.b i.w.idx (fRD i.insn) with
    | none => i.fault C.endInvalid (fRD i.insn)
    | some (si, _, x) => if ok x lo hi then k si lo hi else i.fault C.specRange lo.toNat

def execConfirm (cell : Nat) (w : Word) (s : State) : Out :=
  done (issue s cell w 0x3C (fun i => needRange i confirmOk (fun si lo hi =>
    resolveAll (modStream (goOn i.s i.w id) i.w.slot si (fun x => confirmRange x lo hi)) i.w.slot)))

/-- CANCEL: the station that issued it continues, unless it is among those rolled back. -/
def execCancel (cell : Nat) (w : Word) (s : State) : Out :=
  done (issue s cell w 0x3D (fun i => needRange i cancelOk (fun si lo _ => cancelRange (goOn i.s i.w id) i.w.slot si lo)))

/-! ### Time and counters (R162) -/

/-- The cell's time (R162): seconds, nanoseconds, the reported 16 bits of the fraction (R463), both together, quality. (DEDUCED, log entry 16) -/
def stampValue (s : State) (fn : Nat) : Nat :=
  match fn with
  | 0 => s.tb.sec
  | 1 => s.tb.ns
  | 2 => s.tb.frac / 65536
  | 3 => now s % 2 ^ 64
  | _ => (qualityWord s).toNat

/-- DEDUCED, log entry 16. -/
def execStamp (cell : Nat) (w : Word) (s : State) : Out :=
  done (issue s cell w 0x41 (fun i => setGd i (BitVec.ofNat 64 (stampValue i.s (fFN i.insn)))))

/-- CTR: gd[47:0] the counter, gd[63] its WRAP. -/
def execCtr (cell : Nat) (w : Word) (s : State) : Out :=
  done (issue s cell w 0x42 (fun i =>
    let ev := i.ga.toNat % 2 ^ 32
    match ctrEvent i.s i.w ev with
    | none => i.fault C.counterInvalid ev
    | some e =>
      let c := countOf i.s e
      setGd i (BitVec.ofNat 64 (c.value + b2n c.wrap * 2 ^ 63))))

/-- Whether the cell's time has reached a value. -/
def timeReached (s : State) (t : DWord) : Bool := decide (t.toNat ≤ now s % 2 ^ 64)

def execWaitt (cell : Nat) (w : Word) (s : State) : Out :=
  done (issue s cell w 0x43 (fun i => if timeReached i.s i.ga then goOn i.s i.w id else startWait i (.time i.ga)))

/-- DESIGN CHOICE, log entry 5. -/
def execWaittTimeReached (cell : Nat) (s : State) : Out :=
  done (match stationOn s cell with
    | none => s
    | some w => match w.st.run, w.st.waiting with
      | .running, .time t => if timeReached s t then endWait s w id else s
      | _, _ => s)

end Sys2Proof.Machine
end

