-- ==== Sys2Proof/Machine/Move.lean ====
section
/-!
DEFINITION. Stations that stop at drain points, halt, move and are saved (R94, R95, R99 to R102, R142, R165 to R167, R573),
and the instructions DRAIN and HALT.
-/
namespace Sys2Proof.Machine
open Sys2Proof

/-! ### A station's state at its starts (R127, R142, R166) -/

/-- A station placed and not started, on a cell wiped and loaded (R79, R142). (DESIGN CHOICE, log entry 9) -/
def freshStation (img : BundleImg) (r : StationRec) (cell : Nat) (save : Option Placed) : Station :=
  ⟨some cell, .fresh, .no, 0, 0, none, false, [], 1, [], r.entry, Acc.clear, [], [], Gen.seed r.seed, Mem.wiped,
   (img.code.drop (r.codeOff / 4)).take (r.codeLen / 4), 0, [], [], [], [], 0, [], 0, false, false, false, save, none, []⟩
/-- A station that resumes after a drain point (R166): scratch, queues, regions, end control words and generator as they
were, everything else of R141 as at a first START, PC after the DRAIN. -/
def resumed (st : Station) : Station :=
  { st with run := .running, waiting := .no, drainReq := false, g := [], p := 1, t := [], acc := Acc.clear }

/-! ### Words moved between memories (R573) -/

/-- A tile read through the corrector, POISON set in no header. -/
structure ScrubbedTile where
  tile : Tile
  ce : Nat
  ue : Nat
def scrubTile (t : Tile) : ScrubbedTile :=
  let r := (Mem.wiped.writeSlot 0 t).scrub 0 slotBytes
  ⟨Tile.ofSlot (r.mem.read 0 slotBytes) r.mem.chk, r.ce, r.ue⟩

/-- Bytes of a station's scratch in whole words. -/
def scratchWords (sr : StationRec) : Nat := ceilDiv sr.scratch 16 * 16

/-- The queue entries of a station's input ends, each with its stream and consumer entry, in order. -/
def queuedOf (b : Bundle) (idx : Nat) : List (Nat × Nat × QEntry) :=
  (inputEnds b.img idx).flatMap (fun e =>
    match (b.streams[e.1]?).bind (fun x => x.ends[e.2]?) with
    | some c => c.queue.map (fun q => (e.1, e.2, q))
    | none => [])
/-- The tiles of a station's queues replaced in order. -/
def setQueued (b : Bundle) (idx : Nat) (tiles : List Tile) : Bundle :=
  ((inputEnds b.img idx).foldl (fun (acc : Bundle × List Tile) e =>
    match (acc.1.streams[e.1]?).bind (fun x => x.ends[e.2]?) with
    | some c =>
      let n := c.queue.length
      let q := (c.queue.zip (acc.2.take n)).map (fun p => { p.1 with tile := p.2 })
      ({ acc.1 with streams := modAt acc.1.streams e.1 (fun x => { x with ends := modAt x.ends e.2 (fun c => { c with queue := q }) }) }, acc.2.drop n)
    | none => acc) (b, tiles)).1

/-- A station's scratch and input queues pass the corrector of its cell as they are moved (R573). -/
def scrubStation (s : State) (slot idx : Nat) : State :=
  match whereAt s slot idx with
  | none => s
  | some w =>
    let r := w.st.scratch.scrub 0 (scratchWords w.sr)
    let qs := (queuedOf w.b idx).map (fun e => scrubTile e.2.2.tile)
    let sum (f : ScrubbedTile → Nat) : Nat := (qs.map f).foldl (· + ·) 0
    let s1 := modBundle s slot (fun b => setQueued { b with stations := modAt b.stations idx (fun st => { st with scratch := r.mem }) } idx (qs.map (·.tile)))
    scratchFound s1 (cellNo w.st) noCtx (r.ce + sum (·.ce)) (r.ue + sum (·.ue))

/-! ### Saving and restoring (R95 to R97) -/

/-- The code words held in bytes. -/
def codeWords (bs : List Byte) : List Word := (List.range (bs.length / 4)).map (fun i => BitVec.ofNat 32 (fieldLE bs (4 * i) 4))
/-- Where a save area keeps the code of a station with n queued tiles: after its tiles and its scratch (R95, R96). (DESIGN
CHOICE, log entry 24: the order of the three in the area) -/
def codePlace (sr : StationRec) (n : Nat) : Nat := slotBytes * n + sr.scratch
/-- A station is copied to its save area: queues, scratch and code; its cell is freed. -/
def saveStation (s : State) (slot idx : Nat) : State :=
  let s0 := scrubStation s slot idx
  match whereAt s0 slot idx with
  | none => s0
  | some w =>
    let free (st : Station) : Station := { st with cell := none, saved := some st.gen, scratch := Mem.wiped, code := [] }
    match w.st.save with
    | none => modStation s0 slot idx free
    | some p =>
      let qs := queuedOf w.b idx
      let s1 := modStack (openRows s0 p.stack p.off p.len) p.stack (fun k =>
        let m1 := (withIdx qs).foldl (fun m e => m.writeSlot (p.off + slotBytes * e.1) e.2.2.2.tile) k.mem
        let m2 := w.st.scratch.carry 0 (scratchWords w.sr) m1 (p.off + slotBytes * qs.length)
        { k with mem := m2.store (p.off + codePlace w.sr qs.length) (w.st.code.flatMap (fun x => leBytes 4 x.toNat)) })
      modStation s1 slot idx free

/-- A station restored from its save area onto a cell (R97, R129), its code read back with its data, resuming after its DRAIN, or
halted still. A code word that cannot be corrected reaches the code store as it is (DESIGN CHOICE, log entry 24). -/
def restoreStation (s : State) (slot idx cell : Nat) : State :=
  match whereAt s slot idx with
  | none => s
  | some w =>
    let put (sc : Mem) (code : List Word) (st : Station) : Station :=
      let st1 := { st with cell := some cell, scratch := sc, code := code, gen := st.saved.getD st.gen, saved := none }
      if st.run = .halted then st1 else resumed st1
    match w.st.save with
    | none => modStation s slot idx (put w.st.scratch w.st.code)
    | some p =>
      let s0 := openRows s p.stack p.off p.len
      match stackOf s0 p.stack with
      | none => modStation s slot idx (put Mem.wiped [])
      | some k =>
        let n := (queuedOf w.b idx).length
        let at_ := codePlace w.sr n
        let r := k.mem.correct p.off (at_ + w.sr.codeLen)
        let m := r.bad.foldl (fun m e => m.poisonWord e.1) r.mem
        let s1 := stackFound s0 p.stack m r.fixed r.bad
        let tile (i : Nat) : Tile :=
          let a := p.off + slotBytes * i
          Tile.ofSlot (m.read a slotBytes) ((m.chk.filter (fun e => a / 16 ≤ e.1 && decide (16 * e.1 < a + slotBytes))).map (fun e => (e.1 - a / 16, e.2)))
        let sc := (m.carry (p.off + slotBytes * n) (scratchWords w.sr) Mem.wiped 0).store w.sr.scratch
          (List.replicate (scratchWords w.sr - w.sr.scratch) 0#8)
        let code := codeWords (m.read (p.off + at_) w.sr.codeLen)
        modBundle s1 slot (fun b => setQueued { b with stations := modAt b.stations idx (put sc code) } idx ((List.range n).map tile))

/-! ### Relocation (R100, R102) -/

def mapGen (s : State) : State := bumpFldAt s F.bndMapGenGen 0 0 0 1

/-- Whether a station may leave its die: no group or speculation region of others, and no region with NEAR 0 (R88, R102). -/
def dieBound (img : BundleImg) (idx : Nat) : Bool :=
  (match img.stations[idx]? with | some r => r.spec != 0 | none => false) ||
  (List.range img.stations.length).any (fun j => j != idx && joined img idx j) ||
  (stationRegions img idx).any (fun k => match img.regions[k]? with | some r => r.anyStack == 0 | none => false)

/-- The cells that a station can move to: of its die if there is one, else of any where nothing binds it. -/
def moveCells (s : State) (img : BundleImg) (idx cell : Nat) : List Nat :=
  let free := freeCells s []
  let near := free.filter (fun c => c / 256 == cell / 256)
  if !near.isEmpty then near else if dieBound img idx then [] else free

/-- What the placer's choice is a function of (R87). -/
def pickKey (s : State) (img : BundleImg) (opts : List Nat) (ignoreCells ignoreBytes : List Nat) : PickKey :=
  let a := availOf s ignoreCells ignoreBytes
  let fw := match s.active with | some h => (hubOf s h).running.version | none => 0
  ⟨img.bytes, opts ++ fw :: a.cells ++ 0xFFFF :: (List.range (2 * s.ident.dies)).map a.free⟩

/-- A stopped station moves to a free cell, its data and queues under R573, reported with both cells; where there is none,
its bundle enters HELD with RELOCATE_NO_CELL. A station that ran resumes on its new cell. -/
def relocate (s : State) (slot idx : Nat) : State :=
  match whereAt s slot idx with
  | none => s
  | some w =>
    match w.st.cell with
    | none => s
    | some old =>
      let opts := moveCells s w.b.img idx old
      match (rotate opts ((pickKey s w.b.img [7, slot, idx] [] []).at_ 0)).head? with
      | none =>
        let s1 := report s C.relocateNoCell (srcActive s) w.handle []
        holdFor s1 slot
      | some new =>
        let s1 := scrubStation s slot idx
        let s2 := modStation s1 slot idx (fun st =>
          let st1 := { st with cell := some new, relocations := st.relocations + 1, relocating := false, relocReported := false }
          if st.run = .drained && !st.drainReq && w.b.st = .running then resumed st1 else st1)
        let s3 := mapGen (setEvent s2 F.bndEventRelocated)
        settle (report s3 C.relocated (srcActive s) w.handle (dName w.sr.name ++ d4 old ++ d4 new)) s

/-- Whether a station stands where it can be moved: at a drain point, halted, or never started. -/
def movable (st : Station) : Bool := st.run == .drained || st.run == .halted || st.run == .fresh
/-- Stations that wait to move and can, while a hub is active (R35, R105). -/
def relocateAll (s : State) (slot : Nat) : State :=
  match slotBundle s slot with
  | none => s
  | some b =>
    if s.active.isNone ∨ b.st = .evicting ∨ b.st = .evicted then s
    else (List.range b.stations.length).foldl (fun s i => match whereAt s slot i with
      | some w => if w.st.relocating && movable w.st then relocate s slot i else s
      | none => s) s

/-! ### DRAIN and HALT (R94, R165, R167) -/

/-- Whether every earlier instruction of a station has completed. -/
def allDone (st : Station) : Bool := st.stackOps.isEmpty && st.blockOps.isEmpty && st.tallyOps.isEmpty

/-- A DRAIN with nothing before it: the station stops there where a request is pending and it holds no checkpoint, else goes
on. A station that is to be relocated moves at once. -/
def drainPoint (s : State) (slot idx : Nat) : State :=
  match whereAt s slot idx with
  | none => s
  | some w =>
    if (w.st.drainReq || w.st.relocating) && w.st.ckpts.isEmpty then
      relocateAll (modStation s slot idx (fun st => { st with run := .drained, waiting := .no, pc := st.pc + 4 })) slot
    else modStation s slot idx (fun st => { st with waiting := .no, pc := st.pc + 4 })

/-- A HALT with nothing before it: the station stops for good, and the last one of its bundle is reported. -/
def haltPoint (s : State) (slot idx : Nat) : State :=
  let s1 := modStation s slot idx (fun st => { st with run := .halted, waiting := .no })
  match whereAt s1 slot idx with
  | none => s1
  | some w =>
    let s2 := if w.b.stations.all (fun st => st.run == .halted) && !w.b.haltReported then
        report (modBundle s1 slot (fun b => { b with haltReported := true })) C.bundleHalted (srcActive s1) w.handle []
      else s1
    relocateAll s2 slot

def execDrain (cell : Nat) (w : Word) (s : State) : Out :=
  done (issue s cell w 0x40 (fun i => if allDone i.w.st then drainPoint i.s i.w.slot i.w.idx else startWait i .drain))
def execHalt (cell : Nat) (w : Word) (s : State) : Out :=
  done (issue s cell w 0x1F (fun i => if allDone i.w.st then haltPoint i.s i.w.slot i.w.idx else startWait i .halt))

/-- DRAIN_POINT_REACHED: the earlier instructions of a station that waits in DRAIN or HALT are all done. -/
def execDrainPointReached (cell : Nat) (s : State) : Out :=
  done (match stationOn s cell with
    | none => s
    | some w =>
      if w.st.run ≠ .running ∨ allDone w.st = false then s
      else match w.st.waiting with
        | .drain => drainPoint s w.slot w.idx
        | .halt => haltPoint s w.slot w.idx
        | _ => s)

end Sys2Proof.Machine
end

