-- ==== Sys2Proof/Machine/Hop.lean ====
section
/-!
DEFINITION. Tiles on their way (R51 to R58, R62, R63, R233, R375, R427, R461): hops inside the module, arrival from an
optical port, the host streams, and the staging buffer that the host writes.
-/
namespace Sys2Proof.Machine
open Sys2Proof

/-! ### Finding streams -/

/-- A stream of a loaded bundle by its identifier: slot, index, record and run-time state. -/
structure StreamAt where
  slot : Nat
  si : Nat
  b : Bundle
  r : StreamRec
  x : Stream
  deriving DecidableEq, Repr

def streamAt (s : State) (slot si : Nat) : Option StreamAt :=
  match slotBundle s slot with
  | none => none
  | some b => match b.img.streams[si]?, b.streams[si]? with
    | some r, some x => some ⟨slot, si, b, r, x⟩
    | _, _ => none
def streamById (s : State) (id : Nat) (p : StreamRec → Bool) : Option StreamAt :=
  s.pl.slots.findSome? (fun e =>
    if !e.2.placed then none
    else (withIdx e.2.img.streams).findSome? (fun q => if q.2.id == id && p q.2 then streamAt s e.1 q.1 else none))

/-- Whether a stream comes from another module (R50). -/
def fromRemote (r : StreamRec) : Bool := r.remoteValid == 1 && r.producer == 0xFFFF
/-- Whether a station of the bundle consumes from storage. -/
def fromStorage (r : StreamRec) : Bool := r.kind == 5 && r.producer == 0xFFFF

/-- Name of a consumer station, all 0x00 where it lies outside (R66). -/
def consumerName (b : Bundle) (c : ConsumerRec) : List Byte := nameOf b.img c.station

/-! ### Leaving the module (R375, R462) -/

/-- A tile sent to another module over the first usable option; with none it enters the dead-letter queue of its die. While
no postcode is set it waits (R369). None where it waits. One for this module itself finds no consumer end, since a stream has
one record on a module. (DESIGN CHOICE, log entry 21: the last) -/
def sendTile (s : State) (d cell dest vc : Nat) (notPort : Option Nat) (t : Tile) : Option State :=
  if postcodeValid s = false then none
  else if dest = postcode s then some (dlqAdd s d C.dlqNoConsumer cell [] t)
  else match route s dest vc notPort none with
    | some o => some (queueFrom notPort (countAlt s o 1) o.2 vc (tileFlits vc dest t))
    | none => some (dlqAdd s d C.dlqNoRoute cell [] t)

/-! ### Hops (R52, R233) -/

/-- The oldest tile under way that a consumer has not taken. -/
def oldestFor (x : Stream) (ci : Nat) : Option Flight := x.flight.find? (fun f => f.toCons.contains ci)
/-- A tile taken by a consumer: gone when it was the last. -/
def takeFlight (ci : Nat) : List Flight → List Flight
  | [] => []
  | f :: r =>
    if f.toCons.contains ci then
      let c := f.toCons.filter (· != ci)
      if c.isEmpty then r else { f with toCons := c } :: r
    else f :: takeFlight ci r

/-- The oldest tile under way reaches a consumer's end (R52): a station's input queue with room, the host where it has
posted a receive, another module or a storage target over its route. Nothing where the end cannot take it yet. -/
def deliver (s : State) (v : StreamAt) (ci : Nat) (c : ConsumerRec) (e : ConsEnd) (t : Tile) : State :=
  let taken (s : State) : State := modStream s v.slot v.si (fun x => { x with flight := takeFlight ci x.flight })
  let cell := match v.b.stations[v.r.producer]? with | some st => cellNo st | none => 0xFFFF
  if c.station = 0xFFFF then
    if v.r.kind = 4 then
      if 0 < v.x.receives ∧ s.active.isSome = true then
        taken (emit (modStream s v.slot v.si (fun x => { x with receives := x.receives - 1 })) (.toHost (BitVec.ofNat 32 v.r.id) t))
      else s
    else
      let dest := if v.r.kind = 5 then fieldLE v.r.param 0 2 else v.r.remote
      match sendTile s (dieOf cell) cell dest (if v.r.kind = 5 then 3 else v.r.vc) none t with
      | some s1 => taken s1
      | none => s
  else
    match v.b.stations[c.station]? with
    | none => s
    | some st =>
      if hasRoom c e && !e.broken && !(st.relocating && st.run != .running) && st.cell.isSome then taken (enqueue s v.slot v.si ci t) else s

/-- Whether a stream's tiles may cross a kind of link: host streams and servo tiles alone cross the carrier links (R29). -/
def mayCross (r : StreamRec) (c : ConsumerRec) : HopLink → Bool
  | .carrier _ => r.kind == 4 || c.station == 0xFFFE
  | _ => true
/-- TILE_HOP: a hop accepts the oldest tile under way to a consumer; `last` says it is the hop into the consumer's end. A stream's
route is the hops that its tiles make, each over a link that is bonded (R88). (DESIGN CHOICE, log entry 17) -/
def execTileHop (slot stream cons : Nat) (last : Bool) (hop : HopInfo) (s : State) : Out :=
  done (match streamAt s slot stream with
    | none => s
    | some v => match oldestFor v.x cons, v.r.cons[cons]?, v.x.ends[cons]? with
      | some f, some c, some e =>
        if !hopOpen s hop || !mayCross v.r c hop.link then s
        else
        let s1 := hopCounts s hop
        let t := hopTile hop f.tile
        if last then
          if c.station = 0xFFFE then s1 else deliver s1 v cons c e t
        else if t = f.tile then s1
        else modStream s1 slot stream (fun x => { x with flight := x.flight.map (fun g => if g = f then { g with tile := t } else g) })
      | _, _, _ => s)

/-! ### Arrival from an optical port (R55, R62, R63) -/

/-- The die whose reorder store a stream uses (R55, R65): that of its consumer's cell. (DEDUCED, log entry 21) -/
def reorderDie (b : Bundle) (r : StreamRec) : Nat :=
  match (r.cons.head?).bind (fun c => b.stations[c.station]?) with
  | some st => dieOf (cellNo st)
  | none => 0
/-- Tiles in the reorder store of a die (R65). -/
def reorderUsed (s : State) (d : Nat) : Nat :=
  (s.pl.slots.map (fun e => ((e.2.img.streams.zip e.2.streams).map (fun p =>
    if reorderDie e.2 p.1 = d then (p.2.ends.map (fun c => c.reorder.length)).foldl (· + ·) 0 else 0)).foldl (· + ·) 0)).foldl (· + ·) 0

/-- An arrived tile leaves the receive buffer, and its flits' credits go back (R365). -/
def popArrival (s : State) (link : Nat) (a : Arrival) : State :=
  modLink s link (fun l => { l with inbox := l.inbox.erase a, freed := modAt l.freed a.vc (· + a.flits) })

/-- Tiles of a reorder store that are next in order go on (R51, R55). -/
def drainReorder : Nat → Word → List Tile → List Tile × Word × List Tile
  | 0, n, r => ([], n, r)
  | fuel + 1, n, r =>
    match r.find? (fun t => t.hdr.seq == n) with
    | none => ([], n, r)
    | some t =>
      let (out, m, rest) := drainReorder fuel (n + 1) (r.erase t)
      (t :: out, m, rest)

/-- A tile of a stream from another module or from storage, put in order by the SEQ it carries (R51, R55). None where it waits in
the receive buffer for room in the reorder store. (DESIGN CHOICE, log entry 21: that R55 orders the tiles of a storage target as
it orders those of a module) -/
def orderTile (s : State) (v : StreamAt) (t : Tile) : Option State :=
  match v.x.ends[0]? with
  | none => some s
  | some e =>
    let ends (f : ConsEnd → ConsEnd) (fl : List Tile) : State := modStream s v.slot v.si (fun x =>
      { x with ends := x.ends.map f, flight := x.flight ++ fl.map (fun t => ⟨t, List.range x.ends.length⟩) })
    if e.broken ∨ t.hdr.seq ≠ e.nextSeq ∧ (laterThan t.hdr.seq e.nextSeq = false ∨ e.reorder.any (fun u => u.hdr.seq == t.hdr.seq) = true) then
      some (ends (fun c => { c with discarded := (c.discarded + 1) % 2 ^ 32 }) [])
    else if t.hdr.seq = e.nextSeq then
      let (out, m, rest) := drainReorder e.reorder.length (t.hdr.seq + 1) e.reorder
      some (ends (fun c => { c with nextSeq := m, reorder := rest }) (t :: out))
    else if 256 ≤ reorderUsed s (reorderDie v.b v.r) then none
    else some (ends (fun c => { c with reorder := c.reorder ++ [t] }) [])

/-- A tile from a port that no consumer end here serves: its identifier is remembered, or unknown (R62, R63). (DESIGN CHOICE, log
entry 21: an identifier loaded for a stream that comes from neither another module nor storage is treated alike) -/
def lostStream (s : State) (port d : Nat) (t : Tile) : State :=
  match ((s.remembered[portEngine port]?).getD []).find? (fun r => r.id == t.hdr.streamId.toNat) with
  | some r => dlqAdd s d C.dlqNoConsumer 0xFFFF r.consumer t
  | none => dlqAdd s d C.dlqUnknownStream 0xFFFF [] t

/-- REMOTE_TILE_ARRIVAL: the oldest tile received on a channel of a link is forwarded, put in order, discarded, or enters
the dead-letter queue. -/
def execRemoteTileArrival (link vc : Nat) (s : State) : Out :=
  done (match (linkOf s link).bind (fun l => l.inbox.find? (fun a => a.vc == vc)) with
    | none => s
    | some a =>
      let port := link / 16
      let d := engineDie (portEngine port)
      let id := a.tile.hdr.streamId.toNat
      let pop := popArrival s link a
      if a.dest ≠ postcode s then
        match sendTile pop d 0xFFFF a.dest vc (some port) a.tile with
        | some s1 => if (route pop a.dest vc (some port) none).isSome then portEvent s1 port Ev.fwdTiles 1 else s1
        | none => s
      else match streamById s id (fun _ => true) with
        | some v =>
          if v.r.kind = 3 then s
          else if fromRemote v.r || fromStorage v.r then
            if v.b.st = .evicted then dlqAdd pop d C.dlqNoConsumer 0xFFFF (consumerName v.b (v.r.cons.headD ⟨0, 0, 0⟩)) a.tile
            else match orderTile pop v (if fromStorage v.r then admitTile s v.r 0xFFE a.tile.hdr.seq a.tile else a.tile) with
              | some s1 => s1
              | none => s
          else lostStream pop port d a.tile
        | none => lostStream pop port d a.tile)

/-- STREAM_GAP_TIMEOUT: a missing tile has not come 1 ms after the first beyond it: reported, the end broken for good, the
bundle HELD (R55). (DESIGN CHOICE, log entry 21: the tiles that the reorder store holds ahead of the gap go with the end and are
not counted; a bundle that is READY stays READY) -/
def execStreamGapTimeout (slot stream : Nat) (s : State) : Out :=
  done (match streamAt s slot stream with
    | none => s
    | some v => match v.x.ends[0]? with
      | none => s
      | some e =>
        if e.reorder.isEmpty ∨ e.broken = true then s
        else
          let s1 := modStream s slot stream (fun x => { x with ends := x.ends.map (fun c => { c with broken := true, reorder := [] }) })
          let s2 := report s1 C.streamGap (srcActive s1) (handleOf slot v.b) (d4 v.r.id ++ d4 e.nextSeq.toNat)
          holdFor s2 slot)

/-! ### Host streams (R56, R461) -/

/-- MAX_INFLIGHT of a host stream. (DEDUCED, log entry 11) -/
def maxInflight (r : StreamRec) : Nat := if fieldLE r.param 0 2 = 0 then 8 else fieldLE r.param 0 2

/-- HOST_TILE_ADMIT: a SEND from the host. No buffer is posted while the consumer's bundle is EVICTING or EVICTED, or beyond
MAX_INFLIGHT tiles: receiver-not-ready. An admitted tile takes the stream's next number and a postmark. (DESIGN CHOICE, log entry 21) -/
def execHostTileAdmit (tile : Tile) (s : State) : Out :=
  done (match s.active with
    | none => s
    | some h =>
      let id := tile.hdr.streamId
      match streamById s id.toNat (fun r => r.kind == 4 && r.producer == 0xFFFF) with
      | none => hubReport s C.streamUnknown (d4 id.toNat)
      | some v =>
        if v.x.qp.isNone then s
        else if v.b.st = .evicting ∨ v.b.st = .evicted ∨ maxInflight v.r ≤ v.x.flight.length then emit s (.rnr id)
        else
          let s1 := emit s (.sendAck id)
          match headerFault v.r.format tile.hdr with
          | some c =>
            report (bumpEv s1 (evHub Ev.hostTileRefused h) noCtx 1) c (srcHub h) (handleOf v.slot v.b)
              (d4 v.r.id ++ d4 v.x.nextSeq.toNat ++ tile.hdr.bytes)
          | none =>
            let t := admitTile s1 v.r 0xFFF v.x.nextSeq tile
            let s2 := launch (modStream s1 v.slot v.si (fun x => { x with nextSeq := x.nextSeq + 1 })) v.slot v.si t
            let lim := v.b.img.limits
            let later := match v.b.lastFrame with | some f => laterThan t.hdr.frame f | none => true
            if lim.framePeriod ≠ 0 ∧ lim.frameStart = 5 ∧ later = true then
              frameStart (modBundle s2 v.slot (fun b => { b with lastFrame := some t.hdr.frame })) v.slot t.hdr.frame.toNat (now s)
            else s2)

/-- HOST_RECEIVE_POSTED: the host posts receives on a module-to-host stream. (DESIGN CHOICE, log entry 26) -/
def execHostReceivePosted (streamId : Word) (count : Nat) (s : State) : Out :=
  done (match streamById s streamId.toNat (fun r => r.kind == 4 && r.producer != 0xFFFF) with
    | none => s
    | some v => if v.x.qp.isNone ∨ s.active.isNone then s else modStream s v.slot v.si (fun x => { x with receives := x.receives + count }))

/-- ROCE_CNP_RECEIVED: the send rate is lowered (R459; by how much is the annex's matter: an open value, below the rate
before). The rate is in Mbit/s. (DESIGN CHOICE, log entry 26) -/
def execRoceCnpReceived (s : State) : Out :=
  done (let (v, s1) := takeFree s
    { s1 with roceRate := v.toNat % max 1 s1.roceRate })

/-- RDMA_WRITE_STAGE: bytes written into a staging buffer under its RKEY (R460); a write beyond the buffer has no effect. (DESIGN CHOICE, log entry 26) -/
def execRdmaWriteStage (stage : Nat) (rkeyOk : Bool) (offset : Nat) (data : List Byte) (s : State) : Out :=
  done (if rkeyOk && s.active.isSome then
      { s with stages := s.stages.map (fun g =>
        if g.id = stage ∧ offset + data.length ≤ g.len then
          { g with bytes := (withIdx data).foldl (fun m p => SMap.setD m (offset + p.1) p.2 0#8) g.bytes } else g) }
    else s)
/-- The bytes of a staging buffer. -/
def Stage.data (g : Stage) : List Byte := (List.range g.len).map (fun i => SMap.getD g.bytes i 0#8)

end Sys2Proof.Machine
end

