-- ==== Sys2Proof/Machine/Counter.lean ====
section
/-!
DEFINITION. The Counter (R449 to R458, R460): how a request is received, judged, put in order and answered, as shared
operations that every Counter command calls; and the session commands.
-/
namespace Sys2Proof.Machine
open Sys2Proof

/-! ### Replies (R450, R453) -/

/-- A reply of a hub's port. -/
def replyMsg (s : State) (c : Caller) (status : Nat) (body : List Byte) (tagged : Bool) : CtrMsg :=
  ⟨c.hub, 1, c.command, status, c.session, c.seq.toNat, c.tag, s.tb.ns, s.tb.sec, qualityWord s, body, tagged⟩
def findSession (s : State) (id : Nat) : Option Session := s.sessions.find? (fun x => x.id == id)
def modSession (s : State) (id : Nat) (f : Session → Session) : State :=
  { s with sessions := s.sessions.map (fun x => if x.id = id then f x else x) }

/-- A command completes: its reply is cached for its session and sent on the active hub's port (R453, R457). -/
def finishReq (s : State) (c : Caller) (status : Nat) (body : List Byte) : State :=
  match findSession s c.session with
  | none => s
  | some x =>
    let m := replyMsg s { c with hub := s.active.getD c.hub } status body true
    let s1 := modSession s x.id (fun x => { x with busy := false, cached := if x.lastSeq = c.seq then some m else x.cached })
    if s.active.isSome then emit s1 (.counter m) else s1

/-- What a command does once its request is accepted: the caller and the body. -/
abbrev Service := State → Caller → List Byte → State
/-- A request answered with a status and no body. -/
def answerOnly (status : Nat) : Service := fun s c _ => finishReq s c status []
/-- A body that breaks its layout (R452). -/
def malformed : Service := answerOnly C.ctrMalformed
/-- A service for bodies of one length. -/
def sized (n : Nat) (f : Service) : Service := fun s c b => if b.length = n then f s c b else malformed s c b

/-! ### Classes (R455, R456, R458) -/

/-- Commands accepted from observer sessions. -/
def observerCommand (code : Nat) : Bool := [0x0003, 0x0004, 0x0010, 0x0028, 0x0030, 0x0032, 0x0040].contains code
/-- Codes of R458 that are commands. -/
def knownCommand (code : Nat) : Bool :=
  [0x0001, 0x0002, 0x0003, 0x0004, 0x0010, 0x0011, 0x0020, 0x0021, 0x0022, 0x0023, 0x0024, 0x0025, 0x0026, 0x0028, 0x0030, 0x0031, 0x0032,
   0x0038, 0x0039, 0x0040, 0x0041, 0x0048, 0x0049, 0x0050, 0x0060].contains code
/-- Whether a session may give a command: before authentication a control session has SESSION_AUTH and SESSION_CLOSE alone,
and SESSION_AUTH is for it alone. (DESIGN CHOICE, log entry 25) -/
def permitted (x : Session) (code : Nat) : Bool :=
  if code = 0x0002 then x.control && !x.authed
  else if x.control && !x.authed then code == 0x0003
  else x.control || observerCommand code || !knownCommand code

/-- An accepted request runs. (DESIGN CHOICE, log entry 25) -/
def runReq (s : State) (c : Caller) (body : List Byte) (f : Service) : State :=
  match findSession s c.session with
  | none => s
  | some x =>
    let s1 := modSession s x.id (fun x => { x with busy := true })
    if permitted x c.command then f s1 c body else finishReq s1 c C.ctrNotPermitted []

/-! ### Receiving (R451, R452, R453, R456) -/

/-- The 48 header bytes of a datagram (R450) of a message, for LENGTH, FRAG and FRAG_COUNT. -/
def CtrMsg.header (m : CtrMsg) (len frag count : Nat) : List Byte :=
  [0x5A#8, 0x43#8] ++ leBytes 1 1 ++ leBytes 1 m.kind ++ leBytes 2 m.command ++ leBytes 2 m.status ++ leBytes 4 m.session ++ leBytes 4 m.seq ++
  leBytes 4 m.tag ++ leBytes 4 len ++ leBytes 2 frag ++ leBytes 2 count ++ leBytes 4 m.timeNs ++ leBytes 8 m.timeS ++ leBytes 4 m.quality.toNat ++
  leBytes 4 0
/-- Header bytes of a request datagram, which its tag covers. -/
def reqHeader (h : CtrHdr) (code : Nat) (d : Dgram) : List Byte :=
  CtrMsg.header ⟨h.port, 0, code, 0, h.session, h.seq.toNat, h.tag, 0, 0, 0, [], true⟩ d.body.length d.frag h.count
/-- A body cut into pieces of at most `n` bytes; one empty piece where it is empty. -/
def cutBody (n : Nat) : Nat → List Byte → List (List Byte)
  | 0, b => [b]
  | fuel + 1, b => if b.length ≤ n then [b] else b.take n :: cutBody n fuel (b.drop n)
/-- Body bytes a datagram may hold. -/
def datagramMax (s : State) (p : Hub) : Nat := if fldAt s F.ethCtlJumbo 0 (hubIndex p) 0 = 1 then 8192 else 1344
/-- Whether a datagram is well-formed, and its tag verifies where it names an open session. -/
def dgramOk (s : State) (h : CtrHdr) (code : Nat) (d : Dgram) : Bool :=
  d.ok && decide (1 ≤ h.count) && decide (h.count ≤ 196) && decide (d.frag < h.count) && decide (d.body.length ≤ datagramMax s h.port) &&
  (match findSession s h.session with
    | some x => code == 0x0001 || d.mac == hmac x.key (reqHeader h code d ++ d.body)
    | none => true)
/-- The datagrams in which a port sends a reply or an event (R450, R451): pieces that share one SEQ, each with its own header and, where
the message is tagged, its own tag under the session's key. -/
def CtrMsg.datagrams (s : State) (m : CtrMsg) : List (List Byte) :=
  let parts := cutBody (datagramMax s m.port) 196 m.body
  (withIdx parts).map (fun p =>
    let d := m.header p.2.length p.1 parts.length ++ p.2
    match (if m.tagged then findSession s m.session else none) with
    | some x => d ++ hmac x.key d
    | none => d)
/-- Datagrams discarded. -/
def discards (s : State) (n : Nat) : State := satFldAt s F.ctrStatDiscards 0 0 0 n

/-- The untagged answer to a request that names no open session, at most 100 in a second. -/
def unknownSession (s : State) (c : Caller) : State :=
  let u := if s.untagged.2 = s.tb.sec then s.untagged else (0, s.tb.sec)
  if u.1 < 100 then emit { s with untagged := (u.1 + 1, u.2) } (.counter (replyMsg s c C.ctrSessionUnknown [] false))
  else discards { s with untagged := u } 1

/-- The datagrams of a message that have come, with those of before; and the body once none is missing. -/
def assemble (s : State) (h : CtrHdr) (code : Nat) (ds : List Dgram) : State × Option (List Byte) :=
  let mine (p : Partial) : Bool := p.port == h.port && p.session == h.session && p.seq == h.seq && p.command == code && p.count == h.count
  let old := match s.partials.find? mine with | some p => p.got | none => []
  let got := ds.foldl (fun m d => SMap.insert m d.frag d.body) old
  let rest := s.partials.filter (fun p => !mine p)
  if got.length = h.count then ({ s with partials := rest }, some (got.flatMap (·.2)))
  else ({ s with partials := rest ++ [⟨h.port, h.session, h.seq, code, h.count, got⟩] }, none)

/-- A complete request of an open session: a later SEQ is accepted, the last one repeated, an earlier one refused; a request
that finds one executing waits for it (R453). -/
def takeReq (s : State) (x : Session) (c : Caller) (body : List Byte) (f : Service) : State :=
  if c.seq = x.lastSeq then
    match x.cached with
    | some m => emit s (.counter { m with port := c.hub })
    | none => s
  else if laterThan c.seq x.lastSeq = false then emit s (.counter (replyMsg s c C.ctrReplay [] true))
  else
    let s1 := modSession s x.id (fun x => { x with lastSeq := c.seq, cached := none })
    if x.busy then modSession s1 x.id (fun x => { x with backlog := x.backlog ++ [⟨c, body⟩] })
    else runReq s1 c body f

/-- Whether a hub that is not active answers on its port. -/
def answersStandby (x : HubSt) : Bool := x.link && !x.isolated && (x.health == .standbySync || x.health == .standbyUnsync || x.health == .hbLost || x.health == .handoverReq)

/-- A Counter request of a command: only the active hub serves it; the standby answers HUB_STANDBY (R449); with no active
hub none is answered (R35). -/
def counterRow (code : Nat) (h : CtrHdr) (f : Service) (s : State) : State :=
  let c : Caller := ⟨h.port, h.session, h.seq, h.tag, code⟩
  if s.phase ≠ .running ∨ s.active.isNone then s
  else if s.active ≠ some h.port then
    if answersStandby (hubOf s h.port) then emit s (.counter (replyMsg s c C.hubStandby [] ((findSession s h.session).isSome))) else s
  else if (hubOf s h.port).link = false then s
  else
    let good := h.dgrams.filter (dgramOk s h code)
    let s1 := discards s (h.dgrams.length - good.length)
    if good.isEmpty then s1
    else if (findSession s h.session).isNone ∧ code ≠ 0x0001 then unknownSession s1 c
    else match assemble s1 h code good with
      | (s2, none) => s2
      | (s2, some body) =>
        if code = 0x0001 then f s2 c body
        else match findSession s2 h.session with
          | some x => takeReq s2 x c body f
          | none => s2

/-! ### Sessions (R455, R456, R458) -/

/-- Public half of the device identity key. -/
def idPub (s : State) : List Byte := padTo 32 (Config.identityKey s.ident.serial s.sec.idGen)
/-- Fresh random bytes. -/
def takeRandom (s : State) (n : Nat) : List Byte × State :=
  (padTo n (Config.randomBytes s.sec.random n), { s with sec := { s.sec with random := s.sec.random + 1 } })

/-- Session numbers go up from 1. -/
def sessionId (s : State) : Nat := s.sessionNext % (2 ^ 32 - 1) + 1

/-- Loads that a failover ended are reported once the host holds an open session (R105). -/
def tellAbandoned (s : State) : State :=
  if s.sessions.any Session.isOpen then s.pl.abandoned.foldl fileReport { s with pl := { s.pl with abandoned := [] } } else s

/-- SESSION_OPEN (R455): answered in the clear; the session's key comes of the exchange. (DESIGN CHOICE, log entry 25) -/
def svcSessionOpen : Service := fun s c b =>
  let ans (s : State) (session status : Nat) (body : List Byte) : State := emit s (.counter (replyMsg s { c with session := session } status body false))
  if b.length ≠ 1220 ∨ 4 ≤ fieldLE b 0 2 then ans s 0 C.ctrMalformed []
  else if 16 ≤ s.sessions.length then ans s 0 C.ctrSessionsFull []
  else
    let id := sessionId s
    let (nonceM, s1) := takeRandom s 32
    let (ct, ss) := Config.mlkemEncaps (slice b 36 1184) s1.sec.random
    let s2 : State := { s1 with sec := { s1.sec with random := s1.sec.random + 1 }, sessionNext := s1.sessionNext + 1 }
    let head := leBytes 4 id ++ nonceM ++ padTo 1088 ct
    let h := sha256 (b ++ head)
    let x : Session :=
      ⟨id, bitAt (fieldLE b 0 2) 0, bitAt (fieldLE b 0 2) 1, false, fieldLE b 2 2, false, hkdf32 ss (slice b 4 32 ++ nonceM) (asciiBytes "Foliramen Counter"), h,
       c.seq, none, false, [], 0, 0, 0⟩
    tellAbandoned (ans { s2 with sessions := s2.sessions ++ [x] } id C.ok (head ++ padTo 7856 (Config.slhSign (idPub s) h)))

/-- A session ends: its stages are released, its unfinished messages discarded. -/
def closeSession (s : State) (id : Nat) : State :=
  { s with sessions := s.sessions.filter (fun x => x.id != id), stages := s.stages.filter (fun g => g.session != id),
           partials := s.partials.filter (fun p => p.session != id) }

/-- Whether SIG_H lets a session in: 0xFFFF is accepted unverified outside Field (R534, R541). (DESIGN CHOICE, log entry 25) -/
def authOk (s : State) (x : Session) (sig : List Byte) : Bool :=
  if x.keyIndex = 0xFFFF ∧ s.sec.lc ≠ .field then true
  else match keyOf s [1, 2] x.keyIndex with
    | some k => Config.slhVerify k x.hash sig
    | none => false

/-- SESSION_AUTH (R455): a signature that does not verify closes the session. -/
def svcSessionAuth : Service := sized 7856 (fun s c b =>
  match findSession s c.session with
  | none => s
  | some x =>
    if authOk s x b then tellAbandoned (finishReq (modSession s x.id (fun x => { x with authed := true, admin := (keyOf s [2] x.keyIndex).isSome })) c C.ok [])
    else closeSession (finishReq s c C.ctrAuthFailed []) x.id)

/-- SESSION_CLOSE. -/
def svcSessionClose : Service := sized 0 (fun s c _ => closeSession (finishReq s c C.ok []) c.session)

/-- COUNTER_FRAGMENT_TIMEOUT: a message not complete is discarded (R451). -/
def execCounterFragmentTimeout (port : Hub) (session : Nat) (seq : Word) (s : State) : Out :=
  done { s with partials := s.partials.filter (fun p => !(p.port == port && p.session == session && p.seq == seq)) }

/-- SESSION_IDLE_TIMEOUT: a session idle for IDLE_S is closed; one whose command executes is not idle. -/
def execSessionIdleTimeout (session : Nat) (s : State) : Out :=
  done (match findSession s session with
    | none => s
    | some x => if x.busy || s.active.isNone then s else closeSession s session)

/-! ### Staging buffers (R460) -/

/-- BUNDLE_STAGE: one stage for a session, two for the module. Its queue pair, address and key are the module's own open
choice. (DESIGN CHOICE, log entry 25) -/
def svcBundleStage : Service := sized 4 (fun s c b =>
  let len := fieldLE b 0 4
  if len = 0 ∨ 268435456 < len then malformed s c b
  else if s.stages.any (fun g => g.session == c.session) ∨ 2 ≤ s.stages.length then finishReq s c C.ctrStageBusy []
  else
    let id := if s.stages.any (fun g => g.id == 1) then 2 else 1
    let (qpn, s1) := takeFree s
    let (addr, s2) := takeFree s1
    let (rkey, s3) := takeFree s2
    finishReq { s3 with stages := s3.stages ++ [⟨id, c.session, len, []⟩] } c C.ok
      (leBytes 2 id ++ leBytes 4 (qpn.toNat % 2 ^ 24) ++ leBytes 8 addr.toNat ++ leBytes 4 rkey.toNat))

def releaseStage (s : State) (id : Nat) : State := { s with stages := s.stages.filter (fun g => g.id != id) }

/-! ### Reads of bundles and dead letters (R66, R68, R90, R209, R458, R461) -/

/-- A handle of a bundle held, for a command that names one. -/
def withHandle (s : State) (c : Caller) (h : Nat) (f : Nat → Bundle → State) : State :=
  match byHandle s h with
  | none => finishReq s c C.handleUnknown []
  | some (slot, b) => f slot b

/-- Entries of MAP_READ by kind. -/
def mapEntries (s : State) (b : Bundle) (kind : Nat) : List (List Byte) :=
  match kind with
  | 0 => (withIdx b.img.stations).map (fun p =>
      let st := b.stations[p.1]?
      p.2.name ++ leBytes 2 (match st with | some x => cellNo x | none => 0xFFFF) ++ leBytes 2 (match st with | some x => x.relocations | none => 0) ++ leBytes 12 0)
  | 1 => if !b.placed then [] else (withIdx (b.img.regions.zip b.regions)).map (fun p =>
      leBytes 2 p.2.1.owner ++ leBytes 1 (((stationRegions b.img p.2.1.owner).idxOf p.1)) ++ leBytes 1 p.2.2.stack ++ leBytes 4 p.2.1.slots ++
      leBytes 8 (globalAddr s p.2.2.stack p.2.2.off))
  | _ => if !b.placed then [] else (withIdx (b.img.tallies.zip b.tallies)).map (fun p =>
      leBytes 4 p.2.1.id ++ leBytes 2 (match p.2.2.home with | some i => (match b.stations[i]? with | some st => cellNo st | none => 0xFFFF) | none => 0xFFFF) ++ leBytes 2 0)

/-- MAP_READ (R90): accepted in every state. -/
def svcMapRead : Service := sized 10 (fun s c b =>
  let kind := fieldLE b 2 1
  let count := fieldLE b 8 2
  if 3 ≤ kind ∨ fieldLE b 3 1 ≠ 0 ∨ 256 < count then malformed s c b
  else withHandle s c (fieldLE b 0 2) (fun _ bd =>
    finishReq s c C.ok (leBytes 4 (fld s F.bndMapGenGen) ++ (((mapEntries s bd kind).drop (fieldLE b 4 4)).take count).flatten)))


/-- DLQ_READ (R68). -/
def svcDlqRead : Service := sized 2 (fun s c b =>
  let d := fieldLE b 0 1
  let n := fieldLE b 1 1
  if 8 ≤ d ∨ n = 0 ∨ 16 < n then malformed s c b
  else finishReq s c C.ok (((dlqOf s d).take n).flatMap (DlqEntry.bytes d)))
/-- DLQ_RELEASE (R68): the oldest entries removed, all where there are fewer. -/
def svcDlqRelease : Service := sized 4 (fun s c b =>
  let d := fieldLE b 0 1
  if 8 ≤ d ∨ fieldLE b 1 1 ≠ 0 then malformed s c b
  else
    let n := min (fieldLE b 2 2) (dlqOf s d).length
    finishReq { s with dies := modAt s.dies d (fun x => { x with dlq := x.dlq.drop n }) } c C.ok (leBytes 2 n))

/-- DELTA_READ (R76, R209): every field is 0 before the first close, and before the bundle is placed. -/
def svcDeltaRead : Service := sized 2 (fun s c b =>
  withHandle s c (fieldLE b 0 2) (fun _ bd =>
    finishReq s c C.ok ((withIdx bd.img.streams).flatMap (fun p =>
      if p.2.kind = 2 ∧ p.2.producer < 0xFFFE then padTo 32 (match bd.streams[p.1]? with | some x => x.delta.last | none => []) else []))))

/-- HOST_QP (R461): connects a queue pair to a host stream, or replaces its connection. (DESIGN CHOICE, log entry 25; DESIGN CHOICE, log entry 26) -/
def svcHostQp : Service := sized 24 (fun s c b =>
  match streamById s (fieldLE b 0 4) (fun r => r.kind == 4) with
  | none => finishReq s c C.streamUnknown []
  | some v =>
    let (qpn, s1) := takeFree s
    let next := match v.x.flight.head? with
      | some f => if v.r.producer = 0xFFFF then v.x.nextSeq else f.tile.hdr.seq
      | none => v.x.nextSeq
    finishReq (modStream s1 v.slot v.si (fun x => { x with qp := some (fieldLE b 4 4), receives := 0 })) c C.ok
      (leBytes 4 (qpn.toNat % 2 ^ 24) ++ leBytes 4 next.toNat))

end Sys2Proof.Machine
end

