-- ==== Sys2Proof/Machine/Load.lean ====
section
/-!
DEFINITION. Loading a bundle and what follows (R75 to R98, R105): the steps of R79 from verification to READY, the PLAN
check, victims under PREEMPT, START, HOLD, EVICT and UNLOAD, and the commands and events that carry them.
-/
namespace Sys2Proof.Machine
open Sys2Proof

/-! ### A bundle at READY -/

def freshDelta : DeltaEnd := ⟨false, 0, none, [], false, 0, 0, 0, 0, 0, false, false, []⟩
def freshColl : Coll := ⟨false, 0, [], 0, 0, false, 0, false, 0, 0, 0, [], [], false⟩
def freshEnd : ConsEnd := ⟨[], 0, [], false, 0, false⟩
def freshStream (r : StreamRec) : Stream := ⟨0, r.cons.map (fun _ => freshEnd), [], [], freshDelta, freshColl, 0, none⟩
def freshTally (r : TallyRec) : Tally :=
  ⟨BitVec.ofNat 32 r.initial, 0, 0, 0, false, [], [], if r.home = 0xFFFF then none else some r.home, r.postcode, []⟩
/-- A bundle that begins to load: nothing placed. -/
def freshBundle (reuse order stage : Nat) (img : BundleImg) (opts : LoadOpts) (reply : Caller) : Bundle :=
  { reuse := reuse, st := .loading, img := img, opts := opts, stage := stage, loaded := order, fits := false, placed := false, everStarted := false,
    stations := [], streams := [], regions := [], spills := [], tallies := [], preload := 0, haltReported := false, evictFrom := .running,
    victims := [], planShort := [], reply := some reply, frames := [], frameK := 0, frameS0 := 0, lastFrame := none, slacks := [],
    sinceRaise := 0, baseMv := none, requests := [], raddReported := [] }

/-! ### Wiping and freeing -/

def wipeRuns (s : State) (l : List Placed) : State :=
  l.foldl (fun s p => modStack s p.stack (fun k => { k with mem := k.mem.wipe p.off p.len })) s

/-- Every engine remembers the streams between modules whose consumer end lay in a bundle (R63), at most 4,096, the oldest
forgotten first. Of several consumers the name kept is that of the first entry (DESIGN CHOICE, log entry 24). -/
def rememberStreams (s : State) (b : Bundle) : State :=
  let l := (b.img.streams.filter fromRemote).map (fun r => (⟨r.id, consumerName b (r.cons.headD ⟨0, 0, 0⟩)⟩ : Remembered))
  { s with remembered := s.remembered.map (fun e =>
    let m := e.filter (fun x => !l.any (fun y => y.id == x.id)) ++ l
    m.drop (m.length - 4096)) }
/-- Identifiers that a placed consumer end serves again are forgotten (R63). -/
def forgetStreams (s : State) (b : Bundle) : State :=
  { s with remembered := s.remembered.map (fun e => e.filter (fun x => !b.img.streams.any (fun r => fromRemote r && r.id == x.id))) }

/-- Where a tile under way to a consumer loses its route: the consumer's cell. -/
def deadTile (s : State) (b : Bundle) (c : ConsumerRec) (t : Tile) : State :=
  let cell := match b.stations[c.station]? with | some st => cellNo st | none => 0xFFFF
  dlqAdd s (dieOf cell) C.dlqNoConsumer cell (consumerName b c) t

/-- Tiles under way in a bundle that is unloaded or evicted (R62): those from the host stay with their stream, those bound
for another module or a storage target go on, and those bound for a station that is gone, the results of a collective among
them, enter the dead-letter queue. (DESIGN CHOICE, log entry 24) -/
def endFlights (s : State) (b : Bundle) : State :=
  (b.img.streams.zip b.streams).foldl (fun s p =>
    if p.1.kind = 4 then s
    else p.2.flight.foldl (fun s f => f.toCons.foldl (fun s ci =>
      match p.1.cons[ci]? with
      | none => s
      | some c =>
        if c.station = 0xFFFE then s
        else if c.station = 0xFFFF then
          let cell := match b.stations[p.1.producer]? with | some st => cellNo st | none => 0xFFFF
          let dest := if p.1.kind = 5 then fieldLE p.1.param 0 2 else p.1.remote
          (sendTile s (dieOf cell) cell dest (if p.1.kind = 5 then 3 else p.1.vc) none f.tile).getD s
        else deadTile s b c f.tile) s) s) s

/-- Tiles that the reorder store held for the streams of a bundle that is unloaded: their consumer end is gone while they are
under way (R62). -/
def endReorder (s : State) (b : Bundle) : State :=
  (b.img.streams.zip b.streams).foldl (fun s p => (p.1.cons.zip p.2.ends).foldl (fun s q => q.2.reorder.foldl (fun s t =>
    dlqAdd s (reorderDie b p.1) C.dlqNoConsumer 0xFFFF (consumerName b q.1) t) s) s) s

/-- Tiles discarded with a stream (R58): those in its input queues, and a host stream's that were acknowledged. -/
def discardedOf (r : StreamRec) (x : Stream) : Nat :=
  (x.ends.map queued).foldl (· + ·) 0 + (if r.kind = 4 then x.flight.length else 0)
/-- The UNLOAD reply (R58, R458). -/
def unloadBody (b : Bundle) : List Byte :=
  (withIdx b.img.streams).flatMap (fun p => leBytes 4 p.2.id ++ leBytes 4 (match b.streams[p.1]? with | some x => discardedOf p.2 x | none => 0))

/-- A bundle leaves: its stations stop, its tallies end, its routes vanish, its stack bytes are wiped, its slot is free (R81,
R93, R279). (DESIGN CHOICE, log entry 24) -/
def dropBundle (s : State) (slot : Nat) : State :=
  match slotBundle s slot with
  | none => s
  | some b =>
    let s1 := orphanHomed (stallAll s slot) slot
    let b1 := (slotBundle s1 slot).getD b
    let s2 := if b.placed then rememberStreams (endReorder (endFlights s1 b1) b1) b1 else s1
    let s3 := clearSlot (wipeRuns s2 (placedOf b1)) slot
    settle (if b.placed then mapGen s3 else s3) s

/-! ### Load replies (R85, R86) -/

def entriesBody (l : List Entry) : List Byte := leBytes 2 l.length ++ l.flatMap Entry.bytes
/-- A load is refused: nothing of the bundle remains, its stage is released. A load that UNLOAD cancels counts as refused (DESIGN
CHOICE, log entry 24). -/
def refuseLoad (s : State) (c : Caller) (stage status : Nat) (l : List Entry) : State :=
  finishReq (releaseStage (setEvent s F.bndEventRefused) stage) c status (leBytes 2 0xFFFF ++ entriesBody l)
/-- Victims of a load that is given up: stations that stopped at drain points go on, requests are withdrawn (R98). (DESIGN CHOICE, log entry 24) -/
def releaseDrain (s : State) (slot : Nat) : State :=
  match slotBundle s slot with
  | none => s
  | some b =>
    if b.st ≠ .evicting then s
    else
      let undo (st : Station) : Station :=
        let st1 := { st with drainReq := false }
        if b.evictFrom = .running && st.run = .drained then resumed st1 else st1
      let s1 := setSlot s slot { b with stations := b.stations.map undo, st := if b.evictFrom = .running then .running else .evicting }
      relocateAll (if b.evictFrom = .running then s1 else holdBundle s1 slot) slot

/-- A load that holds a slot is refused. -/
def refuseSlot (s : State) (slot status : Nat) (l : List Entry) : State :=
  match slotBundle s slot with
  | none => s
  | some b =>
    let s1 := b.victims.foldl releaseDrain s
    let s2 := dropBundle s1 slot
    let s3 := { s2 with pl := { s2.pl with busy := if s2.pl.busy = some slot then none else s2.pl.busy, ready := s2.pl.ready.filter (· != slot) } }
    match b.reply with
    | some c => refuseLoad s3 c b.stage status l
    | none => s3

/-! ### The PLAN check (R79, R80) -/

/-- Whether a port is absent: marked so, or not on the part (R39). -/
def portAbsent (s : State) (p : Nat) : Bool := decide (portCount s.ident ≤ p) || s.fab.absent.contains p
/-- Lanes of a port lit to a neighbour: those of the link to it that has most of them (R80, R373). -/
def litLanes (s : State) (c : CircuitRec) : Nat :=
  maxOf (((portLinks s c.port).filter (fun e => e.2.st == .up && e.2.farPostcode == c.neighbour)).map (fun e => e.2.lanes.length))
/-- The PLAN entries that fail at this instant: code, number, lanes lit. -/
def planFails (s : State) (img : BundleImg) : List (Nat × Nat × Nat) :=
  match img.plan with
  | none => []
  | some p => (withIdx p.circuits).filterMap (fun e =>
      if portAbsent s e.2.port then some (C.planAbsent, e.1, 0)
      else if litLanes s e.2 < e.2.minLanes then some (C.planUnlit, e.1, litLanes s e.2) else none)
/-- The entries that a bundle in PLAN_WAIT waits for and that are not lit: whatever keeps one unlit, it fails at the end of the
wait as unlit (R80). (DESIGN CHOICE, log entry 22: a port that becomes absent during the wait) -/
def stillUnlit (s : State) (b : Bundle) : List (Nat × Nat × Nat) :=
  ((planFails s b.img).filter (fun f => !b.planShort.any (fun g => g.2.1 == f.2.1))).map (fun f => (C.planUnlit, f.2))
def planEntry (img : BundleImg) (f : Nat × Nat × Nat) : Entry :=
  ⟨f.1, 6, f.2.1, (match img.plan.bind (fun p => p.circuits[f.2.1]?) with | some c => c.minLanes | none => 0), f.2.2, [], 0⟩
def degradedOk (img : BundleImg) : Bool := match img.plan with | some p => p.degradedOk | none => false
def planWaitMs (img : BundleImg) : Nat := match img.plan with | some p => p.waitMs | none => 0

/-! ### The fit (R77, R84, R98) -/

/-- The bundle that REPLACE names. -/
def replaced (s : State) (o : LoadOpts) : Option Nat := o.replace.bind (fun h => (byHandle s h).map (·.1))
/-- Whether REPLACE names no bundle held. (DESIGN CHOICE, log entry 22) -/
def replaceUnknown (s : State) (o : LoadOpts) : Bool := o.replace.isSome && (replaced s o).isNone

/-- Slots in use; a load that found none free has none of its own yet. -/
def slotsUsed (s : State) : Nat := (s.pl.slots.filter (fun e => decide (e.1 < 64))).length

def optsKey (o : LoadOpts) : List Nat := [(match o.replace with | some h => h + 1 | none => 0), b2n o.preempt, b2n o.start, b2n o.countersReadable]
/-- What a fit counts: the cells of `victims` free, everything of the replaced bundle free, and the loading bundle's own
slot as its own. -/
def fitIn (s : State) (img : BundleImg) (o : LoadOpts) (own : Option Nat) (victims : List Nat) : FitIn :=
  let rep := (replaced s o).toList
  let others := s.pl.slots.filter (fun e => e.2.fits && !rep.contains e.1)
  { img := img, a := availOf s (rep ++ victims) rep
    slotsFree := 64 - slotsUsed s + rep.length + (match own with | some k => if k < 64 then 1 else 0 | none => 0)
    shares := (others.map (fun e => e.2.img.limits.powerShare)).foldl (· + ·) 0
    cap := fld s F.pwrCapCapW
    streamIds := others.flatMap (fun e => e.2.img.streams.map (·.id))
    tallyIds := others.flatMap (fun e => e.2.img.tallies.map (·.id))
    dies := s.ident.dies
    key := pickKey s img (optsKey o) (rep ++ victims) rep }

/-- Eligible victims in the order they are taken: lowest PRIORITY, among equals the most recently loaded (R98). -/
def eligible (s : State) (img : BundleImg) (o : LoadOpts) : List Nat :=
  if !o.preempt then []
  else
    let rep := (replaced s o).toList
    let l := s.pl.slots.filter (fun e => (e.2.st == .running || e.2.st == .held) && e.2.img.limits.evictable &&
      decide (e.2.img.limits.priority < img.limits.priority) && !rep.contains e.1)
    let before (x y : Nat × Bundle) : Bool :=
      decide (x.2.img.limits.priority < y.2.img.limits.priority) ||
      (x.2.img.limits.priority == y.2.img.limits.priority && decide (y.2.loaded < x.2.loaded))
    let rec insert (x : Nat × Bundle) : List (Nat × Bundle) → List (Nat × Bundle)
      | [] => [x]
      | y :: r => if before x y then x :: y :: r else y :: insert x r
    (l.foldl (fun acc x => insert x acc) []).map (·.1)

/-- The fit with the fewest victims, in their order; with every eligible one where none makes it fit. -/
def fitVictims (s : State) (img : BundleImg) (o : LoadOpts) (own : Option Nat) : List Nat × FitIn × FitOut :=
  let el := eligible s img o
  let at_ (k : Nat) : FitIn := fitIn s img o own (el.take k)
  match (List.range (el.length + 1)).find? (fun k => (fitCheck (at_ k)).failed.isEmpty) with
  | some k => (el.take k, at_ k, fitCheck (at_ k))
  | none => (el, at_ el.length, fitCheck (at_ el.length))

/-! ### Placing (R79 steps 4 to 7, R88) -/

def cellIn (p : Plan) (i : Nat) : Nat :=
  (p.dies.findSome? (fun d => (d.1.zip d.2.1).findSome? (fun q => if q.1 = i then some q.2 else none))).getD 0xFFFF
def runIn (p : Plan) (n : Need) : Option Placed := (p.runs.find? (fun r => r.1 == n)).map (·.2)
def nowhere : Placed := ⟨0, 0, 0⟩

/-- The bundle with every station, region, reserve and save area placed. -/
def placeBundle (b : Bundle) (p : Plan) : Bundle :=
  { b with
    fits := true, placed := true
    stations := (withIdx b.img.stations).map (fun q => freshStation b.img q.2 (cellIn p q.1) (runIn p (.save q.1)))
    streams := b.img.streams.map freshStream
    regions := (List.range b.img.regions.length).map (fun i => (runIn p (.region i)).getD nowhere)
    spills := (List.range b.img.spill.length).map (fun i => (runIn p (.spill i)).getD nowhere)
    tallies := b.img.tallies.map freshTally }

/-- Areas of stack memory that the host may reach (R258), for a word at an offset: none where it lies in no region, else
whether it may be written. -/
def hostArea (s : State) (n off : Nat) : Option Bool :=
  s.pl.slots.findSome? (fun e =>
    if e.2.st = .loading ∨ e.2.st = .planWait then none
    else (e.2.img.regions.zip e.2.regions).findSome? (fun r =>
      if r.2.stack = n ∧ r.2.off ≤ off ∧ off < r.2.off + r.1.slots * slotBytes then
        (if r.1.readOnly then some false
         else if e.2.st = .running ∨ e.2.st = .evicting then none else some true)
      else none))
/-- Whether a run of words of this module's memory is readable by the host (R257, R258). -/
def hostReadableRun (s : State) (addr len : Nat) : Bool :=
  decide (addr / 2 ^ 40 = postcode s) && (match stackOf s (addr / 2 ^ 36 % 16) with | some k => !k.failed | none => false) &&
  (List.range (ceilDiv len 16)).all (fun i => (hostArea s (addr / 2 ^ 36 % 16) (addr % 2 ^ 36 + 16 * i)).isSome)

/-- Whether a constant's image comes from outside: a storage object, or memory of another module. -/
def constExternal (s : State) (c : ConstRec) : Bool := c.source == 1 || c.address / 2 ^ 40 != postcode s
/-- The constants of a bundle, each with the regions preloaded from it. -/
def preloads (b : Bundle) : List (List Placed × ConstRec) :=
  (withIdx b.img.consts).map (fun e => ((b.img.regions.zip b.regions).filterMap (fun p => if p.1.const = e.1 + 1 then some p.2 else none), e.2))
def hashOk (c : ConstRec) (data : List Byte) : Bool := allZero c.sha || sha256 data == c.sha

/-- An image in this module's memory read, checked, and put with its check fields into the regions preloaded from it; the status
where that fails. An image that no region names is checked all the same (R85). -/
def preloadLocal (s : State) (ps : List Placed) (c : ConstRec) : Except Nat State :=
  let n := c.address / 2 ^ 36 % 16
  let off := c.address % 2 ^ 36
  if hostReadableRun s c.address c.length = false then .error C.constSource
  else
    let r := stackRead (openRows s n off c.length) n off c.length
    if hashOk c r.bytes = false then .error C.constHash
    else match stackOf r.st n with
      | some k => .ok (ps.foldl (fun s p => modStack (openRows s p.stack p.off c.length) p.stack (fun q =>
          { q with mem := k.mem.carry off c.length q.mem p.off })) r.st)
      | none => .error C.constSource
def preloadAll (s : State) : List (List Placed × ConstRec) → Except Nat State
  | [] => .ok s
  | (ps, c) :: r => if constExternal s c then preloadAll s r else
    match preloadLocal s ps c with
    | .ok s1 => preloadAll s1 r
    | .error e => .error e
/-- Preload progress in percent when the images of this module's memory are in place (R79, R106). (DESIGN CHOICE, log entry 24:
progress counts image bytes, and an image from outside comes in one command) -/
def preloadPercent (s : State) (b : Bundle) : Nat :=
  let bytes (l : List (List Placed × ConstRec)) : Nat := (l.map (fun e => e.2.length)).foldl (· + ·) 0
  let l := preloads b
  100 * bytes (l.filter (fun e => !constExternal s e.2)) / max 1 (bytes l)

/-! ### Running (R81, R142, R166, R170, R203, R297, R305) -/

/-- Every station of a bundle moves into execution. -/
def startStations (b : Bundle) : List Station :=
  b.stations.map (fun st => match st.run with
    | .halted => st
    | .drained => resumed st
    | _ => { st with run := .running, drainReq := false })
/-- The bundle is RUNNING; its first START sets its frame numbering and raises its keyframe request. (DESIGN CHOICE, log entry 24) -/
def startBundle (s : State) (slot : Nat) : State :=
  match slotBundle s slot with
  | none => s
  | some b =>
    let first := !b.everStarted
    let b1 := { b with st := .running, everStarted := true, stations := startStations b }
    let b2 := if first then { b1 with frameK := 0, frameS0 := now s, baseMv := some (fld s F.paceFixedFixedMv) } else b1
    let s1 := setSlot s slot b2
    resettle (if first then raiseKey s1 slot else s1)

/-! ### The end of a load -/

/-- READY (R79 step 7), each tally at INITIAL (R266), and RUNNING with the option START; the reply carries the PLAN entries let
through. -/
def readyLoad (s : State) (slot : Nat) : State :=
  match slotBundle s slot with
  | none => s
  | some b =>
    let fresh (p : Tally × TallyRec) : Tally := if p.1.home.isSome then { p.1 with value := BitVec.ofNat 32 p.2.initial } else p.1
    let s0 := setSlot s slot { b with st := .ready, preload := 100, reply := none, tallies := (b.tallies.zip b.img.tallies).map fresh }
    let s1 := (List.range b.tallies.length).foldl (fun s i => release s slot i) s0
    let s2 := setEvent (if s1.pl.busy = some slot then { s1 with pl := { s1.pl with busy := none } } else s1) F.bndEventReady
    let s3 := if b.opts.start then startBundle s2 slot else s2
    let l := sortEntries (b.planShort.map (planEntry b.img))
    match b.reply with
    | some c => finishReq (releaseStage s3 b.stage) c C.ok (leBytes 2 (handleOf slot b) ++ entriesBody l)
    | none => s3

/-- Registers of a slot that a load sets (R320). -/
def slotRegs (s : State) (slot : Nat) : State :=
  let s1 := setFldAt (setFldAt s F.paceFrmOntimeCount 0 slot 0 0) F.paceFrmLateCount 0 slot 0 0
  setFldAt (setFldAt s1 F.paceFrmSlackSlack 0 slot 0 0x80000000) F.paceFrmMinSlack 0 slot 0 0x80000000

/-- The slot that a load takes: its own, or the replaced bundle's where none was free. (DESIGN CHOICE, log entry 22) -/
def finalSlot (s : State) (slot : Nat) : Nat :=
  if slot < 64 then slot else ((List.range 64).find? (fun k => (slotBundle s k).isNone)).getD slot
/-- A slot taken: how often it was taken before is its bundle's reuse count. (DESIGN CHOICE, log entry 22) -/
def takeSlot (s : State) (k : Nat) : Nat × State :=
  let n := SMap.getD s.pl.reuse k 0
  (n % 1024, { s with pl := { s.pl with reuse := SMap.setD s.pl.reuse k (n + 1) 0 } })

/-- A bundle is unloaded: a load it ends is answered LOAD_CANCELLED; an eviction it abandons, HANDLE_UNKNOWN. (DESIGN CHOICE, log
entry 24: the latter) -/
def unloadSlot (s : State) (slot : Nat) : State :=
  match slotBundle s slot with
  | none => s
  | some bd =>
    let s0 := relocateAll s slot
    if bd.st = .loading ∨ bd.st = .planWait then refuseSlot s0 slot C.loadCancelled []
    else
      let s2 := dropBundle s0 slot
      match bd.reply with
      | some e => finishReq s2 e C.handleUnknown []
      | none => s2

/-- Steps 4 to 7: the replaced bundle is unloaded, the new one placed, its resources wiped and preloaded. A load that needs
images from outside goes on when they come. -/
def placeLoad (s : State) (slot : Nat) (o : FitOut) : State :=
  match slotBundle s slot with
  | none => s
  | some b =>
    let s1 := match replaced s b.opts with | some r => unloadSlot s r | none => s
    let k := finalSlot s1 slot
    let (reuse, s2) := if k = slot then (b.reuse, s1) else takeSlot (clearSlot s1 slot) k
    let b1 := { placeBundle b o.plan with reuse := reuse }
    let s3 := setSlot (if s2.pl.busy = some slot then { s2 with pl := { s2.pl with busy := some k } } else s2) k b1
    let s4 := slotRegs (forgetStreams (settle (mapGen (wipeRuns s3 (placedOf b1))) s) b1) k
    match preloadAll s4 (preloads b1) with
    | .error e => refuseSlot s4 k e []
    | .ok s5 =>
      if (preloads b1).any (fun p => constExternal s5 p.2) then
        modBundle { s5 with pl := { s5.pl with busy := some k } } k (fun b => { b with preload := preloadPercent s5 b1 })
      else readyLoad s5 k

/-- A bundle's stations are asked to drain (R96 step 1). (DESIGN CHOICE, log entry 24) -/
def beginEvict (s : State) (slot : Nat) (reply : Option Caller) : State :=
  modBundle s slot (fun b =>
    let ask (st : Station) : Station := match st.run with
      | .running => { st with drainReq := true }
      | .held => { st with run := .running, drainReq := true }
      | _ => st
    { b.dropFrames with evictFrom := b.st, st := .evicting, reply := reply, stations := b.stations.map ask })
/-- Whether every station of a bundle stands at a drain point. -/
def allStopped (b : Bundle) : Bool := b.stations.all movable

/-- Step 3 of R79 onward (R105: an eviction of victims, where the load needs it, comes first). -/
def fitLoad (s : State) (slot : Nat) : State :=
  match slotBundle s slot with
  | none => s
  | some b =>
    if replaceUnknown s b.opts then refuseSlot s slot C.handleUnknown []
    else
      let (victims, _, o) := fitVictims s b.img b.opts (some slot)
      match sortEntries (o.failed ++ b.planShort.map (planEntry b.img)) with
      | e :: es =>
        if o.failed.isEmpty then
          (if victims.isEmpty then placeLoad s slot o
           else victims.foldl (fun s v => beginEvict s v none) { setSlot s slot { b with st := .loading, fits := true, victims := victims } with pl := { s.pl with busy := some slot, slots := SMap.insert s.pl.slots slot { b with st := .loading, fits := true, victims := victims } } })
        else refuseSlot s slot e.code (e :: es)
      | [] =>
        if victims.isEmpty then placeLoad s slot o
        else victims.foldl (fun s v => beginEvict s v none)
          { s with pl := { s.pl with busy := some slot, slots := SMap.insert s.pl.slots slot { b with st := .loading, fits := true, victims := victims } } }

/-- Step 2 (R80): absent entries refuse, or are let through; unlit ones hold the bundle in PLAN_WAIT. -/
def planLoad (s : State) (slot : Nat) : State :=
  match slotBundle s slot with
  | none => s
  | some b =>
    let fails := planFails s b.img
    let absent := fails.filter (fun f => f.1 == C.planAbsent)
    if !absent.isEmpty && !degradedOk b.img then
      refuseSlot s slot C.planAbsent (sortEntries ((if planWaitMs b.img = 0 then fails else absent).map (planEntry b.img)))
    else if fails.length = absent.length then fitLoad (setSlot s slot { b with planShort := absent }) slot
    else if planWaitMs b.img = 0 then
      (if degradedOk b.img then fitLoad (setSlot s slot { b with planShort := fails }) slot
       else refuseSlot s slot C.planUnlit ((fails.filter (fun f => f.1 == C.planUnlit)).map (planEntry b.img)))
    else setSlot s slot { b with st := .planWait, planShort := absent }

/-- The bytes of a stage that a session holds (R460). -/
def stageBytes (s : State) (c : Caller) (id : Nat) : Option (List Byte) :=
  (s.stages.find? (fun g => g.id == id && g.session == c.session)).map Stage.data

/-- A BUNDLE_LOAD's turn (R79 step 1): verified, it takes a slot. One whose REPLACE names no bundle held has no other effect than its
reply and the release of its stage (R77, R460). Loads are numbered as they take their slots, and 'most recently loaded' (R98)
goes by that number (DESIGN CHOICE, log entry 22). -/
def startLoad (s : State) (r : LoadReq) : State :=
  match stageBytes s r.caller r.stage with
  | none => finishReq s r.caller C.ctrMalformed []
  | some bytes =>
    if replaceUnknown s r.opts then finishReq (releaseStage s r.stage) r.caller C.handleUnknown (leBytes 2 0xFFFF ++ entriesBody [])
    else match verifyBundle s bytes with
    | .error e => refuseLoad s r.caller r.stage e []
    | .ok img =>
      let k := ((List.range 64).find? (fun k => (slotBundle s k).isNone)).getD
        (64 + (s.pl.slots.filter (fun e => decide (64 ≤ e.1))).length)
      let (reuse, s1) := if k < 64 then takeSlot s k else (0, s)
      let b := freshBundle reuse s1.pl.loads r.stage img r.opts r.caller
      planLoad { s1 with pl := { s1.pl with loads := s1.pl.loads + 1, slots := SMap.insert s1.pl.slots k b } } k

/-- A FIT_PROBE's turn (R77, R79, R86): steps 1 to 4 on the present state, nothing taken. -/
def runProbe (s : State) (r : LoadReq) : State :=
  match stageBytes s r.caller r.stage with
  | none => finishReq s r.caller C.ctrMalformed []
  | some bytes =>
    if replaceUnknown s r.opts then finishReq s r.caller C.handleUnknown (entriesBody [])
    else match verifyBundle s bytes with
    | .error e => finishReq s r.caller e (entriesBody [])
    | .ok img =>
      let (_, f, o) := fitVictims s img r.opts none
      let plan := (planFails s img).map (planEntry img)
      let refusal := if degradedOk img then (if o.failed.isEmpty then [] else sortEntries (o.failed ++ plan))
        else if !plan.isEmpty then sortEntries plan else o.failed
      finishReq s r.caller (match refusal with | e :: _ => e.code | [] => C.ok) (entriesBody (probeEntries f o plan))

/-- Loads and probes run one at a time, a bundle whose circuits are lit ahead of those that wait (R78, R80). -/
def pumpLoads : Nat → State → State
  | 0, s => s
  | fuel + 1, s =>
    if s.pl.busy.isSome || s.active.isNone then s
    else match s.pl.ready, s.pl.queue with
      | k :: rest, _ =>
        pumpLoads fuel (fitLoad (modBundle { s with pl := { s.pl with ready := rest } } k (fun b => { b with st := .loading })) k)
      | [], r :: rest =>
        let s1 : State := { s with pl := { s.pl with queue := rest } }
        pumpLoads fuel (if r.probe then runProbe s1 r else startLoad s1 r)
      | [], [] => s
def pump_ (s : State) : State := pumpLoads (s.pl.queue.length + s.pl.ready.length) s

/-- BUNDLE_LOAD and FIT_PROBE bodies: STAGE, OPTIONS, REPLACE handle. -/
def svcLoad (probe : Bool) : Service := sized 6 (fun s c b =>
  let o := fieldLE b 2 2
  if 16 ≤ o ∨ (stageBytes s c (fieldLE b 0 2)).isNone then malformed s c b
  else
    let opts : LoadOpts := ⟨if bitAt o 0 then some (fieldLE b 4 2) else none, bitAt o 1, bitAt o 2, bitAt o 3⟩
    pump_ { s with pl := { s.pl with queue := s.pl.queue ++ [⟨probe, c, fieldLE b 0 2, opts⟩] } })
def svcBundleLoad : Service := svcLoad false
def svcFitProbe : Service := svcLoad true

/-! ### Events of a load -/

/-- PLAN_CIRCUITS_LIT: a bundle in PLAN_WAIT goes on when every entry it waits for is lit and no load runs. -/
def planCircuitsLit (s : State) (slot : Nat) : State :=
  match slotBundle s slot with
  | none => s
  | some b =>
    if b.st ≠ .planWait ∨ s.active.isNone ∨ s.pl.ready.contains slot ∨ !(stillUnlit s b).isEmpty then s
    else pump_ { s with pl := { s.pl with ready := s.pl.ready ++ [slot] } }
/-- PLAN_WAIT_EXPIRY: WAIT_MS is over with an entry unlit. -/
def planWaitExpiry (s : State) (slot : Nat) : State :=
  match slotBundle s slot with
  | none => s
  | some b =>
    let unlit := stillUnlit s b
    if b.st ≠ .planWait ∨ s.active.isNone ∨ s.pl.ready.contains slot ∨ unlit.isEmpty then s
    else if degradedOk b.img then
      let s1 := setSlot s slot { b with planShort := b.planShort ++ unlit }
      pump_ { s1 with pl := { s1.pl with ready := s1.pl.ready ++ [slot] } }
    else pump_ (refuseSlot s slot C.planUnlit (unlit.map (planEntry b.img)))

/-- Images from outside put into the regions preloaded from them, in the order of the constants; the status where one could not
be read or fails its hash. (DESIGN CHOICE, log entry 21) -/
def fillImages (s : State) : List (List Placed × ConstRec) → List (List Byte × Bool) → Except Nat State
  | [], _ => .ok s
  | (ps, c) :: r, im =>
    if !constExternal s c then fillImages s r im
    else match im with
      | [] => .error C.constSource
      | (data, ok) :: rest =>
        if !ok || data.length ≠ c.length then .error C.constSource
        else if hashOk c data = false then .error C.constHash
        else fillImages (ps.foldl (fun s p => modStack (openRows s p.stack p.off data.length) p.stack (fun k =>
          { k with mem := k.mem.store p.off data })) s) r rest
/-- PRELOAD_STORAGE_COMPLETE: `images` what came for each constant held outside, and whether it could be read. -/
def preloadComplete (s : State) (slot : Nat) (images : List (List Byte × Bool)) : State :=
  match slotBundle s slot with
  | none => s
  | some b =>
    if s.pl.busy ≠ some slot ∨ b.placed = false ∨ b.st ≠ .loading ∨ s.active.isNone then s
    else match fillImages s (preloads b) images with
      | .ok s1 => pump_ (readyLoad s1 slot)
      | .error e => pump_ (refuseSlot s slot e [])

/-! ### Evictions (R96, R98) -/

/-- Steps 3 and 4 of R96: stations saved, waiters elsewhere end with OWNER_LOST, cells freed, the bundle EVICTED. (DESIGN CHOICE, log entry 24) -/
def finishEvict (s : State) (slot : Nat) : State :=
  match slotBundle s slot with
  | none => s
  | some b =>
    let s1 := orphanHomed s slot
    let s2 := rememberStreams (endFlights s1 b) b
    let s3 := modBundle s2 slot (fun b => { b with streams := (b.img.streams.zip b.streams).map (fun p =>
      if p.1.kind = 4 then p.2 else { p.2 with flight := [] }) })
    let s4 := (List.range b.stations.length).foldl (fun s i => saveStation s slot i) s3
    let s5 := modBundle s4 slot (fun b => { b with st := .evicted, reply := none, stations := b.stations.map (fun st => { st with drainReq := false, relocating := false, relocReported := false }) })
    let s6 := settle (setEvent (mapGen s5) F.bndEventEvicted) s
    match b.reply with
    | some c => finishReq s6 c C.ok []
    | none => s6

/-- The load that waits for a bundle's eviction. -/
def victimOf (s : State) (slot : Nat) : Option (Nat × Bundle) := s.pl.slots.find? (fun e => e.2.st == .loading && e.2.victims.contains slot)
/-- A load whose victims have all stopped, or are gone: their evictions complete and the load goes on from its fit; a victim that
was held or faulted meanwhile keeps it waiting for the DRAIN_BOUND (R170). (DESIGN CHOICE, log entry 24) -/
def victimsDone (s : State) (loader : Nat) (b : Bundle) : State :=
  let ev := b.victims.filter (fun v => match slotBundle s v with | some x => x.st == .evicting | none => false)
  let stuck (v : Nat) : Bool := match slotBundle s v with | some x => x.st != .evicting && x.st != .evicted | none => false
  if b.victims.any stuck then s
  else if ev.all (fun v => match slotBundle s v with | some x => allStopped x | none => true) then
    let s1 := ev.foldl finishEvict s
    let s2 := modBundle { s1 with pl := { s1.pl with busy := none } } loader (fun b => { b with victims := [], fits := false })
    match slotBundle s2 loader with
    | none => s2
    | some b2 =>
      let f := fitIn s2 b2.img b2.opts (some loader) []
      let o := fitCheck f
      match sortEntries o.failed with
      | [] => placeLoad s2 loader o
      | e :: es => refuseSlot s2 loader e.code (sortEntries (e :: es ++ b2.planShort.map (planEntry b2.img)))
  else s
/-- EVICT_DRAINED. -/
def evictDrained (s : State) (slot : Nat) : State :=
  if s.active.isNone then s
  else match victimOf s slot with
    | some (k, b) => pump_ (victimsDone s k b)
    | none => match slotBundle s slot with
      | some b => if b.st = .evicting ∧ allStopped b = true then finishEvict s slot else s
      | none => s
/-- EVICT_DRAIN_TIMEOUT: the requests are withdrawn and the bundle returns to the state before; a load that waited for it is
refused. -/
def evictDrainTimeout (s : State) (slot : Nat) : State :=
  if s.active.isNone then s
  else match victimOf s slot with
    | some (k, _) => pump_ (refuseSlot s k C.drainTimeout [])
    | none => match slotBundle s slot with
      | none => s
      | some b =>
        let s1 := if b.st = .evicting then releaseDrain s slot else s
        match b.reply with
        | some c => if b.st ≠ .loading ∧ b.st ≠ .planWait then finishReq (modBundle s1 slot (fun b => { b with reply := none })) c C.drainTimeout [] else s1
        | none => s1

/-! ### START, HOLD, EVICT, UNLOAD (R75, R81, R96, R97) -/

/-- Cells for the stations of an EVICTED bundle (R97): free ones where its groups, speculation regions and near regions let them;
where that fails, an entry for every failed test (R86). A die that must take a set and has too few free cells gives the
set's own code, CELLS_SHORT of the die for a station of no set (DESIGN CHOICE, log entry 24). -/
def placeCells (s : State) (b : Bundle) : Except (List Entry) (List (List Nat × List Nat × Nat)) :=
  let img := b.img
  let k := pickKey s img [9] [] []
  let a := availOf s [] []
  let dieFor (set : List Nat) : Option Nat :=
    set.findSome? (fun i =>
      match (stationRegions img i).find? (fun g => match img.regions[g]? with | some r => r.anyStack == 0 | none => false) with
      | some g => (b.regions[g]?).map (fun p => p.stack / 2)
      | none => if specOf img i = 0 then none else ((b.spills[specOf img i - 1]?).filter (fun p => p.len != 0)).map (fun p => p.stack / 2))
  let sets := stationSets img
  let fixed := sets.filter (fun c => (dieFor c).isSome)
  let loose := sets.filter (fun c => (dieFor c).isNone)
  let f : FitIn := { img := img, a := a, slotsFree := 1, shares := 0, cap := 2 ^ 32, streamIds := [], tallyIds := [], dies := s.ident.dies, key := k }
  let plain := (plainTests f).filter (fun e => e.code == C.cellsShort || e.code == C.groupShort || e.code == C.specDieShort)
  let short (c : List Nat) (p : Plan) (d : Nat) : Entry :=
    let e := failEntry f (.set c p)
    if e.kind = 0 then { e with kind := 1, scope := d, need := c.length, have_ := p.left.onDie d } else { e with have_ := p.left.onDie d }
  let step (acc : List Entry × Plan) (c : List Nat) : List Entry × Plan := match dieFor c with
    | none => acc
    | some d =>
      let p := acc.2
      if p.left.onDie d < c.length then (acc.1 ++ [short c p d], p)
      else
        let used := (rotate (p.left.cells.filter (fun x => x / 256 == d)) (k.at_ p.left.pick)).take c.length
        (acc.1, { p with dies := p.dies ++ [(c, used, d)], left := { p.left with cells := p.left.cells.filter (fun x => !used.contains x), pick := p.left.pick + 1 } })
  let r := fixed.foldl step ([], ⟨[], [], a⟩)
  let failed := plain ++ r.1.filter (fun e => !plain.any (fun x => x.code == e.code && x.kind == e.kind && x.scope == e.scope))
  if !failed.isEmpty then .error failed
  else match placeSets k s.ident.dies true .ok ((loose.filter (fun c => decide (1 < c.length)) ++ loose.filter (fun c => !decide (1 < c.length))).map (fun c => (c, []))) r.2 with
    | .ok q => .ok q.dies
    | .error e => .error [failEntry f e]

/-- START of an EVICTED bundle: its stations on free cells, its state restored, its tallies' values with it (R97, R279). -/
def startEvicted (s : State) (slot : Nat) (b : Bundle) (c : Caller) : State :=
  match placeCells s b with
  | .error l => finishReq s c (match sortEntries l with | e :: _ => e.code | [] => C.cellsShort) (entriesBody (sortEntries l))
  | .ok dies =>
    let plan : Plan := ⟨dies, [], ⟨[], [], [], 0⟩⟩
    let s1 := (List.range b.stations.length).foldl (fun s i => restoreStation s slot i (cellIn plan i)) s
    let s2 := modBundle s1 slot (fun b => { b with tallies := b.tallies.map (fun t => if t.home.isSome then { t with orphaned := false } else t) })
    let s3 := settle (forgetStreams (mapGen s2) b) s
    finishReq (resettle (modBundle s3 slot (fun b => { b with st := .running }))) c C.ok []

/-- START. A station that waits for a cell to move to is tried again first (R102). -/
def svcStart : Service := sized 2 (fun s c b =>
  withHandle s c (fieldLE b 0 2) (fun slot bd =>
    match bd.st with
    | .evicted => startEvicted s slot bd c
    | .ready => finishReq (startBundle s slot) c C.ok []
    | .held =>
      let s1 := relocateAll s slot
      (match slotBundle s1 slot with
        | some b1 =>
          if b1.stations.any (fun st => st.relocating && movable st) then finishReq s1 c C.relocateNoCell []
          else finishReq (startBundle s1 slot) c C.ok []
        | none => s1)
    | _ => finishReq s c C.stateInvalid []))

/-- HOLD. -/
def svcHold : Service := sized 2 (fun s c b =>
  withHandle s c (fieldLE b 0 2) (fun slot bd =>
    if bd.st = .running then finishReq (holdBundle s slot) c C.ok [] else finishReq s c C.stateInvalid []))

/-- EVICT: the reply comes when every station has stopped and its state is saved, or at the time limit; an earlier EVICT that a
station fault ended is answered first where its own is still due (R170). -/
def svcEvict : Service := sized 2 (fun s c b =>
  withHandle s c (fieldLE b 0 2) (fun slot bd =>
    if bd.st ≠ .running ∧ bd.st ≠ .held then finishReq s c C.stateInvalid []
    else if bd.img.limits.evictable = false then finishReq s c C.evictNotAllowed []
    else
      let s1 := match bd.reply with | some old => finishReq s old C.drainTimeout [] | none => s
      beginEvict s1 slot (some c)))

/-- UNLOAD: accepted in every state. -/
def svcUnload : Service := sized 2 (fun s c b =>
  withHandle s c (fieldLE b 0 2) (fun slot bd =>
    let body := unloadBody bd
    let s1 := unloadSlot s slot
    let s3 := match victimOf s1 slot with
      | some (k, bk) => victimsDone s1 k bk
      | none => s1
    pump_ (finishReq s3 c C.ok body)))

end Sys2Proof.Machine
end

