-- ==== Sys2Proof/Machine/Retain.lean ====
section
/-!
DEFINITION. Retained state (R526 to R529): which registers hold kept fields, the groups, commits to the persistent store, and
what a start takes from it; and the reset of registers by the kind of each field (R21).
-/
namespace Sys2Proof.Machine
open Sys2Proof

/-! ### Registers by address (R14) -/

/-- Place of an offset in a family of registers: its indices. -/
def Reg.place (r : Reg) (off : Nat) : Option (Nat × Nat) :=
  if off < r.off then none
  else
    let d := off - r.off
    match r.dims with
    | [] => if d = 0 then some (0, 0) else none
    | [(st, n)] => if d % st = 0 ∧ d / st < n then some (d / st, 0) else none
    | (st, n) :: (st2, n2) :: _ =>
      if d / st < n ∧ d % st % st2 = 0 ∧ d % st / st2 < n2 then some (d / st, d % st / st2) else none
/-- The block at an address, its instance, and the offset. -/
def blockAt (a : Nat) : Option (Block × Nat × Nat) :=
  let off := a % 0x10000
  match a / 0x10000 with
  | 0x00 => some (.identity, 0, off)
  | 0x01 => some (.pace, 0, off)
  | 0x02 => some (.bundles, 0, off)
  | 0x03 => some (.tally, 0, off)
  | 0x04 => some (.perf, 0, off)
  | 0x05 => some (.recorder, 0, off)
  | 0x06 => some (.time, 0, off)
  | 0x07 => some (.eth, 0, off)
  | 0x08 => some (.cal, 0, off)
  | 0x09 => some (.servo, 0, off)
  | 0x0A => some (.red, 0, off)
  | 0x0B => some (.sec, 0, off)
  | 0x30 => some (.fabric, 0, off)
  | n => if 0x10 ≤ n ∧ n ≤ 0x17 then some (.die, n - 0x10, off)
         else if 0x20 ≤ n ∧ n ≤ 0x23 then some (.engine, n - 0x20, off) else none
/-- The register at an address. -/
def regAt (a : Nat) : Option RegRef :=
  match blockAt a with
  | none => none
  | some (b, n, off) => Reg.all.findSome? (fun r =>
      if r.block = b then (r.place off).map (fun p => ⟨r, n, p.1, p.2⟩) else none)

/-! ### Groups (R527) -/

/-- The group of a block; blocks with no kept field have none. -/
def Block.group : Block → Nat
  | .pace => 1
  | .bundles => 2
  | .tally => 3
  | .time => 6
  | .eth => 7
  | .cal => 8
  | .servo => 9
  | .red => 10
  | .sec => 11
  | .die => 12
  | .engine => 13
  | .fabric => 14
  | _ => 0
def retGroups : List Nat := [1, 2, 3, 6, 7, 8, 9, 10, 11, 12, 13, 14]

/-- The fields of a register with a reset kind. -/
def Reg.ofKind (r : Reg) (k : ResetKind) : List Fld := r.fields.filter (fun f => f.kind == k)
/-- The fields of a word, and only those, as another word has them. -/
def mergeFields (fs : List Fld) (onto from_ : Word) : Word :=
  BitVec.ofNat 32 (fs.foldl (fun x f => setField x f.lsb f.width (fieldOf from_.toNat f.lsb f.width)) onto.toNat)
/-- Register words with the fields outside the kinds `keep` at their reset values. (DESIGN CHOICE, log entry 53) -/
def resetRegs (fm2 : Bool) (keep : List ResetKind) (regs : SMap Word) : SMap Word :=
  regs.foldl (fun m e => match regAt e.1 with
    | none => m
    | some r => SMap.setD m e.1 (mergeFields (r.reg.fields.filter (fun f => keep.contains f.kind)) (resetWord fm2 r) e.2) (resetWord fm2 r)) []
/-- The words of registers that hold kept fields, cut to those fields. (DESIGN CHOICE, log entry 53) -/
def keptRegs (s : State) : SMap Word := resetRegs s.ident.fm2 [.kept] s.regs
/-- The group of a register address. -/
def groupAt (a : Nat) : Nat := match blockAt a with | some (b, _, _) => b.group | none => 0

/-! ### Commits (R527, R528) -/

/-- The newer copy, which is in force. -/
def newerRet (x : Security) : Retained := if x.retB.gen ≤ x.retA.gen then x.retA else x.retB
/-- Every group written into the older copy with the next generation. -/
def commitRet (s : State) : State :=
  let c : Retained := { gen := (newerRet s.sec).gen + 1, kept := keptRegs s, retired := s.pl.retired, routes := s.fab.active, params := s.engA.params, bad := [] }
  let params := match s.active with | some .hb => s.engB.params | _ => s.engA.params
  let c1 := { c with params := params }
  { s with sec := if s.sec.retB.gen ≤ s.sec.retA.gen then { s.sec with retB := c1, retPending := false } else { s.sec with retA := c1, retPending := false } }

/-- Where a group is taken from at power-up (R529): the valid record of the higher generation, with the code of SEC_RET_SRC. -/
def groupSource (x : Security) (g : Nat) : Option Retained × Nat :=
  let ok (c : Retained) : Bool := decide (0 < c.gen) && !c.bad.contains g
  let hi := newerRet x
  let lo := if x.retB.gen ≤ x.retA.gen then x.retB else x.retA
  if ok hi then (some hi, 1) else if ok lo then (some lo, 1) else (none, if hi.gen = 0 then 0 else 2)
/-- Retained state applied (R529), or factory values: registers, retirements, the route book, servo parameters; SEC_RET_SRC
tells each group's source, and a group whose records failed their check is reported. -/
def applyRet (s : State) : State :=
  let src := retGroups.map (fun g => (g, groupSource s.sec g))
  let from_ (g : Nat) : Option Retained := (src.find? (fun e => e.1 == g)).bind (·.2.1)
  let regs := retGroups.foldl (fun (m : SMap Word) g => match from_ g with
    | none => m
    | some c => (c.kept.filter (fun e => groupAt e.1 == g)).foldl (fun m e => SMap.insert m e.1 e.2) m) (s.regs.filter (fun e => (match regAt e.1 with
      | some r => decide (r.reg.ofKind .kept = [])
      | none => false)))
  let params := match from_ 9 with | some c => c.params | none => []
  let s1 : State := { s with
    regs := regs
    pl := { s.pl with retired := match from_ 2 with | some c => c.retired | none => [] }
    fab := { s.fab with active := match from_ 14 with | some c => c.routes | none => [], shadow := match from_ 14 with | some c => c.routes | none => [] }
    engA := { s.engA with params := params }, engB := { s.engB with params := params } }
  let word := (src.foldl (fun x e => setField x (2 * e.1) 2 e.2.2) 0)
  let s2 := setRegWord s1 ⟨.secRetSrc, 0, 0, 0⟩ (BitVec.ofNat 32 word)
  (src.filter (fun e => e.2.2 == 2)).foldl (fun s e => hubReport (keptChanged s) C.secRetFallback (d4 e.1)) s2

end Sys2Proof.Machine
end

