-- ==== Sys2Proof/Machine/Cells.lean ====
section
/-!
DEFINITION. Cell retirement (R99 to R105) and the upkeep of memory that the module does by itself (R238, R249, R252 to R257),
with the host's access to stack memory (R258).
-/
namespace Sys2Proof.Machine
open Sys2Proof

/-! ### Retirement (R99 to R105) -/

/-- A station on a retired cell is placed again where it can be: at a drain point, halted or not started (R100, R105). A load
whose station finds no cell is refused; its entry's NEED is the bundle's stations and its HAVE one fewer (DESIGN CHOICE, log
entry 24). With no hub active nothing is placed (R35). -/
def moveRetired (s : State) (cell : Nat) : State :=
  match stationOn s cell with
  | none => s
  | some w =>
    if retiredCell s cell = false ∨ s.active.isNone then s
    else if w.b.st = .loading then
      match (rotate (moveCells s w.b.img w.idx cell) ((pickKey s w.b.img [8, w.slot, w.idx] [] []).at_ 0)).head? with
      | some new => mapGen (modStation s w.slot w.idx (fun st => { st with cell := some new, relocating := false }))
      | none =>
        let n := w.b.img.stations.length
        pump_ (refuseSlot s w.slot C.cellsShort [⟨C.cellsShort, 0, 0, n, n - 1, [], 0⟩])
    else relocateAll s w.slot

/-- CELL_RETIRE (R104): the reply follows once the retirement is committed. -/
def svcCellRetire : Service := sized 2 (fun s c b =>
  let cell := fieldLE b 0 2
  if goodCell s cell = false then finishReq s c C.cellInvalid []
  else if retiredCell s cell then finishReq s c C.ok []
  else finishReq (commitRet (moveRetired (softRetire s cell) cell)) c C.ok [])

/-- CELL_RESTORE (R103, R104). -/
def svcCellRestore : Service := sized 2 (fun s c b =>
  let cell := fieldLE b 0 2
  if goodCell s cell = false then finishReq s c C.cellInvalid []
  else match SMap.find s.pl.retired cell with
    | none => finishReq s c C.ok []
    | some .hard => finishReq s c C.cellHardRetired []
    | some .soft =>
      let s1 : State := { s with pl := { s.pl with retired := SMap.erase s.pl.retired cell } }
      let s2 := match stationOn s1 cell with
        | some w => modStation s1 w.slot w.idx (fun st => { st with relocating := false, relocReported := false })
        | none => s1
      finishReq (commitRet s2) c C.ok [])

/-- CELL_HARD_FAILURE: the cell is hard-retired, its station's state is lost and its bundle enters FAULTED (R99, R101). A load
whose station it held is placed again (R105). (DESIGN CHOICE, log entry 27) -/
def execCellHardFailure (cell : Nat) (s : State) : Out :=
  done (
    if goodCell s cell = false ∨ SMap.find s.pl.retired cell = some .hard then s
    else
      let s1 := keptChanged (setEvent { s with pl := { s.pl with retired := SMap.insert s.pl.retired cell .hard } } F.bndEventRetired)
      match stationOn s1 cell with
      | none => s1
      | some w =>
        if w.b.st = .loading then moveRetired s1 cell
        else
          let s2 := modStation s1 w.slot w.idx (fun st => { st with run := .faulted, waiting := .no, relocating := false })
          faultWith s2 w.slot C.cellLost (srcCell cell) (dName w.sr.name ++ d4 cell))

/-- RELOCATE_PENDING_TIMEOUT: reported once for a station that has not reached a drain point (R100). (DESIGN CHOICE, log entry 5) -/
def execRelocatePendingTimeout (cell : Nat) (s : State) : Out :=
  done (match stationOn s cell with
    | none => s
    | some w =>
      if w.st.relocating && !movable w.st && !w.st.relocReported then
        report (modStation s w.slot w.idx (fun st => { st with relocReported := true })) C.relocatePending (srcCell cell) w.handle []
      else s)

/-! ### Patrols (R238, R249, R252) -/

/-- What a patrol found in the input queues of a station: the tiles corrected, POISON set where a word could not be. (DEDUCED, log entry 14) -/
def patrolTile (t : Tile) (hits : List Upset) : SlotRead :=
  ((hits.foldl Mem.upset (Mem.wiped.writeSlot 0 t)).readSlot 0 true)

/-- The pages that a checkpoint saved pass the corrector, hit as `hits` says: its memory and what was found (R238). -/
def patrolPages (c : Checkpoint) (hits : List Upset) : Scrubbed :=
  let m := (hits.filter (fun u => c.pages.contains (16 * u.word / pageBytes))).foldl Mem.upset c.snap.scratch
  c.pages.foldl (fun (r : Scrubbed) p =>
    let q := r.mem.scrub (p * pageBytes) pageBytes
    ⟨q.mem, r.ce + q.ce, r.ue + q.ue⟩) ⟨m, 0, 0⟩
/-- The shadow pages of a station's checkpoints and the words of its end control words pass the corrector. -/
def patrolRest (st : Station) (pageHits : List (Nat × Upset)) (ctlHits : List Upset) : Station × Nat × Nat :=
  let cs := (withIdx st.ckpts).map (fun e => (e.2, patrolPages e.2 ((pageHits.filter (fun h => h.1 == e.1)).map (·.2))))
  let c := ((ctlHits.filter (fun u => u.word < 4)).foldl Mem.upset (ctlMem st)).scrub 0 64
  (setCtlMem { st with ckpts := cs.map (fun e => { e.1 with snap := { e.1.snap with scratch := e.2.mem } }) } c.mem,
   (cs.map (fun e => e.2.ce)).foldl (· + ·) c.ce, (cs.map (fun e => e.2.ue)).foldl (· + ·) c.ue)

/-- SCRATCH_PATROL: `hits` the physical upsets since the last pass of words of data scratch, `others` those of the station's
queues, saved pages and end control words. Every word is read and corrected; an uncorrectable one is poison-marked and counted. A cell
without a station holds no data: its words are counted all the same. (DESIGN CHOICE, log entry 27) -/
def execScratchPatrol (cell : Nat) (hits : List Upset) (others : PatrolHits) (s : State) : Out :=
  done (
    if goodCell s cell = false ∨ s.phase ≠ .running then s
    else match stationOn s cell with
      | none =>
        let r := (hits.foldl Mem.upset Mem.wiped).scrub 0 scratchBytes
        scratchFound s cell noCtx r.ce r.ue
      | some w =>
        let r := (hits.foldl Mem.upset w.st.scratch).scrub 0 (scratchWords w.sr)
        let qs := (withIdx (queuedOf w.b w.idx)).map (fun e => patrolTile e.2.2.2.tile ((others.queue.filter (fun h => h.1 == e.1)).map (·.2)))
        let ce := (qs.map (fun q => q.fixed.length)).foldl (· + ·) 0
        let ue := (qs.map (fun q => (q.bad.filter (fun e => !e.2)).length)).foldl (· + ·) 0
        let p := patrolRest { w.st with scratch := r.mem } others.pages others.ctl
        let s1 := modBundle s w.slot (fun b => setQueued { b with stations := modAt b.stations w.idx (fun _ => p.1) } w.idx (qs.map (·.tile)))
        moveRetired (scratchFound s1 cell noCtx (r.ce + ce + p.2.1) (r.ue + ue + p.2.2)) cell)

/-! ### What a stack holds beside its regions' bytes (R65, R213, R215, R241) -/

/-- A patrol on its way through items kept one after another on a stack: the upsets, where the next item lies, how far apart
they lie, the words corrected, those found bad, and the places passed. -/
structure Sweep where
  hits : List Upset
  at_ : Nat
  gap : Nat
  fixed : List Nat
  bad : List (Nat × Bool)
  seen : List (Nat × Nat)

/-- The upsets of words of a run, counted from its start. -/
def Sweep.within (w : Sweep) (n : Nat) : List Upset :=
  (w.hits.filter (fun u => w.at_ ≤ 16 * u.word && decide (16 * u.word < w.at_ + n))).map (fun u => { u with word := u.word - w.at_ / 16 })
/-- One item of a run's bytes with its check differences. -/
def Sweep.image (w : Sweep) (bs : List Byte) (chk : List (Nat × BitVec 16)) : Sweep × Mem :=
  let r := ((w.within bs.length).foldl Mem.upset (Mem.wiped.storeCarried 0 bs chk)).correct 0 bs.length
  let base := w.at_ / 16
  ({ w with at_ := w.at_ + w.gap, fixed := w.fixed ++ r.fixed.map (· + base), bad := w.bad ++ r.bad.map (fun e => (e.1 + base, e.2)),
            seen := w.seen ++ [(w.at_, bs.length)] },
   r.bad.foldl (fun m e => m.poisonWord e.1) r.mem)
/-- One tile in a slot of its own. -/
def Sweep.tile (w : Sweep) (t : Tile) : Sweep × Tile :=
  let r := w.image t.slot t.chk
  (r.1, Tile.ofSlot (r.2.read 0 slotBytes) r.2.chk)
/-- A sweep through a list. -/
def sweepList {α : Type} (f : Sweep → α → Sweep × α) (w : Sweep) (l : List α) : Sweep × List α :=
  l.foldl (fun (acc : Sweep × List α) x => let r := f acc.1 x; (r.1, acc.2 ++ [r.2])) (w, [])

/-- A dead-letter entry in its 8 KiB (R66, R241). -/
def sweepDlq (d : Nat) (w : Sweep) (e : DlqEntry) : Sweep × DlqEntry :=
  let r := { w with at_ := dlqPlace e.seq }.image (DlqEntry.bytes d e) (e.chk ++ e.tile.chk.map (fun (c : Nat × BitVec 16) => (c.1 + 4, c.2)))
  let f (o n : Nat) : Nat := leNat (r.2.read o n)
  let inTile (c : Nat × BitVec 16) : Bool := 4 ≤ c.1 && decide (c.1 < 270)
  (r.1, ⟨f 0 2, f 4 4, f 8 8, f 16 4, f 20 2, r.2.read 24 32,
         Tile.ofSlot (r.2.read 64 slotBytes) ((r.2.chk.filter inTile).map (fun (c : Nat × BitVec 16) => (c.1 - 4, c.2))), r.2.chk.filter (fun c => !inTile c)⟩)
/-- The tiles that a die's reorder store holds, one place each. (DESIGN CHOICE, log entry 27) -/
def sweepReorder (d : Nat) (w : Sweep) (e : Nat × Bundle) : Sweep × (Nat × Bundle) :=
  let r := sweepList (fun w (p : StreamRec × Stream) =>
    if reorderDie e.2 p.1 = d then
      let q := sweepList (fun w (c : ConsEnd) => let t := sweepList Sweep.tile w c.reorder; (t.1, { c with reorder := t.2 })) w p.2.ends
      (q.1, (p.1, { p.2 with ends := q.2 }))
    else (w, p)) w (e.2.img.streams.zip e.2.streams)
  (r.1, (e.1, { e.2 with streams := r.2.map (·.2) }))
/-- The tiles of a hold and the held writes of one spill reserve, a slot each (R213, R215). (DESIGN CHOICE, log entry 27) -/
def sweepSpill (b : Bundle) (w : Sweep) (spec : Nat) : Sweep × Bundle :=
  let r := sweepList (fun w (p : StreamRec × Stream) =>
    if specOf b.img p.1.producer = spec then
      let q := sweepList (fun w (t : ProvTile) => if t.held then let r := Sweep.tile w t.tile; (r.1, { t with tile := r.2 }) else (w, t)) w p.2.prov
      (q.1, (p.1, { p.2 with prov := q.2 }))
    else (w, p)) w (b.img.streams.zip b.streams)
  let q := sweepList (fun w (p : Nat × Station) =>
    if specOf b.img p.1 = spec then
      let h := sweepList (fun w (x : HeldWrite) => let r := Sweep.tile w x.op.tile; (r.1, { x with op := { x.op with tile := r.2 } })) w p.2.heldWrites
      (h.1, (p.1, { p.2 with heldWrites := h.2 }))
    else (w, p)) r.1 (withIdx b.stations)
  (q.1, { b with streams := r.2.map (·.2), stations := q.2.map (·.2) })
/-- Every spill reserve of a bundle that lies on a stack. -/
def sweepSpills (n : Nat) (w : Sweep) (e : Nat × Bundle) : Sweep × (Nat × Bundle) :=
  let r := (withIdx e.2.spills).foldl (fun (acc : Sweep × Bundle) p =>
    if p.2.stack = n then sweepSpill acc.2 { acc.1 with at_ := p.2.off } (p.1 + 1) else acc) (w, e.2)
  (r.1, (e.1, r.2))

/-- STACK_PATROL: a pass of a logic die over its stack, `pass` the physical upsets since the last one and the row activations
of this one. It reads the reserve of R241 and the spill reserves as well. (DESIGN CHOICE, log entry 27) -/
def execStackPatrol (stack : Nat) (pass : StackPass) (s : State) : Out :=
  done (match stackOf s stack with
    | none => s
    | some k0 =>
      if k0.failed ∨ k0.wiping ∨ s.phase ≠ .running then s
      else
        let s0 := awaitRepairs s stack 0 (2 ^ 36)
        let k := (stackOf s0 stack).getD k0
        let d := stkDie stack
        let w0 : Sweep := ⟨pass.hits, 0, slotBytes, [], [], []⟩
        let q := if stkIdx stack = 0 then sweepList (sweepDlq d) w0 (dlqOf s0 d) else (w0, dlqOf s0 d)
        let r := if stkIdx stack = 0 then sweepList (sweepReorder d) { q.1 with at_ := reorderBase, gap := 8192 } s0.pl.slots else (q.1, s0.pl.slots)
        let h := sweepList (sweepSpills stack) { r.1 with gap := slotBytes } r.2
        let own := pass.hits.filter (fun u => !h.1.seen.any (fun x => x.1 ≤ 16 * u.word && decide (16 * u.word < x.1 + x.2)))
        let c := (own.foldl Mem.upset k.mem).correct 0 (2 ^ 36)
        let m := c.bad.foldl (fun m e => m.poisonWord e.1) c.mem
        let s1 : State := { s0 with pl := { s0.pl with slots := h.2 }, dies := modAt s0.dies d (fun x => { x with dlq := q.2 }) }
        let s2 := stackFound s1 stack m (c.fixed ++ h.1.fixed) (c.bad ++ h.1.bad)
        activate (setEventAt s2 F.memStkStatScrubPass d (stkIdx stack) 0) stack pass.acts)

/-! ### Row repair (R253, R254) -/

/-- ROW_REPAIR_DONE: the row whose repair ran is copied to a spare of its bank and remapped; low and exhausted spares are
reported. `bank` is pseudo-channel × 32 + bank. While the stack's wipe runs, the row is one that failed its comparison: it is
repaired where its bank has a spare, and wiped again (R257). (DESIGN CHOICE, log entry 27) -/
def execRowRepairDone (stack bank row : Nat) (s : State) : Out :=
  done (match stackOf s stack with
    | none => s
    | some k =>
      if k.failed ∨ s.phase ≠ .running then s
      else if k.repairing.contains (bank * 65536 + row) = true ∨ (k.wiping = true ∧ 0 < sparesLeft k bank ∧ bank < 1024 ∧ row < 65536) then
        finishRepair s stack bank row
      else s)

/-! ### Wipes (R256, R257, R259) -/

/-- Whether a bundle has something on a stack, or receives streams between modules on its die (R259). -/
def onStack (b : Bundle) (n : Nat) : Bool :=
  (placedOf b).any (fun p => p.stack == n && p.len != 0) ||
  (b.img.streams.any (fun r => fromRemote r && r.cons.any (fun c => match b.stations[c.station]? with
    | some st => (match st.cell with | some c => dieOf c == n / 2 | none => false)
    | none => false)))

/-- A stack is declared failed: reported, its interface off, nothing of it read again; the dead letters of its die are gone
where it held them; bundles on it enter FAULTED. -/
def failStack (s : State) (n : Nat) : State :=
  let d := stkDie n
  let s1 := modStack s n (fun k => { k with failed := true, wiping := false, repairing := [] })
  let s2 := report s1 C.memStackFailed (srcDie d) 0xFFFF []
  let s3 := if n % 2 = 0 then { s2 with dies := modAt s2.dies d (fun x => { x with dlq := [] }) } else s2
  s3.pl.slots.foldl (fun s e => if e.2.placed && onStack e.2 n then faultWith s e.1 C.memStackFailed (srcDie d) [] else s) s3

/-- STACK_WIPE_TIMEOUT. -/
def execStackWipeTimeout (stack : Nat) (s : State) : Out :=
  done (match stackOf s stack with
    | none => s
    | some k => if k.wiping && decide (s.phase = .running) then failStack s stack else s)

/-! ### The host's access to stack memory (R258) -/

/-- Whether every word of a run lies where the host may read it, or write it. -/
def hostMayReach (s : State) (addr len : Nat) (write : Bool) : Bool :=
  decide (addr / 2 ^ 40 = postcode s) &&
  (match stackOf s (addr / 2 ^ 36 % 16) with | some k => !k.failed | none => false) &&
  decide (addr % 2 ^ 36 + len ≤ 2 ^ 36) &&
  (List.range (len / 16)).all (fun i =>
    let at_ (o : Nat) : Option Bool := hostArea s (addr / 2 ^ 36 % 16) (addr % 2 ^ 36 + 16 * i + o)
    match at_ 0, at_ 15 with
    | some a, some b => !write || (a && b)
    | _, _ => false)
/-- Bits packed into bytes, the first in bit 0. -/
def packBits (l : List Bool) : List Byte :=
  (List.range (ceilDiv l.length 8)).map (fun i => BitVec.ofNat 8 ((withIdx (slice2 l (8 * i))).foldl (fun x e => x + b2n e.2 * 2 ^ e.1) 0))
where slice2 (l : List Bool) (i : Nat) : List Bool := (l.drop i).take 8

def badLength (n : Nat) : Bool := n == 0 || decide (4096 < n) || n % 16 != 0
/-- MEM_READ: the data and a bit for each word that was uncorrectable. (DESIGN CHOICE, log entry 27) -/
def svcMemRead : Service := sized 12 (fun s c b =>
  let a := fieldLE b 0 8
  let n := fieldLE b 8 4
  if badLength n || a % 16 != 0 then malformed s c b
  else if hostMayReach s a n false = false then finishReq s c C.memHostRange []
  else
    let k := a / 2 ^ 36 % 16
    let off := a % 2 ^ 36
    let r := stackRead (openRows s k off n) k off n
    finishReq r.st c C.ok (r.bytes ++ packBits ((List.range (n / 16)).map (fun i => r.bad.contains (off / 16 + i)))))
/-- MEM_WRITE: whole words with new check fields. (DESIGN CHOICE, log entry 27) -/
def svcMemWrite : Service := fun s c b =>
  let a := fieldLE b 0 8
  let n := fieldLE b 8 4
  if b.length < 12 || badLength n || a % 16 != 0 || b.length != 12 + n then malformed s c b
  else if hostMayReach s a n true = false then finishReq s c C.memHostRange []
  else
    let s1 := openRows s (a / 2 ^ 36 % 16) (a % 2 ^ 36) n
    finishReq (modStack s1 (a / 2 ^ 36 % 16) (fun k => { k with mem := k.mem.store (a % 2 ^ 36) (b.drop 12) })) c C.ok []

end Sys2Proof.Machine
end

