-- ==== Sys2Proof/Machine/RegGate.lean ====
section
/-!
DEFINITION. Who serves a register access (R14, R15, R35, R449, R454, R486), and the answer to one that a command carries: a
row for a register's behaviour names the access's origin and the word written, and is answered with a status and a word.
-/
namespace Sys2Proof.Machine
open Sys2Proof

/-- How an access is met: nobody serves it, a hub that is not active turns it away, the session may not make it, or it is
served. -/
inductive Gate where
  | silent | standby | denied | served
  deriving DecidableEq, Repr

/-- An access over I3C: the addressed hub serves the redundancy and arbiter block itself, the active hub every other (R486). (DESIGN CHOICE, log entry 52) -/
def gateI3c (s : State) (h : Hub) (red : Bool) : Gate :=
  if firmwareRuns (hubOf s h) = false then .silent
  else if red || s.active == some h then .served else .standby
/-- An access of a Counter session, which the active hub serves on its port: reads of every open session, writes of control
sessions (R458). (DESIGN CHOICE, log entry 52) -/
def gateSession (s : State) (id : Nat) (write : Bool) : Gate :=
  match s.active with
  | none => .silent
  | some h => match findSession s id with
    | none => .silent
    | some x => if (hubOf s h).link = false then .silent else if x.isOpen && (x.control || !write) then .served else .denied
def regGate (s : State) (o : Origin) (red write : Bool) : Gate :=
  if s.phase ≠ .running then .silent
  else match o with
    | .session id => gateSession s id write
    | .i3c h => gateI3c s h red

/-- An access as met: answered by `f` where it is served. (DESIGN CHOICE, log entry 52) -/
def regAnswer (g : Gate) (s : State) (o : Origin) (f : State → State × Nat × Word) : State :=
  match g with
  | .silent => s
  | .standby => emit s (.reg o C.hubStandby 0)
  | .denied => emit s (.reg o C.ctrNotPermitted 0)
  | .served =>
    let r := f s
    emit r.1 (.reg o r.2.1 r.2.2)
/-- A write of a register with a behaviour of its own. (DESIGN CHOICE, log entry 52) -/
def regWriteRow (s : State) (o : Origin) (red : Bool) (f : State → State × Nat) : State :=
  regAnswer (regGate s o red true) s o (fun s => ((f s).1, (f s).2, 0))
/-- A read of one. (DESIGN CHOICE, log entry 52) -/
def regReadRow (s : State) (o : Origin) (red : Bool) (f : State → State × Word) : State :=
  regAnswer (regGate s o red false) s o (fun s => ((f s).1, C.ok, (f s).2))

/-- A field of a word written. -/
def wfld (v : Word) (f : Fld) : Nat := fieldOf v.toNat f.lsb f.width

/-! ### Writes under the access codes (R17 to R20) -/

/-- Whether a bundle counts as loaded (R19): from its fit until an UNLOAD or EVICT of it completes. (DEDUCED, log entry 22: again
from its START on) -/
def anyLoaded (s : State) : Bool := s.pl.slots.any (fun e => e.2.fits && e.2.st != .evicted)
def Fld.writable (f : Fld) : Bool := f.acc == .rw || f.acc == .rwl
/-- A written value brought into a field's stated range (R320 and the like), which for a voltage depends on another field. -/
def Fld.bound (s : State) (f : Fld) (word v : Nat) : Nat :=
  if f = F.paceVlimVmax then clampNat (clampNat 550 900 (fieldOf word 0 12)) 900 v
  else if f = F.paceFixedFixedMv then clampNat (vmin s) (vmax s) v
  else clampNat f.lo f.hi v
/-- A word with one field written under its access code. -/
def Fld.store (s : State) (v : Nat) (word : Nat) (f : Fld) : Nat :=
  let x := fieldOf v f.lsb f.width
  match f.acc with
  | .rw => setField word f.lsb f.width (f.bound s v x)
  | .rwl => setField word f.lsb f.width (f.bound s v x)
  | .rw1c => if x = 0 then word else setField word f.lsb f.width 0
  | _ => word
/-- A register written with no behaviour but its access codes: refused where it has no writable field, or an RWL field and a
bundle is loaded. -/
def plainWrite (s : State) (r : RegRef) (v : Word) : State × Nat :=
  let fs := r.reg.fields
  if fs.all (fun f => f.acc == .ro) then (s, C.regReadOnly)
  else if fs.any (fun f => f.acc == .rwl) && anyLoaded s then (s, C.regLocked)
  else
    let s1 := setRegWord s r (BitVec.ofNat 32 (fs.foldl (Fld.store s v.toNat) (regWord s r).toNat))
    (if fs.any (fun f => f.kind == .kept && f.writable) then keptChanged s1 else s1, C.ok)

end Sys2Proof.Machine
end

