-- ==== Sys2Proof/Machine/Power.lean ====
section
/-!
DEFINITION. Frame timing, input power and the cap, the brake, ageing and end of life (R297 to R320).
-/
namespace Sys2Proof.Machine
open Sys2Proof

/-! ### Frames (R297, R299, R301) -/

/-- FRAME_START_TIMER: frame start k of a bundle with FRAME_START 0, at S(0) + k × FRAME_PERIOD. -/
def execFrameStartTimer (slot : Nat) (s : State) : Out :=
  done (match slotBundle s slot with
    | none => s
    | some b =>
      let l := b.img.limits
      if l.framePeriod ≠ 0 ∧ l.frameStart = 0 ∧ b.everStarted = true ∧ s.phase = .running then
        frameStart s slot b.frameK (b.frameS0 + b.frameK * (1000 * l.framePeriod))
      else s)

/-- FRAME_DEADLINE_EXPIRY. (DESIGN CHOICE, log entry 5) -/
def execFrameDeadlineExpiry (slot number : Nat) (s : State) : Out :=
  done (if s.phase = .running then frameDeadline s slot number else s)

/-- FRAME_LATE_SUMMARY: the count of the late frames not reported singly. (DEDUCED, log entry 56) -/
def execFrameLateSummary (s : State) : Out :=
  done (if s.pace.lateHeld = 0 then s
    else fileReport { s with pace := { s.pace with lateHeld := 0 } }
      ⟨C.frameLate, srcActive s, 0xFFFF, d4 s.pace.lateHeld, true, true, true, s.tb.sec, s.tb.ns, s.tb.frac / 65536, uncertain s⟩)

/-! ### Input power and the cap (R307 to R310) -/

/-- The bundles with a station in a domain. -/
def bundlesIn (s : State) (n : Nat) : SMap Bundle := s.pl.slots.filter (fun e => inDomain e.2 n)
/-- A domain's PRIORITY: the highest of the bundles in it. -/
def domPriority (s : State) (n : Nat) : Nat := maxOf ((bundlesIn s n).map (fun e => e.2.img.limits.priority))
/-- A domain's mean power over the last 100 µs in 0.1 W. -/
def domPower (s : State) (n : Nat) : Nat := fldAt s F.domRatePower 0 n 0

/-- Busy beats of the bundles in a domain over the last 100 µs (R310): domain, slot, beats. -/
abbrev Busy := List (Nat × Nat × Nat)
def busyOf (l : Busy) (p : Nat × Nat × Nat → Bool) : Nat := ((l.filter p).map (fun e => e.2.2)).foldl (· + ·) 0
/-- A bundle's power in 0.1 W: each domain's power by the share of its busy beats that are the bundle's. -/
def bundlePower (s : State) (busy : Busy) (slot : Nat) : Nat :=
  ((governedDomains s.ident).map (fun n =>
    let all := busyOf busy (fun e => e.1 == n)
    if all = 0 then 0 else domPower s n * busyOf busy (fun e => e.1 == n && e.2.1 == slot) / all)).foldl (· + ·) 0

/-- The groups of R309 in order, of the domains above VMIN whose voltage may change. (DESIGN CHOICE, log entry 28) -/
def capGroup (s : State) (k n : Nat) : Bool :=
  match k with
  | 0 => (bundlesIn s n).all (fun e => e.2.img.limits.framePeriod == 0)
  | 1 => (bundlesIn s n).all (fun e => e.2.img.limits.powerShare == 0 || decide (10 * e.2.img.limits.powerShare < SMap.getD s.pace.share e.1 0))
  | _ => true
def aboveVmin (s : State) : List Nat := (governedDomains s.ident).filter (fun n => decide (floorMv s < settingOf s n) && !braked s n)
/-- DESIGN CHOICE, log entry 28. -/
def capTargets (s : State) : List Nat :=
  let l := aboveVmin s
  let group := ((List.range 3).map (fun k => l.filter (capGroup s k))).find? (fun g => !g.isEmpty)
  match group with
  | none => []
  | some g =>
    let least := g.foldl (fun m n => min m (domPriority s n)) 0xFFFF
    g.filter (fun n => domPriority s n == least)
/-- One domain's setting replaced. -/
def setSetting (s : State) (n mv : Nat) : State := { s with pace := { s.pace with setting := SMap.setD s.pace.setting n mv 0 } }
/-- The cap is exceeded: the group's domains of lowest PRIORITY fall by 5 mV. -/
def capLower (s : State) : State :=
  let l := capTargets s
  let s1 := l.foldl (fun s n => setSetting s n (max (floorMv s) (settingOf s n - 5))) s
  if l.isEmpty then s1 else setEvent s1 F.pwrEventCapped

/-- Pending requests, highest PRIORITY first and by domain number among equals: those R313 and the brake do not hold. -/
def pendingRaises (s : State) : List Nat :=
  let l := (governedDomains s.ident).filter (fun n => decide (settingOf s n < wanted s n) && !braked s n && !s.pace.high.contains n)
  (List.range 256).reverse.flatMap (fun p => l.filter (fun n => domPriority s n == p))
/-- Raises granted while the predicted power stays within the cap; `p` in 0.1 W. (DESIGN CHOICE, log entry 28) -/
def grantRaises (s : State) (p : Nat) : List Nat → State
  | [] => s
  | n :: r =>
    let w := wanted s n
    let inc := Config.powerPredict (domPower s n) (SMap.getD s.pace.curve n []) (settingOf s n) w
    if p + inc ≤ 10 * fld s F.pwrCapCapW then grantRaises (setSetting s n w) (p + inc) r else s

/-- An input voltage in mV seen: ELEC_VMIN keeps the lowest, in 10 mV (R571). -/
def vminSeen (s : State) (mv : Nat) : State := setFld s F.elecVminVmin (min (fld s F.elecVminVmin) (mv / 10))
/-- The measured means of 100 µs recorded (R307, R320): volts in mV, current in 0.01 A, power in W, each domain's power in
0.1 W and its rail's voltage in mV. -/
def powerRecord (s : State) (volt curr power : Nat) (doms : List (Nat × Nat × Nat)) : State :=
  let s1 := setFld (setFld (vminSeen s volt) F.pwrInVolt volt) F.pwrInCurr curr
  let s2 := setFld (setFld s1 F.pwrInPPower power) F.pwrInPPeak (max (fld s1 F.pwrInPPeak) power)
  let s3 := doms.foldl (fun s e => setFldAt (setFldAt s F.domRatePower 0 e.1 0 e.2.1) F.domStatVolt 0 e.1 0 e.2.2) s2
  { s3 with pace := { s3.pace with energy := s3.pace.energy + power } }

/-- POWER_CAP_TICK: the governor acts while a hub is active (R35); energy counts in 0.1 mJ. (DESIGN CHOICE, log entry 20) -/
def execPowerCapTick (volt curr power : Nat) (doms : List (Nat × Nat × Nat)) (busy : List (Nat × Nat × Nat)) (s : State) : Out :=
  done (
    if s.phase ≠ .running then s
    else
      let s1 := powerRecord s volt curr power doms
      let share := s1.pl.slots.foldl (fun m e => SMap.setD m e.1 (bundlePower s1 busy e.1) 0) []
      let s2 : State := { s1 with pace := { s1.pace with share := share } }
      if s2.active.isNone then s2
      else if fld s2 F.pwrCapCapW < power then capLower s2
      else grantRaises s2 (10 * power) (pendingRaises s2))

/-- PWR_CAP written (R308): brought into range, and refused below the shares of the loaded bundles. -/
def pwrCapWrite (s : State) (v : Word) : State × Nat :=
  let c := clampNat 200 (if s.ident.fm2 then 1300 else 4500) (wfld v F.pwrCapCapW)
  let shares := ((s.pl.slots.filter (fun e => e.2.fits)).map (fun e => e.2.img.limits.powerShare)).foldl (· + ·) 0
  if c < shares then (s, C.pwrCapRange) else (keptChanged (setFld s F.pwrCapCapW c), C.ok)
def execPwrCapWrite (o : Origin) (v : Word) (s : State) : Out := done (regWriteRow s o false (fun s => pwrCapWrite s v))

/-- PWR_ENERGY_LO read: the low word of the energy in mJ; the high word is latched. -/
def pwrEnergyLoRead (s : State) : State × Word :=
  let e := s.pace.energy / 10
  ({ s with pace := { s.pace with energyHi := BitVec.ofNat 32 (e / 2 ^ 32) } }, BitVec.ofNat 32 e)
def execPwrEnergyLoRead (o : Origin) (s : State) : Out := done (regReadRow s o false pwrEnergyLoRead)

/-! ### The brake (R311) -/

/-- The causes of the brake: 1 current, 2 power, 3 temperature. -/
def brakeEngaged (s : State) (cause : Nat) : State :=
  report (setEvent s F.pwrEventBrake) C.pwrBrake (srcActive s) 0xFFFF (d4 cause)
/-- BRAKE_OVERCURRENT: it acts without the hubs. -/
def execBrakeOvercurrent (s : State) : Out :=
  done (if s.phase ≠ .running ∨ s.pace.brakeCur = true then s
    else brakeEngaged { s with pace := { s.pace with brakeCur := true } } 1)
/-- BRAKE_OVERPOWER. -/
def execBrakeOverpower (s : State) : Out :=
  done (if s.phase ≠ .running ∨ s.pace.brakePow = true then s
    else brakeEngaged { s with pace := { s.pace with brakePow := true } } 2)

/-- Whether every domain of a die stands below 97 °C. -/
def dieCool (s : State) (d : Nat) : Bool := (List.range 8).all (fun i => decide (domTemp s (8 * d + i) < 388))
/-- BRAKE_RELEASE: a cause has been absent for 1 ms; requests held meanwhile take effect where they lower. -/
def execBrakeRelease (cause die : Nat) (s : State) : Out :=
  done (match cause with
    | 1 => resettle { s with pace := { s.pace with brakeCur := false } }
    | 2 => resettle { s with pace := { s.pace with brakePow := false } }
    | 3 => if dieCool s die then resettle { s with pace := { s.pace with brakeDies := s.pace.brakeDies.filter (· != die) } } else s
    | _ => s)
/-- PWR_STAT BRAKE_CAUSE. (DESIGN CHOICE, log entry 28) -/
def brakeCause (s : State) : Nat :=
  if s.pace.brakeCur then 1 else if s.pace.brakePow then 2 else if s.pace.brakeDies.isEmpty then 0 else 3

/-! ### Ageing (R315 to R317) -/

/-- AGEING_MEASURE: the delays measured and recorded at production test of a compute domain, and the samples of the pass, each a
voltage in mV and the rate in Mbeat/s timed at it: the present voltage, and each 25 mV of the range at the first measurement after
reset. (DESIGN CHOICE, log entry 28) -/
def execAgeingMeasure (domain measured recorded : Nat) (points : List (Nat × Nat)) (s : State) : Out :=
  done (
    if governed domain = false ∨ domainExists s.ident domain = false ∨ s.phase ≠ .running ∨ recorded = 0 then s
    else
      let timed := points.filter (fun p => decide (550 ≤ p.1) && decide (p.1 ≤ 900))
      let curve := timed.foldl (fun (c : SMap Nat) p => SMap.insert c p.1 p.2) (SMap.getD s.pace.curve domain [])
      let s1 := setFldAt s F.domAgeShift 0 domain 0 (min 65535 (measured * 10000 / recorded - 10000))
      { s1 with pace := { s1.pace with curve := SMap.insert s1.pace.curve domain curve } })

/-- Days from the last of the daily means until their fitted line reaches `eol` (R317). (DESIGN CHOICE, log entry 28) -/
def eolDays (ys : List Nat) (eol : Nat) : Nat :=
  let n : Int := ys.length
  let sx : Int := n * (n - 1) / 2
  let sxx : Int := (n - 1) * n * (2 * n - 1) / 6
  let sy : Int := (ys.foldl (· + ·) 0 : Nat)
  let sxy : Int := (withIdx ys).foldl (fun (a : Int) p => a + (p.1 : Int) * (p.2 : Int)) 0
  let slope := n * sxy - sx * sy
  let den := n * sxx - sx * sx
  let left := (eol : Int) * (n * den) - (sy * den + slope * (n * (n - 1) - sx))
  if n < 7 then 0xFFFF
  else if eol ≤ (ys.getLast?).getD 0 then 0
  else if slope ≤ 0 then 0xFFFF
  else if left ≤ 0 then 0
  else if 65534 < left / (n * slope) then 0xFFFF else (left / (n * slope)).toNat

/-- The end-of-life value of a kind, in hundredths of its unit (R316). -/
def eolOf (s : State) (kind : Nat) : Nat :=
  match kind with
  | 0 => fld s F.ageCtlEolShift
  | 1 => 9500
  | 3 => 800
  | _ => 9000
/-- The lowest prediction of a kind and the component concerned. -/
def kindLowest (s : State) (kind : Nat) : Nat × Nat :=
  (s.pace.means.filter (fun e => e.1 / 65536 == kind)).foldl (fun m e =>
    let d := eolDays e.2 (eolOf s kind)
    if d < m.1 then (d, e.1 % 65536) else m) (0xFFFF, 0)
/-- A day's means kept, the last 30 of each component. -/
def addMean (m : SMap (List Nat)) (e : Nat × Nat × Nat) : SMap (List Nat) :=
  let key := e.1 * 65536 + e.2.1
  let l := SMap.getD m key [] ++ [e.2.2]
  SMap.insert m key (l.drop (l.length - 30))
/-- The registers of the predictions, and the warning. -/
def eolRegs (s : State) : State :=
  let low := (List.range 5).map (fun k => (k, kindLowest s k))
  let s1 := low.foldl (fun s e => setFldAt (setFldAt s F.ageKindDays 0 e.1 0 e.2.1) F.ageKindIndex 0 e.1 0 e.2.2) s
  let m := low.foldl (fun (m : Nat × Nat × Nat) e => if e.2.1 < m.2.1 then e else m) (0, 0xFFFF, 0)
  let s2 := setFld (setFld (setFld s1 F.ageModuleDays m.2.1) F.ageModuleKind m.1) F.ageModuleIndex m.2.2
  let doms := s2.pace.means.filter (fun e => e.1 / 65536 == 0)
  let s3 := doms.foldl (fun s e => setFldAt s F.domAgeDays 0 (e.1 % 65536) 0 (eolDays e.2 (eolOf s 0))) s2
  let low_ := decide (m.2.1 < fld s3 F.ageCtlWarnDays)
  let s4 : State := { s3 with pace := { s3.pace with warned := low_ } }
  if low_ && !s.pace.warned then hubReport (setEvent s4 F.pwrEventAgeNear) C.ageEolNear [] else s4
/-- The cells of a quadrant domain. -/
def quadCells (n : Nat) : List Nat := ((List.range 256).map (fun k => 256 * (n / 8) + k)).filter (fun c => quadOf c == n)
/-- A quadrant predicted to end within 30 days is a soft cause for each of its cells (R99). -/
def eolRetire (s : State) : State :=
  (s.pace.means.filter (fun e => e.1 / 65536 == 0 && decide (e.1 % 8 < 4) && decide (eolDays e.2 (eolOf s 0) ≤ 30))).foldl (fun s e =>
    (quadCells (e.1 % 65536)).foldl (fun s c => if goodCell s c then moveRetired (softCause s c) c else s) s) s
/-- EOL_PREDICTION: the day's mean measure of each component, (kind, index, mean), in hundredths of its unit (0.01 % of
shift, of bias and of power; hundredths of a row). -/
def execEolPrediction (means : List (Nat × Nat × Nat)) (s : State) : Out :=
  done (if s.phase ≠ .running then s
    else eolRetire (eolRegs { s with pace := { s.pace with means := means.foldl addMean s.pace.means } }))

end Sys2Proof.Machine
end

