-- ==== Sys2Proof/Machine/CalItems.lean ====
section
/-!
DEFINITION. Calibrated items (R395 to R398, R404 to R408) as other families use them: which exist, their values, abandoning
a run, and the light that waits for them (R336).
-/
namespace Sys2Proof.Machine
open Sys2Proof

/-! ### Items (R395) -/

/-- Instances of each class on the part. -/
def calExists (d : Ident) (cls inst : Nat) : Bool :=
  match cls with
  | 0 => decide (inst < 200 * d.engines)
  | 1 => decide (inst < 72 * d.engines)
  | 2 => decide (inst < 72 * d.engines)
  | 3 => decide (inst < 200 * d.engines)
  | 4 => decide (inst < 2)
  | 5 => decide (inst < 2 * d.dies)
  | 6 => domainExists d inst
  | 7 => decide (inst < 24)
  | _ => false
/-- Instances of each class, absent ones included. -/
def calSpan (cls : Nat) : Nat := match cls with | 0 => 800 | 1 => 288 | 2 => 288 | 3 => 800 | 4 => 2 | 5 => 16 | 6 => 80 | 7 => 24 | _ => 0
/-- Value words of a class. -/
def calWords (cls : Nat) : Nat := match cls with | 0 => 2 | 1 => 32 | 2 => 20 | 3 => 2 | 4 => 12 | 5 => 36 | _ => 2
/-- The power domain whose sensor gives an item's temperature. -/
def calDomain (cls inst : Nat) : Nat :=
  match cls with
  | 0 => 64 + 2 * (inst / 200)
  | 1 => 64 + 2 * (inst / 72)
  | 2 => 64 + 2 * (inst / 72)
  | 3 => 64 + 2 * (inst / 200)
  | 4 => if inst = 0 then 73 else 76
  | 5 => 8 * (inst / 2) + 5 + inst % 2
  | 6 => inst
  | _ => if inst < 12 then 74 else 77
/-- The block whose references a run is measured against: 0 to 7 the dies, 8 to 11 the engines, 12 and 13 the hubs, and 14 for
the domains that belong to none. -/
def calBlock (cls inst : Nat) : Nat :=
  let n := calDomain cls inst
  if n < 64 then n / 8 else if n < 72 then 8 + (n - 64) / 2 else if n < 78 then 12 + (n - 72) / 3 else 14
/-- The key of an item. -/
def calKey (cls inst : Nat) : Nat := cls * 1024 + inst

/-- What an item holds before any run or restore since the start (R408): factory values, none for MON and HEATER; due. -/
def calRest (cls inst : Nat) : CalItem :=
  let bare : CalItem := ⟨.none, true, false, false, false, 0, none, 0, 0, 0, List.replicate (calWords cls) 0#32, false, false, false, 0⟩
  if cls = 0 ∨ cls = 3 then bare
  else
    let f := Config.calFactory cls inst
    { bare with source := .factory, quality := f.1 % 65536, values := (f.2 ++ bare.values).take (calWords cls) }
def calItem (s : State) (cls inst : Nat) : CalItem := SMap.getD s.cal.items (calKey cls inst) (calRest cls inst)
def setCal (s : State) (cls inst : Nat) (x : CalItem) : State :=
  { s with cal := { s.cal with items := SMap.setD s.cal.items (calKey cls inst) x (calRest cls inst) } }
/-- Whether a condition of R398 makes an item due. -/
def CalItem.isDue (x : CalItem) : Bool := x.source == .factory || x.source == .none || x.hot || x.asked || x.again
/-- An item with conditions of R398 changed: an item that becomes due takes the next place in the order of R399; those due since
the start come before all. -/
def putCal (s : State) (cls inst : Nat) (x : CalItem) : State :=
  if x.isDue && !(calItem s cls inst).due then
    setCal { s with cal := { s.cal with ranks := s.cal.ranks + 1 } } cls inst { x with due := true, rank := s.cal.ranks + 1 }
  else setCal s cls inst { x with due := x.isDue }
/-- Module time in seconds as it would stand with no step of it, from which AGE_S counts (R410). (DESIGN CHOICE, log entry 32) -/
def calSec (s : State) : Nat := (((s.tb.total : Int) - s.cal.stepped * 2 ^ 28).toNat) / (10 ^ 9 * 2 ^ 32)
/-- The mean of a domain's sensor over the last second (R398), before the first its latest reading. -/
def calMean (s : State) (n : Nat) : Int := match SMap.find s.cal.means n with | some t => signedOf 12 t | none => domTemp s n
/-- The detail of a report on an item (R405): class and instance. -/
def calDetail (cls inst : Nat) : List Byte := d4 cls ++ d4 inst
/-- The source of such a report: the block that owns the item. -/
def calSource (s : State) (cls inst : Nat) : Nat :=
  let b := calBlock cls inst
  if b < 8 then srcDie b else if b < 12 then srcEngine (b - 8) else if b < 14 then 0xFFF0 + (b - 12) else srcActive s

/-! ### Elements (R333, R334, R403) -/

def opticOf (s : State) (e : Nat) : Optic := (s.optics[e]?).getD Optic.reset
def modOptic (s : State) (e : Nat) (f : Optic → Optic) : State := { s with optics := modAt s.optics e f }
/-- The setting of a pair in force. -/
def PairSet.rest : PairSet := ⟨0x1FF, false, false, false⟩
def Optic.pair (o : Optic) (k : Nat) : PairSet := SMap.getD o.pairs k PairSet.rest
def Optic.lit (o : Optic) (p : Nat) : Bool := if p % 2 = 0 then (o.pair (p / 2)).litA else (o.pair (p / 2)).litB
def Optic.isThrough (o : Optic) (p c : Nat) : Bool := bitAt (o.pair (p / 2)).through c
def Elem.rest : Elem := ⟨.safe, false, none, 0, 0, 0⟩
def Optic.elem (o : Optic) (i : Nat) : Elem := SMap.getD o.elems i Elem.rest
def setElem (s : State) (e i : Nat) (x : Elem) : State := modOptic s e (fun o => { o with elems := SMap.setD o.elems i x Elem.rest })
/-- A ring whose target is its park: its channel is THROUGH. -/
def Optic.parked (o : Optic) (i : Nat) : Bool := decide (i < 144) && o.isThrough (i % 72 / 9) (i % 72 % 9)
/-- An element given a new target: its loop starts at the predicted setting, a parked ring at its park power (R334). -/
def steerElem (s : State) (e i : Nat) : State :=
  let o := opticOf s e
  let h := Config.heaterStart (o.parked i) i (calItem s 3 (200 * e + i)).values % 1001
  setElem s e i { o.elem i with st := .steering, good := 0, identOk := false, heater := h }
/-- Whether an element's loop is open for a run of its items (R403). -/
def elemOpen (s : State) (e i : Nat) : Bool := (calItem s 0 (200 * e + i)).running || (calItem s 3 (200 * e + i)).running
/-- At the end of an element's run its loop closes under the values in force (R403). -/
def closeElem (s : State) (cls inst : Nat) : State :=
  if cls = 0 ∨ cls = 3 then
    let e := inst / 200
    let i := inst % 200
    let st := ((opticOf s e).elem i).st
    if elemOpen s e i || st == .safe || st == .tripped then s else steerElem s e i
  else s

/-! ### Runs (R397 to R405) -/

/-- A run in progress is abandoned (R405): the item keeps its values and stays due if it was. -/
def calAbandon (s : State) (cls inst : Nat) : State :=
  let x := calItem s cls inst
  if x.running then
    closeElem (report (setEvent (setCal s cls inst { x with running := false }) F.calEventAbandoned) C.calAbandoned (calSource s cls inst) 0xFFFF
      (calDetail cls inst)) cls inst
  else s
/-- Element items running on an engine. -/
def elemRuns (s : State) (e : Nat) : Nat :=
  (s.cal.items.filter (fun x => x.2.running && (x.1 / 1024 == 0 || x.1 / 1024 == 3) && x.1 % 1024 / 200 == e)).length
/-- Whether a block's references have faulted; those of the domains that belong to no block have no bit. (DESIGN CHOICE, log entry 32) -/
def refFaulted (s : State) (b : Nat) : Bool :=
  if b < 14 then bitAt (regWord s ⟨.calRefFault, 0, 0, 0⟩).toNat b else decide (3 ≤ SMap.getD s.cal.mismatch b 0)
/-- Whether the block that owns an item is shut (R314). -/
def calShut (s : State) (cls inst : Nat) : Bool := match partOf (calDomain cls inst) with | some p => isShut s p | none => false
/-- Whether runs of an item are allowed, leaving aside whether it is due: it exists, a hub is active, ENABLE is set or the host asked
for it, its block is well, and its engine runs fewer than eight element items (R397, R399). -/
def mayRun (s : State) (cls inst : Nat) : Bool :=
  let x := calItem s cls inst
  calExists s.ident cls inst && !x.running && s.active.isSome && decide (s.phase = .running) &&
  (fld s F.calCtlEnable == 1 || x.asked) && !refFaulted s (calBlock cls inst) && !calShut s cls inst &&
  (!(cls == 0 || cls == 3) || decide (elemRuns s (inst / 200) < 8))
/-- A run starts. -/
def calBegin (s : State) (cls inst : Nat) : State :=
  setCal s cls inst { calItem s cls inst with running := true, starved := false }
/-- |T − TREF| beyond the THRESH of a class, both in 0.25 °C. -/
def strays (s : State) (cls : Nat) (t tref : Int) : Bool := decide (4 * (fldAt s F.calTrigThresh 0 cls 0 : Int) < (t - tref).natAbs)
/-- A bad run: it counts towards the three; the item stays due while its SOURCE or its temperature says so, and is due again
after 60 s (R398, R405). (DESIGN CHOICE, log entry 32) -/
def calBad (s : State) (cls inst : Nat) : State :=
  let x := calItem s cls inst
  let n := min 3 (x.bad + 1)
  let s1 := closeElem (putCal s cls inst { x with running := false, asked := false, again := false, bad := n, badAt := some s.tb.sec, failed := x.failed || decide (3 ≤ n) }) cls inst
  if n = 3 ∧ x.bad < 3 then report (setEvent s1 F.calEventItemFailed) C.calItemFailed (calSource s cls inst) 0xFFFF (calDetail cls inst) else s1
/-- The references differ by more than 3 mV: the run is bad; the third in a row in one block stops calibration there. -/
def refMismatch (s : State) (cls inst : Nat) : State :=
  let b := calBlock cls inst
  let n := SMap.getD s.cal.mismatch b 0 + 1
  let s1 : State := { s with cal := { s.cal with mismatch := SMap.insert s.cal.mismatch b n } }
  let s2 := if 3 ≤ n ∧ b < 14 then setRegWord s1 ⟨.calRefFault, 0, 0, 0⟩ (BitVec.ofNat 32 (setField (regWord s1 ⟨.calRefFault, 0, 0, 0⟩).toNat b 1 1)) else s1
  calBad (report (setEvent s2 F.calEventRefMismatch) C.calRefMismatch (calSource s cls inst) 0xFFFF (d4 b)) cls inst
/-- A run starts with the comparison of the references (R397): `mismatch` whether they differ by more than 3 mV. -/
def runItem (mismatch : Bool) (s : State) (k : Nat × Nat) : State :=
  let b := calBlock k.1 k.2
  if refFaulted s b then s
  else if mismatch then refMismatch s k.1 k.2
  else calBegin { s with cal := { s.cal with mismatch := SMap.erase s.cal.mismatch b } } k.1 k.2
/-- Those of a lane's items that are due run, as far as each may (R402). -/
def runDue (mismatch : Bool) (s : State) (l : List (Nat × Nat)) : State :=
  l.foldl (fun s k => if (calItem s k.1 k.2).due && mayRun s k.1 k.2 then runItem mismatch s k else s) s

/-! ### Lanes and engines (R336, R402) -/

/-- The items of a lane: MON and HEATER of its drop and add rings, DAC and RX. -/
def laneItems (e p c : Nat) : List (Nat × Nat) :=
  let l := 9 * p + c
  [(0, 200 * e + l), (0, 200 * e + 72 + l), (1, 72 * e + l), (2, 72 * e + l), (3, 200 * e + l), (3, 200 * e + 72 + l)]
def laneRuns (s : State) (e p c : Nat) : Bool := (laneItems e p c).any (fun k => (calItem s k.1 k.2).running)
/-- Every run of a lane is abandoned. -/
def abandonLane (s : State) (e p c : Nat) : State := (laneItems e p c).foldl (fun s k => calAbandon s k.1 k.2) s
/-- LIGHT_READY (R336): every MON and HEATER item of the engine, which is not shut (R332), has values in force. -/
def lightReady (s : State) (e : Nat) : Bool :=
  !isShut s (.engine e) && (List.range 200).all (fun i => (calItem s 0 (200 * e + i)).source != .none && (calItem s 3 (200 * e + i)).source != .none)
/-- The equaliser seeds in force of a lane (R328). -/
def laneSeeds (s : State) (e p c : Nat) : List Word := (calItem s 2 (72 * e + 9 * p + c)).values

end Sys2Proof.Machine
end

