-- ==== Sys2Proof/Machine/Links.lean ====
section
/-!
DEFINITION. Links as sets of lanes (R364, R367, R368, R373, R381, R382): which lanes are in service, how a link follows them,
replay, and what becomes of the flits of a link that is LOST.
-/
namespace Sys2Proof.Machine
open Sys2Proof

/-! ### Engines and lanes (R324, R340) -/

/-- A lane of a channel set to THROUGH, as every lane is after power-up (R354, R356). -/
def Lane.rest : Lane := ⟨.through, none, 0, 0, 0, false, 0, [], false, false⟩
def Optic.lane (o : Optic) (p c : Nat) : Lane := SMap.getD o.lanes (9 * p + c) Lane.rest
def laneOf (s : State) (e p c : Nat) : Lane := (opticOf s e).lane p c
def setLane (s : State) (e p c : Nat) (x : Lane) : State :=
  modOptic s e (fun o => { o with lanes := SMap.setD o.lanes (9 * p + c) x Lane.rest })
def modLane (s : State) (e p c : Nat) (f : Lane → Lane) : State := setLane s e p c (f (laneOf s e p c))
/-- Whether a pair's cell stands in LOOP: set so, and not tripped, which leaves it in BYPASS (R331, R333). -/
def Optic.inLoop (o : Optic) (k : Nat) : Bool :=
  (o.pair k).loop && (match SMap.find o.elems (180 + k) with | some x => x.st != .tripped | none => true)
/-- A lane terminated locally: its port lit and its channel in DROP. -/
def Optic.dropped (o : Optic) (p c : Nat) : Bool := o.lit p && !o.isThrough p c

/-- The channel that a port's λS lane covers. -/
def covered (s : State) (e p : Nat) : Option Nat :=
  let x := laneOf s e p 8
  if x.st = .covering then x.cover else none
/-- Whether a channel's traffic has a lane in service: its own ACTIVE, or λS covering it (R363). -/
def inService (s : State) (P c : Nat) : Bool :=
  (laneOf s (P / 8) (P % 8) c).st == .active || covered s (P / 8) (P % 8) == some c

/-! ### Far ends (R370, R373) -/

def identKey (P c : Nat) : Nat := 16 * P + c
def identOf (s : State) (P c : Nat) : Option IdentInfo := SMap.find s.fab.ident (identKey P c)
/-- The far end of a lane whose identity was expected: postcode, port, kind. -/
def farOf (s : State) (P c : Nat) : Option (Nat × Nat × Nat) :=
  match identOf s P c with
  | some i => if i.matched = 1 ∨ i.matched = 2 then some (i.postcode, i.port, i.kind) else none
  | none => none
/-- The far end that a channel's traffic reaches: through λS while that covers the channel (R367, R373). -/
def farServing (s : State) (P c : Nat) : Option (Nat × Nat × Nat) :=
  if covered s (P / 8) (P % 8) = some c then farOf s P 8 else farOf s P c
def Link.far (l : Link) : Nat × Nat × Nat := (l.farPostcode, l.farPort, l.farKind)
/-- A link that has just formed: sequence numbers from 0, full credits (R365). -/
def freshLink (far : Nat × Nat × Nat) (chans lanes : List Nat) : Link :=
  { farPostcode := far.1, farPort := far.2.1, farKind := far.2.2, chans := chans, lanes := lanes, st := .up, downSince := 0,
    trained := lanes.length, reduced := false, txNext := 0, rxNext := 0, retrying := false, replay := [],
    credits := [vcBuffer 0, vcBuffer 1, vcBuffer 2, vcBuffer 3], freed := [0, 0, 0, 0], txq := [[], [], [], []], round := 0,
    rx := [[], [], [], []], inbox := [], quiesced := false, changing := false, tofDone := false, creditWait := [], spare := none, sent := 0 }
/-- DEDUCED, log entry 12. -/
def linkReport (s : State) (key code : Nat) (f : Fld) : State := report (setEvent s f) code (srcEngine (key / 128)) 0xFFFF []

/-! ### Replay (R364) -/

/-- A flit sent again, with the acknowledgement and credits of the moment. -/
def resendFlit (key : Nat) (s : State) (f : Flit) : State :=
  match linkOf s key with
  | none => s
  | some l => emitFlit (modLink s key (fun l => { l with freed := keepCredits l })) key { f with ack := linkAck l, credit := giveCredits l }
/-- Every flit held for replay from a SEQ on is sent again in order. -/
def resendFrom (s : State) (key seq : Nat) : State :=
  match linkOf s key with
  | none => s
  | some l =>
    let fs := l.replay.filter (fun f => !laterThan (BitVec.ofNat 32 seq) (BitVec.ofNat 32 f.seq))
    portEvent (fs.foldl (resendFlit key) s) (key / 16) Ev.mioraReplay fs.length
/-- Every flit not acknowledged is sent again. (DESIGN CHOICE, log entry 31) -/
def replayAll (s : State) (key : Nat) : State :=
  match (linkOf s key).map (fun l => l.replay) with
  | some (f :: _) => resendFrom s key f.seq
  | _ => s

/-! ### Time of flight, as a link forms (R381) -/

/-- On a circuit port the far end is asked over VC2 for λS in LOOP; on every other an ECHO goes out. -/
def startTof (s : State) (key : Nat) : State :=
  match linkOf s key with
  | none => s
  | some l =>
    if l.tofDone then s
    else if portRole s.ident (key / 16) = 1 then
      queueFlits { s with fab := { s.fab with tofWait := SMap.insert s.fab.tofWait key (now s) } } key 2 [msgFlit 2 l.farPostcode (.loopRequest (l.farPort / 2))]
    else
      let (m, s1) := takeFree s
      sendLink s1 key (.echo (m.toNat % 2 ^ 32))

/-! ### Following the lanes (R367, R368) -/

/-- Lanes that a link runs on: below 4 a link to an FM-1 runs on none (R382). -/
def runOn (s : State) (l : Link) (lanes : List Nat) : List Nat :=
  if twoNet s && l.farKind == 3 && decide (lanes.length < 4) then [] else lanes
/-- Flits of one channel that wait, by tile or message; the rest of one partly sent is dropped. -/
def flitGroups : List Queued → List Queued → List (List Queued)
  | _, [] => []
  | acc, f :: r =>
    if acc.isEmpty && !f.flit.first then flitGroups [] r
    else if f.flit.last then (acc ++ [f]) :: flitGroups [] r
    else flitGroups (acc ++ [f]) r
/-- The words that a tile's flits carry. -/
def groupWords (g : List Queued) : List (List Byte × BitVec 16) := g.flatMap (fun f => match f.flit.body with | .tile ws => ws | _ => [])
/-- Flits of a channel's queue that finish a tile partly sent. -/
def started (q : List Queued) : List Queued := q.takeWhile (fun f => !f.flit.first)
/-- A tile or message not yet started is routed afresh, never by the port on which it arrived; a tile that no option takes leaves
a dead letter with CELL 0xFFFF. (DESIGN CHOICE, log entry 31: that CELL, a tile of the module's own among them) -/
def reroute (key : Nat) (s : State) (g : List Queued) : State :=
  match g with
  | [] => s
  | f :: _ => match f.flit.body with
    | .tile _ => (sendTile s (engineDie (key / 128)) 0xFFFF f.flit.dest f.flit.vc f.via (tileOfWords (groupWords g))).getD s
    | .link _ => s
    | .idle => s
    | b => sendVia f.via s f.flit.dest f.flit.vc b
/-- What waits on a link is routed afresh in order, ahead of the messages that wait for a route already (R270). -/
def rerouteAll (key : Nat) (s : State) (qs : List (List (List Queued))) : State :=
  let old := s.fab.waiting
  let s1 := qs.foldl (fun s q => q.foldl (reroute key) s) { s with fab := { s.fab with waiting := [] } }
  flushWaiting { s1 with fab := { s1.fab with waiting := s1.fab.waiting ++ old } }
/-- Whether a tile or message not yet started has another usable option than the link it waits for. -/
def goesOn (s : State) (g : List Queued) : Bool :=
  match g with
  | [] => false
  | f :: _ => match f.flit.body with
    | .link _ => false
    | .idle => false
    | _ => (route s f.flit.dest f.flit.vc f.via none).isSome
/-- A link loses its last lane: what it has not started goes by another option where there is one (R368, R375). (DESIGN CHOICE,
log entry 31) -/
def linkDown (s : State) (key : Nat) (chans : List Nat) : State :=
  let quiet := (linkOf s key).any (fun l => l.quiesced)
  let s0 := modLink s key (fun l => { l with st := .down, downSince := now s, chans := chans, lanes := [], spare := none })
  let s1 := if quiet then s0 else linkReport s0 key C.fabLinkDown F.fabEventLinkDown
  match linkOf s1 key with
  | none => s1
  | some l =>
    if l.changing then s1
    else
      let stay (q : List Queued) : List Queued := started q ++ ((flitGroups [] q).filter (fun g => !goesOn s1 g)).flatten
      rerouteAll key (modLink s1 key (fun l => { l with txq := l.txq.map stay })) (l.txq.map (fun q => (flitGroups [] q).filter (goesOn s1)))
/-- Fewer lanes than at the last training, reported once. (DESIGN CHOICE, log entry 31) -/
def laneReduced (s : State) (key : Nat) : State :=
  match linkOf s key with
  | none => s
  | some l =>
    if l.lanes.length < l.trained then
      if l.reduced then s
      else report (modLink s key (fun l => { l with reduced := true })) C.fabLanesReduced (srcEngine (key / 128)) 0xFFFF []
    else modLink s key (fun l => { l with trained := l.lanes.length, reduced := false })
/-- A lane of a DOWN link returns: the set of lanes is announced, replay continues, and messages that waited find the link again. (DESIGN CHOICE, log entry 31) -/
def linkBack (s : State) (key : Nat) (chans lanes : List Nat) (spare : Option Nat) : State :=
  let s1 := linkReport (modLink s key (fun l => { l with st := .up, chans := chans, lanes := lanes, spare := spare, quiesced := false })) key C.fabLinkUp F.fabEventLinkUp
  flushWaiting (pumpLink (replayAll (sendLink (laneReduced s1 key) key (.laneset lanes)) key) key)
/-- Whether a re-cable that has not released its links changes a lane of a port (R378). -/
def recutting (s : State) (P : Nat) (chans : List Nat) : Bool :=
  (s.fab.recable == .committing || s.fab.recable == .discovering) && chans.any (fun c => s.fab.recut.contains (16 * P + c))
/-- A link forms, anew where one to that far end was LOST: whole tiles received over it stay. Formed on lanes that a re-cable
changes, it carries traffic only once the re-cable releases it (R378). -/
def linkForm (s : State) (key : Nat) (far : Nat × Nat × Nat) (chans lanes : List Nat) (spare : Option Nat) (tofDone : Bool) : State :=
  let held := recutting s (key / 16) chans
  let l : Link := { freshLink far chans lanes with
    tofDone := tofDone, spare := spare, changing := held
    inbox := match linkOf s key with | some o => o.inbox.map (fun a => { a with flits := 0 }) | none => [] }
  let s1 : State := { s with fab := { s.fab with
    links := SMap.insert s.fab.links key l
    changing := if held && !s.fab.changing.contains key then s.fab.changing ++ [key] else s.fab.changing } }
  let s2 := linkReport s1 key C.fabLinkUp F.fabEventLinkUp
  if held then s2 else flushWaiting (startTof s2 key)
/-- The lanes of an UP link change, λS taking one over among the changes: announced, and what is not acknowledged sent again; a
lane trained again ends a QUIESCE (R379), and messages that waited find the link again. -/
def linkChange (s : State) (key : Nat) (chans lanes : List Nat) (spare : Option Nat) : State :=
  let s1 := portEvent (modLink s key (fun l => { l with chans := chans, lanes := lanes, spare := spare, quiesced := l.quiesced && lanes.all (l.lanes.contains ·) })) (key / 16) Ev.laneSetChange 1
  flushWaiting (pumpLink (replayAll (sendLink (laneReduced s1 key) key (.laneset lanes)) key) key)

/-- One link follows the lanes of its port. -/
def followLanes (s : State) (e : Nat × Link) : State :=
  let l := e.2
  let chans := (List.range 8).filter (fun c => farServing s (e.1 / 16) c == some l.far)
  let lanes := runOn s l (chans.filter (inService s (e.1 / 16)))
  let spare := lanes.find? (fun c => covered s (e.1 / 128) (e.1 / 16 % 8) == some c)
  match l.st with
  | .up =>
    if lanes.isEmpty then linkDown s e.1 chans
    else if lanes = l.lanes ∧ spare = l.spare then modLink s e.1 (fun l => { l with chans := chans })
    else linkChange s e.1 chans lanes spare
  | .down => if lanes.isEmpty then modLink s e.1 (fun l => { l with chans := chans }) else linkBack s e.1 chans lanes spare
  | .lost => if lanes.isEmpty then modLink s e.1 (fun l => { l with chans := chans }) else linkForm s e.1 l.far chans lanes spare l.tofDone
/-- A link of a far end that the port had none to. -/
def newLink (P : Nat) (s : State) (c : Nat) : State :=
  match farServing s P c with
  | none => s
  | some far =>
    if (portLinks s P).any (fun e => e.2.far == far) then s
    else
      let chans := (List.range 8).filter (fun k => farServing s P k == some far)
      let lanes := runOn s (freshLink far chans []) (chans.filter (inService s P))
      if lanes.isEmpty then s
      else
        let key := ((c :: List.range 16).find? (fun k => (linkOf s (16 * P + k)).isNone)).getD c
        linkForm s (16 * P + key) far chans lanes (lanes.find? (fun c => covered s (P / 8) (P % 8) == some c)) false
/-- The links of a port follow its lanes. -/
def relink (s : State) (P : Nat) : State := (List.range 8).foldl (newLink P) ((portLinks s P).foldl followLanes s)
/-- The links of a lane's port follow its lanes. -/
def relinkLane (s : State) (e p : Nat) : State := relink s (8 * e + p)

/-! ### LOST (R368) -/

/-- Tiles with a flit in a replay buffer. -/
def tilesIn (fs : List Flit) : Nat :=
  ([0, 1, 3].map (fun vc =>
    let l := fs.filter (fun f => f.vc == vc && (match f.body with | .tile _ => true | _ => false))
    (l.filter (·.first)).length + (match l.head? with | some f => b2n (!f.first) | none => 0))).foldl (· + ·) 0
/-- The steps of collectives on a link are sent again (R389). -/
def resendSteps (s : State) (key : Nat) : State :=
  s.pl.slots.foldl (fun s e => (withIdx e.2.streams).foldl (fun s p =>
    if p.2.coll.started && !p.2.coll.acked && p.2.coll.link == key then sendStep s e.1 p.1 true none else s) s) s
/-- A link becomes LOST: its replay buffer is discarded, the tiles in it counted. One that the far end quiesced reports no fault
(R379). -/
def loseReplay (s : State) (key : Nat) : State :=
  match linkOf s key with
  | none => s
  | some l =>
    let s1 := modLink s key (fun l => { l with st := .lost, replay := [], lanes := [], creditWait := [], spare := none })
    let s2 := portEvent s1 (key / 16) Ev.mioraTilesLost (tilesIn l.replay)
    if l.quiesced then s2 else linkReport s2 key C.fabLinkLost F.fabEventLinkLost
/-- What a link has not started is routed afresh; of a LOST link nothing else stays. -/
def rerouteQueue (s : State) (key : Nat) : State :=
  match linkOf s key with
  | none => s
  | some l =>
    rerouteAll key (modLink s key (fun l => { l with txq := l.txq.map (fun q => if l.st = .lost then [] else started q) })) (l.txq.map (flitGroups []))
/-- A link is LOST: tiles not started take other routes, and the steps of collectives on it are sent again. -/
def linkLost (s : State) (key : Nat) : State := resendSteps (rerouteQueue (loseReplay s key) key) key

end Sys2Proof.Machine
end

