-- ==== Sys2Proof/Machine/Optics.lean ====
section
/-!
DEFINITION. Lanes of the optical engines (R334, R337 to R347, R352, R355, R370 to R372): failure and cover, retries, margin
tests, element loops, identity checks and trips.
-/
namespace Sys2Proof.Machine
open Sys2Proof

def lanesOf : List (Nat × Nat) := (List.range 8).flatMap (fun p => (List.range 9).map (fun c => (p, c)))
/-- Details of reports (R357): the engine, and the lane, element or laser. -/
def laneDetail (e p c : Nat) : List Byte := d4 e ++ d4 p ++ d4 c
def partDetail (e n : Nat) : List Byte := d4 e ++ d4 n
def optReport (s : State) (e code : Nat) (f : Fld) (detail : List Byte) : State :=
  report (setEventAt s f e 0 0) code (srcEngine e) 0xFFFF detail

/-! ### Cover (R342, R343, R367) -/

/-- Whether λS reaches the same far end as a lane. -/
def spareReaches (s : State) (e p c : Nat) : Bool := (farOf s (8 * e + p) 8).isSome && farOf s (8 * e + p) 8 == farOf s (8 * e + p) c
/-- λS takes a lane over; `st` is how the lane stands while covered. -/
def coverLane (s : State) (e p c : Nat) (st : LaneState) : State :=
  let s1 := modLane s e p 8 (fun x => { x with st := .covering, cover := some c })
  optReport (modLane s1 e p c (fun x => { x with st := st })) e C.optLaneSpared F.optEventSpared (laneDetail e p c)
/-- A failed lane that λS does not cover. -/
def dropLane (s : State) (e p c : Nat) : State :=
  optReport (modLane s e p c (fun x => { x with st := .dropped })) e C.optLaneDropped F.optEventDropped (laneDetail e p c)

/-- λS idle: the lowest-numbered DROPPED lane that it reaches takes it. -/
def spareFree (s : State) (e p : Nat) : State :=
  let s1 := modLane s e p 8 (fun x => { x with st := .spareIdle, cover := none })
  match (List.range 8).find? (fun c => (laneOf s1 e p c).st == .dropped && spareReaches s1 e p c) with
  | some c => coverLane s1 e p c .spared
  | none => s1

/-- A neighbour's loop request that holds λS is given up (R391). -/
def loopHeld (s : State) (e p : Nat) : Bool :=
  let k := (opticOf s e).pair (p / 2)
  k.loop && !bitAt k.through 8 && (laneOf s e p 8).st == .through
def endLoop (s : State) (e k : Nat) : State :=
  let s1 := modOptic s e (fun o => { o with pairs := SMap.setD o.pairs k { o.pair k with loop := false } PairSet.rest })
  [2 * k, 2 * k + 1].foldl (fun s p => if (laneOf s e p 8).st == .through then modLane s e p 8 (fun x => { x with st := .spareIdle }) else s) s1

/-- λS made free for a lane that needs it: idle, or taken from a planned cover, its own calibration, or a loop request. -/
def claimSpare (s : State) (e p : Nat) : State :=
  if loopHeld s e p then endLoop s e (p / 2)
  else
    let x := laneOf s e p 8
    match x.st, x.cover with
    | .cal, _ => modLane (abandonLane s e p 8) e p 8 (fun x => { x with st := .spareIdle })
    | .covering, some k =>
      if (laneOf s e p k).st = .cal then
        modLane (modLane (abandonLane s e p k) e p k (fun x => { x with st := .margin })) e p 8 (fun x => { x with st := .spareIdle, cover := none })
      else s
    | _, _ => s

/-- A lane out of service is covered where λS can be had, in state `st`; else it is left in state `bare`, or DROPPED. -/
def seekCover (s : State) (e p c : Nat) (st : LaneState) (bare : Option LaneState) : State :=
  let s1 := claimSpare s e p
  if (laneOf s1 e p 8).st = .spareIdle ∧ spareReaches s1 e p c = true then coverLane s1 e p c st
  else match bare with
    | some b => modLane s1 e p c (fun x => { x with st := b })
    | none => dropLane s1 e p c

/-! ### Failure (R341) -/

/-- The lane that λS covered is left without it: a failed lane becomes DROPPED, a calibration is abandoned. Where the laser of λS
failed (`dark`) the lane becomes DROPPED whatever it was covered for (R350). -/
def uncover (s : State) (e p : Nat) (dark : Bool) : State :=
  match covered s e p with
  | none => s
  | some k =>
    let s1 := modLane s e p 8 (fun x => { x with cover := none })
    match (laneOf s e p k).st with
    | .spared => dropLane s1 e p k
    | .cal =>
      let s2 := abandonLane s1 e p k
      if dark then dropLane s2 e p k else modLane s2 e p k (fun x => { x with st := .margin })
    | .recover => if dark then dropLane s1 e p k else s1
    | _ => s1

/-- How a lane that fails for a cause stands, covered and uncovered: a trip leaves it TRIPPED, but DROPPED where λS covers another
failed lane (R343). -/
def failStates (s : State) (e p c cause : Nat) : LaneState × Option LaneState :=
  if cause = 5 then (.recover, some .recover)
  else if cause = 3 ∧ (c = 8 ∨ (covered s e p).isNone = true) then (.spared, some .tripped)
  else (.spared, none)

/-- A lane goes out of service for a cause, reported, and the far end told through the link layer. -/
def laneOut (s : State) (e p c cause : Nat) : State :=
  let link := (portLinks s (8 * e + p)).find? (fun l => l.2.chans.contains c && l.2.st == .up)
  let s1 := if cause = 7 then s else match link with
    | some l => sendLink s l.1 (.laneFail c)
    | none => s
  let s2 := modLane s1 e p c (fun x => { x with cause := cause, planned := false, trying := false })
  let s3 := optReport s2 e C.optLaneFailed F.optEventLaneFail (laneDetail e p c)
  let f := failStates s3 e p c cause
  if c = 8 then
    let s4 := modLane (uncover s3 e p (cause == 4)) e p 8 (fun x => { x with cover := none })
    match f.2 with
    | some st => modLane s4 e p 8 (fun x => { x with st := st })
    | none => dropLane s4 e p 8
  else if covered s3 e p = some c then modLane s3 e p c (fun x => { x with st := f.1 })
  else seekCover s3 e p c f.1 f.2
/-- Lane states in which a lane can fail. -/
def canFail (st : LaneState) : Bool := st == .active || st == .spareIdle || st == .covering
/-- A lane in service fails. (DESIGN CHOICE, log entry 30) -/
def laneFail (s : State) (e p c cause : Nat) : State :=
  if canFail (laneOf s e p c).st then relinkLane (laneOut s e p c cause) e p else s
/-- A lane fails with a part that it uses, a trip or its laser: one in service, or on its way there; one that calibrates loses its
run (R337, R350). -/
def partFail (s : State) (e p c cause : Nat) : State :=
  match (laneOf s e p c).st with
  | .lighting => relinkLane (laneOut s e p c cause) e p
  | .training => relinkLane (laneOut s e p c cause) e p
  | .margin => relinkLane (laneOut s e p c cause) e p
  | .cal => relinkLane (laneOut (abandonLane s e p c) e p c cause) e p
  | _ => laneFail s e p c cause

/-- LANE_LOSS_OF_LIGHT: the lanes (p, c) that lost light together, served lowest channel first, a λS lane among them first of
all, since it can cover none. -/
def execLaneLossOfLight (e : Nat) (lanes : List (Nat × Nat)) (s : State) : Out :=
  done (([8, 0, 1, 2, 3, 4, 5, 6, 7].flatMap (fun c => lanes.filter (fun l => l.2 == c))).foldl (fun s l => laneFail s e l.1 l.2 1) s)
/-- LANE_ERROR_RATIO. -/
def execLaneErrorRatio (e p c : Nat) (s : State) : Out := done (laneFail s e p c 2)
/-- LANE_FAR_END_FAIL. -/
def execLaneFarEndFail (e p c : Nat) (s : State) : Out := done (laneFail s e p c 7)

/-! ### Return to service (R343, R345 to R347) -/

/-- A lane that has passed its margin test is in service again; λS goes on. -/
def laneActive (s : State) (e p c : Nat) : State :=
  if c = 8 then relinkLane (spareFree s e p) e p
  else
    let was := covered s e p
    let s1 := modLane s e p c (fun x => { x with st := .active, trying := false })
    relinkLane (if was = some c then spareFree s1 e p else s1) e p
/-- The margin a passed test gives: the full measure where none was made since reset. -/
def passMargin (s : State) (e : Nat) (x : Lane) (full : Nat) : Lane :=
  if x.full then { x with margin := fldAt s F.optCtlTestMargin e 0 0 } else { x with margin := full, full := true }
/-- Bits corrected at which a test is passed. -/
def marginPass (near far : Nat) : Bool := decide (near ≤ 4026) && decide (far ≤ 4026)
/-- A lane short of margin: HELD, or SPARED while λS still covers it; a retry that ends so is counted. -/
def marginShort (s : State) (e p c : Nat) : State :=
  let cov := decide (c ≠ 8 ∧ covered s e p = some c)
  let s0 := if c = 8 then uncover s e p false else s
  let s1 := modLane s0 e p c (fun x => { x with st := if cov then .spared else .held, margin := 0, cause := 6, trying := false, retries := if x.trying then min 15 (x.retries + 1) else x.retries })
  relinkLane (optReport s1 e C.optMarginShort F.optEventMarginShort (laneDetail e p c)) e p
/-- MARGIN_TEST_COMPLETE: bits corrected at both ends, and the last step in 0.1 dB that a full measurement passed. -/
def execMarginTestComplete (e p c near far full : Nat) (s : State) : Out :=
  done (
    if (laneOf s e p c).st ≠ .margin then s
    else if marginPass near far then laneActive (modLane s e p c (fun x => passMargin s e x full)) e p c
    else marginShort s e p c)
/-- SPARE_MARGIN_TEST: the test of an idle λS lane, once a second. -/
def execSpareMarginTest (e p near far : Nat) (s : State) : Out :=
  done (
    if (laneOf s e p 8).st ≠ .spareIdle then s
    else if marginPass near far then modLane s e p 8 (fun x => { x with margin := fldAt s F.optCtlTestMargin e 0 0 })
    else marginShort s e p 8)

/-! ### Training and identity (R328, R352, R370 to R372) -/

/-- The laser of a channel in use. -/
def Optic.laserInUse (o : Optic) (c : Nat) : Option Nat :=
  [2 * c, 2 * c + 1].find? (fun n => match SMap.find o.lasers n with | some l => l.st == .inUse | none => false)
/-- The elements of a lane: its rings, the locker and gate of its channel's laser in use, the port's levellers. -/
def laneElems (o : Optic) (p c : Nat) : List Nat :=
  [9 * p + c, 72 + 9 * p + c, 184 + p, 192 + p] ++ (match o.laserInUse c with | some n => [144 + n, 162 + n] | none => [])
/-- Elements that R338 checks for identity: the rings and lockers. -/
def hasIdentity (i : Nat) : Bool := decide (i < 162)
/-- Every element of a lane is locked and has the right identity. -/
def laneLocked (o : Optic) (p c : Nat) : Bool :=
  (o.laserInUse c).isSome && (laneElems o p c).all (fun i => (o.elem i).st == .locked && (!hasIdentity i || (o.elem i).identOk))

/-- Each end sends IDENT on a lane at its training (R370): as the link's next flit where the lane is in service, else on the bare
lane, which has no sequence of its own. (DESIGN CHOICE, log entry 31) -/
def sendIdent (s : State) (P c : Nat) : State :=
  let m : LinkMsg := .ident 1 (postcode s) P c 2 (Config.latency P 0) (Config.latency P 1) (Config.latency P 2)
  match (portLinks s P).find? (fun l => l.2.st == .up && l.2.lanes.contains c && l.2.spare != some c) with
  | some l => sendLink s l.1 m
  | none => emit s (.flit (identKey P c) c (msgFlit 2 0xFFFF (.link m)))
/-- A lane's training begins: a new DAC resolution and the seeds in force take effect (R327, R328). -/
def beginTraining (s : State) (e p c : Nat) : State :=
  let s1 := modLane s e p c (fun x => { x with st := .training, dacBits := fldAt s F.optCtlDacBits e 0 0, seeds := laneSeeds s e p c })
  sendIdent { s1 with fab := { s1.fab with ident := SMap.erase s1.fab.ident (identKey (8 * e + p) c) } } (8 * e + p) c

/-- Lanes whose elements are all locked go on: to training, while the light is ready (R336), or from recovery to the margin test,
by way of training where they had not trained. -/
def advanceLane (e : Nat) (s : State) (l : Nat × Nat) : State :=
  let st := (laneOf s e l.1 l.2).st
  if st ≠ .lighting ∧ st ≠ .recover then s
  else if laneLocked (opticOf s e) l.1 l.2 = false then s
  else if st = .lighting ∨ (farOf s (8 * e + l.1) l.2).isNone = true then
    (if lightReady s e then beginTraining s e l.1 l.2 else s)
  else modLane s e l.1 l.2 (fun x => { x with st := .margin })
def advanceLanes (s : State) (e : Nat) : State := lanesOf.foldl (advanceLane e) s

/-- The result of R371 for a lane: 1 expected, 2 bypass, 3 any other. -/
def identMatch (s : State) (P c : Nat) (i : IdentInfo) : Nat :=
  let want (f : Fld) := fldAt s f 0 P c
  if i.kind = want F.fabExpectKind ∧ i.postcode = want F.fabExpectNbr ∧ i.port = want F.fabExpectNbrPort then 1
  else if want F.fabBypassValid = 1 ∧ i.postcode = want F.fabBypassNbr ∧ i.port = want F.fabBypassNbrPort then 2
  else 3
def setIdent (s : State) (P c : Nat) (i : IdentInfo) : State :=
  { s with fab := { s.fab with ident := SMap.insert s.fab.ident (identKey P c) i } }
/-- A lane held dark because its neighbour is unplanned, with every other lane of the port to that far end. -/
def holdDark (s : State) (P : Nat) (i : IdentInfo) : State :=
  let e := P / 8
  let p := P % 8
  let same := (List.range 9).filter (fun c => match identOf s P c with | some j => j.postcode == i.postcode && j.port == i.port | none => false)
  let s1 := same.foldl (fun s c =>
    let s1 := if c = 8 then uncover s e p false else s
    let s2 := modLane s1 e p c (fun x => { x with st := .dark, cover := none, trying := false })
    match identOf s2 P c with
    | some j => setIdent s2 P c { j with matched := 3 }
    | none => s2) s
  let s2 : State := { s1 with fab := { s1.fab with unplanned := if s1.fab.unplanned.contains P then s1.fab.unplanned else s1.fab.unplanned ++ [P] } }
  relink (report (setEvent s2 F.fabEventUnplanned) C.fabNbrUnplanned (srcEngine e) 0xFFFF (d4 i.postcode ++ d4 i.port ++ d4 i.kind)) P
/-- A bypass neighbour is reported once for each port. -/
def bypassed (s : State) (P : Nat) : State :=
  if s.fab.bypassed.contains P then s
  else report (setEvent { s with fab := { s.fab with bypassed := s.fab.bypassed ++ [P] } } F.fabEventBypassed) C.fabNbrBypassed (srcEngine (P / 8)) 0xFFFF []
/-- The identity of a lane compared with its expectation; what follows where it is as planned. (DESIGN CHOICE, log entry 30) -/
def judgeIdent (s : State) (P c : Nat) (i : IdentInfo) (ok : State → State) : State :=
  let m := identMatch s P c i
  if m = 3 then holdDark (setIdent s P c { i with matched := 3 }) P i
  else
    let s1 := setIdent s P c { i with matched := m }
    let s2 : State := { s1 with fab := { s1.fab with absent := s1.fab.absent.filter (· != P), unplanned := s1.fab.unplanned.filter (· != P) } }
    ok (if m = 2 then bypassed s2 P else s2)

/-- LANE_TRAINING_COMPLETE: the identity received is compared; a planned neighbour's lane goes to its margin test. -/
def execLaneTrainingComplete (e p c : Nat) (s : State) : Out :=
  done (
    if (laneOf s e p c).st ≠ .training then s
    else match identOf s (8 * e + p) c with
      | none => s
      | some i => judgeIdent s (8 * e + p) c i (fun s => modLane s e p c (fun x => { x with st := .margin })))

/-- Nothing was received on any planned lane of a port, none of which lights or trains any more: it is marked ABSENT (R371). -/
def markAbsent (s : State) (P : Nat) : State :=
  let planned := (List.range 9).filter (fun c => (opticOf s (P / 8)).dropped (P % 8) c && fldAt s F.fabExpectKind 0 P c != 0)
  let begun (c : Nat) : Bool := let st := (laneOf s (P / 8) (P % 8) c).st; st == .lighting || st == .training
  if planned.isEmpty || planned.any begun || planned.any (fun c => (identOf s P c).isSome) || s.fab.absent.contains P then s
  else report (setEvent { s with fab := { s.fab with absent := s.fab.absent ++ [P] } } F.fabEventAbsent) C.fabNbrAbsent (srcEngine (P / 8)) 0xFFFF []
/-- Training does not finish (CAUSE 8); a failed retry is counted. -/
def trainingFails (s : State) (e p c : Nat) : State :=
  let was := laneOf s e p c
  let s1 := laneOut s e p c 8
  relinkLane (modLane s1 e p c (fun x => { x with retries := if was.trying then min 15 (x.retries + 1) else x.retries })) e p
/-- A lane's training bound: an identity received is compared there all the same, and a neighbour not planned holds the lane dark
(R371). -/
def trainingBound (s : State) (e p c : Nat) : State :=
  match identOf s (8 * e + p) c with
  | none => trainingFails s e p c
  | some i => judgeIdent s (8 * e + p) c i (fun s => trainingFails s e p c)
/-- LANE_TRAINING_TIMEOUT. -/
def execLaneTrainingTimeout (e p c : Nat) (s : State) : Out :=
  done (if (laneOf s e p c).st = .training then markAbsent (trainingBound s e p c) (8 * e + p) else s)

/-! ### Retries (R344, R371, R372) -/

/-- A lane held dark for its neighbour. -/
def heldDark (s : State) (e p c : Nat) : Bool :=
  (laneOf s e p c).st == .dark && (opticOf s e).dropped p c && (match identOf s (8 * e + p) c with | some i => i.matched == 3 | none => false)
/-- A laser of a channel that a trip of its locker or gate took out of use (R333), to be tried again. -/
def trippedLaser (o : Optic) (c : Nat) : Option Nat :=
  [2 * c, 2 * c + 1].find? (fun n => ((o.elem (144 + n)).st == .tripped || (o.elem (162 + n)).st == .tripped) &&
    (match SMap.find o.lasers n with | some l => l.st != .retired | none => true))
/-- Tripped elements of a pair that no lane stands on: the rings of a channel set to THROUGH, and the pair cell (R337). -/
def idleTripped (o : Optic) (p c : Nat) : List Nat :=
  ((if o.isThrough p c then [9 * p + c, 72 + 9 * p + c] else []) ++ [180 + p / 2]).filter (fun i => (o.elem i).st == .tripped)
def canRetry (s : State) (e p c : Nat) : Bool :=
  let st := (laneOf s e p c).st
  let o := opticOf s e
  lightReady s e && (st == .spared || st == .dropped || st == .held || st == .tripped || heldDark s e p c) && decide ((laneOf s e p c).retries < 15) &&
    ((o.laserInUse c).isSome || (trippedLaser o c).isSome)
/-- A retry begins, `locked` whether its elements relocked: a tripped element is tried again, and with its locker or gate the laser
that the trip took out of use; so are a pair's tripped elements that no lane stands on. A lane that λS covers stays covered by
it. -/
def retryLane (s : State) (e p c : Nat) (locked : Bool) : State :=
  let lock (s : State) (i : Nat) : State :=
    let x := (opticOf s e).elem i
    setElem s e i { x with st := .locked, identOk := x.identOk || hasIdentity i, good := 10 }
  let s0 := if locked && lightReady s e then (idleTripped (opticOf s e) p c).foldl lock s else s
  if canRetry s e p c = false then s0
  else if locked then
      let s1 := if ((opticOf s0 e).laserInUse c).isSome then s0
        else match trippedLaser (opticOf s0 e) c with
          | some n => modOptic s0 e (fun o => { o with lasers := SMap.insert o.lasers n { (SMap.find o.lasers n).getD ⟨.off, false, 0, 0⟩ with st := .inUse } })
          | none => s0
      let s2 := (laneElems (opticOf s1 e) p c).foldl lock s1
      beginTraining (modLane s2 e p c (fun x => { x with trying := true })) e p c
  else modLane s e p c (fun x => { x with retries := min 15 (x.retries + 1) })
/-- LANE_RETRY. (DESIGN CHOICE, log entry 4) -/
def execLaneRetry (e p c : Nat) (locked : Bool) (s : State) : Out := done (retryLane s e p c locked)
/-- LIGHT_RETURN_RETRY: a lane that failed with loss of light. -/
def execLightReturnRetry (e p c : Nat) (locked : Bool) (s : State) : Out :=
  done (if (laneOf s e p c).cause = 1 then retryLane s e p c locked else s)

/-- A lane in CAL goes to its margin test once no item of it runs (R402). -/
def laneDone (s : State) (e p c : Nat) : State :=
  if (laneOf s e p c).st = .cal ∧ laneRuns s e p c = false then modLane s e p c (fun x => { x with st := .margin }) else s
/-- CAL_COVER_SWITCH_POINT: the lane is paused onto λS, and its due items run; the engine's references are compared then. With no
hub active no run starts (R35), and the cover is given up. (DESIGN CHOICE, log entry 32) -/
def execCalCoverSwitchPoint (e p : Nat) (lane : LaneCheck) (s : State) : Out :=
  done (
    let x := laneOf s e p lane.chan
    if x.planned = false then s
    else
      let s1 := modLane s e p lane.chan (fun x => { x with planned := false })
      if x.st ≠ .active ∨ (laneOf s e p 8).st ≠ .spareIdle ∨ spareReaches s e p lane.chan = false ∨ 8 ≤ lane.chan ∨ s.active.isNone = true then s1
      else
        let s2 := modLane (coverLane s1 e p lane.chan .cal) e p lane.chan (fun x => { x with full := false })
        relinkLane (laneDone (runDue lane.mismatch s2 (laneItems e p lane.chan)) e p lane.chan) e p)

/-! ### Element loops (R334) -/

/-- One element's loop: locked while its last ten samples lie within tolerance; open for a run of its items (R403). -/
def sampleElem (e : Nat) (s : State) (x : Nat × Nat × Nat × Bool) : State :=
  let o := (opticOf s e).elem x.1
  if o.st = .safe ∨ o.st = .tripped ∨ elemOpen s e x.1 = true then s
  else
    let good := if x.2.2.2 then min 10 (o.good + 1) else 0
    setElem s e x.1 { o with error := x.2.1 % 4096, heater := x.2.2.1, good := good, st := if 10 ≤ good then .locked else .steering }
/-- What a laser's power loop measured. -/
def sampleLaser (m : SMap Laser) (x : Nat × Nat × Nat) : SMap Laser :=
  match SMap.find m x.1 with
  | some l => SMap.insert m x.1 { l with bias := x.2.1, power := x.2.2 }
  | none => m
/-- ELEMENT_LOOP_SAMPLE: of each element sampled (index, error, heater power in ‰, within tolerance); of each laser (number,
bias in %, power in 0.01 dBm). -/
def execElementLoopSample (e : Nat) (elems : List (Nat × Nat × Nat × Bool)) (lasers : List (Nat × Nat × Nat)) (s : State) : Out :=
  done (
    if s.phase ≠ .running then s
    else
      let s1 := elems.foldl (sampleElem e) s
      advanceLanes (modOptic s1 e (fun o => { o with lasers := lasers.foldl sampleLaser o.lasers })) e)

/-! ### Trips and wrong wavelengths (R337 to R339, R355) -/

/-- The lanes that use an element: a ring's own while in DROP, every lane of the channel for the laser in use, every lane of
the port for a leveller. -/
def elemLanes (o : Optic) (i : Nat) : List (Nat × Nat) :=
  if i < 144 then (let l := i % 72; if o.dropped (l / 9) (l % 9) then [(l / 9, l % 9)] else [])
  else if i < 180 then
    (let n := (i - 144) % 18; if o.laserInUse (n / 2) = some n then (List.range 8).map (fun p => (p, n / 2)) else [])
  else if i < 184 then []
  else (List.range 9).map (fun c => ((i - 184) % 8, c))

/-- A lane out by a trip: in service or on its way there it fails with CAUSE 3; in recovery or HELD it ends so; SPARED or DROPPED it
stays, marked with the cause. (DESIGN CHOICE, log entry 30) -/
def tripLane (e : Nat) (s : State) (l : Nat × Nat) : State :=
  let cov := decide (covered s e l.1 = some l.2)
  match (laneOf s e l.1 l.2).st with
  | .recover => modLane s e l.1 l.2 (fun x => { x with st := if cov then .spared else .tripped, cause := 3 })
  | .held => modLane s e l.1 l.2 (fun x => { x with st := .tripped, cause := 3 })
  | .spared => modLane s e l.1 l.2 (fun x => { x with cause := 3 })
  | .dropped => modLane s e l.1 l.2 (fun x => { x with cause := 3 })
  | _ => partFail s e l.1 l.2 3
/-- The safe output of a locker or gate that trips: its laser off, or on the dark path; a handover that warmed it is given up
(R333). -/
def tripLaser (s : State) (e i : Nat) : State :=
  let n := (i - 144) % 18
  modOptic s e (fun o => match SMap.find o.lasers n with
    | none => o
    | some l =>
      if l.st = .retired ∨ l.st = .off then o
      else
        let spare := l.st != .inUse
        { o with lasers := SMap.insert o.lasers n (if i < 162 then ⟨.off, l.failed, 0, 0⟩ else { l with st := if l.st = .inUse then .lockedDark else l.st })
                 handover := if spare then SMap.erase o.handover (n / 2) else o.handover })
/-- The safe output of an element that trips, beside its heater (R333): of a locker or gate its laser's, of a pair cell BYPASS, which
ends a loop request. -/
def safeOutput (s : State) (e i : Nat) : State :=
  if 144 ≤ i ∧ i < 180 then tripLaser s e i
  else if 180 ≤ i ∧ i < 184 then (if loopHeld s e (2 * (i - 180)) || loopHeld s e (2 * (i - 180) + 1) then endLoop s e (i - 180) else s)
  else s
/-- ELEMENT_TRIP: the element takes its safe output (its saturation is not watched during a run of its items, R403); `noMatch` where it trips because recovery found no match (R339). A drop
ring of a channel in DROP parks, so the partner port's lane fails with it and its add ring parks. -/
def execElementTrip (e i : Nat) (noMatch : Bool) (s : State) : Out :=
  done (
    if 200 ≤ i ∨ s.ident.engines ≤ e ∨ s.phase ≠ .running ∨ elemOpen s e i = true then s
    else
      let o := opticOf s e
      let s1 := setElem s e i { o.elem i with st := .tripped, identOk := false, good := 0, heater := 0 }
      let s2 := satFldAt (optReport s1 e C.optElemTrip F.optEventTrip (partDetail e i)) F.optElemTripsCount e 0 0 1
      let s2a := safeOutput s2 e i
      let s3 := if noMatch then report s2a C.optRelockFailed (srcEngine e) 0xFFFF (partDetail e i) else s2a
      let own := elemLanes o i
      let partner := if i < 72 then own.map (fun l => (if l.1 % 2 = 0 then l.1 + 1 else l.1 - 1, l.2)) else []
      let s4 := partner.foldl (fun s l => setElem s e (72 + 9 * l.1 + l.2) Elem.rest) s3
      (own ++ partner).foldl (tripLane e) s4)

/-- Whether the levels seen, by channel in 0.1 dB, pass the check of a ring (R338): in DROP the own channel strongest by 10 dB;
parked none within 20 dB of the strongest pilot on the fibre. -/
def pilotOk (dropped : Bool) (c : Nat) (levels : List (Nat × Int)) (ref : Int) : Bool :=
  if dropped then
    match levels.find? (fun l => l.1 == c) with
    | some own => levels.all (fun l => l.1 == c || decide (l.2 + 100 ≤ own.2))
    | none => false
  else levels.all (fun l => decide (l.2 < ref - 200))
/-- The channel of the strongest pilot. -/
def strongest (levels : List (Nat × Int)) : Option Nat :=
  (levels.foldl (fun (m : Option (Nat × Int)) l => match m with
    | some b => if b.2 < l.2 then some l else some b
    | none => some l) none).map (·.1)

/-- A lane goes into recovery: out of service with CAUSE 5 and covered where λS can be had, whatever it was doing once it had lit. A
lane that lights waits for its bound (R352); one with a tripped element for its retry. -/
def recoverLane (e : Nat) (s : State) (l : Nat × Nat) : State :=
  let into (s : State) : State :=
    let s1 := modLane s e l.1 l.2 (fun x => { x with cause := 5, planned := false, trying := false })
    let s2 := if l.2 = 8 ∨ covered s1 e l.1 = some l.2 then modLane s1 e l.1 l.2 (fun x => { x with st := .recover })
      else seekCover s1 e l.1 l.2 .recover (some .recover)
    relinkLane s2 e l.1
  match (laneOf s e l.1 l.2).st with
  | .training => into s
  | .margin => into s
  | .cal => into (abandonLane s e l.1 l.2)
  | .spared => into s
  | .dropped => into s
  | .held => into s
  | _ => laneFail s e l.1 l.2 5
/-- IDENTITY_CHECK of a ring or locker: the pilot levels seen by channel, the strongest pilot on its fibre, and for a locker
whether its heater lies within a half-channel of the power predicted. -/
def execIdentityCheck (e i : Nat) (levels : List (Nat × Int)) (ref : Int) (within : Bool) (s : State) : Out :=
  done (
    let o := opticOf s e
    let x := o.elem i
    if s.phase ≠ .running ∨ hasIdentity i = false ∨ x.st ≠ .locked ∨ s.ident.engines ≤ e ∨ elemOpen s e i = true then s
    else
      let l := i % 72
      let ok := if i < 144 then pilotOk (o.dropped (l / 9) (l % 9)) (l % 9) levels ref else within
      let pilot := if i < 144 then strongest levels else x.pilot
      if ok then advanceLanes (setElem s e i { x with identOk := true, pilot := pilot }) e
      else
        let s1 := setElem s e i { x with identOk := false, pilot := pilot, st := .steering, good := 0, heater := 0 }
        (elemLanes o i).foldl (recoverLane e) (optReport s1 e C.optWrongLambda F.optEventWrongLambda (partDetail e i)))

end Sys2Proof.Machine
end

