-- ==== Sys2Proof/Machine/Steer.lean ====
section
/-!
DEFINITION. Lasers and their handover (R348 to R351), and the commit of light paths (R329 to R332, R336, R352 to R354).
-/
namespace Sys2Proof.Machine
open Sys2Proof

/-! ### Lasers (R348 to R351) -/

def Laser.off : Laser := ⟨.off, false, 0, 0⟩
def Optic.laser (o : Optic) (n : Nat) : Laser := SMap.getD o.lasers n Laser.off
def setLaser (s : State) (e n : Nat) (x : Laser) : State := modOptic s e (fun o => { o with lasers := SMap.setD o.lasers n x Laser.off })
/-- The other laser of a channel. -/
def mate (n : Nat) : Nat := if n % 2 = 0 then n + 1 else n - 1
def setHandover (s : State) (e c : Nat) (h : Option Handover) : State :=
  modOptic s e (fun o => { o with handover := match h with
    | some x => SMap.insert o.handover c x
    | none => SMap.erase o.handover c })

/-- The link of a port over which the far end of a channel's lane is told: the UP link that holds the channel, for λS the link to the
far end that it reaches. -/
def linkHolding (s : State) (P c : Nat) : Option Nat :=
  ((portLinks s P).find? (fun l => l.2.st == .up && (l.2.chans.contains c || (c == 8 && farOf s P 8 == some l.2.far)))).map (·.1)
/-- The window of a handover announced to the far end of every locally terminated lane of the channel (step 3 of R349), 1 ms
to 10 ms ahead. (DESIGN CHOICE, log entry 30) -/
def announce (s : State) (e c : Nat) : State :=
  let (w, s1) := takeFree s
  let start := now s + 1000000 + w.toNat % 9000001
  let s2 := (List.range 8).foldl (fun s p =>
    if (opticOf s e).dropped p c = false then s
    else match linkHolding s (8 * e + p) c with
      | some k => sendLink s k (.window c start 2000)
      | none => s) s1
  setHandover s2 e c (some .announced)
/-- Whether a commit changes a lane of a channel (R355). (DESIGN CHOICE, log entry 30) -/
def commitTouches (o : Optic) (c : Nat) : Bool := o.busy && o.changed.any (fun l => l % 9 == c)
/-- Windows that wait are announced where a hub is active and no commit stands in the way. -/
def announceAll (s : State) (e : Nat) : State :=
  (opticOf s e).handover.foldl (fun s h =>
    if h.2 = .locked ∧ s.active.isSome = true ∧ commitTouches (opticOf s e) h.1 = false then announce s e h.1 else s) s

/-- Runs on a laser's locker and gate are abandoned (R409). -/
def abandonLaser (s : State) (e n : Nat) : State :=
  [(0, 144 + n), (0, 162 + n), (3, 144 + n), (3, 162 + n)].foldl (fun s k => calAbandon s k.1 (200 * e + k.2)) s
/-- The channel's other laser is warmed with its gate on the dark path. -/
def warmSpare (s : State) (e n : Nat) : State :=
  let m := mate n
  let s1 := setLaser (abandonLaser s e m) e m { (opticOf s e).laser m with st := .warming }
  setHandover (steerElem (steerElem s1 e (144 + m)) e (162 + m)) e (n / 2) (some .warming)
/-- A laser locked on the dark path that can take over: neither its locker nor its gate has tripped. -/
def spareReady (o : Optic) (n : Nat) : Bool :=
  (o.laser n).st == .lockedDark && (o.elem (144 + n)).st != .tripped && (o.elem (162 + n)).st != .tripped
/-- LASER_HANDOVER_TRIGGER: a spare that a reset left locked on the dark path needs no warming. -/
def execLaserHandoverTrigger (e n : Nat) (s : State) : Out :=
  done (
    let o := opticOf s e
    if (o.laser n).st ≠ .inUse ∨ s.phase ≠ .running ∨ (SMap.find o.handover (n / 2)).isSome = true then s
    else if (o.laser (mate n)).st = .retired then report s C.optLaserNoSpare (srcEngine e) 0xFFFF (partDetail e n)
    else if spareReady o (mate n) then announceAll (setHandover (abandonLaser s e (mate n)) e (n / 2) (some .locked)) e
    else warmSpare s e n)
/-- LASER_SPARE_LOCKED: the spare is at its set power, its locker locked and its identity checked. -/
def execLaserSpareLocked (e c : Nat) (s : State) : Out :=
  done (
    let o := opticOf s e
    if SMap.find o.handover c ≠ some .warming then s
    else match [2 * c, 2 * c + 1].find? (fun n => (o.laser n).st == .warming) with
      | none => s
      | some m => announceAll (setHandover (setLaser s e m { o.laser m with st := .lockedDark }) e c (some .locked)) e)

/-- A laser is retired for good; its end-of-life history ends, and the predictions follow. -/
def retireLaser (s : State) (e n : Nat) (failed : Bool) : State :=
  let s1 := setElem (setElem (setLaser s e n ⟨.retired, failed, 0, 0⟩) e (144 + n) Elem.rest) e (162 + n) Elem.rest
  eolRegs { s1 with pace := { s1.pace with means := SMap.erase s1.pace.means (65536 + 18 * e + n) } }
/-- A laser's gate is switched to the channel amplifier, a run on its locker or gate being abandoned (R409). -/
def useLaser (s : State) (e n : Nat) : State :=
  let s1 := abandonLaser s e n
  let o := opticOf s1 e
  let s2 := setElem s1 e (144 + n) { o.elem (144 + n) with st := .locked, identOk := true, good := 10 }
  setLaser (setElem s2 e (162 + n) { o.elem (162 + n) with st := .locked, good := 10 }) e n { o.laser n with st := .inUse }
/-- What the pause of a channel's lanes left unacknowledged is sent again, on every link that a lane of the channel carries (R349). -/
def replayChannel (s : State) (e c : Nat) : State :=
  (List.range 8).foldl (fun s p => ((portLinks s (8 * e + p)).filter (fun l => l.2.st == .up &&
      (if c = 8 then l.2.spare.isSome else l.2.lanes.contains c && l.2.spare != some c))).foldl (fun s l => pumpLink (replayAll s l.1) l.1) s) s
/-- HANDOVER_WINDOW_OPEN: both gates are switched, the frames not acknowledged sent again, the old laser retired. -/
def execHandoverWindowOpen (e c : Nat) (s : State) : Out :=
  done (
    let o := opticOf s e
    if SMap.find o.handover c ≠ some .announced then s
    else match [2 * c, 2 * c + 1].find? (spareReady o) with
      | none => s
      | some m =>
        let old := mate m
        let s1 := replayChannel (setHandover (useLaser s e m) e c none) e c
        let s2 := if (o.laser old).st = .inUse then retireLaser s1 e old false else s1
        optReport s2 e C.optLaserHandover F.optEventHandover (partDetail e old))
/-- LASER_FAIL: a spare locked on the dark path takes over at once; else the channel's lanes fail and the spare is warmed. -/
def execLaserFail (e n : Nat) (s : State) : Out :=
  done (
    let o := opticOf s e
    if (o.laser n).st ≠ .inUse ∨ s.phase ≠ .running then s
    else
      let m := o.laser (mate n)
      let s1 := optReport s e C.optLaserFailed F.optEventLaserFail (partDetail e n)
      if spareReady o (mate n) then retireLaser (replayChannel (setHandover (useLaser s1 e (mate n)) e (n / 2) none) e (n / 2)) e n true
      else
        let s2 := retireLaser ((List.range 8).foldl (fun s p => partFail s e p (n / 2) 4) s1) e n true
        if m.st = .retired ∨ m.st = .warming then s2 else warmSpare s2 e n)

/-- The channels of an engine get a laser in use each, as a port is lit; one whose spare is being handed over waits for it. -/
def lightLasers (s : State) (e : Nat) : State :=
  (List.range 9).foldl (fun s c =>
    let o := opticOf s e
    if (o.laserInUse c).isSome || (SMap.find o.handover c).isSome then s
    else match [2 * c, 2 * c + 1].find? (fun n => (o.laser n).st != .retired) with
      | some n => steerElem (steerElem (setLaser s e n { o.laser n with st := .inUse }) e (144 + n)) e (162 + n)
      | none => s) s
/-- Every laser off that is not retired, as the last port goes dark. -/
def darkLasers (s : State) (e : Nat) : State :=
  modOptic s e (fun o => { o with lasers := o.lasers.filter (fun l => l.2.st == .retired), handover := [],
                                  elems := o.elems.filter (fun x => decide (x.1 < 144) || decide (180 ≤ x.1)) })
/-- Whether a port of an engine is lit. -/
def anyLit (o : Optic) : Bool := (List.range 8).any o.lit
/-- Whether the lasers of an engine are on: a lane of it is lit or warming (R295), so neither DARK nor THROUGH (R340). (DESIGN CHOICE,
log entry 30) -/
def lasersOn (s : State) (e : Nat) : Bool :=
  (opticOf s e).lanes.any (fun l => l.2.st != .dark && l.2.st != .through)

/-! ### Settings (R329, R330) -/

/-- The setting staged for a pair. -/
def stagedPair (s : State) (e k : Nat) : PairSet :=
  ⟨fldAt s F.optPathThrough e k 0, fldAt s F.optPathLitA e k 0 == 1, fldAt s F.optPathLitB e k 0 == 1, fldAt s F.optPathLoop e k 0 == 1⟩
/-- Whether a pair may take a setting. -/
def pairOk (s : State) (e k : Nat) (x : PairSet) : Bool :=
  (portRole s.ident (8 * e + 2 * k) == 1 && portRole s.ident (8 * e + 2 * k + 1) == 1) ||
  (x.through == 0x1FF && !x.litA && !x.litB) || x.through == 0
def stagedOk (s : State) (e : Nat) : Bool := (List.range 4).all (fun k => pairOk s e k (stagedPair s e k))
/-- The staged settings of an engine. -/
def stagedPairs (s : State) (e : Nat) : SMap PairSet := (List.range 4).foldl (fun m k => SMap.setD m k (stagedPair s e k) PairSet.rest) []
/-- Lanes whose channel setting or lit state differs between two settings. -/
def lanesChanged (a b : Optic) : List Nat :=
  (lanesOf.filter (fun l => a.isThrough l.1 l.2 != b.isThrough l.1 l.2 || a.lit l.1 != b.lit l.1)).map (fun l => 9 * l.1 + l.2)

/-! ### Commit (R352, R353) -/

/-- λS leaves the lanes that a commit changes. -/
def releaseCover (e : Nat) (ch : List Nat) (s : State) (p : Nat) : State :=
  let own := ch.contains (9 * p + 8)
  match covered s e p with
  | none => s
  | some k =>
    if ch.contains (9 * p + k) then modLane s e p 8 (fun x => { x with st := .spareIdle, cover := none })
    else if own then uncover s e p false else s
/-- Whether the lanes of an engine may light: the postcode is set (R369), the light ready (R336). -/
def mayLight (s : State) (e : Nat) : Bool := postcodeValid s && lightReady s e
/-- What a lane becomes under the setting in force: THROUGH, dark, or lighting. -/
def laneStart (s : State) (e p c : Nat) : LaneState :=
  let o := opticOf s e
  if o.isThrough p c then .through else if o.lit p && mayLight s e then .lighting else .dark
/-- A changed lane starts afresh: its run abandoned, its identity forgotten, its rings sent to their new targets. -/
def startLane (e : Nat) (s : State) (l : Nat) : State :=
  let p := l / 9
  let c := l % 9
  let s1 := abandonLane s e p c
  let o := opticOf s1 e
  let st := laneStart s1 e p c
  let s2 := setLane s1 e p c { Lane.rest with st := st, full := (o.lane p c).full }
  let s3 := if st = .dark then setElem (setElem s2 e l Elem.rest) e (72 + l) Elem.rest else steerElem (steerElem s2 e l) e (72 + l)
  { s3 with fab := { s3.fab with ident := SMap.erase s3.fab.ident (identKey (8 * e + p) c) } }
/-- The levellers of a port follow whether it is lit, the pair cell its setting. -/
def startPort (before : Optic) (e : Nat) (s : State) (p : Nat) : State :=
  let o := opticOf s e
  let s1 := if o.lit p = before.lit p then s
    else if o.lit p then steerElem (steerElem s e (184 + p)) e (192 + p)
    else setElem (setElem s e (184 + p) Elem.rest) e (192 + p) Elem.rest
  if p % 2 = 0 ∧ (o.pair (p / 2)).loop ≠ (before.pair (p / 2)).loop then steerElem s1 e (180 + p / 2) else s1
/-- The expectations of the lanes changed are those in force from now on (R378). -/
def expectWords (s : State) (P c : Nat) : Word × Word := (regWord s ⟨.fabExpect, 0, P, c⟩, regWord s ⟨.fabBypass, 0, P, c⟩)
def forceExpect (e : Nat) (ch : List Nat) (s : State) : State :=
  { s with fab := { s.fab with inForce := ch.foldl (fun m l => SMap.insert m (identKey (8 * e + l / 9) (l % 9)) (expectWords s (8 * e + l / 9) (l % 9))) s.fab.inForce } }
/-- The lanes `ch` start afresh under the settings in force. -/
def startLanes (s : State) (e : Nat) (before : Optic) (ch : List Nat) : State :=
  let s1 := (List.range 8).foldl (releaseCover e ch) s
  let s2 := (List.range 8).foldl (startPort before e) (ch.foldl (startLane e) s1)
  let s3 := if anyLit (opticOf s2 e) && mayLight s2 e then lightLasers s2 e else darkLasers s2 e
  (List.range 8).foldl (fun s p =>
    let s1 := if (laneOf s e p 8).st = .spareIdle then spareFree s e p else s
    relinkLane s1 e p) s3
/-- Settings come into force, with the lanes `more` that a re-cable changes besides; a steer lets every stopped retry of the engine's
lanes go on (R344). -/
def commitPairs (s : State) (e : Nat) (pairs : SMap PairSet) (more : List Nat) : State :=
  let before := opticOf s e
  let after : Optic := { before with pairs := pairs }
  let ch := lanesChanged before after ++ more.filter (fun l => !(lanesChanged before after).contains l)
  let s1 := modOptic s e (fun o => { o with
    pairs := after.pairs, busy := true, changed := ch, waits := none
    lanes := o.lanes.map (fun l => (l.1, { l.2 with retries := 0 }))
    handover := o.handover.map (fun h => if h.2 = .announced ∧ ch.any (fun l => l % 9 == h.1) = true then (h.1, .locked) else h) })
  startLanes (forceExpect e ch s1) e before ch
/-- A commit of an engine's staged settings. While the engine waits for its calibration nothing is applied (R336): the commit
completes, and its settings come into force when LIGHT_READY rises. (DESIGN CHOICE, log entry 30) -/
def commitOptic (s : State) (e : Nat) (more : List Nat) : State :=
  if lightReady s e = false then modOptic s e (fun o => { o with busy := true, changed := [], waits := some (stagedPairs s e, more) })
  else commitPairs s e (stagedPairs s e) more
/-- Lanes that a lit port terminates, of an engine. -/
def litLanesOf (s : State) (e : Nat) : List Nat := (lanesOf.filter (fun l => (opticOf s e).dropped l.1 l.2)).map (fun l => 9 * l.1 + l.2)
/-- LIGHT_READY of an engine may have risen: the commit that waits for it comes into force, else its lit lanes light (R336). -/
def lightRises (before s : State) (e : Nat) : State :=
  if lightReady before e || !lightReady s e then s
  else match (opticOf s e).waits with
    | some w => commitPairs s e w.1 w.2
    | none => startLanes s e (opticOf s e) ((litLanesOf s e).filter (fun l => (laneOf s e (l / 9) (l % 9)).st == .dark))

/-- OPT_STEER written (R353). -/
def optSteerWrite (e : Nat) (s : State) (v : Word) : State × Nat :=
  if s.ident.engines ≤ e then (s, C.regAbsent)
  else if wfld v F.optSteerGo = 0 then (s, C.ok)
  else if (opticOf s e).busy then (s, C.optSteerBusy)
  else if stagedOk s e = false then (s, C.optSteerInvalid)
  else (commitOptic s e [], C.ok)
/-- OPT_STEER_GO. -/
def execOptSteerGo (o : Origin) (e : Nat) (v : Word) (s : State) : Out := done (regWriteRow s o false (fun s => optSteerWrite e s v))

/-- A lane not done at the end of a commit (R352). -/
def closeLane (e : Nat) (s : State) (l : Nat) : State :=
  let p := l / 9
  let c := l % 9
  match (laneOf s e p c).st with
  | .lighting =>
    let s1 := modLane s e p c (fun x => { x with cause := 5 })
    if c = 8 then modLane s1 e p c (fun x => { x with st := .recover }) else relinkLane (seekCover s1 e p c .recover (some .recover)) e p
  | .training => trainingBound s e p c
  | .margin => marginShort s e p c
  | _ => s
/-- A commit of an engine completes. (DESIGN CHOICE, log entry 30) -/
def steerDone (s : State) (e : Nat) : State :=
  let o := opticOf s e
  if o.busy = false then s
  else
    let s1 := o.changed.foldl (closeLane e) s
    let s2 := (o.changed.map (fun l => 8 * e + l / 9)).eraseDups.foldl markAbsent s1
    announceAll (setEventAt (modOptic s2 e (fun o => { o with busy := false, changed := [] })) F.optEventSteerDone e 0 0) e

/-! ### Resets and shutdown (R314, R332, R354) -/

/-- A warm reset: THROUGH settings, pair cells, their locks and the lasers stay, a handover in progress is given up (HO_PENDING);
lanes terminated locally go dark and light again, with the lasers and levellers that they need. A commit that waits for LIGHT_READY
is given up. (DESIGN CHOICE, log entry 30: the last) -/
def warmOptic (s : State) (e : Nat) : State :=
  let s1 := modOptic s e (fun o => { o with
    busy := false, changed := [], waits := none, handover := []
    lanes := o.lanes.filterMap (fun l => if o.isThrough (l.1 / 9) (l.1 % 9) then none else some (l.1, { Lane.rest with st := .dark })) })
  let level (s : State) (p : Nat) : State :=
    let o := opticOf s e
    if o.lit p && ((o.elem (184 + p)).st == .safe || (o.elem (192 + p)).st == .safe) then steerElem (steerElem s e (184 + p)) e (192 + p) else s
  startLanes ((List.range 8).foldl level s1) e (opticOf s1 e) (litLanesOf s1 e)
/-- Power-up and RST_N: every pair THROUGH and unlit, BYPASS; lasers that were retired stay so. -/
def coldOptic (o : Optic) : Optic := { Optic.reset with lasers := o.lasers.filter (fun l => l.2.st == .retired) }
/-- An engine shut goes dark: its pairs bypass passively, every lane is DARK (R355). -/
def shutOptic (s : State) (e : Nat) : State :=
  let s2 := modOptic s e (fun o => { o with
    lanes := lanesOf.map (fun l => (9 * l.1 + l.2, { Lane.rest with st := .dark }))
    pairs := o.pairs.map (fun k => (k.1, { k.2 with loop := false })), waits := none
    elems := [], lasers := o.lasers.filter (fun l => l.2.st == .retired), handover := [], busy := false, changed := [] })
  (List.range 8).foldl (fun s p => relinkLane s e p) s2

end Sys2Proof.Machine
end

