-- ==== Sys2Proof/Machine/FabRows.lean ====
section
/-!
DEFINITION. Commands of the fabric (R361 to R381, R388 to R392): flits and LINK flits, re-cabling, route books, postcode and
expectations, time of flight, and the collective engine's messages.
-/
namespace Sys2Proof.Machine
open Sys2Proof

/-! ### Flits (R364, R365, R233) -/

/-- An IDLE flit, which carries the acknowledgement and the credits (R361). (DESIGN CHOICE, log entry 31) -/
def sendIdle (s : State) (key : Nat) : State :=
  match linkOf s key with
  | none => s
  | some l => emitFlit (modLink s key (fun l => { l with freed := keepCredits l })) key ⟨0, true, true, 0xFFFF, 0, linkAck l, giveCredits l, .idle⟩
/-- The acknowledgement and credits of a flit: what is acknowledged leaves the replay buffer. -/
def takeAck (s : State) (key : Nat) (f : Flit) : State :=
  pumpLink (modLink s key (fun l => { l with
    replay := l.replay.filter (fun g => laterThan (BitVec.ofNat 32 g.seq) (BitVec.ofNat 32 f.ack))
    credits := (withIdx l.credits).map (fun c => c.2 + (f.credit[c.1]?).getD 0) })) key
/-- The words of a tile's flit received; the last makes the tile whole in the receive buffer. (DESIGN CHOICE, log entry 31) -/
def takeWords (s : State) (key : Nat) (f : Flit) (ws : List (List Byte × BitVec 16)) : State :=
  let bad := (ws.filter (fun w => w.2 != 0#16)).length
  let s1 := bumpEv s (evEngine Ev.mioraWordErr (key / 128) 0) noCtx bad
  modLink s1 key (fun l =>
    let all := (if f.first then [] else (l.rx[f.vc]?).getD []) ++ ws
    if f.last then { l with rx := l.rx.set f.vc [], inbox := l.inbox ++ [⟨f.vc, f.dest, tileOfWords all, ceilDiv all.length 13⟩] }
    else { l with rx := l.rx.set f.vc all })
/-- A message received. One for this module has its own row, which carries its effect, but for a probe, which is answered (R278),
and a waiter's leave (R175). One for another module goes on as a tile would (R375), but that a tally message is never routed to
an FM-1 (R382). (DESIGN CHOICE, log entry 15) -/
def passMsg (s : State) (key : Nat) (f : Flit) : State :=
  let s1 := modLink s key (fun l => { l with freed := modAt l.freed f.vc (· + 1) })
  if f.dest = 0xFFFF then s1
  else if f.dest = postcode s then (match f.body with
    | .tallyProbe id src tag => answerProbe s1 id src tag
    | .tallyLeave id src tag => dropWaiter s1 id src tag
    | _ => s1)
  else match (if toFm1 s1 f.dest then (match f.body with
      | .tallyOp _ _ _ src tag => some (src, tag)
      | .tallyProbe _ src tag => some (src, tag)
      | _ => none) else none) with
    | some (src, tag) => sendMsg s1 src 1 (.tallyAnswer tag C.tallyNoHome)
    | none => sendVia (some (key / 16)) s1 f.dest f.vc f.body
/-- A flit discarded: the first is answered with RETRY naming the next expected SEQ. -/
def discardFlit (s : State) (key : Nat) (l : Link) : State :=
  if l.retrying then s else sendLink (modLink s key (fun l => { l with retrying := true })) key (.retry l.rxNext)
/-- FLIT_RECEIVE: symbols corrected and codewords uncorrectable of its FEC, whether its codewords and CRC are right. -/
def execFlitReceive (key corr uncorr : Nat) (ok : Bool) (f : Flit) (s : State) : Out :=
  done (
    let s1 := portEvent (portEvent s (key / 16) Ev.mioraFecCorr corr) (key / 16) Ev.mioraFecUncorr uncorr
    match linkOf s1 key with
    | none => s
    | some l =>
      if l.st ≠ .up then s1
      else if ok = false then discardFlit s1 key l
      else match f.body with
        | .idle => takeAck s1 key f
        | b =>
          if f.seq ≠ l.rxNext then discardFlit s1 key l
          else
            let s2 := takeAck (modLink s1 key (fun l => { l with rxNext := (l.rxNext + 1) % 2 ^ 32, retrying := false })) key f
            let s3 := match b with
              | .tile ws => takeWords s2 key f ws
              | _ => passMsg s2 key f
            sendIdle s3 key)

/-- LINK_RETRY_FLIT. -/
def execLinkRetryFlit (key seq : Nat) (s : State) : Out := done (resendFrom s key seq)
/-- LINK_LANESET_FLIT: both ends switch to the lanes announced, and what is not acknowledged is sent again. -/
def execLinkLanesetFlit (key : Nat) (lanes : List Nat) (s : State) : Out :=
  done (match linkOf s key with
    | none => s
    | some l =>
      if l.st ≠ .up then s
      else
        let on := runOn s l lanes
        if on.isEmpty then linkDown s key l.chans
        else pumpLink (replayAll (laneReduced (portEvent (modLink s key (fun l => { l with lanes := on })) (key / 16) Ev.laneSetChange 1) key) key) key)
/-- LINK_IDENT_FLIT: recorded in FAB_FAR; on a lane trained already the comparison is made again (R391). -/
def execLinkIdentFlit (P c kind pc port channel version txLat rxLat loopLat : Nat) (s : State) : Out :=
  done (
    let e := P / 8
    let i : IdentInfo := ⟨kind, pc, port, channel, version, txLat, rxLat, loopLat, 0⟩
    if portCount s.ident ≤ P ∨ 9 ≤ c ∨ (opticOf s e).dropped (P % 8) c = false then s
    else if canFail (laneOf s e (P % 8) c).st ∨ (laneOf s e (P % 8) c).st = .cal ∨ (laneOf s e (P % 8) c).st = .margin then judgeIdent s P c i (fun s => relink s P)
    else setIdent s P c i)
/-- LINK_QUIESCE_FLIT (R379). -/
def execLinkQuiesceFlit (key : Nat) (s : State) : Out := done (modLink s key (fun l => { l with quiesced := true }))
/-- LINK_LOST_TIMER: a link DOWN for 1 ms, unless a re-cable changes it (R379). -/
def execLinkLostTimer (key : Nat) (s : State) : Out :=
  done (match linkOf s key with
    | none => s
    | some l => if l.st = .down ∧ l.changing = false then linkLost s key else s)

/-! ### Route books (R374 to R377, R392) -/

/-- Whether an option of an entry may stand in a book. -/
def optionOk (s : State) (vc port : Nat) : Bool := decide (port < portCount s.ident) && roleCarries (portRole s.ident port) vc (twoNet s)
/-- The first entry of the shadow book that a swap is refused for. -/
def badEntry (s : State) : Option Nat :=
  (s.fab.shadow.find? (fun e => fieldOf e.2 24 8 != 0 || !(options e.2).all (fun o => optionOk s (e.1 % 4) o.2))).map (·.1)
/-- The shadow book comes into force. -/
def swapBooks (s : State) : State :=
  keptChanged (bumpFldAt { s with fab := { s.fab with active := s.fab.shadow } } F.fabRbCtlGen 0 0 0 1)
/-- A swap on its own: steps 5 and 6 of R378. -/
def fabSwap (s : State) : State × Nat :=
  if s.fab.recable ≠ .idle then (s, C.fabRecableBusy)
  else match badEntry s with
    | some i => (setFld s F.fabRbErrIndex i, C.fabRbInvalid)
    | none => (flushWaiting (setEvent (swapBooks s) F.fabEventRecableDone), C.ok)
def fabCopy (s : State) : State := { s with fab := { s.fab with shadow := s.fab.active } }
/-- FAB_RB_CTL written: SWAP, then COPY. (DESIGN CHOICE, log entry 31) -/
def fabRbCtlWrite (s : State) (v : Word) : State × Nat :=
  let r := if wfld v F.fabRbCtlSwap = 1 then fabSwap s else (s, C.ok)
  if r.2 = C.ok ∧ wfld v F.fabRbCtlCopy = 1 then (fabCopy r.1, C.ok) else r
def execFabRbSwap (o : Origin) (v : Word) (s : State) : Out := done (regWriteRow s o false (fun s => fabRbCtlWrite s v))
def execFabRbCopy (o : Origin) (v : Word) (s : State) : Out := done (regWriteRow s o false (fun s => fabRbCtlWrite s v))

def rbIndex (s : State) : Nat := fld s F.fabRbAddrIndex
/-- INDEX goes on after an access. -/
def rbNext (s : State) : State := setFld s F.fabRbAddrIndex (rbIndex s + 1)
/-- FAB_RB_DATA written and read. -/
def rbDataWrite (s : State) (v : Word) : State × Nat :=
  if s.fab.recable ≠ .idle then (s, C.fabRecableBusy)
  else (rbNext { s with fab := { s.fab with shadow := SMap.setD s.fab.shadow (rbIndex s) v.toNat 0 } }, C.ok)
def rbDataRead (s : State) : State × Word := (rbNext s, BitVec.ofNat 32 (SMap.getD s.fab.shadow (rbIndex s) 0))
/-- FAB_RB_DATA_ACCESS: a read, or a write of a word. -/
def execFabRbDataAccess (o : Origin) (v : Option Word) (s : State) : Out :=
  done (match v with
    | some w => regWriteRow s o false (fun s => rbDataWrite s w)
    | none => regReadRow s o false rbDataRead)
/-- FAB_RB_ACTIVE read. -/
def rbActiveRead (s : State) : State × Word := (rbNext s, BitVec.ofNat 32 (SMap.getD s.fab.active (rbIndex s) 0))
/-- A write of FAB_RB_ACTIVE is refused, and adds 1 to INDEX as every access does (R392). -/
def rbActiveWrite (s : State) : State × Nat := (rbNext s, C.regReadOnly)
def execFabRbActiveRead (o : Origin) (s : State) : Out := done (regReadRow s o false rbActiveRead)

/-! ### Re-cabling (R378 to R380) -/

def engineList (s : State) : List Nat := List.range s.ident.engines
/-- Whether a lane's expectation differs from the one in force. -/
def expectChanged (s : State) (P c : Nat) : Bool := expectWords s P c != SMap.getD s.fab.inForce (identKey P c) (0, 0)
/-- Lanes of an engine whose setting staged, or expectation, differs from that in force. -/
def lanesDiffer (s : State) (e : Nat) : List Nat :=
  let before := opticOf s e
  let after : Optic := { before with pairs := stagedPairs s e }
  (lanesOf.filter (fun l => (lanesChanged before after).contains (9 * l.1 + l.2) || (after.dropped l.1 l.2 && expectChanged s (8 * e + l.1) l.2))).map (fun l => 9 * l.1 + l.2)
/-- Such lanes by port × 16 + channel. -/
def recutLanes (s : State) : List Nat :=
  (engineList s).flatMap (fun e => (lanesDiffer s e).map (fun l => 16 * (8 * e + l / 9) + l % 9))
/-- Links with such a lane. -/
def linksDiffer (s : State) : List Nat :=
  (s.fab.links.filter (fun k => k.2.chans.any (fun c => (lanesDiffer s (k.1 / 128)).contains (9 * (k.1 / 16 % 8) + c)))).map (·.1)
/-- Whether a link is idle: no tile partly sent, every flit acknowledged. -/
def linkIdle (l : Link) : Bool := l.replay.isEmpty && l.txq.all (fun q => match q with | f :: _ => f.flit.first | [] => true)
def setRecable (s : State) (r : Recable) : State := { s with fab := { s.fab with recable := r } }

/-- Steps 5 and 6: the book in force, changing links released, and then the tiles held back from them routed afresh; a link that
lost its far end, with nothing received left to take, is forgotten. -/
def releaseLink (s : State) (key : Nat) : State :=
  let s1 := rerouteQueue s key
  match linkOf s1 key with
  | none => s1
  | some l =>
    if l.st = .lost ∧ l.chans.isEmpty = true ∧ l.inbox.isEmpty = true then { s1 with fab := { s1.fab with links := SMap.erase s1.fab.links key } }
    else if l.st = .up then pumpLink (startTof s1 key) key
    else s1
def finishRecable (s : State) : State :=
  if s.fab.recable ≠ .discovering ∨ s.active.isNone then s
  else
    let s1 := s.fab.changing.foldl (fun s k => modLink s k (fun l => { l with changing := false, tofDone := false })) (swapBooks s)
    let s2 := s.fab.changing.foldl releaseLink s1
    flushWaiting (setEvent { s2 with fab := { s2.fab with recable := .idle, changing := [], recut := [] } } F.fabEventRecableDone)
/-- Step 4: a changing link whose far end was not found again goes by the rule for a LOST link; its tiles held back wait for the
new book (R379). -/
def settleLink (s : State) (key : Nat) : State :=
  match linkOf s key with
  | none => s
  | some l => if l.chans.isEmpty then resendSteps (loseReplay s key) key else s
/-- The optical commit is complete once no engine is busy. -/
def recableStep (s : State) : State :=
  if s.fab.recable ≠ .committing ∨ (engineList s).any (fun e => (opticOf s e).busy) = true then s
  else finishRecable (setRecable (s.fab.changing.foldl settleLink s) .discovering)
/-- Step 3: every engine's staged settings are committed. -/
def commitRecable (s : State) : State :=
  recableStep ((engineList s).foldl (fun s e =>
    let l := lanesDiffer s e
    if l.isEmpty && stagedPairs s e == (opticOf s e).pairs then s else commitOptic s e l)
    { s with fab := { s.fab with recable := .committing, recut := recutLanes s } })
/-- Step 2 ends: the pause, or the commit. -/
def afterQuiesce (s : State) : State := if fld s F.fabRecablePause = 1 then setRecable s .paused else commitRecable s
/-- GO (R378, R380). -/
def recableGo (s : State) : State × Nat :=
  if s.fab.recable ≠ .idle then (s, C.fabRecableBusy)
  else if postcodeValid s = false then (s, C.fabPostcodeUnset)
  else if (engineList s).any (fun e => !stagedOk s e) then (s, C.optSteerInvalid)
  else match badEntry s with
    | some i => (setFld s F.fabRbErrIndex i, C.fabRbInvalid)
    | none =>
      let l := linksDiffer s
      let s1 := l.foldl (fun s k => modLink (sendLink s k .quiesce) k (fun l => { l with changing := true })) s
      (setRecable { s1 with fab := { s1.fab with changing := l } } .quiescing, C.ok)
/-- FAB_RECABLE written: PAUSE is set, GO starts, RESUME ends a pause; a GO refused does nothing. -/
def recableWrite (s : State) (v : Word) : State × Nat :=
  let s0 := setFld s F.fabRecablePause (wfld v F.fabRecablePause)
  if wfld v F.fabRecableGo = 1 then
    let r := recableGo s0
    if r.2 = C.ok then r else (setFld r.1 F.fabRecablePause (fld s F.fabRecablePause), r.2)
  else if wfld v F.fabRecableResume = 1 ∧ s.fab.recable = .paused then (commitRecable s0, C.ok)
  else (s0, C.ok)
def execFabRecableGo (o : Origin) (v : Word) (s : State) : Out := done (regWriteRow s o false (fun s => recableWrite s v))
def execFabRecableResume (o : Origin) (v : Word) (s : State) : Out := done (regWriteRow s o false (fun s => recableWrite s v))

def busyLinks (s : State) : List Nat := s.fab.changing.filter (fun k => match linkOf s k with | some l => l.st == .up && !linkIdle l | none => false)
/-- QUIESCE_IDLE. -/
def execQuiesceIdle (s : State) : Out :=
  done (if s.fab.recable = .quiescing ∧ (busyLinks s).isEmpty = true then afterQuiesce s else s)
/-- QUIESCE_TIMEOUT: the links not idle are reported, and the re-cable goes on (R379). -/
def execQuiesceTimeout (s : State) : Out :=
  done (if s.fab.recable = .quiescing then
      afterQuiesce ((busyLinks s).foldl (fun s k => report s C.fabQuiesceTimeout (srcEngine (k / 128)) 0xFFFF []) s)
    else s)
/-- STEER_DONE: an engine's commit completes; the last of a re-cable's lets it go on. -/
def execSteerDone (e : Nat) (s : State) : Out := done (recableStep (steerDone s e))

/-! ### Postcode and expectations (R369, R380, R391) -/

/-- Every port dark, or lighting, as VALID falls or rises. -/
def relight (s : State) : State :=
  (engineList s).foldl (fun s e => startLanes s e (opticOf s e) (litLanesOf s e)) s
/-- IDENT again on every lit lane. -/
def identAgain (s : State) : State :=
  (engineList s).foldl (fun s e => (litLanesOf s e).foldl (fun s l =>
    let st := (laneOf s e (l / 9) (l % 9)).st
    if st = .dark ∨ st = .lighting then s else sendIdent s (8 * e + l / 9) (l % 9)) s) s
/-- FAB_POSTCODE written. (DESIGN CHOICE, log entry 31) -/
def postcodeWrite (s : State) (v : Word) : State × Nat :=
  let r := plainWrite s ⟨.fabPostcode, 0, 0, 0⟩ v
  if r.2 ≠ C.ok then r
  else if postcodeValid s = postcodeValid r.1 then (if postcodeValid s then flushWaiting (identAgain r.1) else r.1, C.ok)
  else (collUnblock (flushWaiting (relight r.1)), C.ok)
def execFabPostcodeWrite (o : Origin) (v : Word) (s : State) : Out := done (regWriteRow s o false (fun s => postcodeWrite s v))

/-- FAB_EXPECT or FAB_BYPASS of a port and channel written: refused during a re-cable; no effect on a port an FM-2 lacks. -/
def expectWrite (bypass : Bool) (P c : Nat) (s : State) (v : Word) : State × Nat :=
  if s.fab.recable ≠ .idle then (s, C.fabRecableBusy)
  else if portCount s.ident ≤ P then (s, C.ok)
  else plainWrite s ⟨if bypass then .fabBypass else .fabExpect, 0, P, c⟩ v
def execFabExpectBypassWrite (o : Origin) (bypass : Bool) (P c : Nat) (v : Word) (s : State) : Out :=
  done (regWriteRow s o false (fun s => if 32 ≤ P ∨ 9 ≤ c then (s, C.regUnmapped) else expectWrite bypass P c s v))

/-- FAB_CTL written (R382): every link follows its lanes under the mode now in force, and what waits on a channel that its link no
longer carries is routed afresh. -/
def afterFabCtl (s : State) : State :=
  let s1 := (List.range (portCount s.ident)).foldl relink s
  s1.fab.links.foldl (fun s e =>
    match linkOf s e.1 with
    | none => s
    | some l =>
      let bar (vc : Nat) : Bool := !linkCarries s e.1 l vc
      let s2 := modLink s e.1 (fun l => { l with txq := (withIdx l.txq).map (fun q => if bar q.1 then started q.2 else q.2) })
      rerouteAll e.1 s2 ((withIdx l.txq).map (fun q => if bar q.1 then flitGroups [] q.2 else []))) s1

/-! ### Time of flight (R381) -/

/-- The loop latency that a link's far end told. -/
def farLoop (s : State) (key : Nat) (l : Link) : Nat :=
  match l.chans.head?.bind (fun c => identOf s (key / 16) c) with | some i => i.loopLat | none => 0
/-- FAB_TOF of every lane of a link. -/
def setTof (s : State) (key : Nat) (l : Link) (tof : Nat) (echo : Bool) : State :=
  let s1 := l.chans.foldl (fun s c => setRegWord s ⟨.fabTof, 0, key / 16, c⟩ (BitVec.ofNat 32 (tof % 2 ^ 24 + 2 ^ 24 + b2n echo * 2 ^ 25))) s
  setEvent (modLink { s1 with fab := { s1.fab with tofWait := SMap.erase s1.fab.tofWait key } } key (fun l => { l with tofDone := true })) F.fabEventTofDone
/-- TOF_MEASUREMENT: the round trip of a marker, by loopback or echo, and the turnaround reported, in units of 10 ps. A
loopback needs the module's own λS idle. -/
def execTofMeasurement (key : Nat) (loop : Bool) (trip turnaround : Nat) (s : State) : Out :=
  done (match linkOf s key with
    | none => s
    | some l =>
      if l.st ≠ .up ∨ l.tofDone = true then s
      else if loop then
        if (SMap.find s.fab.tofWait key).isSome ∧ (laneOf s (key / 128) (key / 16 % 8) 8).st = .spareIdle then setTof s key l ((trip - farLoop s key l) / 2) false else s
      else if (SMap.find s.fab.tofWait key).isSome then s
      else setTof s key l ((trip - turnaround) / 2) true)
/-- TOF_LAMBDA_WAIT_TIMEOUT: the measurement falls back to the echo method. -/
def execTofLambdaWaitTimeout (key : Nat) (s : State) : Out :=
  done (if (SMap.find s.fab.tofWait key).isSome then
      let (m, s1) := takeFree { s with fab := { s.fab with tofWait := SMap.erase s.fab.tofWait key } }
      sendLink s1 key (.echo (m.toNat % 2 ^ 32))
    else s)
/-- TOF_LOOP_REQUEST: a neighbour asks for λS of a pair THROUGH with its cell in LOOP, granted where the pair carries no
other THROUGH channel and both λS lanes are idle; `overs` once its measurement, of at most 200 µs, has ended. -/
def execTofLoopRequest (e k : Nat) (overs : Bool) (s : State) : Out :=
  done (
    let o := opticOf s e
    if overs then (if loopHeld s e (2 * k) || loopHeld s e (2 * k + 1) then endLoop s e k else s)
    else if (o.pair k).through % 256 = 0 ∧ o.inLoop k = false ∧ (laneOf s e (2 * k) 8).st = .spareIdle ∧ (laneOf s e (2 * k + 1) 8).st = .spareIdle then
      let s1 := modOptic s e (fun o => { o with pairs := SMap.setD o.pairs k { o.pair k with loop := true } PairSet.rest })
      [2 * k, 2 * k + 1].foldl (fun s p => modLane s e p 8 (fun x => { x with st := .through })) s1
    else s)
/-- LINK_ECHO_FLIT: returned with the turnaround, in units of 10 ps. -/
def execLinkEchoFlit (key marker turnaround : Nat) (s : State) : Out :=
  done (match linkOf s key with
    | some l => if l.st = .up then sendLink s key (.echoReply marker turnaround) else s
    | none => s)

/-! ### The collective engine (R388 to R390) -/

/-- A collective stream of this module by its identifier. -/
def collStream (s : State) (id : Word) : Option StreamAt := streamById s id.toNat (fun r => r.kind == 3)
/-- COLL_TRANSFER_TILE: the oldest tile received on a channel of a link, a transfer tile that can be judged now. -/
def execCollTransferTile (key vc : Nat) (s : State) : Out :=
  done (match (linkOf s key).bind (fun l => l.inbox.find? (fun a => a.vc == vc)) with
    | none => s
    | some a =>
      if a.dest ≠ postcode s then s
      else match collStream s a.tile.hdr.streamId with
        | none => s
        | some w => match collView s w.slot w.si with
          | none => s
          | some v => if transferNow v a.tile then transferApply (popArrival s key a) w.slot w.si v a.tile else s)
/-- COLL_STEP_ACK. -/
def execCollStepAck (streamId : Word) (step : Nat) (s : State) : Out :=
  done (match collStream s streamId with
    | some w => ackApply s w.slot w.si step
    | none => s)
/-- COLL_STEP_TIMEOUT: the step goes again over another option; the fourth send unacknowledged aborts. -/
def execCollStepTimeout (slot stream : Nat) (s : State) : Out :=
  done (match collView s slot stream with
    | none => s
    | some v =>
      let c := v.x.coll
      if c.started = false ∨ c.acked = true then s
      else if 4 ≤ c.sends then collAbort s slot stream C.collStepTimeout
      else sendStep s slot stream true (some c.option))
/-- COLL_PEER_ABORT. -/
def execCollPeerAbort (streamId : Word) (s : State) : Out :=
  done (match collStream s streamId with
    | none => s
    | some w =>
      if w.b.st = .faulted then s
      else
        let src := match collView s w.slot w.si with | some v => srcDie (stkDie v.stack) | none => srcActive s
        modColl (faultWith (setEvent s F.fabEventCollAbort) w.slot C.collPeerAbort src []) w.slot w.si Coll.stop)

end Sys2Proof.Machine
end

