-- ==== Sys2Proof/Machine/ServoNum.lean ====
section
/-!
DEFINITION. The arithmetic of the servo loop engines (R416 to R420): blocks of 24-bit mantissas under one exponent, products
and sums formed exactly and rounded once.
-/
namespace Sys2Proof.Machine
open Sys2Proof

/-! ### Exact values m × 2^e -/

/-- An exact value m × 2^e. -/
abbrev Dy := Int × Int
/-- A value's mantissa under a smaller exponent. -/
def Dy.at (x : Dy) (e : Int) : Int := x.1 * 2 ^ (x.2 - e).toNat
def Dy.add (a b : Dy) : Dy :=
  let e := min a.2 b.2
  (Dy.at a e + Dy.at b e, e)
def Dy.neg (a : Dy) : Dy := (-a.1, a.2)
def Dy.mul (a b : Dy) : Dy := (a.1 * b.1, a.2 + b.2)
def Dy.lt (a b : Dy) : Bool :=
  let e := min a.2 b.2
  decide (Dy.at a e < Dy.at b e)
def Dy.sum (l : List Dy) : Dy := l.foldl Dy.add (0, 0)
/-- The greatest integer not above a value, and what remains. -/
def Dy.floor (x : Dy) : Int := if 0 ≤ x.2 then x.1 * 2 ^ x.2.toNat else x.1 / 2 ^ (-x.2).toNat
def Dy.frac (x : Dy) : Dy := Dy.add x (-(Dy.floor x), 0)
/-- The value of an FP32 word; one that is not finite takes an open value. -/
def Dy.ofF32 (w : Word) : Dy :=
  match fp32.decode w.toNat with
  | .zero _ => (0, 0)
  | .fin s m e => (sgnInt s m, e)
  | _ => (Config.servoNonFinite w, -149)
/-- A value as FP32, to nearest even. (DESIGN CHOICE, log entry 33) -/
def Dy.toF32 (x : Dy) : Word := BitVec.ofNat 32 (fp32.encode false .rne ⟨0, 0⟩ (NumV.ofInt false x.1 x.2)).bits

/-! ### Blocks (R416, R417) -/

/-- x × 2^k rounded to the nearest integer, ties to even. -/
def roundDy (x : Dy) (k : Int) : Int := sgnInt (decide (x.1 < 0)) (roundQ .rne ⟨0, 0⟩ x.1.natAbs (x.2 + k) 0).1
/-- A mantissa brought to its bounds. (DESIGN CHOICE, log entry 33) -/
def boundM (m : Int) : Int := if m < -(2 ^ 23) then -(2 ^ 23) else if 2 ^ 23 - 1 < m then 2 ^ 23 - 1 else m
/-- floor(log2 |x|) of a value that is not 0. -/
def Dy.log2 (x : Dy) : Int := (Nat.log2 x.1.natAbs : Int) + x.2
/-- The exponent of a block of values. -/
def blkExp (l : List Dy) : Nat :=
  let nz := l.filter (fun x => decide (x.1 ≠ 0))
  match nz with
  | [] => 127
  | x :: r => clampNat 0 254 (r.foldl (fun m y => max m (Dy.log2 y)) (Dy.log2 x) + 127).toNat
/-- A block and how many of its mantissas took a bound. -/
structure BlkN where
  b : Blk
  n : Nat
  deriving DecidableEq, Repr
/-- A block formed of exact values (R417). (DESIGN CHOICE, log entry 33) -/
def formBlk (l : List Dy) : BlkN :=
  let e := blkExp l
  let raw := l.map (fun x => roundDy x (149 - (e : Int)))
  ⟨⟨e, raw.map boundM⟩, (raw.filter (fun m => decide (boundM m ≠ m))).length⟩
/-- The values of a block (R416). -/
def Blk.values (b : Blk) : List Dy := b.m.map (fun m => (m, (b.e : Int) - 149))
def Blk.words (b : Blk) : List Word := b.values.map Dy.toF32
def Blk.none : Blk := ⟨127, []⟩

/-! ### Stages and sums (R418, R419) -/

/-- A matrix of `cols` columns times a vector: each row summed exactly, one rounding per element. -/
def stage (rows cols : Nat) (a x : Blk) : BlkN :=
  let row (i : Nat) : Int := ((List.range cols).map (fun j => (a.m.getD (i * cols + j) 0) * (x.m.getD j 0))).foldl (· + ·) 0
  formBlk ((List.range rows).map (fun i => (row i, (a.e : Int) + (x.e : Int) - 298)))
/-- A term of a sum cut toward zero to a multiple of 2^(E − 181). -/
def cutTerm (big : Nat) (x : Dy) : Dy :=
  let q : Int := (big : Int) - 181
  if q ≤ x.2 then x else (Int.tdiv x.1 (2 ^ (q - x.2).toNat), q)
/-- A sum of vectors of n elements; a term is a block and whether it is subtracted. (DESIGN CHOICE, log entry 33) -/
def sumBlk (n : Nat) (terms : List (Bool × Blk)) : BlkN :=
  let big := maxOf (terms.map (fun t => t.2.e))
  formBlk ((List.range n).map (fun i => Dy.sum (terms.map (fun t =>
    let x := cutTerm big (t.2.values.getD i (0, 0))
    if t.1 then Dy.neg x else x))))

/-! ### FP32 (R424) -/

def f32Sub (a b : Word) : Word :=
  BitVec.ofNat 32 (fp32.encode false .rne ⟨0, 0⟩ ((fp32.decode a.toNat).sub (fp32.decode b.toNat))).bits
/-- The mean of FP32 words, rounded once; none of no words. (DESIGN CHOICE, log entry 33) -/
def meanF32 (l : List Word) : Option Word :=
  if l.isEmpty then none
  else
    let t := Dy.sum (l.map Dy.ofF32)
    let num := t.1.natAbs
    -- the quotient to 64 further bits, with a sticky bit, rounds as the exact one
    let q := num * 2 ^ 64 / l.length
    let st := if num * 2 ^ 64 % l.length = 0 then 2 * q else 2 * q + 1
    some (Dy.toF32 (sgnInt (decide (t.1 < 0)) st, t.2 - 65))

end Sys2Proof.Machine
end

