-- ==== Sys2Proof/Machine/ServoPar.lean ====
section
/-!
DEFINITION. The parameters of the servo loop engines (R423, R425, R431, R445), what uses an input, an axis or a stream slot, and
the checks of CLOSE (R430).
-/
namespace Sys2Proof.Machine
open Sys2Proof

/-! ### Engines -/

def engOf (s : State) : Hub → Servo
  | .ha => s.engA
  | .hb => s.engB
def setEng (s : State) (h : Hub) (g : Servo) : State :=
  match h with
  | .ha => { s with engA := g }
  | .hb => { s with engB := g }
def modEng (s : State) (h : Hub) (f : Servo → Servo) : State := setEng s h (f (engOf s h))
/-- Whether the standby engine tracks (R441). (DESIGN CHOICE, log entry 36) -/
def tracks (s : State) (h : Hub) : Bool := s.synced && s.active == some (peer h)
/-- What the active engine accepts reaches the standby engine (R441). -/
def modBoth (s : State) (h : Hub) (f : Servo → Servo) : State :=
  let s1 := modEng s h f
  if s.synced then modEng s1 (peer h) f else s1

/-- A loop at reset: OPEN (R430). -/
def Loop.rest : Loop :=
  { st := .open_, a := Blk.none, b := Blk.none, c := Blk.none, l := Blk.none, k := Blk.none, n := Blk.none, x := Blk.none, y := [], r := [],
    us := [], u := [], nu := [], xs := [], spHold := [], sat := 0, satSince := [], cause := 0, reason := 0, trips := 0, samples := 0, paced := 0,
    gen := 0 }
def Servo.loop (g : Servo) (i : Nat) : Loop := SMap.getD g.loops i Loop.rest
def Servo.setLoop (g : Servo) (i : Nat) (l : Loop) : Servo := { g with loops := SMap.setD g.loops i l Loop.rest }
def Servo.modLoop (g : Servo) (i : Nat) (f : Loop → Loop) : Servo := g.setLoop i (f (g.loop i))
def Input.rest : Input := { st := .armed, overs := 0, level := false, count := 0, last := none }
def Servo.input (g : Servo) (i : Nat) : Input := SMap.getD g.inputs i Input.rest
def Servo.setInput (g : Servo) (i : Nat) (x : Input) : Servo := { g with inputs := SMap.setD g.inputs i x Input.rest }
def Servo.modInput (g : Servo) (i : Nat) (f : Input → Input) : Servo := g.setInput i (f (g.input i))

/-! ### Parameters (R445) -/

/-- When a parameter may be written: while no closed loop uses it, always, as COUNT of R431, with the engine's test idle, or
never. -/
inductive PWrite where
  | open_ | any | count | idle | never
  deriving DecidableEq, Repr

def paramKey (kind index code elem : Nat) : Nat := ((kind * 32 + index) * 256 + code) * 65536 + elem
/-- Whether an input is the A line of a pulse pair (R436). -/
def isPulse (i : Nat) : Bool := decide (8 ≤ i) && decide (i < 24)
def isPulseA (i : Nat) : Bool := isPulse i && i % 2 == 0

/-- Write class and number of elements of a parameter that the table lists for the selected object; none for any other. -/
def paramInfo (kind index code : Nat) : Option (PWrite × Nat) :=
  match kind with
  | 0 =>
    if code = 0x1E then some (.any, 4)
    else if [0x01, 0x02, 0x03, 0x04, 0x05, 0x06, 0x07, 0x08].contains code then some (.open_, 1)
    else if [0x10, 0x11, 0x12, 0x13, 0x14, 0x15].contains code then some (.open_, 64)
    else if code = 0x1B then some (.open_, 8)
    else if [0x18, 0x19, 0x1A, 0x1C, 0x1D, 0x20, 0x21, 0x22].contains code then some (.open_, 4)
    else none
  | 1 =>
    if 28 ≤ index then none
    else if code = 0x36 then (if isPulseA index then some (.count, 1) else none)
    else if [0x30, 0x31, 0x32, 0x33, 0x34, 0x35].contains code then some (.open_, 1)
    else none
  | 2 =>
    if 16 ≤ index then none
    else if code = 0x3D then some (.open_, 1024)
    else if [0x38, 0x39, 0x3A, 0x3B, 0x3C].contains code then some (.open_, 1)
    else none
  | 3 =>
    if code = 0x53 then (if index < 4 then some (.never, 65536) else none)
    else if index ≠ 0 then none
    else if [0x40, 0x41, 0x42].contains code then some (.open_, 8)
    else if code = 0x51 then some (.idle, 4)
    else if [0x48, 0x49, 0x4A, 0x4B, 0x4C, 0x4D, 0x4E, 0x4F, 0x50, 0x52].contains code then some (.idle, 1)
    else none
  | _ => none

/-- Rows and columns of the largest matrix of each kind: A, B, C, L, K, N. -/
def matrixDims (code : Nat) : Nat × Nat :=
  match code with
  | 0x10 => (8, 8)
  | 0x11 => (8, 4)
  | 0x12 => (4, 8)
  | 0x13 => (8, 4)
  | 0x14 => (4, 8)
  | _ => (4, 4)
/-- Whether ELEM is in range: below the number of elements, and inside its matrix. -/
def elemOk (kind code n elem : Nat) : Bool :=
  decide (elem < n) && (!(kind == 0 && decide (0x10 ≤ code) && decide (code ≤ 0x15)) ||
    (decide (elem / 8 < (matrixDims code).1) && decide (elem % 8 < (matrixDims code).2)))

/-- Whether a parameter is FP32. -/
def paramFp (kind code : Nat) : Bool :=
  (kind == 0 && ((decide (0x10 ≤ code) && decide (code ≤ 0x15)) || [0x18, 0x19, 0x1A, 0x1B, 0x1C, 0x1D, 0x1E].contains code)) ||
  (kind == 1 && code == 0x35) || (kind == 2 && [0x3A, 0x3B, 0x3D].contains code) || (kind == 3 && [0x4B, 0x4C, 0x4D].contains code)
/-- Whether a value lies in a parameter's range (R444: finite, but for NaN in SAFE). -/
def paramOk (kind code v : Nat) : Bool :=
  let within (lo hi : Nat) : Bool := decide (lo ≤ v) && decide (v ≤ hi)
  if paramFp kind code then
    match fp32.decode v with
    | .nan => kind == 0 && code == 0x1A
    | .inf _ => false
    | _ => true
  else match kind, code with
    | 0, 0x01 => within 1 8
    | 0, 0x02 => within 1 4
    | 0, 0x03 => within 1 4
    | 0, 0x04 => within 0 4
    | 0, 0x05 => within 15625 10000000
    | 0, 0x06 => within 0 31 || v == 0xFF
    | 0, 0x07 => within 1 256
    | 0, 0x08 => within 1 10000
    | 0, 0x20 => decide (v < 65536) && decide (v % 16 ≤ 4)
    | 0, 0x21 => decide (v < 65536) && decide (v % 16 ≤ 4)
    | 0, 0x22 => decide (v < 65536) && decide (v % 16 ≤ 3)
    | 1, 0x30 => within 0 2
    | 1, 0x31 => within 10 10000
    | 1, 0x32 => within 1 25000000
    | 1, 0x33 => within 0 60000
    | 1, 0x34 => within 0 1
    | 2, 0x38 => within 0 2
    | 2, 0x39 => decide (v < 65536) && decide (1 ≤ v % 16) && decide (v % 16 ≤ 3)
    | 2, 0x3C => within 0 127
    | 3, 0x42 => within 0 31
    | 3, 0x48 => within 0 31
    | 3, 0x49 => within 0 3
    | 3, 0x4A => within 0 15 && v % 4 != 3
    | 3, 0x4E => [7, 9, 11, 15].contains v
    | 3, 0x4F => within 1 256
    | 3, 0x50 => within 1 65536
    | 3, 0x51 => decide (v < 2048) && decide (fieldOf v 5 3 ≤ 5)
    | 3, 0x52 => within 0 27 || v == 0xFF
    | _, _ => true

/-- Defaults (R437, R438, R445); STUCK_MS of a line follows what MODE makes of it. (DESIGN CHOICE, log entry 35) -/
def paramDefault (kind index code : Nat) (stepInput : Bool) : Nat :=
  match kind, code with
  | 0, 0x01 => 1
  | 0, 0x02 => 1
  | 0, 0x03 => 1
  | 0, 0x05 => 1000000
  | 0, 0x06 => 0xFF
  | 0, 0x07 => 1
  | 0, 0x08 => 50
  | 0, 0x18 => 0xBF800000
  | 0, 0x19 => 0x3F800000
  | 0, 0x1A => 0x7FC00000
  | 0, 0x1C => 0x3F800000
  | 1, 0x31 => 20
  | 1, 0x32 => if 24 ≤ index then 20000 else 25000000
  | 1, 0x33 => if 24 ≤ index || stepInput then 100 else 0
  | 3, 0x4E => 7
  | 3, 0x4F => 1
  | 3, 0x50 => 1024
  | 3, 0x52 => 0xFF
  | _, _ => 0

def Servo.written (g : Servo) (kind index code elem : Nat) : Option Word := SMap.find g.params (paramKey kind index code elem)
/-- MODE of an input. -/
def Servo.mode (g : Servo) (i : Nat) : Nat := match g.written 1 i 0x30 0 with | some w => w.toNat | none => 0
/-- A parameter's value: as written, or its default. -/
def Servo.param (g : Servo) (kind index code elem : Nat) : Word :=
  match g.written kind index code elem with
  | some w => w
  | none => BitVec.ofNat 32 (paramDefault kind index code (isPulseA index && g.mode index == 1))
def Servo.par (g : Servo) (kind index code elem : Nat) : Nat := (g.param kind index code elem).toNat

/-! Dimensions and words of a loop. -/
def Servo.nStates (g : Servo) (i : Nat) : Nat := g.par 0 i 0x01 0
def Servo.nInputs (g : Servo) (i : Nat) : Nat := g.par 0 i 0x02 0
def Servo.nOutputs (g : Servo) (i : Nat) : Nat := g.par 0 i 0x03 0
def Servo.nSet (g : Servo) (i : Nat) : Nat := g.par 0 i 0x04 0
def Servo.pace (g : Servo) (i : Nat) : Nat := g.par 0 i 0x06 0
def Servo.safe (g : Servo) (i j : Nat) : Word := g.param 0 i 0x1A j
/-- Kind, number and element of a source or sink word (R423, R425). -/
structure Srce where
  kind : Nat
  n : Nat
  e : Nat
  deriving DecidableEq, Repr
def Srce.of (w : Nat) : Srce := ⟨fieldOf w 0 4, fieldOf w 4 5, fieldOf w 9 7⟩
def Servo.srcY (g : Servo) (i j : Nat) : Srce := Srce.of (g.par 0 i 0x20 j)
def Servo.srcR (g : Servo) (i j : Nat) : Srce := Srce.of (g.par 0 i 0x21 j)
def Servo.sink (g : Servo) (i j : Nat) : Srce := Srce.of (g.par 0 i 0x22 j)
/-- The axes that add to a loop (R429). -/
def Servo.axes (g : Servo) (i : Nat) : List Nat := (List.range 16).filter (fun a => g.par 2 a 0x38 0 != 0 && g.par 2 a 0x3C 0 % 32 == i)
def Servo.axisSrc (g : Servo) (a : Nat) : Srce := Srce.of (g.par 2 a 0x39 0)
/-- The sources of a loop: measured inputs, set-points, positions of its axes. -/
def Servo.sources (g : Servo) (i : Nat) : List Srce :=
  (List.range (g.nInputs i)).map (g.srcY i) ++ (List.range (g.nSet i)).map (g.srcR i) ++ (g.axes i).map g.axisSrc
def Servo.sinks (g : Servo) (i : Nat) : List Srce := (List.range (g.nOutputs i)).map (g.sink i)
def Servo.closed (g : Servo) (i : Nat) : Bool := (g.loop i).st == .closed
def loopIds : List Nat := List.range 32
/-- The input lines of a source. -/
def Srce.lines (x : Srce) : List Nat := if x.kind = 1 then [x.n] else if x.kind = 2 then [8 + 2 * x.n, 9 + 2 * x.n] else []
/-- Whether a source's line is MASKED or in OVERRUN_HOLD. -/
def Servo.blocked (g : Servo) (x : Srce) : Bool := x.lines.any (fun i => (g.input i).st != .armed)
/-- The pin of a sink: 0 to 7 PWM, 8 to 11 DOUT. -/
def Srce.pin (x : Srce) : Option Nat := if x.kind = 1 then some x.n else if x.kind = 2 then some (8 + x.n) else none

/-- Whether a closed loop uses an object (R431). -/
def Servo.uses (g : Servo) (kind index code elem : Nat) : Bool :=
  loopIds.any (fun i => g.closed i && (match kind with
    | 0 => i == index
    | 1 => (g.sources i).any (fun x => x.lines.contains index)
    | 2 => (g.axes i).contains index
    | _ => if code = 0x40 then (g.sources i).any (fun x => x.kind == 3 && x.n == elem) else (g.sinks i).any (fun x => x.kind == 3 && x.n == elem)))

/-! ### CLOSE (R430) -/

/-- Whether a source word names something: a set-point may be constant or an outer output. -/
def Servo.srcNamed (g : Servo) (setPoint : Bool) (x : Srce) : Bool :=
  match x.kind with
  | 0 => setPoint && x.n == 0 && x.e == 0
  | 1 => decide (x.n < 8) && x.e == 0
  | 2 => decide (x.n < 8) && x.e == 0
  | 3 => decide (x.n < 8) && decide (x.e < 64) && g.par 3 0 0x40 x.n != 0
  | 4 => setPoint && decide (x.e < 4)
  | _ => false
def Servo.sinkNamed (g : Servo) (x : Srce) : Bool :=
  match x.kind with
  | 0 => true
  | 1 => decide (x.n < 8)
  | 2 => decide (x.n < 4)
  | 3 => decide (x.n < 8) && decide (x.e < 64) && g.par 3 0 0x41 x.n != 0
  | _ => false
def Servo.reason1 (g : Servo) (i : Nat) : Bool :=
  (List.range (g.nInputs i)).any (fun j => !g.srcNamed false (g.srcY i j)) || (List.range (g.nSet i)).any (fun j => !g.srcNamed true (g.srcR i j)) ||
  (g.axes i).any (fun a => !g.srcNamed false (g.axisSrc a) || decide (g.nOutputs i ≤ fieldOf (g.par 2 a 0x3C 0) 5 2)) ||
  (g.sinks i).any (fun x => !g.sinkNamed x)
/-- The pins that a loop drives. -/
def Servo.pins (g : Servo) (i : Nat) : List Nat := (g.sinks i).filterMap Srce.pin
def Servo.reason2 (g : Servo) (i : Nat) : Bool :=
  !decide (g.pins i).Nodup || (g.pins i).any (fun p => loopIds.any (fun k => k != i && g.closed k && (g.pins k).contains p))
/-- Whether a chain of PACE from a loop comes to another. -/
def Servo.chain (g : Servo) : Nat → Nat → Nat → Bool
  | 0, _, _ => false
  | fuel + 1, from_, dest_ => if g.pace from_ = dest_ then true else if 32 ≤ g.pace from_ then false else g.chain fuel (g.pace from_) dest_
def Servo.reason3 (g : Servo) (i : Nat) : Bool :=
  let p := g.pace i
  (decide (p < 32) && (p == i || !g.closed p || g.chain 32 p i)) ||
  (List.range (g.nSet i)).any (fun j => (g.srcR i j).kind == 4 && g.pace (g.srcR i j).n != i)
def Servo.reason4 (g : Servo) (i : Nat) : Bool :=
  let t := g.par 0 i 0x05 0
  g.pace i == 0xFF && (10 ^ 9 % t != 0 || decide (t < 15625) || decide (10000000 < t))
def Servo.reason5 (g : Servo) (i : Nat) : Bool := (g.sources i).any g.blocked
/-- The pin value range of a sink (R425, R557). -/
def Srce.range (x : Srce) : Option (Dy × Dy) := if x.kind = 1 then some ((0, 0), (1, 0)) else if x.kind = 2 then some ((-10, 0), (10, 0)) else none
def Servo.reason6 (g : Servo) (i : Nat) : Bool :=
  (List.range (g.nOutputs i)).any (fun j =>
    let lo := Dy.ofF32 (g.param 0 i 0x18 j)
    let hi := Dy.ofF32 (g.param 0 i 0x19 j)
    Dy.lt hi lo || (match (g.sink i j).range with
      | some (a, b) => Dy.lt lo a || Dy.lt b hi
      | none => false))
/-- The reason for which CLOSE is refused; 0 for none. -/
def Servo.closeReason (g : Servo) (i : Nat) : Nat :=
  if g.reason1 i then 1 else if g.reason2 i then 2 else if g.reason3 i then 3 else if g.reason4 i then 4
  else if g.reason5 i then 5 else if g.reason6 i then 6 else 0

end Sys2Proof.Machine
end

