-- ==== Sys2Proof/Machine/Cal.lean ====
section
/-!
DEFINITION. Calibration (R395 to R411): runs, their results, saving and restoring records.
-/
namespace Sys2Proof.Machine
open Sys2Proof

/-! ### Gaps and limits (R399, R401) -/

/-- An item of an engine's lane: engine, port and channel; none for other items. -/
def itemLane (cls inst : Nat) : Option (Nat × Nat × Nat) :=
  let of (e l : Nat) : Nat × Nat × Nat := (e, l / 9, l % 9)
  match cls with
  | 1 => some (of (inst / 72) (inst % 72))
  | 2 => some (of (inst / 72) (inst % 72))
  | _ => if (cls = 0 ∨ cls = 3) ∧ inst % 200 < 144 then some (of (inst / 200) (inst % 200 % 72)) else none
/-- Whether a port has a lane out of service, or announced, for calibration. -/
def portInCal (s : State) (e p : Nat) : Bool := (List.range 9).any (fun c => (laneOf s e p c).st == .cal || (laneOf s e p c).planned)
/-- Whether a loop of the active hub that owns a digital output is not open (R401). -/
def doutDriven (s : State) (h k : Nat) : Bool :=
  match s.active with
  | some a =>
    let g := engOf s a
    hubIndex a == h && loopIds.any (fun i => (g.loop i).st != .open_ && (g.pins i).contains (8 + k))
  | none => false

/-- How an item's run takes its gap. -/
inductive Gap where
  /-- none is available -/
  | none
  /-- the run starts at once -/
  | now
  /-- a cover of the lane is announced first -/
  | cover
  /-- the λS lane is taken out of service -/
  | spare
  deriving DecidableEq, Repr

/-- The gap of a lane's items. -/
def laneGap (s : State) (e p c : Nat) : Gap :=
  let o := opticOf s e
  if !o.dropped p c then .now
  else if portInCal s e p then .none
  else if c = 8 then (if (laneOf s e p 8).st = .spareIdle then .spare else .none)
  else if (laneOf s e p c).st = .active ∧ (laneOf s e p 8).st = .spareIdle ∧ spareReaches s e p c = true then .cover else .none
/-- The gap of a locker's or gate's item: its laser warming or locked on the dark path, or every port of the engine dark. -/
def laserGap (s : State) (e n : Nat) : Gap :=
  let o := opticOf s e
  let st := (o.laser n).st
  if st = .warming ∨ st = .lockedDark ∨ anyLit o = false then .now else .none
def itemGap (s : State) (cls inst : Nat) : Gap :=
  match itemLane cls inst with
  | some (e, p, c) => laneGap s e p c
  | none =>
    if (cls = 0 ∨ cls = 3) ∧ inst % 200 < 180 then laserGap s (inst / 200) ((inst % 200 - 144) % 18)
    else if cls = 5 then (match stackOf s inst with | some k => if k.failed then .none else .now | none => .none)
    else if cls = 7 ∧ 8 ≤ inst % 12 then (if doutDriven s (inst / 12) (inst % 12 - 8) then .none else .now)
    else .now
/-- Whether a due item may start now, leaving aside the others: its gap is to be had. -/
def calReady (s : State) (cls inst : Nat) : Bool :=
  (calItem s cls inst).due && mayRun s cls inst && itemGap s cls inst != .none
/-- Whether an item became due before another; among equals the lower class, then the lower instance (R399). -/
def calBefore (s : State) (a b : Nat × Nat) : Bool :=
  let x := (calItem s a.1 a.2).rank
  let y := (calItem s b.1 b.2).rank
  decide (x < y) || (x == y && (decide (a.1 < b.1) || (a.1 == b.1 && decide (a.2 < b.2))))
/-- Whether a due item is the next to start: of those that may, the one that has been due longest. -/
def calMayStart (s : State) (cls inst : Nat) : Bool :=
  calReady s cls inst &&
  (List.range 8).all (fun c => (List.range (calSpan c)).all (fun i => !(calBefore s (c, i) (cls, inst) && calReady s c i)))

/-! ### Runs (R397 to R405) -/

/-- The start of a lane's runs announced to the far end (R402). -/
def tellFar (s : State) (e p c start : Nat) : State :=
  match linkHolding s (8 * e + p) c with
  | some k => sendLink s k (.window c start 100000000)
  | none => s
/-- A planned cover of a lane, at least 1 ms ahead (R342). -/
def announceCal (s : State) (e p c : Nat) : State :=
  let (w, s1) := takeFree s
  tellFar (modLane s1 e p c (fun x => { x with planned := true })) e p c (now s + 1000000 + w.toNat % 9000001)
/-- The λS lane taken out of service: its due items run. -/
def spareCal (s : State) (e p : Nat) (mismatch : Bool) : State :=
  laneDone (runDue mismatch (modLane (tellFar s e p 8 (now s)) e p 8 (fun x => { x with st := .cal, full := false })) (laneItems e p 8)) e p 8
/-- CAL_RUN_START: `mismatch` whether the references differ by more than 3 mV; a run that a cover comes before starts at its switch
point, and the references are compared then. (DESIGN CHOICE, log entry 32) -/
def execCalRunStart (cls inst : Nat) (mismatch : Bool) (s : State) : Out :=
  done (
    if calMayStart s cls inst = false then s
    else
      match itemGap s cls inst, itemLane cls inst with
      | .cover, some (e, p, c) => announceCal s e p c
      | .spare, some (e, p, _) => spareCal s e p mismatch
      | _, _ => runItem mismatch s (cls, inst))

/-- The lane of an item that ran in CAL goes to its margin test once no item of it runs. -/
def laneAfterRun (s : State) (cls inst : Nat) : State :=
  match itemLane cls inst with
  | some (e, p, c) => laneDone s e p c
  | none => s
/-- The engine whose light an item's new values may let on (R336). -/
def litBy (before s : State) (cls inst : Nat) : State := if cls = 0 ∨ cls = 3 then lightRises before s (inst / 200) else s
/-- Acceptance limits (R396): an Eye by width and height, another figure by its largest value. -/
def calGood (cls quality : Nat) : Bool :=
  let eye (w h : Nat) : Bool := decide (w ≤ quality % 256) && decide (h ≤ quality / 256 % 256)
  match cls with
  | 0 => decide (quality ≤ 50)
  | 1 => eye 77 40
  | 2 => eye 77 40
  | 3 => decide (quality ≤ 50)
  | 4 => eye 77 30
  | 5 => eye 90 50
  | 6 => decide (quality ≤ 50)
  | _ => decide (quality ≤ 4)
/-- CAL_RUN_COMPLETE: the run's values, its quality figure, the mean temperature over it in 0.25 °C, and whether that moved by
more than THRESH. (DESIGN CHOICE, log entry 4; DESIGN CHOICE, log entry 32) -/
def execCalRunComplete (cls inst : Nat) (values : List Word) (quality tmean : Nat) (moved : Bool) (s : State) : Out :=
  done (
    let x := calItem s cls inst
    if x.running = false then s
    else if calGood cls quality then
      let y : CalItem := { x with
        source := .measured, running := false, asked := false, failed := false, bad := 0, badAt := none, tref := tmean % 4096, quality := quality % 65536
        effect := calSec s, values := (values ++ x.values.drop values.length).take (calWords cls), again := moved
        hot := strays s cls (calMean s (calDomain cls inst)) (signedOf 12 tmean) }
      let s1 := closeElem (putCal s cls inst y) cls inst
      litBy s (laneAfterRun (setEvent s1 F.calEventRunDone) cls inst) cls inst
    else
      let s1 := report (setEvent s F.calEventBadRun) C.calQuality (calSource s cls inst) 0xFFFF (calDetail cls inst ++ d4 quality)
      laneAfterRun (calBad s1 cls inst) cls inst)
/-- CAL_RUN_TIMEOUT. -/
def execCalRunTimeout (cls inst : Nat) (s : State) : Out :=
  done (
    if (calItem s cls inst).running = false then s
    else
      let s1 := report (setEvent s F.calEventBadRun) C.calTimeout (calSource s cls inst) 0xFFFF (calDetail cls inst)
      laneAfterRun (calBad s1 cls inst) cls inst)
/-- CAL_BAD_RUN_RETRY: 60 s after a bad run, its values not replaced since. -/
def execCalBadRunRetry (cls inst : Nat) (s : State) : Out :=
  done (
    let x := calItem s cls inst
    if x.badAt.isSome ∧ x.running = false then putCal s cls inst { x with again := true, badAt := none } else s)
/-- CAL_STARVED, reported once. -/
def execCalStarved (cls inst : Nat) (s : State) : Out :=
  done (
    let x := calItem s cls inst
    if x.due && !x.running && !x.starved && calExists s.ident cls inst then
      report (setEvent (setCal s cls inst { x with starved := true }) F.calEventStarved) C.calStarved (calSource s cls inst) 0xFFFF (calDetail cls inst)
    else s)
/-- CAL_WINDOW_ANNOUNCE: the far end's window of a lane: this end's DAC and RX items of the lane run in it, due or not, its other
items where they are due (R402); both ends of the lane are out of service together. The engine's references are compared. -/
def execCalWindowAnnounce (e p : Nat) (lane : LaneCheck) (s : State) : Out :=
  done (
    let x := laneOf s e p lane.chan
    let run (s : State) : State :=
      let s1 := runDue lane.mismatch (modLane s e p lane.chan (fun x => { x with full := false })) (laneItems e p lane.chan)
      laneDone ([(1, 72 * e + 9 * p + lane.chan), (2, 72 * e + 9 * p + lane.chan)].foldl (fun s k =>
        if !(calItem s k.1 k.2).due && mayRun s k.1 k.2 then runItem lane.mismatch s k else s) s1) e p lane.chan
    if s.ident.engines ≤ e ∨ s.active.isNone ∨ portInCal s e p = true then s
    else if lane.chan = 8 then (if x.st = .spareIdle then run (modLane s e p 8 (fun x => { x with st := .cal })) else s)
    else if x.st = .active ∧ (laneOf s e p 8).st = .spareIdle ∧ spareReaches s e p lane.chan = true then
      relinkLane (run (coverLane s e p lane.chan .cal)) e p
    else s)

/-! ### Records (R406, R407) -/

def wordBytes (l : List Word) : List Byte := l.flatMap (fun w => leBytes 4 w.toNat)
/-- The record of an item's values in force. -/
def calRecord (s : State) (cls inst : Nat) : List Word :=
  let x := calItem s cls inst
  let n := calWords cls
  let head := [BitVec.ofNat 32 (cls + 16 * inst + 2 ^ 14 * (n + 4)), BitVec.ofNat 32 s.ident.serial, BitVec.ofNat 32 (x.tref % 4096 + 65536 * (x.quality % 65536))]
  let body := head ++ x.values
  body ++ [crc32c (wordBytes body)]
/-- Whether a record may be committed to an item. -/
def recordOk (s : State) (cls inst : Nat) (r : List Word) : Bool :=
  let w (i : Nat) : Nat := ((r[i]?).getD 0).toNat
  let n := calWords cls + 4
  r.length == n && fieldOf (w 0) 0 4 == cls && fieldOf (w 0) 4 10 == inst && fieldOf (w 0) 14 8 == n && fieldOf (w 0) 22 10 == 0 &&
  w 1 == s.ident.serial % 2 ^ 32 && fieldOf (w 2) 12 4 == 0 && r[n - 1]? == some (crc32c (wordBytes (r.take (n - 1))))
/-- An accepted commit: the values in force at once, any run of the item abandoned, the item due where the restored TREF is too far
from the mean of its domain's temperature, or the host had asked for a run (R398). -/
def calRestoreItem (s : State) (cls inst : Nat) (r : List Word) : State :=
  let s1 := laneAfterRun (calAbandon s cls inst) cls inst
  let w2 := ((r[2]?).getD 0).toNat
  let tref := w2 % 4096
  let y : CalItem := { calItem s1 cls inst with
    source := .restored, running := false, failed := false, bad := 0, badAt := none, tref := tref, quality := w2 / 65536, effect := calSec s
    values := (r.drop 3).take (calWords cls), again := false, hot := strays s cls (calMean s (calDomain cls inst)) (signedOf 12 tref) }
  litBy s (setEvent (putCal s1 cls inst y) F.calEventRestored) cls inst
/-- One record written back. -/
def calCommit (s : State) (cls inst : Nat) (r : List Word) : State × Nat :=
  if calExists s.ident cls inst = false then (s, C.regAbsent)
  else if recordOk s cls inst r then (calRestoreItem s cls inst r, C.ok) else (s, C.calRestoreBad)

/-! ### Registers (R410) -/

def calSelCls (s : State) : Nat := fld s F.calSelClass
def calSelInst (s : State) : Nat := fld s F.calSelInstance
def calSelWord (s : State) : Nat := fld s F.calSelWord
/-- The record staged: as many words as the selected class has. -/
def stagedRecord (s : State) : List Word := (List.range (calWords (calSelCls s) + 4)).map (fun i => SMap.getD s.cal.staged i 0)
/-- CAL_CMD written: COMMIT, then RUN. -/
def calCmdWrite (s : State) (v : Word) : State × Nat :=
  let cls := calSelCls s
  let inst := calSelInst s
  let r := if wfld v F.calCmdCommit = 1 then calCommit s cls inst (stagedRecord s) else (s, C.ok)
  if wfld v F.calCmdRun = 0 ∨ r.2 ≠ C.ok then r
  else if calExists s.ident cls inst = false then (s, C.regAbsent)
  else (putCal r.1 cls inst { calItem r.1 cls inst with asked := true }, C.ok)
def execCalCmdCommit (o : Origin) (v : Word) (s : State) : Out := done (regWriteRow s o false (fun s => calCmdWrite s v))
def execCalCmdRun (o : Origin) (v : Word) (s : State) : Out := done (regWriteRow s o false (fun s => calCmdWrite s v))
/-- CAL_DATA written: a record word is staged; read: a word of the record in force. Either goes on to the next word. -/
def calWordNext (s : State) : State := setFld s F.calSelWord (calSelWord s + 1)
def calDataWrite (s : State) (v : Word) : State × Nat :=
  (calWordNext { s with cal := { s.cal with staged := SMap.setD s.cal.staged (calSelWord s) v 0 } }, C.ok)
/-- DESIGN CHOICE, log entry 32. -/
def calDataRead (s : State) : State × Word :=
  (calWordNext s, if calExists s.ident (calSelCls s) (calSelInst s) then ((calRecord s (calSelCls s) (calSelInst s))[calSelWord s]?).getD 0 else 0)
/-- CAL_DATA_ACCESS: a read, or a write of a word. -/
def execCalDataAccess (o : Origin) (v : Option Word) (s : State) : Out :=
  done (match v with
    | some w => regWriteRow s o false (fun s => calDataWrite s w)
    | none => regReadRow s o false calDataRead)

/-! ### Bulk (R406, R458) -/

/-- CAL_SAVE: the records of consecutive instances. (DESIGN CHOICE, log entry 32) -/
def svcCalSave : Service := sized 6 (fun s c b =>
  let cls := fieldLE b 0 1
  let first := fieldLE b 2 2
  let n := fieldLE b 4 2
  if fieldLE b 1 1 ≠ 0 ∨ n = 0 then malformed s c b
  else
    let l := (List.range n).map (first + ·)
    if l.all (calExists s.ident cls) then finishReq s c C.ok (l.flatMap (fun i => wordBytes (calRecord s cls i)))
    else finishReq s c C.regAbsent [])
/-- The records of a CAL_RESTORE body, each of the length that its own LENGTH gives. -/
def splitRecords : Nat → List Word → Option (List (List Word))
  | _, [] => some []
  | 0, _ => none
  | fuel + 1, w :: r =>
    let n := fieldOf w.toNat 14 8
    if n = 0 ∨ r.length + 1 < n then none
    else (splitRecords fuel (r.drop (n - 1))).map ((w :: r.take (n - 1)) :: ·)
/-- CAL_RESTORE: one status for each record. -/
def svcCalRestore : Service := fun s c b =>
  if b.isEmpty ∨ b.length % 4 ≠ 0 then malformed s c b
  else match splitRecords b.length (wordsOf b) with
    | none => malformed s c b
    | some rs =>
      let r := rs.foldl (fun (a : State × List Byte) rec_ =>
        let w := ((rec_[0]?).getD 0).toNat
        let x := calCommit a.1 (fieldOf w 0 4) (fieldOf w 4 10) rec_
        (x.1, a.2 ++ leBytes 2 x.2)) (s, [])
      finishReq r.1 c C.ok r.2

/-! ### Temperature (R398) -/

/-- The items of a domain that its mean temperature over the last second makes due, or no longer due. -/
def calByTemp (s : State) (n mean : Nat) : State :=
  s.cal.items.foldl (fun s k =>
    let cls := k.1 / 1024
    let inst := k.1 % 1024
    let hot := strays s cls (signedOf 12 mean) (signedOf 12 k.2.tref)
    if calDomain cls inst = n ∧ k.2.hot ≠ hot then putCal s cls inst { k.2 with hot := hot } else s)
    { s with cal := { s.cal with means := SMap.insert s.cal.means n mean } }

end Sys2Proof.Machine
end

