-- ==== Sys2Proof/Machine/Servo.lean ====
section
/-!
DEFINITION. Samples of the servo loop engines (R415 to R429), trips (R432, R433), tests and captures (R434, R435), the pin
drivers and the standby engine (R440 to R442).
-/
namespace Sys2Proof.Machine
open Sys2Proof

/-! ### Pin drivers (R425, R440) -/

/-- The value at which a driver stands at SAFE: none where SAFE is NaN (R432). -/
def safeValue (w : Word) : Option Word := if (fp32.decode w.toNat).isNaN then none else some w
def modPin (s : State) (p : Nat) (f : Driver → Driver) : State :=
  match SMap.find s.drivers.pins p with
  | some d => { s with drivers := { s.drivers with pins := SMap.insert s.drivers.pins p (f d) } }
  | none => s
/-- A driver takes a value for an output. -/
def drivePin (s : State) (p : Nat) (v safe : Option Word) (loop out : Nat) : State :=
  { s with drivers := { s.drivers with pins := SMap.insert s.drivers.pins p ⟨v, safe, loop, out, now s, false⟩ } }
/-- Every output of a loop at its SAFE value (R430, R432). -/
def driveSafe (s : State) (g : Servo) (i : Nat) : State :=
  (List.range (g.nOutputs i)).foldl (fun s j => match (g.sink i j).pin with
    | some p => drivePin s p (safeValue (g.safe i j)) (safeValue (g.safe i j)) i j
    | none => s) s
/-- Every driver at SAFE: both leases have lapsed (R35, R440). -/
def pinsSafe (s : State) : State :=
  { s with drivers := { s.drivers with pins := s.drivers.pins.map (fun e => (e.1, { e.2 with value := e.2.safe })) } }

/-! ### Events and reports (R444, R446) -/

/-- DEDUCED, log entry 12. -/
def srvReport (s : State) (f : Fld) (code : Nat) (detail : List Byte) : State := hubReport (setEvent s f) code detail
/-- Mantissas that took a bound (R420). -/
def numSat (s : State) (h : Hub) (n : Nat) : State :=
  if n = 0 then s else setEvent (bumpEv s (evHub Ev.srvNumSat h) noCtx n) F.srvEventNumSat

/-! ### Captures (R435) -/

def Capture.runs (c : Capture) : Bool := c.st == .running
def endCapture (s : State) (h : Hub) (st : CapState) (f : Fld) : State :=
  setEvent (modEng s h (fun g => { g with cap := { g.cap with st := st, waiting := false } })) f
/-- The capture of a loop that left CLOSED, or of a hub that stops being active. -/
def abortCapture (s : State) (h : Hub) : State :=
  if (engOf s h).cap.runs then endCapture s h .aborted F.srvEventCapAbort else s
/-- The event of an input starts a capture that waits for it. -/
def captureEvent (s : State) (i : Nat) : State :=
  match s.active with
  | none => s
  | some h => modEng s h (fun g => if g.cap.runs && g.cap.waiting && g.par 3 0 0x52 0 == i then { g with cap := { g.cap with waiting := false } } else g)

/-! ### Trips (R432, R433) -/

/-- A loop's outputs as FP32 words at SAFE. -/
def safeWords (g : Servo) (i : Nat) : List Word := (List.range (g.nOutputs i)).map (g.safe i)
def tripped (g : Servo) (i cause : Nat) : Servo :=
  g.modLoop i (fun l => { l with st := .tripped, cause := cause, trips := min (l.trips + 1) 0x1FFFF, u := safeWords g i, sat := 0, satSince := [] })
/-- Loops paced by a loop (R421). -/
def Servo.paced (g : Servo) (i : Nat) : List Nat := loopIds.filter (fun k => g.pace k == i)

/-- A closed loop trips; with it every closed loop that it paces (CAUSE 3). A capture of the loop is aborted, but for an input
held or masked (R443). -/
def tripLoop : Nat → State → Hub → Nat → Nat → State
  | 0, s, _, _, _ => s
  | fuel + 1, s, h, i, cause =>
    if (engOf s h).closed i then
      let s1 := modBoth s h (fun g => tripped g i cause)
      let s2 := srvReport (driveSafe s1 (engOf s1 h) i) F.srvEventTrip C.srvTrip (d4 i ++ d4 cause)
      let s3 := if cause ≠ 2 ∧ (engOf s h).par 3 0 0x48 0 = i then abortCapture s2 h else s2
      ((engOf s3 h).paced i).foldl (fun s k => tripLoop fuel s h k 3) s3
    else s
/-- Loops that a loop paces trip when it leaves CLOSED otherwise. -/
def tripPaced (s : State) (h : Hub) (i : Nat) : State := ((engOf s h).paced i).foldl (fun s k => tripLoop 32 s h k 3) s

/-! ### Latched inputs (R422 to R424) -/

/-- AIN conversions begun since each loop's previous sample: loop, AIN, those of HA and of HB, calibrated, in volts, the
latest last. -/
abbrev Conv := List (Nat × Nat × List Word × List Word)
/-- What an AIN gives a loop: its latest conversion, or in mean mode the mean; none since the last sample: an open value. (DESIGN CHOICE, log entry 33) -/
def ainOf (s : State) (g : Servo) (h : Hub) (conv : Conv) (loop n : Nat) : Word :=
  let l := match conv.find? (fun e => e.1 == loop && e.2.1 == n) with
    | some e => if h = .ha then e.2.2.1 else e.2.2.2
    | none => []
  let open_ := BitVec.ofNat 32 (Config.freeWord (s.free + loop * 16 + hubIndex h * 8 + n)).toNat
  if g.mode n = 1 then (meanF32 l).getD open_ else l.getLast?.getD open_
/-- A source's value as FP32. -/
def srcValue (s : State) (g : Servo) (h : Hub) (conv : Conv) (loop : Nat) (x : Srce) : Word :=
  match x.kind with
  | 1 => ainOf s g h conv loop x.n
  | 2 => Dy.toF32 ((g.input (8 + 2 * x.n)).count.toInt, 0)
  | 3 => SMap.getD g.inVals (x.n * 64 + x.e) 0
  | _ => 0
/-- Whether a servo input slot's stream has its bundle (R443). -/
def slotLive (s : State) (g : Servo) (n : Nat) : Bool :=
  let id := g.par 3 0 0x40 n
  s.pl.slots.any (fun e => e.2.placed && e.2.img.streams.any (fun r => r.id == id && r.cons.any (fun c => c.station == 0xFFFE)))
/-- Whether a set-point's source does not give a value now (R433, R443). -/
def spHeld (s : State) (g : Servo) (x : Srce) : Bool :=
  g.blocked x || (x.kind == 3 && !slotLive s g x.n) || (x.kind == 4 && !g.closed x.n)

/-! ### Tests (R434) -/

/-- The period of a loop in ns. -/
def Servo.period (g : Servo) : Nat → Nat → Nat
  | 0, i => g.par 0 i 0x05 0
  | fuel + 1, i => if g.pace i < 32 then g.par 0 i 0x07 0 * g.period fuel (g.pace i) else g.par 0 i 0x05 0
/-- Bits of a shift register's second tap. -/
def prbsTap (order : Nat) : Nat := if order = 7 then 6 else if order = 9 then 5 else if order = 11 then 9 else 14
/-- DESIGN CHOICE, log entry 34. -/
def prbsStep (order x : Nat) : Nat := (2 * x + (b2n (bitAt x (order - 1)) + b2n (bitAt x (prbsTap order - 1))) % 2) % 2 ^ order
/-- The injected signal at sample j. -/
def Servo.testSignal (g : Servo) : Word :=
  let amp := g.param 3 0 0x4B 0
  match g.par 3 0 0x49 0 with
  | 1 => amp
  | 2 => Config.chirp amp (g.param 3 0 0x4C 0) (g.param 3 0 0x4D 0) (g.par 3 0 0x50 0) (g.period 32 (g.par 3 0 0x48 0)) g.cap.j
  | _ => if bitAt g.cap.prbs (g.par 3 0 0x4E 0 - 1) then amp else amp ^^^ 0x80000000#32
/-- The signal injected into a loop at a point (0 outputs, 1 set-points, 2 measured inputs) and index; none where none is. (DESIGN CHOICE, log entry 33) -/
def Servo.inject (g : Servo) (i point j : Nat) : Option Word :=
  let t := g.par 3 0 0x4A 0
  if g.cap.runs && !g.cap.waiting && g.par 3 0 0x49 0 != 0 && g.par 3 0 0x48 0 == i && t % 4 == point && t / 4 == j then some g.testSignal else none
def addInj (v : Word) (w : Option Word) : Word := match w with | some x => Dy.toF32 (Dy.add (Dy.ofF32 v) (Dy.ofF32 x)) | none => v

/-! ### Feed-forward (R429) -/

def Servo.table (g : Servo) (a k : Nat) : Dy := Dy.ofF32 (g.param 2 a 0x3D (k % 1024))
/-- Linear interpolation between entries k and k + 1. -/
def Servo.interp (g : Servo) (a k : Nat) (f : Dy) : Dy := Dy.add (g.table a k) (Dy.mul (Dy.add (g.table a (k + 1)) (Dy.neg (g.table a k))) f)
/-- An axis's value at a position, given the position at the previous sample. -/
def Servo.axisValue (g : Servo) (a : Nat) (p : Word) : Dy :=
  let x := Dy.mul (Dy.add (Dy.ofF32 p) (Dy.neg (Dy.ofF32 (g.param 2 a 0x3B 0)))) (Dy.ofF32 (g.param 2 a 0x3A 0))
  if g.par 2 a 0x38 0 = 1 then g.interp a ((Dy.floor x) % 1024).toNat (Dy.frac x)
  else
    let v := if x.1 < 0 then g.table a 0 else if 1023 ≤ Dy.floor x then g.table a 1023 else g.interp a (Dy.floor x).toNat (Dy.frac x)
    let before := (SMap.find g.axisPos a).getD p
    if Dy.lt (Dy.ofF32 before) (Dy.ofF32 p) then v else if Dy.lt (Dy.ofF32 p) (Dy.ofF32 before) then Dy.neg v else (0, 0)

/-! ### The law (R415) -/

/-- What a sample of a loop latched: y, r, the set-points that hold, the axes' positions and the feed-forward of each output. -/
structure Latched where
  y : List Word
  r : List Word
  held : List Nat
  pos : List (Nat × Word)
  f : List Dy
  deriving DecidableEq, Repr

/-- Measured input j of a loop (R424). -/
def measured (s : State) (g : Servo) (h : Hub) (conv : Conv) (i j : Nat) : Word :=
  let v := f32Sub (srcValue s g h conv i (g.srcY i j)) (g.param 0 i 0x1D j)
  addInj (BitVec.ofNat 32 (f32Mul (g.par 0 i 0x1C j) v.toNat)) (g.inject i 2 j)
/-- Set-point j of a loop: its source, or the last value while it holds. -/
def setPoint (s : State) (g : Servo) (h : Hub) (conv : Conv) (i j : Nat) : Word :=
  let x := g.srcR i j
  if spHeld s g x then (g.loop i).r.getD j 0
  else
    let v := match x.kind with
      | 0 => g.param 0 i 0x1E j
      | 4 => (g.loop x.n).u.getD x.e 0
      | _ => srcValue s g h conv i x
    addInj v (g.inject i 1 j)
def latch (s : State) (g : Servo) (h : Hub) (conv : Conv) (i : Nat) : Latched :=
  let pos := (g.axes i).map (fun a => (a, srcValue s g h conv i (g.axisSrc a)))
  ⟨(List.range (g.nInputs i)).map (measured s g h conv i), (List.range (g.nSet i)).map (setPoint s g h conv i),
   (List.range (g.nSet i)).filter (fun j => spHeld s g (g.srcR i j)), pos,
   (List.range (g.nOutputs i)).map (fun o => Dy.sum ((pos.filter (fun p => fieldOf (g.par 2 p.1 0x3C 0) 5 2 == o)).map (fun p => g.axisValue p.1 p.2)))⟩

/-- A sample's results and how many mantissas took a bound. -/
structure Law where
  nu : Blk
  us : Blk
  u : Blk
  n : Nat
  deriving DecidableEq, Repr
/-- ν, u* and u of R415. -/
def Servo.law (g : Servo) (i : Nat) (t : Latched) : Law :=
  let l := g.loop i
  let n := g.nStates i
  let m := g.nInputs i
  let p := g.nOutputs i
  let q := g.nSet i
  let y := formBlk (t.y.map Dy.ofF32)
  let r := formBlk (t.r.map Dy.ofF32)
  let f := formBlk t.f
  let w := formBlk ((List.range p).map (fun j => match g.inject i 0 j with | some v => Dy.ofF32 v | none => (0, 0)))
  let cx := stage m n l.c l.x
  let nu := sumBlk m [(false, y.b), (true, cx.b)]
  let kx := stage p n l.k l.x
  let nr := stage p q l.n r.b
  let us := sumBlk p [(true, kx.b), (false, nr.b), (false, f.b), (false, w.b)]
  let u := formBlk ((withIdx us.b.values).map (fun e =>
    let lo := Dy.ofF32 (g.param 0 i 0x18 e.1)
    let hi := Dy.ofF32 (g.param 0 i 0x19 e.1)
    let v := if Dy.lt e.2 lo then lo else e.2
    if Dy.lt hi v then hi else v))
  ⟨nu.b, us.b, u.b, y.n + r.n + f.n + w.n + cx.n + nu.n + kx.n + nr.n + us.n + u.n⟩
/-- x̂[k+1] of R415. -/
def Servo.observe (g : Servo) (i : Nat) (u nu : Blk) : BlkN :=
  let l := g.loop i
  let n := g.nStates i
  let ax := stage n n l.a l.x
  let bu := stage n (g.nOutputs i) l.b u
  let lv := stage n (g.nInputs i) l.l nu
  let x := sumBlk n [(false, ax.b), (false, bu.b), (false, lv.b)]
  ⟨x.b, ax.n + bu.n + lv.n + x.n⟩

/-- Outputs whose u* lies outside UMIN to UMAX (R432). -/
def Servo.saturated (g : Servo) (i : Nat) (us : Blk) : List Nat :=
  ((withIdx us.values).filter (fun e => Dy.lt e.2 (Dy.ofF32 (g.param 0 i 0x18 e.1)) || Dy.lt (Dy.ofF32 (g.param 0 i 0x19 e.1)) e.2)).map (·.1)

/-- A loop after a computed sample. -/
def Loop.after (l : Loop) (t : Latched) (w : Law) (x : Blk) (sat : List Nat) (at_ : Nat) : Loop :=
  { l with x := x, y := t.y, r := t.r, us := w.us.words, u := w.u.words, nu := w.nu.words, xs := l.x.words, spHold := t.held,
           sat := sat.foldl (fun b j => b + 2 ^ j) 0, satSince := sat.foldl (fun (m : SMap Nat) j => SMap.insert m j (SMap.getD l.satSince j at_)) [],
           samples := (l.samples + 1) % 2 ^ 32 }
/-- The standby's loop: the active engine's outputs, its own measured inputs and estimate (R441). -/
def Loop.tracked (l a : Loop) (y : List Word) (nu x : Blk) : Loop :=
  { l with x := x, y := y, r := a.r, us := a.us, u := a.u, nu := nu.words, xs := l.x.words, spHold := a.spHold, sat := a.sat, satSince := a.satSince,
           samples := a.samples, paced := a.paced }

/-- The observer of an engine that does not drive, run on the outputs applied. (DESIGN CHOICE, log entry 36) -/
def trackLoop (s : State) (h : Hub) (conv : Conv) (i : Nat) (a : Loop) : State :=
  let g := engOf s h
  if g.closed i then
    let t := latch s g h conv i
    let u := formBlk (a.u.map Dy.ofF32)
    let y := formBlk (t.y.map Dy.ofF32)
    let cx := stage (g.nInputs i) (g.nStates i) (g.loop i).c (g.loop i).x
    let nu := sumBlk (g.nInputs i) [(false, y.b), (true, cx.b)]
    let x := g.observe i u.b nu.b
    let g1 := { g.modLoop i (fun l => l.tracked a t.y nu.b x.b) with axisPos := t.pos.foldl (fun m p => SMap.insert m p.1 p.2) g.axisPos }
    numSat (setEng s h g1) h (u.n + y.n + cx.n + nu.n + x.n)
  else s

/-- New holds of set-points reported, once for each (R433). -/
def spReports (s : State) (i : Nat) (before held : List Nat) : State :=
  (held.filter (fun j => !before.contains j)).foldl (fun s _ => srvReport s F.srvEventSpHold C.srvSpHold (d4 i)) s
/-- Outputs applied to their pins (R422, R425). -/
def applyPins (s : State) (g : Servo) (i : Nat) : State :=
  (List.range (g.nOutputs i)).foldl (fun s j => match (g.sink i j).pin with
    | some p => drivePin s p ((g.loop i).u[j]?) (safeValue (g.safe i j)) i j
    | none => s) s

/-- A sample of a closed loop by the active engine. -/
def computeLoop (s : State) (h : Hub) (conv : Conv) (i : Nat) : State :=
  let g := engOf s h
  let t := latch s g h conv i
  let w := g.law i t
  let x := g.observe i w.u w.nu
  let g1 := { g.modLoop i (fun l => l.after t w x.b (g.saturated i w.us) (now s)) with axisPos := t.pos.foldl (fun m p => SMap.insert m p.1 p.2) g.axisPos }
  let s1 := spReports (numSat (setEng s h g1) h (w.n + x.n)) i (g.loop i).spHold t.held
  let s2 := applyPins s1 g1 i
  if tracks s2 (peer h) then trackLoop s2 (peer h) conv i (g1.loop i) else s2

/-- The word of a capture signal (R435); a signal that its loop does not have gives an open value. -/
def capSignal (s : State) (g : Servo) (w k : Nat) : Word :=
  let l := g.loop (w % 32)
  let v := match fieldOf w 5 3 with
    | 0 => l.y
    | 1 => l.r
    | 2 => l.us
    | 3 => l.u
    | 4 => l.xs
    | _ => l.nu
  v.getD (fieldOf w 8 3) (BitVec.ofNat 32 (Config.freeWord (s.free + 512 + k)).toNat)
/-- A sample of the test's loop: four signals captured, the test ended after TEST_LEN (R434, R435). (DESIGN CHOICE, log entry 34) -/
def captureSample (s : State) (h : Hub) (i : Nat) : State :=
  let g := engOf s h
  if g.cap.runs && !g.cap.waiting && g.par 3 0 0x48 0 == i then
    let row := (List.range 4).map (fun k => capSignal s g (g.par 3 0 0x51 k) k)
    let c := g.cap
    let step := (c.j + 1) % g.par 3 0 0x4F 0 = 0
    let c1 := { c with j := c.j + 1, data := c.data ++ [row], prbs := if step then prbsStep (g.par 3 0 0x4E 0) c.prbs else c.prbs }
    let s1 := setEng s h { g with cap := c1 }
    if g.par 3 0 0x50 0 ≤ c.j + 1 then endCapture s1 h .done_ F.srvEventCapDone else s1
  else s

/-- A sample of one loop by the active engine: a measured input whose line is held, or whose stream has gone stale, trips it
first (R433, R443). -/
def sampleLoop (s : State) (h : Hub) (conv : Conv) (i : Nat) : State :=
  let g := engOf s h
  let bad := (List.range (g.nInputs i)).any (fun j => g.blocked (g.srcY i j) || ((g.srcY i j).kind == 3 && g.stale.contains (g.srcY i j).n))
  let s1 := if g.closed i then (if bad then tripLoop 33 s h i 2 else computeLoop s h conv i) else s
  captureSample s1 h i

/-! ### Which loops sample (R421) -/

/-- Whether a loop is sampled: it is closed, or a capture of it goes on after a trip (R443). -/
def Servo.live (g : Servo) (k : Nat) : Bool := g.closed k || (g.cap.runs && g.par 3 0 0x48 0 == k)
/-- Loops that are due at an instant with a loop: those it paces whose turn it is. -/
def Servo.dueWith (g : Servo) (i : Nat) : List Nat :=
  (g.paced i).filter (fun k => g.live k && (g.loop k).paced % g.par 0 k 0x07 0 == 0)
/-- The base loops named and every loop due with them, an outer loop before the loop it is paced by. (DESIGN CHOICE, log entry 34) -/
def Servo.sampled (g : Servo) : Nat → List Nat → List Nat
  | 0, l => l
  | fuel + 1, l =>
    let up := l.flatMap g.dueWith
    if up.isEmpty then l else g.sampled fuel up ++ l
/-- The count of samples that paces each outer loop. -/
def Servo.countPaced (g : Servo) (l : List Nat) : Servo :=
  (l.flatMap (fun i => (g.paced i).filter g.live)).foldl (fun g k => g.modLoop k (fun x => { x with paced := x.paced + 1 })) g

/-! ### Servo streams out (R428) -/

/-- The value that a sink of an output carries: u, or SAFE where its loop is not closed. -/
def Servo.sinkValue (g : Servo) (i j : Nat) : Word := if g.closed i then (g.loop i).u.getD j 0 else g.safe i j
/-- The 64 elements of an output slot. -/
def Servo.slotWords (g : Servo) (slot : Nat) : List Word :=
  (List.range 64).map (fun e => ((loopIds.flatMap (fun i => (List.range (g.nOutputs i)).filterMap (fun j =>
    let k := g.sink i j
    if k.kind = 3 ∧ k.n = slot ∧ k.e = e then some (g.sinkValue i j) else none))).head?).getD 0)
/-- A tile of 1 × 64 FP32 elements. (DESIGN CHOICE, log entry 21) -/
def servoTile (frame : Nat) (words : List Word) : Tile :=
  let h : TileHeader := { streamId := 0, seq := 0, frame := BitVec.ofNat 32 frame, format := 0x02, shape := 0x60, flags := 0, postmark := 0,
                          tileScale := 0, len := 0, index := 0, origin := 0 }
  ⟨h.setFlag flagLast true, padTo 4096 (words.flatMap (fun w => leBytes 4 w.toNat)), List.replicate 128 0#8, []⟩
/-- The post of one output slot; `hop` whether the first hop takes it at once. -/
def postSlot (s : State) (h : Hub) (slot : Nat) (hop : Bool) : State :=
  let g := engOf s h
  let id := g.par 3 0 0x41 slot
  let skip := bumpEv s (evHub Ev.srvPostSkip h) noCtx 1
  if hop = false then skip
  else match streamById s id (fun r => r.producer == 0xFFFE) with
    | none => skip
    | some v =>
      let l := g.loop (g.par 3 0 0x42 slot)
      let (src, s1) := takeFree s
      let t := postHeader s v.r (src.toNat % 4096) v.x.nextSeq false (servoTile (l.samples + 2 ^ 32 - 1) (g.slotWords slot))
      launch (modStream s1 v.slot v.si (fun x => { x with nextSeq := x.nextSeq + 1 })) v.slot v.si t
/-- Posts of the output slots whose OUT_LOOP sampled. -/
def postSlots (s : State) (h : Hub) (loops refuse : List Nat) : State :=
  (List.range 8).foldl (fun s k =>
    let g := engOf s h
    let i := g.par 3 0 0x42 k
    if g.par 3 0 0x41 k ≠ 0 ∧ loops.contains i = true ∧ (g.loop i).u ≠ [] then postSlot s h k (!refuse.contains k) else s) s

/-- SERVO_SAMPLE: the loops whose PACE is none that sample at this instant, with the outer loops due; the AIN conversions of
both hubs; and the output slots whose first hop cannot take a tile at once. -/
def execServoSample (base : List Nat) (conv : List (Nat × Nat × List Word × List Word)) (refuse : List Nat) (s : State) : Out :=
  done (
    if s.phase ≠ .running then s
    else
      let run (s : State) (h : Hub) (f : State → Nat → State) : State × List Nat :=
        let g := engOf s h
        let l := g.sampled 32 (loopIds.filter (fun i => base.contains i && g.pace i == 0xFF))
        (modEng (l.foldl f s) h (fun g => g.countPaced l), l)
      let s1 := match s.active with
        | some h =>
          let (s1, l) := run s h (fun s i => sampleLoop s h conv i)
          postSlots s1 h l refuse
        | none => [Hub.ha, Hub.hb].foldl (fun s h => (run s h (fun s i => trackLoop s h conv i ((engOf s h).loop i))).1) s
      { s1 with free := s1.free + 1024 })

/-- Every loop OPEN at its SAFE values: a hub's firmware has begun to run after a reset (R525). -/
def safeAll (s : State) (h : Hub) : State := loopIds.foldl (fun s i => if (engOf s h).closed i then s else driveSafe s (engOf s h) i) s

/-! ### Takeover (R441, R442) -/

/-- The standby engine brought level with the active one: parameters, loops, inputs and stream values. (DESIGN CHOICE, log entry 36) -/
def syncEngines (s : State) : State :=
  match s.active with
  | some h => setEng s (peer h) { engOf s h with cap := (engOf s (peer h)).cap }
  | none => s
/-- A loop that a cold takeover opens. (DESIGN CHOICE, log entry 36) -/
def coldOpen (s : State) (h : Hub) (i : Nat) : State :=
  let s1 := modEng s h (fun g => tripped g i 4)
  let s2 := srvReport (driveSafe s1 (engOf s1 h) i) F.srvEventColdOpen C.srvColdOpen (d4 i)
  tripPaced { s2 with drivers := { s2.drivers with gens := SMap.setD s2.drivers.gens i ((engOf s2 h).loop i).gen 0 } } h i
/-- A hub's engine takes over: tests end, and each loop whose generation differs from the drivers' is opened. (DESIGN CHOICE, log entry 36) -/
def servoTakeover (s : State) (h : Hub) : State :=
  let s1 := abortCapture (abortCapture s (peer h)) h
  loopIds.foldl (fun s i => if ((engOf s h).loop i).gen ≠ SMap.getD s.drivers.gens i 0 then coldOpen s h i else s) s1

end Sys2Proof.Machine
end

