-- ==== Sys2Proof/Machine/ServoRows.lean ====
section
/-!
DEFINITION. Commands, parameters and inputs of the servo loop engines (R427, R430 to R440, R443, R444), and the frame starts
that FSYNC lines give (R297).
-/
namespace Sys2Proof.Machine
open Sys2Proof

/-! ### Commands (R430, R434, R439, R444) -/

/-- The selection of SRV_SEL. -/
structure Sel where
  kind : Nat
  index : Nat
  param : Nat
  elem : Nat
  deriving DecidableEq, Repr
def srvSel (s : State) : Sel := ⟨fld s F.srvSelKind, fld s F.srvSelIndex, fld s F.srvSelParam, fld s F.srvSelElem⟩
/-- A command of the active hub's engine on a selected object of a kind. -/
def srvCommand (s : State) (kind : Nat) (f : State → Hub → Nat → State × Nat) : State × Nat :=
  match s.active with
  | none => (s, C.ok)
  | some h =>
    let k := srvSel s
    if k.kind = kind ∧ !(kind = 1 ∧ 28 ≤ k.index) then f s h k.index else (s, C.srvParamInvalid)

/-- The matrix of a parameter, of a loop's rows and columns. -/
def Servo.matrix (g : Servo) (i code rows cols : Nat) : BlkN :=
  formBlk ((List.range rows).flatMap (fun r => (List.range cols).map (fun c => Dy.ofF32 (g.param 0 i code (8 * r + c)))))
/-- A loop closed: its matrices converted, its estimate X0 (R430). -/
def Servo.closeLoop (g : Servo) (i : Nat) : Servo × Nat :=
  let n := g.nStates i
  let m := g.nInputs i
  let p := g.nOutputs i
  let a := g.matrix i 0x10 n n
  let b := g.matrix i 0x11 n p
  let c := g.matrix i 0x12 m n
  let l := g.matrix i 0x13 n m
  let k := g.matrix i 0x14 p n
  let r := g.matrix i 0x15 p (g.nSet i)
  let x := formBlk ((List.range n).map (fun j => Dy.ofF32 (g.param 0 i 0x1B j)))
  let g1 := g.modLoop i (fun o => 
    { o with st := .closed, a := a.b, b := b.b, c := c.b, l := l.b, k := k.b, n := r.b, x := x.b, us := [], nu := [], xs := [],
             u := [], spHold := [], sat := 0, satSince := [], samples := 0, paced := 0, gen := (o.gen + 1) % 65536 })
  ({ g1 with axisPos := (g.axes i).foldl SMap.erase g1.axisPos }, a.n + b.n + c.n + l.n + k.n + r.n + x.n)
/-- LOOPIO runs of the DOUT sinks of a loop are abandoned (R443). -/
def abandonLoopIo (s : State) (h : Hub) (i : Nat) : State :=
  ((engOf s h).pins i).foldl (fun s p => if 8 ≤ p then calAbandon s 7 (12 * hubIndex h + p) else s) s
/-- CLOSE. (DESIGN CHOICE, log entry 34) -/
def closeCmd (s : State) : State × Nat :=
  srvCommand s 0 (fun s h i =>
    let g := engOf s h
    if g.closed i then (s, C.ok)
    else
      let why := g.closeReason i
      if why ≠ 0 then (modBoth s h (fun g => g.modLoop i (fun l => { l with reason := why })), C.srvCloseInvalid)
      else
        let s1 := numSat (modBoth (abandonLoopIo s h i) h (fun g => (g.closeLoop i).1)) h (g.closeLoop i).2
        ({ s1 with drivers := { s1.drivers with gens := SMap.setD s1.drivers.gens i ((engOf s1 h).loop i).gen 0 } }, C.ok))
def execSrvClose (o : Origin) (s : State) : Out := done (regWriteRow s o false closeCmd)

/-- OPEN: outputs at SAFE, the observer stopped. (DESIGN CHOICE, log entry 34) -/
def openCmd (s : State) : State × Nat :=
  srvCommand s 0 (fun s h i =>
    let g := engOf s h
    if (g.loop i).st = .open_ then (s, C.ok)
    else
      let s1 := modBoth s h (fun g => g.modLoop i (fun l => { l with st := .open_, u := safeWords g i, sat := 0, satSince := [], spHold := [] }))
      let s2 := driveSafe s1 g i
      let s3 := if g.par 3 0 0x48 0 = i then abortCapture s2 h else s2
      (tripPaced s3 h i, C.ok))
def execSrvOpen (o : Origin) (s : State) : Out := done (regWriteRow s o false openCmd)

/-- REARM of an input; a pulse pair is re-armed by its A input, or by either of its lines that is held. (DESIGN CHOICE, log entry 34) -/
def rearmCmd (s : State) : State × Nat :=
  srvCommand s 1 (fun s h i =>
    (modBoth s h (fun g =>
      let g1 := g.modInput i (fun x => { x with st := .armed })
      loopIds.foldl (fun g k => g.modLoop k (fun l => { l with spHold := l.spHold.filter (fun j => !(g.srcR k j).lines.contains i) })) g1), C.ok))
def execSrvRearm (o : Origin) (s : State) : Out := done (regWriteRow s o false rearmCmd)

/-- TEST_START; with TEST_KIND 0 a capture may wait for the event of CAP_TRIG. (DESIGN CHOICE, log entry 34) -/
def testStartCmd (s : State) : State × Nat :=
  srvCommand s 3 (fun s h _ =>
    let g := engOf s h
    if g.cap.runs then (s, C.srvCapBusy)
    else if g.closed (g.par 3 0 0x48 0) = false then (s, C.srvCloseInvalid)
    else
      let wait := g.par 3 0 0x49 0 == 0 && g.par 3 0 0x52 0 != 0xFF
      (modEng s h (fun g => { g with cap := { st := .running, waiting := wait, j := 0, prbs := 2 ^ g.par 3 0 0x4E 0 - 1, data := [] } }), C.ok))
def execSrvTestStart (o : Origin) (s : State) : Out := done (regWriteRow s o false testStartCmd)

/-- STOP of a test and capture: the samples captured stay. (DESIGN CHOICE, log entry 34) -/
def stopCmd (s : State) : State × Nat :=
  srvCommand s 3 (fun s h _ =>
    (modEng s h (fun g => if g.cap.runs then { g with cap := { g.cap with st := .idle, waiting := false } } else g), C.ok))
def execSrvStop (o : Origin) (s : State) : Out := done (regWriteRow s o false stopCmd)

/-- A write of SRV_CMD. (DESIGN CHOICE, log entry 34) -/
def srvCmdWrite (s : State) (v : Word) : State × Nat :=
  match wfld v F.srvCmdCmd with
  | 0 => closeCmd s
  | 1 => openCmd s
  | 2 => rearmCmd s
  | 3 => testStartCmd s
  | 4 => stopCmd s
  | _ => (s, C.srvParamInvalid)

/-! ### Parameters (R431, R444) -/

def nextElem (s : State) : State := setFld s F.srvSelElem (fld s F.srvSelElem + 1)
/-- A parameter's value: COUNT is the running count, CAP_DATA a captured sample. -/
def Servo.read (g : Servo) (k : Sel) : Word :=
  if k.kind = 3 ∧ k.param = 0x53 then ((g.cap.data[k.elem]?).bind (fun r => r[k.index]?)).getD 0
  else if k.kind = 1 ∧ k.param = 0x36 then (g.input k.index).count
  else g.param k.kind k.index k.param k.elem
/-- Why a write of a parameter is refused; none where it is taken. -/
def paramRefusal (g : Servo) (k : Sel) (v : Nat) : Option Nat :=
  match paramInfo k.kind k.index k.param with
  | none => some C.srvParamInvalid
  | some (w, n) =>
    if elemOk k.kind k.param n k.elem = false then some C.srvParamInvalid
    else match w with
      | .never => some C.regReadOnly
      | .any => if paramOk k.kind k.param v then none else some C.srvParamInvalid
      | .idle => if paramOk k.kind k.param v = false then some C.srvParamInvalid else if g.cap.runs then some C.srvCapBusy else none
      | .open_ => if paramOk k.kind k.param v = false then some C.srvParamInvalid
        else if g.uses k.kind k.index k.param k.elem then some C.srvLoopClosed else none
      | .count =>
        if g.uses 1 k.index 0 0 && !g.blocked ⟨2, (k.index - 8) / 2, 0⟩ then some C.srvLoopClosed else none
def Servo.write (g : Servo) (k : Sel) (v : Word) : Servo :=
  if k.kind = 1 ∧ k.param = 0x36 then g.modInput k.index (fun x => { x with count := v })
  else { g with params := SMap.insert g.params (paramKey k.kind k.index k.param k.elem) v }
/-- SRV_PARAM written. (DESIGN CHOICE, log entry 34) -/
def srvParamWrite (s : State) (v : Word) : State × Nat :=
  match s.active with
  | none => (s, C.ok)
  | some h =>
    let k := srvSel s
    match paramRefusal (engOf s h) k v.toNat with
    | some c => (s, c)
    | none =>
      let s1 := modBoth s h (fun g => g.write k v)
      (nextElem (if k.kind < 3 ∨ k.param < 0x48 then keptChanged s1 else s1), C.ok)
/-- SRV_PARAM read. -/
def srvParamRead (s : State) : State × Nat × Word :=
  match s.active with
  | none => (s, C.ok, 0)
  | some h =>
    let k := srvSel s
    match paramInfo k.kind k.index k.param with
    | none => (s, C.srvParamInvalid, 0)
    | some (_, n) => if elemOk k.kind k.param n k.elem = false then (s, C.srvParamInvalid, 0) else (nextElem s, C.ok, (engOf s h).read k)
def execSrvParamAccess (o : Origin) (v : Option Word) (s : State) : Out :=
  done (match v with
    | some x => regWriteRow s o false (fun s => srvParamWrite s x)
    | none => regAnswer (regGate s o false false) s o srvParamRead)

/-! ### Trips and drivers (R432, R440) -/

/-- SERVO_SAT_TRIP: an output has been saturated at every sample for longer than SAT_MS. -/
def execServoSatTrip (loop : Nat) (s : State) : Out :=
  done (match s.active with
    | none => s
    | some h => if s.phase = .running ∧ ((engOf s h).loop loop).sat ≠ 0 then tripLoop 33 s h loop 1 else s)

/-- SERVO_OUT_HOLD_EXPIRY: no value of a closed loop has come to a pin for OUT_HOLD_MS. -/
def execServoOutHoldExpiry (pin : Nat) (s : State) : Out :=
  done (match SMap.find s.drivers.pins pin with
    | none => s
    | some d =>
      if s.phase = .running ∧ d.held = false ∧ ((engOf s (s.active.getD .ha)).closed d.loop || (engOf s .hb).closed d.loop) = true then
        srvReport (modPin s pin (fun d => { d with value := d.safe, held := true })) F.srvEventOutHold C.srvOutHold []
      else s)

/-! ### Servo streams in (R427, R443) -/

/-- SERVO_STREAM_STALE: a bound input stream whose bundle is unloaded has given no tile for 10 ms. (DESIGN CHOICE, log entry 34) -/
def execServoStreamStale (slot : Nat) (s : State) : Out :=
  done (if s.phase ≠ .running then s
    else [Hub.ha, Hub.hb].foldl (fun s h =>
      let g := engOf s h
      if g.par 3 0 0x40 slot ≠ 0 ∧ slotLive s g slot = false ∧ g.stale.contains slot = false then setEng s h { g with stale := g.stale ++ [slot] } else s) s)

/-- A tile as one engine takes it: every slot bound to its stream takes the elements; a tile of another shape, a poisoned one
and one of no slot is discarded and counted. -/
def servoTake (s : State) (h : Hub) (id : Nat) (t : Tile) : State :=
  let g := engOf s h
  let slots := (List.range 8).filter (fun k => g.par 3 0 0x40 k == id)
  if slots.isEmpty ∨ t.hdr.shape ≠ 0x60 ∨ t.poisoned = true then bumpEv s (evHub Ev.srvStreamDiscard h) noCtx 1
  else
    let words := wordsOf (t.payload.take 256)
    setEng s h { g with
      inVals := slots.foldl (fun m k => (withIdx words).foldl (fun m p => SMap.setD m (64 * k + p.1) p.2 0) m) g.inVals
      inTime := slots.foldl (fun m k => SMap.insert m k (now s)) g.inTime
      stale := g.stale.filter (fun k => !slots.contains k) }
/-- SERVO_STREAM_TILE: the oldest tile under way to the servo engine of a stream reaches both hubs. -/
def execServoStreamTile (slot stream : Nat) (s : State) : Out :=
  done (match streamAt s slot stream with
    | none => s
    | some v => match (withIdx v.r.cons).find? (fun p => p.2.station == 0xFFFE) with
      | none => s
      | some p => match oldestFor v.x p.1 with
        | none => s
        | some f =>
          let s1 := modStream s slot stream (fun x => { x with flight := takeFlight p.1 x.flight })
          [Hub.ha, Hub.hb].foldl (fun s h => if firmwareRuns (hubOf s h) then servoTake s h v.r.id f.tile else s) s1)

/-! ### Lines (R436 to R438) -/

/-- Whether an edge at t ns is an overrun edge of a line (R437). (DESIGN CHOICE, log entry 35) -/
def Servo.overruns (g : Servo) (i t : Nat) : Bool :=
  match (g.input i).last with
  | some u => decide ((t - u) * g.par 1 i 0x32 0 < 10 ^ 9)
  | none => false
def countOver (x : Input) : Input := { x with overs := min (x.overs + 1) 0x1FFFF }
/-- The stamp of an edge accepted at t: the filter's fixed delay removed (R436). -/
def Servo.stamp (g : Servo) (i t : Nat) : Nat := t - (g.par 1 i 0x31 0 + 12)
/-- Whether a level has held long enough to count (R436). -/
def Servo.filtered (g : Servo) (i held : Nat) : Bool := decide (g.par 1 i 0x31 0 ≤ held)
/-- A line's level as active or not (R438). -/
def Servo.activeLevel (g : Servo) (i : Nat) (level : Bool) : Bool := level != (g.par 1 i 0x34 0 == 1)

/-- The change of a pulse pair's count by an edge of its line i to `level` (R436). (DESIGN CHOICE, log entry 35) -/
def Servo.countStep (g : Servo) (i : Nat) (level : Bool) : Int :=
  let a := i / 2 * 2
  let la := g.activeLevel a (if i = a then level else (g.input a).level)
  let lb := g.activeLevel (a + 1) (if i = a then (g.input (a + 1)).level else level)
  let sign (up sense : Bool) : Int := if up == sense then 1 else -1
  match g.mode a with
  | 1 => if i = a ∧ la = true then sign lb Config.stepUp else 0
  | 2 => if i = a then sign (la != lb) Config.quadUp else sign (la == lb) Config.quadUp
  | _ => 0
/-- An accepted edge of a pulse line applied: level, time, and the pair's count unless a line of it is masked. -/
def Servo.applyEdge (g : Servo) (i t : Nat) (level : Bool) : Servo :=
  let a := i / 2 * 2
  let frozen := (g.input a).st == .masked || (g.input (a + 1)).st == .masked
  let d := if frozen then 0 else g.countStep i level
  let g1 := g.modInput i (fun x => { x with level := level, last := some t })
  g1.modInput a (fun x => { x with count := x.count + BitVec.ofInt 32 d })
/-- An overrun edge of a pulse pair or an event input, whose object is input `a`: counted, and the object held. -/
def Servo.overrun (g : Servo) (i a : Nat) : Servo :=
  (g.modInput i countOver).modInput a (fun x => if x.st = .armed then { x with st := .overrun } else x)
/-- The engines that see an edge: those whose hub's firmware runs. -/
def onEngines (s : State) (f : State → Hub → State) : State :=
  [Hub.ha, Hub.hb].foldl (fun s h => if firmwareRuns (hubOf s h) then f s h else s) s

/-- An edge as one engine meets it; the active one reports that an object entered OVERRUN_HOLD (R437). (DESIGN CHOICE, log entry 35) -/
def lineEdge (s : State) (h : Hub) (i a t : Nat) (apply : Servo → Servo) : State :=
  let g := engOf s h
  if g.overruns i t then
    let s1 := setEng s h (g.overrun i a)
    if (g.input a).st = .armed ∧ s.active = some h then srvReport s1 F.srvEventOverrun C.srvInOverrun (d4 a) else s1
  else setEng s h (apply g)
/-- PULSE_EDGE: a line of a pulse pair changed to `level`, which had held for `held` ns at time t. -/
def execPulseEdge (i : Nat) (level : Bool) (t held : Nat) (s : State) : Out :=
  done (
    if s.phase ≠ .running ∨ isPulse i = false then s
    else
      let s1 := onEngines s (fun s h =>
        let g := engOf s h
        if g.filtered i held then lineEdge s h i (i / 2 * 2) (g.stamp i t) (fun g => g.applyEdge i (g.stamp i t) level) else s)
      match s.active with
      | some h => if (engOf s h).filtered i held && (engOf s h).activeLevel i level && !(engOf s h).overruns i ((engOf s h).stamp i t) then captureEvent s1 i else s1
      | none => s1)

/-- AIN_EVENT: an AIN in event mode rose above THRESH. (DESIGN CHOICE, log entry 35) -/
def execAinEvent (n t : Nat) (s : State) : Out :=
  done (
    if s.phase ≠ .running ∨ 8 ≤ n then s
    else
      let s1 := onEngines s (fun s h =>
        let g := engOf s h
        if g.mode n = 2 ∧ (g.input n).st ≠ .masked then lineEdge s h n n t (fun g => g.modInput n (fun x => { x with level := true, last := some t })) else s)
      match s.active with
      | some h =>
        let g := engOf s h
        if g.mode n == 2 && (g.input n).st != .masked && !g.overruns n t then captureEvent s1 n else s1
      | none => s1)

/-- FSYNC_EDGE: a rising edge of FSYNC n that had held for `held` ns at time t starts a frame of every bundle that takes its
frames from it, unless the line is masked or the edge overruns (R297, R437, R438). -/
def execFsyncEdge (n t held : Nat) (s : State) : Out :=
  done (
    let i := 24 + n
    let g := engOf s (s.active.getD .ha)
    if s.phase ≠ .running ∨ 4 ≤ n ∨ g.filtered i held = false then s
    else if g.overruns i (g.stamp i t) then onEngines s (fun s h => modEng s h (fun g => g.modInput i countOver))
    else
      let s1 := onEngines s (fun s h => modEng s h (fun g => g.modInput i (fun x => { x with level := true, last := some (g.stamp i t) })))
      if (g.input i).st = .masked then s1
      else
        let s2 := captureEvent s1 i
        s2.pl.slots.foldl (fun s e =>
          if e.2.img.limits.framePeriod ≠ 0 ∧ e.2.img.limits.frameStart = n + 1 ∧ e.2.everStarted = true then frameStart s e.1 e.2.frameK (g.stamp i t) else s) s2)

/-- INPUT_STUCK: a line has been held at its active level for longer than STUCK_MS. -/
def execInputStuck (i : Nat) (s : State) : Out :=
  done (match s.active with
    | none => s
    | some h =>
      let g := engOf s h
      if s.phase = .running ∧ i < 28 ∧ g.par 1 i 0x33 0 ≠ 0 ∧ (g.input i).st ≠ .masked then
        srvReport (onEngines s (fun s h => modEng s h (fun g => g.modInput i (fun x => { x with st := .masked })))) F.srvEventStuck C.srvInStuck (d4 i)
      else s)

end Sys2Proof.Machine
end

