-- ==== Sys2Proof/Machine/Time.lean ====
section
/-!
DEFINITION. The time-base (R463 to R466), the PTP instances and the servo (R467 to R472, R476), and the time exchange of links
(R473).
-/
namespace Sys2Proof.Machine
open Sys2Proof

/-! ### The time-base (R463 to R466) -/

/-- The increment in force. -/
def tbIncr (s : State) : Nat := fld s F.tbIncrHiIncrHi * 2 ^ 32 + fld s F.tbIncrLoIncrLo
def setIncr (s : State) (x : Nat) : State := setFld (setFld s F.tbIncrHiIncrHi (x / 2 ^ 32)) F.tbIncrLoIncrLo x
/-- Whether an increment lies from 6.3936 ns to 6.4064 ns (R465). -/
def incrOk (x : Nat) : Bool := decide (63936 * 2 ^ 32 ≤ x * 10000) && decide (x * 10000 ≤ 64064 * 2 ^ 32)
def incrNominal : Nat := 0x666666666
/-- An increment in range whose value the spec leaves to the servo. (DESIGN CHOICE, log entry 37) -/
def openIncr (s : State) : State :=
  let (v, s1) := takeFree s
  let lo := (63936 * 2 ^ 32 + 9999) / 10000
  let hi := 64064 * 2 ^ 32 / 10000
  setIncr s1 (lo + v.toNat % (hi - lo + 1))
/-- Module time moved by an offset in units of 2^−32 ns; what an instance measured against it moves the other way. -/
def moveTime (s : State) (d : Int) : State :=
  { s with tb := s.tb.setTotal ((s.tb.total : Int) + d).toNat }
/-- DESIGN CHOICE, log entry 37. -/
def stepPtp (d16 : Int) (p : Ptp) : Ptp := { p with ofs := p.ofs - d16 }
def stepHub (d16 : Int) (h : HubSt) : HubSt := { h with ptp := h.ptp.map (stepPtp d16) }
/-- A step by an offset in 1/16 ns (R466, R469). -/
def stepTime (s : State) (d16 : Int) : State :=
  let s0 := moveTime s (d16 * 2 ^ 28)
  let s1 : State := { s0 with cal := { s0.cal with stepped := s0.cal.stepped + d16 } }
  setEvent { s1 with ha := stepHub d16 s1.ha, hb := stepHub d16 s1.hb } F.tbEventStepped
/-- A slew begun; it replaces one in progress (R466). -/
def slewBy (s : State) (d16 : Int) : State := { s with tb := { s.tb with slew := d16 * 2 ^ 28 } }

/-! ### The servo's state and the quality word (R469, R472) -/

def ServoState.code : ServoState → Nat
  | .free => 0
  | .acquiring => 1
  | .locked => 2
  | .holdover => 3
  | .slewing => 4
  | .manual => 5
def tbSelect (s : State) : Nat := fld s F.tbCtlSelect
def servoOn (s : State) : Bool := fld s F.tbCtlServo == 1
def ptpOf (s : State) (h : Hub) (j : Nat) : Ptp := (hubOf s h).ptp.getD j Ptp.reset
def setPtp (s : State) (h : Hub) (j : Nat) (p : Ptp) : State := setHub s h { hubOf s h with ptp := (hubOf s h).ptp.set j p }
/-- The instance that the servo steers to: the active hub's. -/
def selected (s : State) : Ptp := match s.active with | some h => ptpOf s h (tbSelect s) | none => Ptp.reset
/-- A magnitude in 1/16 ns as whole ns, rounded up. -/
def ns16 (x : Int) : Nat := ceilDiv x.natAbs 16
/-- The error bound in ns (R469); none where the state gives an unknown one. (DESIGN CHOICE, log entry 37) -/
def timeBound (s : State) : Option Nat :=
  let base := 10 + fld s F.ptpBoundBaseNs
  match s.servo.st with
  | .free => none
  | .manual => none
  | .locked => some 0
  | .acquiring => some (base + ns16 (selected s).ofs)
  | .slewing => some (base + ceilDiv s.tb.slew.natAbs (2 ^ 32))
  | .holdover => some (base + ceilDiv (s.servo.jump * 10 ^ 9 + 32 * fld s F.ptpBoundDriftPpb * (now s - s.servo.since)) (32 * 10 ^ 9))
/-- TB_STAT and TB_QUAL brought level with the servo. -/
def requal (s : State) : State :=
  let b := (timeBound s).getD 0x7FFFFFFF
  setFld (setFld (setFld s F.tbStatState s.servo.st.code) F.tbQualBound (min b 0x7FFFFFFF)) F.tbQualUncertain (b2n (s.servo.st != .locked))

def setServo (s : State) (st : ServoState) : State := { s with servo := { s.servo with st := st } }
/-- LOCKED entered. -/
def enterLocked (s : State) : State :=
  if s.servo.st = .locked then s else hubReport (setEvent (requal (setServo s .locked)) F.tbEventLocked) C.timeLocked []
/-- ACQUIRING: one step where |OFS| exceeds STEP_NS, else a slew. -/
def acquire (s : State) : State :=
  let o := (selected s).ofs
  if 16 * fld s F.ptpHoldStepNs < o.natAbs ∧ s.servo.stepped = false then stepTime { s with servo := { s.servo with stepped := true } } o
  else slewBy s o
def enterAcquiring (s : State) : State := acquire { s with servo := { s.servo with st := .acquiring, stepped := false } }
/-- HOLDOVER entered with a path jump (R470). (DESIGN CHOICE, log entry 37) -/
def enterHoldover (s : State) (h : Hub) (jump : Nat) (before : Int) : State :=
  let s1 := openIncr { s with servo := { s.servo with st := .holdover, jump := jump, since := now s, ofsBefore := before, elapsed := false },
                              tb := { s.tb with slew := 0 } }
  let s2 := setPtp s1 h (tbSelect s) { ptpOf s1 h (tbSelect s) with syncs := 0 }
  hubReport (setEvent (requal s2) F.tbEventHoldover) C.timeHoldover []
/-- The other instance selected; its time is come to by slewing (R470, R471). (DESIGN CHOICE, log entry 37) -/
def switchTo (s : State) (j : Nat) (d : Int) : State :=
  let s1 := setFld s F.tbCtlSelect j
  let s2 := if servoOn s then slewBy (setServo s1 .slewing) d else s1
  hubReport (setEvent (requal s2) F.tbEventSwitched) C.timeDomainSwitch []
/-- A slew has ended: SLEWING gives way to LOCKED, or to ACQUIRING while the selected instance is not locked. -/
def slewEnded (s : State) : State :=
  if s.servo.st = .slewing then (if (selected s).locked then enterLocked s else setServo s .acquiring) else s
/-- The servo as a hub that becomes active sets it afresh (R476). -/
def servoAfresh (s : State) : State :=
  let p := selected s
  requal (if servoOn s = false then setServo s .manual
    else if p.hasOfs = false then setServo s .free
    else if p.locked then enterLocked (setServo s .acquiring)
    else { s with servo := { s.servo with st := .acquiring, stepped := false } })

/-! ### One REFCLK period (R463) -/

/-- What a period adds: the increment, and the part of a slew that SLEW_PPM allows (R466). (DESIGN CHOICE, log entry 2; DESIGN CHOICE, log entry 37) -/
def slewPart (s : State) : Int :=
  let most : Nat := tbIncr s * fld s F.tbCtlSlewPpm / 1000000
  if s.tb.slew.natAbs ≤ most then s.tb.slew else if 0 < s.tb.slew then (most : Int) else -(most : Int)
/-- What a slew has added is no longer between the instances' time and module time. (DESIGN CHOICE, log entry 2; DESIGN CHOICE, log entry 59) -/
def tick (s : State) : State :=
  if s.phase ≠ .running then s
  else
    let d := slewPart s
    let s1 := moveTime s ((tbIncr s : Int) + d)
    let s2 : State := { s1 with tb := { s1.tb with slew := s1.tb.slew - d } }
    let s3 := if s.tb.slew ≠ 0 ∧ s2.tb.slew = 0 then slewEnded s2 else s2
    if s3.servo.st = .slewing ∨ s3.servo.st = .holdover ∨ s3.servo.st ≠ s.servo.st then requal s3 else s3
/-- TB_SLEW_COMPLETE: the rest of the offset has been added. -/
def execTbSlewComplete (s : State) : Out :=
  done (if s.tb.slew = 0 then s
    else requal (slewEnded { moveTime s s.tb.slew with tb := { (moveTime s s.tb.slew).tb with slew := 0 } }))

/-! ### PTP messages (R467 to R470) -/

/-- Latencies of a hub's port in 1/16 ns: transmit and receive (R468). -/
def ethLatency (s : State) (h : Hub) : Nat × Nat :=
  let p := hubIndex h
  let sp := fldAt s F.ethCtlSpeed 0 p 0
  (fldAt s F.ethTscTx 0 p sp, fldAt s F.ethTscRx 0 p sp)
/-- |OFS| against STEP_NS at a Sync (R469). (DESIGN CHOICE, log entry 37) -/
def Ptp.judge (p : Ptp) (stepNs : Nat) : Ptp :=
  let good := if p.ofs.natAbs < 16 * stepNs then min (p.good + 1) 16 else 0
  let beyond := if 16 * stepNs < p.ofs.natAbs then min (p.beyond + 1) 16 else 0
  { p with good := good, beyond := beyond, locked := (p.locked || good == 16) && beyond != 16 }
/-- A Sync at an instance: OFS from the origin and ingress stamps (corrections applied) in 1/16 ns. (DESIGN CHOICE, log entry 37) -/
def ptpSync (s : State) (h : Hub) (j : Nat) (t1 t2 : Int) : State :=
  let p := ptpOf s h j
  let p1 := if p.hasMpd then ({ p with ofs := t1 + p.mpd - (t2 - (ethLatency s h).2), hasOfs := true } : Ptp).judge (fld s F.ptpHoldStepNs) else p
  setPtp s h j { p1 with syncs := min (p1.syncs + 1) 16 }
/-- HOLDOVER once its hold has passed and 16 Syncs have come on the new path: re-estimate and slew (R470). -/
def reestimate (s : State) : State :=
  if s.servo.st = .holdover ∧ s.servo.elapsed = true ∧ 16 ≤ (selected s).syncs then requal (slewBy (setServo s .slewing) (selected s).ofs) else s
/-- The servo at a Sync of the selected instance. -/
def servoSync (s : State) : State :=
  let p := selected s
  match s.servo.st with
  | .free => if p.hasOfs then enterAcquiring s else s
  | .acquiring => if p.locked then enterLocked s else acquire s
  | .locked => if 16 ≤ p.beyond then enterAcquiring s else openIncr (slewBy s p.ofs)
  | .holdover => reestimate s
  | _ => s
/-- Whether another instance may be switched to in HOLDOVER (R470). -/
def autoSwitch (s : State) (h : Hub) (j : Nat) : Bool :=
  let p := ptpOf s h j
  s.servo.st == .holdover && fld s F.tbCtlAutoSwitch == 1 && p.locked &&
  (match p.jumpAt with | some t => decide (t + 1000000 * fld s F.ptpHoldHoldMs ≤ now s) | none => true) &&
  decide ((p.ofs - s.servo.ofsBefore).natAbs ≤ 16 * fld s F.ptpLimSwitchNs)
/-- A delay measurement: MPD in 1/16 ns, and a path jump (R470). (DESIGN CHOICE, log entry 37) -/
def ptpDelay (s : State) (h : Hub) (j : Nat) (t1 t2 t3 t4 : Int) : State :=
  let (tx, rx) := ethLatency s h
  let peerMech := fldAt s F.ptpCfgDelay 0 j 0 = 1
  let m : Int := if peerMech then ((t4 - rx) - (t1 + tx) - (t3 - t2)) / 2 else (((t2 - rx) - t1) + (t4 - (t3 + tx))) / 2
  let p := ptpOf s h j
  let d := (m - p.mpd).natAbs
  let jumps := p.hasMpd && decide (16 * fld s F.ptpLimPathchgNs < d)
  let p1 : Ptp := { p with mpd := m, hasMpd := true }
  if jumps then
    let s1 := setPtp s h j { p1 with jumpAt := some (now s), good := 0, locked := false }
    if s.active = some h ∧ tbSelect s = j ∧ s.servo.st ≠ .free ∧ s.servo.st ≠ .manual then enterHoldover s1 h d p.ofs else s1
  else setPtp s h j p1

/-- An instance takes messages of its domain and transport while it runs (R467). -/
def takesPtp (s : State) (j domain transport : Nat) : Bool :=
  fldAt s F.ptpCfgEnable 0 j 0 == 1 && fldAt s F.ptpCfgDomain 0 j 0 == domain && fldAt s F.ptpCfgTransport 0 j 0 == transport
def ptpAt (s : State) (h : Hub) (j : Nat) (m : PtpMsg) : State :=
  match m with
  | .sync t1 t2 =>
    let s1 := ptpSync s h j t1 t2
    if s.active ≠ some h then s1
    else if tbSelect s = j then requal (servoSync s1)
    else if autoSwitch s1 h j then switchTo s1 j ((ptpOf s1 h j).ofs - s1.servo.ofsBefore)
    else s1
  | .delay t1 t2 t3 t4 => ptpDelay s h j t1 t2 t3 t4
/-- PTP_MESSAGE_RECEIVE: a message of the transmitter that the best master clock algorithm chose, on a hub's port. -/
def execPtpMessageReceive (h : Hub) (domain transport : Nat) (m : PtpMsg) (s : State) : Out :=
  done (if s.phase ≠ .running ∨ firmwareRuns (hubOf s h) = false ∨ (hubOf s h).link = false then s
    else [0, 1].foldl (fun s j => if takesPtp s j domain transport then ptpAt s h j m else s) s)
/-- PTP_SYNC_LOSS: 3 s without a Sync of the selected instance, a jump of 0. -/
def execPtpSyncLoss (s : State) : Out :=
  done (match s.active with
    | none => s
    | some h =>
      if s.servo.st = .acquiring ∨ s.servo.st = .locked ∨ s.servo.st = .slewing then
        let s1 := setPtp s h (tbSelect s) { selected s with good := 0, locked := false }
        enterHoldover s1 h 0 (selected s).ofs
      else s)
/-- PTP_HOLD_EXPIRY. -/
def execPtpHoldExpiry (s : State) : Out :=
  done (if s.servo.st = .holdover ∧ s.active.isSome = true then reestimate { s with servo := { s.servo with elapsed := true } } else s)

/-! ### Registers (R465, R466, R471, R477) -/

/-- TB_INCR_LO written: it waits for TB_INCR_HI. (DESIGN CHOICE, log entry 37) -/
def tbIncrLoWrite (s : State) (v : Word) : State × Nat :=
  if servoOn s then (s, C.timeServoOwns) else ({ s with tb := { s.tb with incrLo := some v } }, C.ok)
def execTbIncrLoWrite (o : Origin) (v : Word) (s : State) : Out := done (regWriteRow s o false (fun s => tbIncrLoWrite s v))
/-- TB_INCR_HI written: both words are committed. -/
def tbIncrHiWrite (s : State) (v : Word) : State × Nat :=
  if servoOn s then (s, C.timeServoOwns)
  else
    let lo := match s.tb.incrLo with | some w => w.toNat | none => fld s F.tbIncrLoIncrLo
    let x := wfld v F.tbIncrHiIncrHi * 2 ^ 32 + lo
    if incrOk x then (setIncr { s with tb := { s.tb with incrLo := none } } x, C.ok) else (s, C.timeIncrRange)
def execTbIncrHiWrite (o : Origin) (v : Word) (s : State) : Out := done (regWriteRow s o false (fun s => tbIncrHiWrite s v))
/-- TB_ADJ written: a step at once, or a slew; either replaces a slew in progress. -/
def tbAdjWrite (s : State) (v : Word) : State × Nat :=
  if servoOn s then (s, C.timeServoOwns)
  else
    let d : Int := signedOf 30 (wfld v F.tbAdjOffset)
    if wfld v F.tbAdjStep = 1 then
      if (s.tb.total : Int) + d * 2 ^ 32 < 0 then (s, C.timeStepRefused) else (stepTime (slewBy s 0) (16 * d), C.ok)
    else (slewBy s (16 * d), C.ok)
def execTbAdjWrite (o : Origin) (v : Word) (s : State) : Out := done (regWriteRow s o false (fun s => tbAdjWrite s v))
/-- Whether a written SELECT may be granted (R471). -/
def selectOk (s : State) (j : Nat) : Bool :=
  match s.active with
  | none => false
  | some h => (ptpOf s h j).locked && decide (((ptpOf s h j).ofs - (selected s).ofs).natAbs ≤ 16 * fld s F.ptpLimSwitchNs)
/-- SERVO handed to the host or back (R465). -/
def servoHand (s : State) (on : Nat) : State :=
  if fld s F.tbCtlServo = on then s
  else
    let s1 := setFld s F.tbCtlServo on
    if on = 0 then requal (setServo s1 .manual)
    else servoAfresh (if (selected s1).hasOfs then s1 else setIncr s1 incrNominal)
/-- TB_CTL written: all its fields, or none where a switch asked for is refused. (DESIGN CHOICE, log entry 37) -/
def tbCtlWrite (s : State) (v : Word) : State × Nat :=
  let j := wfld v F.tbCtlSelect
  if j ≠ tbSelect s ∧ selectOk s j = false then (s, C.timeSwitchRefused)
  else
    let s1 := setFld (setFld s F.tbCtlAutoSwitch (wfld v F.tbCtlAutoSwitch)) F.tbCtlSlewPpm (clampNat 1 100 (wfld v F.tbCtlSlewPpm))
    let s2 := servoHand s1 (wfld v F.tbCtlServo)
    let s3 := if j = tbSelect s then s2 else switchTo s2 j (match s.active with
      | some h => (ptpOf s h j).ofs - (selected s).ofs
      | none => 0)
    (keptChanged s3, C.ok)
def execTbSelectWrite (o : Origin) (v : Word) (s : State) : Out := done (regWriteRow s o false (fun s => tbCtlWrite s v))
def execTbServoWrite (o : Origin) (v : Word) (s : State) : Out := done (regWriteRow s o false (fun s => tbCtlWrite s v))
/-- TB_SEC_LO read: the other words of the same instant are latched. -/
def tbSecLoRead (s : State) : State × Word :=
  ({ s with tb := { s.tb with latchHi := BitVec.ofNat 32 (s.tb.sec / 2 ^ 32), latchNs := BitVec.ofNat 32 s.tb.ns,
                              latchFrac := BitVec.ofNat 32 (s.tb.frac / 65536) } }, BitVec.ofNat 32 s.tb.sec)
def execTbSecLoRead (o : Origin) (s : State) : Out := done (regReadRow s o false tbSecLoRead)

/-! ### Between modules (R472, R473) -/

/-- The limit of this module in ns (R472). (DESIGN CHOICE, log entry 38) -/
def ownLimit (s : State) : Nat := if s.servo.st = .locked then 10 + fld s F.ptpBoundBaseNs else fld s F.tbQualBound
/-- The latency from a link's far end to this module in 10 ps (R381): the fibre time, the sender's transmit latency as its
IDENT gave it, and the receiver's receive latency. -/
def wayLatency (s : State) (key : Nat) (l : Link) : Nat :=
  let c := l.chans.headD 0
  fldAt s F.fabTofTof 0 (key / 16) c + (match identOf s (key / 16) c with | some i => i.txLat | none => 0) + Config.latency (key / 16) 1
/-- LINK_TIME_EXCHANGE: a TIME flit sent at `tx` by the neighbour's time and received at `rx` by this module's, in 10 ps, with
the neighbour's limit in ns; this module sends its own. (DESIGN CHOICE, log entry 38) -/
def execLinkTimeExchange (key tx rx limit : Nat) (s : State) : Out :=
  done (match linkOf s key with
    | none => s
    | some l =>
      if s.phase ≠ .running ∨ l.st ≠ .up ∨ l.tofDone = false then s
      else
        let s0 := sendLink s key (.time (now s * 100))
        let d : Int := ((tx + wayLatency s key l : Nat) : Int) - rx
        let n := SMap.getD s.fab.nbr key ⟨0, 0, false⟩
        let worst := d.natAbs / 100
        let s1 := if fld s0 F.tbNbrWorstOffset < worst then setFld (setFld s0 F.tbNbrWorstOffset (min worst (2 ^ 27 - 1))) F.tbNbrWorstPort (key / 16) else s0
        let out := decide (100 * (ownLimit s + limit) < d.natAbs)
        let n1 : Nbr := { offset := 10 * d, beyond := if out then min (n.beyond + 1) 8 else 0, reported := out && n.reported }
        let tell := n1.beyond == 8 && !n1.reported
        let s2 : State := { s1 with fab := { s1.fab with nbr := SMap.insert s1.fab.nbr key { n1 with reported := n1.reported || tell } } }
        if tell then hubReport (setEvent s2 F.tbEventNbr) C.timeNbrDisagree [] else s2)

end Sys2Proof.Machine
end

