-- ==== Sys2Proof/Machine/HubOps.lean ====
section
/-!
DEFINITION. The two hubs as shared operations (R480 to R492, R505, R514): stopping to act, failing, synchronising, and taking
over.
-/
namespace Sys2Proof.Machine
open Sys2Proof

def modHub (s : State) (h : Hub) (f : HubSt → HubSt) : State := setHub s h (f (hubOf s h))
/-- A hub asks the arbiter to look at it (R486). -/
def raiseIbi (s : State) (h : Hub) : State := emit s (.ibi h)
/-- Whether a hub's HEALTH line toggles (R484). -/
def healthToggles (x : HubSt) : Bool := x.health != .restarting && x.health != .failed
/-- Whether a hub stands by: its firmware runs, it is not in recovery, and it is not the active one. -/
def standsBy (s : State) (h : Hub) : Bool := firmwareRuns (hubOf s h) && (hubOf s h).health != .recovery && s.active != some h

/-- A write in progress to the standby's flash is abandoned: its image is not whole (R495, R514). -/
def abandonUpdate (s : State) (standby : Hub) : State :=
  let s1 := if s.fw.step = 2 then modHub s standby (fun x => { x with fw := { x.fw with valid := false } }) else s
  { s1 with fw := { s1.fw with step := 0, image := none } }

/-- A hub no longer acts as active (R481): it stands by, its copy of the state as it is. -/
def stopActive (s : State) (h : Hub) : State :=
  if s.active ≠ some h then s
  else
    let s1 := abandonUpdate (abortCapture s h) (peer h)
    modHub { s1 with active := none, sec := { s1.sec with attesting := none } } h
      (fun x => { x with health := if firmwareRuns x then .standbyUnsync else x.health })

/-- The standby is no longer synchronised. -/
def loseSync (s : State) (standby : Hub) : State :=
  let s1 := modHub s standby (fun x => { x with current := false })
  if s.synced then setEvent { s1 with synced := false } F.redEventUnsync else s1

/-- What a hub's restart loses: its recorder's holding ring (R505), its PTP instances, its servo engine's loops and inputs. -/
def Recorder.restart (c : Recorder) : Recorder :=
  { c with degraded := false, holding := [], cursor := c.nextSeq, wState := 2, wLen := 0, win := [], added := false }
def HubSt.restart (x : HubSt) (code : Health) : HubSt :=
  { x with health := code, current := false, isolated := false, recorder := x.recorder.restart, ptp := [Ptp.reset, Ptp.reset] }
def Servo.restart (g : Servo) : Servo :=
  { Servo.reset with params := g.params.filter (fun e => !(e.1 / 536870912 == 3 && decide (0x48 ≤ e.1 / 65536 % 256))) }

/-- A hub fails: FAILED, its HEALTH line stops, it restarts (R484, R490, R492). -/
def hubFail (s : State) (h : Hub) : State :=
  if firmwareRuns (hubOf s h) = false then s
  else
    let s1 := if s.active = some h then stopActive s h else loseSync (abandonUpdate s h) h
    let s2 := modEng (modHub s1 h (fun x => x.restart .failed)) h Servo.restart
    setEvent { s2 with last := if s2.last = some h then none else s2.last } F.redFaultHubFailed

/-- Whether the peer of the active hub can be synchronised: it stands by, the cross-link is up, and its replication format is
the active hub's (R488, R495). -/
def canSync (s : State) (h : Hub) : Bool :=
  standsBy s (peer h) && s.xlink && (hubOf s (peer h)).running.repl == (hubOf s h).running.repl
/-- The standby copies the whole replicated state, and says so (R514). -/
def trySync (s : State) : State :=
  match s.active with
  | none => s
  | some h =>
    if s.synced || !canSync s h then s
    else
      let s1 := modHub { s with synced := true } (peer h) (fun x => { x with health := .standbySync, current := true, isolated := false })
      hubReport (setEvent (syncEngines s1) F.redEventSync) C.hubSync []

/-- Reports held by their parts while no hub was active (R35). -/
def tellHeld (s : State) : State := s.heldReports.foldl fileReport { s with heldReports := [] }

/-- Requests that the failed hub had accepted and not answered are executed when the host sends them again (R457). (DESIGN CHOICE, log entry 39) -/
def Session.reopen (x : Session) : Session :=
  { x with busy := false, backlog := [], lastSeq := if x.cached.isSome then x.lastSeq else x.lastSeq - 1 }
/-- A load ended by a failover: what it placed is wiped, and the evictions that it asked for go on (R105). -/
def abandonLoad (s : State) (slot : Nat) (b : Bundle) : State :=
  let s1 := dropBundle s slot
  let r : Report := ⟨C.loadAbandoned, srcActive s, handleOf slot b, [], true, true, false, s.tb.sec, s.tb.ns, s.tb.frac / 65536, uncertain s⟩
  setEvent { s1 with pl := { s1.pl with abandoned := s1.pl.abandoned ++ [r] }, stages := s1.stages.filter (fun g => g.id != b.stage) } F.bndEventAbandoned
/-- DESIGN CHOICE, log entry 39. -/
def abandonLoads (s : State) : State :=
  let s1 := s.pl.slots.foldl (fun s e => if e.2.st = .loading ∨ e.2.st = .planWait then abandonLoad s e.1 e.2 else s) s
  { s1 with pl := { s1.pl with queue := [], ready := [], busy := none } }
/-- An eviction or a load that the failed hub was to answer has no caller any more. -/
def dropCallers (s : State) : State :=
  { s with pl := { s.pl with slots := s.pl.slots.map (fun e => (e.1, { e.2 with reply := none })) } }
/-- The governor resumes with empty windows (R319). -/
def emptyWindows (s : State) : State :=
  { s with pl := { s.pl with slots := s.pl.slots.map (fun e => (e.1, { e.2 with slacks := [], sinceRaise := 0 })) } }
/-- What the sampling buffer held is lost (R512). -/
def emptySamples (s : State) : State := { s with sampling := { s.sampling with buffer := [] } }

/-- A takeover of either kind: loads end, the buffer and the windows are emptied, the last report of attestation is lost. (DESIGN CHOICE, log entry 39) -/
def takeOver (s : State) (h : Hub) : State :=
  let s1 := dropCallers (emptySamples (emptyWindows (abandonLoads s)))
  let s2 : State := { s1 with sessions := s1.sessions.map Session.reopen, partials := [], sec := { s1.sec with attesting := none, attReport := [] },
                              fw := { s1.fw with step := 0, image := none } }
  servoTakeover s2 h
/-- DESIGN CHOICE, log entry 39. -/
def warmTakeover (s : State) (h : Hub) : State :=
  tellAbandoned (takeOver (hubReport (setEvent s F.redEventFailover) C.hubFailover []) h)
/-- Retained state applied by a hub that lacks the replicated state (R491 step 1). -/
def applyKept (s : State) (h : Hub) : State :=
  let src (g : Nat) : Option Retained := (groupSource s.sec g).1
  let put (s : State) (g : Nat) : State := match src g with
    | none => s
    | some c =>
      let drop (m : SMap Word) (e : Nat × Word) : SMap Word := match regAt e.1 with
        | some r => if groupAt e.1 = g then SMap.setD m e.1 (mergeFields (r.reg.ofKind .kept) e.2 (resetWord s.ident.fm2 r)) (resetWord s.ident.fm2 r) else m
        | none => m
      let add (m : SMap Word) (e : Nat × Word) : SMap Word := match regAt e.1 with
        | some r => if groupAt e.1 = g then
            SMap.setD m e.1 (mergeFields (r.reg.ofKind .kept) (SMap.getD m e.1 (resetWord s.ident.fm2 r)) e.2) (resetWord s.ident.fm2 r) else m
        | none => m
      { s with regs := c.kept.foldl add (s.regs.foldl drop s.regs) }
  let s1 := retGroups.foldl put s
  modEng s1 h (fun g => { g with params := match src 9 with | some c => c.params | none => g.params })
/-- Bundles whose state lay in the failed hub alone (R491 step 4). -/
def faultEvicted (s : State) : State :=
  s.pl.slots.foldl (fun s e => if e.2.st = .evicting ∨ e.2.st = .evicted then faultWith s e.1 C.hubColdTakeover (srcActive s) [] else s) s
/-- DESIGN CHOICE, log entry 39. -/
def coldTakeover (s : State) (h : Hub) : State :=
  let s1 := faultEvicted (applyKept (hubReport (setEvent s F.redEventCold) C.hubColdTakeover []) h)
  let s2 := takeOver s1 h
  let s3 := { s2 with sessions := [], stages := [] }
  loopIds.foldl (fun s i => if (engOf s h).closed i then coldOpen s h i else s) s3

/-- The first record of a power-up (R500), and the loss of REFCLK that led to a start (R563). (DESIGN CHOICE, log entry 42) -/
def bootRecords (s : State) : State :=
  let s1 := if fld s F.secResetCauseCause = 0 then
      reportNow s C.recBoot (srcActive s) 0xFFFF (d4 s.ha.running.version ++ d4 s.hb.running.version) false true else s
  if fld s F.elecStatRefclkCause = 1 then reportNow s1 C.elecRefclkLost (srcActive s) 0xFFFF [] false true else s1
/-- The end of a start (R523 step 6, R524 step 4): the wipes have ended, BOOT_DONE is set. -/
def bootDone (s : State) : State :=
  setFld (bootRecords { s with dies := s.dies.map (fun d => { d with stks := d.stks.map (fun k => { k with wiping := false }) }) }) F.secStatBootDone 1
/-- Whether a hub may begin to act as active (R481, R482, R484). -/
def mayAct (s : State) (h : Hub) : Bool :=
  decide (s.phase = .running) && s.active.isNone && (hubOf s h).lease && !(hubOf s h).conflict && firmwareRuns (hubOf s h) &&
  (hubOf s h).health != .recovery && !isShut s (.hub (hubIndex h))
/-- A hub acts as active: it ends a start, resumes, or takes over; held reports are made; what waits for a hub goes on. (DESIGN CHOICE, log entry 39) -/
def becomeActive (s : State) (h : Hub) : State :=
  let cur := (hubOf s h).current
  let s1 := modHub { s with active := some h, last := some h, synced := false } h (fun x => { x with health := .active, current := true, isolated := false })
  let s2 := if fld s F.secStatBootDone = 0 then bootDone s1
    else if s.last = some h then s1
    else if cur then warmTakeover s1 h
    else coldTakeover s1 h
  let s3 := tellHeld (servoAfresh (modHub s2 (peer h) (fun x => { x with current := false })))
  let s4 := (List.range s.ident.engines).foldl announceAll (finishRecable (s3.pl.retired.foldl (fun s e => moveRetired s e.1) (resettle s3)))
  trySync s4

end Sys2Proof.Machine
end

