-- ==== Sys2Proof/Machine/Boot.lean ====
section
/-!
DEFINITION. Resets and starts (R256, R520 to R525, R543 to R545), and the electrical interface (R551 to R553, R558, R561, R563).
-/
namespace Sys2Proof.Machine
open Sys2Proof

/-! ### Debug grants end (R540) -/

/-- The grant accepted ends, and its end is recorded; so does one that another replaces. (DESIGN CHOICE, log entry 46) -/
def endGrant (s : State) : State :=
  match s.sec.grant with
  | none => s
  | some _ => reportNow { s with sec := { s.sec with grant := none } } C.secGrantEnded (srcActive s) 0xFFFF [] false true

/-! ### What every reset does (R521) -/

/-- A stack at a start: its wipe runs; its repair map stays (R254). -/
def Stack.restart (k : Stack) : Stack := { Stack.wiped with repaired := k.repaired }
def Die.restart (d : Die) : Die := { dlq := [], stks := d.stks.map Stack.restart }
/-- A calibrated item through a warm reset (R408, R410): its values stay, its run ends, and it is due only for want of measured or
restored values. -/
def CalItem.restart (x : CalItem) : CalItem :=
  let y := { x with running := false, asked := false, hot := false, again := false }
  { y with due := y.isDue }
/-- A hub at a reset: its firmware starts again, its port is idle. (DESIGN CHOICE, log entry 40) -/
def HubSt.reboot (x : HubSt) : HubSt :=
  { x.restart .restarting with link := false, ethDown := false, i3cDynamic := none,
                               recorder := { x.recorder.restart with mirrorQ := x.recorder.mirrorQ, suppressed := [] } }

/-- Bundles, sessions, counters, memory and everything else that no reset keeps. (DESIGN CHOICE, log entry 53) -/
def dropVolatile (s : State) : State :=
  { s with
    sessions := [], stages := [], sessionNext := 0, partials := [], untagged := (0, 0)
    pl := { s.pl with slots := [], queue := [], ready := [], busy := none, reuse := [], loads := 0, abandoned := [], ceWindow := [] }
    dies := s.dies.map Die.restart, remembered := List.replicate 4 []
    counts := [], sampling := { slots := List.replicate 8 ⟨[]⟩, buffer := [], lost := 0, lostBefore := false, nextSeq := 0 }
    ha := s.ha.reboot, hb := s.hb.reboot, active := none, last := none, xlink := true, synced := false, heldReports := []
    roceRate := 100000
    sec := { s.sec with stagedKey := [], stagedKind := none, grantWords := [], attesting := none, attReport := [] }
    pace := { s.pace with setting := [], curve := [], shut := [], high := [], sampled := [], share := [],
                          lateSec := 0, lateMade := 0, lateHeld := 0 }
    fab := { s.fab with links := [], waiting := [], recable := .idle, changing := [], bypassed := [], absent := [],
                        unplanned := [], ident := [], nbr := [], tofWait := [], recut := [] }
    engA := s.engA.restart, engB := s.engB.restart, drivers := { pins := [], gens := [] }
    servo := { st := .free, jump := 0, since := 0, ofsBefore := 0, elapsed := false, stepped := false } }
/-- A warm reset's part: calibration values, the time-base and the light paths through the module stay. (DESIGN CHOICE, log entry 53) -/
def warmKept (s : State) : State :=
  { s with regs := resetRegs s.ident.fm2 [.kept, .cold] s.regs
           cal := { s.cal with items := s.cal.items.map (fun e => (e.1, e.2.restart)), staged := [], mismatch := [], means := [], since := calSec s }
           tb := { s.tb with slew := 0, incrLo := none } }
/-- A cold reset's part: calibration values as the factory measured them, time 0, every pair THROUGH and unlit. SEC_RET_SRC takes its
reset value too: 0 for every group, also at a start that loads no retained state. (DESIGN CHOICE, log entry 53) -/
def coldLost (s : State) : State :=
  { s with regs := resetRegs s.ident.fm2 [.kept] s.regs, cal := Calib.reset
           tb := { sec := 0, ns := 0, frac := 0, slew := 0, incrLo := none, latchHi := 0, latchNs := 0, latchFrac := 0 }
           optics := s.optics.map coldOptic, fab := { s.fab with inForce := [] }
           pace := { s.pace with energy := 0, energyHi := 0, brakeCur := false, brakePow := false, brakeDies := [] } }
/-- An update that a reset cuts short (R545), and the grant, end first. -/
def endWork (s : State) : State :=
  let s1 := endGrant s
  let standby := match s1.active with | some h => peer h | none => .hb
  abandonUpdate s1 standby

/-- A warm reset (R520, R524): both hubs restart, the pins are released, lanes terminated locally go dark and relight. (DESIGN CHOICE, log entry 53) -/
def warmReset (s : State) (cause : Nat) : State :=
  let s1 := (List.range s.ident.engines).foldl warmOptic (dropVolatile (warmKept (endWork s)))
  setFld s1 F.secResetCauseCause cause
/-- What RST_N low, a lost REFCLK and a loss of power do alike. (DESIGN CHOICE, log entry 53) -/
def coldReset (s : State) (p : Phase) : State := { dropVolatile (coldLost (endWork s)) with phase := p }

/-! ### Starts (R523, R529, R532, R544) -/

/-- The boot ROM's check of a hub's image (R532); a hub whose image fails runs the recovery path (R495). -/
def bootHub (s : State) (h : Hub) : State :=
  let x := hubOf s h
  let ok := x.fw.valid && decide (s.sec.svnMin ≤ x.fw.svn)
  let s1 := setHub s h { x with running := x.fw, recovery := !ok, health := if ok then .standbyUnsync else .recovery }
  if ok then s1 else report s1 C.fwRecovery (srcHub h) 0xFFFF []
/-- The functions that the test access port offers in a life-cycle state (R559). -/
def tapOffers (lc : LifeCycle) (f : TapFn) : Bool := f != .other || lc == .manufacturing
/-- The test access port asked for a function (R559): one that is closed is not taken up, as BYPASS stands in its place. No row of the
command table asks for one. (PRESUMED, log entry 60) -/
def tapSelect (s : State) (f : TapFn) : State :=
  { s with elec := { s.elec with tap := if tapOffers s.sec.lc f then f else .bypass } }

/-- Step 2 of a life-cycle transition (R543): retained state and grant numbers are erased, the key table too except on the way
from Provisioned to Field; on entry into Provisioned or Return a new identity key is generated. -/
def lcErase (s : State) (dest_ : LifeCycle) : State :=
  let keep := s.sec.lc == .provisioned && dest_ == .field
  { s with
    sec := { s.sec with lc := dest_, incomplete := none, retA := Retained.empty, retB := Retained.empty, retPending := false, grantMax := none
                        keys := if keep then s.sec.keys else List.replicate 16 ⟨0, []⟩
                        idGen := if dest_ = .provisioned ∨ dest_ = .returned then s.sec.idGen + 1 else s.sec.idGen }
    regs := resetRegs s.ident.fm2 [.cold, .warm] s.regs
    pl := { s.pl with retired := [] }, fab := { s.fab with active := [], shadow := [] }
    elec := { s.elec with tap := if tapOffers dest_ s.elec.tap then s.elec.tap else .bypass }
    engA := { s.engA with params := [] }, engB := { s.engB with params := [] } }
/-- A transition that a loss of power or RST_N cut short is completed (R544). -/
def lcResume (s : State) : State := match s.sec.incomplete with | some dest_ => lcErase s dest_ | none => s
/-- Operating time, the cycle count and retained state at a power-up (R500, R502, R529); the shadow book is a copy of the active one
(R374). -/
def powerLoad (s : State) : State :=
  let s1 := applyRet { s with optime := s.optimeSaved, cycles := (s.cycles + 1) % 2 ^ 24 }
  { s1 with fab := { s1.fab with shadow := s1.fab.active } }
/-- A start, once power, RST_N and REFCLK allow it: images checked, firmware running, every loop OPEN at SAFE; `clk` when the
return of REFCLK alone released it (R563). (DESIGN CHOICE, log entry 54) -/
def startUp (s : State) (clk : Bool) : State :=
  if s.phase ≠ .resetHeld ∨ s.elec.rstLow = true ∨ s.elec.clkLost = true ∨ s.elec.off = true then s
  else
    let s1 := lcResume { s with phase := .running, elec := { s.elec with fresh := false } }
    let s2 := if s.elec.fresh then powerLoad s1 else s1
    let s3 := safeAll (bootHub (bootHub s2 .ha) .hb) .ha
    setFld (setFld s3 F.secResetCauseCause (if s.elec.fresh then 0 else 1)) F.elecStatRefclkCause (b2n (clk && !s.elec.fresh))

/-- Every domain loses power (R551): uncommitted changes of kept fields are lost. (DESIGN CHOICE, log entry 4; DESIGN CHOICE, log entry 54) -/
def powerOff (s : State) : State :=
  if s.phase = .unpowered then s
  else
    let s1 := coldReset s .unpowered
    { s1 with elec := { s1.elec with off := true, fresh := true, tap := .idcode }, sec := { s1.sec with retPending := false } }

/-- POWER_UP: the internal bus reaches 30 V; `badA`, `badB` the groups whose record in a copy fails its check, `badLc` whether
the life-cycle record does, `badFw` the hubs whose image was damaged while unpowered. (DESIGN CHOICE, log entry 54) -/
def execPowerUp (badA badB : List Nat) (badLc : Bool) (badFw : List Hub) (s : State) : Out :=
  done (
    if s.phase ≠ .unpowered ∨ s.elec.latched = true then s
    else
      let mark (x : HubSt) (h : Hub) : HubSt := { x with fw := { x.fw with valid := x.fw.valid && !badFw.contains h } }
      let s1 : State := { s with
        phase := .resetHeld, elec := { s.elec with off := false, fresh := true }
        ha := mark s.ha .ha, hb := mark s.hb .hb
        sec := { s.sec with retA := { s.sec.retA with bad := s.sec.retA.bad ++ badA }, retB := { s.sec.retB with bad := s.sec.retB.bad ++ badB }
                            incomplete := if badLc then some .returned else s.sec.incomplete } }
      startUp s1 false)
/-- RST_N_ASSERT. -/
def execRstNAssert (s : State) : Out :=
  done (
    let s1 := if s.phase = .running then coldReset s .resetHeld else s
    { s1 with elec := { s1.elec with rstLow := true } })
/-- RST_N_RELEASE. -/
def execRstNRelease (s : State) : Out := done (startUp { s with elec := { s.elec with rstLow := false } } false)

/-! ### Input power (R551 to R553) -/

/-- UNDERVOLTAGE_OFF: the lowest voltage in mV; below 25 V it also releases a latched input switch (R314). (DESIGN CHOICE, log entry 54) -/
def execUndervoltageOff (mv : Nat) (s : State) : Out :=
  done (
    let s1 := powerOff s
    if mv < 25000 then { s1 with elec := { s1.elec with latched := false } } else s1)
/-- OVERVOLTAGE_OFF. (DESIGN CHOICE, log entry 54) -/
def execOvervoltageOff (s : State) : Out := done (powerOff s)
/-- INPUT_DIP: a dip within the ride-through, its lowest voltage in mV; reported at most once per second. (DESIGN CHOICE, log entry 54) -/
def execInputDip (mv : Nat) (s : State) : Out :=
  done (
    if s.phase = .unpowered then s
    else
      let s1 := vminSeen (satFldAt s F.elecStatDips 0 0 0 1) mv
      if s.phase ≠ .running ∨ s.elec.dipSecond = some s.tb.sec then s1
      else hubReport { s1 with elec := { s1.elec with dipSecond := some s.tb.sec } } C.elecInputDip (d4 mv))
/-- INPUT_WARNING_BAND_ENTRY. -/
def execInputWarningBandEntry (mv : Nat) (s : State) : Out :=
  done (if s.phase = .unpowered then s
    else
      let s1 := vminSeen (setFld s F.elecStatOutOfRange 1) mv
      if s.phase = .running then hubReport s1 C.elecInputRange (d4 mv) else s1)
/-- INPUT_WARNING_BAND_EXIT: back in the operating range. -/
def execInputWarningBandExit (s : State) : Out := done (if s.phase = .unpowered then s else setFld s F.elecStatOutOfRange 0)

/-! ### REFCLK (R563) -/

/-- REFCLK_LOSS. (DESIGN CHOICE, log entry 54) -/
def execRefclkLoss (s : State) : Out :=
  done (
    let s1 := if s.phase = .running then coldReset s .resetHeld else s
    { s1 with elec := { s1.elec with clkLost := true } })
/-- REFCLK_RESTORE. -/
def execRefclkRestore (s : State) : Out := done (startUp { s with elec := { s.elec with clkLost := false } } s.elec.clkLost)

/-! ### I3C addresses (R558) -/

/-- A hub's static I3C address, and its provisional identifier. -/
def staticAddr (h : Hub) : Nat := 0x2A + hubIndex h
def provisionalId (s : State) (h : Hub) : Nat := s.ident.serial % 2 ^ 32 + hubIndex h * 2 ^ 32
/-- I3C_SETDASA: a dynamic address for the target of a static address. (DESIGN CHOICE, log entry 40) -/
def execI3cSetdasa (static dyn : Nat) (s : State) : Out :=
  done (if s.phase ≠ .running then s
    else [Hub.ha, Hub.hb].foldl (fun s h =>
      if staticAddr h = static ∧ firmwareRuns (hubOf s h) = true ∧ (hubOf s h).i3cDynamic.isNone = true then modHub s h (fun x => { x with i3cDynamic := some dyn }) else s) s)
/-- I3C_ENTDAA: the arbitration goes to the lowest provisional identifier among the hubs without a dynamic address. (DESIGN CHOICE, log entry 40) -/
def execI3cEntdaa (dyn : Nat) (s : State) : Out :=
  done (if s.phase ≠ .running then s
    else
      let free := [Hub.ha, Hub.hb].filter (fun h => firmwareRuns (hubOf s h) && (hubOf s h).i3cDynamic.isNone)
      match free.find? (fun h => free.all (fun k => decide (provisionalId s h ≤ provisionalId s k))) with
      | some h => modHub s h (fun x => { x with i3cDynamic := some dyn })
      | none => s)

end Sys2Proof.Machine
end

