-- ==== Sys2Proof/Machine/HubRows.lean ====
section
/-!
DEFINITION. Commands of the hubs (R447 to R449, R480 to R495, R514): leases, health, firmware, and the Ethernet ports.
-/
namespace Sys2Proof.Machine
open Sys2Proof

/-! ### Leases (R480 to R482) -/

/-- LEASE_RENEWAL: a low pulse, or a rising edge, of a line that grants the lease. -/
def execLeaseRenewal (h : Hub) (s : State) : Out :=
  done (let x := hubOf s h
    if x.line && !x.conflict then setHub s h { x with lease := true } else s)

/-- A conflict of the two lines (R482). -/
def leaseConflict (s : State) : State := hubReport (setEvent s F.redFaultConflict) C.hubLeaseConflict []
/-- A line rises: the lease is gained, or the line is treated as not granted while the other is high. -/
def lineRise (s : State) (h : Hub) : State :=
  if (hubOf s h).line then s
  else if (hubOf s (peer h)).line then leaseConflict (modHub s h (fun x => { x with line := true, conflict := true }))
  else modHub s h (fun x => { x with line := true, lease := true, conflict := false })
/-- LEASE_LINE_RISE: the lines that rise at this instant. (DESIGN CHOICE, log entry 40) -/
def execLeaseLineRise (a b : Bool) (s : State) : Out :=
  done (
    if a && b && !s.ha.line && !s.hb.line then
      let s1 := (match s.active with | some h => stopActive s h | none => s)
      leaseConflict (modHub (modHub s1 .ha (fun x => { x with line := true, lease := false, conflict := true })) .hb
        (fun x => { x with line := true, lease := false, conflict := true }))
    else
      let s1 := if a then lineRise s .ha else s
      if b then lineRise s1 .hb else s1)

/-- LEASE_LINE_LOW: a line has stayed low for more than 20 µs. A line that was treated as not granted beside it is granted. -/
def execLeaseLineLow (h : Hub) (s : State) : Out :=
  done (
    let s1 := stopActive (modHub s h (fun x => { x with line := false, lease := false, conflict := false })) h
    modHub s1 (peer h) (fun x => if x.conflict then { x with conflict := false, lease := true } else x))

/-- LEASE_LAPSE: 500 ms since the last renewal; with both lapsed the drivers go to SAFE and it is recorded (R35, R440, R490). (DESIGN CHOICE, log entry 5; DESIGN CHOICE, log entry 39) -/
def execLeaseLapse (h : Hub) (s : State) : Out :=
  done (
    if (hubOf s h).lease = false then s
    else
      let s1 := stopActive (modHub s h (fun x => { x with lease := false })) h
      if (hubOf s1 (peer h)).lease then s1
      else hubReport (setEvent (pinsSafe s1) F.redEventLapsed) C.hubLeaseLapsed [])

/-- HUB_BECOME_ACTIVE. (DESIGN CHOICE, log entry 5; DESIGN CHOICE, log entry 39) -/
def execHubBecomeActive (h : Hub) (s : State) : Out := done (if mayAct s h then becomeActive s h else s)

/-! ### Health (R483, R484, R490, R492) -/

/-- HEARTBEAT_LOSS: a hub has received no heartbeat for 1 ms, and reports it; `isolate` once a hub without the lease has been
without it for 1 ms more. The cross-link has failed where the peer's firmware runs. (DESIGN CHOICE, log entry 40) -/
def execHeartbeatLoss (h : Hub) (isolate : Bool) (s : State) : Out :=
  done (
    if firmwareRuns (hubOf s h) = false ∨ s.phase ≠ .running ∨ (hubOf s h).health = .recovery then s
    else
      let s1 := if firmwareRuns (hubOf s (peer h)) then { s with xlink := false } else s
      if s.active = some h then
        let lost := (hubOf s (peer h)).current
        let s2 := raiseIbi (modHub (loseSync s1 (peer h)) h (fun x => { x with health := .hbLost })) h
        if lost then hubReport s2 C.hubUnsync [] else s2
      else if isolate then
        if (hubOf s h).health = .hbLost then modHub (loseSync s1 h) h (fun x => { x with isolated := true, health := .standbyUnsync }) else s1
      else raiseIbi (modHub s1 h (fun x => { x with health := .hbLost })) h)

/-- What a recorder could not queue for its peer (R500). -/
def mirrorGap (s : State) (h : Hub) : State :=
  let c := (hubOf s h).recorder
  if c.mirrorDropped = 0 then s
  else
    let r : Report := ⟨C.recMirrorGap, srcHub h, 0xFFFF, d4 c.mirrorDropped, false, true, false, s.tb.sec, s.tb.ns, s.tb.frac / 65536, uncertain s⟩
    modHub s h (fun x => { x with recorder := { c with mirrorQ := c.mirrorQ ++ [recordOf s h r], mirrorDropped := 0 } })
/-- CROSSLINK_RETURN: heartbeats go again; the standby copies the replicated state (R514). -/
def execCrosslinkReturn (s : State) : Out :=
  done (
    if s.phase ≠ .running then s
    else
      let back (x : HubSt) (active : Bool) : HubSt :=
        { x with isolated := false, health := if x.health = .hbLost then (if active then .active else .standbyUnsync) else x.health }
      let s1 : State := { s with xlink := true, ha := back s.ha (s.active == some .ha), hb := back s.hb (s.active == some .hb) }
      trySync (mirrorGap (mirrorGap s1 .ha) .hb))

/-- WATCHDOG_EXPIRY: a warm reset instead, where WDOG_RESET is 1, the hub holds the lease and the other's HEALTH line is still. -/
def execWatchdogExpiry (h : Hub) (s : State) : Out :=
  done (
    if s.phase ≠ .running ∨ firmwareRuns (hubOf s h) = false then s
    else if fld s F.redCtlWdogReset = 1 ∧ (hubOf s h).lease = true ∧ healthToggles (hubOf s (peer h)) = false then warmReset s 3
    else hubFail s h)
/-- HUB_SELF_CHECK_FAIL. -/
def execHubSelfCheckFail (h : Hub) (s : State) : Out := done (if s.phase ≠ .running then s else hubFail s h)

/-- HUB_RESTART_COMPLETE: the hub's image is checked and runs; it rejoins as standby, and an update that waited for it ends
(R492, R494 step 3, R495, R524 step 2). -/
def execHubRestartComplete (h : Hub) (s : State) : Out :=
  done (
    if s.phase ≠ .running ∨ firmwareRuns (hubOf s h) = true ∨ isShut s (.hub (hubIndex h)) = true then s
    else
      let first := fld s F.secStatBootDone = 0 ∧ firmwareRuns (hubOf s (peer h)) = false
      let s1 := bootHub s h
      let s2 := trySync (if first then safeAll s1 h else s1)
      if s.fw.step = 3 ∧ s2.active.isSome = true ∧ s2.active ≠ some h ∧ (hubOf s2 h).health ≠ .recovery then
        hubReport { s2 with fw := { s2.fw with step := 0, last := C.ok, image := none } } C.fwUpdated (d4 (hubOf s2 h).running.version)
      else s2)

/-! ### Firmware update (R493 to R495, R530, R532) -/

/-- An image as it was staged: its header's fields, or none where it fails its check. (DESIGN CHOICE, log entry 41) -/
def checkImage (s : State) (b : List Byte) : Option FwImage :=
  let n := fieldLE b 12 4
  let body := b.drop 7936
  let k := fieldLE b 7 1
  let pub := slice b 48 32
  if slice b 0 4 = [0x5A#8, 0x46#8, 0x57#8, 0x31#8] ∧ b.length = 7936 + n ∧ b.length ≤ 33554432 ∧ k < 4 ∧ Config.fwKeyRevoked k = false ∧
     sha256 pub = Config.fwKeyHash k ∧ Config.slhVerify pub (slice b 0 80) (slice b 80 7856) = true ∧ slice b 16 32 = sha256 body ∧
     s.sec.svnMin ≤ fieldLE b 8 4 then
    some ⟨fieldLE b 4 2, fieldLE b 6 1, fieldLE b 8 4, true, sha256 (b.take 7936 ++ body)⟩
  else none
def setFw (s : State) (f : FwUpdate → FwUpdate) : State := { s with fw := f s.fw }
/-- The stage that a write of RED_FW_CMD names: the writing session's (R494). (DESIGN CHOICE, log entry 41) -/
def fwStage (s : State) (o : Origin) (id : Nat) : Option (List Byte) :=
  match o with
  | .session n => (s.stages.find? (fun g => g.id == id && g.session == n)).map Stage.data
  | .i3c _ => none
/-- WRITE_STANDBY accepted: the image is verified. (DESIGN CHOICE, log entry 41) -/
def fwWriteCmd (s : State) (o : Origin) (v : Word) : State × Nat :=
  match s.active with
  | none => (s, C.ok)
  | some h =>
    if s.fw.step ≠ 0 ∨ firmwareRuns (hubOf s (peer h)) = false then (s, C.fwBusy)
    else match (fwStage s o (wfld v F.redFwCmdStage)).bind (checkImage s) with
      | none => (setFw s (fun f => { f with last := C.fwImageBad }), C.fwImageBad)
      | some im => (setFw s (fun _ => { step := 1, last := C.ok, image := some im, stage := wfld v F.redFwCmdStage }), C.ok)
/-- The update goes on by itself: writing begins, the image is written and read back and the standby restarts on it. -/
def fwAdvance (s : State) : State :=
  match s.active, s.fw.image with
  | some h, some im =>
    if s.fw.step = 1 then setFw s (fun f => { f with step := 2 })
    else if s.fw.step = 2 then
      let s1 := loseSync (setFw s (fun f => { f with step := 3 })) (peer h)
      modEng (modHub (releaseStage s1 s.fw.stage) (peer h) (fun x => { x.restart .restarting with fw := im })) (peer h) Servo.restart
    else s
  | _, _ => s
/-- FW_WRITE_STANDBY: the write of RED_FW_CMD, or, with none, the end of a step under way. -/
def execFwWriteStandby (o : Origin) (v : Option Word) (s : State) : Out :=
  done (match v with
    | some w => regWriteRow s o true (fun s => fwWriteCmd s o w)
    | none => if s.phase = .running then fwAdvance s else s)

/-- HANDOVER: the active hub asks for its lease to be moved. (DESIGN CHOICE, log entry 41) -/
def fwHandoverCmd (s : State) (v : Word) : State × Nat :=
  match s.active with
  | none => (s, C.ok)
  | some h =>
    if s.fw.step ≠ 0 then (s, C.fwBusy)
    else if (hubOf s (peer h)).health ≠ .standbySync ∧ wfld v F.redFwCmdForce = 0 then (setFw s (fun f => { f with last := C.fwNotSync }), C.fwNotSync)
    else (raiseIbi (modHub (setFw s (fun f => { f with step := 4 })) h (fun x => { x with health := .handoverReq })) h, C.ok)
def execFwHandover (o : Origin) (v : Word) (s : State) : Out := done (regWriteRow s o true (fun s => fwHandoverCmd s v))
/-- Abort of an update before its step 2. (DESIGN CHOICE, log entry 41) -/
def fwAbortCmd (s : State) : State × Nat :=
  if s.fw.step = 0 then (s, C.ok) else if s.fw.step = 1 then (setFw s (fun f => { f with step := 0, image := none }), C.ok) else (s, C.fwBusy)
def execFwAbort (o : Origin) (s : State) : Out := done (regWriteRow s o true fwAbortCmd)
/-- A write of RED_FW_CMD. -/
def fwCmdWrite (s : State) (o : Origin) (v : Word) : State × Nat :=
  match wfld v F.redFwCmdAction with
  | 1 => fwWriteCmd s o v
  | 2 => fwHandoverCmd s v
  | 3 => fwAbortCmd s
  | _ => if s.fw.step ≠ 0 then (s, C.fwBusy) else (s, C.ok)

/-! ### Ethernet ports (R447 to R449) -/

/-- ETH_LINK_LOSS. -/
def execEthLinkLoss (h : Hub) (s : State) : Out := done (modHub s h (fun x => { x with link := false, ethDown := true }))
/-- ETH_LINK_RETURN: the link of an enabled port is up. -/
def execEthLinkReturn (h : Hub) (s : State) : Out :=
  done (if s.phase = .running ∧ firmwareRuns (hubOf s h) = true ∧ fldAt s F.ethCtlEnable 0 (hubIndex h) 0 = 1 then
      modHub s h (fun x => { x with link := true, ethDown := false })
    else s)

/-- A port's MAC address. -/
def macOf (s : State) (h : Hub) : List Byte := match h with | .ha => s.ident.mac0 | .hb => s.ident.mac1
/-- The bytes of an address word, most significant first. -/
def beWord (w : Word) : List Byte := (leBytes 4 w.toNat).reverse
def ip4Of (s : State) (h : Hub) : List Byte := beWord (regWord s ⟨.ethIp4, 0, hubIndex h, 0⟩)
def ip6Of (s : State) (h : Hub) : List Byte := (List.range 4).flatMap (fun w => beWord (regWord s ⟨.ethIp6, 0, hubIndex h, w⟩))
/-- The link-local address of a port: fe80::/64 with the EUI-64 of its MAC address (RFC 4291). -/
def linkLocal (s : State) (h : Hub) : List Byte :=
  let m := macOf s h
  [0xFE#8, 0x80#8] ++ List.replicate 6 0#8 ++ [(m.getD 0 0#8) ^^^ 0x02#8, m.getD 1 0#8, m.getD 2 0#8, 0xFF#8, 0xFE#8, m.getD 3 0#8, m.getD 4 0#8, m.getD 5 0#8]
/-- Whether a target address is the port's; an address of zeros is none. -/
def ownsAddress (s : State) (h : Hub) (a : List Byte) : Bool :=
  !allZero a && (a == ip4Of s h || a == ip6Of s h || a == linkLocal s h)
/-- ARP_ND_ICMP_ECHO: a request for an address of the port; ARP and Neighbor Discovery (kinds 0 and 1) are answered with the
MAC address, an echo (kind 2) with its own payload. -/
def execArpNdIcmpEcho (h : Hub) (kind : Nat) (target payload : List Byte) (s : State) : Out :=
  done (
    if s.phase ≠ .running ∨ firmwareRuns (hubOf s h) = false ∨ (hubOf s h).link = false ∨ ownsAddress s h target = false then s
    else emit s (.ether h kind (if kind = 2 then payload else macOf s h)))

end Sys2Proof.Machine
end

