-- ==== Sys2Proof/Machine/RecRows.lean ====
section
/-!
DEFINITION. Commands of the recorder, the performance counters and debug access (R497 to R518).
-/
namespace Sys2Proof.Machine
open Sys2Proof

/-! ### The recorder (R497 to R505) -/

/-- A record as the host reads it (R497, R498). -/
def Record.bytes (r : Record) : List Byte :=
  let n := r.length
  let body := leBytes 2 n ++ leBytes 2 r.type ++ leBytes 4 r.seq ++ leBytes 5 r.optime ++ leBytes 3 r.cycles ++
    leBytes 8 r.timeS ++ leBytes 4 r.timeNs ++ leBytes 2 r.frac ++ leBytes 2 r.flags ++ leBytes 4 r.source ++ leBytes 2 r.handle ++
    leBytes 2 r.detail.length ++ padTo (n - 44) r.detail
  body ++ leBytes 4 (crc32c body).toNat
/-- The key by which exports of recorders and counters merge (R475): seconds, nanoseconds, fraction, SOURCE, sequence. -/
def Record.mergeKey (r : Record) : List Nat := [r.timeS, r.timeNs, r.frac, r.source, r.seq]
def Sample.mergeKey (x : Sample) : List Nat := [x.timeS, x.timeNs, x.frac, x.source, x.seq]
/-- Keys compared as unsigned numbers in that order. -/
def mergeBefore : List Nat → List Nat → Bool
  | a :: x, b :: y => decide (a < b) || (a == b && mergeBefore x y)
  | _, _ => false
/-- The ring in use: the holding ring while degraded (R505). -/
def Recorder.live (c : Recorder) : List Record := if c.degraded then c.holding else c.ring
/-- A hub's recorder changed. -/
def modRec (s : State) (h : Hub) (f : Recorder → Recorder) : State := modHub s h (fun x => { x with recorder := f x.recorder })

/-- A record as the peer of its writer keeps it: its own next SEQ, MIRRORED set (R500). -/
def Record.mirrored (r : Record) (seq : Nat) : Record := { r with seq := seq, flags := setField r.flags 1 1 1 }
/-- REC_MIRROR_RECEIVE: hub `h` takes the oldest record its peer has queued, while the cross-link is up. (DESIGN CHOICE, log entry 42) -/
def execRecMirrorReceive (h : Hub) (s : State) : Out :=
  done (
    if s.phase ≠ .running ∨ s.xlink = false ∨ firmwareRuns (hubOf s h) = false ∨ firmwareRuns (hubOf s (peer h)) = false then s
    else match (hubOf s (peer h)).recorder.mirrorQ with
      | [] => s
      | r :: rest =>
        recordWithin (modRec s (peer h) (fun c => { c with mirrorQ := rest })) h r.type
          (fun s => modRec s h (fun c => c.append (r.mirrored c.nextSeq))))

/-- Types and counts of the records not written, for the detail of REC_SUPPRESSED. (DESIGN CHOICE, log entry 42) -/
def suppressedDetail (m : SMap Nat) : List Byte := (m.take 122).flatMap (fun e => d4 e.1 ++ d4 e.2)
/-- REC_SUPPRESSED: once the hub may write again, one record gives the counts by type. (DESIGN CHOICE, log entry 5) -/
def execRecSuppressed (h : Hub) (s : State) : Out :=
  done (
    let c := (hubOf s h).recorder
    if s.phase ≠ .running ∨ firmwareRuns (hubOf s h) = false ∨ c.suppressed = [] ∨ (c.second = s.tb.sec ∧ 10000 ≤ c.written) then s
    else
      let r : Report := ⟨C.recSuppressed, srcHub h, 0xFFFF, suppressedDetail c.suppressed, false, true, true, s.tb.sec, s.tb.ns, s.tb.frac / 65536, uncertain s⟩
      writeRecord (modRec s h (fun c => { c with suppressed := c.suppressed.drop 122 })) h r)

/-- OPTIME_SAVE: the operating time passed since the last save, in 1/1,024 hour, saved; `bad` the hubs whose flash blocks in
use have come to fail their write-verify. (DESIGN CHOICE, log entry 42) -/
def execOptimeSave (elapsed : Nat) (bad : List Hub) (s : State) : Out :=
  done (
    if s.phase = .unpowered then s
    else
      let t := (s.optime + elapsed) % 2 ^ 40
      bad.foldl (fun s h => modRec s h (fun c => { c with flashBad := true })) { s with optime := t, optimeSaved := t })

/-- The active hub, whose window is served. -/
def onActive (s : State) (f : Hub → State) : State := match s.active with | some h => f h | none => s
/-- A record copied into the window. -/
def Recorder.copy (c : Recorder) (r : Record) (state : Nat) : Recorder :=
  { c with cursor := r.seq, wState := state, wLen := r.length, win := wordsOf r.bytes }
/-- The cursor set (R503): the record copied, the oldest one in place of one overwritten, or nothing where it is not yet
written. -/
def Recorder.seek (c : Recorder) (seq : Nat) : Recorder :=
  match c.live.find? (fun r => r.seq == seq) with
  | some r => c.copy r 0
  | none =>
    if laterThan (BitVec.ofNat 32 c.nextSeq) (BitVec.ofNat 32 seq) then
      match c.live.head? with
      | some r => c.copy r 1
      | none => { c with cursor := seq, wState := 2 }
    else { c with cursor := seq, wState := 2 }
def recCursorWriteOp (s : State) (v : Word) : State × Nat := (onActive s (fun h => modRec s h (fun c => c.seek v.toNat)), C.ok)
/-- REC_CURSOR_WRITE. -/
def execRecCursorWrite (o : Origin) (v : Word) (s : State) : Out := done (regWriteRow s o false (fun s => recCursorWriteOp s v))

/-- Whether a record's stamp is at or after a time in seconds and nanoseconds (R474, R504). -/
def Record.atOrAfter (r : Record) (sec ns : Nat) : Bool := decide (sec < r.timeS) || (r.timeS == sec && decide (ns ≤ r.timeNs))
/-- REC_FIND_NS written (R504); with no such record, the cursor goes to the next SEQ. (DESIGN CHOICE, log entry 42) -/
def recFindWrite (s : State) (v : Word) : State × Nat :=
  let s1 := setRegWord s ⟨.recFindNs, 0, 0, 0⟩ v
  let sec := (regWord s ⟨.recFindSLo, 0, 0, 0⟩).toNat + 2 ^ 32 * (regWord s ⟨.recFindSHi, 0, 0, 0⟩).toNat
  (onActive s1 (fun h => modRec s1 h (fun c =>
    match c.live.find? (fun r => r.atOrAfter sec v.toNat) with
    | some r => c.seek r.seq
    | none => c.seek c.nextSeq)), C.ok)
/-- REC_FIND. -/
def execRecFind (o : Origin) (v : Word) (s : State) : Out := done (regWriteRow s o false (fun s => recFindWrite s v))

/-- REC_CTL written: RETRY, where `good` says that fresh flash blocks verify (R505). (DESIGN CHOICE, log entry 42) -/
def recRetryWrite (s : State) (v : Word) (good : Bool) : State × Nat :=
  (if wfld v F.recCtlRetry = 0 then s else onActive s (fun h =>
    let c := (hubOf s h).recorder
    if c.degraded && good then
      let ring := c.ring ++ c.holding
      hubReport (modRec s h (fun c => { c with ring := trimRing flashBytes ring.length ring, holding := [], degraded := false, flashBad := false }))
        C.recRecovered []
    else s), C.ok)
/-- REC_RETRY. -/
def execRecRetry (o : Origin) (v : Word) (good : Bool) (s : State) : Out := done (regWriteRow s o false (fun s => recRetryWrite s v good))

/-! ### Performance counters (R506 to R512, R517) -/

def pctSel (s : State) : Nat := fld s F.pctSelEvent
/-- PCT_CLR written. -/
def pctClrWrite (s : State) (v : Word) : State × Nat :=
  (if wfld v F.pctClrWrap = 0 then s
   else { s with counts := SMap.setD s.counts (pctSel s) { countOf s (pctSel s) with wrap := false } ⟨0, false⟩ }, C.ok)
/-- PCT_CLR. -/
def execPctClr (o : Origin) (v : Word) (s : State) : Out := done (regWriteRow s o false (fun s => pctClrWrite s v))

/-- The word latched for PCT_VAL_HI. -/
def pctHi (hi invalid denied wrap : Nat) : Word := BitVec.ofNat 32 (hi % 2 ^ 16 + invalid * 2 ^ 29 + denied * 2 ^ 30 + wrap * 2 ^ 31)
/-- PCT_VAL_LO read: the counter, 0 where it may not be read; an EVENT that names no counter reads an open value. (DESIGN CHOICE, log entry 43) -/
def pctValLoRead (s : State) : State × Word :=
  let ev := pctSel s
  let put (s : State) (w : Word) : State := setRegWord s ⟨.pctValHi, 0, 0, 0⟩ w
  if eventExists s.ident ev = false then
    let r := takeFree s
    (put r.2 (pctHi (r.1.toNat / 2 ^ 32) 1 0 0), BitVec.setWidth 32 r.1)
  else if hostReadable s ev = false then (put s (pctHi 0 0 1 0), 0)
  else
    let c := countOf s ev
    (put s (pctHi (c.value / 2 ^ 32) 0 0 (b2n c.wrap)), BitVec.ofNat 32 c.value)
/-- PCT_VAL_LO_READ. -/
def execPctValLoRead (o : Origin) (s : State) : Out := done (regReadRow s o false pctValLoRead)

/-- PCT_SMP_CTL_k written: a write that enables the slot starts its counts. (DESIGN CHOICE, log entry 43) -/
def pctSmpCtlWrite (s : State) (k : Nat) (v : Word) : State × Nat :=
  if 8 ≤ k then (s, C.regUnmapped)
  else
    let s1 := (plainWrite s ⟨.pctSmpCtl, 0, k, 0⟩ v).1
    (if wfld v F.pctSmpCtlEnable = 0 then s1
     else { s1 with sampling := { s1.sampling with slots := modAt s1.sampling.slots k (fun _ => ⟨[]⟩) } }, C.ok)
/-- PCT_SMP_ENABLE. -/
def execPctSmpEnable (o : Origin) (k : Nat) (v : Word) (s : State) : Out := done (regWriteRow s o false (fun s => pctSmpCtlWrite s k v))
/-- PCT_SMP_POP written. -/
def pctSmpPopWrite (s : State) (v : Word) : State × Nat :=
  (if wfld v F.pctSmpPopPop = 0 then s else { s with sampling := { s.sampling with buffer := s.sampling.buffer.drop 1 } }, C.ok)
/-- PCT_SMP_POP. -/
def execPctSmpPop (o : Origin) (v : Word) (s : State) : Out := done (regWriteRow s o false (fun s => pctSmpPopWrite s v))
/-- A sample as its window shows it (R512). -/
def Sample.bytes (x : Sample) : List Byte :=
  leBytes 8 x.timeS ++ leBytes 4 x.timeNs ++ leBytes 2 x.frac ++ leBytes 2 x.flags ++ leBytes 4 x.event ++ leBytes 4 x.seq ++ leBytes 4 x.source ++
  leBytes 2 x.cell ++ leBytes 2 x.pc ++ leBytes 4 x.insn.toNat ++ leBytes 4 x.latency ++ leBytes 2 x.handle ++ leBytes 6 0 ++ padTo 32 x.name

/-- RED_OPTIME_LO read. -/
def redOptimeLoRead (s : State) : State × Word :=
  (setRegWord s ⟨.redOptimeHi, 0, 0, 0⟩ (BitVec.ofNat 32 (s.optime / 2 ^ 32)), BitVec.ofNat 32 s.optime)
/-- RED_OPTIME_LO_READ. -/
def execRedOptimeLoRead (o : Origin) (s : State) : Out := done (regReadRow s o true redOptimeLoRead)

/-! ### Debug access (R513, R518) -/

/-- The cell, item and index selected on a die. -/
def dbgCell (s : State) (d : Nat) : Nat := 256 * d + fldAt s F.dieDbgSelCell d 0 0
def dbgItem (s : State) (d : Nat) : Nat := fldAt s F.dieDbgSelItem d 0 0
def dbgIndex (s : State) (d : Nat) : Nat := fldAt s F.dieDbgSelIndex d 0 0
/-- Whether a station is stopped. -/
def RunState.stopped (r : RunState) : Bool := r != .running
/-- An item of a station that is no scratch word; none where there is no such item. (DESIGN CHOICE, log entry 44) -/
def dbgReg (st : Station) (item index : Nat) : Option Nat :=
  match item with
  | 0 => if index < 32 then some (getG st index).toNat else none
  | 1 => some ((List.range 8).foldl (fun x i => x + b2n (getP st i) * 2 ^ i) 0)
  | 2 => some st.pc
  | _ => none
/-- The value of a selection, and the state after the read; none where there is nothing that the spec gives a value. (DESIGN CHOICE, log entry 44) -/
def dbgFetch (s : State) (w : Where) (item index : Nat) : State × Option Nat :=
  if item = 3 then
    if scratchBytes ≤ 8 * index then (s, none)
    else
      let r := scanItems w.st.scratch [.bytes (8 * index) 8]
      let s1 := scratchFound (modStation s w.slot w.idx (fun st => { st with scratch := r.mem })) (cellNo w.st) noCtx r.ce r.ue
      (s1, if r.bad.isEmpty then some (leNat ((List.range 8).map (fun i => hostByte { w.st with scratch := r.mem } (8 * index + i)))) else none)
  else (s, dbgReg w.st item index)
/-- DIE_DBG_LO read: the item fetched into both words. (DESIGN CHOICE, log entry 44) -/
def dbgLoRead (s : State) (d : Nat) : State × Nat × Word :=
  let put (s : State) (x : Nat) : State × Nat × Word :=
    (setRegWord (setRegWord s ⟨.dieDbgLo, d, 0, 0⟩ (BitVec.ofNat 32 x)) ⟨.dieDbgHi, d, 0, 0⟩ (BitVec.ofNat 32 (x / 2 ^ 32)), C.ok, BitVec.ofNat 32 x)
  let open_ (s : State) : State × Nat × Word := put (takeFree s).2 (takeFree s).1.toNat
  if s.ident.dies ≤ d then (s, C.regAbsent, 0)
  else match stationOn s (dbgCell s d) with
    | none => open_ s
    | some w =>
      if dbgItem s d < 3 ∧ w.st.run.stopped = false then (s, C.dbgNotStopped, 0)
      else match dbgFetch s w (dbgItem s d) (dbgIndex s d) with
        | (s1, some x) => put s1 x
        | (s1, none) => open_ s1
/-- DIE_DBG_LO_READ. -/
def execDieDbgLoRead (o : Origin) (d : Nat) (s : State) : Out := done (regAnswer (regGate s o false false) s o (fun s => dbgLoRead s d))

/-- A station with an item written; a scratch word is written in what a rollback would leave too, where its page is not
saved. (DESIGN CHOICE, log entry 44) -/
def dbgPut (st : Station) (item index x : Nat) : Station :=
  match item with
  | 0 => setG st index (BitVec.ofNat 64 x)
  | 1 => (List.range 8).foldl (fun st i => setP st i (bitAt x i)) st
  | 2 => { st with pc := x % 2 ^ 16 }
  | _ =>
    let bs := leBytes 8 x
    { st with scratch := st.scratch.store (8 * index) bs
              ckpts := st.ckpts.map (fun c => if c.pages.contains (8 * index / pageBytes) then c
                else { c with snap := { c.snap with scratch := c.snap.scratch.store (8 * index) bs } }) }
/-- Whether a selection names an item that can be written. (DESIGN CHOICE, log entry 44) -/
def dbgExists (item index : Nat) : Bool :=
  match item with
  | 0 => decide (index < 32)
  | 1 => true
  | 2 => true
  | 3 => decide (8 * index < scratchBytes)
  | _ => false
/-- The session that an access came from; 0 for the arbiter's. -/
def originSession : Origin → Nat
  | .session id => id
  | .i3c _ => 0
/-- DIE_DBG_CMD written (R513). (DESIGN CHOICE, log entry 44) -/
def dbgCmdWrite (s : State) (o : Origin) (d : Nat) (v : Word) : State × Nat :=
  if s.ident.dies ≤ d then (s, C.regAbsent)
  else if wfld v F.dieDbgCmdWrite = 0 then (s, C.ok)
  else if debugRight s rightStation = false then (s, C.dbgDenied)
  else match stationOn s (dbgCell s d) with
    | none => (s, C.dbgNotStopped)
    | some w =>
      if w.b.st ≠ .held then (s, C.dbgNotStopped)
      else if dbgExists (dbgItem s d) (dbgIndex s d) = false then (s, C.ok)
      else
        let x := (regWord s ⟨.dieDbgLo, d, 0, 0⟩).toNat + 2 ^ 32 * (regWord s ⟨.dieDbgHi, d, 0, 0⟩).toNat
        let r := dbgFetch s w (dbgItem s d) (dbgIndex s d)
        let (old, s1) := match r.2 with
          | some y => (y, r.1)
          | none => ((takeFree r.1).1.toNat, (takeFree r.1).2)
        let s2 := modStation s1 w.slot w.idx (fun st => dbgPut st (dbgItem s d) (dbgIndex s d) x)
        (reportNow s2 C.dbgWrite (srcCell (dbgCell s d)) w.handle
          (d4 (dbgCell s d) ++ d4 (dbgItem s d) ++ d4 (dbgIndex s d) ++ d4 old ++ d4 x ++ d4 (originSession o)) false true, C.ok)
/-- DIE_DBG_WRITE. -/
def execDieDbgWrite (o : Origin) (d : Nat) (v : Word) (s : State) : Out := done (regWriteRow s o false (fun s => dbgCmdWrite s o d v))

end Sys2Proof.Machine
end

