-- ==== Sys2Proof/Machine/Pins.lean ====
section
/-!
DEFINITION. The pins of the signal connector and the fibre positions (R556, R557, R560, R561): what each output pin shows in every
state of the module.
-/
namespace Sys2Proof.Machine
open Sys2Proof

/-- The output pins (R556, R557). -/
inductive Pin where
  | pwm (n : Nat)
  | dout (n : Nat)
  | health (h : Hub)
  | faultN
  | tdo
  | i3c
  | ethTx (h : Hub)
  | presN
  deriving DecidableEq, Repr

/-- What a pin shows: high impedance, no output or electrical idle, off, low, a driven value as FP32, an edge every 500 µs, or its
protocol's signals. -/
inductive PinShows where
  | highZ
  | idle
  | off
  | low
  | value (w : Word)
  | toggles
  | still
  | bus
  deriving DecidableEq, Repr

/-- In reset: RST_N low, REFCLK lost, or any reset up to the moment that a hub's firmware runs (R561). -/
def inReset (s : State) : Bool := s.phase == .resetHeld || (fld s F.secStatBootDone == 0 && !firmwareRuns s.ha && !firmwareRuns s.hb)
/-- A loop output pin: released, or at the value its driver holds (R440, R525). -/
def driverShows (s : State) (p : Nat) : PinShows :=
  match (SMap.find s.drivers.pins p).bind (fun d => d.value) with
  | some w => .value w
  | none => .highZ
/-- What a pin shows (R561). -/
def pinShows (s : State) (p : Pin) : PinShows :=
  let dead := s.phase == .unpowered || inReset s
  match p with
  | .pwm n => if dead then .highZ else driverShows s n
  | .dout n => if dead then .highZ else driverShows s (8 + n)
  | .health h => if dead then .highZ else if healthToggles (hubOf s h) then .toggles else .still
  | .faultN => if !dead && faultAsserted s then .low else .off
  | .tdo => if dead then .highZ else .bus
  | .i3c => if dead then .highZ else .bus
  | .ethTx h => if dead || !(hubOf s h).link then .idle else .bus
  | .presN => .low

/-- The fibre positions of a local port in its engine's receptacle (R560): transmit and receive. -/
def fibreTx (p : Nat) : Nat := p + 1
def fibreRx (p : Nat) : Nat := 16 - p
/-- Where a trunk of Type B polarity brings a position to. -/
def trunkB (i : Nat) : Nat := 17 - i

end Sys2Proof.Machine
end

