-- ==== Sys2Proof/Machine/SecRows.lean ====
section
/-!
DEFINITION. Commands of the security block (R526 to R546): retained state, life-cycle states, keys, debug grants, attestation.
-/
namespace Sys2Proof.Machine
open Sys2Proof

/-! ### Who may change security state (R535, R542) -/

/-- A control session, as the origin of a write. -/
def controlOrigin (s : State) (o : Origin) : Bool :=
  match o with
  | .session id => (match findSession s id with | some x => x.isOpen && x.control | none => false)
  | .i3c _ => false
/-- A control session authenticated with an ADMIN key. -/
def adminOrigin (s : State) (o : Origin) : Bool :=
  match o with
  | .session id => (match findSession s id with | some x => x.isOpen && x.control && x.admin | none => false)
  | .i3c _ => false
/-- Writes of keys and of REQ_SIGNED (R535). -/
def mayKey (s : State) (o : Origin) : Bool := if s.sec.lc = .field then adminOrigin s o else controlOrigin s o

/-! ### SEC_CTL (R533, R535, R536) -/

/-- SVN_COMMIT: the minimum raised to the lower of the running images' SVNs. -/
def svnCommit (s : State) : State × Nat :=
  if s.ha.recovery || s.hb.recovery || (decide (1 ≤ s.fw.step) && decide (s.fw.step ≤ 3)) then (s, C.secSvnHeld)
  else ({ s with sec := { s.sec with svnMin := max s.sec.svnMin (min s.ha.running.svn s.hb.running.svn) } }, C.ok)
/-- SEC_CTL written; every write of it is one of REQ_SIGNED. (DESIGN CHOICE, log entry 45) -/
def secCtlWrite (s : State) (o : Origin) (v : Word) : State × Nat :=
  if mayKey s o = false then (s, C.secKeyDenied)
  else
    let r := if wfld v F.secCtlSvnCommit = 1 then svnCommit s else (s, C.ok)
    if r.2 ≠ C.ok then (s, r.2) else ((plainWrite r.1 ⟨.secCtl, 0, 0, 0⟩ v).1, C.ok)
/-- SVN_COMMIT. -/
def execSvnCommit (o : Origin) (v : Word) (s : State) : Out := done (regWriteRow s o false (fun s => secCtlWrite s o v))
/-- SEC_REQ_SIGNED_WRITE. -/
def execSecReqSignedWrite (o : Origin) (v : Word) (s : State) : Out := done (regWriteRow s o false (fun s => secCtlWrite s o v))

/-! ### Retained state (R527, R528) -/

/-- SEC_RET_CMD written. -/
def secRetCmdWrite (s : State) (v : Word) : State × Nat := (if wfld v F.secRetCmdCommit = 1 then commitRet s else s, C.ok)
/-- SEC_RET_COMMIT. -/
def execSecRetCommit (o : Origin) (v : Word) (s : State) : Out := done (regWriteRow s o false (fun s => secRetCmdWrite s v))
/-- RETAINED_COMMIT_TIMER: a change waits, and a hub is active. -/
def execRetainedCommitTimer (s : State) : Out :=
  done (if s.phase = .running ∧ s.active.isSome = true ∧ s.sec.retPending = true then commitRet s else s)

/-! ### Life-cycle transitions (R541 to R544) -/

/-- A state by its LC code. -/
def LifeCycle.code : LifeCycle → Nat
  | .manufacturing => 0
  | .provisioned => 1
  | .field => 2
  | .returned => 3
def LifeCycle.ofCode (n : Nat) : LifeCycle := if n = 0 then .manufacturing else if n = 1 then .provisioned else if n = 2 then .field else .returned
/-- Whether the key table holds an ADMIN key. -/
def hasAdmin (l : List KeySlot) : Bool := l.any (fun k => k.kind == 2)
/-- The transitions accepted (R542). -/
def lcAllowed (s : State) (o : Origin) (dest_ : LifeCycle) : Bool :=
  match s.sec.lc, dest_ with
  | .provisioned, .field => controlOrigin s o && hasAdmin s.sec.keys
  | .provisioned, .returned => controlOrigin s o
  | .field, .provisioned => adminOrigin s o
  | .field, .returned => adminOrigin s o
  | _, _ => false
/-- Step 1 of R543: recorded in both recorders, the new state marked incomplete. (DESIGN CHOICE, log entry 48) -/
def lcCmdWrite (s : State) (o : Origin) (v : Word) : State × Nat :=
  let dest_ := LifeCycle.ofCode (wfld v F.secLcCmdTarget)
  if wfld v F.secLcCmdKey ≠ 0x4C43 ∨ lcAllowed s o dest_ = false then (s, C.secLcDenied)
  else
    let s1 := hubReport s C.secLcChanged []
    let r : Report := ⟨C.secLcChanged, srcActive s, 0xFFFF, [], false, true, false, s.tb.sec, s.tb.ns, s.tb.frac / 65536, uncertain s⟩
    let s2 := match s.active with
      | some h => if firmwareRuns (hubOf s (peer h)) then writeRecord s1 (peer h) r else s1
      | none => s1
    ({ s2 with sec := { s2.sec with incomplete := some dest_ } }, C.ok)
/-- Step 2 of R543 and the warm reset, where a transition has been accepted. (DESIGN CHOICE, log entry 48) -/
def lcFinish (s : State) : State :=
  match s.sec.incomplete with
  | some dest_ => warmReset (lcErase s dest_) 4
  | none => s
/-- SEC_LC_CMD; `cut` where power or RST_N is lost before step 2 has ended, so that the next start completes it (R544). (DESIGN CHOICE, log entry 48) -/
def execSecLcCmd (o : Origin) (v : Word) (cut : Bool) (s : State) : Out :=
  done (
    let s1 := regWriteRow s o false (fun s => lcCmdWrite s o v)
    if cut || s.sec.incomplete.isSome then s1 else lcFinish s1)

/-! ### Keys (R534, R535, R546) -/

def keySel (s : State) : Nat := fld s F.secKeySelSlot
def keySlot (s : State) (i : Nat) : KeySlot := (s.sec.keys[i]?).getD ⟨0, []⟩
/-- SEC_KEY_SEL written: the slot selected, the kind staged. -/
def keySelWrite (s : State) (v : Word) : State × Nat :=
  let s1 := setFld s F.secKeySelSlot (wfld v F.secKeySelSlot)
  ({ s1 with sec := { s1.sec with stagedKind := some (min 4 (wfld v F.secKeySelKind)) } }, C.ok)
/-- SEC_KEY_W_w written: the word staged. -/
def keyWordWrite (s : State) (w : Nat) (v : Word) : State × Nat :=
  ({ s with sec := { s.sec with stagedKey := SMap.setD s.sec.stagedKey w v 0 } }, C.ok)
/-- The key staged. -/
def stagedKeyBytes (s : State) : List Byte := wordBytes ((List.range 8).map (fun i => SMap.getD s.sec.stagedKey i 0))
/-- A slot of the key table replaced; in Field an ADMIN key has to remain. -/
def keyPut (s : State) (k : KeySlot) : State × Nat :=
  let keys := modAt s.sec.keys (keySel s) (fun _ => k)
  if s.sec.lc = .field ∧ hasAdmin keys = false then (s, C.secKeyInvalid) else ({ s with sec := { s.sec with keys := keys } }, C.ok)
/-- DESIGN CHOICE, log entry 45. -/
def keyCommit (s : State) : State × Nat :=
  let kind := s.sec.stagedKind.getD 0
  if kind = 0 then (s, C.secKeyInvalid) else keyPut s ⟨kind, stagedKeyBytes s⟩
/-- SEC_KEY_CMD written: COMMIT, then ERASE. (DESIGN CHOICE, log entry 45) -/
def keyCmdWrite (s : State) (o : Origin) (v : Word) : State × Nat :=
  if wfld v F.secKeyCmdCommit = 0 ∧ wfld v F.secKeyCmdErase = 0 then (s, C.ok)
  else if mayKey s o = false then (s, C.secKeyDenied)
  else
    let r := if wfld v F.secKeyCmdCommit = 1 then keyCommit s else (s, C.ok)
    if r.2 ≠ C.ok ∨ wfld v F.secKeyCmdErase = 0 then r else keyPut r.1 ⟨0, []⟩
/-- SEC_KEY_COMMIT. -/
def execSecKeyCommit (o : Origin) (v : Word) (s : State) : Out := done (regWriteRow s o false (fun s => keyCmdWrite s o v))
/-- SEC_KEY_ERASE. -/
def execSecKeyErase (o : Origin) (v : Word) (s : State) : Out := done (regWriteRow s o false (fun s => keyCmdWrite s o v))

/-! ### Debug grants (R539, R540) -/

def grantPtr (s : State) : Nat := fld s F.secGrantPtrWord
/-- The next grant word selected; the first comes after the last. (DESIGN CHOICE, log entry 46) -/
def grantNext (s : State) : State := setFld s F.secGrantPtrWord ((grantPtr s + 1) % 1980)
def grantDataWrite (s : State) (v : Word) : State × Nat :=
  (grantNext { s with sec := { s.sec with grantWords := SMap.setD s.sec.grantWords (grantPtr s) v 0 } }, C.ok)
def grantDataRead (s : State) : State × Word := (grantNext s, SMap.getD s.sec.grantWords (grantPtr s) 0)
/-- SEC_GRANT_DATA_ACCESS: a read, or a write of a word. -/
def execSecGrantDataAccess (o : Origin) (v : Option Word) (s : State) : Out :=
  done (match v with
    | some w => regWriteRow s o false (fun s => grantDataWrite s w)
    | none => regReadRow s o false grantDataRead)

/-- The grant staged. -/
def stagedGrant (s : State) : List Byte := wordBytes ((List.range 1980).map (fun i => SMap.getD s.sec.grantWords i 0))
/-- The checks of R540 on a staged grant. (DESIGN CHOICE, log entry 46) -/
def grantOk (s : State) (b : List Byte) : Bool :=
  slice b 0 4 == [0x5A#8, 0x44#8, 0x47#8, 0x31#8] && fieldLE b 4 8 == s.ident.serial % 2 ^ 64 &&
  (match keyOf s [4] (fieldLE b 12 2) with | some k => Config.slhVerify k (b.take 64) (slice b 64 7856) | none => false) &&
  decide (fieldLE b 14 2 < 8) && allZero (slice b 36 28) &&
  (match s.sec.grantMax with | some m => decide (m < fieldLE b 32 4) | none => true)
/-- DESIGN CHOICE, log entry 46. -/
def grantCommit (s : State) : State × Nat :=
  let b := stagedGrant s
  if uncertain s then (s, C.secTimeUntrusted)
  else if grantOk s b = false then (s, C.secGrantBad)
  else
    let g : Grant := ⟨fieldLE b 14 2, fieldLE b 16 8, fieldLE b 24 8, fieldLE b 32 4, false⟩
    let s1 := reportNow (endGrant s) C.secGrantAccepted (srcActive s) 0xFFFF [] false true
    ({ s1 with sec := { s1.sec with grant := some { g with inForce := g.current s.tb.sec }, grantMax := some g.number } }, C.ok)
/-- SEC_GRANT_CMD written: COMMIT, then REVOKE. (DESIGN CHOICE, log entry 45) -/
def grantCmdWrite (s : State) (v : Word) : State × Nat :=
  let r := if wfld v F.secGrantCmdCommit = 1 then grantCommit s else (s, C.ok)
  if r.2 ≠ C.ok ∨ wfld v F.secGrantCmdRevoke = 0 then r else (endGrant r.1, C.ok)
/-- SEC_GRANT_COMMIT. -/
def execSecGrantCommit (o : Origin) (v : Word) (s : State) : Out := done (regWriteRow s o false (fun s => grantCmdWrite s v))
/-- SEC_GRANT_REVOKE. -/
def execSecGrantRevoke (o : Origin) (v : Word) (s : State) : Out := done (regWriteRow s o false (fun s => grantCmdWrite s v))
/-- GRANT_EXPIRY: module time is at NOT_AFTER or past it. (DESIGN CHOICE, log entry 5) -/
def execGrantExpiry (s : State) : Out :=
  done (match s.sec.grant with
    | some g => if g.notAfter ≤ s.tb.sec ∧ s.phase = .running then endGrant s else s
    | none => s)
/-- GRANT_NOT_BEFORE: module time has come into the grant's interval. (DESIGN CHOICE, log entry 5) -/
def execGrantNotBefore (s : State) : Out :=
  done (match s.sec.grant with
    | some g => if g.current s.tb.sec = true ∧ s.phase = .running then { s with sec := { s.sec with grant := some { g with inForce := true } } } else s
    | none => s)
/-- RIGHTS of the grant in force. -/
def rightsInForce (s : State) : Nat := match s.sec.grant with | some g => if g.current s.tb.sec then g.rights else 0 | none => 0

/-! ### Attestation (R537, R538) -/

/-- STATE in BND_SLOT_STAT (R106). -/
def BState.code : BState → Nat
  | .loading => 0
  | .planWait => 1
  | .ready => 2
  | .running => 3
  | .held => 4
  | .evicting => 5
  | .evicted => 6
  | .faulted => 7
/-- The image a hub runs, as its hash. (DESIGN CHOICE, log entry 45) -/
def imageHash (x : HubSt) : List Byte := padTo 32 (if x.running.hash = [] then Config.factoryImageHash else x.running.hash)
/-- A retained-state copy as numbers, each tagged with what it is. -/
def Retained.numbers (c : Retained) : List (Nat × Nat) :=
  c.kept.map (fun e => (4 * e.1, e.2.toNat)) ++ c.retired.map (fun e => (4 * e.1 + 1, if e.2 = .hard then 1 else 0)) ++
  c.routes.map (fun e => (4 * e.1 + 2, e.2)) ++ c.params.map (fun e => (4 * e.1 + 3, e.2.toNat))
/-- Slots with a bundle. -/
def heldSlots (s : State) : SMap Bundle := s.pl.slots.filter (fun e => decide (e.1 < 64))
def attEntry (e : Nat × Bundle) : List Byte :=
  leBytes 2 (handleOf e.1 e.2) ++ leBytes 1 e.2.st.code ++ leBytes 5 0 ++ leBytes 8 e.2.img.buildId ++ padTo 32 (slice e.2.img.bytes 16 32)
/-- ID_PART and ID_POP (R33). -/
def idPartWord (s : State) : Word := BitVec.ofNat 32 ((if s.ident.fm2 then 0x0F02 else 0x0F08) + 0x2 * 2 ^ 16 + b2n s.ident.coldPlate * 2 ^ 20)
def idPopWord (s : State) : Word := if s.ident.fm2 then 0x3103#32 else 0x3FFF#32
/-- ID_SERIAL, ID_PART and ID_POP as the report gives them. -/
def attIdent (s : State) : List Byte :=
  leBytes 8 s.ident.serial ++ leBytes 4 (idPartWord s).toNat ++ leBytes 4 (idPopWord s).toNat
/-- The report, but for its signature. -/
def attBody (s : State) (nonce : List Byte) : List Byte :=
  let slots := heldSlots s
  [0x5A#8, 0x41#8, 0x52#8, 0x31#8] ++ leBytes 4 (232 + 48 * slots.length + 7856) ++ attIdent s ++
  leBytes 1 s.sec.lc.code ++ leBytes 1 (rightsInForce s) ++ leBytes 1 (match s.active with | some h => hubIndex h | none => 0) ++
  leBytes 1 (fld s F.secCtlReqSigned) ++ leBytes 4 0 ++ leBytes 8 s.tb.sec ++ leBytes 4 s.tb.ns ++ leBytes 4 (qualityWord s).toNat ++
  padTo 32 nonce ++ imageHash s.ha ++ imageHash s.hb ++ leBytes 2 s.ha.running.version ++ leBytes 2 s.hb.running.version ++
  leBytes 4 s.sec.svnMin ++ sha256 (Config.retainedImage (newerRet s.sec).gen (newerRet s.sec).numbers) ++
  sha256 (Config.keyTableImage (s.sec.keys.map (fun k => (k.kind, k.key)))) ++ leBytes 14 0 ++ leBytes 2 slots.length ++ slots.flatMap attEntry
/-- DESIGN CHOICE, log entry 47. -/
def attReport (s : State) (nonce : List Byte) : List Byte :=
  let body := attBody s nonce
  body ++ padTo 7856 (Config.slhSign (idPub s) body)
/-- The two endorsement statements. -/
def endorsements (s : State) : List Byte := padTo 15792 (Config.endorsement s.ident.serial s.sec.idGen)
/-- What SOURCE selects. -/
def attSource (s : State) : List Byte := if fld s F.secAttCtlSource = 1 then endorsements s else s.sec.attReport
/-- The nonce written. -/
def attNonce (s : State) : List Byte := wordBytes ((List.range 8).map (fun i => regWord s ⟨.secAttNonce, 0, i, 0⟩))
/-- SEC_ATT_CTL written: GO starts a report. (DESIGN CHOICE, log entry 47) -/
def attCtlWrite (s : State) (v : Word) : State × Nat :=
  if wfld v F.secAttCtlGo = 1 ∧ s.sec.attesting.isSome = true then (s, C.secAttBusy)
  else
    let s1 := (plainWrite s ⟨.secAttCtl, 0, 0, 0⟩ v).1
    (if wfld v F.secAttCtlGo = 0 then s1 else { s1 with sec := { s1.sec with attesting := some (attNonce s), attReport := [] } }, C.ok)
/-- SEC_ATT_GO. -/
def execSecAttGo (o : Origin) (v : Word) (s : State) : Out := done (regWriteRow s o false (fun s => attCtlWrite s v))
/-- ATTESTATION_READY: the report under way is signed. -/
def execAttestationReady (s : State) : Out :=
  done (match s.sec.attesting with
    | some nonce => if s.active.isSome ∧ s.phase = .running then { s with sec := { s.sec with attesting := none, attReport := attReport s nonce } } else s
    | none => s)

end Sys2Proof.Machine
end

