-- ==== Sys2Proof/Machine/Thermal.lean ====
section
/-!
DEFINITION. Temperature: the millisecond's readings, the brake at 100 °C, shutdown at 110 °C (R312 to R314, R398).
-/
namespace Sys2Proof.Machine
open Sys2Proof

/-- The SOURCE of a domain's reports: its die, engine or hub; the active hub for domains 78 and 79. -/
def domSource (s : State) (n : Nat) : Nat :=
  match partOf n with
  | some (.die d) => srcDie d
  | some (.engine e) => srcEngine e
  | some (.hub h) => 0xFFF0 + h
  | none => srcActive s

/-! ### Shutdown (R314) -/

/-- Whether a bundle has a station, a region, a spill reserve or a save area on a die. -/
def onDie (b : Bundle) (d : Nat) : Bool :=
  let at_ (x : Placed) : Bool := x.stack / 2 == d
  b.stations.any (fun st => (match st.cell with | some c => dieOf c == d | none => false) || (match st.save with | some x => at_ x | none => false)) ||
  (b.placed && (b.regions.any at_ || b.spills.any at_))
/-- A die shut: its dead letters and both stacks are gone, the bundles on it fault. (DESIGN CHOICE, log entry 29) -/
def shutDie (s : State) (d : Nat) : State :=
  let s1 : State := { s with dies := modAt s.dies d (fun x => { dlq := [], stks := x.stks.map (fun k => { k with failed := true, wiping := false, repairing := [] }) }) }
  s1.pl.slots.foldl (fun s e => if onDie e.2 d then faultWith s e.1 C.thermShutdown (srcDie d) [] else s) s1
/-- The calibration runs of a part's items are abandoned (R409). -/
def abandonPart (s : State) (p : Part) : State :=
  (s.cal.items.filter (fun k => k.2.running && partOf (calDomain (k.1 / 1024) (k.1 % 1024)) == some p)).foldl
    (fun s k => calAbandon s (k.1 / 1024) (k.1 % 1024)) s
/-- A part shut until the next reset, reported; FAULT_N is asserted by RED_FAULT. (DESIGN CHOICE, log entry 29) -/
def shutPart (s : State) (p : Part) (source : Nat) : State :=
  if isShut s p then s
  else
    let s1 := setEvent (setEvent { s with pace := { s.pace with shut := s.pace.shut ++ [p] } } F.pwrEventShutdown) F.redFaultShutdown
    let s2 := report s1 C.thermShutdown source 0xFFFF []
    let s3 := abandonPart s2 p
    match p with
    | .die d => shutDie s3 d
    | .engine e => shutOptic s3 e
    | .hub h => hubFail s3 (if h = 0 then .ha else .hb)
/-- The whole module shut: one attempt to record it, then the input switch opens and latches. (DESIGN CHOICE, log entry 29) -/
def shutModule (s : State) : State :=
  let s1 := match s.active with
    | some _ => reportNow s C.thermShutdown (srcActive s) 0xFFFF [] false true
    | none => s
  let s2 := powerOff s1
  { s2 with elec := { s2.elec with latched := true } }

/-! ### Readings (R312, R313) -/

/-- A domain's reading, in 0.25 °C as 12 bits: TEMP, PEAK since reset. -/
def tempRead (s : State) (n t : Nat) : State :=
  let s1 := setFldAt s F.domTempTemp 0 n 0 t
  let first := !s.pace.sampled.contains n
  let peak := signedOf 12 (fldAt s F.domTempPeak 0 n 0)
  let s2 := if first || decide (peak < signedOf 12 t) then setFldAt s1 F.domTempPeak 0 n 0 t else s1
  if first then { s2 with pace := { s2.pace with sampled := s2.pace.sampled ++ [n] } } else s2
/-- The hottest domain, the lowest number among equals. -/
def hottest (s : State) : Option Nat :=
  let l := (List.range 80).filter (fun n => s.pace.sampled.contains n)
  l.find? (fun n => l.all (fun m => decide (domTemp s m ≤ domTemp s n)))
/-- DESIGN CHOICE, log entry 29. -/
def thermMax (s : State) : State :=
  match hottest s with
  | some n => setFld (setFld s F.thermMaxTemp (fldAt s F.domTempTemp 0 n 0)) F.thermMaxDomain n
  | none => s
/-- HIGH_C met, once for each crossing. -/
def tempHigh (s : State) (n : Nat) : State :=
  if domTemp s n < 4 * (fld s F.thermCtlHighC : Int) then { s with pace := { s.pace with high := s.pace.high.filter (· != n) } }
  else if s.pace.high.contains n then s
  else report (setEvent { s with pace := { s.pace with high := s.pace.high ++ [n] } } F.pwrEventTherm) C.thermHigh (domSource s n) 0xFFFF []
/-- The actions of R313 on one domain, and the due mark of R398 by its mean over the last second. (DEDUCED, log entry 12) -/
def tempAct (s : State) (n mean : Nat) : State :=
  if s.phase ≠ .running then s
  else
    let s1 := calByTemp (tempHigh s n) n mean
    let s2 := if governed n ∧ 400 ≤ domTemp s n ∧ s1.pace.brakeDies.contains (n / 8) = false then
        brakeEngaged { s1 with pace := { s1.pace with brakeDies := s1.pace.brakeDies ++ [n / 8] } } 3
      else s1
    if domTemp s n < 440 then s2
    else match partOf n with
      | some p => shutPart s2 p (domSource s n)
      | none => shutModule s2
/-- TEMPERATURE_SAMPLE: readings of domains, each with its mean over the last second. (DESIGN CHOICE, log entry 20; DESIGN CHOICE, log entry 29) -/
def execTemperatureSample (samples : List (Nat × Nat × Nat)) (s : State) : Out :=
  done (
    if s.phase ≠ .running then s
    else
      let l := samples.filter (fun e => domainExists s.ident e.1)
      let s1 := thermMax (l.foldl (fun s e => tempRead s e.1 e.2.1) s)
      l.foldl (fun s e => tempAct s e.1 e.2.2) s1)

end Sys2Proof.Machine
end

