-- ==== Sys2Proof/Machine/TalRegs.lean ====
section
/-!
DEFINITION. Register writes that act on a bundle by its handle: keyframe requests (R203, R225), epoch ends (R274), hand-set and
re-homed tallies (R283, R284).
-/
namespace Sys2Proof.Machine
open Sys2Proof

/-- A bundle named by a handle in a register, in a state that accepts the write (R76). -/
def withSlot (s : State) (h : Nat) (ok : BState → Bool) (f : Nat → State) : State × Nat :=
  match byHandle s h with
  | none => (s, C.handleUnknown)
  | some (slot, b) => if ok b.st then (f slot, C.ok) else (s, C.stateInvalid)

/-- DLT_KEYREQ written. -/
def dltKeyreqWriteOp (s : State) (v : Word) : State × Nat :=
  withSlot s (wfld v F.dltKeyreqHandle) (fun x => x == .ready || x == .running || x == .held || x == .evicted) (raiseKey s)
/-- DLT_KEYREQ_WRITE. -/
def execDltKeyreqWrite (o : Origin) (v : Word) (s : State) : Out := done (regWriteRow s o false (fun s => dltKeyreqWriteOp s v))

/-- TAL_EPOCH_END written. -/
def talEpochEndWriteOp (s : State) (v : Word) : State × Nat :=
  withSlot s (wfld v F.talEpochEndHandle) (fun x => x == .running || x == .held) (fun slot => epochEnd s slot none)
/-- TAL_EPOCH_END_WRITE. -/
def execTalEpochEndWrite (o : Origin) (v : Word) (s : State) : Out := done (regWriteRow s o false (fun s => talEpochEndWriteOp s v))

/-- DBG_ACTIVE of TAL_CTL. -/
def talDbgActive (s : State) : Bool := fld s F.talCtlDbgSet == 1 && debugRight s rightTally
/-- The tally that TAL_SEL selects: slot and index. (DESIGN CHOICE, log entry 49) -/
def talSelected (s : State) : Option (Nat × Nat × Bundle × Tally × TallyRec) :=
  match byHandle s (fld s F.talSelHandle) with
  | none => none
  | some (slot, _) => (tallyAt s slot (fld s F.talSelIndex)).map (fun x => (slot, fld s F.talSelIndex, x.1, x.2.1, x.2.2))
/-- The record of R284, and DBG_WRITE. -/
def talDbgRecord (s : State) (o : Origin) (slot i : Nat) (b : Bundle) (r : TallyRec) (old new : Nat) : State :=
  let h := handleOf slot b
  reportNow (setEvent s F.talEventDbgWrite) C.tallyDbgWrite (srcActive s) h (d4 h ++ d4 i ++ d4 r.id ++ d4 old ++ d4 new ++ d4 (originSession o)) false true
/-- TAL_SET written: the value at the home cell, then the waiters it satisfies; a tally homed on another module has none here. (DESIGN CHOICE, log entry 49) -/
def talSetWriteOp (s : State) (o : Origin) (v : Word) : State × Nat :=
  if talDbgActive s = false then (s, C.tallyDbgDenied)
  else match talSelected s with
    | none => (s, C.handleUnknown)
    | some (slot, i, b, t, r) =>
      if r.capacity < v.toNat then (s, C.tallySetRange)
      else if t.home.isNone then (s, C.ok)
      else
        let s1 := talDbgRecord s o slot i b r t.value.toNat v.toNat
        (release (modTally s1 slot i (fun t => { t with value := v })) slot i, C.ok)
/-- TAL_SET_WRITE. -/
def execTalSetWrite (o : Origin) (v : Word) (s : State) : Out := done (regWriteRow s o false (fun s => talSetWriteOp s o v))

/-- A home as the record of R284 gives it: the station, or the postcode in bits 31:16 with 0xFFFF below, as in TAL_REHOME. (DESIGN CHOICE, log entry 49) -/
def homeWord (t : Tally) : Nat := match t.home with | some i => i | none => t.remoteHome * 65536 + 0xFFFF
/-- TAL_REHOME written. (DESIGN CHOICE, log entry 49) -/
def talRehomeWriteOp (s : State) (o : Origin) (v : Word) : State × Nat :=
  if talDbgActive s = false then (s, C.tallyDbgDenied)
  else match talSelected s with
    | none => (s, C.handleUnknown)
    | some (slot, i, b, t, r) =>
      let st := wfld v F.talRehomeStation
      if t.orphaned = false then (s, C.tallyNotOrphaned)
      else if st ≠ 0xFFFF ∧ b.stations.length ≤ st then (s, C.ok)
      else
        let t' : Tally := if st = 0xFFFF then { t with home := none, remoteHome := wfld v F.talRehomePostcode, orphaned := false }
          else { t with home := some st, value := 0, orphaned := false }
        (mapGen (modTally (talDbgRecord s o slot i b r (homeWord t) (homeWord t')) slot i (fun _ => t')), C.ok)
/-- TAL_REHOME_WRITE. -/
def execTalRehomeWrite (o : Origin) (v : Word) (s : State) : Out := done (regWriteRow s o false (fun s => talRehomeWriteOp s o v))

end Sys2Proof.Machine
end

