-- ==== Sys2Proof/Machine/Views.lean ====
section
/-!
DEFINITION. Registers as they read: the fields that the state holds elsewhere, over the stored word (R33, R69, R106, R174, R261,
R286, R320, R356, R392, R410, R444, R477, R478, R515 to R518, R546, R571).
-/
namespace Sys2Proof.Machine
open Sys2Proof

/-- Fields with their present values. -/
abbrev View := List (Fld × Nat)
/-- How many of a list satisfy a test. -/
def count {α : Type} (l : List α) (p : α → Bool) : Nat := (l.filter p).length
/-- A whole-word register's bytes. -/
def wordAt (b : List Byte) (w : Nat) : Nat := fieldLE b (4 * w) 4

/-! ### Identity, bundles, dead letters, memory -/

/-- Cells of a die that passed production test (R31); none on an absent die. -/
def goodOn (s : State) (d : Nat) : Nat := count (List.range 256) (fun k => goodCell s (256 * d + k))
def retiredOn (s : State) (d : Nat) : Nat := count s.pl.retired (fun e => decide (dieOf e.1 = d))
def freeOn (s : State) (d : Nat) : Nat := count (freeCells s []) (fun c => decide (dieOf c = d))
def viewIdentity (s : State) (r : RegRef) : View :=
  match r.reg with
  | .idCells => [(F.idCellsGood, goodOn s r.i)]
  | .idSerialLo => [(F.idSerialLoSerial, s.ident.serial)]
  | .idSerialHi => [(F.idSerialHiSerial, s.ident.serial / 2 ^ 32)]
  | .idPart => [(F.idPartPart, if s.ident.fm2 then 0x0F02 else 0x0F08), (F.idPartLid, b2n s.ident.coldPlate)]
  | .idPop => [(F.idPopDiePresent, if s.ident.fm2 then 0x03 else 0xFF), (F.idPopEngPresent, if s.ident.fm2 then 0x1 else 0xF)]
  | _ => []
def viewBundles (s : State) (r : RegRef) : View :=
  match r.reg with
  | .bndStat => [(F.bndStatSlotsUsed, (heldSlots s).length), (F.bndStatLoadBusy, b2n s.pl.busy.isSome), (F.bndStatQueued, s.pl.queue.length)]
  | .bndCells => [(F.bndCellsFree, freeOn s r.i), (F.bndCellsRetired, retiredOn s r.i)]
  | .bndSlotStat =>
    (match slotBundle s r.i with
      | some b => [(F.bndSlotStatState, b.st.code), (F.bndSlotStatPriority, b.img.limits.priority), (F.bndSlotStatEvictable, b2n b.img.limits.evictable),
          (F.bndSlotStatReuse, b.reuse), (F.bndSlotStatPreload, b.preload)]
      | none => [])
  | .bndRetired => [(F.bndRetiredCells, (List.range 32).foldl (fun x k => x + b2n (retiredCell s (256 * r.i + 32 * r.j + k)) * 2 ^ k) 0)]
  | _ => []
/-- Spare rows left in each bank of a stack, fewest first known: used rows, and the fewest left. -/
def sparesUsed (k : Stack) : Nat := (k.repaired.map (fun e => e.2.length)).foldl (· + ·) 0
def sparesFewest (k : Stack) : Nat := k.repaired.foldl (fun m e => min m (spareRows - e.2.length)) spareRows
def viewDie (s : State) (r : RegRef) : View :=
  match r.reg with
  | .dieDlqStat => [(F.dieDlqStatCount, (dlqOf s r.blk).length), (F.dieDlqStatFull, b2n (decide (1024 ≤ (dlqOf s r.blk).length)))]
  | .memStkStat =>
    (match stackOf s (2 * r.blk + r.i) with
      | some k => [(F.memStkStatWipeBusy, b2n k.wiping), (F.memStkStatFailed, b2n k.failed), (F.memStkStatSparesLow, b2n (decide (sparesFewest k ≤ 2))),
          (F.memStkStatSparesOut, b2n (decide (sparesFewest k = 0)))]
      | none => [])
  | .memStkRepair =>
    (match stackOf s (2 * r.blk + r.i) with
      | some k => [(F.memStkRepairUsed, sparesUsed k), (F.memStkRepairFewestLeft, sparesFewest k)]
      | none => [])
  | _ => []
def viewTally (s : State) (r : RegRef) : View :=
  match r.reg with
  | .talCtl => [(F.talCtlDbgActive, b2n (talDbgActive s))]
  | _ =>
    match talSelected s with
    | none => []
    | some (_, _, _, t, _) =>
      let here := t.home.isSome
      let own (n : Nat) : Nat := if here then n else 0
      match r.reg with
      | .talValue => [(F.talValueValue, own t.value.toNat)]
      | .talStat =>
        let w (l : List Waiter) : Nat := if talDbgActive s then own (min l.length 255) else 0
        [(F.talStatValid, own 1), (F.talStatOrphaned, b2n t.orphaned), (F.talStatRemote, b2n (!here)), (F.talStatTakers, w t.takers), (F.talStatWatchers, w t.watchers)]
      | .talMulti => [(F.talMultiMulti, own t.multi)]
      | .talFaults => [(F.talFaultsOver, own t.overs), (F.talFaultsUnder, own t.under)]
      | _ => []

/-! ### Pace, power and temperature -/

/-- Whether a domain is failed (R257), and its state in DOM_STAT. -/
def domFailed (s : State) (n : Nat) : Bool :=
  decide (n < 64) && (n % 8 == 5 || n % 8 == 6) && (match stackOf s (2 * (n / 8) + (n % 8 - 5)) with | some k => k.failed | none => false)
def domIsOn (s : State) (n : Nat) : Bool := domainOn s (lasersOn s) n
def domState (s : State) (n : Nat) : Nat :=
  if (match partOf n with | some p => isShut s p | none => false) then 2 else if domFailed s n then 3 else if domIsOn s n then 1 else 0
/-- Whether any domain is held below its request by the cap (R309). -/
def capping (s : State) : Bool :=
  (governedDomains s.ident).any (fun n => decide (settingOf s n < wanted s n))
def viewPace (s : State) (r : RegRef) : View :=
  let n := r.i
  match r.reg with
  | .pwrStat => [(F.pwrStatCapping, b2n (capping s)), (F.pwrStatBrake, b2n (brakeCause s != 0)), (F.pwrStatBrakeCause, brakeCause s), (F.pwrStatThermHigh, b2n (!s.pace.high.isEmpty))]
  | .pwrEnergyHi => [(F.pwrEnergyHiEnergy, s.pace.energyHi.toNat)]
  | .domStat =>
    if domainExists s.ident n = false then [(F.domStatState, 0), (F.domStatVolt, 0)]
    else
      let on := domState s n == 1
      [(F.domStatState, domState s n), (F.domStatGoverned, b2n (governed n)), (F.domStatVolt, if on then fldAt s F.domStatVolt 0 n 0 else 0),
       (F.domStatTarget, if governed n then wanted s n else 0)]
  | .domRate =>
    if domainExists s.ident n = false then [(F.domRatePower, 0)] else [(F.domRateRate, if governed n && domState s n == 1 then curveRate s n (settingOf s n) / 1000 else 0)]
  | .domAge => if domainExists s.ident n = false then [(F.domAgeDays, 0)] else []
  | .elecStat => [(F.elecStatRefclkOk, b2n (!s.elec.clkLost))]
  | _ => []

/-! ### Optical engines and fabric -/

/-- STATE in OPT_LANE_STAT (R340), OPT_LASER and OPT_ELEM_STAT. -/
def LaneState.code : LaneState → Nat
  | .dark => 0x0
  | .lighting => 0x1
  | .training => 0x2
  | .margin => 0x3
  | .active => 0x4
  | .spareIdle => 0x5
  | .covering => 0x6
  | .cal => 0x7
  | .spared => 0x8
  | .dropped => 0x9
  | .held => 0xA
  | .recover => 0xB
  | .through => 0xC
  | .tripped => 0xD
def LaserState.code : LaserState → Nat
  | .off => 0
  | .warming => 1
  | .lockedDark => 2
  | .inUse => 3
  | .retired => 4
def ElemState.code : ElemState → Nat
  | .safe => 0
  | .steering => 1
  | .locked => 2
  | .tripped => 3
/-- PORTS_UP: ports with a lane ACTIVE or COVERING. -/
def portsUp (o : Optic) : Nat :=
  (List.range 8).foldl (fun x p => x + b2n ((List.range 9).any (fun c => (o.lane p c).st == .active || (o.lane p c).st == .covering)) * 2 ^ p) 0
def viewEngine (s : State) (r : RegRef) : View :=
  let e := r.blk
  let o := opticOf s e
  match r.reg with
  | .optStat => [(F.optStatLightReady, b2n (lightReady s e)), (F.optStatSteerBusy, b2n o.busy), (F.optStatHoPending, b2n (!o.handover.isEmpty)), (F.optStatPortsUp, portsUp o)]
  | .optLaser =>
    let l := o.laser r.i
    [(F.optLaserState, l.st.code), (F.optLaserFailed, b2n l.failed), (F.optLaserBiasPct, l.bias), (F.optLaserPower, l.power)]
  | .optLaneStat =>
    let x := o.lane r.i r.j
    [(F.optLaneStatState, x.st.code), (F.optLaneStatCover, if r.j = 8 then x.cover.getD 0xF else 0xF), (F.optLaneStatMargin, min x.margin 255),
     (F.optLaneStatCause, x.cause), (F.optLaneStatRetries, min x.retries 15)]
  | .optElemStat =>
    let x := o.elem (fldAt s F.optElemSelIndex e 0 0)
    [(F.optElemStatState, x.st.code), (F.optElemStatIdentOk, b2n x.identOk), (F.optElemStatPilot, x.pilot.getD 0xF), (F.optElemStatHeater, x.heater), (F.optElemStatError, x.error)]
  | _ => []

/-- STATE of FAB_PORT. (DESIGN CHOICE, log entry 50) -/
def portState (s : State) (p : Nat) : Nat :=
  let ls := (portLinks s p).filter (fun e => !e.2.chans.isEmpty)
  let up := ls.filter (fun e => e.2.st == .up)
  if !up.isEmpty then (if up.any (fun e => decide (e.2.lanes.length < e.2.trained)) then 3 else 2)
  else if !ls.isEmpty then 4
  else if s.fab.unplanned.contains p then 6
  else if s.fab.absent.contains p then 5
  else if (opticOf s (p / 8)).lit (p % 8) then 1 else 0
def LinkState.code : LinkState → Nat
  | .up => 1
  | .down => 2
  | .lost => 3
/-- The link that holds a channel of a port. -/
def chanLink (s : State) (p c : Nat) : Option Link := ((portLinks s p).find? (fun e => e.2.chans.contains c)).map (·.2)
/-- DESIGN CHOICE, log entry 50. -/
def viewFabric (s : State) (r : RegRef) : View :=
  match r.reg with
  | .fabStat => [(F.fabStatRecableBusy, b2n (s.fab.recable != .idle)), (F.fabStatPaused, b2n (s.fab.recable == .paused)), (F.fabStatLinksUp, count s.fab.links (fun e => e.2.st == .up))]
  | .fabPort =>
    let ls := (portLinks s r.i).filter (fun e => !e.2.chans.isEmpty)
    [(F.fabPortState, portState s r.i), (F.fabPortRole, portRole s.ident r.i), (F.fabPortLanes, (ls.map (fun e => e.2.lanes.length)).foldl (· + ·) 0), (F.fabPortLinks, ls.length)]
  | .fabFar =>
    let i := (identOf s r.i r.j).getD ⟨0, 0, 0, 0, 0, 0, 0, 0, 0⟩
    [(F.fabFarPostcode, i.postcode), (F.fabFarPort, i.port), (F.fabFarKind, i.kind), (F.fabFarMatch, i.matched),
     (F.fabFarLinkState, match chanLink s r.i r.j with | some l => l.st.code | none => 0)]
  | _ => []

/-! ### Calibration and servo loops -/

/-- How many items of the part satisfy a test. -/
def calCount (s : State) (p : CalItem → Bool) : Nat :=
  ((List.range 8).map (fun cls => count (List.range (calSpan cls)) (fun i => calExists s.ident cls i && p (calItem s cls i)))).foldl (· + ·) 0
def CalSource.code : CalSource → Nat
  | .factory => 0
  | .measured => 1
  | .restored => 2
  | .none => 3
def viewCal (s : State) (r : RegRef) : View :=
  let there := calExists s.ident (calSelCls s) (calSelInst s)
  let x := calItem s (calSelCls s) (calSelInst s)
  match r.reg with
  | .calStat => [(F.calStatRunning, calCount s (·.running)), (F.calStatDue, calCount s (fun x => x.due && !x.running))]
  | .calItemStat =>
    if there then [(F.calItemStatSource, x.source.code), (F.calItemStatDue, b2n x.due), (F.calItemStatRunning, b2n x.running), (F.calItemStatFailed, b2n x.failed),
      (F.calItemStatBadRuns, min x.bad 3), (F.calItemStatTref, x.tref)]
    else [(F.calItemStatSource, 3)]
  | .calItemQual => if there then [(F.calItemQualQuality, x.quality), (F.calItemQualAgeS, min (calSec s - max x.effect s.cal.since) 65535)] else []
  | _ => []

/-- STATE of SRV_OBJ_STAT. -/
def LoopState.code : LoopState → Nat
  | .open_ => 0
  | .closed => 1
  | .tripped => 2
def InputState.code : InputState → Nat
  | .armed => 0
  | .masked => 1
  | .overrun => 2
def CapState.code : CapState → Nat
  | .idle => 0
  | .running => 1
  | .done_ => 2
  | .aborted => 3
/-- The active engine; HA's where no hub is active. -/
def engNow (s : State) : Servo := engOf s (s.active.getD .ha)
def viewServo (s : State) (r : RegRef) : View :=
  let g := engNow s
  match r.reg with
  | .srvStat => [(F.srvStatActiveHub, match s.active with | some h => hubIndex h | none => 0), (F.srvStatStandbySync, b2n s.synced), (F.srvStatClosed, count (List.range 32) g.closed)]
  | .srvObjStat =>
    let i := fld s F.srvSelIndex
    (match fld s F.srvSelKind with
      | 0 =>
        let l := g.loop i
        [(F.srvObjStatState, l.st.code), (F.srvObjStatSpHold, b2n (!l.spHold.isEmpty)), (F.srvObjStatSat, l.sat), (F.srvObjStatCause, l.cause),
         (F.srvObjStatReason, l.reason), (F.srvObjStatCount, min l.trips 0x1FFFF)]
      | 1 => if i < 28 then [(F.srvObjStatState, (g.input i).st.code), (F.srvObjStatCount, min (g.input i).overs 0x1FFFF)] else []
      | 3 => [(F.srvObjStatState, g.cap.st.code), (F.srvObjStatCount, min g.cap.data.length 0x1FFFF)]
      | _ => [])
  | _ => []

/-! ### Time, Ethernet, hubs -/

/-- The instances of the active hub. -/
def ptpNow (s : State) (j : Nat) : Ptp := match s.active with | some h => ptpOf s h j | none => Ptp.reset
/-- A signed number as a register word. -/
def signedWord (x : Int) : Nat := (BitVec.ofInt 32 x).toNat
def viewTime (s : State) (r : RegRef) : View :=
  match r.reg with
  | .tbSecHi => [(F.tbSecHiSec, s.tb.latchHi.toNat)]
  | .tbNs => [(F.tbNsNs, s.tb.latchNs.toNat)]
  | .tbFrac => [(F.tbFracFrac, s.tb.latchFrac.toNat)]
  | .ptpCfg =>
    let p := ptpNow s r.i
    [(F.ptpCfgState, if s.active.isNone || fldAt s F.ptpCfgEnable 0 r.i 0 == 0 then 0 else if p.locked then 3 else if p.hasOfs then 2 else 1)]
  | .ptpOfs => [(F.ptpOfsValue, signedWord (ptpNow s r.i).ofs)]
  | .ptpMpd => [(F.ptpMpdValue, signedWord (ptpNow s r.i).mpd)]
  | _ => []
/-- A hub by its number. -/
def hubNo (i : Nat) : Hub := if i = 0 then .ha else .hb
def viewEth (s : State) (r : RegRef) : View :=
  match r.reg with
  | .ethStat => [(F.ethStatLink, b2n (hubOf s (hubNo r.i)).link), (F.ethStatServing, b2n (s.active == some (hubNo r.i)))]
  | .ctrStat => [(F.ctrStatSessions, count s.sessions Session.isOpen), (F.ctrStatControl, count s.sessions (fun x => x.isOpen && x.control))]
  | _ => []
/-- Health codes (R484). -/
def Health.code : Health → Nat
  | .active => 0
  | .standbySync => 1
  | .standbyUnsync => 2
  | .hbLost => 3
  | .handoverReq => 4
  | .restarting => 5
  | .recovery => 6
  | .failed => 7
/-- FAULT_N is asserted (driven low) while a bit of RED_FAULT is 1 (R515). -/
def faultN (s : State) : Bool := regWord s ⟨.redFault, 0, 0, 0⟩ == 0
/-- DESIGN CHOICE, log entry 50. -/
def viewRed (s : State) (r : RegRef) : View :=
  let x := hubOf s (hubNo r.i)
  match r.reg with
  | .redStat =>
    let who := match s.active with | some h => hubIndex h | none => if s.last.isNone then 0 else (Config.freeWord s.free).toNat % 2
    [(F.redStatActive, who), (F.redStatLeaseA, b2n s.ha.lease), (F.redStatLeaseB, b2n s.hb.lease), (F.redStatSync, b2n s.synced), (F.redStatXlink, b2n (s.xlink && firmwareRuns s.ha && firmwareRuns s.hb))]
  | .redHealth => [(F.redHealthCode, x.health.code), (F.redHealthEthDown, b2n x.ethDown), (F.redHealthRecDegraded, b2n x.recorder.degraded)]
  | .redFwStat =>
    [(F.redFwStatStep, s.fw.step), (F.redFwStatProgress, if s.fw.step = 0 then 0 else (Config.freeWord s.free).toNat % 101), (F.redFwStatLast, s.fw.last)]
  | .redFwVer => [(F.redFwVerVersion, x.running.version), (F.redFwVerRepl, x.running.repl), (F.redFwVerRecovery, b2n x.recovery)]
  | .redOptimeLo => [(F.redOptimeLoValue, s.optime)]
  | .redCycles => [(F.redCyclesValue, s.cycles)]
  | _ => []
/-- The recorder whose window is served. -/
def recNow (s : State) : Recorder := (hubOf s (s.active.getD .ha)).recorder
def viewRec (s : State) (r : RegRef) : View :=
  let c := recNow s
  let open_ := (Config.freeWord s.free).toNat % 2 ^ 32
  match r.reg with
  | .recStat => [(F.recStatDegraded, b2n c.degraded), (F.recStatAdded, b2n c.added)]
  | .recOldest => [(F.recOldestSeq, match c.live.head? with | some x => x.seq | none => open_)]
  | .recNewest => [(F.recNewestSeq, match c.live.getLast? with | some x => x.seq | none => open_)]
  | .recCursor => [(F.recCursorSeq, c.cursor)]
  | .recWstat => [(F.recWstatState, c.wState), (F.recWstatLength, c.wLen)]
  | .recWin => [(F.recWinWord, ((c.win[r.i]?).getD 0).toNat)]
  | _ => []
def viewPerf (s : State) (r : RegRef) : View :=
  match r.reg with
  | .pctSmpStat => [(F.pctSmpStatCount, s.sampling.buffer.length), (F.pctSmpStatLost, s.sampling.lost)]
  | .pctSmpWin => [(F.pctSmpWinWord, match s.sampling.buffer.head? with | some x => wordAt x.bytes r.i | none => 0)]
  | _ => []
def viewSec (s : State) (r : RegRef) : View :=
  match r.reg with
  | .secStat => [(F.secStatLc, s.sec.lc.code), (F.secStatRights, rightsInForce s), (F.secStatSvnMin, s.sec.svnMin)]
  | .secRetCmd => [(F.secRetCmdPending, b2n s.sec.retPending)]
  | .secKeySel => [(F.secKeySelKind, (keySlot s (keySel s)).kind)]
  | .secKeyW => [(F.secKeyWWord, wordAt (keySlot s (keySel s)).key r.i)]
  | .secIdPub => [(F.secIdPubWord, wordAt (idPub s) r.i)]
  | .secAttStat => [(F.secAttStatBusy, b2n s.sec.attesting.isSome), (F.secAttStatReady, b2n (!s.sec.attReport.isEmpty)), (F.secAttStatLength, (attSource s).length)]
  | .secAttWin => [(F.secAttWinWord, wordAt (attSource s) (256 * fld s F.secAttCtlPage + r.i))]
  | _ => []

/-- The fields of a register that the state holds elsewhere. (DESIGN CHOICE, log entry 50) -/
def view (s : State) (r : RegRef) : View :=
  match r.reg.block with
  | .identity => viewIdentity s r
  | .pace => viewPace s r
  | .bundles => viewBundles s r
  | .tally => viewTally s r
  | .perf => viewPerf s r
  | .recorder => viewRec s r
  | .time => viewTime s r
  | .eth => viewEth s r
  | .cal => viewCal s r
  | .servo => viewServo s r
  | .red => viewRed s r
  | .sec => viewSec s r
  | .die => viewDie s r
  | .engine => viewEngine s r
  | .fabric => viewFabric s r
/-- Registers that read 0 on an FM-2: those of absent domains and of ports OP8 to OP31 (R320, R392). (DESIGN CHOICE, log entry 50) -/
def fm2Port (s : State) (r : RegRef) : Bool :=
  s.ident.fm2 && decide (8 ≤ r.i) && [Reg.fabPort, .fabExpect, .fabBypass, .fabFar, .fabTof].contains r.reg
/-- A register's word as a read returns it. -/
def regRead (s : State) (r : RegRef) : Word :=
  if fm2Port s r then 0
  else BitVec.ofNat 32 ((view s r).foldl (fun x e => setField x e.1.lsb e.1.width e.2) (regWord s r).toNat)
/-- A read that showed an open value takes it. -/
def afterRead (s : State) (r : RegRef) : State :=
  let empty := (recNow s).live.isEmpty
  if (r.reg == .redStat && s.active.isNone) || (r.reg == .redFwStat && s.fw.step != 0) || ((r.reg == .recOldest || r.reg == .recNewest) && empty) then (takeFree s).2 else s

end Sys2Proof.Machine
end

