-- ==== Sys2Proof/Machine/RegAccess.lean ====
section
/-!
DEFINITION. Register accesses by address (R3, R14 to R20): which register an address names, what a read returns and does, what a
write does; STATUS, REG_READ, REG_WRITE and RESET of the Counter (R458).
-/
namespace Sys2Proof.Machine
open Sys2Proof

/-! ### Addresses (R3, R14) -/

/-- The register that an address names, or the code of the refusal. -/
def resolve (s : State) (a : Nat) : Except Nat RegRef :=
  let absent := match blockAt a with
    | some (.die, n, _) => decide (s.ident.dies ≤ n)
    | some (.engine, n, _) => decide (s.ident.engines ≤ n)
    | _ => false
  if absent then .error C.regAbsent
  else match regAt a with
    | some r => .ok r
    | none => .error C.regUnmapped
/-- Whether an address lies in the redundancy and arbiter block (R486). -/
def isRed (a : Nat) : Bool := match blockAt a with | some (b, _, _) => b == .red | none => false

/-! ### Reads -/

/-- A read as it is served: registers whose read does something, and every other. -/
def readServed (s : State) (r : RegRef) : State × Nat × Word :=
  let ok (x : State × Word) : State × Nat × Word := (x.1, C.ok, x.2)
  match r.reg with
  | .pwrEnergyLo => ok (pwrEnergyLoRead s)
  | .tbSecLo => ok (tbSecLoRead s)
  | .pctValLo => ok (pctValLoRead s)
  | .redOptimeLo => ok (redOptimeLoRead s)
  | .fabRbData => ok (rbDataRead s)
  | .fabRbActive => ok (rbActiveRead s)
  | .calData => ok (calDataRead s)
  | .secGrantData => ok (grantDataRead s)
  | .srvParam => srvParamRead s
  | .dieDbgLo => dbgLoRead s r.blk
  | _ => (afterRead s r, C.ok, regRead s r)
/-- DESIGN CHOICE, log entry 50. -/
def readAt (s : State) (a : Nat) : State × Nat × Word :=
  match resolve s a with
  | .error c => (s, c, 0)
  | .ok r => readServed s r

/-! ### Writes -/

/-- An instance's settings changed: it starts anew in both hubs. (DESIGN CHOICE, log entry 51) -/
def restartPtp (s : State) (j : Nat) : State := setPtp (setPtp s .ha j Ptp.reset) .hb j Ptp.reset
/-- What a plain write of some registers brings about: the governor looks again, a disabled port goes down, a changed instance
starts anew, links follow the fabric's mode, a port of an FM-2 that has no two-network mode keeps it at 0. (DESIGN CHOICE, log entry 51) -/
def afterWrite (before s : State) (r : RegRef) : State :=
  match r.reg with
  | .paceCtl => resettle s
  | .paceVlim => resettle s
  | .paceFixed => resettle s
  | .ptpCfg => if regWord before r = regWord s r then s else restartPtp s r.i
  | .ptpBound => requal s
  | .ethCtl => if fldAt s F.ethCtlEnable 0 r.i 0 = 0 then modHub s (hubNo r.i) (fun x => { x with link := false, ethDown := true }) else s
  | .fabCtl => afterFabCtl (if s.ident.fm2 then setFld s F.fabCtlTwoNet 0 else s)
  | _ => s
/-- A register with no behaviour of its own written under its access codes (R18 to R20). -/
def writePlain (s : State) (r : RegRef) (v : Word) : State × Nat :=
  let x := plainWrite s r v
  if x.2 ≠ C.ok then x else (afterWrite s x.1 r, C.ok)
/-- A write as it is served. (DESIGN CHOICE, log entry 51) -/
def writeServed (s : State) (o : Origin) (r : RegRef) (v : Word) : State × Nat :=
  match r.reg with
  | .pwrCap => pwrCapWrite s v
  | .tbCtl => tbCtlWrite s v
  | .tbIncrLo => tbIncrLoWrite s v
  | .tbIncrHi => tbIncrHiWrite s v
  | .tbAdj => tbAdjWrite s v
  | .optSteer => optSteerWrite r.blk s v
  | .fabPostcode => postcodeWrite s v
  | .fabRecable => recableWrite s v
  | .fabRbData => rbDataWrite s v
  | .fabRbActive => rbActiveWrite s
  | .fabRbCtl => fabRbCtlWrite s v
  | .fabExpect => if fm2Port s r then (s, C.ok) else expectWrite false r.i r.j s v
  | .fabBypass => if fm2Port s r then (s, C.ok) else expectWrite true r.i r.j s v
  | .calData => calDataWrite s v
  | .calCmd => calCmdWrite s v
  | .srvParam => srvParamWrite s v
  | .srvCmd => srvCmdWrite s v
  | .redFwCmd => fwCmdWrite s o v
  | .recCtl =>
    if wfld v F.recCtlRetry = 0 then (s, C.ok) else recRetryWrite (takeFree s).2 v ((takeFree s).1.getLsbD 0)
  | .recStat => (if wfld v F.recStatAdded = 0 then s else onActive s (fun h => modRec s h (fun c => { c with added := false })), C.ok)
  | .recCursor => recCursorWriteOp s v
  | .recFindNs => recFindWrite s v
  | .pctClr => pctClrWrite s v
  | .pctSmpCtl => pctSmpCtlWrite s r.i v
  | .pctSmpPop => pctSmpPopWrite s v
  | .dieDbgCmd => dbgCmdWrite s o r.blk v
  | .secCtl => secCtlWrite s o v
  | .secRetCmd => secRetCmdWrite s v
  | .secLcCmd => lcCmdWrite s o v
  | .secKeySel => keySelWrite s v
  | .secKeyW => keyWordWrite s r.i v
  | .secKeyCmd => keyCmdWrite s o v
  | .secGrantData => grantDataWrite s v
  | .secGrantCmd => grantCmdWrite s v
  | .secAttCtl => attCtlWrite s v
  | .dltKeyreq => dltKeyreqWriteOp s v
  | .talSet => talSetWriteOp s o v
  | .talRehome => talRehomeWriteOp s o v
  | .talEpochEnd => talEpochEndWriteOp s v
  | _ => writePlain s r v
/-- DESIGN CHOICE, log entry 51. -/
def writeAt (s : State) (o : Origin) (a : Nat) (v : Word) : State × Nat :=
  match resolve s a with
  | .error c => (s, c)
  | .ok r => writeServed s o r v
/-- A life-cycle transition that a write has begun goes on, once the write is answered. (DESIGN CHOICE, log entry 48) -/
def afterLc (before s : State) : State := if before.sec.incomplete.isNone then lcFinish s else s
/-- REGISTER_WRITE_PLAIN: a write to the register at an address. -/
def execRegisterWritePlain (o : Origin) (addr : Nat) (v : Word) (s : State) : Out :=
  done (afterLc s (regWriteRow s o (isRed addr) (fun s => writeAt s o addr v)))

/-! ### Counter commands (R458) -/

/-- STATUS. -/
def svcStatus : Service := sized 0 (fun s c _ =>
  finishReq s c C.ok (leBytes 4 (idPartWord s).toNat ++ leBytes 4 (idPopWord s).toNat ++ leBytes 8 s.ident.serial ++ padTo 6 s.ident.mac0 ++ padTo 6 s.ident.mac1 ++
    leBytes 1 (match s.active with | some h => hubIndex h | none => 0) ++ leBytes 1 s.sec.lc.code ++ leBytes 4 (regRead s ⟨.bndStat, 0, 0, 0⟩).toNat))
/-- Consecutive reads: the words up to the first access that fails, and its code. -/
def readRun : Nat → State → Nat → State × Nat × List Byte
  | 0, s, _ => (s, C.ok, [])
  | n + 1, s, a =>
    let x := readAt s a
    if x.2.1 ≠ C.ok then (x.1, x.2.1, [])
    else
      let r := readRun n x.1 (a + 4)
      (r.1, r.2.1, leBytes 4 x.2.2.toNat ++ r.2.2)
/-- REG_READ. -/
def svcRegRead : Service := sized 6 (fun s c b =>
  let n := fieldLE b 4 2
  if n = 0 ∨ 256 < n then malformed s c b
  else
    let r := readRun n s (fieldLE b 0 4)
    finishReq r.1 c r.2.1 r.2.2)
/-- REG_WRITE: answered before a transition that it begins goes on. -/
def svcRegWrite : Service := sized 8 (fun s c b =>
  let x := writeAt s (.session c.session) (fieldLE b 0 4) (BitVec.ofNat 32 (fieldLE b 4 4))
  afterLc s (finishReq x.1 c x.2 []))
/-- RESET: the reply goes first (R524). (DESIGN CHOICE, log entry 51) -/
def svcReset : Service := sized 1 (fun s c b =>
  if fieldLE b 0 1 ≠ 0 then malformed s c b else warmReset (finishReq s c C.ok []) 2)

end Sys2Proof.Machine
end

