-- ==== Sys2Proof/Machine/CtrRows.lean ====
section
/-!
DEFINITION. The Counter's commands as rows (R452, R453, R458): which service a command code names, and requests that waited
behind one of their session.
-/
namespace Sys2Proof.Machine
open Sys2Proof

/-- The service of a command code; an unknown one is answered CTR_COMMAND_UNKNOWN (R452). -/
def ctrServe (code : Nat) : Service :=
  match code with
  | 0x0002 => svcSessionAuth
  | 0x0003 => svcSessionClose
  | 0x0004 => svcStatus
  | 0x0010 => svcRegRead
  | 0x0011 => svcRegWrite
  | 0x0020 => svcBundleStage
  | 0x0021 => svcBundleLoad
  | 0x0022 => svcFitProbe
  | 0x0023 => svcStart
  | 0x0024 => svcHold
  | 0x0025 => svcEvict
  | 0x0026 => svcUnload
  | 0x0028 => svcMapRead
  | 0x0030 => svcDlqRead
  | 0x0031 => svcDlqRelease
  | 0x0032 => svcDeltaRead
  | 0x0038 => svcMemRead
  | 0x0039 => svcMemWrite
  | 0x0040 => svcCalSave
  | 0x0041 => svcCalRestore
  | 0x0048 => svcCellRetire
  | 0x0049 => svcCellRestore
  | 0x0050 => svcHostQp
  | 0x0060 => svcReset
  | _ => answerOnly C.ctrCommandUnknown

/-- The oldest request that waits behind none of its session. -/
def nextBacklog (s : State) : Option (Session × CtrReq) :=
  s.sessions.findSome? (fun x => if x.busy then none else x.backlog.head?.map (fun r => (x, r)))
/-- Requests accepted while another of their session ran go on, in SEQ order, as sessions come free (R453). -/
def serveBacklogs : Nat → State → State
  | 0, s => s
  | fuel + 1, s =>
    match nextBacklog s with
    | none => s
    | some (x, r) =>
      serveBacklogs fuel (runReq (modSession s x.id (fun x => { x with backlog := x.backlog.drop 1 })) r.caller r.body (ctrServe r.caller.command))
/-- After anything that may have answered a request. -/
def settleCtr (s : State) : State := serveBacklogs ((s.sessions.map (fun x => x.backlog.length)).foldl (· + ·) 0) s

/-- SESSION_OPEN. -/
def execSessionOpen (h : CtrHdr) (s : State) : Out := done (settleCtr (counterRow 0x0001 h svcSessionOpen s))
/-- SESSION_AUTH. -/
def execSessionAuth (h : CtrHdr) (s : State) : Out := done (settleCtr (counterRow 0x0002 h svcSessionAuth s))
/-- SESSION_CLOSE. -/
def execSessionClose (h : CtrHdr) (s : State) : Out := done (settleCtr (counterRow 0x0003 h svcSessionClose s))
/-- STATUS. -/
def execStatus (h : CtrHdr) (s : State) : Out := done (settleCtr (counterRow 0x0004 h svcStatus s))
/-- REG_READ. -/
def execRegRead (h : CtrHdr) (s : State) : Out := done (settleCtr (counterRow 0x0010 h svcRegRead s))
/-- REG_WRITE. -/
def execRegWrite (h : CtrHdr) (s : State) : Out := done (settleCtr (counterRow 0x0011 h svcRegWrite s))
/-- BUNDLE_STAGE. -/
def execBundleStage (h : CtrHdr) (s : State) : Out := done (settleCtr (counterRow 0x0020 h svcBundleStage s))
/-- BUNDLE_LOAD. -/
def execBundleLoad (h : CtrHdr) (s : State) : Out := done (settleCtr (counterRow 0x0021 h svcBundleLoad s))
/-- FIT_PROBE. -/
def execFitProbe (h : CtrHdr) (s : State) : Out := done (settleCtr (counterRow 0x0022 h svcFitProbe s))
/-- START. -/
def execStart (h : CtrHdr) (s : State) : Out := done (settleCtr (counterRow 0x0023 h svcStart s))
/-- HOLD. -/
def execHold (h : CtrHdr) (s : State) : Out := done (settleCtr (counterRow 0x0024 h svcHold s))
/-- EVICT. -/
def execEvict (h : CtrHdr) (s : State) : Out := done (settleCtr (counterRow 0x0025 h svcEvict s))
/-- UNLOAD. -/
def execUnload (h : CtrHdr) (s : State) : Out := done (settleCtr (counterRow 0x0026 h svcUnload s))
/-- MAP_READ. -/
def execMapRead (h : CtrHdr) (s : State) : Out := done (settleCtr (counterRow 0x0028 h svcMapRead s))
/-- DLQ_READ. -/
def execDlqRead (h : CtrHdr) (s : State) : Out := done (settleCtr (counterRow 0x0030 h svcDlqRead s))
/-- DLQ_RELEASE. -/
def execDlqRelease (h : CtrHdr) (s : State) : Out := done (settleCtr (counterRow 0x0031 h svcDlqRelease s))
/-- DELTA_READ. -/
def execDeltaRead (h : CtrHdr) (s : State) : Out := done (settleCtr (counterRow 0x0032 h svcDeltaRead s))
/-- MEM_READ. -/
def execMemRead (h : CtrHdr) (s : State) : Out := done (settleCtr (counterRow 0x0038 h svcMemRead s))
/-- MEM_WRITE. -/
def execMemWrite (h : CtrHdr) (s : State) : Out := done (settleCtr (counterRow 0x0039 h svcMemWrite s))
/-- CAL_SAVE. -/
def execCalSave (h : CtrHdr) (s : State) : Out := done (settleCtr (counterRow 0x0040 h svcCalSave s))
/-- CAL_RESTORE. -/
def execCalRestore (h : CtrHdr) (s : State) : Out := done (settleCtr (counterRow 0x0041 h svcCalRestore s))
/-- CELL_RETIRE. -/
def execCellRetire (h : CtrHdr) (s : State) : Out := done (settleCtr (counterRow 0x0048 h svcCellRetire s))
/-- CELL_RESTORE. -/
def execCellRestore (h : CtrHdr) (s : State) : Out := done (settleCtr (counterRow 0x0049 h svcCellRestore s))
/-- HOST_QP. -/
def execHostQp (h : CtrHdr) (s : State) : Out := done (settleCtr (counterRow 0x0050 h svcHostQp s))
/-- RESET. -/
def execReset (h : CtrHdr) (s : State) : Out := done (settleCtr (counterRow 0x0060 h svcReset s))
/-- COUNTER_COMMAND_UNKNOWN: a request by its code, served where the code is known after all; SESSION_OPEN has its own row. (DESIGN CHOICE, log entry 25) -/
def execCounterCommandUnknown (h : CtrHdr) (code : Nat) (s : State) : Out :=
  done (if code = 0x0001 then s else settleCtr (counterRow code h (ctrServe code) s))

/-- PLAN_CIRCUITS_LIT. -/
def execPlanCircuitsLit (slot : Nat) (s : State) : Out := done (settleCtr (if s.phase = .running then planCircuitsLit s slot else s))
/-- PLAN_WAIT_EXPIRY. -/
def execPlanWaitExpiry (slot : Nat) (s : State) : Out := done (settleCtr (if s.phase = .running then planWaitExpiry s slot else s))
/-- PRELOAD_STORAGE_COMPLETE. (DESIGN CHOICE, log entry 26) -/
def execPreloadStorageComplete (slot : Nat) (images : List (List Byte × Bool)) (s : State) : Out :=
  done (settleCtr (if s.phase = .running then preloadComplete s slot images else s))
/-- EVICT_DRAINED. -/
def execEvictDrained (slot : Nat) (s : State) : Out := done (settleCtr (if s.phase = .running then evictDrained s slot else s))
/-- EVICT_DRAIN_TIMEOUT. -/
def execEvictDrainTimeout (slot : Nat) (s : State) : Out := done (settleCtr (if s.phase = .running then evictDrainTimeout s slot else s))

end Sys2Proof.Machine
end

