-- ==== Sys2Proof/Machine/Dispatch.lean ====
section
/-!
DEFINITION. One arm for each command: its meaning.
-/
namespace Sys2Proof.Machine
open Sys2Proof

/-- The effect of a command on everything but the queue. -/
def exec (i : Instr) (s : State) : Host.Outcome State Fault Refusal :=
  match i with
  | .alu cell w => Sys2Proof.Machine.execAlu cell w s
  | .addi cell w => Sys2Proof.Machine.execAddi cell w s
  | .andi cell w => Sys2Proof.Machine.execAndi cell w s
  | .ori cell w => Sys2Proof.Machine.execOri cell w s
  | .xori cell w => Sys2Proof.Machine.execXori cell w s
  | .shli cell w => Sys2Proof.Machine.execShli cell w s
  | .shri cell w => Sys2Proof.Machine.execShri cell w s
  | .sari cell w => Sys2Proof.Machine.execSari cell w s
  | .movi cell w => Sys2Proof.Machine.execMovi cell w s
  | .movs cell w => Sys2Proof.Machine.execMovs cell w s
  | .cmp cell w => Sys2Proof.Machine.execCmp cell w s
  | .cmpi cell w => Sys2Proof.Machine.execCmpi cell w s
  | .plog cell w => Sys2Proof.Machine.execPlog cell w s
  | .ld64 cell w => Sys2Proof.Machine.execLd64 cell w s
  | .ld32 cell w => Sys2Proof.Machine.execLd32 cell w s
  | .ld8 cell w => Sys2Proof.Machine.execLd8 cell w s
  | .st64 cell w => Sys2Proof.Machine.execSt64 cell w s
  | .st32 cell w => Sys2Proof.Machine.execSt32 cell w s
  | .st8 cell w => Sys2Proof.Machine.execSt8 cell w s
  | .br cell w => Sys2Proof.Machine.execBr cell w s
  | .call cell w => Sys2Proof.Machine.execCall cell w s
  | .jr cell w => Sys2Proof.Machine.execJr cell w s
  | .halt cell w => Sys2Proof.Machine.execHalt cell w s
  | .tset cell w => Sys2Proof.Machine.execTset cell w s
  | .thdrR cell w => Sys2Proof.Machine.execThdrR cell w s
  | .thdrW cell w => Sys2Proof.Machine.execThdrW cell w s
  | .tcopy cell w => Sys2Proof.Machine.execTcopy cell w s
  | .tzero cell w => Sys2Proof.Machine.execTzero cell w s
  | .cvt cell w => Sys2Proof.Machine.execCvt cell w s
  | .collect cell w => Sys2Proof.Machine.execCollect cell w s
  | .collectTileArrived cell => Sys2Proof.Machine.execCollectTileArrived cell s
  | .post cell w => Sys2Proof.Machine.execPost cell w s
  | .postFirstHopAccept first => Sys2Proof.Machine.execPostFirstHopAccept first s
  | .trycollect cell w => Sys2Proof.Machine.execTrycollect cell w s
  | .endctl cell w => Sys2Proof.Machine.execEndctl cell w s
  | .endstat cell w => Sys2Proof.Machine.execEndstat cell w s
  | .fetch cell w => Sys2Proof.Machine.execFetch cell w s
  | .stash cell w => Sys2Proof.Machine.execStash cell w s
  | .gather cell w => Sys2Proof.Machine.execGather cell w s
  | .scatter cell w => Sys2Proof.Machine.execScatter cell w s
  | .radd cell w => Sys2Proof.Machine.execRadd cell w s
  | .stackAccessComplete cell k acts trip => Sys2Proof.Machine.execStackAccessComplete cell k acts trip s
  | .sfence cell w => Sys2Proof.Machine.execSfence cell w s
  | .sfenceComplete cell => Sys2Proof.Machine.execSfenceComplete cell s
  | .tgive cell w => Sys2Proof.Machine.execTgive cell w s
  | .ttake cell w => Sys2Proof.Machine.execTtake cell w s
  | .tdebit cell w => Sys2Proof.Machine.execTdebit cell w s
  | .twatch cell w => Sys2Proof.Machine.execTwatch cell w s
  | .tallyOpAccept slot tally src => Sys2Proof.Machine.execTallyOpAccept slot tally src s
  | .tallyStatusReturn cell status => Sys2Proof.Machine.execTallyStatusReturn cell status s
  | .tallyEpochMarker slot tally => Sys2Proof.Machine.execTallyEpochMarker slot tally s
  | .tallyRemoteProbe cell => Sys2Proof.Machine.execTallyRemoteProbe cell s
  | .tallyProbeTimeout cell reason => Sys2Proof.Machine.execTallyProbeTimeout cell reason s
  | .tallyHomeWaiterExpire postcode => Sys2Proof.Machine.execTallyHomeWaiterExpire postcode s
  | .confirm cell w => Sys2Proof.Machine.execConfirm cell w s
  | .cancel cell w => Sys2Proof.Machine.execCancel cell w s
  | .drain cell w => Sys2Proof.Machine.execDrain cell w s
  | .drainPointReached cell => Sys2Proof.Machine.execDrainPointReached cell s
  | .stamp cell w => Sys2Proof.Machine.execStamp cell w s
  | .ctr cell w => Sys2Proof.Machine.execCtr cell w s
  | .waitt cell w => Sys2Proof.Machine.execWaitt cell w s
  | .waittTimeReached cell => Sys2Proof.Machine.execWaittTimeReached cell s
  | .accz cell w => Sys2Proof.Machine.execAccz cell w s
  | .mma cell w => Sys2Proof.Machine.execMma cell w s
  | .accrd cell w => Sys2Proof.Machine.execAccrd cell w s
  | .vOpF32 cell w => Sys2Proof.Machine.execVOpF32 cell w s
  | .vOpF64 cell w => Sys2Proof.Machine.execVOpF64 cell w s
  | .blockInstructionComplete cell tensor latencyNs => Sys2Proof.Machine.execBlockInstructionComplete cell tensor latencyNs s
  | .tileHop slot stream cons last hop => Sys2Proof.Machine.execTileHop slot stream cons last hop s
  | .streamStallLimit cell => Sys2Proof.Machine.execStreamStallLimit cell s
  | .remoteTileArrival link vc => Sys2Proof.Machine.execRemoteTileArrival link vc s
  | .streamGapTimeout slot stream => Sys2Proof.Machine.execStreamGapTimeout slot stream s
  | .hostTileAdmit tile => Sys2Proof.Machine.execHostTileAdmit tile s
  | .hostReceivePosted streamId count => Sys2Proof.Machine.execHostReceivePosted streamId count s
  | .roceCnpReceived => Sys2Proof.Machine.execRoceCnpReceived s
  | .rdmaWriteStage stage rkeyOk offset data => Sys2Proof.Machine.execRdmaWriteStage stage rkeyOk offset data s
  | .servoStreamTile slot stream => Sys2Proof.Machine.execServoStreamTile slot stream s
  | .sessionOpen h => Sys2Proof.Machine.execSessionOpen h s
  | .sessionAuth h => Sys2Proof.Machine.execSessionAuth h s
  | .sessionClose h => Sys2Proof.Machine.execSessionClose h s
  | .status h => Sys2Proof.Machine.execStatus h s
  | .regRead h => Sys2Proof.Machine.execRegRead h s
  | .regWrite h => Sys2Proof.Machine.execRegWrite h s
  | .bundleStage h => Sys2Proof.Machine.execBundleStage h s
  | .bundleLoad h => Sys2Proof.Machine.execBundleLoad h s
  | .fitProbe h => Sys2Proof.Machine.execFitProbe h s
  | .planCircuitsLit slot => Sys2Proof.Machine.execPlanCircuitsLit slot s
  | .planWaitExpiry slot => Sys2Proof.Machine.execPlanWaitExpiry slot s
  | .preloadStorageComplete slot images => Sys2Proof.Machine.execPreloadStorageComplete slot images s
  | .start h => Sys2Proof.Machine.execStart h s
  | .hold h => Sys2Proof.Machine.execHold h s
  | .evict h => Sys2Proof.Machine.execEvict h s
  | .evictDrained slot => Sys2Proof.Machine.execEvictDrained slot s
  | .evictDrainTimeout slot => Sys2Proof.Machine.execEvictDrainTimeout slot s
  | .unload h => Sys2Proof.Machine.execUnload h s
  | .mapRead h => Sys2Proof.Machine.execMapRead h s
  | .dlqRead h => Sys2Proof.Machine.execDlqRead h s
  | .dlqRelease h => Sys2Proof.Machine.execDlqRelease h s
  | .deltaRead h => Sys2Proof.Machine.execDeltaRead h s
  | .memRead h => Sys2Proof.Machine.execMemRead h s
  | .memWrite h => Sys2Proof.Machine.execMemWrite h s
  | .calSave h => Sys2Proof.Machine.execCalSave h s
  | .calRestore h => Sys2Proof.Machine.execCalRestore h s
  | .cellRetire h => Sys2Proof.Machine.execCellRetire h s
  | .cellRestore h => Sys2Proof.Machine.execCellRestore h s
  | .hostQp h => Sys2Proof.Machine.execHostQp h s
  | .reset h => Sys2Proof.Machine.execReset h s
  | .counterCommandUnknown h code => Sys2Proof.Machine.execCounterCommandUnknown h code s
  | .counterFragmentTimeout port session seq => Sys2Proof.Machine.execCounterFragmentTimeout port session seq s
  | .sessionIdleTimeout session => Sys2Proof.Machine.execSessionIdleTimeout session s
  | .cellHardFailure cell => Sys2Proof.Machine.execCellHardFailure cell s
  | .relocatePendingTimeout cell => Sys2Proof.Machine.execRelocatePendingTimeout cell s
  | .scratchPatrol cell hits others => Sys2Proof.Machine.execScratchPatrol cell hits others s
  | .stackPatrol stack pass => Sys2Proof.Machine.execStackPatrol stack pass s
  | .rowRepairDone stack bank row => Sys2Proof.Machine.execRowRepairDone stack bank row s
  | .stackWipeTimeout stack => Sys2Proof.Machine.execStackWipeTimeout stack s
  | .frameStartTimer slot => Sys2Proof.Machine.execFrameStartTimer slot s
  | .frameDeadlineExpiry slot number => Sys2Proof.Machine.execFrameDeadlineExpiry slot number s
  | .frameLateSummary => Sys2Proof.Machine.execFrameLateSummary s
  | .powerCapTick volt curr power doms busy => Sys2Proof.Machine.execPowerCapTick volt curr power doms busy s
  | .brakeOvercurrent => Sys2Proof.Machine.execBrakeOvercurrent s
  | .brakeOverpower => Sys2Proof.Machine.execBrakeOverpower s
  | .brakeRelease cause die => Sys2Proof.Machine.execBrakeRelease cause die s
  | .pwrCapWrite o v => Sys2Proof.Machine.execPwrCapWrite o v s
  | .pwrEnergyLoRead o => Sys2Proof.Machine.execPwrEnergyLoRead o s
  | .ageingMeasure domain measured recorded points => Sys2Proof.Machine.execAgeingMeasure domain measured recorded points s
  | .eolPrediction means => Sys2Proof.Machine.execEolPrediction means s
  | .elementLoopSample e elems lasers => Sys2Proof.Machine.execElementLoopSample e elems lasers s
  | .elementTrip e idx noMatch => Sys2Proof.Machine.execElementTrip e idx noMatch s
  | .identityCheck e idx levels ref within => Sys2Proof.Machine.execIdentityCheck e idx levels ref within s
  | .laneLossOfLight e lanes => Sys2Proof.Machine.execLaneLossOfLight e lanes s
  | .laneErrorRatio e p c => Sys2Proof.Machine.execLaneErrorRatio e p c s
  | .laneFarEndFail e p c => Sys2Proof.Machine.execLaneFarEndFail e p c s
  | .laneTrainingTimeout e p c => Sys2Proof.Machine.execLaneTrainingTimeout e p c s
  | .laneRetry e p c locked => Sys2Proof.Machine.execLaneRetry e p c locked s
  | .lightReturnRetry e p c locked => Sys2Proof.Machine.execLightReturnRetry e p c locked s
  | .spareMarginTest e p near far => Sys2Proof.Machine.execSpareMarginTest e p near far s
  | .marginTestComplete e p c near far full => Sys2Proof.Machine.execMarginTestComplete e p c near far full s
  | .laneTrainingComplete e p c => Sys2Proof.Machine.execLaneTrainingComplete e p c s
  | .calCoverSwitchPoint e p lane => Sys2Proof.Machine.execCalCoverSwitchPoint e p lane s
  | .laserHandoverTrigger e n => Sys2Proof.Machine.execLaserHandoverTrigger e n s
  | .laserSpareLocked e c => Sys2Proof.Machine.execLaserSpareLocked e c s
  | .handoverWindowOpen e c => Sys2Proof.Machine.execHandoverWindowOpen e c s
  | .laserFail e n => Sys2Proof.Machine.execLaserFail e n s
  | .optSteerGo o e v => Sys2Proof.Machine.execOptSteerGo o e v s
  | .steerDone e => Sys2Proof.Machine.execSteerDone e s
  | .flitReceive key corr uncorr ok f => Sys2Proof.Machine.execFlitReceive key corr uncorr ok f s
  | .linkRetryFlit key seq => Sys2Proof.Machine.execLinkRetryFlit key seq s
  | .linkLanesetFlit key lanes => Sys2Proof.Machine.execLinkLanesetFlit key lanes s
  | .linkIdentFlit P c kind pc port channel version txLat rxLat loopLat => Sys2Proof.Machine.execLinkIdentFlit P c kind pc port channel version txLat rxLat loopLat s
  | .linkQuiesceFlit key => Sys2Proof.Machine.execLinkQuiesceFlit key s
  | .linkLostTimer key => Sys2Proof.Machine.execLinkLostTimer key s
  | .fabRecableGo o v => Sys2Proof.Machine.execFabRecableGo o v s
  | .fabRecableResume o v => Sys2Proof.Machine.execFabRecableResume o v s
  | .quiesceIdle => Sys2Proof.Machine.execQuiesceIdle s
  | .quiesceTimeout => Sys2Proof.Machine.execQuiesceTimeout s
  | .fabRbSwap o v => Sys2Proof.Machine.execFabRbSwap o v s
  | .fabRbCopy o v => Sys2Proof.Machine.execFabRbCopy o v s
  | .fabRbDataAccess o v => Sys2Proof.Machine.execFabRbDataAccess o v s
  | .fabRbActiveRead o => Sys2Proof.Machine.execFabRbActiveRead o s
  | .fabPostcodeWrite o v => Sys2Proof.Machine.execFabPostcodeWrite o v s
  | .fabExpectBypassWrite o bypass P c v => Sys2Proof.Machine.execFabExpectBypassWrite o bypass P c v s
  | .tofMeasurement key loop trip turnaround => Sys2Proof.Machine.execTofMeasurement key loop trip turnaround s
  | .tofLambdaWaitTimeout key => Sys2Proof.Machine.execTofLambdaWaitTimeout key s
  | .tofLoopRequest e k overs => Sys2Proof.Machine.execTofLoopRequest e k overs s
  | .linkEchoFlit key marker turnaround => Sys2Proof.Machine.execLinkEchoFlit key marker turnaround s
  | .collTransferTile key vc => Sys2Proof.Machine.execCollTransferTile key vc s
  | .collStepAck streamId step => Sys2Proof.Machine.execCollStepAck streamId step s
  | .collStepTimeout slot stream => Sys2Proof.Machine.execCollStepTimeout slot stream s
  | .collPeerAbort streamId => Sys2Proof.Machine.execCollPeerAbort streamId s
  | .calRunStart cls inst mismatch => Sys2Proof.Machine.execCalRunStart cls inst mismatch s
  | .calRunComplete cls inst values quality tmean moved => Sys2Proof.Machine.execCalRunComplete cls inst values quality tmean moved s
  | .calRunTimeout cls inst => Sys2Proof.Machine.execCalRunTimeout cls inst s
  | .calBadRunRetry cls inst => Sys2Proof.Machine.execCalBadRunRetry cls inst s
  | .calStarved cls inst => Sys2Proof.Machine.execCalStarved cls inst s
  | .calCmdCommit o v => Sys2Proof.Machine.execCalCmdCommit o v s
  | .calCmdRun o v => Sys2Proof.Machine.execCalCmdRun o v s
  | .calDataAccess o v => Sys2Proof.Machine.execCalDataAccess o v s
  | .calWindowAnnounce e p lane => Sys2Proof.Machine.execCalWindowAnnounce e p lane s
  | .servoSample base conv refuse => Sys2Proof.Machine.execServoSample base conv refuse s
  | .srvClose o => Sys2Proof.Machine.execSrvClose o s
  | .srvOpen o => Sys2Proof.Machine.execSrvOpen o s
  | .srvRearm o => Sys2Proof.Machine.execSrvRearm o s
  | .srvTestStart o => Sys2Proof.Machine.execSrvTestStart o s
  | .srvStop o => Sys2Proof.Machine.execSrvStop o s
  | .srvParamAccess o v => Sys2Proof.Machine.execSrvParamAccess o v s
  | .servoSatTrip loop => Sys2Proof.Machine.execServoSatTrip loop s
  | .servoOutHoldExpiry pin => Sys2Proof.Machine.execServoOutHoldExpiry pin s
  | .servoStreamStale slot => Sys2Proof.Machine.execServoStreamStale slot s
  | .pulseEdge idx level t held => Sys2Proof.Machine.execPulseEdge idx level t held s
  | .fsyncEdge n t held => Sys2Proof.Machine.execFsyncEdge n t held s
  | .ainEvent n t => Sys2Proof.Machine.execAinEvent n t s
  | .inputStuck idx => Sys2Proof.Machine.execInputStuck idx s
  | .ptpMessageReceive h domain transport m => Sys2Proof.Machine.execPtpMessageReceive h domain transport m s
  | .ptpSyncLoss => Sys2Proof.Machine.execPtpSyncLoss s
  | .ptpHoldExpiry => Sys2Proof.Machine.execPtpHoldExpiry s
  | .tbSlewComplete => Sys2Proof.Machine.execTbSlewComplete s
  | .tbAdjWrite o v => Sys2Proof.Machine.execTbAdjWrite o v s
  | .tbIncrLoWrite o v => Sys2Proof.Machine.execTbIncrLoWrite o v s
  | .tbIncrHiWrite o v => Sys2Proof.Machine.execTbIncrHiWrite o v s
  | .tbSelectWrite o v => Sys2Proof.Machine.execTbSelectWrite o v s
  | .tbServoWrite o v => Sys2Proof.Machine.execTbServoWrite o v s
  | .tbSecLoRead o => Sys2Proof.Machine.execTbSecLoRead o s
  | .linkTimeExchange key tx rx limit => Sys2Proof.Machine.execLinkTimeExchange key tx rx limit s
  | .powerUp badA badB badLc badFw => Sys2Proof.Machine.execPowerUp badA badB badLc badFw s
  | .rstNAssert => Sys2Proof.Machine.execRstNAssert s
  | .rstNRelease => Sys2Proof.Machine.execRstNRelease s
  | .undervoltageOff mv => Sys2Proof.Machine.execUndervoltageOff mv s
  | .overvoltageOff => Sys2Proof.Machine.execOvervoltageOff s
  | .inputDip mv => Sys2Proof.Machine.execInputDip mv s
  | .inputWarningBandEntry mv => Sys2Proof.Machine.execInputWarningBandEntry mv s
  | .inputWarningBandExit => Sys2Proof.Machine.execInputWarningBandExit s
  | .refclkLoss => Sys2Proof.Machine.execRefclkLoss s
  | .refclkRestore => Sys2Proof.Machine.execRefclkRestore s
  | .i3cSetdasa static dyn => Sys2Proof.Machine.execI3cSetdasa static dyn s
  | .i3cEntdaa dyn => Sys2Proof.Machine.execI3cEntdaa dyn s
  | .leaseRenewal h => Sys2Proof.Machine.execLeaseRenewal h s
  | .leaseLineRise a b => Sys2Proof.Machine.execLeaseLineRise a b s
  | .leaseLineLow h => Sys2Proof.Machine.execLeaseLineLow h s
  | .leaseLapse h => Sys2Proof.Machine.execLeaseLapse h s
  | .hubBecomeActive h => Sys2Proof.Machine.execHubBecomeActive h s
  | .heartbeatLoss h isolate => Sys2Proof.Machine.execHeartbeatLoss h isolate s
  | .watchdogExpiry h => Sys2Proof.Machine.execWatchdogExpiry h s
  | .crosslinkReturn => Sys2Proof.Machine.execCrosslinkReturn s
  | .hubSelfCheckFail h => Sys2Proof.Machine.execHubSelfCheckFail h s
  | .hubRestartComplete h => Sys2Proof.Machine.execHubRestartComplete h s
  | .fwWriteStandby o v => Sys2Proof.Machine.execFwWriteStandby o v s
  | .fwHandover o v => Sys2Proof.Machine.execFwHandover o v s
  | .fwAbort o => Sys2Proof.Machine.execFwAbort o s
  | .ethLinkLoss h => Sys2Proof.Machine.execEthLinkLoss h s
  | .ethLinkReturn h => Sys2Proof.Machine.execEthLinkReturn h s
  | .arpNdIcmpEcho h kind target payload => Sys2Proof.Machine.execArpNdIcmpEcho h kind target payload s
  | .recMirrorReceive h => Sys2Proof.Machine.execRecMirrorReceive h s
  | .recSuppressed h => Sys2Proof.Machine.execRecSuppressed h s
  | .optimeSave elapsed bad => Sys2Proof.Machine.execOptimeSave elapsed bad s
  | .recCursorWrite o v => Sys2Proof.Machine.execRecCursorWrite o v s
  | .recFind o v => Sys2Proof.Machine.execRecFind o v s
  | .recRetry o v good => Sys2Proof.Machine.execRecRetry o v good s
  | .pctClr o v => Sys2Proof.Machine.execPctClr o v s
  | .pctValLoRead o => Sys2Proof.Machine.execPctValLoRead o s
  | .pctSmpEnable o k v => Sys2Proof.Machine.execPctSmpEnable o k v s
  | .pctSmpPop o v => Sys2Proof.Machine.execPctSmpPop o v s
  | .redOptimeLoRead o => Sys2Proof.Machine.execRedOptimeLoRead o s
  | .dieDbgLoRead o d => Sys2Proof.Machine.execDieDbgLoRead o d s
  | .dieDbgWrite o d v => Sys2Proof.Machine.execDieDbgWrite o d v s
  | .svnCommit o v => Sys2Proof.Machine.execSvnCommit o v s
  | .secReqSignedWrite o v => Sys2Proof.Machine.execSecReqSignedWrite o v s
  | .secRetCommit o v => Sys2Proof.Machine.execSecRetCommit o v s
  | .retainedCommitTimer => Sys2Proof.Machine.execRetainedCommitTimer s
  | .secLcCmd o v cut => Sys2Proof.Machine.execSecLcCmd o v cut s
  | .secKeyCommit o v => Sys2Proof.Machine.execSecKeyCommit o v s
  | .secKeyErase o v => Sys2Proof.Machine.execSecKeyErase o v s
  | .secGrantDataAccess o v => Sys2Proof.Machine.execSecGrantDataAccess o v s
  | .secGrantCommit o v => Sys2Proof.Machine.execSecGrantCommit o v s
  | .secGrantRevoke o v => Sys2Proof.Machine.execSecGrantRevoke o v s
  | .grantExpiry => Sys2Proof.Machine.execGrantExpiry s
  | .grantNotBefore => Sys2Proof.Machine.execGrantNotBefore s
  | .secAttGo o v => Sys2Proof.Machine.execSecAttGo o v s
  | .attestationReady => Sys2Proof.Machine.execAttestationReady s
  | .temperatureSample samples => Sys2Proof.Machine.execTemperatureSample samples s
  | .talSetWrite o v => Sys2Proof.Machine.execTalSetWrite o v s
  | .talRehomeWrite o v => Sys2Proof.Machine.execTalRehomeWrite o v s
  | .talEpochEndWrite o v => Sys2Proof.Machine.execTalEpochEndWrite o v s
  | .dltKeyreqWrite o v => Sys2Proof.Machine.execDltKeyreqWrite o v s
  | .registerWritePlain o addr v => Sys2Proof.Machine.execRegisterWritePlain o addr v s
  | .reservedOpcode cell w => Sys2Proof.Machine.execReservedOpcode cell w s

end Sys2Proof.Machine
end

