-- ==== Sys2Proof/Machine/Step.lean ====
section
/-!
DEFINITION. One step of the block: the command at the front of the queue, or one REFCLK period of module time where no command
waits (R463; DESIGN CHOICE, log entry 2).
-/
namespace Sys2Proof.Machine
open Sys2Proof

/-- One step. (DESIGN CHOICE, log entry 2; DEDUCED, log entry 57) -/
def step (s : State) : Host.Outcome State Fault Refusal :=
  match s.pending with
  | [] => .next (tick s)
  | c :: rest => exec c { s with pending := rest }

/-- The state with the command that a word spells at the front of the queue. (DESIGN CHOICE, log entry 2; DESIGN CHOICE, log entry 3) -/
def State.withFetchWord (s : State) (nbits w : Nat) : State :=
  match decodeTableWord nbits w with
  | some c => { s with pending := c :: s.pending }
  | none => s

end Sys2Proof.Machine
end

