-- ==== Sys2Proof/Safety.lean ====
section
/-!
DEFINITION. What counts as a safe run, in the terms the statements use: the canonical forms of what the machine stores, when a
station issues an instruction, and what a command leaves unchanged.
-/
namespace Sys2Proof.Machine
open Sys2Proof

/-- The memory of every stack is in its canonical form (R242, R256). -/
def StacksCanonical (s : State) : Prop := ∀ d ∈ s.dies, ∀ k ∈ d.stks, k.mem.wf = true

/-! ### Stations -/

/-- The station of a slot's bundle at an index. -/
def stationAt (s : State) (slot idx : Nat) : Option Station := (slotBundle s slot).bind (fun b => b.stations[idx]?)

/-- `x` is the station placed on a cell, and it stands with its record in its bundle's list and the bundle in its slot. -/
structure OnCell (s : State) (cell : Nat) (x : Where) : Prop where
  on : stationOn s cell = some x
  slot : slotBundle s x.slot = some x.b
  station : x.b.stations[x.idx]? = some x.st
  record : x.b.img.stations[x.idx]? = some x.sr
  placed : x.st.cell = some cell

/-- The station on a cell may issue the word at its PC now (R140, R142): module, bundle and station run, it
waits for nothing but another try, and no deferred fault stands. -/
structure AtWord (s : State) (cell : Nat) (w : Word) (x : Where) : Prop where
  on : OnCell s cell x
  phase : s.phase = .running
  run : x.st.run = .running
  idle : x.st.waiting = .no ∨ x.st.waiting = .retry
  settled : x.st.deferred = []
  bundle : x.b.st = .running ∨ x.b.st = .evicting
  word : x.st.code[x.st.pc / 4]? = some w

/-- The station `x` on a cell issues the word `w` now and executes it (R140, R142, R148 to R154, R217): the word stands at PC
of a station that may issue and is valid, no item it uses is busy, it does not fall through the end of the code, its guard
holds, the pages it writes can be saved, and the words it reads need no correction. -/
structure Issues (s : State) (cell : Nat) (w : Word) (x : Where) : Prop where
  at_ : AtWord s cell w x
  valid : validWord w = true
  free : mustWait x.st w = false
  inside : fallsThrough x.st w = false
  guard : guardTrue x.st w = true
  room : savedPages x.st + newPages x.st (pagesOf (fullFootprint x.st w).2) ≤ 64
  clean : scanItems x.st.scratch (scanned x.st w) = ⟨x.st.scratch, 0, 0, []⟩

/-- The station of `x` with an instruction's place in program order taken; a wait tried again that goes on stays one wait (R54). -/
def counted (x : Where) : Station :=
  { x.st with order := x.st.order + 1, blockedSince := none, waiting := .no, stallReported := x.st.stallReported && x.st.waiting == .retry }

/-- The station of `x` as the instruction `w` has issued: the pages it writes saved for its checkpoints, its place in program
order taken. -/
def issued (x : Where) (w : Word) : Station :=
  savePages (counted x) (pagesOf (fullFootprint x.st w).2)

/-- PC past the instruction. -/
def past (st : Station) : Station := { st with pc := st.pc + 4 }

/-- The bundle of `x` with its station replaced. -/
def withStation (x : Where) (st : Station) : Bundle := { x.b with stations := x.b.stations.set x.idx st }

/-- From `s` to `t` the bundle of a slot becomes `b`, and nothing else changes but event counters, samples and the number of open
values taken: no other bundle, register, memory, queue or reply. -/
def OnlyBundle (s t : State) (slot : Nat) (b : Bundle) : Prop :=
  ∃ c p n, t = { s with pl := { s.pl with slots := SMap.insert s.pl.slots slot b }, counts := c, sampling := p, free := n }

/-- From `s` to `t` the station of `x` becomes `st`, and nothing else changes but event counters, samples and the number of
open values taken: no other station, bundle, register, memory, queue or reply. -/
def OnlyStation (s t : State) (x : Where) (st : Station) : Prop :=
  ∃ c p n, t = { s with pl := { s.pl with slots := SMap.insert s.pl.slots x.slot (withStation x st) }, counts := c, sampling := p, free := n }

/-- The command of the station instruction whose word is `w`: the row of its opcode, or RESERVED_OPCODE (R155 to R164). -/
inductive StationCommand (cell : Nat) (w : Word) : Instr → Prop where
  | alu : fOpc w = 0x01 → StationCommand cell w (.alu cell w)
  | addi : fOpc w = 0x02 → StationCommand cell w (.addi cell w)
  | andi : fOpc w = 0x03 → StationCommand cell w (.andi cell w)
  | ori : fOpc w = 0x04 → StationCommand cell w (.ori cell w)
  | xori : fOpc w = 0x05 → StationCommand cell w (.xori cell w)
  | shli : fOpc w = 0x06 → StationCommand cell w (.shli cell w)
  | shri : fOpc w = 0x07 → StationCommand cell w (.shri cell w)
  | sari : fOpc w = 0x08 → StationCommand cell w (.sari cell w)
  | movi : fOpc w = 0x09 → StationCommand cell w (.movi cell w)
  | movs : fOpc w = 0x0A → StationCommand cell w (.movs cell w)
  | cmp : fOpc w = 0x0B → StationCommand cell w (.cmp cell w)
  | cmpi : fOpc w = 0x0C → StationCommand cell w (.cmpi cell w)
  | plog : fOpc w = 0x0D → StationCommand cell w (.plog cell w)
  | ld64 : fOpc w = 0x10 → StationCommand cell w (.ld64 cell w)
  | ld32 : fOpc w = 0x11 → StationCommand cell w (.ld32 cell w)
  | ld8 : fOpc w = 0x12 → StationCommand cell w (.ld8 cell w)
  | st64 : fOpc w = 0x13 → StationCommand cell w (.st64 cell w)
  | st32 : fOpc w = 0x14 → StationCommand cell w (.st32 cell w)
  | st8 : fOpc w = 0x15 → StationCommand cell w (.st8 cell w)
  | br : fOpc w = 0x18 → StationCommand cell w (.br cell w)
  | call : fOpc w = 0x19 → StationCommand cell w (.call cell w)
  | jr : fOpc w = 0x1A → StationCommand cell w (.jr cell w)
  | halt : fOpc w = 0x1F → StationCommand cell w (.halt cell w)
  | tset : fOpc w = 0x20 → StationCommand cell w (.tset cell w)
  | thdrR : fOpc w = 0x21 → StationCommand cell w (.thdrR cell w)
  | thdrW : fOpc w = 0x22 → StationCommand cell w (.thdrW cell w)
  | tcopy : fOpc w = 0x23 → StationCommand cell w (.tcopy cell w)
  | tzero : fOpc w = 0x24 → StationCommand cell w (.tzero cell w)
  | cvt : fOpc w = 0x25 → StationCommand cell w (.cvt cell w)
  | collect : fOpc w = 0x28 → StationCommand cell w (.collect cell w)
  | post : fOpc w = 0x29 → StationCommand cell w (.post cell w)
  | trycollect : fOpc w = 0x2A → StationCommand cell w (.trycollect cell w)
  | endctl : fOpc w = 0x2B → StationCommand cell w (.endctl cell w)
  | endstat : fOpc w = 0x2C → StationCommand cell w (.endstat cell w)
  | fetch : fOpc w = 0x30 → StationCommand cell w (.fetch cell w)
  | stash : fOpc w = 0x31 → StationCommand cell w (.stash cell w)
  | gather : fOpc w = 0x32 → StationCommand cell w (.gather cell w)
  | scatter : fOpc w = 0x33 → StationCommand cell w (.scatter cell w)
  | radd : fOpc w = 0x34 → StationCommand cell w (.radd cell w)
  | sfence : fOpc w = 0x35 → StationCommand cell w (.sfence cell w)
  | tgive : fOpc w = 0x38 → StationCommand cell w (.tgive cell w)
  | ttake : fOpc w = 0x39 → StationCommand cell w (.ttake cell w)
  | tdebit : fOpc w = 0x3A → StationCommand cell w (.tdebit cell w)
  | twatch : fOpc w = 0x3B → StationCommand cell w (.twatch cell w)
  | confirm : fOpc w = 0x3C → StationCommand cell w (.confirm cell w)
  | cancel : fOpc w = 0x3D → StationCommand cell w (.cancel cell w)
  | drain : fOpc w = 0x40 → StationCommand cell w (.drain cell w)
  | stamp : fOpc w = 0x41 → StationCommand cell w (.stamp cell w)
  | ctr : fOpc w = 0x42 → StationCommand cell w (.ctr cell w)
  | waitt : fOpc w = 0x43 → StationCommand cell w (.waitt cell w)
  | accz : fOpc w = 0x50 → StationCommand cell w (.accz cell w)
  | mma : fOpc w = 0x51 → StationCommand cell w (.mma cell w)
  | accrd : fOpc w = 0x52 → StationCommand cell w (.accrd cell w)
  | vOpF32 : fOpc w = 0x58 → StationCommand cell w (.vOpF32 cell w)
  | vOpF64 : fOpc w = 0x59 → StationCommand cell w (.vOpF64 cell w)
  | reservedOpcode : listedOpcode (fOpc w) = false → StationCommand cell w (.reservedOpcode cell w)

/-- The command `c` answers a next state in which the station of `x` alone has changed, to `st`. -/
def StationResult (c : Instr) (s : State) (x : Where) (st : Station) : Prop :=
  ∃ t, exec c s = .next t ∧ OnlyStation s t x st

/-- `t` shows the fault of a station (R169, R174): it has stopped and waits for nothing, and the fault registers of its cell hold
the status code, the PC, the word and DETAIL, with VALID. -/
structure FaultShown (t : State) (cell : Nat) (x : Where) (code pc : Nat) (w : Word) (detail : Nat) : Prop where
  stopped : ∃ st, stationAt t x.slot x.idx = some st ∧ st.run = .faulted ∧ st.waiting = .no
  code : fldAt t F.dieFltStatCode (dieOf cell) (cell % 256) 0 = code
  valid : fldAt t F.dieFltStatValid (dieOf cell) (cell % 256) 0 = 1
  pc : fldAt t F.dieFltPcPc (dieOf cell) (cell % 256) 0 = pc % 2 ^ 16
  insn : fldAt t F.dieFltInsnInsn (dieOf cell) (cell % 256) 0 = w.toNat
  detail : fldAt t F.dieFltDetailDetail (dieOf cell) (cell % 256) 0 = detail

/-- DETAIL as a fault shows it (R171, R172): 0 where the station's region holds an unresolved provisional tile. -/
def shownDetail (x : Where) (detail : Nat) : Nat :=
  if x.sr.spec ≠ 0 ∧ regionUnresolved x.b x.sr.spec = true then 0 else detail

/-! ### Counter requests -/

/-- A whole request of the command `code` with the body `b` stands at the active hub's port, its session `x` may give the command,
its SEQ is later than the session's last, and no request of any session waits or runs (R449 to R457). -/
structure Asks (s : State) (h : CtrHdr) (code : Nat) (b : List Byte) (x : Session) : Prop where
  phase : s.phase = .running
  active : s.active = some h.port
  link : (hubOf s h.port).link = true
  session : findSession s h.session = some x
  permitted : permitted x code = true
  idle : x.busy = false
  noneWaits : ∀ y ∈ s.sessions, y.backlog = []
  later : laterThan h.seq x.lastSeq = true
  whole : h.count = 1
  fresh : s.partials = []
  datagram : ∃ d, h.dgrams = [d] ∧ d.frag = 0 ∧ d.body = b ∧ dgramOk s h code d = true

/-- From `s` to `t` the module has sent the reply to a request: its status and body, with the request's session, SEQ and TAG. -/
def Answers (s t : State) (h : CtrHdr) (code status : Nat) (body : List Byte) : Prop :=
  ∃ l ns sec q, t.out = s.out ++ l ∧
    Emit.counter ⟨h.port, 1, code, status, h.session, h.seq.toNat, h.tag, ns, sec, q, body, true⟩ ∈ l

/-- The command `c` answers its request with a status and a body, and what follows holds of the next state. -/
def Replies (c : Instr) (s : State) (h : CtrHdr) (code status : Nat) (body : List Byte) (P : State → Prop) : Prop :=
  ∃ t, exec c s = .next t ∧ Answers s t h code status body ∧ P t

/-- In `t` the module has sent, on the active hub's port of `s`, the reply of a command that a session gave earlier: its status. -/
def Told (s t : State) (c : Caller) (status : Nat) : Prop :=
  ∃ p ns sec q body, s.active = some p ∧
    Emit.counter ⟨p, 1, c.command, status, c.session, c.seq.toNat, c.tag, ns, sec, q, body, true⟩ ∈ t.out

/-- The state on which an accepted request is served: its SEQ taken, its session busy (R453). -/
def serving (s : State) (h : CtrHdr) (x : Session) : State :=
  modSession (modSession { discards s 0 with partials := [] } x.id (fun y => { y with lastSeq := h.seq, cached := none })) x.id
    (fun y => { y with busy := true })

/-! ### Register accesses -/

/-- `ws` are the words that reads of consecutive addresses from `a` return, each made on the state that the one before left; `t` is what the
last one leaves. -/
inductive ReadsInTurn : State → Nat → List Word → State → Prop where
  | none (s : State) (a : Nat) : ReadsInTurn s a [] s
  | word (s : State) (a : Nat) (w : Word) (u : State) (ws : List Word) (t : State) :
      readAt s a = (u, 0, w) → ReadsInTurn u (a + 4) ws t → ReadsInTurn s a (w :: ws) t

/-- The access of an origin to a register outside the redundancy block is served now (R14, R35, R449, R458, R486). -/
def Served (s : State) (o : Origin) (write : Bool) : Prop := regGate s o false write = .served

/-- The command `c`, a write or a read of a register by `o`, is answered with a status and a word, and leaves the state `u` with
the answer. -/
def RegAnswered (c : Instr) (s : State) (o : Origin) (status : Nat) (v : Word) (u : State) : Prop :=
  exec c s = .next (emit u (.reg o status v))

end Sys2Proof.Machine
end

