-- ==== Sys2Proof/Certificates/Slice0/Obligations.lean ====
section
/-!
DEFINITION. The statements for the provers: what the rules of spec/ say that the commands do, what they leave unchanged, and
where they complete.
-/
open Sys2Proof Sys2Proof.Machine

/-! ### The block and its queue -/

/-- A step takes the command at the front of the queue and runs it on the state with the queue's
rest. -/
def Obligations.StepRunsTheFrontCommand : Prop :=
  ∀ (s : State) (c : Instr) (rest : List Instr), step { s with pending := c :: rest } = exec c { s with pending := rest }

/-- Every command of the table, on every state, answers a next state: none faults, none is refused. -/
def Obligations.EveryCommandAnswersANextState : Prop :=
  ∀ (c : Instr) (s : State), ∃ t, exec c s = .next t

/-- No command changes the queue of commands, nor what production fixed: the variant, the lid, the serial number, the MAC
addresses, and the cells that failed test. -/
def Obligations.CommandsLeaveQueueAndIdentity : Prop :=
  ∀ (c : Instr) (s t : State), exec c s = .next t → t.pending = s.pending ∧ t.ident = s.ident

/-- The memory of every stack is in its canonical form after reset (the model's representation, log entry 7). -/
def Obligations.ResetStacksCanonical : Prop := StacksCanonical State.reset

/-- Every step, on every state whose stack memories are in their canonical form, leaves them so (the model's representation,
log entry 7). -/
def Obligations.StepKeepsStacksCanonical : Prop :=
  ∀ s t : State, StacksCanonical s → step s = .next t → StacksCanonical t

/-- SVN_MIN only ever rises, whatever the command. SVN_COMMIT raises it to the lower of the running images' SVNs, and is refused while a
hub runs the recovery path or an update is between step 1 and the end of step 3. -/
def Obligations.SvnMinOnlyRises : Prop :=
  (∀ (c : Instr) (s t : State), exec c s = .next t → s.sec.svnMin ≤ t.sec.svnMin) ∧
  (∀ (s : State) (o : Origin) (v : Word), Served s o true → mayKey s o = true → wfld v F.secCtlSvnCommit = 1 →
    (s.ha.recovery = true ∨ s.hb.recovery = true ∨ (1 ≤ s.fw.step ∧ s.fw.step ≤ 3) → RegAnswered (.svnCommit o v) s o C.secSvnHeld 0 s) ∧
    (s.ha.recovery = false → s.hb.recovery = false → (s.fw.step = 0 ∨ 4 ≤ s.fw.step) → ∃ u, RegAnswered (.svnCommit o v) s o C.ok 0 u ∧
      u.sec.svnMin = max s.sec.svnMin (min s.ha.running.svn s.hb.running.svn) ∧ u.sec.keys = s.sec.keys))

/-! ### Station instructions: registers, flow of control, scratch -/

/-- g0 reads 0 and discards writes, p0 reads 1 and discards writes; any other register or predicate reads as last written, and a
write changes no other one. -/
def Obligations.StationRegistersReadBack : Prop :=
  ∀ (st : Station) (m n : Nat) (v : DWord) (b : Bool),
    getG (setG st n v) m = (if m = 0 then 0#64 else if m = n then v else getG st m) ∧
    (m < 8 → n < 8 → getP (setP st n b) m = (if m = 0 then true else if m = n then b else getP st m)) ∧
    setG st 0 v = st ∧ setP st 0 b = st

/-- ADDI, ANDI, ORI, XORI, SHLI, SHRI, SARI, MOVI and MOVS write gd, CMP, CMPI and PLOG one predicate, and PC moves on; the station's other
state and all else stay. -/
def Obligations.ScalarInstructionsWriteTheirResult : Prop :=
  (∀ (s : State) (cell : Nat) (w : Word) (x : Where), Issues s cell w x →
    let ga := getG x.st (fRA w)
    let res (v : DWord) : Station := past (setG (issued x w) (fRD w) v)
    (fOpc w = 0x02 → StationResult (.addi cell w) s x (res (ga + BitVec.ofInt 64 (fImm w)))) ∧
    (fOpc w = 0x03 → StationResult (.andi cell w) s x (res (ga &&& BitVec.ofInt 64 (fImm w)))) ∧
    (fOpc w = 0x04 → StationResult (.ori cell w) s x (res (ga ||| BitVec.ofInt 64 (fImm w)))) ∧
    (fOpc w = 0x05 → StationResult (.xori cell w) s x (res (ga ^^^ BitVec.ofInt 64 (fImm w)))) ∧
    (fOpc w = 0x06 → StationResult (.shli cell w) s x (res (ga <<< (fImmU w % 64)))) ∧
    (fOpc w = 0x07 → StationResult (.shri cell w) s x (res (ga >>> (fImmU w % 64)))) ∧
    (fOpc w = 0x08 → StationResult (.sari cell w) s x (res (ga.sshiftRight (fImmU w % 64)))) ∧
    (fOpc w = 0x09 → StationResult (.movi cell w) s x (res (BitVec.ofInt 64 (fImm16 w)))) ∧
    (fOpc w = 0x0A → StationResult (.movs cell w) s x (res ((getG x.st (fRD w) <<< 16) ||| BitVec.ofNat 64 (fImm16U w))))) ∧
  (∀ (s : State) (cell : Nat) (w : Word) (x : Where), Issues s cell w x →
    let a := getG x.st (fRA w)
    let b := getG x.st (fRB w)
    let k := fImm w
    let cmp (fn : Nat) (v : Bool) : Prop := fOpc w = 0x0B → fFN w = fn → StationResult (.cmp cell w) s x (past (setP (issued x w) (fRD w) v))
    let cmpi (fn : Nat) (v : Bool) : Prop := fOpc w = 0x0C → fRD w / 8 = fn → StationResult (.cmpi cell w) s x (past (setP (issued x w) (fRD w % 8) v))
    let plog (fn : Nat) (v : Bool) : Prop := fOpc w = 0x0D → fFN w = fn → StationResult (.plog cell w) s x (past (setP (issued x w) (fRD w) v))
    let p := getP x.st (fRA w)
    let q := getP x.st (fRB w)
    cmp 0 (decide (a = b)) ∧ cmp 1 (decide (a ≠ b)) ∧ cmp 2 (decide (a.toInt < b.toInt)) ∧ cmp 3 (decide (b.toInt ≤ a.toInt)) ∧
    cmp 4 (decide (a.toNat < b.toNat)) ∧ cmp 5 (decide (b.toNat ≤ a.toNat)) ∧
    cmpi 0 (decide (a.toInt = k)) ∧ cmpi 1 (decide (a.toInt ≠ k)) ∧ cmpi 2 (decide (a.toInt < k)) ∧ cmpi 3 (decide (k ≤ a.toInt)) ∧
    plog 0 (p && q) ∧ plog 1 (p || q) ∧ plog 2 (p != q) ∧ plog 3 (p && !q))

/-- ALU writes gd by the operation that FN names; integer arithmetic wraps modulo 2^64. -/
def Obligations.AluWritesGd : Prop :=
  ∀ (s : State) (cell : Nat) (w : Word) (x : Where), Issues s cell w x → fOpc w = 0x01 →
    let a := getG x.st (fRA w)
    let b := getG x.st (fRB w)
    let n := b.toNat % 64
    let gives (fn : Nat) (v : DWord) : Prop := fFN w = fn → StationResult (.alu cell w) s x (past (setG (issued x w) (fRD w) v))
    gives 0x00 (a + b) ∧ gives 0x01 (a - b) ∧ gives 0x02 (a &&& b) ∧ gives 0x03 (a ||| b) ∧ gives 0x04 (a ^^^ b) ∧
    gives 0x05 (BitVec.ofNat 64 (a.toNat * 2 ^ n)) ∧ gives 0x06 (BitVec.ofNat 64 (a.toNat / 2 ^ n)) ∧
    gives 0x07 (BitVec.ofInt 64 (a.toInt / 2 ^ n)) ∧ gives 0x08 (BitVec.ofNat 64 (a.toNat * b.toNat)) ∧
    gives 0x09 (BitVec.ofInt 64 (a.toInt * b.toInt / 2 ^ 64)) ∧ gives 0x0A (BitVec.ofNat 64 (a.toNat * b.toNat / 2 ^ 64)) ∧
    gives 0x0B (BitVec.ofInt 64 (min a.toInt b.toInt)) ∧ gives 0x0C (BitVec.ofInt 64 (max a.toInt b.toInt)) ∧
    gives 0x0D (BitVec.ofNat 64 (min a.toNat b.toNat)) ∧ gives 0x0E (BitVec.ofNat 64 (max a.toNat b.toNat))

/-- LD.64, LD.32 and LD.8 write gd with the bytes at their address, zero-extended; ST.64, ST.32 and ST.8 store the low bytes of gd there,
and every other byte of scratch reads as before. Bytes that do not all lie in data scratch fault with SCRATCH_RANGE, checked before
SCRATCH_ALIGN, which an address that the size does not divide raises. -/
def Obligations.LoadsAndStores : Prop :=
  (∀ (s : State) (cell : Nat) (w : Word) (x : Where), Issues s cell w x →
    let load (c : Instr) (opc size : Nat) : Prop := ∀ a : Nat, fOpc w = opc → accessAddr x.st w size = a → a % size = 0 →
      a + size ≤ x.sr.scratch →
      StationResult c s x (past (setG (issued x w) (fRD w) (BitVec.ofNat 64 (leNat (x.st.scratch.read a size)))))
    load (.ld64 cell w) 0x10 8 ∧ load (.ld32 cell w) 0x11 4 ∧ load (.ld8 cell w) 0x12 1) ∧
  (∀ (s : State) (cell : Nat) (w : Word) (x : Where), Issues s cell w x →
    let store (c : Instr) (opc size : Nat) : Prop := ∀ a : Nat, fOpc w = opc → accessAddr x.st w size = a → a % size = 0 →
      a + size ≤ x.sr.scratch →
      ∃ m : Mem, StationResult c s x (past { issued x w with scratch := m }) ∧
        leNat (m.read a size) = (getG x.st (fRD w)).toNat % 2 ^ (8 * size) ∧
        ∀ b, (b < a ∨ a + size ≤ b) → m.byte b = x.st.scratch.byte b
    store (.st64 cell w) 0x13 8 ∧ store (.st32 cell w) 0x14 4 ∧ store (.st8 cell w) 0x15 1) ∧
  (∀ (s : State) (cell : Nat) (w : Word) (x : Where), Issues s cell w x →
    let access (c : Instr) (opc size : Nat) : Prop := fOpc w = opc →
      (∀ a : Nat, accessAddr x.st w size = a → x.sr.scratch < a + size →
        ∃ t, exec c s = .next t ∧
          FaultShown t cell x 0x0212 x.st.pc w (shownDetail x (if 2 ^ 32 ≤ a then 0xFFFFFFFF else a))) ∧
      (accessAddr x.st w size < 0 →
        ∃ t, exec c s = .next t ∧ FaultShown t cell x 0x0212 x.st.pc w (shownDetail x 0xFFFFFFFF)) ∧
      (∀ a : Nat, accessAddr x.st w size = a → a + size ≤ x.sr.scratch → a % size ≠ 0 → a < 2 ^ 32 →
        ∃ t, exec c s = .next t ∧ FaultShown t cell x 0x0213 x.st.pc w (shownDetail x a))
    access (.ld64 cell w) 0x10 8 ∧ access (.ld32 cell w) 0x11 4 ∧ access (.ld8 cell w) 0x12 1 ∧
    access (.st64 cell w) 0x13 8 ∧ access (.st32 cell w) 0x14 4 ∧ access (.st8 cell w) 0x15 1)

/-- BR, CALL and JR move PC to a target inside the code that is a multiple of 4, CALL with the return address in g31; any other
target faults with PC_RANGE and the target as DETAIL. -/
def Obligations.BranchesMovePc : Prop :=
  ∀ (s : State) (cell : Nat) (w : Word) (x : Where), Issues s cell w x →
    let jump (c : Instr) (opc : Nat) (target : Int) (st : Station) : Prop := fOpc w = opc →
      (∀ p : Nat, target = p → p < 4 * x.st.code.length → p % 4 = 0 → StationResult c s x { st with pc := p }) ∧
      (target < 0 ∨ (4 * x.st.code.length : Int) ≤ target ∨ target % 4 ≠ 0 →
        ∃ t, exec c s = .next t ∧ FaultShown t cell x 0x0211 x.st.pc w (shownDetail x (BitVec.ofInt 32 target).toNat))
    jump (.br cell w) 0x18 ((x.st.pc : Int) + 4 * fOff w) (issued x w) ∧
    jump (.call cell w) 0x19 ((x.st.pc : Int) + 4 * fOff w) (setG (issued x w) 31 (BitVec.ofNat 64 (x.st.pc + 4))) ∧
    jump (.jr cell w) 0x1A (getG x.st (fRA w)).toNat (issued x w)

/-- A word that R150 refuses faults with OPCODE_INVALID, whatever its guard: a reserved opcode, a field that must be 0, an FN that is not
listed; RESERVED_OPCODE is the command of a word whose opcode is not listed. The last word of the code that would fall through to CODE_LENGTH faults with PC_RANGE, executed or guarded off. -/
def Obligations.InvalidWordsAndTheEndOfCodeFault : Prop :=
  (∀ (s : State) (cell : Nat) (w : Word) (x : Where) (c : Instr), AtWord s cell w x → StationCommand cell w c → validWord w = false →
    ∃ t, exec c s = .next t ∧ FaultShown t cell x 0x0210 x.st.pc w 0) ∧
  (∀ (s : State) (cell : Nat) (w : Word) (x : Where) (c : Instr), AtWord s cell w x → StationCommand cell w c → validWord w = true →
    mustWait x.st w = false → x.st.code.length * 4 = x.st.pc + 4 →
    (guardTrue x.st w = false ∨ (fOpc w ≠ 0x18 ∧ fOpc w ≠ 0x19 ∧ fOpc w ≠ 0x1A ∧ fOpc w ≠ 0x1F)) → x.st.pc + 4 < 2 ^ 32 →
    ∃ t, exec c s = .next t ∧ FaultShown t cell x 0x0211 x.st.pc w (shownDetail x (x.st.pc + 4))) ∧
  (∀ (s : State) (cell : Nat) (w : Word) (x : Where), AtWord s cell w x → listedOpcode (fOpc w) = false →
    ∃ t, exec (.reservedOpcode cell w) s = .next t ∧ FaultShown t cell x 0x0210 x.st.pc w 0)

/-- An instruction whose guard does not hold only moves PC on, whatever it is. One that uses what one still running writes, or writes what
one still reads, does not issue: its station stays as it is, but for the instant at which it began to wait for a FETCH or GATHER. -/
def Obligations.GuardsAndBusyItemsHoldInstructions : Prop :=
  (∀ (s : State) (cell : Nat) (w : Word) (x : Where) (c : Instr), AtWord s cell w x → StationCommand cell w c → validWord w = true →
    mustWait x.st w = false → fallsThrough x.st w = false → guardTrue x.st w = false →
    StationResult c s x (past (counted x))) ∧
  (∀ (s : State) (cell : Nat) (w : Word) (x : Where) (c : Instr), AtWord s cell w x → StationCommand cell w c → validWord w = true →
    mustWait x.st w = true → ∃ b, StationResult c s x { x.st with blockedSince := b })

/-! ### Station instructions: tiles -/

/-- TSET names a slot wholly in data scratch at a multiple of 32, with the rounding end that RB gives; outside data scratch it faults
with SCRATCH_RANGE, else off a multiple of 32 with SCRATCH_ALIGN. -/
def Obligations.TsetNamesASlot : Prop :=
  ∀ (s : State) (cell : Nat) (w : Word) (x : Where), Issues s cell w x → fOpc w = 0x20 →
    let a := (getG x.st (fRA w)).toNat
    let ends := (outputEnds x.b.img x.idx).length
    (a % 32 = 0 → a + 4256 ≤ x.sr.scratch → fRB w = 0 →
      StationResult (.tset cell w) s x (past { issued x w with t := SMap.insert x.st.t (fRD w) ⟨a, none⟩ })) ∧
    (∀ e, a % 32 = 0 → a + 4256 ≤ x.sr.scratch → fRB w = 16 + e → e < ends →
      StationResult (.tset cell w) s x (past { issued x w with t := SMap.insert x.st.t (fRD w) ⟨a, some e⟩ })) ∧
    (x.sr.scratch < a + 4256 → ∃ t, exec (.tset cell w) s = .next t ∧
      FaultShown t cell x 0x0212 x.st.pc w (shownDetail x (if 2 ^ 32 ≤ a then 0xFFFFFFFF else a))) ∧
    (a % 32 ≠ 0 → a + 4256 ≤ x.sr.scratch → a < 2 ^ 32 → ∃ t, exec (.tset cell w) s = .next t ∧
      FaultShown t cell x 0x0213 x.st.pc w (shownDetail x a))

/-- THDR.R reads the header field that its selector names. THDR.W writes it, and every byte of scratch outside the field reads as before;
LAST and KEYFRAME are bits 3 and 2 of FLAGS, whose other bits stay. A selector that is not listed, or for THDR.W one marked read-only,
faults with OPCODE_INVALID. -/
def Obligations.ThdrReadsAndWritesTheHeader : Prop :=
  (∀ (s : State) (cell : Nat) (w : Word) (x : Where) (h : Handle), Issues s cell w x → fOpc w = 0x21 → getT x.st (fRA w) = some h →
    let b (off n : Nat) : Nat := leNat (x.st.scratch.read (h.addr + off) n)
    let gives (sel v : Nat) : Prop := fImmU w = sel →
      StationResult (.thdrR cell w) s x (past (setG (issued x w) (fRD w) (BitVec.ofNat 64 v)))
    gives 0 (b 0 4) ∧ gives 1 (b 4 4) ∧ gives 2 (b 8 4) ∧ gives 3 (b 12 1) ∧ gives 4 (b 13 1) ∧ gives 5 (b 14 2) ∧
    gives 6 (b 14 2 / 8 % 2) ∧ gives 7 (b 14 2 / 4 % 2) ∧ gives 8 (b 16 4) ∧ gives 9 (b 20 2) ∧ gives 10 (b 22 2) ∧
    gives 11 (b 24 4) ∧ gives 12 (b 28 4)) ∧
  (∀ (s : State) (cell : Nat) (w : Word) (x : Where) (h : Handle), Issues s cell w x → fOpc w = 0x22 → getT x.st (fRD w) = some h →
    let v := (getG x.st (fRA w)).toNat
    let flags := leNat (x.st.scratch.read (h.addr + 14) 2)
    let puts (sel off n val : Nat) : Prop := fImmU w = sel →
      ∃ m : Mem, StationResult (.thdrW cell w) s x (past { issued x w with scratch := m }) ∧
        leNat (m.read (h.addr + off) n) = val ∧
        ∀ b, (b < h.addr + off ∨ h.addr + off + n ≤ b) → m.byte b = x.st.scratch.byte b
    puts 2 8 4 (v % 2 ^ 32) ∧ puts 3 12 1 (v % 2 ^ 8) ∧ puts 4 13 1 (v % 2 ^ 8) ∧ puts 6 14 2 (setField flags 3 1 (v % 2)) ∧
    puts 7 14 2 (setField flags 2 1 (v % 2)) ∧ puts 9 20 2 (v % 2 ^ 16) ∧ puts 10 22 2 (v % 2 ^ 16) ∧ puts 11 24 4 (v % 2 ^ 24)) ∧
  (∀ (s : State) (cell : Nat) (w : Word) (x : Where), AtWord s cell w x →
    (fOpc w = 0x21 → 13 ≤ fImmU w → ∃ t, exec (.thdrR cell w) s = .next t ∧ FaultShown t cell x 0x0210 x.st.pc w 0) ∧
    (fOpc w = 0x22 → (13 ≤ fImmU w ∨ fImmU w ∈ [0, 1, 5, 8, 12]) →
      ∃ t, exec (.thdrW cell w) s = .next t ∧ FaultShown t cell x 0x0210 x.st.pc w 0))

/-- TCOPY copies the 4,256 bytes of ta's slot over td's slot, TZERO makes those of td's slot 0; no other byte of scratch changes. CVT whose
operand passes the checks of R137 writes td's slot with ta's elements encoded in FN: the header of ta but FORMAT, LEN and TILE_SCALE;
the stochastic draws move the generator on. -/
def Obligations.TileCopiesAndConversions : Prop :=
  (∀ (s : State) (cell : Nat) (w : Word) (x : Where) (d : Handle), Issues s cell w x → getT x.st (fRD w) = some d →
    (∀ a : Handle, fOpc w = 0x23 → getT x.st (fRA w) = some a →
      ∃ m : Mem, StationResult (.tcopy cell w) s x (past { issued x w with scratch := m }) ∧
        m.read d.addr 4256 = x.st.scratch.read a.addr 4256 ∧
        ∀ b, (b < d.addr ∨ d.addr + 4256 ≤ b) → m.byte b = x.st.scratch.byte b) ∧
    (fOpc w = 0x24 →
      ∃ m : Mem, StationResult (.tzero cell w) s x (past { issued x w with scratch := m }) ∧
        (∀ b, d.addr ≤ b → b < d.addr + 4256 → m.byte b = 0) ∧
        ∀ b, (b < d.addr ∨ d.addr + 4256 ≤ b) → m.byte b = x.st.scratch.byte b)) ∧
  (∀ (s : State) (cell : Nat) (w : Word) (x : Where) (a d : Handle) (fi : FmtInfo), Issues s cell w x → fOpc w = 0x25 →
    getT x.st (fRA w) = some a → getT x.st (fRD w) = some d → fmtInfo (fFN w) = some fi →
    let t := slotTile x.st.scratch a.addr
    let ts := leNat (x.st.scratch.read (d.addr + 20) 2)
    let e := encodeElems (fFN w) fi (handleMode x.st d.roundEnd) x.st.gen ts t.values
    let h := { t.hdr with format := BitVec.ofNat 8 (fFN w), len := 0, tileScale := BitVec.ofNat 16 (if isSbFmt (fFN w) then e.ts else 0) }
    computable t.fmt = true → computable (fFN w) = true → shapeOk t.fmt t.shape = true → countFits (fFN w) t.count = true →
    t.hdr.flag flagPoison = false →
    StationResult (.cvt cell w) s x
      (past { issued x w with scratch := putTile d.addr ⟨h, e.payload, e.scale, []⟩ x.st.scratch, gen := e.gen }))

/-- THDR.R, THDR.W, TCOPY, TZERO, CVT, MMA, ACCRD and the V operations through a handle, the first that each uses, that is not set fault
with HANDLE_UNSET and the handle's number. A FETCH, STASH or RADD faults with
REGION_INVALID where its RB names no region of the station, its slot lies beyond the region, or it would write one that is read only. -/
def Obligations.BadOperandsFault : Prop :=
  (∀ (s : State) (cell : Nat) (w : Word) (x : Where), Issues s cell w x →
    let needs (c : Instr) (opc : Nat) (n : Nat) : Prop := fOpc w = opc → getT x.st n = none →
      ∃ t, exec c s = .next t ∧ FaultShown t cell x 0x0218 x.st.pc w (shownDetail x n)
    needs (.thdrR cell w) 0x21 (fRA w) ∧ needs (.thdrW cell w) 0x22 (fRD w) ∧ needs (.tcopy cell w) 0x23 (fRA w) ∧
    needs (.tzero cell w) 0x24 (fRD w) ∧ needs (.cvt cell w) 0x25 (fRA w) ∧ needs (.mma cell w) 0x51 (fRA w) ∧
    needs (.accrd cell w) 0x52 (fRD w) ∧ needs (.vOpF32 cell w) 0x58 (fRA w) ∧ needs (.vOpF64 cell w) 0x59 (fRA w)) ∧
  (∀ (s : State) (cell : Nat) (w : Word) (x : Where) (h : Handle), Issues s cell w x → getT x.st (fRD w) = some h →
    let ga := (getG x.st (fRA w)).toNat
    let faults (c : Instr) : Prop := ∃ t, exec c s = .next t ∧
      FaultShown t cell x 0x0215 x.st.pc w (shownDetail x ((fRB w * 2 ^ 28 + ga % 2 ^ 28) % 2 ^ 32))
    let bad (c : Instr) (opc : Nat) (write : Bool) : Prop := fOpc w = opc → (write = true → spillGate x = false) →
      (regionPlace x.b x.idx (fRB w) = none → faults c) ∧
      (∀ ri r p, regionPlace x.b x.idx (fRB w) = some (ri, r, p) → (r.slots ≤ ga ∨ (write = true ∧ r.readOnly = true)) → faults c)
    bad (.fetch cell w) 0x30 false ∧ bad (.stash cell w) 0x31 true ∧ bad (.radd cell w) 0x34 true)

/-! ### Station instructions: the tensor and vector blocks -/

/-- ACCZ makes the accumulator the clear one. MMA, ACCRD and V (V_OP_F32, V_OP_F64), once their checks pass, enter their block with what
they will write, and PC moves on; ACCRD and V move the generator on by their draws. -/
def Obligations.BlockInstructionsEnterTheirBlock : Prop :=
  ∀ (s : State) (cell : Nat) (w : Word) (x : Where), Issues s cell w x →
    let fp := fullFootprint x.st w
    let tile (h : Handle) : Tile := slotTile x.st.scratch h.addr
    let enters (o : BlockOp) (g : Gen) : Station := past { issued x w with blockOps := x.st.blockOps ++ [o], gen := g }
    (fOpc w = 0x50 → StationResult (.accz cell w) s x (past { issued x w with acc := Acc.clear })) ∧
    (∀ a b : Handle, fOpc w = 0x51 → getT x.st (fRA w) = some a → getT x.st (fRB w) = some b →
      mmaCheck (fFN w) (tile a) (tile b) x.st.acc false = none →
      StationResult (.mma cell w) s x (enters (mmaOp x.st w (tile a) (tile b) fp.1 fp.2) x.st.gen)) ∧
    (∀ d : Handle, fOpc w = 0x52 → getT x.st (fRD w) = some d → accrdCheck (fFN w) (fRB w) x.st.acc (tile d).poisoned = none →
      let o := accrdOp x.st w d.addr d.roundEnd (tile d) fp.1 fp.2
      StationResult (.accrd cell w) s x (enters o.1 o.2)) ∧
    (∀ (f64 : Bool) (v : VOp) (a b d : Handle), fOpc w = (if f64 then 0x59 else 0x58) → vopInfo (fFN w) = some v →
      getT x.st (fRA w) = some a → (v.readsB = true → getT x.st (fRB w) = some b) → (v.readsB = false → b = a) →
      getT x.st (fRD w) = some d → vecCheck (fFN w) v (tile a) (tile b) (tile d) false = none →
      let o := vecOp x.st w f64 v d.addr d.roundEnd (tile a) (tile b) (tile d) fp.1 fp.2
      StationResult (if f64 then .vOpF64 cell w else .vOpF32 cell w) s x (enters o.1 o.2))

/-- BLOCK_INSTRUCTION_COMPLETE takes the oldest instruction of the tensor or the vector block: its result lands in the accumulator or
in td's slot, in the live state and in what the checkpoints taken after it keep. -/
def Obligations.BlockResultsLand : Prop :=
  ∀ (s : State) (cell lat : Nat) (tensor : Bool) (x : Where) (o : BlockOp), OnCell s cell x →
    x.st.blockOps.find? (fun o => o.tensor == tensor) = some o →
    let st := { x.st with blockOps := x.st.blockOps.erase o }
    StationResult (.blockInstructionComplete cell tensor lat) s x
      (if fOpc o.word = 0x51 then landAcc o.order o.acc st else landScratch o.order (putTile o.tdAddr o.tile) st)

/-! ### Station instructions: streams -/

/-- COLLECT and TRYCOLLECT of an end with a tile queued, whose words need no correction, take its oldest tile into td's slot, with a
checkpoint where it is provisional and the end holds none, and TRYCOLLECT writes 1 to pd; with none queued COLLECT waits at its PC and
TRYCOLLECT writes 0 to pd; an end broken by STREAM_GAP faults. COLLECT_TILE_ARRIVED gives the station that waits in COLLECT the oldest
tile, and PC moves past the COLLECT. -/
def Obligations.CollectTakesTheOldestTile : Prop :=
  (∀ (s : State) (cell : Nat) (w : Word) (x : Where) (h : Handle) (ie : InEnd), Issues s cell w x →
    getT x.st (fRD w) = some h → inEnd x.b x.idx (fRA w) = some ie →
    let takes (c : Instr) (p : Station → Station) : Prop := ∀ t : Tile, headTile ie.e = some t → t.chk = [] → takeGate w x = false →
      ie.e.broken = false → ∃ (u : State) (st : Station), exec c s = .next u ∧
        OnlyBundle s u x.slot { withStation x (past (p st)) with streams := modAt x.b.streams ie.si (fun y =>
          { y with ends := modAt y.ends ie.ci (fun e => { e with queue := takeHead (st.ckpts.map (·.id)) t e.queue }) }) } ∧
        st = { counted x with scratch := x.st.scratch.writeSlot h.addr t, ckpts := st.ckpts, ckptNext := st.ckptNext } ∧
        st.ckpts.length = x.st.ckpts.length + b2n (needsCkpt x.st (fRA w) ie t)
    let breaks (c : Instr) : Prop := ie.e.broken = true → takeGate w x = false →
      ∃ t, exec c s = .next t ∧ FaultShown t cell x 0x0205 x.st.pc w (shownDetail x 0)
    (fOpc w = 0x28 → takes (.collect cell w) id ∧ breaks (.collect cell w) ∧
      (headTile ie.e = none → ie.e.broken = false → StationResult (.collect cell w) s x
        { counted x with waiting := .collect (fRA w), waitInsn := w, waitSince := now s })) ∧
    (fOpc w = 0x2A → takes (.trycollect cell w) (fun st => setP st (fRB w) true) ∧ breaks (.trycollect cell w) ∧
      (headTile ie.e = none → ie.e.broken = false → StationResult (.trycollect cell w) s x (past (setP (counted x) (fRB w) false))))) ∧
  (∀ (s : State) (cell n : Nat) (x : Where) (h : Handle) (ie : InEnd) (t : Tile), OnCell s cell x → x.st.run = .running →
    x.st.waiting = .collect n → x.st.deferred = [] → getT x.st (fRD x.st.waitInsn) = some h → inEnd x.b x.idx n = some ie →
    headTile ie.e = some t → t.chk = [] → takeRoom x.st n ie t [.bytes h.addr slotBytes] = true →
    ∃ (u : State) (st : Station), exec (.collectTileArrived cell) s = .next u ∧
      OnlyBundle s u x.slot { withStation x (past { st with waiting := .no }) with streams := modAt x.b.streams ie.si (fun y =>
        { y with ends := modAt y.ends ie.ci (fun e => { e with queue := takeHead (st.ckpts.map (·.id)) t e.queue }) }) } ∧
      st = { x.st with scratch := x.st.scratch.writeSlot h.addr t, ckpts := st.ckpts, ckptNext := st.ckptNext })

/-- POST of a tile whose header passes its checks waits for its first hop; when POST_FIRST_HOP_ACCEPT accepts it outside every speculation region, the
tile takes the next SEQ, the stream's identifier and the postmark, and is under way to every consumer. In a region it is provisional
(R210): it joins the unresolved tiles of its end with the checkpoints that its station holds, and at most eight of an end are
unresolved (R211). A POST whose header fails a check faults with that check's status. On a delta stream the tile that the end suppresses
completes the POST at once, and a tile of a keyframe is sent whole, both counted by the end (R198, R202). -/
def Obligations.PostLaunchesTheTile : Prop :=
  ((∀ (s : State) (cell : Nat) (w : Word) (x : Where) (h : Handle) (si : Nat) (r : StreamRec) (y : Stream), Issues s cell w x →
    fOpc w = 0x29 → getT x.st (fRA w) = some h → outEnd x.b x.idx (fRD w) = some (si, r, y) →
    let fails := postFault r y (slotTile x.st.scratch h.addr).hdr
    (fails = none → r.kind ≠ 2 → (specOf x.b.img x.idx = 0 ∨ y.prov.length < 8) →
      StationResult (.post cell w) s x { issued x w with waiting := .post (fRD w), waitInsn := w, waitSince := now s }) ∧
    (∀ c d, fails = some (c, d) → ∃ t, exec (.post cell w) s = .next t ∧ FaultShown t cell x c x.st.pc w (shownDetail x d)) ∧
    (let t := trimmedTile (x.st.scratch.readSlot h.addr true).tile
     let d := deltaOpen (isSource x.b.img r) y.delta t.hdr
     ∀ fi n off m, fails = none → r.kind = 2 → fmtInfo t.fmt = some fi →
      storeAt x.b r (DeltaParam.parse r.param) t.hdr.index.toNat = some (n, off) → stackOf s n = some m → m.mem.chk = [] →
      (deltaAct (DeltaParam.parse r.param) d.key fi t (Tile.ofSlot (m.mem.read off 4256) [])).send = none →
      ∃ u st b z, exec (.post cell w) s = .next u ∧ stationAt u x.slot x.idx = some st ∧ st.pc = x.st.pc + 4 ∧ st.waiting = .no ∧
        slotBundle u x.slot = some b ∧ b.streams[si]? = some z ∧ z.flight = y.flight ∧ z.nextSeq = y.nextSeq ∧
        z.delta.suppressed = (d.suppressed + 1) % 2 ^ 32 ∧ z.delta.posted = d.posted ++ [t.hdr.index.toNat])) ∧
  (∀ (s : State) (cell n : Nat) (hop : HopInfo) (x : Where) (h : Handle) (si : Nat) (r : StreamRec) (y : Stream), OnCell s cell x →
    x.st.run = .running → x.st.waiting = .post n → x.st.deferred = [] → getT x.st (fRA x.st.waitInsn) = some h →
    outEnd x.b x.idx n = some (si, r, y) → r.kind ≠ 3 → specOf x.b.img x.idx = 0 → firstHop ⟨cell, hop⟩ = true → hopOpen s hop = true → hop.fails < 4 →
    let t := trimmedTile (x.st.scratch.readSlot h.addr true).tile
    let d := deltaOpen (isSource x.b.img r) y.delta t.hdr
    (r.kind = 2 → d.key = true → t.poisoned = false → t.hdr.flag flagLast = false → (fmtInfo t.fmt).isSome = true →
      ∃ (u : State) (b : Bundle) (z : Sys2Proof.Machine.Stream) (sent : Tile), exec (.postFirstHopAccept ⟨cell, hop⟩) s = .next u ∧
        slotBundle u x.slot = some b ∧ b.streams[si]? = some z ∧ z.flight = y.flight ++ [⟨sent, List.range y.ends.length⟩] ∧
        sent.payload = t.payload ∧ sent.hdr.seq = y.nextSeq ∧ sent.hdr.flag flagDelta = true ∧ sent.hdr.flag flagKeyframe = true ∧
        z.delta.sent = (d.sent + 1) % 2 ^ 32 ∧ z.delta.posted = d.posted ++ [t.hdr.index.toNat]) ∧
    (r.kind ≠ 2 → (isCompletion x.b r = false ∨ t.hdr.flag flagLast = false) →
    ∃ (u : State) (sent : Tile), exec (.postFirstHopAccept ⟨cell, hop⟩) s = .next u ∧
      OnlyBundle s u x.slot { withStation x (past { x.st with waiting := .no }) with
        streams := x.b.streams.set si { y with nextSeq := y.nextSeq + 1, flight := y.flight ++ [⟨sent, List.range y.ends.length⟩] } } ∧
      sent.payload = t.payload ∧ sent.scale = t.scale ∧ sent.hdr.seq = y.nextSeq ∧ sent.hdr.streamId.toNat = r.id % 2 ^ 32 ∧
      sent.hdr.postmark.toNat = now s % 2 ^ 32 ∧ sent.hdr.flag flagProvisional = false ∧ sent.hdr.flag flagDelta = false ∧
      sent.hdr.flag flagResend = false ∧ sent.hdr.origin = originOf s cell ∧ sent.hdr.frame = t.hdr.frame ∧
      sent.hdr.index = t.hdr.index ∧ sent.hdr.format = t.hdr.format ∧ sent.hdr.shape = t.hdr.shape ∧ sent.hdr.len = t.hdr.len))) ∧
  (∀ (s : State) (cell n : Nat) (hop : HopInfo) (x : Where) (h : Handle) (si : Nat) (r : StreamRec) (y : Stream), OnCell s cell x →
    x.st.run = .running → x.st.waiting = .post n → x.st.deferred = [] → getT x.st (fRA x.st.waitInsn) = some h →
    outEnd x.b x.idx n = some (si, r, y) → r.kind ≠ 2 → r.kind ≠ 3 → specOf x.b.img x.idx ≠ 0 →
    firstHop ⟨cell, hop⟩ = true → hopOpen s hop = true → hop.fails < 4 →
    let t := trimmedTile (x.st.scratch.readSlot h.addr true).tile
    let held := isBoundary x.b.img r
    (8 ≤ y.prov.length → exec (.postFirstHopAccept ⟨cell, hop⟩) s = .next s) ∧
    (y.prov.length < 8 → ∃ (u : State) (sent : Tile), exec (.postFirstHopAccept ⟨cell, hop⟩) s = .next u ∧
      OnlyBundle s u x.slot { withStation x (past { x.st with waiting := .no }) with
        streams := x.b.streams.set si { y with
          nextSeq := y.nextSeq + 1
          prov := y.prov ++ [⟨y.nextSeq, x.st.order - 1, false, x.st.ckpts.map (·.id), held, sent⟩]
          flight := if held then y.flight else y.flight ++ [⟨sent, List.range y.ends.length⟩] } } ∧
      sent.payload = t.payload ∧ sent.hdr.seq = y.nextSeq ∧ sent.hdr.flag flagProvisional = true))

/-- ENDCTL writes the control word of an output end, whose other words stay; a value that sets another bit than bit 0 faults with
END_INVALID. ENDSTAT reads the number of tiles queued at an input end, and at an output end 0 while R211 or R386 would hold a POST, else a
bit that the spec leaves to the traffic (log entry 16); an end that the station does not have faults with END_INVALID. STREAM_STALL_LIMIT
reports STREAM_STALLED once for a wait, with the station, the stream and the end, and never of an end whose limit is 0. -/
def Obligations.EndControlStatusAndStalls : Prop :=
  (∀ (s : State) (cell : Nat) (w : Word) (x : Where), Issues s cell w x →
    let invalid (c : Instr) (n : Nat) : Prop := ∃ t, exec c s = .next t ∧ FaultShown t cell x 0x0214 x.st.pc w (shownDetail x n)
    let v := (getG x.st (fRA w)).toNat % 2 ^ 32
    (fOpc w = 0x2B →
      ((outEnd x.b x.idx (fRD w)).isSome = true → v < 2 → x.st.endChk = [] →
        ∃ m, StationResult (.endctl cell w) s x (past { issued x w with endCtl := m }) ∧
          ∀ n, n < 16 → SMap.getD m n 0#32 = (if n = fRD w then BitVec.ofNat 32 v else endCtl x.st n)) ∧
      (outEnd x.b x.idx (fRD w) = none ∨ 2 ≤ v → invalid (.endctl cell w) (fRD w))) ∧
    (fOpc w = 0x2C → (fRA w < 16 → inEnd x.b x.idx (fRA w) = none → invalid (.endstat cell w) (fRA w)) ∧
      (16 ≤ fRA w → outEnd x.b x.idx (fRA w - 16) = none → invalid (.endstat cell w) (fRA w))) ∧
    (∀ ie, fOpc w = 0x2C → fRA w < 16 → inEnd x.b x.idx (fRA w) = some ie →
      StationResult (.endstat cell w) s x (past (setG (issued x w) (fRD w) (BitVec.ofNat 64 (queued ie.e))))) ∧
    (∀ si r y, fOpc w = 0x2C → 16 ≤ fRA w → outEnd x.b x.idx (fRA w - 16) = some (si, r, y) →
      let holds : Prop := (r.kind = 3 ∧ collFree y (CollParam.parse r.param) = false) ∨ (specOf x.b.img x.idx ≠ 0 ∧ 8 ≤ y.prov.length)
      ∃ b : DWord, StationResult (.endstat cell w) s x (past (setG (issued x w) (fRD w) b)) ∧ (holds → b = 0) ∧ b.toNat ≤ 1)) ∧
  (∀ (s : State) (cell : Nat) (x : Where) (r : StreamRec) (limit e : Nat), OnCell s cell x → x.st.waiting ≠ .no → stallEnd x = some (r, limit, e) →
    (limit = 0 ∨ x.st.stallReported = true → exec (.streamStallLimit cell) s = .next s) ∧
    (limit ≠ 0 → x.st.stallReported = false → exec (.streamStallLimit cell) s = .next
      (report { s with pl := { s.pl with slots := SMap.insert s.pl.slots x.slot (withStation x { x.st with stallReported := true }) } }
        0x0204 cell x.handle (padTo 32 x.sr.name ++ leBytes 4 r.id ++ leBytes 4 e))))

/-! ### Station instructions: stacks -/

/-- FETCH, STASH and RADD of a slot of the station's region, and GATHER and SCATTER by a descriptor that passes its checks, enter the
queue of stack accesses, and PC moves on; a STASH, SCATTER or RADD under a checkpoint is held in the spill reserve instead. -/
def Obligations.StackInstructionsEnterTheirQueue : Prop :=
  ∀ (s : State) (cell : Nat) (w : Word) (x : Where) (h : Handle) (ri : Nat) (r : RegionRec) (p : Placed), Issues s cell w x →
    getT x.st (fRD w) = some h → regionPlace x.b x.idx (fRB w) = some (ri, r, p) →
    let fp := fullFootprint x.st w
    let ga := (getG x.st (fRA w)).toNat
    let op (k : StackKind) (slot fmt : Nat) (t : Tile) (desc : List Byte) (offs : List Nat) : StackOp :=
      ⟨k, w, x.st.pc, x.st.order, h.addr, ri, slot, fmt, t, desc, offs, fp.1, fp.2⟩
    let enters (c : Instr) (o : StackOp) : Prop := StationResult c s x (past { issued x w with stackOps := x.st.stackOps ++ [o] })
    let held (c : Instr) (o : StackOp) : Prop := StationResult c s x
      (past { issued x w with heldWrites := x.st.heldWrites ++ [⟨{ o with reads := [], writes := [] }, x.st.ckpts.map (·.id)⟩] })
    let writes (c : Instr) (o : StackOp) : Prop :=
      (x.st.ckpts = [] → enters c o) ∧
      (x.st.ckpts ≠ [] → heldCount x.b x.sr.spec < writeSlots x.b.img x.sr.spec → held c o)
    let mayWrite : Prop := r.readOnly = false ∧ isDeltaStore x.b.img x.idx (fRB w) = false
    let t := (x.st.scratch.readSlot h.addr true).tile
    let desc := x.st.scratch.read ga 64
    let d := Desc.parse desc
    let offs : List Nat := if d.kind = 1 then (List.range d.count).map (fun n => leNat (x.st.scratch.read (d.indexAddr + 4 * n) 4)) else []
    let table : Prop := ga % 16 = 0 ∧ ga + 64 ≤ x.sr.scratch ∧ (d.kind = 1 → d.indexAddr % 4 = 0 ∧ d.indexAddr + 4 * d.count ≤ x.sr.scratch)
    let tt := slotTile x.st.scratch h.addr
    (fOpc w = 0x30 → ga < r.slots → enters (.fetch cell w) (op .fetch ga (fFN w) Tile.zero [] [])) ∧
    (fOpc w = 0x31 → ga < r.slots → mayWrite → writes (.stash cell w) (op .stash ga (fFN w) t [] [])) ∧
    (fOpc w = 0x34 → ga < r.slots → mayWrite → computable t.fmt = true →
      writes (.radd cell w) (op .radd ga 0 (x.st.scratch.readSlot h.addr false).tile [] [])) ∧
    (fOpc w = 0x32 → table → d.ok true d.tileFmt (if d.tileFmt = 0 then d.run * d.count else shapeCount d.shape) = true →
      outside d offs r.slots = none → enters (.gather cell w) (op .gather 0 0 Tile.zero desc offs)) ∧
    (fOpc w = 0x33 → table → mayWrite → d.ok false tt.fmt (if tt.fmt = 0 then tt.hdr.len.toNat else tt.count) = true →
      outside d offs r.slots = none → tt.hdr.flag flagPoison = false → writes (.scatter cell w) (op .scatter 0 0 tt desc offs))

/-- STACK_ACCESS_COMPLETE of a STASH whose format conversion is none writes the slot's 4,256 bytes on its stack, and those of a FETCH
of a slot that needs no correction land in td's slot, whatever the hops on the way that refuse no word three times more. Any access
leaves its station's queue and changes no other stack. -/
def Obligations.StackAccessesLand : Prop :=
  ∀ (s : State) (cell k q : Nat) (acts : List (Nat × Nat)) (hops : List HopInfo) (x : Where) (o : StackOp) (p : Placed) (m : Stack), OnCell s cell x →
    x.st.stackOps[k]? = some o → (x.st.stackOps.take k).any (sameSlot o) = false → x.b.regions[o.region]? = some p →
    stackOf s p.stack = some m → m.failed = false → m.repairing = [] → (∀ h ∈ hops, h.fails < 4) →
    let off := p.off + 4256 * o.slot
    (∃ t st, exec (.stackAccessComplete cell k acts ⟨q, hops⟩) s = .next t ∧ stationAt t x.slot x.idx = some st ∧
      st.stackOps = x.st.stackOps.erase o ∧ ∀ n, n ≠ p.stack → stackOf t n = stackOf s n) ∧
    (o.kind = .stash → o.fmt = 0x3F → o.tile.chk = [] → ∃ t m', exec (.stackAccessComplete cell k acts ⟨q, hops⟩) s = .next t ∧ stackOf t p.stack = some m' ∧
      m'.mem.read off 4256 = o.tile.slot ∧ (∀ b, (b < off ∨ off + 4256 ≤ b) → m'.mem.byte b = m.mem.byte b) ∧
      stationAt t x.slot x.idx = some { x.st with stackOps := x.st.stackOps.erase o }) ∧
    (o.kind = .fetch → o.fmt = 0x3F → heldStash x.st o = none → m.mem.chk = [] → ∃ t st, exec (.stackAccessComplete cell k acts ⟨q, hops⟩) s = .next t ∧
      stationAt t x.slot x.idx = some st ∧ st.stackOps = x.st.stackOps.erase o ∧
      st.scratch.read o.tdAddr 4256 = m.mem.read off 4256 ∧
      (∀ b, (b < o.tdAddr ∨ o.tdAddr + 4256 ≤ b) → st.scratch.byte b = x.st.scratch.byte b))

/-- SFENCE goes on where no stack write of its station is under way, else waits; SFENCE_COMPLETE ends the wait once none is. WAITT goes
on once module time has reached its value, else waits, and WAITT_TIME_REACHED ends the wait once it has. STAMP reads module time in the form that FN names; CTR reads an event counter and its WRAP bit, and faults with COUNTER_INVALID
where the station may not read it or no counter has that number. -/
def Obligations.FencesTimeAndCounters : Prop :=
  ((∀ (s : State) (cell : Nat) (w : Word) (x : Where), Issues s cell w x →
    let waits (k : Waiting) : Station := { issued x w with waiting := k, waitInsn := w, waitSince := now s }
    (fOpc w = 0x35 → (writesPending x.st = false → StationResult (.sfence cell w) s x (past (issued x w))) ∧
      (writesPending x.st = true → StationResult (.sfence cell w) s x (waits .fence))) ∧
    (fOpc w = 0x43 → ((getG x.st (fRA w)).toNat ≤ now s % 2 ^ 64 → StationResult (.waitt cell w) s x (past (issued x w))) ∧
      (now s % 2 ^ 64 < (getG x.st (fRA w)).toNat → StationResult (.waitt cell w) s x (waits (.time (getG x.st (fRA w))))))) ∧
  (∀ (s : State) (cell : Nat) (x : Where), OnCell s cell x → x.st.run = .running → x.st.deferred = [] →
    (x.st.waiting = .fence → writesPending x.st = false →
      StationResult (.sfenceComplete cell) s x (past { x.st with waiting := .no })) ∧
    (∀ v : DWord, x.st.waiting = .time v → v.toNat ≤ now s % 2 ^ 64 →
      StationResult (.waittTimeReached cell) s x (past { x.st with waiting := .no })))) ∧
  (∀ (s : State) (cell : Nat) (w : Word) (x : Where), Issues s cell w x →
    let stamp (fn v : Nat) : Prop := fOpc w = 0x41 → fFN w = fn →
      StationResult (.stamp cell w) s x (past (setG (issued x w) (fRD w) (BitVec.ofNat 64 v)))
    let ev := (getG x.st (fRA w)).toNat % 2 ^ 32
    stamp 0 s.tb.sec ∧ stamp 1 s.tb.ns ∧ stamp 2 (s.tb.frac / 2 ^ 16) ∧ stamp 3 (now s % 2 ^ 64) ∧
    stamp 4 (regWord s ⟨.tbQual, 0, 0, 0⟩).toNat ∧
    (∀ e, fOpc w = 0x42 → ctrEvent s x ev = some e → ∃ t, exec (.ctr cell w) s = .next t ∧
      OnlyStation s t x (past (setG (issued x w) (fRD w)
        (BitVec.ofNat 64 ((countOf t e).value + b2n (countOf t e).wrap * 2 ^ 63))))) ∧
    (fOpc w = 0x42 → ctrEvent s x ev = none → ∃ t, exec (.ctr cell w) s = .next t ∧
      FaultShown t cell x 0x0217 x.st.pc w (shownDetail x ev)))

/-! ### Station instructions: tallies -/

/-- TTAKE and TWATCH wait at their PC with their operation under way; TGIVE and TDEBIT of a tally homed at another station or module
send theirs and go on; of a tally homed at their own station that no one waits on they apply it at once and write its status to gd, or
with gd = g0 fault with a status other than 0; an index that names no tally of the bundle faults with TALLY_INVALID. -/
def Obligations.TallyInstructionsSendTheirOperation : Prop :=
  ∀ (s : State) (cell : Nat) (w : Word) (x : Where) (y : Tally), Issues s cell w x → x.st.ckpts = [] →
    let n := (getG x.st (fRA w)).toNat % 2 ^ 32
    let op (k : TallyOp) : TallyWait := ⟨n, k, BitVec.ofNat 32 ((getG x.st (fRB w)).toNat % 2 ^ 32), fRD w, w, x.st.pc, x.st.order, false, none⟩
    let waits (c : Instr) (k : TallyOp) : Prop := x.b.tallies[n]? = some y → StationResult c s x
      { issued x w with waiting := .tally, waitInsn := w, waitSince := now s, tallyOps := x.st.tallyOps ++ [op k] }
    let sends (c : Instr) (k : TallyOp) : Prop := x.b.tallies[n]? = some y → y.home ≠ some x.idx →
      StationResult c s x (past { issued x w with tallyOps := x.st.tallyOps ++ [op k] })
    let invalid (c : Instr) : Prop := x.b.tallies[n]? = none →
      ∃ t, exec c s = .next t ∧ FaultShown t cell x 0x0216 x.st.pc w (shownDetail x n)
    let amount := (getG x.st (fRB w)).toNat % 2 ^ 32
    let v := y.value.toNat
    let own (c : Instr) (val status : Nat) : Prop :=
      ((fRD w ≠ 0 ∨ status = 0) → ∃ t st b' y' r', exec c s = .next t ∧ tallyAt t x.slot n = some (b', y', r') ∧ y'.value.toNat = val ∧
        stationAt t x.slot x.idx = some st ∧ st.pc = x.st.pc + 4 ∧ getG st (fRD w) = BitVec.ofNat 64 status) ∧
      (fRD w = 0 → status ≠ 0 → ∃ t, exec c s = .next t ∧ FaultShown t cell x status x.st.pc w (shownDetail x 0))
    let atOnce : Prop := x.b.tallies[n]? = some y ∧ y.home = some x.idx ∧ y.orphaned = false ∧ y.markers = [] ∧ y.takers = [] ∧ y.watchers = [] ∧
      x.st.stackOps = [] ∧ ∀ e ∈ x.st.tallyOps, e.tally ≠ n ∧ e.order ≠ x.st.order
    (fOpc w = 0x38 → sends (.tgive cell w) .give ∧ invalid (.tgive cell w) ∧ (∀ r, x.b.img.tallies[n]? = some r → r.capacity < 2 ^ 32 → atOnce →
      (v + amount ≤ r.capacity → own (.tgive cell w) (v + amount) 0) ∧ (r.capacity < v + amount → own (.tgive cell w) v 0x0230))) ∧
    (fOpc w = 0x39 → waits (.ttake cell w) .take ∧ invalid (.ttake cell w)) ∧
    (fOpc w = 0x3A → sends (.tdebit cell w) .debit ∧ invalid (.tdebit cell w) ∧ (∀ r, x.b.img.tallies[n]? = some r → atOnce →
      (amount ≤ v → own (.tdebit cell w) (v - amount) 0) ∧ (v < amount → own (.tdebit cell w) v 0x0231))) ∧
    (fOpc w = 0x3B → waits (.twatch cell w) .watch ∧ invalid (.twatch cell w))

/-- TALLY_OP_ACCEPT: a home cell accepts the oldest operation of a station of its bundle, or one of another module that names the tally by its TALLY_ID, and
applies it whole (R267): a give within the capacity adds, serves the watchers it reaches and the takers in order, and past the capacity
overflows and keeps the value; a debit subtracts or underflows; a take that does not fit waits behind the takers before it; a watch that is
not reached waits and never changes the value; an amount above the capacity and an orphaned tally are answered so. The status is recorded
at the issuing station's operation. One that would wait while the store holds 256 waiters stays at the last hop (R272), and one on a tally
homed elsewhere leaves as a message (R277). -/
def Obligations.TallyOperationsChangeTheValue : Prop :=
  (∀ (s : State) (slot i : Nat) (b : Bundle) (y : Tally) (r : TallyRec), tallyAt s slot i = some (b, y, r) → y.home.isSome = true →
    r.capacity < 2 ^ 32 →
    let v := y.value.toNat
    let full : Prop := 256 ≤ storeWaiters b y.home
    let applies (c : Instr) (src : TallySrc) (op : TallyOp) (n : Word) (answered : Nat → State → Prop) : Prop :=
      let k := n.toNat
      let after (z : Tally → Tally) (P : State → Prop) : Prop := ∃ t b' y' r', exec c s = .next t ∧ tallyAt t slot i = some (b', y', r') ∧
        { y' with multi := 0 } = { z y with multi := 0 } ∧ P t
      let serves (val : Nat) (takers : List Waiter) (x : Tally) : Tally :=
        { x with value := BitVec.ofNat 32 (serveTakers val takers).1, takers := (serveTakers val takers).2.2,
                 watchers := x.watchers.filter (fun w => !decide (w.amount.toNat ≤ val)) }
      (y.orphaned = true → after id (answered 0x0233)) ∧
      (y.orphaned = false →
        (op = .give → (v + k ≤ r.capacity → after (serves (v + k) y.takers) (answered 0)) ∧
          (r.capacity < v + k → after (fun x => { x with overs := min (x.overs + 1) 0xFFFF }) (fun t => answered 0x0230 t ∧ fld t F.talEventOverflow = 1))) ∧
        (op = .debit → (k ≤ v → after (fun x => { x with value := BitVec.ofNat 32 (v - k) }) (answered 0)) ∧
          (v < k → after (fun x => { x with under := min (x.under + 1) 0xFFFF }) (fun t => answered 0x0231 t ∧ fld t F.talEventUnderflow = 1))) ∧
        (op = .take ∨ op = .watch → r.capacity < k → after id (answered 0x0235)) ∧
        (op = .take → k ≤ r.capacity → (y.takers ≠ [] ∨ v < k → full → exec c s = .next s) ∧
          ((y.takers = [] ∧ k ≤ v) ∨ ¬ full → after (serves v (y.takers ++ [⟨src, n⟩])) (fun _ => True))) ∧
        (op = .watch → k ≤ r.capacity → (k ≤ v → after id (answered 0)) ∧ (v < k → full → exec c s = .next s) ∧
          (v < k → ¬ full → after (fun x => { x with watchers := x.watchers ++ [⟨src, n⟩] }) (fun _ => True))))
    (∀ (idx : Nat) (st : Station) (e : TallyWait), b.stations[idx]? = some st → st.tallyOps.find? (fun e => e.tally == i && !e.accepted) = some e →
      orderFree st idx y e = true → (∀ o ∈ st.tallyOps, o.tally = i → o.accepted = true → o.answer ≠ none) →
      applies (.tallyOpAccept slot i (.station idx)) (.station idx) e.op e.amount (fun status t => ∃ st', stationAt t slot idx = some st' ∧
        ∃ o ∈ st'.tallyOps, o.order = e.order ∧ o.tally = i ∧ o.accepted = true ∧ o.answer = some status)) ∧
    (∀ (any id pc tag : Nat) (op : TallyOp) (n : Word), tallyById s id = some (slot, i) →
      applies (.tallyOpAccept any id (.remote pc tag op n)) (.remote pc tag op n) op n (fun _ _ => True))) ∧
  (∀ (s : State) (any id pc tag : Nat) (op : TallyOp) (n : Word), tallyById s id = none →
    exec (.tallyOpAccept any id (.remote pc tag op n)) s = .next (sendMsg s pc 1 (.tallyAnswer tag 0x0234))) ∧
  (∀ (s : State) (slot i idx : Nat) (b : Bundle) (y : Tally) (r : TallyRec) (st : Station) (e : TallyWait), tallyAt s slot i = some (b, y, r) →
    b.stations[idx]? = some st → st.tallyOps.find? (fun e => e.tally == i && !e.accepted) = some e → orderFree st idx y e = true →
    y.home = none → y.orphaned = false → toFm1 s y.remoteHome = false →
    exec (.tallyOpAccept slot i (.station idx)) s = .next
      (tallyMessage (modStation s slot idx (fun st => { st with tallyOps := markAccepted i st.tallyOps })) b y r idx e))

/-- TALLY_STATUS_RETURN: the status reaches the station that issued, written to gd: one that waits goes on, one that does not only finds gd
free again. A wait on a tally homed on another module: TALLY_REMOTE_PROBE sends a probe to its home while the route book has an option for it; when
TALLY_PROBE_TIMEOUT finds the wait lost the record is orphaned, and the station goes on with OWNER_LOST. -/
def Obligations.TallyStatusAndLostWaits : Prop :=
  (∀ (s : State) (cell status a : Nat) (x : Where) (e : TallyWait), OnCell s cell x → returning x.b x.st = some (e, some a) →
    x.st.deferred = [] → (e.rd ≠ 0 ∨ a = 0) →
    (e.isWait = true → StationResult (.tallyStatusReturn cell status) s x
      (past { setG x.st e.rd (BitVec.ofNat 64 a) with tallyOps := x.st.tallyOps.erase e, waiting := .no })) ∧
    (e.isWait = false → x.st.ckpts = [] → StationResult (.tallyStatusReturn cell status) s x
      { setG x.st e.rd (BitVec.ofNat 64 a) with tallyOps := x.st.tallyOps.erase e })) ∧
  (∀ (s : State) (cell : Nat) (reason : ProbeEnd) (x : Where) (e : TallyWait) (y : Tally) (r : TallyRec), OnCell s cell x →
    remoteWait x = some (e, y, r) → x.st.deferred = [] → e.rd ≠ 0 → x.st.run = .running → y.orphaned = false →
    (x.st.tallyOps.filter (fun o => o.isWait) = [e]) → (∀ o ∈ x.st.tallyOps, o.order = e.order → o = e) →
    (hasEntry s y.remoteHome 1 = true → toFm1 s y.remoteHome = false →
      exec (.tallyRemoteProbe cell) s = .next (sendMsg s y.remoteHome 1 (.tallyProbe r.id (postcode s) cell))) ∧
    (∃ t b' y' r' st, exec (.tallyProbeTimeout cell reason) s = .next t ∧ tallyAt t x.slot e.tally = some (b', y', r') ∧
      y'.orphaned = true ∧ stationAt t x.slot x.idx = some st ∧ getG st e.rd = 0x0232#64 ∧ st.waiting = .no ∧ st.pc = x.st.pc + 4))

/-- TALLY_EPOCH_MARKER: the oldest marker is taken; a value other than EPOCH_VALUE counts an overflow or an underflow and sets the EPOCH
event and, where EPOCH_ACTION is 1, holds the bundle; one equal to it does none of this; the value stays. TALLY_HOME_WAITER_EXPIRE removes
every waiter of the module and no other one, and changes no tally's value. -/
def Obligations.EpochMarkersAndExpiredWaiters : Prop :=
  (∀ (s : State) (slot i : Nat) (b : Bundle) (y : Tally) (r : TallyRec) (m : Option (Nat × Nat)) (ms : List (Option (Nat × Nat))),
    tallyAt s slot i = some (b, y, r) → y.markers = m :: ms → markerFree b i m = true →
    (y.value.toNat = r.epoch → exec (.tallyEpochMarker slot i) s = .next (modTally s slot i (fun t => { t with markers := ms }))) ∧
    (y.value.toNat ≠ r.epoch → ∃ t b' y' r', exec (.tallyEpochMarker slot i) s = .next t ∧
      tallyAt t slot i = some (b', y', r') ∧ y'.value = y.value ∧ y'.markers = ms ∧ fld t F.talEventEpoch = 1 ∧
      (fld s F.talCtlEpochAction = 1 → b.st = .running → b'.st = .held) ∧ (fld s F.talCtlEpochAction = 0 → b'.st = b.st) ∧
      y'.overs = (if r.epoch < y.value.toNat then min (y.overs + 1) 0xFFFF else y.overs) ∧
      y'.under = (if r.epoch < y.value.toNat then y.under else min (y.under + 1) 0xFFFF))) ∧
  (∀ (s : State) (pc : Nat), ∃ t, exec (.tallyHomeWaiterExpire pc) s = .next t ∧
    ∀ (slot : Nat) (b : Bundle) (i : Nat) (y : Tally), slotBundle s slot = some b → b.tallies[i]? = some y →
      ∃ b' y', slotBundle t slot = some b' ∧ b'.tallies[i]? = some y' ∧ y'.value = y.value ∧
        (∀ v, v ∈ y'.takers ↔ v ∈ y.takers ∧ ∀ tag op n, v.src ≠ .remote pc tag op n) ∧
        (∀ v, v ∈ y'.watchers ↔ v ∈ y.watchers ∧ ∀ tag op n, v.src ≠ .remote pc tag op n))

/-! ### Station instructions: speculation, drain points, time, counters -/

/-- CONFIRM confirms every tile of its range, CANCEL leaves no tile from its range on unresolved; outside every speculation region
both fault with SPEC_INVALID. -/
def Obligations.ConfirmAndCancelResolve : Prop :=
  ∀ (s : State) (cell : Nat) (w : Word) (x : Where), Issues s cell w x →
    let lo := BitVec.ofNat 32 ((getG x.st (fRA w)).toNat % 2 ^ 32)
    let hi := BitVec.ofNat 32 ((getG x.st (fRB w)).toNat % 2 ^ 32)
    let after (c : Instr) (si : Nat) (P : Stream → Prop) : Prop := ∃ t b y, exec c s = .next t ∧ slotBundle t x.slot = some b ∧
      b.streams[si]? = some y ∧ P y
    (∀ si r y, fOpc w = 0x3C → x.sr.spec ≠ 0 → outEnd x.b x.idx (fRD w) = some (si, r, y) → confirmOk y lo hi = true →
      after (.confirm cell w) si (fun z => ∀ p ∈ z.prov, (p.seq - lo).toNat ≤ (hi - lo).toNat → p.confirmed = true)) ∧
    (∀ si r y k, fOpc w = 0x3D → x.sr.spec ≠ 0 → outEnd x.b x.idx (fRD w) = some (si, r, y) → cancelOk y lo hi = true →
      y.prov.findIdx? (fun p => p.seq == lo) = some k →
      after (.cancel cell w) si (fun z => ∀ p ∈ z.prov, p.seq ∉ (y.prov.drop k).map (·.seq))) ∧
    (fOpc w = 0x3C → x.sr.spec = 0 → ∃ t, exec (.confirm cell w) s = .next t ∧ FaultShown t cell x 0x0219 x.st.pc w (fRD w)) ∧
    (fOpc w = 0x3D → x.sr.spec = 0 → ∃ t, exec (.cancel cell w) s = .next t ∧ FaultShown t cell x 0x0219 x.st.pc w (fRD w))

/-- DRAIN and HALT wait for every earlier instruction of their station; then, as they issue or at DRAIN_POINT_REACHED, DRAIN stops the station where a request is pending and it
holds no checkpoint, else goes on, and HALT stops it for good with PC at the HALT, reporting BUNDLE_HALTED where it is the last station of
its bundle to halt. -/
def Obligations.DrainAndHaltStopTheStation : Prop :=
  (∀ (s : State) (cell : Nat) (w : Word) (x : Where), Issues s cell w x → (∀ st ∈ x.b.stations, st.relocating = false) →
    let waits (k : Waiting) : Station := { issued x w with waiting := k, waitInsn := w, waitSince := now s }
    (fOpc w = 0x40 → (allDone x.st = false → StationResult (.drain cell w) s x (waits .drain)) ∧
      (allDone x.st = true → x.st.drainReq = false ∨ x.st.ckpts ≠ [] → StationResult (.drain cell w) s x (past (issued x w))) ∧
      (allDone x.st = true → x.st.drainReq = true → x.st.ckpts = [] →
        StationResult (.drain cell w) s x (past { issued x w with run := .drained }))) ∧
    (fOpc w = 0x1F → (allDone x.st = false → StationResult (.halt cell w) s x (waits .halt)) ∧
      (allDone x.st = true → ∃ t b, exec (.halt cell w) s = .next t ∧ slotBundle t x.slot = some b ∧
        b = { withStation x { issued x w with run := .halted } with haltReported := b.haltReported } ∧
        ((∀ st ∈ b.stations, st.run = .halted) → x.b.haltReported = false → b.haltReported = true ∧
          ∃ u, t = report u 0x021B (srcActive s) x.handle [])))) ∧
  (∀ (s : State) (cell : Nat) (x : Where), OnCell s cell x → x.st.run = .running → (∀ st ∈ x.b.stations, st.relocating = false) →
    allDone x.st = true →
    (x.st.waiting = .drain → x.st.drainReq = true → x.st.ckpts = [] →
      StationResult (.drainPointReached cell) s x (past { x.st with run := .drained, waiting := .no })) ∧
    (x.st.waiting = .drain → x.st.drainReq = false ∨ x.st.ckpts ≠ [] →
      StationResult (.drainPointReached cell) s x (past { x.st with waiting := .no })) ∧
    (x.st.waiting = .halt → ∃ t b, exec (.drainPointReached cell) s = .next t ∧ slotBundle t x.slot = some b ∧
      b = { withStation x { x.st with run := .halted, waiting := .no } with haltReported := b.haltReported } ∧
      ((∀ st ∈ b.stations, st.run = .halted) → x.b.haltReported = false → b.haltReported = true ∧
        ∃ u, t = report u 0x021B (srcActive s) x.handle [])))

/-! ### The Counter -/

/-- A request of a session whose SEQ is the last accepted one is answered with the reply cached for it and not executed again, one of
an earlier SEQ with CTR_REPLAY; a command that its session may not give, as an observer or before its authentication, is answered
CTR_NOT_PERMITTED. -/
def Obligations.RequestsAreExecutedOnce : Prop :=
  ∀ (s : State) (h : CtrHdr) (x : Session) (d : Dgram), s.phase = .running → s.active = some h.port → (hubOf s h.port).link = true →
    findSession s h.session = some x → s.partials = [] → (∀ y ∈ s.sessions, y.backlog = []) → h.count = 1 → h.dgrams = [d] → d.frag = 0 →
    (∀ m, dgramOk s h 0x0023 d = true → h.seq = x.lastSeq → x.cached = some m → ∃ t, exec (.start h) s = .next t ∧
      t.out = s.out ++ [.counter { m with port := h.port }] ∧ t.pl = s.pl ∧ t.dies = s.dies ∧ t.sessions = s.sessions) ∧
    (dgramOk s h 0x0023 d = true → h.seq ≠ x.lastSeq → laterThan h.seq x.lastSeq = false →
      Replies (.start h) s h 0x0023 0x0813 [] (fun t => t.pl = s.pl ∧ t.dies = s.dies ∧ t.sessions = s.sessions)) ∧
    (dgramOk s h 0x0023 d = true → laterThan h.seq x.lastSeq = true → x.busy = false → (x.control = false ∨ x.authed = false) →
      Replies (.start h) s h 0x0023 0x0814 [] (fun t => t.pl = s.pl ∧ t.dies = s.dies))

/-- SESSION_OPEN opens a session, not yet authenticated, and answers with its number, a nonce, the ciphertext and the signature over the
hash of request and reply; its key comes of the exchange and both nonces. With 16 sessions held it answers CTR_SESSIONS_FULL. SESSION_AUTH
with a signature that verifies authenticates a control session, and with another closes it with CTR_AUTH_FAILED; SESSION_CLOSE answers and
closes its session with its stages. COUNTER_FRAGMENT_TIMEOUT discards its incomplete message; SESSION_IDLE_TIMEOUT closes its session with
its stages, unless its command still runs. -/
def Obligations.SessionsOpenAndClose : Prop :=
  ((∀ (s : State) (h : CtrHdr) (d : Dgram), s.phase = .running → s.active = some h.port → (hubOf s h.port).link = true → s.partials = [] →
    (∀ y ∈ s.sessions, y.backlog = []) → s.pl.abandoned = [] → h.count = 1 → h.dgrams = [d] → d.frag = 0 → dgramOk s h 0x0001 d = true →
    d.body.length = 1220 → fieldLE d.body 0 2 < 4 →
    (s.sessions.length < 16 → ∃ t y ns sec q body n, exec (.sessionOpen h) s = .next t ∧ t.sessions = s.sessions ++ [y] ∧ y.id = sessionId s ∧
      y.control = bitAt (fieldLE d.body 0 2) 0 ∧ y.events = bitAt (fieldLE d.body 0 2) 1 ∧ y.authed = false ∧ y.lastSeq = h.seq ∧
      y.keyIndex = fieldLE d.body 2 2 ∧ y.busy = false ∧ y.backlog = [] ∧
      t.out = s.out ++ [.counter ⟨h.port, 1, 1, 0, y.id, h.seq.toNat, h.tag, ns, sec, q, body, false⟩] ∧ body.length = 8980 ∧
      fieldLE body 0 4 = y.id ∧ slice body 36 1088 = padTo 1088 (Config.mlkemEncaps (slice d.body 36 1184) n).1 ∧
      y.hash = sha256 (d.body ++ body.take 1124) ∧ body.drop 1124 = padTo 7856 (Config.slhSign (idPub s) y.hash) ∧
      y.key = hkdf32 (Config.mlkemEncaps (slice d.body 36 1184) n).2 (slice d.body 4 32 ++ slice body 4 32) (asciiBytes "Foliramen Counter")) ∧
    (16 ≤ s.sessions.length → ∃ t l ns sec q, exec (.sessionOpen h) s = .next t ∧ t.sessions = s.sessions ∧
      t.out = s.out ++ l ∧ Emit.counter ⟨h.port, 1, 1, 0x0815, 0, h.seq.toNat, h.tag, ns, sec, q, [], false⟩ ∈ l)) ∧
  (∀ (s : State) (h : CtrHdr) (b : List Byte) (x : Session), Asks s h 0x0002 b x → b.length = 7856 → s.pl.abandoned = [] →
    (authOk s x b = true → Replies (.sessionAuth h) s h 2 0 [] (fun t => ∃ y, findSession t x.id = some y ∧ y.authed = true)) ∧
    (authOk s x b = false → Replies (.sessionAuth h) s h 2 0x0811 [] (fun t => findSession t x.id = none))) ∧
  (∀ (s : State) (h : CtrHdr) (x : Session), Asks s h 0x0003 [] x →
    Replies (.sessionClose h) s h 3 0 [] (fun t => findSession t x.id = none ∧ ∀ g ∈ t.stages, g.session ≠ x.id))) ∧
  (∀ (s : State) (port : Hub) (n : Nat) (seq : Word) (x : Session),
    exec (.counterFragmentTimeout port n seq) s =
      .next { s with partials := s.partials.filter (fun p => !(p.port == port && p.session == n && p.seq == seq)) } ∧
    (findSession s n = some x → s.active.isSome = true →
      (x.busy = true → exec (.sessionIdleTimeout n) s = .next s) ∧
      (x.busy = false → ∃ t, exec (.sessionIdleTimeout n) s = .next t ∧ findSession t n = none ∧ ∀ g ∈ t.stages, g.session ≠ n)))

/-- STATUS, MAP_READ, DLQ_READ, DELTA_READ and CAL_SAVE answer with what they read and change no bundle and no die; MEM_READ with its words,
corrected in its stack as they are read, and a bit for each that was uncorrectable. REG_READ answers the words that its accesses return
one after another; the first one refused ends them and gives the status. -/
def Obligations.ReadingCommandsAnswer : Prop :=
  ∀ (s : State) (h : CtrHdr) (b : List Byte) (x : Session),
    let same (t : State) : Prop := t.pl = s.pl ∧ t.dies = s.dies
    let handle := fieldLE b 0 2
    (Asks s h 0x0004 [] x → Replies (.status h) s h 0x0004 0
      (leBytes 4 (idPartWord s).toNat ++ leBytes 4 (idPopWord s).toNat ++ leBytes 8 s.ident.serial ++ padTo 6 s.ident.mac0 ++
        padTo 6 s.ident.mac1 ++ leBytes 1 (hubIndex h.port) ++ leBytes 1 s.sec.lc.code ++
        leBytes 4 (regRead s ⟨.bndStat, 0, 0, 0⟩).toNat) same) ∧
    (Asks s h 0x0010 b x → b.length = 6 → fieldLE b 4 2 = 1 →
      (resolve s (fieldLE b 0 4) = .error 0x0801 → Replies (.regRead h) s h 0x0010 0x0801 [] same) ∧
      (resolve s (fieldLE b 0 4) = .error 0x0803 → Replies (.regRead h) s h 0x0010 0x0803 [] same) ∧
      (resolve s (fieldLE b 0 4) = .ok ⟨.idPart, 0, 0, 0⟩ → Replies (.regRead h) s h 0x0010 0 (leBytes 4 (regRead s ⟨.idPart, 0, 0, 0⟩).toNat) same)) ∧
    (∀ ws u, Asks s h 0x0010 b x → b.length = 6 → 1 ≤ fieldLE b 4 2 → fieldLE b 4 2 ≤ 256 → ReadsInTurn (serving s h x) (fieldLE b 0 4) ws u →
      (ws.length = fieldLE b 4 2 → Replies (.regRead h) s h 0x0010 0 (wordBytes ws) (fun t => t.pl = u.pl ∧ t.regs = u.regs)) ∧
      (∀ v code w, ws.length < fieldLE b 4 2 → readAt u (fieldLE b 0 4 + 4 * ws.length) = (v, code, w) → code ≠ 0 →
        Replies (.regRead h) s h 0x0010 code (wordBytes ws) (fun t => t.pl = v.pl ∧ t.regs = v.regs))) ∧
    (∀ slot bd, Asks s h 0x0028 b x → b.length = 10 → byHandle s handle = some (slot, bd) → fieldLE b 2 1 < 3 → fieldLE b 3 1 = 0 →
      fieldLE b 8 2 ≤ 256 → Replies (.mapRead h) s h 0x0028 0
        (leBytes 4 (fld s F.bndMapGenGen) ++ (((mapEntries s bd (fieldLE b 2 1)).drop (fieldLE b 4 4)).take (fieldLE b 8 2)).flatten) same) ∧
    (Asks s h 0x0030 b x → b.length = 2 → fieldLE b 0 1 < 8 → 1 ≤ fieldLE b 1 1 → fieldLE b 1 1 ≤ 16 →
      Replies (.dlqRead h) s h 0x0030 0 (((dlqOf s (fieldLE b 0 1)).take (fieldLE b 1 1)).flatMap (DlqEntry.bytes (fieldLE b 0 1))) same) ∧
    (∀ slot bd, Asks s h 0x0032 b x → b.length = 2 → byHandle s handle = some (slot, bd) →
      Replies (.deltaRead h) s h 0x0032 0 ((withIdx bd.img.streams).flatMap (fun p =>
        if p.2.kind = 2 ∧ p.2.producer < 0xFFFE then padTo 32 (match bd.streams[p.1]? with | some y => y.delta.last | none => []) else [])) same) ∧
    (∀ m, Asks s h 0x0038 b x → b.length = 12 → fieldLE b 8 4 % 16 = 0 → 1 ≤ fieldLE b 8 4 → fieldLE b 8 4 ≤ 4096 → fieldLE b 0 8 % 16 = 0 →
      hostMayReach s (fieldLE b 0 8) (fieldLE b 8 4) false = true → stackOf s (fieldLE b 0 8 / 2 ^ 36 % 16) = some m → m.repairing = [] →
      let off := fieldLE b 0 8 % 2 ^ 36
      let n := fieldLE b 8 4
      let r := m.mem.correct off n
      let mem := r.bad.foldl (fun m e => m.poisonWord e.1) r.mem
      Replies (.memRead h) s h 0x0038 0 (mem.read off n ++ packBits ((List.range (n / 16)).map (fun i => (r.bad.map (·.1)).contains (off / 16 + i))))
        (fun t => t.pl = s.pl ∧ (stackOf t (fieldLE b 0 8 / 2 ^ 36 % 16)).map (·.mem) = some mem ∧
          ∀ k, k ≠ fieldLE b 0 8 / 2 ^ 36 % 16 → stackOf t k = stackOf s k)) ∧
    (∀ l, Asks s h 0x0040 b x → b.length = 6 → fieldLE b 1 1 = 0 → 1 ≤ fieldLE b 4 2 → l = (List.range (fieldLE b 4 2)).map (fieldLE b 2 2 + ·) →
      (∀ i ∈ l, calExists s.ident (fieldLE b 0 1) i = true) →
      Replies (.calSave h) s h 0x0040 0 (l.flatMap (fun i => wordBytes (calRecord s (fieldLE b 0 1) i))) same)

/-- The commands that write answer once they have written: REG_WRITE with the outcome of its access, refused where the address names no
register; MEM_WRITE stores its data and changes no other byte of stack memory; DLQ_RELEASE removes the oldest entries; CAL_RESTORE answers a
status for each record; CELL_RETIRE and CELL_RESTORE retire and restore a good cell that holds no station, committed before the answer, and
a hard-retired one stays so; HOST_QP connects a queue pair; COUNTER_COMMAND_UNKNOWN answers CTR_COMMAND_UNKNOWN. -/
def Obligations.WritingCommandsWrite : Prop :=
  ∀ (s : State) (h : CtrHdr) (b : List Byte) (x : Session),
    let a := fieldLE b 0 8
    let n := fieldLE b 8 4
    (Asks s h 0x0011 b x → b.length = 8 →
      (∀ c, resolve s (fieldLE b 0 4) = .error c → Replies (.regWrite h) s h 0x0011 c [] (fun t => t.pl = s.pl ∧ t.dies = s.dies)) ∧
      (resolve s (fieldLE b 0 4) = .ok ⟨.idPart, 0, 0, 0⟩ →
        Replies (.regWrite h) s h 0x0011 0x0804 [] (fun t => t.pl = s.pl ∧ t.dies = s.dies)) ∧
      (∀ u code y, writeAt (serving s h x) (.session h.session) (fieldLE b 0 4) (BitVec.ofNat 32 (fieldLE b 4 4)) = (u, code) → u.active = s.active →
        u.sec.incomplete = (serving s h x).sec.incomplete → findSession u h.session = some y →
        Replies (.regWrite h) s h 0x0011 code [] (fun t => t.pl = u.pl ∧ t.dies = u.dies ∧ t.regs = u.regs))) ∧
    (∀ m, Asks s h 0x0039 b x → b.length = 12 + n → 1 ≤ n → n ≤ 4096 → n % 16 = 0 → a % 16 = 0 → hostMayReach s a n true = true →
      stackOf s (a / 2 ^ 36 % 16) = some m → m.repairing = [] →
      Replies (.memWrite h) s h 0x0039 0 [] (fun t => ∃ m', stackOf t (a / 2 ^ 36 % 16) = some m' ∧
        m'.mem.read (a % 2 ^ 36) n = b.drop 12 ∧
        (∀ k, (k < a % 2 ^ 36 ∨ a % 2 ^ 36 + n ≤ k) → m'.mem.byte k = m.mem.byte k) ∧
        (∀ k, k ≠ a / 2 ^ 36 % 16 → stackOf t k = stackOf s k) ∧ t.pl = s.pl)) ∧
    (∀ d, Asks s h 0x0031 b x → b.length = 4 → fieldLE b 0 1 < 8 → fieldLE b 1 1 = 0 → s.dies[fieldLE b 0 1]? = some d →
      Replies (.dlqRelease h) s h 0x0031 0 (leBytes 2 (min (fieldLE b 2 2) d.dlq.length)) (fun t =>
        dlqOf t (fieldLE b 0 1) = d.dlq.drop (min (fieldLE b 2 2) d.dlq.length) ∧ t.pl = s.pl)) ∧
    (∀ rs, Asks s h 0x0041 b x → b ≠ [] → b.length % 4 = 0 → splitRecords b.length (wordsOf b) = some rs →
      ∃ body, body.length = 2 * rs.length ∧ Replies (.calRestore h) s h 0x0041 0 body (fun t => t.pl = s.pl ∧ t.dies = s.dies)) ∧
    (Asks s h 0x0048 b x → b.length = 2 → goodCell s (fieldLE b 0 2) = true → retiredCell s (fieldLE b 0 2) = false →
      stationOn s (fieldLE b 0 2) = none →
      Replies (.cellRetire h) s h 0x0048 0 [] (fun t => SMap.find t.pl.retired (fieldLE b 0 2) = some .soft ∧
        (∀ c, c ≠ fieldLE b 0 2 → SMap.find t.pl.retired c = SMap.find s.pl.retired c) ∧ t.sec.retPending = false)) ∧
    (Asks s h 0x0049 b x → b.length = 2 → goodCell s (fieldLE b 0 2) = true →
      (SMap.find s.pl.retired (fieldLE b 0 2) = some .soft → Replies (.cellRestore h) s h 0x0049 0 [] (fun t =>
        SMap.find t.pl.retired (fieldLE b 0 2) = none ∧ t.sec.retPending = false)) ∧
      (SMap.find s.pl.retired (fieldLE b 0 2) = some .hard → Replies (.cellRestore h) s h 0x0049 0x012F [] (fun t => t.pl = s.pl))) ∧
    (∀ v : StreamAt, Asks s h 0x0050 b x → b.length = 24 → streamById s (fieldLE b 0 4) (fun r => r.kind == 4) = some v →
      ∃ body, body.length = 8 ∧ Replies (.hostQp h) s h 0x0050 0 body (fun t => ∃ bd y, slotBundle t v.slot = some bd ∧
        bd.streams[v.si]? = some y ∧ y.qp = some (fieldLE b 4 4) ∧ y.receives = 0)) ∧
    (∀ code, Asks s h code b x → knownCommand code = false →
      Replies (.counterCommandUnknown h code) s h code 0x0817 [] (fun t => t.pl = s.pl ∧ t.dies = s.dies))

/-! ### The life of a bundle -/

/-- BUNDLE_STAGE gives a session one stage of the length asked; a session that holds one, or a module that holds two, is answered
CTR_STAGE_BUSY. -/
def Obligations.StagesAreGiven : Prop :=
  ∀ (s : State) (h : CtrHdr) (b : List Byte) (x : Session), Asks s h 0x0020 b x → b.length = 4 → 1 ≤ fieldLE b 0 4 →
    fieldLE b 0 4 ≤ 268435456 →
    ((∀ g ∈ s.stages, g.session ≠ h.session) → s.stages.length < 2 → ∃ body id,
      Replies (.bundleStage h) s h 0x0020 0 body (fun t => t.stages = s.stages ++ [⟨id, h.session, fieldLE b 0 4, []⟩]) ∧
        ((∀ g ∈ s.stages, g.id ≠ 1) → id = 1)) ∧
    ((∃ g ∈ s.stages, g.session = h.session) ∨ 2 ≤ s.stages.length →
      Replies (.bundleStage h) s h 0x0020 0x0819 [] (fun t => t.stages = s.stages))

/-- BUNDLE_LOAD, without REPLACE, of a bundle that fails its verification is refused with the verification's code, keeps no bundle and
releases the stage; one that verifies, with no PLAN and no CONST record, and that fits without victims, is READY when it is answered with
its handle, RUNNING where START was set. FIT_PROBE answers the verification's code, or what the fit on the present state gives, and
changes no bundle. -/
def Obligations.LoadsEndReadyOrRefused : Prop :=
  ∀ (s : State) (h : CtrHdr) (b bytes : List Byte) (x : Session), b.length = 6 → fieldLE b 2 2 < 16 → bitAt (fieldLE b 2 2) 0 = false →
    s.pl.busy = none → s.pl.queue = [] → s.pl.ready = [] →
    stageBytes s ⟨h.port, h.session, h.seq, h.tag, 0⟩ (fieldLE b 0 2) = some bytes →
    let opts : LoadOpts := ⟨none, bitAt (fieldLE b 2 2) 1, bitAt (fieldLE b 2 2) 2, bitAt (fieldLE b 2 2) 3⟩
    let k := ((List.range 64).find? (fun k => (slotBundle s k).isNone)).getD 64
    let reuse := SMap.getD s.pl.reuse k 0 % 1024
    let begun (u : State) (img : BundleImg) : State := { u with pl := { u.pl with
      reuse := SMap.setD u.pl.reuse k (SMap.getD u.pl.reuse k 0 + 1) 0, loads := u.pl.loads + 1
      slots := SMap.insert u.pl.slots k
        (freshBundle reuse u.pl.loads (fieldLE b 0 2) img opts ⟨h.port, h.session, h.seq, h.tag, 0x0021⟩) } }
    (∀ e, Asks s h 0x0021 b x → verifyBundle (serving s h x) bytes = .error e → Replies (.bundleLoad h) s h 0x0021 e (leBytes 2 0xFFFF ++ leBytes 2 0) (fun t =>
      t.pl.slots = s.pl.slots ∧ ∀ g ∈ t.stages, g.id ≠ fieldLE b 0 2)) ∧
    (∀ img f o, Asks s h 0x0021 b x → verifyBundle (serving s h x) bytes = .ok img → img.plan = none → img.consts = [] → k < 64 →
      fitVictims (begun (serving s h x) img) img opts (some k) = ([], f, o) → o.failed = [] →
      Replies (.bundleLoad h) s h 0x0021 0 (leBytes 2 (k + 64 * reuse) ++ leBytes 2 0) (fun t => ∃ bd, slotBundle t k = some bd ∧
        bd.st = (if opts.start then .running else .ready) ∧ bd.img = img ∧ bd.placed = true ∧ bd.everStarted = opts.start ∧ bd.stations.length = img.stations.length ∧
        (∀ j, j ≠ k → slotBundle t j = slotBundle s j) ∧ fld t F.bndEventReady = 1)) ∧
    (∀ e, Asks s h 0x0022 b x → verifyBundle (serving s h x) bytes = .error e →
      Replies (.fitProbe h) s h 0x0022 e (leBytes 2 0) (fun t => t.pl.slots = s.pl.slots ∧ t.dies = s.dies ∧ t.stages = s.stages)) ∧
    (∀ img vs f o, Asks s h 0x0022 b x → verifyBundle (serving s h x) bytes = .ok img → fitVictims (serving s h x) img opts none = (vs, f, o) →
      (img.plan = none → o.failed = [] → Replies (.fitProbe h) s h 0x0022 0 (entriesBody (probeEntries f o [])) (fun t =>
        t.pl.slots = s.pl.slots ∧ t.dies = s.dies ∧ t.stages = s.stages)) ∧
      (∀ e es, img.plan = none → o.failed = e :: es → Replies (.fitProbe h) s h 0x0022 e.code (entriesBody (probeEntries f o [])) (fun t =>
        t.pl.slots = s.pl.slots ∧ t.dies = s.dies ∧ t.stages = s.stages)) ∧
      (∃ status body, Replies (.fitProbe h) s h 0x0022 status body (fun t => t.pl.slots = s.pl.slots ∧ t.dies = s.dies ∧ t.stages = s.stages)))

/-- START of a READY or HELD bundle answers it RUNNING, of an EVICTED one RUNNING on the cells that it is given or the entries of what does
not fit; HOLD of a RUNNING one answers it HELD; EVICT of a RUNNING or HELD one asks its stations to drain and answers later, or
EVICT_NOT_ALLOWED; UNLOAD answers the streams' discarded tiles with the bundle gone, and ends a load with LOAD_CANCELLED. In any other
state START, HOLD and EVICT answer STATE_INVALID, and all four HANDLE_UNKNOWN for a handle that names no bundle. -/
def Obligations.BundleControlFollowsTheState : Prop :=
  ∀ (s : State) (h : CtrHdr) (b : List Byte) (x : Session) (slot : Nat) (bd : Bundle), b.length = 2 →
    let handle := fieldLE b 0 2
    let after (t : State) (P : Bundle → Prop) : Prop := ∃ bd', slotBundle t slot = some bd' ∧ P bd'
    let still : Prop := ∀ st ∈ bd.stations, st.relocating = false
    (∀ (c : Instr) (code : Nat), (c, code) ∈ [(Instr.start h, 0x0023), (.hold h, 0x0024), (.evict h, 0x0025), (.unload h, 0x0026)] →
      Asks s h code b x → byHandle s handle = none → Replies c s h code 0x0120 [] (fun t => t.pl = s.pl)) ∧
    (byHandle s handle = some (slot, bd) →
      (Asks s h 0x0023 b x → (bd.st = .ready ∨ (bd.st = .held ∧ still)) → Replies (.start h) s h 0x0023 0 [] (fun t =>
        after t (fun c => c.st = .running ∧ c.everStarted = true ∧ ∀ st ∈ c.stations, st.run = .running ∨ st.run = .halted))) ∧
      (∀ c, Asks s h 0x0023 b x → bd.st = .held → slotBundle (relocateAll (serving s h x) slot) slot = some c →
        (c.stations.any (fun st => st.relocating && movable st) = true → Replies (.start h) s h 0x0023 0x0125 [] (fun t => slotBundle t slot = some c)) ∧
        (c.stations.any (fun st => st.relocating && movable st) = false → Replies (.start h) s h 0x0023 0 [] (fun t => after t (fun d => d.st = .running)))) ∧
      (∀ dies, Asks s h 0x0023 b x → bd.st = .evicted → bd.stations.length ≤ bd.img.stations.length → placeCells (serving s h x) bd = .ok dies →
        Replies (.start h) s h 0x0023 0 [] (fun t => after t (fun c => c.st = .running ∧ c.stations.length = bd.stations.length ∧
          ∀ i st, c.stations[i]? = some st → st.cell = some (cellIn ⟨dies, [], ⟨[], [], [], 0⟩⟩ i) ∧ (st.run = .running ∨ st.run = .halted)))) ∧
      (∀ l e es, Asks s h 0x0023 b x → bd.st = .evicted → placeCells (serving s h x) bd = .error l → sortEntries l = e :: es →
        Replies (.start h) s h 0x0023 e.code (entriesBody (e :: es)) (fun t => t.pl = s.pl)) ∧
      (Asks s h 0x0024 b x → bd.st = .running → Replies (.hold h) s h 0x0024 0 [] (fun t =>
        after t (fun c => c.st = .held ∧ c.frames = [] ∧ ∀ st ∈ c.stations, st.run ≠ .running))) ∧
      (Asks s h 0x0025 b x → (bd.st = .running ∨ bd.st = .held) → bd.img.limits.evictable = true → bd.reply = none → ∃ t, exec (.evict h) s = .next t ∧
        t.out = s.out ∧ after t (fun c => c.st = .evicting ∧ c.evictFrom = bd.st ∧ ∀ st ∈ c.stations, st.run = .running → st.drainReq = true)) ∧
      (Asks s h 0x0025 b x → (bd.st = .running ∨ bd.st = .held) → bd.img.limits.evictable = false →
        Replies (.evict h) s h 0x0025 0x0122 [] (fun t => t.pl = s.pl)) ∧
      (Asks s h 0x0026 b x → bd.st ≠ .loading → bd.st ≠ .planWait → bd.reply = none → still → victimOf s slot = none →
        s.pl.queue = [] → s.pl.ready = [] →
        Replies (.unload h) s h 0x0026 0 (unloadBody bd) (fun t => slotBundle t slot = none ∧
          ∀ j, j ≠ slot → (slotBundle t j).isSome = (slotBundle s j).isSome)) ∧
      (Asks s h 0x0026 b x → bd.st = .loading ∨ bd.st = .planWait → bd.victims = [] → still → victimOf s slot = none → s.pl.queue = [] → s.pl.ready = [] →
        Replies (.unload h) s h 0x0026 0 (unloadBody bd) (fun t => slotBundle t slot = none ∧
          ∀ c y, bd.reply = some c → findSession s c.session = some y → Told s t c 0x012A)) ∧
      (Asks s h 0x0023 b x → bd.st ≠ .ready → bd.st ≠ .held → bd.st ≠ .evicted → Replies (.start h) s h 0x0023 0x0121 [] (fun t => t.pl = s.pl)) ∧
      (Asks s h 0x0024 b x → bd.st ≠ .running → Replies (.hold h) s h 0x0024 0x0121 [] (fun t => t.pl = s.pl)) ∧
      (Asks s h 0x0025 b x → bd.st ≠ .running → bd.st ≠ .held → Replies (.evict h) s h 0x0025 0x0121 [] (fun t => t.pl = s.pl)))

/-- What ends a load or an eviction that waits. PLAN_CIRCUITS_LIT, with every entry waited for lit, lets the load go on, to READY where it
fits without victims and needs no image; PLAN_WAIT_EXPIRY with an entry unlit lets it go on where the PLAN allows less, else refuses it with
PLAN_UNLIT. PRELOAD_STORAGE_COMPLETE puts the images from outside in place and the load is READY, or refuses it with CONST_SOURCE or
CONST_HASH. EVICT_DRAINED frees the cells of a bundle whose stations have all stopped; EVICT_DRAIN_TIMEOUT withdraws the requests and returns
it to its state before, and refuses a load that waited with DRAIN_TIMEOUT. The command that waited is answered. -/
def Obligations.WaitsOfABundleEnd : Prop :=
  ∀ (s : State) (slot : Nat) (bd : Bundle), s.phase = .running → s.active.isSome = true → slotBundle s slot = some bd →
    (∀ y ∈ s.sessions, y.backlog = []) →
    let told (t : State) (r : Option Caller) (status : Nat) : Prop := ∀ c y, r = some c → findSession s c.session = some y → Told s t c status
    let started : BState := if bd.opts.start then .running else .ready
    (∀ f o, bd.st = .planWait → s.pl.busy = none → s.pl.ready = [] → s.pl.queue = [] → stillUnlit s bd = [] → bd.img.consts = [] →
      bd.opts.replace = none → slot < 64 →
      fitVictims (modBundle s slot (fun b => { b with st := .loading })) bd.img bd.opts (some slot) = ([], f, o) → o.failed = [] →
      ∃ t c, exec (.planCircuitsLit slot) s = .next t ∧ slotBundle t slot = some c ∧ c.st = started ∧ c.placed = true ∧ c.img = bd.img ∧
        told t bd.reply 0) ∧
    (bd.st = .planWait → s.pl.ready = [] → s.pl.busy.isSome = true → stillUnlit s bd = [] →
      exec (.planCircuitsLit slot) s = .next { s with pl := { s.pl with ready := [slot] } }) ∧
    (bd.st = .planWait → s.pl.ready = [] → s.pl.busy.isSome = true → stillUnlit s bd ≠ [] →
      (degradedOk bd.img = true → ∃ t c, exec (.planWaitExpiry slot) s = .next t ∧ t.pl.ready = [slot] ∧ slotBundle t slot = some c ∧
        c.planShort = bd.planShort ++ stillUnlit s bd) ∧
      (degradedOk bd.img = false → bd.victims = [] → s.pl.queue = [] → ∃ t, exec (.planWaitExpiry slot) s = .next t ∧ slotBundle t slot = none ∧
        told t bd.reply 0x011A)) ∧
    (s.pl.busy = some slot → bd.placed = true → bd.st = .loading → s.pl.queue = [] → s.pl.ready = [] →
      (∀ images u, fillImages s (preloads bd) images = .ok u → ∃ t c, exec (.preloadStorageComplete slot images) s = .next t ∧
        slotBundle t slot = some c ∧ c.st = started ∧ t.pl.busy = none ∧ told t bd.reply 0) ∧
      (∀ p c data, preloads bd = [([p], c)] → constExternal s c = true →
        (∀ k, stackOf s p.stack = some k → k.repairing = [] → data.length = c.length → hashOk c data = true →
          ∃ t k', exec (.preloadStorageComplete slot [(data, true)]) s = .next t ∧ stackOf t p.stack = some k' ∧ k'.mem.read p.off data.length = data) ∧
        (bd.victims = [] → (∃ t, exec (.preloadStorageComplete slot [(data, false)]) s = .next t ∧ slotBundle t slot = none ∧ told t bd.reply 0x010B) ∧
          (data.length = c.length → hashOk c data = false →
            ∃ t, exec (.preloadStorageComplete slot [(data, true)]) s = .next t ∧ slotBundle t slot = none ∧ told t bd.reply 0x010A)))) ∧
    (victimOf s slot = none → bd.st = .evicting → allStopped bd = true → bd.stations.length ≤ bd.img.stations.length →
      ∃ t c, exec (.evictDrained slot) s = .next t ∧ slotBundle t slot = some c ∧ c.st = .evicted ∧ (∀ st ∈ c.stations, st.cell = none) ∧
        fld t F.bndEventEvicted = 1 ∧ told t bd.reply 0) ∧
    (victimOf s slot = none → bd.st = .evicting → bd.evictFrom = .running ∨ bd.evictFrom = .held → (∀ st ∈ bd.stations, st.relocating = false) →
      ∃ t c, exec (.evictDrainTimeout slot) s = .next t ∧ slotBundle t slot = some c ∧ c.st = bd.evictFrom ∧ told t bd.reply 0x0123 ∧
        ∀ st ∈ c.stations, st.drainReq = false ∧ (bd.evictFrom = .running → st.run ≠ .drained)) ∧
    (∀ k bk, victimOf s slot = some (k, bk) → slotBundle s k = some bk → s.pl.busy = some k → s.pl.queue = [] → s.pl.ready = [] →
      (∀ v y, v ∈ bk.victims → slotBundle s v = some y → y.st = .evicting → allStopped y = false → exec (.evictDrained slot) s = .next s) ∧
      ∃ t, exec (.evictDrainTimeout slot) s = .next t ∧ slotBundle t k = none ∧ told t bk.reply 0x0123)

/-! ### Tiles between stations, modules and the host -/

/-- TILE_HOP: the oldest tile under way enters the input queue of its consumer where it has room, goes to the host where it has posted a
receive, or leaves for another module; a hop before the last, or one whose end cannot take it, moves no bundle. REMOTE_TILE_ARRIVAL: a tile
for another module goes on; one for a stream of this module is under way in the order of SEQ, is held ahead of a missing one while the store
has room, waits in the receive buffer while it has none, or is discarded as a repeat; one that no stream here takes enters the dead-letter
queue. STREAM_GAP_TIMEOUT breaks the end and holds a running bundle. HOST_TILE_ADMIT numbers a tile that the host sends and puts it under way,
answers receiver-not-ready where no buffer is posted, and reports a tile whose header fails. HOST_RECEIVE_POSTED adds receives. -/
def Obligations.TilesTravelInOrder : Prop :=
  let after (c : Instr) (s : State) (slot si : Nat) (P : State → Bundle → Stream → Prop) : Prop :=
    ∃ t b y, exec c s = .next t ∧ slotBundle t slot = some b ∧ b.streams[si]? = some y ∧ P t b y
  let dead (s t : State) (d reason : Nat) (tile : Tile) : Prop := ∀ die, s.dies[d]? = some die → stackFailed die.stks 0 = false →
    die.dlq.length < 1024 → tile.hdr.flag flagProvisional = false → ∃ x, dlqOf t d = die.dlq ++ [x] ∧ x.reason = reason ∧ x.tile = tile
  (∀ (s : State) (slot si ci : Nat) (hop : HopInfo) (v : StreamAt) (f : Flight) (c : ConsumerRec) (e : ConsEnd),
    streamAt s slot si = some v → oldestFor v.x ci = some f → v.r.cons[ci]? = some c → v.x.ends[ci]? = some e →
    hopOpen s hop = true → mayCross v.r c hop.link = true →
    (∀ st, v.b.stations[c.station]? = some st → c.station < 0xFFFE → st.cell.isSome = true →
      (hasRoom c e = true → e.broken = false → (st.relocating = false ∨ st.run = .running) →
        after (.tileHop slot si ci true hop) s slot si (fun _ b y => y.flight = takeFlight ci v.x.flight ∧ b.stations = v.b.stations ∧
          ∃ e', y.ends[ci]? = some e' ∧ e'.queue = e.queue ++ [⟨hopTile hop f.tile, none⟩])) ∧
      (hasRoom c e = false → after (.tileHop slot si ci true hop) s slot si (fun _ b y => y = v.x ∧ b = v.b))) ∧
    (c.station = 0xFFFF → v.r.kind = 4 → 0 < v.x.receives → s.active.isSome = true →
      after (.tileHop slot si ci true hop) s slot si (fun t _ y => t.out = s.out ++ [.toHost (BitVec.ofNat 32 v.r.id) (hopTile hop f.tile)] ∧
        y.receives = v.x.receives - 1 ∧ y.flight = takeFlight ci v.x.flight)) ∧
    (c.station = 0xFFFF → v.r.kind ≠ 4 → v.r.kind ≠ 5 → postcodeValid s = true → v.r.remote ≠ postcode s →
      after (.tileHop slot si ci true hop) s slot si (fun t _ y => y.flight = takeFlight ci v.x.flight ∧
        (route s v.r.remote v.r.vc none none = none → ∀ st, v.b.stations[v.r.producer]? = some st →
          dead s t (dieOf (cellNo st)) 0x0207 (hopTile hop f.tile)))) ∧
    (hop.fails < 4 → after (.tileHop slot si ci false hop) s slot si (fun _ b y => y = v.x ∧ b = v.b))) ∧
  (∀ (s : State) (link vc : Nat) (l : Link) (a : Arrival), linkOf s link = some l → l.inbox.find? (fun a => a.vc == vc) = some a →
    let popped (t : State) : Prop := ∃ l', linkOf t link = some l' ∧ l'.inbox = l.inbox.erase a
    (a.dest ≠ postcode s → postcodeValid s = true → ∃ t, exec (.remoteTileArrival link vc) s = .next t ∧ popped t) ∧
    (a.dest = postcode s → streamById s a.tile.hdr.streamId.toNat (fun _ => true) = none → ∃ t, exec (.remoteTileArrival link vc) s = .next t ∧
      popped t ∧ ∀ names, s.remembered[link / 128]? = some names →
        ((∀ r ∈ names, r.id ≠ a.tile.hdr.streamId.toNat) → dead s t (2 * (link / 128)) 0x0208 a.tile) ∧
        ((∃ r ∈ names, r.id = a.tile.hdr.streamId.toNat) → dead s t (2 * (link / 128)) 0x0206 a.tile)) ∧
    (∀ (v : StreamAt) (e : ConsEnd), a.dest = postcode s → streamById s a.tile.hdr.streamId.toNat (fun _ => true) = some v →
      fromRemote v.r = true → v.r.kind ≠ 3 → v.r.kind ≠ 5 → v.b.st ≠ .evicted → v.x.ends[0]? = some e → e.broken = false →
      let got (P : Stream → Prop) : Prop := after (.remoteTileArrival link vc) s v.slot v.si (fun t _ y => P y ∧ popped t)
      let room : Prop := reorderUsed s (reorderDie v.b v.r) < 256
      let seq := a.tile.hdr.seq
      (∀ out m rest, seq = e.nextSeq → drainReorder e.reorder.length (seq + 1) e.reorder = (out, m, rest) →
        got (fun y => y.flight = v.x.flight ++ (a.tile :: out).map (fun t => ⟨t, List.range v.x.ends.length⟩) ∧
          ∃ e', y.ends[0]? = some e' ∧ e'.nextSeq = m ∧ e'.reorder = rest)) ∧
      (seq ≠ e.nextSeq → laterThan seq e.nextSeq = true → (∀ u ∈ e.reorder, u.hdr.seq ≠ seq) →
        (room → got (fun y => y.flight = v.x.flight ∧ ∃ e', y.ends[0]? = some e' ∧ e'.nextSeq = e.nextSeq ∧ e'.reorder = e.reorder ++ [a.tile])) ∧
        (¬ room → exec (.remoteTileArrival link vc) s = .next s)) ∧
      (seq ≠ e.nextSeq → (laterThan seq e.nextSeq = false ∨ ∃ u ∈ e.reorder, u.hdr.seq = seq) → got (fun y => y.flight = v.x.flight ∧
        ∃ e', y.ends[0]? = some e' ∧ e'.nextSeq = e.nextSeq ∧ e'.reorder = e.reorder ∧ e'.discarded = (e.discarded + 1) % 2 ^ 32)))) ∧
  (∀ (s : State) (slot si : Nat) (v : StreamAt) (e : ConsEnd), streamAt s slot si = some v → v.x.ends[0]? = some e → e.reorder ≠ [] →
    e.broken = false → v.b.st = .running → after (.streamGapTimeout slot si) s slot si (fun _ b y => b.st = .held ∧
      ∃ e', y.ends[0]? = some e' ∧ e'.broken = true ∧ e'.reorder = [])) ∧
  (∀ (s : State) (h : Hub) (tile : Tile) (v : StreamAt), s.active = some h →
    streamById s tile.hdr.streamId.toNat (fun r => r.kind == 4 && r.producer == 0xFFFF) = some v → v.x.qp.isSome = true →
    (v.b.st = .evicting ∨ v.b.st = .evicted ∨ maxInflight v.r ≤ v.x.flight.length →
      exec (.hostTileAdmit tile) s = .next (emit s (.rnr tile.hdr.streamId))) ∧
    (v.b.st ≠ .evicting → v.b.st ≠ .evicted → v.x.flight.length < maxInflight v.r →
      (headerFault v.r.format tile.hdr = none →
        ∃ sent : Tile, after (.hostTileAdmit tile) s v.slot v.si (fun t _ y => y.nextSeq = v.x.nextSeq + 1 ∧
          y.flight = v.x.flight ++ [⟨sent, List.range v.x.ends.length⟩] ∧
          t.out = s.out ++ [.sendAck tile.hdr.streamId]) ∧
        (tile.payload.length = 4096 → sent.payload.take (tileContent tile) = tile.payload.take (tileContent tile) ∧
          ∀ x ∈ sent.payload.drop (tileContent tile), x = 0#8) ∧
        sent.scale = tile.scale ∧ sent.chk = [] ∧ sent.hdr.seq = v.x.nextSeq ∧ sent.hdr.frame = tile.hdr.frame ∧ sent.hdr.index = tile.hdr.index ∧
        sent.hdr.origin = BitVec.ofNat 32 (postcode s + 0xFFF * 65536) ∧ sent.hdr.postmark.toNat = now s % 2 ^ 32 ∧
        sent.hdr.flag flagProvisional = false ∧ sent.hdr.flag flagResend = false ∧ sent.hdr.flag flagPoison = false) ∧
      (∀ c, headerFault v.r.format tile.hdr = some c → ∃ u, exec (.hostTileAdmit tile) s =
        .next (report u c (srcHub h) (handleOf v.slot v.b) (d4 v.r.id ++ d4 v.x.nextSeq.toNat ++ tile.hdr.bytes)) ∧ u.pl = s.pl))) ∧
  (∀ (s : State) (h : Hub) (id : Word) (n : Nat) (v : StreamAt), s.active = some h →
    streamById s id.toNat (fun r => r.kind == 4 && r.producer != 0xFFFF) = some v → v.x.qp.isSome = true →
    after (.hostReceivePosted id n) s v.slot v.si (fun _ _ y => y = { v.x with receives := v.x.receives + n }))

/-- RDMA_WRITE_STAGE writes the bytes of a staging buffer and no other byte of it, and none without its RKEY; ROCE_CNP_RECEIVED lowers
the send rate (by how much the spec leaves open, log entry 26). -/
def Obligations.HostWritesAndRate : Prop :=
  (∀ (s : State) (k stage off : Nat) (data : List Byte) (g : Stage), s.active.isSome = true → s.stages[k]? = some g → g.id = stage →
    off + data.length ≤ g.len →
    (∃ t g', exec (.rdmaWriteStage stage true off data) s = .next t ∧ t.stages[k]? = some g' ∧ g'.len = g.len ∧
      ∀ i, i < g.len → g'.data[i]? = (if off ≤ i ∧ i < off + data.length then data[i - off]? else g.data[i]?)) ∧
    exec (.rdmaWriteStage stage false off data) s = .next s) ∧
  (∀ s : State, 0 < s.roceRate → ∃ n, n < s.roceRate ∧ exec .roceCnpReceived s = .next { s with roceRate := n, free := s.free + 1 })

/-! ### Cells and stacks -/

/-- CELL_HARD_FAILURE retires the cell for good and faults the bundle whose station it held; RELOCATE_PENDING_TIMEOUT reports once a station
that has not stopped; SCRATCH_PATROL corrects the words of its cell and counts them,
and retires the cell softly where AUTO_RETIRE is 1 and the corrections of an hour pass the threshold; STACK_PATROL corrects its stack, and sets SCRUB_PASS;
ROW_REPAIR_DONE remaps the row and reports it; STACK_WIPE_TIMEOUT fails the stack, loses its dead letters and faults every bundle placed on
it. -/
def Obligations.CellsAndStacksAreKept : Prop :=
  (∀ (s : State) (cell : Nat), goodCell s cell = true → SMap.find s.pl.retired cell ≠ some .hard →
    (stationOn s cell = none → ∃ t, exec (.cellHardFailure cell) s = .next t ∧ SMap.find t.pl.retired cell = some .hard ∧ t.pl.slots = s.pl.slots ∧
      fld t F.bndEventRetired = 1) ∧
    (∀ x : Where, OnCell s cell x → x.b.st ≠ .loading → x.b.st ≠ .faulted → ∃ t b st, exec (.cellHardFailure cell) s = .next t ∧
      SMap.find t.pl.retired cell = some .hard ∧ slotBundle t x.slot = some b ∧ b.st = .faulted ∧
      stationAt t x.slot x.idx = some st ∧ st.run = .faulted ∧ fld t F.bndEventFaulted = 1 ∧ fld t F.bndEventRetired = 1)) ∧
  (∀ (s : State) (cell : Nat) (x : Where), OnCell s cell x → x.st.relocating = true → movable x.st = false →
    (x.st.relocReported = true → exec (.relocatePendingTimeout cell) s = .next s) ∧
    (x.st.relocReported = false → ∃ u, exec (.relocatePendingTimeout cell) s = .next (report u 0x0128 (srcCell cell) x.handle []) ∧
      stationAt u x.slot x.idx = some { x.st with relocReported := true })) ∧
  (∀ (s : State) (cell : Nat) (hits : List Upset) (qh ph : List (Nat × Upset)) (ch : List Upset), goodCell s cell = true → s.phase = .running →
    let sums (t : State) (ce ue : Nat) : Prop :=
      fldAt t F.memScrCeCount (dieOf cell) 0 0 = satInc F.memScrCeCount.width (fldAt s F.memScrCeCount (dieOf cell) 0 0) ce ∧
      fldAt t F.memScrUeCount (dieOf cell) 0 0 = satInc F.memScrUeCount.width (fldAt s F.memScrUeCount (dieOf cell) 0 0) ue
    (stationOn s cell = none → ∃ t, exec (.scratchPatrol cell hits ⟨qh, ph, ch⟩) s = .next t ∧
      let r := (hits.foldl Mem.upset Mem.wiped).scrub 0 4194304
      sums t r.ce r.ue) ∧
    (∀ x : Where, OnCell s cell x → queuedOf x.b x.idx = [] → retiredCell s cell = false →
      let r := (hits.foldl Mem.upset x.st.scratch).scrub 0 (scratchWords x.sr)
      let p := patrolRest { x.st with scratch := r.mem } ph ch
      let hour := (((SMap.getD s.pl.ceWindow cell []).filter (fun e => decide (s.tb.sec < e.1 + 3600)) ++ [(s.tb.sec, r.ce + p.2.1)]).map (·.2)).foldl (· + ·) 0
      let overs : Prop := r.ce + p.2.1 ≠ 0 ∧ fld s F.bndRetireThreshThresh < hour
      (fld s F.bndCtlAutoRetire = 0 ∨ ¬ overs → ∃ t, exec (.scratchPatrol cell hits ⟨qh, ph, ch⟩) s = .next t ∧ stationAt t x.slot x.idx = some p.1 ∧
        p.1.scratch = r.mem ∧ SMap.find t.pl.retired cell = none ∧ sums t (r.ce + p.2.1) (r.ue + p.2.2)) ∧
      (fld s F.bndCtlAutoRetire = 1 → overs → ∃ t, exec (.scratchPatrol cell hits ⟨qh, ph, ch⟩) s = .next t ∧ SMap.find t.pl.retired cell = some .soft))) ∧
  (∀ (s : State) (n : Nat) (hits : List Upset) (acts : List (Nat × Nat)) (k : Stack), stackOf s n = some k → k.failed = false → k.wiping = false →
    s.phase = .running → k.repairing = [] → (∀ e ∈ s.pl.slots, ∀ p ∈ e.2.spills, p.stack ≠ n) →
    (n % 2 = 1 ∨ (dlqOf s (n / 2) = [] ∧ ∀ e ∈ s.pl.slots, ∀ y ∈ e.2.streams, ∀ c ∈ y.ends, c.reorder = [])) →
    let r := (hits.foldl Mem.upset k.mem).correct 0 (2 ^ 36)
    ∃ t k', exec (.stackPatrol n ⟨hits, acts⟩) s = .next t ∧ stackOf t n = some k' ∧
      k'.mem = r.bad.foldl (fun m e => m.poisonWord e.1) r.mem ∧ fldAt t F.memStkStatScrubPass (n / 2) (n % 2) 0 = 1) ∧
  (∀ (s : State) (n bank row : Nat) (k : Stack), stackOf s n = some k → k.failed = false → s.phase = .running →
    (bank * 65536 + row ∈ k.repairing ∨ (k.wiping = true ∧ 0 < sparesLeft k bank ∧ bank < 1024 ∧ row < 65536)) →
    ∃ u k', exec (.rowRepairDone n bank row) s = .next (spareReports (report u 0x0305 (srcDie (n / 2)) 0xFFFF []) n bank) ∧
      stackOf u n = some k' ∧ bank * 65536 + row ∉ k'.repairing ∧
      SMap.getD k'.repaired bank [] = SMap.getD k.repaired bank [] ++ [row] ∧ fldAt u F.memStkStatRepaired (n / 2) (n % 2) 0 = 1) ∧
  (∀ (s : State) (n : Nat) (k : Stack), stackOf s n = some k → k.wiping = true → s.phase = .running →
    ∃ t k', exec (.stackWipeTimeout n) s = .next t ∧ stackOf t n = some k' ∧ k'.failed = true ∧ k'.wiping = false ∧
      (n % 2 = 0 → dlqOf t (n / 2) = []) ∧
      ∀ slot b, slotBundle s slot = some b → b.placed = true → onStack b n = true → ∃ b', slotBundle t slot = some b' ∧ b'.st = .faulted)

/-! ### Frames, power, temperature -/

/-- FRAME_START_TIMER records a frame of a running bundle, the newest 16 kept; FRAME_DEADLINE_EXPIRY marks its frame late and counts it;
FRAME_LATE_SUMMARY reports the late frames not reported singly. POWER_CAP_TICK counts the energy; with a hub active settings only fall above
the cap and only rise within it, and none moves under the brake. BRAKE_OVERCURRENT and BRAKE_OVERPOWER engage the brake and report it once,
BRAKE_RELEASE ends one cause. PWR_CAP_WRITE takes its value brought into range, and is refused below the shares of the loaded bundles;
PWR_ENERGY_LO_READ latches the high word. -/
def Obligations.FramesAndPower : Prop :=
  (∀ (s : State) (slot : Nat) (b : Bundle), slotBundle s slot = some b → s.phase = .running →
    (b.img.limits.framePeriod ≠ 0 → b.img.limits.frameStart = 0 → b.everStarted = true → b.st = .running → s.active.isSome = true →
      let l := b.frames ++ [⟨b.frameK % 2 ^ 32, b.frameS0 + b.frameK * (1000 * b.img.limits.framePeriod), false⟩]
      ∃ t, exec (.frameStartTimer slot) s = .next t ∧ slotBundle t slot = some { b with frameK := b.frameK + 1, frames := l.drop (l.length - 16) }) ∧
    (b.img.limits.framePeriod ≠ 0 → b.img.limits.frameStart = 0 → b.everStarted = true → b.st ≠ .running →
      ∃ t, exec (.frameStartTimer slot) s = .next t ∧ slotBundle t slot = some { b with frameK := b.frameK + 1 }) ∧
    (∀ number f, slot < 64 → b.frames.find? (fun f => f.number == number && !f.late) = some f →
      ∃ t c, exec (.frameDeadlineExpiry slot number) s = .next t ∧ slotBundle t slot = some c ∧
        c.frames = b.frames.map (fun g => if g = f then { g with late := true } else g) ∧
        fldAt t F.paceFrmLateCount 0 slot 0 = (fldAt s F.paceFrmLateCount 0 slot 0 + 1) % 2 ^ F.paceFrmLateCount.width ∧
        fld t F.pwrEventLate = 1)) ∧
  (∀ s : State, (s.pace.lateHeld = 0 → exec .frameLateSummary s = .next s) ∧
    (s.pace.lateHeld ≠ 0 → ∃ r, exec .frameLateSummary s = .next (fileReport { s with pace := { s.pace with lateHeld := 0 } } r) ∧
      r.code = 0x08A0 ∧ r.summary = true ∧ r.detail = leBytes 4 s.pace.lateHeld)) ∧
  (∀ (s : State) (volt curr power : Nat) (doms busy : List (Nat × Nat × Nat)), s.phase = .running → (∀ e ∈ doms, e.1 < 80) →
    ∃ t, exec (.powerCapTick volt curr power doms busy) s = .next t ∧ t.pace.energy = s.pace.energy + power ∧
      (s.active = none → t.pace.setting = s.pace.setting) ∧
      (s.active.isSome = true → fld s F.pwrCapCapW < power → ∀ n, settingOf t n ≤ settingOf s n) ∧
      (s.active.isSome = true → power ≤ fld s F.pwrCapCapW → ∀ n, settingOf s n ≤ settingOf t n) ∧
      ∀ n, braked s n = true → settingOf t n = settingOf s n) ∧
  (∀ s : State, s.phase = .running →
    (s.pace.brakeCur = false → ∃ u, exec .brakeOvercurrent s = .next (report u 0x08A2 (srcActive s) 0xFFFF (leBytes 4 1)) ∧
      u.pace = { s.pace with brakeCur := true } ∧ fld u F.pwrEventBrake = 1) ∧
    (s.pace.brakeCur = true → exec .brakeOvercurrent s = .next s) ∧
    (s.pace.brakePow = false → ∃ u, exec .brakeOverpower s = .next (report u 0x08A2 (srcActive s) 0xFFFF (leBytes 4 2)) ∧
      u.pace = { s.pace with brakePow := true } ∧ fld u F.pwrEventBrake = 1) ∧
    (s.pace.brakePow = true → exec .brakeOverpower s = .next s)) ∧
  (∀ (s : State) (d : Nat),
    (∃ t, exec (.brakeRelease 1 d) s = .next t ∧ t.pace.brakeCur = false ∧ t.pace.brakePow = s.pace.brakePow ∧ t.pace.brakeDies = s.pace.brakeDies) ∧
    (∃ t, exec (.brakeRelease 2 d) s = .next t ∧ t.pace.brakePow = false ∧ t.pace.brakeCur = s.pace.brakeCur ∧ t.pace.brakeDies = s.pace.brakeDies) ∧
    (dieCool s d = true → ∃ t, exec (.brakeRelease 3 d) s = .next t ∧ ∀ k, k ∈ t.pace.brakeDies ↔ k ∈ s.pace.brakeDies ∧ k ≠ d) ∧
    (dieCool s d = false → exec (.brakeRelease 3 d) s = .next s)) ∧
  (∀ (s : State) (o : Origin) (v : Word), Served s o true →
    let c := clampNat 200 (if s.ident.fm2 then 1300 else 4500) (wfld v F.pwrCapCapW)
    let shares := ((s.pl.slots.filter (fun e => e.2.fits)).map (fun e => e.2.img.limits.powerShare)).foldl (· + ·) 0
    (shares ≤ c → ∃ u, RegAnswered (.pwrCapWrite o v) s o C.ok 0 u ∧ fld u F.pwrCapCapW = c ∧ u.pace = s.pace ∧ u.pl = s.pl) ∧
    (c < shares → RegAnswered (.pwrCapWrite o v) s o C.pwrCapRange 0 s)) ∧
  (∀ (s : State) (o : Origin), Served s o false → RegAnswered (.pwrEnergyLoRead o) s o C.ok (BitVec.ofNat 32 (s.pace.energy / 10))
    { s with pace := { s.pace with energyHi := BitVec.ofNat 32 (s.pace.energy / 10 / 2 ^ 32) } })

/-- TEMPERATURE_SAMPLE keeps the reading, marks a domain at or above HIGH_C, brakes a die from 100 °C and shuts what holds the domain from
110 °C, the whole module where nothing else does; AGEING_MEASURE keeps the shift and the point measured of the curve; EOL_PREDICTION keeps the
last 30 daily means of a component, and the prediction of its kind is no later than its own. -/
def Obligations.TemperatureAndAgeing : Prop :=
  (∀ (s : State) (n temp mean : Nat), s.phase = .running → domainExists s.ident n = true → n < 80 → temp < 4096 →
    ∃ t, exec (.temperatureSample [(n, temp, mean)]) s = .next t ∧
      (signedOf 12 temp < 440 → fldAt t F.domTempTemp 0 n 0 = temp ∧
        (n ∈ t.pace.high ↔ 4 * (fld s F.thermCtlHighC : Int) ≤ signedOf 12 temp) ∧ t.pace.shut = s.pace.shut) ∧
      (governed n = true → 400 ≤ signedOf 12 temp → n / 8 ∈ t.pace.brakeDies) ∧
      (440 ≤ signedOf 12 temp → (∀ p, partOf n = some p → p ∈ t.pace.shut) ∧ (partOf n = none → t.elec.latched = true))) ∧
  (∀ (s : State) (n measured recorded mv rate : Nat), s.phase = .running → governed n = true → domainExists s.ident n = true → recorded ≠ 0 →
    550 ≤ mv → mv ≤ 900 →
    ∃ (t : State) (c : SMap Nat), exec (.ageingMeasure n measured recorded [(mv, rate)]) s = .next t ∧
      fldAt t F.domAgeShift 0 n 0 = min 65535 (measured * 10000 / recorded - 10000) ∧ SMap.find t.pace.curve n = some c ∧
      (∀ v, SMap.find c v = if v = mv then some rate else SMap.find (SMap.getD s.pace.curve n []) v) ∧
      ∀ m, m ≠ n → SMap.find t.pace.curve m = SMap.find s.pace.curve m) ∧
  (∀ (s : State) (kind index mean : Nat), s.phase = .running → kind < 5 → index < 65536 →
    (∀ e ∈ addMean s.pace.means (kind, index, mean), e.1 / 65536 = 0 → e.1 % 8 < 4 → 30 < eolDays e.2 (eolOf s 0)) →
    let l := SMap.getD s.pace.means (kind * 65536 + index) [] ++ [mean]
    let l30 := l.drop (l.length - 30)
    ∃ t, exec (.eolPrediction [(kind, index, mean)]) s = .next t ∧ SMap.find t.pace.means (kind * 65536 + index) = some l30 ∧
      fldAt t F.ageKindDays 0 kind 0 ≤ eolDays l30 (eolOf s kind))

/-! ### Optical engines -/

/-- A lane of a data channel that λS does not cover. LANE_LOSS_OF_LIGHT, LANE_ERROR_RATIO and LANE_FAR_END_FAIL: it fails, covered by an idle
λS lane that reaches its far end, or dropped where λS is dark. MARGIN_TEST_COMPLETE puts it into service or holds it; LANE_RETRY and
LIGHT_RETURN_RETRY train it again or count; LANE_TRAINING_COMPLETE takes it to its margin test, or dark where its neighbour is not planned, and
LANE_TRAINING_TIMEOUT drops it. CAL_COVER_SWITCH_POINT puts it on λS, in CAL while an item runs. SPARE_MARGIN_TEST keeps an idle λS or holds
it. -/
def Obligations.LanesFailAndReturn : Prop :=
  ∀ (s : State) (e p c : Nat), e < s.optics.length → e < 4 → p < 8 → c < 8 → covered s e p = none →
    let lane := laneOf s e p c
    let after (i : Instr) (P : State → Lane → Prop) : Prop := ∃ t, exec i s = .next t ∧ P t (laneOf t e p c)
    let spare (t : State) : Lane := laneOf t e p 8
    let fails (i : Instr) (cause : Nat) : Prop := canFail lane.st = true →
      ((spare s).st = .spareIdle → spareReaches s e p c = true →
        after i (fun t l => l.st = .spared ∧ l.cause = cause ∧ (spare t).st = .covering ∧ (spare t).cover = some c)) ∧
      ((spare s).st = .dark → after i (fun _ l => l.st = .dropped ∧ l.cause = cause))
    let tests (full : Nat) (i : Instr) (pass : Bool) : Prop := lane.st = .margin →
      (pass = true → after i (fun _ l => l.st = .active ∧ l.full = true ∧
        l.margin = (if lane.full then fldAt s F.optCtlTestMargin e 0 0 else full))) ∧
      (pass = false → after i (fun _ l => l.st = .held ∧ l.margin = 0 ∧ l.cause = 6))
    let retries (i : Bool → Instr) : Prop := canRetry s e p c = true →
      after (i true) (fun _ l => l.st = .training ∧ l.trying = true) ∧
      after (i false) (fun _ l => l = { lane with retries := min 15 (lane.retries + 1) })
    fails (.laneLossOfLight e [(p, c)]) 1 ∧ fails (.laneErrorRatio e p c) 2 ∧ fails (.laneFarEndFail e p c) 7 ∧
    (∀ near far full, tests full (.marginTestComplete e p c near far full) (decide (near ≤ 4026 ∧ far ≤ 4026))) ∧
    retries (fun k => .laneRetry e p c k) ∧ (lane.cause = 1 → retries (fun k => .lightReturnRetry e p c k)) ∧
    (lane.cause ≠ 1 → ∀ k, exec (.lightReturnRetry e p c k) s = .next s) ∧
    (lane.st = .training → (spare s).st = .dark → (∀ i, identOf s (8 * e + p) c = some i → identMatch s (8 * e + p) c i ≠ 3) →
      after (.laneTrainingTimeout e p c) (fun _ l => l.st = .dropped ∧ l.cause = 8)) ∧
    (∀ i, lane.st = .training → identOf s (8 * e + p) c = some i →
      (identMatch s (8 * e + p) c i ≠ 3 → after (.laneTrainingComplete e p c) (fun t l => l.st = .margin ∧
        identOf t (8 * e + p) c = some { i with matched := identMatch s (8 * e + p) c i })) ∧
      (identMatch s (8 * e + p) c i = 3 → after (.laneTrainingComplete e p c) (fun _ l => l.st = .dark))) ∧
    (∀ mismatch, lane.planned = false → exec (.calCoverSwitchPoint e p ⟨c, mismatch⟩) s = .next s) ∧
    (∀ mismatch, lane.planned = true → s.active = none →
      after (.calCoverSwitchPoint e p ⟨c, mismatch⟩) (fun _ l => l = { lane with planned := false })) ∧
    (∀ mismatch, lane.planned = true → lane.st = .active → (spare s).st = .spareIdle → spareReaches s e p c = true → s.active.isSome = true →
      after (.calCoverSwitchPoint e p ⟨c, mismatch⟩) (fun t l => l.planned = false ∧ (spare t).st = .covering ∧ (spare t).cover = some c ∧
        (l.st = .cal ∨ l.st = .margin) ∧ ((∃ k ∈ laneItems e p c, (calItem s k.1 k.2).due = true ∧ mayRun s k.1 k.2 = true) → mismatch = false →
          l.st = .cal))) ∧
    (∀ near far, (spare s).st = .spareIdle →
      (near ≤ 4026 → far ≤ 4026 → exec (.spareMarginTest e p near far) s =
        .next (modLane s e p 8 (fun x => { x with margin := fldAt s F.optCtlTestMargin e 0 0 }))) ∧
      (4026 < near ∨ 4026 < far → ∃ t, exec (.spareMarginTest e p near far) s = .next t ∧ (spare t).st = .held ∧ (spare t).margin = 0))

/-- ELEMENT_LOOP_SAMPLE: an element is locked while its last ten samples lie in tolerance. ELEMENT_TRIP marks it and takes its heater's power
away, counted. IDENTITY_CHECK of a ring: the outcome is its identity, and a wrong one sends it back to steering. LASER_HANDOVER_TRIGGER warms
the channel's other laser, LASER_SPARE_LOCKED finds it locked, HANDOVER_WINDOW_OPEN puts it in use and retires the old one; LASER_FAIL does so at
once, or warms it. OPT_STEER_GO commits the staged settings of an engine, or keeps them until LIGHT_READY rises; STEER_DONE ends the commit. -/
def Obligations.ElementsLasersAndSteering : Prop :=
  ∀ (s : State) (e : Nat), e < s.optics.length → e < 4 → e < s.ident.engines → s.phase = .running →
    let after (i : Instr) (P : State → Optic → Prop) : Prop := ∃ t, exec i s = .next t ∧ P t (opticOf t e)
    let o := opticOf s e
    (∀ i err heat within, i < 200 → (o.elem i).st = .steering ∨ (o.elem i).st = .locked → elemOpen s e i = false →
      let good := if within then min 10 ((o.elem i).good + 1) else 0
      after (.elementLoopSample e [(i, err, heat, within)] []) (fun _ u => u.elem i =
        { o.elem i with error := err % 4096, heater := heat, good := good, st := if 10 ≤ good then .locked else .steering })) ∧
    (∀ i noMatch, i < 200 → elemOpen s e i = false → s.dies.length ≤ 8 → after (.elementTrip e i noMatch) (fun t u => (u.elem i).st = .tripped ∧ (u.elem i).heater = 0 ∧
      fldAt t F.optElemTripsCount e 0 0 = satInc F.optElemTripsCount.width (fldAt s F.optElemTripsCount e 0 0) 1)) ∧
    (∀ i levels ref within, i < 144 → (o.elem i).st = .locked → elemOpen s e i = false →
      let ok := pilotOk (o.dropped (i % 72 / 9) (i % 72 % 9)) (i % 72 % 9) levels ref
      after (.identityCheck e i levels ref within) (fun _ u => (u.elem i).identOk = ok ∧ (u.elem i).pilot = strongest levels ∧
        (u.elem i).st = (if ok then .locked else .steering))) ∧
    (∀ n, n < 18 → (o.laser n).st = .inUse → SMap.find o.handover (n / 2) = none →
      ((o.laser (mate n)).st ≠ .retired → spareReady o (mate n) = false → after (.laserHandoverTrigger e n) (fun _ u =>
        (u.laser (mate n)).st = .warming ∧ u.laser n = o.laser n ∧ SMap.find u.handover (n / 2) = some .warming)) ∧
      (spareReady o (mate n) = true → after (.laserHandoverTrigger e n) (fun _ u => u.lasers = o.lasers ∧
        (SMap.find u.handover (n / 2) = some .locked ∨ SMap.find u.handover (n / 2) = some .announced))) ∧
      ((o.laser (mate n)).st = .retired → after (.laserHandoverTrigger e n) (fun _ u => u = o))) ∧
    (∀ c m, c < 9 → m = 2 * c ∨ m = 2 * c + 1 → SMap.find o.handover c = some .warming → (o.laser m).st = .warming → (o.laser (mate m)).st ≠ .warming →
      after (.laserSpareLocked e c) (fun _ u => (u.laser m).st = .lockedDark ∧
        (s.active = none → SMap.find u.handover c = some .locked) ∧ (s.active.isSome = true → o.busy = false → SMap.find u.handover c = some .announced))) ∧
    (∀ c m, c < 9 → m = 2 * c ∨ m = 2 * c + 1 → SMap.find o.handover c = some .announced → spareReady o m = true → (o.laser (mate m)).st = .inUse →
      after (.handoverWindowOpen e c) (fun _ u => (u.laser m).st = .inUse ∧ (u.laser (mate m)).st = .retired ∧ (u.laser (mate m)).failed = false ∧
        SMap.find u.handover c = none)) ∧
    (∀ n, n < 18 → (o.laser n).st = .inUse →
      (spareReady o (mate n) = true → after (.laserFail e n) (fun _ u => (u.laser n).st = .retired ∧ (u.laser n).failed = true ∧
        (u.laser (mate n)).st = .inUse ∧ SMap.find u.handover (n / 2) = none)) ∧
      (spareReady o (mate n) = false → (o.laser (mate n)).st ≠ .retired → (o.laser (mate n)).st ≠ .warming → after (.laserFail e n) (fun _ u => (u.laser n).st = .retired ∧ (u.laser n).failed = true ∧
        (u.laser (mate n)).st = .warming))) ∧
    (∀ (org : Origin) (v : Word), Served s org true →
      (wfld v F.optSteerGo = 0 → RegAnswered (.optSteerGo org e v) s org C.ok 0 s) ∧
      (wfld v F.optSteerGo ≠ 0 → o.busy = true → RegAnswered (.optSteerGo org e v) s org C.optSteerBusy 0 s) ∧
      (wfld v F.optSteerGo ≠ 0 → o.busy = false → stagedOk s e = false → RegAnswered (.optSteerGo org e v) s org C.optSteerInvalid 0 s) ∧
      (wfld v F.optSteerGo ≠ 0 → o.busy = false → stagedOk s e = true → ∃ u, RegAnswered (.optSteerGo org e v) s org C.ok 0 u ∧
        (opticOf u e).busy = true ∧ (lightReady s e = true → (opticOf u e).pairs = stagedPairs s e) ∧
        (lightReady s e = false → (opticOf u e).pairs = o.pairs ∧ (opticOf u e).waits = some (stagedPairs s e, [])))) ∧
    (o.busy = true → after (.steerDone e) (fun t u => u.busy = false ∧ u.changed = [] ∧
      (s.dies.length ≤ 8 → fldAt t F.optEventSteerDone e 0 0 = 1))) ∧
    (o.busy = false → s.fab.recable = .idle → exec (.steerDone e) s = .next s)

/-! ### The fabric -/

/-- FLIT_RECEIVE takes the next flit in order, keeps the words of a tile until its last flit, discards a flit that is wrong or out of order
and asks once for a repeat with RETRY, and forgets what is acknowledged. LINK_RETRY_FLIT sends again in order what it names,
LINK_LANESET_FLIT puts the link on the lanes it lists or, with none, DOWN, LINK_QUIESCE_FLIT quiesces it, and LINK_IDENT_FLIT records the
identity, compared at once on a lane in service, in calibration or in its margin test. LINK_LOST_TIMER turns a DOWN link LOST.
TOF_MEASUREMENT by echo, TOF_LAMBDA_WAIT_TIMEOUT, LINK_ECHO_FLIT and TOF_LOOP_REQUEST measure the time of flight. -/
def Obligations.LinksCarryFlits : Prop :=
  ∀ (s : State) (key : Nat) (l : Link), linkOf s key = some l →
    let after (i : Instr) (P : State → Link → Prop) : Prop := ∃ t l', exec i s = .next t ∧ linkOf t key = some l' ∧ P t l'
    let empty : Prop := ∀ q ∈ l.txq, q = []
    let sends : Prop := l.txq[2]? = some [] ∧ 0 < (l.credits[2]?).getD 0 ∧ l.replay.length < 4096
    let asks (t : State) : Prop := ∃ lane f, Emit.flit key lane f ∈ t.out ∧ f.body = .link (.retry l.rxNext)
    (∀ corr uncorr ok f, l.st = .up → ok = false ∨ (f.body ≠ .idle ∧ f.seq ≠ l.rxNext) →
      (l.retrying = false → after (.flitReceive key corr uncorr ok f) (fun t k => k.rxNext = l.rxNext ∧ k.retrying = true ∧
        k.inbox = l.inbox ∧ (sends → asks t))) ∧
      (l.retrying = true → after (.flitReceive key corr uncorr ok f) (fun t k => k = l ∧ t.out = s.out))) ∧
    (∀ corr uncorr f, l.st = .up →
      let acked := l.replay.filter (fun g => laterThan (BitVec.ofNat 32 g.seq) (BitVec.ofNat 32 f.ack))
      (f.body = .idle → empty → after (.flitReceive key corr uncorr true f) (fun _ k => k.rxNext = l.rxNext ∧ k.inbox = l.inbox ∧
        k.replay = acked)) ∧
      (∀ ws, f.body = .tile ws → f.seq = l.rxNext →
        let all := (if f.first then [] else (l.rx[f.vc]?).getD []) ++ ws
        after (.flitReceive key corr uncorr true f) (fun _ k => k.rxNext = (l.rxNext + 1) % 2 ^ 32 ∧ k.retrying = false ∧
          (empty → k.replay = acked) ∧
          (f.last = true → k.inbox = l.inbox ++ [⟨f.vc, f.dest, tileOfWords all, ceilDiv all.length 13⟩] ∧ k.rx = l.rx.set f.vc []) ∧
          (f.last = false → k.inbox = l.inbox ∧ k.rx = l.rx.set f.vc all)))) ∧
    (∀ seq, let fs := l.replay.filter (fun f => !laterThan (BitVec.ofNat 32 seq) (BitVec.ofNat 32 f.seq))
      ∃ sent : List Emit, after (.linkRetryFlit key seq) (fun t k => k.replay = l.replay ∧ t.out = s.out ++ sent) ∧ sent.length = fs.length ∧
        ∀ (i : Nat) (f : Flit), fs[i]? = some f → ∃ lane cr, sent[i]? = some (Emit.flit key lane { f with ack := linkAck l, credit := cr })) ∧
    (∀ lanes, l.st = .up → twoNet s = false →
      (lanes ≠ [] → after (.linkLanesetFlit key lanes) (fun _ k => k.st = .up ∧ k.lanes = lanes ∧ k.chans = l.chans)) ∧
      (lanes = [] → empty → after (.linkLanesetFlit key lanes) (fun t k => k.st = .down ∧ k.lanes = [] ∧ k.downSince = now s ∧
        (l.quiesced = false → fld t F.fabEventLinkDown = 1)))) ∧
    after (.linkQuiesceFlit key) (fun t k => k = { l with quiesced := true } ∧ t.out = s.out) ∧
    (l.st = .down → l.changing = false → after (.linkLostTimer key) (fun _ k => k.st = .lost ∧ k.replay = [])) ∧
    (l.st ≠ .down ∨ l.changing = true → exec (.linkLostTimer key) s = .next s) ∧
    (∀ trip turn c, l.st = .up → l.tofDone = false → SMap.find s.fab.tofWait key = none → l.chans = [c] → c < 9 → key < 512 →
      after (.tofMeasurement key false trip turn) (fun t k => k.tofDone = true ∧ fld t F.fabEventTofDone = 1 ∧
        fldAt t F.fabTofTof 0 (key / 16) c = (trip - turn) / 2 % 2 ^ 24 ∧ fldAt t F.fabTofValid 0 (key / 16) c = 1 ∧
        fldAt t F.fabTofEcho 0 (key / 16) c = 1)) ∧
    (SMap.find s.fab.tofWait key = none → exec (.tofLambdaWaitTimeout key) s = .next s) ∧
    ((SMap.find s.fab.tofWait key).isSome = true → after (.tofLambdaWaitTimeout key) (fun t _ => SMap.find t.fab.tofWait key = none ∧
      (l.st = .up → sends → ∃ lane f m, Emit.flit key lane f ∈ t.out ∧ f.body = .link (.echo m)))) ∧
    (∀ marker turn, l.st = .up → l.txq = [[], [], [], []] → 0 < (l.credits[2]?).getD 0 → l.replay.length < 4096 →
      ∃ f, after (.linkEchoFlit key marker turn) (fun t k => t.out = s.out ++ [.flit key (flitLane l) f] ∧ k.replay = l.replay ++ [f]) ∧
        f.body = .link (.echoReply marker turn) ∧ f.seq = l.txNext) ∧
    (∀ marker turn, l.st ≠ .up → exec (.linkEchoFlit key marker turn) s = .next s) ∧
    (∀ P c kind pc port channel version txLat rxLat loopLat, P < portCount s.ident → c < 9 → (opticOf s (P / 8)).dropped (P % 8) c = true →
      let i : IdentInfo := ⟨kind, pc, port, channel, version, txLat, rxLat, loopLat, 0⟩
      let st := (laneOf s (P / 8) (P % 8) c).st
      let judged : Prop := canFail st = true ∨ st = .cal ∨ st = .margin
      ∃ t, exec (.linkIdentFlit P c kind pc port channel version txLat rxLat loopLat) s = .next t ∧
        (¬ judged → identOf t P c = some i) ∧ (judged → identOf t P c = some { i with matched := identMatch s P c i })) ∧
    (∀ e k, e < s.optics.length →
      let both (t : State) (st : LaneState) : Prop := (laneOf t e (2 * k) 8).st = st ∧ (laneOf t e (2 * k + 1) 8).st = st
      (((opticOf s e).pair k).through % 256 = 0 → (opticOf s e).inLoop k = false → both s .spareIdle →
        ∃ t, exec (.tofLoopRequest e k false) s = .next t ∧ ((opticOf t e).pair k).loop = true ∧ both t .through) ∧
      (((opticOf s e).pair k).loop = true → bitAt ((opticOf s e).pair k).through 8 = false → both s .through →
        ∃ t, exec (.tofLoopRequest e k true) s = .next t ∧ ((opticOf t e).pair k).loop = false ∧ both t .spareIdle))

/-- FAB_RB_CTL, whichever of FAB_RB_SWAP and FAB_RB_COPY carries it: SWAP makes the shadow book the active one unless a re-cable runs or an
entry is bad, COPY makes the shadow the active one's. FAB_RB_DATA_ACCESS and FAB_RB_ACTIVE_READ read and write entries and move INDEX on.
FAB_RECABLE, whichever of FAB_RECABLE_GO and FAB_RECABLE_RESUME carries it: GO refuses what R378 refuses, else quiesces the links that it changes; RESUME ends a
pause and commits. QUIESCE_IDLE and QUIESCE_TIMEOUT end the quiesce, with the pause where PAUSE is set. FAB_POSTCODE_WRITE is locked while a
bundle is loaded, FAB_EXPECT_BYPASS_WRITE refused while a re-cable runs and without effect on a port that the part lacks. -/
def Obligations.RouteBooksAndRecabling : Prop :=
  let committed (t : State) : Prop := t.fab.recable =
    (if (engineList t).any (fun e => (opticOf t e).busy) then .committing else if t.active = none then .discovering else .idle)
  (∀ (s : State) (o : Origin) (v : Word), Served s o true →
    (∀ c, c = Instr.fabRbSwap o v ∨ c = Instr.fabRbCopy o v →
      (wfld v F.fabRbCtlSwap = 1 →
        (s.fab.recable ≠ .idle → RegAnswered c s o C.fabRecableBusy 0 s) ∧
        (∀ i, s.fab.recable = .idle → badEntry s = some i → RegAnswered c s o C.fabRbInvalid 0 (setFld s F.fabRbErrIndex i)) ∧
        (s.fab.recable = .idle → badEntry s = none → ∃ u, RegAnswered c s o C.ok 0 u ∧ u.fab.active = s.fab.shadow ∧
          u.fab.shadow = s.fab.shadow ∧ fld u F.fabRbCtlGen = (fld s F.fabRbCtlGen + 1) % 2 ^ 16 ∧ fld u F.fabEventRecableDone = 1 ∧
          u.sec.retPending = true)) ∧
      (wfld v F.fabRbCtlSwap = 0 → wfld v F.fabRbCtlCopy = 1 →
        RegAnswered c s o C.ok 0 { s with fab := { s.fab with shadow := s.fab.active } }) ∧
      (wfld v F.fabRbCtlSwap = 0 → wfld v F.fabRbCtlCopy = 0 → RegAnswered c s o C.ok 0 s)) ∧
    (s.fab.recable = .idle → ∃ u, RegAnswered (.fabRbDataAccess o (some v)) s o C.ok 0 u ∧
      fld u F.fabRbAddrIndex = (fld s F.fabRbAddrIndex + 1) % 2 ^ 18 ∧ u.fab.active = s.fab.active ∧
      ∀ i, SMap.getD u.fab.shadow i 0 = (if i = fld s F.fabRbAddrIndex then v.toNat else SMap.getD s.fab.shadow i 0)) ∧
    (s.fab.recable ≠ .idle → RegAnswered (.fabRbDataAccess o (some v)) s o C.fabRecableBusy 0 s) ∧
    (∀ c, c = Instr.fabRecableGo o v ∨ c = Instr.fabRecableResume o v →
      let paused := setFld s F.fabRecablePause (wfld v F.fabRecablePause)
      (wfld v F.fabRecableGo = 1 →
        let refused (code : Nat) : Prop := ∃ u, RegAnswered c s o code 0 u ∧ u.fab = s.fab ∧ fld u F.fabRecablePause = fld s F.fabRecablePause
        let staged : Prop := ∀ e, e < s.ident.engines → stagedOk s e = true
        (s.fab.recable ≠ .idle → refused C.fabRecableBusy) ∧
        (s.fab.recable = .idle → postcodeValid s = false → refused C.fabPostcodeUnset) ∧
        (s.fab.recable = .idle → postcodeValid s = true → ¬ staged → refused C.optSteerInvalid) ∧
        (∀ i, s.fab.recable = .idle → postcodeValid s = true → staged → badEntry s = some i → refused C.fabRbInvalid) ∧
        (s.fab.recable = .idle → postcodeValid s = true → staged → badEntry s = none → ∃ u, RegAnswered c s o C.ok 0 u ∧
          u.fab.recable = .quiescing ∧ u.fab.changing = linksDiffer paused ∧ (∀ k l, k ∈ u.fab.changing → linkOf u k = some l → l.changing = true) ∧
          fld u F.fabRecablePause = wfld v F.fabRecablePause)) ∧
      (wfld v F.fabRecableGo = 0 →
        (wfld v F.fabRecableResume = 0 ∨ s.fab.recable ≠ .paused → RegAnswered c s o C.ok 0 paused) ∧
        (wfld v F.fabRecableResume = 1 → s.fab.recable = .paused → ∃ u, RegAnswered c s o C.ok 0 u ∧ committed u))) ∧
    (anyLoaded s = true → RegAnswered (.fabPostcodeWrite o v) s o C.regLocked 0 s) ∧
    (anyLoaded s = false → ∃ u, RegAnswered (.fabPostcodeWrite o v) s o C.ok 0 u ∧ postcode u = wfld v F.fabPostcodePostcode ∧
      fld u F.fabPostcodeValid = wfld v F.fabPostcodeValid) ∧
    (∀ bypass P c,
      (32 ≤ P ∨ 9 ≤ c → RegAnswered (.fabExpectBypassWrite o bypass P c v) s o C.regUnmapped 0 s) ∧
      (P < 32 → c < 9 → s.fab.recable ≠ .idle → RegAnswered (.fabExpectBypassWrite o bypass P c v) s o C.fabRecableBusy 0 s) ∧
      (P < 32 → c < 9 → s.fab.recable = .idle → portCount s.ident ≤ P → RegAnswered (.fabExpectBypassWrite o bypass P c v) s o C.ok 0 s)) ∧
    (∀ P c, P < portCount s.ident → P < 32 → c < 9 → s.fab.recable = .idle →
      (∃ u, RegAnswered (.fabExpectBypassWrite o false P c v) s o C.ok 0 u ∧ fldAt u F.fabExpectNbr 0 P c = wfld v F.fabExpectNbr ∧
        fldAt u F.fabExpectNbrPort 0 P c = wfld v F.fabExpectNbrPort ∧ fldAt u F.fabExpectKind 0 P c = wfld v F.fabExpectKind) ∧
      (∃ u, RegAnswered (.fabExpectBypassWrite o true P c v) s o C.ok 0 u ∧ fldAt u F.fabBypassNbr 0 P c = wfld v F.fabBypassNbr ∧
        fldAt u F.fabBypassNbrPort 0 P c = wfld v F.fabBypassNbrPort ∧ fldAt u F.fabBypassValid 0 P c = wfld v F.fabBypassValid))) ∧
  (∀ (s : State) (o : Origin), Served s o false →
    let next : State := setFld s F.fabRbAddrIndex (fld s F.fabRbAddrIndex + 1)
    RegAnswered (.fabRbDataAccess o none) s o C.ok (BitVec.ofNat 32 (SMap.getD s.fab.shadow (fld s F.fabRbAddrIndex) 0)) next ∧
    RegAnswered (.fabRbActiveRead o) s o C.ok (BitVec.ofNat 32 (SMap.getD s.fab.active (fld s F.fabRbAddrIndex) 0)) next) ∧
  (∀ s : State,
    (s.fab.recable = .quiescing →
      let ended (c : Instr) : Prop := ∃ t, exec c s = .next t ∧
        (fld s F.fabRecablePause = 1 → t.fab.recable = .paused ∧ t.optics = s.optics) ∧ (fld s F.fabRecablePause ≠ 1 → committed t)
      (busyLinks s ≠ [] → exec .quiesceIdle s = .next s) ∧
      (busyLinks s = [] → ended .quiesceIdle) ∧ ended .quiesceTimeout) ∧
    (s.fab.recable ≠ .quiescing → exec .quiesceIdle s = .next s ∧ exec .quiesceTimeout s = .next s))

/-- COLL_TRANSFER_TILE applies each transfer tile of the running instance once, reduced into staging or written there, and discards one
applied already, of this instance or one before it. COLL_STEP_ACK acknowledges the step, and with it received too the next step begins, or after the
last the results are delivered. COLL_STEP_TIMEOUT sends the step again, over another option where one is usable, and at the fourth send aborts,
as it does with no usable option; COLL_PEER_ABORT aborts: the bundle is then FAULTED and the engine stopped. -/
def Obligations.CollectivesStepTogether : Prop :=
  ∀ (s : State) (slot si : Nat) (v : CollView), collView s slot si = some v →
    let after (i : Instr) (P : State → Bundle → Stream → Prop) : Prop :=
      ∃ t b y, exec i s = .next t ∧ slotBundle t slot = some b ∧ b.streams[si]? = some y ∧ P t b y
    let c := v.x.coll
    let aborted (i : Instr) : Prop := after i (fun t b y => b.st = .faulted ∧ y.coll.started = false ∧ y.coll.active = false ∧
      fld t F.fabEventCollAbort = 1)
    (∀ key vc l a w m, linkOf s key = some l → l.inbox.find? (fun a => a.vc == vc) = some a → a.dest = postcode s →
      collStream s a.tile.hdr.streamId = some w → w.slot = slot → w.si = si → transferNow v a.tile = true → stackOf s v.stack = some m →
      let step := a.tile.hdr.seq.toNat / v.p.width
      let j := a.tile.hdr.seq.toNat % v.p.width
      let seen := (c.record a.tile.hdr.frame).contains (step, j)
      let off := v.base + 4256 * (if v.p.op = 3 then v.p.width + j else j)
      let stored (P : Mem → Prop) : Prop := ∃ t k, exec (.collTransferTile key vc) s = .next t ∧ stackOf t v.stack = some k ∧ P k.mem
      let reduces : Prop := v.p.op ≤ 1 ∧ v.p.gather step = none
      (seen = true → after (.collTransferTile key vc) (fun t b y => y = v.x ∧ b = v.b ∧ t.dies = s.dies ∧
        ∃ l', linkOf t key = some l' ∧ l'.inbox = l.inbox.erase a)) ∧
      (seen = false → c.acked = false → after (.collTransferTile key vc) (fun t _ y =>
        y.coll = { c with applied := c.applied ++ [(step, j)] } ∧ ∃ l', linkOf t key = some l' ∧ l'.inbox = l.inbox.erase a)) ∧
      (seen = false → c.acked = false → m.repairing = [] →
        (¬ reduces → stored (fun k => k.read off 4256 = a.tile.slot ∧ ∀ x, (x < off ∨ off + 4256 ≤ x) → k.byte x = m.mem.byte x)) ∧
        (∀ r, reduces → raddTile (stackTile s v.stack off).2 a.tile = some r → stored (fun k => k.read off 4256 = r.slot)))) ∧
    (∀ id w, collStream s id = some w → w.slot = slot → w.si = si →
      (c.started = true → stepReceived v.p c c.step = false → after (.collStepAck id c.step) (fun _ _ y => y.coll = { c with acked := true })) ∧
      (c.started = true → stepReceived v.p c c.step = true → c.step + 1 < v.p.steps →
        after (.collStepAck id c.step) (fun _ _ y => c.step + 1 ≤ y.coll.step)) ∧
      (c.started = true → stepReceived v.p c c.step = true → v.p.steps ≤ c.step + 1 →
        after (.collStepAck id c.step) (fun _ _ y => y.coll.active = false ∧ y.coll.started = false ∧
          y.flight.length = v.x.flight.length + v.p.results.length)) ∧
      (∀ n, n ≠ c.step ∨ c.started = false → exec (.collStepAck id n) s = .next s) ∧
      (v.b.st = .faulted → exec (.collPeerAbort id) s = .next s) ∧
      (v.b.st ≠ .faulted → aborted (.collPeerAbort id))) ∧
    (c.started = true → c.acked = false → v.p.sends c.step ≠ [] → postcodeValid s = true →
      let by_ (skip : Option Nat) : Option (Nat × Nat) := route s (v.peer (v.p.toRank c.step)) v.r.vc none skip
      (∀ o, c.sends < 4 → by_ (some c.option) = some o ∨ (by_ (some c.option) = none ∧ by_ none = some o) →
        after (.collStepTimeout slot si) (fun t _ y =>
          y.coll = { c with sends := c.sends + 1, option := o.1, link := o.2, blocked := false } ∧ fld t F.fabEventCollResend = 1)) ∧
      (v.b.st ≠ .faulted → 4 ≤ c.sends ∨ by_ none = none → aborted (.collStepTimeout slot si))) ∧
    (c.started = false ∨ c.acked = true → exec (.collStepTimeout slot si) s = .next s)

/-! ### The servo loop engines -/

/-- SRV_CLOSE closes a loop that none of R430's reasons refuses, at its initial estimate; SRV_OPEN opens it with its outputs at SAFE; SRV_REARM arms
an input; SRV_TEST_START starts a test of a closed loop and SRV_STOP ends it; each is refused on an object of another kind, and one that finds its
object so already changes nothing. SRV_PARAM_ACCESS writes a parameter unless R431 or R444 refuses it, and reads it as written. SERVO_SAMPLE applies the
law of R415 to a closed loop that no loop paces, or trips it on an input held or gone stale; SERVO_SAT_TRIP trips it; SERVO_OUT_HOLD_EXPIRY puts a pin
at SAFE. -/
def Obligations.ServoLoopsFollowTheirCommands : Prop :=
  (∀ (s : State) (o : Origin) (h : Hub), Served s o true → s.active = some h →
    let g := engOf s h
    let i := (srvSel s).index
    let answers (c : Instr) (P : Servo → Prop) : Prop := ∃ u, RegAnswered c s o C.ok 0 u ∧ P (engOf u h)
    ((srvSel s).kind ≠ 0 → RegAnswered (.srvClose o) s o C.srvParamInvalid 0 s ∧ RegAnswered (.srvOpen o) s o C.srvParamInvalid 0 s) ∧
    ((srvSel s).kind ≠ 1 ∨ 28 ≤ i → RegAnswered (.srvRearm o) s o C.srvParamInvalid 0 s) ∧
    ((srvSel s).kind ≠ 3 → RegAnswered (.srvTestStart o) s o C.srvParamInvalid 0 s ∧ RegAnswered (.srvStop o) s o C.srvParamInvalid 0 s) ∧
    ((srvSel s).kind = 0 → g.closed i = true → RegAnswered (.srvClose o) s o C.ok 0 s) ∧
    ((srvSel s).kind = 0 → g.closed i = false →
      (g.closeReason i ≠ 0 → ∃ u, RegAnswered (.srvClose o) s o C.srvCloseInvalid 0 u ∧ ((engOf u h).loop i).st = (g.loop i).st ∧
        ((engOf u h).loop i).reason = g.closeReason i) ∧
      (g.closeReason i = 0 → answers (.srvClose o) (fun k => (k.loop i).st = .closed ∧ (k.loop i).samples = 0 ∧
        (k.loop i).gen = ((g.loop i).gen + 1) % 65536 ∧
        (k.loop i).x = (formBlk ((List.range (g.nStates i)).map (fun j => Dy.ofF32 (g.param 0 i 0x1B j)))).b))) ∧
    ((srvSel s).kind = 0 → (g.loop i).st = .open_ → RegAnswered (.srvOpen o) s o C.ok 0 s) ∧
    ((srvSel s).kind = 0 → (g.loop i).st ≠ .open_ → ∃ u, RegAnswered (.srvOpen o) s o C.ok 0 u ∧ ((engOf u h).loop i).st = .open_ ∧
      ((engOf u h).loop i).u = (List.range (g.nOutputs i)).map (g.safe i) ∧
      (g.paced i = [] → (g.pins i).Nodup → ∀ j p, j < g.nOutputs i → (g.sink i j).pin = some p →
        ∃ d, SMap.find u.drivers.pins p = some d ∧ d.value = safeValue (g.safe i j))) ∧
    ((srvSel s).kind = 1 → i < 28 → answers (.srvRearm o) (fun k => (k.input i).st = .armed ∧ (k.input i).count = (g.input i).count)) ∧
    ((srvSel s).kind = 3 →
      (g.cap.st = .running → RegAnswered (.srvTestStart o) s o C.srvCapBusy 0 s ∧
        answers (.srvStop o) (fun k => k.cap = { g.cap with st := .idle, waiting := false })) ∧
      (g.cap.st ≠ .running → RegAnswered (.srvStop o) s o C.ok 0 s) ∧
      (g.cap.st ≠ .running → g.closed (g.par 3 0 0x48 0) = false → RegAnswered (.srvTestStart o) s o C.srvCloseInvalid 0 s) ∧
      (g.cap.st ≠ .running → g.closed (g.par 3 0 0x48 0) = true →
        answers (.srvTestStart o) (fun k => k.cap.st = .running ∧ k.cap.j = 0 ∧ k.cap.data = []))) ∧
    (∀ v : Word,
      (∀ c, paramRefusal g (srvSel s) v.toNat = some c → RegAnswered (.srvParamAccess o (some v)) s o c 0 s) ∧
      (paramRefusal g (srvSel s) v.toNat = none → answers (.srvParamAccess o (some v)) (fun k => k.read (srvSel s) = v)))) ∧
  (∀ (s : State) (o : Origin) (h : Hub), Served s o false → s.active = some h →
    let k := srvSel s
    (paramInfo k.kind k.index k.param = none → RegAnswered (.srvParamAccess o none) s o C.srvParamInvalid 0 s) ∧
    (∀ (w : PWrite) (n : Nat), paramInfo k.kind k.index k.param = some (w, n) →
      (elemOk k.kind k.param n k.elem = false → RegAnswered (.srvParamAccess o none) s o C.srvParamInvalid 0 s) ∧
      (elemOk k.kind k.param n k.elem = true → RegAnswered (.srvParamAccess o none) s o C.ok ((engOf s h).read k) (nextElem s)))) ∧
  (∀ (s : State) (h : Hub) (i : Nat) (conv : Conv) (refuse : List Nat), s.phase = .running → s.active = some h → i < 32 →
    let g := engOf s h
    let bad (j : Nat) : Bool := g.blocked (g.srcY i j) || ((g.srcY i j).kind == 3 && g.stale.contains (g.srcY i j).n)
    let t := latch s g h conv i
    let w := g.law i t
    g.closed i = true → g.pace i = 0xFF → (∀ k, k < 32 → g.pace k ≠ i) →
    ((∀ j, j < g.nInputs i → bad j = false) → ∃ u, exec (.servoSample [i] conv refuse) s = .next u ∧
      ((engOf u h).loop i).u = w.u.words ∧ ((engOf u h).loop i).x = (g.observe i w.u w.nu).b ∧ ((engOf u h).loop i).st = .closed ∧
      ((engOf u h).loop i).samples = ((g.loop i).samples + 1) % 2 ^ 32) ∧
    ((∃ j, j < g.nInputs i ∧ bad j = true) → ∃ u, exec (.servoSample [i] conv refuse) s = .next u ∧
      ((engOf u h).loop i).st = .tripped ∧ ((engOf u h).loop i).cause = 2)) ∧
  (∀ (s : State) (h : Hub) (i : Nat), s.active = some h → s.phase = .running →
    let l := (engOf s h).loop i
    (l.sat = 0 ∨ l.st ≠ .closed → exec (.servoSatTrip i) s = .next s) ∧
    (l.sat ≠ 0 → l.st = .closed → ∃ t, exec (.servoSatTrip i) s = .next t ∧ ((engOf t h).loop i).st = .tripped ∧
      ((engOf t h).loop i).cause = 1 ∧ ((engOf t h).loop i).trips = min (l.trips + 1) 0x1FFFF ∧
      ((engOf t h).loop i).u = (List.range ((engOf s h).nOutputs i)).map ((engOf s h).safe i) ∧ fld t F.srvEventTrip = 1)) ∧
  (∀ (s : State) (h : Hub) (pin : Nat) (d : Driver), s.active = some h → s.phase = .running → SMap.find s.drivers.pins pin = some d →
    (d.held = true → exec (.servoOutHoldExpiry pin) s = .next s) ∧
    (d.held = false → (engOf s h).closed d.loop = true → ∃ t, exec (.servoOutHoldExpiry pin) s = .next t ∧
      SMap.find t.drivers.pins pin = some { d with value := d.safe, held := true }))

/-- PULSE_EDGE takes an edge that has held long enough and is no overrun edge, with its time and level, and moves its pair's count unless a line of
it is masked; an overrun edge is counted and holds its object. AIN_EVENT does the same for an AIN in event mode. FSYNC_EDGE starts a frame of every running
bundle that takes its frames from the line. INPUT_STUCK masks a line whose STUCK_MS is not 0. SERVO_STREAM_TILE gives the engine the values of the slots
bound to its stream, or discards the tile; SERVO_STREAM_STALE marks a bound slot without its bundle. -/
def Obligations.ServoInputsAreLatched : Prop :=
  (∀ (s : State) (h : Hub) (i t held : Nat) (level : Bool), s.phase = .running → firmwareRuns (hubOf s h) = true → isPulse i = true →
    let g := engOf s h
    let a := i / 2 * 2
    let frozen : Bool := (g.input a).st == .masked || (g.input (a + 1)).st == .masked
    let after (P : Servo → Prop) : Prop := ∃ u, exec (.pulseEdge i level t held) s = .next u ∧ P (engOf u h)
    (g.filtered i held = false → after (fun k => k = g)) ∧
    (g.filtered i held = true → g.overruns i (g.stamp i t) = false → after (fun k => (k.input i).level = level ∧ (k.input i).last = some (g.stamp i t) ∧
      (k.input a).count = (g.input a).count + (if frozen then 0 else BitVec.ofInt 32 (g.countStep i level)))) ∧
    (g.filtered i held = true → g.overruns i (g.stamp i t) = true → after (fun k => (k.input i).overs = min ((g.input i).overs + 1) 0x1FFFF ∧
      (k.input a).count = (g.input a).count ∧ (k.input a).st = (if (g.input a).st = .armed then .overrun else (g.input a).st)))) ∧
  (∀ (s : State) (h : Hub) (n t : Nat), s.phase = .running → firmwareRuns (hubOf s h) = true → n < 8 →
    let g := engOf s h
    let after (P : Servo → Prop) : Prop := ∃ u, exec (.ainEvent n t) s = .next u ∧ P (engOf u h)
    (g.mode n ≠ 2 ∨ (g.input n).st = .masked → after (fun k => k = g)) ∧
    (g.mode n = 2 → (g.input n).st ≠ .masked →
      (g.overruns n t = false → after (fun k => (k.input n).level = true ∧ (k.input n).last = some t)) ∧
      (g.overruns n t = true → after (fun k => (k.input n).overs = min ((g.input n).overs + 1) 0x1FFFF ∧ (k.input n).last = (g.input n).last ∧
        (k.input n).st = (if (g.input n).st = .armed then .overrun else (g.input n).st))))) ∧
  (∀ (s : State) (h : Hub) (n t held slot : Nat) (b : Bundle), s.phase = .running → s.active = some h → n < 4 →
    let g := engOf s h
    (g.filtered (24 + n) held = false → exec (.fsyncEdge n t held) s = .next s) ∧
    (g.filtered (24 + n) held = true → (s.pl.slots.map (fun e => e.1)).Nodup → slotBundle s slot = some b →
      (g.overruns (24 + n) (g.stamp (24 + n) t) = true ∨ (g.input (24 + n)).st = .masked →
        ∃ u, exec (.fsyncEdge n t held) s = .next u ∧ u.pl = s.pl) ∧
      (g.overruns (24 + n) (g.stamp (24 + n) t) = false → (g.input (24 + n)).st ≠ .masked → b.img.limits.framePeriod ≠ 0 →
        b.img.limits.frameStart = n + 1 → b.everStarted = true → b.st = .running →
        ∃ u c, exec (.fsyncEdge n t held) s = .next u ∧ slotBundle u slot = some c ∧ c.frameK = b.frameK + 1 ∧
          (⟨b.frameK % 2 ^ 32, g.stamp (24 + n) t, false⟩ : Frame) ∈ c.frames))) ∧
  (∀ (s : State) (h : Hub) (i : Nat), s.phase = .running → s.active = some h → firmwareRuns (hubOf s h) = true → i < 28 →
    (((engOf s h).input i).st = .masked ∨ (engOf s h).par 1 i 0x33 0 = 0 → exec (.inputStuck i) s = .next s) ∧
    (((engOf s h).input i).st ≠ .masked → (engOf s h).par 1 i 0x33 0 ≠ 0 → ∃ t, exec (.inputStuck i) s = .next t ∧
      ((engOf t h).input i).st = .masked ∧ fld t F.srvEventStuck = 1)) ∧
  (∀ (s : State) (h : Hub) (slot : Nat), s.phase = .running →
    ((engOf s h).par 3 0 0x40 slot ≠ 0 → slotLive s (engOf s h) slot = false → ∃ t, exec (.servoStreamStale slot) s = .next t ∧ slot ∈ (engOf t h).stale) ∧
    ((engOf s h).par 3 0 0x40 slot = 0 ∨ slotLive s (engOf s h) slot = true → ∃ t, exec (.servoStreamStale slot) s = .next t ∧ engOf t h = engOf s h)) ∧
  (∀ (s : State) (h : Hub) (slot si k : Nat) (v : StreamAt) (p : Nat × ConsumerRec) (f : Flight), streamAt s slot si = some v →
    (withIdx v.r.cons).find? (fun p => p.2.station == 0xFFFE) = some p → oldestFor v.x p.1 = some f →
    ∃ t b y, exec (.servoStreamTile slot si) s = .next t ∧ slotBundle t slot = some b ∧ b.streams[si]? = some y ∧
      y.flight = takeFlight p.1 v.x.flight ∧
      (f.tile.hdr.shape ≠ 0x60#8 ∨ f.tile.poisoned = true → engOf t h = engOf s h) ∧
      (firmwareRuns (hubOf s h) = true → k < 8 → (engOf s h).par 3 0 0x40 k = v.r.id → f.tile.hdr.shape = 0x60#8 → f.tile.poisoned = false →
        f.tile.payload.length = 4096 → k ∉ (engOf t h).stale ∧
        ∀ e, e < 64 → SMap.getD (engOf t h).inVals (64 * k + e) 0#32 = (wordsOf (f.tile.payload.take 256)).getD e 0#32))

/-! ### Time -/

/-- An idle period adds the increment and a part of the slew to module time (log entry 2). While SERVO is 0 TB_INCR_LO_WRITE and TB_INCR_HI_WRITE set
the increment and TB_ADJ_WRITE steps or slews; while it is 1 they are refused. TB_SERVO_WRITE and TB_SELECT_WRITE write TB_CTL, all of it or, where the
instance asked for is not locked and near, none. TB_SEC_LO_READ latches the other words, TB_SLEW_COMPLETE ends a slew. PTP_MESSAGE_RECEIVE measures
delay and offset, and a path jump of the selected instance means HOLDOVER, as PTP_SYNC_LOSS does; PTP_HOLD_EXPIRY leaves it by slewing once 16 Syncs
have come. LINK_TIME_EXCHANGE compares a neighbour's time and reports its eighth disagreement. -/
def Obligations.TimeFollowsItsMaster : Prop :=
  (∀ s : State, s.pending = [] →
    (s.phase ≠ .running → step s = .next s) ∧
    (s.phase = .running → 0 ≤ (s.tb.total : Int) + tbIncr s + slewPart s → (s.tb.total : Int) + tbIncr s + slewPart s < 2 ^ 96 * 1000000000 →
      ∃ t, step s = .next t ∧ (t.tb.total : Int) = s.tb.total + tbIncr s + slewPart s ∧ t.tb.slew = s.tb.slew - slewPart s ∧ t.pending = [])) ∧
  (∀ (s : State) (o : Origin) (v : Word), Served s o true →
    let d : Int := signedOf 30 (wfld v F.tbAdjOffset)
    (servoOn s = true → RegAnswered (.tbAdjWrite o v) s o C.timeServoOwns 0 s ∧ RegAnswered (.tbIncrLoWrite o v) s o C.timeServoOwns 0 s ∧
      RegAnswered (.tbIncrHiWrite o v) s o C.timeServoOwns 0 s) ∧
    (servoOn s = false →
      (wfld v F.tbAdjStep = 1 → (s.tb.total : Int) + d * 2 ^ 32 < 0 → RegAnswered (.tbAdjWrite o v) s o C.timeStepRefused 0 s) ∧
      (wfld v F.tbAdjStep = 1 → 0 ≤ (s.tb.total : Int) + d * 2 ^ 32 → (s.tb.total : Int) + d * 2 ^ 32 < 2 ^ 96 * 1000000000 →
        ∃ u, RegAnswered (.tbAdjWrite o v) s o C.ok 0 u ∧ (u.tb.total : Int) = s.tb.total + d * 2 ^ 32 ∧ u.tb.slew = 0 ∧ fld u F.tbEventStepped = 1) ∧
      (wfld v F.tbAdjStep = 0 → RegAnswered (.tbAdjWrite o v) s o C.ok 0 { s with tb := { s.tb with slew := d * 2 ^ 32 } }) ∧
      RegAnswered (.tbIncrLoWrite o v) s o C.ok 0 { s with tb := { s.tb with incrLo := some v } } ∧
      (let lo := match s.tb.incrLo with | some w => w.toNat | none => fld s F.tbIncrLoIncrLo
        let x := wfld v F.tbIncrHiIncrHi * 2 ^ 32 + lo
        (incrOk x = true → ∃ u, RegAnswered (.tbIncrHiWrite o v) s o C.ok 0 u ∧ tbIncr u = x ∧ u.tb.incrLo = none) ∧
        (incrOk x = false → RegAnswered (.tbIncrHiWrite o v) s o C.timeIncrRange 0 s))) ∧
    (∀ c, c = Instr.tbServoWrite o v ∨ c = Instr.tbSelectWrite o v →
      let j := wfld v F.tbCtlSelect
      (j ≠ tbSelect s → selectOk s j = false → RegAnswered c s o C.timeSwitchRefused 0 s) ∧
      (j = tbSelect s ∨ selectOk s j = true → ∃ u, RegAnswered c s o C.ok 0 u ∧ tbSelect u = j ∧ servoOn u = (wfld v F.tbCtlServo == 1) ∧
        fld u F.tbCtlAutoSwitch = wfld v F.tbCtlAutoSwitch ∧ fld u F.tbCtlSlewPpm = clampNat 1 100 (wfld v F.tbCtlSlewPpm) ∧
        (j = tbSelect s → servoOn s = true → wfld v F.tbCtlServo = 0 → u.servo.st = .manual) ∧
        (j = tbSelect s → servoOn s = false → wfld v F.tbCtlServo = 1 →
          ((selected s).hasOfs = false → u.servo.st = .free ∧ tbIncr u = 0x666666666) ∧
          ((selected s).hasOfs = true → u.servo.st = (if (selected s).locked then .locked else .acquiring) ∧ tbIncr u = tbIncr s)) ∧
        (∀ h, j ≠ tbSelect s → s.active = some h → servoOn s = true → wfld v F.tbCtlServo = 1 →
          u.servo.st = .slewing ∧ u.tb.slew = ((ptpOf s h j).ofs - (selected s).ofs) * 2 ^ 28)))) ∧
  (∀ (s : State) (o : Origin), Served s o false → RegAnswered (.tbSecLoRead o) s o C.ok (BitVec.ofNat 32 s.tb.sec)
    { s with tb := { s.tb with latchHi := BitVec.ofNat 32 (s.tb.sec / 2 ^ 32), latchNs := BitVec.ofNat 32 s.tb.ns,
                               latchFrac := BitVec.ofNat 32 (s.tb.frac / 65536) } }) ∧
  (∀ s : State, (s.tb.slew = 0 → exec .tbSlewComplete s = .next s) ∧
    (s.tb.slew ≠ 0 → 0 ≤ (s.tb.total : Int) + s.tb.slew → (s.tb.total : Int) + s.tb.slew < 2 ^ 96 * 1000000000 →
      ∃ t, exec .tbSlewComplete s = .next t ∧ (t.tb.total : Int) = s.tb.total + s.tb.slew ∧ t.tb.slew = 0 ∧ t.servo.st ≠ .slewing)) ∧
  (∀ (s : State) (h : Hub), s.active = some h →
    (s.servo.st = .acquiring ∨ s.servo.st = .locked ∨ s.servo.st = .slewing → ∃ t, exec .ptpSyncLoss s = .next t ∧
      t.servo.st = .holdover ∧ t.servo.jump = 0 ∧ t.servo.since = now s ∧ t.tb.slew = 0 ∧ fld t F.tbEventHoldover = 1) ∧
    (s.servo.st = .free ∨ s.servo.st = .manual ∨ s.servo.st = .holdover → exec .ptpSyncLoss s = .next s) ∧
    (s.servo.st = .holdover →
      (16 ≤ (selected s).syncs → ∃ t, exec .ptpHoldExpiry s = .next t ∧ t.servo.st = .slewing ∧ t.tb.slew = (selected s).ofs * 2 ^ 28) ∧
      ((selected s).syncs < 16 → exec .ptpHoldExpiry s = .next { s with servo := { s.servo with elapsed := true } })) ∧
    (s.servo.st ≠ .holdover → exec .ptpHoldExpiry s = .next s)) ∧
  (∀ (s : State) (h : Hub) (j dom tr : Nat), s.phase = .running → firmwareRuns (hubOf s h) = true → (hubOf s h).link = true →
    (hubOf s h).ptp.length = 2 → j < 2 → takesPtp s j dom tr = true → takesPtp s (1 - j) dom tr = false →
    let tx := (ethLatency s h).1
    let rx := (ethLatency s h).2
    let p := ptpOf s h j
    (∀ t1 t2 t3 t4 : Int,
      let m : Int := if fldAt s F.ptpCfgDelay 0 j 0 = 1 then ((t4 - rx) - (t1 + tx) - (t3 - t2)) / 2 else (((t2 - rx) - t1) + (t4 - (t3 + tx))) / 2
      let far : Prop := p.hasMpd = true ∧ 16 * fld s F.ptpLimPathchgNs < (m - p.mpd).natAbs
      (¬ far → ∃ t, exec (.ptpMessageReceive h dom tr (.delay t1 t2 t3 t4)) s = .next t ∧ ptpOf t h j = { p with mpd := m, hasMpd := true }) ∧
      (far → s.active = some h → tbSelect s = j → s.servo.st ≠ .free → s.servo.st ≠ .manual →
        ∃ t, exec (.ptpMessageReceive h dom tr (.delay t1 t2 t3 t4)) s = .next t ∧ t.servo.st = .holdover ∧ t.servo.jump = (m - p.mpd).natAbs ∧
          (ptpOf t h j).mpd = m ∧ (ptpOf t h j).locked = false)) ∧
    (∀ t1 t2 : Int, p.hasMpd = true →
      (s.active ≠ some h → ∃ t, exec (.ptpMessageReceive h dom tr (.sync t1 t2)) s = .next t ∧ (ptpOf t h j).hasOfs = true ∧
        (ptpOf t h j).ofs = t1 + p.mpd - (t2 - rx)) ∧
      (s.active = some h → tbSelect s = j → s.servo.st = .free →
        ∃ t, exec (.ptpMessageReceive h dom tr (.sync t1 t2)) s = .next t ∧ t.servo.st = .acquiring))) ∧
  (∀ (s : State) (key tx rx limit : Nat) (l : Link), linkOf s key = some l →
    (s.phase ≠ .running ∨ l.st ≠ .up ∨ l.tofDone = false → exec (.linkTimeExchange key tx rx limit) s = .next s) ∧
    (s.phase = .running → l.st = .up → l.tofDone = true →
      let d : Int := ((tx + wayLatency s key l : Nat) : Int) - rx
      let n := SMap.getD s.fab.nbr key ⟨0, 0, false⟩
      (d.natAbs ≤ 100 * (ownLimit s + limit) → ∃ t, exec (.linkTimeExchange key tx rx limit) s = .next t ∧
        SMap.find t.fab.nbr key = some ⟨10 * d, 0, false⟩) ∧
      (100 * (ownLimit s + limit) < d.natAbs → ∃ t m, exec (.linkTimeExchange key tx rx limit) s = .next t ∧
        SMap.find t.fab.nbr key = some m ∧ m.offset = 10 * d ∧ m.beyond = min (n.beyond + 1) 8 ∧
        (7 ≤ n.beyond → n.reported = false → m.reported = true ∧ fld t F.tbEventNbr = 1))))

/-! ### Power, resets, hubs -/

/-- RST_N_ASSERT and REFCLK_LOSS hold a running module in reset with its memory wiped and its time 0; RST_N_RELEASE and REFCLK_RESTORE start it once
neither holds it any more, and POWER_UP starts it unless the input switch is latched. RESET, given by a session, restarts it with its time kept; RESET_CAUSE tells
power-up, RST_N and RESET apart. UNDERVOLTAGE_OFF and OVERVOLTAGE_OFF take the power away; INPUT_DIP counts a dip and reports at most one each second;
INPUT_WARNING_BAND_ENTRY and INPUT_WARNING_BAND_EXIT mark the input out of range. I3C_SETDASA gives an address to the hub named, I3C_ENTDAA to HA before
HB. -/
def Obligations.PowerAndResets : Prop :=
  ∀ s : State,
    let after (c : Instr) (P : State → Prop) : Prop := ∃ t, exec c s = .next t ∧ P t
    let empty (t : State) : Prop := t.pl.slots = [] ∧ t.sessions = [] ∧ t.counts = [] ∧ t.active = none ∧
      ∀ d ∈ t.dies, d.dlq = [] ∧ ∀ k ∈ d.stks, k.mem = Mem.wiped ∧ k.wiping = true
    let held (t : State) : Prop := t.phase = .resetHeld ∧ empty t ∧ t.tb.total = 0
    let starts (t : State) : Prop := t.phase = .running ∧ ∀ h : Hub, (hubOf t h).health =
      (if (hubOf s h).fw.valid = true ∧ s.sec.svnMin ≤ (hubOf s h).fw.svn then .standbyUnsync else .recovery)
    (s.phase = .running → after .rstNAssert (fun t => held t ∧ t.elec.rstLow = true) ∧ after .refclkLoss (fun t => held t ∧ t.elec.clkLost = true)) ∧
    (s.phase ≠ .running → exec .rstNAssert s = .next { s with elec := { s.elec with rstLow := true } } ∧
      exec .refclkLoss s = .next { s with elec := { s.elec with clkLost := true } }) ∧
    (s.phase = .resetHeld → s.elec.off = false → s.elec.fresh = false →
      (s.elec.clkLost = false → after .rstNRelease (fun t => starts t ∧ fld t F.secResetCauseCause = 1 ∧ t.elec.rstLow = false)) ∧
      (s.elec.clkLost = true → exec .rstNRelease s = .next { s with elec := { s.elec with rstLow := false } }) ∧
      (s.elec.rstLow = false → s.elec.clkLost = true → after .refclkRestore (fun t => starts t ∧ fld t F.elecStatRefclkCause = 1)) ∧
      (s.elec.rstLow = true → exec .refclkRestore s = .next { s with elec := { s.elec with clkLost := false } })) ∧
    (s.phase ≠ .resetHeld → exec .rstNRelease s = .next { s with elec := { s.elec with rstLow := false } } ∧
      exec .refclkRestore s = .next { s with elec := { s.elec with clkLost := false } }) ∧
    (∀ badA badB badLc badFw,
      (s.phase ≠ .unpowered ∨ s.elec.latched = true → exec (.powerUp badA badB badLc badFw) s = .next s) ∧
      (s.phase = .unpowered → s.elec.latched = false →
        (s.elec.rstLow = false → s.elec.clkLost = false → after (.powerUp badA badB badLc badFw) (fun t =>
          (badFw = [] → starts t) ∧ t.phase = .running ∧ (∀ h ∈ badFw, (hubOf t h).health = .recovery) ∧
          fld t F.secResetCauseCause = 0 ∧ t.cycles = (s.cycles + 1) % 2 ^ 24 ∧ t.optime = s.optimeSaved)) ∧
        (s.elec.rstLow = true ∨ s.elec.clkLost = true → after (.powerUp badA badB badLc badFw) (fun t => t.phase = .resetHeld)))) ∧
    (∀ mv, after (.undervoltageOff mv) (fun t => t.phase = .unpowered ∧ t.elec.latched = (s.elec.latched && decide (25000 ≤ mv))) ∧
      (s.phase ≠ .unpowered → after (.undervoltageOff mv) (fun t => empty t ∧ t.sec.retPending = false)) ∧
      (s.phase ≠ .unpowered → after .overvoltageOff (fun t => t.phase = .unpowered ∧ empty t ∧ t.elec.latched = s.elec.latched)) ∧
      (s.phase ≠ .unpowered →
        after (.inputDip mv) (fun t => fld t F.elecStatDips = satInc F.elecStatDips.width (fld s F.elecStatDips) 1 ∧
          (s.phase = .running → t.elec.dipSecond = some s.tb.sec)) ∧
        after (.inputWarningBandEntry mv) (fun t => fld t F.elecStatOutOfRange = 1) ∧
        after .inputWarningBandExit (fun t => fld t F.elecStatOutOfRange = 0)) ∧
      (s.phase = .running →
        (s.elec.dipSecond ≠ some s.tb.sec → ∃ u, exec (.inputDip mv) s = .next (hubReport u C.elecInputDip (d4 mv))) ∧
        (s.elec.dipSecond = some s.tb.sec → after (.inputDip mv) (fun t => t.out = s.out))) ∧
      (s.phase = .unpowered → exec (.inputDip mv) s = .next s ∧ exec (.inputWarningBandEntry mv) s = .next s ∧
        exec .inputWarningBandExit s = .next s ∧ exec .overvoltageOff s = .next s)) ∧
    (∀ (h : Hub) dyn, s.phase = .running → firmwareRuns (hubOf s h) = true →
      let given (c : Instr) : Prop := after c (fun t => (hubOf t h).i3cDynamic = some dyn ∧ hubOf t (peer h) = hubOf s (peer h))
      ((hubOf s h).i3cDynamic = none → given (.i3cSetdasa (0x2A + hubIndex h) dyn) ∧
        (h = .ha ∨ (hubOf s .ha).i3cDynamic ≠ none ∨ firmwareRuns (hubOf s .ha) = false → given (.i3cEntdaa dyn))) ∧
      ((hubOf s h).i3cDynamic ≠ none → exec (.i3cSetdasa (0x2A + hubIndex h) dyn) s = .next s)) ∧
    (∀ (h : CtrHdr) (x : Session), Asks s h 0x0060 [0#8] x → Replies (.reset h) s h 0x0060 0 [] (fun t =>
      empty t ∧ t.phase = .running ∧ fld t F.secResetCauseCause = 2 ∧ t.tb.total = s.tb.total))

/-- LEASE_RENEWAL renews the lease of a line that grants it, LEASE_LINE_RISE gains it unless the other line is high, LEASE_LINE_LOW and LEASE_LAPSE end
it, and with both leases gone every driver stands at its SAFE value. HUB_BECOME_ACTIVE makes a hub that may act the active one. HEARTBEAT_LOSS and
CROSSLINK_RETURN change HEALTH. HUB_SELF_CHECK_FAIL and WATCHDOG_EXPIRY fail the hub, or reset the module where WDOG_RESET says so and the other hub is
still; HUB_RESTART_COMPLETE brings a hub back on its image, or in recovery. -/
def Obligations.HubsHoldTheLease : Prop :=
  ∀ (s : State) (h : Hub),
    let after (c : Instr) (P : State → Prop) : Prop := ∃ t, exec c s = .next t ∧ P t
    let x := hubOf s h
    let rise : Instr := match h with | .ha => .leaseLineRise true false | .hb => .leaseLineRise false true
    (x.line = true → x.conflict = false → after (.leaseRenewal h) (fun t => hubOf t h = { x with lease := true } ∧ hubOf t (peer h) = hubOf s (peer h))) ∧
    (x.line = false ∨ x.conflict = true → exec (.leaseRenewal h) s = .next s) ∧
    (x.line = false →
      ((hubOf s (peer h)).line = false →
        after rise (fun t => hubOf t h = { x with line := true, lease := true, conflict := false } ∧ hubOf t (peer h) = hubOf s (peer h)) ∧
        after (.leaseLineRise true true) (fun t => t.active = none ∧ (hubOf t h).lease = false ∧ (hubOf t h).conflict = true ∧ fld t F.redFaultConflict = 1)) ∧
      ((hubOf s (peer h)).line = true → after rise (fun t => (hubOf t h).line = true ∧ (hubOf t h).conflict = true ∧
        (hubOf t h).lease = x.lease ∧ (hubOf t (peer h)).lease = (hubOf s (peer h)).lease ∧ fld t F.redFaultConflict = 1))) ∧
    (x.line = true → exec rise s = .next s) ∧
    after (.leaseLineLow h) (fun t => (hubOf t h).line = false ∧ (hubOf t h).lease = false ∧ t.active ≠ some h ∧
      ((hubOf s (peer h)).conflict = true → (hubOf t (peer h)).lease = true)) ∧
    (x.lease = false → exec (.leaseLapse h) s = .next s) ∧
    (x.lease = true → after (.leaseLapse h) (fun t => (hubOf t h).lease = false ∧ t.active ≠ some h) ∧
      ((hubOf s (peer h)).lease = false → after (.leaseLapse h) (fun t => fld t F.redEventLapsed = 1 ∧
        ∀ p d, SMap.find s.drivers.pins p = some d → SMap.find t.drivers.pins p = some { d with value := d.safe }))) ∧
    (mayAct s h = true → after (.hubBecomeActive h) (fun t => t.active = some h ∧ (hubOf t h).health = .active)) ∧
    (mayAct s h = false → exec (.hubBecomeActive h) s = .next s) ∧
    (∀ isolate, s.phase ≠ .running ∨ firmwareRuns x = false ∨ x.health = .recovery → exec (.heartbeatLoss h isolate) s = .next s) ∧
    (s.phase = .running → firmwareRuns x = true → x.health ≠ .recovery →
      (s.active = some h → ∀ isolate, after (.heartbeatLoss h isolate) (fun t => (hubOf t h).health = .hbLost ∧ t.synced = false ∧
        (firmwareRuns (hubOf s (peer h)) = true → t.xlink = false))) ∧
      (s.active ≠ some h → after (.heartbeatLoss h false) (fun t => (hubOf t h).health = .hbLost)) ∧
      (s.active ≠ some h → x.health = .hbLost → after (.heartbeatLoss h true) (fun t => (hubOf t h).isolated = true ∧ (hubOf t h).health = .standbyUnsync)) ∧
      (s.active ≠ some h → x.health ≠ .hbLost → after (.heartbeatLoss h true) (fun t => hubOf t h = x))) ∧
    (s.phase ≠ .running → exec .crosslinkReturn s = .next s ∧ exec (.hubSelfCheckFail h) s = .next s ∧ exec (.watchdogExpiry h) s = .next s) ∧
    (s.phase = .running → after .crosslinkReturn (fun t => t.xlink = true ∧ (hubOf t h).isolated = false ∧
      (s.active = some h → x.health = .hbLost → (hubOf t h).health = .active))) ∧
    (s.phase = .running → firmwareRuns x = true →
      let fails (t : State) : Prop := (hubOf t h).health = .failed ∧ t.active ≠ some h ∧ fld t F.redFaultHubFailed = 1
      let resets : Prop := fld s F.redCtlWdogReset = 1 ∧ x.lease = true ∧ healthToggles (hubOf s (peer h)) = false
      after (.hubSelfCheckFail h) fails ∧ (¬ resets → after (.watchdogExpiry h) fails) ∧
      (resets → after (.watchdogExpiry h) (fun t => fld t F.secResetCauseCause = 3 ∧ t.pl.slots = [] ∧ t.active = none))) ∧
    (s.phase ≠ .running ∨ firmwareRuns x = true ∨ isShut s (.hub (hubIndex h)) = true → exec (.hubRestartComplete h) s = .next s) ∧
    (s.phase = .running → firmwareRuns x = false → isShut s (.hub (hubIndex h)) = false →
      (x.fw.valid = true → s.sec.svnMin ≤ x.fw.svn →
        after (.hubRestartComplete h) (fun t => (hubOf t h).running = x.fw ∧ ((hubOf t h).health = .standbyUnsync ∨ (hubOf t h).health = .standbySync) ∧
          (s.active = none → (hubOf t h).health = .standbyUnsync) ∧ (s.fw.step = 3 → s.active = some (peer h) → t.fw.step = 0))) ∧
      (x.fw.valid = false ∨ x.fw.svn < s.sec.svnMin → after (.hubRestartComplete h) (fun t => (hubOf t h).health = .recovery)))

/-- FW_WRITE_STANDBY takes an image that verifies, and its next two steps write it to the standby, which restarts on it; FW_HANDOVER asks for a handover to a
standby that is synchronised, or by force; FW_ABORT ends an update that has not begun to write. Each is refused while an update runs that it does not
go with. ETH_LINK_LOSS and ETH_LINK_RETURN follow a port's link, and ARP_ND_ICMP_ECHO answers for the port's own addresses while its link is up. -/
def Obligations.FirmwareAndPorts : Prop :=
  (∀ (s : State) (o : Origin) (v : Word) (h : Hub), regGate s o true true = .served → s.active = some h →
    (s.fw.step ≠ 0 → RegAnswered (.fwWriteStandby o (some v)) s o C.fwBusy 0 s ∧ RegAnswered (.fwHandover o v) s o C.fwBusy 0 s) ∧
    (s.fw.step = 0 → firmwareRuns (hubOf s (peer h)) = false → RegAnswered (.fwWriteStandby o (some v)) s o C.fwBusy 0 s) ∧
    (s.fw.step = 0 → firmwareRuns (hubOf s (peer h)) = true →
      ((fwStage s o (wfld v F.redFwCmdStage)).bind (checkImage s) = none →
        RegAnswered (.fwWriteStandby o (some v)) s o C.fwImageBad 0 { s with fw := { s.fw with last := C.fwImageBad } }) ∧
      (∀ im, (fwStage s o (wfld v F.redFwCmdStage)).bind (checkImage s) = some im →
        RegAnswered (.fwWriteStandby o (some v)) s o C.ok 0
          { s with fw := { step := 1, last := C.ok, image := some im, stage := wfld v F.redFwCmdStage } })) ∧
    (s.fw.step = 0 →
      ((hubOf s (peer h)).health = .standbySync ∨ wfld v F.redFwCmdForce ≠ 0 → ∃ u, RegAnswered (.fwHandover o v) s o C.ok 0 u ∧
        u.fw.step = 4 ∧ (hubOf u h).health = .handoverReq ∧ u.active = s.active) ∧
      ((hubOf s (peer h)).health ≠ .standbySync → wfld v F.redFwCmdForce = 0 →
        RegAnswered (.fwHandover o v) s o C.fwNotSync 0 { s with fw := { s.fw with last := C.fwNotSync } })) ∧
    (s.fw.step = 0 → RegAnswered (.fwAbort o) s o C.ok 0 s) ∧
    (s.fw.step = 1 → RegAnswered (.fwAbort o) s o C.ok 0 { s with fw := { s.fw with step := 0, image := none } }) ∧
    (2 ≤ s.fw.step → RegAnswered (.fwAbort o) s o C.fwBusy 0 s)) ∧
  (∀ (s : State) (o : Origin),
    (∀ h im, s.phase = .running → s.active = some h → s.fw.image = some im →
      (s.fw.step = 1 → exec (.fwWriteStandby o none) s = .next { s with fw := { s.fw with step := 2 } }) ∧
      (s.fw.step = 2 → ∃ t, exec (.fwWriteStandby o none) s = .next t ∧ t.fw.step = 3 ∧ (hubOf t (peer h)).fw = im ∧
        (hubOf t (peer h)).health = .restarting ∧ t.synced = false ∧ t.active = some h)) ∧
    (s.phase ≠ .running ∨ s.active = none ∨ s.fw.image = none ∨ (s.fw.step ≠ 1 ∧ s.fw.step ≠ 2) → exec (.fwWriteStandby o none) s = .next s)) ∧
  (∀ (s : State) (h : Hub) (kind : Nat) (target payload : List Byte),
    let up : Prop := s.phase = .running ∧ firmwareRuns (hubOf s h) = true
    (∃ t, exec (.ethLinkLoss h) s = .next t ∧ hubOf t h = { hubOf s h with link := false, ethDown := true } ∧ hubOf t (peer h) = hubOf s (peer h)) ∧
    (up → fldAt s F.ethCtlEnable 0 (hubIndex h) 0 = 1 → ∃ t, exec (.ethLinkReturn h) s = .next t ∧
      hubOf t h = { hubOf s h with link := true, ethDown := false } ∧ hubOf t (peer h) = hubOf s (peer h)) ∧
    (¬ up ∨ fldAt s F.ethCtlEnable 0 (hubIndex h) 0 ≠ 1 → exec (.ethLinkReturn h) s = .next s) ∧
    (up → (hubOf s h).link = true → ownsAddress s h target = true → ∃ t b, exec (.arpNdIcmpEcho h kind target payload) s = .next t ∧
      t.out = s.out ++ [.ether h kind b] ∧ (kind = 2 → b = payload) ∧ (kind ≠ 2 → b = macOf s h)) ∧
    (¬ up ∨ (hubOf s h).link = false ∨ ownsAddress s h target = false → exec (.arpNdIcmpEcho h kind target payload) s = .next s))

/-! ### Recorder, performance counters, debug access -/

/-- REC_MIRROR_RECEIVE keeps the oldest record queued by the peer under a SEQ of the hub's own, or counts it where 10,000 were written in the second, and
REC_SUPPRESSED writes down what was counted. OPTIME_SAVE saves the operating time. REC_CURSOR_WRITE copies the record of its SEQ, the oldest in place of one
overwritten, or none where it is not yet written; REC_FIND goes to the first record at or after a time; REC_RETRY ends degradation where fresh blocks
verify. -/
def Obligations.RecordsAreKeptAndRead : Prop :=
  ∀ (s : State) (h : Hub),
    let after (c : Instr) (P : State → Prop) : Prop := ∃ t, exec c s = .next t ∧ P t
    let c := (hubOf s h).recorder
    let far := (hubOf s (peer h)).recorder
    let both : Prop := s.phase = .running ∧ s.xlink = true ∧ firmwareRuns (hubOf s h) = true ∧ firmwareRuns (hubOf s (peer h)) = true
    let fresh := if c.second = s.tb.sec then c else { c with second := s.tb.sec, written := 0 }
    (¬ both ∨ far.mirrorQ = [] → exec (.recMirrorReceive h) s = .next s) ∧
    (∀ r rest, both → far.mirrorQ = r :: rest →
      (fresh.written < 10000 → (c.flashBad = false ∨ c.degraded = true) →
        after (.recMirrorReceive h) (fun t => (hubOf t (peer h)).recorder.mirrorQ = rest ∧
          (hubOf t h).recorder = ({ fresh with written := fresh.written + 1 }).append (r.mirrored c.nextSeq))) ∧
      (10000 ≤ fresh.written → after (.recMirrorReceive h) (fun t => (hubOf t (peer h)).recorder.mirrorQ = rest ∧
        (hubOf t h).recorder.ring = c.ring ∧ (hubOf t h).recorder.holding = c.holding ∧
        SMap.getD (hubOf t h).recorder.suppressed r.type 0 = SMap.getD c.suppressed r.type 0 + 1))) ∧
    (s.phase ≠ .running ∨ firmwareRuns (hubOf s h) = false ∨ c.suppressed = [] ∨ 10000 ≤ fresh.written → exec (.recSuppressed h) s = .next s) ∧
    (s.phase = .running → firmwareRuns (hubOf s h) = true → c.suppressed ≠ [] → fresh.written < 10000 →
      after (.recSuppressed h) (fun t => (hubOf t h).recorder.suppressed = c.suppressed.drop 122 ∧
        (hubOf t h).recorder.nextSeq = (c.nextSeq + 1) % 2 ^ 32)) ∧
    (∀ n bad, (s.phase = .unpowered → exec (.optimeSave n bad) s = .next s) ∧
      (s.phase ≠ .unpowered → after (.optimeSave n bad) (fun t => t.optime = (s.optime + n) % 2 ^ 40 ∧ t.optimeSaved = t.optime ∧
        (h ∈ bad → (hubOf t h).recorder.flashBad = true) ∧ (h ∉ bad → hubOf t h = hubOf s h)))) ∧
    (∀ (o : Origin) (v : Word), Served s o true → s.active = some h →
      let gives (i : Instr) (d : Recorder) : Prop := ∃ u, RegAnswered i s o C.ok 0 u ∧ (hubOf u h).recorder = d
      let at_ := c.live.find? (fun r => r.seq == v.toNat)
      let later := laterThan (BitVec.ofNat 32 c.nextSeq) v
      let found := c.live.find? (fun r => r.atOrAfter ((regWord s ⟨.recFindSLo, 0, 0, 0⟩).toNat + 2 ^ 32 * (regWord s ⟨.recFindSHi, 0, 0, 0⟩).toNat) v.toNat)
      (∀ r, at_ = some r → gives (.recCursorWrite o v) (c.copy r 0)) ∧
      (∀ r, at_ = none → later = true → c.live.head? = some r → gives (.recCursorWrite o v) (c.copy r 1)) ∧
      (at_ = none → later = false ∨ c.live = [] → gives (.recCursorWrite o v) { c with cursor := v.toNat, wState := 2 }) ∧
      (∀ r, found = some r → ∃ u, RegAnswered (.recFind o v) s o C.ok 0 u ∧ (hubOf u h).recorder.cursor = r.seq ∧ (hubOf u h).recorder.wState = 0) ∧
      (found = none → ∃ u, RegAnswered (.recFind o v) s o C.ok 0 u ∧ (hubOf u h).recorder.cursor = c.nextSeq) ∧
      (wfld v F.recCtlRetry = 1 → c.degraded = true →
        (∃ u, RegAnswered (.recRetry o v true) s o C.ok 0 u ∧ (hubOf u h).recorder.degraded = false ∧ (hubOf u h).recorder.holding = []) ∧
        RegAnswered (.recRetry o v false) s o C.ok 0 s) ∧
      (wfld v F.recCtlRetry = 0 ∨ c.degraded = false → ∀ good, RegAnswered (.recRetry o v good) s o C.ok 0 s))

/-- PCT_CLR clears a counter's WRAP, PCT_VAL_LO_READ latches a counter whole, or says that it is not there or may not be read; PCT_SMP_ENABLE starts and stops a sampling
slot, PCT_SMP_POP drops the oldest sample; RED_OPTIME_LO_READ latches the operating time. DIE_DBG_LO_READ reads a register, the predicates or PC of a station that
is stopped, or a scratch word that needs no correction, and DIE_DBG_WRITE writes one of a station whose bundle is HELD, where the right to it is in force. -/
def Obligations.CountersAndDebugAccess : Prop :=
  ∀ (s : State) (o : Origin) (v : Word),
    (Served s o true →
      (wfld v F.pctClrWrap = 1 → ∃ u, RegAnswered (.pctClr o v) s o C.ok 0 u ∧ (countOf u (pctSel s)).wrap = false ∧
        (countOf u (pctSel s)).value = (countOf s (pctSel s)).value) ∧
      (wfld v F.pctClrWrap = 0 → RegAnswered (.pctClr o v) s o C.ok 0 s) ∧
      (∀ k, k < 8 → ∃ u, RegAnswered (.pctSmpEnable o k v) s o C.ok 0 u ∧ fldAt u F.pctSmpCtlEnable 0 k 0 = wfld v F.pctSmpCtlEnable ∧
        u.sampling.slots = (if wfld v F.pctSmpCtlEnable = 1 then modAt s.sampling.slots k (fun _ => ⟨[]⟩) else s.sampling.slots)) ∧
      (∀ k, 8 ≤ k → RegAnswered (.pctSmpEnable o k v) s o C.regUnmapped 0 s) ∧
      (wfld v F.pctSmpPopPop = 1 → ∃ u, RegAnswered (.pctSmpPop o v) s o C.ok 0 u ∧ u.sampling.buffer = s.sampling.buffer.drop 1 ∧
        u.counts = s.counts) ∧
      (wfld v F.pctSmpPopPop = 0 → RegAnswered (.pctSmpPop o v) s o C.ok 0 s)) ∧
    (Served s o false →
      (eventExists s.ident (pctSel s) = false → ∃ w u, RegAnswered (.pctValLoRead o) s o C.ok w u ∧ u.counts = s.counts ∧ fld u F.pctValHiInvalid = 1) ∧
      (eventExists s.ident (pctSel s) = true → hostReadable s (pctSel s) = true → ∃ u,
        RegAnswered (.pctValLoRead o) s o C.ok (BitVec.ofNat 32 (countOf s (pctSel s)).value) u ∧
        u.counts = s.counts ∧ regWord u ⟨.pctValHi, 0, 0, 0⟩ =
          pctHi ((countOf s (pctSel s)).value / 2 ^ 32) 0 0 (b2n (countOf s (pctSel s)).wrap)) ∧
      (eventExists s.ident (pctSel s) = true → hostReadable s (pctSel s) = false → ∃ u, RegAnswered (.pctValLoRead o) s o C.ok 0 u ∧
        u.counts = s.counts ∧ fld u F.pctValHiDenied = 1)) ∧
    (regGate s o true false = .served → ∃ u, RegAnswered (.redOptimeLoRead o) s o C.ok (BitVec.ofNat 32 s.optime) u ∧
      regWord u ⟨.redOptimeHi, 0, 0, 0⟩ = BitVec.ofNat 32 (s.optime / 2 ^ 32)) ∧
    (∀ d, (Served s o false → s.ident.dies ≤ d → RegAnswered (.dieDbgLoRead o d) s o C.regAbsent 0 s) ∧
      (Served s o true → s.ident.dies ≤ d → RegAnswered (.dieDbgWrite o d v) s o C.regAbsent 0 s) ∧
      (Served s o true → d < s.ident.dies → wfld v F.dieDbgCmdWrite = 0 → RegAnswered (.dieDbgWrite o d v) s o C.ok 0 s) ∧
      (Served s o true → d < s.ident.dies → wfld v F.dieDbgCmdWrite = 1 →
        (debugRight s rightStation = false → RegAnswered (.dieDbgWrite o d v) s o C.dbgDenied 0 s) ∧
        (debugRight s rightStation = true → stationOn s (dbgCell s d) = none → RegAnswered (.dieDbgWrite o d v) s o C.dbgNotStopped 0 s))) ∧
    (∀ d x, d < s.ident.dies → OnCell s (dbgCell s d) x →
      let a := 8 * dbgIndex s d
      let clean : Prop := a < scratchBytes ∧ scanItems x.st.scratch [.bytes a 8] = ⟨x.st.scratch, 0, 0, []⟩
      let reads (y : Nat) : Prop := ∃ u, RegAnswered (.dieDbgLoRead o d) s o C.ok (BitVec.ofNat 32 y) u ∧
        regWord u ⟨.dieDbgHi, d, 0, 0⟩ = BitVec.ofNat 32 (y / 2 ^ 32)
      (Served s o false → dbgItem s d < 3 → x.st.run = .running → RegAnswered (.dieDbgLoRead o d) s o C.dbgNotStopped 0 s) ∧
      (Served s o false → x.st.run ≠ .running →
        (dbgItem s d = 0 → dbgIndex s d < 32 → reads (getG x.st (dbgIndex s d)).toNat) ∧
        (dbgItem s d = 1 → reads ((List.range 8).foldl (fun y i => y + b2n (getP x.st i) * 2 ^ i) 0)) ∧
        (dbgItem s d = 2 → reads x.st.pc)) ∧
      (Served s o false → dbgItem s d = 3 → clean → reads (leNat ((List.range 8).map (fun i => hostByte x.st (a + i))))) ∧
      (Served s o true → wfld v F.dieDbgCmdWrite = 1 → debugRight s rightStation = true →
        (x.b.st ≠ .held → RegAnswered (.dieDbgWrite o d v) s o C.dbgNotStopped 0 s) ∧
        (x.b.st = .held →
          let y := (regWord s ⟨.dieDbgLo, d, 0, 0⟩).toNat + 2 ^ 32 * (regWord s ⟨.dieDbgHi, d, 0, 0⟩).toNat
          let writes (st : Station) : Prop := ∃ u, RegAnswered (.dieDbgWrite o d v) s o C.ok 0 u ∧ stationAt u x.slot x.idx = some st
          (dbgItem s d = 0 → dbgIndex s d < 32 → writes (setG x.st (dbgIndex s d) (BitVec.ofNat 64 y))) ∧
          (dbgItem s d = 1 → writes ((List.range 8).foldl (fun st i => setP st i (bitAt y i)) x.st)) ∧
          (dbgItem s d = 2 → writes { x.st with pc := y % 2 ^ 16 }) ∧
          (dbgItem s d = 3 → clean → x.st.ckpts = [] → writes { x.st with scratch := x.st.scratch.store a (leBytes 8 y) }))))

/-! ### Security -/

/-- Writes of SEC_CTL (SVN_COMMIT, SEC_REQ_SIGNED_WRITE), SEC_KEY_CMD (SEC_KEY_COMMIT, SEC_KEY_ERASE) and SEC_GRANT_CMD (SEC_GRANT_COMMIT, SEC_GRANT_REVOKE), whichever of
its commands carries them: keys change for whoever may change them, and in Field an ADMIN key remains; a grant that passes its checks is taken and comes into force by
its times, of which GRANT_NOT_BEFORE and GRANT_EXPIRY take note. SEC_LC_CMD makes a transition that its conditions allow, with a reset, or leaves it to the next start.
SEC_RET_COMMIT and RETAINED_COMMIT_TIMER commit retained state. SEC_GRANT_DATA_ACCESS stages a grant; SEC_ATT_GO starts a report, which ATTESTATION_READY signs. -/
def Obligations.SecurityStateChanges : Prop :=
  let committed (s u : State) : Prop := u.sec.retPending = false ∧ (newerRet u.sec).kept = keptRegs s ∧ (newerRet u.sec).retired = s.pl.retired ∧
    (newerRet u.sec).routes = s.fab.active ∧ (newerRet u.sec).gen = (newerRet s.sec).gen + 1 ∧ u.regs = s.regs
  (∀ (s : State) (o : Origin) (v : Word), Served s o true →
    let keys (k : KeySlot) : List KeySlot := modAt s.sec.keys (keySel s) (fun _ => k)
    let kept (k : KeySlot) : Prop := s.sec.lc ≠ .field ∨ hasAdmin (keys k) = true
    let held : Prop := s.ha.recovery = true ∨ s.hb.recovery = true ∨ (1 ≤ s.fw.step ∧ s.fw.step ≤ 3)
    (∀ c, c = Instr.svnCommit o v ∨ c = Instr.secReqSignedWrite o v →
      (mayKey s o = false → RegAnswered c s o C.secKeyDenied 0 s) ∧
      (mayKey s o = true → wfld v F.secCtlSvnCommit = 1 → held → RegAnswered c s o C.secSvnHeld 0 s) ∧
      (mayKey s o = true → wfld v F.secCtlSvnCommit = 0 ∨ ¬ held → ∃ u, RegAnswered c s o C.ok 0 u ∧
        fld u F.secCtlReqSigned = wfld v F.secCtlReqSigned ∧ u.sec = { s.sec with
          retPending := true, svnMin := if wfld v F.secCtlSvnCommit = 1 then max s.sec.svnMin (min s.ha.running.svn s.hb.running.svn) else s.sec.svnMin })) ∧
    (wfld v F.secRetCmdCommit = 1 → ∃ u, RegAnswered (.secRetCommit o v) s o C.ok 0 u ∧ committed s u) ∧
    (wfld v F.secRetCmdCommit = 0 → RegAnswered (.secRetCommit o v) s o C.ok 0 s) ∧
    (∀ cut, wfld v F.secLcCmdKey ≠ 0x4C43 ∨ lcAllowed s o (LifeCycle.ofCode (wfld v F.secLcCmdTarget)) = false →
      RegAnswered (.secLcCmd o v cut) s o C.secLcDenied 0 s) ∧
    (wfld v F.secLcCmdKey = 0x4C43 → lcAllowed s o (LifeCycle.ofCode (wfld v F.secLcCmdTarget)) = true → s.sec.incomplete = none →
      (∃ t, exec (.secLcCmd o v true) s = .next t ∧ Emit.reg o C.ok 0 ∈ t.out ∧ t.sec.lc = s.sec.lc ∧
        t.sec.incomplete = some (LifeCycle.ofCode (wfld v F.secLcCmdTarget))) ∧
      (∃ t, exec (.secLcCmd o v false) s = .next t ∧ Emit.reg o C.ok 0 ∈ t.out ∧ t.sec.lc = LifeCycle.ofCode (wfld v F.secLcCmdTarget) ∧
        t.sec.incomplete = none ∧ fld t F.secResetCauseCause = 4 ∧ t.pl.slots = [] ∧ t.sessions = [])) ∧
    (∀ c, c = Instr.secKeyCommit o v ∨ c = Instr.secKeyErase o v →
      let sets (l : List KeySlot) : State := { s with sec := { s.sec with keys := l } }
      let empty : KeySlot := ⟨0, []⟩
      (wfld v F.secKeyCmdCommit = 0 → wfld v F.secKeyCmdErase = 0 → RegAnswered c s o C.ok 0 s) ∧
      (mayKey s o = false → wfld v F.secKeyCmdCommit = 1 ∨ wfld v F.secKeyCmdErase = 1 → RegAnswered c s o C.secKeyDenied 0 s) ∧
      (mayKey s o = true → wfld v F.secKeyCmdCommit = 1 → s.sec.stagedKind.getD 0 = 0 → RegAnswered c s o C.secKeyInvalid 0 s) ∧
      (∀ k, mayKey s o = true → wfld v F.secKeyCmdCommit = 1 → s.sec.stagedKind = some k → k ≠ 0 →
        (¬ kept ⟨k, stagedKeyBytes s⟩ → RegAnswered c s o C.secKeyInvalid 0 s) ∧
        (kept ⟨k, stagedKeyBytes s⟩ → wfld v F.secKeyCmdErase = 0 → RegAnswered c s o C.ok 0 (sets (keys ⟨k, stagedKeyBytes s⟩))) ∧
        (kept ⟨k, stagedKeyBytes s⟩ → wfld v F.secKeyCmdErase = 1 → kept empty → RegAnswered c s o C.ok 0 (sets (keys empty))) ∧
        (kept ⟨k, stagedKeyBytes s⟩ → wfld v F.secKeyCmdErase = 1 → ¬ kept empty →
          RegAnswered c s o C.secKeyInvalid 0 (sets (keys ⟨k, stagedKeyBytes s⟩)))) ∧
      (mayKey s o = true → wfld v F.secKeyCmdCommit = 0 → wfld v F.secKeyCmdErase = 1 →
        (kept empty → RegAnswered c s o C.ok 0 (sets (keys empty))) ∧ (¬ kept empty → RegAnswered c s o C.secKeyInvalid 0 s))) ∧
    (∃ u, RegAnswered (.secGrantDataAccess o (some v)) s o C.ok 0 u ∧ SMap.getD u.sec.grantWords (grantPtr s) 0 = v ∧
      grantPtr u = (grantPtr s + 1) % 1980) ∧
    (∀ c, c = Instr.secGrantCommit o v ∨ c = Instr.secGrantRevoke o v →
      (wfld v F.secGrantCmdCommit = 1 →
        (uncertain s = true → RegAnswered c s o C.secTimeUntrusted 0 s) ∧
        (uncertain s = false → grantOk s (stagedGrant s) = false → RegAnswered c s o C.secGrantBad 0 s) ∧
        (uncertain s = false → grantOk s (stagedGrant s) = true → ∃ u, RegAnswered c s o C.ok 0 u ∧
          u.sec.grantMax = some (fieldLE (stagedGrant s) 32 4) ∧ (wfld v F.secGrantCmdRevoke = 1 → u.sec.grant = none) ∧
          (wfld v F.secGrantCmdRevoke = 0 → ∃ g, u.sec.grant = some g ∧ g.rights = fieldLE (stagedGrant s) 14 2 ∧
            g.notBefore = fieldLE (stagedGrant s) 16 8 ∧ g.notAfter = fieldLE (stagedGrant s) 24 8 ∧
            (g.inForce = true ↔ g.notBefore ≤ s.tb.sec ∧ s.tb.sec < g.notAfter)))) ∧
      (wfld v F.secGrantCmdCommit = 0 → wfld v F.secGrantCmdRevoke = 1 →
        ∃ u, RegAnswered c s o C.ok 0 u ∧ u.sec.grant = none ∧ u.sec.grantMax = s.sec.grantMax) ∧
      (wfld v F.secGrantCmdCommit = 0 → wfld v F.secGrantCmdRevoke = 0 → RegAnswered c s o C.ok 0 s)) ∧
    (wfld v F.secAttCtlGo = 0 → ∃ u, RegAnswered (.secAttGo o v) s o C.ok 0 u ∧ u.sec = s.sec ∧ fld u F.secAttCtlSource = wfld v F.secAttCtlSource) ∧
    (wfld v F.secAttCtlGo = 1 →
      (s.sec.attesting ≠ none → RegAnswered (.secAttGo o v) s o C.secAttBusy 0 s) ∧
      (s.sec.attesting = none → ∃ u, RegAnswered (.secAttGo o v) s o C.ok 0 u ∧ u.sec.attReport = [] ∧ u.sec.attesting =
        some (wordBytes ((List.range 8).map (fun i => regWord s ⟨.secAttNonce, 0, i, 0⟩)))))) ∧
  (∀ (s : State) (o : Origin), Served s o false → ∃ u, RegAnswered (.secGrantDataAccess o none) s o C.ok
    (SMap.getD s.sec.grantWords (grantPtr s) 0) u ∧ grantPtr u = (grantPtr s + 1) % 1980 ∧ u.sec = s.sec) ∧
  (∀ (s : State), s.phase = .running →
    (s.sec.grant = none → exec .grantExpiry s = .next s ∧ exec .grantNotBefore s = .next s) ∧
    (∀ g, s.sec.grant = some g →
      (g.notAfter ≤ s.tb.sec → ∃ t, exec .grantExpiry s = .next t ∧ t.sec.grant = none) ∧
      (s.tb.sec < g.notAfter → exec .grantExpiry s = .next s) ∧
      (g.notBefore ≤ s.tb.sec → s.tb.sec < g.notAfter → ∃ t, exec .grantNotBefore s = .next t ∧ t.sec.grant = some { g with inForce := true }) ∧
      (s.tb.sec < g.notBefore ∨ g.notAfter ≤ s.tb.sec → exec .grantNotBefore s = .next s)) ∧
    (s.active ≠ none → s.sec.retPending = true → ∃ t, exec .retainedCommitTimer s = .next t ∧ committed s t) ∧
    (s.active = none ∨ s.sec.retPending = false → exec .retainedCommitTimer s = .next s) ∧
    (∀ nonce, s.active ≠ none → s.sec.attesting = some nonce → ∃ t, exec .attestationReady s = .next t ∧
      t.sec.attesting = none ∧ t.sec.attReport = attBody s nonce ++ padTo 7856 (Config.slhSign (idPub s) (attBody s nonce)) ∧ t.regs = s.regs) ∧
    (s.active = none ∨ s.sec.attesting = none → exec .attestationReady s = .next s))

/-! ### Calibration -/

/-- CAL_RUN_START starts the run of the item that is next in its gap, or takes λS out of service for it, or announces a cover. CAL_RUN_COMPLETE puts the values of a good run in force; a bad one,
CAL_RUN_TIMEOUT and references that differ leave the item's values and count towards three. CAL_BAD_RUN_RETRY makes the item due again, CAL_STARVED marks it once. CAL_CMD,
whichever of CAL_CMD_COMMIT and CAL_CMD_RUN carries it, commits a record whole or not at all and asks for a run; CAL_DATA_ACCESS stages and reads records;
CAL_WINDOW_ANNOUNCE runs this end's items of the lane announced. -/
def Obligations.CalibrationRuns : Prop :=
  (∀ (s : State) (cls inst : Nat),
    let after (c : Instr) (P : State → Prop) : Prop := ∃ t, exec c s = .next t ∧ P t
    let x := calItem s cls inst
    let bad (t : State) : Prop := ∃ r, calItem t cls inst =
      { x with running := false, asked := false, again := false, due := x.source == .factory || x.source == .none || x.hot, rank := r,
               bad := min 3 (x.bad + 1), badAt := some s.tb.sec, failed := x.failed || decide (2 ≤ x.bad) }
    (∀ m, calMayStart s cls inst = false → exec (.calRunStart cls inst m) s = .next s) ∧
    (calMayStart s cls inst = true → itemGap s cls inst = .now →
      after (.calRunStart cls inst true) (fun t => bad t ∧
        SMap.getD t.cal.mismatch (calBlock cls inst) 0 = SMap.getD s.cal.mismatch (calBlock cls inst) 0 + 1) ∧
      after (.calRunStart cls inst false) (fun t => calItem t cls inst = { x with running := true, starved := false })) ∧
    (∀ e p c m, calMayStart s cls inst = true → itemLane cls inst = some (e, p, c) → e < s.optics.length →
      (itemGap s cls inst = .spare → after (.calRunStart cls inst false) (fun t => (laneOf t e p 8).st = .cal ∧
        (∃ k ∈ laneItems e p 8, (calItem t k.1 k.2).running = true) ∧ (cls = 1 ∨ cls = 2 → (calItem t cls inst).running = true))) ∧
      (itemGap s cls inst = .cover → after (.calRunStart cls inst m) (fun t => (laneOf t e p c).planned = true ∧ calItem t cls inst = x))) ∧
    (x.running = false → exec (.calRunTimeout cls inst) s = .next s ∧
      ∀ w q tm mv, exec (.calRunComplete cls inst w q tm mv) s = .next s) ∧
    (x.running = true → after (.calRunTimeout cls inst) bad ∧ (∀ w q tm mv,
      (calGood cls q = false → after (.calRunComplete cls inst w q tm mv) bad) ∧
      (calGood cls q = true → after (.calRunComplete cls inst w q tm mv) (fun t =>
        let y := calItem t cls inst
        y.source = .measured ∧ y.due = (strays s cls (calMean s (calDomain cls inst)) (signedOf 12 tm) || mv) ∧ y.running = false ∧ y.failed = false ∧
        y.bad = 0 ∧ y.tref = tm % 4096 ∧ y.quality = q % 65536 ∧ y.effect = calSec s ∧ (w.length = calWords cls → y.values = w))))) ∧
    (x.badAt ≠ none → x.running = false → after (.calBadRunRetry cls inst) (fun t =>
      ∃ r, calItem t cls inst = { x with due := true, again := true, badAt := none, rank := r })) ∧
    (x.badAt = none ∨ x.running = true → exec (.calBadRunRetry cls inst) s = .next s) ∧
    (x.due = true → x.running = false → x.starved = false → calExists s.ident cls inst = true →
      after (.calStarved cls inst) (fun t => calItem t cls inst = { x with starved := true })) ∧
    (x.due = false ∨ x.running = true ∨ x.starved = true ∨ calExists s.ident cls inst = false → exec (.calStarved cls inst) s = .next s)) ∧
  (∀ (s : State) (o : Origin) (v : Word), Served s o true →
    let cls := calSelCls s
    let inst := calSelInst s
    let x := calItem s cls inst
    let commits : Prop := wfld v F.calCmdCommit = 1
    let runs : Prop := wfld v F.calCmdRun = 1
    (∀ c, c = Instr.calCmdCommit o v ∨ c = Instr.calCmdRun o v →
      (¬ commits → ¬ runs → RegAnswered c s o C.ok 0 s) ∧
      (commits ∨ runs → calExists s.ident cls inst = false → RegAnswered c s o C.regAbsent 0 s) ∧
      (commits → calExists s.ident cls inst = true → recordOk s cls inst (stagedRecord s) = false → RegAnswered c s o C.calRestoreBad 0 s) ∧
      (commits → calExists s.ident cls inst = true → recordOk s cls inst (stagedRecord s) = true →
        ∃ u, RegAnswered c s o C.ok 0 u ∧ (calItem u cls inst).source = .restored ∧ (calItem u cls inst).running = false ∧
          (calItem u cls inst).values = ((stagedRecord s).drop 3).take (calWords cls) ∧ (calItem u cls inst).effect = calSec s ∧
          (runs → (calItem u cls inst).asked = true ∧ (calItem u cls inst).due = true)) ∧
      (¬ commits → runs → calExists s.ident cls inst = true → ∃ u r, RegAnswered c s o C.ok 0 u ∧
        calItem u cls inst = { x with due := true, asked := true, rank := r })) ∧
    (∃ u, RegAnswered (.calDataAccess o (some v)) s o C.ok 0 u ∧ SMap.getD u.cal.staged (calSelWord s) 0 = v ∧
      calSelWord u = (calSelWord s + 1) % 64 ∧ u.cal.items = s.cal.items)) ∧
  (∀ (s : State) (o : Origin), Served s o false →
    ∃ u, RegAnswered (.calDataAccess o none) s o C.ok
        (if calExists s.ident (calSelCls s) (calSelInst s) then ((calRecord s (calSelCls s) (calSelInst s))[calSelWord s]?).getD 0 else 0) u ∧
      calSelWord u = (calSelWord s + 1) % 64 ∧ u.cal = s.cal) ∧
  (∀ (s : State) (e p c : Nat) (m : Bool),
    let i := 72 * e + 9 * p + c
    let taken : Prop := (laneOf s e p 8).st = .spareIdle ∧ (c = 8 ∨ (c < 8 ∧ (laneOf s e p c).st = .active ∧ spareReaches s e p c = true))
    (s.ident.engines ≤ e ∨ s.active = none ∨ portInCal s e p = true ∨ (c < 9 ∧ ¬ taken) → exec (.calWindowAnnounce e p ⟨c, m⟩) s = .next s) ∧
    (e < s.ident.engines → e < s.optics.length → s.active ≠ none → portInCal s e p = false → p < 8 → taken → laneRuns s e p c = false →
      mayRun s 1 i = true → mayRun s 2 i = true → ∃ t, exec (.calWindowAnnounce e p ⟨c, m⟩) s = .next t ∧
        (laneOf t e p c).st = (if m then .margin else .cal) ∧ (calItem t 1 i).running = !m ∧ (calItem t 2 i).running = !m ∧
        (c < 8 → (laneOf t e p 8).st = .covering ∧ (laneOf t e p 8).cover = some c)))

/-! ### Tally registers, delta registers, plain writes -/

/-- DLT_KEYREQ_WRITE and TAL_EPOCH_END_WRITE are refused where no bundle has the handle or its state does not accept them; the one raises the
key request of every delta stream that the bundle sources, the other puts an epoch marker behind those waiting at every tally homed here that
has an epoch value. TAL_SET_WRITE sets a tally at its home and TAL_REHOME_WRITE gives an orphaned tally a home, where the right to do so is in
force; a tally homed elsewhere and a station the bundle does not have leave all as it is (DESIGN CHOICE, log entry 49). REGISTER_WRITE_PLAIN
answers the code of an address that resolves to nothing, refuses a read-only register and FAB_CTL while a bundle is loaded, and else stores
what the access codes let it store; the links then follow FAB_CTL. -/
def Obligations.RegisterWritesTakeEffect : Prop :=
  ∀ (s : State) (o : Origin) (v : Word),
    (Served s o true →
      (byHandle s (wfld v F.dltKeyreqHandle) = none → RegAnswered (.dltKeyreqWrite o v) s o C.handleUnknown 0 s) ∧
      (∀ slot b, byHandle s (wfld v F.dltKeyreqHandle) = some (slot, b) →
        (b.st = .loading ∨ b.st = .planWait ∨ b.st = .evicting ∨ b.st = .faulted → RegAnswered (.dltKeyreqWrite o v) s o C.stateInvalid 0 s) ∧
        (b.st = .ready ∨ b.st = .running ∨ b.st = .held ∨ b.st = .evicted → ∃ u b', RegAnswered (.dltKeyreqWrite o v) s o C.ok 0 u ∧
          slotBundle u slot = some b' ∧ (∀ (i : Nat) (r : StreamRec) (x : Sys2Proof.Machine.Stream), b.img.streams[i]? = some r → b.streams[i]? = some x → r.kind = 2 → r.producer < 0xFFFE →
            isSource b.img r = true → ∃ y : Sys2Proof.Machine.Stream, b'.streams[i]? = some y ∧ y.delta.keyPending = true))) ∧
      (byHandle s (wfld v F.talEpochEndHandle) = none → RegAnswered (.talEpochEndWrite o v) s o C.handleUnknown 0 s) ∧
      (∀ slot b, byHandle s (wfld v F.talEpochEndHandle) = some (slot, b) →
        (b.st ≠ .running → b.st ≠ .held → RegAnswered (.talEpochEndWrite o v) s o C.stateInvalid 0 s) ∧
        (b.st = .running ∨ b.st = .held → ∃ u b', RegAnswered (.talEpochEndWrite o v) s o C.ok 0 u ∧ slotBundle u slot = some b' ∧
          ∀ (i : Nat) (r : TallyRec) (x : Tally), b.img.tallies[i]? = some r → b.tallies[i]? = some x → x.home.isSome = true → r.epoch ≠ 0xFFFFFFFF →
            b'.tallies[i]? = some { x with markers := x.markers ++ [none] })) ∧
      (talDbgActive s = false → RegAnswered (.talSetWrite o v) s o C.tallyDbgDenied 0 s ∧ RegAnswered (.talRehomeWrite o v) s o C.tallyDbgDenied 0 s) ∧
      (talDbgActive s = true → talSelected s = none → RegAnswered (.talSetWrite o v) s o C.handleUnknown 0 s ∧
        RegAnswered (.talRehomeWrite o v) s o C.handleUnknown 0 s) ∧
      (∀ slot i b x r, talDbgActive s = true → talSelected s = some (slot, i, b, x, r) →
        (r.capacity < v.toNat → RegAnswered (.talSetWrite o v) s o C.tallySetRange 0 s) ∧
        (v.toNat ≤ r.capacity → x.home.isSome = true → x.takers = [] → x.watchers = [] → ∃ u b', RegAnswered (.talSetWrite o v) s o C.ok 0 u ∧
          slotBundle u slot = some b' ∧ b'.tallies[i]? = some { x with value := v }) ∧
        (v.toNat ≤ r.capacity → x.home = none → RegAnswered (.talSetWrite o v) s o C.ok 0 s) ∧
        (x.orphaned = true → wfld v F.talRehomeStation ≠ 0xFFFF → b.stations.length ≤ wfld v F.talRehomeStation →
          RegAnswered (.talRehomeWrite o v) s o C.ok 0 s) ∧
        (x.orphaned = false → RegAnswered (.talRehomeWrite o v) s o C.tallyNotOrphaned 0 s) ∧
        (x.orphaned = true → wfld v F.talRehomeStation ≠ 0xFFFF → wfld v F.talRehomeStation < b.stations.length →
          ∃ u b', RegAnswered (.talRehomeWrite o v) s o C.ok 0 u ∧ slotBundle u slot = some b' ∧
            b'.tallies[i]? = some { x with home := some (wfld v F.talRehomeStation), value := 0, orphaned := false }) ∧
        (x.orphaned = true → wfld v F.talRehomeStation = 0xFFFF → ∃ u b', RegAnswered (.talRehomeWrite o v) s o C.ok 0 u ∧
          slotBundle u slot = some b' ∧
            b'.tallies[i]? = some { x with home := none, remoteHome := wfld v F.talRehomePostcode, orphaned := false }))) ∧
    (∀ a, regGate s o (isRed a) true = .served →
      (∀ c, resolve s a = .error c → RegAnswered (.registerWritePlain o a v) s o c 0 s) ∧
      (resolve s a = .ok ⟨.idPart, 0, 0, 0⟩ → RegAnswered (.registerWritePlain o a v) s o C.regReadOnly 0 s) ∧
      (resolve s a = .ok ⟨.fabCtl, 0, 0, 0⟩ → anyLoaded s = true → RegAnswered (.registerWritePlain o a v) s o C.regLocked 0 s) ∧
      (resolve s a = .ok ⟨.fabCtl, 0, 0, 0⟩ → anyLoaded s = false → ∃ u, RegAnswered (.registerWritePlain o a v) s o C.ok 0 (afterFabCtl u) ∧
        fld u F.fabCtlWeightVc0 = max 1 (wfld v F.fabCtlWeightVc0) ∧ fld u F.fabCtlTwoNet = (if s.ident.fm2 then 0 else wfld v F.fabCtlTwoNet) ∧
        u.sec = { s.sec with retPending := true } ∧ u.fab = s.fab ∧ u.optics = s.optics) ∧
      (resolve s a = .ok ⟨.pctSel, 0, 0, 0⟩ → ∃ u, RegAnswered (.registerWritePlain o a v) s o C.ok 0 u ∧ fld u F.pctSelEvent = v.toNat ∧
        u.sec = s.sec ∧ u.counts = s.counts) ∧
      (resolve s a = .ok ⟨.tbEvent, 0, 0, 0⟩ → ∃ u, RegAnswered (.registerWritePlain o a v) s o C.ok 0 u ∧
        (wfld v F.tbEventHoldover = 1 → fld u F.tbEventHoldover = 0) ∧
        (wfld v F.tbEventHoldover = 0 → fld u F.tbEventHoldover = fld s F.tbEventHoldover)))
end

