-- ==== Sys2Proof/Laws/Maps.lean ====
section
/-!
SUPPORT. Laws of the sparse maps and of memory: what a read gives after a write, and that every operation keeps the canonical
form.
-/
namespace Sys2Proof.Machine
open Sys2Proof

variable {α : Type}

/-! ### Sparse maps -/

@[simp] theorem SMap.find_insert_self (m : SMap α) (i : Nat) (v : α) : SMap.find (SMap.insert m i v) i = some v := by
  induction m with
  | nil => simp [SMap.insert, SMap.find]
  | cons e r ih =>
    obtain ⟨k, w⟩ := e
    unfold SMap.insert
    split
    · simp [SMap.find]
    · split
      · simp [SMap.find]
      · rename_i h1 h2
        simp [SMap.find, h2, ih]

theorem SMap.find_insert_ne (m : SMap α) {i j : Nat} (v : α) (h : j ≠ i) : SMap.find (SMap.insert m i v) j = SMap.find m j := by
  induction m with
  | nil => simp [SMap.insert, SMap.find, h]
  | cons e r ih =>
    obtain ⟨k, w⟩ := e
    unfold SMap.insert
    split
    · simp [SMap.find, h]
    · split
      · rename_i h2; subst h2; simp [SMap.find, h]
      · simp [SMap.find, ih]

@[simp] theorem SMap.find_erase_self (m : SMap α) (i : Nat) : SMap.find (SMap.erase m i) i = none := by
  induction m with
  | nil => rfl
  | cons e r ih =>
    obtain ⟨k, w⟩ := e
    unfold SMap.erase
    split
    · exact ih
    · rename_i h; simp [SMap.find, h, ih]

theorem SMap.find_erase_ne (m : SMap α) {i j : Nat} (h : j ≠ i) : SMap.find (SMap.erase m i) j = SMap.find m j := by
  induction m with
  | nil => rfl
  | cons e r ih =>
    obtain ⟨k, w⟩ := e
    unfold SMap.erase
    split
    · rename_i hk; subst hk; simp [SMap.find, h, ih]
    · simp [SMap.find, ih]

/-- What a key reads as after a key is made to read as `v`. -/
theorem SMap.getD_setD [DecidableEq α] (m : SMap α) (i j : Nat) (v d : α) :
    SMap.getD (SMap.setD m i v d) j d = if j = i then v else SMap.getD m j d := by
  unfold SMap.getD SMap.setD
  by_cases h : j = i
  · subst h
    split
    · simp [*]
    · simp
  · split
    · simp [SMap.find_erase_ne m h]
    · simp [SMap.find_insert_ne m v h]

theorem SMap.insert_insert (m : SMap α) (i : Nat) (v w : α) : SMap.insert (SMap.insert m i v) i w = SMap.insert m i w := by
  induction m with
  | nil => simp [SMap.insert]
  | cons e r ih =>
    obtain ⟨k, x⟩ := e
    by_cases h : i < k
    · simp [SMap.insert, h]
    · by_cases h' : i = k
      · subst h'; simp [SMap.insert]
      · simp [SMap.insert, h, h', ih]

theorem SMap.risingFrom_mono {lo lo' : Nat} {m : SMap α} (h : SMap.risingFrom lo m = true) (hl : lo' ≤ lo) :
    SMap.risingFrom lo' m = true := by
  cases m with
  | nil => rfl
  | cons e r =>
    obtain ⟨k, w⟩ := e
    simp only [SMap.risingFrom, Bool.and_eq_true, decide_eq_true_eq] at *
    exact ⟨by omega, h.2⟩

theorem SMap.find_lt {lo i : Nat} {m : SMap α} (h : SMap.risingFrom lo m = true) (hi : i < lo) : SMap.find m i = none := by
  induction m generalizing lo with
  | nil => rfl
  | cons e r ih =>
    obtain ⟨k, w⟩ := e
    simp only [SMap.risingFrom, Bool.and_eq_true, decide_eq_true_eq] at h
    have h1 : i ≠ k := by omega
    simp [SMap.find, h1, ih h.2 (by omega)]

theorem SMap.risingFrom_insert {lo : Nat} {m : SMap α} {i : Nat} {v : α} (h : SMap.risingFrom lo m = true) (hi : lo ≤ i) :
    SMap.risingFrom lo (SMap.insert m i v) = true := by
  induction m generalizing lo with
  | nil => simp [SMap.insert, SMap.risingFrom, hi]
  | cons e r ih =>
    obtain ⟨k, w⟩ := e
    simp only [SMap.risingFrom, Bool.and_eq_true, decide_eq_true_eq] at h
    unfold SMap.insert
    split
    · simp only [SMap.risingFrom, Bool.and_eq_true, decide_eq_true_eq]; exact ⟨hi, by omega, h.2⟩
    · split
      · subst i; simp only [SMap.risingFrom, Bool.and_eq_true, decide_eq_true_eq]; exact h
      · simp only [SMap.risingFrom, Bool.and_eq_true, decide_eq_true_eq]; exact ⟨h.1, ih h.2 (by omega)⟩

theorem SMap.risingFrom_erase {lo : Nat} {m : SMap α} {i : Nat} (h : SMap.risingFrom lo m = true) :
    SMap.risingFrom lo (SMap.erase m i) = true := by
  induction m generalizing lo with
  | nil => rfl
  | cons e r ih =>
    obtain ⟨k, w⟩ := e
    simp only [SMap.risingFrom, Bool.and_eq_true, decide_eq_true_eq] at h
    unfold SMap.erase
    split
    · exact SMap.risingFrom_mono (ih h.2) (by omega)
    · simp only [SMap.risingFrom, Bool.and_eq_true, decide_eq_true_eq]; exact ⟨h.1, ih h.2⟩

theorem SMap.mem_insert {m : SMap α} {i : Nat} {v : α} {e : Nat × α} (h : e ∈ SMap.insert m i v) : e ∈ m ∨ e = (i, v) := by
  induction m with
  | nil => simp [SMap.insert] at h; exact .inr h
  | cons x r ih =>
    obtain ⟨k, w⟩ := x
    unfold SMap.insert at h
    split at h
    · rcases List.mem_cons.1 h with h | h
      · exact .inr h
      · exact .inl h
    · split at h
      · rcases List.mem_cons.1 h with h | h
        · exact .inr h
        · exact .inl (List.mem_cons_of_mem _ h)
      · rcases List.mem_cons.1 h with h | h
        · exact .inl (h ▸ List.mem_cons_self)
        · rcases ih h with h | h
          · exact .inl (List.mem_cons_of_mem _ h)
          · exact .inr h

theorem SMap.mem_erase {m : SMap α} {i : Nat} {e : Nat × α} (h : e ∈ SMap.erase m i) : e ∈ m := by
  induction m with
  | nil => exact h
  | cons x r ih =>
    obtain ⟨k, w⟩ := x
    unfold SMap.erase at h
    split at h
    · exact List.mem_cons_of_mem _ (ih h)
    · rcases List.mem_cons.1 h with h | h
      · exact h ▸ List.mem_cons_self
      · exact List.mem_cons_of_mem _ (ih h)

theorem SMap.wf_iff [DecidableEq α] {d : α} {m : SMap α} :
    SMap.wf d m = true ↔ SMap.risingFrom 0 m = true ∧ ∀ e ∈ m, e.2 ≠ d := by
  unfold SMap.wf
  rw [Bool.and_eq_true, List.all_eq_true]
  exact and_congr_right fun _ => forall_congr' fun _ => imp_congr_right fun _ => decide_eq_true_iff

/-- Setting a key keeps the canonical form. -/
theorem SMap.setD_wf [DecidableEq α] {d : α} {m : SMap α} (i : Nat) (v : α) (h : SMap.wf d m = true) :
    SMap.wf d (SMap.setD m i v d) = true := by
  rw [SMap.wf_iff] at *
  unfold SMap.setD
  split
  · exact ⟨SMap.risingFrom_erase h.1, fun e he => h.2 e (SMap.mem_erase he)⟩
  · refine ⟨SMap.risingFrom_insert h.1 (Nat.zero_le _), fun e he => ?_⟩
    rcases SMap.mem_insert he with he | he
    · exact h.2 e he
    · subst he; assumption

theorem SMap.risingFrom_filter {lo : Nat} {m : SMap α} (p : Nat × α → Bool) (h : SMap.risingFrom lo m = true) :
    SMap.risingFrom lo (m.filter p) = true := by
  induction m generalizing lo with
  | nil => rfl
  | cons e r ih =>
    obtain ⟨k, w⟩ := e
    simp only [SMap.risingFrom, Bool.and_eq_true, decide_eq_true_eq] at h
    rw [List.filter_cons]
    split
    · simp only [SMap.risingFrom, Bool.and_eq_true, decide_eq_true_eq]; exact ⟨h.1, ih h.2⟩
    · exact SMap.risingFrom_mono (ih h.2) (by omega)

theorem SMap.filter_wf [DecidableEq α] {d : α} {m : SMap α} (p : Nat × α → Bool) (h : SMap.wf d m = true) :
    SMap.wf d (m.filter p) = true := by
  rw [SMap.wf_iff] at *
  exact ⟨SMap.risingFrom_filter p h.1, fun e he => h.2 e (List.mem_of_mem_filter he)⟩

/-! ### Memory -/

theorem Mem.wf_iff {m : Mem} : m.wf = true ↔ SMap.wf Mem.unlisted m.bytes = true ∧ SMap.wf (0#16) m.chk = true := by
  unfold Mem.wf; rw [Bool.and_eq_true]
theorem Mem.wiped_wf : Mem.wiped.wf = true := rfl
theorem Mem.put_wf {m : Mem} (a : Nat) (b : Byte) (h : m.wf = true) : (m.put a b).wf = true := by
  rw [Mem.wf_iff] at *; exact ⟨SMap.setD_wf a b h.1, h.2⟩
theorem Mem.setDiff_wf {m : Mem} (w : Nat) (d : BitVec 16) (h : m.wf = true) : (m.setDiff w d).wf = true := by
  rw [Mem.wf_iff] at *; exact ⟨h.1, SMap.setD_wf w d h.2⟩
/-- One byte after one byte is written. -/
@[simp] theorem Mem.byte_put (m : Mem) (a x : Nat) (b : Byte) : (m.put a b).byte x = if x = a then b else m.byte x :=
  SMap.getD_setD _ _ _ _ _
@[simp] theorem Mem.byte_setDiff (m : Mem) (w : Nat) (d : BitVec 16) (x : Nat) : (m.setDiff w d).byte x = m.byte x := rfl
@[simp] theorem Mem.diff_setDiff (m : Mem) (w x : Nat) (d : BitVec 16) : (m.setDiff w d).diff x = if x = w then d else m.diff x :=
  SMap.getD_setD _ _ _ _ _
@[simp] theorem Mem.diff_put (m : Mem) (a x : Nat) (b : Byte) : (m.put a b).diff x = m.diff x := rfl
/-- One byte after a run of bytes is written. -/
theorem Mem.byte_putBytes (m : Mem) (a x : Nat) (bs : List Byte) :
    (m.putBytes a bs).byte x = if a ≤ x ∧ x < a + bs.length then (bs[x - a]?).getD 0 else m.byte x := by
  induction bs generalizing m a with
  | nil => simp [Mem.putBytes]
  | cons b bs ih =>
    rw [Mem.putBytes, ih, Mem.byte_put]
    by_cases h : x = a
    · subst h; simp
    · by_cases h2 : a + 1 ≤ x ∧ x < a + 1 + bs.length
      · rw [if_pos h2, if_pos (by simp; omega)]
        have : x - a = (x - (a + 1)) + 1 := by omega
        rw [this]; rfl
      · rw [if_neg h2, if_neg h, if_neg (by simp; omega)]
theorem Mem.putBytes_wf {m : Mem} (a : Nat) (bs : List Byte) (h : m.wf = true) : (m.putBytes a bs).wf = true := by
  induction bs generalizing m a with
  | nil => exact h
  | cons b bs ih => exact ih (a + 1) (Mem.put_wf a b h)
/-- A fold of steps that each keep the canonical form keeps it. -/
theorem Mem.foldl_wf {β : Type} {g : Mem → β → Mem} (hg : ∀ m b, m.wf = true → (g m b).wf = true) (l : List β) {m : Mem}
    (h : m.wf = true) : (l.foldl g m).wf = true := by
  induction l generalizing m with
  | nil => exact h
  | cons b l ih => exact ih (hg m b h)
theorem Mem.store_wf {m : Mem} (a : Nat) (bs : List Byte) (h : m.wf = true) : (m.store a bs).wf = true := by
  unfold Mem.store
  refine Mem.putBytes_wf _ _ (Mem.foldl_wf (fun m w hm => ?_) _ h)
  split
  · exact Mem.setDiff_wf _ _ hm
  · split
    · exact hm
    · dsimp only; split
      · exact Mem.setDiff_wf _ _ (Mem.put_wf _ _ hm)
      · exact Mem.setDiff_wf _ _ hm
    · exact Mem.setDiff_wf _ _ hm
theorem Mem.storeCarried_wf {m : Mem} (a : Nat) (bs : List Byte) (c : List (Nat × BitVec 16)) (h : m.wf = true) :
    (m.storeCarried a bs c).wf = true :=
  Mem.foldl_wf (fun _ _ hm => Mem.setDiff_wf _ _ hm) _ (Mem.putBytes_wf _ _ h)
theorem Mem.wipe_wf {m : Mem} (a n : Nat) (h : m.wf = true) : (m.wipe a n).wf = true := by
  rw [Mem.wf_iff] at *; exact ⟨SMap.filter_wf _ h.1, SMap.filter_wf _ h.2⟩
theorem Mem.poisonWord_wf {m : Mem} (w : Nat) (h : m.wf = true) : (m.poisonWord w).wf = true := Mem.setDiff_wf _ _ h
theorem Mem.upset_wf {m : Mem} (u : Upset) (h : m.wf = true) : (m.upset u).wf = true :=
  Mem.setDiff_wf _ _ (Mem.putBytes_wf _ _ h)
/-- A correcting read keeps the canonical form (R234). -/
theorem Mem.correct_wf {m : Mem} (a n : Nat) (h : m.wf = true) : (m.correct a n).mem.wf = true := by
  unfold Mem.correct
  suffices ∀ (l : List (Nat × BitVec 16)) (s : Scrub), s.mem.wf = true →
      (l.foldl (fun (s : Scrub) e =>
        match classify e.2 with
        | .clean => s
        | .single i v =>
          let m' := if i < 16 then s.mem.put (16 * e.1 + i) (s.mem.byte (16 * e.1 + i) ^^^ BitVec.ofNat 8 v) else s.mem
          ⟨m'.setDiff e.1 0#16, s.fixed ++ [e.1], s.bad⟩
        | .poison => { s with bad := s.bad ++ [(e.1, true)] }
        | .uncorrectable => { s with bad := s.bad ++ [(e.1, false)] }) s).mem.wf = true from this _ _ h
  intro l
  induction l with
  | nil => intro s hs; exact hs
  | cons e l ih =>
    intro s hs
    rw [List.foldl_cons]
    apply ih
    split
    · exact hs
    · dsimp only; split
      · exact Mem.setDiff_wf _ _ (Mem.put_wf _ _ hs)
      · exact Mem.setDiff_wf _ _ hs
    · exact hs
    · exact hs
theorem Mem.poisonAll_wf {m : Mem} (l : List (Nat × Bool)) (h : m.wf = true) : (l.foldl (fun m e => m.poisonWord e.1) m).wf = true :=
  Mem.foldl_wf (fun _ _ hm => Mem.poisonWord_wf _ hm) _ h
theorem Mem.readSlot_wf {m : Mem} (a : Nat) (keep : Bool) (h : m.wf = true) : (m.readSlot a keep).mem.wf = true := by
  have h1 := Mem.poisonAll_wf (m.correct a slotBytes).bad (Mem.correct_wf a slotBytes h)
  unfold Mem.readSlot
  dsimp only
  split
  · split
    · exact h1
    · exact Mem.setDiff_wf _ _ (Mem.putBytes_wf _ _ h1)
  · exact h1
theorem Mem.writeSlot_wf {m : Mem} (a : Nat) (t : Tile) (h : m.wf = true) : (m.writeSlot a t).wf = true := Mem.storeCarried_wf _ _ _ h

end Sys2Proof.Machine
end

