-- ==== Sys2Proof/Laws/State.lean ====
section
/-!
SUPPORT. What each named update of the state leaves alone: one lemma for each field and update, so that no later proof unfolds
an update.
-/
namespace Sys2Proof.Machine
open Sys2Proof

@[simp] theorem emit_pending (s : State) (e : Emit) : (emit s e).pending = s.pending := rfl
@[simp] theorem emit_free (s : State) (e : Emit) : (emit s e).free = s.free := rfl
@[simp] theorem emit_ident (s : State) (e : Emit) : (emit s e).ident = s.ident := rfl
@[simp] theorem emit_phase (s : State) (e : Emit) : (emit s e).phase = s.phase := rfl
@[simp] theorem emit_regs (s : State) (e : Emit) : (emit s e).regs = s.regs := rfl
@[simp] theorem emit_tb (s : State) (e : Emit) : (emit s e).tb = s.tb := rfl
@[simp] theorem emit_servo (s : State) (e : Emit) : (emit s e).servo = s.servo := rfl
@[simp] theorem emit_sessions (s : State) (e : Emit) : (emit s e).sessions = s.sessions := rfl
@[simp] theorem emit_stages (s : State) (e : Emit) : (emit s e).stages = s.stages := rfl
@[simp] theorem emit_sessionNext (s : State) (e : Emit) : (emit s e).sessionNext = s.sessionNext := rfl
@[simp] theorem emit_partials (s : State) (e : Emit) : (emit s e).partials = s.partials := rfl
@[simp] theorem emit_untagged (s : State) (e : Emit) : (emit s e).untagged = s.untagged := rfl
@[simp] theorem emit_pl (s : State) (e : Emit) : (emit s e).pl = s.pl := rfl
@[simp] theorem emit_dies (s : State) (e : Emit) : (emit s e).dies = s.dies := rfl
@[simp] theorem emit_remembered (s : State) (e : Emit) : (emit s e).remembered = s.remembered := rfl
@[simp] theorem emit_counts (s : State) (e : Emit) : (emit s e).counts = s.counts := rfl
@[simp] theorem emit_sampling (s : State) (e : Emit) : (emit s e).sampling = s.sampling := rfl
@[simp] theorem emit_ha (s : State) (e : Emit) : (emit s e).ha = s.ha := rfl
@[simp] theorem emit_hb (s : State) (e : Emit) : (emit s e).hb = s.hb := rfl
@[simp] theorem emit_active (s : State) (e : Emit) : (emit s e).active = s.active := rfl
@[simp] theorem emit_last (s : State) (e : Emit) : (emit s e).last = s.last := rfl
@[simp] theorem emit_xlink (s : State) (e : Emit) : (emit s e).xlink = s.xlink := rfl
@[simp] theorem emit_synced (s : State) (e : Emit) : (emit s e).synced = s.synced := rfl
@[simp] theorem emit_heldReports (s : State) (e : Emit) : (emit s e).heldReports = s.heldReports := rfl
@[simp] theorem emit_fw (s : State) (e : Emit) : (emit s e).fw = s.fw := rfl
@[simp] theorem emit_optime (s : State) (e : Emit) : (emit s e).optime = s.optime := rfl
@[simp] theorem emit_optimeSaved (s : State) (e : Emit) : (emit s e).optimeSaved = s.optimeSaved := rfl
@[simp] theorem emit_cycles (s : State) (e : Emit) : (emit s e).cycles = s.cycles := rfl
@[simp] theorem emit_roceRate (s : State) (e : Emit) : (emit s e).roceRate = s.roceRate := rfl
@[simp] theorem emit_sec (s : State) (e : Emit) : (emit s e).sec = s.sec := rfl
@[simp] theorem emit_pace (s : State) (e : Emit) : (emit s e).pace = s.pace := rfl
@[simp] theorem emit_fab (s : State) (e : Emit) : (emit s e).fab = s.fab := rfl
@[simp] theorem emit_optics (s : State) (e : Emit) : (emit s e).optics = s.optics := rfl
@[simp] theorem emit_cal (s : State) (e : Emit) : (emit s e).cal = s.cal := rfl
@[simp] theorem emit_engA (s : State) (e : Emit) : (emit s e).engA = s.engA := rfl
@[simp] theorem emit_engB (s : State) (e : Emit) : (emit s e).engB = s.engB := rfl
@[simp] theorem emit_drivers (s : State) (e : Emit) : (emit s e).drivers = s.drivers := rfl
@[simp] theorem emit_elec (s : State) (e : Emit) : (emit s e).elec = s.elec := rfl

@[simp] theorem takeFree_pending (s : State) : (takeFree s).2.pending = s.pending := rfl
@[simp] theorem takeFree_out (s : State) : (takeFree s).2.out = s.out := rfl
@[simp] theorem takeFree_ident (s : State) : (takeFree s).2.ident = s.ident := rfl
@[simp] theorem takeFree_phase (s : State) : (takeFree s).2.phase = s.phase := rfl
@[simp] theorem takeFree_regs (s : State) : (takeFree s).2.regs = s.regs := rfl
@[simp] theorem takeFree_tb (s : State) : (takeFree s).2.tb = s.tb := rfl
@[simp] theorem takeFree_servo (s : State) : (takeFree s).2.servo = s.servo := rfl
@[simp] theorem takeFree_sessions (s : State) : (takeFree s).2.sessions = s.sessions := rfl
@[simp] theorem takeFree_stages (s : State) : (takeFree s).2.stages = s.stages := rfl
@[simp] theorem takeFree_sessionNext (s : State) : (takeFree s).2.sessionNext = s.sessionNext := rfl
@[simp] theorem takeFree_partials (s : State) : (takeFree s).2.partials = s.partials := rfl
@[simp] theorem takeFree_untagged (s : State) : (takeFree s).2.untagged = s.untagged := rfl
@[simp] theorem takeFree_pl (s : State) : (takeFree s).2.pl = s.pl := rfl
@[simp] theorem takeFree_dies (s : State) : (takeFree s).2.dies = s.dies := rfl
@[simp] theorem takeFree_remembered (s : State) : (takeFree s).2.remembered = s.remembered := rfl
@[simp] theorem takeFree_counts (s : State) : (takeFree s).2.counts = s.counts := rfl
@[simp] theorem takeFree_sampling (s : State) : (takeFree s).2.sampling = s.sampling := rfl
@[simp] theorem takeFree_ha (s : State) : (takeFree s).2.ha = s.ha := rfl
@[simp] theorem takeFree_hb (s : State) : (takeFree s).2.hb = s.hb := rfl
@[simp] theorem takeFree_active (s : State) : (takeFree s).2.active = s.active := rfl
@[simp] theorem takeFree_last (s : State) : (takeFree s).2.last = s.last := rfl
@[simp] theorem takeFree_xlink (s : State) : (takeFree s).2.xlink = s.xlink := rfl
@[simp] theorem takeFree_synced (s : State) : (takeFree s).2.synced = s.synced := rfl
@[simp] theorem takeFree_heldReports (s : State) : (takeFree s).2.heldReports = s.heldReports := rfl
@[simp] theorem takeFree_fw (s : State) : (takeFree s).2.fw = s.fw := rfl
@[simp] theorem takeFree_optime (s : State) : (takeFree s).2.optime = s.optime := rfl
@[simp] theorem takeFree_optimeSaved (s : State) : (takeFree s).2.optimeSaved = s.optimeSaved := rfl
@[simp] theorem takeFree_cycles (s : State) : (takeFree s).2.cycles = s.cycles := rfl
@[simp] theorem takeFree_roceRate (s : State) : (takeFree s).2.roceRate = s.roceRate := rfl
@[simp] theorem takeFree_sec (s : State) : (takeFree s).2.sec = s.sec := rfl
@[simp] theorem takeFree_pace (s : State) : (takeFree s).2.pace = s.pace := rfl
@[simp] theorem takeFree_fab (s : State) : (takeFree s).2.fab = s.fab := rfl
@[simp] theorem takeFree_optics (s : State) : (takeFree s).2.optics = s.optics := rfl
@[simp] theorem takeFree_cal (s : State) : (takeFree s).2.cal = s.cal := rfl
@[simp] theorem takeFree_engA (s : State) : (takeFree s).2.engA = s.engA := rfl
@[simp] theorem takeFree_engB (s : State) : (takeFree s).2.engB = s.engB := rfl
@[simp] theorem takeFree_drivers (s : State) : (takeFree s).2.drivers = s.drivers := rfl
@[simp] theorem takeFree_elec (s : State) : (takeFree s).2.elec = s.elec := rfl

@[simp] theorem setRegWord_pending (s : State) (r : RegRef) (v : Word) : (setRegWord s r v).pending = s.pending := rfl
@[simp] theorem setRegWord_out (s : State) (r : RegRef) (v : Word) : (setRegWord s r v).out = s.out := rfl
@[simp] theorem setRegWord_free (s : State) (r : RegRef) (v : Word) : (setRegWord s r v).free = s.free := rfl
@[simp] theorem setRegWord_ident (s : State) (r : RegRef) (v : Word) : (setRegWord s r v).ident = s.ident := rfl
@[simp] theorem setRegWord_phase (s : State) (r : RegRef) (v : Word) : (setRegWord s r v).phase = s.phase := rfl
@[simp] theorem setRegWord_tb (s : State) (r : RegRef) (v : Word) : (setRegWord s r v).tb = s.tb := rfl
@[simp] theorem setRegWord_servo (s : State) (r : RegRef) (v : Word) : (setRegWord s r v).servo = s.servo := rfl
@[simp] theorem setRegWord_sessions (s : State) (r : RegRef) (v : Word) : (setRegWord s r v).sessions = s.sessions := rfl
@[simp] theorem setRegWord_stages (s : State) (r : RegRef) (v : Word) : (setRegWord s r v).stages = s.stages := rfl
@[simp] theorem setRegWord_sessionNext (s : State) (r : RegRef) (v : Word) : (setRegWord s r v).sessionNext = s.sessionNext := rfl
@[simp] theorem setRegWord_partials (s : State) (r : RegRef) (v : Word) : (setRegWord s r v).partials = s.partials := rfl
@[simp] theorem setRegWord_untagged (s : State) (r : RegRef) (v : Word) : (setRegWord s r v).untagged = s.untagged := rfl
@[simp] theorem setRegWord_pl (s : State) (r : RegRef) (v : Word) : (setRegWord s r v).pl = s.pl := rfl
@[simp] theorem setRegWord_dies (s : State) (r : RegRef) (v : Word) : (setRegWord s r v).dies = s.dies := rfl
@[simp] theorem setRegWord_remembered (s : State) (r : RegRef) (v : Word) : (setRegWord s r v).remembered = s.remembered := rfl
@[simp] theorem setRegWord_counts (s : State) (r : RegRef) (v : Word) : (setRegWord s r v).counts = s.counts := rfl
@[simp] theorem setRegWord_sampling (s : State) (r : RegRef) (v : Word) : (setRegWord s r v).sampling = s.sampling := rfl
@[simp] theorem setRegWord_ha (s : State) (r : RegRef) (v : Word) : (setRegWord s r v).ha = s.ha := rfl
@[simp] theorem setRegWord_hb (s : State) (r : RegRef) (v : Word) : (setRegWord s r v).hb = s.hb := rfl
@[simp] theorem setRegWord_active (s : State) (r : RegRef) (v : Word) : (setRegWord s r v).active = s.active := rfl
@[simp] theorem setRegWord_last (s : State) (r : RegRef) (v : Word) : (setRegWord s r v).last = s.last := rfl
@[simp] theorem setRegWord_xlink (s : State) (r : RegRef) (v : Word) : (setRegWord s r v).xlink = s.xlink := rfl
@[simp] theorem setRegWord_synced (s : State) (r : RegRef) (v : Word) : (setRegWord s r v).synced = s.synced := rfl
@[simp] theorem setRegWord_heldReports (s : State) (r : RegRef) (v : Word) : (setRegWord s r v).heldReports = s.heldReports := rfl
@[simp] theorem setRegWord_fw (s : State) (r : RegRef) (v : Word) : (setRegWord s r v).fw = s.fw := rfl
@[simp] theorem setRegWord_optime (s : State) (r : RegRef) (v : Word) : (setRegWord s r v).optime = s.optime := rfl
@[simp] theorem setRegWord_optimeSaved (s : State) (r : RegRef) (v : Word) : (setRegWord s r v).optimeSaved = s.optimeSaved := rfl
@[simp] theorem setRegWord_cycles (s : State) (r : RegRef) (v : Word) : (setRegWord s r v).cycles = s.cycles := rfl
@[simp] theorem setRegWord_roceRate (s : State) (r : RegRef) (v : Word) : (setRegWord s r v).roceRate = s.roceRate := rfl
@[simp] theorem setRegWord_sec (s : State) (r : RegRef) (v : Word) : (setRegWord s r v).sec = s.sec := rfl
@[simp] theorem setRegWord_pace (s : State) (r : RegRef) (v : Word) : (setRegWord s r v).pace = s.pace := rfl
@[simp] theorem setRegWord_fab (s : State) (r : RegRef) (v : Word) : (setRegWord s r v).fab = s.fab := rfl
@[simp] theorem setRegWord_optics (s : State) (r : RegRef) (v : Word) : (setRegWord s r v).optics = s.optics := rfl
@[simp] theorem setRegWord_cal (s : State) (r : RegRef) (v : Word) : (setRegWord s r v).cal = s.cal := rfl
@[simp] theorem setRegWord_engA (s : State) (r : RegRef) (v : Word) : (setRegWord s r v).engA = s.engA := rfl
@[simp] theorem setRegWord_engB (s : State) (r : RegRef) (v : Word) : (setRegWord s r v).engB = s.engB := rfl
@[simp] theorem setRegWord_drivers (s : State) (r : RegRef) (v : Word) : (setRegWord s r v).drivers = s.drivers := rfl
@[simp] theorem setRegWord_elec (s : State) (r : RegRef) (v : Word) : (setRegWord s r v).elec = s.elec := rfl

@[simp] theorem setFldAt_pending (s : State) (f : Fld) (a b c v : Nat) : (setFldAt s f a b c v).pending = s.pending := rfl
@[simp] theorem setFldAt_out (s : State) (f : Fld) (a b c v : Nat) : (setFldAt s f a b c v).out = s.out := rfl
@[simp] theorem setFldAt_free (s : State) (f : Fld) (a b c v : Nat) : (setFldAt s f a b c v).free = s.free := rfl
@[simp] theorem setFldAt_ident (s : State) (f : Fld) (a b c v : Nat) : (setFldAt s f a b c v).ident = s.ident := rfl
@[simp] theorem setFldAt_phase (s : State) (f : Fld) (a b c v : Nat) : (setFldAt s f a b c v).phase = s.phase := rfl
@[simp] theorem setFldAt_tb (s : State) (f : Fld) (a b c v : Nat) : (setFldAt s f a b c v).tb = s.tb := rfl
@[simp] theorem setFldAt_servo (s : State) (f : Fld) (a b c v : Nat) : (setFldAt s f a b c v).servo = s.servo := rfl
@[simp] theorem setFldAt_sessions (s : State) (f : Fld) (a b c v : Nat) : (setFldAt s f a b c v).sessions = s.sessions := rfl
@[simp] theorem setFldAt_stages (s : State) (f : Fld) (a b c v : Nat) : (setFldAt s f a b c v).stages = s.stages := rfl
@[simp] theorem setFldAt_sessionNext (s : State) (f : Fld) (a b c v : Nat) : (setFldAt s f a b c v).sessionNext = s.sessionNext := rfl
@[simp] theorem setFldAt_partials (s : State) (f : Fld) (a b c v : Nat) : (setFldAt s f a b c v).partials = s.partials := rfl
@[simp] theorem setFldAt_untagged (s : State) (f : Fld) (a b c v : Nat) : (setFldAt s f a b c v).untagged = s.untagged := rfl
@[simp] theorem setFldAt_pl (s : State) (f : Fld) (a b c v : Nat) : (setFldAt s f a b c v).pl = s.pl := rfl
@[simp] theorem setFldAt_dies (s : State) (f : Fld) (a b c v : Nat) : (setFldAt s f a b c v).dies = s.dies := rfl
@[simp] theorem setFldAt_remembered (s : State) (f : Fld) (a b c v : Nat) : (setFldAt s f a b c v).remembered = s.remembered := rfl
@[simp] theorem setFldAt_counts (s : State) (f : Fld) (a b c v : Nat) : (setFldAt s f a b c v).counts = s.counts := rfl
@[simp] theorem setFldAt_sampling (s : State) (f : Fld) (a b c v : Nat) : (setFldAt s f a b c v).sampling = s.sampling := rfl
@[simp] theorem setFldAt_ha (s : State) (f : Fld) (a b c v : Nat) : (setFldAt s f a b c v).ha = s.ha := rfl
@[simp] theorem setFldAt_hb (s : State) (f : Fld) (a b c v : Nat) : (setFldAt s f a b c v).hb = s.hb := rfl
@[simp] theorem setFldAt_active (s : State) (f : Fld) (a b c v : Nat) : (setFldAt s f a b c v).active = s.active := rfl
@[simp] theorem setFldAt_last (s : State) (f : Fld) (a b c v : Nat) : (setFldAt s f a b c v).last = s.last := rfl
@[simp] theorem setFldAt_xlink (s : State) (f : Fld) (a b c v : Nat) : (setFldAt s f a b c v).xlink = s.xlink := rfl
@[simp] theorem setFldAt_synced (s : State) (f : Fld) (a b c v : Nat) : (setFldAt s f a b c v).synced = s.synced := rfl
@[simp] theorem setFldAt_heldReports (s : State) (f : Fld) (a b c v : Nat) : (setFldAt s f a b c v).heldReports = s.heldReports := rfl
@[simp] theorem setFldAt_fw (s : State) (f : Fld) (a b c v : Nat) : (setFldAt s f a b c v).fw = s.fw := rfl
@[simp] theorem setFldAt_optime (s : State) (f : Fld) (a b c v : Nat) : (setFldAt s f a b c v).optime = s.optime := rfl
@[simp] theorem setFldAt_optimeSaved (s : State) (f : Fld) (a b c v : Nat) : (setFldAt s f a b c v).optimeSaved = s.optimeSaved := rfl
@[simp] theorem setFldAt_cycles (s : State) (f : Fld) (a b c v : Nat) : (setFldAt s f a b c v).cycles = s.cycles := rfl
@[simp] theorem setFldAt_roceRate (s : State) (f : Fld) (a b c v : Nat) : (setFldAt s f a b c v).roceRate = s.roceRate := rfl
@[simp] theorem setFldAt_sec (s : State) (f : Fld) (a b c v : Nat) : (setFldAt s f a b c v).sec = s.sec := rfl
@[simp] theorem setFldAt_pace (s : State) (f : Fld) (a b c v : Nat) : (setFldAt s f a b c v).pace = s.pace := rfl
@[simp] theorem setFldAt_fab (s : State) (f : Fld) (a b c v : Nat) : (setFldAt s f a b c v).fab = s.fab := rfl
@[simp] theorem setFldAt_optics (s : State) (f : Fld) (a b c v : Nat) : (setFldAt s f a b c v).optics = s.optics := rfl
@[simp] theorem setFldAt_cal (s : State) (f : Fld) (a b c v : Nat) : (setFldAt s f a b c v).cal = s.cal := rfl
@[simp] theorem setFldAt_engA (s : State) (f : Fld) (a b c v : Nat) : (setFldAt s f a b c v).engA = s.engA := rfl
@[simp] theorem setFldAt_engB (s : State) (f : Fld) (a b c v : Nat) : (setFldAt s f a b c v).engB = s.engB := rfl
@[simp] theorem setFldAt_drivers (s : State) (f : Fld) (a b c v : Nat) : (setFldAt s f a b c v).drivers = s.drivers := rfl
@[simp] theorem setFldAt_elec (s : State) (f : Fld) (a b c v : Nat) : (setFldAt s f a b c v).elec = s.elec := rfl

@[simp] theorem setFld_pending (s : State) (f : Fld) (v : Nat) : (setFld s f v).pending = s.pending := rfl
@[simp] theorem setFld_out (s : State) (f : Fld) (v : Nat) : (setFld s f v).out = s.out := rfl
@[simp] theorem setFld_free (s : State) (f : Fld) (v : Nat) : (setFld s f v).free = s.free := rfl
@[simp] theorem setFld_ident (s : State) (f : Fld) (v : Nat) : (setFld s f v).ident = s.ident := rfl
@[simp] theorem setFld_phase (s : State) (f : Fld) (v : Nat) : (setFld s f v).phase = s.phase := rfl
@[simp] theorem setFld_tb (s : State) (f : Fld) (v : Nat) : (setFld s f v).tb = s.tb := rfl
@[simp] theorem setFld_servo (s : State) (f : Fld) (v : Nat) : (setFld s f v).servo = s.servo := rfl
@[simp] theorem setFld_sessions (s : State) (f : Fld) (v : Nat) : (setFld s f v).sessions = s.sessions := rfl
@[simp] theorem setFld_stages (s : State) (f : Fld) (v : Nat) : (setFld s f v).stages = s.stages := rfl
@[simp] theorem setFld_sessionNext (s : State) (f : Fld) (v : Nat) : (setFld s f v).sessionNext = s.sessionNext := rfl
@[simp] theorem setFld_partials (s : State) (f : Fld) (v : Nat) : (setFld s f v).partials = s.partials := rfl
@[simp] theorem setFld_untagged (s : State) (f : Fld) (v : Nat) : (setFld s f v).untagged = s.untagged := rfl
@[simp] theorem setFld_pl (s : State) (f : Fld) (v : Nat) : (setFld s f v).pl = s.pl := rfl
@[simp] theorem setFld_dies (s : State) (f : Fld) (v : Nat) : (setFld s f v).dies = s.dies := rfl
@[simp] theorem setFld_remembered (s : State) (f : Fld) (v : Nat) : (setFld s f v).remembered = s.remembered := rfl
@[simp] theorem setFld_counts (s : State) (f : Fld) (v : Nat) : (setFld s f v).counts = s.counts := rfl
@[simp] theorem setFld_sampling (s : State) (f : Fld) (v : Nat) : (setFld s f v).sampling = s.sampling := rfl
@[simp] theorem setFld_ha (s : State) (f : Fld) (v : Nat) : (setFld s f v).ha = s.ha := rfl
@[simp] theorem setFld_hb (s : State) (f : Fld) (v : Nat) : (setFld s f v).hb = s.hb := rfl
@[simp] theorem setFld_active (s : State) (f : Fld) (v : Nat) : (setFld s f v).active = s.active := rfl
@[simp] theorem setFld_last (s : State) (f : Fld) (v : Nat) : (setFld s f v).last = s.last := rfl
@[simp] theorem setFld_xlink (s : State) (f : Fld) (v : Nat) : (setFld s f v).xlink = s.xlink := rfl
@[simp] theorem setFld_synced (s : State) (f : Fld) (v : Nat) : (setFld s f v).synced = s.synced := rfl
@[simp] theorem setFld_heldReports (s : State) (f : Fld) (v : Nat) : (setFld s f v).heldReports = s.heldReports := rfl
@[simp] theorem setFld_fw (s : State) (f : Fld) (v : Nat) : (setFld s f v).fw = s.fw := rfl
@[simp] theorem setFld_optime (s : State) (f : Fld) (v : Nat) : (setFld s f v).optime = s.optime := rfl
@[simp] theorem setFld_optimeSaved (s : State) (f : Fld) (v : Nat) : (setFld s f v).optimeSaved = s.optimeSaved := rfl
@[simp] theorem setFld_cycles (s : State) (f : Fld) (v : Nat) : (setFld s f v).cycles = s.cycles := rfl
@[simp] theorem setFld_roceRate (s : State) (f : Fld) (v : Nat) : (setFld s f v).roceRate = s.roceRate := rfl
@[simp] theorem setFld_sec (s : State) (f : Fld) (v : Nat) : (setFld s f v).sec = s.sec := rfl
@[simp] theorem setFld_pace (s : State) (f : Fld) (v : Nat) : (setFld s f v).pace = s.pace := rfl
@[simp] theorem setFld_fab (s : State) (f : Fld) (v : Nat) : (setFld s f v).fab = s.fab := rfl
@[simp] theorem setFld_optics (s : State) (f : Fld) (v : Nat) : (setFld s f v).optics = s.optics := rfl
@[simp] theorem setFld_cal (s : State) (f : Fld) (v : Nat) : (setFld s f v).cal = s.cal := rfl
@[simp] theorem setFld_engA (s : State) (f : Fld) (v : Nat) : (setFld s f v).engA = s.engA := rfl
@[simp] theorem setFld_engB (s : State) (f : Fld) (v : Nat) : (setFld s f v).engB = s.engB := rfl
@[simp] theorem setFld_drivers (s : State) (f : Fld) (v : Nat) : (setFld s f v).drivers = s.drivers := rfl
@[simp] theorem setFld_elec (s : State) (f : Fld) (v : Nat) : (setFld s f v).elec = s.elec := rfl

@[simp] theorem bumpFldAt_pending (s : State) (f : Fld) (a b c n : Nat) : (bumpFldAt s f a b c n).pending = s.pending := rfl
@[simp] theorem bumpFldAt_out (s : State) (f : Fld) (a b c n : Nat) : (bumpFldAt s f a b c n).out = s.out := rfl
@[simp] theorem bumpFldAt_free (s : State) (f : Fld) (a b c n : Nat) : (bumpFldAt s f a b c n).free = s.free := rfl
@[simp] theorem bumpFldAt_ident (s : State) (f : Fld) (a b c n : Nat) : (bumpFldAt s f a b c n).ident = s.ident := rfl
@[simp] theorem bumpFldAt_phase (s : State) (f : Fld) (a b c n : Nat) : (bumpFldAt s f a b c n).phase = s.phase := rfl
@[simp] theorem bumpFldAt_tb (s : State) (f : Fld) (a b c n : Nat) : (bumpFldAt s f a b c n).tb = s.tb := rfl
@[simp] theorem bumpFldAt_servo (s : State) (f : Fld) (a b c n : Nat) : (bumpFldAt s f a b c n).servo = s.servo := rfl
@[simp] theorem bumpFldAt_sessions (s : State) (f : Fld) (a b c n : Nat) : (bumpFldAt s f a b c n).sessions = s.sessions := rfl
@[simp] theorem bumpFldAt_stages (s : State) (f : Fld) (a b c n : Nat) : (bumpFldAt s f a b c n).stages = s.stages := rfl
@[simp] theorem bumpFldAt_sessionNext (s : State) (f : Fld) (a b c n : Nat) : (bumpFldAt s f a b c n).sessionNext = s.sessionNext := rfl
@[simp] theorem bumpFldAt_partials (s : State) (f : Fld) (a b c n : Nat) : (bumpFldAt s f a b c n).partials = s.partials := rfl
@[simp] theorem bumpFldAt_untagged (s : State) (f : Fld) (a b c n : Nat) : (bumpFldAt s f a b c n).untagged = s.untagged := rfl
@[simp] theorem bumpFldAt_pl (s : State) (f : Fld) (a b c n : Nat) : (bumpFldAt s f a b c n).pl = s.pl := rfl
@[simp] theorem bumpFldAt_dies (s : State) (f : Fld) (a b c n : Nat) : (bumpFldAt s f a b c n).dies = s.dies := rfl
@[simp] theorem bumpFldAt_remembered (s : State) (f : Fld) (a b c n : Nat) : (bumpFldAt s f a b c n).remembered = s.remembered := rfl
@[simp] theorem bumpFldAt_counts (s : State) (f : Fld) (a b c n : Nat) : (bumpFldAt s f a b c n).counts = s.counts := rfl
@[simp] theorem bumpFldAt_sampling (s : State) (f : Fld) (a b c n : Nat) : (bumpFldAt s f a b c n).sampling = s.sampling := rfl
@[simp] theorem bumpFldAt_ha (s : State) (f : Fld) (a b c n : Nat) : (bumpFldAt s f a b c n).ha = s.ha := rfl
@[simp] theorem bumpFldAt_hb (s : State) (f : Fld) (a b c n : Nat) : (bumpFldAt s f a b c n).hb = s.hb := rfl
@[simp] theorem bumpFldAt_active (s : State) (f : Fld) (a b c n : Nat) : (bumpFldAt s f a b c n).active = s.active := rfl
@[simp] theorem bumpFldAt_last (s : State) (f : Fld) (a b c n : Nat) : (bumpFldAt s f a b c n).last = s.last := rfl
@[simp] theorem bumpFldAt_xlink (s : State) (f : Fld) (a b c n : Nat) : (bumpFldAt s f a b c n).xlink = s.xlink := rfl
@[simp] theorem bumpFldAt_synced (s : State) (f : Fld) (a b c n : Nat) : (bumpFldAt s f a b c n).synced = s.synced := rfl
@[simp] theorem bumpFldAt_heldReports (s : State) (f : Fld) (a b c n : Nat) : (bumpFldAt s f a b c n).heldReports = s.heldReports := rfl
@[simp] theorem bumpFldAt_fw (s : State) (f : Fld) (a b c n : Nat) : (bumpFldAt s f a b c n).fw = s.fw := rfl
@[simp] theorem bumpFldAt_optime (s : State) (f : Fld) (a b c n : Nat) : (bumpFldAt s f a b c n).optime = s.optime := rfl
@[simp] theorem bumpFldAt_optimeSaved (s : State) (f : Fld) (a b c n : Nat) : (bumpFldAt s f a b c n).optimeSaved = s.optimeSaved := rfl
@[simp] theorem bumpFldAt_cycles (s : State) (f : Fld) (a b c n : Nat) : (bumpFldAt s f a b c n).cycles = s.cycles := rfl
@[simp] theorem bumpFldAt_roceRate (s : State) (f : Fld) (a b c n : Nat) : (bumpFldAt s f a b c n).roceRate = s.roceRate := rfl
@[simp] theorem bumpFldAt_sec (s : State) (f : Fld) (a b c n : Nat) : (bumpFldAt s f a b c n).sec = s.sec := rfl
@[simp] theorem bumpFldAt_pace (s : State) (f : Fld) (a b c n : Nat) : (bumpFldAt s f a b c n).pace = s.pace := rfl
@[simp] theorem bumpFldAt_fab (s : State) (f : Fld) (a b c n : Nat) : (bumpFldAt s f a b c n).fab = s.fab := rfl
@[simp] theorem bumpFldAt_optics (s : State) (f : Fld) (a b c n : Nat) : (bumpFldAt s f a b c n).optics = s.optics := rfl
@[simp] theorem bumpFldAt_cal (s : State) (f : Fld) (a b c n : Nat) : (bumpFldAt s f a b c n).cal = s.cal := rfl
@[simp] theorem bumpFldAt_engA (s : State) (f : Fld) (a b c n : Nat) : (bumpFldAt s f a b c n).engA = s.engA := rfl
@[simp] theorem bumpFldAt_engB (s : State) (f : Fld) (a b c n : Nat) : (bumpFldAt s f a b c n).engB = s.engB := rfl
@[simp] theorem bumpFldAt_drivers (s : State) (f : Fld) (a b c n : Nat) : (bumpFldAt s f a b c n).drivers = s.drivers := rfl
@[simp] theorem bumpFldAt_elec (s : State) (f : Fld) (a b c n : Nat) : (bumpFldAt s f a b c n).elec = s.elec := rfl

@[simp] theorem satFldAt_pending (s : State) (f : Fld) (a b c n : Nat) : (satFldAt s f a b c n).pending = s.pending := rfl
@[simp] theorem satFldAt_out (s : State) (f : Fld) (a b c n : Nat) : (satFldAt s f a b c n).out = s.out := rfl
@[simp] theorem satFldAt_free (s : State) (f : Fld) (a b c n : Nat) : (satFldAt s f a b c n).free = s.free := rfl
@[simp] theorem satFldAt_ident (s : State) (f : Fld) (a b c n : Nat) : (satFldAt s f a b c n).ident = s.ident := rfl
@[simp] theorem satFldAt_phase (s : State) (f : Fld) (a b c n : Nat) : (satFldAt s f a b c n).phase = s.phase := rfl
@[simp] theorem satFldAt_tb (s : State) (f : Fld) (a b c n : Nat) : (satFldAt s f a b c n).tb = s.tb := rfl
@[simp] theorem satFldAt_servo (s : State) (f : Fld) (a b c n : Nat) : (satFldAt s f a b c n).servo = s.servo := rfl
@[simp] theorem satFldAt_sessions (s : State) (f : Fld) (a b c n : Nat) : (satFldAt s f a b c n).sessions = s.sessions := rfl
@[simp] theorem satFldAt_stages (s : State) (f : Fld) (a b c n : Nat) : (satFldAt s f a b c n).stages = s.stages := rfl
@[simp] theorem satFldAt_sessionNext (s : State) (f : Fld) (a b c n : Nat) : (satFldAt s f a b c n).sessionNext = s.sessionNext := rfl
@[simp] theorem satFldAt_partials (s : State) (f : Fld) (a b c n : Nat) : (satFldAt s f a b c n).partials = s.partials := rfl
@[simp] theorem satFldAt_untagged (s : State) (f : Fld) (a b c n : Nat) : (satFldAt s f a b c n).untagged = s.untagged := rfl
@[simp] theorem satFldAt_pl (s : State) (f : Fld) (a b c n : Nat) : (satFldAt s f a b c n).pl = s.pl := rfl
@[simp] theorem satFldAt_dies (s : State) (f : Fld) (a b c n : Nat) : (satFldAt s f a b c n).dies = s.dies := rfl
@[simp] theorem satFldAt_remembered (s : State) (f : Fld) (a b c n : Nat) : (satFldAt s f a b c n).remembered = s.remembered := rfl
@[simp] theorem satFldAt_counts (s : State) (f : Fld) (a b c n : Nat) : (satFldAt s f a b c n).counts = s.counts := rfl
@[simp] theorem satFldAt_sampling (s : State) (f : Fld) (a b c n : Nat) : (satFldAt s f a b c n).sampling = s.sampling := rfl
@[simp] theorem satFldAt_ha (s : State) (f : Fld) (a b c n : Nat) : (satFldAt s f a b c n).ha = s.ha := rfl
@[simp] theorem satFldAt_hb (s : State) (f : Fld) (a b c n : Nat) : (satFldAt s f a b c n).hb = s.hb := rfl
@[simp] theorem satFldAt_active (s : State) (f : Fld) (a b c n : Nat) : (satFldAt s f a b c n).active = s.active := rfl
@[simp] theorem satFldAt_last (s : State) (f : Fld) (a b c n : Nat) : (satFldAt s f a b c n).last = s.last := rfl
@[simp] theorem satFldAt_xlink (s : State) (f : Fld) (a b c n : Nat) : (satFldAt s f a b c n).xlink = s.xlink := rfl
@[simp] theorem satFldAt_synced (s : State) (f : Fld) (a b c n : Nat) : (satFldAt s f a b c n).synced = s.synced := rfl
@[simp] theorem satFldAt_heldReports (s : State) (f : Fld) (a b c n : Nat) : (satFldAt s f a b c n).heldReports = s.heldReports := rfl
@[simp] theorem satFldAt_fw (s : State) (f : Fld) (a b c n : Nat) : (satFldAt s f a b c n).fw = s.fw := rfl
@[simp] theorem satFldAt_optime (s : State) (f : Fld) (a b c n : Nat) : (satFldAt s f a b c n).optime = s.optime := rfl
@[simp] theorem satFldAt_optimeSaved (s : State) (f : Fld) (a b c n : Nat) : (satFldAt s f a b c n).optimeSaved = s.optimeSaved := rfl
@[simp] theorem satFldAt_cycles (s : State) (f : Fld) (a b c n : Nat) : (satFldAt s f a b c n).cycles = s.cycles := rfl
@[simp] theorem satFldAt_roceRate (s : State) (f : Fld) (a b c n : Nat) : (satFldAt s f a b c n).roceRate = s.roceRate := rfl
@[simp] theorem satFldAt_sec (s : State) (f : Fld) (a b c n : Nat) : (satFldAt s f a b c n).sec = s.sec := rfl
@[simp] theorem satFldAt_pace (s : State) (f : Fld) (a b c n : Nat) : (satFldAt s f a b c n).pace = s.pace := rfl
@[simp] theorem satFldAt_fab (s : State) (f : Fld) (a b c n : Nat) : (satFldAt s f a b c n).fab = s.fab := rfl
@[simp] theorem satFldAt_optics (s : State) (f : Fld) (a b c n : Nat) : (satFldAt s f a b c n).optics = s.optics := rfl
@[simp] theorem satFldAt_cal (s : State) (f : Fld) (a b c n : Nat) : (satFldAt s f a b c n).cal = s.cal := rfl
@[simp] theorem satFldAt_engA (s : State) (f : Fld) (a b c n : Nat) : (satFldAt s f a b c n).engA = s.engA := rfl
@[simp] theorem satFldAt_engB (s : State) (f : Fld) (a b c n : Nat) : (satFldAt s f a b c n).engB = s.engB := rfl
@[simp] theorem satFldAt_drivers (s : State) (f : Fld) (a b c n : Nat) : (satFldAt s f a b c n).drivers = s.drivers := rfl
@[simp] theorem satFldAt_elec (s : State) (f : Fld) (a b c n : Nat) : (satFldAt s f a b c n).elec = s.elec := rfl

@[simp] theorem setEvent_pending (s : State) (f : Fld) : (setEvent s f).pending = s.pending := rfl
@[simp] theorem setEvent_out (s : State) (f : Fld) : (setEvent s f).out = s.out := rfl
@[simp] theorem setEvent_free (s : State) (f : Fld) : (setEvent s f).free = s.free := rfl
@[simp] theorem setEvent_ident (s : State) (f : Fld) : (setEvent s f).ident = s.ident := rfl
@[simp] theorem setEvent_phase (s : State) (f : Fld) : (setEvent s f).phase = s.phase := rfl
@[simp] theorem setEvent_tb (s : State) (f : Fld) : (setEvent s f).tb = s.tb := rfl
@[simp] theorem setEvent_servo (s : State) (f : Fld) : (setEvent s f).servo = s.servo := rfl
@[simp] theorem setEvent_sessions (s : State) (f : Fld) : (setEvent s f).sessions = s.sessions := rfl
@[simp] theorem setEvent_stages (s : State) (f : Fld) : (setEvent s f).stages = s.stages := rfl
@[simp] theorem setEvent_sessionNext (s : State) (f : Fld) : (setEvent s f).sessionNext = s.sessionNext := rfl
@[simp] theorem setEvent_partials (s : State) (f : Fld) : (setEvent s f).partials = s.partials := rfl
@[simp] theorem setEvent_untagged (s : State) (f : Fld) : (setEvent s f).untagged = s.untagged := rfl
@[simp] theorem setEvent_pl (s : State) (f : Fld) : (setEvent s f).pl = s.pl := rfl
@[simp] theorem setEvent_dies (s : State) (f : Fld) : (setEvent s f).dies = s.dies := rfl
@[simp] theorem setEvent_remembered (s : State) (f : Fld) : (setEvent s f).remembered = s.remembered := rfl
@[simp] theorem setEvent_counts (s : State) (f : Fld) : (setEvent s f).counts = s.counts := rfl
@[simp] theorem setEvent_sampling (s : State) (f : Fld) : (setEvent s f).sampling = s.sampling := rfl
@[simp] theorem setEvent_ha (s : State) (f : Fld) : (setEvent s f).ha = s.ha := rfl
@[simp] theorem setEvent_hb (s : State) (f : Fld) : (setEvent s f).hb = s.hb := rfl
@[simp] theorem setEvent_active (s : State) (f : Fld) : (setEvent s f).active = s.active := rfl
@[simp] theorem setEvent_last (s : State) (f : Fld) : (setEvent s f).last = s.last := rfl
@[simp] theorem setEvent_xlink (s : State) (f : Fld) : (setEvent s f).xlink = s.xlink := rfl
@[simp] theorem setEvent_synced (s : State) (f : Fld) : (setEvent s f).synced = s.synced := rfl
@[simp] theorem setEvent_heldReports (s : State) (f : Fld) : (setEvent s f).heldReports = s.heldReports := rfl
@[simp] theorem setEvent_fw (s : State) (f : Fld) : (setEvent s f).fw = s.fw := rfl
@[simp] theorem setEvent_optime (s : State) (f : Fld) : (setEvent s f).optime = s.optime := rfl
@[simp] theorem setEvent_optimeSaved (s : State) (f : Fld) : (setEvent s f).optimeSaved = s.optimeSaved := rfl
@[simp] theorem setEvent_cycles (s : State) (f : Fld) : (setEvent s f).cycles = s.cycles := rfl
@[simp] theorem setEvent_roceRate (s : State) (f : Fld) : (setEvent s f).roceRate = s.roceRate := rfl
@[simp] theorem setEvent_sec (s : State) (f : Fld) : (setEvent s f).sec = s.sec := rfl
@[simp] theorem setEvent_pace (s : State) (f : Fld) : (setEvent s f).pace = s.pace := rfl
@[simp] theorem setEvent_fab (s : State) (f : Fld) : (setEvent s f).fab = s.fab := rfl
@[simp] theorem setEvent_optics (s : State) (f : Fld) : (setEvent s f).optics = s.optics := rfl
@[simp] theorem setEvent_cal (s : State) (f : Fld) : (setEvent s f).cal = s.cal := rfl
@[simp] theorem setEvent_engA (s : State) (f : Fld) : (setEvent s f).engA = s.engA := rfl
@[simp] theorem setEvent_engB (s : State) (f : Fld) : (setEvent s f).engB = s.engB := rfl
@[simp] theorem setEvent_drivers (s : State) (f : Fld) : (setEvent s f).drivers = s.drivers := rfl
@[simp] theorem setEvent_elec (s : State) (f : Fld) : (setEvent s f).elec = s.elec := rfl

@[simp] theorem setEventAt_pending (s : State) (f : Fld) (a b c : Nat) : (setEventAt s f a b c).pending = s.pending := rfl
@[simp] theorem setEventAt_out (s : State) (f : Fld) (a b c : Nat) : (setEventAt s f a b c).out = s.out := rfl
@[simp] theorem setEventAt_free (s : State) (f : Fld) (a b c : Nat) : (setEventAt s f a b c).free = s.free := rfl
@[simp] theorem setEventAt_ident (s : State) (f : Fld) (a b c : Nat) : (setEventAt s f a b c).ident = s.ident := rfl
@[simp] theorem setEventAt_phase (s : State) (f : Fld) (a b c : Nat) : (setEventAt s f a b c).phase = s.phase := rfl
@[simp] theorem setEventAt_tb (s : State) (f : Fld) (a b c : Nat) : (setEventAt s f a b c).tb = s.tb := rfl
@[simp] theorem setEventAt_servo (s : State) (f : Fld) (a b c : Nat) : (setEventAt s f a b c).servo = s.servo := rfl
@[simp] theorem setEventAt_sessions (s : State) (f : Fld) (a b c : Nat) : (setEventAt s f a b c).sessions = s.sessions := rfl
@[simp] theorem setEventAt_stages (s : State) (f : Fld) (a b c : Nat) : (setEventAt s f a b c).stages = s.stages := rfl
@[simp] theorem setEventAt_sessionNext (s : State) (f : Fld) (a b c : Nat) : (setEventAt s f a b c).sessionNext = s.sessionNext := rfl
@[simp] theorem setEventAt_partials (s : State) (f : Fld) (a b c : Nat) : (setEventAt s f a b c).partials = s.partials := rfl
@[simp] theorem setEventAt_untagged (s : State) (f : Fld) (a b c : Nat) : (setEventAt s f a b c).untagged = s.untagged := rfl
@[simp] theorem setEventAt_pl (s : State) (f : Fld) (a b c : Nat) : (setEventAt s f a b c).pl = s.pl := rfl
@[simp] theorem setEventAt_dies (s : State) (f : Fld) (a b c : Nat) : (setEventAt s f a b c).dies = s.dies := rfl
@[simp] theorem setEventAt_remembered (s : State) (f : Fld) (a b c : Nat) : (setEventAt s f a b c).remembered = s.remembered := rfl
@[simp] theorem setEventAt_counts (s : State) (f : Fld) (a b c : Nat) : (setEventAt s f a b c).counts = s.counts := rfl
@[simp] theorem setEventAt_sampling (s : State) (f : Fld) (a b c : Nat) : (setEventAt s f a b c).sampling = s.sampling := rfl
@[simp] theorem setEventAt_ha (s : State) (f : Fld) (a b c : Nat) : (setEventAt s f a b c).ha = s.ha := rfl
@[simp] theorem setEventAt_hb (s : State) (f : Fld) (a b c : Nat) : (setEventAt s f a b c).hb = s.hb := rfl
@[simp] theorem setEventAt_active (s : State) (f : Fld) (a b c : Nat) : (setEventAt s f a b c).active = s.active := rfl
@[simp] theorem setEventAt_last (s : State) (f : Fld) (a b c : Nat) : (setEventAt s f a b c).last = s.last := rfl
@[simp] theorem setEventAt_xlink (s : State) (f : Fld) (a b c : Nat) : (setEventAt s f a b c).xlink = s.xlink := rfl
@[simp] theorem setEventAt_synced (s : State) (f : Fld) (a b c : Nat) : (setEventAt s f a b c).synced = s.synced := rfl
@[simp] theorem setEventAt_heldReports (s : State) (f : Fld) (a b c : Nat) : (setEventAt s f a b c).heldReports = s.heldReports := rfl
@[simp] theorem setEventAt_fw (s : State) (f : Fld) (a b c : Nat) : (setEventAt s f a b c).fw = s.fw := rfl
@[simp] theorem setEventAt_optime (s : State) (f : Fld) (a b c : Nat) : (setEventAt s f a b c).optime = s.optime := rfl
@[simp] theorem setEventAt_optimeSaved (s : State) (f : Fld) (a b c : Nat) : (setEventAt s f a b c).optimeSaved = s.optimeSaved := rfl
@[simp] theorem setEventAt_cycles (s : State) (f : Fld) (a b c : Nat) : (setEventAt s f a b c).cycles = s.cycles := rfl
@[simp] theorem setEventAt_roceRate (s : State) (f : Fld) (a b c : Nat) : (setEventAt s f a b c).roceRate = s.roceRate := rfl
@[simp] theorem setEventAt_sec (s : State) (f : Fld) (a b c : Nat) : (setEventAt s f a b c).sec = s.sec := rfl
@[simp] theorem setEventAt_pace (s : State) (f : Fld) (a b c : Nat) : (setEventAt s f a b c).pace = s.pace := rfl
@[simp] theorem setEventAt_fab (s : State) (f : Fld) (a b c : Nat) : (setEventAt s f a b c).fab = s.fab := rfl
@[simp] theorem setEventAt_optics (s : State) (f : Fld) (a b c : Nat) : (setEventAt s f a b c).optics = s.optics := rfl
@[simp] theorem setEventAt_cal (s : State) (f : Fld) (a b c : Nat) : (setEventAt s f a b c).cal = s.cal := rfl
@[simp] theorem setEventAt_engA (s : State) (f : Fld) (a b c : Nat) : (setEventAt s f a b c).engA = s.engA := rfl
@[simp] theorem setEventAt_engB (s : State) (f : Fld) (a b c : Nat) : (setEventAt s f a b c).engB = s.engB := rfl
@[simp] theorem setEventAt_drivers (s : State) (f : Fld) (a b c : Nat) : (setEventAt s f a b c).drivers = s.drivers := rfl
@[simp] theorem setEventAt_elec (s : State) (f : Fld) (a b c : Nat) : (setEventAt s f a b c).elec = s.elec := rfl

@[simp] theorem setHub_pending (s : State) (h : Hub) (x : HubSt) : (setHub s h x).pending = s.pending := by cases h <;> rfl
@[simp] theorem setHub_out (s : State) (h : Hub) (x : HubSt) : (setHub s h x).out = s.out := by cases h <;> rfl
@[simp] theorem setHub_free (s : State) (h : Hub) (x : HubSt) : (setHub s h x).free = s.free := by cases h <;> rfl
@[simp] theorem setHub_ident (s : State) (h : Hub) (x : HubSt) : (setHub s h x).ident = s.ident := by cases h <;> rfl
@[simp] theorem setHub_phase (s : State) (h : Hub) (x : HubSt) : (setHub s h x).phase = s.phase := by cases h <;> rfl
@[simp] theorem setHub_regs (s : State) (h : Hub) (x : HubSt) : (setHub s h x).regs = s.regs := by cases h <;> rfl
@[simp] theorem setHub_tb (s : State) (h : Hub) (x : HubSt) : (setHub s h x).tb = s.tb := by cases h <;> rfl
@[simp] theorem setHub_servo (s : State) (h : Hub) (x : HubSt) : (setHub s h x).servo = s.servo := by cases h <;> rfl
@[simp] theorem setHub_sessions (s : State) (h : Hub) (x : HubSt) : (setHub s h x).sessions = s.sessions := by cases h <;> rfl
@[simp] theorem setHub_stages (s : State) (h : Hub) (x : HubSt) : (setHub s h x).stages = s.stages := by cases h <;> rfl
@[simp] theorem setHub_sessionNext (s : State) (h : Hub) (x : HubSt) : (setHub s h x).sessionNext = s.sessionNext := by cases h <;> rfl
@[simp] theorem setHub_partials (s : State) (h : Hub) (x : HubSt) : (setHub s h x).partials = s.partials := by cases h <;> rfl
@[simp] theorem setHub_untagged (s : State) (h : Hub) (x : HubSt) : (setHub s h x).untagged = s.untagged := by cases h <;> rfl
@[simp] theorem setHub_pl (s : State) (h : Hub) (x : HubSt) : (setHub s h x).pl = s.pl := by cases h <;> rfl
@[simp] theorem setHub_dies (s : State) (h : Hub) (x : HubSt) : (setHub s h x).dies = s.dies := by cases h <;> rfl
@[simp] theorem setHub_remembered (s : State) (h : Hub) (x : HubSt) : (setHub s h x).remembered = s.remembered := by cases h <;> rfl
@[simp] theorem setHub_counts (s : State) (h : Hub) (x : HubSt) : (setHub s h x).counts = s.counts := by cases h <;> rfl
@[simp] theorem setHub_sampling (s : State) (h : Hub) (x : HubSt) : (setHub s h x).sampling = s.sampling := by cases h <;> rfl
@[simp] theorem setHub_active (s : State) (h : Hub) (x : HubSt) : (setHub s h x).active = s.active := by cases h <;> rfl
@[simp] theorem setHub_last (s : State) (h : Hub) (x : HubSt) : (setHub s h x).last = s.last := by cases h <;> rfl
@[simp] theorem setHub_xlink (s : State) (h : Hub) (x : HubSt) : (setHub s h x).xlink = s.xlink := by cases h <;> rfl
@[simp] theorem setHub_synced (s : State) (h : Hub) (x : HubSt) : (setHub s h x).synced = s.synced := by cases h <;> rfl
@[simp] theorem setHub_heldReports (s : State) (h : Hub) (x : HubSt) : (setHub s h x).heldReports = s.heldReports := by cases h <;> rfl
@[simp] theorem setHub_fw (s : State) (h : Hub) (x : HubSt) : (setHub s h x).fw = s.fw := by cases h <;> rfl
@[simp] theorem setHub_optime (s : State) (h : Hub) (x : HubSt) : (setHub s h x).optime = s.optime := by cases h <;> rfl
@[simp] theorem setHub_optimeSaved (s : State) (h : Hub) (x : HubSt) : (setHub s h x).optimeSaved = s.optimeSaved := by cases h <;> rfl
@[simp] theorem setHub_cycles (s : State) (h : Hub) (x : HubSt) : (setHub s h x).cycles = s.cycles := by cases h <;> rfl
@[simp] theorem setHub_roceRate (s : State) (h : Hub) (x : HubSt) : (setHub s h x).roceRate = s.roceRate := by cases h <;> rfl
@[simp] theorem setHub_sec (s : State) (h : Hub) (x : HubSt) : (setHub s h x).sec = s.sec := by cases h <;> rfl
@[simp] theorem setHub_pace (s : State) (h : Hub) (x : HubSt) : (setHub s h x).pace = s.pace := by cases h <;> rfl
@[simp] theorem setHub_fab (s : State) (h : Hub) (x : HubSt) : (setHub s h x).fab = s.fab := by cases h <;> rfl
@[simp] theorem setHub_optics (s : State) (h : Hub) (x : HubSt) : (setHub s h x).optics = s.optics := by cases h <;> rfl
@[simp] theorem setHub_cal (s : State) (h : Hub) (x : HubSt) : (setHub s h x).cal = s.cal := by cases h <;> rfl
@[simp] theorem setHub_engA (s : State) (h : Hub) (x : HubSt) : (setHub s h x).engA = s.engA := by cases h <;> rfl
@[simp] theorem setHub_engB (s : State) (h : Hub) (x : HubSt) : (setHub s h x).engB = s.engB := by cases h <;> rfl
@[simp] theorem setHub_drivers (s : State) (h : Hub) (x : HubSt) : (setHub s h x).drivers = s.drivers := by cases h <;> rfl
@[simp] theorem setHub_elec (s : State) (h : Hub) (x : HubSt) : (setHub s h x).elec = s.elec := by cases h <;> rfl

@[simp] theorem setSlot_pending (s : State) (n : Nat) (b : Bundle) : (setSlot s n b).pending = s.pending := rfl
@[simp] theorem setSlot_out (s : State) (n : Nat) (b : Bundle) : (setSlot s n b).out = s.out := rfl
@[simp] theorem setSlot_free (s : State) (n : Nat) (b : Bundle) : (setSlot s n b).free = s.free := rfl
@[simp] theorem setSlot_ident (s : State) (n : Nat) (b : Bundle) : (setSlot s n b).ident = s.ident := rfl
@[simp] theorem setSlot_phase (s : State) (n : Nat) (b : Bundle) : (setSlot s n b).phase = s.phase := rfl
@[simp] theorem setSlot_regs (s : State) (n : Nat) (b : Bundle) : (setSlot s n b).regs = s.regs := rfl
@[simp] theorem setSlot_tb (s : State) (n : Nat) (b : Bundle) : (setSlot s n b).tb = s.tb := rfl
@[simp] theorem setSlot_servo (s : State) (n : Nat) (b : Bundle) : (setSlot s n b).servo = s.servo := rfl
@[simp] theorem setSlot_sessions (s : State) (n : Nat) (b : Bundle) : (setSlot s n b).sessions = s.sessions := rfl
@[simp] theorem setSlot_stages (s : State) (n : Nat) (b : Bundle) : (setSlot s n b).stages = s.stages := rfl
@[simp] theorem setSlot_sessionNext (s : State) (n : Nat) (b : Bundle) : (setSlot s n b).sessionNext = s.sessionNext := rfl
@[simp] theorem setSlot_partials (s : State) (n : Nat) (b : Bundle) : (setSlot s n b).partials = s.partials := rfl
@[simp] theorem setSlot_untagged (s : State) (n : Nat) (b : Bundle) : (setSlot s n b).untagged = s.untagged := rfl
@[simp] theorem setSlot_dies (s : State) (n : Nat) (b : Bundle) : (setSlot s n b).dies = s.dies := rfl
@[simp] theorem setSlot_remembered (s : State) (n : Nat) (b : Bundle) : (setSlot s n b).remembered = s.remembered := rfl
@[simp] theorem setSlot_counts (s : State) (n : Nat) (b : Bundle) : (setSlot s n b).counts = s.counts := rfl
@[simp] theorem setSlot_sampling (s : State) (n : Nat) (b : Bundle) : (setSlot s n b).sampling = s.sampling := rfl
@[simp] theorem setSlot_ha (s : State) (n : Nat) (b : Bundle) : (setSlot s n b).ha = s.ha := rfl
@[simp] theorem setSlot_hb (s : State) (n : Nat) (b : Bundle) : (setSlot s n b).hb = s.hb := rfl
@[simp] theorem setSlot_active (s : State) (n : Nat) (b : Bundle) : (setSlot s n b).active = s.active := rfl
@[simp] theorem setSlot_last (s : State) (n : Nat) (b : Bundle) : (setSlot s n b).last = s.last := rfl
@[simp] theorem setSlot_xlink (s : State) (n : Nat) (b : Bundle) : (setSlot s n b).xlink = s.xlink := rfl
@[simp] theorem setSlot_synced (s : State) (n : Nat) (b : Bundle) : (setSlot s n b).synced = s.synced := rfl
@[simp] theorem setSlot_heldReports (s : State) (n : Nat) (b : Bundle) : (setSlot s n b).heldReports = s.heldReports := rfl
@[simp] theorem setSlot_fw (s : State) (n : Nat) (b : Bundle) : (setSlot s n b).fw = s.fw := rfl
@[simp] theorem setSlot_optime (s : State) (n : Nat) (b : Bundle) : (setSlot s n b).optime = s.optime := rfl
@[simp] theorem setSlot_optimeSaved (s : State) (n : Nat) (b : Bundle) : (setSlot s n b).optimeSaved = s.optimeSaved := rfl
@[simp] theorem setSlot_cycles (s : State) (n : Nat) (b : Bundle) : (setSlot s n b).cycles = s.cycles := rfl
@[simp] theorem setSlot_roceRate (s : State) (n : Nat) (b : Bundle) : (setSlot s n b).roceRate = s.roceRate := rfl
@[simp] theorem setSlot_sec (s : State) (n : Nat) (b : Bundle) : (setSlot s n b).sec = s.sec := rfl
@[simp] theorem setSlot_pace (s : State) (n : Nat) (b : Bundle) : (setSlot s n b).pace = s.pace := rfl
@[simp] theorem setSlot_fab (s : State) (n : Nat) (b : Bundle) : (setSlot s n b).fab = s.fab := rfl
@[simp] theorem setSlot_optics (s : State) (n : Nat) (b : Bundle) : (setSlot s n b).optics = s.optics := rfl
@[simp] theorem setSlot_cal (s : State) (n : Nat) (b : Bundle) : (setSlot s n b).cal = s.cal := rfl
@[simp] theorem setSlot_engA (s : State) (n : Nat) (b : Bundle) : (setSlot s n b).engA = s.engA := rfl
@[simp] theorem setSlot_engB (s : State) (n : Nat) (b : Bundle) : (setSlot s n b).engB = s.engB := rfl
@[simp] theorem setSlot_drivers (s : State) (n : Nat) (b : Bundle) : (setSlot s n b).drivers = s.drivers := rfl
@[simp] theorem setSlot_elec (s : State) (n : Nat) (b : Bundle) : (setSlot s n b).elec = s.elec := rfl

@[simp] theorem clearSlot_pending (s : State) (n : Nat) : (clearSlot s n).pending = s.pending := rfl
@[simp] theorem clearSlot_out (s : State) (n : Nat) : (clearSlot s n).out = s.out := rfl
@[simp] theorem clearSlot_free (s : State) (n : Nat) : (clearSlot s n).free = s.free := rfl
@[simp] theorem clearSlot_ident (s : State) (n : Nat) : (clearSlot s n).ident = s.ident := rfl
@[simp] theorem clearSlot_phase (s : State) (n : Nat) : (clearSlot s n).phase = s.phase := rfl
@[simp] theorem clearSlot_regs (s : State) (n : Nat) : (clearSlot s n).regs = s.regs := rfl
@[simp] theorem clearSlot_tb (s : State) (n : Nat) : (clearSlot s n).tb = s.tb := rfl
@[simp] theorem clearSlot_servo (s : State) (n : Nat) : (clearSlot s n).servo = s.servo := rfl
@[simp] theorem clearSlot_sessions (s : State) (n : Nat) : (clearSlot s n).sessions = s.sessions := rfl
@[simp] theorem clearSlot_stages (s : State) (n : Nat) : (clearSlot s n).stages = s.stages := rfl
@[simp] theorem clearSlot_sessionNext (s : State) (n : Nat) : (clearSlot s n).sessionNext = s.sessionNext := rfl
@[simp] theorem clearSlot_partials (s : State) (n : Nat) : (clearSlot s n).partials = s.partials := rfl
@[simp] theorem clearSlot_untagged (s : State) (n : Nat) : (clearSlot s n).untagged = s.untagged := rfl
@[simp] theorem clearSlot_dies (s : State) (n : Nat) : (clearSlot s n).dies = s.dies := rfl
@[simp] theorem clearSlot_remembered (s : State) (n : Nat) : (clearSlot s n).remembered = s.remembered := rfl
@[simp] theorem clearSlot_counts (s : State) (n : Nat) : (clearSlot s n).counts = s.counts := rfl
@[simp] theorem clearSlot_sampling (s : State) (n : Nat) : (clearSlot s n).sampling = s.sampling := rfl
@[simp] theorem clearSlot_ha (s : State) (n : Nat) : (clearSlot s n).ha = s.ha := rfl
@[simp] theorem clearSlot_hb (s : State) (n : Nat) : (clearSlot s n).hb = s.hb := rfl
@[simp] theorem clearSlot_active (s : State) (n : Nat) : (clearSlot s n).active = s.active := rfl
@[simp] theorem clearSlot_last (s : State) (n : Nat) : (clearSlot s n).last = s.last := rfl
@[simp] theorem clearSlot_xlink (s : State) (n : Nat) : (clearSlot s n).xlink = s.xlink := rfl
@[simp] theorem clearSlot_synced (s : State) (n : Nat) : (clearSlot s n).synced = s.synced := rfl
@[simp] theorem clearSlot_heldReports (s : State) (n : Nat) : (clearSlot s n).heldReports = s.heldReports := rfl
@[simp] theorem clearSlot_fw (s : State) (n : Nat) : (clearSlot s n).fw = s.fw := rfl
@[simp] theorem clearSlot_optime (s : State) (n : Nat) : (clearSlot s n).optime = s.optime := rfl
@[simp] theorem clearSlot_optimeSaved (s : State) (n : Nat) : (clearSlot s n).optimeSaved = s.optimeSaved := rfl
@[simp] theorem clearSlot_cycles (s : State) (n : Nat) : (clearSlot s n).cycles = s.cycles := rfl
@[simp] theorem clearSlot_roceRate (s : State) (n : Nat) : (clearSlot s n).roceRate = s.roceRate := rfl
@[simp] theorem clearSlot_sec (s : State) (n : Nat) : (clearSlot s n).sec = s.sec := rfl
@[simp] theorem clearSlot_pace (s : State) (n : Nat) : (clearSlot s n).pace = s.pace := rfl
@[simp] theorem clearSlot_fab (s : State) (n : Nat) : (clearSlot s n).fab = s.fab := rfl
@[simp] theorem clearSlot_optics (s : State) (n : Nat) : (clearSlot s n).optics = s.optics := rfl
@[simp] theorem clearSlot_cal (s : State) (n : Nat) : (clearSlot s n).cal = s.cal := rfl
@[simp] theorem clearSlot_engA (s : State) (n : Nat) : (clearSlot s n).engA = s.engA := rfl
@[simp] theorem clearSlot_engB (s : State) (n : Nat) : (clearSlot s n).engB = s.engB := rfl
@[simp] theorem clearSlot_drivers (s : State) (n : Nat) : (clearSlot s n).drivers = s.drivers := rfl
@[simp] theorem clearSlot_elec (s : State) (n : Nat) : (clearSlot s n).elec = s.elec := rfl

@[simp] theorem modBundle_pending (s : State) (n : Nat) (f : Bundle → Bundle) : (modBundle s n f).pending = s.pending := by unfold modBundle; split <;> rfl
@[simp] theorem modBundle_out (s : State) (n : Nat) (f : Bundle → Bundle) : (modBundle s n f).out = s.out := by unfold modBundle; split <;> rfl
@[simp] theorem modBundle_free (s : State) (n : Nat) (f : Bundle → Bundle) : (modBundle s n f).free = s.free := by unfold modBundle; split <;> rfl
@[simp] theorem modBundle_ident (s : State) (n : Nat) (f : Bundle → Bundle) : (modBundle s n f).ident = s.ident := by unfold modBundle; split <;> rfl
@[simp] theorem modBundle_phase (s : State) (n : Nat) (f : Bundle → Bundle) : (modBundle s n f).phase = s.phase := by unfold modBundle; split <;> rfl
@[simp] theorem modBundle_regs (s : State) (n : Nat) (f : Bundle → Bundle) : (modBundle s n f).regs = s.regs := by unfold modBundle; split <;> rfl
@[simp] theorem modBundle_tb (s : State) (n : Nat) (f : Bundle → Bundle) : (modBundle s n f).tb = s.tb := by unfold modBundle; split <;> rfl
@[simp] theorem modBundle_servo (s : State) (n : Nat) (f : Bundle → Bundle) : (modBundle s n f).servo = s.servo := by unfold modBundle; split <;> rfl
@[simp] theorem modBundle_sessions (s : State) (n : Nat) (f : Bundle → Bundle) : (modBundle s n f).sessions = s.sessions := by unfold modBundle; split <;> rfl
@[simp] theorem modBundle_stages (s : State) (n : Nat) (f : Bundle → Bundle) : (modBundle s n f).stages = s.stages := by unfold modBundle; split <;> rfl
@[simp] theorem modBundle_sessionNext (s : State) (n : Nat) (f : Bundle → Bundle) : (modBundle s n f).sessionNext = s.sessionNext := by unfold modBundle; split <;> rfl
@[simp] theorem modBundle_partials (s : State) (n : Nat) (f : Bundle → Bundle) : (modBundle s n f).partials = s.partials := by unfold modBundle; split <;> rfl
@[simp] theorem modBundle_untagged (s : State) (n : Nat) (f : Bundle → Bundle) : (modBundle s n f).untagged = s.untagged := by unfold modBundle; split <;> rfl
@[simp] theorem modBundle_dies (s : State) (n : Nat) (f : Bundle → Bundle) : (modBundle s n f).dies = s.dies := by unfold modBundle; split <;> rfl
@[simp] theorem modBundle_remembered (s : State) (n : Nat) (f : Bundle → Bundle) : (modBundle s n f).remembered = s.remembered := by unfold modBundle; split <;> rfl
@[simp] theorem modBundle_counts (s : State) (n : Nat) (f : Bundle → Bundle) : (modBundle s n f).counts = s.counts := by unfold modBundle; split <;> rfl
@[simp] theorem modBundle_sampling (s : State) (n : Nat) (f : Bundle → Bundle) : (modBundle s n f).sampling = s.sampling := by unfold modBundle; split <;> rfl
@[simp] theorem modBundle_ha (s : State) (n : Nat) (f : Bundle → Bundle) : (modBundle s n f).ha = s.ha := by unfold modBundle; split <;> rfl
@[simp] theorem modBundle_hb (s : State) (n : Nat) (f : Bundle → Bundle) : (modBundle s n f).hb = s.hb := by unfold modBundle; split <;> rfl
@[simp] theorem modBundle_active (s : State) (n : Nat) (f : Bundle → Bundle) : (modBundle s n f).active = s.active := by unfold modBundle; split <;> rfl
@[simp] theorem modBundle_last (s : State) (n : Nat) (f : Bundle → Bundle) : (modBundle s n f).last = s.last := by unfold modBundle; split <;> rfl
@[simp] theorem modBundle_xlink (s : State) (n : Nat) (f : Bundle → Bundle) : (modBundle s n f).xlink = s.xlink := by unfold modBundle; split <;> rfl
@[simp] theorem modBundle_synced (s : State) (n : Nat) (f : Bundle → Bundle) : (modBundle s n f).synced = s.synced := by unfold modBundle; split <;> rfl
@[simp] theorem modBundle_heldReports (s : State) (n : Nat) (f : Bundle → Bundle) : (modBundle s n f).heldReports = s.heldReports := by unfold modBundle; split <;> rfl
@[simp] theorem modBundle_fw (s : State) (n : Nat) (f : Bundle → Bundle) : (modBundle s n f).fw = s.fw := by unfold modBundle; split <;> rfl
@[simp] theorem modBundle_optime (s : State) (n : Nat) (f : Bundle → Bundle) : (modBundle s n f).optime = s.optime := by unfold modBundle; split <;> rfl
@[simp] theorem modBundle_optimeSaved (s : State) (n : Nat) (f : Bundle → Bundle) : (modBundle s n f).optimeSaved = s.optimeSaved := by unfold modBundle; split <;> rfl
@[simp] theorem modBundle_cycles (s : State) (n : Nat) (f : Bundle → Bundle) : (modBundle s n f).cycles = s.cycles := by unfold modBundle; split <;> rfl
@[simp] theorem modBundle_roceRate (s : State) (n : Nat) (f : Bundle → Bundle) : (modBundle s n f).roceRate = s.roceRate := by unfold modBundle; split <;> rfl
@[simp] theorem modBundle_sec (s : State) (n : Nat) (f : Bundle → Bundle) : (modBundle s n f).sec = s.sec := by unfold modBundle; split <;> rfl
@[simp] theorem modBundle_pace (s : State) (n : Nat) (f : Bundle → Bundle) : (modBundle s n f).pace = s.pace := by unfold modBundle; split <;> rfl
@[simp] theorem modBundle_fab (s : State) (n : Nat) (f : Bundle → Bundle) : (modBundle s n f).fab = s.fab := by unfold modBundle; split <;> rfl
@[simp] theorem modBundle_optics (s : State) (n : Nat) (f : Bundle → Bundle) : (modBundle s n f).optics = s.optics := by unfold modBundle; split <;> rfl
@[simp] theorem modBundle_cal (s : State) (n : Nat) (f : Bundle → Bundle) : (modBundle s n f).cal = s.cal := by unfold modBundle; split <;> rfl
@[simp] theorem modBundle_engA (s : State) (n : Nat) (f : Bundle → Bundle) : (modBundle s n f).engA = s.engA := by unfold modBundle; split <;> rfl
@[simp] theorem modBundle_engB (s : State) (n : Nat) (f : Bundle → Bundle) : (modBundle s n f).engB = s.engB := by unfold modBundle; split <;> rfl
@[simp] theorem modBundle_drivers (s : State) (n : Nat) (f : Bundle → Bundle) : (modBundle s n f).drivers = s.drivers := by unfold modBundle; split <;> rfl
@[simp] theorem modBundle_elec (s : State) (n : Nat) (f : Bundle → Bundle) : (modBundle s n f).elec = s.elec := by unfold modBundle; split <;> rfl

@[simp] theorem modStation_pending (s : State) (n i : Nat) (f : Station → Station) : (modStation s n i f).pending = s.pending := modBundle_pending s n _
@[simp] theorem modStation_out (s : State) (n i : Nat) (f : Station → Station) : (modStation s n i f).out = s.out := modBundle_out s n _
@[simp] theorem modStation_free (s : State) (n i : Nat) (f : Station → Station) : (modStation s n i f).free = s.free := modBundle_free s n _
@[simp] theorem modStation_ident (s : State) (n i : Nat) (f : Station → Station) : (modStation s n i f).ident = s.ident := modBundle_ident s n _
@[simp] theorem modStation_phase (s : State) (n i : Nat) (f : Station → Station) : (modStation s n i f).phase = s.phase := modBundle_phase s n _
@[simp] theorem modStation_regs (s : State) (n i : Nat) (f : Station → Station) : (modStation s n i f).regs = s.regs := modBundle_regs s n _
@[simp] theorem modStation_tb (s : State) (n i : Nat) (f : Station → Station) : (modStation s n i f).tb = s.tb := modBundle_tb s n _
@[simp] theorem modStation_servo (s : State) (n i : Nat) (f : Station → Station) : (modStation s n i f).servo = s.servo := modBundle_servo s n _
@[simp] theorem modStation_sessions (s : State) (n i : Nat) (f : Station → Station) : (modStation s n i f).sessions = s.sessions := modBundle_sessions s n _
@[simp] theorem modStation_stages (s : State) (n i : Nat) (f : Station → Station) : (modStation s n i f).stages = s.stages := modBundle_stages s n _
@[simp] theorem modStation_sessionNext (s : State) (n i : Nat) (f : Station → Station) : (modStation s n i f).sessionNext = s.sessionNext := modBundle_sessionNext s n _
@[simp] theorem modStation_partials (s : State) (n i : Nat) (f : Station → Station) : (modStation s n i f).partials = s.partials := modBundle_partials s n _
@[simp] theorem modStation_untagged (s : State) (n i : Nat) (f : Station → Station) : (modStation s n i f).untagged = s.untagged := modBundle_untagged s n _
@[simp] theorem modStation_dies (s : State) (n i : Nat) (f : Station → Station) : (modStation s n i f).dies = s.dies := modBundle_dies s n _
@[simp] theorem modStation_remembered (s : State) (n i : Nat) (f : Station → Station) : (modStation s n i f).remembered = s.remembered := modBundle_remembered s n _
@[simp] theorem modStation_counts (s : State) (n i : Nat) (f : Station → Station) : (modStation s n i f).counts = s.counts := modBundle_counts s n _
@[simp] theorem modStation_sampling (s : State) (n i : Nat) (f : Station → Station) : (modStation s n i f).sampling = s.sampling := modBundle_sampling s n _
@[simp] theorem modStation_ha (s : State) (n i : Nat) (f : Station → Station) : (modStation s n i f).ha = s.ha := modBundle_ha s n _
@[simp] theorem modStation_hb (s : State) (n i : Nat) (f : Station → Station) : (modStation s n i f).hb = s.hb := modBundle_hb s n _
@[simp] theorem modStation_active (s : State) (n i : Nat) (f : Station → Station) : (modStation s n i f).active = s.active := modBundle_active s n _
@[simp] theorem modStation_last (s : State) (n i : Nat) (f : Station → Station) : (modStation s n i f).last = s.last := modBundle_last s n _
@[simp] theorem modStation_xlink (s : State) (n i : Nat) (f : Station → Station) : (modStation s n i f).xlink = s.xlink := modBundle_xlink s n _
@[simp] theorem modStation_synced (s : State) (n i : Nat) (f : Station → Station) : (modStation s n i f).synced = s.synced := modBundle_synced s n _
@[simp] theorem modStation_heldReports (s : State) (n i : Nat) (f : Station → Station) : (modStation s n i f).heldReports = s.heldReports := modBundle_heldReports s n _
@[simp] theorem modStation_fw (s : State) (n i : Nat) (f : Station → Station) : (modStation s n i f).fw = s.fw := modBundle_fw s n _
@[simp] theorem modStation_optime (s : State) (n i : Nat) (f : Station → Station) : (modStation s n i f).optime = s.optime := modBundle_optime s n _
@[simp] theorem modStation_optimeSaved (s : State) (n i : Nat) (f : Station → Station) : (modStation s n i f).optimeSaved = s.optimeSaved := modBundle_optimeSaved s n _
@[simp] theorem modStation_cycles (s : State) (n i : Nat) (f : Station → Station) : (modStation s n i f).cycles = s.cycles := modBundle_cycles s n _
@[simp] theorem modStation_roceRate (s : State) (n i : Nat) (f : Station → Station) : (modStation s n i f).roceRate = s.roceRate := modBundle_roceRate s n _
@[simp] theorem modStation_sec (s : State) (n i : Nat) (f : Station → Station) : (modStation s n i f).sec = s.sec := modBundle_sec s n _
@[simp] theorem modStation_pace (s : State) (n i : Nat) (f : Station → Station) : (modStation s n i f).pace = s.pace := modBundle_pace s n _
@[simp] theorem modStation_fab (s : State) (n i : Nat) (f : Station → Station) : (modStation s n i f).fab = s.fab := modBundle_fab s n _
@[simp] theorem modStation_optics (s : State) (n i : Nat) (f : Station → Station) : (modStation s n i f).optics = s.optics := modBundle_optics s n _
@[simp] theorem modStation_cal (s : State) (n i : Nat) (f : Station → Station) : (modStation s n i f).cal = s.cal := modBundle_cal s n _
@[simp] theorem modStation_engA (s : State) (n i : Nat) (f : Station → Station) : (modStation s n i f).engA = s.engA := modBundle_engA s n _
@[simp] theorem modStation_engB (s : State) (n i : Nat) (f : Station → Station) : (modStation s n i f).engB = s.engB := modBundle_engB s n _
@[simp] theorem modStation_drivers (s : State) (n i : Nat) (f : Station → Station) : (modStation s n i f).drivers = s.drivers := modBundle_drivers s n _
@[simp] theorem modStation_elec (s : State) (n i : Nat) (f : Station → Station) : (modStation s n i f).elec = s.elec := modBundle_elec s n _

@[simp] theorem modStream_pending (s : State) (n i : Nat) (f : Stream → Stream) : (modStream s n i f).pending = s.pending := modBundle_pending s n _
@[simp] theorem modStream_out (s : State) (n i : Nat) (f : Stream → Stream) : (modStream s n i f).out = s.out := modBundle_out s n _
@[simp] theorem modStream_free (s : State) (n i : Nat) (f : Stream → Stream) : (modStream s n i f).free = s.free := modBundle_free s n _
@[simp] theorem modStream_ident (s : State) (n i : Nat) (f : Stream → Stream) : (modStream s n i f).ident = s.ident := modBundle_ident s n _
@[simp] theorem modStream_phase (s : State) (n i : Nat) (f : Stream → Stream) : (modStream s n i f).phase = s.phase := modBundle_phase s n _
@[simp] theorem modStream_regs (s : State) (n i : Nat) (f : Stream → Stream) : (modStream s n i f).regs = s.regs := modBundle_regs s n _
@[simp] theorem modStream_tb (s : State) (n i : Nat) (f : Stream → Stream) : (modStream s n i f).tb = s.tb := modBundle_tb s n _
@[simp] theorem modStream_servo (s : State) (n i : Nat) (f : Stream → Stream) : (modStream s n i f).servo = s.servo := modBundle_servo s n _
@[simp] theorem modStream_sessions (s : State) (n i : Nat) (f : Stream → Stream) : (modStream s n i f).sessions = s.sessions := modBundle_sessions s n _
@[simp] theorem modStream_stages (s : State) (n i : Nat) (f : Stream → Stream) : (modStream s n i f).stages = s.stages := modBundle_stages s n _
@[simp] theorem modStream_sessionNext (s : State) (n i : Nat) (f : Stream → Stream) : (modStream s n i f).sessionNext = s.sessionNext := modBundle_sessionNext s n _
@[simp] theorem modStream_partials (s : State) (n i : Nat) (f : Stream → Stream) : (modStream s n i f).partials = s.partials := modBundle_partials s n _
@[simp] theorem modStream_untagged (s : State) (n i : Nat) (f : Stream → Stream) : (modStream s n i f).untagged = s.untagged := modBundle_untagged s n _
@[simp] theorem modStream_dies (s : State) (n i : Nat) (f : Stream → Stream) : (modStream s n i f).dies = s.dies := modBundle_dies s n _
@[simp] theorem modStream_remembered (s : State) (n i : Nat) (f : Stream → Stream) : (modStream s n i f).remembered = s.remembered := modBundle_remembered s n _
@[simp] theorem modStream_counts (s : State) (n i : Nat) (f : Stream → Stream) : (modStream s n i f).counts = s.counts := modBundle_counts s n _
@[simp] theorem modStream_sampling (s : State) (n i : Nat) (f : Stream → Stream) : (modStream s n i f).sampling = s.sampling := modBundle_sampling s n _
@[simp] theorem modStream_ha (s : State) (n i : Nat) (f : Stream → Stream) : (modStream s n i f).ha = s.ha := modBundle_ha s n _
@[simp] theorem modStream_hb (s : State) (n i : Nat) (f : Stream → Stream) : (modStream s n i f).hb = s.hb := modBundle_hb s n _
@[simp] theorem modStream_active (s : State) (n i : Nat) (f : Stream → Stream) : (modStream s n i f).active = s.active := modBundle_active s n _
@[simp] theorem modStream_last (s : State) (n i : Nat) (f : Stream → Stream) : (modStream s n i f).last = s.last := modBundle_last s n _
@[simp] theorem modStream_xlink (s : State) (n i : Nat) (f : Stream → Stream) : (modStream s n i f).xlink = s.xlink := modBundle_xlink s n _
@[simp] theorem modStream_synced (s : State) (n i : Nat) (f : Stream → Stream) : (modStream s n i f).synced = s.synced := modBundle_synced s n _
@[simp] theorem modStream_heldReports (s : State) (n i : Nat) (f : Stream → Stream) : (modStream s n i f).heldReports = s.heldReports := modBundle_heldReports s n _
@[simp] theorem modStream_fw (s : State) (n i : Nat) (f : Stream → Stream) : (modStream s n i f).fw = s.fw := modBundle_fw s n _
@[simp] theorem modStream_optime (s : State) (n i : Nat) (f : Stream → Stream) : (modStream s n i f).optime = s.optime := modBundle_optime s n _
@[simp] theorem modStream_optimeSaved (s : State) (n i : Nat) (f : Stream → Stream) : (modStream s n i f).optimeSaved = s.optimeSaved := modBundle_optimeSaved s n _
@[simp] theorem modStream_cycles (s : State) (n i : Nat) (f : Stream → Stream) : (modStream s n i f).cycles = s.cycles := modBundle_cycles s n _
@[simp] theorem modStream_roceRate (s : State) (n i : Nat) (f : Stream → Stream) : (modStream s n i f).roceRate = s.roceRate := modBundle_roceRate s n _
@[simp] theorem modStream_sec (s : State) (n i : Nat) (f : Stream → Stream) : (modStream s n i f).sec = s.sec := modBundle_sec s n _
@[simp] theorem modStream_pace (s : State) (n i : Nat) (f : Stream → Stream) : (modStream s n i f).pace = s.pace := modBundle_pace s n _
@[simp] theorem modStream_fab (s : State) (n i : Nat) (f : Stream → Stream) : (modStream s n i f).fab = s.fab := modBundle_fab s n _
@[simp] theorem modStream_optics (s : State) (n i : Nat) (f : Stream → Stream) : (modStream s n i f).optics = s.optics := modBundle_optics s n _
@[simp] theorem modStream_cal (s : State) (n i : Nat) (f : Stream → Stream) : (modStream s n i f).cal = s.cal := modBundle_cal s n _
@[simp] theorem modStream_engA (s : State) (n i : Nat) (f : Stream → Stream) : (modStream s n i f).engA = s.engA := modBundle_engA s n _
@[simp] theorem modStream_engB (s : State) (n i : Nat) (f : Stream → Stream) : (modStream s n i f).engB = s.engB := modBundle_engB s n _
@[simp] theorem modStream_drivers (s : State) (n i : Nat) (f : Stream → Stream) : (modStream s n i f).drivers = s.drivers := modBundle_drivers s n _
@[simp] theorem modStream_elec (s : State) (n i : Nat) (f : Stream → Stream) : (modStream s n i f).elec = s.elec := modBundle_elec s n _

@[simp] theorem modTally_pending (s : State) (n i : Nat) (f : Tally → Tally) : (modTally s n i f).pending = s.pending := modBundle_pending s n _
@[simp] theorem modTally_out (s : State) (n i : Nat) (f : Tally → Tally) : (modTally s n i f).out = s.out := modBundle_out s n _
@[simp] theorem modTally_free (s : State) (n i : Nat) (f : Tally → Tally) : (modTally s n i f).free = s.free := modBundle_free s n _
@[simp] theorem modTally_ident (s : State) (n i : Nat) (f : Tally → Tally) : (modTally s n i f).ident = s.ident := modBundle_ident s n _
@[simp] theorem modTally_phase (s : State) (n i : Nat) (f : Tally → Tally) : (modTally s n i f).phase = s.phase := modBundle_phase s n _
@[simp] theorem modTally_regs (s : State) (n i : Nat) (f : Tally → Tally) : (modTally s n i f).regs = s.regs := modBundle_regs s n _
@[simp] theorem modTally_tb (s : State) (n i : Nat) (f : Tally → Tally) : (modTally s n i f).tb = s.tb := modBundle_tb s n _
@[simp] theorem modTally_servo (s : State) (n i : Nat) (f : Tally → Tally) : (modTally s n i f).servo = s.servo := modBundle_servo s n _
@[simp] theorem modTally_sessions (s : State) (n i : Nat) (f : Tally → Tally) : (modTally s n i f).sessions = s.sessions := modBundle_sessions s n _
@[simp] theorem modTally_stages (s : State) (n i : Nat) (f : Tally → Tally) : (modTally s n i f).stages = s.stages := modBundle_stages s n _
@[simp] theorem modTally_sessionNext (s : State) (n i : Nat) (f : Tally → Tally) : (modTally s n i f).sessionNext = s.sessionNext := modBundle_sessionNext s n _
@[simp] theorem modTally_partials (s : State) (n i : Nat) (f : Tally → Tally) : (modTally s n i f).partials = s.partials := modBundle_partials s n _
@[simp] theorem modTally_untagged (s : State) (n i : Nat) (f : Tally → Tally) : (modTally s n i f).untagged = s.untagged := modBundle_untagged s n _
@[simp] theorem modTally_dies (s : State) (n i : Nat) (f : Tally → Tally) : (modTally s n i f).dies = s.dies := modBundle_dies s n _
@[simp] theorem modTally_remembered (s : State) (n i : Nat) (f : Tally → Tally) : (modTally s n i f).remembered = s.remembered := modBundle_remembered s n _
@[simp] theorem modTally_counts (s : State) (n i : Nat) (f : Tally → Tally) : (modTally s n i f).counts = s.counts := modBundle_counts s n _
@[simp] theorem modTally_sampling (s : State) (n i : Nat) (f : Tally → Tally) : (modTally s n i f).sampling = s.sampling := modBundle_sampling s n _
@[simp] theorem modTally_ha (s : State) (n i : Nat) (f : Tally → Tally) : (modTally s n i f).ha = s.ha := modBundle_ha s n _
@[simp] theorem modTally_hb (s : State) (n i : Nat) (f : Tally → Tally) : (modTally s n i f).hb = s.hb := modBundle_hb s n _
@[simp] theorem modTally_active (s : State) (n i : Nat) (f : Tally → Tally) : (modTally s n i f).active = s.active := modBundle_active s n _
@[simp] theorem modTally_last (s : State) (n i : Nat) (f : Tally → Tally) : (modTally s n i f).last = s.last := modBundle_last s n _
@[simp] theorem modTally_xlink (s : State) (n i : Nat) (f : Tally → Tally) : (modTally s n i f).xlink = s.xlink := modBundle_xlink s n _
@[simp] theorem modTally_synced (s : State) (n i : Nat) (f : Tally → Tally) : (modTally s n i f).synced = s.synced := modBundle_synced s n _
@[simp] theorem modTally_heldReports (s : State) (n i : Nat) (f : Tally → Tally) : (modTally s n i f).heldReports = s.heldReports := modBundle_heldReports s n _
@[simp] theorem modTally_fw (s : State) (n i : Nat) (f : Tally → Tally) : (modTally s n i f).fw = s.fw := modBundle_fw s n _
@[simp] theorem modTally_optime (s : State) (n i : Nat) (f : Tally → Tally) : (modTally s n i f).optime = s.optime := modBundle_optime s n _
@[simp] theorem modTally_optimeSaved (s : State) (n i : Nat) (f : Tally → Tally) : (modTally s n i f).optimeSaved = s.optimeSaved := modBundle_optimeSaved s n _
@[simp] theorem modTally_cycles (s : State) (n i : Nat) (f : Tally → Tally) : (modTally s n i f).cycles = s.cycles := modBundle_cycles s n _
@[simp] theorem modTally_roceRate (s : State) (n i : Nat) (f : Tally → Tally) : (modTally s n i f).roceRate = s.roceRate := modBundle_roceRate s n _
@[simp] theorem modTally_sec (s : State) (n i : Nat) (f : Tally → Tally) : (modTally s n i f).sec = s.sec := modBundle_sec s n _
@[simp] theorem modTally_pace (s : State) (n i : Nat) (f : Tally → Tally) : (modTally s n i f).pace = s.pace := modBundle_pace s n _
@[simp] theorem modTally_fab (s : State) (n i : Nat) (f : Tally → Tally) : (modTally s n i f).fab = s.fab := modBundle_fab s n _
@[simp] theorem modTally_optics (s : State) (n i : Nat) (f : Tally → Tally) : (modTally s n i f).optics = s.optics := modBundle_optics s n _
@[simp] theorem modTally_cal (s : State) (n i : Nat) (f : Tally → Tally) : (modTally s n i f).cal = s.cal := modBundle_cal s n _
@[simp] theorem modTally_engA (s : State) (n i : Nat) (f : Tally → Tally) : (modTally s n i f).engA = s.engA := modBundle_engA s n _
@[simp] theorem modTally_engB (s : State) (n i : Nat) (f : Tally → Tally) : (modTally s n i f).engB = s.engB := modBundle_engB s n _
@[simp] theorem modTally_drivers (s : State) (n i : Nat) (f : Tally → Tally) : (modTally s n i f).drivers = s.drivers := modBundle_drivers s n _
@[simp] theorem modTally_elec (s : State) (n i : Nat) (f : Tally → Tally) : (modTally s n i f).elec = s.elec := modBundle_elec s n _

@[simp] theorem modStack_pending (s : State) (n : Nat) (f : Stack → Stack) : (modStack s n f).pending = s.pending := rfl
@[simp] theorem modStack_out (s : State) (n : Nat) (f : Stack → Stack) : (modStack s n f).out = s.out := rfl
@[simp] theorem modStack_free (s : State) (n : Nat) (f : Stack → Stack) : (modStack s n f).free = s.free := rfl
@[simp] theorem modStack_ident (s : State) (n : Nat) (f : Stack → Stack) : (modStack s n f).ident = s.ident := rfl
@[simp] theorem modStack_phase (s : State) (n : Nat) (f : Stack → Stack) : (modStack s n f).phase = s.phase := rfl
@[simp] theorem modStack_regs (s : State) (n : Nat) (f : Stack → Stack) : (modStack s n f).regs = s.regs := rfl
@[simp] theorem modStack_tb (s : State) (n : Nat) (f : Stack → Stack) : (modStack s n f).tb = s.tb := rfl
@[simp] theorem modStack_servo (s : State) (n : Nat) (f : Stack → Stack) : (modStack s n f).servo = s.servo := rfl
@[simp] theorem modStack_sessions (s : State) (n : Nat) (f : Stack → Stack) : (modStack s n f).sessions = s.sessions := rfl
@[simp] theorem modStack_stages (s : State) (n : Nat) (f : Stack → Stack) : (modStack s n f).stages = s.stages := rfl
@[simp] theorem modStack_sessionNext (s : State) (n : Nat) (f : Stack → Stack) : (modStack s n f).sessionNext = s.sessionNext := rfl
@[simp] theorem modStack_partials (s : State) (n : Nat) (f : Stack → Stack) : (modStack s n f).partials = s.partials := rfl
@[simp] theorem modStack_untagged (s : State) (n : Nat) (f : Stack → Stack) : (modStack s n f).untagged = s.untagged := rfl
@[simp] theorem modStack_pl (s : State) (n : Nat) (f : Stack → Stack) : (modStack s n f).pl = s.pl := rfl
@[simp] theorem modStack_remembered (s : State) (n : Nat) (f : Stack → Stack) : (modStack s n f).remembered = s.remembered := rfl
@[simp] theorem modStack_counts (s : State) (n : Nat) (f : Stack → Stack) : (modStack s n f).counts = s.counts := rfl
@[simp] theorem modStack_sampling (s : State) (n : Nat) (f : Stack → Stack) : (modStack s n f).sampling = s.sampling := rfl
@[simp] theorem modStack_ha (s : State) (n : Nat) (f : Stack → Stack) : (modStack s n f).ha = s.ha := rfl
@[simp] theorem modStack_hb (s : State) (n : Nat) (f : Stack → Stack) : (modStack s n f).hb = s.hb := rfl
@[simp] theorem modStack_active (s : State) (n : Nat) (f : Stack → Stack) : (modStack s n f).active = s.active := rfl
@[simp] theorem modStack_last (s : State) (n : Nat) (f : Stack → Stack) : (modStack s n f).last = s.last := rfl
@[simp] theorem modStack_xlink (s : State) (n : Nat) (f : Stack → Stack) : (modStack s n f).xlink = s.xlink := rfl
@[simp] theorem modStack_synced (s : State) (n : Nat) (f : Stack → Stack) : (modStack s n f).synced = s.synced := rfl
@[simp] theorem modStack_heldReports (s : State) (n : Nat) (f : Stack → Stack) : (modStack s n f).heldReports = s.heldReports := rfl
@[simp] theorem modStack_fw (s : State) (n : Nat) (f : Stack → Stack) : (modStack s n f).fw = s.fw := rfl
@[simp] theorem modStack_optime (s : State) (n : Nat) (f : Stack → Stack) : (modStack s n f).optime = s.optime := rfl
@[simp] theorem modStack_optimeSaved (s : State) (n : Nat) (f : Stack → Stack) : (modStack s n f).optimeSaved = s.optimeSaved := rfl
@[simp] theorem modStack_cycles (s : State) (n : Nat) (f : Stack → Stack) : (modStack s n f).cycles = s.cycles := rfl
@[simp] theorem modStack_roceRate (s : State) (n : Nat) (f : Stack → Stack) : (modStack s n f).roceRate = s.roceRate := rfl
@[simp] theorem modStack_sec (s : State) (n : Nat) (f : Stack → Stack) : (modStack s n f).sec = s.sec := rfl
@[simp] theorem modStack_pace (s : State) (n : Nat) (f : Stack → Stack) : (modStack s n f).pace = s.pace := rfl
@[simp] theorem modStack_fab (s : State) (n : Nat) (f : Stack → Stack) : (modStack s n f).fab = s.fab := rfl
@[simp] theorem modStack_optics (s : State) (n : Nat) (f : Stack → Stack) : (modStack s n f).optics = s.optics := rfl
@[simp] theorem modStack_cal (s : State) (n : Nat) (f : Stack → Stack) : (modStack s n f).cal = s.cal := rfl
@[simp] theorem modStack_engA (s : State) (n : Nat) (f : Stack → Stack) : (modStack s n f).engA = s.engA := rfl
@[simp] theorem modStack_engB (s : State) (n : Nat) (f : Stack → Stack) : (modStack s n f).engB = s.engB := rfl
@[simp] theorem modStack_drivers (s : State) (n : Nat) (f : Stack → Stack) : (modStack s n f).drivers = s.drivers := rfl
@[simp] theorem modStack_elec (s : State) (n : Nat) (f : Stack → Stack) : (modStack s n f).elec = s.elec := rfl

/-- Counting on a sampling slot changes sampling and the number of open values alone. -/
theorem slotCount_frame (s : State) (k : Nat) (r : Bool) (ev : Nat) (c : EvCtx) (n : Nat) :
    slotCount s k r ev c n = { s with sampling := (slotCount s k r ev c n).sampling, free := (slotCount s k r ev c n).free } := by
  unfold slotCount
  dsimp only
  split
  · rfl
  · split
    · by_cases h : ev / 2 ^ 28 = 1 <;> simp only [h, if_true, if_false]
    · rfl

@[simp] theorem slotCount_pending (s : State) (k : Nat) (r : Bool) (ev : Nat) (c : EvCtx) (n : Nat) : (slotCount s k r ev c n).pending = s.pending := by rw [slotCount_frame]
@[simp] theorem slotCount_out (s : State) (k : Nat) (r : Bool) (ev : Nat) (c : EvCtx) (n : Nat) : (slotCount s k r ev c n).out = s.out := by rw [slotCount_frame]
@[simp] theorem slotCount_ident (s : State) (k : Nat) (r : Bool) (ev : Nat) (c : EvCtx) (n : Nat) : (slotCount s k r ev c n).ident = s.ident := by rw [slotCount_frame]
@[simp] theorem slotCount_phase (s : State) (k : Nat) (r : Bool) (ev : Nat) (c : EvCtx) (n : Nat) : (slotCount s k r ev c n).phase = s.phase := by rw [slotCount_frame]
@[simp] theorem slotCount_regs (s : State) (k : Nat) (r : Bool) (ev : Nat) (c : EvCtx) (n : Nat) : (slotCount s k r ev c n).regs = s.regs := by rw [slotCount_frame]
@[simp] theorem slotCount_tb (s : State) (k : Nat) (r : Bool) (ev : Nat) (c : EvCtx) (n : Nat) : (slotCount s k r ev c n).tb = s.tb := by rw [slotCount_frame]
@[simp] theorem slotCount_servo (s : State) (k : Nat) (r : Bool) (ev : Nat) (c : EvCtx) (n : Nat) : (slotCount s k r ev c n).servo = s.servo := by rw [slotCount_frame]
@[simp] theorem slotCount_sessions (s : State) (k : Nat) (r : Bool) (ev : Nat) (c : EvCtx) (n : Nat) : (slotCount s k r ev c n).sessions = s.sessions := by rw [slotCount_frame]
@[simp] theorem slotCount_stages (s : State) (k : Nat) (r : Bool) (ev : Nat) (c : EvCtx) (n : Nat) : (slotCount s k r ev c n).stages = s.stages := by rw [slotCount_frame]
@[simp] theorem slotCount_sessionNext (s : State) (k : Nat) (r : Bool) (ev : Nat) (c : EvCtx) (n : Nat) : (slotCount s k r ev c n).sessionNext = s.sessionNext := by rw [slotCount_frame]
@[simp] theorem slotCount_partials (s : State) (k : Nat) (r : Bool) (ev : Nat) (c : EvCtx) (n : Nat) : (slotCount s k r ev c n).partials = s.partials := by rw [slotCount_frame]
@[simp] theorem slotCount_untagged (s : State) (k : Nat) (r : Bool) (ev : Nat) (c : EvCtx) (n : Nat) : (slotCount s k r ev c n).untagged = s.untagged := by rw [slotCount_frame]
@[simp] theorem slotCount_pl (s : State) (k : Nat) (r : Bool) (ev : Nat) (c : EvCtx) (n : Nat) : (slotCount s k r ev c n).pl = s.pl := by rw [slotCount_frame]
@[simp] theorem slotCount_dies (s : State) (k : Nat) (r : Bool) (ev : Nat) (c : EvCtx) (n : Nat) : (slotCount s k r ev c n).dies = s.dies := by rw [slotCount_frame]
@[simp] theorem slotCount_remembered (s : State) (k : Nat) (r : Bool) (ev : Nat) (c : EvCtx) (n : Nat) : (slotCount s k r ev c n).remembered = s.remembered := by rw [slotCount_frame]
@[simp] theorem slotCount_counts (s : State) (k : Nat) (r : Bool) (ev : Nat) (c : EvCtx) (n : Nat) : (slotCount s k r ev c n).counts = s.counts := by rw [slotCount_frame]
@[simp] theorem slotCount_ha (s : State) (k : Nat) (r : Bool) (ev : Nat) (c : EvCtx) (n : Nat) : (slotCount s k r ev c n).ha = s.ha := by rw [slotCount_frame]
@[simp] theorem slotCount_hb (s : State) (k : Nat) (r : Bool) (ev : Nat) (c : EvCtx) (n : Nat) : (slotCount s k r ev c n).hb = s.hb := by rw [slotCount_frame]
@[simp] theorem slotCount_active (s : State) (k : Nat) (r : Bool) (ev : Nat) (c : EvCtx) (n : Nat) : (slotCount s k r ev c n).active = s.active := by rw [slotCount_frame]
@[simp] theorem slotCount_last (s : State) (k : Nat) (r : Bool) (ev : Nat) (c : EvCtx) (n : Nat) : (slotCount s k r ev c n).last = s.last := by rw [slotCount_frame]
@[simp] theorem slotCount_xlink (s : State) (k : Nat) (r : Bool) (ev : Nat) (c : EvCtx) (n : Nat) : (slotCount s k r ev c n).xlink = s.xlink := by rw [slotCount_frame]
@[simp] theorem slotCount_synced (s : State) (k : Nat) (r : Bool) (ev : Nat) (c : EvCtx) (n : Nat) : (slotCount s k r ev c n).synced = s.synced := by rw [slotCount_frame]
@[simp] theorem slotCount_heldReports (s : State) (k : Nat) (r : Bool) (ev : Nat) (c : EvCtx) (n : Nat) : (slotCount s k r ev c n).heldReports = s.heldReports := by rw [slotCount_frame]
@[simp] theorem slotCount_fw (s : State) (k : Nat) (r : Bool) (ev : Nat) (c : EvCtx) (n : Nat) : (slotCount s k r ev c n).fw = s.fw := by rw [slotCount_frame]
@[simp] theorem slotCount_optime (s : State) (k : Nat) (r : Bool) (ev : Nat) (c : EvCtx) (n : Nat) : (slotCount s k r ev c n).optime = s.optime := by rw [slotCount_frame]
@[simp] theorem slotCount_optimeSaved (s : State) (k : Nat) (r : Bool) (ev : Nat) (c : EvCtx) (n : Nat) : (slotCount s k r ev c n).optimeSaved = s.optimeSaved := by rw [slotCount_frame]
@[simp] theorem slotCount_cycles (s : State) (k : Nat) (r : Bool) (ev : Nat) (c : EvCtx) (n : Nat) : (slotCount s k r ev c n).cycles = s.cycles := by rw [slotCount_frame]
@[simp] theorem slotCount_roceRate (s : State) (k : Nat) (r : Bool) (ev : Nat) (c : EvCtx) (n : Nat) : (slotCount s k r ev c n).roceRate = s.roceRate := by rw [slotCount_frame]
@[simp] theorem slotCount_sec (s : State) (k : Nat) (r : Bool) (ev : Nat) (c : EvCtx) (n : Nat) : (slotCount s k r ev c n).sec = s.sec := by rw [slotCount_frame]
@[simp] theorem slotCount_pace (s : State) (k : Nat) (r : Bool) (ev : Nat) (c : EvCtx) (n : Nat) : (slotCount s k r ev c n).pace = s.pace := by rw [slotCount_frame]
@[simp] theorem slotCount_fab (s : State) (k : Nat) (r : Bool) (ev : Nat) (c : EvCtx) (n : Nat) : (slotCount s k r ev c n).fab = s.fab := by rw [slotCount_frame]
@[simp] theorem slotCount_optics (s : State) (k : Nat) (r : Bool) (ev : Nat) (c : EvCtx) (n : Nat) : (slotCount s k r ev c n).optics = s.optics := by rw [slotCount_frame]
@[simp] theorem slotCount_cal (s : State) (k : Nat) (r : Bool) (ev : Nat) (c : EvCtx) (n : Nat) : (slotCount s k r ev c n).cal = s.cal := by rw [slotCount_frame]
@[simp] theorem slotCount_engA (s : State) (k : Nat) (r : Bool) (ev : Nat) (c : EvCtx) (n : Nat) : (slotCount s k r ev c n).engA = s.engA := by rw [slotCount_frame]
@[simp] theorem slotCount_engB (s : State) (k : Nat) (r : Bool) (ev : Nat) (c : EvCtx) (n : Nat) : (slotCount s k r ev c n).engB = s.engB := by rw [slotCount_frame]
@[simp] theorem slotCount_drivers (s : State) (k : Nat) (r : Bool) (ev : Nat) (c : EvCtx) (n : Nat) : (slotCount s k r ev c n).drivers = s.drivers := by rw [slotCount_frame]
@[simp] theorem slotCount_elec (s : State) (k : Nat) (r : Bool) (ev : Nat) (c : EvCtx) (n : Nat) : (slotCount s k r ev c n).elec = s.elec := by rw [slotCount_frame]

/-- Counting over the sampling slots. -/
theorem slotCounts_frame (l : List Nat) (s : State) (r : Bool) (ev : Nat) (c : EvCtx) (n : Nat) :
    l.foldl (fun s k => slotCount s k r ev c n) s =
      { s with sampling := (l.foldl (fun s k => slotCount s k r ev c n) s).sampling, free := (l.foldl (fun s k => slotCount s k r ev c n) s).free } := by
  induction l generalizing s with
  | nil => rfl
  | cons k l ih =>
    simp only [List.foldl_cons]
    rw [ih, slotCount_frame]
/-- An event counted changes counters, sampling and the number of open values alone. -/
theorem bumpEv_frame (s : State) (ev : Nat) (c : EvCtx) (n : Nat) :
    bumpEv s ev c n = { s with counts := (bumpEv s ev c n).counts, sampling := (bumpEv s ev c n).sampling, free := (bumpEv s ev c n).free } := by
  unfold bumpEv
  split
  · rfl
  · dsimp only
    rw [slotCounts_frame]

@[simp] theorem bumpEv_pending (s : State) (ev : Nat) (c : EvCtx) (n : Nat) : (bumpEv s ev c n).pending = s.pending := by rw [bumpEv_frame]
@[simp] theorem bumpEv_out (s : State) (ev : Nat) (c : EvCtx) (n : Nat) : (bumpEv s ev c n).out = s.out := by rw [bumpEv_frame]
@[simp] theorem bumpEv_ident (s : State) (ev : Nat) (c : EvCtx) (n : Nat) : (bumpEv s ev c n).ident = s.ident := by rw [bumpEv_frame]
@[simp] theorem bumpEv_phase (s : State) (ev : Nat) (c : EvCtx) (n : Nat) : (bumpEv s ev c n).phase = s.phase := by rw [bumpEv_frame]
@[simp] theorem bumpEv_regs (s : State) (ev : Nat) (c : EvCtx) (n : Nat) : (bumpEv s ev c n).regs = s.regs := by rw [bumpEv_frame]
@[simp] theorem bumpEv_tb (s : State) (ev : Nat) (c : EvCtx) (n : Nat) : (bumpEv s ev c n).tb = s.tb := by rw [bumpEv_frame]
@[simp] theorem bumpEv_servo (s : State) (ev : Nat) (c : EvCtx) (n : Nat) : (bumpEv s ev c n).servo = s.servo := by rw [bumpEv_frame]
@[simp] theorem bumpEv_sessions (s : State) (ev : Nat) (c : EvCtx) (n : Nat) : (bumpEv s ev c n).sessions = s.sessions := by rw [bumpEv_frame]
@[simp] theorem bumpEv_stages (s : State) (ev : Nat) (c : EvCtx) (n : Nat) : (bumpEv s ev c n).stages = s.stages := by rw [bumpEv_frame]
@[simp] theorem bumpEv_sessionNext (s : State) (ev : Nat) (c : EvCtx) (n : Nat) : (bumpEv s ev c n).sessionNext = s.sessionNext := by rw [bumpEv_frame]
@[simp] theorem bumpEv_partials (s : State) (ev : Nat) (c : EvCtx) (n : Nat) : (bumpEv s ev c n).partials = s.partials := by rw [bumpEv_frame]
@[simp] theorem bumpEv_untagged (s : State) (ev : Nat) (c : EvCtx) (n : Nat) : (bumpEv s ev c n).untagged = s.untagged := by rw [bumpEv_frame]
@[simp] theorem bumpEv_pl (s : State) (ev : Nat) (c : EvCtx) (n : Nat) : (bumpEv s ev c n).pl = s.pl := by rw [bumpEv_frame]
@[simp] theorem bumpEv_dies (s : State) (ev : Nat) (c : EvCtx) (n : Nat) : (bumpEv s ev c n).dies = s.dies := by rw [bumpEv_frame]
@[simp] theorem bumpEv_remembered (s : State) (ev : Nat) (c : EvCtx) (n : Nat) : (bumpEv s ev c n).remembered = s.remembered := by rw [bumpEv_frame]
@[simp] theorem bumpEv_ha (s : State) (ev : Nat) (c : EvCtx) (n : Nat) : (bumpEv s ev c n).ha = s.ha := by rw [bumpEv_frame]
@[simp] theorem bumpEv_hb (s : State) (ev : Nat) (c : EvCtx) (n : Nat) : (bumpEv s ev c n).hb = s.hb := by rw [bumpEv_frame]
@[simp] theorem bumpEv_active (s : State) (ev : Nat) (c : EvCtx) (n : Nat) : (bumpEv s ev c n).active = s.active := by rw [bumpEv_frame]
@[simp] theorem bumpEv_last (s : State) (ev : Nat) (c : EvCtx) (n : Nat) : (bumpEv s ev c n).last = s.last := by rw [bumpEv_frame]
@[simp] theorem bumpEv_xlink (s : State) (ev : Nat) (c : EvCtx) (n : Nat) : (bumpEv s ev c n).xlink = s.xlink := by rw [bumpEv_frame]
@[simp] theorem bumpEv_synced (s : State) (ev : Nat) (c : EvCtx) (n : Nat) : (bumpEv s ev c n).synced = s.synced := by rw [bumpEv_frame]
@[simp] theorem bumpEv_heldReports (s : State) (ev : Nat) (c : EvCtx) (n : Nat) : (bumpEv s ev c n).heldReports = s.heldReports := by rw [bumpEv_frame]
@[simp] theorem bumpEv_fw (s : State) (ev : Nat) (c : EvCtx) (n : Nat) : (bumpEv s ev c n).fw = s.fw := by rw [bumpEv_frame]
@[simp] theorem bumpEv_optime (s : State) (ev : Nat) (c : EvCtx) (n : Nat) : (bumpEv s ev c n).optime = s.optime := by rw [bumpEv_frame]
@[simp] theorem bumpEv_optimeSaved (s : State) (ev : Nat) (c : EvCtx) (n : Nat) : (bumpEv s ev c n).optimeSaved = s.optimeSaved := by rw [bumpEv_frame]
@[simp] theorem bumpEv_cycles (s : State) (ev : Nat) (c : EvCtx) (n : Nat) : (bumpEv s ev c n).cycles = s.cycles := by rw [bumpEv_frame]
@[simp] theorem bumpEv_roceRate (s : State) (ev : Nat) (c : EvCtx) (n : Nat) : (bumpEv s ev c n).roceRate = s.roceRate := by rw [bumpEv_frame]
@[simp] theorem bumpEv_sec (s : State) (ev : Nat) (c : EvCtx) (n : Nat) : (bumpEv s ev c n).sec = s.sec := by rw [bumpEv_frame]
@[simp] theorem bumpEv_pace (s : State) (ev : Nat) (c : EvCtx) (n : Nat) : (bumpEv s ev c n).pace = s.pace := by rw [bumpEv_frame]
@[simp] theorem bumpEv_fab (s : State) (ev : Nat) (c : EvCtx) (n : Nat) : (bumpEv s ev c n).fab = s.fab := by rw [bumpEv_frame]
@[simp] theorem bumpEv_optics (s : State) (ev : Nat) (c : EvCtx) (n : Nat) : (bumpEv s ev c n).optics = s.optics := by rw [bumpEv_frame]
@[simp] theorem bumpEv_cal (s : State) (ev : Nat) (c : EvCtx) (n : Nat) : (bumpEv s ev c n).cal = s.cal := by rw [bumpEv_frame]
@[simp] theorem bumpEv_engA (s : State) (ev : Nat) (c : EvCtx) (n : Nat) : (bumpEv s ev c n).engA = s.engA := by rw [bumpEv_frame]
@[simp] theorem bumpEv_engB (s : State) (ev : Nat) (c : EvCtx) (n : Nat) : (bumpEv s ev c n).engB = s.engB := by rw [bumpEv_frame]
@[simp] theorem bumpEv_drivers (s : State) (ev : Nat) (c : EvCtx) (n : Nat) : (bumpEv s ev c n).drivers = s.drivers := by rw [bumpEv_frame]
@[simp] theorem bumpEv_elec (s : State) (ev : Nat) (c : EvCtx) (n : Nat) : (bumpEv s ev c n).elec = s.elec := by rw [bumpEv_frame]

@[simp] theorem degradeRecorder_pending (s : State) (h : Hub) : (degradeRecorder s h).pending = s.pending := by simp [degradeRecorder]
@[simp] theorem degradeRecorder_out (s : State) (h : Hub) : (degradeRecorder s h).out = s.out := by simp [degradeRecorder]
@[simp] theorem degradeRecorder_free (s : State) (h : Hub) : (degradeRecorder s h).free = s.free := by simp [degradeRecorder]
@[simp] theorem degradeRecorder_ident (s : State) (h : Hub) : (degradeRecorder s h).ident = s.ident := by simp [degradeRecorder]
@[simp] theorem degradeRecorder_phase (s : State) (h : Hub) : (degradeRecorder s h).phase = s.phase := by simp [degradeRecorder]
@[simp] theorem degradeRecorder_tb (s : State) (h : Hub) : (degradeRecorder s h).tb = s.tb := by simp [degradeRecorder]
@[simp] theorem degradeRecorder_servo (s : State) (h : Hub) : (degradeRecorder s h).servo = s.servo := by simp [degradeRecorder]
@[simp] theorem degradeRecorder_sessions (s : State) (h : Hub) : (degradeRecorder s h).sessions = s.sessions := by simp [degradeRecorder]
@[simp] theorem degradeRecorder_stages (s : State) (h : Hub) : (degradeRecorder s h).stages = s.stages := by simp [degradeRecorder]
@[simp] theorem degradeRecorder_sessionNext (s : State) (h : Hub) : (degradeRecorder s h).sessionNext = s.sessionNext := by simp [degradeRecorder]
@[simp] theorem degradeRecorder_partials (s : State) (h : Hub) : (degradeRecorder s h).partials = s.partials := by simp [degradeRecorder]
@[simp] theorem degradeRecorder_untagged (s : State) (h : Hub) : (degradeRecorder s h).untagged = s.untagged := by simp [degradeRecorder]
@[simp] theorem degradeRecorder_pl (s : State) (h : Hub) : (degradeRecorder s h).pl = s.pl := by simp [degradeRecorder]
@[simp] theorem degradeRecorder_dies (s : State) (h : Hub) : (degradeRecorder s h).dies = s.dies := by simp [degradeRecorder]
@[simp] theorem degradeRecorder_remembered (s : State) (h : Hub) : (degradeRecorder s h).remembered = s.remembered := by simp [degradeRecorder]
@[simp] theorem degradeRecorder_counts (s : State) (h : Hub) : (degradeRecorder s h).counts = s.counts := by simp [degradeRecorder]
@[simp] theorem degradeRecorder_sampling (s : State) (h : Hub) : (degradeRecorder s h).sampling = s.sampling := by simp [degradeRecorder]
@[simp] theorem degradeRecorder_active (s : State) (h : Hub) : (degradeRecorder s h).active = s.active := by simp [degradeRecorder]
@[simp] theorem degradeRecorder_last (s : State) (h : Hub) : (degradeRecorder s h).last = s.last := by simp [degradeRecorder]
@[simp] theorem degradeRecorder_xlink (s : State) (h : Hub) : (degradeRecorder s h).xlink = s.xlink := by simp [degradeRecorder]
@[simp] theorem degradeRecorder_synced (s : State) (h : Hub) : (degradeRecorder s h).synced = s.synced := by simp [degradeRecorder]
@[simp] theorem degradeRecorder_heldReports (s : State) (h : Hub) : (degradeRecorder s h).heldReports = s.heldReports := by simp [degradeRecorder]
@[simp] theorem degradeRecorder_fw (s : State) (h : Hub) : (degradeRecorder s h).fw = s.fw := by simp [degradeRecorder]
@[simp] theorem degradeRecorder_optime (s : State) (h : Hub) : (degradeRecorder s h).optime = s.optime := by simp [degradeRecorder]
@[simp] theorem degradeRecorder_optimeSaved (s : State) (h : Hub) : (degradeRecorder s h).optimeSaved = s.optimeSaved := by simp [degradeRecorder]
@[simp] theorem degradeRecorder_cycles (s : State) (h : Hub) : (degradeRecorder s h).cycles = s.cycles := by simp [degradeRecorder]
@[simp] theorem degradeRecorder_roceRate (s : State) (h : Hub) : (degradeRecorder s h).roceRate = s.roceRate := by simp [degradeRecorder]
@[simp] theorem degradeRecorder_sec (s : State) (h : Hub) : (degradeRecorder s h).sec = s.sec := by simp [degradeRecorder]
@[simp] theorem degradeRecorder_pace (s : State) (h : Hub) : (degradeRecorder s h).pace = s.pace := by simp [degradeRecorder]
@[simp] theorem degradeRecorder_fab (s : State) (h : Hub) : (degradeRecorder s h).fab = s.fab := by simp [degradeRecorder]
@[simp] theorem degradeRecorder_optics (s : State) (h : Hub) : (degradeRecorder s h).optics = s.optics := by simp [degradeRecorder]
@[simp] theorem degradeRecorder_cal (s : State) (h : Hub) : (degradeRecorder s h).cal = s.cal := by simp [degradeRecorder]
@[simp] theorem degradeRecorder_engA (s : State) (h : Hub) : (degradeRecorder s h).engA = s.engA := by simp [degradeRecorder]
@[simp] theorem degradeRecorder_engB (s : State) (h : Hub) : (degradeRecorder s h).engB = s.engB := by simp [degradeRecorder]
@[simp] theorem degradeRecorder_drivers (s : State) (h : Hub) : (degradeRecorder s h).drivers = s.drivers := by simp [degradeRecorder]
@[simp] theorem degradeRecorder_elec (s : State) (h : Hub) : (degradeRecorder s h).elec = s.elec := by simp [degradeRecorder]

@[simp] theorem writeRecord_pending (s : State) (h : Hub) (r : Report) : (writeRecord s h r).pending = s.pending := by unfold writeRecord recordWithin; dsimp only; split <;> simp [apply_ite State.pending]
@[simp] theorem writeRecord_out (s : State) (h : Hub) (r : Report) : (writeRecord s h r).out = s.out := by unfold writeRecord recordWithin; dsimp only; split <;> simp [apply_ite State.out]
@[simp] theorem writeRecord_free (s : State) (h : Hub) (r : Report) : (writeRecord s h r).free = s.free := by unfold writeRecord recordWithin; dsimp only; split <;> simp [apply_ite State.free]
@[simp] theorem writeRecord_ident (s : State) (h : Hub) (r : Report) : (writeRecord s h r).ident = s.ident := by unfold writeRecord recordWithin; dsimp only; split <;> simp [apply_ite State.ident]
@[simp] theorem writeRecord_phase (s : State) (h : Hub) (r : Report) : (writeRecord s h r).phase = s.phase := by unfold writeRecord recordWithin; dsimp only; split <;> simp [apply_ite State.phase]
@[simp] theorem writeRecord_tb (s : State) (h : Hub) (r : Report) : (writeRecord s h r).tb = s.tb := by unfold writeRecord recordWithin; dsimp only; split <;> simp [apply_ite State.tb]
@[simp] theorem writeRecord_servo (s : State) (h : Hub) (r : Report) : (writeRecord s h r).servo = s.servo := by unfold writeRecord recordWithin; dsimp only; split <;> simp [apply_ite State.servo]
@[simp] theorem writeRecord_sessions (s : State) (h : Hub) (r : Report) : (writeRecord s h r).sessions = s.sessions := by unfold writeRecord recordWithin; dsimp only; split <;> simp [apply_ite State.sessions]
@[simp] theorem writeRecord_stages (s : State) (h : Hub) (r : Report) : (writeRecord s h r).stages = s.stages := by unfold writeRecord recordWithin; dsimp only; split <;> simp [apply_ite State.stages]
@[simp] theorem writeRecord_sessionNext (s : State) (h : Hub) (r : Report) : (writeRecord s h r).sessionNext = s.sessionNext := by unfold writeRecord recordWithin; dsimp only; split <;> simp [apply_ite State.sessionNext]
@[simp] theorem writeRecord_partials (s : State) (h : Hub) (r : Report) : (writeRecord s h r).partials = s.partials := by unfold writeRecord recordWithin; dsimp only; split <;> simp [apply_ite State.partials]
@[simp] theorem writeRecord_untagged (s : State) (h : Hub) (r : Report) : (writeRecord s h r).untagged = s.untagged := by unfold writeRecord recordWithin; dsimp only; split <;> simp [apply_ite State.untagged]
@[simp] theorem writeRecord_pl (s : State) (h : Hub) (r : Report) : (writeRecord s h r).pl = s.pl := by unfold writeRecord recordWithin; dsimp only; split <;> simp [apply_ite State.pl]
@[simp] theorem writeRecord_dies (s : State) (h : Hub) (r : Report) : (writeRecord s h r).dies = s.dies := by unfold writeRecord recordWithin; dsimp only; split <;> simp [apply_ite State.dies]
@[simp] theorem writeRecord_remembered (s : State) (h : Hub) (r : Report) : (writeRecord s h r).remembered = s.remembered := by unfold writeRecord recordWithin; dsimp only; split <;> simp [apply_ite State.remembered]
@[simp] theorem writeRecord_counts (s : State) (h : Hub) (r : Report) : (writeRecord s h r).counts = s.counts := by unfold writeRecord recordWithin; dsimp only; split <;> simp [apply_ite State.counts]
@[simp] theorem writeRecord_sampling (s : State) (h : Hub) (r : Report) : (writeRecord s h r).sampling = s.sampling := by unfold writeRecord recordWithin; dsimp only; split <;> simp [apply_ite State.sampling]
@[simp] theorem writeRecord_active (s : State) (h : Hub) (r : Report) : (writeRecord s h r).active = s.active := by unfold writeRecord recordWithin; dsimp only; split <;> simp [apply_ite State.active]
@[simp] theorem writeRecord_last (s : State) (h : Hub) (r : Report) : (writeRecord s h r).last = s.last := by unfold writeRecord recordWithin; dsimp only; split <;> simp [apply_ite State.last]
@[simp] theorem writeRecord_xlink (s : State) (h : Hub) (r : Report) : (writeRecord s h r).xlink = s.xlink := by unfold writeRecord recordWithin; dsimp only; split <;> simp [apply_ite State.xlink]
@[simp] theorem writeRecord_synced (s : State) (h : Hub) (r : Report) : (writeRecord s h r).synced = s.synced := by unfold writeRecord recordWithin; dsimp only; split <;> simp [apply_ite State.synced]
@[simp] theorem writeRecord_heldReports (s : State) (h : Hub) (r : Report) : (writeRecord s h r).heldReports = s.heldReports := by unfold writeRecord recordWithin; dsimp only; split <;> simp [apply_ite State.heldReports]
@[simp] theorem writeRecord_fw (s : State) (h : Hub) (r : Report) : (writeRecord s h r).fw = s.fw := by unfold writeRecord recordWithin; dsimp only; split <;> simp [apply_ite State.fw]
@[simp] theorem writeRecord_optime (s : State) (h : Hub) (r : Report) : (writeRecord s h r).optime = s.optime := by unfold writeRecord recordWithin; dsimp only; split <;> simp [apply_ite State.optime]
@[simp] theorem writeRecord_optimeSaved (s : State) (h : Hub) (r : Report) : (writeRecord s h r).optimeSaved = s.optimeSaved := by unfold writeRecord recordWithin; dsimp only; split <;> simp [apply_ite State.optimeSaved]
@[simp] theorem writeRecord_cycles (s : State) (h : Hub) (r : Report) : (writeRecord s h r).cycles = s.cycles := by unfold writeRecord recordWithin; dsimp only; split <;> simp [apply_ite State.cycles]
@[simp] theorem writeRecord_roceRate (s : State) (h : Hub) (r : Report) : (writeRecord s h r).roceRate = s.roceRate := by unfold writeRecord recordWithin; dsimp only; split <;> simp [apply_ite State.roceRate]
@[simp] theorem writeRecord_sec (s : State) (h : Hub) (r : Report) : (writeRecord s h r).sec = s.sec := by unfold writeRecord recordWithin; dsimp only; split <;> simp [apply_ite State.sec]
@[simp] theorem writeRecord_pace (s : State) (h : Hub) (r : Report) : (writeRecord s h r).pace = s.pace := by unfold writeRecord recordWithin; dsimp only; split <;> simp [apply_ite State.pace]
@[simp] theorem writeRecord_fab (s : State) (h : Hub) (r : Report) : (writeRecord s h r).fab = s.fab := by unfold writeRecord recordWithin; dsimp only; split <;> simp [apply_ite State.fab]
@[simp] theorem writeRecord_optics (s : State) (h : Hub) (r : Report) : (writeRecord s h r).optics = s.optics := by unfold writeRecord recordWithin; dsimp only; split <;> simp [apply_ite State.optics]
@[simp] theorem writeRecord_cal (s : State) (h : Hub) (r : Report) : (writeRecord s h r).cal = s.cal := by unfold writeRecord recordWithin; dsimp only; split <;> simp [apply_ite State.cal]
@[simp] theorem writeRecord_engA (s : State) (h : Hub) (r : Report) : (writeRecord s h r).engA = s.engA := by unfold writeRecord recordWithin; dsimp only; split <;> simp [apply_ite State.engA]
@[simp] theorem writeRecord_engB (s : State) (h : Hub) (r : Report) : (writeRecord s h r).engB = s.engB := by unfold writeRecord recordWithin; dsimp only; split <;> simp [apply_ite State.engB]
@[simp] theorem writeRecord_drivers (s : State) (h : Hub) (r : Report) : (writeRecord s h r).drivers = s.drivers := by unfold writeRecord recordWithin; dsimp only; split <;> simp [apply_ite State.drivers]
@[simp] theorem writeRecord_elec (s : State) (h : Hub) (r : Report) : (writeRecord s h r).elec = s.elec := by unfold writeRecord recordWithin; dsimp only; split <;> simp [apply_ite State.elec]

@[simp] theorem hostEvents_pending (s : State) (h : Hub) (r : Report) : (hostEvents s h r).pending = s.pending := rfl
@[simp] theorem hostEvents_free (s : State) (h : Hub) (r : Report) : (hostEvents s h r).free = s.free := rfl
@[simp] theorem hostEvents_ident (s : State) (h : Hub) (r : Report) : (hostEvents s h r).ident = s.ident := rfl
@[simp] theorem hostEvents_phase (s : State) (h : Hub) (r : Report) : (hostEvents s h r).phase = s.phase := rfl
@[simp] theorem hostEvents_regs (s : State) (h : Hub) (r : Report) : (hostEvents s h r).regs = s.regs := rfl
@[simp] theorem hostEvents_tb (s : State) (h : Hub) (r : Report) : (hostEvents s h r).tb = s.tb := rfl
@[simp] theorem hostEvents_servo (s : State) (h : Hub) (r : Report) : (hostEvents s h r).servo = s.servo := rfl
@[simp] theorem hostEvents_stages (s : State) (h : Hub) (r : Report) : (hostEvents s h r).stages = s.stages := rfl
@[simp] theorem hostEvents_sessionNext (s : State) (h : Hub) (r : Report) : (hostEvents s h r).sessionNext = s.sessionNext := rfl
@[simp] theorem hostEvents_partials (s : State) (h : Hub) (r : Report) : (hostEvents s h r).partials = s.partials := rfl
@[simp] theorem hostEvents_untagged (s : State) (h : Hub) (r : Report) : (hostEvents s h r).untagged = s.untagged := rfl
@[simp] theorem hostEvents_pl (s : State) (h : Hub) (r : Report) : (hostEvents s h r).pl = s.pl := rfl
@[simp] theorem hostEvents_dies (s : State) (h : Hub) (r : Report) : (hostEvents s h r).dies = s.dies := rfl
@[simp] theorem hostEvents_remembered (s : State) (h : Hub) (r : Report) : (hostEvents s h r).remembered = s.remembered := rfl
@[simp] theorem hostEvents_counts (s : State) (h : Hub) (r : Report) : (hostEvents s h r).counts = s.counts := rfl
@[simp] theorem hostEvents_sampling (s : State) (h : Hub) (r : Report) : (hostEvents s h r).sampling = s.sampling := rfl
@[simp] theorem hostEvents_ha (s : State) (h : Hub) (r : Report) : (hostEvents s h r).ha = s.ha := rfl
@[simp] theorem hostEvents_hb (s : State) (h : Hub) (r : Report) : (hostEvents s h r).hb = s.hb := rfl
@[simp] theorem hostEvents_active (s : State) (h : Hub) (r : Report) : (hostEvents s h r).active = s.active := rfl
@[simp] theorem hostEvents_last (s : State) (h : Hub) (r : Report) : (hostEvents s h r).last = s.last := rfl
@[simp] theorem hostEvents_xlink (s : State) (h : Hub) (r : Report) : (hostEvents s h r).xlink = s.xlink := rfl
@[simp] theorem hostEvents_synced (s : State) (h : Hub) (r : Report) : (hostEvents s h r).synced = s.synced := rfl
@[simp] theorem hostEvents_heldReports (s : State) (h : Hub) (r : Report) : (hostEvents s h r).heldReports = s.heldReports := rfl
@[simp] theorem hostEvents_fw (s : State) (h : Hub) (r : Report) : (hostEvents s h r).fw = s.fw := rfl
@[simp] theorem hostEvents_optime (s : State) (h : Hub) (r : Report) : (hostEvents s h r).optime = s.optime := rfl
@[simp] theorem hostEvents_optimeSaved (s : State) (h : Hub) (r : Report) : (hostEvents s h r).optimeSaved = s.optimeSaved := rfl
@[simp] theorem hostEvents_cycles (s : State) (h : Hub) (r : Report) : (hostEvents s h r).cycles = s.cycles := rfl
@[simp] theorem hostEvents_roceRate (s : State) (h : Hub) (r : Report) : (hostEvents s h r).roceRate = s.roceRate := rfl
@[simp] theorem hostEvents_sec (s : State) (h : Hub) (r : Report) : (hostEvents s h r).sec = s.sec := rfl
@[simp] theorem hostEvents_pace (s : State) (h : Hub) (r : Report) : (hostEvents s h r).pace = s.pace := rfl
@[simp] theorem hostEvents_fab (s : State) (h : Hub) (r : Report) : (hostEvents s h r).fab = s.fab := rfl
@[simp] theorem hostEvents_optics (s : State) (h : Hub) (r : Report) : (hostEvents s h r).optics = s.optics := rfl
@[simp] theorem hostEvents_cal (s : State) (h : Hub) (r : Report) : (hostEvents s h r).cal = s.cal := rfl
@[simp] theorem hostEvents_engA (s : State) (h : Hub) (r : Report) : (hostEvents s h r).engA = s.engA := rfl
@[simp] theorem hostEvents_engB (s : State) (h : Hub) (r : Report) : (hostEvents s h r).engB = s.engB := rfl
@[simp] theorem hostEvents_drivers (s : State) (h : Hub) (r : Report) : (hostEvents s h r).drivers = s.drivers := rfl
@[simp] theorem hostEvents_elec (s : State) (h : Hub) (r : Report) : (hostEvents s h r).elec = s.elec := rfl

@[simp] theorem fileReport_pending (s : State) (r : Report) : (fileReport s r).pending = s.pending := by unfold fileReport; split <;> (try split) <;> (try split) <;> simp
@[simp] theorem fileReport_free (s : State) (r : Report) : (fileReport s r).free = s.free := by unfold fileReport; split <;> (try split) <;> (try split) <;> simp
@[simp] theorem fileReport_ident (s : State) (r : Report) : (fileReport s r).ident = s.ident := by unfold fileReport; split <;> (try split) <;> (try split) <;> simp
@[simp] theorem fileReport_phase (s : State) (r : Report) : (fileReport s r).phase = s.phase := by unfold fileReport; split <;> (try split) <;> (try split) <;> simp
@[simp] theorem fileReport_tb (s : State) (r : Report) : (fileReport s r).tb = s.tb := by unfold fileReport; split <;> (try split) <;> (try split) <;> simp
@[simp] theorem fileReport_servo (s : State) (r : Report) : (fileReport s r).servo = s.servo := by unfold fileReport; split <;> (try split) <;> (try split) <;> simp
@[simp] theorem fileReport_stages (s : State) (r : Report) : (fileReport s r).stages = s.stages := by unfold fileReport; split <;> (try split) <;> (try split) <;> simp
@[simp] theorem fileReport_sessionNext (s : State) (r : Report) : (fileReport s r).sessionNext = s.sessionNext := by unfold fileReport; split <;> (try split) <;> (try split) <;> simp
@[simp] theorem fileReport_partials (s : State) (r : Report) : (fileReport s r).partials = s.partials := by unfold fileReport; split <;> (try split) <;> (try split) <;> simp
@[simp] theorem fileReport_untagged (s : State) (r : Report) : (fileReport s r).untagged = s.untagged := by unfold fileReport; split <;> (try split) <;> (try split) <;> simp
@[simp] theorem fileReport_pl (s : State) (r : Report) : (fileReport s r).pl = s.pl := by unfold fileReport; split <;> (try split) <;> (try split) <;> simp
@[simp] theorem fileReport_dies (s : State) (r : Report) : (fileReport s r).dies = s.dies := by unfold fileReport; split <;> (try split) <;> (try split) <;> simp
@[simp] theorem fileReport_remembered (s : State) (r : Report) : (fileReport s r).remembered = s.remembered := by unfold fileReport; split <;> (try split) <;> (try split) <;> simp
@[simp] theorem fileReport_counts (s : State) (r : Report) : (fileReport s r).counts = s.counts := by unfold fileReport; split <;> (try split) <;> (try split) <;> simp
@[simp] theorem fileReport_sampling (s : State) (r : Report) : (fileReport s r).sampling = s.sampling := by unfold fileReport; split <;> (try split) <;> (try split) <;> simp
@[simp] theorem fileReport_active (s : State) (r : Report) : (fileReport s r).active = s.active := by unfold fileReport; split <;> (try split) <;> (try split) <;> simp
@[simp] theorem fileReport_last (s : State) (r : Report) : (fileReport s r).last = s.last := by unfold fileReport; split <;> (try split) <;> (try split) <;> simp
@[simp] theorem fileReport_xlink (s : State) (r : Report) : (fileReport s r).xlink = s.xlink := by unfold fileReport; split <;> (try split) <;> (try split) <;> simp
@[simp] theorem fileReport_synced (s : State) (r : Report) : (fileReport s r).synced = s.synced := by unfold fileReport; split <;> (try split) <;> (try split) <;> simp
@[simp] theorem fileReport_fw (s : State) (r : Report) : (fileReport s r).fw = s.fw := by unfold fileReport; split <;> (try split) <;> (try split) <;> simp
@[simp] theorem fileReport_optime (s : State) (r : Report) : (fileReport s r).optime = s.optime := by unfold fileReport; split <;> (try split) <;> (try split) <;> simp
@[simp] theorem fileReport_optimeSaved (s : State) (r : Report) : (fileReport s r).optimeSaved = s.optimeSaved := by unfold fileReport; split <;> (try split) <;> (try split) <;> simp
@[simp] theorem fileReport_cycles (s : State) (r : Report) : (fileReport s r).cycles = s.cycles := by unfold fileReport; split <;> (try split) <;> (try split) <;> simp
@[simp] theorem fileReport_roceRate (s : State) (r : Report) : (fileReport s r).roceRate = s.roceRate := by unfold fileReport; split <;> (try split) <;> (try split) <;> simp
@[simp] theorem fileReport_sec (s : State) (r : Report) : (fileReport s r).sec = s.sec := by unfold fileReport; split <;> (try split) <;> (try split) <;> simp
@[simp] theorem fileReport_pace (s : State) (r : Report) : (fileReport s r).pace = s.pace := by unfold fileReport; split <;> (try split) <;> (try split) <;> simp
@[simp] theorem fileReport_fab (s : State) (r : Report) : (fileReport s r).fab = s.fab := by unfold fileReport; split <;> (try split) <;> (try split) <;> simp
@[simp] theorem fileReport_optics (s : State) (r : Report) : (fileReport s r).optics = s.optics := by unfold fileReport; split <;> (try split) <;> (try split) <;> simp
@[simp] theorem fileReport_cal (s : State) (r : Report) : (fileReport s r).cal = s.cal := by unfold fileReport; split <;> (try split) <;> (try split) <;> simp
@[simp] theorem fileReport_engA (s : State) (r : Report) : (fileReport s r).engA = s.engA := by unfold fileReport; split <;> (try split) <;> (try split) <;> simp
@[simp] theorem fileReport_engB (s : State) (r : Report) : (fileReport s r).engB = s.engB := by unfold fileReport; split <;> (try split) <;> (try split) <;> simp
@[simp] theorem fileReport_drivers (s : State) (r : Report) : (fileReport s r).drivers = s.drivers := by unfold fileReport; split <;> (try split) <;> (try split) <;> simp
@[simp] theorem fileReport_elec (s : State) (r : Report) : (fileReport s r).elec = s.elec := by unfold fileReport; split <;> (try split) <;> (try split) <;> simp

@[simp] theorem reportNow_pending (s : State) (a b c : Nat) (d : List Byte) (x y : Bool) : (reportNow s a b c d x y).pending = s.pending := fileReport_pending s _
@[simp] theorem reportNow_free (s : State) (a b c : Nat) (d : List Byte) (x y : Bool) : (reportNow s a b c d x y).free = s.free := fileReport_free s _
@[simp] theorem reportNow_ident (s : State) (a b c : Nat) (d : List Byte) (x y : Bool) : (reportNow s a b c d x y).ident = s.ident := fileReport_ident s _
@[simp] theorem reportNow_phase (s : State) (a b c : Nat) (d : List Byte) (x y : Bool) : (reportNow s a b c d x y).phase = s.phase := fileReport_phase s _
@[simp] theorem reportNow_tb (s : State) (a b c : Nat) (d : List Byte) (x y : Bool) : (reportNow s a b c d x y).tb = s.tb := fileReport_tb s _
@[simp] theorem reportNow_servo (s : State) (a b c : Nat) (d : List Byte) (x y : Bool) : (reportNow s a b c d x y).servo = s.servo := fileReport_servo s _
@[simp] theorem reportNow_stages (s : State) (a b c : Nat) (d : List Byte) (x y : Bool) : (reportNow s a b c d x y).stages = s.stages := fileReport_stages s _
@[simp] theorem reportNow_sessionNext (s : State) (a b c : Nat) (d : List Byte) (x y : Bool) : (reportNow s a b c d x y).sessionNext = s.sessionNext := fileReport_sessionNext s _
@[simp] theorem reportNow_partials (s : State) (a b c : Nat) (d : List Byte) (x y : Bool) : (reportNow s a b c d x y).partials = s.partials := fileReport_partials s _
@[simp] theorem reportNow_untagged (s : State) (a b c : Nat) (d : List Byte) (x y : Bool) : (reportNow s a b c d x y).untagged = s.untagged := fileReport_untagged s _
@[simp] theorem reportNow_pl (s : State) (a b c : Nat) (d : List Byte) (x y : Bool) : (reportNow s a b c d x y).pl = s.pl := fileReport_pl s _
@[simp] theorem reportNow_dies (s : State) (a b c : Nat) (d : List Byte) (x y : Bool) : (reportNow s a b c d x y).dies = s.dies := fileReport_dies s _
@[simp] theorem reportNow_remembered (s : State) (a b c : Nat) (d : List Byte) (x y : Bool) : (reportNow s a b c d x y).remembered = s.remembered := fileReport_remembered s _
@[simp] theorem reportNow_counts (s : State) (a b c : Nat) (d : List Byte) (x y : Bool) : (reportNow s a b c d x y).counts = s.counts := fileReport_counts s _
@[simp] theorem reportNow_sampling (s : State) (a b c : Nat) (d : List Byte) (x y : Bool) : (reportNow s a b c d x y).sampling = s.sampling := fileReport_sampling s _
@[simp] theorem reportNow_active (s : State) (a b c : Nat) (d : List Byte) (x y : Bool) : (reportNow s a b c d x y).active = s.active := fileReport_active s _
@[simp] theorem reportNow_last (s : State) (a b c : Nat) (d : List Byte) (x y : Bool) : (reportNow s a b c d x y).last = s.last := fileReport_last s _
@[simp] theorem reportNow_xlink (s : State) (a b c : Nat) (d : List Byte) (x y : Bool) : (reportNow s a b c d x y).xlink = s.xlink := fileReport_xlink s _
@[simp] theorem reportNow_synced (s : State) (a b c : Nat) (d : List Byte) (x y : Bool) : (reportNow s a b c d x y).synced = s.synced := fileReport_synced s _
@[simp] theorem reportNow_fw (s : State) (a b c : Nat) (d : List Byte) (x y : Bool) : (reportNow s a b c d x y).fw = s.fw := fileReport_fw s _
@[simp] theorem reportNow_optime (s : State) (a b c : Nat) (d : List Byte) (x y : Bool) : (reportNow s a b c d x y).optime = s.optime := fileReport_optime s _
@[simp] theorem reportNow_optimeSaved (s : State) (a b c : Nat) (d : List Byte) (x y : Bool) : (reportNow s a b c d x y).optimeSaved = s.optimeSaved := fileReport_optimeSaved s _
@[simp] theorem reportNow_cycles (s : State) (a b c : Nat) (d : List Byte) (x y : Bool) : (reportNow s a b c d x y).cycles = s.cycles := fileReport_cycles s _
@[simp] theorem reportNow_roceRate (s : State) (a b c : Nat) (d : List Byte) (x y : Bool) : (reportNow s a b c d x y).roceRate = s.roceRate := fileReport_roceRate s _
@[simp] theorem reportNow_sec (s : State) (a b c : Nat) (d : List Byte) (x y : Bool) : (reportNow s a b c d x y).sec = s.sec := fileReport_sec s _
@[simp] theorem reportNow_pace (s : State) (a b c : Nat) (d : List Byte) (x y : Bool) : (reportNow s a b c d x y).pace = s.pace := fileReport_pace s _
@[simp] theorem reportNow_fab (s : State) (a b c : Nat) (d : List Byte) (x y : Bool) : (reportNow s a b c d x y).fab = s.fab := fileReport_fab s _
@[simp] theorem reportNow_optics (s : State) (a b c : Nat) (d : List Byte) (x y : Bool) : (reportNow s a b c d x y).optics = s.optics := fileReport_optics s _
@[simp] theorem reportNow_cal (s : State) (a b c : Nat) (d : List Byte) (x y : Bool) : (reportNow s a b c d x y).cal = s.cal := fileReport_cal s _
@[simp] theorem reportNow_engA (s : State) (a b c : Nat) (d : List Byte) (x y : Bool) : (reportNow s a b c d x y).engA = s.engA := fileReport_engA s _
@[simp] theorem reportNow_engB (s : State) (a b c : Nat) (d : List Byte) (x y : Bool) : (reportNow s a b c d x y).engB = s.engB := fileReport_engB s _
@[simp] theorem reportNow_drivers (s : State) (a b c : Nat) (d : List Byte) (x y : Bool) : (reportNow s a b c d x y).drivers = s.drivers := fileReport_drivers s _
@[simp] theorem reportNow_elec (s : State) (a b c : Nat) (d : List Byte) (x y : Bool) : (reportNow s a b c d x y).elec = s.elec := fileReport_elec s _

@[simp] theorem report_pending (s : State) (a b c : Nat) (d : List Byte) : (report s a b c d).pending = s.pending := reportNow_pending s _ _ _ _ _ _
@[simp] theorem report_free (s : State) (a b c : Nat) (d : List Byte) : (report s a b c d).free = s.free := reportNow_free s _ _ _ _ _ _
@[simp] theorem report_ident (s : State) (a b c : Nat) (d : List Byte) : (report s a b c d).ident = s.ident := reportNow_ident s _ _ _ _ _ _
@[simp] theorem report_phase (s : State) (a b c : Nat) (d : List Byte) : (report s a b c d).phase = s.phase := reportNow_phase s _ _ _ _ _ _
@[simp] theorem report_tb (s : State) (a b c : Nat) (d : List Byte) : (report s a b c d).tb = s.tb := reportNow_tb s _ _ _ _ _ _
@[simp] theorem report_servo (s : State) (a b c : Nat) (d : List Byte) : (report s a b c d).servo = s.servo := reportNow_servo s _ _ _ _ _ _
@[simp] theorem report_stages (s : State) (a b c : Nat) (d : List Byte) : (report s a b c d).stages = s.stages := reportNow_stages s _ _ _ _ _ _
@[simp] theorem report_sessionNext (s : State) (a b c : Nat) (d : List Byte) : (report s a b c d).sessionNext = s.sessionNext := reportNow_sessionNext s _ _ _ _ _ _
@[simp] theorem report_partials (s : State) (a b c : Nat) (d : List Byte) : (report s a b c d).partials = s.partials := reportNow_partials s _ _ _ _ _ _
@[simp] theorem report_untagged (s : State) (a b c : Nat) (d : List Byte) : (report s a b c d).untagged = s.untagged := reportNow_untagged s _ _ _ _ _ _
@[simp] theorem report_pl (s : State) (a b c : Nat) (d : List Byte) : (report s a b c d).pl = s.pl := reportNow_pl s _ _ _ _ _ _
@[simp] theorem report_dies (s : State) (a b c : Nat) (d : List Byte) : (report s a b c d).dies = s.dies := reportNow_dies s _ _ _ _ _ _
@[simp] theorem report_remembered (s : State) (a b c : Nat) (d : List Byte) : (report s a b c d).remembered = s.remembered := reportNow_remembered s _ _ _ _ _ _
@[simp] theorem report_counts (s : State) (a b c : Nat) (d : List Byte) : (report s a b c d).counts = s.counts := reportNow_counts s _ _ _ _ _ _
@[simp] theorem report_sampling (s : State) (a b c : Nat) (d : List Byte) : (report s a b c d).sampling = s.sampling := reportNow_sampling s _ _ _ _ _ _
@[simp] theorem report_active (s : State) (a b c : Nat) (d : List Byte) : (report s a b c d).active = s.active := reportNow_active s _ _ _ _ _ _
@[simp] theorem report_last (s : State) (a b c : Nat) (d : List Byte) : (report s a b c d).last = s.last := reportNow_last s _ _ _ _ _ _
@[simp] theorem report_xlink (s : State) (a b c : Nat) (d : List Byte) : (report s a b c d).xlink = s.xlink := reportNow_xlink s _ _ _ _ _ _
@[simp] theorem report_synced (s : State) (a b c : Nat) (d : List Byte) : (report s a b c d).synced = s.synced := reportNow_synced s _ _ _ _ _ _
@[simp] theorem report_fw (s : State) (a b c : Nat) (d : List Byte) : (report s a b c d).fw = s.fw := reportNow_fw s _ _ _ _ _ _
@[simp] theorem report_optime (s : State) (a b c : Nat) (d : List Byte) : (report s a b c d).optime = s.optime := reportNow_optime s _ _ _ _ _ _
@[simp] theorem report_optimeSaved (s : State) (a b c : Nat) (d : List Byte) : (report s a b c d).optimeSaved = s.optimeSaved := reportNow_optimeSaved s _ _ _ _ _ _
@[simp] theorem report_cycles (s : State) (a b c : Nat) (d : List Byte) : (report s a b c d).cycles = s.cycles := reportNow_cycles s _ _ _ _ _ _
@[simp] theorem report_roceRate (s : State) (a b c : Nat) (d : List Byte) : (report s a b c d).roceRate = s.roceRate := reportNow_roceRate s _ _ _ _ _ _
@[simp] theorem report_sec (s : State) (a b c : Nat) (d : List Byte) : (report s a b c d).sec = s.sec := reportNow_sec s _ _ _ _ _ _
@[simp] theorem report_pace (s : State) (a b c : Nat) (d : List Byte) : (report s a b c d).pace = s.pace := reportNow_pace s _ _ _ _ _ _
@[simp] theorem report_fab (s : State) (a b c : Nat) (d : List Byte) : (report s a b c d).fab = s.fab := reportNow_fab s _ _ _ _ _ _
@[simp] theorem report_optics (s : State) (a b c : Nat) (d : List Byte) : (report s a b c d).optics = s.optics := reportNow_optics s _ _ _ _ _ _
@[simp] theorem report_cal (s : State) (a b c : Nat) (d : List Byte) : (report s a b c d).cal = s.cal := reportNow_cal s _ _ _ _ _ _
@[simp] theorem report_engA (s : State) (a b c : Nat) (d : List Byte) : (report s a b c d).engA = s.engA := reportNow_engA s _ _ _ _ _ _
@[simp] theorem report_engB (s : State) (a b c : Nat) (d : List Byte) : (report s a b c d).engB = s.engB := reportNow_engB s _ _ _ _ _ _
@[simp] theorem report_drivers (s : State) (a b c : Nat) (d : List Byte) : (report s a b c d).drivers = s.drivers := reportNow_drivers s _ _ _ _ _ _
@[simp] theorem report_elec (s : State) (a b c : Nat) (d : List Byte) : (report s a b c d).elec = s.elec := reportNow_elec s _ _ _ _ _ _

@[simp] theorem hubReport_pending (s : State) (c : Nat) (d : List Byte) : (hubReport s c d).pending = s.pending := report_pending s _ _ _ _
@[simp] theorem hubReport_free (s : State) (c : Nat) (d : List Byte) : (hubReport s c d).free = s.free := report_free s _ _ _ _
@[simp] theorem hubReport_ident (s : State) (c : Nat) (d : List Byte) : (hubReport s c d).ident = s.ident := report_ident s _ _ _ _
@[simp] theorem hubReport_phase (s : State) (c : Nat) (d : List Byte) : (hubReport s c d).phase = s.phase := report_phase s _ _ _ _
@[simp] theorem hubReport_tb (s : State) (c : Nat) (d : List Byte) : (hubReport s c d).tb = s.tb := report_tb s _ _ _ _
@[simp] theorem hubReport_servo (s : State) (c : Nat) (d : List Byte) : (hubReport s c d).servo = s.servo := report_servo s _ _ _ _
@[simp] theorem hubReport_stages (s : State) (c : Nat) (d : List Byte) : (hubReport s c d).stages = s.stages := report_stages s _ _ _ _
@[simp] theorem hubReport_sessionNext (s : State) (c : Nat) (d : List Byte) : (hubReport s c d).sessionNext = s.sessionNext := report_sessionNext s _ _ _ _
@[simp] theorem hubReport_partials (s : State) (c : Nat) (d : List Byte) : (hubReport s c d).partials = s.partials := report_partials s _ _ _ _
@[simp] theorem hubReport_untagged (s : State) (c : Nat) (d : List Byte) : (hubReport s c d).untagged = s.untagged := report_untagged s _ _ _ _
@[simp] theorem hubReport_pl (s : State) (c : Nat) (d : List Byte) : (hubReport s c d).pl = s.pl := report_pl s _ _ _ _
@[simp] theorem hubReport_dies (s : State) (c : Nat) (d : List Byte) : (hubReport s c d).dies = s.dies := report_dies s _ _ _ _
@[simp] theorem hubReport_remembered (s : State) (c : Nat) (d : List Byte) : (hubReport s c d).remembered = s.remembered := report_remembered s _ _ _ _
@[simp] theorem hubReport_counts (s : State) (c : Nat) (d : List Byte) : (hubReport s c d).counts = s.counts := report_counts s _ _ _ _
@[simp] theorem hubReport_sampling (s : State) (c : Nat) (d : List Byte) : (hubReport s c d).sampling = s.sampling := report_sampling s _ _ _ _
@[simp] theorem hubReport_active (s : State) (c : Nat) (d : List Byte) : (hubReport s c d).active = s.active := report_active s _ _ _ _
@[simp] theorem hubReport_last (s : State) (c : Nat) (d : List Byte) : (hubReport s c d).last = s.last := report_last s _ _ _ _
@[simp] theorem hubReport_xlink (s : State) (c : Nat) (d : List Byte) : (hubReport s c d).xlink = s.xlink := report_xlink s _ _ _ _
@[simp] theorem hubReport_synced (s : State) (c : Nat) (d : List Byte) : (hubReport s c d).synced = s.synced := report_synced s _ _ _ _
@[simp] theorem hubReport_fw (s : State) (c : Nat) (d : List Byte) : (hubReport s c d).fw = s.fw := report_fw s _ _ _ _
@[simp] theorem hubReport_optime (s : State) (c : Nat) (d : List Byte) : (hubReport s c d).optime = s.optime := report_optime s _ _ _ _
@[simp] theorem hubReport_optimeSaved (s : State) (c : Nat) (d : List Byte) : (hubReport s c d).optimeSaved = s.optimeSaved := report_optimeSaved s _ _ _ _
@[simp] theorem hubReport_cycles (s : State) (c : Nat) (d : List Byte) : (hubReport s c d).cycles = s.cycles := report_cycles s _ _ _ _
@[simp] theorem hubReport_roceRate (s : State) (c : Nat) (d : List Byte) : (hubReport s c d).roceRate = s.roceRate := report_roceRate s _ _ _ _
@[simp] theorem hubReport_sec (s : State) (c : Nat) (d : List Byte) : (hubReport s c d).sec = s.sec := report_sec s _ _ _ _
@[simp] theorem hubReport_pace (s : State) (c : Nat) (d : List Byte) : (hubReport s c d).pace = s.pace := report_pace s _ _ _ _
@[simp] theorem hubReport_fab (s : State) (c : Nat) (d : List Byte) : (hubReport s c d).fab = s.fab := report_fab s _ _ _ _
@[simp] theorem hubReport_optics (s : State) (c : Nat) (d : List Byte) : (hubReport s c d).optics = s.optics := report_optics s _ _ _ _
@[simp] theorem hubReport_cal (s : State) (c : Nat) (d : List Byte) : (hubReport s c d).cal = s.cal := report_cal s _ _ _ _
@[simp] theorem hubReport_engA (s : State) (c : Nat) (d : List Byte) : (hubReport s c d).engA = s.engA := report_engA s _ _ _ _
@[simp] theorem hubReport_engB (s : State) (c : Nat) (d : List Byte) : (hubReport s c d).engB = s.engB := report_engB s _ _ _ _
@[simp] theorem hubReport_drivers (s : State) (c : Nat) (d : List Byte) : (hubReport s c d).drivers = s.drivers := report_drivers s _ _ _ _
@[simp] theorem hubReport_elec (s : State) (c : Nat) (d : List Byte) : (hubReport s c d).elec = s.elec := report_elec s _ _ _ _

end Sys2Proof.Machine
end

