-- ==== Sys2Proof/Laws/Issue.lean ====
section
/-!
SUPPORT. What issuing an instruction does, said once: where its conditions hold, `issue` runs the body on a state that differs in
the station alone, and what the body then does to the station is what the instruction does.
-/
namespace Sys2Proof.Machine
open Sys2Proof

/-! ### Bundles and stations changed in place -/

theorem slotBundle_setSlot (s : State) (n : Nat) (b : Bundle) : slotBundle (setSlot s n b) n = some b :=
  SMap.find_insert_self _ _ _
theorem modBundle_of {s : State} {n : Nat} {b : Bundle} (h : slotBundle s n = some b) (f : Bundle → Bundle) :
    modBundle s n f = setSlot s n (f b) := by
  unfold modBundle; rw [h]
theorem modAt_of {α : Type} {l : List α} {i : Nat} {a : α} (h : l[i]? = some a) (f : α → α) : modAt l i f = l.set i (f a) := by
  unfold modAt; rw [h]

/-- Counting changes nothing that a station holds. -/
theorem OnlyStation.bump {s t : State} {x : Where} {st : Station} (h : OnlyStation s t x st) (ev : Nat) (c : EvCtx) (n : Nat) :
    OnlyStation s (bumpEv t ev c n) x st := by
  obtain ⟨_, _, _, rfl⟩ := h
  exact ⟨_, _, _, bumpEv_frame _ _ _ _⟩

theorem OnlyStation.bundle {s t : State} {x : Where} {st : Station} (h : OnlyStation s t x st) :
    slotBundle t x.slot = some (withStation x st) := by
  obtain ⟨_, _, _, rfl⟩ := h
  exact SMap.find_insert_self _ _ _

/-- The station changed again. -/
theorem OnlyStation.mod {s t : State} {x : Where} {st : Station} (h : OnlyStation s t x st) (hi : x.idx < x.b.stations.length)
    (f : Station → Station) : OnlyStation s (modStation t x.slot x.idx f) x (f st) := by
  unfold modStation
  rw [modBundle_of h.bundle]
  have hst : (withStation x st).stations[x.idx]? = some st := by simp [withStation, hi]
  rw [modAt_of hst]
  obtain ⟨c, p, n, rfl⟩ := h
  refine ⟨c, p, n, ?_⟩
  simp only [setSlot, SMap.insert_insert, withStation, List.set_set]

theorem OnCell.lt {s : State} {cell : Nat} {x : Where} (h : OnCell s cell x) : x.idx < x.b.stations.length := by
  obtain ⟨hlt, _⟩ := List.getElem?_eq_some_iff.1 h.station
  exact hlt

/-- Nothing changed yet. -/
theorem OnlyStation.start {s : State} {cell : Nat} {x : Where} (h : OnCell s cell x) (f : Station → Station) :
    OnlyStation s (modStation s x.slot x.idx f) x (f x.st) := by
  unfold modStation
  rw [modBundle_of h.slot, modAt_of h.station]
  exact ⟨s.counts, s.sampling, s.free, rfl⟩

/-- The station goes on past the instruction with a change. -/
theorem OnlyStation.goOn {s t : State} {x w : Where} {st : Station} (h : OnlyStation s t x st) (hi : x.idx < x.b.stations.length)
    (hs : w.slot = x.slot) (hx : w.idx = x.idx) (f : Station → Station) : OnlyStation s (goOn t w f) x (past (f st)) := by
  unfold Machine.goOn
  rw [hs, hx]
  exact h.mod hi _

/-! ### Issue -/

/-- An instruction at issue: what the body is given. -/
structure IssueOf (s : State) (x : Where) (w : Word) (i : Issue) : Prop where
  only : OnlyStation s i.s x (issued x w)
  slot : i.w.slot = x.slot
  idx : i.w.idx = x.idx
  sr : i.w.sr = x.sr
  img : i.w.b.img = x.b.img
  st : i.w.st = { savePages x.st (pagesOf (fullFootprint x.st w).2) with blockedSince := none, waiting := .no }
  insn : i.insn = w
  bad : i.bad = []

theorem savePages_none {st : Station} (h : st.ckpts = []) (pages : List Nat) : savePages st pages = st := by
  cases st; simp only [savePages] at *; subst h; rfl

theorem countBlocked_frame (s : State) (w : Where) (insn : Word) : ∃ c p n, countBlocked s w insn = { s with counts := c, sampling := p, free := n } := by
  unfold countBlocked
  split
  · exact ⟨s.counts, s.sampling, s.free, rfl⟩
  · exact ⟨_, _, _, bumpEv_frame _ _ _ _⟩

/-- The first effects of an issue: its reads need no correction. -/
theorem begin_of {s : State} {cell : Nat} {w : Word} {x : Where} (h : Issues s cell w x) (hs : scanned x.st w = l) :
    OnlyStation s (begin_ s x w l).s x (counted x) ∧
      (begin_ s x w l).w = { x with st := { x.st with blockedSince := none, waiting := .no }, b := withStation x { x.st with blockedSince := none, waiting := .no } } ∧
      (begin_ s x w l).insn = w ∧ (begin_ s x w l).bad = [] := by
  subst hs
  have hc := h.clean
  unfold begin_
  dsimp only
  rw [hc]
  refine ⟨?_, rfl, rfl, rfl⟩
  obtain ⟨c, p, n, hb⟩ := countBlocked_frame s x w
  unfold scratchFound
  simp only [if_true]
  rw [hb, bumpEv_frame]
  have hb2 : ∀ c p n, OnCell { s with counts := c, sampling := p, free := n } cell x := by
    intro c p n
    exact ⟨h.at_.on.on, h.at_.on.slot, h.at_.on.station, h.at_.on.record, h.at_.on.placed⟩
  obtain ⟨c', p', n', e⟩ := OnlyStation.start (hb2 _ _ _) (fun st =>
    { st with scratch := x.st.scratch, order := st.order + 1, blockedSince := none, waiting := .no, stallReported := st.stallReported && st.waiting == .retry })
  exact ⟨c', p', n', e⟩

/-- The pages that an instruction writes are saved for the checkpoints held. -/
theorem savePagesAt_of {s : State} {x : Where} {i : Issue} {st : Station} (items : List Item) (h : OnlyStation s i.s x st)
    (hi : x.idx < x.b.stations.length) (hs : i.w.slot = x.slot) (hx : i.w.idx = x.idx) (hk : i.w.st.ckpts = st.ckpts) :
    OnlyStation s (savePagesAt i items).s x (savePages st (pagesOf items)) ∧
      (savePagesAt i items).w = { i.w with st := savePages i.w.st (pagesOf items) } ∧
      (savePagesAt i items).insn = i.insn ∧ (savePagesAt i items).bad = i.bad := by
  unfold savePagesAt
  split
  · rename_i he
    have he : i.w.st.ckpts = [] := List.isEmpty_iff.1 he
    rw [savePages_none he, savePages_none (hk ▸ he)]
    exact ⟨h, rfl, rfl, rfl⟩
  · refine ⟨?_, rfl, rfl, rfl⟩
    dsimp only
    rw [hs, hx]
    exact (h.mod hi _).bump _ _ _

/-- Where its conditions hold, an instruction that no resource of its own holds back runs its body on a state that differs in its
station alone. -/
theorem issueGated_of {s : State} {cell : Nat} {w : Word} {x : Where} {opc : Nat} (h : Issues s cell w x) (ho : fOpc w = opc)
    (ht : isTallyOp opc = true → x.st.ckpts = []) (hc : opc ≠ 0x28 ∧ opc ≠ 0x2A) {gate : Where → Bool} (hg : gate x = false)
    (body : Issue → State) : ∃ i, IssueOf s x w i ∧ issueGated s cell w opc gate body = body i := by
  obtain ⟨h1, h2, h3, h4⟩ := begin_of h rfl
  have hk : (begin_ s x w (scanned x.st w)).w.st.ckpts = x.st.ckpts := by rw [h2]
  obtain ⟨g1, g2, g3, g4⟩ := savePagesAt_of (fullFootprint x.st w).2 h1 h.at_.on.lt (by rw [h2]) (by rw [h2]) hk
  refine ⟨savePagesAt (begin_ s x w (scanned x.st w)) (fullFootprint x.st w).2, ⟨g1, ?_, ?_, ?_, ?_, ?_, ?_, ?_⟩, ?_⟩
  · rw [g2, h2]
  · rw [g2, h2]
  · rw [g2, h2]
  · rw [g2, h2]; rfl
  · rw [g2, h2]; rfl
  · rw [g3, h3]
  · rw [g4, h4]
  · have hm : mayIssue s x = true := by
      have := h.at_.bundle
      simp [mayIssue, h.at_.phase, h.at_.run, h.at_.idle, this]
    have hr : ¬ (64 < savedPages x.st + newPages x.st (pagesOf (fullFootprint x.st w).2)) := by have := h.room; omega
    have htk : (isTallyOp opc && !x.st.ckpts.isEmpty) = false := by
      cases hto : isTallyOp opc
      · rfl
      · simp [ht hto]
    unfold issueGated
    simp [h.at_.on.on, hm, h.at_.word, h.at_.settled, ho, h.valid, h.free, h.inside, h.guard, htk, hc.1, hc.2, hr, hg]

/-- The same of an instruction with no resource to wait for. -/
theorem issue_of {s : State} {cell : Nat} {w : Word} {x : Where} {opc : Nat} (h : Issues s cell w x) (ho : fOpc w = opc)
    (ht : isTallyOp opc = true → x.st.ckpts = []) (hc : opc ≠ 0x28 ∧ opc ≠ 0x2A) (body : Issue → State) :
    ∃ i, IssueOf s x w i ∧ issue s cell w opc body = body i :=
  issueGated_of h ho ht hc rfl body

/-- A change of the station past the instruction. -/
theorem IssueOf.goOn {s : State} {x : Where} {w : Word} {i : Issue} (h : IssueOf s x w i) (hi : x.idx < x.b.stations.length)
    (f : Station → Station) : OnlyStation s (goOn i.s i.w f) x (past (f (issued x w))) :=
  h.only.goOn hi h.slot h.idx f

/-- The operands are those of the station before the instruction. -/
theorem IssueOf.getG {s : State} {x : Where} {w : Word} {i : Issue} (h : IssueOf s x w i) (n : Nat) : getG i.w.st n = getG x.st n := by
  rw [h.st]; rfl
theorem IssueOf.getP {s : State} {x : Where} {w : Word} {i : Issue} (h : IssueOf s x w i) (n : Nat) : getP i.w.st n = getP x.st n := by
  rw [h.st]; rfl
theorem IssueOf.getT {s : State} {x : Where} {w : Word} {i : Issue} (h : IssueOf s x w i) (n : Nat) : getT i.w.st n = getT x.st n := by
  rw [h.st]; rfl
theorem IssueOf.scratch {s : State} {x : Where} {w : Word} {i : Issue} (h : IssueOf s x w i) : i.w.st.scratch = x.st.scratch := by
  rw [h.st]; rfl
theorem IssueOf.pc {s : State} {x : Where} {w : Word} {i : Issue} (h : IssueOf s x w i) : i.w.st.pc = x.st.pc := by
  rw [h.st]; rfl

end Sys2Proof.Machine
end

