-- ==== Sys2Proof/Laws/Keeps.lean ====
section
/-!
SUPPORT. What every operation keeps: the queue of commands and the identity stand, SVN_MIN does not fall, and the memory of
every stack stays in its canonical form. `Keeps s0 t` says so of a state `t` that was come to from `s0`; one lemma for each
operation carries it on, so that a proof about a command only names the operations it calls.
-/
namespace Sys2Proof.Machine
open Sys2Proof

/-- Every stack of a list of dies has its memory in canonical form. -/
def DiesCanonical (ds : List Die) : Prop := ∀ d ∈ ds, ∀ k ∈ d.stks, k.mem.wf = true

/-- `t` keeps what `s0` holds. -/
def Keeps (s0 t : State) : Prop :=
  t.pending = s0.pending ∧ t.ident = s0.ident ∧ s0.sec.svnMin ≤ t.sec.svnMin ∧ (DiesCanonical s0.dies → DiesCanonical t.dies)
/-- The same of what a command answers, and of results that may hold a state. -/
def KeepsOut (s0 : State) (o : Out) : Prop := match o with | .next t => Keeps s0 t | .fault _ => True | .refused _ => True
def KeepsO (s0 : State) (o : Option State) : Prop := match o with | some t => Keeps s0 t | none => True
def KeepsE (s0 : State) (o : Except Nat State) : Prop := match o with | .ok t => Keeps s0 t | .error _ => True
def KeepsP {β : Type} (s0 : State) (r : State × β) : Prop := Keeps s0 r.1
def KeepsQ {β : Type} (s0 : State) (r : β × State) : Prop := Keeps s0 r.2

variable {s0 : State}

theorem Keeps.refl (s : State) : Keeps s s := ⟨rfl, rfl, Nat.le_refl _, id⟩
theorem Keeps.trans {s t u : State} (h : Keeps s t) (k : Keeps t u) : Keeps s u :=
  ⟨k.1.trans h.1, k.2.1.trans h.2.1, Nat.le_trans h.2.2.1 k.2.2.1, fun w => k.2.2.2 (h.2.2.2 w)⟩
/-- A state that differs in nothing that `Keeps` speaks of. -/
theorem keeps_mk {x : State} {f_pending : List Instr} {f_ident : Ident} {f_sec : Security} {f_dies : List Die}
    {f_out f_free f_phase f_regs f_tb f_servo f_sessions f_stages f_sessionNext f_partials f_untagged f_pl f_remembered f_counts f_sampling f_ha f_hb f_active f_last f_xlink f_synced f_heldReports f_fw f_optime f_optimeSaved f_cycles f_roceRate f_pace f_fab f_optics f_cal f_engA f_engB f_drivers f_elec}
    (h1 : f_pending = x.pending) (h2 : f_ident = x.ident) (h3 : f_sec.svnMin = x.sec.svnMin)
    (h4 : f_dies = x.dies) (h : Keeps s0 x) : Keeps s0 (State.mk f_pending f_out f_free f_ident f_phase f_regs f_tb f_servo f_sessions f_stages f_sessionNext f_partials f_untagged f_pl f_dies f_remembered f_counts f_sampling f_ha f_hb f_active f_last f_xlink f_synced f_heldReports f_fw f_optime f_optimeSaved f_cycles f_roceRate f_sec f_pace f_fab f_optics f_cal f_engA f_engB f_drivers f_elec) := by
  unfold Keeps at *; subst h1 h2 h4; rw [h3]; exact h
/-- A state whose die changed in something else than its stacks. -/
theorem keeps_mkDies {x : State} {d : Nat} {g : Die → Die} {f_pending : List Instr} {f_ident : Ident} {f_sec : Security}
    {f_out f_free f_phase f_regs f_tb f_servo f_sessions f_stages f_sessionNext f_partials f_untagged f_pl f_remembered f_counts f_sampling f_ha f_hb f_active f_last f_xlink f_synced f_heldReports f_fw f_optime f_optimeSaved f_cycles f_roceRate f_pace f_fab f_optics f_cal f_engA f_engB f_drivers f_elec}
    (h1 : f_pending = x.pending) (h2 : f_ident = x.ident) (h3 : f_sec.svnMin = x.sec.svnMin) (hg : ∀ y, (g y).stks = y.stks)
    (h : Keeps s0 x) : Keeps s0 (State.mk f_pending f_out f_free f_ident f_phase f_regs f_tb f_servo f_sessions f_stages f_sessionNext f_partials f_untagged f_pl (modAt x.dies d g) f_remembered f_counts f_sampling f_ha f_hb f_active f_last f_xlink f_synced f_heldReports f_fw f_optime f_optimeSaved f_cycles f_roceRate f_sec f_pace f_fab f_optics f_cal f_engA f_engB f_drivers f_elec) := by
  unfold Keeps at *; subst h1 h2
  refine ⟨h.1, h.2.1, h3 ▸ h.2.2.1, fun w y hy k hk => ?_⟩
  have w := h.2.2.2 w
  dsimp only at hy
  unfold modAt at hy
  split at hy
  · rcases List.mem_or_eq_of_mem_set hy with hy | hy
    · exact w y hy k hk
    · subst hy; rw [hg] at hk; exact w _ (List.mem_of_getElem? (by assumption)) k hk
  · exact w y hy k hk
/-- A state whose stacks changed and stay canonical. -/
theorem keeps_dies {x t : State} (h1 : t.pending = x.pending) (h2 : t.ident = x.ident) (h3 : t.sec.svnMin = x.sec.svnMin)
    (h4 : DiesCanonical x.dies → DiesCanonical t.dies) (h : Keeps s0 x) : Keeps s0 t := by
  unfold Keeps at *; rw [h1, h2, h3]; exact ⟨h.1, h.2.1, h.2.2.1, fun w => h4 (h.2.2.2 w)⟩

theorem keeps_foldl {α : Type} {g : State → α → State} {l : List α} {x : State} (h : Keeps s0 x)
    (hg : ∀ t a, Keeps s0 t → Keeps s0 (g t a)) : Keeps s0 (l.foldl g x) := by
  induction l generalizing x with
  | nil => exact h
  | cons a l ih => exact ih (hg _ _ h)
theorem keepsP_foldl {α β : Type} {g : State × β → α → State × β} {l : List α} {x : State × β} (h : KeepsP s0 x)
    (hg : ∀ t a, KeepsP s0 t → KeepsP s0 (g t a)) : KeepsP s0 (l.foldl g x) := by
  induction l generalizing x with
  | nil => exact h
  | cons a l ih => exact ih (hg _ _ h)
theorem keeps_fst {β : Type} {r : State × β} {t : State} {c : β} (e : r = (t, c)) (h : KeepsP s0 r) : Keeps s0 t := by
  rw [e] at h; exact h
theorem keeps_snd {β : Type} {r : β × State} {t : State} {c : β} (e : r = (c, t)) (h : KeepsQ s0 r) : Keeps s0 t := by
  rw [e] at h; exact h
theorem keeps_some {r : Option State} {t : State} (e : r = some t) (h : KeepsO s0 r) : Keeps s0 t := by
  rw [e] at h; exact h
theorem keeps_okE {r : Except Nat State} {t : State} (e : r = .ok t) (h : KeepsE s0 r) : Keeps s0 t := by
  rw [e] at h; exact h
theorem KeepsP_fst {β : Type} {r : State × β} (h : KeepsP s0 r) : Keeps s0 r.1 := h
theorem KeepsQ_snd {β : Type} {r : β × State} (h : KeepsQ s0 r) : Keeps s0 r.2 := h
theorem keepsP_mk {β : Type} {t : State} {c : β} (h : Keeps s0 t) : KeepsP s0 (t, c) := h
theorem keepsQ_mk {β : Type} {t : State} {c : β} (h : Keeps s0 t) : KeepsQ s0 (c, t) := h
theorem keepsO_some {t : State} (h : Keeps s0 t) : KeepsO s0 (some t) := h
theorem keepsO_getD {r : Option State} {d : State} (h : KeepsO s0 r) (hd : Keeps s0 d) : Keeps s0 (r.getD d) := by
  cases r with
  | none => exact hd
  | some t => exact h
theorem keepsO_none : KeepsO s0 none := trivial
theorem keepsE_ok {t : State} (h : Keeps s0 t) : KeepsE s0 (.ok t) := h
theorem keepsE_error {n : Nat} : KeepsE s0 (.error n) := trivial
theorem keepsOut_next {t : State} (h : Keeps s0 t) : KeepsOut s0 (.next t) := h

/-! ### Choices -/
theorem keeps_ite {c : Prop} [Decidable c] {a b : State} (ha : Keeps s0 a) (hb : Keeps s0 b) : Keeps s0 (if c then a else b) := by
  split <;> assumption
theorem keepsP_ite {δ : Type} {c : Prop} [Decidable c] {a b : State × δ} (ha : KeepsP s0 a) (hb : KeepsP s0 b) : KeepsP s0 (if c then a else b) := by
  split <;> assumption
theorem keepsQ_ite {δ : Type} {c : Prop} [Decidable c] {a b : δ × State} (ha : KeepsQ s0 a) (hb : KeepsQ s0 b) : KeepsQ s0 (if c then a else b) := by
  split <;> assumption
theorem keepsO_ite {c : Prop} [Decidable c] {a b : Option State} (ha : KeepsO s0 a) (hb : KeepsO s0 b) : KeepsO s0 (if c then a else b) := by
  split <;> assumption
theorem keepsE_ite {c : Prop} [Decidable c] {a b : Except Nat State} (ha : KeepsE s0 a) (hb : KeepsE s0 b) : KeepsE s0 (if c then a else b) := by
  split <;> assumption
theorem keepsOut_ite {c : Prop} [Decidable c] {a b : Out} (ha : KeepsOut s0 a) (hb : KeepsOut s0 b) : KeepsOut s0 (if c then a else b) := by
  split <;> assumption

end Sys2Proof.Machine
end

