-- ==== Sys2Proof/Laws/KeepsOps.lean ====
section
/-!
SUPPORT. What the operations of Machine/Ops keep (see Laws/Keeps).
-/
namespace Sys2Proof.Machine
open Sys2Proof

theorem done_keeps {s0 : State} (s : State) (h_s : Keeps s0 s) : KeepsOut s0 (done s) := by
  unfold done
  repeat' (first | with_reducible assumption | with_reducible apply keeps_ite | with_reducible apply keepsOut_ite | split | with_reducible apply keepsOut_next)
theorem emit_keeps {s0 : State} (s : State) (e : Emit) (h_s : Keeps s0 s) : Keeps s0 (emit s e) := by
  unfold emit
  repeat' (first | with_reducible assumption | with_reducible apply keeps_ite | split | with_reducible apply keeps_fst (by assumption) | with_reducible apply keeps_snd (by assumption) | with_reducible apply keeps_some (by assumption) | with_reducible apply keeps_okE (by assumption) | with_reducible apply KeepsP_fst | with_reducible apply KeepsQ_snd | fail_if_no_progress with_reducible refine keeps_mk rfl rfl rfl rfl ?_)
theorem takeFree_keeps {s0 : State} (s : State) (h_s : Keeps s0 s) : KeepsQ s0 (takeFree s) := by
  unfold takeFree
  repeat' (first | with_reducible assumption | (extract_lets +onlyGivenNames zz; first | (refine (fun (hx : Keeps s0 zz) => ?_) ?_ <;> [(clear_value zz; revert zz; intro _ _); subst zz]) | (refine (fun (hx : KeepsP s0 zz) => ?_) ?_ <;> [(clear_value zz; revert zz; intro _ _); subst zz]) | (refine (fun (hx : KeepsQ s0 zz) => ?_) ?_ <;> [(clear_value zz; revert zz; intro _ _); subst zz]) | (refine (fun (hx : KeepsO s0 zz) => ?_) ?_ <;> [(clear_value zz; revert zz; intro _ _); subst zz]) | (refine (fun (hx : KeepsE s0 zz) => ?_) ?_ <;> [(clear_value zz; revert zz; intro _ _); subst zz]) | (refine (fun (hx : Keeps s0 (Issue.s zz)) => ?_) ?_ <;> [(clear_value zz; revert zz; intro _ _); subst zz]) | (refine (fun (hx : Keeps s0 (StackRead.st zz)) => ?_) ?_ <;> [(clear_value zz; revert zz; intro _ _); subst zz]) | (refine (fun (hx : ∀ t, Keeps s0 t → Keeps s0 (zz t)) => ?_) ?_ <;> [(clear_value zz; revert zz; intro _ _); (subst zz; intro t ht; beta_reduce)]) | (refine (fun (hx : ∀ t, Keeps s0 (zz t)) => ?_) ?_ <;> [(clear_value zz; revert zz; intro _ _); (subst zz; intro t; beta_reduce)]) | (refine (fun (_ : Security) => ?_) zz; subst zz) | (clear_value zz; revert zz; intro _)) | with_reducible apply keeps_ite | with_reducible apply keepsQ_ite | split | with_reducible apply keepsQ_mk | with_reducible apply keeps_fst (by assumption) | with_reducible apply keeps_snd (by assumption) | with_reducible apply keeps_some (by assumption) | with_reducible apply keeps_okE (by assumption) | with_reducible apply KeepsP_fst | with_reducible apply KeepsQ_snd | fail_if_no_progress with_reducible refine keeps_mk rfl rfl rfl rfl ?_)
theorem setRegWord_keeps {s0 : State} (s : State) (r : RegRef) (v : Word) (h_s : Keeps s0 s) : Keeps s0 (setRegWord s r v) := by
  unfold setRegWord
  repeat' (first | with_reducible assumption | with_reducible apply keeps_ite | split | with_reducible apply keeps_fst (by assumption) | with_reducible apply keeps_snd (by assumption) | with_reducible apply keeps_some (by assumption) | with_reducible apply keeps_okE (by assumption) | with_reducible apply KeepsP_fst | with_reducible apply KeepsQ_snd | fail_if_no_progress with_reducible refine keeps_mk rfl rfl rfl rfl ?_)
theorem setFldAt_keeps {s0 : State} (s : State) (f : Fld) (blk : Nat) (i : Nat) (j : Nat) (v : Nat) (h_s : Keeps s0 s) : Keeps s0 (setFldAt s f blk i j v) := by
  unfold setFldAt
  repeat' (first | with_reducible assumption | with_reducible apply setRegWord_keeps)
theorem setFld_keeps {s0 : State} (s : State) (f : Fld) (v : Nat) (h_s : Keeps s0 s) : Keeps s0 (setFld s f v) := by
  unfold setFld
  repeat' (first | with_reducible assumption | with_reducible apply setFldAt_keeps)
theorem bumpFldAt_keeps {s0 : State} (s : State) (f : Fld) (blk : Nat) (i : Nat) (j : Nat) (n : Nat) (h_s : Keeps s0 s) : Keeps s0 (bumpFldAt s f blk i j n) := by
  unfold bumpFldAt
  repeat' (first | with_reducible assumption | with_reducible apply setFldAt_keeps)
theorem satFldAt_keeps {s0 : State} (s : State) (f : Fld) (blk : Nat) (i : Nat) (j : Nat) (n : Nat) (h_s : Keeps s0 s) : Keeps s0 (satFldAt s f blk i j n) := by
  unfold satFldAt
  repeat' (first | with_reducible assumption | with_reducible apply setFldAt_keeps)
theorem setHub_keeps {s0 : State} (s : State) (h : Hub) (x : HubSt) (h_s : Keeps s0 s) : Keeps s0 (setHub s h x) := by
  unfold setHub
  repeat' (first | with_reducible assumption | with_reducible apply keeps_ite | split | with_reducible apply keeps_fst (by assumption) | with_reducible apply keeps_snd (by assumption) | with_reducible apply keeps_some (by assumption) | with_reducible apply keeps_okE (by assumption) | with_reducible apply KeepsP_fst | with_reducible apply KeepsQ_snd | fail_if_no_progress with_reducible refine keeps_mk rfl rfl rfl rfl ?_)
theorem degradeRecorder_keeps {s0 : State} (s : State) (h : Hub) (h_s : Keeps s0 s) : Keeps s0 (degradeRecorder s h) := by
  unfold degradeRecorder
  repeat' (first | with_reducible assumption | (extract_lets +onlyGivenNames zz; first | (refine (fun (hx : Keeps s0 zz) => ?_) ?_ <;> [(clear_value zz; revert zz; intro _ _); subst zz]) | (clear_value zz; revert zz; intro _)) | with_reducible apply setFld_keeps | with_reducible apply setHub_keeps)
theorem recordWithin_keeps {s0 : State} (s : State) (h : Hub) (code : Nat) (put : State → State) (h_s : Keeps s0 s) (h_put : ∀ x0, Keeps s0 x0 → Keeps s0 (put x0)) : Keeps s0 (recordWithin s h code put) := by
  unfold recordWithin
  repeat' (first | with_reducible assumption | with_reducible intro _ | fail_if_no_progress beta_reduce | (extract_lets +onlyGivenNames zz; first | (refine (fun (hx : Keeps s0 zz) => ?_) ?_ <;> [(clear_value zz; revert zz; intro _ _); subst zz]) | (clear_value zz; revert zz; intro _)) | with_reducible apply h_put | with_reducible apply setHub_keeps | with_reducible apply degradeRecorder_keeps | with_reducible apply keeps_ite)
theorem writeRecord_keeps {s0 : State} (s : State) (h : Hub) (r : Report) (h_s : Keeps s0 s) : Keeps s0 (writeRecord s h r) := by
  unfold writeRecord
  repeat' (first | with_reducible assumption | with_reducible intro _ | fail_if_no_progress beta_reduce | (extract_lets +onlyGivenNames zz; first | (clear_value zz; revert zz; intro _)) | with_reducible apply setHub_keeps | with_reducible apply recordWithin_keeps)
theorem hostEvents_keeps {s0 : State} (s : State) (hub : Hub) (r : Report) (h_s : Keeps s0 s) : Keeps s0 (hostEvents s hub r) := by
  unfold hostEvents
  repeat' (first | with_reducible assumption | (extract_lets +onlyGivenNames zz; first | (clear_value zz; revert zz; intro _)) | with_reducible apply keeps_ite | split | with_reducible apply keeps_fst (by assumption) | with_reducible apply keeps_snd (by assumption) | with_reducible apply keeps_some (by assumption) | with_reducible apply keeps_okE (by assumption) | with_reducible apply KeepsP_fst | with_reducible apply KeepsQ_snd | fail_if_no_progress with_reducible refine keeps_mk rfl rfl rfl rfl ?_)
theorem fileReport_keeps {s0 : State} (s : State) (r : Report) (h_s : Keeps s0 s) : Keeps s0 (fileReport s r) := by
  unfold fileReport
  repeat' (first | with_reducible assumption | (extract_lets +onlyGivenNames zz; first | (refine (fun (hx : Keeps s0 zz) => ?_) ?_ <;> [(clear_value zz; revert zz; intro _ _); subst zz])) | with_reducible apply writeRecord_keeps | with_reducible apply hostEvents_keeps | with_reducible apply keeps_ite | split | with_reducible apply keeps_fst (by assumption) | with_reducible apply keeps_snd (by assumption) | with_reducible apply keeps_some (by assumption) | with_reducible apply keeps_okE (by assumption) | with_reducible apply KeepsP_fst | with_reducible apply KeepsQ_snd | fail_if_no_progress with_reducible refine keeps_mk rfl rfl rfl rfl ?_)
theorem reportNow_keeps {s0 : State} (s : State) (code : Nat) (source : Nat) (handle : Nat) (detail : List Byte) (toHost : Bool) (toRec : Bool) (h_s : Keeps s0 s) : Keeps s0 (reportNow s code source handle detail toHost toRec) := by
  unfold reportNow
  repeat' (first | with_reducible assumption | with_reducible apply fileReport_keeps)
theorem report_keeps {s0 : State} (s : State) (code : Nat) (source : Nat) (handle : Nat) (detail : List Byte) (h_s : Keeps s0 s) : Keeps s0 (report s code source handle detail) := by
  unfold report
  repeat' (first | with_reducible assumption | with_reducible apply reportNow_keeps)
theorem hubReport_keeps {s0 : State} (s : State) (code : Nat) (detail : List Byte) (h_s : Keeps s0 s) : Keeps s0 (hubReport s code detail) := by
  unfold hubReport
  repeat' (first | with_reducible assumption | with_reducible apply report_keeps)
theorem slotCount_keeps {s0 : State} (s : State) (k : Nat) (readable : Bool) (ev : Nat) (ctx : EvCtx) (n : Nat) (h_s : Keeps s0 s) :
    Keeps s0 (slotCount s k readable ev ctx n) := by
  rw [slotCount_frame]; exact keeps_mk rfl rfl rfl rfl h_s
theorem setSlot_keeps {s0 : State} (s : State) (slot : Nat) (b : Bundle) (h_s : Keeps s0 s) : Keeps s0 (setSlot s slot b) := by
  unfold setSlot
  repeat' (first | with_reducible assumption | (extract_lets +onlyGivenNames zz; first | (clear_value zz; revert zz; intro _)) | with_reducible apply keeps_ite | split | with_reducible apply keeps_fst (by assumption) | with_reducible apply keeps_snd (by assumption) | with_reducible apply keeps_some (by assumption) | with_reducible apply keeps_okE (by assumption) | with_reducible apply KeepsP_fst | with_reducible apply KeepsQ_snd | fail_if_no_progress with_reducible refine keeps_mk rfl rfl rfl rfl ?_)
theorem clearSlot_keeps {s0 : State} (s : State) (slot : Nat) (h_s : Keeps s0 s) : Keeps s0 (clearSlot s slot) := by
  unfold clearSlot
  repeat' (first | with_reducible assumption | (extract_lets +onlyGivenNames zz; first | (clear_value zz; revert zz; intro _)) | with_reducible apply keeps_ite | split | with_reducible apply keeps_fst (by assumption) | with_reducible apply keeps_snd (by assumption) | with_reducible apply keeps_some (by assumption) | with_reducible apply keeps_okE (by assumption) | with_reducible apply KeepsP_fst | with_reducible apply KeepsQ_snd | fail_if_no_progress with_reducible refine keeps_mk rfl rfl rfl rfl ?_)
theorem modBundle_keeps {s0 : State} (s : State) (slot : Nat) (f : Bundle → Bundle) (h_s : Keeps s0 s) : Keeps s0 (modBundle s slot f) := by
  unfold modBundle
  repeat' (first | with_reducible assumption | with_reducible apply setSlot_keeps | with_reducible apply keeps_ite | split)
theorem modStation_keeps {s0 : State} (s : State) (slot : Nat) (idx : Nat) (f : Station → Station) (h_s : Keeps s0 s) : Keeps s0 (modStation s slot idx f) := by
  unfold modStation
  repeat' (first | with_reducible assumption | with_reducible apply modBundle_keeps)
theorem modStream_keeps {s0 : State} (s : State) (slot : Nat) (idx : Nat) (f : Stream → Stream) (h_s : Keeps s0 s) : Keeps s0 (modStream s slot idx f) := by
  unfold modStream
  repeat' (first | with_reducible assumption | with_reducible apply modBundle_keeps)
theorem modTally_keeps {s0 : State} (s : State) (slot : Nat) (idx : Nat) (f : Tally → Tally) (h_s : Keeps s0 s) : Keeps s0 (modTally s slot idx f) := by
  unfold modTally
  repeat' (first | with_reducible assumption | with_reducible apply modBundle_keeps)
theorem bumpEv_keeps {s0 : State} (s : State) (ev : Nat) (ctx : EvCtx) (n : Nat) (h_s : Keeps s0 s) : Keeps s0 (bumpEv s ev ctx n) := by
  rw [bumpEv_frame]; exact keeps_mk rfl rfl rfl rfl h_s
/-- A stack changed by a function that keeps its memory canonical. -/
theorem modStack_keeps {s0 : State} (s : State) (n : Nat) (f : Stack → Stack) (h_s : Keeps s0 s)
    (hf : DiesCanonical s0.dies → ∀ k : Stack, k.mem.wf = true → (f k).mem.wf = true) : Keeps s0 (modStack s n f) := by
  refine ⟨h_s.1, h_s.2.1, h_s.2.2.1, fun w0 => ?_⟩
  have w := h_s.2.2.2 w0
  have hk : ∀ (l : List Stack) (i : Nat), (∀ k ∈ l, k.mem.wf = true) → ∀ k ∈ modAt l i f, k.mem.wf = true := by
    intro l i hl k hk
    unfold modAt at hk
    split at hk
    · rcases List.mem_or_eq_of_mem_set hk with h | h
      · exact hl k h
      · subst h; exact hf w0 _ (hl _ (List.mem_of_getElem? (by assumption)))
    · exact hl k hk
  intro d hd k hkd
  unfold modStack at hd
  dsimp only at hd
  unfold modAt at hd
  split at hd
  · rename_i d0 hd0
    rcases List.mem_or_eq_of_mem_set hd with h | h
    · exact w d h k hkd
    · subst h; exact hk d0.stks (n % 2) (fun k h => w d0 (List.mem_of_getElem? hd0) k h) k hkd
  · exact w d hd k hkd
/-- The stack that a number names is one of the machine's. -/
theorem stackOf_wf {s0 s : State} (h : Keeps s0 s) {n : Nat} {k : Stack} (e : stackOf s n = some k) (w : DiesCanonical s0.dies) :
    k.mem.wf = true := by
  unfold stackOf at e
  split at e
  · exact h.2.2.2 w _ (List.mem_of_getElem? (by assumption)) _ (List.mem_of_getElem? e)
  · cases e

end Sys2Proof.Machine
end

