-- ==== Sys2Proof/Laws/KeepsFlags.lean ====
section
/-!
SUPPORT. What the operations of Machine/Flags keep (see Laws/Keeps).
-/
namespace Sys2Proof.Machine
open Sys2Proof

theorem setEvent_keeps {s0 : State} (s : State) (f : Fld) (h_s : Keeps s0 s) : Keeps s0 (setEvent s f) := by
  unfold setEvent
  repeat' (first | with_reducible assumption | with_reducible apply setFld_keeps)
theorem setEventAt_keeps {s0 : State} (s : State) (f : Fld) (blk : Nat) (i : Nat) (j : Nat) (h_s : Keeps s0 s) : Keeps s0 (setEventAt s f blk i j) := by
  unfold setEventAt
  repeat' (first | with_reducible assumption | with_reducible apply setFldAt_keeps)

end Sys2Proof.Machine
end

