-- ==== Sys2Proof/Laws/KeepsFab.lean ====
section
/-!
SUPPORT. What the operations of Machine/Fab keep (see Laws/Keeps).
-/
namespace Sys2Proof.Machine
open Sys2Proof

theorem modLink_keeps {s0 : State} (s : State) (key : Nat) (f : Link → Link) (h_s : Keeps s0 s) : Keeps s0 (modLink s key f) := by
  unfold modLink
  repeat' (first | with_reducible assumption | (extract_lets +onlyGivenNames zz; first | (clear_value zz; revert zz; intro _)) | with_reducible apply keeps_ite | split | with_reducible apply keeps_fst (by assumption) | with_reducible apply keeps_snd (by assumption) | with_reducible apply keeps_some (by assumption) | with_reducible apply keeps_okE (by assumption) | with_reducible apply KeepsP_fst | with_reducible apply KeepsQ_snd | fail_if_no_progress with_reducible refine keeps_mk rfl rfl rfl rfl ?_)
theorem portEvent_keeps {s0 : State} (s : State) (p : Nat) (code : Nat) (n : Nat) (h_s : Keeps s0 s) : Keeps s0 (portEvent s p code n) := by
  unfold portEvent
  repeat' (first | with_reducible assumption | with_reducible apply bumpEv_keeps)
theorem emitFlit_keeps {s0 : State} (s : State) (key : Nat) (f : Flit) (h_s : Keeps s0 s) : Keeps s0 (emitFlit s key f) := by
  unfold emitFlit
  repeat' (first | with_reducible assumption | (extract_lets +onlyGivenNames zz; first | (refine (fun (hx : Keeps s0 zz) => ?_) ?_ <;> [(clear_value zz; revert zz; intro _ _); subst zz]) | (refine (fun (hx : KeepsP s0 zz) => ?_) ?_ <;> [(clear_value zz; revert zz; intro _ _); subst zz]) | (refine (fun (hx : KeepsQ s0 zz) => ?_) ?_ <;> [(clear_value zz; revert zz; intro _ _); subst zz]) | (refine (fun (hx : KeepsO s0 zz) => ?_) ?_ <;> [(clear_value zz; revert zz; intro _ _); subst zz]) | (refine (fun (hx : KeepsE s0 zz) => ?_) ?_ <;> [(clear_value zz; revert zz; intro _ _); subst zz]) | (refine (fun (hx : Keeps s0 (Issue.s zz)) => ?_) ?_ <;> [(clear_value zz; revert zz; intro _ _); subst zz]) | (refine (fun (hx : Keeps s0 (StackRead.st zz)) => ?_) ?_ <;> [(clear_value zz; revert zz; intro _ _); subst zz]) | (refine (fun (hx : ∀ t, Keeps s0 t → Keeps s0 (zz t)) => ?_) ?_ <;> [(clear_value zz; revert zz; intro _ hloc); (subst zz; intro t ht; beta_reduce)]) | (refine (fun (hx : ∀ t u, Keeps s0 t → Keeps s0 (zz t u)) => ?_) ?_ <;> [(clear_value zz; revert zz; intro _ hloc); (subst zz; intro t u ht; beta_reduce)]) | (refine (fun (hx : ∀ t, Keeps s0 (zz t)) => ?_) ?_ <;> [(clear_value zz; revert zz; intro _ hloc); (subst zz; intro t; beta_reduce)]) | (refine (fun (hx : ∀ t u, Keeps s0 (zz t u)) => ?_) ?_ <;> [(clear_value zz; revert zz; intro _ hloc); (subst zz; intro t u; beta_reduce)]) | (refine (fun (hx : ∀ t u v, Keeps s0 t → Keeps s0 (zz t u v)) => ?_) ?_ <;> [(clear_value zz; revert zz; intro _ hloc); (subst zz; intro t u v ht; beta_reduce)]) | (refine (fun (hx : ∀ t u v w, Keeps s0 t → Keeps s0 (zz t u v w)) => ?_) ?_ <;> [(clear_value zz; revert zz; intro _ hloc); (subst zz; intro t u v w ht; beta_reduce)]) | (refine (fun (_ : Security) => ?_) zz; subst zz) | (clear_value zz; revert zz; intro _)) | with_reducible apply emit_keeps | with_reducible apply modLink_keeps | with_reducible apply keeps_ite | with_reducible apply keepsP_ite | with_reducible apply keepsQ_ite | split)
theorem sendOne_keeps {s0 : State} (s : State) (key : Nat) (l : Link) (vc : Nat) (h_s : Keeps s0 s) : Keeps s0 (sendOne s key l vc) := by
  unfold sendOne
  repeat' (first | with_reducible assumption | (extract_lets +onlyGivenNames zz; first | (clear_value zz; revert zz; intro _)) | with_reducible apply modLink_keeps | with_reducible apply emitFlit_keeps | with_reducible apply keeps_ite | with_reducible apply keepsO_ite | with_reducible apply keepsP_ite | with_reducible apply keepsQ_ite | split)
theorem pump_keeps {s0 : State} (a1 : Nat) (a2 : State) (a3 : Nat) (h_a2 : Keeps s0 a2) : Keeps s0 (pump a1 a2 a3) := by
  induction a1 generalizing a2 a3 with
  | zero =>
    unfold pump
    repeat' (first | with_reducible assumption | (extract_lets +onlyGivenNames zz; first | (refine (fun (hx : Keeps s0 zz) => ?_) ?_ <;> [(clear_value zz; revert zz; intro _ _); subst zz]) | (refine (fun (hx : KeepsP s0 zz) => ?_) ?_ <;> [(clear_value zz; revert zz; intro _ _); subst zz]) | (refine (fun (hx : KeepsQ s0 zz) => ?_) ?_ <;> [(clear_value zz; revert zz; intro _ _); subst zz]) | (refine (fun (hx : KeepsO s0 zz) => ?_) ?_ <;> [(clear_value zz; revert zz; intro _ _); subst zz]) | (refine (fun (hx : KeepsE s0 zz) => ?_) ?_ <;> [(clear_value zz; revert zz; intro _ _); subst zz]) | (refine (fun (hx : Keeps s0 (Issue.s zz)) => ?_) ?_ <;> [(clear_value zz; revert zz; intro _ _); subst zz]) | (refine (fun (hx : Keeps s0 (StackRead.st zz)) => ?_) ?_ <;> [(clear_value zz; revert zz; intro _ _); subst zz]) | (refine (fun (hx : Keeps s0 (DeltaView.st zz)) => ?_) ?_ <;> [(clear_value zz; revert zz; intro _ _); subst zz]) | (refine (fun (hx : ∀ t, Keeps s0 t → Keeps s0 (zz t)) => ?_) ?_ <;> [(clear_value zz; revert zz; intro _ hloc); (subst zz; intro t ht; beta_reduce)]) | (refine (fun (hx : ∀ t u, Keeps s0 t → Keeps s0 (zz t u)) => ?_) ?_ <;> [(clear_value zz; revert zz; intro _ hloc); (subst zz; intro t u ht; beta_reduce)]) | (refine (fun (hx : ∀ t, Keeps s0 (zz t)) => ?_) ?_ <;> [(clear_value zz; revert zz; intro _ hloc); (subst zz; intro t; beta_reduce)]) | (refine (fun (hx : ∀ t u, Keeps s0 (zz t u)) => ?_) ?_ <;> [(clear_value zz; revert zz; intro _ hloc); (subst zz; intro t u; beta_reduce)]) | (refine (fun (hx : ∀ t u v, Keeps s0 t → Keeps s0 (zz t u v)) => ?_) ?_ <;> [(clear_value zz; revert zz; intro _ hloc); (subst zz; intro t u v ht; beta_reduce)]) | (refine (fun (hx : ∀ t u v w, Keeps s0 t → Keeps s0 (zz t u v w)) => ?_) ?_ <;> [(clear_value zz; revert zz; intro _ hloc); (subst zz; intro t u v w ht; beta_reduce)]) | (refine (fun (_ : Security) => ?_) zz; subst zz) | (clear_value zz; revert zz; intro _)) | with_reducible apply sendOne_keeps | with_reducible apply keeps_ite | with_reducible apply keepsP_ite | with_reducible apply keepsQ_ite | split | with_reducible apply keepsP_mk | with_reducible apply keepsQ_mk | with_reducible apply keeps_fst (by assumption) | with_reducible apply keeps_snd (by assumption) | with_reducible apply keeps_some (by assumption) | with_reducible apply keeps_okE (by assumption) | with_reducible apply KeepsP_fst | with_reducible apply KeepsQ_snd | fail_if_no_progress with_reducible refine keeps_mk rfl rfl rfl rfl ?_)
  | succ n ih =>
    unfold pump
    repeat' (first | with_reducible assumption | with_reducible apply ih | (extract_lets +onlyGivenNames zz; first | (refine (fun (hx : Keeps s0 zz) => ?_) ?_ <;> [(clear_value zz; revert zz; intro _ _); subst zz]) | (refine (fun (hx : KeepsP s0 zz) => ?_) ?_ <;> [(clear_value zz; revert zz; intro _ _); subst zz]) | (refine (fun (hx : KeepsQ s0 zz) => ?_) ?_ <;> [(clear_value zz; revert zz; intro _ _); subst zz]) | (refine (fun (hx : KeepsO s0 zz) => ?_) ?_ <;> [(clear_value zz; revert zz; intro _ _); subst zz]) | (refine (fun (hx : KeepsE s0 zz) => ?_) ?_ <;> [(clear_value zz; revert zz; intro _ _); subst zz]) | (refine (fun (hx : Keeps s0 (Issue.s zz)) => ?_) ?_ <;> [(clear_value zz; revert zz; intro _ _); subst zz]) | (refine (fun (hx : Keeps s0 (StackRead.st zz)) => ?_) ?_ <;> [(clear_value zz; revert zz; intro _ _); subst zz]) | (refine (fun (hx : Keeps s0 (DeltaView.st zz)) => ?_) ?_ <;> [(clear_value zz; revert zz; intro _ _); subst zz]) | (refine (fun (hx : ∀ t, Keeps s0 t → Keeps s0 (zz t)) => ?_) ?_ <;> [(clear_value zz; revert zz; intro _ hloc); (subst zz; intro t ht; beta_reduce)]) | (refine (fun (hx : ∀ t u, Keeps s0 t → Keeps s0 (zz t u)) => ?_) ?_ <;> [(clear_value zz; revert zz; intro _ hloc); (subst zz; intro t u ht; beta_reduce)]) | (refine (fun (hx : ∀ t, Keeps s0 (zz t)) => ?_) ?_ <;> [(clear_value zz; revert zz; intro _ hloc); (subst zz; intro t; beta_reduce)]) | (refine (fun (hx : ∀ t u, Keeps s0 (zz t u)) => ?_) ?_ <;> [(clear_value zz; revert zz; intro _ hloc); (subst zz; intro t u; beta_reduce)]) | (refine (fun (hx : ∀ t u v, Keeps s0 t → Keeps s0 (zz t u v)) => ?_) ?_ <;> [(clear_value zz; revert zz; intro _ hloc); (subst zz; intro t u v ht; beta_reduce)]) | (refine (fun (hx : ∀ t u v w, Keeps s0 t → Keeps s0 (zz t u v w)) => ?_) ?_ <;> [(clear_value zz; revert zz; intro _ hloc); (subst zz; intro t u v w ht; beta_reduce)]) | (refine (fun (_ : Security) => ?_) zz; subst zz) | (clear_value zz; revert zz; intro _)) | with_reducible apply sendOne_keeps | with_reducible apply keeps_ite | with_reducible apply keepsP_ite | with_reducible apply keepsQ_ite | split | with_reducible apply keepsP_mk | with_reducible apply keepsQ_mk | with_reducible apply keeps_fst (by assumption) | with_reducible apply keeps_snd (by assumption) | with_reducible apply keeps_some (by assumption) | with_reducible apply keeps_okE (by assumption) | with_reducible apply KeepsP_fst | with_reducible apply KeepsQ_snd | fail_if_no_progress with_reducible refine keeps_mk rfl rfl rfl rfl ?_)
theorem creditWaitOne_keeps {s0 : State} (key : Nat) (s : State) (vc : Nat) (h_s : Keeps s0 s) : Keeps s0 (creditWaitOne key s vc) := by
  unfold creditWaitOne
  repeat' (first | with_reducible assumption | (extract_lets +onlyGivenNames zz; first | (clear_value zz; revert zz; intro _)) | with_reducible apply bumpEv_keeps | with_reducible apply modLink_keeps | with_reducible apply keeps_ite | split)
theorem pumpLink_keeps {s0 : State} (s : State) (key : Nat) (h_s : Keeps s0 s) : Keeps s0 (pumpLink s key) := by
  unfold pumpLink
  repeat' (first | with_reducible assumption | with_reducible apply pump_keeps | with_reducible apply creditWaitOne_keeps | with_reducible apply keeps_ite | (with_reducible refine keeps_foldl ?_ (fun _ _ _ => ?_) <;> beta_reduce) | (with_reducible refine keepsP_foldl ?_ (fun _ _ _ => ?_) <;> beta_reduce) | split)
theorem queueFrom_keeps {s0 : State} (via : Option Nat) (s : State) (key : Nat) (vc : Nat) (fs : List Flit) (h_s : Keeps s0 s) : Keeps s0 (queueFrom via s key vc fs) := by
  unfold queueFrom
  repeat' (first | with_reducible assumption | (extract_lets +onlyGivenNames zz; first | (refine (fun (hx : Keeps s0 zz) => ?_) ?_ <;> [(clear_value zz; revert zz; intro _ _); subst zz]) | (refine (fun (hx : KeepsP s0 zz) => ?_) ?_ <;> [(clear_value zz; revert zz; intro _ _); subst zz]) | (refine (fun (hx : KeepsQ s0 zz) => ?_) ?_ <;> [(clear_value zz; revert zz; intro _ _); subst zz]) | (refine (fun (hx : KeepsO s0 zz) => ?_) ?_ <;> [(clear_value zz; revert zz; intro _ _); subst zz]) | (refine (fun (hx : KeepsE s0 zz) => ?_) ?_ <;> [(clear_value zz; revert zz; intro _ _); subst zz]) | (refine (fun (hx : Keeps s0 (Issue.s zz)) => ?_) ?_ <;> [(clear_value zz; revert zz; intro _ _); subst zz]) | (refine (fun (hx : Keeps s0 (StackRead.st zz)) => ?_) ?_ <;> [(clear_value zz; revert zz; intro _ _); subst zz]) | (refine (fun (hx : ∀ t, Keeps s0 t → Keeps s0 (zz t)) => ?_) ?_ <;> [(clear_value zz; revert zz; intro _ hloc); (subst zz; intro t ht; beta_reduce)]) | (refine (fun (hx : ∀ t u, Keeps s0 t → Keeps s0 (zz t u)) => ?_) ?_ <;> [(clear_value zz; revert zz; intro _ hloc); (subst zz; intro t u ht; beta_reduce)]) | (refine (fun (hx : ∀ t, Keeps s0 (zz t)) => ?_) ?_ <;> [(clear_value zz; revert zz; intro _ hloc); (subst zz; intro t; beta_reduce)]) | (refine (fun (hx : ∀ t u, Keeps s0 (zz t u)) => ?_) ?_ <;> [(clear_value zz; revert zz; intro _ hloc); (subst zz; intro t u; beta_reduce)]) | (refine (fun (hx : ∀ t u v, Keeps s0 t → Keeps s0 (zz t u v)) => ?_) ?_ <;> [(clear_value zz; revert zz; intro _ hloc); (subst zz; intro t u v ht; beta_reduce)]) | (refine (fun (hx : ∀ t u v w, Keeps s0 t → Keeps s0 (zz t u v w)) => ?_) ?_ <;> [(clear_value zz; revert zz; intro _ hloc); (subst zz; intro t u v w ht; beta_reduce)]) | (refine (fun (_ : Security) => ?_) zz; subst zz) | (clear_value zz; revert zz; intro _)) | with_reducible apply modLink_keeps | with_reducible apply pumpLink_keeps)
theorem queueFlits_keeps {s0 : State} (s : State) (key : Nat) (vc : Nat) (fs : List Flit) (h_s : Keeps s0 s) : Keeps s0 (queueFlits s key vc fs) := by
  unfold queueFlits
  repeat' (first | with_reducible assumption | with_reducible apply queueFrom_keeps)
theorem countAlt_keeps {s0 : State} (s : State) (o : Nat × Nat) (tiles : Nat) (h_s : Keeps s0 s) : Keeps s0 (countAlt s o tiles) := by
  unfold countAlt
  repeat' (first | with_reducible assumption | with_reducible apply portEvent_keeps | with_reducible apply keeps_ite)
theorem sendVia_keeps {s0 : State} (via : Option Nat) (s : State) (dest : Nat) (vc : Nat) (b : FlitBody) (h_s : Keeps s0 s) : Keeps s0 (sendVia via s dest vc b) := by
  unfold sendVia
  repeat' (first | with_reducible assumption | (extract_lets +onlyGivenNames zz; first | (clear_value zz; revert zz; intro _)) | with_reducible apply queueFrom_keeps | with_reducible apply keeps_ite | with_reducible apply keepsP_ite | with_reducible apply keepsQ_ite | split | with_reducible apply keepsP_mk | with_reducible apply keepsQ_mk | with_reducible apply keeps_fst (by assumption) | with_reducible apply keeps_snd (by assumption) | with_reducible apply keeps_some (by assumption) | with_reducible apply keeps_okE (by assumption) | with_reducible apply KeepsP_fst | with_reducible apply KeepsQ_snd | fail_if_no_progress with_reducible refine keeps_mk rfl rfl rfl rfl ?_)
theorem sendMsg_keeps {s0 : State} (s : State) (dest : Nat) (vc : Nat) (b : FlitBody) (h_s : Keeps s0 s) : Keeps s0 (sendMsg s dest vc b) := by
  unfold sendMsg
  repeat' (first | with_reducible assumption | with_reducible apply sendVia_keeps)
theorem flushWaiting_keeps {s0 : State} (s : State) (h_s : Keeps s0 s) : Keeps s0 (flushWaiting s) := by
  unfold flushWaiting
  repeat' (first | with_reducible assumption | (extract_lets +onlyGivenNames zz; first | (clear_value zz; revert zz; intro _)) | with_reducible apply sendVia_keeps | with_reducible apply keeps_ite | with_reducible apply keepsP_ite | with_reducible apply keepsQ_ite | (with_reducible refine keeps_foldl ?_ (fun _ _ _ => ?_) <;> beta_reduce) | (with_reducible refine keepsP_foldl ?_ (fun _ _ _ => ?_) <;> beta_reduce) | split | with_reducible apply keepsP_mk | with_reducible apply keepsQ_mk | with_reducible apply keeps_fst (by assumption) | with_reducible apply keeps_snd (by assumption) | with_reducible apply keeps_some (by assumption) | with_reducible apply keeps_okE (by assumption) | with_reducible apply KeepsP_fst | with_reducible apply KeepsQ_snd | fail_if_no_progress with_reducible refine keeps_mk rfl rfl rfl rfl ?_)
theorem sendLink_keeps {s0 : State} (s : State) (key : Nat) (m : LinkMsg) (h_s : Keeps s0 s) : Keeps s0 (sendLink s key m) := by
  unfold sendLink
  repeat' (first | with_reducible assumption | with_reducible apply queueFlits_keeps)

end Sys2Proof.Machine
end

