-- ==== Sys2Proof/Laws/KeepsPace.lean ====
section
/-!
SUPPORT. What the operations of Machine/Pace keep (see Laws/Keeps).
-/
namespace Sys2Proof.Machine
open Sys2Proof

theorem settle_keeps {s0 : State} (s : State) (before : State) (h_s : Keeps s0 s) (h_before : Keeps s0 before) : Keeps s0 (settle s before) := by
  unfold settle
  repeat' (first | with_reducible assumption | (extract_lets +onlyGivenNames zz; first | (clear_value zz; revert zz; intro _)) | with_reducible apply keeps_ite | (with_reducible refine keeps_foldl ?_ (fun _ _ _ => ?_) <;> beta_reduce) | (with_reducible refine keepsP_foldl ?_ (fun _ _ _ => ?_) <;> beta_reduce) | split | with_reducible apply keeps_fst (by assumption) | with_reducible apply keeps_snd (by assumption) | with_reducible apply keeps_some (by assumption) | with_reducible apply keeps_okE (by assumption) | with_reducible apply KeepsP_fst | with_reducible apply KeepsQ_snd | fail_if_no_progress with_reducible refine keeps_mk rfl rfl rfl rfl ?_)
theorem resettle_keeps {s0 : State} (s : State) (h_s : Keeps s0 s) : Keeps s0 (resettle s) := by
  unfold resettle
  repeat' (first | with_reducible assumption | with_reducible apply settle_keeps)
theorem lateReport_keeps {s0 : State} (s : State) (slot : Nat) (b : Bundle) (f : Frame) (h_s : Keeps s0 s) : Keeps s0 (lateReport s slot b f) := by
  unfold lateReport
  repeat' (first | with_reducible assumption | (extract_lets +onlyGivenNames zz; first | (refine (fun (hx : Keeps s0 zz) => ?_) ?_ <;> [(clear_value zz; revert zz; intro _ _); subst zz]) | (clear_value zz; revert zz; intro _)) | with_reducible apply report_keeps | with_reducible apply setEvent_keeps | with_reducible apply keeps_ite | split | with_reducible apply keeps_fst (by assumption) | with_reducible apply keeps_snd (by assumption) | with_reducible apply keeps_some (by assumption) | with_reducible apply keeps_okE (by assumption) | with_reducible apply KeepsP_fst | with_reducible apply KeepsQ_snd | fail_if_no_progress with_reducible refine keeps_mk rfl rfl rfl rfl ?_)
theorem frameStart_keeps {s0 : State} (s : State) (slot : Nat) (number : Nat) (start : Nat) (h_s : Keeps s0 s) : Keeps s0 (frameStart s slot number start) := by
  unfold frameStart
  repeat' (first | with_reducible assumption | with_reducible apply modBundle_keeps)
theorem governorRaise_keeps {s0 : State} (s : State) (slot : Nat) (w : Nat) (h_s : Keeps s0 s) : Keeps s0 (governorRaise s slot w) := by
  unfold governorRaise
  repeat' (first | with_reducible assumption | (extract_lets +onlyGivenNames zz; first | (clear_value zz; revert zz; intro _)) | with_reducible apply setSlot_keeps | with_reducible apply resettle_keeps | with_reducible apply keeps_ite | (with_reducible refine keeps_foldl ?_ (fun _ _ _ => ?_) <;> beta_reduce) | (with_reducible refine keepsP_foldl ?_ (fun _ _ _ => ?_) <;> beta_reduce) | split)
theorem governorLower_keeps {s0 : State} (s : State) (slot : Nat) (h_s : Keeps s0 s) : Keeps s0 (governorLower s slot) := by
  unfold governorLower
  repeat' (first | with_reducible assumption | (extract_lets +onlyGivenNames zz; first | (clear_value zz; revert zz; intro _)) | with_reducible apply setSlot_keeps | with_reducible apply resettle_keeps | with_reducible apply keeps_ite | (with_reducible refine keeps_foldl ?_ (fun _ _ _ => ?_) <;> beta_reduce) | (with_reducible refine keepsP_foldl ?_ (fun _ _ _ => ?_) <;> beta_reduce) | split)
theorem frameComplete_keeps {s0 : State} (s : State) (slot : Nat) (frame : Word) (c : Nat) (h_s : Keeps s0 s) : Keeps s0 (frameComplete s slot frame c) := by
  unfold frameComplete
  repeat' (first | with_reducible assumption | (extract_lets +onlyGivenNames zz; first | (refine (fun (hx : Keeps s0 zz) => ?_) ?_ <;> [(clear_value zz; revert zz; intro _ _); subst zz]) | (clear_value zz; revert zz; intro _)) | with_reducible apply setFldAt_keeps | with_reducible apply bumpFldAt_keeps | with_reducible apply report_keeps | with_reducible apply setSlot_keeps | with_reducible apply lateReport_keeps | with_reducible apply governorRaise_keeps | with_reducible apply governorLower_keeps | with_reducible apply keeps_ite | (with_reducible refine keeps_foldl ?_ (fun _ _ _ => ?_) <;> beta_reduce) | (with_reducible refine keepsP_foldl ?_ (fun _ _ _ => ?_) <;> beta_reduce) | split)
theorem frameDeadline_keeps {s0 : State} (s : State) (slot : Nat) (number : Nat) (h_s : Keeps s0 s) : Keeps s0 (frameDeadline s slot number) := by
  unfold frameDeadline
  repeat' (first | with_reducible assumption | (extract_lets +onlyGivenNames zz; first | (refine (fun (hx : Keeps s0 zz) => ?_) ?_ <;> [(clear_value zz; revert zz; intro _ _); subst zz]) | (clear_value zz; revert zz; intro _)) | with_reducible apply bumpFldAt_keeps | with_reducible apply setSlot_keeps | with_reducible apply lateReport_keeps | with_reducible apply governorRaise_keeps | with_reducible apply keeps_ite | split)

end Sys2Proof.Machine
end

