-- ==== Sys2Proof/Laws/KeepsStop.lean ====
section
/-!
SUPPORT. What the operations of Machine/Stop keep (see Laws/Keeps).
-/
namespace Sys2Proof.Machine
open Sys2Proof

theorem answer_keeps {s0 : State} (s : State) (slot : Nat) (tally : Nat) (src : TallySrc) (status : Nat) (h_s : Keeps s0 s) : Keeps s0 (answer s slot tally src status) := by
  unfold answer
  repeat' (first | with_reducible assumption | with_reducible apply modStation_keeps | with_reducible apply sendMsg_keeps | with_reducible apply keeps_ite | split)
theorem orphanTally_keeps {s0 : State} (s : State) (slot : Nat) (i : Nat) (h_s : Keeps s0 s) : Keeps s0 (orphanTally s slot i) := by
  unfold orphanTally
  repeat' (first | with_reducible assumption | (extract_lets +onlyGivenNames zz; first | (refine (fun (hx : Keeps s0 zz) => ?_) ?_ <;> [(clear_value zz; revert zz; intro _ _); subst zz])) | with_reducible apply modBundle_keeps | with_reducible apply modTally_keeps | with_reducible apply setEvent_keeps | with_reducible apply answer_keeps | with_reducible apply keeps_ite | (with_reducible refine keeps_foldl ?_ (fun _ _ _ => ?_) <;> beta_reduce) | (with_reducible refine keepsP_foldl ?_ (fun _ _ _ => ?_) <;> beta_reduce) | split)
theorem orphanHomed_keeps {s0 : State} (s : State) (slot : Nat) (h_s : Keeps s0 s) : Keeps s0 (orphanHomed s slot) := by
  unfold orphanHomed
  repeat' (first | with_reducible assumption | (extract_lets +onlyGivenNames zz; first | (refine (fun (hx : Keeps s0 zz) => ?_) ?_ <;> [(clear_value zz; revert zz; intro _ _); subst zz]) | (refine (fun (hx : KeepsP s0 zz) => ?_) ?_ <;> [(clear_value zz; revert zz; intro _ _); subst zz]) | (refine (fun (hx : KeepsQ s0 zz) => ?_) ?_ <;> [(clear_value zz; revert zz; intro _ _); subst zz]) | (refine (fun (hx : KeepsO s0 zz) => ?_) ?_ <;> [(clear_value zz; revert zz; intro _ _); subst zz]) | (refine (fun (hx : KeepsE s0 zz) => ?_) ?_ <;> [(clear_value zz; revert zz; intro _ _); subst zz]) | (refine (fun (hx : Keeps s0 (Issue.s zz)) => ?_) ?_ <;> [(clear_value zz; revert zz; intro _ _); subst zz]) | (refine (fun (hx : Keeps s0 (StackRead.st zz)) => ?_) ?_ <;> [(clear_value zz; revert zz; intro _ _); subst zz]) | (refine (fun (hx : ∀ t, Keeps s0 t → Keeps s0 (zz t)) => ?_) ?_ <;> [(clear_value zz; revert zz; intro _ _); (subst zz; intro t ht; beta_reduce)]) | (refine (fun (hx : ∀ t, Keeps s0 (zz t)) => ?_) ?_ <;> [(clear_value zz; revert zz; intro _ _); (subst zz; intro t; beta_reduce)]) | (refine (fun (_ : Security) => ?_) zz; subst zz) | (clear_value zz; revert zz; intro _)) | with_reducible apply orphanTally_keeps | with_reducible apply keeps_ite | (with_reducible refine keeps_foldl ?_ (fun _ _ _ => ?_) <;> beta_reduce) | (with_reducible refine keepsP_foldl ?_ (fun _ _ _ => ?_) <;> beta_reduce) | split)
theorem stallCount_keeps {s0 : State} (s : State) (w : Where) (h_s : Keeps s0 s) : Keeps s0 (stallCount s w) := by
  unfold stallCount
  repeat' (first | with_reducible assumption | (extract_lets +onlyGivenNames zz; first | (clear_value zz; revert zz; intro _)) | with_reducible apply bumpEv_keeps | with_reducible apply keeps_ite | split)
theorem stallAll_keeps {s0 : State} (s : State) (slot : Nat) (h_s : Keeps s0 s) : Keeps s0 (stallAll s slot) := by
  unfold stallAll
  repeat' (first | with_reducible assumption | with_reducible apply stallCount_keeps | with_reducible apply keeps_ite | (with_reducible refine keeps_foldl ?_ (fun _ _ _ => ?_) <;> beta_reduce) | (with_reducible refine keepsP_foldl ?_ (fun _ _ _ => ?_) <;> beta_reduce) | split)
theorem leaveRemote_keeps {s0 : State} (s : State) (slot : Nat) (h_s : Keeps s0 s) : Keeps s0 (leaveRemote s slot) := by
  unfold leaveRemote
  repeat' (first | with_reducible assumption | (extract_lets +onlyGivenNames zz; first | (refine (fun (hx : Keeps s0 zz) => ?_) ?_ <;> [(clear_value zz; revert zz; intro _ _); subst zz]) | (refine (fun (hx : KeepsP s0 zz) => ?_) ?_ <;> [(clear_value zz; revert zz; intro _ _); subst zz]) | (refine (fun (hx : KeepsQ s0 zz) => ?_) ?_ <;> [(clear_value zz; revert zz; intro _ _); subst zz]) | (refine (fun (hx : KeepsO s0 zz) => ?_) ?_ <;> [(clear_value zz; revert zz; intro _ _); subst zz]) | (refine (fun (hx : KeepsE s0 zz) => ?_) ?_ <;> [(clear_value zz; revert zz; intro _ _); subst zz]) | (refine (fun (hx : Keeps s0 (Issue.s zz)) => ?_) ?_ <;> [(clear_value zz; revert zz; intro _ _); subst zz]) | (refine (fun (hx : Keeps s0 (StackRead.st zz)) => ?_) ?_ <;> [(clear_value zz; revert zz; intro _ _); subst zz]) | (refine (fun (hx : ∀ t, Keeps s0 t → Keeps s0 (zz t)) => ?_) ?_ <;> [(clear_value zz; revert zz; intro _ hloc); (subst zz; intro t ht; beta_reduce)]) | (refine (fun (hx : ∀ t u, Keeps s0 t → Keeps s0 (zz t u)) => ?_) ?_ <;> [(clear_value zz; revert zz; intro _ hloc); (subst zz; intro t u ht; beta_reduce)]) | (refine (fun (hx : ∀ t, Keeps s0 (zz t)) => ?_) ?_ <;> [(clear_value zz; revert zz; intro _ hloc); (subst zz; intro t; beta_reduce)]) | (refine (fun (hx : ∀ t u, Keeps s0 (zz t u)) => ?_) ?_ <;> [(clear_value zz; revert zz; intro _ hloc); (subst zz; intro t u; beta_reduce)]) | (refine (fun (hx : ∀ t u v, Keeps s0 t → Keeps s0 (zz t u v)) => ?_) ?_ <;> [(clear_value zz; revert zz; intro _ hloc); (subst zz; intro t u v ht; beta_reduce)]) | (refine (fun (hx : ∀ t u v w, Keeps s0 t → Keeps s0 (zz t u v w)) => ?_) ?_ <;> [(clear_value zz; revert zz; intro _ hloc); (subst zz; intro t u v w ht; beta_reduce)]) | (refine (fun (_ : Security) => ?_) zz; subst zz) | (clear_value zz; revert zz; intro _)) | with_reducible apply sendMsg_keeps | with_reducible apply keeps_ite | with_reducible apply keepsP_ite | with_reducible apply keepsQ_ite | (with_reducible refine keeps_foldl ?_ (fun _ _ _ => ?_) <;> beta_reduce) | (with_reducible refine keepsP_foldl ?_ (fun _ _ _ => ?_) <;> beta_reduce) | split)
theorem holdBundle_keeps {s0 : State} (s : State) (slot : Nat) (h_s : Keeps s0 s) : Keeps s0 (holdBundle s slot) := by
  unfold holdBundle
  repeat' (first | with_reducible assumption | (extract_lets +onlyGivenNames zz; first | (refine (fun (hx : Keeps s0 zz) => ?_) ?_ <;> [(clear_value zz; revert zz; intro _ _); subst zz]) | (refine (fun (hx : KeepsP s0 zz) => ?_) ?_ <;> [(clear_value zz; revert zz; intro _ _); subst zz]) | (refine (fun (hx : KeepsQ s0 zz) => ?_) ?_ <;> [(clear_value zz; revert zz; intro _ _); subst zz]) | (refine (fun (hx : KeepsO s0 zz) => ?_) ?_ <;> [(clear_value zz; revert zz; intro _ _); subst zz]) | (refine (fun (hx : KeepsE s0 zz) => ?_) ?_ <;> [(clear_value zz; revert zz; intro _ _); subst zz]) | (refine (fun (hx : Keeps s0 (Issue.s zz)) => ?_) ?_ <;> [(clear_value zz; revert zz; intro _ _); subst zz]) | (refine (fun (hx : Keeps s0 (StackRead.st zz)) => ?_) ?_ <;> [(clear_value zz; revert zz; intro _ _); subst zz]) | (refine (fun (hx : ∀ t, Keeps s0 t → Keeps s0 (zz t)) => ?_) ?_ <;> [(clear_value zz; revert zz; intro _ hloc); (subst zz; intro t ht; beta_reduce)]) | (refine (fun (hx : ∀ t u, Keeps s0 t → Keeps s0 (zz t u)) => ?_) ?_ <;> [(clear_value zz; revert zz; intro _ hloc); (subst zz; intro t u ht; beta_reduce)]) | (refine (fun (hx : ∀ t, Keeps s0 (zz t)) => ?_) ?_ <;> [(clear_value zz; revert zz; intro _ hloc); (subst zz; intro t; beta_reduce)]) | (refine (fun (hx : ∀ t u, Keeps s0 (zz t u)) => ?_) ?_ <;> [(clear_value zz; revert zz; intro _ hloc); (subst zz; intro t u; beta_reduce)]) | (refine (fun (hx : ∀ t u v, Keeps s0 t → Keeps s0 (zz t u v)) => ?_) ?_ <;> [(clear_value zz; revert zz; intro _ hloc); (subst zz; intro t u v ht; beta_reduce)]) | (refine (fun (hx : ∀ t u v w, Keeps s0 t → Keeps s0 (zz t u v w)) => ?_) ?_ <;> [(clear_value zz; revert zz; intro _ hloc); (subst zz; intro t u v w ht; beta_reduce)]) | (refine (fun (_ : Security) => ?_) zz; subst zz) | (clear_value zz; revert zz; intro _)) | with_reducible apply modBundle_keeps | with_reducible apply stallAll_keeps | with_reducible apply leaveRemote_keeps)
theorem holdFor_keeps {s0 : State} (s : State) (slot : Nat) (h_s : Keeps s0 s) : Keeps s0 (holdFor s slot) := by
  unfold holdFor
  repeat' (first | with_reducible assumption | (extract_lets +onlyGivenNames zz; first | (refine (fun (hx : Keeps s0 zz) => ?_) ?_ <;> [(clear_value zz; revert zz; intro _ _); subst zz]) | (refine (fun (hx : KeepsP s0 zz) => ?_) ?_ <;> [(clear_value zz; revert zz; intro _ _); subst zz]) | (refine (fun (hx : KeepsQ s0 zz) => ?_) ?_ <;> [(clear_value zz; revert zz; intro _ _); subst zz]) | (refine (fun (hx : KeepsO s0 zz) => ?_) ?_ <;> [(clear_value zz; revert zz; intro _ _); subst zz]) | (refine (fun (hx : KeepsE s0 zz) => ?_) ?_ <;> [(clear_value zz; revert zz; intro _ _); subst zz]) | (refine (fun (hx : Keeps s0 (Issue.s zz)) => ?_) ?_ <;> [(clear_value zz; revert zz; intro _ _); subst zz]) | (refine (fun (hx : Keeps s0 (StackRead.st zz)) => ?_) ?_ <;> [(clear_value zz; revert zz; intro _ _); subst zz]) | (refine (fun (hx : ∀ t, Keeps s0 t → Keeps s0 (zz t)) => ?_) ?_ <;> [(clear_value zz; revert zz; intro _ _); (subst zz; intro t ht; beta_reduce)]) | (refine (fun (hx : ∀ t, Keeps s0 (zz t)) => ?_) ?_ <;> [(clear_value zz; revert zz; intro _ _); (subst zz; intro t; beta_reduce)]) | (refine (fun (_ : Security) => ?_) zz; subst zz) | (clear_value zz; revert zz; intro _)) | with_reducible apply setSlot_keeps | with_reducible apply holdBundle_keeps | with_reducible apply keeps_ite | split)
theorem faultBundle_keeps {s0 : State} (s : State) (slot : Nat) (h_s : Keeps s0 s) : Keeps s0 (faultBundle s slot) := by
  unfold faultBundle
  repeat' (first | with_reducible assumption | (extract_lets +onlyGivenNames zz; first | (refine (fun (hx : Keeps s0 zz) => ?_) ?_ <;> [(clear_value zz; revert zz; intro _ _); subst zz])) | with_reducible apply modBundle_keeps | with_reducible apply setEvent_keeps | with_reducible apply orphanHomed_keeps | with_reducible apply stallAll_keeps | with_reducible apply leaveRemote_keeps | with_reducible apply keeps_ite | with_reducible apply keepsP_ite | with_reducible apply keepsQ_ite | split)
theorem faultWith_keeps {s0 : State} (s : State) (slot : Nat) (code : Nat) (source : Nat) (detail : List Byte) (h_s : Keeps s0 s) : Keeps s0 (faultWith s slot code source detail) := by
  unfold faultWith
  repeat' (first | with_reducible assumption | (extract_lets +onlyGivenNames zz; first | (refine (fun (hx : Keeps s0 zz) => ?_) ?_ <;> [(clear_value zz; revert zz; intro _ _); subst zz]) | (refine (fun (hx : KeepsP s0 zz) => ?_) ?_ <;> [(clear_value zz; revert zz; intro _ _); subst zz]) | (refine (fun (hx : KeepsQ s0 zz) => ?_) ?_ <;> [(clear_value zz; revert zz; intro _ _); subst zz]) | (refine (fun (hx : KeepsO s0 zz) => ?_) ?_ <;> [(clear_value zz; revert zz; intro _ _); subst zz]) | (refine (fun (hx : KeepsE s0 zz) => ?_) ?_ <;> [(clear_value zz; revert zz; intro _ _); subst zz]) | (refine (fun (hx : Keeps s0 (Issue.s zz)) => ?_) ?_ <;> [(clear_value zz; revert zz; intro _ _); subst zz]) | (refine (fun (hx : Keeps s0 (StackRead.st zz)) => ?_) ?_ <;> [(clear_value zz; revert zz; intro _ _); subst zz]) | (refine (fun (hx : ∀ t, Keeps s0 t → Keeps s0 (zz t)) => ?_) ?_ <;> [(clear_value zz; revert zz; intro _ _); (subst zz; intro t ht; beta_reduce)]) | (refine (fun (hx : ∀ t, Keeps s0 (zz t)) => ?_) ?_ <;> [(clear_value zz; revert zz; intro _ _); (subst zz; intro t; beta_reduce)]) | (refine (fun (_ : Security) => ?_) zz; subst zz) | (clear_value zz; revert zz; intro _)) | with_reducible apply report_keeps | with_reducible apply faultBundle_keeps | with_reducible apply keeps_ite | split)
theorem faultRegs_keeps {s0 : State} (s : State) (cell : Nat) (code : Nat) (pc : Nat) (insn : Word) (detail : Nat) (lost : Bool) (h_s : Keeps s0 s) : Keeps s0 (faultRegs s cell code pc insn detail lost) := by
  unfold faultRegs
  repeat' (first | with_reducible assumption | (extract_lets +onlyGivenNames zz; first | (refine (fun (hx : Keeps s0 zz) => ?_) ?_ <;> [(clear_value zz; revert zz; intro _ _); subst zz]) | (clear_value zz; revert zz; intro _)) | with_reducible apply setFldAt_keeps | with_reducible apply keeps_ite)
theorem stationFaultAt_keeps {s0 : State} (s : State) (w : Where) (code : Nat) (detail : Nat) (pc : Nat) (insn : Word) (h_s : Keeps s0 s) : Keeps s0 (stationFaultAt s w code detail pc insn) := by
  unfold stationFaultAt
  repeat' (first | with_reducible assumption | (extract_lets +onlyGivenNames zz; first | (refine (fun (hx : Keeps s0 zz) => ?_) ?_ <;> [(clear_value zz; revert zz; intro _ _); subst zz]) | (clear_value zz; revert zz; intro _)) | with_reducible apply report_keeps | with_reducible apply modStation_keeps | with_reducible apply holdFor_keeps | with_reducible apply faultBundle_keeps | with_reducible apply faultRegs_keeps | with_reducible apply keeps_ite)
theorem stationFault_keeps {s0 : State} (s : State) (w : Where) (insn : Word) (code : Nat) (detail : Nat) (h_s : Keeps s0 s) : Keeps s0 (stationFault s w insn code detail) := by
  unfold stationFault
  repeat' (first | with_reducible assumption | with_reducible apply stationFaultAt_keeps)

end Sys2Proof.Machine
end

