-- ==== Sys2Proof/Laws/KeepsStackMem.lean ====
section
/-!
SUPPORT. What the operations of Machine/StackMem keep (see Laws/Keeps).
-/
namespace Sys2Proof.Machine
open Sys2Proof

theorem stkEvent_keeps {s0 : State} (s : State) (n : Nat) (code : Nat) (k : Nat) (h_s : Keeps s0 s) : Keeps s0 (stkEvent s n code k) := by
  unfold stkEvent
  repeat' (first | with_reducible assumption | with_reducible apply bumpEv_keeps)
theorem repairStart_keeps {s0 : State} (s : State) (n : Nat) (key : Nat) (h_s : Keeps s0 s) : Keeps s0 (repairStart s n key) := by
  unfold repairStart
  refine modStack_keeps _ _ _ h_s (fun _ k hk => ?_)
  split <;> exact hk
theorem stackCe_keeps {s0 : State} (s : State) (n : Nat) (w : Nat) (h_s : Keeps s0 s) : Keeps s0 (stackCe s n w) := by
  unfold stackCe
  repeat' (first | with_reducible assumption | (extract_lets +onlyGivenNames zz; first | (refine (fun (hx : Keeps s0 zz) => ?_) ?_ <;> [(clear_value zz; revert zz; intro _ _); subst zz]) | (clear_value zz; revert zz; intro _)) | with_reducible apply satFldAt_keeps | with_reducible apply modStack_keeps | with_reducible apply setEventAt_keeps | with_reducible apply stkEvent_keeps | with_reducible apply repairStart_keeps | with_reducible apply keeps_ite | split | (refine fun _ k hk => ?_; first | with_reducible exact hk | with_reducible exact Mem.store_wf _ _ hk | with_reducible exact Mem.writeSlot_wf _ _ hk | with_reducible exact Mem.wipe_wf _ _ hk))
theorem stackUe_keeps {s0 : State} (s : State) (n : Nat) (w : Nat) (h_s : Keeps s0 s) : Keeps s0 (stackUe s n w) := by
  unfold stackUe
  repeat' (first | with_reducible assumption | (extract_lets +onlyGivenNames zz; first | (refine (fun (hx : Keeps s0 zz) => ?_) ?_ <;> [(clear_value zz; revert zz; intro _ _); subst zz]) | (clear_value zz; revert zz; intro _)) | with_reducible apply setFldAt_keeps | with_reducible apply satFldAt_keeps | with_reducible apply report_keeps | with_reducible apply setEventAt_keeps | with_reducible apply stkEvent_keeps | with_reducible apply repairStart_keeps)
theorem stackFound_keeps {s0 : State} (s : State) (n : Nat) (m : Mem) (fixed : List Nat) (bad : List (Nat × Bool)) (h_s : Keeps s0 s)
    (hm : DiesCanonical s0.dies → m.wf = true) : Keeps s0 (stackFound s n m fixed bad) := by
  unfold stackFound
  refine keeps_foldl (keeps_foldl (modStack_keeps _ _ _ h_s (fun w _ _ => hm w)) (fun t a ht => stackCe_keeps _ _ _ ht)) (fun t a ht => ?_)
  split
  · exact ht
  · exact stackUe_keeps _ _ _ ht
theorem stackRead_keeps {s0 : State} (s : State) (n off len : Nat) (h_s : Keeps s0 s) : Keeps s0 (stackRead s n off len).st := by
  unfold stackRead
  split
  · exact h_s
  · rename_i k e
    exact stackFound_keeps _ _ _ _ _ h_s (fun w => Mem.poisonAll_wf _ (Mem.correct_wf _ _ (stackOf_wf h_s e w)))
theorem stackTile_keeps {s0 : State} (s : State) (n off : Nat) (h_s : Keeps s0 s) : KeepsP s0 (stackTile s n off) := by
  unfold stackTile
  split
  · exact h_s
  · rename_i k e
    exact stackFound_keeps _ _ _ _ _ h_s (fun w => Mem.readSlot_wf _ _ (stackOf_wf h_s e w))
theorem stackPutTile_keeps {s0 : State} (s : State) (n : Nat) (off : Nat) (t : Tile) (h_s : Keeps s0 s) : Keeps s0 (stackPutTile s n off t) := by
  unfold stackPutTile
  repeat' (first | with_reducible assumption | (extract_lets +onlyGivenNames zz; first | (refine (fun (hx : Keeps s0 zz) => ?_) ?_ <;> [(clear_value zz; revert zz; intro _ _); subst zz]) | (refine (fun (hx : KeepsP s0 zz) => ?_) ?_ <;> [(clear_value zz; revert zz; intro _ _); subst zz]) | (refine (fun (hx : KeepsQ s0 zz) => ?_) ?_ <;> [(clear_value zz; revert zz; intro _ _); subst zz]) | (refine (fun (hx : KeepsO s0 zz) => ?_) ?_ <;> [(clear_value zz; revert zz; intro _ _); subst zz]) | (refine (fun (hx : KeepsE s0 zz) => ?_) ?_ <;> [(clear_value zz; revert zz; intro _ _); subst zz]) | (refine (fun (hx : Keeps s0 (Issue.s zz)) => ?_) ?_ <;> [(clear_value zz; revert zz; intro _ _); subst zz]) | (refine (fun (hx : Keeps s0 (StackRead.st zz)) => ?_) ?_ <;> [(clear_value zz; revert zz; intro _ _); subst zz]) | (refine (fun (hx : ∀ t, Keeps s0 t → Keeps s0 (zz t)) => ?_) ?_ <;> [(clear_value zz; revert zz; intro _ _); (subst zz; intro t ht; beta_reduce)]) | (refine (fun (hx : ∀ t, Keeps s0 (zz t)) => ?_) ?_ <;> [(clear_value zz; revert zz; intro _ _); (subst zz; intro t; beta_reduce)]) | (refine (fun (_ : Security) => ?_) zz; subst zz) | (clear_value zz; revert zz; intro _)) | with_reducible apply modStack_keeps | with_reducible apply keeps_ite | split | (refine fun _ k hk => ?_; first | with_reducible exact hk | with_reducible exact Mem.store_wf _ _ hk | with_reducible exact Mem.writeSlot_wf _ _ hk | with_reducible exact Mem.wipe_wf _ _ hk))
theorem activate_keeps {s0 : State} (s : State) (n : Nat) (acts : List (Nat × Nat)) (h_s : Keeps s0 s) : Keeps s0 (activate s n acts) := by
  unfold activate
  refine keeps_foldl h_s (fun t e ht => ?_)
  split
  · exact ht
  · exact bumpFldAt_keeps _ _ _ _ _ _ (stkEvent_keeps _ _ _ _ (modStack_keeps _ _ _ ht (fun _ _ hk => hk)))
theorem correctRow_keeps {s0 : State} (s : State) (n : Nat) (key : Nat) (h_s : Keeps s0 s) : Keeps s0 (correctRow s n key) := by
  unfold correctRow
  repeat' (first | with_reducible assumption | with_reducible apply stackRead_keeps | with_reducible apply keeps_ite | with_reducible apply keepsP_ite | with_reducible apply keepsQ_ite | (with_reducible refine keeps_foldl ?_ (fun _ _ _ => ?_) <;> beta_reduce))
theorem spareReports_keeps {s0 : State} (s : State) (n : Nat) (bank : Nat) (h_s : Keeps s0 s) : Keeps s0 (spareReports s n bank) := by
  unfold spareReports
  repeat' (first | with_reducible assumption | with_reducible apply report_keeps | with_reducible apply keeps_ite | split)
theorem finishRepair_keeps {s0 : State} (s : State) (n : Nat) (bank : Nat) (row : Nat) (h_s : Keeps s0 s) :
    Keeps s0 (finishRepair s n bank row) := by
  unfold finishRepair
  exact spareReports_keeps _ _ _ (report_keeps _ _ _ _ _ (setEventAt_keeps _ _ _ _ _ (stkEvent_keeps _ _ _ _
    (modStack_keeps _ _ _ (correctRow_keeps _ _ _ h_s) (fun _ _ hk => hk)))))
theorem awaitRepairs_keeps {s0 : State} (s : State) (n : Nat) (off : Nat) (len : Nat) (h_s : Keeps s0 s) : Keeps s0 (awaitRepairs s n off len) := by
  unfold awaitRepairs
  repeat' (first | with_reducible assumption | with_reducible apply finishRepair_keeps | with_reducible apply keeps_ite | with_reducible apply keepsP_ite | with_reducible apply keepsQ_ite | (with_reducible refine keeps_foldl ?_ (fun _ _ _ => ?_) <;> beta_reduce) | (with_reducible refine keepsP_foldl ?_ (fun _ _ _ => ?_) <;> beta_reduce) | split)
theorem openRows_keeps {s0 : State} (s : State) (n : Nat) (off : Nat) (len : Nat) (h_s : Keeps s0 s) : Keeps s0 (openRows s n off len) := by
  unfold openRows
  repeat' (first | with_reducible assumption | with_reducible apply activate_keeps | with_reducible apply awaitRepairs_keeps)
theorem keptChanged_keeps {s0 : State} (s : State) (h_s : Keeps s0 s) : Keeps s0 (keptChanged s) := by
  unfold keptChanged
  repeat' (first | with_reducible assumption | (extract_lets +onlyGivenNames zz; first | (refine (fun (_ : Security) => ?_) zz; subst zz)) | with_reducible apply keeps_ite | split | with_reducible apply keeps_fst (by assumption) | with_reducible apply keeps_snd (by assumption) | with_reducible apply keeps_some (by assumption) | with_reducible apply keeps_okE (by assumption) | with_reducible apply KeepsP_fst | with_reducible apply KeepsQ_snd | fail_if_no_progress with_reducible refine keeps_mk rfl rfl rfl rfl ?_)
theorem softRetire_keeps {s0 : State} (s : State) (cell : Nat) (h_s : Keeps s0 s) : Keeps s0 (softRetire s cell) := by
  unfold softRetire
  repeat' (first | with_reducible assumption | (extract_lets +onlyGivenNames zz; first | (refine (fun (hx : Keeps s0 zz) => ?_) ?_ <;> [(clear_value zz; revert zz; intro _ _); subst zz]) | (clear_value zz; revert zz; intro _)) | with_reducible apply modStation_keeps | with_reducible apply setEvent_keeps | with_reducible apply keptChanged_keeps | with_reducible apply keeps_ite | split | with_reducible apply keeps_fst (by assumption) | with_reducible apply keeps_snd (by assumption) | with_reducible apply keeps_some (by assumption) | with_reducible apply keeps_okE (by assumption) | with_reducible apply KeepsP_fst | with_reducible apply KeepsQ_snd | fail_if_no_progress with_reducible refine keeps_mk rfl rfl rfl rfl ?_)
theorem softCause_keeps {s0 : State} (s : State) (cell : Nat) (h_s : Keeps s0 s) : Keeps s0 (softCause s cell) := by
  unfold softCause
  repeat' (first | with_reducible assumption | with_reducible apply report_keeps | with_reducible apply softRetire_keeps | with_reducible apply keeps_ite)
theorem scratchFound_keeps {s0 : State} (s : State) (cell : Nat) (ctx : EvCtx) (ce : Nat) (ue : Nat) (h_s : Keeps s0 s) : Keeps s0 (scratchFound s cell ctx ce ue) := by
  unfold scratchFound
  repeat' (first | with_reducible assumption | (extract_lets +onlyGivenNames zz; first | (refine (fun (hx : Keeps s0 zz) => ?_) ?_ <;> [(clear_value zz; revert zz; intro _ _); subst zz]) | (clear_value zz; revert zz; intro _)) | with_reducible apply satFldAt_keeps | with_reducible apply bumpEv_keeps | with_reducible apply setEventAt_keeps | with_reducible apply softCause_keeps | with_reducible apply keeps_ite | (with_reducible refine keeps_foldl ?_ (fun _ _ _ => ?_) <;> beta_reduce) | (with_reducible refine keepsP_foldl ?_ (fun _ _ _ => ?_) <;> beta_reduce) | split | with_reducible apply keeps_fst (by assumption) | with_reducible apply keeps_snd (by assumption) | with_reducible apply keeps_some (by assumption) | with_reducible apply keeps_okE (by assumption) | with_reducible apply KeepsP_fst | with_reducible apply KeepsQ_snd | fail_if_no_progress with_reducible refine keeps_mk rfl rfl rfl rfl ?_)

end Sys2Proof.Machine
end

