-- ==== Sys2Proof/Laws/KeepsTally.lean ====
section
/-!
SUPPORT. What the operations of Machine/Tally keep (see Laws/Keeps).
-/
namespace Sys2Proof.Machine
open Sys2Proof

theorem release_keeps {s0 : State} (s : State) (slot : Nat) (i : Nat) (h_s : Keeps s0 s) : Keeps s0 (release s slot i) := by
  unfold release
  repeat' (first | with_reducible assumption | (extract_lets +onlyGivenNames zz; first | (clear_value zz; revert zz; intro _)) | with_reducible apply modTally_keeps | with_reducible apply answer_keeps | with_reducible apply keeps_ite | (with_reducible refine keeps_foldl ?_ (fun _ _ _ => ?_) <;> beta_reduce) | (with_reducible refine keepsP_foldl ?_ (fun _ _ _ => ?_) <;> beta_reduce) | split)
theorem tallyReport_keeps {s0 : State} (s : State) (slot : Nat) (i : Nat) (overs : Bool) (amount : Nat) (src : Option TallySrc) (h_s : Keeps s0 s) : Keeps s0 (tallyReport s slot i overs amount src) := by
  unfold tallyReport
  repeat' (first | with_reducible assumption | (extract_lets +onlyGivenNames zz; first | (refine (fun (hx : Keeps s0 zz) => ?_) ?_ <;> [(clear_value zz; revert zz; intro _ _); subst zz]) | (clear_value zz; revert zz; intro _)) | with_reducible apply report_keeps | with_reducible apply modTally_keeps | with_reducible apply setEvent_keeps | with_reducible apply keeps_ite | split)
theorem tallyApply_keeps {s0 : State} (s : State) (slot : Nat) (i : Nat) (src : TallySrc) (op : TallyOp) (n : Word) (h_s : Keeps s0 s) : Keeps s0 (tallyApply s slot i src op n) := by
  unfold tallyApply
  repeat' (first | with_reducible assumption | (extract_lets +onlyGivenNames zz; first | (refine (fun (hx : Keeps s0 zz) => ?_) ?_ <;> [(clear_value zz; revert zz; intro _ _); subst zz]) | (refine (fun (hx : KeepsP s0 zz) => ?_) ?_ <;> [(clear_value zz; revert zz; intro _ _); subst zz]) | (refine (fun (hx : KeepsQ s0 zz) => ?_) ?_ <;> [(clear_value zz; revert zz; intro _ _); subst zz]) | (refine (fun (hx : KeepsO s0 zz) => ?_) ?_ <;> [(clear_value zz; revert zz; intro _ _); subst zz]) | (refine (fun (hx : KeepsE s0 zz) => ?_) ?_ <;> [(clear_value zz; revert zz; intro _ _); subst zz]) | (refine (fun (hx : Keeps s0 (Issue.s zz)) => ?_) ?_ <;> [(clear_value zz; revert zz; intro _ _); subst zz]) | (refine (fun (hx : Keeps s0 (StackRead.st zz)) => ?_) ?_ <;> [(clear_value zz; revert zz; intro _ _); subst zz]) | (refine (fun (hx : ∀ t, Keeps s0 t → Keeps s0 (zz t)) => ?_) ?_ <;> [(clear_value zz; revert zz; intro _ _); (subst zz; intro t ht; beta_reduce)]) | (refine (fun (hx : ∀ t, Keeps s0 (zz t)) => ?_) ?_ <;> [(clear_value zz; revert zz; intro _ _); (subst zz; intro t; beta_reduce)]) | (refine (fun (_ : Security) => ?_) zz; subst zz) | (clear_value zz; revert zz; intro _)) | with_reducible apply modTally_keeps | with_reducible apply answer_keeps | with_reducible apply release_keeps | with_reducible apply tallyReport_keeps | with_reducible apply keeps_ite | split)
theorem tallyMessage_keeps {s0 : State} (s : State) (b : Bundle) (t : Tally) (r : TallyRec) (idx : Nat) (e : TallyWait) (h_s : Keeps s0 s) : Keeps s0 (tallyMessage s b t r idx e) := by
  unfold tallyMessage
  repeat' (first | with_reducible assumption | with_reducible apply sendMsg_keeps)
theorem answerAccepted_keeps {s0 : State} (s : State) (slot : Nat) (idx : Nat) (e : TallyWait) (status : Nat) (h_s : Keeps s0 s) : Keeps s0 (answerAccepted s slot idx e status) := by
  unfold answerAccepted
  repeat' (first | with_reducible assumption | with_reducible apply modStation_keeps)
theorem execTallyOpAccept_keeps {s0 : State} (slot : Nat) (tally : Nat) (src : TallySrc) (s : State) (h_s : Keeps s0 s) : KeepsOut s0 (execTallyOpAccept slot tally src s) := by
  unfold execTallyOpAccept
  repeat' (first | with_reducible assumption | (extract_lets +onlyGivenNames zz; first | (refine (fun (hx : Keeps s0 zz) => ?_) ?_ <;> [(clear_value zz; revert zz; intro _ _); subst zz])) | with_reducible apply done_keeps | with_reducible apply modStation_keeps | with_reducible apply sendMsg_keeps | with_reducible apply orphanTally_keeps | with_reducible apply tallyApply_keeps | with_reducible apply tallyMessage_keeps | with_reducible apply answerAccepted_keeps | with_reducible apply keeps_ite | with_reducible apply keepsOut_ite | with_reducible apply keepsP_ite | with_reducible apply keepsQ_ite | split)
theorem settleDeferred_keeps {s0 : State} (s : State) (slot : Nat) (idx : Nat) (h_s : Keeps s0 s) : Keeps s0 (settleDeferred s slot idx) := by
  unfold settleDeferred
  repeat' (first | with_reducible assumption | (extract_lets +onlyGivenNames zz; first | (clear_value zz; revert zz; intro _)) | with_reducible apply modStation_keeps | with_reducible apply stationFaultAt_keeps | with_reducible apply keeps_ite | split)
theorem deliverStatus_keeps {s0 : State} (s : State) (w : Where) (e : TallyWait) (status : Nat) (h_s : Keeps s0 s) : Keeps s0 (deliverStatus s w e status) := by
  unfold deliverStatus
  repeat' (first | with_reducible assumption | (extract_lets +onlyGivenNames zz; first | (refine (fun (hx : Keeps s0 zz) => ?_) ?_ <;> [(clear_value zz; revert zz; intro _ _); subst zz]) | (clear_value zz; revert zz; intro _)) | with_reducible apply modStation_keeps | with_reducible apply stationFault_keeps | with_reducible apply settleDeferred_keeps | with_reducible apply keeps_ite)
theorem execTallyStatusReturn_keeps {s0 : State} (cell : Nat) (status : Nat) (s : State) (h_s : Keeps s0 s) : KeepsOut s0 (execTallyStatusReturn cell status s) := by
  unfold execTallyStatusReturn
  repeat' (first | with_reducible assumption | (extract_lets +onlyGivenNames zz; first | (refine (fun (hx : Keeps s0 zz) => ?_) ?_ <;> [(clear_value zz; revert zz; intro _ _); subst zz]) | (clear_value zz; revert zz; intro _)) | with_reducible apply done_keeps | with_reducible apply orphanTally_keeps | with_reducible apply deliverStatus_keeps | with_reducible apply keeps_ite | with_reducible apply keepsOut_ite | split)
theorem epochEnd_keeps {s0 : State} (s : State) (slot : Nat) (after : Option (Nat × Nat)) (h_s : Keeps s0 s) : Keeps s0 (epochEnd s slot after) := by
  unfold epochEnd
  repeat' (first | with_reducible assumption | with_reducible apply modBundle_keeps)
theorem epochHold_keeps {s0 : State} (s : State) (slot : Nat) (h_s : Keeps s0 s) : Keeps s0 (epochHold s slot) := by
  unfold epochHold
  repeat' (first | with_reducible assumption | (extract_lets +onlyGivenNames zz; first | (refine (fun (hx : Keeps s0 zz) => ?_) ?_ <;> [(clear_value zz; revert zz; intro _ _); subst zz]) | (refine (fun (hx : KeepsP s0 zz) => ?_) ?_ <;> [(clear_value zz; revert zz; intro _ _); subst zz]) | (refine (fun (hx : KeepsQ s0 zz) => ?_) ?_ <;> [(clear_value zz; revert zz; intro _ _); subst zz]) | (refine (fun (hx : KeepsO s0 zz) => ?_) ?_ <;> [(clear_value zz; revert zz; intro _ _); subst zz]) | (refine (fun (hx : KeepsE s0 zz) => ?_) ?_ <;> [(clear_value zz; revert zz; intro _ _); subst zz]) | (refine (fun (hx : Keeps s0 (Issue.s zz)) => ?_) ?_ <;> [(clear_value zz; revert zz; intro _ _); subst zz]) | (refine (fun (hx : Keeps s0 (StackRead.st zz)) => ?_) ?_ <;> [(clear_value zz; revert zz; intro _ _); subst zz]) | (refine (fun (hx : ∀ t, Keeps s0 t → Keeps s0 (zz t)) => ?_) ?_ <;> [(clear_value zz; revert zz; intro _ _); (subst zz; intro t ht; beta_reduce)]) | (refine (fun (hx : ∀ t, Keeps s0 (zz t)) => ?_) ?_ <;> [(clear_value zz; revert zz; intro _ _); (subst zz; intro t; beta_reduce)]) | (refine (fun (_ : Security) => ?_) zz; subst zz) | (clear_value zz; revert zz; intro _)) | with_reducible apply holdBundle_keeps | with_reducible apply keeps_ite | split)
theorem execTallyEpochMarker_keeps {s0 : State} (slot : Nat) (tally : Nat) (s : State) (h_s : Keeps s0 s) : KeepsOut s0 (execTallyEpochMarker slot tally s) := by
  unfold execTallyEpochMarker
  repeat' (first | with_reducible assumption | (extract_lets +onlyGivenNames zz; first | (refine (fun (hx : Keeps s0 zz) => ?_) ?_ <;> [(clear_value zz; revert zz; intro _ _); subst zz]) | (clear_value zz; revert zz; intro _)) | with_reducible apply done_keeps | with_reducible apply modTally_keeps | with_reducible apply setEvent_keeps | with_reducible apply tallyReport_keeps | with_reducible apply epochHold_keeps | with_reducible apply keeps_ite | with_reducible apply keepsOut_ite | split)
theorem remoteWaitLost_keeps {s0 : State} (s : State) (cell : Nat) (h_s : Keeps s0 s) : Keeps s0 (remoteWaitLost s cell) := by
  unfold remoteWaitLost
  repeat' (first | with_reducible assumption | (extract_lets +onlyGivenNames zz; first | (refine (fun (hx : Keeps s0 zz) => ?_) ?_ <;> [(clear_value zz; revert zz; intro _ _); subst zz])) | with_reducible apply orphanTally_keeps | with_reducible apply deliverStatus_keeps | with_reducible apply keeps_ite | split)
theorem execTallyRemoteProbe_keeps {s0 : State} (cell : Nat) (s : State) (h_s : Keeps s0 s) : KeepsOut s0 (execTallyRemoteProbe cell s) := by
  unfold execTallyRemoteProbe
  repeat' (first | with_reducible assumption | (extract_lets +onlyGivenNames zz; first | (refine (fun (hx : Keeps s0 zz) => ?_) ?_ <;> [(clear_value zz; revert zz; intro _ _); subst zz]) | (refine (fun (hx : KeepsP s0 zz) => ?_) ?_ <;> [(clear_value zz; revert zz; intro _ _); subst zz]) | (refine (fun (hx : KeepsQ s0 zz) => ?_) ?_ <;> [(clear_value zz; revert zz; intro _ _); subst zz]) | (refine (fun (hx : KeepsO s0 zz) => ?_) ?_ <;> [(clear_value zz; revert zz; intro _ _); subst zz]) | (refine (fun (hx : KeepsE s0 zz) => ?_) ?_ <;> [(clear_value zz; revert zz; intro _ _); subst zz]) | (refine (fun (hx : Keeps s0 (Issue.s zz)) => ?_) ?_ <;> [(clear_value zz; revert zz; intro _ _); subst zz]) | (refine (fun (hx : Keeps s0 (StackRead.st zz)) => ?_) ?_ <;> [(clear_value zz; revert zz; intro _ _); subst zz]) | (refine (fun (hx : ∀ t, Keeps s0 t → Keeps s0 (zz t)) => ?_) ?_ <;> [(clear_value zz; revert zz; intro _ _); (subst zz; intro t ht; beta_reduce)]) | (refine (fun (hx : ∀ t, Keeps s0 (zz t)) => ?_) ?_ <;> [(clear_value zz; revert zz; intro _ _); (subst zz; intro t; beta_reduce)]) | (refine (fun (_ : Security) => ?_) zz; subst zz) | (clear_value zz; revert zz; intro _)) | with_reducible apply done_keeps | with_reducible apply sendMsg_keeps | with_reducible apply remoteWaitLost_keeps | with_reducible apply keeps_ite | with_reducible apply keepsOut_ite | split)
theorem execTallyProbeTimeout_keeps {s0 : State} (cell : Nat) (_reason : ProbeEnd) (s : State) (h_s : Keeps s0 s) : KeepsOut s0 (execTallyProbeTimeout cell _reason s) := by
  unfold execTallyProbeTimeout
  repeat' (first | with_reducible assumption | with_reducible apply done_keeps | with_reducible apply remoteWaitLost_keeps)
theorem answerProbe_keeps {s0 : State} (s : State) (id : Nat) (src : Nat) (tag : Nat) (h_s : Keeps s0 s) : Keeps s0 (answerProbe s id src tag) := by
  unfold answerProbe
  repeat' (first | with_reducible assumption | with_reducible apply sendMsg_keeps | with_reducible apply keeps_ite | with_reducible apply keepsP_ite | with_reducible apply keepsQ_ite | split)
theorem dropWaiter_keeps {s0 : State} (s : State) (id : Nat) (src : Nat) (tag : Nat) (h_s : Keeps s0 s) : Keeps s0 (dropWaiter s id src tag) := by
  unfold dropWaiter
  repeat' (first | with_reducible assumption | (extract_lets +onlyGivenNames zz; first | (clear_value zz; revert zz; intro _)) | with_reducible apply hloc | with_reducible apply modTally_keeps | with_reducible apply keeps_ite | with_reducible apply keepsP_ite | with_reducible apply keepsQ_ite | split)
theorem execTallyHomeWaiterExpire_keeps {s0 : State} (pc : Nat) (s : State) (h_s : Keeps s0 s) : KeepsOut s0 (execTallyHomeWaiterExpire pc s) := by
  unfold execTallyHomeWaiterExpire
  repeat' (first | with_reducible assumption | (extract_lets +onlyGivenNames zz; first | (clear_value zz; revert zz; intro _)) | with_reducible apply done_keeps | with_reducible apply keeps_ite | with_reducible apply keepsOut_ite | split | with_reducible apply keepsOut_next | with_reducible apply keeps_fst (by assumption) | with_reducible apply keeps_snd (by assumption) | with_reducible apply keeps_some (by assumption) | with_reducible apply keeps_okE (by assumption) | with_reducible apply KeepsP_fst | with_reducible apply KeepsQ_snd | fail_if_no_progress with_reducible refine keeps_mk rfl rfl rfl rfl ?_)

end Sys2Proof.Machine
end

