-- ==== Sys2Proof/Laws/KeepsServices.lean ====
section
/-!
SUPPORT. What the operations of Machine/Services keep (see Laws/Keeps).
-/
namespace Sys2Proof.Machine
open Sys2Proof

theorem raddAt_keeps {s0 : State} (s : State) (slot : Nat) (region : Nat) (n : Nat) (off : Nat) (t : Tile) (h_s : Keeps s0 s) : Keeps s0 (raddAt s slot region n off t) := by
  unfold raddAt
  repeat' (first | with_reducible assumption | (extract_lets +onlyGivenNames zz; first | (refine (fun (hx : Keeps s0 zz) => ?_) ?_ <;> [(clear_value zz; revert zz; intro _ _); subst zz])) | with_reducible apply report_keeps | with_reducible apply setSlot_keeps | with_reducible apply stkEvent_keeps | with_reducible apply stackTile_keeps | with_reducible apply stackPutTile_keeps | with_reducible apply keeps_ite | split | with_reducible apply keeps_fst (by assumption))
theorem gatherAt_keeps {s0 : State} (s : State) (n : Nat) (off : Nat) (d : Desc) (offs : List Nat) (h_s : Keeps s0 s) : KeepsP s0 (gatherAt s n off d offs) := by
  unfold gatherAt
  repeat' (first | with_reducible assumption | (extract_lets +onlyGivenNames zz; first | (refine (fun (hx : Keeps s0 (StackRead.st zz)) => ?_) ?_ <;> [(clear_value zz; revert zz; intro _ _); subst zz])) | with_reducible apply stackRead_keeps | with_reducible apply keeps_ite | with_reducible apply keepsP_ite | (with_reducible refine keeps_foldl ?_ (fun _ _ _ => ?_) <;> beta_reduce) | (with_reducible refine keepsP_foldl ?_ (fun _ _ _ => ?_) <;> beta_reduce) | split | with_reducible apply keepsP_mk | with_reducible apply keeps_fst (by assumption) | with_reducible apply keeps_snd (by assumption) | with_reducible apply keeps_some (by assumption) | with_reducible apply keeps_okE (by assumption) | with_reducible apply KeepsP_fst)
theorem scatterAt_keeps {s0 : State} (s : State) (n : Nat) (off : Nat) (d : Desc) (offs : List Nat) (t : Tile) (h_s : Keeps s0 s) : Keeps s0 (scatterAt s n off d offs t) := by
  unfold scatterAt
  repeat' (first | with_reducible assumption | (extract_lets +onlyGivenNames zz; first | (refine (fun (hx : Keeps s0 (StackRead.st zz)) => ?_) ?_ <;> [(clear_value zz; revert zz; intro _ _); subst zz]) | (clear_value zz; revert zz; intro _)) | with_reducible apply modStack_keeps | with_reducible apply stackRead_keeps | with_reducible apply keeps_ite | with_reducible apply keepsP_ite | with_reducible apply keepsQ_ite | (with_reducible refine keeps_foldl ?_ (fun _ _ _ => ?_) <;> beta_reduce) | (with_reducible refine keepsP_foldl ?_ (fun _ _ _ => ?_) <;> beta_reduce) | split | (refine fun _ k hk => ?_; first | with_reducible exact hk | with_reducible exact Mem.store_wf _ _ hk | with_reducible exact Mem.writeSlot_wf _ _ hk | with_reducible exact Mem.wipe_wf _ _ hk | exact Mem.poisonWord_wf _ (Mem.store_wf _ _ hk)))

end Sys2Proof.Machine
end

