-- ==== Sys2Proof/Laws/KeepsStream.lean ====
section
/-!
SUPPORT. What the operations of Machine/Stream keep (see Laws/Keeps).
-/
namespace Sys2Proof.Machine
open Sys2Proof

theorem dlqAdd_keeps {s0 : State} (s : State) (d : Nat) (reason : Nat) (cell : Nat) (consumer : List Byte) (t : Tile) (h_s : Keeps s0 s) : Keeps s0 (dlqAdd s d reason cell consumer t) := by
  unfold dlqAdd
  repeat' (first | with_reducible assumption | (extract_lets +onlyGivenNames zz; first | (refine (fun (hx : Keeps s0 zz) => ?_) ?_ <;> [(clear_value zz; revert zz; intro _ _); subst zz]) | (clear_value zz; revert zz; intro _)) | with_reducible apply bumpFldAt_keeps | with_reducible apply satFldAt_keeps | with_reducible apply report_keeps | with_reducible apply setEventAt_keeps | with_reducible apply keeps_ite | split | with_reducible apply keeps_fst (by assumption) | with_reducible apply keeps_snd (by assumption) | with_reducible apply keeps_some (by assumption) | with_reducible apply keeps_okE (by assumption) | with_reducible apply KeepsP_fst | with_reducible apply KeepsQ_snd | fail_if_no_progress with_reducible refine keeps_mk rfl rfl rfl rfl ?_ | fail_if_no_progress with_reducible refine keeps_mkDies rfl rfl rfl (fun _ => rfl) ?_)
theorem hopCounts_keeps {s0 : State} (s : State) (h : HopInfo) (h_s : Keeps s0 s) : Keeps s0 (hopCounts s h) := by
  unfold hopCounts
  repeat' (first | with_reducible assumption | (extract_lets +onlyGivenNames zz; first | (refine (fun (hx : Keeps s0 zz) => ?_) ?_ <;> [(clear_value zz; revert zz; intro _ _); subst zz])) | with_reducible apply bumpEv_keeps | with_reducible apply keeps_ite | with_reducible apply keepsP_ite | with_reducible apply keepsQ_ite | split)
theorem modEnd_keeps {s0 : State} (s : State) (slot : Nat) (si : Nat) (ci : Nat) (f : ConsEnd → ConsEnd) (h_s : Keeps s0 s) : Keeps s0 (modEnd s slot si ci f) := by
  unfold modEnd
  repeat' (first | with_reducible assumption | with_reducible apply modStream_keeps)
theorem enqueue_keeps {s0 : State} (s : State) (slot : Nat) (si : Nat) (ci : Nat) (t : Tile) (h_s : Keeps s0 s) : Keeps s0 (enqueue s slot si ci t) := by
  unfold enqueue
  repeat' (first | with_reducible assumption | with_reducible apply modEnd_keeps)
theorem completion_keeps {s0 : State} (s : State) (slot : Nat) (idx : Nat) (order : Nat) (r : StreamRec) (t : Tile) (h_s : Keeps s0 s) : Keeps s0 (completion s slot idx order r t) := by
  unfold completion
  repeat' (first | with_reducible assumption | (extract_lets +onlyGivenNames zz; first | (clear_value zz; revert zz; intro _)) | with_reducible apply frameComplete_keeps | with_reducible apply epochEnd_keeps | with_reducible apply keeps_ite | split)
theorem launch_keeps {s0 : State} (s : State) (slot : Nat) (si : Nat) (t : Tile) (h_s : Keeps s0 s) : Keeps s0 (launch s slot si t) := by
  unfold launch
  repeat' (first | with_reducible assumption | with_reducible apply modStream_keeps)
theorem raiseKey_keeps {s0 : State} (s : State) (slot : Nat) (h_s : Keeps s0 s) : Keeps s0 (raiseKey s slot) := by
  unfold raiseKey
  repeat' (first | with_reducible assumption | with_reducible apply modBundle_keeps)
theorem keepRecord_keeps {s0 : State} (s : State) (slot : Nat) (si : Nat) (h_s : Keeps s0 s) : Keeps s0 (keepRecord s slot si) := by
  unfold keepRecord
  repeat' (first | with_reducible assumption | with_reducible apply modBundle_keeps)
theorem deltaClose_keeps {s0 : State} (s : State) (slot : Nat) (si : Nat) (h_s : Keeps s0 s) : Keeps s0 (deltaClose s slot si) := by
  unfold deltaClose
  repeat' (first | with_reducible assumption | (extract_lets +onlyGivenNames zz; first | (refine (fun (hx : Keeps s0 zz) => ?_) ?_ <;> [(clear_value zz; revert zz; intro _ _); subst zz]) | (clear_value zz; revert zz; intro _)) | with_reducible apply report_keeps | with_reducible apply modStream_keeps | with_reducible apply setEvent_keeps | with_reducible apply raiseKey_keeps | with_reducible apply keepRecord_keeps | with_reducible apply keeps_ite | split)
theorem deltaView_keeps {s0 : State} (s : State) (slot si : Nat) (t : Tile) {v : DeltaView} (e : deltaView s slot si t = some v)
    (h_s : Keeps s0 s) : Keeps s0 v.st := by
  unfold deltaView at e
  split at e
  · cases e
  · split at e
    · dsimp only at e
      cases e
      split
      · exact stackTile_keeps _ _ _ (openRows_keeps _ _ _ _ h_s)
      · exact h_s
    · cases e
theorem deltaApply_keeps {s0 : State} (v : DeltaView) (slot : Nat) (si : Nat) (t : Tile) (sent : Bool) (h_v : Keeps s0 v.st) : Keeps s0 (deltaApply v slot si t sent) := by
  unfold deltaApply
  repeat' (first | with_reducible assumption | (extract_lets +onlyGivenNames zz; first | (refine (fun (hx : Keeps s0 zz) => ?_) ?_ <;> [(clear_value zz; revert zz; intro _ _); subst zz]) | (clear_value zz; revert zz; intro _)) | with_reducible apply modStream_keeps | with_reducible apply stackPutTile_keeps | with_reducible apply deltaClose_keeps | with_reducible apply keeps_ite | split)

end Sys2Proof.Machine
end

