-- ==== Sys2Proof/Laws/KeepsBlock.lean ====
section
/-!
SUPPORT. What the operations of Machine/Block keep (see Laws/Keeps).
-/
namespace Sys2Proof.Machine
open Sys2Proof

theorem workEvent_keeps {s0 : State} (s : State) (cell : Nat) (code : Nat) (ctx : EvCtx) (n : Nat) (h_s : Keeps s0 s) : Keeps s0 (workEvent s cell code ctx n) := by
  unfold workEvent
  repeat' (first | with_reducible assumption | with_reducible apply bumpEv_keeps)
theorem arithEvents_keeps {s0 : State} (s : State) (cell : Nat) (ctx : EvCtx) (c : Cnt) (h_s : Keeps s0 s) : Keeps s0 (arithEvents s cell ctx c) := by
  unfold arithEvents
  repeat' (first | with_reducible assumption | with_reducible apply workEvent_keeps | with_reducible apply keeps_ite | (with_reducible refine keeps_foldl ?_ (fun _ _ _ => ?_) <;> beta_reduce))
theorem blockFinish_keeps {s0 : State} (s : State) (w : Where) (op : BlockOp) (lat : Option Nat) (h_s : Keeps s0 s) : Keeps s0 (blockFinish s w op lat) := by
  unfold blockFinish
  repeat' (first | with_reducible assumption | (extract_lets +onlyGivenNames zz; first | (refine (fun (hx : Keeps s0 zz) => ?_) ?_ <;> [(clear_value zz; revert zz; intro _ _); subst zz]) | (clear_value zz; revert zz; intro _)) | with_reducible apply modStation_keeps | with_reducible apply workEvent_keeps | with_reducible apply arithEvents_keeps)
theorem execBlockInstructionComplete_keeps {s0 : State} (cell : Nat) (tensor : Bool) (latencyNs : Nat) (s : State) (h_s : Keeps s0 s) : KeepsOut s0 (execBlockInstructionComplete cell tensor latencyNs s) := by
  unfold execBlockInstructionComplete
  repeat' (first | with_reducible assumption | (extract_lets +onlyGivenNames zz; first | (refine (fun (hx : Keeps s0 zz) => ?_) ?_ <;> [(clear_value zz; revert zz; intro _ _); subst zz]) | (refine (fun (hx : KeepsP s0 zz) => ?_) ?_ <;> [(clear_value zz; revert zz; intro _ _); subst zz]) | (refine (fun (hx : KeepsQ s0 zz) => ?_) ?_ <;> [(clear_value zz; revert zz; intro _ _); subst zz]) | (refine (fun (hx : KeepsO s0 zz) => ?_) ?_ <;> [(clear_value zz; revert zz; intro _ _); subst zz]) | (refine (fun (hx : KeepsE s0 zz) => ?_) ?_ <;> [(clear_value zz; revert zz; intro _ _); subst zz]) | (refine (fun (hx : Keeps s0 (Issue.s zz)) => ?_) ?_ <;> [(clear_value zz; revert zz; intro _ _); subst zz]) | (refine (fun (hx : Keeps s0 (StackRead.st zz)) => ?_) ?_ <;> [(clear_value zz; revert zz; intro _ _); subst zz]) | (refine (fun (hx : ∀ t, Keeps s0 t → Keeps s0 (zz t)) => ?_) ?_ <;> [(clear_value zz; revert zz; intro _ _); (subst zz; intro t ht; beta_reduce)]) | (refine (fun (hx : ∀ t, Keeps s0 (zz t)) => ?_) ?_ <;> [(clear_value zz; revert zz; intro _ _); (subst zz; intro t; beta_reduce)]) | (refine (fun (_ : Security) => ?_) zz; subst zz) | (clear_value zz; revert zz; intro _)) | with_reducible apply done_keeps | with_reducible apply blockFinish_keeps | with_reducible apply keeps_ite | with_reducible apply keepsOut_ite | split)

end Sys2Proof.Machine
end

