-- ==== Sys2Proof/Laws/KeepsColl.lean ====
section
/-!
SUPPORT. What the operations of Machine/Coll keep (see Laws/Keeps).
-/
namespace Sys2Proof.Machine
open Sys2Proof

theorem modColl_keeps {s0 : State} (s : State) (slot : Nat) (si : Nat) (f : Coll → Coll) (h_s : Keeps s0 s) : Keeps s0 (modColl s slot si f) := by
  unfold modColl
  repeat' (first | with_reducible assumption | with_reducible apply modStream_keeps)
theorem collAbort_keeps {s0 : State} (s : State) (slot : Nat) (si : Nat) (cause : Nat) (h_s : Keeps s0 s) : Keeps s0 (collAbort s slot si cause) := by
  unfold collAbort
  repeat' (first | with_reducible assumption | (extract_lets +onlyGivenNames zz; first | (refine (fun (hx : Keeps s0 zz) => ?_) ?_ <;> [(clear_value zz; revert zz; intro _ _); subst zz])) | with_reducible apply setEvent_keeps | with_reducible apply queueFlits_keeps | with_reducible apply faultWith_keeps | with_reducible apply modColl_keeps | with_reducible apply keeps_ite | with_reducible apply keepsP_ite | with_reducible apply keepsQ_ite | (with_reducible refine keeps_foldl ?_ (fun _ _ _ => ?_) <;> beta_reduce) | (with_reducible refine keepsP_foldl ?_ (fun _ _ _ => ?_) <;> beta_reduce) | split)
theorem sendTransfer_keeps {s0 : State} (v : CollView) (step : Nat) (key : Nat) (dest : Nat) (resend : Bool) (s : State) (e : Nat × Nat) (h_s : Keeps s0 s) : Keeps s0 (sendTransfer v step key dest resend s e) := by
  unfold sendTransfer
  repeat' (first | with_reducible assumption | (extract_lets +onlyGivenNames zz; first | (clear_value zz; revert zz; intro _)) | with_reducible apply queueFlits_keeps | with_reducible apply stackTile_keeps | with_reducible apply openRows_keeps | with_reducible apply keeps_ite | with_reducible apply keepsP_ite | with_reducible apply keepsQ_ite | split | with_reducible apply keepsP_mk | with_reducible apply keepsQ_mk | with_reducible apply keeps_fst (by assumption) | with_reducible apply keeps_snd (by assumption) | with_reducible apply keeps_some (by assumption) | with_reducible apply keeps_okE (by assumption) | with_reducible apply KeepsP_fst)
theorem sendStep_keeps {s0 : State} (s : State) (slot : Nat) (si : Nat) (resend : Bool) (skip : Option Nat) (h_s : Keeps s0 s) : Keeps s0 (sendStep s slot si resend skip) := by
  unfold sendStep
  repeat' (first | with_reducible assumption | (extract_lets +onlyGivenNames zz; first | (refine (fun (hx : Keeps s0 zz) => ?_) ?_ <;> [(clear_value zz; revert zz; intro _ _); subst zz]) | (clear_value zz; revert zz; intro _)) | with_reducible apply report_keeps | with_reducible apply bumpEv_keeps | with_reducible apply setEvent_keeps | with_reducible apply countAlt_keeps | with_reducible apply modColl_keeps | with_reducible apply collAbort_keeps | with_reducible apply sendTransfer_keeps | with_reducible apply keeps_ite | (with_reducible refine keeps_foldl ?_ (fun _ _ _ => ?_) <;> beta_reduce) | (with_reducible refine keepsP_foldl ?_ (fun _ _ _ => ?_) <;> beta_reduce) | split)
theorem collDeliver_keeps {s0 : State} (s : State) (slot : Nat) (si : Nat) (h_s : Keeps s0 s) : Keeps s0 (collDeliver s slot si) := by
  unfold collDeliver
  repeat' (first | with_reducible assumption | (extract_lets +onlyGivenNames zz; first | (refine (fun (hx : Keeps s0 zz) => ?_) ?_ <;> [(clear_value zz; revert zz; intro _ _); subst zz]) | (clear_value zz; revert zz; intro _)) | with_reducible apply modStream_keeps | with_reducible apply stackTile_keeps | with_reducible apply openRows_keeps | with_reducible apply modColl_keeps | with_reducible apply keeps_ite | with_reducible apply keepsP_ite | with_reducible apply keepsQ_ite | (with_reducible refine keeps_foldl ?_ (fun _ _ _ => ?_) <;> beta_reduce) | (with_reducible refine keepsP_foldl ?_ (fun _ _ _ => ?_) <;> beta_reduce) | split | with_reducible apply keepsP_mk | with_reducible apply keepsQ_mk | with_reducible apply keeps_fst (by assumption) | with_reducible apply keeps_snd (by assumption) | with_reducible apply keeps_some (by assumption) | with_reducible apply keeps_okE (by assumption) | with_reducible apply KeepsP_fst)
theorem collAdvance_keeps {s0 : State} (a1 : Nat) (a2 : State) (a3 : Nat) (a4 : Nat) (h_a2 : Keeps s0 a2) : Keeps s0 (collAdvance a1 a2 a3 a4) := by
  induction a1 generalizing a2 a3 a4 with
  | zero =>
    unfold collAdvance
    repeat' (first | with_reducible assumption | (extract_lets +onlyGivenNames zz; first | (refine (fun (hx : Keeps s0 zz) => ?_) ?_ <;> [(clear_value zz; revert zz; intro _ _); subst zz]) | (refine (fun (hx : KeepsP s0 zz) => ?_) ?_ <;> [(clear_value zz; revert zz; intro _ _); subst zz]) | (refine (fun (hx : KeepsQ s0 zz) => ?_) ?_ <;> [(clear_value zz; revert zz; intro _ _); subst zz]) | (refine (fun (hx : KeepsO s0 zz) => ?_) ?_ <;> [(clear_value zz; revert zz; intro _ _); subst zz]) | (refine (fun (hx : KeepsE s0 zz) => ?_) ?_ <;> [(clear_value zz; revert zz; intro _ _); subst zz]) | (refine (fun (hx : Keeps s0 (Issue.s zz)) => ?_) ?_ <;> [(clear_value zz; revert zz; intro _ _); subst zz]) | (refine (fun (hx : Keeps s0 (StackRead.st zz)) => ?_) ?_ <;> [(clear_value zz; revert zz; intro _ _); subst zz]) | (refine (fun (hx : Keeps s0 (DeltaView.st zz)) => ?_) ?_ <;> [(clear_value zz; revert zz; intro _ _); subst zz]) | (refine (fun (hx : ∀ t, Keeps s0 t → Keeps s0 (zz t)) => ?_) ?_ <;> [(clear_value zz; revert zz; intro _ hloc); (subst zz; intro t ht; beta_reduce)]) | (refine (fun (hx : ∀ t u, Keeps s0 t → Keeps s0 (zz t u)) => ?_) ?_ <;> [(clear_value zz; revert zz; intro _ hloc); (subst zz; intro t u ht; beta_reduce)]) | (refine (fun (hx : ∀ t, Keeps s0 (zz t)) => ?_) ?_ <;> [(clear_value zz; revert zz; intro _ hloc); (subst zz; intro t; beta_reduce)]) | (refine (fun (hx : ∀ t u, Keeps s0 (zz t u)) => ?_) ?_ <;> [(clear_value zz; revert zz; intro _ hloc); (subst zz; intro t u; beta_reduce)]) | (refine (fun (hx : ∀ t u v, Keeps s0 t → Keeps s0 (zz t u v)) => ?_) ?_ <;> [(clear_value zz; revert zz; intro _ hloc); (subst zz; intro t u v ht; beta_reduce)]) | (refine (fun (hx : ∀ t u v w, Keeps s0 t → Keeps s0 (zz t u v w)) => ?_) ?_ <;> [(clear_value zz; revert zz; intro _ hloc); (subst zz; intro t u v w ht; beta_reduce)]) | (refine (fun (_ : Security) => ?_) zz; subst zz) | (clear_value zz; revert zz; intro _)) | with_reducible apply modColl_keeps | with_reducible apply sendStep_keeps | with_reducible apply collDeliver_keeps | with_reducible apply keeps_ite | with_reducible apply keepsP_ite | with_reducible apply keepsQ_ite | split | with_reducible apply keepsP_mk | with_reducible apply keepsQ_mk | with_reducible apply keeps_fst (by assumption) | with_reducible apply keeps_snd (by assumption) | with_reducible apply keeps_some (by assumption) | with_reducible apply keeps_okE (by assumption) | with_reducible apply KeepsP_fst | with_reducible apply KeepsQ_snd | fail_if_no_progress with_reducible refine keeps_mk rfl rfl rfl rfl ?_)
  | succ n ih =>
    unfold collAdvance
    repeat' (first | with_reducible assumption | with_reducible apply ih | (extract_lets +onlyGivenNames zz; first | (refine (fun (hx : Keeps s0 zz) => ?_) ?_ <;> [(clear_value zz; revert zz; intro _ _); subst zz]) | (refine (fun (hx : KeepsP s0 zz) => ?_) ?_ <;> [(clear_value zz; revert zz; intro _ _); subst zz]) | (refine (fun (hx : KeepsQ s0 zz) => ?_) ?_ <;> [(clear_value zz; revert zz; intro _ _); subst zz]) | (refine (fun (hx : KeepsO s0 zz) => ?_) ?_ <;> [(clear_value zz; revert zz; intro _ _); subst zz]) | (refine (fun (hx : KeepsE s0 zz) => ?_) ?_ <;> [(clear_value zz; revert zz; intro _ _); subst zz]) | (refine (fun (hx : Keeps s0 (Issue.s zz)) => ?_) ?_ <;> [(clear_value zz; revert zz; intro _ _); subst zz]) | (refine (fun (hx : Keeps s0 (StackRead.st zz)) => ?_) ?_ <;> [(clear_value zz; revert zz; intro _ _); subst zz]) | (refine (fun (hx : Keeps s0 (DeltaView.st zz)) => ?_) ?_ <;> [(clear_value zz; revert zz; intro _ _); subst zz]) | (refine (fun (hx : ∀ t, Keeps s0 t → Keeps s0 (zz t)) => ?_) ?_ <;> [(clear_value zz; revert zz; intro _ hloc); (subst zz; intro t ht; beta_reduce)]) | (refine (fun (hx : ∀ t u, Keeps s0 t → Keeps s0 (zz t u)) => ?_) ?_ <;> [(clear_value zz; revert zz; intro _ hloc); (subst zz; intro t u ht; beta_reduce)]) | (refine (fun (hx : ∀ t, Keeps s0 (zz t)) => ?_) ?_ <;> [(clear_value zz; revert zz; intro _ hloc); (subst zz; intro t; beta_reduce)]) | (refine (fun (hx : ∀ t u, Keeps s0 (zz t u)) => ?_) ?_ <;> [(clear_value zz; revert zz; intro _ hloc); (subst zz; intro t u; beta_reduce)]) | (refine (fun (hx : ∀ t u v, Keeps s0 t → Keeps s0 (zz t u v)) => ?_) ?_ <;> [(clear_value zz; revert zz; intro _ hloc); (subst zz; intro t u v ht; beta_reduce)]) | (refine (fun (hx : ∀ t u v w, Keeps s0 t → Keeps s0 (zz t u v w)) => ?_) ?_ <;> [(clear_value zz; revert zz; intro _ hloc); (subst zz; intro t u v w ht; beta_reduce)]) | (refine (fun (_ : Security) => ?_) zz; subst zz) | (clear_value zz; revert zz; intro _)) | with_reducible apply modColl_keeps | with_reducible apply sendStep_keeps | with_reducible apply collDeliver_keeps | with_reducible apply keeps_ite | with_reducible apply keepsP_ite | with_reducible apply keepsQ_ite | split | with_reducible apply keepsP_mk | with_reducible apply keepsQ_mk | with_reducible apply keeps_fst (by assumption) | with_reducible apply keeps_snd (by assumption) | with_reducible apply keeps_some (by assumption) | with_reducible apply keeps_okE (by assumption) | with_reducible apply KeepsP_fst | with_reducible apply KeepsQ_snd | fail_if_no_progress with_reducible refine keeps_mk rfl rfl rfl rfl ?_)
theorem collStart_keeps {s0 : State} (s : State) (slot : Nat) (si : Nat) (h_s : Keeps s0 s) : Keeps s0 (collStart s slot si) := by
  unfold collStart
  repeat' (first | with_reducible assumption | (extract_lets +onlyGivenNames zz; first | (refine (fun (hx : Keeps s0 zz) => ?_) ?_ <;> [(clear_value zz; revert zz; intro _ _); subst zz])) | with_reducible apply modColl_keeps | with_reducible apply collAbort_keeps | with_reducible apply sendStep_keeps | with_reducible apply collAdvance_keeps | with_reducible apply keeps_ite | split)
theorem collStage_keeps {s0 : State} (s : State) (slot : Nat) (si : Nat) (t : Tile) (h_s : Keeps s0 s) : Keeps s0 (collStage s slot si t) := by
  unfold collStage
  repeat' (first | with_reducible assumption | (extract_lets +onlyGivenNames zz; first | (refine (fun (hx : Keeps s0 zz) => ?_) ?_ <;> [(clear_value zz; revert zz; intro _ _); subst zz]) | (clear_value zz; revert zz; intro _)) | with_reducible apply stackPutTile_keeps | with_reducible apply openRows_keeps | with_reducible apply modColl_keeps | with_reducible apply collStart_keeps | with_reducible apply keeps_ite | with_reducible apply keepsP_ite | with_reducible apply keepsQ_ite | split)
theorem collPost_keeps {s0 : State} (s : State) (slot : Nat) (si : Nat) (t : Tile) (h_s : Keeps s0 s) : Keeps s0 (collPost s slot si t) := by
  unfold collPost
  repeat' (first | with_reducible assumption | with_reducible apply modColl_keeps | with_reducible apply collStage_keeps)
theorem sendAck_keeps {s0 : State} (s : State) (v : CollView) (step : Nat) (h_s : Keeps s0 s) : Keeps s0 (sendAck s v step) := by
  unfold sendAck
  repeat' (first | with_reducible assumption | with_reducible apply sendMsg_keeps)
theorem transferApply_keeps {s0 : State} (s : State) (slot : Nat) (si : Nat) (v : CollView) (t : Tile) (h_s : Keeps s0 s) : Keeps s0 (transferApply s slot si v t) := by
  unfold transferApply
  repeat' (first | with_reducible assumption | (extract_lets +onlyGivenNames zz; first | (refine (fun (hx : Keeps s0 zz) => ?_) ?_ <;> [(clear_value zz; revert zz; intro _ _); subst zz]) | (clear_value zz; revert zz; intro _)) | with_reducible apply bumpEv_keeps | with_reducible apply stackPutTile_keeps | with_reducible apply openRows_keeps | with_reducible apply raddAt_keeps | with_reducible apply modColl_keeps | with_reducible apply collAdvance_keeps | with_reducible apply sendAck_keeps | with_reducible apply keeps_ite | with_reducible apply keepsP_ite | with_reducible apply keepsQ_ite | split)
theorem collUnblock_keeps {s0 : State} (s : State) (h_s : Keeps s0 s) : Keeps s0 (collUnblock s) := by
  unfold collUnblock
  repeat' (first | with_reducible assumption | (extract_lets +onlyGivenNames zz; first | (refine (fun (hx : Keeps s0 zz) => ?_) ?_ <;> [(clear_value zz; revert zz; intro _ _); subst zz]) | (refine (fun (hx : KeepsP s0 zz) => ?_) ?_ <;> [(clear_value zz; revert zz; intro _ _); subst zz]) | (refine (fun (hx : KeepsQ s0 zz) => ?_) ?_ <;> [(clear_value zz; revert zz; intro _ _); subst zz]) | (refine (fun (hx : KeepsO s0 zz) => ?_) ?_ <;> [(clear_value zz; revert zz; intro _ _); subst zz]) | (refine (fun (hx : KeepsE s0 zz) => ?_) ?_ <;> [(clear_value zz; revert zz; intro _ _); subst zz]) | (refine (fun (hx : Keeps s0 (Issue.s zz)) => ?_) ?_ <;> [(clear_value zz; revert zz; intro _ _); subst zz]) | (refine (fun (hx : Keeps s0 (StackRead.st zz)) => ?_) ?_ <;> [(clear_value zz; revert zz; intro _ _); subst zz]) | (refine (fun (hx : ∀ t, Keeps s0 t → Keeps s0 (zz t)) => ?_) ?_ <;> [(clear_value zz; revert zz; intro _ hloc); (subst zz; intro t ht; beta_reduce)]) | (refine (fun (hx : ∀ t u, Keeps s0 t → Keeps s0 (zz t u)) => ?_) ?_ <;> [(clear_value zz; revert zz; intro _ hloc); (subst zz; intro t u ht; beta_reduce)]) | (refine (fun (hx : ∀ t, Keeps s0 (zz t)) => ?_) ?_ <;> [(clear_value zz; revert zz; intro _ hloc); (subst zz; intro t; beta_reduce)]) | (refine (fun (hx : ∀ t u, Keeps s0 (zz t u)) => ?_) ?_ <;> [(clear_value zz; revert zz; intro _ hloc); (subst zz; intro t u; beta_reduce)]) | (refine (fun (hx : ∀ t u v, Keeps s0 t → Keeps s0 (zz t u v)) => ?_) ?_ <;> [(clear_value zz; revert zz; intro _ hloc); (subst zz; intro t u v ht; beta_reduce)]) | (refine (fun (hx : ∀ t u v w, Keeps s0 t → Keeps s0 (zz t u v w)) => ?_) ?_ <;> [(clear_value zz; revert zz; intro _ hloc); (subst zz; intro t u v w ht; beta_reduce)]) | (refine (fun (_ : Security) => ?_) zz; subst zz) | (clear_value zz; revert zz; intro _)) | with_reducible apply sendStep_keeps | with_reducible apply keeps_ite | with_reducible apply keepsP_ite | with_reducible apply keepsQ_ite | (with_reducible refine keeps_foldl ?_ (fun _ _ _ => ?_) <;> beta_reduce) | (with_reducible refine keepsP_foldl ?_ (fun _ _ _ => ?_) <;> beta_reduce) | split)
theorem ackApply_keeps {s0 : State} (s : State) (slot : Nat) (si : Nat) (step : Nat) (h_s : Keeps s0 s) : Keeps s0 (ackApply s slot si step) := by
  unfold ackApply
  repeat' (first | with_reducible assumption | (extract_lets +onlyGivenNames zz; first | (refine (fun (hx : Keeps s0 zz) => ?_) ?_ <;> [(clear_value zz; revert zz; intro _ _); subst zz]) | (refine (fun (hx : KeepsP s0 zz) => ?_) ?_ <;> [(clear_value zz; revert zz; intro _ _); subst zz]) | (refine (fun (hx : KeepsQ s0 zz) => ?_) ?_ <;> [(clear_value zz; revert zz; intro _ _); subst zz]) | (refine (fun (hx : KeepsO s0 zz) => ?_) ?_ <;> [(clear_value zz; revert zz; intro _ _); subst zz]) | (refine (fun (hx : KeepsE s0 zz) => ?_) ?_ <;> [(clear_value zz; revert zz; intro _ _); subst zz]) | (refine (fun (hx : Keeps s0 (Issue.s zz)) => ?_) ?_ <;> [(clear_value zz; revert zz; intro _ _); subst zz]) | (refine (fun (hx : Keeps s0 (StackRead.st zz)) => ?_) ?_ <;> [(clear_value zz; revert zz; intro _ _); subst zz]) | (refine (fun (hx : ∀ t, Keeps s0 t → Keeps s0 (zz t)) => ?_) ?_ <;> [(clear_value zz; revert zz; intro _ _); (subst zz; intro t ht; beta_reduce)]) | (refine (fun (hx : ∀ t, Keeps s0 (zz t)) => ?_) ?_ <;> [(clear_value zz; revert zz; intro _ _); (subst zz; intro t; beta_reduce)]) | (refine (fun (_ : Security) => ?_) zz; subst zz) | (clear_value zz; revert zz; intro _)) | with_reducible apply modColl_keeps | with_reducible apply collAdvance_keeps | with_reducible apply keeps_ite | split)

end Sys2Proof.Machine
end

