-- ==== Sys2Proof/Laws/KeepsSpec.lean ====
section
/-!
SUPPORT. What the operations of Machine/Spec keep (see Laws/Keeps).
-/
namespace Sys2Proof.Machine
open Sys2Proof

theorem launchHeld_keeps {s0 : State} (a1 : Nat) (a2 : State) (a3 : Nat) (a4 : Nat) (h_a2 : Keeps s0 a2) : Keeps s0 (launchHeld a1 a2 a3 a4) := by
  induction a1 generalizing a2 a3 a4 with
  | zero =>
    unfold launchHeld
    repeat' (first | with_reducible assumption | (extract_lets +onlyGivenNames zz; first | (refine (fun (hx : Keeps s0 zz) => ?_) ?_ <;> [(clear_value zz; revert zz; intro _ _); subst zz]) | (refine (fun (hx : KeepsP s0 zz) => ?_) ?_ <;> [(clear_value zz; revert zz; intro _ _); subst zz]) | (refine (fun (hx : KeepsQ s0 zz) => ?_) ?_ <;> [(clear_value zz; revert zz; intro _ _); subst zz]) | (refine (fun (hx : KeepsO s0 zz) => ?_) ?_ <;> [(clear_value zz; revert zz; intro _ _); subst zz]) | (refine (fun (hx : KeepsE s0 zz) => ?_) ?_ <;> [(clear_value zz; revert zz; intro _ _); subst zz]) | (refine (fun (hx : Keeps s0 (Issue.s zz)) => ?_) ?_ <;> [(clear_value zz; revert zz; intro _ _); subst zz]) | (refine (fun (hx : Keeps s0 (StackRead.st zz)) => ?_) ?_ <;> [(clear_value zz; revert zz; intro _ _); subst zz]) | (refine (fun (hx : Keeps s0 (DeltaView.st zz)) => ?_) ?_ <;> [(clear_value zz; revert zz; intro _ _); subst zz]) | (refine (fun (hx : ∀ t, Keeps s0 t → Keeps s0 (zz t)) => ?_) ?_ <;> [(clear_value zz; revert zz; intro _ hloc); (subst zz; intro t ht; beta_reduce)]) | (refine (fun (hx : ∀ t u, Keeps s0 t → Keeps s0 (zz t u)) => ?_) ?_ <;> [(clear_value zz; revert zz; intro _ hloc); (subst zz; intro t u ht; beta_reduce)]) | (refine (fun (hx : ∀ t, Keeps s0 (zz t)) => ?_) ?_ <;> [(clear_value zz; revert zz; intro _ hloc); (subst zz; intro t; beta_reduce)]) | (refine (fun (hx : ∀ t u, Keeps s0 (zz t u)) => ?_) ?_ <;> [(clear_value zz; revert zz; intro _ hloc); (subst zz; intro t u; beta_reduce)]) | (refine (fun (hx : ∀ t u v, Keeps s0 t → Keeps s0 (zz t u v)) => ?_) ?_ <;> [(clear_value zz; revert zz; intro _ hloc); (subst zz; intro t u v ht; beta_reduce)]) | (refine (fun (hx : ∀ t u v w, Keeps s0 t → Keeps s0 (zz t u v w)) => ?_) ?_ <;> [(clear_value zz; revert zz; intro _ hloc); (subst zz; intro t u v w ht; beta_reduce)]) | (refine (fun (_ : Security) => ?_) zz; subst zz) | (clear_value zz; revert zz; intro _)) | with_reducible apply modStream_keeps | with_reducible apply completion_keeps | with_reducible apply launch_keeps | with_reducible apply collStage_keeps | with_reducible apply keeps_ite | with_reducible apply keepsP_ite | with_reducible apply keepsQ_ite | split | with_reducible apply keepsP_mk | with_reducible apply keepsQ_mk | with_reducible apply keeps_fst (by assumption) | with_reducible apply keeps_snd (by assumption) | with_reducible apply keeps_some (by assumption) | with_reducible apply keeps_okE (by assumption) | with_reducible apply KeepsP_fst | with_reducible apply KeepsQ_snd | fail_if_no_progress with_reducible refine keeps_mk rfl rfl rfl rfl ?_)
  | succ n ih =>
    unfold launchHeld
    repeat' (first | with_reducible assumption | with_reducible apply ih | (extract_lets +onlyGivenNames zz; first | (refine (fun (hx : Keeps s0 zz) => ?_) ?_ <;> [(clear_value zz; revert zz; intro _ _); subst zz]) | (refine (fun (hx : KeepsP s0 zz) => ?_) ?_ <;> [(clear_value zz; revert zz; intro _ _); subst zz]) | (refine (fun (hx : KeepsQ s0 zz) => ?_) ?_ <;> [(clear_value zz; revert zz; intro _ _); subst zz]) | (refine (fun (hx : KeepsO s0 zz) => ?_) ?_ <;> [(clear_value zz; revert zz; intro _ _); subst zz]) | (refine (fun (hx : KeepsE s0 zz) => ?_) ?_ <;> [(clear_value zz; revert zz; intro _ _); subst zz]) | (refine (fun (hx : Keeps s0 (Issue.s zz)) => ?_) ?_ <;> [(clear_value zz; revert zz; intro _ _); subst zz]) | (refine (fun (hx : Keeps s0 (StackRead.st zz)) => ?_) ?_ <;> [(clear_value zz; revert zz; intro _ _); subst zz]) | (refine (fun (hx : Keeps s0 (DeltaView.st zz)) => ?_) ?_ <;> [(clear_value zz; revert zz; intro _ _); subst zz]) | (refine (fun (hx : ∀ t, Keeps s0 t → Keeps s0 (zz t)) => ?_) ?_ <;> [(clear_value zz; revert zz; intro _ hloc); (subst zz; intro t ht; beta_reduce)]) | (refine (fun (hx : ∀ t u, Keeps s0 t → Keeps s0 (zz t u)) => ?_) ?_ <;> [(clear_value zz; revert zz; intro _ hloc); (subst zz; intro t u ht; beta_reduce)]) | (refine (fun (hx : ∀ t, Keeps s0 (zz t)) => ?_) ?_ <;> [(clear_value zz; revert zz; intro _ hloc); (subst zz; intro t; beta_reduce)]) | (refine (fun (hx : ∀ t u, Keeps s0 (zz t u)) => ?_) ?_ <;> [(clear_value zz; revert zz; intro _ hloc); (subst zz; intro t u; beta_reduce)]) | (refine (fun (hx : ∀ t u v, Keeps s0 t → Keeps s0 (zz t u v)) => ?_) ?_ <;> [(clear_value zz; revert zz; intro _ hloc); (subst zz; intro t u v ht; beta_reduce)]) | (refine (fun (hx : ∀ t u v w, Keeps s0 t → Keeps s0 (zz t u v w)) => ?_) ?_ <;> [(clear_value zz; revert zz; intro _ hloc); (subst zz; intro t u v w ht; beta_reduce)]) | (refine (fun (_ : Security) => ?_) zz; subst zz) | (clear_value zz; revert zz; intro _)) | with_reducible apply modStream_keeps | with_reducible apply completion_keeps | with_reducible apply launch_keeps | with_reducible apply collStage_keeps | with_reducible apply keeps_ite | with_reducible apply keepsP_ite | with_reducible apply keepsQ_ite | split | with_reducible apply keepsP_mk | with_reducible apply keepsQ_mk | with_reducible apply keeps_fst (by assumption) | with_reducible apply keeps_snd (by assumption) | with_reducible apply keeps_some (by assumption) | with_reducible apply keeps_okE (by assumption) | with_reducible apply KeepsP_fst | with_reducible apply KeepsQ_snd | fail_if_no_progress with_reducible refine keeps_mk rfl rfl rfl rfl ?_)
theorem completeResolved_keeps {s0 : State} (s : State) (slot : Nat) (b : Bundle) (h_s : Keeps s0 s) : Keeps s0 (completeResolved s slot b) := by
  unfold completeResolved
  repeat' (first | with_reducible assumption | (extract_lets +onlyGivenNames zz; first | (clear_value zz; revert zz; intro _)) | with_reducible apply completion_keeps | with_reducible apply keeps_ite | with_reducible apply keepsP_ite | with_reducible apply keepsQ_ite | (with_reducible refine keeps_foldl ?_ (fun _ _ _ => ?_) <;> beta_reduce))
theorem resolveAll_keeps {s0 : State} (s : State) (slot : Nat) (h_s : Keeps s0 s) : Keeps s0 (resolveAll s slot) := by
  unfold resolveAll
  repeat' (first | with_reducible assumption | (extract_lets +onlyGivenNames zz; first | (refine (fun (hx : Keeps s0 zz) => ?_) ?_ <;> [(clear_value zz; revert zz; intro _ _); subst zz]) | (clear_value zz; revert zz; intro _)) | with_reducible apply setSlot_keeps | with_reducible apply launchHeld_keeps | with_reducible apply completeResolved_keeps | with_reducible apply keeps_ite | with_reducible apply keepsP_ite | with_reducible apply keepsQ_ite | (with_reducible refine keeps_foldl ?_ (fun _ _ _ => ?_) <;> beta_reduce) | (with_reducible refine keepsP_foldl ?_ (fun _ _ _ => ?_) <;> beta_reduce) | split)
theorem rollback_keeps {s0 : State} (s : State) (slot : Nat) (cm : Cancelled) (h_s : Keeps s0 s) : Keeps s0 (rollback s slot cm) := by
  unfold rollback
  repeat' (first | with_reducible assumption | (extract_lets +onlyGivenNames zz; first | (refine (fun (hx : Keeps s0 zz) => ?_) ?_ <;> [(clear_value zz; revert zz; intro _ _); subst zz]) | (clear_value zz; revert zz; intro _)) | with_reducible apply bumpFldAt_keeps | with_reducible apply modBundle_keeps | with_reducible apply modStation_keeps | with_reducible apply bumpEv_keeps | with_reducible apply setEvent_keeps | with_reducible apply stallCount_keeps | with_reducible apply blockFinish_keeps | with_reducible apply resolveAll_keeps | with_reducible apply keeps_ite | (with_reducible refine keeps_foldl ?_ (fun _ _ _ => ?_) <;> beta_reduce) | (with_reducible refine keepsP_foldl ?_ (fun _ _ _ => ?_) <;> beta_reduce) | split)
theorem cancelRange_keeps {s0 : State} (s : State) (slot : Nat) (si : Nat) (lo : Word) (h_s : Keeps s0 s) : Keeps s0 (cancelRange s slot si lo) := by
  unfold cancelRange
  repeat' (first | with_reducible assumption | (extract_lets +onlyGivenNames zz; first | (clear_value zz; revert zz; intro _)) | with_reducible apply rollback_keeps | with_reducible apply keeps_ite | (with_reducible refine keeps_foldl ?_ (fun _ _ _ => ?_) <;> beta_reduce) | (with_reducible refine keepsP_foldl ?_ (fun _ _ _ => ?_) <;> beta_reduce) | split)

end Sys2Proof.Machine
end

