-- ==== Sys2Proof/Laws/KeepsIssue.lean ====
section
/-!
SUPPORT. What the operations of Machine/Issue keep (see Laws/Keeps).
-/
namespace Sys2Proof.Machine
open Sys2Proof

theorem goOn_keeps {s0 : State} (s : State) (w : Where) (f : Station → Station) (h_s : Keeps s0 s) : Keeps s0 (goOn s w f) := by
  unfold goOn
  repeat' (first | with_reducible assumption | with_reducible apply modStation_keeps)
theorem startWait_keeps {s0 : State} (i : Issue) (k : Waiting) (h_i : Keeps s0 i.s) : Keeps s0 (startWait i k) := by
  unfold startWait
  repeat' (first | with_reducible assumption | with_reducible apply modStation_keeps)
theorem endWait_keeps {s0 : State} (s : State) (w : Where) (f : Station → Station) (h_s : Keeps s0 s) : Keeps s0 (endWait s w f) := by
  unfold endWait
  repeat' (first | with_reducible assumption | (extract_lets +onlyGivenNames zz; first | (refine (fun (hx : Keeps s0 zz) => ?_) ?_ <;> [(clear_value zz; revert zz; intro _ _); subst zz]) | (refine (fun (hx : KeepsP s0 zz) => ?_) ?_ <;> [(clear_value zz; revert zz; intro _ _); subst zz]) | (refine (fun (hx : KeepsQ s0 zz) => ?_) ?_ <;> [(clear_value zz; revert zz; intro _ _); subst zz]) | (refine (fun (hx : KeepsO s0 zz) => ?_) ?_ <;> [(clear_value zz; revert zz; intro _ _); subst zz]) | (refine (fun (hx : KeepsE s0 zz) => ?_) ?_ <;> [(clear_value zz; revert zz; intro _ _); subst zz]) | (refine (fun (hx : Keeps s0 (Issue.s zz)) => ?_) ?_ <;> [(clear_value zz; revert zz; intro _ _); subst zz]) | (refine (fun (hx : Keeps s0 (StackRead.st zz)) => ?_) ?_ <;> [(clear_value zz; revert zz; intro _ _); subst zz]) | (refine (fun (hx : ∀ t, Keeps s0 t → Keeps s0 (zz t)) => ?_) ?_ <;> [(clear_value zz; revert zz; intro _ _); (subst zz; intro t ht; beta_reduce)]) | (refine (fun (hx : ∀ t, Keeps s0 (zz t)) => ?_) ?_ <;> [(clear_value zz; revert zz; intro _ _); (subst zz; intro t; beta_reduce)]) | (refine (fun (_ : Security) => ?_) zz; subst zz) | (clear_value zz; revert zz; intro _)) | with_reducible apply stallCount_keeps | with_reducible apply settleDeferred_keeps | with_reducible apply goOn_keeps)
theorem Issue.fault_keeps {s0 : State} (i : Issue) (code : Nat) (detail : Nat) (h_i : Keeps s0 i.s) : Keeps s0 (Issue.fault i code detail) := by
  unfold Issue.fault
  repeat' (first | with_reducible assumption | with_reducible apply stationFault_keeps)
theorem resourceWait_keeps {s0 : State} (s : State) (h_s : Keeps s0 s) : Keeps s0 (resourceWait s) := by
  unfold resourceWait
  repeat' (first | with_reducible assumption | with_reducible apply setEvent_keeps)
theorem waitResolution_keeps {s0 : State} (s : State) (w : Where) (insn : Word) (resource : Bool) (h_s : Keeps s0 s) : Keeps s0 (waitResolution s w insn resource) := by
  unfold waitResolution
  repeat' (first | with_reducible assumption | (extract_lets +onlyGivenNames zz; first | (refine (fun (hx : Keeps s0 zz) => ?_) ?_ <;> [(clear_value zz; revert zz; intro _ _); subst zz])) | with_reducible apply modStation_keeps | with_reducible apply resourceWait_keeps | with_reducible apply keeps_ite)
theorem countBlocked_keeps {s0 : State} (s : State) (w : Where) (insn : Word) (h_s : Keeps s0 s) : Keeps s0 (countBlocked s w insn) := by
  unfold countBlocked
  repeat' (first | with_reducible assumption | with_reducible apply bumpEv_keeps | with_reducible apply keeps_ite | split)
theorem begin__keeps {s0 : State} (s : State) (w : Where) (insn : Word) (reads : List Item) (h_s : Keeps s0 s) : Keeps s0 (begin_ s w insn reads).s := by
  unfold begin_
  repeat' (first | with_reducible assumption | (extract_lets +onlyGivenNames zz; first | (refine (fun (hx : Keeps s0 zz) => ?_) ?_ <;> [(clear_value zz; revert zz; intro _ _); subst zz]) | (clear_value zz; revert zz; intro _)) | with_reducible apply modStation_keeps | with_reducible apply bumpEv_keeps | with_reducible apply scratchFound_keeps | with_reducible apply countBlocked_keeps)
theorem savePagesAt_keeps {s0 : State} (i : Issue) (items : List Item) (h_i : Keeps s0 i.s) : Keeps s0 (savePagesAt i items).s := by
  unfold savePagesAt
  repeat' (first | with_reducible assumption | (extract_lets +onlyGivenNames zz; first | (refine (fun (hx : Keeps s0 zz) => ?_) ?_ <;> [(clear_value zz; revert zz; intro _ _); subst zz]) | (clear_value zz; revert zz; intro _)) | with_reducible apply modStation_keeps | with_reducible apply bumpEv_keeps | with_reducible apply keeps_ite | split)
theorem issueGated_keeps {s0 : State} (s : State) (cell : Nat) (insn : Word) (opc : Nat) (gate : Where → Bool) (body : Issue → State) (h_s : Keeps s0 s) (h_body : ∀ x0, Keeps s0 x0.s → Keeps s0 (body x0)) : Keeps s0 (issueGated s cell insn opc gate body) := by
  unfold issueGated
  repeat' (first | with_reducible assumption | with_reducible intro _ | fail_if_no_progress beta_reduce | (extract_lets +onlyGivenNames zz; first | (refine (fun (hx : Keeps s0 (Issue.s zz)) => ?_) ?_ <;> [(clear_value zz; revert zz; intro _ _); subst zz]) | (clear_value zz; revert zz; intro _)) | with_reducible apply h_body | with_reducible apply modStation_keeps | with_reducible apply settleDeferred_keeps | with_reducible apply goOn_keeps | with_reducible apply waitResolution_keeps | with_reducible apply begin__keeps | with_reducible apply savePagesAt_keeps | with_reducible apply Issue.fault_keeps | with_reducible apply keeps_ite | with_reducible apply keepsP_ite | with_reducible apply keepsQ_ite | split)
theorem issue_keeps {s0 : State} (s : State) (cell : Nat) (insn : Word) (opc : Nat) (body : Issue → State) (h_s : Keeps s0 s) (h_body : ∀ x0, Keeps s0 x0.s → Keeps s0 (body x0)) : Keeps s0 (issue s cell insn opc body) := by
  unfold issue
  repeat' (first | with_reducible assumption | with_reducible intro _ | fail_if_no_progress beta_reduce | with_reducible apply h_body | with_reducible apply issueGated_keeps)
theorem needHandles_keeps {s0 : State} (i : Issue) (ns : List Nat) (k : List Handle → State) (h_i : Keeps s0 i.s) (h_k : ∀ x0, Keeps s0 (k x0)) : Keeps s0 (needHandles i ns k) := by
  unfold needHandles
  repeat' (first | with_reducible assumption | with_reducible intro _ | fail_if_no_progress beta_reduce | with_reducible apply h_k | with_reducible apply Issue.fault_keeps | with_reducible apply keeps_ite | split)
theorem needHandle_keeps {s0 : State} (i : Issue) (n : Nat) (k : Handle → State) (h_i : Keeps s0 i.s) (h_k : ∀ x0, Keeps s0 (k x0)) : Keeps s0 (needHandle i n k) := by
  unfold needHandle
  repeat' (first | with_reducible assumption | with_reducible intro _ | fail_if_no_progress beta_reduce | with_reducible apply h_k | with_reducible apply Issue.fault_keeps | with_reducible apply keeps_ite | split)

end Sys2Proof.Machine
end

