-- ==== Sys2Proof/Laws/KeepsScalar.lean ====
section
/-!
SUPPORT. What the operations of Machine/Scalar keep (see Laws/Keeps).
-/
namespace Sys2Proof.Machine
open Sys2Proof

theorem setGd_keeps {s0 : State} (i : Issue) (v : DWord) (h_i : Keeps s0 i.s) : Keeps s0 (setGd i v) := by
  unfold setGd
  repeat' (first | with_reducible assumption | with_reducible apply goOn_keeps)
theorem execAlu_keeps {s0 : State} (cell : Nat) (w : Word) (s : State) (h_s : Keeps s0 s) : KeepsOut s0 (execAlu cell w s) := by
  unfold execAlu
  repeat' (first | with_reducible assumption | with_reducible intro _ | fail_if_no_progress beta_reduce | with_reducible apply done_keeps | with_reducible apply issue_keeps | with_reducible apply setGd_keeps)
theorem execAddi_keeps {s0 : State} (cell : Nat) (w : Word) (s : State) (h_s : Keeps s0 s) : KeepsOut s0 (execAddi cell w s) := by
  unfold execAddi
  repeat' (first | with_reducible assumption | with_reducible intro _ | fail_if_no_progress beta_reduce | with_reducible apply done_keeps | with_reducible apply issue_keeps | with_reducible apply setGd_keeps)
theorem execAndi_keeps {s0 : State} (cell : Nat) (w : Word) (s : State) (h_s : Keeps s0 s) : KeepsOut s0 (execAndi cell w s) := by
  unfold execAndi
  repeat' (first | with_reducible assumption | with_reducible intro _ | fail_if_no_progress beta_reduce | with_reducible apply done_keeps | with_reducible apply issue_keeps | with_reducible apply setGd_keeps)
theorem execOri_keeps {s0 : State} (cell : Nat) (w : Word) (s : State) (h_s : Keeps s0 s) : KeepsOut s0 (execOri cell w s) := by
  unfold execOri
  repeat' (first | with_reducible assumption | with_reducible intro _ | fail_if_no_progress beta_reduce | with_reducible apply done_keeps | with_reducible apply issue_keeps | with_reducible apply setGd_keeps)
theorem execXori_keeps {s0 : State} (cell : Nat) (w : Word) (s : State) (h_s : Keeps s0 s) : KeepsOut s0 (execXori cell w s) := by
  unfold execXori
  repeat' (first | with_reducible assumption | with_reducible intro _ | fail_if_no_progress beta_reduce | with_reducible apply done_keeps | with_reducible apply issue_keeps | with_reducible apply setGd_keeps)
theorem execShli_keeps {s0 : State} (cell : Nat) (w : Word) (s : State) (h_s : Keeps s0 s) : KeepsOut s0 (execShli cell w s) := by
  unfold execShli
  repeat' (first | with_reducible assumption | with_reducible intro _ | fail_if_no_progress beta_reduce | with_reducible apply done_keeps | with_reducible apply issue_keeps | with_reducible apply setGd_keeps)
theorem execShri_keeps {s0 : State} (cell : Nat) (w : Word) (s : State) (h_s : Keeps s0 s) : KeepsOut s0 (execShri cell w s) := by
  unfold execShri
  repeat' (first | with_reducible assumption | with_reducible intro _ | fail_if_no_progress beta_reduce | with_reducible apply done_keeps | with_reducible apply issue_keeps | with_reducible apply setGd_keeps)
theorem execSari_keeps {s0 : State} (cell : Nat) (w : Word) (s : State) (h_s : Keeps s0 s) : KeepsOut s0 (execSari cell w s) := by
  unfold execSari
  repeat' (first | with_reducible assumption | with_reducible intro _ | fail_if_no_progress beta_reduce | with_reducible apply done_keeps | with_reducible apply issue_keeps | with_reducible apply setGd_keeps)
theorem execMovi_keeps {s0 : State} (cell : Nat) (w : Word) (s : State) (h_s : Keeps s0 s) : KeepsOut s0 (execMovi cell w s) := by
  unfold execMovi
  repeat' (first | with_reducible assumption | with_reducible intro _ | fail_if_no_progress beta_reduce | with_reducible apply done_keeps | with_reducible apply issue_keeps | with_reducible apply setGd_keeps)
theorem execMovs_keeps {s0 : State} (cell : Nat) (w : Word) (s : State) (h_s : Keeps s0 s) : KeepsOut s0 (execMovs cell w s) := by
  unfold execMovs
  repeat' (first | with_reducible assumption | with_reducible intro _ | fail_if_no_progress beta_reduce | with_reducible apply done_keeps | with_reducible apply issue_keeps | with_reducible apply setGd_keeps)
theorem execCmp_keeps {s0 : State} (cell : Nat) (w : Word) (s : State) (h_s : Keeps s0 s) : KeepsOut s0 (execCmp cell w s) := by
  unfold execCmp
  repeat' (first | with_reducible assumption | with_reducible intro _ | fail_if_no_progress beta_reduce | with_reducible apply done_keeps | with_reducible apply goOn_keeps | with_reducible apply issue_keeps)
theorem execCmpi_keeps {s0 : State} (cell : Nat) (w : Word) (s : State) (h_s : Keeps s0 s) : KeepsOut s0 (execCmpi cell w s) := by
  unfold execCmpi
  repeat' (first | with_reducible assumption | with_reducible intro _ | fail_if_no_progress beta_reduce | with_reducible apply done_keeps | with_reducible apply goOn_keeps | with_reducible apply issue_keeps)
theorem execPlog_keeps {s0 : State} (cell : Nat) (w : Word) (s : State) (h_s : Keeps s0 s) : KeepsOut s0 (execPlog cell w s) := by
  unfold execPlog
  repeat' (first | with_reducible assumption | with_reducible intro _ | fail_if_no_progress beta_reduce | with_reducible apply done_keeps | with_reducible apply goOn_keeps | with_reducible apply issue_keeps)
theorem needScratch_keeps {s0 : State} (i : Issue) (a : Int) (size : Nat) (align : Nat) (k : Nat → State) (h_i : Keeps s0 i.s) (h_k : ∀ x0, Keeps s0 (k x0)) : Keeps s0 (needScratch i a size align k) := by
  unfold needScratch
  repeat' (first | with_reducible assumption | with_reducible intro _ | fail_if_no_progress beta_reduce | with_reducible apply h_k | with_reducible apply Issue.fault_keeps | with_reducible apply keeps_ite)
theorem loadBody_keeps {s0 : State} (size : Nat) (i : Issue) (h_i : Keeps s0 i.s) : Keeps s0 (loadBody size i) := by
  unfold loadBody
  repeat' (first | with_reducible assumption | with_reducible intro _ | fail_if_no_progress beta_reduce | with_reducible apply setGd_keeps | with_reducible apply needScratch_keeps | with_reducible apply Issue.fault_keeps | with_reducible apply keeps_ite)
theorem storeBody_keeps {s0 : State} (size : Nat) (i : Issue) (h_i : Keeps s0 i.s) : Keeps s0 (storeBody size i) := by
  unfold storeBody
  repeat' (first | with_reducible assumption | with_reducible intro _ | fail_if_no_progress beta_reduce | (extract_lets +onlyGivenNames zz; first | (refine (fun (hx : Keeps s0 zz) => ?_) ?_ <;> [(clear_value zz; revert zz; intro _ _); subst zz]) | (refine (fun (hx : KeepsP s0 zz) => ?_) ?_ <;> [(clear_value zz; revert zz; intro _ _); subst zz]) | (refine (fun (hx : KeepsQ s0 zz) => ?_) ?_ <;> [(clear_value zz; revert zz; intro _ _); subst zz]) | (refine (fun (hx : KeepsO s0 zz) => ?_) ?_ <;> [(clear_value zz; revert zz; intro _ _); subst zz]) | (refine (fun (hx : KeepsE s0 zz) => ?_) ?_ <;> [(clear_value zz; revert zz; intro _ _); subst zz]) | (refine (fun (hx : Keeps s0 (Issue.s zz)) => ?_) ?_ <;> [(clear_value zz; revert zz; intro _ _); subst zz]) | (refine (fun (hx : Keeps s0 (StackRead.st zz)) => ?_) ?_ <;> [(clear_value zz; revert zz; intro _ _); subst zz]) | (refine (fun (hx : ∀ t, Keeps s0 t → Keeps s0 (zz t)) => ?_) ?_ <;> [(clear_value zz; revert zz; intro _ _); (subst zz; intro t ht; beta_reduce)]) | (refine (fun (hx : ∀ t, Keeps s0 (zz t)) => ?_) ?_ <;> [(clear_value zz; revert zz; intro _ _); (subst zz; intro t; beta_reduce)]) | (refine (fun (_ : Security) => ?_) zz; subst zz) | (clear_value zz; revert zz; intro _)) | with_reducible apply goOn_keeps | with_reducible apply needScratch_keeps)
theorem execLd64_keeps {s0 : State} (cell : Nat) (w : Word) (s : State) (h_s : Keeps s0 s) : KeepsOut s0 (execLd64 cell w s) := by
  unfold execLd64
  repeat' (first | with_reducible assumption | with_reducible intro _ | fail_if_no_progress beta_reduce | with_reducible apply done_keeps | with_reducible apply issue_keeps | with_reducible apply loadBody_keeps)
theorem execLd32_keeps {s0 : State} (cell : Nat) (w : Word) (s : State) (h_s : Keeps s0 s) : KeepsOut s0 (execLd32 cell w s) := by
  unfold execLd32
  repeat' (first | with_reducible assumption | with_reducible intro _ | fail_if_no_progress beta_reduce | with_reducible apply done_keeps | with_reducible apply issue_keeps | with_reducible apply loadBody_keeps)
theorem execLd8_keeps {s0 : State} (cell : Nat) (w : Word) (s : State) (h_s : Keeps s0 s) : KeepsOut s0 (execLd8 cell w s) := by
  unfold execLd8
  repeat' (first | with_reducible assumption | with_reducible intro _ | fail_if_no_progress beta_reduce | with_reducible apply done_keeps | with_reducible apply issue_keeps | with_reducible apply loadBody_keeps)
theorem execSt64_keeps {s0 : State} (cell : Nat) (w : Word) (s : State) (h_s : Keeps s0 s) : KeepsOut s0 (execSt64 cell w s) := by
  unfold execSt64
  repeat' (first | with_reducible assumption | with_reducible intro _ | fail_if_no_progress beta_reduce | with_reducible apply done_keeps | with_reducible apply issue_keeps | with_reducible apply storeBody_keeps)
theorem execSt32_keeps {s0 : State} (cell : Nat) (w : Word) (s : State) (h_s : Keeps s0 s) : KeepsOut s0 (execSt32 cell w s) := by
  unfold execSt32
  repeat' (first | with_reducible assumption | with_reducible intro _ | fail_if_no_progress beta_reduce | with_reducible apply done_keeps | with_reducible apply issue_keeps | with_reducible apply storeBody_keeps)
theorem execSt8_keeps {s0 : State} (cell : Nat) (w : Word) (s : State) (h_s : Keeps s0 s) : KeepsOut s0 (execSt8 cell w s) := by
  unfold execSt8
  repeat' (first | with_reducible assumption | with_reducible intro _ | fail_if_no_progress beta_reduce | with_reducible apply done_keeps | with_reducible apply issue_keeps | with_reducible apply storeBody_keeps)
theorem jumpTo_keeps {s0 : State} (i : Issue) (target : Int) (f : Station → Station) (h_i : Keeps s0 i.s) : Keeps s0 (jumpTo i target f) := by
  unfold jumpTo
  repeat' (first | with_reducible assumption | (extract_lets +onlyGivenNames zz; first | (refine (fun (hx : Keeps s0 zz) => ?_) ?_ <;> [(clear_value zz; revert zz; intro _ _); subst zz]) | (refine (fun (hx : KeepsP s0 zz) => ?_) ?_ <;> [(clear_value zz; revert zz; intro _ _); subst zz]) | (refine (fun (hx : KeepsQ s0 zz) => ?_) ?_ <;> [(clear_value zz; revert zz; intro _ _); subst zz]) | (refine (fun (hx : KeepsO s0 zz) => ?_) ?_ <;> [(clear_value zz; revert zz; intro _ _); subst zz]) | (refine (fun (hx : KeepsE s0 zz) => ?_) ?_ <;> [(clear_value zz; revert zz; intro _ _); subst zz]) | (refine (fun (hx : Keeps s0 (Issue.s zz)) => ?_) ?_ <;> [(clear_value zz; revert zz; intro _ _); subst zz]) | (refine (fun (hx : Keeps s0 (StackRead.st zz)) => ?_) ?_ <;> [(clear_value zz; revert zz; intro _ _); subst zz]) | (refine (fun (hx : ∀ t, Keeps s0 t → Keeps s0 (zz t)) => ?_) ?_ <;> [(clear_value zz; revert zz; intro _ _); (subst zz; intro t ht; beta_reduce)]) | (refine (fun (hx : ∀ t, Keeps s0 (zz t)) => ?_) ?_ <;> [(clear_value zz; revert zz; intro _ _); (subst zz; intro t; beta_reduce)]) | (refine (fun (_ : Security) => ?_) zz; subst zz) | (clear_value zz; revert zz; intro _)) | with_reducible apply modStation_keeps | with_reducible apply Issue.fault_keeps | with_reducible apply keeps_ite)
theorem execBr_keeps {s0 : State} (cell : Nat) (w : Word) (s : State) (h_s : Keeps s0 s) : KeepsOut s0 (execBr cell w s) := by
  unfold execBr
  repeat' (first | with_reducible assumption | with_reducible intro _ | fail_if_no_progress beta_reduce | with_reducible apply done_keeps | with_reducible apply issue_keeps | with_reducible apply jumpTo_keeps)
theorem execCall_keeps {s0 : State} (cell : Nat) (w : Word) (s : State) (h_s : Keeps s0 s) : KeepsOut s0 (execCall cell w s) := by
  unfold execCall
  repeat' (first | with_reducible assumption | with_reducible intro _ | fail_if_no_progress beta_reduce | with_reducible apply done_keeps | with_reducible apply issue_keeps | with_reducible apply jumpTo_keeps)
theorem execJr_keeps {s0 : State} (cell : Nat) (w : Word) (s : State) (h_s : Keeps s0 s) : KeepsOut s0 (execJr cell w s) := by
  unfold execJr
  repeat' (first | with_reducible assumption | with_reducible intro _ | fail_if_no_progress beta_reduce | with_reducible apply done_keeps | with_reducible apply issue_keeps | with_reducible apply jumpTo_keeps)
theorem execReservedOpcode_keeps {s0 : State} (cell : Nat) (w : Word) (s : State) (h_s : Keeps s0 s) : KeepsOut s0 (execReservedOpcode cell w s) := by
  unfold execReservedOpcode
  repeat' (first | with_reducible assumption | with_reducible intro _ | fail_if_no_progress beta_reduce | with_reducible apply done_keeps | with_reducible apply issue_keeps | with_reducible apply keeps_ite)

end Sys2Proof.Machine
end

