-- ==== Sys2Proof/Laws/KeepsTileOps.lean ====
section
/-!
SUPPORT. What the operations of Machine/TileOps keep (see Laws/Keeps).
-/
namespace Sys2Proof.Machine
open Sys2Proof

theorem execTset_keeps {s0 : State} (cell : Nat) (w : Word) (s : State) (h_s : Keeps s0 s) : KeepsOut s0 (execTset cell w s) := by
  unfold execTset
  repeat' (first | with_reducible assumption | with_reducible intro _ | fail_if_no_progress beta_reduce | (extract_lets +onlyGivenNames zz; first | (clear_value zz; revert zz; intro _)) | with_reducible apply done_keeps | with_reducible apply goOn_keeps | with_reducible apply issue_keeps | with_reducible apply needScratch_keeps | with_reducible apply Issue.fault_keeps | with_reducible apply keeps_ite)
theorem execThdrR_keeps {s0 : State} (cell : Nat) (w : Word) (s : State) (h_s : Keeps s0 s) : KeepsOut s0 (execThdrR cell w s) := by
  unfold execThdrR
  repeat' (first | with_reducible assumption | with_reducible intro _ | fail_if_no_progress beta_reduce | (extract_lets +onlyGivenNames zz; first | (clear_value zz; revert zz; intro _)) | with_reducible apply done_keeps | with_reducible apply issue_keeps | with_reducible apply needHandle_keeps | with_reducible apply setGd_keeps)
theorem execThdrW_keeps {s0 : State} (cell : Nat) (w : Word) (s : State) (h_s : Keeps s0 s) : KeepsOut s0 (execThdrW cell w s) := by
  unfold execThdrW
  repeat' (first | with_reducible assumption | with_reducible intro _ | fail_if_no_progress beta_reduce | (extract_lets +onlyGivenNames zz; first | (clear_value zz; revert zz; intro _)) | with_reducible apply done_keeps | with_reducible apply goOn_keeps | with_reducible apply issue_keeps | with_reducible apply needHandle_keeps)
theorem execTcopy_keeps {s0 : State} (cell : Nat) (w : Word) (s : State) (h_s : Keeps s0 s) : KeepsOut s0 (execTcopy cell w s) := by
  unfold execTcopy
  repeat' (first | with_reducible assumption | with_reducible intro _ | fail_if_no_progress beta_reduce | (extract_lets +onlyGivenNames zz; first | (refine (fun (hx : Keeps s0 zz) => ?_) ?_ <;> [(clear_value zz; revert zz; intro _ _); subst zz]) | (refine (fun (hx : KeepsP s0 zz) => ?_) ?_ <;> [(clear_value zz; revert zz; intro _ _); subst zz]) | (refine (fun (hx : KeepsQ s0 zz) => ?_) ?_ <;> [(clear_value zz; revert zz; intro _ _); subst zz]) | (refine (fun (hx : KeepsO s0 zz) => ?_) ?_ <;> [(clear_value zz; revert zz; intro _ _); subst zz]) | (refine (fun (hx : KeepsE s0 zz) => ?_) ?_ <;> [(clear_value zz; revert zz; intro _ _); subst zz]) | (refine (fun (hx : Keeps s0 (Issue.s zz)) => ?_) ?_ <;> [(clear_value zz; revert zz; intro _ _); subst zz]) | (refine (fun (hx : Keeps s0 (StackRead.st zz)) => ?_) ?_ <;> [(clear_value zz; revert zz; intro _ _); subst zz]) | (refine (fun (hx : ∀ t, Keeps s0 t → Keeps s0 (zz t)) => ?_) ?_ <;> [(clear_value zz; revert zz; intro _ _); (subst zz; intro t ht; beta_reduce)]) | (refine (fun (hx : ∀ t, Keeps s0 (zz t)) => ?_) ?_ <;> [(clear_value zz; revert zz; intro _ _); (subst zz; intro t; beta_reduce)]) | (refine (fun (_ : Security) => ?_) zz; subst zz) | (clear_value zz; revert zz; intro _)) | with_reducible apply done_keeps | with_reducible apply goOn_keeps | with_reducible apply issue_keeps | with_reducible apply needHandles_keeps | with_reducible apply keeps_ite | with_reducible apply keepsOut_ite | split)
theorem execTzero_keeps {s0 : State} (cell : Nat) (w : Word) (s : State) (h_s : Keeps s0 s) : KeepsOut s0 (execTzero cell w s) := by
  unfold execTzero
  repeat' (first | with_reducible assumption | with_reducible intro _ | fail_if_no_progress beta_reduce | (extract_lets +onlyGivenNames zz; first | (refine (fun (hx : Keeps s0 zz) => ?_) ?_ <;> [(clear_value zz; revert zz; intro _ _); subst zz]) | (refine (fun (hx : KeepsP s0 zz) => ?_) ?_ <;> [(clear_value zz; revert zz; intro _ _); subst zz]) | (refine (fun (hx : KeepsQ s0 zz) => ?_) ?_ <;> [(clear_value zz; revert zz; intro _ _); subst zz]) | (refine (fun (hx : KeepsO s0 zz) => ?_) ?_ <;> [(clear_value zz; revert zz; intro _ _); subst zz]) | (refine (fun (hx : KeepsE s0 zz) => ?_) ?_ <;> [(clear_value zz; revert zz; intro _ _); subst zz]) | (refine (fun (hx : Keeps s0 (Issue.s zz)) => ?_) ?_ <;> [(clear_value zz; revert zz; intro _ _); subst zz]) | (refine (fun (hx : Keeps s0 (StackRead.st zz)) => ?_) ?_ <;> [(clear_value zz; revert zz; intro _ _); subst zz]) | (refine (fun (hx : ∀ t, Keeps s0 t → Keeps s0 (zz t)) => ?_) ?_ <;> [(clear_value zz; revert zz; intro _ _); (subst zz; intro t ht; beta_reduce)]) | (refine (fun (hx : ∀ t, Keeps s0 (zz t)) => ?_) ?_ <;> [(clear_value zz; revert zz; intro _ _); (subst zz; intro t; beta_reduce)]) | (refine (fun (_ : Security) => ?_) zz; subst zz) | (clear_value zz; revert zz; intro _)) | with_reducible apply done_keeps | with_reducible apply goOn_keeps | with_reducible apply issue_keeps | with_reducible apply needHandle_keeps)
theorem execCvt_keeps {s0 : State} (cell : Nat) (w : Word) (s : State) (h_s : Keeps s0 s) : KeepsOut s0 (execCvt cell w s) := by
  unfold execCvt
  repeat' (first | with_reducible assumption | with_reducible intro _ | fail_if_no_progress beta_reduce | (extract_lets +onlyGivenNames zz; first | (refine (fun (hx : Keeps s0 zz) => ?_) ?_ <;> [(clear_value zz; revert zz; intro _ _); subst zz]) | (clear_value zz; revert zz; intro _)) | with_reducible apply done_keeps | with_reducible apply arithEvents_keeps | with_reducible apply goOn_keeps | with_reducible apply issue_keeps | with_reducible apply needHandles_keeps | with_reducible apply Issue.fault_keeps | with_reducible apply keeps_ite | with_reducible apply keepsOut_ite | split)

end Sys2Proof.Machine
end

