-- ==== Sys2Proof/Laws/KeepsBlockInsn.lean ====
section
/-!
SUPPORT. What the operations of Machine/BlockInsn keep (see Laws/Keeps).
-/
namespace Sys2Proof.Machine
open Sys2Proof

theorem enterBlock_keeps {s0 : State} (i : Issue) (o : BlockOp) (g : Gen) (h_i : Keeps s0 i.s) : Keeps s0 (enterBlock i o g) := by
  unfold enterBlock
  repeat' (first | with_reducible assumption | with_reducible apply goOn_keeps)
theorem execAccz_keeps {s0 : State} (cell : Nat) (w : Word) (s : State) (h_s : Keeps s0 s) : KeepsOut s0 (execAccz cell w s) := by
  unfold execAccz
  repeat' (first | with_reducible assumption | with_reducible intro _ | fail_if_no_progress beta_reduce | (extract_lets +onlyGivenNames zz; first | (refine (fun (hx : Keeps s0 zz) => ?_) ?_ <;> [(clear_value zz; revert zz; intro _ _); subst zz]) | (refine (fun (hx : KeepsP s0 zz) => ?_) ?_ <;> [(clear_value zz; revert zz; intro _ _); subst zz]) | (refine (fun (hx : KeepsQ s0 zz) => ?_) ?_ <;> [(clear_value zz; revert zz; intro _ _); subst zz]) | (refine (fun (hx : KeepsO s0 zz) => ?_) ?_ <;> [(clear_value zz; revert zz; intro _ _); subst zz]) | (refine (fun (hx : KeepsE s0 zz) => ?_) ?_ <;> [(clear_value zz; revert zz; intro _ _); subst zz]) | (refine (fun (hx : Keeps s0 (Issue.s zz)) => ?_) ?_ <;> [(clear_value zz; revert zz; intro _ _); subst zz]) | (refine (fun (hx : Keeps s0 (StackRead.st zz)) => ?_) ?_ <;> [(clear_value zz; revert zz; intro _ _); subst zz]) | (refine (fun (hx : ∀ t, Keeps s0 t → Keeps s0 (zz t)) => ?_) ?_ <;> [(clear_value zz; revert zz; intro _ _); (subst zz; intro t ht; beta_reduce)]) | (refine (fun (hx : ∀ t, Keeps s0 (zz t)) => ?_) ?_ <;> [(clear_value zz; revert zz; intro _ _); (subst zz; intro t; beta_reduce)]) | (refine (fun (_ : Security) => ?_) zz; subst zz) | (clear_value zz; revert zz; intro _)) | with_reducible apply done_keeps | with_reducible apply goOn_keeps | with_reducible apply issue_keeps)
theorem execMma_keeps {s0 : State} (cell : Nat) (w : Word) (s : State) (h_s : Keeps s0 s) : KeepsOut s0 (execMma cell w s) := by
  unfold execMma
  repeat' (first | with_reducible assumption | with_reducible intro _ | fail_if_no_progress beta_reduce | (extract_lets +onlyGivenNames zz; first | (clear_value zz; revert zz; intro _)) | with_reducible apply done_keeps | with_reducible apply issue_keeps | with_reducible apply needHandles_keeps | with_reducible apply enterBlock_keeps | with_reducible apply Issue.fault_keeps | with_reducible apply keeps_ite | with_reducible apply keepsOut_ite | split)
theorem execAccrd_keeps {s0 : State} (cell : Nat) (w : Word) (s : State) (h_s : Keeps s0 s) : KeepsOut s0 (execAccrd cell w s) := by
  unfold execAccrd
  repeat' (first | with_reducible assumption | with_reducible intro _ | fail_if_no_progress beta_reduce | (extract_lets +onlyGivenNames zz; first | (clear_value zz; revert zz; intro _)) | with_reducible apply done_keeps | with_reducible apply issue_keeps | with_reducible apply needHandle_keeps | with_reducible apply enterBlock_keeps | with_reducible apply Issue.fault_keeps | with_reducible apply keeps_ite | with_reducible apply keepsOut_ite | split)
theorem vecBody_keeps {s0 : State} (f64 : Bool) (i : Issue) (h_i : Keeps s0 i.s) : Keeps s0 (vecBody f64 i) := by
  unfold vecBody
  repeat' (first | with_reducible assumption | with_reducible intro _ | fail_if_no_progress beta_reduce | (extract_lets +onlyGivenNames zz; first | (clear_value zz; revert zz; intro _)) | with_reducible apply needHandles_keeps | with_reducible apply enterBlock_keeps | with_reducible apply Issue.fault_keeps | with_reducible apply keeps_ite | split)
theorem execVOpF32_keeps {s0 : State} (cell : Nat) (w : Word) (s : State) (h_s : Keeps s0 s) : KeepsOut s0 (execVOpF32 cell w s) := by
  unfold execVOpF32
  repeat' (first | with_reducible assumption | with_reducible intro _ | fail_if_no_progress beta_reduce | with_reducible apply done_keeps | with_reducible apply issue_keeps | with_reducible apply vecBody_keeps)
theorem execVOpF64_keeps {s0 : State} (cell : Nat) (w : Word) (s : State) (h_s : Keeps s0 s) : KeepsOut s0 (execVOpF64 cell w s) := by
  unfold execVOpF64
  repeat' (first | with_reducible assumption | with_reducible intro _ | fail_if_no_progress beta_reduce | with_reducible apply done_keeps | with_reducible apply issue_keeps | with_reducible apply vecBody_keeps)

end Sys2Proof.Machine
end

