-- ==== Sys2Proof/Laws/KeepsEnds.lean ====
section
/-!
SUPPORT. What the operations of Machine/Ends keep (see Laws/Keeps).
-/
namespace Sys2Proof.Machine
open Sys2Proof

theorem takeTile_keeps {s0 : State} (s : State) (w : Where) (n : Nat) (ie : InEnd) (h : Handle) (t : Tile) (insn : Word) (h_s : Keeps s0 s) : Keeps s0 (takeTile s w n ie h t insn) := by
  unfold takeTile
  repeat' (first | with_reducible assumption | (extract_lets +onlyGivenNames zz; first | (refine (fun (hx : Keeps s0 zz) => ?_) ?_ <;> [(clear_value zz; revert zz; intro _ _); subst zz]) | (clear_value zz; revert zz; intro _)) | with_reducible apply modStation_keeps | with_reducible apply bumpEv_keeps | with_reducible apply scratchFound_keeps | with_reducible apply modEnd_keeps)
theorem execCollect_keeps {s0 : State} (cell : Nat) (w : Word) (s : State) (h_s : Keeps s0 s) : KeepsOut s0 (execCollect cell w s) := by
  unfold execCollect
  repeat' (first | with_reducible assumption | with_reducible intro _ | fail_if_no_progress beta_reduce | (extract_lets +onlyGivenNames zz; first | (refine (fun (hx : Keeps s0 zz) => ?_) ?_ <;> [(clear_value zz; revert zz; intro _ _); subst zz]) | (refine (fun (hx : KeepsP s0 zz) => ?_) ?_ <;> [(clear_value zz; revert zz; intro _ _); subst zz]) | (refine (fun (hx : KeepsQ s0 zz) => ?_) ?_ <;> [(clear_value zz; revert zz; intro _ _); subst zz]) | (refine (fun (hx : KeepsO s0 zz) => ?_) ?_ <;> [(clear_value zz; revert zz; intro _ _); subst zz]) | (refine (fun (hx : KeepsE s0 zz) => ?_) ?_ <;> [(clear_value zz; revert zz; intro _ _); subst zz]) | (refine (fun (hx : Keeps s0 (Issue.s zz)) => ?_) ?_ <;> [(clear_value zz; revert zz; intro _ _); subst zz]) | (refine (fun (hx : Keeps s0 (StackRead.st zz)) => ?_) ?_ <;> [(clear_value zz; revert zz; intro _ _); subst zz]) | (refine (fun (hx : ∀ t, Keeps s0 t → Keeps s0 (zz t)) => ?_) ?_ <;> [(clear_value zz; revert zz; intro _ _); (subst zz; intro t ht; beta_reduce)]) | (refine (fun (hx : ∀ t, Keeps s0 (zz t)) => ?_) ?_ <;> [(clear_value zz; revert zz; intro _ _); (subst zz; intro t; beta_reduce)]) | (refine (fun (_ : Security) => ?_) zz; subst zz) | (clear_value zz; revert zz; intro _)) | with_reducible apply done_keeps | with_reducible apply goOn_keeps | with_reducible apply startWait_keeps | with_reducible apply issueGated_keeps | with_reducible apply needHandle_keeps | with_reducible apply takeTile_keeps | with_reducible apply Issue.fault_keeps | with_reducible apply keeps_ite | with_reducible apply keepsOut_ite | split)
theorem execCollectTileArrived_keeps {s0 : State} (cell : Nat) (s : State) (h_s : Keeps s0 s) : KeepsOut s0 (execCollectTileArrived cell s) := by
  unfold execCollectTileArrived
  repeat' (first | with_reducible assumption | (extract_lets +onlyGivenNames zz; first | (refine (fun (hx : Keeps s0 zz) => ?_) ?_ <;> [(clear_value zz; revert zz; intro _ _); subst zz]) | (refine (fun (hx : KeepsP s0 zz) => ?_) ?_ <;> [(clear_value zz; revert zz; intro _ _); subst zz]) | (refine (fun (hx : KeepsQ s0 zz) => ?_) ?_ <;> [(clear_value zz; revert zz; intro _ _); subst zz]) | (refine (fun (hx : KeepsO s0 zz) => ?_) ?_ <;> [(clear_value zz; revert zz; intro _ _); subst zz]) | (refine (fun (hx : KeepsE s0 zz) => ?_) ?_ <;> [(clear_value zz; revert zz; intro _ _); subst zz]) | (refine (fun (hx : Keeps s0 (Issue.s zz)) => ?_) ?_ <;> [(clear_value zz; revert zz; intro _ _); subst zz]) | (refine (fun (hx : Keeps s0 (StackRead.st zz)) => ?_) ?_ <;> [(clear_value zz; revert zz; intro _ _); subst zz]) | (refine (fun (hx : ∀ t, Keeps s0 t → Keeps s0 (zz t)) => ?_) ?_ <;> [(clear_value zz; revert zz; intro _ _); (subst zz; intro t ht; beta_reduce)]) | (refine (fun (hx : ∀ t, Keeps s0 (zz t)) => ?_) ?_ <;> [(clear_value zz; revert zz; intro _ _); (subst zz; intro t; beta_reduce)]) | (refine (fun (_ : Security) => ?_) zz; subst zz) | (clear_value zz; revert zz; intro _)) | with_reducible apply done_keeps | with_reducible apply stallCount_keeps | with_reducible apply endWait_keeps | with_reducible apply waitResolution_keeps | with_reducible apply takeTile_keeps | with_reducible apply keeps_ite | with_reducible apply keepsOut_ite | split)
theorem execTrycollect_keeps {s0 : State} (cell : Nat) (w : Word) (s : State) (h_s : Keeps s0 s) : KeepsOut s0 (execTrycollect cell w s) := by
  unfold execTrycollect
  repeat' (first | with_reducible assumption | with_reducible intro _ | fail_if_no_progress beta_reduce | (extract_lets +onlyGivenNames zz; first | (refine (fun (hx : Keeps s0 zz) => ?_) ?_ <;> [(clear_value zz; revert zz; intro _ _); subst zz]) | (refine (fun (hx : KeepsP s0 zz) => ?_) ?_ <;> [(clear_value zz; revert zz; intro _ _); subst zz]) | (refine (fun (hx : KeepsQ s0 zz) => ?_) ?_ <;> [(clear_value zz; revert zz; intro _ _); subst zz]) | (refine (fun (hx : KeepsO s0 zz) => ?_) ?_ <;> [(clear_value zz; revert zz; intro _ _); subst zz]) | (refine (fun (hx : KeepsE s0 zz) => ?_) ?_ <;> [(clear_value zz; revert zz; intro _ _); subst zz]) | (refine (fun (hx : Keeps s0 (Issue.s zz)) => ?_) ?_ <;> [(clear_value zz; revert zz; intro _ _); subst zz]) | (refine (fun (hx : Keeps s0 (StackRead.st zz)) => ?_) ?_ <;> [(clear_value zz; revert zz; intro _ _); subst zz]) | (refine (fun (hx : ∀ t, Keeps s0 t → Keeps s0 (zz t)) => ?_) ?_ <;> [(clear_value zz; revert zz; intro _ _); (subst zz; intro t ht; beta_reduce)]) | (refine (fun (hx : ∀ t, Keeps s0 (zz t)) => ?_) ?_ <;> [(clear_value zz; revert zz; intro _ _); (subst zz; intro t; beta_reduce)]) | (refine (fun (_ : Security) => ?_) zz; subst zz) | (clear_value zz; revert zz; intro _)) | with_reducible apply done_keeps | with_reducible apply goOn_keeps | with_reducible apply issueGated_keeps | with_reducible apply needHandle_keeps | with_reducible apply takeTile_keeps | with_reducible apply Issue.fault_keeps | with_reducible apply keeps_ite | with_reducible apply keepsOut_ite | split)
theorem deltaCount_keeps {s0 : State} (s : State) (w : Where) (insn : Word) (sent : Bool) (key : Bool) (h_s : Keeps s0 s) : Keeps s0 (deltaCount s w insn sent key) := by
  unfold deltaCount
  repeat' (first | with_reducible assumption | (extract_lets +onlyGivenNames zz; first | (refine (fun (hx : Keeps s0 zz) => ?_) ?_ <;> [(clear_value zz; revert zz; intro _ _); subst zz]) | (clear_value zz; revert zz; intro _)) | with_reducible apply bumpEv_keeps)
theorem execPost_keeps {s0 : State} (cell : Nat) (w : Word) (s : State) (h_s : Keeps s0 s) : KeepsOut s0 (execPost cell w s) := by
  unfold execPost
  repeat' (first | with_reducible assumption | with_reducible intro _ | fail_if_no_progress beta_reduce | (extract_lets +onlyGivenNames zz; first | (refine (fun (hx : Keeps s0 zz) => ?_) ?_ <;> [(clear_value zz; revert zz; intro _ _); subst zz]) | (refine (fun (hx : Keeps s0 (Issue.s zz)) => ?_) ?_ <;> [(clear_value zz; revert zz; intro _ _); subst zz]) | (clear_value zz; revert zz; intro _)) | with_reducible apply done_keeps | with_reducible apply modStation_keeps | with_reducible refine deltaView_keeps _ _ _ _ (by with_reducible assumption) ?_ | with_reducible apply deltaApply_keeps | with_reducible apply goOn_keeps | with_reducible apply startWait_keeps | with_reducible apply resourceWait_keeps | with_reducible apply issue_keeps | with_reducible apply needHandle_keeps | with_reducible apply deltaCount_keeps | with_reducible apply Issue.fault_keeps | with_reducible apply keeps_ite | with_reducible apply keepsOut_ite | split)
theorem postProvisional_keeps {s0 : State} (s : State) (w : Where) (si : Nat) (r : StreamRec) (x : Stream) (t : Tile) (h_s : Keeps s0 s) : Keeps s0 (postProvisional s w si r x t) := by
  unfold postProvisional
  repeat' (first | with_reducible assumption | (extract_lets +onlyGivenNames zz; first | (refine (fun (hx : Keeps s0 zz) => ?_) ?_ <;> [(clear_value zz; revert zz; intro _ _); subst zz]) | (clear_value zz; revert zz; intro _)) | with_reducible apply modStream_keeps | with_reducible apply completion_keeps | with_reducible apply launch_keeps | with_reducible apply keeps_ite)
theorem postPlain_keeps {s0 : State} (s : State) (w : Where) (si : Nat) (r : StreamRec) (x : Stream) (t : Tile) (h_s : Keeps s0 s) : Keeps s0 (postPlain s w si r x t) := by
  unfold postPlain
  repeat' (first | with_reducible assumption | (extract_lets +onlyGivenNames zz; first | (refine (fun (hx : Keeps s0 zz) => ?_) ?_ <;> [(clear_value zz; revert zz; intro _ _); subst zz]) | (clear_value zz; revert zz; intro _)) | with_reducible apply modStream_keeps | with_reducible apply completion_keeps | with_reducible apply launch_keeps | with_reducible apply collPost_keeps | with_reducible apply keeps_ite)
theorem execPostFirstHopAccept_keeps {s0 : State} (first : FirstHop) (s : State) (h_s : Keeps s0 s) : KeepsOut s0 (execPostFirstHopAccept first s) := by
  unfold execPostFirstHopAccept
  repeat' (first | with_reducible assumption | (extract_lets +onlyGivenNames zz; first | (refine (fun (hx : Keeps s0 zz) => ?_) ?_ <;> [(clear_value zz; revert zz; intro _ _); subst zz]) | (refine (fun (hx : Keeps s0 (DeltaView.st zz)) => ?_) ?_ <;> [(clear_value zz; revert zz; intro _ _); subst zz]) | (clear_value zz; revert zz; intro _)) | with_reducible apply done_keeps | with_reducible apply hopCounts_keeps | (with_reducible refine deltaView_keeps _ _ _ _ (by with_reducible assumption) ?_) | with_reducible apply deltaApply_keeps | with_reducible apply arithEvents_keeps | with_reducible apply endWait_keeps | with_reducible apply deltaCount_keeps | with_reducible apply postProvisional_keeps | with_reducible apply postPlain_keeps | with_reducible apply keeps_ite | with_reducible apply keepsOut_ite | with_reducible apply keepsP_ite | with_reducible apply keepsQ_ite | split)
theorem execEndctl_keeps {s0 : State} (cell : Nat) (w : Word) (s : State) (h_s : Keeps s0 s) : KeepsOut s0 (execEndctl cell w s) := by
  unfold execEndctl
  repeat' (first | with_reducible assumption | with_reducible intro _ | fail_if_no_progress beta_reduce | (extract_lets +onlyGivenNames zz; first | (refine (fun (hx : Keeps s0 zz) => ?_) ?_ <;> [(clear_value zz; revert zz; intro _ _); subst zz]) | (clear_value zz; revert zz; intro _)) | with_reducible apply done_keeps | with_reducible apply scratchFound_keeps | with_reducible apply goOn_keeps | with_reducible apply issue_keeps | with_reducible apply Issue.fault_keeps | with_reducible apply keeps_ite)
theorem execEndstat_keeps {s0 : State} (cell : Nat) (w : Word) (s : State) (h_s : Keeps s0 s) : KeepsOut s0 (execEndstat cell w s) := by
  unfold execEndstat
  repeat' (first | with_reducible assumption | with_reducible intro _ | fail_if_no_progress beta_reduce | (extract_lets +onlyGivenNames zz; first | (clear_value zz; revert zz; intro _)) | with_reducible apply done_keeps | with_reducible apply takeFree_keeps | with_reducible apply issue_keeps | with_reducible apply setGd_keeps | with_reducible apply Issue.fault_keeps | with_reducible apply keeps_ite | with_reducible apply keepsOut_ite | split | with_reducible apply keepsOut_next | with_reducible apply keeps_fst (by assumption) | with_reducible apply keeps_snd (by assumption) | with_reducible apply keeps_some (by assumption) | with_reducible apply keeps_okE (by assumption) | with_reducible apply KeepsP_fst | with_reducible apply KeepsQ_snd)
theorem execStreamStallLimit_keeps {s0 : State} (cell : Nat) (s : State) (h_s : Keeps s0 s) : KeepsOut s0 (execStreamStallLimit cell s) := by
  unfold execStreamStallLimit
  repeat' (first | with_reducible assumption | (extract_lets +onlyGivenNames zz; first | (refine (fun (hx : Keeps s0 zz) => ?_) ?_ <;> [(clear_value zz; revert zz; intro _ _); subst zz]) | (refine (fun (hx : KeepsP s0 zz) => ?_) ?_ <;> [(clear_value zz; revert zz; intro _ _); subst zz]) | (refine (fun (hx : KeepsQ s0 zz) => ?_) ?_ <;> [(clear_value zz; revert zz; intro _ _); subst zz]) | (refine (fun (hx : KeepsO s0 zz) => ?_) ?_ <;> [(clear_value zz; revert zz; intro _ _); subst zz]) | (refine (fun (hx : KeepsE s0 zz) => ?_) ?_ <;> [(clear_value zz; revert zz; intro _ _); subst zz]) | (refine (fun (hx : Keeps s0 (Issue.s zz)) => ?_) ?_ <;> [(clear_value zz; revert zz; intro _ _); subst zz]) | (refine (fun (hx : Keeps s0 (StackRead.st zz)) => ?_) ?_ <;> [(clear_value zz; revert zz; intro _ _); subst zz]) | (refine (fun (hx : ∀ t, Keeps s0 t → Keeps s0 (zz t)) => ?_) ?_ <;> [(clear_value zz; revert zz; intro _ _); (subst zz; intro t ht; beta_reduce)]) | (refine (fun (hx : ∀ t, Keeps s0 (zz t)) => ?_) ?_ <;> [(clear_value zz; revert zz; intro _ _); (subst zz; intro t; beta_reduce)]) | (refine (fun (_ : Security) => ?_) zz; subst zz) | (clear_value zz; revert zz; intro _)) | with_reducible apply done_keeps | with_reducible apply report_keeps | with_reducible apply modStation_keeps | with_reducible apply keeps_ite | with_reducible apply keepsOut_ite | split)

end Sys2Proof.Machine
end

