-- ==== Sys2Proof/Laws/KeepsStackInsn.lean ====
section
/-!
SUPPORT. What the operations of Machine/StackInsn keep (see Laws/Keeps).
-/
namespace Sys2Proof.Machine
open Sys2Proof

theorem needRegion_keeps {s0 : State} (i : Issue) (k : Nat) (slot : Nat) (write : Bool) (body : Nat → RegionRec → State) (h_i : Keeps s0 i.s) (h_body : ∀ x0 x1, Keeps s0 (body x0 x1)) : Keeps s0 (needRegion i k slot write body) := by
  unfold needRegion
  repeat' (first | with_reducible assumption | with_reducible intro _ | fail_if_no_progress beta_reduce | (extract_lets +onlyGivenNames zz; first | (refine (fun (hx : Keeps s0 zz) => ?_) ?_ <;> [(clear_value zz; revert zz; intro _ _); subst zz]) | (refine (fun (hx : KeepsP s0 zz) => ?_) ?_ <;> [(clear_value zz; revert zz; intro _ _); subst zz]) | (refine (fun (hx : KeepsQ s0 zz) => ?_) ?_ <;> [(clear_value zz; revert zz; intro _ _); subst zz]) | (refine (fun (hx : KeepsO s0 zz) => ?_) ?_ <;> [(clear_value zz; revert zz; intro _ _); subst zz]) | (refine (fun (hx : KeepsE s0 zz) => ?_) ?_ <;> [(clear_value zz; revert zz; intro _ _); subst zz]) | (refine (fun (hx : Keeps s0 (Issue.s zz)) => ?_) ?_ <;> [(clear_value zz; revert zz; intro _ _); subst zz]) | (refine (fun (hx : Keeps s0 (StackRead.st zz)) => ?_) ?_ <;> [(clear_value zz; revert zz; intro _ _); subst zz]) | (refine (fun (hx : ∀ t, Keeps s0 t → Keeps s0 (zz t)) => ?_) ?_ <;> [(clear_value zz; revert zz; intro _ hloc); (subst zz; intro t ht; beta_reduce)]) | (refine (fun (hx : ∀ t, Keeps s0 (zz t)) => ?_) ?_ <;> [(clear_value zz; revert zz; intro _ hloc); (subst zz; intro t; beta_reduce)]) | (refine (fun (_ : Security) => ?_) zz; subst zz) | (clear_value zz; revert zz; intro _)) | with_reducible apply h_body | with_reducible apply Issue.fault_keeps | with_reducible apply keeps_ite | split)
theorem needSlot_keeps {s0 : State} (i : Issue) (write : Bool) (body : Nat → Nat → State) (h_i : Keeps s0 i.s) (h_body : ∀ x0 x1, Keeps s0 (body x0 x1)) : Keeps s0 (needSlot i write body) := by
  unfold needSlot
  repeat' (first | with_reducible assumption | with_reducible intro _ | fail_if_no_progress beta_reduce | (extract_lets +onlyGivenNames zz; first | (clear_value zz; revert zz; intro _)) | with_reducible apply h_body | with_reducible apply needRegion_keeps | with_reducible apply Issue.fault_keeps | with_reducible apply keeps_ite)
theorem enterStack_keeps {s0 : State} (i : Issue) (o : StackOp) (h_i : Keeps s0 i.s) : Keeps s0 (enterStack i o) := by
  unfold enterStack
  repeat' (first | with_reducible assumption | (extract_lets +onlyGivenNames zz; first | (refine (fun (hx : Keeps s0 zz) => ?_) ?_ <;> [(clear_value zz; revert zz; intro _ _); subst zz]) | (clear_value zz; revert zz; intro _)) | with_reducible apply bumpEv_keeps | with_reducible apply goOn_keeps | with_reducible apply Issue.fault_keeps | with_reducible apply keeps_ite)
theorem execFetch_keeps {s0 : State} (cell : Nat) (w : Word) (s : State) (h_s : Keeps s0 s) : KeepsOut s0 (execFetch cell w s) := by
  unfold execFetch
  repeat' (first | with_reducible assumption | with_reducible intro _ | fail_if_no_progress beta_reduce | with_reducible apply done_keeps | with_reducible apply issue_keeps | with_reducible apply needHandle_keeps | with_reducible apply needSlot_keeps | with_reducible apply enterStack_keeps)
theorem execStash_keeps {s0 : State} (cell : Nat) (w : Word) (s : State) (h_s : Keeps s0 s) : KeepsOut s0 (execStash cell w s) := by
  unfold execStash
  repeat' (first | with_reducible assumption | with_reducible intro _ | fail_if_no_progress beta_reduce | (extract_lets +onlyGivenNames zz; first | (refine (fun (hx : Keeps s0 (Issue.s zz)) => ?_) ?_ <;> [(clear_value zz; revert zz; intro _ _); subst zz]) | (clear_value zz; revert zz; intro _)) | with_reducible apply done_keeps | with_reducible apply modStation_keeps | with_reducible apply issueGated_keeps | with_reducible apply needHandle_keeps | with_reducible apply needSlot_keeps | with_reducible apply enterStack_keeps)
theorem execRadd_keeps {s0 : State} (cell : Nat) (w : Word) (s : State) (h_s : Keeps s0 s) : KeepsOut s0 (execRadd cell w s) := by
  unfold execRadd
  repeat' (first | with_reducible assumption | with_reducible intro _ | fail_if_no_progress beta_reduce | (extract_lets +onlyGivenNames zz; first | (clear_value zz; revert zz; intro _)) | with_reducible apply done_keeps | with_reducible apply issueGated_keeps | with_reducible apply needHandle_keeps | with_reducible apply needSlot_keeps | with_reducible apply enterStack_keeps | with_reducible apply Issue.fault_keeps | with_reducible apply keeps_ite)
theorem needClean_keeps {s0 : State} (i : Issue) (a : Nat) (n : Nat) (k : Unit → State) (h_i : Keeps s0 i.s) (h_k : ∀ x0, Keeps s0 (k x0)) : Keeps s0 (needClean i a n k) := by
  unfold needClean
  repeat' (first | with_reducible assumption | with_reducible intro _ | fail_if_no_progress beta_reduce | (extract_lets +onlyGivenNames zz; first | (refine (fun (hx : Keeps s0 zz) => ?_) ?_ <;> [(clear_value zz; revert zz; intro _ _); subst zz]) | (refine (fun (hx : KeepsP s0 zz) => ?_) ?_ <;> [(clear_value zz; revert zz; intro _ _); subst zz]) | (refine (fun (hx : KeepsQ s0 zz) => ?_) ?_ <;> [(clear_value zz; revert zz; intro _ _); subst zz]) | (refine (fun (hx : KeepsO s0 zz) => ?_) ?_ <;> [(clear_value zz; revert zz; intro _ _); subst zz]) | (refine (fun (hx : KeepsE s0 zz) => ?_) ?_ <;> [(clear_value zz; revert zz; intro _ _); subst zz]) | (refine (fun (hx : Keeps s0 (Issue.s zz)) => ?_) ?_ <;> [(clear_value zz; revert zz; intro _ _); subst zz]) | (refine (fun (hx : Keeps s0 (StackRead.st zz)) => ?_) ?_ <;> [(clear_value zz; revert zz; intro _ _); subst zz]) | (refine (fun (hx : ∀ t, Keeps s0 t → Keeps s0 (zz t)) => ?_) ?_ <;> [(clear_value zz; revert zz; intro _ hloc); (subst zz; intro t ht; beta_reduce)]) | (refine (fun (hx : ∀ t, Keeps s0 (zz t)) => ?_) ?_ <;> [(clear_value zz; revert zz; intro _ hloc); (subst zz; intro t; beta_reduce)]) | (refine (fun (_ : Security) => ?_) zz; subst zz) | (clear_value zz; revert zz; intro _)) | with_reducible apply h_k | with_reducible apply Issue.fault_keeps | with_reducible apply keeps_ite | split)
theorem needDesc_keeps {s0 : State} (i : Issue) (k : Nat → Desc → List Nat → State) (h_i : Keeps s0 i.s) (h_k : ∀ x0 x1 x2, Keeps s0 (k x0 x1 x2)) : Keeps s0 (needDesc i k) := by
  unfold needDesc
  repeat' (first | with_reducible assumption | with_reducible intro _ | fail_if_no_progress beta_reduce | (extract_lets +onlyGivenNames zz; first | (clear_value zz; revert zz; intro _)) | with_reducible apply h_k | with_reducible apply needScratch_keeps | with_reducible apply needClean_keeps | with_reducible apply keeps_ite)
theorem execGather_keeps {s0 : State} (cell : Nat) (w : Word) (s : State) (h_s : Keeps s0 s) : KeepsOut s0 (execGather cell w s) := by
  unfold execGather
  repeat' (first | with_reducible assumption | with_reducible intro _ | fail_if_no_progress beta_reduce | (extract_lets +onlyGivenNames zz; first | (clear_value zz; revert zz; intro _)) | with_reducible apply done_keeps | with_reducible apply issue_keeps | with_reducible apply needHandle_keeps | with_reducible apply needRegion_keeps | with_reducible apply enterStack_keeps | with_reducible apply needDesc_keeps | with_reducible apply Issue.fault_keeps | with_reducible apply keeps_ite | with_reducible apply keepsOut_ite | split)
theorem execScatter_keeps {s0 : State} (cell : Nat) (w : Word) (s : State) (h_s : Keeps s0 s) : KeepsOut s0 (execScatter cell w s) := by
  unfold execScatter
  repeat' (first | with_reducible assumption | with_reducible intro _ | fail_if_no_progress beta_reduce | (extract_lets +onlyGivenNames zz; first | (clear_value zz; revert zz; intro _)) | with_reducible apply done_keeps | with_reducible apply issueGated_keeps | with_reducible apply needHandle_keeps | with_reducible apply needRegion_keeps | with_reducible apply enterStack_keeps | with_reducible apply needDesc_keeps | with_reducible apply Issue.fault_keeps | with_reducible apply keeps_ite | with_reducible apply keepsOut_ite | split)
theorem dieConvert_keeps {s0 : State} (s : State) (n : Nat) (fn : Nat) (t : Tile) (h_s : Keeps s0 s) : KeepsP s0 (dieConvert s n fn t) := by
  unfold dieConvert
  repeat' (first | with_reducible assumption | (extract_lets +onlyGivenNames zz; first | (refine (fun (hx : Keeps s0 zz) => ?_) ?_ <;> [(clear_value zz; revert zz; intro _ _); subst zz]) | (refine (fun (hx : KeepsP s0 zz) => ?_) ?_ <;> [(clear_value zz; revert zz; intro _ _); subst zz]) | (refine (fun (hx : KeepsQ s0 zz) => ?_) ?_ <;> [(clear_value zz; revert zz; intro _ _); subst zz]) | (refine (fun (hx : KeepsO s0 zz) => ?_) ?_ <;> [(clear_value zz; revert zz; intro _ _); subst zz]) | (refine (fun (hx : KeepsE s0 zz) => ?_) ?_ <;> [(clear_value zz; revert zz; intro _ _); subst zz]) | (refine (fun (hx : Keeps s0 (Issue.s zz)) => ?_) ?_ <;> [(clear_value zz; revert zz; intro _ _); subst zz]) | (refine (fun (hx : Keeps s0 (StackRead.st zz)) => ?_) ?_ <;> [(clear_value zz; revert zz; intro _ _); subst zz]) | (refine (fun (hx : ∀ t, Keeps s0 t → Keeps s0 (zz t)) => ?_) ?_ <;> [(clear_value zz; revert zz; intro _ hloc); (subst zz; intro t ht; beta_reduce)]) | (refine (fun (hx : ∀ t, Keeps s0 (zz t)) => ?_) ?_ <;> [(clear_value zz; revert zz; intro _ hloc); (subst zz; intro t; beta_reduce)]) | (refine (fun (_ : Security) => ?_) zz; subst zz) | (clear_value zz; revert zz; intro _)) | with_reducible apply stkEvent_keeps | with_reducible apply keeps_ite | with_reducible apply keepsP_ite | split | with_reducible apply keepsP_mk)
theorem stackEffect_keeps {s0 : State} (s : State) (slot : Nat) (idx : Nat) (st : Station) (o : StackOp) (p : Placed) (way : Tile → Tile) (h_s : Keeps s0 s) : Keeps s0 (stackEffect s slot idx st o p way) := by
  unfold stackEffect
  repeat' (first | with_reducible assumption | (extract_lets +onlyGivenNames zz; first | (clear_value zz; revert zz; intro _)) | with_reducible apply modStation_keeps | with_reducible apply stackTile_keeps | with_reducible apply stackPutTile_keeps | with_reducible apply raddAt_keeps | with_reducible apply gatherAt_keeps | with_reducible apply scatterAt_keeps | with_reducible apply dieConvert_keeps | with_reducible apply keeps_ite | split | with_reducible apply keeps_fst (by assumption) | with_reducible apply keeps_snd (by assumption) | with_reducible apply keeps_some (by assumption) | with_reducible apply keeps_okE (by assumption) | with_reducible apply KeepsP_fst)
theorem execStackAccessComplete_keeps {s0 : State} (cell : Nat) (k : Nat) (acts : List (Nat × Nat)) (trip : StackTrip) (s : State) (h_s : Keeps s0 s) : KeepsOut s0 (execStackAccessComplete cell k acts trip s) := by
  unfold execStackAccessComplete
  repeat' (first | with_reducible assumption | (extract_lets +onlyGivenNames zz; first | (refine (fun (hx : Keeps s0 zz) => ?_) ?_ <;> [(clear_value zz; revert zz; intro _ _); subst zz]) | (refine (fun (hx : ∀ t, Keeps s0 t → Keeps s0 (zz t)) => ?_) ?_ <;> [(clear_value zz; revert zz; intro _ hloc); (subst zz; intro t ht; beta_reduce)])) | with_reducible apply hloc | with_reducible apply done_keeps | with_reducible apply modStation_keeps | with_reducible apply stkEvent_keeps | with_reducible apply activate_keeps | with_reducible apply hopCounts_keeps | with_reducible apply stackEffect_keeps | with_reducible apply keeps_ite | with_reducible apply keepsOut_ite | with_reducible apply keepsP_ite | with_reducible apply keepsQ_ite | (with_reducible refine keeps_foldl ?_ (fun _ _ _ => ?_) <;> beta_reduce) | (with_reducible refine keepsP_foldl ?_ (fun _ _ _ => ?_) <;> beta_reduce) | split)
theorem execSfence_keeps {s0 : State} (cell : Nat) (w : Word) (s : State) (h_s : Keeps s0 s) : KeepsOut s0 (execSfence cell w s) := by
  unfold execSfence
  repeat' (first | with_reducible assumption | with_reducible intro _ | fail_if_no_progress beta_reduce | with_reducible apply done_keeps | with_reducible apply goOn_keeps | with_reducible apply startWait_keeps | with_reducible apply issue_keeps | with_reducible apply keeps_ite)
theorem execSfenceComplete_keeps {s0 : State} (cell : Nat) (s : State) (h_s : Keeps s0 s) : KeepsOut s0 (execSfenceComplete cell s) := by
  unfold execSfenceComplete
  repeat' (first | with_reducible assumption | (extract_lets +onlyGivenNames zz; first | (refine (fun (hx : Keeps s0 zz) => ?_) ?_ <;> [(clear_value zz; revert zz; intro _ _); subst zz]) | (refine (fun (hx : KeepsP s0 zz) => ?_) ?_ <;> [(clear_value zz; revert zz; intro _ _); subst zz]) | (refine (fun (hx : KeepsQ s0 zz) => ?_) ?_ <;> [(clear_value zz; revert zz; intro _ _); subst zz]) | (refine (fun (hx : KeepsO s0 zz) => ?_) ?_ <;> [(clear_value zz; revert zz; intro _ _); subst zz]) | (refine (fun (hx : KeepsE s0 zz) => ?_) ?_ <;> [(clear_value zz; revert zz; intro _ _); subst zz]) | (refine (fun (hx : Keeps s0 (Issue.s zz)) => ?_) ?_ <;> [(clear_value zz; revert zz; intro _ _); subst zz]) | (refine (fun (hx : Keeps s0 (StackRead.st zz)) => ?_) ?_ <;> [(clear_value zz; revert zz; intro _ _); subst zz]) | (refine (fun (hx : ∀ t, Keeps s0 t → Keeps s0 (zz t)) => ?_) ?_ <;> [(clear_value zz; revert zz; intro _ hloc); (subst zz; intro t ht; beta_reduce)]) | (refine (fun (hx : ∀ t, Keeps s0 (zz t)) => ?_) ?_ <;> [(clear_value zz; revert zz; intro _ hloc); (subst zz; intro t; beta_reduce)]) | (refine (fun (_ : Security) => ?_) zz; subst zz) | (clear_value zz; revert zz; intro _)) | with_reducible apply done_keeps | with_reducible apply endWait_keeps | with_reducible apply keeps_ite | with_reducible apply keepsOut_ite | split)

end Sys2Proof.Machine
end

