-- ==== Sys2Proof/Laws/KeepsTallyInsn.lean ====
section
/-!
SUPPORT. What the operations of Machine/TallyInsn keep (see Laws/Keeps).
-/
namespace Sys2Proof.Machine
open Sys2Proof

theorem needTally_keeps {s0 : State} (i : Issue) (k : Nat → Tally → State) (h_i : Keeps s0 i.s) (h_k : ∀ x0 x1, Keeps s0 (k x0 x1)) : Keeps s0 (needTally i k) := by
  unfold needTally
  repeat' (first | with_reducible assumption | with_reducible intro _ | fail_if_no_progress beta_reduce | (extract_lets +onlyGivenNames zz; first | (clear_value zz; revert zz; intro _)) | with_reducible apply h_k | with_reducible apply Issue.fault_keeps | with_reducible apply keeps_ite | split)
theorem tallyWaitBody_keeps {s0 : State} (op : TallyOp) (i : Issue) (h_i : Keeps s0 i.s) : Keeps s0 (tallyWaitBody op i) := by
  unfold tallyWaitBody
  repeat' (first | with_reducible assumption | with_reducible intro _ | fail_if_no_progress beta_reduce | (extract_lets +onlyGivenNames zz; first | (refine (fun (hx : Keeps s0 zz) => ?_) ?_ <;> [(clear_value zz; revert zz; intro _ _); subst zz]) | (refine (fun (hx : KeepsP s0 zz) => ?_) ?_ <;> [(clear_value zz; revert zz; intro _ _); subst zz]) | (refine (fun (hx : KeepsQ s0 zz) => ?_) ?_ <;> [(clear_value zz; revert zz; intro _ _); subst zz]) | (refine (fun (hx : KeepsO s0 zz) => ?_) ?_ <;> [(clear_value zz; revert zz; intro _ _); subst zz]) | (refine (fun (hx : KeepsE s0 zz) => ?_) ?_ <;> [(clear_value zz; revert zz; intro _ _); subst zz]) | (refine (fun (hx : Keeps s0 (Issue.s zz)) => ?_) ?_ <;> [(clear_value zz; revert zz; intro _ _); subst zz]) | (refine (fun (hx : Keeps s0 (StackRead.st zz)) => ?_) ?_ <;> [(clear_value zz; revert zz; intro _ _); subst zz]) | (refine (fun (hx : ∀ t, Keeps s0 t → Keeps s0 (zz t)) => ?_) ?_ <;> [(clear_value zz; revert zz; intro _ hloc); (subst zz; intro t ht; beta_reduce)]) | (refine (fun (hx : ∀ t, Keeps s0 (zz t)) => ?_) ?_ <;> [(clear_value zz; revert zz; intro _ hloc); (subst zz; intro t; beta_reduce)]) | (refine (fun (_ : Security) => ?_) zz; subst zz) | (clear_value zz; revert zz; intro _)) | with_reducible apply modStation_keeps | with_reducible apply startWait_keeps | with_reducible apply needTally_keeps)
theorem localAnswer_keeps {s0 : State} (i : Issue) (s : State) (h_i : Keeps s0 i.s) (h_s : Keeps s0 s) : Keeps s0 (localAnswer i s) := by
  unfold localAnswer
  repeat' (first | with_reducible assumption | (extract_lets +onlyGivenNames zz; first | (refine (fun (hx : Keeps s0 zz) => ?_) ?_ <;> [(clear_value zz; revert zz; intro _ _); subst zz]) | (clear_value zz; revert zz; intro _)) | with_reducible apply modStation_keeps | with_reducible apply stationFault_keeps | with_reducible apply goOn_keeps | with_reducible apply keeps_ite | split)
theorem tallySendBody_keeps {s0 : State} (op : TallyOp) (i : Issue) (h_i : Keeps s0 i.s) : Keeps s0 (tallySendBody op i) := by
  unfold tallySendBody
  repeat' (first | with_reducible assumption | with_reducible intro _ | fail_if_no_progress beta_reduce | (extract_lets +onlyGivenNames zz; first | (refine (fun (hx : Keeps s0 zz) => ?_) ?_ <;> [(clear_value zz; revert zz; intro _ _); subst zz]) | (clear_value zz; revert zz; intro _)) | with_reducible apply modStation_keeps | with_reducible apply tallyApply_keeps | with_reducible apply goOn_keeps | with_reducible apply needTally_keeps | with_reducible apply localAnswer_keeps | with_reducible apply keeps_ite)
theorem execTgive_keeps {s0 : State} (cell : Nat) (w : Word) (s : State) (h_s : Keeps s0 s) : KeepsOut s0 (execTgive cell w s) := by
  unfold execTgive
  repeat' (first | with_reducible assumption | with_reducible intro _ | fail_if_no_progress beta_reduce | with_reducible apply done_keeps | with_reducible apply issue_keeps | with_reducible apply tallySendBody_keeps)
theorem execTtake_keeps {s0 : State} (cell : Nat) (w : Word) (s : State) (h_s : Keeps s0 s) : KeepsOut s0 (execTtake cell w s) := by
  unfold execTtake
  repeat' (first | with_reducible assumption | with_reducible intro _ | fail_if_no_progress beta_reduce | with_reducible apply done_keeps | with_reducible apply issue_keeps | with_reducible apply tallyWaitBody_keeps)
theorem execTdebit_keeps {s0 : State} (cell : Nat) (w : Word) (s : State) (h_s : Keeps s0 s) : KeepsOut s0 (execTdebit cell w s) := by
  unfold execTdebit
  repeat' (first | with_reducible assumption | with_reducible intro _ | fail_if_no_progress beta_reduce | with_reducible apply done_keeps | with_reducible apply issue_keeps | with_reducible apply tallySendBody_keeps)
theorem execTwatch_keeps {s0 : State} (cell : Nat) (w : Word) (s : State) (h_s : Keeps s0 s) : KeepsOut s0 (execTwatch cell w s) := by
  unfold execTwatch
  repeat' (first | with_reducible assumption | with_reducible intro _ | fail_if_no_progress beta_reduce | with_reducible apply done_keeps | with_reducible apply issue_keeps | with_reducible apply tallyWaitBody_keeps)
theorem needRange_keeps {s0 : State} (i : Issue) (ok : Stream → Word → Word → Bool) (k : Nat → Word → Word → State) (h_i : Keeps s0 i.s) (h_k : ∀ x0 x1 x2, Keeps s0 (k x0 x1 x2)) : Keeps s0 (needRange i ok k) := by
  unfold needRange
  repeat' (first | with_reducible assumption | with_reducible intro _ | fail_if_no_progress beta_reduce | (extract_lets +onlyGivenNames zz; first | (clear_value zz; revert zz; intro _)) | with_reducible apply h_k | with_reducible apply Issue.fault_keeps | with_reducible apply keeps_ite | split)
theorem execConfirm_keeps {s0 : State} (cell : Nat) (w : Word) (s : State) (h_s : Keeps s0 s) : KeepsOut s0 (execConfirm cell w s) := by
  unfold execConfirm
  repeat' (first | with_reducible assumption | with_reducible intro _ | fail_if_no_progress beta_reduce | with_reducible apply done_keeps | with_reducible apply modStream_keeps | with_reducible apply resolveAll_keeps | with_reducible apply goOn_keeps | with_reducible apply issue_keeps | with_reducible apply needRange_keeps)
theorem execCancel_keeps {s0 : State} (cell : Nat) (w : Word) (s : State) (h_s : Keeps s0 s) : KeepsOut s0 (execCancel cell w s) := by
  unfold execCancel
  repeat' (first | with_reducible assumption | with_reducible intro _ | fail_if_no_progress beta_reduce | with_reducible apply done_keeps | with_reducible apply cancelRange_keeps | with_reducible apply goOn_keeps | with_reducible apply issue_keeps | with_reducible apply needRange_keeps)
theorem execStamp_keeps {s0 : State} (cell : Nat) (w : Word) (s : State) (h_s : Keeps s0 s) : KeepsOut s0 (execStamp cell w s) := by
  unfold execStamp
  repeat' (first | with_reducible assumption | with_reducible intro _ | fail_if_no_progress beta_reduce | with_reducible apply done_keeps | with_reducible apply issue_keeps | with_reducible apply setGd_keeps)
theorem execCtr_keeps {s0 : State} (cell : Nat) (w : Word) (s : State) (h_s : Keeps s0 s) : KeepsOut s0 (execCtr cell w s) := by
  unfold execCtr
  repeat' (first | with_reducible assumption | with_reducible intro _ | fail_if_no_progress beta_reduce | (extract_lets +onlyGivenNames zz; first | (clear_value zz; revert zz; intro _)) | with_reducible apply done_keeps | with_reducible apply issue_keeps | with_reducible apply setGd_keeps | with_reducible apply Issue.fault_keeps | with_reducible apply keeps_ite | with_reducible apply keepsOut_ite | split)
theorem execWaitt_keeps {s0 : State} (cell : Nat) (w : Word) (s : State) (h_s : Keeps s0 s) : KeepsOut s0 (execWaitt cell w s) := by
  unfold execWaitt
  repeat' (first | with_reducible assumption | with_reducible intro _ | fail_if_no_progress beta_reduce | with_reducible apply done_keeps | with_reducible apply goOn_keeps | with_reducible apply startWait_keeps | with_reducible apply issue_keeps | with_reducible apply keeps_ite)
theorem execWaittTimeReached_keeps {s0 : State} (cell : Nat) (s : State) (h_s : Keeps s0 s) : KeepsOut s0 (execWaittTimeReached cell s) := by
  unfold execWaittTimeReached
  repeat' (first | with_reducible assumption | (extract_lets +onlyGivenNames zz; first | (refine (fun (hx : Keeps s0 zz) => ?_) ?_ <;> [(clear_value zz; revert zz; intro _ _); subst zz]) | (refine (fun (hx : KeepsP s0 zz) => ?_) ?_ <;> [(clear_value zz; revert zz; intro _ _); subst zz]) | (refine (fun (hx : KeepsQ s0 zz) => ?_) ?_ <;> [(clear_value zz; revert zz; intro _ _); subst zz]) | (refine (fun (hx : KeepsO s0 zz) => ?_) ?_ <;> [(clear_value zz; revert zz; intro _ _); subst zz]) | (refine (fun (hx : KeepsE s0 zz) => ?_) ?_ <;> [(clear_value zz; revert zz; intro _ _); subst zz]) | (refine (fun (hx : Keeps s0 (Issue.s zz)) => ?_) ?_ <;> [(clear_value zz; revert zz; intro _ _); subst zz]) | (refine (fun (hx : Keeps s0 (StackRead.st zz)) => ?_) ?_ <;> [(clear_value zz; revert zz; intro _ _); subst zz]) | (refine (fun (hx : ∀ t, Keeps s0 t → Keeps s0 (zz t)) => ?_) ?_ <;> [(clear_value zz; revert zz; intro _ hloc); (subst zz; intro t ht; beta_reduce)]) | (refine (fun (hx : ∀ t, Keeps s0 (zz t)) => ?_) ?_ <;> [(clear_value zz; revert zz; intro _ hloc); (subst zz; intro t; beta_reduce)]) | (refine (fun (_ : Security) => ?_) zz; subst zz) | (clear_value zz; revert zz; intro _)) | with_reducible apply done_keeps | with_reducible apply endWait_keeps | with_reducible apply keeps_ite | with_reducible apply keepsOut_ite | split)

end Sys2Proof.Machine
end

