-- ==== Sys2Proof/Laws/KeepsMove.lean ====
section
/-!
SUPPORT. What the operations of Machine/Move keep (see Laws/Keeps).
-/
namespace Sys2Proof.Machine
open Sys2Proof

theorem scrubStation_keeps {s0 : State} (s : State) (slot : Nat) (idx : Nat) (h_s : Keeps s0 s) : Keeps s0 (scrubStation s slot idx) := by
  unfold scrubStation
  repeat' (first | with_reducible assumption | (extract_lets +onlyGivenNames zz; first | (refine (fun (hx : Keeps s0 zz) => ?_) ?_ <;> [(clear_value zz; revert zz; intro _ _); subst zz]) | (clear_value zz; revert zz; intro _)) | with_reducible apply hloc | with_reducible apply modBundle_keeps | with_reducible apply scratchFound_keeps | with_reducible apply keeps_ite | (with_reducible refine keeps_foldl ?_ (fun _ _ _ => ?_) <;> beta_reduce) | (with_reducible refine keepsP_foldl ?_ (fun _ _ _ => ?_) <;> beta_reduce) | split)
/-- Bytes carried into a memory keep it canonical (R573). -/
theorem Mem.carry_wf (src : Mem) (a n : Nat) {dst : Mem} (b : Nat) (h : dst.wf = true) : (src.carry a n dst b).wf = true := by
  have w := Mem.wf_iff.1 (Mem.wipe_wf b n h)
  have hf : ∀ {α β : Type} [DecidableEq α] {d : α} (g : SMap α → β → SMap α)
      (_ : ∀ m x, SMap.wf d m = true → SMap.wf d (g m x) = true) (l : List β) {m : SMap α}, SMap.wf d m = true →
      SMap.wf d (l.foldl g m) = true := by
    intro α β _ d g hg l
    induction l with
    | nil => intro m hm; exact hm
    | cons x l ih => intro m hm; exact ih (hg _ _ hm)
  rw [Mem.wf_iff]
  exact ⟨hf _ (fun _ _ hm => SMap.setD_wf _ _ hm) _ w.1, hf _ (fun _ _ hm => SMap.setD_wf _ _ hm) _ w.2⟩
theorem saveStation_keeps {s0 : State} (s : State) (slot : Nat) (idx : Nat) (h_s : Keeps s0 s) : Keeps s0 (saveStation s slot idx) := by
  unfold saveStation
  have h1 := scrubStation_keeps s slot idx h_s
  dsimp only
  split
  · exact h1
  · split
    · exact modStation_keeps _ _ _ _ h1
    · refine modStation_keeps _ _ _ _ (modStack_keeps _ _ _ (openRows_keeps _ _ _ _ h1) (fun _ k hk => ?_))
      exact Mem.store_wf _ _ (Mem.carry_wf _ _ _ _ (Mem.foldl_wf (fun _ _ hm => Mem.writeSlot_wf _ _ hm) _ hk))
theorem restoreStation_keeps {s0 : State} (s : State) (slot : Nat) (idx : Nat) (cell : Nat) (h_s : Keeps s0 s) :
    Keeps s0 (restoreStation s slot idx cell) := by
  unfold restoreStation
  dsimp only
  split
  · exact h_s
  · split
    · exact modStation_keeps _ _ _ _ h_s
    · split
      · exact modStation_keeps _ _ _ _ h_s
      · rename_i k e
        exact modBundle_keeps _ _ _ (stackFound_keeps _ _ _ _ _ (openRows_keeps _ _ _ _ h_s)
          (fun w => Mem.poisonAll_wf _ (Mem.correct_wf _ _ (stackOf_wf (openRows_keeps _ _ _ _ h_s) e w))))
theorem mapGen_keeps {s0 : State} (s : State) (h_s : Keeps s0 s) : Keeps s0 (mapGen s) := by
  unfold mapGen
  repeat' (first | with_reducible assumption | with_reducible apply bumpFldAt_keeps)
theorem relocate_keeps {s0 : State} (s : State) (slot : Nat) (idx : Nat) (h_s : Keeps s0 s) : Keeps s0 (relocate s slot idx) := by
  unfold relocate
  repeat' (first | with_reducible assumption | (extract_lets +onlyGivenNames zz; first | (refine (fun (hx : Keeps s0 zz) => ?_) ?_ <;> [(clear_value zz; revert zz; intro _ _); subst zz]) | (clear_value zz; revert zz; intro _)) | with_reducible apply report_keeps | with_reducible apply modStation_keeps | with_reducible apply setEvent_keeps | with_reducible apply settle_keeps | with_reducible apply holdFor_keeps | with_reducible apply scrubStation_keeps | with_reducible apply mapGen_keeps | with_reducible apply keeps_ite | split)
theorem relocateAll_keeps {s0 : State} (s : State) (slot : Nat) (h_s : Keeps s0 s) : Keeps s0 (relocateAll s slot) := by
  unfold relocateAll
  repeat' (first | with_reducible assumption | (extract_lets +onlyGivenNames zz; first | (refine (fun (hx : Keeps s0 zz) => ?_) ?_ <;> [(clear_value zz; revert zz; intro _ _); subst zz]) | (refine (fun (hx : KeepsP s0 zz) => ?_) ?_ <;> [(clear_value zz; revert zz; intro _ _); subst zz]) | (refine (fun (hx : KeepsQ s0 zz) => ?_) ?_ <;> [(clear_value zz; revert zz; intro _ _); subst zz]) | (refine (fun (hx : KeepsO s0 zz) => ?_) ?_ <;> [(clear_value zz; revert zz; intro _ _); subst zz]) | (refine (fun (hx : KeepsE s0 zz) => ?_) ?_ <;> [(clear_value zz; revert zz; intro _ _); subst zz]) | (refine (fun (hx : Keeps s0 (Issue.s zz)) => ?_) ?_ <;> [(clear_value zz; revert zz; intro _ _); subst zz]) | (refine (fun (hx : Keeps s0 (StackRead.st zz)) => ?_) ?_ <;> [(clear_value zz; revert zz; intro _ _); subst zz]) | (refine (fun (hx : ∀ t, Keeps s0 t → Keeps s0 (zz t)) => ?_) ?_ <;> [(clear_value zz; revert zz; intro _ hloc); (subst zz; intro t ht; beta_reduce)]) | (refine (fun (hx : ∀ t, Keeps s0 (zz t)) => ?_) ?_ <;> [(clear_value zz; revert zz; intro _ hloc); (subst zz; intro t; beta_reduce)]) | (refine (fun (_ : Security) => ?_) zz; subst zz) | (clear_value zz; revert zz; intro _)) | with_reducible apply relocate_keeps | with_reducible apply keeps_ite | (with_reducible refine keeps_foldl ?_ (fun _ _ _ => ?_) <;> beta_reduce) | (with_reducible refine keepsP_foldl ?_ (fun _ _ _ => ?_) <;> beta_reduce) | split)
theorem drainPoint_keeps {s0 : State} (s : State) (slot : Nat) (idx : Nat) (h_s : Keeps s0 s) : Keeps s0 (drainPoint s slot idx) := by
  unfold drainPoint
  repeat' (first | with_reducible assumption | (extract_lets +onlyGivenNames zz; first | (refine (fun (hx : Keeps s0 zz) => ?_) ?_ <;> [(clear_value zz; revert zz; intro _ _); subst zz]) | (refine (fun (hx : KeepsP s0 zz) => ?_) ?_ <;> [(clear_value zz; revert zz; intro _ _); subst zz]) | (refine (fun (hx : KeepsQ s0 zz) => ?_) ?_ <;> [(clear_value zz; revert zz; intro _ _); subst zz]) | (refine (fun (hx : KeepsO s0 zz) => ?_) ?_ <;> [(clear_value zz; revert zz; intro _ _); subst zz]) | (refine (fun (hx : KeepsE s0 zz) => ?_) ?_ <;> [(clear_value zz; revert zz; intro _ _); subst zz]) | (refine (fun (hx : Keeps s0 (Issue.s zz)) => ?_) ?_ <;> [(clear_value zz; revert zz; intro _ _); subst zz]) | (refine (fun (hx : Keeps s0 (StackRead.st zz)) => ?_) ?_ <;> [(clear_value zz; revert zz; intro _ _); subst zz]) | (refine (fun (hx : ∀ t, Keeps s0 t → Keeps s0 (zz t)) => ?_) ?_ <;> [(clear_value zz; revert zz; intro _ hloc); (subst zz; intro t ht; beta_reduce)]) | (refine (fun (hx : ∀ t, Keeps s0 (zz t)) => ?_) ?_ <;> [(clear_value zz; revert zz; intro _ hloc); (subst zz; intro t; beta_reduce)]) | (refine (fun (_ : Security) => ?_) zz; subst zz) | (clear_value zz; revert zz; intro _)) | with_reducible apply modStation_keeps | with_reducible apply relocateAll_keeps | with_reducible apply keeps_ite | split)
theorem haltPoint_keeps {s0 : State} (s : State) (slot : Nat) (idx : Nat) (h_s : Keeps s0 s) : Keeps s0 (haltPoint s slot idx) := by
  unfold haltPoint
  repeat' (first | with_reducible assumption | (extract_lets +onlyGivenNames zz; first | (refine (fun (hx : Keeps s0 zz) => ?_) ?_ <;> [(clear_value zz; revert zz; intro _ _); subst zz])) | with_reducible apply report_keeps | with_reducible apply modBundle_keeps | with_reducible apply modStation_keeps | with_reducible apply relocateAll_keeps | with_reducible apply keeps_ite | split)
theorem execDrain_keeps {s0 : State} (cell : Nat) (w : Word) (s : State) (h_s : Keeps s0 s) : KeepsOut s0 (execDrain cell w s) := by
  unfold execDrain
  repeat' (first | with_reducible assumption | with_reducible intro _ | fail_if_no_progress beta_reduce | with_reducible apply done_keeps | with_reducible apply startWait_keeps | with_reducible apply issue_keeps | with_reducible apply drainPoint_keeps | with_reducible apply keeps_ite)
theorem execHalt_keeps {s0 : State} (cell : Nat) (w : Word) (s : State) (h_s : Keeps s0 s) : KeepsOut s0 (execHalt cell w s) := by
  unfold execHalt
  repeat' (first | with_reducible assumption | with_reducible intro _ | fail_if_no_progress beta_reduce | with_reducible apply done_keeps | with_reducible apply startWait_keeps | with_reducible apply issue_keeps | with_reducible apply haltPoint_keeps | with_reducible apply keeps_ite)
theorem execDrainPointReached_keeps {s0 : State} (cell : Nat) (s : State) (h_s : Keeps s0 s) : KeepsOut s0 (execDrainPointReached cell s) := by
  unfold execDrainPointReached
  repeat' (first | with_reducible assumption | (extract_lets +onlyGivenNames zz; first | (refine (fun (hx : Keeps s0 zz) => ?_) ?_ <;> [(clear_value zz; revert zz; intro _ _); subst zz]) | (refine (fun (hx : KeepsP s0 zz) => ?_) ?_ <;> [(clear_value zz; revert zz; intro _ _); subst zz]) | (refine (fun (hx : KeepsQ s0 zz) => ?_) ?_ <;> [(clear_value zz; revert zz; intro _ _); subst zz]) | (refine (fun (hx : KeepsO s0 zz) => ?_) ?_ <;> [(clear_value zz; revert zz; intro _ _); subst zz]) | (refine (fun (hx : KeepsE s0 zz) => ?_) ?_ <;> [(clear_value zz; revert zz; intro _ _); subst zz]) | (refine (fun (hx : Keeps s0 (Issue.s zz)) => ?_) ?_ <;> [(clear_value zz; revert zz; intro _ _); subst zz]) | (refine (fun (hx : Keeps s0 (StackRead.st zz)) => ?_) ?_ <;> [(clear_value zz; revert zz; intro _ _); subst zz]) | (refine (fun (hx : ∀ t, Keeps s0 t → Keeps s0 (zz t)) => ?_) ?_ <;> [(clear_value zz; revert zz; intro _ hloc); (subst zz; intro t ht; beta_reduce)]) | (refine (fun (hx : ∀ t, Keeps s0 (zz t)) => ?_) ?_ <;> [(clear_value zz; revert zz; intro _ hloc); (subst zz; intro t; beta_reduce)]) | (refine (fun (_ : Security) => ?_) zz; subst zz) | (clear_value zz; revert zz; intro _)) | with_reducible apply done_keeps | with_reducible apply drainPoint_keeps | with_reducible apply haltPoint_keeps | with_reducible apply keeps_ite | with_reducible apply keepsOut_ite | split)

end Sys2Proof.Machine
end

