-- ==== Sys2Proof/Laws/KeepsHop.lean ====
section
/-!
SUPPORT. What the operations of Machine/Hop keep (see Laws/Keeps).
-/
namespace Sys2Proof.Machine
open Sys2Proof

theorem sendTile_keeps {s0 : State} (s : State) (d : Nat) (cell : Nat) (dest : Nat) (vc : Nat) (notPort : Option Nat) (t : Tile) (h_s : Keeps s0 s) : KeepsO s0 (sendTile s d cell dest vc notPort t) := by
  unfold sendTile
  repeat' (first | with_reducible assumption | (extract_lets +onlyGivenNames zz; first | (refine (fun (hx : Keeps s0 zz) => ?_) ?_ <;> [(clear_value zz; revert zz; intro _ _); subst zz]) | (refine (fun (hx : KeepsP s0 zz) => ?_) ?_ <;> [(clear_value zz; revert zz; intro _ _); subst zz]) | (refine (fun (hx : KeepsQ s0 zz) => ?_) ?_ <;> [(clear_value zz; revert zz; intro _ _); subst zz]) | (refine (fun (hx : KeepsO s0 zz) => ?_) ?_ <;> [(clear_value zz; revert zz; intro _ _); subst zz]) | (refine (fun (hx : KeepsE s0 zz) => ?_) ?_ <;> [(clear_value zz; revert zz; intro _ _); subst zz]) | (refine (fun (hx : Keeps s0 (Issue.s zz)) => ?_) ?_ <;> [(clear_value zz; revert zz; intro _ _); subst zz]) | (refine (fun (hx : Keeps s0 (StackRead.st zz)) => ?_) ?_ <;> [(clear_value zz; revert zz; intro _ _); subst zz]) | (refine (fun (hx : Keeps s0 (DeltaView.st zz)) => ?_) ?_ <;> [(clear_value zz; revert zz; intro _ _); subst zz]) | (refine (fun (hx : ∀ t, Keeps s0 t → Keeps s0 (zz t)) => ?_) ?_ <;> [(clear_value zz; revert zz; intro _ hloc); (subst zz; intro t ht; beta_reduce)]) | (refine (fun (hx : ∀ t u, Keeps s0 t → Keeps s0 (zz t u)) => ?_) ?_ <;> [(clear_value zz; revert zz; intro _ hloc); (subst zz; intro t u ht; beta_reduce)]) | (refine (fun (hx : ∀ t, Keeps s0 (zz t)) => ?_) ?_ <;> [(clear_value zz; revert zz; intro _ hloc); (subst zz; intro t; beta_reduce)]) | (refine (fun (hx : ∀ t u, Keeps s0 (zz t u)) => ?_) ?_ <;> [(clear_value zz; revert zz; intro _ hloc); (subst zz; intro t u; beta_reduce)]) | (refine (fun (hx : ∀ t u v, Keeps s0 t → Keeps s0 (zz t u v)) => ?_) ?_ <;> [(clear_value zz; revert zz; intro _ hloc); (subst zz; intro t u v ht; beta_reduce)]) | (refine (fun (hx : ∀ t u v w, Keeps s0 t → Keeps s0 (zz t u v w)) => ?_) ?_ <;> [(clear_value zz; revert zz; intro _ hloc); (subst zz; intro t u v w ht; beta_reduce)]) | (refine (fun (_ : Security) => ?_) zz; subst zz) | (clear_value zz; revert zz; intro _)) | with_reducible apply queueFrom_keeps | with_reducible apply countAlt_keeps | with_reducible apply dlqAdd_keeps | with_reducible apply keeps_ite | with_reducible apply keepsO_ite | with_reducible apply keepsP_ite | with_reducible apply keepsQ_ite | split | with_reducible apply keepsP_mk | with_reducible apply keepsQ_mk | with_reducible apply keepsO_some | exact keepsO_none)
theorem deliver_keeps {s0 : State} (s : State) (v : StreamAt) (ci : Nat) (c : ConsumerRec) (e : ConsEnd) (t : Tile) (h_s : Keeps s0 s) : Keeps s0 (deliver s v ci c e t) := by
  unfold deliver
  repeat' (first | with_reducible assumption | (extract_lets +onlyGivenNames zz; first | (refine (fun (hx : ∀ t, Keeps s0 t → Keeps s0 (zz t)) => ?_) ?_ <;> [(clear_value zz; revert zz; intro _ hloc); (subst zz; intro t ht; beta_reduce)]) | (clear_value zz; revert zz; intro _)) | with_reducible apply hloc | with_reducible apply emit_keeps | with_reducible apply modStream_keeps | with_reducible apply enqueue_keeps | with_reducible apply sendTile_keeps | with_reducible apply keeps_ite | split | with_reducible apply keeps_fst (by assumption) | with_reducible apply keeps_snd (by assumption) | with_reducible apply keeps_some (by assumption))
theorem execTileHop_keeps {s0 : State} (slot : Nat) (stream : Nat) (cons : Nat) (last : Bool) (hop : HopInfo) (s : State) (h_s : Keeps s0 s) : KeepsOut s0 (execTileHop slot stream cons last hop s) := by
  unfold execTileHop
  repeat' (first | with_reducible assumption | (extract_lets +onlyGivenNames zz; first | (refine (fun (hx : Keeps s0 zz) => ?_) ?_ <;> [(clear_value zz; revert zz; intro _ _); subst zz]) | (clear_value zz; revert zz; intro _)) | with_reducible apply done_keeps | with_reducible apply modStream_keeps | with_reducible apply hopCounts_keeps | with_reducible apply deliver_keeps | with_reducible apply keeps_ite | with_reducible apply keepsOut_ite | split)
theorem popArrival_keeps {s0 : State} (s : State) (link : Nat) (a : Arrival) (h_s : Keeps s0 s) : Keeps s0 (popArrival s link a) := by
  unfold popArrival
  repeat' (first | with_reducible assumption | with_reducible apply modLink_keeps)
theorem orderTile_keeps {s0 : State} (s : State) (v : StreamAt) (t : Tile) (h_s : Keeps s0 s) : KeepsO s0 (orderTile s v t) := by
  unfold orderTile
  repeat' (first | with_reducible assumption | (extract_lets +onlyGivenNames zz; first | (refine (fun (hx : ∀ t u, Keeps s0 (zz t u)) => ?_) ?_ <;> [(clear_value zz; revert zz; intro _ hloc); (subst zz; intro t u; beta_reduce)])) | with_reducible apply hloc | with_reducible apply modStream_keeps | with_reducible apply keeps_ite | with_reducible apply keepsO_ite | split | with_reducible apply keepsO_some | exact keepsO_none)
theorem lostStream_keeps {s0 : State} (s : State) (port : Nat) (d : Nat) (t : Tile) (h_s : Keeps s0 s) : Keeps s0 (lostStream s port d t) := by
  unfold lostStream
  repeat' (first | with_reducible assumption | with_reducible apply dlqAdd_keeps | with_reducible apply keeps_ite | with_reducible apply keepsO_ite | with_reducible apply keepsP_ite | with_reducible apply keepsQ_ite | split)
theorem execRemoteTileArrival_keeps {s0 : State} (link : Nat) (vc : Nat) (s : State) (h_s : Keeps s0 s) : KeepsOut s0 (execRemoteTileArrival link vc s) := by
  unfold execRemoteTileArrival
  repeat' (first | with_reducible assumption | (extract_lets +onlyGivenNames zz; first | (refine (fun (hx : Keeps s0 zz) => ?_) ?_ <;> [(clear_value zz; revert zz; intro _ _); subst zz]) | (clear_value zz; revert zz; intro _)) | with_reducible apply done_keeps | with_reducible apply portEvent_keeps | with_reducible apply dlqAdd_keeps | with_reducible apply sendTile_keeps | with_reducible apply popArrival_keeps | with_reducible apply orderTile_keeps | with_reducible apply lostStream_keeps | with_reducible apply keeps_ite | with_reducible apply keepsOut_ite | with_reducible apply keepsP_ite | with_reducible apply keepsQ_ite | split | with_reducible apply keepsP_mk | with_reducible apply keepsOut_next | with_reducible apply keepsQ_mk | with_reducible apply keeps_fst (by assumption) | with_reducible apply keeps_snd (by assumption) | with_reducible apply keeps_some (by assumption))
theorem execStreamGapTimeout_keeps {s0 : State} (slot : Nat) (stream : Nat) (s : State) (h_s : Keeps s0 s) : KeepsOut s0 (execStreamGapTimeout slot stream s) := by
  unfold execStreamGapTimeout
  repeat' (first | with_reducible assumption | (extract_lets +onlyGivenNames zz; first | (refine (fun (hx : Keeps s0 zz) => ?_) ?_ <;> [(clear_value zz; revert zz; intro _ _); subst zz])) | with_reducible apply done_keeps | with_reducible apply report_keeps | with_reducible apply modStream_keeps | with_reducible apply holdFor_keeps | with_reducible apply keeps_ite | with_reducible apply keepsOut_ite | split)
theorem execHostTileAdmit_keeps {s0 : State} (tile : Tile) (s : State) (h_s : Keeps s0 s) : KeepsOut s0 (execHostTileAdmit tile s) := by
  unfold execHostTileAdmit
  repeat' (first | with_reducible assumption | (extract_lets +onlyGivenNames zz; first | (refine (fun (hx : Keeps s0 zz) => ?_) ?_ <;> [(clear_value zz; revert zz; intro _ _); subst zz]) | (clear_value zz; revert zz; intro _)) | with_reducible apply done_keeps | with_reducible apply emit_keeps | with_reducible apply report_keeps | with_reducible apply hubReport_keeps | with_reducible apply modBundle_keeps | with_reducible apply modStream_keeps | with_reducible apply bumpEv_keeps | with_reducible apply frameStart_keeps | with_reducible apply launch_keeps | with_reducible apply keeps_ite | with_reducible apply keepsOut_ite | split)
theorem execHostReceivePosted_keeps {s0 : State} (streamId : Word) (count : Nat) (s : State) (h_s : Keeps s0 s) : KeepsOut s0 (execHostReceivePosted streamId count s) := by
  unfold execHostReceivePosted
  repeat' (first | with_reducible assumption | (extract_lets +onlyGivenNames zz; first | (refine (fun (hx : Keeps s0 zz) => ?_) ?_ <;> [(clear_value zz; revert zz; intro _ _); subst zz]) | (refine (fun (hx : KeepsP s0 zz) => ?_) ?_ <;> [(clear_value zz; revert zz; intro _ _); subst zz]) | (refine (fun (hx : KeepsQ s0 zz) => ?_) ?_ <;> [(clear_value zz; revert zz; intro _ _); subst zz]) | (refine (fun (hx : KeepsO s0 zz) => ?_) ?_ <;> [(clear_value zz; revert zz; intro _ _); subst zz]) | (refine (fun (hx : KeepsE s0 zz) => ?_) ?_ <;> [(clear_value zz; revert zz; intro _ _); subst zz]) | (refine (fun (hx : Keeps s0 (Issue.s zz)) => ?_) ?_ <;> [(clear_value zz; revert zz; intro _ _); subst zz]) | (refine (fun (hx : Keeps s0 (StackRead.st zz)) => ?_) ?_ <;> [(clear_value zz; revert zz; intro _ _); subst zz]) | (refine (fun (hx : ∀ t, Keeps s0 t → Keeps s0 (zz t)) => ?_) ?_ <;> [(clear_value zz; revert zz; intro _ hloc); (subst zz; intro t ht; beta_reduce)]) | (refine (fun (hx : ∀ t u, Keeps s0 t → Keeps s0 (zz t u)) => ?_) ?_ <;> [(clear_value zz; revert zz; intro _ hloc); (subst zz; intro t u ht; beta_reduce)]) | (refine (fun (hx : ∀ t, Keeps s0 (zz t)) => ?_) ?_ <;> [(clear_value zz; revert zz; intro _ hloc); (subst zz; intro t; beta_reduce)]) | (refine (fun (hx : ∀ t u, Keeps s0 (zz t u)) => ?_) ?_ <;> [(clear_value zz; revert zz; intro _ hloc); (subst zz; intro t u; beta_reduce)]) | (refine (fun (_ : Security) => ?_) zz; subst zz) | (clear_value zz; revert zz; intro _)) | with_reducible apply done_keeps | with_reducible apply modStream_keeps | with_reducible apply keeps_ite | with_reducible apply keepsOut_ite | split)
theorem execRoceCnpReceived_keeps {s0 : State} (s : State) (h_s : Keeps s0 s) : KeepsOut s0 (execRoceCnpReceived s) := by
  unfold execRoceCnpReceived
  repeat' (first | with_reducible assumption | (extract_lets +onlyGivenNames zz; first | (refine (fun (hx : Keeps s0 zz) => ?_) ?_ <;> [(clear_value zz; revert zz; intro _ _); subst zz]) | (refine (fun (hx : KeepsP s0 zz) => ?_) ?_ <;> [(clear_value zz; revert zz; intro _ _); subst zz]) | (refine (fun (hx : KeepsQ s0 zz) => ?_) ?_ <;> [(clear_value zz; revert zz; intro _ _); subst zz]) | (refine (fun (hx : KeepsO s0 zz) => ?_) ?_ <;> [(clear_value zz; revert zz; intro _ _); subst zz]) | (refine (fun (hx : KeepsE s0 zz) => ?_) ?_ <;> [(clear_value zz; revert zz; intro _ _); subst zz]) | (refine (fun (hx : Keeps s0 (Issue.s zz)) => ?_) ?_ <;> [(clear_value zz; revert zz; intro _ _); subst zz]) | (refine (fun (hx : Keeps s0 (StackRead.st zz)) => ?_) ?_ <;> [(clear_value zz; revert zz; intro _ _); subst zz]) | (refine (fun (hx : ∀ t, Keeps s0 t → Keeps s0 (zz t)) => ?_) ?_ <;> [(clear_value zz; revert zz; intro _ hloc); (subst zz; intro t ht; beta_reduce)]) | (refine (fun (hx : ∀ t u, Keeps s0 t → Keeps s0 (zz t u)) => ?_) ?_ <;> [(clear_value zz; revert zz; intro _ hloc); (subst zz; intro t u ht; beta_reduce)]) | (refine (fun (hx : ∀ t, Keeps s0 (zz t)) => ?_) ?_ <;> [(clear_value zz; revert zz; intro _ hloc); (subst zz; intro t; beta_reduce)]) | (refine (fun (hx : ∀ t u, Keeps s0 (zz t u)) => ?_) ?_ <;> [(clear_value zz; revert zz; intro _ hloc); (subst zz; intro t u; beta_reduce)]) | (refine (fun (_ : Security) => ?_) zz; subst zz) | (clear_value zz; revert zz; intro _)) | with_reducible apply done_keeps | with_reducible apply takeFree_keeps | with_reducible apply keeps_ite | with_reducible apply keepsOut_ite | split | with_reducible apply keepsOut_next | with_reducible apply keeps_fst (by assumption) | with_reducible apply keeps_snd (by assumption) | with_reducible apply keeps_some (by assumption) | with_reducible apply keeps_okE (by assumption) | with_reducible apply KeepsP_fst | with_reducible apply KeepsQ_snd | fail_if_no_progress with_reducible refine keeps_mk rfl rfl rfl rfl ?_)
theorem execRdmaWriteStage_keeps {s0 : State} (stage : Nat) (rkeyOk : Bool) (offset : Nat) (data : List Byte) (s : State) (h_s : Keeps s0 s) : KeepsOut s0 (execRdmaWriteStage stage rkeyOk offset data s) := by
  unfold execRdmaWriteStage
  repeat' (first | with_reducible assumption | (extract_lets +onlyGivenNames zz; first | (refine (fun (hx : Keeps s0 zz) => ?_) ?_ <;> [(clear_value zz; revert zz; intro _ _); subst zz]) | (refine (fun (hx : KeepsP s0 zz) => ?_) ?_ <;> [(clear_value zz; revert zz; intro _ _); subst zz]) | (refine (fun (hx : KeepsQ s0 zz) => ?_) ?_ <;> [(clear_value zz; revert zz; intro _ _); subst zz]) | (refine (fun (hx : KeepsO s0 zz) => ?_) ?_ <;> [(clear_value zz; revert zz; intro _ _); subst zz]) | (refine (fun (hx : KeepsE s0 zz) => ?_) ?_ <;> [(clear_value zz; revert zz; intro _ _); subst zz]) | (refine (fun (hx : Keeps s0 (Issue.s zz)) => ?_) ?_ <;> [(clear_value zz; revert zz; intro _ _); subst zz]) | (refine (fun (hx : Keeps s0 (StackRead.st zz)) => ?_) ?_ <;> [(clear_value zz; revert zz; intro _ _); subst zz]) | (refine (fun (hx : ∀ t, Keeps s0 t → Keeps s0 (zz t)) => ?_) ?_ <;> [(clear_value zz; revert zz; intro _ hloc); (subst zz; intro t ht; beta_reduce)]) | (refine (fun (hx : ∀ t u, Keeps s0 t → Keeps s0 (zz t u)) => ?_) ?_ <;> [(clear_value zz; revert zz; intro _ hloc); (subst zz; intro t u ht; beta_reduce)]) | (refine (fun (hx : ∀ t, Keeps s0 (zz t)) => ?_) ?_ <;> [(clear_value zz; revert zz; intro _ hloc); (subst zz; intro t; beta_reduce)]) | (refine (fun (hx : ∀ t u, Keeps s0 (zz t u)) => ?_) ?_ <;> [(clear_value zz; revert zz; intro _ hloc); (subst zz; intro t u; beta_reduce)]) | (refine (fun (_ : Security) => ?_) zz; subst zz) | (clear_value zz; revert zz; intro _)) | with_reducible apply done_keeps | with_reducible apply keeps_ite | with_reducible apply keepsOut_ite | (with_reducible refine keeps_foldl ?_ (fun _ _ _ => ?_) <;> beta_reduce) | (with_reducible refine keepsP_foldl ?_ (fun _ _ _ => ?_) <;> beta_reduce) | split | with_reducible apply keepsOut_next | with_reducible apply keeps_fst (by assumption) | with_reducible apply keeps_snd (by assumption) | with_reducible apply keeps_some (by assumption) | with_reducible apply keeps_okE (by assumption) | with_reducible apply KeepsP_fst | with_reducible apply KeepsQ_snd | fail_if_no_progress with_reducible refine keeps_mk rfl rfl rfl rfl ?_)

end Sys2Proof.Machine
end

