-- ==== Sys2Proof/Laws/KeepsCounter.lean ====
section
/-!
SUPPORT. What the operations of Machine/Counter keep (see Laws/Keeps).
-/
namespace Sys2Proof.Machine
open Sys2Proof

theorem modSession_keeps {s0 : State} (s : State) (id : Nat) (f : Session → Session) (h_s : Keeps s0 s) : Keeps s0 (modSession s id f) := by
  unfold modSession
  repeat' (first | with_reducible assumption | with_reducible apply keeps_ite | split | with_reducible apply keeps_fst (by assumption) | with_reducible apply keeps_snd (by assumption) | with_reducible apply keeps_some (by assumption) | with_reducible apply keeps_okE (by assumption) | with_reducible apply KeepsP_fst | with_reducible apply KeepsQ_snd | fail_if_no_progress with_reducible refine keeps_mk rfl rfl rfl rfl ?_)
theorem finishReq_keeps {s0 : State} (s : State) (c : Caller) (status : Nat) (body : List Byte) (h_s : Keeps s0 s) : Keeps s0 (finishReq s c status body) := by
  unfold finishReq
  repeat' (first | with_reducible assumption | (extract_lets +onlyGivenNames zz; first | (refine (fun (hx : Keeps s0 zz) => ?_) ?_ <;> [(clear_value zz; revert zz; intro _ _); subst zz]) | (clear_value zz; revert zz; intro _)) | with_reducible apply emit_keeps | with_reducible apply modSession_keeps | with_reducible apply keeps_ite | split)
theorem answerOnly_keeps {s0 : State} (status : Nat) (a1 : State) (a2 : Caller) (a3 : List Byte) (h_a1 : Keeps s0 a1) : Keeps s0 (answerOnly status a1 a2 a3) := by
  unfold answerOnly
  repeat' (first | with_reducible assumption | with_reducible apply finishReq_keeps)
theorem malformed_keeps {s0 : State} (a1 : State) (a2 : Caller) (a3 : List Byte) (h_a1 : Keeps s0 a1) : Keeps s0 (malformed a1 a2 a3) := by
  unfold malformed
  repeat' (first | with_reducible assumption | with_reducible apply answerOnly_keeps)
theorem sized_keeps {s0 : State} (n : Nat) (f : State → Caller → List Byte → State) (a1 : State) (a2 : Caller) (a3 : List Byte) (h_f : ∀ x0 x1 x2, Keeps s0 x0 → Keeps s0 (f x0 x1 x2)) (h_a1 : Keeps s0 a1) : Keeps s0 (sized n f a1 a2 a3) := by
  unfold sized
  repeat' (first | with_reducible assumption | with_reducible intro _ | fail_if_no_progress beta_reduce | with_reducible apply h_f | with_reducible apply malformed_keeps | with_reducible apply keeps_ite)
theorem runReq_keeps {s0 : State} (s : State) (c : Caller) (body : List Byte) (f : State → Caller → List Byte → State) (h_s : Keeps s0 s) (h_f : ∀ x0 x1 x2, Keeps s0 x0 → Keeps s0 (f x0 x1 x2)) : Keeps s0 (runReq s c body f) := by
  unfold runReq
  repeat' (first | with_reducible assumption | with_reducible intro _ | fail_if_no_progress beta_reduce | (extract_lets +onlyGivenNames zz; first | (refine (fun (hx : Keeps s0 zz) => ?_) ?_ <;> [(clear_value zz; revert zz; intro _ _); subst zz])) | with_reducible apply h_f | with_reducible apply modSession_keeps | with_reducible apply finishReq_keeps | with_reducible apply keeps_ite | split)
theorem discards_keeps {s0 : State} (s : State) (n : Nat) (h_s : Keeps s0 s) : Keeps s0 (discards s n) := by
  unfold discards
  repeat' (first | with_reducible assumption | with_reducible apply satFldAt_keeps)
theorem unknownSession_keeps {s0 : State} (s : State) (c : Caller) (h_s : Keeps s0 s) : Keeps s0 (unknownSession s c) := by
  unfold unknownSession
  repeat' (first | with_reducible assumption | (extract_lets +onlyGivenNames zz; first | (clear_value zz; revert zz; intro _)) | with_reducible apply emit_keeps | with_reducible apply discards_keeps | with_reducible apply keeps_ite | split | with_reducible apply keeps_fst (by assumption) | with_reducible apply keeps_snd (by assumption) | with_reducible apply keeps_some (by assumption) | with_reducible apply keeps_okE (by assumption) | with_reducible apply KeepsP_fst | with_reducible apply KeepsQ_snd | fail_if_no_progress with_reducible refine keeps_mk rfl rfl rfl rfl ?_)
theorem assemble_keeps {s0 : State} (s : State) (h : CtrHdr) (code : Nat) (ds : List Dgram) (h_s : Keeps s0 s) : KeepsP s0 (assemble s h code ds) := by
  unfold assemble
  repeat' (first | with_reducible assumption | (extract_lets +onlyGivenNames zz; first | (clear_value zz; revert zz; intro _)) | with_reducible apply hloc | with_reducible apply keeps_ite | with_reducible apply keepsP_ite | (with_reducible refine keeps_foldl ?_ (fun _ _ _ => ?_) <;> beta_reduce) | (with_reducible refine keepsP_foldl ?_ (fun _ _ _ => ?_) <;> beta_reduce) | split | with_reducible apply keepsP_mk | with_reducible apply keeps_fst (by assumption) | with_reducible apply keeps_snd (by assumption) | with_reducible apply keeps_some (by assumption) | with_reducible apply keeps_okE (by assumption) | with_reducible apply KeepsP_fst | with_reducible apply KeepsQ_snd | fail_if_no_progress with_reducible refine keeps_mk rfl rfl rfl rfl ?_)
theorem takeReq_keeps {s0 : State} (s : State) (x : Session) (c : Caller) (body : List Byte) (f : State → Caller → List Byte → State) (h_s : Keeps s0 s) (h_f : ∀ x0 x1 x2, Keeps s0 x0 → Keeps s0 (f x0 x1 x2)) : Keeps s0 (takeReq s x c body f) := by
  unfold takeReq
  repeat' (first | with_reducible assumption | with_reducible intro _ | fail_if_no_progress beta_reduce | (extract_lets +onlyGivenNames zz; first | (refine (fun (hx : Keeps s0 zz) => ?_) ?_ <;> [(clear_value zz; revert zz; intro _ _); subst zz])) | with_reducible apply h_f | with_reducible apply emit_keeps | with_reducible apply modSession_keeps | with_reducible apply runReq_keeps | with_reducible apply keeps_ite | split)
theorem counterRow_keeps {s0 : State} (code : Nat) (h : CtrHdr) (f : State → Caller → List Byte → State) (s : State) (h_f : ∀ x0 x1 x2, Keeps s0 x0 → Keeps s0 (f x0 x1 x2)) (h_s : Keeps s0 s) : Keeps s0 (counterRow code h f s) := by
  unfold counterRow
  repeat' (first | with_reducible assumption | with_reducible intro _ | fail_if_no_progress beta_reduce | (extract_lets +onlyGivenNames zz; first | (refine (fun (hx : Keeps s0 zz) => ?_) ?_ <;> [(clear_value zz; revert zz; intro _ _); subst zz]) | (clear_value zz; revert zz; intro _)) | with_reducible apply h_f | with_reducible apply emit_keeps | with_reducible apply discards_keeps | with_reducible apply unknownSession_keeps | with_reducible apply assemble_keeps | with_reducible apply takeReq_keeps | with_reducible apply keeps_ite | split | with_reducible apply keeps_fst (by assumption))
theorem takeRandom_keeps {s0 : State} (s : State) (n : Nat) (h_s : Keeps s0 s) : KeepsQ s0 (takeRandom s n) := by
  unfold takeRandom
  repeat' (first | with_reducible assumption | (extract_lets +onlyGivenNames zz; first | (refine (fun (_ : Security) => ?_) zz; subst zz)) | with_reducible apply keeps_ite | with_reducible apply keepsQ_ite | split | with_reducible apply keepsQ_mk | with_reducible apply keeps_fst (by assumption) | with_reducible apply keeps_snd (by assumption) | with_reducible apply keeps_some (by assumption) | with_reducible apply keeps_okE (by assumption) | with_reducible apply KeepsP_fst | with_reducible apply KeepsQ_snd | fail_if_no_progress with_reducible refine keeps_mk rfl rfl rfl rfl ?_)
theorem tellAbandoned_keeps {s0 : State} (s : State) (h_s : Keeps s0 s) : Keeps s0 (tellAbandoned s) := by
  unfold tellAbandoned
  repeat' (first | with_reducible assumption | (extract_lets +onlyGivenNames zz; first | (clear_value zz; revert zz; intro _)) | with_reducible apply fileReport_keeps | with_reducible apply keeps_ite | (with_reducible refine keeps_foldl ?_ (fun _ _ _ => ?_) <;> beta_reduce) | (with_reducible refine keepsP_foldl ?_ (fun _ _ _ => ?_) <;> beta_reduce) | split | with_reducible apply keeps_fst (by assumption) | with_reducible apply keeps_snd (by assumption) | with_reducible apply keeps_some (by assumption) | with_reducible apply keeps_okE (by assumption) | with_reducible apply KeepsP_fst | with_reducible apply KeepsQ_snd | fail_if_no_progress with_reducible refine keeps_mk rfl rfl rfl rfl ?_)
theorem svcSessionOpen_keeps {s0 : State} (a1 : State) (a2 : Caller) (a3 : List Byte) (h_a1 : Keeps s0 a1) : Keeps s0 (svcSessionOpen a1 a2 a3) := by
  unfold svcSessionOpen
  repeat' (first | with_reducible assumption | (extract_lets +onlyGivenNames zz; first | (refine (fun (hx : ∀ t u v w, Keeps s0 t → Keeps s0 (zz t u v w)) => ?_) ?_ <;> [(clear_value zz; revert zz; intro _ hloc); (subst zz; intro t u v w ht; beta_reduce)]) | (refine (fun (_ : Security) => ?_) zz; subst zz) | (clear_value zz; revert zz; intro _)) | with_reducible apply hloc | with_reducible apply emit_keeps | with_reducible apply takeRandom_keeps | with_reducible apply tellAbandoned_keeps | with_reducible apply keeps_ite | split | with_reducible apply keeps_fst (by assumption) | with_reducible apply keeps_snd (by assumption) | with_reducible apply keeps_some (by assumption) | with_reducible apply keeps_okE (by assumption) | with_reducible apply KeepsP_fst | with_reducible apply KeepsQ_snd | fail_if_no_progress with_reducible refine keeps_mk rfl rfl rfl rfl ?_)
theorem closeSession_keeps {s0 : State} (s : State) (id : Nat) (h_s : Keeps s0 s) : Keeps s0 (closeSession s id) := by
  unfold closeSession
  repeat' (first | with_reducible assumption | with_reducible apply keeps_ite | split | with_reducible apply keeps_fst (by assumption) | with_reducible apply keeps_snd (by assumption) | with_reducible apply keeps_some (by assumption) | with_reducible apply keeps_okE (by assumption) | with_reducible apply KeepsP_fst | with_reducible apply KeepsQ_snd | fail_if_no_progress with_reducible refine keeps_mk rfl rfl rfl rfl ?_)
theorem svcSessionAuth_keeps {s0 : State} (a1 : State) (a2 : Caller) (a3 : List Byte) (h_a1 : Keeps s0 a1) : Keeps s0 (svcSessionAuth a1 a2 a3) := by
  unfold svcSessionAuth
  repeat' (first | with_reducible assumption | with_reducible intro _ | fail_if_no_progress beta_reduce | (extract_lets +onlyGivenNames zz; first | (refine (fun (hx : Keeps s0 zz) => ?_) ?_ <;> [(clear_value zz; revert zz; intro _ _); subst zz]) | (refine (fun (hx : KeepsP s0 zz) => ?_) ?_ <;> [(clear_value zz; revert zz; intro _ _); subst zz]) | (refine (fun (hx : KeepsQ s0 zz) => ?_) ?_ <;> [(clear_value zz; revert zz; intro _ _); subst zz]) | (refine (fun (hx : KeepsO s0 zz) => ?_) ?_ <;> [(clear_value zz; revert zz; intro _ _); subst zz]) | (refine (fun (hx : KeepsE s0 zz) => ?_) ?_ <;> [(clear_value zz; revert zz; intro _ _); subst zz]) | (refine (fun (hx : Keeps s0 (Issue.s zz)) => ?_) ?_ <;> [(clear_value zz; revert zz; intro _ _); subst zz]) | (refine (fun (hx : Keeps s0 (StackRead.st zz)) => ?_) ?_ <;> [(clear_value zz; revert zz; intro _ _); subst zz]) | (refine (fun (hx : ∀ t, Keeps s0 t → Keeps s0 (zz t)) => ?_) ?_ <;> [(clear_value zz; revert zz; intro _ hloc); (subst zz; intro t ht; beta_reduce)]) | (refine (fun (hx : ∀ t u, Keeps s0 t → Keeps s0 (zz t u)) => ?_) ?_ <;> [(clear_value zz; revert zz; intro _ hloc); (subst zz; intro t u ht; beta_reduce)]) | (refine (fun (hx : ∀ t, Keeps s0 (zz t)) => ?_) ?_ <;> [(clear_value zz; revert zz; intro _ hloc); (subst zz; intro t; beta_reduce)]) | (refine (fun (hx : ∀ t u, Keeps s0 (zz t u)) => ?_) ?_ <;> [(clear_value zz; revert zz; intro _ hloc); (subst zz; intro t u; beta_reduce)]) | (refine (fun (hx : ∀ t u v, Keeps s0 t → Keeps s0 (zz t u v)) => ?_) ?_ <;> [(clear_value zz; revert zz; intro _ hloc); (subst zz; intro t u v ht; beta_reduce)]) | (refine (fun (hx : ∀ t u v w, Keeps s0 t → Keeps s0 (zz t u v w)) => ?_) ?_ <;> [(clear_value zz; revert zz; intro _ hloc); (subst zz; intro t u v w ht; beta_reduce)]) | (refine (fun (_ : Security) => ?_) zz; subst zz) | (clear_value zz; revert zz; intro _)) | with_reducible apply modSession_keeps | with_reducible apply finishReq_keeps | with_reducible apply sized_keeps | with_reducible apply tellAbandoned_keeps | with_reducible apply closeSession_keeps | with_reducible apply keeps_ite | split)
theorem svcSessionClose_keeps {s0 : State} (a1 : State) (a2 : Caller) (a3 : List Byte) (h_a1 : Keeps s0 a1) : Keeps s0 (svcSessionClose a1 a2 a3) := by
  unfold svcSessionClose
  repeat' (first | with_reducible assumption | with_reducible intro _ | fail_if_no_progress beta_reduce | with_reducible apply finishReq_keeps | with_reducible apply sized_keeps | with_reducible apply closeSession_keeps)
theorem execCounterFragmentTimeout_keeps {s0 : State} (port : Hub) (session : Nat) (seq : Word) (s : State) (h_s : Keeps s0 s) : KeepsOut s0 (execCounterFragmentTimeout port session seq s) := by
  unfold execCounterFragmentTimeout
  repeat' (first | with_reducible assumption | (extract_lets +onlyGivenNames zz; first | (refine (fun (hx : Keeps s0 zz) => ?_) ?_ <;> [(clear_value zz; revert zz; intro _ _); subst zz]) | (refine (fun (hx : KeepsP s0 zz) => ?_) ?_ <;> [(clear_value zz; revert zz; intro _ _); subst zz]) | (refine (fun (hx : KeepsQ s0 zz) => ?_) ?_ <;> [(clear_value zz; revert zz; intro _ _); subst zz]) | (refine (fun (hx : KeepsO s0 zz) => ?_) ?_ <;> [(clear_value zz; revert zz; intro _ _); subst zz]) | (refine (fun (hx : KeepsE s0 zz) => ?_) ?_ <;> [(clear_value zz; revert zz; intro _ _); subst zz]) | (refine (fun (hx : Keeps s0 (Issue.s zz)) => ?_) ?_ <;> [(clear_value zz; revert zz; intro _ _); subst zz]) | (refine (fun (hx : Keeps s0 (StackRead.st zz)) => ?_) ?_ <;> [(clear_value zz; revert zz; intro _ _); subst zz]) | (refine (fun (hx : ∀ t, Keeps s0 t → Keeps s0 (zz t)) => ?_) ?_ <;> [(clear_value zz; revert zz; intro _ hloc); (subst zz; intro t ht; beta_reduce)]) | (refine (fun (hx : ∀ t u, Keeps s0 t → Keeps s0 (zz t u)) => ?_) ?_ <;> [(clear_value zz; revert zz; intro _ hloc); (subst zz; intro t u ht; beta_reduce)]) | (refine (fun (hx : ∀ t, Keeps s0 (zz t)) => ?_) ?_ <;> [(clear_value zz; revert zz; intro _ hloc); (subst zz; intro t; beta_reduce)]) | (refine (fun (hx : ∀ t u, Keeps s0 (zz t u)) => ?_) ?_ <;> [(clear_value zz; revert zz; intro _ hloc); (subst zz; intro t u; beta_reduce)]) | (refine (fun (hx : ∀ t u v, Keeps s0 t → Keeps s0 (zz t u v)) => ?_) ?_ <;> [(clear_value zz; revert zz; intro _ hloc); (subst zz; intro t u v ht; beta_reduce)]) | (refine (fun (hx : ∀ t u v w, Keeps s0 t → Keeps s0 (zz t u v w)) => ?_) ?_ <;> [(clear_value zz; revert zz; intro _ hloc); (subst zz; intro t u v w ht; beta_reduce)]) | (refine (fun (_ : Security) => ?_) zz; subst zz) | (clear_value zz; revert zz; intro _)) | with_reducible apply done_keeps | with_reducible apply keeps_ite | with_reducible apply keepsOut_ite | split | with_reducible apply keepsOut_next | with_reducible apply keeps_fst (by assumption) | with_reducible apply keeps_snd (by assumption) | with_reducible apply keeps_some (by assumption) | with_reducible apply keeps_okE (by assumption) | with_reducible apply KeepsP_fst | with_reducible apply KeepsQ_snd | fail_if_no_progress with_reducible refine keeps_mk rfl rfl rfl rfl ?_)
theorem execSessionIdleTimeout_keeps {s0 : State} (session : Nat) (s : State) (h_s : Keeps s0 s) : KeepsOut s0 (execSessionIdleTimeout session s) := by
  unfold execSessionIdleTimeout
  repeat' (first | with_reducible assumption | (extract_lets +onlyGivenNames zz; first | (refine (fun (hx : Keeps s0 zz) => ?_) ?_ <;> [(clear_value zz; revert zz; intro _ _); subst zz]) | (refine (fun (hx : KeepsP s0 zz) => ?_) ?_ <;> [(clear_value zz; revert zz; intro _ _); subst zz]) | (refine (fun (hx : KeepsQ s0 zz) => ?_) ?_ <;> [(clear_value zz; revert zz; intro _ _); subst zz]) | (refine (fun (hx : KeepsO s0 zz) => ?_) ?_ <;> [(clear_value zz; revert zz; intro _ _); subst zz]) | (refine (fun (hx : KeepsE s0 zz) => ?_) ?_ <;> [(clear_value zz; revert zz; intro _ _); subst zz]) | (refine (fun (hx : Keeps s0 (Issue.s zz)) => ?_) ?_ <;> [(clear_value zz; revert zz; intro _ _); subst zz]) | (refine (fun (hx : Keeps s0 (StackRead.st zz)) => ?_) ?_ <;> [(clear_value zz; revert zz; intro _ _); subst zz]) | (refine (fun (hx : ∀ t, Keeps s0 t → Keeps s0 (zz t)) => ?_) ?_ <;> [(clear_value zz; revert zz; intro _ hloc); (subst zz; intro t ht; beta_reduce)]) | (refine (fun (hx : ∀ t u, Keeps s0 t → Keeps s0 (zz t u)) => ?_) ?_ <;> [(clear_value zz; revert zz; intro _ hloc); (subst zz; intro t u ht; beta_reduce)]) | (refine (fun (hx : ∀ t, Keeps s0 (zz t)) => ?_) ?_ <;> [(clear_value zz; revert zz; intro _ hloc); (subst zz; intro t; beta_reduce)]) | (refine (fun (hx : ∀ t u, Keeps s0 (zz t u)) => ?_) ?_ <;> [(clear_value zz; revert zz; intro _ hloc); (subst zz; intro t u; beta_reduce)]) | (refine (fun (hx : ∀ t u v, Keeps s0 t → Keeps s0 (zz t u v)) => ?_) ?_ <;> [(clear_value zz; revert zz; intro _ hloc); (subst zz; intro t u v ht; beta_reduce)]) | (refine (fun (hx : ∀ t u v w, Keeps s0 t → Keeps s0 (zz t u v w)) => ?_) ?_ <;> [(clear_value zz; revert zz; intro _ hloc); (subst zz; intro t u v w ht; beta_reduce)]) | (refine (fun (_ : Security) => ?_) zz; subst zz) | (clear_value zz; revert zz; intro _)) | with_reducible apply done_keeps | with_reducible apply closeSession_keeps | with_reducible apply keeps_ite | with_reducible apply keepsOut_ite | split)
theorem svcBundleStage_keeps {s0 : State} (a1 : State) (a2 : Caller) (a3 : List Byte) (h_a1 : Keeps s0 a1) : Keeps s0 (svcBundleStage a1 a2 a3) := by
  unfold svcBundleStage
  repeat' (first | with_reducible assumption | with_reducible intro _ | fail_if_no_progress beta_reduce | (extract_lets +onlyGivenNames zz; first | (clear_value zz; revert zz; intro _)) | with_reducible apply takeFree_keeps | with_reducible apply finishReq_keeps | with_reducible apply malformed_keeps | with_reducible apply sized_keeps | with_reducible apply keeps_ite | split | with_reducible apply keeps_fst (by assumption) | with_reducible apply keeps_snd (by assumption) | with_reducible apply keeps_some (by assumption) | with_reducible apply keeps_okE (by assumption) | with_reducible apply KeepsP_fst | with_reducible apply KeepsQ_snd | fail_if_no_progress with_reducible refine keeps_mk rfl rfl rfl rfl ?_)
theorem releaseStage_keeps {s0 : State} (s : State) (id : Nat) (h_s : Keeps s0 s) : Keeps s0 (releaseStage s id) := by
  unfold releaseStage
  repeat' (first | with_reducible assumption | with_reducible apply keeps_ite | split | with_reducible apply keeps_fst (by assumption) | with_reducible apply keeps_snd (by assumption) | with_reducible apply keeps_some (by assumption) | with_reducible apply keeps_okE (by assumption) | with_reducible apply KeepsP_fst | with_reducible apply KeepsQ_snd | fail_if_no_progress with_reducible refine keeps_mk rfl rfl rfl rfl ?_)
theorem withHandle_keeps {s0 : State} (s : State) (c : Caller) (h : Nat) (f : Nat → Bundle → State) (h_s : Keeps s0 s) (h_f : ∀ x0 x1, Keeps s0 (f x0 x1)) : Keeps s0 (withHandle s c h f) := by
  unfold withHandle
  repeat' (first | with_reducible assumption | with_reducible intro _ | fail_if_no_progress beta_reduce | with_reducible apply h_f | with_reducible apply finishReq_keeps | with_reducible apply keeps_ite | split)
theorem svcMapRead_keeps {s0 : State} (a1 : State) (a2 : Caller) (a3 : List Byte) (h_a1 : Keeps s0 a1) : Keeps s0 (svcMapRead a1 a2 a3) := by
  unfold svcMapRead
  repeat' (first | with_reducible assumption | with_reducible intro _ | fail_if_no_progress beta_reduce | (extract_lets +onlyGivenNames zz; first | (clear_value zz; revert zz; intro _)) | with_reducible apply finishReq_keeps | with_reducible apply malformed_keeps | with_reducible apply sized_keeps | with_reducible apply withHandle_keeps | with_reducible apply keeps_ite)
theorem svcDlqRead_keeps {s0 : State} (a1 : State) (a2 : Caller) (a3 : List Byte) (h_a1 : Keeps s0 a1) : Keeps s0 (svcDlqRead a1 a2 a3) := by
  unfold svcDlqRead
  repeat' (first | with_reducible assumption | with_reducible intro _ | fail_if_no_progress beta_reduce | (extract_lets +onlyGivenNames zz; first | (clear_value zz; revert zz; intro _)) | with_reducible apply finishReq_keeps | with_reducible apply malformed_keeps | with_reducible apply sized_keeps | with_reducible apply keeps_ite)
theorem svcDlqRelease_keeps {s0 : State} (a1 : State) (a2 : Caller) (a3 : List Byte) (h_a1 : Keeps s0 a1) : Keeps s0 (svcDlqRelease a1 a2 a3) := by
  unfold svcDlqRelease
  repeat' (first | with_reducible assumption | with_reducible intro _ | fail_if_no_progress beta_reduce | (extract_lets +onlyGivenNames zz; first | (clear_value zz; revert zz; intro _)) | with_reducible apply finishReq_keeps | with_reducible apply malformed_keeps | with_reducible apply sized_keeps | with_reducible apply keeps_ite | split | with_reducible apply keeps_fst (by assumption) | with_reducible apply keeps_snd (by assumption) | with_reducible apply keeps_some (by assumption) | with_reducible apply keeps_okE (by assumption) | with_reducible apply KeepsP_fst | with_reducible apply KeepsQ_snd | fail_if_no_progress with_reducible refine keeps_mk rfl rfl rfl rfl ?_ | fail_if_no_progress with_reducible refine keeps_mkDies rfl rfl rfl (fun _ => rfl) ?_)
theorem svcDeltaRead_keeps {s0 : State} (a1 : State) (a2 : Caller) (a3 : List Byte) (h_a1 : Keeps s0 a1) : Keeps s0 (svcDeltaRead a1 a2 a3) := by
  unfold svcDeltaRead
  repeat' (first | with_reducible assumption | with_reducible intro _ | fail_if_no_progress beta_reduce | (extract_lets +onlyGivenNames zz; first | (refine (fun (hx : Keeps s0 zz) => ?_) ?_ <;> [(clear_value zz; revert zz; intro _ _); subst zz]) | (refine (fun (hx : KeepsP s0 zz) => ?_) ?_ <;> [(clear_value zz; revert zz; intro _ _); subst zz]) | (refine (fun (hx : KeepsQ s0 zz) => ?_) ?_ <;> [(clear_value zz; revert zz; intro _ _); subst zz]) | (refine (fun (hx : KeepsO s0 zz) => ?_) ?_ <;> [(clear_value zz; revert zz; intro _ _); subst zz]) | (refine (fun (hx : KeepsE s0 zz) => ?_) ?_ <;> [(clear_value zz; revert zz; intro _ _); subst zz]) | (refine (fun (hx : Keeps s0 (Issue.s zz)) => ?_) ?_ <;> [(clear_value zz; revert zz; intro _ _); subst zz]) | (refine (fun (hx : Keeps s0 (StackRead.st zz)) => ?_) ?_ <;> [(clear_value zz; revert zz; intro _ _); subst zz]) | (refine (fun (hx : ∀ t, Keeps s0 t → Keeps s0 (zz t)) => ?_) ?_ <;> [(clear_value zz; revert zz; intro _ hloc); (subst zz; intro t ht; beta_reduce)]) | (refine (fun (hx : ∀ t u, Keeps s0 t → Keeps s0 (zz t u)) => ?_) ?_ <;> [(clear_value zz; revert zz; intro _ hloc); (subst zz; intro t u ht; beta_reduce)]) | (refine (fun (hx : ∀ t, Keeps s0 (zz t)) => ?_) ?_ <;> [(clear_value zz; revert zz; intro _ hloc); (subst zz; intro t; beta_reduce)]) | (refine (fun (hx : ∀ t u, Keeps s0 (zz t u)) => ?_) ?_ <;> [(clear_value zz; revert zz; intro _ hloc); (subst zz; intro t u; beta_reduce)]) | (refine (fun (hx : ∀ t u v, Keeps s0 t → Keeps s0 (zz t u v)) => ?_) ?_ <;> [(clear_value zz; revert zz; intro _ hloc); (subst zz; intro t u v ht; beta_reduce)]) | (refine (fun (hx : ∀ t u v w, Keeps s0 t → Keeps s0 (zz t u v w)) => ?_) ?_ <;> [(clear_value zz; revert zz; intro _ hloc); (subst zz; intro t u v w ht; beta_reduce)]) | (refine (fun (_ : Security) => ?_) zz; subst zz) | (clear_value zz; revert zz; intro _)) | with_reducible apply finishReq_keeps | with_reducible apply sized_keeps | with_reducible apply withHandle_keeps)
theorem svcHostQp_keeps {s0 : State} (a1 : State) (a2 : Caller) (a3 : List Byte) (h_a1 : Keeps s0 a1) : Keeps s0 (svcHostQp a1 a2 a3) := by
  unfold svcHostQp
  repeat' (first | with_reducible assumption | with_reducible intro _ | fail_if_no_progress beta_reduce | (extract_lets +onlyGivenNames zz; first | (clear_value zz; revert zz; intro _)) | with_reducible apply takeFree_keeps | with_reducible apply modStream_keeps | with_reducible apply finishReq_keeps | with_reducible apply sized_keeps | with_reducible apply keeps_ite | split | with_reducible apply keeps_fst (by assumption) | with_reducible apply keeps_snd (by assumption) | with_reducible apply keeps_some (by assumption) | with_reducible apply keeps_okE (by assumption) | with_reducible apply KeepsP_fst | with_reducible apply KeepsQ_snd)

end Sys2Proof.Machine
end

