-- ==== Sys2Proof/Laws/KeepsCells.lean ====
section
/-!
SUPPORT. What the operations of Machine/Cells keep (see Laws/Keeps).
-/
namespace Sys2Proof.Machine
open Sys2Proof

theorem moveRetired_keeps {s0 : State} (s : State) (cell : Nat) (h_s : Keeps s0 s) : Keeps s0 (moveRetired s cell) := by
  unfold moveRetired
  repeat' (first | with_reducible assumption | (extract_lets +onlyGivenNames zz; first | (clear_value zz; revert zz; intro _)) | with_reducible apply modStation_keeps | with_reducible apply mapGen_keeps | with_reducible apply relocateAll_keeps | with_reducible apply refuseSlot_keeps | with_reducible apply pump__keeps | with_reducible apply keeps_ite | split)
theorem svcCellRetire_keeps {s0 : State} (a1 : State) (a2 : Caller) (a3 : List Byte) (h_a1 : Keeps s0 a1) : Keeps s0 (svcCellRetire a1 a2 a3) := by
  unfold svcCellRetire
  repeat' (first | with_reducible assumption | with_reducible intro _ | fail_if_no_progress beta_reduce | (extract_lets +onlyGivenNames zz; first | (clear_value zz; revert zz; intro _)) | with_reducible apply softRetire_keeps | with_reducible apply finishReq_keeps | with_reducible apply sized_keeps | with_reducible apply commitRet_keeps | with_reducible apply moveRetired_keeps | with_reducible apply keeps_ite)
theorem svcCellRestore_keeps {s0 : State} (a1 : State) (a2 : Caller) (a3 : List Byte) (h_a1 : Keeps s0 a1) : Keeps s0 (svcCellRestore a1 a2 a3) := by
  unfold svcCellRestore
  repeat' (first | with_reducible assumption | with_reducible intro _ | fail_if_no_progress beta_reduce | (extract_lets +onlyGivenNames zz; first | (refine (fun (hx : Keeps s0 zz) => ?_) ?_ <;> [(clear_value zz; revert zz; intro _ _); subst zz]) | (clear_value zz; revert zz; intro _)) | with_reducible apply modStation_keeps | with_reducible apply finishReq_keeps | with_reducible apply sized_keeps | with_reducible apply commitRet_keeps | with_reducible apply keeps_ite | split | with_reducible apply keeps_fst (by assumption) | with_reducible apply keeps_snd (by assumption) | with_reducible apply keeps_some (by assumption) | with_reducible apply keeps_okE (by assumption) | with_reducible apply KeepsP_fst | with_reducible apply KeepsQ_snd | fail_if_no_progress with_reducible refine keeps_mk rfl rfl rfl rfl ?_)
theorem execCellHardFailure_keeps {s0 : State} (cell : Nat) (s : State) (h_s : Keeps s0 s) : KeepsOut s0 (execCellHardFailure cell s) := by
  unfold execCellHardFailure
  repeat' (first | with_reducible assumption | (extract_lets +onlyGivenNames zz; first | (refine (fun (hx : Keeps s0 zz) => ?_) ?_ <;> [(clear_value zz; revert zz; intro _ _); subst zz]) | (clear_value zz; revert zz; intro _)) | with_reducible apply done_keeps | with_reducible apply modStation_keeps | with_reducible apply setEvent_keeps | with_reducible apply faultWith_keeps | with_reducible apply keptChanged_keeps | with_reducible apply moveRetired_keeps | with_reducible apply keeps_ite | with_reducible apply keepsOut_ite | split | with_reducible apply keepsOut_next | with_reducible apply keeps_fst (by assumption) | with_reducible apply keeps_snd (by assumption) | with_reducible apply keeps_some (by assumption) | with_reducible apply keeps_okE (by assumption) | with_reducible apply KeepsP_fst | with_reducible apply KeepsQ_snd | fail_if_no_progress with_reducible refine keeps_mk rfl rfl rfl rfl ?_)
theorem execRelocatePendingTimeout_keeps {s0 : State} (cell : Nat) (s : State) (h_s : Keeps s0 s) : KeepsOut s0 (execRelocatePendingTimeout cell s) := by
  unfold execRelocatePendingTimeout
  repeat' (first | with_reducible assumption | (extract_lets +onlyGivenNames zz; first | (refine (fun (hx : Keeps s0 zz) => ?_) ?_ <;> [(clear_value zz; revert zz; intro _ _); subst zz]) | (refine (fun (hx : KeepsP s0 zz) => ?_) ?_ <;> [(clear_value zz; revert zz; intro _ _); subst zz]) | (refine (fun (hx : KeepsQ s0 zz) => ?_) ?_ <;> [(clear_value zz; revert zz; intro _ _); subst zz]) | (refine (fun (hx : KeepsO s0 zz) => ?_) ?_ <;> [(clear_value zz; revert zz; intro _ _); subst zz]) | (refine (fun (hx : KeepsE s0 zz) => ?_) ?_ <;> [(clear_value zz; revert zz; intro _ _); subst zz]) | (refine (fun (hx : Keeps s0 (Issue.s zz)) => ?_) ?_ <;> [(clear_value zz; revert zz; intro _ _); subst zz]) | (refine (fun (hx : Keeps s0 (StackRead.st zz)) => ?_) ?_ <;> [(clear_value zz; revert zz; intro _ _); subst zz]) | (refine (fun (hx : ∀ t, Keeps s0 t → Keeps s0 (zz t)) => ?_) ?_ <;> [(clear_value zz; revert zz; intro _ hloc); (subst zz; intro t ht; beta_reduce)]) | (refine (fun (hx : ∀ t u, Keeps s0 t → Keeps s0 (zz t u)) => ?_) ?_ <;> [(clear_value zz; revert zz; intro _ hloc); (subst zz; intro t u ht; beta_reduce)]) | (refine (fun (hx : ∀ t, Keeps s0 (zz t)) => ?_) ?_ <;> [(clear_value zz; revert zz; intro _ hloc); (subst zz; intro t; beta_reduce)]) | (refine (fun (hx : ∀ t u, Keeps s0 (zz t u)) => ?_) ?_ <;> [(clear_value zz; revert zz; intro _ hloc); (subst zz; intro t u; beta_reduce)]) | (refine (fun (hx : ∀ t u v, Keeps s0 t → Keeps s0 (zz t u v)) => ?_) ?_ <;> [(clear_value zz; revert zz; intro _ hloc); (subst zz; intro t u v ht; beta_reduce)]) | (refine (fun (hx : ∀ t u v w, Keeps s0 t → Keeps s0 (zz t u v w)) => ?_) ?_ <;> [(clear_value zz; revert zz; intro _ hloc); (subst zz; intro t u v w ht; beta_reduce)]) | (refine (fun (_ : Security) => ?_) zz; subst zz) | (clear_value zz; revert zz; intro _)) | with_reducible apply done_keeps | with_reducible apply report_keeps | with_reducible apply modStation_keeps | with_reducible apply keeps_ite | with_reducible apply keepsOut_ite | split)
theorem execScratchPatrol_keeps {s0 : State} (cell : Nat) (hits : List Upset) (others : PatrolHits) (s : State) (h_s : Keeps s0 s) : KeepsOut s0 (execScratchPatrol cell hits others s) := by
  unfold execScratchPatrol
  repeat' (first | with_reducible assumption | (extract_lets +onlyGivenNames zz; first | (refine (fun (hx : Keeps s0 zz) => ?_) ?_ <;> [(clear_value zz; revert zz; intro _ _); subst zz]) | (clear_value zz; revert zz; intro _)) | with_reducible apply done_keeps | with_reducible apply modBundle_keeps | with_reducible apply scratchFound_keeps | with_reducible apply moveRetired_keeps | with_reducible apply keeps_ite | with_reducible apply keepsOut_ite | with_reducible apply keepsP_ite | with_reducible apply keepsQ_ite | (with_reducible refine keeps_foldl ?_ (fun _ _ _ => ?_) <;> beta_reduce) | (with_reducible refine keepsP_foldl ?_ (fun _ _ _ => ?_) <;> beta_reduce) | split)
theorem execStackPatrol_keeps {s0 : State} (stack : Nat) (pass : StackPass) (s : State) (h_s : Keeps s0 s) :
    KeepsOut s0 (execStackPatrol stack pass s) := by
  unfold execStackPatrol
  refine done_keeps _ ?_
  split
  · exact h_s
  · rename_i k0 e
    split
    · exact h_s
    · have hr := awaitRepairs_keeps s stack 0 (2 ^ 36) h_s
      have hm (w : DiesCanonical s0.dies) : ((stackOf (awaitRepairs s stack 0 (2 ^ 36)) stack).getD k0).mem.wf = true := by
        cases e' : stackOf (awaitRepairs s stack 0 (2 ^ 36)) stack with
        | none => exact stackOf_wf h_s e w
        | some k => exact stackOf_wf hr e' w
      refine activate_keeps _ _ _ (setEventAt_keeps _ _ _ _ _ (stackFound_keeps _ _ _ _ _ ?_ (fun w => Mem.poisonAll_wf _
        (Mem.correct_wf _ _ (Mem.foldl_wf (fun _ _ hm => Mem.upset_wf _ hm) _ (hm w))))))
      exact keeps_mkDies rfl rfl rfl (fun _ => rfl) hr
theorem execRowRepairDone_keeps {s0 : State} (stack : Nat) (bank : Nat) (row : Nat) (s : State) (h_s : Keeps s0 s) : KeepsOut s0 (execRowRepairDone stack bank row s) := by
  unfold execRowRepairDone
  repeat' (first | with_reducible assumption | (extract_lets +onlyGivenNames zz; first | (refine (fun (hx : Keeps s0 zz) => ?_) ?_ <;> [(clear_value zz; revert zz; intro _ _); subst zz]) | (refine (fun (hx : KeepsP s0 zz) => ?_) ?_ <;> [(clear_value zz; revert zz; intro _ _); subst zz]) | (refine (fun (hx : KeepsQ s0 zz) => ?_) ?_ <;> [(clear_value zz; revert zz; intro _ _); subst zz]) | (refine (fun (hx : KeepsO s0 zz) => ?_) ?_ <;> [(clear_value zz; revert zz; intro _ _); subst zz]) | (refine (fun (hx : KeepsE s0 zz) => ?_) ?_ <;> [(clear_value zz; revert zz; intro _ _); subst zz]) | (refine (fun (hx : Keeps s0 (Issue.s zz)) => ?_) ?_ <;> [(clear_value zz; revert zz; intro _ _); subst zz]) | (refine (fun (hx : Keeps s0 (StackRead.st zz)) => ?_) ?_ <;> [(clear_value zz; revert zz; intro _ _); subst zz]) | (refine (fun (hx : ∀ t, Keeps s0 t → Keeps s0 (zz t)) => ?_) ?_ <;> [(clear_value zz; revert zz; intro _ hloc); (subst zz; intro t ht; beta_reduce)]) | (refine (fun (hx : ∀ t u, Keeps s0 t → Keeps s0 (zz t u)) => ?_) ?_ <;> [(clear_value zz; revert zz; intro _ hloc); (subst zz; intro t u ht; beta_reduce)]) | (refine (fun (hx : ∀ t, Keeps s0 (zz t)) => ?_) ?_ <;> [(clear_value zz; revert zz; intro _ hloc); (subst zz; intro t; beta_reduce)]) | (refine (fun (hx : ∀ t u, Keeps s0 (zz t u)) => ?_) ?_ <;> [(clear_value zz; revert zz; intro _ hloc); (subst zz; intro t u; beta_reduce)]) | (refine (fun (hx : ∀ t u v, Keeps s0 t → Keeps s0 (zz t u v)) => ?_) ?_ <;> [(clear_value zz; revert zz; intro _ hloc); (subst zz; intro t u v ht; beta_reduce)]) | (refine (fun (hx : ∀ t u v w, Keeps s0 t → Keeps s0 (zz t u v w)) => ?_) ?_ <;> [(clear_value zz; revert zz; intro _ hloc); (subst zz; intro t u v w ht; beta_reduce)]) | (refine (fun (_ : Security) => ?_) zz; subst zz) | (clear_value zz; revert zz; intro _)) | with_reducible apply done_keeps | with_reducible apply finishRepair_keeps | with_reducible apply keeps_ite | with_reducible apply keepsOut_ite | split)
theorem failStack_keeps {s0 : State} (s : State) (n : Nat) (h_s : Keeps s0 s) : Keeps s0 (failStack s n) := by
  unfold failStack
  repeat' (first | with_reducible assumption | (extract_lets +onlyGivenNames zz; first | (refine (fun (hx : Keeps s0 zz) => ?_) ?_ <;> [(clear_value zz; revert zz; intro _ _); subst zz]) | (clear_value zz; revert zz; intro _)) | with_reducible apply report_keeps | with_reducible apply modStack_keeps | with_reducible apply faultWith_keeps | with_reducible apply keeps_ite | with_reducible apply keepsP_ite | with_reducible apply keepsQ_ite | (with_reducible refine keeps_foldl ?_ (fun _ _ _ => ?_) <;> beta_reduce) | (with_reducible refine keepsP_foldl ?_ (fun _ _ _ => ?_) <;> beta_reduce) | split | (refine fun _ k hk => ?_; first | with_reducible exact hk | with_reducible exact Mem.store_wf _ _ hk | with_reducible exact Mem.writeSlot_wf _ _ hk | with_reducible exact Mem.wipe_wf _ _ hk) | with_reducible apply keepsP_mk | with_reducible apply keepsQ_mk | with_reducible apply keeps_fst (by assumption) | with_reducible apply keeps_snd (by assumption) | with_reducible apply keeps_some (by assumption) | with_reducible apply keeps_okE (by assumption) | with_reducible apply KeepsP_fst | with_reducible apply KeepsQ_snd | fail_if_no_progress with_reducible refine keeps_mk rfl rfl rfl rfl ?_ | fail_if_no_progress with_reducible refine keeps_mkDies rfl rfl rfl (fun _ => rfl) ?_)
theorem execStackWipeTimeout_keeps {s0 : State} (stack : Nat) (s : State) (h_s : Keeps s0 s) : KeepsOut s0 (execStackWipeTimeout stack s) := by
  unfold execStackWipeTimeout
  repeat' (first | with_reducible assumption | (extract_lets +onlyGivenNames zz; first | (refine (fun (hx : Keeps s0 zz) => ?_) ?_ <;> [(clear_value zz; revert zz; intro _ _); subst zz]) | (refine (fun (hx : KeepsP s0 zz) => ?_) ?_ <;> [(clear_value zz; revert zz; intro _ _); subst zz]) | (refine (fun (hx : KeepsQ s0 zz) => ?_) ?_ <;> [(clear_value zz; revert zz; intro _ _); subst zz]) | (refine (fun (hx : KeepsO s0 zz) => ?_) ?_ <;> [(clear_value zz; revert zz; intro _ _); subst zz]) | (refine (fun (hx : KeepsE s0 zz) => ?_) ?_ <;> [(clear_value zz; revert zz; intro _ _); subst zz]) | (refine (fun (hx : Keeps s0 (Issue.s zz)) => ?_) ?_ <;> [(clear_value zz; revert zz; intro _ _); subst zz]) | (refine (fun (hx : Keeps s0 (StackRead.st zz)) => ?_) ?_ <;> [(clear_value zz; revert zz; intro _ _); subst zz]) | (refine (fun (hx : ∀ t, Keeps s0 t → Keeps s0 (zz t)) => ?_) ?_ <;> [(clear_value zz; revert zz; intro _ hloc); (subst zz; intro t ht; beta_reduce)]) | (refine (fun (hx : ∀ t u, Keeps s0 t → Keeps s0 (zz t u)) => ?_) ?_ <;> [(clear_value zz; revert zz; intro _ hloc); (subst zz; intro t u ht; beta_reduce)]) | (refine (fun (hx : ∀ t, Keeps s0 (zz t)) => ?_) ?_ <;> [(clear_value zz; revert zz; intro _ hloc); (subst zz; intro t; beta_reduce)]) | (refine (fun (hx : ∀ t u, Keeps s0 (zz t u)) => ?_) ?_ <;> [(clear_value zz; revert zz; intro _ hloc); (subst zz; intro t u; beta_reduce)]) | (refine (fun (hx : ∀ t u v, Keeps s0 t → Keeps s0 (zz t u v)) => ?_) ?_ <;> [(clear_value zz; revert zz; intro _ hloc); (subst zz; intro t u v ht; beta_reduce)]) | (refine (fun (hx : ∀ t u v w, Keeps s0 t → Keeps s0 (zz t u v w)) => ?_) ?_ <;> [(clear_value zz; revert zz; intro _ hloc); (subst zz; intro t u v w ht; beta_reduce)]) | (refine (fun (_ : Security) => ?_) zz; subst zz) | (clear_value zz; revert zz; intro _)) | with_reducible apply done_keeps | with_reducible apply failStack_keeps | with_reducible apply keeps_ite | with_reducible apply keepsOut_ite | split)
theorem svcMemRead_keeps {s0 : State} (a1 : State) (a2 : Caller) (a3 : List Byte) (h_a1 : Keeps s0 a1) : Keeps s0 (svcMemRead a1 a2 a3) := by
  unfold svcMemRead
  repeat' (first | with_reducible assumption | with_reducible intro _ | fail_if_no_progress beta_reduce | (extract_lets +onlyGivenNames zz; first | (refine (fun (hx : Keeps s0 (StackRead.st zz)) => ?_) ?_ <;> [(clear_value zz; revert zz; intro _ _); subst zz]) | (clear_value zz; revert zz; intro _)) | with_reducible apply stackRead_keeps | with_reducible apply openRows_keeps | with_reducible apply finishReq_keeps | with_reducible apply malformed_keeps | with_reducible apply sized_keeps | with_reducible apply keeps_ite)
theorem svcMemWrite_keeps {s0 : State} (a1 : State) (a2 : Caller) (a3 : List Byte) (h_a1 : Keeps s0 a1) : Keeps s0 (svcMemWrite a1 a2 a3) := by
  unfold svcMemWrite
  repeat' (first | with_reducible assumption | (extract_lets +onlyGivenNames zz; first | (refine (fun (hx : Keeps s0 zz) => ?_) ?_ <;> [(clear_value zz; revert zz; intro _ _); subst zz]) | (clear_value zz; revert zz; intro _)) | with_reducible apply modStack_keeps | with_reducible apply openRows_keeps | with_reducible apply finishReq_keeps | with_reducible apply malformed_keeps | with_reducible apply keeps_ite | with_reducible apply keepsP_ite | with_reducible apply keepsQ_ite | split | (refine fun _ k hk => ?_; first | with_reducible exact hk | with_reducible exact Mem.store_wf _ _ hk | with_reducible exact Mem.writeSlot_wf _ _ hk | with_reducible exact Mem.wipe_wf _ _ hk | exact Mem.poisonWord_wf _ (Mem.store_wf _ _ hk)))

end Sys2Proof.Machine
end

