-- ==== Sys2Proof/Laws/KeepsRegGate.lean ====
section
/-!
SUPPORT. What the operations of Machine/RegGate keep (see Laws/Keeps).
-/
namespace Sys2Proof.Machine
open Sys2Proof

theorem regAnswer_keeps {s0 : State} (g : Gate) (s : State) (o : Origin) (f : State → State × Nat × Word) (h_s : Keeps s0 s) (h_f : ∀ x0, Keeps s0 x0 → KeepsP s0 (f x0)) : Keeps s0 (regAnswer g s o f) := by
  unfold regAnswer
  repeat' (first | with_reducible assumption | with_reducible intro _ | fail_if_no_progress beta_reduce | (extract_lets +onlyGivenNames zz; first | (refine (fun (hx : KeepsP s0 zz) => ?_) ?_ <;> [(clear_value zz; revert zz; intro _ _); subst zz])) | with_reducible apply h_f | with_reducible apply emit_keeps | with_reducible apply keeps_ite | with_reducible apply keepsP_ite | with_reducible apply keepsQ_ite | split | with_reducible apply keepsP_mk | with_reducible apply keepsQ_mk | with_reducible apply keeps_fst (by assumption) | with_reducible apply keeps_snd (by assumption) | with_reducible apply keeps_some (by assumption) | with_reducible apply keeps_okE (by assumption) | with_reducible apply KeepsP_fst)
theorem regWriteRow_keeps {s0 : State} (s : State) (o : Origin) (red : Bool) (f : State → State × Nat) (h_s : Keeps s0 s) (h_f : ∀ x0, Keeps s0 x0 → KeepsP s0 (f x0)) : Keeps s0 (regWriteRow s o red f) := by
  unfold regWriteRow
  repeat' (first | with_reducible assumption | with_reducible intro _ | fail_if_no_progress beta_reduce | with_reducible apply h_f | with_reducible apply regAnswer_keeps | with_reducible apply keeps_ite | with_reducible apply keepsP_ite | with_reducible apply keepsQ_ite | split | with_reducible apply keepsP_mk | with_reducible apply keepsQ_mk | with_reducible apply keeps_fst (by assumption) | with_reducible apply keeps_snd (by assumption) | with_reducible apply keeps_some (by assumption) | with_reducible apply keeps_okE (by assumption) | with_reducible apply KeepsP_fst)
theorem regReadRow_keeps {s0 : State} (s : State) (o : Origin) (red : Bool) (f : State → State × Word) (h_s : Keeps s0 s) (h_f : ∀ x0, Keeps s0 x0 → KeepsP s0 (f x0)) : Keeps s0 (regReadRow s o red f) := by
  unfold regReadRow
  repeat' (first | with_reducible assumption | with_reducible intro _ | fail_if_no_progress beta_reduce | with_reducible apply h_f | with_reducible apply regAnswer_keeps | with_reducible apply keeps_ite | with_reducible apply keepsP_ite | with_reducible apply keepsQ_ite | split | with_reducible apply keepsP_mk | with_reducible apply keepsQ_mk | with_reducible apply keeps_fst (by assumption) | with_reducible apply keeps_snd (by assumption) | with_reducible apply keeps_some (by assumption) | with_reducible apply keeps_okE (by assumption) | with_reducible apply KeepsP_fst)
theorem plainWrite_keeps {s0 : State} (s : State) (r : RegRef) (v : Word) (h_s : Keeps s0 s) : KeepsP s0 (plainWrite s r v) := by
  unfold plainWrite
  repeat' (first | with_reducible assumption | (extract_lets +onlyGivenNames zz; first | (refine (fun (hx : Keeps s0 zz) => ?_) ?_ <;> [(clear_value zz; revert zz; intro _ _); subst zz]) | (clear_value zz; revert zz; intro _)) | with_reducible apply setRegWord_keeps | with_reducible apply keptChanged_keeps | with_reducible apply keeps_ite | with_reducible apply keepsP_ite | with_reducible apply keepsQ_ite | (with_reducible refine keeps_foldl ?_ (fun _ _ _ => ?_) <;> beta_reduce) | (with_reducible refine keepsP_foldl ?_ (fun _ _ _ => ?_) <;> beta_reduce) | split | with_reducible apply keepsP_mk)

end Sys2Proof.Machine
end

