-- ==== Sys2Proof/Laws/KeepsCalItems.lean ====
section
/-!
SUPPORT. What the operations of Machine/CalItems keep (see Laws/Keeps).
-/
namespace Sys2Proof.Machine
open Sys2Proof

theorem setCal_keeps {s0 : State} (s : State) (cls : Nat) (inst : Nat) (x : CalItem) (h_s : Keeps s0 s) : Keeps s0 (setCal s cls inst x) := by
  unfold setCal
  repeat' (first | with_reducible assumption | (extract_lets +onlyGivenNames zz; first | (clear_value zz; revert zz; intro _)) | with_reducible apply keeps_ite | with_reducible apply keepsP_ite | with_reducible apply keepsQ_ite | split | with_reducible apply keepsP_mk | with_reducible apply keepsQ_mk | with_reducible apply keeps_fst (by assumption) | with_reducible apply keeps_snd (by assumption) | with_reducible apply keeps_some (by assumption) | with_reducible apply keeps_okE (by assumption) | with_reducible apply KeepsP_fst | with_reducible apply KeepsQ_snd | fail_if_no_progress with_reducible refine keeps_mk rfl rfl rfl rfl ?_)
theorem putCal_keeps {s0 : State} (s : State) (cls : Nat) (inst : Nat) (x : CalItem) (h_s : Keeps s0 s) : Keeps s0 (putCal s cls inst x) := by
  unfold putCal
  repeat' (first | with_reducible assumption | (extract_lets +onlyGivenNames zz; first | (clear_value zz; revert zz; intro _)) | with_reducible apply setCal_keeps | with_reducible apply keeps_ite | with_reducible apply keepsP_ite | with_reducible apply keepsQ_ite | split | with_reducible apply keepsP_mk | with_reducible apply keepsQ_mk | with_reducible apply keeps_fst (by assumption) | with_reducible apply keeps_snd (by assumption) | with_reducible apply keeps_some (by assumption) | with_reducible apply keeps_okE (by assumption) | with_reducible apply KeepsP_fst | with_reducible apply KeepsQ_snd | fail_if_no_progress with_reducible refine keeps_mk rfl rfl rfl rfl ?_)
theorem modOptic_keeps {s0 : State} (s : State) (e : Nat) (f : Optic → Optic) (h_s : Keeps s0 s) : Keeps s0 (modOptic s e f) := by
  unfold modOptic
  repeat' (first | with_reducible assumption | with_reducible apply keeps_ite | with_reducible apply keepsP_ite | with_reducible apply keepsQ_ite | split | with_reducible apply keepsP_mk | with_reducible apply keepsQ_mk | with_reducible apply keeps_fst (by assumption) | with_reducible apply keeps_snd (by assumption) | with_reducible apply keeps_some (by assumption) | with_reducible apply keeps_okE (by assumption) | with_reducible apply KeepsP_fst | with_reducible apply KeepsQ_snd | fail_if_no_progress with_reducible refine keeps_mk rfl rfl rfl rfl ?_)
theorem setElem_keeps {s0 : State} (s : State) (e : Nat) (i : Nat) (x : Elem) (h_s : Keeps s0 s) : Keeps s0 (setElem s e i x) := by
  unfold setElem
  repeat' (first | with_reducible assumption | with_reducible apply modOptic_keeps)
theorem steerElem_keeps {s0 : State} (s : State) (e : Nat) (i : Nat) (h_s : Keeps s0 s) : Keeps s0 (steerElem s e i) := by
  unfold steerElem
  repeat' (first | with_reducible assumption | (extract_lets +onlyGivenNames zz; first | (clear_value zz; revert zz; intro _)) | with_reducible apply setElem_keeps)
theorem closeElem_keeps {s0 : State} (s : State) (cls : Nat) (inst : Nat) (h_s : Keeps s0 s) : Keeps s0 (closeElem s cls inst) := by
  unfold closeElem
  repeat' (first | with_reducible assumption | (extract_lets +onlyGivenNames zz; first | (clear_value zz; revert zz; intro _)) | with_reducible apply steerElem_keeps | with_reducible apply keeps_ite)
theorem calAbandon_keeps {s0 : State} (s : State) (cls : Nat) (inst : Nat) (h_s : Keeps s0 s) : Keeps s0 (calAbandon s cls inst) := by
  unfold calAbandon
  repeat' (first | with_reducible assumption | (extract_lets +onlyGivenNames zz; first | (clear_value zz; revert zz; intro _)) | with_reducible apply report_keeps | with_reducible apply setEvent_keeps | with_reducible apply setCal_keeps | with_reducible apply closeElem_keeps | with_reducible apply keeps_ite)
theorem calBegin_keeps {s0 : State} (s : State) (cls : Nat) (inst : Nat) (h_s : Keeps s0 s) : Keeps s0 (calBegin s cls inst) := by
  unfold calBegin
  repeat' (first | with_reducible assumption | (extract_lets +onlyGivenNames zz; first | (clear_value zz; revert zz; intro _)) | with_reducible apply setCal_keeps)
theorem calBad_keeps {s0 : State} (s : State) (cls : Nat) (inst : Nat) (h_s : Keeps s0 s) : Keeps s0 (calBad s cls inst) := by
  unfold calBad
  repeat' (first | with_reducible assumption | (extract_lets +onlyGivenNames zz; first | (refine (fun (hx : Keeps s0 zz) => ?_) ?_ <;> [(clear_value zz; revert zz; intro _ _); subst zz]) | (clear_value zz; revert zz; intro _)) | with_reducible apply report_keeps | with_reducible apply setEvent_keeps | with_reducible apply putCal_keeps | with_reducible apply closeElem_keeps | with_reducible apply keeps_ite)
theorem refMismatch_keeps {s0 : State} (s : State) (cls : Nat) (inst : Nat) (h_s : Keeps s0 s) : Keeps s0 (refMismatch s cls inst) := by
  unfold refMismatch
  repeat' (first | with_reducible assumption | (extract_lets +onlyGivenNames zz; first | (refine (fun (hx : Keeps s0 zz) => ?_) ?_ <;> [(clear_value zz; revert zz; intro _ _); subst zz]) | (clear_value zz; revert zz; intro _)) | with_reducible apply setRegWord_keeps | with_reducible apply report_keeps | with_reducible apply setEvent_keeps | with_reducible apply calBad_keeps | with_reducible apply keeps_ite | with_reducible apply keepsO_ite | with_reducible apply keepsP_ite | with_reducible apply keepsQ_ite | split | with_reducible apply keepsP_mk | with_reducible apply keepsQ_mk | with_reducible apply keepsO_some | exact keepsO_none | with_reducible apply keepsO_getD | with_reducible apply keeps_fst (by assumption) | with_reducible apply keeps_snd (by assumption) | with_reducible apply keeps_some (by assumption) | with_reducible apply keeps_okE (by assumption) | with_reducible apply KeepsP_fst | with_reducible apply KeepsQ_snd | fail_if_no_progress with_reducible refine keeps_mk rfl rfl rfl rfl ?_)
theorem runItem_keeps {s0 : State} (mismatch : Bool) (s : State) (k : Nat × Nat) (h_s : Keeps s0 s) : Keeps s0 (runItem mismatch s k) := by
  unfold runItem
  repeat' (first | with_reducible assumption | (extract_lets +onlyGivenNames zz; first | (clear_value zz; revert zz; intro _)) | with_reducible apply calBegin_keeps | with_reducible apply refMismatch_keeps | with_reducible apply keeps_ite | with_reducible apply keepsP_ite | with_reducible apply keepsQ_ite | split | with_reducible apply keepsP_mk | with_reducible apply keepsQ_mk | with_reducible apply keeps_fst (by assumption) | with_reducible apply keeps_snd (by assumption) | with_reducible apply keeps_some (by assumption) | with_reducible apply keeps_okE (by assumption) | with_reducible apply KeepsP_fst | with_reducible apply KeepsQ_snd | fail_if_no_progress with_reducible refine keeps_mk rfl rfl rfl rfl ?_)
theorem runDue_keeps {s0 : State} (mismatch : Bool) (s : State) (l : List (Nat × Nat)) (h_s : Keeps s0 s) : Keeps s0 (runDue mismatch s l) := by
  unfold runDue
  repeat' (first | with_reducible assumption | with_reducible apply runItem_keeps | with_reducible apply keeps_ite | with_reducible apply keepsP_ite | with_reducible apply keepsQ_ite | (with_reducible refine keeps_foldl ?_ (fun _ _ _ => ?_) <;> beta_reduce))
theorem abandonLane_keeps {s0 : State} (s : State) (e : Nat) (p : Nat) (c : Nat) (h_s : Keeps s0 s) : Keeps s0 (abandonLane s e p c) := by
  unfold abandonLane
  repeat' (first | with_reducible assumption | with_reducible apply calAbandon_keeps | with_reducible apply keeps_ite | with_reducible apply keepsP_ite | with_reducible apply keepsQ_ite | (with_reducible refine keeps_foldl ?_ (fun _ _ _ => ?_) <;> beta_reduce))

end Sys2Proof.Machine
end

