-- ==== Sys2Proof/Laws/KeepsOptics.lean ====
section
/-!
SUPPORT. What the operations of Machine/Optics keep (see Laws/Keeps).
-/
namespace Sys2Proof.Machine
open Sys2Proof

theorem optReport_keeps {s0 : State} (s : State) (e : Nat) (code : Nat) (f : Fld) (detail : List Byte) (h_s : Keeps s0 s) : Keeps s0 (optReport s e code f detail) := by
  unfold optReport
  repeat' (first | with_reducible assumption | with_reducible apply report_keeps | with_reducible apply setEventAt_keeps)
theorem coverLane_keeps {s0 : State} (s : State) (e : Nat) (p : Nat) (c : Nat) (st : LaneState) (h_s : Keeps s0 s) : Keeps s0 (coverLane s e p c st) := by
  unfold coverLane
  repeat' (first | with_reducible assumption | (extract_lets +onlyGivenNames zz; first | (refine (fun (hx : Keeps s0 zz) => ?_) ?_ <;> [(clear_value zz; revert zz; intro _ _); subst zz])) | with_reducible apply modLane_keeps | with_reducible apply optReport_keeps)
theorem dropLane_keeps {s0 : State} (s : State) (e : Nat) (p : Nat) (c : Nat) (h_s : Keeps s0 s) : Keeps s0 (dropLane s e p c) := by
  unfold dropLane
  repeat' (first | with_reducible assumption | (extract_lets +onlyGivenNames zz; first | (refine (fun (hx : Keeps s0 zz) => ?_) ?_ <;> [(clear_value zz; revert zz; intro _ _); subst zz]) | (refine (fun (hx : KeepsP s0 zz) => ?_) ?_ <;> [(clear_value zz; revert zz; intro _ _); subst zz]) | (refine (fun (hx : KeepsQ s0 zz) => ?_) ?_ <;> [(clear_value zz; revert zz; intro _ _); subst zz]) | (refine (fun (hx : KeepsO s0 zz) => ?_) ?_ <;> [(clear_value zz; revert zz; intro _ _); subst zz]) | (refine (fun (hx : KeepsE s0 zz) => ?_) ?_ <;> [(clear_value zz; revert zz; intro _ _); subst zz]) | (refine (fun (hx : Keeps s0 (Issue.s zz)) => ?_) ?_ <;> [(clear_value zz; revert zz; intro _ _); subst zz]) | (refine (fun (hx : Keeps s0 (StackRead.st zz)) => ?_) ?_ <;> [(clear_value zz; revert zz; intro _ _); subst zz]) | (refine (fun (hx : ∀ t, Keeps s0 t → Keeps s0 (zz t)) => ?_) ?_ <;> [(clear_value zz; revert zz; intro _ hloc); (subst zz; intro t ht; beta_reduce)]) | (refine (fun (hx : ∀ t u, Keeps s0 t → Keeps s0 (zz t u)) => ?_) ?_ <;> [(clear_value zz; revert zz; intro _ hloc); (subst zz; intro t u ht; beta_reduce)]) | (refine (fun (hx : ∀ t, Keeps s0 (zz t)) => ?_) ?_ <;> [(clear_value zz; revert zz; intro _ hloc); (subst zz; intro t; beta_reduce)]) | (refine (fun (hx : ∀ t u, Keeps s0 (zz t u)) => ?_) ?_ <;> [(clear_value zz; revert zz; intro _ hloc); (subst zz; intro t u; beta_reduce)]) | (refine (fun (hx : ∀ t u v, Keeps s0 t → Keeps s0 (zz t u v)) => ?_) ?_ <;> [(clear_value zz; revert zz; intro _ hloc); (subst zz; intro t u v ht; beta_reduce)]) | (refine (fun (hx : ∀ t u v w, Keeps s0 t → Keeps s0 (zz t u v w)) => ?_) ?_ <;> [(clear_value zz; revert zz; intro _ hloc); (subst zz; intro t u v w ht; beta_reduce)]) | (refine (fun (_ : Security) => ?_) zz; subst zz) | (clear_value zz; revert zz; intro _)) | with_reducible apply modLane_keeps | with_reducible apply optReport_keeps)
theorem spareFree_keeps {s0 : State} (s : State) (e : Nat) (p : Nat) (h_s : Keeps s0 s) : Keeps s0 (spareFree s e p) := by
  unfold spareFree
  repeat' (first | with_reducible assumption | (extract_lets +onlyGivenNames zz; first | (refine (fun (hx : Keeps s0 zz) => ?_) ?_ <;> [(clear_value zz; revert zz; intro _ _); subst zz])) | with_reducible apply modLane_keeps | with_reducible apply coverLane_keeps | with_reducible apply keeps_ite | with_reducible apply keepsP_ite | with_reducible apply keepsQ_ite | split)
theorem endLoop_keeps {s0 : State} (s : State) (e : Nat) (k : Nat) (h_s : Keeps s0 s) : Keeps s0 (endLoop s e k) := by
  unfold endLoop
  repeat' (first | with_reducible assumption | (extract_lets +onlyGivenNames zz; first | (refine (fun (hx : Keeps s0 zz) => ?_) ?_ <;> [(clear_value zz; revert zz; intro _ _); subst zz])) | with_reducible apply modOptic_keeps | with_reducible apply modLane_keeps | with_reducible apply keeps_ite | with_reducible apply keepsP_ite | with_reducible apply keepsQ_ite | (with_reducible refine keeps_foldl ?_ (fun _ _ _ => ?_) <;> beta_reduce))
theorem claimSpare_keeps {s0 : State} (s : State) (e : Nat) (p : Nat) (h_s : Keeps s0 s) : Keeps s0 (claimSpare s e p) := by
  unfold claimSpare
  repeat' (first | with_reducible assumption | (extract_lets +onlyGivenNames zz; first | (clear_value zz; revert zz; intro _)) | with_reducible apply abandonLane_keeps | with_reducible apply modLane_keeps | with_reducible apply endLoop_keeps | with_reducible apply keeps_ite | with_reducible apply keepsP_ite | with_reducible apply keepsQ_ite | split)
theorem seekCover_keeps {s0 : State} (s : State) (e : Nat) (p : Nat) (c : Nat) (st : LaneState) (bare : Option LaneState) (h_s : Keeps s0 s) : Keeps s0 (seekCover s e p c st bare) := by
  unfold seekCover
  repeat' (first | with_reducible assumption | (extract_lets +onlyGivenNames zz; first | (refine (fun (hx : Keeps s0 zz) => ?_) ?_ <;> [(clear_value zz; revert zz; intro _ _); subst zz])) | with_reducible apply modLane_keeps | with_reducible apply coverLane_keeps | with_reducible apply dropLane_keeps | with_reducible apply claimSpare_keeps | with_reducible apply keeps_ite | with_reducible apply keepsP_ite | with_reducible apply keepsQ_ite | split)
theorem uncover_keeps {s0 : State} (s : State) (e : Nat) (p : Nat) (dark : Bool) (h_s : Keeps s0 s) : Keeps s0 (uncover s e p dark) := by
  unfold uncover
  repeat' (first | with_reducible assumption | (extract_lets +onlyGivenNames zz; first | (refine (fun (hx : Keeps s0 zz) => ?_) ?_ <;> [(clear_value zz; revert zz; intro _ _); subst zz])) | with_reducible apply abandonLane_keeps | with_reducible apply modLane_keeps | with_reducible apply dropLane_keeps | with_reducible apply keeps_ite | with_reducible apply keepsP_ite | with_reducible apply keepsQ_ite | split)
theorem laneOut_keeps {s0 : State} (s : State) (e : Nat) (p : Nat) (c : Nat) (cause : Nat) (h_s : Keeps s0 s) : Keeps s0 (laneOut s e p c cause) := by
  unfold laneOut
  repeat' (first | with_reducible assumption | (extract_lets +onlyGivenNames zz; first | (refine (fun (hx : Keeps s0 zz) => ?_) ?_ <;> [(clear_value zz; revert zz; intro _ _); subst zz]) | (clear_value zz; revert zz; intro _)) | with_reducible apply sendLink_keeps | with_reducible apply modLane_keeps | with_reducible apply optReport_keeps | with_reducible apply dropLane_keeps | with_reducible apply seekCover_keeps | with_reducible apply uncover_keeps | with_reducible apply keeps_ite | with_reducible apply keepsP_ite | with_reducible apply keepsQ_ite | split)
theorem laneFail_keeps {s0 : State} (s : State) (e : Nat) (p : Nat) (c : Nat) (cause : Nat) (h_s : Keeps s0 s) : Keeps s0 (laneFail s e p c cause) := by
  unfold laneFail
  repeat' (first | with_reducible assumption | with_reducible apply relinkLane_keeps | with_reducible apply laneOut_keeps | with_reducible apply keeps_ite)
theorem partFail_keeps {s0 : State} (s : State) (e : Nat) (p : Nat) (c : Nat) (cause : Nat) (h_s : Keeps s0 s) : Keeps s0 (partFail s e p c cause) := by
  unfold partFail
  repeat' (first | with_reducible assumption | (extract_lets +onlyGivenNames zz; first | (refine (fun (hx : Keeps s0 zz) => ?_) ?_ <;> [(clear_value zz; revert zz; intro _ _); subst zz]) | (refine (fun (hx : KeepsP s0 zz) => ?_) ?_ <;> [(clear_value zz; revert zz; intro _ _); subst zz]) | (refine (fun (hx : KeepsQ s0 zz) => ?_) ?_ <;> [(clear_value zz; revert zz; intro _ _); subst zz]) | (refine (fun (hx : KeepsO s0 zz) => ?_) ?_ <;> [(clear_value zz; revert zz; intro _ _); subst zz]) | (refine (fun (hx : KeepsE s0 zz) => ?_) ?_ <;> [(clear_value zz; revert zz; intro _ _); subst zz]) | (refine (fun (hx : Keeps s0 (Issue.s zz)) => ?_) ?_ <;> [(clear_value zz; revert zz; intro _ _); subst zz]) | (refine (fun (hx : Keeps s0 (StackRead.st zz)) => ?_) ?_ <;> [(clear_value zz; revert zz; intro _ _); subst zz]) | (refine (fun (hx : Keeps s0 (DeltaView.st zz)) => ?_) ?_ <;> [(clear_value zz; revert zz; intro _ _); subst zz]) | (refine (fun (hx : ∀ t, Keeps s0 t → Keeps s0 (zz t)) => ?_) ?_ <;> [(clear_value zz; revert zz; intro _ hloc); (subst zz; intro t ht; beta_reduce)]) | (refine (fun (hx : ∀ t u, Keeps s0 t → Keeps s0 (zz t u)) => ?_) ?_ <;> [(clear_value zz; revert zz; intro _ hloc); (subst zz; intro t u ht; beta_reduce)]) | (refine (fun (hx : ∀ t, Keeps s0 (zz t)) => ?_) ?_ <;> [(clear_value zz; revert zz; intro _ hloc); (subst zz; intro t; beta_reduce)]) | (refine (fun (hx : ∀ t u, Keeps s0 (zz t u)) => ?_) ?_ <;> [(clear_value zz; revert zz; intro _ hloc); (subst zz; intro t u; beta_reduce)]) | (refine (fun (hx : ∀ t u v, Keeps s0 t → Keeps s0 (zz t u v)) => ?_) ?_ <;> [(clear_value zz; revert zz; intro _ hloc); (subst zz; intro t u v ht; beta_reduce)]) | (refine (fun (hx : ∀ t u v w, Keeps s0 t → Keeps s0 (zz t u v w)) => ?_) ?_ <;> [(clear_value zz; revert zz; intro _ hloc); (subst zz; intro t u v w ht; beta_reduce)]) | (refine (fun (_ : Security) => ?_) zz; subst zz) | (clear_value zz; revert zz; intro _)) | with_reducible apply abandonLane_keeps | with_reducible apply relinkLane_keeps | with_reducible apply laneOut_keeps | with_reducible apply laneFail_keeps | with_reducible apply keeps_ite | with_reducible apply keepsP_ite | with_reducible apply keepsQ_ite | split)
theorem execLaneLossOfLight_keeps {s0 : State} (e : Nat) (lanes : List (Nat × Nat)) (s : State) (h_s : Keeps s0 s) : KeepsOut s0 (execLaneLossOfLight e lanes s) := by
  unfold execLaneLossOfLight
  repeat' (first | with_reducible assumption | with_reducible apply done_keeps | with_reducible apply laneFail_keeps | with_reducible apply keeps_ite | with_reducible apply keepsOut_ite | with_reducible apply keepsP_ite | with_reducible apply keepsQ_ite | (with_reducible refine keeps_foldl ?_ (fun _ _ _ => ?_) <;> beta_reduce))
theorem execLaneErrorRatio_keeps {s0 : State} (e : Nat) (p : Nat) (c : Nat) (s : State) (h_s : Keeps s0 s) : KeepsOut s0 (execLaneErrorRatio e p c s) := by
  unfold execLaneErrorRatio
  repeat' (first | with_reducible assumption | with_reducible apply done_keeps | with_reducible apply laneFail_keeps)
theorem execLaneFarEndFail_keeps {s0 : State} (e : Nat) (p : Nat) (c : Nat) (s : State) (h_s : Keeps s0 s) : KeepsOut s0 (execLaneFarEndFail e p c s) := by
  unfold execLaneFarEndFail
  repeat' (first | with_reducible assumption | with_reducible apply done_keeps | with_reducible apply laneFail_keeps)
theorem laneActive_keeps {s0 : State} (s : State) (e : Nat) (p : Nat) (c : Nat) (h_s : Keeps s0 s) : Keeps s0 (laneActive s e p c) := by
  unfold laneActive
  repeat' (first | with_reducible assumption | (extract_lets +onlyGivenNames zz; first | (refine (fun (hx : Keeps s0 zz) => ?_) ?_ <;> [(clear_value zz; revert zz; intro _ _); subst zz]) | (clear_value zz; revert zz; intro _)) | with_reducible apply modLane_keeps | with_reducible apply relinkLane_keeps | with_reducible apply spareFree_keeps | with_reducible apply keeps_ite)
theorem marginShort_keeps {s0 : State} (s : State) (e : Nat) (p : Nat) (c : Nat) (h_s : Keeps s0 s) : Keeps s0 (marginShort s e p c) := by
  unfold marginShort
  repeat' (first | with_reducible assumption | (extract_lets +onlyGivenNames zz; first | (refine (fun (hx : Keeps s0 zz) => ?_) ?_ <;> [(clear_value zz; revert zz; intro _ _); subst zz]) | (clear_value zz; revert zz; intro _)) | with_reducible apply modLane_keeps | with_reducible apply relinkLane_keeps | with_reducible apply optReport_keeps | with_reducible apply uncover_keeps | with_reducible apply keeps_ite)
theorem execMarginTestComplete_keeps {s0 : State} (e : Nat) (p : Nat) (c : Nat) (near : Nat) (far : Nat) (full : Nat) (s : State) (h_s : Keeps s0 s) : KeepsOut s0 (execMarginTestComplete e p c near far full s) := by
  unfold execMarginTestComplete
  repeat' (first | with_reducible assumption | with_reducible apply done_keeps | with_reducible apply modLane_keeps | with_reducible apply laneActive_keeps | with_reducible apply marginShort_keeps | with_reducible apply keeps_ite)
theorem execSpareMarginTest_keeps {s0 : State} (e : Nat) (p : Nat) (near : Nat) (far : Nat) (s : State) (h_s : Keeps s0 s) : KeepsOut s0 (execSpareMarginTest e p near far s) := by
  unfold execSpareMarginTest
  repeat' (first | with_reducible assumption | (extract_lets +onlyGivenNames zz; first | (refine (fun (hx : Keeps s0 zz) => ?_) ?_ <;> [(clear_value zz; revert zz; intro _ _); subst zz]) | (refine (fun (hx : KeepsP s0 zz) => ?_) ?_ <;> [(clear_value zz; revert zz; intro _ _); subst zz]) | (refine (fun (hx : KeepsQ s0 zz) => ?_) ?_ <;> [(clear_value zz; revert zz; intro _ _); subst zz]) | (refine (fun (hx : KeepsO s0 zz) => ?_) ?_ <;> [(clear_value zz; revert zz; intro _ _); subst zz]) | (refine (fun (hx : KeepsE s0 zz) => ?_) ?_ <;> [(clear_value zz; revert zz; intro _ _); subst zz]) | (refine (fun (hx : Keeps s0 (Issue.s zz)) => ?_) ?_ <;> [(clear_value zz; revert zz; intro _ _); subst zz]) | (refine (fun (hx : Keeps s0 (StackRead.st zz)) => ?_) ?_ <;> [(clear_value zz; revert zz; intro _ _); subst zz]) | (refine (fun (hx : ∀ t, Keeps s0 t → Keeps s0 (zz t)) => ?_) ?_ <;> [(clear_value zz; revert zz; intro _ hloc); (subst zz; intro t ht; beta_reduce)]) | (refine (fun (hx : ∀ t u, Keeps s0 t → Keeps s0 (zz t u)) => ?_) ?_ <;> [(clear_value zz; revert zz; intro _ hloc); (subst zz; intro t u ht; beta_reduce)]) | (refine (fun (hx : ∀ t, Keeps s0 (zz t)) => ?_) ?_ <;> [(clear_value zz; revert zz; intro _ hloc); (subst zz; intro t; beta_reduce)]) | (refine (fun (hx : ∀ t u, Keeps s0 (zz t u)) => ?_) ?_ <;> [(clear_value zz; revert zz; intro _ hloc); (subst zz; intro t u; beta_reduce)]) | (refine (fun (hx : ∀ t u v, Keeps s0 t → Keeps s0 (zz t u v)) => ?_) ?_ <;> [(clear_value zz; revert zz; intro _ hloc); (subst zz; intro t u v ht; beta_reduce)]) | (refine (fun (hx : ∀ t u v w, Keeps s0 t → Keeps s0 (zz t u v w)) => ?_) ?_ <;> [(clear_value zz; revert zz; intro _ hloc); (subst zz; intro t u v w ht; beta_reduce)]) | (refine (fun (_ : Security) => ?_) zz; subst zz) | (clear_value zz; revert zz; intro _)) | with_reducible apply done_keeps | with_reducible apply modLane_keeps | with_reducible apply marginShort_keeps | with_reducible apply keeps_ite)
theorem sendIdent_keeps {s0 : State} (s : State) (P : Nat) (c : Nat) (h_s : Keeps s0 s) : Keeps s0 (sendIdent s P c) := by
  unfold sendIdent
  repeat' (first | with_reducible assumption | (extract_lets +onlyGivenNames zz; first | (clear_value zz; revert zz; intro _)) | with_reducible apply emit_keeps | with_reducible apply sendLink_keeps | with_reducible apply keeps_ite | with_reducible apply keepsP_ite | with_reducible apply keepsQ_ite | split)
theorem beginTraining_keeps {s0 : State} (s : State) (e : Nat) (p : Nat) (c : Nat) (h_s : Keeps s0 s) : Keeps s0 (beginTraining s e p c) := by
  unfold beginTraining
  repeat' (first | with_reducible assumption | (extract_lets +onlyGivenNames zz; first | (refine (fun (hx : Keeps s0 zz) => ?_) ?_ <;> [(clear_value zz; revert zz; intro _ _); subst zz]) | (clear_value zz; revert zz; intro _)) | with_reducible apply modLane_keeps | with_reducible apply sendIdent_keeps | with_reducible apply keeps_ite | with_reducible apply keepsP_ite | with_reducible apply keepsQ_ite | split | with_reducible apply keepsP_mk | with_reducible apply keepsQ_mk | with_reducible apply keeps_fst (by assumption) | with_reducible apply keeps_snd (by assumption) | with_reducible apply keeps_some (by assumption) | with_reducible apply keeps_okE (by assumption) | with_reducible apply KeepsP_fst | with_reducible apply KeepsQ_snd | fail_if_no_progress with_reducible refine keeps_mk rfl rfl rfl rfl ?_)
theorem advanceLane_keeps {s0 : State} (e : Nat) (s : State) (l : Nat × Nat) (h_s : Keeps s0 s) : Keeps s0 (advanceLane e s l) := by
  unfold advanceLane
  repeat' (first | with_reducible assumption | (extract_lets +onlyGivenNames zz; first | (clear_value zz; revert zz; intro _)) | with_reducible apply modLane_keeps | with_reducible apply beginTraining_keeps | with_reducible apply keeps_ite)
theorem advanceLanes_keeps {s0 : State} (s : State) (e : Nat) (h_s : Keeps s0 s) : Keeps s0 (advanceLanes s e) := by
  unfold advanceLanes
  repeat' (first | with_reducible assumption | with_reducible apply advanceLane_keeps | with_reducible apply keeps_ite | with_reducible apply keepsP_ite | with_reducible apply keepsQ_ite | (with_reducible refine keeps_foldl ?_ (fun _ _ _ => ?_) <;> beta_reduce))
theorem setIdent_keeps {s0 : State} (s : State) (P : Nat) (c : Nat) (i : IdentInfo) (h_s : Keeps s0 s) : Keeps s0 (setIdent s P c i) := by
  unfold setIdent
  repeat' (first | with_reducible assumption | (extract_lets +onlyGivenNames zz; first | (clear_value zz; revert zz; intro _)) | with_reducible apply keeps_ite | with_reducible apply keepsP_ite | with_reducible apply keepsQ_ite | split | with_reducible apply keepsP_mk | with_reducible apply keepsQ_mk | with_reducible apply keeps_fst (by assumption) | with_reducible apply keeps_snd (by assumption) | with_reducible apply keeps_some (by assumption) | with_reducible apply keeps_okE (by assumption) | with_reducible apply KeepsP_fst | with_reducible apply KeepsQ_snd | fail_if_no_progress with_reducible refine keeps_mk rfl rfl rfl rfl ?_)
theorem holdDark_keeps {s0 : State} (s : State) (P : Nat) (i : IdentInfo) (h_s : Keeps s0 s) : Keeps s0 (holdDark s P i) := by
  unfold holdDark
  repeat' (first | with_reducible assumption | (extract_lets +onlyGivenNames zz; first | (refine (fun (hx : Keeps s0 zz) => ?_) ?_ <;> [(clear_value zz; revert zz; intro _ _); subst zz]) | (clear_value zz; revert zz; intro _)) | with_reducible apply report_keeps | with_reducible apply setEvent_keeps | with_reducible apply modLane_keeps | with_reducible apply relink_keeps | with_reducible apply uncover_keeps | with_reducible apply setIdent_keeps | with_reducible apply keeps_ite | with_reducible apply keepsP_ite | with_reducible apply keepsQ_ite | (with_reducible refine keeps_foldl ?_ (fun _ _ _ => ?_) <;> beta_reduce) | (with_reducible refine keepsP_foldl ?_ (fun _ _ _ => ?_) <;> beta_reduce) | split | with_reducible apply keepsP_mk | with_reducible apply keepsQ_mk | with_reducible apply keeps_fst (by assumption) | with_reducible apply keeps_snd (by assumption) | with_reducible apply keeps_some (by assumption) | with_reducible apply keeps_okE (by assumption) | with_reducible apply KeepsP_fst | with_reducible apply KeepsQ_snd | fail_if_no_progress with_reducible refine keeps_mk rfl rfl rfl rfl ?_)
theorem bypassed_keeps {s0 : State} (s : State) (P : Nat) (h_s : Keeps s0 s) : Keeps s0 (bypassed s P) := by
  unfold bypassed
  repeat' (first | with_reducible assumption | (extract_lets +onlyGivenNames zz; first | (clear_value zz; revert zz; intro _)) | with_reducible apply report_keeps | with_reducible apply setEvent_keeps | with_reducible apply keeps_ite | with_reducible apply keepsP_ite | with_reducible apply keepsQ_ite | split | with_reducible apply keepsP_mk | with_reducible apply keepsQ_mk | with_reducible apply keeps_fst (by assumption) | with_reducible apply keeps_snd (by assumption) | with_reducible apply keeps_some (by assumption) | with_reducible apply keeps_okE (by assumption) | with_reducible apply KeepsP_fst | with_reducible apply KeepsQ_snd | fail_if_no_progress with_reducible refine keeps_mk rfl rfl rfl rfl ?_)
theorem judgeIdent_keeps {s0 : State} (s : State) (P : Nat) (c : Nat) (i : IdentInfo) (ok : State → State) (h_s : Keeps s0 s) (h_ok : ∀ x0, Keeps s0 x0 → Keeps s0 (ok x0)) : Keeps s0 (judgeIdent s P c i ok) := by
  unfold judgeIdent
  repeat' (first | with_reducible assumption | with_reducible intro _ | fail_if_no_progress beta_reduce | (extract_lets +onlyGivenNames zz; first | (refine (fun (hx : Keeps s0 zz) => ?_) ?_ <;> [(clear_value zz; revert zz; intro _ _); subst zz]) | (clear_value zz; revert zz; intro _)) | with_reducible apply h_ok | with_reducible apply setIdent_keeps | with_reducible apply holdDark_keeps | with_reducible apply bypassed_keeps | with_reducible apply keeps_ite | with_reducible apply keepsP_ite | with_reducible apply keepsQ_ite | split | with_reducible apply keepsP_mk | with_reducible apply keepsQ_mk | with_reducible apply keeps_fst (by assumption) | with_reducible apply keeps_snd (by assumption) | with_reducible apply keeps_some (by assumption) | with_reducible apply keeps_okE (by assumption) | with_reducible apply KeepsP_fst | with_reducible apply KeepsQ_snd | fail_if_no_progress with_reducible refine keeps_mk rfl rfl rfl rfl ?_)
theorem execLaneTrainingComplete_keeps {s0 : State} (e : Nat) (p : Nat) (c : Nat) (s : State) (h_s : Keeps s0 s) : KeepsOut s0 (execLaneTrainingComplete e p c s) := by
  unfold execLaneTrainingComplete
  repeat' (first | with_reducible assumption | with_reducible intro _ | fail_if_no_progress beta_reduce | (extract_lets +onlyGivenNames zz; first | (refine (fun (hx : Keeps s0 zz) => ?_) ?_ <;> [(clear_value zz; revert zz; intro _ _); subst zz]) | (refine (fun (hx : KeepsP s0 zz) => ?_) ?_ <;> [(clear_value zz; revert zz; intro _ _); subst zz]) | (refine (fun (hx : KeepsQ s0 zz) => ?_) ?_ <;> [(clear_value zz; revert zz; intro _ _); subst zz]) | (refine (fun (hx : KeepsO s0 zz) => ?_) ?_ <;> [(clear_value zz; revert zz; intro _ _); subst zz]) | (refine (fun (hx : KeepsE s0 zz) => ?_) ?_ <;> [(clear_value zz; revert zz; intro _ _); subst zz]) | (refine (fun (hx : Keeps s0 (Issue.s zz)) => ?_) ?_ <;> [(clear_value zz; revert zz; intro _ _); subst zz]) | (refine (fun (hx : Keeps s0 (StackRead.st zz)) => ?_) ?_ <;> [(clear_value zz; revert zz; intro _ _); subst zz]) | (refine (fun (hx : ∀ t, Keeps s0 t → Keeps s0 (zz t)) => ?_) ?_ <;> [(clear_value zz; revert zz; intro _ hloc); (subst zz; intro t ht; beta_reduce)]) | (refine (fun (hx : ∀ t u, Keeps s0 t → Keeps s0 (zz t u)) => ?_) ?_ <;> [(clear_value zz; revert zz; intro _ hloc); (subst zz; intro t u ht; beta_reduce)]) | (refine (fun (hx : ∀ t, Keeps s0 (zz t)) => ?_) ?_ <;> [(clear_value zz; revert zz; intro _ hloc); (subst zz; intro t; beta_reduce)]) | (refine (fun (hx : ∀ t u, Keeps s0 (zz t u)) => ?_) ?_ <;> [(clear_value zz; revert zz; intro _ hloc); (subst zz; intro t u; beta_reduce)]) | (refine (fun (hx : ∀ t u v, Keeps s0 t → Keeps s0 (zz t u v)) => ?_) ?_ <;> [(clear_value zz; revert zz; intro _ hloc); (subst zz; intro t u v ht; beta_reduce)]) | (refine (fun (hx : ∀ t u v w, Keeps s0 t → Keeps s0 (zz t u v w)) => ?_) ?_ <;> [(clear_value zz; revert zz; intro _ hloc); (subst zz; intro t u v w ht; beta_reduce)]) | (refine (fun (_ : Security) => ?_) zz; subst zz) | (clear_value zz; revert zz; intro _)) | with_reducible apply done_keeps | with_reducible apply modLane_keeps | with_reducible apply judgeIdent_keeps | with_reducible apply keeps_ite | with_reducible apply keepsOut_ite | with_reducible apply keepsP_ite | with_reducible apply keepsQ_ite | split)
theorem markAbsent_keeps {s0 : State} (s : State) (P : Nat) (h_s : Keeps s0 s) : Keeps s0 (markAbsent s P) := by
  unfold markAbsent
  repeat' (first | with_reducible assumption | (extract_lets +onlyGivenNames zz; first | (clear_value zz; revert zz; intro _)) | with_reducible apply report_keeps | with_reducible apply setEvent_keeps | with_reducible apply keeps_ite | with_reducible apply keepsP_ite | with_reducible apply keepsQ_ite | split | with_reducible apply keepsP_mk | with_reducible apply keepsQ_mk | with_reducible apply keeps_fst (by assumption) | with_reducible apply keeps_snd (by assumption) | with_reducible apply keeps_some (by assumption) | with_reducible apply keeps_okE (by assumption) | with_reducible apply KeepsP_fst | with_reducible apply KeepsQ_snd | fail_if_no_progress with_reducible refine keeps_mk rfl rfl rfl rfl ?_)
theorem trainingFails_keeps {s0 : State} (s : State) (e : Nat) (p : Nat) (c : Nat) (h_s : Keeps s0 s) : Keeps s0 (trainingFails s e p c) := by
  unfold trainingFails
  repeat' (first | with_reducible assumption | (extract_lets +onlyGivenNames zz; first | (refine (fun (hx : Keeps s0 zz) => ?_) ?_ <;> [(clear_value zz; revert zz; intro _ _); subst zz]) | (clear_value zz; revert zz; intro _)) | with_reducible apply modLane_keeps | with_reducible apply relinkLane_keeps | with_reducible apply laneOut_keeps)
theorem trainingBound_keeps {s0 : State} (s : State) (e : Nat) (p : Nat) (c : Nat) (h_s : Keeps s0 s) : Keeps s0 (trainingBound s e p c) := by
  unfold trainingBound
  repeat' (first | with_reducible assumption | with_reducible intro _ | fail_if_no_progress beta_reduce | (extract_lets +onlyGivenNames zz; first | (refine (fun (hx : Keeps s0 zz) => ?_) ?_ <;> [(clear_value zz; revert zz; intro _ _); subst zz]) | (refine (fun (hx : KeepsP s0 zz) => ?_) ?_ <;> [(clear_value zz; revert zz; intro _ _); subst zz]) | (refine (fun (hx : KeepsQ s0 zz) => ?_) ?_ <;> [(clear_value zz; revert zz; intro _ _); subst zz]) | (refine (fun (hx : KeepsO s0 zz) => ?_) ?_ <;> [(clear_value zz; revert zz; intro _ _); subst zz]) | (refine (fun (hx : KeepsE s0 zz) => ?_) ?_ <;> [(clear_value zz; revert zz; intro _ _); subst zz]) | (refine (fun (hx : Keeps s0 (Issue.s zz)) => ?_) ?_ <;> [(clear_value zz; revert zz; intro _ _); subst zz]) | (refine (fun (hx : Keeps s0 (StackRead.st zz)) => ?_) ?_ <;> [(clear_value zz; revert zz; intro _ _); subst zz]) | (refine (fun (hx : Keeps s0 (DeltaView.st zz)) => ?_) ?_ <;> [(clear_value zz; revert zz; intro _ _); subst zz]) | (refine (fun (hx : ∀ t, Keeps s0 t → Keeps s0 (zz t)) => ?_) ?_ <;> [(clear_value zz; revert zz; intro _ hloc); (subst zz; intro t ht; beta_reduce)]) | (refine (fun (hx : ∀ t u, Keeps s0 t → Keeps s0 (zz t u)) => ?_) ?_ <;> [(clear_value zz; revert zz; intro _ hloc); (subst zz; intro t u ht; beta_reduce)]) | (refine (fun (hx : ∀ t, Keeps s0 (zz t)) => ?_) ?_ <;> [(clear_value zz; revert zz; intro _ hloc); (subst zz; intro t; beta_reduce)]) | (refine (fun (hx : ∀ t u, Keeps s0 (zz t u)) => ?_) ?_ <;> [(clear_value zz; revert zz; intro _ hloc); (subst zz; intro t u; beta_reduce)]) | (refine (fun (hx : ∀ t u v, Keeps s0 t → Keeps s0 (zz t u v)) => ?_) ?_ <;> [(clear_value zz; revert zz; intro _ hloc); (subst zz; intro t u v ht; beta_reduce)]) | (refine (fun (hx : ∀ t u v w, Keeps s0 t → Keeps s0 (zz t u v w)) => ?_) ?_ <;> [(clear_value zz; revert zz; intro _ hloc); (subst zz; intro t u v w ht; beta_reduce)]) | (refine (fun (_ : Security) => ?_) zz; subst zz) | (clear_value zz; revert zz; intro _)) | with_reducible apply judgeIdent_keeps | with_reducible apply trainingFails_keeps | with_reducible apply keeps_ite | with_reducible apply keepsP_ite | with_reducible apply keepsQ_ite | split)
theorem execLaneTrainingTimeout_keeps {s0 : State} (e : Nat) (p : Nat) (c : Nat) (s : State) (h_s : Keeps s0 s) : KeepsOut s0 (execLaneTrainingTimeout e p c s) := by
  unfold execLaneTrainingTimeout
  repeat' (first | with_reducible assumption | with_reducible apply done_keeps | with_reducible apply markAbsent_keeps | with_reducible apply trainingBound_keeps | with_reducible apply keeps_ite)
theorem retryLane_keeps {s0 : State} (s : State) (e : Nat) (p : Nat) (c : Nat) (locked : Bool) (h_s : Keeps s0 s) : Keeps s0 (retryLane s e p c locked) := by
  unfold retryLane
  repeat' (first | with_reducible assumption | (extract_lets +onlyGivenNames zz; first | (refine (fun (hx : Keeps s0 zz) => ?_) ?_ <;> [(clear_value zz; revert zz; intro _ _); subst zz]) | (refine (fun (hx : ∀ t u, Keeps s0 t → Keeps s0 (zz t u)) => ?_) ?_ <;> [(clear_value zz; revert zz; intro _ hloc); (subst zz; intro t u ht; beta_reduce)]) | (clear_value zz; revert zz; intro _)) | with_reducible apply hloc | with_reducible apply modOptic_keeps | with_reducible apply setElem_keeps | with_reducible apply modLane_keeps | with_reducible apply beginTraining_keeps | with_reducible apply keeps_ite | with_reducible apply keepsO_ite | with_reducible apply keepsP_ite | with_reducible apply keepsQ_ite | (with_reducible refine keeps_foldl ?_ (fun _ _ _ => ?_) <;> beta_reduce) | (with_reducible refine keepsP_foldl ?_ (fun _ _ _ => ?_) <;> beta_reduce) | split)
theorem execLaneRetry_keeps {s0 : State} (e : Nat) (p : Nat) (c : Nat) (locked : Bool) (s : State) (h_s : Keeps s0 s) : KeepsOut s0 (execLaneRetry e p c locked s) := by
  unfold execLaneRetry
  repeat' (first | with_reducible assumption | with_reducible apply done_keeps | with_reducible apply retryLane_keeps)
theorem execLightReturnRetry_keeps {s0 : State} (e : Nat) (p : Nat) (c : Nat) (locked : Bool) (s : State) (h_s : Keeps s0 s) : KeepsOut s0 (execLightReturnRetry e p c locked s) := by
  unfold execLightReturnRetry
  repeat' (first | with_reducible assumption | with_reducible apply done_keeps | with_reducible apply retryLane_keeps | with_reducible apply keeps_ite)
theorem laneDone_keeps {s0 : State} (s : State) (e : Nat) (p : Nat) (c : Nat) (h_s : Keeps s0 s) : Keeps s0 (laneDone s e p c) := by
  unfold laneDone
  repeat' (first | with_reducible assumption | (extract_lets +onlyGivenNames zz; first | (refine (fun (hx : Keeps s0 zz) => ?_) ?_ <;> [(clear_value zz; revert zz; intro _ _); subst zz]) | (refine (fun (hx : KeepsP s0 zz) => ?_) ?_ <;> [(clear_value zz; revert zz; intro _ _); subst zz]) | (refine (fun (hx : KeepsQ s0 zz) => ?_) ?_ <;> [(clear_value zz; revert zz; intro _ _); subst zz]) | (refine (fun (hx : KeepsO s0 zz) => ?_) ?_ <;> [(clear_value zz; revert zz; intro _ _); subst zz]) | (refine (fun (hx : KeepsE s0 zz) => ?_) ?_ <;> [(clear_value zz; revert zz; intro _ _); subst zz]) | (refine (fun (hx : Keeps s0 (Issue.s zz)) => ?_) ?_ <;> [(clear_value zz; revert zz; intro _ _); subst zz]) | (refine (fun (hx : Keeps s0 (StackRead.st zz)) => ?_) ?_ <;> [(clear_value zz; revert zz; intro _ _); subst zz]) | (refine (fun (hx : Keeps s0 (DeltaView.st zz)) => ?_) ?_ <;> [(clear_value zz; revert zz; intro _ _); subst zz]) | (refine (fun (hx : ∀ t, Keeps s0 t → Keeps s0 (zz t)) => ?_) ?_ <;> [(clear_value zz; revert zz; intro _ hloc); (subst zz; intro t ht; beta_reduce)]) | (refine (fun (hx : ∀ t u, Keeps s0 t → Keeps s0 (zz t u)) => ?_) ?_ <;> [(clear_value zz; revert zz; intro _ hloc); (subst zz; intro t u ht; beta_reduce)]) | (refine (fun (hx : ∀ t, Keeps s0 (zz t)) => ?_) ?_ <;> [(clear_value zz; revert zz; intro _ hloc); (subst zz; intro t; beta_reduce)]) | (refine (fun (hx : ∀ t u, Keeps s0 (zz t u)) => ?_) ?_ <;> [(clear_value zz; revert zz; intro _ hloc); (subst zz; intro t u; beta_reduce)]) | (refine (fun (hx : ∀ t u v, Keeps s0 t → Keeps s0 (zz t u v)) => ?_) ?_ <;> [(clear_value zz; revert zz; intro _ hloc); (subst zz; intro t u v ht; beta_reduce)]) | (refine (fun (hx : ∀ t u v w, Keeps s0 t → Keeps s0 (zz t u v w)) => ?_) ?_ <;> [(clear_value zz; revert zz; intro _ hloc); (subst zz; intro t u v w ht; beta_reduce)]) | (refine (fun (_ : Security) => ?_) zz; subst zz) | (clear_value zz; revert zz; intro _)) | with_reducible apply modLane_keeps | with_reducible apply keeps_ite)
theorem execCalCoverSwitchPoint_keeps {s0 : State} (e : Nat) (p : Nat) (lane : LaneCheck) (s : State) (h_s : Keeps s0 s) : KeepsOut s0 (execCalCoverSwitchPoint e p lane s) := by
  unfold execCalCoverSwitchPoint
  repeat' (first | with_reducible assumption | (extract_lets +onlyGivenNames zz; first | (refine (fun (hx : Keeps s0 zz) => ?_) ?_ <;> [(clear_value zz; revert zz; intro _ _); subst zz]) | (clear_value zz; revert zz; intro _)) | with_reducible apply done_keeps | with_reducible apply runDue_keeps | with_reducible apply modLane_keeps | with_reducible apply relinkLane_keeps | with_reducible apply coverLane_keeps | with_reducible apply laneDone_keeps | with_reducible apply keeps_ite)
theorem sampleElem_keeps {s0 : State} (e : Nat) (s : State) (x : Nat × Nat × Nat × Bool) (h_s : Keeps s0 s) : Keeps s0 (sampleElem e s x) := by
  unfold sampleElem
  repeat' (first | with_reducible assumption | (extract_lets +onlyGivenNames zz; first | (clear_value zz; revert zz; intro _)) | with_reducible apply setElem_keeps | with_reducible apply keeps_ite)
theorem execElementLoopSample_keeps {s0 : State} (e : Nat) (elems : List (Nat × Nat × Nat × Bool)) (lasers : List (Nat × Nat × Nat)) (s : State) (h_s : Keeps s0 s) : KeepsOut s0 (execElementLoopSample e elems lasers s) := by
  unfold execElementLoopSample
  repeat' (first | with_reducible assumption | (extract_lets +onlyGivenNames zz; first | (refine (fun (hx : Keeps s0 zz) => ?_) ?_ <;> [(clear_value zz; revert zz; intro _ _); subst zz])) | with_reducible apply done_keeps | with_reducible apply modOptic_keeps | with_reducible apply advanceLanes_keeps | with_reducible apply sampleElem_keeps | with_reducible apply keeps_ite | with_reducible apply keepsOut_ite | with_reducible apply keepsP_ite | with_reducible apply keepsQ_ite | (with_reducible refine keeps_foldl ?_ (fun _ _ _ => ?_) <;> beta_reduce))
theorem tripLane_keeps {s0 : State} (e : Nat) (s : State) (l : Nat × Nat) (h_s : Keeps s0 s) : Keeps s0 (tripLane e s l) := by
  unfold tripLane
  repeat' (first | with_reducible assumption | (extract_lets +onlyGivenNames zz; first | (clear_value zz; revert zz; intro _)) | with_reducible apply modLane_keeps | with_reducible apply partFail_keeps | with_reducible apply keeps_ite | with_reducible apply keepsP_ite | with_reducible apply keepsQ_ite | split)
theorem tripLaser_keeps {s0 : State} (s : State) (e : Nat) (i : Nat) (h_s : Keeps s0 s) : Keeps s0 (tripLaser s e i) := by
  unfold tripLaser
  repeat' (first | with_reducible assumption | (extract_lets +onlyGivenNames zz; first | (clear_value zz; revert zz; intro _)) | with_reducible apply modOptic_keeps)
theorem safeOutput_keeps {s0 : State} (s : State) (e : Nat) (i : Nat) (h_s : Keeps s0 s) : Keeps s0 (safeOutput s e i) := by
  unfold safeOutput
  repeat' (first | with_reducible assumption | with_reducible apply endLoop_keeps | with_reducible apply tripLaser_keeps | with_reducible apply keeps_ite)
theorem execElementTrip_keeps {s0 : State} (e : Nat) (i : Nat) (noMatch : Bool) (s : State) (h_s : Keeps s0 s) : KeepsOut s0 (execElementTrip e i noMatch s) := by
  unfold execElementTrip
  repeat' (first | with_reducible assumption | (extract_lets +onlyGivenNames zz; first | (refine (fun (hx : Keeps s0 zz) => ?_) ?_ <;> [(clear_value zz; revert zz; intro _ _); subst zz]) | (clear_value zz; revert zz; intro _)) | with_reducible apply done_keeps | with_reducible apply satFldAt_keeps | with_reducible apply report_keeps | with_reducible apply setElem_keeps | with_reducible apply optReport_keeps | with_reducible apply tripLane_keeps | with_reducible apply safeOutput_keeps | with_reducible apply keeps_ite | with_reducible apply keepsOut_ite | with_reducible apply keepsP_ite | with_reducible apply keepsQ_ite | (with_reducible refine keeps_foldl ?_ (fun _ _ _ => ?_) <;> beta_reduce))
theorem recoverLane_keeps {s0 : State} (e : Nat) (s : State) (l : Nat × Nat) (h_s : Keeps s0 s) : Keeps s0 (recoverLane e s l) := by
  unfold recoverLane
  repeat' (first | with_reducible assumption | (extract_lets +onlyGivenNames zz; first | (refine (fun (hx : Keeps s0 zz) => ?_) ?_ <;> [(clear_value zz; revert zz; intro _ _); subst zz]) | (refine (fun (hx : ∀ t, Keeps s0 t → Keeps s0 (zz t)) => ?_) ?_ <;> [(clear_value zz; revert zz; intro _ hloc); (subst zz; intro t ht; beta_reduce)])) | with_reducible apply hloc | with_reducible apply abandonLane_keeps | with_reducible apply modLane_keeps | with_reducible apply relinkLane_keeps | with_reducible apply seekCover_keeps | with_reducible apply laneFail_keeps | with_reducible apply keeps_ite | with_reducible apply keepsP_ite | with_reducible apply keepsQ_ite | split)
theorem execIdentityCheck_keeps {s0 : State} (e : Nat) (i : Nat) (levels : List (Nat × Int)) (ref : Int) (within : Bool) (s : State) (h_s : Keeps s0 s) : KeepsOut s0 (execIdentityCheck e i levels ref within s) := by
  unfold execIdentityCheck
  repeat' (first | with_reducible assumption | (extract_lets +onlyGivenNames zz; first | (refine (fun (hx : Keeps s0 zz) => ?_) ?_ <;> [(clear_value zz; revert zz; intro _ _); subst zz]) | (clear_value zz; revert zz; intro _)) | with_reducible apply done_keeps | with_reducible apply optReport_keeps | with_reducible apply setElem_keeps | with_reducible apply advanceLanes_keeps | with_reducible apply recoverLane_keeps | with_reducible apply keeps_ite | with_reducible apply keepsOut_ite | with_reducible apply keepsP_ite | with_reducible apply keepsQ_ite | (with_reducible refine keeps_foldl ?_ (fun _ _ _ => ?_) <;> beta_reduce))

end Sys2Proof.Machine
end

