-- ==== Sys2Proof/Laws/KeepsSteer.lean ====
section
/-!
SUPPORT. What the operations of Machine/Steer keep (see Laws/Keeps).
-/
namespace Sys2Proof.Machine
open Sys2Proof

theorem setLaser_keeps {s0 : State} (s : State) (e : Nat) (n : Nat) (x : Laser) (h_s : Keeps s0 s) : Keeps s0 (setLaser s e n x) := by
  unfold setLaser
  repeat' (first | with_reducible assumption | with_reducible apply modOptic_keeps)
theorem setHandover_keeps {s0 : State} (s : State) (e : Nat) (c : Nat) (h : Option Handover) (h_s : Keeps s0 s) : Keeps s0 (setHandover s e c h) := by
  unfold setHandover
  repeat' (first | with_reducible assumption | with_reducible apply modOptic_keeps)
theorem announce_keeps {s0 : State} (s : State) (e : Nat) (c : Nat) (h_s : Keeps s0 s) : Keeps s0 (announce s e c) := by
  unfold announce
  repeat' (first | with_reducible assumption | (extract_lets +onlyGivenNames zz; first | (refine (fun (hx : Keeps s0 zz) => ?_) ?_ <;> [(clear_value zz; revert zz; intro _ _); subst zz]) | (refine (fun (hx : KeepsP s0 zz) => ?_) ?_ <;> [(clear_value zz; revert zz; intro _ _); subst zz]) | (refine (fun (hx : KeepsQ s0 zz) => ?_) ?_ <;> [(clear_value zz; revert zz; intro _ _); subst zz]) | (refine (fun (hx : KeepsO s0 zz) => ?_) ?_ <;> [(clear_value zz; revert zz; intro _ _); subst zz]) | (refine (fun (hx : KeepsE s0 zz) => ?_) ?_ <;> [(clear_value zz; revert zz; intro _ _); subst zz]) | (refine (fun (hx : Keeps s0 (Issue.s zz)) => ?_) ?_ <;> [(clear_value zz; revert zz; intro _ _); subst zz]) | (refine (fun (hx : Keeps s0 (StackRead.st zz)) => ?_) ?_ <;> [(clear_value zz; revert zz; intro _ _); subst zz]) | (refine (fun (hx : ∀ t, Keeps s0 t → Keeps s0 (zz t)) => ?_) ?_ <;> [(clear_value zz; revert zz; intro _ hloc); (subst zz; intro t ht; beta_reduce)]) | (refine (fun (hx : ∀ t u, Keeps s0 t → Keeps s0 (zz t u)) => ?_) ?_ <;> [(clear_value zz; revert zz; intro _ hloc); (subst zz; intro t u ht; beta_reduce)]) | (refine (fun (hx : ∀ t, Keeps s0 (zz t)) => ?_) ?_ <;> [(clear_value zz; revert zz; intro _ hloc); (subst zz; intro t; beta_reduce)]) | (refine (fun (hx : ∀ t u, Keeps s0 (zz t u)) => ?_) ?_ <;> [(clear_value zz; revert zz; intro _ hloc); (subst zz; intro t u; beta_reduce)]) | (refine (fun (hx : ∀ t u v, Keeps s0 t → Keeps s0 (zz t u v)) => ?_) ?_ <;> [(clear_value zz; revert zz; intro _ hloc); (subst zz; intro t u v ht; beta_reduce)]) | (refine (fun (hx : ∀ t u v w, Keeps s0 t → Keeps s0 (zz t u v w)) => ?_) ?_ <;> [(clear_value zz; revert zz; intro _ hloc); (subst zz; intro t u v w ht; beta_reduce)]) | (refine (fun (_ : Security) => ?_) zz; subst zz) | (clear_value zz; revert zz; intro _)) | with_reducible apply takeFree_keeps | with_reducible apply sendLink_keeps | with_reducible apply setHandover_keeps | with_reducible apply keeps_ite | with_reducible apply keepsP_ite | with_reducible apply keepsQ_ite | (with_reducible refine keeps_foldl ?_ (fun _ _ _ => ?_) <;> beta_reduce) | (with_reducible refine keepsP_foldl ?_ (fun _ _ _ => ?_) <;> beta_reduce) | split | with_reducible apply keepsP_mk | with_reducible apply keepsQ_mk | with_reducible apply keeps_fst (by assumption) | with_reducible apply keeps_snd (by assumption) | with_reducible apply keeps_some (by assumption) | with_reducible apply keeps_okE (by assumption) | with_reducible apply KeepsP_fst | with_reducible apply KeepsQ_snd)
theorem announceAll_keeps {s0 : State} (s : State) (e : Nat) (h_s : Keeps s0 s) : Keeps s0 (announceAll s e) := by
  unfold announceAll
  repeat' (first | with_reducible assumption | with_reducible apply announce_keeps | with_reducible apply keeps_ite | with_reducible apply keepsP_ite | with_reducible apply keepsQ_ite | (with_reducible refine keeps_foldl ?_ (fun _ _ _ => ?_) <;> beta_reduce))
theorem abandonLaser_keeps {s0 : State} (s : State) (e : Nat) (n : Nat) (h_s : Keeps s0 s) : Keeps s0 (abandonLaser s e n) := by
  unfold abandonLaser
  repeat' (first | with_reducible assumption | with_reducible apply calAbandon_keeps | with_reducible apply keeps_ite | with_reducible apply keepsP_ite | with_reducible apply keepsQ_ite | (with_reducible refine keeps_foldl ?_ (fun _ _ _ => ?_) <;> beta_reduce))
theorem warmSpare_keeps {s0 : State} (s : State) (e : Nat) (n : Nat) (h_s : Keeps s0 s) : Keeps s0 (warmSpare s e n) := by
  unfold warmSpare
  repeat' (first | with_reducible assumption | (extract_lets +onlyGivenNames zz; first | (refine (fun (hx : Keeps s0 zz) => ?_) ?_ <;> [(clear_value zz; revert zz; intro _ _); subst zz]) | (clear_value zz; revert zz; intro _)) | with_reducible apply steerElem_keeps | with_reducible apply setLaser_keeps | with_reducible apply setHandover_keeps | with_reducible apply abandonLaser_keeps)
theorem execLaserHandoverTrigger_keeps {s0 : State} (e : Nat) (n : Nat) (s : State) (h_s : Keeps s0 s) : KeepsOut s0 (execLaserHandoverTrigger e n s) := by
  unfold execLaserHandoverTrigger
  repeat' (first | with_reducible assumption | (extract_lets +onlyGivenNames zz; first | (clear_value zz; revert zz; intro _)) | with_reducible apply done_keeps | with_reducible apply report_keeps | with_reducible apply setHandover_keeps | with_reducible apply announceAll_keeps | with_reducible apply abandonLaser_keeps | with_reducible apply warmSpare_keeps | with_reducible apply keeps_ite)
theorem execLaserSpareLocked_keeps {s0 : State} (e : Nat) (c : Nat) (s : State) (h_s : Keeps s0 s) : KeepsOut s0 (execLaserSpareLocked e c s) := by
  unfold execLaserSpareLocked
  repeat' (first | with_reducible assumption | (extract_lets +onlyGivenNames zz; first | (clear_value zz; revert zz; intro _)) | with_reducible apply done_keeps | with_reducible apply setLaser_keeps | with_reducible apply setHandover_keeps | with_reducible apply announceAll_keeps | with_reducible apply keeps_ite | with_reducible apply keepsOut_ite | with_reducible apply keepsP_ite | with_reducible apply keepsQ_ite | split)
theorem retireLaser_keeps {s0 : State} (s : State) (e : Nat) (n : Nat) (failed : Bool) (h_s : Keeps s0 s) : Keeps s0 (retireLaser s e n failed) := by
  unfold retireLaser
  repeat' (first | with_reducible assumption | (extract_lets +onlyGivenNames zz; first | (refine (fun (hx : Keeps s0 zz) => ?_) ?_ <;> [(clear_value zz; revert zz; intro _ _); subst zz]) | (clear_value zz; revert zz; intro _)) | with_reducible apply eolRegs_keeps | with_reducible apply setElem_keeps | with_reducible apply setLaser_keeps | with_reducible apply keeps_ite | with_reducible apply keepsP_ite | with_reducible apply keepsQ_ite | split | with_reducible apply keepsP_mk | with_reducible apply keepsQ_mk | with_reducible apply keeps_fst (by assumption) | with_reducible apply keeps_snd (by assumption) | with_reducible apply keeps_some (by assumption) | with_reducible apply keeps_okE (by assumption) | with_reducible apply KeepsP_fst | with_reducible apply KeepsQ_snd | fail_if_no_progress with_reducible refine keeps_mk rfl rfl rfl rfl ?_)
theorem useLaser_keeps {s0 : State} (s : State) (e : Nat) (n : Nat) (h_s : Keeps s0 s) : Keeps s0 (useLaser s e n) := by
  unfold useLaser
  repeat' (first | with_reducible assumption | (extract_lets +onlyGivenNames zz; first | (refine (fun (hx : Keeps s0 zz) => ?_) ?_ <;> [(clear_value zz; revert zz; intro _ _); subst zz]) | (clear_value zz; revert zz; intro _)) | with_reducible apply setElem_keeps | with_reducible apply setLaser_keeps | with_reducible apply abandonLaser_keeps)
theorem replayChannel_keeps {s0 : State} (s : State) (e : Nat) (c : Nat) (h_s : Keeps s0 s) : Keeps s0 (replayChannel s e c) := by
  unfold replayChannel
  repeat' (first | with_reducible assumption | with_reducible apply pumpLink_keeps | with_reducible apply replayAll_keeps | with_reducible apply keeps_ite | with_reducible apply keepsP_ite | with_reducible apply keepsQ_ite | (with_reducible refine keeps_foldl ?_ (fun _ _ _ => ?_) <;> beta_reduce))
theorem execHandoverWindowOpen_keeps {s0 : State} (e : Nat) (c : Nat) (s : State) (h_s : Keeps s0 s) : KeepsOut s0 (execHandoverWindowOpen e c s) := by
  unfold execHandoverWindowOpen
  repeat' (first | with_reducible assumption | (extract_lets +onlyGivenNames zz; first | (refine (fun (hx : Keeps s0 zz) => ?_) ?_ <;> [(clear_value zz; revert zz; intro _ _); subst zz]) | (clear_value zz; revert zz; intro _)) | with_reducible apply done_keeps | with_reducible apply optReport_keeps | with_reducible apply setHandover_keeps | with_reducible apply retireLaser_keeps | with_reducible apply useLaser_keeps | with_reducible apply replayChannel_keeps | with_reducible apply keeps_ite | with_reducible apply keepsOut_ite | with_reducible apply keepsP_ite | with_reducible apply keepsQ_ite | split)
theorem execLaserFail_keeps {s0 : State} (e : Nat) (n : Nat) (s : State) (h_s : Keeps s0 s) : KeepsOut s0 (execLaserFail e n s) := by
  unfold execLaserFail
  repeat' (first | with_reducible assumption | (extract_lets +onlyGivenNames zz; first | (refine (fun (hx : Keeps s0 zz) => ?_) ?_ <;> [(clear_value zz; revert zz; intro _ _); subst zz]) | (clear_value zz; revert zz; intro _)) | with_reducible apply done_keeps | with_reducible apply optReport_keeps | with_reducible apply partFail_keeps | with_reducible apply setHandover_keeps | with_reducible apply warmSpare_keeps | with_reducible apply retireLaser_keeps | with_reducible apply useLaser_keeps | with_reducible apply replayChannel_keeps | with_reducible apply keeps_ite | with_reducible apply keepsOut_ite | with_reducible apply keepsP_ite | with_reducible apply keepsQ_ite | (with_reducible refine keeps_foldl ?_ (fun _ _ _ => ?_) <;> beta_reduce))
theorem lightLasers_keeps {s0 : State} (s : State) (e : Nat) (h_s : Keeps s0 s) : Keeps s0 (lightLasers s e) := by
  unfold lightLasers
  repeat' (first | with_reducible assumption | (extract_lets +onlyGivenNames zz; first | (clear_value zz; revert zz; intro _)) | with_reducible apply steerElem_keeps | with_reducible apply setLaser_keeps | with_reducible apply keeps_ite | with_reducible apply keepsP_ite | with_reducible apply keepsQ_ite | (with_reducible refine keeps_foldl ?_ (fun _ _ _ => ?_) <;> beta_reduce) | (with_reducible refine keepsP_foldl ?_ (fun _ _ _ => ?_) <;> beta_reduce) | split)
theorem darkLasers_keeps {s0 : State} (s : State) (e : Nat) (h_s : Keeps s0 s) : Keeps s0 (darkLasers s e) := by
  unfold darkLasers
  repeat' (first | with_reducible assumption | with_reducible apply modOptic_keeps)
theorem releaseCover_keeps {s0 : State} (e : Nat) (ch : List Nat) (s : State) (p : Nat) (h_s : Keeps s0 s) : Keeps s0 (releaseCover e ch s p) := by
  unfold releaseCover
  repeat' (first | with_reducible assumption | (extract_lets +onlyGivenNames zz; first | (clear_value zz; revert zz; intro _)) | with_reducible apply modLane_keeps | with_reducible apply uncover_keeps | with_reducible apply keeps_ite | with_reducible apply keepsP_ite | with_reducible apply keepsQ_ite | split)
theorem startLane_keeps {s0 : State} (e : Nat) (s : State) (l : Nat) (h_s : Keeps s0 s) : Keeps s0 (startLane e s l) := by
  unfold startLane
  repeat' (first | with_reducible assumption | (extract_lets +onlyGivenNames zz; first | (refine (fun (hx : Keeps s0 zz) => ?_) ?_ <;> [(clear_value zz; revert zz; intro _ _); subst zz]) | (clear_value zz; revert zz; intro _)) | with_reducible apply abandonLane_keeps | with_reducible apply setLane_keeps | with_reducible apply setElem_keeps | with_reducible apply steerElem_keeps | with_reducible apply keeps_ite | with_reducible apply keepsP_ite | with_reducible apply keepsQ_ite | split | with_reducible apply keepsP_mk | with_reducible apply keepsQ_mk | with_reducible apply keeps_fst (by assumption) | with_reducible apply keeps_snd (by assumption) | with_reducible apply keeps_some (by assumption) | with_reducible apply keeps_okE (by assumption) | with_reducible apply KeepsP_fst | with_reducible apply KeepsQ_snd | fail_if_no_progress with_reducible refine keeps_mk rfl rfl rfl rfl ?_)
theorem startPort_keeps {s0 : State} (before : Optic) (e : Nat) (s : State) (p : Nat) (h_s : Keeps s0 s) : Keeps s0 (startPort before e s p) := by
  unfold startPort
  repeat' (first | with_reducible assumption | (extract_lets +onlyGivenNames zz; first | (refine (fun (hx : Keeps s0 zz) => ?_) ?_ <;> [(clear_value zz; revert zz; intro _ _); subst zz]) | (clear_value zz; revert zz; intro _)) | with_reducible apply setElem_keeps | with_reducible apply steerElem_keeps | with_reducible apply keeps_ite)
theorem forceExpect_keeps {s0 : State} (e : Nat) (ch : List Nat) (s : State) (h_s : Keeps s0 s) : Keeps s0 (forceExpect e ch s) := by
  unfold forceExpect
  repeat' (first | with_reducible assumption | (extract_lets +onlyGivenNames zz; first | (clear_value zz; revert zz; intro _)) | with_reducible apply keeps_ite | with_reducible apply keepsP_ite | with_reducible apply keepsQ_ite | (with_reducible refine keeps_foldl ?_ (fun _ _ _ => ?_) <;> beta_reduce) | (with_reducible refine keepsP_foldl ?_ (fun _ _ _ => ?_) <;> beta_reduce) | split | with_reducible apply keepsP_mk | with_reducible apply keepsQ_mk | with_reducible apply keeps_fst (by assumption) | with_reducible apply keeps_snd (by assumption) | with_reducible apply keeps_some (by assumption) | with_reducible apply keeps_okE (by assumption) | with_reducible apply KeepsP_fst | with_reducible apply KeepsQ_snd | fail_if_no_progress with_reducible refine keeps_mk rfl rfl rfl rfl ?_)
theorem startLanes_keeps {s0 : State} (s : State) (e : Nat) (before : Optic) (ch : List Nat) (h_s : Keeps s0 s) : Keeps s0 (startLanes s e before ch) := by
  unfold startLanes
  repeat' (first | with_reducible assumption | (extract_lets +onlyGivenNames zz; first | (refine (fun (hx : Keeps s0 zz) => ?_) ?_ <;> [(clear_value zz; revert zz; intro _ _); subst zz])) | with_reducible apply relinkLane_keeps | with_reducible apply spareFree_keeps | with_reducible apply lightLasers_keeps | with_reducible apply darkLasers_keeps | with_reducible apply releaseCover_keeps | with_reducible apply startLane_keeps | with_reducible apply startPort_keeps | with_reducible apply keeps_ite | with_reducible apply keepsP_ite | with_reducible apply keepsQ_ite | (with_reducible refine keeps_foldl ?_ (fun _ _ _ => ?_) <;> beta_reduce))
theorem commitPairs_keeps {s0 : State} (s : State) (e : Nat) (pairs : SMap PairSet) (more : List Nat) (h_s : Keeps s0 s) : Keeps s0 (commitPairs s e pairs more) := by
  unfold commitPairs
  repeat' (first | with_reducible assumption | (extract_lets +onlyGivenNames zz; first | (refine (fun (hx : Keeps s0 zz) => ?_) ?_ <;> [(clear_value zz; revert zz; intro _ _); subst zz]) | (clear_value zz; revert zz; intro _)) | with_reducible apply modOptic_keeps | with_reducible apply forceExpect_keeps | with_reducible apply startLanes_keeps)
theorem commitOptic_keeps {s0 : State} (s : State) (e : Nat) (more : List Nat) (h_s : Keeps s0 s) : Keeps s0 (commitOptic s e more) := by
  unfold commitOptic
  repeat' (first | with_reducible assumption | (extract_lets +onlyGivenNames zz; first | (refine (fun (hx : Keeps s0 zz) => ?_) ?_ <;> [(clear_value zz; revert zz; intro _ _); subst zz]) | (refine (fun (hx : KeepsP s0 zz) => ?_) ?_ <;> [(clear_value zz; revert zz; intro _ _); subst zz]) | (refine (fun (hx : KeepsQ s0 zz) => ?_) ?_ <;> [(clear_value zz; revert zz; intro _ _); subst zz]) | (refine (fun (hx : KeepsO s0 zz) => ?_) ?_ <;> [(clear_value zz; revert zz; intro _ _); subst zz]) | (refine (fun (hx : KeepsE s0 zz) => ?_) ?_ <;> [(clear_value zz; revert zz; intro _ _); subst zz]) | (refine (fun (hx : Keeps s0 (Issue.s zz)) => ?_) ?_ <;> [(clear_value zz; revert zz; intro _ _); subst zz]) | (refine (fun (hx : Keeps s0 (StackRead.st zz)) => ?_) ?_ <;> [(clear_value zz; revert zz; intro _ _); subst zz]) | (refine (fun (hx : Keeps s0 (DeltaView.st zz)) => ?_) ?_ <;> [(clear_value zz; revert zz; intro _ _); subst zz]) | (refine (fun (hx : ∀ t, Keeps s0 t → Keeps s0 (zz t)) => ?_) ?_ <;> [(clear_value zz; revert zz; intro _ hloc); (subst zz; intro t ht; beta_reduce)]) | (refine (fun (hx : ∀ t u, Keeps s0 t → Keeps s0 (zz t u)) => ?_) ?_ <;> [(clear_value zz; revert zz; intro _ hloc); (subst zz; intro t u ht; beta_reduce)]) | (refine (fun (hx : ∀ t, Keeps s0 (zz t)) => ?_) ?_ <;> [(clear_value zz; revert zz; intro _ hloc); (subst zz; intro t; beta_reduce)]) | (refine (fun (hx : ∀ t u, Keeps s0 (zz t u)) => ?_) ?_ <;> [(clear_value zz; revert zz; intro _ hloc); (subst zz; intro t u; beta_reduce)]) | (refine (fun (hx : ∀ t u v, Keeps s0 t → Keeps s0 (zz t u v)) => ?_) ?_ <;> [(clear_value zz; revert zz; intro _ hloc); (subst zz; intro t u v ht; beta_reduce)]) | (refine (fun (hx : ∀ t u v w, Keeps s0 t → Keeps s0 (zz t u v w)) => ?_) ?_ <;> [(clear_value zz; revert zz; intro _ hloc); (subst zz; intro t u v w ht; beta_reduce)]) | (refine (fun (_ : Security) => ?_) zz; subst zz) | (clear_value zz; revert zz; intro _)) | with_reducible apply modOptic_keeps | with_reducible apply commitPairs_keeps | with_reducible apply keeps_ite)
theorem lightRises_keeps {s0 : State} (before : State) (s : State) (e : Nat) (h_before : Keeps s0 before) (h_s : Keeps s0 s) : Keeps s0 (lightRises before s e) := by
  unfold lightRises
  repeat' (first | with_reducible assumption | (extract_lets +onlyGivenNames zz; first | (refine (fun (hx : Keeps s0 zz) => ?_) ?_ <;> [(clear_value zz; revert zz; intro _ _); subst zz]) | (refine (fun (hx : KeepsP s0 zz) => ?_) ?_ <;> [(clear_value zz; revert zz; intro _ _); subst zz]) | (refine (fun (hx : KeepsQ s0 zz) => ?_) ?_ <;> [(clear_value zz; revert zz; intro _ _); subst zz]) | (refine (fun (hx : KeepsO s0 zz) => ?_) ?_ <;> [(clear_value zz; revert zz; intro _ _); subst zz]) | (refine (fun (hx : KeepsE s0 zz) => ?_) ?_ <;> [(clear_value zz; revert zz; intro _ _); subst zz]) | (refine (fun (hx : Keeps s0 (Issue.s zz)) => ?_) ?_ <;> [(clear_value zz; revert zz; intro _ _); subst zz]) | (refine (fun (hx : Keeps s0 (StackRead.st zz)) => ?_) ?_ <;> [(clear_value zz; revert zz; intro _ _); subst zz]) | (refine (fun (hx : Keeps s0 (DeltaView.st zz)) => ?_) ?_ <;> [(clear_value zz; revert zz; intro _ _); subst zz]) | (refine (fun (hx : ∀ t, Keeps s0 t → Keeps s0 (zz t)) => ?_) ?_ <;> [(clear_value zz; revert zz; intro _ hloc); (subst zz; intro t ht; beta_reduce)]) | (refine (fun (hx : ∀ t u, Keeps s0 t → Keeps s0 (zz t u)) => ?_) ?_ <;> [(clear_value zz; revert zz; intro _ hloc); (subst zz; intro t u ht; beta_reduce)]) | (refine (fun (hx : ∀ t, Keeps s0 (zz t)) => ?_) ?_ <;> [(clear_value zz; revert zz; intro _ hloc); (subst zz; intro t; beta_reduce)]) | (refine (fun (hx : ∀ t u, Keeps s0 (zz t u)) => ?_) ?_ <;> [(clear_value zz; revert zz; intro _ hloc); (subst zz; intro t u; beta_reduce)]) | (refine (fun (hx : ∀ t u v, Keeps s0 t → Keeps s0 (zz t u v)) => ?_) ?_ <;> [(clear_value zz; revert zz; intro _ hloc); (subst zz; intro t u v ht; beta_reduce)]) | (refine (fun (hx : ∀ t u v w, Keeps s0 t → Keeps s0 (zz t u v w)) => ?_) ?_ <;> [(clear_value zz; revert zz; intro _ hloc); (subst zz; intro t u v w ht; beta_reduce)]) | (refine (fun (_ : Security) => ?_) zz; subst zz) | (clear_value zz; revert zz; intro _)) | with_reducible apply startLanes_keeps | with_reducible apply commitPairs_keeps | with_reducible apply keeps_ite | with_reducible apply keepsP_ite | with_reducible apply keepsQ_ite | split)
theorem optSteerWrite_keeps {s0 : State} (e : Nat) (s : State) (v : Word) (h_s : Keeps s0 s) : KeepsP s0 (optSteerWrite e s v) := by
  unfold optSteerWrite
  repeat' (first | with_reducible assumption | with_reducible apply commitOptic_keeps | with_reducible apply keeps_ite | with_reducible apply keepsP_ite | with_reducible apply keepsQ_ite | split | with_reducible apply keepsP_mk)
theorem execOptSteerGo_keeps {s0 : State} (o : Origin) (e : Nat) (v : Word) (s : State) (h_s : Keeps s0 s) : KeepsOut s0 (execOptSteerGo o e v s) := by
  unfold execOptSteerGo
  repeat' (first | with_reducible assumption | with_reducible intro _ | fail_if_no_progress beta_reduce | with_reducible apply done_keeps | with_reducible apply regWriteRow_keeps | with_reducible apply optSteerWrite_keeps)
theorem closeLane_keeps {s0 : State} (e : Nat) (s : State) (l : Nat) (h_s : Keeps s0 s) : Keeps s0 (closeLane e s l) := by
  unfold closeLane
  repeat' (first | with_reducible assumption | (extract_lets +onlyGivenNames zz; first | (refine (fun (hx : Keeps s0 zz) => ?_) ?_ <;> [(clear_value zz; revert zz; intro _ _); subst zz]) | (clear_value zz; revert zz; intro _)) | with_reducible apply modLane_keeps | with_reducible apply relinkLane_keeps | with_reducible apply seekCover_keeps | with_reducible apply marginShort_keeps | with_reducible apply trainingBound_keeps | with_reducible apply keeps_ite | with_reducible apply keepsP_ite | with_reducible apply keepsQ_ite | split)
theorem steerDone_keeps {s0 : State} (s : State) (e : Nat) (h_s : Keeps s0 s) : Keeps s0 (steerDone s e) := by
  unfold steerDone
  repeat' (first | with_reducible assumption | (extract_lets +onlyGivenNames zz; first | (refine (fun (hx : Keeps s0 zz) => ?_) ?_ <;> [(clear_value zz; revert zz; intro _ _); subst zz]) | (clear_value zz; revert zz; intro _)) | with_reducible apply setEventAt_keeps | with_reducible apply modOptic_keeps | with_reducible apply markAbsent_keeps | with_reducible apply announceAll_keeps | with_reducible apply closeLane_keeps | with_reducible apply keeps_ite | with_reducible apply keepsP_ite | with_reducible apply keepsQ_ite | (with_reducible refine keeps_foldl ?_ (fun _ _ _ => ?_) <;> beta_reduce))
theorem warmOptic_keeps {s0 : State} (s : State) (e : Nat) (h_s : Keeps s0 s) : Keeps s0 (warmOptic s e) := by
  unfold warmOptic
  repeat' (first | with_reducible assumption | (extract_lets +onlyGivenNames zz; first | (refine (fun (hx : Keeps s0 zz) => ?_) ?_ <;> [(clear_value zz; revert zz; intro _ _); subst zz]) | (refine (fun (hx : ∀ t u, Keeps s0 t → Keeps s0 (zz t u)) => ?_) ?_ <;> [(clear_value zz; revert zz; intro _ hloc); (subst zz; intro t u ht; beta_reduce)]) | (clear_value zz; revert zz; intro _)) | with_reducible apply hloc | with_reducible apply modOptic_keeps | with_reducible apply steerElem_keeps | with_reducible apply startLanes_keeps | with_reducible apply keeps_ite | with_reducible apply keepsP_ite | with_reducible apply keepsQ_ite | (with_reducible refine keeps_foldl ?_ (fun _ _ _ => ?_) <;> beta_reduce))
theorem shutOptic_keeps {s0 : State} (s : State) (e : Nat) (h_s : Keeps s0 s) : Keeps s0 (shutOptic s e) := by
  unfold shutOptic
  repeat' (first | with_reducible assumption | (extract_lets +onlyGivenNames zz; first | (refine (fun (hx : Keeps s0 zz) => ?_) ?_ <;> [(clear_value zz; revert zz; intro _ _); subst zz]) | (clear_value zz; revert zz; intro _)) | with_reducible apply calAbandon_keeps | with_reducible apply modOptic_keeps | with_reducible apply relinkLane_keeps | with_reducible apply keeps_ite | with_reducible apply keepsP_ite | with_reducible apply keepsQ_ite | (with_reducible refine keeps_foldl ?_ (fun _ _ _ => ?_) <;> beta_reduce))

end Sys2Proof.Machine
end

