-- ==== Sys2Proof/Laws/KeepsServoPar.lean ====
section
/-!
SUPPORT. What the operations of Machine/ServoPar keep (see Laws/Keeps).
-/
namespace Sys2Proof.Machine
open Sys2Proof

theorem setEng_keeps {s0 : State} (s : State) (h : Hub) (g : Servo) (h_s : Keeps s0 s) : Keeps s0 (setEng s h g) := by
  unfold setEng
  repeat' (first | with_reducible assumption | with_reducible apply keeps_ite | with_reducible apply keepsP_ite | with_reducible apply keepsQ_ite | split | with_reducible apply keepsP_mk | with_reducible apply keepsQ_mk | with_reducible apply keeps_fst (by assumption) | with_reducible apply keeps_snd (by assumption) | with_reducible apply keeps_some (by assumption) | with_reducible apply keeps_okE (by assumption) | with_reducible apply KeepsP_fst | with_reducible apply KeepsQ_snd | fail_if_no_progress with_reducible refine keeps_mk rfl rfl rfl rfl ?_)
theorem modEng_keeps {s0 : State} (s : State) (h : Hub) (f : Servo → Servo) (h_s : Keeps s0 s) : Keeps s0 (modEng s h f) := by
  unfold modEng
  repeat' (first | with_reducible assumption | with_reducible apply setEng_keeps)
theorem modBoth_keeps {s0 : State} (s : State) (h : Hub) (f : Servo → Servo) (h_s : Keeps s0 s) : Keeps s0 (modBoth s h f) := by
  unfold modBoth
  repeat' (first | with_reducible assumption | (extract_lets +onlyGivenNames zz; first | (refine (fun (hx : Keeps s0 zz) => ?_) ?_ <;> [(clear_value zz; revert zz; intro _ _); subst zz])) | with_reducible apply modEng_keeps | with_reducible apply keeps_ite)

end Sys2Proof.Machine
end

