-- ==== Sys2Proof/Laws/KeepsCal.lean ====
section
/-!
SUPPORT. What the operations of Machine/Cal keep (see Laws/Keeps).
-/
namespace Sys2Proof.Machine
open Sys2Proof

theorem tellFar_keeps {s0 : State} (s : State) (e : Nat) (p : Nat) (c : Nat) (start : Nat) (h_s : Keeps s0 s) : Keeps s0 (tellFar s e p c start) := by
  unfold tellFar
  repeat' (first | with_reducible assumption | with_reducible apply sendLink_keeps | with_reducible apply keeps_ite | with_reducible apply keepsP_ite | with_reducible apply keepsQ_ite | split)
theorem announceCal_keeps {s0 : State} (s : State) (e : Nat) (p : Nat) (c : Nat) (h_s : Keeps s0 s) : Keeps s0 (announceCal s e p c) := by
  unfold announceCal
  repeat' (first | with_reducible assumption | (extract_lets +onlyGivenNames zz; first | (refine (fun (hx : Keeps s0 zz) => ?_) ?_ <;> [(clear_value zz; revert zz; intro _ _); subst zz]) | (refine (fun (hx : KeepsP s0 zz) => ?_) ?_ <;> [(clear_value zz; revert zz; intro _ _); subst zz]) | (refine (fun (hx : KeepsQ s0 zz) => ?_) ?_ <;> [(clear_value zz; revert zz; intro _ _); subst zz]) | (refine (fun (hx : KeepsO s0 zz) => ?_) ?_ <;> [(clear_value zz; revert zz; intro _ _); subst zz]) | (refine (fun (hx : KeepsE s0 zz) => ?_) ?_ <;> [(clear_value zz; revert zz; intro _ _); subst zz]) | (refine (fun (hx : Keeps s0 (Issue.s zz)) => ?_) ?_ <;> [(clear_value zz; revert zz; intro _ _); subst zz]) | (refine (fun (hx : Keeps s0 (StackRead.st zz)) => ?_) ?_ <;> [(clear_value zz; revert zz; intro _ _); subst zz]) | (refine (fun (hx : Keeps s0 (DeltaView.st zz)) => ?_) ?_ <;> [(clear_value zz; revert zz; intro _ _); subst zz]) | (refine (fun (hx : ∀ t, Keeps s0 t → Keeps s0 (zz t)) => ?_) ?_ <;> [(clear_value zz; revert zz; intro _ hloc); (subst zz; intro t ht; beta_reduce)]) | (refine (fun (hx : ∀ t u, Keeps s0 t → Keeps s0 (zz t u)) => ?_) ?_ <;> [(clear_value zz; revert zz; intro _ hloc); (subst zz; intro t u ht; beta_reduce)]) | (refine (fun (hx : ∀ t, Keeps s0 (zz t)) => ?_) ?_ <;> [(clear_value zz; revert zz; intro _ hloc); (subst zz; intro t; beta_reduce)]) | (refine (fun (hx : ∀ t u, Keeps s0 (zz t u)) => ?_) ?_ <;> [(clear_value zz; revert zz; intro _ hloc); (subst zz; intro t u; beta_reduce)]) | (refine (fun (hx : ∀ t u v, Keeps s0 t → Keeps s0 (zz t u v)) => ?_) ?_ <;> [(clear_value zz; revert zz; intro _ hloc); (subst zz; intro t u v ht; beta_reduce)]) | (refine (fun (hx : ∀ t u v w, Keeps s0 t → Keeps s0 (zz t u v w)) => ?_) ?_ <;> [(clear_value zz; revert zz; intro _ hloc); (subst zz; intro t u v w ht; beta_reduce)]) | (refine (fun (_ : Security) => ?_) zz; subst zz) | (clear_value zz; revert zz; intro _)) | with_reducible apply takeFree_keeps | with_reducible apply modLane_keeps | with_reducible apply tellFar_keeps | with_reducible apply keeps_ite | with_reducible apply keepsP_ite | with_reducible apply keepsQ_ite | split | with_reducible apply keepsP_mk | with_reducible apply keepsQ_mk | with_reducible apply keeps_fst (by assumption) | with_reducible apply keeps_snd (by assumption) | with_reducible apply keeps_some (by assumption) | with_reducible apply keeps_okE (by assumption) | with_reducible apply KeepsP_fst | with_reducible apply KeepsQ_snd)
theorem spareCal_keeps {s0 : State} (s : State) (e : Nat) (p : Nat) (mismatch : Bool) (h_s : Keeps s0 s) : Keeps s0 (spareCal s e p mismatch) := by
  unfold spareCal
  repeat' (first | with_reducible assumption | (extract_lets +onlyGivenNames zz; first | (refine (fun (hx : Keeps s0 zz) => ?_) ?_ <;> [(clear_value zz; revert zz; intro _ _); subst zz]) | (refine (fun (hx : KeepsP s0 zz) => ?_) ?_ <;> [(clear_value zz; revert zz; intro _ _); subst zz]) | (refine (fun (hx : KeepsQ s0 zz) => ?_) ?_ <;> [(clear_value zz; revert zz; intro _ _); subst zz]) | (refine (fun (hx : KeepsO s0 zz) => ?_) ?_ <;> [(clear_value zz; revert zz; intro _ _); subst zz]) | (refine (fun (hx : KeepsE s0 zz) => ?_) ?_ <;> [(clear_value zz; revert zz; intro _ _); subst zz]) | (refine (fun (hx : Keeps s0 (Issue.s zz)) => ?_) ?_ <;> [(clear_value zz; revert zz; intro _ _); subst zz]) | (refine (fun (hx : Keeps s0 (StackRead.st zz)) => ?_) ?_ <;> [(clear_value zz; revert zz; intro _ _); subst zz]) | (refine (fun (hx : Keeps s0 (DeltaView.st zz)) => ?_) ?_ <;> [(clear_value zz; revert zz; intro _ _); subst zz]) | (refine (fun (hx : ∀ t, Keeps s0 t → Keeps s0 (zz t)) => ?_) ?_ <;> [(clear_value zz; revert zz; intro _ hloc); (subst zz; intro t ht; beta_reduce)]) | (refine (fun (hx : ∀ t u, Keeps s0 t → Keeps s0 (zz t u)) => ?_) ?_ <;> [(clear_value zz; revert zz; intro _ hloc); (subst zz; intro t u ht; beta_reduce)]) | (refine (fun (hx : ∀ t, Keeps s0 (zz t)) => ?_) ?_ <;> [(clear_value zz; revert zz; intro _ hloc); (subst zz; intro t; beta_reduce)]) | (refine (fun (hx : ∀ t u, Keeps s0 (zz t u)) => ?_) ?_ <;> [(clear_value zz; revert zz; intro _ hloc); (subst zz; intro t u; beta_reduce)]) | (refine (fun (hx : ∀ t u v, Keeps s0 t → Keeps s0 (zz t u v)) => ?_) ?_ <;> [(clear_value zz; revert zz; intro _ hloc); (subst zz; intro t u v ht; beta_reduce)]) | (refine (fun (hx : ∀ t u v w, Keeps s0 t → Keeps s0 (zz t u v w)) => ?_) ?_ <;> [(clear_value zz; revert zz; intro _ hloc); (subst zz; intro t u v w ht; beta_reduce)]) | (refine (fun (_ : Security) => ?_) zz; subst zz) | (clear_value zz; revert zz; intro _)) | with_reducible apply runDue_keeps | with_reducible apply modLane_keeps | with_reducible apply laneDone_keeps | with_reducible apply tellFar_keeps)
theorem execCalRunStart_keeps {s0 : State} (cls : Nat) (inst : Nat) (mismatch : Bool) (s : State) (h_s : Keeps s0 s) : KeepsOut s0 (execCalRunStart cls inst mismatch s) := by
  unfold execCalRunStart
  repeat' (first | with_reducible assumption | (extract_lets +onlyGivenNames zz; first | (refine (fun (hx : Keeps s0 zz) => ?_) ?_ <;> [(clear_value zz; revert zz; intro _ _); subst zz]) | (refine (fun (hx : KeepsP s0 zz) => ?_) ?_ <;> [(clear_value zz; revert zz; intro _ _); subst zz]) | (refine (fun (hx : KeepsQ s0 zz) => ?_) ?_ <;> [(clear_value zz; revert zz; intro _ _); subst zz]) | (refine (fun (hx : KeepsO s0 zz) => ?_) ?_ <;> [(clear_value zz; revert zz; intro _ _); subst zz]) | (refine (fun (hx : KeepsE s0 zz) => ?_) ?_ <;> [(clear_value zz; revert zz; intro _ _); subst zz]) | (refine (fun (hx : Keeps s0 (Issue.s zz)) => ?_) ?_ <;> [(clear_value zz; revert zz; intro _ _); subst zz]) | (refine (fun (hx : Keeps s0 (StackRead.st zz)) => ?_) ?_ <;> [(clear_value zz; revert zz; intro _ _); subst zz]) | (refine (fun (hx : Keeps s0 (DeltaView.st zz)) => ?_) ?_ <;> [(clear_value zz; revert zz; intro _ _); subst zz]) | (refine (fun (hx : ∀ t, Keeps s0 t → Keeps s0 (zz t)) => ?_) ?_ <;> [(clear_value zz; revert zz; intro _ hloc); (subst zz; intro t ht; beta_reduce)]) | (refine (fun (hx : ∀ t u, Keeps s0 t → Keeps s0 (zz t u)) => ?_) ?_ <;> [(clear_value zz; revert zz; intro _ hloc); (subst zz; intro t u ht; beta_reduce)]) | (refine (fun (hx : ∀ t, Keeps s0 (zz t)) => ?_) ?_ <;> [(clear_value zz; revert zz; intro _ hloc); (subst zz; intro t; beta_reduce)]) | (refine (fun (hx : ∀ t u, Keeps s0 (zz t u)) => ?_) ?_ <;> [(clear_value zz; revert zz; intro _ hloc); (subst zz; intro t u; beta_reduce)]) | (refine (fun (hx : ∀ t u v, Keeps s0 t → Keeps s0 (zz t u v)) => ?_) ?_ <;> [(clear_value zz; revert zz; intro _ hloc); (subst zz; intro t u v ht; beta_reduce)]) | (refine (fun (hx : ∀ t u v w, Keeps s0 t → Keeps s0 (zz t u v w)) => ?_) ?_ <;> [(clear_value zz; revert zz; intro _ hloc); (subst zz; intro t u v w ht; beta_reduce)]) | (refine (fun (_ : Security) => ?_) zz; subst zz) | (clear_value zz; revert zz; intro _)) | with_reducible apply done_keeps | with_reducible apply runItem_keeps | with_reducible apply announceCal_keeps | with_reducible apply spareCal_keeps | with_reducible apply keeps_ite | with_reducible apply keepsOut_ite | with_reducible apply keepsP_ite | with_reducible apply keepsQ_ite | split)
theorem laneAfterRun_keeps {s0 : State} (s : State) (cls : Nat) (inst : Nat) (h_s : Keeps s0 s) : Keeps s0 (laneAfterRun s cls inst) := by
  unfold laneAfterRun
  repeat' (first | with_reducible assumption | with_reducible apply laneDone_keeps | with_reducible apply keeps_ite | with_reducible apply keepsP_ite | with_reducible apply keepsQ_ite | split)
theorem litBy_keeps {s0 : State} (before : State) (s : State) (cls : Nat) (inst : Nat) (h_before : Keeps s0 before) (h_s : Keeps s0 s) : Keeps s0 (litBy before s cls inst) := by
  unfold litBy
  repeat' (first | with_reducible assumption | with_reducible apply lightRises_keeps | with_reducible apply keeps_ite)
theorem execCalRunComplete_keeps {s0 : State} (cls : Nat) (inst : Nat) (values : List Word) (quality : Nat) (tmean : Nat) (moved : Bool) (s : State) (h_s : Keeps s0 s) : KeepsOut s0 (execCalRunComplete cls inst values quality tmean moved s) := by
  unfold execCalRunComplete
  repeat' (first | with_reducible assumption | (extract_lets +onlyGivenNames zz; first | (refine (fun (hx : Keeps s0 zz) => ?_) ?_ <;> [(clear_value zz; revert zz; intro _ _); subst zz]) | (clear_value zz; revert zz; intro _)) | with_reducible apply done_keeps | with_reducible apply report_keeps | with_reducible apply setEvent_keeps | with_reducible apply putCal_keeps | with_reducible apply closeElem_keeps | with_reducible apply calBad_keeps | with_reducible apply laneAfterRun_keeps | with_reducible apply litBy_keeps | with_reducible apply keeps_ite)
theorem execCalRunTimeout_keeps {s0 : State} (cls : Nat) (inst : Nat) (s : State) (h_s : Keeps s0 s) : KeepsOut s0 (execCalRunTimeout cls inst s) := by
  unfold execCalRunTimeout
  repeat' (first | with_reducible assumption | (extract_lets +onlyGivenNames zz; first | (refine (fun (hx : Keeps s0 zz) => ?_) ?_ <;> [(clear_value zz; revert zz; intro _ _); subst zz])) | with_reducible apply done_keeps | with_reducible apply report_keeps | with_reducible apply setEvent_keeps | with_reducible apply calBad_keeps | with_reducible apply laneAfterRun_keeps | with_reducible apply keeps_ite)
theorem execCalBadRunRetry_keeps {s0 : State} (cls : Nat) (inst : Nat) (s : State) (h_s : Keeps s0 s) : KeepsOut s0 (execCalBadRunRetry cls inst s) := by
  unfold execCalBadRunRetry
  repeat' (first | with_reducible assumption | (extract_lets +onlyGivenNames zz; first | (clear_value zz; revert zz; intro _)) | with_reducible apply done_keeps | with_reducible apply putCal_keeps | with_reducible apply keeps_ite)
theorem execCalStarved_keeps {s0 : State} (cls : Nat) (inst : Nat) (s : State) (h_s : Keeps s0 s) : KeepsOut s0 (execCalStarved cls inst s) := by
  unfold execCalStarved
  repeat' (first | with_reducible assumption | (extract_lets +onlyGivenNames zz; first | (clear_value zz; revert zz; intro _)) | with_reducible apply done_keeps | with_reducible apply report_keeps | with_reducible apply setEvent_keeps | with_reducible apply setCal_keeps | with_reducible apply keeps_ite)
theorem execCalWindowAnnounce_keeps {s0 : State} (e : Nat) (p : Nat) (lane : LaneCheck) (s : State) (h_s : Keeps s0 s) : KeepsOut s0 (execCalWindowAnnounce e p lane s) := by
  unfold execCalWindowAnnounce
  repeat' (first | with_reducible assumption | (extract_lets +onlyGivenNames zz; first | (refine (fun (hx : Keeps s0 zz) => ?_) ?_ <;> [(clear_value zz; revert zz; intro _ _); subst zz]) | (refine (fun (hx : ∀ t, Keeps s0 t → Keeps s0 (zz t)) => ?_) ?_ <;> [(clear_value zz; revert zz; intro _ hloc); (subst zz; intro t ht; beta_reduce)]) | (clear_value zz; revert zz; intro _)) | with_reducible apply hloc | with_reducible apply done_keeps | with_reducible apply runItem_keeps | with_reducible apply runDue_keeps | with_reducible apply modLane_keeps | with_reducible apply relinkLane_keeps | with_reducible apply coverLane_keeps | with_reducible apply laneDone_keeps | with_reducible apply keeps_ite | with_reducible apply keepsOut_ite | with_reducible apply keepsP_ite | with_reducible apply keepsQ_ite | (with_reducible refine keeps_foldl ?_ (fun _ _ _ => ?_) <;> beta_reduce))
theorem calRestoreItem_keeps {s0 : State} (s : State) (cls : Nat) (inst : Nat) (r : List Word) (h_s : Keeps s0 s) : Keeps s0 (calRestoreItem s cls inst r) := by
  unfold calRestoreItem
  repeat' (first | with_reducible assumption | (extract_lets +onlyGivenNames zz; first | (refine (fun (hx : Keeps s0 zz) => ?_) ?_ <;> [(clear_value zz; revert zz; intro _ _); subst zz]) | (clear_value zz; revert zz; intro _)) | with_reducible apply setEvent_keeps | with_reducible apply putCal_keeps | with_reducible apply calAbandon_keeps | with_reducible apply laneAfterRun_keeps | with_reducible apply litBy_keeps)
theorem calCommit_keeps {s0 : State} (s : State) (cls : Nat) (inst : Nat) (r : List Word) (h_s : Keeps s0 s) : KeepsP s0 (calCommit s cls inst r) := by
  unfold calCommit
  repeat' (first | with_reducible assumption | with_reducible apply calRestoreItem_keeps | with_reducible apply keeps_ite | with_reducible apply keepsP_ite | with_reducible apply keepsQ_ite | split | with_reducible apply keepsP_mk)
theorem calCmdWrite_keeps {s0 : State} (s : State) (v : Word) (h_s : Keeps s0 s) : KeepsP s0 (calCmdWrite s v) := by
  unfold calCmdWrite
  repeat' (first | with_reducible assumption | (extract_lets +onlyGivenNames zz; first | (refine (fun (hx : KeepsP s0 zz) => ?_) ?_ <;> [(clear_value zz; revert zz; intro _ _); subst zz]) | (clear_value zz; revert zz; intro _)) | with_reducible apply putCal_keeps | with_reducible apply calCommit_keeps | with_reducible apply keeps_ite | with_reducible apply keepsP_ite | with_reducible apply keepsQ_ite | split | with_reducible apply keepsP_mk | with_reducible apply keepsQ_mk | with_reducible apply keeps_fst (by assumption) | with_reducible apply keeps_snd (by assumption) | with_reducible apply keeps_some (by assumption) | with_reducible apply keeps_okE (by assumption) | with_reducible apply KeepsP_fst)
theorem execCalCmdCommit_keeps {s0 : State} (o : Origin) (v : Word) (s : State) (h_s : Keeps s0 s) : KeepsOut s0 (execCalCmdCommit o v s) := by
  unfold execCalCmdCommit
  repeat' (first | with_reducible assumption | with_reducible intro _ | fail_if_no_progress beta_reduce | with_reducible apply done_keeps | with_reducible apply regWriteRow_keeps | with_reducible apply calCmdWrite_keeps)
theorem execCalCmdRun_keeps {s0 : State} (o : Origin) (v : Word) (s : State) (h_s : Keeps s0 s) : KeepsOut s0 (execCalCmdRun o v s) := by
  unfold execCalCmdRun
  repeat' (first | with_reducible assumption | with_reducible intro _ | fail_if_no_progress beta_reduce | with_reducible apply done_keeps | with_reducible apply regWriteRow_keeps | with_reducible apply calCmdWrite_keeps)
theorem calWordNext_keeps {s0 : State} (s : State) (h_s : Keeps s0 s) : Keeps s0 (calWordNext s) := by
  unfold calWordNext
  repeat' (first | with_reducible assumption | with_reducible apply setFld_keeps)
theorem calDataWrite_keeps {s0 : State} (s : State) (v : Word) (h_s : Keeps s0 s) : KeepsP s0 (calDataWrite s v) := by
  unfold calDataWrite
  repeat' (first | with_reducible assumption | (extract_lets +onlyGivenNames zz; first | (clear_value zz; revert zz; intro _)) | with_reducible apply calWordNext_keeps | with_reducible apply keeps_ite | with_reducible apply keepsP_ite | with_reducible apply keepsQ_ite | split | with_reducible apply keepsP_mk | with_reducible apply keepsQ_mk | with_reducible apply keeps_fst (by assumption) | with_reducible apply keeps_snd (by assumption) | with_reducible apply keeps_some (by assumption) | with_reducible apply keeps_okE (by assumption) | with_reducible apply KeepsP_fst | with_reducible apply KeepsQ_snd | fail_if_no_progress with_reducible refine keeps_mk rfl rfl rfl rfl ?_)
theorem calDataRead_keeps {s0 : State} (s : State) (h_s : Keeps s0 s) : KeepsP s0 (calDataRead s) := by
  unfold calDataRead
  repeat' (first | with_reducible assumption | with_reducible apply calWordNext_keeps | with_reducible apply keeps_ite | with_reducible apply keepsP_ite | with_reducible apply keepsO_ite | with_reducible apply keepsQ_ite | split | with_reducible apply keepsP_mk)
theorem execCalDataAccess_keeps {s0 : State} (o : Origin) (v : Option Word) (s : State) (h_s : Keeps s0 s) : KeepsOut s0 (execCalDataAccess o v s) := by
  unfold execCalDataAccess
  repeat' (first | with_reducible assumption | with_reducible intro _ | fail_if_no_progress beta_reduce | (extract_lets +onlyGivenNames zz; first | (refine (fun (hx : Keeps s0 zz) => ?_) ?_ <;> [(clear_value zz; revert zz; intro _ _); subst zz]) | (refine (fun (hx : KeepsP s0 zz) => ?_) ?_ <;> [(clear_value zz; revert zz; intro _ _); subst zz]) | (refine (fun (hx : KeepsQ s0 zz) => ?_) ?_ <;> [(clear_value zz; revert zz; intro _ _); subst zz]) | (refine (fun (hx : KeepsO s0 zz) => ?_) ?_ <;> [(clear_value zz; revert zz; intro _ _); subst zz]) | (refine (fun (hx : KeepsE s0 zz) => ?_) ?_ <;> [(clear_value zz; revert zz; intro _ _); subst zz]) | (refine (fun (hx : Keeps s0 (Issue.s zz)) => ?_) ?_ <;> [(clear_value zz; revert zz; intro _ _); subst zz]) | (refine (fun (hx : Keeps s0 (StackRead.st zz)) => ?_) ?_ <;> [(clear_value zz; revert zz; intro _ _); subst zz]) | (refine (fun (hx : ∀ t, Keeps s0 t → Keeps s0 (zz t)) => ?_) ?_ <;> [(clear_value zz; revert zz; intro _ hloc); (subst zz; intro t ht; beta_reduce)]) | (refine (fun (hx : ∀ t u, Keeps s0 t → Keeps s0 (zz t u)) => ?_) ?_ <;> [(clear_value zz; revert zz; intro _ hloc); (subst zz; intro t u ht; beta_reduce)]) | (refine (fun (hx : ∀ t, Keeps s0 (zz t)) => ?_) ?_ <;> [(clear_value zz; revert zz; intro _ hloc); (subst zz; intro t; beta_reduce)]) | (refine (fun (hx : ∀ t u, Keeps s0 (zz t u)) => ?_) ?_ <;> [(clear_value zz; revert zz; intro _ hloc); (subst zz; intro t u; beta_reduce)]) | (refine (fun (hx : ∀ t u v, Keeps s0 t → Keeps s0 (zz t u v)) => ?_) ?_ <;> [(clear_value zz; revert zz; intro _ hloc); (subst zz; intro t u v ht; beta_reduce)]) | (refine (fun (hx : ∀ t u v w, Keeps s0 t → Keeps s0 (zz t u v w)) => ?_) ?_ <;> [(clear_value zz; revert zz; intro _ hloc); (subst zz; intro t u v w ht; beta_reduce)]) | (refine (fun (_ : Security) => ?_) zz; subst zz) | (clear_value zz; revert zz; intro _)) | with_reducible apply done_keeps | with_reducible apply regWriteRow_keeps | with_reducible apply regReadRow_keeps | with_reducible apply calDataWrite_keeps | with_reducible apply calDataRead_keeps | with_reducible apply keeps_ite | with_reducible apply keepsOut_ite | with_reducible apply keepsP_ite | with_reducible apply keepsQ_ite | split)
theorem svcCalSave_keeps {s0 : State} (a1 : State) (a2 : Caller) (a3 : List Byte) (h_a1 : Keeps s0 a1) : Keeps s0 (svcCalSave a1 a2 a3) := by
  unfold svcCalSave
  repeat' (first | with_reducible assumption | with_reducible intro _ | fail_if_no_progress beta_reduce | (extract_lets +onlyGivenNames zz; first | (clear_value zz; revert zz; intro _)) | with_reducible apply finishReq_keeps | with_reducible apply malformed_keeps | with_reducible apply sized_keeps | with_reducible apply keeps_ite)
theorem svcCalRestore_keeps {s0 : State} (a1 : State) (a2 : Caller) (a3 : List Byte) (h_a1 : Keeps s0 a1) : Keeps s0 (svcCalRestore a1 a2 a3) := by
  unfold svcCalRestore
  repeat' (first | with_reducible assumption | (extract_lets +onlyGivenNames zz; first | (refine (fun (hx : KeepsP s0 zz) => ?_) ?_ <;> [(clear_value zz; revert zz; intro _ _); subst zz]) | (clear_value zz; revert zz; intro _)) | with_reducible apply finishReq_keeps | with_reducible apply malformed_keeps | with_reducible apply calCommit_keeps | with_reducible apply keeps_ite | with_reducible apply keepsO_ite | with_reducible apply keepsP_ite | with_reducible apply keepsQ_ite | (with_reducible refine keeps_foldl ?_ (fun _ _ _ => ?_) <;> beta_reduce) | (with_reducible refine keepsP_foldl ?_ (fun _ _ _ => ?_) <;> beta_reduce) | split | with_reducible apply keepsP_mk | with_reducible apply keepsQ_mk | with_reducible apply keepsO_some | exact keepsO_none | with_reducible apply keepsO_getD | with_reducible apply keeps_fst (by assumption) | with_reducible apply keeps_snd (by assumption) | with_reducible apply keeps_some (by assumption) | with_reducible apply keeps_okE (by assumption) | with_reducible apply KeepsP_fst)
theorem calByTemp_keeps {s0 : State} (s : State) (n : Nat) (mean : Nat) (h_s : Keeps s0 s) : Keeps s0 (calByTemp s n mean) := by
  unfold calByTemp
  repeat' (first | with_reducible assumption | (extract_lets +onlyGivenNames zz; first | (clear_value zz; revert zz; intro _)) | with_reducible apply putCal_keeps | with_reducible apply keeps_ite | with_reducible apply keepsP_ite | with_reducible apply keepsQ_ite | (with_reducible refine keeps_foldl ?_ (fun _ _ _ => ?_) <;> beta_reduce) | (with_reducible refine keepsP_foldl ?_ (fun _ _ _ => ?_) <;> beta_reduce) | split | with_reducible apply keepsP_mk | with_reducible apply keepsQ_mk | with_reducible apply keeps_fst (by assumption) | with_reducible apply keeps_snd (by assumption) | with_reducible apply keeps_some (by assumption) | with_reducible apply keeps_okE (by assumption) | with_reducible apply KeepsP_fst | with_reducible apply KeepsQ_snd | fail_if_no_progress with_reducible refine keeps_mk rfl rfl rfl rfl ?_)

end Sys2Proof.Machine
end

