-- ==== Sys2Proof/Laws/KeepsServo.lean ====
section
/-!
SUPPORT. What the operations of Machine/Servo keep (see Laws/Keeps).
-/
namespace Sys2Proof.Machine
open Sys2Proof

theorem modPin_keeps {s0 : State} (s : State) (p : Nat) (f : Driver → Driver) (h_s : Keeps s0 s) : Keeps s0 (modPin s p f) := by
  unfold modPin
  repeat' (first | with_reducible assumption | (extract_lets +onlyGivenNames zz; first | (clear_value zz; revert zz; intro _)) | with_reducible apply keeps_ite | with_reducible apply keepsP_ite | with_reducible apply keepsQ_ite | split | with_reducible apply keepsP_mk | with_reducible apply keepsQ_mk | with_reducible apply keeps_fst (by assumption) | with_reducible apply keeps_snd (by assumption) | with_reducible apply keeps_some (by assumption) | with_reducible apply keeps_okE (by assumption) | with_reducible apply KeepsP_fst | with_reducible apply KeepsQ_snd | fail_if_no_progress with_reducible refine keeps_mk rfl rfl rfl rfl ?_)
theorem drivePin_keeps {s0 : State} (s : State) (p : Nat) (v : Option Word) (safe : Option Word) (loop : Nat) (out : Nat) (h_s : Keeps s0 s) : Keeps s0 (drivePin s p v safe loop out) := by
  unfold drivePin
  repeat' (first | with_reducible assumption | (extract_lets +onlyGivenNames zz; first | (clear_value zz; revert zz; intro _)) | with_reducible apply keeps_ite | with_reducible apply keepsP_ite | with_reducible apply keepsQ_ite | split | with_reducible apply keepsP_mk | with_reducible apply keepsQ_mk | with_reducible apply keeps_fst (by assumption) | with_reducible apply keeps_snd (by assumption) | with_reducible apply keeps_some (by assumption) | with_reducible apply keeps_okE (by assumption) | with_reducible apply KeepsP_fst | with_reducible apply KeepsQ_snd | fail_if_no_progress with_reducible refine keeps_mk rfl rfl rfl rfl ?_)
theorem driveSafe_keeps {s0 : State} (s : State) (g : Servo) (i : Nat) (h_s : Keeps s0 s) : Keeps s0 (driveSafe s g i) := by
  unfold driveSafe
  repeat' (first | with_reducible assumption | with_reducible apply drivePin_keeps | with_reducible apply keeps_ite | with_reducible apply keepsP_ite | with_reducible apply keepsQ_ite | (with_reducible refine keeps_foldl ?_ (fun _ _ _ => ?_) <;> beta_reduce) | (with_reducible refine keepsP_foldl ?_ (fun _ _ _ => ?_) <;> beta_reduce) | split)
theorem pinsSafe_keeps {s0 : State} (s : State) (h_s : Keeps s0 s) : Keeps s0 (pinsSafe s) := by
  unfold pinsSafe
  repeat' (first | with_reducible assumption | (extract_lets +onlyGivenNames zz; first | (clear_value zz; revert zz; intro _)) | with_reducible apply keeps_ite | with_reducible apply keepsP_ite | with_reducible apply keepsQ_ite | split | with_reducible apply keepsP_mk | with_reducible apply keepsQ_mk | with_reducible apply keeps_fst (by assumption) | with_reducible apply keeps_snd (by assumption) | with_reducible apply keeps_some (by assumption) | with_reducible apply keeps_okE (by assumption) | with_reducible apply KeepsP_fst | with_reducible apply KeepsQ_snd | fail_if_no_progress with_reducible refine keeps_mk rfl rfl rfl rfl ?_)
theorem srvReport_keeps {s0 : State} (s : State) (f : Fld) (code : Nat) (detail : List Byte) (h_s : Keeps s0 s) : Keeps s0 (srvReport s f code detail) := by
  unfold srvReport
  repeat' (first | with_reducible assumption | with_reducible apply hubReport_keeps | with_reducible apply setEvent_keeps)
theorem numSat_keeps {s0 : State} (s : State) (h : Hub) (n : Nat) (h_s : Keeps s0 s) : Keeps s0 (numSat s h n) := by
  unfold numSat
  repeat' (first | with_reducible assumption | with_reducible apply bumpEv_keeps | with_reducible apply setEvent_keeps | with_reducible apply keeps_ite)
theorem endCapture_keeps {s0 : State} (s : State) (h : Hub) (st : CapState) (f : Fld) (h_s : Keeps s0 s) : Keeps s0 (endCapture s h st f) := by
  unfold endCapture
  repeat' (first | with_reducible assumption | (extract_lets +onlyGivenNames zz; first | (refine (fun (hx : Keeps s0 zz) => ?_) ?_ <;> [(clear_value zz; revert zz; intro _ _); subst zz]) | (refine (fun (hx : KeepsP s0 zz) => ?_) ?_ <;> [(clear_value zz; revert zz; intro _ _); subst zz]) | (refine (fun (hx : KeepsQ s0 zz) => ?_) ?_ <;> [(clear_value zz; revert zz; intro _ _); subst zz]) | (refine (fun (hx : KeepsO s0 zz) => ?_) ?_ <;> [(clear_value zz; revert zz; intro _ _); subst zz]) | (refine (fun (hx : KeepsE s0 zz) => ?_) ?_ <;> [(clear_value zz; revert zz; intro _ _); subst zz]) | (refine (fun (hx : Keeps s0 (Issue.s zz)) => ?_) ?_ <;> [(clear_value zz; revert zz; intro _ _); subst zz]) | (refine (fun (hx : Keeps s0 (StackRead.st zz)) => ?_) ?_ <;> [(clear_value zz; revert zz; intro _ _); subst zz]) | (refine (fun (hx : ∀ t, Keeps s0 t → Keeps s0 (zz t)) => ?_) ?_ <;> [(clear_value zz; revert zz; intro _ hloc); (subst zz; intro t ht; beta_reduce)]) | (refine (fun (hx : ∀ t u, Keeps s0 t → Keeps s0 (zz t u)) => ?_) ?_ <;> [(clear_value zz; revert zz; intro _ hloc); (subst zz; intro t u ht; beta_reduce)]) | (refine (fun (hx : ∀ t, Keeps s0 (zz t)) => ?_) ?_ <;> [(clear_value zz; revert zz; intro _ hloc); (subst zz; intro t; beta_reduce)]) | (refine (fun (hx : ∀ t u, Keeps s0 (zz t u)) => ?_) ?_ <;> [(clear_value zz; revert zz; intro _ hloc); (subst zz; intro t u; beta_reduce)]) | (refine (fun (hx : ∀ t u v, Keeps s0 t → Keeps s0 (zz t u v)) => ?_) ?_ <;> [(clear_value zz; revert zz; intro _ hloc); (subst zz; intro t u v ht; beta_reduce)]) | (refine (fun (hx : ∀ t u v w, Keeps s0 t → Keeps s0 (zz t u v w)) => ?_) ?_ <;> [(clear_value zz; revert zz; intro _ hloc); (subst zz; intro t u v w ht; beta_reduce)]) | (refine (fun (_ : Security) => ?_) zz; subst zz) | (clear_value zz; revert zz; intro _)) | with_reducible apply setEvent_keeps | with_reducible apply modEng_keeps)
theorem abortCapture_keeps {s0 : State} (s : State) (h : Hub) (h_s : Keeps s0 s) : Keeps s0 (abortCapture s h) := by
  unfold abortCapture
  repeat' (first | with_reducible assumption | with_reducible apply endCapture_keeps | with_reducible apply keeps_ite)
theorem captureEvent_keeps {s0 : State} (s : State) (i : Nat) (h_s : Keeps s0 s) : Keeps s0 (captureEvent s i) := by
  unfold captureEvent
  repeat' (first | with_reducible assumption | with_reducible apply modEng_keeps | with_reducible apply keeps_ite | with_reducible apply keepsP_ite | with_reducible apply keepsQ_ite | split)
theorem tripLoop_keeps {s0 : State} (a1 : Nat) (a2 : State) (a3 : Hub) (a4 : Nat) (a5 : Nat) (h_a2 : Keeps s0 a2) : Keeps s0 (tripLoop a1 a2 a3 a4 a5) := by
  induction a1 generalizing a2 a3 a4 a5 with
  | zero =>
    unfold tripLoop
    repeat' (first | with_reducible assumption | (extract_lets +onlyGivenNames zz; first | (refine (fun (hx : Keeps s0 zz) => ?_) ?_ <;> [(clear_value zz; revert zz; intro _ _); subst zz]) | (refine (fun (hx : KeepsP s0 zz) => ?_) ?_ <;> [(clear_value zz; revert zz; intro _ _); subst zz]) | (refine (fun (hx : KeepsQ s0 zz) => ?_) ?_ <;> [(clear_value zz; revert zz; intro _ _); subst zz]) | (refine (fun (hx : KeepsO s0 zz) => ?_) ?_ <;> [(clear_value zz; revert zz; intro _ _); subst zz]) | (refine (fun (hx : KeepsE s0 zz) => ?_) ?_ <;> [(clear_value zz; revert zz; intro _ _); subst zz]) | (refine (fun (hx : Keeps s0 (Issue.s zz)) => ?_) ?_ <;> [(clear_value zz; revert zz; intro _ _); subst zz]) | (refine (fun (hx : Keeps s0 (StackRead.st zz)) => ?_) ?_ <;> [(clear_value zz; revert zz; intro _ _); subst zz]) | (refine (fun (hx : Keeps s0 (DeltaView.st zz)) => ?_) ?_ <;> [(clear_value zz; revert zz; intro _ _); subst zz]) | (refine (fun (hx : ∀ t, Keeps s0 t → Keeps s0 (zz t)) => ?_) ?_ <;> [(clear_value zz; revert zz; intro _ hloc); (subst zz; intro t ht; beta_reduce)]) | (refine (fun (hx : ∀ t u, Keeps s0 t → Keeps s0 (zz t u)) => ?_) ?_ <;> [(clear_value zz; revert zz; intro _ hloc); (subst zz; intro t u ht; beta_reduce)]) | (refine (fun (hx : ∀ t, Keeps s0 (zz t)) => ?_) ?_ <;> [(clear_value zz; revert zz; intro _ hloc); (subst zz; intro t; beta_reduce)]) | (refine (fun (hx : ∀ t u, Keeps s0 (zz t u)) => ?_) ?_ <;> [(clear_value zz; revert zz; intro _ hloc); (subst zz; intro t u; beta_reduce)]) | (refine (fun (hx : ∀ t u v, Keeps s0 t → Keeps s0 (zz t u v)) => ?_) ?_ <;> [(clear_value zz; revert zz; intro _ hloc); (subst zz; intro t u v ht; beta_reduce)]) | (refine (fun (hx : ∀ t u v w, Keeps s0 t → Keeps s0 (zz t u v w)) => ?_) ?_ <;> [(clear_value zz; revert zz; intro _ hloc); (subst zz; intro t u v w ht; beta_reduce)]) | (refine (fun (_ : Security) => ?_) zz; subst zz) | (clear_value zz; revert zz; intro _)) | with_reducible apply modBoth_keeps | with_reducible apply driveSafe_keeps | with_reducible apply srvReport_keeps | with_reducible apply abortCapture_keeps | with_reducible apply keeps_ite | with_reducible apply keepsP_ite | with_reducible apply keepsQ_ite | (with_reducible refine keeps_foldl ?_ (fun _ _ _ => ?_) <;> beta_reduce) | (with_reducible refine keepsP_foldl ?_ (fun _ _ _ => ?_) <;> beta_reduce) | split | with_reducible apply keepsP_mk | with_reducible apply keepsQ_mk | with_reducible apply keeps_fst (by assumption) | with_reducible apply keeps_snd (by assumption) | with_reducible apply keeps_some (by assumption) | with_reducible apply keeps_okE (by assumption) | with_reducible apply KeepsP_fst | with_reducible apply KeepsQ_snd | fail_if_no_progress with_reducible refine keeps_mk rfl rfl rfl rfl ?_)
  | succ n ih =>
    unfold tripLoop
    repeat' (first | with_reducible assumption | with_reducible apply ih | (extract_lets +onlyGivenNames zz; first | (refine (fun (hx : Keeps s0 zz) => ?_) ?_ <;> [(clear_value zz; revert zz; intro _ _); subst zz]) | (refine (fun (hx : KeepsP s0 zz) => ?_) ?_ <;> [(clear_value zz; revert zz; intro _ _); subst zz]) | (refine (fun (hx : KeepsQ s0 zz) => ?_) ?_ <;> [(clear_value zz; revert zz; intro _ _); subst zz]) | (refine (fun (hx : KeepsO s0 zz) => ?_) ?_ <;> [(clear_value zz; revert zz; intro _ _); subst zz]) | (refine (fun (hx : KeepsE s0 zz) => ?_) ?_ <;> [(clear_value zz; revert zz; intro _ _); subst zz]) | (refine (fun (hx : Keeps s0 (Issue.s zz)) => ?_) ?_ <;> [(clear_value zz; revert zz; intro _ _); subst zz]) | (refine (fun (hx : Keeps s0 (StackRead.st zz)) => ?_) ?_ <;> [(clear_value zz; revert zz; intro _ _); subst zz]) | (refine (fun (hx : Keeps s0 (DeltaView.st zz)) => ?_) ?_ <;> [(clear_value zz; revert zz; intro _ _); subst zz]) | (refine (fun (hx : ∀ t, Keeps s0 t → Keeps s0 (zz t)) => ?_) ?_ <;> [(clear_value zz; revert zz; intro _ hloc); (subst zz; intro t ht; beta_reduce)]) | (refine (fun (hx : ∀ t u, Keeps s0 t → Keeps s0 (zz t u)) => ?_) ?_ <;> [(clear_value zz; revert zz; intro _ hloc); (subst zz; intro t u ht; beta_reduce)]) | (refine (fun (hx : ∀ t, Keeps s0 (zz t)) => ?_) ?_ <;> [(clear_value zz; revert zz; intro _ hloc); (subst zz; intro t; beta_reduce)]) | (refine (fun (hx : ∀ t u, Keeps s0 (zz t u)) => ?_) ?_ <;> [(clear_value zz; revert zz; intro _ hloc); (subst zz; intro t u; beta_reduce)]) | (refine (fun (hx : ∀ t u v, Keeps s0 t → Keeps s0 (zz t u v)) => ?_) ?_ <;> [(clear_value zz; revert zz; intro _ hloc); (subst zz; intro t u v ht; beta_reduce)]) | (refine (fun (hx : ∀ t u v w, Keeps s0 t → Keeps s0 (zz t u v w)) => ?_) ?_ <;> [(clear_value zz; revert zz; intro _ hloc); (subst zz; intro t u v w ht; beta_reduce)]) | (refine (fun (_ : Security) => ?_) zz; subst zz) | (clear_value zz; revert zz; intro _)) | with_reducible apply modBoth_keeps | with_reducible apply driveSafe_keeps | with_reducible apply srvReport_keeps | with_reducible apply abortCapture_keeps | with_reducible apply keeps_ite | with_reducible apply keepsP_ite | with_reducible apply keepsQ_ite | (with_reducible refine keeps_foldl ?_ (fun _ _ _ => ?_) <;> beta_reduce) | (with_reducible refine keepsP_foldl ?_ (fun _ _ _ => ?_) <;> beta_reduce) | split | with_reducible apply keepsP_mk | with_reducible apply keepsQ_mk | with_reducible apply keeps_fst (by assumption) | with_reducible apply keeps_snd (by assumption) | with_reducible apply keeps_some (by assumption) | with_reducible apply keeps_okE (by assumption) | with_reducible apply KeepsP_fst | with_reducible apply KeepsQ_snd | fail_if_no_progress with_reducible refine keeps_mk rfl rfl rfl rfl ?_)
theorem tripPaced_keeps {s0 : State} (s : State) (h : Hub) (i : Nat) (h_s : Keeps s0 s) : Keeps s0 (tripPaced s h i) := by
  unfold tripPaced
  repeat' (first | with_reducible assumption | with_reducible apply tripLoop_keeps | with_reducible apply keeps_ite | with_reducible apply keepsP_ite | with_reducible apply keepsQ_ite | (with_reducible refine keeps_foldl ?_ (fun _ _ _ => ?_) <;> beta_reduce))
theorem trackLoop_keeps {s0 : State} (s : State) (h : Hub) (conv : Conv) (i : Nat) (a : Loop) (h_s : Keeps s0 s) : Keeps s0 (trackLoop s h conv i a) := by
  unfold trackLoop
  repeat' (first | with_reducible assumption | (extract_lets +onlyGivenNames zz; first | (clear_value zz; revert zz; intro _)) | with_reducible apply setEng_keeps | with_reducible apply numSat_keeps | with_reducible apply keeps_ite)
theorem spReports_keeps {s0 : State} (s : State) (i : Nat) (before : List Nat) (held : List Nat) (h_s : Keeps s0 s) : Keeps s0 (spReports s i before held) := by
  unfold spReports
  repeat' (first | with_reducible assumption | with_reducible apply srvReport_keeps | with_reducible apply keeps_ite | with_reducible apply keepsP_ite | with_reducible apply keepsQ_ite | (with_reducible refine keeps_foldl ?_ (fun _ _ _ => ?_) <;> beta_reduce))
theorem applyPins_keeps {s0 : State} (s : State) (g : Servo) (i : Nat) (h_s : Keeps s0 s) : Keeps s0 (applyPins s g i) := by
  unfold applyPins
  repeat' (first | with_reducible assumption | with_reducible apply drivePin_keeps | with_reducible apply keeps_ite | with_reducible apply keepsP_ite | with_reducible apply keepsQ_ite | (with_reducible refine keeps_foldl ?_ (fun _ _ _ => ?_) <;> beta_reduce) | (with_reducible refine keepsP_foldl ?_ (fun _ _ _ => ?_) <;> beta_reduce) | split)
theorem computeLoop_keeps {s0 : State} (s : State) (h : Hub) (conv : Conv) (i : Nat) (h_s : Keeps s0 s) : Keeps s0 (computeLoop s h conv i) := by
  unfold computeLoop
  repeat' (first | with_reducible assumption | (extract_lets +onlyGivenNames zz; first | (refine (fun (hx : Keeps s0 zz) => ?_) ?_ <;> [(clear_value zz; revert zz; intro _ _); subst zz]) | (clear_value zz; revert zz; intro _)) | with_reducible apply setEng_keeps | with_reducible apply numSat_keeps | with_reducible apply trackLoop_keeps | with_reducible apply spReports_keeps | with_reducible apply applyPins_keeps | with_reducible apply keeps_ite)
theorem captureSample_keeps {s0 : State} (s : State) (h : Hub) (i : Nat) (h_s : Keeps s0 s) : Keeps s0 (captureSample s h i) := by
  unfold captureSample
  repeat' (first | with_reducible assumption | (extract_lets +onlyGivenNames zz; first | (clear_value zz; revert zz; intro _)) | with_reducible apply setEng_keeps | with_reducible apply endCapture_keeps | with_reducible apply keeps_ite)
theorem sampleLoop_keeps {s0 : State} (s : State) (h : Hub) (conv : Conv) (i : Nat) (h_s : Keeps s0 s) : Keeps s0 (sampleLoop s h conv i) := by
  unfold sampleLoop
  repeat' (first | with_reducible assumption | (extract_lets +onlyGivenNames zz; first | (refine (fun (hx : Keeps s0 zz) => ?_) ?_ <;> [(clear_value zz; revert zz; intro _ _); subst zz]) | (clear_value zz; revert zz; intro _)) | with_reducible apply tripLoop_keeps | with_reducible apply computeLoop_keeps | with_reducible apply captureSample_keeps | with_reducible apply keeps_ite)
theorem postSlot_keeps {s0 : State} (s : State) (h : Hub) (slot : Nat) (hop : Bool) (h_s : Keeps s0 s) : Keeps s0 (postSlot s h slot hop) := by
  unfold postSlot
  repeat' (first | with_reducible assumption | (extract_lets +onlyGivenNames zz; first | (refine (fun (hx : Keeps s0 zz) => ?_) ?_ <;> [(clear_value zz; revert zz; intro _ _); subst zz]) | (clear_value zz; revert zz; intro _)) | with_reducible apply takeFree_keeps | with_reducible apply modStream_keeps | with_reducible apply bumpEv_keeps | with_reducible apply launch_keeps | with_reducible apply keeps_ite | with_reducible apply keepsP_ite | with_reducible apply keepsQ_ite | split | with_reducible apply keepsP_mk | with_reducible apply keepsQ_mk | with_reducible apply keeps_fst (by assumption) | with_reducible apply keeps_snd (by assumption) | with_reducible apply keeps_some (by assumption) | with_reducible apply keeps_okE (by assumption) | with_reducible apply KeepsP_fst | with_reducible apply KeepsQ_snd)
theorem postSlots_keeps {s0 : State} (s : State) (h : Hub) (loops : List Nat) (refuse : List Nat) (h_s : Keeps s0 s) : Keeps s0 (postSlots s h loops refuse) := by
  unfold postSlots
  repeat' (first | with_reducible assumption | (extract_lets +onlyGivenNames zz; first | (clear_value zz; revert zz; intro _)) | with_reducible apply postSlot_keeps | with_reducible apply keeps_ite | with_reducible apply keepsP_ite | with_reducible apply keepsQ_ite | (with_reducible refine keeps_foldl ?_ (fun _ _ _ => ?_) <;> beta_reduce))
theorem execServoSample_keeps {s0 : State} (base : List Nat) (conv : List (Nat × Nat × List Word × List Word)) (refuse : List Nat)
    (s : State) (h_s : Keeps s0 s) : KeepsOut s0 (execServoSample base conv refuse s) := by
  unfold execServoSample
  refine done_keeps _ ?_
  split
  · exact h_s
  · dsimp only
    refine keeps_mk rfl rfl rfl rfl ?_
    split
    · exact postSlots_keeps _ _ _ _ (modEng_keeps _ _ _ (keeps_foldl h_s (fun t a ht => sampleLoop_keeps _ _ _ _ ht)))
    · exact keeps_foldl h_s (fun t h ht => modEng_keeps _ _ _ (keeps_foldl ht (fun t a ht => trackLoop_keeps _ _ _ _ _ ht)))
theorem safeAll_keeps {s0 : State} (s : State) (h : Hub) (h_s : Keeps s0 s) : Keeps s0 (safeAll s h) := by
  unfold safeAll
  repeat' (first | with_reducible assumption | with_reducible apply driveSafe_keeps | with_reducible apply keeps_ite | with_reducible apply keepsP_ite | with_reducible apply keepsQ_ite | (with_reducible refine keeps_foldl ?_ (fun _ _ _ => ?_) <;> beta_reduce))
theorem syncEngines_keeps {s0 : State} (s : State) (h_s : Keeps s0 s) : Keeps s0 (syncEngines s) := by
  unfold syncEngines
  repeat' (first | with_reducible assumption | (extract_lets +onlyGivenNames zz; first | (clear_value zz; revert zz; intro _)) | with_reducible apply setEng_keeps | with_reducible apply keeps_ite | with_reducible apply keepsP_ite | with_reducible apply keepsQ_ite | split)
theorem coldOpen_keeps {s0 : State} (s : State) (h : Hub) (i : Nat) (h_s : Keeps s0 s) : Keeps s0 (coldOpen s h i) := by
  unfold coldOpen
  repeat' (first | with_reducible assumption | (extract_lets +onlyGivenNames zz; first | (refine (fun (hx : Keeps s0 zz) => ?_) ?_ <;> [(clear_value zz; revert zz; intro _ _); subst zz]) | (clear_value zz; revert zz; intro _)) | with_reducible apply modEng_keeps | with_reducible apply driveSafe_keeps | with_reducible apply srvReport_keeps | with_reducible apply tripPaced_keeps | with_reducible apply keeps_ite | with_reducible apply keepsP_ite | with_reducible apply keepsQ_ite | split | with_reducible apply keepsP_mk | with_reducible apply keepsQ_mk | with_reducible apply keeps_fst (by assumption) | with_reducible apply keeps_snd (by assumption) | with_reducible apply keeps_some (by assumption) | with_reducible apply keeps_okE (by assumption) | with_reducible apply KeepsP_fst | with_reducible apply KeepsQ_snd | fail_if_no_progress with_reducible refine keeps_mk rfl rfl rfl rfl ?_)
theorem servoTakeover_keeps {s0 : State} (s : State) (h : Hub) (h_s : Keeps s0 s) : Keeps s0 (servoTakeover s h) := by
  unfold servoTakeover
  repeat' (first | with_reducible assumption | (extract_lets +onlyGivenNames zz; first | (refine (fun (hx : Keeps s0 zz) => ?_) ?_ <;> [(clear_value zz; revert zz; intro _ _); subst zz])) | with_reducible apply abortCapture_keeps | with_reducible apply coldOpen_keeps | with_reducible apply keeps_ite | with_reducible apply keepsO_ite | with_reducible apply keepsP_ite | with_reducible apply keepsQ_ite | (with_reducible refine keeps_foldl ?_ (fun _ _ _ => ?_) <;> beta_reduce))

end Sys2Proof.Machine
end

