-- ==== Sys2Proof/Laws/KeepsTime.lean ====
section
/-!
SUPPORT. What the operations of Machine/Time keep (see Laws/Keeps).
-/
namespace Sys2Proof.Machine
open Sys2Proof

theorem setIncr_keeps {s0 : State} (s : State) (x : Nat) (h_s : Keeps s0 s) : Keeps s0 (setIncr s x) := by
  unfold setIncr
  repeat' (first | with_reducible assumption | with_reducible apply setFld_keeps)
theorem openIncr_keeps {s0 : State} (s : State) (h_s : Keeps s0 s) : Keeps s0 (openIncr s) := by
  unfold openIncr
  repeat' (first | with_reducible assumption | (extract_lets +onlyGivenNames zz; first | (clear_value zz; revert zz; intro _)) | with_reducible apply takeFree_keeps | with_reducible apply setIncr_keeps | with_reducible apply keeps_ite | with_reducible apply keepsP_ite | with_reducible apply keepsQ_ite | split | with_reducible apply keepsP_mk | with_reducible apply keepsQ_mk | with_reducible apply keeps_fst (by assumption) | with_reducible apply keeps_snd (by assumption) | with_reducible apply keeps_some (by assumption) | with_reducible apply keeps_okE (by assumption) | with_reducible apply KeepsP_fst | with_reducible apply KeepsQ_snd)
theorem moveTime_keeps {s0 : State} (s : State) (d : Int) (h_s : Keeps s0 s) : Keeps s0 (moveTime s d) := by
  unfold moveTime
  repeat' (first | with_reducible assumption | with_reducible apply keeps_ite | with_reducible apply keepsP_ite | with_reducible apply keepsQ_ite | split | with_reducible apply keepsP_mk | with_reducible apply keepsQ_mk | with_reducible apply keeps_fst (by assumption) | with_reducible apply keeps_snd (by assumption) | with_reducible apply keeps_some (by assumption) | with_reducible apply keeps_okE (by assumption) | with_reducible apply KeepsP_fst | with_reducible apply KeepsQ_snd | fail_if_no_progress with_reducible refine keeps_mk rfl rfl rfl rfl ?_)
theorem stepTime_keeps {s0 : State} (s : State) (d16 : Int) (h_s : Keeps s0 s) : Keeps s0 (stepTime s d16) := by
  unfold stepTime
  repeat' (first | with_reducible assumption | (extract_lets +onlyGivenNames zz; first | (refine (fun (hx : Keeps s0 zz) => ?_) ?_ <;> [(clear_value zz; revert zz; intro _ _); subst zz])) | with_reducible apply setEvent_keeps | with_reducible apply moveTime_keeps | with_reducible apply keeps_ite | with_reducible apply keepsP_ite | with_reducible apply keepsQ_ite | split | with_reducible apply keepsP_mk | with_reducible apply keepsQ_mk | with_reducible apply keeps_fst (by assumption) | with_reducible apply keeps_snd (by assumption) | with_reducible apply keeps_some (by assumption) | with_reducible apply keeps_okE (by assumption) | with_reducible apply KeepsP_fst | with_reducible apply KeepsQ_snd | fail_if_no_progress with_reducible refine keeps_mk rfl rfl rfl rfl ?_)
theorem slewBy_keeps {s0 : State} (s : State) (d16 : Int) (h_s : Keeps s0 s) : Keeps s0 (slewBy s d16) := by
  unfold slewBy
  repeat' (first | with_reducible assumption | (extract_lets +onlyGivenNames zz; first | (clear_value zz; revert zz; intro _)) | with_reducible apply keeps_ite | with_reducible apply keepsP_ite | with_reducible apply keepsQ_ite | split | with_reducible apply keepsP_mk | with_reducible apply keepsQ_mk | with_reducible apply keeps_fst (by assumption) | with_reducible apply keeps_snd (by assumption) | with_reducible apply keeps_some (by assumption) | with_reducible apply keeps_okE (by assumption) | with_reducible apply KeepsP_fst | with_reducible apply KeepsQ_snd | fail_if_no_progress with_reducible refine keeps_mk rfl rfl rfl rfl ?_)
theorem setPtp_keeps {s0 : State} (s : State) (h : Hub) (j : Nat) (p : Ptp) (h_s : Keeps s0 s) : Keeps s0 (setPtp s h j p) := by
  unfold setPtp
  repeat' (first | with_reducible assumption | (extract_lets +onlyGivenNames zz; first | (clear_value zz; revert zz; intro _)) | with_reducible apply setHub_keeps)
theorem requal_keeps {s0 : State} (s : State) (h_s : Keeps s0 s) : Keeps s0 (requal s) := by
  unfold requal
  repeat' (first | with_reducible assumption | (extract_lets +onlyGivenNames zz; first | (clear_value zz; revert zz; intro _)) | with_reducible apply setFld_keeps)
theorem setServo_keeps {s0 : State} (s : State) (st : ServoState) (h_s : Keeps s0 s) : Keeps s0 (setServo s st) := by
  unfold setServo
  repeat' (first | with_reducible assumption | (extract_lets +onlyGivenNames zz; first | (clear_value zz; revert zz; intro _)) | with_reducible apply keeps_ite | with_reducible apply keepsP_ite | with_reducible apply keepsQ_ite | split | with_reducible apply keepsP_mk | with_reducible apply keepsQ_mk | with_reducible apply keeps_fst (by assumption) | with_reducible apply keeps_snd (by assumption) | with_reducible apply keeps_some (by assumption) | with_reducible apply keeps_okE (by assumption) | with_reducible apply KeepsP_fst | with_reducible apply KeepsQ_snd | fail_if_no_progress with_reducible refine keeps_mk rfl rfl rfl rfl ?_)
theorem enterLocked_keeps {s0 : State} (s : State) (h_s : Keeps s0 s) : Keeps s0 (enterLocked s) := by
  unfold enterLocked
  repeat' (first | with_reducible assumption | with_reducible apply hubReport_keeps | with_reducible apply setEvent_keeps | with_reducible apply requal_keeps | with_reducible apply setServo_keeps | with_reducible apply keeps_ite)
theorem acquire_keeps {s0 : State} (s : State) (h_s : Keeps s0 s) : Keeps s0 (acquire s) := by
  unfold acquire
  repeat' (first | with_reducible assumption | (extract_lets +onlyGivenNames zz; first | (clear_value zz; revert zz; intro _)) | with_reducible apply stepTime_keeps | with_reducible apply slewBy_keeps | with_reducible apply keeps_ite | with_reducible apply keepsP_ite | with_reducible apply keepsQ_ite | split | with_reducible apply keepsP_mk | with_reducible apply keepsQ_mk | with_reducible apply keeps_fst (by assumption) | with_reducible apply keeps_snd (by assumption) | with_reducible apply keeps_some (by assumption) | with_reducible apply keeps_okE (by assumption) | with_reducible apply KeepsP_fst | with_reducible apply KeepsQ_snd | fail_if_no_progress with_reducible refine keeps_mk rfl rfl rfl rfl ?_)
theorem enterAcquiring_keeps {s0 : State} (s : State) (h_s : Keeps s0 s) : Keeps s0 (enterAcquiring s) := by
  unfold enterAcquiring
  repeat' (first | with_reducible assumption | (extract_lets +onlyGivenNames zz; first | (clear_value zz; revert zz; intro _)) | with_reducible apply acquire_keeps | with_reducible apply keeps_ite | with_reducible apply keepsP_ite | with_reducible apply keepsQ_ite | split | with_reducible apply keepsP_mk | with_reducible apply keepsQ_mk | with_reducible apply keeps_fst (by assumption) | with_reducible apply keeps_snd (by assumption) | with_reducible apply keeps_some (by assumption) | with_reducible apply keeps_okE (by assumption) | with_reducible apply KeepsP_fst | with_reducible apply KeepsQ_snd | fail_if_no_progress with_reducible refine keeps_mk rfl rfl rfl rfl ?_)
theorem enterHoldover_keeps {s0 : State} (s : State) (h : Hub) (jump : Nat) (before : Int) (h_s : Keeps s0 s) : Keeps s0 (enterHoldover s h jump before) := by
  unfold enterHoldover
  repeat' (first | with_reducible assumption | (extract_lets +onlyGivenNames zz; first | (refine (fun (hx : Keeps s0 zz) => ?_) ?_ <;> [(clear_value zz; revert zz; intro _ _); subst zz]) | (clear_value zz; revert zz; intro _)) | with_reducible apply hubReport_keeps | with_reducible apply setEvent_keeps | with_reducible apply openIncr_keeps | with_reducible apply setPtp_keeps | with_reducible apply requal_keeps | with_reducible apply keeps_ite | with_reducible apply keepsP_ite | with_reducible apply keepsQ_ite | split | with_reducible apply keepsP_mk | with_reducible apply keepsQ_mk | with_reducible apply keeps_fst (by assumption) | with_reducible apply keeps_snd (by assumption) | with_reducible apply keeps_some (by assumption) | with_reducible apply keeps_okE (by assumption) | with_reducible apply KeepsP_fst | with_reducible apply KeepsQ_snd | fail_if_no_progress with_reducible refine keeps_mk rfl rfl rfl rfl ?_)
theorem switchTo_keeps {s0 : State} (s : State) (j : Nat) (d : Int) (h_s : Keeps s0 s) : Keeps s0 (switchTo s j d) := by
  unfold switchTo
  repeat' (first | with_reducible assumption | (extract_lets +onlyGivenNames zz; first | (refine (fun (hx : Keeps s0 zz) => ?_) ?_ <;> [(clear_value zz; revert zz; intro _ _); subst zz])) | with_reducible apply setFld_keeps | with_reducible apply hubReport_keeps | with_reducible apply setEvent_keeps | with_reducible apply slewBy_keeps | with_reducible apply requal_keeps | with_reducible apply setServo_keeps | with_reducible apply keeps_ite)
theorem slewEnded_keeps {s0 : State} (s : State) (h_s : Keeps s0 s) : Keeps s0 (slewEnded s) := by
  unfold slewEnded
  repeat' (first | with_reducible assumption | with_reducible apply setServo_keeps | with_reducible apply enterLocked_keeps | with_reducible apply keeps_ite)
theorem servoAfresh_keeps {s0 : State} (s : State) (h_s : Keeps s0 s) : Keeps s0 (servoAfresh s) := by
  unfold servoAfresh
  repeat' (first | with_reducible assumption | (extract_lets +onlyGivenNames zz; first | (clear_value zz; revert zz; intro _)) | with_reducible apply requal_keeps | with_reducible apply setServo_keeps | with_reducible apply enterLocked_keeps | with_reducible apply keeps_ite | with_reducible apply keepsP_ite | with_reducible apply keepsQ_ite | split | with_reducible apply keepsP_mk | with_reducible apply keepsQ_mk | with_reducible apply keeps_fst (by assumption) | with_reducible apply keeps_snd (by assumption) | with_reducible apply keeps_some (by assumption) | with_reducible apply keeps_okE (by assumption) | with_reducible apply KeepsP_fst | with_reducible apply KeepsQ_snd | fail_if_no_progress with_reducible refine keeps_mk rfl rfl rfl rfl ?_)
theorem tick_keeps {s0 : State} (s : State) (h_s : Keeps s0 s) : Keeps s0 (tick s) := by
  unfold tick
  repeat' (first | with_reducible assumption | (extract_lets +onlyGivenNames zz; first | (refine (fun (hx : Keeps s0 zz) => ?_) ?_ <;> [(clear_value zz; revert zz; intro _ _); subst zz]) | (clear_value zz; revert zz; intro _)) | with_reducible apply moveTime_keeps | with_reducible apply requal_keeps | with_reducible apply slewEnded_keeps | with_reducible apply keeps_ite | with_reducible apply keepsP_ite | with_reducible apply keepsQ_ite | split | with_reducible apply keepsP_mk | with_reducible apply keepsQ_mk | with_reducible apply keeps_fst (by assumption) | with_reducible apply keeps_snd (by assumption) | with_reducible apply keeps_some (by assumption) | with_reducible apply keeps_okE (by assumption) | with_reducible apply KeepsP_fst | with_reducible apply KeepsQ_snd | fail_if_no_progress with_reducible refine keeps_mk rfl rfl rfl rfl ?_)
theorem execTbSlewComplete_keeps {s0 : State} (s : State) (h_s : Keeps s0 s) : KeepsOut s0 (execTbSlewComplete s) := by
  unfold execTbSlewComplete
  repeat' (first | with_reducible assumption | (extract_lets +onlyGivenNames zz; first | (refine (fun (hx : Keeps s0 zz) => ?_) ?_ <;> [(clear_value zz; revert zz; intro _ _); subst zz]) | (clear_value zz; revert zz; intro _)) | with_reducible apply done_keeps | with_reducible apply moveTime_keeps | with_reducible apply requal_keeps | with_reducible apply slewEnded_keeps | with_reducible apply keeps_ite | with_reducible apply keepsOut_ite | with_reducible apply keepsP_ite | with_reducible apply keepsQ_ite | split | with_reducible apply keepsP_mk | with_reducible apply keepsOut_next | with_reducible apply keepsQ_mk | with_reducible apply keeps_fst (by assumption) | with_reducible apply keeps_snd (by assumption) | with_reducible apply keeps_some (by assumption) | with_reducible apply keeps_okE (by assumption) | with_reducible apply KeepsP_fst | with_reducible apply KeepsQ_snd | fail_if_no_progress with_reducible refine keeps_mk rfl rfl rfl rfl ?_)
theorem ptpSync_keeps {s0 : State} (s : State) (h : Hub) (j : Nat) (t1 : Int) (t2 : Int) (h_s : Keeps s0 s) : Keeps s0 (ptpSync s h j t1 t2) := by
  unfold ptpSync
  repeat' (first | with_reducible assumption | (extract_lets +onlyGivenNames zz; first | (clear_value zz; revert zz; intro _)) | with_reducible apply setPtp_keeps)
theorem reestimate_keeps {s0 : State} (s : State) (h_s : Keeps s0 s) : Keeps s0 (reestimate s) := by
  unfold reestimate
  repeat' (first | with_reducible assumption | with_reducible apply slewBy_keeps | with_reducible apply requal_keeps | with_reducible apply setServo_keeps | with_reducible apply keeps_ite)
theorem servoSync_keeps {s0 : State} (s : State) (h_s : Keeps s0 s) : Keeps s0 (servoSync s) := by
  unfold servoSync
  repeat' (first | with_reducible assumption | (extract_lets +onlyGivenNames zz; first | (clear_value zz; revert zz; intro _)) | with_reducible apply openIncr_keeps | with_reducible apply slewBy_keeps | with_reducible apply enterLocked_keeps | with_reducible apply acquire_keeps | with_reducible apply enterAcquiring_keeps | with_reducible apply reestimate_keeps | with_reducible apply keeps_ite | with_reducible apply keepsP_ite | with_reducible apply keepsQ_ite | split)
theorem ptpDelay_keeps {s0 : State} (s : State) (h : Hub) (j : Nat) (t1 : Int) (t2 : Int) (t3 : Int) (t4 : Int) (h_s : Keeps s0 s) : Keeps s0 (ptpDelay s h j t1 t2 t3 t4) := by
  unfold ptpDelay
  repeat' (first | with_reducible assumption | (extract_lets +onlyGivenNames zz; first | (refine (fun (hx : Keeps s0 zz) => ?_) ?_ <;> [(clear_value zz; revert zz; intro _ _); subst zz])) | with_reducible apply setPtp_keeps | with_reducible apply enterHoldover_keeps | with_reducible apply keeps_ite)
theorem ptpAt_keeps {s0 : State} (s : State) (h : Hub) (j : Nat) (m : PtpMsg) (h_s : Keeps s0 s) : Keeps s0 (ptpAt s h j m) := by
  unfold ptpAt
  repeat' (first | with_reducible assumption | (extract_lets +onlyGivenNames zz; first | (refine (fun (hx : Keeps s0 zz) => ?_) ?_ <;> [(clear_value zz; revert zz; intro _ _); subst zz])) | with_reducible apply requal_keeps | with_reducible apply switchTo_keeps | with_reducible apply ptpSync_keeps | with_reducible apply servoSync_keeps | with_reducible apply ptpDelay_keeps | with_reducible apply keeps_ite | with_reducible apply keepsP_ite | with_reducible apply keepsQ_ite | split)
theorem execPtpMessageReceive_keeps {s0 : State} (h : Hub) (domain : Nat) (transport : Nat) (m : PtpMsg) (s : State) (h_s : Keeps s0 s) : KeepsOut s0 (execPtpMessageReceive h domain transport m s) := by
  unfold execPtpMessageReceive
  repeat' (first | with_reducible assumption | with_reducible apply done_keeps | with_reducible apply ptpAt_keeps | with_reducible apply keeps_ite | with_reducible apply keepsOut_ite | with_reducible apply keepsP_ite | with_reducible apply keepsQ_ite | (with_reducible refine keeps_foldl ?_ (fun _ _ _ => ?_) <;> beta_reduce))
theorem execPtpSyncLoss_keeps {s0 : State} (s : State) (h_s : Keeps s0 s) : KeepsOut s0 (execPtpSyncLoss s) := by
  unfold execPtpSyncLoss
  repeat' (first | with_reducible assumption | (extract_lets +onlyGivenNames zz; first | (refine (fun (hx : Keeps s0 zz) => ?_) ?_ <;> [(clear_value zz; revert zz; intro _ _); subst zz]) | (clear_value zz; revert zz; intro _)) | with_reducible apply done_keeps | with_reducible apply setPtp_keeps | with_reducible apply enterHoldover_keeps | with_reducible apply keeps_ite | with_reducible apply keepsOut_ite | with_reducible apply keepsP_ite | with_reducible apply keepsQ_ite | split)
theorem execPtpHoldExpiry_keeps {s0 : State} (s : State) (h_s : Keeps s0 s) : KeepsOut s0 (execPtpHoldExpiry s) := by
  unfold execPtpHoldExpiry
  repeat' (first | with_reducible assumption | (extract_lets +onlyGivenNames zz; first | (clear_value zz; revert zz; intro _)) | with_reducible apply done_keeps | with_reducible apply reestimate_keeps | with_reducible apply keeps_ite | with_reducible apply keepsOut_ite | with_reducible apply keepsP_ite | with_reducible apply keepsQ_ite | split | with_reducible apply keepsP_mk | with_reducible apply keepsOut_next | with_reducible apply keepsQ_mk | with_reducible apply keeps_fst (by assumption) | with_reducible apply keeps_snd (by assumption) | with_reducible apply keeps_some (by assumption) | with_reducible apply keeps_okE (by assumption) | with_reducible apply KeepsP_fst | with_reducible apply KeepsQ_snd | fail_if_no_progress with_reducible refine keeps_mk rfl rfl rfl rfl ?_)
theorem tbIncrLoWrite_keeps {s0 : State} (s : State) (v : Word) (h_s : Keeps s0 s) : KeepsP s0 (tbIncrLoWrite s v) := by
  unfold tbIncrLoWrite
  repeat' (first | with_reducible assumption | (extract_lets +onlyGivenNames zz; first | (clear_value zz; revert zz; intro _)) | with_reducible apply keeps_ite | with_reducible apply keepsP_ite | with_reducible apply keepsQ_ite | split | with_reducible apply keepsP_mk | with_reducible apply keepsQ_mk | with_reducible apply keeps_fst (by assumption) | with_reducible apply keeps_snd (by assumption) | with_reducible apply keeps_some (by assumption) | with_reducible apply keeps_okE (by assumption) | with_reducible apply KeepsP_fst | with_reducible apply KeepsQ_snd | fail_if_no_progress with_reducible refine keeps_mk rfl rfl rfl rfl ?_)
theorem execTbIncrLoWrite_keeps {s0 : State} (o : Origin) (v : Word) (s : State) (h_s : Keeps s0 s) : KeepsOut s0 (execTbIncrLoWrite o v s) := by
  unfold execTbIncrLoWrite
  repeat' (first | with_reducible assumption | with_reducible intro _ | fail_if_no_progress beta_reduce | with_reducible apply done_keeps | with_reducible apply regWriteRow_keeps | with_reducible apply tbIncrLoWrite_keeps)
theorem tbIncrHiWrite_keeps {s0 : State} (s : State) (v : Word) (h_s : Keeps s0 s) : KeepsP s0 (tbIncrHiWrite s v) := by
  unfold tbIncrHiWrite
  repeat' (first | with_reducible assumption | (extract_lets +onlyGivenNames zz; first | (clear_value zz; revert zz; intro _)) | with_reducible apply setIncr_keeps | with_reducible apply keeps_ite | with_reducible apply keepsP_ite | with_reducible apply keepsQ_ite | split | with_reducible apply keepsP_mk | with_reducible apply keepsQ_mk | with_reducible apply keeps_fst (by assumption) | with_reducible apply keeps_snd (by assumption) | with_reducible apply keeps_some (by assumption) | with_reducible apply keeps_okE (by assumption) | with_reducible apply KeepsP_fst | with_reducible apply KeepsQ_snd | fail_if_no_progress with_reducible refine keeps_mk rfl rfl rfl rfl ?_)
theorem execTbIncrHiWrite_keeps {s0 : State} (o : Origin) (v : Word) (s : State) (h_s : Keeps s0 s) : KeepsOut s0 (execTbIncrHiWrite o v s) := by
  unfold execTbIncrHiWrite
  repeat' (first | with_reducible assumption | with_reducible intro _ | fail_if_no_progress beta_reduce | with_reducible apply done_keeps | with_reducible apply regWriteRow_keeps | with_reducible apply tbIncrHiWrite_keeps)
theorem tbAdjWrite_keeps {s0 : State} (s : State) (v : Word) (h_s : Keeps s0 s) : KeepsP s0 (tbAdjWrite s v) := by
  unfold tbAdjWrite
  repeat' (first | with_reducible assumption | (extract_lets +onlyGivenNames zz; first | (clear_value zz; revert zz; intro _)) | with_reducible apply stepTime_keeps | with_reducible apply slewBy_keeps | with_reducible apply keeps_ite | with_reducible apply keepsP_ite | with_reducible apply keepsQ_ite | split | with_reducible apply keepsP_mk)
theorem execTbAdjWrite_keeps {s0 : State} (o : Origin) (v : Word) (s : State) (h_s : Keeps s0 s) : KeepsOut s0 (execTbAdjWrite o v s) := by
  unfold execTbAdjWrite
  repeat' (first | with_reducible assumption | with_reducible intro _ | fail_if_no_progress beta_reduce | with_reducible apply done_keeps | with_reducible apply regWriteRow_keeps | with_reducible apply tbAdjWrite_keeps)
theorem servoHand_keeps {s0 : State} (s : State) (on : Nat) (h_s : Keeps s0 s) : Keeps s0 (servoHand s on) := by
  unfold servoHand
  repeat' (first | with_reducible assumption | (extract_lets +onlyGivenNames zz; first | (refine (fun (hx : Keeps s0 zz) => ?_) ?_ <;> [(clear_value zz; revert zz; intro _ _); subst zz])) | with_reducible apply setFld_keeps | with_reducible apply setIncr_keeps | with_reducible apply requal_keeps | with_reducible apply setServo_keeps | with_reducible apply servoAfresh_keeps | with_reducible apply keeps_ite)
theorem tbCtlWrite_keeps {s0 : State} (s : State) (v : Word) (h_s : Keeps s0 s) : KeepsP s0 (tbCtlWrite s v) := by
  unfold tbCtlWrite
  repeat' (first | with_reducible assumption | (extract_lets +onlyGivenNames zz; first | (refine (fun (hx : Keeps s0 zz) => ?_) ?_ <;> [(clear_value zz; revert zz; intro _ _); subst zz]) | (clear_value zz; revert zz; intro _)) | with_reducible apply setFld_keeps | with_reducible apply keptChanged_keeps | with_reducible apply switchTo_keeps | with_reducible apply servoHand_keeps | with_reducible apply keeps_ite | with_reducible apply keepsP_ite | with_reducible apply keepsQ_ite | split | with_reducible apply keepsP_mk)
theorem execTbSelectWrite_keeps {s0 : State} (o : Origin) (v : Word) (s : State) (h_s : Keeps s0 s) : KeepsOut s0 (execTbSelectWrite o v s) := by
  unfold execTbSelectWrite
  repeat' (first | with_reducible assumption | with_reducible intro _ | fail_if_no_progress beta_reduce | with_reducible apply done_keeps | with_reducible apply regWriteRow_keeps | with_reducible apply tbCtlWrite_keeps)
theorem execTbServoWrite_keeps {s0 : State} (o : Origin) (v : Word) (s : State) (h_s : Keeps s0 s) : KeepsOut s0 (execTbServoWrite o v s) := by
  unfold execTbServoWrite
  repeat' (first | with_reducible assumption | with_reducible intro _ | fail_if_no_progress beta_reduce | with_reducible apply done_keeps | with_reducible apply regWriteRow_keeps | with_reducible apply tbCtlWrite_keeps)
theorem tbSecLoRead_keeps {s0 : State} (s : State) (h_s : Keeps s0 s) : KeepsP s0 (tbSecLoRead s) := by
  unfold tbSecLoRead
  repeat' (first | with_reducible assumption | (extract_lets +onlyGivenNames zz; first | (clear_value zz; revert zz; intro _)) | with_reducible apply keeps_ite | with_reducible apply keepsP_ite | with_reducible apply keepsQ_ite | split | with_reducible apply keepsP_mk | with_reducible apply keepsQ_mk | with_reducible apply keeps_fst (by assumption) | with_reducible apply keeps_snd (by assumption) | with_reducible apply keeps_some (by assumption) | with_reducible apply keeps_okE (by assumption) | with_reducible apply KeepsP_fst | with_reducible apply KeepsQ_snd | fail_if_no_progress with_reducible refine keeps_mk rfl rfl rfl rfl ?_)
theorem execTbSecLoRead_keeps {s0 : State} (o : Origin) (s : State) (h_s : Keeps s0 s) : KeepsOut s0 (execTbSecLoRead o s) := by
  unfold execTbSecLoRead
  repeat' (first | with_reducible assumption | with_reducible intro _ | fail_if_no_progress beta_reduce | with_reducible apply done_keeps | with_reducible apply regReadRow_keeps | with_reducible apply tbSecLoRead_keeps)
theorem execLinkTimeExchange_keeps {s0 : State} (key : Nat) (tx : Nat) (rx : Nat) (limit : Nat) (s : State) (h_s : Keeps s0 s) : KeepsOut s0 (execLinkTimeExchange key tx rx limit s) := by
  unfold execLinkTimeExchange
  repeat' (first | with_reducible assumption | (extract_lets +onlyGivenNames zz; first | (refine (fun (hx : Keeps s0 zz) => ?_) ?_ <;> [(clear_value zz; revert zz; intro _ _); subst zz]) | (clear_value zz; revert zz; intro _)) | with_reducible apply done_keeps | with_reducible apply setFld_keeps | with_reducible apply hubReport_keeps | with_reducible apply setEvent_keeps | with_reducible apply sendLink_keeps | with_reducible apply keeps_ite | with_reducible apply keepsOut_ite | with_reducible apply keepsO_ite | with_reducible apply keepsP_ite | with_reducible apply keepsQ_ite | split | with_reducible apply keepsP_mk | with_reducible apply keepsOut_next | with_reducible apply keepsQ_mk | with_reducible apply keepsO_some | exact keepsO_none | with_reducible apply keepsO_getD | with_reducible apply keeps_fst (by assumption) | with_reducible apply keeps_snd (by assumption) | with_reducible apply keeps_some (by assumption) | with_reducible apply keeps_okE (by assumption) | with_reducible apply KeepsP_fst | with_reducible apply KeepsQ_snd | fail_if_no_progress with_reducible refine keeps_mk rfl rfl rfl rfl ?_)

end Sys2Proof.Machine
end

