-- ==== Sys2Proof/Laws/KeepsHubOps.lean ====
section
/-!
SUPPORT. What the operations of Machine/HubOps keep (see Laws/Keeps).
-/
namespace Sys2Proof.Machine
open Sys2Proof

theorem modHub_keeps {s0 : State} (s : State) (h : Hub) (f : HubSt → HubSt) (h_s : Keeps s0 s) : Keeps s0 (modHub s h f) := by
  unfold modHub
  repeat' (first | with_reducible assumption | with_reducible apply setHub_keeps)
theorem raiseIbi_keeps {s0 : State} (s : State) (h : Hub) (h_s : Keeps s0 s) : Keeps s0 (raiseIbi s h) := by
  unfold raiseIbi
  repeat' (first | with_reducible assumption | with_reducible apply emit_keeps)
theorem abandonUpdate_keeps {s0 : State} (s : State) (standby : Hub) (h_s : Keeps s0 s) : Keeps s0 (abandonUpdate s standby) := by
  unfold abandonUpdate
  repeat' (first | with_reducible assumption | (extract_lets +onlyGivenNames zz; first | (refine (fun (hx : Keeps s0 zz) => ?_) ?_ <;> [(clear_value zz; revert zz; intro _ _); subst zz]) | (clear_value zz; revert zz; intro _)) | with_reducible apply modHub_keeps | with_reducible apply keeps_ite | with_reducible apply keepsP_ite | with_reducible apply keepsQ_ite | split | with_reducible apply keepsP_mk | with_reducible apply keepsQ_mk | with_reducible apply keeps_fst (by assumption) | with_reducible apply keeps_snd (by assumption) | with_reducible apply keeps_some (by assumption) | with_reducible apply keeps_okE (by assumption) | with_reducible apply KeepsP_fst | with_reducible apply KeepsQ_snd | fail_if_no_progress with_reducible refine keeps_mk rfl rfl rfl rfl ?_)
theorem stopActive_keeps {s0 : State} (s : State) (h : Hub) (h_s : Keeps s0 s) : Keeps s0 (stopActive s h) := by
  unfold stopActive
  repeat' (first | with_reducible assumption | (extract_lets +onlyGivenNames zz; first | (refine (fun (hx : Keeps s0 zz) => ?_) ?_ <;> [(clear_value zz; revert zz; intro _ _); subst zz]) | (refine (fun (_ : Security) => ?_) zz; subst zz)) | with_reducible apply abortCapture_keeps | with_reducible apply modHub_keeps | with_reducible apply abandonUpdate_keeps | with_reducible apply keeps_ite | with_reducible apply keepsP_ite | with_reducible apply keepsQ_ite | split | with_reducible apply keepsP_mk | with_reducible apply keepsQ_mk | with_reducible apply keeps_fst (by assumption) | with_reducible apply keeps_snd (by assumption) | with_reducible apply keeps_some (by assumption) | with_reducible apply keeps_okE (by assumption) | with_reducible apply KeepsP_fst | with_reducible apply KeepsQ_snd | fail_if_no_progress with_reducible refine keeps_mk rfl rfl rfl rfl ?_)
theorem loseSync_keeps {s0 : State} (s : State) (standby : Hub) (h_s : Keeps s0 s) : Keeps s0 (loseSync s standby) := by
  unfold loseSync
  repeat' (first | with_reducible assumption | (extract_lets +onlyGivenNames zz; first | (refine (fun (hx : Keeps s0 zz) => ?_) ?_ <;> [(clear_value zz; revert zz; intro _ _); subst zz])) | with_reducible apply setEvent_keeps | with_reducible apply modHub_keeps | with_reducible apply keeps_ite | with_reducible apply keepsP_ite | with_reducible apply keepsQ_ite | split | with_reducible apply keepsP_mk | with_reducible apply keepsQ_mk | with_reducible apply keeps_fst (by assumption) | with_reducible apply keeps_snd (by assumption) | with_reducible apply keeps_some (by assumption) | with_reducible apply keeps_okE (by assumption) | with_reducible apply KeepsP_fst | with_reducible apply KeepsQ_snd | fail_if_no_progress with_reducible refine keeps_mk rfl rfl rfl rfl ?_)
theorem hubFail_keeps {s0 : State} (s : State) (h : Hub) (h_s : Keeps s0 s) : Keeps s0 (hubFail s h) := by
  unfold hubFail
  repeat' (first | with_reducible assumption | (extract_lets +onlyGivenNames zz; first | (refine (fun (hx : Keeps s0 zz) => ?_) ?_ <;> [(clear_value zz; revert zz; intro _ _); subst zz])) | with_reducible apply setEvent_keeps | with_reducible apply modEng_keeps | with_reducible apply modHub_keeps | with_reducible apply abandonUpdate_keeps | with_reducible apply stopActive_keeps | with_reducible apply loseSync_keeps | with_reducible apply keeps_ite | with_reducible apply keepsP_ite | with_reducible apply keepsQ_ite | split | with_reducible apply keepsP_mk | with_reducible apply keepsQ_mk | with_reducible apply keeps_fst (by assumption) | with_reducible apply keeps_snd (by assumption) | with_reducible apply keeps_some (by assumption) | with_reducible apply keeps_okE (by assumption) | with_reducible apply KeepsP_fst | with_reducible apply KeepsQ_snd | fail_if_no_progress with_reducible refine keeps_mk rfl rfl rfl rfl ?_)
theorem trySync_keeps {s0 : State} (s : State) (h_s : Keeps s0 s) : Keeps s0 (trySync s) := by
  unfold trySync
  repeat' (first | with_reducible assumption | (extract_lets +onlyGivenNames zz; first | (refine (fun (hx : Keeps s0 zz) => ?_) ?_ <;> [(clear_value zz; revert zz; intro _ _); subst zz])) | with_reducible apply hubReport_keeps | with_reducible apply setEvent_keeps | with_reducible apply syncEngines_keeps | with_reducible apply modHub_keeps | with_reducible apply keeps_ite | with_reducible apply keepsP_ite | with_reducible apply keepsQ_ite | split | with_reducible apply keepsP_mk | with_reducible apply keepsQ_mk | with_reducible apply keeps_fst (by assumption) | with_reducible apply keeps_snd (by assumption) | with_reducible apply keeps_some (by assumption) | with_reducible apply keeps_okE (by assumption) | with_reducible apply KeepsP_fst | with_reducible apply KeepsQ_snd | fail_if_no_progress with_reducible refine keeps_mk rfl rfl rfl rfl ?_)
theorem tellHeld_keeps {s0 : State} (s : State) (h_s : Keeps s0 s) : Keeps s0 (tellHeld s) := by
  unfold tellHeld
  repeat' (first | with_reducible assumption | with_reducible apply fileReport_keeps | with_reducible apply keeps_ite | with_reducible apply keepsP_ite | with_reducible apply keepsQ_ite | (with_reducible refine keeps_foldl ?_ (fun _ _ _ => ?_) <;> beta_reduce) | (with_reducible refine keepsP_foldl ?_ (fun _ _ _ => ?_) <;> beta_reduce) | split | with_reducible apply keepsP_mk | with_reducible apply keepsQ_mk | with_reducible apply keeps_fst (by assumption) | with_reducible apply keeps_snd (by assumption) | with_reducible apply keeps_some (by assumption) | with_reducible apply keeps_okE (by assumption) | with_reducible apply KeepsP_fst | with_reducible apply KeepsQ_snd | fail_if_no_progress with_reducible refine keeps_mk rfl rfl rfl rfl ?_)
theorem abandonLoad_keeps {s0 : State} (s : State) (slot : Nat) (b : Bundle) (h_s : Keeps s0 s) : Keeps s0 (abandonLoad s slot b) := by
  unfold abandonLoad
  repeat' (first | with_reducible assumption | (extract_lets +onlyGivenNames zz; first | (refine (fun (hx : Keeps s0 zz) => ?_) ?_ <;> [(clear_value zz; revert zz; intro _ _); subst zz]) | (clear_value zz; revert zz; intro _)) | with_reducible apply setEvent_keeps | with_reducible apply dropBundle_keeps | with_reducible apply releaseDrain_keeps | with_reducible apply keeps_ite | with_reducible apply keepsP_ite | with_reducible apply keepsQ_ite | (with_reducible refine keeps_foldl ?_ (fun _ _ _ => ?_) <;> beta_reduce) | (with_reducible refine keepsP_foldl ?_ (fun _ _ _ => ?_) <;> beta_reduce) | split | with_reducible apply keepsP_mk | with_reducible apply keepsQ_mk | with_reducible apply keeps_fst (by assumption) | with_reducible apply keeps_snd (by assumption) | with_reducible apply keeps_some (by assumption) | with_reducible apply keeps_okE (by assumption) | with_reducible apply KeepsP_fst | with_reducible apply KeepsQ_snd | fail_if_no_progress with_reducible refine keeps_mk rfl rfl rfl rfl ?_)
theorem abandonLoads_keeps {s0 : State} (s : State) (h_s : Keeps s0 s) : Keeps s0 (abandonLoads s) := by
  unfold abandonLoads
  repeat' (first | with_reducible assumption | (extract_lets +onlyGivenNames zz; first | (refine (fun (hx : Keeps s0 zz) => ?_) ?_ <;> [(clear_value zz; revert zz; intro _ _); subst zz]) | (clear_value zz; revert zz; intro _)) | with_reducible apply abandonLoad_keeps | with_reducible apply keeps_ite | with_reducible apply keepsP_ite | with_reducible apply keepsQ_ite | (with_reducible refine keeps_foldl ?_ (fun _ _ _ => ?_) <;> beta_reduce) | (with_reducible refine keepsP_foldl ?_ (fun _ _ _ => ?_) <;> beta_reduce) | split | with_reducible apply keepsP_mk | with_reducible apply keepsQ_mk | with_reducible apply keeps_fst (by assumption) | with_reducible apply keeps_snd (by assumption) | with_reducible apply keeps_some (by assumption) | with_reducible apply keeps_okE (by assumption) | with_reducible apply KeepsP_fst | with_reducible apply KeepsQ_snd | fail_if_no_progress with_reducible refine keeps_mk rfl rfl rfl rfl ?_)
theorem dropCallers_keeps {s0 : State} (s : State) (h_s : Keeps s0 s) : Keeps s0 (dropCallers s) := by
  unfold dropCallers
  repeat' (first | with_reducible assumption | (extract_lets +onlyGivenNames zz; first | (clear_value zz; revert zz; intro _)) | with_reducible apply keeps_ite | with_reducible apply keepsP_ite | with_reducible apply keepsQ_ite | split | with_reducible apply keepsP_mk | with_reducible apply keepsQ_mk | with_reducible apply keeps_fst (by assumption) | with_reducible apply keeps_snd (by assumption) | with_reducible apply keeps_some (by assumption) | with_reducible apply keeps_okE (by assumption) | with_reducible apply KeepsP_fst | with_reducible apply KeepsQ_snd | fail_if_no_progress with_reducible refine keeps_mk rfl rfl rfl rfl ?_)
theorem emptyWindows_keeps {s0 : State} (s : State) (h_s : Keeps s0 s) : Keeps s0 (emptyWindows s) := by
  unfold emptyWindows
  repeat' (first | with_reducible assumption | (extract_lets +onlyGivenNames zz; first | (clear_value zz; revert zz; intro _)) | with_reducible apply keeps_ite | with_reducible apply keepsP_ite | with_reducible apply keepsQ_ite | split | with_reducible apply keepsP_mk | with_reducible apply keepsQ_mk | with_reducible apply keeps_fst (by assumption) | with_reducible apply keeps_snd (by assumption) | with_reducible apply keeps_some (by assumption) | with_reducible apply keeps_okE (by assumption) | with_reducible apply KeepsP_fst | with_reducible apply KeepsQ_snd | fail_if_no_progress with_reducible refine keeps_mk rfl rfl rfl rfl ?_)
theorem emptySamples_keeps {s0 : State} (s : State) (h_s : Keeps s0 s) : Keeps s0 (emptySamples s) := by
  unfold emptySamples
  repeat' (first | with_reducible assumption | (extract_lets +onlyGivenNames zz; first | (clear_value zz; revert zz; intro _)) | with_reducible apply keeps_ite | with_reducible apply keepsP_ite | with_reducible apply keepsQ_ite | split | with_reducible apply keepsP_mk | with_reducible apply keepsQ_mk | with_reducible apply keeps_fst (by assumption) | with_reducible apply keeps_snd (by assumption) | with_reducible apply keeps_some (by assumption) | with_reducible apply keeps_okE (by assumption) | with_reducible apply KeepsP_fst | with_reducible apply KeepsQ_snd | fail_if_no_progress with_reducible refine keeps_mk rfl rfl rfl rfl ?_)
theorem takeOver_keeps {s0 : State} (s : State) (h : Hub) (h_s : Keeps s0 s) : Keeps s0 (takeOver s h) := by
  unfold takeOver
  repeat' (first | with_reducible assumption | (extract_lets +onlyGivenNames zz; first | (refine (fun (hx : Keeps s0 zz) => ?_) ?_ <;> [(clear_value zz; revert zz; intro _ _); subst zz]) | (refine (fun (_ : Security) => ?_) zz; subst zz) | (clear_value zz; revert zz; intro _)) | with_reducible apply servoTakeover_keeps | with_reducible apply abandonLoads_keeps | with_reducible apply dropCallers_keeps | with_reducible apply emptyWindows_keeps | with_reducible apply emptySamples_keeps | with_reducible apply keeps_ite | with_reducible apply keepsP_ite | with_reducible apply keepsQ_ite | split | with_reducible apply keepsP_mk | with_reducible apply keepsQ_mk | with_reducible apply keeps_fst (by assumption) | with_reducible apply keeps_snd (by assumption) | with_reducible apply keeps_some (by assumption) | with_reducible apply keeps_okE (by assumption) | with_reducible apply KeepsP_fst | with_reducible apply KeepsQ_snd | fail_if_no_progress with_reducible refine keeps_mk rfl rfl rfl rfl ?_)
theorem warmTakeover_keeps {s0 : State} (s : State) (h : Hub) (h_s : Keeps s0 s) : Keeps s0 (warmTakeover s h) := by
  unfold warmTakeover
  repeat' (first | with_reducible assumption | with_reducible apply hubReport_keeps | with_reducible apply setEvent_keeps | with_reducible apply tellAbandoned_keeps | with_reducible apply takeOver_keeps)
theorem applyKept_keeps {s0 : State} (s : State) (h : Hub) (h_s : Keeps s0 s) : Keeps s0 (applyKept s h) := by
  unfold applyKept
  repeat' (first | with_reducible assumption | (extract_lets +onlyGivenNames zz; first | (refine (fun (hx : Keeps s0 zz) => ?_) ?_ <;> [(clear_value zz; revert zz; intro _ _); subst zz]) | (refine (fun (hx : ∀ t u, Keeps s0 t → Keeps s0 (zz t u)) => ?_) ?_ <;> [(clear_value zz; revert zz; intro _ hloc); (subst zz; intro t u ht; beta_reduce)]) | (clear_value zz; revert zz; intro _)) | with_reducible apply hloc | with_reducible apply modEng_keeps | with_reducible apply keeps_ite | with_reducible apply keepsO_ite | with_reducible apply keepsP_ite | with_reducible apply keepsQ_ite | (with_reducible refine keeps_foldl ?_ (fun _ _ _ => ?_) <;> beta_reduce) | (with_reducible refine keepsP_foldl ?_ (fun _ _ _ => ?_) <;> beta_reduce) | split | with_reducible apply keepsP_mk | with_reducible apply keepsQ_mk | with_reducible apply keepsO_some | exact keepsO_none | with_reducible apply keepsO_getD | with_reducible apply keeps_fst (by assumption) | with_reducible apply keeps_snd (by assumption) | with_reducible apply keeps_some (by assumption) | with_reducible apply keeps_okE (by assumption) | with_reducible apply KeepsP_fst | with_reducible apply KeepsQ_snd | fail_if_no_progress with_reducible refine keeps_mk rfl rfl rfl rfl ?_)
theorem faultEvicted_keeps {s0 : State} (s : State) (h_s : Keeps s0 s) : Keeps s0 (faultEvicted s) := by
  unfold faultEvicted
  repeat' (first | with_reducible assumption | with_reducible apply faultWith_keeps | with_reducible apply keeps_ite | with_reducible apply keepsP_ite | with_reducible apply keepsQ_ite | (with_reducible refine keeps_foldl ?_ (fun _ _ _ => ?_) <;> beta_reduce))
theorem coldTakeover_keeps {s0 : State} (s : State) (h : Hub) (h_s : Keeps s0 s) : Keeps s0 (coldTakeover s h) := by
  unfold coldTakeover
  repeat' (first | with_reducible assumption | (extract_lets +onlyGivenNames zz; first | (refine (fun (hx : Keeps s0 zz) => ?_) ?_ <;> [(clear_value zz; revert zz; intro _ _); subst zz])) | with_reducible apply hubReport_keeps | with_reducible apply setEvent_keeps | with_reducible apply coldOpen_keeps | with_reducible apply takeOver_keeps | with_reducible apply applyKept_keeps | with_reducible apply faultEvicted_keeps | with_reducible apply keeps_ite | with_reducible apply keepsP_ite | with_reducible apply keepsQ_ite | (with_reducible refine keeps_foldl ?_ (fun _ _ _ => ?_) <;> beta_reduce) | (with_reducible refine keepsP_foldl ?_ (fun _ _ _ => ?_) <;> beta_reduce) | split | with_reducible apply keepsP_mk | with_reducible apply keepsQ_mk | with_reducible apply keeps_fst (by assumption) | with_reducible apply keeps_snd (by assumption) | with_reducible apply keeps_some (by assumption) | with_reducible apply keeps_okE (by assumption) | with_reducible apply KeepsP_fst | with_reducible apply KeepsQ_snd | fail_if_no_progress with_reducible refine keeps_mk rfl rfl rfl rfl ?_)
theorem bootRecords_keeps {s0 : State} (s : State) (h_s : Keeps s0 s) : Keeps s0 (bootRecords s) := by
  unfold bootRecords
  repeat' (first | with_reducible assumption | (extract_lets +onlyGivenNames zz; first | (refine (fun (hx : Keeps s0 zz) => ?_) ?_ <;> [(clear_value zz; revert zz; intro _ _); subst zz])) | with_reducible apply reportNow_keeps | with_reducible apply keeps_ite)
theorem bootDone_keeps {s0 : State} (s : State) (h_s : Keeps s0 s) : Keeps s0 (bootDone s) := by
  unfold bootDone
  refine setFld_keeps _ _ _ (bootRecords_keeps _ ⟨h_s.1, h_s.2.1, h_s.2.2.1, fun w0 y hy k hk => ?_⟩)
  obtain ⟨y', hy', rfl⟩ := List.mem_map.1 hy
  obtain ⟨k', hk', rfl⟩ := List.mem_map.1 hk
  exact h_s.2.2.2 w0 y' hy' k' hk'
theorem becomeActive_keeps {s0 : State} (s : State) (h : Hub) (h_s : Keeps s0 s) : Keeps s0 (becomeActive s h) := by
  unfold becomeActive
  repeat' (first | with_reducible assumption | (extract_lets +onlyGivenNames zz; first | (refine (fun (hx : Keeps s0 zz) => ?_) ?_ <;> [(clear_value zz; revert zz; intro _ _); subst zz]) | (clear_value zz; revert zz; intro _)) | with_reducible apply resettle_keeps | with_reducible apply moveRetired_keeps | with_reducible apply announceAll_keeps | with_reducible apply finishRecable_keeps | with_reducible apply servoAfresh_keeps | with_reducible apply modHub_keeps | with_reducible apply trySync_keeps | with_reducible apply tellHeld_keeps | with_reducible apply warmTakeover_keeps | with_reducible apply coldTakeover_keeps | with_reducible apply bootDone_keeps | with_reducible apply keeps_ite | with_reducible apply keepsP_ite | with_reducible apply keepsQ_ite | (with_reducible refine keeps_foldl ?_ (fun _ _ _ => ?_) <;> beta_reduce) | (with_reducible refine keepsP_foldl ?_ (fun _ _ _ => ?_) <;> beta_reduce) | split | with_reducible apply keepsP_mk | with_reducible apply keepsQ_mk | with_reducible apply keeps_fst (by assumption) | with_reducible apply keeps_snd (by assumption) | with_reducible apply keeps_some (by assumption) | with_reducible apply keeps_okE (by assumption) | with_reducible apply KeepsP_fst | with_reducible apply KeepsQ_snd | fail_if_no_progress with_reducible refine keeps_mk rfl rfl rfl rfl ?_)

end Sys2Proof.Machine
end

