-- ==== Sys2Proof/Laws/KeepsRecRows.lean ====
section
/-!
SUPPORT. What the operations of Machine/RecRows keep (see Laws/Keeps).
-/
namespace Sys2Proof.Machine
open Sys2Proof

theorem modRec_keeps {s0 : State} (s : State) (h : Hub) (f : Recorder → Recorder) (h_s : Keeps s0 s) : Keeps s0 (modRec s h f) := by
  unfold modRec
  repeat' (first | with_reducible assumption | with_reducible apply modHub_keeps)
theorem execRecMirrorReceive_keeps {s0 : State} (h : Hub) (s : State) (h_s : Keeps s0 s) : KeepsOut s0 (execRecMirrorReceive h s) := by
  unfold execRecMirrorReceive
  repeat' (first | with_reducible assumption | with_reducible intro _ | fail_if_no_progress beta_reduce | (extract_lets +onlyGivenNames zz; first | (refine (fun (hx : Keeps s0 zz) => ?_) ?_ <;> [(clear_value zz; revert zz; intro _ _); subst zz]) | (refine (fun (hx : KeepsP s0 zz) => ?_) ?_ <;> [(clear_value zz; revert zz; intro _ _); subst zz]) | (refine (fun (hx : KeepsQ s0 zz) => ?_) ?_ <;> [(clear_value zz; revert zz; intro _ _); subst zz]) | (refine (fun (hx : KeepsO s0 zz) => ?_) ?_ <;> [(clear_value zz; revert zz; intro _ _); subst zz]) | (refine (fun (hx : KeepsE s0 zz) => ?_) ?_ <;> [(clear_value zz; revert zz; intro _ _); subst zz]) | (refine (fun (hx : Keeps s0 (Issue.s zz)) => ?_) ?_ <;> [(clear_value zz; revert zz; intro _ _); subst zz]) | (refine (fun (hx : Keeps s0 (StackRead.st zz)) => ?_) ?_ <;> [(clear_value zz; revert zz; intro _ _); subst zz]) | (refine (fun (hx : ∀ t, Keeps s0 t → Keeps s0 (zz t)) => ?_) ?_ <;> [(clear_value zz; revert zz; intro _ hloc); (subst zz; intro t ht; beta_reduce)]) | (refine (fun (hx : ∀ t u, Keeps s0 t → Keeps s0 (zz t u)) => ?_) ?_ <;> [(clear_value zz; revert zz; intro _ hloc); (subst zz; intro t u ht; beta_reduce)]) | (refine (fun (hx : ∀ t, Keeps s0 (zz t)) => ?_) ?_ <;> [(clear_value zz; revert zz; intro _ hloc); (subst zz; intro t; beta_reduce)]) | (refine (fun (hx : ∀ t u, Keeps s0 (zz t u)) => ?_) ?_ <;> [(clear_value zz; revert zz; intro _ hloc); (subst zz; intro t u; beta_reduce)]) | (refine (fun (hx : ∀ t u v, Keeps s0 t → Keeps s0 (zz t u v)) => ?_) ?_ <;> [(clear_value zz; revert zz; intro _ hloc); (subst zz; intro t u v ht; beta_reduce)]) | (refine (fun (hx : ∀ t u v w, Keeps s0 t → Keeps s0 (zz t u v w)) => ?_) ?_ <;> [(clear_value zz; revert zz; intro _ hloc); (subst zz; intro t u v w ht; beta_reduce)]) | (refine (fun (_ : Security) => ?_) zz; subst zz) | (clear_value zz; revert zz; intro _)) | with_reducible apply done_keeps | with_reducible apply recordWithin_keeps | with_reducible apply modRec_keeps | with_reducible apply keeps_ite | with_reducible apply keepsOut_ite | with_reducible apply keepsP_ite | with_reducible apply keepsQ_ite | split)
theorem execRecSuppressed_keeps {s0 : State} (h : Hub) (s : State) (h_s : Keeps s0 s) : KeepsOut s0 (execRecSuppressed h s) := by
  unfold execRecSuppressed
  repeat' (first | with_reducible assumption | (extract_lets +onlyGivenNames zz; first | (clear_value zz; revert zz; intro _)) | with_reducible apply done_keeps | with_reducible apply writeRecord_keeps | with_reducible apply modRec_keeps | with_reducible apply keeps_ite)
theorem execOptimeSave_keeps {s0 : State} (elapsed : Nat) (bad : List Hub) (s : State) (h_s : Keeps s0 s) : KeepsOut s0 (execOptimeSave elapsed bad s) := by
  unfold execOptimeSave
  repeat' (first | with_reducible assumption | (extract_lets +onlyGivenNames zz; first | (clear_value zz; revert zz; intro _)) | with_reducible apply done_keeps | with_reducible apply modRec_keeps | with_reducible apply keeps_ite | with_reducible apply keepsOut_ite | with_reducible apply keepsP_ite | with_reducible apply keepsQ_ite | (with_reducible refine keeps_foldl ?_ (fun _ _ _ => ?_) <;> beta_reduce) | (with_reducible refine keepsP_foldl ?_ (fun _ _ _ => ?_) <;> beta_reduce) | split | with_reducible apply keepsP_mk | with_reducible apply keepsOut_next | with_reducible apply keepsQ_mk | with_reducible apply keeps_fst (by assumption) | with_reducible apply keeps_snd (by assumption) | with_reducible apply keeps_some (by assumption) | with_reducible apply keeps_okE (by assumption) | with_reducible apply KeepsP_fst | with_reducible apply KeepsQ_snd | fail_if_no_progress with_reducible refine keeps_mk rfl rfl rfl rfl ?_)
theorem onActive_keeps {s0 : State} (s : State) (f : Hub → State) (h_s : Keeps s0 s) (h_f : ∀ x0, Keeps s0 (f x0)) : Keeps s0 (onActive s f) := by
  unfold onActive
  repeat' (first | with_reducible assumption | with_reducible intro _ | fail_if_no_progress beta_reduce | with_reducible apply h_f | with_reducible apply keeps_ite | with_reducible apply keepsP_ite | with_reducible apply keepsQ_ite | split)
theorem recCursorWriteOp_keeps {s0 : State} (s : State) (v : Word) (h_s : Keeps s0 s) : KeepsP s0 (recCursorWriteOp s v) := by
  unfold recCursorWriteOp
  repeat' (first | with_reducible assumption | with_reducible intro _ | fail_if_no_progress beta_reduce | with_reducible apply modRec_keeps | with_reducible apply onActive_keeps | with_reducible apply keeps_ite | with_reducible apply keepsP_ite | with_reducible apply keepsQ_ite | split | with_reducible apply keepsP_mk)
theorem execRecCursorWrite_keeps {s0 : State} (o : Origin) (v : Word) (s : State) (h_s : Keeps s0 s) : KeepsOut s0 (execRecCursorWrite o v s) := by
  unfold execRecCursorWrite
  repeat' (first | with_reducible assumption | with_reducible intro _ | fail_if_no_progress beta_reduce | with_reducible apply done_keeps | with_reducible apply regWriteRow_keeps | with_reducible apply recCursorWriteOp_keeps)
theorem recFindWrite_keeps {s0 : State} (s : State) (v : Word) (h_s : Keeps s0 s) : KeepsP s0 (recFindWrite s v) := by
  unfold recFindWrite
  repeat' (first | with_reducible assumption | with_reducible intro _ | fail_if_no_progress beta_reduce | (extract_lets +onlyGivenNames zz; first | (refine (fun (hx : Keeps s0 zz) => ?_) ?_ <;> [(clear_value zz; revert zz; intro _ _); subst zz]) | (clear_value zz; revert zz; intro _)) | with_reducible apply setRegWord_keeps | with_reducible apply modRec_keeps | with_reducible apply onActive_keeps | with_reducible apply keeps_ite | with_reducible apply keepsP_ite | with_reducible apply keepsQ_ite | split | with_reducible apply keepsP_mk)
theorem execRecFind_keeps {s0 : State} (o : Origin) (v : Word) (s : State) (h_s : Keeps s0 s) : KeepsOut s0 (execRecFind o v s) := by
  unfold execRecFind
  repeat' (first | with_reducible assumption | with_reducible intro _ | fail_if_no_progress beta_reduce | with_reducible apply done_keeps | with_reducible apply regWriteRow_keeps | with_reducible apply recFindWrite_keeps)
theorem recRetryWrite_keeps {s0 : State} (s : State) (v : Word) (good : Bool) (h_s : Keeps s0 s) : KeepsP s0 (recRetryWrite s v good) := by
  unfold recRetryWrite
  repeat' (first | with_reducible assumption | with_reducible intro _ | fail_if_no_progress beta_reduce | (extract_lets +onlyGivenNames zz; first | (clear_value zz; revert zz; intro _)) | with_reducible apply hubReport_keeps | with_reducible apply modRec_keeps | with_reducible apply onActive_keeps | with_reducible apply keeps_ite | with_reducible apply keepsP_ite | with_reducible apply keepsQ_ite | split | with_reducible apply keepsP_mk)
theorem execRecRetry_keeps {s0 : State} (o : Origin) (v : Word) (good : Bool) (s : State) (h_s : Keeps s0 s) : KeepsOut s0 (execRecRetry o v good s) := by
  unfold execRecRetry
  repeat' (first | with_reducible assumption | with_reducible intro _ | fail_if_no_progress beta_reduce | with_reducible apply done_keeps | with_reducible apply regWriteRow_keeps | with_reducible apply recRetryWrite_keeps)
theorem pctClrWrite_keeps {s0 : State} (s : State) (v : Word) (h_s : Keeps s0 s) : KeepsP s0 (pctClrWrite s v) := by
  unfold pctClrWrite
  repeat' (first | with_reducible assumption | (extract_lets +onlyGivenNames zz; first | (clear_value zz; revert zz; intro _)) | with_reducible apply keeps_ite | with_reducible apply keepsP_ite | with_reducible apply keepsQ_ite | split | with_reducible apply keepsP_mk | with_reducible apply keepsQ_mk | with_reducible apply keeps_fst (by assumption) | with_reducible apply keeps_snd (by assumption) | with_reducible apply keeps_some (by assumption) | with_reducible apply keeps_okE (by assumption) | with_reducible apply KeepsP_fst | with_reducible apply KeepsQ_snd | fail_if_no_progress with_reducible refine keeps_mk rfl rfl rfl rfl ?_)
theorem execPctClr_keeps {s0 : State} (o : Origin) (v : Word) (s : State) (h_s : Keeps s0 s) : KeepsOut s0 (execPctClr o v s) := by
  unfold execPctClr
  repeat' (first | with_reducible assumption | with_reducible intro _ | fail_if_no_progress beta_reduce | with_reducible apply done_keeps | with_reducible apply regWriteRow_keeps | with_reducible apply pctClrWrite_keeps)
theorem pctValLoRead_keeps {s0 : State} (s : State) (h_s : Keeps s0 s) : KeepsP s0 (pctValLoRead s) := by
  unfold pctValLoRead
  repeat' (first | with_reducible assumption | (extract_lets +onlyGivenNames zz; first | (refine (fun (hx : KeepsQ s0 zz) => ?_) ?_ <;> [(clear_value zz; revert zz; intro _ _); subst zz]) | (refine (fun (hx : ∀ t u, Keeps s0 t → Keeps s0 (zz t u)) => ?_) ?_ <;> [(clear_value zz; revert zz; intro _ hloc); (subst zz; intro t u ht; beta_reduce)]) | (clear_value zz; revert zz; intro _)) | with_reducible apply hloc | with_reducible apply takeFree_keeps | with_reducible apply setRegWord_keeps | with_reducible apply keeps_ite | with_reducible apply keepsP_ite | with_reducible apply keepsQ_ite | split | with_reducible apply keepsP_mk | with_reducible apply keepsQ_mk | with_reducible apply keeps_fst (by assumption) | with_reducible apply keeps_snd (by assumption) | with_reducible apply keeps_some (by assumption) | with_reducible apply keeps_okE (by assumption) | with_reducible apply KeepsP_fst | with_reducible apply KeepsQ_snd)
theorem execPctValLoRead_keeps {s0 : State} (o : Origin) (s : State) (h_s : Keeps s0 s) : KeepsOut s0 (execPctValLoRead o s) := by
  unfold execPctValLoRead
  repeat' (first | with_reducible assumption | with_reducible intro _ | fail_if_no_progress beta_reduce | with_reducible apply done_keeps | with_reducible apply regReadRow_keeps | with_reducible apply pctValLoRead_keeps)
theorem pctSmpCtlWrite_keeps {s0 : State} (s : State) (k : Nat) (v : Word) (h_s : Keeps s0 s) : KeepsP s0 (pctSmpCtlWrite s k v) := by
  unfold pctSmpCtlWrite
  repeat' (first | with_reducible assumption | (extract_lets +onlyGivenNames zz; first | (refine (fun (hx : Keeps s0 zz) => ?_) ?_ <;> [(clear_value zz; revert zz; intro _ _); subst zz]) | (clear_value zz; revert zz; intro _)) | with_reducible apply plainWrite_keeps | with_reducible apply keeps_ite | with_reducible apply keepsP_ite | with_reducible apply keepsQ_ite | split | with_reducible apply keepsP_mk | with_reducible apply keepsQ_mk | with_reducible apply keeps_fst (by assumption) | with_reducible apply keeps_snd (by assumption) | with_reducible apply keeps_some (by assumption) | with_reducible apply keeps_okE (by assumption) | with_reducible apply KeepsP_fst | with_reducible apply KeepsQ_snd | fail_if_no_progress with_reducible refine keeps_mk rfl rfl rfl rfl ?_)
theorem execPctSmpEnable_keeps {s0 : State} (o : Origin) (k : Nat) (v : Word) (s : State) (h_s : Keeps s0 s) : KeepsOut s0 (execPctSmpEnable o k v s) := by
  unfold execPctSmpEnable
  repeat' (first | with_reducible assumption | with_reducible intro _ | fail_if_no_progress beta_reduce | with_reducible apply done_keeps | with_reducible apply regWriteRow_keeps | with_reducible apply pctSmpCtlWrite_keeps)
theorem pctSmpPopWrite_keeps {s0 : State} (s : State) (v : Word) (h_s : Keeps s0 s) : KeepsP s0 (pctSmpPopWrite s v) := by
  unfold pctSmpPopWrite
  repeat' (first | with_reducible assumption | (extract_lets +onlyGivenNames zz; first | (clear_value zz; revert zz; intro _)) | with_reducible apply keeps_ite | with_reducible apply keepsP_ite | with_reducible apply keepsQ_ite | split | with_reducible apply keepsP_mk | with_reducible apply keepsQ_mk | with_reducible apply keeps_fst (by assumption) | with_reducible apply keeps_snd (by assumption) | with_reducible apply keeps_some (by assumption) | with_reducible apply keeps_okE (by assumption) | with_reducible apply KeepsP_fst | with_reducible apply KeepsQ_snd | fail_if_no_progress with_reducible refine keeps_mk rfl rfl rfl rfl ?_)
theorem execPctSmpPop_keeps {s0 : State} (o : Origin) (v : Word) (s : State) (h_s : Keeps s0 s) : KeepsOut s0 (execPctSmpPop o v s) := by
  unfold execPctSmpPop
  repeat' (first | with_reducible assumption | with_reducible intro _ | fail_if_no_progress beta_reduce | with_reducible apply done_keeps | with_reducible apply regWriteRow_keeps | with_reducible apply pctSmpPopWrite_keeps)
theorem redOptimeLoRead_keeps {s0 : State} (s : State) (h_s : Keeps s0 s) : KeepsP s0 (redOptimeLoRead s) := by
  unfold redOptimeLoRead
  repeat' (first | with_reducible assumption | with_reducible apply setRegWord_keeps | with_reducible apply keeps_ite | with_reducible apply keepsP_ite | with_reducible apply keepsQ_ite | split | with_reducible apply keepsP_mk)
theorem execRedOptimeLoRead_keeps {s0 : State} (o : Origin) (s : State) (h_s : Keeps s0 s) : KeepsOut s0 (execRedOptimeLoRead o s) := by
  unfold execRedOptimeLoRead
  repeat' (first | with_reducible assumption | with_reducible intro _ | fail_if_no_progress beta_reduce | with_reducible apply done_keeps | with_reducible apply regReadRow_keeps | with_reducible apply redOptimeLoRead_keeps)
theorem dbgFetch_keeps {s0 : State} (s : State) (w : Where) (item : Nat) (index : Nat) (h_s : Keeps s0 s) : KeepsP s0 (dbgFetch s w item index) := by
  unfold dbgFetch
  repeat' (first | with_reducible assumption | (extract_lets +onlyGivenNames zz; first | (refine (fun (hx : Keeps s0 zz) => ?_) ?_ <;> [(clear_value zz; revert zz; intro _ _); subst zz]) | (clear_value zz; revert zz; intro _)) | with_reducible apply modStation_keeps | with_reducible apply scratchFound_keeps | with_reducible apply keeps_ite | with_reducible apply keepsP_ite | with_reducible apply keepsQ_ite | split | with_reducible apply keepsP_mk)
theorem dbgLoRead_keeps {s0 : State} (s : State) (d : Nat) (h_s : Keeps s0 s) : KeepsP s0 (dbgLoRead s d) := by
  have hp : ∀ (t : State) (v w : Word) (c : Nat × Word), Keeps s0 t →
      KeepsP s0 (setRegWord (setRegWord t ⟨.dieDbgLo, d, 0, 0⟩ v) ⟨.dieDbgHi, d, 0, 0⟩ w, c) :=
    fun t v w _ ht => setRegWord_keeps _ _ _ (setRegWord_keeps _ _ _ ht)
  unfold dbgLoRead
  dsimp only
  split
  · exact h_s
  · split
    · exact hp _ _ _ _ (takeFree_keeps _ h_s)
    · rename_i w _
      have hf := dbgFetch_keeps s w (dbgItem s d) (dbgIndex s d) h_s
      split
      · exact h_s
      · split
        · exact hp _ _ _ _ (keeps_fst (by assumption) hf)
        · exact hp _ _ _ _ (takeFree_keeps _ (keeps_fst (by assumption) hf))
theorem execDieDbgLoRead_keeps {s0 : State} (o : Origin) (d : Nat) (s : State) (h_s : Keeps s0 s) : KeepsOut s0 (execDieDbgLoRead o d s) := by
  unfold execDieDbgLoRead
  repeat' (first | with_reducible assumption | with_reducible intro _ | fail_if_no_progress beta_reduce | with_reducible apply done_keeps | with_reducible apply regAnswer_keeps | with_reducible apply dbgLoRead_keeps)
theorem dbgCmdWrite_keeps {s0 : State} (s : State) (o : Origin) (d : Nat) (v : Word) (h_s : Keeps s0 s) : KeepsP s0 (dbgCmdWrite s o d v) := by
  unfold dbgCmdWrite
  repeat' (first | with_reducible assumption | (extract_lets +onlyGivenNames zz; first | (refine (fun (hx : Keeps s0 zz) => ?_) ?_ <;> [(clear_value zz; revert zz; intro _ _); subst zz]) | (refine (fun (hx : KeepsP s0 zz) => ?_) ?_ <;> [(clear_value zz; revert zz; intro _ _); subst zz]) | (clear_value zz; revert zz; intro _)) | with_reducible apply takeFree_keeps | with_reducible apply reportNow_keeps | with_reducible apply modStation_keeps | with_reducible apply dbgFetch_keeps | with_reducible apply keeps_ite | with_reducible apply keepsP_ite | with_reducible apply keepsQ_ite | split | with_reducible apply keepsP_mk | with_reducible apply keepsQ_mk | with_reducible apply keeps_fst (by assumption) | with_reducible apply keeps_snd (by assumption) | with_reducible apply keeps_some (by assumption) | with_reducible apply keeps_okE (by assumption) | with_reducible apply KeepsP_fst | with_reducible apply KeepsQ_snd)
theorem execDieDbgWrite_keeps {s0 : State} (o : Origin) (d : Nat) (v : Word) (s : State) (h_s : Keeps s0 s) : KeepsOut s0 (execDieDbgWrite o d v s) := by
  unfold execDieDbgWrite
  repeat' (first | with_reducible assumption | with_reducible intro _ | fail_if_no_progress beta_reduce | with_reducible apply done_keeps | with_reducible apply regWriteRow_keeps | with_reducible apply dbgCmdWrite_keeps)

end Sys2Proof.Machine
end

