-- ==== Sys2Proof/Laws/KeepsViews.lean ====
section
/-!
SUPPORT. What the operations of Machine/Views keep (see Laws/Keeps).
-/
namespace Sys2Proof.Machine
open Sys2Proof

theorem afterRead_keeps {s0 : State} (s : State) (r : RegRef) (h_s : Keeps s0 s) : Keeps s0 (afterRead s r) := by
  unfold afterRead
  repeat' (first | with_reducible assumption | (extract_lets +onlyGivenNames zz; first | (clear_value zz; revert zz; intro _)) | with_reducible apply takeFree_keeps | with_reducible apply keeps_ite | with_reducible apply keepsP_ite | with_reducible apply keepsQ_ite | split | with_reducible apply keepsP_mk | with_reducible apply keepsQ_mk | with_reducible apply keeps_fst (by assumption) | with_reducible apply keeps_snd (by assumption) | with_reducible apply keeps_some (by assumption) | with_reducible apply keeps_okE (by assumption) | with_reducible apply KeepsP_fst | with_reducible apply KeepsQ_snd)

end Sys2Proof.Machine
end

