-- ==== Sys2Proof/Laws/KeepsRegAccess.lean ====
section
/-!
SUPPORT. What the operations of Machine/RegAccess keep (see Laws/Keeps).
-/
namespace Sys2Proof.Machine
open Sys2Proof

theorem readServed_keeps {s0 : State} (s : State) (r : RegRef) (h_s : Keeps s0 s) : KeepsP s0 (readServed s r) := by
  obtain ⟨g, b, i, j⟩ := r
  cases g
  case pwrEnergyLo => apply pwrEnergyLoRead_keeps; exact h_s
  case tbSecLo => apply tbSecLoRead_keeps; exact h_s
  case pctValLo => apply pctValLoRead_keeps; exact h_s
  case redOptimeLo => apply redOptimeLoRead_keeps; exact h_s
  case fabRbData => apply rbDataRead_keeps; exact h_s
  case fabRbActive => apply rbActiveRead_keeps; exact h_s
  case calData => apply calDataRead_keeps; exact h_s
  case secGrantData => apply grantDataRead_keeps; exact h_s
  case srvParam => apply srvParamRead_keeps; exact h_s
  case dieDbgLo => apply dbgLoRead_keeps; exact h_s
  all_goals exact afterRead_keeps s _ h_s
theorem readAt_keeps {s0 : State} (s : State) (a : Nat) (h_s : Keeps s0 s) : KeepsP s0 (readAt s a) := by
  unfold readAt
  repeat' (first | with_reducible assumption | with_reducible apply readServed_keeps | with_reducible apply keeps_ite | with_reducible apply keepsP_ite | with_reducible apply keepsQ_ite | split | with_reducible apply keepsP_mk)
theorem restartPtp_keeps {s0 : State} (s : State) (j : Nat) (h_s : Keeps s0 s) : Keeps s0 (restartPtp s j) := by
  unfold restartPtp
  repeat' (first | with_reducible assumption | with_reducible apply setPtp_keeps)
theorem afterWrite_keeps {s0 : State} (before : State) (s : State) (r : RegRef) (h_before : Keeps s0 before) (h_s : Keeps s0 s) :
    Keeps s0 (afterWrite before s r) := by
  obtain ⟨g, b, i, j⟩ := r
  cases g
  case paceCtl => exact resettle_keeps _ h_s
  case paceVlim => exact resettle_keeps _ h_s
  case paceFixed => exact resettle_keeps _ h_s
  case ptpCfg =>
    unfold afterWrite; dsimp only; split
    · exact h_s
    · exact restartPtp_keeps _ _ h_s
  case ptpBound => exact requal_keeps _ h_s
  case ethCtl =>
    unfold afterWrite; dsimp only; split
    · exact modHub_keeps _ _ _ h_s
    · exact h_s
  case fabCtl =>
    unfold afterWrite; dsimp only
    refine afterFabCtl_keeps _ ?_
    split
    · exact setFld_keeps _ _ _ h_s
    · exact h_s
  all_goals exact h_s
theorem writePlain_keeps {s0 : State} (s : State) (r : RegRef) (v : Word) (h_s : Keeps s0 s) : KeepsP s0 (writePlain s r v) := by
  unfold writePlain
  repeat' (first | with_reducible assumption | (extract_lets +onlyGivenNames zz; first | (refine (fun (hx : KeepsP s0 zz) => ?_) ?_ <;> [(clear_value zz; revert zz; intro _ _); subst zz])) | with_reducible apply plainWrite_keeps | with_reducible apply afterWrite_keeps | with_reducible apply keeps_ite | with_reducible apply keepsP_ite | with_reducible apply keepsQ_ite | split | with_reducible apply keepsP_mk | with_reducible apply keepsQ_mk | with_reducible apply keeps_fst (by assumption) | with_reducible apply keeps_snd (by assumption) | with_reducible apply keeps_some (by assumption) | with_reducible apply keeps_okE (by assumption) | with_reducible apply KeepsP_fst)
set_option maxHeartbeats 1000000 in
theorem writeServed_keeps {s0 : State} (s : State) (o : Origin) (r : RegRef) (v : Word) (h_s : Keeps s0 s) :
    KeepsP s0 (writeServed s o r v) := by
  obtain ⟨g, b, i, j⟩ := r
  cases g
  case pwrCap => apply pwrCapWrite_keeps; exact h_s
  case tbCtl => apply tbCtlWrite_keeps; exact h_s
  case tbIncrLo => apply tbIncrLoWrite_keeps; exact h_s
  case tbIncrHi => apply tbIncrHiWrite_keeps; exact h_s
  case tbAdj => apply tbAdjWrite_keeps; exact h_s
  case optSteer => apply optSteerWrite_keeps; exact h_s
  case fabPostcode => apply postcodeWrite_keeps; exact h_s
  case fabRecable => apply recableWrite_keeps; exact h_s
  case fabRbData => apply rbDataWrite_keeps; exact h_s
  case fabRbActive => apply rbActiveWrite_keeps; exact h_s
  case fabRbCtl => apply fabRbCtlWrite_keeps; exact h_s
  case fabExpect =>
    unfold writeServed; dsimp only; split
    · exact h_s
    · exact expectWrite_keeps _ _ _ _ _ h_s
  case fabBypass =>
    unfold writeServed; dsimp only; split
    · exact h_s
    · exact expectWrite_keeps _ _ _ _ _ h_s
  case calData => apply calDataWrite_keeps; exact h_s
  case calCmd => apply calCmdWrite_keeps; exact h_s
  case srvParam => apply srvParamWrite_keeps; exact h_s
  case srvCmd => apply srvCmdWrite_keeps; exact h_s
  case redFwCmd => apply fwCmdWrite_keeps; exact h_s
  case recCtl =>
    unfold writeServed; dsimp only; split
    · exact h_s
    · exact recRetryWrite_keeps _ _ _ (takeFree_keeps _ h_s)
  case recStat =>
    unfold writeServed; dsimp only; split
    · exact h_s
    · exact onActive_keeps _ _ h_s (fun h => modRec_keeps _ _ _ h_s)
  case recCursor => apply recCursorWriteOp_keeps; exact h_s
  case recFindNs => apply recFindWrite_keeps; exact h_s
  case pctClr => apply pctClrWrite_keeps; exact h_s
  case pctSmpCtl => apply pctSmpCtlWrite_keeps; exact h_s
  case pctSmpPop => apply pctSmpPopWrite_keeps; exact h_s
  case dieDbgCmd => apply dbgCmdWrite_keeps; exact h_s
  case secCtl => apply secCtlWrite_keeps; exact h_s
  case secRetCmd => apply secRetCmdWrite_keeps; exact h_s
  case secLcCmd => apply lcCmdWrite_keeps; exact h_s
  case secKeySel => apply keySelWrite_keeps; exact h_s
  case secKeyW => apply keyWordWrite_keeps; exact h_s
  case secKeyCmd => apply keyCmdWrite_keeps; exact h_s
  case secGrantData => apply grantDataWrite_keeps; exact h_s
  case secGrantCmd => apply grantCmdWrite_keeps; exact h_s
  case secAttCtl => apply attCtlWrite_keeps; exact h_s
  case dltKeyreq => apply dltKeyreqWriteOp_keeps; exact h_s
  case talSet => apply talSetWriteOp_keeps; exact h_s
  case talRehome => apply talRehomeWriteOp_keeps; exact h_s
  case talEpochEnd => apply talEpochEndWriteOp_keeps; exact h_s
  all_goals exact writePlain_keeps s _ _ h_s
theorem writeAt_keeps {s0 : State} (s : State) (o : Origin) (a : Nat) (v : Word) (h_s : Keeps s0 s) : KeepsP s0 (writeAt s o a v) := by
  unfold writeAt
  repeat' (first | with_reducible assumption | with_reducible apply writeServed_keeps | with_reducible apply keeps_ite | with_reducible apply keepsP_ite | with_reducible apply keepsQ_ite | split | with_reducible apply keepsP_mk)
theorem afterLc_keeps {s0 : State} (before : State) (s : State) (h_before : Keeps s0 before) (h_s : Keeps s0 s) : Keeps s0 (afterLc before s) := by
  unfold afterLc
  repeat' (first | with_reducible assumption | with_reducible apply lcFinish_keeps | with_reducible apply keeps_ite)
theorem execRegisterWritePlain_keeps {s0 : State} (o : Origin) (addr : Nat) (v : Word) (s : State) (h_s : Keeps s0 s) : KeepsOut s0 (execRegisterWritePlain o addr v s) := by
  unfold execRegisterWritePlain
  repeat' (first | with_reducible assumption | with_reducible intro _ | fail_if_no_progress beta_reduce | with_reducible apply done_keeps | with_reducible apply regWriteRow_keeps | with_reducible apply writeAt_keeps | with_reducible apply afterLc_keeps)
theorem svcStatus_keeps {s0 : State} (a1 : State) (a2 : Caller) (a3 : List Byte) (h_a1 : Keeps s0 a1) : Keeps s0 (svcStatus a1 a2 a3) := by
  unfold svcStatus
  repeat' (first | with_reducible assumption | with_reducible intro _ | fail_if_no_progress beta_reduce | (extract_lets +onlyGivenNames zz; first | (refine (fun (hx : Keeps s0 zz) => ?_) ?_ <;> [(clear_value zz; revert zz; intro _ _); subst zz]) | (refine (fun (hx : KeepsP s0 zz) => ?_) ?_ <;> [(clear_value zz; revert zz; intro _ _); subst zz]) | (refine (fun (hx : KeepsQ s0 zz) => ?_) ?_ <;> [(clear_value zz; revert zz; intro _ _); subst zz]) | (refine (fun (hx : KeepsO s0 zz) => ?_) ?_ <;> [(clear_value zz; revert zz; intro _ _); subst zz]) | (refine (fun (hx : KeepsE s0 zz) => ?_) ?_ <;> [(clear_value zz; revert zz; intro _ _); subst zz]) | (refine (fun (hx : Keeps s0 (Issue.s zz)) => ?_) ?_ <;> [(clear_value zz; revert zz; intro _ _); subst zz]) | (refine (fun (hx : Keeps s0 (StackRead.st zz)) => ?_) ?_ <;> [(clear_value zz; revert zz; intro _ _); subst zz]) | (refine (fun (hx : ∀ t, Keeps s0 t → Keeps s0 (zz t)) => ?_) ?_ <;> [(clear_value zz; revert zz; intro _ hloc); (subst zz; intro t ht; beta_reduce)]) | (refine (fun (hx : ∀ t u, Keeps s0 t → Keeps s0 (zz t u)) => ?_) ?_ <;> [(clear_value zz; revert zz; intro _ hloc); (subst zz; intro t u ht; beta_reduce)]) | (refine (fun (hx : ∀ t, Keeps s0 (zz t)) => ?_) ?_ <;> [(clear_value zz; revert zz; intro _ hloc); (subst zz; intro t; beta_reduce)]) | (refine (fun (hx : ∀ t u, Keeps s0 (zz t u)) => ?_) ?_ <;> [(clear_value zz; revert zz; intro _ hloc); (subst zz; intro t u; beta_reduce)]) | (refine (fun (hx : ∀ t u v, Keeps s0 t → Keeps s0 (zz t u v)) => ?_) ?_ <;> [(clear_value zz; revert zz; intro _ hloc); (subst zz; intro t u v ht; beta_reduce)]) | (refine (fun (hx : ∀ t u v w, Keeps s0 t → Keeps s0 (zz t u v w)) => ?_) ?_ <;> [(clear_value zz; revert zz; intro _ hloc); (subst zz; intro t u v w ht; beta_reduce)]) | (refine (fun (_ : Security) => ?_) zz; subst zz) | (clear_value zz; revert zz; intro _)) | with_reducible apply finishReq_keeps | with_reducible apply sized_keeps)
theorem readRun_keeps {s0 : State} (a1 : Nat) (a2 : State) (a3 : Nat) (h_a2 : Keeps s0 a2) : KeepsP s0 (readRun a1 a2 a3) := by
  induction a1 generalizing a2 a3 with
  | zero =>
    unfold readRun
    repeat' (first | with_reducible assumption | (extract_lets +onlyGivenNames zz; first | (refine (fun (hx : Keeps s0 zz) => ?_) ?_ <;> [(clear_value zz; revert zz; intro _ _); subst zz]) | (refine (fun (hx : KeepsP s0 zz) => ?_) ?_ <;> [(clear_value zz; revert zz; intro _ _); subst zz]) | (refine (fun (hx : KeepsQ s0 zz) => ?_) ?_ <;> [(clear_value zz; revert zz; intro _ _); subst zz]) | (refine (fun (hx : KeepsO s0 zz) => ?_) ?_ <;> [(clear_value zz; revert zz; intro _ _); subst zz]) | (refine (fun (hx : KeepsE s0 zz) => ?_) ?_ <;> [(clear_value zz; revert zz; intro _ _); subst zz]) | (refine (fun (hx : Keeps s0 (Issue.s zz)) => ?_) ?_ <;> [(clear_value zz; revert zz; intro _ _); subst zz]) | (refine (fun (hx : Keeps s0 (StackRead.st zz)) => ?_) ?_ <;> [(clear_value zz; revert zz; intro _ _); subst zz]) | (refine (fun (hx : Keeps s0 (DeltaView.st zz)) => ?_) ?_ <;> [(clear_value zz; revert zz; intro _ _); subst zz]) | (refine (fun (hx : ∀ t, Keeps s0 t → Keeps s0 (zz t)) => ?_) ?_ <;> [(clear_value zz; revert zz; intro _ hloc); (subst zz; intro t ht; beta_reduce)]) | (refine (fun (hx : ∀ t u, Keeps s0 t → Keeps s0 (zz t u)) => ?_) ?_ <;> [(clear_value zz; revert zz; intro _ hloc); (subst zz; intro t u ht; beta_reduce)]) | (refine (fun (hx : ∀ t, Keeps s0 (zz t)) => ?_) ?_ <;> [(clear_value zz; revert zz; intro _ hloc); (subst zz; intro t; beta_reduce)]) | (refine (fun (hx : ∀ t u, Keeps s0 (zz t u)) => ?_) ?_ <;> [(clear_value zz; revert zz; intro _ hloc); (subst zz; intro t u; beta_reduce)]) | (refine (fun (hx : ∀ t u v, Keeps s0 t → Keeps s0 (zz t u v)) => ?_) ?_ <;> [(clear_value zz; revert zz; intro _ hloc); (subst zz; intro t u v ht; beta_reduce)]) | (refine (fun (hx : ∀ t u v w, Keeps s0 t → Keeps s0 (zz t u v w)) => ?_) ?_ <;> [(clear_value zz; revert zz; intro _ hloc); (subst zz; intro t u v w ht; beta_reduce)]) | (refine (fun (_ : Security) => ?_) zz; subst zz) | (clear_value zz; revert zz; intro _)) | with_reducible apply readAt_keeps | with_reducible apply keeps_ite | with_reducible apply keepsP_ite | with_reducible apply keepsQ_ite | split | with_reducible apply keepsP_mk | with_reducible apply keepsQ_mk | with_reducible apply keeps_fst (by assumption) | with_reducible apply keeps_snd (by assumption) | with_reducible apply keeps_some (by assumption) | with_reducible apply keeps_okE (by assumption) | with_reducible apply KeepsP_fst | with_reducible apply KeepsQ_snd | fail_if_no_progress with_reducible refine keeps_mk rfl rfl rfl rfl ?_)
  | succ n ih =>
    unfold readRun
    repeat' (first | with_reducible assumption | with_reducible apply ih | (extract_lets +onlyGivenNames zz; first | (refine (fun (hx : Keeps s0 zz) => ?_) ?_ <;> [(clear_value zz; revert zz; intro _ _); subst zz]) | (refine (fun (hx : KeepsP s0 zz) => ?_) ?_ <;> [(clear_value zz; revert zz; intro _ _); subst zz]) | (refine (fun (hx : KeepsQ s0 zz) => ?_) ?_ <;> [(clear_value zz; revert zz; intro _ _); subst zz]) | (refine (fun (hx : KeepsO s0 zz) => ?_) ?_ <;> [(clear_value zz; revert zz; intro _ _); subst zz]) | (refine (fun (hx : KeepsE s0 zz) => ?_) ?_ <;> [(clear_value zz; revert zz; intro _ _); subst zz]) | (refine (fun (hx : Keeps s0 (Issue.s zz)) => ?_) ?_ <;> [(clear_value zz; revert zz; intro _ _); subst zz]) | (refine (fun (hx : Keeps s0 (StackRead.st zz)) => ?_) ?_ <;> [(clear_value zz; revert zz; intro _ _); subst zz]) | (refine (fun (hx : Keeps s0 (DeltaView.st zz)) => ?_) ?_ <;> [(clear_value zz; revert zz; intro _ _); subst zz]) | (refine (fun (hx : ∀ t, Keeps s0 t → Keeps s0 (zz t)) => ?_) ?_ <;> [(clear_value zz; revert zz; intro _ hloc); (subst zz; intro t ht; beta_reduce)]) | (refine (fun (hx : ∀ t u, Keeps s0 t → Keeps s0 (zz t u)) => ?_) ?_ <;> [(clear_value zz; revert zz; intro _ hloc); (subst zz; intro t u ht; beta_reduce)]) | (refine (fun (hx : ∀ t, Keeps s0 (zz t)) => ?_) ?_ <;> [(clear_value zz; revert zz; intro _ hloc); (subst zz; intro t; beta_reduce)]) | (refine (fun (hx : ∀ t u, Keeps s0 (zz t u)) => ?_) ?_ <;> [(clear_value zz; revert zz; intro _ hloc); (subst zz; intro t u; beta_reduce)]) | (refine (fun (hx : ∀ t u v, Keeps s0 t → Keeps s0 (zz t u v)) => ?_) ?_ <;> [(clear_value zz; revert zz; intro _ hloc); (subst zz; intro t u v ht; beta_reduce)]) | (refine (fun (hx : ∀ t u v w, Keeps s0 t → Keeps s0 (zz t u v w)) => ?_) ?_ <;> [(clear_value zz; revert zz; intro _ hloc); (subst zz; intro t u v w ht; beta_reduce)]) | (refine (fun (_ : Security) => ?_) zz; subst zz) | (clear_value zz; revert zz; intro _)) | with_reducible apply readAt_keeps | with_reducible apply keeps_ite | with_reducible apply keepsP_ite | with_reducible apply keepsQ_ite | split | with_reducible apply keepsP_mk | with_reducible apply keepsQ_mk | with_reducible apply keeps_fst (by assumption) | with_reducible apply keeps_snd (by assumption) | with_reducible apply keeps_some (by assumption) | with_reducible apply keeps_okE (by assumption) | with_reducible apply KeepsP_fst | with_reducible apply KeepsQ_snd | fail_if_no_progress with_reducible refine keeps_mk rfl rfl rfl rfl ?_)
theorem svcRegRead_keeps {s0 : State} (a1 : State) (a2 : Caller) (a3 : List Byte) (h_a1 : Keeps s0 a1) : Keeps s0 (svcRegRead a1 a2 a3) := by
  unfold svcRegRead
  repeat' (first | with_reducible assumption | with_reducible intro _ | fail_if_no_progress beta_reduce | (extract_lets +onlyGivenNames zz; first | (refine (fun (hx : KeepsP s0 zz) => ?_) ?_ <;> [(clear_value zz; revert zz; intro _ _); subst zz]) | (clear_value zz; revert zz; intro _)) | with_reducible apply finishReq_keeps | with_reducible apply malformed_keeps | with_reducible apply sized_keeps | with_reducible apply readRun_keeps | with_reducible apply keeps_ite | with_reducible apply keepsP_ite | with_reducible apply keepsQ_ite | split | with_reducible apply keepsP_mk | with_reducible apply keepsQ_mk | with_reducible apply keeps_fst (by assumption) | with_reducible apply keeps_snd (by assumption) | with_reducible apply keeps_some (by assumption) | with_reducible apply keeps_okE (by assumption) | with_reducible apply KeepsP_fst)
theorem svcRegWrite_keeps {s0 : State} (a1 : State) (a2 : Caller) (a3 : List Byte) (h_a1 : Keeps s0 a1) : Keeps s0 (svcRegWrite a1 a2 a3) := by
  unfold svcRegWrite
  repeat' (first | with_reducible assumption | with_reducible intro _ | fail_if_no_progress beta_reduce | (extract_lets +onlyGivenNames zz; first | (refine (fun (hx : KeepsP s0 zz) => ?_) ?_ <;> [(clear_value zz; revert zz; intro _ _); subst zz])) | with_reducible apply finishReq_keeps | with_reducible apply sized_keeps | with_reducible apply writeAt_keeps | with_reducible apply afterLc_keeps | with_reducible apply keeps_ite | with_reducible apply keepsP_ite | with_reducible apply keepsQ_ite | split | with_reducible apply keepsP_mk | with_reducible apply keepsQ_mk | with_reducible apply keeps_fst (by assumption) | with_reducible apply keeps_snd (by assumption) | with_reducible apply keeps_some (by assumption) | with_reducible apply keeps_okE (by assumption) | with_reducible apply KeepsP_fst)
theorem svcReset_keeps {s0 : State} (a1 : State) (a2 : Caller) (a3 : List Byte) (h_a1 : Keeps s0 a1) : Keeps s0 (svcReset a1 a2 a3) := by
  unfold svcReset
  repeat' (first | with_reducible assumption | with_reducible intro _ | fail_if_no_progress beta_reduce | with_reducible apply finishReq_keeps | with_reducible apply malformed_keeps | with_reducible apply sized_keeps | with_reducible apply warmReset_keeps | with_reducible apply keeps_ite)

end Sys2Proof.Machine
end

