-- ==== Sys2Proof/Laws/KeepsCtrRows.lean ====
section
/-!
SUPPORT. What the operations of Machine/CtrRows keep (see Laws/Keeps).
-/
namespace Sys2Proof.Machine
open Sys2Proof

theorem ctrServe_keeps {s0 : State} (code : Nat) (a1 : State) (a2 : Caller) (a3 : List Byte) (h_a1 : Keeps s0 a1) : Keeps s0 (ctrServe code a1 a2 a3) := by
  unfold ctrServe
  repeat' (first | with_reducible assumption | with_reducible apply answerOnly_keeps | with_reducible apply svcSessionAuth_keeps | with_reducible apply svcSessionClose_keeps | with_reducible apply svcBundleStage_keeps | with_reducible apply svcMapRead_keeps | with_reducible apply svcDlqRead_keeps | with_reducible apply svcDlqRelease_keeps | with_reducible apply svcDeltaRead_keeps | with_reducible apply svcHostQp_keeps | with_reducible apply svcBundleLoad_keeps | with_reducible apply svcFitProbe_keeps | with_reducible apply svcStart_keeps | with_reducible apply svcHold_keeps | with_reducible apply svcEvict_keeps | with_reducible apply svcUnload_keeps | with_reducible apply svcCellRetire_keeps | with_reducible apply svcCellRestore_keeps | with_reducible apply svcMemRead_keeps | with_reducible apply svcMemWrite_keeps | with_reducible apply svcCalSave_keeps | with_reducible apply svcCalRestore_keeps | with_reducible apply svcStatus_keeps | with_reducible apply svcRegRead_keeps | with_reducible apply svcRegWrite_keeps | with_reducible apply svcReset_keeps | with_reducible apply keeps_ite | with_reducible apply keepsP_ite | with_reducible apply keepsQ_ite | split)
theorem serveBacklogs_keeps {s0 : State} (a1 : Nat) (a2 : State) (h_a2 : Keeps s0 a2) : Keeps s0 (serveBacklogs a1 a2) := by
  induction a1 generalizing a2 with
  | zero =>
    unfold serveBacklogs
    repeat' (first | with_reducible assumption | with_reducible intro _ | fail_if_no_progress beta_reduce | (extract_lets +onlyGivenNames zz; first | (refine (fun (hx : Keeps s0 zz) => ?_) ?_ <;> [(clear_value zz; revert zz; intro _ _); subst zz]) | (refine (fun (hx : KeepsP s0 zz) => ?_) ?_ <;> [(clear_value zz; revert zz; intro _ _); subst zz]) | (refine (fun (hx : KeepsQ s0 zz) => ?_) ?_ <;> [(clear_value zz; revert zz; intro _ _); subst zz]) | (refine (fun (hx : KeepsO s0 zz) => ?_) ?_ <;> [(clear_value zz; revert zz; intro _ _); subst zz]) | (refine (fun (hx : KeepsE s0 zz) => ?_) ?_ <;> [(clear_value zz; revert zz; intro _ _); subst zz]) | (refine (fun (hx : Keeps s0 (Issue.s zz)) => ?_) ?_ <;> [(clear_value zz; revert zz; intro _ _); subst zz]) | (refine (fun (hx : Keeps s0 (StackRead.st zz)) => ?_) ?_ <;> [(clear_value zz; revert zz; intro _ _); subst zz]) | (refine (fun (hx : Keeps s0 (DeltaView.st zz)) => ?_) ?_ <;> [(clear_value zz; revert zz; intro _ _); subst zz]) | (refine (fun (hx : ∀ t, Keeps s0 t → Keeps s0 (zz t)) => ?_) ?_ <;> [(clear_value zz; revert zz; intro _ hloc); (subst zz; intro t ht; beta_reduce)]) | (refine (fun (hx : ∀ t u, Keeps s0 t → Keeps s0 (zz t u)) => ?_) ?_ <;> [(clear_value zz; revert zz; intro _ hloc); (subst zz; intro t u ht; beta_reduce)]) | (refine (fun (hx : ∀ t, Keeps s0 (zz t)) => ?_) ?_ <;> [(clear_value zz; revert zz; intro _ hloc); (subst zz; intro t; beta_reduce)]) | (refine (fun (hx : ∀ t u, Keeps s0 (zz t u)) => ?_) ?_ <;> [(clear_value zz; revert zz; intro _ hloc); (subst zz; intro t u; beta_reduce)]) | (refine (fun (hx : ∀ t u v, Keeps s0 t → Keeps s0 (zz t u v)) => ?_) ?_ <;> [(clear_value zz; revert zz; intro _ hloc); (subst zz; intro t u v ht; beta_reduce)]) | (refine (fun (hx : ∀ t u v w, Keeps s0 t → Keeps s0 (zz t u v w)) => ?_) ?_ <;> [(clear_value zz; revert zz; intro _ hloc); (subst zz; intro t u v w ht; beta_reduce)]) | (refine (fun (_ : Security) => ?_) zz; subst zz) | (clear_value zz; revert zz; intro _)) | with_reducible apply modSession_keeps | with_reducible apply runReq_keeps | with_reducible apply ctrServe_keeps | with_reducible apply keeps_ite | with_reducible apply keepsP_ite | with_reducible apply keepsQ_ite | split | with_reducible apply keepsP_mk | with_reducible apply keepsQ_mk | with_reducible apply keeps_fst (by assumption) | with_reducible apply keeps_snd (by assumption) | with_reducible apply keeps_some (by assumption) | with_reducible apply keeps_okE (by assumption) | with_reducible apply KeepsP_fst | with_reducible apply KeepsQ_snd | fail_if_no_progress with_reducible refine keeps_mk rfl rfl rfl rfl ?_)
  | succ n ih =>
    unfold serveBacklogs
    repeat' (first | with_reducible assumption | with_reducible apply ih | with_reducible intro _ | fail_if_no_progress beta_reduce | (extract_lets +onlyGivenNames zz; first | (refine (fun (hx : Keeps s0 zz) => ?_) ?_ <;> [(clear_value zz; revert zz; intro _ _); subst zz]) | (refine (fun (hx : KeepsP s0 zz) => ?_) ?_ <;> [(clear_value zz; revert zz; intro _ _); subst zz]) | (refine (fun (hx : KeepsQ s0 zz) => ?_) ?_ <;> [(clear_value zz; revert zz; intro _ _); subst zz]) | (refine (fun (hx : KeepsO s0 zz) => ?_) ?_ <;> [(clear_value zz; revert zz; intro _ _); subst zz]) | (refine (fun (hx : KeepsE s0 zz) => ?_) ?_ <;> [(clear_value zz; revert zz; intro _ _); subst zz]) | (refine (fun (hx : Keeps s0 (Issue.s zz)) => ?_) ?_ <;> [(clear_value zz; revert zz; intro _ _); subst zz]) | (refine (fun (hx : Keeps s0 (StackRead.st zz)) => ?_) ?_ <;> [(clear_value zz; revert zz; intro _ _); subst zz]) | (refine (fun (hx : Keeps s0 (DeltaView.st zz)) => ?_) ?_ <;> [(clear_value zz; revert zz; intro _ _); subst zz]) | (refine (fun (hx : ∀ t, Keeps s0 t → Keeps s0 (zz t)) => ?_) ?_ <;> [(clear_value zz; revert zz; intro _ hloc); (subst zz; intro t ht; beta_reduce)]) | (refine (fun (hx : ∀ t u, Keeps s0 t → Keeps s0 (zz t u)) => ?_) ?_ <;> [(clear_value zz; revert zz; intro _ hloc); (subst zz; intro t u ht; beta_reduce)]) | (refine (fun (hx : ∀ t, Keeps s0 (zz t)) => ?_) ?_ <;> [(clear_value zz; revert zz; intro _ hloc); (subst zz; intro t; beta_reduce)]) | (refine (fun (hx : ∀ t u, Keeps s0 (zz t u)) => ?_) ?_ <;> [(clear_value zz; revert zz; intro _ hloc); (subst zz; intro t u; beta_reduce)]) | (refine (fun (hx : ∀ t u v, Keeps s0 t → Keeps s0 (zz t u v)) => ?_) ?_ <;> [(clear_value zz; revert zz; intro _ hloc); (subst zz; intro t u v ht; beta_reduce)]) | (refine (fun (hx : ∀ t u v w, Keeps s0 t → Keeps s0 (zz t u v w)) => ?_) ?_ <;> [(clear_value zz; revert zz; intro _ hloc); (subst zz; intro t u v w ht; beta_reduce)]) | (refine (fun (_ : Security) => ?_) zz; subst zz) | (clear_value zz; revert zz; intro _)) | with_reducible apply modSession_keeps | with_reducible apply runReq_keeps | with_reducible apply ctrServe_keeps | with_reducible apply keeps_ite | with_reducible apply keepsP_ite | with_reducible apply keepsQ_ite | split | with_reducible apply keepsP_mk | with_reducible apply keepsQ_mk | with_reducible apply keeps_fst (by assumption) | with_reducible apply keeps_snd (by assumption) | with_reducible apply keeps_some (by assumption) | with_reducible apply keeps_okE (by assumption) | with_reducible apply KeepsP_fst | with_reducible apply KeepsQ_snd | fail_if_no_progress with_reducible refine keeps_mk rfl rfl rfl rfl ?_)
theorem settleCtr_keeps {s0 : State} (s : State) (h_s : Keeps s0 s) : Keeps s0 (settleCtr s) := by
  unfold settleCtr
  repeat' (first | with_reducible assumption | with_reducible apply serveBacklogs_keeps)
theorem execSessionOpen_keeps {s0 : State} (h : CtrHdr) (s : State) (h_s : Keeps s0 s) : KeepsOut s0 (execSessionOpen h s) := by
  unfold execSessionOpen
  repeat' (first | with_reducible assumption | with_reducible intro _ | fail_if_no_progress beta_reduce | with_reducible apply done_keeps | with_reducible apply counterRow_keeps | with_reducible apply svcSessionOpen_keeps | with_reducible apply settleCtr_keeps)
theorem execSessionAuth_keeps {s0 : State} (h : CtrHdr) (s : State) (h_s : Keeps s0 s) : KeepsOut s0 (execSessionAuth h s) := by
  unfold execSessionAuth
  repeat' (first | with_reducible assumption | with_reducible intro _ | fail_if_no_progress beta_reduce | with_reducible apply done_keeps | with_reducible apply counterRow_keeps | with_reducible apply svcSessionAuth_keeps | with_reducible apply settleCtr_keeps)
theorem execSessionClose_keeps {s0 : State} (h : CtrHdr) (s : State) (h_s : Keeps s0 s) : KeepsOut s0 (execSessionClose h s) := by
  unfold execSessionClose
  repeat' (first | with_reducible assumption | with_reducible intro _ | fail_if_no_progress beta_reduce | with_reducible apply done_keeps | with_reducible apply counterRow_keeps | with_reducible apply svcSessionClose_keeps | with_reducible apply settleCtr_keeps)
theorem execStatus_keeps {s0 : State} (h : CtrHdr) (s : State) (h_s : Keeps s0 s) : KeepsOut s0 (execStatus h s) := by
  unfold execStatus
  repeat' (first | with_reducible assumption | with_reducible intro _ | fail_if_no_progress beta_reduce | with_reducible apply done_keeps | with_reducible apply counterRow_keeps | with_reducible apply svcStatus_keeps | with_reducible apply settleCtr_keeps)
theorem execRegRead_keeps {s0 : State} (h : CtrHdr) (s : State) (h_s : Keeps s0 s) : KeepsOut s0 (execRegRead h s) := by
  unfold execRegRead
  repeat' (first | with_reducible assumption | with_reducible intro _ | fail_if_no_progress beta_reduce | with_reducible apply done_keeps | with_reducible apply counterRow_keeps | with_reducible apply svcRegRead_keeps | with_reducible apply settleCtr_keeps)
theorem execRegWrite_keeps {s0 : State} (h : CtrHdr) (s : State) (h_s : Keeps s0 s) : KeepsOut s0 (execRegWrite h s) := by
  unfold execRegWrite
  repeat' (first | with_reducible assumption | with_reducible intro _ | fail_if_no_progress beta_reduce | with_reducible apply done_keeps | with_reducible apply counterRow_keeps | with_reducible apply svcRegWrite_keeps | with_reducible apply settleCtr_keeps)
theorem execBundleStage_keeps {s0 : State} (h : CtrHdr) (s : State) (h_s : Keeps s0 s) : KeepsOut s0 (execBundleStage h s) := by
  unfold execBundleStage
  repeat' (first | with_reducible assumption | with_reducible intro _ | fail_if_no_progress beta_reduce | with_reducible apply done_keeps | with_reducible apply counterRow_keeps | with_reducible apply svcBundleStage_keeps | with_reducible apply settleCtr_keeps)
theorem execBundleLoad_keeps {s0 : State} (h : CtrHdr) (s : State) (h_s : Keeps s0 s) : KeepsOut s0 (execBundleLoad h s) := by
  unfold execBundleLoad
  repeat' (first | with_reducible assumption | with_reducible intro _ | fail_if_no_progress beta_reduce | with_reducible apply done_keeps | with_reducible apply counterRow_keeps | with_reducible apply svcBundleLoad_keeps | with_reducible apply settleCtr_keeps)
theorem execFitProbe_keeps {s0 : State} (h : CtrHdr) (s : State) (h_s : Keeps s0 s) : KeepsOut s0 (execFitProbe h s) := by
  unfold execFitProbe
  repeat' (first | with_reducible assumption | with_reducible intro _ | fail_if_no_progress beta_reduce | with_reducible apply done_keeps | with_reducible apply counterRow_keeps | with_reducible apply svcFitProbe_keeps | with_reducible apply settleCtr_keeps)
theorem execStart_keeps {s0 : State} (h : CtrHdr) (s : State) (h_s : Keeps s0 s) : KeepsOut s0 (execStart h s) := by
  unfold execStart
  repeat' (first | with_reducible assumption | with_reducible intro _ | fail_if_no_progress beta_reduce | with_reducible apply done_keeps | with_reducible apply counterRow_keeps | with_reducible apply svcStart_keeps | with_reducible apply settleCtr_keeps)
theorem execHold_keeps {s0 : State} (h : CtrHdr) (s : State) (h_s : Keeps s0 s) : KeepsOut s0 (execHold h s) := by
  unfold execHold
  repeat' (first | with_reducible assumption | with_reducible intro _ | fail_if_no_progress beta_reduce | with_reducible apply done_keeps | with_reducible apply counterRow_keeps | with_reducible apply svcHold_keeps | with_reducible apply settleCtr_keeps)
theorem execEvict_keeps {s0 : State} (h : CtrHdr) (s : State) (h_s : Keeps s0 s) : KeepsOut s0 (execEvict h s) := by
  unfold execEvict
  repeat' (first | with_reducible assumption | with_reducible intro _ | fail_if_no_progress beta_reduce | with_reducible apply done_keeps | with_reducible apply counterRow_keeps | with_reducible apply svcEvict_keeps | with_reducible apply settleCtr_keeps)
theorem execUnload_keeps {s0 : State} (h : CtrHdr) (s : State) (h_s : Keeps s0 s) : KeepsOut s0 (execUnload h s) := by
  unfold execUnload
  repeat' (first | with_reducible assumption | with_reducible intro _ | fail_if_no_progress beta_reduce | with_reducible apply done_keeps | with_reducible apply counterRow_keeps | with_reducible apply svcUnload_keeps | with_reducible apply settleCtr_keeps)
theorem execMapRead_keeps {s0 : State} (h : CtrHdr) (s : State) (h_s : Keeps s0 s) : KeepsOut s0 (execMapRead h s) := by
  unfold execMapRead
  repeat' (first | with_reducible assumption | with_reducible intro _ | fail_if_no_progress beta_reduce | with_reducible apply done_keeps | with_reducible apply counterRow_keeps | with_reducible apply svcMapRead_keeps | with_reducible apply settleCtr_keeps)
theorem execDlqRead_keeps {s0 : State} (h : CtrHdr) (s : State) (h_s : Keeps s0 s) : KeepsOut s0 (execDlqRead h s) := by
  unfold execDlqRead
  repeat' (first | with_reducible assumption | with_reducible intro _ | fail_if_no_progress beta_reduce | with_reducible apply done_keeps | with_reducible apply counterRow_keeps | with_reducible apply svcDlqRead_keeps | with_reducible apply settleCtr_keeps)
theorem execDlqRelease_keeps {s0 : State} (h : CtrHdr) (s : State) (h_s : Keeps s0 s) : KeepsOut s0 (execDlqRelease h s) := by
  unfold execDlqRelease
  repeat' (first | with_reducible assumption | with_reducible intro _ | fail_if_no_progress beta_reduce | with_reducible apply done_keeps | with_reducible apply counterRow_keeps | with_reducible apply svcDlqRelease_keeps | with_reducible apply settleCtr_keeps)
theorem execDeltaRead_keeps {s0 : State} (h : CtrHdr) (s : State) (h_s : Keeps s0 s) : KeepsOut s0 (execDeltaRead h s) := by
  unfold execDeltaRead
  repeat' (first | with_reducible assumption | with_reducible intro _ | fail_if_no_progress beta_reduce | with_reducible apply done_keeps | with_reducible apply counterRow_keeps | with_reducible apply svcDeltaRead_keeps | with_reducible apply settleCtr_keeps)
theorem execMemRead_keeps {s0 : State} (h : CtrHdr) (s : State) (h_s : Keeps s0 s) : KeepsOut s0 (execMemRead h s) := by
  unfold execMemRead
  repeat' (first | with_reducible assumption | with_reducible intro _ | fail_if_no_progress beta_reduce | with_reducible apply done_keeps | with_reducible apply counterRow_keeps | with_reducible apply svcMemRead_keeps | with_reducible apply settleCtr_keeps)
theorem execMemWrite_keeps {s0 : State} (h : CtrHdr) (s : State) (h_s : Keeps s0 s) : KeepsOut s0 (execMemWrite h s) := by
  unfold execMemWrite
  repeat' (first | with_reducible assumption | with_reducible intro _ | fail_if_no_progress beta_reduce | with_reducible apply done_keeps | with_reducible apply counterRow_keeps | with_reducible apply svcMemWrite_keeps | with_reducible apply settleCtr_keeps)
theorem execCalSave_keeps {s0 : State} (h : CtrHdr) (s : State) (h_s : Keeps s0 s) : KeepsOut s0 (execCalSave h s) := by
  unfold execCalSave
  repeat' (first | with_reducible assumption | with_reducible intro _ | fail_if_no_progress beta_reduce | with_reducible apply done_keeps | with_reducible apply counterRow_keeps | with_reducible apply svcCalSave_keeps | with_reducible apply settleCtr_keeps)
theorem execCalRestore_keeps {s0 : State} (h : CtrHdr) (s : State) (h_s : Keeps s0 s) : KeepsOut s0 (execCalRestore h s) := by
  unfold execCalRestore
  repeat' (first | with_reducible assumption | with_reducible intro _ | fail_if_no_progress beta_reduce | with_reducible apply done_keeps | with_reducible apply counterRow_keeps | with_reducible apply svcCalRestore_keeps | with_reducible apply settleCtr_keeps)
theorem execCellRetire_keeps {s0 : State} (h : CtrHdr) (s : State) (h_s : Keeps s0 s) : KeepsOut s0 (execCellRetire h s) := by
  unfold execCellRetire
  repeat' (first | with_reducible assumption | with_reducible intro _ | fail_if_no_progress beta_reduce | with_reducible apply done_keeps | with_reducible apply counterRow_keeps | with_reducible apply svcCellRetire_keeps | with_reducible apply settleCtr_keeps)
theorem execCellRestore_keeps {s0 : State} (h : CtrHdr) (s : State) (h_s : Keeps s0 s) : KeepsOut s0 (execCellRestore h s) := by
  unfold execCellRestore
  repeat' (first | with_reducible assumption | with_reducible intro _ | fail_if_no_progress beta_reduce | with_reducible apply done_keeps | with_reducible apply counterRow_keeps | with_reducible apply svcCellRestore_keeps | with_reducible apply settleCtr_keeps)
theorem execHostQp_keeps {s0 : State} (h : CtrHdr) (s : State) (h_s : Keeps s0 s) : KeepsOut s0 (execHostQp h s) := by
  unfold execHostQp
  repeat' (first | with_reducible assumption | with_reducible intro _ | fail_if_no_progress beta_reduce | with_reducible apply done_keeps | with_reducible apply counterRow_keeps | with_reducible apply svcHostQp_keeps | with_reducible apply settleCtr_keeps)
theorem execReset_keeps {s0 : State} (h : CtrHdr) (s : State) (h_s : Keeps s0 s) : KeepsOut s0 (execReset h s) := by
  unfold execReset
  repeat' (first | with_reducible assumption | with_reducible intro _ | fail_if_no_progress beta_reduce | with_reducible apply done_keeps | with_reducible apply counterRow_keeps | with_reducible apply svcReset_keeps | with_reducible apply settleCtr_keeps)
theorem execCounterCommandUnknown_keeps {s0 : State} (h : CtrHdr) (code : Nat) (s : State) (h_s : Keeps s0 s) : KeepsOut s0 (execCounterCommandUnknown h code s) := by
  unfold execCounterCommandUnknown
  repeat' (first | with_reducible assumption | with_reducible intro _ | fail_if_no_progress beta_reduce | with_reducible apply done_keeps | with_reducible apply counterRow_keeps | with_reducible apply ctrServe_keeps | with_reducible apply settleCtr_keeps | with_reducible apply keeps_ite)
theorem execPlanCircuitsLit_keeps {s0 : State} (slot : Nat) (s : State) (h_s : Keeps s0 s) : KeepsOut s0 (execPlanCircuitsLit slot s) := by
  unfold execPlanCircuitsLit
  repeat' (first | with_reducible assumption | with_reducible apply done_keeps | with_reducible apply planCircuitsLit_keeps | with_reducible apply settleCtr_keeps | with_reducible apply keeps_ite)
theorem execPlanWaitExpiry_keeps {s0 : State} (slot : Nat) (s : State) (h_s : Keeps s0 s) : KeepsOut s0 (execPlanWaitExpiry slot s) := by
  unfold execPlanWaitExpiry
  repeat' (first | with_reducible assumption | with_reducible apply done_keeps | with_reducible apply planWaitExpiry_keeps | with_reducible apply settleCtr_keeps | with_reducible apply keeps_ite)
theorem execPreloadStorageComplete_keeps {s0 : State} (slot : Nat) (images : List (List Byte × Bool)) (s : State) (h_s : Keeps s0 s) : KeepsOut s0 (execPreloadStorageComplete slot images s) := by
  unfold execPreloadStorageComplete
  repeat' (first | with_reducible assumption | with_reducible apply done_keeps | with_reducible apply preloadComplete_keeps | with_reducible apply settleCtr_keeps | with_reducible apply keeps_ite)
theorem execEvictDrained_keeps {s0 : State} (slot : Nat) (s : State) (h_s : Keeps s0 s) : KeepsOut s0 (execEvictDrained slot s) := by
  unfold execEvictDrained
  repeat' (first | with_reducible assumption | with_reducible apply done_keeps | with_reducible apply evictDrained_keeps | with_reducible apply settleCtr_keeps | with_reducible apply keeps_ite)
theorem execEvictDrainTimeout_keeps {s0 : State} (slot : Nat) (s : State) (h_s : Keeps s0 s) : KeepsOut s0 (execEvictDrainTimeout slot s) := by
  unfold execEvictDrainTimeout
  repeat' (first | with_reducible assumption | with_reducible apply done_keeps | with_reducible apply evictDrainTimeout_keeps | with_reducible apply settleCtr_keeps | with_reducible apply keeps_ite)

end Sys2Proof.Machine
end

