-- ==== Sys2Proof/Tests/Slice0.lean ====
section
/-!
SUPPORT. Tests of the model: ill-formed commands that the checks refuse, and for each statement of Certificates/Slice0/Obligations.lean
concrete states and commands that meet its hypotheses.
-/
namespace Sys2Proof.Tests
open Sys2Proof Sys2Proof.Machine
set_option Elab.async false
set_option synthInstance.maxSize 1024
set_option synthInstance.maxHeartbeats 200000

/-! ### A small module: one bundle with two stations on cells 0 and 1 -/

/-- A word of format R: opcode, RD, RA, RB and FN (R149). -/
def wordR (opc rd ra rb fn : Nat) : Word := BitVec.ofNat 32 (opc * 2 ^ 25 + rd * 2 ^ 16 + ra * 2 ^ 11 + rb * 2 ^ 6 + fn)
/-- A word of format I: opcode, RD, RA and IMM. -/
def wordI (opc rd ra imm : Nat) : Word := BitVec.ofNat 32 (opc * 2 ^ 25 + rd * 2 ^ 16 + ra * 2 ^ 11 + imm)
/-- A word of format B, and of format M with RD in bits 20 to 16. -/
def wordB (opc off : Nat) : Word := BitVec.ofNat 32 (opc * 2 ^ 25 + off)

def recS (spec : Nat) : StationRec :=
  { name := [0x61#8], codeOff := 0, codeLen := 2, entry := 0, scratch := 16384, group := 0, spec := spec, seed := 1#64 }
/-- Stream 0 goes from station 0 to station 1, stream 1 from station 1 to station 0, stream 2 from the host to station 0, stream 3 from
station 0 to the host, stream 4 from another module to station 0, stream 5 from station 0 to a servo block. -/
def recStream (id kind producer consumer : Nat) : StreamRec :=
  { id := id, kind := kind, format := 0x05, producer := producer, remote := 0, remoteValid := 0, vc := 0, stall := 5
    cons := [⟨consumer, 4, 5⟩], paramOff := 0, param := List.replicate 16 0#8, peers := [] }
def img (spec : Nat) : BundleImg :=
  { bytes := [], buildId := 7, stations := [recS spec, recS 0]
    streams := [recStream 10 0 0 1, recStream 11 0 1 0, recStream 12 4 0xFFFF 0, recStream 13 4 0 0xFFFF]
    regions := [⟨0, 0xFFFF, false, 4, 0⟩, ⟨0, 0xFFFF, true, 4, 0⟩]
    tallies := [⟨20, 1, 0, 10, 0, 0xFFFFFFFF⟩, ⟨21, 0xFFFF, 9, 10, 0, 4⟩]
    code := [], consts := [], plan := none
    limits := { framePeriod := 0, slack := 0, powerShare := 300, priority := 0, evictable := true, frameStart := 0, drainBound := 0, completion := 0xFFFF }
    spill := [0, 8] }
/-- A station that runs the word `w` at PC 0, with g1 = 5, g2 = −3, g3 = 64, g4 = 0x100000000, p1 = 1, t1 the slot at 0 and t2 the slot
at 4,256 of its scratch, whose bytes 0 to 3 hold 0x44332211. -/
def stn (cell : Nat) (w : Word) : Station :=
  { cell := some cell, run := .running, waiting := .no, waitInsn := 0, waitSince := 0, blockedSince := none, drainReq := false
    g := [(1, 5#64), (2, -3#64), (3, 64#64), (4, 0x100000000#64)], p := 2#8, t := [(1, ⟨0, none⟩), (2, ⟨4256, none⟩)], pc := 0, acc := Acc.clear
    endCtl := [], endChk := [], gen := Gen.seed 1#64, scratch := ⟨[(0, 0x11#8), (1, 0x22#8), (2, 0x33#8), (3, 0x44#8)], []⟩, code := [w, 0x02000000#32, 0#32], order := 0
    stackOps := [], blockOps := [], tallyOps := [], ckpts := [], ckptNext := 0, heldWrites := [], relocations := 0, relocating := false
    relocReported := false, stallReported := false, save := none, saved := none, deferred := [] }
def noDelta : DeltaEnd :=
  { opened := false, frame := 0, lastClosed := none, posted := [], key := false, acc := 0, local_ := 0, sinceKey := 0, sent := 0
    suppressed := 0, keyPending := false, incomplete := false, last := [] }
def noColl : Coll :=
  { active := false, frame := 0, posted := [], postSeq := 0, staged := 0, started := false, step := 0, acked := false, sends := 0, option := 0, link := 0
    applied := [], past := [], blocked := false }
def stm (queue : List QEntry) : Machine.Stream :=
  { nextSeq := 7#32, ends := [⟨queue, 7#32, [], false, 0, false⟩], flight := [], prov := [], delta := noDelta, coll := noColl, receives := 0, qp := some 3 }
def tal (home : Option Nat) : Tally :=
  { value := 3#32, multi := 0, overs := 0, under := 0, orphaned := false, takers := [], watchers := [], home := home, remoteHome := 9, markers := [] }
/-- The bundle, with its first station. -/
def bun (spec : Nat) (st : Station) : Bundle :=
  { reuse := 0, st := .running, img := img spec, opts := ⟨none, false, false, true⟩, stage := 0, loaded := 0, fits := true, placed := true
    everStarted := true, stations := [st, stn 1 0x02000000#32], streams := [stm [], stm [], stm [], stm []]
    regions := [⟨0, 0, 17024⟩, ⟨0, 32768, 17024⟩], spills := [], tallies := [tal (some 1), tal none], preload := 0, haltReported := false
    evictFrom := .running, victims := [], planShort := [], reply := none, frames := [], frameK := 0, frameS0 := 0, lastFrame := none
    slacks := [], sinceRaise := 0, baseMv := none, requests := [], raddReported := [] }
def hubUp : HubSt := { HubSt.reset with health := .active, link := true, ethDown := false, line := true, lease := true }
/-- A control session without a key. -/
def ses : Session :=
  { id := 1, control := true, events := false, authed := true, keyIndex := 0, admin := true, key := [], hash := [], lastSeq := 4#32, cached := none
    busy := false, backlog := [], eventNum := 0, eventSecond := 0, eventCount := 0 }
/-- A module that runs under hub A, with a bundle in slot 0. -/
def mod1 (b : Bundle) : State :=
  { State.reset with
    active := some .ha, ha := hubUp, hb := { HubSt.reset with health := .standbySync }, sessions := [ses]
    pl := { State.reset.pl with slots := [(0, b)], loads := 1 } }
/-- The station `st` under the bundle. -/
def s1 (st : Station) : State := mod1 (bun 0 st)
def x1 (st : Station) : Where := ⟨0, 0, bun 0 st, st, recS 0⟩
/-- What a command leaves. -/
def after (c : Instr) (s : State) : State := match exec c s with | .next t => t | _ => s

theorem onCell (b : Bundle) (st : Station) (rest : List Station) (sr : StationRec) (rs : List StationRec) (hs : b.stations = st :: rest)
    (hi : b.img.stations = sr :: rs) (h : st.cell = some 0) : OnCell (mod1 b) 0 ⟨0, 0, b, st, sr⟩ := by
  refine ⟨?_, rfl, by simp [hs], by simp [hi], h⟩
  simp [stationOn, mod1, withIdx, hs, hi, List.range_succ_eq_map, h]

/-- What `Issues` asks of a station and its word, as a test. -/
def issuesB (st : Station) (w : Word) : Bool :=
  decide (st.run = .running) && decide (st.waiting = .no) && decide (st.code[st.pc / 4]? = some w) && decide (st.cell = some 0) && validWord w &&
  !mustWait st w && !fallsThrough st w && guardTrue st w && decide (savedPages st + newPages st (pagesOf (fullFootprint st w).2) ≤ 64) &&
  decide (scanItems st.scratch (scanned st w) = ⟨st.scratch, 0, 0, []⟩) && decide (st.deferred = [])
theorem issuesIn (b : Bundle) (st : Station) (rest : List Station) (sr : StationRec) (rs : List StationRec) (w : Word) (hs : b.stations = st :: rest)
    (hi : b.img.stations = sr :: rs) (hb : b.st = .running) (h : issuesB st w = true) : Issues (mod1 b) 0 w ⟨0, 0, b, st, sr⟩ := by
  simp only [issuesB, Bool.and_eq_true, decide_eq_true_eq, Bool.not_eq_true'] at h
  obtain ⟨⟨⟨⟨⟨⟨⟨⟨⟨⟨h1, h2⟩, h3⟩, h4⟩, h5⟩, h6⟩, h7⟩, h8⟩, h9⟩, h10⟩, h11⟩ := h
  exact ⟨⟨onCell b st rest sr rs hs hi h4, rfl, h1, Or.inl h2, h11, Or.inl hb, h3⟩, h5, h6, h7, h8, h9, h10⟩
theorem issues (st : Station) (w : Word) (h : issuesB st w = true) : Issues (s1 st) 0 w (x1 st) :=
  issuesIn (bun 0 st) st _ _ _ w rfl rfl rfl h

/-- The word `w` of the station issues, and the command leaves the station as `st'` and all else as it was. -/
abbrev Runs (c : Instr) (w : Word) (st st' : Station) : Prop := Issues (s1 st) 0 w (x1 st) ∧ StationResult c (s1 st) (x1 st) st'
/-- The word `w` of the station issues and faults. -/
abbrev Faults (c : Instr) (w : Word) (st : Station) (code detail : Nat) : Prop :=
  Issues (s1 st) 0 w (x1 st) ∧ ∃ t, exec c (s1 st) = .next t ∧ FaultShown t 0 (x1 st) code 0 w detail
/-- PC moved on, a place in program order taken, and the registers as given. -/
def went (w : Word) (g : SMap DWord) : Station := { stn 0 w with g := g, pc := 4, order := 1 }
def g0 : SMap DWord := [(1, 5#64), (2, -3#64), (3, 64#64), (4, 0x100000000#64)]

/-- A station's result, by the state that the command leaves. -/
theorem leaves {c : Instr} {s : State} {x : Where} {st : Station} (h : exec c s = .next (after c s))
    (e : after c s = { s with pl := { s.pl with slots := SMap.insert s.pl.slots x.slot (withStation x st) }, counts := (after c s).counts,
                              sampling := (after c s).sampling, free := (after c s).free }) : StationResult c s x st :=
  ⟨_, h, _, _, _, e⟩
/-- What `FaultShown` asks, as a test. -/
def shownB (t : State) (cell : Nat) (x : Where) (code pc : Nat) (w : Word) (detail : Nat) : Bool :=
  decide ((stationAt t x.slot x.idx).map (fun st => (st.run, st.waiting)) = some (.faulted, .no)) &&
  decide (fldAt t F.dieFltStatCode (dieOf cell) (cell % 256) 0 = code) && decide (fldAt t F.dieFltStatValid (dieOf cell) (cell % 256) 0 = 1) &&
  decide (fldAt t F.dieFltPcPc (dieOf cell) (cell % 256) 0 = pc % 2 ^ 16) && decide (fldAt t F.dieFltInsnInsn (dieOf cell) (cell % 256) 0 = w.toNat) &&
  decide (fldAt t F.dieFltDetailDetail (dieOf cell) (cell % 256) 0 = detail)
theorem shows {c : Instr} {s : State} {cell : Nat} {x : Where} {code pc : Nat} {w : Word} {detail : Nat} (h : exec c s = .next (after c s))
    (e : shownB (after c s) cell x code pc w detail = true) : ∃ t, exec c s = .next t ∧ FaultShown t cell x code pc w detail := by
  simp only [shownB, Bool.and_eq_true, decide_eq_true_eq, Option.map_eq_some_iff, Prod.mk.injEq] at e
  obtain ⟨⟨⟨⟨⟨⟨st, h1, h2⟩, h3⟩, h4⟩, h5⟩, h6⟩, h7⟩ := e
  exact ⟨_, h, ⟨st, h1, h2⟩, h3, h4, h5, h6, h7⟩

/-! ### Station instructions: registers, flow of control, scratch -/

theorem test_registers : getG (setG (stn 0 0) 6 9#64) 6 = 9#64 ∧ getG (setG (stn 0 0) 0 9#64) 0 = 0#64 ∧ getG (setG (stn 0 0) 31 9#64) 1 = 5#64 ∧
    getP (setP (stn 0 0) 7 true) 7 = true ∧ getP (setP (stn 0 0) 0 false) 0 = true ∧ getP (setP (stn 0 0) 7 true) 1 = true := by decide +kernel

-- R149: IMM is sign-extended, 0x7FF is −1; shifts take IMM[5:0]
theorem test_addi : Runs (.addi 0 (wordI 0x02 6 1 0x7FF)) (wordI 0x02 6 1 0x7FF) (stn 0 (wordI 0x02 6 1 0x7FF)) (went (wordI 0x02 6 1 0x7FF) (g0 ++ [(6, 4#64)])) :=
  ⟨issues _ _ (by decide +kernel), leaves rfl (by decide +kernel)⟩
theorem test_andi : Runs (.andi 0 (wordI 0x03 6 2 0x00F)) (wordI 0x03 6 2 0x00F) (stn 0 (wordI 0x03 6 2 0x00F)) (went (wordI 0x03 6 2 0x00F) (g0 ++ [(6, 0xD#64)])) :=
  ⟨issues _ _ (by decide +kernel), leaves rfl (by decide +kernel)⟩
theorem test_ori : Runs (.ori 0 (wordI 0x04 6 1 0x400)) (wordI 0x04 6 1 0x400) (stn 0 (wordI 0x04 6 1 0x400)) (went (wordI 0x04 6 1 0x400) (g0 ++ [(6, -1019#64)])) :=
  ⟨issues _ _ (by decide +kernel), leaves rfl (by decide +kernel)⟩
theorem test_xori : Runs (.xori 0 (wordI 0x05 1 1 0x7FF)) (wordI 0x05 1 1 0x7FF) (stn 0 (wordI 0x05 1 1 0x7FF))
    (went (wordI 0x05 1 1 0x7FF) [(1, -6#64), (2, -3#64), (3, 64#64), (4, 0x100000000#64)]) :=
  ⟨issues _ _ (by decide +kernel), leaves rfl (by decide +kernel)⟩
theorem test_shli : Runs (.shli 0 (wordI 0x06 6 1 63)) (wordI 0x06 6 1 63) (stn 0 (wordI 0x06 6 1 63)) (went (wordI 0x06 6 1 63) (g0 ++ [(6, 0x8000000000000000#64)])) :=
  ⟨issues _ _ (by decide +kernel), leaves rfl (by decide +kernel)⟩
theorem test_shri : Runs (.shri 0 (wordI 0x07 6 2 63)) (wordI 0x07 6 2 63) (stn 0 (wordI 0x07 6 2 63)) (went (wordI 0x07 6 2 63) (g0 ++ [(6, 1#64)])) :=
  ⟨issues _ _ (by decide +kernel), leaves rfl (by decide +kernel)⟩
theorem test_sari : Runs (.sari 0 (wordI 0x08 6 2 1)) (wordI 0x08 6 2 1) (stn 0 (wordI 0x08 6 2 1)) (went (wordI 0x08 6 2 1) (g0 ++ [(6, -2#64)])) :=
  ⟨issues _ _ (by decide +kernel), leaves rfl (by decide +kernel)⟩
theorem test_movi : Runs (.movi 0 (wordR 0x09 6 16 0 5)) (wordR 0x09 6 16 0 5) (stn 0 (wordR 0x09 6 16 0 5)) (went (wordR 0x09 6 16 0 5) (g0 ++ [(6, -32763#64)])) :=
  ⟨issues _ _ (by decide +kernel), leaves rfl (by decide +kernel)⟩
theorem test_movs : Runs (.movs 0 (wordR 0x0A 1 16 0 5)) (wordR 0x0A 1 16 0 5) (stn 0 (wordR 0x0A 1 16 0 5))
    (went (wordR 0x0A 1 16 0 5) [(1, 0x58005#64), (2, -3#64), (3, 64#64), (4, 0x100000000#64)]) :=
  ⟨issues _ _ (by decide +kernel), leaves rfl (by decide +kernel)⟩
-- R156: MULH of −3 and 5 is −1; gd 0 discards the result
theorem test_alu : Runs (.alu 0 (wordR 0x01 6 2 1 0x09)) (wordR 0x01 6 2 1 0x09) (stn 0 (wordR 0x01 6 2 1 0x09)) (went (wordR 0x01 6 2 1 0x09) (g0 ++ [(6, -1#64)])) :=
  ⟨issues _ _ (by decide +kernel), leaves rfl (by decide +kernel)⟩
theorem test_alu_g0 : Runs (.alu 0 (wordR 0x01 0 2 1 0)) (wordR 0x01 0 2 1 0) (stn 0 (wordR 0x01 0 2 1 0)) (went (wordR 0x01 0 2 1 0) g0) :=
  ⟨issues _ _ (by decide +kernel), leaves rfl (by decide +kernel)⟩
-- −3 < 5 signed, not unsigned
theorem test_cmp : Runs (.cmp 0 (wordR 0x0B 7 2 1 2)) (wordR 0x0B 7 2 1 2) (stn 0 (wordR 0x0B 7 2 1 2)) { went (wordR 0x0B 7 2 1 2) g0 with p := 0x82#8 } ∧
    Runs (.cmp 0 (wordR 0x0B 1 2 1 4)) (wordR 0x0B 1 2 1 4) (stn 0 (wordR 0x0B 1 2 1 4)) { went (wordR 0x0B 1 2 1 4) g0 with p := 0#8 } :=
  ⟨⟨issues _ _ (by decide +kernel), leaves rfl (by decide +kernel)⟩, issues _ _ (by decide +kernel), leaves rfl (by decide +kernel)⟩
theorem test_cmpi : Runs (.cmpi 0 (wordI 0x0C 26 2 0x7FD)) (wordI 0x0C 26 2 0x7FD) (stn 0 (wordI 0x0C 26 2 0x7FD)) { went (wordI 0x0C 26 2 0x7FD) g0 with p := 6#8 } :=
  ⟨issues _ _ (by decide +kernel), leaves rfl (by decide +kernel)⟩
theorem test_plog : Runs (.plog 0 (wordR 0x0D 1 0 1 3)) (wordR 0x0D 1 0 1 3) (stn 0 (wordR 0x0D 1 0 1 3)) { went (wordR 0x0D 1 0 1 3) g0 with p := 0#8 } :=
  ⟨issues _ _ (by decide +kernel), leaves rfl (by decide +kernel)⟩

theorem test_ld64 : Runs (.ld64 0 (wordI 0x10 6 0 0)) (wordI 0x10 6 0 0) (stn 0 (wordI 0x10 6 0 0)) (went (wordI 0x10 6 0 0) (g0 ++ [(6, 0x44332211#64)])) :=
  ⟨issues _ _ (by decide +kernel), leaves rfl (by decide +kernel)⟩
theorem test_ld32 : Runs (.ld32 0 (wordI 0x11 6 0 0)) (wordI 0x11 6 0 0) (stn 0 (wordI 0x11 6 0 0)) (went (wordI 0x11 6 0 0) (g0 ++ [(6, 0x44332211#64)])) :=
  ⟨issues _ _ (by decide +kernel), leaves rfl (by decide +kernel)⟩
theorem test_ld8 : Runs (.ld8 0 (wordI 0x12 6 3 0x7C3)) (wordI 0x12 6 3 0x7C3) (stn 0 (wordI 0x12 6 3 0x7C3)) (went (wordI 0x12 6 3 0x7C3) (g0 ++ [(6, 0x44#64)])) :=
  ⟨issues _ _ (by decide +kernel), leaves rfl (by decide +kernel)⟩
theorem test_st64 : Runs (.st64 0 (wordI 0x13 2 0 1)) (wordI 0x13 2 0 1) { stn 0 (wordI 0x13 2 0 1) with scratch := ⟨[], []⟩ }
    { went (wordI 0x13 2 0 1) g0 with scratch := ⟨[(8, 0xFD#8), (9, 0xFF#8), (10, 0xFF#8), (11, 0xFF#8), (12, 0xFF#8), (13, 0xFF#8), (14, 0xFF#8), (15, 0xFF#8)], []⟩ } :=
  ⟨issues _ _ (by decide +kernel), leaves rfl (by decide +kernel)⟩
theorem test_st32 : Runs (.st32 0 (wordI 0x14 1 0 0)) (wordI 0x14 1 0 0) (stn 0 (wordI 0x14 1 0 0)) { went (wordI 0x14 1 0 0) g0 with scratch := ⟨[(0, 5#8)], []⟩ } :=
  ⟨issues _ _ (by decide +kernel), leaves rfl (by decide +kernel)⟩
theorem test_st8 : Runs (.st8 0 (wordI 0x15 1 3 0x7C1)) (wordI 0x15 1 3 0x7C1) (stn 0 (wordI 0x15 1 3 0x7C1))
    { went (wordI 0x15 1 3 0x7C1) g0 with scratch := ⟨[(0, 0x11#8), (1, 5#8), (2, 0x33#8), (3, 0x44#8)], []⟩ } :=
  ⟨issues _ _ (by decide +kernel), leaves rfl (by decide +kernel)⟩
-- SCRATCH_RANGE below 0 and past the end, SCRATCH_ALIGN
theorem test_bad_address : Faults (.ld64 0 (wordI 0x10 6 0 0x7FF)) (wordI 0x10 6 0 0x7FF) (stn 0 (wordI 0x10 6 0 0x7FF)) 0x0212 0xFFFFFFFF ∧
    Faults (.st32 0 (wordI 0x14 6 4 0)) (wordI 0x14 6 4 0) (stn 0 (wordI 0x14 6 4 0)) 0x0212 0xFFFFFFFF ∧
    Faults (.ld32 0 (wordI 0x11 6 1 0)) (wordI 0x11 6 1 0) (stn 0 (wordI 0x11 6 1 0)) 0x0213 5 :=
  ⟨⟨issues _ _ (by decide +kernel), shows rfl (by decide +kernel)⟩, ⟨issues _ _ (by decide +kernel), shows rfl (by decide +kernel)⟩,
    issues _ _ (by decide +kernel), shows rfl (by decide +kernel)⟩

-- the code has three words: 8 is the last target, 12 and −4 are none
theorem test_br : Runs (.br 0 (wordB 0x18 2)) (wordB 0x18 2) (stn 0 (wordB 0x18 2)) { went (wordB 0x18 2) g0 with pc := 8 } ∧
    Faults (.br 0 (wordB 0x18 3)) (wordB 0x18 3) (stn 0 (wordB 0x18 3)) 0x0211 12 ∧
    Faults (.br 0 (wordB 0x18 0x1FFFFF)) (wordB 0x18 0x1FFFFF) (stn 0 (wordB 0x18 0x1FFFFF)) 0x0211 0xFFFFFFFC :=
  ⟨⟨issues _ _ (by decide +kernel), leaves rfl (by decide +kernel)⟩, ⟨issues _ _ (by decide +kernel), shows rfl (by decide +kernel)⟩,
    issues _ _ (by decide +kernel), shows rfl (by decide +kernel)⟩
theorem test_call : Runs (.call 0 (wordB 0x19 1)) (wordB 0x19 1) (stn 0 (wordB 0x19 1)) (went (wordB 0x19 1) (g0 ++ [(31, 4#64)])) :=
  ⟨issues _ _ (by decide +kernel), leaves rfl (by decide +kernel)⟩
theorem test_jr : Faults (.jr 0 (wordR 0x1A 0 1 0 0)) (wordR 0x1A 0 1 0 0) (stn 0 (wordR 0x1A 0 1 0 0)) 0x0211 5 ∧
    Runs (.jr 0 (wordR 0x1A 0 0 0 0)) (wordR 0x1A 0 0 0 0) (stn 0 (wordR 0x1A 0 0 0 0)) { went (wordR 0x1A 0 0 0 0) g0 with pc := 0 } :=
  ⟨⟨issues _ _ (by decide +kernel), shows rfl (by decide +kernel)⟩, issues _ _ (by decide +kernel), leaves rfl (by decide +kernel)⟩
-- an opcode that is not listed; a CMP whose RD names no predicate
theorem test_invalid_word : (AtWord (s1 (stn 0 0#32)) 0 0#32 (x1 (stn 0 0#32)) ∧ validWord 0#32 = false ∧ listedOpcode (fOpc 0#32) = false ∧
      ∃ t, exec (.reservedOpcode 0 0#32) (s1 (stn 0 0#32)) = .next t ∧ FaultShown t 0 (x1 (stn 0 0#32)) 0x0210 0 0#32 0) ∧
    validWord (wordR 0x0B 8 2 1 0) = false ∧ StationCommand 0 (wordR 0x0B 8 2 1 0) (.cmp 0 (wordR 0x0B 8 2 1 0)) :=
  ⟨⟨⟨onCell _ _ _ _ _ rfl rfl rfl, rfl, rfl, Or.inl rfl, rfl, Or.inl rfl, rfl⟩, by decide +kernel, by decide +kernel, shows rfl (by decide +kernel)⟩,
    by decide +kernel, .cmp (by decide +kernel)⟩
-- PG = 2, PN = 0: p2 is 0
theorem test_guarded_off : validWord (wordI 0x02 6 1 1 + 0x00800000#32) = true ∧ mustWait (stn 0 0) (wordI 0x02 6 1 1 + 0x00800000#32) = false ∧
    guardTrue (stn 0 (wordI 0x02 6 1 1 + 0x00800000#32)) (wordI 0x02 6 1 1 + 0x00800000#32) = false ∧
    StationResult (.addi 0 (wordI 0x02 6 1 1 + 0x00800000#32)) (s1 (stn 0 (wordI 0x02 6 1 1 + 0x00800000#32))) (x1 (stn 0 (wordI 0x02 6 1 1 + 0x00800000#32)))
      (went (wordI 0x02 6 1 1 + 0x00800000#32) g0) :=
  ⟨by decide +kernel, by decide +kernel, by decide +kernel, leaves rfl (by decide +kernel)⟩
theorem test_last_word_falls_through : (stn 0 0).code.length * 4 = 8 + 4 ∧
    ∃ t, exec (.addi 0 (wordI 0x02 6 1 1)) (s1 { stn 0 0 with pc := 8, code := [0, 0, wordI 0x02 6 1 1] }) = .next t ∧
      FaultShown t 0 (x1 { stn 0 0 with pc := 8, code := [0, 0, wordI 0x02 6 1 1] }) 0x0211 8 (wordI 0x02 6 1 1) 12 :=
  ⟨rfl, shows rfl (by decide +kernel)⟩
/-- A tally operation of the station under way, whose status goes to g6. -/
def op6 (k : TallyOp) (tally : Nat) : TallyWait := ⟨tally, k, 2#32, 6, wordR 0x38 6 0 0 0, 0, 0, false, none⟩
theorem test_busy_item : mustWait { stn 0 (wordI 0x02 7 6 1) with tallyOps := [op6 .give 0] } (wordI 0x02 7 6 1) = true ∧
    StationResult (.addi 0 (wordI 0x02 7 6 1)) (s1 { stn 0 (wordI 0x02 7 6 1) with tallyOps := [op6 .give 0] })
      (x1 { stn 0 (wordI 0x02 7 6 1) with tallyOps := [op6 .give 0] }) { stn 0 (wordI 0x02 7 6 1) with tallyOps := [op6 .give 0] } :=
  ⟨by decide +kernel, leaves rfl (by decide +kernel)⟩

/-! ### Station instructions: tiles, blocks, streams -/

/-- A station whose slot at 0 holds an FP32 tile of shape 1 × 1 with the element 1.0, and whose slot at 4,256 one with 0. -/
def stT (w : Word) : Station :=
  { stn 0 w with scratch := ⟨[(12, 2#8), (34, 0x80#8), (35, 0x3F#8), (4268, 2#8)], []⟩ }
def wentT (w : Word) (g : SMap DWord) : Station := { stT w with g := g, pc := 4, order := 1 }

-- data scratch has 16,384 bytes: a slot at 12,128 ends there; one at 12,160 does not fit
theorem test_tset : Runs (.tset 0 (wordR 0x20 3 5 17 0)) (wordR 0x20 3 5 17 0) { stn 0 (wordR 0x20 3 5 17 0) with g := [(5, 12128#64)] }
      { went (wordR 0x20 3 5 17 0) [(5, 12128#64)] with t := [(1, ⟨0, none⟩), (2, ⟨4256, none⟩), (3, ⟨12128, some 1⟩)] } ∧
    Runs (.tset 0 (wordR 0x20 2 3 0 0)) (wordR 0x20 2 3 0 0) (stn 0 (wordR 0x20 2 3 0 0)) { went (wordR 0x20 2 3 0 0) g0 with t := [(1, ⟨0, none⟩), (2, ⟨64, none⟩)] } :=
  ⟨⟨issues _ _ (by decide +kernel), leaves rfl (by decide +kernel)⟩, issues _ _ (by decide +kernel), leaves rfl (by decide +kernel)⟩
theorem test_tset_faults : Faults (.tset 0 (wordR 0x20 3 4 0 0)) (wordR 0x20 3 4 0 0) (stn 0 (wordR 0x20 3 4 0 0)) 0x0212 0xFFFFFFFF ∧
    Faults (.tset 0 (wordR 0x20 3 1 0 0)) (wordR 0x20 3 1 0 0) (stn 0 (wordR 0x20 3 1 0 0)) 0x0213 5 :=
  ⟨⟨issues _ _ (by decide +kernel), shows rfl (by decide +kernel)⟩, issues _ _ (by decide +kernel), shows rfl (by decide +kernel)⟩
theorem test_thdr_r : Runs (.thdrR 0 (wordI 0x21 6 1 3)) (wordI 0x21 6 1 3) (stT (wordI 0x21 6 1 3)) (wentT (wordI 0x21 6 1 3) (g0 ++ [(6, 2#64)])) ∧
    (AtWord (s1 (stn 0 (wordI 0x21 6 1 13))) 0 (wordI 0x21 6 1 13) (x1 (stn 0 (wordI 0x21 6 1 13))) ∧
      ∃ t, exec (.thdrR 0 (wordI 0x21 6 1 13)) (s1 (stn 0 (wordI 0x21 6 1 13))) = .next t ∧ FaultShown t 0 (x1 (stn 0 (wordI 0x21 6 1 13))) 0x0210 0 (wordI 0x21 6 1 13) 0) :=
  ⟨⟨issues _ _ (by decide +kernel), leaves rfl (by decide +kernel)⟩, ⟨onCell _ _ _ _ _ rfl rfl rfl, rfl, rfl, Or.inl rfl, rfl, Or.inl rfl, rfl⟩, shows rfl (by decide +kernel)⟩
-- KEYFRAME is bit 2 of FLAGS at offset 14; POSTMARK is read-only
theorem test_thdr_w : Runs (.thdrW 0 (wordI 0x22 1 1 7)) (wordI 0x22 1 1 7) (stn 0 (wordI 0x22 1 1 7))
      { went (wordI 0x22 1 1 7) g0 with scratch := ⟨[(0, 0x11#8), (1, 0x22#8), (2, 0x33#8), (3, 0x44#8), (14, 4#8)], []⟩ } ∧
    (∃ t, exec (.thdrW 0 (wordI 0x22 1 1 8)) (s1 (stn 0 (wordI 0x22 1 1 8))) = .next t ∧ FaultShown t 0 (x1 (stn 0 (wordI 0x22 1 1 8))) 0x0210 0 (wordI 0x22 1 1 8) 0) :=
  ⟨⟨issues _ _ (by decide +kernel), leaves rfl (by decide +kernel)⟩, shows rfl (by decide +kernel)⟩
theorem test_tcopy : Issues (s1 (stT (wordR 0x23 2 1 0 0))) 0 (wordR 0x23 2 1 0 0) (x1 (stT (wordR 0x23 2 1 0 0))) ∧ getT (stT 0) 1 = some ⟨0, none⟩ ∧
    getT (stT 0) 2 = some ⟨4256, none⟩ := ⟨issues _ _ (by decide +kernel), rfl, rfl⟩
theorem test_tzero : Issues (s1 (stT (wordR 0x24 1 0 0 0))) 0 (wordR 0x24 1 0 0 0) (x1 (stT (wordR 0x24 1 0 0 0))) ∧
    (stationAt (after (.tzero 0 (wordR 0x24 1 0 0 0)) (s1 (stT (wordR 0x24 1 0 0 0)))) 0 0).map (fun st => st.scratch.bytes) = some [(4268, 2#8)] :=
  ⟨issues _ _ (by decide +kernel), by decide +kernel⟩
theorem test_cvt : Issues (s1 (stT (wordR 0x25 2 1 0 3))) 0 (wordR 0x25 2 1 0 3) (x1 (stT (wordR 0x25 2 1 0 3))) ∧ fmtInfo 3 = some ⟨16, 2048, .fp bf16 false⟩ ∧
    (let t := slotTile (stT 0).scratch 0
     computable t.fmt = true ∧ computable 3 = true ∧ shapeOk t.fmt t.shape = true ∧ countFits 3 t.count = true ∧ t.hdr.flag flagPoison = false) :=
  ⟨issues _ _ (by decide +kernel), rfl, by decide +kernel⟩
theorem test_handle_unset : Faults (.thdrR 0 (wordI 0x21 6 15 0)) (wordI 0x21 6 15 0) (stn 0 (wordI 0x21 6 15 0)) 0x0218 15 ∧
    Faults (.tzero 0 (wordR 0x24 0 0 0 0)) (wordR 0x24 0 0 0 0) (stn 0 (wordR 0x24 0 0 0 0)) 0x0218 0 :=
  ⟨⟨issues _ _ (by decide +kernel), shows rfl (by decide +kernel)⟩, issues _ _ (by decide +kernel), shows rfl (by decide +kernel)⟩
theorem test_region_invalid : Faults (.fetch 0 (wordR 0x30 1 0 2 0x3F)) (wordR 0x30 1 0 2 0x3F) (stn 0 (wordR 0x30 1 0 2 0x3F)) 0x0215 0x20000000 ∧
    Faults (.stash 0 (wordR 0x31 1 0 1 0x3F)) (wordR 0x31 1 0 1 0x3F) (stn 0 (wordR 0x31 1 0 1 0x3F)) 0x0215 0x10000000 ∧
    Faults (.radd 0 (wordR 0x34 1 1 0 0)) (wordR 0x34 1 1 0 0) (stn 0 (wordR 0x34 1 1 0 0)) 0x0215 5 :=
  ⟨⟨issues _ _ (by decide +kernel), shows rfl (by decide +kernel)⟩, ⟨issues _ _ (by decide +kernel), shows rfl (by decide +kernel)⟩,
    issues _ _ (by decide +kernel), shows rfl (by decide +kernel)⟩

/-- A tile of zeros with no payload bytes, to keep the tests small. -/
def tile0 : Tile := ⟨⟨0, 0, 0, 0, 0, 0, 0, 0, 0, 0, 0⟩, [], [], []⟩
/-- A result of the tensor block or of the vector block. -/
def bop (opc : Nat) : BlockOp :=
  ⟨wordR opc 0 1 2 0x05, 0, 0, decide (opc < 0x58), 1, 4256, tile0, ⟨1, 1, .f32, [(0, 0x3F800000#32)], []⟩, {}, 0, 1, [], []⟩
theorem test_accz : Runs (.accz 0 (wordR 0x50 0 0 0 0)) (wordR 0x50 0 0 0 0) { stn 0 (wordR 0x50 0 0 0 0) with acc := (bop 0x51).acc }
    (went (wordR 0x50 0 0 0 0) g0) := ⟨issues _ _ (by decide +kernel), leaves rfl (by decide +kernel)⟩
theorem test_mma : Issues (s1 (stT (wordR 0x51 0 1 2 0x05))) 0 (wordR 0x51 0 1 2 0x05) (x1 (stT (wordR 0x51 0 1 2 0x05))) ∧
    mmaCheck 0x05 (slotTile (stT 0).scratch 0) (slotTile (stT 0).scratch 4256) Acc.clear false = none :=
  ⟨issues _ _ (by decide +kernel), by decide +kernel⟩
theorem test_accrd : Issues (s1 { stT (wordR 0x52 2 0 0 2) with acc := (bop 0x51).acc }) 0 (wordR 0x52 2 0 0 2) (x1 { stT (wordR 0x52 2 0 0 2) with acc := (bop 0x51).acc }) ∧
    accrdCheck 2 0 (bop 0x51).acc false = none := ⟨issues _ _ (by decide +kernel), by decide +kernel⟩
-- VADD, and VNEG, which reads no tb
theorem test_v_ops : (Issues (s1 (stT (wordR 0x58 2 1 1 0))) 0 (wordR 0x58 2 1 1 0) (x1 (stT (wordR 0x58 2 1 1 0))) ∧ vopInfo 0 = some ⟨.a, true, false⟩ ∧
      vecCheck 0 ⟨.a, true, false⟩ (slotTile (stT 0).scratch 0) (slotTile (stT 0).scratch 0) (slotTile (stT 0).scratch 4256) false = none) ∧
    (Issues (s1 (stT (wordR 0x59 2 1 0 0x10))) 0 (wordR 0x59 2 1 0 0x10) (x1 (stT (wordR 0x59 2 1 0 0x10))) ∧ vopInfo 0x10 = some ⟨.a, false, false⟩ ∧
      vecCheck 0x10 ⟨.a, false, false⟩ (slotTile (stT 0).scratch 0) (slotTile (stT 0).scratch 0) (slotTile (stT 0).scratch 4256) false = none) :=
  ⟨⟨issues _ _ (by decide +kernel), rfl, by decide +kernel⟩, issues _ _ (by decide +kernel), rfl, by decide +kernel⟩
theorem test_block_results : StationResult (.blockInstructionComplete 0 true 9) (s1 { stn 0 0 with blockOps := [bop 0x58, bop 0x51] })
      (x1 { stn 0 0 with blockOps := [bop 0x58, bop 0x51] }) { stn 0 0 with blockOps := [bop 0x58], acc := (bop 0x51).acc } ∧
    [bop 0x58, bop 0x51].find? (fun o => o.tensor == false) = some (bop 0x58) :=
  ⟨leaves rfl (by decide +kernel), by decide +kernel⟩

/-- A tile of stream 1 with SEQ 7, in FP8, shape 1 × 1. -/
def tile7 : Tile := ⟨⟨11#32, 7#32, 0, 5#8, 0, 0, 0, 0, 0, 0, 0⟩, [], [], []⟩
/-- The bundle with stream `i` replaced. -/
def bunS (spec : Nat) (st : Station) (i : Nat) (y : Machine.Stream) : Bundle := { bun spec st with streams := (bun spec st).streams.set i y }
theorem test_collect : Issues (mod1 (bunS 0 (stn 0 (wordR 0x28 2 0 0 0)) 1 (stm [⟨tile7, none⟩]))) 0 (wordR 0x28 2 0 0 0)
      ⟨0, 0, bunS 0 (stn 0 (wordR 0x28 2 0 0 0)) 1 (stm [⟨tile7, none⟩]), stn 0 (wordR 0x28 2 0 0 0), recS 0⟩ ∧
    takeGate (wordR 0x28 2 0 0 0) ⟨0, 0, bunS 0 (stn 0 (wordR 0x28 2 0 0 0)) 1 (stm [⟨tile7, none⟩]), stn 0 (wordR 0x28 2 0 0 0), recS 0⟩ = false ∧
    (inEnd (bunS 0 (stn 0 0) 1 (stm [⟨tile7, none⟩])) 0 0).map (fun e => (e.si, e.ci, headTile e.e)) = some (1, 0, some tile7) ∧
    (slotBundle (after (.collect 0 (wordR 0x28 2 0 0 0)) (mod1 (bunS 0 (stn 0 (wordR 0x28 2 0 0 0)) 1 (stm [⟨tile7, none⟩])))) 0).map
      (fun b => ((b.stations[0]?).map (fun st => (st.pc, st.waiting)), (b.streams[1]?).map (fun y => y.ends.map (fun e => e.queue)))) = some (some (4, .no), some [[]]) :=
  ⟨issuesIn _ _ _ _ _ _ rfl rfl rfl (by decide +kernel), by decide +kernel, by decide +kernel, by decide +kernel⟩
-- no tile: COLLECT waits, TRYCOLLECT writes 0 to p1
theorem test_collect_empty : Runs (.collect 0 (wordR 0x28 2 0 0 0)) (wordR 0x28 2 0 0 0) (stn 0 (wordR 0x28 2 0 0 0))
      { stn 0 (wordR 0x28 2 0 0 0) with order := 1, waiting := .collect 0, waitInsn := wordR 0x28 2 0 0 0 } ∧
    Runs (.trycollect 0 (wordR 0x2A 2 1 1 0)) (wordR 0x2A 2 1 1 0) (stn 0 (wordR 0x2A 2 1 1 0)) { went (wordR 0x2A 2 1 1 0) g0 with p := 0#8 } :=
  ⟨⟨issues _ _ (by decide +kernel), leaves rfl (by decide +kernel)⟩, issues _ _ (by decide +kernel), leaves rfl (by decide +kernel)⟩
/-- A station that waits in an instruction. -/
def waits (k : Waiting) (w : Word) : Station := { stn 0 w with waiting := k, waitInsn := w }
theorem test_collect_tile_arrived : OnCell (mod1 (bunS 0 (waits (.collect 0) (wordR 0x28 2 0 0 0)) 1 (stm [⟨tile7, none⟩]))) 0
      ⟨0, 0, bunS 0 (waits (.collect 0) (wordR 0x28 2 0 0 0)) 1 (stm [⟨tile7, none⟩]), waits (.collect 0) (wordR 0x28 2 0 0 0), recS 0⟩ ∧
    (inEnd (bunS 0 (stn 0 0) 1 (stm [⟨tile7, none⟩])) 0 0).map (fun e => takeRoom (waits (.collect 0) (wordR 0x28 2 0 0 0)) 0 e tile7 [.bytes 4256 slotBytes]) = some true ∧
    (stationAt (after (.collectTileArrived 0) (mod1 (bunS 0 (waits (.collect 0) (wordR 0x28 2 0 0 0)) 1 (stm [⟨tile7, none⟩])))) 0 0).map (fun st => (st.pc, st.waiting)) = some (4, .no) :=
  ⟨onCell _ _ _ _ _ rfl rfl rfl, by decide +kernel, by decide +kernel⟩
/-- A station whose slot at 0 holds an FP8 tile of shape 1 × 1, FRAME 9. -/
def stP (w : Word) : Station := { stn 0 w with scratch := ⟨[(8, 9#8), (12, 5#8)], []⟩ }
theorem test_post : Runs (.post 0 (wordR 0x29 0 1 0 0)) (wordR 0x29 0 1 0 0) (stP (wordR 0x29 0 1 0 0))
      { stP (wordR 0x29 0 1 0 0) with order := 1, waiting := .post 0, waitInsn := wordR 0x29 0 1 0 0 } ∧
    (outEnd (bun 0 (stn 0 0)) 0 0).map (fun o => (o.1, postFault o.2.1 o.2.2 (slotTile (stP 0).scratch 0).hdr, o.2.1.kind)) = some (0, none, 0) :=
  ⟨⟨issues _ _ (by decide +kernel), leaves rfl (by decide +kernel)⟩, by decide +kernel⟩
/-- A hop inside die 0 that refuses no word. -/
def hop0 : HopInfo := ⟨0, .mesh 0, 0, 0, []⟩
theorem test_post_first_hop : OnCell (s1 { stP (wordR 0x29 0 1 0 0) with waiting := .post 0, waitInsn := wordR 0x29 0 1 0 0 }) 0
      (x1 { stP (wordR 0x29 0 1 0 0) with waiting := .post 0, waitInsn := wordR 0x29 0 1 0 0 }) ∧
    (stationAt (after (.postFirstHopAccept ⟨0, hop0⟩) (s1 { stP (wordR 0x29 0 1 0 0) with waiting := .post 0, waitInsn := wordR 0x29 0 1 0 0 })) 0 0).map (fun st => (st.pc, st.waiting)) = some (4, .no) ∧
    ((streamAt (after (.postFirstHopAccept ⟨0, hop0⟩) (s1 { stP (wordR 0x29 0 1 0 0) with waiting := .post 0, waitInsn := wordR 0x29 0 1 0 0 })) 0 0).map (fun v =>
      v.x.flight.map (fun f => (f.tile.hdr.seq, f.tile.hdr.frame, f.tile.hdr.streamId)))) = some [(7#32, 9#32, 10#32)] :=
  ⟨onCell _ _ _ _ _ rfl rfl rfl, by decide +kernel, by decide +kernel⟩
/-- Eight unresolved tiles of an end. -/
def prov8 : List ProvTile := (List.range 8).map (fun i => ⟨BitVec.ofNat 32 i, i, false, [], true, tile0⟩)
theorem test_post_provisional : specOf (img 1) 0 = 1 ∧ isBoundary (img 1) (recStream 10 0 0 1) = true ∧
    ((streamAt (after (.postFirstHopAccept ⟨0, hop0⟩) (mod1 (bun 1 { stP (wordR 0x29 0 1 0 0) with waiting := .post 0, waitInsn := wordR 0x29 0 1 0 0 }))) 0 0).map (fun v =>
      (v.x.flight.length, v.x.prov.map (fun p => (p.seq, p.held, p.tile.hdr.flags))))) = some (0, [(7#32, true, 1#16)]) ∧
    after (.postFirstHopAccept ⟨0, hop0⟩) (mod1 (bunS 1 { stP (wordR 0x29 0 1 0 0) with waiting := .post 0, waitInsn := wordR 0x29 0 1 0 0 } 0 { stm [] with prov := prov8 })) =
      mod1 (bunS 1 { stP (wordR 0x29 0 1 0 0) with waiting := .post 0, waitInsn := wordR 0x29 0 1 0 0 } 0 { stm [] with prov := prov8 }) :=
  ⟨by decide +kernel, by decide +kernel, by decide +kernel, by decide +kernel⟩
theorem test_endctl : Runs (.endctl 0 (wordR 0x2B 1 6 0 0)) (wordR 0x2B 1 6 0 0) { stn 0 (wordR 0x2B 1 6 0 0) with g := [(6, 0xF00000001#64)] }
    { went (wordR 0x2B 1 6 0 0) [(6, 0xF00000001#64)] with endCtl := [(1, 1#32)] } := ⟨issues _ _ (by decide +kernel), leaves rfl (by decide +kernel)⟩
theorem test_endstat : Issues (mod1 (bunS 0 (stn 0 (wordR 0x2C 6 0 0 0)) 1 (stm [⟨tile7, none⟩]))) 0 (wordR 0x2C 6 0 0 0)
      ⟨0, 0, bunS 0 (stn 0 (wordR 0x2C 6 0 0 0)) 1 (stm [⟨tile7, none⟩]), stn 0 (wordR 0x2C 6 0 0 0), recS 0⟩ ∧
    (stationAt (after (.endstat 0 (wordR 0x2C 6 0 0 0)) (mod1 (bunS 0 (stn 0 (wordR 0x2C 6 0 0 0)) 1 (stm [⟨tile7, none⟩])))) 0 0).map (fun st => getG st 6) = some 1#64 ∧
    (stationAt (after (.endstat 0 (wordR 0x2C 6 16 0 0)) (mod1 (bunS 1 (stn 0 (wordR 0x2C 6 16 0 0)) 0 { stm [] with prov := prov8 }))) 0 0).map (fun st => getG st 6) = some 0#64 :=
  ⟨issuesIn _ _ _ _ _ _ rfl rfl rfl (by decide +kernel), by decide +kernel, by decide +kernel⟩
theorem test_stall : (stallEnd (x1 (waits (.collect 0) (wordR 0x28 2 0 0 0)))).map (fun e => (e.2.1, e.2.2)) = some (5, 0) ∧
    (stationAt (after (.streamStallLimit 0) (s1 (waits (.collect 0) (wordR 0x28 2 0 0 0)))) 0 0).map (fun st => st.stallReported) = some true ∧
    after (.streamStallLimit 0) (s1 { waits (.collect 0) (wordR 0x28 2 0 0 0) with stallReported := true }) =
      s1 { waits (.collect 0) (wordR 0x28 2 0 0 0) with stallReported := true } :=
  ⟨by decide +kernel, by decide +kernel, by decide +kernel⟩

/-! ### Station instructions: stacks, tallies, speculation, time -/

/-- A descriptor at byte 0: KIND 0, FORMAT and OUT_FORMAT FP32, SHAPE 0, RUN 1, COUNT 1. -/
def stD (w : Word) : Station := { stn 0 w with scratch := ⟨[(1, 2#8), (2, 0x3F#8), (4, 1#8), (24, 1#8), (4268, 2#8)], []⟩ }
theorem test_stack_enters :
    (Issues (s1 (stP (wordR 0x30 1 0 0 0x3F))) 0 (wordR 0x30 1 0 0 0x3F) (x1 (stP (wordR 0x30 1 0 0 0x3F))) ∧
      (stationAt (after (.fetch 0 (wordR 0x30 1 0 0 0x3F)) (s1 (stP (wordR 0x30 1 0 0 0x3F)))) 0 0).map (fun st => (st.pc, st.stackOps.map (fun o => (o.kind, o.tdAddr, o.region, o.slot, o.fmt)))) =
        some (4, [(.fetch, 0, 0, 0, 0x3F)])) ∧
    (Issues (s1 (stP (wordR 0x31 1 0 0 0x3F))) 0 (wordR 0x31 1 0 0 0x3F) (x1 (stP (wordR 0x31 1 0 0 0x3F))) ∧
      (stationAt (after (.stash 0 (wordR 0x31 1 0 0 0x3F)) (s1 (stP (wordR 0x31 1 0 0 0x3F)))) 0 0).map (fun st => st.stackOps.map (fun o => (o.kind, o.slot, o.tile.hdr.format))) =
        some [(.stash, 0, 5#8)]) ∧
    (Issues (s1 (stP (wordR 0x34 1 0 0 0))) 0 (wordR 0x34 1 0 0 0) (x1 (stP (wordR 0x34 1 0 0 0))) ∧
      (stationAt (after (.radd 0 (wordR 0x34 1 0 0 0)) (s1 (stP (wordR 0x34 1 0 0 0)))) 0 0).map (fun st => st.stackOps.map (fun o => (o.kind, o.slot))) = some [(.radd, 0)]) :=
  ⟨⟨issues _ _ (by decide +kernel), by decide +kernel⟩, ⟨issues _ _ (by decide +kernel), by decide +kernel⟩, issues _ _ (by decide +kernel), by decide +kernel⟩
theorem test_gather_scatter : (Issues (s1 (stD (wordR 0x32 2 0 0 0))) 0 (wordR 0x32 2 0 0 0) (x1 (stD (wordR 0x32 2 0 0 0))) ∧
      (stationAt (after (.gather 0 (wordR 0x32 2 0 0 0)) (s1 (stD (wordR 0x32 2 0 0 0)))) 0 0).map (fun st => st.stackOps.map (fun o => (o.kind, o.tdAddr, o.region))) =
        some [(.gather, 4256, 0)]) ∧
    (Issues (s1 (stD (wordR 0x33 2 0 0 0))) 0 (wordR 0x33 2 0 0 0) (x1 (stD (wordR 0x33 2 0 0 0))) ∧
      (stationAt (after (.scatter 0 (wordR 0x33 2 0 0 0)) (s1 (stD (wordR 0x33 2 0 0 0)))) 0 0).map (fun st => st.stackOps.map (fun o => (o.kind, o.region))) = some [(.scatter, 0)]) :=
  ⟨⟨issues _ _ (by decide +kernel), by decide +kernel⟩, issues _ _ (by decide +kernel), by decide +kernel⟩
/-- A checkpoint of the station over input end 0. -/
def ckpt : Checkpoint := ⟨0, 0, [], [7#32], ⟨[], 0, [], 0, Acc.clear, [], Gen.seed 1#64, ⟨[], []⟩, 0⟩, []⟩
theorem test_stash_held : writeSlots (img 2) 2 = 0 ∨ (writeSlots { img 2 with spill := [0, 16] } 2 = 8 ∧ heldCount (bun 2 (stn 0 0)) 2 = 0) := by decide +kernel
/-- A stack access of the station under way. -/
def sop (k : StackKind) : StackOp := ⟨k, wordR 0x31 1 0 0 0x3F, 0, 0, 0, 0, 2, 0x3F, tile0, [], [], [], []⟩
theorem test_stack_access_lands : OnCell (s1 { stn 0 0 with stackOps := [sop .fetch, sop .stash] }) 0 (x1 { stn 0 0 with stackOps := [sop .fetch, sop .stash] }) ∧
    stackOf (s1 { stn 0 0 with stackOps := [sop .fetch] }) 0 = some Stack.wiped ∧ heldStash { stn 0 0 with stackOps := [sop .fetch] } (sop .fetch) = none ∧
    (stationAt (after (.stackAccessComplete 0 0 [] ⟨0, []⟩) (s1 { stn 0 0 with stackOps := [sop .stash] })) 0 0).map (fun st => st.stackOps) = some [] ∧
    (stationAt (after (.stackAccessComplete 0 0 [] ⟨0, []⟩) (s1 { stn 0 0 with stackOps := [sop .fetch] })) 0 0).map (fun st => st.stackOps) = some [] :=
  ⟨onCell _ _ _ _ _ rfl rfl rfl, rfl, by decide +kernel, by decide +kernel, by decide +kernel⟩
theorem test_sfence : Runs (.sfence 0 (wordR 0x35 0 0 0 0)) (wordR 0x35 0 0 0 0) (stn 0 (wordR 0x35 0 0 0 0)) (went (wordR 0x35 0 0 0 0) g0) ∧
    Runs (.sfence 0 (wordR 0x35 0 0 0 0)) (wordR 0x35 0 0 0 0) { stn 0 (wordR 0x35 0 0 0 0) with stackOps := [sop .stash] }
      { stn 0 (wordR 0x35 0 0 0 0) with stackOps := [sop .stash], order := 1, waiting := .fence, waitInsn := wordR 0x35 0 0 0 0 } ∧
    StationResult (.sfenceComplete 0) (s1 (waits .fence (wordR 0x35 0 0 0 0))) (x1 (waits .fence (wordR 0x35 0 0 0 0))) { waits .fence (wordR 0x35 0 0 0 0) with waiting := .no, pc := 4 } :=
  ⟨⟨issues _ _ (by decide +kernel), leaves rfl (by decide +kernel)⟩, ⟨issues _ _ (by decide +kernel), leaves rfl (by decide +kernel)⟩, leaves rfl (by decide +kernel)⟩
-- module time is 0: a WAITT to 0 goes on, one to 5 waits
theorem test_waitt : Runs (.waitt 0 (wordR 0x43 0 0 0 0)) (wordR 0x43 0 0 0 0) (stn 0 (wordR 0x43 0 0 0 0)) (went (wordR 0x43 0 0 0 0) g0) ∧
    Runs (.waitt 0 (wordR 0x43 0 1 0 0)) (wordR 0x43 0 1 0 0) (stn 0 (wordR 0x43 0 1 0 0))
      { stn 0 (wordR 0x43 0 1 0 0) with order := 1, waiting := .time 5#64, waitInsn := wordR 0x43 0 1 0 0 } ∧
    StationResult (.waittTimeReached 0) (s1 (waits (.time 0#64) 0)) (x1 (waits (.time 0#64) 0)) { waits (.time 0#64) 0 with waiting := .no, pc := 4 } :=
  ⟨⟨issues _ _ (by decide +kernel), leaves rfl (by decide +kernel)⟩, ⟨issues _ _ (by decide +kernel), leaves rfl (by decide +kernel)⟩, leaves rfl (by decide +kernel)⟩

-- g0 = 0 names tally 0, homed at station 1; g1 = 5 names none
theorem test_tgive : Runs (.tgive 0 (wordR 0x38 6 0 1 0)) (wordR 0x38 6 0 1 0) (stn 0 (wordR 0x38 6 0 1 0))
      { went (wordR 0x38 6 0 1 0) g0 with tallyOps := [⟨0, .give, 5#32, 6, wordR 0x38 6 0 1 0, 0, 0, false, none⟩] } ∧
    Faults (.tgive 0 (wordR 0x38 6 1 1 0)) (wordR 0x38 6 1 1 0) (stn 0 (wordR 0x38 6 1 1 0)) 0x0216 5 :=
  ⟨⟨issues _ _ (by decide +kernel), leaves rfl (by decide +kernel)⟩, issues _ _ (by decide +kernel), shows rfl (by decide +kernel)⟩
theorem test_tdebit : Runs (.tdebit 0 (wordR 0x3A 6 0 2 0)) (wordR 0x3A 6 0 2 0) (stn 0 (wordR 0x3A 6 0 2 0))
      { went (wordR 0x3A 6 0 2 0) g0 with tallyOps := [⟨0, .debit, -3#32, 6, wordR 0x3A 6 0 2 0, 0, 0, false, none⟩] } :=
  ⟨issues _ _ (by decide +kernel), leaves rfl (by decide +kernel)⟩
theorem test_ttake_twatch : Runs (.ttake 0 (wordR 0x39 6 0 1 0)) (wordR 0x39 6 0 1 0) (stn 0 (wordR 0x39 6 0 1 0))
      { stn 0 (wordR 0x39 6 0 1 0) with order := 1, waiting := .tally, waitInsn := wordR 0x39 6 0 1 0, tallyOps := [⟨0, .take, 5#32, 6, wordR 0x39 6 0 1 0, 0, 0, false, none⟩] } ∧
    Runs (.twatch 0 (wordR 0x3B 6 0 1 0)) (wordR 0x3B 6 0 1 0) (stn 0 (wordR 0x3B 6 0 1 0))
      { stn 0 (wordR 0x3B 6 0 1 0) with order := 1, waiting := .tally, waitInsn := wordR 0x3B 6 0 1 0, tallyOps := [⟨0, .watch, 5#32, 6, wordR 0x3B 6 0 1 0, 0, 0, false, none⟩] } :=
  ⟨⟨issues _ _ (by decide +kernel), leaves rfl (by decide +kernel)⟩, issues _ _ (by decide +kernel), leaves rfl (by decide +kernel)⟩
/-- The value of tally `i` after an operation of amount `n`, from a value of 3 under a capacity of 10. -/
def valueAfter (k : TallyOp) (n : Nat) : Option Word :=
  (tallyAt (after (.tallyOpAccept 0 0 (.station 0)) (s1 { stn 0 0 with tallyOps := [{ op6 k 0 with amount := BitVec.ofNat 32 n }] })) 0 0).map (fun p => p.2.1.value)
theorem test_tally_values : orderFree (stn 0 0) 0 (tal (some 1)) (op6 .give 0) = true ∧ storeWaiters (bun 0 (stn 0 0)) (some 1) = 0 ∧
    valueAfter .give 7 = some 10#32 ∧ valueAfter .give 8 = some 3#32 ∧ valueAfter .debit 3 = some 0#32 ∧ valueAfter .debit 4 = some 3#32 ∧
    valueAfter .take 3 = some 0#32 ∧ valueAfter .take 4 = some 3#32 ∧ valueAfter .watch 3 = some 3#32 := by decide +kernel
theorem test_tally_status : returning (bun 0 { stn 0 0 with tallyOps := [{ op6 .give 0 with answer := some 0x0230 }] }) { stn 0 0 with tallyOps := [{ op6 .give 0 with answer := some 0x0230 }] } =
      some ({ op6 .give 0 with answer := some 0x0230 }, some 0x0230) ∧
    StationResult (.tallyStatusReturn 0 0) (s1 { stn 0 0 with tallyOps := [{ op6 .give 0 with answer := some 0x0230 }] })
      (x1 { stn 0 0 with tallyOps := [{ op6 .give 0 with answer := some 0x0230 }] }) { stn 0 0 with g := g0 ++ [(6, 0x0230#64)] } ∧
    StationResult (.tallyStatusReturn 0 0) (s1 { waits .tally 0 with tallyOps := [{ op6 .take 0 with answer := some 0 }] })
      (x1 { waits .tally 0 with tallyOps := [{ op6 .take 0 with answer := some 0 }] }) { waits .tally 0 with waiting := .no, pc := 4 } :=
  ⟨by decide +kernel, leaves rfl (by decide +kernel), leaves rfl (by decide +kernel)⟩
-- tally 1 is homed on module 9
theorem test_remote_wait : (remoteWait (x1 { waits .tally 0 with tallyOps := [{ op6 .take 1 with accepted := true }] })).map (fun e => (e.1, e.2.1.orphaned)) = some ({ op6 .take 1 with accepted := true }, false) ∧
    hasEntry { s1 (stn 0 0) with fab := { Fabric.reset with active := [(37, 32)] } } 9 1 = true ∧
    (stationAt (after (.tallyProbeTimeout 0 .noAnswer) (s1 { waits .tally 0 with tallyOps := [{ op6 .take 1 with accepted := true }] })) 0 0).map (fun st => (getG st 6, st.waiting, st.pc)) =
      some (0x0232#64, .no, 4) := by decide +kernel
/-- A tally of the bundle with a marker, and one with a waiter of module 9. -/
def sM (epoch : Nat) : State :=
  mod1 { bun 0 (stn 0 0) with img := { img 0 with tallies := [⟨20, 1, 0, 10, 0, epoch⟩] }, tallies := [{ tal (some 1) with markers := [none], takers := [⟨.remote 9 0 .take 0, 5#32⟩] }] }
theorem test_epoch_marker : markerFree (bun 0 (stn 0 0)) 0 none = true ∧
    (tallyAt (after (.tallyEpochMarker 0 0) (sM 4)) 0 0).map (fun p => (p.2.1.under, p.2.1.overs, p.2.1.value, p.2.1.markers)) = some (1, 0, 3#32, []) ∧
    (tallyAt (after (.tallyEpochMarker 0 0) (sM 2)) 0 0).map (fun p => (p.2.1.under, p.2.1.overs)) = some (0, 1) ∧
    fld (after (.tallyEpochMarker 0 0) (sM 3)) F.talEventEpoch = 0 ∧
    (slotBundle (after (.tallyEpochMarker 0 0) (sM 2)) 0).map (fun b => b.st) = some .held := ⟨by decide +kernel, by decide +kernel, by decide +kernel, by decide +kernel, by decide +kernel⟩
theorem test_waiter_expires : (tallyAt (after (.tallyHomeWaiterExpire 9) (sM 3)) 0 0).map (fun p => p.2.1.takers) = some [] ∧
    (tallyAt (after (.tallyHomeWaiterExpire 8) (sM 3)) 0 0).map (fun p => p.2.1.takers.length) = some 1 := by decide +kernel

/-- A station in a speculation region that confirms or cancels its tiles 6 and 7 of stream 0. -/
def bunC (w : Word) : Bundle :=
  bunS 1 { stn 0 w with g := [(1, 6#64), (2, 7#64)] } 0 { stm [] with nextSeq := 8#32, prov := [⟨6#32, 0, false, [], true, tile0⟩, ⟨7#32, 1, false, [], true, tile0⟩] }
theorem test_confirm_cancel : Issues (mod1 (bunC (wordR 0x3C 0 1 1 0))) 0 (wordR 0x3C 0 1 1 0) ⟨0, 0, bunC (wordR 0x3C 0 1 1 0), { stn 0 (wordR 0x3C 0 1 1 0) with g := [(1, 6#64), (2, 7#64)] }, recS 1⟩ ∧
    ((streamAt (after (.confirm 0 (wordR 0x3C 0 1 1 0)) (mod1 (bunC (wordR 0x3C 0 1 1 0)))) 0 0).map (fun v => v.x.prov.map (fun p => p.seq))) = some [7#32] ∧
    ((streamAt (after (.cancel 0 (wordR 0x3D 0 1 2 0)) (mod1 (bunC (wordR 0x3D 0 1 2 0)))) 0 0).map (fun v => v.x.prov.map (fun p => p.seq))) = some [] ∧
    (outEnd (bunC 0) 0 0).map (fun o => (confirmOk o.2.2 6#32 6#32, cancelOk o.2.2 6#32 7#32)) = some (true, true) :=
  ⟨issuesIn _ _ _ _ _ _ rfl rfl rfl (by decide +kernel), by decide +kernel, by decide +kernel, by decide +kernel⟩
theorem test_spec_invalid : Faults (.confirm 0 (wordR 0x3C 1 1 1 0)) (wordR 0x3C 1 1 1 0) (stn 0 (wordR 0x3C 1 1 1 0)) 0x0219 1 ∧
    Faults (.cancel 0 (wordR 0x3D 0 1 1 0)) (wordR 0x3D 0 1 1 0) (stn 0 (wordR 0x3D 0 1 1 0)) 0x0219 0 :=
  ⟨⟨issues _ _ (by decide +kernel), shows rfl (by decide +kernel)⟩, issues _ _ (by decide +kernel), shows rfl (by decide +kernel)⟩
theorem test_drain : Runs (.drain 0 (wordR 0x40 0 0 0 0)) (wordR 0x40 0 0 0 0) (stn 0 (wordR 0x40 0 0 0 0)) (went (wordR 0x40 0 0 0 0) g0) ∧
    Runs (.drain 0 (wordR 0x40 0 0 0 0)) (wordR 0x40 0 0 0 0) { stn 0 (wordR 0x40 0 0 0 0) with drainReq := true } { went (wordR 0x40 0 0 0 0) g0 with drainReq := true, run := .drained } ∧
    Runs (.drain 0 (wordR 0x40 0 0 0 0)) (wordR 0x40 0 0 0 0) { stn 0 (wordR 0x40 0 0 0 0) with stackOps := [sop .stash] }
      { stn 0 (wordR 0x40 0 0 0 0) with stackOps := [sop .stash], order := 1, waiting := .drain, waitInsn := wordR 0x40 0 0 0 0 } :=
  ⟨⟨issues _ _ (by decide +kernel), leaves rfl (by decide +kernel)⟩, ⟨issues _ _ (by decide +kernel), leaves rfl (by decide +kernel)⟩, issues _ _ (by decide +kernel), leaves rfl (by decide +kernel)⟩
theorem test_halt : Issues (s1 (stn 0 (wordR 0x1F 0 0 0 0))) 0 (wordR 0x1F 0 0 0 0) (x1 (stn 0 (wordR 0x1F 0 0 0 0))) ∧
    stationAt (after (.halt 0 (wordR 0x1F 0 0 0 0)) (s1 (stn 0 (wordR 0x1F 0 0 0 0)))) 0 0 = some { stn 0 (wordR 0x1F 0 0 0 0) with run := .halted, order := 1 } :=
  ⟨issues _ _ (by decide +kernel), by decide +kernel⟩
theorem test_drain_point : StationResult (.drainPointReached 0) (s1 { waits .drain 0 with drainReq := true }) (x1 { waits .drain 0 with drainReq := true })
      { waits .drain 0 with drainReq := true, run := .drained, waiting := .no, pc := 4 } ∧
    StationResult (.drainPointReached 0) (s1 (waits .drain 0)) (x1 (waits .drain 0)) { waits .drain 0 with waiting := .no, pc := 4 } ∧
    stationAt (after (.drainPointReached 0) (s1 (waits .halt 0))) 0 0 = some { waits .halt 0 with run := .halted, waiting := .no } :=
  ⟨leaves rfl (by decide +kernel), leaves rfl (by decide +kernel), by decide +kernel⟩
theorem test_stamp_ctr : Runs (.stamp 0 (wordR 0x41 6 0 0 3)) (wordR 0x41 6 0 0 3) (stn 0 (wordR 0x41 6 0 0 3)) (went (wordR 0x41 6 0 0 3) g0) ∧
    (Issues (s1 (stn 0 (wordR 0x42 6 3 0 0))) 0 (wordR 0x42 6 3 0 0) (x1 (stn 0 (wordR 0x42 6 3 0 0))) ∧ ctrEvent (s1 (stn 0 0)) (x1 (stn 0 0)) 0x10 = some 0x10000010) ∧
    Faults (.ctr 0 (wordR 0x42 6 2 0 0)) (wordR 0x42 6 2 0 0) (stn 0 (wordR 0x42 6 2 0 0)) 0x0217 0xFFFFFFFD :=
  ⟨⟨issues _ _ (by decide +kernel), leaves rfl (by decide +kernel)⟩, ⟨issues _ _ (by decide +kernel), by decide +kernel⟩, issues _ _ (by decide +kernel), shows rfl (by decide +kernel)⟩

/-! ### The Counter -/

/-- A request of session 1 with SEQ 5 in one datagram, tagged under the session's empty key. -/
def hdr0 : CtrHdr := ⟨.ha, 1, 5#32, 0, 1, []⟩
def hdr (code : Nat) (body : List Byte) : CtrHdr :=
  { hdr0 with dgrams := [⟨0, true, hmac [] (reqHeader hdr0 code ⟨0, true, [], body⟩ ++ body), body⟩] }
theorem asks {s : State} {x : Session} (code : Nat) (b : List Byte) (hp : s.phase = .running) (ha : s.active = some .ha) (hl : s.ha.link = true)
    (hs : s.sessions = [x]) (hx : x.id = 1 ∧ x.key = [] ∧ x.busy = false ∧ x.backlog = [] ∧ x.lastSeq = 4#32) (hq : permitted x code = true)
    (hf : s.partials = []) (hb : b.length ≤ datagramMax s .ha) : Asks s (hdr code b) code b x := by
  obtain ⟨h1, h2, h3, h4, h5⟩ := hx
  have hfind : findSession s 1 = some x := by simp [findSession, hs, h1]
  refine ⟨hp, ha, hl, hfind, hq, h3, ?_, ?_, rfl, hf, _, rfl, rfl, rfl, ?_⟩
  · intro y hy; rw [hs] at hy; simp at hy; rw [hy, h4]
  · rw [h5]; show laterThan 5#32 4#32 = true; decide
  · show dgramOk s (hdr code b) code _ = true
    have hfind' : findSession s (hdr code b).session = some x := hfind
    simp only [dgramOk, hfind', h2]
    simp [hdr, hdr0, reqHeader, hb]
/-- A module with the bundle, whose hub A serves the Counter. -/
def sC : State := s1 (stn 0 0)
theorem asksC (code : Nat) (b : List Byte) (hq : permitted ses code = true) (hb : b.length ≤ 1344) : Asks sC (hdr code b) code b ses :=
  asks code b rfl rfl rfl rfl ⟨rfl, rfl, rfl, rfl, rfl⟩ hq rfl hb
/-- The code of a register address. -/
def resolved (a : Nat) : Except Nat RegRef := resolve sC a

theorem test_status_asks : Asks sC (hdr 0x0004 []) 0x0004 [] ses := asksC _ _ rfl (by decide)
theorem test_reg_read_asks : Asks sC (hdr 0x0010 (leBytes 4 0 ++ leBytes 2 1)) 0x0010 (leBytes 4 0 ++ leBytes 2 1) ses ∧
    (resolved 0 matches .ok ⟨.idPart, 0, 0, 0⟩) ∧ (resolved 0xFFFFFC matches .error 0x0801) := ⟨asksC _ _ rfl (by decide), by decide +kernel, by decide +kernel⟩
theorem test_fm2_register_absent : resolve { sC with ident := { sC.ident with fm2 := true } } 0x170000 matches .error 0x0803 := by decide +kernel
theorem test_map_read_asks : Asks sC (hdr 0x0028 (leBytes 2 0 ++ leBytes 1 0 ++ leBytes 1 0 ++ leBytes 4 0 ++ leBytes 2 256)) 0x0028
      (leBytes 2 0 ++ leBytes 1 0 ++ leBytes 1 0 ++ leBytes 4 0 ++ leBytes 2 256) ses ∧ (byHandle sC 0).isSome = true := ⟨asksC _ _ rfl (by decide), by decide +kernel⟩
theorem test_dlq_asks : Asks sC (hdr 0x0030 [7#8, 16#8]) 0x0030 [7#8, 16#8] ses ∧ Asks sC (hdr 0x0031 [7#8, 0#8, 0xFF#8, 0xFF#8]) 0x0031 [7#8, 0#8, 0xFF#8, 0xFF#8] ses ∧
    sC.dies[7]? = some Die.reset := ⟨asksC _ _ rfl (by decide), asksC _ _ rfl (by decide), rfl⟩
theorem test_delta_read_asks : Asks sC (hdr 0x0032 [0#8, 0#8]) 0x0032 [0#8, 0#8] ses := asksC _ _ rfl (by decide)
/-- The host may read the station's region that is read only, and write the other one of a bundle that is held. -/
def sB (st : BState) : State := mod1 { bun 0 (stn 0 0) with st := st }
theorem asksB (st : BState) (code : Nat) (b : List Byte) (hq : permitted ses code = true)
    (hb : b.length ≤ datagramMax (sB st) .ha) : Asks (sB st) (hdr code b) code b ses :=
  asks code b rfl rfl rfl rfl ⟨rfl, rfl, rfl, rfl, rfl⟩ hq rfl hb
def memBody (a : Nat) : List Byte := leBytes 8 a ++ leBytes 4 16
theorem test_mem_read : Asks sC (hdr 0x0038 (memBody 32768)) 0x0038 (memBody 32768) ses ∧ hostMayReach sC 32768 16 false = true ∧
    stackOf sC 0 = some Stack.wiped := ⟨asksC _ _ rfl (by decide), by decide +kernel, rfl⟩
theorem test_mem_write : Asks (sB .held) (hdr 0x0039 (memBody 0 ++ List.replicate 16 1#8)) 0x0039 (memBody 0 ++ List.replicate 16 1#8) ses ∧
    hostMayReach (sB .held) 0 16 true = true ∧ stackOf (sB .held) 0 = some Stack.wiped := ⟨asksB _ _ _ rfl (by decide), by decide +kernel, rfl⟩
theorem test_cal_asks : Asks sC (hdr 0x0040 (leBytes 1 1 ++ leBytes 1 0 ++ leBytes 2 287 ++ leBytes 2 1)) 0x0040 (leBytes 1 1 ++ leBytes 1 0 ++ leBytes 2 287 ++ leBytes 2 1) ses ∧
    calExists sC.ident 1 287 = true ∧ Asks sC (hdr 0x0041 (leBytes 4 0x4000)) 0x0041 (leBytes 4 0x4000) ses ∧
    splitRecords 4 (wordsOf (leBytes 4 0x4000)) = some [[0x4000#32]] := ⟨asksC _ _ rfl (by decide), by decide +kernel, asksC _ _ rfl (by decide), by decide +kernel⟩
theorem test_cell_asks : Asks sC (hdr 0x0048 [0xFF#8, 7#8]) 0x0048 [0xFF#8, 7#8] ses ∧ goodCell sC 2047 = true ∧ retiredCell sC 2047 = false ∧ stationOn sC 2047 = none ∧
    Asks sC (hdr 0x0049 [0xFF#8, 7#8]) 0x0049 [0xFF#8, 7#8] ses := ⟨asksC _ _ rfl (by decide), by decide +kernel, by decide +kernel, by decide +kernel, asksC _ _ rfl (by decide)⟩
theorem test_host_qp_asks : Asks sC (hdr 0x0050 (leBytes 4 12 ++ leBytes 4 3 ++ List.replicate 16 0#8)) 0x0050 (leBytes 4 12 ++ leBytes 4 3 ++ List.replicate 16 0#8) ses ∧
    (streamById sC 12 (fun r => r.kind == 4)).isSome = true := ⟨asksC _ _ rfl (by decide), by decide +kernel⟩
theorem test_unknown_asks : Asks sC (hdr 0x00FF []) 0x00FF [] ses ∧ knownCommand 0x00FF = false := ⟨asksC _ _ rfl (by decide), rfl⟩
theorem test_reg_write_asks : Asks sC (hdr 0x0011 (List.replicate 8 0#8)) 0x0011 (List.replicate 8 0#8) ses := asksC _ _ rfl (by decide)
theorem test_stage_asks : Asks sC (hdr 0x0020 (leBytes 4 268435456)) 0x0020 (leBytes 4 268435456) ses ∧ sC.stages = [] := ⟨asksC _ _ rfl (by decide), rfl⟩
theorem test_reset_asks : Asks sC (hdr 0x0060 [0#8]) 0x0060 [0#8] ses := asksC _ _ rfl (by decide)
/-- The datagram of a request under a session's empty key is well-formed. -/
theorem dgram_ok {s : State} {x : Session} (code : Nat) (b : List Byte) (hs : s.sessions = [x]) (hx : x.id = 1 ∧ x.key = [])
    (hb : b.length ≤ datagramMax s .ha) : dgramOk s (hdr code b) code ((hdr code b).dgrams.headD ⟨0, true, [], []⟩) = true := by
  have hfind : findSession s (hdr code b).session = some x := by simp [findSession, hs, hx.1, hdr, hdr0]
  simp only [dgramOk, hfind, hx.2]
  simp [hdr, hdr0, reqHeader, hb]
/-- A repeated, an earlier and a forbidden request of a session. -/
def sRep : State := { sC with sessions := [{ ses with lastSeq := 5#32, cached := some ⟨.ha, 1, 0x0023, 0, 1, 5, 0, 0, 0, 0, [], true⟩ }] }
theorem test_replayed : (hdr 0x0023 []).seq ≠ 9#32 ∧ laterThan (hdr 0x0023 []).seq 9#32 = false ∧
    dgramOk sRep (hdr 0x0023 []) 0x0023 ((hdr 0x0023 []).dgrams.headD ⟨0, true, [], []⟩) = true ∧
    permitted { ses with control := false } 0x0023 = false := ⟨by decide, by decide, dgram_ok _ _ rfl ⟨rfl, rfl⟩ (by decide), rfl⟩
/-- SESSION_OPEN of a control session; a 17th is refused. -/
def openBody : List Byte := leBytes 2 1 ++ leBytes 2 0xFFFF ++ List.replicate 1216 0#8
theorem openBody_length : openBody.length = 1220 := by
  have h : (leBytes 2 1 ++ leBytes 2 0xFFFF).length = 4 := rfl
  rw [openBody, List.length_append, h, List.length_replicate]
theorem test_session_open : dgramOk sC (hdr 0x0001 openBody) 0x0001 ((hdr 0x0001 openBody).dgrams.headD ⟨0, true, [], []⟩) = true ∧ openBody.length = 1220 ∧
    sC.sessions.length < 16 ∧ (List.replicate 16 ses).length = 16 ∧ sC.pl.abandoned = [] :=
  ⟨dgram_ok _ _ rfl ⟨rfl, rfl⟩ (by rw [openBody_length]; decide), openBody_length, by decide, rfl, rfl⟩
/-- A module with jumbo datagrams and a session not yet authenticated. -/
def sJ : State := { sC with regs := [((⟨.ethCtl, 0, 0, 0⟩ : RegRef).addr, 0x5#32)], sessions := [{ ses with authed := false }] }
def authBody : List Byte := List.replicate 7856 0#8
theorem authBody_length : authBody.length = 7856 := by rw [authBody, List.length_replicate]
theorem test_session_auth : Asks sJ (hdr 0x0002 authBody) 0x0002 authBody { ses with authed := false } ∧ authBody.length = 7856 :=
  ⟨asks _ _ rfl rfl rfl rfl ⟨rfl, rfl, rfl, rfl, rfl⟩ rfl rfl (by
    rw [authBody_length, datagramMax, if_pos (show fldAt sJ F.ethCtlJumbo 0 (hubIndex .ha) 0 = 1 by decide +kernel)]; decide), authBody_length⟩
theorem test_session_close : Asks sC (hdr 0x0003 []) 0x0003 [] ses := asksC _ _ rfl (by decide)
theorem test_session_timers : findSession sC 1 = some ses ∧ sC.active.isSome = true ∧ findSession (after (.sessionIdleTimeout 1) sC) 1 = none ∧
    after (.sessionIdleTimeout 1) { sC with sessions := [{ ses with busy := true }] } = { sC with sessions := [{ ses with busy := true }] } := by decide +kernel
theorem test_auth_ok : authOk sJ { ses with authed := false } authBody = false ∧ authOk sJ { ses with authed := false, keyIndex := 0xFFFF } authBody = true := by decide +kernel

/-! ### Bundles -/

/-- A section-table entry. -/
def sec (t off len n : Nat) : List Byte := leBytes 2 t ++ leBytes 2 0 ++ leBytes 4 off ++ leBytes 4 len ++ leBytes 4 n
/-- The bytes of a bundle with one station of two words, and no other record, from its section table on (R71 to R73). -/
def miniRest : List Byte := sec 1 112 64 1 ++ sec 5 176 8 2 ++ sec 8 184 32 1 ++
  (padTo 32 [0x61#8] ++ leBytes 4 0 ++ leBytes 4 8 ++ leBytes 4 0 ++ leBytes 4 16384 ++ leBytes 12 0 ++ leBytes 4 0) ++
  (leBytes 4 0x02000000 ++ leBytes 4 0x3E000000) ++ leBytes 32 0
/-- The bundle, with the SHA-256 of its sections. -/
def mini : List Byte := [0x5A#8, 0x46#8, 0x42#8, 0x31#8] ++ leBytes 2 1 ++ leBytes 2 3 ++ leBytes 4 216 ++ leBytes 4 0 ++
  [248#8, 51#8, 203#8, 99#8, 19#8, 228#8, 106#8, 131#8, 95#8, 108#8, 42#8, 78#8, 225#8, 210#8, 115#8, 42#8,
   130#8, 97#8, 49#8, 74#8, 166#8, 220#8, 6#8, 100#8, 74#8, 94#8, 125#8, 107#8, 146#8, 153#8, 210#8, 198#8] ++ leBytes 8 7 ++ leBytes 8 0 ++ miniRest
def miniImg : BundleImg :=
  { bytes := mini, buildId := 7
    stations := [{ name := padTo 32 [0x61#8], codeOff := 0, codeLen := 8, entry := 0, scratch := 16384, group := 0, spec := 0, seed := 0#64 }]
    streams := [], regions := [], tallies := [], code := [0x02000000#32, 0x3E000000#32], consts := [], plan := none
    limits := { framePeriod := 0, slack := 0, powerShare := 0, priority := 0, evictable := false, frameStart := 0, drainBound := 100, completion := 0 }
    spill := [] }
/-- A module with no bundle whose session has staged `b`. -/
def sL (b : List Byte) : State :=
  { sC with pl := State.reset.pl, stages := [⟨1, 1, b.length, ((withIdx b).filter (fun e => e.2 != 0#8))⟩] }
theorem asksL (b : List Byte) (code : Nat) (r : List Byte) (hq : permitted ses code = true)
    (hb : r.length ≤ datagramMax (sL b) .ha) : Asks (sL b) (hdr code r) code r ses :=
  asks code r rfl rfl rfl rfl ⟨rfl, rfl, rfl, rfl, rfl⟩ hq rfl hb
def loadBody : List Byte := leBytes 2 1 ++ leBytes 2 0 ++ leBytes 2 0
theorem test_load_asks : Asks (sL mini) (hdr 0x0021 loadBody) 0x0021 loadBody ses ∧ Asks (sL mini) (hdr 0x0022 loadBody) 0x0022 loadBody ses ∧
    stageBytes (sL mini) ⟨.ha, 1, 5#32, 0, 0⟩ 1 = some mini ∧ (sL mini).pl.busy = none ∧ (sL mini).pl.queue = [] ∧ (sL mini).pl.ready = [] :=
  ⟨asksL _ _ _ rfl (by decide), asksL _ _ _ rfl (by decide), by decide +kernel, rfl, rfl, rfl⟩
theorem test_mini_verifies : verifyBundle (serving (sL mini) (hdr 0x0021 loadBody) ses) mini = .ok miniImg := by decide +kernel
theorem test_bad_magic : verifyBundle (serving (sL [0#8]) (hdr 0x0021 loadBody) ses) [0#8] = .error C.bndMagic := by decide +kernel

theorem firstOf_ok {α : Type} (n : Bool) (e : PlanFail) (f : α → Except PlanFail Plan) (l : List α) (h : l ≠ []) (hf : ∀ a, ∃ p, f a = .ok p) :
    ∃ p, firstOf n e f l = .ok p := by
  match l with
  | [] => exact absurd rfl h
  | [o] => exact hf o
  | o :: _ :: _ => obtain ⟨p, hp⟩ := hf o; exact ⟨p, by simp [firstOf, hp]⟩
theorem rotate_ne {α : Type} (l : List α) (k : Nat) (h : l ≠ []) : rotate l k ≠ [] := by
  have e : (rotate l k).length = l.length := by
    have : k % l.length < l.length := Nat.mod_lt _ (List.length_pos_of_ne_nil h)
    simp [rotate, h]; omega
  intro c; rw [c] at e; exact h (List.length_eq_zero_iff.mp e.symm)
/-- The load of the bundle, begun. -/
def sFit : State :=
  let u := serving (sL mini) (hdr 0x0021 loadBody) ses
  { u with pl := { u.pl with
      reuse := SMap.setD u.pl.reuse 0 1 0, loads := u.pl.loads + 1
      slots := SMap.insert u.pl.slots 0 (freshBundle 0 u.pl.loads 1 miniImg ⟨none, false, false, false⟩ ⟨.ha, 1, 5#32, 0, 0x0021⟩) } }
theorem test_mini_fits : ∃ f o, fitVictims sFit miniImg ⟨none, false, false, false⟩ (some 0) = ([], f, o) ∧ o.failed = [] := by
  have hel : eligible sFit miniImg ⟨none, false, false, false⟩ = [] := rfl
  let f := fitIn sFit miniImg ⟨none, false, false, false⟩ (some 0) []
  have hp : plainTests f = [] := by decide +kernel
  have hsets : stationSets f.img = [[0]] := by decide +kernel
  have hd : f.dies = 8 := rfl
  have hdies : (List.range 8).filter (fun d => !true || decide ([0].length ≤ f.a.onDie d)) ≠ [] := by decide +kernel
  have hr : setRuns f.img [0] = [] := by decide +kernel
  have hf : freeRuns f.img = [] := by decide +kernel
  have hpl : ∀ tooLong, ∃ p, placeAll f.key 8 true f.img [[0]] tooLong f.a = .ok p := by
    intro tooLong
    simp only [placeAll, List.map_cons, List.map_nil, hr, hf, List.filter_nil, List.filter_cons, List.length_singleton, Nat.lt_irrefl,
      decide_false, List.isEmpty_nil, Bool.not_true, Bool.or_false, Bool.false_eq_true, if_false, Bool.not_false, if_true, placeSets, placeRuns]
    exact firstOf_ok _ _ _ _ (rotate_ne _ _ hdies) (fun a => ⟨_, rfl⟩)
  have hlong : ∀ (q : Run → Bool), (((stationSets f.img).flatMap (setRuns f.img) ++ freeRuns f.img).filter q) = [] := by
    intro q; rw [hsets, hf, List.flatMap_cons, hr]; rfl
  have hfit : (fitCheck f).failed = [] := by
    simp only [fitCheck, hp, hlong, hsets, hd, List.all_nil]
    obtain ⟨p, hp'⟩ := hpl (fun r => (List.range (2 * 8)).all (fun n => (f.a.starts n r.len).isEmpty))
    rw [hp']; rfl
  exact ⟨f, fitCheck f, by simp only [fitVictims, hel]; simp [List.range_succ_eq_map, f, hfit] , hfit⟩

/-- A request that names the bundle by its handle. -/
def h0 : List Byte := leBytes 2 0
theorem asks0 (st : BState) (code : Nat) (hq : permitted ses code = true) : Asks (sB st) (hdr code h0) code h0 ses :=
  asksB st code h0 hq (by cases st <;> exact (show 2 ≤ 1344 by decide))
theorem test_handle_unknown : Asks (sB .ready) (hdr 0x0023 (leBytes 2 63)) 0x0023 (leBytes 2 63) ses ∧ byHandle (sB .ready) 63 = none :=
  ⟨asksB _ _ _ rfl (show 2 ≤ 1344 by decide), by decide +kernel⟩
theorem test_start_ready : Asks (sB .ready) (hdr 0x0023 h0) 0x0023 h0 ses ∧ (byHandle (sB .ready) 0).map (fun e => e.2.st) = some .ready ∧
    (slotBundle (after (.start (hdr 0x0023 h0)) (sB .ready)) 0).map (fun b => (b.st, b.everStarted)) = some (.running, true) :=
  ⟨asks0 _ _ rfl, by decide +kernel, by decide +kernel⟩
theorem test_start_running : Asks (sB .running) (hdr 0x0023 h0) 0x0023 h0 ses ∧ (byHandle (sB .running) 0).map (fun e => e.2.st) = some .running ∧
    (after (.start (hdr 0x0023 h0)) (sB .running)).pl = (sB .running).pl := ⟨asks0 _ _ rfl, by decide +kernel, by decide +kernel⟩
theorem test_hold_running : Asks (sB .running) (hdr 0x0024 h0) 0x0024 h0 ses ∧
    (slotBundle (after (.hold (hdr 0x0024 h0)) (sB .running)) 0).map (fun b => (b.st, b.stations.map (·.run))) = some (.held, [.held, .held]) :=
  ⟨asks0 _ _ rfl, by decide +kernel⟩
theorem test_hold_held : Asks (sB .held) (hdr 0x0024 h0) 0x0024 h0 ses ∧ (after (.hold (hdr 0x0024 h0)) (sB .held)).pl = (sB .held).pl :=
  ⟨asks0 _ _ rfl, by decide +kernel⟩
theorem test_evict_running : Asks (sB .running) (hdr 0x0025 h0) 0x0025 h0 ses ∧ (bun 0 (stn 0 0)).img.limits.evictable = true ∧
    (slotBundle (after (.evict (hdr 0x0025 h0)) (sB .running)) 0).map (fun b => (b.st, b.stations.map (·.drainReq))) = some (.evicting, [true, true]) :=
  ⟨asks0 _ _ rfl, rfl, by decide +kernel⟩
/-- A bundle that may not be evicted. -/
def bFix : Bundle := { bun 0 (stn 0 0) with img := { img 0 with limits := { (img 0).limits with evictable := false } } }
theorem test_evict_fixed : Asks (mod1 bFix) (hdr 0x0025 h0) 0x0025 h0 ses ∧ byHandle (mod1 bFix) 0 = some (0, bFix) ∧ bFix.img.limits.evictable = false ∧
    (after (.evict (hdr 0x0025 h0)) (mod1 bFix)).pl = (mod1 bFix).pl :=
  ⟨asks _ _ rfl rfl rfl rfl ⟨rfl, rfl, rfl, rfl, rfl⟩ rfl rfl (show 2 ≤ 1344 by decide), by decide +kernel, rfl, by decide +kernel⟩
theorem test_evict_ready : Asks (sB .ready) (hdr 0x0025 h0) 0x0025 h0 ses ∧ (after (.evict (hdr 0x0025 h0)) (sB .ready)).pl = (sB .ready).pl :=
  ⟨asks0 _ _ rfl, by decide +kernel⟩
theorem test_unload : Asks (sB .held) (hdr 0x0026 h0) 0x0026 h0 ses ∧ victimOf (sB .held) 0 = none ∧ (∀ st ∈ (bun 0 (stn 0 0)).stations, st.relocating = false) ∧
    (sB .held).pl.queue = [] ∧ (sB .held).pl.ready = [] ∧ slotBundle (after (.unload (hdr 0x0026 h0)) (sB .held)) 0 = none :=
  ⟨asks0 _ _ rfl, by decide +kernel, by decide +kernel, rfl, rfl, by decide +kernel⟩

/-- A module whose slot 0 holds `b`, the load that is under way where `busy`. -/
def sW (b : Bundle) (busy : Bool) : State := let s := mod1 b; { s with pl := { s.pl with busy := if busy then some 0 else none } }
def bPlan (degraded : Bool) (ch : Nat) : Bundle :=
  { bun 0 (stn 0 0) with st := .planWait, placed := false, fits := true, stations := [], streams := [], tallies := [], regions := [], spills := []
                         img := { miniImg with plan := some ⟨degraded, 1000, if ch = 0 then [] else [⟨0, 0, ch⟩]⟩ } }
theorem test_plan_lit : planFails (sW (bPlan false 0) true) (bPlan false 0).img = [] ∧
    (after (.planCircuitsLit 0) (sW (bPlan false 0) true)).pl.ready = [0] := by decide +kernel
theorem test_plan_expiry : (planFails (sW (bPlan false 1) true) (bPlan false 1).img).any (fun f => f.1 == 0x011A) = true ∧ degradedOk (bPlan false 1).img = false ∧
    degradedOk (bPlan true 1).img = true ∧ slotBundle (after (.planWaitExpiry 0) (sW (bPlan false 1) true)) 0 = none ∧
    (after (.planWaitExpiry 0) (sW (bPlan true 1) true)).pl.ready = [0] := by decide +kernel
def bLoad (k : List ConstRec) (n : Nat) : Bundle :=
  { bun 0 (stn 0 0) with st := .loading, opts := ⟨none, false, false, false⟩, img := { img 0 with consts := k, regions := [⟨0, 0, false, 4, n⟩, ⟨0, 0, true, 4, 0⟩] } }
theorem test_preload_none : preloads (bLoad [] 0) = [] ∧ ((slotBundle (after (.preloadStorageComplete 0 []) (sW (bLoad [] 0) true)) 0).map (·.st)) = some .ready ∧
    (after (.preloadStorageComplete 0 []) (sW (bLoad [] 0) true)).pl.busy = none := by decide +kernel
theorem test_preload_fails : (preloads (bLoad [⟨1, 0, 0, 0, []⟩] 1)).length = 1 ∧ constExternal (sW (bLoad [⟨1, 0, 0, 0, []⟩] 1) true) ⟨1, 0, 0, 0, []⟩ = true ∧
    slotBundle (after (.preloadStorageComplete 0 [([], false)]) (sW (bLoad [⟨1, 0, 0, 0, []⟩] 1) true)) 0 = none := by decide +kernel
def bEv (run : RunState) : Bundle :=
  { bun 0 (stn 0 0) with st := .evicting, stations := [{ stn 0 0 with run := run, drainReq := true }, { stn 1 0 with run := run, drainReq := true }]
                         img := { img 0 with consts := [] } }
theorem test_evict_drained : victimOf (sW (bEv .drained) false) 0 = none ∧ allStopped (bEv .drained) = true ∧ (bEv .drained).stations.length ≤ (bEv .drained).img.stations.length ∧
    (slotBundle (after (.evictDrained 0) (sW (bEv .drained) false)) 0).map (fun b => (b.st, b.stations.map (·.cell))) = some (.evicted, [none, none]) := by decide +kernel
theorem test_evict_timeout : victimOf (sW (bEv .running) false) 0 = none ∧ (bEv .running).evictFrom = .running ∧
    (slotBundle (after (.evictDrainTimeout 0) (sW (bEv .running) false)) 0).map (fun b => (b.st, b.stations.map (fun t => (t.drainReq, t.run)))) =
      some (.running, [(false, .running), (false, .running)]) := by decide +kernel

/-! ### Tiles, cells and stacks -/

/-- A tile of stream `id` with SEQ `seq` and no payload. -/
def tl (id seq : Nat) : Tile := { tile0 with hdr := { tile0.hdr with streamId := BitVec.ofNat 32 id, seq := BitVec.ofNat 32 seq, format := 0x05#8 } }
/-- The bundle whose stream 0 is `r` and stands as `y`. -/
def bS (r : StreamRec) (y : Machine.Stream) (st : Station) : Bundle :=
  { bun 0 st with img := { img 0 with streams := [r] }, streams := [y] }
/-- Stream 14 comes from another module to station 0. -/
def rRem : StreamRec := { recStream 14 0 0xFFFF 0 with remote := 5, remoteValid := 1 }
def yFly : Machine.Stream := { stm [] with flight := [⟨tl 10 6, [0]⟩] }
theorem test_tile_hop : (streamAt (mod1 (bS (recStream 10 0 0 1) yFly (stn 0 0))) 0 0).map (fun v => (oldestFor v.x 0).isSome) = some true ∧
    (hasRoom ⟨1, 4, 5⟩ ⟨[], 7#32, [], false, 0, false⟩) = true ∧ (hasRoom ⟨1, 1, 5⟩ ⟨[⟨tl 10 5, none⟩], 7#32, [], false, 0, false⟩) = false ∧
    ((slotBundle (after (.tileHop 0 0 0 true hop0) (mod1 (bS (recStream 10 0 0 1) yFly (stn 0 0)))) 0).bind (fun b => b.streams[0]?)).map
      (fun y => (y.flight, y.ends.map (·.queue))) = some ([], [[⟨tl 10 6, none⟩]]) := by decide +kernel
/-- A module with one link whose receive buffer holds a tile of stream 14 with SEQ `seq`. -/
def lnk (inbox : List Arrival) : Link :=
  { farPostcode := 5, farPort := 0, farKind := 1, chans := [0], lanes := [0], st := .up, downSince := 0, trained := 0, reduced := false, txNext := 0, rxNext := 0
    retrying := false, replay := [], credits := [600, 600, 600, 600], freed := [0, 0, 0, 0], txq := [[], [], [], []], round := 0, rx := [[], [], [], []], inbox := inbox
    quiesced := false, changing := false, tofDone := true, creditWait := [], spare := none, sent := 0 }
def sA (y : Machine.Stream) (seq : Nat) : State :=
  let s := mod1 (bS rRem y (stn 0 0))
  { s with fab := { s.fab with links := [(0, lnk [⟨0, postcode State.reset, tl 14 seq, 1⟩])] } }
theorem test_arrival_in_order : (streamById (sA (stm []) 7) 14 (fun _ => true)).isSome = true ∧ fromRemote rRem = true ∧ (linkOf (sA (stm []) 7) 0).isSome = true ∧
    ((slotBundle (after (.remoteTileArrival 0 0) (sA (stm []) 7)) 0).bind (fun b => b.streams[0]?)).map (fun y => (y.flight.length, y.ends.map (·.nextSeq))) = some (1, [8#32]) := by
  decide +kernel
theorem test_arrival_early : laterThan 9#32 7#32 = true ∧ reorderUsed (sA (stm []) 9) 0 < 256 ∧
    ((slotBundle (after (.remoteTileArrival 0 0) (sA (stm []) 9)) 0).bind (fun b => b.streams[0]?)).map (fun y => (y.flight.length, y.ends.map (fun e => (e.nextSeq, e.reorder.length)))) =
      some (0, [(7#32, 1)]) := by decide +kernel
theorem test_arrival_repeat : laterThan 6#32 7#32 = false ∧
    ((slotBundle (after (.remoteTileArrival 0 0) (sA (stm []) 6)) 0).bind (fun b => b.streams[0]?)).map (fun y => (y.flight.length, y.ends.map (fun e => (e.nextSeq, e.discarded)))) =
      some (0, [(7#32, 1)]) := by decide +kernel
def yGap : Machine.Stream := { stm [] with ends := [⟨[], 7#32, [tl 14 9], false, 0, false⟩] }
theorem test_gap : (slotBundle (after (.streamGapTimeout 0 0) (mod1 (bS rRem yGap (stn 0 0)))) 0).map (fun b => (b.st, b.streams.map (fun y => y.ends.map (fun e => (e.broken, e.reorder))))) =
    some (.held, [[(true, [])]]) := by decide +kernel
theorem test_host_admit : (streamById sC 12 (fun r => r.kind == 4 && r.producer == 0xFFFF)).isSome = true ∧ headerFault 0x05 (tl 12 0).hdr = none ∧
    maxInflight (recStream 12 4 0xFFFF 0) ≠ 0 ∧ (after (.hostTileAdmit (tl 12 0)) sC).out = [.sendAck 12#32] ∧
    ((slotBundle (after (.hostTileAdmit (tl 12 0)) sC) 0).bind (fun b => b.streams[2]?)).map (fun y => (y.nextSeq, y.flight.length)) = some (8#32, 1) := by decide +kernel
/-- As many tiles under way as the stream may have. -/
def yFull : Machine.Stream := { stm [] with flight := List.replicate 32 ⟨tl 12 1, [0]⟩ }
theorem test_host_rnr : maxInflight (recStream 12 4 0xFFFF 0) ≤ 32 ∧
    after (.hostTileAdmit (tl 12 0)) (mod1 (bS (recStream 12 4 0xFFFF 0) yFull (stn 0 0))) = emit (mod1 (bS (recStream 12 4 0xFFFF 0) yFull (stn 0 0))) (.rnr 12#32) := by decide +kernel
theorem test_host_receive : (streamById sC 13 (fun r => r.kind == 4 && r.producer != 0xFFFF)).isSome = true ∧
    ((slotBundle (after (.hostReceivePosted 13#32 2) sC) 0).bind (fun b => b.streams[3]?)).map (·.receives) = some 2 := by decide +kernel
theorem test_rdma_write : ((after (.rdmaWriteStage 1 true 1 [7#8, 8#8]) { sC with stages := [⟨1, 1, 4, []⟩] }).stages.map Stage.data) = [[0#8, 7#8, 8#8, 0#8]] ∧
    0 < sC.roceRate := by decide +kernel
theorem test_cell_failure : goodCell sC 0 = true ∧ SMap.find sC.pl.retired 0 ≠ some .hard ∧ stationOn sC 9 = none ∧
    (slotBundle (after (.cellHardFailure 0) sC) 0).map (fun b => (b.st, b.stations.map (·.run))) = some (.faulted, [.faulted, .held]) := by decide +kernel
theorem test_relocate_pending : movable { stn 0 0 with relocating := true } = false ∧
    (stationAt (after (.relocatePendingTimeout 0) (s1 { stn 0 0 with relocating := true })) 0 0).map (·.relocReported) = some true := by decide +kernel
theorem test_scratch_patrol : queuedOf (bun 0 (stn 0 0)) 0 = [] ∧ retiredCell sC 0 = false ∧
    (([⟨0, 3, 1#8⟩, ⟨0, 4, 1#8⟩, ⟨0, 5, 1#8⟩].foldl Mem.upset (stn 0 0).scratch).scrub 0 (scratchWords (recS 0))).ce = 0 ∧ OnCell sC 0 (x1 (stn 0 0)) :=
  ⟨by decide +kernel, by decide +kernel, by decide +kernel, onCell _ _ _ _ _ rfl rfl rfl⟩
/-- A module whose stack 0 is as given. -/
def sK (k : Stack) : State := { sC with dies := ⟨[], [k, Stack.wiped]⟩ :: List.replicate 7 Die.reset }
def kUp : Stack := { Stack.wiped with wiping := false, repairing := [65536 + 2] }
theorem test_stack_patrol : stackOf (sK kUp) 0 = some kUp ∧ kUp.failed = false ∧ kUp.wiping = false ∧
    fldAt (after (.stackPatrol 0 ⟨[⟨5, 3, 1#8⟩], []⟩) (sK kUp)) F.memStkStatScrubPass 0 0 0 = 1 := by decide +kernel
theorem test_row_repair : (stackOf (after (.rowRepairDone 0 1 2) (sK kUp)) 0).map (fun k => (k.repairing, SMap.getD k.repaired 1 [])) = some ([], [2]) := by decide +kernel
theorem test_wipe_timeout : Stack.wiped.wiping = true ∧ onStack (bun 0 (stn 0 0)) 0 = true ∧
    (slotBundle (after (.stackWipeTimeout 0) sC) 0).map (·.st) = some .faulted := by decide +kernel

/-! ### Power, temperature, optical engines -/

/-- Session 1, as the origin of a register access, and a bundle that runs in frames. -/
def oC : Origin := .session 1
theorem test_served : Served sC oC true ∧ Served sC oC false := ⟨by unfold Served; decide +kernel, by unfold Served; decide +kernel⟩
def bFr (fs : List Frame) : Bundle :=
  { bun 0 (stn 0 0) with img := { img 0 with limits := { (img 0).limits with framePeriod := 1000 } }, frameK := 3, frames := fs, frameS0 := 100 }
theorem test_frame_start : (slotBundle (after (.frameStartTimer 0) (mod1 (bFr []))) 0).map (fun b => (b.frameK, b.frames)) = some (4, [⟨3, 3000100, false⟩]) := by
  decide +kernel
theorem test_frame_late : (bFr [⟨3, 0, false⟩]).frames.find? (fun f => f.number == 3 && !f.late) = some ⟨3, 0, false⟩ ∧
    (slotBundle (after (.frameDeadlineExpiry 0 3) (mod1 (bFr [⟨3, 0, false⟩]))) 0).map (·.frames) = some [⟨3, 0, true⟩] ∧
    fldAt (after (.frameDeadlineExpiry 0 3) (mod1 (bFr [⟨3, 0, false⟩]))) F.paceFrmLateCount 0 0 0 = 1 := by decide +kernel
theorem test_late_summary : (after .frameLateSummary { sC with active := none, pace := { sC.pace with lateHeld := 2 } }).heldReports.map (fun r => (r.code, r.summary, r.detail)) =
    [(C.frameLate, true, [2#8, 0#8, 0#8, 0#8])] := by decide +kernel
/-- A module above its cap, and within it. -/
def sPw (cap : Nat) (braked : Bool) : State :=
  { sC with regs := [((⟨.pwrCap, 0, 0, 0⟩ : RegRef).addr, BitVec.ofNat 32 cap)], pace := { sC.pace with setting := [(0, 700), (1, 800)], brakeDies := if braked then [0] else [] } }
theorem test_cap : fld (sPw 1000 true) F.pwrCapCapW = 1000 ∧ braked (sPw 1000 true) 0 = true ∧ braked (sPw 1000 false) 0 = false ∧
    settingOf (after (.powerCapTick 48000 100 1100 [(1, 10, 90)] []) (sPw 1000 false)) 1 ≤ 800 := by decide +kernel
theorem test_brake : sC.pace.brakeCur = false ∧ (after .brakeOvercurrent sC).pace.brakeCur = true ∧
    after .brakeOvercurrent { sC with pace := { sC.pace with brakeCur := true } } = { sC with pace := { sC.pace with brakeCur := true } } ∧
    (after .brakeOverpower sC).pace.brakePow = true ∧ dieCool sC 0 = true ∧ (after (.brakeRelease 3 0) { sC with pace := { sC.pace with brakeDies := [0, 1] } }).pace.brakeDies = [1] := by
  decide +kernel
-- the bundle's share is 300 W; the least cap is 200 W
theorem test_cap_write : fld (after (.pwrCapWrite oC 2000) sC) F.pwrCapCapW = 2000 ∧ (after (.pwrCapWrite oC 100) sC).out = [.reg oC C.pwrCapRange 0] ∧
    (after (.pwrEnergyLoRead oC) { sC with pace := { sC.pace with energy := 42949672965 } }).out = [.reg oC C.ok 0] ∧
    (after (.pwrEnergyLoRead oC) { sC with pace := { sC.pace with energy := 42949672965 } }).pace.energyHi = 1#32 := by decide +kernel
theorem test_temperature : domainExists sC.ident 0 = true ∧ governed 0 = true ∧ fldAt (after (.temperatureSample [(0, 400, 0)]) sC) F.domTempTemp 0 0 0 = 400 ∧
    (after (.temperatureSample [(0, 400, 0)]) sC).pace.brakeDies = [0] ∧ (after (.temperatureSample [(0, 440, 0)]) sC).pace.shut = [.die 0] ∧
    (after (.temperatureSample [(0, 399, 0)]) sC).pace.brakeDies = [] := by decide +kernel
theorem test_ageing : fldAt (after (.ageingMeasure 0 1010 1000 [(630, 77)]) sC) F.domAgeShift 0 0 0 = 100 ∧
    SMap.find (after (.ageingMeasure 0 1010 1000 [(630, 77)]) sC).pace.curve 0 = some [(630, 77)] := by decide +kernel
theorem test_eol : (∀ e ∈ sC.pace.means, e.1 / 65536 ≠ 0) ∧ SMap.find (after (.eolPrediction [(1, 2, 500)]) sC).pace.means 65538 = some [500] := by decide +kernel

/-- A lane in a state. -/
def ln (st : LaneState) : Lane := { Lane.rest with st := st }
/-- A module whose engine 0 has port 0 lit with channel 0 and λS dropped, in the states given; both reach port 1 of module 5. -/
def sO (a s : Lane) : State :=
  { sC with
    optics := { Optic.reset with pairs := [(0, ⟨0xFE, true, true, false⟩)], lanes := [(0, a), (8, s)], lasers := [(0, ⟨.inUse, false, 0, 0⟩), (16, ⟨.inUse, false, 0, 0⟩)] } :: List.replicate 3 Optic.reset
    fab := { sC.fab with ident := [(0, ⟨1, 5, 1, 0, 1, 0, 0, 0, 1⟩), (8, ⟨1, 5, 1, 8, 1, 0, 0, 0, 1⟩)] } }
/-- The module with its postcode valid and every element of engine 0 calibrated. -/
def litEng (s : State) : State :=
  { setFld s F.fabPostcodeValid 1 with
    cal := { s.cal with items := (List.range 400).map (fun i => (if i < 200 then i else 2872 + i, ⟨.measured, false, false, false, false, 0, none, 0, 0, 0, [], false, false, false, 0⟩)) } }
/-- How lane (0, 0) and λS of port 0 stand after a command. -/
def lanes (i : Instr) (s : State) : LaneState × LaneState × Nat := ((laneOf (after i s) 0 0 0).st, (laneOf (after i s) 0 0 8).st, (laneOf (after i s) 0 0 0).cause)
theorem test_lane_fails : covered (sO (ln .active) (ln .spareIdle)) 0 0 = none ∧ spareReaches (sO (ln .active) (ln .spareIdle)) 0 0 0 = true ∧
    lanes (.laneLossOfLight 0 [(0, 0)]) (sO (ln .active) (ln .spareIdle)) = (.spared, .covering, 1) ∧
    lanes (.laneErrorRatio 0 0 0) (sO (ln .active) (ln .dark)) = (.dropped, .dark, 2) ∧ lanes (.laneFarEndFail 0 0 0) (sO (ln .active) (ln .dark)) = (.dropped, .dark, 7) := by
  decide +kernel
theorem test_lane_margin : lanes (.marginTestComplete 0 0 0 4026 4026 7) (sO (ln .margin) (ln .dark)) = (.active, .dark, 0) ∧
    lanes (.marginTestComplete 0 0 0 4027 0 7) (sO (ln .margin) (ln .dark)) = (.held, .dark, 6) := by decide +kernel
theorem test_lane_retry : canRetry (litEng (sO { ln .dropped with cause := 1 } (ln .dark))) 0 0 0 = true ∧
    lanes (.laneRetry 0 0 0 true) (litEng (sO (ln .dropped) (ln .dark))) = (.training, .dark, 0) ∧
    laneOf (after (.lightReturnRetry 0 0 0 false) (litEng (sO { ln .dropped with cause := 1 } (ln .dark)))) 0 0 0 = { ln .dropped with cause := 1, retries := 1 } := by
  decide +kernel
theorem test_lane_no_retry : lightReady (sO (ln .dropped) (ln .dark)) 0 = false ∧ (sO (ln .dropped) (ln .dark)) = after (.lightReturnRetry 0 0 0 false) (sO (ln .dropped) (ln .dark)) ∧
    canRetry (litEng (sO { ln .dropped with retries := 15 } (ln .dark))) 0 0 0 = false := by decide +kernel
/-- The module with the far end of lane (0, 0) expected. -/
def sExp (st : LaneState) : State := { sO (ln st) (ln .dark) with regs := [((⟨.fabExpect, 0, 0, 0⟩ : RegRef).addr, BitVec.ofNat 32 (5 + 1 * 2 ^ 16 + 1 * 2 ^ 21))] }
theorem test_lane_training : lanes (.laneTrainingTimeout 0 0 0) (sExp .training) = (.dropped, .dark, 8) ∧ identMatch (sExp .training) 0 0 ⟨1, 5, 1, 0, 1, 0, 0, 0, 1⟩ = 1 ∧
    (laneOf (after (.laneTrainingComplete 0 0 0) (sExp .training)) 0 0 0).st = .margin ∧
    identMatch (sO (ln .training) (ln .dark)) 0 0 ⟨1, 5, 1, 0, 1, 0, 0, 0, 1⟩ = 3 ∧ (laneOf (after (.laneTrainingComplete 0 0 0) (sO (ln .training) (ln .dark))) 0 0 0).st = .dark := by
  decide +kernel
theorem test_cal_cover : lanes (.calCoverSwitchPoint 0 0 ⟨0, false⟩) (sO { ln .active with planned := true } (ln .spareIdle)) = (.cal, .covering, 0) ∧
    lanes (.spareMarginTest 0 0 4026 4027) (sO (ln .active) (ln .spareIdle)) = (.active, .held, 0) := by decide +kernel

/-- A module whose engine 0 has one element and two lasers as given. -/
def sE (el : Elem) (a b : Laser) (h : Option Handover) (busy : Bool) : State :=
  { sC with optics := { Optic.reset with elems := [(0, el)], lasers := [(0, a), (1, b)], handover := match h with | some x => [(0, x)] | none => [], busy := busy } :: List.replicate 3 Optic.reset }
def el0 (st : ElemState) (good : Nat) : Elem := { Elem.rest with st := st, good := good }
def las (st : LaserState) : Laser := ⟨st, false, 0, 0⟩
/-- The lasers of channel 0 and its handover after a command. -/
def lasers (i : Instr) (s : State) : LaserState × LaserState × Option Handover :=
  (((opticOf (after i s) 0).laser 0).st, ((opticOf (after i s) 0).laser 1).st, SMap.find (opticOf (after i s) 0).handover 0)
theorem test_element_locks : ((opticOf (after (.elementLoopSample 0 [(0, 1, 2, true)] []) (sE (el0 .steering 9) (las .off) (las .off) none false)) 0).elem 0) =
    { Elem.rest with st := .locked, good := 10, error := 1, heater := 2 } := by decide +kernel
theorem test_element_trips : ((opticOf (after (.elementTrip 0 0 false) (sE (el0 .locked 9) (las .off) (las .off) none false)) 0).elem 0).st = .tripped := by decide +kernel
theorem test_identity : ((opticOf (after (.identityCheck 0 0 [] 0 true) (sE (el0 .locked 9) (las .off) (las .off) none false)) 0).elem 0).identOk = true ∧
    ((opticOf (after (.identityCheck 0 0 [(1, 5)] 0 true) (sE (el0 .locked 9) (las .off) (las .off) none false)) 0).elem 0).st = .steering := by decide +kernel
theorem test_laser_handover : lasers (.laserHandoverTrigger 0 0) (sE (el0 .safe 0) (las .inUse) (las .off) none false) = (.inUse, .warming, some .warming) ∧
    lasers (.laserHandoverTrigger 0 0) (sE (el0 .safe 0) (las .inUse) (las .retired) none false) = (.inUse, .retired, none) ∧
    lasers (.laserSpareLocked 0 0) (sE (el0 .safe 0) (las .inUse) (las .warming) (some .warming) false) = (.inUse, .lockedDark, some .announced) ∧
    lasers (.laserSpareLocked 0 0) { sE (el0 .safe 0) (las .inUse) (las .warming) (some .warming) false with active := none } = (.inUse, .lockedDark, some .locked) ∧
    lasers (.handoverWindowOpen 0 0) (sE (el0 .safe 0) (las .inUse) (las .lockedDark) (some .announced) false) = (.retired, .inUse, none) := by decide +kernel
theorem test_laser_fail : lasers (.laserFail 0 0) (sE (el0 .safe 0) (las .inUse) (las .lockedDark) none false) = (.retired, .inUse, none) ∧
    lasers (.laserFail 0 0) (sE (el0 .safe 0) (las .inUse) (las .off) none false) = (.retired, .warming, some .warming) := by decide +kernel
theorem test_steer : (after (.optSteerGo oC 0 1) (sE (el0 .safe 0) (las .inUse) (las .off) none true)).out = [.reg oC C.optSteerBusy 0] ∧
    stagedOk sC 0 = true ∧ (after (.optSteerGo oC 0 1) sC).out = [.reg oC C.ok 0] ∧ (opticOf (after (.optSteerGo oC 0 1) sC) 0).busy = true ∧
    (opticOf (after (.steerDone 0) (sE (el0 .safe 0) (las .inUse) (las .off) none true)) 0).busy = false ∧
    fldAt (after (.steerDone 0) (sE (el0 .safe 0) (las .inUse) (las .off) none true)) F.optEventSteerDone 0 0 0 = 1 := by decide +kernel
/-- Staged settings that may not be committed. -/
def sBad : State := { sC with regs := [((⟨.optPath, 0, 0, 0⟩ : RegRef).addr, 0x000301FE#32)] }
theorem test_steer_invalid : stagedOk sBad 0 = false := by decide +kernel

/-! ### The fabric -/

theorem test_lane_training_expected : identMatch { sO (ln .training) (ln .dark) with regs := [((⟨.fabExpect, 0, 0, 0⟩ : RegRef).addr, BitVec.ofNat 32 (5 + 2 ^ 16 + 2 ^ 21))] } 0 0
      ⟨1, 5, 1, 0, 1, 0, 0, 0, 1⟩ = 1 ∧
    (laneOf (after (.laneTrainingComplete 0 0 0) { sO (ln .training) (ln .dark) with regs := [((⟨.fabExpect, 0, 0, 0⟩ : RegRef).addr, BitVec.ofNat 32 (5 + 2 ^ 16 + 2 ^ 21))] }) 0 0 0).st = .margin := by
  decide +kernel
/-- A module with one link, at key 0. -/
def sLk (l : Link) : State := { sC with fab := { sC.fab with links := [(0, l)] } }
def ft (body : FlitBody) (seq ack : Nat) : Flit := ⟨0, true, true, 0, seq, ack, [], body⟩
/-- The link after a command. -/
def lk (i : Instr) (l : Link) : Option Link := linkOf (after i (sLk l)) 0
theorem test_flit_lost : (lk (.flitReceive 0 0 1 false (ft .idle 0 0)) (lnk [])).map (fun l => (l.rxNext, l.retrying)) = some (0, true) ∧
    (lk (.flitReceive 0 0 0 true (ft (.tile []) 1 0)) (lnk [])).map (fun l => (l.rxNext, l.retrying)) = some (0, true) := by decide +kernel
theorem test_flit_idle : (lk (.flitReceive 0 0 0 true (ft .idle 0 4)) { lnk [] with replay := [ft .idle 4 0, ft .idle 5 0] }).map (fun l => l.replay.map (·.seq)) = some [5] ∧
    (∀ q ∈ (lnk []).txq, q = []) := by decide +kernel
theorem test_flit_tile : (lk (.flitReceive 0 0 0 true (ft (.tile []) 0 0)) (lnk [])).map (fun l => (l.rxNext, l.inbox.length)) = some (1, 1) := by decide +kernel
theorem test_link_retry : ((after (.linkRetryFlit 0 5) (sLk { lnk [] with replay := [ft .idle 4 0, ft .idle 5 0] })).out.length) = 1 := by decide +kernel
theorem test_link_laneset : twoNet sC = false ∧ (lk (.linkLanesetFlit 0 []) (lnk [])).map (fun l => (l.st, l.lanes)) = some (.down, []) ∧
    (lk (.linkLanesetFlit 0 [1]) (lnk [])).map (fun l => (l.st, l.lanes)) = some (.up, [1]) := by decide +kernel
theorem test_link_quiesce_lost : (lk (.linkQuiesceFlit 0) (lnk [])).map (·.quiesced) = some true ∧ (lk (.linkLostTimer 0) { lnk [] with st := .down }).map (·.st) = some .lost ∧
    (lk (.linkLostTimer 0) (lnk [])).map (·.st) = some .up := by decide +kernel
theorem test_tof : SMap.find (sLk { lnk [] with tofDone := false }).fab.tofWait 0 = none ∧
    fldAt (after (.tofMeasurement 0 false 1000 400) (sLk { lnk [] with tofDone := false })) F.fabTofTof 0 0 0 = 300 ∧
    SMap.find (after (.tofLambdaWaitTimeout 0) { sLk (lnk []) with fab := { (sLk (lnk [])).fab with tofWait := [(0, 5)] } }).fab.tofWait 0 = none := by decide +kernel
theorem test_echo : (after (.linkEchoFlit 0 7 9) (sLk (lnk []))).out.length = 1 ∧ (lk (.linkEchoFlit 0 7 9) (lnk [])).map (fun l => l.replay.map (·.body)) = some [.link (.echoReply 7 9)] ∧
    (lk (.linkEchoFlit 0 7 9) { lnk [] with st := .down }).map (fun l => l.replay) = some [] := by decide +kernel
theorem test_ident : (opticOf (sO (ln .lighting) (ln .dark)) 0).dropped 0 0 = true ∧ canFail (laneOf (sO (ln .lighting) (ln .dark)) 0 0 0).st = false ∧
    identOf (after (.linkIdentFlit 0 0 1 6 2 0 1 3 4 5) (sO (ln .lighting) (ln .dark))) 0 0 = some ⟨1, 6, 2, 0, 1, 3, 4, 5, 0⟩ := by decide +kernel
/-- λS idle at both ports of pair 0, whose data channels are in DROP. -/
def sLoop : State :=
  { sC with optics := { Optic.reset with pairs := [(0, ⟨0, true, true, false⟩)], lanes := [(8, ln .spareIdle), (17, ln .spareIdle)] } :: List.replicate 3 Optic.reset }
theorem test_tof_loop : ((opticOf (after (.tofLoopRequest 0 0 false) sLoop) 0).pair 0).loop = true ∧ (laneOf (after (.tofLoopRequest 0 0 false) sLoop) 0 0 8).st = .through := by decide +kernel

/-- A module whose books and re-cable are as given: entry 20 of the shadow book names port `p`. -/
def sR (loaded : Bool) (r : Recable) (entry : Nat) : State :=
  let s := setFld sC F.fabPostcodeValid 1
  { s with pl := if loaded then s.pl else State.reset.pl, fab := { s.fab with recable := r, shadow := [(20, entry)] } }
theorem test_route_swap : badEntry (sR true .idle 0x20) = none ∧ badEntry (sR true .idle 0x3F) = some 20 ∧
    (after (.fabRbSwap oC 1) (sR true .idle 0x20)).fab.active = [(20, 0x20)] ∧ (after (.fabRbSwap oC 1) (sR true .paused 0x20)).out = [.reg oC C.fabRecableBusy 0] ∧
    fld (after (.fabRbSwap oC 1) (sR true .idle 0x3F)) F.fabRbErrIndex = 20 ∧ (after (.fabRbCopy oC 2) (sR true .idle 0x20)).fab.shadow = [] := by decide +kernel
theorem test_route_data : (after (.fabRbDataAccess oC (some 7)) (sR true .idle 0x20)).fab.shadow = [(0, 7), (20, 0x20)] ∧
    (after (.fabRbDataAccess oC (some 7)) (sR true .paused 0x20)).out = [.reg oC C.fabRecableBusy 0] ∧
    (after (.fabRbActiveRead oC) (sR true .idle 0x20)).out = [.reg oC C.ok 0] := by decide +kernel
theorem test_recable : postcodeValid (sR true .idle 0x20) = true ∧ (∀ e, e < 4 → stagedOk (sR true .idle 0x20) e = true) ∧
    (after (.fabRecableGo oC 5) (sR true .idle 0x20)).fab.recable = .quiescing ∧ (after (.fabRecableGo oC 1) (sR true .paused 0x20)).out = [.reg oC C.fabRecableBusy 0] ∧
    (after (.fabRecableResume oC 2) (sR true .paused 0x20)).fab.recable ≠ .paused ∧ (after (.fabRecableResume oC 2) (sR true .idle 0x20)).fab.recable = .idle := by decide +kernel
theorem test_postcode : anyLoaded (sR true .idle 0x20) = true ∧ (after (.fabPostcodeWrite oC 7) (sR true .idle 0x20)).out = [.reg oC C.regLocked 0] ∧
    anyLoaded (sR false .idle 0x20) = false ∧ postcode (after (.fabPostcodeWrite oC 0x10007) (sR false .idle 0x20)) = 7 := by decide +kernel
theorem test_expect : (after (.fabExpectBypassWrite oC false 31 8 5) (sR true .paused 0x20)).out = [.reg oC C.fabRecableBusy 0] ∧
    fldAt (after (.fabExpectBypassWrite oC false 31 8 0x210005) (sR true .idle 0x20)) F.fabExpectNbr 0 31 8 = 5 ∧
    fldAt (after (.fabExpectBypassWrite oC true 31 8 0x210005) (sR true .idle 0x20)) F.fabBypassValid 0 31 8 = 1 := by decide +kernel
theorem test_quiesce : busyLinks (sR true .quiescing 0x20) = [] ∧ (after .quiesceIdle (sR true .quiescing 0x20)).fab.recable ≠ .quiescing ∧
    busyLinks { sLk { lnk [] with replay := [ft .idle 0 0] } with fab := { (sLk { lnk [] with replay := [ft .idle 0 0] }).fab with recable := .quiescing, changing := [0] } } = [0] := by
  decide +kernel

/-- An all-to-all among two modules of one tile each, whose stages lie in region 0 of station 0; this module has rank 0. -/
def rColl : StreamRec := { recStream 15 3 0 0 with param := [3#8, 0#8, 2#8, 0#8, 0#8, 0#8, 0#8, 0#8, 1#8, 0#8, 0#8, 0#8, 1#8, 0#8, 0#8, 0#8] ++ List.replicate 16 0#8, peers := [0, 5] }
def sCo (c : Coll) (seq sends : Nat) : State :=
  let s := mod1 (bS rColl { stm [] with coll := { c with sends := sends } } (stn 0 0))
  { s with fab := { s.fab with links := [(0, lnk [⟨0, postcode State.reset, tl 15 seq, 1⟩])], active := [(20, 0x20)] } }
/-- The module with its postcode valid. -/
def valid (s : State) : State := setFld s F.fabPostcodeValid 1
def coll1 : Coll := { noColl with active := true, started := true }
theorem test_coll_tile : (collView (sCo coll1 1 0) 0 0).map (fun v => (v.p.width, v.p.op, transferNow v (tl 15 1), v.stack, (v.p.sends 0).isEmpty, (stackOf (sCo coll1 1 0) v.stack).isSome, stepReceived v.p coll1 0)) =
      some (2, 3, true, 0, false, true, false) ∧ (collStream (sCo coll1 1 0) 15#32).map (fun w => (w.slot, w.si)) = some (0, 0) := by decide +kernel
theorem test_coll_repeat : ((slotBundle (after (.collTransferTile 0 0) (sCo { coll1 with applied := [(0, 1)] } 1 0)) 0).bind (fun b => b.streams[0]?)).map (fun y => y.coll.applied) =
      some [(0, 1)] := by decide +kernel
theorem test_coll_ack : ((slotBundle (after (.collStepAck 15#32 0) (sCo coll1 1 0)) 0).bind (fun b => b.streams[0]?)).map (fun y => y.coll.acked) = some true ∧
    (slotBundle (after (.collPeerAbort 15#32) (sCo coll1 1 0)) 0).map (·.st) = some .faulted := by decide +kernel
theorem test_coll_timeout : route (sCo coll1 1 3) 5 0 none (some 1) = some (0, 0) ∧
    ((slotBundle (after (.collStepTimeout 0 0) (valid (sCo { coll1 with option := 1 } 1 3))) 0).bind (fun b => b.streams[0]?)).map (fun y => (y.coll.sends, y.coll.option)) = some (4, 0) ∧
    (slotBundle (after (.collStepTimeout 0 0) (sCo coll1 1 4)) 0).map (·.st) = some .faulted := by decide +kernel

/-! ### The servo loop engines -/

/-- A module whose active engine has an AIN as the measured input of loop 0, with loop 0 and input 0 as given, and the selection. -/
def sV (l : LoopState) (inp : Input) (kind : Nat) (cap : CapState) : State :=
  let g := { Servo.reset with params := [(paramKey 0 0 0x20 0, 1#32), (paramKey 1 0 0x30 0, 2#32), (paramKey 1 0 0x33 0, 100#32)],
                              loops := [(0, { Loop.rest with st := l, sat := 1 })], inputs := [(0, inp)], cap := { Servo.reset.cap with st := cap } }
  let s := { sC with regs := [((⟨.srvSel, 0, 0, 0⟩ : RegRef).addr, BitVec.ofNat 32 kind)] }
  { s with engA := g }
theorem test_srv_close : (engOf (sV .open_ Input.rest 0 .idle) .ha).closeReason 0 = 0 ∧ ((engOf (after (.srvClose oC) (sV .open_ Input.rest 0 .idle)) .ha).loop 0).st = .closed ∧
    (engOf sC .ha).closeReason 0 = 1 ∧ (after (.srvClose oC) sC).out = [.reg oC C.srvCloseInvalid 0] ∧ (after (.srvClose oC) (sV .open_ Input.rest 1 .idle)).out = [.reg oC C.srvParamInvalid 0] := by
  decide +kernel
theorem test_srv_open : ((engOf (after (.srvOpen oC) (sV .closed Input.rest 0 .idle)) .ha).loop 0).st = .open_ := by decide +kernel
theorem test_srv_rearm : ((engOf (after (.srvRearm oC) (sV .open_ { Input.rest with st := .masked, count := 5 } 1 .idle)) .ha).input 0) = { Input.rest with count := 5 } := by decide +kernel
theorem test_srv_capture : (after (.srvTestStart oC) (sV .closed Input.rest 3 .running)).out = [.reg oC C.srvCapBusy 0] ∧
    (engOf (after (.srvStop oC) (sV .closed Input.rest 3 .running)) .ha).cap.st = .idle ∧ (after (.srvTestStart oC) (sV .open_ Input.rest 3 .idle)).out = [.reg oC C.srvCloseInvalid 0] ∧
    (engOf (after (.srvTestStart oC) (sV .closed Input.rest 3 .idle)) .ha).cap.st = .running := by decide +kernel
-- N_STATES is 1 to 8
theorem test_srv_param : paramRefusal (engOf (sV .open_ Input.rest 0x100 .idle) .ha) (srvSel (sV .open_ Input.rest 0x100 .idle)) 8 = none ∧
    paramRefusal (engOf (sV .open_ Input.rest 0x100 .idle) .ha) (srvSel (sV .open_ Input.rest 0x100 .idle)) 9 = some C.srvParamInvalid ∧
    (engOf (after (.srvParamAccess oC (some 8)) (sV .open_ Input.rest 0x100 .idle)) .ha).nStates 0 = 8 ∧ paramInfo 0 0 1 = some (.open_, 1) ∧ elemOk 0 1 1 0 = true ∧
    (after (.srvParamAccess oC none) (sV .open_ Input.rest 0x100 .idle)).out = [.reg oC C.ok 1#32] := by decide +kernel
theorem test_servo_sample : (engOf (sV .closed Input.rest 0 .idle) .ha).closed 0 = true ∧ (engOf (sV .closed Input.rest 0 .idle) .ha).pace 0 = 0xFF ∧
    (∀ k, k < 32 → (engOf (sV .closed Input.rest 0 .idle) .ha).pace k ≠ 0) ∧ (engOf (sV .closed Input.rest 0 .idle) .ha).blocked ((engOf (sV .closed Input.rest 0 .idle) .ha).srcY 0 0) = false ∧
    ((engOf (after (.servoSample [0] [] []) (sV .closed { Input.rest with st := .masked } 0 .idle)) .ha).loop 0).cause = 2 := by decide +kernel
theorem test_servo_sat : ((engOf (after (.servoSatTrip 0) (sV .closed Input.rest 0 .idle)) .ha).loop 0).st = .tripped := by decide +kernel
theorem test_servo_hold : SMap.find (after (.servoOutHoldExpiry 3) { sV .closed Input.rest 0 .idle with drivers := ⟨[(3, ⟨some 5, some 1, 0, 0, 0, false⟩)], []⟩ }).drivers.pins 3 =
    some ⟨some 1, some 1, 0, 0, 0, true⟩ := by decide +kernel
theorem test_pulse : firmwareRuns (hubOf sC .ha) = true ∧ isPulse 8 = true ∧ (engOf sC .ha).filtered 8 20 = true ∧ (engOf sC .ha).overruns 8 ((engOf sC .ha).stamp 8 1000) = false ∧
    ((engOf (after (.pulseEdge 8 true 1000 20) sC) .ha).input 8).last = some 968 := by decide +kernel
/-- An edge 1 ns after the last. -/
def sOv (i : Nat) : State := { sC with engA := { Servo.reset with inputs := [(i, { Input.rest with last := some 968 })], params := [(paramKey 1 0 0x30 0, 2#32)] } }
theorem test_pulse_overrun : (engOf (sOv 8) .ha).overruns 8 ((engOf (sOv 8) .ha).stamp 8 1001) = true ∧
    ((engOf (after (.pulseEdge 8 true 1001 20) (sOv 8)) .ha).input 8).overs = 1 ∧ ((engOf (after (.pulseEdge 8 true 1001 20) (sOv 8)) .ha).input 8).st = .overrun := by decide +kernel
theorem test_ain : (engOf (sOv 0) .ha).mode 0 = 2 ∧ (engOf (sOv 0) .ha).overruns 0 969 = true ∧ (engOf (sOv 0) .ha).overruns 0 5000 = false ∧
    ((engOf (after (.ainEvent 0 5000) (sOv 0)) .ha).input 0).last = some 5000 ∧ ((engOf (after (.ainEvent 0 969) (sOv 0)) .ha).input 0).overs = 1 := by decide +kernel
/-- A bundle whose frames FSYNC 0 starts. -/
def bFs : Bundle := { bFr [] with img := { (bFr []).img with limits := { (bFr []).img.limits with frameStart := 1 } } }
theorem test_fsync : ((mod1 bFs).pl.slots.map (fun e => e.1)).Nodup ∧ (engOf (mod1 bFs) .ha).overruns 24 ((engOf (mod1 bFs) .ha).stamp 24 1000) = false ∧
    (slotBundle (after (.fsyncEdge 0 1000 20) (mod1 bFs)) 0).map (fun b => (b.frameK, b.frames)) = some (4, [⟨3, 968, false⟩]) ∧
    (after (.fsyncEdge 0 1001 20) { mod1 bFs with engA := (sOv 24).engA }).pl = (mod1 bFs).pl := by decide +kernel
theorem test_stuck : ((engOf (after (.inputStuck 0) (sV .open_ Input.rest 0 .idle)) .ha).input 0).st = .masked := by decide +kernel
/-- Servo input slot 0 takes stream 16, which its bundle `live` gives. -/
def sSt (live : Bool) : State :=
  let y : Machine.Stream := { stm [] with flight := [⟨{ tl 16 0 with payload := [1#8], hdr := { (tl 16 0).hdr with shape := 0x60#8 } }, [0]⟩] }
  { mod1 (bS { recStream (if live then 16 else 17) 0 0 0xFFFE with format := 2 } y (stn 0 0)) with engA := { Servo.reset with params := [(paramKey 3 0 0x40 0, 16#32)] } }
theorem test_servo_stream : slotLive (sSt false) (engOf (sSt false) .ha) 0 = false ∧ (engOf (after (.servoStreamStale 0) (sSt false)) .ha).stale = [0] ∧
    (streamAt (sSt true) 0 0).map (fun v => ((withIdx v.r.cons).find? (fun p => p.2.station == 0xFFFE), (oldestFor v.x 0).isSome)) = some (some (0, ⟨0xFFFE, 4, 5⟩), true) ∧
    ((slotBundle (after (.servoStreamTile 0 0) (sSt true)) 0).bind (fun b => b.streams[0]?)).map (·.flight) = some [] := by decide +kernel
theorem test_servo_payload : (oldestFor { stm [] with flight := [⟨{ tl 16 0 with payload := List.replicate 4096 0#8 }, [0]⟩] } 0).map (fun f => f.tile.payload.length) = some 4096 := by
  show some (List.replicate 4096 0#8).length = some 4096
  rw [List.length_replicate]

/-! ### Time, power, hubs -/

/-- Module time 5 s, with the servo on or off, its state, and PTP port 0 of hub A as given. -/
def pt (syncs : Nat) (locked : Bool) : Ptp := { Ptp.reset with ofs := 160, mpd := 10, hasOfs := true, hasMpd := true, syncs := syncs, locked := locked }
def sT (on : Nat) (st : ServoState) (p : Ptp) (slew : Int) : State :=
  let s := setFld sC F.tbCtlServo on
  { s with tb := { s.tb with sec := 5, slew := slew, incrLo := some 0x66666666#32 }, servo := { s.servo with st := st }, ha := { s.ha with ptp := [p, p] } }
theorem test_idle_time : sC.pending = [] ∧ sC.tb.total + tbIncr sC < 2 ^ 96 * 1000000000 ∧ (match step sC with | .next t => t.tb.total | _ => 0) = 0x666666666 := by decide +kernel
theorem test_servo_owns : servoOn (sT 1 .free Ptp.reset 0) = true ∧ (after (.tbAdjWrite oC 5) (sT 1 .free Ptp.reset 0)).out = [.reg oC C.timeServoOwns 0] := by decide +kernel
-- a step of −1 ns by OFFSET 0x3FFFFFFF, of −1 s from 0
theorem test_time_step : servoOn (sT 0 .manual Ptp.reset 0) = false ∧ signedOf 30 (wfld 0x7FFFFFFF F.tbAdjOffset) = -1 ∧
    (after (.tbAdjWrite oC 0x7FFFFFFF) (sT 0 .manual Ptp.reset 0)).tb.total = 5 * 10 ^ 9 * 2 ^ 32 - 2 ^ 32 ∧
    (after (.tbAdjWrite oC 0x7FFFFFFF) { sT 0 .manual Ptp.reset 0 with tb := sC.tb }).out = [.reg oC C.timeStepRefused 0] ∧
    (after (.tbAdjWrite oC 7) (sT 0 .manual Ptp.reset 0)).tb.slew = 7 * 2 ^ 32 := by decide +kernel
theorem test_incr : incrOk 0x666666666 = true ∧ incrOk 0x566666666 = false ∧ tbIncr (after (.tbIncrHiWrite oC 6) (sT 0 .manual Ptp.reset 0)) = 0x666666666 ∧
    (after (.tbIncrHiWrite oC 5) (sT 0 .manual Ptp.reset 0)).out = [.reg oC C.timeIncrRange 0] ∧ (after (.tbIncrLoWrite oC 9) (sT 0 .manual Ptp.reset 0)).tb.incrLo = some 9#32 := by decide +kernel
theorem test_servo_hand : (after (.tbServoWrite oC 0) (sT 1 .free Ptp.reset 0)).servo.st = .manual ∧ (after (.tbServoWrite oC 1) (sT 0 .manual Ptp.reset 0)).servo.st = .free ∧
    (selected (sT 0 .manual Ptp.reset 0)).hasOfs = false := by decide +kernel
theorem test_select : selectOk (sT 1 .locked (pt 0 true) 0) 1 = true ∧ selectOk (sT 1 .locked (pt 0 false) 0) 1 = false ∧
    (after (.tbSelectWrite oC 3) (sT 1 .locked (pt 0 true) 0)).servo.st = .slewing ∧ (after (.tbSelectWrite oC 3) (sT 1 .locked (pt 0 false) 0)).out = [.reg oC C.timeSwitchRefused 0] := by decide +kernel
theorem test_sec_read : (after (.tbSecLoRead oC) (sT 1 .locked (pt 0 true) 0)).out = [.reg oC C.ok 5#32] := by decide +kernel
theorem test_slew : (after .tbSlewComplete (sT 1 .slewing (pt 0 true) 5)).tb.total = (sT 1 .slewing (pt 0 true) 5).tb.total + 5 ∧ (after .tbSlewComplete (sT 1 .slewing (pt 0 true) 5)).servo.st ≠ .slewing := by
  decide +kernel
theorem test_holdover : (after .ptpSyncLoss (sT 1 .locked (pt 0 true) 5)).servo.st = .holdover ∧ (after .ptpHoldExpiry (sT 1 .holdover (pt 16 true) 0)).servo.st = .slewing ∧
    (after .ptpHoldExpiry (sT 1 .holdover (pt 15 true) 0)).servo.elapsed = true := by decide +kernel
theorem test_ptp : takesPtp { sT 1 .free Ptp.reset 0 with regs := [((⟨.ptpCfg, 0, 1, 0⟩ : RegRef).addr, 0x805#32)] } 0 0 0 = true ∧
    takesPtp { sT 1 .free Ptp.reset 0 with regs := [((⟨.ptpCfg, 0, 1, 0⟩ : RegRef).addr, 0x805#32)] } 1 0 0 = false ∧
    (hubOf (sT 1 .free Ptp.reset 0) .ha).ptp.length = 2 ∧ fldAt sC F.ptpCfgDelay 0 0 0 ≠ 1 := by decide +kernel
theorem test_ptp_sync : (after (.ptpMessageReceive .ha 0 0 (.sync 100 50)) { sT 1 .free (pt 0 false) 0 with regs := [((⟨.ptpCfg, 0, 1, 0⟩ : RegRef).addr, 0x805#32)] }).servo.st = .acquiring := by decide +kernel
theorem test_link_latency : wayLatency (sLk (lnk [])) 0 (lnk []) = Config.latency 0 1 := by
  have h1 : fldAt (sLk (lnk [])) F.fabTofTof 0 (0 / 16) ((lnk []).chans.headD 0) = 0 := by decide +kernel
  have h2 : identOf (sLk (lnk [])) (0 / 16) ((lnk []).chans.headD 0) = none := by decide +kernel
  simp only [wayLatency, h1, h2, Nat.zero_add, Nat.zero_div]
/-- Stamps that lie within the bound, and stamps beyond it, whatever the latency. -/
theorem test_link_time : linkOf (sLk (lnk [])) 0 = some (lnk []) ∧ (sLk (lnk [])).phase = .running ∧ (lnk []).st = .up ∧ (lnk []).tofDone = true ∧
    (((5 + wayLatency (sLk (lnk [])) 0 (lnk []) : Nat) : Int) - (5 + wayLatency (sLk (lnk [])) 0 (lnk []) : Nat)).natAbs ≤ 100 * (ownLimit (sLk (lnk [])) + 10) ∧
    100 * (ownLimit (sLk (lnk [])) + 0) < (((100 * ownLimit (sLk (lnk [])) + 1 + wayLatency (sLk (lnk [])) 0 (lnk []) : Nat) : Int) - (wayLatency (sLk (lnk [])) 0 (lnk []) : Nat)).natAbs := by
  refine ⟨by decide +kernel, by decide +kernel, by decide +kernel, by decide +kernel, by simp, ?_⟩
  generalize wayLatency (sLk (lnk [])) 0 (lnk []) = w
  generalize ownLimit (sLk (lnk [])) = o
  omega

/-- The module with its phase and electrical state as given. -/
def sP (p : Phase) (off latched rstLow clkLost : Bool) : State :=
  { sC with phase := p, elec := { sC.elec with off := off, latched := latched, rstLow := rstLow, clkLost := clkLost } }
theorem test_rst : (after .rstNAssert sC).phase = .resetHeld ∧ (after .rstNAssert sC).pl.slots = [] ∧ (after .refclkLoss sC).elec.clkLost = true ∧
    (after .rstNAssert (sP .unpowered false false false false)).elec.rstLow = true := by decide +kernel
theorem test_rst_release : (after .rstNRelease (sP .resetHeld false false true false)).phase = .running ∧ fld (after .rstNRelease (sP .resetHeld false false true false)) F.secResetCauseCause = 1 ∧
    (after .rstNRelease (sP .resetHeld false false true true)).phase = .resetHeld ∧ fld (after .refclkRestore (sP .resetHeld false false false true)) F.elecStatRefclkCause = 1 := by decide +kernel
theorem test_power_up : (after (.powerUp [] [] false []) (sP .unpowered false true false false)).phase = .unpowered ∧
    (after (.powerUp [] [] false []) (sP .unpowered false false false false)).phase = .running ∧ (after (.powerUp [] [] false []) (sP .unpowered false false true false)).phase = .resetHeld := by
  decide +kernel
theorem test_input_power : (after (.undervoltageOff 24999) sC).phase = .unpowered ∧ (after .overvoltageOff sC).phase = .unpowered ∧ fld (after (.inputDip 30000) sC) F.elecStatDips = 1 ∧
    fld (after (.inputWarningBandEntry 44000) sC) F.elecStatOutOfRange = 1 := by decide +kernel
theorem test_i3c : (after (.i3cSetdasa 0x2A 9) sC).ha.i3cDynamic = some 9 ∧ (after (.i3cEntdaa 9) sC).ha.i3cDynamic = some 9 := by decide +kernel

/-- A module whose hub A is as given. -/
def sH (h : HubSt) (a : Option Hub) : State := { sC with ha := h, active := a }
theorem test_lease : (after (.leaseRenewal .ha) (sH { hubUp with lease := false } none)).ha = hubUp ∧ (after (.leaseRenewal .ha) (sH { hubUp with line := false, lease := false } none)).ha.lease = false ∧
    (after (.leaseLineRise true false) (sH { hubUp with line := false, lease := false } none)).ha.lease = true ∧ (after (.leaseLineRise true true) (sH { hubUp with line := false, lease := false } none)).ha.conflict = true ∧
    (after (.leaseLineLow .ha) sC).active = none ∧ (after (.leaseLapse .ha) sC).active = none ∧ fld (after (.leaseLapse .ha) sC) F.redEventLapsed = 1 := by decide +kernel
theorem test_lease_conflict : (after (.leaseLineRise true false) { sH { hubUp with line := false } none with hb := { sC.hb with line := true } }).ha.conflict = true := by decide +kernel
theorem test_become_active : mayAct (sH { hubUp with health := .standbySync } none) .ha = true ∧ mayAct sC .ha = false ∧
    (after (.hubBecomeActive .ha) (sH { hubUp with health := .standbySync } none)).active = some .ha := by decide +kernel
theorem test_heartbeat : (after (.heartbeatLoss .ha false) sC).ha.health = .hbLost ∧ (after (.heartbeatLoss .hb false) sC).hb.health = .hbLost ∧
    (after (.heartbeatLoss .hb true) { sC with hb := { sC.hb with health := .hbLost } }).hb.isolated = true ∧
    (after .crosslinkReturn (sH { hubUp with health := .hbLost } (some .ha))).ha.health = .active := by decide +kernel
set_option maxRecDepth 4000 in
theorem test_hub_fails : (after (.hubSelfCheckFail .ha) sC).ha.health = .failed ∧ (after (.watchdogExpiry .ha) sC).ha.health = .failed ∧
    healthToggles { sC.hb with health := .failed } = false ∧
    fld (after (.watchdogExpiry .ha) { setFld sC F.redCtlWdogReset 1 with hb := { sC.hb with health := .failed } }) F.secResetCauseCause = 3 := by decide +kernel
theorem test_hub_restart : (after (.hubRestartComplete .ha) (sH { hubUp with health := .restarting } none)).ha.health = .standbyUnsync ∧
    (after (.hubRestartComplete .ha) (sH { hubUp with health := .restarting, fw := { FwImage.factory with valid := false } } none)).ha.health = .recovery ∧ isShut sC (.hub 0) = false := by decide +kernel

/-! ### Firmware, records, counters, debug access -/

def sFw (n : Nat) : State := { sC with fw := { step := n, last := 0, image := if n = 0 then none else some FwImage.factory, stage := 1 } }
theorem test_fw_busy : regGate sC oC true true = .served ∧ (after (.fwWriteStandby oC (some 1)) (sFw 1)).out = [.reg oC C.fwBusy 0] ∧ (after (.fwHandover oC 1) (sFw 1)).out = [.reg oC C.fwBusy 0] ∧
    (after (.fwAbort oC) (sFw 2)).out = [.reg oC C.fwBusy 0] ∧ (after (.fwAbort oC) (sFw 1)).fw.step = 0 ∧ (after (.fwAbort oC) (sFw 0)).out = [.reg oC C.ok 0] := by decide +kernel
theorem test_fw_bad : (fwStage sC oC 1).bind (checkImage sC) = none ∧ (after (.fwWriteStandby oC (some 1)) sC).fw.last = C.fwImageBad := by decide +kernel
theorem test_fw_write : (after (.fwWriteStandby oC none) (sFw 1)).fw.step = 2 ∧ (after (.fwWriteStandby oC none) (sFw 2)).hb.health = .restarting := by decide +kernel
theorem test_fw_handover : (after (.fwHandover oC 0) sC).ha.health = .handoverReq ∧ (after (.fwHandover oC 0) { sC with hb := { sC.hb with health := .standbyUnsync } }).fw.last = C.fwNotSync := by decide +kernel
theorem test_eth : (after (.ethLinkLoss .ha) sC).ha.link = false ∧ (after (.ethLinkReturn .hb) sC).hb.link = true ∧ fldAt sC F.ethCtlEnable 0 0 0 = 1 ∧
    ownsAddress sC .ha (linkLocal sC .ha) = true ∧ ownsAddress sC .ha [] = false ∧ (after (.arpNdIcmpEcho .ha 2 (linkLocal sC .ha) [7#8]) sC).out = [.ether .ha 2 [7#8]] := by decide +kernel
def rc (n : Nat) : Record := ⟨1, n, 0, 0, 5, 6, 0, 0, 0, 0, []⟩
theorem test_mirror : ((after (.recMirrorReceive .hb) { sC with ha := { sC.ha with recorder := { Recorder.reset with mirrorQ := [rc 3] } } }).hb.recorder.ring.map (·.seq)) = [0] ∧
    ((after (.recMirrorReceive .hb) { sC with ha := { sC.ha with recorder := { Recorder.reset with mirrorQ := [rc 3] } } }).ha.recorder.mirrorQ) = [] := by decide +kernel
theorem test_suppressed : (after (.recSuppressed .ha) { sC with ha := { sC.ha with recorder := { Recorder.reset with suppressed := [(5, 2)] } } }).ha.recorder.suppressed = [] := by decide +kernel
theorem test_optime : (after (.optimeSave 7 [.ha]) sC).optime = 7 ∧ (after (.optimeSave 7 [.ha]) sC).ha.recorder.flashBad = true := by decide +kernel
def sRec : State := { sC with ha := { sC.ha with recorder := { Recorder.reset with ring := [rc 3], nextSeq := 4 } } }
theorem test_cursor : (after (.recCursorWrite oC 3) sRec).ha.recorder.wState = 0 ∧ laterThan (BitVec.ofNat 32 4) 4 = false ∧ (after (.recCursorWrite oC 4) sRec).ha.recorder.wState = 2 ∧
    (rc 3).atOrAfter 0 6 = true ∧ (after (.recFind oC 6) sRec).ha.recorder.cursor = 3 ∧
    (after (.recRetry oC 1 true) { sC with ha := { sC.ha with recorder := { Recorder.reset with degraded := true } } }).ha.recorder.degraded = false := by decide +kernel
theorem test_counters : eventExists sC.ident 0 = false ∧ (after (.pctClr oC 1) { sC with counts := [(0, ⟨5, true⟩)] }).counts = [(0, ⟨5, false⟩)] ∧
    fldAt (after (.pctSmpEnable oC 7 0x80000000) sC) F.pctSmpCtlEnable 0 7 0 = 1 ∧ (after (.pctSmpEnable oC 8 0x80000000) sC).out = [.reg oC C.regUnmapped 0] := by decide +kernel
def sCt (ev v : Nat) : State := { setFld sC F.pctSelEvent ev with counts := [(ev, ⟨v, false⟩)] }
theorem test_counter_read : eventExists sC.ident 0x10000010 = true ∧ hostReadable sC 0x10000010 = true ∧ (after (.pctValLoRead oC) (sCt 0x10000010 9)).out = [.reg oC C.ok 9#32] ∧
    hostReadable { sCt 0x10000010 9 with sec := { sC.sec with lc := .field } } 0x10000010 = true := by decide +kernel
theorem test_optime_read : regGate sC oC true false = .served ∧ (after (.redOptimeLoRead oC) { sC with optime := 2 ^ 32 + 9 }).out = [.reg oC C.ok 9#32] := by decide +kernel
/-- Debug access of die 0 to item `it`, index `ix`, of cell 0; its bundle is held or runs. -/
def sDb (it ix : Nat) (held : Bool) : State :=
  let s := mod1 { bun 0 { stn 0 0 with run := if held then .held else .running } with st := if held then .held else .running }
  { s with regs := [((⟨.dieDbgSel, 0, 0, 0⟩ : RegRef).addr, BitVec.ofNat 32 (it * 2 ^ 8 + ix * 2 ^ 11)), ((⟨.dieDbgLo, 0, 0, 0⟩ : RegRef).addr, 9#32)] }
theorem test_debug_read : (stationOn (sDb 0 1 true) (dbgCell (sDb 0 1 true) 0)).isSome = true ∧ (after (.dieDbgLoRead oC 0) (sDb 0 1 true)).out = [.reg oC C.ok 5#32] ∧
    (after (.dieDbgLoRead oC 0) (sDb 0 1 false)).out = [.reg oC C.dbgNotStopped 0] ∧ (after (.dieDbgLoRead oC 8) sC).out = [.reg oC C.regAbsent 0] ∧
    (after (.dieDbgLoRead oC 0) (sDb 2 0 true)).out = [.reg oC C.ok 0] := by decide +kernel
theorem test_debug_write : (stationAt (after (.dieDbgWrite oC 0 1) (sDb 0 1 true)) 0 0).map (fun st => getG st 1) = some 9#64 ∧
    (stationAt (after (.dieDbgWrite oC 0 1) (sDb 2 0 true)) 0 0).map (·.pc) = some 9 ∧ (after (.dieDbgWrite oC 0 1) (sDb 0 1 false)).out = [.reg oC C.dbgNotStopped 0] ∧
    (after (.dieDbgWrite oC 0 1) { sDb 0 1 true with sec := { sC.sec with lc := .field } }).out = [.reg oC C.dbgDenied 0] ∧ (after (.dieDbgWrite oC 8 1) sC).out = [.reg oC C.regAbsent 0] ∧
    (after (.dieDbgWrite oC 7 1) sC).out = [.reg oC C.dbgNotStopped 0] := by decide +kernel

/-! ### Security and calibration -/

theorem test_svn : mayKey sC oC = true ∧ (after (.svnCommit oC 2) { sC with ha := { sC.ha with running := { FwImage.factory with svn := 3 } }, hb := { sC.hb with running := { FwImage.factory with svn := 2 } } }).sec.svnMin = 2 ∧
    (after (.svnCommit oC 2) { sC with ha := { sC.ha with recovery := true } }).out = [.reg oC C.secSvnHeld 0] ∧ (after (.svnCommit oC 2) (sFw 3)).out = [.reg oC C.secSvnHeld 0] := by decide +kernel
/-- The module in Field with a session that is no ADMIN's, and with one that is; slot 0 of the key table holds an ADMIN key. -/
def sF (admin : Bool) : State :=
  { sC with sessions := [{ ses with admin := admin }], sec := { sC.sec with lc := .field, keys := ⟨2, []⟩ :: List.replicate 15 ⟨0, []⟩, stagedKind := some 1 } }
theorem test_keys_denied : mayKey (sF false) oC = false ∧ Served (sF false) oC true ∧ (after (.svnCommit oC 2) (sF false)).out = [.reg oC C.secKeyDenied 0] ∧
    (after (.secReqSignedWrite oC 1) (sF false)).out = [.reg oC C.secKeyDenied 0] ∧ (after (.secKeyCommit oC 1) (sF false)).out = [.reg oC C.secKeyDenied 0] ∧
    (after (.secKeyErase oC 2) (sF false)).out = [.reg oC C.secKeyDenied 0] := by unfold Served; decide +kernel
-- the only ADMIN key may not go while in Field; a key of kind 3 in another slot may come
theorem test_keys : mayKey (sF true) oC = true ∧ (after (.secKeyCommit oC 1) (sF true)).out = [.reg oC C.secKeyInvalid 0] ∧ (after (.secKeyErase oC 2) (sF true)).out = [.reg oC C.secKeyInvalid 0] ∧
    ((after (.secKeyCommit oC 1) (setFld (sF true) F.secKeySelSlot 15)).sec.keys.map (·.kind)) = [2, 0, 0, 0, 0, 0, 0, 0, 0, 0, 0, 0, 0, 0, 0, 1] ∧
    (after (.secKeyErase oC 2) (setFld (sF true) F.secKeySelSlot 15)).out = [.reg oC C.ok 0] ∧ (after (.secKeyCommit oC 1) sC).out = [.reg oC C.secKeyInvalid 0] := by decide +kernel
theorem test_req_signed : fld (after (.secReqSignedWrite oC 1) sC) F.secCtlReqSigned = 1 ∧ (after (.secRetCommit oC 1) sC).sec.retPending = false := by decide +kernel
set_option maxRecDepth 4000 in
theorem test_life_cycle : lcAllowed sC oC (LifeCycle.ofCode 3) = true ∧ lcAllowed sC oC (LifeCycle.ofCode 2) = false ∧ sC.sec.incomplete = none ∧
    (after (.secLcCmd oC 0x4C430003 false) sC).sec.lc = .returned ∧ (after (.secLcCmd oC 0x4C430003 true) sC).sec.incomplete = some .returned ∧
    (after (.secLcCmd oC 0x4C430002 false) sC).out = [.reg oC C.secLcDenied 0] ∧ (after (.secLcCmd oC 3 false) sC).out = [.reg oC C.secLcDenied 0] := by decide +kernel
def grant0 : Grant := ⟨7, 3, 9, 1, false⟩
def sG (sec : Nat) : State := { sC with sec := { sC.sec with grant := some grant0 }, tb := { sC.tb with sec := sec } }
theorem test_grant_data : grantPtr sC = 0 ∧ (after (.secGrantDataAccess oC (some 7)) sC).sec.grantWords = [(0, 7)] ∧ (after (.secGrantDataAccess oC none) sC).out = [.reg oC C.ok 0] ∧
    grantPtr (after (.secGrantDataAccess oC none) sC) = 1 := by decide +kernel
theorem test_grant_time : (after .grantExpiry (sG 9)).sec.grant = none ∧ (after .grantExpiry (sG 8)).sec.grant = some grant0 ∧ (after .grantNotBefore (sG 3)).sec.grant = some { grant0 with inForce := true } ∧
    (after .grantNotBefore (sG 2)).sec.grant = some grant0 ∧ (after (.secGrantRevoke oC 2) (sG 3)).sec.grant = none := by decide +kernel
theorem test_grant_commit : uncertain sC = true ∧ (after (.secGrantCommit oC 1) sC).out = [.reg oC C.secTimeUntrusted 0] ∧ uncertain (setFld sC F.tbQualUncertain 0) = false := by decide +kernel
-- an accepted grant needs a signature that verifies, which no run can show
theorem test_grant_ok (s : State) (b : List Byte) (h1 : slice b 0 4 = [0x5A#8, 0x44#8, 0x47#8, 0x31#8]) (h2 : fieldLE b 4 8 = s.ident.serial % 2 ^ 64) (k : List Byte) (h3 : keyOf s [4] (fieldLE b 12 2) = some k)
    (h4 : Config.slhVerify k (b.take 64) (slice b 64 7856) = true) (h5 : fieldLE b 14 2 < 8) (h6 : allZero (slice b 36 28) = true) (h7 : s.sec.grantMax = none) : grantOk s b = true := by
  simp [grantOk, h1, h2, h3, h4, h5, h6, h7]
theorem test_attest : (after (.secAttGo oC 1) sC).sec.attesting.isSome = true ∧ (after (.secAttGo oC 1) { sC with sec := { sC.sec with attesting := some [] } }).out = [.reg oC C.secAttBusy 0] ∧
    (after .attestationReady { sC with sec := { sC.sec with attesting := some [] } }).sec.attesting = none ∧ (after .attestationReady sC).sec.attReport = [] := by decide +kernel
theorem test_retained : (after .retainedCommitTimer { sC with sec := { sC.sec with retPending := true } }).sec.retPending = false ∧ (after .retainedCommitTimer sC).sec.retA = sC.sec.retA := by decide +kernel

/-- The module with an item of calibration as given. -/
def it (due running : Bool) : CalItem := ⟨.measured, due, true, running, false, 2, if running then none else some 0, 0, 0, 0, [0#32, 0#32], false, false, false, 0⟩
def sX (cls inst : Nat) (x : CalItem) : State := { sC with cal := { sC.cal with items := [(1024 * cls + inst, x)] } }
/-- Calibration only on request. -/
def off (s : State) : State := setFld s F.calCtlEnable 0
theorem test_cal_start : calMayStart (off (sX 6 0 (it true false))) 6 0 = true ∧ itemGap (off (sX 6 0 (it true false))) 6 0 = .now ∧ (calItem (after (.calRunStart 6 0 false) (off (sX 6 0 (it true false)))) 6 0).running = true ∧
    (calItem (after (.calRunStart 6 0 true) (off (sX 6 0 (it true false)))) 6 0).failed = true ∧ calMayStart (off (sX 6 0 (it false false))) 6 0 = false := by decide +kernel
/-- The RX items of lanes (0, 0) and λS due, the one in service and the other idle. -/
def sXl (insts : List Nat) : State := off { sO (ln .active) (ln .spareIdle) with cal := { sC.cal with items := insts.map (fun i => (1024 + i, it true false)) } }
theorem test_cal_gap : itemLane 1 8 = some (0, 0, 8) ∧ itemGap (sXl [0, 8]) 1 8 = .spare ∧ itemGap (sXl [0, 8]) 1 0 = .cover ∧
    calMayStart (sXl [0, 8]) 1 0 = true ∧ calMayStart (sXl [0, 8]) 1 8 = false ∧ calMayStart (sXl [8]) 1 8 = true ∧
    (laneOf (after (.calRunStart 1 0 false) (sXl [0, 8])) 0 0 0).planned = true ∧ (laneOf (after (.calRunStart 1 8 false) (sXl [8])) 0 0 8).st = .cal := by decide +kernel
theorem test_cal_end : calGood 6 50 = true ∧ calGood 6 51 = false ∧ (calItem (after (.calRunComplete 6 0 [7#32, 8#32] 50 1 false) (sX 6 0 (it false true))) 6 0).values = [7#32, 8#32] ∧
    (calItem (after (.calRunComplete 6 0 [7#32, 8#32] 51 1 false) (sX 6 0 (it false true))) 6 0).bad = 3 ∧ (calItem (after (.calRunTimeout 6 0) (sX 6 0 (it false true))) 6 0).failed = true := by decide +kernel
theorem test_cal_retry : (calItem (after (.calBadRunRetry 6 0) (off (sX 6 0 (it false false)))) 6 0).due = true ∧ calExists sC.ident 6 0 = true ∧ (calItem (after (.calStarved 6 0) (off (sX 6 0 (it true false)))) 6 0).starved = true := by
  decide +kernel
/-- CAL_SEL selects class 6, item 0; the record staged is that item's. -/
def sS (cls inst : Nat) : State := { sX 6 0 (it false true) with regs := [((⟨.calSel, 0, 0, 0⟩ : RegRef).addr, BitVec.ofNat 32 (cls + 16 * inst))] }
def sStaged : State := { sS 6 0 with cal := { (sS 6 0).cal with staged := withIdx (calRecord (sS 6 0) 6 0) } }
theorem test_cal_commit : calSelCls (sS 6 0) = 6 ∧ (after (.calCmdCommit oC 1) (sS 6 1000)).out = [.reg oC C.regAbsent 0] ∧ (after (.calCmdCommit oC 1) (sS 6 0)).out = [.reg oC C.calRestoreBad 0] ∧
    recordOk sStaged 6 0 (stagedRecord sStaged) = true ∧ (calItem (after (.calCmdCommit oC 1) sStaged) 6 0).source = .restored := by decide +kernel
theorem test_cal_cmd : (calItem (after (.calCmdRun oC 2) (sS 6 0)) 6 0).due = true ∧ (after (.calCmdRun oC 2) (sS 6 1000)).out = [.reg oC C.regAbsent 0] ∧
    SMap.getD (after (.calDataAccess oC (some 7)) (sS 6 0)).cal.staged 0 0 = 7 ∧ (after (.calDataAccess oC none) (sS 6 0)).out.length = 1 := by decide +kernel
theorem test_cal_window : portInCal (sO (ln .active) (ln .spareIdle)) 0 0 = false ∧ (laneOf (after (.calWindowAnnounce 0 0 ⟨8, false⟩) (sO (ln .active) (ln .spareIdle))) 0 0 8).st = .cal ∧
    (calItem (after (.calWindowAnnounce 0 0 ⟨0, false⟩) (sO (ln .active) (ln .spareIdle))) 1 0).running = true ∧ after (.calWindowAnnounce 4 0 ⟨0, false⟩) sC = sC := by decide +kernel

/-! ### Register writes -/

/-- The bundle with its first tally orphaned or not; TAL_SEL selects it. -/
def bT (b : BState) (orphaned : Bool) : Bundle := { bun 0 (stn 0 0) with st := b, tallies := [{ tal (some 1) with orphaned := orphaned }, tal none] }
def sTd (b : BState) (orphaned : Bool) (dbg : Nat) : State := setFld (mod1 (bT b orphaned)) F.talCtlDbgSet dbg
/-- The bundle whose first tally has an epoch value. -/
def bEp : Bundle := { bun 0 (stn 0 0) with img := { img 0 with tallies := [⟨20, 1, 0, 10, 0, 4⟩, ⟨21, 0xFFFF, 9, 10, 0, 4⟩] } }
theorem test_write_handles : byHandle sC 63 = none ∧ (after (.dltKeyreqWrite oC 63) sC).out = [.reg oC C.handleUnknown 0] ∧ (after (.talEpochEndWrite oC 63) sC).out = [.reg oC C.handleUnknown 0] ∧
    (after (.dltKeyreqWrite oC 0) (sB .loading)).out = [.reg oC C.stateInvalid 0] ∧ (after (.dltKeyreqWrite oC 0) sC).out = [.reg oC C.ok 0] ∧
    (after (.talEpochEndWrite oC 0) (sB .ready)).out = [.reg oC C.stateInvalid 0] ∧
    (slotBundle (after (.talEpochEndWrite oC 0) (mod1 bEp)) 0).map (fun b => b.tallies.map (·.markers)) = some [[none], []] := by decide +kernel
theorem test_tally_set : talDbgActive (sTd .running false 1) = true ∧ talDbgActive (sTd .running false 0) = false ∧ (talSelected (sTd .running false 1)).isSome = true ∧
    (after (.talSetWrite oC 5) (sTd .running false 0)).out = [.reg oC C.tallyDbgDenied 0] ∧ (after (.talSetWrite oC 11) (sTd .running false 1)).out = [.reg oC C.tallySetRange 0] ∧
    (slotBundle (after (.talSetWrite oC 10) (sTd .running false 1)) 0).map (fun b => b.tallies.map (·.value)) = some [10#32, 3#32] ∧
    (after (.talSetWrite oC 10) (setFld (sTd .running false 1) F.talSelHandle 63)).out = [.reg oC C.handleUnknown 0] := by decide +kernel
theorem test_tally_rehome : (after (.talRehomeWrite oC 0) (sTd .running false 1)).out = [.reg oC C.tallyNotOrphaned 0] ∧
    (slotBundle (after (.talRehomeWrite oC 0) (sTd .running true 1)) 0).map (fun b => b.tallies.map (fun y => (y.home, y.value))) = some [(some 0, 0#32), (none, 3#32)] ∧
    (slotBundle (after (.talRehomeWrite oC 0x5FFFF) (sTd .running true 1)) 0).map (fun b => b.tallies.map (fun y => (y.home, y.remoteHome))) = some [(none, 5), (none, 9)] := by decide +kernel
set_option maxRecDepth 4000 in
theorem test_write_plain : (resolve sC 0 matches .ok ⟨.idPart, 0, 0, 0⟩) ∧ regGate sC oC (isRed 0) true = .served ∧ (after (.registerWritePlain oC 0 1) sC).out = [.reg oC C.regReadOnly 0] ∧
    (after (.registerWritePlain oC 0xFFFFFC 1) sC).out = [.reg oC 0x0801 0] ∧ anyLoaded sC = true ∧
    (after (.registerWritePlain oC (⟨.fabCtl, 0, 0, 0⟩ : RegRef).addr 0x10) sC).out = [.reg oC C.regLocked 0] ∧
    fld (after (.registerWritePlain oC (⟨.fabCtl, 0, 0, 0⟩ : RegRef).addr 0) { sC with pl := State.reset.pl }) F.fabCtlWeightVc0 = 1 ∧
    fld (after (.registerWritePlain oC (⟨.pctSel, 0, 0, 0⟩ : RegRef).addr 7) sC) F.pctSelEvent = 7 ∧
    fld (after (.registerWritePlain oC (⟨.tbEvent, 0, 0, 0⟩ : RegRef).addr 1) (setFld sC F.tbEventHoldover 1)) F.tbEventHoldover = 0 ∧
    fld (after (.registerWritePlain oC (⟨.tbEvent, 0, 0, 0⟩ : RegRef).addr 0) (setFld sC F.tbEventHoldover 1)) F.tbEventHoldover = 1 := by decide +kernel

/-! ### Further clauses: streams -/

/-- The bundle whose stream 1, which station 0 takes, has the input end given. -/
def bEnd (w : Word) (e : ConsEnd) : Bundle := bunS 0 (stn 0 w) 1 { stm [] with ends := [e] }
-- the end is broken: STREAM_GAP, with DETAIL 0
theorem test_collect_broken : (inEnd (bEnd 0 ⟨[], 7#32, [], true, 0, false⟩) 0 0).map (fun e => e.e.broken) = some true ∧
    Issues (mod1 (bEnd (wordR 0x28 2 0 0 0) ⟨[], 7#32, [], true, 0, false⟩)) 0 (wordR 0x28 2 0 0 0) ⟨0, 0, bEnd (wordR 0x28 2 0 0 0) ⟨[], 7#32, [], true, 0, false⟩, stn 0 (wordR 0x28 2 0 0 0), recS 0⟩ ∧
    ∃ t, exec (.collect 0 (wordR 0x28 2 0 0 0)) (mod1 (bEnd (wordR 0x28 2 0 0 0) ⟨[], 7#32, [], true, 0, false⟩)) = .next t ∧
      FaultShown t 0 ⟨0, 0, bEnd (wordR 0x28 2 0 0 0) ⟨[], 7#32, [], true, 0, false⟩, stn 0 (wordR 0x28 2 0 0 0), recS 0⟩ 0x0205 0 (wordR 0x28 2 0 0 0) 0 :=
  ⟨by decide +kernel, issuesIn _ _ _ _ _ _ rfl rfl rfl (by decide +kernel), shows rfl (by decide +kernel)⟩
-- a tile queued: TRYCOLLECT takes it and writes 1 to p2
theorem test_trycollect_takes : Issues (mod1 (bunS 0 (stn 0 (wordR 0x2A 2 0 2 0)) 1 (stm [⟨tile7, none⟩]))) 0 (wordR 0x2A 2 0 2 0)
      ⟨0, 0, bunS 0 (stn 0 (wordR 0x2A 2 0 2 0)) 1 (stm [⟨tile7, none⟩]), stn 0 (wordR 0x2A 2 0 2 0), recS 0⟩ ∧
    (stationAt (after (.trycollect 0 (wordR 0x2A 2 0 2 0)) (mod1 (bunS 0 (stn 0 (wordR 0x2A 2 0 2 0)) 1 (stm [⟨tile7, none⟩])))) 0 0).map (fun st => (st.pc, st.p)) = some (4, 6#8) :=
  ⟨issuesIn _ _ _ _ _ _ rfl rfl rfl (by decide +kernel), by decide +kernel⟩
-- FORMAT 0 on a stream of format 5: TILE_FORMAT
theorem test_post_bad : (outEnd (bun 0 (stn 0 0)) 0 0).map (fun o => postFault o.2.1 o.2.2 (slotTile (stn 0 0).scratch 0).hdr) = some (some (0x0203, 0)) ∧
    Faults (.post 0 (wordR 0x29 0 1 0 0)) (wordR 0x29 0 1 0 0) (stn 0 (wordR 0x29 0 1 0 0)) 0x0203 0 :=
  ⟨by decide +kernel, issues _ _ (by decide +kernel), shows rfl (by decide +kernel)⟩
/-- A delta stream from station 0 to station 1 in FP32, of one tile a frame, that suppresses what equals its store, in region 0; the
station's slot at 0 holds an FP32 tile of zeros of shape 1 × 1, FRAME 9, with KEYFRAME where `key`. -/
def bDl (w : Word) (key : Bool) (wt : Waiting) : Bundle :=
  let r := { recStream 10 2 0 1 with format := 2, param := [0#8, 0#8, 0#8, 0#8, 1#8] ++ List.replicate 27 0#8 }
  let st := { stn 0 w with scratch := ⟨[(8, 9#8), (12, 2#8)] ++ (if key then [(14, 4#8)] else []), []⟩, waiting := wt, waitInsn := if wt = .no then 0 else w }
  { bun 0 st with img := { img 0 with streams := [r] }, streams := [stm []] }
def stDl (w : Word) (key : Bool) (wt : Waiting) : Station := (bDl w key wt).stations.headD (stn 0 0)
def sDl (key : Bool) (wt : Waiting) : State :=
  let s := mod1 (bDl (wordR 0x29 0 1 0 0) key wt)
  { s with dies := s.dies.map (fun d => { d with stks := d.stks.map (fun k => { k with wiping := false, mem := ⟨[(12, 2#8)], []⟩ }) }) }
theorem test_delta_suppresses : (outEnd (bDl 0 false .no) 0 0).map (fun o => (postFault o.2.1 o.2.2 (slotTile (stDl 0 false .no).scratch 0).hdr, o.2.1.kind)) = some (none, 2) ∧
    (streamAt (after (.post 0 (wordR 0x29 0 1 0 0)) (sDl false .no)) 0 0).map (fun v => (v.x.flight.length, v.x.nextSeq, v.x.delta.suppressed, v.x.delta.posted)) = some (0, 7#32, 1, [0]) ∧
    (stationAt (after (.post 0 (wordR 0x29 0 1 0 0)) (sDl false .no)) 0 0).map (fun st => (st.pc, st.waiting)) = some (4, .no) := by decide +kernel
theorem test_delta_keyframe : firstHop ⟨0, hop0⟩ = true ∧ hopOpen (sDl true (.post 0)) hop0 = true ∧ specOf (img 0) 0 = 0 ∧
    (streamAt (after (.postFirstHopAccept ⟨0, hop0⟩) (sDl true (.post 0))) 0 0).map (fun v => (v.x.flight.map (fun f => (f.tile.hdr.seq, f.tile.hdr.flags, f.toCons)), v.x.delta.sent, v.x.delta.posted)) =
      some ([(7#32, 6#16, [0])], 1, [0]) := by decide +kernel
-- bit 1 of the control word; input end 15; output end 15
theorem test_end_invalid : Faults (.endctl 0 (wordR 0x2B 1 6 0 0)) (wordR 0x2B 1 6 0 0) { stn 0 (wordR 0x2B 1 6 0 0) with g := [(6, 2#64)] } 0x0214 1 ∧
    Faults (.endctl 0 (wordR 0x2B 15 0 0 0)) (wordR 0x2B 15 0 0 0) (stn 0 (wordR 0x2B 15 0 0 0)) 0x0214 15 ∧
    Faults (.endstat 0 (wordR 0x2C 6 15 0 0)) (wordR 0x2C 6 15 0 0) (stn 0 (wordR 0x2C 6 15 0 0)) 0x0214 15 ∧
    Faults (.endstat 0 (wordR 0x2C 6 31 0 0)) (wordR 0x2C 6 31 0 0) (stn 0 (wordR 0x2C 6 31 0 0)) 0x0214 31 :=
  ⟨⟨issues _ _ (by decide +kernel), shows rfl (by decide +kernel)⟩, ⟨issues _ _ (by decide +kernel), shows rfl (by decide +kernel)⟩,
    ⟨issues _ _ (by decide +kernel), shows rfl (by decide +kernel)⟩, issues _ _ (by decide +kernel), shows rfl (by decide +kernel)⟩

/-! ### Further clauses: stacks, tallies -/

/-- The bundle with its first station in region 2, whose spill reserve of 24 slots holds eight writes beside its two boundary streams, and a
checkpoint held. -/
def bHold (w : Word) : Bundle :=
  let b := bun 2 { stn 0 w with ckpts := [ckpt], scratch := ⟨[(8, 9#8), (12, 5#8)], []⟩ }
  { b with img := { b.img with spill := [0, 24] } }
def stHold (w : Word) : Station := { stn 0 w with ckpts := [ckpt], scratch := ⟨[(8, 9#8), (12, 5#8)], []⟩ }
theorem test_write_held : Issues (mod1 (bHold (wordR 0x31 1 0 0 0x3F))) 0 (wordR 0x31 1 0 0 0x3F) ⟨0, 0, bHold (wordR 0x31 1 0 0 0x3F), stHold (wordR 0x31 1 0 0 0x3F), recS 2⟩ ∧
    heldCount (bHold 0) 2 < writeSlots (bHold 0).img 2 ∧
    (stationAt (after (.stash 0 (wordR 0x31 1 0 0 0x3F)) (mod1 (bHold (wordR 0x31 1 0 0 0x3F)))) 0 0).map (fun st => (st.pc, st.stackOps, st.heldWrites.map (fun h => (h.op.kind, h.op.slot, h.ckpts)))) =
      some (4, [], [(.stash, 0, [0])]) :=
  ⟨issuesIn _ _ _ _ _ _ rfl rfl rfl (by decide +kernel), by decide +kernel, by decide +kernel⟩
/-- The bundle whose tally 0 is homed at station 0. -/
def bOwn (w : Word) : Bundle := { bun 0 (stn 0 w) with tallies := [tal (some 0), tal none] }
/-- The value of tally 0, gd and PC after an operation of station 0 on its own tally. -/
def own (c : Word → Instr) (w : Word) : Option Word × Option (DWord × Nat × RunState) :=
  ((tallyAt (after (c w) (mod1 (bOwn w))) 0 0).map (fun p => p.2.1.value), (stationAt (after (c w) (mod1 (bOwn w))) 0 0).map (fun st => (getG st 6, st.pc, st.run)))
-- 3 + 5 = 8 of 10; 3 + 64 overflows; 3 − 5 underflows; g0 as gd faults
theorem test_own_tally : Issues (mod1 (bOwn (wordR 0x38 6 0 1 0))) 0 (wordR 0x38 6 0 1 0) ⟨0, 0, bOwn (wordR 0x38 6 0 1 0), stn 0 (wordR 0x38 6 0 1 0), recS 0⟩ ∧
    own (.tgive 0) (wordR 0x38 6 0 1 0) = (some 8#32, some (0#64, 4, .running)) ∧ own (.tgive 0) (wordR 0x38 6 0 3 0) = (some 3#32, some (0x230#64, 4, .running)) ∧
    own (.tdebit 0) (wordR 0x3A 6 0 1 0) = (some 3#32, some (0x231#64, 4, .running)) ∧ own (.tdebit 0) (wordR 0x3A 6 0 0 0) = (some 3#32, some (0#64, 4, .running)) ∧
    ∃ t, exec (.tdebit 0 (wordR 0x3A 0 0 1 0)) (mod1 (bOwn (wordR 0x3A 0 0 1 0))) = .next t ∧
      FaultShown t 0 ⟨0, 0, bOwn (wordR 0x3A 0 0 1 0), stn 0 (wordR 0x3A 0 0 1 0), recS 0⟩ 0x0231 0 (wordR 0x3A 0 0 1 0) 0 :=
  ⟨issuesIn _ _ _ _ _ _ rfl rfl rfl (by decide +kernel), by decide +kernel, by decide +kernel, by decide +kernel, by decide +kernel, shows rfl (by decide +kernel)⟩
/-- Tally 0, whose TALLY_ID is 20, after an operation of module 9. -/
def remoteOp (y : Tally) (k : TallyOp) (n : Nat) : Option Tally :=
  (tallyAt (after (.tallyOpAccept 0 20 (.remote 9 5 k (BitVec.ofNat 32 n))) (mod1 { bun 0 (stn 0 0) with tallies := [y, tal none] })) 0 0).map (fun p => p.2.1)
theorem test_remote_op : tallyById sC 20 = some (0, 0) ∧ tallyById sC 21 = none ∧ tallyById sC 22 = none ∧
    remoteOp (tal (some 1)) .give 5 = some { tal (some 1) with value := 8#32 } ∧ remoteOp (tal (some 1)) .debit 3 = some { tal (some 1) with value := 0#32 } ∧
    remoteOp (tal (some 1)) .take 4 = some { tal (some 1) with takers := [⟨.remote 9 5 .take 4, 4#32⟩] } ∧
    remoteOp (tal (some 1)) .watch 4 = some { tal (some 1) with watchers := [⟨.remote 9 5 .watch 4, 4#32⟩] } ∧
    remoteOp (tal (some 1)) .take 11 = some (tal (some 1)) ∧ remoteOp { tal (some 1) with orphaned := true } .give 5 = some { tal (some 1) with orphaned := true } := by decide +kernel
/-- A store that holds 256 waiters. -/
def talFull : Tally := { tal (some 1) with watchers := List.replicate 256 ⟨.station 1, 9#32⟩ }
theorem test_store_full : storeWaiters { bun 0 (stn 0 0) with tallies := [talFull, tal none] } (some 1) = 256 ∧ remoteOp talFull .take 4 = some talFull ∧ remoteOp talFull .watch 4 = some talFull ∧
    (remoteOp talFull .take 3).map (·.value) = some 0#32 := by decide +kernel
-- tally 1 is homed on module 9, to which no route leads: the message waits
theorem test_leaves_home : (bun 0 (stn 0 0)).stations[0]? = some (stn 0 0) ∧ orderFree (stn 0 0) 0 (tal none) (op6 .give 1) = true ∧ toFm1 sC 9 = false ∧
    (after (.tallyOpAccept 0 1 (.station 0)) (s1 { stn 0 0 with tallyOps := [op6 .give 1] })).fab.waiting.length = 1 ∧
    (stationAt (after (.tallyOpAccept 0 1 (.station 0)) (s1 { stn 0 0 with tallyOps := [op6 .give 1] })) 0 0).map (fun st => st.tallyOps.map (fun e => (e.accepted, e.answer))) = some [(true, none)] := by decide +kernel
theorem test_bundle_halts : (∀ st ∈ [{ waits .halt 0 with run := .halted }, { stn 1 0x02000000#32 with run := .halted }], st.run = .halted) ∧
    (slotBundle (after (.drainPointReached 0) (mod1 { bun 0 (waits .halt 0) with stations := [waits .halt 0, { stn 1 0x02000000#32 with run := .halted }] })) 0).map (fun b => (b.haltReported, b.stations.map (·.run))) =
      some (true, [.halted, .halted]) ∧
    (stationAt (after (.drainPointReached 0) (s1 { waits .drain 0 with drainReq := true, ckpts := [ckpt] })) 0 0).map (fun st => (st.run, st.pc)) = some (.running, 4) := by decide +kernel

/-! ### Further clauses: the Counter, loads -/

theorem readsOne (s : State) (a : Nat) (h : (readAt s a).2.1 = 0) : ReadsInTurn s a [(readAt s a).2.2] (readAt s a).1 :=
  .word _ _ _ _ _ _ (Prod.ext rfl (Prod.ext h rfl)) (.none _ _)
-- one word from address 0; none from 0xFFFFFC, where no register is
theorem test_reads_in_turn : (readAt (serving sC (hdr 0x0010 (leBytes 4 0 ++ leBytes 2 1)) ses) 0).2.1 = 0 ∧ fieldLE (leBytes 4 0 ++ leBytes 2 1) 4 2 = 1 ∧
    (readAt (serving sC (hdr 0x0010 (leBytes 4 0xFFFFFC ++ leBytes 2 2)) ses) 0xFFFFFC).2.1 = 0x0801 ∧ fieldLE (leBytes 4 0xFFFFFC ++ leBytes 2 2) 4 2 = 2 := by decide +kernel
theorem test_write_at : (writeAt (serving sC (hdr 0x0011 []) ses) (.session 1) (⟨.pctSel, 0, 0, 0⟩ : RegRef).addr 7).2 = 0 ∧
    (writeAt (serving sC (hdr 0x0011 []) ses) (.session 1) (⟨.pctSel, 0, 0, 0⟩ : RegRef).addr 7).1.active = sC.active ∧
    (findSession (writeAt (serving sC (hdr 0x0011 []) ses) (.session 1) (⟨.pctSel, 0, 0, 0⟩ : RegRef).addr 7).1 1).isSome = true := by decide +kernel
/-- A module whose cell 2047 is retired. -/
def sRet (k : Retired) : State := { sC with pl := { sC.pl with retired := [(2047, k)] } }
theorem test_cell_restore : SMap.find (sRet .soft).pl.retired 2047 = some .soft ∧ SMap.find (sRet .hard).pl.retired 2047 = some .hard ∧
    Asks (sRet .soft) (hdr 0x0049 [0xFF#8, 7#8]) 0x0049 [0xFF#8, 7#8] ses :=
  ⟨rfl, rfl, asks _ _ rfl rfl rfl rfl ⟨rfl, rfl, rfl, rfl, rfl⟩ rfl rfl (by decide)⟩
theorem test_stage_busy : ∃ g ∈ (sL mini).stages, g.session = (hdr 0x0020 (leBytes 4 1)).session := ⟨_, List.mem_singleton.2 rfl, rfl⟩
theorem insert_ne (e : Entry) (l : List Entry) : insertEntry e l ≠ [] := by
  cases l with
  | nil => simp [insertEntry]
  | cons x r => simp only [insertEntry]; split <;> simp
theorem fold_ne (l : List Entry) : ∀ a : List Entry, a ≠ [] → l.foldl (fun a e => insertEntry e a) a ≠ [] := by
  induction l with
  | nil => intro a h; exact h
  | cons e r ih => intro a _; exact ih _ (insert_ne e a)
theorem sort_ne (l : List Entry) (h : l ≠ []) : sortEntries l ≠ [] := by
  cases l with
  | nil => exact absurd rfl h
  | cons e r => exact fold_ne r _ (insert_ne e [])
theorem fails_of_plain (f : FitIn) (h : plainTests f ≠ []) : (fitCheck f).failed ≠ [] := by
  simp only [fitCheck]
  split <;> exact sort_ne _ (by simp [h])
/-- The bundle with a share of power above any cap. -/
def hungry : BundleImg := { miniImg with limits := { miniImg.limits with powerShare := 60000 } }
theorem test_mini_does_not_fit : ∃ f o, fitVictims sFit hungry ⟨none, false, false, false⟩ none = ([], f, o) ∧ ∃ e es, o.failed = e :: es := by
  have hel : eligible sFit hungry ⟨none, false, false, false⟩ = [] := rfl
  have hp : plainTests (fitIn sFit hungry ⟨none, false, false, false⟩ none []) ≠ [] := by decide +kernel
  have hn := fails_of_plain _ hp
  have hi : (fitCheck (fitIn sFit hungry ⟨none, false, false, false⟩ none [])).failed.isEmpty = false := by simpa using hn
  obtain ⟨e, es, h⟩ := List.exists_cons_of_ne_nil hn
  exact ⟨fitIn sFit hungry ⟨none, false, false, false⟩ none [], fitCheck _, by simp only [fitVictims, hel]; simp [List.range_succ_eq_map, hi], e, es, h⟩

/-! ### Further clauses: bundles -/

/-- A bundle of one station, whose region keeps it on die 0, with its state and its station as given. -/
def bOne (b : BState) (st : Station) : Bundle :=
  { bun 0 st with st := b, stations := [st], img := { img 0 with stations := [recS 0], streams := [], tallies := [], regions := [⟨0, 0, false, 4, 0⟩] }, streams := [], tallies := []
                  regions := [⟨0, 0, 17024⟩] }
-- a station that is still to move and stands at no drain point keeps a HELD bundle waiting
theorem test_start_moving : Asks (mod1 (bOne .held { stn 0 0 with relocating := true, run := .held })) (hdr 0x0023 h0) 0x0023 h0 ses ∧
    ((slotBundle (relocateAll (serving (mod1 (bOne .held { stn 0 0 with run := .held })) (hdr 0x0023 h0) ses) 0) 0).map (fun c => c.stations.any (fun st => st.relocating && movable st))) = some false ∧
    (slotBundle (after (.start (hdr 0x0023 h0)) (mod1 (bOne .held { stn 0 0 with run := .held }))) 0).map (fun b => (b.st, b.stations.map (·.run))) = some (.running, [.running]) :=
  ⟨asks _ _ rfl rfl rfl rfl ⟨rfl, rfl, rfl, rfl, rfl⟩ rfl rfl (show 2 ≤ 1344 by decide), by decide +kernel, by decide +kernel⟩
theorem test_start_evicted : (match placeCells (serving (mod1 (bOne .evicted { stn 0 0 with cell := none, run := .held })) (hdr 0x0023 h0) ses) (bOne .evicted { stn 0 0 with cell := none, run := .held }) with
      | .ok d => d.length | .error _ => 0) = 1 := by decide +kernel
theorem test_evict_held : Asks (sB .held) (hdr 0x0025 h0) 0x0025 h0 ses ∧ (slotBundle (after (.evict (hdr 0x0025 h0)) (sB .held)) 0).map (fun b => (b.st, b.evictFrom)) = some (.evicting, .held) :=
  ⟨asks0 _ _ rfl, by decide +kernel⟩
theorem test_handle_unknown_all : Asks (sB .ready) (hdr 0x0024 (leBytes 2 63)) 0x0024 (leBytes 2 63) ses ∧ Asks (sB .ready) (hdr 0x0025 (leBytes 2 63)) 0x0025 (leBytes 2 63) ses ∧
    Asks (sB .ready) (hdr 0x0026 (leBytes 2 63)) 0x0026 (leBytes 2 63) ses :=
  ⟨asksB _ _ _ rfl (show 2 ≤ 1344 by decide), asksB _ _ _ rfl (show 2 ≤ 1344 by decide), asksB _ _ _ rfl (show 2 ≤ 1344 by decide)⟩
/-- A load whose command was given by session 1. -/
def told : Option Caller := some ⟨.ha, 1, 4#32, 0, 0x0021⟩
theorem test_unload_load : slotBundle (after (.unload (hdr 0x0026 h0)) (sW { bLoad [] 0 with reply := told } true)) 0 = none ∧ (findSession sC 1).isSome = true := by decide +kernel
theorem test_plan_waits : stillUnlit (sW (bPlan false 0) true) (bPlan false 0) = [] ∧ (stillUnlit (sW (bPlan false 1) true) (bPlan false 1)).isEmpty = false := by decide +kernel
-- two bytes from outside, without a hash, and with one that they do not have
def kExt (sha : List Byte) : ConstRec := ⟨1, 0, 0, 2, sha⟩
theorem test_preload_fills : preloads (bLoad [kExt []] 1) = [([⟨0, 0, 17024⟩], kExt [])] ∧ hashOk (kExt []) [7#8, 8#8] = true ∧ hashOk (kExt [1#8]) [7#8, 8#8] = false ∧
    ((stackOf (after (.preloadStorageComplete 0 [([7#8, 8#8], true)]) (sW (bLoad [kExt []] 1) true)) 0).map (fun k => k.mem.read 0 2)) = some [7#8, 8#8] ∧
    ((slotBundle (after (.preloadStorageComplete 0 [([7#8, 8#8], true)]) (sW (bLoad [kExt []] 1) true)) 0).map (·.st)) = some .ready ∧
    slotBundle (after (.preloadStorageComplete 0 [([7#8, 8#8], true)]) (sW (bLoad [kExt [1#8]] 1) true)) 0 = none := by decide +kernel
/-- A load in slot 1 that waits for the bundle in slot 0 to stop. -/
def sVic (run : RunState) : State :=
  let s := mod1 (bEv run)
  { s with pl := { s.pl with slots := s.pl.slots ++ [(1, { bLoad [] 0 with victims := [0], reply := told, placed := false, stations := [] })], busy := some 1 } }
theorem test_victim : (victimOf (sVic .running) 0).map (·.1) = some 1 ∧ allStopped (bEv .running) = false ∧ after (.evictDrained 0) (sVic .running) = sVic .running ∧
    slotBundle (after (.evictDrainTimeout 0) (sVic .running)) 1 = none := by decide +kernel

/-! ### Further clauses: tiles -/

/-- Stream 0 of the bundle goes from station 0 to the host, or to another module. -/
def rOut (kind remote : Nat) : StreamRec := { recStream 10 kind 0 0xFFFF with remote := remote, remoteValid := if kind = 4 then 0 else 1 }
theorem test_hop_relocating : hopOpen sC hop0 = true ∧ mayCross (recStream 10 0 0 1) ⟨1, 4, 5⟩ hop0.link = true ∧ hopOpen sC { hop0 with die := 0, link := .edge .west } = false ∧
    ((slotBundle (after (.tileHop 0 0 0 true hop0) (mod1 { bS (recStream 10 0 0 1) yFly (stn 0 0) with stations := [stn 0 0, { stn 1 0 with relocating := true }] })) 0).bind (fun b => b.streams[0]?)).map
      (fun y => (y.flight, y.ends.map (·.queue))) = some ([], [[⟨tl 10 6, none⟩]]) ∧
    after (.tileHop 0 0 0 false hop0) (mod1 (bS (recStream 10 0 0 1) yFly (stn 0 0))) = mod1 (bS (recStream 10 0 0 1) yFly (stn 0 0)) := by decide +kernel
theorem test_hop_to_host : (after (.tileHop 0 0 0 true hop0) (mod1 (bS (rOut 4 0) { yFly with receives := 2 } (stn 0 0)))).out = [.toHost 10#32 (tl 10 6)] ∧
    ((slotBundle (after (.tileHop 0 0 0 true hop0) (mod1 (bS (rOut 4 0) { yFly with receives := 2 } (stn 0 0)))) 0).bind (fun b => b.streams[0]?)).map (fun y => (y.flight, y.receives)) = some ([], 1) := by
  decide +kernel
/-- A stack that can hold dead letters on every die. -/
def upDies (s : State) : State := { s with dies := s.dies.map (fun d => { d with stks := d.stks.map (fun k => { k with wiping := false }) }) }
-- no route leads to module 5: the tile enters the dead-letter queue with NO_ROUTE
theorem test_hop_no_route : postcodeValid (valid (upDies (mod1 (bS (rOut 0 5) yFly (stn 0 0))))) = true ∧ route (valid (upDies (mod1 (bS (rOut 0 5) yFly (stn 0 0))))) 5 0 none none = none ∧
    (dlqOf (after (.tileHop 0 0 0 true hop0) (valid (upDies (mod1 (bS (rOut 0 5) yFly (stn 0 0)))))) 0).map (fun x => (x.reason, x.tile)) = [(0x0207, tl 10 6)] := by decide +kernel
/-- The module of sA with a tile of stream `id` for module `dest` in its receive buffer. -/
def sArr (id dest : Nat) (names : List (List Remembered)) : State :=
  let s := valid (upDies (sA (stm []) 7))
  { s with fab := { s.fab with links := [(0, lnk [⟨0, dest, tl id 7, 1⟩])] }, remembered := names }
theorem test_arrival_passes : 6 ≠ postcode (sArr 14 6 []) ∧ (linkOf (after (.remoteTileArrival 0 0) (sArr 14 6 [])) 0).map (·.inbox) = some [] := by decide +kernel
theorem test_arrival_unknown : streamById (sArr 99 0 [[], [], [], []]) 99 (fun _ => true) matches none ∧
    (dlqOf (after (.remoteTileArrival 0 0) (sArr 99 0 [[], [], [], []])) 0).map (fun x => (x.reason, x.tile)) = [(0x0208, tl 99 7)] ∧
    (dlqOf (after (.remoteTileArrival 0 0) (sArr 99 0 [[⟨99, []⟩], [], [], []])) 0).map (fun x => (x.reason, x.tile)) = [(0x0206, tl 99 7)] := by decide +kernel
theorem test_host_bad : headerFault 0x05 { (tl 12 0).hdr with format := 0 } = some 0x0203 ∧
    (after (.hostTileAdmit { tl 12 0 with hdr := { (tl 12 0).hdr with format := 0 } }) sC).pl = sC.pl ∧
    after (.hostTileAdmit (tl 12 0)) (mod1 { bun 0 (stn 0 0) with st := .evicting }) = emit (mod1 { bun 0 (stn 0 0) with st := .evicting }) (.rnr 12#32) := by decide +kernel

/-! ### Further clauses: cells, stacks, power, temperature -/

theorem test_cell_failure_free : goodCell sC 5 = true ∧ stationOn sC 5 = none ∧ SMap.find (after (.cellHardFailure 5) sC).pl.retired 5 = some .hard ∧
    fld (after (.cellHardFailure 5) sC) F.bndEventRetired = 1 ∧
    after (.relocatePendingTimeout 0) (s1 { stn 0 0 with relocating := true, relocReported := true }) = s1 { stn 0 0 with relocating := true, relocReported := true } := by decide +kernel
/-- One symbol of word 0 of a station's scratch is upset, and a control word. -/
def upset0 : Upset := ⟨0, 3, 1#8⟩
theorem test_patrol_counts : sC.phase = .running ∧ fld sC F.bndCtlAutoRetire = 1 ∧ fld sC F.bndRetireThreshThresh = 1000 ∧
    fldAt (after (.scratchPatrol 0 [upset0] ⟨[], [], [upset0]⟩) sC) F.memScrCeCount 0 0 0 = 2 ∧
    (stationAt (after (.scratchPatrol 0 [upset0] ⟨[], [], []⟩) sC) 0 0).map (fun st => st.scratch) = some (stn 0 0).scratch ∧
    fldAt (after (.scratchPatrol 5 [upset0] ⟨[], [], []⟩) sC) F.memScrCeCount 0 0 0 = 1 := by decide +kernel
theorem test_patrol_retires : SMap.find (after (.scratchPatrol 0 [upset0] ⟨[], [], []⟩) { sC with pl := { sC.pl with ceWindow := [(0, [(0, 1000)])] } }).pl.retired 0 = some .soft ∧
    SMap.find (after (.scratchPatrol 0 [upset0] ⟨[], [], []⟩) { sC with pl := { sC.pl with ceWindow := [(0, [(0, 999)])] } }).pl.retired 0 = none := by decide +kernel
theorem test_patrol_idle : (sK kUp).pl.slots.all (fun e => e.2.spills.isEmpty) = true ∧ dlqOf (sK kUp) 0 = [] ∧ kUp.repairing ≠ [] ∧
    fldAt (after (.stackPatrol 0 ⟨[], []⟩) (sK { Stack.wiped with wiping := false })) F.memStkStatScrubPass 0 0 0 = 1 := by decide +kernel
theorem test_repair_in_wipe : Stack.wiped.wiping = true ∧ 0 < sparesLeft Stack.wiped 1 ∧
    (stackOf (after (.rowRepairDone 0 1 2) sC) 0).map (fun k => SMap.getD k.repaired 1 []) = some [2] := by decide +kernel
theorem test_wipe_fails_stack : (stackOf (after (.stackWipeTimeout 0) sC) 0).map (fun k => (k.failed, k.wiping)) = some (true, false) ∧ dlqOf (after (.stackWipeTimeout 0) sC) 0 = [] := by
  decide +kernel
theorem test_frame_held : (slotBundle (after (.frameStartTimer 0) (mod1 { bFr [] with st := .held })) 0).map (fun b => (b.frameK, b.frames)) = some (4, []) ∧
    after .frameLateSummary sC = sC := by decide +kernel
theorem test_tick : (after (.powerCapTick 48000 100 1100 [(1, 10, 90)] []) { sPw 1000 false with active := none }).pace.setting = (sPw 1000 false).pace.setting ∧
    settingOf (after (.powerCapTick 48000 100 1100 [(0, 10, 90)] []) (sPw 1000 true)) 0 = 700 ∧
    (after (.powerCapTick 48000 100 1100 [] []) (sPw 1000 false)).pace.energy = 1100 := by decide +kernel
theorem test_brake_releases : (after (.brakeRelease 1 0) { sC with pace := { sC.pace with brakeCur := true } }).pace.brakeCur = false ∧
    (after (.brakeRelease 2 0) { sC with pace := { sC.pace with brakePow := true } }).pace.brakePow = false ∧
    dieCool { sC with regs := [((⟨.domTemp, 0, 0, 0⟩ : RegRef).addr, 400#32)] } 0 = false ∧ fld (after .brakeOvercurrent sC) F.pwrEventBrake = 1 := by decide +kernel
-- 105 °C in 0.25 °C; HIGH_C is 95 °C after reset; domain 79 belongs to no part
theorem test_hot : (0 ∈ (after (.temperatureSample [(0, 420, 0)]) sC).pace.high) ∧ partOf 79 = none ∧ domainExists sC.ident 79 = true ∧
    (after (.temperatureSample [(79, 440, 0)]) sC).elec.latched = true ∧ fldAt (after (.eolPrediction [(1, 2, 500)]) sC) F.ageKindDays 0 1 0 ≤ eolDays [500] (eolOf sC 1) := by decide +kernel

/-! ### Further clauses: engines, links, re-cabling, collectives -/

theorem test_spare_ready : spareReady (opticOf (sE (el0 .safe 0) (las .inUse) (las .lockedDark) none false) 0) 1 = true ∧
    lasers (.laserHandoverTrigger 0 0) (sE (el0 .safe 0) (las .inUse) (las .lockedDark) none false) = (.inUse, .lockedDark, some .announced) := by decide +kernel
theorem test_trips_counted : fldAt (after (.elementTrip 0 0 false) sC) F.optElemTripsCount 0 0 0 = 1 ∧ sC.dies.length ≤ 8 ∧ elemOpen sC 0 0 = false ∧
    (opticOf (after (.optSteerGo oC 0 1) sC) 0).waits = some (stagedPairs sC 0, []) ∧ lightReady sC 0 = false ∧
    (after (.optSteerGo oC 0 0) sC) = emit sC (.reg oC C.ok 0) ∧ (after (.optSteerGo oC 0 1) sBad).out = [.reg oC C.optSteerInvalid 0] := by decide +kernel
theorem test_calibrated_go : lightReady (litEng sC) 0 = true ∧ (opticOf (after (.optSteerGo oC 0 1) (litEng sC)) 0).pairs = stagedPairs (litEng sC) 0 := by decide +kernel
-- the link can send at once: RETRY goes out; a second loss asks for nothing
theorem test_retry_sent : (lnk []).txq[2]? = some [] ∧ 0 < ((lnk []).credits[2]?).getD 0 ∧
    ((after (.flitReceive 0 0 1 false (ft .idle 0 0)) (sLk (lnk []))).out.any (fun e => match e with | .flit 0 _ f => f.body == .link (.retry 0) | _ => false)) = true ∧
    lk (.flitReceive 0 0 1 false (ft .idle 0 0)) { lnk [] with retrying := true } = some { lnk [] with retrying := true } := by decide +kernel
theorem test_tile_in_parts : (lk (.flitReceive 0 0 0 true { ft (.tile [([7#8], 0)]) 0 0 with last := false }) (lnk [])).map (fun l => (l.rxNext, l.inbox.length, l.rx)) =
      some (1, 0, [[([7#8], 0)], [], [], []]) := by decide +kernel
theorem test_ident_judged : canFail (laneOf (sO (ln .active) (ln .dark)) 0 0 0).st = true ∧
    identOf (after (.linkIdentFlit 0 0 1 6 2 0 1 3 4 5) (sO (ln .active) (ln .dark))) 0 0 = some ⟨1, 6, 2, 0, 1, 3, 4, 5, 3⟩ ∧
    identOf (after (.linkIdentFlit 0 0 1 6 2 0 1 3 4 5) (sO (ln .cal) (ln .dark))) 0 0 = some ⟨1, 6, 2, 0, 1, 3, 4, 5, 3⟩ := by decide +kernel
/-- Pair 0 in LOOP. -/
def sLoops : State :=
  { sC with optics := { Optic.reset with pairs := [(0, ⟨0, true, true, true⟩)], lanes := [(8, ln .through), (17, ln .through)] } :: List.replicate 3 Optic.reset }
theorem test_loop_over : ((opticOf (after (.tofLoopRequest 0 0 true) sLoops) 0).pair 0).loop = false ∧ (laneOf (after (.tofLoopRequest 0 0 true) sLoops) 0 0 8).st = .spareIdle := by decide +kernel
theorem test_recable_refused : (after (.fabRecableGo oC 1) sC).out = [.reg oC C.fabPostcodeUnset 0] ∧ (after (.fabRecableGo oC 1) (valid sBad)).out = [.reg oC C.optSteerInvalid 0] ∧
    (after (.fabRecableGo oC 1) (sR true .idle 0x3F)).out = [.reg oC C.fabRbInvalid 0] ∧ (after (.fabRecableResume oC 0) (sR true .idle 0x20)).fab.recable = .idle ∧
    (after (.fabRbSwap oC 0) (sR true .idle 0x20)).fab.active = [] := by decide +kernel
theorem test_quiesce_paused : (after .quiesceTimeout (setFld (sR true .quiescing 0x20) F.fabRecablePause 1)).fab.recable = .paused ∧
    (after .quiesceIdle (setFld (sR true .quiescing 0x20) F.fabRecablePause 1)).fab.recable = .paused ∧ (after .quiesceTimeout (sR true .quiescing 0x20)).fab.recable = .idle ∧
    (after .quiesceTimeout (sR true .idle 0x20)).fab.recable = .idle := by decide +kernel
theorem test_expect_absent : portCount { sC.ident with fm2 := true } = 8 ∧ (after (.fabExpectBypassWrite oC false 32 0 5) sC).out = [.reg oC C.regUnmapped 0] ∧
    (after (.fabExpectBypassWrite oC false 9 0 5) { sC with ident := { sC.ident with fm2 := true } }).regs = sC.regs := by decide +kernel
/-- The stream of a running instance of the collective. -/
def collAfter (i : Instr) (c : Coll) (seq sends : Nat) : Option Coll := ((slotBundle (after i (valid (sCo c seq sends))) 0).bind (fun b => b.streams[0]?)).map (·.coll)
theorem test_coll_applies : (collAfter (.collTransferTile 0 0) coll1 1 0).map (fun c => (c.applied, c.acked, c.step)) = some ([(0, 1)], false, 0) ∧
    (linkOf (after (.collTransferTile 0 0) (valid (sCo coll1 1 0))) 0).map (fun l => l.inbox.length) = some 0 ∧
    (collAfter (.collTransferTile 0 0) { coll1 with past := [(0, [(0, 1)])], frame := 1 } 1 0).map (fun c => c.applied) = some [] := by decide +kernel
theorem test_coll_ends : stepReceived (collView (sCo coll1 1 0) 0 0 |>.map (·.p) |>.getD (CollParam.parse [])) { coll1 with applied := [(0, 1)] } 0 = true ∧
    (collAfter (.collStepAck 15#32 0) { coll1 with applied := [(0, 1)] } 1 0).map (fun c => (c.started, c.active)) = some (false, false) ∧
    collAfter (.collStepAck 15#32 1) coll1 1 0 = some { coll1 with sends := 0 } := by decide +kernel
theorem test_coll_aborts : (collAfter (.collPeerAbort 15#32) coll1 1 0).map (fun c => (c.started, c.active)) = some (false, false) ∧
    fld (after (.collPeerAbort 15#32) (valid (sCo coll1 1 0))) F.fabEventCollAbort = 1 ∧
    after (.collStepTimeout 0 0) (sCo { coll1 with acked := true } 1 0) = sCo { coll1 with acked := true } 1 0 := by decide +kernel

/-! ### Further clauses: servo, time, hubs, records, registers -/

-- what is not the command's kind is refused; what is so already stays
theorem test_srv_kinds : (after (.srvClose oC) (sV .closed Input.rest 0 .idle)).out = [.reg oC C.ok 0] ∧ (after (.srvOpen oC) (sV .open_ Input.rest 0 .idle)).out = [.reg oC C.ok 0] ∧
    (after (.srvOpen oC) (sV .closed Input.rest 1 .idle)).out = [.reg oC C.srvParamInvalid 0] ∧ (after (.srvRearm oC) (sV .closed Input.rest 0 .idle)).out = [.reg oC C.srvParamInvalid 0] ∧
    (after (.srvTestStart oC) (sV .closed Input.rest 0 .idle)).out = [.reg oC C.srvParamInvalid 0] ∧ (after (.srvStop oC) (sV .closed Input.rest 3 .idle)).out = [.reg oC C.ok 0] := by decide +kernel
-- a kind and parameter that are not there, an element past the last
theorem test_srv_param_bad : paramInfo 15 0 0 = none ∧ (after (.srvParamAccess oC none) (sV .open_ Input.rest 0xF .idle)).out = [.reg oC C.srvParamInvalid 0] ∧
    (after (.srvParamAccess oC (some 9)) (sV .open_ Input.rest 0x100 .idle)).out = [.reg oC C.srvParamInvalid 0] ∧ elemOk 0 1 1 1 = false ∧
    (after (.srvParamAccess oC none) (sV .open_ Input.rest 0x10000100 .idle)).out = [.reg oC C.srvParamInvalid 0] := by decide +kernel
-- an input armed: the law runs
theorem test_servo_law : (engOf (sV .closed Input.rest 0 .idle) .ha).nInputs 0 = 1 ∧ ((engOf (after (.servoSample [0] [(0, 0, [5#32], [])] []) (sV .closed Input.rest 0 .idle)) .ha).loop 0).st = .closed ∧
    ((engOf (after (.servoSample [0] [(0, 0, [5#32], [])] []) (sV .closed Input.rest 0 .idle)) .ha).loop 0).samples = 1 := by decide +kernel
theorem test_servo_stop : after (.servoSatTrip 0) (sV .open_ Input.rest 0 .idle) = sV .open_ Input.rest 0 .idle ∧ ((engOf (after (.servoSatTrip 0) (sV .closed Input.rest 0 .idle)) .ha).loop 0).cause = 1 ∧
    after (.servoOutHoldExpiry 3) { sC with drivers := ⟨[(3, ⟨some 1, some 1, 0, 0, 0, true⟩)], []⟩ } = { sC with drivers := ⟨[(3, ⟨some 1, some 1, 0, 0, 0, true⟩)], []⟩ } := by decide +kernel
/-- Input 8 filters what holds less than 20 ns, or is masked. -/
def sFi (st : InputState) : State := { sC with engA := { Servo.reset with inputs := [(8, { Input.rest with st := st }), (0, { Input.rest with st := st })], params := [(paramKey 1 8 0x31 0, 20#32), (paramKey 1 24 0x31 0, 20#32)] } }
theorem test_pulse_filter : (engOf (sFi .armed) .ha).filtered 8 19 = false ∧ engOf (after (.pulseEdge 8 true 1000 19) (sFi .armed)) .ha = engOf (sFi .armed) .ha ∧
    ((engOf (after (.pulseEdge 8 true 1000 20) (sFi .masked)) .ha).input 8).count = 0 ∧
    (engOf (sFi .armed) .ha).mode 0 ≠ 2 ∧ engOf (after (.ainEvent 0 9) (sFi .armed)) .ha = engOf (sFi .armed) .ha ∧
    (engOf (sFi .armed) .ha).filtered 24 19 = false ∧ after (.fsyncEdge 0 1000 19) (sFi .armed) = sFi .armed ∧
    (engOf (sFi .armed) .ha).par 1 0 0x33 0 = 0 ∧ after (.inputStuck 0) (sFi .armed) = sFi .armed := by decide +kernel
theorem test_stale_live : slotLive (sSt true) (engOf (sSt true) .ha) 0 = true ∧ engOf (after (.servoStreamStale 0) (sSt true)) .ha = engOf (sSt true) .ha := by decide +kernel
theorem test_time_stopped : after .tbSlewComplete (sT 1 .free Ptp.reset 0) = sT 1 .free Ptp.reset 0 ∧
    after .ptpSyncLoss (sT 1 .free Ptp.reset 0) = sT 1 .free Ptp.reset 0 ∧ after .ptpHoldExpiry (sT 1 .free Ptp.reset 0) = sT 1 .free Ptp.reset 0 ∧
    (after (.tbIncrHiWrite oC 6) (sT 1 .free Ptp.reset 0)).out = [.reg oC C.timeServoOwns 0] := by decide +kernel
/-- Port 0 of hub A in domain 1 with a delay measured; the answer to a delay request that is far from it. -/
def sPj : State := { sT 1 .locked (pt 0 true) 0 with regs := [((⟨.ptpCfg, 0, 1, 0⟩ : RegRef).addr, 0x805#32), ((⟨.tbCtl, 0, 0, 0⟩ : RegRef).addr, (regWord (sT 1 .locked (pt 0 true) 0) ⟨.tbCtl, 0, 0, 0⟩))] }
theorem test_ptp_jump : takesPtp sPj 0 0 0 = true ∧ takesPtp sPj 1 0 0 = false ∧ tbSelect sPj = 0 ∧ fldAt sPj F.ptpCfgDelay 0 0 0 ≠ 1 ∧ (ptpOf sPj .ha 0).hasMpd = true := by decide +kernel
/-- Stamps whose delay is any number asked for, whatever the port's latency. -/
theorem test_ptp_delay (tx rx d : Int) : (((rx - rx) - 0) + (2 * d - (-tx + tx))) / 2 = d := by omega
theorem test_link_time_down : after (.linkTimeExchange 0 5 5 10) (sLk { lnk [] with tofDone := false }) = sLk { lnk [] with tofDone := false } := by decide +kernel
theorem test_reset_held : after .rstNRelease (sP .running false false true false) = sP .running false false false false ∧ (after .refclkRestore (sP .resetHeld false false true true)).elec.clkLost = false ∧
    (after (.undervoltageOff 25000) (sP .unpowered false true false false)).elec.latched = true ∧ (after (.undervoltageOff 24999) (sP .unpowered false true false false)).elec.latched = false ∧
    after (.inputDip 30000) (sP .unpowered false false false false) = sP .unpowered false false false false ∧
    (after (.inputDip 30000) { sC with elec := { sC.elec with dipSecond := some sC.tb.sec } }).out = [] := by decide +kernel
theorem test_i3c_twice : after (.i3cSetdasa 0x2A 8) { sC with ha := { sC.ha with i3cDynamic := some 9 } } = { sC with ha := { sC.ha with i3cDynamic := some 9 } } := by decide +kernel
theorem test_heartbeat_none : after (.heartbeatLoss .hb true) (sP .resetHeld false false true false) = sP .resetHeld false false true false ∧
    (after (.heartbeatLoss .hb true) sC).hb = sC.hb ∧ after .crosslinkReturn (sP .resetHeld false false true false) = sP .resetHeld false false true false ∧
    after (.hubRestartComplete .ha) sC = sC ∧ after (.leaseLapse .ha) (sH { hubUp with lease := false } none) = sH { hubUp with lease := false } none := by decide +kernel
theorem test_eth_down : fldAt (setFld sC F.ethCtlEnable 0) F.ethCtlEnable 0 0 0 = 0 ∧ after (.ethLinkReturn .ha) (setFld sC F.ethCtlEnable 0) = setFld sC F.ethCtlEnable 0 ∧
    after (.arpNdIcmpEcho .ha 2 [] [7#8]) sC = sC ∧ after (.fwWriteStandby oC none) (sFw 0) = sFw 0 := by decide +kernel
/-- Hub B wrote 10,000 records in this second. -/
def recFull : Recorder := { Recorder.reset with written := 10000, second := sC.tb.sec, suppressed := [(5, 2)] }
theorem test_mirror_full : ((after (.recMirrorReceive .hb) { sC with ha := { sC.ha with recorder := { Recorder.reset with mirrorQ := [rc 3] } }, hb := { sC.hb with recorder := recFull } }).hb.recorder.suppressed) = [(1, 1), (5, 2)] ∧
    after (.recMirrorReceive .hb) sC = sC ∧ after (.recSuppressed .hb) { sC with hb := { sC.hb with recorder := recFull } } = { sC with hb := { sC.hb with recorder := recFull } } := by decide +kernel
-- a SEQ overwritten gives the oldest record; none found puts the cursor at the next SEQ
theorem test_cursor_old : laterThan (BitVec.ofNat 32 4) 1 = true ∧ (after (.recCursorWrite oC 1) sRec).ha.recorder.wState = 1 ∧ (after (.recFind oC 7) { sRec with regs := [((⟨.recFindSLo, 0, 0, 0⟩ : RegRef).addr, 6#32)] }).ha.recorder.cursor = 4 ∧
    (after (.recRetry oC 1 true) sC).out = [.reg oC C.ok 0] ∧ (after (.recRetry oC 0 true) sC).out = [.reg oC C.ok 0] := by decide +kernel
theorem test_samples : ((after (.pctSmpPop oC 1) { sC with sampling := { sC.sampling with buffer := [] } }).sampling.buffer = []) ∧ (after (.pctSmpPop oC 0) sC).out = [.reg oC C.ok 0] ∧
    (after (.pctClr oC 0) sC).out = [.reg oC C.ok 0] := by decide +kernel
theorem test_debug_items : (after (.dieDbgLoRead oC 0) (sDb 1 0 true)).out.length = 1 ∧ (after (.dieDbgLoRead oC 0) (sDb 3 0 true)).out = [.reg oC C.ok 0x44332211] ∧
    ((stationAt (after (.dieDbgWrite oC 0 1) (sDb 1 0 true)) 0 0).map (·.p)) = some 8#8 ∧
    ((stationAt (after (.dieDbgWrite oC 0 1) (sDb 3 1 true)) 0 0).map (fun st => hostByte st 8)) = some 9#8 ∧ (after (.dieDbgWrite oC 0 0) (sDb 0 1 true)).out = [.reg oC C.ok 0] := by decide +kernel
theorem test_security_off : (after (.secRetCommit oC 0) sC).out = [.reg oC C.ok 0] ∧ (after (.secKeyCommit oC 0) sC).out = [.reg oC C.ok 0] ∧ (after (.secGrantCommit oC 0) sC).out = [.reg oC C.ok 0] ∧
    (after (.secAttGo oC 0) sC).out = [.reg oC C.ok 0] ∧ after .grantExpiry sC = sC ∧ after .grantNotBefore sC = sC ∧
    (after (.secGrantCommit oC 1) (setFld sC F.tbQualUncertain 0)).out = [.reg oC C.secGrantBad 0] ∧ (after (.svnCommit oC 1) sC).out = [.reg oC C.ok 0] ∧
    (after (.secKeyErase oC 2) sC).out = [.reg oC C.ok 0] := by decide +kernel
theorem test_cal_none : after (.calRunComplete 6 0 [7#32] 50 1 false) (sX 6 0 (it true false)) = sX 6 0 (it true false) ∧ after (.calRunTimeout 6 0) (sX 6 0 (it true false)) = sX 6 0 (it true false) ∧
    after (.calBadRunRetry 6 0) (sX 6 0 (it false true)) = sX 6 0 (it false true) ∧ after (.calStarved 6 0) (sX 6 0 (it false false)) = sX 6 0 (it false false) ∧
    (after (.calCmdRun oC 0) (sS 6 0)).out = [.reg oC C.ok 0] ∧ (after (.calDataAccess oC none) (sS 6 1000)).out = [.reg oC C.ok 0] := by decide +kernel
theorem test_cal_commit_run : (calItem (after (.calCmdCommit oC 3) sStaged) 6 0).asked = true := by decide +kernel
theorem test_cal_window_margin : (laneOf (after (.calWindowAnnounce 0 0 ⟨0, true⟩) (sO (ln .active) (ln .spareIdle))) 0 0 0).st = .margin ∧
    (laneOf (after (.calWindowAnnounce 0 0 ⟨0, true⟩) (sO (ln .active) (ln .spareIdle))) 0 0 8).cover = some 0 := by decide +kernel
/-- The bundle whose first tally is homed on another module; one whose stream is a delta stream that it sources. -/
def bTr : Bundle := { bun 0 (stn 0 0) with tallies := [tal none, tal none] }
def bKr : Bundle := { bDl 0 false .no with st := .running }
theorem test_tally_far : (after (.talSetWrite oC 5) (setFld (mod1 bTr) F.talCtlDbgSet 1)).out = [.reg oC C.ok 0] ∧
    (after (.talSetWrite oC 5) (setFld (mod1 bTr) F.talCtlDbgSet 1)).pl = (mod1 bTr).pl ∧
    (after (.talRehomeWrite oC 7) (sTd .running true 1)).pl = (sTd .running true 1).pl := by decide +kernel
theorem test_key_request : (slotBundle (after (.dltKeyreqWrite oC 0) (mod1 bKr)) 0).map (fun b => b.streams.map (·.delta.keyPending)) = some [true] := by decide +kernel

/-! ### Ill-formed commands -/

/-- Every station instruction with a word of another opcode, and on a cell that no module has. -/
theorem test_wf_opcode : [.alu 0 0x00000000, .addi 0 0x00000000, .andi 0 0x00000000, .ori 0 0x00000000, .xori 0 0x00000000, .shli 0 0x00000000, .shri
  0 0x00000000, .sari 0 0x00000000, .movi 0 0x00000000, .movs 0 0x00000000, .cmp 0 0x00000000, .cmpi 0 0x00000000, .plog 0 0x00000000, .ld64 0
  0x00000000, .ld32 0 0x00000000, .ld8 0 0x00000000, .st64 0 0x00000000, .st32 0 0x00000000, .st8 0 0x00000000, .br 0 0x00000000, .call 0 0x00000000,
  .jr 0 0x00000000, .halt 0 0x00000000, .tset 0 0x00000000, .thdrR 0 0x00000000, .thdrW 0 0x00000000, .tcopy 0 0x00000000, .tzero 0 0x00000000, .cvt 0
  0x00000000, .collect 0 0x00000000, .post 0 0x00000000, .trycollect 0 0x00000000, .endctl 0 0x00000000, .endstat 0 0x00000000, .fetch 0 0x00000000,
  .stash 0 0x00000000, .gather 0 0x00000000, .scatter 0 0x00000000, .radd 0 0x00000000, .sfence 0 0x00000000, .tgive 0 0x00000000, .ttake 0
  0x00000000, .tdebit 0 0x00000000, .twatch 0 0x00000000, .confirm 0 0x00000000, .cancel 0 0x00000000, .drain 0 0x00000000, .stamp 0 0x00000000, .ctr
  0 0x00000000, .waitt 0 0x00000000, .accz 0 0x00000000, .mma 0 0x00000000, .accrd 0 0x00000000, .vOpF32 0 0x00000000, .vOpF64 0 0x00000000].any
  Instr.wellFormed = false := by decide
theorem test_wf_cell : [.alu 2048 0x02000000, .addi 2048 0x04000000, .andi 2048 0x06000000, .ori 2048 0x08000000, .xori 2048 0x0A000000, .shli 2048
  0x0C000000, .shri 2048 0x0E000000, .sari 2048 0x10000000, .movi 2048 0x12000000, .movs 2048 0x14000000, .cmp 2048 0x16000000, .cmpi 2048 0x18000000,
  .plog 2048 0x1A000000, .ld64 2048 0x20000000, .ld32 2048 0x22000000, .ld8 2048 0x24000000, .st64 2048 0x26000000, .st32 2048 0x28000000, .st8 2048
  0x2A000000, .br 2048 0x30000000, .call 2048 0x32000000, .jr 2048 0x34000000, .halt 2048 0x3E000000, .tset 2048 0x40000000, .thdrR 2048 0x42000000,
  .thdrW 2048 0x44000000, .tcopy 2048 0x46000000, .tzero 2048 0x48000000, .cvt 2048 0x4A000000, .collect 2048 0x50000000, .post 2048 0x52000000,
  .trycollect 2048 0x54000000, .endctl 2048 0x56000000, .endstat 2048 0x58000000, .fetch 2048 0x60000000, .stash 2048 0x62000000, .gather 2048
  0x64000000, .scatter 2048 0x66000000, .radd 2048 0x68000000, .sfence 2048 0x6A000000, .tgive 2048 0x70000000, .ttake 2048 0x72000000, .tdebit 2048
  0x74000000, .twatch 2048 0x76000000, .confirm 2048 0x78000000, .cancel 2048 0x7A000000, .drain 2048 0x80000000, .stamp 2048 0x82000000, .ctr 2048
  0x84000000, .waitt 2048 0x86000000, .accz 2048 0xA0000000, .mma 2048 0xA2000000, .accrd 2048 0xA4000000, .vOpF32 2048 0xB0000000, .vOpF64 2048
  0xB2000000, .reservedOpcode 2048 0xFE000000].any Instr.wellFormed = false := by decide +kernel
theorem test_wf_right : [.alu 2047 0x02000000, .addi 2047 0x04000000, .andi 2047 0x06000000, .ori 2047 0x08000000, .xori 2047 0x0A000000, .shli 2047
  0x0C000000, .shri 2047 0x0E000000, .sari 2047 0x10000000, .movi 2047 0x12000000, .movs 2047 0x14000000, .cmp 2047 0x16000000, .cmpi 2047 0x18000000,
  .plog 2047 0x1A000000, .ld64 2047 0x20000000, .ld32 2047 0x22000000, .ld8 2047 0x24000000, .st64 2047 0x26000000, .st32 2047 0x28000000, .st8 2047
  0x2A000000, .br 2047 0x30000000, .call 2047 0x32000000, .jr 2047 0x34000000, .halt 2047 0x3E000000, .tset 2047 0x40000000, .thdrR 2047 0x42000000,
  .thdrW 2047 0x44000000, .tcopy 2047 0x46000000, .tzero 2047 0x48000000, .cvt 2047 0x4A000000, .collect 2047 0x50000000, .post 2047 0x52000000,
  .trycollect 2047 0x54000000, .endctl 2047 0x56000000, .endstat 2047 0x58000000, .fetch 2047 0x60000000, .stash 2047 0x62000000, .gather 2047
  0x64000000, .scatter 2047 0x66000000, .radd 2047 0x68000000, .sfence 2047 0x6A000000, .tgive 2047 0x70000000, .ttake 2047 0x72000000, .tdebit 2047
  0x74000000, .twatch 2047 0x76000000, .confirm 2047 0x78000000, .cancel 2047 0x7A000000, .drain 2047 0x80000000, .stamp 2047 0x82000000, .ctr 2047
  0x84000000, .waitt 2047 0x86000000, .accz 2047 0xA0000000, .mma 2047 0xA2000000, .accrd 2047 0xA4000000, .vOpF32 2047 0xB0000000, .vOpF64 2047
  0xB2000000, .reservedOpcode 2047 0xFE000000].all Instr.wellFormed = true := by decide +kernel
theorem test_wf_reserved : Instr.wellFormed (.reservedOpcode 0 0x02000000) = false := by decide
/-- A request of a session whose number does not fit. -/
def hdrBad : CtrHdr := { hdr0 with session := 4294967296, dgrams := [⟨0, true, [], []⟩] }
theorem test_wf_operands0 : [.collectTileArrived 2048, .postFirstHopAccept ⟨2048, hop0⟩, .stackAccessComplete 2048 0 [] ⟨0, []⟩, .sfenceComplete 2048,
  .tallyStatusReturn 2048 0, .tallyStatusReturn 0 65536, .tallyRemoteProbe 2048, .tallyProbeTimeout 2048 .notHeld, .drainPointReached 2048,
  .waittTimeReached 2048, .blockInstructionComplete 2048 true 0, .tileHop 0 0 0 true { hop0 with die := 8 }, .streamStallLimit 2048, .remoteTileArrival 0 4,
  .hostTileAdmit tile0, .sessionOpen hdrBad, .sessionAuth hdrBad, .sessionClose hdrBad, .status hdrBad, .regRead hdrBad, .regWrite hdrBad, .bundleStage hdrBad,
  .bundleLoad hdrBad, .fitProbe hdrBad, .start hdrBad, .hold hdrBad, .evict hdrBad, .unload hdrBad, .mapRead hdrBad, .dlqRead hdrBad].any Instr.wellFormed =
  false := by decide +kernel
theorem test_wf_operands1 : [.dlqRelease hdrBad, .deltaRead hdrBad, .memRead hdrBad, .memWrite hdrBad, .calSave hdrBad, .calRestore hdrBad, .cellRetire hdrBad,
  .cellRestore hdrBad, .hostQp hdrBad, .reset hdrBad, .counterCommandUnknown hdrBad 0, .counterCommandUnknown hdr0 65536, .cellHardFailure 2048,
  .relocatePendingTimeout 2048, .scratchPatrol 2048 [] ⟨[], [], []⟩, .scratchPatrol 0 [⟨0, 18, 0⟩] ⟨[], [], []⟩, .stackPatrol 16 ⟨[], []⟩, .stackPatrol 0 ⟨[⟨0, 18, 0⟩], []⟩,
  .rowRepairDone 16 0 0, .stackWipeTimeout 16, .brakeRelease 0 0, .brakeRelease 1 8, .pwrCapWrite (.session 4294967296) 0,
  .pwrEnergyLoRead (.session 4294967296), .elementLoopSample 4 [] [], .elementTrip 4 0 true, .elementTrip 0 200 true, .identityCheck 4 0 [] 0 true,
  .identityCheck 0 200 [] 0 true, .laneLossOfLight 4 []].any Instr.wellFormed = false := by decide +kernel
theorem test_wf_operands2 : [.laneErrorRatio 4 0 0, .laneErrorRatio 0 8 0, .laneErrorRatio 0 0 9, .laneFarEndFail 4 0 0, .laneFarEndFail 0 8 0,
  .laneFarEndFail 0 0 9, .laneTrainingTimeout 4 0 0, .laneTrainingTimeout 0 8 0, .laneTrainingTimeout 0 0 9, .laneRetry 4 0 0 true, .laneRetry 0 8 0 true,
  .laneRetry 0 0 9 true, .lightReturnRetry 4 0 0 true, .lightReturnRetry 0 8 0 true, .lightReturnRetry 0 0 9 true, .spareMarginTest 4 0 0 0,
  .spareMarginTest 0 8 0 0, .marginTestComplete 4 0 0 0 0 0, .marginTestComplete 0 8 0 0 0 0, .marginTestComplete 0 0 9 0 0 0, .laneTrainingComplete 4 0 0,
  .laneTrainingComplete 0 8 0, .laneTrainingComplete 0 0 9, .calCoverSwitchPoint 4 0 ⟨0, false⟩, .calCoverSwitchPoint 0 8 ⟨0, false⟩, .calCoverSwitchPoint 0 0 ⟨9, false⟩,
  .laserHandoverTrigger 4 0, .laserHandoverTrigger 0 18, .laserSpareLocked 4 0, .laserSpareLocked 0 9].any Instr.wellFormed = false := by decide +kernel
theorem test_wf_operands3 : [.handoverWindowOpen 4 0, .handoverWindowOpen 0 9, .laserFail 4 0, .laserFail 0 18, .optSteerGo (.session 4294967296) 0 0,
  .optSteerGo (.session 1) 4 0, .steerDone 4, .flitReceive 512 0 0 true (ft .idle 0 0), .flitReceive 0 0 0 true { ft .idle 0 0 with vc := 4 },
  .linkRetryFlit 512 0, .linkLanesetFlit 512 [], .linkIdentFlit 32 0 0 0 0 0 0 0 0 0, .linkIdentFlit 0 9 0 0 0 0 0 0 0 0, .linkQuiesceFlit 512,
  .linkLostTimer 512, .fabRecableGo (.session 4294967296) 0, .fabRecableResume (.session 4294967296) 0, .fabRbSwap (.session 4294967296) 0,
  .fabRbCopy (.session 4294967296) 0, .fabRbDataAccess (.session 4294967296) none, .fabRbActiveRead (.session 4294967296),
  .fabPostcodeWrite (.session 4294967296) 0, .fabExpectBypassWrite (.session 4294967296) true 0 0 0, .fabExpectBypassWrite (.session 1) true 32 0 0,
  .fabExpectBypassWrite (.session 1) true 0 9 0, .tofMeasurement 512 true 0 0, .tofLambdaWaitTimeout 512, .tofLoopRequest 4 0 true, .tofLoopRequest 0 4 true,
  .linkEchoFlit 512 0 0].any Instr.wellFormed = false := by decide +kernel
theorem test_wf_operands4 : [.collTransferTile 512 0, .collTransferTile 0 4, .calRunStart 8 0 true, .calRunComplete 8 0 [] 0 0 true, .calRunTimeout 8 0,
  .calBadRunRetry 8 0, .calStarved 8 0, .calCmdCommit (.session 4294967296) 0, .calCmdRun (.session 4294967296) 0, .calDataAccess (.session 4294967296) none,
  .calWindowAnnounce 4 0 ⟨0, false⟩, .calWindowAnnounce 0 8 ⟨0, false⟩, .calWindowAnnounce 0 0 ⟨9, false⟩, .srvClose (.session 4294967296), .srvOpen (.session 4294967296),
  .srvRearm (.session 4294967296), .srvTestStart (.session 4294967296), .srvStop (.session 4294967296), .srvParamAccess (.session 4294967296) none,
  .servoSatTrip 32, .servoOutHoldExpiry 12, .pulseEdge 7 true 0 0, .fsyncEdge 4 0 0, .ainEvent 8 0, .inputStuck 28, .ptpMessageReceive .ha 256 0 (.sync 0 0),
  .ptpMessageReceive .ha 0 3 (.sync 0 0), .tbAdjWrite (.session 4294967296) 0, .tbIncrLoWrite (.session 4294967296) 0,
  .tbIncrHiWrite (.session 4294967296) 0].any Instr.wellFormed = false := by decide +kernel
theorem test_wf_operands5 : [.tbSelectWrite (.session 4294967296) 0, .tbServoWrite (.session 4294967296) 0, .tbSecLoRead (.session 4294967296),
  .linkTimeExchange 512 0 0 0, .i3cSetdasa 128 0, .i3cSetdasa 0 128, .i3cEntdaa 128, .fwWriteStandby (.session 4294967296) none,
  .fwHandover (.session 4294967296) 0, .fwAbort (.session 4294967296), .arpNdIcmpEcho .ha 3 [] [], .recCursorWrite (.session 4294967296) 0,
  .recFind (.session 4294967296) 0, .recRetry (.session 4294967296) 0 true, .pctClr (.session 4294967296) 0, .pctValLoRead (.session 4294967296),
  .pctSmpEnable (.session 4294967296) 0 0, .pctSmpEnable (.session 1) 8 0, .pctSmpPop (.session 4294967296) 0, .redOptimeLoRead (.session 4294967296),
  .dieDbgLoRead (.session 4294967296) 0, .dieDbgLoRead (.session 1) 8, .dieDbgWrite (.session 4294967296) 0 0, .dieDbgWrite (.session 1) 8 0,
  .svnCommit (.session 4294967296) 0, .secReqSignedWrite (.session 4294967296) 0, .secRetCommit (.session 4294967296) 0, .secLcCmd (.session 4294967296) 0 true,
  .secKeyCommit (.session 4294967296) 0, .secKeyErase (.session 4294967296) 0].any Instr.wellFormed = false := by decide +kernel
theorem test_wf_operands6 : [.secGrantDataAccess (.session 4294967296) none, .secGrantCommit (.session 4294967296) 0, .secGrantRevoke (.session 4294967296) 0,
  .secAttGo (.session 4294967296) 0, .talSetWrite (.session 4294967296) 0, .talRehomeWrite (.session 4294967296) 0, .talEpochEndWrite (.session 4294967296) 0,
  .dltKeyreqWrite (.session 4294967296) 0, .registerWritePlain (.session 4294967296) 0 0].any Instr.wellFormed = false := by decide +kernel
theorem test_wf_headers : CtrHdr.wellFormed { hdrBad with session := 1 } = true ∧ CtrHdr.wellFormed { hdrBad with session := 1, tag := 65536 } = false ∧ CtrHdr.wellFormed { hdrBad with session := 1, count := 0 } = false ∧
    CtrHdr.wellFormed { hdrBad with session := 1, dgrams := [] } = false ∧ CtrHdr.wellFormed { hdrBad with session := 1, dgrams := [⟨1, true, [], []⟩] } = false ∧
    CtrHdr.wellFormed { hdrBad with session := 1, dgrams := [⟨0, true, [0#8], []⟩] } = false ∧ Flit.wellFormed { ft .idle 0 0 with dest := 65536 } = false ∧ Flit.wellFormed (ft .idle 0 0) = true ∧
    HopInfo.wellFormed { hop0 with fails := 5 } = false ∧ HopInfo.wellFormed { hop0 with hit := [⟨266, 0, 0⟩] } = false ∧ HopInfo.wellFormed { hop0 with hit := [⟨0, 18, 0⟩] } = false ∧
    HopInfo.wellFormed hop0 = true ∧ Instr.wellFormed (.brakeRelease 4 0) = false ∧ Instr.wellFormed (.pulseEdge 24 true 0 0) = false ∧ Instr.wellFormed (.linkLostTimer 9) = false := by decide +kernel

/-! ### The queue and the words of the table -/

theorem test_queue_front : step { sC with pending := [.brakeOvercurrent, .brakeOverpower] } = exec .brakeOvercurrent { sC with pending := [.brakeOverpower] } := rfl
theorem test_no_words (n w : Nat) : decodeTableWord n w = none ∧ State.reset.withFetchWord n w = State.reset := ⟨rfl, rfl⟩
end Sys2Proof.Tests
end

section
/-!
SUPPORT. The result of a station command whose body moves its station on past the instruction.
-/
namespace Sys2Proof.Machine
open Sys2Proof

/-- A command whose body moves its station on past the instruction has the station's change as its result. -/
theorem stationResult_of_goOn {s : State} {cell : Nat} {w : Word} {x : Where} {c : Instr} {opc : Nat} {body : Issue → State}
    {st : Station} (h : Issues s cell w x) (hc : exec c s = done (issue s cell w opc body)) (ho : fOpc w = opc)
    (ht : isTallyOp opc = false) (hk : opc ≠ 0x28 ∧ opc ≠ 0x2A)
    (hb : ∀ i, IssueOf s x w i → ∃ f : Station → Station, body i = goOn i.s i.w f ∧ past (f (issued x w)) = st) :
    StationResult c s x st := by
  obtain ⟨i, hi, he⟩ := issue_of h ho (fun k => absurd k (by simp [ht])) hk body
  obtain ⟨f, hf, rfl⟩ := hb i hi
  exact ⟨_, hc.trans (congrArg done (he.trans hf)), hi.goOn h.at_.on.lt f⟩

end Sys2Proof.Machine
end

section
/-!
SUPPORT. ALU (R156): each operation code as an operation on numbers.
-/
namespace Sys2Proof.Machine
open Sys2Proof

theorem alu_stationResult {s : State} {cell : Nat} {w : Word} {x : Where} (h : Issues s cell w x) (ho : fOpc w = 0x01) :
    StationResult (.alu cell w) s x (past (setG (issued x w) (fRD w) (aluOp (fFN w) (getG x.st (fRA w)) (getG x.st (fRB w))))) := by
  refine stationResult_of_goOn h rfl ho rfl (by decide) fun i hi => ⟨_, rfl, ?_⟩
  simp only [Issue.ga, Issue.gb, hi.insn, hi.getG]

variable (a b : DWord)

theorem aluOp_shiftLeft : aluOp 0x05 a b = BitVec.ofNat 64 (a.toNat * 2 ^ (b.toNat % 64)) :=
  BitVec.eq_of_toNat_eq (by simp [aluOp, Nat.shiftLeft_eq])

theorem aluOp_shiftRight : aluOp 0x06 a b = BitVec.ofNat 64 (a.toNat / 2 ^ (b.toNat % 64)) := by
  have hlt : a.toNat / 2 ^ (b.toNat % 64) < 2 ^ 64 := Nat.lt_of_le_of_lt (Nat.div_le_self _ _) a.isLt
  refine BitVec.eq_of_toNat_eq ?_
  rw [BitVec.toNat_ofNat, Nat.mod_eq_of_lt hlt, ← Nat.shiftRight_eq_div_pow]
  exact BitVec.toNat_ushiftRight _ _

theorem aluOp_shiftRightSigned : aluOp 0x07 a b = BitVec.ofInt 64 (a.toInt / 2 ^ (b.toNat % 64)) := by
  show BitVec.ofInt 64 (a.toInt >>> (b.toNat % 64)) = _
  rw [Int.shiftRight_eq_div_pow]
  norm_cast

theorem aluOp_mul : aluOp 0x08 a b = BitVec.ofNat 64 (a.toNat * b.toNat) :=
  BitVec.eq_of_toNat_eq (by simp [aluOp])

theorem aluOp_minSigned : aluOp 0x0B a b = BitVec.ofInt 64 (min a.toInt b.toInt) := by
  simp only [aluOp, BitVec.slt_iff_toInt_lt]
  split <;> rename_i hlt
  · rw [min_eq_left hlt.le, BitVec.ofInt_toInt]
  · rw [min_eq_right (not_lt.1 hlt), BitVec.ofInt_toInt]

theorem aluOp_maxSigned : aluOp 0x0C a b = BitVec.ofInt 64 (max a.toInt b.toInt) := by
  simp only [aluOp, BitVec.slt_iff_toInt_lt]
  split <;> rename_i hlt
  · rw [max_eq_right hlt.le, BitVec.ofInt_toInt]
  · rw [max_eq_left (not_lt.1 hlt), BitVec.ofInt_toInt]

theorem aluOp_minUnsigned : aluOp 0x0D a b = BitVec.ofNat 64 (min a.toNat b.toNat) := by
  simp only [aluOp, BitVec.ult_iff_toNat_lt]
  split <;> rename_i hlt
  · rw [min_eq_left hlt.le, BitVec.ofNat_toNat, BitVec.setWidth_eq]
  · rw [min_eq_right (not_lt.1 hlt), BitVec.ofNat_toNat, BitVec.setWidth_eq]

theorem aluOp_maxUnsigned : aluOp 0x0E a b = BitVec.ofNat 64 (max a.toNat b.toNat) := by
  simp only [aluOp, BitVec.ult_iff_toNat_lt]
  split <;> rename_i hlt
  · rw [max_eq_right hlt.le, BitVec.ofNat_toNat, BitVec.setWidth_eq]
  · rw [max_eq_left (not_lt.1 hlt), BitVec.ofNat_toNat, BitVec.setWidth_eq]

end Sys2Proof.Machine

namespace Sys2Proof.Proofs
open Sys2Proof Sys2Proof.Machine

/-- Settles O9: the station that an ALU leaves holds `aluOp` in gd, and each code of R156 is the operation on numbers. -/
theorem aluWritesGd : Obligations.AluWritesGd := by
  intro s cell w x h ho
  have gives {fn : Nat} {v : DWord} (hv : aluOp fn (getG x.st (fRA w)) (getG x.st (fRB w)) = v) (hf : fFN w = fn) :
      StationResult (.alu cell w) s x (past (setG (issued x w) (fRD w) v)) := by
    subst hv hf
    exact alu_stationResult h ho
  exact ⟨gives rfl, gives rfl, gives rfl, gives rfl, gives rfl, gives (aluOp_shiftLeft _ _), gives (aluOp_shiftRight _ _),
    gives (aluOp_shiftRightSigned _ _), gives (aluOp_mul _ _), gives rfl, gives rfl, gives (aluOp_minSigned _ _),
    gives (aluOp_maxSigned _ _), gives (aluOp_minUnsigned _ _), gives (aluOp_maxUnsigned _ _)⟩

end Sys2Proof.Proofs
end

section
/-!
SUPPORT. Bit fields and registers: what a field reads after it, or another, was written.
-/
namespace Sys2Proof.Machine
open Sys2Proof

/-! ### Bit fields (R9) -/

theorem testBit_fieldOf (x lsb w i : Nat) : (fieldOf x lsb w).testBit i = (decide (i < w) && x.testBit (lsb + i)) := by
  rw [fieldOf, Nat.testBit_mod_two_pow, Nat.testBit_shiftRight]

theorem testBit_setField (x lsb w v i : Nat) :
    (setField x lsb w v).testBit i = if lsb ≤ i ∧ i < lsb + w then v.testBit (i - lsb) else x.testBit i := by
  have hlow : v % 2 ^ w < 2 ^ w := Nat.mod_lt _ (Nat.two_pow_pos w)
  have hx : x % 2 ^ lsb < 2 ^ lsb := Nat.mod_lt _ (Nat.two_pow_pos lsb)
  have hform : setField x lsb w v = 2 ^ lsb * (2 ^ w * (x >>> (lsb + w)) + v % 2 ^ w) + x % 2 ^ lsb := by
    rw [setField, pow_add]; ring
  rw [hform, Nat.testBit_two_pow_mul_add _ hx, Nat.testBit_two_pow_mul_add _ hlow, Nat.testBit_mod_two_pow,
    Nat.testBit_mod_two_pow, Nat.testBit_shiftRight]
  by_cases h1 : i < lsb
  · simp [h1]
  · by_cases h2 : i - lsb < w
    · rw [if_neg h1, if_pos h2, if_pos (by omega)]; simp [h2]
    · rw [if_neg h1, if_neg h2, if_neg (by omega)]
      congr 1
      omega

/-- A field after a field that does not meet it is written. -/
theorem fieldOf_setField_disjoint {lsb w lsb' w' : Nat} (h : lsb' + w' ≤ lsb ∨ lsb + w ≤ lsb') (x v : Nat) :
    fieldOf (setField x lsb w v) lsb' w' = fieldOf x lsb' w' := by
  refine Nat.eq_of_testBit_eq fun i => ?_
  rw [testBit_fieldOf, testBit_fieldOf, testBit_setField]
  by_cases hi : i < w'
  · rw [if_neg (by omega)]
  · simp [hi]

theorem fieldOf_setField_same (x lsb w v : Nat) : fieldOf (setField x lsb w v) lsb w = v % 2 ^ w := by
  refine Nat.eq_of_testBit_eq fun i => ?_
  rw [testBit_fieldOf, testBit_setField, Nat.testBit_mod_two_pow]
  by_cases hi : i < w
  · rw [if_pos (by omega), Nat.add_sub_cancel_left]
  · simp [hi]

/-- A field of a word's low bits. -/
theorem fieldOf_mod_two_pow {lsb w n : Nat} (h : lsb + w ≤ n) (x : Nat) : fieldOf (x % 2 ^ n) lsb w = fieldOf x lsb w := by
  refine Nat.eq_of_testBit_eq fun i => ?_
  rw [testBit_fieldOf, testBit_fieldOf, Nat.testBit_mod_two_pow]
  by_cases hi : i < w
  · simp [hi, show lsb + i < n by omega]
  · simp [hi]

/-! ### Registers (R14) -/

theorem regWord_setRegWord_same (s : State) (r : RegRef) (v : Word) : regWord (setRegWord s r v) r = v := by
  simp only [regWord, setRegWord, SMap.getD_setD, if_true]

theorem regWord_setRegWord_other (s : State) {r q : RegRef} (h : q.addr ≠ r.addr) (v : Word) :
    regWord (setRegWord s r v) q = regWord s q := by
  simp only [regWord, setRegWord, SMap.getD, SMap.setD]
  split
  · rw [SMap.find_erase_ne _ h]
  · rw [SMap.find_insert_ne _ _ h]

theorem fldAt_setFldAt_same (s : State) {f : Fld} (hf : f.lsb + f.width ≤ 32) (d i j v : Nat) :
    fldAt (setFldAt s f d i j v) f d i j = v % 2 ^ f.width := by
  rw [fldAt, setFldAt, regWord_setRegWord_same, BitVec.toNat_ofNat, fieldOf_mod_two_pow hf, fieldOf_setField_same]

/-- A field after another field of its register is written. -/
theorem fldAt_setFldAt_disjoint (s : State) {f g : Fld} (hr : g.reg = f.reg) (hg : g.lsb + g.width ≤ 32)
    (h : g.lsb + g.width ≤ f.lsb ∨ f.lsb + f.width ≤ g.lsb) (d i j v : Nat) :
    fldAt (setFldAt s f d i j v) g d i j = fldAt s g d i j := by
  rw [fldAt, setFldAt, hr, regWord_setRegWord_same, BitVec.toNat_ofNat, fieldOf_mod_two_pow hg, fieldOf_setField_disjoint h,
    fldAt, hr]

/-- A field after a register at another address is written. -/
theorem fldAt_setFldAt_other (s : State) {f g : Fld} {d i j d' i' j' : Nat}
    (h : (⟨g.reg, d', i', j'⟩ : RegRef).addr ≠ (⟨f.reg, d, i, j⟩ : RegRef).addr) (v : Nat) :
    fldAt (setFldAt s f d i j v) g d' i' j' = fldAt s g d' i' j' := by
  rw [fldAt, setFldAt, regWord_setRegWord_other _ h, fldAt]

/-! ### The fault registers of a cell (R174) -/

/-- The registers that a die has for each of its cells at a stride of 16 bytes, those of R174 among them. -/
def CellReg (r : Reg) : Prop := r.block = .die ∧ r.dims = [(0x10, 256)]

theorem CellReg.addr {r : Reg} (h : CellReg r) (d k : Nat) :
    (⟨r, d, k, 0⟩ : RegRef).addr = 0x100000 + d * 0x10000 + r.off + 0x10 * k := by
  obtain ⟨hb, hd⟩ := h
  simp only [RegRef.addr, hb, hd, Block.base]

/-- A field of one register of a cell after another of the cell's registers is written. -/
theorem fldAt_setFldAt_cellReg (s : State) (f g : Fld) (hf : CellReg f.reg) (hg : CellReg g.reg) (h : g.reg.off ≠ f.reg.off)
    (d k v : Nat) : fldAt (setFldAt s f d k 0 v) g d k 0 = fldAt s g d k 0 :=
  fldAt_setFldAt_other s (by rw [hf.addr, hg.addr]; omega) v

theorem cellReg_dieFltStat : CellReg .dieFltStat := ⟨rfl, rfl⟩
theorem cellReg_dieFltPc : CellReg .dieFltPc := ⟨rfl, rfl⟩
theorem cellReg_dieFltInsn : CellReg .dieFltInsn := ⟨rfl, rfl⟩
theorem cellReg_dieFltDetail : CellReg .dieFltDetail := ⟨rfl, rfl⟩

/-- The fault registers of a cell hold a fault (R174). -/
structure FaultHeld (t : State) (cell code pc : Nat) (w : Word) (detail : Nat) : Prop where
  code : fldAt t F.dieFltStatCode (dieOf cell) (cell % 256) 0 = code
  valid : fldAt t F.dieFltStatValid (dieOf cell) (cell % 256) 0 = 1
  pc : fldAt t F.dieFltPcPc (dieOf cell) (cell % 256) 0 = pc % 2 ^ 16
  insn : fldAt t F.dieFltInsnInsn (dieOf cell) (cell % 256) 0 = w.toNat
  detail : fldAt t F.dieFltDetailDetail (dieOf cell) (cell % 256) 0 = detail

/-- The status fields are not touched by the writes of PC, word and DETAIL. -/
theorem statFld_faultRegs (s : State) (g : Fld) (hg : g.reg = .dieFltStat) (d k pc insn detail : Nat) :
    fldAt (setFldAt (setFldAt (setFldAt s F.dieFltPcPc d k 0 pc) F.dieFltInsnInsn d k 0 insn) F.dieFltDetailDetail d k 0 detail) g d k 0 =
      fldAt s g d k 0 := by
  have hs : CellReg g.reg := hg ▸ cellReg_dieFltStat
  rw [fldAt_setFldAt_cellReg _ F.dieFltDetailDetail g cellReg_dieFltDetail hs (by rw [hg]; decide),
    fldAt_setFldAt_cellReg _ F.dieFltInsnInsn g cellReg_dieFltInsn hs (by rw [hg]; decide),
    fldAt_setFldAt_cellReg _ F.dieFltPcPc g cellReg_dieFltPc hs (by rw [hg]; decide)]

theorem faultRegs_held (s : State) (cell pc : Nat) (w : Word) (lost : Bool) {code detail : Nat} (hc : code < 2 ^ 16) (hd : detail < 2 ^ 32) :
    FaultHeld (faultRegs s cell code pc w detail lost) cell code pc w detail := by
  constructor <;> dsimp only [faultRegs]
  case code =>
    rw [statFld_faultRegs _ F.dieFltStatCode rfl,
      fldAt_setFldAt_disjoint _ (f := F.dieFltStatLost) (g := F.dieFltStatCode) rfl (by decide) (by decide),
      fldAt_setFldAt_disjoint _ (f := F.dieFltStatValid) (g := F.dieFltStatCode) rfl (by decide) (by decide),
      fldAt_setFldAt_same _ (f := F.dieFltStatCode) (by decide)]
    exact Nat.mod_eq_of_lt hc
  case valid =>
    rw [statFld_faultRegs _ F.dieFltStatValid rfl,
      fldAt_setFldAt_disjoint _ (f := F.dieFltStatLost) (g := F.dieFltStatValid) rfl (by decide) (by decide),
      fldAt_setFldAt_same _ (f := F.dieFltStatValid) (by decide)]
    rfl
  case pc =>
    rw [fldAt_setFldAt_cellReg _ F.dieFltDetailDetail F.dieFltPcPc cellReg_dieFltDetail cellReg_dieFltPc (by decide),
      fldAt_setFldAt_cellReg _ F.dieFltInsnInsn F.dieFltPcPc cellReg_dieFltInsn cellReg_dieFltPc (by decide)]
    exact fldAt_setFldAt_same _ (f := F.dieFltPcPc) (by decide) _ _ _ _
  case insn =>
    rw [fldAt_setFldAt_cellReg _ F.dieFltDetailDetail F.dieFltInsnInsn cellReg_dieFltDetail cellReg_dieFltInsn (by decide),
      fldAt_setFldAt_same _ (f := F.dieFltInsnInsn) (by decide)]
    exact Nat.mod_eq_of_lt w.isLt
  case detail =>
    rw [fldAt_setFldAt_same _ (f := F.dieFltDetailDetail) (by decide)]
    exact Nat.mod_eq_of_lt hd

end Sys2Proof.Machine
end

section
/-!
SUPPORT. A station fault (R169 to R174), said once: what the fault registers and the station show after it, whatever the report,
the end of waits and tallies, and the bundle's HELD or FAULTED then do.
-/
namespace Sys2Proof.Machine
open Sys2Proof

/-! ### What the consequences of a fault leave standing -/

/-- A station that a fault has stopped. -/
def Station.Stopped (st : Station) : Prop := st.run = .faulted ∧ st.waiting = .no

/-- The station at an index of a bundle has stopped. -/
def Bundle.StoppedAt (b : Bundle) (idx : Nat) : Prop := ∃ st, b.stations[idx]? = some st ∧ st.Stopped

/-- The station of a slot's bundle at an index has stopped. -/
def StoppedIn (s : State) (slot idx : Nat) : Prop := ∃ st, stationAt s slot idx = some st ∧ st.Stopped

/-- From `s` to `t` a stopped station stays stopped, and the registers of dies, engines and fabric (R14: from 0x0010_0000 on) hold
what they held. -/
structure FaultStands (slot idx : Nat) (s t : State) : Prop where
  regs : ∀ r : RegRef, 0x100000 ≤ r.addr → regWord t r = regWord s r
  stopped : StoppedIn s slot idx → StoppedIn t slot idx

variable {slot idx : Nat} {s t u : State}

theorem stoppedIn_iff : StoppedIn s slot idx ↔ ∃ b, slotBundle s slot = some b ∧ b.StoppedAt idx := by
  simp only [StoppedIn, stationAt, Option.bind_eq_some_iff, Bundle.StoppedAt]
  exact ⟨fun ⟨st, ⟨b, hb, hst⟩, h⟩ => ⟨b, hb, st, hst, h⟩, fun ⟨b, hb, st, hst, h⟩ => ⟨st, ⟨b, hb, hst⟩, h⟩⟩

theorem FaultStands.refl (s : State) : FaultStands slot idx s s := ⟨fun _ _ => rfl, id⟩

theorem FaultStands.trans (h : FaultStands slot idx s t) (k : FaultStands slot idx t u) : FaultStands slot idx s u :=
  ⟨fun r hr => (k.regs r hr).trans (h.regs r hr), fun hs => k.stopped (h.stopped hs)⟩

/-- An operation that touches neither registers, identity nor bundles. -/
theorem FaultStands.of_eq (hr : t.regs = s.regs) (hi : t.ident = s.ident) (hp : t.pl = s.pl) : FaultStands slot idx s t :=
  ⟨fun r _ => by simp only [regWord, hr, hi], fun h => by simpa only [StoppedIn, stationAt, slotBundle, hp] using h⟩

theorem FaultStands.foldl {α : Type} {g : State → α → State} (hg : ∀ s a, FaultStands slot idx s (g s a)) (l : List α) (s : State) :
    FaultStands slot idx s (l.foldl g s) := by
  induction l generalizing s with
  | nil => exact .refl s
  | cons a l ih => exact (hg s a).trans (ih _)

/-! ### Registers and counters -/

/-- A field of a register below the blocks of the dies. -/
theorem FaultStands.setFld (s : State) (f : Fld) (v : Nat) (hf : (⟨f.reg, 0, 0, 0⟩ : RegRef).addr < 0x100000) :
    FaultStands slot idx s (setFld s f v) where
  regs r hr := regWord_setRegWord_other _ (by omega) _
  stopped h := h

theorem FaultStands.setEvent (s : State) (f : Fld) (hf : (⟨f.reg, 0, 0, 0⟩ : RegRef).addr < 0x100000) :
    FaultStands slot idx s (setEvent s f) := .setFld s f 1 hf

theorem FaultStands.bumpEv (s : State) (ev : Nat) (c : EvCtx) (n : Nat) : FaultStands slot idx s (bumpEv s ev c n) :=
  .of_eq (bumpEv_regs s ev c n) (bumpEv_ident s ev c n) (bumpEv_pl s ev c n)

/-! ### Reports -/

theorem FaultStands.setHub (s : State) (h : Hub) (x : HubSt) : FaultStands slot idx s (setHub s h x) :=
  .of_eq (setHub_regs s h x) (setHub_ident s h x) (setHub_pl s h x)

theorem FaultStands.degradeRecorder (s : State) (h : Hub) : FaultStands slot idx s (degradeRecorder s h) :=
  (FaultStands.setHub s h _).trans (.setFld _ F.redFaultRecorder 1 (by decide))

theorem FaultStands.recordWithin (s : State) (h : Hub) (code : Nat) (put : State → State) (hput : ∀ s, FaultStands slot idx s (put s)) :
    FaultStands slot idx s (recordWithin s h code put) := by
  unfold Machine.recordWithin
  extract_lets c0 c s0
  split
  · exact .setHub s h _
  · refine .trans ?_ (hput _)
    split
    · exact (FaultStands.setHub s h _).trans (.degradeRecorder _ h)
    · exact .setHub s h _

theorem FaultStands.writeRecord (s : State) (h : Hub) (r : Report) : FaultStands slot idx s (writeRecord s h r) :=
  .recordWithin s h _ _ fun _ => .setHub _ h _

theorem FaultStands.hostEvents (s : State) (h : Hub) (r : Report) : FaultStands slot idx s (hostEvents s h r) := .of_eq rfl rfl rfl

theorem FaultStands.fileReport (s : State) (r : Report) : FaultStands slot idx s (fileReport s r) := by
  have hrec (h : Hub) : FaultStands slot idx s (if r.toRec then Machine.writeRecord s h r else s) := by
    split
    · exact .writeRecord s h r
    · exact .refl s
  unfold Machine.fileReport
  split
  · exact .of_eq rfl rfl rfl
  · dsimp only
    split
    · exact (hrec _).trans (.hostEvents _ _ r)
    · exact hrec _

theorem FaultStands.report (s : State) (code source handle : Nat) (detail : List Byte) :
    FaultStands slot idx s (report s code source handle detail) := .fileReport s _

/-! ### Messages (R364 to R366) -/

theorem FaultStands.modLink (s : State) (key : Nat) (f : Link → Link) : FaultStands slot idx s (modLink s key f) := by
  unfold Machine.modLink
  split
  · exact .of_eq rfl rfl rfl
  · exact .refl s

theorem FaultStands.emit (s : State) (e : Emit) : FaultStands slot idx s (emit s e) := .of_eq rfl rfl rfl

theorem FaultStands.sendOne (s : State) (key : Nat) (l : Link) (vc : Nat) : FaultStands slot idx s (sendOne s key l vc) := by
  unfold Machine.sendOne emitFlit
  split
  · exact .refl s
  · dsimp only
    split
    · exact .modLink _ _ _
    · exact ((FaultStands.modLink _ _ _).trans (.modLink _ _ _)).trans (.emit _ _)

theorem FaultStands.pump (fuel : Nat) (s : State) (key : Nat) : FaultStands slot idx s (pump fuel s key) := by
  induction fuel generalizing s with
  | zero => exact .refl s
  | succ fuel ih =>
    unfold Machine.pump
    split
    · exact .refl s
    · split
      · exact .refl s
      · split
        · exact .refl s
        · exact (FaultStands.sendOne _ _ _ _).trans (ih _)

theorem FaultStands.creditWaitOne (key : Nat) (s : State) (vc : Nat) : FaultStands slot idx s (creditWaitOne key s vc) := by
  unfold Machine.creditWaitOne
  split
  · exact .refl s
  · dsimp only
    split
    · exact .modLink _ _ _
    · exact (FaultStands.modLink _ _ _).trans (.bumpEv _ _ _ _)
    · exact .refl s

theorem FaultStands.pumpLink (s : State) (key : Nat) : FaultStands slot idx s (pumpLink s key) := by
  unfold Machine.pumpLink
  split
  · exact (FaultStands.pump _ _ _).trans (.foldl (FaultStands.creditWaitOne key) _ _)
  · exact .refl s

theorem FaultStands.queueFrom (via : Option Nat) (s : State) (key vc : Nat) (fs : List Flit) :
    FaultStands slot idx s (queueFrom via s key vc fs) := (FaultStands.modLink s key _).trans (.pumpLink _ key)

theorem FaultStands.sendMsg (s : State) (dest vc : Nat) (b : FlitBody) : FaultStands slot idx s (sendMsg s dest vc b) := by
  unfold Machine.sendMsg sendVia
  split
  · exact .refl s
  · split
    · exact .of_eq rfl rfl rfl
    · split
      · exact .queueFrom _ _ _ _ _
      · exact .of_eq rfl rfl rfl

/-! ### Bundles -/

/-- A bundle changed so that a stopped station stays stopped. -/
theorem FaultStands.modBundle (s : State) (n : Nat) (f : Bundle → Bundle) (hf : ∀ b, b.StoppedAt idx → (f b).StoppedAt idx) :
    FaultStands slot idx s (modBundle s n f) where
  regs r _ := by simp only [regWord, modBundle_regs, modBundle_ident]
  stopped h := by
    rw [stoppedIn_iff] at h ⊢
    obtain ⟨b, hb, hstop⟩ := h
    by_cases hn : slot = n
    · subst hn
      exact ⟨f b, by rw [modBundle_of hb, slotBundle_setSlot], hf b hstop⟩
    · refine ⟨b, ?_, hstop⟩
      unfold Machine.modBundle
      split
      · exact (SMap.find_insert_ne _ _ hn).trans hb
      · exact hb

/-- A bundle's stations changed one by one, each stopped one staying so. -/
theorem Bundle.StoppedAt.modAt {b : Bundle} (h : b.StoppedAt idx) (j : Nat) {f : Station → Station} (hf : ∀ st, st.Stopped → (f st).Stopped) :
    Bundle.StoppedAt { b with stations := modAt b.stations j f } idx := by
  obtain ⟨st, hst, hstop⟩ := h
  unfold Machine.modAt
  split
  · rename_i a ha
    by_cases hj : j = idx
    · subst hj
      obtain rfl : a = st := Option.some.inj (ha.symm.trans hst)
      exact ⟨f a, by simp [(List.getElem?_eq_some_iff.1 ha).1], hf a hstop⟩
    · exact ⟨st, (List.getElem?_set_ne hj).trans hst, hstop⟩
  · exact ⟨st, hst, hstop⟩

theorem Bundle.StoppedAt.map {b : Bundle} (h : b.StoppedAt idx) {f : Station → Station} (hf : ∀ st, st.Stopped → (f st).Stopped) :
    Bundle.StoppedAt { b with stations := b.stations.map f } idx := by
  obtain ⟨st, hst, hstop⟩ := h
  exact ⟨f st, by simp [hst], hf st hstop⟩

theorem FaultStands.modStation (s : State) (n j : Nat) (f : Station → Station) (hf : ∀ st, st.Stopped → (f st).Stopped) :
    FaultStands slot idx s (modStation s n j f) := .modBundle s n _ fun _ h => h.modAt j hf

theorem FaultStands.modTally (s : State) (n j : Nat) (f : Tally → Tally) : FaultStands slot idx s (modTally s n j f) :=
  .modBundle s n _ fun _ h => h

/-! ### HELD and FAULTED (R81, R82, R279) -/

theorem FaultStands.stallCount (s : State) (w : Where) : FaultStands slot idx s (stallCount s w) := by
  unfold Machine.stallCount
  dsimp only
  split
  · exact .bumpEv _ _ _ _
  · exact .bumpEv _ _ _ _
  · exact .bumpEv _ _ _ _
  · exact .refl s

theorem FaultStands.stallAll (s : State) (n : Nat) : FaultStands slot idx s (stallAll s n) := by
  unfold Machine.stallAll
  split
  · exact .refl s
  · refine .foldl (fun s i => ?_) _ s
    split
    · exact .stallCount s _
    · exact .refl s

theorem FaultStands.leaveRemote (s : State) (n : Nat) : FaultStands slot idx s (leaveRemote s n) := by
  unfold Machine.leaveRemote
  split
  · exact .refl s
  · refine .foldl (fun s st => ?_) _ s
    split
    · exact .refl s
    · split
      · exact .refl s
      · split
        · split
          · exact .sendMsg s _ _ _
          · exact .refl s
        · exact .refl s

theorem FaultStands.answer (s : State) (n tally : Nat) (src : TallySrc) (status : Nat) : FaultStands slot idx s (answer s n tally src status) := by
  cases src with
  | station i => exact .modStation s n i _ fun _ h => h
  | remote pc tag _ _ => exact .sendMsg s _ _ _

theorem FaultStands.orphanTally (s : State) (n i : Nat) : FaultStands slot idx s (orphanTally s n i) := by
  unfold Machine.orphanTally
  split
  · exact .refl s
  · split
    · exact .refl s
    · extract_lets s1 s2
      have h1 : FaultStands slot idx s s1 := .foldl (fun s (w : Waiter) => .answer s n i w.src C.ownerLost) _ s
      have h2 : FaultStands slot idx s1 s2 := by
        dsimp only [s2]
        split
        · exact .refl s1
        · exact .modBundle s1 n _ fun _ h => h.map fun _ hs => hs
      exact (h1.trans h2).trans ((FaultStands.modTally s2 n i _).trans (.setEvent _ F.talEventOrphaned (by decide)))

theorem FaultStands.orphanHomed (s : State) (n : Nat) : FaultStands slot idx s (orphanHomed s n) := by
  unfold Machine.orphanHomed
  split
  · exact .refl s
  · refine .foldl (fun s i => ?_) _ s
    split
    · split
      · exact .orphanTally s n i
      · exact .refl s
    · exact .refl s

/-- HOLD leaves a station that a fault has stopped as it is (R81, R175). -/
theorem Bundle.StoppedAt.holdOne {b : Bundle} (h : b.StoppedAt idx) (j : Nat) : (holdOne b j).StoppedAt idx := by
  obtain ⟨st, hst, hrun, hwait⟩ := h
  have other {st' : Station} (hj : j ≠ idx) : (b.stations.set j st')[idx]? = some st := (List.getElem?_set_ne hj).trans hst
  unfold Machine.holdOne
  split
  · exact ⟨st, hst, hrun, hwait⟩
  · rename_i a ha
    split
    · exact ⟨st, hst, hrun, hwait⟩
    · rename_i hr
      have hj : j ≠ idx := by
        rintro rfl
        obtain rfl : a = st := Option.some.inj (ha.symm.trans hst)
        simp [hrun] at hr
      split
      · exact ⟨st, other hj, hrun, hwait⟩
      · exact ⟨st, other hj, hrun, hwait⟩

theorem Bundle.StoppedAt.holdAll {b : Bundle} (h : b.StoppedAt idx) : (holdAll b).StoppedAt idx := by
  unfold Machine.holdAll
  generalize List.range b.stations.length = l
  induction l generalizing b with
  | nil => exact h
  | cons j l ih => exact ih (h.holdOne j)

theorem FaultStands.holdFor (s : State) (n : Nat) : FaultStands slot idx s (holdFor s n) := by
  unfold Machine.holdFor holdBundle
  split
  · exact .refl s
  · split
    · exact ((FaultStands.stallAll s n).trans (.leaveRemote _ n)).trans (.modBundle _ n _ fun b (h : b.StoppedAt idx) => h.holdAll)
    · exact .refl s

theorem FaultStands.faultBundle (s : State) (n : Nat) : FaultStands slot idx s (faultBundle s n) := by
  unfold Machine.faultBundle
  split
  · exact .refl s
  · split
    · exact .refl s
    · extract_lets s1
      have h1 : FaultStands slot idx s s1 := ((FaultStands.stallAll s n).trans (.leaveRemote _ n)).trans (.orphanHomed _ n)
      refine h1.trans (.trans (.modBundle s1 n _ fun b h => ?_) (.setEvent _ F.bndEventFaulted (by decide)))
      exact Bundle.StoppedAt.holdAll h

/-! ### The fault -/

theorem FaultHeld.stands {cell code pc detail : Nat} {w : Word} (h : FaultHeld s cell code pc w detail) (k : FaultStands slot idx s t) :
    FaultHeld t cell code pc w detail := by
  have keep (f : Fld) (hf : CellReg f.reg) : fldAt t f (dieOf cell) (cell % 256) 0 = fldAt s f (dieOf cell) (cell % 256) 0 := by
    rw [fldAt, k.regs _ (by rw [hf.addr]; omega), fldAt]
  exact ⟨(keep _ cellReg_dieFltStat).trans h.code, (keep _ cellReg_dieFltStat).trans h.valid, (keep _ cellReg_dieFltPc).trans h.pc,
    (keep _ cellReg_dieFltInsn).trans h.insn, (keep _ cellReg_dieFltDetail).trans h.detail⟩

theorem faultRegs_pl (s : State) (cell code pc : Nat) (insn : Word) (detail : Nat) (lost : Bool) :
    (faultRegs s cell code pc insn detail lost).pl = s.pl := by
  unfold faultRegs
  extract_lets d k overs s1 s2
  have h1 : s1.pl = s.pl := by
    dsimp only [s1]
    split
    · exact setFldAt_pl s _ _ _ _ _
    · rfl
  -- rewritten one write at a time: the kernel cannot check the six of them as one unfolding
  rw [setFldAt_pl, setFldAt_pl, setFldAt_pl, ← h1]
  dsimp only [s2]
  rw [setFldAt_pl, setFldAt_pl, setFldAt_pl]

/-- Whether a fault of a station loses DETAIL and state with its speculation region (R171). -/
def unresolvedAt (w : Where) : Bool := w.sr.spec != 0 && regionUnresolved w.b w.sr.spec

/-- A station fault stops its station, and the registers of its cell hold it. -/
theorem stationFaultAt_shows {b : Bundle} (w : Where) (hb : slotBundle s w.slot = some b) (hi : w.idx < b.stations.length)
    {code : Nat} (hc : code < 2 ^ 16) (detail pc : Nat) (insn : Word) :
    FaultHeld (stationFaultAt s w code detail pc insn) (cellNo w.st) code pc insn (if unresolvedAt w then 0 else detail % 2 ^ 32) ∧
      StoppedIn (stationFaultAt s w code detail pc insn) w.slot w.idx := by
  have hd : (if unresolvedAt w then 0 else detail % 2 ^ 32) < 2 ^ 32 := by
    split
    · decide
    · exact Nat.mod_lt _ (by decide)
  unfold stationFaultAt
  extract_lets inSpec lost dt cell s1 s2 s3
  have held : FaultHeld s1 cell code pc insn dt := faultRegs_held s cell pc insn lost hc hd
  have hregs : FaultStands w.slot w.idx s1 s2 := .report s1 _ _ _ _
  have hb2 : slotBundle s2 w.slot = some b := by
    rw [slotBundle, report_pl, faultRegs_pl]; exact hb
  have hstop : StoppedIn s3 w.slot w.idx := by
    rw [stoppedIn_iff]
    refine ⟨_, by rw [show s3 = setSlot s2 w.slot _ from modBundle_of hb2 _, slotBundle_setSlot], ?_⟩
    refine ⟨{ b.stations[w.idx] with run := .faulted, waiting := .no }, ?_, rfl, rfl⟩
    rw [modAt_of (List.getElem?_eq_getElem hi)]
    exact List.getElem?_set_self hi
  have hend : FaultStands w.slot w.idx s3 (if lost = true then faultBundle s3 w.slot else holdFor s3 w.slot) := by
    split
    · exact .faultBundle s3 _
    · exact .holdFor s3 _
  exact ⟨(held.stands (hregs.trans (.modStation s2 w.slot w.idx _ fun _ _ => ⟨rfl, rfl⟩))).stands hend, hend.stopped hstop⟩

end Sys2Proof.Machine
end

section
/-!
SUPPORT. The faults that an instruction meets before it executes (R148, R150, R172): how every station command issues, and the
instruction at issue as its fault reads it.
-/
namespace Sys2Proof.Machine
open Sys2Proof

/-! ### A fault of an instruction at issue -/

/-- What a fault reads of an instruction at issue: its station, its place and its word are those of `x` and `w`. -/
structure IssueAt (s : State) (cell : Nat) (x : Where) (w : Word) (i : Issue) : Prop where
  only : ∃ st, OnlyStation s i.s x st
  slot : i.w.slot = x.slot
  idx : i.w.idx = x.idx
  cell : cellNo i.w.st = cell
  pc : i.w.st.pc = x.st.pc
  sr : i.w.sr = x.sr
  img : i.w.b.img = x.b.img
  streams : i.w.b.streams = x.b.streams
  insn : i.insn = w

theorem unresolvedAt_iff (x : Where) : unresolvedAt x = true ↔ x.sr.spec ≠ 0 ∧ regionUnresolved x.b x.sr.spec = true := by
  rw [unresolvedAt, Bool.and_eq_true, bne_iff_ne]

theorem IssueAt.unresolvedAt {s : State} {cell : Nat} {x : Where} {w : Word} {i : Issue} (h : IssueAt s cell x w i) :
    unresolvedAt i.w = unresolvedAt x := by
  have hregion : regionUnresolved i.w.b = regionUnresolved x.b := by
    funext n
    unfold regionUnresolved producerSpec
    rw [h.img, h.streams]
  rw [Machine.unresolvedAt, h.sr, hregion, Machine.unresolvedAt]

/-- The fault of an instruction at issue is shown with its word and PC. -/
theorem IssueAt.fault_shown {s : State} {cell : Nat} {x : Where} {w : Word} {i : Issue} (h : IssueAt s cell x w i)
    (hi : x.idx < x.b.stations.length) {code : Nat} (hc : code < 2 ^ 16) (detail : Nat) :
    FaultShown (i.fault code detail) cell x code x.st.pc w (shownDetail x (detail % 2 ^ 32)) := by
  obtain ⟨st, hst⟩ := h.only
  have hb : slotBundle i.s i.w.slot = some (withStation x st) := by rw [h.slot]; exact hst.bundle
  have hlen : i.w.idx < (withStation x st).stations.length := by simpa [withStation, h.idx] using hi
  obtain ⟨held, stop⟩ := stationFaultAt_shows i.w hb hlen hc detail i.w.st.pc i.insn
  have hdetail : (if Machine.unresolvedAt i.w = true then 0 else detail % 2 ^ 32) = shownDetail x (detail % 2 ^ 32) := by
    simp only [h.unresolvedAt, unresolvedAt_iff, shownDetail]
  rw [h.cell, h.pc, h.insn, hdetail] at held
  rw [h.slot, h.idx, h.pc, h.insn] at stop
  rw [Issue.fault, stationFault, h.pc, h.insn]
  exact ⟨stop, held.code, held.valid, held.pc, held.insn, held.detail⟩

/-- Issuing with nothing read yet: the station's place in program order is taken. -/
theorem begin_nil_only {s : State} {cell : Nat} {x : Where} (h : OnCell s cell x) (w : Word) :
    OnlyStation s (begin_ s x w []).s x (counted x) := by
  obtain ⟨c, p, n, hb⟩ := countBlocked_frame s x w
  unfold begin_ scratchFound
  simp only [scanItems, List.foldl_nil, if_true]
  rw [hb, bumpEv_frame]
  have hcell (c p n) : OnCell { s with counts := c, sampling := p, free := n } cell x :=
    ⟨h.on, h.slot, h.station, h.record, h.placed⟩
  obtain ⟨c', p', n', e⟩ := OnlyStation.start (hcell _ _ _) (fun st =>
    { st with scratch := x.st.scratch, order := st.order + 1, blockedSince := none, waiting := .no,
              stallReported := st.stallReported && st.waiting == .retry })
  exact ⟨c', p', n', e⟩

theorem begin_nil_issueAt {s : State} {cell : Nat} {x : Where} (h : OnCell s cell x) (w : Word) :
    IssueAt s cell x w (begin_ s x w []) where
  only := ⟨_, begin_nil_only h w⟩
  slot := rfl
  idx := rfl
  cell := by rw [cellNo, show (begin_ s x w []).w.st.cell = some cell from h.placed]; rfl
  pc := rfl
  sr := rfl
  img := rfl
  streams := rfl
  insn := rfl

/-! ### How a station command issues (R148, R150, R152) -/

/-- Every station command issues its word under the word's own opcode. -/
theorem StationCommand.exec_eq {cell : Nat} {w : Word} {c : Instr} (h : StationCommand cell w c) (s : State) :
    ∃ gate body, exec c s = done (issueGated s cell w (fOpc w) gate body) := by
  cases h with
  | reservedOpcode hr =>
    refine ⟨fun _ => false, fun i => i.s, congrArg done ?_⟩
    rw [hr]
    rfl
  | _ ho => rw [ho]; exact ⟨_, _, rfl⟩

theorem AtWord.mayIssue {s : State} {cell : Nat} {w : Word} {x : Where} (h : AtWord s cell w x) : mayIssue s x = true := by
  have hw := h.idle
  have hb := h.bundle
  simp [Machine.mayIssue, h.phase, h.run, hw, hb]

/-- A word that R150 refuses. -/
theorem issueGated_invalid {s : State} {cell : Nat} {w : Word} {x : Where} (h : AtWord s cell w x) (hv : validWord w = false)
    (gate : Where → Bool) (body : Issue → State) :
    issueGated s cell w (fOpc w) gate body = (begin_ s x w []).fault C.opcodeInvalid 0 := by
  simp [issueGated, h.on.on, h.mayIssue, h.word, h.settled, hv]

/-- The last word of the code, which would fall through. -/
theorem issueGated_fallsThrough {s : State} {cell : Nat} {w : Word} {x : Where} (h : AtWord s cell w x) (hv : validWord w = true)
    (hm : mustWait x.st w = false) (hf : fallsThrough x.st w = true) (gate : Where → Bool) (body : Issue → State) :
    issueGated s cell w (fOpc w) gate body = (begin_ s x w []).fault C.pcRange (x.st.pc + 4) := by
  simp [issueGated, h.on.on, h.mayIssue, h.word, h.settled, hv, hm, hf]

theorem StationCommand.invalid_faults {s : State} {cell : Nat} {w : Word} {x : Where} {c : Instr} (h : AtWord s cell w x)
    (hc : StationCommand cell w c) (hv : validWord w = false) : ∃ t, exec c s = .next t ∧ FaultShown t cell x 0x0210 x.st.pc w 0 := by
  obtain ⟨gate, body, he⟩ := hc.exec_eq s
  rw [issueGated_invalid h hv] at he
  have hshown := (begin_nil_issueAt h.on w).fault_shown h.on.lt (code := C.opcodeInvalid) (by decide) 0
  rw [show shownDetail x (0 % 2 ^ 32) = 0 from ite_self 0] at hshown
  exact ⟨_, he, hshown⟩

theorem StationCommand.fallsThrough_faults {s : State} {cell : Nat} {w : Word} {x : Where} {c : Instr} (h : AtWord s cell w x)
    (hc : StationCommand cell w c) (hv : validWord w = true) (hm : mustWait x.st w = false) (hf : fallsThrough x.st w = true)
    (hpc : x.st.pc + 4 < 2 ^ 32) : ∃ t, exec c s = .next t ∧ FaultShown t cell x 0x0211 x.st.pc w (shownDetail x (x.st.pc + 4)) := by
  obtain ⟨gate, body, he⟩ := hc.exec_eq s
  rw [issueGated_fallsThrough h hv hm hf] at he
  have hshown := (begin_nil_issueAt h.on w).fault_shown h.on.lt (code := C.pcRange) (by decide) (x.st.pc + 4)
  rw [Nat.mod_eq_of_lt hpc] at hshown
  exact ⟨_, he, hshown⟩

/-- A word whose opcode is not listed is not valid (R164). -/
theorem validWord_of_not_listed {w : Word} (h : listedOpcode (fOpc w) = false) : validWord w = false := by
  unfold validWord
  extract_lets
  split
  case h_56 => rfl
  all_goals
    rename_i ho
    rw [ho] at h
    exact absurd h (by decide)

/-- The last word of the code falls through, guarded off or not a branch nor HALT. -/
theorem fallsThrough_of_last {st : Station} {w : Word} (hl : st.code.length * 4 = st.pc + 4)
    (h : guardTrue st w = false ∨ (fOpc w ≠ 0x18 ∧ fOpc w ≠ 0x19 ∧ fOpc w ≠ 0x1A ∧ fOpc w ≠ 0x1F)) : fallsThrough st w = true := by
  have hle : 4 * st.code.length ≤ st.pc + 4 := by omega
  rcases h with hg | ⟨h1, h2, h3, h4⟩
  · simp [fallsThrough, hle, hg]
  · simp [fallsThrough, hle, h1, h2, h3, h4]

end Sys2Proof.Machine

namespace Sys2Proof.Proofs
open Sys2Proof Sys2Proof.Machine

/-- Settles O12: every station command issues its word first, and the checks of R150 and R172 come before its own (the order
that log entry 13 deduces). -/
theorem invalidWordsAndTheEndOfCodeFault : Obligations.InvalidWordsAndTheEndOfCodeFault := by
  refine ⟨?invalid, ?last, ?reserved⟩
  case invalid =>
    intro s cell w x c h hc hv
    exact hc.invalid_faults h hv
  case last =>
    intro s cell w x c h hc hv hm hl hg hpc
    exact hc.fallsThrough_faults h hv hm (fallsThrough_of_last hl hg) hpc
  case reserved =>
    intro s cell w x h hr
    exact (StationCommand.reservedOpcode hr).invalid_faults h (validWord_of_not_listed hr)

end Sys2Proof.Proofs
end

section
/-!
SUPPORT. Bytes of memory: little-endian numbers in runs of bytes, and what a store leaves where the words it meets need no correction.
-/
namespace Sys2Proof.Machine
open Sys2Proof

/-! ### Little-endian numbers (R8) -/

@[simp] theorem length_leBytes (n v : Nat) : (leBytes n v).length = n := by
  induction n generalizing v with
  | zero => rfl
  | succ n ih => simp [leBytes, ih]

theorem leNat_leBytes (n v : Nat) : leNat (leBytes n v) = v % 256 ^ n := by
  induction n generalizing v with
  | zero => simp [leBytes, leNat, Nat.mod_one]
  | succ n ih => rw [leBytes, leNat, ih, pow_succ', Nat.mod_mul, BitVec.toNat_ofNat]

theorem leNat_lt (bs : List Byte) : leNat bs < 256 ^ bs.length := by
  induction bs with
  | nil => exact Nat.one_pos
  | cons b bs ih =>
    have hb : b.toNat < 256 := b.isLt
    rw [leNat, List.length_cons, pow_succ']
    omega

/-! ### Runs of bytes -/

@[simp] theorem Mem.length_read (m : Mem) (a n : Nat) : (m.read a n).length = n := by simp [Mem.read]

theorem Mem.getElem_read (m : Mem) (a n i : Nat) (h : i < (m.read a n).length) : (m.read a n)[i] = m.byte (a + i) := by
  simp [Mem.read]

theorem Mem.leNat_read_lt (m : Mem) (a n : Nat) : leNat (m.read a n) < 256 ^ n := by
  simpa using leNat_lt (m.read a n)

/-- A slice of a run of bytes. -/
theorem Mem.slice_read (m : Mem) (a : Nat) {off n len : Nat} (h : off + n ≤ len) : slice (m.read a len) off n = m.read (a + off) n := by
  refine List.ext_getElem (by simp [slice]; omega) fun i hi hj => ?_
  simp only [slice, List.getElem_take, List.getElem_drop, Mem.getElem_read, Nat.add_assoc]

theorem Mem.fieldLE_read (m : Mem) (a : Nat) {off n len : Nat} (h : off + n ≤ len) :
    fieldLE (m.read a len) off n = leNat (m.read (a + off) n) := by rw [fieldLE, Mem.slice_read m a h]

/-! ### Words that need no correction (R232, R234, R237) -/

/-- Every word that a run of bytes meets has the check field of its bytes. -/
def Mem.CleanRun (m : Mem) (a n : Nat) : Prop := ∀ k, a / 16 ≤ k → 16 * k < a + n → classify (m.diff k) = .clean

theorem mem_wordsIn {a n k : Nat} (h : k ∈ wordsIn a n) : a / 16 ≤ k ∧ 16 * k < a + n := by
  unfold wordsIn at h
  split at h
  · simp at h
  · obtain ⟨i, hi, rfl⟩ := List.mem_map.1 h
    rw [List.mem_range] at hi
    omega

theorem Mem.CleanRun.subrun {m : Mem} {a n b k : Nat} (h : m.CleanRun a n) (hb : a ≤ b) (hk : b + k ≤ a + n) : m.CleanRun b k :=
  fun w hw1 hw2 => h w (le_trans (Nat.div_le_div_right hb) hw1) (lt_of_lt_of_le hw2 hk)

/-- A store over words that need no correction changes only the bytes stored. -/
theorem Mem.byte_store {m : Mem} {a : Nat} {bs : List Byte} (h : m.CleanRun a bs.length) (b : Nat) :
    (m.store a bs).byte b = if a ≤ b ∧ b < a + bs.length then (bs[b - a]?).getD 0 else m.byte b := by
  unfold Mem.store
  extract_lets m1
  suffices hm : m1.byte b = m.byte b by rw [Mem.byte_putBytes, hm]
  have hclean : ∀ k ∈ wordsIn a bs.length, classify (m.diff k) = .clean := fun k hk => h k (mem_wordsIn hk).1 (mem_wordsIn hk).2
  dsimp only [m1]
  clear m1 h
  generalize wordsIn a bs.length = l at hclean
  induction l generalizing m with
  | nil => rfl
  | cons k l ih =>
    rw [List.foldl_cons]
    split
    · refine (ih fun k' hk' => ?_).trans (Mem.byte_setDiff _ _ _ _)
      rw [Mem.diff_setDiff]
      split
      · decide
      · exact hclean k' (List.mem_cons_of_mem _ hk')
    · rw [hclean k List.mem_cons_self]
      exact ih fun k' hk' => hclean k' (List.mem_cons_of_mem _ hk')

theorem Mem.read_store {m : Mem} {a : Nat} {bs : List Byte} (h : m.CleanRun a bs.length) : (m.store a bs).read a bs.length = bs := by
  refine List.ext_getElem (by simp) fun i hi hj => ?_
  rw [Mem.getElem_read, Mem.byte_store h, if_pos (by omega)]
  simp [hj]

/-- A number stored in a run of bytes: the run reads as it, and every other byte as before. -/
theorem Mem.store_leBytes {m : Mem} {a n : Nat} (h : m.CleanRun a n) (v : Nat) :
    leNat ((m.store a (leBytes n v)).read a n) = v % 256 ^ n ∧
      ∀ b, (b < a ∨ a + n ≤ b) → (m.store a (leBytes n v)).byte b = m.byte b := by
  have h' : m.CleanRun a (leBytes n v).length := by rwa [length_leBytes]
  refine ⟨?_, fun b hb => ?_⟩
  · have hr := Mem.read_store h'
    rw [length_leBytes] at hr
    rw [hr, leNat_leBytes]
  · rw [Mem.byte_store h', if_neg (by rw [length_leBytes]; omega)]

/-! ### The corrector (R234) -/

theorem SMap.mem_of_find {α : Type} {m : SMap α} {k : Nat} {v : α} (h : SMap.find m k = some v) : (k, v) ∈ m := by
  induction m with
  | nil => simp [SMap.find] at h
  | cons e r ih =>
    obtain ⟨j, u⟩ := e
    rw [SMap.find] at h
    split at h
    · rename_i hk
      cases h
      exact hk ▸ List.mem_cons_self
    · exact List.mem_cons_of_mem _ (ih h)

/-- What `Mem.correct` does at one listed word. -/
def correctStep (s : Scrub) (e : Nat × BitVec 16) : Scrub :=
  match classify e.2 with
  | .clean => s
  | .single i v =>
    let m' := if i < 16 then s.mem.put (16 * e.1 + i) (s.mem.byte (16 * e.1 + i) ^^^ BitVec.ofNat 8 v) else s.mem
    ⟨m'.setDiff e.1 0#16, s.fixed ++ [e.1], s.bad⟩
  | .poison => { s with bad := s.bad ++ [(e.1, true)] }
  | .uncorrectable => { s with bad := s.bad ++ [(e.1, false)] }

theorem Mem.correct_eq (m : Mem) (a n : Nat) : m.correct a n =
    (m.chk.filter (fun e => a / 16 ≤ e.1 && decide (16 * e.1 < a + n))).foldl correctStep ⟨m, [], []⟩ := rfl

/-- How many words a correcting read has corrected or found uncorrectable. -/
def Scrub.found (s : Scrub) : Nat := s.fixed.length + s.bad.length

theorem correctStep_cases (s : Scrub) (e : Nat × BitVec 16) :
    (classify e.2 = .clean ∧ correctStep s e = s) ∨ (correctStep s e).found = s.found + 1 := by
  unfold correctStep
  split
  · exact .inl ⟨‹_›, rfl⟩
  all_goals
    right
    simp only [Scrub.found, List.length_append, List.length_singleton]
    omega

theorem le_found_foldl_correctStep (l : List (Nat × BitVec 16)) (s : Scrub) : s.found ≤ (l.foldl correctStep s).found := by
  induction l generalizing s with
  | nil => exact le_rfl
  | cons e l ih =>
    refine le_trans ?_ (ih _)
    rcases correctStep_cases s e with ⟨_, h⟩ | h
    · rw [h]
    · omega

theorem foldl_correctStep_of_found {l : List (Nat × BitVec 16)} {s : Scrub} (h : (l.foldl correctStep s).found = s.found) :
    (∀ e ∈ l, classify e.2 = .clean) ∧ l.foldl correctStep s = s := by
  induction l generalizing s with
  | nil => simp
  | cons e l ih =>
    rw [List.foldl_cons] at h ⊢
    rcases correctStep_cases s e with ⟨hclean, hs⟩ | hs
    · rw [hs] at h ⊢
      exact ⟨List.forall_mem_cons.2 ⟨hclean, (ih h).1⟩, (ih h).2⟩
    · have := le_found_foldl_correctStep l (correctStep s e)
      omega

/-- A correcting read that finds nothing changes nothing, and the words it met need no correction. -/
theorem Mem.correct_of_found {m : Mem} {a n : Nat} (h : (m.correct a n).found = 0) : m.CleanRun a n ∧ m.correct a n = ⟨m, [], []⟩ := by
  rw [Mem.correct_eq] at h ⊢
  obtain ⟨hclean, heq⟩ := foldl_correctStep_of_found h
  refine ⟨fun k hk1 hk2 => ?_, heq⟩
  rw [Mem.diff, SMap.getD]
  cases hf : SMap.find m.chk k with
  | none => decide
  | some d => exact hclean (k, d) (List.mem_filter.2 ⟨SMap.mem_of_find hf, by simp [hk1, hk2]⟩)

/-- What `scanItems` does at one item. -/
def scanItem (r : ScanR) (i : Item) : ScanR :=
  match i with
  | .bytes a n => r.run a n
  | .slot a n =>
    let q := r.run a n
    if q.bad.length = r.bad.length then q else { q with mem := q.mem.setPoison a }
  | _ => r

theorem scanItems_eq (m : Mem) (items : List Item) : scanItems m items = items.foldl scanItem ⟨m, 0, 0, []⟩ := rfl

/-- How many words a scan has corrected or found uncorrectable. -/
def ScanR.found (r : ScanR) : Nat := r.ce + r.bad.length

theorem ScanR.found_run (r : ScanR) (a n : Nat) : (r.run a n).found = r.found + (r.mem.correct a n).found := by
  simp only [ScanR.found, ScanR.run, Scrub.found, List.length_append, List.length_map]
  omega

theorem ScanR.run_of_found {r : ScanR} {a n : Nat} (h : (r.run a n).found = r.found) : r.mem.CleanRun a n ∧ r.run a n = r := by
  rw [ScanR.found_run] at h
  obtain ⟨hclean, hc⟩ := Mem.correct_of_found (m := r.mem) (a := a) (n := n) (by omega)
  refine ⟨hclean, ?_⟩
  simp only [ScanR.run, hc, List.foldl_nil, List.length_nil, Nat.add_zero, List.filter_nil, List.map_nil, List.append_nil]

theorem found_scanItem_slot (r : ScanR) (a n : Nat) : (scanItem r (.slot a n)).found = (r.run a n).found := by
  unfold scanItem
  dsimp only
  split <;> rfl

theorem le_found_scanItem (r : ScanR) (i : Item) : r.found ≤ (scanItem r i).found := by
  cases i with
  | bytes a n => exact (ScanR.found_run r a n).symm ▸ Nat.le_add_right _ _
  | slot a n => rw [found_scanItem_slot, ScanR.found_run]; exact Nat.le_add_right _ _
  | _ => exact le_rfl

theorem scanItem_of_found {r : ScanR} {i : Item} (h : (scanItem r i).found = r.found) :
    (∀ a n, i.span = some (a, n) → r.mem.CleanRun a n) ∧ scanItem r i = r := by
  cases i with
  | bytes a n =>
    obtain ⟨hclean, hr⟩ := ScanR.run_of_found h
    exact ⟨fun _ _ he => by cases he; exact hclean, hr⟩
  | slot a n =>
    obtain ⟨hclean, hr⟩ := ScanR.run_of_found ((found_scanItem_slot r a n).symm.trans h)
    refine ⟨fun _ _ he => by cases he; exact hclean, ?_⟩
    simp only [scanItem, hr, if_true]
  | _ => exact ⟨nofun, rfl⟩

theorem le_found_foldl_scanItem (l : List Item) (r : ScanR) : r.found ≤ (l.foldl scanItem r).found := by
  induction l generalizing r with
  | nil => exact le_rfl
  | cons i l ih => exact le_trans (le_found_scanItem r i) (ih _)

theorem foldl_scanItem_of_found {l : List Item} {r : ScanR} (h : (l.foldl scanItem r).found = r.found) :
    ∀ i ∈ l, ∀ a n, i.span = some (a, n) → r.mem.CleanRun a n := by
  induction l generalizing r with
  | nil => simp
  | cons i l ih =>
    rw [List.foldl_cons] at h
    have h1 := le_found_scanItem r i
    have h2 := le_found_foldl_scanItem l (scanItem r i)
    obtain ⟨hclean, hi⟩ := scanItem_of_found (r := r) (i := i) (by omega)
    rw [hi] at h
    exact List.forall_mem_cons.2 ⟨hclean, ih h⟩

/-- The bytes that an instruction's items are need no correction where the scan of them finds nothing. -/
theorem cleanRun_of_scanItems {m : Mem} {items : List Item} (h : scanItems m items = ⟨m, 0, 0, []⟩) {i : Item} (hi : i ∈ items) {a n : Nat}
    (hs : i.span = some (a, n)) : m.CleanRun a n := by
  rw [scanItems_eq] at h
  have hfound : (items.foldl scanItem ⟨m, 0, 0, []⟩).found = ScanR.found ⟨m, 0, 0, []⟩ := by rw [h]
  exact foldl_scanItem_of_found hfound i hi a n hs

end Sys2Proof.Machine
end

section
/-!
SUPPORT. THDR.R and THDR.W (R158): header fields as numbers in the bytes of a slot.
-/
namespace Sys2Proof.Machine
open Sys2Proof

/-! ### Header fields (R41, R42) -/

/-- A header field is the little-endian number in its bytes. -/
theorem toNat_headerField (m : Mem) (a : Nat) {off n w : Nat} (h : off + n ≤ 32) (hw : 256 ^ n = 2 ^ w) :
    (BitVec.ofNat w (fieldLE (m.read a 32) off n)).toNat = leNat (m.read (a + off) n) := by
  rw [Mem.fieldLE_read m a h, BitVec.toNat_ofNat, ← hw, Nat.mod_eq_of_lt (Mem.leNat_read_lt m _ n)]

theorem b2n_flag (h : TileHeader) (n : Nat) : b2n (h.flag n) = h.flags.toNat / 2 ^ n % 2 := by
  rw [TileHeader.flag, BitVec.getLsbD, ← Nat.toNat_testBit]
  cases h.flags.toNat.testBit n <;> rfl

theorem setField_lt {x lsb w n : Nat} (hx : x < 2 ^ n) (hw : lsb + w ≤ n) (v : Nat) : setField x lsb w v < 2 ^ n := by
  refine Nat.lt_pow_two_of_testBit _ fun i hi => ?_
  rw [testBit_setField, if_neg (by omega)]
  exact Nat.testBit_lt_two_pow (lt_of_lt_of_le hx (Nat.pow_le_pow_right (by decide) hi))

theorem b2n_bitAt_zero (v : Nat) : b2n (bitAt v 0) = v % 2 := by
  have h : fieldOf v 0 1 = v % 2 := by simp [fieldOf]
  rw [bitAt, h, b2n]
  rcases Nat.mod_two_eq_zero_or_one v with h | h <;> rw [h] <;> rfl

theorem toNat_setFlag (h : TileHeader) {n : Nat} (hn : n < 16) (v : Nat) :
    (h.setFlag n (bitAt v 0)).flags.toNat = setField h.flags.toNat n 1 (v % 2) := by
  have hlt : setField h.flags.toNat n 1 (v % 2) < 2 ^ 16 := setField_lt h.flags.isLt (by omega) _
  rw [TileHeader.setFlag, b2n_bitAt_zero, BitVec.toNat_ofNat, Nat.mod_eq_of_lt hlt]

/-! ### THDR.R -/

theorem thdrR_stationResult {s : State} {cell : Nat} {w : Word} {x : Where} {h : Handle} (hx : Issues s cell w x) (ho : fOpc w = 0x21)
    (hh : getT x.st (fRA w) = some h) :
    StationResult (.thdrR cell w) s x (past (setG (issued x w) (fRD w)
      (BitVec.ofNat 64 (headerField (TileHeader.ofBytes (x.st.scratch.read h.addr 32)) (fImmU w))))) := by
  refine stationResult_of_goOn hx rfl ho rfl (by decide) fun i hi => ?_
  have hi' : getT i.w.st (fRA i.insn) = some h := by rw [hi.insn, hi.getT, hh]
  simp only [needHandle, hi']
  exact ⟨_, rfl, by simp only [hi.insn, hi.scratch]⟩

/-! ### THDR.W -/

/-- The slot that THDR.W writes needs no correction where it issues cleanly (R237). -/
theorem cleanRun_of_thdrW {s : State} {cell : Nat} {w : Word} {x : Where} {h : Handle} (hx : Issues s cell w x) (ho : fOpc w = 0x22)
    (hh : getT x.st (fRD w) = some h) : x.st.scratch.CleanRun h.addr 32 := by
  have hmem : Item.bytes h.addr 32 ∈ scanned x.st w := by
    simp [scanned, fullFootprint, footprint, accessSize, slotItem, ho, hh]
  exact cleanRun_of_scanItems hx.clean hmem rfl

theorem thdrW_stationResult {s : State} {cell : Nat} {w : Word} {x : Where} {h : Handle} (hx : Issues s cell w x) (ho : fOpc w = 0x22)
    (hh : getT x.st (fRD w) = some h) {off : Nat} {bs : List Byte}
    (hr : headerStore (TileHeader.ofBytes (x.st.scratch.read h.addr 32)) (fImmU w) (getG x.st (fRA w)) = (off, bs)) :
    StationResult (.thdrW cell w) s x (past { issued x w with scratch := x.st.scratch.store (h.addr + off) bs }) := by
  refine stationResult_of_goOn hx rfl ho rfl (by decide) fun i hi => ?_
  have hi' : getT i.w.st (fRD i.insn) = some h := by rw [hi.insn, hi.getT, hh]
  have hr' : headerStore (TileHeader.ofBytes (i.w.st.scratch.read h.addr 32)) (fImmU i.insn) i.ga = (off, bs) := by
    rw [Issue.ga, hi.insn, hi.scratch, hi.getG, hr]
  simp only [needHandle, hi', hr']
  exact ⟨_, rfl, rfl⟩

/-- THDR.W writes its field and no other byte of scratch. -/
theorem thdrW_puts {s : State} {cell : Nat} {w : Word} {x : Where} {h : Handle} (hx : Issues s cell w x) (ho : fOpc w = 0x22)
    (hh : getT x.st (fRD w) = some h) {off n v val : Nat} (hoff : off + n ≤ 32)
    (hr : headerStore (TileHeader.ofBytes (x.st.scratch.read h.addr 32)) (fImmU w) (getG x.st (fRA w)) = (off, leBytes n v))
    (hval : v % 256 ^ n = val) :
    ∃ m : Mem, StationResult (.thdrW cell w) s x (past { issued x w with scratch := m }) ∧ leNat (m.read (h.addr + off) n) = val ∧
      ∀ b, (b < h.addr + off ∨ h.addr + off + n ≤ b) → m.byte b = x.st.scratch.byte b := by
  have hclean : x.st.scratch.CleanRun (h.addr + off) n := (cleanRun_of_thdrW hx ho hh).subrun (by omega) (by omega)
  obtain ⟨hread, hframe⟩ := Mem.store_leBytes hclean v
  exact ⟨_, thdrW_stationResult hx ho hh hr, hread.trans hval, hframe⟩

/-! ### Selectors that R158 refuses -/

theorem validWord_thdrR {w : Word} (ho : fOpc w = 0x21) (h : 13 ≤ fImmU w) : validWord w = false := by
  have h12 : ¬ fImmU w ≤ 12 := by omega
  simp [validWord, ho, h12]

theorem validWord_thdrW {w : Word} (ho : fOpc w = 0x22) (h : 13 ≤ fImmU w ∨ fImmU w ∈ [0, 1, 5, 8, 12]) : validWord w = false := by
  have hsel : thdrWritable (fImmU w) = false := by
    simp only [List.mem_cons, List.not_mem_nil, or_false] at h
    simp only [thdrWritable, List.contains_eq_mem, List.mem_cons, List.not_mem_nil, or_false, decide_eq_false_iff_not]
    omega
  simp [validWord, ho, hsel]

end Sys2Proof.Machine

namespace Sys2Proof.Proofs
open Sys2Proof Sys2Proof.Machine

/-- Settles O15: a header field is the little-endian number in its bytes of the slot, which THDR.R copies and THDR.W stores; a
selector that R158 refuses makes the word one that R150 refuses. -/
theorem thdrReadsAndWritesTheHeader : Obligations.ThdrReadsAndWritesTheHeader := by
  refine ⟨?reads, ?writes, ?refused⟩
  case reads =>
    intro s cell w x h hx ho hh b
    have gives {sel v : Nat} (hv : headerField (TileHeader.ofBytes (x.st.scratch.read h.addr 32)) sel = v) (hs : fImmU w = sel) :
        StationResult (.thdrR cell w) s x (past (setG (issued x w) (fRD w) (BitVec.ofNat 64 v))) := by
      subst hv hs
      exact thdrR_stationResult hx ho hh
    have field {off n bits : Nat} (hoff : off + n ≤ 32) (hbits : 256 ^ n = 2 ^ bits) :
        (BitVec.ofNat bits (fieldLE (x.st.scratch.read h.addr 32) off n)).toNat = b off n := toNat_headerField _ _ hoff hbits
    have flag (n : Nat) : b2n ((TileHeader.ofBytes (x.st.scratch.read h.addr 32)).flag n) = b 14 2 / 2 ^ n % 2 := by
      rw [b2n_flag, ← field (off := 14) (n := 2) (bits := 16) (by decide) (by decide)]
      rfl
    exact ⟨gives (field (by decide) (by decide)), gives (field (by decide) (by decide)), gives (field (by decide) (by decide)),
      gives (field (by decide) (by decide)), gives (field (by decide) (by decide)), gives (field (by decide) (by decide)),
      gives (flag 3), gives (flag 2), gives (field (by decide) (by decide)), gives (field (by decide) (by decide)),
      gives (field (by decide) (by decide)), gives (field (by decide) (by decide)), gives (field (by decide) (by decide))⟩
  case writes =>
    intro s cell w x h hx ho hh v flags
    have flag {n : Nat} (hn : n < 16) :
        ((TileHeader.ofBytes (x.st.scratch.read h.addr 32)).setFlag n (bitAt v 0)).flags.toNat % 256 ^ 2 = setField flags n 1 (v % 2) := by
      have hflags : (TileHeader.ofBytes (x.st.scratch.read h.addr 32)).flags.toNat = flags :=
        toNat_headerField _ _ (by decide) (by decide)
      rw [Nat.mod_eq_of_lt (show _ < 256 ^ 2 from BitVec.isLt _), toNat_setFlag _ hn, hflags]
    refine ⟨fun hs => ?frame, fun hs => ?format, fun hs => ?shape, fun hs => ?last, fun hs => ?keyframe, fun hs => ?tileScale,
      fun hs => ?len, fun hs => ?index⟩
    case frame => exact thdrW_puts hx ho hh (by decide) (by rw [hs]; rfl) rfl
    case format => exact thdrW_puts hx ho hh (by decide) (by rw [hs]; rfl) rfl
    case shape => exact thdrW_puts hx ho hh (by decide) (by rw [hs]; rfl) rfl
    case last => exact thdrW_puts hx ho hh (by decide) (by rw [hs]; rfl) (flag (by decide))
    case keyframe => exact thdrW_puts hx ho hh (by decide) (by rw [hs]; rfl) (flag (by decide))
    case tileScale => exact thdrW_puts hx ho hh (by decide) (by rw [hs]; rfl) rfl
    case len => exact thdrW_puts hx ho hh (by decide) (by rw [hs]; rfl) rfl
    case index => exact thdrW_puts hx ho hh (by decide) (by rw [hs]; rfl) (by omega)
  case refused =>
    intro s cell w x h
    exact ⟨fun ho hs => (StationCommand.thdrR ho).invalid_faults h (validWord_thdrR ho hs),
      fun ho hs => (StationCommand.thdrW ho).invalid_faults h (validWord_thdrW ho hs)⟩

end Sys2Proof.Proofs
end

section
/-!
SUPPORT. What every command keeps: the `Keeps` lemma of each row, gathered into one about `exec`.
-/
namespace Sys2Proof.Machine
open Sys2Proof

/-- Whatever the command, the state it leaves keeps what `Keeps` speaks of: one case for each row of the opcode table. -/
theorem exec_keeps {s0 s : State} (h : Keeps s0 s) (c : Instr) : KeepsOut s0 (exec c s) :=
  match c with
  | .alu _ _ => execAlu_keeps _ _ _ h
  | .addi _ _ => execAddi_keeps _ _ _ h
  | .andi _ _ => execAndi_keeps _ _ _ h
  | .ori _ _ => execOri_keeps _ _ _ h
  | .xori _ _ => execXori_keeps _ _ _ h
  | .shli _ _ => execShli_keeps _ _ _ h
  | .shri _ _ => execShri_keeps _ _ _ h
  | .sari _ _ => execSari_keeps _ _ _ h
  | .movi _ _ => execMovi_keeps _ _ _ h
  | .movs _ _ => execMovs_keeps _ _ _ h
  | .cmp _ _ => execCmp_keeps _ _ _ h
  | .cmpi _ _ => execCmpi_keeps _ _ _ h
  | .plog _ _ => execPlog_keeps _ _ _ h
  | .ld64 _ _ => execLd64_keeps _ _ _ h
  | .ld32 _ _ => execLd32_keeps _ _ _ h
  | .ld8 _ _ => execLd8_keeps _ _ _ h
  | .st64 _ _ => execSt64_keeps _ _ _ h
  | .st32 _ _ => execSt32_keeps _ _ _ h
  | .st8 _ _ => execSt8_keeps _ _ _ h
  | .br _ _ => execBr_keeps _ _ _ h
  | .call _ _ => execCall_keeps _ _ _ h
  | .jr _ _ => execJr_keeps _ _ _ h
  | .halt _ _ => execHalt_keeps _ _ _ h
  | .tset _ _ => execTset_keeps _ _ _ h
  | .thdrR _ _ => execThdrR_keeps _ _ _ h
  | .thdrW _ _ => execThdrW_keeps _ _ _ h
  | .tcopy _ _ => execTcopy_keeps _ _ _ h
  | .tzero _ _ => execTzero_keeps _ _ _ h
  | .cvt _ _ => execCvt_keeps _ _ _ h
  | .collect _ _ => execCollect_keeps _ _ _ h
  | .collectTileArrived _ => execCollectTileArrived_keeps _ _ h
  | .post _ _ => execPost_keeps _ _ _ h
  | .postFirstHopAccept _ => execPostFirstHopAccept_keeps _ _ h
  | .trycollect _ _ => execTrycollect_keeps _ _ _ h
  | .endctl _ _ => execEndctl_keeps _ _ _ h
  | .endstat _ _ => execEndstat_keeps _ _ _ h
  | .fetch _ _ => execFetch_keeps _ _ _ h
  | .stash _ _ => execStash_keeps _ _ _ h
  | .gather _ _ => execGather_keeps _ _ _ h
  | .scatter _ _ => execScatter_keeps _ _ _ h
  | .radd _ _ => execRadd_keeps _ _ _ h
  | .stackAccessComplete _ _ _ _ => execStackAccessComplete_keeps _ _ _ _ _ h
  | .sfence _ _ => execSfence_keeps _ _ _ h
  | .sfenceComplete _ => execSfenceComplete_keeps _ _ h
  | .tgive _ _ => execTgive_keeps _ _ _ h
  | .ttake _ _ => execTtake_keeps _ _ _ h
  | .tdebit _ _ => execTdebit_keeps _ _ _ h
  | .twatch _ _ => execTwatch_keeps _ _ _ h
  | .tallyOpAccept _ _ _ => execTallyOpAccept_keeps _ _ _ _ h
  | .tallyStatusReturn _ _ => execTallyStatusReturn_keeps _ _ _ h
  | .tallyEpochMarker _ _ => execTallyEpochMarker_keeps _ _ _ h
  | .tallyRemoteProbe _ => execTallyRemoteProbe_keeps _ _ h
  | .tallyProbeTimeout _ r => execTallyProbeTimeout_keeps _ r _ h
  | .tallyHomeWaiterExpire _ => execTallyHomeWaiterExpire_keeps _ _ h
  | .confirm _ _ => execConfirm_keeps _ _ _ h
  | .cancel _ _ => execCancel_keeps _ _ _ h
  | .drain _ _ => execDrain_keeps _ _ _ h
  | .drainPointReached _ => execDrainPointReached_keeps _ _ h
  | .stamp _ _ => execStamp_keeps _ _ _ h
  | .ctr _ _ => execCtr_keeps _ _ _ h
  | .waitt _ _ => execWaitt_keeps _ _ _ h
  | .waittTimeReached _ => execWaittTimeReached_keeps _ _ h
  | .accz _ _ => execAccz_keeps _ _ _ h
  | .mma _ _ => execMma_keeps _ _ _ h
  | .accrd _ _ => execAccrd_keeps _ _ _ h
  | .vOpF32 _ _ => execVOpF32_keeps _ _ _ h
  | .vOpF64 _ _ => execVOpF64_keeps _ _ _ h
  | .blockInstructionComplete _ _ _ => execBlockInstructionComplete_keeps _ _ _ _ h
  | .tileHop _ _ _ _ _ => execTileHop_keeps _ _ _ _ _ _ h
  | .streamStallLimit _ => execStreamStallLimit_keeps _ _ h
  | .remoteTileArrival _ _ => execRemoteTileArrival_keeps _ _ _ h
  | .streamGapTimeout _ _ => execStreamGapTimeout_keeps _ _ _ h
  | .hostTileAdmit _ => execHostTileAdmit_keeps _ _ h
  | .hostReceivePosted _ _ => execHostReceivePosted_keeps _ _ _ h
  | .roceCnpReceived => execRoceCnpReceived_keeps _ h
  | .rdmaWriteStage _ _ _ _ => execRdmaWriteStage_keeps _ _ _ _ _ h
  | .servoStreamTile _ _ => execServoStreamTile_keeps _ _ _ h
  | .sessionOpen _ => execSessionOpen_keeps _ _ h
  | .sessionAuth _ => execSessionAuth_keeps _ _ h
  | .sessionClose _ => execSessionClose_keeps _ _ h
  | .status _ => execStatus_keeps _ _ h
  | .regRead _ => execRegRead_keeps _ _ h
  | .regWrite _ => execRegWrite_keeps _ _ h
  | .bundleStage _ => execBundleStage_keeps _ _ h
  | .bundleLoad _ => execBundleLoad_keeps _ _ h
  | .fitProbe _ => execFitProbe_keeps _ _ h
  | .planCircuitsLit _ => execPlanCircuitsLit_keeps _ _ h
  | .planWaitExpiry _ => execPlanWaitExpiry_keeps _ _ h
  | .preloadStorageComplete _ _ => execPreloadStorageComplete_keeps _ _ _ h
  | .start _ => execStart_keeps _ _ h
  | .hold _ => execHold_keeps _ _ h
  | .evict _ => execEvict_keeps _ _ h
  | .evictDrained _ => execEvictDrained_keeps _ _ h
  | .evictDrainTimeout _ => execEvictDrainTimeout_keeps _ _ h
  | .unload _ => execUnload_keeps _ _ h
  | .mapRead _ => execMapRead_keeps _ _ h
  | .dlqRead _ => execDlqRead_keeps _ _ h
  | .dlqRelease _ => execDlqRelease_keeps _ _ h
  | .deltaRead _ => execDeltaRead_keeps _ _ h
  | .memRead _ => execMemRead_keeps _ _ h
  | .memWrite _ => execMemWrite_keeps _ _ h
  | .calSave _ => execCalSave_keeps _ _ h
  | .calRestore _ => execCalRestore_keeps _ _ h
  | .cellRetire _ => execCellRetire_keeps _ _ h
  | .cellRestore _ => execCellRestore_keeps _ _ h
  | .hostQp _ => execHostQp_keeps _ _ h
  | .reset _ => execReset_keeps _ _ h
  | .counterCommandUnknown _ _ => execCounterCommandUnknown_keeps _ _ _ h
  | .counterFragmentTimeout _ _ _ => execCounterFragmentTimeout_keeps _ _ _ _ h
  | .sessionIdleTimeout _ => execSessionIdleTimeout_keeps _ _ h
  | .cellHardFailure _ => execCellHardFailure_keeps _ _ h
  | .relocatePendingTimeout _ => execRelocatePendingTimeout_keeps _ _ h
  | .scratchPatrol _ _ _ => execScratchPatrol_keeps _ _ _ _ h
  | .stackPatrol _ _ => execStackPatrol_keeps _ _ _ h
  | .rowRepairDone _ _ _ => execRowRepairDone_keeps _ _ _ _ h
  | .stackWipeTimeout _ => execStackWipeTimeout_keeps _ _ h
  | .frameStartTimer _ => execFrameStartTimer_keeps _ _ h
  | .frameDeadlineExpiry _ _ => execFrameDeadlineExpiry_keeps _ _ _ h
  | .frameLateSummary => execFrameLateSummary_keeps _ h
  | .powerCapTick _ _ _ _ _ => execPowerCapTick_keeps _ _ _ _ _ _ h
  | .brakeOvercurrent => execBrakeOvercurrent_keeps _ h
  | .brakeOverpower => execBrakeOverpower_keeps _ h
  | .brakeRelease _ _ => execBrakeRelease_keeps _ _ _ h
  | .pwrCapWrite _ _ => execPwrCapWrite_keeps _ _ _ h
  | .pwrEnergyLoRead _ => execPwrEnergyLoRead_keeps _ _ h
  | .ageingMeasure _ _ _ _ => execAgeingMeasure_keeps _ _ _ _ _ h
  | .eolPrediction _ => execEolPrediction_keeps _ _ h
  | .elementLoopSample _ _ _ => execElementLoopSample_keeps _ _ _ _ h
  | .elementTrip _ _ _ => execElementTrip_keeps _ _ _ _ h
  | .identityCheck _ _ _ _ _ => execIdentityCheck_keeps _ _ _ _ _ _ h
  | .laneLossOfLight _ _ => execLaneLossOfLight_keeps _ _ _ h
  | .laneErrorRatio _ _ _ => execLaneErrorRatio_keeps _ _ _ _ h
  | .laneFarEndFail _ _ _ => execLaneFarEndFail_keeps _ _ _ _ h
  | .laneTrainingTimeout _ _ _ => execLaneTrainingTimeout_keeps _ _ _ _ h
  | .laneRetry _ _ _ _ => execLaneRetry_keeps _ _ _ _ _ h
  | .lightReturnRetry _ _ _ _ => execLightReturnRetry_keeps _ _ _ _ _ h
  | .spareMarginTest _ _ _ _ => execSpareMarginTest_keeps _ _ _ _ _ h
  | .marginTestComplete _ _ _ _ _ _ => execMarginTestComplete_keeps _ _ _ _ _ _ _ h
  | .laneTrainingComplete _ _ _ => execLaneTrainingComplete_keeps _ _ _ _ h
  | .calCoverSwitchPoint _ _ _ => execCalCoverSwitchPoint_keeps _ _ _ _ h
  | .laserHandoverTrigger _ _ => execLaserHandoverTrigger_keeps _ _ _ h
  | .laserSpareLocked _ _ => execLaserSpareLocked_keeps _ _ _ h
  | .handoverWindowOpen _ _ => execHandoverWindowOpen_keeps _ _ _ h
  | .laserFail _ _ => execLaserFail_keeps _ _ _ h
  | .optSteerGo _ _ _ => execOptSteerGo_keeps _ _ _ _ h
  | .steerDone _ => execSteerDone_keeps _ _ h
  | .flitReceive _ _ _ _ _ => execFlitReceive_keeps _ _ _ _ _ _ h
  | .linkRetryFlit _ _ => execLinkRetryFlit_keeps _ _ _ h
  | .linkLanesetFlit _ _ => execLinkLanesetFlit_keeps _ _ _ h
  | .linkIdentFlit _ _ _ _ _ _ _ _ _ _ => execLinkIdentFlit_keeps _ _ _ _ _ _ _ _ _ _ _ h
  | .linkQuiesceFlit _ => execLinkQuiesceFlit_keeps _ _ h
  | .linkLostTimer _ => execLinkLostTimer_keeps _ _ h
  | .fabRecableGo _ _ => execFabRecableGo_keeps _ _ _ h
  | .fabRecableResume _ _ => execFabRecableResume_keeps _ _ _ h
  | .quiesceIdle => execQuiesceIdle_keeps _ h
  | .quiesceTimeout => execQuiesceTimeout_keeps _ h
  | .fabRbSwap _ _ => execFabRbSwap_keeps _ _ _ h
  | .fabRbCopy _ _ => execFabRbCopy_keeps _ _ _ h
  | .fabRbDataAccess _ _ => execFabRbDataAccess_keeps _ _ _ h
  | .fabRbActiveRead _ => execFabRbActiveRead_keeps _ _ h
  | .fabPostcodeWrite _ _ => execFabPostcodeWrite_keeps _ _ _ h
  | .fabExpectBypassWrite _ _ _ _ _ => execFabExpectBypassWrite_keeps _ _ _ _ _ _ h
  | .tofMeasurement _ _ _ _ => execTofMeasurement_keeps _ _ _ _ _ h
  | .tofLambdaWaitTimeout _ => execTofLambdaWaitTimeout_keeps _ _ h
  | .tofLoopRequest _ _ _ => execTofLoopRequest_keeps _ _ _ _ h
  | .linkEchoFlit _ _ _ => execLinkEchoFlit_keeps _ _ _ _ h
  | .collTransferTile _ _ => execCollTransferTile_keeps _ _ _ h
  | .collStepAck _ _ => execCollStepAck_keeps _ _ _ h
  | .collStepTimeout _ _ => execCollStepTimeout_keeps _ _ _ h
  | .collPeerAbort _ => execCollPeerAbort_keeps _ _ h
  | .calRunStart _ _ _ => execCalRunStart_keeps _ _ _ _ h
  | .calRunComplete _ _ _ _ _ _ => execCalRunComplete_keeps _ _ _ _ _ _ _ h
  | .calRunTimeout _ _ => execCalRunTimeout_keeps _ _ _ h
  | .calBadRunRetry _ _ => execCalBadRunRetry_keeps _ _ _ h
  | .calStarved _ _ => execCalStarved_keeps _ _ _ h
  | .calCmdCommit _ _ => execCalCmdCommit_keeps _ _ _ h
  | .calCmdRun _ _ => execCalCmdRun_keeps _ _ _ h
  | .calDataAccess _ _ => execCalDataAccess_keeps _ _ _ h
  | .calWindowAnnounce _ _ _ => execCalWindowAnnounce_keeps _ _ _ _ h
  | .servoSample _ _ _ => execServoSample_keeps _ _ _ _ h
  | .srvClose _ => execSrvClose_keeps _ _ h
  | .srvOpen _ => execSrvOpen_keeps _ _ h
  | .srvRearm _ => execSrvRearm_keeps _ _ h
  | .srvTestStart _ => execSrvTestStart_keeps _ _ h
  | .srvStop _ => execSrvStop_keeps _ _ h
  | .srvParamAccess _ _ => execSrvParamAccess_keeps _ _ _ h
  | .servoSatTrip _ => execServoSatTrip_keeps _ _ h
  | .servoOutHoldExpiry _ => execServoOutHoldExpiry_keeps _ _ h
  | .servoStreamStale _ => execServoStreamStale_keeps _ _ h
  | .pulseEdge _ _ _ _ => execPulseEdge_keeps _ _ _ _ _ h
  | .fsyncEdge _ _ _ => execFsyncEdge_keeps _ _ _ _ h
  | .ainEvent _ _ => execAinEvent_keeps _ _ _ h
  | .inputStuck _ => execInputStuck_keeps _ _ h
  | .ptpMessageReceive _ _ _ _ => execPtpMessageReceive_keeps _ _ _ _ _ h
  | .ptpSyncLoss => execPtpSyncLoss_keeps _ h
  | .ptpHoldExpiry => execPtpHoldExpiry_keeps _ h
  | .tbSlewComplete => execTbSlewComplete_keeps _ h
  | .tbAdjWrite _ _ => execTbAdjWrite_keeps _ _ _ h
  | .tbIncrLoWrite _ _ => execTbIncrLoWrite_keeps _ _ _ h
  | .tbIncrHiWrite _ _ => execTbIncrHiWrite_keeps _ _ _ h
  | .tbSelectWrite _ _ => execTbSelectWrite_keeps _ _ _ h
  | .tbServoWrite _ _ => execTbServoWrite_keeps _ _ _ h
  | .tbSecLoRead _ => execTbSecLoRead_keeps _ _ h
  | .linkTimeExchange _ _ _ _ => execLinkTimeExchange_keeps _ _ _ _ _ h
  | .powerUp _ _ _ _ => execPowerUp_keeps _ _ _ _ _ h
  | .rstNAssert => execRstNAssert_keeps _ h
  | .rstNRelease => execRstNRelease_keeps _ h
  | .undervoltageOff _ => execUndervoltageOff_keeps _ _ h
  | .overvoltageOff => execOvervoltageOff_keeps _ h
  | .inputDip _ => execInputDip_keeps _ _ h
  | .inputWarningBandEntry _ => execInputWarningBandEntry_keeps _ _ h
  | .inputWarningBandExit => execInputWarningBandExit_keeps _ h
  | .refclkLoss => execRefclkLoss_keeps _ h
  | .refclkRestore => execRefclkRestore_keeps _ h
  | .i3cSetdasa _ _ => execI3cSetdasa_keeps _ _ _ h
  | .i3cEntdaa _ => execI3cEntdaa_keeps _ _ h
  | .leaseRenewal _ => execLeaseRenewal_keeps _ _ h
  | .leaseLineRise _ _ => execLeaseLineRise_keeps _ _ _ h
  | .leaseLineLow _ => execLeaseLineLow_keeps _ _ h
  | .leaseLapse _ => execLeaseLapse_keeps _ _ h
  | .hubBecomeActive _ => execHubBecomeActive_keeps _ _ h
  | .heartbeatLoss _ _ => execHeartbeatLoss_keeps _ _ _ h
  | .watchdogExpiry _ => execWatchdogExpiry_keeps _ _ h
  | .crosslinkReturn => execCrosslinkReturn_keeps _ h
  | .hubSelfCheckFail _ => execHubSelfCheckFail_keeps _ _ h
  | .hubRestartComplete _ => execHubRestartComplete_keeps _ _ h
  | .fwWriteStandby _ _ => execFwWriteStandby_keeps _ _ _ h
  | .fwHandover _ _ => execFwHandover_keeps _ _ _ h
  | .fwAbort _ => execFwAbort_keeps _ _ h
  | .ethLinkLoss _ => execEthLinkLoss_keeps _ _ h
  | .ethLinkReturn _ => execEthLinkReturn_keeps _ _ h
  | .arpNdIcmpEcho _ _ _ _ => execArpNdIcmpEcho_keeps _ _ _ _ _ h
  | .recMirrorReceive _ => execRecMirrorReceive_keeps _ _ h
  | .recSuppressed _ => execRecSuppressed_keeps _ _ h
  | .optimeSave _ _ => execOptimeSave_keeps _ _ _ h
  | .recCursorWrite _ _ => execRecCursorWrite_keeps _ _ _ h
  | .recFind _ _ => execRecFind_keeps _ _ _ h
  | .recRetry _ _ _ => execRecRetry_keeps _ _ _ _ h
  | .pctClr _ _ => execPctClr_keeps _ _ _ h
  | .pctValLoRead _ => execPctValLoRead_keeps _ _ h
  | .pctSmpEnable _ _ _ => execPctSmpEnable_keeps _ _ _ _ h
  | .pctSmpPop _ _ => execPctSmpPop_keeps _ _ _ h
  | .redOptimeLoRead _ => execRedOptimeLoRead_keeps _ _ h
  | .dieDbgLoRead _ _ => execDieDbgLoRead_keeps _ _ _ h
  | .dieDbgWrite _ _ _ => execDieDbgWrite_keeps _ _ _ _ h
  | .svnCommit _ _ => execSvnCommit_keeps _ _ _ h
  | .secReqSignedWrite _ _ => execSecReqSignedWrite_keeps _ _ _ h
  | .secRetCommit _ _ => execSecRetCommit_keeps _ _ _ h
  | .retainedCommitTimer => execRetainedCommitTimer_keeps _ h
  | .secLcCmd _ _ _ => execSecLcCmd_keeps _ _ _ _ h
  | .secKeyCommit _ _ => execSecKeyCommit_keeps _ _ _ h
  | .secKeyErase _ _ => execSecKeyErase_keeps _ _ _ h
  | .secGrantDataAccess _ _ => execSecGrantDataAccess_keeps _ _ _ h
  | .secGrantCommit _ _ => execSecGrantCommit_keeps _ _ _ h
  | .secGrantRevoke _ _ => execSecGrantRevoke_keeps _ _ _ h
  | .grantExpiry => execGrantExpiry_keeps _ h
  | .grantNotBefore => execGrantNotBefore_keeps _ h
  | .secAttGo _ _ => execSecAttGo_keeps _ _ _ h
  | .attestationReady => execAttestationReady_keeps _ h
  | .temperatureSample _ => execTemperatureSample_keeps _ _ h
  | .talSetWrite _ _ => execTalSetWrite_keeps _ _ _ h
  | .talRehomeWrite _ _ => execTalRehomeWrite_keeps _ _ _ h
  | .talEpochEndWrite _ _ => execTalEpochEndWrite_keeps _ _ _ h
  | .dltKeyreqWrite _ _ => execDltKeyreqWrite_keeps _ _ _ h
  | .registerWritePlain _ _ _ => execRegisterWritePlain_keeps _ _ _ _ h
  | .reservedOpcode _ _ => execReservedOpcode_keeps _ _ _ h

/-- The same of a command's next state. -/
theorem keeps_of_exec {c : Instr} {s t : State} (e : exec c s = .next t) : Keeps s t := by
  have h := exec_keeps (Keeps.refl s) c
  rwa [e] at h

theorem Keeps.svnMin_le {s t : State} (h : Keeps s t) : s.sec.svnMin ≤ t.sec.svnMin := h.2.2.1

end Sys2Proof.Machine
end

section
/-!
SUPPORT. SVN_COMMIT (R533): a served write of SEC_CTL by an origin that may change keys.
-/
namespace Sys2Proof.Machine
open Sys2Proof

variable {s : State} {o : Origin} {v : Word}

/-! ### A served register write -/

theorem regWriteRow_served (h : Served s o true) (f : State → State × Nat) :
    regWriteRow s o false f = emit (f s).1 (.reg o (f s).2 0) := by
  unfold Served at h
  simp only [regWriteRow, h, regAnswer]

/-! ### What a plain write leaves of security state -/

/-- A plain write of a register changes no more of security state than the mark that retained state is to be committed (R528). -/
theorem plainWrite_sec (s : State) (r : RegRef) (v : Word) :
    ∃ p, (plainWrite s r v).1.sec = { s.sec with retPending := p } := by
  unfold plainWrite
  dsimp only
  split
  · exact ⟨_, rfl⟩
  · split
    · exact ⟨_, rfl⟩
    · split
      · exact ⟨true, rfl⟩
      · exact ⟨_, rfl⟩

@[simp] theorem plainWrite_svnMin (s : State) (r : RegRef) (v : Word) : (plainWrite s r v).1.sec.svnMin = s.sec.svnMin := by
  obtain ⟨p, h⟩ := plainWrite_sec s r v
  rw [h]

@[simp] theorem plainWrite_keys (s : State) (r : RegRef) (v : Word) : (plainWrite s r v).1.sec.keys = s.sec.keys := by
  obtain ⟨p, h⟩ := plainWrite_sec s r v
  rw [h]

/-! ### SVN_COMMIT -/

/-- A hub runs the recovery path, or an update is between step 1 and the end of step 3 of R494. -/
def SvnHeld (s : State) : Prop := s.ha.recovery = true ∨ s.hb.recovery = true ∨ (1 ≤ s.fw.step ∧ s.fw.step ≤ 3)

theorem svnCommit_of_held (h : SvnHeld s) : svnCommit s = (s, C.secSvnHeld) := by
  refine if_pos ?_
  simpa [SvnHeld, or_assoc] using h

theorem svnCommit_of_not_held (h : ¬ SvnHeld s) : svnCommit s =
    ({ s with sec := { s.sec with svnMin := max s.sec.svnMin (min s.ha.running.svn s.hb.running.svn) } }, C.ok) := by
  refine if_neg ?_
  simpa [SvnHeld, or_assoc] using h

theorem not_svnHeld (ha : s.ha.recovery = false) (hb : s.hb.recovery = false) (hf : s.fw.step = 0 ∨ 4 ≤ s.fw.step) : ¬ SvnHeld s := by
  rintro (h | h | ⟨h1, h3⟩)
  · simp [ha] at h
  · simp [hb] at h
  · omega

/-! ### SEC_CTL -/

theorem secCtlWrite_of_held (hk : mayKey s o = true) (hv : wfld v F.secCtlSvnCommit = 1) (h : SvnHeld s) :
    secCtlWrite s o v = (s, C.secSvnHeld) := by
  simp [secCtlWrite, hk, hv, svnCommit_of_held h, C.secSvnHeld, C.ok]

theorem secCtlWrite_of_not_held (hk : mayKey s o = true) (hv : wfld v F.secCtlSvnCommit = 1) (h : ¬ SvnHeld s) :
    secCtlWrite s o v = ((plainWrite (svnCommit s).1 ⟨.secCtl, 0, 0, 0⟩ v).1, C.ok) := by
  simp [secCtlWrite, hk, hv, svnCommit_of_not_held h]

/-- A served SVN_COMMIT is answered with what the write of SEC_CTL comes to. -/
theorem svnCommit_answered (hs : Served s o true) {u : State} {status : Nat} (h : secCtlWrite s o v = (u, status)) :
    RegAnswered (.svnCommit o v) s o status 0 u := by
  show done (regWriteRow s o false (fun s => secCtlWrite s o v)) = _
  rw [regWriteRow_served hs, h]
  rfl

end Sys2Proof.Machine

namespace Sys2Proof.Proofs
open Sys2Proof Sys2Proof.Machine

/-- Settles O6: every command keeps SVN_MIN or raises it, and SVN_COMMIT is refused or raises it as the write of SEC_CTL says. -/
theorem svnMinOnlyRises : Obligations.SvnMinOnlyRises := by
  refine ⟨fun c s t e => (keeps_of_exec e).svnMin_le, fun s o v hs hk hv => ⟨fun held => ?_, fun ha hb hf => ?_⟩⟩
  · exact svnCommit_answered hs (secCtlWrite_of_held hk hv held)
  · have free : ¬ SvnHeld s := not_svnHeld ha hb hf
    refine ⟨_, svnCommit_answered hs (secCtlWrite_of_not_held hk hv free), ?_, ?_⟩
    · rw [plainWrite_svnMin, svnCommit_of_not_held free]
    · rw [plainWrite_keys, svnCommit_of_not_held free]

end Sys2Proof.Proofs
end

section
/-!
SUPPORT. What every command and every step keeps: the queue, the identity and the canonical form of stack memory.
-/
namespace Sys2Proof.Machine
open Sys2Proof

variable {s t : State}

theorem Keeps.pending_eq (h : Keeps s t) : t.pending = s.pending := h.1

theorem Keeps.ident_eq (h : Keeps s t) : t.ident = s.ident := h.2.1

theorem Keeps.stacksCanonical (h : Keeps s t) (w : StacksCanonical s) : StacksCanonical t := h.2.2.2 w

/-- A step keeps the memory of every stack canonical: an idle period touches none, and a command keeps what `Keeps` speaks of. -/
theorem step_stacksCanonical (e : step s = .next t) (w : StacksCanonical s) : StacksCanonical t := by
  unfold step at e
  split at e
  case h_1 =>
    cases e
    exact (tick_keeps s (Keeps.refl s)).stacksCanonical w
  case h_2 c rest _ => exact (keeps_of_exec e).stacksCanonical w

/-- Every command answers a next state: one case for each row of the opcode table. -/
theorem exec_next (c : Instr) (s : State) : ∃ t, exec c s = .next t := by
  cases c <;> exact ⟨_, rfl⟩

/-! ### Registers and predicates of a station (R141) -/

theorem getG_setG (st : Station) (m n : Nat) (v : DWord) :
    getG (setG st n v) m = if m = 0 then 0#64 else if m = n then v else getG st m := by
  by_cases hm : m = 0
  · simp [getG, hm]
  · by_cases hn : n = 0
    · simp [getG, setG, hm, hn]
    · simp only [getG, setG, hm, hn, if_false, SMap.getD_setD]

theorem getLsbD_setP {st : Station} {m n : Nat} (hm : m < 8) (hn : n ≠ 0) (b : Bool) :
    (setP st n b).p.getLsbD m = if m = n then b else st.p.getLsbD m := by
  simp only [setP, hn, if_false, BitVec.getLsbD_ofNat, testBit_setField, hm, decide_true, Bool.true_and]
  by_cases h : m = n
  · subst h
    cases b <;> simp [b2n]
  · rw [if_neg (by omega), if_neg h]
    rfl

theorem getP_setP {st : Station} {m n : Nat} (hm : m < 8) (b : Bool) :
    getP (setP st n b) m = if m = 0 then true else if m = n then b else getP st m := by
  by_cases h0 : m = 0
  · simp [getP, h0]
  · by_cases hn : n = 0
    · simp [getP, setP, h0, hn]
    · simp only [getP, h0, if_false, getLsbD_setP hm hn]

end Sys2Proof.Machine

namespace Sys2Proof.Proofs
open Sys2Proof Sys2Proof.Machine

/-- Settles O5: an idle period or a command, either of which keeps the canonical form. -/
theorem stepKeepsStacksCanonical : Obligations.StepKeepsStacksCanonical :=
  fun _ _ w e => step_stacksCanonical e w

/-- Settles O3, from what `Keeps` says of every command. -/
theorem commandsLeaveQueueAndIdentity : Obligations.CommandsLeaveQueueAndIdentity := fun _ _ _ e =>
  have h := keeps_of_exec e
  ⟨h.pending_eq, h.ident_eq⟩

/-- Settles O1: the queue's front is what a step matches on. -/
theorem stepRunsTheFrontCommand : Obligations.StepRunsTheFrontCommand := fun _ _ _ => rfl

/-- Settles O2. -/
theorem everyCommandAnswersANextState : Obligations.EveryCommandAnswersANextState := exec_next

/-- Settles O4: a stack is wiped at reset, and a wiped memory is canonical. -/
theorem resetStacksCanonical : Obligations.ResetStacksCanonical := by
  intro d hd k hk
  obtain rfl : d = Die.reset := List.eq_of_mem_replicate hd
  obtain rfl : k = Stack.wiped := List.eq_of_mem_replicate (n := 2) hk
  exact Mem.wiped_wf

/-- Settles O7: read after write of registers and predicates, with g0 and p0 apart. -/
theorem stationRegistersReadBack : Obligations.StationRegistersReadBack := fun st m n v b =>
  ⟨getG_setG st m n v, fun hm _ => getP_setP hm b, rfl, rfl⟩

end Sys2Proof.Proofs
end

section
/-!
SUPPORT. An instruction at issue, named: the state and the station that its body is given, for its results and for its faults.
-/
namespace Sys2Proof.Machine
open Sys2Proof

variable {s : State} {cell : Nat} {w : Word} {x : Where} {i : Issue}

/-- What the body of an instruction is given where `Issues` holds. -/
def atIssue (s : State) (x : Where) (w : Word) : Issue :=
  savePagesAt (begin_ s x w (scanned x.st w)) (fullFootprint x.st w).2

theorem Issues.begun (h : Issues s cell w x) : OnlyStation s (atIssue s x w).s x (issued x w) ∧
    (atIssue s x w).w = { x with st := { savePages x.st (pagesOf (fullFootprint x.st w).2) with blockedSince := none, waiting := .no },
                                 b := withStation x { x.st with blockedSince := none, waiting := .no } } ∧
    (atIssue s x w).insn = w ∧ (atIssue s x w).bad = [] := by
  obtain ⟨h1, h2, h3, h4⟩ := begin_of h rfl
  obtain ⟨g1, g2, g3, g4⟩ := savePagesAt_of (fullFootprint x.st w).2 h1 h.at_.on.lt (by rw [h2]) (by rw [h2]) (by rw [h2]; rfl)
  exact ⟨g1, g2.trans (by rw [h2]; rfl), g3.trans h3, g4.trans h4⟩

theorem Issues.issueOf (h : Issues s cell w x) : IssueOf s x w (atIssue s x w) := by
  obtain ⟨honly, hw, hinsn, hbad⟩ := h.begun
  exact ⟨honly, by rw [hw], by rw [hw], by rw [hw], by rw [hw]; rfl, by rw [hw], hinsn, hbad⟩

theorem Issues.issueAt (h : Issues s cell w x) : IssueAt s cell x w (atIssue s x w) := by
  obtain ⟨honly, hw, hinsn, -⟩ := h.begun
  refine ⟨⟨_, honly⟩, by rw [hw], by rw [hw], ?_, by rw [hw]; rfl, by rw [hw], by rw [hw]; rfl, by rw [hw]; rfl, hinsn⟩
  rw [hw, cellNo, show (savePages x.st _).cell = some cell from h.at_.on.placed]
  rfl

/-- The bundle that the body sees is the one before it, but for its station. -/
theorem Issues.bundle (h : Issues s cell w x) :
    (atIssue s x w).w.b = withStation x { x.st with blockedSince := none, waiting := .no } := by
  rw [h.begun.2.1]

theorem Issues.mayIssue (h : Issues s cell w x) : mayIssue s x = true := h.at_.mayIssue

/-- Where its conditions hold, an instruction that no resource of its own holds back runs its body. -/
theorem issueGated_eq (h : Issues s cell w x) {opc : Nat} (ho : fOpc w = opc) (ht : isTallyOp opc = true → x.st.ckpts = [])
    (hk : opc ≠ 0x28 ∧ opc ≠ 0x2A) {gate : Where → Bool} (hg : gate x = false) (body : Issue → State) :
    issueGated s cell w opc gate body = body (atIssue s x w) := by
  have hroom : ¬ 64 < savedPages x.st + newPages x.st (pagesOf (fullFootprint x.st w).2) := not_lt.2 h.room
  have htally : (isTallyOp opc && !x.st.ckpts.isEmpty) = false := by
    cases hto : isTallyOp opc
    · rfl
    · simp [ht hto]
  unfold issueGated
  simp [h.at_.on.on, h.mayIssue, h.at_.word, h.at_.settled, ho, h.valid, h.free, h.inside, h.guard, htally, hk.1, hk.2, hroom, hg, atIssue]

theorem issue_eq (h : Issues s cell w x) {opc : Nat} (ho : fOpc w = opc) (ht : isTallyOp opc = true → x.st.ckpts = [])
    (hk : opc ≠ 0x28 ∧ opc ≠ 0x2A) (body : Issue → State) : issue s cell w opc body = body (atIssue s x w) :=
  issueGated_eq h ho ht hk rfl body

/-- The same of a command whose row holds nothing back. -/
theorem exec_issue_eq {c : Instr} {opc : Nat} {body : Issue → State} (h : Issues s cell w x)
    (hc : exec c s = done (issue s cell w opc body)) (ho : fOpc w = opc) (ht : isTallyOp opc = false) (hk : opc ≠ 0x28 ∧ opc ≠ 0x2A) :
    exec c s = done (body (atIssue s x w)) := by
  rw [hc, issue_eq h ho (fun e => absurd e (by simp [ht])) hk]

/-! ### Operands of an instruction at issue -/

theorem IssueOf.ga (h : IssueOf s x w i) : i.ga = Machine.getG x.st (fRA w) := by rw [Issue.ga, h.insn, h.getG]
theorem IssueOf.gb (h : IssueOf s x w i) : i.gb = Machine.getG x.st (fRB w) := by rw [Issue.gb, h.insn, h.getG]
theorem IssueOf.gd (h : IssueOf s x w i) : i.gd = Machine.getG x.st (fRD w) := by rw [Issue.gd, h.insn, h.getG]
theorem IssueOf.imm (h : IssueOf s x w i) : i.imm = BitVec.ofInt 64 (fImm w) := by rw [Issue.imm, h.insn]
theorem IssueOf.shift (h : IssueOf s x w i) : i.shift = fImmU w % 64 := by rw [Issue.shift, h.insn]
theorem IssueOf.accessAddr (h : IssueOf s x w i) (size : Nat) : accessAddr i.w.st i.insn size = accessAddr x.st w size := by
  rw [Machine.accessAddr, Machine.accessAddr, h.insn, h.getG]
theorem IssueOf.code (h : IssueOf s x w i) : i.w.st.code = x.st.code := by rw [h.st]; rfl
theorem IssueOf.fp (h : IssueOf s x w i) : i.fp = fullFootprint x.st w := by rw [Issue.fp, h.insn, h.st]; rfl
theorem IssueOf.acc (h : IssueOf s x w i) : i.w.st.acc = x.st.acc := by rw [h.st]; rfl
theorem IssueOf.gen (h : IssueOf s x w i) : i.w.st.gen = x.st.gen := by rw [h.st]; rfl

theorem fieldOf_lt (x lsb n : Nat) : fieldOf x lsb n < 2 ^ n := Nat.mod_lt _ (Nat.two_pow_pos n)
theorem fRD_lt (w : Word) : fRD w < 32 := fieldOf_lt _ _ 5
theorem fRA_lt (w : Word) : fRA w < 32 := fieldOf_lt _ _ 5
theorem fRB_lt (w : Word) : fRB w < 32 := fieldOf_lt _ _ 5

/-! ### Results and faults of a body -/

/-- A command whose body changes its station alone has that change as its result. -/
theorem stationResult_of_only {c : Instr} {u : State} {st : Station} (hc : exec c s = done u) (ho : OnlyStation s u x st) :
    StationResult c s x st := ⟨u, hc, ho⟩

/-- A command whose body faults shows the fault. -/
theorem shown_of_fault {c : Instr} {u : State} (h : Issues s cell w x) (hc : exec c s = done u) {code : Nat} (hcode : code < 2 ^ 16)
    {detail : Nat} (hu : u = (atIssue s x w).fault code detail) {shown : Nat} (hd : detail % 2 ^ 32 = shown) :
    ∃ t, exec c s = .next t ∧ FaultShown t cell x code x.st.pc w (shownDetail x shown) := by
  subst hu hd
  exact ⟨_, hc, h.issueAt.fault_shown h.at_.on.lt hcode detail⟩

/-- gd written, PC moved on. -/
theorem stationResult_of_setGd {c : Instr} {opc : Nat} {body : Issue → State} {v : DWord} (h : Issues s cell w x)
    (hc : exec c s = done (issue s cell w opc body)) (ho : fOpc w = opc) (ht : isTallyOp opc = false) (hk : opc ≠ 0x28 ∧ opc ≠ 0x2A)
    (hb : ∀ i, IssueOf s x w i → body i = setGd i v) : StationResult c s x (past (setG (issued x w) (fRD w) v)) :=
  stationResult_of_goOn h hc ho ht hk fun i hi => ⟨_, hb i hi, by simp only [hi.insn]⟩

end Sys2Proof.Machine
end

section
/-!
SUPPORT. Scalar instructions (R155): immediates, moves, comparisons and predicates.
-/
namespace Sys2Proof.Machine
open Sys2Proof

variable {s : State} {cell : Nat} {w : Word} {x : Where}

/-- An instruction that writes one predicate. -/
theorem stationResult_of_setP {c : Instr} {opc : Nat} {body : Issue → State} {v : Bool} {n : Nat} (h : Issues s cell w x)
    (hc : exec c s = done (issue s cell w opc body)) (ho : fOpc w = opc) (ht : isTallyOp opc = false) (hk : opc ≠ 0x28 ∧ opc ≠ 0x2A)
    (hb : ∀ i, IssueOf s x w i → ∃ f : Station → Station, body i = goOn i.s i.w f ∧ f (issued x w) = setP (issued x w) n v) :
    StationResult c s x (past (setP (issued x w) n v)) :=
  stationResult_of_goOn h hc ho ht hk fun i hi =>
    have ⟨f, hf, he⟩ := hb i hi
    ⟨f, hf, congrArg past he⟩

theorem issued_getP (x : Where) (w : Word) (n : Nat) : getP (issued x w) n = getP x.st n := rfl

theorem cmp_stationResult (h : Issues s cell w x) (ho : fOpc w = 0x0B) :
    StationResult (.cmp cell w) s x (past (setP (issued x w) (fRD w) (cmpHolds (fFN w) (getG x.st (fRA w)) (getG x.st (fRB w))))) :=
  stationResult_of_setP h rfl ho rfl (by decide) fun i hi => ⟨_, rfl, by simp only [hi.insn, hi.ga, hi.gb]⟩

theorem cmpi_stationResult (h : Issues s cell w x) (ho : fOpc w = 0x0C) :
    StationResult (.cmpi cell w) s x (past (setP (issued x w) (fRD w % 8)
      (cmpHolds (fRD w / 8) (getG x.st (fRA w)) (BitVec.ofInt 64 (fImm w))))) :=
  stationResult_of_setP h rfl ho rfl (by decide) fun i hi => ⟨_, rfl, by simp only [hi.insn, hi.ga, hi.imm]⟩

theorem plog_stationResult (h : Issues s cell w x) (ho : fOpc w = 0x0D) :
    StationResult (.plog cell w) s x (past (setP (issued x w) (fRD w) (plogOp (fFN w) (getP x.st (fRA w)) (getP x.st (fRB w))))) :=
  stationResult_of_setP h rfl ho rfl (by decide) fun i hi => ⟨_, rfl, by simp only [hi.insn, issued_getP]⟩

/-! ### Comparisons as numbers -/

theorem cmpHolds_slt (a b : DWord) : cmpHolds 2 a b = decide (a.toInt < b.toInt) := by
  rw [Bool.eq_iff_iff]
  simp [cmpHolds, BitVec.slt_iff_toInt_lt]

theorem cmpHolds_sge (a b : DWord) : cmpHolds 3 a b = decide (b.toInt ≤ a.toInt) := by
  rw [Bool.eq_iff_iff]
  simp [cmpHolds, BitVec.slt_iff_toInt_lt, ← Bool.not_eq_true]

theorem cmpHolds_ult (a b : DWord) : cmpHolds 4 a b = decide (a.toNat < b.toNat) := rfl

theorem cmpHolds_uge (a b : DWord) : cmpHolds 5 a b = decide (b.toNat ≤ a.toNat) := by
  rw [Bool.eq_iff_iff]
  simp [cmpHolds, BitVec.ult_iff_toNat_lt, ← Bool.not_eq_true]

theorem cmpHolds_eq (a b : DWord) : cmpHolds 0 a b = decide (a = b) := Bool.beq_eq_decide_eq a b

theorem cmpHolds_ne (a b : DWord) : cmpHolds 1 a b = decide (a ≠ b) := by
  rw [Bool.eq_iff_iff]
  simp [cmpHolds]

/-- A sign-extended immediate is the number it stands for. -/
theorem toInt_ofInt_fImm (w : Word) : (BitVec.ofInt 64 (fImm w)).toInt = fImm w := by
  have hlt : fImmU w < 2048 := fieldOf_lt _ _ 11
  have hb : -1024 ≤ fImm w ∧ fImm w < 1024 := by
    rw [fImm, signedOf]
    split <;> omega
  rw [BitVec.toInt_ofInt, Int.bmod_eq_of_le] <;> omega

/-- Two registers are equal as their signed numbers are. -/
theorem decide_eq_toInt (a b : DWord) : decide (a = b) = decide (a.toInt = b.toInt) := by
  rw [decide_eq_decide, BitVec.toInt_inj]

end Sys2Proof.Machine

namespace Sys2Proof.Proofs
open Sys2Proof Sys2Proof.Machine

/-- Settles O8: the instructions that write gd by the value they write, CMP, CMPI and PLOG by the operation their code names. -/
theorem scalarInstructionsWriteTheirResult : Obligations.ScalarInstructionsWriteTheirResult := by
  refine ⟨?registers, ?predicates⟩
  case registers =>
    intro s cell w x h
    refine ⟨fun ho => ?addi, fun ho => ?andi, fun ho => ?ori, fun ho => ?xori, fun ho => ?shli, fun ho => ?shri, fun ho => ?sari,
      fun ho => ?movi, fun ho => ?movs⟩
    case addi => exact stationResult_of_setGd h rfl ho rfl (by decide) fun i hi => by rw [hi.ga, hi.imm]
    case andi => exact stationResult_of_setGd h rfl ho rfl (by decide) fun i hi => by rw [hi.ga, hi.imm]
    case ori => exact stationResult_of_setGd h rfl ho rfl (by decide) fun i hi => by rw [hi.ga, hi.imm]
    case xori => exact stationResult_of_setGd h rfl ho rfl (by decide) fun i hi => by rw [hi.ga, hi.imm]
    case shli => exact stationResult_of_setGd h rfl ho rfl (by decide) fun i hi => by rw [hi.ga, hi.shift]
    case shri => exact stationResult_of_setGd h rfl ho rfl (by decide) fun i hi => by rw [hi.ga, hi.shift]
    case sari => exact stationResult_of_setGd h rfl ho rfl (by decide) fun i hi => by rw [hi.ga, hi.shift]
    case movi => exact stationResult_of_setGd h rfl ho rfl (by decide) fun i hi => by rw [hi.insn]
    case movs => exact stationResult_of_setGd h rfl ho rfl (by decide) fun i hi => by rw [hi.gd, hi.insn]
  case predicates =>
    intro s cell w x h a b k cmp cmpi plog p q
    have hcmp {fn : Nat} {v : Bool} (hv : cmpHolds fn a b = v) : cmp fn v := by
      intro ho hf
      subst hv hf
      exact cmp_stationResult h ho
    have hcmpi {fn : Nat} {v : Bool} (hv : cmpHolds fn a (BitVec.ofInt 64 k) = v) : cmpi fn v := by
      intro ho hf
      subst hv hf
      exact cmpi_stationResult h ho
    have hplog {fn : Nat} {v : Bool} (hv : plogOp fn p q = v) : plog fn v := by
      intro ho hf
      subst hv hf
      exact plog_stationResult h ho
    have hk : (BitVec.ofInt 64 k).toInt = k := toInt_ofInt_fImm w
    have eq_imm : decide (a = BitVec.ofInt 64 k) = decide (a.toInt = k) := by rw [decide_eq_toInt, hk]
    refine ⟨hcmp (cmpHolds_eq a b), hcmp (cmpHolds_ne a b), hcmp (cmpHolds_slt a b), hcmp (cmpHolds_sge a b), hcmp (cmpHolds_ult a b),
      hcmp (cmpHolds_uge a b), hcmpi ?_, hcmpi ?_, hcmpi ?_, hcmpi ?_, hplog rfl, hplog rfl, hplog rfl, hplog rfl⟩
    · rw [cmpHolds_eq, eq_imm]
    · rw [cmpHolds_ne, decide_not, eq_imm, decide_not]
    · rw [cmpHolds_slt, hk]
    · rw [cmpHolds_sge, hk]

end Sys2Proof.Proofs
end

section
/-!
SUPPORT. Loads, stores and control (R155, R172): the checks of an access and of a jump, each outcome once.
-/
namespace Sys2Proof.Machine
open Sys2Proof

variable {s : State} {cell : Nat} {w : Word} {x : Where} {i : Issue}

/-! ### An access to data scratch -/

theorem needScratch_ok {a size align : Nat} (hr : a + size ≤ i.w.sr.scratch) (ha : a % align = 0) (k : Nat → State) :
    needScratch i a size align k = k a := by
  have hin : ¬ ((a : Int) < 0 ∨ (i.w.sr.scratch : Int) < a + size) := by omega
  simp [needScratch, hin, ha]

theorem needScratch_range {a : Int} {size align : Nat} (hr : a < 0 ∨ (i.w.sr.scratch : Int) < a + size) (k : Nat → State) :
    needScratch i a size align k = i.fault C.scratchRange (addrDetail a) := if_pos hr

theorem needScratch_align {a size align : Nat} (hr : a + size ≤ i.w.sr.scratch) (ha : a % align ≠ 0) (k : Nat → State) :
    needScratch i a size align k = i.fault C.scratchAlign a := by
  have hin : ¬ ((a : Int) < 0 ∨ (i.w.sr.scratch : Int) < a + size) := by omega
  simp [needScratch, hin, ha]

theorem addrDetail_ofNat (a : Nat) : addrDetail a = if 2 ^ 32 ≤ a then 0xFFFFFFFF else a := by
  unfold addrDetail
  split <;> split <;> omega

theorem addrDetail_neg {a : Int} (h : a < 0) : addrDetail a = 0xFFFFFFFF := if_pos (.inl h)

theorem addrDetail_mod (a : Int) : addrDetail a % 2 ^ 32 = addrDetail a := by
  refine Nat.mod_eq_of_lt ?_
  unfold addrDetail
  split <;> omega

/-- Words that need no correction are never found bad. -/
theorem badIn_nil (a n : Nat) : badIn [] a n = false := rfl

theorem loadBody_ok (hi : IssueOf s x w i) {a size : Nat} (ha : accessAddr x.st w size = a) (hal : a % size = 0)
    (hr : a + size ≤ x.sr.scratch) : loadBody size i = setGd i (BitVec.ofNat 64 (leNat (x.st.scratch.read a size))) := by
  rw [loadBody, hi.accessAddr, ha, needScratch_ok (by rw [hi.sr]; exact hr) hal, hi.bad, badIn_nil, hi.scratch]
  rfl

theorem storeBody_ok (hi : IssueOf s x w i) {a size : Nat} (ha : accessAddr x.st w size = a) (hal : a % size = 0)
    (hr : a + size ≤ x.sr.scratch) : storeBody size i =
      goOn i.s i.w (fun st => { st with scratch := st.scratch.store a (leBytes size (getG x.st (fRD w)).toNat) }) := by
  rw [storeBody, hi.accessAddr, ha, needScratch_ok (by rw [hi.sr]; exact hr) hal, hi.gd]

/-- The bytes that a store writes are among those that its issue has scanned (R237). -/
theorem cleanRun_of_store (h : Issues s cell w x) {a size : Nat} (hs : accessSize (fOpc w) = size) (h0 : size ≠ 0)
    (ho : fOpc w = 0x13 ∨ fOpc w = 0x14 ∨ fOpc w = 0x15) (ha : accessAddr x.st w size = a) : x.st.scratch.CleanRun a size := by
  have hitem : Item.bytes a size ∈ (fullFootprint x.st w).2 := by
    have hst : ¬ fOpc w ≤ 0x12 := by omega
    simp [fullFootprint, hs, h0, hst, ha]
  have hmem : Item.bytes a size ∈ scanned x.st w := by
    have hscan : fOpc w = 0x13 ∨ fOpc w = 0x14 ∨ fOpc w = 0x15 ∨ fOpc w = 0x22 := by omega
    rw [scanned, if_pos hscan]
    exact List.mem_append_right _ (List.mem_map.2 ⟨_, hitem, rfl⟩)
  exact cleanRun_of_scanItems h.clean hmem rfl

/-- A load whose bytes lie in data scratch at a multiple of its size. -/
theorem load_stationResult {c : Instr} {opc size : Nat} (h : Issues s cell w x) (hc : exec c s = done (issue s cell w opc (loadBody size)))
    (ho : fOpc w = opc) (ht : isTallyOp opc = false) (hk : opc ≠ 0x28 ∧ opc ≠ 0x2A) {a : Nat} (ha : accessAddr x.st w size = a)
    (hal : a % size = 0) (hr : a + size ≤ x.sr.scratch) :
    StationResult c s x (past (setG (issued x w) (fRD w) (BitVec.ofNat 64 (leNat (x.st.scratch.read a size))))) :=
  stationResult_of_setGd h hc ho ht hk fun _ hi => loadBody_ok hi ha hal hr

/-- A store likewise: its bytes read back, and every other byte stays. -/
theorem store_stationResult {c : Instr} {opc size : Nat} (h : Issues s cell w x) (hc : exec c s = done (issue s cell w opc (storeBody size)))
    (ho : fOpc w = opc) (hs : opc = 0x13 ∨ opc = 0x14 ∨ opc = 0x15) (hsz : accessSize opc = size) (h0 : size ≠ 0) {a : Nat}
    (ha : accessAddr x.st w size = a) (hal : a % size = 0) (hr : a + size ≤ x.sr.scratch) :
    ∃ m : Mem, StationResult c s x (past { issued x w with scratch := m }) ∧
      leNat (m.read a size) = (getG x.st (fRD w)).toNat % 2 ^ (8 * size) ∧
      ∀ b, (b < a ∨ a + size ≤ b) → m.byte b = x.st.scratch.byte b := by
  subst ho
  have ht : isTallyOp (fOpc w) = false := by rcases hs with hs | hs | hs <;> rw [hs] <;> rfl
  have hk : fOpc w ≠ 0x28 ∧ fOpc w ≠ 0x2A := by omega
  obtain ⟨hread, hframe⟩ := Mem.store_leBytes (cleanRun_of_store h hsz h0 hs ha) (getG x.st (fRD w)).toNat
  refine ⟨_, stationResult_of_goOn h hc rfl ht hk fun _ hi => ⟨_, storeBody_ok hi ha hal hr, rfl⟩, ?_, hframe⟩
  rw [pow_mul]
  exact hread

/-- What a load or store does where its check fails: it faults first for its range, then for its alignment. -/
theorem access_faults {c : Instr} {opc size : Nat} {k : Issue → Nat → State} (h : Issues s cell w x)
    (hc : exec c s = done (issue s cell w opc (fun i => needScratch i (accessAddr i.w.st i.insn size) size size (k i))))
    (ht : isTallyOp opc = false) (hk : opc ≠ 0x28 ∧ opc ≠ 0x2A) (ho : fOpc w = opc) :
    (∀ a : Nat, accessAddr x.st w size = a → x.sr.scratch < a + size →
      ∃ t, exec c s = .next t ∧ FaultShown t cell x 0x0212 x.st.pc w (shownDetail x (if 2 ^ 32 ≤ a then 0xFFFFFFFF else a))) ∧
    (accessAddr x.st w size < 0 →
      ∃ t, exec c s = .next t ∧ FaultShown t cell x 0x0212 x.st.pc w (shownDetail x 0xFFFFFFFF)) ∧
    (∀ a : Nat, accessAddr x.st w size = a → a + size ≤ x.sr.scratch → a % size ≠ 0 → a < 2 ^ 32 →
      ∃ t, exec c s = .next t ∧ FaultShown t cell x 0x0213 x.st.pc w (shownDetail x a)) := by
  have he := exec_issue_eq h hc ho ht hk
  rw [h.issueOf.accessAddr] at he
  have hsr := h.issueOf.sr
  refine ⟨fun a ha hr => ?_, fun ha => ?_, fun a ha hr hal hlt => ?_⟩
  · refine shown_of_fault h he (code := C.scratchRange) (by decide) ?_ ((addrDetail_mod a).trans (addrDetail_ofNat a))
    rw [ha]
    exact needScratch_range (by rw [hsr]; omega) _
  · refine shown_of_fault h he (code := C.scratchRange) (by decide) ?_ ((addrDetail_mod _).trans (addrDetail_neg ha))
    exact needScratch_range (.inl ha) _
  · refine shown_of_fault h he (code := C.scratchAlign) (by decide) ?_ (Nat.mod_eq_of_lt hlt)
    rw [ha]
    exact needScratch_align (by rw [hsr]; exact hr) hal _

/-! ### Jumps -/

theorem jumpTo_ok (hi : IssueOf s x w i) {p : Nat} (hp : p < 4 * x.st.code.length) (h4 : p % 4 = 0) (f : Station → Station) :
    jumpTo i p f = modStation i.s x.slot x.idx (fun st => { f st with pc := p }) := by
  have hin : ¬ ((p : Int) < 0 ∨ (4 * x.st.code.length : Int) ≤ p ∨ (p : Int) % 4 ≠ 0) := by omega
  rw [jumpTo, hi.code, if_neg hin, hi.slot, hi.idx]
  rfl

theorem jumpTo_out (hi : IssueOf s x w i) {target : Int} (ht : target < 0 ∨ (4 * x.st.code.length : Int) ≤ target ∨ target % 4 ≠ 0)
    (f : Station → Station) : jumpTo i target f = i.fault C.pcRange (BitVec.ofInt 32 target).toNat := by
  rw [jumpTo, hi.code]
  exact if_pos ht

theorem branchTarget_eq (hi : IssueOf s x w i) : branchTarget i = (x.st.pc : Int) + 4 * fOff w := by
  rw [branchTarget, hi.pc, hi.insn]

/-- A command that jumps. -/
theorem jump_outcome {c : Instr} {opc : Nat} {target : Int} {f : Station → Station} {st : Station} (h : Issues s cell w x)
    (ht : isTallyOp opc = false) (hk : opc ≠ 0x28 ∧ opc ≠ 0x2A)
    (hc : ∃ body, exec c s = done (issue s cell w opc body) ∧ body (atIssue s x w) = jumpTo (atIssue s x w) target f)
    (hst : f (issued x w) = st) : fOpc w = opc →
      (∀ p : Nat, target = p → p < 4 * x.st.code.length → p % 4 = 0 → StationResult c s x { st with pc := p }) ∧
      (target < 0 ∨ (4 * x.st.code.length : Int) ≤ target ∨ target % 4 ≠ 0 →
        ∃ t, exec c s = .next t ∧ FaultShown t cell x 0x0211 x.st.pc w (shownDetail x (BitVec.ofInt 32 target).toNat)) := by
  intro ho
  obtain ⟨body, hc, hb⟩ := hc
  have he := (exec_issue_eq h hc ho ht hk).trans (congrArg done hb)
  refine ⟨fun p hp hlen h4 => ?_, fun hout => ?_⟩
  · subst hp hst
    rw [jumpTo_ok h.issueOf hlen h4] at he
    exact stationResult_of_only he (h.issueOf.only.mod h.at_.on.lt _)
  · exact shown_of_fault h he (code := C.pcRange) (by decide) (jumpTo_out h.issueOf hout f) (Nat.mod_eq_of_lt (BitVec.isLt _))

/-! ### Busy items (R152) -/

/-- A word that uses what one still running writes, or writes what one still reads, does not issue. -/
theorem issueGated_mustWait (h : AtWord s cell w x) (hv : validWord w = true) (hm : mustWait x.st w = true) (gate : Where → Bool)
    (body : Issue → State) : issueGated s cell w (fOpc w) gate body =
      if blockedByStack x.st w && x.st.blockedSince.isNone then
        modStation s x.slot x.idx (fun st => { st with blockedSince := some (now s) }) else s := by
  simp [issueGated, h.on.on, h.mayIssue, h.word, h.settled, hv, hm]

/-! ### TSET (R144, R157) -/

/-- The check of TSET's rounding end: RB 0, or an end that the station has. -/
theorem tset_roundEnd_ok {rb n : Nat} (h : rb = 0 ∨ rb % 16 < n) : ¬ (rb ≠ 0 ∧ n ≤ rb % 16) := by omega

/-- The handle that TSET writes. -/
def tsetHandle (w : Word) (a : Nat) : Handle := ⟨a, if fRB w = 0 then none else some (fRB w % 16)⟩

theorem tset_stationResult (h : Issues s cell w x) (ho : fOpc w = 0x20) {a : Nat} (ha : (getG x.st (fRA w)).toNat = a) (h32 : a % 32 = 0)
    (hr : a + 4256 ≤ x.sr.scratch) (he : fRB w = 0 ∨ fRB w % 16 < (outputEnds x.b.img x.idx).length) :
    StationResult (.tset cell w) s x (past { issued x w with t := SMap.insert x.st.t (fRD w) (tsetHandle w a) }) := by
  refine stationResult_of_goOn h rfl ho rfl (by decide) fun i hi =>
    ⟨fun st => { st with t := SMap.insert st.t (fRD w) (tsetHandle w a) }, ?_, rfl⟩
  rw [hi.ga, ha, needScratch_ok (by rw [hi.sr]; exact hr) h32, hi.insn, hi.img, hi.idx]
  exact if_neg (tset_roundEnd_ok he)

end Sys2Proof.Machine

namespace Sys2Proof.Proofs
open Sys2Proof Sys2Proof.Machine

/-- Settles O10: each access by its size, with the two faults in the order of R172 (log entry 13). -/
theorem loadsAndStores : Obligations.LoadsAndStores := by
  refine ⟨?loads, ?stores, ?faults⟩
  case loads =>
    intro s cell w x h
    exact ⟨fun a ho ha hal hr => load_stationResult h rfl ho rfl (by decide) ha hal hr,
      fun a ho ha hal hr => load_stationResult h rfl ho rfl (by decide) ha hal hr,
      fun a ho ha hal hr => load_stationResult h rfl ho rfl (by decide) ha hal hr⟩
  case stores =>
    intro s cell w x h
    exact ⟨fun a ho ha hal hr => store_stationResult h rfl ho (by decide) rfl (by decide) ha hal hr,
      fun a ho ha hal hr => store_stationResult h rfl ho (by decide) rfl (by decide) ha hal hr,
      fun a ho ha hal hr => store_stationResult h rfl ho (by decide) rfl (by decide) ha hal hr⟩
  case faults =>
    intro s cell w x h
    exact ⟨access_faults h rfl rfl (by decide), access_faults h rfl rfl (by decide), access_faults h rfl rfl (by decide),
      access_faults h rfl rfl (by decide), access_faults h rfl rfl (by decide), access_faults h rfl rfl (by decide)⟩

/-- Settles O11: the three jumps share the check of their target. -/
theorem branchesMovePc : Obligations.BranchesMovePc := by
  intro s cell w x h
  refine ⟨jump_outcome h rfl (by decide) (f := id) ⟨_, rfl, ?br⟩ rfl, jump_outcome h rfl (by decide) (f := fun st => setG st 31 (BitVec.ofNat 64 (x.st.pc + 4)))
      ⟨_, rfl, ?call⟩ rfl,
    jump_outcome h rfl (by decide) (f := id) ⟨_, rfl, ?jr⟩ rfl⟩
  case br => rw [branchTarget_eq h.issueOf]
  case call => rw [branchTarget_eq h.issueOf, h.issueOf.pc]
  case jr => rw [h.issueOf.ga]

/-- Settles O14: TSET's checks of range and alignment are those of an access of 4,256 bytes. -/
theorem tsetNamesASlot : Obligations.TsetNamesASlot := by
  intro s cell w x h ho a ends
  have he : exec (.tset cell w) s = done _ := exec_issue_eq h rfl ho rfl (by decide)
  have hsr := h.issueOf.sr
  refine ⟨fun h32 hr hrb => ?plain, fun e h32 hr hrb hend => ?rounding, fun hr => ?range, fun h32 hr hlt => ?align⟩
  case plain =>
    have hres := tset_stationResult h ho rfl h32 hr (.inl hrb)
    rwa [tsetHandle, if_pos hrb] at hres
  case rounding =>
    have hlt : fRB w < 32 := fRB_lt w
    have hmod : fRB w % 16 = e := by omega
    have hres := tset_stationResult h ho rfl h32 hr (.inr (by rw [hmod]; exact hend))
    rwa [tsetHandle, if_neg (by omega), hmod] at hres
  case range =>
    refine shown_of_fault h he (code := C.scratchRange) (by decide) ?_ ((addrDetail_mod a).trans (addrDetail_ofNat a))
    rw [h.issueOf.ga]
    exact needScratch_range (.inr (by rw [hsr]; exact_mod_cast hr)) _
  case align =>
    refine shown_of_fault h he (code := C.scratchAlign) (by decide) ?_ (Nat.mod_eq_of_lt hlt)
    rw [h.issueOf.ga]
    exact needScratch_align (by rw [hsr]; exact hr) h32 _

end Sys2Proof.Proofs
end

section
/-!
SUPPORT. The state that refutes O13: its list of slots is not in rising order, so listing the bundle of a station that stays as it is
once more is not the list itself.
-/
namespace Sys2Proof.Machine
open Sys2Proof

/-- ADDI g1 := g0 + 0. -/
def addiG1 : Word := 0x04010000#32

/-- A station on cell 0 whose ADDI waits for the gd of a tally instruction. -/
def waitingStation : Station :=
  { cell := some 0, run := .running, waiting := .no, waitInsn := 0, waitSince := 0, blockedSince := none, drainReq := false
    g := [], p := 0, t := [], pc := 0, acc := Acc.clear, endCtl := [], endChk := [], gen := Gen.seed 0, scratch := Mem.wiped
    code := [addiG1], order := 0, stackOps := [], blockOps := [], tallyOps := [⟨0, .give, 0, 1, 0, 0, 0, true, none⟩]
    ckpts := [], ckptNext := 0, heldWrites := [], relocations := 0, relocating := false, relocReported := false
    stallReported := false, save := none, saved := none, deferred := [] }

def waitingRecord : StationRec :=
  { name := [], codeOff := 0, codeLen := 1, entry := 0, scratch := 0, group := 0, spec := 0, seed := 0 }

/-- A running bundle of given stations and their records. -/
def plainBundle (stations : List Station) (records : List StationRec) : Bundle :=
  { reuse := 0, st := .running
    img := { bytes := [], buildId := 0, stations := records, streams := [], regions := [], tallies := [], code := [], consts := []
             plan := none, spill := []
             limits := { framePeriod := 0, slack := 0, powerShare := 0, priority := 0, evictable := false, frameStart := 0
                         drainBound := 0, completion := 0xFFFF } }
    opts := ⟨none, false, false, false⟩, stage := 0, loaded := 0, fits := true, placed := true, everStarted := true
    stations := stations, streams := [], regions := [], spills := [], tallies := [], preload := 0, haltReported := false
    evictFrom := .running, victims := [], planShort := [], reply := none, frames := [], frameK := 0, frameS0 := 0, lastFrame := none
    slacks := [], sinceRaise := 0, baseMv := none, requests := [], raddReported := [] }

def waitingBundle : Bundle := plainBundle [waitingStation] [waitingRecord]

/-- Slot 1 stands before slot 0. -/
def unsortedSlots : State := { State.reset with pl := { State.reset.pl with slots := [(1, plainBundle [] []), (0, waitingBundle)] } }

def waitingWhere : Where := ⟨0, 0, waitingBundle, waitingStation, waitingRecord⟩

theorem unsortedSlots_atWord : AtWord unsortedSlots 0 addiG1 waitingWhere where
  on := ⟨rfl, rfl, rfl, rfl, rfl⟩
  phase := rfl
  run := rfl
  idle := .inl rfl
  settled := rfl
  bundle := .inl rfl
  word := rfl

theorem waiting_mustWait : mustWait waitingStation addiG1 = true := by decide

/-- The ADDI does not issue, and nothing changes. -/
theorem exec_unsortedSlots : exec (.addi 0 addiG1) unsortedSlots = .next unsortedSlots := by
  have h := issueGated_mustWait unsortedSlots_atWord (by decide) waiting_mustWait (fun _ => false) (fun i => setGd i (i.ga + i.imm))
  have hfetch : blockedByStack waitingStation addiG1 = false := by decide
  rw [show waitingWhere.st = waitingStation from rfl, hfetch] at h
  exact congrArg done h

end Sys2Proof.Machine

namespace Sys2Proof.Proofs
open Sys2Proof Sys2Proof.Machine

/-- Refutes O13: its second clause speaks of every state, one whose slots are not in rising order among them. There the station
stays as it is, but the state is not the one with its bundle listed anew, which `StationResult` asks for. -/
theorem not_guardsAndBusyItemsHoldInstructions : ¬ Obligations.GuardsAndBusyItemsHoldInstructions := by
  rintro ⟨-, busy⟩
  obtain ⟨b, t, ht, c, p, n, rfl⟩ := busy unsortedSlots 0 addiG1 waitingWhere (.addi 0 addiG1) unsortedSlots_atWord (.addi (by decide))
    (by decide) waiting_mustWait
  rw [exec_unsortedSlots] at ht
  have hslots := congrArg (fun s : State => s.pl.slots.length) (Host.Outcome.next.inj ht)
  exact absurd hslots (by simp [unsortedSlots, SMap.insert, waitingWhere])

end Sys2Proof.Proofs
end

section
/-!
SUPPORT. Slots of memory: what a tile's slot holds after it is written, copied or wiped, and a slot read that needs no correction.
-/
namespace Sys2Proof.Machine
open Sys2Proof

/-! ### Bytes of numbers and headers (R8, R41) -/

theorem leBytes_leNat (bs : List Byte) : leBytes bs.length (leNat bs) = bs := by
  induction bs with
  | nil => rfl
  | cons b bs ih =>
    have hb : b.toNat < 256 := b.isLt
    have hdiv : (b.toNat + 256 * leNat bs) / 256 = leNat bs := by omega
    have hhead : BitVec.ofNat 8 (b.toNat + 256 * leNat bs) = b := BitVec.eq_of_toNat_eq (by rw [BitVec.toNat_ofNat]; omega)
    rw [List.length_cons, leBytes, leNat, hdiv, ih, hhead]

/-- A field of a header, read as a number and stored again, is its bytes. -/
theorem leBytes_fieldLE {bs : List Byte} {off n w : Nat} (h : off + n ≤ bs.length) (hw : 256 ^ n = 2 ^ w) :
    leBytes n (BitVec.ofNat w (fieldLE bs off n)).toNat = slice bs off n := by
  have hlen : (slice bs off n).length = n := by simp [slice]; omega
  have hlt := leNat_lt (slice bs off n)
  rw [hlen, hw] at hlt
  have hback := leBytes_leNat (slice bs off n)
  rw [hlen] at hback
  rw [fieldLE, BitVec.toNat_ofNat, Nat.mod_eq_of_lt hlt, hback]

theorem slice_append (bs : List Byte) (off m n : Nat) : slice bs off m ++ slice bs (off + m) n = slice bs off (m + n) := by
  rw [slice, slice, slice, List.take_add, List.drop_drop]

/-- The one byte of a field. -/
theorem singleton_fieldLE {bs : List Byte} {off : Nat} (h : off + 1 ≤ bs.length) : [BitVec.ofNat 8 (fieldLE bs off 1)] = slice bs off 1 := by
  have hone (v : Byte) : leBytes 1 v.toNat = [v] := by rw [leBytes, leBytes, BitVec.ofNat_toNat, BitVec.setWidth_eq]
  rw [← leBytes_fieldLE (w := 8) h (by norm_num), hone]

/-- A header holds the 32 bytes that it was read from. -/
theorem bytes_ofBytes {bs : List Byte} (h : 32 ≤ bs.length) : (TileHeader.ofBytes bs).bytes = slice bs 0 32 := by
  have f4 {off : Nat} (ho : off + 4 ≤ 32) : leBytes 4 (BitVec.ofNat 32 (fieldLE bs off 4)).toNat = slice bs off 4 :=
    leBytes_fieldLE (by omega) (by norm_num)
  have f2 {off : Nat} (ho : off + 2 ≤ 32) : leBytes 2 (BitVec.ofNat 16 (fieldLE bs off 2)).toNat = slice bs off 2 :=
    leBytes_fieldLE (by omega) (by norm_num)
  have f1 {off : Nat} (ho : off + 1 ≤ 32) : [BitVec.ofNat 8 (fieldLE bs off 1)] = slice bs off 1 := singleton_fieldLE (by omega)
  have pair : [BitVec.ofNat 8 (fieldLE bs 12 1), BitVec.ofNat 8 (fieldLE bs 13 1)] = slice bs 12 2 := by
    rw [← slice_append bs 12 1 1, ← f1 (off := 12) (by omega), ← f1 (off := 13) (by omega)]
    rfl
  simp only [TileHeader.bytes, TileHeader.ofBytes, pair, f4 (off := 0) (by omega), f4 (off := 4) (by omega), f4 (off := 8) (by omega),
    f2 (off := 14) (by omega), f4 (off := 16) (by omega), f2 (off := 20) (by omega), f2 (off := 22) (by omega),
    f4 (off := 24) (by omega), f4 (off := 28) (by omega), slice_append bs 0 4 4, slice_append bs 0 8 4, slice_append bs 0 12 2,
    slice_append bs 0 14 2, slice_append bs 0 16 4, slice_append bs 0 20 2, slice_append bs 0 22 2, slice_append bs 0 24 4,
    slice_append bs 0 28 4]

theorem padTo_of_length {n : Nat} {bs : List Byte} (h : bs.length = n) : padTo n bs = bs := by
  subst h
  simp [padTo]

theorem length_padTo (n : Nat) (bs : List Byte) : (padTo n bs).length = n := by
  simp only [padTo, List.length_take, List.length_append, List.length_replicate]
  omega

theorem length_headerBytes (h : TileHeader) : h.bytes.length = 32 := by simp [TileHeader.bytes]

theorem length_slot (t : Tile) : t.slot.length = slotBytes := by
  simp only [Tile.slot, List.length_append, length_headerBytes, length_padTo]
  rfl

/-- The slot image of the tile in a slot image is that image. -/
theorem slot_ofSlot {bs : List Byte} (h : bs.length = slotBytes) (chk : List (Nat × BitVec 16)) : (Tile.ofSlot bs chk).slot = bs := by
  have hlen : bs.length = 4256 := h
  have hp : padTo 4096 (slice bs 32 4096) = slice bs 32 4096 := padTo_of_length (by simp [slice]; omega)
  have hs : padTo 128 (slice bs 4128 128) = slice bs 4128 128 := padTo_of_length (by simp [slice]; omega)
  rw [Tile.slot, Tile.ofSlot, hp, hs, bytes_ofBytes (by omega), slice_append bs 0 32 4096, slice_append bs 0 4128 128]
  exact List.take_of_length_le (by simp; omega)

/-! ### Runs of bytes written with the check fields they carry (R232) -/

theorem Mem.byte_foldl_setDiff {α : Type} (l : List α) (k : α → Nat) (d : α → BitVec 16) (m : Mem) (b : Nat) :
    (l.foldl (fun m e => m.setDiff (k e) (d e)) m).byte b = m.byte b := by
  induction l generalizing m with
  | nil => rfl
  | cons e l ih => rw [List.foldl_cons, ih, Mem.byte_setDiff]

theorem Mem.byte_storeCarried (m : Mem) (a : Nat) (bs : List Byte) (c : List (Nat × BitVec 16)) (b : Nat) :
    (m.storeCarried a bs c).byte b = if a ≤ b ∧ b < a + bs.length then (bs[b - a]?).getD 0 else m.byte b := by
  rw [Mem.storeCarried, Mem.byte_foldl_setDiff, Mem.byte_putBytes]

theorem Mem.read_storeCarried (m : Mem) (a : Nat) (bs : List Byte) (c : List (Nat × BitVec 16)) :
    (m.storeCarried a bs c).read a bs.length = bs := by
  refine List.ext_getElem (by simp) fun i hi hj => ?_
  rw [Mem.getElem_read, Mem.byte_storeCarried, if_pos (by omega)]
  simp [hj]

/-- A slot written reads as the tile's image. -/
theorem Mem.read_writeSlot (m : Mem) (a : Nat) (t : Tile) : (m.writeSlot a t).read a 4256 = t.slot := by
  have h := Mem.read_storeCarried m a t.slot t.chk
  rwa [length_slot] at h

theorem Mem.byte_writeSlot_outside (m : Mem) (a : Nat) (t : Tile) {b : Nat} (h : b < a ∨ a + 4256 ≤ b) : (m.writeSlot a t).byte b = m.byte b := by
  have hlen : t.slot.length = 4256 := length_slot t
  rw [Mem.writeSlot, Mem.byte_storeCarried, if_neg (by omega)]

/-! ### Wiping (R256) -/

theorem SMap.find_filter {α : Type} (p : Nat → Bool) (m : SMap α) (k : Nat) :
    SMap.find (m.filter (fun e => p e.1)) k = if p k then SMap.find m k else none := by
  induction m with
  | nil => simp [SMap.find]
  | cons e r ih =>
    obtain ⟨j, v⟩ := e
    rw [List.filter_cons]
    by_cases hk : k = j
    · subst hk
      cases hp : p k <;> simp [hp, ih, SMap.find]
    · cases hp : p j <;> simp [ih, SMap.find, hk]

theorem Mem.byte_wipe (m : Mem) (a n b : Nat) : (m.wipe a n).byte b = if a ≤ b ∧ b < a + n then 0 else m.byte b := by
  simp only [Mem.byte, Mem.wipe, SMap.getD]
  rw [SMap.find_filter (fun k => decide (k < a) || decide (a + n ≤ k))]
  by_cases h : a ≤ b ∧ b < a + n
  · rw [if_neg (by simp; omega), if_pos h]
    rfl
  · rw [if_pos (by simp; omega), if_neg h]

/-! ### Reads that need no correction (R234, R249) -/

theorem foldl_scanItem_correct {l : List Item} {r : ScanR} (h : (l.foldl scanItem r).found = r.found) :
    ∀ i ∈ l, ∀ a n, i.span = some (a, n) → (r.mem.correct a n).found = 0 := by
  induction l generalizing r with
  | nil => simp
  | cons i l ih =>
    rw [List.foldl_cons] at h
    have h1 := le_found_scanItem r i
    have h2 := le_found_foldl_scanItem l (scanItem r i)
    have hhead : (scanItem r i).found = r.found := by omega
    have hi := (scanItem_of_found hhead).2
    rw [hi] at h
    refine List.forall_mem_cons.2 ⟨fun a n hs => ?_, ih h⟩
    cases i with
    | bytes a' n' =>
      cases hs
      have := ScanR.found_run r a n
      exact Nat.left_eq_add.1 (hhead.symm.trans this)
    | slot a' n' =>
      cases hs
      have := (found_scanItem_slot r a n).trans (ScanR.found_run r a n)
      exact Nat.left_eq_add.1 (hhead.symm.trans this)
    | _ => cases hs

/-- A correcting read of what an instruction's clean scan has met finds nothing. -/
theorem correct_of_scanItems {m : Mem} {items : List Item} (h : scanItems m items = ⟨m, 0, 0, []⟩) {i : Item} (hi : i ∈ items) {a n : Nat}
    (hs : i.span = some (a, n)) : m.correct a n = ⟨m, [], []⟩ := by
  rw [scanItems_eq] at h
  have hfound : (items.foldl scanItem ⟨m, 0, 0, []⟩).found = ScanR.found ⟨m, 0, 0, []⟩ := by rw [h]
  exact (Mem.correct_of_found (foldl_scanItem_correct hfound i hi a n hs)).2

theorem Mem.readSlot_of_correct {m : Mem} {a : Nat} (h : m.correct a slotBytes = ⟨m, [], []⟩) (keep : Bool) :
    (m.readSlot a keep).mem = m ∧ (m.readSlot a keep).tile.slot = m.read a 4256 := by
  have hslot (chk : List (Nat × BitVec 16)) : (Tile.ofSlot (m.read a slotBytes) chk).slot = m.read a 4256 :=
    slot_ofSlot (Mem.length_read _ _ _) chk
  simp only [Mem.readSlot, h, List.foldl_nil, List.isEmpty_nil, if_true]
  exact ⟨ite_self _, hslot _⟩

end Sys2Proof.Machine
end

section
/-!
SUPPORT. Tile instructions in scratch and the block instructions (R157, R163, R178): handles needed, tiles copied, wiped and
converted, and entry into the tensor and the vector block.
-/
namespace Sys2Proof.Machine
open Sys2Proof

variable {s : State} {cell : Nat} {w : Word} {x : Where} {i : Issue}

/-! ### Handles (R172) -/

theorem needHandle_set {n : Nat} {h : Handle} (hn : getT i.w.st n = some h) (k : Handle → State) : needHandle i n k = k h := by
  simp [needHandle, hn]

theorem needHandle_unset {n : Nat} (hn : getT i.w.st n = none) (k : Handle → State) :
    needHandle i n k = i.fault C.handleUnset n := by simp [needHandle, hn]

theorem needHandles_unset {n : Nat} (hn : getT i.w.st n = none) (ns : List Nat) (k : List Handle → State) :
    needHandles i (n :: ns) k = i.fault C.handleUnset n := by simp [needHandles, hn]

theorem needHandles_set {ns : List Nat} {hs : List Handle} (h : List.Forall₂ (fun n a => getT i.w.st n = some a) ns hs) (k : List Handle → State) :
    needHandles i ns k = k hs := by
  have hall : ns.find? (fun n => (getT i.w.st n).isNone) = none ∧ ns.filterMap (getT i.w.st) = hs := by
    induction h with
    | nil => exact ⟨rfl, rfl⟩
    | cons hn _ ih => simp [hn, ih]
  rw [needHandles, hall.1, hall.2]

/-- An instruction whose first handle is not set faults. -/
theorem unset_faults {c : Instr} {opc n : Nat} {body : Issue → State} (h : Issues s cell w x) (hn : n < 32)
    (hc : exec c s = done (issue s cell w opc body)) (ht : isTallyOp opc = false) (hk : opc ≠ 0x28 ∧ opc ≠ 0x2A)
    (hb : ∀ i, IssueOf s x w i → getT i.w.st n = none → fOpc w = opc → body i = i.fault C.handleUnset n) :
    fOpc w = opc → getT x.st n = none → ∃ t, exec c s = .next t ∧ FaultShown t cell x 0x0218 x.st.pc w (shownDetail x n) := by
  intro ho hu
  have hi := h.issueOf
  exact shown_of_fault h (exec_issue_eq h hc ho ht hk) (code := C.handleUnset) (by decide) (hb _ hi ((hi.getT n).trans hu) ho)
    (Nat.mod_eq_of_lt (by omega))

/-- A valid V word names an operation. -/
theorem vopInfo_of_valid (hv : validWord w = true) (ho : fOpc w = 0x58 ∨ fOpc w = 0x59) : ∃ o, vopInfo (fFN w) = some o := by
  cases hf : vopInfo (fFN w) with
  | some o => exact ⟨o, rfl⟩
  | none => rcases ho with ho | ho <;> simp [validWord, ho, hf] at hv

theorem vecBody_unset (hi : IssueOf s x w i) (f64 : Bool) {o : VOp} (ho : vopInfo (fFN w) = some o) (hn : getT i.w.st (fRA w) = none) :
    vecBody f64 i = i.fault C.handleUnset (fRA w) := by
  simp only [vecBody, hi.insn, ho, List.cons_append]
  exact needHandles_unset hn _ _

/-! ### Copies and conversions (R137, R144, R157) -/

/-- TCOPY leaves td's slot with the bytes of ta's. -/
theorem tcopy_stationResult (h : Issues s cell w x) (ho : fOpc w = 0x23) {a d : Handle} (ha : getT x.st (fRA w) = some a)
    (hd : getT x.st (fRD w) = some d) : StationResult (.tcopy cell w) s x (past { issued x w with
      scratch := (x.st.scratch.readSlot a.addr true).mem.writeSlot d.addr (x.st.scratch.readSlot a.addr true).tile }) := by
  refine stationResult_of_goOn h rfl ho rfl (by decide) fun i hi => ?_
  have hset : List.Forall₂ (fun n a => getT i.w.st n = some a) [fRA i.insn, fRD i.insn] [a, d] := by
    rw [hi.insn]
    exact .cons ((hi.getT _).trans ha) (.cons ((hi.getT _).trans hd) .nil)
  exact ⟨_, needHandles_set hset _, rfl⟩

/-- The slot that TCOPY reads needs no correction where it issues cleanly. -/
theorem correct_of_tcopy (h : Issues s cell w x) (ho : fOpc w = 0x23) {a : Handle} (ha : getT x.st (fRA w) = some a) :
    x.st.scratch.correct a.addr slotBytes = ⟨x.st.scratch, [], []⟩ := by
  have hmem : Item.slot a.addr slotBytes ∈ scanned x.st w := by
    simp [scanned, fullFootprint, footprint, accessSize, slotItem, ho, ha]
  exact correct_of_scanItems h.clean hmem rfl

theorem tzero_stationResult (h : Issues s cell w x) (ho : fOpc w = 0x24) {d : Handle} (hd : getT x.st (fRD w) = some d) :
    StationResult (.tzero cell w) s x (past { issued x w with scratch := x.st.scratch.wipe d.addr slotBytes }) := by
  refine stationResult_of_goOn h rfl ho rfl (by decide) fun i hi => ?_
  exact ⟨_, needHandle_set (by rw [hi.insn, hi.getT, hd]) _, rfl⟩

/-- Arithmetic events change nothing that a station holds. -/
theorem OnlyStation.arith {t : State} {st : Station} (h : OnlyStation s t x st) (cell : Nat) (ctx : EvCtx) (c : Cnt) :
    OnlyStation s (arithEvents t cell ctx c) x st :=
  (((((h.bump _ _ _).bump _ _ _).bump _ _ _).bump _ _ _).bump _ _ _).bump _ _ _

theorem cvtCheck_ok {fn : Nat} {t : Tile} (h1 : computable t.fmt = true) (h2 : computable fn = true) (h3 : shapeOk t.fmt t.shape = true)
    (h4 : countFits fn t.count = true) (h5 : t.hdr.flag flagPoison = false) : cvtCheck fn t false = none := by
  simp [cvtCheck, h1, h2, h3, h4, Tile.poisoned, h5]

/-- The tile scale that CVT finds in td's header (R113). -/
theorem tileScale_read (m : Mem) (a : Nat) : (TileHeader.ofBytes (m.read a 32)).tileScale.toNat = leNat (m.read (a + 20) 2) :=
  toNat_headerField m a (by decide) (by decide)

theorem resultTile_eq (t : Tile) (fn : Nat) (e : EncT) : resultTile t fn t.shape e =
    ⟨{ t.hdr with format := BitVec.ofNat 8 fn, len := 0, tileScale := BitVec.ofNat 16 (if isSbFmt fn then e.ts else 0) },
      e.payload, e.scale, []⟩ := by
  rw [resultTile, Tile.shape, BitVec.ofNat_toNat, BitVec.setWidth_eq]

theorem IssueOf.handleMode (hi : IssueOf s x w i) (re : Option Nat) : handleMode i.w.st re = handleMode x.st re := by
  rw [hi.st]; rfl

/-- CVT whose operand passes its checks. -/
theorem cvt_stationResult (h : Issues s cell w x) (ho : fOpc w = 0x25) {a d : Handle} {fi : FmtInfo} (hf : fmtInfo (fFN w) = some fi)
    (ha : getT x.st (fRA w) = some a) (hd : getT x.st (fRD w) = some d)
    (hok : cvtCheck (fFN w) (slotTile x.st.scratch a.addr) false = none) {e : EncT}
    (he : e = encodeElems (fFN w) fi (handleMode x.st d.roundEnd) x.st.gen
      (TileHeader.ofBytes (x.st.scratch.read d.addr 32)).tileScale.toNat (slotTile x.st.scratch a.addr).values) :
    StationResult (.cvt cell w) s x (past { issued x w with
      scratch := putTile d.addr (resultTile (slotTile x.st.scratch a.addr) (fFN w) (slotTile x.st.scratch a.addr).shape e) x.st.scratch
      gen := e.gen }) := by
  have hi := h.issueOf
  have hset : List.Forall₂ (fun n a => getT (atIssue s x w).w.st n = some a) [fRA (atIssue s x w).insn, fRD (atIssue s x w).insn] [a, d] := by
    rw [hi.insn]
    exact .cons ((hi.getT _).trans ha) (.cons ((hi.getT _).trans hd) .nil)
  have hexec : exec (.cvt cell w) s = done _ := exec_issue_eq h rfl ho rfl (by decide)
  rw [needHandles_set hset, hi.insn, hi.bad, hi.scratch, hi.gen] at hexec
  simp only [badIn_nil, Bool.and_false, Bool.or_self, hok, hf, hi.handleMode, ← he] at hexec
  exact stationResult_of_only hexec ((hi.only.arith _ _ _).goOn h.at_.on.lt hi.slot hi.idx _)

/-! ### Blocks (R178) -/

/-- A block instruction enters its block. -/
theorem IssueOf.enterBlock (hi : IssueOf s x w i) (hl : x.idx < x.b.stations.length) (o : BlockOp) (g : Gen) :
    OnlyStation s (enterBlock i o g) x (past { issued x w with blockOps := x.st.blockOps ++ [o], gen := g }) := hi.goOn hl _

theorem accz_stationResult (h : Issues s cell w x) (ho : fOpc w = 0x50) :
    StationResult (.accz cell w) s x (past { issued x w with acc := Acc.clear }) :=
  stationResult_of_goOn h rfl ho rfl (by decide) fun _ _ => ⟨_, rfl, rfl⟩

theorem IssueOf.mmaOp (hi : IssueOf s x w i) (a b : Tile) (r ws : List Item) : mmaOp i.w.st w a b r ws = mmaOp x.st w a b r ws := by
  rw [hi.st]; rfl

theorem IssueOf.accrdOp (hi : IssueOf s x w i) (addr : Nat) (re : Option Nat) (d : Tile) (r ws : List Item) :
    accrdOp i.w.st w addr re d r ws = accrdOp x.st w addr re d r ws := by
  rw [hi.st]; rfl

theorem IssueOf.vecOp (hi : IssueOf s x w i) (f64 : Bool) (o : VOp) (addr : Nat) (re : Option Nat) (a b d : Tile) (r ws : List Item) :
    vecOp i.w.st w f64 o addr re a b d r ws = vecOp x.st w f64 o addr re a b d r ws := by
  rw [hi.st]; rfl

theorem mma_stationResult (h : Issues s cell w x) (ho : fOpc w = 0x51) {a b : Handle} (ha : getT x.st (fRA w) = some a)
    (hb : getT x.st (fRB w) = some b)
    (hok : mmaCheck (fFN w) (slotTile x.st.scratch a.addr) (slotTile x.st.scratch b.addr) x.st.acc false = none) :
    StationResult (.mma cell w) s x (past { issued x w with
      blockOps := x.st.blockOps ++ [mmaOp x.st w (slotTile x.st.scratch a.addr) (slotTile x.st.scratch b.addr)
        (fullFootprint x.st w).1 (fullFootprint x.st w).2]
      gen := x.st.gen }) := by
  have hi := h.issueOf
  have hset : List.Forall₂ (fun n a => getT (atIssue s x w).w.st n = some a) [fRA (atIssue s x w).insn, fRB (atIssue s x w).insn] [a, b] := by
    rw [hi.insn]
    exact .cons ((hi.getT _).trans ha) (.cons ((hi.getT _).trans hb) .nil)
  have hexec : exec (.mma cell w) s = done _ := exec_issue_eq h rfl ho rfl (by decide)
  rw [needHandles_set hset, hi.insn, hi.bad, hi.scratch, hi.gen, hi.acc, hi.fp] at hexec
  simp only [badIn_nil, Bool.or_self, hok, hi.mmaOp] at hexec
  exact stationResult_of_only hexec (hi.enterBlock h.at_.on.lt _ _)

theorem accrd_stationResult (h : Issues s cell w x) (ho : fOpc w = 0x52) {d : Handle} (hd : getT x.st (fRD w) = some d)
    (hok : accrdCheck (fFN w) (fRB w) x.st.acc (slotTile x.st.scratch d.addr).poisoned = none) {o : BlockOp × Gen}
    (heq : o = accrdOp x.st w d.addr d.roundEnd (slotTile x.st.scratch d.addr) (fullFootprint x.st w).1 (fullFootprint x.st w).2) :
    StationResult (.accrd cell w) s x (past { issued x w with blockOps := x.st.blockOps ++ [o.1], gen := o.2 }) := by
  have hi := h.issueOf
  have hexec : exec (.accrd cell w) s = done _ := exec_issue_eq h rfl ho rfl (by decide)
  rw [needHandle_set (h := d) (by rw [hi.insn, hi.getT, hd]), hi.insn, hi.bad, hi.scratch, hi.acc, hi.fp] at hexec
  simp only [badIn_nil, Bool.or_false, hok, hi.accrdOp, ← heq] at hexec
  exact stationResult_of_only hexec (hi.enterBlock h.at_.on.lt _ _)

/-- The handles of a V operation, by whether it reads tb. -/
theorem vec_handles {o : VOp} {a b d : Handle} (ha : getT i.w.st (fRA w) = some a) (hb : o.readsB = true → getT i.w.st (fRB w) = some b)
    (hd : getT i.w.st (fRD w) = some d) :
    List.Forall₂ (fun n a => getT i.w.st n = some a) ([fRA w] ++ (if o.readsB then [fRB w] else []) ++ [fRD w])
      ([a] ++ (if o.readsB then [b] else []) ++ [d]) := by
  cases hr : o.readsB with
  | false => exact .cons ha (.cons hd .nil)
  | true => exact .cons ha (.cons (hb hr) (.cons hd .nil))

theorem vecBody_enters (hi : IssueOf s x w i) (f64 : Bool) {v : VOp} {a b d : Handle} (hv : vopInfo (fFN w) = some v)
    (ha : getT x.st (fRA w) = some a) (hb : v.readsB = true → getT x.st (fRB w) = some b) (hba : v.readsB = false → b = a)
    (hd : getT x.st (fRD w) = some d)
    (hok : vecCheck (fFN w) v (slotTile x.st.scratch a.addr) (slotTile x.st.scratch b.addr) (slotTile x.st.scratch d.addr) false = none)
    {o : BlockOp × Gen} (heq : o = vecOp x.st w f64 v d.addr d.roundEnd (slotTile x.st.scratch a.addr) (slotTile x.st.scratch b.addr)
      (slotTile x.st.scratch d.addr) (fullFootprint x.st w).1 (fullFootprint x.st w).2) :
    vecBody f64 i = enterBlock i o.1 o.2 := by
  have hset := vec_handles (i := i) (w := w) (o := v) (a := a) (b := b) (d := d) ((hi.getT _).trans ha)
    (fun hr => (hi.getT _).trans (hb hr)) ((hi.getT _).trans hd)
  simp only [vecBody, hi.insn, hv]
  rw [needHandles_set hset, hi.bad, hi.scratch, hi.fp]
  cases hr : v.readsB with
  | false =>
    obtain rfl := hba hr
    simp [badIn_nil, hok, hi.vecOp, ← heq]
  | true => simp [badIn_nil, hok, hi.vecOp, ← heq]

end Sys2Proof.Machine

namespace Sys2Proof.Proofs
open Sys2Proof Sys2Proof.Machine

/-- Settles O16: a copy reads back as what it copies, a wiped slot as 0, and CVT encodes what its slot holds. -/
theorem tileCopiesAndConversions : Obligations.TileCopiesAndConversions := by
  refine ⟨?copies, ?conversions⟩
  case copies =>
    intro s cell w x d h hd
    refine ⟨fun a ho ha => ?tcopy, fun ho => ?tzero⟩
    case tcopy =>
      obtain ⟨hmem, htile⟩ := Mem.readSlot_of_correct (correct_of_tcopy h ho ha) true
      refine ⟨_, tcopy_stationResult h ho ha hd, ?_, fun b hb => ?_⟩
      · rw [Mem.read_writeSlot, htile]
      · rw [Mem.byte_writeSlot_outside _ _ _ hb, hmem]
    case tzero =>
      refine ⟨_, tzero_stationResult h ho hd, fun b h1 h2 => ?_, fun b hb => ?_⟩
      · rw [Mem.byte_wipe, if_pos ⟨h1, h2⟩]
      · rw [Mem.byte_wipe, if_neg (by simp only [slotBytes]; omega)]
  case conversions =>
    intro s cell w x a d fi h ho ha hd hf t ts e hdr h1 h2 h3 h4 h5
    have hres := cvt_stationResult h ho hf ha hd (cvtCheck_ok h1 h2 h3 h4 h5) (e := e) (by rw [tileScale_read])
    rwa [resultTile_eq] at hres

/-- Settles O18: each block instruction whose checks pass enters its block with what it will write. -/
theorem blockInstructionsEnterTheirBlock : Obligations.BlockInstructionsEnterTheirBlock := by
  intro s cell w x h fp tile enters
  refine ⟨accz_stationResult h, fun a b ho ha hb hok => mma_stationResult h ho ha hb hok,
    fun d ho hd hok => accrd_stationResult h ho hd hok rfl, fun f64 v a b d ho hv ha hb hba hd hok => ?_⟩
  have hbody := vecBody_enters h.issueOf f64 hv ha hb hba hd hok rfl
  cases f64 with
  | false =>
    exact stationResult_of_only ((exec_issue_eq (c := .vOpF32 cell w) h rfl ho rfl (by decide)).trans (congrArg done hbody))
      (h.issueOf.enterBlock h.at_.on.lt _ _)
  | true =>
    exact stationResult_of_only ((exec_issue_eq (c := .vOpF64 cell w) h rfl ho rfl (by decide)).trans (congrArg done hbody))
      (h.issueOf.enterBlock h.at_.on.lt _ _)

end Sys2Proof.Proofs
end

section
/-!
SUPPORT. Regions named by an instruction (R146, R160, R172), and what a block instruction leaves where it completes (R178).
-/
namespace Sys2Proof.Machine
open Sys2Proof

variable {s : State} {cell : Nat} {w : Word} {x : Where} {i : Issue}

/-! ### Regions (R172) -/

/-- A station's regions are those of its bundle's image and of its placement. -/
theorem regionPlace_withStation (x : Where) (st : Station) : regionPlace (withStation x st) = regionPlace x.b := rfl

theorem Issues.regionPlace (h : Issues s cell w x) (k : Nat) :
    regionPlace (atIssue s x w).w.b (atIssue s x w).w.idx k = regionPlace x.b x.idx k := by
  rw [h.bundle, h.issueOf.idx, regionPlace_withStation]

theorem regionDetail_mod (k n : Nat) : regionDetail k n % 2 ^ 32 = (k * 2 ^ 28 + n % 2 ^ 28) % 2 ^ 32 := by
  rw [regionDetail]
  norm_cast

/-- Where a slot of a region is needed, a region that is not there, a slot beyond it and a write of one that is read only all end in
one fault. -/
theorem needSlot_faults {write : Bool} {body : Nat → Nat → State} (h : Machine.regionPlace i.w.b i.w.idx (fRB i.insn) = none ∨
      ∃ ri r p, Machine.regionPlace i.w.b i.w.idx (fRB i.insn) = some (ri, r, p) ∧ (r.slots ≤ i.ga.toNat ∨ (write = true ∧ r.readOnly = true))) :
    needSlot i write body = i.fault C.regionInvalid (regionDetail (fRB i.insn) i.ga.toNat) := by
  rcases h with hnone | ⟨ri, r, p, hsome, hslot | ⟨rfl, hro⟩⟩
  · simp [needSlot, needRegion, hnone]
  · simp [needSlot, needRegion, hsome, hslot]
  · simp [needSlot, needRegion, hsome, hro]

/-- An instruction that names a region wrongly shows REGION_INVALID. -/
theorem region_faults {c : Instr} {write : Bool} {body : Nat → Nat → State} (h : Issues s cell w x)
    (hc : exec c s = done (needSlot (atIssue s x w) write body))
    (hr : Machine.regionPlace x.b x.idx (fRB w) = none ∨ ∃ ri r p, Machine.regionPlace x.b x.idx (fRB w) = some (ri, r, p) ∧
      (r.slots ≤ (getG x.st (fRA w)).toNat ∨ (write = true ∧ r.readOnly = true))) :
    ∃ t, exec c s = .next t ∧ FaultShown t cell x 0x0215 x.st.pc w
      (shownDetail x ((fRB w * 2 ^ 28 + (getG x.st (fRA w)).toNat % 2 ^ 28) % 2 ^ 32)) := by
  have hi := h.issueOf
  refine shown_of_fault h hc (code := C.regionInvalid) (by decide) (needSlot_faults ?_) (by rw [hi.insn, hi.ga, regionDetail_mod])
  rw [hi.insn, hi.ga, h.regionPlace]
  exact hr

/-! ### Completion in a block (R178) -/

/-- A block instruction that completes changes its station alone. -/
theorem blockFinish_only (h : OnCell s cell x) (o : BlockOp) (lat : Option Nat) :
    OnlyStation s (blockFinish s x o lat) x (if fOpc o.word = 0x51 then
      landAcc o.order o.acc { x.st with blockOps := x.st.blockOps.erase o }
      else landScratch o.order (putTile o.tdAddr o.tile) { x.st with blockOps := x.st.blockOps.erase o }) := by
  have hland := OnlyStation.start h (fun st =>
    if fOpc o.word == 0x51 then landAcc o.order o.acc { st with blockOps := st.blockOps.erase o }
    else landScratch o.order (putTile o.tdAddr o.tile) { st with blockOps := st.blockOps.erase o })
  simp only [beq_iff_eq] at hland
  unfold blockFinish
  simp only [beq_iff_eq]
  exact (((hland.arith _ _ _).bump _ _ _).bump _ _ _).bump _ _ _

end Sys2Proof.Machine

namespace Sys2Proof.Proofs
open Sys2Proof Sys2Proof.Machine

/-- Settles O17: the first handle that is not set, and a region that does not take the access. -/
theorem badOperandsFault : Obligations.BadOperandsFault := by
  refine ⟨?handles, ?regions⟩
  case handles =>
    intro s cell w x h needs
    have vec {opc : Nat} {c : Instr} (f64 : Bool) (hopc : opc = 0x58 ∨ opc = 0x59) (hc : exec c s = done (issue s cell w opc (vecBody f64))) :
        needs c opc (fRA w) := by
      refine unset_faults h (fRA_lt w) hc ?_ ?_ fun i hi hn ho => ?_
      · rcases hopc with rfl | rfl <;> rfl
      · omega
      · obtain ⟨o, hv⟩ := vopInfo_of_valid h.valid (ho ▸ hopc)
        exact vecBody_unset hi f64 hv hn
    refine ⟨?thdrR, ?thdrW, ?tcopy, ?tzero, ?cvt, ?mma, ?accrd, vec false (.inl rfl) rfl, vec true (.inr rfl) rfl⟩
    case thdrR => exact unset_faults h (fRA_lt w) rfl rfl (by decide) fun i hi hn _ => by rw [hi.insn, needHandle_unset hn]
    case thdrW => exact unset_faults h (fRD_lt w) rfl rfl (by decide) fun i hi hn _ => by rw [hi.insn, needHandle_unset hn]
    case tcopy => exact unset_faults h (fRA_lt w) rfl rfl (by decide) fun i hi hn _ => by rw [hi.insn, needHandles_unset hn]
    case tzero => exact unset_faults h (fRD_lt w) rfl rfl (by decide) fun i hi hn _ => by rw [hi.insn, needHandle_unset hn]
    case cvt => exact unset_faults h (fRA_lt w) rfl rfl (by decide) fun i hi hn _ => by rw [hi.insn, needHandles_unset hn]
    case mma => exact unset_faults h (fRA_lt w) rfl rfl (by decide) fun i hi hn _ => by rw [hi.insn, needHandles_unset hn]
    case accrd => exact unset_faults h (fRD_lt w) rfl rfl (by decide) fun i hi hn _ => by rw [hi.insn, needHandle_unset hn]
  case regions =>
    intro s cell w x hd h hset ga faults bad
    have hi := h.issueOf
    have hnh (k : Handle → State) : needHandle (atIssue s x w) (fRD (atIssue s x w).insn) k = k hd :=
      needHandle_set (by rw [hi.insn, hi.getT, hset]) k
    have region {c : Instr} {opc : Nat} {write : Bool} (hc : fOpc w = opc → (write = true → spillGate x = false) →
        ∃ body, exec c s = done (needSlot (atIssue s x w) write body)) : bad c opc write := fun ho hg =>
      have ⟨_, he⟩ := hc ho hg
      ⟨fun hn => region_faults h he (.inl hn), fun ri r p hp hbad => region_faults h he (.inr ⟨ri, r, p, hp, hbad⟩)⟩
    refine ⟨region fun ho _ => ⟨_, (exec_issue_eq h rfl ho rfl (by decide)).trans (congrArg done (hnh _))⟩, region fun ho hg => ?stash,
      region fun ho hg => ?radd⟩
    case stash =>
      have he : exec (.stash cell w) s = done _ := congrArg done (issueGated_eq h ho (fun e => absurd e (by decide)) (by decide) (hg rfl) _)
      exact ⟨_, he.trans (congrArg done (hnh _))⟩
    case radd =>
      have he : exec (.radd cell w) s = done _ := congrArg done (issueGated_eq h ho (fun e => absurd e (by decide)) (by decide) (hg rfl) _)
      exact ⟨_, he.trans (congrArg done (hnh _))⟩

/-- Settles O19: the oldest instruction of a block lands where its operation writes. -/
theorem blockResultsLand : Obligations.BlockResultsLand := by
  intro s cell lat tensor x o h ho st
  refine ⟨blockFinish s x o (some lat), ?_, blockFinish_only h o _⟩
  show execBlockInstructionComplete cell tensor lat s = _
  simp only [execBlockInstructionComplete, h.on, ho]
  rfl

end Sys2Proof.Proofs
end

section
/-!
SUPPORT. A bundle changed step by step (`OnlyBundle`), and a tile taken from an input end (R53, R159, R215).
-/
namespace Sys2Proof.Machine
open Sys2Proof

variable {s t : State} {cell : Nat} {w : Word} {x : Where} {slot : Nat} {b : Bundle} {st : Station}

/-! ### One bundle changed -/

theorem OnlyStation.onlyBundle (h : OnlyStation s t x st) : OnlyBundle s t x.slot (withStation x st) := h

theorem OnlyBundle.bundle (h : OnlyBundle s t slot b) : slotBundle t slot = some b := by
  obtain ⟨_, _, _, rfl⟩ := h
  exact SMap.find_insert_self _ _ _

theorem OnlyBundle.bump (h : OnlyBundle s t slot b) (ev : Nat) (c : EvCtx) (n : Nat) : OnlyBundle s (bumpEv t ev c n) slot b := by
  obtain ⟨_, _, _, rfl⟩ := h
  exact ⟨_, _, _, bumpEv_frame _ _ _ _⟩

theorem OnlyBundle.mod (h : OnlyBundle s t slot b) (f : Bundle → Bundle) : OnlyBundle s (modBundle t slot f) slot (f b) := by
  rw [modBundle_of h.bundle]
  obtain ⟨c, p, n, rfl⟩ := h
  exact ⟨c, p, n, by simp only [setSlot, SMap.insert_insert]⟩

theorem OnlyBundle.now (h : OnlyBundle s t slot b) : now t = now s := by
  obtain ⟨_, _, _, rfl⟩ := h
  rfl

/-- The bundle of a slot changed, nothing yet before. -/
theorem OnlyBundle.start (h : slotBundle s slot = some b) (f : Bundle → Bundle) : OnlyBundle s (modBundle s slot f) slot (f b) := by
  rw [modBundle_of h]
  exact ⟨s.counts, s.sampling, s.free, rfl⟩

theorem OnlyBundle.modStation {idx : Nat} (h : OnlyBundle s t slot b) (hst : b.stations[idx]? = some st) (f : Station → Station) :
    OnlyBundle s (modStation t slot idx f) slot { b with stations := b.stations.set idx (f st) } := by
  have hmod := h.mod (fun b => { b with stations := modAt b.stations idx f })
  rwa [modAt_of hst] at hmod

/-- A station with no fault deferred has none to settle. -/
theorem settleDeferred_of_none {idx : Nat} (hb : slotBundle t slot = some b) (hst : b.stations[idx]? = some st) (hd : st.deferred = []) :
    settleDeferred t slot idx = t := by
  cases hsr : b.img.stations[idx]? <;> simp [settleDeferred, whereAt, hb, hst, hsr, hd]

theorem stallCount_frame (s : State) (w : Where) : ∃ c p n, stallCount s w = { s with counts := c, sampling := p, free := n } := by
  unfold stallCount
  split
  · exact ⟨_, _, _, bumpEv_frame _ _ _ _⟩
  · exact ⟨_, _, _, bumpEv_frame _ _ _ _⟩
  · exact ⟨_, _, _, bumpEv_frame _ _ _ _⟩
  · exact ⟨s.counts, s.sampling, s.free, rfl⟩

theorem OnlyBundle.stallCount (h : OnlyBundle s t slot b) (w : Where) : OnlyBundle s (stallCount t w) slot b := by
  obtain ⟨c, p, n, he⟩ := stallCount_frame t w
  obtain ⟨_, _, _, rfl⟩ := h
  exact ⟨c, p, n, he⟩

/-- The end of a wait of a station with no fault deferred. -/
theorem OnlyBundle.endWait {w : Where} (h : OnlyBundle s t w.slot b) (hst : b.stations[w.idx]? = some st) {f : Station → Station}
    (hd : (f st).deferred = []) :
    OnlyBundle s (endWait t w f) w.slot { b with stations := b.stations.set w.idx (past { f st with waiting := .no }) } := by
  have hgo : OnlyBundle s (goOn (Machine.stallCount t w) w (fun st => { f st with waiting := .no })) w.slot _ :=
    (h.stallCount w).modStation hst _
  have hlt : w.idx < b.stations.length := (List.getElem?_eq_some_iff.1 hst).1
  rw [Machine.endWait, settleDeferred_of_none hgo.bundle (st := past { f st with waiting := .no })]
  · exact hgo
  · simp [past, hlt]
  · exact hd

/-- A wait of the instruction at issue begins. -/
theorem OnlyStation.startWait {i : Issue} (h : OnlyStation s i.s x st) (hi : x.idx < x.b.stations.length) (hs : i.w.slot = x.slot)
    (hx : i.w.idx = x.idx) (hw : i.insn = w) (k : Waiting) :
    OnlyStation s (startWait i k) x { st with waiting := k, waitInsn := w, waitSince := now s } := by
  rw [Machine.startWait, hs, hx, hw, h.onlyBundle.now]
  exact h.mod hi _

/-! ### Taking a tile -/

/-- The station of a tile's taking with the checkpoint that it needs, its end's checkpoints covering it, and the pages saved. -/
def takingCkpts (st : Station) (n : Nat) (ie : InEnd) (h : Handle) (t : Tile) : Station :=
  let st1 := if needsCkpt st n ie t then takeCkpt st n else st
  savePages (if hasCkpt st1 n then cover st1 n t.hdr.seq else st1) (pagesOf [.bytes h.addr slotBytes])

theorem length_savePages (st : Station) (pages : List Nat) : (savePages st pages).ckpts.length = st.ckpts.length := by simp [savePages]
theorem length_cover (st : Station) (n : Nat) (q : Word) : (cover st n q).ckpts.length = st.ckpts.length := by simp [cover]
theorem length_takeCkpt (st : Station) (n : Nat) : (takeCkpt st n).ckpts.length = st.ckpts.length + 1 := by simp [takeCkpt]

/-- A taking adds one checkpoint where it needs one. -/
theorem length_takingCkpts (st : Station) (n : Nat) (ie : InEnd) (h : Handle) (t : Tile) :
    (takingCkpts st n ie h t).ckpts.length = st.ckpts.length + b2n (needsCkpt st n ie t) := by
  have hcover (st1 : Station) : (if hasCkpt st1 n then cover st1 n t.hdr.seq else st1).ckpts.length = st1.ckpts.length := by
    split
    · exact length_cover _ _ _
    · rfl
  rw [takingCkpts, length_savePages, hcover]
  cases needsCkpt st n ie t
  · rfl
  · exact length_takeCkpt _ _

/-- The station after it took a tile: the checkpoints of the taking and the tile in its slot. -/
def afterTake (st k : Station) (h : Handle) (t : Tile) : Station :=
  { st with ckpts := k.ckpts, ckptNext := k.ckptNext, scratch := st.scratch.writeSlot h.addr t }

/-- The streams after the oldest tile of an end is taken by a station with the checkpoints of `k`. -/
def takenStreams (l : List Stream) (ie : InEnd) (k : Station) (t : Tile) : List Stream :=
  modAt l ie.si (fun y => { y with ends := modAt y.ends ie.ci (fun e => { e with queue := takeHead (k.ckpts.map (·.id)) t e.queue }) })

/-- A tile whose words need no correction is taken: its station's slot and its end change, nothing else. -/
theorem takeTile_only {v : Where} (h : ∀ f, OnlyStation s (Machine.modStation t x.slot x.idx f) x (f st)) (hs : v.slot = x.slot)
    (hx : v.idx = x.idx) (n : Nat) (ie : InEnd) (hd : Handle) {q : Tile} (hq : q.chk = []) (insn : Word) :
    OnlyBundle s (takeTile t v n ie hd q insn) x.slot
      { withStation x (afterTake st (takingCkpts v.st n ie hd q) hd q) with
        streams := takenStreams x.b.streams ie (takingCkpts v.st n ie hd q) q } := by
  have hcorr : correctedTile q = ⟨q, 0, 0⟩ := by simp [correctedTile, hq]
  unfold Machine.takeTile
  simp only [hcorr, scratchFound, if_true, hs, hx]
  exact (((h (fun st => afterTake st (takingCkpts v.st n ie hd q) hd q)).onlyBundle.mod _).bump _ _ _).bump _ _ _

theorem inEnd_withStation (x : Where) (st : Station) : inEnd (withStation x st) = inEnd x.b := rfl

/-! ### COLLECT and TRYCOLLECT at issue -/

/-- What the body of COLLECT or TRYCOLLECT is given: no page saved yet, for it sees to its own. -/
def atTake (s : State) (x : Where) (w : Word) : Issue := savePagesAt (begin_ s x w (scanned x.st w)) []

/-- The station as the body of a COLLECT sees it. -/
def takerSt (st : Station) : Station := { st with blockedSince := none, waiting := .no }

theorem savePages_nil (st : Station) : savePages st [] = st := by
  simp [savePages]

theorem newPages_nil (st : Station) : newPages st [] = 0 := by
  simp [newPages, ← List.sum_eq_foldl]

theorem Issues.takeBegun (h : Issues s cell w x) : OnlyStation s (atTake s x w).s x (counted x) ∧
    (atTake s x w).w = { x with st := takerSt x.st, b := withStation x (takerSt x.st) } ∧ (atTake s x w).insn = w := by
  obtain ⟨h1, h2, h3, h4⟩ := begin_of h rfl
  obtain ⟨g1, g2, g3, -⟩ := savePagesAt_of [] h1 h.at_.on.lt (by rw [h2]) (by rw [h2]) (by rw [h2]; rfl)
  have hnil : pagesOf [] = [] := rfl
  rw [hnil, savePages_nil] at g1 g2
  exact ⟨g1, g2.trans h2, g3.trans h3⟩

/-- COLLECT or TRYCOLLECT that no resource holds back runs its body. -/
theorem issueGated_take (h : Issues s cell w x) {opc : Nat} (ho : fOpc w = opc) (hk : opc = 0x28 ∨ opc = 0x2A) {gate : Where → Bool}
    (hg : gate x = false) (body : Issue → State) : issueGated s cell w opc gate body = body (atTake s x w) := by
  have hroom : ¬ 64 < savedPages x.st + newPages x.st (pagesOf []) := by
    have hle := h.room
    have hnil : newPages x.st (pagesOf []) = 0 := newPages_nil x.st
    omega
  have htally : isTallyOp opc = false := by rcases hk with rfl | rfl <;> rfl
  unfold issueGated
  simp [h.at_.on.on, h.mayIssue, h.at_.word, h.at_.settled, ho, h.valid, h.free, h.inside, h.guard, htally, hk, hroom, hg, atTake]

theorem Issues.takeIssueAt (h : Issues s cell w x) : IssueAt s cell x w (atTake s x w) := by
  obtain ⟨honly, hw, hinsn⟩ := h.takeBegun
  refine ⟨⟨_, honly⟩, by rw [hw], by rw [hw], ?_, by rw [hw]; rfl, by rw [hw], by rw [hw]; rfl, by rw [hw]; rfl, hinsn⟩
  rw [hw, cellNo, show (takerSt x.st).cell = some cell from h.at_.on.placed]
  rfl

/-- What COLLECT and TRYCOLLECT do: a broken end faults, an empty one leaves `empty`, and the oldest tile is taken, `f` done as PC moves
on (R53, R55, R159). -/
def takeFrom (i : Issue) (empty : State) (f : Station → Station) : State :=
  needHandle i (fRD i.insn) (fun h =>
    match inEnd i.w.b i.w.idx (fRA i.insn) with
    | none => i.fault C.endInvalid (fRA i.insn)
    | some ie =>
      if ie.e.broken then i.fault C.streamGap 0
      else match headTile ie.e with
        | none => empty
        | some t => goOn (Machine.takeTile i.s i.w (fRA i.insn) ie h t i.insn) i.w f)

theorem exec_collect (s : State) (cell : Nat) (w : Word) : exec (.collect cell w) s =
    done (issueGated s cell w 0x28 (takeGate w) (fun i => takeFrom i (startWait i (.collect (fRA i.insn))) id)) := rfl

theorem exec_trycollect (s : State) (cell : Nat) (w : Word) : exec (.trycollect cell w) s =
    done (issueGated s cell w 0x2A (takeGate w) (fun i =>
      takeFrom i (goOn i.s i.w (fun st => setP st (fRB i.insn) false)) (fun st => setP st (fRB i.insn) true))) := rfl

/-- The end and the slot of a taker at issue are those of its station. -/
theorem takeFrom_eq (h : Issues s cell w x) {hd : Handle} {ie : InEnd} (hset : getT x.st (fRD w) = some hd)
    (hend : inEnd x.b x.idx (fRA w) = some ie) (empty : State) (f : Station → Station) :
    takeFrom (atTake s x w) empty f = (if ie.e.broken then (atTake s x w).fault C.streamGap 0
      else match headTile ie.e with
        | none => empty
        | some t => goOn (Machine.takeTile (atTake s x w).s (atTake s x w).w (fRA w) ie hd t w) (atTake s x w).w f) := by
  obtain ⟨-, hw, hinsn⟩ := h.takeBegun
  have hhandle : getT (atTake s x w).w.st (fRD w) = some hd := by rw [hw]; exact hset
  have hin : inEnd (atTake s x w).w.b (atTake s x w).w.idx (fRA w) = some ie := by rw [hw]; exact hend
  rw [takeFrom, hinsn, needHandle_set hhandle, hin]

/-- The oldest tile is taken from an end that is not broken. -/
theorem takeFrom_takes (h : Issues s cell w x) {hd : Handle} {ie : InEnd} (hset : getT x.st (fRD w) = some hd)
    (hend : inEnd x.b x.idx (fRA w) = some ie) (hb : ie.e.broken = false) {q : Tile} (hq : headTile ie.e = some q) (hc : q.chk = [])
    (empty : State) (f : Station → Station) :
    OnlyBundle s (takeFrom (atTake s x w) empty f) x.slot
      { withStation x (past (f (afterTake (counted x) (takingCkpts (takerSt x.st) (fRA w) ie hd q) hd q))) with
        streams := takenStreams x.b.streams ie (takingCkpts (takerSt x.st) (fRA w) ie hd q) q } := by
  obtain ⟨honly, hw, -⟩ := h.takeBegun
  rw [takeFrom_eq h hset hend, hb, hq]
  have htaken := takeTile_only (honly.mod h.at_.on.lt) (v := (atTake s x w).w) (by rw [hw]) (by rw [hw]) (fRA w) ie hd hc w
  rw [show (atTake s x w).w.st = takerSt x.st by rw [hw]] at htaken
  have hgo := htaken.modStation (idx := x.idx) (st := afterTake (counted x) (takingCkpts (takerSt x.st) (fRA w) ie hd q) hd q)
    (by simp [withStation, h.at_.on.lt]) (fun st => past (f st))
  simp only [withStation, List.set_set] at hgo
  simp only [Bool.false_eq_true, if_false, goOn]
  rw [show (atTake s x w).w.slot = x.slot by rw [hw], show (atTake s x w).w.idx = x.idx by rw [hw]]
  exact hgo

end Sys2Proof.Machine

namespace Sys2Proof.Proofs
open Sys2Proof Sys2Proof.Machine

/-- Settles O20: an end with a tile, an empty end and a broken one, for COLLECT, for TRYCOLLECT and for the COLLECT that waits. -/
theorem collectTakesTheOldestTile : Obligations.CollectTakesTheOldestTile := by
  refine ⟨?issue, ?arrived⟩
  case issue =>
    intro s cell w x hd ie h hset hend takes breaks
    obtain ⟨honly, hw, hinsn⟩ := h.takeBegun
    have hgate : headTile ie.e = none → takeGate w x = false := fun hn => by simp [takeGate, hend, hset, hn]
    have htakes {c : Instr} {f : Station → Station} {empty : State}
        (hc : takeGate w x = false → exec c s = done (takeFrom (atTake s x w) empty f)) : takes c f := fun q hq hchk hg hb =>
      ⟨_, _, hc hg, takeFrom_takes h hset hend hb hq hchk empty f, rfl, length_takingCkpts _ _ _ _ _⟩
    have hbreaks {c : Instr} {f : Station → Station} {empty : State}
        (hc : takeGate w x = false → exec c s = done (takeFrom (atTake s x w) empty f)) : breaks c := fun hb hg =>
      ⟨_, by rw [hc hg, takeFrom_eq h hset hend, hb]; rfl, h.takeIssueAt.fault_shown h.at_.on.lt (by decide) 0⟩
    have hempty {c : Instr} {f : Station → Station} {empty : State} {st : Station} (hn : headTile ie.e = none) (hb : ie.e.broken = false)
        (hc : takeGate w x = false → exec c s = done (takeFrom (atTake s x w) empty f)) (he : OnlyStation s empty x st) :
        StationResult c s x st :=
      ⟨_, by rw [hc (hgate hn), takeFrom_eq h hset hend, hb, hn]; rfl, he⟩
    refine ⟨fun ho => ?collect, fun ho => ?trycollect⟩
    case collect =>
      have hc (hg : takeGate w x = false) := (exec_collect s cell w).trans (congrArg done (issueGated_take h ho (.inl rfl) hg _))
      refine ⟨htakes hc, hbreaks hc, fun hn hb => hempty hn hb hc ?_⟩
      rw [hinsn]
      exact honly.startWait h.at_.on.lt (by rw [hw]) (by rw [hw]) hinsn _
    case trycollect =>
      have hc (hg : takeGate w x = false) := (exec_trycollect s cell w).trans (congrArg done (issueGated_take h ho (.inr rfl) hg _))
      rw [hinsn] at hc
      refine ⟨htakes hc, hbreaks hc, fun hn hb => hempty hn hb hc ?_⟩
      exact honly.goOn h.at_.on.lt (by rw [hw]) (by rw [hw]) _
  case arrived =>
    intro s cell n x hd ie q h hrun hwait hdef hset hend hq hchk hroom
    have htaken := takeTile_only (v := x) (OnlyStation.start h) rfl rfl n ie hd hchk x.st.waitInsn
    have hexec : exec (.collectTileArrived cell) s = done (endWait (takeTile s x n ie hd q x.st.waitInsn) x id) := by
      show execCollectTileArrived cell s = _
      simp [execCollectTileArrived, h.on, hrun, hwait, hset, hend, hq, hroom]
    refine ⟨_, afterTake x.st (takingCkpts x.st n ie hd q) hd q, hexec, ?_, rfl⟩
    have hend := htaken.endWait (w := x) (st := afterTake x.st (takingCkpts x.st n ie hd q) hd q) (f := id)
      (by simp [withStation, h.lt]) hdef
    simp only [withStation, List.set_set] at hend
    exact hend

end Sys2Proof.Proofs
end

section
/-!
SUPPORT. Control and status of ends (R147, R159, R237), and the stall limit of a wait (R54).
-/
namespace Sys2Proof.Machine
open Sys2Proof

variable {s t : State} {cell : Nat} {w : Word} {x : Where} {i : Issue}

/-! ### The control words of a station -/

/-- A list of runs of four bytes, read at one of them. -/
theorem getElem?_flatMap_four {f : Nat → List Byte} (hf : ∀ n, (f n).length = 4) {k n j : Nat} (hn : n < k) (hj : j < 4) :
    ((List.range k).flatMap f)[4 * n + j]? = (f n)[j]? := by
  have hlen (k : Nat) : ((List.range k).flatMap f).length = 4 * k := by simp [List.length_flatMap, hf, Nat.mul_comm]
  induction k with
  | zero => omega
  | succ k ih =>
    rw [List.range_succ, List.flatMap_append, List.flatMap_singleton]
    rcases Nat.lt_succ_iff_lt_or_eq.1 hn with hlt | rfl
    · rw [List.getElem?_append_left (by rw [hlen]; omega), ih hlt]
    · rw [List.getElem?_append_right (by rw [hlen]; omega), hlen, Nat.add_sub_cancel_left]

/-- A control word as the control memory holds it. -/
theorem read_ctlMem (st : Station) {n : Nat} (hn : n < 16) : leNat ((ctlMem st).read (4 * n) 4) = (endCtl st n).toNat := by
  have hread : (ctlMem st).read (4 * n) 4 = leBytes 4 (endCtl st n).toNat := by
    refine List.ext_getElem (by simp) fun j hj _ => ?_
    have hj4 : j < 4 := by simpa using hj
    have hlen : ((List.range 16).flatMap fun n => leBytes 4 (endCtl st n).toNat).length = 64 := by
      simp [List.length_flatMap]
    have hbyte : (ctlMem st).byte (4 * n + j) = (Mem.wiped.putBytes 0 ((List.range 16).flatMap fun n => leBytes 4 (endCtl st n).toNat)).byte (4 * n + j) := rfl
    rw [Mem.getElem_read, hbyte, Mem.byte_putBytes, if_pos (by omega), Nat.sub_zero,
      getElem?_flatMap_four (fun n => length_leBytes 4 _) hn hj4, List.getElem?_eq_getElem (by simpa using hj4)]
    rfl
  rw [hread, leNat_leBytes]
  exact Nat.mod_eq_of_lt (endCtl st n).isLt

theorem getD_foldl_setD {f : Nat → Word} {l : List Nat} {n : Nat} (hn : n ∈ l) (c : SMap Word) :
    SMap.getD (l.foldl (fun c n => SMap.setD c n (f n) 0#32) c) n 0#32 = f n := by
  induction l using List.reverseRecOn with
  | nil => simp at hn
  | append_singleton l k ih =>
    rw [List.foldl_concat, SMap.getD_setD]
    split
    · rename_i he; rw [he]
    · rename_i hne
      exact ih (by simpa [hne] using hn)

/-- Storing the control memory back leaves every control word as it was. -/
theorem endCtl_setCtlMem (st st' : Station) {n : Nat} (hn : n < 16) : endCtl (setCtlMem st (ctlMem st')) n = endCtl st' n := by
  rw [endCtl, setCtlMem, getD_foldl_setD (List.mem_range.2 hn), read_ctlMem st' hn, BitVec.ofNat_toNat, BitVec.setWidth_eq]

theorem Mem.scrub_of_chk_nil {m : Mem} (h : m.chk = []) (a n : Nat) : m.scrub a n = ⟨m, 0, 0⟩ := by
  simp [Mem.scrub, Mem.correct_eq, h]

theorem outEnd_withStation (x : Where) (st : Station) : outEnd (withStation x st) = outEnd x.b := rfl

/-- A station with one control word written, the others stored back as a store smaller than a word finds them (R237). -/
def writeCtl (m : Mem) (n : Nat) (v : Word) (st : Station) : Station :=
  { setCtlMem st m with endCtl := SMap.setD (setCtlMem st m).endCtl n v 0#32 }

theorem endCtl_writeCtl (st st' : Station) (k : Nat) (v : Word) {n : Nat} (hn : n < 16) :
    endCtl (writeCtl (ctlMem st') k v st) n = if n = k then v else endCtl st' n := by
  rw [endCtl, writeCtl, SMap.getD_setD]
  split
  · rfl
  · exact endCtl_setCtlMem st st' hn

theorem endctl_exec (h : Issues s cell w x) (ho : fOpc w = 0x2B) : exec (.endctl cell w) s =
    done (if (Machine.outEnd x.b x.idx (fRD w)).isNone ∨ 2 ≤ (getG x.st (fRA w)).toNat % 2 ^ 32 then (atIssue s x w).fault C.endInvalid (fRD w)
      else
        let r := (ctlMem x.st).scrub (4 * fRD w) 4
        scratchFound (goOn (atIssue s x w).s (atIssue s x w).w (writeCtl r.mem (fRD w) (BitVec.ofNat 32 ((getG x.st (fRA w)).toNat % 2 ^ 32))))
          (cellNo (atIssue s x w).w.st) (ctxOf (atIssue s x w).w (atIssue s x w).w.st.pc w none) r.ce r.ue) := by
  have hi := h.issueOf
  have hmem : ctlMem (atIssue s x w).w.st = ctlMem x.st := by rw [hi.st]; rfl
  have hexec : exec (.endctl cell w) s = done _ := exec_issue_eq h rfl ho rfl (by decide)
  rw [hexec]
  simp only [hi.insn, hi.idx, hi.ga, h.bundle, outEnd_withStation, hmem] <;> rfl

/-- The control word of an output end is written. -/
theorem endctl_stationResult (h : Issues s cell w x) (ho : fOpc w = 0x2B) (hend : (Machine.outEnd x.b x.idx (fRD w)).isSome = true)
    (hv : (getG x.st (fRA w)).toNat % 2 ^ 32 < 2) (hchk : x.st.endChk = []) :
    StationResult (.endctl cell w) s x (past { issued x w with
      endCtl := (writeCtl (ctlMem x.st) (fRD w) (BitVec.ofNat 32 ((getG x.st (fRA w)).toNat % 2 ^ 32)) (issued x w)).endCtl }) := by
  have hnot : ¬ ((Machine.outEnd x.b x.idx (fRD w)).isNone = true ∨ 2 ≤ (getG x.st (fRA w)).toNat % 2 ^ 32) := by
    rintro (hn | h2)
    · rw [Option.isNone_iff_eq_none] at hn
      simp [hn] at hend
    · omega
  have hexec := endctl_exec h ho
  rw [if_neg hnot, Mem.scrub_of_chk_nil (m := ctlMem x.st) hchk] at hexec
  simp only [scratchFound, if_true] at hexec
  exact stationResult_of_only hexec (h.issueOf.goOn h.at_.on.lt _)

/-! ### ENDSTAT -/

theorem endstat_exec (h : Issues s cell w x) (ho : fOpc w = 0x2C) : exec (.endstat cell w) s =
    done (if fRA w < 16 then
        (match Machine.inEnd x.b x.idx (fRA w) with
          | none => (atIssue s x w).fault C.endInvalid (fRA w)
          | some ie => setGd (atIssue s x w) (BitVec.ofNat 64 (queued ie.e)))
      else match Machine.outEnd x.b x.idx (fRA w - 16) with
        | none => (atIssue s x w).fault C.endInvalid (fRA w)
        | some (_, r, y) =>
          if (r.kind = 3 ∧ collFree y (CollParam.parse r.param) = false) ∨ (specOf x.b.img x.idx ≠ 0 ∧ 8 ≤ y.prov.length) then
            setGd (atIssue s x w) 0#64
          else setGd { (atIssue s x w) with s := (takeFree (atIssue s x w).s).2 } ((takeFree (atIssue s x w).s).1 &&& 1#64)) := by
  have hi := h.issueOf
  have hexec : exec (.endstat cell w) s = done _ := exec_issue_eq h rfl ho rfl (by decide)
  rw [hexec]
  simp only [hi.insn, hi.idx, h.bundle, inEnd_withStation, outEnd_withStation] <;> rfl

theorem OnlyStation.takeFree {st : Station} (h : OnlyStation s t x st) : OnlyStation s (takeFree t).2 x st := by
  obtain ⟨c, p, n, rfl⟩ := h
  exact ⟨c, p, n + 1, rfl⟩

theorem IssueOf.setGd (hi : IssueOf s x w i) (hl : x.idx < x.b.stations.length) (v : DWord) :
    OnlyStation s (setGd i v) x (past (setG (issued x w) (fRD w) v)) := by
  have hgo := hi.goOn hl (fun st => setG st (fRD i.insn) v)
  simp only [hi.insn] at hgo
  rw [Machine.setGd, hi.insn]
  exact hgo

/-- An open value read of the traffic is one bit. -/
theorem IssueOf.setGd_free (hi : IssueOf s x w i) (hl : x.idx < x.b.stations.length) (v : DWord) :
    OnlyStation s (Machine.setGd { i with s := (Machine.takeFree i.s).2 } v) x (past (setG (issued x w) (fRD w) v)) :=
  have hfree : IssueOf s x w { i with s := (Machine.takeFree i.s).2 } :=
    ⟨hi.only.takeFree, hi.slot, hi.idx, hi.sr, hi.img, hi.st, hi.insn, hi.bad⟩
  hfree.setGd hl v

theorem toNat_and_one_le (v : DWord) : (v &&& 1#64).toNat ≤ 1 := by
  rw [BitVec.toNat_and]
  exact Nat.and_le_right

/-! ### The stall limit -/

theorem streamStallLimit_exec (h : OnCell s cell x) (hw : x.st.waiting ≠ .no) {r : StreamRec} {limit e : Nat}
    (he : stallEnd x = some (r, limit, e)) : exec (.streamStallLimit cell) s =
      done (if limit = 0 ∨ x.st.stallReported = true then s
        else report (modStation s x.slot x.idx (fun st => { st with stallReported := true })) C.streamStalled (srcCell cell) x.handle
          (dName x.sr.name ++ d4 r.id ++ d4 e)) := by
  show execStreamStallLimit cell s = _
  simp [execStreamStallLimit, h.on, hw, he]

theorem modStation_of_onCell (h : OnCell s cell x) (f : Station → Station) :
    modStation s x.slot x.idx f = { s with pl := { s.pl with slots := SMap.insert s.pl.slots x.slot (withStation x (f x.st)) } } := by
  rw [modStation, modBundle_of h.slot, modAt_of h.station]
  rfl

end Sys2Proof.Machine

namespace Sys2Proof.Proofs
open Sys2Proof Sys2Proof.Machine

/-- Settles O22: ENDCTL and ENDSTAT by their end, and the report of a stall. -/
theorem endControlStatusAndStalls : Obligations.EndControlStatusAndStalls := by
  refine ⟨?ends, ?stall⟩
  case ends =>
    intro s cell w x h invalid v
    have hi := h.issueOf
    have hl := h.at_.on.lt
    have hinvalid {c : Instr} {n : Nat} (hn : n < 32) (hc : exec c s = done ((atIssue s x w).fault C.endInvalid n)) : invalid c n :=
      shown_of_fault h hc (by decide) rfl (Nat.mod_eq_of_lt (by omega))
    refine ⟨fun ho => ⟨fun hend hv hchk => ?write, fun hbad => ?refused⟩, fun ho => ⟨fun hra hn => ?noInput, fun hra hn => ?noOutput⟩,
      fun ie ho hra hend => ?input, fun si r y ho hra hend => ?output⟩
    case write =>
      refine ⟨_, endctl_stationResult h ho hend hv hchk, fun n hn => endCtl_writeCtl _ _ _ _ hn⟩
    case refused =>
      refine hinvalid (fRD_lt w) ?_
      rw [endctl_exec h ho, if_pos (hbad.imp_left (by rintro hn; simp [hn]))]
    case noInput => exact hinvalid (fRA_lt w) (by rw [endstat_exec h ho, if_pos hra, hn])
    case noOutput => exact hinvalid (fRA_lt w) (by rw [endstat_exec h ho, if_neg (by omega), hn])
    case input => exact stationResult_of_only (by rw [endstat_exec h ho, if_pos hra, hend]) (hi.setGd hl _)
    case output =>
      intro holds
      have hexec := endstat_exec h ho
      rw [if_neg (by omega), hend] at hexec
      by_cases hh : holds
      · exact ⟨0, stationResult_of_only (hexec.trans (congrArg done (if_pos hh))) (hi.setGd hl _), fun _ => rfl, by decide⟩
      · exact ⟨_, stationResult_of_only (hexec.trans (congrArg done (if_neg hh))) (hi.setGd_free hl _), fun k => absurd k hh,
          toNat_and_one_le _⟩
  case stall =>
    intro s cell x r limit e h hw he
    refine ⟨fun hno => ?_, fun hl hr => ?_⟩
    · rw [streamStallLimit_exec h hw he, if_pos hno]
      rfl
    · rw [streamStallLimit_exec h hw he, if_neg (by simp [hl, hr]), modStation_of_onCell h]
      rfl

end Sys2Proof.Proofs
end

section
/-!
SUPPORT. Fences, time and counters (R154, R162, R507 to R509), and stations that stop at drain points and halt (R94, R165, R167).
-/
namespace Sys2Proof.Machine
open Sys2Proof

variable {s t : State} {cell slot : Nat} {w : Word} {x : Where} {st : Station} {b : Bundle} {i : Issue}

/-! ### Waits that end -/

theorem OnCell.frame (h : OnCell s cell x) (c : SMap Count) (p : Sampling) (n : Nat) :
    OnCell { s with counts := c, sampling := p, free := n } cell x := ⟨h.on, h.slot, h.station, h.record, h.placed⟩

/-- The end of a wait before which nothing else changes. -/
theorem OnCell.endWait (h : OnCell s cell x) {f : Station → Station} (hd : (f x.st).deferred = []) :
    OnlyStation s (endWait s x f) x (past { f x.st with waiting := .no }) := by
  obtain ⟨c, p, n, hs⟩ := stallCount_frame s x
  have hgo : OnlyStation s (goOn (Machine.stallCount s x) x (fun st => { f st with waiting := .no })) x (past { f x.st with waiting := .no }) := by
    rw [hs, goOn]
    exact OnlyStation.start (h.frame c p n) _
  rw [Machine.endWait, settleDeferred_of_none hgo.bundle (st := past { f x.st with waiting := .no }) (by simp [withStation, h.lt]) hd]
  exact hgo

/-! ### Time and counters -/

theorem OnlyStation.stampValue (h : OnlyStation s t x st) (fn : Nat) : stampValue t fn = stampValue s fn := by
  obtain ⟨_, _, _, rfl⟩ := h
  rfl

theorem OnlyStation.timeReached (h : OnlyStation s t x st) (v : DWord) : timeReached t v = timeReached s v := by
  rw [Machine.timeReached, h.onlyBundle.now, Machine.timeReached]

/-- The time that STAMP reads in form 3, said of any number equal to it: module time is too large a number to compute with. -/
theorem stampValue_time {fn v : Nat} (hf : fn = 3) (hv : now s % 2 ^ 64 = v) : Machine.stampValue s fn = v := by
  unfold Machine.stampValue
  split
  case h_4 => exact hv
  case h_5 hne => exact absurd hf hne
  all_goals omega

/-- The fraction that STAMP reads in form 2. -/
theorem stampValue_frac {fn v : Nat} (hf : fn = 2) (hv : s.tb.frac / 2 ^ 16 = v) : Machine.stampValue s fn = v := by
  subst hf hv
  rfl

theorem stamp_stationResult (h : Issues s cell w x) (ho : fOpc w = 0x41) :
    StationResult (.stamp cell w) s x (past (setG (issued x w) (fRD w) (BitVec.ofNat 64 (stampValue s (fFN w))))) := by
  refine stationResult_of_setGd h rfl ho rfl (by decide) fun i hi => ?_
  rw [hi.insn, hi.only.stampValue]

theorem waitt_exec (h : Issues s cell w x) (ho : fOpc w = 0x43) : exec (.waitt cell w) s =
    done (if timeReached s (getG x.st (fRA w)) then goOn (atIssue s x w).s (atIssue s x w).w id
      else startWait (atIssue s x w) (.time (getG x.st (fRA w)))) := by
  have hi := h.issueOf
  have hexec : exec (.waitt cell w) s = done _ := exec_issue_eq h rfl ho rfl (by decide)
  rw [hexec, hi.ga, hi.only.timeReached]

theorem sfence_exec (h : Issues s cell w x) (ho : fOpc w = 0x35) : exec (.sfence cell w) s =
    done (if writesPending x.st then startWait (atIssue s x w) .fence else goOn (atIssue s x w).s (atIssue s x w).w id) := by
  have hexec : exec (.sfence cell w) s = done _ := exec_issue_eq h rfl ho rfl (by decide)
  rw [hexec, h.issueOf.st]
  rfl

theorem IssueOf.startWait (hi : IssueOf s x w i) (hl : x.idx < x.b.stations.length) (k : Waiting) :
    OnlyStation s (startWait i k) x { issued x w with waiting := k, waitInsn := w, waitSince := now s } :=
  hi.only.startWait hl hi.slot hi.idx hi.insn k

/-- A bundle's cells are those before one of its stations changed on its cell. -/
theorem any_cell_withStation (hx : x.b.stations[x.idx]? = some x.st) (hc : st.cell = x.st.cell) (n : Nat) :
    (withStation x st).stations.any (fun y => y.cell == some n) = x.b.stations.any (fun y => y.cell == some n) := by
  have hcells : (x.b.stations.set x.idx st).map (·.cell) = x.b.stations.map (·.cell) := by
    obtain ⟨hlt, he⟩ := List.getElem?_eq_some_iff.1 hx
    rw [List.map_set, hc, ← he, ← List.map_set, List.set_getElem_self]
  have hany := congrArg (fun l : List (Option Nat) => l.any (· == some n)) hcells
  simp only [List.any_map] at hany
  exact hany

/-- Which counter a station's CTR reads depends on its bundle's options and cells alone. -/
theorem Issues.ctrEvent (h : Issues s cell w x) (ev : Nat) :
    ctrEvent (atIssue s x w).s (atIssue s x w).w ev = ctrEvent s x ev := by
  obtain ⟨honly, hw, -⟩ := h.begun
  have hident : (atIssue s x w).s.ident = s.ident := by
    obtain ⟨_, _, _, he⟩ := honly
    rw [he]
  rw [hw]
  simp only [Machine.ctrEvent, hident]
  have hcells := any_cell_withStation (st := { x.st with blockedSince := none, waiting := .no }) h.at_.on.station rfl
  simp only [hcells]
  rfl

theorem ctr_exec (h : Issues s cell w x) (ho : fOpc w = 0x42) : exec (.ctr cell w) s =
    done (match Machine.ctrEvent s x ((getG x.st (fRA w)).toNat % 2 ^ 32) with
      | none => (atIssue s x w).fault C.counterInvalid ((getG x.st (fRA w)).toNat % 2 ^ 32)
      | some e => setGd (atIssue s x w)
          (BitVec.ofNat 64 ((countOf (atIssue s x w).s e).value + b2n (countOf (atIssue s x w).s e).wrap * 2 ^ 63))) := by
  have hexec : exec (.ctr cell w) s = done _ := exec_issue_eq h rfl ho rfl (by decide)
  rw [hexec, h.issueOf.ga]
  simp only [h.ctrEvent] <;> rfl

theorem countOf_setGd (i : Issue) (v : DWord) (e : Nat) : countOf (setGd i v) e = countOf i.s e := by
  simp [countOf, setGd, goOn, modStation]

theorem ctr_stationResult (h : Issues s cell w x) (ho : fOpc w = 0x42) {e : Nat}
    (he : Machine.ctrEvent s x ((getG x.st (fRA w)).toNat % 2 ^ 32) = some e) : ∃ t, exec (.ctr cell w) s = .next t ∧
      OnlyStation s t x (past (setG (issued x w) (fRD w) (BitVec.ofNat 64 ((countOf t e).value + b2n (countOf t e).wrap * 2 ^ 63)))) := by
  have hexec := ctr_exec h ho
  rw [he] at hexec
  refine ⟨_, hexec, ?_⟩
  rw [countOf_setGd]
  exact h.issueOf.setGd h.at_.on.lt _

theorem ctr_faults (h : Issues s cell w x) (ho : fOpc w = 0x42) {ev : Nat} (hv : ev = (getG x.st (fRA w)).toNat % 2 ^ 32)
    (he : Machine.ctrEvent s x ev = none) :
    ∃ t, exec (.ctr cell w) s = .next t ∧ FaultShown t cell x 0x0217 x.st.pc w (shownDetail x ev) := by
  subst hv
  have hexec := ctr_exec h ho
  rw [he] at hexec
  exact shown_of_fault h hexec (code := C.counterInvalid) (by decide) rfl (Nat.mod_mod _ _)

/-! ### Drain points and halts (R94, R165, R167) -/

/-- Where no station waits to move, none is moved. -/
theorem relocateAll_of_none (hb : slotBundle t slot = some b) (hr : ∀ st ∈ b.stations, st.relocating = false) : relocateAll t slot = t := by
  have hone (i : Nat) : (match whereAt t slot i with
      | some w => if w.st.relocating && movable w.st then relocate t slot i else t
      | none => t) = t := by
    cases hst : b.stations[i]? with
    | none => simp [whereAt, hb, hst]
    | some st =>
      have hno := hr st (List.mem_of_getElem? hst)
      cases hsr : b.img.stations[i]? <;> simp [whereAt, hb, hst, hsr, hno]
  rw [relocateAll, hb]
  dsimp only
  split
  · rfl
  · exact List.foldl_fixed' hone _

/-- What a station does at a DRAIN that nothing holds up: it stops where it is asked to and holds no checkpoint. -/
def drained (st : Station) : Station :=
  if st.drainReq = true ∧ st.ckpts = [] then past { st with run := .drained, waiting := .no } else past { st with waiting := .no }

/-- A DRAIN with nothing before it, in a bundle none of whose stations waits to move. -/
theorem drainPoint_only (hat : ∃ v, whereAt t x.slot x.idx = some v ∧ v.st = st)
    (hmod : ∀ f, OnlyStation s (modStation t x.slot x.idx f) x (f st)) (hr : ∀ y ∈ x.b.stations, y.relocating = false)
    (hst : st.relocating = false) : OnlyStation s (drainPoint t x.slot x.idx) x (drained st) := by
  obtain ⟨v, hv, rfl⟩ := hat
  rw [drainPoint, hv, drained]
  by_cases hd : v.st.drainReq = true ∧ v.st.ckpts = []
  · have honly := hmod (fun st => past { st with run := .drained, waiting := .no })
    have hstay := relocateAll_of_none honly.bundle fun y hy => by
      rcases List.mem_or_eq_of_mem_set hy with hy | rfl
      · exact hr y hy
      · exact hst
    have hyes : ((v.st.drainReq || v.st.relocating) && v.st.ckpts.isEmpty) = true := by simp [hd.1, hd.2]
    rw [if_pos hd]
    simp only [hyes, if_true]
    rw [← hstay] at honly
    exact honly
  · have hno : ((v.st.drainReq || v.st.relocating) && v.st.ckpts.isEmpty) = false := by
      rw [hst]
      simpa using hd
    simp only [hno, Bool.false_eq_true, if_false, if_neg hd]
    exact hmod _

@[simp] theorem slotBundle_report (s : State) (c src hd : Nat) (d : List Byte) (n : Nat) :
    slotBundle (report s c src hd d) n = slotBundle s n := by
  rw [slotBundle, report_pl, slotBundle]

/-- A station stopped for good. -/
def halted (st : Station) : Station := { st with run := .halted, waiting := .no }

theorem OnlyStation.active (h : OnlyStation s t x st) : t.active = s.active := by
  obtain ⟨_, _, _, rfl⟩ := h
  rfl

theorem OnlyStation.whereAt (h : OnCell s cell x) (ho : OnlyStation s t x st) :
    whereAt t x.slot x.idx = some ⟨x.slot, x.idx, withStation x st, st, x.sr⟩ := by
  have hl := h.lt
  have hrec := h.record
  simp [Machine.whereAt, ho.bundle, withStation, hl, hrec]

theorem OnCell.whereAt (h : OnCell s cell x) : whereAt s x.slot x.idx = some x := by
  simp [Machine.whereAt, h.slot, h.station, h.record]

/-- The bundle after one of its stations halted, its halt reported once all have. -/
theorem haltPoint_bundle (h : OnCell s cell x) (hmod : ∀ f, OnlyStation s (modStation t x.slot x.idx f) x (f st))
    (hr : ∀ y ∈ x.b.stations, y.relocating = false) (hst : st.relocating = false) :
    ∃ b, slotBundle (haltPoint t x.slot x.idx) x.slot = some b ∧
      b = { withStation x (halted st) with haltReported := b.haltReported } ∧
      ((∀ y ∈ b.stations, y.run = .halted) → x.b.haltReported = false → b.haltReported = true ∧
        ∃ u, haltPoint t x.slot x.idx = report u 0x021B (srcActive s) x.handle []) := by
  have honly := hmod halted
  have hstay {u : State} {b : Bundle} (hb : slotBundle u x.slot = some b) (hs : b.stations = (withStation x (halted st)).stations) :
      relocateAll u x.slot = u := relocateAll_of_none hb fun y hy => by
    rw [hs] at hy
    rcases List.mem_or_eq_of_mem_set hy with hy | rfl
    · exact hr y hy
    · exact hst
  have hact : srcActive (modStation t x.slot x.idx halted) = srcActive s := by rw [srcActive, honly.active, srcActive]
  have hpoint : haltPoint t x.slot x.idx = relocateAll (if (withStation x (halted st)).stations.all (fun st => st.run == .halted) && !x.b.haltReported then
      report (modBundle (modStation t x.slot x.idx halted) x.slot (fun b => { b with haltReported := true })) C.bundleHalted
        (srcActive (modStation t x.slot x.idx halted)) x.handle []
      else modStation t x.slot x.idx halted) x.slot := by
    have hat := honly.whereAt h
    unfold haltPoint
    rw [show (fun st : Station => { st with run := .halted, waiting := .no }) = halted from rfl]
    simp only [hat]
    rfl
  rw [hpoint]
  split
  · have hlast := honly.onlyBundle.mod (fun b => { b with haltReported := true })
    have hb := (slotBundle_report _ C.bundleHalted (srcActive (modStation t x.slot x.idx halted)) x.handle [] x.slot).trans hlast.bundle
    rw [hstay hb rfl, hact]
    rw [hact] at hb
    exact ⟨_, hb, rfl, fun _ _ => ⟨rfl, _, rfl⟩⟩
  · rename_i hnot
    rw [hstay honly.bundle rfl]
    refine ⟨_, honly.bundle, rfl, fun hh hn => absurd ?_ hnot⟩
    simp only [Bool.and_eq_true, List.all_eq_true, beq_iff_eq, Bool.not_eq_true']
    exact ⟨hh, hn⟩

theorem Issues.allDone (h : Issues s cell w x) : allDone (atIssue s x w).w.st = allDone x.st := by
  rw [h.issueOf.st]; rfl

theorem ckpts_issued (x : Where) (w : Word) : (issued x w).ckpts = [] ↔ x.st.ckpts = [] := by
  simp [issued, savePages, counted]

end Sys2Proof.Machine

namespace Sys2Proof.Proofs
open Sys2Proof Sys2Proof.Machine

/-- Settles O25: fences, waits for a time, and what STAMP and CTR read. -/
theorem fencesTimeAndCounters : Obligations.FencesTimeAndCounters := by
  refine ⟨⟨?waits, ?ends⟩, ?reads⟩
  case waits =>
    intro s cell w x h waits
    have hi := h.issueOf
    have hl := h.at_.on.lt
    refine ⟨fun ho => ⟨fun hp => ?goes, fun hp => ?waits⟩, fun ho => ⟨fun ht => ?reached, fun ht => ?later⟩⟩
    case goes => exact stationResult_of_only (by rw [sfence_exec h ho, hp]; rfl) (hi.goOn hl id)
    case waits => exact stationResult_of_only (by rw [sfence_exec h ho, hp]; rfl) (hi.startWait hl _)
    case reached =>
      exact stationResult_of_only (by rw [waitt_exec h ho, show timeReached s _ = true from decide_eq_true ht]; rfl) (hi.goOn hl id)
    case later =>
      exact stationResult_of_only (by rw [waitt_exec h ho, show timeReached s _ = false from decide_eq_false (by omega)]; rfl) (hi.startWait hl _)
  case ends =>
    intro s cell x h hrun hd
    refine ⟨fun hw hp => ⟨endWait s x id, ?fence, h.endWait hd⟩, fun v hw hv => ⟨endWait s x id, ?time, h.endWait hd⟩⟩
    case fence =>
      show execSfenceComplete cell s = _
      simp only [execSfenceComplete, h.on, hrun, hw, hp, and_self, if_true]
      rfl
    case time =>
      show execWaittTimeReached cell s = _
      simp only [execWaittTimeReached, h.on, hrun, hw, timeReached, hv, decide_true, if_true]
      rfl
  case reads =>
    intro s cell w x h stamp ev
    have hi := h.issueOf
    have hstamp {fn v : Nat} (hv : stampValue s fn = v) : stamp fn v := by
      intro ho hf
      subst hv hf
      exact stamp_stationResult h ho
    refine ⟨hstamp rfl, hstamp rfl, hstamp (stampValue_frac rfl rfl), hstamp (stampValue_time rfl rfl), hstamp rfl, fun e ho he => ?_,
      fun ho he => ?_⟩
    · exact ctr_stationResult h ho he
    · exact ctr_faults h ho (ev := ev) (by simp only [ev]) he

/-- Settles O31: DRAIN and HALT as they issue and at the drain point. -/
theorem drainAndHaltStopTheStation : Obligations.DrainAndHaltStopTheStation := by
  refine ⟨?issue, ?reached⟩
  case issue =>
    intro s cell w x h hr waits
    have hi := h.issueOf
    have hst : x.st.relocating = false := hr _ (List.mem_of_getElem? h.at_.on.station)
    have hmod (f : Station → Station) : OnlyStation s (modStation (atIssue s x w).s x.slot x.idx f) x (f (issued x w)) :=
      hi.only.mod h.at_.on.lt f
    refine ⟨fun ho => ?drain, fun ho => ?halt⟩
    case drain =>
      have hexec : exec (.drain cell w) s = done (if allDone x.st then drainPoint (atIssue s x w).s x.slot x.idx else startWait (atIssue s x w) .drain) := by
        have hexec : exec (.drain cell w) s = done _ := exec_issue_eq h rfl ho rfl (by decide)
        rw [hexec, h.allDone, hi.slot, hi.idx]
      have honly := drainPoint_only ⟨_, hi.only.whereAt h.at_.on, rfl⟩ hmod hr hst
      refine ⟨fun hd => stationResult_of_only (by rw [hexec, hd]; rfl) (hi.startWait h.at_.on.lt _), fun hd hno => ?_, fun hd hreq hck => ?_⟩
      · rw [drained, if_neg] at honly
        · exact stationResult_of_only (by rw [hexec, hd]; rfl) honly
        · rw [ckpts_issued]
          rintro ⟨hreq, hck⟩
          rcases hno with hno | hno
          · exact absurd (hno.symm.trans hreq) (by decide)
          · exact hno hck
      · rw [drained, if_pos ⟨hreq, (ckpts_issued x w).2 hck⟩] at honly
        exact stationResult_of_only (by rw [hexec, hd]; rfl) honly
    case halt =>
      have hexec : exec (.halt cell w) s = done (if allDone x.st then haltPoint (atIssue s x w).s x.slot x.idx else startWait (atIssue s x w) .halt) := by
        have hexec : exec (.halt cell w) s = done _ := exec_issue_eq h rfl ho rfl (by decide)
        rw [hexec, h.allDone, hi.slot, hi.idx]
      refine ⟨fun hd => stationResult_of_only (by rw [hexec, hd]; rfl) (hi.startWait h.at_.on.lt _), fun hd => ?_⟩
      obtain ⟨b, hb, hbe, hrep⟩ := haltPoint_bundle h.at_.on hmod hr hst
      exact ⟨_, b, by rw [hexec, hd]; rfl, hb, hbe, hrep⟩
  case reached =>
    intro s cell x h hrun hr hdone
    have hst : x.st.relocating = false := hr _ (List.mem_of_getElem? h.station)
    have hdrain (hw : x.st.waiting = .drain) : exec (.drainPointReached cell) s = done (drainPoint s x.slot x.idx) := by
      show execDrainPointReached cell s = _
      simp [execDrainPointReached, h.on, hrun, hdone, hw]
    have honly := drainPoint_only ⟨_, h.whereAt, rfl⟩ (OnlyStation.start h) hr hst
    refine ⟨fun hw hreq hck => ?_, fun hw hno => ?_, fun hw => ?_⟩
    · rw [drained, if_pos ⟨hreq, hck⟩] at honly
      exact stationResult_of_only (hdrain hw) honly
    · rw [drained, if_neg] at honly
      · exact stationResult_of_only (hdrain hw) honly
      · rintro ⟨hreq, hck⟩
        rcases hno with hno | hno
        · exact absurd (hno.symm.trans hreq) (by decide)
        · exact hno hck
    · obtain ⟨b, hb, hbe, hrep⟩ := haltPoint_bundle h (OnlyStation.start h) hr hst
      refine ⟨_, b, ?_, hb, hbe, hrep⟩
      show execDrainPointReached cell s = _
      simp only [execDrainPointReached, h.on, hrun, hdone, hw]
      rfl

end Sys2Proof.Proofs
end

section
/-!
SUPPORT. Stack instructions at issue (R160, R215, R246, R247).
-/
namespace Sys2Proof.Machine
open Sys2Proof

variable {s : State} {cell : Nat} {w : Word} {x : Where} {i : Issue}

/-! ### Regions and descriptors -/

theorem needRegion_ok {k ri : Nat} {r : RegionRec} {p : Placed} (hp : regionPlace i.w.b i.w.idx k = some (ri, r, p)) {slot : Nat} {write : Bool}
    (hw : write = true → r.readOnly = false ∧ isDeltaStore i.w.b.img i.w.idx k = false) (body : Nat → RegionRec → State) :
    needRegion i k slot write body = body ri r := by
  cases write with
  | false => simp [needRegion, hp]
  | true => simp [needRegion, hp, hw rfl]

theorem needSlot_ok {ri : Nat} {r : RegionRec} {p : Placed} (hp : regionPlace i.w.b i.w.idx (fRB i.insn) = some (ri, r, p)) {write : Bool}
    (hw : write = true → r.readOnly = false ∧ isDeltaStore i.w.b.img i.w.idx (fRB i.insn) = false) (hs : i.ga.toNat < r.slots)
    (body : Nat → Nat → State) : needSlot i write body = body ri i.ga.toNat := by
  rw [needSlot, needRegion_ok hp hw]
  exact if_neg (not_le.2 hs)

theorem needClean_ok (hb : i.bad = []) (a n : Nat) (k : Unit → State) : needClean i a n k = k () := by
  simp [needClean, hb]

/-- The offsets of a descriptor's KIND 1 table (R246). -/
def tableOffs (m : Mem) (d : Desc) : List Nat :=
  if d.kind = 1 then (List.range d.count).map (fun n => leNat (m.read (d.indexAddr + 4 * n) 4)) else []

/-- A descriptor that lies with its table in data scratch. -/
theorem needDesc_ok (hi : IssueOf s x w i) {ga : Nat} {d : Desc} (hga : ga = (getG x.st (fRA w)).toNat)
    (hd : d = Desc.parse (x.st.scratch.read ga 64)) (h16 : ga % 16 = 0) (hr : ga + 64 ≤ x.sr.scratch)
    (ht : d.kind = 1 → d.indexAddr % 4 = 0 ∧ d.indexAddr + 4 * d.count ≤ x.sr.scratch) (k : Nat → Desc → List Nat → State) :
    needDesc i k = k ga d (tableOffs x.st.scratch d) := by
  have hg : i.ga.toNat = ga := by rw [hi.ga, hga]
  rw [needDesc, hg, needScratch_ok (by rw [hi.sr]; exact hr) h16, needClean_ok hi.bad, hi.scratch, ← hd]
  by_cases hk : d.kind = 1
  · obtain ⟨h4, hin⟩ := ht hk
    simp only [if_pos hk, tableOffs]
    rw [needScratch_ok (by rw [hi.sr]; exact hin) h4, needClean_ok hi.bad]
  · simp only [if_neg hk, tableOffs]

/-! ### Entering the queue (R215, R217) -/

/-- The access of the instruction `w` of the station of `x`. -/
def accessOf (x : Where) (w : Word) (k : StackKind) (tdAddr ri slot fmt : Nat) (t : Tile) (desc : List Byte) (offs : List Nat) : StackOp :=
  ⟨k, w, x.st.pc, x.st.order, tdAddr, ri, slot, fmt, t, desc, offs, (fullFootprint x.st w).1, (fullFootprint x.st w).2⟩

theorem IssueOf.stackOp (hi : IssueOf s x w i) (k : StackKind) (tdAddr ri slot fmt : Nat) (t : Tile) (desc : List Byte) (offs : List Nat) :
    stackOp i k tdAddr ri slot fmt t desc offs = accessOf x w k tdAddr ri slot fmt t desc offs := by
  rw [Machine.stackOp, hi.fp, hi.insn, hi.st]
  rfl

/-- Whether an access writes its stack. -/
def StackOp.isWrite (o : StackOp) : Bool := o.kind == .stash || o.kind == .scatter || o.kind == .radd

theorem IssueOf.noCkpts (hi : IssueOf s x w i) : i.w.st.ckpts.isEmpty = x.st.ckpts.isEmpty := by
  rw [hi.st]
  simp [savePages]

/-- An access that writes nothing, or under no checkpoint, enters the queue. -/
theorem enterStack_queued (hi : IssueOf s x w i) (hl : x.idx < x.b.stations.length) {o : StackOp} (ho : o.isWrite = false ∨ x.st.ckpts = []) :
    OnlyStation s (enterStack i o) x (past { issued x w with stackOps := x.st.stackOps ++ [o] }) := by
  have hnot : (o.isWrite && !i.w.st.ckpts.isEmpty) = false := by
    rw [hi.noCkpts]
    rcases ho with ho | ho <;> simp [ho]
  simp only [StackOp.isWrite] at hnot
  simp only [enterStack, hnot, Bool.false_eq_true, if_false]
  exact hi.goOn hl _

/-- A write under a checkpoint is held where the region's reserve has slots. -/
theorem enterStack_held (hi : IssueOf s x w i) (hl : x.idx < x.b.stations.length) {o : StackOp} (ho : o.isWrite = true) (hc : x.st.ckpts ≠ [])
    (hs : writeSlots x.b.img x.sr.spec ≠ 0) : OnlyStation s (enterStack i o) x
      (past { issued x w with heldWrites := x.st.heldWrites ++ [⟨{ o with reads := [], writes := [] }, x.st.ckpts.map (·.id)⟩] }) := by
  have hyes : (o.isWrite && !i.w.st.ckpts.isEmpty) = true := by
    rw [hi.noCkpts]
    simp [ho, hc]
  simp only [StackOp.isWrite] at hyes
  simp only [enterStack, hyes, if_true, hi.img, hi.sr, if_neg hs]
  have hids : (issued x w).ckpts.map (·.id) = x.st.ckpts.map (·.id) := by simp [issued, savePages, counted]
  have hgo := hi.goOn hl (fun st => { st with heldWrites := st.heldWrites ++ [⟨{ o with reads := [], writes := [] }, st.ckpts.map (·.id)⟩] })
  simp only [hids] at hgo
  exact hgo.bump _ _ _

/-- A write that the reserve has room for does not wait for it. -/
theorem spillGate_of (hc : x.st.ckpts = [] ∨ heldCount x.b x.sr.spec < writeSlots x.b.img x.sr.spec) : spillGate x = false := by
  rcases hc with hc | hc
  · simp [spillGate, hc]
  · simp [spillGate, hc]

/-- A write enters the queue under no checkpoint, and the reserve under one that has room. -/
theorem write_stationResults {c : Instr} {o : StackOp} (hl : x.idx < x.b.stations.length) (ho : o.isWrite = true)
    (hc : spillGate x = false → ∃ i, IssueOf s x w i ∧ exec c s = done (enterStack i o)) :
    (x.st.ckpts = [] → StationResult c s x (past { issued x w with stackOps := x.st.stackOps ++ [o] })) ∧
    (x.st.ckpts ≠ [] → heldCount x.b x.sr.spec < writeSlots x.b.img x.sr.spec → StationResult c s x
      (past { issued x w with heldWrites := x.st.heldWrites ++ [⟨{ o with reads := [], writes := [] }, x.st.ckpts.map (·.id)⟩] })) := by
  refine ⟨fun hn => ?_, fun hn hroom => ?_⟩
  · obtain ⟨i, hi, he⟩ := hc (spillGate_of (.inl hn))
    exact stationResult_of_only he (enterStack_queued hi hl (.inr hn))
  · obtain ⟨i, hi, he⟩ := hc (spillGate_of (.inr hroom))
    exact stationResult_of_only he (enterStack_held hi hl ho hn (by omega))

/-! ### Each instruction -/

section
variable {h : Handle} {ri : Nat} {r : RegionRec} {p : Placed} {ga : Nat} {d : Desc}

theorem fetch_exec (hx : Issues s cell w x) (ho : fOpc w = 0x30) (hset : getT x.st (fRD w) = some h)
    (hp : Machine.regionPlace x.b x.idx (fRB w) = some (ri, r, p)) (hs : (getG x.st (fRA w)).toNat < r.slots) :
    exec (.fetch cell w) s = done (enterStack (atIssue s x w)
      (accessOf x w .fetch h.addr ri (getG x.st (fRA w)).toNat (fFN w) Tile.zero [] [])) := by
  have hi := hx.issueOf
  have hexec : exec (.fetch cell w) s = done _ := exec_issue_eq hx rfl ho rfl (by decide)
  rw [needHandle_set (h := h) (by rw [hi.insn, hi.getT, hset]),
    needSlot_ok (ri := ri) (r := r) (p := p) (write := false) (by rw [hi.insn, hx.regionPlace, hp]) nofun (by rw [hi.ga]; exact hs), hi.stackOp, hi.ga, hi.insn] at hexec
  exact hexec

/-- The words of td that a STASH reads need no correction where it issues cleanly. -/
theorem correct_of_stash (hx : Issues s cell w x) (ho : fOpc w = 0x31) (hset : getT x.st (fRD w) = some h) :
    x.st.scratch.correct h.addr slotBytes = ⟨x.st.scratch, [], []⟩ := by
  have hmem : Item.slot h.addr slotBytes ∈ scanned x.st w := by
    simp [scanned, fullFootprint, footprint, accessSize, slotItem, ho, hset]
  exact correct_of_scanItems hx.clean hmem rfl

/-- A scratch stored back as it was leaves what an instruction is given. -/
theorem IssueOf.storeSame (hi : IssueOf s x w i) (hl : x.idx < x.b.stations.length) :
    IssueOf s x w { i with s := modStation i.s i.w.slot i.w.idx (fun st => { st with scratch := x.st.scratch }) } := by
  have honly := hi.only.mod hl (fun st => { st with scratch := x.st.scratch })
  rw [← hi.slot, ← hi.idx] at honly
  exact ⟨honly, hi.slot, hi.idx, hi.sr, hi.img, hi.st, hi.insn, hi.bad⟩

theorem stash_exec (hx : Issues s cell w x) (ho : fOpc w = 0x31) (hset : getT x.st (fRD w) = some h)
    (hp : Machine.regionPlace x.b x.idx (fRB w) = some (ri, r, p)) (hs : (getG x.st (fRA w)).toNat < r.slots)
    (hw : r.readOnly = false ∧ isDeltaStore x.b.img x.idx (fRB w) = false) (hg : spillGate x = false) :
    ∃ i, IssueOf s x w i ∧ exec (.stash cell w) s = done (enterStack i
      (accessOf x w .stash h.addr ri (getG x.st (fRA w)).toNat (fFN w) (x.st.scratch.readSlot h.addr true).tile [] [])) := by
  have hi := hx.issueOf
  have hexec : exec (.stash cell w) s = done _ := congrArg done (issueGated_eq hx ho (fun e => absurd e (by decide)) (by decide) hg _)
  rw [needHandle_set (h := h) (by rw [hi.insn, hi.getT, hset]),
    needSlot_ok (ri := ri) (r := r) (p := p) (by rw [hi.insn, hx.regionPlace, hp]) (fun _ => by rw [hi.insn, hi.img, hi.idx]; exact hw)
      (by rw [hi.ga]; exact hs)] at hexec
  obtain ⟨hmem, -⟩ := Mem.readSlot_of_correct (correct_of_stash hx ho hset) true
  simp only [hi.scratch, hmem] at hexec
  rw [hi.stackOp, hi.ga, show fFN (atIssue s x w).insn = fFN w by rw [hi.insn]] at hexec
  exact ⟨_, hi.storeSame hx.at_.on.lt, hexec⟩

theorem radd_exec (hx : Issues s cell w x) (ho : fOpc w = 0x34) (hset : getT x.st (fRD w) = some h)
    (hp : Machine.regionPlace x.b x.idx (fRB w) = some (ri, r, p)) (hs : (getG x.st (fRA w)).toNat < r.slots)
    (hw : r.readOnly = false ∧ isDeltaStore x.b.img x.idx (fRB w) = false)
    (ht : computable (x.st.scratch.readSlot h.addr false).tile.fmt = true) (hg : spillGate x = false) :
    ∃ i, IssueOf s x w i ∧ exec (.radd cell w) s = done (enterStack i
      (accessOf x w .radd h.addr ri (getG x.st (fRA w)).toNat 0 (x.st.scratch.readSlot h.addr false).tile [] [])) := by
  have hi := hx.issueOf
  have hexec : exec (.radd cell w) s = done _ := congrArg done (issueGated_eq hx ho (fun e => absurd e (by decide)) (by decide) hg _)
  rw [needHandle_set (h := h) (by rw [hi.insn, hi.getT, hset]),
    needSlot_ok (ri := ri) (r := r) (p := p) (by rw [hi.insn, hx.regionPlace, hp]) (fun _ => by rw [hi.insn, hi.img, hi.idx]; exact hw)
      (by rw [hi.ga]; exact hs)] at hexec
  simp only [hi.scratch, ht, Bool.true_eq_false, if_false, hi.stackOp, hi.ga] at hexec
  exact ⟨_, hi, hexec⟩

theorem gather_exec (hx : Issues s cell w x) (ho : fOpc w = 0x32) (hset : getT x.st (fRD w) = some h)
    (hp : Machine.regionPlace x.b x.idx (fRB w) = some (ri, r, p)) (hga : ga = (getG x.st (fRA w)).toNat)
    (hd : d = Desc.parse (x.st.scratch.read ga 64)) (h16 : ga % 16 = 0) (hr : ga + 64 ≤ x.sr.scratch)
    (ht : d.kind = 1 → d.indexAddr % 4 = 0 ∧ d.indexAddr + 4 * d.count ≤ x.sr.scratch)
    (hok : d.ok true d.tileFmt (if d.tileFmt = 0 then d.run * d.count else shapeCount d.shape) = true)
    (hout : outside d (tableOffs x.st.scratch d) r.slots = none) :
    exec (.gather cell w) s = done (enterStack (atIssue s x w)
      (accessOf x w .gather h.addr ri 0 0 Tile.zero (x.st.scratch.read ga 64) (tableOffs x.st.scratch d))) := by
  have hi := hx.issueOf
  have hexec : exec (.gather cell w) s = done _ := exec_issue_eq hx rfl ho rfl (by decide)
  rw [needHandle_set (h := h) (by rw [hi.insn, hi.getT, hset]), needDesc_ok hi hga hd h16 hr ht,
    needRegion_ok (ri := ri) (r := r) (p := p) (write := false) (by rw [hi.insn, hx.regionPlace, hp]) nofun] at hexec
  simp only [hok, hout, Bool.true_eq_false, if_false, hi.scratch, hi.stackOp] at hexec
  exact hexec

theorem scatter_exec (hx : Issues s cell w x) (ho : fOpc w = 0x33) (hset : getT x.st (fRD w) = some h)
    (hp : Machine.regionPlace x.b x.idx (fRB w) = some (ri, r, p)) (hga : ga = (getG x.st (fRA w)).toNat)
    (hd : d = Desc.parse (x.st.scratch.read ga 64)) (h16 : ga % 16 = 0) (hr : ga + 64 ≤ x.sr.scratch)
    (ht : d.kind = 1 → d.indexAddr % 4 = 0 ∧ d.indexAddr + 4 * d.count ≤ x.sr.scratch)
    (hw : r.readOnly = false ∧ isDeltaStore x.b.img x.idx (fRB w) = false) {t : Tile} (hst : t = slotTile x.st.scratch h.addr)
    (hok : d.ok false t.fmt (if t.fmt = 0 then t.hdr.len.toNat else t.count) = true)
    (hout : outside d (tableOffs x.st.scratch d) r.slots = none) (hpoison : t.hdr.flag flagPoison = false) (hg : spillGate x = false) :
    ∃ i, IssueOf s x w i ∧ exec (.scatter cell w) s = done (enterStack i
      (accessOf x w .scatter h.addr ri 0 0 t (x.st.scratch.read ga 64) (tableOffs x.st.scratch d))) := by
  have hi := hx.issueOf
  have hexec : exec (.scatter cell w) s = done _ := congrArg done (issueGated_eq hx ho (fun e => absurd e (by decide)) (by decide) hg _)
  rw [needHandle_set (h := h) (by rw [hi.insn, hi.getT, hset]), needDesc_ok hi hga hd h16 hr ht,
    needRegion_ok (ri := ri) (r := r) (p := p) (by rw [hi.insn, hx.regionPlace, hp]) (fun _ => by rw [hi.insn, hi.img, hi.idx]; exact hw)] at hexec
  have hclean : (t.poisoned || badIn (atIssue s x w).bad h.addr slotBytes) = false := by
    rw [hi.bad, badIn_nil, Bool.or_false, Tile.poisoned, hpoison]
  simp only [hi.scratch, ← hst, hok, hout, hclean, Bool.true_eq_false, Bool.false_eq_true, if_false, hi.stackOp] at hexec
  exact ⟨_, hi, hexec⟩

end

end Sys2Proof.Machine

namespace Sys2Proof.Proofs
open Sys2Proof Sys2Proof.Machine

/-- Settles O23: each stack instruction whose operands pass its checks enters the queue, or the reserve as a write under a checkpoint. -/
theorem stackInstructionsEnterTheirQueue : Obligations.StackInstructionsEnterTheirQueue := by
  intro s cell w x h ri r p hx hset hp fp ga op enters held writes mayWrite t desc d offs table tt
  have hl := hx.at_.on.lt
  refine ⟨fun ho hs => ?fetch, fun ho hs hw => ?stash, fun ho hs hw ht => ?radd, fun ho htab hok hout => ?gather,
    fun ho htab hw hok hout hpo => ?scatter⟩
  case fetch => exact stationResult_of_only (fetch_exec hx ho hset hp hs) (enterStack_queued hx.issueOf hl (.inl rfl))
  case stash => exact write_stationResults hl rfl (stash_exec hx ho hset hp hs hw)
  case radd => exact write_stationResults hl rfl (radd_exec hx ho hset hp hs hw ht)
  case gather =>
    obtain ⟨h16, hr, ht⟩ := htab
    exact stationResult_of_only (gather_exec hx ho hset hp rfl rfl h16 hr ht hok hout) (enterStack_queued hx.issueOf hl (.inl rfl))
  case scatter =>
    obtain ⟨h16, hr, ht⟩ := htab
    exact write_stationResults hl rfl (scatter_exec hx ho hset hp rfl rfl h16 hr ht hw rfl hok hout hpo)

end Sys2Proof.Proofs
end

section
/-!
SUPPORT. What a logic die's services leave unchanged (R234, R243, R248, R252 to R255): the other stacks, and every station's queue.
-/
namespace Sys2Proof.Machine
open Sys2Proof

variable {s t u : State} {n slot idx : Nat}

/-! ### Stacks changed in place -/

theorem getElem?_modAt {α : Type} (l : List α) (i j : Nat) (f : α → α) :
    (modAt l i f)[j]? = if j = i then (l[i]?).map f else l[j]? := by
  cases h : l[i]? with
  | none =>
    by_cases e : j = i
    · simp [modAt, h, e]
    · simp [modAt, h, e]
  | some a =>
    have hlt : i < l.length := (List.getElem?_eq_some_iff.1 h).1
    rw [modAt_of h]
    by_cases e : j = i
    · simp [e, hlt]
    · rw [if_neg e, List.getElem?_set_ne (Ne.symm e)]

theorem stackOf_modStack (s : State) (n m : Nat) (f : Stack → Stack) :
    stackOf (modStack s n f) m = if m = n then (stackOf s n).map f else stackOf s m := by
  simp only [stackOf, modStack, getElem?_modAt]
  by_cases hd : m / 2 = n / 2
  · rw [if_pos hd, hd]
    cases s.dies[n / 2]? with
    | none => simp
    | some d =>
      simp only [Option.map_some, getElem?_modAt]
      by_cases hj : m % 2 = n % 2
      · rw [if_pos hj, if_pos (by omega)]
      · rw [if_neg hj, if_neg (by omega)]
  · rw [if_neg hd, if_neg (by omega)]

theorem stackOf_of_dies (h : t.dies = s.dies) (m : Nat) : stackOf t m = stackOf s m := by
  rw [stackOf, h, stackOf]

theorem stationAt_of_pl (h : t.pl = s.pl) (slot idx : Nat) : stationAt t slot idx = stationAt s slot idx := by
  rw [stationAt, slotBundle, h, stationAt, slotBundle]

/-- From `s` to `t` one stack at most changes, no bundle, and nothing of the fabric. -/
structure StackOnly (n : Nat) (s t : State) : Prop where
  pl : t.pl = s.pl
  fab : t.fab = s.fab
  others : ∀ m, m ≠ n → stackOf t m = stackOf s m

namespace StackOnly

theorem refl (n : Nat) (s : State) : StackOnly n s s := ⟨rfl, rfl, fun _ _ => rfl⟩

theorem trans (h : StackOnly n s t) (k : StackOnly n t u) : StackOnly n s u :=
  ⟨k.pl.trans h.pl, k.fab.trans h.fab, fun m hm => (k.others m hm).trans (h.others m hm)⟩

theorem of_eq (hp : t.pl = s.pl) (hf : t.fab = s.fab) (hd : t.dies = s.dies) : StackOnly n s t := ⟨hp, hf, fun m _ => stackOf_of_dies hd m⟩

theorem foldl {α : Type} {g : State → α → State} (h : StackOnly n s t) (hg : ∀ t a, StackOnly n s t → StackOnly n s (g t a))
    {l : List α} : StackOnly n s (l.foldl g t) := by
  induction l generalizing t with
  | nil => exact h
  | cons a l ih => exact ih (hg t a h)

theorem foldlFst {α β : Type} {g : State × β → α → State × β} {a : State × β} (h : StackOnly n s a.1)
    (hg : ∀ a e, StackOnly n s a.1 → StackOnly n s (g a e).1) {l : List α} : StackOnly n s (l.foldl g a).1 := by
  induction l generalizing a with
  | nil => exact h
  | cons e l ih => exact ih (hg a e h)

theorem next (h : StackOnly n s t) (hp : u.pl = t.pl) (hf : u.fab = t.fab) (hd : u.dies = t.dies) : StackOnly n s u := h.trans (of_eq hp hf hd)

theorem bumpEv (h : StackOnly n s t) (ev : Nat) (c : EvCtx) (k : Nat) : StackOnly n s (bumpEv t ev c k) := h.next (by simp) (by simp) (by simp)

theorem stkEvent (h : StackOnly n s t) (code k : Nat) : StackOnly n s (stkEvent t n code k) := h.bumpEv _ _ _

theorem setFldAt (h : StackOnly n s t) (f : Fld) (a b c v : Nat) : StackOnly n s (setFldAt t f a b c v) := h.next (by simp) (by simp) (by simp)

theorem satFldAt (h : StackOnly n s t) (f : Fld) (a b c v : Nat) : StackOnly n s (satFldAt t f a b c v) := h.next (by simp) (by simp) (by simp)

theorem bumpFldAt (h : StackOnly n s t) (f : Fld) (a b c v : Nat) : StackOnly n s (bumpFldAt t f a b c v) := h.next (by simp) (by simp) (by simp)

theorem setEventAt (h : StackOnly n s t) (f : Fld) (a b c : Nat) : StackOnly n s (setEventAt t f a b c) := h.next (by simp) (by simp) (by simp)

theorem report (h : StackOnly n s t) (code src hd : Nat) (d : List Byte) : StackOnly n s (report t code src hd d) := h.next (by simp) (by simp) (by simp)

theorem modStack (h : StackOnly n s t) (f : Stack → Stack) : StackOnly n s (modStack t n f) :=
  h.trans ⟨rfl, rfl, fun m hm => by rw [stackOf_modStack, if_neg hm]⟩

theorem repairStart (h : StackOnly n s t) (key : Nat) : StackOnly n s (repairStart t n key) := h.modStack _

theorem stackCe (h : StackOnly n s t) (w : Nat) : StackOnly n s (stackCe t n w) := by
  unfold Machine.stackCe
  extract_lets d j s1 key
  have h1 : StackOnly n s s1 := ((h.stkEvent _ _).satFldAt _ _ _ _ _).setEventAt _ _ _ _
  split
  · exact h1
  · extract_lets a ces hit s2
    have h2 : StackOnly n s s2 := h1.modStack _
    split
    · exact h2.repairStart _
    · exact h2

theorem stackUe (h : StackOnly n s t) (w : Nat) : StackOnly n s (stackUe t n w) := by
  unfold Machine.stackUe
  extract_lets d j s1 s2 s3
  have h1 : StackOnly n s s1 := ((h.stkEvent _ _).satFldAt _ _ _ _ _).setEventAt _ _ _ _
  have h2 : StackOnly n s s2 := h1.setFldAt _ _ _ _ _
  have h3 : StackOnly n s s3 := (h2.setFldAt _ _ _ _ _).setFldAt _ _ _ _ _
  exact (h3.report _ _ _ _).repairStart _

theorem stackFound (h : StackOnly n s t) (m : Mem) (fixed : List Nat) (bad : List (Nat × Bool)) : StackOnly n s (stackFound t n m fixed bad) := by
  unfold Machine.stackFound
  refine ((h.modStack _).foldl fun t w ht => ht.stackCe w).foldl fun t e ht => ?_
  split
  · exact ht
  · exact ht.stackUe _

theorem stackRead (h : StackOnly n s t) (off len : Nat) : StackOnly n s (stackRead t n off len).st := by
  unfold Machine.stackRead
  split
  · exact h
  · exact h.stackFound _ _ _

theorem stackTile (h : StackOnly n s t) (off : Nat) : StackOnly n s (stackTile t n off).1 := by
  unfold Machine.stackTile
  split
  · exact h
  · exact h.stackFound _ _ _

theorem dieConvert (h : StackOnly n s t) (fn : Nat) (q : Tile) : StackOnly n s (dieConvert t n fn q).1 := by
  unfold Machine.dieConvert
  split
  · exact h
  · split
    · exact h
    · dsimp only
      exact h.stkEvent _ _

theorem activate (h : StackOnly n s t) (acts : List (Nat × Nat)) : StackOnly n s (activate t n acts) := by
  unfold Machine.activate
  refine h.foldl fun t e ht => ?_
  split
  · exact ht
  · exact ((ht.modStack _).stkEvent _ _).bumpFldAt _ _ _ _ _

theorem gatherAt (h : StackOnly n s t) (off : Nat) (d : Desc) (offs : List Nat) : StackOnly n s (gatherAt t n off d offs).1 := by
  unfold Machine.gatherAt
  refine foldlFst h fun a e ha => ?_
  exact ha.stackRead _ _

theorem scatterAt (h : StackOnly n s t) (off : Nat) (d : Desc) (offs : List Nat) (q : Tile) : StackOnly n s (scatterAt t n off d offs q) := by
  unfold Machine.scatterAt
  exact h.foldl fun t p ht => (ht.stackRead _ _).modStack _

end StackOnly

/-! ### Accesses served -/

/-- From `s` to `t` an access of a station is served at a stack: no other stack changes, nor the station's queue of accesses. -/
structure StackServed (n slot idx : Nat) (s t : State) : Prop where
  others : ∀ m, m ≠ n → stackOf t m = stackOf s m
  station : ∀ st, stationAt s slot idx = some st → ∃ st', stationAt t slot idx = some st' ∧ st'.stackOps = st.stackOps

theorem StackOnly.served (h : StackOnly n s t) : StackServed n slot idx s t :=
  ⟨h.others, fun st hst => ⟨st, (stationAt_of_pl h.pl slot idx).trans hst, rfl⟩⟩

theorem StackServed.trans (h : StackServed n slot idx s t) (k : StackServed n slot idx t u) : StackServed n slot idx s u where
  others m hm := (k.others m hm).trans (h.others m hm)
  station st hst := by
    obtain ⟨st1, h1, e1⟩ := h.station st hst
    obtain ⟨st2, h2, e2⟩ := k.station st1 h1
    exact ⟨st2, h2, e2.trans e1⟩

theorem stationAt_modStation (s : State) (slot idx : Nat) (f : Station → Station) :
    stationAt (modStation s slot idx f) slot idx = (stationAt s slot idx).map f := by
  unfold stationAt modStation modBundle
  cases h : slotBundle s slot with
  | none => simp [h]
  | some b => simp [slotBundle_setSlot, getElem?_modAt]

/-- A tile that lands in scratch leaves the queues. -/
theorem StackServed.land (h : StackServed n slot idx s t) (order : Nat) (f : Mem → Mem) :
    StackServed n slot idx s (modStation t slot idx (landScratch order f)) := by
  refine h.trans ⟨fun m _ => stackOf_of_dies (modStation_dies _ _ _ _) m, fun st hst => ⟨landScratch order f st, ?_, rfl⟩⟩
  rw [stationAt_modStation, hst]
  rfl

theorem stationAt_of_slotBundle {b : Bundle} (h : slotBundle s slot = some b) (idx : Nat) : stationAt s slot idx = b.stations[idx]? := by
  rw [stationAt, h]
  rfl

theorem StackServed.raddAt (s : State) (region off : Nat) (t : Tile) : StackServed n slot idx s (raddAt s slot region n off t) := by
  unfold Machine.raddAt
  have htile := (StackOnly.refl n s).stackTile off
  dsimp only
  split
  · exact (htile.modStack _).served
  · have hcount := htile.stkEvent Ev.raddRefused 1
    split
    · exact hcount.served
    · rename_i b hb
      split
      · exact hcount.served
      · refine hcount.served.trans ⟨fun m _ => stackOf_of_dies (by simp [setSlot]) m, fun st hst => ⟨st, ?_, rfl⟩⟩
        rw [stationAt_of_pl (report_pl _ _ _ _ _), stationAt_of_slotBundle (slotBundle_setSlot _ _ _)]
        exact (stationAt_of_slotBundle hb idx).symm.trans hst

theorem StackServed.stackEffect (s : State) (st : Station) (o : StackOp) (p : Placed) (way : Tile → Tile) :
    StackServed p.stack slot idx s (stackEffect s slot idx st o p way) := by
  have h0 := StackOnly.refl p.stack s
  unfold Machine.stackEffect
  dsimp only
  split
  case h_1 =>
    refine (StackOnly.dieConvert ?_ _ _).served.land _ _
    split
    · exact h0.dieConvert _ _
    · exact h0.stackTile _
  case h_2 => exact ((h0.dieConvert _ _).modStack _).served
  case h_3 => exact .raddAt _ _ _ _
  case h_4 => exact (h0.gatherAt _ _ _).served.land _ _
  case h_5 => exact (h0.scatterAt _ _ _ _).served

end Sys2Proof.Machine
end

section
/-!
SUPPORT. The completion of a stack access at its logic die (R154, R243): what a STASH writes and what a FETCH brings.
-/
namespace Sys2Proof.Machine
open Sys2Proof

variable {s t : State} {cell k q : Nat} {acts : List (Nat × Nat)} {hops : List HopInfo} {x : Where} {o : StackOp} {p : Placed} {m : Stack}

/-- From `s` to `t` event counters, samples and the number of open values taken change, nothing else. -/
def CountsOnly (s t : State) : Prop := ∃ c p n, t = { s with counts := c, sampling := p, free := n }

theorem CountsOnly.refl (s : State) : CountsOnly s s := ⟨s.counts, s.sampling, s.free, rfl⟩

theorem CountsOnly.bump (h : CountsOnly s t) (ev : Nat) (c : EvCtx) (n : Nat) : CountsOnly s (bumpEv t ev c n) := by
  obtain ⟨_, _, _, rfl⟩ := h
  exact ⟨_, _, _, bumpEv_frame _ _ _ _⟩

theorem CountsOnly.pl (h : CountsOnly s t) : t.pl = s.pl := by
  obtain ⟨_, _, _, rfl⟩ := h
  rfl

theorem CountsOnly.dies (h : CountsOnly s t) : t.dies = s.dies := by
  obtain ⟨_, _, _, rfl⟩ := h
  rfl

theorem CountsOnly.hopCounts (h : CountsOnly s t) (a : HopInfo) : CountsOnly s (hopCounts t a) := by
  unfold Machine.hopCounts
  extract_lets s1 s2
  have h1 : CountsOnly s s1 := by
    dsimp only [s1]
    split
    · exact h.bump _ _ _
    · exact h.bump _ _ _
    · exact h
  exact (h1.bump _ _ _).bump _ _ _

theorem CountsOnly.foldl_hopCounts (h : CountsOnly s t) (l : List HopInfo) : CountsOnly s (l.foldl Machine.hopCounts t) := by
  induction l generalizing t with
  | nil => exact h
  | cons a l ih => exact ih (h.hopCounts a)

/-- A station and its stacks after an access was counted and its station's queue shortened. -/
structure AccessTaken (s t : State) (x : Where) (o : StackOp) : Prop where
  station : stationAt t x.slot x.idx = some { x.st with stackOps := x.st.stackOps.erase o }
  dies : t.dies = s.dies

theorem accessTaken (h : OnCell s cell x) (o : StackOp) (l : List HopInfo) :
    AccessTaken s (l.foldl hopCounts (modStation s x.slot x.idx (fun st => { st with stackOps := st.stackOps.erase o }))) x o := by
  have hcount := (CountsOnly.refl (modStation s x.slot x.idx (fun st => { st with stackOps := st.stackOps.erase o }))).foldl_hopCounts l
  refine ⟨?_, hcount.dies.trans (modStation_dies _ _ _ _)⟩
  rw [stationAt_of_pl hcount.pl, stationAt_modStation, stationAt_of_slotBundle h.slot, h.station]
  rfl

/-- A tile that no hop spoils arrives as it was. -/
theorem foldl_hopTile_of_fails {l : List HopInfo} (h : ∀ a ∈ l, a.fails < 4) (t : Tile) : l.foldl (fun t h => hopTile h t) t = t := by
  induction l with
  | nil => rfl
  | cons a l ih =>
    have ha : hopTile a t = t := if_neg (not_le.2 (h a List.mem_cons_self))
    rw [List.foldl_cons, ha]
    exact ih fun b hb => h b (List.mem_cons_of_mem _ hb)

/-- What the completion of an access that its stack serves leaves. -/
theorem stackAccessComplete_exec (h : OnCell s cell x) (hk : x.st.stackOps[k]? = some o) (hs : (x.st.stackOps.take k).any (sameSlot o) = false)
    (hp : x.b.regions[o.region]? = some p) (hm : stackOf s p.stack = some m) (hf : m.failed = false) (hr : m.repairing = [])
    (hh : ∀ a ∈ hops, a.fails < 4) :
    ∃ u, AccessTaken s u x o ∧ exec (.stackAccessComplete cell k acts ⟨q, hops⟩) s =
      done (activate (stkEvent (stackEffect u x.slot x.idx x.st o p id) p.stack Ev.stkQueueFull q) p.stack acts) := by
  refine ⟨_, accessTaken h o (hops.filter (hopOpen s)), ?_⟩
  have hway : (fun t => (hops.filter (hopOpen s)).foldl (fun t h => hopTile h t) t) = id :=
    funext fun t => foldl_hopTile_of_fails (fun a ha => hh a (List.mem_of_mem_filter ha)) t
  have hopen : (opRows o p).any (fun r => m.repairing.contains r) = false := by simp [hr]
  show execStackAccessComplete cell k acts ⟨q, hops⟩ s = _
  simp only [execStackAccessComplete, h.on, hk, hs, hp, hm, hf, hopen, hway, Bool.false_eq_true, if_false]

theorem stackOf_stkEvent (s : State) (n code k j : Nat) : stackOf (stkEvent s n code k) j = stackOf s j :=
  stackOf_of_dies (by rw [stkEvent, bumpEv_dies]) j

theorem stackOf_bumpFldAt (s : State) (f : Fld) (a b c v j : Nat) : stackOf (bumpFldAt s f a b c v) j = stackOf s j :=
  stackOf_of_dies (bumpFldAt_dies s f a b c v) j

/-- Activations change no memory. -/
theorem activate_mem {n : Nat} {mem : Mem} (h : (stackOf s n).map (·.mem) = some mem) (acts : List (Nat × Nat)) :
    (stackOf (activate s n acts) n).map (·.mem) = some mem := by
  unfold activate
  generalize now s / 32000000 = win
  extract_lets d w
  induction acts generalizing s with
  | nil => exact h
  | cons e l ih =>
    refine ih ?_
    dsimp only
    split
    · exact h
    · rename_i k hk
      rw [stackOf_bumpFldAt, stackOf_stkEvent, stackOf_modStack, if_pos rfl, hk]
      rw [hk] at h
      exact h

/-- What follows the service of an access leaves stations and stack memories. -/
theorem served_after {u : State} {n q : Nat} (acts : List (Nat × Nat)) :
    StackOnly n u (activate (stkEvent u n Ev.stkQueueFull q) n acts) := ((StackOnly.refl n u).stkEvent _ _).activate _

theorem mem_after {u : State} {n q : Nat} {mem : Mem} (h : (stackOf u n).map (·.mem) = some mem) (acts : List (Nat × Nat)) :
    (stackOf (activate (stkEvent u n Ev.stkQueueFull q) n acts) n).map (·.mem) = some mem :=
  activate_mem (by rw [stackOf_stkEvent, h]) acts

/-- A STASH with no conversion writes its tile. -/
theorem stackEffect_stash {u : State} {slot idx : Nat} {st : Station} (hk : o.kind = .stash) (hf : o.fmt = 0x3F) (hc : o.tile.chk = []) :
    stackEffect u slot idx st o p id = modStack u p.stack (fun k => { k with mem := k.mem.writeSlot (p.off + slotBytes * o.slot) o.tile }) := by
  simp [stackEffect, hk, dieConvert, hf, appliedTile, hc, stackPutTile]

/-- A FETCH of a slot that needs no correction, of which no write is held, brings its tile. -/
theorem stackEffect_fetch {u : State} {slot idx : Nat} {st : Station} (hk : o.kind = .fetch) (hf : o.fmt = 0x3F)
    (hh : heldStash st o = none) (hm : stackOf u p.stack = some m) (hc : m.mem.chk = []) :
    stackEffect u slot idx st o p id = modStation (modStack u p.stack (fun k => { k with mem := m.mem })) slot idx
      (landScratch o.order (fun c => c.writeSlot o.tdAddr (m.mem.readSlot (p.off + slotBytes * o.slot) false).tile)) := by
  have hcorr : m.mem.correct (p.off + slotBytes * o.slot) slotBytes = ⟨m.mem, [], []⟩ := by simp [Mem.correct_eq, hc]
  obtain ⟨hmem, -⟩ := Mem.readSlot_of_correct hcorr false
  have hfixed : (m.mem.readSlot (p.off + slotBytes * o.slot) false).fixed = [] := by simp [Mem.readSlot, hcorr]
  have hbad : (m.mem.readSlot (p.off + slotBytes * o.slot) false).bad = [] := by simp [Mem.readSlot, hcorr]
  simp [stackEffect, hk, hh, hf, dieConvert, stackTile, hm, hmem, hfixed, hbad, stackFound]

end Sys2Proof.Machine

namespace Sys2Proof.Proofs
open Sys2Proof Sys2Proof.Machine

/-- Settles O24: any access leaves the queue and the other stacks; a STASH writes its slot, and a FETCH brings the slot's bytes. -/
theorem stackAccessesLand : Obligations.StackAccessesLand := by
  intro s cell k q acts hops x o p m h hk hs hp hm hf hr hh off
  obtain ⟨u, htaken, hexec⟩ := stackAccessComplete_exec (acts := acts) (q := q) h hk hs hp hm hf hr hh
  have hu : stackOf u p.stack = some m := (stackOf_of_dies htaken.dies _).trans hm
  refine ⟨?any, fun hkind hfmt hchk => ?stash, fun hkind hfmt hheld hchk => ?fetch⟩
  case any =>
    have hserved := (StackServed.stackEffect (slot := x.slot) (idx := x.idx) u x.st o p id).trans (served_after (q := q) acts).served
    obtain ⟨st, hst, hops⟩ := hserved.station _ htaken.station
    exact ⟨_, st, hexec, hst, hops, fun n hn => (hserved.others n hn).trans (stackOf_of_dies htaken.dies n)⟩
  case stash =>
    rw [stackEffect_stash hkind hfmt hchk] at hexec
    have hmem := mem_after (q := q) (mem := m.mem.writeSlot off o.tile) (u := modStack u p.stack
      (fun k => { k with mem := k.mem.writeSlot (p.off + slotBytes * o.slot) o.tile })) (n := p.stack) (by rw [stackOf_modStack, if_pos rfl, hu]; rfl) acts
    obtain ⟨m', hm', hmm⟩ := Option.map_eq_some_iff.1 hmem
    refine ⟨_, m', hexec, hm', ?_, fun b hb => ?_, ?_⟩
    · rw [hmm, Mem.read_writeSlot]
    · rw [hmm, Mem.byte_writeSlot_outside _ _ _ hb]
    · rw [stationAt_of_pl (served_after acts).pl, stationAt_of_pl (modStack_pl _ _ _), htaken.station]
  case fetch =>
    rw [stackEffect_fetch hkind hfmt hheld hu hchk] at hexec
    have hcorr : m.mem.correct (p.off + slotBytes * o.slot) slotBytes = ⟨m.mem, [], []⟩ := by simp [Mem.correct_eq, hchk]
    obtain ⟨-, htile⟩ := Mem.readSlot_of_correct hcorr false
    refine ⟨_, landScratch o.order (fun c => c.writeSlot o.tdAddr (m.mem.readSlot (p.off + slotBytes * o.slot) false).tile)
      { x.st with stackOps := x.st.stackOps.erase o }, hexec, ?_, rfl, ?_, fun b hb => ?_⟩
    · rw [stationAt_of_pl (served_after acts).pl, stationAt_modStation, stationAt_of_pl (modStack_pl _ _ _), htaken.station]
      rfl
    · exact (Mem.read_writeSlot _ _ _).trans htile
    · exact Mem.byte_writeSlot_outside _ _ _ hb

end Sys2Proof.Proofs
end

section
/-!
SUPPORT. What a report and a message to another module leave as they were, beyond the fields that the laws of the state name.
-/
namespace Sys2Proof.Machine
open Sys2Proof

variable {s t : State}

/-! ### Reports: the registers -/

/-- Every register but RED_FAULT holds what it held. -/
def RegsBut (s t : State) : Prop := ∀ r : RegRef, r.addr ≠ (⟨.redFault, 0, 0, 0⟩ : RegRef).addr → regWord t r = regWord s r

namespace RegsBut

theorem refl (s : State) : RegsBut s s := fun _ _ => rfl

theorem of_regs (hr : t.regs = s.regs) (hi : t.ident = s.ident) : RegsBut s t := fun r _ => by simp only [regWord, hr, hi]

theorem trans {u : State} (h : RegsBut s t) (k : RegsBut t u) : RegsBut s u := fun r hr => (k r hr).trans (h r hr)

theorem setHub (h : RegsBut s t) (hub : Hub) (x : HubSt) : RegsBut s (setHub t hub x) :=
  h.trans (.of_regs (setHub_regs t hub x) (setHub_ident t hub x))

theorem degradeRecorder (h : RegsBut s t) (hub : Hub) : RegsBut s (degradeRecorder t hub) := by
  unfold Machine.degradeRecorder
  exact (h.setHub hub _).trans fun _ hr => regWord_setRegWord_other _ hr _

theorem writeRecord (h : RegsBut s t) (hub : Hub) (r : Report) : RegsBut s (writeRecord t hub r) := by
  unfold Machine.writeRecord recordWithin
  extract_lets c0 c t0
  split
  · exact h.setHub hub _
  · refine RegsBut.setHub ?_ hub _
    split
    · exact (h.setHub hub _).degradeRecorder hub
    · exact h.setHub hub _

theorem fileReport (h : RegsBut s t) (r : Report) : RegsBut s (fileReport t r) := by
  have hrec (hub : Hub) : RegsBut s (if r.toRec then Machine.writeRecord t hub r else t) := by
    split
    · exact h.writeRecord hub r
    · exact h
  unfold Machine.fileReport
  split
  · exact h.trans (.of_regs rfl rfl)
  · dsimp only
    split
    · exact (hrec _).trans (.of_regs (hostEvents_regs _ _ _) rfl)
    · exact hrec _

end RegsBut

/-- A register that no report changes. -/
theorem regWord_report (s : State) (code src handle : Nat) (d : List Byte) {r : RegRef}
    (hr : r.addr ≠ (⟨.redFault, 0, 0, 0⟩ : RegRef).addr) : regWord (report s code src handle d) r = regWord s r :=
  (RegsBut.refl s).fileReport _ r hr

theorem fld_report (s : State) (code src handle : Nat) (d : List Byte) {f : Fld}
    (hr : (⟨f.reg, 0, 0, 0⟩ : RegRef).addr ≠ (⟨.redFault, 0, 0, 0⟩ : RegRef).addr) : fld (report s code src handle d) f = fld s f := by
  rw [fld, fldAt, regWord_report s _ _ _ _ hr, fld, fldAt]

/-! ### What has been sent stays sent -/

/-- What `s` has sent stands at the front of what `t` has sent. -/
def OutGrows (s t : State) : Prop := ∃ l, t.out = s.out ++ l

namespace OutGrows

theorem of_eq (h : t.out = s.out) : OutGrows s t := ⟨[], by rw [h, List.append_nil]⟩
theorem refl (s : State) : OutGrows s s := of_eq rfl
theorem emit (s : State) (e : Emit) : OutGrows s (emit s e) := ⟨[e], rfl⟩

theorem trans (h : OutGrows s t) (k : OutGrows t u) : OutGrows s u := by
  obtain ⟨l, hl⟩ := h
  obtain ⟨m, hm⟩ := k
  exact ⟨l ++ m, by rw [hm, hl, List.append_assoc]⟩

theorem fileReport (s : State) (r : Report) : OutGrows s (fileReport s r) := by
  unfold Machine.fileReport
  split
  · exact refl s
  · extract_lets s1
    have h1 : OutGrows s s1 := of_eq (by dsimp only [s1]; split <;> simp)
    split
    · exact h1.trans ⟨_, rfl⟩
    · exact h1

theorem report (s : State) (code src handle : Nat) (d : List Byte) : OutGrows s (report s code src handle d) := fileReport s _

end OutGrows

/-! ### Messages: links and counters alone -/

/-- From `s` to `t` nothing changes but links, messages that wait for a route, what has left the module, event counters, samples and open
values taken. -/
def FabricOnly (s t : State) : Prop :=
  ∃ l w o c p n, t = { s with fab := { s.fab with links := l, waiting := w }, out := s.out ++ o, counts := c, sampling := p, free := n }

namespace FabricOnly

theorem refl (s : State) : FabricOnly s s := ⟨s.fab.links, s.fab.waiting, [], s.counts, s.sampling, s.free, by rw [List.append_nil]⟩

theorem links (h : FabricOnly s t) (l : SMap Link) : FabricOnly s { t with fab := { t.fab with links := l } } := by
  obtain ⟨_, w, o, c, p, n, rfl⟩ := h
  exact ⟨l, w, o, c, p, n, rfl⟩

theorem waiting (h : FabricOnly s t) (w : List WaitingMsg) : FabricOnly s { t with fab := { t.fab with waiting := w } } := by
  obtain ⟨l, _, o, c, p, n, rfl⟩ := h
  exact ⟨l, w, o, c, p, n, rfl⟩

theorem emit (h : FabricOnly s t) (e : Emit) : FabricOnly s (emit t e) := by
  obtain ⟨l, w, o, c, p, n, rfl⟩ := h
  exact ⟨l, w, o ++ [e], c, p, n, by rw [← List.append_assoc]; rfl⟩

theorem bumpEv (h : FabricOnly s t) (ev : Nat) (ctx : EvCtx) (k : Nat) : FabricOnly s (bumpEv t ev ctx k) := by
  obtain ⟨l, w, o, c, p, n, rfl⟩ := h
  rw [bumpEv_frame]
  exact ⟨l, w, o, _, _, _, rfl⟩

theorem modLink (h : FabricOnly s t) (key : Nat) (g : Link → Link) : FabricOnly s (modLink t key g) := by
  unfold Machine.modLink
  split
  · exact h.links _
  · exact h

theorem sendOne (h : FabricOnly s t) (key : Nat) (l : Link) (vc : Nat) : FabricOnly s (sendOne t key l vc) := by
  unfold Machine.sendOne emitFlit
  split
  · exact h
  · dsimp only
    split
    · exact h.modLink _ _
    · exact ((h.modLink _ _).modLink _ _).emit _

theorem pump (h : FabricOnly s t) (fuel key : Nat) : FabricOnly s (pump fuel t key) := by
  induction fuel generalizing t with
  | zero => exact h
  | succ fuel ih =>
    unfold Machine.pump
    split
    · exact h
    · split
      · exact h
      · split
        · exact h
        · exact ih (h.sendOne _ _ _)

theorem creditWaitOne (h : FabricOnly s t) (key vc : Nat) : FabricOnly s (creditWaitOne key t vc) := by
  unfold Machine.creditWaitOne
  split
  · exact h
  · dsimp only
    split
    · exact h.modLink _ _
    · exact (h.modLink _ _).bumpEv _ _ _
    · exact h

theorem pumpLink (h : FabricOnly s t) (key : Nat) : FabricOnly s (pumpLink t key) := by
  unfold Machine.pumpLink
  split
  · exact List.foldlRecOn _ _ (h.pump _ _) fun _ hu vc _ => hu.creditWaitOne key vc
  · exact h

theorem queueFrom (h : FabricOnly s t) (via : Option Nat) (key vc : Nat) (fs : List Flit) : FabricOnly s (queueFrom via t key vc fs) :=
  (h.modLink key _).pumpLink key

theorem sendVia (h : FabricOnly s t) (via : Option Nat) (dest vc : Nat) (b : FlitBody) : FabricOnly s (sendVia via t dest vc b) := by
  unfold Machine.sendVia
  split
  · exact h
  · split
    · exact h.waiting _
    · split
      · exact h.queueFrom _ _ _ _
      · exact h.waiting _

theorem sendMsg (h : FabricOnly s t) (dest vc : Nat) (b : FlitBody) : FabricOnly s (sendMsg t dest vc b) := h.sendVia none dest vc b

theorem out (h : FabricOnly s t) : OutGrows s t := by
  obtain ⟨_, _, o, _, _, _, rfl⟩ := h
  exact ⟨o, rfl⟩

theorem pl (h : FabricOnly s t) : t.pl = s.pl := by
  obtain ⟨_, _, _, _, _, _, rfl⟩ := h
  rfl

theorem regs (h : FabricOnly s t) : t.regs = s.regs := by
  obtain ⟨_, _, _, _, _, _, rfl⟩ := h
  rfl

theorem ident (h : FabricOnly s t) : t.ident = s.ident := by
  obtain ⟨_, _, _, _, _, _, rfl⟩ := h
  rfl

end FabricOnly

theorem sendMsg_fabricOnly (s : State) (dest vc : Nat) (b : FlitBody) : FabricOnly s (sendMsg s dest vc b) := (FabricOnly.refl s).sendMsg dest vc b

@[simp] theorem sendMsg_pl (s : State) (dest vc : Nat) (b : FlitBody) : (sendMsg s dest vc b).pl = s.pl := (sendMsg_fabricOnly s dest vc b).pl

theorem regWord_of_regs (hr : t.regs = s.regs) (hi : t.ident = s.ident) (r : RegRef) : regWord t r = regWord s r := by
  simp only [regWord, hr, hi]

theorem regWord_sendMsg (s : State) (dest vc : Nat) (b : FlitBody) (r : RegRef) : regWord (sendMsg s dest vc b) r = regWord s r :=
  regWord_of_regs (sendMsg_fabricOnly s dest vc b).regs (sendMsg_fabricOnly s dest vc b).ident r

end Sys2Proof.Machine
end

section
/-!
SUPPORT. A tally and a station of its bundle, followed through the operations at the home cell (R267, R273).
-/
namespace Sys2Proof.Machine
open Sys2Proof

variable {s t : State} {cell slot i idx : Nat} {w : Word} {x : Where} {y : Tally} {r : TallyRec} {st : Station}

theorem tallyAt_iff {b : Bundle} : tallyAt s slot i = some (b, y, r) ↔
    slotBundle s slot = some b ∧ b.tallies[i]? = some y ∧ b.img.tallies[i]? = some r := by
  unfold tallyAt
  constructor
  · intro h
    split at h
    · cases h
    · rename_i hb
      split at h
      · rename_i hy hr
        cases h
        exact ⟨hb, hy, hr⟩
      · cases h
  · rintro ⟨hb, hy, hr⟩
    simp [hb, hy, hr]

/-- With no waiter, a release leaves the tally as it is. -/
theorem release_of_noWaiters {b : Bundle} (hat : tallyAt s slot i = some (b, y, r)) (ht : y.takers = []) (hw : y.watchers = []) :
    release s slot i = modTally s slot i fun _ => y := by
  have hsame : { y with value := BitVec.ofNat 32 y.value.toNat, watchers := [], takers := [],
                        multi := if 2 ≤ 0 then (y.multi + 1) % 2 ^ 32 else y.multi } = y := by
    cases y
    simp_all
  rw [release, hat]
  simp only [ht, hw, serveTakers, List.filter_nil, List.append_nil, List.length_nil, List.foldl_nil]
  rw [hsame]

/-- The bundle of a slot has the image `img`, its tally `i` is `y` and its station `idx` is `st`. -/
def TallySite (s : State) (slot i idx : Nat) (img : BundleImg) (y : Tally) (st : Station) : Prop :=
  ∃ b, slotBundle s slot = some b ∧ b.img = img ∧ b.tallies[i]? = some y ∧ b.stations[idx]? = some st

namespace TallySite

variable {img : BundleImg}

theorem of_pl (h : TallySite s slot i idx img y st) (hp : t.pl = s.pl) : TallySite t slot i idx img y st := by
  simpa only [TallySite, slotBundle, hp] using h

theorem modStation (h : TallySite s slot i idx img y st) (f : Station → Station) :
    TallySite (modStation s slot idx f) slot i idx img y (f st) := by
  obtain ⟨b, hb, himg, hy, hst⟩ := h
  refine ⟨_, (congrArg (slotBundle · slot) (modBundle_of hb _)).trans (slotBundle_setSlot _ _ _), himg, hy, ?_⟩
  simp [getElem?_modAt, hst]

theorem modTally (h : TallySite s slot i idx img y st) (f : Tally → Tally) :
    TallySite (modTally s slot i f) slot i idx img (f y) st := by
  obtain ⟨b, hb, himg, hy, hst⟩ := h
  refine ⟨_, (congrArg (slotBundle · slot) (modBundle_of hb _)).trans (slotBundle_setSlot _ _ _), himg, ?_, hst⟩
  simp [getElem?_modAt, hy]

theorem tallyAt (h : TallySite s slot i idx img y st) (hr : img.tallies[i]? = some r) : ∃ b, tallyAt s slot i = some (b, y, r) ∧ b.img = img := by
  obtain ⟨b, hb, rfl, hy, -⟩ := h
  exact ⟨b, tallyAt_iff.2 ⟨hb, hy, hr⟩, rfl⟩

theorem stationAt (h : TallySite s slot i idx img y st) : stationAt s slot idx = some st := by
  obtain ⟨b, hb, -, -, hst⟩ := h
  rw [stationAt_of_slotBundle hb, hst]

theorem whereAt (h : TallySite s slot i idx img y st) {sr : StationRec} (hsr : img.stations[idx]? = some sr) :
    ∃ b, whereAt s slot idx = some ⟨slot, idx, b, st, sr⟩ ∧ slotBundle s slot = some b := by
  obtain ⟨b, hb, rfl, -, hst⟩ := h
  exact ⟨b, by simp [Machine.whereAt, hb, hst, hsr], hb⟩

/-- The home cell's answer to a station of the bundle. -/
theorem answer (h : TallySite s slot i idx img y st) (status : Nat) :
    TallySite (answer s slot i (.station idx) status) slot i idx img y { st with tallyOps := answerIn i status st.tallyOps } :=
  h.modStation _

theorem release (h : TallySite s slot i idx img y st) (hr : img.tallies[i]? = some r) (ht : y.takers = []) (hw : y.watchers = []) :
    TallySite (release s slot i) slot i idx img y st := by
  obtain ⟨b, hat, -⟩ := h.tallyAt hr
  rw [release_of_noWaiters hat ht hw]
  exact h.modTally _

/-- An overflow or an underflow, reported and counted. -/
theorem tallyReport (h : TallySite s slot i idx img y st) (hr : img.tallies[i]? = some r) (overs : Bool) (n : Nat) (src : Option TallySrc) :
    TallySite (tallyReport s slot i overs n src) slot i idx img
      (if overs then { y with overs := satInc 16 y.overs 1 } else { y with under := satInc 16 y.under 1 }) st := by
  obtain ⟨b, hat, -⟩ := h.tallyAt hr
  rw [Machine.tallyReport, hat]
  have hmod := h.modTally fun t => if overs then { t with overs := satInc 16 t.overs 1 } else { t with under := satInc 16 t.under 1 }
  refine hmod.of_pl ?_
  dsimp only
  rw [report_pl]
  split <;> rw [setEvent_pl]

end TallySite

/-! ### The four outcomes of a give and a debit that find no waiter -/

section
variable {img : BundleImg} {n : Word}

/-- What a station and its tally show once an operation has been applied and answered. -/
def Applied (t : State) (slot i idx : Nat) (img : BundleImg) (st : Station) (value status : Nat) : Prop :=
  ∃ y, y.value.toNat = value ∧ TallySite t slot i idx img y { st with tallyOps := answerIn i status st.tallyOps }

variable (h : TallySite s slot i idx img y st) (hr : img.tallies[i]? = some r) (ho : y.orphaned = false)
include h hr ho

theorem tallyApply_give (hc : r.capacity < 2 ^ 32) (hf : y.value.toNat + n.toNat ≤ r.capacity) (ht : y.takers = []) (hw : y.watchers = []) :
    Applied (tallyApply s slot i (.station idx) .give n) slot i idx img st (y.value.toNat + n.toNat) 0 := by
  obtain ⟨b, hat, -⟩ := h.tallyAt hr
  have hv : (y.value + n).toNat = y.value.toNat + n.toNat := by
    rw [BitVec.toNat_add, Nat.mod_eq_of_lt (by omega)]
  rw [tallyApply, hat]
  simp only [ho, Bool.false_eq_true, if_false, if_neg (Nat.not_lt.2 hf)]
  exact ⟨{ y with value := y.value + n }, hv, ((h.modTally _).answer C.ok).release hr ht hw⟩

theorem tallyApply_overflow (hf : r.capacity < y.value.toNat + n.toNat) :
    Applied (tallyApply s slot i (.station idx) .give n) slot i idx img st y.value.toNat 0x0230 := by
  obtain ⟨b, hat, -⟩ := h.tallyAt hr
  rw [tallyApply, hat]
  simp only [ho, Bool.false_eq_true, if_false, if_pos hf]
  exact ⟨{ y with overs := satInc 16 y.overs 1 }, rfl, (h.tallyReport hr true n.toNat _).answer C.tallyOverflow⟩

theorem tallyApply_debit (hf : n.toNat ≤ y.value.toNat) :
    Applied (tallyApply s slot i (.station idx) .debit n) slot i idx img st (y.value.toNat - n.toNat) 0 := by
  obtain ⟨b, hat, -⟩ := h.tallyAt hr
  rw [tallyApply, hat]
  simp only [ho, Bool.false_eq_true, if_false, if_neg (Nat.not_lt.2 hf)]
  exact ⟨{ y with value := y.value - n }, BitVec.toNat_sub_of_le (BitVec.le_def.2 hf), (h.modTally _).answer C.ok⟩

theorem tallyApply_underflow (hf : y.value.toNat < n.toNat) :
    Applied (tallyApply s slot i (.station idx) .debit n) slot i idx img st y.value.toNat 0x0231 := by
  obtain ⟨b, hat, -⟩ := h.tallyAt hr
  rw [tallyApply, hat]
  simp only [ho, Bool.false_eq_true, if_false, if_pos hf]
  exact ⟨{ y with under := satInc 16 y.under 1 }, rfl, (h.tallyReport hr false n.toNat _).answer C.tallyUnderflow⟩

end

end Sys2Proof.Machine
end

section
/-!
SUPPORT. The tally instructions (R161): a wait, an operation under way, and one applied at once at the station's own cell.
-/
namespace Sys2Proof.Machine
open Sys2Proof

variable {s : State} {cell : Nat} {w : Word} {x : Where} {y : Tally} {r : TallyRec} {i : Issue}

/-- The tally that an instruction of `x` names. -/
def tallyIndex (x : Where) (w : Word) : Nat := (getG x.st (fRA w)).toNat % 2 ^ 32

/-- The operation of a tally instruction of `x`, as its station holds it. -/
def tallyOpOf (x : Where) (w : Word) (op : TallyOp) (accepted : Bool) : TallyWait :=
  ⟨tallyIndex x w, op, BitVec.ofNat 32 ((getG x.st (fRB w)).toNat % 2 ^ 32), fRD w, w, x.st.pc, x.st.order, accepted, none⟩

theorem IssueOf.tallyWait (hi : IssueOf s x w i) (op : TallyOp) (accepted : Bool) :
    tallyWait i (tallyIndex x w) op accepted = tallyOpOf x w op accepted := by
  rw [Machine.tallyWait, hi.gb, hi.insn, hi.st]
  rfl

/-- A tally instruction runs its body on its tally. -/
theorem tally_exec {c : Instr} {opc : Nat} {body : Issue → State} {k : Issue → Nat → Tally → State} (h : Issues s cell w x)
    (hck : x.st.ckpts = []) (hc : exec c s = done (issue s cell w opc body)) (ho : fOpc w = opc) (hk : opc ≠ 0x28 ∧ opc ≠ 0x2A)
    (hb : ∀ i, body i = needTally i (k i)) : exec c s = done (match x.b.tallies[tallyIndex x w]? with
      | none => (atIssue s x w).fault C.tallyInvalid (tallyIndex x w)
      | some t => k (atIssue s x w) (tallyIndex x w) t) := by
  rw [hc, issue_eq h ho (fun _ => hck) hk, hb, needTally, h.issueOf.ga, h.bundle]
  rfl

theorem tally_invalid {c : Instr} {n : Nat} (h : Issues s cell w x) (hn : n = tallyIndex x w)
    (hc : exec c s = done ((atIssue s x w).fault C.tallyInvalid n)) :
    ∃ t, exec c s = .next t ∧ FaultShown t cell x 0x0216 x.st.pc w (shownDetail x n) :=
  shown_of_fault h hc (by decide) rfl (by rw [hn, tallyIndex, Nat.mod_mod])

theorem wait_stationResult (h : Issues s cell w x) {c : Instr} {op : TallyOp}
    (hc : exec c s = done (modStation (startWait (atIssue s x w) .tally) (atIssue s x w).w.slot (atIssue s x w).w.idx
      (fun st => { st with tallyOps := st.tallyOps ++ [tallyWait (atIssue s x w) (tallyIndex x w) op false] }))) :
    StationResult c s x { issued x w with waiting := .tally, waitInsn := w, waitSince := now s, tallyOps := x.st.tallyOps ++ [tallyOpOf x w op false] } := by
  have hi := h.issueOf
  rw [hi.tallyWait, hi.slot, hi.idx] at hc
  exact stationResult_of_only hc ((hi.startWait h.at_.on.lt _).mod h.at_.on.lt _)

/-- The conditions under which an operation is applied as its instruction issues. -/
structure AtOnce (x : Where) (n : Nat) (y : Tally) : Prop where
  tally : x.b.tallies[n]? = some y
  home : y.home = some x.idx
  homed : y.orphaned = false
  markers : y.markers = []
  takers : y.takers = []
  watchers : y.watchers = []
  noAccess : x.st.stackOps = []
  first : ∀ e ∈ x.st.tallyOps, e.tally ≠ n ∧ e.order ≠ x.st.order

theorem answerIn_append {i status : Nat} {l : List TallyWait} (hl : ∀ e ∈ l, e.tally ≠ i) (e : TallyWait) (he : e.tally = i) (ha : e.accepted = true)
    (hn : e.answer = none) : answerIn i status (l ++ [e]) = l ++ [{ e with answer := some status }] := by
  induction l with
  | nil => simp [answerIn, he, ha, hn]
  | cons a l ih =>
    have htail := ih fun e he => hl e (List.mem_cons_of_mem _ he)
    simp [answerIn, hl a List.mem_cons_self, htail]

/-- A bundle's tally and station as an instruction has issued. -/
theorem Issues.tallySite (h : Issues s cell w x) {n : Nat} (hy : x.b.tallies[n]? = some y) :
    TallySite (atIssue s x w).s x.slot n x.idx x.b.img y (issued x w) :=
  ⟨_, h.begun.1.bundle, rfl, hy, by simp [withStation, h.at_.on.lt]⟩

/-- The station that has issued an operation applied at once, its answer recorded. -/
def answeredAtOnce (x : Where) (w : Word) (e : TallyWait) (status : Nat) : Station :=
  { issued x w with tallyOps := x.st.tallyOps ++ [{ e with answer := some status }] }

variable {n val status : Nat} {op : TallyOp}

theorem Applied.answeredAtOnce {u : State} {e : TallyWait} (hu : Applied u x.slot n x.idx x.b.img { issued x w with tallyOps := x.st.tallyOps ++ [e] } val status)
    (hl : ∀ o ∈ x.st.tallyOps, o.tally ≠ n) (he : e.tally = n) (ha : e.accepted = true) (hn : e.answer = none) :
    ∃ y, y.value.toNat = val ∧ TallySite u x.slot n x.idx x.b.img y (Machine.answeredAtOnce x w e status) := by
  obtain ⟨y, hv, hsite⟩ := hu
  rw [answerIn_append hl e he ha hn] at hsite
  exact ⟨y, hv, hsite⟩

theorem pc_setG (st : Station) (n : Nat) (v : DWord) : (setG st n v).pc = st.pc := by
  unfold Machine.setG
  split <;> rfl

/-- The register an instruction has just written reads so; g0 reads 0. -/
theorem getG_past_setG (st : Station) {n status : Nat} (h : n ≠ 0 ∨ status = 0) :
    Machine.getG (past (Machine.setG st n (BitVec.ofNat 64 status))) n = BitVec.ofNat 64 status := by
  refine (getG_setG st n n _).trans ?_
  by_cases hn : n = 0
  · simp [hn, h.resolve_left (· hn)]
  · simp [hn]

/-- A station without one of its operations. -/
def dropOp (e : TallyWait) (st : Station) : Station := { st with tallyOps := st.tallyOps.erase e }

section
variable {u : State} {e : TallyWait} (h : Issues s cell w x) (hu : TallySite u x.slot n x.idx x.b.img y (answeredAtOnce x w e status))
  (he : e.order = x.st.order) (hl : ∀ o ∈ x.st.tallyOps, o.order ≠ x.st.order)
include h hu he hl

theorem localAnswer_eq : ∃ b, localAnswer (atIssue s x w) u =
    (let v : Where := ⟨x.slot, x.idx, b, answeredAtOnce x w e status, x.sr⟩
    let e' := { e with answer := some status }
    let u1 := modStation u x.slot x.idx (dropOp e')
    if fRD w = 0 ∧ status ≠ 0 then stationFault u1 { v with st := dropOp e' v.st } w status 0
    else goOn u1 v fun st => setG st (fRD w) (BitVec.ofNat 64 status)) := by
  have hi := h.issueOf
  obtain ⟨b, hat, -⟩ := hu.whereAt h.at_.on.record
  have hfind : (answeredAtOnce x w e status).tallyOps.find? (fun o => decide (o.order = x.st.order)) = some { e with answer := some status } := by
    rw [answeredAtOnce, List.find?_append, List.find?_eq_none.2 (by simpa using hl)]
    simp [he]
  have horder : (atIssue s x w).w.st.order = x.st.order := by rw [hi.st]; rfl
  refine ⟨b, ?_⟩
  rw [localAnswer, hi.slot, hi.idx, hat]
  simp only [horder, hfind, hi.insn, Option.getD_some]
  rfl

/-- The answer to an operation applied at once: with a register to write, or nothing amiss, the instruction completes. -/
theorem localAnswer_completes (hr : x.b.img.tallies[n]? = some r) (hok : fRD w ≠ 0 ∨ status = 0) :
    ∃ st b, tallyAt (localAnswer (atIssue s x w) u) x.slot n = some (b, y, r) ∧ stationAt (localAnswer (atIssue s x w) u) x.slot x.idx = some st ∧
      st.pc = x.st.pc + 4 ∧ getG st (fRD w) = BitVec.ofNat 64 status := by
  obtain ⟨b, heq⟩ := localAnswer_eq h hu he hl
  dsimp only at heq
  rw [if_neg (by tauto)] at heq
  have hsite : TallySite (localAnswer (atIssue s x w) u) x.slot n x.idx x.b.img y
      (past (setG (dropOp { e with answer := some status } (answeredAtOnce x w e status)) (fRD w) (BitVec.ofNat 64 status))) := by
    rw [heq]
    exact (hu.modStation _).modStation _
  obtain ⟨b', htally, -⟩ := hsite.tallyAt hr
  exact ⟨_, b', htally, hsite.stationAt, congrArg (· + 4) (pc_setG _ _ _), getG_past_setG _ hok⟩

/-- With gd = g0, an operation that is refused faults its instruction. -/
theorem localAnswer_faults (hrd : fRD w = 0) (h0 : status ≠ 0) (hs : status < 2 ^ 16) :
    FaultShown (localAnswer (atIssue s x w) u) cell x status x.st.pc w (shownDetail x 0) := by
  obtain ⟨b, heq⟩ := localAnswer_eq h hu he hl
  dsimp only at heq
  rw [if_pos ⟨hrd, h0⟩] at heq
  obtain ⟨b', hb, -, -, hst⟩ := hu.modStation (dropOp { e with answer := some status })
  obtain ⟨hlt, -⟩ := List.getElem?_eq_some_iff.1 hst
  obtain ⟨held, stop⟩ := stationFaultAt_shows
    ⟨x.slot, x.idx, b, dropOp { e with answer := some status } (answeredAtOnce x w e status), x.sr⟩ hb hlt hs 0 x.st.pc w
  have hcell : cellNo (dropOp { e with answer := some status } (answeredAtOnce x w e status)) = cell := by
    rw [cellNo, show (dropOp _ (answeredAtOnce x w e status)).cell = x.st.cell from rfl, h.at_.on.placed]
    rfl
  have hd (p : Prop) [Decidable p] : (if p then 0 else 0 % 2 ^ 32) = shownDetail x 0 := by simp [shownDetail]
  rw [hcell, hd] at held
  rw [heq]
  exact ⟨stop, held.code, held.valid, held.pc, held.insn, held.detail⟩

end

/-- A give or a debit that nothing stands before is applied as its instruction issues. -/
theorem tallySend_atOnce (h : Issues s cell w x) (ha : AtOnce x n y) (hn : n = tallyIndex x w) {c : Instr} {opc : Nat}
    (hck : x.st.ckpts = []) (hc : exec c s = done (issue s cell w opc (tallySendBody op))) (ho : fOpc w = opc) (hk : opc ≠ 0x28 ∧ opc ≠ 0x2A) :
    ∃ u, TallySite u x.slot n x.idx x.b.img y { issued x w with tallyOps := x.st.tallyOps ++ [tallyOpOf x w op true] } ∧
      exec c s = done (localAnswer (atIssue s x w) (tallyApply u x.slot n (.station x.idx) op (tallyOpOf x w op true).amount)) := by
  subst hn
  have hi := h.issueOf
  have hexec := tally_exec h hck hc ho hk fun _ => rfl
  refine ⟨_, (h.tallySite ha.tally).modStation fun st => { st with tallyOps := st.tallyOps ++ [tallyOpOf x w op true] }, ?_⟩
  have hfree (e : TallyWait) : orderFree (atIssue s x w).w.st x.idx y e = true := by
    rw [hi.st]
    simp [orderFree, savePages, ha.noAccess, ha.markers]
  have hall : (atIssue s x w).w.st.tallyOps.all (fun o => o.tally != tallyIndex x w || o.accepted) = true := by
    rw [hi.st]
    simp only [savePages, List.all_eq_true, Bool.or_eq_true, bne_iff_ne]
    exact fun o ho => .inl (ha.first o ho).1
  rw [hexec, ha.tally]
  simp only [hi.slot, hi.idx, hi.tallyWait, ha.home, hfree, hall, and_self, if_true]

/-- One not homed at its own station, or elsewhere, is under way. -/
theorem tallySend_sent (h : Issues s cell w x) (hy : x.b.tallies[n]? = some y) (hh : y.home ≠ some x.idx) (hn : n = tallyIndex x w) {c : Instr} {opc : Nat}
    (hck : x.st.ckpts = []) (hc : exec c s = done (issue s cell w opc (tallySendBody op))) (ho : fOpc w = opc) (hk : opc ≠ 0x28 ∧ opc ≠ 0x2A) :
    StationResult c s x (past { issued x w with tallyOps := x.st.tallyOps ++ [tallyOpOf x w op false] }) := by
  subst hn
  have hi := h.issueOf
  have hexec := tally_exec h hck hc ho hk fun _ => rfl
  rw [hy] at hexec
  simp only [hi.idx, hi.tallyWait, hh, false_and, if_false] at hexec
  exact stationResult_of_only hexec (hi.goOn h.at_.on.lt _)

end Sys2Proof.Machine

namespace Sys2Proof.Proofs
open Sys2Proof Sys2Proof.Machine

/-- Settles O26: a wait, an operation under way, one applied at once, and an index that names no tally. -/
theorem tallyInstructionsSendTheirOperation : Obligations.TallyInstructionsSendTheirOperation := by
  intro s cell w x y h hck n op waits sends invalid amount v own atOnce
  have hwaits {c : Instr} {opc : Nat} {k : TallyOp} (hc : exec c s = done (issue s cell w opc (tallyWaitBody k))) (ho : fOpc w = opc)
      (hk : opc ≠ 0x28 ∧ opc ≠ 0x2A) : waits c k := fun hy => by
    have hexec := tally_exec h hck hc ho hk fun _ => rfl
    rw [show x.b.tallies[tallyIndex x w]? = some y from hy] at hexec
    exact wait_stationResult h hexec
  have hinvalid {c : Instr} {opc : Nat} {body : Issue → State} {k : Issue → Nat → Tally → State} (hc : exec c s = done (issue s cell w opc body))
      (ho : fOpc w = opc) (hk : opc ≠ 0x28 ∧ opc ≠ 0x2A) (hb : ∀ i, body i = needTally i (k i)) : invalid c := fun hn => by
    have hexec := tally_exec h hck hc ho hk hb
    rw [show x.b.tallies[tallyIndex x w]? = none from hn] at hexec
    exact tally_invalid h rfl hexec
  have hamount (k : TallyOp) : (tallyOpOf x w k true).amount.toNat = amount := by
    show (BitVec.ofNat 32 amount).toNat = amount
    rw [BitVec.toNat_ofNat, Nat.mod_eq_of_lt (Nat.mod_lt _ (by decide))]
  have hnamed (ha : atOnce) : AtOnce x n y :=
    have ⟨hy, hhome, horph, hmark, htak, hwat, hacc, hfirst⟩ := ha
    ⟨hy, hhome, horph, hmark, htak, hwat, hacc, hfirst⟩
  have hown {c : Instr} {opc val status : Nat} {k : TallyOp} {r : TallyRec} (hc : exec c s = done (issue s cell w opc (tallySendBody k)))
      (ho : fOpc w = opc) (hk : opc ≠ 0x28 ∧ opc ≠ 0x2A) (hr : x.b.img.tallies[n]? = some r) (hs : status < 2 ^ 16) (ha : AtOnce x n y)
      (happ : ∀ {u st}, TallySite u x.slot n x.idx x.b.img y st → Applied (tallyApply u x.slot n (.station x.idx) k (tallyOpOf x w k true).amount)
        x.slot n x.idx x.b.img st val status) : own c val status := by
    obtain ⟨u, hu, hexec⟩ := tallySend_atOnce h ha rfl hck hc ho hk
    obtain ⟨y', hv, hsite⟩ := (happ hu).answeredAtOnce (fun o ho => (ha.first o ho).1) rfl rfl rfl
    have hl : ∀ o ∈ x.st.tallyOps, o.order ≠ x.st.order := fun o ho => (ha.first o ho).2
    refine ⟨fun hok => ?_, fun hrd h0 => ⟨_, hexec, localAnswer_faults h hsite rfl hl hrd h0 hs⟩⟩
    obtain ⟨st, b, htally, hst, hpc, hg⟩ := localAnswer_completes h hsite rfl hl hr hok
    exact ⟨_, st, b, y', r, hexec, htally, hv, hst, hpc, hg⟩
  refine ⟨fun ho => ?give, fun ho => ?take, fun ho => ?debit, fun ho => ?watch⟩
  case give =>
    refine ⟨fun hy hh => tallySend_sent h hy hh rfl hck rfl ho (by decide), hinvalid rfl ho (by decide) fun _ => rfl, fun r hr hcap ha => ⟨fun hf => ?_, fun hf => ?_⟩⟩
    · refine hown rfl ho (by decide) hr (by decide) (hnamed ha) fun hu => ?_
      have happ := tallyApply_give (n := (tallyOpOf x w .give true).amount) hu hr (hnamed ha).homed hcap (by rw [hamount]; exact hf) (hnamed ha).takers (hnamed ha).watchers
      rwa [hamount] at happ
    · refine hown rfl ho (by decide) hr (by decide) (hnamed ha) fun hu => ?_
      exact tallyApply_overflow hu hr (hnamed ha).homed (by rw [hamount]; exact hf)
  case take => exact ⟨hwaits rfl ho (by decide), hinvalid rfl ho (by decide) fun _ => rfl⟩
  case debit =>
    refine ⟨fun hy hh => tallySend_sent h hy hh rfl hck rfl ho (by decide), hinvalid rfl ho (by decide) fun _ => rfl, fun r hr ha => ⟨fun hf => ?_, fun hf => ?_⟩⟩
    · refine hown rfl ho (by decide) hr (by decide) (hnamed ha) fun hu => ?_
      have happ := tallyApply_debit (n := (tallyOpOf x w .debit true).amount) hu hr (hnamed ha).homed (by rw [hamount]; exact hf)
      rwa [hamount] at happ
    · refine hown rfl ho (by decide) hr (by decide) (hnamed ha) fun hu => ?_
      exact tallyApply_underflow hu hr (hnamed ha).homed (by rw [hamount]; exact hf)
  case watch => exact ⟨hwaits rfl ho (by decide), hinvalid rfl ho (by decide) fun _ => rfl⟩

end Sys2Proof.Proofs
end

section
/-!
SUPPORT. The state that refutes O27: an operation that its home cell has not accepted holds an answer already, so acceptance records none.
-/
namespace Sys2Proof.Machine
open Sys2Proof

/-- A debit of 1, not accepted, that holds an answer. -/
def answeredDebit : TallyWait := ⟨0, .debit, 1, 1, 0, 0, 0, false, some 5⟩

def answeredStation : Station := { waitingStation with tallyOps := [answeredDebit] }

def unitTally : Tally := ⟨1, 0, 0, 0, false, [], [], some 0, 0, []⟩

def unitTallyRec : TallyRec := ⟨0, 0, 0, 1, 0, 0⟩

def answeredBundle : Bundle :=
  { plainBundle [answeredStation] [waitingRecord] with
    tallies := [unitTally], img := { (plainBundle [answeredStation] [waitingRecord]).img with tallies := [unitTallyRec] } }

def answeredEarly : State := { State.reset with pl := { State.reset.pl with slots := [(0, answeredBundle)] } }

/-- The operation is accepted and applied; its answer stays the one that it held. -/
theorem exec_answeredEarly : ∃ t, exec (.tallyOpAccept 0 0 (.station 0)) answeredEarly = .next t ∧
    stationAt t 0 0 = some { answeredStation with tallyOps := [{ answeredDebit with accepted := true }] } := ⟨_, rfl, rfl⟩

end Sys2Proof.Machine

namespace Sys2Proof.Proofs
open Sys2Proof Sys2Proof.Machine

/-- Refutes O27: the debit of 1 from a tally of 1 is answered 0, but the station's operation keeps the answer 5 that it held before it was accepted;
the statement's premise speaks of accepted operations alone. -/
theorem not_tallyOperationsChangeTheValue : ¬ Obligations.TallyOperationsChangeTheValue := by
  rintro ⟨hhome, -, -⟩
  obtain ⟨hstation, -⟩ := hhome answeredEarly 0 0 answeredBundle unitTally unitTallyRec rfl rfl (by decide)
  obtain ⟨-, happlied⟩ := hstation 0 answeredStation answeredDebit rfl rfl rfl (by decide)
  obtain ⟨-, hdebit, -⟩ := happlied rfl
  obtain ⟨t, b, y, r, hexec, -, -, st, hst, o, ho, -, -, -, hanswer⟩ := (hdebit rfl).1 (by decide)
  obtain ⟨t', hexec', hst'⟩ := exec_answeredEarly
  obtain rfl : t' = t := Host.Outcome.next.inj (hexec'.symm.trans hexec)
  obtain rfl := Option.some.inj (hst.symm.trans hst')
  rw [List.mem_singleton.1 ho] at hanswer
  exact absurd hanswer (by decide)

end Sys2Proof.Proofs
end

section
/-!
SUPPORT. Epoch markers (R274 to R276), the hold of a bundle (R81), and waiters of a module not heard from (R278).
-/
namespace Sys2Proof.Machine
open Sys2Proof

variable {s t : State} {slot i : Nat} {b : Bundle} {y : Tally} {r : TallyRec}

/-! ### What a hold leaves of a tally -/

/-- What an epoch check finds and leaves of a tally is there still. -/
structure SameCounts (y z : Tally) : Prop where
  value : z.value = y.value
  markers : z.markers = y.markers
  overs : z.overs = y.overs
  under : z.under = y.under

theorem SameCounts.refl (y : Tally) : SameCounts y y := ⟨rfl, rfl, rfl, rfl⟩

/-- From `b` to `c` the image is the same, and each tally but for its waiters. -/
def TalliesStand (b c : Bundle) : Prop := c.img = b.img ∧ ∀ (i : Nat) (y : Tally), b.tallies[i]? = some y → ∃ z, c.tallies[i]? = some z ∧ SameCounts y z

theorem TalliesStand.refl (b : Bundle) : TalliesStand b b := ⟨rfl, fun _ y hy => ⟨y, hy, .refl y⟩⟩

theorem TalliesStand.trans {c d : Bundle} (h : TalliesStand b c) (k : TalliesStand c d) : TalliesStand b d := by
  refine ⟨k.1.trans h.1, fun i y hy => ?_⟩
  obtain ⟨z, hz, hyz⟩ := h.2 i y hy
  obtain ⟨v, hv, hzv⟩ := k.2 i z hz
  exact ⟨v, hv, hzv.value.trans hyz.value, hzv.markers.trans hyz.markers, hzv.overs.trans hyz.overs, hzv.under.trans hyz.under⟩

theorem talliesStand_leaveQueues (b : Bundle) (idx : Nat) : TalliesStand b (leaveQueues b idx) := by
  refine ⟨rfl, fun i y hy => ?_⟩
  simp only [leaveQueues, List.getElem?_map, hy, Option.map_some]
  exact ⟨_, rfl, rfl, rfl, rfl, rfl⟩

theorem talliesStand_holdOne (b : Bundle) (idx : Nat) : TalliesStand b (holdOne b idx) := by
  unfold holdOne
  split
  · exact .refl b
  · split
    · exact .refl b
    · split
      · exact ⟨rfl, fun _ y hy => ⟨y, hy, .refl y⟩⟩
      · exact talliesStand_leaveQueues _ idx

theorem talliesStand_holdAll (b : Bundle) : TalliesStand b (holdAll b) :=
  List.foldlRecOn _ _ (.refl b) fun _ h _ _ => h.trans (talliesStand_holdOne _ _)

/-! ### Waits that a hold ends -/

namespace FabricOnly

theorem stallCount (h : FabricOnly s t) (w : Where) : FabricOnly s (stallCount t w) := by
  unfold Machine.stallCount
  dsimp only
  split
  · exact h.bumpEv _ _ _
  · exact h.bumpEv _ _ _
  · exact h.bumpEv _ _ _
  · exact h

theorem stallAll (h : FabricOnly s t) (slot : Nat) : FabricOnly s (stallAll t slot) := by
  unfold Machine.stallAll
  split
  · exact h
  · refine List.foldlRecOn _ _ h fun u hu i _ => ?_
    split
    · exact hu.stallCount _
    · exact hu

theorem leaveRemote (h : FabricOnly s t) (slot : Nat) : FabricOnly s (leaveRemote t slot) := by
  unfold Machine.leaveRemote
  split
  · exact h
  · refine List.foldlRecOn _ _ h fun u hu st _ => ?_
    split
    · exact hu
    · split
      · exact hu
      · split
        · split
          · exact hu.sendMsg _ _ _
          · exact hu
        · exact hu

theorem regWord (h : FabricOnly s t) (r : RegRef) : regWord t r = regWord s r := regWord_of_regs h.regs h.ident r

theorem slotBundle (h : FabricOnly s t) (slot : Nat) : slotBundle t slot = slotBundle s slot := by
  rw [Machine.slotBundle, h.pl, Machine.slotBundle]

end FabricOnly

theorem slotBundle_of_pl (h : t.pl = s.pl) (n : Nat) : slotBundle t n = slotBundle s n := by
  rw [slotBundle, h, slotBundle]

/-- A bundle as HOLD leaves it. -/
def heldBundle (b : Bundle) : Bundle := { (holdAll b).dropFrames with st := .held }

theorem slotBundle_modBundle (h : slotBundle s slot = some b) (f : Bundle → Bundle) : slotBundle (modBundle s slot f) slot = some (f b) := by
  rw [modBundle_of h, slotBundle_setSlot]

theorem slotBundle_holdBundle (h : slotBundle s slot = some b) : slotBundle (holdBundle s slot) slot = some (heldBundle b) :=
  slotBundle_modBundle ((((FabricOnly.refl s).stallAll slot).leaveRemote slot).slotBundle slot ▸ h) _

theorem regWord_modBundle (s : State) (n : Nat) (f : Bundle → Bundle) (r : RegRef) : regWord (modBundle s n f) r = regWord s r :=
  regWord_of_regs (modBundle_regs s n f) (modBundle_ident s n f) r

theorem regWord_holdBundle (s : State) (slot : Nat) (r : RegRef) : regWord (holdBundle s slot) r = regWord s r :=
  (regWord_modBundle _ _ _ r).trans ((((FabricOnly.refl s).stallAll slot).leaveRemote slot).regWord r)

/-! ### The epoch check -/

/-- A tally with an overflow or an underflow counted. -/
def countFault (overs : Bool) (t : Tally) : Tally :=
  if overs then { t with overs := satInc 16 t.overs 1 } else { t with under := satInc 16 t.under 1 }

theorem tallyReport_bundle (h : tallyAt s slot i = some (b, y, r)) (overs : Bool) (n : Nat) (src : Option TallySrc) :
    slotBundle (tallyReport s slot i overs n src) slot = some { b with tallies := modAt b.tallies i (countFault overs) } := by
  obtain ⟨hb, -, -⟩ := tallyAt_iff.1 h
  have hmod : slotBundle (modTally s slot i (countFault overs)) slot = some { b with tallies := modAt b.tallies i (countFault overs) } :=
    slotBundle_modBundle hb _
  have hevent (u : State) (o : Bool) : (if o = true then setEvent u F.talEventOverflow else setEvent u F.talEventUnderflow).pl = u.pl := by
    split
    · rw [setEvent_pl]
    · rw [setEvent_pl]
  rw [tallyReport, h]
  dsimp only
  rw [slotBundle_report, slotBundle, hevent]
  exact hmod

/-- A register that neither counts faults of tallies nor those of the recorder. -/
theorem regWord_tallyReport (s : State) (slot i : Nat) (overs : Bool) (n : Nat) (src : Option TallySrc) {r : RegRef}
    (hf : r.addr ≠ (⟨.redFault, 0, 0, 0⟩ : RegRef).addr) (he : r.addr ≠ (⟨.talEvent, 0, 0, 0⟩ : RegRef).addr) :
    regWord (tallyReport s slot i overs n src) r = regWord s r := by
  have hmod (f : Tally → Tally) : regWord (modTally s slot i f) r = regWord s r := regWord_modBundle s slot _ r
  unfold tallyReport
  split
  · rfl
  · extract_lets who h s1 s2
    have h1 : regWord s1 r = regWord s r := hmod _
    have h2 : regWord s2 r = regWord s1 r := by
      dsimp only [s2]
      split
      · exact regWord_setRegWord_other s1 he _
      · exact regWord_setRegWord_other s1 he _
    rw [regWord_report _ _ _ _ _ hf, h2, h1]

/-- The bundle of a tally whose epoch check failed (R276). -/
theorem epochHold_bundle (h : slotBundle s slot = some b) : ∃ c, slotBundle (epochHold s slot) slot = some c ∧ TalliesStand b c ∧
    (fld s F.talCtlEpochAction = 1 → b.st = .running → c.st = .held) ∧ (fld s F.talCtlEpochAction = 0 → c.st = b.st) := by
  rw [epochHold, h]
  dsimp only
  by_cases hhold : fld s F.talCtlEpochAction = 1 ∧ (b.st = .running ∨ b.st = .evicting)
  · rw [if_pos hhold]
    exact ⟨_, slotBundle_holdBundle h, talliesStand_holdAll b, fun _ _ => rfl, fun h0 => absurd (h0.symm.trans hhold.1) (by decide)⟩
  · rw [if_neg hhold]
    exact ⟨b, h, .refl b, fun h1 hr => absurd ⟨h1, .inl hr⟩ hhold, fun _ => rfl⟩

theorem regWord_epochHold (s : State) (slot : Nat) (r : RegRef) : regWord (epochHold s slot) r = regWord s r := by
  unfold epochHold
  split
  · split
    · exact regWord_holdBundle s slot r
    · rfl
  · rfl

theorem fld_of_regWord {f : Fld} (h : regWord t ⟨f.reg, 0, 0, 0⟩ = regWord s ⟨f.reg, 0, 0, 0⟩) : fld t f = fld s f := by
  rw [fld, fldAt, h, fld, fldAt]

/-- A tally's oldest epoch marker taken, its value reported as wrong. -/
def epochReported (s : State) (slot i : Nat) (ms : List (Option (Nat × Nat))) (value epoch : Nat) : State :=
  setEvent (tallyReport (modTally s slot i fun t => { t with markers := ms }) slot i (decide (epoch < value))
    (0x80000000 + min (if value < epoch then epoch - value else value - epoch) 0x7FFFFFFF) none) F.talEventEpoch

/-- A register that a wrong value at an epoch marker leaves as it was. -/
theorem regWord_epochReported (ms : List (Option (Nat × Nat))) (value epoch : Nat) {q : RegRef} (hf : q.addr ≠ (⟨.redFault, 0, 0, 0⟩ : RegRef).addr)
    (he : q.addr ≠ (⟨.talEvent, 0, 0, 0⟩ : RegRef).addr) : regWord (epochReported s slot i ms value epoch) q = regWord s q :=
  (regWord_setRegWord_other _ he _).trans ((regWord_tallyReport _ _ _ _ _ _ hf he).trans (regWord_modBundle _ _ _ _))

theorem fld_epochReported_event (ms : List (Option (Nat × Nat))) (value epoch : Nat) : fld (epochReported s slot i ms value epoch) F.talEventEpoch = 1 :=
  fldAt_setFldAt_same _ (by decide) _ _ _ _

theorem countFault_same (o : Bool) (y : Tally) (ms : List (Option (Nat × Nat))) :
    (countFault o { y with markers := ms }).value = y.value ∧ (countFault o { y with markers := ms }).markers = ms ∧
      (countFault o { y with markers := ms }).overs = (if o then min (y.overs + 1) 0xFFFF else y.overs) ∧
      (countFault o { y with markers := ms }).under = (if o then y.under else min (y.under + 1) 0xFFFF) := by
  cases o <;> exact ⟨rfl, rfl, rfl, rfl⟩

/-! ### Waiters -/

theorem SMap.find_mapSnd {α : Type} (f : α → α) (m : SMap α) (k : Nat) : SMap.find (m.map fun e => (e.1, f e.2)) k = (SMap.find m k).map f := by
  induction m with
  | nil => rfl
  | cons e m ih =>
    by_cases hk : k = e.1
    · simp [SMap.find, hk]
    · simp [SMap.find, hk, ih]

/-- Whether a waiter is not one of a module's. -/
def otherModule (pc : Nat) (w : Waiter) : Bool :=
  match w.src with
  | .remote p _ _ _ => p != pc
  | .station _ => true

/-- A bundle's tallies without the waiters of a module. -/
def dropModule (pc : Nat) (b : Bundle) : Bundle :=
  { b with tallies := b.tallies.map fun t => { t with takers := t.takers.filter (otherModule pc), watchers := t.watchers.filter (otherModule pc) } }

theorem exec_tallyHomeWaiterExpire (s : State) (pc : Nat) : exec (.tallyHomeWaiterExpire pc) s =
    .next { s with pl := { s.pl with slots := s.pl.slots.map fun e => (e.1, dropModule pc e.2) } } := rfl

theorem otherModule_iff {pc : Nat} {w : Waiter} : otherModule pc w = true ↔ ∀ tag op n, w.src ≠ .remote pc tag op n := by
  unfold otherModule
  cases hw : w.src with
  | station idx => simp
  | remote p tag op n =>
    rw [bne_iff_ne]
    constructor
    · rintro hp tag' op' n' he
      cases he
      exact hp rfl
    · rintro h rfl
      exact h tag op n rfl

end Sys2Proof.Machine

namespace Sys2Proof.Proofs
open Sys2Proof Sys2Proof.Machine

/-- Settles O29: the epoch check by its outcome, and the waiters of one module. -/
theorem epochMarkersAndExpiredWaiters : Obligations.EpochMarkersAndExpiredWaiters := by
  refine ⟨?epoch, ?expire⟩
  case epoch =>
    intro s slot i b y r m ms hat hm hfree
    obtain ⟨hb, hy, hr⟩ := tallyAt_iff.1 hat
    have hexec : exec (.tallyEpochMarker slot i) s = execTallyEpochMarker slot i s := rfl
    rw [hexec, execTallyEpochMarker, hat]
    simp only [hm, hfree, Bool.true_eq_false, if_false]
    refine ⟨fun he => by rw [if_pos he]; rfl, fun hne => ?_⟩
    rw [if_neg hne]
    have hmod : tallyAt (modTally s slot i fun t => { t with markers := ms }) slot i = some (_, { y with markers := ms }, r) :=
      tallyAt_iff.2 ⟨slotBundle_modBundle hb _, by simp [getElem?_modAt, hy], hr⟩
    have hrep : slotBundle (epochReported s slot i ms y.value.toNat r.epoch) slot = some _ :=
      (slotBundle_of_pl (setEvent_pl _ _) _).trans (tallyReport_bundle hmod _ _ _)
    obtain ⟨c, hc, ⟨himg, htal⟩, hheld, hstays⟩ := epochHold_bundle hrep
    obtain ⟨z, hz, hsame⟩ := htal i (countFault (decide (r.epoch < y.value.toNat)) { y with markers := ms }) (by simp [getElem?_modAt, hy])
    obtain ⟨hvalue, hmarkers, hovers, hunder⟩ := countFault_same (decide (r.epoch < y.value.toNat)) y ms
    rw [fld_of_regWord (regWord_epochReported ms _ _ (by decide) (by decide))] at hheld hstays
    refine ⟨_, c, z, r, rfl, tallyAt_iff.2 ⟨hc, hz, himg ▸ hr⟩, hsame.value.trans hvalue, hsame.markers.trans hmarkers, ?_, hheld, hstays, ?_, ?_⟩
    · exact (fld_of_regWord (regWord_epochHold _ _ _)).trans (fld_epochReported_event ms _ _)
    · rw [hsame.overs, hovers]; simp only [decide_eq_true_eq]
    · rw [hsame.under, hunder]; simp only [decide_eq_true_eq]
  case expire =>
    intro s pc
    refine ⟨_, exec_tallyHomeWaiterExpire s pc, fun slot b i y hb hy => ?_⟩
    have hkeep (l : List Waiter) (v : Waiter) : v ∈ l.filter (otherModule pc) ↔ v ∈ l ∧ ∀ tag op n, v.src ≠ .remote pc tag op n := by
      rw [List.mem_filter, otherModule_iff]
    refine ⟨_, { y with takers := y.takers.filter (otherModule pc), watchers := y.watchers.filter (otherModule pc) },
      (SMap.find_mapSnd (dropModule pc) _ _).trans (congrArg (Option.map _) hb), ?_, rfl, hkeep _, hkeep _⟩
    exact (List.getElem?_map ..).trans (congrArg (Option.map _) hy)

end Sys2Proof.Proofs
end

section
/-!
SUPPORT. The status of an operation back at its station (R161), and waits on another module that are lost (R278, R279).
-/
namespace Sys2Proof.Machine
open Sys2Proof

variable {s t : State} {cell slot i idx : Nat} {x : Where} {b : Bundle} {st : Station} {y : Tally} {e : TallyWait}

/-! ### The station on a cell, in a bundle changed otherwise -/

/-- What `stationOn` finds in one bundle. -/
def placedIn (n : Nat) (b : Bundle) (cell : Nat) (p : Nat × Station) : Option Where :=
  if p.2.cell = some cell then
    match b.img.stations[p.1]? with
    | some sr => some ⟨n, p.1, b, p.2, sr⟩
    | none => none
  else none

theorem stationOn_eq (s : State) (cell : Nat) :
    stationOn s cell = s.pl.slots.findSome? fun e => (withIdx e.2.stations).findSome? (placedIn e.1 e.2 cell) := rfl

theorem placedIn_congr {n k : Nat} {b c : Bundle} {a a' : Station} (himg : c.img = b.img) (ha : a'.cell = a.cell) :
    placedIn n c cell (k, a') = (placedIn n b cell (k, a)).map fun v => { v with b := c, st := a' } := by
  unfold placedIn
  rw [himg]
  dsimp only
  rw [ha]
  split
  · cases b.img.stations[k]? <;> rfl
  · rfl

theorem idx_of_placedIn {n k : Nat} {a : Station} (h : placedIn n b cell (k, a) = some x) : x.idx = k ∧ x.slot = n ∧ x.b = b := by
  unfold placedIn at h
  split at h
  · split at h
    · cases h
      exact ⟨rfl, rfl, rfl⟩
    · cases h
  · cases h

/-- In a bundle with the same image and each station on its cell, the station on a cell has the same index. -/
theorem findSome?_placedIn_zip {n : Nat} {b c : Bundle} (himg : c.img = b.img) {l m : List Station} (hm : m.map (·.cell) = l.map (·.cell)) (k : Nat)
    (h : ((List.range' k l.length).zip l).findSome? (placedIn n b cell) = some x) :
    ∃ st, m[x.idx - k]? = some st ∧ k ≤ x.idx ∧ x.slot = n ∧
      ((List.range' k m.length).zip m).findSome? (placedIn n c cell) = some { x with b := c, st := st } := by
  induction l generalizing k m with
  | nil => simp at h
  | cons a l ih =>
    obtain ⟨a', m, rfl⟩ : ∃ a' m', m = a' :: m' := by
      cases m with
      | nil => simp at hm
      | cons a' m => exact ⟨a', m, rfl⟩
    simp only [List.map_cons, List.cons.injEq] at hm
    obtain ⟨ha, hm⟩ := hm
    simp only [List.length_cons, List.range'_succ, List.zip_cons_cons, List.findSome?_cons, placedIn_congr himg ha] at h ⊢
    cases hp : placedIn n b cell (k, a) with
    | some v =>
      rw [hp] at h
      obtain rfl := Option.some.inj h
      obtain ⟨hidx, hslot, -⟩ := idx_of_placedIn hp
      exact ⟨a', by simp [hidx], hidx.ge, hslot, rfl⟩
    | none =>
      rw [hp] at h
      obtain ⟨st, hst, hk, hslot, hfind⟩ := ih hm (k + 1) h
      refine ⟨st, ?_, by omega, hslot, hfind⟩
      rw [show x.idx - k = (x.idx - (k + 1)) + 1 by omega]
      exact hst

/-- What `stationOn` finds in a list of bundles where one is listed anew. -/
theorem findSome?_insert {β : Type} {f : Nat × Bundle → Option β} {slots : SMap Bundle} {n : Nat} {c : Bundle} {v w : β} (hc : f (n, c) = some w)
    (hf : slots.findSome? f = some v) (hn : ∀ k b, f (k, b) = some v → k = n) : (SMap.insert slots n c).findSome? f = some w := by
  induction slots with
  | nil => simp at hf
  | cons e m ih =>
    obtain ⟨k, b⟩ := e
    unfold SMap.insert
    split
    · rw [List.findSome?_cons, hc]
    · split
      · rw [List.findSome?_cons, hc]
      · rename_i hne
        have hnone : f (k, b) = none := by
          cases hfk : f (k, b) with
          | none => rfl
          | some v' =>
            rw [List.findSome?_cons, hfk] at hf
            obtain rfl := Option.some.inj hf
            exact absurd (hn k b hfk).symm hne
        rw [List.findSome?_cons, hnone] at hf ⊢
        exact ih hf

/-- A bundle replaced by one with the same image and each station on its cell: the station on a cell of it is the one at its index. -/
theorem stationOn_setSlot {c : Bundle} (h : stationOn s cell = some x) (himg : c.img = x.b.img) (hm : c.stations.map (·.cell) = x.b.stations.map (·.cell)) :
    ∃ st, c.stations[x.idx]? = some st ∧ stationOn (setSlot s x.slot c) cell = some { x with b := c, st := st } := by
  have hfound {k : Nat} {b : Bundle} (hk : (withIdx b.stations).findSome? (placedIn k b cell) = some x) : k = x.slot ∧ b = x.b := by
    obtain ⟨p, -, hp⟩ := List.exists_of_findSome?_eq_some hk
    obtain ⟨-, hslot, hb⟩ := idx_of_placedIn hp
    exact ⟨hslot.symm, hb.symm⟩
  rw [stationOn_eq] at h
  obtain ⟨⟨k, b⟩, -, he⟩ := List.exists_of_findSome?_eq_some h
  obtain ⟨rfl, rfl⟩ := hfound he
  rw [withIdx, List.range_eq_range'] at he
  obtain ⟨st, hst, -, -, hc⟩ := findSome?_placedIn_zip himg hm 0 he
  rw [← List.range_eq_range'] at hc
  exact ⟨st, hst, findSome?_insert hc h fun k b hk => (hfound hk).1⟩

/-! ### Answers to a station's operations -/

/-- An operation but for its answer. -/
def noAnswer (e : TallyWait) : TallyWait := { e with answer := none }

theorem answerIn_noAnswer (i status : Nat) (l : List TallyWait) : (answerIn i status l).map noAnswer = l.map noAnswer := by
  induction l with
  | nil => rfl
  | cons e l ih =>
    unfold answerIn
    split
    · rfl
    · rw [List.map_cons, ih, List.map_cons]

/-- A tally orphaned, no waiter left (R279). -/
def orphanedTally (t : Tally) : Tally := { t with orphaned := true, takers := [], watchers := [], markers := [] }

/-- A station but for the answers to its operations. -/
def noAnswers (st : Station) : Station := { st with tallyOps := st.tallyOps.map noAnswer }

/-- The state of a station on a cell and of a tally of its bundle, the station changed in answers to its operations alone. -/
def AnswerSite (t : State) (cell : Nat) (x : Where) (i : Nat) (y : Tally) : Prop :=
  ∃ b st, stationOn t cell = some { x with b := b, st := st } ∧ slotBundle t x.slot = some b ∧ b.stations[x.idx]? = some st ∧ b.img = x.b.img ∧
    b.tallies[i]? = some y ∧ noAnswers st = noAnswers x.st

namespace AnswerSite

theorem of_pl (h : AnswerSite s cell x i y) (hp : t.pl = s.pl) : AnswerSite t cell x i y := by
  simpa only [AnswerSite, stationOn, slotBundle, hp] using h

/-- The bundle changed so that its image and its cells stay, and its stations but for answers. -/
theorem modBundle (h : AnswerSite s cell x i y) {f : Bundle → Bundle} {g : Tally → Tally} (himg : ∀ b, (f b).img = b.img)
    (hst : ∀ b, (f b).stations.map noAnswers = b.stations.map noAnswers) (hy : ∀ b : Bundle, b.tallies[i]? = some y → (f b).tallies[i]? = some (g y)) :
    AnswerSite (modBundle s x.slot f) cell x i (g y) := by
  obtain ⟨b, st, hon, hb, hbst, hbimg, hby, hsame⟩ := h
  have hcells : (f b).stations.map (·.cell) = b.stations.map (·.cell) := by
    have hmap := congrArg (List.map (·.cell)) (hst b)
    rw [List.map_map, List.map_map] at hmap
    exact hmap
  obtain ⟨st', hst', hon'⟩ := stationOn_setSlot hon (himg b) hcells
  rw [modBundle_of hb]
  refine ⟨f b, st', hon', slotBundle_setSlot _ _ _, hst', (himg b).trans hbimg, hy b hby, ?_⟩
  have hat := congrArg (·[x.idx]?) (hst b)
  simp only [List.getElem?_map, hbst, show (f b).stations[x.idx]? = some st' from hst', Option.map_some, Option.some.injEq] at hat
  exact hat.trans hsame

theorem modTally (h : AnswerSite s cell x i y) (g : Tally → Tally) : AnswerSite (modTally s x.slot i g) cell x i (g y) :=
  h.modBundle (fun _ => rfl) (fun _ => rfl) fun b hb => by simp [getElem?_modAt, hb]

theorem answer (h : AnswerSite s cell x i y) (src : TallySrc) (status : Nat) : AnswerSite (answer s x.slot i src status) cell x i y := by
  cases src with
  | remote pc tag op n => exact h.of_pl (sendMsg_pl _ _ _ _)
  | station idx =>
    refine h.modBundle (g := id) (fun _ => rfl) (fun b => ?_) fun _ hb => hb
    refine List.ext_getElem? fun j => ?_
    simp only [List.getElem?_map, getElem?_modAt]
    split
    · rename_i hj
      rw [hj, Option.map_map]
      refine congrArg (Option.map · _) (funext fun st => ?_)
      simp only [Function.comp, noAnswers, answerIn_noAnswer]
    · rfl

theorem loseRemote (h : AnswerSite s cell x i y) (j : Nat) : AnswerSite (Machine.modBundle s x.slot fun b => loseRemote b j) cell x i y := by
  refine h.modBundle (g := id) (fun _ => rfl) (fun b => ?_) fun _ hb => hb
  simp only [Machine.loseRemote, List.map_map]
  refine List.map_congr_left fun st _ => ?_
  simp only [Function.comp, noAnswers, List.map_map]
  congr 1
  refine List.map_congr_left fun e _ => ?_
  simp only [Function.comp]
  split <;> rfl

/-- A tally homed on another module becomes orphaned. -/
theorem orphanTally (h : AnswerSite s cell x i y) (ho : y.orphaned = false) (hh : y.home = none) :
    AnswerSite (orphanTally s x.slot i) cell x i (orphanedTally y) := by
  obtain ⟨b, -, -, hb, -, -, hby, -⟩ := id h
  unfold Machine.orphanTally
  rw [hb, Option.bind_some, hby]
  dsimp only
  rw [if_neg (by simp [ho])]
  simp only [hh, Bool.false_eq_true, if_false, Option.isSome_none]
  refine AnswerSite.of_pl ?_ (setEvent_pl _ _)
  refine (AnswerSite.loseRemote (y := y) ?_ i).modTally orphanedTally
  exact List.foldlRecOn (motive := fun u => AnswerSite u cell x i y) _ _ h fun _ hu v _ => hu.answer v.src C.ownerLost

end AnswerSite

/-! ### The status returned -/

theorem setG_tallyOps (st : Station) (l : List TallyWait) (n : Nat) (v : DWord) : setG { st with tallyOps := l } n v = { setG st n v with tallyOps := l } := by
  unfold Machine.setG
  split <;> rfl

theorem deferred_setG (st : Station) (n : Nat) (v : DWord) : (setG st n v).deferred = st.deferred := by
  unfold Machine.setG
  split <;> rfl

theorem ckpts_setG (st : Station) (n : Nat) (v : DWord) : (setG st n v).ckpts = st.ckpts := by
  unfold Machine.setG
  split <;> rfl

/-- A station whose wait has ended with a status, written to gd. -/
def waitEnded (rd status : Nat) (st : Station) : Station := past { setG st rd (BitVec.ofNat 64 status) with waiting := .no }

theorem slotBundle_modStation {b : Bundle} (h : slotBundle s slot = some b) (idx : Nat) (f : Station → Station) :
    slotBundle (modStation s slot idx f) slot = some { b with stations := modAt b.stations idx f } := slotBundle_modBundle h _

/-- The status of a wait, written to gd: the station goes on. -/
theorem deliverStatus_wait {v : Where} {b : Bundle} {st : Station} (hb : slotBundle s v.slot = some b) (hst : b.stations[v.idx]? = some st)
    (hd : st.deferred = []) {status : Nat} (hw : e.isWait = true) (hrd : ¬ (e.rd = 0 ∧ status ≠ 0)) :
    deliverStatus s v e status = modStation (modStation s v.slot v.idx (dropOp e)) v.slot v.idx
      (waitEnded e.rd status) := by
  have hlast := slotBundle_modStation (slotBundle_modStation hb v.idx (dropOp e)) v.idx (waitEnded e.rd status)
  have hst' : (modAt (modAt b.stations v.idx (dropOp e)) v.idx (waitEnded e.rd status))[v.idx]? = some (waitEnded e.rd status (dropOp e st)) := by
    simp [getElem?_modAt, hst]
  rw [deliverStatus, if_pos hw, if_neg hrd]
  exact settleDeferred_of_none hlast hst' ((deferred_setG _ _ _).trans hd)

/-- The status of an operation that its station does not wait for, with no checkpoint to keep it in. -/
theorem deliverStatus_send {v : Where} {status : Nat} (hw : e.isWait = false) (hrd : ¬ (e.rd = 0 ∧ status ≠ 0)) :
    deliverStatus s v e status = modStation (modStation s v.slot v.idx (dropOp e)) v.slot v.idx (landG e.order e.rd (BitVec.ofNat 64 status)) := by
  rw [deliverStatus, if_neg (by simp [hw]), if_neg hrd]
  rfl

theorem landG_of_noCkpts {st : Station} (h : st.ckpts = []) (order rd : Nat) (v : DWord) : landG order rd v st = setG st rd v := by
  have hck : (setG st rd v).ckpts = [] := (ckpts_setG st rd v).trans h
  rw [landG]
  dsimp only
  rw [hck, List.map_nil, ← hck]

/-- The operation of a lost wait, found by its place in program order among operations changed in answers alone. -/
theorem find_order {l m : List TallyWait} (hm : m.map noAnswer = l.map noAnswer) (he : e ∈ l) (hu : ∀ o ∈ l, o.order = e.order → o = e) :
    ∃ e', m.find? (fun o => decide (o.order = e.order)) = some e' ∧ noAnswer e' = noAnswer e := by
  have hmem : noAnswer e ∈ m.map noAnswer := hm ▸ List.mem_map_of_mem he
  obtain ⟨o, ho, hoe⟩ := List.mem_map.1 hmem
  have hsome : (m.find? (fun o => decide (o.order = e.order))).isSome = true := by
    rw [List.find?_isSome]
    exact ⟨o, ho, decide_eq_true (congrArg TallyWait.order hoe :)⟩
  obtain ⟨e', he'⟩ := Option.isSome_iff_exists.1 hsome
  refine ⟨e', he', ?_⟩
  have horder : e'.order = e.order := by simpa using List.find?_some he'
  have hback : noAnswer e' ∈ l.map noAnswer := hm ▸ List.mem_map_of_mem (List.mem_of_find?_eq_some he')
  obtain ⟨a, ha, hae⟩ := List.mem_map.1 hback
  rw [← hae, hu a ha ((congrArg TallyWait.order hae :).trans horder)]

/-- What a station waits for on another module is one of its waits, and the tally's record is its bundle's. -/
theorem remoteWait_some {r : TallyRec} (h : remoteWait x = some (e, y, r)) :
    e ∈ x.st.tallyOps ∧ e.isWait = true ∧ x.b.tallies[e.tally]? = some y ∧ x.b.img.tallies[e.tally]? = some r ∧ y.home = none := by
  unfold remoteWait at h
  split at h
  · split at h
    · cases h
    · rename_i hfind
      split at h
      · rename_i hy hr
        split at h
        · rename_i hhome
          cases h
          have hcond := List.find?_some hfind
          simp only [Bool.and_eq_true] at hcond
          obtain ⟨⟨hw, -⟩, -⟩ := hcond
          exact ⟨List.mem_of_find?_eq_some hfind, hw, hy, hr, Option.isNone_iff_eq_none.1 hhome⟩
        · cases h
      · cases h
  · cases h

theorem OnCell.answerSite (h : OnCell s cell x) (hy : x.b.tallies[i]? = some y) : AnswerSite s cell x i y :=
  ⟨x.b, x.st, h.on, h.slot, h.station, rfl, hy, rfl⟩

/-- The wait that is lost ends with OWNER_LOST, its record orphaned. -/
theorem remoteWaitLost_shows {r : TallyRec} (h : OnCell s cell x) (hwait : remoteWait x = some (e, y, r)) (ho : y.orphaned = false) (hd : x.st.deferred = [])
    (hrd : e.rd ≠ 0) (hu : ∀ o ∈ x.st.tallyOps, o.order = e.order → o = e) :
    ∃ b st, tallyAt (remoteWaitLost s cell) x.slot e.tally = some (b, orphanedTally y, r) ∧ stationAt (remoteWaitLost s cell) x.slot x.idx = some st ∧
      getG st e.rd = BitVec.ofNat 64 0x0232 ∧ st.waiting = .no ∧ st.pc = x.st.pc + 4 := by
  obtain ⟨hmem, hw, hy, hr, hhome⟩ := remoteWait_some hwait
  obtain ⟨b, st, hon, hb, hst, himg, hby, hsame⟩ := (h.answerSite hy).orphanTally ho hhome
  obtain ⟨e', hfind, he⟩ := find_order (congrArg Station.tallyOps hsame) hmem hu
  have hw' : e'.isWait = true := (congrArg TallyWait.isWait he : _).trans hw
  have hrd' : e'.rd = e.rd := (congrArg TallyWait.rd he :)
  have hdef : st.deferred = [] := (congrArg Station.deferred hsame :).trans hd
  have hpc : st.pc = x.st.pc := (congrArg Station.pc hsame :)
  have hdeliver := deliverStatus_wait (v := { x with b := b, st := st }) (e := e') hb hst hdef (status := C.ownerLost) hw' (by simp [hrd', hrd])
  have heq : remoteWaitLost s cell = deliverStatus (orphanTally s x.slot e.tally) { x with b := b, st := st } e' C.ownerLost := by
    rw [remoteWaitLost, h.on]
    dsimp only
    rw [hwait]
    dsimp only
    rw [hon]
    dsimp only
    rw [hfind]
  have hsite : TallySite (orphanTally s x.slot e.tally) x.slot e.tally x.idx x.b.img (orphanedTally y) st := ⟨b, hb, himg, hby, hst⟩
  have hlast := (hsite.modStation (dropOp e')).modStation (waitEnded e'.rd C.ownerLost)
  rw [heq, hdeliver]
  obtain ⟨b', hat, -⟩ := hlast.tallyAt hr
  refine ⟨b', _, hat, hlast.stationAt, ?_, rfl, ?_⟩
  · rw [hrd']
    exact (getG_setG _ _ _ _).trans (by simp [hrd]; rfl)
  · exact (congrArg (· + 4) (pc_setG _ _ _)).trans (congrArg (· + 4) hpc)

end Sys2Proof.Machine

namespace Sys2Proof.Proofs
open Sys2Proof Sys2Proof.Machine

/-- Settles O28: the status back at its station, the probe of a wait on another module, and the wait that is lost. -/
theorem tallyStatusAndLostWaits : Obligations.TallyStatusAndLostWaits := by
  refine ⟨?status, ?lost⟩
  case status =>
    intro s cell status a x e h hret hd hrd
    have hno : ¬ (e.rd = 0 ∧ a ≠ 0) := fun ⟨h0, ha⟩ => hrd.elim (· h0) ha
    have hexec : exec (.tallyStatusReturn cell status) s = done (deliverStatus s x e a) := by
      show execTallyStatusReturn cell status s = _
      simp only [execTallyStatusReturn, h.on, hret]
    have honly (f : Station → Station) := ((OnlyStation.start h (dropOp e)).mod h.lt f)
    refine ⟨fun hw => stationResult_of_only hexec ?_, fun hw hck => stationResult_of_only hexec ?_⟩
    · rw [deliverStatus_wait h.slot h.station hd hw hno]
      have hgo := honly (waitEnded e.rd a)
      simp only [waitEnded, dropOp, setG_tallyOps] at hgo
      exact hgo
    · rw [deliverStatus_send hw hno]
      have hgo := honly (landG e.order e.rd (BitVec.ofNat 64 a))
      rw [landG_of_noCkpts (st := dropOp e x.st) hck, dropOp, setG_tallyOps] at hgo
      exact hgo
  case lost =>
    intro s cell reason x e y r h hwait hd hrd hrun ho hone horder
    refine ⟨fun hentry hfm => ?probe, ?timeout⟩
    case probe =>
      show execTallyRemoteProbe cell s = _
      simp only [execTallyRemoteProbe, h.on, Option.bind_some, hwait, hentry, hfm, Bool.not_false, Bool.and_self, if_true]
      rfl
    case timeout =>
      obtain ⟨b, st, hat, hst, hg, hw, hpc⟩ := remoteWaitLost_shows h hwait ho hd hrd horder
      exact ⟨_, b, _, r, st, rfl, hat, rfl, hst, hg, hw, hpc⟩

end Sys2Proof.Proofs
end

section
/-!
SUPPORT. The bytes of a staging buffer under writes (R460), and the send rate (R459).
-/
namespace Sys2Proof.Machine
open Sys2Proof

variable {s : State}

/-- A run of bytes written into a sparse map. -/
theorem getD_foldl_bytes (m : SMap Byte) (off : Nat) (data : List Byte) (i : Nat) :
    SMap.getD ((withIdx data).foldl (fun m p => SMap.setD m (off + p.1) p.2 0#8) m) i 0#8 =
      if off ≤ i ∧ i < off + data.length then (data[i - off]?).getD 0#8 else SMap.getD m i 0#8 := by
  induction data using List.reverseRecOn with
  | nil => simp [withIdx]
  | append_singleton data d ih =>
    have hidx : withIdx (data ++ [d]) = withIdx data ++ [(data.length, d)] := by
      rw [withIdx, List.length_append, List.length_singleton, List.range_succ, List.zip_append (by simp)]
      rfl
    rw [hidx, List.foldl_concat, SMap.getD_setD, ih]
    simp only [List.length_append, List.length_singleton]
    by_cases hlast : i = off + data.length
    · simp [hlast]
    · rw [if_neg hlast]
      by_cases hin : off ≤ i ∧ i < off + data.length
      · rw [if_pos hin, if_pos (by omega), List.getElem?_append_left (by omega)]
      · rw [if_neg hin, if_neg (by omega)]

/-- A staging buffer with a run of bytes written. -/
def Stage.write (g : Stage) (off : Nat) (data : List Byte) : Stage :=
  { g with bytes := (withIdx data).foldl (fun m p => SMap.setD m (off + p.1) p.2 0#8) g.bytes }

theorem getElem?_data {g : Stage} {i : Nat} (hi : i < g.len) : g.data[i]? = some (SMap.getD g.bytes i 0#8) := by
  simp [Stage.data, hi]

theorem getElem?_data_write (g : Stage) {off i : Nat} (data : List Byte) (hi : i < g.len) :
    (g.write off data).data[i]? = if off ≤ i ∧ i < off + data.length then data[i - off]? else g.data[i]? := by
  rw [getElem?_data (g := g.write off data) hi, Stage.write, getD_foldl_bytes, getElem?_data hi]
  split
  · rw [List.getElem?_eq_getElem (by omega), Option.getD_some]
  · rfl

theorem roceCnpReceived_exec (s : State) : exec .roceCnpReceived s =
    .next { s with roceRate := (takeFree s).1.toNat % max 1 s.roceRate, free := s.free + 1 } := rfl

end Sys2Proof.Machine

namespace Sys2Proof.Proofs
open Sys2Proof Sys2Proof.Machine

/-- Settles O41: a write under its RKEY and one without, and the lower rate. -/
theorem hostWritesAndRate : Obligations.HostWritesAndRate := by
  refine ⟨?write, ?rate⟩
  case write =>
    intro s k stage off data g ha hk hid hlen
    refine ⟨⟨_, g.write off data, rfl, ?_, rfl, fun i hi => getElem?_data_write g data hi⟩, rfl⟩
    simp only [ha, Bool.and_self, if_true, List.getElem?_map, hk, Option.map_some]
    rw [if_pos ⟨hid, hlen⟩]
    rfl
  case rate =>
    intro s hs
    refine ⟨_, ?_, roceCnpReceived_exec s⟩
    exact (Nat.mod_lt _ (by omega)).trans_le (by omega)

end Sys2Proof.Proofs
end

section
/-!
SUPPORT. A Counter request that is served at once (R449 to R453): the service runs on the serving state, and what it answers is sent.
-/
namespace Sys2Proof.Machine
open Sys2Proof

variable {s t u : State} {h : CtrHdr} {code : Nat} {b : List Byte} {x : Session}

/-! ### Sessions -/

theorem findSession_id {n : Nat} (hx : findSession s n = some x) : x.id = n := by
  simpa using List.find?_some hx

/-- A session changed is found so by its number. -/
theorem findSession_modSession {n : Nat} (hx : findSession s n = some x) {f : Session → Session} (hf : ∀ y, (f y).id = y.id) :
    findSession (modSession s n f) n = some (f x) := by
  have hid := findSession_id hx
  have hsame : ((fun y : Session => y.id == n) ∘ fun y => if y.id = n then f y else y) = fun y => y.id == n := by
    funext y
    simp only [Function.comp]
    split
    · rw [hf]
    · rfl
  rw [findSession, modSession, List.find?_map, hsame, show s.sessions.find? (fun y => y.id == n) = some x from hx]
  simp [hid]

theorem findSession_of_sessions (h : t.sessions = s.sessions) (n : Nat) : findSession t n = findSession s n := by
  rw [findSession, h, findSession]

theorem mem_modSession {n : Nat} {f : Session → Session} {p : Session → Prop} (hs : ∀ y ∈ s.sessions, p y) (hf : ∀ y, p y → p (f y)) :
    ∀ y ∈ (modSession s n f).sessions, p y := by
  intro y hy
  obtain ⟨z, hz, rfl⟩ := List.mem_map.1 hy
  split
  · exact hf z (hs z hz)
  · exact hs z hz

/-! ### A request taken -/

/-- The state on which a request that has come whole is judged. -/
def received (s : State) : State := { discards s 0 with partials := [] }

theorem discards_sessions (s : State) (n : Nat) : (discards s n).sessions = s.sessions := by rw [discards, satFldAt_sessions]
theorem discards_partials (s : State) (n : Nat) : (discards s n).partials = s.partials := by rw [discards, satFldAt_partials]

theorem sessions_withPartials (s : State) (l : List Partial) : ({ s with partials := l } : State).sessions = s.sessions := rfl

theorem received_sessions (s : State) : (received s).sessions = s.sessions := by
  rw [received, sessions_withPartials, discards_sessions]

theorem serving_eq (s : State) (h : CtrHdr) (x : Session) : serving s h x =
    modSession (modSession (received s) x.id (fun y => { y with lastSeq := h.seq, cached := none })) x.id (fun y => { y with busy := true }) := rfl

/-- Who gives the request of a header. -/
def callerOf (h : CtrHdr) (code : Nat) : Caller := ⟨h.port, h.session, h.seq, h.tag, code⟩

theorem Asks.id (ha : Asks s h code b x) : x.id = h.session := findSession_id ha.session

/-- The session of a request that is served, its SEQ taken. -/
def servedSession (x : Session) (h : CtrHdr) : Session := { x with lastSeq := h.seq, cached := none, busy := true }

theorem Asks.findSession_serving (ha : Asks s h code b x) : findSession (serving s h x) h.session = some (servedSession x h) := by
  have h0 : findSession (received s) h.session = some x := (findSession_of_sessions (received_sessions s) _).trans ha.session
  have h1 := findSession_modSession h0 (f := fun y => { y with lastSeq := h.seq, cached := none }) fun _ => rfl
  have h2 := findSession_modSession h1 (f := fun y => { y with busy := true }) fun _ => rfl
  rw [serving_eq, ha.id]
  exact h2

theorem Asks.noBacklog_serving (ha : Asks s h code b x) : ∀ y ∈ (serving s h x).sessions, y.backlog = [] := by
  have h0 : ∀ y ∈ (received s).sessions, y.backlog = [] := by rw [received_sessions]; exact ha.noneWaits
  rw [serving_eq]
  exact mem_modSession (p := fun y => y.backlog = []) (mem_modSession (p := fun y => y.backlog = []) h0 fun _ h => h) fun _ h => h

theorem laterThan_self (a : Word) : laterThan a a = false := by
  simp [laterThan]

/-- The datagram of a request that comes whole is its message. -/
theorem assemble_whole {d : Dgram} (hp : s.partials = []) (hc : h.count = 1) :
    assemble s h code [d] = ({ s with partials := [] }, some d.body) := by
  unfold assemble
  rw [hp, hc]
  simp [SMap.insert]

theorem takeReq_serves {s : State} {c : Caller} {f : Service} (hx : findSession s c.session = some x) (hl : laterThan c.seq x.lastSeq = true)
    (hb : x.busy = false) (hp : permitted x c.command = true) : takeReq s x c b f =
      f (modSession (modSession s x.id (fun y => { y with lastSeq := c.seq, cached := none })) x.id (fun y => { y with busy := true })) c b := by
  have hnew : ¬ c.seq = x.lastSeq := fun he => by
    rw [he, laterThan_self] at hl
    cases hl
  have hid := findSession_id hx
  have h1 := findSession_modSession hx (f := fun y => { y with lastSeq := c.seq, cached := none }) fun _ => rfl
  rw [takeReq, if_neg hnew, if_neg (by simp [hl])]
  dsimp only
  rw [hb, hid]
  simp only [Bool.false_eq_true, if_false]
  rw [runReq, h1]
  dsimp only
  rw [if_pos (show permitted { x with lastSeq := c.seq, cached := none } c.command = true from hp), hid]

/-- A request that is taken runs its service. -/
theorem Asks.counterRow (ha : Asks s h code b x) (hcode : code ≠ 0x0001) (f : Service) :
    counterRow code h f s = f (serving s h x) (callerOf h code) b := by
  obtain ⟨d, hd, -, hbody, hok⟩ := ha.datagram
  have hgood : h.dgrams.filter (dgramOk s h code) = [d] := by rw [hd]; simp [hok]
  have h0 : findSession (received s) h.session = some x := (findSession_of_sessions (received_sessions s) _).trans ha.session
  have hfresh : (discards s 0).partials = [] := (discards_partials s 0).trans ha.fresh
  have hwhole : assemble (discards s 0) h code [d] = (received s, some b) := by rw [assemble_whole hfresh ha.whole, hbody, received]
  have htake := takeReq_serves (c := callerOf h code) (f := f) (b := b) h0 ha.later ha.idle ha.permitted
  rw [Machine.counterRow, if_neg (by simp [ha.phase, ha.active]), if_neg (by simp [ha.active]), if_neg (by simp [ha.link])]
  dsimp only
  rw [hgood, hd, List.length_singleton, Nat.sub_self, if_neg (by simp), if_neg (by simp [ha.session]), hwhole]
  dsimp only
  rw [if_neg hcode, h0]
  exact htake

/-! ### What serving leaves alone -/

theorem discards_regs (s : State) (n : Nat) : ∃ r, discards s n = { s with regs := r } := by
  unfold discards satFldAt setFldAt setRegWord
  exact ⟨_, rfl⟩

/-- Taking a request changes registers, sessions and unfinished messages alone. -/
theorem serving_frame (s : State) (h : CtrHdr) (x : Session) :
    ∃ r l, serving s h x = { s with regs := r, sessions := l, partials := [] } := by
  obtain ⟨r, hr⟩ := discards_regs s 0
  rw [serving_eq, received, hr]
  exact ⟨r, _, rfl⟩

/-! ### Replies -/

/-- A state in which the request of a header can be answered: the session is there, none waits, and nothing sent before is lost. -/
structure Answering (s : State) (h : CtrHdr) (u : State) : Prop where
  active : u.active = some h.port
  session : ∃ y, findSession u h.session = some y
  noBacklog : ∀ y ∈ u.sessions, y.backlog = []
  out : ∃ l, u.out = s.out ++ l

theorem Asks.answering (ha : Asks s h code b x) : Answering s h (serving s h x) := by
  refine ⟨?_, ⟨_, ha.findSession_serving⟩, ha.noBacklog_serving, [], ?_⟩
  · obtain ⟨r, l, hv⟩ := serving_frame s h x
    rw [hv]
    exact ha.active
  · obtain ⟨r, l, hv⟩ := serving_frame s h x
    rw [hv, List.append_nil]

theorem Answering.of_eq (hu : Answering s h u) (hs : t.sessions = u.sessions) (ha : t.active = u.active) (ho : t.out = u.out) : Answering s h t where
  active := ha.trans hu.active
  session := by rw [findSession_of_sessions hs]; exact hu.session
  noBacklog := by rw [hs]; exact hu.noBacklog
  out := by rw [ho]; exact hu.out

theorem Answering.findSession (hu : Answering s h u) : (findSession u h.session).isSome = true := by
  obtain ⟨y, hy⟩ := hu.session
  rw [hy]
  rfl

/-- No request waits: there is nothing to settle. -/
theorem settleCtr_of_noBacklog (hn : ∀ y ∈ t.sessions, y.backlog = []) : settleCtr t = t := by
  have hfuel : (t.sessions.map fun y => y.backlog.length).foldl (· + ·) 0 = 0 := by
    refine List.foldlRecOn (motive := fun n => n = 0) _ _ rfl fun n h0 k hk => ?_
    obtain ⟨y, hy, rfl⟩ := List.mem_map.1 hk
    rw [h0, hn y hy]
    rfl
  rw [settleCtr, hfuel, serveBacklogs]

/-- The answer of a command: its session free again, the reply cached and sent. -/
theorem finishReq_eq {c : Caller} {y : Session} {p : Hub} (ha : u.active = some p) (hy : findSession u c.session = some y) (status : Nat) (body : List Byte) :
    finishReq u c status body = emit (modSession u y.id fun z =>
      { z with busy := false, cached := if z.lastSeq = c.seq then some (replyMsg u { c with hub := p } status body true) else z.cached })
        (.counter (replyMsg u { c with hub := p } status body true)) := by
  rw [finishReq, hy]
  dsimp only
  rw [ha]
  rfl

/-- A command that answers: its reply is sent, and beyond it nothing but sessions changes. -/
theorem Answering.finishes (hu : Answering s h u) (code status : Nat) (body : List Byte) :
    ∃ l o, settleCtr (finishReq u (callerOf h code) status body) = { u with sessions := l, out := o } ∧
      Answers s (settleCtr (finishReq u (callerOf h code) status body)) h code status body := by
  obtain ⟨y, hy⟩ := hu.session
  obtain ⟨l, hl⟩ := hu.out
  rw [finishReq_eq (c := callerOf h code) hu.active hy, settleCtr_of_noBacklog]
  · refine ⟨_, _, rfl, l ++ [Emit.counter (replyMsg u (callerOf h code) status body true)], u.tb.ns, u.tb.sec, qualityWord u, ?_, ?_⟩
    · rw [← List.append_assoc, ← hl]
      rfl
    · exact List.mem_append_right _ List.mem_cons_self
  · exact mem_modSession (p := fun z => z.backlog = []) hu.noBacklog fun _ h => h

/-- The state `v` on which a request is served, of which proofs need no more than this. -/
structure ServedOn (s : State) (h : CtrHdr) (x : Session) (code : Nat) (b : List Byte) (v : State) : Prop where
  serving : serving s h x = v
  frame : ∃ r l, v = { s with regs := r, sessions := l, partials := [] }
  answering : Answering s h v
  session : findSession v h.session = some (servedSession x h)
  row : ∀ f : Service, Machine.counterRow code h f s = f v (callerOf h code) b

theorem Asks.servedOn (ha : Asks s h code b x) (hcode : code ≠ 0x0001) : ∃ v, ServedOn s h x code b v :=
  ⟨_, rfl, serving_frame s h x, ha.answering, ha.findSession_serving, ha.counterRow hcode⟩

variable {v : State}

theorem ServedOn.pl (hv : ServedOn s h x code b v) : v.pl = s.pl := by
  obtain ⟨r, l, rfl⟩ := hv.frame
  rfl

theorem ServedOn.dies (hv : ServedOn s h x code b v) : v.dies = s.dies := by
  obtain ⟨r, l, rfl⟩ := hv.frame
  rfl

theorem ServedOn.stages (hv : ServedOn s h x code b v) : v.stages = s.stages := by
  obtain ⟨r, l, rfl⟩ := hv.frame
  rfl

/-- A request whose service ends in an answer is replied to. -/
theorem ServedOn.replies (hv : ServedOn s h x code b v) {c : Instr} {f : Service} (hc : exec c s = done (settleCtr (Machine.counterRow code h f s)))
    {status : Nat} {body : List Byte} (hf : f v (callerOf h code) b = finishReq u (callerOf h code) status body) (hu : Answering s h u)
    {P : State → Prop} (hP : ∀ l o, P { u with sessions := l, out := o }) : Replies c s h code status body P := by
  rw [hv.row, hf] at hc
  obtain ⟨l, o, heq, hans⟩ := hu.finishes code status body
  exact ⟨_, hc, hans, heq ▸ hP l o⟩

end Sys2Proof.Machine
end

section
/-!
SUPPORT. Staging buffers given to sessions (R460).
-/
namespace Sys2Proof.Machine
open Sys2Proof

variable {s : State} {c : Caller} {b : List Byte}

/-- A stage for one asked for while none may be had. -/
theorem svcBundleStage_busy (hlen : b.length = 4) (hpos : 1 ≤ fieldLE b 0 4) (hmax : fieldLE b 0 4 ≤ 268435456)
    (hb : (∃ g ∈ s.stages, g.session = c.session) ∨ 2 ≤ s.stages.length) : svcBundleStage s c b = finishReq s c C.ctrStageBusy [] := by
  rw [svcBundleStage, sized, if_pos hlen]
  dsimp only
  rw [if_neg (by omega), if_pos]
  simpa using hb

/-- The number of a stage given. -/
def stageId (l : List Stage) : Nat := if l.any (fun g => g.id == 1) then 2 else 1

/-- A stage of the length asked for. -/
theorem svcBundleStage_gives (hlen : b.length = 4) (hpos : 1 ≤ fieldLE b 0 4) (hmax : fieldLE b 0 4 ≤ 268435456)
    (hs : ∀ g ∈ s.stages, g.session ≠ c.session) (h2 : s.stages.length < 2) : ∃ body, svcBundleStage s c b =
      finishReq { s with free := s.free + 3, stages := s.stages ++ [⟨stageId s.stages, c.session, fieldLE b 0 4, []⟩] } c C.ok body := by
  rw [svcBundleStage, sized, if_pos hlen]
  dsimp only
  rw [if_neg (by omega), if_neg]
  · exact ⟨_, rfl⟩
  · simpa [h2] using hs

end Sys2Proof.Machine

namespace Sys2Proof.Proofs
open Sys2Proof Sys2Proof.Machine

/-- Settles O36: a stage for a session that holds none while the module holds fewer than two, and the refusal otherwise. -/
theorem stagesAreGiven : Obligations.StagesAreGiven := by
  intro s h b x ha hlen hpos hmax
  obtain ⟨v, hv⟩ := ha.servedOn (by decide)
  refine ⟨fun hnone htwo => ?given, fun hbusy => ?busy⟩
  case given =>
    obtain ⟨body, hsvc⟩ := svcBundleStage_gives (s := v) (c := callerOf h 0x0020) hlen hpos hmax (hv.stages ▸ hnone) (hv.stages ▸ htwo)
    refine ⟨body, stageId s.stages, hv.replies rfl hsvc (hv.answering.of_eq rfl rfl rfl) fun _ _ => ?_, fun hone => if_neg ?_⟩
    · simp only [hv.stages]
      rfl
    · simpa using hone
  case busy =>
    have hsvc := svcBundleStage_busy (s := v) (c := callerOf h 0x0020) hlen hpos hmax (hv.stages ▸ hbusy)
    exact hv.replies rfl hsvc hv.answering fun _ _ => hv.stages

end Sys2Proof.Proofs
end

section
/-!
SUPPORT. What reports, counters and single register writes leave as it was: everything but registers, what has left the module, the
recorders, the counts of sessions' events and the performance counters. And what links leave as it was as they follow their lanes.
-/
namespace Sys2Proof.Machine
open Sys2Proof

variable {s t u : State}

/-! ### Reports, counters, registers -/

/-- A session without the numbers that its events take. -/
def Session.core (x : Session) : Session := { x with eventNum := 0, eventSecond := 0, eventCount := 0 }

/-- A hub without its recorder. -/
def HubSt.core (x : HubSt) : HubSt := { x with recorder := Recorder.reset }

/-- The state without what a report or a counter changes, and without the registers. -/
def State.core (s : State) : State :=
  { s with out := [], free := 0, regs := [], sessions := s.sessions.map Session.core, counts := [], sampling := ⟨[], [], 0, false, 0⟩,
           ha := s.ha.core, hb := s.hb.core, heldReports := [] }

/-- From `s` to `t` nothing changes but registers, what has left the module, recorders, the numbers of sessions' events and the performance
counters. -/
def SameCore (s t : State) : Prop := t.core = s.core

namespace SameCore

theorem refl (s : State) : SameCore s s := rfl
theorem trans (h : SameCore s t) (k : SameCore t u) : SameCore s u := Eq.trans k h

theorem regs (h : SameCore s t) (r : SMap Word) : SameCore s { t with regs := r } := h
theorem emit (h : SameCore s t) (e : Emit) : SameCore s (emit t e) := h
theorem takeFree (h : SameCore s t) : SameCore s (takeFree t).2 := h
theorem setRegWord (h : SameCore s t) (r : RegRef) (v : Word) : SameCore s (setRegWord t r v) := h.regs _
theorem setFldAt (h : SameCore s t) (f : Fld) (d i j v : Nat) : SameCore s (setFldAt t f d i j v) := h.setRegWord _ _
theorem bumpFldAt (h : SameCore s t) (f : Fld) (d i j v : Nat) : SameCore s (bumpFldAt t f d i j v) := h.setFldAt _ _ _ _ _
theorem setFld (h : SameCore s t) (f : Fld) (v : Nat) : SameCore s (setFld t f v) := h.setFldAt _ _ _ _ _
theorem setEvent (h : SameCore s t) (f : Fld) : SameCore s (setEvent t f) := h.setFldAt _ _ _ _ _
theorem setEventAt (h : SameCore s t) (f : Fld) (d i j : Nat) : SameCore s (setEventAt t f d i j) := h.setFldAt _ _ _ _ _

theorem bumpEv (h : SameCore s t) (ev : Nat) (c : EvCtx) (n : Nat) : SameCore s (bumpEv t ev c n) := by
  rw [bumpEv_frame]
  exact h

theorem recorder (h : SameCore s t) (hub : Hub) (c : Recorder) : SameCore s (setHub t hub { hubOf t hub with recorder := c }) := by
  cases hub
  · exact h
  · exact h

theorem degradeRecorder (h : SameCore s t) (hub : Hub) : SameCore s (degradeRecorder t hub) := (h.recorder hub _).setFld _ _

theorem writeRecord (h : SameCore s t) (hub : Hub) (r : Report) : SameCore s (writeRecord t hub r) := by
  unfold Machine.writeRecord recordWithin
  extract_lets c0 c t0
  split
  · exact h.recorder hub _
  · refine SameCore.recorder ?_ hub _
    split
    · exact (h.recorder hub _).degradeRecorder hub
    · exact h.recorder hub _

theorem core_eventTo (s : State) (hub : Hub) (r : Report) (x : Session) : (eventTo s hub r x).1.core = x.core := by
  unfold eventTo
  split
  · rfl
  · rfl

theorem hostEvents (h : SameCore s t) (hub : Hub) (r : Report) : SameCore s (hostEvents t hub r) := by
  refine h.trans ?_
  have hx : (Machine.hostEvents t hub r).sessions.map Session.core = t.sessions.map Session.core := by
    simp only [Machine.hostEvents, List.map_map]
    exact List.map_congr_left fun x _ => core_eventTo t hub r x
  rw [SameCore, State.core, hx]
  rfl

theorem fileReport (h : SameCore s t) (r : Report) : SameCore s (fileReport t r) := by
  have hrec (hub : Hub) : SameCore s (if r.toRec then Machine.writeRecord t hub r else t) := by
    split
    · exact h.writeRecord hub r
    · exact h
  unfold Machine.fileReport
  split
  · exact h
  · dsimp only
    split
    · exact (hrec _).hostEvents _ _
    · exact hrec _

theorem reportNow (h : SameCore s t) (code src handle : Nat) (d : List Byte) (a b : Bool) : SameCore s (reportNow t code src handle d a b) :=
  h.fileReport _

theorem report (h : SameCore s t) (code src handle : Nat) (d : List Byte) : SameCore s (report t code src handle d) := h.fileReport _

theorem hubReport (h : SameCore s t) (code : Nat) (d : List Byte) : SameCore s (hubReport t code d) := h.report _ _ _ _

theorem pl (h : SameCore s t) : t.pl = s.pl := (congrArg State.pl h :)
theorem sec (h : SameCore s t) : t.sec = s.sec := (congrArg State.sec h :)
theorem ident (h : SameCore s t) : t.ident = s.ident := (congrArg State.ident h :)
theorem tb (h : SameCore s t) : t.tb = s.tb := (congrArg State.tb h :)
theorem fab (h : SameCore s t) : t.fab = s.fab := (congrArg State.fab h :)
theorem optics (h : SameCore s t) : t.optics = s.optics := (congrArg State.optics h :)
theorem cal (h : SameCore s t) : t.cal = s.cal := (congrArg State.cal h :)
theorem active (h : SameCore s t) : t.active = s.active := (congrArg State.active h :)
theorem phase (h : SameCore s t) : t.phase = s.phase := (congrArg State.phase h :)
theorem dies (h : SameCore s t) : t.dies = s.dies := (congrArg State.dies h :)

theorem hub (h : SameCore s t) (x : Hub) : (hubOf t x).core = (hubOf s x).core := by
  cases x
  · exact (congrArg State.ha h :)
  · exact (congrArg State.hb h :)

end SameCore

/-! ### Links that follow their lanes (R367, R368, R382) -/

/-- The state without what links change as they follow their lanes. -/
def State.besideLinks (s : State) : State :=
  { s.core with dies := [], fab := { s.fab with links := [], waiting := [], changing := [], tofWait := [] } }

/-- The addresses of the registers that links write as they follow their lanes: those of events and reports, and of the dead-letter queue of a die
below `n`. -/
def LinkReg (n a : Nat) : Prop :=
  a = (⟨.redFault, 0, 0, 0⟩ : RegRef).addr ∨ a = (⟨.fabEvent, 0, 0, 0⟩ : RegRef).addr ∨
    ∃ d, d < n ∧ ∃ r ∈ [Reg.dieDlqStat, Reg.dieDlqDiscard, Reg.dieDlqTotal], a = (⟨r, d, 0, 0⟩ : RegRef).addr

/-- From `s` to `t` links have changed, with what waits on them, dead letters, reports, counters and registers of these, and nothing else. -/
structure LinkWork (s t : State) : Prop where
  beside : t.besideLinks = s.besideLinks
  dieCount : t.dies.length = s.dies.length
  regs : ∀ r : RegRef, ¬LinkReg s.dies.length r.addr → regWord t r = regWord s r
  out : OutGrows s t

theorem length_modAt {α : Type} (l : List α) (i : Nat) (f : α → α) : (modAt l i f).length = l.length := by
  unfold modAt
  split
  · exact List.length_set
  · rfl

theorem SameCore.besideLinks (h : SameCore s t) : t.besideLinks = s.besideLinks :=
  (congrArg (fun x : State => { x with dies := [], fab := { x.fab with links := [], waiting := [], changing := [], tofWait := [] } }) h :)

theorem SameCore.linkWork (h : SameCore s t) (hr : t.regs = s.regs) (ho : OutGrows s t) : LinkWork s t :=
  ⟨h.besideLinks, congrArg List.length h.dies, fun r _ => regWord_of_regs hr h.ident r, ho⟩

theorem FabricOnly.linkWork (h : FabricOnly s t) : LinkWork s t := by
  have ho := h.out
  obtain ⟨l, w, o, c, p, n, rfl⟩ := h
  exact ⟨rfl, rfl, fun _ _ => rfl, ho⟩

namespace LinkWork

theorem refl (s : State) : LinkWork s s := ⟨rfl, rfl, fun _ _ => rfl, .refl s⟩
theorem trans (h : LinkWork s t) (k : LinkWork t u) : LinkWork s u :=
  ⟨k.beside.trans h.beside, k.dieCount.trans h.dieCount, fun r hr => (k.regs r (h.dieCount.symm ▸ hr)).trans (h.regs r hr), h.out.trans k.out⟩

/-- A change to what links change, and to no register. -/
theorem of_regs (hb : t.besideLinks = s.besideLinks) (hd : t.dies.length = s.dies.length) (hr : t.regs = s.regs)
    (ho : t.out = s.out) : LinkWork s t :=
  ⟨hb, hd, fun r _ => regWord_of_regs hr (congrArg State.ident hb :) r, .of_eq ho⟩

theorem setFldAt (s : State) (f : Fld) (d i j v : Nat) (hf : LinkReg s.dies.length (⟨f.reg, d, i, j⟩ : RegRef).addr) :
    LinkWork s (setFldAt s f d i j v) :=
  ⟨((SameCore.refl s).setFldAt f d i j v).besideLinks, rfl, fun _ hr => regWord_setRegWord_other s (fun he => hr (he.symm ▸ hf)) _, .of_eq rfl⟩

theorem satFldAt (s : State) (f : Fld) (d i j v : Nat) (hf : LinkReg s.dies.length (⟨f.reg, d, i, j⟩ : RegRef).addr) :
    LinkWork s (satFldAt s f d i j v) := setFldAt s f d i j _ hf
theorem bumpFldAt (s : State) (f : Fld) (d i j v : Nat) (hf : LinkReg s.dies.length (⟨f.reg, d, i, j⟩ : RegRef).addr) :
    LinkWork s (bumpFldAt s f d i j v) := setFldAt s f d i j _ hf
theorem setEventAt (s : State) (f : Fld) (d i j : Nat) (hf : LinkReg s.dies.length (⟨f.reg, d, i, j⟩ : RegRef).addr) :
    LinkWork s (setEventAt s f d i j) := setFldAt s f d i j 1 hf

theorem setEvent (s : State) {f : Fld} (hf : f.reg = .fabEvent) : LinkWork s (setEvent s f) := setFldAt s f 0 0 0 1 (.inr (.inl (by rw [hf])))

theorem report (s : State) (code src handle : Nat) (d : List Byte) : LinkWork s (report s code src handle d) :=
  ⟨((SameCore.refl s).report code src handle d).besideLinks, congrArg List.length (report_dies s code src handle d),
    fun _ hr => regWord_report s code src handle d (fun he => hr (.inl he)), .report _ _ _ _ _⟩

theorem bumpEv (s : State) (ev : Nat) (c : EvCtx) (n : Nat) : LinkWork s (bumpEv s ev c n) :=
  ((SameCore.refl s).bumpEv ev c n).linkWork (bumpEv_regs s ev c n) (.of_eq (bumpEv_out s ev c n))

theorem optics (h : LinkWork s t) : t.optics = s.optics := (congrArg State.optics h.beside :)
theorem cal (h : LinkWork s t) : t.cal = s.cal := (congrArg State.cal h.beside :)
theorem sec (h : LinkWork s t) : t.sec = s.sec := (congrArg State.sec h.beside :)
theorem identTable (h : LinkWork s t) : t.fab.ident = s.fab.ident := (congrArg (fun x => x.fab.ident) h.beside :)

theorem foldl {α : Type} (f : State → α → State) (hf : ∀ s a, LinkWork s (f s a)) (l : List α) (s : State) : LinkWork s (l.foldl f s) :=
  List.foldlRecOn _ _ (refl s) fun _ h a _ => h.trans (hf _ a)

theorem modLink (s : State) (key : Nat) (f : Link → Link) : LinkWork s (modLink s key f) := ((FabricOnly.refl s).modLink key f).linkWork

theorem sendVia (s : State) (via : Option Nat) (dest vc : Nat) (b : FlitBody) : LinkWork s (sendVia via s dest vc b) :=
  ((FabricOnly.refl s).sendVia via dest vc b).linkWork

theorem queueFrom (s : State) (via : Option Nat) (key vc : Nat) (fs : List Flit) : LinkWork s (queueFrom via s key vc fs) :=
  ((FabricOnly.refl s).queueFrom via key vc fs).linkWork

theorem pumpLink (s : State) (key : Nat) : LinkWork s (pumpLink s key) := ((FabricOnly.refl s).pumpLink key).linkWork

theorem sendLink (s : State) (key : Nat) (m : LinkMsg) : LinkWork s (sendLink s key m) := queueFrom s none key 2 _

theorem portEvent (s : State) (p code n : Nat) : LinkWork s (portEvent s p code n) := bumpEv s _ _ _

theorem linkReport (s : State) (key code : Nat) {f : Fld} (hf : f.reg = .fabEvent) : LinkWork s (linkReport s key code f) :=
  (setEvent s hf).trans (report _ _ _ _ _)

theorem flushWaiting (s : State) : LinkWork s (flushWaiting s) :=
  trans (t := { s with fab := { s.fab with waiting := [] } }) (of_regs rfl rfl rfl rfl) (foldl _ (fun s (m : WaitingMsg) => sendVia s m.via m.dest m.vc m.body) _ _)

/-- A register of the dead-letter queue of a die that the module has. -/
theorem dlqReg {d n : Nat} (hd : d < n) {r : Reg} (hr : r ∈ [Reg.dieDlqStat, Reg.dieDlqDiscard, Reg.dieDlqTotal]) :
    LinkReg n (⟨r, d, 0, 0⟩ : RegRef).addr := .inr (.inr ⟨d, hd, r, hr, rfl⟩)

theorem dlqFull {d : Nat} (hd : d < s.dies.length) :
    LinkWork s (Machine.setEventAt (Machine.satFldAt s F.dieDlqDiscardDiscarded d 0 0 1) F.dieDlqStatOverflow d 0 0) := by
  refine (satFldAt s F.dieDlqDiscardDiscarded d 0 0 1 (dlqReg hd (by decide))).trans (setEventAt _ F.dieDlqStatOverflow d 0 0 (dlqReg ?_ (by decide)))
  rwa [satFldAt_dies]

theorem dlqCounted {d : Nat} (hd : d < s.dies.length) :
    LinkWork s (Machine.setEventAt (Machine.bumpFldAt s F.dieDlqTotalTotal d 0 0 1) F.dieDlqStatAdded d 0 0) := by
  refine (bumpFldAt s F.dieDlqTotalTotal d 0 0 1 (dlqReg hd (by decide))).trans (setEventAt _ F.dieDlqStatAdded d 0 0 (dlqReg ?_ (by decide)))
  rwa [bumpFldAt_dies]

theorem modDie (s : State) (d : Nat) (g : Die → Die) : LinkWork s { s with dies := modAt s.dies d g } := of_regs rfl (length_modAt _ _ _) rfl rfl

theorem dlqAdd (s : State) (d reason cell : Nat) (c : List Byte) (x : Tile) : LinkWork s (dlqAdd s d reason cell c x) := by
  unfold Machine.dlqAdd
  split
  · exact refl s
  · split
    · exact refl s
    · rename_i die hd
      have hdie : d < s.dies.length := (List.getElem?_eq_some_iff.1 hd).1
      split
      · exact (dlqFull hdie).trans (report _ _ _ _ _)
      · extract_lets e s1
        have h1 : LinkWork s s1 := modDie s d _
        clear_value s1
        exact h1.trans (dlqCounted (h1.dieCount.symm ▸ hdie))

theorem countAlt (s : State) (o : Nat × Nat) (n : Nat) : LinkWork s (countAlt s o n) := by
  unfold Machine.countAlt
  split
  · exact refl s
  · exact portEvent s _ _ _

theorem sendTile (s : State) (d cell dest vc : Nat) (p : Option Nat) (x : Tile) : ∀ t ∈ sendTile s d cell dest vc p x, LinkWork s t := by
  unfold Machine.sendTile
  split
  · simp
  · split
    · simpa using dlqAdd s d _ cell [] x
    · split
      · simpa using (countAlt s _ 1).trans (queueFrom _ p _ vc _)
      · simpa using dlqAdd s d _ cell [] x

theorem reroute (s : State) (key : Nat) (g : List Queued) : LinkWork s (reroute key s g) := by
  unfold Machine.reroute
  split
  · exact refl s
  · split
    · cases he : Machine.sendTile s (engineDie (key / 128)) 0xFFFF _ _ _ _ with
      | none => exact refl s
      | some t => exact sendTile s _ _ _ _ _ _ t he
    · exact refl s
    · exact refl s
    · exact sendVia s _ _ _ _

theorem rerouteAll (s : State) (key : Nat) (qs : List (List (List Queued))) : LinkWork s (rerouteAll key s qs) := by
  unfold Machine.rerouteAll
  extract_lets old _ s1
  have h1 : LinkWork s s1 := trans (t := { s with fab := { s.fab with waiting := [] } }) (of_regs rfl rfl rfl rfl)
    (foldl _ (fun s q => foldl _ (fun s g => reroute s key g) q s) _ _)
  exact (h1.trans (u := { s1 with fab := { s1.fab with waiting := s1.fab.waiting ++ old } }) (of_regs rfl rfl rfl rfl)).trans (flushWaiting _)

theorem resendFlit (s : State) (key : Nat) (f : Flit) : LinkWork s (resendFlit key s f) := by
  unfold Machine.resendFlit emitFlit
  split
  · exact refl s
  · split
    · exact modLink s _ _
    · exact ((modLink s _ _).trans (modLink _ _ _)).trans (((SameCore.refl _).emit _).linkWork rfl (.emit _ _))

theorem resendFrom (s : State) (key seq : Nat) : LinkWork s (resendFrom s key seq) := by
  unfold Machine.resendFrom
  split
  · exact refl s
  · exact (foldl _ (fun s f => resendFlit s key f) _ _).trans (portEvent _ _ _ _)

theorem replayAll (s : State) (key : Nat) : LinkWork s (replayAll s key) := by
  unfold Machine.replayAll
  split
  · exact resendFrom s _ _
  · exact refl s

theorem startTof (s : State) (key : Nat) : LinkWork s (startTof s key) := by
  unfold Machine.startTof
  split
  · exact refl s
  · split
    · exact refl s
    · split
      · exact trans (t := { s with fab := { s.fab with tofWait := SMap.insert s.fab.tofWait key (now s) } }) (of_regs rfl rfl rfl rfl) (queueFrom _ none _ _ _)
      · exact ((SameCore.refl s).takeFree.linkWork rfl (.of_eq rfl)).trans (sendLink _ _ _)

theorem linkDown (s : State) (key : Nat) (chans : List Nat) : LinkWork s (linkDown s key chans) := by
  unfold Machine.linkDown
  extract_lets quiet s0 s1
  have h1 : LinkWork s s1 := by
    dsimp only [s1]
    split
    · exact modLink s _ _
    · exact (modLink s _ _).trans (linkReport _ _ _ rfl)
  split
  · exact h1
  · split
    · exact h1
    · exact (h1.trans (modLink _ _ _)).trans (rerouteAll _ _ _)

theorem laneReduced (s : State) (key : Nat) : LinkWork s (laneReduced s key) := by
  unfold Machine.laneReduced
  split
  · exact refl s
  · split
    · split
      · exact refl s
      · exact (modLink s _ _).trans (report _ _ _ _ _)
    · exact modLink s _ _

/-- The lanes are announced, and what is not acknowledged is sent again. -/
theorem announce (s : State) (key : Nat) (lanes : List Nat) :
    LinkWork s (Machine.flushWaiting (Machine.pumpLink (Machine.replayAll (Machine.sendLink (Machine.laneReduced s key) key (.laneset lanes)) key) key)) :=
  ((((laneReduced s key).trans (sendLink _ _ _)).trans (replayAll _ _)).trans (pumpLink _ _)).trans (flushWaiting _)

theorem linkBack (s : State) (key : Nat) (chans lanes : List Nat) (spare : Option Nat) : LinkWork s (linkBack s key chans lanes spare) :=
  ((modLink s _ _).trans (linkReport _ _ _ rfl)).trans (announce _ key lanes)

theorem linkChange (s : State) (key : Nat) (chans lanes : List Nat) (spare : Option Nat) : LinkWork s (linkChange s key chans lanes spare) :=
  ((modLink s _ _).trans (portEvent _ _ _ _)).trans (announce _ key lanes)

theorem linkForm (s : State) (key : Nat) (far : Nat × Nat × Nat) (chans lanes : List Nat) (spare : Option Nat) (tof : Bool) :
    LinkWork s (linkForm s key far chans lanes spare tof) := by
  unfold Machine.linkForm
  extract_lets held _ l _ s1 s2
  have h1 : LinkWork s s1 := of_regs rfl rfl rfl rfl
  have h2 : LinkWork s s2 := h1.trans (linkReport _ _ _ rfl)
  split
  · exact h2
  · exact (h2.trans (startTof _ _)).trans (flushWaiting _)

theorem followLanes (s : State) (e : Nat × Link) : LinkWork s (followLanes s e) := by
  unfold Machine.followLanes
  extract_lets l chans lanes spare
  split
  · split
    · exact linkDown s _ _
    · split
      · exact modLink s _ _
      · exact linkChange s _ _ _ _
  · split
    · exact modLink s _ _
    · exact linkBack s _ _ _ _
  · split
    · exact modLink s _ _
    · exact linkForm s _ _ _ _ _ _

theorem newLink (s : State) (P c : Nat) : LinkWork s (newLink P s c) := by
  unfold Machine.newLink
  split
  · exact refl s
  · split
    · exact refl s
    · extract_lets chans lanes key
      split
      · exact refl s
      · exact linkForm s _ _ _ _ _ _

theorem relink (s : State) (P : Nat) : LinkWork s (relink s P) :=
  (foldl _ followLanes _ s).trans (foldl _ (fun s c => newLink s P c) _ _)

theorem afterFabCtl (s : State) : LinkWork s (afterFabCtl s) := by
  unfold Machine.afterFabCtl
  extract_lets s1
  refine (foldl _ relink _ s).trans (foldl _ (fun s e => ?_) _ s1)
  split
  · exact refl s
  · exact (modLink s _ _).trans (rerouteAll _ _ _)

end LinkWork

end Sys2Proof.Machine
end

section
/-!
SUPPORT. Register writes under their access codes (R17 to R20): how a served write is answered, and what a field reads after a plain write.
-/
namespace Sys2Proof.Machine
open Sys2Proof

variable {s u : State} {o : Origin} {v : Word}

/-! ### Answers -/

/-- A served write is answered with what its effect returns. -/
theorem regAnswered_of_write {c : Instr} {red : Bool} {f : State → State × Nat} {st : Nat} (hs : regGate s o red true = .served)
    (hc : exec c s = done (regWriteRow s o red f)) (hf : f s = (u, st)) : RegAnswered c s o st 0 u := by
  rw [RegAnswered, hc, regWriteRow, hs]
  simp only [regAnswer, hf]
  rfl

/-- A served read is answered with the word that its effect returns. -/
theorem regAnswered_of_read {c : Instr} {red : Bool} {f : State → State × Word} (hs : regGate s o red false = .served)
    (hc : exec c s = done (regReadRow s o red f)) (hf : f s = (u, v)) : RegAnswered c s o C.ok v u := by
  rw [RegAnswered, hc, regReadRow, hs]
  simp only [regAnswer, hf]
  rfl

/-! ### Fields under their access codes -/

/-- Two fields of a register that do not meet. -/
abbrev Fld.Apart (f g : Fld) : Prop := g.lsb + g.width ≤ f.lsb ∨ f.lsb + f.width ≤ g.lsb

theorem Fld.Apart.symm {f g : Fld} (h : f.Apart g) : g.Apart f := Or.symm h

theorem fieldOf_store_apart {f g : Fld} (h : g.Apart f) (s : State) (v word : Nat) :
    fieldOf (g.store s v word) f.lsb f.width = fieldOf word f.lsb f.width := by
  unfold Fld.store
  dsimp only
  split
  · exact fieldOf_setField_disjoint h _ _
  · exact fieldOf_setField_disjoint h _ _
  · split
    · rfl
    · exact fieldOf_setField_disjoint h _ _
  · rfl

theorem fieldOf_foldl_store_apart {f : Fld} {l : List Fld} (h : ∀ g ∈ l, g.Apart f) (s : State) (v word : Nat) :
    fieldOf (l.foldl (Fld.store s v) word) f.lsb f.width = fieldOf word f.lsb f.width :=
  List.foldlRecOn (motive := fun w => fieldOf w f.lsb f.width = fieldOf word f.lsb f.width) _ _ rfl
    fun w hw g hg => (fieldOf_store_apart (h g hg) s v w).trans hw

/-- Of the fields that a write stores one after another, each ends as its own store leaves it. -/
theorem fieldOf_foldl_store {f : Fld} {l : List Fld} (hl : l.Pairwise Fld.Apart) (hf : f ∈ l) (s : State) (v word : Nat) :
    ∃ w, fieldOf w f.lsb f.width = fieldOf word f.lsb f.width ∧
      fieldOf (l.foldl (Fld.store s v) word) f.lsb f.width = fieldOf (f.store s v w) f.lsb f.width := by
  induction l generalizing word with
  | nil => cases hf
  | cons g l ih =>
    obtain ⟨hg, hl'⟩ := List.pairwise_cons.1 hl
    rcases List.mem_cons.1 hf with rfl | hmem
    · exact ⟨word, rfl, fieldOf_foldl_store_apart (fun k hk => (hg k hk).symm) s v _⟩
    · obtain ⟨w, hw, he⟩ := ih hl' hmem (g.store s v word)
      exact ⟨w, hw.trans (fieldOf_store_apart (hg f hmem) s v word), he⟩

/-! ### Plain writes -/

/-- The register of a plain write that nothing refuses, its fields stored. -/
def stored (s : State) (r : RegRef) (v : Word) : State :=
  setRegWord s r (BitVec.ofNat 32 (r.reg.fields.foldl (Fld.store s v.toNat) (regWord s r).toNat))

theorem plainWrite_of_ro {r : RegRef} (h : r.reg.fields.all (fun f => f.acc == .ro) = true) : plainWrite s r v = (s, C.regReadOnly) := by
  simp only [plainWrite, h, if_true]

theorem plainWrite_of_locked {r : RegRef} (h : r.reg.fields.all (fun f => f.acc == .ro) = false)
    (hl : r.reg.fields.any (fun f => f.acc == .rwl) = true) (ha : anyLoaded s = true) : plainWrite s r v = (s, C.regLocked) := by
  simp [plainWrite, h, hl, ha]

theorem plainWrite_of_open {r : RegRef} (h : r.reg.fields.all (fun f => f.acc == .ro) = false)
    (hl : r.reg.fields.any (fun f => f.acc == .rwl) = false ∨ anyLoaded s = false) :
    plainWrite s r v = (if r.reg.fields.any (fun f => f.kind == .kept && f.writable) then keptChanged (stored s r v) else stored s r v, C.ok) := by
  have hl' : (r.reg.fields.any (fun f => f.acc == .rwl) && anyLoaded s) = false := by
    rcases hl with hl | hl
    · rw [hl, Bool.false_and]
    · rw [hl, Bool.and_false]
  simp only [plainWrite, h, hl', Bool.false_eq_true, if_false]
  rfl

theorem stored_core (s : State) (r : RegRef) (v : Word) : SameCore s (stored s r v) := (SameCore.refl s).setRegWord _ _

/-- A field of the register stored. -/
theorem fldAt_stored {f : Fld} {d i j : Nat} (hl : f.reg.fields.Pairwise Fld.Apart) (hf : f ∈ f.reg.fields) (hw : f.lsb + f.width ≤ 32) :
    ∃ w, fieldOf w f.lsb f.width = fldAt s f d i j ∧
      fldAt (stored s ⟨f.reg, d, i, j⟩ v) f d i j = fieldOf (f.store s v.toNat w) f.lsb f.width := by
  obtain ⟨w, hw', he⟩ := fieldOf_foldl_store hl hf s v.toNat (regWord s ⟨f.reg, d, i, j⟩).toNat
  refine ⟨w, hw', ?_⟩
  rw [fldAt, stored, regWord_setRegWord_same, BitVec.toNat_ofNat, fieldOf_mod_two_pow hw]
  exact he

/-- A field that the write leaves as written, within its range. -/
theorem fieldOf_store_rw {f : Fld} (ha : f.acc = .rw ∨ f.acc = .rwl) (h1 : f ≠ F.paceVlimVmax) (h2 : f ≠ F.paceFixedFixedMv) (s : State) (v : Word)
    (w : Nat) : fieldOf (f.store s v.toNat w) f.lsb f.width = clampNat f.lo f.hi (wfld v f) % 2 ^ f.width := by
  have hb (w : Nat) : f.bound s w (wfld v f) = clampNat f.lo f.hi (wfld v f) := by rw [Fld.bound, if_neg h1, if_neg h2]
  rcases ha with ha | ha <;> simp only [Fld.store, ha] <;> rw [fieldOf_setField_same] <;> exact congrArg (· % _) (hb _)

theorem fieldOf_store_rw1c {f : Fld} (ha : f.acc = .rw1c) (s : State) (v : Word) (w : Nat) :
    fieldOf (f.store s v.toNat w) f.lsb f.width = if wfld v f = 0 then fieldOf w f.lsb f.width else 0 := by
  have hx : f.store s v.toNat w = if wfld v f = 0 then w else setField w f.lsb f.width 0 := by
    simp only [Fld.store, ha]
    rfl
  rw [hx, apply_ite (fun x => fieldOf x f.lsb f.width), fieldOf_setField_same, Nat.zero_mod]

end Sys2Proof.Machine
end

section
/-!
SUPPORT. Tally and delta registers, and plain writes by address (R203, R225, R274, R283, R284).
-/
namespace Sys2Proof.Machine
open Sys2Proof

variable {s u : State} {o : Origin} {v : Word} {slot i : Nat} {b : Bundle} {x : Tally} {r : TallyRec}

/-! ### Writes that act on a bundle -/

theorem slotBundle_of_byHandle {n : Nat} (h : byHandle s n = some (slot, b)) : slotBundle s slot = some b := by
  unfold byHandle at h
  split at h
  · rename_i hb
    split at h
    · cases h
      exact hb
    · cases h
  · cases h

theorem withSlot_none {n : Nat} (h : byHandle s n = none) (ok : BState → Bool) (f : Nat → State) : withSlot s n ok f = (s, C.handleUnknown) := by
  rw [withSlot, h]

theorem withSlot_invalid {n : Nat} (h : byHandle s n = some (slot, b)) {ok : BState → Bool} (hk : ok b.st = false) (f : Nat → State) :
    withSlot s n ok f = (s, C.stateInvalid) := by
  rw [withSlot, h]
  simp [hk]

theorem withSlot_ok {n : Nat} (h : byHandle s n = some (slot, b)) {ok : BState → Bool} (hk : ok b.st = true) (f : Nat → State) :
    withSlot s n ok f = (f slot, C.ok) := by
  rw [withSlot, h]
  simp [hk]

theorem getElem?_withIdx {α : Type} {l : List α} {i : Nat} {x : α} (h : l[i]? = some x) : (withIdx l)[i]? = some (i, x) := by
  have hi : i < l.length := (List.getElem?_eq_some_iff.1 h).1
  exact List.getElem?_zip_eq_some.2 ⟨by simp [hi], h⟩

/-- A keyframe request reaches every delta stream that the bundle sources (R203). -/
theorem raiseKey_pending (h : slotBundle s slot = some b) : ∃ b', slotBundle (raiseKey s slot) slot = some b' ∧
    ∀ (i : Nat) (r : StreamRec) (x : Sys2Proof.Machine.Stream), b.img.streams[i]? = some r → b.streams[i]? = some x → r.kind = 2 →
      r.producer < 0xFFFE → isSource b.img r = true → ∃ y : Sys2Proof.Machine.Stream, b'.streams[i]? = some y ∧ y.delta.keyPending = true := by
  refine ⟨_, slotBundle_modBundle h _, fun i r x hr hx hk hp hs => ⟨{ x with delta := { x.delta with keyPending := true } }, ?_, rfl⟩⟩
  have hz : (b.img.streams.zip b.streams)[i]? = some (r, x) := List.getElem?_zip_eq_some.2 ⟨hr, hx⟩
  simp [hz, hk, hp, hs]

/-- An epoch end puts its marker behind those that wait at every tally homed here with an epoch value (R274). -/
theorem epochEnd_markers (h : slotBundle s slot = some b) (m : Option (Nat × Nat)) : ∃ b', slotBundle (epochEnd s slot m) slot = some b' ∧
    ∀ (i : Nat) (r : TallyRec) (x : Tally), b.img.tallies[i]? = some r → b.tallies[i]? = some x → x.home.isSome = true → r.epoch ≠ 0xFFFFFFFF →
      b'.tallies[i]? = some { x with markers := x.markers ++ [m] } := by
  refine ⟨_, slotBundle_modBundle h _, fun i r x hr hx hh he => ?_⟩
  simp [getElem?_withIdx hx, hr, hh, he]

/-! ### Tallies by hand (R283, R284) -/

theorem talSelected_at (h : talSelected s = some (slot, i, b, x, r)) : tallyAt s slot i = some (b, x, r) := by
  unfold talSelected at h
  split at h
  · cases h
  · obtain ⟨⟨b', x', r'⟩, hat, he⟩ := Option.map_eq_some_iff.1 h
    cases he
    exact hat

theorem talDbgRecord_pl (s : State) (o : Origin) (slot i : Nat) (b : Bundle) (r : TallyRec) (n m : Nat) :
    (talDbgRecord s o slot i b r n m).pl = s.pl :=
  (((SameCore.refl s).setEvent _).reportNow _ _ _ _ _ _).pl

/-- A tally of a selected bundle replaced, once the record of R284 is made. -/
theorem slotBundle_modTally_dbg (h : tallyAt s slot i = some (b, x, r)) (n m : Nat) (f : Tally → Tally) :
    slotBundle (modTally (talDbgRecord s o slot i b r n m) slot i f) slot = some { b with tallies := modAt b.tallies i f } := by
  obtain ⟨hb, -, -⟩ := tallyAt_iff.1 h
  exact slotBundle_modBundle ((slotBundle_of_pl (talDbgRecord_pl s o slot i b r n m) slot).trans hb) _

theorem tallies_modAt (h : tallyAt s slot i = some (b, x, r)) (f : Tally → Tally) : (modAt b.tallies i f)[i]? = some (f x) := by
  obtain ⟨-, hx, -⟩ := tallyAt_iff.1 h
  simp [getElem?_modAt, hx]

theorem talWrites_denied (h : talDbgActive s = false) :
    talSetWriteOp s o v = (s, C.tallyDbgDenied) ∧ talRehomeWriteOp s o v = (s, C.tallyDbgDenied) :=
  ⟨if_pos h, if_pos h⟩

theorem talWrites_none (h : talDbgActive s = true) (hn : talSelected s = none) :
    talSetWriteOp s o v = (s, C.handleUnknown) ∧ talRehomeWriteOp s o v = (s, C.handleUnknown) := by
  constructor
  · simp [talSetWriteOp, h, hn]
  · simp [talRehomeWriteOp, h, hn]

section Selected
variable (hd : talDbgActive s = true) (hsel : talSelected s = some (slot, i, b, x, r))
include hd hsel

theorem talSet_range (h : r.capacity < v.toNat) : talSetWriteOp s o v = (s, C.tallySetRange) := by
  simp [talSetWriteOp, hd, hsel, h]

theorem talSet_elsewhere (h : v.toNat ≤ r.capacity) (hh : x.home = none) : talSetWriteOp s o v = (s, C.ok) := by
  simp [talSetWriteOp, hd, hsel, Nat.not_lt.2 h, hh]

/-- A tally that no one waits on, set at its home. -/
theorem talSet_home (h : v.toNat ≤ r.capacity) (hh : x.home.isSome = true) (ht : x.takers = []) (hw : x.watchers = []) :
    ∃ u b', talSetWriteOp s o v = (u, C.ok) ∧ slotBundle u slot = some b' ∧ b'.tallies[i]? = some { x with value := v } := by
  have hat := talSelected_at hsel
  have hset := slotBundle_modTally_dbg (o := o) hat x.value.toNat v.toNat fun t => { t with value := v }
  have hat' : tallyAt (modTally (talDbgRecord s o slot i b r x.value.toNat v.toNat) slot i fun t => { t with value := v }) slot i =
      some ({ b with tallies := modAt b.tallies i fun t => { t with value := v } }, { x with value := v }, r) :=
    tallyAt_iff.2 ⟨hset, tallies_modAt hat _, (tallyAt_iff.1 hat).2.2⟩
  refine ⟨_, _, ?_, slotBundle_modBundle hset fun b => { b with tallies := modAt b.tallies i fun _ => { x with value := v } }, ?_⟩
  · have hhome : x.home.isNone = false := by rw [← Option.not_isSome, hh]; rfl
    simp only [talSetWriteOp, hd, hsel, Nat.not_lt.2 h, hhome, Bool.true_eq_false, Bool.false_eq_true, if_false]
    rw [release_of_noWaiters hat' ht hw]
    rfl
  · simp [getElem?_modAt, tallies_modAt hat]

theorem talRehome_notOrphaned (h : x.orphaned = false) : talRehomeWriteOp s o v = (s, C.tallyNotOrphaned) := by
  simp [talRehomeWriteOp, hd, hsel, h]

theorem talRehome_noStation (h : x.orphaned = true) (h1 : wfld v F.talRehomeStation ≠ 0xFFFF) (h2 : b.stations.length ≤ wfld v F.talRehomeStation) :
    talRehomeWriteOp s o v = (s, C.ok) := by
  simp [talRehomeWriteOp, hd, hsel, h, h1, h2]

/-- A re-homed tally as its word says. -/
def rehomed (v : Word) (x : Tally) : Tally :=
  if wfld v F.talRehomeStation = 0xFFFF then { x with home := none, remoteHome := wfld v F.talRehomePostcode, orphaned := false }
  else { x with home := some (wfld v F.talRehomeStation), value := 0, orphaned := false }

theorem talRehome_gives (h : x.orphaned = true) (hok : wfld v F.talRehomeStation = 0xFFFF ∨ wfld v F.talRehomeStation < b.stations.length) :
    ∃ u b', talRehomeWriteOp s o v = (u, C.ok) ∧ slotBundle u slot = some b' ∧ b'.tallies[i]? = some (rehomed v x) := by
  have hat := talSelected_at hsel
  have hset := slotBundle_modTally_dbg (o := o) hat (homeWord x) (homeWord (rehomed v x)) fun _ => rehomed v x
  refine ⟨_, _, ?_, (slotBundle_of_pl (((SameCore.refl _).bumpFldAt F.bndMapGenGen 0 0 0 1).pl) slot).trans hset, tallies_modAt hat _⟩
  have hguard : ¬ (wfld v F.talRehomeStation ≠ 0xFFFF ∧ b.stations.length ≤ wfld v F.talRehomeStation) := by omega
  simp only [talRehomeWriteOp, hd, hsel, h, Bool.true_eq_false, if_false]
  rw [if_neg hguard]
  rfl

end Selected

/-! ### Plain writes by address -/

/-- A served write to an address that leaves no life-cycle transition to go on with. -/
theorem plainWrite_answered {a st : Nat} (hs : regGate s o (isRed a) true = .served) (hw : writeAt s o a v = (u, st))
    (hu : u.sec.incomplete = s.sec.incomplete) : RegAnswered (.registerWritePlain o a v) s o st 0 u := by
  have hrow : regWriteRow s o (isRed a) (fun s => writeAt s o a v) = emit u (.reg o st 0) := by
    rw [regWriteRow, hs]
    simp only [regAnswer, hw]
  have hlc : afterLc s (emit u (.reg o st 0)) = emit u (.reg o st 0) := by
    unfold afterLc lcFinish
    split
    · rename_i hnone
      have hi : (emit u (.reg o st 0)).sec.incomplete = none := hu.trans (Option.isNone_iff_eq_none.1 hnone)
      rw [hi]
    · rfl
  rw [RegAnswered, show exec (.registerWritePlain o a v) s = done (afterLc s (regWriteRow s o (isRed a) fun s => writeAt s o a v)) from rfl, hrow, hlc]
  rfl

theorem writeAt_error {a c : Nat} (h : resolve s a = .error c) : writeAt s o a v = (s, c) := by rw [writeAt, h]

theorem writeAt_ok {a : Nat} {r : RegRef} (h : resolve s a = .ok r) : writeAt s o a v = writeServed s o r v := by rw [writeAt, h]

theorem writePlain_refused {r : RegRef} {c : Nat} (h : plainWrite s r v = (s, c)) (hc : c ≠ C.ok) : writePlain s r v = (s, c) := by
  simp only [writePlain, h, ne_eq, hc, not_false_eq_true, if_true]

theorem writePlain_accepted {r : RegRef} (h : plainWrite s r v = (u, C.ok)) : writePlain s r v = (afterWrite s u r, C.ok) := by
  simp only [writePlain, h, ne_eq, not_true_eq_false, if_false]

/-! ### FAB_CTL (R382) -/

/-- FAB_CTL stored, before the links follow it. -/
def fabCtlStored (s : State) (v : Word) : State :=
  let s1 := keptChanged (stored s ⟨.fabCtl, 0, 0, 0⟩ v)
  if s.ident.fm2 then setFld s1 F.fabCtlTwoNet 0 else s1

theorem fabCtl_written (h : anyLoaded s = false) : writePlain s ⟨.fabCtl, 0, 0, 0⟩ v = (afterFabCtl (fabCtlStored s v), C.ok) :=
  writePlain_accepted (plainWrite_of_open (r := ⟨.fabCtl, 0, 0, 0⟩) (by decide) (.inr h))

theorem keptChanged_stored_core (s : State) (r : RegRef) (v : Word) :
    SameCore { s with sec := { s.sec with retPending := true } } (keptChanged (stored s r v)) :=
  (congrArg (fun x : State => { x with sec := { x.sec with retPending := true } }) (stored_core s r v) :)

theorem fabCtlStored_core (s : State) (v : Word) : SameCore { s with sec := { s.sec with retPending := true } } (fabCtlStored s v) := by
  rw [fabCtlStored]
  split
  · exact (keptChanged_stored_core s _ v).setFld _ _
  · exact keptChanged_stored_core s _ v

/-- A field of FAB_CTL stored. -/
theorem fld_stored_fabCtl (s : State) (v : Word) {f : Fld} (hr : f.reg = .fabCtl) (hf : f ∈ Reg.fabCtl.fields) (ha : f.acc = .rw ∨ f.acc = .rwl)
    (hw : f.lsb + f.width ≤ 32) :
    fld (keptChanged (stored s ⟨.fabCtl, 0, 0, 0⟩ v)) f = clampNat f.lo f.hi (wfld v f) % 2 ^ f.width := by
  obtain ⟨w, -, he⟩ := fldAt_stored (s := s) (v := v) (f := f) (d := 0) (i := 0) (j := 0) (by rw [hr]; decide) (hr ▸ hf) hw
  rw [fieldOf_store_rw ha (by rintro rfl; cases hr) (by rintro rfl; cases hr)] at he
  rw [← he, hr]
  rfl

theorem fabCtlStored_weight (s : State) (v : Word) : fld (fabCtlStored s v) F.fabCtlWeightVc0 = max 1 (wfld v F.fabCtlWeightVc0) := by
  have hval : fld (keptChanged (stored s ⟨.fabCtl, 0, 0, 0⟩ v)) F.fabCtlWeightVc0 = max 1 (wfld v F.fabCtlWeightVc0) := by
    rw [fld_stored_fabCtl s v (f := F.fabCtlWeightVc0) rfl (by decide) (.inl rfl) (by decide)]
    have hlt : wfld v F.fabCtlWeightVc0 < 16 := Nat.mod_lt _ (by decide)
    show clampNat 1 15 (wfld v F.fabCtlWeightVc0) % 16 = _
    unfold clampNat
    split
    · omega
    · split <;> omega
  rw [← hval, fabCtlStored]
  split
  · exact fldAt_setFldAt_disjoint _ (f := F.fabCtlTwoNet) (g := F.fabCtlWeightVc0) rfl (by decide) (by decide) _ _ _ _
  · rfl

theorem fabCtlStored_twoNet (s : State) (v : Word) :
    fld (fabCtlStored s v) F.fabCtlTwoNet = if s.ident.fm2 then 0 else wfld v F.fabCtlTwoNet := by
  rw [fabCtlStored]
  split
  · exact fldAt_setFldAt_same _ (f := F.fabCtlTwoNet) (by decide) _ _ _ _
  · rw [fld_stored_fabCtl s v (f := F.fabCtlTwoNet) rfl (by decide) (.inr rfl) (by decide)]
    have hlt : wfld v F.fabCtlTwoNet < 2 := Nat.mod_lt _ (by decide)
    show clampNat 0 1 (wfld v F.fabCtlTwoNet) % 2 = _
    unfold clampNat
    split
    · omega
    · split <;> omega

/-! ### Registers without a behaviour -/

theorem stored_counts (s : State) (r : RegRef) (v : Word) : (stored s r v).counts = s.counts := rfl

/-- A served plain write of a register that brings nothing else about. -/
theorem stored_answered {a : Nat} {r : RegRef} (hs : regGate s o (isRed a) true = .served) (hr : resolve s a = .ok r)
    (hp : ∀ v, writeServed s o r v = writePlain s r v) (hopen : r.reg.fields.all (fun f => f.acc == .ro) = false)
    (hl : r.reg.fields.any (fun f => f.acc == .rwl) = false) (hk : r.reg.fields.any (fun f => f.kind == .kept && f.writable) = false)
    (haft : ∀ t, afterWrite s t r = t) : RegAnswered (.registerWritePlain o a v) s o C.ok 0 (stored s r v) := by
  refine plainWrite_answered hs ?_ (by rw [(stored_core s r v).sec])
  rw [writeAt_ok hr, hp, writePlain_accepted (plainWrite_of_open hopen (.inl hl)), haft, hk]
  simp

theorem pctSel_stored (s : State) (v : Word) : fld (stored s ⟨.pctSel, 0, 0, 0⟩ v) F.pctSelEvent = v.toNat := by
  obtain ⟨w, -, he⟩ := fldAt_stored (s := s) (v := v) (f := F.pctSelEvent) (d := 0) (i := 0) (j := 0) (by decide) (by decide) (by decide)
  rw [fld, show (⟨.pctSel, 0, 0, 0⟩ : RegRef) = ⟨F.pctSelEvent.reg, 0, 0, 0⟩ from rfl, he, fieldOf_store_rw (.inl rfl) (by decide) (by decide)]
  have hv : wfld v F.pctSelEvent = v.toNat := by
    rw [wfld, fieldOf]
    exact Nat.mod_eq_of_lt v.isLt
  have hlt : v.toNat < 4294967296 := v.isLt
  rw [hv]
  show clampNat 0 4294967295 v.toNat % 4294967296 = _
  unfold clampNat
  split
  · omega
  · split <;> omega

theorem tbEvent_stored (s : State) (v : Word) :
    fld (stored s ⟨.tbEvent, 0, 0, 0⟩ v) F.tbEventHoldover = if wfld v F.tbEventHoldover = 0 then fld s F.tbEventHoldover else 0 := by
  obtain ⟨w, hw, he⟩ := fldAt_stored (s := s) (v := v) (f := F.tbEventHoldover) (d := 0) (i := 0) (j := 0) (by decide) (by decide) (by decide)
  rw [fld, show (⟨.tbEvent, 0, 0, 0⟩ : RegRef) = ⟨F.tbEventHoldover.reg, 0, 0, 0⟩ from rfl, he, fieldOf_store_rw1c rfl, hw, fld]

end Sys2Proof.Machine

namespace Sys2Proof.Proofs
open Sys2Proof Sys2Proof.Machine

/-- Settles O60: each write's effect is run on the state of the access, and its register's fields hold what their access codes let it store. -/
theorem registerWritesTakeEffect : Obligations.RegisterWritesTakeEffect := by
  intro s o v
  refine ⟨fun hs => ⟨fun hn => ?_, fun slot b hb => ⟨fun hst => ?_, fun hst => ?_⟩, fun hn => ?_, fun slot b hb => ⟨fun h1 h2 => ?_, fun hst => ?_⟩,
    fun hd => ?_, fun hd hn => ?_, fun slot i b x r hd hsel => ⟨fun h => ?_, fun h hh ht hw => ?_, fun h hh => ?_, fun ho h1 h2 => ?_, fun ho => ?_,
      fun ho h1 h2 => ?_, fun ho h1 => ?_⟩⟩,
    fun a hs => ⟨fun c hr => ?_, fun hr => ?_, fun hr hl => ?_, fun hr hl => ?_, fun hr => ?_, fun hr => ?_⟩⟩
  · exact regAnswered_of_write hs rfl (withSlot_none hn _ _)
  · refine regAnswered_of_write hs rfl (withSlot_invalid hb ?_ _)
    rcases hst with h | h | h | h <;> rw [h] <;> rfl
  · obtain ⟨b', hb', hall⟩ := raiseKey_pending (slotBundle_of_byHandle hb)
    refine ⟨_, b', regAnswered_of_write hs rfl (withSlot_ok hb ?_ _), hb', hall⟩
    rcases hst with h | h | h | h <;> rw [h] <;> rfl
  · exact regAnswered_of_write hs rfl (withSlot_none hn _ _)
  · exact regAnswered_of_write hs rfl (withSlot_invalid hb (by simp [h1, h2]) _)
  · obtain ⟨b', hb', hall⟩ := epochEnd_markers (slotBundle_of_byHandle hb) none
    exact ⟨_, b', regAnswered_of_write hs rfl (withSlot_ok hb (by rcases hst with h | h <;> rw [h] <;> rfl) _), hb', hall⟩
  · exact ⟨regAnswered_of_write hs rfl (talWrites_denied hd).1, regAnswered_of_write hs rfl (talWrites_denied hd).2⟩
  · exact ⟨regAnswered_of_write hs rfl (talWrites_none hd hn).1, regAnswered_of_write hs rfl (talWrites_none hd hn).2⟩
  · exact regAnswered_of_write hs rfl (talSet_range hd hsel h)
  · obtain ⟨u, b', hu, hb', hx⟩ := talSet_home hd hsel h hh ht hw
    exact ⟨u, b', regAnswered_of_write hs rfl hu, hb', hx⟩
  · exact regAnswered_of_write hs rfl (talSet_elsewhere hd hsel h hh)
  · exact regAnswered_of_write hs rfl (talRehome_noStation hd hsel ho h1 h2)
  · exact regAnswered_of_write hs rfl (talRehome_notOrphaned hd hsel ho)
  · obtain ⟨u, b', hu, hb', hx⟩ := talRehome_gives hd hsel ho (.inr h2)
    exact ⟨u, b', regAnswered_of_write hs rfl hu, hb', by rw [hx, rehomed, if_neg h1]⟩
  · obtain ⟨u, b', hu, hb', hx⟩ := talRehome_gives hd hsel ho (.inl h1)
    exact ⟨u, b', regAnswered_of_write hs rfl hu, hb', by rw [hx, rehomed, if_pos h1]⟩
  · exact plainWrite_answered hs (writeAt_error hr) rfl
  · have hp : plainWrite s ⟨.idPart, 0, 0, 0⟩ v = (s, C.regReadOnly) := plainWrite_of_ro (by decide)
    exact plainWrite_answered hs ((writeAt_ok hr).trans (writePlain_refused hp (by decide))) rfl
  · have hp : plainWrite s ⟨.fabCtl, 0, 0, 0⟩ v = (s, C.regLocked) := plainWrite_of_locked (by decide) (by decide) hl
    exact plainWrite_answered hs ((writeAt_ok hr).trans (writePlain_refused hp (by decide))) rfl
  · have hcore := fabCtlStored_core s v
    refine ⟨fabCtlStored s v, plainWrite_answered hs ((writeAt_ok hr).trans (fabCtl_written hl)) ?_, fabCtlStored_weight s v, fabCtlStored_twoNet s v,
      hcore.sec, hcore.fab, hcore.optics⟩
    rw [(LinkWork.afterFabCtl _).sec, hcore.sec]
  · exact ⟨_, stored_answered hs hr (fun _ => rfl) (by decide) (by decide) (by decide) (fun _ => rfl), pctSel_stored s v, (stored_core s _ v).sec,
      stored_counts s _ v⟩
  · refine ⟨_, stored_answered hs hr (fun _ => rfl) (by decide) (by decide) (by decide) (fun _ => rfl), fun h => ?_, fun h => ?_⟩
    · rw [tbEvent_stored, if_neg (by omega)]
    · rw [tbEvent_stored, if_pos h]

end Sys2Proof.Proofs
end

section
/-!
SUPPORT. Hubs (R447, R484 to R495): a hub changed leaves the other one, and what other operations leave of both.
-/
namespace Sys2Proof.Machine
open Sys2Proof

variable {s t u : State}

/-! ### Hubs changed -/

theorem peer_ne (h : Hub) : peer h ≠ h := by cases h <;> decide

@[simp] theorem hubOf_setHub (s : State) (h : Hub) (x : HubSt) : hubOf (setHub s h x) h = x := by cases h <;> rfl

@[simp] theorem hubOf_modHub (s : State) (h : Hub) (f : HubSt → HubSt) : hubOf (modHub s h f) h = f (hubOf s h) := hubOf_setHub s h _

theorem hubOf_setHub_other (s : State) {h k : Hub} (hk : k ≠ h) (x : HubSt) : hubOf (setHub s h x) k = hubOf s k := by
  cases h with
  | ha => cases k with
    | ha => exact absurd rfl hk
    | hb => rfl
  | hb => cases k with
    | ha => rfl
    | hb => exact absurd rfl hk

theorem hubOf_modHub_other (s : State) {h k : Hub} (hk : k ≠ h) (f : HubSt → HubSt) : hubOf (modHub s h f) k = hubOf s k := hubOf_setHub_other s hk _

@[simp] theorem hubOf_modHub_peer (s : State) (h : Hub) (f : HubSt → HubSt) : hubOf (modHub s h f) (peer h) = hubOf s (peer h) :=
  hubOf_modHub_other s (peer_ne h) f

theorem hubOf_of_eq (ha : t.ha = s.ha) (hb : t.hb = s.hb) (h : Hub) : hubOf t h = hubOf s h := by cases h <;> assumption

theorem hubOf_setRegWord (s : State) (r : RegRef) (v : Word) (h : Hub) : hubOf (setRegWord s r v) h = hubOf s h := hubOf_of_eq rfl rfl h

theorem hubOf_setFldAt (s : State) (f : Fld) (d i j v : Nat) (h : Hub) : hubOf (setFldAt s f d i j v) h = hubOf s h := hubOf_setRegWord s _ _ h

theorem hubOf_setEvent (s : State) (f : Fld) (h : Hub) : hubOf (setEvent s f) h = hubOf s h := hubOf_setFldAt s f _ _ _ _ h

theorem hubOf_modEng (s : State) (h : Hub) (f : Servo → Servo) (k : Hub) : hubOf (modEng s h f) k = hubOf s k := by
  cases h <;> exact hubOf_of_eq rfl rfl k

/-! ### Firmware updates (R493 to R495) -/

section Update
variable {o : Origin} {v : Word} {h : Hub}

theorem fwWriteCmd_busy (ha : s.active = some h) (hb : s.fw.step ≠ 0 ∨ firmwareRuns (hubOf s (peer h)) = false) :
    fwWriteCmd s o v = (s, C.fwBusy) := by
  rw [fwWriteCmd, ha]
  exact if_pos hb

theorem fwWriteCmd_free (ha : s.active = some h) (h0 : s.fw.step = 0) (hr : firmwareRuns (hubOf s (peer h)) = true) :
    fwWriteCmd s o v = match (fwStage s o (wfld v F.redFwCmdStage)).bind (checkImage s) with
      | none => (setFw s (fun f => { f with last := C.fwImageBad }), C.fwImageBad)
      | some im => (setFw s (fun _ => { step := 1, last := C.ok, image := some im, stage := wfld v F.redFwCmdStage }), C.ok) := by
  rw [fwWriteCmd, ha]
  simp only [h0, hr, ne_eq, not_true_eq_false, Bool.true_eq_false, or_self, if_false] <;> rfl

theorem fwHandoverCmd_busy (ha : s.active = some h) (hb : s.fw.step ≠ 0) : fwHandoverCmd s v = (s, C.fwBusy) := by
  rw [fwHandoverCmd, ha]
  exact if_pos hb

theorem fwHandoverCmd_refused (ha : s.active = some h) (h0 : s.fw.step = 0) (hn : (hubOf s (peer h)).health ≠ .standbySync)
    (hf : wfld v F.redFwCmdForce = 0) : fwHandoverCmd s v = (setFw s (fun f => { f with last := C.fwNotSync }), C.fwNotSync) := by
  rw [fwHandoverCmd, ha]
  simp [h0, hn, hf]

theorem fwHandoverCmd_asks (ha : s.active = some h) (h0 : s.fw.step = 0)
    (hok : (hubOf s (peer h)).health = .standbySync ∨ wfld v F.redFwCmdForce ≠ 0) :
    fwHandoverCmd s v = (raiseIbi (modHub (setFw s (fun f => { f with step := 4 })) h (fun x => { x with health := .handoverReq })) h, C.ok) := by
  have hn : ¬ ((hubOf s (peer h)).health ≠ .standbySync ∧ wfld v F.redFwCmdForce = 0) := fun k => hok.elim k.1 fun k' => k' k.2
  rw [fwHandoverCmd, ha]
  simp only [h0, ne_eq, not_true_eq_false, if_false]
  rw [if_neg hn]

theorem fwAbortCmd_idle (h0 : s.fw.step = 0) : fwAbortCmd s = (s, C.ok) := if_pos h0

theorem fwAbortCmd_one (h1 : s.fw.step = 1) : fwAbortCmd s = (setFw s (fun f => { f with step := 0, image := none }), C.ok) := by
  simp [fwAbortCmd, h1]

theorem fwAbortCmd_late (h2 : 2 ≤ s.fw.step) : fwAbortCmd s = (s, C.fwBusy) := by
  simp [fwAbortCmd, show s.fw.step ≠ 0 by omega, show s.fw.step ≠ 1 by omega]

theorem fwAdvance_begins {im : FwImage} (ha : s.active = some h) (him : s.fw.image = some im) (h1 : s.fw.step = 1) :
    fwAdvance s = setFw s (fun f => { f with step := 2 }) := by
  simp [fwAdvance, ha, him, h1]

/-- The standby as the image that was written makes it restart. -/
theorem fwAdvance_writes {im : FwImage} (ha : s.active = some h) (him : s.fw.image = some im) (h2 : s.fw.step = 2) :
    fwAdvance s = modEng (modHub (releaseStage (loseSync (setFw s (fun f => { f with step := 3 })) (peer h)) s.fw.stage) (peer h)
      (fun x => { x.restart .restarting with fw := im })) (peer h) Servo.restart := by
  simp [fwAdvance, ha, him, h2]

theorem fwAdvance_idle (hn : s.active = none ∨ s.fw.image = none ∨ (s.fw.step ≠ 1 ∧ s.fw.step ≠ 2)) : fwAdvance s = s := by
  unfold fwAdvance
  split
  · rename_i ha him
    rcases hn with hn | hn | ⟨h1, h2⟩
    · rw [ha] at hn
      cases hn
    · rw [him] at hn
      cases hn
    · rw [if_neg h1, if_neg h2]
  · rfl

theorem loseSync_frame (s : State) (h : Hub) :
    (loseSync s h).synced = false ∧ (loseSync s h).active = s.active ∧ (loseSync s h).fw = s.fw := by
  unfold loseSync
  dsimp only
  split
  · cases h <;> exact ⟨rfl, rfl, rfl⟩
  · rename_i hs
    cases h <;> exact ⟨Bool.eq_false_iff.2 hs, rfl, rfl⟩

@[simp] theorem modEng_fw (s : State) (h : Hub) (f : Servo → Servo) : (modEng s h f).fw = s.fw := by cases h <;> rfl
@[simp] theorem modEng_synced (s : State) (h : Hub) (f : Servo → Servo) : (modEng s h f).synced = s.synced := by cases h <;> rfl
@[simp] theorem modEng_active (s : State) (h : Hub) (f : Servo → Servo) : (modEng s h f).active = s.active := by cases h <;> rfl
@[simp] theorem modHub_fw (s : State) (h : Hub) (f : HubSt → HubSt) : (modHub s h f).fw = s.fw := setHub_fw s h _
@[simp] theorem modHub_synced (s : State) (h : Hub) (f : HubSt → HubSt) : (modHub s h f).synced = s.synced := setHub_synced s h _
@[simp] theorem modHub_active (s : State) (h : Hub) (f : HubSt → HubSt) : (modHub s h f).active = s.active := setHub_active s h _

end Update

/-! ### Ethernet ports (R447 to R449) -/

theorem arpNdIcmpEcho_silent {h : Hub} {kind : Nat} {target payload : List Byte}
    (hn : ¬ (s.phase = .running ∧ firmwareRuns (hubOf s h) = true) ∨ (hubOf s h).link = false ∨ ownsAddress s h target = false) :
    exec (.arpNdIcmpEcho h kind target payload) s = .next s := by
  refine congrArg done (if_pos ?_)
  rcases hn with hn | hn | hn
  · by_cases hp : s.phase = .running
    · exact .inr (.inl (Bool.eq_false_iff.2 fun hf => hn ⟨hp, hf⟩))
    · exact .inl hp
  · exact .inr (.inr (.inl hn))
  · exact .inr (.inr (.inr hn))

theorem arpNdIcmpEcho_answers {h : Hub} {kind : Nat} {target payload : List Byte} (hp : s.phase = .running) (hf : firmwareRuns (hubOf s h) = true)
    (hl : (hubOf s h).link = true) (hown : ownsAddress s h target = true) :
    exec (.arpNdIcmpEcho h kind target payload) s = .next (emit s (.ether h kind (if kind = 2 then payload else macOf s h))) :=
  congrArg done (if_neg (by simp [hp, hf, hl, hown]))

end Sys2Proof.Machine

namespace Sys2Proof.Proofs
open Sys2Proof Sys2Proof.Machine

/-- Settles O55: each command of an update in each of its steps, and each port's link. -/
theorem firmwareAndPorts : Obligations.FirmwareAndPorts := by
  refine ⟨fun s o v h hs ha => ⟨fun hb => ?_, fun _ hr => ?_, fun h0 hr => ⟨fun hn => ?_, fun im him => ?_⟩,
      fun h0 => ⟨fun hok => ?_, fun hn hf => ?_⟩, fun h0 => ?_, fun h1 => ?_, fun h2 => ?_⟩,
    fun s o => ⟨fun h im hp ha him => ⟨fun h1 => ?_, fun h2 => ?_⟩, fun hn => ?_⟩,
    fun s h kind target payload => ⟨?_, fun hup he => ?_, fun hn => ?_, fun ⟨hp, hf⟩ hl hown => ?_, arpNdIcmpEcho_silent⟩⟩
  · exact ⟨regAnswered_of_write hs rfl (fwWriteCmd_busy ha (.inl hb)), regAnswered_of_write hs rfl (fwHandoverCmd_busy ha hb)⟩
  · exact regAnswered_of_write hs rfl (fwWriteCmd_busy ha (.inr hr))
  · exact regAnswered_of_write hs rfl ((fwWriteCmd_free ha h0 hr).trans (by rw [hn]; rfl))
  · exact regAnswered_of_write hs rfl ((fwWriteCmd_free ha h0 hr).trans (by rw [him]; rfl))
  · refine ⟨_, regAnswered_of_write hs rfl (fwHandoverCmd_asks ha h0 hok), ?_, ?_, ?_⟩
    · exact (congrArg FwUpdate.step (modHub_fw (setFw s fun f => { f with step := 4 }) h _) :)
    · exact (congrArg HubSt.health (hubOf_modHub (setFw s fun f => { f with step := 4 }) h _) :)
    · exact modHub_active _ h _
  · exact regAnswered_of_write hs rfl (fwHandoverCmd_refused ha h0 hn hf)
  · exact regAnswered_of_write hs rfl (fwAbortCmd_idle h0)
  · exact regAnswered_of_write hs rfl (fwAbortCmd_one h1)
  · exact regAnswered_of_write hs rfl (fwAbortCmd_late h2)
  · exact congrArg done ((if_pos hp).trans (fwAdvance_begins ha him h1))
  · obtain ⟨hsync, hact, hfw⟩ := loseSync_frame (setFw s fun f => { f with step := 3 }) (peer h)
    refine ⟨_, congrArg done ((if_pos hp).trans (fwAdvance_writes ha him h2)), ?_, ?_, ?_, ?_, ?_⟩
    · rw [modEng_fw, modHub_fw]
      exact congrArg FwUpdate.step hfw
    · rw [hubOf_modEng, hubOf_modHub]
    · rw [hubOf_modEng, hubOf_modHub]
      rfl
    · rw [modEng_synced, modHub_synced]
      exact hsync
    · rw [modEng_active, modHub_active]
      exact hact.trans ha
  · refine congrArg done ?_
    by_cases hp : s.phase = .running
    · exact (if_pos hp).trans (fwAdvance_idle (hn.resolve_left fun k => k hp))
    · exact if_neg hp
  · exact ⟨_, rfl, hubOf_modHub s h _, hubOf_modHub_peer s h _⟩
  · obtain ⟨hp, hf⟩ := hup
    exact ⟨modHub s h fun x => { x with link := true, ethDown := false }, congrArg done (if_pos ⟨hp, hf, he⟩), hubOf_modHub s h _, hubOf_modHub_peer s h _⟩
  · refine congrArg done (if_neg fun ⟨hp, hf, he⟩ => ?_)
    exact hn.elim (fun k => k ⟨hp, hf⟩) fun k => k he
  · refine ⟨_, _, arpNdIcmpEcho_answers hp hf hl hown, rfl, fun hk => if_pos hk, fun hk => if_neg hk⟩

end Sys2Proof.Proofs
end

section
/-!
SUPPORT. Performance counters (R506 to R512, R517) and debug access (R513, R518) as registers give them.
-/
namespace Sys2Proof.Machine
open Sys2Proof

variable {s u : State} {o : Origin} {v : Word} {d : Nat} {x : Where}

/-! ### Performance counters -/

theorem countOf_setD (s : State) (ev : Nat) (c : Count) : countOf { s with counts := SMap.setD s.counts ev c ⟨0, false⟩ } ev = c := by
  simp only [countOf, SMap.getD_setD, if_true]

theorem wfld_bit {f : Fld} (hf : f.width = 1) (v : Word) : wfld v f = 0 ∨ wfld v f = 1 := by
  have hlt : wfld v f < 2 ^ f.width := Nat.mod_lt _ (Nat.two_pow_pos _)
  rw [hf] at hlt
  omega

theorem clampNat_bit (v : Nat) (h : v = 0 ∨ v = 1) : clampNat 0 1 v % 2 = v := by
  rcases h with rfl | rfl <;> rfl

theorem pctSmpCtl_plain (s : State) (k : Nat) (v : Word) : plainWrite s ⟨.pctSmpCtl, 0, k, 0⟩ v = (stored s ⟨.pctSmpCtl, 0, k, 0⟩ v, C.ok) :=
  (plainWrite_of_open (r := ⟨.pctSmpCtl, 0, k, 0⟩) (show Reg.pctSmpCtl.fields.all (fun f => f.acc == .ro) = false by decide)
    (.inl (show Reg.pctSmpCtl.fields.any (fun f => f.acc == .rwl) = false by decide))).trans (by
    rw [if_neg (show ¬ (Reg.pctSmpCtl.fields.any fun f => f.kind == .kept && f.writable) = true by decide)])

theorem pctSmpCtl_enable (s : State) (k : Nat) (v : Word) :
    fldAt (stored s ⟨.pctSmpCtl, 0, k, 0⟩ v) F.pctSmpCtlEnable 0 k 0 = wfld v F.pctSmpCtlEnable := by
  obtain ⟨w, -, he⟩ := fldAt_stored (s := s) (v := v) (f := F.pctSmpCtlEnable) (d := 0) (i := k) (j := 0) (by decide) (by decide) (by decide)
  rw [show (⟨.pctSmpCtl, 0, k, 0⟩ : RegRef) = ⟨F.pctSmpCtlEnable.reg, 0, k, 0⟩ from rfl, he, fieldOf_store_rw (.inl rfl) (by decide) (by decide)]
  exact clampNat_bit _ (wfld_bit rfl v)

theorem fldAt_withSampling (s : State) (p : Sampling) (f : Fld) (d i j : Nat) : fldAt { s with sampling := p } f d i j = fldAt s f d i j := rfl

theorem stored_sampling (s : State) (r : RegRef) (v : Word) : (stored s r v).sampling = s.sampling := rfl

theorem pctSmpCtlWrite_slot (s : State) {k : Nat} (hk : k < 8) (v : Word) : ∃ u, pctSmpCtlWrite s k v = (u, C.ok) ∧
    fldAt u F.pctSmpCtlEnable 0 k 0 = wfld v F.pctSmpCtlEnable ∧
    u.sampling.slots = (if wfld v F.pctSmpCtlEnable = 1 then modAt s.sampling.slots k (fun _ => ⟨[]⟩) else s.sampling.slots) := by
  simp only [pctSmpCtlWrite, if_neg (Nat.not_le.2 hk), pctSmpCtl_plain]
  rcases wfld_bit (f := F.pctSmpCtlEnable) rfl v with he | he
  · refine ⟨_, by rw [if_pos he], pctSmpCtl_enable s k v, ?_⟩
    rw [if_neg (by omega), stored_sampling]
  · refine ⟨_, by rw [if_neg (by omega)], ?_, ?_⟩
    · exact (fldAt_withSampling _ _ _ _ _ _).trans (pctSmpCtl_enable s k v)
    · rw [if_pos he, stored_sampling]

/-- PCT_VAL_HI as it is latched. -/
def pctLatched (s : State) (w : Word) : State := setRegWord s ⟨.pctValHi, 0, 0, 0⟩ w

theorem pctLatched_word (s : State) (w : Word) : regWord (pctLatched s w) ⟨.pctValHi, 0, 0, 0⟩ = w := regWord_setRegWord_same s _ w

theorem pctLatched_counts (s : State) (w : Word) : (pctLatched s w).counts = s.counts := rfl

/-- A flag of PCT_VAL_HI above its value. -/
theorem fieldOf_pctHi {hi a b c lsb : Nat} (hl : lsb = 29 ∨ lsb = 30) (ha : a < 2) (hb : b < 2) :
    fieldOf (pctHi hi a b c).toNat lsb 1 = if lsb = 29 then a else b := by
  have hlow : hi % 2 ^ 16 < 2 ^ 16 := Nat.mod_lt _ (by decide)
  rw [pctHi, BitVec.toNat_ofNat, fieldOf, Nat.shiftRight_eq_div_pow]
  generalize hi % 2 ^ 16 = n at hlow
  rcases hl with rfl | rfl
  · rw [if_pos rfl]
    omega
  · rw [if_neg (by decide)]
    omega

theorem pctValLoRead_absent (h : eventExists s.ident (pctSel s) = false) :
    pctValLoRead s = (pctLatched (takeFree s).2 (pctHi ((takeFree s).1.toNat / 2 ^ 32) 1 0 0), BitVec.setWidth 32 (takeFree s).1) := if_pos h

theorem pctValLoRead_denied (h : eventExists s.ident (pctSel s) = true) (hr : hostReadable s (pctSel s) = false) :
    pctValLoRead s = (pctLatched s (pctHi 0 0 1 0), 0) := by
  simp only [pctValLoRead, h, hr, Bool.true_eq_false, if_false, if_true]
  rfl

theorem pctValLoRead_value (h : eventExists s.ident (pctSel s) = true) (hr : hostReadable s (pctSel s) = true) :
    pctValLoRead s = (pctLatched s (pctHi ((countOf s (pctSel s)).value / 2 ^ 32) 0 0 (b2n (countOf s (pctSel s)).wrap)),
      BitVec.ofNat 32 (countOf s (pctSel s)).value) := by
  simp only [pctValLoRead, h, hr, Bool.true_eq_false, if_false]
  rfl

/-! ### Debug access: reads -/

theorem stopped_iff (r : RunState) : r.stopped = true ↔ r ≠ .running := bne_iff_ne

/-- An item fetched into both words of a die. -/
def dbgShown (s : State) (d y : Nat) : State :=
  setRegWord (setRegWord s ⟨.dieDbgLo, d, 0, 0⟩ (BitVec.ofNat 32 y)) ⟨.dieDbgHi, d, 0, 0⟩ (BitVec.ofNat 32 (y / 2 ^ 32))

theorem dbgShown_hi (s : State) (d y : Nat) : regWord (dbgShown s d y) ⟨.dieDbgHi, d, 0, 0⟩ = BitVec.ofNat 32 (y / 2 ^ 32) :=
  regWord_setRegWord_same _ _ _

theorem dbgLoRead_running (hd : d < s.ident.dies) (hon : stationOn s (dbgCell s d) = some x) (hi : dbgItem s d < 3) (hr : x.st.run = .running) :
    dbgLoRead s d = (s, C.dbgNotStopped, 0) := by
  have hstop : x.st.run.stopped = false := by rw [hr]; rfl
  simp [dbgLoRead, Nat.not_le.2 hd, hon, hi, hstop]

/-- A selection that has a value is read. -/
theorem dbgLoRead_shows (hd : d < s.ident.dies) (hon : stationOn s (dbgCell s d) = some x) (hi : dbgItem s d < 3 → x.st.run ≠ .running) {y : Nat}
    (hf : dbgFetch s x (dbgItem s d) (dbgIndex s d) = (u, some y)) : dbgLoRead s d = (dbgShown u d y, C.ok, BitVec.ofNat 32 y) := by
  have hguard : ¬ (dbgItem s d < 3 ∧ x.st.run.stopped = false) := fun ⟨h3, hf⟩ => by
    rw [(stopped_iff _).2 (hi h3)] at hf
    cases hf
  simp only [dbgLoRead, Nat.not_le.2 hd, if_false, hon, hguard, hf]
  rfl

theorem dbgFetch_reg (s : State) (x : Where) {item : Nat} (hi : item ≠ 3) (index : Nat) : dbgFetch s x item index = (s, dbgReg x.st item index) := if_neg hi

/-- A scratch word that needs no correction is fetched as it stands. -/
theorem dbgFetch_scratch {a : Nat} (ha : 8 * a < scratchBytes) (hc : scanItems x.st.scratch [.bytes (8 * a) 8] = ⟨x.st.scratch, 0, 0, []⟩) :
    dbgFetch s x 3 a = (modStation s x.slot x.idx fun st => { st with scratch := x.st.scratch },
      some (leNat ((List.range 8).map fun i => hostByte x.st (8 * a + i)))) := by
  simp only [dbgFetch, if_true, Nat.not_le.2 ha, if_false, hc]
  rfl

theorem dbgLo_answered (hs : Served s o false) {st : Nat} {w : Word} (hr : dbgLoRead s d = (u, st, w)) : RegAnswered (.dieDbgLoRead o d) s o st w u := by
  rw [RegAnswered, show exec (.dieDbgLoRead o d) s = done (regAnswer (regGate s o false false) s o fun s => dbgLoRead s d) from rfl,
    show regGate s o false false = .served from hs]
  simp only [regAnswer, hr]
  rfl

/-! ### Debug access: writes -/

theorem dbgCmdWrite_absent (hd : s.ident.dies ≤ d) : dbgCmdWrite s o d v = (s, C.regAbsent) := if_pos hd

theorem dbgCmdWrite_nothing (hd : d < s.ident.dies) (hw : wfld v F.dieDbgCmdWrite = 0) : dbgCmdWrite s o d v = (s, C.ok) := by
  simp [dbgCmdWrite, Nat.not_le.2 hd, hw]

section Writes
variable (hd : d < s.ident.dies) (hw : wfld v F.dieDbgCmdWrite = 1)
include hd hw

theorem dbgCmdWrite_denied (hr : debugRight s rightStation = false) : dbgCmdWrite s o d v = (s, C.dbgDenied) := by
  simp [dbgCmdWrite, Nat.not_le.2 hd, hw, hr]

theorem dbgCmdWrite_empty (hr : debugRight s rightStation = true) (hon : stationOn s (dbgCell s d) = none) :
    dbgCmdWrite s o d v = (s, C.dbgNotStopped) := by
  simp [dbgCmdWrite, Nat.not_le.2 hd, hw, hr, hon]

theorem dbgCmdWrite_notHeld (hr : debugRight s rightStation = true) (hon : stationOn s (dbgCell s d) = some x) (hst : x.b.st ≠ .held) :
    dbgCmdWrite s o d v = (s, C.dbgNotStopped) := by
  simp [dbgCmdWrite, Nat.not_le.2 hd, hw, hr, hon, hst]

/-- A write of an item of a station of a HELD bundle. -/
theorem dbgCmdWrite_puts (hr : debugRight s rightStation = true) (hon : stationOn s (dbgCell s d) = some x) (hst : x.b.st = .held)
    (hex : dbgExists (dbgItem s d) (dbgIndex s d) = true) {y : Nat} (hf : dbgFetch s x (dbgItem s d) (dbgIndex s d) = (u, some y))
    (hu : stationAt u x.slot x.idx = some x.st) : ∃ t, dbgCmdWrite s o d v = (t, C.ok) ∧ stationAt t x.slot x.idx =
      some (dbgPut x.st (dbgItem s d) (dbgIndex s d) ((regWord s ⟨.dieDbgLo, d, 0, 0⟩).toNat + 2 ^ 32 * (regWord s ⟨.dieDbgHi, d, 0, 0⟩).toNat)) := by
  simp only [dbgCmdWrite, Nat.not_le.2 hd, if_false, hw, one_ne_zero, hr, Bool.true_eq_false, hon, hst, ne_eq, not_true_eq_false, hex, hf]
  refine ⟨_, rfl, ?_⟩
  rw [stationAt_of_pl (reportNow_pl _ _ _ _ _ _ _), stationAt_modStation, hu]
  rfl

end Writes

theorem OnCell.stationAt {cell : Nat} (h : OnCell s cell x) : stationAt s x.slot x.idx = some x.st := by
  rw [stationAt_of_slotBundle h.slot, h.station]

end Sys2Proof.Machine

namespace Sys2Proof.Proofs
open Sys2Proof Sys2Proof.Machine

/-- Settles O57: each register's effect, and a station's items fetched and put. -/
theorem countersAndDebugAccess : Obligations.CountersAndDebugAccess := by
  intro s o v
  refine ⟨fun hs => ⟨fun hw => ?_, fun hw => ?_, fun k hk => ?_, fun k hk => ?_, fun hw => ?_, fun hw => ?_⟩,
    fun hs => ⟨fun he => ?_, fun he hr => ?_, fun he hr => ?_⟩, fun hs => ?_,
    fun d => ⟨fun hs hd => ?_, fun hs hd => ?_, fun hs hd hw => ?_, fun hs hd hw => ⟨fun hr => ?_, fun hr hn => ?_⟩⟩, fun d x hd hx => ?_⟩
  · refine ⟨_, regAnswered_of_write hs rfl (Prod.ext (if_neg (by omega)) rfl), ?_, ?_⟩
    · exact (congrArg Count.wrap (countOf_setD s (pctSel s) { countOf s (pctSel s) with wrap := false }) :)
    · exact (congrArg Count.value (countOf_setD s (pctSel s) { countOf s (pctSel s) with wrap := false }) :)
  · exact regAnswered_of_write hs rfl (Prod.ext (if_pos hw) rfl)
  · obtain ⟨u, hu, he, hsl⟩ := pctSmpCtlWrite_slot s hk v
    exact ⟨u, regAnswered_of_write hs rfl hu, he, hsl⟩
  · exact regAnswered_of_write hs rfl (if_pos hk)
  · exact ⟨_, regAnswered_of_write hs rfl (Prod.ext (if_neg (by omega)) rfl), rfl, rfl⟩
  · exact regAnswered_of_write hs rfl (Prod.ext (if_pos hw) rfl)
  · refine ⟨_, _, regAnswered_of_read hs rfl (pctValLoRead_absent he), pctLatched_counts _ _, ?_⟩
    exact (congrArg (fun w : Word => fieldOf w.toNat 29 1) (pctLatched_word _ _)).trans (fieldOf_pctHi (.inl rfl) (by decide) (by decide))
  · exact ⟨_, regAnswered_of_read hs rfl (pctValLoRead_value he hr), pctLatched_counts _ _, pctLatched_word _ _⟩
  · refine ⟨_, regAnswered_of_read hs rfl (pctValLoRead_denied he hr), pctLatched_counts _ _, ?_⟩
    exact (congrArg (fun w : Word => fieldOf w.toNat 30 1) (pctLatched_word _ _)).trans (fieldOf_pctHi (.inr rfl) (by decide) (by decide))
  · exact ⟨_, regAnswered_of_read hs rfl rfl, regWord_setRegWord_same _ _ _⟩
  · exact dbgLo_answered hs (if_pos hd)
  · exact regAnswered_of_write hs rfl (dbgCmdWrite_absent hd)
  · exact regAnswered_of_write hs rfl (dbgCmdWrite_nothing hd hw)
  · exact regAnswered_of_write hs rfl (dbgCmdWrite_denied hd hw hr)
  · exact regAnswered_of_write hs rfl (dbgCmdWrite_empty hd hw hr hn)
  · dsimp only
    have reads {u : State} {y : Nat} (hs : Served s o false) (hi : dbgItem s d < 3 → x.st.run ≠ .running)
        (hf : dbgFetch s x (dbgItem s d) (dbgIndex s d) = (u, some y)) : ∃ u, RegAnswered (.dieDbgLoRead o d) s o C.ok (BitVec.ofNat 32 y) u ∧
          regWord u ⟨.dieDbgHi, d, 0, 0⟩ = BitVec.ofNat 32 (y / 2 ^ 32) :=
      ⟨_, dbgLo_answered hs (dbgLoRead_shows hd hx.on hi hf), dbgShown_hi _ _ _⟩
    refine ⟨fun hs hi hr => dbgLo_answered hs (dbgLoRead_running hd hx.on hi hr), fun hs hr => ⟨fun hi hn => ?_, fun hi => ?_, fun hi => ?_⟩,
      fun hs hi ⟨ha, hc⟩ => ?_, fun hs hw hr => ⟨fun hst => regAnswered_of_write hs rfl (dbgCmdWrite_notHeld hd hw hr hx.on hst), fun hst => ?_⟩⟩
    · exact reads hs (fun _ => hr) ((dbgFetch_reg s x (by omega) _).trans (by rw [hi, dbgReg, if_pos hn]))
    · exact reads hs (fun _ => hr) ((dbgFetch_reg s x (by omega) _).trans (by rw [hi, dbgReg]))
    · exact reads hs (fun _ => hr) ((dbgFetch_reg s x (by omega) _).trans (by rw [hi, dbgReg]))
    · exact reads hs (fun h3 => absurd h3 (by omega)) (hi ▸ dbgFetch_scratch ha hc)
    · have writes {u : State} {y item : Nat} {st : Station} (hi : dbgItem s d = item) (hex : dbgExists item (dbgIndex s d) = true)
          (hf : dbgFetch s x item (dbgIndex s d) = (u, some y)) (hu : stationAt u x.slot x.idx = some x.st)
          (hput : dbgPut x.st item (dbgIndex s d)
            ((regWord s ⟨.dieDbgLo, d, 0, 0⟩).toNat + 2 ^ 32 * (regWord s ⟨.dieDbgHi, d, 0, 0⟩).toNat) = st) :
          ∃ u, RegAnswered (.dieDbgWrite o d v) s o C.ok 0 u ∧ stationAt u x.slot x.idx = some st := by
        subst hi hput
        obtain ⟨t, ht, hat⟩ := dbgCmdWrite_puts (o := o) hd hw hr hx.on hst hex hf hu
        exact ⟨t, regAnswered_of_write hs rfl ht, hat⟩
      refine ⟨fun hi hn => ?_, fun hi => ?_, fun hi => ?_, fun hi ⟨ha, hc⟩ hck => ?_⟩
      · exact writes hi (decide_eq_true hn) ((dbgFetch_reg s x (by decide) _).trans (by rw [dbgReg, if_pos hn])) hx.stationAt rfl
      · exact writes hi rfl ((dbgFetch_reg s x (by decide) _).trans (by rw [dbgReg])) hx.stationAt rfl
      · exact writes hi rfl ((dbgFetch_reg s x (by decide) _).trans (by rw [dbgReg])) hx.stationAt rfl
      · refine writes hi (decide_eq_true ha) (dbgFetch_scratch ha hc) ?_ ?_
        · rw [stationAt_modStation, hx.stationAt]
          rfl
        · simp only [dbgPut, hck, List.map_nil]

end Sys2Proof.Proofs
end

section
/-!
SUPPORT. The recorder (R497 to R505): records written within a second's bound, its window, and its return from degradation.
-/
namespace Sys2Proof.Machine
open Sys2Proof

variable {s t u : State} {h : Hub} {o : Origin} {v : Word}

/-! ### Records within a second (R501) -/

/-- A recorder as it counts the records of the present second. -/
def Recorder.inSecond (c : Recorder) (sec : Nat) : Recorder := if c.second = sec then c else { c with second := sec, written := 0 }

/-- What a second's count leaves alone. -/
theorem Recorder.inSecond_same (c : Recorder) (sec : Nat) : ∃ n m, c.inSecond sec = { c with second := n, written := m } := by
  unfold Recorder.inSecond
  split
  · exact ⟨c.second, c.written, rfl⟩
  · exact ⟨sec, 0, rfl⟩

theorem recordWithin_full {code : Nat} {put : State → State} (hw : 10000 ≤ ((hubOf s h).recorder.inSecond s.tb.sec).written) :
    recordWithin s h code put = setHub s h { hubOf s h with recorder :=
      { (hubOf s h).recorder.inSecond s.tb.sec with
        suppressed := SMap.setD (hubOf s h).recorder.suppressed code (SMap.getD (hubOf s h).recorder.suppressed code 0 + 1) 0 } } := by
  obtain ⟨n, m, he⟩ := (hubOf s h).recorder.inSecond_same s.tb.sec
  refine (if_pos hw).trans ?_
  show setHub s h { hubOf s h with recorder := { (hubOf s h).recorder.inSecond s.tb.sec with
    suppressed := SMap.setD ((hubOf s h).recorder.inSecond s.tb.sec).suppressed code
      (SMap.getD ((hubOf s h).recorder.inSecond s.tb.sec).suppressed code 0 + 1) 0 } } = _
  rw [he]

/-- One more record of the second is counted. -/
def countedRecord (s : State) (h : Hub) : State :=
  setHub s h { hubOf s h with recorder :=
    { (hubOf s h).recorder.inSecond s.tb.sec with written := ((hubOf s h).recorder.inSecond s.tb.sec).written + 1 } }

theorem recordWithin_room {code : Nat} {put : State → State} (hw : ((hubOf s h).recorder.inSecond s.tb.sec).written < 10000) :
    recordWithin s h code put = put (if (hubOf s h).recorder.flashBad && !(hubOf s h).recorder.degraded then degradeRecorder (countedRecord s h) h
      else countedRecord s h) := by
  obtain ⟨n, m, he⟩ := (hubOf s h).recorder.inSecond_same s.tb.sec
  refine (if_neg (Nat.not_le.2 hw)).trans ?_
  show put (if ((hubOf s h).recorder.inSecond s.tb.sec).flashBad && !((hubOf s h).recorder.inSecond s.tb.sec).degraded then
    degradeRecorder (countedRecord s h) h else countedRecord s h) = _
  rw [he]

theorem countedRecord_recorder (s : State) (h : Hub) : (hubOf (countedRecord s h) h).recorder =
    { (hubOf s h).recorder.inSecond s.tb.sec with written := ((hubOf s h).recorder.inSecond s.tb.sec).written + 1 } := by
  rw [countedRecord, hubOf_setHub]

@[simp] theorem hubOf_modRec (s : State) (h : Hub) (f : Recorder → Recorder) :
    hubOf (modRec s h f) h = { hubOf s h with recorder := f (hubOf s h).recorder } := hubOf_modHub s h _

theorem hubOf_modRec_other (s : State) {h k : Hub} (hk : k ≠ h) (f : Recorder → Recorder) : hubOf (modRec s h f) k = hubOf s k :=
  hubOf_modHub_other s hk _

theorem modRec_tb (s : State) (h : Hub) (f : Recorder → Recorder) : (modRec s h f).tb = s.tb := setHub_tb s h _

/-! ### Degradation (R505) -/

theorem Recorder.mirror_same (c : Recorder) (up : Bool) (r : Record) : ∃ q n, c.mirror up r = { c with mirrorQ := q, mirrorDropped := n } := by
  unfold Recorder.mirror
  split
  · exact ⟨_, _, rfl⟩
  · exact ⟨_, _, rfl⟩

/-- A recorder that degrades keeps its numbering and its suppressed counts. -/
theorem degradeRecorder_recorder (s : State) (h : Hub) : ∃ q n, (hubOf (degradeRecorder s h) h).recorder =
    { (hubOf s h).recorder with degraded := true, mirrorQ := q, mirrorDropped := n } := by
  unfold degradeRecorder
  extract_lets c r
  obtain ⟨q, n, hq⟩ := ({ c with degraded := true } : Recorder).mirror_same s.xlink r
  refine ⟨q, n, ?_⟩
  rw [setFld, hubOf_setFldAt]
  show (hubOf (setHub s h { hubOf s h with recorder := ({ c with degraded := true } : Recorder).mirror s.xlink r }) h).recorder = _
  rw [hubOf_setHub, hq]

theorem Recorder.append_same (c : Recorder) (r : Record) : ∃ x y, c.append r =
    { c with ring := x, holding := y, nextSeq := (c.nextSeq + 1) % 2 ^ 32, added := true } ∧ (c.degraded = false → y = c.holding) := by
  unfold Recorder.append
  dsimp only
  split
  · rename_i hd
    exact ⟨_, _, rfl, fun hf => by rw [hd] at hf; cases hf⟩
  · exact ⟨_, _, rfl, fun _ => rfl⟩

/-- A record that finds room is appended under the next SEQ. -/
theorem writeRecord_room {r : Report} (hw : ((hubOf s h).recorder.inSecond s.tb.sec).written < 10000) :
    (hubOf (writeRecord s h r) h).recorder.suppressed = (hubOf s h).recorder.suppressed ∧
      (hubOf (writeRecord s h r) h).recorder.nextSeq = ((hubOf s h).recorder.nextSeq + 1) % 2 ^ 32 := by
  rw [writeRecord, recordWithin_room hw]
  generalize hs0 : (if (hubOf s h).recorder.flashBad && !(hubOf s h).recorder.degraded then degradeRecorder (countedRecord s h) h
    else countedRecord s h) = s0
  have hsame : (hubOf s0 h).recorder.suppressed = (hubOf s h).recorder.suppressed ∧ (hubOf s0 h).recorder.nextSeq = (hubOf s h).recorder.nextSeq := by
    obtain ⟨n, m, he⟩ := (hubOf s h).recorder.inSecond_same s.tb.sec
    have hc := countedRecord_recorder s h
    rw [he] at hc
    rw [← hs0]
    split
    · obtain ⟨q, k, hd⟩ := degradeRecorder_recorder (countedRecord s h) h
      rw [hd, hc]
      exact ⟨rfl, rfl⟩
    · rw [hc]
      exact ⟨rfl, rfl⟩
  rw [hubOf_setHub]
  obtain ⟨x, y, ha, -⟩ := (hubOf s0 h).recorder.append_same (recordOf s0 h r)
  obtain ⟨q, k, hm⟩ := ((hubOf s0 h).recorder.append (recordOf s0 h r)).mirror_same s0.xlink (recordOf s0 h r)
  rw [hm, ha]
  exact ⟨hsame.1, by rw [← hsame.2]⟩

/-- A recorder in order, its holding ring empty. -/
def Recorder.sound (c : Recorder) : Prop := c.degraded = false ∧ c.flashBad = false ∧ c.holding = []

/-- A recorder in order stays so as it takes a record. -/
theorem writeRecord_sound {r : Report} (hs : (hubOf s h).recorder.sound) : (hubOf (writeRecord s h r) h).recorder.sound := by
  obtain ⟨hd, hb, hh⟩ := hs
  obtain ⟨n, m, he⟩ := (hubOf s h).recorder.inSecond_same s.tb.sec
  rw [writeRecord]
  by_cases hw : 10000 ≤ ((hubOf s h).recorder.inSecond s.tb.sec).written
  · rw [recordWithin_full hw, hubOf_setHub, he]
    exact ⟨hd, hb, hh⟩
  · rw [recordWithin_room (Nat.not_le.1 hw), hb, Bool.false_and, if_neg Bool.false_ne_true, hubOf_setHub]
    have hc := countedRecord_recorder s h
    generalize countedRecord s h = s0 at hc
    obtain ⟨x, y, ha, hy⟩ := (hubOf s0 h).recorder.append_same (recordOf s0 h r)
    obtain ⟨q, k, hm⟩ := ((hubOf s0 h).recorder.append (recordOf s0 h r)).mirror_same s0.xlink (recordOf s0 h r)
    have hhold : y = [] := by rw [hy (by rw [hc, he]; exact hd), hc, he]; exact hh
    rw [hm, ha, hc, he]
    exact ⟨hd, hb, hhold⟩

theorem hubOf_hostEvents (s : State) (k : Hub) (r : Report) (h : Hub) : hubOf (hostEvents s k r) h = hubOf s h := hubOf_of_eq rfl rfl h

theorem hubReport_sound (ha : s.active = some h) (hs : (hubOf s h).recorder.sound) (code : Nat) (d : List Byte) :
    (hubOf (hubReport s code d) h).recorder.sound := by
  rw [hubReport, report, reportNow, fileReport, ha]
  simp only [if_true]
  rw [hubOf_hostEvents]
  exact writeRecord_sound hs

/-! ### Commands of the recorder -/

/-- The peer's recorder with the oldest record taken off its queue. -/
def mirrorTaken (s : State) (h : Hub) (rest : List Record) : State := modRec s (peer h) fun c => { c with mirrorQ := rest }

theorem recMirrorReceive_takes {r : Record} {rest : List Record} (hp : s.phase = .running) (hx : s.xlink = true) (hf : firmwareRuns (hubOf s h) = true)
    (hk : firmwareRuns (hubOf s (peer h)) = true) (hq : (hubOf s (peer h)).recorder.mirrorQ = r :: rest) :
    exec (.recMirrorReceive h) s = .next (recordWithin (mirrorTaken s h rest) h r.type fun s => modRec s h fun c => c.append (r.mirrored c.nextSeq)) := by
  refine congrArg done ((if_neg (by simp [hp, hx, hf, hk])).trans ?_)
  rw [hq]
  rfl

theorem recMirrorReceive_idle (hn : ¬ (s.phase = .running ∧ s.xlink = true ∧ firmwareRuns (hubOf s h) = true ∧
    firmwareRuns (hubOf s (peer h)) = true) ∨ (hubOf s (peer h)).recorder.mirrorQ = []) : exec (.recMirrorReceive h) s = .next s := by
  refine congrArg done ?_
  split
  · rfl
  · rename_i hg
    have hboth : s.phase = .running ∧ s.xlink = true ∧ firmwareRuns (hubOf s h) = true ∧ firmwareRuns (hubOf s (peer h)) = true := by
      simpa using hg
    rw [hn.resolve_left fun k => k hboth]

section Mirror
variable (s : State) (h : Hub) (rest : List Record)

theorem mirrorTaken_hub : hubOf (mirrorTaken s h rest) h = hubOf s h := hubOf_modRec_other s (peer_ne h).symm _

theorem mirrorTaken_tb : (mirrorTaken s h rest).tb = s.tb := modRec_tb s _ _

theorem mirrorTaken_queue : (hubOf (mirrorTaken s h rest) (peer h)).recorder.mirrorQ = rest := by rw [mirrorTaken, hubOf_modRec]

end Mirror

/-! ### The window (R503, R504) -/

theorem Recorder.seek_found {c : Recorder} {r : Record} {n : Nat} (hf : c.live.find? (fun r => r.seq == n) = some r) : c.seek n = c.copy r 0 := by
  rw [Recorder.seek, hf]

theorem Recorder.seek_overwritten {c : Recorder} {r : Record} {v : Word} (hf : c.live.find? (fun r => r.seq == v.toNat) = none)
    (hl : laterThan (BitVec.ofNat 32 c.nextSeq) v = true) (hh : c.live.head? = some r) : c.seek v.toNat = c.copy r 1 := by
  rw [Recorder.seek, hf]
  simp [hl, hh]

theorem Recorder.seek_ahead {c : Recorder} {v : Word} (hf : c.live.find? (fun r => r.seq == v.toNat) = none)
    (hl : laterThan (BitVec.ofNat 32 c.nextSeq) v = false ∨ c.live = []) : c.seek v.toNat = { c with cursor := v.toNat, wState := 2 } := by
  rw [Recorder.seek, hf]
  rcases hl with hl | hl
  · simp [hl]
  · simp [hl]

theorem Recorder.seek_of_mem {c : Recorder} {r : Record} (hm : r ∈ c.live) : (c.seek r.seq).cursor = r.seq ∧ (c.seek r.seq).wState = 0 := by
  cases hf : c.live.find? (fun k => k.seq == r.seq) with
  | none => exact absurd (List.find?_eq_none.1 hf r hm) (by simp)
  | some k =>
    rw [Recorder.seek_found hf]
    exact ⟨by simpa [Recorder.copy] using List.find?_some hf, rfl⟩

theorem Recorder.seek_next (c : Recorder) : (c.seek c.nextSeq).cursor = c.nextSeq := by
  cases hf : c.live.find? (fun k => k.seq == c.nextSeq) with
  | some k =>
    rw [Recorder.seek_found hf]
    simpa [Recorder.copy] using List.find?_some hf
  | none => simp [Recorder.seek, hf, laterThan_self]

theorem recCursorWriteOp_active (ha : s.active = some h) : recCursorWriteOp s v = (modRec s h fun c => c.seek v.toNat, C.ok) := by
  rw [recCursorWriteOp, onActive, ha]

/-- The record to which REC_FIND goes. -/
def recFound (s : State) (c : Recorder) (v : Word) : Option Record :=
  c.live.find? fun r => r.atOrAfter ((regWord s ⟨.recFindSLo, 0, 0, 0⟩).toNat + 2 ^ 32 * (regWord s ⟨.recFindSHi, 0, 0, 0⟩).toNat) v.toNat

theorem recFindWrite_recorder (ha : s.active = some h) : ∃ u, recFindWrite s v = (u, C.ok) ∧ (hubOf u h).recorder =
    (match recFound s (hubOf s h).recorder v with
      | some r => (hubOf s h).recorder.seek r.seq
      | none => (hubOf s h).recorder.seek (hubOf s h).recorder.nextSeq) := by
  refine ⟨_, rfl, ?_⟩
  rw [onActive, setRegWord_active, ha]
  dsimp only
  rw [hubOf_modRec, hubOf_setRegWord]
  rfl

theorem recRetryWrite_idle (hn : wfld v F.recCtlRetry = 0 ∨ (s.active = some h ∧ (hubOf s h).recorder.degraded = false)) (good : Bool) :
    recRetryWrite s v good = (s, C.ok) := by
  refine Prod.ext ?_ rfl
  rcases hn with hn | ⟨ha, hd⟩
  · exact if_pos hn
  · dsimp only [recRetryWrite]
    rw [onActive, ha]
    simp [hd]

theorem recRetryWrite_bad (ha : s.active = some h) : recRetryWrite s v false = (s, C.ok) := by
  refine Prod.ext ?_ rfl
  dsimp only [recRetryWrite]
  rw [onActive, ha]
  simp

/-- A recorder whose fresh blocks verify: the holding ring joins the flash ring (R505). -/
def Recorder.recovered (c : Recorder) : Recorder :=
  { c with ring := trimRing flashBytes (c.ring ++ c.holding).length (c.ring ++ c.holding), holding := [], degraded := false, flashBad := false }

theorem recRetryWrite_good (ha : s.active = some h) (hw : wfld v F.recCtlRetry = 1) (hd : (hubOf s h).recorder.degraded = true) :
    recRetryWrite s v true = (hubReport (setHub s h { hubOf s h with recorder := (hubOf s h).recorder.recovered }) C.recRecovered [], C.ok) := by
  refine Prod.ext ?_ rfl
  dsimp only [recRetryWrite]
  rw [onActive, ha, if_neg (by omega)]
  dsimp only
  rw [if_pos (by rw [hd]; rfl)]
  rfl

theorem recRetryWrite_recovers (ha : s.active = some h) (hw : wfld v F.recCtlRetry = 1) (hd : (hubOf s h).recorder.degraded = true) :
    ∃ u, recRetryWrite s v true = (u, C.ok) ∧ (hubOf u h).recorder.sound := by
  refine ⟨_, recRetryWrite_good ha hw hd, hubReport_sound ((setHub_active s h _).trans ha) ?_ _ _⟩
  rw [hubOf_setHub]
  exact ⟨rfl, rfl, rfl⟩

/-! ### Operating time (R505) -/

/-- Hubs whose flash blocks have come to fail. -/
def flashFails (s : State) (bad : List Hub) : State := bad.foldl (fun s h => modRec s h fun c => { c with flashBad := true }) s

theorem flashFails_hub (s : State) (bad : List Hub) (h : Hub) : (hubOf (flashFails s bad) h) =
    if h ∈ bad then { hubOf s h with recorder := { (hubOf s h).recorder with flashBad := true } } else hubOf s h := by
  induction bad generalizing s with
  | nil => rfl
  | cons k l ih =>
    rw [flashFails, List.foldl_cons, ← flashFails, ih]
    by_cases hk : h = k
    · subst hk
      rw [hubOf_modRec, if_pos List.mem_cons_self]
      split <;> rfl
    · rw [hubOf_modRec_other s hk]
      simp [hk]

theorem flashFails_optime (s : State) (bad : List Hub) : (flashFails s bad).optime = s.optime ∧ (flashFails s bad).optimeSaved = s.optimeSaved := by
  induction bad generalizing s with
  | nil => exact ⟨rfl, rfl⟩
  | cons k l ih =>
    obtain ⟨h1, h2⟩ := ih (modRec s k fun c => { c with flashBad := true })
    exact ⟨h1.trans (setHub_optime s k _), h2.trans (setHub_optimeSaved s k _)⟩

end Sys2Proof.Machine

namespace Sys2Proof.Proofs
open Sys2Proof Sys2Proof.Machine

/-- Settles O56: a record within the second's bound is appended, one beyond it counted; the window goes where the cursor's SEQ is. -/
theorem recordsAreKeptAndRead : Obligations.RecordsAreKeptAndRead := by
  intro s h
  refine ⟨recMirrorReceive_idle, fun r rest ⟨hp, hx, hf, hk⟩ hq => ⟨fun hw hg => ?_, fun hw => ?_⟩, fun hn => ?_, fun hp hf hne hw => ?_,
    fun n bad => ⟨fun hp => congrArg done (if_pos hp), fun hp => ?_⟩, fun o v hs ha => ⟨fun r hr => ?_, fun r hn hl hh => ?_, fun hn hl => ?_, fun r hr => ?_,
      fun hn => ?_, fun hw hd => ⟨?_, ?_⟩, fun hn good => ?_⟩⟩
  · refine ⟨_, recMirrorReceive_takes hp hx hf hk hq, ?_⟩
    have hgood : ((hubOf s h).recorder.flashBad && !(hubOf s h).recorder.degraded) = false := by rcases hg with hg | hg <;> simp [hg]
    obtain ⟨n, m, he⟩ := (hubOf s h).recorder.inSecond_same s.tb.sec
    rw [recordWithin_room (by rw [mirrorTaken_hub, mirrorTaken_tb]; exact hw), mirrorTaken_hub, hgood, if_neg Bool.false_ne_true]
    constructor
    · rw [hubOf_modRec_other _ (peer_ne h), countedRecord, hubOf_setHub_other _ (peer_ne h), mirrorTaken_queue]
    · rw [hubOf_modRec, countedRecord_recorder, mirrorTaken_hub, mirrorTaken_tb]
      show Recorder.append _ (r.mirrored ((hubOf s h).recorder.inSecond s.tb.sec).nextSeq) = _
      rw [show ((hubOf s h).recorder.inSecond s.tb.sec).nextSeq = (hubOf s h).recorder.nextSeq by rw [he]]
      rfl
  · refine ⟨_, recMirrorReceive_takes hp hx hf hk hq, ?_⟩
    obtain ⟨n, m, he⟩ := (hubOf s h).recorder.inSecond_same s.tb.sec
    rw [recordWithin_full (by rw [mirrorTaken_hub, mirrorTaken_tb]; exact hw), hubOf_setHub, hubOf_setHub_other _ (peer_ne h), mirrorTaken_queue,
      mirrorTaken_hub, mirrorTaken_tb, he]
    exact ⟨rfl, rfl, rfl, by rw [SMap.getD_setD, if_pos rfl]⟩
  · refine congrArg done (if_pos ?_)
    rcases hn with hn | hn | hn | hn
    · exact .inl hn
    · exact .inr (.inl hn)
    · exact .inr (.inr (.inl hn))
    · refine .inr (.inr (.inr ?_))
      split at hn
      · rename_i hsec
        exact ⟨hsec, hn⟩
      · exact absurd hn (show ¬ 10000 ≤ 0 by decide)
  · have hguard : ¬ (s.phase ≠ .running ∨ firmwareRuns (hubOf s h) = false ∨ (hubOf s h).recorder.suppressed = [] ∨
        ((hubOf s h).recorder.second = s.tb.sec ∧ 10000 ≤ (hubOf s h).recorder.written)) := by
      rintro (k | k | k | ⟨k1, k2⟩)
      · exact k hp
      · rw [hf] at k
        cases k
      · exact hne k
      · rw [if_pos k1] at hw
        omega
    refine ⟨_, congrArg done (if_neg hguard), ?_⟩
    have hroom : ((hubOf (modRec s h fun c => { c with suppressed := c.suppressed.drop 122 }) h).recorder.inSecond
        (modRec s h fun c => { c with suppressed := c.suppressed.drop 122 }).tb.sec).written < 10000 := by
      rw [hubOf_modRec, modRec_tb]
      unfold Recorder.inSecond
      split at hw
      · rename_i hsec
        exact (congrArg Recorder.written (if_pos hsec)).trans_lt hw
      · rename_i hsec
        exact (congrArg Recorder.written (if_neg hsec)).trans_lt (show 0 < 10000 by decide)
    obtain ⟨h1, h2⟩ := writeRecord_room hroom
    rw [hubOf_modRec] at h1 h2
    exact ⟨h1, h2⟩
  · obtain ⟨h1, h2⟩ := flashFails_optime { s with optime := (s.optime + n) % 2 ^ 40, optimeSaved := (s.optime + n) % 2 ^ 40 } bad
    have hub := flashFails_hub { s with optime := (s.optime + n) % 2 ^ 40, optimeSaved := (s.optime + n) % 2 ^ 40 } bad h
    refine ⟨flashFails { s with optime := (s.optime + n) % 2 ^ 40, optimeSaved := (s.optime + n) % 2 ^ 40 } bad, congrArg done (if_neg hp), h1, ?_,
      fun hb => ?_, fun hb => ?_⟩
    · rw [h1, h2]
    · rw [hub, if_pos hb]
    · rw [hub, if_neg hb]
      exact hubOf_of_eq rfl rfl h
  · exact ⟨_, regAnswered_of_write hs rfl (recCursorWriteOp_active ha), by rw [hubOf_modRec, Recorder.seek_found hr]⟩
  · exact ⟨_, regAnswered_of_write hs rfl (recCursorWriteOp_active ha), by rw [hubOf_modRec, Recorder.seek_overwritten hn hl hh]⟩
  · exact ⟨_, regAnswered_of_write hs rfl (recCursorWriteOp_active ha), by rw [hubOf_modRec, Recorder.seek_ahead hn hl]⟩
  · obtain ⟨u, hu, hrec⟩ := recFindWrite_recorder (v := v) ha
    have hseek : (hubOf u h).recorder = (hubOf s h).recorder.seek r.seq := by rw [hrec, show recFound s (hubOf s h).recorder v = some r from hr]
    obtain ⟨h1, h2⟩ := Recorder.seek_of_mem (List.mem_of_find?_eq_some hr)
    exact ⟨u, regAnswered_of_write hs rfl hu, by rw [hseek, h1], by rw [hseek, h2]⟩
  · obtain ⟨u, hu, hrec⟩ := recFindWrite_recorder (v := v) ha
    refine ⟨u, regAnswered_of_write hs rfl hu, ?_⟩
    rw [hrec, show recFound s (hubOf s h).recorder v = none from hn]
    exact Recorder.seek_next _
  · obtain ⟨u, hu, hd, -, hh⟩ := recRetryWrite_recovers ha hw hd
    exact ⟨u, regAnswered_of_write hs rfl hu, hd, hh⟩
  · exact regAnswered_of_write hs rfl (recRetryWrite_bad ha)
  · exact regAnswered_of_write hs rfl (recRetryWrite_idle (hn.imp_right fun hd => ⟨ha, hd⟩) good)

end Sys2Proof.Proofs
end

section
/-!
SUPPORT. Registers outside a list of those written, and the time-base as its operations leave it (R463 to R472).
-/
namespace Sys2Proof.Machine
open Sys2Proof

variable {s t u : State} {l : List RegRef}

/-! ### Registers outside a list -/

/-- Every register whose address is not that of one of a list holds what it held. -/
def RegsOutside (l : List RegRef) (s t : State) : Prop := ∀ r : RegRef, (∀ q ∈ l, r.addr ≠ q.addr) → regWord t r = regWord s r

namespace RegsOutside

theorem refl (l : List RegRef) (s : State) : RegsOutside l s s := fun _ _ => rfl
theorem trans (h : RegsOutside l s t) (k : RegsOutside l t u) : RegsOutside l s u := fun r hr => (k r hr).trans (h r hr)
theorem mono {m : List RegRef} (h : RegsOutside l s t) (hm : ∀ q ∈ l, q ∈ m) : RegsOutside m s t := fun r hr => h r fun q hq => hr q (hm q hq)
theorem of_regs (l : List RegRef) (hr : t.regs = s.regs) (hi : t.ident = s.ident) : RegsOutside l s t := fun r _ => regWord_of_regs hr hi r

theorem setFldAt (h : RegsOutside l s t) {f : Fld} {d i j : Nat} (hm : ⟨f.reg, d, i, j⟩ ∈ l) (v : Nat) : RegsOutside l s (setFldAt t f d i j v) :=
  fun r hr => (regWord_setRegWord_other t (hr _ hm) _).trans (h r hr)

theorem setFld (h : RegsOutside l s t) {f : Fld} (hm : ⟨f.reg, 0, 0, 0⟩ ∈ l) (v : Nat) : RegsOutside l s (setFld t f v) := h.setFldAt hm v
theorem setEvent (h : RegsOutside l s t) {f : Fld} (hm : ⟨f.reg, 0, 0, 0⟩ ∈ l) : RegsOutside l s (setEvent t f) := h.setFldAt hm 1

theorem report (h : RegsOutside l s t) (hm : ⟨.redFault, 0, 0, 0⟩ ∈ l) (code src handle : Nat) (d : List Byte) :
    RegsOutside l s (report t code src handle d) := fun r hr => (regWord_report t code src handle d (hr _ hm)).trans (h r hr)

theorem hubReport (h : RegsOutside l s t) (hm : ⟨.redFault, 0, 0, 0⟩ ∈ l) (code : Nat) (d : List Byte) : RegsOutside l s (hubReport t code d) :=
  h.report hm _ _ _ _

theorem fldAt (h : RegsOutside l s t) {f : Fld} {d i j : Nat} (hf : ∀ q ∈ l, (⟨f.reg, d, i, j⟩ : RegRef).addr ≠ q.addr) :
    fldAt t f d i j = fldAt s f d i j := by
  rw [Machine.fldAt, h _ hf, Machine.fldAt]

theorem fld (h : RegsOutside l s t) {f : Fld} (hf : ∀ q ∈ l, (⟨f.reg, 0, 0, 0⟩ : RegRef).addr ≠ q.addr) : fld t f = fld s f := h.fldAt hf

end RegsOutside

/-! ### Fields just written -/

theorem fld_setFld_same (s : State) {f : Fld} (hf : f.lsb + f.width ≤ 32) (v : Nat) : fld (setFld s f v) f = v % 2 ^ f.width :=
  fldAt_setFldAt_same s hf 0 0 0 v

theorem fld_setFld_disjoint (s : State) {f g : Fld} (hr : g.reg = f.reg) (hg : g.lsb + g.width ≤ 32)
    (h : g.lsb + g.width ≤ f.lsb ∨ f.lsb + f.width ≤ g.lsb) (v : Nat) : fld (setFld s f v) g = fld s g :=
  fldAt_setFldAt_disjoint s hr hg h 0 0 0 v

theorem fld_setFld_other (s : State) {f g : Fld} (h : (⟨g.reg, 0, 0, 0⟩ : RegRef).addr ≠ (⟨f.reg, 0, 0, 0⟩ : RegRef).addr) (v : Nat) :
    fld (setFld s f v) g = fld s g := fldAt_setFldAt_other s h v

theorem fld_setEvent (s : State) {f : Fld} (hf : f.lsb + f.width ≤ 32) (hw : f.width = 1) : fld (setEvent s f) f = 1 := by
  rw [setEvent, fld_setFld_same s hf, hw]
  rfl

/-! ### Module time (R463) -/

theorem total_setTotal (b : TimeBase) {n : Nat} (hn : n < 2 ^ 96 * 1000000000) : (b.setTotal n).total = n := by
  have hsec : n / 2 ^ 32 / 1000000000 < 2 ^ 64 := by omega
  simp only [TimeBase.total, TimeBase.setTotal, Nat.mod_eq_of_lt hsec]
  omega

theorem total_moveTime {d : Int} (h0 : 0 ≤ (s.tb.total : Int) + d) (h1 : (s.tb.total : Int) + d < 2 ^ 96 * 1000000000) :
    ((moveTime s d).tb.total : Int) = s.tb.total + d := by
  have hn : ((s.tb.total : Int) + d).toNat < 2 ^ 96 * 1000000000 := by omega
  rw [show (moveTime s d).tb.total = ((s.tb.total : Int) + d).toNat from total_setTotal _ hn, Int.toNat_of_nonneg h0]

/-! ### TB_STAT, TB_QUAL and the increment -/

/-- The registers that follow the servo, with those of its events and reports. -/
def statusRegs : List RegRef := [⟨.tbStat, 0, 0, 0⟩, ⟨.tbQual, 0, 0, 0⟩, ⟨.tbEvent, 0, 0, 0⟩, ⟨.redFault, 0, 0, 0⟩]

/-- Those, and the increment. -/
def timeRegs : List RegRef := [⟨.tbStat, 0, 0, 0⟩, ⟨.tbQual, 0, 0, 0⟩, ⟨.tbEvent, 0, 0, 0⟩, ⟨.redFault, 0, 0, 0⟩, ⟨.tbIncrHi, 0, 0, 0⟩, ⟨.tbIncrLo, 0, 0, 0⟩]

theorem RegsOutside.time (h : RegsOutside statusRegs s t) : RegsOutside timeRegs s t := h.mono (by decide)

theorem requal_core (s : State) : SameCore s (requal s) := (((SameCore.refl s).setFld _ _).setFld _ _).setFld _ _

theorem requal_regs (s : State) : RegsOutside statusRegs s (requal s) :=
  (((RegsOutside.refl _ s).setFld (f := F.tbStatState) (by decide) _).setFld (f := F.tbQualBound) (by decide) _).setFld (f := F.tbQualUncertain) (by decide) _

theorem SameCore.servo (h : SameCore s t) : t.servo = s.servo := (congrArg State.servo h :)
theorem SameCore.pending (h : SameCore s t) : t.pending = s.pending := (congrArg State.pending h :)

theorem RegsOutside.tbIncr (h : RegsOutside statusRegs s t) : tbIncr t = tbIncr s := by
  rw [Machine.tbIncr, h.fld (by decide), h.fld (by decide), Machine.tbIncr]

theorem tbIncr_setIncr {x : Nat} (hx : x < 2 ^ 40) : tbIncr (setIncr s x) = x := by
  have hlo : fld (setIncr s x) F.tbIncrLoIncrLo = x % 2 ^ 32 := fld_setFld_same _ (f := F.tbIncrLoIncrLo) (by decide) x
  have hhi : fld (setIncr s x) F.tbIncrHiIncrHi = x / 2 ^ 32 % 2 ^ 8 := by
    rw [setIncr, fld_setFld_other _ (by decide), fld_setFld_same s (f := F.tbIncrHiIncrHi) (by decide)]
    rfl
  rw [tbIncr, hlo, hhi]
  omega

theorem setIncr_core (s : State) (x : Nat) : SameCore s (setIncr s x) := ((SameCore.refl s).setFld _ _).setFld _ _

theorem setIncr_regs (s : State) (x : Nat) : RegsOutside timeRegs s (setIncr s x) :=
  ((RegsOutside.refl _ s).setFld (f := F.tbIncrHiIncrHi) (by decide) _).setFld (f := F.tbIncrLoIncrLo) (by decide) _

theorem openIncr_core (s : State) : SameCore s (openIncr s) := (SameCore.refl s).takeFree.trans (setIncr_core _ _)

theorem openIncr_regs (s : State) : RegsOutside timeRegs s (openIncr s) :=
  RegsOutside.trans (t := (takeFree s).2) (.of_regs _ rfl rfl) (setIncr_regs _ _)

theorem incrOk_lt {x : Nat} (h : incrOk x = true) : x < 2 ^ 40 := by
  simp only [incrOk, Bool.and_eq_true, decide_eq_true_eq] at h
  omega

/-! ### The servo's states (R469) -/

/-- A report of the servo: its registers brought level, an event, and the report. -/
theorem servoReport_core (s : State) (f : Fld) (code : Nat) : SameCore s (hubReport (setEvent (requal s) f) code []) :=
  ((requal_core s).setEvent f).hubReport code []

theorem servoReport_regs (s : State) {f : Fld} (hf : ⟨f.reg, 0, 0, 0⟩ ∈ statusRegs) (code : Nat) :
    RegsOutside statusRegs s (hubReport (setEvent (requal s) f) code []) := ((requal_regs s).setEvent hf).hubReport (by decide) code []

/-- A report's event stands. -/
theorem fld_servoReport (s : State) {f : Fld} (hf : f.lsb + f.width ≤ 32) (hw : f.width = 1)
    (hr : (⟨f.reg, 0, 0, 0⟩ : RegRef).addr ≠ (⟨.redFault, 0, 0, 0⟩ : RegRef).addr) (code : Nat) : fld (hubReport (setEvent (requal s) f) code []) f = 1 := by
  rw [hubReport, fld_report _ _ _ _ _ hr, fld_setEvent _ hf hw]

theorem enterLocked_core (s : State) : SameCore (setServo s .locked) (enterLocked s) := by
  unfold enterLocked
  split
  · rename_i hl
    rw [setServo, ← hl]
    exact .refl s
  · exact servoReport_core _ _ _

theorem enterLocked_regs (s : State) : RegsOutside statusRegs s (enterLocked s) := by
  unfold enterLocked
  split
  · exact .refl _ s
  · exact RegsOutside.trans (t := setServo s .locked) (.of_regs _ rfl rfl) (servoReport_regs _ (by decide) _)

theorem slewEnded_core (s : State) : ∃ st, SameCore (setServo s st) (slewEnded s) ∧ st ≠ .slewing := by
  unfold slewEnded
  split
  · split
    · exact ⟨.locked, enterLocked_core s, by decide⟩
    · exact ⟨.acquiring, .refl _, by decide⟩
  · rename_i hs
    exact ⟨s.servo.st, .refl s, hs⟩

theorem servoAfresh_regs (s : State) : RegsOutside statusRegs s (servoAfresh s) := by
  unfold servoAfresh
  extract_lets p
  refine RegsOutside.trans ?_ (requal_regs _)
  split
  · exact .of_regs _ rfl rfl
  · split
    · exact .of_regs _ rfl rfl
    · split
      · exact RegsOutside.trans (t := setServo s .acquiring) (.of_regs _ rfl rfl) (enterLocked_regs _)
      · exact .of_regs _ rfl rfl

/-- The servo as it is set afresh while it is on. -/
theorem servoAfresh_st (hon : servoOn s = true) : (servoAfresh s).servo.st =
    if (selected s).hasOfs = false then .free else if (selected s).locked then .locked else .acquiring := by
  unfold servoAfresh
  dsimp only
  rw [(requal_core _).servo, if_neg (by simp [hon])]
  split
  · rfl
  · split
    · rw [(enterLocked_core _).servo]
      rfl
    · rfl

/-- The state of a HOLDOVER with a path jump, before the increment is left to the servo. -/
def holdoverBegun (s : State) (jump : Nat) (before : Int) : State :=
  { s with servo := { s.servo with st := .holdover, jump := jump, since := now s, ofsBefore := before, elapsed := false }, tb := { s.tb with slew := 0 } }

/-- HOLDOVER before its report: the increment open, the Syncs on the new path counted from 0. -/
def holdoverOpen (s : State) (h : Hub) (jump : Nat) (before : Int) : State :=
  let s1 := openIncr (holdoverBegun s jump before)
  setPtp s1 h (tbSelect s) { ptpOf s1 h (tbSelect s) with syncs := 0 }

theorem enterHoldover_eq (s : State) (h : Hub) (jump : Nat) (before : Int) :
    enterHoldover s h jump before = hubReport (setEvent (requal (holdoverOpen s h jump before)) F.tbEventHoldover) C.timeHoldover [] := by
  rw [enterHoldover, holdoverOpen, holdoverBegun]

theorem setPtp_regs (s : State) (h : Hub) (j : Nat) (p : Ptp) (l : List RegRef) : RegsOutside l s (setPtp s h j p) :=
  .of_regs l (setHub_regs _ _ _) (setHub_ident _ _ _)

theorem holdoverOpen_frame (s : State) (h : Hub) (jump : Nat) (before : Int) :
    (holdoverOpen s h jump before).servo = (holdoverBegun s jump before).servo ∧ (holdoverOpen s h jump before).tb = (holdoverBegun s jump before).tb ∧
      RegsOutside timeRegs s (holdoverOpen s h jump before) := by
  have h1 := openIncr_core (holdoverBegun s jump before)
  have h0 : RegsOutside timeRegs s (holdoverBegun s jump before) := .of_regs _ rfl rfl
  exact ⟨(setHub_servo _ _ _).trans h1.servo, (setHub_tb _ _ _).trans h1.tb, (h0.trans (openIncr_regs _)).trans (setPtp_regs _ h _ _ _)⟩

theorem enterHoldover_frame (s : State) (h : Hub) (jump : Nat) (before : Int) :
    (enterHoldover s h jump before).servo = (holdoverBegun s jump before).servo ∧ (enterHoldover s h jump before).tb = (holdoverBegun s jump before).tb ∧
      fld (enterHoldover s h jump before) F.tbEventHoldover = 1 ∧ RegsOutside timeRegs s (enterHoldover s h jump before) := by
  obtain ⟨h1, h2, h3⟩ := holdoverOpen_frame s h jump before
  rw [enterHoldover_eq]
  exact ⟨(servoReport_core _ _ _).servo.trans h1, (servoReport_core _ _ _).tb.trans h2, fld_servoReport _ (by decide) rfl (by decide) _,
    h3.trans (servoReport_regs _ (by decide) _).time⟩

theorem tbSelect_of_regs (h : RegsOutside timeRegs s t) : tbSelect t = tbSelect s := h.fld (by decide)

theorem takesPtp_of_regs (h : RegsOutside timeRegs s t) {j : Nat} (hj : j < 2) (d tr : Nat) : takesPtp t j d tr = takesPtp s j d tr := by
  have hcfg : ∀ q ∈ timeRegs, (⟨.ptpCfg, 0, j, 0⟩ : RegRef).addr ≠ q.addr := by
    obtain rfl | rfl : j = 0 ∨ j = 1 := by omega
    · decide
    · decide
  rw [takesPtp, h.fldAt hcfg, h.fldAt hcfg, h.fldAt hcfg, takesPtp]

end Sys2Proof.Machine
end

section
/-!
SUPPORT. Time and its masters (R463 to R473): what each write, measurement and expiry leaves of time, servo and instances.
-/
namespace Sys2Proof.Machine
open Sys2Proof

variable {s t u : State} {o : Origin} {v : Word} {h : Hub} {j : Nat}

/-! ### Fields that single changes leave -/

theorem keptChanged_servo (s : State) : (keptChanged s).servo = s.servo := rfl
theorem keptChanged_tb (s : State) : (keptChanged s).tb = s.tb := rfl
theorem keptChanged_regs (l : List RegRef) (s : State) : RegsOutside l s (keptChanged s) := .of_regs l rfl rfl
theorem setServo_st (s : State) (st : ServoState) : (setServo s st).servo.st = st := rfl
theorem setServo_regs (l : List RegRef) (s : State) (st : ServoState) : RegsOutside l s (setServo s st) := .of_regs l rfl rfl
theorem slewBy_total (s : State) (d : Int) : (slewBy s d).tb.total = s.tb.total := rfl
theorem slewBy_regs (l : List RegRef) (s : State) (d : Int) : RegsOutside l s (slewBy s d) := .of_regs l rfl rfl

/-! ### An idle period, and the end of a slew -/

theorem slewEnded_frame (s : State) : (slewEnded s).tb = s.tb ∧ (slewEnded s).pending = s.pending ∧ (slewEnded s).servo.st ≠ .slewing := by
  obtain ⟨st, hcore, hne⟩ := slewEnded_core s
  exact ⟨hcore.tb, hcore.pending, by rw [hcore.servo]; exact hne⟩

theorem tick_stopped (hp : s.phase ≠ .running) : tick s = s := if_pos hp

theorem tick_moves (hp : s.phase = .running) (h0 : 0 ≤ (s.tb.total : Int) + tbIncr s + slewPart s)
    (h1 : (s.tb.total : Int) + tbIncr s + slewPart s < 2 ^ 96 * 1000000000) :
    ((tick s).tb.total : Int) = s.tb.total + tbIncr s + slewPart s ∧ (tick s).tb.slew = s.tb.slew - slewPart s ∧ (tick s).pending = s.pending := by
  have hmove := total_moveTime (s := s) (d := (tbIncr s : Int) + slewPart s) (by omega) (by omega)
  rw [tick, if_neg (by simp [hp])]
  extract_lets d s1 _ s2 s3
  have h2 : (s2.tb.total : Int) = s.tb.total + tbIncr s + slewPart s ∧ s2.tb.slew = s.tb.slew - slewPart s ∧ s2.pending = s.pending := by
    refine ⟨?_, rfl, rfl⟩
    rw [add_assoc]
    exact hmove
  have h3 : s3.tb = s2.tb ∧ s3.pending = s2.pending := by
    dsimp only [s3]
    split
    · exact ⟨(slewEnded_frame s2).1, (slewEnded_frame s2).2.1⟩
    · exact ⟨rfl, rfl⟩
  rw [← h3.1, ← h3.2] at h2
  split
  · rw [(requal_core s3).tb, (requal_core s3).pending]
    exact h2
  · exact h2

theorem tbSlewComplete_moves (hs : s.tb.slew ≠ 0) (h0 : 0 ≤ (s.tb.total : Int) + s.tb.slew)
    (h1 : (s.tb.total : Int) + s.tb.slew < 2 ^ 96 * 1000000000) :
    ∃ t, exec .tbSlewComplete s = .next t ∧ (t.tb.total : Int) = s.tb.total + s.tb.slew ∧ t.tb.slew = 0 ∧ t.servo.st ≠ .slewing := by
  have hmove := total_moveTime h0 h1
  obtain ⟨htb, -, hst⟩ := slewEnded_frame { moveTime s s.tb.slew with tb := { (moveTime s s.tb.slew).tb with slew := 0 } }
  refine ⟨_, congrArg done (if_neg hs), ?_, ?_, ?_⟩
  · rw [(requal_core _).tb, htb]
    exact hmove
  · rw [(requal_core _).tb, htb]
  · rw [(requal_core _).servo]
    exact hst

/-! ### Writes while the host owns time (R465, R466) -/

theorem timeWrites_owned (hon : servoOn s = true) : tbAdjWrite s v = (s, C.timeServoOwns) ∧ tbIncrLoWrite s v = (s, C.timeServoOwns) ∧
    tbIncrHiWrite s v = (s, C.timeServoOwns) := ⟨if_pos hon, if_pos hon, if_pos hon⟩

theorem tbAdjWrite_refused (hoff : servoOn s = false) (hs : wfld v F.tbAdjStep = 1)
    (hneg : (s.tb.total : Int) + signedOf 30 (wfld v F.tbAdjOffset) * 2 ^ 32 < 0) : tbAdjWrite s v = (s, C.timeStepRefused) := by
  simp only [tbAdjWrite, hoff, Bool.false_eq_true, if_false, hs, if_true]
  exact if_pos hneg

/-- A step of time before its event. -/
def steppedTime (s : State) (d : Int) : State :=
  { moveTime s (d * 2 ^ 28) with
    cal := { (moveTime s (d * 2 ^ 28)).cal with stepped := (moveTime s (d * 2 ^ 28)).cal.stepped + d }
    ha := stepHub d (moveTime s (d * 2 ^ 28)).ha, hb := stepHub d (moveTime s (d * 2 ^ 28)).hb }

theorem stepTime_eq (s : State) (d : Int) : stepTime s d = setEvent (steppedTime s d) F.tbEventStepped := by
  rw [stepTime, steppedTime]

theorem steppedTime_tb (s : State) (d : Int) : (steppedTime s d).tb = (moveTime s (d * 2 ^ 28)).tb := rfl

theorem stepTime_frame {d : Int} (h0 : 0 ≤ (s.tb.total : Int) + d * 2 ^ 28) (h1 : (s.tb.total : Int) + d * 2 ^ 28 < 2 ^ 96 * 1000000000) :
    ((stepTime s d).tb.total : Int) = s.tb.total + d * 2 ^ 28 ∧ (stepTime s d).tb.slew = s.tb.slew ∧ fld (stepTime s d) F.tbEventStepped = 1 := by
  rw [stepTime_eq, setEvent_tb, steppedTime_tb]
  exact ⟨total_moveTime h0 h1, rfl, fld_setEvent _ (by decide) rfl⟩

theorem tbAdjWrite_steps (hoff : servoOn s = false) (hs : wfld v F.tbAdjStep = 1)
    (h0 : 0 ≤ (s.tb.total : Int) + signedOf 30 (wfld v F.tbAdjOffset) * 2 ^ 32)
    (h1 : (s.tb.total : Int) + signedOf 30 (wfld v F.tbAdjOffset) * 2 ^ 32 < 2 ^ 96 * 1000000000) :
    ∃ u, tbAdjWrite s v = (u, C.ok) ∧ (u.tb.total : Int) = s.tb.total + signedOf 30 (wfld v F.tbAdjOffset) * 2 ^ 32 ∧ u.tb.slew = 0 ∧
      fld u F.tbEventStepped = 1 := by
  generalize hd : signedOf 30 (wfld v F.tbAdjOffset) = d at h0 h1 ⊢
  obtain ⟨ht, hsl, he⟩ := stepTime_frame (s := slewBy s 0) (d := 16 * d)
    (by rw [slewBy_total]; omega) (by rw [slewBy_total]; omega)
  refine ⟨_, ?_, ?_, hsl, he⟩
  · simp only [tbAdjWrite, hoff, Bool.false_eq_true, if_false, hs, if_true, hd]
    exact if_neg (by omega)
  · rw [ht, slewBy_total]
    ring

theorem tbAdjWrite_slews (hoff : servoOn s = false) (hs : wfld v F.tbAdjStep = 0) :
    tbAdjWrite s v = ({ s with tb := { s.tb with slew := signedOf 30 (wfld v F.tbAdjOffset) * 2 ^ 32 } }, C.ok) := by
  simp only [tbAdjWrite, hoff, Bool.false_eq_true, if_false, hs, zero_ne_one, slewBy]
  rw [show 16 * signedOf 30 (wfld v F.tbAdjOffset) * 2 ^ 28 = signedOf 30 (wfld v F.tbAdjOffset) * 2 ^ 32 by ring]

theorem tbIncrLoWrite_staged (hoff : servoOn s = false) : tbIncrLoWrite s v = ({ s with tb := { s.tb with incrLo := some v } }, C.ok) :=
  if_neg (by simp [hoff])

/-- The increment that a write of TB_INCR_HI commits. -/
def writtenIncr (s : State) (v : Word) : Nat :=
  wfld v F.tbIncrHiIncrHi * 2 ^ 32 + (match s.tb.incrLo with | some w => w.toNat | none => fld s F.tbIncrLoIncrLo)

theorem tbIncrHiWrite_eq (hoff : servoOn s = false) : tbIncrHiWrite s v =
    if incrOk (writtenIncr s v) then (setIncr { s with tb := { s.tb with incrLo := none } } (writtenIncr s v), C.ok) else (s, C.timeIncrRange) :=
  if_neg (by simp [hoff])

theorem tbIncrHiWrite_commits (hoff : servoOn s = false) (hok : incrOk (writtenIncr s v) = true) :
    ∃ u, tbIncrHiWrite s v = (u, C.ok) ∧ tbIncr u = writtenIncr s v ∧ u.tb.incrLo = none :=
  ⟨_, (tbIncrHiWrite_eq hoff).trans (if_pos hok), tbIncr_setIncr (incrOk_lt hok), by rw [(setIncr_core _ _).tb]⟩

/-! ### TB_CTL (R465, R471) -/

theorem tbCtlWrite_refused (hj : wfld v F.tbCtlSelect ≠ tbSelect s) (hk : selectOk s (wfld v F.tbCtlSelect) = false) :
    tbCtlWrite s v = (s, C.timeSwitchRefused) := if_pos ⟨hj, hk⟩

/-- TB_CTL with AUTO_SWITCH and SLEW_PPM written. -/
def tbCtlSet (s : State) (v : Word) : State :=
  setFld (setFld s F.tbCtlAutoSwitch (wfld v F.tbCtlAutoSwitch)) F.tbCtlSlewPpm (clampNat 1 100 (wfld v F.tbCtlSlewPpm))

/-- The offset by which a switch slews. -/
def switchOffset (s : State) (j : Nat) : Int :=
  match s.active with
  | some h => (ptpOf s h j).ofs - (selected s).ofs
  | none => 0

theorem tbCtlWrite_accepted (hok : wfld v F.tbCtlSelect = tbSelect s ∨ selectOk s (wfld v F.tbCtlSelect) = true) :
    tbCtlWrite s v = (keptChanged (if wfld v F.tbCtlSelect = tbSelect s then servoHand (tbCtlSet s v) (wfld v F.tbCtlServo)
      else switchTo (servoHand (tbCtlSet s v) (wfld v F.tbCtlServo)) (wfld v F.tbCtlSelect) (switchOffset s (wfld v F.tbCtlSelect))), C.ok) := by
  have hguard : ¬ (wfld v F.tbCtlSelect ≠ tbSelect s ∧ selectOk s (wfld v F.tbCtlSelect) = false) := fun ⟨h1, h2⟩ => by
    rcases hok with hok | hok
    · exact h1 hok
    · rw [hok] at h2
      cases h2
  exact if_neg hguard

/-- The fields of TB_CTL as a state holds them. -/
structure TbCtl (s : State) (sel servo auto ppm : Nat) : Prop where
  select : fld s F.tbCtlSelect = sel
  servo : fld s F.tbCtlServo = servo
  auto : fld s F.tbCtlAutoSwitch = auto
  ppm : fld s F.tbCtlSlewPpm = ppm

theorem TbCtl.of_regs {a b c d : Nat} (h : TbCtl s a b c d) (hr : RegsOutside timeRegs s t) : TbCtl t a b c d :=
  ⟨(hr.fld (by decide)).trans h.select, (hr.fld (by decide)).trans h.servo, (hr.fld (by decide)).trans h.auto, (hr.fld (by decide)).trans h.ppm⟩

/-- A write of one field of TB_CTL leaves the other fields. -/
theorem fld_setFld_tbCtl (s : State) {f g : Fld} (hf : f.reg = .tbCtl) (hg : g.reg = .tbCtl) (hw : g.lsb + g.width ≤ 32)
    (h : g.lsb + g.width ≤ f.lsb ∨ f.lsb + f.width ≤ g.lsb) (v : Nat) : fld (setFld s f v) g = fld s g :=
  fld_setFld_disjoint s (hg.trans hf.symm) hw h v

theorem TbCtl.setServo {a b c d : Nat} (h : TbCtl s a b c d) {n : Nat} (hn : n < 2) : TbCtl (setFld s F.tbCtlServo n) a n c d where
  select := (fld_setFld_tbCtl s rfl rfl (by decide) (by decide) n).trans h.select
  servo := (fld_setFld_same s (f := F.tbCtlServo) (by decide) n).trans (Nat.mod_eq_of_lt hn)
  auto := (fld_setFld_tbCtl s rfl rfl (by decide) (by decide) n).trans h.auto
  ppm := (fld_setFld_tbCtl s rfl rfl (by decide) (by decide) n).trans h.ppm

theorem TbCtl.setSelect {a b c d : Nat} (h : TbCtl s a b c d) {n : Nat} (hn : n < 2) : TbCtl (setFld s F.tbCtlSelect n) n b c d where
  select := (fld_setFld_same s (f := F.tbCtlSelect) (by decide) n).trans (Nat.mod_eq_of_lt hn)
  servo := (fld_setFld_tbCtl s rfl rfl (by decide) (by decide) n).trans h.servo
  auto := (fld_setFld_tbCtl s rfl rfl (by decide) (by decide) n).trans h.auto
  ppm := (fld_setFld_tbCtl s rfl rfl (by decide) (by decide) n).trans h.ppm

theorem tbCtlSet_fields (s : State) (v : Word) : TbCtl (tbCtlSet s v) (tbSelect s) (fld s F.tbCtlServo) (wfld v F.tbCtlAutoSwitch)
    (clampNat 1 100 (wfld v F.tbCtlSlewPpm)) where
  select := (fld_setFld_tbCtl _ rfl rfl (by decide) (by decide) _).trans (fld_setFld_tbCtl _ rfl rfl (by decide) (by decide) _)
  servo := (fld_setFld_tbCtl _ rfl rfl (by decide) (by decide) _).trans (fld_setFld_tbCtl _ rfl rfl (by decide) (by decide) _)
  auto := (fld_setFld_tbCtl _ rfl rfl (by decide) (by decide) _).trans ((fld_setFld_same s (f := F.tbCtlAutoSwitch) (by decide) _).trans
    (Nat.mod_eq_of_lt (Nat.mod_lt _ (by decide))))
  ppm := by
    refine (fld_setFld_same _ (f := F.tbCtlSlewPpm) (by decide) _).trans (Nat.mod_eq_of_lt (show _ < 256 from ?_))
    unfold clampNat
    split
    · decide
    · split <;> omega

theorem tbCtlSet_core (s : State) (v : Word) : SameCore s (tbCtlSet s v) := ((SameCore.refl s).setFld _ _).setFld _ _

theorem tbCtlSet_incr (s : State) (v : Word) : tbIncr (tbCtlSet s v) = tbIncr s := by
  have hreg {g : Fld} (hg : (⟨g.reg, 0, 0, 0⟩ : RegRef).addr ≠ (⟨.tbCtl, 0, 0, 0⟩ : RegRef).addr) : fld (tbCtlSet s v) g = fld s g :=
    (fld_setFld_other _ (f := F.tbCtlSlewPpm) hg _).trans (fld_setFld_other _ (f := F.tbCtlAutoSwitch) hg _)
  rw [tbIncr, hreg (by decide), hreg (by decide), tbIncr]

theorem SameCore.ptpOf (hc : SameCore s t) (h : Hub) (j : Nat) : ptpOf t h j = ptpOf s h j := by
  rw [Machine.ptpOf, Machine.ptpOf]
  exact congrArg (fun l : List Ptp => l.getD j Ptp.reset) (congrArg HubSt.ptp (hc.hub h) :)

theorem SameCore.selected (hc : SameCore s t) (hj : tbSelect t = tbSelect s) : selected t = selected s := by
  unfold Machine.selected
  rw [hc.active, hj]
  cases s.active with
  | none => rfl
  | some h => exact hc.ptpOf h _

theorem servoHand_same {n : Nat} (hn : fld s F.tbCtlServo = n) : servoHand s n = s := if_pos hn

theorem servoHand_off (hn : fld s F.tbCtlServo ≠ 0) : servoHand s 0 = requal (setServo (setFld s F.tbCtlServo 0) .manual) := by
  rw [servoHand, if_neg hn]
  exact if_pos rfl

/-- The servo as it takes time over: the increment nominal where the selected time source has measured no offset. -/
def servoTaken (s : State) : State := if (selected s).hasOfs then s else setIncr s incrNominal

theorem servoHand_on (hn : fld s F.tbCtlServo ≠ 1) : servoHand s 1 = servoAfresh (servoTaken (setFld s F.tbCtlServo 1)) := by
  rw [servoHand, if_neg hn]
  exact if_neg one_ne_zero

theorem servoTaken_regs (s : State) : RegsOutside timeRegs s (servoTaken s) := by
  unfold servoTaken
  split
  · exact .refl _ s
  · exact setIncr_regs _ _

theorem servoTaken_core (s : State) : SameCore s (servoTaken s) := by
  unfold servoTaken
  split
  · exact .refl s
  · exact setIncr_core _ _

/-- Handing the servo over sets SERVO and leaves the other fields of TB_CTL. -/
theorem servoHand_fields {a b c d n : Nat} (h : TbCtl s a b c d) (hn : n < 2) : TbCtl (servoHand s n) a n c d := by
  by_cases he : fld s F.tbCtlServo = n
  · rw [servoHand_same he]
    exact ⟨h.select, he, h.auto, h.ppm⟩
  · obtain rfl | rfl : n = 0 ∨ n = 1 := by omega
    · rw [servoHand_off he]
      exact (h.setServo hn).of_regs ((setServo_regs _ _ _).trans (requal_regs _).time)
    · rw [servoHand_on he]
      exact (h.setServo hn).of_regs ((servoTaken_regs _).trans (servoAfresh_regs _).time)

theorem switchTo_fields {a b c d n : Nat} (h : TbCtl s a b c d) (hn : n < 2) (x : Int) : TbCtl (switchTo s n x) n b c d := by
  unfold switchTo
  extract_lets s1 s2
  have h2 : RegsOutside timeRegs s1 s2 := by
    dsimp only [s2]
    split
    · exact (setServo_regs _ _ _).trans (slewBy_regs _ _ _)
    · exact .refl _ _
  exact (h.setSelect hn).of_regs (h2.trans (servoReport_regs s2 (by decide) _).time)

theorem switchTo_on {n : Nat} {x : Int} (hon : servoOn s = true) : switchTo s n x =
    hubReport (setEvent (requal (slewBy (setServo (setFld s F.tbCtlSelect n) .slewing) x)) F.tbEventSwitched) C.timeDomainSwitch [] := by
  rw [switchTo, hon]
  rfl

theorem servoOn_of_fld (s : State) : servoOn s = (fld s F.tbCtlServo == 1) := rfl

theorem TbCtl.keptChanged {a b c d : Nat} (h : TbCtl s a b c d) : TbCtl (keptChanged s) a b c d := h.of_regs (keptChanged_regs _ s)

/-- Every field of TB_CTL stands as the accepted write says. -/
theorem tbCtlWrite_fields (hok : wfld v F.tbCtlSelect = tbSelect s ∨ selectOk s (wfld v F.tbCtlSelect) = true) :
    TbCtl (tbCtlWrite s v).1 (wfld v F.tbCtlSelect) (wfld v F.tbCtlServo) (wfld v F.tbCtlAutoSwitch) (clampNat 1 100 (wfld v F.tbCtlSlewPpm)) := by
  have hn : wfld v F.tbCtlServo < 2 := Nat.mod_lt _ (by decide)
  have hm : wfld v F.tbCtlSelect < 2 := Nat.mod_lt _ (by decide)
  have hand := servoHand_fields (tbCtlSet_fields s v) hn
  rw [tbCtlWrite_accepted hok]
  refine TbCtl.keptChanged ?_
  split
  · rename_i he
    rw [he]
    exact hand
  · exact switchTo_fields hand hm _

section SameInstance
variable (hj : wfld v F.tbCtlSelect = tbSelect s)
include hj

theorem tbCtlWrite_keepsSelect : (tbCtlWrite s v).1 = keptChanged (servoHand (tbCtlSet s v) (wfld v F.tbCtlServo)) := by
  rw [tbCtlWrite_accepted (.inl hj), if_pos hj]

theorem tbCtlWrite_manual (hon : servoOn s = true) (h0 : wfld v F.tbCtlServo = 0) : (tbCtlWrite s v).1.servo.st = .manual := by
  have hset : fld (tbCtlSet s v) F.tbCtlServo ≠ 0 := by
    rw [(tbCtlSet_fields s v).servo]
    simp only [servoOn, beq_iff_eq] at hon
    omega
  rw [tbCtlWrite_keepsSelect hj, h0, servoHand_off hset]
  rw [keptChanged_servo, (requal_core _).servo, setServo_st]

theorem tbCtlWrite_takes (hoff : servoOn s = false) (h1 : wfld v F.tbCtlServo = 1) :
    (tbCtlWrite s v).1.servo.st = (if (selected s).hasOfs = false then .free else if (selected s).locked then .locked else .acquiring) ∧
      tbIncr (tbCtlWrite s v).1 = if (selected s).hasOfs then tbIncr s else 0x666666666 := by
  have hset : fld (tbCtlSet s v) F.tbCtlServo ≠ 1 := by
    rw [(tbCtlSet_fields s v).servo]
    simpa [servoOn] using hoff
  have hctl := (tbCtlSet_fields s v).setServo (n := 1) (by decide)
  have hcore : SameCore s (setFld (tbCtlSet s v) F.tbCtlServo 1) := (tbCtlSet_core s v).setFld _ _
  have hincr : tbIncr (setFld (tbCtlSet s v) F.tbCtlServo 1) = tbIncr s := by
    rw [tbIncr, fld_setFld_other _ (by decide), fld_setFld_other _ (by decide)]
    exact tbCtlSet_incr s v
  rw [tbCtlWrite_keepsSelect hj, h1, servoHand_on hset]
  generalize setFld (tbCtlSet s v) F.tbCtlServo 1 = s1 at hctl hcore hincr
  have hsel1 : selected s1 = selected s := hcore.selected hctl.select
  have htaken := (servoTaken_core s1).selected (tbSelect_of_regs (servoTaken_regs s1))
  have hon : servoOn (servoTaken s1) = true := by
    rw [servoOn, (hctl.of_regs (servoTaken_regs s1)).servo]
    rfl
  constructor
  · rw [keptChanged_servo, servoAfresh_st hon, htaken, hsel1]
  · rw [((servoAfresh_regs _).trans (keptChanged_regs _ _)).tbIncr, servoTaken, hsel1]
    split
    · exact hincr
    · exact tbIncr_setIncr (by decide)

end SameInstance

/-- A switch while the servo is on slews to the other time source's time (R471). -/
theorem tbCtlWrite_switches (hj : wfld v F.tbCtlSelect ≠ tbSelect s) (hok : selectOk s (wfld v F.tbCtlSelect) = true) (ha : s.active = some h)
    (hon : servoOn s = true) (h1 : wfld v F.tbCtlServo = 1) : (tbCtlWrite s v).1.servo.st = .slewing ∧
      (tbCtlWrite s v).1.tb.slew = ((ptpOf s h (wfld v F.tbCtlSelect)).ofs - (selected s).ofs) * 2 ^ 28 := by
  have hset : fld (tbCtlSet s v) F.tbCtlServo = 1 := by
    rw [(tbCtlSet_fields s v).servo]
    simpa [servoOn] using hon
  have hoff : switchOffset s (wfld v F.tbCtlSelect) = (ptpOf s h (wfld v F.tbCtlSelect)).ofs - (selected s).ofs := by rw [switchOffset, ha]
  rw [tbCtlWrite_accepted (.inr hok), if_neg hj, h1, servoHand_same hset, hoff]
  have hon1 : servoOn (tbCtlSet s v) = true := by
    rw [servoOn, hset]
    rfl
  generalize (ptpOf s h (wfld v F.tbCtlSelect)).ofs - (selected s).ofs = x
  rw [switchTo_on hon1, keptChanged_servo, keptChanged_tb, (servoReport_core _ _ _).servo, (servoReport_core _ _ _).tb]
  exact ⟨rfl, rfl⟩

/-! ### The master lost, and the hold's end (R470) -/

theorem ptpSyncLoss_holds (ha : s.active = some h) (hs : s.servo.st = .acquiring ∨ s.servo.st = .locked ∨ s.servo.st = .slewing) :
    ∃ t, exec .ptpSyncLoss s = .next t ∧ t.servo.st = .holdover ∧ t.servo.jump = 0 ∧ t.servo.since = now s ∧ t.tb.slew = 0 ∧
      fld t F.tbEventHoldover = 1 := by
  obtain ⟨hservo, htb, hev, -⟩ := enterHoldover_frame (setPtp s h (tbSelect s) { selected s with good := 0, locked := false }) h 0 (selected s).ofs
  refine ⟨enterHoldover (setPtp s h (tbSelect s) { selected s with good := 0, locked := false }) h 0 (selected s).ofs, ?_, ?_, ?_, ?_, ?_, hev⟩
  · refine congrArg done ?_
    rw [ha]
    exact if_pos hs
  · rw [hservo]
    rfl
  · rw [hservo]
    rfl
  · rw [hservo]
    show now (setPtp s h (tbSelect s) _) = now s
    rw [now, show (setPtp s h (tbSelect s) { selected s with good := 0, locked := false }).tb = s.tb from setHub_tb _ _ _, now]
  · rw [htb]
    rfl

theorem ptpSyncLoss_idle (ha : s.active = some h) (hs : s.servo.st = .free ∨ s.servo.st = .manual ∨ s.servo.st = .holdover) :
    exec .ptpSyncLoss s = .next s := by
  refine congrArg done ?_
  rw [ha]
  refine if_neg ?_
  rcases hs with hs | hs | hs <;> simp [hs]

theorem ptpHoldExpiry_waits (ha : s.active = some h) (hs : s.servo.st = .holdover) :
    exec .ptpHoldExpiry s = .next (reestimate { s with servo := { s.servo with elapsed := true } }) :=
  congrArg done (if_pos ⟨hs, by rw [ha]; rfl⟩)

theorem ptpHoldExpiry_slews (ha : s.active = some h) (hs : s.servo.st = .holdover) (hn : 16 ≤ (selected s).syncs) :
    ∃ t, exec .ptpHoldExpiry s = .next t ∧ t.servo.st = .slewing ∧ t.tb.slew = (selected s).ofs * 2 ^ 28 := by
  refine ⟨_, (ptpHoldExpiry_waits ha hs).trans (congrArg done (if_pos ⟨hs, rfl, hn⟩)), ?_, ?_⟩
  · rw [(requal_core _).servo]
    rfl
  · rw [(requal_core _).tb]
    rfl

theorem ptpHoldExpiry_short (ha : s.active = some h) (hs : s.servo.st = .holdover) (hn : (selected s).syncs < 16) :
    exec .ptpHoldExpiry s = .next { s with servo := { s.servo with elapsed := true } } := by
  refine (ptpHoldExpiry_waits ha hs).trans (congrArg done (if_neg fun hk => ?_))
  exact absurd (show 16 ≤ (selected s).syncs from hk.2.2) (by omega)

/-! ### Messages of a time source (R467 to R469) -/

theorem ptpOf_setPtp (s : State) (h : Hub) {j : Nat} (hj : j < (hubOf s h).ptp.length) (p : Ptp) : ptpOf (setPtp s h j p) h j = p := by
  rw [ptpOf, setPtp, hubOf_setHub]
  simp [hj]

/-- A message that one of the two instances takes is served on it alone. -/
theorem ptpMessageReceive_one {dom tr : Nat} {m : PtpMsg} (hp : s.phase = .running) (hf : firmwareRuns (hubOf s h) = true) (hl : (hubOf s h).link = true)
    (hj : j < 2) (ht : takesPtp s j dom tr = true) (hn : takesPtp s (1 - j) dom tr = false) (hr : RegsOutside timeRegs s (ptpAt s h j m)) :
    exec (.ptpMessageReceive h dom tr m) s = .next (ptpAt s h j m) := by
  refine congrArg done ((if_neg (by simp [hp, hf, hl])).trans ?_)
  obtain rfl | rfl : j = 0 ∨ j = 1 := by omega
  · simp only [List.foldl_cons, List.foldl_nil, ht, if_true, takesPtp_of_regs hr (show 1 < 2 by decide), hn, Bool.false_eq_true, if_false]
  · simp only [List.foldl_cons, List.foldl_nil, hn, Bool.false_eq_true, if_false, ht, if_true]

/-- The mean path delay that a measurement of a time source gives (R468). -/
def measuredDelay (s : State) (h : Hub) (j : Nat) (t1 t2 t3 t4 : Int) : Int :=
  if fldAt s F.ptpCfgDelay 0 j 0 = 1 then ((t4 - (ethLatency s h).2) - (t1 + (ethLatency s h).1) - (t3 - t2)) / 2
  else (((t2 - (ethLatency s h).2) - t1) + (t4 - (t3 + (ethLatency s h).1))) / 2

/-- Whether a delay lies far from the last (R470). -/
def pathJumps (s : State) (p : Ptp) (m : Int) : Prop := p.hasMpd = true ∧ 16 * fld s F.ptpLimPathchgNs < (m - p.mpd).natAbs

theorem ptpDelay_near {t1 t2 t3 t4 : Int} (hn : ¬ pathJumps s (ptpOf s h j) (measuredDelay s h j t1 t2 t3 t4)) :
    ptpDelay s h j t1 t2 t3 t4 = setPtp s h j { ptpOf s h j with mpd := measuredDelay s h j t1 t2 t3 t4, hasMpd := true } := by
  refine if_neg fun hk => hn ?_
  rw [Bool.and_eq_true, decide_eq_true_eq] at hk
  exact hk

/-- A time source after a path jump: not locked until 16 Syncs agree. -/
def jumpedPtp (s : State) (h : Hub) (j : Nat) (m : Int) : Ptp :=
  { ptpOf s h j with mpd := m, hasMpd := true, jumpAt := some (now s), good := 0, locked := false }

theorem ptpDelay_far {t1 t2 t3 t4 : Int} (hf : pathJumps s (ptpOf s h j) (measuredDelay s h j t1 t2 t3 t4)) (ha : s.active = some h)
    (hj : tbSelect s = j) (h1 : s.servo.st ≠ .free) (h2 : s.servo.st ≠ .manual) :
    ptpDelay s h j t1 t2 t3 t4 = enterHoldover (setPtp s h j (jumpedPtp s h j (measuredDelay s h j t1 t2 t3 t4))) h
      (measuredDelay s h j t1 t2 t3 t4 - (ptpOf s h j).mpd).natAbs (ptpOf s h j).ofs := by
  refine (if_pos ?_).trans (if_pos ⟨ha, hj, h1, h2⟩)
  rw [Bool.and_eq_true, decide_eq_true_eq]
  exact hf

theorem holdoverBegun_hub (s : State) (jump : Nat) (before : Int) (h : Hub) : hubOf (holdoverBegun s jump before) h = hubOf s h := hubOf_of_eq rfl rfl h

/-- HOLDOVER keeps the selected time source but for its count of Syncs. -/
theorem ptpOf_enterHoldover (jump : Nat) (before : Int) (hj : tbSelect s < (hubOf s h).ptp.length) :
    ptpOf (enterHoldover s h jump before) h (tbSelect s) = { ptpOf s h (tbSelect s) with syncs := 0 } := by
  have hopen := openIncr_core (holdoverBegun s jump before)
  have hptp : (hubOf (openIncr (holdoverBegun s jump before)) h).ptp = (hubOf s h).ptp := by
    rw [← holdoverBegun_hub s jump before h]
    exact (congrArg HubSt.ptp (hopen.hub h) :)
  rw [enterHoldover_eq, (servoReport_core _ _ _).ptpOf]
  show ptpOf (setPtp (openIncr (holdoverBegun s jump before)) h (tbSelect s)
    { ptpOf (openIncr (holdoverBegun s jump before)) h (tbSelect s) with syncs := 0 }) h (tbSelect s) = _
  rw [ptpOf_setPtp _ _ (by rw [hptp]; exact hj), ptpOf, hptp, ptpOf]

/-- A time source that has measured its path, at a Sync. -/
theorem ptpSync_measured {t1 t2 : Int} (hm : (ptpOf s h j).hasMpd = true) (hj : j < (hubOf s h).ptp.length) :
    (ptpOf (ptpSync s h j t1 t2) h j).hasOfs = true ∧ (ptpOf (ptpSync s h j t1 t2) h j).ofs = t1 + (ptpOf s h j).mpd - (t2 - (ethLatency s h).2) := by
  rw [ptpSync, ptpOf_setPtp s h hj, if_pos hm]
  exact ⟨rfl, rfl⟩

theorem ptpSync_regs (s : State) (h : Hub) (j : Nat) (t1 t2 : Int) (l : List RegRef) : RegsOutside l s (ptpSync s h j t1 t2) := setPtp_regs s h j _ l

theorem acquire_frame (s : State) : (acquire s).servo.st = s.servo.st ∧ RegsOutside timeRegs s (acquire s) := by
  unfold acquire
  extract_lets o
  split
  · refine ⟨rfl, RegsOutside.setFldAt (f := F.tbEventStepped) (.of_regs _ rfl rfl) (by decide) 1⟩
  · exact ⟨rfl, .of_regs _ rfl rfl⟩

theorem enterAcquiring_frame (s : State) : (enterAcquiring s).servo.st = .acquiring ∧ RegsOutside timeRegs s (enterAcquiring s) := by
  obtain ⟨h1, h2⟩ := acquire_frame { s with servo := { s.servo with st := .acquiring, stepped := false } }
  exact ⟨h1, RegsOutside.trans (t := { s with servo := { s.servo with st := .acquiring, stepped := false } }) (.of_regs _ rfl rfl) h2⟩

theorem ptpAt_sync_standby {t1 t2 : Int} (ha : s.active ≠ some h) : ptpAt s h j (.sync t1 t2) = ptpSync s h j t1 t2 := if_pos ha

theorem ptpAt_sync_first {t1 t2 : Int} (ha : s.active = some h) (hj : tbSelect s = j) (hs : s.servo.st = .free)
    (hm : (ptpOf s h j).hasMpd = true) (hlen : j < (hubOf s h).ptp.length) :
    ptpAt s h j (.sync t1 t2) = requal (enterAcquiring (ptpSync s h j t1 t2)) := by
  have hsel : selected (ptpSync s h j t1 t2) = ptpOf (ptpSync s h j t1 t2) h j := by
    rw [selected, show (ptpSync s h j t1 t2).active = some h from (setHub_active s h _).trans ha]
    exact congrArg (ptpOf _ h) ((tbSelect_of_regs (ptpSync_regs s h j t1 t2 _)).trans hj)
  have hst : (ptpSync s h j t1 t2).servo.st = .free := (congrArg PtpServo.st (setHub_servo s h _)).trans hs
  refine (if_neg (not_not.2 ha)).trans ((if_pos hj).trans (congrArg requal ?_))
  rw [servoSync, hst]
  dsimp only
  rw [hsel, if_pos (ptpSync_measured hm hlen).1]

/-! ### Neighbours (R472, R473) -/

theorem linkTimeExchange_idle {key tx rx limit : Nat} {l : Link} (hl : linkOf s key = some l) (hn : s.phase ≠ .running ∨ l.st ≠ .up ∨ l.tofDone = false) :
    exec (.linkTimeExchange key tx rx limit) s = .next s := by
  refine congrArg done ?_
  rw [hl]
  exact if_pos hn

/-- TIME answered, and the worst offset kept. -/
def timeSent (s : State) (key : Nat) (d : Int) : State :=
  let s0 := sendLink s key (.time (now s * 100))
  if fld s0 F.tbNbrWorstOffset < d.natAbs / 100 then
    setFld (setFld s0 F.tbNbrWorstOffset (min (d.natAbs / 100) (2 ^ 27 - 1))) F.tbNbrWorstPort (key / 16) else s0

/-- What is known of a neighbour after an exchange. -/
def nbrAfter (s : State) (key limit : Nat) (d : Int) : Nbr :=
  let n := SMap.getD s.fab.nbr key ⟨0, 0, false⟩
  let out := decide (100 * (ownLimit s + limit) < d.natAbs)
  { offset := 10 * d, beyond := if out then min (n.beyond + 1) 8 else 0, reported := out && n.reported }

/-- Whether an exchange is the eighth that disagrees, not yet reported. -/
def nbrTells (n : Nbr) : Bool := n.beyond == 8 && !n.reported

/-- The exchange recorded. -/
def nbrRecorded (s t : State) (key limit : Nat) (d : Int) : State :=
  let n := nbrAfter s key limit d
  { t with fab := { t.fab with nbr := SMap.insert t.fab.nbr key { n with reported := n.reported || nbrTells n } } }

theorem linkTimeExchange_compares {key tx rx limit : Nat} {l : Link} (hl : linkOf s key = some l) (hp : s.phase = .running) (hu : l.st = .up)
    (ht : l.tofDone = true) : exec (.linkTimeExchange key tx rx limit) s = .next
      (let d : Int := ((tx + wayLatency s key l : Nat) : Int) - rx
       let s2 := nbrRecorded s (timeSent s key d) key limit d
       if nbrTells (nbrAfter s key limit d) then hubReport (setEvent s2 F.tbEventNbr) C.timeNbrDisagree [] else s2) := by
  refine congrArg done ?_
  rw [hl]
  exact if_neg (by simp [hp, hu, ht])

theorem find_nbrRecorded (s t : State) (key limit : Nat) (d : Int) : SMap.find (nbrRecorded s t key limit d).fab.nbr key =
    some { nbrAfter s key limit d with reported := (nbrAfter s key limit d).reported || nbrTells (nbrAfter s key limit d) } :=
  SMap.find_insert_self _ _ _

end Sys2Proof.Machine

namespace Sys2Proof.Proofs
open Sys2Proof Sys2Proof.Machine

/-- Settles O52: time moves by what is added, the servo's writes and states follow TB_CTL and its time source, and neighbours are compared. -/
theorem timeFollowsItsMaster : Obligations.TimeFollowsItsMaster := by
  refine ⟨fun s hq => ⟨fun hp => ?_, fun hp h0 h1 => ?_⟩,
    fun s o v hs => ⟨fun hon => ?_, fun hoff => ⟨fun hw hneg => ?_, fun hw h0 h1 => ?_, fun hw => ?_, ?_, fun hok => ?_, fun hbad => ?_⟩, fun c hc => ⟨fun hj hk => ?_, fun hok => ?_⟩⟩,
    fun s o hs => ?_, fun s => ⟨fun hs => congrArg done (if_pos hs), tbSlewComplete_moves⟩,
    fun s h ha => ⟨ptpSyncLoss_holds ha, ptpSyncLoss_idle ha, fun hs => ⟨ptpHoldExpiry_slews ha hs, ptpHoldExpiry_short ha hs⟩, fun hs => congrArg done (if_neg fun hk => hs hk.1)⟩,
    fun s h j dom tr hp hf hl hlen hj ht hn => ⟨fun t1 t2 t3 t4 => ⟨fun hnear => ?_, fun hfar ha hsel h1 h2 => ?_⟩, fun t1 t2 hm => ⟨fun ha => ?_, fun ha hsel hst => ?_⟩⟩,
    fun s key tx rx limit l hl => ⟨linkTimeExchange_idle hl, fun hp hu ht => ⟨fun hin => ?_, fun hout => ?_⟩⟩⟩
  · rw [step, hq]
    exact congrArg done (tick_stopped hp)
  · obtain ⟨ht, hsl, hpend⟩ := tick_moves hp h0 h1
    refine ⟨tick s, ?_, ht, hsl, hpend.trans hq⟩
    rw [step, hq]
  · obtain ⟨h1, h2, h3⟩ := timeWrites_owned (v := v) hon
    exact ⟨regAnswered_of_write hs rfl h1, regAnswered_of_write hs rfl h2, regAnswered_of_write hs rfl h3⟩
  · exact regAnswered_of_write hs rfl (tbAdjWrite_refused hoff hw hneg)
  · obtain ⟨u, hu, ht, hsl, he⟩ := tbAdjWrite_steps hoff hw h0 h1
    exact ⟨u, regAnswered_of_write hs rfl hu, ht, hsl, he⟩
  · exact regAnswered_of_write hs rfl (tbAdjWrite_slews hoff hw)
  · exact regAnswered_of_write hs rfl (tbIncrLoWrite_staged hoff)
  · obtain ⟨u, hu, hx, hlo⟩ := tbIncrHiWrite_commits hoff hok
    exact ⟨u, regAnswered_of_write hs rfl hu, hx, hlo⟩
  · exact regAnswered_of_write hs rfl ((tbIncrHiWrite_eq hoff).trans (if_neg (by rw [Bool.not_eq_true]; exact hbad)))
  · rcases hc with rfl | rfl <;> exact regAnswered_of_write hs rfl (tbCtlWrite_refused hj hk)
  · have hctl := tbCtlWrite_fields hok
    have hans : RegAnswered c s o C.ok 0 (tbCtlWrite s v).1 := by
      have heq : tbCtlWrite s v = ((tbCtlWrite s v).1, C.ok) := Prod.ext rfl (by rw [tbCtlWrite_accepted hok])
      rcases hc with rfl | rfl <;> exact regAnswered_of_write hs rfl heq
    refine ⟨_, hans, hctl.select, by rw [servoOn_of_fld, hctl.servo], hctl.auto, hctl.ppm, fun hj hon h0 => tbCtlWrite_manual hj hon h0,
      fun hj hoff h1 => ?_, fun h hj ha hon h1 => tbCtlWrite_switches hj (hok.resolve_left hj) ha hon h1⟩
    obtain ⟨hst, hincr⟩ := tbCtlWrite_takes hj hoff h1
    refine ⟨fun hof => ?_, fun hof => ?_⟩
    · rw [hst, hincr, hof]
      exact ⟨rfl, rfl⟩
    · rw [hst, hincr, hof]
      exact ⟨rfl, rfl⟩
  · exact regAnswered_of_read hs rfl rfl
  · have hat := ptpDelay_near hnear
    refine ⟨_, ptpMessageReceive_one hp hf hl hj ht hn ?_, ?_⟩
    · show RegsOutside timeRegs s (ptpDelay s h j t1 t2 t3 t4)
      rw [hat]
      exact setPtp_regs s h j _ _
    · exact (congrArg (ptpOf · h j) hat).trans (ptpOf_setPtp s h (by rw [hlen]; exact hj) _)
  · have hat := ptpDelay_far hfar ha hsel h1 h2
    obtain ⟨hservo, -, -, hregs⟩ := enterHoldover_frame (setPtp s h j (jumpedPtp s h j (measuredDelay s h j t1 t2 t3 t4))) h
      (measuredDelay s h j t1 t2 t3 t4 - (ptpOf s h j).mpd).natAbs (ptpOf s h j).ofs
    have hsel' : tbSelect (setPtp s h j (jumpedPtp s h j (measuredDelay s h j t1 t2 t3 t4))) = j := (tbSelect_of_regs (setPtp_regs s h j _ _)).trans hsel
    have hptp := ptpOf_enterHoldover (s := setPtp s h j (jumpedPtp s h j (measuredDelay s h j t1 t2 t3 t4))) (h := h)
      (measuredDelay s h j t1 t2 t3 t4 - (ptpOf s h j).mpd).natAbs (ptpOf s h j).ofs (by
        rw [hsel', setPtp, hubOf_setHub, List.length_set, hlen]
        exact hj)
    rw [hsel', ptpOf_setPtp s h (by rw [hlen]; exact hj)] at hptp
    have hat' : ptpAt s h j (.delay t1 t2 t3 t4) = _ := hat
    refine ⟨_, ptpMessageReceive_one hp hf hl hj ht hn (hat' ▸ (setPtp_regs s h j _ _).trans hregs), ?_⟩
    rw [hat', hservo, hptp]
    exact ⟨rfl, rfl, rfl, rfl⟩
  · have hat := ptpAt_sync_standby (j := j) (t1 := t1) (t2 := t2) ha
    obtain ⟨h1, h2⟩ := ptpSync_measured (t1 := t1) (t2 := t2) hm (by rw [hlen]; exact hj)
    refine ⟨_, ptpMessageReceive_one hp hf hl hj ht hn (hat ▸ ptpSync_regs s h j t1 t2 _), ?_⟩
    rw [hat]
    exact ⟨h1, h2⟩
  · have hat := ptpAt_sync_first (t1 := t1) (t2 := t2) ha hsel hst hm (by rw [hlen]; exact hj)
    obtain ⟨hacq, hregs⟩ := enterAcquiring_frame (ptpSync s h j t1 t2)
    refine ⟨_, ptpMessageReceive_one hp hf hl hj ht hn (hat ▸ ((ptpSync_regs s h j t1 t2 _).trans hregs).trans (requal_regs _).time), ?_⟩
    rw [hat, (requal_core _).servo, hacq]
  · have hout : decide (100 * (ownLimit s + limit) < (((tx + wayLatency s key l : Nat) : Int) - rx).natAbs) = false := decide_eq_false (by omega)
    have hafter : nbrAfter s key limit (((tx + wayLatency s key l : Nat) : Int) - rx) = ⟨10 * (((tx + wayLatency s key l : Nat) : Int) - rx), 0, false⟩ := by
      simp only [nbrAfter, hout, Bool.false_eq_true, if_false, Bool.false_and]
    refine ⟨_, linkTimeExchange_compares hl hp hu ht, ?_⟩
    dsimp only
    rw [hafter, if_neg (by simp [nbrTells]), find_nbrRecorded, hafter]
    rfl
  · have hdec : decide (100 * (ownLimit s + limit) < (((tx + wayLatency s key l : Nat) : Int) - rx).natAbs) = true := decide_eq_true hout
    have hafter : nbrAfter s key limit (((tx + wayLatency s key l : Nat) : Int) - rx) = ⟨10 * (((tx + wayLatency s key l : Nat) : Int) - rx),
        min ((SMap.getD s.fab.nbr key ⟨0, 0, false⟩).beyond + 1) 8, (SMap.getD s.fab.nbr key ⟨0, 0, false⟩).reported⟩ := by
      simp only [nbrAfter, hdec, if_true, Bool.true_and]
    have hfab (t : State) : (if nbrTells (nbrAfter s key limit (((tx + wayLatency s key l : Nat) : Int) - rx)) then
        hubReport (setEvent t F.tbEventNbr) C.timeNbrDisagree [] else t).fab = t.fab := by
      split
      · exact (((SameCore.refl t).setEvent _).hubReport _ _).fab
      · rfl
    refine ⟨_, _, linkTimeExchange_compares hl hp hu ht, (congrArg (fun f => SMap.find f.nbr key) (hfab _)).trans (find_nbrRecorded _ _ _ _ _), ?_, ?_,
      fun h7 hrep => ?_⟩
    · rw [hafter]
    · rw [hafter]
    · have htell : nbrTells (nbrAfter s key limit (((tx + wayLatency s key l : Nat) : Int) - rx)) = true := by
        rw [hafter, nbrTells, hrep, show min ((SMap.getD s.fab.nbr key ⟨0, 0, false⟩).beyond + 1) 8 = 8 by omega]
        rfl
      dsimp only
      rw [htell, Bool.or_true, if_pos rfl, hubReport, fld_report _ _ _ _ _ (by decide), fld_setEvent _ (by decide) rfl]
      exact ⟨rfl, rfl⟩

end Sys2Proof.Proofs
end

section
/-!
SUPPORT. The light paths through a warm reset (R354, R524): with no hub active, no link and no identity known, lanes start again and change
nothing but engines, calibration, registers and the reports that their parts hold.
-/
namespace Sys2Proof.Machine
open Sys2Proof

variable {s t u : State}

/-- No hub acts, no link stands and no neighbour's identity is known, as a reset leaves it. -/
def Unlinked (s : State) : Prop := s.active = none ∧ s.fab.links = [] ∧ s.fab.ident = []

/-- On a module that a reset left without links, `t` differs from `s` in its engines, its calibration, its registers and its held reports alone. -/
def Relit (s t : State) : Prop := Unlinked s → ∃ o c r l, t = { s with optics := o, cal := c, regs := r, heldReports := l }

theorem farOf_of_unlinked (hu : Unlinked s) (P c : Nat) : farOf s P c = none := by
  rw [farOf, identOf, hu.2.2]
  rfl

theorem farServing_of_unlinked (hu : Unlinked s) (P c : Nat) : farServing s P c = none := by
  rw [farServing, farOf_of_unlinked hu, farOf_of_unlinked hu, ite_self]

namespace Relit

theorem refl (s : State) : Relit s s := fun _ => ⟨_, _, _, _, rfl⟩

theorem unlinked (h : Relit s t) (hu : Unlinked s) : Unlinked t := by
  obtain ⟨o, c, r, l, rfl⟩ := h hu
  exact hu

theorem trans (h : Relit s t) (k : Relit t u) : Relit s u := fun hu => by
  obtain ⟨o, c, r, l, rfl⟩ := k (h.unlinked hu)
  obtain ⟨o', c', r', l', rfl⟩ := h hu
  exact ⟨_, _, _, _, rfl⟩

theorem foldl {α : Type} (f : State → α → State) (hf : ∀ s a, Relit s (f s a)) (l : List α) (s : State) : Relit s (l.foldl f s) :=
  List.foldlRecOn _ _ (refl s) fun _ h a _ => h.trans (hf _ a)

theorem ite {p : Prop} [Decidable p] (h : Relit s t) (k : Relit s u) : Relit s (if p then t else u) := by
  split
  · exact h
  · exact k

theorem modOptic (s : State) (e : Nat) (f : Optic → Optic) : Relit s (modOptic s e f) := fun _ => ⟨_, _, _, _, rfl⟩
theorem setElem (s : State) (e i : Nat) (x : Elem) : Relit s (setElem s e i x) := modOptic s e _
theorem steerElem (s : State) (e i : Nat) : Relit s (steerElem s e i) := setElem s e i _
theorem setLaser (s : State) (e n : Nat) (x : Laser) : Relit s (setLaser s e n x) := modOptic s e _
theorem setLane (s : State) (e p c : Nat) (x : Lane) : Relit s (setLane s e p c x) := modOptic s e _
theorem modLane (s : State) (e p c : Nat) (f : Lane → Lane) : Relit s (modLane s e p c f) := setLane s e p c _
theorem setCal (s : State) (cls inst : Nat) (x : CalItem) : Relit s (setCal s cls inst x) := fun _ => ⟨_, _, _, _, rfl⟩
theorem setEventAt (s : State) (f : Fld) (d i j : Nat) : Relit s (setEventAt s f d i j) := fun _ => ⟨_, _, _, _, rfl⟩
theorem setEvent (s : State) (f : Fld) : Relit s (setEvent s f) := setEventAt s f 0 0 0

/-- A report made while no hub acts is held. -/
theorem report (s : State) (code src handle : Nat) (d : List Byte) : Relit s (report s code src handle d) := fun hu => by
  rw [Machine.report, reportNow, fileReport, hu.1]
  exact ⟨_, _, _, _, rfl⟩

theorem closeElem (s : State) (cls inst : Nat) : Relit s (closeElem s cls inst) := by
  unfold Machine.closeElem
  exact ite (ite (refl s) (steerElem s _ _)) (refl s)

theorem calAbandon (s : State) (cls inst : Nat) : Relit s (calAbandon s cls inst) := by
  unfold Machine.calAbandon
  exact ite ((((setCal s _ _ _).trans (setEvent _ _)).trans (report _ _ _ _ _)).trans (closeElem _ _ _)) (refl s)

theorem abandonLane (s : State) (e p c : Nat) : Relit s (abandonLane s e p c) := by
  unfold Machine.abandonLane
  exact foldl (fun s (k : Nat × Nat) => Machine.calAbandon s k.1 k.2) (fun s k => calAbandon s k.1 k.2) _ s

theorem dropLane (s : State) (e p c : Nat) : Relit s (dropLane s e p c) :=
  ((modLane s e p c _).trans (setEventAt _ _ _ _ _)).trans (report _ _ _ _ _)

theorem uncover (s : State) (e p : Nat) (dark : Bool) : Relit s (uncover s e p dark) := by
  unfold Machine.uncover
  split
  · exact refl s
  · have h1 := modLane s e p 8 fun x => { x with cover := none }
    dsimp only
    split
    · exact h1.trans (dropLane _ _ _ _)
    · exact (h1.trans (abandonLane _ _ _ _)).trans (ite (dropLane _ _ _ _) (modLane _ _ _ _ _))
    · exact h1.trans (ite (dropLane _ _ _ _) (refl _))
    · exact h1

theorem releaseCover (e : Nat) (ch : List Nat) (s : State) (p : Nat) : Relit s (releaseCover e ch s p) := by
  unfold Machine.releaseCover
  dsimp only
  split
  · exact refl s
  · exact ite (modLane s _ _ _ _) (ite (uncover s _ _ _) (refl s))

/-- λS reaches no far end while no identity is known, so it covers nothing. -/
theorem spareFree (s : State) (e p : Nat) : Relit s (spareFree s e p) := fun hu => by
  have h1 := modLane s e p 8 fun x => { x with st := .spareIdle, cover := none }
  have hreach (c : Nat) : spareReaches (Machine.modLane s e p 8 fun x => { x with st := .spareIdle, cover := none }) e p c = false := by
    rw [spareReaches, farOf_of_unlinked (h1.unlinked hu)]
    rfl
  have hnone : Machine.spareFree s e p = Machine.modLane s e p 8 fun x => { x with st := .spareIdle, cover := none } := by
    have hfind : (List.range 8).find? (fun _ => false) = none := rfl
    simp only [Machine.spareFree, hreach, Bool.and_false, hfind]
  rw [hnone]
  exact h1 hu

/-- No link follows where none stands, and none forms where no far end is known. -/
theorem relinkLane (s : State) (e p : Nat) : Relit s (relinkLane s e p) := fun hu => by
  have hports : portLinks s (8 * e + p) = [] := by rw [portLinks, hu.2.1]; rfl
  have hnew (c : Nat) : newLink (8 * e + p) s c = s := by rw [newLink, farServing_of_unlinked hu]
  have hsame : Machine.relinkLane s e p = s := by
    rw [Machine.relinkLane, relink, hports]
    exact List.foldlRecOn (motive := fun t => t = s) _ _ rfl fun t ht c _ => by rw [ht, hnew]
  rw [hsame]
  exact refl s hu

theorem startLane (e : Nat) (s : State) (l : Nat) : Relit s (startLane e s l) := by
  have hident {t : State} {k : Nat} : Relit t { t with fab := { t.fab with ident := SMap.erase t.fab.ident k } } := fun hu => by
    have hsame : { t with fab := { t.fab with ident := SMap.erase t.fab.ident k } } = t := by
      rw [hu.2.2, show SMap.erase ([] : SMap IdentInfo) k = [] from rfl, ← hu.2.2]
    rw [hsame]
    exact refl t hu
  unfold Machine.startLane
  extract_lets p c s1 o st _ s2 s3
  have h2 : Relit s s2 := (abandonLane s _ _ _).trans (setLane _ _ _ _ _)
  have h3 : Relit s2 s3 := ite ((setElem _ _ _ _).trans (setElem _ _ _ _)) ((steerElem _ _ _).trans (steerElem _ _ _))
  exact (h2.trans h3).trans hident

theorem startPort (before : Optic) (e : Nat) (s : State) (p : Nat) : Relit s (startPort before e s p) := by
  unfold Machine.startPort
  extract_lets o s1
  have h1 : Relit s s1 :=
    ite (refl s) (ite ((steerElem _ _ _).trans (steerElem _ _ _)) ((setElem _ _ _ _).trans (setElem _ _ _ _)))
  exact ite (h1.trans (steerElem _ _ _)) h1

theorem lightLasers (s : State) (e : Nat) : Relit s (lightLasers s e) := by
  refine foldl _ (fun s c => ?_) _ s
  dsimp only
  refine ite (refl s) ?_
  split
  · exact ((setLaser s _ _ _).trans (steerElem _ _ _)).trans (steerElem _ _ _)
  · exact refl s

theorem startLanes (s : State) (e : Nat) (before : Optic) (ch : List Nat) : Relit s (startLanes s e before ch) := by
  unfold Machine.startLanes
  extract_lets s1 s2 s3
  have h1 : Relit s s1 := foldl _ (releaseCover e ch) _ s
  have h2 : Relit s1 s2 := (foldl _ (startLane e) _ _).trans (foldl _ (startPort before e) _ _)
  have h3 : Relit s2 s3 := ite (lightLasers _ _) (modOptic _ _ _)
  refine ((h1.trans h2).trans h3).trans (foldl _ (fun s p => ?_) _ s3)
  exact (ite (spareFree _ _ _) (refl _)).trans (relinkLane _ _ _)

theorem warmOptic (s : State) (e : Nat) : Relit s (warmOptic s e) := by
  unfold Machine.warmOptic
  extract_lets _ s1 level
  refine ((modOptic s e _).trans (foldl level (fun s p => ?_) _ s1)).trans (startLanes _ _ _ _)
  exact ite ((steerElem _ _ _).trans (steerElem _ _ _)) (refl _)

end Relit

end Sys2Proof.Machine
end

section
/-!
SUPPORT. Resets and starts (R520 to R525, R551, R563): what they leave, what they wipe, and how the hubs stand after one.
-/
namespace Sys2Proof.Machine
open Sys2Proof

variable {s t u : State} {h : Hub}

/-! ### What a reset ends and wipes -/

/-- A report that is not for the host sends nothing. -/
theorem reportNow_recorded_out (s : State) (code src handle : Nat) (d : List Byte) (r : Bool) :
    (reportNow s code src handle d false r).out = s.out := by
  unfold reportNow fileReport
  split
  · rfl
  · simp [apply_ite State.out]

theorem endGrant_frame (s : State) : (endGrant s).out = s.out ∧ (endGrant s).phase = s.phase ∧ (endGrant s).tb = s.tb ∧ (endGrant s).elec = s.elec := by
  unfold endGrant
  split
  · exact ⟨rfl, rfl, rfl, rfl⟩
  · exact ⟨reportNow_recorded_out _ _ _ _ _ _, reportNow_phase _ _ _ _ _ _ _, reportNow_tb _ _ _ _ _ _ _, reportNow_elec _ _ _ _ _ _ _⟩

theorem abandonUpdate_frame (s : State) (x : Hub) : (abandonUpdate s x).out = s.out ∧ (abandonUpdate s x).phase = s.phase ∧
    (abandonUpdate s x).tb = s.tb ∧ (abandonUpdate s x).elec = s.elec := by
  unfold abandonUpdate
  dsimp only
  split
  · cases x <;> exact ⟨rfl, rfl, rfl, rfl⟩
  · exact ⟨rfl, rfl, rfl, rfl⟩

theorem endWork_frame (s : State) : (endWork s).out = s.out ∧ (endWork s).phase = s.phase ∧ (endWork s).tb = s.tb ∧ (endWork s).elec = s.elec := by
  obtain ⟨h1, h2, h3, h4⟩ := endGrant_frame s
  obtain ⟨k1, k2, k3, k4⟩ := abandonUpdate_frame (endGrant s) (match (endGrant s).active with | some h => peer h | none => .hb)
  exact ⟨k1.trans h1, k2.trans h2, k3.trans h3, k4.trans h4⟩

/-- A module as every reset leaves it: no bundle, session, count or active hub, dead-letter queues empty, stacks being wiped. -/
structure Wiped (t : State) : Prop where
  slots : t.pl.slots = []
  sessions : t.sessions = []
  counts : t.counts = []
  active : t.active = none
  dies : ∀ d ∈ t.dies, d.dlq = [] ∧ ∀ k ∈ d.stks, k.mem = Mem.wiped ∧ k.wiping = true

theorem dropVolatile_dies (s : State) : (dropVolatile s).dies = s.dies.map Die.restart := rfl

theorem dropVolatile_wiped (s : State) : Wiped (dropVolatile s) := by
  refine ⟨rfl, rfl, rfl, rfl, fun d hd => ?_⟩
  rw [dropVolatile_dies] at hd
  obtain ⟨d, -, rfl⟩ := List.mem_map.1 hd
  refine ⟨rfl, fun k hk => ?_⟩
  obtain ⟨k, -, rfl⟩ := List.mem_map.1 hk
  exact ⟨rfl, rfl⟩

theorem dropVolatile_unlinked (s : State) : Unlinked (dropVolatile s) := ⟨rfl, rfl, rfl⟩

theorem Wiped.relit (hw : Wiped s) (o : List Optic) (c : Calib) (r : SMap Word) (l : List Report) (f : Fld) (v : Nat) :
    Wiped (setFld { s with optics := o, cal := c, regs := r, heldReports := l } f v) := ⟨hw.slots, hw.sessions, hw.counts, hw.active, hw.dies⟩

theorem Wiped.withPhase (hw : Wiped s) (p : Phase) : Wiped { s with phase := p } := ⟨hw.slots, hw.sessions, hw.counts, hw.active, hw.dies⟩

theorem coldReset_wiped (s : State) (p : Phase) : Wiped (coldReset s p) := by
  rw [coldReset]
  exact (dropVolatile_wiped _).withPhase p

theorem dropVolatile_frame (s : State) : (dropVolatile s).phase = s.phase ∧ (dropVolatile s).tb = s.tb ∧ (dropVolatile s).elec = s.elec ∧
    (dropVolatile s).out = s.out := ⟨rfl, rfl, rfl, rfl⟩

theorem coldLost_frame (s : State) : (coldLost s).tb.total = 0 ∧ (coldLost s).elec = s.elec := by
  refine ⟨?_, rfl⟩
  simp only [coldLost, TimeBase.total]
  rfl

theorem coldReset_eq (s : State) (p : Phase) : coldReset s p = { dropVolatile (coldLost (endWork s)) with phase := p } := by rw [coldReset]

theorem withPhase_frame (s : State) (p : Phase) : ({ s with phase := p } : State).phase = p ∧ ({ s with phase := p } : State).tb = s.tb ∧
    ({ s with phase := p } : State).elec = s.elec := ⟨rfl, rfl, rfl⟩

theorem coldReset_frame (s : State) (p : Phase) : (coldReset s p).phase = p ∧ (coldReset s p).tb.total = 0 ∧ (coldReset s p).elec = s.elec := by
  obtain ⟨h1, h2, h3⟩ := withPhase_frame (dropVolatile (coldLost (endWork s))) p
  obtain ⟨-, k2, k3, -⟩ := dropVolatile_frame (coldLost (endWork s))
  obtain ⟨c2, c3⟩ := coldLost_frame (endWork s)
  rw [coldReset_eq, h1, h2, h3, k2, k3, c2, c3]
  exact ⟨rfl, rfl, (endWork_frame s).2.2.2⟩

/-- What is left by a warm reset before its lanes start again. -/
def warmWiped (s : State) : State := dropVolatile (warmKept (endWork s))

theorem warmReset_eq (s : State) (cause : Nat) :
    ∃ o c r l, warmReset s cause = setFld { warmWiped s with optics := o, cal := c, regs := r, heldReports := l } F.secResetCauseCause cause := by
  obtain ⟨o, c, r, l, h⟩ := Relit.foldl warmOptic Relit.warmOptic (List.range s.ident.engines) _ (dropVolatile_unlinked (warmKept (endWork s)))
  exact ⟨o, c, r, l, congrArg (fun t => setFld t F.secResetCauseCause cause) h⟩

theorem warmReset_wiped (s : State) (cause : Nat) : Wiped (warmReset s cause) := by
  obtain ⟨o, c, r, l, h⟩ := warmReset_eq s cause
  rw [h]
  exact (dropVolatile_wiped _).relit _ _ _ _ _ _

theorem warmReset_frame (s : State) (cause : Nat) : (warmReset s cause).phase = s.phase ∧ (warmReset s cause).tb.total = s.tb.total ∧
    (warmReset s cause).out = s.out ∧ fld (warmReset s cause) F.secResetCauseCause = cause % 2 ^ F.secResetCauseCause.width := by
  obtain ⟨o, c, r, l, h⟩ := warmReset_eq s cause
  obtain ⟨hout, hphase, htb, -⟩ := endWork_frame s
  rw [h]
  exact ⟨hphase, (congrArg TimeBase.total htb :), hout, fld_setFld_same _ (f := F.secResetCauseCause) (by decide) _⟩

theorem powerOff_unpowered (hp : s.phase = .unpowered) : powerOff s = s := if_pos hp

theorem Wiped.withPower (hw : Wiped s) (e : Elec) (x : Security) : Wiped { s with elec := e, sec := x } :=
  ⟨hw.slots, hw.sessions, hw.counts, hw.active, hw.dies⟩

theorem powerOff_frame (hp : s.phase ≠ .unpowered) :
    Wiped (powerOff s) ∧ (powerOff s).sec.retPending = false := by
  rw [powerOff, if_neg hp]
  exact ⟨(coldReset_wiped s .unpowered).withPower _ _, rfl⟩

theorem powerOff_phase (s : State) : (powerOff s).phase = .unpowered ∧ (powerOff s).elec.latched = s.elec.latched := by
  by_cases hp : s.phase = .unpowered
  · rw [powerOff_unpowered hp]
    exact ⟨hp, rfl⟩
  · rw [powerOff, if_neg hp]
    exact ⟨rfl, (congrArg Elec.latched (endWork_frame s).2.2.2 :)⟩

/-! ### A start -/

/-- What a start's loading of retained state leaves: the hubs but their recorders, the phase, the security version and the pins. -/
structure Booting (s t : State) : Prop where
  hub : ∀ h, (hubOf t h).core = (hubOf s h).core
  phase : t.phase = s.phase
  svnMin : t.sec.svnMin = s.sec.svnMin
  rstLow : t.elec.rstLow = s.elec.rstLow
  optime : t.optime = s.optime
  cycles : t.cycles = s.cycles

theorem Booting.refl (s : State) : Booting s s := ⟨fun _ => rfl, rfl, rfl, rfl, rfl, rfl⟩

theorem Booting.trans (a : Booting s t) (b : Booting t u) : Booting s u :=
  ⟨fun h => (b.hub h).trans (a.hub h), b.phase.trans a.phase, b.svnMin.trans a.svnMin, b.rstLow.trans a.rstLow, b.optime.trans a.optime,
    b.cycles.trans a.cycles⟩

theorem SameCore.booting (h : SameCore s t) : Booting s t :=
  ⟨h.hub, h.phase, congrArg Security.svnMin h.sec, (congrArg (fun x => x.elec.rstLow) h :), (congrArg State.optime h :), (congrArg State.cycles h :)⟩

theorem lcErase_booting (s : State) (d : LifeCycle) : Booting s (lcErase s d) :=
  ⟨fun h => by cases h <;> rfl, rfl, rfl, rfl, rfl, rfl⟩

theorem lcResume_booting (s : State) : Booting s (lcResume s) := by
  unfold lcResume
  split
  · exact lcErase_booting s _
  · exact .refl s

theorem keptChanged_booting (s : State) : Booting s (keptChanged s) := ⟨fun h => by cases h <;> rfl, rfl, rfl, rfl, rfl, rfl⟩

theorem applyRet_booting (s : State) : Booting s (applyRet s) := by
  unfold applyRet
  extract_lets src from_ regs params _ _ _ _ s1 word s2
  have h1 : Booting s s1 := ⟨fun h => by cases h <;> rfl, rfl, rfl, rfl, rfl, rfl⟩
  have h2 : Booting s s2 := h1.trans ((SameCore.refl s1).setRegWord _ _).booting
  exact List.foldlRecOn (motive := Booting s) _ _ h2 fun t ht e _ =>
    (ht.trans (keptChanged_booting t)).trans ((SameCore.refl _).hubReport _ _).booting

theorem withShadow_booting (s : State) (m : SMap Nat) : Booting s { s with fab := { s.fab with shadow := m } } :=
  ⟨fun h => by cases h <;> rfl, rfl, rfl, rfl, rfl, rfl⟩

/-- A power-up's loading: operating time and cycle count too. -/
theorem powerLoad_booting (s : State) : Booting { s with optime := s.optimeSaved, cycles := (s.cycles + 1) % 2 ^ 24 } (powerLoad s) := by
  rw [powerLoad]
  exact (applyRet_booting _).trans (withShadow_booting _ _)

/-- How a hub stands once the boot ROM has checked its image (R532). -/
def bootedHealth (s : State) (h : Hub) : Health :=
  if (hubOf s h).fw.valid = true ∧ s.sec.svnMin ≤ (hubOf s h).fw.svn then .standbyUnsync else .recovery

/-- A hub before its first report: its image checked. -/
def checkedHub (s : State) (h : Hub) : State :=
  let ok := (hubOf s h).fw.valid && decide (s.sec.svnMin ≤ (hubOf s h).fw.svn)
  setHub s h { hubOf s h with running := (hubOf s h).fw, recovery := !ok, health := if ok then .standbyUnsync else .recovery }

theorem bootHub_core (s : State) (h : Hub) : SameCore (checkedHub s h) (bootHub s h) := by
  unfold bootHub
  extract_lets x ok s1
  split
  · exact .refl _
  · exact (SameCore.refl (checkedHub s h)).report _ _ _ _

theorem checkedHub_health (s : State) (h : Hub) : (hubOf (checkedHub s h) h).health = bootedHealth s h := by
  rw [checkedHub, hubOf_setHub, bootedHealth]
  simp only [Bool.and_eq_true, decide_eq_true_eq]

theorem bootHub_health (s : State) (h : Hub) : (hubOf (bootHub s h) h).health = bootedHealth s h :=
  (congrArg HubSt.health ((bootHub_core s h).hub h)).trans (checkedHub_health s h)

theorem bootHub_running (s : State) (h : Hub) : (hubOf (bootHub s h) h).running = (hubOf s h).fw :=
  (congrArg HubSt.running ((bootHub_core s h).hub h)).trans (by rw [checkedHub, hubOf_setHub]; rfl)

theorem bootHub_peer (s : State) (h : Hub) : (hubOf (bootHub s h) (peer h)).core = (hubOf s (peer h)).core :=
  ((bootHub_core s h).hub (peer h)).trans (by rw [checkedHub, hubOf_setHub_other _ (peer_ne h)])

theorem bootHub_frame (s : State) (h : Hub) : (bootHub s h).phase = s.phase ∧ (bootHub s h).sec = s.sec ∧ (bootHub s h).elec = s.elec ∧
    (bootHub s h).optime = s.optime ∧ (bootHub s h).cycles = s.cycles ∧ (bootHub s h).active = s.active ∧ (bootHub s h).fw = s.fw := by
  have hc := bootHub_core s h
  refine ⟨hc.phase.trans ?_, hc.sec.trans ?_, (congrArg State.elec hc :).trans ?_, (congrArg State.optime hc :).trans ?_,
    (congrArg State.cycles hc :).trans ?_, hc.active.trans ?_, (congrArg State.fw hc :).trans ?_⟩ <;> cases h <;> rfl

/-- Loops driven to SAFE change the drivers alone. -/
theorem safeAll_eq (s : State) (h : Hub) : ∃ d, safeAll s h = { s with drivers := d } := by
  have hdrive (s : State) (g : Servo) (i : Nat) : ∃ d, driveSafe s g i = { s with drivers := d } := by
    unfold driveSafe
    refine List.foldlRecOn (motive := fun t => ∃ d, t = { s with drivers := d }) _ _ ⟨s.drivers, rfl⟩ fun t ⟨d, hd⟩ j _ => ?_
    split
    · exact ⟨_, by rw [drivePin, hd]⟩
    · exact ⟨d, hd⟩
  unfold safeAll
  refine List.foldlRecOn (motive := fun t => ∃ d, t = { s with drivers := d }) _ _ ⟨s.drivers, rfl⟩ fun t ⟨d, hd⟩ i _ => ?_
  split
  · exact ⟨d, hd⟩
  · obtain ⟨d', h'⟩ := hdrive t (engOf t h) i
    exact ⟨d', by rw [h', hd]⟩

theorem startUp_held (hn : s.phase ≠ .resetHeld ∨ s.elec.rstLow = true ∨ s.elec.clkLost = true ∨ s.elec.off = true) (clk : Bool) :
    startUp s clk = s := if_pos hn

/-- A start that power, RST_N and REFCLK allow. -/
structure Started (s t : State) (clk : Bool) : Prop where
  phase : t.phase = .running
  health : ∀ h, (hubOf t h).health = bootedHealth s h
  cause : fld t F.secResetCauseCause = if s.elec.fresh then 0 else 1
  refclk : fld t F.elecStatRefclkCause = b2n (clk && !s.elec.fresh)
  rstLow : t.elec.rstLow = s.elec.rstLow
  fresh : s.elec.fresh = true → t.optime = s.optimeSaved ∧ t.cycles = (s.cycles + 1) % 2 ^ 24

/-- A start up to the check of the images: retained state loaded where the power is fresh. -/
def startLoaded (s : State) : State :=
  let s1 := lcResume { s with phase := .running, elec := { s.elec with fresh := false } }
  if s.elec.fresh then powerLoad s1 else s1

theorem lcErase_saved (s : State) (d : LifeCycle) : (lcErase s d).optimeSaved = s.optimeSaved ∧ (lcErase s d).cycles = s.cycles := ⟨rfl, rfl⟩

theorem lcResume_saved (s : State) : (lcResume s).optimeSaved = s.optimeSaved ∧ (lcResume s).cycles = s.cycles := by
  unfold lcResume
  split
  · exact lcErase_saved s _
  · exact ⟨rfl, rfl⟩

theorem startLoaded_frame (s : State) : (∀ h, (hubOf (startLoaded s) h).core = (hubOf s h).core) ∧ (startLoaded s).phase = .running ∧
    (startLoaded s).sec.svnMin = s.sec.svnMin ∧ (startLoaded s).elec.rstLow = s.elec.rstLow ∧
    (s.elec.fresh = true → (startLoaded s).optime = s.optimeSaved ∧ (startLoaded s).cycles = (s.cycles + 1) % 2 ^ 24) := by
  have hb := lcResume_booting { s with phase := .running, elec := { s.elec with fresh := false } }
  obtain ⟨hsaved, hcyc⟩ := lcResume_saved { s with phase := .running, elec := { s.elec with fresh := false } }
  have hhub (h : Hub) := (hb.hub h).trans (show _ = (hubOf s h).core by cases h <;> rfl)
  unfold startLoaded
  extract_lets _ s1
  split
  · have ht := powerLoad_booting s1
    refine ⟨fun h => (ht.hub h).trans (.trans (by cases h <;> rfl) (hhub h)), ht.phase.trans hb.phase, ht.svnMin.trans hb.svnMin,
      ht.rstLow.trans hb.rstLow, fun _ => ⟨ht.optime.trans hsaved, ht.cycles.trans ?_⟩⟩
    rw [← hcyc]
  · rename_i hf
    exact ⟨hhub, hb.phase, hb.svnMin, hb.rstLow, fun k => absurd k hf⟩

theorem startUp_started (hp : s.phase = .resetHeld) (hr : s.elec.rstLow = false) (hc : s.elec.clkLost = false) (ho : s.elec.off = false) (clk : Bool) :
    Started s (startUp s clk) clk := by
  obtain ⟨hcore, hphase, hsvn, hrst, hfresh⟩ := startLoaded_frame s
  have hbooted (h : Hub) : bootedHealth (startLoaded s) h = bootedHealth s h := by
    have hfw : (hubOf (startLoaded s) h).fw = (hubOf s h).fw := (congrArg HubSt.fw (hcore h) :)
    rw [bootedHealth, hfw, hsvn, bootedHealth]
  obtain ⟨pa, ca, ea, oa, ya, -, -⟩ := bootHub_frame (startLoaded s) .ha
  obtain ⟨pb, cb, eb, ob, yb, -, -⟩ := bootHub_frame (bootHub (startLoaded s) .ha) .hb
  obtain ⟨d, hd⟩ := safeAll_eq (bootHub (bootHub (startLoaded s) .ha) .hb) .ha
  have hha : (hubOf (bootHub (bootHub (startLoaded s) .ha) .hb) .ha).health = bootedHealth s .ha :=
    (congrArg HubSt.health (bootHub_peer (bootHub (startLoaded s) .ha) .hb)).trans ((bootHub_health _ .ha).trans (hbooted .ha))
  have hhb : (hubOf (bootHub (bootHub (startLoaded s) .ha) .hb) .hb).health = bootedHealth s .hb := by
    have hfw : (hubOf (bootHub (startLoaded s) .ha) .hb).fw = (hubOf (startLoaded s) .hb).fw := (congrArg HubSt.fw (bootHub_peer (startLoaded s) .ha) :)
    rw [bootHub_health, bootedHealth, hfw, ca, ← bootedHealth, hbooted]
  rw [startUp, if_neg (by simp [hp, hr, hc, ho])]
  dsimp only
  rw [show (if s.elec.fresh then powerLoad (lcResume { s with phase := .running, elec := { s.elec with fresh := false } })
    else lcResume { s with phase := .running, elec := { s.elec with fresh := false } }) = startLoaded s from rfl, hd]
  generalize bootHub (bootHub (startLoaded s) .ha) .hb = v at hha hhb pb eb ob yb
  refine ⟨pb.trans (pa.trans hphase), fun h => ?_, ?_, ?_, (congrArg Elec.rstLow (eb.trans ea)).trans hrst,
    fun hf => ⟨(ob.trans oa).trans (hfresh hf).1, (yb.trans ya).trans (hfresh hf).2⟩⟩
  · cases h
    · exact hha
    · exact hhb
  · rw [fld_setFld_other _ (by decide), fld_setFld_same _ (by decide)]
    cases s.elec.fresh <;> rfl
  · rw [fld_setFld_same _ (by decide)]
    cases s.elec.fresh <;> cases clk <;> rfl

/-! ### POWER_UP -/

/-- A hub's flash as a start finds it: damaged where a hub is listed. -/
def markFw (badFw : List Hub) (x : HubSt) (h : Hub) : HubSt := { x with fw := { x.fw with valid := x.fw.valid && !badFw.contains h } }

/-- The state that a power-up starts from. -/
def powered (s : State) (badA badB : List Nat) (badLc : Bool) (badFw : List Hub) : State := { s with
  phase := .resetHeld, elec := { s.elec with off := false, fresh := true }
  ha := markFw badFw s.ha .ha, hb := markFw badFw s.hb .hb
  sec := { s.sec with retA := { s.sec.retA with bad := s.sec.retA.bad ++ badA }, retB := { s.sec.retB with bad := s.sec.retB.bad ++ badB }
                      incomplete := if badLc then some .returned else s.sec.incomplete } }

variable {badA badB : List Nat} {badLc : Bool} {badFw : List Hub}

theorem powerUp_starts (hp : s.phase = .unpowered) (hl : s.elec.latched = false) :
    exec (.powerUp badA badB badLc badFw) s = .next (startUp (powered s badA badB badLc badFw) false) :=
  congrArg done (if_neg (by simp [hp, hl]))

theorem hubOf_powered (h : Hub) : hubOf (powered s badA badB badLc badFw) h = markFw badFw (hubOf s h) h := by cases h <;> rfl

theorem bootedHealth_powered_damaged (hh : h ∈ badFw) : bootedHealth (powered s badA badB badLc badFw) h = .recovery := by
  rw [bootedHealth, hubOf_powered, markFw]
  simp [hh]

theorem bootedHealth_powered_whole : bootedHealth (powered s badA badB badLc []) h = bootedHealth s h := by
  rw [bootedHealth, hubOf_powered, markFw, bootedHealth]
  simp [powered]

/-! ### Input power (R551 to R553) -/

theorem fld_vminSeen (s : State) (mv : Nat) {f : Fld} (hf : (⟨f.reg, 0, 0, 0⟩ : RegRef).addr ≠ (⟨.elecVmin, 0, 0, 0⟩ : RegRef).addr) :
    fld (vminSeen s mv) f = fld s f := fld_setFld_other s hf _

theorem fld_satFld_same (s : State) {f : Fld} (hf : f.lsb + f.width ≤ 32) (n : Nat) :
    fld (satFldAt s f 0 0 0 n) f = satInc f.width (fld s f) n := by
  have hlt : satInc f.width (fld s f) n < 2 ^ f.width := by
    have := Nat.two_pow_pos f.width
    unfold satInc
    omega
  rw [satFldAt, show setFldAt s f 0 0 0 = setFld s f from rfl, fld_setFld_same _ hf]
  exact Nat.mod_eq_of_lt hlt

/-- The state in which a dip has been counted. -/
def dipSeen (s : State) (mv : Nat) : State := vminSeen (satFldAt s F.elecStatDips 0 0 0 1) mv

theorem dipSeen_frame (s : State) (mv : Nat) : fld (dipSeen s mv) F.elecStatDips = satInc F.elecStatDips.width (fld s F.elecStatDips) 1 ∧
    (dipSeen s mv).out = s.out :=
  ⟨(fld_vminSeen _ mv (by decide)).trans (fld_satFld_same s (by decide) 1), by rw [dipSeen, vminSeen, setFld_out, satFldAt_out]⟩

theorem inputDip_silent {mv : Nat} (hp : s.phase ≠ .unpowered) (hq : s.phase ≠ .running ∨ s.elec.dipSecond = some s.tb.sec) :
    exec (.inputDip mv) s = .next (dipSeen s mv) := congrArg done ((if_neg hp).trans (if_pos hq))

theorem inputDip_reports {mv : Nat} (hp : s.phase = .running) (hq : s.elec.dipSecond ≠ some s.tb.sec) : exec (.inputDip mv) s =
    .next (hubReport { dipSeen s mv with elec := { (dipSeen s mv).elec with dipSecond := some s.tb.sec } } C.elecInputDip (d4 mv)) :=
  congrArg done ((if_neg (by simp [hp])).trans (if_neg (by simp [hp, hq])))

end Sys2Proof.Machine
end

section
/-!
SUPPORT. RESET as a Counter command, and the hubs' I3C addresses (R458, R558).
-/
namespace Sys2Proof.Machine
open Sys2Proof

variable {s t u : State} {h : Hub}

/-- After an answer nothing waits to be settled. -/
theorem Answering.settled {h : CtrHdr} (hu : Answering s h u) (code status : Nat) (body : List Byte) :
    settleCtr (finishReq u (callerOf h code) status body) = finishReq u (callerOf h code) status body := by
  obtain ⟨y, hy⟩ := hu.session
  rw [finishReq_eq (c := callerOf h code) hu.active hy]
  exact settleCtr_of_noBacklog (mem_modSession (p := fun z => z.backlog = []) hu.noBacklog fun _ h => h)

theorem svcReset_eq (s : State) (c : Caller) : svcReset s c [0#8] = warmReset (finishReq s c C.ok []) 2 := rfl

theorem Wiped.withElec (hw : Wiped s) (e : Elec) : Wiped { s with elec := e } := ⟨hw.slots, hw.sessions, hw.counts, hw.active, hw.dies⟩

theorem rstNRelease_held (hn : s.phase ≠ .resetHeld ∨ s.elec.clkLost = true) :
    exec .rstNRelease s = .next { s with elec := { s.elec with rstLow := false } } :=
  congrArg done (startUp_held (s := { s with elec := { s.elec with rstLow := false } }) (hn.imp_right fun h => .inr (.inl h)) _)

theorem refclkRestore_held (hn : s.phase ≠ .resetHeld ∨ s.elec.rstLow = true) :
    exec .refclkRestore s = .next { s with elec := { s.elec with clkLost := false } } :=
  congrArg done (startUp_held (s := { s with elec := { s.elec with clkLost := false } }) (hn.imp_right .inl) _)

theorem fld_withElec (s : State) (e : Elec) (f : Fld) : fld { s with elec := e } f = fld s f := rfl
theorem elec_withElec (s : State) (e : Elec) : ({ s with elec := e } : State).elec = e := rfl

theorem inputDip_counts (hp : s.phase ≠ .unpowered) (mv : Nat) : ∃ t, exec (.inputDip mv) s = .next t ∧
    fld t F.elecStatDips = satInc F.elecStatDips.width (fld s F.elecStatDips) 1 ∧ (s.phase = .running → t.elec.dipSecond = some s.tb.sec) := by
  obtain ⟨hcount, -⟩ := dipSeen_frame s mv
  have helec : (dipSeen s mv).elec = s.elec := by rw [dipSeen, vminSeen, setFld_elec, satFldAt_elec]
  by_cases hq : s.phase ≠ .running ∨ s.elec.dipSecond = some s.tb.sec
  · exact ⟨_, inputDip_silent hp hq, hcount, fun hr => (congrArg Elec.dipSecond helec).trans (hq.resolve_left fun k => k hr)⟩
  · push Not at hq
    refine ⟨_, inputDip_reports hq.1 hq.2, ?_, fun _ => ?_⟩
    · rw [hubReport, fld_report _ _ _ _ _ (by decide), fld_withElec]
      exact hcount
    · rw [hubReport, report_elec, elec_withElec]

theorem warningEntry_marks (hp : s.phase ≠ .unpowered) (mv : Nat) :
    ∃ t, exec (.inputWarningBandEntry mv) s = .next t ∧ fld t F.elecStatOutOfRange = 1 := by
  have hout : fld (vminSeen (setFld s F.elecStatOutOfRange 1) mv) F.elecStatOutOfRange = 1 := by
    rw [fld_vminSeen _ mv (by decide), fld_setFld_same s (by decide)]
    rfl
  by_cases hr : s.phase = .running
  · exact ⟨_, congrArg done ((if_neg hp).trans (if_pos hr)), (fld_report _ _ _ _ _ (by decide)).trans hout⟩
  · exact ⟨_, congrArg done ((if_neg hp).trans (if_neg hr)), hout⟩

theorem warningExit_clears (hp : s.phase ≠ .unpowered) :
    ∃ t, exec .inputWarningBandExit s = .next t ∧ fld t F.elecStatOutOfRange = 0 :=
  ⟨_, congrArg done (if_neg hp), fld_setFld_same s (f := F.elecStatOutOfRange) (by decide) 0⟩

theorem setdasa_eq (hp : s.phase = .running) (h : Hub) (dyn : Nat) :
    exec (.i3cSetdasa (0x2A + hubIndex h) dyn) s = .next (if firmwareRuns (hubOf s h) = true ∧ (hubOf s h).i3cDynamic.isNone = true then
      modHub s h (fun x => { x with i3cDynamic := some dyn }) else s) := by
  refine congrArg done ((if_neg (by simp [hp])).trans ?_)
  cases h with
  | ha =>
    have hne : staticAddr .hb ≠ 0x2A + hubIndex .ha := by decide
    simp only [List.foldl, staticAddr, hubIndex] at hne ⊢
    simp
  | hb =>
    simp [List.foldl, staticAddr, hubIndex]

/-- Whether a hub waits for a dynamic address. -/
def awaitsAddress (s : State) (h : Hub) : Bool := firmwareRuns (hubOf s h) && (hubOf s h).i3cDynamic.isNone

theorem provisionalId_lt (s : State) : provisionalId s .ha < provisionalId s .hb := by
  simp only [provisionalId, hubIndex]
  omega

/-- The arbitration goes to HA where it waits, else to HB. -/
theorem entdaa_eq (hp : s.phase = .running) (dyn : Nat) (ha : awaitsAddress s h = true) (hb : h = .ha ∨ awaitsAddress s .ha = false) :
    exec (.i3cEntdaa dyn) s = .next (modHub s h (fun x => { x with i3cDynamic := some dyn })) := by
  have hlt := provisionalId_lt s
  refine congrArg done ((if_neg (by simp [hp])).trans ?_)
  have hfind : ([Hub.ha, Hub.hb].filter (awaitsAddress s)).find? (fun h => ([Hub.ha, Hub.hb].filter (awaitsAddress s)).all
      (fun k => decide (provisionalId s h ≤ provisionalId s k))) = some h := by
    cases h with
    | ha =>
      cases hk : awaitsAddress s .hb with
      | true => simp [ha, hk, hlt.le]
      | false => simp [ha, hk]
    | hb =>
      rcases hb with hb | hb
      · cases hb
      · simp [ha, hb]
  rw [show (fun h => firmwareRuns (hubOf s h) && (hubOf s h).i3cDynamic.isNone) = awaitsAddress s from rfl]
  dsimp only
  rw [hfind]

end Sys2Proof.Machine

namespace Sys2Proof.Proofs
open Sys2Proof Sys2Proof.Machine

/-- Settles O53: each reset, start, input event and address, from what resets wipe and what a start checks. -/
theorem powerAndResets : Obligations.PowerAndResets := by
  intro s after empty held starts
  have hempty {t : State} (hw : Wiped t) : empty t := ⟨hw.slots, hw.sessions, hw.counts, hw.active, hw.dies⟩
  have hcold (e : Elec) : held { coldReset s .resetHeld with elec := e } := by
    obtain ⟨h1, h2, -⟩ := coldReset_frame s .resetHeld
    exact ⟨h1, hempty ((coldReset_wiped s _).withElec e), h2⟩
  have hstarted {v t : State} {clk : Bool} (ht : Started v t clk) (hv : ∀ h, bootedHealth v h = bootedHealth s h) : starts t :=
    ⟨ht.phase, fun h => (ht.health h).trans (hv h)⟩
  refine ⟨fun hp => ⟨?rstAssert, ?clkLoss⟩, fun hp => ⟨?rstStill, ?clkStill⟩,
    fun hp hoff hfresh => ⟨fun hc => ?rstStarts, fun hc => ?rstWaits, fun hr hc => ?clkStarts, fun hr => ?clkWaits⟩,
    fun hp => ⟨rstNRelease_held (.inl hp), refclkRestore_held (.inl hp)⟩,
    fun badA badB badLc badFw => ⟨fun hn => congrArg done (if_pos hn), fun hp hl => ⟨fun hr hc => ?powerStarts, fun hn => ?powerWaits⟩⟩,
    fun mv => ⟨?underLatch, fun hp => ?under, fun hp => ?overvolt, fun hp => ⟨?dip, ?entry, ?exit⟩,
      fun hp => ⟨fun hq => ⟨_, inputDip_reports hp hq⟩, fun hq => ⟨_, inputDip_silent (by simp [hp]) (.inr hq), (dipSeen_frame s mv).2⟩⟩,
      fun hp => ⟨congrArg done (if_pos hp), congrArg done (if_pos hp), congrArg done (if_pos hp), congrArg done (powerOff_unpowered hp)⟩⟩,
    fun h dyn hp hf => ⟨fun hn => ⟨?setdasa, fun hh => ?entdaa⟩, fun hn => ?setdasaHeld⟩, fun h x ha => ?reset⟩
  case rstAssert => exact ⟨_, congrArg (fun t : State => done { t with elec := { t.elec with rstLow := true } }) (if_pos hp), hcold _, rfl⟩
  case clkLoss => exact ⟨_, congrArg (fun t : State => done { t with elec := { t.elec with clkLost := true } }) (if_pos hp), hcold _, rfl⟩
  case rstStill => exact congrArg (fun t : State => done { t with elec := { t.elec with rstLow := true } }) (if_neg hp)
  case clkStill => exact congrArg (fun t : State => done { t with elec := { t.elec with clkLost := true } }) (if_neg hp)
  case rstStarts =>
    have ht := startUp_started (s := { s with elec := { s.elec with rstLow := false } }) hp rfl hc hoff false
    exact ⟨_, rfl, hstarted ht fun h => by cases h <;> rfl, ht.cause.trans (by rw [hfresh]; rfl), ht.rstLow⟩
  case rstWaits => exact rstNRelease_held (.inr hc)
  case clkStarts =>
    have ht := startUp_started (s := { s with elec := { s.elec with clkLost := false } }) hp hr rfl hoff s.elec.clkLost
    exact ⟨_, rfl, hstarted ht fun h => by cases h <;> rfl, ht.refclk.trans (by rw [hfresh, hc]; rfl)⟩
  case clkWaits => exact refclkRestore_held (.inr hr)
  case powerStarts =>
    have ht := startUp_started (s := powered s badA badB badLc badFw) rfl hr hc rfl false
    obtain ⟨hopt, hcyc⟩ := ht.fresh rfl
    exact ⟨_, powerUp_starts hp hl, fun hb => hstarted ht fun h => by rw [hb]; exact bootedHealth_powered_whole, ht.phase,
      fun h hh => (ht.health h).trans (bootedHealth_powered_damaged hh), ht.cause, hcyc, hopt⟩
  case powerWaits =>
    exact ⟨_, (powerUp_starts hp hl).trans (congrArg done (startUp_held (s := powered s badA badB badLc badFw) (.inr (hn.imp_right .inl)) _)), rfl⟩
  case underLatch =>
    obtain ⟨hphase, hlatch⟩ := powerOff_phase s
    by_cases hmv : mv < 25000
    · refine ⟨_, congrArg done (if_pos hmv), hphase, ?_⟩
      simp [hmv]
    · refine ⟨_, congrArg done (if_neg hmv), hphase, ?_⟩
      simp [hlatch, not_lt.1 hmv]
  case under =>
    obtain ⟨hw, hret⟩ := powerOff_frame hp
    by_cases hmv : mv < 25000
    · exact ⟨_, congrArg done (if_pos hmv), hempty (hw.withPower _ _), hret⟩
    · exact ⟨_, congrArg done (if_neg hmv), hempty hw, hret⟩
  case overvolt =>
    obtain ⟨hphase, hlatch⟩ := powerOff_phase s
    exact ⟨_, rfl, hphase, hempty (powerOff_frame hp).1, hlatch⟩
  case dip => exact inputDip_counts hp mv
  case entry => exact warningEntry_marks hp mv
  case exit => exact warningExit_clears hp
  case setdasa =>
    refine ⟨_, (setdasa_eq hp h dyn).trans (congrArg done (if_pos ⟨hf, by rw [hn]; rfl⟩)), ?_, hubOf_modHub_peer s h _⟩
    rw [hubOf_modHub]
  case entdaa =>
    have hwaits : awaitsAddress s h = true := by rw [awaitsAddress, hf, hn]; rfl
    refine ⟨_, entdaa_eq hp dyn hwaits (hh.imp_right fun hk => ?_), ?_, hubOf_modHub_peer s h _⟩
    · rcases hk with hk | hk
      · simp [awaitsAddress, Option.isSome_iff_ne_none.2 hk]
      · rw [awaitsAddress, hk]
        rfl
    · rw [hubOf_modHub]
  case setdasaHeld =>
    refine (setdasa_eq hp h dyn).trans (congrArg done (if_neg fun hk => hn ?_))
    simpa using hk.2
  case reset =>
    obtain ⟨v, hv⟩ := ha.servedOn (by decide)
    obtain ⟨r, l, rfl⟩ := hv.frame
    obtain ⟨l', o, heq, hans⟩ := hv.answering.finishes 0x0060 C.ok []
    rw [hv.answering.settled] at heq hans
    obtain ⟨hphase, htot, hout, hcause⟩ := warmReset_frame (finishReq { s with regs := r, sessions := l, partials := [] } (callerOf h 0x0060) C.ok []) 2
    have hw := warmReset_wiped (finishReq { s with regs := r, sessions := l, partials := [] } (callerOf h 0x0060) C.ok []) 2
    have hexec : exec (.reset h) s = .next (warmReset (finishReq { s with regs := r, sessions := l, partials := [] } (callerOf h 0x0060) C.ok []) 2) := by
      refine congrArg done ((congrArg settleCtr ((hv.row svcReset).trans (svcReset_eq _ _))).trans (settleCtr_of_noBacklog ?_))
      rw [hw.sessions]
      exact fun y hy => absurd hy List.not_mem_nil
    refine ⟨_, hexec, ?_, hempty hw, hphase.trans ?_, hcause, htot.trans ?_⟩
    · obtain ⟨m, ns, sec, q, hm, hmem⟩ := hans
      exact ⟨m, ns, sec, q, hout.trans hm, hmem⟩
    · rw [heq]
      exact ha.phase
    · rw [heq]

end Sys2Proof.Proofs
end

section
/-!
SUPPORT. Sessions opened, authenticated and closed (R455, R456).
-/
namespace Sys2Proof.Machine
open Sys2Proof

variable {s t u : State} {h : CtrHdr} {b : List Byte} {x : Session} {d : Dgram}

/-! ### SESSION_OPEN -/

/-- With no load to report, telling of them changes neither sessions nor what was sent. -/
theorem tellAbandoned_frame (hn : s.pl.abandoned = []) : (tellAbandoned s).sessions = s.sessions ∧ (tellAbandoned s).out = s.out := by
  unfold tellAbandoned
  rw [hn]
  split <;> exact ⟨rfl, rfl⟩

/-- A request to open a session is served as it comes whole. -/
theorem sessionOpen_served (hp : s.phase = .running) (ha : s.active = some h.port) (hl : (hubOf s h.port).link = true) (hpart : s.partials = [])
    (hc : h.count = 1) (hd : h.dgrams = [d]) (hok : dgramOk s h 0x0001 d = true) :
    counterRow 0x0001 h svcSessionOpen s = svcSessionOpen (received s) (callerOf h 0x0001) d.body := by
  have hgood : h.dgrams.filter (dgramOk s h 0x0001) = [d] := by rw [hd]; simp [hok]
  have hwhole : assemble (discards s 0) h 0x0001 [d] = (received s, some d.body) := by
    rw [assemble_whole ((discards_partials s 0).trans hpart) hc, received]
  rw [counterRow, if_neg (by simp [hp, ha]), if_neg (by simp [ha]), if_neg (by simp [hl])]
  dsimp only
  rw [hgood, hd, List.length_singleton, Nat.sub_self, if_neg (by simp), if_neg (by simp), hwhole]
  rfl

theorem received_frame (s : State) : ∃ r, received s = { s with regs := r, partials := [] } := by
  obtain ⟨r, hr⟩ := discards_regs s 0
  exact ⟨r, by rw [received, hr]⟩

/-- A part of a byte string, found by the length of what stands before it. -/
theorem slice_mid {a m c : List Byte} {off n : Nat} (ha : a.length = off) (hm : m.length = n) : slice (a ++ m ++ c) off n = m := by
  rw [slice, List.append_assoc, List.drop_left' ha, List.take_left' hm]

/-- The bytes that answer SESSION_OPEN before their signature. -/
def openHead (s : State) (b : List Byte) : List Byte :=
  leBytes 4 (sessionId s) ++ (takeRandom s 32).1 ++ padTo 1088 (Config.mlkemEncaps (slice b 36 1184) (s.sec.random + 1)).1

/-- The session that SESSION_OPEN opens. -/
def openedSession (s : State) (seq : Word) (b : List Byte) : Session :=
  ⟨sessionId s, bitAt (fieldLE b 0 2) 0, bitAt (fieldLE b 0 2) 1, false, fieldLE b 2 2, false,
    hkdf32 (Config.mlkemEncaps (slice b 36 1184) (s.sec.random + 1)).2 (slice b 4 32 ++ (takeRandom s 32).1) (asciiBytes "Foliramen Counter"),
    sha256 (b ++ openHead s b), seq, none, false, [], 0, 0, 0⟩

/-- The answer to SESSION_OPEN. -/
def openBody (s : State) (b : List Byte) : List Byte := openHead s b ++ padTo 7856 (Config.slhSign (idPub s) (sha256 (b ++ openHead s b)))

theorem length_openHead (s : State) (b : List Byte) : (openHead s b).length = 1124 := by
  simp [openHead, takeRandom, length_padTo]

theorem length_openBody (s : State) (b : List Byte) : (openBody s b).length = 8980 := by
  rw [openBody, List.length_append, length_openHead, length_padTo]

theorem openBody_parts (s : State) (b : List Byte) : fieldLE (openBody s b) 0 4 = sessionId s ∧ slice (openBody s b) 4 32 = (takeRandom s 32).1 ∧
    slice (openBody s b) 36 1088 = padTo 1088 (Config.mlkemEncaps (slice b 36 1184) (s.sec.random + 1)).1 ∧
    (openBody s b).take 1124 = openHead s b ∧
    (openBody s b).drop 1124 = padTo 7856 (Config.slhSign (idPub s) (sha256 (b ++ openHead s b))) := by
  have hid : sessionId s < 2 ^ 32 := by
    have := Nat.mod_lt s.sessionNext (show 0 < 2 ^ 32 - 1 by decide)
    rw [sessionId]
    omega
  have hnonce : (takeRandom s 32).1.length = 32 := length_padTo 32 _
  have hct := length_padTo 1088 (Config.mlkemEncaps (slice b 36 1184) (s.sec.random + 1)).1
  refine ⟨?_, ?_, ?_, ?_, ?_⟩
  · have hs : slice (openBody s b) 0 4 = leBytes 4 (sessionId s) := by
      rw [openBody, openHead, List.append_assoc, List.append_assoc, slice, List.drop_zero, List.take_left' (length_leBytes 4 _)]
    rw [fieldLE, hs, leNat_leBytes]
    exact Nat.mod_eq_of_lt hid
  · rw [openBody, openHead, List.append_assoc]
    exact slice_mid (length_leBytes 4 _) hnonce
  · rw [openBody, openHead]
    exact slice_mid (by rw [List.length_append, length_leBytes, hnonce]) hct
  · rw [openBody, List.take_left' (length_openHead s b)]
  · rw [openBody, List.drop_left' (length_openHead s b)]

/-- What SESSION_OPEN sends, to a session or to none. -/
def openReply (s : State) (c : Caller) (session status : Nat) (body : List Byte) : State :=
  emit s (.counter (replyMsg s { c with session := session } status body false))

theorem svcSessionOpen_full {c : Caller} (hlen : b.length = 1220) (hopt : fieldLE b 0 2 < 4) (hfull : 16 ≤ s.sessions.length) :
    svcSessionOpen s c b = openReply s c 0 C.ctrSessionsFull [] := by
  unfold svcSessionOpen
  dsimp only
  rw [if_neg (by omega), if_pos hfull]
  rfl

/-- The state in which a session has been opened, before its answer. -/
def openedState (s : State) (seq : Word) (b : List Byte) : State :=
  { s with sec := { s.sec with random := s.sec.random + 2 }, sessionNext := s.sessionNext + 1, sessions := s.sessions ++ [openedSession s seq b] }

theorem svcSessionOpen_opens {c : Caller} (hlen : b.length = 1220) (hopt : fieldLE b 0 2 < 4) (hroom : s.sessions.length < 16) :
    svcSessionOpen s c b = tellAbandoned (openReply (openedState s c.seq b) c (sessionId s) C.ok (openBody s b)) := by
  unfold svcSessionOpen
  dsimp only
  rw [if_neg (by omega), if_neg (by omega)]
  rfl

/-! ### SESSION_AUTH and SESSION_CLOSE -/

/-- A session that has answered its request. -/
theorem findSession_finishReq {c : Caller} {y : Session} {p : Hub} (ha : u.active = some p) (hy : findSession u c.session = some y) (status : Nat)
    (body : List Byte) : ∃ z, findSession (finishReq u c status body) c.session = some z ∧ z.authed = y.authed := by
  rw [finishReq_eq ha hy, findSession_id hy]
  exact ⟨_, findSession_modSession hy fun _ => rfl, rfl⟩

theorem closeSession_gone (s : State) (n : Nat) : findSession (closeSession s n) n = none ∧ ∀ g ∈ (closeSession s n).stages, g.session ≠ n := by
  constructor
  · refine List.find?_eq_none.2 fun y hy => ?_
    simpa using (List.mem_filter.1 hy).2
  · intro g hg
    simpa using (List.mem_filter.1 hg).2

/-- A session that is closed after its answer. -/
theorem Answering.closes (hu : Answering s h u) (code status : Nat) (n : Nat) :
    ∃ t, settleCtr (closeSession (finishReq u (callerOf h code) status []) n) = t ∧ Answers s t h code status [] ∧ Machine.findSession t n = none ∧
      ∀ g ∈ t.stages, g.session ≠ n := by
  obtain ⟨l, o, heq, hans⟩ := hu.finishes code status []
  rw [hu.settled] at heq hans
  obtain ⟨h1, h2⟩ := closeSession_gone (finishReq u (callerOf h code) status []) n
  refine ⟨_, rfl, ?_⟩
  obtain ⟨y, hy⟩ := hu.session
  have hback : ∀ z ∈ (finishReq u (callerOf h code) status []).sessions, z.backlog = [] := by
    rw [finishReq_eq (c := callerOf h code) hu.active hy]
    exact mem_modSession (p := fun z => z.backlog = []) hu.noBacklog fun _ h => h
  rw [settleCtr_of_noBacklog fun z hz => hback z (List.mem_filter.1 hz).1]
  exact ⟨hans, h1, h2⟩

variable {v : State} {code : Nat}

/-- A session authenticated, then answered. -/
theorem Answering.authorised {g : Session → Bool} {y : Session} (hv : Answering s h v) (hy : Machine.findSession v h.session = some y)
    (hu : modSession v h.session (fun z => { z with authed := true, admin := g z }) = u) (code : Nat) :
    Answers s (finishReq u (callerOf h code) C.ok []) h code C.ok [] ∧
      (∃ z, Machine.findSession (finishReq u (callerOf h code) C.ok []) h.session = some z ∧ z.authed = true) ∧
      (∀ z ∈ (finishReq u (callerOf h code) C.ok []).sessions, z.backlog = []) ∧ (finishReq u (callerOf h code) C.ok []).pl = v.pl := by
  have hfound : Machine.findSession u h.session = some { y with authed := true, admin := g y } := hu ▸ findSession_modSession hy fun _ => rfl
  have hans : Answering s h u := by
    subst hu
    exact ⟨hv.active, ⟨_, hfound⟩, mem_modSession (p := fun z => z.backlog = []) hv.noBacklog fun _ h => h, hv.out⟩
  obtain ⟨l, o, heq, hrep⟩ := hans.finishes code C.ok []
  rw [hans.settled] at heq hrep
  obtain ⟨z, hz, hza⟩ := findSession_finishReq (c := callerOf h code) hans.active hfound C.ok []
  refine ⟨hrep, ⟨z, hz, hza.trans rfl⟩, ?_, ?_⟩
  · rw [finishReq_eq (c := callerOf h code) hans.active hfound]
    exact mem_modSession (p := fun z => z.backlog = []) hans.noBacklog fun _ h => h
  · rw [heq, ← hu]
    rfl

theorem ServedOn.authOk (hv : ServedOn s h x code b v) (sig : List Byte) : authOk v (servedSession x h) sig = authOk s x sig := by
  obtain ⟨r, l, rfl⟩ := hv.frame
  rfl

theorem svcSessionAuth_eq {c : Caller} {y : Session} (hlen : b.length = 7856) (hy : findSession s c.session = some y) : svcSessionAuth s c b =
    if authOk s y b then
      tellAbandoned (finishReq (modSession s y.id (fun z => { z with authed := true, admin := (keyOf s [2] z.keyIndex).isSome })) c C.ok [])
    else closeSession (finishReq s c C.ctrAuthFailed []) y.id := by
  rw [svcSessionAuth, sized, if_pos hlen, hy]

end Sys2Proof.Machine

namespace Sys2Proof.Proofs
open Sys2Proof Sys2Proof.Machine

/-- Settles O33: sessions opened while the module has room, authenticated or refused, and closed. -/
theorem sessionsOpenAndClose : Obligations.SessionsOpenAndClose := by
  refine ⟨⟨fun s h d hp ha hl hpart hb hab hc hd _ hok hlen hopt => ⟨fun hroom => ?opens, fun hfull => ?full⟩,
    fun s h b x ha hlen hab => ⟨fun hok => ?auth, fun hbad => ?authFails⟩, fun s h x ha => ?close⟩,
    fun s port n seq x => ⟨rfl, fun hx hact => ⟨fun hbusy => ?idleBusy, fun hfree => ?idle⟩⟩⟩
  case opens =>
    obtain ⟨r, hr⟩ := received_frame s
    have hserve := sessionOpen_served hp ha hl hpart hc hd hok
    rw [svcSessionOpen_opens hlen hopt (by rw [hr]; exact hroom)] at hserve
    generalize hw : openReply (openedState (received s) (callerOf h 0x0001).seq d.body) (callerOf h 0x0001) (sessionId (received s)) C.ok
      (openBody (received s) d.body) = w at hserve
    have hwab : w.pl.abandoned = [] := by rw [← hw, hr]; exact hab
    obtain ⟨hsess, hout⟩ := tellAbandoned_frame hwab
    have hws : w.sessions = s.sessions ++ [openedSession (received s) h.seq d.body] := by rw [← hw, hr]; rfl
    have hexec : exec (.sessionOpen h) s = .next (tellAbandoned w) := by
      refine congrArg done ((congrArg settleCtr hserve).trans (settleCtr_of_noBacklog ?_))
      rw [hsess, hws]
      intro y hy
      rcases List.mem_append.1 hy with hy | hy
      · exact hb y hy
      · rw [List.mem_singleton.1 hy]
        rfl
    obtain ⟨p1, p2, p3, p4, p5⟩ := openBody_parts (received s) d.body
    refine ⟨_, openedSession (received s) h.seq d.body, w.tb.ns, w.tb.sec, qualityWord w, openBody (received s) d.body, (received s).sec.random + 1, hexec,
      hsess.trans hws, ?_, rfl, rfl, rfl, rfl, rfl, rfl, rfl, hout.trans ?_, length_openBody _ _, p1, p3, ?_, ?_, ?_⟩
    · rw [hr]
      rfl
    · rw [← hw, hr]
      rfl
    · rw [p4]
      rfl
    · rw [p5, hr]
      rfl
    · rw [p2]
      rfl
  case full =>
    obtain ⟨r, hr⟩ := received_frame s
    have hserve := sessionOpen_served hp ha hl hpart hc hd hok
    rw [svcSessionOpen_full hlen hopt (by rw [hr]; exact hfull), hr] at hserve
    refine ⟨_, _, _, _, _, congrArg done ((congrArg settleCtr hserve).trans (settleCtr_of_noBacklog hb)), rfl, rfl, List.mem_singleton_self _⟩
  case auth =>
    obtain ⟨v, hv⟩ := ha.servedOn (by decide)
    have hsvc := svcSessionAuth_eq (c := callerOf h 0x0002) hlen hv.session
    rw [hv.authOk, hok, if_pos rfl] at hsvc
    have hid : (servedSession x h).id = h.session := ha.id
    rw [hid] at hsvc
    generalize hu : modSession v h.session (fun z => { z with authed := true, admin := (keyOf v [2] z.keyIndex).isSome }) = u at hsvc
    obtain ⟨hans, ⟨y, hy, hauth⟩, hback, hpl⟩ := hv.answering.authorised hv.session hu 0x0002
    have hab' : (finishReq u (callerOf h 0x0002) C.ok []).pl.abandoned = [] := by rw [hpl, hv.pl, hab]
    obtain ⟨hsess, hout⟩ := tellAbandoned_frame hab'
    refine ⟨_, congrArg done ((congrArg settleCtr ((hv.row _).trans hsvc)).trans (settleCtr_of_noBacklog (hsess ▸ hback))), ?_, y, ?_, hauth⟩
    · obtain ⟨l, ns, sec, q, hl, hmem⟩ := hans
      exact ⟨l, ns, sec, q, hout.trans hl, hmem⟩
    · rw [findSession_of_sessions hsess, ha.id]
      exact hy
  case authFails =>
    obtain ⟨v, hv⟩ := ha.servedOn (by decide)
    have hsvc := svcSessionAuth_eq (c := callerOf h 0x0002) hlen hv.session
    rw [hv.authOk, hbad, if_neg (by decide)] at hsvc
    obtain ⟨t, ht, hans, hgone, -⟩ := hv.answering.closes 0x0002 C.ctrAuthFailed x.id
    exact ⟨t, congrArg done ((congrArg settleCtr ((hv.row _).trans hsvc)).trans ht), hans, hgone⟩
  case close =>
    obtain ⟨v, hv⟩ := ha.servedOn (by decide)
    obtain ⟨t, ht, hans, hgone⟩ := hv.answering.closes 0x0003 C.ok x.id
    have hsvc : svcSessionClose v (callerOf h 0x0003) [] = closeSession (finishReq v (callerOf h 0x0003) C.ok []) x.id := by
      rw [ha.id]
      rfl
    exact ⟨t, congrArg done ((congrArg settleCtr ((hv.row _).trans hsvc)).trans ht), hans, hgone⟩
  case idleBusy => 
    refine congrArg done ?_
    rw [hx]
    exact if_pos (by simp [hbusy])
  case idle =>
    have heq : exec (.sessionIdleTimeout n) s = .next (closeSession s n) := by
      refine congrArg done ?_
      rw [hx]
      exact if_neg (by simpa [hfree, Option.isSome_iff_ne_none] using hact)
    exact ⟨_, heq, closeSession_gone s n⟩

end Sys2Proof.Proofs
end

section
/-!
SUPPORT. Frames of a bundle, and power: the record of a tick, settings that fall or rise, the brake (R297 to R311).
-/
namespace Sys2Proof.Machine
open Sys2Proof

variable {s t u : State} {slot n : Nat} {b : Bundle}

theorem fldAt_of_regWord {f : Fld} {d i j : Nat} (h : regWord t ⟨f.reg, d, i, j⟩ = regWord s ⟨f.reg, d, i, j⟩) : fldAt t f d i j = fldAt s f d i j := by
  rw [fldAt, h, fldAt]

theorem fldAt_bumpFldAt (s : State) {f : Fld} (hf : f.lsb + f.width ≤ 32) (d i j n : Nat) :
    fldAt (bumpFldAt s f d i j n) f d i j = (fldAt s f d i j + n) % 2 ^ f.width := fldAt_setFldAt_same s hf _ _ _ _

theorem fldAt_setSlot (s : State) (n : Nat) (b : Bundle) (f : Fld) (d i j : Nat) : fldAt (setSlot s n b) f d i j = fldAt s f d i j := rfl

/-! ### Frames -/

/-- What a frame start makes of a bundle. -/
def frameStarted (s : State) (number start : Nat) (b : Bundle) : Bundle :=
  let b1 := { b with frameK := b.frameK + 1 }
  if b.st = .running && s.active.isSome then
    let l := b.frames ++ [⟨number % 2 ^ 32, start, false⟩]
    { b1 with frames := l.drop (l.length - 16) }
  else b1

theorem frameStart_eq (s : State) (slot number start : Nat) : frameStart s slot number start = modBundle s slot (frameStarted s number start) := rfl

theorem frameStartTimer_starts (hb : slotBundle s slot = some b) (hp : s.phase = .running) (hf : b.img.limits.framePeriod ≠ 0)
    (h0 : b.img.limits.frameStart = 0) (he : b.everStarted = true) : ∃ t, exec (.frameStartTimer slot) s = .next t ∧
      slotBundle t slot = some (frameStarted s b.frameK (b.frameS0 + b.frameK * (1000 * b.img.limits.framePeriod)) b) := by
  refine ⟨frameStart s slot b.frameK (b.frameS0 + b.frameK * (1000 * b.img.limits.framePeriod)), congrArg done ?_, ?_⟩
  · rw [hb]
    exact if_pos ⟨hf, h0, he, hp⟩
  · rw [frameStart_eq]
    exact slotBundle_modBundle hb _

theorem resettle_pl (s : State) : (resettle s).pl = s.pl := rfl

/-- The governor's requests rise without another change to the bundle, and no register changes. -/
theorem governorRaise_frame (hb : slotBundle s slot = some b) (w : Nat) : (∃ q k, slotBundle (governorRaise s slot w) slot =
    some { b with requests := q, sinceRaise := k }) ∧ ∀ r, regWord (governorRaise s slot w) r = regWord s r := by
  unfold governorRaise
  split
  · exact ⟨⟨_, _, hb⟩, fun _ => rfl⟩
  · rw [hb]
    exact ⟨⟨_, _, (slotBundle_of_pl (resettle_pl _) slot).trans (slotBundle_setSlot _ _ _)⟩, fun _ => rfl⟩

/-- A late frame sets its event; another register than those of events and reports stays. -/
theorem lateReport_frame (s : State) (slot : Nat) (b : Bundle) (f : Frame) : (lateReport s slot b f).pl = s.pl ∧
    fld (lateReport s slot b f) F.pwrEventLate = 1 ∧
    ∀ r : RegRef, r.addr ≠ (⟨.pwrEvent, 0, 0, 0⟩ : RegRef).addr → r.addr ≠ (⟨.redFault, 0, 0, 0⟩ : RegRef).addr →
      regWord (lateReport s slot b f) r = regWord s r := by
  unfold lateReport
  extract_lets s0 p
  have hset : fld s0 F.pwrEventLate = 1 := fld_setEvent s (by decide) rfl
  have hregs {r : RegRef} (hr : r.addr ≠ (⟨.pwrEvent, 0, 0, 0⟩ : RegRef).addr) : regWord s0 r = regWord s r := regWord_setRegWord_other s hr _
  have hpl : s0.pl = s.pl := setEvent_pl s _
  clear_value p s0
  split
  · exact ⟨(report_pl _ _ _ _ _).trans hpl, (fld_report _ _ _ _ _ (by decide)).trans hset, fun r hr hf => (regWord_report _ _ _ _ _ hf).trans (hregs hr)⟩
  · exact ⟨hpl, hset, fun r hr _ => hregs hr⟩

/-- The register of late frames of a slot is none of events or reports. -/
theorem paceFrmLate_addr (hs : slot < 64) : (⟨.paceFrmLate, 0, slot, 0⟩ : RegRef).addr ≠ (⟨.pwrEvent, 0, 0, 0⟩ : RegRef).addr ∧
    (⟨.paceFrmLate, 0, slot, 0⟩ : RegRef).addr ≠ (⟨.redFault, 0, 0, 0⟩ : RegRef).addr := by
  have hall : ∀ k < 64, (⟨.paceFrmLate, 0, k, 0⟩ : RegRef).addr ≠ (⟨.pwrEvent, 0, 0, 0⟩ : RegRef).addr ∧
    (⟨.paceFrmLate, 0, k, 0⟩ : RegRef).addr ≠ (⟨.redFault, 0, 0, 0⟩ : RegRef).addr := by decide
  exact hall slot hs

/-- The bundle whose frame is marked late. -/
def frameLate (b : Bundle) (f : Frame) : Bundle := { b with frames := b.frames.map (fun g => if g = f then { g with late := true } else g) }

theorem frameDeadline_eq {number : Nat} {f : Frame} (hb : slotBundle s slot = some b)
    (hf : b.frames.find? (fun f => f.number == number && !f.late) = some f) : frameDeadline s slot number =
      governorRaise (lateReport (bumpFldAt (setSlot s slot (frameLate b f)) F.paceFrmLateCount 0 slot 0 1) slot b f) slot
        (1000 * b.img.limits.framePeriod) := by
  rw [frameDeadline, hb]
  dsimp only
  rw [hf]
  rfl

theorem frameDeadlineExpiry_late {number : Nat} {f : Frame} (hp : s.phase = .running) (hb : slotBundle s slot = some b) (hs : slot < 64)
    (hf : b.frames.find? (fun f => f.number == number && !f.late) = some f) :
    ∃ t c, exec (.frameDeadlineExpiry slot number) s = .next t ∧ slotBundle t slot = some c ∧ c.frames = (frameLate b f).frames ∧
      fldAt t F.paceFrmLateCount 0 slot 0 = (fldAt s F.paceFrmLateCount 0 slot 0 + 1) % 2 ^ F.paceFrmLateCount.width ∧
      fld t F.pwrEventLate = 1 := by
  have hcount := (fldAt_bumpFldAt (setSlot s slot (frameLate b f)) (f := F.paceFrmLateCount) (by decide) 0 slot 0 1).trans
    (by rw [fldAt_setSlot])
  have hbun : slotBundle (bumpFldAt (setSlot s slot (frameLate b f)) F.paceFrmLateCount 0 slot 0 1) slot = some (frameLate b f) :=
    (slotBundle_of_pl (setFldAt_pl _ _ _ _ _ _) slot).trans (slotBundle_setSlot s slot _)
  have hexec : exec (.frameDeadlineExpiry slot number) s = .next (governorRaise (lateReport (bumpFldAt (setSlot s slot (frameLate b f))
      F.paceFrmLateCount 0 slot 0 1) slot b f) slot (1000 * b.img.limits.framePeriod)) :=
    congrArg done ((if_pos hp).trans (frameDeadline_eq hb hf))
  generalize bumpFldAt (setSlot s slot (frameLate b f)) F.paceFrmLateCount 0 slot 0 1 = s1 at hcount hbun hexec
  obtain ⟨hpl, hset, hregs⟩ := lateReport_frame s1 slot b f
  obtain ⟨⟨q, k, hc⟩, hraise⟩ := governorRaise_frame ((slotBundle_of_pl hpl slot).trans hbun) (1000 * b.img.limits.framePeriod)
  obtain ⟨ha1, ha2⟩ := paceFrmLate_addr hs
  refine ⟨_, _, hexec, hc, rfl, ?_, (fld_of_regWord (hraise _)).trans hset⟩
  exact (fldAt_of_regWord ((hraise _).trans (hregs _ ha1 ha2))).trans hcount

/-! ### A tick of the cap -/

/-- From `s` to `t` registers have changed, and nothing else. -/
def RegsOnly (s t : State) : Prop := ∃ r : SMap Word, t = { s with regs := r }

theorem RegsOnly.refl (s : State) : RegsOnly s s := ⟨s.regs, rfl⟩

theorem RegsOnly.setFldAt (h : RegsOnly s t) (f : Fld) (d i j v : Nat) : RegsOnly s (setFldAt t f d i j v) := by
  obtain ⟨r, rfl⟩ := h
  exact ⟨_, rfl⟩

theorem RegsOnly.setFld (h : RegsOnly s t) (f : Fld) (v : Nat) : RegsOnly s (setFld t f v) := h.setFldAt f 0 0 0 v

theorem RegsOnly.withEnergy (h : RegsOnly s t) (n : Nat) : ∃ r, { t with pace := { t.pace with energy := t.pace.energy + n } } =
    { s with regs := r, pace := { s.pace with energy := s.pace.energy + n } } := by
  obtain ⟨r, rfl⟩ := h
  exact ⟨r, rfl⟩

/-- The record of a tick changes registers of power alone, and counts the energy. -/
theorem powerRecord_frame (s : State) (volt curr power : Nat) (doms : List (Nat × Nat × Nat)) : ∃ r,
    powerRecord s volt curr power doms = { s with regs := r, pace := { s.pace with energy := s.pace.energy + power } } := by
  unfold powerRecord
  extract_lets s1 s2 s3
  have h2 : RegsOnly s s2 := ((((RegsOnly.refl s).setFld _ _).setFld _ _).setFld _ _).setFld _ _ |>.setFld _ _
  have h3 : RegsOnly s s3 := List.foldlRecOn _ _ h2 fun t ht e _ => (ht.setFldAt _ _ _ _ _).setFldAt _ _ _ _ _
  exact h3.withEnergy power

/-- Registers that the record of a tick does not write. -/
theorem powerRecord_regs (s : State) (volt curr power : Nat) {doms : List (Nat × Nat × Nat)} (hd : ∀ e ∈ doms, e.1 < 80) {q : RegRef}
    (hq : q.addr ≠ (⟨.elecVmin, 0, 0, 0⟩ : RegRef).addr ∧ q.addr ≠ (⟨.pwrIn, 0, 0, 0⟩ : RegRef).addr ∧ q.addr ≠ (⟨.pwrInP, 0, 0, 0⟩ : RegRef).addr)
    (hdom : ∀ k < 80, q.addr ≠ (⟨.domRate, 0, k, 0⟩ : RegRef).addr ∧ q.addr ≠ (⟨.domStat, 0, k, 0⟩ : RegRef).addr) :
    regWord (powerRecord s volt curr power doms) q = regWord s q := by
  have hstep (s : State) {f : Fld} {i : Nat} (v : Nat) (h : q.addr ≠ (⟨f.reg, 0, i, 0⟩ : RegRef).addr) : regWord (setFldAt s f 0 i 0 v) q = regWord s q :=
    regWord_setRegWord_other s h _
  obtain ⟨h1, h2, h3⟩ := hq
  unfold powerRecord
  extract_lets s1 s2 s3
  have hs2 : regWord s2 q = regWord s q := by
    dsimp only [s2, s1, setFld, vminSeen]
    rw [hstep _ _ h3, hstep _ _ h3, hstep _ _ h2, hstep _ _ h2, hstep _ _ h1]
  have hs3 : regWord s3 q = regWord s2 q := by
    refine List.foldlRecOn (motive := fun t => regWord t q = regWord s2 q) _ _ rfl fun t ht e he => ?_
    obtain ⟨k1, k2⟩ := hdom e.1 (hd e he)
    rw [hstep _ _ k2, hstep _ _ k1, ht]
  exact hs3.trans hs2

end Sys2Proof.Machine
end

section
/-!
SUPPORT. Settings of the governed domains as the cap lowers and raises them, the brake and the cap (R305 to R311).
-/
namespace Sys2Proof.Machine
open Sys2Proof

variable {s t u : State} {n : Nat}

/-! ### Settings -/

theorem floorMv_setSetting (s : State) (n mv : Nat) : floorMv (setSetting s n mv) = floorMv s := rfl
theorem wanted_setSetting (s : State) (n mv k : Nat) : wanted (setSetting s n mv) k = wanted s k := rfl

theorem settingOf_setSetting (s : State) (n mv k : Nat) :
    settingOf (setSetting s n mv) k = if k = n then max (floorMv s) mv else settingOf s k := by
  rw [settingOf, floorMv_setSetting, show (setSetting s n mv).pace.setting = SMap.setD s.pace.setting n mv 0 from rfl, SMap.getD_setD]
  split <;> rfl

theorem settingOf_of_eq (hp : t.pace.setting = s.pace.setting) (hv : regWord t ⟨.paceVlim, 0, 0, 0⟩ = regWord s ⟨.paceVlim, 0, 0, 0⟩) (k : Nat) :
    settingOf t k = settingOf s k := by
  have hmin : vmin t = vmin s := fld_of_regWord hv
  have hmax : vmax t = vmax s := fld_of_regWord hv
  rw [settingOf, hp, floorMv, hmin, hmax, settingOf, floorMv]

/-- From `s` to `t` settings of domains have changed, only of those that the brake lets change. -/
structure Governs (s t : State) : Prop where
  floor : floorMv t = floorMv s
  energy : t.pace.energy = s.pace.energy
  braked : ∀ k, braked s k = true → settingOf t k = settingOf s k

theorem Governs.refl (s : State) : Governs s s := ⟨rfl, rfl, fun _ _ => rfl⟩

theorem Governs.setSetting (h : Governs s t) {n : Nat} (hn : Machine.braked s n = false) (mv : Nat) : Governs s (setSetting t n mv) := by
  refine ⟨(floorMv_setSetting _ _ _).trans h.floor, h.energy, fun k hk => ?_⟩
  rw [settingOf_setSetting, if_neg fun he => ?_]
  · exact h.braked k hk
  · rw [he, hn] at hk
    cases hk

/-- The cap exceeded: settings fall, none of a braked domain. -/
theorem lowerAll_governs {l : List Nat} (hl : ∀ n ∈ l, braked s n = false) :
    Governs s (l.foldl (fun s n => setSetting s n (max (floorMv s) (settingOf s n - 5))) s) ∧
      ∀ k, settingOf (l.foldl (fun s n => setSetting s n (max (floorMv s) (settingOf s n - 5))) s) k ≤ settingOf s k := by
  refine List.foldlRecOn (motive := fun t => Governs s t ∧ ∀ k, settingOf t k ≤ settingOf s k) _ _ ⟨.refl s, fun _ => le_rfl⟩ fun t ht n hn => ?_
  obtain ⟨hg, hle⟩ := ht
  refine ⟨hg.setSetting (hl n hn) _, fun k => ?_⟩
  rw [settingOf_setSetting]
  split
  · rename_i hk
    have hfloor : floorMv t ≤ settingOf t n := le_max_left _ _
    have := hle k
    subst hk
    omega
  · exact hle k

theorem capTargets_unbraked (hn : n ∈ capTargets s) : braked s n = false := by
  unfold capTargets at hn
  dsimp only at hn
  split at hn
  · cases hn
  · rename_i g hg
    have hmem : g ∈ (List.range 3).map fun k => (aboveVmin s).filter (capGroup s k) := List.mem_of_find?_eq_some hg
    obtain ⟨k, -, rfl⟩ := List.mem_map.1 hmem
    have habove := List.mem_of_mem_filter (List.mem_of_mem_filter hn)
    have hkeep := (List.mem_filter.1 habove).2
    simp only [Bool.and_eq_true, Bool.not_eq_true'] at hkeep
    exact hkeep.2

theorem capLower_governs (s : State) : Governs s (capLower s) ∧ ∀ k, settingOf (capLower s) k ≤ settingOf s k := by
  obtain ⟨hg, hle⟩ := lowerAll_governs (s := s) (l := capTargets s) fun n hn => capTargets_unbraked hn
  unfold capLower
  extract_lets l s1
  have h1 : Governs s s1 ∧ ∀ k, settingOf s1 k ≤ settingOf s k := ⟨hg, hle⟩
  clear_value s1
  split
  · exact h1
  · have hset (k : Nat) : settingOf (setEvent s1 F.pwrEventCapped) k = settingOf s1 k :=
      settingOf_of_eq (congrArg Pace.setting (setEvent_pace s1 _)) (regWord_setRegWord_other s1 (by decide) _) k
    have hfloor : floorMv (setEvent s1 F.pwrEventCapped) = floorMv s1 := by
      have hv : regWord (setEvent s1 F.pwrEventCapped) ⟨.paceVlim, 0, 0, 0⟩ = regWord s1 ⟨.paceVlim, 0, 0, 0⟩ := regWord_setRegWord_other s1 (by decide) _
      rw [floorMv, vmin, vmax, fld_of_regWord (f := F.paceVlimVmin) hv, fld_of_regWord (f := F.paceVlimVmax) hv, floorMv, vmin, vmax]
    refine ⟨⟨hfloor.trans h1.1.floor, (congrArg Pace.energy (setEvent_pace s1 _)).trans h1.1.energy, fun k hk => (hset k).trans (h1.1.braked k hk)⟩,
      fun k => (hset k).le.trans (h1.2 k)⟩

theorem grantRaises_governs {p : Nat} {l : List Nat} (hl : ∀ n ∈ l, braked s n = false ∧ settingOf s n < wanted s n)
    (ht : Governs s t ∧ (∀ k, wanted t k = wanted s k) ∧ ∀ k, settingOf s k ≤ settingOf t k) :
    Governs s (grantRaises t p l) ∧ ∀ k, settingOf s k ≤ settingOf (grantRaises t p l) k := by
  induction l generalizing t p with
  | nil => exact ⟨ht.1, ht.2.2⟩
  | cons n r ih =>
    obtain ⟨hg, hw, hle⟩ := ht
    obtain ⟨hbr, hlt⟩ := hl n List.mem_cons_self
    rw [grantRaises]
    split
    · refine ih (fun m hm => hl m (List.mem_cons_of_mem _ hm)) ⟨hg.setSetting hbr _, fun k => (wanted_setSetting _ _ _ _).trans (hw k), fun k => ?_⟩
      rw [settingOf_setSetting, hw]
      split
      · rename_i hk
        subst hk
        omega
      · exact hle k
    · exact ⟨hg, hle⟩

theorem mem_pendingRaises (hn : n ∈ pendingRaises s) : braked s n = false ∧ settingOf s n < wanted s n := by
  obtain ⟨p, -, hp⟩ := List.mem_flatMap.1 hn
  have h := (List.mem_filter.1 (List.mem_filter.1 hp).1).2
  simp only [Bool.and_eq_true, decide_eq_true_eq, Bool.not_eq_true'] at h
  exact ⟨h.1.2, h.1.1⟩

theorem grantRaises_pending (s : State) (p : Nat) :
    Governs s (grantRaises s p (pendingRaises s)) ∧ ∀ k, settingOf s k ≤ settingOf (grantRaises s p (pendingRaises s)) k :=
  grantRaises_governs (fun _ hn => mem_pendingRaises hn) ⟨.refl s, fun _ => rfl, fun _ => le_rfl⟩

/-! ### A tick -/

/-- The state of a tick once its readings are recorded. -/
def tickRecorded (s : State) (volt curr power : Nat) (doms busy : List (Nat × Nat × Nat)) : State :=
  let s1 := powerRecord s volt curr power doms
  { s1 with pace := { s1.pace with share := s1.pl.slots.foldl (fun m e => SMap.setD m e.1 (bundlePower s1 busy e.1) 0) [] } }

theorem powerCapTick_eq (hp : s.phase = .running) (volt curr power : Nat) (doms busy : List (Nat × Nat × Nat)) :
    exec (.powerCapTick volt curr power doms busy) s = .next (
      let s2 := tickRecorded s volt curr power doms busy
      if s2.active.isNone then s2 else if fld s2 F.pwrCapCapW < power then capLower s2 else grantRaises s2 (10 * power) (pendingRaises s2)) :=
  congrArg done (if_neg (by simp [hp]))

/-- Domains' power registers are none of the voltage limits and the cap. -/
theorem domPower_addrs : ∀ k < 80, ((⟨.paceVlim, 0, 0, 0⟩ : RegRef).addr ≠ (⟨.domRate, 0, k, 0⟩ : RegRef).addr ∧
    (⟨.paceVlim, 0, 0, 0⟩ : RegRef).addr ≠ (⟨.domStat, 0, k, 0⟩ : RegRef).addr) ∧
    ((⟨.pwrCap, 0, 0, 0⟩ : RegRef).addr ≠ (⟨.domRate, 0, k, 0⟩ : RegRef).addr ∧
    (⟨.pwrCap, 0, 0, 0⟩ : RegRef).addr ≠ (⟨.domStat, 0, k, 0⟩ : RegRef).addr) := by decide

theorem tickRecorded_frame (s : State) (volt curr power : Nat) {doms : List (Nat × Nat × Nat)} (busy : List (Nat × Nat × Nat))
    (hd : ∀ e ∈ doms, e.1 < 80) : (tickRecorded s volt curr power doms busy).active = s.active ∧
      (tickRecorded s volt curr power doms busy).pace.energy = s.pace.energy + power ∧
      (tickRecorded s volt curr power doms busy).pace.setting = s.pace.setting ∧
      fld (tickRecorded s volt curr power doms busy) F.pwrCapCapW = fld s F.pwrCapCapW ∧
      (∀ k, settingOf (tickRecorded s volt curr power doms busy) k = settingOf s k) ∧
      ∀ k, braked (tickRecorded s volt curr power doms busy) k = braked s k := by
  obtain ⟨r, hr⟩ := powerRecord_frame s volt curr power doms
  have hcap := powerRecord_regs s volt curr power hd (q := ⟨.pwrCap, 0, 0, 0⟩) (by decide) fun k hk => (domPower_addrs k hk).2
  have hlim := powerRecord_regs s volt curr power hd (q := ⟨.paceVlim, 0, 0, 0⟩) (by decide) fun k hk => (domPower_addrs k hk).1
  unfold tickRecorded
  generalize powerRecord s volt curr power doms = s1 at hr hcap hlim
  have hact : s1.active = s.active := by rw [hr]
  have henergy : s1.pace.energy = s.pace.energy + power := by rw [hr]
  have hset : s1.pace.setting = s.pace.setting := by rw [hr]
  have hbraked (k : Nat) : braked s1 k = braked s k := by rw [hr]; rfl
  exact ⟨hact, henergy, hset, fld_of_regWord hcap, settingOf_of_eq hset hlim, hbraked⟩

/-! ### The brake and the cap -/

theorem brakeEngaged_eq (s : State) (cause : Nat) : brakeEngaged s cause =
    report (setEvent s F.pwrEventBrake) C.pwrBrake (srcActive s) 0xFFFF (d4 cause) := rfl

theorem resettle_pace (s : State) : (resettle s).pace.brakeCur = s.pace.brakeCur ∧ (resettle s).pace.brakePow = s.pace.brakePow ∧
    (resettle s).pace.brakeDies = s.pace.brakeDies := ⟨rfl, rfl, rfl⟩

/-- The cap as a write asks for it, in range. -/
def capAsked (s : State) (v : Word) : Nat := clampNat 200 (if s.ident.fm2 then 1300 else 4500) (wfld v F.pwrCapCapW)

/-- The power shares of the bundles loaded. -/
def sharesLoaded (s : State) : Nat := ((s.pl.slots.filter (fun e => e.2.fits)).map (fun e => e.2.img.limits.powerShare)).foldl (· + ·) 0

theorem pwrCapWrite_refused {v : Word} (h : capAsked s v < sharesLoaded s) : pwrCapWrite s v = (s, C.pwrCapRange) := if_pos h

theorem pwrCapWrite_taken {v : Word} (h : sharesLoaded s ≤ capAsked s v) :
    pwrCapWrite s v = (keptChanged (setFld s F.pwrCapCapW (capAsked s v)), C.ok) := if_neg (by rw [← capAsked, ← sharesLoaded]; omega)

theorem fld_keptChanged (s : State) (f : Fld) : fld (keptChanged s) f = fld s f := rfl

theorem fld_capWritten (s : State) (v : Word) : fld (keptChanged (setFld s F.pwrCapCapW (capAsked s v))) F.pwrCapCapW = capAsked s v := by
  have hle : capAsked s v ≤ 4500 := by
    unfold capAsked clampNat
    split_ifs <;> omega
  rw [fld_keptChanged, fld_setFld_same _ (by decide)]
  exact Nat.mod_eq_of_lt (lt_of_le_of_lt hle (by decide))

end Sys2Proof.Machine

namespace Sys2Proof.Proofs
open Sys2Proof Sys2Proof.Machine

/-- Settles O43: frames as they start and run late, the tick of the cap, the brake, and the cap's registers. -/
theorem framesAndPower : Obligations.FramesAndPower := by
  refine ⟨fun s slot b hb hp => ⟨fun hf h0 he hr ha => ?starts, fun hf h0 he hr => ?counts, fun number f hs hf => frameDeadlineExpiry_late hp hb hs hf⟩,
    fun s => ⟨fun h0 => congrArg done (if_pos h0), fun hn => ⟨_, congrArg done (if_neg hn), rfl, rfl, rfl⟩⟩,
    fun s volt curr power doms busy hp hd => ?tick,
    fun s hp => ⟨fun h0 => ?current, fun h1 => congrArg done (if_pos (.inr h1)), fun h0 => ?power, fun h1 => congrArg done (if_pos (.inr h1))⟩,
    fun s d => ⟨?release1, ?release2, fun hc => ?release3, fun hc => congrArg done (if_neg (by simp [hc]))⟩,
    fun s o v hs => ⟨fun hle => ⟨_, regAnswered_of_write hs rfl (pwrCapWrite_taken hle), fld_capWritten s v, ?_, ?_⟩,
      fun hlt => regAnswered_of_write hs rfl (pwrCapWrite_refused hlt)⟩,
    fun s o hs => regAnswered_of_read hs rfl rfl⟩
  case starts =>
    obtain ⟨t, ht, hbt⟩ := frameStartTimer_starts hb hp hf h0 he
    refine ⟨t, ht, hbt.trans ?_⟩
    rw [frameStarted, if_pos (by simp [hr, ha])]
  case counts =>
    obtain ⟨t, ht, hbt⟩ := frameStartTimer_starts hb hp hf h0 he
    refine ⟨t, ht, hbt.trans ?_⟩
    rw [frameStarted, if_neg (by simp [hr])]
  case tick =>
    obtain ⟨hact, henergy, hset, hcap, hof, hbraked⟩ := tickRecorded_frame s volt curr power busy hd
    have hexec := powerCapTick_eq hp volt curr power doms busy
    generalize tickRecorded s volt curr power doms busy = s2 at hact henergy hset hcap hof hbraked hexec
    cases ha : s.active with
    | none =>
      refine ⟨s2, hexec.trans (congrArg done (if_pos (by simp [hact, ha]))), henergy, fun _ => hset, fun h => ?_, fun h => ?_, fun n _ => hof n⟩
      · cases h
      · cases h
    | some h =>
      have hn : ¬ s2.active.isNone = true := by simp [hact, ha]
      by_cases hp : fld s F.pwrCapCapW < power
      · obtain ⟨hg, hle⟩ := capLower_governs s2
        refine ⟨_, hexec.trans (congrArg done ((if_neg hn).trans (if_pos (hcap ▸ hp)))), hg.energy.trans henergy, fun h => ?_,
          fun _ _ n => hof n ▸ hle n, fun _ hle' => absurd hp (not_lt.2 hle'), fun n hb => (hg.braked n ((hbraked n).trans hb)).trans (hof n)⟩
        cases h
      · obtain ⟨hg, hle⟩ := grantRaises_pending s2 (10 * power)
        refine ⟨_, hexec.trans (congrArg done ((if_neg hn).trans (if_neg (hcap ▸ hp)))), hg.energy.trans henergy, fun h => ?_,
          fun _ hlt => absurd hlt hp, fun _ _ n => hof n ▸ hle n, fun n hb => (hg.braked n ((hbraked n).trans hb)).trans (hof n)⟩
        cases h
  case current =>
    exact ⟨_, congrArg done ((if_neg (by simp [hp, h0])).trans (brakeEngaged_eq _ 1)), setEvent_pace _ _, fld_setEvent _ (by decide) rfl⟩
  case power =>
    exact ⟨_, congrArg done ((if_neg (by simp [hp, h0])).trans (brakeEngaged_eq _ 2)), setEvent_pace _ _, fld_setEvent _ (by decide) rfl⟩
  case release1 => exact ⟨_, rfl, resettle_pace _⟩
  case release2 =>
    obtain ⟨h1, h2, h3⟩ := resettle_pace { s with pace := { s.pace with brakePow := false } }
    exact ⟨_, rfl, h2, h1, h3⟩
  case release3 =>
    refine ⟨_, congrArg done (if_pos hc), fun k => ?_⟩
    rw [(resettle_pace _).2.2]
    simp
  · rfl
  · rfl

end Sys2Proof.Proofs
end

section
/-!
SUPPORT. What the work of bundles leaves as it was: holding, faulting and ending tallies change bundles, reports, counters, registers and messages
to other modules, and take back nothing that was sent (R81, R82, R169, R279).
-/
namespace Sys2Proof.Machine
open Sys2Proof

variable {s t u : State}

/-! ### The work of bundles -/

/-- The state without bundles, and without what reports, counters, registers and messages to other modules change. -/
def State.besideBundles (s : State) : State :=
  { s.core with fab := { s.fab with links := [], waiting := [] }, pl := { s.pl with slots := [] } }

/-- The addresses of the registers that the work of bundles writes: of reports lost, and of the events of bundles and tallies. -/
def BundleReg (a : Nat) : Prop :=
  a = (⟨.redFault, 0, 0, 0⟩ : RegRef).addr ∨ a = (⟨.bndEvent, 0, 0, 0⟩ : RegRef).addr ∨ a = (⟨.talEvent, 0, 0, 0⟩ : RegRef).addr

/-- From `s` to `t` bundles have changed, with reports, counters, registers of these and messages to other modules, and nothing else. -/
structure BundleWork (s t : State) : Prop where
  beside : t.besideBundles = s.besideBundles
  out : OutGrows s t
  regs : ∀ r : RegRef, ¬BundleReg r.addr → regWord t r = regWord s r

theorem SameCore.bundleWork (h : SameCore s t) (ho : OutGrows s t) (hr : ∀ r : RegRef, ¬BundleReg r.addr → regWord t r = regWord s r) : BundleWork s t :=
  ⟨(congrArg (fun x : State => { x with fab := { x.fab with links := [], waiting := [] }, pl := { x.pl with slots := [] } }) h :), ho, hr⟩

namespace BundleWork

theorem refl (s : State) : BundleWork s s := ⟨rfl, .refl s, fun _ _ => rfl⟩
theorem trans (h : BundleWork s t) (k : BundleWork t u) : BundleWork s u :=
  ⟨k.beside.trans h.beside, h.out.trans k.out, fun r hr => (k.regs r hr).trans (h.regs r hr)⟩

theorem foldl {α : Type} (f : State → α → State) (hf : ∀ s a, BundleWork s (f s a)) (l : List α) (s : State) : BundleWork s (l.foldl f s) :=
  List.foldlRecOn _ _ (refl s) fun _ h a _ => h.trans (hf _ a)

theorem ite {p : Prop} [Decidable p] (h : BundleWork s t) (k : BundleWork s u) : BundleWork s (if p then t else u) := by
  split
  · exact h
  · exact k

theorem report (s : State) (code src handle : Nat) (d : List Byte) : BundleWork s (report s code src handle d) :=
  ((SameCore.refl s).report _ _ _ _).bundleWork (.report s _ _ _ _) fun _ hr => regWord_report s code src handle d fun he => hr (.inl he)
theorem setEvent (s : State) {f : Fld} (hf : f.reg = .bndEvent ∨ f.reg = .talEvent) : BundleWork s (setEvent s f) :=
  ((SameCore.refl s).setEvent _).bundleWork (.of_eq (setEvent_out _ _)) fun _ hr => regWord_setRegWord_other s (fun he => hr (by
    rcases hf with hf | hf
    · exact .inr (.inl (he.trans (by rw [hf])))
    · exact .inr (.inr (he.trans (by rw [hf]))))) _
theorem bumpEv (s : State) (ev : Nat) (c : EvCtx) (n : Nat) : BundleWork s (bumpEv s ev c n) :=
  ((SameCore.refl s).bumpEv _ _ _).bundleWork (.of_eq (bumpEv_out _ _ _ _)) fun r _ => regWord_of_regs (bumpEv_regs s ev c n) (bumpEv_ident s ev c n) r

theorem setSlot (s : State) (n : Nat) (b : Bundle) : BundleWork s (setSlot s n b) := ⟨rfl, .of_eq rfl, fun _ _ => rfl⟩

theorem modBundle (s : State) (n : Nat) (f : Bundle → Bundle) : BundleWork s (modBundle s n f) := by
  unfold Machine.modBundle
  split
  · exact setSlot s _ _
  · exact refl s

theorem modStation (s : State) (n i : Nat) (f : Station → Station) : BundleWork s (modStation s n i f) := modBundle s n _
theorem modTally (s : State) (n i : Nat) (f : Tally → Tally) : BundleWork s (modTally s n i f) := modBundle s n _

theorem sendMsg (s : State) (dest vc : Nat) (b : FlitBody) : BundleWork s (sendMsg s dest vc b) := by
  refine ⟨?_, (sendMsg_fabricOnly s dest vc b).out, fun r _ => regWord_sendMsg s dest vc b r⟩
  obtain ⟨l, w, o, c, p, n, h⟩ := sendMsg_fabricOnly s dest vc b
  rw [h]
  rfl

/-! ### Tallies (R267, R279) -/

theorem answer (s : State) (slot tally : Nat) (src : TallySrc) (status : Nat) : BundleWork s (answer s slot tally src status) := by
  unfold Machine.answer
  split
  · exact modStation s _ _ _
  · exact sendMsg s _ _ _

theorem orphanTally (s : State) (slot i : Nat) : BundleWork s (orphanTally s slot i) := by
  unfold Machine.orphanTally
  split
  · exact refl s
  · refine ite (refl s) ?_
    extract_lets s1 s2
    have h1 : BundleWork s s1 := foldl _ (fun s w => answer s _ _ _ _) _ s
    have h2 : BundleWork s1 s2 := ite (refl s1) (modBundle s1 _ _)
    exact ((h1.trans h2).trans (modTally _ _ _ _)).trans (setEvent _ (.inr rfl))

theorem orphanHomed (s : State) (slot : Nat) : BundleWork s (orphanHomed s slot) := by
  unfold Machine.orphanHomed
  split
  · exact refl s
  · refine foldl _ (fun s i => ?_) _ s
    split
    · exact ite (orphanTally s _ _) (refl s)
    · exact refl s

/-! ### Bundles held and faulted (R81, R82) -/

theorem stallCount (s : State) (w : Where) : BundleWork s (stallCount s w) := by
  unfold Machine.stallCount
  dsimp only
  split
  · exact bumpEv s _ _ _
  · exact bumpEv s _ _ _
  · exact bumpEv s _ _ _
  · exact refl s

theorem stallAll (s : State) (slot : Nat) : BundleWork s (stallAll s slot) := by
  unfold Machine.stallAll
  split
  · exact refl s
  · refine foldl _ (fun s i => ?_) _ s
    split
    · exact stallCount s _
    · exact refl s

theorem leaveRemote (s : State) (slot : Nat) : BundleWork s (leaveRemote s slot) := by
  unfold Machine.leaveRemote
  split
  · exact refl s
  · refine foldl _ (fun s st => ite (refl s) ?_) _ s
    split
    · exact refl s
    · split
      · exact ite (sendMsg s _ _ _) (refl s)
      · exact refl s

theorem holdBundle (s : State) (slot : Nat) : BundleWork s (holdBundle s slot) :=
  ((stallAll s slot).trans (leaveRemote _ slot)).trans (modBundle _ _ _)

theorem holdFor (s : State) (slot : Nat) : BundleWork s (holdFor s slot) := by
  unfold Machine.holdFor
  split
  · exact refl s
  · exact ite (holdBundle s slot) (refl s)

theorem faultBundle (s : State) (slot : Nat) : BundleWork s (faultBundle s slot) := by
  unfold Machine.faultBundle
  split
  · exact refl s
  · exact ite (refl s) (((((stallAll s slot).trans (leaveRemote _ slot)).trans (orphanHomed _ slot)).trans (modBundle _ _ _)).trans (setEvent _ (.inl rfl)))

theorem faultWith (s : State) (slot code src : Nat) (d : List Byte) : BundleWork s (faultWith s slot code src d) := by
  unfold Machine.faultWith
  split
  · exact refl s
  · exact ite (refl s) ((report s _ _ _ _).trans (faultBundle _ slot))

/-! ### What stays -/

theorem pace (h : BundleWork s t) : t.pace = s.pace := (congrArg State.pace h.beside :)
theorem dies (h : BundleWork s t) : t.dies = s.dies := (congrArg State.dies h.beside :)

end BundleWork

end Sys2Proof.Machine
end

section
/-!
SUPPORT. Temperature, ageing and the end of life (R312 to R317): what each reading keeps, and what a shutdown leaves of the pace.
-/
namespace Sys2Proof.Machine
open Sys2Proof

variable {s t u : State} {n : Nat}

/-! ### What a shutdown leaves of the pace (R314) -/

theorem LinkWork.pace (h : LinkWork s t) : t.pace = s.pace := (congrArg State.pace h.beside :)

theorem closeElem_pace (s : State) (cls inst : Nat) : (closeElem s cls inst).pace = s.pace := by
  unfold closeElem
  split
  · dsimp only
    split
    · rfl
    · rfl
  · rfl

theorem calAbandon_pace (s : State) (cls inst : Nat) : (calAbandon s cls inst).pace = s.pace := by
  unfold calAbandon
  dsimp only
  split
  · rw [closeElem_pace, report_pace, setEvent_pace]
    rfl
  · rfl

theorem foldl_pace {α : Type} {f : State → α → State} (hf : ∀ s a, (f s a).pace = s.pace) (l : List α) (s : State) : (l.foldl f s).pace = s.pace :=
  List.foldlRecOn (motive := fun t : State => t.pace = s.pace) _ _ rfl fun t ht a _ => (hf t a).trans ht

theorem abandonPart_pace (s : State) (p : Part) : (abandonPart s p).pace = s.pace := foldl_pace (fun s _ => calAbandon_pace s _ _) _ s

theorem shutDie_pace (s : State) (d : Nat) : (shutDie s d).pace = s.pace := by
  unfold shutDie
  refine (foldl_pace (fun s e => ?_) _ _).trans rfl
  exact (BundleWork.ite (BundleWork.faultWith s _ _ _ _) (.refl s)).pace

theorem shutOptic_pace (s : State) (e : Nat) : (shutOptic s e).pace = s.pace := by
  unfold shutOptic
  exact (foldl_pace (fun s p => (LinkWork.relink s _).pace) _ _).trans rfl

theorem modEng_pace (s : State) (h : Hub) (f : Servo → Servo) : (modEng s h f).pace = s.pace := by cases h <;> rfl
theorem modHub_pace (s : State) (h : Hub) (f : HubSt → HubSt) : (modHub s h f).pace = s.pace := setHub_pace s h _

theorem abandonUpdate_pace (s : State) (h : Hub) : (abandonUpdate s h).pace = s.pace := by
  unfold abandonUpdate
  dsimp only
  split
  · exact modHub_pace s h _
  · rfl

theorem loseSync_pace (s : State) (h : Hub) : (loseSync s h).pace = s.pace := by
  unfold loseSync
  dsimp only
  split
  · exact (setEvent_pace _ _).trans (modHub_pace s h _)
  · exact modHub_pace s h _

theorem abortCapture_pace (s : State) (h : Hub) : (abortCapture s h).pace = s.pace := by
  unfold abortCapture endCapture
  split
  · exact (setEvent_pace _ _).trans (modEng_pace s h _)
  · rfl

theorem stopActive_pace (s : State) (h : Hub) : (stopActive s h).pace = s.pace := by
  unfold stopActive
  split
  · rfl
  · exact (modHub_pace _ h _).trans ((abandonUpdate_pace _ _).trans (abortCapture_pace s h))

theorem hubFail_pace (s : State) (h : Hub) : (hubFail s h).pace = s.pace := by
  unfold hubFail
  split
  · rfl
  · extract_lets s1 s2
    have h1 : s1.pace = s.pace := by
      dsimp only [s1]
      split
      · exact stopActive_pace s h
      · exact (loseSync_pace _ h).trans (abandonUpdate_pace s h)
    have h2 : s2.pace = s1.pace := (modEng_pace _ h _).trans (modHub_pace s1 h _)
    exact (setEvent_pace _ _).trans (h2.trans h1)

theorem shutPart_pace (s : State) (p : Part) (src : Nat) :
    (shutPart s p src).pace = if isShut s p then s.pace else { s.pace with shut := s.pace.shut ++ [p] } := by
  unfold shutPart
  split
  · rfl
  · extract_lets _ s1 s2 s3
    have h3 : s3.pace = { s.pace with shut := s.pace.shut ++ [p] } := by
      rw [abandonPart_pace, report_pace, setEvent_pace, setEvent_pace]
    clear_value s3
    cases p with
    | die d => exact (shutDie_pace s3 d).trans h3
    | engine e => exact (shutOptic_pace s3 e).trans h3
    | hub h => exact (hubFail_pace s3 _).trans h3

/-- A part shut is so, and dies braked stay braked. -/
theorem shutPart_shuts (s : State) (p : Part) (src : Nat) :
    p ∈ (shutPart s p src).pace.shut ∧ (shutPart s p src).pace.brakeDies = s.pace.brakeDies := by
  rw [shutPart_pace]
  split
  · rename_i h
    exact ⟨List.contains_iff_mem.1 h, rfl⟩
  · exact ⟨List.mem_append_right _ (List.mem_singleton_self p), rfl⟩

/-! ### A reading (R312, R313) -/

/-- The registers that a reading of a domain writes, with those of its reports. -/
def tempRegs (n : Nat) : List RegRef := [⟨.domTemp, 0, n, 0⟩, ⟨.thermMax, 0, 0, 0⟩]

theorem tempRead_frame (s : State) (n v : Nat) (hv : v < 4096) : fldAt (tempRead s n v) F.domTempTemp 0 n 0 = v ∧
    RegsOutside (tempRegs n) s (tempRead s n v) ∧ (tempRead s n v).pace.high = s.pace.high ∧ (tempRead s n v).pace.shut = s.pace.shut ∧
      (tempRead s n v).phase = s.phase := by
  unfold tempRead
  extract_lets s1 first peak s2
  have h1 : fldAt s1 F.domTempTemp 0 n 0 = v := (fldAt_setFldAt_same s (by decide) _ _ _ _).trans (Nat.mod_eq_of_lt hv)
  have r1 : RegsOutside (tempRegs n) s s1 := (RegsOutside.refl _ s).setFldAt (f := F.domTempTemp) List.mem_cons_self _
  have p1 : s1.pace = s.pace ∧ s1.phase = s.phase := ⟨setFldAt_pace _ _ _ _ _ _, setFldAt_phase _ _ _ _ _ _⟩
  clear_value s1 first peak
  have h2 : fldAt s2 F.domTempTemp 0 n 0 = v ∧ RegsOutside (tempRegs n) s s2 ∧ s2.pace = s.pace ∧ s2.phase = s.phase := by
    dsimp only [s2]
    split
    · exact ⟨(fldAt_setFldAt_disjoint s1 (f := F.domTempPeak) (g := F.domTempTemp) rfl (by decide) (by decide) _ _ _ _).trans h1, r1.setFldAt (f := F.domTempPeak) List.mem_cons_self _,
        (setFldAt_pace _ _ _ _ _ _).trans p1.1, (setFldAt_phase _ _ _ _ _ _).trans p1.2⟩
    · exact ⟨h1, r1, p1⟩
  clear_value s2
  obtain ⟨h2, r2, p2, q2⟩ := h2
  split
  · exact ⟨h2, r2, (congrArg Pace.high p2 :), (congrArg Pace.shut p2 :), q2⟩
  · exact ⟨h2, r2, congrArg Pace.high p2, congrArg Pace.shut p2, q2⟩

theorem thermMax_frame (s : State) : RegsOutside [⟨.thermMax, 0, 0, 0⟩] s (thermMax s) ∧ (thermMax s).pace = s.pace ∧ (thermMax s).phase = s.phase := by
  unfold thermMax
  split
  · exact ⟨((RegsOutside.refl _ s).setFld (f := F.thermMaxTemp) (by decide) _).setFld (f := F.thermMaxDomain) (by decide) _,
      (setFld_pace _ _ _).trans (setFld_pace _ _ _), (setFld_phase _ _ _).trans (setFld_phase _ _ _)⟩
  · exact ⟨.refl _ s, rfl, rfl⟩

/-- A domain at HIGH_C or above is marked, one below it is not; nothing else of the pace changes. -/
theorem tempHigh_frame (s : State) (n : Nat) : (n ∈ (tempHigh s n).pace.high ↔ 4 * (fld s F.thermCtlHighC : Int) ≤ domTemp s n) ∧
    (tempHigh s n).pace.shut = s.pace.shut ∧ (tempHigh s n).pace.brakeDies = s.pace.brakeDies ∧
    RegsOutside [⟨.pwrEvent, 0, 0, 0⟩, ⟨.redFault, 0, 0, 0⟩] s (tempHigh s n) := by
  unfold tempHigh
  split
  · rename_i hlow
    refine ⟨⟨fun h => ?_, fun h => absurd hlow (not_lt.2 h)⟩, rfl, rfl, .of_regs _ rfl rfl⟩
    simpa using (List.mem_filter.1 h).2
  · rename_i hhigh
    split
    · rename_i hmark
      exact ⟨⟨fun _ => not_lt.1 hhigh, fun _ => List.contains_iff_mem.1 hmark⟩, rfl, rfl, .refl _ s⟩
    · have hpace : (report (setEvent { s with pace := { s.pace with high := s.pace.high ++ [n] } } F.pwrEventTherm) C.thermHigh (domSource s n) 0xFFFF []).pace =
          { s.pace with high := s.pace.high ++ [n] } := by rw [report_pace, setEvent_pace]
      have hregs : RegsOutside [⟨.pwrEvent, 0, 0, 0⟩, ⟨.redFault, 0, 0, 0⟩] s
          (report (setEvent { s with pace := { s.pace with high := s.pace.high ++ [n] } } F.pwrEventTherm) C.thermHigh (domSource s n) 0xFFFF []) :=
        RegsOutside.report (RegsOutside.setEvent (t := { s with pace := { s.pace with high := s.pace.high ++ [n] } }) (.of_regs _ rfl rfl)
          (f := F.pwrEventTherm) (by decide)) (by decide) _ _ _ _
      rw [hpace]
      exact ⟨⟨fun _ => not_lt.1 hhigh, fun _ => List.mem_append_right _ (List.mem_singleton_self n)⟩, rfl, rfl, hregs⟩

theorem putCal_frame (s : State) (cls inst : Nat) (x : CalItem) : (putCal s cls inst x).pace = s.pace ∧ (putCal s cls inst x).regs = s.regs ∧
    (putCal s cls inst x).ident = s.ident := by
  unfold putCal
  split <;> exact ⟨rfl, rfl, rfl⟩

theorem calByTemp_frame (s : State) (n mean : Nat) : (calByTemp s n mean).pace = s.pace ∧ (calByTemp s n mean).regs = s.regs ∧
    (calByTemp s n mean).ident = s.ident := by
  unfold calByTemp
  refine List.foldlRecOn (motive := fun t : State => t.pace = s.pace ∧ t.regs = s.regs ∧ t.ident = s.ident) _ _ ⟨rfl, rfl, rfl⟩ fun t ht k _ => ?_
  dsimp only
  split
  · obtain ⟨h1, h2, h3⟩ := putCal_frame t (k.1 / 1024) (k.1 % 1024) { k.2 with hot := strays t (k.1 / 1024) (signedOf 12 mean) (signedOf 12 k.2.tref) }
    exact ⟨h1.trans ht.1, h2.trans ht.2.1, h3.trans ht.2.2⟩
  · exact ht

/-- The registers of events and reports that a reading may write. -/
def heatRegs : List RegRef := [⟨.pwrEvent, 0, 0, 0⟩, ⟨.redFault, 0, 0, 0⟩]

/-- A reading acted on, up to a shutdown: marked, and its die braked from 100 °C. -/
def heatActed (s : State) (n mean : Nat) : State :=
  let s1 := calByTemp (tempHigh s n) n mean
  if governed n ∧ 400 ≤ domTemp s n ∧ s1.pace.brakeDies.contains (n / 8) = false then
    brakeEngaged { s1 with pace := { s1.pace with brakeDies := s1.pace.brakeDies ++ [n / 8] } } 3
  else s1

theorem tempAct_eq (hp : s.phase = .running) (n mean : Nat) : tempAct s n mean =
    if domTemp s n < 440 then heatActed s n mean
    else match partOf n with
      | some p => shutPart (heatActed s n mean) p (domSource s n)
      | none => shutModule (heatActed s n mean) := if_neg (by simp [hp])

theorem heatActed_frame (s : State) (n mean : Nat) : (n ∈ (heatActed s n mean).pace.high ↔ 4 * (fld s F.thermCtlHighC : Int) ≤ domTemp s n) ∧
    (heatActed s n mean).pace.shut = s.pace.shut ∧ RegsOutside heatRegs s (heatActed s n mean) ∧
    (governed n = true → 400 ≤ domTemp s n → n / 8 ∈ (heatActed s n mean).pace.brakeDies) := by
  obtain ⟨hhigh, hshut, -, hregs⟩ := tempHigh_frame s n
  obtain ⟨hpace, hr, hi⟩ := calByTemp_frame (tempHigh s n) n mean
  unfold heatActed
  extract_lets s1
  have h1 : s1.pace = (tempHigh s n).pace := hpace
  have r1 : RegsOutside heatRegs s s1 := hregs.trans (.of_regs _ hr hi)
  clear_value s1
  rw [← h1] at hhigh hshut
  split
  · have hbrake : (brakeEngaged { s1 with pace := { s1.pace with brakeDies := s1.pace.brakeDies ++ [n / 8] } } 3).pace =
        { s1.pace with brakeDies := s1.pace.brakeDies ++ [n / 8] } := by rw [brakeEngaged_eq, report_pace, setEvent_pace]
    have rb : RegsOutside heatRegs s (brakeEngaged { s1 with pace := { s1.pace with brakeDies := s1.pace.brakeDies ++ [n / 8] } } 3) :=
      r1.trans (RegsOutside.report (RegsOutside.setEvent (t := { s1 with pace := { s1.pace with brakeDies := s1.pace.brakeDies ++ [n / 8] } })
        (.of_regs _ rfl rfl) (f := F.pwrEventBrake) (by decide)) (by decide) _ _ _ _)
    rw [hbrake]
    exact ⟨hhigh, hshut, rb, fun _ _ => List.mem_append_right _ (List.mem_singleton_self _)⟩
  · rename_i hn
    refine ⟨hhigh, hshut, r1, fun hg ht => ?_⟩
    by_contra hmem
    exact hn ⟨hg, ht, Bool.eq_false_iff.2 fun h => hmem (List.contains_iff_mem.1 h)⟩

/-! ### A sample of one domain -/

/-- A domain read, the hottest one noted: the state on which the reading acts. -/
def tempSeen (s : State) (n v : Nat) : State := thermMax (tempRead s n v)

theorem execTemperatureSample_one (hp : s.phase = .running) (he : domainExists s.ident n = true) (v mean : Nat) :
    execTemperatureSample [(n, v, mean)] s = done (tempAct (tempSeen s n v) n mean) := by
  simp [execTemperatureSample, hp, he, tempSeen]

theorem tempSeen_frame (hp : s.phase = .running) (hn : n < 80) {v : Nat} (hv : v < 4096) :
    fldAt (tempSeen s n v) F.domTempTemp 0 n 0 = v ∧ fld (tempSeen s n v) F.thermCtlHighC = fld s F.thermCtlHighC ∧
      (tempSeen s n v).pace.high = s.pace.high ∧ (tempSeen s n v).pace.shut = s.pace.shut ∧ (tempSeen s n v).phase = .running := by
  obtain ⟨hread, hregs, hhigh, hshut, hphase⟩ := tempRead_frame s n v hv
  obtain ⟨hmax, hpace, hph⟩ := thermMax_frame (tempRead s n v)
  have haddr : ∀ k < 80, (⟨F.domTempTemp.reg, 0, k, 0⟩ : RegRef).addr ≠ (⟨.thermMax, 0, 0, 0⟩ : RegRef).addr ∧
      (⟨F.thermCtlHighC.reg, 0, 0, 0⟩ : RegRef).addr ≠ (⟨.domTemp, 0, k, 0⟩ : RegRef).addr := by decide
  refine ⟨(hmax.fldAt fun q hq => ?_).trans hread, (hmax.fld (by decide)).trans (hregs.fld fun q hq => ?_),
    (congrArg Pace.high hpace :).trans hhigh, (congrArg Pace.shut hpace :).trans hshut, (hph.trans hphase).trans hp⟩
  · rw [List.mem_singleton.1 hq]
    exact (haddr n hn).1
  · rcases List.mem_cons.1 hq with rfl | hq
    · exact (haddr n hn).2
    · rw [List.mem_singleton.1 hq]
      decide

theorem shutModule_latched (s : State) : (shutModule s).elec.latched = true := rfl

theorem partOf_of_governed (hg : governed n = true) : partOf n = some (.die (n / 8)) := by
  unfold partOf
  exact if_pos (of_decide_eq_true (Bool.and_eq_true_iff.1 hg).1)

/-- What a reading of a domain in a running module does (R313, R314). -/
theorem tempAct_acts (hp : s.phase = .running) (hn : n < 80) (mean : Nat) :
    let t := tempAct s n mean
    (domTemp s n < 440 → fldAt t F.domTempTemp 0 n 0 = fldAt s F.domTempTemp 0 n 0 ∧
      (n ∈ t.pace.high ↔ 4 * (fld s F.thermCtlHighC : Int) ≤ domTemp s n) ∧ t.pace.shut = s.pace.shut) ∧
    (governed n = true → 400 ≤ domTemp s n → n / 8 ∈ t.pace.brakeDies) ∧
    (440 ≤ domTemp s n → (∀ p, partOf n = some p → p ∈ t.pace.shut) ∧ (partOf n = none → t.elec.latched = true)) := by
  have haddr : ∀ k < 80, ∀ q ∈ heatRegs, (⟨F.domTempTemp.reg, 0, k, 0⟩ : RegRef).addr ≠ q.addr := by decide
  obtain ⟨hhigh, hshut, hregs, hbrake⟩ := heatActed_frame s n mean
  rw [tempAct_eq hp]
  extract_lets t
  by_cases hlow : domTemp s n < 440
  · have ht : t = heatActed s n mean := if_pos hlow
    rw [ht]
    exact ⟨fun _ => ⟨hregs.fldAt (haddr n hn), hhigh, hshut⟩, hbrake, fun h => absurd hlow (not_lt.2 h)⟩
  · cases hpart : partOf n with
    | some p =>
      have ht : t = shutPart (heatActed s n mean) p (domSource s n) := by simp [t, hlow, hpart]
      obtain ⟨hin, hkeep⟩ := shutPart_shuts (heatActed s n mean) p (domSource s n)
      rw [ht, hkeep]
      exact ⟨fun h => absurd h hlow, hbrake, fun _ => ⟨fun q hq => by rwa [← Option.some.inj hq], nofun⟩⟩
    | none =>
      have ht : t = shutModule (heatActed s n mean) := by simp [t, hlow, hpart]
      refine ⟨fun h => absurd h hlow, fun hg => ?_, fun _ => ⟨nofun, fun _ => ?_⟩⟩
      · rw [partOf_of_governed hg] at hpart
        cases hpart
      · rw [ht]
        exact shutModule_latched _

/-! ### Ageing (R315) -/

/-- The curve of a domain kept. -/
def curveKept (s : State) (n : Nat) (c : SMap Nat) : State := { s with pace := { s.pace with curve := SMap.insert s.pace.curve n c } }

theorem execAgeingMeasure_point (hp : s.phase = .running) (hg : governed n = true) (he : domainExists s.ident n = true) {measured recorded mv rate : Nat}
    (hr : recorded ≠ 0) (hlo : 550 ≤ mv) (hhi : mv ≤ 900) : execAgeingMeasure n measured recorded [(mv, rate)] s =
      done (curveKept (setFldAt s F.domAgeShift 0 n 0 (min 65535 (measured * 10000 / recorded - 10000))) n
        (SMap.insert (SMap.getD s.pace.curve n []) mv rate)) := by
  have htimed : [(mv, rate)].filter (fun p => decide (550 ≤ p.1) && decide (p.1 ≤ 900)) = [(mv, rate)] := by simp [hlo, hhi]
  have hacts : ¬(governed n = false ∨ domainExists s.ident n = false ∨ s.phase ≠ .running ∨ recorded = 0) := by simp [hg, he, hp, hr]
  unfold execAgeingMeasure
  rw [if_neg hacts, htimed]
  rfl

theorem fldAt_curveKept (s : State) (c : SMap Nat) (f : Fld) (d i j : Nat) : fldAt (curveKept s n c) f d i j = fldAt s f d i j := rfl
theorem curveKept_curve (s : State) (c : SMap Nat) : (curveKept s n c).pace.curve = SMap.insert s.pace.curve n c := rfl

/-! ### The end of life (R316, R317) -/

/-- The lowest of a fold of minima is no later than any of its items. -/
theorem foldl_lowest_le {α : Type} (f : α → Nat) (g : α → Nat) (l : List α) (m : Nat × Nat) :
    (l.foldl (fun m e => if f e < m.1 then (f e, g e) else m) m).1 ≤ m.1 ∧
      ∀ e ∈ l, (l.foldl (fun m e => if f e < m.1 then (f e, g e) else m) m).1 ≤ f e := by
  induction l generalizing m with
  | nil => exact ⟨le_rfl, nofun⟩
  | cons a r ih =>
    obtain ⟨hle, hmem⟩ := ih (if f a < m.1 then (f a, g a) else m)
    have ha : (if f a < m.1 then (f a, g a) else m).1 ≤ m.1 ∧ (if f a < m.1 then (f a, g a) else m).1 ≤ f a := by
      split
      · exact ⟨Nat.le_of_lt ‹_›, le_rfl⟩
      · exact ⟨le_rfl, not_lt.1 ‹_›⟩
    refine ⟨hle.trans ha.1, fun e he => ?_⟩
    rcases List.mem_cons.1 he with rfl | he
    · exact hle.trans ha.2
    · exact hmem e he

theorem kindLowest_le {kind index : Nat} {l : List Nat} (hi : index < 65536) (hf : SMap.find s.pace.means (kind * 65536 + index) = some l) :
    (kindLowest s kind).1 ≤ 65535 ∧ (kindLowest s kind).1 ≤ eolDays l (eolOf s kind) := by
  obtain ⟨hle, hmem⟩ := foldl_lowest_le (fun e : Nat × List Nat => eolDays e.2 (eolOf s kind)) (fun e => e.1 % 65536)
    (s.pace.means.filter (fun e => e.1 / 65536 == kind)) (0xFFFF, 0)
  refine ⟨hle, hmem (kind * 65536 + index, l) (List.mem_filter.2 ⟨?_, ?_⟩)⟩
  · exact SMap.mem_of_find hf
  · simp only [beq_iff_eq]
    omega

/-- The prediction of a kind written to its register. -/
def kindWritten (s : State) (e : Nat × Nat × Nat) : State := setFldAt (setFldAt s F.ageKindDays 0 e.1 0 e.2.1) F.ageKindIndex 0 e.1 0 e.2.2

theorem ageKind_addr (k : Nat) : (⟨.ageKind, 0, k, 0⟩ : RegRef).addr = 0x10040 + 4 * k := rfl
theorem domAge_addr (k : Nat) : (⟨.domAge, 0, k, 0⟩ : RegRef).addr = 0x10000 + 0x80C + 16 * k := rfl

theorem fldAt_kindWritten_same (s : State) (k : Nat) (p : Nat × Nat) :
    fldAt (kindWritten s (k, p)) F.ageKindDays 0 k 0 = p.1 % 65536 :=
  (fldAt_setFldAt_disjoint _ (f := F.ageKindIndex) (g := F.ageKindDays) rfl (by decide) (by decide) _ _ _ _).trans
    (fldAt_setFldAt_same s (f := F.ageKindDays) (by decide) _ _ _ _)

theorem fldAt_kindWritten_other (s : State) {k m : Nat} (h : m ≠ k) (p : Nat × Nat) :
    fldAt (kindWritten s (m, p)) F.ageKindDays 0 k 0 = fldAt s F.ageKindDays 0 k 0 := by
  have haddr : (⟨.ageKind, 0, k, 0⟩ : RegRef).addr ≠ (⟨.ageKind, 0, m, 0⟩ : RegRef).addr := by
    rw [ageKind_addr, ageKind_addr]
    omega
  exact (fldAt_setFldAt_other _ (f := F.ageKindIndex) (g := F.ageKindDays) haddr _).trans (fldAt_setFldAt_other s (f := F.ageKindDays) (g := F.ageKindDays) haddr _)

theorem fldAt_foldl_kindWritten (low : Nat → Nat × Nat) {k : Nat} (l : List Nat) (s : State)
    (h : k ∈ l ∨ fldAt s F.ageKindDays 0 k 0 = (low k).1 % 65536) :
    fldAt ((l.map (fun k => (k, low k))).foldl kindWritten s) F.ageKindDays 0 k 0 = (low k).1 % 65536 := by
  induction l generalizing s with
  | nil => exact h.resolve_left List.not_mem_nil
  | cons m r ih =>
    refine ih (kindWritten s (m, low m)) ?_
    by_cases hm : m = k
    · subst hm
      exact .inr (fldAt_kindWritten_same s m (low m))
    · rw [fldAt_kindWritten_other s hm]
      exact h.imp_left fun hk => (List.mem_cons.1 hk).resolve_left (Ne.symm hm)

/-- The registers of the predictions besides those of the kinds. -/
def eolRefs (s : State) : List RegRef :=
  [⟨.ageModule, 0, 0, 0⟩, ⟨.pwrEvent, 0, 0, 0⟩, ⟨.redFault, 0, 0, 0⟩] ++
    (s.pace.means.filter (fun e => e.1 / 65536 == 0)).map (fun e => ⟨.domAge, 0, e.1 % 65536, 0⟩)

/-- The predictions of the kinds written. -/
def kindsWritten (s : State) : State := ((List.range 5).map (fun k => (k, kindLowest s k))).foldl kindWritten s

theorem kindsWritten_keeps (s : State) : (kindsWritten s).pace = s.pace ∧ fld (kindsWritten s) F.ageCtlEolShift = fld s F.ageCtlEolShift := by
  refine List.foldlRecOn (motive := fun t : State => t.pace = s.pace ∧ fld t F.ageCtlEolShift = fld s F.ageCtlEolShift) _ _ ⟨rfl, rfl⟩
    fun t ht e _ => ⟨?_, ?_⟩
  · rw [kindWritten, setFldAt_pace, setFldAt_pace]
    exact ht.1
  · have haddr : (⟨.ageCtl, 0, 0, 0⟩ : RegRef).addr ≠ (⟨.ageKind, 0, e.1, 0⟩ : RegRef).addr := by
      rw [ageKind_addr]
      exact fun h => absurd (show (0x10034 : Nat) = _ from h) (by omega)
    exact ((fldAt_setFldAt_other _ (f := F.ageKindIndex) (g := F.ageCtlEolShift) haddr _).trans
      (fldAt_setFldAt_other t (f := F.ageKindDays) (g := F.ageCtlEolShift) haddr _)).trans ht.2

/-- After the kinds, the other registers of the predictions are written and the warning is given. -/
theorem eolRegs_frame (s : State) : RegsOutside (eolRefs s) (kindsWritten s) (eolRegs s) ∧ (eolRegs s).pace.means = s.pace.means := by
  have hkinds : (kindsWritten s).pace.means = s.pace.means := (congrArg Pace.means (kindsWritten_keeps s).1 :)
  unfold eolRegs
  extract_lets low s1 m s2 doms s3 warn _ s4
  have h1 : s1 = kindsWritten s := rfl
  clear_value s1 m
  subst h1
  have r2 : RegsOutside (eolRefs s) (kindsWritten s) s2 :=
    (((RegsOutside.refl _ _).setFld (f := F.ageModuleDays) List.mem_cons_self _).setFld (f := F.ageModuleKind) List.mem_cons_self _).setFld
      (f := F.ageModuleIndex) List.mem_cons_self _
  have p2 : s2.pace = (kindsWritten s).pace := by
    rw [show s2 = setFld _ _ _ from rfl, setFld_pace, setFld_pace, setFld_pace]
  have hd : doms = s.pace.means.filter (fun e => e.1 / 65536 == 0) := by
    rw [← hkinds, ← p2]
  clear_value s2 doms
  have h3 : RegsOutside (eolRefs s) (kindsWritten s) s3 ∧ s3.pace = s2.pace :=
    List.foldlRecOn (motive := fun t : State => RegsOutside (eolRefs s) (kindsWritten s) t ∧ t.pace = s2.pace) _ _ ⟨r2, rfl⟩ fun t ht e he =>
      ⟨ht.1.setFldAt (f := F.domAgeDays) (List.mem_append_right _ (List.mem_map.2 ⟨e, hd ▸ he, rfl⟩)) _, (setFldAt_pace _ _ _ _ _ _).trans ht.2⟩
  obtain ⟨r3, p3⟩ := h3
  clear_value s3 warn
  have r4 : RegsOutside (eolRefs s) (kindsWritten s) s4 := r3.trans (.of_regs _ rfl rfl)
  have p4 : s4.pace.means = s.pace.means := (congrArg Pace.means (p3.trans p2) :).trans hkinds
  clear_value s4
  split
  · refine ⟨(r4.setEvent (f := F.pwrEventAgeNear) (List.mem_cons_of_mem _ List.mem_cons_self)).hubReport
      (List.mem_cons_of_mem _ (List.mem_cons_of_mem _ List.mem_cons_self)) _ _, ?_⟩
    rw [hubReport_pace, setEvent_pace, p4]
  · exact ⟨r4, p4⟩

/-- The daily mean of a component kept. -/
def meanKept (s : State) (e : Nat × Nat × Nat) : State := { s with pace := { s.pace with means := addMean s.pace.means e } }

theorem eolOf_of_shift (h : fld t F.ageCtlEolShift = fld s F.ageCtlEolShift) (kind : Nat) : eolOf t kind = eolOf s kind := by
  unfold eolOf
  rw [h]

/-- The predictions as they stand before any cell is retired. -/
theorem eolRegs_predicts {kind index : Nat} {l : List Nat} (hk : kind < 5) (hi : index < 65536)
    (hf : SMap.find s.pace.means (kind * 65536 + index) = some l) :
    fldAt (eolRegs s) F.ageKindDays 0 kind 0 ≤ eolDays l (eolOf s kind) ∧ fld (eolRegs s) F.ageCtlEolShift = fld s F.ageCtlEolShift := by
  obtain ⟨hregs, -⟩ := eolRegs_frame s
  have hout : ∀ r ∈ eolRefs s, (⟨.ageKind, 0, kind, 0⟩ : RegRef).addr ≠ r.addr ∧ (⟨.ageCtl, 0, 0, 0⟩ : RegRef).addr ≠ r.addr := by
    intro r hr
    rcases List.mem_append.1 hr with hr | hr
    · have hfix : ∀ k < 5, ∀ q ∈ [(⟨.ageModule, 0, 0, 0⟩ : RegRef), ⟨.pwrEvent, 0, 0, 0⟩, ⟨.redFault, 0, 0, 0⟩],
          (⟨.ageKind, 0, k, 0⟩ : RegRef).addr ≠ q.addr ∧ (⟨.ageCtl, 0, 0, 0⟩ : RegRef).addr ≠ q.addr := by decide
      exact hfix kind hk r hr
    · obtain ⟨e, -, rfl⟩ := List.mem_map.1 hr
      rw [domAge_addr, ageKind_addr, show (⟨.ageCtl, 0, 0, 0⟩ : RegRef).addr = 0x10034 from rfl]
      omega
  obtain ⟨hle, hdays⟩ := kindLowest_le hi hf
  have hread : fldAt (eolRegs s) F.ageKindDays 0 kind 0 = (kindLowest s kind).1 % 65536 :=
    (hregs.fldAt (f := F.ageKindDays) fun q hq => (hout q hq).1).trans
      (fldAt_foldl_kindWritten (kindLowest s) _ s (.inl (List.mem_range.2 hk)))
  exact ⟨hread ▸ (Nat.mod_le _ _).trans hdays, (hregs.fld fun q hq => (hout q hq).2).trans (kindsWritten_keeps s).2⟩

/-- With no quadrant near its end, no cell is retired. -/
theorem eolRetire_none (h : ∀ e ∈ s.pace.means, e.1 / 65536 = 0 → e.1 % 8 < 4 → 30 < eolDays e.2 (eolOf s 0)) : eolRetire s = s := by
  have hnone : s.pace.means.filter (fun e => e.1 / 65536 == 0 && decide (e.1 % 8 < 4) && decide (eolDays e.2 (eolOf s 0) ≤ 30)) = [] := by
    refine List.filter_eq_nil_iff.2 fun e he => ?_
    simp only [Bool.and_eq_true, beq_iff_eq, decide_eq_true_eq, not_and, not_le]
    exact fun hk => h e he hk.1 hk.2
  unfold eolRetire
  rw [hnone]
  rfl

theorem execEolPrediction_one (hp : s.phase = .running) (e : Nat × Nat × Nat) :
    execEolPrediction [e] s = done (eolRetire (eolRegs (meanKept s e))) := congrArg done (if_neg (not_not.2 hp))

end Sys2Proof.Machine

namespace Sys2Proof.Proofs
open Sys2Proof Sys2Proof.Machine

/-- A temperature sample (R312 to R314). -/
theorem temperatureSample_acts (s : State) (n temp mean : Nat) (hp : s.phase = .running) (he : domainExists s.ident n = true) (hn : n < 80)
    (ht : temp < 4096) : ∃ t, exec (.temperatureSample [(n, temp, mean)]) s = .next t ∧
      (signedOf 12 temp < 440 → fldAt t F.domTempTemp 0 n 0 = temp ∧
        (n ∈ t.pace.high ↔ 4 * (fld s F.thermCtlHighC : Int) ≤ signedOf 12 temp) ∧ t.pace.shut = s.pace.shut) ∧
      (governed n = true → 400 ≤ signedOf 12 temp → n / 8 ∈ t.pace.brakeDies) ∧
      (440 ≤ signedOf 12 temp → (∀ p, partOf n = some p → p ∈ t.pace.shut) ∧ (partOf n = none → t.elec.latched = true)) := by
  obtain ⟨hread, hhigh, -, hshut, hrun⟩ := tempSeen_frame hp hn ht
  obtain ⟨hcool, hbrake, hhot⟩ := tempAct_acts hrun hn mean
  have htemp : domTemp (tempSeen s n temp) n = signedOf 12 temp := congrArg (signedOf 12) hread
  rw [htemp] at hcool hbrake hhot
  refine ⟨_, execTemperatureSample_one hp he temp mean, fun h => ?_, hbrake, hhot⟩
  obtain ⟨hkept, hmark, hsh⟩ := hcool h
  exact ⟨hkept.trans hread, hhigh ▸ hmark, hsh.trans hshut⟩

/-- An ageing measurement (R315). -/
theorem ageingMeasure_keeps (s : State) (n measured recorded mv rate : Nat) (hp : s.phase = .running) (hg : governed n = true)
    (he : domainExists s.ident n = true) (hr : recorded ≠ 0) (hlo : 550 ≤ mv) (hhi : mv ≤ 900) :
    ∃ (t : State) (c : SMap Nat), exec (.ageingMeasure n measured recorded [(mv, rate)]) s = .next t ∧
      fldAt t F.domAgeShift 0 n 0 = min 65535 (measured * 10000 / recorded - 10000) ∧ SMap.find t.pace.curve n = some c ∧
      (∀ v, SMap.find c v = if v = mv then some rate else SMap.find (SMap.getD s.pace.curve n []) v) ∧
      ∀ m, m ≠ n → SMap.find t.pace.curve m = SMap.find s.pace.curve m := by
  refine ⟨_, SMap.insert (SMap.getD s.pace.curve n []) mv rate, execAgeingMeasure_point hp hg he hr hlo hhi, ?_, ?_, fun v => ?_, fun m hm => ?_⟩
  · rw [fldAt_curveKept, fldAt_setFldAt_same s (by decide)]
    exact Nat.mod_eq_of_lt (Nat.lt_succ_of_le (min_le_left _ _))
  · exact SMap.find_insert_self _ _ _
  · split
    · subst v
      exact SMap.find_insert_self _ _ _
    · exact SMap.find_insert_ne _ _ ‹_›
  · rw [curveKept_curve, setFldAt_pace]
    exact SMap.find_insert_ne _ _ hm

/-- A prediction of the end of life (R316, R317). -/
theorem eolPrediction_keeps (s : State) (kind index mean : Nat) (hp : s.phase = .running) (hk : kind < 5) (hi : index < 65536)
    (hfar : ∀ e ∈ addMean s.pace.means (kind, index, mean), e.1 / 65536 = 0 → e.1 % 8 < 4 → 30 < eolDays e.2 (eolOf s 0)) :
    let l := SMap.getD s.pace.means (kind * 65536 + index) [] ++ [mean]
    let l30 := l.drop (l.length - 30)
    ∃ t, exec (.eolPrediction [(kind, index, mean)]) s = .next t ∧ SMap.find t.pace.means (kind * 65536 + index) = some l30 ∧
      fldAt t F.ageKindDays 0 kind 0 ≤ eolDays l30 (eolOf s kind) := by
  intro l l30
  have hf : SMap.find (meanKept s (kind, index, mean)).pace.means (kind * 65536 + index) = some l30 := SMap.find_insert_self _ _ _
  obtain ⟨hdays, hshift⟩ := eolRegs_predicts hk hi hf
  have hmeans := (eolRegs_frame (meanKept s (kind, index, mean))).2
  have heol : eolOf (eolRegs (meanKept s (kind, index, mean))) 0 = eolOf s 0 := eolOf_of_shift hshift 0
  have hnone : eolRetire (eolRegs (meanKept s (kind, index, mean))) = eolRegs (meanKept s (kind, index, mean)) := by
    refine eolRetire_none fun e he => ?_
    rw [heol]
    rw [hmeans] at he
    exact hfar e he
  refine ⟨_, (execEolPrediction_one hp _).trans (congrArg done hnone), hmeans ▸ hf, hdays⟩

/-- Settles O44: a reading is kept and marks, brakes or shuts by its value; a measurement keeps shift and point of the curve; a day's mean
is kept and the prediction of its kind follows it. -/
theorem temperatureAndAgeing : Obligations.TemperatureAndAgeing := by
  unfold Obligations.TemperatureAndAgeing
  exact ⟨temperatureSample_acts, ageingMeasure_keeps, eolPrediction_keeps⟩

end Sys2Proof.Proofs
end

section
/-!
SUPPORT. The servo loop engines: what an engine, an input and a loop read after a write, and what an edge does on the engines that see it
(R430, R436, R437).
-/
namespace Sys2Proof.Machine
open Sys2Proof

variable {s t u : State} {h k : Hub} {g : Servo} {i j n : Nat}

/-! ### Engines -/

theorem engOf_of_eq (ha : t.engA = s.engA) (hb : t.engB = s.engB) (h : Hub) : engOf t h = engOf s h := by cases h <;> assumption

@[simp] theorem engOf_setEng_same (s : State) (h : Hub) (g : Servo) : engOf (setEng s h g) h = g := by cases h <;> rfl

theorem engOf_setEng_other (s : State) (hk : k ≠ h) (g : Servo) : engOf (setEng s h g) k = engOf s k := by
  cases h with
  | ha =>
    cases k with
    | ha => exact absurd rfl hk
    | hb => rfl
  | hb =>
    cases k with
    | ha => rfl
    | hb => exact absurd rfl hk

@[simp] theorem engOf_modEng_same (s : State) (h : Hub) (f : Servo → Servo) : engOf (modEng s h f) h = f (engOf s h) := engOf_setEng_same s h _

theorem engOf_modEng_other (s : State) (hk : k ≠ h) (f : Servo → Servo) : engOf (modEng s h f) k = engOf s k := engOf_setEng_other s hk _

@[simp] theorem engOf_modBoth (s : State) (h : Hub) (f : Servo → Servo) : engOf (modBoth s h f) h = f (engOf s h) := by
  unfold modBoth
  dsimp only
  split
  · rw [engOf_modEng_other _ (peer_ne h).symm, engOf_modEng_same]
  · exact engOf_modEng_same s h f

theorem engOf_setFldAt (s : State) (f : Fld) (d i j v : Nat) (h : Hub) : engOf (setFldAt s f d i j v) h = engOf s h := engOf_of_eq rfl rfl h
@[simp] theorem engOf_setEvent (s : State) (f : Fld) (h : Hub) : engOf (setEvent s f) h = engOf s h := engOf_setFldAt s f 0 0 0 1 h
@[simp] theorem engOf_bumpEv (s : State) (ev : Nat) (c : EvCtx) (n : Nat) (h : Hub) : engOf (bumpEv s ev c n) h = engOf s h :=
  engOf_of_eq (bumpEv_engA s ev c n) (bumpEv_engB s ev c n) h
@[simp] theorem engOf_report (s : State) (code src hd : Nat) (d : List Byte) (h : Hub) : engOf (report s code src hd d) h = engOf s h :=
  engOf_of_eq (report_engA s code src hd d) (report_engB s code src hd d) h
@[simp] theorem engOf_srvReport (s : State) (f : Fld) (code : Nat) (d : List Byte) (h : Hub) : engOf (srvReport s f code d) h = engOf s h :=
  (engOf_report _ _ _ _ _ h).trans (engOf_setEvent s f h)

theorem setEng_pl (s : State) (h : Hub) (g : Servo) : (setEng s h g).pl = s.pl := by cases h <;> rfl
theorem setEng_active (s : State) (h : Hub) (g : Servo) : (setEng s h g).active = s.active := by cases h <;> rfl
theorem hubOf_setEng (s : State) (h : Hub) (g : Servo) (k : Hub) : hubOf (setEng s h g) k = hubOf s k := by
  cases h <;> cases k <;> rfl

theorem srvReport_core (s : State) (f : Fld) (code : Nat) (d : List Byte) : SameCore s (srvReport s f code d) :=
  ((SameCore.refl s).setEvent f).hubReport code d

theorem firmwareRuns_of_core (hc : SameCore s t) (h : Hub) : firmwareRuns (hubOf t h) = firmwareRuns (hubOf s h) :=
  show firmwareRuns (hubOf t h).core = firmwareRuns (hubOf s h).core from congrArg firmwareRuns (hc.hub h)

/-! ### Inputs and loops -/

theorem input_modInput (g : Servo) (i : Nat) (f : Input → Input) (j : Nat) : (g.modInput i f).input j = if j = i then f (g.input i) else g.input j :=
  SMap.getD_setD _ _ _ _ _
@[simp] theorem input_modInput_same (g : Servo) (i : Nat) (f : Input → Input) : (g.modInput i f).input i = f (g.input i) := by
  rw [input_modInput, if_pos rfl]
theorem input_modInput_other (g : Servo) (f : Input → Input) (hj : j ≠ i) : (g.modInput i f).input j = g.input j := by
  rw [input_modInput, if_neg hj]

theorem loop_modLoop (g : Servo) (i : Nat) (f : Loop → Loop) (j : Nat) : (g.modLoop i f).loop j = if j = i then f (g.loop i) else g.loop j :=
  SMap.getD_setD _ _ _ _ _
@[simp] theorem loop_modLoop_same (g : Servo) (i : Nat) (f : Loop → Loop) : (g.modLoop i f).loop i = f (g.loop i) := by
  rw [loop_modLoop, if_pos rfl]
theorem loop_modLoop_other (g : Servo) (f : Loop → Loop) (hj : j ≠ i) : (g.modLoop i f).loop j = g.loop j := by
  rw [loop_modLoop, if_neg hj]

/-! ### Each engine by itself -/

/-- What `f` does to one hub's engine is as `R` says; another engine, and whether firmware runs, it leaves. -/
structure ByEngine (f : State → Hub → State) (R : Servo → Servo → Prop) : Prop where
  own : ∀ s h, R (engOf s h) (engOf (f s h) h)
  other : ∀ s h k, k ≠ h → engOf (f s h) k = engOf s k
  runs : ∀ s h k, firmwareRuns (hubOf (f s h) k) = firmwareRuns (hubOf s k)

theorem ByEngine.modEng (F : Servo → Servo) : ByEngine (fun s h => modEng s h F) (fun g k => k = F g) :=
  ⟨fun s h => engOf_modEng_same s h F, fun s _ _ hk => engOf_modEng_other s hk F, fun s h k => congrArg firmwareRuns (hubOf_modEng s h F k)⟩

theorem onEngines_engine {f : State → Hub → State} {R : Servo → Servo → Prop} (hf : ByEngine f R) (s : State) (h : Hub) :
    (firmwareRuns (hubOf s h) = true → R (engOf s h) (engOf (onEngines s f) h)) ∧
      (firmwareRuns (hubOf s h) = false → engOf (onEngines s f) h = engOf s h) := by
  have hstep (s : State) (k : Hub) : let t := if firmwareRuns (hubOf s k) then f s k else s
      (firmwareRuns (hubOf s k) = true → R (engOf s k) (engOf t k)) ∧ (firmwareRuns (hubOf s k) = false → engOf t k = engOf s k) ∧
        (∀ m, m ≠ k → engOf t m = engOf s m) ∧ ∀ m, firmwareRuns (hubOf t m) = firmwareRuns (hubOf s m) := by
    dsimp only
    split
    · rename_i hr
      exact ⟨fun _ => hf.own s k, fun h => absurd (hr.symm.trans h) (by decide), fun m hm => hf.other s k m hm, hf.runs s k⟩
    · exact ⟨fun h => absurd h ‹_›, fun _ => rfl, fun _ _ => rfl, fun _ => rfl⟩
  unfold onEngines
  rw [List.foldl_cons, List.foldl_cons, List.foldl_nil]
  obtain ⟨ha, hna, hother, hruns⟩ := hstep s .ha
  generalize (if firmwareRuns (hubOf s Hub.ha) = true then f s Hub.ha else s) = s1 at ha hna hother hruns
  obtain ⟨hb, hnb, hother2, -⟩ := hstep s1 .hb
  cases h with
  | ha =>
    rw [hother2 .ha (by decide)]
    exact ⟨ha, hna⟩
  | hb =>
    rw [← hruns .hb, ← hother .hb (by decide)]
    exact ⟨hb, hnb⟩

theorem engOf_onEngines {f : State → Hub → State} {F : Servo → Servo} (hf : ByEngine f (fun g k => k = F g)) (s : State) (h : Hub) :
    engOf (onEngines s f) h = if firmwareRuns (hubOf s h) then F (engOf s h) else engOf s h := by
  obtain ⟨hrun, hno⟩ := onEngines_engine hf s h
  split
  · exact hrun ‹_›
  · exact hno (Bool.eq_false_iff.2 ‹_›)

/-- What `onEngines` leaves, where each step leaves it. -/
theorem onEngines_induct {P : State → Prop} {f : State → Hub → State} (hs : P s) (hf : ∀ t h, P t → P (f t h)) : P (onEngines s f) := by
  refine List.foldlRecOn (motive := P) _ _ hs fun t ht h _ => ?_
  split
  · exact hf t h ht
  · exact ht

/-! ### Captures -/

theorem captureEvent_inputs (s : State) (i : Nat) (h : Hub) : (engOf (captureEvent s i) h).inputs = (engOf s h).inputs := by
  unfold captureEvent
  split
  · rfl
  · rename_i k _
    by_cases hk : h = k
    · subst hk
      rw [engOf_modEng_same]
      split <;> rfl
    · rw [engOf_modEng_other s hk]

theorem input_captureEvent (s : State) (i : Nat) (h : Hub) (j : Nat) : (engOf (captureEvent s i) h).input j = (engOf s h).input j := by
  rw [Servo.input, captureEvent_inputs, Servo.input]

theorem captureEvent_other (ha : s.active ≠ some h) (i : Nat) : engOf (captureEvent s i) h = engOf s h := by
  unfold captureEvent
  split
  · rfl
  · rename_i k hk
    exact engOf_modEng_other s (fun e => ha (hk.trans (congrArg some e.symm))) _

theorem captureEvent_pl (s : State) (i : Nat) : (captureEvent s i).pl = s.pl := by
  unfold captureEvent
  split
  · rfl
  · exact setEng_pl s _ _

theorem captureEvent_active (s : State) (i : Nat) : (captureEvent s i).active = s.active := by
  unfold captureEvent
  split
  · rfl
  · exact setEng_active s _ _

end Sys2Proof.Machine
end

section
/-!
SUPPORT. Edges and tiles as the servo engines take them: pulse lines, AINs in event mode, frame syncs, stuck lines and stream slots
(R424 to R438, R443).
-/
namespace Sys2Proof.Machine
open Sys2Proof

variable {s t u : State} {h k : Hub} {g : Servo} {i j n slot : Nat} {b : Bundle}

/-! ### An edge on a line (R437) -/

/-- What an edge makes of an engine: an overrun edge is counted, another one applied. -/
def edgeTaken (i a t : Nat) (apply : Servo → Servo) (g : Servo) : Servo := if g.overruns i t then g.overrun i a else apply g

theorem lineEdge_frame (s : State) (h : Hub) (i a t : Nat) (apply : Servo → Servo) :
    engOf (lineEdge s h i a t apply) h = edgeTaken i a t apply (engOf s h) ∧ (∀ k, k ≠ h → engOf (lineEdge s h i a t apply) k = engOf s k) ∧
      (∀ k, firmwareRuns (hubOf (lineEdge s h i a t apply) k) = firmwareRuns (hubOf s k)) ∧ (lineEdge s h i a t apply).active = s.active := by
  have hset (g : Servo) : (∀ k, firmwareRuns (hubOf (setEng s h g) k) = firmwareRuns (hubOf s k)) ∧ (setEng s h g).active = s.active :=
    ⟨fun k => congrArg firmwareRuns (hubOf_setEng s h g k), setEng_active s h g⟩
  unfold lineEdge edgeTaken
  dsimp only
  split
  · split
    · have hc := srvReport_core (setEng s h ((engOf s h).overrun i a)) F.srvEventOverrun C.srvInOverrun (d4 a)
      exact ⟨(engOf_srvReport _ _ _ _ h).trans (engOf_setEng_same s h _), fun k hk => (engOf_srvReport _ _ _ _ k).trans (engOf_setEng_other s hk _),
        fun k => (firmwareRuns_of_core hc k).trans ((hset _).1 k), hc.active.trans (hset _).2⟩
    · exact ⟨engOf_setEng_same s h _, fun k hk => engOf_setEng_other s hk _, hset _⟩
  · exact ⟨engOf_setEng_same s h _, fun k hk => engOf_setEng_other s hk _, hset _⟩

/-- The edge of an engine that takes it where `sees` says so. -/
def edgeSeen (sees : Servo → Prop) [DecidablePred sees] (i a : Nat) (t : Servo → Nat) (apply : Servo → Servo) (g : Servo) : Servo :=
  if sees g then edgeTaken i a (t g) apply g else g

theorem lineEdge_byEngine (sees : Servo → Prop) [DecidablePred sees] (i a : Nat) (t : Servo → Nat) (apply : Servo → Servo → Servo) :
    ByEngine (fun s h => if sees (engOf s h) then lineEdge s h i a (t (engOf s h)) (apply (engOf s h)) else s)
      (fun g k => k = edgeSeen sees i a t (apply g) g) where
  own s h := by
    unfold edgeSeen
    split
    · exact (lineEdge_frame s h i a _ _).1
    · rfl
  other s h k hk := by
    split
    · exact (lineEdge_frame s h i a _ _).2.1 k hk
    · rfl
  runs s h k := by
    split
    · exact (lineEdge_frame s h i a _ _).2.2.1 k
    · rfl

theorem overrun_input (g : Servo) (i a : Nat) : ((g.overrun i a).input i).overs = min ((g.input i).overs + 1) 0x1FFFF ∧
    ((g.overrun i a).input i).last = (g.input i).last ∧ ((g.overrun i a).input a).count = (g.input a).count ∧
    ((g.overrun i a).input a).st = if (g.input a).st = .armed then .overrun else (g.input a).st := by
  unfold Servo.overrun
  rw [input_modInput_same, input_modInput, input_modInput_same, input_modInput]
  by_cases hia : i = a
  · subst hia
    rw [if_pos rfl]
    by_cases hst : (g.input i).st = .armed
    · simp [countOver, hst]
    · simp [countOver, hst]
  · rw [if_neg hia, if_neg (Ne.symm hia)]
    by_cases hst : (g.input a).st = .armed
    · simp [countOver, hst]
    · simp [countOver, hst]

theorem applyEdge_input (g : Servo) (i t : Nat) (level : Bool) : let a := i / 2 * 2
    ((g.applyEdge i t level).input i).level = level ∧ ((g.applyEdge i t level).input i).last = some t ∧
      ((g.applyEdge i t level).input a).count = (g.input a).count +
        (if ((g.input a).st == .masked || (g.input (a + 1)).st == .masked) = true then 0 else BitVec.ofInt 32 (g.countStep i level)) := by
  unfold Servo.applyEdge
  dsimp only
  generalize g.countStep i level = d
  generalize i / 2 * 2 = a
  rw [input_modInput_same, input_modInput]
  by_cases hia : i = a
  · subst hia
    rw [if_pos rfl, input_modInput_same]
    refine ⟨rfl, rfl, ?_⟩
    dsimp only
    split <;> rfl
  · rw [if_neg hia, input_modInput_same, input_modInput_other _ _ (Ne.symm hia)]
    refine ⟨rfl, rfl, ?_⟩
    dsimp only
    split <;> rfl

/-! ### The capture that an edge may start (R435) -/

/-- The engines `v` after an edge, the capture of the active one started where the edge counts for it. -/
def captured (s v : State) (counts : Servo → Bool) (i : Nat) : State :=
  match s.active with
  | some h => if counts (engOf s h) then captureEvent v i else v
  | none => v

theorem captured_engine {v : State} (hv : engOf v h = g) (hva : v.active = s.active) (counts : Servo → Bool) (i : Nat) :
    (∀ j, (engOf (captured s v counts i) h).input j = g.input j) ∧ (counts (engOf s h) = false → engOf (captured s v counts i) h = g) := by
  unfold captured
  split
  · rename_i k ha
    split
    · rename_i hc
      refine ⟨fun j => (input_captureEvent v i h j).trans (congrArg (fun g : Servo => g.input j) hv), fun hno => ?_⟩
      have hk : k ≠ h := by
        rintro rfl
        rw [hno] at hc
        cases hc
      exact (captureEvent_other (by rw [hva, ha]; exact fun e => hk (Option.some.inj e)) i).trans hv
    · exact ⟨fun j => congrArg (fun g : Servo => g.input j) hv, fun _ => hv⟩
  · exact ⟨fun j => congrArg (fun g : Servo => g.input j) hv, fun _ => hv⟩

/-! ### Pulse edges (R436) -/

/-- What a pulse edge makes of an engine. -/
def pulseSeen (i : Nat) (level : Bool) (t held : Nat) (g : Servo) : Servo :=
  edgeSeen (fun g => g.filtered i held = true) i (i / 2 * 2) (fun g => g.stamp i t) (fun g => g.applyEdge i (g.stamp i t) level) g

theorem lineEdge_active (s : State) (h : Hub) (i a t : Nat) (apply : Servo → Servo) : (lineEdge s h i a t apply).active = s.active :=
  (lineEdge_frame s h i a t apply).2.2.2

/-- The engines after a pulse edge, before a capture that waits for it starts. -/
def pulsePassed (s : State) (i : Nat) (level : Bool) (t held : Nat) : State :=
  onEngines s (fun s h => if (engOf s h).filtered i held = true then
    lineEdge s h i (i / 2 * 2) ((engOf s h).stamp i t) (fun g => g.applyEdge i ((engOf s h).stamp i t) level) else s)

theorem pulsePassed_engine (s : State) (i : Nat) (level : Bool) (t held : Nat) (h : Hub) : engOf (pulsePassed s i level t held) h =
    if firmwareRuns (hubOf s h) then pulseSeen i level t held (engOf s h) else engOf s h :=
  engOf_onEngines (lineEdge_byEngine (fun g => g.filtered i held = true) i (i / 2 * 2) (fun g => g.stamp i t) (fun g k => k.applyEdge i (g.stamp i t) level)) s h

theorem pulsePassed_active (s : State) (i : Nat) (level : Bool) (t held : Nat) : (pulsePassed s i level t held).active = s.active := by
  refine onEngines_induct (P := fun t : State => t.active = s.active) rfl fun t h ht => ?_
  split
  · exact (lineEdge_active _ _ _ _ _ _).trans ht
  · exact ht

theorem pulseEdge_eq (hp : s.phase = .running) (hi : isPulse i = true) (level : Bool) (t held : Nat) :
    exec (.pulseEdge i level t held) s = .next (captured s (pulsePassed s i level t held)
      (fun g => g.filtered i held && g.activeLevel i level && !g.overruns i (g.stamp i t)) i) := by
  refine congrArg done ((if_neg ?_).trans ?_)
  · simp [hp, hi]
  · rfl

/-- An engine after a pulse edge: its inputs are those of the edge, and one that the edge does not reach is as it was. -/
theorem pulseEdge_engine (hp : s.phase = .running) (hf : firmwareRuns (hubOf s h) = true) (hi : isPulse i = true) (level : Bool) (t held : Nat) :
    ∃ u, exec (.pulseEdge i level t held) s = .next u ∧ (∀ j, (engOf u h).input j = (pulseSeen i level t held (engOf s h)).input j) ∧
      ((engOf s h).filtered i held = false → engOf u h = pulseSeen i level t held (engOf s h)) := by
  obtain ⟨hin, hall⟩ := captured_engine ((pulsePassed_engine s i level t held h).trans (if_pos hf)) (pulsePassed_active s i level t held)
    (fun g => g.filtered i held && g.activeLevel i level && !g.overruns i (g.stamp i t)) i
  exact ⟨_, pulseEdge_eq hp hi level t held, hin, fun hno => hall (by rw [hno]; rfl)⟩

/-! ### AINs in event mode -/

/-- What the event of an AIN makes of an engine. -/
def ainSeen (n t : Nat) (g : Servo) : Servo :=
  edgeSeen (fun g => g.mode n = 2 ∧ (g.input n).st ≠ .masked) n n (fun _ => t) (fun g => g.modInput n (fun x => { x with level := true, last := some t })) g

/-- The engines after the event of an AIN, before a capture that waits for it starts. -/
def ainPassed (s : State) (n t : Nat) : State :=
  onEngines s (fun s h => if (engOf s h).mode n = 2 ∧ ((engOf s h).input n).st ≠ .masked then
    lineEdge s h n n t (fun g => g.modInput n (fun x => { x with level := true, last := some t })) else s)

theorem ainPassed_engine (s : State) (n t : Nat) (h : Hub) : engOf (ainPassed s n t) h =
    if firmwareRuns (hubOf s h) then ainSeen n t (engOf s h) else engOf s h :=
  engOf_onEngines (lineEdge_byEngine (fun g => g.mode n = 2 ∧ (g.input n).st ≠ .masked) n n (fun _ => t)
    (fun _ k => k.modInput n (fun x => { x with level := true, last := some t }))) s h

theorem ainPassed_active (s : State) (n t : Nat) : (ainPassed s n t).active = s.active := by
  refine onEngines_induct (P := fun t : State => t.active = s.active) rfl fun t h ht => ?_
  split
  · exact (lineEdge_active _ _ _ _ _ _).trans ht
  · exact ht

theorem ainEvent_eq (hp : s.phase = .running) (hn : n < 8) (t : Nat) :
    exec (.ainEvent n t) s = .next (captured s (ainPassed s n t) (fun g => g.mode n == 2 && (g.input n).st != .masked && !g.overruns n t) n) := by
  refine congrArg done ((if_neg ?_).trans ?_)
  · simp [hp, hn]
  · rfl

/-- An engine after the event of an AIN: its inputs are those of the event, and one that takes none is as it was. -/
theorem ainEvent_engine (hp : s.phase = .running) (hf : firmwareRuns (hubOf s h) = true) (hn : n < 8) (t : Nat) :
    ∃ u, exec (.ainEvent n t) s = .next u ∧ (∀ j, (engOf u h).input j = (ainSeen n t (engOf s h)).input j) ∧
      ((engOf s h).mode n ≠ 2 ∨ ((engOf s h).input n).st = .masked → engOf u h = ainSeen n t (engOf s h)) := by
  obtain ⟨hin, hall⟩ := captured_engine ((ainPassed_engine s n t h).trans (if_pos hf)) (ainPassed_active s n t)
    (fun g => g.mode n == 2 && (g.input n).st != .masked && !g.overruns n t) n
  refine ⟨_, ainEvent_eq hp hn t, hin, fun hno => hall ?_⟩
  rcases hno with hm | hst
  · simp [hm]
  · simp [hst]

/-! ### Frame syncs (R297, R438) -/

/-- The engines with the time of a frame sync's edge. -/
def fsyncStamped (s : State) (i t : Nat) : State := onEngines s (fun s h => modEng s h (fun g => g.modInput i (fun x => { x with level := true, last := some (g.stamp i t) })))

/-- The frame of a bundle that takes its frames from FSYNC n starts at t. -/
def frameFrom (n t : Nat) (s : State) (e : Nat × Bundle) : State :=
  if e.2.img.limits.framePeriod ≠ 0 ∧ e.2.img.limits.frameStart = n + 1 ∧ e.2.everStarted = true then frameStart s e.1 e.2.frameK t else s

theorem onEngines_modEng_pl (s : State) (f : Servo → Servo) : (onEngines s (fun s h => modEng s h f)).pl = s.pl :=
  onEngines_induct (P := fun t : State => t.pl = s.pl) rfl fun t h ht => (setEng_pl t h _).trans ht
theorem onEngines_modEng_active (s : State) (f : Servo → Servo) : (onEngines s (fun s h => modEng s h f)).active = s.active :=
  onEngines_induct (P := fun t : State => t.active = s.active) rfl fun t h ht => (setEng_active t h _).trans ht

/-- The engines stamped and the capture started leave bundles and the active hub. -/
theorem fsyncStamped_frame (s : State) (i t : Nat) : (captureEvent (fsyncStamped s i t) i).pl = s.pl ∧ (captureEvent (fsyncStamped s i t) i).active = s.active :=
  ⟨(captureEvent_pl _ i).trans (onEngines_modEng_pl s _), (captureEvent_active _ i).trans (onEngines_modEng_active s _)⟩

section
variable {t held : Nat}

theorem fsyncEdge_unfiltered (ha : s.active = some h) (hno : (engOf s h).filtered (24 + n) held = false) : exec (.fsyncEdge n t held) s = .next s := by
  refine congrArg done (if_pos ?_)
  rw [ha]
  exact .inr (.inr hno)

theorem fsyncEdge_filtered (hp : s.phase = .running) (ha : s.active = some h) (hn : n < 4) (hf : (engOf s h).filtered (24 + n) held = true) :
    exec (.fsyncEdge n t held) s = .next (
      if (engOf s h).overruns (24 + n) ((engOf s h).stamp (24 + n) t) then onEngines s (fun s h => modEng s h (fun g => g.modInput (24 + n) countOver))
      else if ((engOf s h).input (24 + n)).st = .masked then fsyncStamped s (24 + n) t
      else s.pl.slots.foldl (frameFrom n ((engOf s h).stamp (24 + n) t))
        (captureEvent (fsyncStamped s (24 + n) t) (24 + n))) := by
  have hgo : ¬(s.phase ≠ .running ∨ 4 ≤ n ∨ (engOf s (s.active.getD .ha)).filtered (24 + n) held = false) := by
    rw [ha, Option.getD_some, hf]
    simp [hp, hn]
  refine congrArg done ((if_neg hgo).trans ?_)
  have hslots : (captureEvent (fsyncStamped s (24 + n) t) (24 + n)).pl.slots = s.pl.slots :=
    congrArg Placer.slots (fsyncStamped_frame s _ _).1
  rw [ha, Option.getD_some, ← hslots]
  rfl

end

theorem slotBundle_modBundle_other (s : State) {m : Nat} (h : slot ≠ m) (f : Bundle → Bundle) : slotBundle (modBundle s m f) slot = slotBundle s slot := by
  unfold modBundle
  split
  · exact SMap.find_insert_ne _ _ h
  · rfl

theorem frameStarted_of_active (ha : t.active = s.active) (number start : Nat) : frameStarted t number start = frameStarted s number start := by
  unfold frameStarted
  rw [ha]

theorem frameFrom_active (t : Nat) (s : State) (e : Nat × Bundle) : (frameFrom n t s e).active = s.active := by
  unfold frameFrom
  split
  · exact modBundle_active _ _ _
  · rfl

theorem frameFrom_other (t : Nat) (s : State) {e : Nat × Bundle} (h : slot ≠ e.1) : slotBundle (frameFrom n t s e) slot = slotBundle s slot := by
  unfold frameFrom
  split
  · exact slotBundle_modBundle_other s h _
  · rfl

theorem foldl_frameFrom_other (t : Nat) {l : List (Nat × Bundle)} (h : slot ∉ l.map (fun e => e.1)) (s : State) :
    slotBundle (l.foldl (frameFrom n t) s) slot = slotBundle s slot := by
  refine List.foldlRecOn (motive := fun u : State => slotBundle u slot = slotBundle s slot) _ _ rfl fun u hu e he => ?_
  exact (frameFrom_other t u fun heq => h (List.mem_map.2 ⟨e, he, heq.symm⟩)).trans hu

/-- Of bundles in slots of their own, one that takes its frames from the line has one more. -/
theorem foldl_frameFrom (t : Nat) {l : List (Nat × Bundle)} (hl : (l.map (fun e => e.1)).Nodup) (hb : (slot, b) ∈ l)
    (hf : b.img.limits.framePeriod ≠ 0 ∧ b.img.limits.frameStart = n + 1 ∧ b.everStarted = true) (s : State) (hs : slotBundle s slot = some b) :
    slotBundle (l.foldl (frameFrom n t) s) slot = some (frameStarted s b.frameK t b) := by
  induction l generalizing s with
  | nil => exact absurd hb List.not_mem_nil
  | cons e r ih =>
    obtain ⟨hnot, hr⟩ := List.nodup_cons.1 hl
    rw [List.foldl_cons]
    rcases List.mem_cons.1 hb with rfl | hb
    · rw [foldl_frameFrom_other t hnot, frameFrom, if_pos hf, frameStart_eq]
      exact slotBundle_modBundle hs _
    · have hne : slot ≠ e.1 := fun heq => hnot (List.mem_map.2 ⟨(slot, b), hb, heq⟩)
      rw [ih hr hb _ ((frameFrom_other t s hne).trans hs), frameStarted_of_active (frameFrom_active t s e)]

theorem frameStarted_running (hst : b.st = .running) (ha : s.active = some h) (number start : Nat) :
    (frameStarted s number start b).frameK = b.frameK + 1 ∧ (⟨number % 2 ^ 32, start, false⟩ : Frame) ∈ (frameStarted s number start b).frames := by
  have hgo : (b.st = .running && s.active.isSome) = true := by simp [hst, ha]
  unfold frameStarted
  dsimp only
  rw [if_pos hgo, List.length_append, List.length_singleton, List.drop_append_of_le_length (by omega)]
  exact ⟨rfl, List.mem_append_right _ (List.mem_singleton_self _)⟩

/-! ### Stuck lines (R438) -/

theorem inputStuck_idle (ha : s.active = some h) (hno : ((engOf s h).input i).st = .masked ∨ (engOf s h).par 1 i 0x33 0 = 0) :
    exec (.inputStuck i) s = .next s := by
  refine congrArg done ?_
  rw [ha]
  refine if_neg ?_
  rintro ⟨-, -, hpar, hst⟩
  exact hno.elim hst hpar

theorem inputStuck_masks (hp : s.phase = .running) (ha : s.active = some h) (hf : firmwareRuns (hubOf s h) = true) (hi : i < 28)
    (hst : ((engOf s h).input i).st ≠ .masked) (hpar : (engOf s h).par 1 i 0x33 0 ≠ 0) : ∃ t, exec (.inputStuck i) s = .next t ∧
      ((engOf t h).input i).st = .masked ∧ fld t F.srvEventStuck = 1 := by
  refine ⟨_, congrArg done (?_ : _ = srvReport (onEngines s (fun s h => modEng s h (fun g => g.modInput i (fun x => { x with st := .masked }))))
    F.srvEventStuck C.srvInStuck (d4 i)), ?_, ?_⟩
  · rw [ha]
    exact if_pos ⟨hp, hi, hpar, hst⟩
  · rw [engOf_srvReport, engOf_onEngines (ByEngine.modEng _), if_pos hf, input_modInput_same]
  · exact (fld_report _ _ _ _ _ (by decide)).trans (fld_setEvent _ (by decide) rfl)

/-! ### Stream slots (R427, R443) -/

/-- What a stale slot makes of an engine. -/
def staleSeen (s : State) (slot : Nat) (g : Servo) : Servo :=
  if g.par 3 0 0x40 slot ≠ 0 ∧ slotLive s g slot = false ∧ g.stale.contains slot = false then { g with stale := g.stale ++ [slot] } else g

theorem slotLive_of_pl (hp : t.pl = s.pl) (g : Servo) (n : Nat) : slotLive t g n = slotLive s g n := by
  unfold slotLive
  rw [hp]

theorem servoStreamStale_engine (hp : s.phase = .running) (slot : Nat) (h : Hub) :
    ∃ t, exec (.servoStreamStale slot) s = .next t ∧ engOf t h = staleSeen s slot (engOf s h) := by
  have hstep (u : State) (k : Hub) (hu : u.pl = s.pl) :
      (if (engOf u k).par 3 0 0x40 slot ≠ 0 ∧ slotLive u (engOf u k) slot = false ∧ (engOf u k).stale.contains slot = false then
        setEng u k { engOf u k with stale := (engOf u k).stale ++ [slot] } else u) = setEng u k (staleSeen s slot (engOf u k)) := by
    have hself : setEng u k (engOf u k) = u := by cases k <;> rfl
    unfold staleSeen
    rw [slotLive_of_pl hu]
    split
    · rfl
    · exact hself.symm
  refine ⟨setEng (setEng s .ha (staleSeen s slot (engOf s .ha))) .hb (staleSeen s slot (engOf s .hb)), congrArg done ((if_neg (not_not.2 hp)).trans ?_), ?_⟩
  · rw [List.foldl_cons, List.foldl_cons, List.foldl_nil]
    dsimp only
    rw [hstep s .ha rfl, hstep _ .hb (setEng_pl _ _ _), engOf_setEng_other s (by decide)]
  · cases h <;> rfl

/-- The servo's own slots of a stream. -/
def boundSlots (g : Servo) (id : Nat) : List Nat := (List.range 8).filter (fun k => g.par 3 0 0x40 k == id)

/-- An engine with the elements of a tile of a stream, taken at time `at_`. -/
def tileTaken (at_ id : Nat) (q : Tile) (g : Servo) : Servo :=
  { g with
    inVals := (boundSlots g id).foldl (fun m k => (withIdx (wordsOf (q.payload.take 256))).foldl (fun m p => SMap.setD m (64 * k + p.1) p.2 0) m) g.inVals
    inTime := (boundSlots g id).foldl (fun m k => SMap.insert m k at_) g.inTime
    stale := g.stale.filter (fun k => !(boundSlots g id).contains k) }

theorem servoTake_eq (s : State) (h : Hub) (id : Nat) (q : Tile) : servoTake s h id q =
    if (boundSlots (engOf s h) id).isEmpty ∨ q.hdr.shape ≠ 0x60 ∨ q.poisoned = true then bumpEv s (evHub Ev.srvStreamDiscard h) noCtx 1
    else setEng s h (tileTaken (now s) id q (engOf s h)) := rfl

theorem hubOf_bumpEv (s : State) (ev : Nat) (c : EvCtx) (n : Nat) (k : Hub) : hubOf (bumpEv s ev c n) k = hubOf s k := by
  rw [bumpEv_frame]
  cases k
  · rfl
  · rfl

/-- How an engine stands after a tile of a stream: without a change, or with its elements. -/
def TakesTile (id : Nat) (q : Tile) (g k : Servo) : Prop :=
  if (boundSlots g id).isEmpty ∨ q.hdr.shape ≠ 0x60 ∨ q.poisoned = true then k = g else ∃ at_, k = tileTaken at_ id q g

theorem servoTake_byEngine (id : Nat) (q : Tile) : ByEngine (fun s h => servoTake s h id q) (TakesTile id q) where
  own s h := by
    rw [servoTake_eq, TakesTile]
    split
    · exact engOf_bumpEv s _ _ _ h
    · exact ⟨now s, engOf_setEng_same s h _⟩
  other s h k hk := by
    rw [servoTake_eq]
    split
    · exact engOf_bumpEv s _ _ _ k
    · exact engOf_setEng_other s hk _
  runs s h k := by
    rw [servoTake_eq]
    split
    · exact congrArg firmwareRuns (hubOf_bumpEv s _ _ _ k)
    · exact congrArg firmwareRuns (hubOf_setEng s h _ k)

theorem servoTake_pl (s : State) (h : Hub) (id : Nat) (q : Tile) : (servoTake s h id q).pl = s.pl := by
  rw [servoTake_eq]
  split
  · exact bumpEv_pl s _ _ _
  · exact setEng_pl s h _

/-- A stream's tile for the servo engine, taken from its flight. -/
theorem servoStreamTile_eq {si : Nat} {v : StreamAt} {p : Nat × ConsumerRec} {f : Flight} (hv : streamAt s slot si = some v)
    (hp : (withIdx v.r.cons).find? (fun p => p.2.station == 0xFFFE) = some p) (hf : oldestFor v.x p.1 = some f) :
    exec (.servoStreamTile slot si) s = .next (onEngines (modStream s slot si (fun x => { x with flight := takeFlight p.1 x.flight }))
      (fun s h => servoTake s h v.r.id f.tile)) := by
  refine congrArg done ?_
  rw [hv]
  dsimp only
  rw [hp]
  dsimp only
  rw [hf]
  rfl

theorem engOf_modBundle (s : State) (n : Nat) (f : Bundle → Bundle) (h : Hub) : engOf (modBundle s n f) h = engOf s h := by
  unfold modBundle
  split <;> cases h <;> rfl

theorem hubOf_modBundle (s : State) (n : Nat) (f : Bundle → Bundle) (h : Hub) : hubOf (modBundle s n f) h = hubOf s h := by
  unfold modBundle
  split <;> cases h <;> rfl

theorem streamAt_bundle {si : Nat} {v : StreamAt} (h : streamAt s slot si = some v) : slotBundle s slot = some v.b ∧ v.b.streams[si]? = some v.x := by
  unfold streamAt at h
  split at h
  · cases h
  · rename_i b hb
    split at h
    · rename_i r x hr hx
      cases h
      exact ⟨hb, hx⟩
    · cases h

theorem length_wordsOf : ∀ (n : Nat) (l : List Byte), l.length = 4 * n → (wordsOf l).length = n
  | 0, l, h => by
    rw [List.eq_nil_of_length_eq_zero h]
    rfl
  | n + 1, b0 :: b1 :: b2 :: b3 :: r, h => by
    rw [wordsOf, List.length_cons, length_wordsOf n r (by simp only [List.length_cons] at h; omega)]

/-- A key of a run of words takes its word, another key stays. -/
theorem getD_foldl_words (base : Nat) (ws : List Word) (j : Nat) : ∀ (k : Nat) (m : SMap Word),
    SMap.getD (((List.range' k ws.length).zip ws).foldl (fun m p => SMap.setD m (base + p.1) p.2 0) m) j 0 =
      if base + k ≤ j ∧ j < base + k + ws.length then ws.getD (j - (base + k)) 0 else SMap.getD m j 0 := by
  induction ws with
  | nil =>
    intro k m
    rw [if_neg (by simp only [List.length_nil]; omega)]
    rfl
  | cons w r ih =>
    intro k m
    rw [List.length_cons, List.range'_succ, List.zip_cons_cons, List.foldl_cons, ih, SMap.getD_setD]
    by_cases hj : j = base + k
    · subst hj
      rw [if_neg (by omega), if_pos rfl, if_pos (by omega), Nat.sub_self]
      rfl
    · by_cases hin : base + (k + 1) ≤ j ∧ j < base + (k + 1) + r.length
      · rw [if_pos hin, if_pos (by omega), show j - (base + k) = j - (base + (k + 1)) + 1 by omega]
        rfl
      · rw [if_neg hin, if_neg hj, if_neg (by omega)]

theorem withIdx_eq {α : Type} (l : List α) : withIdx l = (List.range' 0 l.length).zip l := by
  rw [withIdx, List.range_eq_range']

/-- Of the slots that take 64 words each, one of them holds its words. -/
theorem getD_slots {ws : List Word} (hw : ws.length = 64) {k e : Nat} (he : e < 64) : ∀ (l : List Nat) (m : SMap Word),
    k ∈ l ∨ SMap.getD m (64 * k + e) 0 = ws.getD e 0 →
    SMap.getD (l.foldl (fun m k => (withIdx ws).foldl (fun m p => SMap.setD m (64 * k + p.1) p.2 0) m) m) (64 * k + e) 0 = ws.getD e 0 := by
  intro l
  induction l with
  | nil => exact fun m h => h.resolve_left List.not_mem_nil
  | cons a r ih =>
    intro m h
    refine ih _ ?_
    rw [withIdx_eq, getD_foldl_words (64 * a) ws (64 * k + e) 0 m, hw]
    by_cases hk : k = a
    · subst hk
      rw [if_pos (by omega), show 64 * k + e - (64 * k + 0) = e by omega]
      exact .inr rfl
    · rw [if_neg (by omega)]
      exact h.imp_left fun hm => (List.mem_cons.1 hm).resolve_left hk

theorem mem_boundSlots {id : Nat} (hk : k8 < 8) (hp : g.par 3 0 0x40 k8 = id) : k8 ∈ boundSlots g id :=
  List.mem_filter.2 ⟨List.mem_range.2 hk, beq_iff_eq.2 hp⟩

end Sys2Proof.Machine

namespace Sys2Proof.Proofs
open Sys2Proof Sys2Proof.Machine

/-- A pulse edge on an engine whose firmware runs (R436, R437). -/
theorem pulseEdge_latched (s : State) (h : Hub) (i t held : Nat) (level : Bool) (hp : s.phase = .running) (hf : firmwareRuns (hubOf s h) = true)
    (hi : isPulse i = true) :
    let g := engOf s h
    let a := i / 2 * 2
    let frozen : Bool := (g.input a).st == .masked || (g.input (a + 1)).st == .masked
    let after (P : Servo → Prop) : Prop := ∃ u, exec (.pulseEdge i level t held) s = .next u ∧ P (engOf u h)
    (g.filtered i held = false → after (fun k => k = g)) ∧
    (g.filtered i held = true → g.overruns i (g.stamp i t) = false → after (fun k => (k.input i).level = level ∧ (k.input i).last = some (g.stamp i t) ∧
      (k.input a).count = (g.input a).count + (if frozen then 0 else BitVec.ofInt 32 (g.countStep i level)))) ∧
    (g.filtered i held = true → g.overruns i (g.stamp i t) = true → after (fun k => (k.input i).overs = min ((g.input i).overs + 1) 0x1FFFF ∧
      (k.input a).count = (g.input a).count ∧ (k.input a).st = (if (g.input a).st = .armed then .overrun else (g.input a).st))) := by
  intro g a frozen after
  obtain ⟨u, hu, hin, hall⟩ := pulseEdge_engine hp hf hi level t held
  have hseen (hfil : g.filtered i held = true) : pulseSeen i level t held g = edgeTaken i a (g.stamp i t) (fun g' => g'.applyEdge i (g.stamp i t) level) g :=
    if_pos hfil
  refine ⟨fun hno => ⟨u, hu, (hall hno).trans (if_neg (Bool.eq_false_iff.1 hno))⟩, fun hfil hov => ⟨u, hu, ?_⟩, fun hfil hov => ⟨u, hu, ?_⟩⟩
  · have he : pulseSeen i level t held g = g.applyEdge i (g.stamp i t) level := (hseen hfil).trans (if_neg (by rw [hov]; decide))
    dsimp only
    rw [hin, hin, he]
    exact applyEdge_input g i (g.stamp i t) level
  · have he : pulseSeen i level t held g = g.overrun i a := (hseen hfil).trans (if_pos hov)
    obtain ⟨hovers, -, hcount, hst⟩ := overrun_input g i a
    dsimp only
    rw [hin, hin, he]
    exact ⟨hovers, hcount, hst⟩

/-- The event of an AIN on an engine whose firmware runs (R424, R437). -/
theorem ainEvent_latched (s : State) (h : Hub) (n t : Nat) (hp : s.phase = .running) (hf : firmwareRuns (hubOf s h) = true) (hn : n < 8) :
    let g := engOf s h
    let after (P : Servo → Prop) : Prop := ∃ u, exec (.ainEvent n t) s = .next u ∧ P (engOf u h)
    (g.mode n ≠ 2 ∨ (g.input n).st = .masked → after (fun k => k = g)) ∧
    (g.mode n = 2 → (g.input n).st ≠ .masked →
      (g.overruns n t = false → after (fun k => (k.input n).level = true ∧ (k.input n).last = some t)) ∧
      (g.overruns n t = true → after (fun k => (k.input n).overs = min ((g.input n).overs + 1) 0x1FFFF ∧ (k.input n).last = (g.input n).last ∧
        (k.input n).st = (if (g.input n).st = .armed then .overrun else (g.input n).st)))) := by
  intro g after
  obtain ⟨u, hu, hin, hall⟩ := ainEvent_engine hp hf hn t
  refine ⟨fun hno => ⟨u, hu, (hall hno).trans (if_neg ?_)⟩, fun hm hst => ⟨fun hov => ⟨u, hu, ?_⟩, fun hov => ⟨u, hu, ?_⟩⟩⟩
  · exact fun hsees => hno.elim (fun h => h hsees.1) hsees.2
  · have he : ainSeen n t g = g.modInput n (fun x => { x with level := true, last := some t }) :=
      (if_pos ⟨hm, hst⟩).trans (if_neg (by rw [hov]; decide))
    dsimp only
    rw [hin, he, input_modInput_same]
    exact ⟨rfl, rfl⟩
  · have he : ainSeen n t g = g.overrun n n := (if_pos ⟨hm, hst⟩).trans (if_pos hov)
    obtain ⟨hovers, hlast, -, hheld⟩ := overrun_input g n n
    dsimp only
    rw [hin, he]
    exact ⟨hovers, hlast, hheld⟩

/-- A frame sync (R297, R438). -/
theorem fsyncEdge_starts (s : State) (h : Hub) (n t held slot : Nat) (b : Bundle) (hp : s.phase = .running) (ha : s.active = some h) (hn : n < 4) :
    let g := engOf s h
    (g.filtered (24 + n) held = false → exec (.fsyncEdge n t held) s = .next s) ∧
    (g.filtered (24 + n) held = true → (s.pl.slots.map (fun e => e.1)).Nodup → slotBundle s slot = some b →
      (g.overruns (24 + n) (g.stamp (24 + n) t) = true ∨ (g.input (24 + n)).st = .masked →
        ∃ u, exec (.fsyncEdge n t held) s = .next u ∧ u.pl = s.pl) ∧
      (g.overruns (24 + n) (g.stamp (24 + n) t) = false → (g.input (24 + n)).st ≠ .masked → b.img.limits.framePeriod ≠ 0 →
        b.img.limits.frameStart = n + 1 → b.everStarted = true → b.st = .running →
        ∃ u c, exec (.fsyncEdge n t held) s = .next u ∧ slotBundle u slot = some c ∧ c.frameK = b.frameK + 1 ∧
          (⟨b.frameK % 2 ^ 32, g.stamp (24 + n) t, false⟩ : Frame) ∈ c.frames)) := by
  refine ⟨fsyncEdge_unfiltered ha, fun hfil hnodup hb => ⟨fun hidle => ⟨_, fsyncEdge_filtered hp ha hn hfil, ?_⟩, fun hov hst hper hline hever hrun => ?_⟩⟩
  · split
    · exact onEngines_modEng_pl s _
    · rename_i hov
      rw [if_pos (hidle.resolve_left hov)]
      exact onEngines_modEng_pl s _
  · refine ⟨_, _, fsyncEdge_filtered hp ha hn hfil, ?_, frameStarted_running hrun ha b.frameK _⟩
    rw [if_neg (by rw [hov]; decide), if_neg hst,
      foldl_frameFrom _ hnodup (SMap.mem_of_find hb) ⟨hper, hline, hever⟩ _ ((slotBundle_of_pl (fsyncStamped_frame s _ _).1 slot).trans hb),
      frameStarted_of_active (fsyncStamped_frame s _ _).2]

/-- A stream slot without its bundle (R443). -/
theorem servoStreamStale_marks (s : State) (h : Hub) (slot : Nat) (hp : s.phase = .running) :
    ((engOf s h).par 3 0 0x40 slot ≠ 0 → slotLive s (engOf s h) slot = false → ∃ t, exec (.servoStreamStale slot) s = .next t ∧ slot ∈ (engOf t h).stale) ∧
    ((engOf s h).par 3 0 0x40 slot = 0 ∨ slotLive s (engOf s h) slot = true → ∃ t, exec (.servoStreamStale slot) s = .next t ∧ engOf t h = engOf s h) := by
  obtain ⟨t, ht, he⟩ := servoStreamStale_engine hp slot h
  refine ⟨fun hid hlive => ⟨t, ht, ?_⟩, fun hno => ⟨t, ht, he.trans (if_neg ?_)⟩⟩
  · rw [he, staleSeen]
    split
    · exact List.mem_append_right _ (List.mem_singleton_self _)
    · rename_i hin
      by_contra hmem
      exact hin ⟨hid, hlive, Bool.eq_false_iff.2 fun h => hmem (List.contains_iff_mem.1 h)⟩
  · rintro ⟨hid, hlive, -⟩
    exact hno.elim hid fun h => absurd (h.symm.trans hlive) (by decide)

/-- A tile of a servo stream (R427). -/
theorem servoStreamTile_gives (s : State) (h : Hub) (slot si k : Nat) (v : StreamAt) (p : Nat × ConsumerRec) (f : Flight) (hv : streamAt s slot si = some v)
    (hp : (withIdx v.r.cons).find? (fun p => p.2.station == 0xFFFE) = some p) (hf : oldestFor v.x p.1 = some f) :
    ∃ t b y, exec (.servoStreamTile slot si) s = .next t ∧ slotBundle t slot = some b ∧ b.streams[si]? = some y ∧
      y.flight = takeFlight p.1 v.x.flight ∧
      (f.tile.hdr.shape ≠ 0x60#8 ∨ f.tile.poisoned = true → engOf t h = engOf s h) ∧
      (firmwareRuns (hubOf s h) = true → k < 8 → (engOf s h).par 3 0 0x40 k = v.r.id → f.tile.hdr.shape = 0x60#8 → f.tile.poisoned = false →
        f.tile.payload.length = 4096 → k ∉ (engOf t h).stale ∧
        ∀ e, e < 64 → SMap.getD (engOf t h).inVals (64 * k + e) 0#32 = (wordsOf (f.tile.payload.take 256)).getD e 0#32) := by
  obtain ⟨hb, hx⟩ := streamAt_bundle hv
  obtain ⟨hrun, hno⟩ := onEngines_engine (servoTake_byEngine v.r.id f.tile) (modStream s slot si (fun x => { x with flight := takeFlight p.1 x.flight })) h
  have hpl := onEngines_induct (P := fun t : State => t.pl = (modStream s slot si (fun x => { x with flight := takeFlight p.1 x.flight })).pl)
    (f := fun s h => servoTake s h v.r.id f.tile) rfl fun t h ht => (servoTake_pl t h _ _).trans ht
  have heng : engOf (modStream s slot si (fun x => { x with flight := takeFlight p.1 x.flight })) h = engOf s h := engOf_modBundle s _ _ h
  rw [heng] at hrun hno
  refine ⟨_, _, { v.x with flight := takeFlight p.1 v.x.flight }, servoStreamTile_eq hv hp hf, (slotBundle_of_pl hpl slot).trans (slotBundle_modBundle hb _),
    ?_, rfl, fun hdisc => ?_, fun hfw hk hid hshape hpois hlen => ?_⟩
  · rw [getElem?_modAt, if_pos rfl, hx]
    rfl
  · cases hr : firmwareRuns (hubOf (modStream s slot si (fun x => { x with flight := takeFlight p.1 x.flight })) h) with
    | false => exact hno hr
    | true =>
      have := hrun hr
      rwa [TakesTile, if_pos (.inr hdisc)] at this
  · have hmem := mem_boundSlots hk hid
    have htake : ¬((boundSlots (engOf s h) v.r.id).isEmpty ∨ f.tile.hdr.shape ≠ 0x60 ∨ f.tile.poisoned = true) := by
      rintro (he | hs | hq)
      · rw [List.isEmpty_iff.1 he] at hmem
        exact List.not_mem_nil hmem
      · exact hs hshape
      · exact absurd (hq.symm.trans hpois) (by decide)
    have hr : firmwareRuns (hubOf (modStream s slot si (fun x => { x with flight := takeFlight p.1 x.flight })) h) = true :=
      (congrArg firmwareRuns (hubOf_modBundle s _ _ h)).trans hfw
    have ht := hrun hr
    rw [TakesTile, if_neg htake] at ht
    obtain ⟨at_, ht⟩ := ht
    rw [ht]
    refine ⟨fun hin => ?_, fun e he => ?_⟩
    · have := (List.mem_filter.1 hin).2
      simp [hmem] at this
    · exact getD_slots (length_wordsOf 64 _ (by rw [List.length_take, hlen]; rfl)) he _ _ (.inl hmem)

/-- Settles O51: an edge that counts is latched by each engine that sees it and starts what waits for it; another one is counted or passed over;
a slot's tile gives its elements. -/
theorem servoInputsAreLatched : Obligations.ServoInputsAreLatched := by
  unfold Obligations.ServoInputsAreLatched
  exact ⟨pulseEdge_latched, ainEvent_latched, fsyncEdge_starts, fun s h i hp ha hf hi =>
    ⟨inputStuck_idle ha, inputStuck_masks hp ha hf hi⟩, servoStreamStale_marks, servoStreamTile_gives⟩

end Sys2Proof.Proofs
end

section
/-!
SUPPORT. Trips of servo loops: what a trip leaves of the engine, and what the drivers stand at (R425, R432, R433, R440).
-/
namespace Sys2Proof.Machine
open Sys2Proof

variable {s t u : State} {h k : Hub} {g : Servo} {i j n p : Nat}

/-! ### Drivers -/

/-- From `s` to `t` only the drivers changed. -/
def DriversOnly (s t : State) : Prop := ∃ d : Drivers, t = { s with drivers := d }

theorem DriversOnly.refl (s : State) : DriversOnly s s := ⟨s.drivers, rfl⟩

theorem DriversOnly.engOf (hd : DriversOnly s t) (h : Hub) : engOf t h = engOf s h := by
  obtain ⟨d, rfl⟩ := hd
  exact engOf_of_eq rfl rfl h

theorem DriversOnly.drivePin (hd : DriversOnly s t) (p : Nat) (v safe : Option Word) (loop out : Nat) : DriversOnly s (drivePin t p v safe loop out) := by
  obtain ⟨d, rfl⟩ := hd
  exact ⟨_, rfl⟩

/-- Each output of a loop that has a pin driven. -/
def driveOutputs (s : State) (pin : Nat → Option Nat) (v safe : Nat → Option Word) (loop : Nat) (l : List Nat) : State :=
  l.foldl (fun s j => match pin j with
    | some p => drivePin s p (v j) (safe j) loop j
    | none => s) s

theorem driveOutputs_only (s : State) (pin : Nat → Option Nat) (v safe : Nat → Option Word) (loop : Nat) (l : List Nat) :
    DriversOnly s (driveOutputs s pin v safe loop l) := by
  refine List.foldlRecOn (motive := fun t : State => DriversOnly s t) _ _ (.refl s) fun t ht j _ => ?_
  split
  · exact ht.drivePin _ _ _ _ _
  · exact ht

theorem driveSafe_eq (s : State) (g : Servo) (i : Nat) : driveSafe s g i =
    driveOutputs s (fun j => (g.sink i j).pin) (fun j => safeValue (g.safe i j)) (fun j => safeValue (g.safe i j)) i (List.range (g.nOutputs i)) := rfl

theorem driveSafe_only (s : State) (g : Servo) (i : Nat) : DriversOnly s (driveSafe s g i) := driveOutputs_only s _ _ _ _ _
theorem applyPins_only (s : State) (g : Servo) (i : Nat) : DriversOnly s (applyPins s g i) := driveOutputs_only s _ _ _ _ _

theorem driveOutputs_other {pin : Nat → Option Nat} {l : List Nat} (h : p ∉ l.filterMap pin) (s : State) (v safe : Nat → Option Word) (loop : Nat) :
    SMap.find (driveOutputs s pin v safe loop l).drivers.pins p = SMap.find s.drivers.pins p := by
  refine List.foldlRecOn (motive := fun t : State => SMap.find t.drivers.pins p = SMap.find s.drivers.pins p) _ _ rfl fun t ht j hj => ?_
  split
  · rename_i q hq
    exact (SMap.find_insert_ne _ _ fun heq => h (List.mem_filterMap.2 ⟨j, hj, hq.trans (congrArg some heq.symm)⟩)).trans ht
  · exact ht

/-- With a pin to each output, an output's pin stands at its value. -/
theorem driveOutputs_pin {pin : Nat → Option Nat} {l : List Nat} (hl : (l.filterMap pin).Nodup) (hj : j ∈ l) (hp : pin j = some p) (s : State)
    (v safe : Nat → Option Word) (loop : Nat) : ∃ d, SMap.find (driveOutputs s pin v safe loop l).drivers.pins p = some d ∧ d.value = v j := by
  induction l generalizing s with
  | nil => exact absurd hj List.not_mem_nil
  | cons a r ih =>
    rcases List.mem_cons.1 hj with rfl | hj
    · rw [List.filterMap_cons_some hp] at hl
      have hstep : driveOutputs s pin v safe loop (j :: r) = driveOutputs (drivePin s p (v j) (safe j) loop j) pin v safe loop r := by
        simp only [driveOutputs, List.foldl_cons, hp]
      rw [hstep, driveOutputs_other (List.nodup_cons.1 hl).1]
      exact ⟨_, SMap.find_insert_self _ _ _, rfl⟩
    · have hr : (r.filterMap pin).Nodup := by
        cases ha : pin a with
        | none => rwa [List.filterMap_cons_none ha] at hl
        | some q =>
          rw [List.filterMap_cons_some ha] at hl
          exact (List.nodup_cons.1 hl).2
      exact ih hr hj _

/-! ### What a trip leaves -/

/-- From `s` to `t` closed loops of a hub's engine may have tripped: parameters and the loops that were not closed stay, and so does a trip's event. -/
structure Trips (h : Hub) (s t : State) : Prop where
  params : (engOf t h).params = (engOf s h).params
  still : ∀ i, (engOf s h).closed i = false → (engOf t h).loop i = (engOf s h).loop i
  event : fld s F.srvEventTrip = 1 → fld t F.srvEventTrip = 1

theorem closed_of_loop {g k : Servo} (h : k.loop i = g.loop i) : k.closed i = g.closed i := by
  rw [Servo.closed, h, Servo.closed]

namespace Trips

theorem refl (h : Hub) (s : State) : Trips h s s := ⟨rfl, fun _ _ => rfl, id⟩

theorem trans (ht : Trips h s t) (hu : Trips h t u) : Trips h s u where
  params := hu.params.trans ht.params
  still i hi := (hu.still i ((closed_of_loop (ht.still i hi)).trans hi)).trans (ht.still i hi)
  event he := hu.event (ht.event he)

theorem of_engine (he : (engOf t h).params = (engOf s h).params) (hl : (engOf t h).loops = (engOf s h).loops)
    (hf : fld t F.srvEventTrip = fld s F.srvEventTrip) : Trips h s t :=
  ⟨he, fun i _ => by rw [Servo.loop, hl, Servo.loop], fun h => hf.trans h⟩

theorem foldl {α : Type} (f : State → α → State) (hf : ∀ s a, Trips h s (f s a)) (l : List α) (s : State) : Trips h s (l.foldl f s) :=
  List.foldlRecOn _ _ (refl h s) fun _ ht a _ => ht.trans (hf _ a)

theorem abortCapture (s : State) (h k : Hub) : Trips k s (abortCapture s h) := by
  unfold Machine.abortCapture endCapture
  split
  · refine of_engine ?_ ?_ ?_
    · rw [engOf_setEvent]
      by_cases hk : k = h
      · rw [hk, engOf_modEng_same]
      · rw [engOf_modEng_other s hk]
    · rw [engOf_setEvent]
      by_cases hk : k = h
      · rw [hk, engOf_modEng_same]
      · rw [engOf_modEng_other s hk]
    · refine (fld_setFld_disjoint _ (f := F.srvEventCapAbort) (g := F.srvEventTrip) rfl (by decide) (by decide) _).trans ?_
      cases h <;> rfl
  · exact refl k s

end Trips

/-- The trip itself of a closed loop, its outputs at SAFE and reported. -/
def tripMade (s : State) (h : Hub) (i cause : Nat) : State :=
  srvReport (driveSafe (modBoth s h (fun g => tripped g i cause)) (engOf (modBoth s h (fun g => tripped g i cause)) h) i) F.srvEventTrip C.srvTrip
    (d4 i ++ d4 cause)

theorem tripLoop_open (fuel : Nat) {cause : Nat} (hc : (engOf s h).closed i = false) : tripLoop fuel s h i cause = s := by
  cases fuel with
  | zero => rfl
  | succ n =>
    rw [tripLoop, if_neg]
    rw [hc]
    decide

theorem tripLoop_closed (fuel : Nat) {cause : Nat} (hc : (engOf s h).closed i = true) : ∃ t, tripLoop (fuel + 1) s h i cause =
    ((engOf t h).paced i).foldl (fun s k => tripLoop fuel s h k 3) t ∧ Trips h (tripMade s h i cause) t ∧
      (¬(cause ≠ 2 ∧ (engOf s h).par 3 0 0x48 0 = i) → t = tripMade s h i cause) := by
  refine ⟨if cause ≠ 2 ∧ (engOf s h).par 3 0 0x48 0 = i then abortCapture (tripMade s h i cause) h else tripMade s h i cause, ?_, ?_, fun h => if_neg h⟩
  · rw [tripLoop, if_pos hc]
    rfl
  · split
    · exact .abortCapture _ h h
    · exact .refl h _

theorem tripMade_engine (s : State) (h : Hub) (i cause : Nat) : engOf (tripMade s h i cause) h = tripped (engOf s h) i cause := by
  rw [tripMade, engOf_srvReport, (driveSafe_only _ _ _).engOf, engOf_modBoth]

theorem tripMade_event (s : State) (h : Hub) (i cause : Nat) : fld (tripMade s h i cause) F.srvEventTrip = 1 :=
  (fld_report _ _ _ _ _ (by decide)).trans (fld_setEvent _ (by decide) rfl)

theorem tripMade_trips {cause : Nat} (hc : (engOf s h).closed i = true) : Trips h s (tripMade s h i cause) where
  params := by
    rw [tripMade_engine]
    rfl
  still k hk := by
    rw [tripMade_engine]
    refine loop_modLoop_other _ _ fun heq => ?_
    rw [heq, hc] at hk
    cases hk
  event _ := tripMade_event s h i cause

theorem tripLoop_trips (fuel : Nat) (s : State) (h : Hub) (i cause : Nat) : Trips h s (tripLoop fuel s h i cause) := by
  induction fuel generalizing s i cause with
  | zero => exact .refl h s
  | succ n ih =>
    cases hc : (engOf s h).closed i with
    | false =>
      rw [tripLoop_open (n + 1) hc]
      exact .refl h s
    | true =>
      obtain ⟨t, ht, hmade, -⟩ := tripLoop_closed n (cause := cause) hc
      rw [ht]
      exact ((tripMade_trips hc).trans hmade).trans (.foldl _ (fun s k => ih s k 3) _ t)

theorem tripPaced_trips (s : State) (h : Hub) (i : Nat) : Trips h s (tripPaced s h i) := .foldl _ (fun s k => tripLoop_trips 32 s h k 3) _ s

/-- A closed loop that trips stands so in the end, reported. -/
theorem tripLoop_tripped (fuel : Nat) {cause : Nat} (hc : (engOf s h).closed i = true) :
    (engOf (tripLoop (fuel + 1) s h i cause) h).loop i = (tripped (engOf s h) i cause).loop i ∧ fld (tripLoop (fuel + 1) s h i cause) F.srvEventTrip = 1 := by
  obtain ⟨t, ht, hmade, -⟩ := tripLoop_closed fuel (cause := cause) hc
  have hrest : Trips h (tripMade s h i cause) (tripLoop (fuel + 1) s h i cause) := by
    rw [ht]
    exact hmade.trans (.foldl _ (fun s k => tripLoop_trips fuel s h k 3) _ t)
  have hopen : (engOf (tripMade s h i cause) h).closed i = false := by
    rw [tripMade_engine, Servo.closed, tripped, loop_modLoop_same]
    rfl
  refine ⟨?_, hrest.event (tripMade_event s h i cause)⟩
  rw [hrest.still i hopen, tripMade_engine]

end Sys2Proof.Machine
end

section
/-!
SUPPORT. Commands and parameters of the servo loop engines, a sample of one loop, and pins held (R415, R430 to R435, R440, R444).
-/
namespace Sys2Proof.Machine
open Sys2Proof

variable {s t u : State} {o : Origin} {h k : Hub} {g : Servo} {i j n p : Nat}

/-! ### Commands -/

theorem srvCommand_other {kind : Nat} (ha : s.active = some h) (f : State → Hub → Nat → State × Nat) (hk : (srvSel s).kind ≠ kind) :
    srvCommand s kind f = (s, C.srvParamInvalid) := by
  rw [srvCommand, ha]
  exact if_neg fun h => hk h.1

theorem srvCommand_runs {kind : Nat} (ha : s.active = some h) (f : State → Hub → Nat → State × Nat) (hk : (srvSel s).kind = kind)
    (hi : kind ≠ 1 ∨ (srvSel s).index < 28) : srvCommand s kind f = f s h (srvSel s).index := by
  rw [srvCommand, ha]
  refine if_pos ⟨hk, ?_⟩
  rcases hi with hi | hi
  · simp [hi]
  · simp [hi]

theorem rearmCmd_refused (ha : s.active = some h) (hi : (srvSel s).kind ≠ 1 ∨ 28 ≤ (srvSel s).index) : rearmCmd s = (s, C.srvParamInvalid) := by
  rw [rearmCmd, srvCommand, ha]
  refine if_neg ?_
  rintro ⟨hk, hlo⟩
  rcases hi with hi | hi
  · exact hi hk
  · simp [hi] at hlo

theorem calAbandon_engines (s : State) (cls inst : Nat) (hc : cls ≠ 0 ∧ cls ≠ 3) (h : Hub) : engOf (calAbandon s cls inst) h = engOf s h := by
  unfold calAbandon
  dsimp only
  split
  · rw [closeElem, if_neg (by omega), engOf_report, engOf_setEvent]
    exact engOf_of_eq rfl rfl h
  · rfl

theorem abandonLoopIo_engines (s : State) (h : Hub) (i : Nat) (k : Hub) : engOf (abandonLoopIo s h i) k = engOf s k := by
  refine List.foldlRecOn (motive := fun t : State => engOf t k = engOf s k) _ _ rfl fun t ht p _ => ?_
  split
  · exact (calAbandon_engines t 7 _ (by decide) k).trans ht
  · exact ht

theorem numSat_engine (s : State) (h : Hub) (n : Nat) (k : Hub) : engOf (numSat s h n) k = engOf s k := by
  unfold numSat
  split
  · rfl
  · rw [engOf_setEvent, engOf_bumpEv]

/-- A loop as CLOSE leaves it. -/
theorem closeLoop_loop (g : Servo) (i : Nat) : (((g.closeLoop i).1).loop i).st = .closed ∧ (((g.closeLoop i).1).loop i).samples = 0 ∧
    (((g.closeLoop i).1).loop i).gen = ((g.loop i).gen + 1) % 65536 ∧
    (((g.closeLoop i).1).loop i).x = (formBlk ((List.range (g.nStates i)).map (fun j => Dy.ofF32 (g.param 0 i 0x1B j)))).b := by
  have hloop (k : Servo) (m : SMap Word) : ({ k with axisPos := m } : Servo).loop i = k.loop i := rfl
  unfold Servo.closeLoop
  dsimp only
  rw [hloop, loop_modLoop_same]
  exact ⟨rfl, rfl, rfl, rfl⟩

/-- The engine's hub with a loop closed. -/
def loopClosed (s : State) (h : Hub) (i : Nat) : State :=
  let s1 := numSat (modBoth (abandonLoopIo s h i) h (fun g => (g.closeLoop i).1)) h ((engOf s h).closeLoop i).2
  { s1 with drivers := { s1.drivers with gens := SMap.setD s1.drivers.gens i ((engOf s1 h).loop i).gen 0 } }

theorem loopClosed_engine (s : State) (h : Hub) (i : Nat) : engOf (loopClosed s h i) h = ((engOf s h).closeLoop i).1 := by
  have hd : DriversOnly (numSat (modBoth (abandonLoopIo s h i) h (fun g => (g.closeLoop i).1)) h ((engOf s h).closeLoop i).2) (loopClosed s h i) := ⟨_, rfl⟩
  rw [hd.engOf, numSat_engine, engOf_modBoth, abandonLoopIo_engines]

theorem closeCmd_eq (ha : s.active = some h) (hk : (srvSel s).kind = 0) : closeCmd s =
    if (engOf s h).closed (srvSel s).index then (s, C.ok)
    else if (engOf s h).closeReason (srvSel s).index ≠ 0 then
      (modBoth s h (fun g => g.modLoop (srvSel s).index (fun l => { l with reason := (engOf s h).closeReason (srvSel s).index })), C.srvCloseInvalid)
    else (loopClosed s h (srvSel s).index, C.ok) := srvCommand_runs ha _ hk (.inl (by decide))

/-- A loop opened, its outputs at SAFE, before the loops that it paces trip. -/
def loopOpened (s : State) (h : Hub) (i : Nat) : State :=
  let s2 := driveSafe (modBoth s h (fun g => g.modLoop i (fun l => { l with st := .open_, u := safeWords g i, sat := 0, satSince := [], spHold := [] }))) (engOf s h) i
  if (engOf s h).par 3 0 0x48 0 = i then abortCapture s2 h else s2

theorem openCmd_eq (ha : s.active = some h) (hk : (srvSel s).kind = 0) : openCmd s =
    if ((engOf s h).loop (srvSel s).index).st = .open_ then (s, C.ok) else (tripPaced (loopOpened s h (srvSel s).index) h (srvSel s).index, C.ok) :=
  srvCommand_runs ha _ hk (.inl (by decide))

theorem abortCapture_drivers (s : State) (h : Hub) : (abortCapture s h).drivers = s.drivers := by
  unfold abortCapture endCapture
  split
  · cases h <;> rfl
  · rfl

theorem abortCapture_loops (s : State) (h k : Hub) : (engOf (abortCapture s h) k).params = (engOf s k).params ∧
    (engOf (abortCapture s h) k).loops = (engOf s k).loops := by
  unfold abortCapture endCapture
  split
  · cases h <;> cases k <;> exact ⟨rfl, rfl⟩
  · exact ⟨rfl, rfl⟩

theorem loopOpened_frame (s : State) (h : Hub) (i : Nat) : ((engOf (loopOpened s h i) h).loop i).st = .open_ ∧
    ((engOf (loopOpened s h i) h).loop i).u = safeWords (engOf s h) i ∧ (engOf (loopOpened s h i) h).params = (engOf s h).params ∧
    (((engOf s h).pins i).Nodup → ∀ j p, j < (engOf s h).nOutputs i → ((engOf s h).sink i j).pin = some p →
      ∃ d, SMap.find (loopOpened s h i).drivers.pins p = some d ∧ d.value = safeValue ((engOf s h).safe i j)) := by
  have hset : engOf (driveSafe (modBoth s h (fun g => g.modLoop i (fun l => { l with st := .open_, u := safeWords g i, sat := 0, satSince := [], spHold := [] })))
      (engOf s h) i) h = (engOf s h).modLoop i (fun l => { l with st := .open_, u := safeWords (engOf s h) i, sat := 0, satSince := [], spHold := [] }) := by
    rw [(driveSafe_only _ _ _).engOf, engOf_modBoth]
  have hpins : (engOf s h).pins i = (List.range ((engOf s h).nOutputs i)).filterMap (fun j => ((engOf s h).sink i j).pin) := by
    rw [Servo.pins, Servo.sinks, List.filterMap_map]
    rfl
  have hdrive (t : State) (hnd : ((engOf s h).pins i).Nodup) (j p : Nat) (hj : j < (engOf s h).nOutputs i) (hp : ((engOf s h).sink i j).pin = some p) :
      ∃ d, SMap.find (driveSafe t (engOf s h) i).drivers.pins p = some d ∧ d.value = safeValue ((engOf s h).safe i j) := by
    rw [hpins] at hnd
    rw [driveSafe_eq]
    exact driveOutputs_pin hnd (List.mem_range.2 hj) hp t _ _ i
  unfold loopOpened
  extract_lets s2
  have h2 : (engOf s2 h).loop i = { (engOf s h).loop i with st := .open_, u := safeWords (engOf s h) i, sat := 0, satSince := [], spHold := [] } := by
    rw [show engOf s2 h = _ from hset, loop_modLoop_same]
  have hp2 : (engOf s2 h).params = (engOf s h).params := by
    rw [show engOf s2 h = _ from hset]
    rfl
  split
  · obtain ⟨hpar, hloops⟩ := abortCapture_loops s2 h h
    rw [Servo.loop, hloops, ← Servo.loop, h2, abortCapture_drivers]
    exact ⟨rfl, rfl, hpar.trans hp2, hdrive _⟩
  · rw [h2]
    exact ⟨rfl, rfl, hp2, hdrive _⟩

theorem par_of_params {k : Servo} (hp : k.params = g.params) : (∀ kind index code elem, k.par kind index code elem = g.par kind index code elem) := by
  intro kind index code elem
  simp only [Servo.par, Servo.param, Servo.written, Servo.mode, hp]

theorem paced_of_params {k : Servo} (hp : k.params = g.params) (i : Nat) : k.paced i = g.paced i := by
  simp only [Servo.paced, Servo.pace, par_of_params hp]

/-- OPEN of a loop that is not open. -/
theorem openCmd_opens (s : State) (h : Hub) (i : Nat) : let u := tripPaced (loopOpened s h i) h i
    ((engOf u h).loop i).st = .open_ ∧ ((engOf u h).loop i).u = safeWords (engOf s h) i ∧
      ((engOf s h).paced i = [] → ((engOf s h).pins i).Nodup → ∀ j p, j < (engOf s h).nOutputs i → ((engOf s h).sink i j).pin = some p →
        ∃ d, SMap.find u.drivers.pins p = some d ∧ d.value = safeValue ((engOf s h).safe i j)) := by
  intro u
  obtain ⟨hst, hu, hpar, hpins⟩ := loopOpened_frame s h i
  have hopen : (engOf (loopOpened s h i) h).closed i = false := by
    rw [Servo.closed, hst]
    rfl
  have hkeep := (tripPaced_trips (loopOpened s h i) h i).still i hopen
  refine ⟨(congrArg Loop.st hkeep).trans hst, (congrArg Loop.u hkeep).trans hu, fun hnone => ?_⟩
  have hsame : u = loopOpened s h i := by
    rw [show u = tripPaced (loopOpened s h i) h i from rfl, tripPaced, paced_of_params hpar, hnone]
    rfl
  rw [hsame]
  exact hpins

/-- An input rearmed, and what it held let go. -/
def inputRearmed (i : Nat) (g : Servo) : Servo :=
  loopIds.foldl (fun g k => g.modLoop k (fun l => { l with spHold := l.spHold.filter (fun j => !(g.srcR k j).lines.contains i) }))
    (g.modInput i (fun x => { x with st := .armed }))

theorem inputRearmed_input (i : Nat) (g : Servo) : (inputRearmed i g).input i = { g.input i with st := .armed } := by
  have hkeep : (inputRearmed i g).inputs = (g.modInput i (fun x => { x with st := .armed })).inputs :=
    List.foldlRecOn (motive := fun k : Servo => k.inputs = (g.modInput i (fun x => { x with st := .armed })).inputs) _ _ rfl fun k hk _ _ => hk
  rw [Servo.input, hkeep, ← Servo.input, input_modInput_same]

theorem rearmCmd_eq (ha : s.active = some h) (hk : (srvSel s).kind = 1) (hi : (srvSel s).index < 28) :
    rearmCmd s = (modBoth s h (inputRearmed (srvSel s).index), C.ok) := srvCommand_runs ha _ hk (.inr hi)

theorem testStartCmd_eq (ha : s.active = some h) (hk : (srvSel s).kind = 3) : testStartCmd s =
    if (engOf s h).cap.runs then (s, C.srvCapBusy)
    else if (engOf s h).closed ((engOf s h).par 3 0 0x48 0) = false then (s, C.srvCloseInvalid)
    else (modEng s h (fun g => { g with cap := { st := .running, waiting := (engOf s h).par 3 0 0x49 0 == 0 && (engOf s h).par 3 0 0x52 0 != 0xFF,
                                                 j := 0, prbs := 2 ^ g.par 3 0 0x4E 0 - 1, data := [] } }), C.ok) :=
  srvCommand_runs ha _ hk (.inl (by decide))

theorem stopCmd_eq (ha : s.active = some h) (hk : (srvSel s).kind = 3) : stopCmd s =
    (modEng s h (fun g => if g.cap.runs then { g with cap := { g.cap with st := .idle, waiting := false } } else g), C.ok) :=
  srvCommand_runs ha _ hk (.inl (by decide))

theorem runs_iff {c : Capture} : c.runs = true ↔ c.st = .running := beq_iff_eq

/-! ### Parameters -/

theorem srvParamWrite_eq (ha : s.active = some h) (v : Word) : srvParamWrite s v =
    match paramRefusal (engOf s h) (srvSel s) v.toNat with
    | some c => (s, c)
    | none => (nextElem (if (srvSel s).kind < 3 ∨ (srvSel s).param < 0x48 then keptChanged (modBoth s h (fun g => g.write (srvSel s) v))
        else modBoth s h (fun g => g.write (srvSel s) v)), C.ok) := by
  rw [srvParamWrite, ha] <;> rfl

/-- What is written, where nothing refuses it, is read. -/
theorem read_write {k : Sel} {v : Word} (hr : paramRefusal g k v.toNat = none) : (g.write k v).read k = v := by
  have hnever : ¬(k.kind = 3 ∧ k.param = 0x53) := by
    rintro ⟨hk, hp⟩
    rw [paramRefusal, hk, hp] at hr
    by_cases hi : k.index < 4
    · simp only [paramInfo, hi, if_true] at hr
      split at hr <;> cases hr
    · simp [paramInfo, hi] at hr
  unfold Servo.read Servo.write
  rw [if_neg hnever]
  split
  · rw [input_modInput_same]
  · rw [Servo.param, Servo.written, SMap.find_insert_self]

theorem srvParamRead_eq (ha : s.active = some h) : srvParamRead s =
    match paramInfo (srvSel s).kind (srvSel s).index (srvSel s).param with
    | none => (s, C.srvParamInvalid, 0)
    | some (_, n) => if elemOk (srvSel s).kind (srvSel s).param n (srvSel s).elem = false then (s, C.srvParamInvalid, 0)
        else (nextElem s, C.ok, (engOf s h).read (srvSel s)) := by
  rw [srvParamRead, ha] <;> rfl

/-- A served read whose effect gives its own status. -/
theorem regAnswered_of_access {c : Instr} {f : State → State × Nat × Word} {st : Nat} {v : Word} (hs : Served s o false)
    (hc : exec c s = done (regAnswer (regGate s o false false) s o f)) (hf : f s = (u, st, v)) : RegAnswered c s o st v u := by
  rw [RegAnswered, hc, show regGate s o false false = .served from hs]
  simp only [regAnswer, hf]
  rfl

end Sys2Proof.Machine
end

section
/-!
SUPPORT. A sample of one servo loop that no other loop paces, and what the servo engine's posts leave (R415, R421, R428, R433).
-/
namespace Sys2Proof.Machine
open Sys2Proof

variable {s t u : State} {o : Origin} {h k : Hub} {g : Servo} {i j n p : Nat} {conv : Conv}

theorem setEng_self (s : State) (h : Hub) : setEng s h (engOf s h) = s := by cases h <;> rfl

/-! ### Which loops sample -/

theorem paced_nil (hp : ∀ k, k < 32 → g.pace k ≠ i) : g.paced i = [] :=
  List.filter_eq_nil_iff.2 fun k hk => by simpa using hp k (List.mem_range.1 hk)

theorem sampled_one (hp : g.paced i = []) (fuel : Nat) : g.sampled (fuel + 1) [i] = [i] := by
  have hdue : g.dueWith i = [] := by
    rw [Servo.dueWith, hp]
    rfl
  rw [Servo.sampled]
  simp [hdue]

theorem countPaced_one {k : Servo} (hp : k.paced i = []) : k.countPaced [i] = k := by
  simp [Servo.countPaced, hp]

theorem base_one (hi : i < 32) (hp : g.pace i = 0xFF) : loopIds.filter (fun k => [i].contains k && g.pace k == 0xFF) = [i] := by
  have hmem : ∀ k, k ∈ loopIds.filter (fun k => [i].contains k && g.pace k == 0xFF) ↔ k = i := by
    intro k
    simp only [List.mem_filter, Bool.and_eq_true, List.contains_iff_mem, List.mem_singleton, beq_iff_eq]
    exact ⟨fun hk => hk.2.1, fun hk => ⟨hk ▸ List.mem_range.2 hi, hk, hk ▸ hp⟩⟩
  have hnd : (loopIds.filter (fun k => [i].contains k && g.pace k == 0xFF)).Nodup := List.nodup_range.filter _
  exact List.perm_singleton.1 ((List.perm_ext_iff_of_nodup hnd (List.nodup_singleton i)).2 fun k => (hmem k).trans List.mem_singleton.symm)

/-! ### What posts leave -/

theorem postSlot_engines (s : State) (h : Hub) (slot : Nat) (hop : Bool) (k : Hub) : engOf (postSlot s h slot hop) k = engOf s k := by
  unfold postSlot
  dsimp only
  split
  · exact engOf_bumpEv s _ _ _ k
  · split
    · exact engOf_bumpEv s _ _ _ k
    · exact (engOf_modBundle _ _ _ k).trans ((engOf_modBundle _ _ _ k).trans (engOf_of_eq rfl rfl k))

theorem postSlots_engines (s : State) (h : Hub) (loops refuse : List Nat) (k : Hub) : engOf (postSlots s h loops refuse) k = engOf s k := by
  refine List.foldlRecOn (motive := fun t : State => engOf t k = engOf s k) _ _ rfl fun t ht n _ => ?_
  dsimp only
  split
  · exact (postSlot_engines t h n _ k).trans ht
  · exact ht

/-- A sample of one base loop that no loop is paced by. -/
theorem servoSample_one (hp : s.phase = .running) (ha : s.active = some h) (hi : i < 32) (hbase : (engOf s h).pace i = 0xFF)
    (hnone : (engOf s h).paced i = []) (hkeep : (engOf (sampleLoop s h conv i) h).params = (engOf s h).params) (refuse : List Nat) :
    ∃ u, exec (.servoSample [i] conv refuse) s = .next u ∧ engOf u h = engOf (sampleLoop s h conv i) h := by
  have hlist : (engOf s h).sampled 32 (loopIds.filter (fun k => [i].contains k && (engOf s h).pace k == 0xFF)) = [i] := by
    rw [base_one hi hbase]
    exact sampled_one hnone 31
  refine ⟨{ postSlots (modEng (sampleLoop s h conv i) h (fun g => g.countPaced [i])) h [i] refuse with
    free := (postSlots (modEng (sampleLoop s h conv i) h (fun g => g.countPaced [i])) h [i] refuse).free + 1024 }, ?_, ?_⟩
  · refine congrArg done ((if_neg (not_not.2 hp)).trans ?_)
    rw [ha]
    dsimp only
    rw [hlist]
    rfl
  · refine (engOf_of_eq rfl rfl h).trans ((postSlots_engines _ h _ refuse h).trans ?_)
    rw [engOf_modEng_same, countPaced_one ((paced_of_params hkeep i).trans hnone)]

/-! ### The sample itself -/

theorem captureSample_loops (s : State) (h : Hub) (i : Nat) : (engOf (captureSample s h i) h).loops = (engOf s h).loops ∧
    (engOf (captureSample s h i) h).params = (engOf s h).params := by
  unfold captureSample endCapture
  dsimp only
  split
  · split
    · rw [engOf_setEvent, engOf_modEng_same, engOf_setEng_same]
      exact ⟨rfl, rfl⟩
    · rw [engOf_setEng_same]
      exact ⟨rfl, rfl⟩
  · exact ⟨rfl, rfl⟩

theorem spReports_engines (s : State) (i : Nat) (before held : List Nat) (k : Hub) : engOf (spReports s i before held) k = engOf s k :=
  List.foldlRecOn (motive := fun t : State => engOf t k = engOf s k) _ _ rfl fun _ ht _ _ => (engOf_srvReport _ _ _ _ k).trans ht

theorem trackLoop_other (s : State) (hk : k ≠ h) (conv : Conv) (i : Nat) (a : Loop) : engOf (trackLoop s h conv i a) k = engOf s k := by
  unfold trackLoop
  dsimp only
  split
  · rw [numSat_engine, engOf_setEng_other s hk]
  · rfl

/-- The engine of a hub after a sample of a closed loop. -/
def loopSampled (s : State) (h : Hub) (conv : Conv) (i : Nat) : Servo :=
  let g := engOf s h
  let t := latch s g h conv i
  let w := g.law i t
  { g.modLoop i (fun l => l.after t w (g.observe i w.u w.nu).b (g.saturated i w.us) (now s)) with
    axisPos := t.pos.foldl (fun m p => SMap.insert m p.1 p.2) g.axisPos }

theorem computeLoop_engine (s : State) (h : Hub) (conv : Conv) (i : Nat) : engOf (computeLoop s h conv i) h = loopSampled s h conv i := by
  unfold computeLoop
  extract_lets g t w x _ g1 s1 s2
  have h2 : engOf s2 h = loopSampled s h conv i := by
    rw [show engOf s2 h = engOf s1 h from (applyPins_only s1 g1 i).engOf h, show s1 = spReports _ _ _ _ from rfl, spReports_engines, numSat_engine, engOf_setEng_same]
    rfl
  clear_value s2
  split
  · rw [trackLoop_other _ (peer_ne h).symm, h2]
  · exact h2

theorem loopSampled_loop (s : State) (h : Hub) (conv : Conv) (i : Nat) :
    let g := engOf s h
    let t := latch s g h conv i
    let w := g.law i t
    (loopSampled s h conv i).loop i = (g.loop i).after t w (g.observe i w.u w.nu).b (g.saturated i w.us) (now s) := by
  intro g t w
  exact loop_modLoop_same g i (fun l => l.after t w (g.observe i w.u w.nu).b (g.saturated i w.us) (now s))

/-- Whether a measured input of a loop is held or has gone stale. -/
def inputBad (g : Servo) (i j : Nat) : Bool := g.blocked (g.srcY i j) || ((g.srcY i j).kind == 3 && g.stale.contains (g.srcY i j).n)

theorem sampleLoop_closed (hc : (engOf s h).closed i = true) : sampleLoop s h conv i =
    captureSample (if (List.range ((engOf s h).nInputs i)).any (inputBad (engOf s h) i) then tripLoop 33 s h i 2 else computeLoop s h conv i) h i := by
  unfold sampleLoop
  dsimp only
  rw [if_pos hc]
  rfl

theorem sampleLoop_computes (hc : (engOf s h).closed i = true) (hgood : ∀ j, j < (engOf s h).nInputs i → inputBad (engOf s h) i j = false) :
    (engOf (sampleLoop s h conv i) h).loop i = (loopSampled s h conv i).loop i ∧ (engOf (sampleLoop s h conv i) h).params = (engOf s h).params := by
  have hno : (List.range ((engOf s h).nInputs i)).any (inputBad (engOf s h) i) = false :=
    List.any_eq_false.2 fun j hj => Bool.eq_false_iff.1 (hgood j (List.mem_range.1 hj))
  rw [sampleLoop_closed hc, hno]
  obtain ⟨hloops, hpar⟩ := captureSample_loops (computeLoop s h conv i) h i
  refine ⟨?_, hpar.trans ((congrArg Servo.params (computeLoop_engine s h conv i)).trans rfl)⟩
  rw [← computeLoop_engine, Servo.loop, Servo.loop]
  exact congrArg (fun m => SMap.getD m i Loop.rest) hloops

theorem sampleLoop_trips (hc : (engOf s h).closed i = true) (hbad : ∃ j, j < (engOf s h).nInputs i ∧ inputBad (engOf s h) i j = true) :
    (engOf (sampleLoop s h conv i) h).loop i = (tripped (engOf s h) i 2).loop i ∧ (engOf (sampleLoop s h conv i) h).params = (engOf s h).params := by
  have hany : (List.range ((engOf s h).nInputs i)).any (inputBad (engOf s h) i) = true := by
    obtain ⟨j, hj, hb⟩ := hbad
    exact List.any_eq_true.2 ⟨j, List.mem_range.2 hj, hb⟩
  rw [sampleLoop_closed hc, hany]
  obtain ⟨hloops, hpar⟩ := captureSample_loops (tripLoop 33 s h i 2) h i
  refine ⟨?_, hpar.trans (tripLoop_trips 33 s h i 2).params⟩
  rw [← (tripLoop_tripped 32 hc).1, Servo.loop, Servo.loop]
  exact congrArg (fun m => SMap.getD m i Loop.rest) hloops

end Sys2Proof.Machine

namespace Sys2Proof.Proofs
open Sys2Proof Sys2Proof.Machine

/-- Commands and parameter writes on the active hub's engine (R430, R431, R434, R439, R444). -/
theorem servoCommands (s : State) (o : Origin) (h : Hub) (hs : Served s o true) (ha : s.active = some h) :
    let g := engOf s h
    let i := (srvSel s).index
    let answers (c : Instr) (P : Servo → Prop) : Prop := ∃ u, RegAnswered c s o C.ok 0 u ∧ P (engOf u h)
    ((srvSel s).kind ≠ 0 → RegAnswered (.srvClose o) s o C.srvParamInvalid 0 s ∧ RegAnswered (.srvOpen o) s o C.srvParamInvalid 0 s) ∧
    ((srvSel s).kind ≠ 1 ∨ 28 ≤ i → RegAnswered (.srvRearm o) s o C.srvParamInvalid 0 s) ∧
    ((srvSel s).kind ≠ 3 → RegAnswered (.srvTestStart o) s o C.srvParamInvalid 0 s ∧ RegAnswered (.srvStop o) s o C.srvParamInvalid 0 s) ∧
    ((srvSel s).kind = 0 → g.closed i = true → RegAnswered (.srvClose o) s o C.ok 0 s) ∧
    ((srvSel s).kind = 0 → g.closed i = false →
      (g.closeReason i ≠ 0 → ∃ u, RegAnswered (.srvClose o) s o C.srvCloseInvalid 0 u ∧ ((engOf u h).loop i).st = (g.loop i).st ∧
        ((engOf u h).loop i).reason = g.closeReason i) ∧
      (g.closeReason i = 0 → answers (.srvClose o) (fun k => (k.loop i).st = .closed ∧ (k.loop i).samples = 0 ∧
        (k.loop i).gen = ((g.loop i).gen + 1) % 65536 ∧
        (k.loop i).x = (formBlk ((List.range (g.nStates i)).map (fun j => Dy.ofF32 (g.param 0 i 0x1B j)))).b))) ∧
    ((srvSel s).kind = 0 → (g.loop i).st = .open_ → RegAnswered (.srvOpen o) s o C.ok 0 s) ∧
    ((srvSel s).kind = 0 → (g.loop i).st ≠ .open_ → ∃ u, RegAnswered (.srvOpen o) s o C.ok 0 u ∧ ((engOf u h).loop i).st = .open_ ∧
      ((engOf u h).loop i).u = (List.range (g.nOutputs i)).map (g.safe i) ∧
      (g.paced i = [] → (g.pins i).Nodup → ∀ j p, j < g.nOutputs i → (g.sink i j).pin = some p →
        ∃ d, SMap.find u.drivers.pins p = some d ∧ d.value = safeValue (g.safe i j))) ∧
    ((srvSel s).kind = 1 → i < 28 → answers (.srvRearm o) (fun k => (k.input i).st = .armed ∧ (k.input i).count = (g.input i).count)) ∧
    ((srvSel s).kind = 3 →
      (g.cap.st = .running → RegAnswered (.srvTestStart o) s o C.srvCapBusy 0 s ∧
        answers (.srvStop o) (fun k => k.cap = { g.cap with st := .idle, waiting := false })) ∧
      (g.cap.st ≠ .running → RegAnswered (.srvStop o) s o C.ok 0 s) ∧
      (g.cap.st ≠ .running → g.closed (g.par 3 0 0x48 0) = false → RegAnswered (.srvTestStart o) s o C.srvCloseInvalid 0 s) ∧
      (g.cap.st ≠ .running → g.closed (g.par 3 0 0x48 0) = true →
        answers (.srvTestStart o) (fun k => k.cap.st = .running ∧ k.cap.j = 0 ∧ k.cap.data = []))) ∧
    (∀ v : Word,
      (∀ c, paramRefusal g (srvSel s) v.toNat = some c → RegAnswered (.srvParamAccess o (some v)) s o c 0 s) ∧
      (paramRefusal g (srvSel s) v.toNat = none → answers (.srvParamAccess o (some v)) (fun k => k.read (srvSel s) = v))) := by
  intro g i answers
  have hclose {u : State} {st : Nat} (h : closeCmd s = (u, st)) : RegAnswered (.srvClose o) s o st 0 u := regAnswered_of_write hs rfl h
  have hopen {u : State} {st : Nat} (h : openCmd s = (u, st)) : RegAnswered (.srvOpen o) s o st 0 u := regAnswered_of_write hs rfl h
  have hrearm {u : State} {st : Nat} (h : rearmCmd s = (u, st)) : RegAnswered (.srvRearm o) s o st 0 u := regAnswered_of_write hs rfl h
  have htest {u : State} {st : Nat} (h : testStartCmd s = (u, st)) : RegAnswered (.srvTestStart o) s o st 0 u := regAnswered_of_write hs rfl h
  have hstop {u : State} {st : Nat} (h : stopCmd s = (u, st)) : RegAnswered (.srvStop o) s o st 0 u := regAnswered_of_write hs rfl h
  have hparam {v : Word} {u : State} {st : Nat} (h : srvParamWrite s v = (u, st)) : RegAnswered (.srvParamAccess o (some v)) s o st 0 u :=
    regAnswered_of_write hs rfl h
  refine ⟨fun hk => ⟨hclose (srvCommand_other ha _ hk), hopen (srvCommand_other ha _ hk)⟩, fun hi => hrearm (rearmCmd_refused ha hi),
    fun hk => ⟨htest (srvCommand_other ha _ hk), hstop (srvCommand_other ha _ hk)⟩, fun hk hc => hclose ((closeCmd_eq ha hk).trans (if_pos hc)),
    fun hk hc => ⟨fun hr => ?_, fun hr => ?_⟩, fun hk ho => hopen ((openCmd_eq ha hk).trans (if_pos ho)),
    fun hk ho => ⟨_, hopen ((openCmd_eq ha hk).trans (if_neg ho)), openCmd_opens s h i⟩,
    fun hk hi => ⟨_, hrearm (rearmCmd_eq ha hk hi), ?_⟩, fun hk => ⟨fun hr => ⟨?_, _, hstop (stopCmd_eq ha hk), ?_⟩, fun hr => ?_, fun hr hc => ?_, fun hr hc => ?_⟩,
    fun v => ⟨fun c hc => hparam ?_, fun hc => ?_⟩⟩
  · refine ⟨_, hclose ((closeCmd_eq ha hk).trans ((if_neg (Bool.eq_false_iff.1 hc)).trans (if_pos hr))), ?_⟩
    rw [engOf_modBoth, loop_modLoop_same]
    exact ⟨rfl, rfl⟩
  · refine ⟨_, hclose ((closeCmd_eq ha hk).trans ((if_neg (Bool.eq_false_iff.1 hc)).trans (if_neg (not_not.2 hr)))), ?_⟩
    rw [loopClosed_engine]
    exact closeLoop_loop g i
  · dsimp only
    rw [engOf_modBoth, inputRearmed_input]
    exact ⟨rfl, rfl⟩
  · exact htest ((testStartCmd_eq ha hk).trans (if_pos (runs_iff.2 hr)))
  · rw [engOf_modEng_same, if_pos (runs_iff.2 hr)]
  · refine hstop ((stopCmd_eq ha hk).trans (congrArg (fun t : State => (t, C.ok)) ?_))
    rw [modEng, if_neg (fun h => hr (runs_iff.1 h)), setEng_self]
  · exact htest ((testStartCmd_eq ha hk).trans ((if_neg fun h => hr (runs_iff.1 h)).trans (if_pos hc)))
  · refine ⟨_, htest ((testStartCmd_eq ha hk).trans ((if_neg fun h => hr (runs_iff.1 h)).trans (if_neg (by rw [hc]; decide)))), ?_⟩
    rw [engOf_modEng_same]
    exact ⟨rfl, rfl, rfl⟩
  · rw [srvParamWrite_eq ha, hc]
  · refine ⟨_, hparam (by rw [srvParamWrite_eq ha, hc]), ?_⟩
    have heng : engOf (nextElem (if (srvSel s).kind < 3 ∨ (srvSel s).param < 0x48 then keptChanged (modBoth s h (fun g => g.write (srvSel s) v))
        else modBoth s h (fun g => g.write (srvSel s) v))) h = g.write (srvSel s) v := by
      rw [nextElem, show ∀ (t : State) (f : Fld) (n : Nat), engOf (setFld t f n) h = engOf t h from fun t f n => engOf_setFldAt t f 0 0 0 n h]
      split
      · exact (engOf_of_eq rfl rfl h).trans (engOf_modBoth s h _)
      · exact engOf_modBoth s h _
    rw [heng]
    exact read_write hc

/-- Reads of parameters (R444). -/
theorem servoParamRead (s : State) (o : Origin) (h : Hub) (hs : Served s o false) (ha : s.active = some h) :
    let k := srvSel s
    (paramInfo k.kind k.index k.param = none → RegAnswered (.srvParamAccess o none) s o C.srvParamInvalid 0 s) ∧
    (∀ (w : PWrite) (n : Nat), paramInfo k.kind k.index k.param = some (w, n) →
      (elemOk k.kind k.param n k.elem = false → RegAnswered (.srvParamAccess o none) s o C.srvParamInvalid 0 s) ∧
      (elemOk k.kind k.param n k.elem = true → RegAnswered (.srvParamAccess o none) s o C.ok ((engOf s h).read k) (nextElem s))) := by
  intro k
  have hread {u : State} {st : Nat} {v : Word} (h : srvParamRead s = (u, st, v)) : RegAnswered (.srvParamAccess o none) s o st v u :=
    regAnswered_of_access hs rfl h
  refine ⟨fun hn => hread ?_, fun w n hn => ⟨fun he => hread ?_, fun he => hread ?_⟩⟩
  · rw [srvParamRead_eq ha, show paramInfo (srvSel s).kind (srvSel s).index (srvSel s).param = none from hn]
  · rw [srvParamRead_eq ha, show paramInfo (srvSel s).kind (srvSel s).index (srvSel s).param = some (w, n) from hn]
    exact if_pos he
  · rw [srvParamRead_eq ha, show paramInfo (srvSel s).kind (srvSel s).index (srvSel s).param = some (w, n) from hn]
    exact if_neg (by rw [show elemOk (srvSel s).kind (srvSel s).param n (srvSel s).elem = true from he]; decide)

/-- A sample of a closed loop that no loop paces (R415, R433). -/
theorem servoSample_follows (s : State) (h : Hub) (i : Nat) (conv : Conv) (refuse : List Nat) (hp : s.phase = .running) (ha : s.active = some h) (hi : i < 32) :
    let g := engOf s h
    let bad (j : Nat) : Bool := g.blocked (g.srcY i j) || ((g.srcY i j).kind == 3 && g.stale.contains (g.srcY i j).n)
    let t := latch s g h conv i
    let w := g.law i t
    g.closed i = true → g.pace i = 0xFF → (∀ k, k < 32 → g.pace k ≠ i) →
    ((∀ j, j < g.nInputs i → bad j = false) → ∃ u, exec (.servoSample [i] conv refuse) s = .next u ∧
      ((engOf u h).loop i).u = w.u.words ∧ ((engOf u h).loop i).x = (g.observe i w.u w.nu).b ∧ ((engOf u h).loop i).st = .closed ∧
      ((engOf u h).loop i).samples = ((g.loop i).samples + 1) % 2 ^ 32) ∧
    ((∃ j, j < g.nInputs i ∧ bad j = true) → ∃ u, exec (.servoSample [i] conv refuse) s = .next u ∧
      ((engOf u h).loop i).st = .tripped ∧ ((engOf u h).loop i).cause = 2) := by
  intro g bad t w hc hbase hnone
  refine ⟨fun hgood => ?_, fun hbad => ?_⟩
  · obtain ⟨hloop, hpar⟩ := sampleLoop_computes (conv := conv) hc hgood
    obtain ⟨u, hu, he⟩ := servoSample_one hp ha hi hbase (paced_nil hnone) hpar refuse
    refine ⟨u, hu, ?_⟩
    rw [he, hloop, loopSampled_loop]
    exact ⟨rfl, rfl, beq_iff_eq.1 hc, rfl⟩
  · obtain ⟨hloop, hpar⟩ := sampleLoop_trips (conv := conv) hc hbad
    obtain ⟨u, hu, he⟩ := servoSample_one hp ha hi hbase (paced_nil hnone) hpar refuse
    refine ⟨u, hu, ?_⟩
    rw [he, hloop, tripped, loop_modLoop_same]
    exact ⟨rfl, rfl⟩

/-- A loop whose output stays saturated (R432). -/
theorem servoSatTrip_trips (s : State) (h : Hub) (i : Nat) (ha : s.active = some h) (hp : s.phase = .running) :
    let l := (engOf s h).loop i
    (l.sat = 0 ∨ l.st ≠ .closed → exec (.servoSatTrip i) s = .next s) ∧
    (l.sat ≠ 0 → l.st = .closed → ∃ t, exec (.servoSatTrip i) s = .next t ∧ ((engOf t h).loop i).st = .tripped ∧
      ((engOf t h).loop i).cause = 1 ∧ ((engOf t h).loop i).trips = min (l.trips + 1) 0x1FFFF ∧
      ((engOf t h).loop i).u = (List.range ((engOf s h).nOutputs i)).map ((engOf s h).safe i) ∧ fld t F.srvEventTrip = 1) := by
  intro l
  have hexec : exec (.servoSatTrip i) s = .next (if s.phase = .running ∧ l.sat ≠ 0 then tripLoop 33 s h i 1 else s) := by
    refine congrArg done ?_
    rw [ha]
  refine ⟨fun hno => hexec.trans (congrArg done ?_), fun hsat hst => ⟨_, hexec.trans (congrArg done (if_pos ⟨hp, hsat⟩)), ?_⟩⟩
  · split
    · rename_i hgo
      refine tripLoop_open 33 (beq_eq_false_iff_ne.2 ?_)
      exact hno.resolve_left hgo.2
    · rfl
  · obtain ⟨hloop, hevent⟩ := tripLoop_tripped 32 (cause := 1) (beq_iff_eq.2 hst : (engOf s h).closed i = true)
    rw [hloop, tripped, loop_modLoop_same]
    exact ⟨rfl, rfl, rfl, rfl, hevent⟩

/-- A pin without a value for OUT_HOLD_MS (R440). -/
theorem servoOutHoldExpiry_holds (s : State) (h : Hub) (pin : Nat) (d : Driver) (ha : s.active = some h) (hp : s.phase = .running)
    (hd : SMap.find s.drivers.pins pin = some d) :
    (d.held = true → exec (.servoOutHoldExpiry pin) s = .next s) ∧
    (d.held = false → (engOf s h).closed d.loop = true → ∃ t, exec (.servoOutHoldExpiry pin) s = .next t ∧
      SMap.find t.drivers.pins pin = some { d with value := d.safe, held := true }) := by
  refine ⟨fun hh => congrArg done ?_, fun hh hc => ⟨_, congrArg done (?_ : _ = srvReport (modPin s pin (fun d => { d with value := d.safe, held := true })) F.srvEventOutHold
    C.srvOutHold []), ?_⟩⟩
  · rw [hd]
    exact if_neg fun hgo => absurd (hh.symm.trans hgo.2.1) (by decide)
  · rw [hd, ha]
    exact if_pos ⟨hp, hh, by rw [Option.getD_some, hc]; rfl⟩
  · have hdr : (srvReport (modPin s pin (fun d => { d with value := d.safe, held := true })) F.srvEventOutHold C.srvOutHold []).drivers =
        (modPin s pin (fun d => { d with value := d.safe, held := true })).drivers := (congrArg State.drivers (srvReport_core _ _ _ _) :)
    rw [hdr, modPin, hd]
    exact SMap.find_insert_self _ _ _

/-- Settles O50: a command acts on the object selected or is refused; a loop that samples follows its law, and one that trips stands at SAFE. -/
theorem servoLoopsFollowTheirCommands : Obligations.ServoLoopsFollowTheirCommands := by
  unfold Obligations.ServoLoopsFollowTheirCommands
  exact ⟨servoCommands, servoParamRead, servoSample_follows, servoSatTrip_trips, servoOutHoldExpiry_holds⟩

end Sys2Proof.Proofs
end

section
/-!
SUPPORT. What work on lanes leaves as it was: lanes fail, are covered, start afresh and light, with the links that follow them, and all else stays
but reports, counters and the registers of these (R334 to R347, R352, R367).
-/
namespace Sys2Proof.Machine
open Sys2Proof

variable {s t u : State} {b : Bool}

/-! ### Engines and their lanes -/

theorem opticOf_modOptic (s : State) (e : Nat) (f : Optic → Optic) (k : Nat) :
    opticOf (modOptic s e f) k = if k = e ∧ e < s.optics.length then f (opticOf s e) else opticOf s k := by
  simp only [opticOf, modOptic, getElem?_modAt]
  by_cases hk : k = e
  · subst hk
    cases he : s.optics[k]? with
    | none => simp [List.getElem?_eq_none_iff.1 he]
    | some o => simp [(List.getElem?_eq_some_iff.1 he).1]
  · simp [hk]

theorem opticOf_modOptic_same {e : Nat} (he : e < s.optics.length) (f : Optic → Optic) : opticOf (modOptic s e f) e = f (opticOf s e) := by
  rw [opticOf_modOptic, if_pos ⟨rfl, he⟩]

theorem modOptic_length (s : State) (e : Nat) (f : Optic → Optic) : (modOptic s e f).optics.length = s.optics.length := length_modAt _ _ _

theorem lane_setLane (o : Optic) (p c q d : Nat) (x : Lane) (hc : c < 9) (hd : d < 9) :
    ({ o with lanes := SMap.setD o.lanes (9 * p + c) x Lane.rest } : Optic).lane q d = if q = p ∧ d = c then x else o.lane q d := by
  rw [Optic.lane, SMap.getD_setD]
  by_cases h : q = p ∧ d = c
  · rw [if_pos h, if_pos (by omega)]
  · rw [if_neg h, if_neg (by omega), Optic.lane]

/-- A lane just written, and another lane. -/
theorem laneOf_setLane {e : Nat} (he : e < s.optics.length) (p c : Nat) (x : Lane) (hc : c < 9) {q d : Nat} (hd : d < 9) :
    laneOf (setLane s e p c x) e q d = if q = p ∧ d = c then x else laneOf s e q d := by
  rw [laneOf, setLane, opticOf_modOptic_same he, lane_setLane _ _ _ _ _ _ hc hd, laneOf]

theorem laneOf_modLane {e : Nat} (he : e < s.optics.length) (p c : Nat) (f : Lane → Lane) (hc : c < 9) {q d : Nat} (hd : d < 9) :
    laneOf (modLane s e p c f) e q d = if q = p ∧ d = c then f (laneOf s e p c) else laneOf s e q d := laneOf_setLane he p c _ hc hd

theorem laneOf_modLane_same {e : Nat} (he : e < s.optics.length) (p : Nat) {c : Nat} (f : Lane → Lane) (hc : c < 9) :
    laneOf (modLane s e p c f) e p c = f (laneOf s e p c) := by
  rw [laneOf_modLane he p c f hc hc, if_pos ⟨rfl, rfl⟩]

theorem laneOf_modLane_other {e : Nat} (he : e < s.optics.length) (p : Nat) {c : Nat} (f : Lane → Lane) (hc : c < 9) {q d : Nat} (hd : d < 9)
    (h : ¬(q = p ∧ d = c)) : laneOf (modLane s e p c f) e q d = laneOf s e q d := by
  rw [laneOf_modLane he p c f hc hd, if_neg h]

theorem opticOf_of_optics (h : t.optics = s.optics) (k : Nat) : opticOf t k = opticOf s k := by
  rw [opticOf, h, opticOf]

theorem laneOf_of_optics (h : t.optics = s.optics) (e p c : Nat) : laneOf t e p c = laneOf s e p c := by
  rw [laneOf, opticOf_of_optics h, laneOf]

/-! ### Items of calibration -/

theorem calItem_of_cal (h : t.cal.items = s.cal.items) (cls inst : Nat) : calItem t cls inst = calItem s cls inst := by
  rw [calItem, h, calItem]

@[simp] theorem calItem_setCal_same (s : State) (cls inst : Nat) (x : CalItem) : calItem (setCal s cls inst x) cls inst = x := by
  rw [calItem, setCal, SMap.getD_setD, if_pos rfl]

theorem calItem_setCal_other (s : State) {cls inst c i : Nat} (h : calKey c i ≠ calKey cls inst) (x : CalItem) :
    calItem (setCal s cls inst x) c i = calItem s c i := by
  rw [calItem, calItem, SMap.getD, SMap.getD, setCal, SMap.setD]
  dsimp only
  split
  · rw [SMap.find_erase_ne _ h]
  · rw [SMap.find_insert_ne _ _ h]

theorem calRest_idle (cls inst : Nat) : (calRest cls inst).running = false := by
  unfold calRest
  dsimp only
  split <;> rfl

/-- An item that stands still is none that runs under the same key. -/
theorem calKey_ne_of_running {cls inst c i : Nat} (hr : (calItem s cls inst).running = true) (hi : (calItem s c i).running = false) :
    calKey c i ≠ calKey cls inst := by
  intro hk
  rw [calItem, SMap.getD] at hr hi
  rw [hk] at hi
  cases hf : SMap.find s.cal.items (calKey cls inst) with
  | none =>
    rw [hf, Option.getD_none, calRest_idle] at hr
    cases hr
  | some x =>
    rw [hf, Option.getD_some] at hr hi
    rw [hr] at hi
    cases hi

/-! ### Work on lanes -/

/-- The state without what work on lanes changes. -/
def State.besideLanes (s : State) : State :=
  { s.besideLinks with
    optics := [], cal := { s.cal with items := [] }
    fab := { s.besideLinks.fab with ident := [], absent := [], unplanned := [], bypassed := [], inForce := [] } }

/-- The addresses of the registers that work on lanes writes. -/
def LaneReg (n a : Nat) : Prop :=
  LinkReg n a ∨ a = (⟨.calEvent, 0, 0, 0⟩ : RegRef).addr ∨ ∃ e, a = (⟨.optEvent, e, 0, 0⟩ : RegRef).addr

/-- From `s` to `t` lanes have changed, with elements, lasers, runs of calibration that ended, links, and reports and registers of these; no commit of
light paths, and no pair's setting but, where `loops`, its loop. -/
structure LaneWork (loops : Bool) (s t : State) : Prop where
  beside : t.besideLanes = s.besideLanes
  dieCount : t.dies.length = s.dies.length
  regs : ∀ r : RegRef, ¬LaneReg s.dies.length r.addr → regWord t r = regWord s r
  engines : t.optics.length = s.optics.length
  commit : ∀ k, (opticOf t k).busy = (opticOf s k).busy ∧ (opticOf t k).changed = (opticOf s k).changed ∧ (opticOf t k).waits = (opticOf s k).waits
  pairs : loops = false → ∀ k, (opticOf t k).pairs = (opticOf s k).pairs
  idle : ∀ cls inst, (calItem s cls inst).running = false → calItem t cls inst = calItem s cls inst
  out : OutGrows s t

theorem SameCore.besideLanes (h : SameCore s t) : t.besideLanes = s.besideLanes :=
  (congrArg (fun x : State => { x with
    optics := [], cal := { x.cal with items := [] }
    fab := { x.fab with ident := [], absent := [], unplanned := [], bypassed := [], inForce := [] } }) h.besideLinks :)

theorem LinkWork.laneWork (h : LinkWork s t) : LaneWork b s t where
  beside := (congrArg (fun x : State => { x with
    optics := [], cal := { x.cal with items := [] }
    fab := { x.fab with ident := [], absent := [], unplanned := [], bypassed := [], inForce := [] } }) h.beside :)
  dieCount := h.dieCount
  regs r hr := h.regs r fun hl => hr (.inl hl)
  engines := congrArg List.length h.optics
  commit k := by
    rw [opticOf_of_optics h.optics]
    exact ⟨rfl, rfl, rfl⟩
  pairs _ k := by rw [opticOf_of_optics h.optics]
  idle cls inst _ := calItem_of_cal (congrArg (fun x => x.items) h.cal) cls inst
  out := h.out

namespace LaneWork

theorem refl (s : State) : LaneWork b s s := ⟨rfl, rfl, fun _ _ => rfl, rfl, fun _ => ⟨rfl, rfl, rfl⟩, fun _ _ => rfl, fun _ _ _ => rfl, .refl s⟩

theorem trans (h : LaneWork b s t) (k : LaneWork b t u) : LaneWork b s u where
  beside := k.beside.trans h.beside
  dieCount := k.dieCount.trans h.dieCount
  regs r hr := (k.regs r (h.dieCount.symm ▸ hr)).trans (h.regs r hr)
  engines := k.engines.trans h.engines
  commit n := by
    obtain ⟨h1, h2, h3⟩ := h.commit n
    obtain ⟨k1, k2, k3⟩ := k.commit n
    exact ⟨k1.trans h1, k2.trans h2, k3.trans h3⟩
  pairs hb n := (k.pairs hb n).trans (h.pairs hb n)
  idle cls inst hi := by
    have hk := h.idle cls inst hi
    exact (k.idle cls inst (hk.symm ▸ hi)).trans hk
  out := h.out.trans k.out

theorem foldl {α : Type} (f : State → α → State) (hf : ∀ s a, LaneWork b s (f s a)) (l : List α) (s : State) : LaneWork b s (l.foldl f s) :=
  List.foldlRecOn _ _ (refl s) fun _ h a _ => h.trans (hf _ a)

theorem ite {p : Prop} [Decidable p] (h : LaneWork b s t) (k : LaneWork b s u) : LaneWork b s (if p then t else u) := by
  split
  · exact h
  · exact k

/-! ### Each operation -/

theorem setFldAt (s : State) (f : Fld) (d i j v : Nat) (hf : LaneReg s.dies.length (⟨f.reg, d, i, j⟩ : RegRef).addr) :
    LaneWork b s (setFldAt s f d i j v) :=
  ⟨((SameCore.refl s).setFldAt f d i j v).besideLanes, rfl, fun _ hr => regWord_setRegWord_other s (fun he => hr (he.symm ▸ hf)) _, rfl,
    fun _ => ⟨rfl, rfl, rfl⟩, fun _ _ => rfl, fun _ _ _ => rfl, .of_eq rfl⟩

theorem setOptEvent (s : State) {f : Fld} (hf : f.reg = .optEvent) (e : Nat) : LaneWork b s (setEventAt s f e 0 0) :=
  setFldAt s f e 0 0 1 (.inr (.inr ⟨e, by rw [hf]⟩))

theorem setCalEvent (s : State) {f : Fld} (hf : f.reg = .calEvent) : LaneWork b s (setEvent s f) :=
  setFldAt s f 0 0 0 1 (.inr (.inl (by rw [hf])))

theorem report (s : State) (code src handle : Nat) (d : List Byte) : LaneWork b s (report s code src handle d) :=
  (LinkWork.report s code src handle d).laneWork

theorem optReport (s : State) (e code : Nat) {f : Fld} (hf : f.reg = .optEvent) (d : List Byte) : LaneWork b s (optReport s e code f d) :=
  (setOptEvent s hf e).trans (report _ _ _ _ _)

/-- A change to an engine that leaves its commit and, unless `b`, its settings. -/
theorem modOptic (s : State) (e : Nat) {f : Optic → Optic}
    (hf : ∀ o, (f o).busy = o.busy ∧ (f o).changed = o.changed ∧ (f o).waits = o.waits ∧ (b = false → (f o).pairs = o.pairs)) :
    LaneWork b s (modOptic s e f) where
  beside := rfl
  dieCount := rfl
  regs _ _ := rfl
  engines := modOptic_length s e f
  commit k := by
    rw [opticOf_modOptic]
    split
    · rename_i hk
      obtain ⟨h1, h2, h3, -⟩ := hf (opticOf s e)
      rw [hk.1]
      exact ⟨h1, h2, h3⟩
    · exact ⟨rfl, rfl, rfl⟩
  pairs hb k := by
    rw [opticOf_modOptic]
    split
    · rename_i hk
      rw [hk.1]
      exact (hf (opticOf s e)).2.2.2 hb
    · rfl
  idle _ _ _ := rfl
  out := .of_eq rfl

theorem setElem (s : State) (e i : Nat) (x : Elem) : LaneWork b s (setElem s e i x) := modOptic s e fun _ => ⟨rfl, rfl, rfl, fun _ => rfl⟩
theorem steerElem (s : State) (e i : Nat) : LaneWork b s (steerElem s e i) := setElem s e i _
theorem setLaser (s : State) (e n : Nat) (x : Laser) : LaneWork b s (setLaser s e n x) := modOptic s e fun _ => ⟨rfl, rfl, rfl, fun _ => rfl⟩
theorem setLane (s : State) (e p c : Nat) (x : Lane) : LaneWork b s (setLane s e p c x) := modOptic s e fun _ => ⟨rfl, rfl, rfl, fun _ => rfl⟩
theorem modLane (s : State) (e p c : Nat) (f : Lane → Lane) : LaneWork b s (modLane s e p c f) := setLane s e p c _
theorem relinkLane (s : State) (e p : Nat) : LaneWork b s (relinkLane s e p) := (LinkWork.relink s _).laneWork

/-- A change of what is known of far ends. -/
theorem modFab (s : State) {x : Fabric} (hx : ({ x with links := [], waiting := [], changing := [], tofWait := [], ident := [], absent := [], unplanned := [], bypassed := [], inForce := [] } : Fabric) =
    { s.fab with links := [], waiting := [], changing := [], tofWait := [], ident := [], absent := [], unplanned := [], bypassed := [], inForce := [] }) :
    LaneWork b s { s with fab := x } :=
  ⟨(congrArg (fun y : Fabric => { s.besideLanes with fab := y }) hx :), rfl, fun _ _ => rfl, rfl, fun _ => ⟨rfl, rfl, rfl⟩, fun _ _ => rfl, fun _ _ _ => rfl, .of_eq rfl⟩

/-- A run that ends. -/
theorem endRun (s : State) {cls inst : Nat} (hr : (calItem s cls inst).running = true) (x : CalItem) : LaneWork b s (setCal s cls inst x) :=
  ⟨rfl, rfl, fun _ _ => rfl, rfl, fun _ => ⟨rfl, rfl, rfl⟩, fun _ _ => rfl, fun _ _ hi => calItem_setCal_other s (calKey_ne_of_running hr hi) x, .of_eq rfl⟩

theorem closeElem (s : State) (cls inst : Nat) : LaneWork b s (closeElem s cls inst) := by
  unfold Machine.closeElem
  exact ite (ite (refl s) (steerElem s _ _)) (refl s)

theorem calAbandon (s : State) (cls inst : Nat) : LaneWork b s (calAbandon s cls inst) := by
  unfold Machine.calAbandon
  dsimp only
  split
  · exact (((endRun s ‹_› _).trans (setCalEvent _ rfl)).trans (report _ _ _ _ _)).trans (closeElem _ _ _)
  · exact refl s

theorem abandonLane (s : State) (e p c : Nat) : LaneWork b s (abandonLane s e p c) := by
  unfold Machine.abandonLane
  exact foldl (fun s (k : Nat × Nat) => Machine.calAbandon s k.1 k.2) (fun s k => calAbandon s k.1 k.2) _ s

theorem dropLane (s : State) (e p c : Nat) : LaneWork b s (dropLane s e p c) := (modLane s e p c _).trans (optReport _ _ _ rfl _)

theorem coverLane (s : State) (e p c : Nat) (st : LaneState) : LaneWork b s (coverLane s e p c st) :=
  ((modLane s e p 8 _).trans (modLane _ e p c _)).trans (optReport _ _ _ rfl _)

theorem uncover (s : State) (e p : Nat) (dark : Bool) : LaneWork b s (uncover s e p dark) := by
  unfold Machine.uncover
  split
  · exact refl s
  · have h1 := modLane (b := b) s e p 8 fun x => { x with cover := none }
    dsimp only
    split
    · exact h1.trans (dropLane _ _ _ _)
    · exact (h1.trans (abandonLane _ _ _ _)).trans (ite (dropLane _ _ _ _) (modLane _ _ _ _ _))
    · exact h1.trans (ite (dropLane _ _ _ _) (refl _))
    · exact h1

theorem spareFree (s : State) (e p : Nat) : LaneWork b s (spareFree s e p) := by
  unfold Machine.spareFree
  dsimp only
  split
  · exact (modLane s _ _ _ _).trans (coverLane _ _ _ _ _)
  · exact modLane s _ _ _ _

/-! ### Lanes that start afresh (R352) -/

theorem releaseCover (e : Nat) (ch : List Nat) (s : State) (p : Nat) : LaneWork b s (releaseCover e ch s p) := by
  unfold Machine.releaseCover
  dsimp only
  split
  · exact refl s
  · exact ite (modLane s _ _ _ _) (ite (uncover s _ _ _) (refl s))

theorem startLane (e : Nat) (s : State) (l : Nat) : LaneWork b s (startLane e s l) := by
  unfold Machine.startLane
  extract_lets p c s1 o st _ s2 s3
  have h2 : LaneWork b s s2 := (abandonLane s _ _ _).trans (setLane _ _ _ _ _)
  have h3 : LaneWork b s2 s3 := ite ((setElem _ _ _ _).trans (setElem _ _ _ _)) ((steerElem _ _ _).trans (steerElem _ _ _))
  exact (h2.trans h3).trans (modFab s3 rfl)

theorem startPort (before : Optic) (e : Nat) (s : State) (p : Nat) : LaneWork b s (startPort before e s p) := by
  unfold Machine.startPort
  extract_lets o s1
  have h1 : LaneWork b s s1 :=
    ite (refl s) (ite ((steerElem _ _ _).trans (steerElem _ _ _)) ((setElem _ _ _ _).trans (setElem _ _ _ _)))
  exact ite (h1.trans (steerElem _ _ _)) h1

theorem lightLasers (s : State) (e : Nat) : LaneWork b s (lightLasers s e) := by
  refine foldl _ (fun s c => ?_) _ s
  dsimp only
  refine ite (refl s) ?_
  split
  · exact ((setLaser s _ _ _).trans (steerElem _ _ _)).trans (steerElem _ _ _)
  · exact refl s

theorem darkLasers (s : State) (e : Nat) : LaneWork b s (darkLasers s e) := modOptic s e fun _ => ⟨rfl, rfl, rfl, fun _ => rfl⟩

theorem startLanes (s : State) (e : Nat) (before : Optic) (ch : List Nat) : LaneWork b s (startLanes s e before ch) := by
  unfold Machine.startLanes
  extract_lets s1 s2 s3
  have h1 : LaneWork b s s1 := foldl _ (releaseCover e ch) _ s
  have h2 : LaneWork b s1 s2 := (foldl _ (startLane e) _ _).trans (foldl _ (startPort before e) _ _)
  have h3 : LaneWork b s2 s3 := ite (lightLasers _ _) (darkLasers _ _)
  refine ((h1.trans h2).trans h3).trans (foldl _ (fun s p => ?_) _ s3)
  exact (ite (spareFree _ _ _) (refl _)).trans (relinkLane _ _ _)

theorem forceExpect (e : Nat) (ch : List Nat) (s : State) : LaneWork b s (forceExpect e ch s) := modFab s rfl

/-! ### What stays -/

theorem recable (h : LaneWork b s t) : t.fab.recable = s.fab.recable := (congrArg (fun x : State => x.fab.recable) h.beside :)

end LaneWork

end Sys2Proof.Machine
end

section
/-!
SUPPORT. Runs of calibration: an item after a change of its conditions, a bad run, runs that begin together and runs whose references differ, and the
lanes while they run (R397 to R405).
-/
namespace Sys2Proof.Machine
open Sys2Proof

variable {s t u : State} {cls inst : Nat}

/-! ### Items after a change -/

theorem calItem_setCal_key (s : State) {c i : Nat} (h : calKey c i = calKey cls inst) (x : CalItem) :
    calItem (setCal s cls inst x) c i = x ∨ (x = calRest cls inst ∧ calItem (setCal s cls inst x) c i = calRest c i) := by
  rw [calItem, setCal, SMap.getD, SMap.setD, h]
  dsimp only
  split
  · rename_i hx
    rw [SMap.find_erase_self]
    exact .inr ⟨by simpa using hx, rfl⟩
  · rw [SMap.find_insert_self]
    exact .inl rfl

theorem idle_setCal {c i : Nat} {x : CalItem} (hx : x.running = false) (h : (calItem s c i).running = false) :
    (calItem (setCal s cls inst x) c i).running = false := by
  by_cases hk : calKey c i = calKey cls inst
  · rcases calItem_setCal_key s hk x with hi | ⟨-, hi⟩
    · rw [hi, hx]
    · rw [hi, calRest_idle]
  · rw [calItem_setCal_other s hk, h]

/-- An item whose conditions changed is due as they say, in a place of its own. -/
theorem calItem_putCal (s : State) (cls inst : Nat) (x : CalItem) :
    ∃ r, calItem (putCal s cls inst x) cls inst = { x with due := x.isDue, rank := r } := by
  unfold putCal
  split
  · rename_i h
    exact ⟨s.cal.ranks + 1, by rw [calItem_setCal_same, ((Bool.and_eq_true_iff.1 h).1)]⟩
  · exact ⟨x.rank, by rw [calItem_setCal_same]⟩

theorem putCal_beside (s : State) (cls inst : Nat) (x : CalItem) : { putCal s cls inst x with cal := s.cal } = s := by
  unfold putCal
  split <;> rfl

theorem putCal_optics (s : State) (cls inst : Nat) (x : CalItem) : (putCal s cls inst x).optics = s.optics := 
  (congrArg State.optics (putCal_beside s cls inst x) :)

theorem putCal_mismatch (s : State) (cls inst : Nat) (x : CalItem) : (putCal s cls inst x).cal.mismatch = s.cal.mismatch := by
  unfold putCal
  split <;> rfl

theorem idle_putCal {c i : Nat} {x : CalItem} (hx : x.running = false) (h : (calItem s c i).running = false) :
    (calItem (putCal s cls inst x) c i).running = false := by
  unfold putCal
  split
  · exact idle_setCal (s := { s with cal := { s.cal with ranks := s.cal.ranks + 1 } }) hx h
  · exact idle_setCal hx h

/-! ### Lanes and elements beside them -/

theorem laneOf_modOptic {e : Nat} {f : Optic → Optic} (hf : ∀ o, (f o).lanes = o.lanes) (k p c : Nat) :
    laneOf (modOptic s e f) k p c = laneOf s k p c := by
  rw [laneOf, laneOf, Optic.lane, Optic.lane, opticOf_modOptic]
  split
  · rename_i h
    rw [hf, h.1]
  · rfl

theorem laneOf_setElem (s : State) (e i : Nat) (x : Elem) (k p c : Nat) : laneOf (setElem s e i x) k p c = laneOf s k p c :=
  laneOf_modOptic (f := fun o => { o with elems := SMap.setD o.elems i x Elem.rest }) (fun _ => rfl) k p c

theorem closeElem_cal (s : State) (cls inst : Nat) : (closeElem s cls inst).cal = s.cal := by
  unfold closeElem
  dsimp only
  split
  · split <;> rfl
  · rfl

theorem closeElem_lanes (s : State) (cls inst e p c : Nat) : laneOf (closeElem s cls inst) e p c = laneOf s e p c := by
  unfold closeElem
  dsimp only
  split
  · split
    · rfl
    · exact laneOf_setElem s _ _ _ e p c
  · rfl

theorem laneDone_cal (s : State) (e p c : Nat) : (laneDone s e p c).cal = s.cal := by
  unfold laneDone
  split <;> rfl

theorem laneAfterRun_cal (s : State) (cls inst : Nat) : (laneAfterRun s cls inst).cal = s.cal := by
  unfold laneAfterRun
  split
  · exact laneDone_cal _ _ _ _
  · rfl

theorem report_calEvent (s : State) (f : Fld) (code src handle : Nat) (d : List Byte) : SameCore s (report (setEvent s f) code src handle d) :=
  ((SameCore.refl s).setEvent f).report code src handle d

/-! ### Bad runs -/

/-- An item after a bad run (R398, R405). -/
def CalItem.afterBad (x : CalItem) (sec r : Nat) : CalItem :=
  { x with running := false, asked := false, again := false, due := x.source == .factory || x.source == .none || x.hot, rank := r,
           bad := min 3 (x.bad + 1), badAt := some sec, failed := x.failed || decide (2 ≤ x.bad) }

theorem calBad_cal (s : State) (cls inst : Nat) :
    (calBad s cls inst).cal = (putCal s cls inst { calItem s cls inst with
      running := false, asked := false, again := false, bad := min 3 ((calItem s cls inst).bad + 1), badAt := some s.tb.sec
      failed := (calItem s cls inst).failed || decide (3 ≤ min 3 ((calItem s cls inst).bad + 1)) }).cal := by
  unfold calBad
  dsimp only
  split
  · exact (report_calEvent _ _ _ _ _ _).cal.trans (closeElem_cal _ _ _)
  · exact closeElem_cal _ _ _

theorem calItem_calBad (s : State) (cls inst : Nat) :
    ∃ r, calItem (calBad s cls inst) cls inst = (calItem s cls inst).afterBad s.tb.sec r := by
  obtain ⟨r, hr⟩ := calItem_putCal s cls inst { calItem s cls inst with
      running := false, asked := false, again := false, bad := min 3 ((calItem s cls inst).bad + 1), badAt := some s.tb.sec
      failed := (calItem s cls inst).failed || decide (3 ≤ min 3 ((calItem s cls inst).bad + 1)) }
  have hb : decide (3 ≤ min 3 ((calItem s cls inst).bad + 1)) = decide (2 ≤ (calItem s cls inst).bad) := decide_eq_decide.2 (by omega)
  refine ⟨r, ((calItem_of_cal (congrArg (fun x => x.items) (calBad_cal s cls inst)) cls inst).trans hr).trans ?_⟩
  simp only [CalItem.afterBad, CalItem.isDue, hb, Bool.or_false]

theorem calBad_mismatch (s : State) (cls inst : Nat) : (calBad s cls inst).cal.mismatch = s.cal.mismatch := by
  rw [calBad_cal, putCal_mismatch]

/-- References that differ: a bad run, counted for the block. -/
theorem refMismatch_bad (s : State) (cls inst : Nat) :
    (∃ r, calItem (refMismatch s cls inst) cls inst = (calItem s cls inst).afterBad s.tb.sec r) ∧
    SMap.getD (refMismatch s cls inst).cal.mismatch (calBlock cls inst) 0 = SMap.getD s.cal.mismatch (calBlock cls inst) 0 + 1 := by
  unfold refMismatch
  extract_lets b n _ s1 s2
  have h2 : SameCore s1 s2 := by
    dsimp only [s2]
    split
    · exact (SameCore.refl s1).setRegWord _ _
    · exact SameCore.refl s1
  have h3 := h2.trans (report_calEvent s2 F.calEventRefMismatch C.calRefMismatch (calSource s cls inst) 0xFFFF (d4 b))
  generalize report (setEvent s2 F.calEventRefMismatch) C.calRefMismatch (calSource s cls inst) 0xFFFF (d4 b) = s3 at h3 ⊢
  obtain ⟨r, hr⟩ := calItem_calBad s3 cls inst
  refine ⟨⟨r, hr.trans ?_⟩, ?_⟩
  · rw [calItem_of_cal (congrArg (fun x => x.items) h3.cal) cls inst, h3.tb]
    rfl
  · rw [calBad_mismatch, h3.cal]
    exact congrArg (fun x => Option.getD x 0) (SMap.find_insert_self s.cal.mismatch b n)

/-! ### Runs whose references differ -/

/-- From `s` to `t` no run has begun and every lane stands as it did. -/
structure NoRuns (s t : State) : Prop where
  lanes : ∀ e p c, laneOf t e p c = laneOf s e p c
  engines : t.optics.length = s.optics.length
  idle : ∀ c i, (calItem s c i).running = false → (calItem t c i).running = false

namespace NoRuns

theorem refl (s : State) : NoRuns s s := ⟨fun _ _ _ => rfl, rfl, fun _ _ h => h⟩

theorem trans (h : NoRuns s t) (k : NoRuns t u) : NoRuns s u :=
  ⟨fun e p c => (k.lanes e p c).trans (h.lanes e p c), k.engines.trans h.engines, fun c i hi => k.idle c i (h.idle c i hi)⟩

theorem of_eq (ho : t.optics = s.optics) (hc : t.cal.items = s.cal.items) : NoRuns s t :=
  ⟨laneOf_of_optics ho, congrArg List.length ho, fun c i hi => (calItem_of_cal hc c i).symm ▸ hi⟩

theorem of_core (h : SameCore s t) : NoRuns s t := of_eq h.optics (congrArg (fun x => x.items) h.cal)

theorem foldl {α : Type} (f : State → α → State) (hf : ∀ s a, NoRuns s (f s a)) (l : List α) (s : State) : NoRuns s (l.foldl f s) :=
  List.foldlRecOn _ _ (refl s) fun _ h a _ => h.trans (hf _ a)

theorem putCal (s : State) (cls inst : Nat) {x : CalItem} (hx : x.running = false) : NoRuns s (putCal s cls inst x) :=
  ⟨laneOf_of_optics (putCal_optics s cls inst x), congrArg List.length (putCal_optics s cls inst x), fun _ _ h => idle_putCal hx h⟩

theorem closeElem (s : State) (cls inst : Nat) : NoRuns s (closeElem s cls inst) :=
  ⟨closeElem_lanes s cls inst, (LaneWork.closeElem (b := false) s cls inst).engines,
    fun c i h => (calItem_of_cal (congrArg (fun x => x.items) (closeElem_cal s cls inst)) c i).symm ▸ h⟩

theorem calBad (s : State) (cls inst : Nat) : NoRuns s (calBad s cls inst) := by
  unfold Machine.calBad
  extract_lets x n s1
  have h1 : NoRuns s s1 := (putCal s cls inst rfl).trans (closeElem _ _ _)
  split
  · exact h1.trans (of_core (report_calEvent _ _ _ _ _ _))
  · exact h1

theorem runItem (s : State) (k : Nat × Nat) : NoRuns s (runItem true s k) := by
  unfold Machine.runItem refMismatch
  dsimp only
  split
  · exact refl s
  · refine NoRuns.trans (NoRuns.trans ?_ (of_core (report_calEvent _ F.calEventRefMismatch _ _ _ _))) (calBad _ _ _)
    split
    · exact of_eq rfl rfl
    · exact of_eq rfl rfl

theorem runDue (s : State) (l : List (Nat × Nat)) : NoRuns s (runDue true s l) := by
  refine foldl _ (fun s k => ?_) l s
  split
  · exact runItem s k
  · exact refl s

theorem laneRuns (h : NoRuns s t) {e p c : Nat} (hr : laneRuns s e p c = false) : laneRuns t e p c = false := by
  rw [Machine.laneRuns, List.any_eq_false] at hr ⊢
  exact fun k hk => Bool.not_eq_true _ ▸ h.idle k.1 k.2 (Bool.not_eq_true _ ▸ hr k hk)

end NoRuns

/-! ### Runs that begin -/

/-- From `s` to `t` runs have begun, and no references have faulted. -/
structure Begins (s t : State) : Prop where
  beside : { t with cal := s.cal } = s
  faults : ∀ b, refFaulted s b = false → refFaulted t b = false
  items : ∀ c i, (calItem t c i).running = true ∨ calItem t c i = calItem s c i

theorem mayRun_iff (s : State) (cls inst : Nat) : mayRun s cls inst = true ↔
    calExists s.ident cls inst = true ∧ (calItem s cls inst).running = false ∧ s.active.isSome = true ∧ s.phase = .running ∧
    (fld s F.calCtlEnable = 1 ∨ (calItem s cls inst).asked = true) ∧ refFaulted s (calBlock cls inst) = false ∧ calShut s cls inst = false ∧
    ((cls = 0 ∨ cls = 3) → elemRuns s (inst / 200) < 8) := by
  have hc : (!(cls == 0 || cls == 3) || decide (elemRuns s (inst / 200) < 8)) = true ↔ ((cls = 0 ∨ cls = 3) → elemRuns s (inst / 200) < 8) := by
    rw [imp_iff_not_or]
    simp
  simp only [mayRun, Bool.and_eq_true, hc, Bool.not_eq_true', decide_eq_true_eq, Bool.or_eq_true, beq_iff_eq, and_assoc]

theorem calShut_of (h : t.pace = s.pace) (cls inst : Nat) : calShut t cls inst = calShut s cls inst := by
  rw [calShut, calShut]
  simp only [isShut, h]

namespace Begins

theorem refl (s : State) : Begins s s := ⟨rfl, fun _ h => h, fun _ _ => .inr rfl⟩

theorem trans (h : Begins s t) (k : Begins t u) : Begins s u where
  beside := (congrArg (fun x : State => { x with cal := s.cal }) k.beside).trans h.beside
  faults b hb := k.faults b (h.faults b hb)
  items c i := by
    rcases k.items c i with hk | hk
    · exact .inl hk
    · rw [hk]
      exact h.items c i

theorem foldl {α : Type} (f : State → α → State) (hf : ∀ s a, Begins s (f s a)) (l : List α) (s : State) : Begins s (l.foldl f s) :=
  List.foldlRecOn _ _ (refl s) fun _ h a _ => h.trans (hf _ a)

theorem running (h : Begins s t) {c i : Nat} (hr : (calItem s c i).running = true) : (calItem t c i).running = true := by
  rcases h.items c i with hk | hk
  · exact hk
  · rw [hk, hr]

theorem optics (h : Begins s t) : t.optics = s.optics := (congrArg State.optics h.beside :)

/-- A run that may begin still may, where it is no element's. -/
theorem mayRun (h : Begins s t) {c i : Nat} (hc : c = 1 ∨ c = 2) (hi : calItem t c i = calItem s c i) (hm : mayRun s c i = true) :
    mayRun t c i = true := by
  obtain ⟨hx, hr, ha, hp, hen, hf, hs, -⟩ := (mayRun_iff s c i).1 hm
  have hid : t.ident = s.ident := (congrArg State.ident h.beside :)
  refine (mayRun_iff t c i).2 ⟨hid.symm ▸ hx, hi.symm ▸ hr, (congrArg State.active h.beside :).symm ▸ ha, (congrArg State.phase h.beside :).trans hp, ?_,
    h.faults _ hf, (calShut_of (congrArg State.pace h.beside :) c i).trans hs, fun hk => by omega⟩
  rw [hi, show fld t F.calCtlEnable = fld s F.calCtlEnable from (congrArg (fun x => fld x F.calCtlEnable) h.beside :)]
  exact hen

/-- Before the comparison of the references of a block, none has failed. -/
theorem clear (s : State) (b : Nat) : Begins s { s with cal := { s.cal with mismatch := SMap.erase s.cal.mismatch b } } where
  beside := rfl
  faults k hk := by
    rw [refFaulted] at hk ⊢
    split
    · rwa [if_pos ‹_›] at hk
    · rw [if_neg ‹_›, decide_eq_false_iff_not] at hk
      rw [decide_eq_false_iff_not]
      by_cases hkb : k = b
      · rw [SMap.getD, hkb, SMap.find_erase_self]
        decide
      · rw [SMap.getD, SMap.find_erase_ne _ hkb]
        exact hk
  items _ _ := .inr rfl

theorem calBegin (s : State) (cls inst : Nat) : Begins s (calBegin s cls inst) where
  beside := rfl
  faults _ h := h
  items c i := by
    by_cases hk : calKey c i = calKey cls inst
    · rcases calItem_setCal_key s hk { calItem s cls inst with running := true, starved := false } with hi | ⟨hr, -⟩
      · exact .inl (congrArg CalItem.running hi)
      · exact Bool.noConfusion (show true = false from (congrArg CalItem.running hr).trans (calRest_idle cls inst))
    · exact .inr (calItem_setCal_other s hk _)

theorem runItem (s : State) (k : Nat × Nat) : Begins s (runItem false s k) := by
  unfold Machine.runItem
  dsimp only
  split
  · exact refl s
  · rw [if_neg Bool.false_ne_true]
    exact (clear s _).trans (calBegin _ _ _)

theorem runDue (s : State) (l : List (Nat × Nat)) : Begins s (runDue false s l) := by
  refine foldl _ (fun s k => ?_) l s
  split
  · exact runItem s k
  · exact refl s

end Begins

/-- A run that may begin, whose references agree, begins. -/
theorem runItem_agreed (h : refFaulted s (calBlock cls inst) = false) :
    calItem (runItem false s (cls, inst)) cls inst = { calItem s cls inst with running := true, starved := false } := by
  rw [runItem]
  dsimp only
  rw [if_neg (by rw [h]; decide), if_neg Bool.false_ne_true, calBegin, calItem_setCal_same]
  rfl

theorem runItem_running (h : mayRun s cls inst = true) : (calItem (runItem false s (cls, inst)) cls inst).running = true := by
  obtain ⟨-, -, -, -, -, hf, -⟩ := (mayRun_iff s cls inst).1 h
  rw [runItem_agreed hf]

/-- Of items one of which is due and may run, some run. -/
theorem runDue_some {l : List (Nat × Nat)} {k : Nat × Nat} (hk : k ∈ l) (hd : (calItem s k.1 k.2).due = true) (hm : mayRun s k.1 k.2 = true) :
    ∃ k ∈ l, (calItem (runDue false s l) k.1 k.2).running = true := by
  induction l with
  | nil => cases hk
  | cons a l ih =>
    rw [runDue, List.foldl_cons]
    by_cases ha : ((calItem s a.1 a.2).due && mayRun s a.1 a.2) = true
    · rw [if_pos ha]
      exact ⟨a, List.mem_cons_self, (Begins.runDue _ l).running (runItem_running ((Bool.and_eq_true_iff.1 ha).2))⟩
    · rw [if_neg ha]
      rcases List.mem_cons.1 hk with rfl | hk
      · exact absurd (Bool.and_eq_true_iff.2 ⟨hd, hm⟩) ha
      · obtain ⟨j, hj, hr⟩ := ih hk
        exact ⟨j, List.mem_cons_of_mem _ hj, hr⟩

/-- A DAC or RX item that is due and may run, of those named, runs. -/
theorem runDue_runs {l : List (Nat × Nat)} {k : Nat × Nat} (hk : k ∈ l) (hc : k.1 = 1 ∨ k.1 = 2) (hd : (calItem s k.1 k.2).due = true)
    (hm : mayRun s k.1 k.2 = true) : (calItem (runDue false s l) k.1 k.2).running = true := by
  induction l generalizing s with
  | nil => cases hk
  | cons a l ih =>
    rw [runDue, List.foldl_cons]
    by_cases ha : a = k
    · rw [ha, if_pos (Bool.and_eq_true_iff.2 ⟨hd, hm⟩)]
      exact (Begins.runDue _ l).running (runItem_running hm)
    · have hk' := (List.mem_cons.1 hk).resolve_left (Ne.symm ha)
      have hb : Begins s (if (calItem s a.1 a.2).due && mayRun s a.1 a.2 then runItem false s a else s) := by
        split
        · exact Begins.runItem s a
        · exact Begins.refl s
      rcases hb.items k.1 k.2 with hr | hi
      · exact (Begins.runDue _ l).running hr
      · exact ih hk' (hi.symm ▸ hd) (hb.mayRun hc hi hm)

end Sys2Proof.Machine
end

section
/-!
SUPPORT. The commands of calibration: a run that starts, ends or is due again, a record written back, the registers of records, and a window that the
far end announces (R398 to R410).
-/
namespace Sys2Proof.Machine
open Sys2Proof

variable {s t u : State} {cls inst e p c : Nat}

/-! ### What may start -/

theorem mayStart_iff (s : State) (cls inst : Nat) (h : calMayStart s cls inst = true) :
    (calItem s cls inst).due = true ∧ mayRun s cls inst = true := by
  obtain ⟨hr, -⟩ := Bool.and_eq_true_iff.1 h
  obtain ⟨hr, -⟩ := Bool.and_eq_true_iff.1 hr
  exact Bool.and_eq_true_iff.1 hr

theorem calRunStart_refused (h : calMayStart s cls inst = false) (m : Bool) : exec (.calRunStart cls inst m) s = .next s := congrArg done (if_pos h)

theorem calRunStart_now (h : calMayStart s cls inst = true) (hg : itemGap s cls inst = .now) (m : Bool) :
    exec (.calRunStart cls inst m) s = .next (runItem m s (cls, inst)) := by
  refine congrArg done ((if_neg (by rw [h]; decide)).trans ?_)
  rw [hg]

theorem runItem_differing (h : refFaulted s (calBlock cls inst) = false) : runItem true s (cls, inst) = refMismatch s cls inst := by
  rw [runItem]
  exact (if_neg (by rw [h]; decide)).trans (if_pos rfl)

/-! ### An item of a lane -/

theorem mem_laneItems (k : Nat × Nat) (e p c : Nat) : k ∈ laneItems e p c ↔
    ((k.1 = 0 ∨ k.1 = 3) ∧ (k.2 = 200 * e + (9 * p + c) ∨ k.2 = 200 * e + 72 + (9 * p + c))) ∨ ((k.1 = 1 ∨ k.1 = 2) ∧ k.2 = 72 * e + (9 * p + c)) := by
  obtain ⟨x, y⟩ := k
  simp only [laneItems, List.mem_cons, Prod.mk.injEq, List.not_mem_nil, or_false]
  omega

theorem itemLane_eq (h : itemLane cls inst = some (e, p, c)) : p < 8 ∧ c < 9 ∧ (cls, inst) ∈ laneItems e p c := by
  rw [mem_laneItems]
  unfold itemLane at h
  dsimp only at h ⊢
  split at h
  · simp only [Option.some.injEq, Prod.mk.injEq] at h
    omega
  · simp only [Option.some.injEq, Prod.mk.injEq] at h
    omega
  · split at h
    · simp only [Option.some.injEq, Prod.mk.injEq] at h
      omega
    · cases h

theorem laneGap_spare (h : laneGap s e p c = .spare) : c = 8 ∧ (laneOf s e p 8).st = .spareIdle := by
  unfold laneGap at h
  dsimp only at h
  split at h
  · cases h
  · split at h
    · cases h
    · split at h
      · split at h
        · exact ⟨‹_›, ‹_›⟩
        · cases h
      · split at h <;> cases h

theorem itemGap_lane (h : itemLane cls inst = some (e, p, c)) : itemGap s cls inst = laneGap s e p c := by
  rw [itemGap, h]

/-! ### Announcements -/

theorem tellFar_fabric (s : State) (e p c start : Nat) : FabricOnly s (tellFar s e p c start) := by
  unfold tellFar
  split
  · exact (FabricOnly.refl s).queueFrom _ _ _ _
  · exact FabricOnly.refl s

theorem FabricOnly.mayRun (h : FabricOnly s t) (cls inst : Nat) : mayRun t cls inst = mayRun s cls inst := by
  obtain ⟨l, w, o, n, x, f, rfl⟩ := h
  rfl

theorem mayRun_modLane (s : State) (e p c : Nat) (f : Lane → Lane) (cls inst : Nat) : mayRun (modLane s e p c f) cls inst = mayRun s cls inst := rfl

theorem tellFar_optics (s : State) (e p c start : Nat) : (tellFar s e p c start).optics = s.optics := (tellFar_fabric s e p c start).linkWork.optics
theorem tellFar_cal (s : State) (e p c start : Nat) : (tellFar s e p c start).cal = s.cal := (tellFar_fabric s e p c start).linkWork.cal

theorem laneDone_running {k : Nat × Nat} (hk : k ∈ laneItems e p c) (hr : (calItem s k.1 k.2).running = true) : laneDone s e p c = s := by
  have h : laneRuns s e p c = true := List.any_eq_true.2 ⟨k, hk, hr⟩
  rw [laneDone, h]
  exact if_neg fun hx => Bool.noConfusion hx.2

/-- Of a lane in CAL at least one due item runs, and those of its DAC and RX items that may. -/
theorem laneDone_runDue {k : Nat × Nat} (hk : k ∈ laneItems e p c) (hd : (calItem s k.1 k.2).due = true) (hm : mayRun s k.1 k.2 = true) :
    (∃ k ∈ laneItems e p c, (calItem (laneDone (runDue false s (laneItems e p c)) e p c) k.1 k.2).running = true) ∧
    laneOf (laneDone (runDue false s (laneItems e p c)) e p c) e p c = laneOf s e p c ∧
    (k.1 = 1 ∨ k.1 = 2 → (calItem (laneDone (runDue false s (laneItems e p c)) e p c) k.1 k.2).running = true) := by
  obtain ⟨j, hj, hr⟩ := runDue_some hk hd hm
  rw [laneDone_running hj hr]
  exact ⟨⟨j, hj, hr⟩, laneOf_of_optics (Begins.runDue s _).optics e p c, fun hc => runDue_runs hk hc hd hm⟩

theorem spareCal_runs (h : itemLane cls inst = some (e, p, 8)) (he : e < s.optics.length) (hd : (calItem s cls inst).due = true)
    (hm : mayRun s cls inst = true) :
    (laneOf (spareCal s e p false) e p 8).st = .cal ∧ (∃ k ∈ laneItems e p 8, (calItem (spareCal s e p false) k.1 k.2).running = true) ∧
    (cls = 1 ∨ cls = 2 → (calItem (spareCal s e p false) cls inst).running = true) := by
  obtain ⟨-, -, hmem⟩ := itemLane_eq h
  have hf := tellFar_fabric s e p 8 (now s)
  have hi : calItem (tellFar s e p 8 (now s)) cls inst = calItem s cls inst := calItem_of_cal (congrArg (fun x => x.items) hf.linkWork.cal) cls inst
  have hl : (laneOf (modLane (tellFar s e p 8 (now s)) e p 8 fun x => { x with st := .cal, full := false }) e p 8).st = .cal := by
    rw [laneOf_modLane_same (by rw [tellFar_optics]; exact he) p _ (by omega)]
  obtain ⟨hsome, hst, hrun⟩ := laneDone_runDue (s := modLane (tellFar s e p 8 (now s)) e p 8 fun x => { x with st := .cal, full := false }) hmem
    (hi.symm ▸ hd) ((mayRun_modLane _ _ _ _ _ _ _).trans ((hf.mayRun cls inst).trans hm))
  exact ⟨(congrArg Lane.st hst).trans hl, hsome, hrun⟩

theorem announceCal_planned (he : e < s.optics.length) (p : Nat) (hc : c < 9) :
    (laneOf (announceCal s e p c) e p c).planned = true ∧ ∀ k i, calItem (announceCal s e p c) k i = calItem s k i := by
  refine ⟨?_, fun k i => (calItem_of_cal (congrArg (fun x => x.items) (tellFar_cal _ _ _ _ _)) k i).trans rfl⟩
  rw [announceCal]
  refine (congrArg Lane.planned (laneOf_of_optics (tellFar_optics _ _ _ _ _) e p c)).trans ?_
  rw [laneOf_modLane_same (by exact he) p _ hc]

/-! ### Ends of runs -/

theorem calRunTimeout_idle (h : (calItem s cls inst).running = false) : exec (.calRunTimeout cls inst) s = .next s := congrArg done (if_pos h)

theorem calRunComplete_idle (h : (calItem s cls inst).running = false) (w : List Word) (q tm : Nat) (mv : Bool) :
    exec (.calRunComplete cls inst w q tm mv) s = .next s := congrArg done (if_pos h)

/-- A bad run after its report. -/
theorem badRun (hs : SameCore s t) : ∃ r, calItem (laneAfterRun (calBad t cls inst) cls inst) cls inst = (calItem s cls inst).afterBad s.tb.sec r := by
  obtain ⟨r, hr⟩ := calItem_calBad t cls inst
  refine ⟨r, (calItem_of_cal (congrArg (fun x => x.items) (laneAfterRun_cal _ _ _)) cls inst).trans (hr.trans ?_)⟩
  rw [calItem_of_cal (congrArg (fun x => x.items) hs.cal) cls inst, hs.tb]

theorem calRunTimeout_bad (h : (calItem s cls inst).running = true) :
    ∃ t, exec (.calRunTimeout cls inst) s = .next t ∧ ∃ r, calItem t cls inst = (calItem s cls inst).afterBad s.tb.sec r :=
  ⟨_, congrArg done (if_neg (by rw [h]; decide)), badRun (report_calEvent s _ _ _ _ _)⟩

theorem calRunComplete_bad (h : (calItem s cls inst).running = true) {q : Nat} (hq : calGood cls q = false) (w : List Word) (tm : Nat) (mv : Bool) :
    ∃ t, exec (.calRunComplete cls inst w q tm mv) s = .next t ∧ ∃ r, calItem t cls inst = (calItem s cls inst).afterBad s.tb.sec r :=
  ⟨_, congrArg done ((if_neg (by rw [h]; decide)).trans (if_neg (by rw [hq]; decide))), badRun (report_calEvent s _ _ _ _ _)⟩

/-! ### The light that an item lets on -/

theorem commitPairs_idle (s : State) (e : Nat) (pairs : SMap PairSet) (more : List Nat) (h : (calItem s cls inst).running = false) :
    calItem (commitPairs s e pairs more) cls inst = calItem s cls inst := by
  unfold commitPairs
  extract_lets before after ch s1
  have h1 : calItem s1 cls inst = calItem s cls inst := calItem_of_cal rfl cls inst
  clear_value s1
  have hw := (LaneWork.forceExpect (b := true) e ch s1).trans (LaneWork.startLanes _ e before ch)
  exact (hw.idle cls inst (h1.symm ▸ h)).trans h1

theorem lightRises_idle (b s : State) (e : Nat) (h : (calItem s cls inst).running = false) : calItem (lightRises b s e) cls inst = calItem s cls inst := by
  unfold lightRises
  split
  · rfl
  · split
    · exact commitPairs_idle s e _ _ h
    · exact (LaneWork.startLanes (b := true) s e _ _).idle cls inst h

theorem litBy_idle (b s : State) (c i : Nat) (h : (calItem s cls inst).running = false) : calItem (litBy b s c i) cls inst = calItem s cls inst := by
  unfold litBy
  split
  · exact lightRises_idle b s _ h
  · rfl

/-- What a good run's or a restored record's values are once they are in force. -/
theorem calItem_inForce {x : CalItem} (hx : x.running = false) (hs : t.cal = (putCal s cls inst x).cal) (b : State) :
    ∃ r, calItem (litBy b t cls inst) cls inst = { x with due := x.isDue, rank := r } := by
  obtain ⟨r, hr⟩ := calItem_putCal s cls inst x
  have ht : calItem t cls inst = { x with due := x.isDue, rank := r } := (calItem_of_cal (congrArg (fun x => x.items) hs) cls inst).trans hr
  exact ⟨r, (litBy_idle b t cls inst (by rw [ht]; exact hx)).trans ht⟩

/-- An item after a good run (R404). -/
def measuredItem (s : State) (cls inst : Nat) (w : List Word) (q tm : Nat) (mv : Bool) : CalItem :=
  { calItem s cls inst with
    source := .measured, running := false, asked := false, failed := false, bad := 0, badAt := none, tref := tm % 4096, quality := q % 65536
    effect := calSec s, values := (w ++ (calItem s cls inst).values.drop w.length).take (calWords cls), again := mv
    hot := strays s cls (calMean s (calDomain cls inst)) (signedOf 12 tm) }

theorem calRunComplete_good (h : (calItem s cls inst).running = true) {q : Nat} (hq : calGood cls q = true) (w : List Word) (tm : Nat) (mv : Bool) :
    ∃ t r, exec (.calRunComplete cls inst w q tm mv) s = .next t ∧
      calItem t cls inst = { measuredItem s cls inst w q tm mv with due := (measuredItem s cls inst w q tm mv).isDue, rank := r } := by
  obtain ⟨r, hr⟩ := calItem_inForce (s := s) (cls := cls) (inst := inst) (x := measuredItem s cls inst w q tm mv)
    (t := laneAfterRun (setEvent (closeElem (putCal s cls inst (measuredItem s cls inst w q tm mv)) cls inst) F.calEventRunDone) cls inst) rfl
    ((laneAfterRun_cal _ _ _).trans (closeElem_cal _ _ _)) s
  exact ⟨_, r, congrArg done ((if_neg (by rw [h]; decide)).trans (if_pos hq)), hr⟩

theorem calBadRunRetry_due (hb : (calItem s cls inst).badAt ≠ none) (hr : (calItem s cls inst).running = false) :
    ∃ t, exec (.calBadRunRetry cls inst) s = .next t ∧ ∃ r, calItem t cls inst =
      { calItem s cls inst with due := true, again := true, badAt := none, rank := r } := by
  obtain ⟨r, hp⟩ := calItem_putCal s cls inst { calItem s cls inst with again := true, badAt := none }
  refine ⟨_, congrArg done (if_pos ⟨Option.isSome_iff_ne_none.2 hb, hr⟩), r, hp.trans ?_⟩
  simp only [CalItem.isDue, Bool.or_true]

theorem calBadRunRetry_none (h : (calItem s cls inst).badAt = none ∨ (calItem s cls inst).running = true) :
    exec (.calBadRunRetry cls inst) s = .next s := by
  refine congrArg done (if_neg fun ⟨hb, hr⟩ => ?_)
  rcases h with h | h
  · rw [h] at hb
    cases hb
  · rw [h] at hr
    cases hr

theorem calStarved_once (hd : (calItem s cls inst).due = true) (hr : (calItem s cls inst).running = false) (hs : (calItem s cls inst).starved = false)
    (hx : calExists s.ident cls inst = true) :
    ∃ t, exec (.calStarved cls inst) s = .next t ∧ calItem t cls inst = { calItem s cls inst with starved := true } := by
  refine ⟨_, congrArg done (if_pos (by rw [hd, hr, hs, hx]; rfl)), ?_⟩
  rw [calItem_of_cal (congrArg (fun x => x.items) (report_calEvent _ _ _ _ _ _).cal), calItem_setCal_same]

theorem calStarved_none (h : (calItem s cls inst).due = false ∨ (calItem s cls inst).running = true ∨ (calItem s cls inst).starved = true ∨
    calExists s.ident cls inst = false) : exec (.calStarved cls inst) s = .next s := by
  refine congrArg done (if_neg ?_)
  rcases h with h | h | h | h <;> simp [h]

end Sys2Proof.Machine
end

section
/-!
SUPPORT. Records written back and read, and a window that the far end announces (R402, R406, R410).
-/
namespace Sys2Proof.Machine
open Sys2Proof

variable {s t u : State} {cls inst e p c : Nat} {o : Origin} {v : Word}

/-! ### Records -/

/-- An item after a record is written back (R406). -/
def restoredItem (s s1 : State) (cls inst : Nat) (r : List Word) : CalItem :=
  { calItem s1 cls inst with
    source := .restored, running := false, failed := false, bad := 0, badAt := none, tref := ((r[2]?).getD 0).toNat % 4096
    quality := ((r[2]?).getD 0).toNat / 65536, effect := calSec s, values := (r.drop 3).take (calWords cls), again := false
    hot := strays s cls (calMean s (calDomain cls inst)) (signedOf 12 (((r[2]?).getD 0).toNat % 4096)) }

theorem calItem_calRestoreItem (s : State) (cls inst : Nat) (r : List Word) : ∃ s1 n, calItem (calRestoreItem s cls inst r) cls inst =
    { restoredItem s s1 cls inst r with due := (restoredItem s s1 cls inst r).isDue, rank := n } := by
  obtain ⟨n, hn⟩ := calItem_inForce (s := laneAfterRun (calAbandon s cls inst) cls inst) (cls := cls) (inst := inst)
    (x := restoredItem s (laneAfterRun (calAbandon s cls inst) cls inst) cls inst r)
    (t := setEvent (putCal (laneAfterRun (calAbandon s cls inst) cls inst) cls inst
      (restoredItem s (laneAfterRun (calAbandon s cls inst) cls inst) cls inst r)) F.calEventRestored) rfl rfl s
  exact ⟨_, n, hn⟩

theorem calCommit_absent (h : calExists s.ident cls inst = false) (r : List Word) : calCommit s cls inst r = (s, C.regAbsent) := if_pos h

theorem calCommit_bad {r : List Word} (h : calExists s.ident cls inst = true) (hr : recordOk s cls inst r = false) :
    calCommit s cls inst r = (s, C.calRestoreBad) :=
  (if_neg (by rw [h]; decide)).trans (if_neg (by rw [hr]; decide))

theorem calCommit_ok {r : List Word} (h : calExists s.ident cls inst = true) (hr : recordOk s cls inst r = true) :
    calCommit s cls inst r = (calRestoreItem s cls inst r, C.ok) :=
  (if_neg (by rw [h]; decide)).trans (if_pos hr)

/-- A run that the host asks for. -/
def calAsked (s : State) (cls inst : Nat) : State := putCal s cls inst { calItem s cls inst with asked := true }

theorem calItem_calAsked (s : State) (cls inst : Nat) :
    ∃ r, calItem (calAsked s cls inst) cls inst = { calItem s cls inst with due := true, asked := true, rank := r } := by
  obtain ⟨r, hr⟩ := calItem_putCal s cls inst { calItem s cls inst with asked := true }
  refine ⟨r, hr.trans ?_⟩
  simp only [CalItem.isDue, Bool.or_true, Bool.true_or]

/-! ### CAL_CMD and CAL_DATA -/

theorem calCmdRun_zero (h : wfld v F.calCmdRun ≠ 1) : wfld v F.calCmdRun = 0 := by
  have := fieldOf_lt v.toNat F.calCmdRun.lsb 1
  have hw : wfld v F.calCmdRun = fieldOf v.toNat F.calCmdRun.lsb 1 := rfl
  omega

/-- A write of CAL_CMD that ends with what its COMMIT did. -/
theorem calCmdWrite_commit (hc : wfld v F.calCmdCommit = 1) {r : State × Nat}
    (hr : calCommit s (calSelCls s) (calSelInst s) (stagedRecord s) = r) (hn : wfld v F.calCmdRun ≠ 1 ∨ r.2 ≠ C.ok) : calCmdWrite s v = r := by
  unfold calCmdWrite
  dsimp only
  rw [if_pos hc, hr]
  exact if_pos (hn.imp_left calCmdRun_zero)

theorem calCmdWrite_nothing (hc : wfld v F.calCmdCommit ≠ 1) (hr : wfld v F.calCmdRun ≠ 1) : calCmdWrite s v = (s, C.ok) := by
  unfold calCmdWrite
  dsimp only
  rw [if_neg hc]
  exact if_pos (.inl (calCmdRun_zero hr))

theorem calCmdWrite_run_absent (hc : wfld v F.calCmdCommit ≠ 1) (hr : wfld v F.calCmdRun = 1)
    (hx : calExists s.ident (calSelCls s) (calSelInst s) = false) : calCmdWrite s v = (s, C.regAbsent) := by
  unfold calCmdWrite
  dsimp only
  rw [if_neg hc, hr]
  exact (if_neg (by simp)).trans (if_pos hx)

theorem calCmdWrite_run (hc : wfld v F.calCmdCommit ≠ 1) (hr : wfld v F.calCmdRun = 1)
    (hx : calExists s.ident (calSelCls s) (calSelInst s) = true) : calCmdWrite s v = (calAsked s (calSelCls s) (calSelInst s), C.ok) := by
  unfold calCmdWrite
  dsimp only
  rw [if_neg hc, hr]
  exact (if_neg (by simp)).trans (if_neg (by rw [hx]; decide))

theorem calCmdWrite_both (hc : wfld v F.calCmdCommit = 1) (hr : wfld v F.calCmdRun = 1)
    (hx : calExists s.ident (calSelCls s) (calSelInst s) = true) (hk : recordOk s (calSelCls s) (calSelInst s) (stagedRecord s) = true) :
    calCmdWrite s v = (calAsked (calRestoreItem s (calSelCls s) (calSelInst s) (stagedRecord s)) (calSelCls s) (calSelInst s), C.ok) := by
  unfold calCmdWrite
  dsimp only
  rw [if_pos hc, hr, calCommit_ok hx hk]
  exact (if_neg (by simp)).trans (if_neg (by rw [hx]; decide))

theorem calSelWord_next (s : State) : calSelWord (calWordNext s) = (calSelWord s + 1) % 64 :=
  fld_setFld_same s (f := F.calSelWord) (by decide) _

theorem calWordNext_cal (s : State) : (calWordNext s).cal = s.cal := setFld_cal s _ _

/-! ### Windows -/

/-- This end's runs of a lane in a window of the far end's (R402). -/
def windowRuns (m : Bool) (e p c : Nat) (s : State) : State :=
  laneDone ([(1, 72 * e + 9 * p + c), (2, 72 * e + 9 * p + c)].foldl (fun s k =>
    if !(calItem s k.1 k.2).due && mayRun s k.1 k.2 then runItem m s k else s)
    (runDue m (modLane s e p c (fun x => { x with full := false })) (laneItems e p c))) e p c

theorem laneItems_own (e p c : Nat) : (1, 72 * e + 9 * p + c) ∈ laneItems e p c ∧ (2, 72 * e + 9 * p + c) ∈ laneItems e p c := by
  rw [mem_laneItems, mem_laneItems]
  omega

theorem idle_of_laneRuns (h : laneRuns s e p c = false) {k : Nat × Nat} (hk : k ∈ laneItems e p c) : (calItem s k.1 k.2).running = false :=
  Bool.not_eq_true _ ▸ List.any_eq_false.1 h k hk

/-- Where the references differ no run of the window begins, and the lane goes to its margin test. -/
theorem windowRuns_differing (he : e < s.optics.length) (hc : c < 9) (hl : (laneOf s e p c).st = .cal) (hr : laneRuns s e p c = false) :
    laneOf (windowRuns true e p c s) e p c = { laneOf s e p c with st := .margin, full := false } ∧
    (∀ q d, d < 9 → ¬(q = p ∧ d = c) → laneOf (windowRuns true e p c s) e q d = laneOf s e q d) ∧ laneRuns (windowRuns true e p c s) e p c = false := by
  have h0 : laneRuns (modLane s e p c fun x => { x with full := false }) e p c = false := hr
  have hn : NoRuns (modLane s e p c fun x => { x with full := false }) ([(1, 72 * e + 9 * p + c), (2, 72 * e + 9 * p + c)].foldl (fun s k =>
      if !(calItem s k.1 k.2).due && mayRun s k.1 k.2 then runItem true s k else s)
      (runDue true (modLane s e p c (fun x => { x with full := false })) (laneItems e p c))) := by
    refine (NoRuns.runDue _ _).trans (NoRuns.foldl _ (fun s k => ?_) _ _)
    split
    · exact NoRuns.runItem s k
    · exact NoRuns.refl s
  rw [windowRuns]
  generalize [(1, 72 * e + 9 * p + c), (2, 72 * e + 9 * p + c)].foldl _ _ = t at hn ⊢
  have hle : e < t.optics.length := by rwa [hn.engines, modLane, setLane, modOptic_length]
  have hlt : laneOf t e p c = { laneOf s e p c with full := false } := by rw [hn.lanes, laneOf_modLane_same he p _ hc]
  have hcal : (laneOf t e p c).st = .cal := by rw [hlt, ← hl]
  have hidle := hn.laneRuns h0
  rw [laneDone, if_pos ⟨hcal, hidle⟩]
  refine ⟨by rw [laneOf_modLane_same hle p _ hc, hlt], fun q d hd hq => ?_, hidle⟩
  rw [laneOf_modLane_other hle p _ hc hd hq, hn.lanes, laneOf_modLane_other he p _ hc hd hq]

/-- A DAC or RX item that may run runs in the window, due or not. -/
theorem windowRuns_agreed (he : e < s.optics.length) (hc : c < 9) (h1 : mayRun s 1 (72 * e + 9 * p + c) = true)
    (h2 : mayRun s 2 (72 * e + 9 * p + c) = true) :
    laneOf (windowRuns false e p c s) e p c = { laneOf s e p c with full := false } ∧
    (∀ q d, d < 9 → ¬(q = p ∧ d = c) → laneOf (windowRuns false e p c s) e q d = laneOf s e q d) ∧
    (calItem (windowRuns false e p c s) 1 (72 * e + 9 * p + c)).running = true ∧
    (calItem (windowRuns false e p c s) 2 (72 * e + 9 * p + c)).running = true := by
  obtain ⟨m1, m2⟩ := laneItems_own e p c
  have run (s : State) (k : Nat × Nat) : Begins s (if !(calItem s k.1 k.2).due && mayRun s k.1 k.2 then runItem false s k else s) := by
    split
    · exact Begins.runItem s k
    · exact Begins.refl s
  -- after its turn, if it may run in `a` and its turn among the due ones has come, an item runs
  have turn {a b : State} {k : Nat × Nat} (hb : Begins a b) (hk : k.1 = 1 ∨ k.1 = 2) (hm : mayRun a k.1 k.2 = true)
      (hd : (calItem a k.1 k.2).due = true → (calItem b k.1 k.2).running = true) :
      (calItem (if !(calItem b k.1 k.2).due && mayRun b k.1 k.2 then runItem false b k else b) k.1 k.2).running = true := by
    rcases hb.items k.1 k.2 with hr | hi
    · exact (run b k).running hr
    · cases hdue : (calItem a k.1 k.2).due
      · rw [if_pos (by rw [hi, hdue, hb.mayRun hk hi hm]; rfl)]
        exact runItem_running (hb.mayRun hk hi hm)
      · exact (run b k).running (hd hdue)
  have hd := Begins.runDue (modLane s e p c fun x => { x with full := false }) (laneItems e p c)
  have hA := run (runDue false (modLane s e p c fun x => { x with full := false }) (laneItems e p c)) (1, 72 * e + 9 * p + c)
  have r1 := turn (k := (1, 72 * e + 9 * p + c)) hd (.inl rfl) h1 fun hx => runDue_runs m1 (.inl rfl) hx h1
  have r2 := turn (k := (2, 72 * e + 9 * p + c)) (hd.trans hA) (.inr rfl) h2 fun hx => hA.running (runDue_runs m2 (.inr rfl) hx h2)
  rw [windowRuns, List.foldl_cons, List.foldl_cons, List.foldl_nil]
  have hB := run _ (2, 72 * e + 9 * p + c) |> (hd.trans hA).trans
  have hr1 := (run _ (2, 72 * e + 9 * p + c)).running r1
  rw [laneDone_running m1 hr1]
  refine ⟨by rw [laneOf_of_optics hB.optics, laneOf_modLane_same he p _ hc], fun q d hd hq => ?_, hr1, r2⟩
  rw [laneOf_of_optics hB.optics, laneOf_modLane_other he p _ hc hd hq]

end Sys2Proof.Machine
end

section
/-!
PROOF. O59: calibration runs, their results, records and windows (R395 to R410).
-/
namespace Sys2Proof.Machine
open Sys2Proof

variable {s t u : State} {cls inst e p c : Nat} {o : Origin} {v : Word}

theorem mayRun_of (hi : t.ident = s.ident) (hc : t.cal = s.cal) (ha : t.active = s.active) (hp : t.phase = s.phase) (hs : t.pace = s.pace)
    (hen : regWord t ⟨.calCtl, 0, 0, 0⟩ = regWord s ⟨.calCtl, 0, 0, 0⟩) (hf : regWord t ⟨.calRefFault, 0, 0, 0⟩ = regWord s ⟨.calRefFault, 0, 0, 0⟩)
    (cls inst : Nat) : mayRun t cls inst = mayRun s cls inst := by
  have hen' : fld t F.calCtlEnable = fld s F.calCtlEnable := congrArg (fun w : Word => fieldOf w.toNat F.calCtlEnable.lsb F.calCtlEnable.width) hen
  have hitem : calItem t cls inst = calItem s cls inst := calItem_of_cal (congrArg (fun x => x.items) hc) cls inst
  simp only [mayRun, hi, ha, hp, hen', hitem, refFaulted, hf, hc, calShut_of hs, elemRuns] <;> rfl

theorem optEvent_addr {e : Nat} (he : e < 4) (d : Nat) (hd : d = 0 ∨ d = 0xC) :
    (⟨.calCtl, 0, 0, 0⟩ : RegRef).addr + d ≠ (⟨.optEvent, e, 0, 0⟩ : RegRef).addr := by
  have h : ∀ e < 4, (⟨.calCtl, 0, 0, 0⟩ : RegRef).addr ≠ (⟨.optEvent, e, 0, 0⟩ : RegRef).addr ∧
      (⟨.calCtl, 0, 0, 0⟩ : RegRef).addr + 0xC ≠ (⟨.optEvent, e, 0, 0⟩ : RegRef).addr := by decide
  rcases hd with rfl | rfl
  · exact (h e he).1
  · exact (h e he).2

theorem regWord_optReport (s : State) {e : Nat} (code : Nat) {f : Fld} (hf : f.reg = .optEvent) (d : List Byte) {r : RegRef}
    (hr : r.addr ≠ (⟨.redFault, 0, 0, 0⟩ : RegRef).addr) (ho : r.addr ≠ (⟨.optEvent, e, 0, 0⟩ : RegRef).addr) :
    regWord (optReport s e code f d) r = regWord s r :=
  (regWord_report _ _ _ _ _ hr).trans (regWord_setRegWord_other s (fun he => ho (he.trans (by rw [hf]))) _)

theorem optReport_core (s : State) (e code : Nat) (f : Fld) (d : List Byte) : SameCore s (optReport s e code f d) :=
  ((SameCore.refl s).setEventAt f e 0 0).report _ _ _ _

theorem engines_le (d : Ident) : d.engines ≤ 4 := by
  unfold Ident.engines
  split <;> omega

theorem mayRun_coverLane (s : State) (he : e < 4) (p c : Nat) (st : LaneState) (cls inst : Nat) :
    mayRun (coverLane s e p c st) cls inst = mayRun s cls inst := by
  have hc := optReport_core (modLane (modLane s e p 8 fun x => { x with st := .covering, cover := some c }) e p c fun x => { x with st := st }) e
    C.optLaneSpared F.optEventSpared (laneDetail e p c)
  exact mayRun_of hc.ident hc.cal hc.active hc.phase (congrArg State.pace hc :)
    (regWord_optReport _ _ rfl _ (by decide) (optEvent_addr he 0 (.inl rfl))) (regWord_optReport _ _ rfl _ (by decide) (optEvent_addr he 0xC (.inr rfl)))
    cls inst

theorem laneOf_coverLane (s : State) (he : e < s.optics.length) (p : Nat) (hc : c < 8) (st : LaneState) :
    laneOf (coverLane s e p c st) e p c = { laneOf s e p c with st := st } ∧
    laneOf (coverLane s e p c st) e p 8 = { laneOf s e p 8 with st := .covering, cover := some c } := by
  have hlen : e < (modLane s e p 8 fun x => { x with st := .covering, cover := some c }).optics.length := by
    rwa [modLane, setLane, modOptic_length]
  have h := laneOf_of_optics (optReport_core (modLane (modLane s e p 8 fun x => { x with st := .covering, cover := some c }) e p c
    fun x => { x with st := st }) e C.optLaneSpared F.optEventSpared (laneDetail e p c)).optics e p
  refine ⟨(h c).trans ?_, (h 8).trans ?_⟩
  · rw [laneOf_modLane_same hlen p _ (by omega), laneOf_modLane_other he p _ (by omega) (by omega) (by omega)]
  · rw [laneOf_modLane_other hlen p _ (by omega) (by omega) (by omega), laneOf_modLane_same he p _ (by omega)]

/-! ### The window as a command -/

theorem window_refused {m : Bool} (h : s.ident.engines ≤ e ∨ s.active = none ∨ portInCal s e p = true ∨ (c < 9 ∧ ¬((laneOf s e p 8).st = .spareIdle ∧
    (c = 8 ∨ (c < 8 ∧ (laneOf s e p c).st = .active ∧ spareReaches s e p c = true))))) : exec (.calWindowAnnounce e p ⟨c, m⟩) s = .next s := by
  refine congrArg done ?_
  dsimp only
  split
  · rfl
  · rename_i hgo
    have hgo' : ¬(s.ident.engines ≤ e ∨ s.active = none ∨ portInCal s e p = true) := fun hx => hgo (hx.imp_right (Or.imp_left Option.isNone_iff_eq_none.2))
    obtain ⟨hc, ht⟩ : c < 9 ∧ ¬((laneOf s e p 8).st = .spareIdle ∧ (c = 8 ∨ (c < 8 ∧ (laneOf s e p c).st = .active ∧ spareReaches s e p c = true))) := by
      tauto
    split
    · rename_i h8
      exact if_neg fun hx => ht ⟨h8 ▸ hx, .inl h8⟩
    · rename_i h8
      exact if_neg fun hx => ht ⟨hx.2.1, .inr ⟨by omega, hx.1, hx.2.2⟩⟩

theorem window_spare {m : Bool} (h : ¬(s.ident.engines ≤ e ∨ s.active.isNone = true ∨ portInCal s e p = true)) (h8 : (laneOf s e p 8).st = .spareIdle) :
    exec (.calWindowAnnounce e p ⟨8, m⟩) s = .next (windowRuns m e p 8 (modLane s e p 8 fun x => { x with st := .cal })) :=
  congrArg done ((if_neg h).trans ((if_pos rfl).trans (if_pos h8)))

theorem window_lane {m : Bool} (h : ¬(s.ident.engines ≤ e ∨ s.active.isNone = true ∨ portInCal s e p = true)) (hc : c < 8)
    (hl : (laneOf s e p c).st = .active ∧ (laneOf s e p 8).st = .spareIdle ∧ spareReaches s e p c = true) :
    exec (.calWindowAnnounce e p ⟨c, m⟩) s = .next (relinkLane (windowRuns m e p c (coverLane s e p c .cal)) e p) :=
  congrArg done ((if_neg h).trans ((if_neg (by dsimp only; omega)).trans (if_pos hl)))

/-- The runs of a window on a lane that has just gone to CAL. -/
theorem windowRuns_outcome {m : Bool} (he : e < s.optics.length) (hc : c < 9) (hl : (laneOf s e p c).st = .cal) (hr : laneRuns s e p c = false)
    (h1 : mayRun s 1 (72 * e + 9 * p + c) = true) (h2 : mayRun s 2 (72 * e + 9 * p + c) = true) :
    (laneOf (windowRuns m e p c s) e p c).st = (if m then .margin else .cal) ∧
    (calItem (windowRuns m e p c s) 1 (72 * e + 9 * p + c)).running = !m ∧ (calItem (windowRuns m e p c s) 2 (72 * e + 9 * p + c)).running = !m ∧
    (c < 8 → laneOf (windowRuns m e p c s) e p 8 = laneOf s e p 8) := by
  obtain ⟨m1, m2⟩ := laneItems_own e p c
  cases m
  · obtain ⟨hlane, hother, r1, r2⟩ := windowRuns_agreed he hc h1 h2
    exact ⟨(congrArg Lane.st hlane).trans hl, r1, r2, fun h8 => hother p 8 (by omega) (by omega)⟩
  · obtain ⟨hlane, hother, hidle⟩ := windowRuns_differing he hc hl hr
    have r1 := idle_of_laneRuns hidle m1
    have r2 := idle_of_laneRuns hidle m2
    exact ⟨by rw [hlane, if_pos rfl], r1, r2, fun h8 => hother p 8 (by omega) (by omega)⟩

theorem window_taken {m : Bool} (hen : e < s.ident.engines) (he : e < s.optics.length) (ha : s.active ≠ none) (hp : portInCal s e p = false)
    (h8 : (laneOf s e p 8).st = .spareIdle) (hl : c = 8 ∨ (c < 8 ∧ (laneOf s e p c).st = .active ∧ spareReaches s e p c = true))
    (hr : laneRuns s e p c = false) (h1 : mayRun s 1 (72 * e + 9 * p + c) = true) (h2 : mayRun s 2 (72 * e + 9 * p + c) = true) :
    ∃ t, exec (.calWindowAnnounce e p ⟨c, m⟩) s = .next t ∧ (laneOf t e p c).st = (if m then .margin else .cal) ∧
      (calItem t 1 (72 * e + 9 * p + c)).running = !m ∧ (calItem t 2 (72 * e + 9 * p + c)).running = !m ∧
      (c < 8 → (laneOf t e p 8).st = .covering ∧ (laneOf t e p 8).cover = some c) := by
  have hgo : ¬(s.ident.engines ≤ e ∨ s.active.isNone = true ∨ portInCal s e p = true) := by
    rw [Option.isNone_iff_eq_none, hp]
    simp only [ha, Bool.false_eq_true, or_false, not_le]
    exact hen
  rcases hl with rfl | ⟨hc, hact, hreach⟩
  · obtain ⟨hst, r1, r2, -⟩ := windowRuns_outcome (m := m) (s := modLane s e p 8 fun x => { x with st := .cal })
      (by rwa [modLane, setLane, modOptic_length]) (by omega) (by rw [laneOf_modLane_same he p _ (by omega)]) hr h1 h2
    exact ⟨_, window_spare hgo h8, hst, r1, r2, fun hx => absurd hx (by omega)⟩
  · obtain ⟨hc1, hc8⟩ := laneOf_coverLane s he p hc .cal
    have hw : LaneWork false s (coverLane s e p c .cal) := LaneWork.coverLane s e p c .cal
    have hcal : (coverLane s e p c .cal).cal = s.cal := (optReport_core _ _ _ _ _).cal
    have hidle : laneRuns (coverLane s e p c .cal) e p c = false := by
      rw [laneRuns] at hr ⊢
      simpa only [calItem_of_cal (congrArg (fun x => x.items) hcal)] using hr
    have hmay := mayRun_coverLane s (lt_of_lt_of_le hen (engines_le _)) p c .cal
    obtain ⟨hst, r1, r2, hcov⟩ := windowRuns_outcome (m := m) (by rw [hw.engines]; exact he) (by omega) (by rw [hc1]) hidle
      ((hmay _ _).trans h1) ((hmay _ _).trans h2)
    have hk : LinkWork (windowRuns m e p c (coverLane s e p c .cal)) (relinkLane (windowRuns m e p c (coverLane s e p c .cal)) e p) := LinkWork.relink _ _
    have hki := calItem_of_cal (congrArg (fun x => x.items) hk.cal)
    refine ⟨_, window_lane hgo hc ⟨hact, h8, hreach⟩, ?_, ?_, ?_, fun h => ?_⟩
    · rw [laneOf_of_optics hk.optics, hst]
    · rw [hki, r1]
    · rw [hki, r2]
    · rw [laneOf_of_optics hk.optics, hcov h, hc8]
      exact ⟨rfl, rfl⟩

end Sys2Proof.Machine

namespace Sys2Proof.Proofs
open Sys2Proof Sys2Proof.Machine

/-- Settles O59: each clause by the law of its command, an item that became due again by `calItem_putCal`, the values that stay while lanes light by
`LaneWork.idle`. -/
theorem calibrationRuns : Obligations.CalibrationRuns := by
  unfold Obligations.CalibrationRuns
  refine ⟨fun s cls inst => ?_, fun s o v hs => ?_, fun s o hs => ?_, fun s e p c m => ?_⟩
  · extract_lets after x bad
    refine ⟨fun m h => calRunStart_refused h m, fun h hg => ?_, fun e p c m h hl he => ?_, fun h => ⟨calRunTimeout_idle h, calRunComplete_idle h⟩,
      fun h => ⟨calRunTimeout_bad h, fun w q tm mv => ⟨fun hq => calRunComplete_bad h hq w tm mv, fun hq => ?_⟩⟩, calBadRunRetry_due, calBadRunRetry_none,
      calStarved_once, calStarved_none⟩
    · obtain ⟨-, hm⟩ := mayStart_iff s cls inst h
      obtain ⟨-, -, -, -, -, hf, -⟩ := (mayRun_iff s cls inst).1 hm
      refine ⟨⟨_, calRunStart_now h hg true, ?_⟩, ⟨_, calRunStart_now h hg false, runItem_agreed hf⟩⟩
      rw [runItem_differing hf]
      exact refMismatch_bad s cls inst
    · obtain ⟨hd, hm⟩ := mayStart_iff s cls inst h
      obtain ⟨-, hc, -⟩ := itemLane_eq hl
      have hgo : ¬calMayStart s cls inst = false := by rw [h]; decide
      refine ⟨fun hg => ?_, fun hg => ?_⟩
      · obtain ⟨rfl, -⟩ := laneGap_spare ((itemGap_lane hl).symm.trans hg)
        exact ⟨_, congrArg done ((if_neg hgo).trans (by rw [hg, hl])), spareCal_runs hl he hd hm⟩
      · obtain ⟨hp, hi⟩ := announceCal_planned he p hc
        exact ⟨_, congrArg done ((if_neg hgo).trans (by rw [hg, hl])), hp, hi cls inst⟩
    · obtain ⟨t, r, ht, hi⟩ := calRunComplete_good h hq w tm mv
      refine ⟨t, ht, ?_⟩
      dsimp only
      rw [hi]
      refine ⟨rfl, ?_, rfl, rfl, rfl, rfl, rfl, rfl, fun hw => ?_⟩
      · exact congrArg (· || mv) (Bool.or_false _)
      · exact List.take_left' hw
  · extract_lets cls inst x commits runs
    have row {c : Instr} (hc : c = Instr.calCmdCommit o v ∨ c = Instr.calCmdRun o v) {u : State} {st : Nat} (h : calCmdWrite s v = (u, st)) :
        RegAnswered c s o st 0 u := by
      rcases hc with rfl | rfl
      · exact regAnswered_of_write (f := fun s => calCmdWrite s v) hs rfl h
      · exact regAnswered_of_write (f := fun s => calCmdWrite s v) hs rfl h
    refine ⟨fun c hc => ⟨fun h1 h2 => row hc (calCmdWrite_nothing h1 h2), fun h hx => row hc ?_, fun h1 hx hk => row hc ?_, fun h1 hx hk => ?_,
      fun h1 h2 hx => ?_⟩, ?_⟩
    · by_cases h1 : wfld v F.calCmdCommit = 1
      · exact calCmdWrite_commit h1 (calCommit_absent hx _) (.inr (show C.regAbsent ≠ C.ok by decide))
      · exact calCmdWrite_run_absent h1 (h.resolve_left h1) hx
    · exact calCmdWrite_commit h1 (calCommit_bad hx hk) (.inr (show C.calRestoreBad ≠ C.ok by decide))
    · obtain ⟨s1, n, hr⟩ := calItem_calRestoreItem s cls inst (stagedRecord s)
      by_cases h2 : wfld v F.calCmdRun = 1
      · obtain ⟨k, ha⟩ := calItem_calAsked (calRestoreItem s cls inst (stagedRecord s)) cls inst
        refine ⟨_, row hc (calCmdWrite_both h1 h2 hx hk), ?_⟩
        rw [ha, hr]
        exact ⟨rfl, rfl, rfl, rfl, fun _ => ⟨rfl, rfl⟩⟩
      · refine ⟨_, row hc (calCmdWrite_commit h1 (calCommit_ok hx hk) (.inl h2)), ?_⟩
        rw [hr]
        exact ⟨rfl, rfl, rfl, rfl, fun h => absurd h h2⟩
    · obtain ⟨r, hr⟩ := calItem_calAsked s cls inst
      exact ⟨_, r, row hc (calCmdWrite_run h1 h2 hx), hr⟩
    · refine ⟨_, regAnswered_of_write (f := fun s => calDataWrite s v) hs rfl rfl, ?_, calSelWord_next _, ?_⟩
      · rw [calWordNext_cal]
        exact (SMap.getD_setD _ _ _ _ _).trans (if_pos rfl)
      · rw [calWordNext_cal]
  · exact ⟨_, regAnswered_of_read (f := calDataRead) hs rfl rfl, calSelWord_next s, calWordNext_cal s⟩
  · extract_lets i taken
    exact ⟨window_refused, fun hen he ha hp _ ht hr h1 h2 => window_taken hen he ha hp ht.1 ht.2 hr h1 h2⟩

end Sys2Proof.Proofs
end

section
/-!
PROOF. O45: how lanes fail, return and are held (R341 to R347, R371, R402).
-/
namespace Sys2Proof.Machine
open Sys2Proof

variable {s t u : State} {e p c : Nat}

/-! ### States that differ in no lane -/

/-- From `s` to `t` every lane stands as it did. -/
structure LanesKept (s t : State) : Prop where
  lanes : ∀ e p c, laneOf t e p c = laneOf s e p c
  engines : t.optics.length = s.optics.length

namespace LanesKept

theorem refl (s : State) : LanesKept s s := ⟨fun _ _ _ => rfl, rfl⟩
theorem trans (h : LanesKept s t) (k : LanesKept t u) : LanesKept s u :=
  ⟨fun e p c => (k.lanes e p c).trans (h.lanes e p c), k.engines.trans h.engines⟩

theorem of_optics (h : t.optics = s.optics) : LanesKept s t := ⟨laneOf_of_optics h, congrArg List.length h⟩
theorem of_link (h : LinkWork s t) : LanesKept s t := of_optics h.optics
theorem of_core (h : SameCore s t) : LanesKept s t := of_optics h.optics

theorem foldl {α : Type} (f : State → α → State) (hf : ∀ s a, LanesKept s (f s a)) (l : List α) (s : State) : LanesKept s (l.foldl f s) :=
  List.foldlRecOn _ _ (refl s) fun _ h a _ => h.trans (hf _ a)

theorem setElem (s : State) (e i : Nat) (x : Elem) : LanesKept s (setElem s e i x) := ⟨laneOf_setElem s e i x, modOptic_length _ _ _⟩

theorem runDue (m : Bool) (s : State) (l : List (Nat × Nat)) : LanesKept s (runDue m s l) := by
  cases m
  · exact of_optics (Begins.runDue s l).optics
  · exact ⟨(NoRuns.runDue s l).lanes, (NoRuns.runDue s l).engines⟩

theorem sendIdent (s : State) (P c : Nat) : LanesKept s (sendIdent s P c) := by
  unfold Machine.sendIdent
  dsimp only
  split
  · exact of_link (LinkWork.sendLink _ _ _)
  · exact of_optics rfl

theorem markAbsent (s : State) (P : Nat) : LanesKept s (markAbsent s P) := by
  unfold Machine.markAbsent
  extract_lets planned begun
  split
  · exact refl s
  · exact of_optics ((((SameCore.refl _).setEvent _).report _ _ _ _).optics.trans rfl)

theorem bypassed (s : State) (P : Nat) : LanesKept s (bypassed s P) := by
  unfold Machine.bypassed
  split
  · exact refl s
  · exact of_optics ((((SameCore.refl _).setEvent _).report _ _ _ _).optics.trans rfl)

end LanesKept

theorem modLane_length (s : State) (e p c : Nat) (f : Lane → Lane) : (modLane s e p c f).optics.length = s.optics.length := modOptic_length _ _ _

theorem covered_of_lane (h : laneOf t e p 8 = laneOf s e p 8) : covered t e p = covered s e p := by
  rw [covered, h, covered]

theorem covered_idle (h : (laneOf s e p 8).st ≠ .covering) : covered s e p = none := if_neg h

theorem optReport_kept (s : State) (e code : Nat) (f : Fld) (d : List Byte) : LanesKept s (optReport s e code f d) := .of_core (optReport_core s e code f d)

theorem optReport_ident (s : State) (e code : Nat) (f : Fld) (d : List Byte) : (optReport s e code f d).fab.ident = s.fab.ident :=
  congrArg (fun x => x.ident) (optReport_core s e code f d).fab

theorem spareReaches_of (h : t.fab.ident = s.fab.ident) (e p c : Nat) : spareReaches t e p c = spareReaches s e p c := by
  simp only [spareReaches, farOf, identOf, h]

theorem laneOf_dropLane (s : State) (he : e < s.optics.length) (p : Nat) (hc : c < 9) :
    laneOf (dropLane s e p c) e p c = { laneOf s e p c with st := .dropped } := by
  rw [dropLane, (optReport_kept _ _ _ _ _).lanes, laneOf_modLane_same he p _ hc]

/-! ### λS that nothing holds -/

theorem claimSpare_free (h : (laneOf s e p 8).st = .spareIdle ∨ (laneOf s e p 8).st = .dark) : claimSpare s e p = s := by
  have hloop : loopHeld s e p = false := by
    rw [loopHeld]
    rcases h with h | h <;> simp [h]
  unfold claimSpare
  rw [if_neg (by rw [hloop]; decide)]
  rcases h with h | h <;> simp only [h]

theorem seekCover_idle (h : (laneOf s e p 8).st = .spareIdle) (hr : spareReaches s e p c = true) (st : LaneState) (bare : Option LaneState) :
    seekCover s e p c st bare = coverLane s e p c st := by
  unfold seekCover
  dsimp only
  rw [claimSpare_free (.inl h)]
  exact if_pos ⟨h, hr⟩

theorem seekCover_dark (h : (laneOf s e p 8).st = .dark) (st : LaneState) : seekCover s e p c st none = dropLane s e p c := by
  unfold seekCover
  dsimp only
  rw [claimSpare_free (.inr h)]
  exact if_neg fun hx => by rw [h] at hx; cases hx.1

/-! ### A lane that fails -/

/-- A lane as a failure marks it. -/
def Lane.failed (x : Lane) (cause : Nat) : Lane := { x with cause := cause, planned := false, trying := false }

/-- The state of a lane that goes out, before what covers it is sought. -/
theorem laneOut_seek (he : e < s.optics.length) (hc : c < 8) (hcov : covered s e p = none) {cause : Nat} (h3 : cause ≠ 3) (h5 : cause ≠ 5) :
    ∃ t, laneOut s e p c cause = seekCover t e p c .spared none ∧ laneOf t e p c = (laneOf s e p c).failed cause ∧
      laneOf t e p 8 = laneOf s e p 8 ∧ t.optics.length = s.optics.length ∧ t.fab.ident = s.fab.ident := by
  unfold laneOut
  extract_lets link s1 s2 s3 f
  have h1 : LinkWork s s1 := by
    dsimp only [s1]
    split
    · exact LinkWork.refl s
    · generalize link = l
      cases l with
      | some l => exact LinkWork.sendLink s _ _
      | none => exact LinkWork.refl s
  have k3 : LanesKept s2 s3 := optReport_kept _ _ _ _ _
  have hlen : e < s1.optics.length := by rwa [h1.optics]
  have hlane : laneOf s3 e p c = (laneOf s e p c).failed cause := by
    rw [k3.lanes, laneOf_modLane_same hlen p _ (by omega), laneOf_of_optics h1.optics, Lane.failed]
  have hspare : laneOf s3 e p 8 = laneOf s e p 8 := by
    rw [k3.lanes, laneOf_modLane_other hlen p _ (by omega) (by omega) (by omega), laneOf_of_optics h1.optics]
  have hfab : s3.fab.ident = s.fab.ident := (optReport_ident _ _ _ _ _).trans h1.identTable
  have hl3 : s3.optics.length = s.optics.length := (k3.engines.trans (modLane_length _ _ _ _ _)).trans (congrArg List.length h1.optics)
  have hf : f = (.spared, none) := (if_neg h5).trans (if_neg fun hx => h3 hx.1)
  have hno : covered s3 e p ≠ some c := by
    rw [covered_of_lane hspare, hcov]
    exact fun hx => by cases hx
  refine ⟨s3, ?_, hlane, hspare, hl3, hfab⟩
  rw [if_neg (by omega), if_neg hno, hf]

theorem laneOut_covered (he : e < s.optics.length) (hc : c < 8) {cause : Nat} (h3 : cause ≠ 3) (h5 : cause ≠ 5)
    (hi : (laneOf s e p 8).st = .spareIdle) (hr : spareReaches s e p c = true) :
    laneOf (laneOut s e p c cause) e p c = { (laneOf s e p c).failed cause with st := .spared } ∧
    laneOf (laneOut s e p c cause) e p 8 = { laneOf s e p 8 with st := .covering, cover := some c } := by
  obtain ⟨t, ht, hlane, hspare, hlen, hfab⟩ := laneOut_seek he hc (covered_idle (by rw [hi]; decide)) h3 h5
  rw [ht, seekCover_idle (hspare ▸ hi) ((spareReaches_of hfab e p c).trans hr)]
  obtain ⟨h1, h8⟩ := laneOf_coverLane t (hlen.symm ▸ he) p hc .spared
  rw [h1, h8, hlane, hspare]
  exact ⟨rfl, rfl⟩

theorem laneOut_dropped (he : e < s.optics.length) (hc : c < 8) {cause : Nat} (h3 : cause ≠ 3) (h5 : cause ≠ 5) (hd : (laneOf s e p 8).st = .dark) :
    laneOf (laneOut s e p c cause) e p c = { (laneOf s e p c).failed cause with st := .dropped } ∧
    (laneOut s e p c cause).optics.length = s.optics.length := by
  obtain ⟨t, ht, hlane, hspare, hlen, -⟩ := laneOut_seek he hc (covered_idle (by rw [hd]; decide)) h3 h5
  rw [ht, seekCover_dark (hspare ▸ hd), laneOf_dropLane t (hlen.symm ▸ he) p (by omega), hlane, dropLane, (optReport_kept _ _ _ _ _).engines,
    modLane_length, hlen]
  exact ⟨rfl, rfl⟩

theorem relinkLane_kept (s : State) (e p : Nat) : LanesKept s (relinkLane s e p) := .of_link (LinkWork.relink s _)

/-- A lane in service that fails for a cause, by what λS is. -/
theorem laneFail_lanes (he : e < s.optics.length) (hc : c < 8) {cause : Nat} (h3 : cause ≠ 3) (h5 : cause ≠ 5)
    (hf : canFail (laneOf s e p c).st = true) :
    ((laneOf s e p 8).st = .spareIdle → spareReaches s e p c = true →
      (laneOf (laneFail s e p c cause) e p c).st = .spared ∧ (laneOf (laneFail s e p c cause) e p c).cause = cause ∧
      (laneOf (laneFail s e p c cause) e p 8).st = .covering ∧ (laneOf (laneFail s e p c cause) e p 8).cover = some c) ∧
    ((laneOf s e p 8).st = .dark →
      (laneOf (laneFail s e p c cause) e p c).st = .dropped ∧ (laneOf (laneFail s e p c cause) e p c).cause = cause) := by
  rw [laneFail, if_pos hf]
  simp only [(relinkLane_kept _ _ _).lanes]
  refine ⟨fun hi hr => ?_, fun hd => ?_⟩
  · obtain ⟨h1, h8⟩ := laneOut_covered he hc h3 h5 hi hr
    rw [h1, h8]
    exact ⟨rfl, rfl, rfl, rfl⟩
  · rw [(laneOut_dropped he hc h3 h5 hd).1]
    exact ⟨rfl, rfl⟩

/-! ### Margin tests -/

theorem laneActive_lane (he : e < s.optics.length) (hc : c < 8) (hcov : covered s e p = none) :
    laneOf (laneActive s e p c) e p c = { laneOf s e p c with st := .active, trying := false } := by
  rw [laneActive, if_neg (by omega), hcov]
  dsimp only
  rw [if_neg (by simp), (relinkLane_kept _ _ _).lanes, laneOf_modLane_same he p _ (by omega)]

theorem marginShort_lane (he : e < s.optics.length) (hc : c < 9) (hcov : covered s e p = none) :
    (laneOf (marginShort s e p c) e p c).st = .held ∧ (laneOf (marginShort s e p c) e p c).margin = 0 ∧
    (laneOf (marginShort s e p c) e p c).cause = 6 := by
  unfold marginShort
  extract_lets cov s0 s1
  have h0 : s0 = s := by
    dsimp only [s0]
    split
    · rw [uncover, hcov]
    · rfl
  have hcv : cov = false := decide_eq_false fun hx => by
    rw [hcov] at hx
    cases hx.2
  rw [(relinkLane_kept _ _ _).lanes, (optReport_kept _ _ _ _ _).lanes, laneOf_modLane_same (by rwa [h0]) p _ hc, hcv]
  exact ⟨rfl, rfl, rfl⟩

theorem marginPass_eq (near far : Nat) : marginPass near far = decide (near ≤ 4026 ∧ far ≤ 4026) := (Bool.decide_and _ _).symm

/-! ### Retries -/

theorem beginTraining_lane (he : e < s.optics.length) (p : Nat) (hc : c < 9) :
    (laneOf (beginTraining s e p c) e p c).st = .training ∧ (laneOf (beginTraining s e p c) e p c).trying = (laneOf s e p c).trying := by
  rw [beginTraining, (LanesKept.sendIdent _ _ _).lanes]
  have h := laneOf_modLane_same he p (c := c) (fun x => { x with st := .training, dacBits := fldAt s F.optCtlDacBits e 0 0, seeds := laneSeeds s e p c }) hc
  refine ⟨(congrArg Lane.st h :), (congrArg Lane.trying h :)⟩

theorem retryLane_lane (he : e < s.optics.length) (p : Nat) (hc : c < 9) (hr : canRetry s e p c = true) :
    ((laneOf (retryLane s e p c true) e p c).st = .training ∧ (laneOf (retryLane s e p c true) e p c).trying = true) ∧
    laneOf (retryLane s e p c false) e p c = { laneOf s e p c with retries := min 15 ((laneOf s e p c).retries + 1) } := by
  have hno : ¬canRetry s e p c = false := by rw [hr]; decide
  refine ⟨?_, ?_⟩
  · unfold retryLane
    extract_lets lock s0 s1 s2
    rw [if_neg hno, if_pos rfl]
    have lockKept (s : State) (i : Nat) : LanesKept s (lock s i) := LanesKept.setElem s e i _
    have k0 : LanesKept s s0 := by
      dsimp only [s0]
      split
      · exact LanesKept.foldl _ lockKept _ s
      · exact LanesKept.refl s
    have k1 : LanesKept s0 s1 := by
      dsimp only [s1]
      split
      · exact LanesKept.refl s0
      · split
        · exact ⟨laneOf_modOptic fun _ => rfl, modOptic_length _ _ _⟩
        · exact LanesKept.refl s0
    have k := (k0.trans k1).trans (LanesKept.foldl _ lockKept (laneElems (opticOf s1 e) p c) s1)
    have hlen : e < s2.optics.length := k.engines.symm ▸ he
    obtain ⟨hst, htry⟩ := beginTraining_lane (s := modLane s2 e p c fun x => { x with trying := true }) (by rwa [modLane_length]) p hc
    exact ⟨hst, htry.trans (by rw [laneOf_modLane_same hlen p _ hc])⟩
  · unfold retryLane
    dsimp only
    rw [if_neg hno, if_neg Bool.false_ne_true, laneOf_modLane_same he p _ hc]

/-! ### Identities -/

theorem identOf_setIdent (s : State) (P c : Nat) (i : IdentInfo) : identOf (setIdent s P c i) P c = some i := SMap.find_insert_self _ _ _

/-- As a step over a list keeps `I`, and `D` once it holds, `D` holds at the end if one element of the list brings it about. -/
theorem foldl_reaches {α : Type} {f : State → α → State} {I D : State → Prop} (hI : ∀ s a, I s → I (f s a)) (hD : ∀ s a, I s → D s → D (f s a))
    {a : α} (ha : ∀ s, I s → D (f s a)) {l : List α} (hl : a ∈ l) {s : State} (hs : I s) : D (l.foldl f s) := by
  have keep (l : List α) : ∀ s, I s → D s → D (l.foldl f s) := by
    induction l with
    | nil => exact fun _ _ h => h
    | cons b l ih => exact fun s hs h => ih _ (hI s b hs) (hD s b hs h)
  induction l generalizing s with
  | nil => cases hl
  | cons b l ih =>
    rcases List.mem_cons.1 hl with rfl | hl
    · exact keep l _ (hI s _ hs) (ha s hs)
    · exact ih hl (hI s b hs)

/-- A step of holding a port dark: one lane. -/
def darkenLane (e p P : Nat) (s : State) (c : Nat) : State :=
  let s1 := if c = 8 then uncover s e p false else s
  let s2 := modLane s1 e p c (fun x => { x with st := .dark, cover := none, trying := false })
  match identOf s2 P c with
  | some j => setIdent s2 P c { j with matched := 3 }
  | none => s2

/-- While λS covers no lane of the port, the lane held dark stands dark, and the others as they did. -/
theorem darkenLane_lanes {P k : Nat} (he : e < s.optics.length) (hk : k < 9) (hcov : covered s e p = none) :
    (∀ d, d < 9 → laneOf (darkenLane e p P s k) e p d =
      if d = k then { laneOf s e p k with st := .dark, cover := none, trying := false } else laneOf s e p d) ∧
    (darkenLane e p P s k).optics.length = s.optics.length := by
  have h1 : (if k = 8 then uncover s e p false else s) = s := by
    split
    · rw [uncover, hcov]
    · rfl
  unfold darkenLane
  dsimp only
  rw [h1]
  have hm (d : Nat) (hd : d < 9) := laneOf_modLane he p k (fun x => { x with st := .dark, cover := none, trying := false }) hk (q := p) hd
  simp only [true_and] at hm
  have hl := modLane_length s e p k fun x => { x with st := .dark, cover := none, trying := false }
  split
  · exact ⟨hm, hl⟩
  · exact ⟨hm, hl⟩

theorem darkenLane_covered {P k : Nat} (he : e < s.optics.length) (hk : k < 9) (hcov : covered s e p = none) : covered (darkenLane e p P s k) e p = none := by
  have h8 := (darkenLane_lanes (P := P) he hk hcov).1 8 (by omega)
  split at h8
  · refine covered_idle ?_
    rw [h8]
    exact fun hx => by cases hx
  · rw [covered_of_lane h8, hcov]

/-- The port of a lane whose neighbour is not planned: the lane is dark. -/
theorem holdDark_lane (he : e < s.optics.length) (hp : p < 8) (hc : c < 8) (hcov : covered s e p = none) (i : IdentInfo) :
    (laneOf (holdDark (setIdent s (8 * e + p) c { i with matched := 3 }) (8 * e + p) i) e p c).st = .dark := by
  have hq : (8 * e + p) / 8 = e := by omega
  have hr : (8 * e + p) % 8 = p := by omega
  unfold holdDark
  extract_lets e' p' same s1 _ s2
  have hcore : SameCore s2 (report (setEvent s2 F.fabEventUnplanned) C.fabNbrUnplanned (srcEngine e') 0xFFFF (d4 i.postcode ++ d4 i.port ++ d4 i.kind)) :=
    ((SameCore.refl s2).setEvent _).report _ _ _ _
  rw [laneOf_of_optics ((LinkWork.relink _ _).optics.trans hcore.optics)]
  have hmem : c ∈ same := by
    refine List.mem_filter.2 ⟨List.mem_range.2 (by omega), ?_⟩
    rw [identOf_setIdent]
    simp
  have hlt (k : Nat) (hk : k ∈ same) : k < 9 := List.mem_range.1 (List.mem_filter.1 hk).1
  have hs1 : s1 = same.foldl (darkenLane e p (8 * e + p)) (setIdent s (8 * e + p) c { i with matched := 3 }) := by
    dsimp only [s1, e', p']
    rw [hq, hr]
    rfl
  have hfold : s1 = (same.attach.foldl (fun s k => darkenLane e p (8 * e + p) s k.1) (setIdent s (8 * e + p) c { i with matched := 3 })) := by
    rw [hs1, List.foldl_attach]
  show (laneOf s1 e p c).st = .dark
  rw [hfold]
  refine foldl_reaches (I := fun t => e < t.optics.length ∧ covered t e p = none) (D := fun t => (laneOf t e p c).st = .dark) (a := ⟨c, hmem⟩)
    (fun t k ht => ?_) (fun t k ht hd => ?_) (fun t ht => ?_) (List.mem_attach _ _) ⟨he, hcov⟩
  · exact ⟨by rw [(darkenLane_lanes ht.1 (hlt k.1 k.2) ht.2).2]; exact ht.1, darkenLane_covered ht.1 (hlt k.1 k.2) ht.2⟩
  · rw [(darkenLane_lanes ht.1 (hlt k.1 k.2) ht.2).1 c (by omega)]
    split
    · rfl
    · exact hd
  · rw [(darkenLane_lanes ht.1 (hlt c hmem) ht.2).1 c (by omega), if_pos rfl]

/-- The state in which what follows a planned identity goes on. -/
def judged (s : State) (P c m : Nat) (i : IdentInfo) : State :=
  let s1 := setIdent s P c { i with matched := m }
  let s2 : State := { s1 with fab := { s1.fab with absent := s1.fab.absent.filter (· != P), unplanned := s1.fab.unplanned.filter (· != P) } }
  if m = 2 then bypassed s2 P else s2

theorem judgeIdent_planned {P : Nat} {i : IdentInfo} (h : identMatch s P c i ≠ 3) (ok : State → State) :
    judgeIdent s P c i ok = ok (judged s P c (identMatch s P c i) i) := if_neg h

theorem judgeIdent_unplanned {P : Nat} {i : IdentInfo} (h : identMatch s P c i = 3) (ok : State → State) :
    judgeIdent s P c i ok = holdDark (setIdent s P c { i with matched := 3 }) P i := if_pos h

theorem laneTrainingComplete_judged {i : IdentInfo} (hst : (laneOf s e p c).st = .training) (hid : identOf s (8 * e + p) c = some i) :
    exec (.laneTrainingComplete e p c) s =
      .next (judgeIdent s (8 * e + p) c i fun s => modLane s e p c fun x => { x with st := .margin }) := by
  refine congrArg done ((if_neg (not_not.2 hst)).trans ?_)
  rw [hid]

theorem judged_kept (s : State) (P c m : Nat) (i : IdentInfo) : LanesKept s (judged s P c m i) := by
  unfold judged
  extract_lets s1 _ s2
  have h2 : LanesKept s s2 := .of_optics rfl
  split
  · exact h2.trans (LanesKept.bypassed s2 P)
  · exact h2

theorem bypassed_ident (s : State) (P : Nat) : (bypassed s P).fab.ident = s.fab.ident := by
  unfold bypassed
  split
  · rfl
  · exact congrArg (fun x => x.ident) (((SameCore.refl _).setEvent _).report _ _ _ _).fab

theorem identOf_judged (s : State) (P c m : Nat) (i : IdentInfo) : identOf (judged s P c m i) P c = some { i with matched := m } := by
  unfold judged
  dsimp only
  split
  · rw [identOf, bypassed_ident]
    exact identOf_setIdent s P c _
  · exact identOf_setIdent s P c _

theorem trainingFails_dropped (he : e < s.optics.length) (hc : c < 8) (hd : (laneOf s e p 8).st = .dark) :
    (laneOf (trainingFails s e p c) e p c).st = .dropped ∧ (laneOf (trainingFails s e p c) e p c).cause = 8 := by
  obtain ⟨h1, hlen⟩ := laneOut_dropped (cause := 8) he hc (by decide) (by decide) hd
  rw [trainingFails, (relinkLane_kept _ _ _).lanes, laneOf_modLane_same (by rwa [hlen]) p _ (by omega), h1]
  exact ⟨rfl, rfl⟩

theorem trainingBound_dropped (he : e < s.optics.length) (hc : c < 8) (hd : (laneOf s e p 8).st = .dark)
    (hi : ∀ i, identOf s (8 * e + p) c = some i → identMatch s (8 * e + p) c i ≠ 3) :
    (laneOf (trainingBound s e p c) e p c).st = .dropped ∧ (laneOf (trainingBound s e p c) e p c).cause = 8 := by
  unfold trainingBound
  split
  · exact trainingFails_dropped he hc hd
  · rename_i i hid
    rw [judgeIdent_planned (hi i hid)]
    have hk := judged_kept s (8 * e + p) c (identMatch s (8 * e + p) c i) i
    exact trainingFails_dropped (by rw [hk.engines]; exact he) hc (by rw [hk.lanes, hd])

/-! ### The switch point of a cover -/

/-- The state in which a lane's due items run at its switch point. -/
def switched (s : State) (e p c : Nat) : State :=
  modLane (coverLane (modLane s e p c (fun x => { x with planned := false })) e p c .cal) e p c (fun x => { x with full := false })

theorem coverLane_length (s : State) (e p c : Nat) (st : LaneState) : (coverLane s e p c st).optics.length = s.optics.length :=
  (LaneWork.coverLane (b := false) s e p c st).engines

theorem switched_lanes (he : e < s.optics.length) (p : Nat) (hc : c < 8) :
    laneOf (switched s e p c) e p c = { laneOf s e p c with planned := false, st := .cal, full := false } ∧
    laneOf (switched s e p c) e p 8 = { laneOf s e p 8 with st := .covering, cover := some c } ∧ (switched s e p c).optics.length = s.optics.length := by
  have hl1 : e < (modLane s e p c fun x => { x with planned := false }).optics.length := by rwa [modLane_length]
  have hl2 : e < (coverLane (modLane s e p c fun x => { x with planned := false }) e p c .cal).optics.length := by rwa [coverLane_length]
  obtain ⟨h1, h8⟩ := laneOf_coverLane _ hl1 p hc .cal
  refine ⟨?_, ?_, ?_⟩
  · rw [switched, laneOf_modLane_same hl2 p _ (by omega), h1, laneOf_modLane_same he p _ (by omega)]
  · rw [switched, laneOf_modLane_other hl2 p _ (by omega) (by omega) (by omega), h8, laneOf_modLane_other he p _ (by omega) (by omega) (by omega)]
  · rw [switched, modLane_length, coverLane_length, modLane_length]

theorem mayRun_switched (s : State) (he : e < 4) (p c cls inst : Nat) : mayRun (switched s e p c) cls inst = mayRun s cls inst := by
  rw [switched, mayRun_modLane, mayRun_coverLane _ he, mayRun_modLane]

theorem calItem_switched (s : State) (e p c cls inst : Nat) : calItem (switched s e p c) cls inst = calItem s cls inst :=
  calItem_of_cal (congrArg (fun x => x.items) (optReport_core _ _ _ _ _).cal) cls inst

theorem laneDone_lanes (he : e < s.optics.length) (hc : c < 9) {q d : Nat} (hd : d < 9) :
    laneOf (laneDone s e p c) e q d = laneOf s e q d ∨ (q = p ∧ d = c ∧ laneOf (laneDone s e p c) e q d = { laneOf s e p c with st := .margin }) := by
  unfold laneDone
  split
  · rw [laneOf_modLane he p c _ hc hd]
    split
    · exact .inr ⟨‹_ ∧ _›.1, ‹_ ∧ _›.2, rfl⟩
    · exact .inl rfl
  · exact .inl rfl

theorem coverSwitch_runs (mismatch : Bool) (hpl : (laneOf s e p c).planned = true) (hst : (laneOf s e p c).st = .active)
    (h8 : (laneOf s e p 8).st = .spareIdle) (hr : spareReaches s e p c = true) (hc : c < 8) (ha : s.active.isSome = true) :
    exec (.calCoverSwitchPoint e p ⟨c, mismatch⟩) s =
      .next (relinkLane (laneDone (runDue mismatch (switched s e p c) (laneItems e p c)) e p c) e p) := by
  have hgo : ¬((laneOf s e p c).st ≠ .active ∨ (laneOf s e p 8).st ≠ .spareIdle ∨ spareReaches s e p c = false ∨ 8 ≤ c ∨ s.active.isNone = true) := by
    simp [hst, h8, hr, hc, Option.isSome_iff_ne_none.1 ha]
  exact congrArg done ((if_neg (by dsimp only; rw [hpl]; decide)).trans (if_neg hgo))

end Sys2Proof.Machine

namespace Sys2Proof.Proofs
open Sys2Proof Sys2Proof.Machine

/-- Settles O45: each event's lane by the law of its operation; links that follow (`relinkLane_kept`) and reports (`optReport_kept`) move no lane. -/
theorem lanesFailAndReturn : Obligations.LanesFailAndReturn := by
  unfold Obligations.LanesFailAndReturn
  intro s e p c he he4 hp hc hcov
  extract_lets lane after spare fails tests retries
  have hfails {i : Instr} {cause : Nat} (hi : exec i s = .next (laneFail s e p c cause)) (h3 : cause ≠ 3) (h5 : cause ≠ 5) : fails i cause := by
    intro hf
    obtain ⟨hcover, hdrop⟩ := laneFail_lanes (p := p) he hc h3 h5 hf
    exact ⟨fun h8 hr => ⟨_, hi, hcover h8 hr⟩, fun hd => ⟨_, hi, hdrop hd⟩⟩
  have hretries {i : Bool → Instr} (hi : ∀ k, exec (i k) s = .next (retryLane s e p c k)) : retries i := by
    intro hr
    obtain ⟨htrain, hcount⟩ := retryLane_lane he p (by omega) hr
    exact ⟨⟨_, hi true, htrain⟩, ⟨_, hi false, hcount⟩⟩
  refine ⟨hfails ?_ (by decide) (by decide), hfails rfl (by decide) (by decide), hfails rfl (by decide) (by decide), fun near far full hm => ?_,
    hretries fun _ => rfl, fun h1 => hretries fun _ => congrArg done (if_pos h1), fun h1 _ => congrArg done (if_neg h1), fun hst hd hi => ?_,
    fun i hst hid => ⟨fun hne => ?_, fun h3 => ?_⟩, fun m hpl => congrArg done (if_pos hpl), fun m hpl ha => ?_, fun m hpl hst h8 hr ha => ?_,
    fun near far h8 => ⟨fun hn hf => ?_, fun hbad => ?_⟩⟩
  · have hl : [8, 0, 1, 2, 3, 4, 5, 6, 7].flatMap (fun k => [(p, c)].filter (fun l : Nat × Nat => l.2 == k)) = [(p, c)] := by
      interval_cases c <;> rfl
    exact congrArg done (congrArg (List.foldl _ s) hl)
  · have hno : ¬(laneOf s e p c).st ≠ .margin := not_not.2 hm
    refine ⟨fun hpass => ⟨_, congrArg done ((if_neg hno).trans (if_pos ((marginPass_eq near far).trans hpass))), ?_⟩,
      fun hfail => ⟨_, congrArg done ((if_neg hno).trans (if_neg (by rw [marginPass_eq, hfail]; decide))), marginShort_lane he (by omega) hcov⟩⟩
    have h8 : covered (modLane s e p c fun x => passMargin s e x full) e p = none :=
      (covered_of_lane (laneOf_modLane_other he p _ (by omega) (by omega) (by omega))).trans hcov
    rw [laneActive_lane (by rwa [modLane_length]) hc h8, laneOf_modLane_same he p _ (by omega), passMargin]
    cases (laneOf s e p c).full <;> exact ⟨rfl, rfl, rfl⟩
  · refine ⟨_, congrArg done (if_pos hst), ?_⟩
    rw [(LanesKept.markAbsent _ _).lanes]
    exact trainingBound_dropped he hc hd hi
  · refine ⟨_, laneTrainingComplete_judged hst hid, ?_⟩
    rw [judgeIdent_planned hne]
    have hk := judged_kept s (8 * e + p) c (identMatch s (8 * e + p) c i) i
    exact ⟨by rw [laneOf_modLane_same (by rw [hk.engines]; exact he) p _ (by omega)], identOf_judged s _ c _ i⟩
  · refine ⟨_, laneTrainingComplete_judged hst hid, ?_⟩
    rw [judgeIdent_unplanned h3]
    exact holdDark_lane he hp hc hcov i
  · have hstop : (laneOf s e p c).st ≠ .active ∨ (laneOf s e p 8).st ≠ .spareIdle ∨ spareReaches s e p c = false ∨ 8 ≤ c ∨ s.active.isNone = true := by
      simp [ha]
    exact ⟨_, congrArg done ((if_neg (by dsimp only; rw [show (laneOf s e p c).planned = true from hpl]; decide)).trans (if_pos hstop)),
      laneOf_modLane_same he p _ (show c < 9 by omega)⟩
  · obtain ⟨hl, hs8, hlen⟩ := switched_lanes he p hc
    have hk := LanesKept.runDue m (switched s e p c) (laneItems e p c)
    have hr1 : e < (runDue m (switched s e p c) (laneItems e p c)).optics.length := by rwa [hk.engines, hlen]
    refine ⟨_, coverSwitch_runs m hpl hst h8 hr hc ha, ?_⟩
    have hspare : laneOf (laneDone (runDue m (switched s e p c) (laneItems e p c)) e p c) e p 8 = laneOf (switched s e p c) e p 8 := by
      rcases laneDone_lanes (p := p) (c := c) hr1 (by omega) (q := p) (d := 8) (by omega) with h | ⟨-, hx, -⟩
      · rw [h, hk.lanes]
      · omega
    have hlane : laneOf (laneDone (runDue m (switched s e p c) (laneItems e p c)) e p c) e p c = laneOf (switched s e p c) e p c ∨
        laneOf (laneDone (runDue m (switched s e p c) (laneItems e p c)) e p c) e p c = { laneOf (switched s e p c) e p c with st := .margin } := by
      rcases laneDone_lanes (p := p) (c := c) hr1 (by omega) (q := p) (d := c) (by omega) with h | ⟨-, -, h⟩
      · exact .inl (h.trans (hk.lanes e p c))
      · exact .inr (h.trans (by rw [hk.lanes]))
    have hs := ((relinkLane_kept (laneDone (runDue m (switched s e p c) (laneItems e p c)) e p c) e p).lanes e p 8).trans (hspare.trans hs8)
    rw [(relinkLane_kept _ _ _).lanes]
    refine ⟨?_, congrArg Lane.st hs, congrArg Lane.cover hs, ?_, fun hdue hmis => ?_⟩
    · rcases hlane with h | h <;> rw [h, hl]
    · rcases hlane with h | h
      · exact .inl (by rw [h, hl])
      · exact .inr (by rw [h])
    · subst hmis
      obtain ⟨k, hmem, hkd, hkm⟩ := hdue
      obtain ⟨-, hkeep, -⟩ := laneDone_runDue (s := switched s e p c) hmem ((calItem_switched s e p c k.1 k.2).symm ▸ hkd)
        ((mayRun_switched s he4 p c k.1 k.2).trans hkm)
      rw [hkeep, hl]
  · exact congrArg done ((if_neg (not_not.2 h8)).trans (if_pos (by simp [marginPass_eq, hn, hf])))
  · have hno : marginPass near far = false := by
      rw [marginPass_eq]
      exact decide_eq_false (by omega)
    obtain ⟨hst, hmar, -⟩ := marginShort_lane (p := p) (c := 8) he (by omega) hcov
    exact ⟨_, congrArg done ((if_neg (not_not.2 h8)).trans (if_neg (by rw [hno]; decide))), hst, hmar⟩

end Sys2Proof.Proofs
end

section
/-!
SUPPORT. What the collective engine leaves as it was when a step is sent, sent again or aborted: bundles, links, stack memory and their registers
change, and nothing else (R253, R387 to R390).
-/
namespace Sys2Proof.Machine
open Sys2Proof

variable {s t u : State} {n : Nat}

/-- The state without what the collective engine changes. -/
def State.besideSteps (s : State) : State := { s.besideLinks with pl := { s.pl with slots := [] } }

/-- The registers of a stack that reads and repairs write. -/
def stackRegs : List Reg := [.memStkCe, .memStkStat, .memStkUe, .memStkUeAddrLo, .memStkUeAddrHi, .memStkDisturb]

/-- The addresses of the registers that the collective engine writes, with `n` dies. -/
def StepReg (n a : Nat) : Prop :=
  BundleReg a ∨ LinkReg n a ∨ ∃ d, d < n ∧ ∃ j, j < 2 ∧ ∃ r ∈ stackRegs, a = (⟨r, d, j, 0⟩ : RegRef).addr

/-- From `s` to `t` bundles, links and stack memory have changed, with reports, counters and registers of these, and nothing else. -/
structure StepWork (s t : State) : Prop where
  beside : t.besideSteps = s.besideSteps
  dieCount : t.dies.length = s.dies.length
  regs : ∀ r : RegRef, ¬StepReg s.dies.length r.addr → regWord t r = regWord s r
  out : OutGrows s t

theorem LinkWork.stepWork (h : LinkWork s t) : StepWork s t :=
  ⟨(congrArg (fun x : State => { x with pl := { x.pl with slots := [] } }) h.beside :), h.dieCount, fun r hr => h.regs r fun hl => hr (.inr (.inl hl)), h.out⟩

theorem BundleWork.stepWork (h : BundleWork s t) : StepWork s t :=
  ⟨(congrArg (fun x : State => { x with dies := [], fab := { x.fab with changing := [], tofWait := [] } }) h.beside :), congrArg List.length h.dies,
    fun r hr => h.regs r fun hb => hr (.inl hb), h.out⟩

theorem stkIdx_lt (n : Nat) : stkIdx n < 2 := Nat.mod_lt _ (by decide)

theorem stkDie_lt {k : Stack} (h : stackOf s n = some k) : stkDie n < s.dies.length := by
  rw [stackOf] at h
  cases hd : s.dies[n / 2]? with
  | none =>
    rw [hd] at h
    cases h
  | some d => exact (List.getElem?_eq_some_iff.1 hd).1

namespace StepWork

theorem refl (s : State) : StepWork s s := ⟨rfl, rfl, fun _ _ => rfl, .refl s⟩
theorem trans (h : StepWork s t) (k : StepWork t u) : StepWork s u :=
  ⟨k.beside.trans h.beside, k.dieCount.trans h.dieCount, fun r hr => (k.regs r (h.dieCount.symm ▸ hr)).trans (h.regs r hr), h.out.trans k.out⟩

theorem foldl {α : Type} (f : State → α → State) (hf : ∀ s a, StepWork s (f s a)) (l : List α) (s : State) : StepWork s (l.foldl f s) :=
  List.foldlRecOn _ _ (refl s) fun _ h a _ => h.trans (hf _ a)

theorem ite {p : Prop} [Decidable p] (h : StepWork s t) (k : StepWork s u) : StepWork s (if p then t else u) := by
  split
  · exact h
  · exact k

theorem report (s : State) (code src handle : Nat) (d : List Byte) : StepWork s (report s code src handle d) := (LinkWork.report s _ _ _ _).stepWork
theorem setFabEvent (s : State) {f : Fld} (hf : f.reg = .fabEvent) : StepWork s (setEvent s f) := (LinkWork.setEvent s hf).stepWork
theorem bumpEv (s : State) (ev : Nat) (c : EvCtx) (k : Nat) : StepWork s (bumpEv s ev c k) := (LinkWork.bumpEv s ev c k).stepWork
theorem modBundle (s : State) (k : Nat) (f : Bundle → Bundle) : StepWork s (modBundle s k f) := (BundleWork.modBundle s k f).stepWork
theorem modColl (s : State) (slot si : Nat) (f : Coll → Coll) : StepWork s (modColl s slot si f) := modBundle s slot _
theorem queueFlits (s : State) (key vc : Nat) (fs : List Flit) : StepWork s (queueFlits s key vc fs) := (LinkWork.queueFrom s none key vc fs).stepWork

theorem modStack (s : State) (k : Nat) (f : Stack → Stack) : StepWork s (modStack s k f) := ⟨rfl, length_modAt _ _ _, fun _ _ => rfl, .of_eq rfl⟩

/-! ### Stack memory -/

/-- A register of a stack that is there. -/
theorem setStackReg (s : State) {f : Fld} (hf : f.reg ∈ stackRegs) (hd : stkDie n < s.dies.length) (v : Nat) :
    StepWork s (setFldAt s f (stkDie n) (stkIdx n) 0 v) :=
  ⟨(congrArg (fun x : State => { x with pl := { x.pl with slots := [] } }) ((SameCore.refl s).setFldAt f _ _ 0 v).besideLinks :), rfl,
    fun _ hr => regWord_setRegWord_other s (fun he => hr (.inr (.inr ⟨_, hd, _, stkIdx_lt n, _, hf, he⟩))) _, .of_eq rfl⟩

/-- A further change to a register of the stack. -/
theorem andReg (h : StepWork s t) {f : Fld} (hf : f.reg ∈ stackRegs) (hd : stkDie n < s.dies.length) (v : Nat) :
    StepWork s (setFldAt t f (stkDie n) (stkIdx n) 0 v) := h.trans (setStackReg t hf (h.dieCount.symm ▸ hd) v)

theorem repairStart (s : State) (k key : Nat) : StepWork s (repairStart s k key) := modStack s k _

theorem stackCe (s : State) {n : Nat} (hd : stkDie n < s.dies.length) (w : Nat) : StepWork s (stackCe s n w) := by
  unfold Machine.stackCe
  extract_lets d j s1 key
  have h1 : StepWork s s1 := ((bumpEv s (evDie Ev.stkCe (stkDie n) (stkIdx n)) noCtx 1).andReg (f := F.memStkCeCount) (by decide) hd _).andReg
    (f := F.memStkStatCe) (by decide) hd 1
  clear_value s1
  split
  · exact h1
  · dsimp only
    split
    · exact (h1.trans (modStack s1 n _)).trans (repairStart _ n key)
    · exact h1.trans (modStack s1 n _)

theorem stackUe (s : State) {n : Nat} (hd : stkDie n < s.dies.length) (w : Nat) : StepWork s (stackUe s n w) := by
  unfold Machine.stackUe
  extract_lets d j s1 s2 s3
  have h1 : StepWork s s1 := ((bumpEv s (evDie Ev.stkUe (stkDie n) (stkIdx n)) noCtx 1).andReg (f := F.memStkUeCount) (by decide) hd _).andReg
    (f := F.memStkStatUe) (by decide) hd 1
  have h3 : StepWork s s3 := ((h1.andReg (f := F.memStkUeAddrLoOffsetLo) (by decide) hd _).andReg (f := F.memStkUeAddrHiOffsetHi) (by decide) hd _).andReg
    (f := F.memStkUeAddrHiValid) (by decide) hd 1
  exact (h3.trans (report s3 _ _ _ _)).trans (repairStart _ n _)

theorem stackFound (s : State) {n : Nat} (hd : stkDie n < s.dies.length) (m : Mem) (fixed : List Nat) (bad : List (Nat × Bool)) :
    StepWork s (stackFound s n m fixed bad) := by
  unfold Machine.stackFound
  have h1 : StepWork s (Machine.modStack s n fun k => { k with mem := m }) := modStack s n _
  have h2 := List.foldlRecOn (motive := fun t : State => StepWork s t) fixed (fun s w => Machine.stackCe s n w) h1
    fun t ht w _ => ht.trans (stackCe t (ht.dieCount.symm ▸ hd) w)
  refine List.foldlRecOn (motive := fun t : State => StepWork s t) bad _ h2 fun t ht e _ => ?_
  exact ite ht (ht.trans (stackUe t (ht.dieCount.symm ▸ hd) e.1))

theorem stackRead (s : State) (n off len : Nat) : StepWork s (stackRead s n off len).st := by
  unfold Machine.stackRead
  split
  · exact refl s
  · exact stackFound s (stkDie_lt ‹_›) _ _ _

theorem stackTile (s : State) (n off : Nat) : StepWork s (stackTile s n off).1 := by
  unfold Machine.stackTile
  split
  · exact refl s
  · exact stackFound s (stkDie_lt ‹_›) _ _ _

theorem activate (s : State) (n : Nat) (acts : List (Nat × Nat)) : StepWork s (activate s n acts) := by
  unfold Machine.activate
  refine foldl _ (fun s e => ?_) acts s
  split
  · exact refl s
  · rename_i k hk
    extract_lets a c th s1
    have h1 : StepWork s s1 := modStack s n _
    exact (h1.trans (bumpEv s1 (evDie Ev.stkDisturb (stkDie n) (stkIdx n)) noCtx (c / th))).andReg (f := F.memStkDisturbRefreshes) (by decide)
      (stkDie_lt hk) _

theorem correctRow (s : State) (n key : Nat) : StepWork s (correctRow s n key) := foldl _ (fun s off => stackRead s n off 64) _ s

theorem spareReports (s : State) (n bank : Nat) : StepWork s (spareReports s n bank) := by
  unfold Machine.spareReports
  split
  · exact report s _ _ _ _
  · exact report s _ _ _ _
  · exact refl s

theorem finishRepair (s : State) {n : Nat} (hd : stkDie n < s.dies.length) (bank row : Nat) : StepWork s (finishRepair s n bank row) := by
  unfold Machine.finishRepair
  extract_lets s1 s2
  have h1 : StepWork s s1 := (correctRow s n _).trans (modStack _ n _)
  have h2 : StepWork s s2 := (h1.trans (bumpEv s1 (evDie Ev.stkRepair (stkDie n) (stkIdx n)) noCtx 1)).andReg (f := F.memStkStatRepaired) (by decide) hd 1
  exact (h2.trans (report s2 _ _ _ _)).trans (spareReports _ n bank)

theorem awaitRepairs (s : State) (n off len : Nat) : StepWork s (awaitRepairs s n off len) := by
  unfold Machine.awaitRepairs
  split
  · exact refl s
  · rename_i k hk
    exact List.foldlRecOn (motive := fun t : State => StepWork s t) _ _ (refl s) fun t ht key _ =>
      ht.trans (finishRepair t (ht.dieCount.symm ▸ stkDie_lt hk) _ _)

theorem openRows (s : State) (n off len : Nat) : StepWork s (openRows s n off len) := (awaitRepairs s n off len).trans (activate _ n _)

/-! ### Steps of a collective -/

theorem sendTransfer (v : CollView) (step key dest : Nat) (resend : Bool) (s : State) (e : Nat × Nat) :
    StepWork s (sendTransfer v step key dest resend s e) :=
  ((openRows s v.stack _ slotBytes).trans (stackTile _ v.stack _)).trans (queueFlits _ _ _ _)

theorem collAbort (s : State) (slot si cause : Nat) : StepWork s (collAbort s slot si cause) := by
  unfold Machine.collAbort
  split
  · exact refl s
  · refine StepWork.trans (((setFabEvent s rfl).trans (BundleWork.faultWith _ slot cause _ []).stepWork).trans (modColl _ slot si Coll.stop))
      (foldl _ (fun s k => ?_) _ _)
    split
    · exact queueFlits s _ _ _
    · exact refl s

theorem sendStep (s : State) (slot si : Nat) (resend : Bool) (skip : Option Nat) : StepWork s (sendStep s slot si resend skip) := by
  unfold Machine.sendStep
  split
  · exact refl s
  · rename_i v _
    extract_lets step dest list o
    refine ite (modColl s slot si _) (ite (modColl s slot si _) ?_)
    generalize o = o'
    split
    · exact collAbort s slot si _
    · extract_lets s1 s2 s3
      have h1 : StepWork s s1 := ((LinkWork.countAlt s _ _).stepWork).trans (modColl _ slot si _)
      have h2 : StepWork s s2 := h1.trans (foldl _ (sendTransfer v step _ dest resend) list s1)
      refine ite (StepWork.trans ?_ (report s3 _ _ _ _)) h2
      exact (h2.trans (setFabEvent s2 rfl)).trans (bumpEv _ _ _ _)

theorem resendSteps (s : State) (key : Nat) : StepWork s (resendSteps s key) := by
  unfold Machine.resendSteps
  exact foldl _ (fun s e => foldl _ (fun s p => ite (sendStep s _ _ true none) (refl s)) _ s) _ s

theorem collUnblock (s : State) : StepWork s (collUnblock s) := by
  unfold Machine.collUnblock
  refine foldl _ (fun s e => foldl _ (fun s si => ?_) _ s) _ s
  split
  · exact ite (sendStep s _ _ false none) (refl s)
  · exact refl s

theorem loseReplay (s : State) (key : Nat) : StepWork s (loseReplay s key) := by
  unfold Machine.loseReplay
  split
  · exact refl s
  · extract_lets s1 s2
    have h2 : StepWork s s2 := ((LinkWork.modLink s key _).trans (LinkWork.portEvent s1 _ _ _)).stepWork
    exact ite h2 (h2.trans (LinkWork.linkReport s2 key _ rfl).stepWork)

theorem settleLink (s : State) (key : Nat) : StepWork s (settleLink s key) := by
  unfold Machine.settleLink
  split
  · exact refl s
  · exact ite ((loseReplay s key).trans (resendSteps _ key)) (refl s)

/-! ### What stays -/

theorem optics (h : StepWork s t) : t.optics = s.optics := (congrArg State.optics h.beside :)
theorem active (h : StepWork s t) : t.active = s.active := (congrArg State.active h.beside :)
theorem ident (h : StepWork s t) : t.ident = s.ident := (congrArg State.ident h.beside :)
theorem recable (h : StepWork s t) : t.fab.recable = s.fab.recable := (congrArg (fun x : State => x.fab.recable) h.beside :)

end StepWork

end Sys2Proof.Machine
end

section
/-!
SUPPORT. The end of a re-cable (R378, R379): what a step of it leaves, and how far it then is.
-/
namespace Sys2Proof.Machine
open Sys2Proof

variable {s t u : State}

/-- From `s` to `t` the engines, the hub that is active and the module are as they were, with every register but those that links, collectives and
the route books write. -/
structure Recabled (s t : State) : Prop where
  optics : t.optics = s.optics
  active : t.active = s.active
  ident : t.ident = s.ident
  dieCount : t.dies.length = s.dies.length
  regs : ∀ r : RegRef, ¬StepReg s.dies.length r.addr → r.addr ≠ (⟨.fabRbCtl, 0, 0, 0⟩ : RegRef).addr → regWord t r = regWord s r

theorem StepWork.recabled (h : StepWork s t) : Recabled s t := ⟨h.optics, h.active, h.ident, h.dieCount, fun r hr _ => h.regs r hr⟩
theorem LinkWork.recabled (h : LinkWork s t) : Recabled s t := h.stepWork.recabled

namespace Recabled

theorem refl (s : State) : Recabled s s := ⟨rfl, rfl, rfl, rfl, fun _ _ _ => rfl⟩
theorem trans (h : Recabled s t) (k : Recabled t u) : Recabled s u :=
  ⟨k.optics.trans h.optics, k.active.trans h.active, k.ident.trans h.ident, k.dieCount.trans h.dieCount,
    fun r hr hc => (k.regs r (h.dieCount.symm ▸ hr) hc).trans (h.regs r hr hc)⟩

theorem foldl {α : Type} (f : State → α → State) (hf : ∀ s a, Recabled s (f s a)) (l : List α) (s : State) : Recabled s (l.foldl f s) :=
  List.foldlRecOn _ _ (refl s) fun _ h a _ => h.trans (hf _ a)

/-- A change to the fabric alone. -/
theorem modFab (s : State) (x : Fabric) : Recabled s { s with fab := x } := ⟨rfl, rfl, rfl, rfl, fun _ _ _ => rfl⟩

theorem keptChanged (s : State) : Recabled s (keptChanged s) := ⟨rfl, rfl, rfl, rfl, fun _ _ _ => rfl⟩

theorem bumpRbCtl (s : State) {f : Fld} (hf : f.reg = .fabRbCtl) (v : Nat) : Recabled s (bumpFldAt s f 0 0 0 v) :=
  ⟨rfl, rfl, rfl, rfl, fun _ _ hc => regWord_setRegWord_other s (fun he => hc (he.trans (by rw [hf]))) _⟩

theorem swapBooks (s : State) : Recabled s (swapBooks s) :=
  ((modFab s _).trans (bumpRbCtl _ (f := F.fabRbCtlGen) rfl 1)).trans (keptChanged _)

end Recabled

theorem releaseLink_work (s : State) (key : Nat) : LinkWork s (releaseLink s key) := by
  unfold releaseLink
  extract_lets s1
  have h1 : LinkWork s s1 := by
    dsimp only [s1]
    unfold rerouteQueue
    split
    · exact LinkWork.refl s
    · exact (LinkWork.modLink s key _).trans (LinkWork.rerouteAll _ key _)
  split
  · exact h1
  · split
    · exact h1.trans (LinkWork.of_regs rfl rfl rfl rfl)
    · split
      · exact (h1.trans (LinkWork.startTof s1 key)).trans (LinkWork.pumpLink _ key)
      · exact h1

theorem finishRecable_recabled (s : State) : Recabled s (finishRecable s) := by
  unfold finishRecable
  split
  · exact Recabled.refl s
  · extract_lets s1 s2
    have h1 : Recabled s s1 := (Recabled.swapBooks s).trans (Recabled.foldl _ (fun s k => (LinkWork.modLink s k _).recabled) _ _)
    have h2 : Recabled s s2 := h1.trans (Recabled.foldl _ (fun s k => (releaseLink_work s k).recabled) _ s1)
    refine Recabled.trans (Recabled.trans ?_ (StepWork.setFabEvent _ rfl).recabled) (LinkWork.flushWaiting _).recabled
    exact h2.trans (Recabled.modFab s2 _)

theorem recableStep_recabled (s : State) : Recabled s (recableStep s) := by
  unfold recableStep
  split
  · exact Recabled.refl s
  · have h1 : Recabled s (s.fab.changing.foldl settleLink s) := Recabled.foldl _ (fun s k => (StepWork.settleLink s k).recabled) _ s
    exact (h1.trans (Recabled.modFab _ _)).trans (finishRecable_recabled _)

theorem LinkWork.recable (h : LinkWork s t) : t.fab.recable = s.fab.recable := h.stepWork.recable

/-- What a re-cable that settles becomes. -/
theorem finishRecable_recable (h : s.fab.recable = .discovering) :
    (finishRecable s).fab.recable = if s.active = none then .discovering else .idle := by
  unfold finishRecable
  by_cases ha : s.active = none
  · rw [if_pos ha, if_pos (.inr (by rw [ha]; rfl)), h]
  · rw [if_neg ha, if_neg (by simp [h, ha])]
    dsimp only
    exact (LinkWork.flushWaiting _).recable.trans (StepWork.setFabEvent _ rfl).recable

/-- Whether an engine's commit still runs. -/
def anyBusy (s : State) : Bool := (engineList s).any (fun e => (opticOf s e).busy)

theorem anyBusy_of (h : Recabled s t) : anyBusy t = anyBusy s := by
  simp only [anyBusy, engineList, h.ident, opticOf_of_optics h.optics]

/-- How far a re-cable that commits is after a step of it. -/
theorem recableStep_recable (h : s.fab.recable = .committing) : (recableStep s).fab.recable =
    (if anyBusy (recableStep s) then .committing else if (recableStep s).active = none then .discovering else .idle) := by
  have hr := recableStep_recabled s
  rw [anyBusy_of hr, hr.active]
  by_cases hb : anyBusy s = true
  · rw [if_pos hb, recableStep, if_pos (.inr hb), h]
  · have hset : Recabled s (s.fab.changing.foldl settleLink s) := Recabled.foldl _ (fun s k => (StepWork.settleLink s k).recabled) _ s
    rw [if_neg hb, recableStep, if_neg (by simp only [h, ne_eq, not_true_eq_false, false_or]; exact hb), finishRecable_recable rfl]
    exact congrArg (fun a : Option Hub => if a = none then Recable.discovering else .idle) hset.active

theorem recableStep_idle (h : s.fab.recable ≠ .committing) : recableStep s = s := if_pos (.inl h)

end Sys2Proof.Machine
end

section
/-!
SUPPORT. Lanes that fail, recover, train or end a commit: of an engine's parts they leave the lasers and handovers, and an element at most starts to
steer afresh (R333 to R352, R403).
-/
namespace Sys2Proof.Machine
open Sys2Proof

variable {s t u : State} {e p c i : Nat}

/-! ### Elements -/

theorem elem_setElem (s : State) (e i : Nat) (x : Elem) (k j : Nat) :
    (opticOf (setElem s e i x) k).elem j = if (k = e ∧ e < s.optics.length) ∧ j = i then x else (opticOf s k).elem j := by
  rw [setElem, opticOf_modOptic]
  by_cases hk : k = e ∧ e < s.optics.length
  · rw [if_pos hk, Optic.elem, SMap.getD_setD, hk.1]
    by_cases hj : j = i
    · rw [if_pos hj, if_pos ⟨⟨rfl, hk.2⟩, hj⟩]
    · rw [if_neg hj, if_neg fun h => hj h.2, Optic.elem]
  · rw [if_neg hk, if_neg fun h => hk h.1]

theorem elem_setElem_same {e : Nat} (he : e < s.optics.length) (i : Nat) (x : Elem) : (opticOf (setElem s e i x) e).elem i = x := by
  rw [elem_setElem, if_pos ⟨⟨rfl, he⟩, rfl⟩]

theorem elem_setElem_other {k j : Nat} (h : j ≠ i) (x : Elem) : (opticOf (setElem s e i x) k).elem j = (opticOf s k).elem j := by
  rw [elem_setElem, if_neg fun hx => h hx.2]

/-- An element as it was, or one in use that has begun to steer afresh. -/
def Elem.Kept (x y : Elem) : Prop :=
  y = x ∨ (x.st ≠ .safe ∧ x.st ≠ .tripped ∧ ∃ h, y = { x with st := .steering, good := 0, identOk := false, heater := h })

theorem Elem.Kept.trans {x y z : Elem} (h : x.Kept y) (k : y.Kept z) : x.Kept z := by
  rcases k with rfl | ⟨k1, k2, n, rfl⟩
  · exact h
  · rcases h with rfl | ⟨h1, h2, m, rfl⟩
    · exact .inr ⟨k1, k2, n, rfl⟩
    · exact .inr ⟨h1, h2, n, rfl⟩

/-- From `s` to `t` lanes have changed, no laser and no handover, and an element at most as it steers afresh. -/
structure FailWork (s t : State) : Prop where
  lane : LaneWork true s t
  lasers : ∀ k, (opticOf t k).lasers = (opticOf s k).lasers
  handover : ∀ k, (opticOf t k).handover = (opticOf s k).handover
  elems : ∀ k i, ((opticOf s k).elem i).Kept ((opticOf t k).elem i)

namespace FailWork

theorem of_optics (h : LaneWork true s t) (ho : t.optics = s.optics) : FailWork s t :=
  ⟨h, fun k => by rw [opticOf_of_optics ho], fun k => by rw [opticOf_of_optics ho], fun k i => .inl (by rw [opticOf_of_optics ho])⟩

theorem refl (s : State) : FailWork s s := of_optics (.refl s) rfl
theorem trans (h : FailWork s t) (k : FailWork t u) : FailWork s u :=
  ⟨h.lane.trans k.lane, fun n => (k.lasers n).trans (h.lasers n), fun n => (k.handover n).trans (h.handover n),
    fun n i => (h.elems n i).trans (k.elems n i)⟩

theorem foldl {α : Type} (f : State → α → State) (hf : ∀ s a, FailWork s (f s a)) (l : List α) (s : State) : FailWork s (l.foldl f s) :=
  List.foldlRecOn _ _ (refl s) fun _ h a _ => h.trans (hf _ a)

theorem ite {p : Prop} [Decidable p] (h : FailWork s t) (k : FailWork s u) : FailWork s (if p then t else u) := by
  split
  · exact h
  · exact k

theorem of_link (h : LinkWork s t) : FailWork s t := of_optics h.laneWork h.optics

theorem report (s : State) (code src handle : Nat) (d : List Byte) : FailWork s (report s code src handle d) := of_link (.report _ _ _ _ _)

theorem optReport (s : State) (e code : Nat) {f : Fld} (hf : f.reg = .optEvent) (d : List Byte) : FailWork s (optReport s e code f d) :=
  of_optics (.optReport s e code hf d) (optReport_core s e code f d).optics

/-- A change to an engine's lanes or settings alone. -/
theorem modOptic (s : State) (e : Nat) {f : Optic → Optic}
    (hc : ∀ o, (f o).busy = o.busy ∧ (f o).changed = o.changed ∧ (f o).waits = o.waits)
    (hp : ∀ o, (f o).lasers = o.lasers ∧ (f o).handover = o.handover ∧ (f o).elems = o.elems) : FailWork s (modOptic s e f) where
  lane := LaneWork.modOptic s e fun o => ⟨(hc o).1, (hc o).2.1, (hc o).2.2, fun h => by cases h⟩
  lasers k := by
    rw [opticOf_modOptic]
    split
    · rename_i hk
      rw [(hp _).1, hk.1]
    · rfl
  handover k := by
    rw [opticOf_modOptic]
    split
    · rename_i hk
      rw [(hp _).2.1, hk.1]
    · rfl
  elems k i := by
    refine .inl ?_
    rw [opticOf_modOptic]
    split
    · rename_i hk
      rw [Optic.elem, (hp _).2.2, hk.1, Optic.elem]
    · rfl

theorem modLane (s : State) (e p c : Nat) (f : Lane → Lane) : FailWork s (modLane s e p c f) :=
  modOptic s e (fun _ => ⟨rfl, rfl, rfl⟩) fun _ => ⟨rfl, rfl, rfl⟩

theorem relinkLane (s : State) (e p : Nat) : FailWork s (relinkLane s e p) := of_link (.relink s _)

/-! ### Runs abandoned -/

theorem steerElem (s : State) (e i : Nat) (h1 : ((opticOf s e).elem i).st ≠ .safe) (h2 : ((opticOf s e).elem i).st ≠ .tripped) :
    FailWork s (steerElem s e i) where
  lane := .steerElem s e i
  lasers k := by
    rw [Machine.steerElem, Machine.setElem, opticOf_modOptic]
    split
    · rename_i hk
      rw [hk.1]
    · rfl
  handover k := by
    rw [Machine.steerElem, Machine.setElem, opticOf_modOptic]
    split
    · rename_i hk
      rw [hk.1]
    · rfl
  elems k j := by
    rw [Machine.steerElem, elem_setElem]
    split
    · rename_i hk
      obtain ⟨⟨rfl, -⟩, rfl⟩ := hk
      exact .inr ⟨h1, h2, _, rfl⟩
    · exact .inl rfl

theorem closeElem (s : State) (cls inst : Nat) : FailWork s (closeElem s cls inst) := by
  unfold Machine.closeElem
  dsimp only
  split
  · split
    · exact refl s
    · rename_i h
      simp only [Bool.or_eq_true, beq_iff_eq, not_or] at h
      exact steerElem s _ _ h.1.2 h.2
  · exact refl s

theorem calAbandon (s : State) (cls inst : Nat) : FailWork s (calAbandon s cls inst) := by
  unfold Machine.calAbandon
  dsimp only
  split
  · refine FailWork.trans (FailWork.trans ?_ (report _ _ _ _ _)) (closeElem _ _ _)
    exact (of_optics (.endRun s ‹_› _) rfl).trans (of_optics (.setCalEvent _ rfl) rfl)
  · exact refl s

theorem abandonLane (s : State) (e p c : Nat) : FailWork s (abandonLane s e p c) := by
  unfold Machine.abandonLane
  exact foldl (fun s (k : Nat × Nat) => Machine.calAbandon s k.1 k.2) (fun s k => calAbandon s k.1 k.2) _ s

theorem abandonLaser (s : State) (e n : Nat) : FailWork s (abandonLaser s e n) := by
  unfold Machine.abandonLaser
  exact foldl (fun s (k : Nat × Nat) => Machine.calAbandon s k.1 (200 * e + k.2)) (fun s k => calAbandon s k.1 _) _ s

/-! ### Lanes that fail -/

theorem dropLane (s : State) (e p c : Nat) : FailWork s (dropLane s e p c) := (modLane s e p c _).trans (optReport _ _ _ rfl _)

theorem coverLane (s : State) (e p c : Nat) (st : LaneState) : FailWork s (coverLane s e p c st) :=
  ((modLane s e p 8 _).trans (modLane _ e p c _)).trans (optReport _ _ _ rfl _)

theorem uncover (s : State) (e p : Nat) (dark : Bool) : FailWork s (uncover s e p dark) := by
  unfold Machine.uncover
  split
  · exact refl s
  · have h1 := modLane s e p 8 fun x => { x with cover := none }
    dsimp only
    split
    · exact h1.trans (dropLane _ _ _ _)
    · exact (h1.trans (abandonLane _ _ _ _)).trans (ite (dropLane _ _ _ _) (modLane _ _ _ _ _))
    · exact h1.trans (ite (dropLane _ _ _ _) (refl _))
    · exact h1

theorem endLoop (s : State) (e k : Nat) : FailWork s (endLoop s e k) := by
  unfold Machine.endLoop
  extract_lets s1
  have h1 : FailWork s s1 := modOptic s e (fun _ => ⟨rfl, rfl, rfl⟩) fun _ => ⟨rfl, rfl, rfl⟩
  exact h1.trans (foldl _ (fun s p => ite (modLane s _ _ _ _) (refl s)) _ _)

theorem claimSpare (s : State) (e p : Nat) : FailWork s (claimSpare s e p) := by
  unfold Machine.claimSpare
  refine ite (endLoop s _ _) ?_
  dsimp only
  split
  · exact (abandonLane s _ _ _).trans (modLane _ _ _ _ _)
  · exact ite (((abandonLane s _ _ _).trans (modLane _ _ _ _ _)).trans (modLane _ _ _ _ _)) (refl s)
  · exact refl s

theorem seekCover (s : State) (e p c : Nat) (st : LaneState) (bare : Option LaneState) : FailWork s (seekCover s e p c st bare) := by
  unfold Machine.seekCover
  refine (claimSpare s e p).trans (ite (coverLane _ _ _ _ _) ?_)
  split
  · exact modLane _ _ _ _ _
  · exact dropLane _ _ _ _

theorem laneOut (s : State) (e p c cause : Nat) : FailWork s (laneOut s e p c cause) := by
  unfold Machine.laneOut
  extract_lets link s1 s2 s3 f s4
  have h1 : FailWork s s1 := by
    refine ite (refl s) ?_
    generalize link = l
    cases l with
    | some l => exact of_link (.sendLink s _ _)
    | none => exact refl s
  have h3 : FailWork s s3 := (h1.trans (modLane s1 e p c _)).trans (optReport _ e _ rfl _)
  refine h3.trans (ite (FailWork.trans (t := s4) ((uncover s3 e p _).trans (modLane _ _ _ _ _)) ?_) (ite (modLane _ _ _ _ _) (seekCover s3 _ _ _ _ _)))
  generalize f.2 = st
  cases st with
  | some st => exact modLane _ _ _ _ _
  | none => exact dropLane _ _ _ _

theorem laneFail (s : State) (e p c cause : Nat) : FailWork s (laneFail s e p c cause) := by
  unfold Machine.laneFail
  exact ite ((laneOut s _ _ _ _).trans (relinkLane _ _ _)) (refl s)

theorem partFail (s : State) (e p c cause : Nat) : FailWork s (partFail s e p c cause) := by
  unfold Machine.partFail
  split
  · exact (laneOut s _ _ _ _).trans (relinkLane _ _ _)
  · exact (laneOut s _ _ _ _).trans (relinkLane _ _ _)
  · exact (laneOut s _ _ _ _).trans (relinkLane _ _ _)
  · exact ((abandonLane s _ _ _).trans (laneOut _ _ _ _ _)).trans (relinkLane _ _ _)
  · exact laneFail s _ _ _ _

theorem tripLane (e : Nat) (s : State) (l : Nat × Nat) : FailWork s (tripLane e s l) := by
  unfold Machine.tripLane
  dsimp only
  split
  · exact modLane s _ _ _ _
  · exact modLane s _ _ _ _
  · exact modLane s _ _ _ _
  · exact modLane s _ _ _ _
  · exact partFail s _ _ _ _

theorem recoverLane (e : Nat) (s : State) (l : Nat × Nat) : FailWork s (recoverLane e s l) := by
  unfold Machine.recoverLane
  extract_lets into
  have h (s : State) : FailWork s (into s) :=
    (modLane s _ _ _ _).trans ((ite (modLane _ _ _ _ _) (seekCover _ _ _ _ _ _)).trans (relinkLane _ _ _))
  split
  · exact h s
  · exact h s
  · exact (abandonLane s _ _ _).trans (h _)
  · exact h s
  · exact h s
  · exact h s
  · exact laneFail s _ _ _ _

/-! ### Training, identities, margin tests -/

theorem modFab (s : State) {x : Fabric}
    (hx : ({ x with links := [], waiting := [], changing := [], tofWait := [], ident := [], absent := [], unplanned := [], bypassed := [], inForce := [] } : Fabric) =
      { s.fab with links := [], waiting := [], changing := [], tofWait := [], ident := [], absent := [], unplanned := [], bypassed := [], inForce := [] }) :
    FailWork s { s with fab := x } := of_optics (.modFab s hx) rfl

theorem setIdent (s : State) (P c : Nat) (i : IdentInfo) : FailWork s (setIdent s P c i) := modFab s rfl

theorem setFabEvent (s : State) {f : Fld} (hf : f.reg = .fabEvent) : FailWork s (setEvent s f) := of_link (.setEvent s hf)

theorem sendIdent (s : State) (P c : Nat) : FailWork s (sendIdent s P c) := by
  unfold Machine.sendIdent
  dsimp only
  split
  · exact of_link (.sendLink _ _ _)
  · exact of_link (((SameCore.refl s).emit _).linkWork rfl (.emit _ _))

theorem darkenLane (e p P : Nat) (s : State) (c : Nat) : FailWork s (darkenLane e p P s c) := by
  unfold Machine.darkenLane
  extract_lets s1 s2
  have h2 : FailWork s s2 := FailWork.trans (t := s1) (ite (uncover s e p false) (refl s)) (modLane s1 e p c _)
  split
  · exact h2.trans (setIdent s2 _ _ _)
  · exact h2

theorem holdDark (s : State) (P : Nat) (i : IdentInfo) : FailWork s (holdDark s P i) := by
  unfold Machine.holdDark
  extract_lets e p same s1 _ s2
  have h1 : FailWork s s1 := foldl _ (darkenLane e p P) same s
  have h2 : FailWork s s2 := h1.trans (modFab s1 rfl)
  exact ((h2.trans (setFabEvent s2 (f := F.fabEventUnplanned) rfl)).trans (report _ _ _ _ _)).trans (of_link (.relink _ P))

theorem bypassed (s : State) (P : Nat) : FailWork s (bypassed s P) := by
  unfold Machine.bypassed
  refine ite (refl s) (FailWork.trans (FailWork.trans ?_ (setFabEvent _ rfl)) (report _ _ _ _ _))
  exact modFab s rfl

theorem judged (s : State) (P c m : Nat) (i : IdentInfo) : FailWork s (judged s P c m i) := by
  unfold Machine.judged
  extract_lets s1 _ s2
  have h2 : FailWork s s2 := (setIdent s P c _).trans (modFab s1 rfl)
  exact ite (h2.trans (bypassed s2 P)) h2

theorem judgeIdent (s : State) (P c : Nat) (i : IdentInfo) {ok : State → State} (hok : ∀ s, FailWork s (ok s)) : FailWork s (judgeIdent s P c i ok) := by
  by_cases h : identMatch s P c i = 3
  · rw [judgeIdent_unplanned h]
    exact (setIdent s _ _ _).trans (holdDark _ _ _)
  · rw [judgeIdent_planned h]
    exact (judged s P c _ i).trans (hok _)

theorem markAbsent (s : State) (P : Nat) : FailWork s (markAbsent s P) := by
  unfold Machine.markAbsent
  refine ite (refl s) (FailWork.trans (FailWork.trans ?_ (setFabEvent _ rfl)) (report _ _ _ _ _))
  exact modFab s rfl

theorem trainingFails (s : State) (e p c : Nat) : FailWork s (trainingFails s e p c) :=
  ((laneOut s e p c 8).trans (modLane _ _ _ _ _)).trans (relinkLane _ _ _)

theorem trainingBound (s : State) (e p c : Nat) : FailWork s (trainingBound s e p c) := by
  unfold Machine.trainingBound
  split
  · exact trainingFails s _ _ _
  · exact judgeIdent s _ _ _ fun s => trainingFails s _ _ _

theorem marginShort (s : State) (e p c : Nat) : FailWork s (marginShort s e p c) := by
  unfold Machine.marginShort
  extract_lets cov s0 s1
  have h0 : FailWork s s0 := ite (uncover s e p false) (refl s)
  exact ((h0.trans (modLane s0 e p c _)).trans (optReport s1 e _ rfl _)).trans (relinkLane _ _ _)

theorem closeLane (e : Nat) (s : State) (l : Nat) : FailWork s (closeLane e s l) := by
  unfold Machine.closeLane
  dsimp only
  split
  · exact (modLane s _ _ _ _).trans (ite (modLane _ _ _ _ _) ((seekCover _ _ _ _ _ _).trans (relinkLane _ _ _)))
  · exact trainingBound s _ _ _
  · exact marginShort s _ _ _
  · exact refl s

end FailWork

end Sys2Proof.Machine
end

section
/-!
SUPPORT. Lasers of an engine, their handover, and the windows announced for it (R348 to R351).
-/
namespace Sys2Proof.Machine
open Sys2Proof

variable {s t u : State} {e n m c : Nat}

/-! ### Lasers and handovers written -/

theorem opticOf_setLaser (he : e < s.optics.length) (n : Nat) (x : Laser) :
    opticOf (setLaser s e n x) e = { opticOf s e with lasers := SMap.setD (opticOf s e).lasers n x Laser.off } := opticOf_modOptic_same he _

theorem opticOf_setHandover (he : e < s.optics.length) (c : Nat) (h : Option Handover) :
    opticOf (setHandover s e c h) e = { opticOf s e with handover := match h with
      | some x => SMap.insert (opticOf s e).handover c x
      | none => SMap.erase (opticOf s e).handover c } := opticOf_modOptic_same he _

theorem laser_setLaser (he : e < s.optics.length) (n : Nat) (x : Laser) (m : Nat) :
    (opticOf (setLaser s e n x) e).laser m = if m = n then x else (opticOf s e).laser m := by
  rw [opticOf_setLaser he, Optic.laser, SMap.getD_setD, Optic.laser]

theorem laser_of_lasers {o q : Optic} (h : q.lasers = o.lasers) (m : Nat) : q.laser m = o.laser m := by rw [Optic.laser, h, Optic.laser]

theorem setLaser_length (s : State) (e n : Nat) (x : Laser) : (setLaser s e n x).optics.length = s.optics.length := modOptic_length _ _ _
theorem setHandover_length (s : State) (e c : Nat) (h : Option Handover) : (setHandover s e c h).optics.length = s.optics.length := modOptic_length _ _ _
theorem setElem_length (s : State) (e i : Nat) (x : Elem) : (setElem s e i x).optics.length = s.optics.length := modOptic_length _ _ _

theorem setElem_parts (he : e < s.optics.length) (i : Nat) (x : Elem) :
    (opticOf (setElem s e i x) e).lasers = (opticOf s e).lasers ∧ (opticOf (setElem s e i x) e).handover = (opticOf s e).handover := by
  rw [setElem, opticOf_modOptic_same he]
  exact ⟨rfl, rfl⟩

/-! ### Windows announced -/

/-- From `s` to `t` handovers of an engine have been announced, and nothing else of it changed. -/
structure Announced (e : Nat) (s t : State) : Prop where
  engines : t.optics.length = s.optics.length
  regs : t.regs = s.regs
  ident : t.ident = s.ident
  active : t.active = s.active
  dies : t.dies = s.dies
  lasers : (opticOf t e).lasers = (opticOf s e).lasers
  commit : (opticOf t e).busy = (opticOf s e).busy ∧ (opticOf t e).changed = (opticOf s e).changed
  handover : ∀ c, SMap.find (opticOf t e).handover c = SMap.find (opticOf s e).handover c ∨ SMap.find (opticOf t e).handover c = some .announced

theorem Announced.refl (e : Nat) (s : State) : Announced e s s := ⟨rfl, rfl, rfl, rfl, rfl, rfl, ⟨rfl, rfl⟩, fun _ => .inl rfl⟩
theorem Announced.trans (h : Announced e s t) (k : Announced e t u) : Announced e s u where
  engines := k.engines.trans h.engines
  regs := k.regs.trans h.regs
  ident := k.ident.trans h.ident
  active := k.active.trans h.active
  dies := k.dies.trans h.dies
  lasers := k.lasers.trans h.lasers
  commit := ⟨k.commit.1.trans h.commit.1, k.commit.2.trans h.commit.2⟩
  handover c := by
    rcases k.handover c with hk | hk
    · rw [hk]
      exact h.handover c
    · exact .inr hk

theorem FabricOnly.announced (h : FabricOnly s t) (e : Nat) : Announced e s t := by
  obtain ⟨l, w, o, x, p, n, rfl⟩ := h
  exact ⟨rfl, rfl, rfl, rfl, rfl, rfl, ⟨rfl, rfl⟩, fun _ => .inl rfl⟩

theorem setHandover_announced (s : State) (e c : Nat) : Announced e s (setHandover s e c (some .announced)) := by
  by_cases he : e < s.optics.length
  · have h := opticOf_setHandover he c (some .announced)
    refine ⟨setHandover_length _ _ _ _, rfl, rfl, rfl, rfl, by rw [h], ⟨by rw [h], by rw [h]⟩, fun d => ?_⟩
    rw [h]
    by_cases hd : d = c
    · exact .inr (hd ▸ SMap.find_insert_self _ _ _)
    · exact .inl (SMap.find_insert_ne _ _ hd)
  · have h : opticOf (setHandover s e c (some .announced)) e = opticOf s e := by
      rw [setHandover, opticOf_modOptic, if_neg fun hx => he hx.2]
    exact ⟨setHandover_length _ _ _ _, rfl, rfl, rfl, rfl, by rw [h], ⟨by rw [h], by rw [h]⟩, fun d => .inl (by rw [h])⟩

/-- An announcement goes out over the links, and then the handover is noted. -/
theorem announce_eq (s : State) (e c : Nat) : ∃ s2, FabricOnly s s2 ∧ announce s e c = setHandover s2 e c (some .announced) := by
  refine ⟨_, ?_, rfl⟩
  have h0 : FabricOnly s (takeFree s).2 := ⟨s.fab.links, s.fab.waiting, [], s.counts, s.sampling, s.free + 1, by rw [List.append_nil]; rfl⟩
  refine List.foldlRecOn (motive := fun t : State => FabricOnly s t) _ _ h0 fun t ht p _ => ?_
  split
  · exact ht
  · split
    · exact ht.queueFrom _ _ _ _
    · exact ht

theorem announce_announced (s : State) (e c : Nat) : Announced e s (announce s e c) := by
  obtain ⟨s2, h2, ha⟩ := announce_eq s e c
  rw [ha]
  exact (h2.announced e).trans (setHandover_announced s2 e c)

theorem announceAll_announced (s : State) (e : Nat) : Announced e s (announceAll s e) := by
  refine List.foldlRecOn (motive := fun t : State => Announced e s t) _ _ (Announced.refl e s) fun t ht h _ => ?_
  split
  · exact ht.trans (announce_announced t e h.1)
  · exact ht

/-- With no hub active no window is announced. -/
theorem announceAll_inactive (h : s.active = none) : announceAll s e = s := by
  refine List.foldlRecOn (motive := fun t : State => t = s) _ _ rfl fun t ht k _ => ?_
  rw [ht, if_neg]
  rintro ⟨-, ha, -⟩
  rw [h] at ha
  cases ha

/-- A handover that waits, with a hub active and no commit, is announced. -/
theorem announceAll_locked (he : e < s.optics.length) (ha : s.active.isSome = true) (hb : (opticOf s e).busy = false)
    (hc : SMap.find (opticOf s e).handover c = some .locked) : SMap.find (opticOf (announceAll s e) e).handover c = some .announced := by
  refine foldl_reaches (I := fun t => Announced e s t) (D := fun t => SMap.find (opticOf t e).handover c = some .announced) (a := (c, .locked))
    (fun t k ht => ?_) (fun t k ht hd => ?_) (fun t ht => ?_) (SMap.mem_of_find hc) (Announced.refl e s)
  · split
    · exact ht.trans (announce_announced t e k.1)
    · exact ht
  · split
    · rcases (announce_announced t e k.1).handover c with h | h
      · rw [h, hd]
      · exact h
    · exact hd
  · have hgo : Handover.locked = .locked ∧ t.active.isSome = true ∧ commitTouches (opticOf t e) c = false :=
      ⟨rfl, ht.active.symm ▸ ha, by rw [commitTouches, ht.commit.1, hb, Bool.false_and]⟩
    dsimp only
    rw [if_pos hgo]
    obtain ⟨s2, h2, hs⟩ := announce_eq t e c
    rw [hs, opticOf_setHandover (by rw [(h2.announced e).engines, ht.engines]; exact he)]
    exact SMap.find_insert_self _ _ _

end Sys2Proof.Machine
end

section
/-!
PROOF. O46: elements, lasers and steering (R333 to R339, R348 to R353).
-/
namespace Sys2Proof.Machine
open Sys2Proof

variable {s t u : State} {e n m c i : Nat}

/-! ### Lanes that go on -/

theorem modLane_elems (s : State) (e p c : Nat) (f : Lane → Lane) (k : Nat) : (opticOf (modLane s e p c f) k).elems = (opticOf s k).elems := by
  rw [modLane, setLane, opticOf_modOptic]
  split
  · rename_i h
    rw [h.1]
  · rfl

theorem sendIdent_optics (s : State) (P c : Nat) : (sendIdent s P c).optics = s.optics := by
  unfold sendIdent
  dsimp only
  split
  · exact (LinkWork.sendLink _ _ _).optics
  · rfl

theorem beginTraining_elems (s : State) (e p c k : Nat) : (opticOf (beginTraining s e p c) k).elems = (opticOf s k).elems := by
  unfold beginTraining
  extract_lets s1
  have h1 : (opticOf s1 k).elems = (opticOf s k).elems := modLane_elems s e p c _ k
  rw [opticOf_of_optics (sendIdent_optics _ _ _)]
  exact h1

theorem advanceLanes_elems (s : State) (e k : Nat) : (opticOf (advanceLanes s e) k).elems = (opticOf s k).elems := by
  refine List.foldlRecOn (motive := fun t : State => (opticOf t k).elems = (opticOf s k).elems) _ _ rfl fun t ht l _ => ?_
  refine Eq.trans ?_ ht
  unfold advanceLane
  dsimp only
  split
  · rfl
  · split
    · rfl
    · split
      · split
        · exact beginTraining_elems _ _ _ _ k
        · rfl
      · exact modLane_elems _ _ _ _ _ k

theorem elem_of_elems {o q : Optic} (h : q.elems = o.elems) (i : Nat) : q.elem i = o.elem i := by rw [Optic.elem, h, Optic.elem]

/-! ### A trip -/

theorem tripLaser_work (s : State) (e i : Nat) : LaneWork true s (tripLaser s e i) ∧ ∀ k, (opticOf (tripLaser s e i) k).elems = (opticOf s k).elems := by
  refine ⟨LaneWork.modOptic s e fun o => ?_, fun k => ?_⟩
  · dsimp only
    split
    · exact ⟨rfl, rfl, rfl, fun _ => rfl⟩
    · split
      · exact ⟨rfl, rfl, rfl, fun _ => rfl⟩
      · exact ⟨rfl, rfl, rfl, fun _ => rfl⟩
  · unfold tripLaser
    dsimp only
    rw [opticOf_modOptic]
    split
    · rename_i h
      rw [h.1]
      split
      · rfl
      · split <;> rfl
    · rfl

/-- A tripped element's safe output leaves it tripped. -/
theorem safeOutput_work (s : State) (e i : Nat) : LaneWork true s (safeOutput s e i) ∧
    ∀ k j, ((opticOf s k).elem j).Kept ((opticOf (safeOutput s e i) k).elem j) := by
  unfold safeOutput
  split
  · obtain ⟨h1, h2⟩ := tripLaser_work s e i
    exact ⟨h1, fun k j => .inl (elem_of_elems (h2 k) j)⟩
  · split
    · split
      · exact ⟨(FailWork.endLoop s e _).lane, (FailWork.endLoop s e _).elems⟩
      · exact ⟨.refl s, fun _ _ => .inl rfl⟩
    · exact ⟨.refl s, fun _ _ => .inl rfl⟩

theorem Elem.Kept.tripped {x y : Elem} (h : x.Kept y) (hx : x.st = .tripped) : y = x := by
  rcases h with h | ⟨-, h, -⟩
  · exact h
  · exact absurd hx h

/-- The register that counts an engine's trips is none that work on lanes writes. -/
theorem elemTrips_outside {n : Nat} (hn : n ≤ 8) (he : e < 4) : ¬LaneReg n (⟨.optElemTrips, e, 0, 0⟩ : RegRef).addr := by
  have haddr : (⟨.optElemTrips, e, 0, 0⟩ : RegRef).addr = 0x200000 + e * 0x10000 + 0x408 + 0 := rfl
  rw [haddr]
  rintro ((h | h | ⟨d, hd, r, hr, h⟩) | h | ⟨k, h⟩)
  · rw [show (⟨.redFault, 0, 0, 0⟩ : RegRef).addr = (⟨.redFault, 0, 0, 0⟩ : RegRef).addr + 0 from rfl] at h
    have : (⟨.redFault, 0, 0, 0⟩ : RegRef).addr < 0x200000 := by decide
    omega
  · have : (⟨.fabEvent, 0, 0, 0⟩ : RegRef).addr ≥ 0x300000 := by decide
    omega
  · have hlt : ∀ d < 8, ∀ r ∈ [Reg.dieDlqStat, Reg.dieDlqDiscard, Reg.dieDlqTotal], (⟨r, d, 0, 0⟩ : RegRef).addr < 0x200000 := by decide
    have := hlt d (by omega) r hr
    omega
  · have : (⟨.calEvent, 0, 0, 0⟩ : RegRef).addr < 0x200000 := by decide
    omega
  · have hk : (⟨.optEvent, k, 0, 0⟩ : RegRef).addr = 0x200000 + k * 0x10000 + 0xC + 0 := rfl
    omega

theorem elemTrips_apart (he : e < 4) : (⟨.optElemTrips, e, 0, 0⟩ : RegRef).addr ≠ (⟨.redFault, 0, 0, 0⟩ : RegRef).addr ∧
    (⟨.optElemTrips, e, 0, 0⟩ : RegRef).addr ≠ (⟨.optEvent, e, 0, 0⟩ : RegRef).addr := by
  have h : ∀ e < 4, (⟨.optElemTrips, e, 0, 0⟩ : RegRef).addr ≠ (⟨.redFault, 0, 0, 0⟩ : RegRef).addr ∧
    (⟨.optElemTrips, e, 0, 0⟩ : RegRef).addr ≠ (⟨.optEvent, e, 0, 0⟩ : RegRef).addr := by decide
  exact h e he

/-- Elements that another trips with it park: none of them is that one. -/
theorem partner_other {o : Optic} {l : Nat × Nat} (h : l ∈ if i < 72 then (elemLanes o i).map (fun l : Nat × Nat =>
    (if l.1 % 2 = 0 then l.1 + 1 else l.1 - 1, l.2)) else []) : i ≠ 72 + 9 * l.1 + l.2 := by
  by_cases hi : i < 72
  · omega
  · rw [if_neg hi] at h
    cases h

/-- An element as it trips. -/
def Elem.trip (x : Elem) : Elem := { x with st := .tripped, identOk := false, good := 0, heater := 0 }

/-- The state in which a trip is reported and counted. -/
def tripCounted (s : State) (e i : Nat) : State :=
  satFldAt (optReport (setElem s e i ((opticOf s e).elem i).trip) e C.optElemTrip F.optEventTrip (partDetail e i)) F.optElemTripsCount e 0 0 1

theorem tripCounted_elem (he : e < s.optics.length) (i : Nat) : (opticOf (tripCounted s e i) e).elem i = ((opticOf s e).elem i).trip := by
  have h : (tripCounted s e i).optics = (setElem s e i ((opticOf s e).elem i).trip).optics :=
    (satFldAt_optics _ _ _ _ _ _).trans (optReport_core _ _ _ _ _).optics
  rw [opticOf_of_optics h, elem_setElem_same he]

theorem tripCounted_count (s : State) (he : e < 4) (i : Nat) : fldAt (tripCounted s e i) F.optElemTripsCount e 0 0 =
    satInc F.optElemTripsCount.width (fldAt s F.optElemTripsCount e 0 0) 1 := by
  obtain ⟨h1, h2⟩ := elemTrips_apart he
  have hr : regWord (optReport (setElem s e i ((opticOf s e).elem i).trip) e C.optElemTrip F.optEventTrip (partDetail e i)) ⟨.optElemTrips, e, 0, 0⟩ =
      regWord s ⟨.optElemTrips, e, 0, 0⟩ := regWord_optReport _ _ rfl _ h1 h2
  have hf : fldAt (optReport (setElem s e i ((opticOf s e).elem i).trip) e C.optElemTrip F.optEventTrip (partDetail e i)) F.optElemTripsCount e 0 0 =
      fldAt s F.optElemTripsCount e 0 0 := congrArg (fun w : Word => fieldOf w.toNat F.optElemTripsCount.lsb F.optElemTripsCount.width) hr
  rw [tripCounted, satFldAt, fldAt_setFldAt_same _ (f := F.optElemTripsCount) (by decide), hf]
  exact Nat.mod_eq_of_lt (Nat.lt_of_le_of_lt (Nat.min_le_right _ _) (by decide))

/-- What follows a trip that is counted: the safe output, the parks, the lanes. -/
theorem elementTrip_eq (hi : i < 200) (he : e < s.ident.engines) (hp : s.phase = .running) (ho : elemOpen s e i = false) (noMatch : Bool) :
    ∃ t, exec (.elementTrip e i noMatch) s = .next t ∧ LaneWork true (tripCounted s e i) t ∧
      (((opticOf (tripCounted s e i) e).elem i).st = .tripped → (opticOf t e).elem i = (opticOf (tripCounted s e i) e).elem i) := by
  have hgo : ¬(200 ≤ i ∨ s.ident.engines ≤ e ∨ s.phase ≠ .running ∨ elemOpen s e i = true) := by
    rw [hp, ho]
    simp only [ne_eq, not_true_eq_false, Bool.false_eq_true, or_false]
    omega
  refine ⟨_, congrArg done (if_neg hgo), ?_⟩
  extract_lets o _ s1 s2 s2a s3 own partner s4
  obtain ⟨ha, hka⟩ := safeOutput_work s2 e i
  have h3 : LaneWork true s2a s3 := .ite (.report _ _ _ _ _) (.refl _)
  have ho3 : ∀ k, opticOf s3 k = opticOf s2a k := fun k => opticOf_of_optics (by dsimp only [s3]; split <;> simp) k
  have h4 : LaneWork true s3 s4 ∧ (opticOf s4 e).elem i = (opticOf s3 e).elem i := by
    refine List.foldlRecOn (motive := fun t : State => LaneWork true s3 t ∧ (opticOf t e).elem i = (opticOf s3 e).elem i) partner _ ⟨.refl s3, rfl⟩
      fun t ht l hl => ⟨ht.1.trans (.setElem t e _ _), ?_⟩
    rw [elem_setElem_other (partner_other hl)]
    exact ht.2
  have h5 : FailWork s4 ((own ++ partner).foldl (tripLane e) s4) := FailWork.foldl _ (FailWork.tripLane e) _ s4
  have e2 : s2 = tripCounted s e i := rfl
  rw [← e2]
  refine ⟨(((ha.trans h3).trans h4.1).trans h5.lane), fun htrip => ?_⟩
  have k3 : (opticOf s3 e).elem i = (opticOf s2 e).elem i := by rw [ho3, (hka e i).tripped htrip]
  rw [(h5.elems e i).tripped (by rw [h4.2, k3, htrip]), h4.2, k3]

/-! ### Lasers -/

theorem eolRegs_optics (s : State) : (eolRegs s).optics = s.optics := by
  unfold eolRegs
  extract_lets low s1 m s2 doms s3 warn _ s4
  have h1 : SameCore s s1 := List.foldlRecOn (motive := fun t : State => SameCore s t) _ _ (SameCore.refl s) fun t ht k _ =>
    (ht.setFldAt _ _ _ _ _).setFldAt _ _ _ _ _
  have h2 : SameCore s s2 := ((h1.setFld _ _).setFld _ _).setFld _ _
  have h3 : SameCore s s3 := List.foldlRecOn (motive := fun t : State => SameCore s t) _ _ h2 fun t ht k _ => ht.setFldAt _ _ _ _ _
  have h4 : s4.optics = s.optics := h3.optics
  split
  · exact (((SameCore.refl s4).setEvent _).hubReport _ _).optics.trans h4
  · exact h4

theorem retireLaser_parts (he : e < s.optics.length) (n : Nat) (failed : Bool) :
    (opticOf (retireLaser s e n failed) e).lasers = SMap.setD (opticOf s e).lasers n ⟨.retired, failed, 0, 0⟩ Laser.off ∧
    (opticOf (retireLaser s e n failed) e).handover = (opticOf s e).handover ∧ (retireLaser s e n failed).optics.length = s.optics.length := by
  have h1 : e < (setLaser s e n ⟨.retired, failed, 0, 0⟩).optics.length := by rwa [setLaser_length]
  obtain ⟨a1, a2⟩ := setElem_parts h1 (144 + n) Elem.rest
  obtain ⟨b1, b2⟩ := setElem_parts (s := setElem (setLaser s e n ⟨.retired, failed, 0, 0⟩) e (144 + n) Elem.rest) (by rwa [setElem_length]) (162 + n) Elem.rest
  unfold retireLaser
  extract_lets s1
  have ho : (eolRegs { s1 with pace := { s1.pace with means := SMap.erase s1.pace.means (65536 + 18 * e + n) } }).optics = s1.optics := eolRegs_optics _
  rw [opticOf_of_optics ho, ho, b1, b2, a1, a2, opticOf_setLaser he, setElem_length, setElem_length, setLaser_length]
  exact ⟨rfl, rfl, rfl⟩

theorem useLaser_parts (he : e < s.optics.length) (n : Nat) :
    (opticOf (useLaser s e n) e).lasers = SMap.setD (opticOf s e).lasers n { (opticOf s e).laser n with st := .inUse } Laser.off ∧
    (opticOf (useLaser s e n) e).handover = (opticOf s e).handover ∧ (useLaser s e n).optics.length = s.optics.length := by
  have hw := FailWork.abandonLaser s e n
  unfold useLaser
  extract_lets s1 o _ s2
  have h1 : e < s1.optics.length := hw.lane.engines.symm ▸ he
  have hl := laser_of_lasers (hw.lasers e) n
  obtain ⟨a1, a2⟩ := setElem_parts h1 (144 + n) { o.elem (144 + n) with st := .locked, identOk := true, good := 10 }
  have h2 : e < s2.optics.length := by rwa [setElem_length]
  obtain ⟨b1, b2⟩ := setElem_parts h2 (162 + n) { o.elem (162 + n) with st := .locked, good := 10 }
  rw [opticOf_setLaser (by rwa [setElem_length]), setLaser_length, setElem_length, setElem_length]
  refine ⟨?_, b2.trans (a2.trans (hw.handover e)), hw.lane.engines⟩
  dsimp only
  rw [b1, a1, hw.lasers e]
  exact congrArg (fun x : Laser => SMap.setD (opticOf s e).lasers n { x with st := .inUse } Laser.off) hl

theorem replayChannel_work (s : State) (e c : Nat) : LinkWork s (replayChannel s e c) := by
  unfold replayChannel
  refine LinkWork.foldl _ (fun s p => ?_) _ s
  exact LinkWork.foldl _ (fun s (l : Nat × Link) => (LinkWork.replayAll s l.1).trans (LinkWork.pumpLink _ _)) _ s

theorem steerElem_parts (he : e < s.optics.length) (i : Nat) :
    (opticOf (steerElem s e i) e).lasers = (opticOf s e).lasers ∧ (opticOf (steerElem s e i) e).handover = (opticOf s e).handover ∧
    (steerElem s e i).optics.length = s.optics.length :=
  ⟨(setElem_parts he i _).1, (setElem_parts he i _).2, setElem_length _ _ _ _⟩

theorem warmSpare_parts (he : e < s.optics.length) (n : Nat) :
    (opticOf (warmSpare s e n) e).lasers = SMap.setD (opticOf s e).lasers (mate n) { (opticOf s e).laser (mate n) with st := .warming } Laser.off ∧
    SMap.find (opticOf (warmSpare s e n) e).handover (n / 2) = some .warming := by
  have hw := FailWork.abandonLaser s e (mate n)
  unfold warmSpare
  extract_lets m _ s1
  have h0 : e < (abandonLaser s e m).optics.length := hw.lane.engines.symm ▸ he
  have h1 : e < s1.optics.length := by rwa [setLaser_length]
  obtain ⟨a1, a2, a3⟩ := steerElem_parts h1 (144 + m)
  obtain ⟨b1, b2, b3⟩ := steerElem_parts (s := steerElem s1 e (144 + m)) (by rwa [a3]) (162 + m)
  rw [opticOf_setHandover (by rw [b3, a3]; exact h1)]
  refine ⟨?_, SMap.find_insert_self _ _ _⟩
  dsimp only
  rw [b1, a1, opticOf_setLaser h0, hw.lasers e]

theorem mate_ne (n : Nat) : mate n ≠ n := by
  unfold mate
  split <;> omega

theorem laser_setD (o q : Optic) (n : Nat) (x : Laser) (h : q.lasers = SMap.setD o.lasers n x Laser.off) (m : Nat) :
    q.laser m = if m = n then x else o.laser m := by
  rw [Optic.laser, h, SMap.getD_setD, Optic.laser]

theorem setHandover_lasers (s : State) (e c : Nat) (h : Option Handover) (k : Nat) :
    (opticOf (setHandover s e c h) k).lasers = (opticOf s k).lasers := by
  rw [setHandover, opticOf_modOptic]
  split
  · rename_i hk
    rw [hk.1]
  · rfl

/-- A channel's other laser takes over: in use, its predecessor retired. -/
def takenOver (s : State) (e m old c : Nat) (failed : Bool) : State :=
  retireLaser (replayChannel (setHandover (useLaser s e m) e c none) e c) e old failed

theorem takenOver_parts (he : e < s.optics.length) {m old : Nat} (c : Nat) (hne : old ≠ m) (failed : Bool) :
    ((opticOf (takenOver s e m old c failed) e).laser m).st = .inUse ∧
    (opticOf (takenOver s e m old c failed) e).laser old = ⟨.retired, failed, 0, 0⟩ ∧
    SMap.find (opticOf (takenOver s e m old c failed) e).handover c = none := by
  obtain ⟨u1, -, u3⟩ := useLaser_parts he m
  have h1 : e < (useLaser s e m).optics.length := u3.symm ▸ he
  have hr := opticOf_of_optics (replayChannel_work (setHandover (useLaser s e m) e c none) e c).optics e
  have hlen : e < (replayChannel (setHandover (useLaser s e m) e c none) e c).optics.length := by
    rw [(replayChannel_work _ e c).optics, setHandover_length]
    exact h1
  obtain ⟨r1, r2, -⟩ := retireLaser_parts hlen old failed
  rw [hr, setHandover_lasers] at r1
  have hl := laser_setD _ _ old _ r1
  rw [takenOver, hl, hl, if_pos rfl, if_neg (Ne.symm hne), r2, hr, opticOf_setHandover h1]
  refine ⟨?_, rfl, SMap.find_erase_self _ _⟩
  rw [laser_setD _ _ m _ u1, if_pos rfl]

/-! ### The commands of lasers -/

theorem spareReady_locked {o : Optic} (h : spareReady o n = true) : (o.laser n).st = .lockedDark := by
  rw [spareReady, Bool.and_eq_true, Bool.and_eq_true] at h
  exact beq_iff_eq.1 h.1.1

theorem spareReady_of_inUse {o : Optic} (h : (o.laser n).st = .inUse) : spareReady o n = false := by
  simp [spareReady, h]

/-- Of a channel's two lasers the one that has a property the other has not is found. -/
theorem find_laser {f : Nat → Bool} (hm : m = 2 * c ∨ m = 2 * c + 1) (h1 : f m = true) (h2 : f (mate m) = false) :
    [2 * c, 2 * c + 1].find? f = some m := by
  rcases hm with rfl | rfl
  · rw [List.find?_cons_of_pos h1]
  · have : mate (2 * c + 1) = 2 * c := by
      rw [mate, if_neg (by omega)]
      omega
    rw [this] at h2
    rw [List.find?_cons_of_neg (by simp [h2]), List.find?_cons_of_pos h1]

theorem laserSpareLocked_eq (hm : m = 2 * c ∨ m = 2 * c + 1) (hw : SMap.find (opticOf s e).handover c = some .warming)
    (h1 : ((opticOf s e).laser m).st = .warming) (h2 : ((opticOf s e).laser (mate m)).st ≠ .warming) :
    exec (.laserSpareLocked e c) s =
      .next (announceAll (setHandover (setLaser s e m { (opticOf s e).laser m with st := .lockedDark }) e c (some .locked)) e) := by
  have hf : [2 * c, 2 * c + 1].find? (fun n => ((opticOf s e).laser n).st == .warming) = some m :=
    find_laser hm (beq_iff_eq.2 h1) (beq_eq_false_iff_ne.2 h2)
  refine congrArg done ((if_neg (not_not.2 hw)).trans ?_)
  rw [hf]

theorem handoverWindowOpen_eq (hm : m = 2 * c ∨ m = 2 * c + 1) (ha : SMap.find (opticOf s e).handover c = some .announced)
    (h1 : spareReady (opticOf s e) m = true) (h2 : ((opticOf s e).laser (mate m)).st = .inUse) :
    exec (.handoverWindowOpen e c) s = .next (optReport (takenOver s e m (mate m) c false) e
      C.optLaserHandover F.optEventHandover (partDetail e (mate m))) := by
  have hf : [2 * c, 2 * c + 1].find? (spareReady (opticOf s e)) = some m := find_laser hm h1 (spareReady_of_inUse h2)
  refine congrArg done ((if_neg (not_not.2 ha)).trans ?_)
  rw [hf]
  dsimp only
  rw [if_pos h2, takenOver]

theorem laserHandoverTrigger_eq (hu : ((opticOf s e).laser n).st = .inUse) (hp : s.phase = .running)
    (hn : SMap.find (opticOf s e).handover (n / 2) = none) : exec (.laserHandoverTrigger e n) s = .next (
      if ((opticOf s e).laser (mate n)).st = .retired then report s C.optLaserNoSpare (srcEngine e) 0xFFFF (partDetail e n)
      else if spareReady (opticOf s e) (mate n) then announceAll (setHandover (abandonLaser s e (mate n)) e (n / 2) (some .locked)) e
      else warmSpare s e n) :=
  congrArg done (if_neg (by simp [hu, hp, hn]))

theorem laserFail_eq (hu : ((opticOf s e).laser n).st = .inUse) (hp : s.phase = .running) : exec (.laserFail e n) s = .next (
      if spareReady (opticOf s e) (mate n) then
        takenOver (optReport s e C.optLaserFailed F.optEventLaserFail (partDetail e n)) e (mate n) n (n / 2) true
      else if ((opticOf s e).laser (mate n)).st = .retired ∨ ((opticOf s e).laser (mate n)).st = .warming then
        retireLaser ((List.range 8).foldl (fun s p => partFail s e p (n / 2) 4) (optReport s e C.optLaserFailed F.optEventLaserFail (partDetail e n))) e n true
      else warmSpare (retireLaser ((List.range 8).foldl (fun s p => partFail s e p (n / 2) 4)
        (optReport s e C.optLaserFailed F.optEventLaserFail (partDetail e n))) e n true) e n) :=
  congrArg done (if_neg (by simp [hu, hp]))

/-- The handover of a spare that is locked, and waits for its window. -/
theorem locked_outcome (he : e < s.optics.length) (c : Nat) :
    (opticOf (announceAll (setHandover s e c (some .locked)) e) e).lasers = (opticOf s e).lasers ∧
    (SMap.find (opticOf (announceAll (setHandover s e c (some .locked)) e) e).handover c = some .locked ∨
      SMap.find (opticOf (announceAll (setHandover s e c (some .locked)) e) e).handover c = some .announced) ∧
    (s.active = none → SMap.find (opticOf (announceAll (setHandover s e c (some .locked)) e) e).handover c = some .locked) ∧
    (s.active.isSome = true → (opticOf s e).busy = false →
      SMap.find (opticOf (announceAll (setHandover s e c (some .locked)) e) e).handover c = some .announced) := by
  have hh : SMap.find (opticOf (setHandover s e c (some .locked)) e).handover c = some .locked := by
    rw [opticOf_setHandover he]
    exact SMap.find_insert_self _ _ _
  have hb : (opticOf (setHandover s e c (some .locked)) e).busy = (opticOf s e).busy := by rw [opticOf_setHandover he]
  have hl := setHandover_lasers s e c (some .locked) e
  have hlen : e < (setHandover s e c (some .locked)).optics.length := by rwa [setHandover_length]
  have hact : (setHandover s e c (some .locked)).active = s.active := rfl
  rw [← hl, ← hb, ← hact]
  generalize setHandover s e c (some .locked) = x at hh hlen ⊢
  have ha := announceAll_announced x e
  refine ⟨ha.lasers, ?_, fun hn => by rw [announceAll_inactive hn, hh], fun hx hy => announceAll_locked hlen hx hy hh⟩
  rw [← hh]
  exact ha.handover c

/-! ### Steering -/

theorem commitPairs_outcome (he : e < s.optics.length) (pairs : SMap PairSet) (more : List Nat) :
    (opticOf (commitPairs s e pairs more) e).busy = true ∧ (opticOf (commitPairs s e pairs more) e).pairs = pairs := by
  unfold commitPairs
  extract_lets before after ch s1
  have h1 : (opticOf s1 e).busy = true ∧ (opticOf s1 e).pairs = pairs := by
    dsimp only [s1]
    rw [opticOf_modOptic_same he]
    exact ⟨rfl, rfl⟩
  clear_value s1
  have hw : LaneWork false s1 _ := (LaneWork.forceExpect e ch s1).trans (LaneWork.startLanes _ e before ch)
  exact ⟨(hw.commit e).1.trans h1.1, (hw.pairs rfl e).trans h1.2⟩

theorem commitOptic_outcome (he : e < s.optics.length) (more : List Nat) : (opticOf (commitOptic s e more) e).busy = true ∧
    (lightReady s e = true → (opticOf (commitOptic s e more) e).pairs = stagedPairs s e) ∧
    (lightReady s e = false → (opticOf (commitOptic s e more) e).pairs = (opticOf s e).pairs ∧
      (opticOf (commitOptic s e more) e).waits = some (stagedPairs s e, more)) := by
  unfold commitOptic
  by_cases hl : lightReady s e = false
  · rw [if_pos hl, opticOf_modOptic_same he]
    exact ⟨rfl, fun h => Bool.noConfusion (hl.symm.trans h), fun _ => ⟨rfl, rfl⟩⟩
  · rw [if_neg hl]
    obtain ⟨hb, hp⟩ := commitPairs_outcome he (stagedPairs s e) more
    exact ⟨hb, fun _ => hp, fun h => absurd h hl⟩

end Sys2Proof.Machine
end

section
/-!
PROOF. O46: elements, lasers and steering, settled.
-/
namespace Sys2Proof.Machine
open Sys2Proof

variable {s t u : State} {e n m c i : Nat}

/-! ### The end of a commit -/

theorem steerDone_outcome (he : e < s.optics.length) (hb : (opticOf s e).busy = true) :
    (opticOf (steerDone s e) e).busy = false ∧ (opticOf (steerDone s e) e).changed = [] ∧ fldAt (steerDone s e) F.optEventSteerDone e 0 0 = 1 ∧
    (steerDone s e).dies.length = s.dies.length := by
  unfold steerDone
  extract_lets o s1 s2
  have hw : FailWork s s2 := (FailWork.foldl _ (FailWork.closeLane e) _ s).trans (FailWork.foldl _ FailWork.markAbsent _ s1)
  rw [if_neg (by rw [hb]; decide)]
  have hlen : e < s2.optics.length := hw.lane.engines.symm ▸ he
  have hd := hw.lane.dieCount
  clear_value s2
  have hx : opticOf (setEventAt (modOptic s2 e fun o => { o with busy := false, changed := [] }) F.optEventSteerDone e 0 0) e =
      { opticOf s2 e with busy := false, changed := [] } := (opticOf_of_optics (setEventAt_optics _ _ _ _ _) e).trans (opticOf_modOptic_same hlen _)
  have hf : fldAt (setEventAt (modOptic s2 e fun o => { o with busy := false, changed := [] }) F.optEventSteerDone e 0 0) F.optEventSteerDone e 0 0 = 1 :=
    fldAt_setFldAt_same _ (f := F.optEventSteerDone) (by decide) _ _ _ _
  have hdx : (setEventAt (modOptic s2 e fun o => { o with busy := false, changed := [] }) F.optEventSteerDone e 0 0).dies.length = s.dies.length :=
    (congrArg List.length (setEventAt_dies _ _ _ _ _)).trans hd
  generalize setEventAt (modOptic s2 e fun o => { o with busy := false, changed := [] }) F.optEventSteerDone e 0 0 = x at hx hf hdx ⊢
  have ha := announceAll_announced x e
  refine ⟨by rw [ha.commit.1, hx], by rw [ha.commit.2, hx], ?_, by rw [ha.dies, hdx]⟩
  exact (congrArg (fun w : Word => fieldOf w.toNat F.optEventSteerDone.lsb F.optEventSteerDone.width)
      (regWord_of_regs ha.regs ha.ident ⟨.optEvent, e, 0, 0⟩)).trans hf

/-- The event register of an engine is none that a re-cable's step writes. -/
theorem optEvent_outside (hn : n ≤ 8) (he : e < 4) : ¬StepReg n (⟨.optEvent, e, 0, 0⟩ : RegRef).addr ∧
    (⟨.optEvent, e, 0, 0⟩ : RegRef).addr ≠ (⟨.fabRbCtl, 0, 0, 0⟩ : RegRef).addr := by
  have haddr : (⟨.optEvent, e, 0, 0⟩ : RegRef).addr = 0x200000 + e * 0x10000 + 0xC + 0 := rfl
  have hconst : (∀ a, BundleReg a → a < 0x200000) ∧ (⟨.redFault, 0, 0, 0⟩ : RegRef).addr < 0x200000 ∧ 0x300000 ≤ (⟨.fabEvent, 0, 0, 0⟩ : RegRef).addr ∧
      0x300000 ≤ (⟨.fabRbCtl, 0, 0, 0⟩ : RegRef).addr := by
    refine ⟨?_, by decide, by decide, by decide⟩
    rintro a (rfl | rfl | rfl) <;> decide
  obtain ⟨h1, h2, h3, h4⟩ := hconst
  rw [haddr]
  refine ⟨?_, by omega⟩
  rintro (h | (h | h | ⟨d, hd, r, hr, h⟩) | ⟨d, hd, j, hj, r, hr, h⟩)
  · have := h1 _ h
    omega
  · omega
  · omega
  · have hlt : ∀ d < 8, ∀ r ∈ [Reg.dieDlqStat, Reg.dieDlqDiscard, Reg.dieDlqTotal], (⟨r, d, 0, 0⟩ : RegRef).addr < 0x200000 := by decide
    have := hlt d (by omega) r hr
    omega
  · have hlt : ∀ d < 8, ∀ j < 2, ∀ r ∈ stackRegs, (⟨r, d, j, 0⟩ : RegRef).addr < 0x200000 := by decide
    have := hlt d (by omega) j hj r hr
    omega

/-! ### A ring or locker checked -/

theorem identityCheck_eq (hi : i < 144) (hl : ((opticOf s e).elem i).st = .locked) (ho : elemOpen s e i = false) (hp : s.phase = .running)
    (he : e < s.ident.engines) (levels : List (Nat × Int)) (ref : Int) (within : Bool) :
    exec (.identityCheck e i levels ref within) s = .next (
      if pilotOk ((opticOf s e).dropped (i % 72 / 9) (i % 72 % 9)) (i % 72 % 9) levels ref then
        advanceLanes (setElem s e i { (opticOf s e).elem i with identOk := true, pilot := strongest levels }) e
      else (elemLanes (opticOf s e) i).foldl (recoverLane e) (optReport (setElem s e i { (opticOf s e).elem i with
        identOk := false, pilot := strongest levels, st := .steering, good := 0, heater := 0 }) e C.optWrongLambda F.optEventWrongLambda (partDetail e i))) := by
  have hgo : ¬(s.phase ≠ .running ∨ hasIdentity i = false ∨ ((opticOf s e).elem i).st ≠ .locked ∨ s.ident.engines ≤ e ∨ elemOpen s e i = true) := by
    simp [hp, hl, ho, hasIdentity]
    omega
  refine congrArg done ((if_neg hgo).trans ?_)
  simp only [if_pos hi]

theorem sampleElem_taken (hst : ((opticOf s e).elem i).st = .steering ∨ ((opticOf s e).elem i).st = .locked)
    (ho : elemOpen s e i = false) (err heat : Nat) (within : Bool) :
    sampleElem e s (i, err, heat, within) = setElem s e i { (opticOf s e).elem i with
      error := err % 4096, heater := heat, good := if within then min 10 (((opticOf s e).elem i).good + 1) else 0
      st := if 10 ≤ (if within then min 10 (((opticOf s e).elem i).good + 1) else 0) then .locked else .steering } := by
  refine if_neg ?_
  rw [ho]
  rcases hst with h | h <;> simp [h]

end Sys2Proof.Machine

namespace Sys2Proof.Proofs
open Sys2Proof Sys2Proof.Machine

/-- Settles O46: each command's part of the engine by the law that writes it; what follows on the lanes leaves lasers and handovers, and an element
but as it steers afresh (`FailWork`), windows announced leave all but handovers (`Announced`). -/
theorem elementsLasersAndSteering : Obligations.ElementsLasersAndSteering := by
  unfold Obligations.ElementsLasersAndSteering
  intro s e he he4 hen hp
  extract_lets after o
  refine ⟨fun i err heat within _ hst ho => ?_, fun i noMatch hi ho hd => ?_, fun i levels ref within hi hl ho => ?_, fun n _ hu hn => ?_,
    fun c m _ hm hw h1 h2 => ?_, fun c m _ hm ha h1 h2 => ?_, fun n _ hu => ?_, fun org v hs => ?_, fun hb => ?_, fun hb hr => ?_⟩
  · refine ⟨_, congrArg done (if_neg (not_not.2 hp)), ?_⟩
    have hs := sampleElem_taken hst ho err heat within
    dsimp only
    rw [List.foldl_cons, List.foldl_nil, hs, elem_of_elems (advanceLanes_elems _ e e) i, opticOf_modOptic_same (by rwa [setElem_length])]
    exact elem_setElem_same he i _
  · obtain ⟨t, ht, hw, hk⟩ := elementTrip_eq hi hen hp ho noMatch
    have h0 := tripCounted_elem he i
    have hdc : (tripCounted s e i).dies.length = s.dies.length :=
      congrArg List.length ((satFldAt_dies _ _ _ _ _ _).trans (optReport_core _ _ _ _ _).dies)
    refine ⟨t, ht, ?_⟩
    dsimp only
    rw [hk (by rw [h0, Elem.trip]), h0]
    refine ⟨rfl, rfl, ?_⟩
    rw [← tripCounted_count s he4 i]
    exact congrArg (fun w : Word => fieldOf w.toNat F.optElemTripsCount.lsb F.optElemTripsCount.width)
      (hw.regs ⟨.optElemTrips, e, 0, 0⟩ (elemTrips_outside (hdc.symm ▸ hd) he4))
  · refine ⟨_, identityCheck_eq hi hl ho hp hen levels ref within, ?_⟩
    dsimp only
    by_cases hk : pilotOk (o.dropped (i % 72 / 9) (i % 72 % 9)) (i % 72 % 9) levels ref = true
    · rw [if_pos hk, elem_of_elems (advanceLanes_elems _ e e) i, elem_setElem_same he]
      rw [hk]
      exact ⟨rfl, rfl, hl⟩
    · rw [if_neg hk]
      have hf := FailWork.foldl _ (FailWork.recoverLane e) (elemLanes (opticOf s e) i) (optReport (setElem s e i { (opticOf s e).elem i with
        identOk := false, pilot := strongest levels, st := .steering, good := 0, heater := 0 }) e C.optWrongLambda F.optEventWrongLambda (partDetail e i))
      have hx := hf.elems e i
      rw [opticOf_of_optics (optReport_core _ _ _ _ _).optics, elem_setElem_same he] at hx
      rcases hx with hx | ⟨-, -, h, hx⟩ <;> rw [hx, Bool.eq_false_iff.2 hk] <;> exact ⟨rfl, rfl, rfl⟩
  · have heq := laserHandoverTrigger_eq hu hp hn
    refine ⟨fun hr hnr => ⟨_, heq, ?_⟩, fun hsr => ⟨_, heq, ?_⟩, fun hret => ⟨_, heq, ?_⟩⟩
    · rw [if_neg hr, if_neg (by rw [hnr]; decide)]
      obtain ⟨hl, hh⟩ := warmSpare_parts he n
      rw [laser_setD _ _ _ _ hl, laser_setD _ _ _ _ hl, if_pos rfl, if_neg (mate_ne n).symm]
      exact ⟨rfl, rfl, hh⟩
    · rw [if_neg (by rw [spareReady_locked hsr]; decide), if_pos hsr]
      have hw := FailWork.abandonLaser s e (mate n)
      obtain ⟨hl, hh, -, -⟩ := locked_outcome (hw.lane.engines.symm ▸ he) (n / 2)
      exact ⟨hl.trans (hw.lasers e), hh⟩
    · rw [if_pos hret]
      exact opticOf_of_optics (report_optics _ _ _ _ _) e
  · refine ⟨_, laserSpareLocked_eq hm hw h1 h2, ?_⟩
    obtain ⟨hl, -, hn, ha⟩ := locked_outcome (s := setLaser s e m { (opticOf s e).laser m with st := .lockedDark }) (by rwa [setLaser_length]) c
    refine ⟨by rw [laser_of_lasers hl, laser_setLaser he, if_pos rfl], hn, fun hact hb => ha hact ?_⟩
    rw [opticOf_setLaser he]
    exact hb
  · refine ⟨_, handoverWindowOpen_eq hm ha h1 h2, ?_⟩
    obtain ⟨p1, p2, p3⟩ := takenOver_parts he c (mate_ne m) false
    rw [opticOf_of_optics (optReport_core _ _ _ _ _).optics, p2]
    exact ⟨p1, rfl, rfl, p3⟩
  · have heq := laserFail_eq hu hp
    have hro := opticOf_of_optics (optReport_core s e C.optLaserFailed F.optEventLaserFail (partDetail e n)).optics e
    have hlen : e < (optReport s e C.optLaserFailed F.optEventLaserFail (partDetail e n)).optics.length := by rwa [(optReport_core _ _ _ _ _).optics]
    refine ⟨fun hsr => ⟨_, heq, ?_⟩, fun hnr hr hw => ⟨_, heq, ?_⟩⟩
    · rw [if_pos hsr]
      obtain ⟨p1, p2, p3⟩ := takenOver_parts hlen (m := mate n) (old := n) (n / 2) (mate_ne n).symm true
      rw [p2]
      exact ⟨rfl, rfl, p1, p3⟩
    · rw [if_neg (by rw [hnr]; decide), if_neg (not_or.2 ⟨hr, hw⟩)]
      dsimp only
      have hf := FailWork.foldl _ (fun s p => FailWork.partFail s e p (n / 2) 4) (List.range 8)
        (optReport s e C.optLaserFailed F.optEventLaserFail (partDetail e n))
      obtain ⟨r1, -, r3⟩ := retireLaser_parts (hf.lane.engines.symm ▸ hlen) n true
      obtain ⟨w1, -⟩ := warmSpare_parts (r3.symm ▸ (hf.lane.engines.symm ▸ hlen)) n
      rw [laser_setD _ _ _ _ w1, laser_setD _ _ _ _ w1, if_pos rfl, if_neg (mate_ne n).symm, laser_setD _ _ _ _ r1, if_pos rfl]
      exact ⟨rfl, rfl, rfl⟩
  · have row {u : State} {st : Nat} (h : optSteerWrite e s v = (u, st)) : RegAnswered (.optSteerGo org e v) s org st 0 u :=
      regAnswered_of_write (f := fun s => optSteerWrite e s v) hs rfl h
    have h0 : ¬s.ident.engines ≤ e := by omega
    have hb' (h : o.busy = false) : ¬(opticOf s e).busy = true := by rw [show (opticOf s e).busy = false from h]; decide
    refine ⟨fun hz => row ((if_neg h0).trans (if_pos hz)), fun hz hb => row ((if_neg h0).trans ((if_neg hz).trans (if_pos hb))),
      fun hz hb hk => row ((if_neg h0).trans ((if_neg hz).trans ((if_neg (hb' hb)).trans (if_pos hk)))), fun hz hb hk =>
      ⟨_, row ((if_neg h0).trans ((if_neg hz).trans ((if_neg (hb' hb)).trans (if_neg (by rw [hk]; decide))))), commitOptic_outcome he []⟩⟩
  · obtain ⟨h1, h2, h3, h4⟩ := steerDone_outcome he hb
    have hr := recableStep_recabled (steerDone s e)
    refine ⟨_, rfl, ?_⟩
    rw [opticOf_of_optics hr.optics]
    refine ⟨h1, h2, fun hd => ?_⟩
    obtain ⟨k1, k2⟩ := optEvent_outside (n := (steerDone s e).dies.length) (by omega) he4
    rw [← h3]
    exact congrArg (fun w : Word => fieldOf w.toNat F.optEventSteerDone.lsb F.optEventSteerDone.width) (hr.regs ⟨.optEvent, e, 0, 0⟩ k1 k2)
  · have hst : steerDone s e = s := if_pos hb
    exact congrArg done ((congrArg recableStep hst).trans (recableStep_idle (by rw [hr]; decide)))

end Sys2Proof.Proofs
end

section
/-!
SUPPORT. What sending leaves of every link: all but its queues, its credits, what counts its flits and, while it is UP, its replay buffer
(R361 to R366).
-/
namespace Sys2Proof.Machine
open Sys2Proof

variable {s t u : State}

/-- A link without what sending changes. -/
def Link.still (l : Link) : Link :=
  { l with txq := [], txNext := 0, freed := [], replay := if l.st = .up then [] else l.replay, credits := [], round := 0, sent := 0, creditWait := [] }

/-- From `s` to `t` links have changed at most by sending. -/
def LinksStill (s t : State) : Prop := ∀ k, (linkOf t k).map Link.still = (linkOf s k).map Link.still

theorem linkOf_modLink (s : State) (key : Nat) (f : Link → Link) (k : Nat) :
    linkOf (modLink s key f) k = if k = key then (linkOf s k).map f else linkOf s k := by
  unfold modLink
  split
  · rename_i l hl
    rw [linkOf]
    dsimp only
    by_cases hk : k = key
    · rw [if_pos hk, hk, SMap.find_insert_self, hl, Option.map_some]
    · rw [if_neg hk, SMap.find_insert_ne _ _ hk, linkOf]
  · rename_i hl
    split
    · rename_i hk
      rw [hk, hl, Option.map_none]
    · rfl

theorem linkOf_modLink_same {key : Nat} {l : Link} (h : linkOf s key = some l) (f : Link → Link) : linkOf (modLink s key f) key = some (f l) := by
  rw [linkOf_modLink, if_pos rfl, h, Option.map_some]

theorem linkOf_of_links (h : t.fab.links = s.fab.links) (k : Nat) : linkOf t k = linkOf s k := by rw [linkOf, h, linkOf]

namespace LinksStill

theorem refl (s : State) : LinksStill s s := fun _ => rfl
theorem trans (h : LinksStill s t) (k : LinksStill t u) : LinksStill s u := fun n => (k n).trans (h n)

theorem of_links (h : t.fab.links = s.fab.links) : LinksStill s t := fun k => by rw [linkOf_of_links h]

theorem foldl {α : Type} (f : State → α → State) (hf : ∀ s a, LinksStill s (f s a)) (l : List α) (s : State) : LinksStill s (l.foldl f s) :=
  List.foldlRecOn _ _ (refl s) fun _ h a _ => h.trans (hf _ a)

theorem modLink (s : State) (key : Nat) {f : Link → Link} (hf : ∀ l, (f l).still = l.still) : LinksStill s (modLink s key f) := by
  intro k
  rw [linkOf_modLink]
  split
  · rw [Option.map_map]
    exact congrArg (fun g => (linkOf s k).map g) (funext hf)
  · rfl

theorem modLinkAt {key : Nat} {l : Link} (hl : linkOf s key = some l) {f : Link → Link} (hf : (f l).still = l.still) : LinksStill s (Machine.modLink s key f) := by
  intro k
  rw [linkOf_modLink]
  split
  · rename_i hk
    rw [hk, hl, Option.map_some, Option.map_some, Option.map_some, hf]
  · rfl

theorem bumpEv (s : State) (ev : Nat) (c : EvCtx) (n : Nat) : LinksStill s (bumpEv s ev c n) := of_links (congrArg Fabric.links (bumpEv_fab s ev c n))

theorem emitFlit (s : State) (key : Nat) (f : Flit) : LinksStill s (emitFlit s key f) := by
  unfold Machine.emitFlit
  split
  · exact refl s
  · refine LinksStill.trans ?_ (of_links rfl)
    exact modLink s key fun _ => rfl

theorem sendOne {key : Nat} {l : Link} (hl : linkOf s key = some l) (hup : l.st = .up) (vc : Nat) : LinksStill s (sendOne s key l vc) := by
  unfold Machine.sendOne
  split
  · exact refl s
  · dsimp only
    refine LinksStill.trans ?_ (emitFlit _ _ _)
    refine modLinkAt hl ?_
    simp only [Link.still, if_pos hup]

theorem pump (n : Nat) (s : State) (key : Nat) : LinksStill s (pump n s key) := by
  induction n generalizing s with
  | zero => exact refl s
  | succ n ih =>
    rw [Machine.pump]
    split
    · exact refl s
    · split
      · exact refl s
      · rename_i hl hrun
        split
        · exact refl s
        · exact (sendOne hl (Classical.byContradiction fun h => hrun (.inl h)) _).trans (ih _)

theorem creditWaitOne (key : Nat) (s : State) (vc : Nat) : LinksStill s (creditWaitOne key s vc) := by
  unfold Machine.creditWaitOne
  split
  · exact refl s
  · dsimp only
    split
    · exact modLink s key fun _ => rfl
    · refine LinksStill.trans ?_ (bumpEv _ _ _ _)
      exact modLink s key fun _ => rfl
    · exact refl s

theorem pumpLink (s : State) (key : Nat) : LinksStill s (pumpLink s key) := by
  unfold Machine.pumpLink
  split
  · exact (pump _ s key).trans (foldl _ (creditWaitOne key) _ _)
  · exact refl s

theorem queueFrom (via : Option Nat) (s : State) (key vc : Nat) (fs : List Flit) : LinksStill s (queueFrom via s key vc fs) := by
  refine LinksStill.trans ?_ (pumpLink _ key)
  exact modLink s key fun _ => rfl

theorem queueFlits (s : State) (key vc : Nat) (fs : List Flit) : LinksStill s (queueFlits s key vc fs) := queueFrom none s key vc fs
theorem sendLink (s : State) (key : Nat) (m : LinkMsg) : LinksStill s (sendLink s key m) := queueFlits s key 2 _

theorem sendVia (via : Option Nat) (s : State) (dest vc : Nat) (b : FlitBody) : LinksStill s (sendVia via s dest vc b) := by
  unfold Machine.sendVia
  split
  · exact refl s
  · split
    · exact of_links rfl
    · split
      · exact queueFrom _ _ _ _ _
      · exact of_links rfl

theorem flushWaiting (s : State) : LinksStill s (flushWaiting s) := by
  unfold Machine.flushWaiting
  exact LinksStill.trans (t := { s with fab := { s.fab with waiting := [] } }) (of_links rfl) (foldl _ (fun s (m : WaitingMsg) => sendVia _ s _ _ _) _ _)

theorem resendFlit (key : Nat) (s : State) (f : Flit) : LinksStill s (resendFlit key s f) := by
  unfold Machine.resendFlit
  split
  · exact refl s
  · refine LinksStill.trans ?_ (emitFlit _ _ _)
    exact modLink s key fun _ => rfl

theorem resendFrom (s : State) (key seq : Nat) : LinksStill s (resendFrom s key seq) := by
  unfold Machine.resendFrom
  split
  · exact refl s
  · exact (foldl _ (resendFlit key) _ s).trans (bumpEv _ _ _ _)

theorem replayAll (s : State) (key : Nat) : LinksStill s (replayAll s key) := by
  unfold Machine.replayAll
  split
  · exact resendFrom s key _
  · exact refl s

/-- What a link keeps as others and it send. -/
theorem get (h : LinksStill s t) {k : Nat} {l : Link} (hl : linkOf s k = some l) : ∃ m, linkOf t k = some m ∧ m.still = l.still := by
  have hk := h k
  rw [hl, Option.map_some, Option.map_eq_some_iff] at hk
  exact hk

/-- A link that is there after sending was there before. -/
theorem back (h : LinksStill s t) {k : Nat} {m : Link} (hm : linkOf t k = some m) : ∃ l, linkOf s k = some l ∧ m.still = l.still := by
  have hk := h k
  rw [hm, Option.map_some, eq_comm, Option.map_eq_some_iff] at hk
  obtain ⟨l, hl, he⟩ := hk
  exact ⟨l, hl, he.symm⟩

end LinksStill

end Sys2Proof.Machine
end

section
/-!
PROOF. O48: route books, re-cabling, the postcode and expectations (R369, R374 to R380, R391, R392).
-/
namespace Sys2Proof.Machine
open Sys2Proof

variable {s t u : State} {o : Origin} {v : Word}

/-! ### Fields -/

/-- A field that takes every value of its width is stored as written. -/
theorem fldAt_stored_full {f : Fld} {d i j : Nat} (hl : f.reg.fields.Pairwise Fld.Apart) (hf : f ∈ f.reg.fields) (hw : f.lsb + f.width ≤ 32)
    (ha : f.acc = .rw ∨ f.acc = .rwl) (h1 : f ≠ F.paceVlimVmax) (h2 : f ≠ F.paceFixedFixedMv) (hlo : f.lo = 0) (hhi : f.hi = 2 ^ f.width - 1) :
    fldAt (stored s ⟨f.reg, d, i, j⟩ v) f d i j = wfld v f := by
  obtain ⟨w, -, he⟩ := fldAt_stored (s := s) (v := v) (d := d) (i := i) (j := j) hl hf hw
  have hlt : wfld v f < 2 ^ f.width := fieldOf_lt _ _ _
  have hc : clampNat f.lo f.hi (wfld v f) = wfld v f := by
    rw [clampNat, hlo, hhi, if_neg (by omega), if_neg (by omega)]
  rw [he, fieldOf_store_rw ha h1 h2, hc, Nat.mod_eq_of_lt hlt]

theorem fldAt_of_word {f : Fld} {d i j : Nat} (h : regWord t ⟨f.reg, d, i, j⟩ = regWord s ⟨f.reg, d, i, j⟩) : fldAt t f d i j = fldAt s f d i j :=
  congrArg (fun w : Word => fieldOf w.toNat f.lsb f.width) h

theorem flushWaiting_regs (s : State) (r : RegRef) : regWord (flushWaiting s) r = regWord s r := by
  have h : FabricOnly s (flushWaiting s) := by
    refine List.foldlRecOn (motive := fun t : State => FabricOnly s t) _ _ ((FabricOnly.refl s).waiting []) fun t ht m _ => ?_
    exact ht.sendVia _ _ _ _
  exact regWord_of_regs h.regs h.ident r

theorem sendLink_regs (s : State) (key : Nat) (m : LinkMsg) (r : RegRef) : regWord (sendLink s key m) r = regWord s r := by
  have h : FabricOnly s (sendLink s key m) := (FabricOnly.refl s).queueFrom none key 2 _
  exact regWord_of_regs h.regs h.ident r

theorem modLink_regs (s : State) (key : Nat) (f : Link → Link) (r : RegRef) : regWord (modLink s key f) r = regWord s r := by
  have h : FabricOnly s (modLink s key f) := (FabricOnly.refl s).modLink key f
  exact regWord_of_regs h.regs h.ident r

/-! ### Books -/

theorem flushWaiting_active (s : State) : (flushWaiting s).fab.active = s.fab.active :=
  (congrArg (fun x : State => x.fab.active) (LinkWork.flushWaiting s).beside :)

theorem flushWaiting_shadow (s : State) : (flushWaiting s).fab.shadow = s.fab.shadow :=
  (congrArg (fun x : State => x.fab.shadow) (LinkWork.flushWaiting s).beside :)

theorem flushWaiting_fld (s : State) (f : Fld) : fld (flushWaiting s) f = fld s f := fldAt_of_word (flushWaiting_regs _ _)

theorem recableDone_gen (s : State) : fld (setEvent s F.fabEventRecableDone) F.fabRbCtlGen = fld s F.fabRbCtlGen :=
  fldAt_setFldAt_other s (f := F.fabEventRecableDone) (g := F.fabRbCtlGen) (by decide) _

theorem recableDone_set (s : State) : fld (setEvent s F.fabEventRecableDone) F.fabEventRecableDone = 1 :=
  fldAt_setFldAt_same s (f := F.fabEventRecableDone) (by decide) _ _ _ _

/-- The generation counted on. -/
def nextGen (s : State) : State := keptChanged (bumpFldAt s F.fabRbCtlGen 0 0 0 1)

theorem keptChanged_fab (s : State) : (keptChanged s).fab = s.fab := rfl

theorem nextGen_fab (s : State) : (nextGen s).fab = s.fab := (keptChanged_fab _).trans <| bumpFldAt_fab s F.fabRbCtlGen 0 0 0 1

theorem nextGen_gen (s : State) : fld (nextGen s) F.fabRbCtlGen = (fld s F.fabRbCtlGen + 1) % 2 ^ 16 :=
  (fld_keptChanged _ _).trans <| fldAt_bumpFldAt s (f := F.fabRbCtlGen) (by decide) 0 0 0 1

/-- A generation counted on and told. -/
theorem genTold_outcome (s : State) :
    (flushWaiting (setEvent (nextGen s) F.fabEventRecableDone)).fab.active = s.fab.active ∧
    (flushWaiting (setEvent (nextGen s) F.fabEventRecableDone)).fab.shadow = s.fab.shadow ∧
    fld (flushWaiting (setEvent (nextGen s) F.fabEventRecableDone)) F.fabRbCtlGen = (fld s F.fabRbCtlGen + 1) % 2 ^ 16 ∧
    fld (flushWaiting (setEvent (nextGen s) F.fabEventRecableDone)) F.fabEventRecableDone = 1 ∧
    (flushWaiting (setEvent (nextGen s) F.fabEventRecableDone)).sec.retPending = true := by
  refine ⟨?_, ?_, ?_, ?_, ?_⟩
  · rw [flushWaiting_active, setEvent_fab, nextGen_fab]
  · rw [flushWaiting_shadow, setEvent_fab, nextGen_fab]
  · rw [flushWaiting_fld, recableDone_gen, nextGen_gen]
  · rw [flushWaiting_fld, recableDone_set]
  · rw [(LinkWork.flushWaiting _).sec, setEvent_sec]
    rfl

/-- The books after a swap, and the registers that tell of it. -/
theorem swapped_outcome (s : State) :
    (flushWaiting (setEvent (swapBooks s) F.fabEventRecableDone)).fab.active = s.fab.shadow ∧
    (flushWaiting (setEvent (swapBooks s) F.fabEventRecableDone)).fab.shadow = s.fab.shadow ∧
    fld (flushWaiting (setEvent (swapBooks s) F.fabEventRecableDone)) F.fabRbCtlGen = (fld s F.fabRbCtlGen + 1) % 2 ^ 16 ∧
    fld (flushWaiting (setEvent (swapBooks s) F.fabEventRecableDone)) F.fabEventRecableDone = 1 ∧
    (flushWaiting (setEvent (swapBooks s) F.fabEventRecableDone)).sec.retPending = true :=
  genTold_outcome { s with fab := { s.fab with active := s.fab.shadow } }

theorem fabRbCtlWrite_busy (hs : wfld v F.fabRbCtlSwap = 1) (hr : s.fab.recable ≠ .idle) : fabRbCtlWrite s v = (s, C.fabRecableBusy) := by
  have h : fabSwap s = (s, C.fabRecableBusy) := if_pos hr
  unfold fabRbCtlWrite
  dsimp only
  rw [if_pos hs, h]
  exact if_neg fun hx => absurd hx.1 (show C.fabRecableBusy ≠ C.ok by decide)

theorem fabRbCtlWrite_bad (hs : wfld v F.fabRbCtlSwap = 1) (hr : s.fab.recable = .idle) {i : Nat} (hb : badEntry s = some i) :
    fabRbCtlWrite s v = (setFld s F.fabRbErrIndex i, C.fabRbInvalid) := by
  have h : fabSwap s = (setFld s F.fabRbErrIndex i, C.fabRbInvalid) := by
    rw [fabSwap, if_neg (not_not.2 hr), hb]
  unfold fabRbCtlWrite
  dsimp only
  rw [if_pos hs, h]
  exact if_neg fun hx => absurd hx.1 (show C.fabRbInvalid ≠ C.ok by decide)

theorem fabRbCtlWrite_swap (hs : wfld v F.fabRbCtlSwap = 1) (hr : s.fab.recable = .idle) (hb : badEntry s = none) :
    fabRbCtlWrite s v = (if wfld v F.fabRbCtlCopy = 1 then fabCopy (flushWaiting (setEvent (swapBooks s) F.fabEventRecableDone))
      else flushWaiting (setEvent (swapBooks s) F.fabEventRecableDone), C.ok) := by
  have h : fabSwap s = (flushWaiting (setEvent (swapBooks s) F.fabEventRecableDone), C.ok) := by
    rw [fabSwap, if_neg (not_not.2 hr), hb]
  unfold fabRbCtlWrite
  dsimp only
  rw [if_pos hs, h]
  by_cases hc : wfld v F.fabRbCtlCopy = 1
  · rw [if_pos ⟨rfl, hc⟩, if_pos hc]
  · rw [if_neg fun hx => hc hx.2, if_neg hc]

theorem fabRbCtlWrite_noSwap (hs : wfld v F.fabRbCtlSwap = 0) :
    fabRbCtlWrite s v = (if wfld v F.fabRbCtlCopy = 1 then fabCopy s else s, C.ok) := by
  unfold fabRbCtlWrite
  dsimp only
  rw [if_neg (show ¬wfld v F.fabRbCtlSwap = 1 by rw [hs]; decide)]
  by_cases hc : wfld v F.fabRbCtlCopy = 1
  · rw [if_pos ⟨rfl, hc⟩, if_pos hc]
  · rw [if_neg fun hx => hc hx.2, if_neg hc]

theorem rbNext_index (s : State) : fld (rbNext s) F.fabRbAddrIndex = (fld s F.fabRbAddrIndex + 1) % 2 ^ 18 :=
  fld_setFld_same s (f := F.fabRbAddrIndex) (by decide) _

/-! ### A re-cable -/

/-- The state with PAUSE written. -/
def recablePaused (s : State) (v : Word) : State := setFld s F.fabRecablePause (wfld v F.fabRecablePause)

theorem paused_regs (s : State) (v : Word) {r : RegRef} (h : r.addr ≠ (⟨.fabRecable, 0, 0, 0⟩ : RegRef).addr) :
    regWord (recablePaused s v) r = regWord s r := regWord_setRegWord_other s h _

theorem paused_fab (s : State) (v : Word) : (recablePaused s v).fab = s.fab := setFld_fab _ _ _
theorem paused_ident (s : State) (v : Word) : (recablePaused s v).ident = s.ident := setFld_ident _ _ _

theorem paused_postcodeValid (s : State) (v : Word) : postcodeValid (recablePaused s v) = postcodeValid s :=
  congrArg (· == 1) (fldAt_of_word (f := F.fabPostcodeValid) (paused_regs s v (by decide)))

theorem paused_badEntry (s : State) (v : Word) : badEntry (recablePaused s v) = badEntry s := by
  have ht : twoNet (recablePaused s v) = twoNet s := congrArg (· == 1) (fldAt_of_word (f := F.fabCtlTwoNet) (paused_regs s v (by decide)))
  simp only [badEntry, optionOk, paused_fab, paused_ident, ht]

theorem paused_stagedOk (s : State) (v : Word) {e : Nat} (he : e < 4) : stagedOk (recablePaused s v) e = stagedOk s e := by
  have hp (k : Nat) (hk : k < 4) : stagedPair (recablePaused s v) e k = stagedPair s e k := by
    have ha : (⟨.optPath, e, k, 0⟩ : RegRef).addr ≠ (⟨.fabRecable, 0, 0, 0⟩ : RegRef).addr := by
      have h : ∀ e < 4, ∀ k < 4, (⟨.optPath, e, k, 0⟩ : RegRef).addr ≠ (⟨.fabRecable, 0, 0, 0⟩ : RegRef).addr := by decide
      exact h e he k hk
    have hw := paused_regs s v ha
    rw [stagedPair, fldAt_of_word (f := F.optPathThrough) hw, fldAt_of_word (f := F.optPathLitA) hw, fldAt_of_word (f := F.optPathLitB) hw,
      fldAt_of_word (f := F.optPathLoop) hw, stagedPair]
  have hall (k : Nat) (hk : k ∈ List.range 4) : pairOk (recablePaused s v) e k (stagedPair (recablePaused s v) e k) = pairOk s e k (stagedPair s e k) := by
    rw [hp k (List.mem_range.1 hk), pairOk, paused_ident, pairOk]
  rw [stagedOk, stagedOk, Bool.eq_iff_iff, List.all_eq_true, List.all_eq_true]
  exact forall₂_congr fun k hk => by rw [hall k hk]

/-- Whether the settings staged may stand on every engine. -/
theorem staged_iff (s : State) (v : Word) : (engineList (recablePaused s v)).any (fun e => !stagedOk (recablePaused s v) e) = false ↔
    ∀ e, e < s.ident.engines → stagedOk s e = true := by
  rw [engineList, paused_ident, List.any_eq_false]
  refine forall_congr' fun e => ?_
  rw [List.mem_range]
  refine imp_congr_right fun he => ?_
  rw [paused_stagedOk s v (lt_of_lt_of_le he (engines_le _))]
  cases stagedOk s e <;> simp

/-- The links that a re-cable changes are marked, and told. -/
def quiesceLinks (s : State) : State :=
  (linksDiffer s).foldl (fun s k => modLink (sendLink s k .quiesce) k (fun l => { l with changing := true })) s

theorem quiesceLinks_regs (s : State) (r : RegRef) : regWord (quiesceLinks s) r = regWord s r := by
  refine List.foldlRecOn (motive := fun t : State => regWord t r = regWord s r) _ _ rfl fun t ht k _ => ?_
  exact (modLink_regs _ _ _ r).trans ((sendLink_regs t k _ r).trans ht)

theorem quiesceLinks_changing (s : State) {k : Nat} (hk : k ∈ linksDiffer s) {l : Link} (hl : linkOf (quiesceLinks s) k = some l) : l.changing = true := by
  have step (t : State) (a : Nat) (n : Nat) (m : Link)
      (hm : linkOf (modLink (sendLink t a .quiesce) a fun l => { l with changing := true }) n = some m) :
      (n = a ∧ m.changing = true) ∨ ∃ x, linkOf t n = some x ∧ m.changing = x.changing := by
    rw [linkOf_modLink] at hm
    split at hm
    · obtain ⟨x, -, rfl⟩ := Option.map_eq_some_iff.1 hm
      exact .inl ⟨‹_›, rfl⟩
    · obtain ⟨x, hx, he⟩ := (LinksStill.sendLink t a .quiesce).back hm
      exact .inr ⟨x, hx, (congrArg Link.changing he :)⟩
  refine foldl_reaches (f := fun s k => modLink (sendLink s k .quiesce) k (fun l => { l with changing := true })) (I := fun _ => True)
    (D := fun t => ∀ m, linkOf t k = some m → m.changing = true) (a := k) (fun _ _ _ => trivial) (fun t a _ hd m hm => ?_) (fun t _ m hm => ?_) hk trivial l hl
  · rcases step t a k m hm with ⟨-, h⟩ | ⟨x, hx, h⟩
    · exact h
    · rw [h, hd x hx]
  · rw [linkOf_modLink, if_pos rfl] at hm
    obtain ⟨x, -, rfl⟩ := Option.map_eq_some_iff.1 hm
    rfl

/-- What GO answers, where nothing refuses it, and where something does. -/
theorem recableGo_ok (hr : s.fab.recable = .idle) (hp : postcodeValid s = true) (hst : (engineList s).any (fun e => !stagedOk s e) = false)
    (hb : badEntry s = none) :
    recableGo s = (setRecable { quiesceLinks s with fab := { (quiesceLinks s).fab with changing := linksDiffer s } } .quiescing, C.ok) := by
  rw [recableGo, if_neg (not_not.2 hr), if_neg (by rw [hp]; decide), if_neg (by rw [hst]; decide), hb]
  rfl

theorem recableGo_refused {st : Nat} {t : State} (h : recableGo (recablePaused s v) = (t, st)) (hg : wfld v F.fabRecableGo = 1) (hst : st ≠ C.ok)
    (ht : t.fab = s.fab) :
    ∃ u, recableWrite s v = (u, st) ∧ u.fab = s.fab ∧ fld u F.fabRecablePause = fld s F.fabRecablePause := by
  refine ⟨setFld t F.fabRecablePause (fld s F.fabRecablePause), ?_, (setFld_fab _ _ _).trans ht, ?_⟩
  · have h' : recableGo (setFld s F.fabRecablePause (wfld v F.fabRecablePause)) = (t, st) := h
    unfold recableWrite
    dsimp only
    rw [if_pos hg, h']
    exact if_neg hst
  · rw [fld_setFld_same _ (f := F.fabRecablePause) (by decide)]
    exact Nat.mod_eq_of_lt (fieldOf_lt _ _ _)

theorem commitRecable_recable (s : State) : (commitRecable s).fab.recable =
    (if anyBusy (commitRecable s) then .committing else if (commitRecable s).active = none then .discovering else .idle) := by
  refine recableStep_recable ?_
  refine List.foldlRecOn (motive := fun t : State => t.fab.recable = .committing) _ _ rfl fun t ht e _ => ?_
  dsimp only
  split
  · exact ht
  · unfold commitOptic
    split
    · exact ht
    · unfold commitPairs
      extract_lets before after ch s1
      have h1 : s1.fab.recable = .committing := ht
      clear_value s1
      exact (((LaneWork.forceExpect (b := true) e ch s1).trans (LaneWork.startLanes _ e before ch)).recable).trans h1

/-! ### The postcode -/

/-- The register of the postcode is none that lanes, links or collectives write. -/
theorem postcode_outside (n : Nat) : ¬LaneReg n (⟨.fabPostcode, 0, 0, 0⟩ : RegRef).addr ∧ ¬StepReg n (⟨.fabPostcode, 0, 0, 0⟩ : RegRef).addr := by
  have haddr : (⟨.fabPostcode, 0, 0, 0⟩ : RegRef).addr = 0x300004 := rfl
  have hdie (d : Nat) (r : Reg) (hr : r ∈ [Reg.dieDlqStat, Reg.dieDlqDiscard, Reg.dieDlqTotal]) : (⟨r, d, 0, 0⟩ : RegRef).addr ≠ 0x300004 := by
    simp only [List.mem_cons, List.not_mem_nil, or_false] at hr
    rcases hr with rfl | rfl | rfl
    · show 0x100000 + d * 0x10000 + 0x400 + 0 ≠ _
      omega
    · show 0x100000 + d * 0x10000 + 0x404 + 0 ≠ _
      omega
    · show 0x100000 + d * 0x10000 + 0x408 + 0 ≠ _
      omega
  have hstk (d j : Nat) (hj : j < 2) (r : Reg) (hr : r ∈ stackRegs) : (⟨r, d, j, 0⟩ : RegRef).addr ≠ 0x300004 := by
    simp only [stackRegs, List.mem_cons, List.not_mem_nil, or_false] at hr
    rcases hr with rfl | rfl | rfl | rfl | rfl | rfl
    · show 0x100000 + d * 0x10000 + 0x814 + 0x20 * j ≠ _
      omega
    · show 0x100000 + d * 0x10000 + 0x810 + 0x20 * j ≠ _
      omega
    · show 0x100000 + d * 0x10000 + 0x818 + 0x20 * j ≠ _
      omega
    · show 0x100000 + d * 0x10000 + 0x81C + 0x20 * j ≠ _
      omega
    · show 0x100000 + d * 0x10000 + 0x820 + 0x20 * j ≠ _
      omega
    · show 0x100000 + d * 0x10000 + 0x828 + 0x20 * j ≠ _
      omega
  have hlink : ¬LinkReg n (⟨.fabPostcode, 0, 0, 0⟩ : RegRef).addr := by
    rintro (h | h | ⟨d, -, r, hr, h⟩)
    · exact absurd h (by decide)
    · exact absurd h (by decide)
    · exact hdie d r hr (h.symm.trans haddr)
  refine ⟨?_, ?_⟩
  · rintro (h | h | ⟨k, h⟩)
    · exact hlink h
    · exact absurd h (by decide)
    · have hk : (⟨.optEvent, k, 0, 0⟩ : RegRef).addr = 0x200000 + k * 0x10000 + 0xC + 0 := rfl
      rw [haddr, hk] at h
      omega
  · rintro ((h | h | h) | h | ⟨d, -, j, hj, r, hr, h⟩)
    · exact absurd h (by decide)
    · exact absurd h (by decide)
    · exact absurd h (by decide)
    · exact hlink h
    · exact hstk d j hj r hr (h.symm.trans haddr)

theorem identAgain_postcode (s : State) : regWord (identAgain s) ⟨.fabPostcode, 0, 0, 0⟩ = regWord s ⟨.fabPostcode, 0, 0, 0⟩ := by
  refine List.foldlRecOn (motive := fun t : State => regWord t ⟨.fabPostcode, 0, 0, 0⟩ = regWord s ⟨.fabPostcode, 0, 0, 0⟩) _ _ rfl fun t ht e _ => ?_
  refine List.foldlRecOn (motive := fun t : State => regWord t ⟨.fabPostcode, 0, 0, 0⟩ = regWord s ⟨.fabPostcode, 0, 0, 0⟩) _ _ ht fun t ht l _ => ?_
  dsimp only
  split
  · exact ht
  · refine Eq.trans ?_ ht
    exact (FailWork.sendIdent t _ _).lane.regs _ (postcode_outside _).1

theorem relight_postcode (s : State) : regWord (relight s) ⟨.fabPostcode, 0, 0, 0⟩ = regWord s ⟨.fabPostcode, 0, 0, 0⟩ := by
  refine List.foldlRecOn (motive := fun t : State => regWord t ⟨.fabPostcode, 0, 0, 0⟩ = regWord s ⟨.fabPostcode, 0, 0, 0⟩) _ _ rfl fun t ht e _ => ?_
  exact ((LaneWork.startLanes (b := true) t e _ _).regs _ (postcode_outside _).1).trans ht

/-- FAB_POSTCODE written while nothing is loaded. -/
theorem postcodeWrite_open (ha : anyLoaded s = false) (v : Word) : ∃ u, postcodeWrite s v = (u, C.ok) ∧
    regWord u ⟨.fabPostcode, 0, 0, 0⟩ = regWord (stored s ⟨.fabPostcode, 0, 0, 0⟩ v) ⟨.fabPostcode, 0, 0, 0⟩ := by
  have hp : plainWrite s ⟨.fabPostcode, 0, 0, 0⟩ v = (keptChanged (stored s ⟨.fabPostcode, 0, 0, 0⟩ v), C.ok) :=
    plainWrite_of_open (r := ⟨.fabPostcode, 0, 0, 0⟩) (by decide) (.inr ha)
  have hx : regWord (keptChanged (stored s ⟨.fabPostcode, 0, 0, 0⟩ v)) ⟨.fabPostcode, 0, 0, 0⟩ =
      regWord (stored s ⟨.fabPostcode, 0, 0, 0⟩ v) ⟨.fabPostcode, 0, 0, 0⟩ := rfl
  unfold postcodeWrite
  dsimp only
  rw [hp, ← hx]
  generalize keptChanged (stored s ⟨.fabPostcode, 0, 0, 0⟩ v) = x
  dsimp only
  rw [if_neg (not_not.2 rfl)]
  split
  · split
    · exact ⟨_, rfl, (flushWaiting_regs _ _).trans (identAgain_postcode x)⟩
    · exact ⟨_, rfl, rfl⟩
  · exact ⟨_, rfl, ((StepWork.collUnblock _).regs _ (postcode_outside _).2).trans ((flushWaiting_regs _ _).trans (relight_postcode x))⟩

/-! ### Expectations -/

theorem expectWrite_open (bypass : Bool) {P c : Nat} (hP : P < portCount s.ident) (hr : s.fab.recable = .idle) (v : Word) :
    ∃ u, expectWrite bypass P c s v = (u, C.ok) ∧
      regWord u ⟨if bypass then .fabBypass else .fabExpect, 0, P, c⟩ =
        regWord (stored s ⟨if bypass then .fabBypass else .fabExpect, 0, P, c⟩ v) ⟨if bypass then .fabBypass else .fabExpect, 0, P, c⟩ := by
  have hp : plainWrite s ⟨if bypass then .fabBypass else .fabExpect, 0, P, c⟩ v =
      (keptChanged (stored s ⟨if bypass then .fabBypass else .fabExpect, 0, P, c⟩ v), C.ok) := by
    cases bypass
    · exact plainWrite_of_open (r := ⟨.fabExpect, 0, P, c⟩) (show Reg.fabExpect.fields.all (fun f => f.acc == .ro) = false by decide)
        (.inl (show Reg.fabExpect.fields.any (fun f => f.acc == .rwl) = false by decide))
    · exact plainWrite_of_open (r := ⟨.fabBypass, 0, P, c⟩) (show Reg.fabBypass.fields.all (fun f => f.acc == .ro) = false by decide)
        (.inl (show Reg.fabBypass.fields.any (fun f => f.acc == .rwl) = false by decide))
  exact ⟨_, (if_neg (not_not.2 hr)).trans ((if_neg (by omega)).trans hp), rfl⟩

end Sys2Proof.Machine
end

section
/-!
PROOF. O48: the theorem.
-/
namespace Sys2Proof.Machine
open Sys2Proof

variable {s t u : State} {o : Origin} {v : Word}

/-! ### FAB_RB_CTL and FAB_RB_DATA -/

theorem fabRbCtlWrite_answers {c : Instr} (hs : Served s o true) (hc : c = Instr.fabRbSwap o v ∨ c = Instr.fabRbCopy o v)
    (h : fabRbCtlWrite s v = (u, st)) : RegAnswered c s o st 0 u := by
  rcases hc with rfl | rfl
  · exact regAnswered_of_write (f := fun s => fabRbCtlWrite s v) hs rfl h
  · exact regAnswered_of_write (f := fun s => fabRbCtlWrite s v) hs rfl h

/-- A swap that nothing refuses, with COPY or without. -/
theorem swap_outcome (hsw : wfld v F.fabRbCtlSwap = 1) (hr : s.fab.recable = .idle) (hb : badEntry s = none) :
    ∃ u, fabRbCtlWrite s v = (u, C.ok) ∧ u.fab.active = s.fab.shadow ∧ u.fab.shadow = s.fab.shadow ∧
      fld u F.fabRbCtlGen = (fld s F.fabRbCtlGen + 1) % 2 ^ 16 ∧ fld u F.fabEventRecableDone = 1 ∧ u.sec.retPending = true := by
  obtain ⟨hact, hsh, hgen, hev, hret⟩ := swapped_outcome s
  refine ⟨_, fabRbCtlWrite_swap hsw hr hb, ?_⟩
  by_cases hc : wfld v F.fabRbCtlCopy = 1
  · rw [if_pos hc]
    exact ⟨hact, hact, hgen, hev, hret⟩
  · rw [if_neg hc]
    exact ⟨hact, hsh, hgen, hev, hret⟩

theorem rbNext_fab (s : State) : (rbNext s).fab = s.fab := setFld_fab _ _ _

theorem rbDataWrite_outcome (hr : s.fab.recable = .idle) (v : Word) : ∃ u, rbDataWrite s v = (u, C.ok) ∧
    fld u F.fabRbAddrIndex = (fld s F.fabRbAddrIndex + 1) % 2 ^ 18 ∧ u.fab.active = s.fab.active ∧
    ∀ i, SMap.getD u.fab.shadow i 0 = (if i = fld s F.fabRbAddrIndex then v.toNat else SMap.getD s.fab.shadow i 0) := by
  have hfab := rbNext_fab { s with fab := { s.fab with shadow := SMap.setD s.fab.shadow (rbIndex s) v.toNat 0 } }
  refine ⟨_, if_neg (not_not.2 hr), rbNext_index _, (congrArg Fabric.active hfab :), fun i => ?_⟩
  rw [hfab]
  exact SMap.getD_setD _ _ _ _ _

/-! ### FAB_RECABLE -/

theorem recableWrite_answers {c : Instr} (hs : Served s o true) (hc : c = Instr.fabRecableGo o v ∨ c = Instr.fabRecableResume o v)
    (h : recableWrite s v = (u, st)) : RegAnswered c s o st 0 u := by
  rcases hc with rfl | rfl
  · exact regAnswered_of_write (f := fun s => recableWrite s v) hs rfl h
  · exact regAnswered_of_write (f := fun s => recableWrite s v) hs rfl h

/-- GO that nothing refuses. -/
theorem recableWrite_go (hg : wfld v F.fabRecableGo = 1) (hr : s.fab.recable = .idle) (hp : postcodeValid s = true)
    (hst : ∀ e, e < s.ident.engines → stagedOk s e = true) (hb : badEntry s = none) :
    ∃ u, recableWrite s v = (u, C.ok) ∧ u.fab.recable = .quiescing ∧ u.fab.changing = linksDiffer (recablePaused s v) ∧
      (∀ k l, k ∈ u.fab.changing → linkOf u k = some l → l.changing = true) ∧ fld u F.fabRecablePause = wfld v F.fabRecablePause := by
  have h : recableGo (recablePaused s v) = (setRecable { quiesceLinks (recablePaused s v) with
      fab := { (quiesceLinks (recablePaused s v)).fab with changing := linksDiffer (recablePaused s v) } } .quiescing, C.ok) := recableGo_ok (s := recablePaused s v) ((congrArg Fabric.recable (paused_fab s v)).trans hr) ((paused_postcodeValid s v).trans hp)
    ((staged_iff s v).2 hst) ((paused_badEntry s v).trans hb)
  refine ⟨setRecable { quiesceLinks (recablePaused s v) with
      fab := { (quiesceLinks (recablePaused s v)).fab with changing := linksDiffer (recablePaused s v) } } .quiescing, ?_, rfl, rfl, fun k l hk hl => ?_, ?_⟩
  · unfold recableWrite
    dsimp only
    rw [if_pos hg]
    exact (congrArg (fun r : State × Nat => if r.2 = C.ok then r else (setFld r.1 F.fabRecablePause (fld s F.fabRecablePause), r.2)) h).trans (if_pos rfl)
  · exact quiesceLinks_changing (recablePaused s v) hk hl
  · have hq : fld (quiesceLinks (recablePaused s v)) F.fabRecablePause = fld (recablePaused s v) F.fabRecablePause :=
      fldAt_of_word (f := F.fabRecablePause) (quiesceLinks_regs _ _)
    refine Eq.trans ?_ (hq.trans ((fld_setFld_same s (f := F.fabRecablePause) (by decide) _).trans (Nat.mod_eq_of_lt (fieldOf_lt _ _ _))))
    rfl

theorem recableGo_busy (hr : s.fab.recable ≠ .idle) : recableGo s = (s, C.fabRecableBusy) := if_pos hr

theorem recableGo_unset (hr : s.fab.recable = .idle) (hp : postcodeValid s = false) : recableGo s = (s, C.fabPostcodeUnset) := by
  rw [recableGo, if_neg (not_not.2 hr), if_pos hp]

theorem recableGo_staged (hr : s.fab.recable = .idle) (hp : postcodeValid s = true) (hst : (engineList s).any (fun e => !stagedOk s e) = true) :
    recableGo s = (s, C.optSteerInvalid) := by
  rw [recableGo, if_neg (not_not.2 hr), if_neg (by rw [hp]; decide), if_pos hst]

theorem recableGo_bad (hr : s.fab.recable = .idle) (hp : postcodeValid s = true) (hst : (engineList s).any (fun e => !stagedOk s e) = false)
    {i : Nat} (hb : badEntry s = some i) : recableGo s = (setFld s F.fabRbErrIndex i, C.fabRbInvalid) := by
  rw [recableGo, if_neg (not_not.2 hr), if_neg (by rw [hp]; decide), if_neg (by rw [hst]; decide), hb]

theorem recableWrite_pause (hg : wfld v F.fabRecableGo = 0) (h : wfld v F.fabRecableResume = 0 ∨ s.fab.recable ≠ .paused) :
    recableWrite s v = (recablePaused s v, C.ok) := by
  have hn : ¬(wfld v F.fabRecableResume = 1 ∧ s.fab.recable = .paused) := by
    rintro ⟨h1, h2⟩
    rcases h with h | h
    · rw [h1] at h
      cases h
    · exact h h2
  unfold recableWrite
  dsimp only
  rw [if_neg (show ¬wfld v F.fabRecableGo = 1 by rw [hg]; decide), if_neg hn]
  rfl

theorem recableWrite_resume (hg : wfld v F.fabRecableGo = 0) (h1 : wfld v F.fabRecableResume = 1) (h2 : s.fab.recable = .paused) :
    recableWrite s v = (commitRecable (recablePaused s v), C.ok) := by
  unfold recableWrite
  dsimp only
  rw [if_neg (show ¬wfld v F.fabRecableGo = 1 by rw [hg]; decide), if_pos ⟨h1, h2⟩]
  rfl

/-! ### Postcode and expectations -/

theorem postcodeWrite_locked (ha : anyLoaded s = true) (v : Word) : postcodeWrite s v = (s, C.regLocked) := by
  have h : plainWrite s ⟨.fabPostcode, 0, 0, 0⟩ v = (s, C.regLocked) :=
    plainWrite_of_locked (r := ⟨.fabPostcode, 0, 0, 0⟩) (by decide) (by decide) ha
  unfold postcodeWrite
  dsimp only
  rw [h]
  exact if_pos (show C.regLocked ≠ C.ok by decide)

theorem postcodeWrite_reads (ha : anyLoaded s = false) (v : Word) : ∃ u, postcodeWrite s v = (u, C.ok) ∧
    postcode u = wfld v F.fabPostcodePostcode ∧ fld u F.fabPostcodeValid = wfld v F.fabPostcodeValid := by
  obtain ⟨u, hu, hw⟩ := postcodeWrite_open ha v
  refine ⟨u, hu, ?_, ?_⟩
  · exact (fldAt_of_word (f := F.fabPostcodePostcode) hw).trans (fldAt_stored_full (f := F.fabPostcodePostcode) (by decide) (by decide) (by decide)
      (by decide) (by decide) (by decide) (by decide) (by decide))
  · exact (fldAt_of_word (f := F.fabPostcodeValid) hw).trans (fldAt_stored_full (f := F.fabPostcodeValid) (by decide) (by decide) (by decide)
      (by decide) (by decide) (by decide) (by decide) (by decide))

theorem expectRow_answers {bypass : Bool} {P c st : Nat} (hs : Served s o true) (hP : P < 32) (hc : c < 9)
    (h : expectWrite bypass P c s v = (u, st)) : RegAnswered (.fabExpectBypassWrite o bypass P c v) s o st 0 u :=
  regAnswered_of_write (f := fun s => if 32 ≤ P ∨ 9 ≤ c then (s, C.regUnmapped) else expectWrite bypass P c s v) hs rfl
    ((if_neg (by omega)).trans h)

theorem expect_reads {P c : Nat} (hP : P < portCount s.ident) (hr : s.fab.recable = .idle) (v : Word) :
    ∃ u, expectWrite false P c s v = (u, C.ok) ∧ fldAt u F.fabExpectNbr 0 P c = wfld v F.fabExpectNbr ∧
      fldAt u F.fabExpectNbrPort 0 P c = wfld v F.fabExpectNbrPort ∧ fldAt u F.fabExpectKind 0 P c = wfld v F.fabExpectKind := by
  obtain ⟨u, hu, hw⟩ := expectWrite_open (c := c) false hP hr v
  refine ⟨u, hu, ?_, ?_, ?_⟩
  · exact (fldAt_of_word (f := F.fabExpectNbr) hw).trans (fldAt_stored_full (f := F.fabExpectNbr) (by decide) (by decide) (by decide)
      (by decide) (by decide) (by decide) (by decide) (by decide))
  · exact (fldAt_of_word (f := F.fabExpectNbrPort) hw).trans (fldAt_stored_full (f := F.fabExpectNbrPort) (by decide) (by decide) (by decide)
      (by decide) (by decide) (by decide) (by decide) (by decide))
  · exact (fldAt_of_word (f := F.fabExpectKind) hw).trans (fldAt_stored_full (f := F.fabExpectKind) (by decide) (by decide) (by decide)
      (by decide) (by decide) (by decide) (by decide) (by decide))

theorem bypass_reads {P c : Nat} (hP : P < portCount s.ident) (hr : s.fab.recable = .idle) (v : Word) :
    ∃ u, expectWrite true P c s v = (u, C.ok) ∧ fldAt u F.fabBypassNbr 0 P c = wfld v F.fabBypassNbr ∧
      fldAt u F.fabBypassNbrPort 0 P c = wfld v F.fabBypassNbrPort ∧ fldAt u F.fabBypassValid 0 P c = wfld v F.fabBypassValid := by
  obtain ⟨u, hu, hw⟩ := expectWrite_open (c := c) true hP hr v
  refine ⟨u, hu, ?_, ?_, ?_⟩
  · exact (fldAt_of_word (f := F.fabBypassNbr) hw).trans (fldAt_stored_full (f := F.fabBypassNbr) (by decide) (by decide) (by decide)
      (by decide) (by decide) (by decide) (by decide) (by decide))
  · exact (fldAt_of_word (f := F.fabBypassNbrPort) hw).trans (fldAt_stored_full (f := F.fabBypassNbrPort) (by decide) (by decide) (by decide)
      (by decide) (by decide) (by decide) (by decide) (by decide))
  · exact (fldAt_of_word (f := F.fabBypassValid) hw).trans (fldAt_stored_full (f := F.fabBypassValid) (by decide) (by decide) (by decide)
      (by decide) (by decide) (by decide) (by decide) (by decide))

/-! ### The quiesce -/

/-- What ends a quiesce: the pause, or the commit. -/
theorem afterQuiesce_outcome (s : State) :
    (fld s F.fabRecablePause = 1 → (afterQuiesce s).fab.recable = .paused ∧ (afterQuiesce s).optics = s.optics) ∧
    (fld s F.fabRecablePause ≠ 1 → (afterQuiesce s).fab.recable =
      (if anyBusy (afterQuiesce s) then .committing else if (afterQuiesce s).active = none then .discovering else .idle)) := by
  refine ⟨fun hp => ?_, fun hp => ?_⟩
  · rw [afterQuiesce, if_pos hp]
    exact ⟨rfl, rfl⟩
  · rw [afterQuiesce, if_neg hp]
    exact commitRecable_recable s

/-- The links that are not idle are reported. -/
def quiesceReported (s : State) : State :=
  (busyLinks s).foldl (fun s k => report s C.fabQuiesceTimeout (srcEngine (k / 128)) 0xFFFF []) s

theorem quiesceReported_optics (s : State) : (quiesceReported s).optics = s.optics :=
  List.foldlRecOn (motive := fun t : State => t.optics = s.optics) _ _ rfl fun _ ht _ _ => (report_optics _ _ _ _ _).trans ht

theorem quiesceReported_pause (s : State) : fld (quiesceReported s) F.fabRecablePause = fld s F.fabRecablePause :=
  List.foldlRecOn (motive := fun t : State => fld t F.fabRecablePause = fld s F.fabRecablePause) _ _ rfl
    fun t ht _ _ => (fld_report t _ _ _ _ (f := F.fabRecablePause) (by decide)).trans ht

end Sys2Proof.Machine

namespace Sys2Proof.Proofs
open Sys2Proof Sys2Proof.Machine

/-- Settles O48: each write by the branch of its register that its bits select; a re-cable's commit ends where `recableStep` takes it. -/
theorem routeBooksAndRecabling : Obligations.RouteBooksAndRecabling := by
  refine ⟨fun s o v hs => ⟨fun c hc => ⟨fun hsw => ⟨fun hr => ?_, fun i hr hb => ?_, fun hr hb => ?_⟩, fun hsw hcp => ?_, fun hsw hcp => ?_⟩,
    fun hr => ?_, fun hr => ?_, fun c hc => ⟨fun hg => ⟨fun hr => ?_, fun hr hp => ?_, fun hr hp hst => ?_, fun i hr hp hst hb => ?_, fun hr hp hst hb => ?_⟩,
      fun hg => ⟨fun h => ?_, fun h1 h2 => ?_⟩⟩, fun ha => ?_, fun ha => ?_,
    fun bypass P c => ⟨fun h => ?_, fun hP hc hr => ?_, fun hP hc hr hn => ?_⟩, fun P c hP hP32 hc hr => ⟨?_, ?_⟩⟩,
    fun s o hs => ⟨?_, ?_⟩, fun s => ⟨fun hr => ⟨fun hb => ?_, fun hb => ?_, ?_⟩, fun hr => ⟨?_, ?_⟩⟩⟩
  · exact fabRbCtlWrite_answers hs hc (fabRbCtlWrite_busy hsw hr)
  · exact fabRbCtlWrite_answers hs hc (fabRbCtlWrite_bad hsw hr hb)
  · obtain ⟨u, hu, h⟩ := swap_outcome hsw hr hb
    exact ⟨u, fabRbCtlWrite_answers hs hc hu, h⟩
  · exact fabRbCtlWrite_answers hs hc ((fabRbCtlWrite_noSwap hsw).trans (congrArg (·, C.ok) (if_pos hcp)))
  · exact fabRbCtlWrite_answers hs hc ((fabRbCtlWrite_noSwap hsw).trans (congrArg (·, C.ok) (if_neg (show ¬wfld v F.fabRbCtlCopy = 1 by rw [hcp]; decide))))
  · obtain ⟨u, hu, h⟩ := rbDataWrite_outcome hr v
    exact ⟨u, regAnswered_of_write (f := fun s => rbDataWrite s v) hs rfl hu, h⟩
  · exact regAnswered_of_write (f := fun s => rbDataWrite s v) hs rfl (if_pos hr)
  · obtain ⟨u, hu, h⟩ := recableGo_refused (s := s) (v := v) (recableGo_busy fun h => hr ((congrArg Fabric.recable (paused_fab s v)).symm.trans h)) hg
      (show C.fabRecableBusy ≠ C.ok by decide) (paused_fab s v)
    exact ⟨u, recableWrite_answers hs hc hu, h⟩
  · obtain ⟨u, hu, h⟩ := recableGo_refused (s := s) (v := v) (recableGo_unset ((congrArg Fabric.recable (paused_fab s v)).trans hr)
      ((paused_postcodeValid s v).trans hp)) hg (show C.fabPostcodeUnset ≠ C.ok by decide) (paused_fab s v)
    exact ⟨u, recableWrite_answers hs hc hu, h⟩
  · have hany := Bool.eq_true_of_not_eq_false fun h => hst ((staged_iff s v).1 h)
    obtain ⟨u, hu, h⟩ := recableGo_refused (s := s) (v := v) (recableGo_staged ((congrArg Fabric.recable (paused_fab s v)).trans hr)
      ((paused_postcodeValid s v).trans hp) hany) hg (show C.optSteerInvalid ≠ C.ok by decide) (paused_fab s v)
    exact ⟨u, recableWrite_answers hs hc hu, h⟩
  · obtain ⟨u, hu, h⟩ := recableGo_refused (s := s) (v := v) (recableGo_bad ((congrArg Fabric.recable (paused_fab s v)).trans hr)
      ((paused_postcodeValid s v).trans hp) ((staged_iff s v).2 hst) ((paused_badEntry s v).trans hb)) hg (show C.fabRbInvalid ≠ C.ok by decide)
      ((setFld_fab _ _ _).trans (paused_fab s v))
    exact ⟨u, recableWrite_answers hs hc hu, h⟩
  · obtain ⟨u, hu, h⟩ := recableWrite_go hg hr hp hst hb
    exact ⟨u, recableWrite_answers hs hc hu, h⟩
  · exact recableWrite_answers hs hc (recableWrite_pause hg h)
  · exact ⟨_, recableWrite_answers hs hc (recableWrite_resume hg h1 h2), commitRecable_recable _⟩
  · exact regAnswered_of_write (f := fun s => postcodeWrite s v) hs rfl (postcodeWrite_locked ha v)
  · obtain ⟨u, hu, h⟩ := postcodeWrite_reads ha v
    exact ⟨u, regAnswered_of_write (f := fun s => postcodeWrite s v) hs rfl hu, h⟩
  · exact regAnswered_of_write (f := fun s => if 32 ≤ P ∨ 9 ≤ c then (s, C.regUnmapped) else expectWrite bypass P c s v) hs rfl (if_pos h)
  · exact expectRow_answers hs hP hc (if_pos hr)
  · exact expectRow_answers hs hP hc ((if_neg (not_not.2 hr)).trans (if_pos hn))
  · obtain ⟨u, hu, h⟩ := expect_reads (c := c) hP hr v
    exact ⟨u, expectRow_answers hs hP32 hc hu, h⟩
  · obtain ⟨u, hu, h⟩ := bypass_reads (c := c) hP hr v
    exact ⟨u, expectRow_answers hs hP32 hc hu, h⟩
  · exact regAnswered_of_read (f := rbDataRead) hs rfl rfl
  · exact regAnswered_of_read (f := rbActiveRead) hs rfl rfl
  · exact congrArg done (if_neg fun h => hb (List.isEmpty_iff.1 h.2))
  · exact ⟨_, congrArg done (if_pos ⟨hr, List.isEmpty_iff.2 hb⟩), afterQuiesce_outcome s⟩
  · obtain ⟨hp, hc⟩ := afterQuiesce_outcome (quiesceReported s)
    rw [quiesceReported_pause, quiesceReported_optics] at hp
    rw [quiesceReported_pause] at hc
    exact ⟨_, congrArg done (if_pos hr), hp, hc⟩
  · exact congrArg done (if_neg fun h => hr h.1)
  · exact congrArg done (if_neg hr)

end Sys2Proof.Proofs
end

section
/-!
SUPPORT. What the fabric keeps of every link as bundles stop, stack memory is read, steps of collectives are sent and tiles are routed afresh
(R82, R253, R368, R375, R387 to R390).
-/
namespace Sys2Proof.Machine
open Sys2Proof

variable {s t u : State} {n : Nat}

/-! ### Rows of a stack -/

namespace StackOnly

theorem correctRow (h : StackOnly n s t) (key : Nat) : StackOnly n s (correctRow t n key) := h.foldl fun _ _ ht => ht.stackRead _ _

theorem spareReports (h : StackOnly n s t) (bank : Nat) : StackOnly n s (spareReports t n bank) := by
  unfold Machine.spareReports
  split
  · exact h.report _ _ _ _
  · exact h.report _ _ _ _
  · exact h

theorem finishRepair (h : StackOnly n s t) (bank row : Nat) : StackOnly n s (finishRepair t n bank row) := by
  unfold Machine.finishRepair
  exact (((((h.correctRow _).modStack _).stkEvent _ _).setEventAt _ _ _ _).report _ _ _ _).spareReports _

theorem openRows (h : StackOnly n s t) (off len : Nat) : StackOnly n s (openRows t n off len) := by
  unfold Machine.openRows Machine.awaitRepairs
  refine StackOnly.activate ?_ _
  split
  · exact h
  · exact h.foldl fun _ _ ht => ht.finishRepair _ _

end StackOnly

/-! ### Links -/

namespace LinksStill

theorem of_fab (h : t.fab = s.fab) : LinksStill s t := of_links (congrArg Fabric.links h)

theorem ite {p : Prop} [Decidable p] (h : LinksStill s t) (k : LinksStill s u) : LinksStill s (if p then t else u) := by
  split
  · exact h
  · exact k

theorem setEvent (s : State) (f : Fld) : LinksStill s (setEvent s f) := of_fab (setEvent_fab s f)
theorem report (s : State) (code src handle : Nat) (d : List Byte) : LinksStill s (report s code src handle d) := of_fab (report_fab s _ _ _ _)
theorem modBundle (s : State) (k : Nat) (f : Bundle → Bundle) : LinksStill s (modBundle s k f) := of_fab (modBundle_fab s k f)
theorem sendMsg (s : State) (dest vc : Nat) (b : FlitBody) : LinksStill s (sendMsg s dest vc b) := sendVia none s dest vc b

/-! ### Bundles that stop -/

theorem answer (s : State) (slot tally : Nat) (src : TallySrc) (status : Nat) : LinksStill s (answer s slot tally src status) := by
  unfold Machine.answer
  split
  · exact modBundle s _ _
  · exact sendMsg s _ _ _

theorem orphanTally (s : State) (slot i : Nat) : LinksStill s (orphanTally s slot i) := by
  unfold Machine.orphanTally
  split
  · exact refl s
  · refine ite (refl s) ?_
    extract_lets s1 s2
    have h1 : LinksStill s s1 := foldl _ (fun s w => answer s _ _ _ _) _ s
    have h2 : LinksStill s1 s2 := ite (refl s1) (modBundle s1 _ _)
    exact ((h1.trans h2).trans (modBundle _ _ _)).trans (setEvent _ _)

theorem orphanHomed (s : State) (slot : Nat) : LinksStill s (orphanHomed s slot) := by
  unfold Machine.orphanHomed
  split
  · exact refl s
  · refine foldl _ (fun s i => ?_) _ s
    split
    · exact ite (orphanTally s _ _) (refl s)
    · exact refl s

theorem stallCount (s : State) (w : Where) : LinksStill s (stallCount s w) := by
  unfold Machine.stallCount
  dsimp only
  split
  · exact bumpEv s _ _ _
  · exact bumpEv s _ _ _
  · exact bumpEv s _ _ _
  · exact refl s

theorem stallAll (s : State) (slot : Nat) : LinksStill s (stallAll s slot) := by
  unfold Machine.stallAll
  split
  · exact refl s
  · refine foldl _ (fun s i => ?_) _ s
    split
    · exact stallCount s _
    · exact refl s

theorem leaveRemote (s : State) (slot : Nat) : LinksStill s (leaveRemote s slot) := by
  unfold Machine.leaveRemote
  split
  · exact refl s
  · refine foldl _ (fun s st => ite (refl s) ?_) _ s
    split
    · exact refl s
    · split
      · exact ite (sendMsg s _ _ _) (refl s)
      · exact refl s

theorem faultWith (s : State) (slot code src : Nat) (d : List Byte) : LinksStill s (faultWith s slot code src d) := by
  have faultBundle (s : State) : LinksStill s (faultBundle s slot) := by
    unfold Machine.faultBundle
    split
    · exact refl s
    · exact ite (refl s) (((((stallAll s slot).trans (leaveRemote _ slot)).trans (orphanHomed _ slot)).trans (modBundle _ _ _)).trans (setEvent _ _))
  unfold Machine.faultWith
  split
  · exact refl s
  · exact ite (refl s) ((report s _ _ _ _).trans (faultBundle _))

/-! ### Steps of a collective -/

theorem modColl (s : State) (slot si : Nat) (f : Coll → Coll) : LinksStill s (modColl s slot si f) := modBundle s slot _

theorem sendTransfer (v : CollView) (step key dest : Nat) (resend : Bool) (s : State) (e : Nat × Nat) :
    LinksStill s (sendTransfer v step key dest resend s e) :=
  (of_fab (((StackOnly.refl v.stack s).openRows _ _).stackTile _).fab).trans (queueFlits _ _ _ _)

theorem countAlt (s : State) (o : Nat × Nat) (tiles : Nat) : LinksStill s (countAlt s o tiles) := ite (refl s) (bumpEv s _ _ _)

theorem collAbort (s : State) (slot si cause : Nat) : LinksStill s (collAbort s slot si cause) := by
  unfold Machine.collAbort
  split
  · exact refl s
  · refine LinksStill.trans (((setEvent s _).trans (faultWith _ slot cause _ [])).trans (modColl _ slot si Coll.stop)) (foldl _ (fun s k => ?_) _ _)
    split
    · exact queueFlits s _ _ _
    · exact refl s

theorem sendStep (s : State) (slot si : Nat) (resend : Bool) (skip : Option Nat) : LinksStill s (sendStep s slot si resend skip) := by
  unfold Machine.sendStep
  split
  · exact refl s
  · rename_i v _
    extract_lets step dest list o
    refine ite (modColl s slot si _) (ite (modColl s slot si _) ?_)
    generalize o = o'
    split
    · exact collAbort s slot si _
    · extract_lets s1 s2 s3
      have h1 : LinksStill s s1 := (countAlt s _ _).trans (modColl _ slot si _)
      have h2 : LinksStill s s2 := h1.trans (foldl _ (sendTransfer v step _ dest resend) list s1)
      refine ite (LinksStill.trans ?_ (report s3 _ _ _ _)) h2
      exact (h2.trans (setEvent s2 _)).trans (bumpEv _ _ _ _)

theorem resendSteps (s : State) (key : Nat) : LinksStill s (resendSteps s key) := by
  unfold Machine.resendSteps
  exact foldl _ (fun s e => foldl _ (fun s p => ite (sendStep s _ _ true none) (refl s)) _ s) _ s

/-! ### Tiles and messages routed afresh -/

theorem dlqAdd (s : State) (d reason cell : Nat) (consumer : List Byte) (q : Tile) : LinksStill s (dlqAdd s d reason cell consumer q) := by
  unfold Machine.dlqAdd
  refine ite (refl s) ?_
  split
  · exact refl s
  · refine ite ?_ ?_
    · extract_lets s1
      have h1 : LinksStill s s1 := (of_fab (satFldAt_fab s _ _ _ _ _)).trans (of_fab (setEventAt_fab _ _ _ _ _))
      exact h1.trans (report s1 _ _ _ _)
    · extract_lets e s1
      have h1 : LinksStill s s1 := of_links rfl
      clear_value s1
      exact (h1.trans (of_fab (bumpFldAt_fab s1 _ _ _ _ _))).trans (of_fab (setEventAt_fab _ _ _ _ _))

theorem sendTile {d cell dest vc : Nat} {notPort : Option Nat} {q : Tile} (h : sendTile s d cell dest vc notPort q = some t) : LinksStill s t := by
  unfold Machine.sendTile at h
  split at h
  · cases h
  · split at h
    · cases h
      exact dlqAdd s _ _ _ _ _
    · split at h
      · cases h
        exact (countAlt s _ _).trans (queueFrom _ _ _ _ _)
      · cases h
        exact dlqAdd s _ _ _ _ _

theorem reroute (key : Nat) (s : State) (g : List Queued) : LinksStill s (reroute key s g) := by
  unfold Machine.reroute
  split
  · exact refl s
  · split
    · rename_i f _ _ _ _
      cases h : Machine.sendTile s (engineDie (key / 128)) 0xFFFF f.flit.dest f.flit.vc f.via (tileOfWords (groupWords (f :: _))) with
      | none => exact refl s
      | some t => exact sendTile h
    · exact refl s
    · exact refl s
    · exact sendVia _ s _ _ _

theorem rerouteAll (key : Nat) (s : State) (qs : List (List (List Queued))) : LinksStill s (rerouteAll key s qs) := by
  unfold Machine.rerouteAll
  extract_lets old _ s1
  have h1 : LinksStill s s1 :=
    LinksStill.trans (t := { s with fab := { s.fab with waiting := [] } }) (of_links rfl) (foldl _ (fun s q => foldl _ (reroute key) q s) qs _)
  exact (h1.trans (of_links rfl)).trans (flushWaiting _)

end LinksStill

end Sys2Proof.Machine
end

section
/-!
SUPPORT. Flits sent, one after another (R361 to R366): what leaves on a link and what the link then holds for replay.
-/
namespace Sys2Proof.Machine
open Sys2Proof

variable {s t u : State} {key : Nat} {l : Link} {f : Flit}

/-! ### One flit -/

theorem modLink_out (s : State) (key : Nat) (f : Link → Link) : (modLink s key f).out = s.out := by
  unfold modLink
  split <;> rfl

theorem emitFlit_outcome (h : linkOf s key = some l) (f : Flit) :
    (emitFlit s key f).out = s.out ++ [.flit key (flitLane l) f] ∧ linkOf (emitFlit s key f) key = some { l with sent := l.sent + 1 } := by
  rw [emitFlit, h]
  exact ⟨congrArg (· ++ _) (modLink_out s key _), linkOf_modLink_same h _⟩

/-- The flit as it leaves: with its SEQ, the acknowledgement and the credits. -/
def Link.stamp (l : Link) (f : Flit) : Flit := { f with seq := l.txNext, ack := linkAck l, credit := giveCredits l }

theorem sendOne_outcome (h : linkOf s key = some l) {vc : Nat} {q : Queued} {rest : List Queued} (hq : (l.txq[vc]?).getD [] = q :: rest) :
    (sendOne s key l vc).out = s.out ++ [.flit key (flitLane l) (l.stamp q.flit)] ∧
    ∃ m, linkOf (sendOne s key l vc) key = some m ∧ m.replay = l.replay ++ [l.stamp q.flit] := by
  rw [sendOne, hq]
  dsimp only
  obtain ⟨hout, hlink⟩ := emitFlit_outcome (linkOf_modLink_same h fun l' => { l' with
      txq := l'.txq.set vc rest, txNext := (l'.txNext + 1) % 2 ^ 32, freed := keepCredits l', replay := l'.replay ++ [l.stamp q.flit],
      credits := modAt l'.credits vc (· - 1), round := l'.round + b2n ((l.stamp q.flit).last && (vc == 0 || vc == 3)) }) (l.stamp q.flit)
  exact ⟨hout.trans (congrArg (· ++ _) (modLink_out s key _)), _, hlink, rfl⟩

/-! ### Waits for credits -/

/-- From `s` to `t` nothing is sent, and of the link at most its waits for credits have changed. -/
structure Waited (key : Nat) (s t : State) : Prop where
  out : t.out = s.out
  link : ∀ l, linkOf s key = some l → ∃ w, linkOf t key = some { l with creditWait := w }

theorem Waited.refl (key : Nat) (s : State) : Waited key s s := ⟨rfl, fun l h => ⟨l.creditWait, h⟩⟩

theorem Waited.trans (h : Waited key s t) (k : Waited key t u) : Waited key s u := by
  refine ⟨k.out.trans h.out, fun l hl => ?_⟩
  obtain ⟨_, hw⟩ := h.link l hl
  obtain ⟨w, hw'⟩ := k.link _ hw
  exact ⟨w, hw'⟩

theorem Waited.modLink (key : Nat) (s : State) (f : Link → SMap Nat) : Waited key s (modLink s key fun l => { l with creditWait := f l }) :=
  ⟨modLink_out s key _, fun l hl => ⟨f l, linkOf_modLink_same hl _⟩⟩

theorem Waited.bumpEv (key : Nat) (s : State) (ev : Nat) (c : EvCtx) (n : Nat) : Waited key s (bumpEv s ev c n) :=
  ⟨bumpEv_out s ev c n, fun l hl => ⟨l.creditWait, (linkOf_of_links (congrArg Fabric.links (bumpEv_fab s ev c n)) key).trans hl⟩⟩

theorem creditWaitOne_waited (key : Nat) (s : State) (vc : Nat) : Waited key s (creditWaitOne key s vc) := by
  unfold creditWaitOne
  split
  · exact .refl key s
  · dsimp only
    split
    · exact .modLink key s _
    · exact (Waited.modLink key s _).trans (.bumpEv key _ _ _ _)
    · exact .refl key s

theorem creditWaits_waited (key : Nat) (s : State) : Waited key s ((List.range 4).foldl (creditWaitOne key) s) :=
  List.foldlRecOn (motive := fun t : State => Waited key s t) _ _ (.refl key s) fun t ht vc _ => ht.trans (creditWaitOne_waited key t vc)

/-- With nothing queued nothing is sent. -/
theorem pumpLink_empty (h : linkOf s key = some l) (he : ∀ q ∈ l.txq, q = []) : Waited key s (pumpLink s key) := by
  have h0 : (l.txq.map List.length).foldl (· + ·) 0 = 0 := by
    rw [← List.sum_eq_foldl]
    exact List.sum_eq_zero (by simpa using he)
  rw [pumpLink, h]
  dsimp only
  rw [h0]
  exact creditWaits_waited key s

/-! ### A LINK flit -/

/-- A link that sends a LINK flit at once. -/
structure Link.CanSend (l : Link) : Prop where
  up : l.st = .up
  idle : l.txq[2]? = some []
  credit : 0 < (l.credits[2]?).getD 0
  room : l.replay.length < 4096

/-- The link with a LINK flit queued. -/
def Link.queued (l : Link) (m : LinkMsg) : Link := { l with txq := modAt l.txq 2 (· ++ [⟨msgFlit 2 0xFFFF (.link m), none⟩]) }

theorem Link.CanSend.queue (h : l.CanSend) (m : LinkMsg) : (l.queued m).txq[2]? = some [⟨msgFlit 2 0xFFFF (.link m), none⟩] := by
  obtain ⟨hlt, -⟩ := List.getElem?_eq_some_iff.1 h.idle
  rw [Link.queued, modAt, h.idle, List.getElem?_set_self hlt, List.nil_append]

theorem Link.CanSend.next (h : l.CanSend) (m : LinkMsg) (w0 w3 : Nat) : nextVc (l.queued m) w0 w3 = some 2 := by
  have hr : ready (l.queued m) 2 = true := by
    have hc : 0 < ((l.queued m).credits[2]?).getD 0 := h.credit
    rw [ready, h.queue m]
    simp [hc]
  rw [nextVc, if_pos hr]

/-- The flit goes out first; the rest of what is queued follows as far as credits allow. -/
theorem sendLink_outcome (hl : linkOf s key = some l) (h : l.CanSend) (m : LinkMsg) : ∃ x k n, ((l.queued m).txq.map List.length).foldl (· + ·) 0 = n + 1 ∧
    sendLink s key m = (List.range 4).foldl (creditWaitOne key) (pump n x key) ∧
    x.out = s.out ++ [.flit key (flitLane l) (l.stamp (msgFlit 2 0xFFFF (.link m)))] ∧
    linkOf x key = some k ∧ k.replay = l.replay ++ [l.stamp (msgFlit 2 0xFFFF (.link m))] := by
  have hq : linkOf (modLink s key (Link.queued · m)) key = some (l.queued m) := linkOf_modLink_same hl _
  have hone : 1 ≤ ((l.queued m).txq.map List.length).foldl (· + ·) 0 := by
    rw [← List.sum_eq_foldl]
    exact List.single_le_sum (by simp) 1 (List.mem_map.2 ⟨_, List.mem_of_getElem? (h.queue m), rfl⟩)
  obtain ⟨n, hn⟩ : ∃ n, ((l.queued m).txq.map List.length).foldl (· + ·) 0 = n + 1 := ⟨_, (Nat.sub_add_cancel hone).symm⟩
  obtain ⟨hout, k, hk, hr⟩ := sendOne_outcome (vc := 2) (q := ⟨msgFlit 2 0xFFFF (.link m), none⟩) (rest := []) hq (by rw [h.queue m]; rfl)
  refine ⟨_, k, n, hn, ?_, hout.trans (congrArg (· ++ _) (modLink_out s key _)), hk, hr⟩
  have hp : sendLink s key m = pumpLink (modLink s key (Link.queued · m)) key := rfl
  have hrun : ¬((l.queued m).st ≠ .up ∨ replayFlits ≤ (l.queued m).replay.length) := not_or.2 ⟨not_not.2 h.up, Nat.not_le.2 h.room⟩
  rw [hp, pumpLink, hq]
  dsimp only
  rw [hn, pump, hq]
  dsimp only
  rw [if_neg hrun, h.next m]

theorem OutGrows.pumped (n : Nat) (s : State) (key : Nat) : OutGrows s ((List.range 4).foldl (Machine.creditWaitOne key) (pump n s key)) :=
  FabricOnly.out (List.foldlRecOn (motive := fun t : State => FabricOnly s t) _ _ ((FabricOnly.refl s).pump n key)
    fun _ ht vc _ => ht.creditWaitOne key vc)

theorem OutGrows.mem (h : OutGrows s t) {e : Emit} (he : e ∈ s.out) : e ∈ t.out := by
  obtain ⟨l, hl⟩ := h
  rw [hl]
  exact List.mem_append_left l he

theorem sendLink_emits (hl : linkOf s key = some l) (h : l.CanSend) (m : LinkMsg) :
    ∃ lane f, Emit.flit key lane f ∈ (sendLink s key m).out ∧ f.body = .link m := by
  obtain ⟨x, k, n, -, hs, hout, -, -⟩ := sendLink_outcome hl h m
  refine ⟨flitLane l, l.stamp (msgFlit 2 0xFFFF (.link m)), ?_, rfl⟩
  rw [hs]
  refine (OutGrows.pumped n x key).mem ?_
  rw [hout]
  exact List.mem_append_right _ (List.mem_singleton.2 rfl)

/-- With nothing else queued only this flit goes out. -/
theorem sendLink_alone (hl : linkOf s key = some l) (h : l.CanSend) (hq : l.txq = [[], [], [], []]) (m : LinkMsg) :
    (sendLink s key m).out = s.out ++ [.flit key (flitLane l) (l.stamp (msgFlit 2 0xFFFF (.link m)))] ∧
    ∃ k, linkOf (sendLink s key m) key = some k ∧ k.replay = l.replay ++ [l.stamp (msgFlit 2 0xFFFF (.link m))] := by
  obtain ⟨x, k, n, hn, hs, hout, hk, hr⟩ := sendLink_outcome hl h m
  have h1 : ((l.queued m).txq.map List.length).foldl (· + ·) 0 = 1 := by
    rw [Link.queued, hq]
    rfl
  obtain rfl : n = 0 := by omega
  have hw := creditWaits_waited key x
  obtain ⟨w, hw'⟩ := hw.link k hk
  rw [hs]
  exact ⟨hw.out.trans hout, _, hw', hr⟩

/-! ### Replay -/

theorem resendFlit_outcome (h : linkOf s key = some l) (f : Flit) :
    (resendFlit key s f).out = s.out ++ [.flit key (flitLane l) { f with ack := linkAck l, credit := giveCredits l }] ∧
    ∃ m, linkOf (resendFlit key s f) key = some m ∧ m.replay = l.replay ∧ m.rxNext = l.rxNext := by
  rw [resendFlit, h]
  obtain ⟨hout, hlink⟩ := emitFlit_outcome (linkOf_modLink_same h fun l => { l with freed := keepCredits l })
    { f with ack := linkAck l, credit := giveCredits l }
  exact ⟨hout.trans (congrArg (· ++ _) (modLink_out s key _)), _, hlink, rfl, rfl⟩

/-- Flits sent again go out in order, each with the acknowledgement of the moment. -/
theorem resendFlits_outcome (fs : List Flit) (h : linkOf s key = some l) : ∃ sent : List Emit,
    (fs.foldl (resendFlit key) s).out = s.out ++ sent ∧ sent.length = fs.length ∧
    (∀ (i : Nat) (f : Flit), fs[i]? = some f → ∃ lane cr, sent[i]? = some (Emit.flit key lane { f with ack := linkAck l, credit := cr })) ∧
    ∃ m, linkOf (fs.foldl (resendFlit key) s) key = some m ∧ m.replay = l.replay := by
  induction fs generalizing s l with
  | nil => exact ⟨[], (List.append_nil _).symm, rfl, fun i f hf => (by cases hf), l, h, rfl⟩
  | cons g fs ih =>
    obtain ⟨hout, m, hm, hrep, hrx⟩ := resendFlit_outcome h g
    obtain ⟨sent, hs, hlen, hat, k, hk, hkr⟩ := ih hm
    refine ⟨.flit key (flitLane l) { g with ack := linkAck l, credit := giveCredits l } :: sent, ?_, congrArg Nat.succ hlen, fun i f hf => ?_, k, hk, hkr.trans hrep⟩
    · rw [List.foldl_cons, hs, hout, List.append_assoc]
      rfl
    · cases i with
      | zero =>
        cases hf
        exact ⟨_, _, rfl⟩
      | succ i =>
        have hack : linkAck m = linkAck l := by rw [linkAck, hrx, linkAck]
        obtain ⟨lane, cr, hx⟩ := hat i f hf
        exact ⟨lane, cr, by rw [List.getElem?_cons_succ, hx, hack]⟩

end Sys2Proof.Machine
end

section
/-!
PROOF. O47: flits received, lane sets, LOST links and the time of flight (R361 to R368, R381).
-/
namespace Sys2Proof.Machine
open Sys2Proof

variable {s t u : State} {key : Nat} {l : Link} {f : Flit}

/-! ### FLIT_RECEIVE -/

/-- The state once the codewords are counted. -/
def wordsCounted (s : State) (key corr uncorr : Nat) : State :=
  portEvent (portEvent s (key / 16) Ev.mioraFecCorr corr) (key / 16) Ev.mioraFecUncorr uncorr

theorem wordsCounted_fab (s : State) (key corr uncorr : Nat) : (wordsCounted s key corr uncorr).fab = s.fab :=
  (bumpEv_fab _ _ _ _).trans (bumpEv_fab _ _ _ _)
theorem wordsCounted_out (s : State) (key corr uncorr : Nat) : (wordsCounted s key corr uncorr).out = s.out :=
  (bumpEv_out _ _ _ _).trans (bumpEv_out _ _ _ _)
theorem wordsCounted_link (h : linkOf s key = some l) (corr uncorr : Nat) : linkOf (wordsCounted s key corr uncorr) key = some l :=
  (linkOf_of_links (congrArg Fabric.links (wordsCounted_fab s key corr uncorr)) key).trans h

theorem flitReceive_discards (h : linkOf s key = some l) (hup : l.st = .up) {corr uncorr : Nat} {ok : Bool} {f : Flit}
    (hbad : ok = false ∨ (f.body ≠ .idle ∧ f.seq ≠ l.rxNext)) :
    exec (.flitReceive key corr uncorr ok f) s = done (discardFlit (wordsCounted s key corr uncorr) key l) := by
  refine congrArg done ?_
  have hl := wordsCounted_link h corr uncorr
  unfold wordsCounted at hl
  dsimp only
  rw [hl]
  dsimp only
  rw [if_neg (not_not.2 hup)]
  split
  · rfl
  · rename_i hok
    obtain ⟨hb, hseq⟩ := hbad.resolve_left hok
    split
    · exact absurd ‹_› hb
    · exact if_pos hseq

theorem discardFlit_once (h : linkOf s key = some l) (hr : l.retrying = false) : ∃ k, linkOf (discardFlit s key l) key = some k ∧
    k.rxNext = l.rxNext ∧ k.retrying = true ∧ k.inbox = l.inbox ∧
    (l.CanSend → ∃ lane f, Emit.flit key lane f ∈ (discardFlit s key l).out ∧ f.body = .link (.retry l.rxNext)) := by
  have hm : linkOf (modLink s key fun l => { l with retrying := true }) key = some { l with retrying := true } := linkOf_modLink_same h _
  have hd : discardFlit s key l = sendLink (modLink s key fun l => { l with retrying := true }) key (.retry l.rxNext) :=
    if_neg (show ¬l.retrying = true by rw [hr]; decide)
  rw [hd]
  obtain ⟨k, hk, he⟩ := (LinksStill.sendLink _ key (.retry l.rxNext)).get hm
  refine ⟨k, hk, (congrArg Link.rxNext he :), (congrArg Link.retrying he :), (congrArg Link.inbox he :), fun hs => ?_⟩
  exact sendLink_emits hm ⟨hs.up, hs.idle, hs.credit, hs.room⟩ _

/-- The link once the acknowledgement and the credits of a flit are taken. -/
def Link.acked (l : Link) (f : Flit) : Link :=
  { l with
    replay := l.replay.filter (fun g => laterThan (BitVec.ofNat 32 g.seq) (BitVec.ofNat 32 f.ack))
    credits := (withIdx l.credits).map (fun c => c.2 + (f.credit[c.1]?).getD 0) }

theorem takeAck_link (h : linkOf s key = some l) (f : Flit) : ∃ k, linkOf (takeAck s key f) key = some k ∧ k.still = (l.acked f).still ∧
    ((∀ q ∈ l.txq, q = []) → k.replay = (l.acked f).replay) := by
  have hm : linkOf (modLink s key (Link.acked · f)) key = some (l.acked f) := linkOf_modLink_same h _
  obtain ⟨k, hk, he⟩ := (LinksStill.pumpLink _ key).get hm
  refine ⟨k, hk, he, fun hq => ?_⟩
  obtain ⟨w, hw⟩ := (pumpLink_empty hm hq).link _ hm
  cases hk.symm.trans hw
  rfl

/-- The link with the words of a flit taken in. -/
def Link.took (l : Link) (f : Flit) (ws : List (List Byte × BitVec 16)) : Link :=
  let all := (if f.first then [] else (l.rx[f.vc]?).getD []) ++ ws
  if f.last then { l with rx := l.rx.set f.vc [], inbox := l.inbox ++ [⟨f.vc, f.dest, tileOfWords all, ceilDiv all.length 13⟩] }
  else { l with rx := l.rx.set f.vc all }

theorem takeWords_link (h : linkOf s key = some l) (f : Flit) (ws : List (List Byte × BitVec 16)) :
    linkOf (takeWords s key f ws) key = some (l.took f ws) :=
  linkOf_modLink_same ((linkOf_of_links (congrArg Fabric.links (bumpEv_fab s _ _ _)) key).trans h) _

theorem Link.took_rest (l : Link) (f : Flit) (ws : List (List Byte × BitVec 16)) :
    (l.took f ws).rxNext = l.rxNext ∧ (l.took f ws).retrying = l.retrying ∧ (l.took f ws).replay = l.replay := by
  unfold Link.took
  dsimp only
  split
  · exact ⟨rfl, rfl, rfl⟩
  · exact ⟨rfl, rfl, rfl⟩

theorem sendIdle_link (h : linkOf s key = some l) : linkOf (sendIdle s key) key = some { l with freed := keepCredits l, sent := l.sent + 1 } := by
  rw [sendIdle, h]
  exact (emitFlit_outcome (linkOf_modLink_same h _) _).2

/-- The next flit in order is taken. -/
def Link.inOrder (l : Link) : Link := { l with rxNext := (l.rxNext + 1) % 2 ^ 32, retrying := false }

theorem flitReceive_idle (h : linkOf s key = some l) (hup : l.st = .up) {corr uncorr : Nat} {f : Flit} (hb : f.body = .idle) :
    exec (.flitReceive key corr uncorr true f) s = done (takeAck (wordsCounted s key corr uncorr) key f) := by
  refine congrArg done ?_
  have hl := wordsCounted_link h corr uncorr
  unfold wordsCounted at hl
  dsimp only
  rw [hl]
  dsimp only
  rw [if_neg (not_not.2 hup), if_neg (by decide), hb]
  rfl

theorem flitReceive_tile (h : linkOf s key = some l) (hup : l.st = .up) {corr uncorr : Nat} {f : Flit} {ws : List (List Byte × BitVec 16)}
    (hb : f.body = .tile ws) (hseq : f.seq = l.rxNext) :
    exec (.flitReceive key corr uncorr true f) s =
      done (sendIdle (takeWords (takeAck (modLink (wordsCounted s key corr uncorr) key Link.inOrder) key f) key f ws) key) := by
  refine congrArg done ?_
  have hl := wordsCounted_link h corr uncorr
  unfold wordsCounted at hl
  dsimp only
  rw [hl]
  dsimp only
  rw [if_neg (not_not.2 hup), if_neg (by decide), hb]
  exact if_neg (not_not.2 hseq)

theorem tileTaken_link (h : linkOf s key = some l) (f : Flit) (ws : List (List Byte × BitVec 16)) :
    ∃ k, linkOf (sendIdle (takeWords (takeAck (modLink s key Link.inOrder) key f) key f ws) key) key = some k ∧
      k.rxNext = (l.rxNext + 1) % 2 ^ 32 ∧ k.retrying = false ∧ ((∀ q ∈ l.txq, q = []) → k.replay = (l.acked f).replay) ∧
      k.inbox = (l.took f ws).inbox ∧ k.rx = (l.took f ws).rx := by
  obtain ⟨k, hk, he, hrep⟩ := takeAck_link (linkOf_modLink_same h Link.inOrder) f
  obtain ⟨hrx, hretry, hreplay⟩ := k.took_rest f ws
  have hrxs : k.rx = l.rx := (congrArg Link.rx he :)
  have hin : k.inbox = l.inbox := (congrArg Link.inbox he :)
  refine ⟨_, sendIdle_link (takeWords_link hk f ws), hrx.trans (congrArg Link.rxNext he :), hretry.trans (congrArg Link.retrying he :),
    fun hq => hreplay.trans (hrep hq), ?_, ?_⟩
  · show (k.took f ws).inbox = (l.took f ws).inbox
    simp only [Link.took, hrxs, hin]
    split <;> rfl
  · show (k.took f ws).rx = (l.took f ws).rx
    simp only [Link.took, hrxs]
    split <;> rfl

/-! ### Lane sets -/

theorem laneReduced_link (h : linkOf s key = some l) :
    ∃ m, linkOf (laneReduced s key) key = some m ∧ m.st = l.st ∧ m.lanes = l.lanes ∧ m.chans = l.chans := by
  rw [laneReduced, h]
  dsimp only
  split
  · split
    · exact ⟨l, h, rfl, rfl, rfl⟩
    · refine ⟨{ l with reduced := true }, ?_, rfl, rfl, rfl⟩
      exact (linkOf_of_links (congrArg Fabric.links (report_fab _ _ _ _ _)) key).trans (linkOf_modLink_same h _)
  · exact ⟨_, linkOf_modLink_same h _, rfl, rfl, rfl⟩

theorem runOn_all (h : twoNet s = false) (l : Link) (lanes : List Nat) : runOn s l lanes = lanes :=
  if_neg (by rw [h]; simp)

theorem lanesetFlit_on (h : linkOf s key = some l) (hup : l.st = .up) (h2 : twoNet s = false) {lanes : List Nat} (hne : lanes ≠ []) :
    ∃ t k, exec (.linkLanesetFlit key lanes) s = .next t ∧ linkOf t key = some k ∧ k.st = .up ∧ k.lanes = lanes ∧ k.chans = l.chans := by
  have hm : linkOf (portEvent (modLink s key fun l => { l with lanes := lanes }) (key / 16) Ev.laneSetChange 1) key = some { l with lanes := lanes } :=
    (linkOf_of_links (congrArg Fabric.links (bumpEv_fab _ _ _ _)) key).trans (linkOf_modLink_same h _)
  obtain ⟨m, hm', hst, hlanes, hch⟩ := laneReduced_link hm
  obtain ⟨k, hk, he⟩ := ((LinksStill.replayAll _ key).trans (.pumpLink _ key)).get hm'
  refine ⟨_, k, congrArg done ?_, hk, (congrArg Link.st he :).trans (hst.trans hup), (congrArg Link.lanes he :).trans hlanes, (congrArg Link.chans he :).trans hch⟩
  rw [h]
  dsimp only
  rw [if_neg (not_not.2 hup), runOn_all h2]
  exact if_neg fun he => hne (List.isEmpty_iff.1 he)

/-- With nothing to route afresh only messages that waited are tried again. -/
theorem rerouteAll_empty {qs : List (List (List Queued))} (h : ∀ q ∈ qs, q = []) (key : Nat) (s : State) (r : RegRef) :
    regWord (rerouteAll key s qs) r = regWord s r := by
  unfold rerouteAll
  extract_lets old _ s1
  have h1 : regWord s1 r = regWord s r := by
    refine List.foldlRecOn (motive := fun t : State => regWord t r = regWord s r) _ _ rfl fun t ht q hq => ?_
    rw [h q hq]
    exact ht
  exact (flushWaiting_regs _ r).trans h1

theorem rerouteRest_still (s : State) (key : Nat) (g : Link → List (List Queued)) (qs : List (List (List Queued))) :
    LinksStill s (rerouteAll key (modLink s key fun l => { l with txq := g l }) qs) := by
  refine LinksStill.trans ?_ (LinksStill.rerouteAll key _ _)
  exact LinksStill.modLink s key fun _ => rfl

/-- A link with nothing queued loses its last lane. -/
theorem linkDown_outcome (h : linkOf s key = some l) (hq : ∀ q ∈ l.txq, q = []) (chans : List Nat) :
    ∃ k, linkOf (linkDown s key chans) key = some k ∧ k.st = .down ∧ k.lanes = [] ∧ k.downSince = now s ∧
      (l.quiesced = false → fld (linkDown s key chans) F.fabEventLinkDown = 1) := by
  unfold linkDown
  extract_lets quiet s0 s1 stay
  have h0 : linkOf s0 key = some { l with st := .down, downSince := now s, chans := chans, lanes := [], spare := none } := linkOf_modLink_same h _
  have h1 : linkOf s1 key = some { l with st := .down, downSince := now s, chans := chans, lanes := [], spare := none } := by
    dsimp only [s1]
    split
    · exact h0
    · exact (linkOf_of_links (congrArg Fabric.links ((report_fab _ _ _ _ _).trans (setEvent_fab _ _))) key).trans h0
  have hev : l.quiesced = false → fld s1 F.fabEventLinkDown = 1 := by
    intro hqu
    have hquiet : quiet = false := by
      dsimp only [quiet]
      rw [h]
      exact hqu
    dsimp only [s1]
    rw [hquiet, if_neg (by decide)]
    exact (fld_report _ _ _ _ _ (f := F.fabEventLinkDown) (by decide)).trans (fldAt_setFldAt_same s0 (f := F.fabEventLinkDown) (by decide) _ _ _ _)
  clear_value s1
  rw [h1]
  dsimp only
  split
  · exact ⟨_, h1, rfl, rfl, rfl, hev⟩
  · obtain ⟨k, hk, he⟩ := (rerouteRest_still s1 key (fun l => l.txq.map stay) _).get h1
    refine ⟨k, hk, (congrArg Link.st he :), (congrArg Link.lanes he :), (congrArg Link.downSince he :), fun hqu => ?_⟩
    refine Eq.trans (fldAt_of_word (f := F.fabEventLinkDown) ?_) (hev hqu)
    refine (rerouteAll_empty (fun q hmem => ?_) key _ _).trans (modLink_regs s1 key _ _)
    obtain ⟨p, hp, rfl⟩ := List.mem_map.1 hmem
    rw [hq p hp]
    rfl

theorem lanesetFlit_none (h : linkOf s key = some l) (hup : l.st = .up) (h2 : twoNet s = false) :
    exec (.linkLanesetFlit key []) s = .next (linkDown s key l.chans) := by
  refine congrArg done ?_
  rw [h]
  dsimp only
  rw [if_neg (not_not.2 hup), runOn_all h2]
  exact if_pos rfl

/-! ### A LOST link -/

theorem loseReplay_link (h : linkOf s key = some l) : ∃ m, linkOf (loseReplay s key) key = some m ∧ m.st = .lost ∧ m.replay = [] := by
  have hm := linkOf_modLink_same h fun l => { l with st := .lost, replay := [], lanes := [], creditWait := [], spare := none }
  refine ⟨_, Eq.trans ?_ hm, rfl, rfl⟩
  have hb : (loseReplay s key).fab = (modLink s key fun l => { l with st := .lost, replay := [], lanes := [], creditWait := [], spare := none }).fab := by
    rw [loseReplay, h]
    dsimp only
    split
    · exact bumpEv_fab _ _ _ _
    · exact ((report_fab _ _ _ _ _).trans (setEvent_fab _ _)).trans (bumpEv_fab _ _ _ _)
  exact linkOf_of_links (congrArg Fabric.links hb) key

theorem rerouteQueue_still (s : State) (key : Nat) : LinksStill s (rerouteQueue s key) := by
  unfold rerouteQueue
  split
  · exact .refl s
  · exact rerouteRest_still s key (fun k => k.txq.map fun q => if k.st = .lost then [] else started q) _

theorem linkLost_link (h : linkOf s key = some l) : ∃ k, linkOf (linkLost s key) key = some k ∧ k.st = .lost ∧ k.replay = [] := by
  obtain ⟨m, hm, hst, hrep⟩ := loseReplay_link h
  have hq : LinksStill (loseReplay s key) (linkLost s key) := (rerouteQueue_still _ key).trans (.resendSteps _ key)
  obtain ⟨k, hk, he⟩ := hq.get hm
  have hk' : k.st = .lost := (congrArg Link.st he :).trans hst
  refine ⟨k, hk, hk', ?_⟩
  have hr := congrArg Link.replay he
  simp only [Link.still, hst, hk', hrep] at hr
  exact hr

/-! ### Time of flight -/

/-- The word of FAB_TOF of a time of flight by echo. -/
def tofWord (tof : Nat) : Word := BitVec.ofNat 32 (tof % 2 ^ 24 + 2 ^ 24 + b2n true * 2 ^ 25)

theorem tofWord_fields (tof : Nat) :
    fieldOf (tofWord tof).toNat 0 24 = tof % 2 ^ 24 ∧ fieldOf (tofWord tof).toNat 24 1 = 1 ∧ fieldOf (tofWord tof).toNat 25 1 = 1 := by
  have hb : b2n true = 1 := rfl
  have hn : (tofWord tof).toNat = tof % 2 ^ 24 + 2 ^ 24 + 2 ^ 25 := by
    rw [tofWord, BitVec.toNat_ofNat, hb]
    omega
  rw [hn]
  refine ⟨?_, ?_, ?_⟩
  · rw [fieldOf]
    omega
  · rw [fieldOf]
    omega
  · rw [fieldOf]
    omega

/-- The register that holds it reads so. -/
theorem tofWord_reads {P c tof : Nat} (h : regWord t ⟨.fabTof, 0, P, c⟩ = tofWord tof) :
    fldAt t F.fabTofTof 0 P c = tof % 2 ^ 24 ∧ fldAt t F.fabTofValid 0 P c = 1 ∧ fldAt t F.fabTofEcho 0 P c = 1 := by
  obtain ⟨h1, h2, h3⟩ := tofWord_fields tof
  exact ⟨(congrArg (fun w : Word => fieldOf w.toNat 0 24) h).trans h1, (congrArg (fun w : Word => fieldOf w.toNat 24 1) h).trans h2,
    (congrArg (fun w : Word => fieldOf w.toNat 25 1) h).trans h3⟩

theorem tof_apart {P c : Nat} (hP : P < 32) (hc : c < 9) : (⟨.fabTof, 0, P, c⟩ : RegRef).addr ≠ (⟨.fabEvent, 0, 0, 0⟩ : RegRef).addr := by
  have h : ∀ P < 32, ∀ c < 9, (⟨.fabTof, 0, P, c⟩ : RegRef).addr ≠ (⟨.fabEvent, 0, 0, 0⟩ : RegRef).addr := by decide
  exact h P hP c hc

/-- A measurement ended: nothing waits for λS of the link any more. -/
def tofEnded (s : State) (key : Nat) : State :=
  modLink { s with fab := { s.fab with tofWait := SMap.erase s.fab.tofWait key } } key fun l => { l with tofDone := true }

theorem tofEnded_regs (s : State) (key : Nat) (r : RegRef) : regWord (tofEnded s key) r = regWord s r := by
  rw [tofEnded, modLink_regs]
  rfl

theorem tofEnded_link (h : linkOf s key = some l) : linkOf (tofEnded s key) key = some { l with tofDone := true } :=
  linkOf_modLink_same (s := { s with fab := { s.fab with tofWait := SMap.erase s.fab.tofWait key } }) h _

theorem tofDone_regs (s : State) {P c : Nat} (hP : P < 32) (hc : c < 9) :
    regWord (setEvent s F.fabEventTofDone) ⟨.fabTof, 0, P, c⟩ = regWord s ⟨.fabTof, 0, P, c⟩ := regWord_setRegWord_other s (tof_apart hP hc) _

theorem tofDone_set (s : State) : fld (setEvent s F.fabEventTofDone) F.fabEventTofDone = 1 :=
  fldAt_setFldAt_same s (f := F.fabEventTofDone) (by decide) _ _ _ _

theorem setTof_one {c : Nat} (hch : l.chans = [c]) (s : State) (tof : Nat) :
    setTof s key l tof true = setEvent (tofEnded (setRegWord s ⟨.fabTof, 0, key / 16, c⟩ (tofWord tof)) key) F.fabEventTofDone := by
  rw [setTof, hch]
  rfl

/-- The measurement of a link on one lane ends. -/
theorem setTof_outcome (h : linkOf s key = some l) {c : Nat} (hch : l.chans = [c]) (hc : c < 9) (hkey : key < 512) (tof : Nat) :
    ∃ k, linkOf (setTof s key l tof true) key = some k ∧ k.tofDone = true ∧ fld (setTof s key l tof true) F.fabEventTofDone = 1 ∧
      fldAt (setTof s key l tof true) F.fabTofTof 0 (key / 16) c = tof % 2 ^ 24 ∧ fldAt (setTof s key l tof true) F.fabTofValid 0 (key / 16) c = 1 ∧
      fldAt (setTof s key l tof true) F.fabTofEcho 0 (key / 16) c = 1 := by
  rw [setTof_one hch]
  have hlink : linkOf (setRegWord s ⟨.fabTof, 0, key / 16, c⟩ (tofWord tof)) key = some l :=
    (linkOf_of_links (congrArg Fabric.links (setRegWord_fab s _ _)) key).trans h
  refine ⟨_, (linkOf_of_links (congrArg Fabric.links (setEvent_fab _ _)) key).trans (tofEnded_link hlink), rfl, tofDone_set _, tofWord_reads ?_⟩
  rw [tofDone_regs _ (by omega) hc, tofEnded_regs, regWord_setRegWord_same]

end Sys2Proof.Machine
end

section
/-!
PROOF. O47: echoes, identities received, λS in LOOP, and the theorem (R371, R372, R381, R391).
-/
namespace Sys2Proof.Machine
open Sys2Proof

variable {s t u : State} {key : Nat} {l : Link} {e p : Nat}

/-! ### Echoes -/

theorem queueFrom_tofWait (via : Option Nat) (s : State) (key vc : Nat) (fs : List Flit) : (queueFrom via s key vc fs).fab.tofWait = s.fab.tofWait := by
  obtain ⟨l, w, o, c, p, n, h⟩ := (FabricOnly.refl s).queueFrom via key vc fs
  rw [h]

theorem sendLink_tofWait (s : State) (key : Nat) (m : LinkMsg) : (sendLink s key m).fab.tofWait = s.fab.tofWait := queueFrom_tofWait none s key 2 _

theorem lambdaWait_echo (h : linkOf s key = some l) (hw : (SMap.find s.fab.tofWait key).isSome = true) :
    ∃ t k, exec (.tofLambdaWaitTimeout key) s = .next t ∧ linkOf t key = some k ∧ SMap.find t.fab.tofWait key = none ∧
      (l.CanSend → ∃ lane f m, Emit.flit key lane f ∈ t.out ∧ f.body = .link (.echo m)) := by
  have hl : linkOf (takeFree { s with fab := { s.fab with tofWait := SMap.erase s.fab.tofWait key } }).2 key = some l := h
  obtain ⟨k, hk, -⟩ := (LinksStill.sendLink _ key (.echo ((takeFree { s with fab := { s.fab with tofWait := SMap.erase s.fab.tofWait key } }).1.toNat % 2 ^ 32))).get hl
  refine ⟨_, k, congrArg done (if_pos hw), hk, ?_, fun hs => ?_⟩
  · exact (congrArg (SMap.find · key) (sendLink_tofWait _ key _)).trans (SMap.find_erase_self _ _)
  · obtain ⟨lane, f, hf, hb⟩ := sendLink_emits hl hs (.echo ((takeFree { s with fab := { s.fab with tofWait := SMap.erase s.fab.tofWait key } }).1.toNat % 2 ^ 32))
    exact ⟨lane, f, _, hf, hb⟩

/-! ### Identities -/

theorem modOptic_fab (s : State) (e : Nat) (f : Optic → Optic) : (modOptic s e f).fab = s.fab := rfl

theorem calAbandon_fab (s : State) (cls inst : Nat) : (calAbandon s cls inst).fab = s.fab := by
  unfold calAbandon closeElem
  dsimp only
  split
  · split
    · split
      · exact ((report_fab _ _ _ _ _).trans (setEvent_fab _ _)).trans rfl
      · exact (modOptic_fab _ _ _).trans (((report_fab _ _ _ _ _).trans (setEvent_fab _ _)).trans rfl)
    · exact ((report_fab _ _ _ _ _).trans (setEvent_fab _ _)).trans rfl
  · rfl

theorem abandonLane_fab (s : State) (e p c : Nat) : (abandonLane s e p c).fab = s.fab :=
  List.foldlRecOn (motive := fun t : State => t.fab = s.fab) _ _ rfl fun t ht k _ => (calAbandon_fab t k.1 k.2).trans ht

theorem dropLane_fab (s : State) (e p c : Nat) : (dropLane s e p c).fab = s.fab :=
  ((report_fab _ _ _ _ _).trans (setEventAt_fab _ _ _ _ _)).trans (modOptic_fab _ _ _)

theorem uncover_fab (s : State) (e p : Nat) (dark : Bool) : (uncover s e p dark).fab = s.fab := by
  unfold uncover
  split
  · rfl
  · rename_i k _
    extract_lets s1 s2
    have h1 : s1.fab = s.fab := modOptic_fab _ _ _
    have h2 : s2.fab = s.fab := (abandonLane_fab s1 e p k).trans h1
    clear_value s1 s2
    split
    · exact (dropLane_fab s1 e p k).trans h1
    · split
      · exact (dropLane_fab s2 e p k).trans h2
      · exact (modOptic_fab _ _ _).trans h2
    · split
      · exact (dropLane_fab s1 e p k).trans h1
      · exact h1
    · exact h1

/-- An identity marked as not expected stays so while lanes of the port are held dark. -/
theorem identOf_darkenLane {P c k : Nat} {i : IdentInfo} (h : identOf s P c = some { i with matched := 3 }) :
    identOf (darkenLane e p P s k) P c = some { i with matched := 3 } := by
  unfold darkenLane
  extract_lets s1 s2
  have h1 : s1.fab = s.fab := by
    dsimp only [s1]
    split
    · exact uncover_fab s e p false
    · rfl
  have h2 : identOf s2 P c = some { i with matched := 3 } := by
    rw [identOf, show s2.fab = s.fab from (modOptic_fab _ _ _).trans h1]
    exact h
  clear_value s2
  split
  · rename_i j hj
    by_cases hkc : identKey P c = identKey P k
    · rw [identOf, setIdent, hkc, SMap.find_insert_self]
      rw [identOf, ← hkc] at hj
      cases hj.symm.trans h2
      rfl
    · rw [identOf, setIdent]
      exact (SMap.find_insert_ne _ _ hkc).trans h2
  · exact h2

theorem identOf_holdDark {P c : Nat} {i : IdentInfo} (h : identOf s P c = some { i with matched := 3 }) :
    identOf (holdDark s P i) P c = some { i with matched := 3 } := by
  unfold holdDark
  extract_lets e p same s1 _ s2
  have h1 : identOf s1 P c = some { i with matched := 3 } :=
    List.foldlRecOn (motive := fun t : State => identOf t P c = some { i with matched := 3 }) same (darkenLane e p P) h
      fun _ ht _ _ => identOf_darkenLane ht
  have h2 (src : Nat) (d : List Byte) : (report (setEvent s2 F.fabEventUnplanned) C.fabNbrUnplanned src 0xFFFF d).fab = s2.fab :=
    (report_fab _ _ _ _ _).trans (setEvent_fab _ _)
  rw [identOf, (LinkWork.relink _ P).identTable, h2]
  exact h1

/-- An identity that is compared is kept with the outcome. -/
theorem identOf_judgeIdent {P c : Nat} (i : IdentInfo) {ok : State → State} (hok : ∀ s, (ok s).fab.ident = s.fab.ident) :
    identOf (judgeIdent s P c i ok) P c = some { i with matched := identMatch s P c i } := by
  by_cases h3 : identMatch s P c i = 3
  · rw [judgeIdent_unplanned h3, h3]
    exact identOf_holdDark (identOf_setIdent s P c _)
  · rw [judgeIdent_planned h3, identOf, hok]
    exact identOf_judged s P c _ i

/-! ### λS in LOOP -/

theorem pair_modLane (s : State) (e p c : Nat) (f : Lane → Lane) (k : Nat) : (opticOf (modLane s e p c f) e).pair k = (opticOf s e).pair k := by
  rw [modLane, setLane, opticOf_modOptic]
  split <;> rfl

/-- The cell of a pair set in LOOP or taken out of it. -/
def setLoop (s : State) (e k : Nat) (b : Bool) : State :=
  modOptic s e fun o => { o with pairs := SMap.setD o.pairs k { o.pair k with loop := b } PairSet.rest }

theorem setLoop_length (s : State) (e k : Nat) (b : Bool) : (setLoop s e k b).optics.length = s.optics.length := modOptic_length s e _

theorem setLoop_pair (he : e < s.optics.length) (k : Nat) (b : Bool) : (opticOf (setLoop s e k b) e).pair k = { (opticOf s e).pair k with loop := b } := by
  rw [setLoop, opticOf_modOptic_same he, Optic.pair, SMap.getD_setD, if_pos rfl]

theorem setLoop_lane (s : State) (e k : Nat) (b : Bool) (q d : Nat) : laneOf (setLoop s e k b) e q d = laneOf s e q d := by
  rw [laneOf, setLoop, opticOf_modOptic]
  split <;> rfl

/-- Both λS lanes of a pair set to a state. -/
theorem bothSet_lanes (he : e < s.optics.length) (k : Nat) (st : LaneState) :
    let t := modLane (modLane s e (2 * k) 8 fun x => { x with st := st }) e (2 * k + 1) 8 fun x => { x with st := st }
    (laneOf t e (2 * k) 8).st = st ∧ (laneOf t e (2 * k + 1) 8).st = st := by
  have he' : e < (modLane s e (2 * k) 8 fun x => { x with st := st }).optics.length := by
    rw [modLane_length]
    exact he
  refine ⟨?_, ?_⟩
  · rw [laneOf_modLane_other he' _ _ (by decide) (by decide) (by omega), laneOf_modLane_same he _ _ (by decide)]
  · rw [laneOf_modLane_same he' _ _ (by decide)]

theorem loopRequest_granted (he : e < s.optics.length) {k : Nat} (ht : ((opticOf s e).pair k).through % 256 = 0) (hi : (opticOf s e).inLoop k = false)
    (ha : (laneOf s e (2 * k) 8).st = .spareIdle) (hb : (laneOf s e (2 * k + 1) 8).st = .spareIdle) :
    ∃ t, exec (.tofLoopRequest e k false) s = .next t ∧ ((opticOf t e).pair k).loop = true ∧
      (laneOf t e (2 * k) 8).st = .through ∧ (laneOf t e (2 * k + 1) 8).st = .through := by
  have he' : e < (setLoop s e k true).optics.length := by
    rw [setLoop_length]
    exact he
  refine ⟨modLane (modLane (setLoop s e k true) e (2 * k) 8 fun x => { x with st := .through }) e (2 * k + 1) 8 fun x => { x with st := .through },
    congrArg done ((if_neg (by decide)).trans (if_pos ⟨ht, hi, ha, hb⟩)), ?_, bothSet_lanes he' k .through⟩
  rw [pair_modLane, pair_modLane, setLoop_pair he]

theorem loopRequest_over (he : e < s.optics.length) {k : Nat} (hl : ((opticOf s e).pair k).loop = true)
    (ht : bitAt ((opticOf s e).pair k).through 8 = false) (ha : (laneOf s e (2 * k) 8).st = .through) (hb : (laneOf s e (2 * k + 1) 8).st = .through) :
    ∃ t, exec (.tofLoopRequest e k true) s = .next t ∧ ((opticOf t e).pair k).loop = false ∧
      (laneOf t e (2 * k) 8).st = .spareIdle ∧ (laneOf t e (2 * k + 1) 8).st = .spareIdle := by
  have hheld : loopHeld s e (2 * k) = true := by
    rw [loopHeld, Nat.mul_div_cancel_left k (by decide), hl, ht, ha]
    rfl
  have he' : e < (setLoop s e k false).optics.length := by
    rw [setLoop_length]
    exact he
  have hend : endLoop s e k = modLane (modLane (setLoop s e k false) e (2 * k) 8 fun x => { x with st := .spareIdle }) e (2 * k + 1) 8
      fun x => { x with st := .spareIdle } := by
    have h1 : (laneOf (setLoop s e k false) e (2 * k) 8).st = .through := (congrArg Lane.st (setLoop_lane s e k false _ _)).trans ha
    have h2 : (laneOf (modLane (setLoop s e k false) e (2 * k) 8 fun x => { x with st := .spareIdle }) e (2 * k + 1) 8).st = .through := by
      rw [laneOf_modLane_other he' _ _ (by decide) (by decide) (by omega), setLoop_lane, hb]
    have hstep (x : State) (p : Nat) (h : (laneOf x e p 8).st = .through) :
        (if (laneOf x e p 8).st == .through then modLane x e p 8 (fun x => { x with st := .spareIdle }) else x) =
          modLane x e p 8 (fun x => { x with st := .spareIdle }) := if_pos (by rw [h]; rfl)
    have hfold : endLoop s e k = [2 * k, 2 * k + 1].foldl (fun s p => if (laneOf s e p 8).st == .through then modLane s e p 8 (fun x => { x with st := .spareIdle })
      else s) (setLoop s e k false) := rfl
    rw [hfold, List.foldl_cons, List.foldl_cons, List.foldl_nil, hstep _ _ h1, hstep _ _ h2]
  refine ⟨_, congrArg done ((if_pos rfl).trans ((if_pos (by rw [hheld, Bool.true_or])).trans hend)), ?_, bothSet_lanes he' k .spareIdle⟩
  rw [pair_modLane, pair_modLane, setLoop_pair he]

end Sys2Proof.Machine

namespace Sys2Proof.Proofs
open Sys2Proof Sys2Proof.Machine

/-- Settles O47: what sending leaves of a link (`LinksStill`) carries each clause past the flits that the command itself sends. -/
theorem linksCarryFlits : Obligations.LinksCarryFlits := by
  intro s key l h
  refine ⟨fun corr uncorr ok f hup hbad => ⟨fun hr => ?_, fun hr => ?_⟩, fun corr uncorr f hup => ⟨fun hb hq => ?_, fun ws hb hseq => ?_⟩, fun seq => ?_,
    fun lanes hup h2 => ⟨fun hne => ?_, fun hnil hq => ?_⟩, ?_, fun hd hc => ?_, fun hn => ?_, fun trip turn c hup htof hw hch hc hkey => ?_, fun hw => ?_,
    fun hw => ?_, fun marker turn hup hq hcr hrep => ?_, fun marker turn hup => ?_, fun P c kind pc port channel version txLat rxLat loopLat hP hc hdrop => ?_,
    fun e k he => ⟨fun ht hi hb => loopRequest_granted he ht hi hb.1 hb.2, fun hl ht hb => loopRequest_over he hl ht hb.1 hb.2⟩⟩
  · obtain ⟨k, hk, hrx, hretry, hin, hask⟩ := discardFlit_once (wordsCounted_link h corr uncorr) hr
    exact ⟨_, k, flitReceive_discards h hup hbad, hk, hrx, hretry, hin, fun hs => hask ⟨hup, hs.1, hs.2.1, hs.2.2⟩⟩
  · have hd : discardFlit (wordsCounted s key corr uncorr) key l = wordsCounted s key corr uncorr := if_pos hr
    exact ⟨_, l, (flitReceive_discards h hup hbad).trans (congrArg done hd), wordsCounted_link h corr uncorr, rfl, wordsCounted_out s key corr uncorr⟩
  · obtain ⟨k, hk, he, hrep⟩ := takeAck_link (wordsCounted_link h corr uncorr) f
    exact ⟨_, k, flitReceive_idle h hup hb, hk, (congrArg Link.rxNext he :), (congrArg Link.inbox he :), hrep hq⟩
  · obtain ⟨k, hk, hrx, hretry, hrep, hin, hrxs⟩ := tileTaken_link (wordsCounted_link h corr uncorr) f ws
    refine ⟨_, k, flitReceive_tile h hup hb hseq, hk, hrx, hretry, hrep, fun hlast => ?_, fun hlast => ?_⟩
    · rw [hin, hrxs, Link.took, if_pos hlast]
      exact ⟨rfl, rfl⟩
    · rw [hin, hrxs, Link.took, if_neg (by rw [hlast]; decide)]
      exact ⟨rfl, rfl⟩
  · obtain ⟨sent, hout, hlen, hat, m, hm, hrep⟩ := resendFlits_outcome (l.replay.filter fun f => !laterThan (BitVec.ofNat 32 seq) (BitVec.ofNat 32 f.seq)) h
    refine ⟨sent, ⟨resendFrom s key seq, m, rfl, ?_, hrep, ?_⟩, hlen, hat⟩
    · rw [resendFrom, h]
      exact (linkOf_of_links (congrArg Fabric.links (bumpEv_fab _ _ _ _)) key).trans hm
    · rw [resendFrom, h]
      exact (bumpEv_out _ _ _ _).trans hout
  · exact lanesetFlit_on h hup h2 hne
  · obtain ⟨k, hk, hst, hl, hsince, hev⟩ := linkDown_outcome h hq l.chans
    subst hnil
    exact ⟨_, k, lanesetFlit_none h hup h2, hk, hst, hl, hsince, hev⟩
  · exact ⟨_, _, rfl, linkOf_modLink_same h _, rfl, modLink_out s key _⟩
  · obtain ⟨k, hk, hst, hrep⟩ := linkLost_link h
    refine ⟨_, k, congrArg done ?_, hk, hst, hrep⟩
    rw [h]
    exact if_pos ⟨hd, hc⟩
  · refine congrArg done ?_
    rw [h]
    refine if_neg fun hx => ?_
    rcases hn with hn | hn
    · exact hn hx.1
    · exact Bool.noConfusion (hn.symm.trans hx.2)
  · obtain ⟨k, hk, hdone, hrest⟩ := setTof_outcome h hch hc hkey ((trip - turn) / 2)
    refine ⟨_, k, congrArg done ?_, hk, hdone, hrest⟩
    rw [h]
    dsimp only
    rw [if_neg (by rw [hup, htof]; decide), if_neg (by decide), hw]
    rfl
  · exact congrArg done (if_neg (by rw [hw]; decide))
  · obtain ⟨t, k, ht, hk, hnone, hecho⟩ := lambdaWait_echo h hw
    exact ⟨t, k, ht, hk, hnone, fun hup hs => hecho ⟨hup, hs.1, hs.2.1, hs.2.2⟩⟩
  · have hs : l.CanSend := ⟨hup, by rw [hq]; rfl, hcr, hrep⟩
    obtain ⟨hout, k, hk, hr⟩ := sendLink_alone h hs hq (.echoReply marker turn)
    refine ⟨_, ⟨_, k, congrArg done ?_, hk, hout, hr⟩, rfl, rfl⟩
    rw [h]
    exact if_pos hup
  · refine congrArg done ?_
    rw [h]
    exact if_neg hup
  · have hopen : ¬(portCount s.ident ≤ P ∨ 9 ≤ c ∨ (opticOf s (P / 8)).dropped (P % 8) c = false) := by
      rintro (hx | hx | hx)
      · omega
      · omega
      · exact Bool.noConfusion (hdrop.symm.trans hx)
    by_cases hj : canFail (laneOf s (P / 8) (P % 8) c).st = true ∨ (laneOf s (P / 8) (P % 8) c).st = .cal ∨ (laneOf s (P / 8) (P % 8) c).st = .margin
    · exact ⟨_, congrArg done ((if_neg hopen).trans (if_pos hj)), fun hn => absurd hj hn,
        fun _ => identOf_judgeIdent _ fun s => (LinkWork.relink s P).identTable⟩
    · exact ⟨_, congrArg done ((if_neg hopen).trans (if_neg hj)), fun _ => identOf_setIdent s P c _, fun hy => absurd hy hj⟩

end Sys2Proof.Proofs
end

section
/-!
PROOF. O58: writes of the security block, and what its timers do (R526 to R546).
-/
namespace Sys2Proof.Machine
open Sys2Proof

variable {s t u : State} {o : Origin} {v : Word}

/-! ### SEC_CTL -/

theorem secCtl_plain (s : State) (v : Word) : plainWrite s ⟨.secCtl, 0, 0, 0⟩ v = (keptChanged (stored s ⟨.secCtl, 0, 0, 0⟩ v), C.ok) :=
  plainWrite_of_open (r := ⟨.secCtl, 0, 0, 0⟩) (by decide) (.inl (by decide))

theorem secCtlWrite_denied (h : mayKey s o = false) (v : Word) : secCtlWrite s o v = (s, C.secKeyDenied) := if_pos h

theorem secCtlWrite_quiet (hk : mayKey s o = true) (hv : wfld v F.secCtlSvnCommit = 0) :
    secCtlWrite s o v = ((plainWrite s ⟨.secCtl, 0, 0, 0⟩ v).1, C.ok) := by
  have h1 : ¬wfld v F.secCtlSvnCommit = 1 := by rw [hv]; decide
  unfold secCtlWrite
  dsimp only
  rw [if_neg (by rw [hk]; decide), if_neg h1]
  rfl

/-- The minimum that a write of SEC_CTL leaves. -/
def svnAfter (s : State) (v : Word) : Nat :=
  if wfld v F.secCtlSvnCommit = 1 then max s.sec.svnMin (min s.ha.running.svn s.hb.running.svn) else s.sec.svnMin

theorem secCtlWrite_accepted (hk : mayKey s o = true) (h : wfld v F.secCtlSvnCommit = 0 ∨ ¬SvnHeld s) : ∃ u, secCtlWrite s o v = (u, C.ok) ∧
    fld u F.secCtlReqSigned = wfld v F.secCtlReqSigned ∧ u.sec = { s.sec with retPending := true, svnMin := svnAfter s v } := by
  have hfld (s : State) : fld (keptChanged (stored s ⟨.secCtl, 0, 0, 0⟩ v)) F.secCtlReqSigned = wfld v F.secCtlReqSigned :=
    (fld_keptChanged _ _).trans (fldAt_stored_full (f := F.secCtlReqSigned) (by decide) (by decide) (by decide) (by decide) (by decide) (by decide)
      (by decide) (by decide))
  rcases wfld_bit (f := F.secCtlSvnCommit) rfl v with hv | hv
  · rw [secCtlWrite_quiet hk hv, secCtl_plain]
    have hm : svnAfter s v = s.sec.svnMin := if_neg (by rw [hv]; decide)
    exact ⟨_, rfl, hfld s, by rw [hm]; rfl⟩
  · have hn : ¬SvnHeld s := h.resolve_left (by rw [hv]; decide)
    rw [secCtlWrite_of_not_held hk hv hn, svnCommit_of_not_held hn, secCtl_plain]
    have hm : svnAfter s v = max s.sec.svnMin (min s.ha.running.svn s.hb.running.svn) := if_pos hv
    exact ⟨_, rfl, hfld _, by rw [hm]; rfl⟩

theorem secCtl_answered (hs : Served s o true) {c : Instr} (hc : c = Instr.svnCommit o v ∨ c = Instr.secReqSignedWrite o v) {st : Nat}
    (h : secCtlWrite s o v = (u, st)) : RegAnswered c s o st 0 u := by
  rcases hc with rfl | rfl
  · exact svnCommit_answered hs h
  · exact regAnswered_of_write (f := fun s => secCtlWrite s o v) hs rfl h

/-! ### Retained state -/

/-- A commit: everything retained stands in the newer copy, and nothing waits any more. -/
theorem commitRet_outcome (s : State) : (commitRet s).sec.retPending = false ∧ (newerRet (commitRet s).sec).kept = keptRegs s ∧
    (newerRet (commitRet s).sec).retired = s.pl.retired ∧ (newerRet (commitRet s).sec).routes = s.fab.active ∧
    (newerRet (commitRet s).sec).gen = (newerRet s.sec).gen + 1 ∧ (commitRet s).regs = s.regs := by
  by_cases h : s.sec.retB.gen ≤ s.sec.retA.gen
  · simp [commitRet, newerRet, h]
  · simp [commitRet, newerRet, h]

/-! ### Life-cycle states -/

theorem lcCmdWrite_denied (h : wfld v F.secLcCmdKey ≠ 0x4C43 ∨ lcAllowed s o (LifeCycle.ofCode (wfld v F.secLcCmdTarget)) = false) :
    lcCmdWrite s o v = (s, C.secLcDenied) := if_pos h

theorem lcCmdWrite_accepted (hk : wfld v F.secLcCmdKey = 0x4C43) (ha : lcAllowed s o (LifeCycle.ofCode (wfld v F.secLcCmdTarget)) = true) :
    ∃ u, lcCmdWrite s o v = (u, C.ok) ∧ u.sec = { s.sec with incomplete := some (LifeCycle.ofCode (wfld v F.secLcCmdTarget)) } := by
  unfold lcCmdWrite
  extract_lets target s1 r s2
  have h2 : s2.sec = s.sec := by
    have h1 : s1.sec = s.sec := hubReport_sec s _ _
    dsimp only [s2]
    split
    · split
      · exact (writeRecord_sec _ _ _).trans h1
      · exact h1
    · exact h1
  refine ⟨_, if_neg ?_, congrArg (fun x : Security => { x with incomplete := some target }) h2⟩
  rintro (hx | hx)
  · exact hx hk
  · exact Bool.noConfusion (ha.symm.trans hx)

theorem secLcCmd_eq (hs : Served s o true) {st : Nat} (h : lcCmdWrite s o v = (u, st)) (cut : Bool) :
    exec (.secLcCmd o v cut) s = done (if cut || s.sec.incomplete.isSome then emit u (.reg o st 0) else lcFinish (emit u (.reg o st 0))) := by
  have hw : regWriteRow s o false (fun s => lcCmdWrite s o v) = emit u (.reg o st 0) := by
    rw [regWriteRow_served hs, h]
  show done (if cut || s.sec.incomplete.isSome then regWriteRow s o false (fun s => lcCmdWrite s o v)
    else lcFinish (regWriteRow s o false (fun s => lcCmdWrite s o v))) = _
  rw [hw]

theorem lcFinish_none (h : s.sec.incomplete = none) : lcFinish s = s := by
  rw [lcFinish, h]

theorem endGrant_sec (s : State) : (endGrant s).sec = { s.sec with grant := none } := by
  unfold endGrant
  split
  · rename_i h
    rw [← h]
  · exact reportNow_sec _ _ _ _ _ _ _

theorem endWork_lc (s : State) : (endWork s).sec.lc = s.sec.lc ∧ (endWork s).sec.incomplete = s.sec.incomplete := by
  have h (x : State) (k : Hub) : (abandonUpdate x k).sec = x.sec := by
    unfold abandonUpdate
    dsimp only
    split
    · cases k <;> rfl
    · rfl
  rw [endWork, h, endGrant_sec]
  exact ⟨rfl, rfl⟩

theorem warmReset_lc (s : State) (cause : Nat) : (warmReset s cause).sec.lc = s.sec.lc ∧ (warmReset s cause).sec.incomplete = s.sec.incomplete := by
  obtain ⟨o, c, r, l, h⟩ := warmReset_eq s cause
  rw [h]
  exact endWork_lc s

/-- A transition made: the state is the target, and the module has gone through a reset. -/
theorem lcFinish_outcome {d : LifeCycle} (h : s.sec.incomplete = some d) : (lcFinish s).out = s.out ∧ (lcFinish s).sec.lc = d ∧
    (lcFinish s).sec.incomplete = none ∧ fld (lcFinish s) F.secResetCauseCause = 4 ∧ (lcFinish s).pl.slots = [] ∧ (lcFinish s).sessions = [] := by
  have hf : lcFinish s = warmReset (lcErase s d) 4 := by rw [lcFinish, h]
  obtain ⟨hlc, hinc⟩ := warmReset_lc (lcErase s d) 4
  obtain ⟨-, -, hout, hcause⟩ := warmReset_frame (lcErase s d) 4
  have hw := warmReset_wiped (lcErase s d) 4
  rw [hf]
  exact ⟨hout, hlc, hinc, hcause, hw.slots, hw.sessions⟩

/-! ### Keys -/

/-- Whether a slot may be written so: in Field an ADMIN key remains. -/
def KeysKept (s : State) (k : KeySlot) : Prop := s.sec.lc ≠ .field ∨ hasAdmin (modAt s.sec.keys (keySel s) (fun _ => k)) = true

/-- The key table with the slot selected replaced. -/
def keysSet (s : State) (k : KeySlot) : State := { s with sec := { s.sec with keys := modAt s.sec.keys (keySel s) (fun _ => k) } }

theorem keyPut_kept {k : KeySlot} (h : KeysKept s k) : keyPut s k = (keysSet s k, C.ok) := by
  refine if_neg fun hx => ?_
  rcases h with h | h
  · exact h hx.1
  · exact Bool.noConfusion (h.symm.trans hx.2)

theorem keyPut_refused {k : KeySlot} (h : ¬KeysKept s k) : keyPut s k = (s, C.secKeyInvalid) := by
  obtain ⟨h1, h2⟩ := not_or.1 h
  exact if_pos ⟨not_not.1 h1, Bool.eq_false_of_not_eq_true h2⟩

theorem modAt_modAt {α : Type} (l : List α) (i : Nat) (a b : α) : modAt (modAt l i fun _ => a) i (fun _ => b) = modAt l i fun _ => b := by
  unfold modAt
  cases h : l[i]? with
  | none => simp only [h]
  | some x =>
    obtain ⟨hlt, -⟩ := List.getElem?_eq_some_iff.1 h
    simp only [List.getElem?_set_self hlt, List.set_set]

theorem keysSet_twice (s : State) (k m : KeySlot) : keysSet (keysSet s k) m = keysSet s m := by
  have hk : keySel (keysSet s k) = keySel s := rfl
  rw [keysSet, hk]
  exact congrArg (fun l : List KeySlot => { s with sec := { s.sec with keys := l } }) (modAt_modAt s.sec.keys (keySel s) k m)

theorem keysKept_after (s : State) (k m : KeySlot) : KeysKept (keysSet s k) m ↔ KeysKept s m := by
  have hk : keySel (keysSet s k) = keySel s := rfl
  have hl : modAt (keysSet s k).sec.keys (keySel s) (fun _ => m) = modAt s.sec.keys (keySel s) fun _ => m := modAt_modAt s.sec.keys (keySel s) k m
  rw [KeysKept, hk, hl, KeysKept]
  rfl

/-- COMMIT, then ERASE, of one who may change keys. -/
theorem keyCmdWrite_may (hk : mayKey s o = true) (h : ¬(wfld v F.secKeyCmdCommit = 0 ∧ wfld v F.secKeyCmdErase = 0)) :
    keyCmdWrite s o v = (let r := if wfld v F.secKeyCmdCommit = 1 then keyCommit s else (s, C.ok)
      if r.2 ≠ C.ok ∨ wfld v F.secKeyCmdErase = 0 then r else keyPut r.1 ⟨0, []⟩) :=
  (if_neg h).trans (if_neg (by rw [hk]; decide))

theorem keyCmdWrite_commit (hk : mayKey s o = true) (hc : wfld v F.secKeyCmdCommit = 1) :
    keyCmdWrite s o v = (if (keyCommit s).2 ≠ C.ok ∨ wfld v F.secKeyCmdErase = 0 then keyCommit s else keyPut (keyCommit s).1 ⟨0, []⟩) := by
  rw [keyCmdWrite_may hk fun h => by rw [h.1] at hc; cases hc]
  dsimp only
  rw [if_pos hc]

theorem keyCmdWrite_erase (hk : mayKey s o = true) (hc : wfld v F.secKeyCmdCommit = 0) (he : wfld v F.secKeyCmdErase = 1) :
    keyCmdWrite s o v = keyPut s ⟨0, []⟩ := by
  have h0 : ¬wfld v F.secKeyCmdErase = 0 := by rw [he]; decide
  rw [keyCmdWrite_may hk fun h => h0 h.2]
  dsimp only
  rw [if_neg (show ¬wfld v F.secKeyCmdCommit = 1 by rw [hc]; decide)]
  exact if_neg fun h => h.elim (fun h => h rfl) h0

theorem keyCommit_kind {k : Nat} (hs : s.sec.stagedKind = some k) (hk : k ≠ 0) : keyCommit s = keyPut s ⟨k, stagedKeyBytes s⟩ := by
  unfold keyCommit
  rw [hs]
  exact if_neg hk

theorem keyCommit_empty (h : s.sec.stagedKind.getD 0 = 0) : keyCommit s = (s, C.secKeyInvalid) := if_pos h

theorem keyCmdWrite_refused (hk : mayKey s o = true) (hc : wfld v F.secKeyCmdCommit = 1) (h : keyCommit s = (s, C.secKeyInvalid)) :
    keyCmdWrite s o v = (s, C.secKeyInvalid) := by
  rw [keyCmdWrite_commit hk hc, h]
  exact if_pos (.inl (show C.secKeyInvalid ≠ C.ok by decide))

theorem keyCmdWrite_both (hk : mayKey s o = true) (hc : wfld v F.secKeyCmdCommit = 1) (he : wfld v F.secKeyCmdErase = 1) {k : KeySlot}
    (h : keyCommit s = (keysSet s k, C.ok)) : keyCmdWrite s o v = keyPut (keysSet s k) ⟨0, []⟩ := by
  have h0 : ¬wfld v F.secKeyCmdErase = 0 := by rw [he]; decide
  rw [keyCmdWrite_commit hk hc, h]
  exact if_neg fun h => h.elim (fun h => h rfl) h0

theorem keyCmd_answered (hs : Served s o true) {c : Instr} (hc : c = Instr.secKeyCommit o v ∨ c = Instr.secKeyErase o v) {st : Nat}
    (h : keyCmdWrite s o v = (u, st)) : RegAnswered c s o st 0 u := by
  rcases hc with rfl | rfl
  · exact regAnswered_of_write (f := fun s => keyCmdWrite s o v) hs rfl h
  · exact regAnswered_of_write (f := fun s => keyCmdWrite s o v) hs rfl h

/-! ### Debug grants -/

theorem grantNext_ptr (s : State) : grantPtr (grantNext s) = (grantPtr s + 1) % 1980 := by
  refine (fld_setFld_same s (f := F.secGrantPtrWord) (by decide) _).trans (Nat.mod_eq_of_lt ?_)
  exact lt_of_lt_of_le (Nat.mod_lt _ (by decide)) (by decide)

theorem grantNext_sec (s : State) : (grantNext s).sec = s.sec := setFld_sec _ _ _

theorem grantDataWrite_outcome (s : State) (v : Word) : ∃ u, grantDataWrite s v = (u, C.ok) ∧ SMap.getD u.sec.grantWords (grantPtr s) 0 = v ∧
    grantPtr u = (grantPtr s + 1) % 1980 := by
  refine ⟨_, rfl, ?_, grantNext_ptr _⟩
  rw [grantNext_sec]
  exact (SMap.getD_setD _ _ _ _ _).trans (if_pos rfl)

/-- The grant of some bytes, as taken at a time. -/
def grantOf (b : List Byte) (sec : Nat) : Grant :=
  let g : Grant := ⟨fieldLE b 14 2, fieldLE b 16 8, fieldLE b 24 8, fieldLE b 32 4, false⟩
  { g with inForce := g.current sec }

theorem grant_current_iff (g : Grant) (sec : Nat) : g.current sec = true ↔ g.notBefore ≤ sec ∧ sec < g.notAfter := by
  rw [Grant.current, Bool.and_eq_true, decide_eq_true_eq, decide_eq_true_eq]

theorem grantOf_fields (b : List Byte) (sec : Nat) : (grantOf b sec).rights = fieldLE b 14 2 ∧ (grantOf b sec).notBefore = fieldLE b 16 8 ∧
    (grantOf b sec).notAfter = fieldLE b 24 8 ∧ ((grantOf b sec).inForce = true ↔ (grantOf b sec).notBefore ≤ sec ∧ sec < (grantOf b sec).notAfter) :=
  ⟨rfl, rfl, rfl, grant_current_iff _ _⟩

theorem grantCommit_untrusted (h : uncertain s = true) : grantCommit s = (s, C.secTimeUntrusted) := if_pos h

theorem grantCommit_bad (h : uncertain s = false) (hg : grantOk s (stagedGrant s) = false) : grantCommit s = (s, C.secGrantBad) := by
  unfold grantCommit
  dsimp only
  rw [if_neg (by rw [h]; decide), if_pos hg]

theorem grantCommit_taken (h : uncertain s = false) (hg : grantOk s (stagedGrant s) = true) : ∃ u, grantCommit s = (u, C.ok) ∧
    u.sec.grant = some (grantOf (stagedGrant s) s.tb.sec) ∧ u.sec.grantMax = some (fieldLE (stagedGrant s) 32 4) := by
  unfold grantCommit
  generalize stagedGrant s = b at hg ⊢
  dsimp only
  rw [if_neg (by rw [h]; decide), if_neg (by rw [hg]; decide)]
  generalize reportNow (endGrant s) C.secGrantAccepted (srcActive s) 0xFFFF [] false true = x
  exact ⟨_, rfl, rfl, rfl⟩

theorem grantCmdWrite_refused (hc : wfld v F.secGrantCmdCommit = 1) {st : Nat} (h : grantCommit s = (s, st)) (hst : st ≠ C.ok) :
    grantCmdWrite s v = (s, st) := by
  unfold grantCmdWrite
  dsimp only
  rw [if_pos hc, h]
  exact if_pos (.inl hst)

theorem grantCmdWrite_taken (hc : wfld v F.secGrantCmdCommit = 1) (h : grantCommit s = (u, C.ok)) :
    grantCmdWrite s v = (if wfld v F.secGrantCmdRevoke = 0 then u else endGrant u, C.ok) := by
  unfold grantCmdWrite
  dsimp only
  rw [if_pos hc, h]
  by_cases hr : wfld v F.secGrantCmdRevoke = 0
  · rw [if_pos (.inr hr), if_pos hr]
  · rw [if_neg fun h => h.elim (fun h => h rfl) hr, if_neg hr]

theorem grantCmdWrite_none (hc : wfld v F.secGrantCmdCommit = 0) :
    grantCmdWrite s v = (if wfld v F.secGrantCmdRevoke = 0 then s else endGrant s, C.ok) := by
  unfold grantCmdWrite
  dsimp only
  rw [if_neg (show ¬wfld v F.secGrantCmdCommit = 1 by rw [hc]; decide)]
  by_cases hr : wfld v F.secGrantCmdRevoke = 0
  · rw [if_pos (.inr hr), if_pos hr]
  · rw [if_neg fun h => h.elim (fun h => h rfl) hr, if_neg hr]

theorem grantCmd_answered (hs : Served s o true) {c : Instr} (hc : c = Instr.secGrantCommit o v ∨ c = Instr.secGrantRevoke o v) {st : Nat}
    (h : grantCmdWrite s v = (u, st)) : RegAnswered c s o st 0 u := by
  rcases hc with rfl | rfl
  · exact regAnswered_of_write (f := fun s => grantCmdWrite s v) hs rfl h
  · exact regAnswered_of_write (f := fun s => grantCmdWrite s v) hs rfl h

theorem grantExpiry_eq {g : Grant} (hg : s.sec.grant = some g) (hp : s.phase = .running) :
    exec .grantExpiry s = done (if g.notAfter ≤ s.tb.sec then endGrant s else s) := by
  refine congrArg done ?_
  rw [hg]
  dsimp only
  simp only [hp, and_true]

theorem grantNotBefore_eq {g : Grant} (hg : s.sec.grant = some g) (hp : s.phase = .running) :
    exec .grantNotBefore s = done (if g.current s.tb.sec = true then { s with sec := { s.sec with grant := some { g with inForce := true } } } else s) := by
  refine congrArg done ?_
  rw [hg]
  dsimp only
  simp only [hp, and_true]

/-! ### Attestation -/

theorem attCtl_plain (s : State) (v : Word) : plainWrite s ⟨.secAttCtl, 0, 0, 0⟩ v = (stored s ⟨.secAttCtl, 0, 0, 0⟩ v, C.ok) :=
  plainWrite_of_open (r := ⟨.secAttCtl, 0, 0, 0⟩) (by decide) (.inl (by decide))

theorem attCtlWrite_busy (hg : wfld v F.secAttCtlGo = 1) (h : s.sec.attesting ≠ none) : attCtlWrite s v = (s, C.secAttBusy) :=
  if_pos ⟨hg, Option.isSome_iff_ne_none.2 h⟩

theorem attCtlWrite_idle (hg : wfld v F.secAttCtlGo = 0) : ∃ u, attCtlWrite s v = (u, C.ok) ∧ u.sec = s.sec ∧
    fld u F.secAttCtlSource = wfld v F.secAttCtlSource := by
  unfold attCtlWrite
  dsimp only
  rw [if_neg fun h => by rw [hg] at h; exact absurd h.1 (by decide), attCtl_plain, if_pos hg]
  exact ⟨_, rfl, rfl, fldAt_stored_full (f := F.secAttCtlSource) (by decide) (by decide) (by decide) (by decide) (by decide) (by decide) (by decide) (by decide)⟩

theorem attestationReady_eq {nonce : List Byte} (hn : s.sec.attesting = some nonce) (hp : s.phase = .running) :
    exec .attestationReady s = done (if s.active.isSome = true then { s with sec := { s.sec with attesting := none, attReport := attReport s nonce } } else s) := by
  refine congrArg done ?_
  rw [hn]
  dsimp only
  simp only [hp, and_true]

theorem attCtlWrite_go (hg : wfld v F.secAttCtlGo = 1) (h : s.sec.attesting = none) : ∃ u, attCtlWrite s v = (u, C.ok) ∧ u.sec.attReport = [] ∧
    u.sec.attesting = some (attNonce s) := by
  unfold attCtlWrite
  dsimp only
  rw [if_neg fun hx => by rw [h] at hx; exact absurd hx.2 (by decide), if_neg (show ¬wfld v F.secAttCtlGo = 0 by rw [hg]; decide)]
  exact ⟨_, rfl, rfl, rfl⟩

end Sys2Proof.Machine

namespace Sys2Proof.Proofs
open Sys2Proof Sys2Proof.Machine

/-- Settles O58: each write of the security block by the branch of its register that its bits select, and each timer by its condition. -/
theorem securityStateChanges : Obligations.SecurityStateChanges := by
  refine ⟨fun s o v hs => ⟨fun c hc => ⟨fun hk => ?ctlDenied, fun hk hv hh => ?ctlHeld, fun hk h => ?ctl⟩, fun hc => ?ret, fun hc => ?retNone,
      fun cut h => ?lcDenied, fun hkey hal hinc => ⟨?lcCut, ?lcMade⟩,
      fun c hc => ⟨fun h0 h1 => ?keyNone, fun hk h => ?keyDenied, fun hk hcm hst => ?keyEmpty,
        fun k hk hcm hst hk0 => ⟨fun hn => ?keyRefused, fun hkeep he => ?keyCommitted, fun hkeep he hem => ?keyErased, fun hkeep he hem => ?keyKept⟩,
        fun hk hcm he => ⟨fun hem => ?eraseOk, fun hem => ?eraseRefused⟩⟩,
      ?grantData, fun c hc => ⟨fun hcm => ⟨fun hu => ?untrusted, fun hu hg => ?grantBad, fun hu hg => ?grantTaken⟩, fun hcm hr => ?revoked, fun hcm hr => ?grantNone⟩,
      fun hg => ?attIdle, fun hg => ⟨fun ha => ?attBusy, fun ha => ?attGo⟩⟩,
    fun s o hs => ?grantRead, fun s hp => ⟨fun hg => ?noGrant, fun g hg => ⟨fun h => ?expires, fun h => ?stays, fun hb ha => ?begins, fun h => ?waits⟩,
      fun ha hr => ?timer, fun h => ?timerIdle, fun nonce ha hn => ?signed, fun h => ?unsigned⟩⟩
  case ctlDenied => exact secCtl_answered hs hc (secCtlWrite_denied hk v)
  case ctlHeld => exact secCtl_answered hs hc (secCtlWrite_of_held hk hv hh)
  case ctl =>
    obtain ⟨u, hu, h⟩ := secCtlWrite_accepted hk h
    exact ⟨u, secCtl_answered hs hc hu, h⟩
  case ret => exact ⟨_, regAnswered_of_write (f := fun s => secRetCmdWrite s v) hs rfl (congrArg (·, C.ok) (if_pos hc)), commitRet_outcome s⟩
  case retNone => exact regAnswered_of_write (f := fun s => secRetCmdWrite s v) hs rfl (congrArg (·, C.ok) (if_neg (by rw [hc]; decide)))
  case lcDenied =>
    refine (secLcCmd_eq hs (lcCmdWrite_denied h) cut).trans (congrArg done ?_)
    split
    · rfl
    · rename_i hn
      refine lcFinish_none ?_
      cases hi : s.sec.incomplete with
      | none => exact hi
      | some d => exact absurd (by rw [hi]; cases cut <;> rfl) hn
  case lcCut =>
    obtain ⟨u, hu, hsec⟩ := lcCmdWrite_accepted hkey hal
    exact ⟨_, (secLcCmd_eq hs hu true).trans (congrArg done (if_pos rfl)), List.mem_append_right _ (List.mem_singleton.2 rfl),
      (congrArg Security.lc hsec :), (congrArg Security.incomplete hsec :)⟩
  case lcMade =>
    obtain ⟨u, hu, hsec⟩ := lcCmdWrite_accepted hkey hal
    obtain ⟨hout, h⟩ := lcFinish_outcome (s := emit u (.reg o C.ok 0)) (congrArg Security.incomplete hsec)
    refine ⟨_, (secLcCmd_eq hs hu false).trans (congrArg done (if_neg (by rw [hinc]; decide))), ?_, h⟩
    rw [hout]
    exact List.mem_append_right _ (List.mem_singleton.2 rfl)
  case keyNone => exact keyCmd_answered hs hc (if_pos ⟨h0, h1⟩)
  case keyDenied =>
    refine keyCmd_answered hs hc ((if_neg fun hx => ?_).trans (if_pos hk))
    rcases h with h | h
    · rw [hx.1] at h
      cases h
    · rw [hx.2] at h
      cases h
  case keyEmpty => exact keyCmd_answered hs hc (keyCmdWrite_refused hk hcm (keyCommit_empty hst))
  case keyRefused => exact keyCmd_answered hs hc (keyCmdWrite_refused hk hcm ((keyCommit_kind hst hk0).trans (keyPut_refused hn)))
  case keyCommitted =>
    refine keyCmd_answered hs hc ((keyCmdWrite_commit hk hcm).trans ((if_pos (.inr he)).trans ((keyCommit_kind hst hk0).trans (keyPut_kept hkeep))))
  case keyErased =>
    have hx := keyPut_kept ((keysKept_after s ⟨k, stagedKeyBytes s⟩ ⟨0, []⟩).2 hem)
    rw [keysSet_twice] at hx
    exact keyCmd_answered hs hc ((keyCmdWrite_both hk hcm he ((keyCommit_kind hst hk0).trans (keyPut_kept hkeep))).trans hx)
  case keyKept =>
    have hx := keyPut_refused fun h => hem ((keysKept_after s ⟨k, stagedKeyBytes s⟩ ⟨0, []⟩).1 h)
    exact keyCmd_answered hs hc ((keyCmdWrite_both hk hcm he ((keyCommit_kind hst hk0).trans (keyPut_kept hkeep))).trans hx)
  case eraseOk => exact keyCmd_answered hs hc ((keyCmdWrite_erase hk hcm he).trans (keyPut_kept hem))
  case eraseRefused => exact keyCmd_answered hs hc ((keyCmdWrite_erase hk hcm he).trans (keyPut_refused hem))
  case grantData =>
    obtain ⟨u, hu, h⟩ := grantDataWrite_outcome s v
    exact ⟨u, regAnswered_of_write (f := fun s => grantDataWrite s v) hs rfl hu, h⟩
  case untrusted => exact grantCmd_answered hs hc (grantCmdWrite_refused hcm (grantCommit_untrusted hu) (show C.secTimeUntrusted ≠ C.ok by decide))
  case grantBad => exact grantCmd_answered hs hc (grantCmdWrite_refused hcm (grantCommit_bad hu hg) (show C.secGrantBad ≠ C.ok by decide))
  case grantTaken =>
    obtain ⟨u, hu, hgrant, hmax⟩ := grantCommit_taken hu hg
    refine ⟨_, grantCmd_answered hs hc (grantCmdWrite_taken hcm hu), ?_, fun hr => ?_, fun hr => ⟨_, ?_, grantOf_fields (stagedGrant s) s.tb.sec⟩⟩
    · split
      · exact hmax
      · rw [endGrant_sec]
        exact hmax
    · rw [if_neg (by rw [hr]; decide), endGrant_sec]
    · rw [if_pos hr]
      exact hgrant
  case revoked =>
    refine ⟨_, grantCmd_answered hs hc (grantCmdWrite_none hcm), ?_⟩
    rw [if_neg (by rw [hr]; decide), endGrant_sec]
    exact ⟨rfl, rfl⟩
  case grantNone => exact grantCmd_answered hs hc ((grantCmdWrite_none hcm).trans (congrArg (·, C.ok) (if_pos hr)))
  case attIdle =>
    obtain ⟨u, hu, h⟩ := attCtlWrite_idle (s := s) hg
    exact ⟨u, regAnswered_of_write (f := fun s => attCtlWrite s v) hs rfl hu, h⟩
  case attBusy => exact regAnswered_of_write (f := fun s => attCtlWrite s v) hs rfl (attCtlWrite_busy hg ha)
  case attGo =>
    obtain ⟨u, hu, h⟩ := attCtlWrite_go hg ha
    exact ⟨u, regAnswered_of_write (f := fun s => attCtlWrite s v) hs rfl hu, h⟩
  case grantRead => exact ⟨_, regAnswered_of_read (f := grantDataRead) hs rfl rfl, grantNext_ptr s, grantNext_sec s⟩
  case noGrant => exact ⟨congrArg done (by rw [hg]), congrArg done (by rw [hg])⟩
  case expires => exact ⟨_, (grantExpiry_eq hg hp).trans (congrArg done (if_pos h)), congrArg Security.grant (endGrant_sec s)⟩
  case stays => exact (grantExpiry_eq hg hp).trans (congrArg done (if_neg (by omega)))
  case begins => exact ⟨_, (grantNotBefore_eq hg hp).trans (congrArg done (if_pos ((grant_current_iff g _).2 ⟨hb, ha⟩))), rfl⟩
  case waits =>
    refine (grantNotBefore_eq hg hp).trans (congrArg done (if_neg fun hx => ?_))
    have := (grant_current_iff g _).1 hx
    omega
  case timer => exact ⟨_, congrArg done (if_pos ⟨hp, Option.isSome_iff_ne_none.2 ha, hr⟩), commitRet_outcome s⟩
  case timerIdle =>
    refine congrArg done (if_neg fun hx => ?_)
    rcases h with h | h
    · exact absurd hx.2.1 (by rw [h]; decide)
    · exact absurd hx.2.2 (by rw [h]; decide)
  case signed => exact ⟨_, (attestationReady_eq hn hp).trans (congrArg done (if_pos (Option.isSome_iff_ne_none.2 ha))), rfl, rfl, rfl⟩
  case unsigned =>
    cases hn : s.sec.attesting with
    | none => exact congrArg done (by rw [hn])
    | some nonce =>
      have ha : s.active = none := h.resolve_right (by rw [hn]; exact Option.some_ne_none _)
      exact (attestationReady_eq hn hp).trans (congrArg done (if_neg (by rw [ha]; decide)))

end Sys2Proof.Proofs
end

section
/-!
SUPPORT. What a command may change while its session still waits for the answer (R453), and what reads by the host change (R234, R255, R458).
-/
namespace Sys2Proof.Machine
open Sys2Proof

variable {s t u v : State} {h : CtrHdr} {code n : Nat} {b : List Byte} {x : Session}

/-! ### Sessions kept -/

/-- What of a session tells whether it can be answered, and whether a request of it waits. -/
def Session.place (x : Session) : Nat × List CtrReq := (x.id, x.backlog)

/-- From `s` to `t` the hubs stay as they are but for their recorders, the sessions and what they wait for stay, a retired cell stays so, and
nothing that was sent is lost. -/
structure Conversing (s t : State) : Prop where
  active : t.active = s.active
  ha : t.ha.core = s.ha.core
  hb : t.hb.core = s.hb.core
  sessions : t.sessions.map Session.place = s.sessions.map Session.place
  retired : ∀ c r, SMap.find s.pl.retired c = some r → SMap.find t.pl.retired c = some r
  out : OutGrows s t

theorem findSession_isSome (s : State) (n : Nat) : (findSession s n).isSome ↔ ∃ p ∈ s.sessions.map Session.place, p.1 = n := by
  rw [findSession, List.find?_isSome]
  simp [Session.place]

theorem noBacklog_iff (s : State) : (∀ y ∈ s.sessions, y.backlog = []) ↔ ∀ p ∈ s.sessions.map Session.place, p.2 = [] := by
  rw [List.forall_mem_map]
  rfl

/-- A state reached while a session waits can answer it as well. -/
theorem Answering.conversing (hu : Answering s h u) (k : Conversing u t) : Answering s h t where
  active := k.active.trans hu.active
  session := by
    rw [← Option.isSome_iff_exists, findSession_isSome, k.sessions, ← findSession_isSome]
    exact hu.findSession
  noBacklog := by
    rw [noBacklog_iff, k.sessions, ← noBacklog_iff]
    exact hu.noBacklog
  out := OutGrows.trans hu.out k.out

theorem places_of_cores (hs : t.sessions.map Session.core = s.sessions.map Session.core) :
    t.sessions.map Session.place = s.sessions.map Session.place := by
  have hcore (l : List Session) : l.map Session.place = (l.map Session.core).map Session.place := by
    rw [List.map_map]
    rfl
  rw [hcore, hs, ← hcore]

namespace Conversing

theorem of_eq (ha : t.active = s.active) (h1 : t.ha.core = s.ha.core) (h2 : t.hb.core = s.hb.core) (hs : t.sessions = s.sessions)
    (hr : t.pl.retired = s.pl.retired) (ho : t.out = s.out) : Conversing s t :=
  ⟨ha, h1, h2, by rw [hs], fun _ _ h => by rw [hr]; exact h, .of_eq ho⟩
theorem refl (s : State) : Conversing s s := of_eq rfl rfl rfl rfl rfl rfl
theorem trans (h : Conversing s t) (k : Conversing t u) : Conversing s u :=
  ⟨k.active.trans h.active, k.ha.trans h.ha, k.hb.trans h.hb, k.sessions.trans h.sessions, fun c r hr => k.retired c r (h.retired c r hr),
    h.out.trans k.out⟩

theorem ite {p : Prop} [Decidable p] (h : Conversing s t) (k : Conversing s u) : Conversing s (if p then t else u) := by
  split
  · exact h
  · exact k

theorem foldl {α : Type} (f : State → α → State) (hf : ∀ s a, Conversing s (f s a)) (l : List α) (s : State) : Conversing s (l.foldl f s) :=
  List.foldlRecOn _ _ (refl s) fun _ h a _ => h.trans (hf _ a)

/-- The state without what links, stacks and bundles change says what is kept. -/
theorem of_steps (h : StepWork s t) : Conversing s t where
  active := h.active
  ha := (congrArg State.ha h.beside :)
  hb := (congrArg State.hb h.beside :)
  sessions := places_of_cores (congrArg State.sessions h.beside :)
  retired c r hr := by
    have he : t.pl.retired = s.pl.retired := (congrArg (fun x : State => x.pl.retired) h.beside :)
    rw [he]
    exact hr
  out := h.out

theorem of_bundles (h : BundleWork s t) : Conversing s t := of_steps h.stepWork
theorem of_links (h : LinkWork s t) : Conversing s t := of_steps h.stepWork

theorem of_core (h : SameCore s t) (ho : OutGrows s t) : Conversing s t where
  active := h.active
  ha := (congrArg State.ha h :)
  hb := (congrArg State.hb h :)
  sessions := places_of_cores (congrArg State.sessions h :)
  retired c r hr := by rw [h.pl]; exact hr
  out := ho

theorem report (s : State) (code src handle : Nat) (d : List Byte) : Conversing s (report s code src handle d) :=
  of_core ((SameCore.refl s).report _ _ _ _) (.report s _ _ _ _)
theorem setFldAt (s : State) (f : Fld) (d i j v : Nat) : Conversing s (setFldAt s f d i j v) := of_eq rfl rfl rfl rfl rfl rfl
theorem setEventAt (s : State) (f : Fld) (d i j : Nat) : Conversing s (setEventAt s f d i j) := of_eq rfl rfl rfl rfl rfl rfl
theorem setEvent (s : State) (f : Fld) : Conversing s (setEvent s f) := of_eq rfl rfl rfl rfl rfl rfl
theorem satFldAt (s : State) (f : Fld) (d i j v : Nat) : Conversing s (satFldAt s f d i j v) := of_eq rfl rfl rfl rfl rfl rfl
theorem bumpFldAt (s : State) (f : Fld) (d i j v : Nat) : Conversing s (bumpFldAt s f d i j v) := of_eq rfl rfl rfl rfl rfl rfl
theorem bumpEv (s : State) (ev : Nat) (c : EvCtx) (n : Nat) : Conversing s (bumpEv s ev c n) := of_bundles (.bumpEv s ev c n)
theorem modStack (s : State) (n : Nat) (f : Stack → Stack) : Conversing s (modStack s n f) := of_eq rfl rfl rfl rfl rfl rfl
theorem modBundle (s : State) (n : Nat) (f : Bundle → Bundle) : Conversing s (modBundle s n f) := of_bundles (.modBundle s n f)
theorem modStation (s : State) (n i : Nat) (f : Station → Station) : Conversing s (modStation s n i f) := modBundle s n _
theorem takeFree (s : State) : Conversing s (takeFree s).2 := of_eq rfl rfl rfl rfl rfl rfl
theorem setRegWord (s : State) (r : RegRef) (w : Word) : Conversing s (setRegWord s r w) := of_eq rfl rfl rfl rfl rfl rfl

/-! ### Stacks and scratch -/

theorem repairStart (s : State) (n key : Nat) : Conversing s (repairStart s n key) := modStack s n _

theorem stackCe (s : State) (n w : Nat) : Conversing s (stackCe s n w) := by
  unfold Machine.stackCe
  extract_lets d j s1 key
  have h1 : Conversing s s1 := ((bumpEv s _ _ _).trans (satFldAt _ _ _ _ _ _)).trans (setEventAt _ _ _ _ _)
  split
  · exact h1
  · exact h1.trans (ite ((modStack _ _ _).trans (repairStart _ _ _)) (modStack _ _ _))

theorem stackUe (s : State) (n w : Nat) : Conversing s (stackUe s n w) := by
  unfold Machine.stackUe
  extract_lets d j s1 s2 s3
  have h1 : Conversing s s1 := ((bumpEv s _ _ _).trans (satFldAt _ _ _ _ _ _)).trans (setEventAt _ _ _ _ _)
  have h3 : Conversing s1 s3 := ((setFldAt s1 _ _ _ _ _).trans (setFldAt _ _ _ _ _ _)).trans (setFldAt _ _ _ _ _ _)
  exact ((h1.trans h3).trans (report _ _ _ _ _)).trans (repairStart _ _ _)

theorem stackFound (s : State) (n : Nat) (m : Mem) (fixed : List Nat) (bad : List (Nat × Bool)) : Conversing s (stackFound s n m fixed bad) :=
  ((modStack s n _).trans (foldl _ (fun s w => stackCe s n w) _ _)).trans (foldl _ (fun s _ => ite (refl s) (stackUe s n _)) _ _)

/-- One more cell retired. -/
theorem retire (s : State) {cell : Nat} (hn : retiredCell s cell = false) (k : Retired) :
    Conversing s { s with pl := { s.pl with retired := SMap.insert s.pl.retired cell k } } where
  active := rfl
  ha := rfl
  hb := rfl
  sessions := rfl
  retired c r hr := by
    refine (SMap.find_insert_ne _ _ fun he => ?_).trans hr
    subst he
    rw [retiredCell, hr] at hn
    cases hn
  out := .of_eq rfl

theorem keptChanged (s : State) : Conversing s (keptChanged s) := of_eq rfl rfl rfl rfl rfl rfl

theorem softRetire (s : State) (cell : Nat) : Conversing s (softRetire s cell) := by
  unfold Machine.softRetire
  split
  · exact refl s
  · rename_i hn
    have hfree : retiredCell s cell = false := (by simpa using hn : goodCell s cell = true ∧ retiredCell s cell = false).2
    extract_lets _ s1
    have h1 : Conversing s s1 := ((retire s hfree .soft).trans (setEvent _ _)).trans (keptChanged _)
    split
    · exact ite h1 (h1.trans (modStation _ _ _ _))
    · exact h1

theorem softCause (s : State) (cell : Nat) : Conversing s (softCause s cell) :=
  ite (refl s) (ite (softRetire s cell) (report s _ _ _ _))

theorem scratchFound (s : State) (cell : Nat) (c : EvCtx) (ce ue : Nat) : Conversing s (scratchFound s cell c ce ue) := by
  unfold Machine.scratchFound
  extract_lets d s1 s2 w overs _ s3
  have h1 : Conversing s s1 := ite (refl s) (((bumpEv s _ _ _).trans (satFldAt _ _ _ _ _ _)).trans (setEventAt _ _ _ _ _))
  have h2 : Conversing s s2 := h1.trans (ite (refl _) (((bumpEv _ _ _ _).trans (satFldAt _ _ _ _ _ _)).trans (setEventAt _ _ _ _ _)))
  have h3 : Conversing s s3 := h2.trans (of_eq rfl rfl rfl rfl rfl rfl)
  exact ite h2 (ite (h3.trans (softCause _ _)) h3)

/-! ### Reads of registers -/

theorem dbgFetch (s : State) (w : Where) (item index : Nat) : Conversing s (dbgFetch s w item index).1 := by
  unfold Machine.dbgFetch
  split
  · split
    · exact refl s
    · exact (modStation s _ _ _).trans (scratchFound _ _ _ _ _)
  · exact refl s

theorem dbgLoRead (s : State) (d : Nat) : Conversing s (dbgLoRead s d).1 := by
  have put (s : State) (w w' : Word) (r r' : RegRef) : Conversing s (Machine.setRegWord (Machine.setRegWord s r w) r' w') := of_eq rfl rfl rfl rfl rfl rfl
  have shown (s : State) (w w' : Word) (r r' : RegRef) : Conversing s (Machine.setRegWord (Machine.setRegWord (Machine.takeFree s).2 r w) r' w') :=
    of_eq rfl rfl rfl rfl rfl rfl
  unfold Machine.dbgLoRead
  dsimp only
  split
  · exact refl s
  · split
    · exact shown s _ _ _ _
    · rename_i w _
      split
      · exact refl s
      · have hf := dbgFetch s w (dbgItem s d) (dbgIndex s d)
        split
        · rename_i heq
          rw [heq] at hf
          exact hf.trans (put _ _ _ _ _)
        · rename_i heq
          rw [heq] at hf
          exact hf.trans (shown _ _ _ _ _)

theorem srvParamRead (s : State) : Conversing s (srvParamRead s).1 := by
  unfold Machine.srvParamRead
  split
  · exact refl s
  · dsimp only
    split
    · exact refl s
    · split
      · exact refl s
      · exact setFldAt s _ _ _ _ _

theorem pctValLoRead (s : State) : Conversing s (pctValLoRead s).1 := by
  unfold Machine.pctValLoRead
  dsimp only
  split
  · exact of_eq rfl rfl rfl rfl rfl rfl
  · split
    · exact setRegWord s _ _
    · exact setRegWord s _ _

theorem readServed (s : State) (r : RegRef) : Conversing s (readServed s r).1 := by
  unfold Machine.readServed
  dsimp only
  split
  case h_1 => exact of_eq rfl rfl rfl rfl rfl rfl
  case h_2 => exact of_eq rfl rfl rfl rfl rfl rfl
  case h_3 => exact pctValLoRead s
  case h_4 => exact setRegWord s _ _
  case h_9 => exact srvParamRead s
  case h_10 => exact dbgLoRead s _
  case h_11 => exact ite (takeFree s) (refl s)
  all_goals exact setFldAt s _ _ _ _ _

theorem readAt (s : State) (a : Nat) : Conversing s (readAt s a).1 := by
  unfold Machine.readAt
  split
  · exact refl s
  · exact readServed s _

end Conversing

/-! ### Memory kept -/

/-- A stack but for the accounts of its rows and the repairs under way. -/
def Stack.lasting (k : Stack) : Stack := { k with rows := [], repairing := [] }

theorem Stack.lasting_rows (k : Stack) (r : SMap RowAcct) : { k with rows := r }.lasting = k.lasting := rfl

theorem Stack.lasting_repairing (k : Stack) (p : Prop) [Decidable p] (l : List Nat) : (if p then k else { k with repairing := l }).lasting = k.lasting := by
  split <;> rfl

/-- From `s` to `t` a stack is as it was but for those. -/
def LastKept (n : Nat) (s t : State) : Prop := (stackOf t n).map Stack.lasting = (stackOf s n).map Stack.lasting

namespace LastKept

theorem refl (n : Nat) (s : State) : LastKept n s s := rfl
theorem trans (h : LastKept n s t) (k : LastKept n t u) : LastKept n s u := Eq.trans k h
theorem of_dies (h : t.dies = s.dies) : LastKept n s t := congrArg (Option.map _) (stackOf_of_dies h n)

theorem foldl {α : Type} (f : State → α → State) (hf : ∀ s a, LastKept n s (f s a)) (l : List α) (s : State) : LastKept n s (l.foldl f s) :=
  List.foldlRecOn _ _ (refl n s) fun _ h a _ => h.trans (hf _ a)

theorem ite {p : Prop} [Decidable p] (h : LastKept n s t) (k : LastKept n s u) : LastKept n s (if p then t else u) := by
  split
  · exact h
  · exact k

theorem modStack (s : State) {f : Stack → Stack} (hf : ∀ k, (f k).lasting = k.lasting) : LastKept n s (modStack s n f) := by
  rw [LastKept, stackOf_modStack, if_pos rfl, Option.map_map]
  exact congrArg (fun g => (stackOf s n).map g) (funext hf)

theorem report (s : State) (code src handle : Nat) (d : List Byte) : LastKept n s (report s code src handle d) := of_dies (report_dies _ _ _ _ _)
theorem setFldAt (s : State) (f : Fld) (d i j v : Nat) : LastKept n s (setFldAt s f d i j v) := of_dies (setFldAt_dies _ _ _ _ _ _)
theorem satFldAt (s : State) (f : Fld) (d i j v : Nat) : LastKept n s (satFldAt s f d i j v) := of_dies (satFldAt_dies _ _ _ _ _ _)
theorem bumpFldAt (s : State) (f : Fld) (d i j v : Nat) : LastKept n s (bumpFldAt s f d i j v) := of_dies (bumpFldAt_dies _ _ _ _ _ _)
theorem bumpEv (s : State) (ev : Nat) (c : EvCtx) (k : Nat) : LastKept n s (bumpEv s ev c k) := of_dies (bumpEv_dies _ _ _ _)

theorem stkEvent (s : State) (code k : Nat) : LastKept n s (stkEvent s n code k) := bumpEv s _ _ _

theorem repairStart (s : State) (key : Nat) : LastKept n s (repairStart s n key) := by
  unfold Machine.repairStart
  exact modStack s fun k => Stack.lasting_repairing k _ _

theorem stackCe (s : State) (w : Nat) : LastKept n s (stackCe s n w) := by
  unfold Machine.stackCe
  extract_lets d j s1 key
  have h1 : LastKept n s s1 := ((stkEvent s _ _).trans (satFldAt _ _ _ _ _ _)).trans (setFldAt _ _ _ _ _ _)
  split
  · exact h1
  · extract_lets a ces hit s2
    have h2 : LastKept n s s2 := h1.trans (modStack s1 fun k => Stack.lasting_rows k _)
    exact ite (h2.trans (repairStart s2 key)) h2

theorem stackUe (s : State) (w : Nat) : LastKept n s (stackUe s n w) := by
  unfold Machine.stackUe
  extract_lets d j s1 s2 s3
  have h1 : LastKept n s s1 := ((stkEvent s _ _).trans (satFldAt _ _ _ _ _ _)).trans (setFldAt _ _ _ _ _ _)
  have h3 : LastKept n s1 s3 := ((setFldAt s1 _ _ _ _ _).trans (setFldAt _ _ _ _ _ _)).trans (setFldAt _ _ _ _ _ _)
  exact ((h1.trans h3).trans (report _ _ _ _ _)).trans (repairStart _ _)

theorem activate (s : State) (acts : List (Nat × Nat)) : LastKept n s (activate s n acts) := by
  unfold Machine.activate
  refine foldl _ (fun s e => ?_) _ s
  dsimp only
  split
  · exact refl n s
  · refine ((modStack s ?_).trans (stkEvent _ _ _)).trans (bumpFldAt _ _ _ _ _ _)
    exact fun k => Stack.lasting_rows k _

theorem mem (h : LastKept n s t) : (stackOf t n).map (·.mem) = (stackOf s n).map (·.mem) := by
  have hmem := congrArg (Option.map Stack.mem) h
  rw [Option.map_map, Option.map_map] at hmem
  exact hmem

end LastKept

/-- What a correcting read found is what the stack then stores. -/
theorem stackFound_lasting {k : Stack} (hk : stackOf s n = some k) (m : Mem) (fixed : List Nat) (bad : List (Nat × Bool)) :
    (stackOf (stackFound s n m fixed bad) n).map Stack.lasting = some { k with mem := m }.lasting := by
  have hkept : LastKept n (modStack s n fun k => { k with mem := m }) (stackFound s n m fixed bad) :=
    (LastKept.foldl _ (fun s w => LastKept.stackCe s w) _ _).trans (LastKept.foldl _ (fun s _ => LastKept.ite (LastKept.refl n s) (LastKept.stackUe s _)) _ _)
  refine Eq.trans hkept ?_
  rw [stackOf_modStack, if_pos rfl, hk]
  rfl

theorem stackFound_mem {k : Stack} (hk : stackOf s n = some k) (m : Mem) (fixed : List Nat) (bad : List (Nat × Bool)) :
    (stackOf (stackFound s n m fixed bad) n).map (·.mem) = some m := by
  have hmem := congrArg (Option.map Stack.mem) (stackFound_lasting hk m fixed bad)
  rw [Option.map_map] at hmem
  exact hmem

/-! ### Stack memory that the host reaches (R253, R258) -/

theorem awaitRepairs_of_none {k : Stack} (hk : stackOf s n = some k) (hr : k.repairing = []) (off len : Nat) : awaitRepairs s n off len = s := by
  rw [awaitRepairs, hk]
  dsimp only
  rw [hr]
  rfl

/-- No row is under repair: an access only activates its rows. -/
theorem openRows_of_none {k : Stack} (hk : stackOf s n = some k) (hr : k.repairing = []) (off len : Nat) :
    openRows s n off len = activate s n ((rowsIn off len).map fun r => (r, 1)) := by
  rw [openRows, awaitRepairs_of_none hk hr]

theorem openRows_mem {k : Stack} (hk : stackOf s n = some k) (hr : k.repairing = []) (off len : Nat) :
    ∃ k', stackOf (openRows s n off len) n = some k' ∧ k'.mem = k.mem := by
  have hkept := (LastKept.activate (n := n) s ((rowsIn off len).map fun r => (r, 1))).mem
  rw [← openRows_of_none hk hr, hk] at hkept
  exact Option.map_eq_some_iff.1 hkept

theorem Conversing.openRows (s : State) (n off len : Nat) : Conversing s (openRows s n off len) := of_steps (.openRows s n off len)

/-! ### The state on which a request is served -/

/-- Taking a request writes no register but that which counts the datagrams discarded. -/
theorem ServedOn.regWord (hv : ServedOn s h x code b v) {r : RegRef} (hr : r.addr ≠ (⟨.ctrStat, 0, 0, 0⟩ : RegRef).addr) :
    Machine.regWord v r = Machine.regWord s r := by
  have hregs (t : State) (f g : Session → Session) : (modSession (modSession { t with partials := [] } x.id f) x.id g).regs = t.regs := rfl
  have hother : r.addr ≠ (⟨F.ctrStatDiscards.reg, 0, 0, 0⟩ : RegRef).addr := hr
  have hident (t : State) (f g : Session → Session) : (modSession (modSession { t with partials := [] } x.id f) x.id g).ident = t.ident := rfl
  rw [← hv.serving, Machine.serving, regWord_of_regs (hregs (discards s 0) _ _) (hident _ _ _), discards, satFldAt, setFldAt,
    regWord_setRegWord_other s hother]

theorem ServedOn.ident (hv : ServedOn s h x code b v) : v.ident = s.ident := by
  obtain ⟨r, l, rfl⟩ := hv.frame
  rfl

theorem ServedOn.fld (hv : ServedOn s h x code b v) (f : Fld) (hf : (⟨f.reg, 0, 0, 0⟩ : RegRef).addr ≠ (⟨.ctrStat, 0, 0, 0⟩ : RegRef).addr := by decide) :
    Machine.fld v f = Machine.fld s f := by
  rw [Machine.fld, fldAt, hv.regWord hf]
  rfl

end Sys2Proof.Machine
end

section
/-!
SUPPORT. The reading commands of the Counter (R66, R68, R90, R209, R258, R406, R458).
-/
namespace Sys2Proof.Machine
open Sys2Proof

variable {s t u v : State} {h : CtrHdr} {c : Caller} {code n : Nat} {b : List Byte} {x : Session}

/-! ### Reads that do not depend on sessions -/

theorem ServedOn.postcode (hv : ServedOn s h x code b v) : postcode v = postcode s := hv.fld F.fabPostcodePostcode

theorem ServedOn.resolve (hv : ServedOn s h x code b v) (a : Nat) : resolve v a = resolve s a := by
  rw [Machine.resolve, Machine.resolve, hv.ident]

theorem ServedOn.sec (hv : ServedOn s h x code b v) : v.sec = s.sec := by
  obtain ⟨r, l, rfl⟩ := hv.frame
  rfl

theorem ServedOn.byHandle (hv : ServedOn s h x code b v) (a : Nat) : byHandle v a = byHandle s a := by
  obtain ⟨r, l, rfl⟩ := hv.frame
  rfl

theorem ServedOn.stackOf (hv : ServedOn s h x code b v) (k : Nat) : stackOf v k = stackOf s k := stackOf_of_dies hv.dies k

theorem ServedOn.view_bndStat (hv : ServedOn s h x code b v) : view v ⟨.bndStat, 0, 0, 0⟩ = view s ⟨.bndStat, 0, 0, 0⟩ := by
  obtain ⟨r, l, rfl⟩ := hv.frame
  rfl

theorem ServedOn.view_idPart (hv : ServedOn s h x code b v) : view v ⟨.idPart, 0, 0, 0⟩ = view s ⟨.idPart, 0, 0, 0⟩ := by
  obtain ⟨r, l, rfl⟩ := hv.frame
  rfl

theorem ServedOn.regRead (hv : ServedOn s h x code b v) {r : RegRef} (hr : r.addr ≠ (⟨.ctrStat, 0, 0, 0⟩ : RegRef).addr)
    (hview : view v r = view s r) : regRead v r = regRead s r := by
  rw [Machine.regRead, Machine.regRead, fm2Port, fm2Port, hv.ident, hview, hv.regWord hr]

theorem mapEntries_of_postcode (hp : postcode t = postcode s) (bd : Bundle) (kind : Nat) : mapEntries t bd kind = mapEntries s bd kind := by
  unfold mapEntries
  split
  · rfl
  · simp only [globalAddr, hp]
  · rfl

theorem ServedOn.hostMayReach (hv : ServedOn s h x code b v) (addr len : Nat) (write : Bool) :
    hostMayReach v addr len write = hostMayReach s addr len write := by
  have harea : hostArea v = hostArea s := by
    funext n off
    rw [hostArea, hv.pl, hostArea]
  rw [Machine.hostMayReach, Machine.hostMayReach, hv.postcode, hv.stackOf, harea]

theorem ServedOn.calRecord (hv : ServedOn s h x code b v) (cls inst : Nat) : calRecord v cls inst = calRecord s cls inst := by
  obtain ⟨r, l, rfl⟩ := hv.frame
  rfl

/-! ### Consecutive reads of registers -/

theorem readRun_reads {a : Nat} {ws : List Word} (hr : ReadsInTurn s a ws u) (k : Nat) : readRun (ws.length + k) s a =
    ((readRun k u (a + 4 * ws.length)).1, (readRun k u (a + 4 * ws.length)).2.1, wordBytes ws ++ (readRun k u (a + 4 * ws.length)).2.2) := by
  induction hr with
  | none s a =>
    rw [List.length_nil, Nat.zero_add]
    rfl
  | word s a w u ws t hread _ ih =>
    have hstep : a + 4 + 4 * ws.length = a + 4 * (ws.length + 1) := by omega
    rw [List.length_cons, Nat.add_right_comm, readRun]
    dsimp only
    rw [hread, if_neg (show ¬(0 ≠ C.ok) from not_not.2 rfl), ih, hstep]
    simp [wordBytes]

theorem readRun_refused {k a : Nat} {w : Word} (hr : readAt s a = (t, code, w)) (hc : code ≠ 0) : readRun (k + 1) s a = (t, code, []) := by
  rw [readRun]
  dsimp only
  rw [hr, if_pos (show code ≠ C.ok from hc)]

theorem Conversing.readsInTurn {a : Nat} {ws : List Word} (hr : ReadsInTurn s a ws u) : Conversing s u := by
  induction hr with
  | none s a => exact refl s
  | word s a w u ws t hread _ ih =>
    have h1 := readAt s a
    rw [hread] at h1
    exact h1.trans ih

theorem svcRegRead_eq (hlen : b.length = 6) (hpos : 1 ≤ fieldLE b 4 2) (hmax : fieldLE b 4 2 ≤ 256) {l : List Byte}
    (hr : readRun (fieldLE b 4 2) v (fieldLE b 0 4) = (u, code, l)) : svcRegRead v c b = finishReq u c code l := by
  rw [svcRegRead, sized, if_pos hlen]
  dsimp only
  rw [if_neg (by omega), hr]

/-- Reads that all succeed are answered with their words. -/
theorem svcRegRead_words {ws : List Word} (hlen : b.length = 6) (hpos : 1 ≤ fieldLE b 4 2) (hmax : fieldLE b 4 2 ≤ 256)
    (hr : ReadsInTurn v (fieldLE b 0 4) ws u) (hws : ws.length = fieldLE b 4 2) : svcRegRead v c b = finishReq u c C.ok (wordBytes ws) := by
  refine svcRegRead_eq hlen hpos hmax ?_
  have hrun := readRun_reads hr 0
  rwa [Nat.add_zero, hws, readRun, List.append_nil] at hrun

/-- The first read refused ends the reads. -/
theorem svcRegRead_refused {ws : List Word} {w : Word} (hlen : b.length = 6) (hpos : 1 ≤ fieldLE b 4 2) (hmax : fieldLE b 4 2 ≤ 256)
    (hr : ReadsInTurn v (fieldLE b 0 4) ws u) (hws : ws.length < fieldLE b 4 2) (hread : readAt u (fieldLE b 0 4 + 4 * ws.length) = (t, code, w))
    (hc : code ≠ 0) : svcRegRead v c b = finishReq t c code (wordBytes ws) := by
  refine svcRegRead_eq hlen hpos hmax ?_
  obtain ⟨k, hk⟩ := Nat.exists_eq_add_of_lt hws
  have hrun := readRun_reads hr (k + 1)
  rw [readRun_refused hread hc, List.append_nil] at hrun
  rwa [hk, Nat.add_assoc]

theorem readAt_of_error {a : Nat} (hr : resolve s a = .error code) : readAt s a = (s, code, 0) := by
  rw [readAt, hr]

theorem readAt_idPart {a : Nat} (hr : resolve s a = .ok ⟨.idPart, 0, 0, 0⟩) : readAt s a = (s, C.ok, regRead s ⟨.idPart, 0, 0, 0⟩) := by
  have hafter : afterRead s ⟨.idPart, 0, 0, 0⟩ = s := rfl
  rw [readAt, hr]
  dsimp only
  rw [readServed]
  dsimp only
  rw [hafter]

/-! ### What each command answers -/

theorem svcStatus_eq {p : Hub} (ha : s.active = some p) : svcStatus s c [] = finishReq s c C.ok
    (leBytes 4 (idPartWord s).toNat ++ leBytes 4 (idPopWord s).toNat ++ leBytes 8 s.ident.serial ++ padTo 6 s.ident.mac0 ++
      padTo 6 s.ident.mac1 ++ leBytes 1 (hubIndex p) ++ leBytes 1 s.sec.lc.code ++ leBytes 4 (regRead s ⟨.bndStat, 0, 0, 0⟩).toNat) := by
  rw [svcStatus, sized, if_pos List.length_nil, ha]

theorem withHandle_of {slot a : Nat} {bd : Bundle} (hb : byHandle s a = some (slot, bd)) (f : Nat → Bundle → State) :
    withHandle s c a f = f slot bd := by
  rw [withHandle, hb]

theorem svcMapRead_eq {slot : Nat} {bd : Bundle} (hlen : b.length = 10) (hb : byHandle s (fieldLE b 0 2) = some (slot, bd))
    (hk : fieldLE b 2 1 < 3) (h0 : fieldLE b 3 1 = 0) (hn : fieldLE b 8 2 ≤ 256) : svcMapRead s c b = finishReq s c C.ok
      (leBytes 4 (fld s F.bndMapGenGen) ++ (((mapEntries s bd (fieldLE b 2 1)).drop (fieldLE b 4 4)).take (fieldLE b 8 2)).flatten) := by
  rw [svcMapRead, sized, if_pos hlen]
  dsimp only
  rw [if_neg (by omega), withHandle_of hb]

theorem svcDlqRead_eq (hlen : b.length = 2) (hd : fieldLE b 0 1 < 8) (hpos : 1 ≤ fieldLE b 1 1) (hmax : fieldLE b 1 1 ≤ 16) :
    svcDlqRead s c b = finishReq s c C.ok (((dlqOf s (fieldLE b 0 1)).take (fieldLE b 1 1)).flatMap (DlqEntry.bytes (fieldLE b 0 1))) := by
  rw [svcDlqRead, sized, if_pos hlen]
  dsimp only
  rw [if_neg (by omega)]

theorem svcDeltaRead_eq {slot : Nat} {bd : Bundle} (hlen : b.length = 2) (hb : byHandle s (fieldLE b 0 2) = some (slot, bd)) :
    svcDeltaRead s c b = finishReq s c C.ok ((withIdx bd.img.streams).flatMap (fun p =>
      if p.2.kind = 2 ∧ p.2.producer < 0xFFFE then padTo 32 (match bd.streams[p.1]? with | some y => y.delta.last | none => []) else [])) := by
  rw [svcDeltaRead, sized, if_pos hlen, withHandle_of hb] <;> rfl

theorem badLength_eq_false {k : Nat} (hmod : k % 16 = 0) (hpos : 1 ≤ k) (hmax : k ≤ 4096) : badLength k = false := by
  simp [badLength, hmod]
  omega

theorem svcMemRead_eq (hlen : b.length = 12) (hbad : badLength (fieldLE b 8 4) = false) (ha : fieldLE b 0 8 % 16 = 0)
    (hreach : hostMayReach s (fieldLE b 0 8) (fieldLE b 8 4) false = true) {r : StackRead}
    (hr : stackRead (openRows s (fieldLE b 0 8 / 2 ^ 36 % 16) (fieldLE b 0 8 % 2 ^ 36) (fieldLE b 8 4)) (fieldLE b 0 8 / 2 ^ 36 % 16) (fieldLE b 0 8 % 2 ^ 36)
      (fieldLE b 8 4) = r) : svcMemRead s c b = finishReq r.st c C.ok
        (r.bytes ++ packBits ((List.range (fieldLE b 8 4 / 16)).map (fun i => r.bad.contains (fieldLE b 0 8 % 2 ^ 36 / 16 + i)))) := by
  rw [svcMemRead, sized, if_pos hlen]
  dsimp only
  rw [hbad, ha, if_neg (by simp), hreach, if_neg (by simp), hr]

theorem svcCalSave_eq {l : List Nat} (hlen : b.length = 6) (h0 : fieldLE b 1 1 = 0) (hpos : 1 ≤ fieldLE b 4 2)
    (hl : l = (List.range (fieldLE b 4 2)).map (fieldLE b 2 2 + ·)) (hall : ∀ i ∈ l, calExists s.ident (fieldLE b 0 1) i = true) :
    svcCalSave s c b = finishReq s c C.ok (l.flatMap (fun i => wordBytes (calRecord s (fieldLE b 0 1) i))) := by
  rw [svcCalSave, sized, if_pos hlen]
  dsimp only
  rw [if_neg (by omega), ← hl, if_pos (List.all_eq_true.2 hall)]

end Sys2Proof.Machine

namespace Sys2Proof.Proofs
open Sys2Proof Sys2Proof.Machine

/-- Settles O34: each service is worked out on the state on which its request is served, and answers what it read; the words of
REG_READ by induction on the reads made in turn. -/
theorem readingCommandsAnswer : Obligations.ReadingCommandsAnswer := by
  intro s h b x same handle
  have hsame {code : Nat} {b : List Byte} {v : State} (hv : ServedOn s h x code b v) (l : List Session) (o : List Emit) :
      same { v with sessions := l, out := o } := ⟨hv.pl, hv.dies⟩
  refine ⟨fun ha => ?status, fun ha hlen hone => ?regRead, fun ws u ha hlen hpos hmax hreads => ?regReads, fun slot bd ha hlen hb hk h0 hn => ?mapRead,
    fun ha hlen hd hpos hmax => ?dlqRead, fun slot bd ha hlen hb => ?deltaRead, fun m ha hlen hmod hpos hmax halign hreach hm hrep => ?memRead,
    fun l ha hlen h0 hpos hl hall => ?calSave⟩
  case status =>
    obtain ⟨v, hv⟩ := ha.servedOn (by decide)
    have hsvc := svcStatus_eq (c := callerOf h 0x0004) hv.answering.active
    rw [hv.regRead (by decide) hv.view_bndStat, hv.sec, idPartWord, idPopWord, hv.ident] at hsvc
    exact hv.replies rfl hsvc hv.answering (hsame hv)
  case regRead =>
    obtain ⟨v, hv⟩ := ha.servedOn (by decide)
    have hpos : 1 ≤ fieldLE b 4 2 := by omega
    have hmax : fieldLE b 4 2 ≤ 256 := by omega
    have hrefused (code : Nat) (hc : code ≠ 0) (hr : resolve s (fieldLE b 0 4) = .error code) :
        Replies (.regRead h) s h 0x0010 code [] same :=
      hv.replies rfl (svcRegRead_refused hlen hpos hmax (.none v _) hpos (readAt_of_error ((hv.resolve _).trans hr)) hc) hv.answering (hsame hv)
    refine ⟨hrefused _ (by decide), hrefused _ (by decide), fun hr => ?_⟩
    have hread := readAt_idPart ((hv.resolve _).trans hr)
    rw [hv.regRead (by decide) hv.view_idPart] at hread
    have hsvc := svcRegRead_words (c := callerOf h 0x0010) hlen hpos hmax (.word v _ _ v _ v hread (.none v _)) hone.symm
    rw [show wordBytes [regRead s ⟨.idPart, 0, 0, 0⟩] = leBytes 4 (regRead s ⟨.idPart, 0, 0, 0⟩).toNat from List.append_nil _] at hsvc
    exact hv.replies rfl hsvc hv.answering (hsame hv)
  case regReads =>
    obtain ⟨v, hv⟩ := ha.servedOn (by decide)
    rw [hv.serving] at hreads
    have hu := hv.answering.conversing (.readsInTurn hreads)
    refine ⟨fun hws => ?_, fun t code w hws hread hc => ?_⟩
    · exact hv.replies rfl (svcRegRead_words hlen hpos hmax hreads hws) hu fun _ _ => ⟨rfl, rfl⟩
    · have ht := hu.conversing (.readAt u (fieldLE b 0 4 + 4 * ws.length))
      rw [hread] at ht
      exact hv.replies rfl (svcRegRead_refused hlen hpos hmax hreads hws hread hc) ht fun _ _ => ⟨rfl, rfl⟩
  case mapRead =>
    obtain ⟨v, hv⟩ := ha.servedOn (by decide)
    have hsvc := svcMapRead_eq (c := callerOf h 0x0028) hlen ((hv.byHandle _).trans hb) hk h0 hn
    rw [hv.fld F.bndMapGenGen, mapEntries_of_postcode hv.postcode] at hsvc
    exact hv.replies rfl hsvc hv.answering (hsame hv)
  case dlqRead =>
    obtain ⟨v, hv⟩ := ha.servedOn (by decide)
    have hsvc := svcDlqRead_eq (s := v) (c := callerOf h 0x0030) hlen hd hpos hmax
    rw [dlqOf, hv.dies] at hsvc
    exact hv.replies rfl hsvc hv.answering (hsame hv)
  case deltaRead =>
    obtain ⟨v, hv⟩ := ha.servedOn (by decide)
    exact hv.replies rfl (svcDeltaRead_eq hlen ((hv.byHandle _).trans hb)) hv.answering (hsame hv)
  case memRead =>
    intro off n r mem
    obtain ⟨v, hv⟩ := ha.servedOn (by decide)
    have hk := (hv.stackOf _).trans hm
    obtain ⟨k', hk', hmem⟩ := openRows_mem hk hrep off n
    have hread : stackRead (openRows v (fieldLE b 0 8 / 2 ^ 36 % 16) off n) (fieldLE b 0 8 / 2 ^ 36 % 16) off n =
        ⟨stackFound (openRows v (fieldLE b 0 8 / 2 ^ 36 % 16) off n) (fieldLE b 0 8 / 2 ^ 36 % 16) mem r.fixed r.bad, mem.read off n, r.bad.map (·.1)⟩ := by
      rw [stackRead, hk']
      dsimp only
      rw [hmem]
    have hsvc := svcMemRead_eq (c := callerOf h 0x0038) hlen (badLength_eq_false hmod hpos hmax) halign ((hv.hostMayReach _ _ _).trans hreach) hread
    have honly : StackOnly (fieldLE b 0 8 / 2 ^ 36 % 16) v (stackFound (openRows v (fieldLE b 0 8 / 2 ^ 36 % 16) off n) (fieldLE b 0 8 / 2 ^ 36 % 16) mem
        r.fixed r.bad) := ((StackOnly.refl _ v).openRows _ _).stackFound _ _ _
    refine hv.replies rfl hsvc (hv.answering.conversing ((Conversing.openRows v _ off n).trans (.stackFound _ _ _ _ _))) fun _ _ =>
      ⟨honly.pl.trans hv.pl, ?_, fun k hne => (honly.others k hne).trans (hv.stackOf k)⟩
    exact stackFound_mem hk' mem r.fixed r.bad
  case calSave =>
    obtain ⟨v, hv⟩ := ha.servedOn (by decide)
    have hsvc := svcCalSave_eq (s := v) (c := callerOf h 0x0040) hlen h0 hpos hl (hv.ident ▸ hall)
    simp only [hv.calRecord] at hsvc
    exact hv.replies rfl hsvc hv.answering (hsame hv)

end Sys2Proof.Proofs
end

section
/-!
SUPPORT. What stays of every bundle as one stops (R81, R82, R279): all but its stations, tallies, frames and state.
-/
namespace Sys2Proof.Machine
open Sys2Proof

variable {s t u : State} {slot : Nat} {b : Bundle}

/-! ### The body of a bundle -/

/-- A bundle without its stations and tallies. -/
def Bundle.body (b : Bundle) : Bundle := { b with stations := [], tallies := [] }

theorem slotBundle_setSlot_other (s : State) {m : Nat} (h : slot ≠ m) (b : Bundle) : slotBundle (setSlot s m b) slot = slotBundle s slot :=
  SMap.find_insert_ne _ _ h

/-- From `s` to `t` every bundle keeps its body. -/
def BodiesKept (s t : State) : Prop := ∀ slot, (slotBundle t slot).map Bundle.body = (slotBundle s slot).map Bundle.body

namespace BodiesKept

theorem of_pl (h : t.pl = s.pl) : BodiesKept s t := fun slot => congrArg (Option.map _) (slotBundle_of_pl h slot)
theorem refl (s : State) : BodiesKept s s := of_pl rfl
theorem trans (h : BodiesKept s t) (k : BodiesKept t u) : BodiesKept s u := fun slot => (k slot).trans (h slot)

theorem ite {p : Prop} [Decidable p] (h : BodiesKept s t) (k : BodiesKept s u) : BodiesKept s (if p then t else u) := by
  split
  · exact h
  · exact k

theorem foldl {α : Type} (f : State → α → State) (hf : ∀ s a, BodiesKept s (f s a)) (l : List α) (s : State) : BodiesKept s (l.foldl f s) :=
  List.foldlRecOn _ _ (refl s) fun _ h a _ => h.trans (hf _ a)

theorem modBundle (s : State) (n : Nat) {f : Bundle → Bundle} (hf : ∀ b, (f b).body = b.body) : BodiesKept s (modBundle s n f) := by
  intro slot
  by_cases hs : slot = n
  · subst hs
    cases hb : slotBundle s slot with
    | none => rw [Machine.modBundle, hb]; exact congrArg _ hb
    | some b => rw [slotBundle_modBundle hb, Option.map_some, hf, Option.map_some]
  · rw [slotBundle_modBundle_other s hs]

theorem modStation (s : State) (n i : Nat) (f : Station → Station) : BodiesKept s (modStation s n i f) := modBundle s n fun _ => rfl
theorem modTally (s : State) (n i : Nat) (f : Tally → Tally) : BodiesKept s (modTally s n i f) := modBundle s n fun _ => rfl
theorem setEvent (s : State) (f : Fld) : BodiesKept s (setEvent s f) := of_pl rfl

theorem answer (s : State) (n tally : Nat) (src : TallySrc) (status : Nat) : BodiesKept s (answer s n tally src status) := by
  unfold Machine.answer
  split
  · exact modStation s _ _ _
  · exact of_pl (sendMsg_fabricOnly s _ _ _).pl

theorem orphanTally (s : State) (n i : Nat) : BodiesKept s (orphanTally s n i) := by
  unfold Machine.orphanTally
  split
  · exact refl s
  · refine ite (refl s) ?_
    extract_lets s1 s2
    have h1 : BodiesKept s s1 := foldl _ (fun s w => answer s _ _ _ _) _ s
    have h2 : BodiesKept s1 s2 := ite (refl s1) (modBundle s1 _ fun _ => rfl)
    exact ((h1.trans h2).trans (modTally _ _ _ _)).trans (setEvent _ _)

theorem orphanHomed (s : State) (n : Nat) : BodiesKept s (orphanHomed s n) := by
  unfold Machine.orphanHomed
  split
  · exact refl s
  · refine foldl _ (fun s i => ?_) _ s
    split
    · exact ite (orphanTally s _ _) (refl s)
    · exact refl s

/-- A bundle that is there is there with its body. -/
theorem some (h : BodiesKept s t) (hb : slotBundle s slot = some b) : ∃ b', slotBundle t slot = some b' ∧ b'.body = b.body := by
  have hk := h slot
  rw [hb] at hk
  exact Option.map_eq_some_iff.1 hk

end BodiesKept

/-! ### FAULTED -/

theorem holdOne_body (b : Bundle) (i : Nat) : (holdOne b i).body = b.body := by
  unfold holdOne
  split
  · rfl
  · split
    · rfl
    · split <;> rfl

theorem holdAll_body (b : Bundle) : (holdAll b).body = b.body :=
  List.foldlRecOn (motive := fun c : Bundle => c.body = b.body) _ _ rfl fun _ h i _ => (holdOne_body _ i).trans h

/-- The body of a bundle that has entered FAULTED. -/
def faultedBody (b : Bundle) : Bundle := { b.body with st := .faulted, frames := [] }

/-- A bundle that no fault has stopped enters FAULTED. -/
theorem slotBundle_faultBundle (hb : slotBundle s slot = some b) (hst : b.st ≠ .faulted) :
    ∃ b', slotBundle (faultBundle s slot) slot = some b' ∧ b'.body = faultedBody b := by
  have hf : FabricOnly s (leaveRemote (stallAll s slot) slot) := ((FabricOnly.refl s).stallAll slot).leaveRemote slot
  obtain ⟨b1, hb1, hbody⟩ := ((BodiesKept.of_pl hf.pl).trans (BodiesKept.orphanHomed _ slot)).some hb
  refine ⟨{ (holdAll b1).dropFrames with st := .faulted }, ?_, ?_⟩
  · rw [faultBundle, hb]
    dsimp only
    rw [if_neg hst]
    exact (slotBundle_of_pl (setEvent_pl _ _) slot).trans (slotBundle_modBundle hb1 _)
  · exact congrArg (fun c : Bundle => { c with st := .faulted, frames := [] }) ((holdAll_body b1).trans hbody)

theorem slotBundle_faultWith (hb : slotBundle s slot = some b) (hst : b.st ≠ .faulted) (code src : Nat) (d : List Byte) :
    ∃ b', slotBundle (faultWith s slot code src d) slot = some b' ∧ b'.body = faultedBody b := by
  rw [faultWith, hb]
  dsimp only
  rw [if_neg hst]
  exact slotBundle_faultBundle ((slotBundle_of_pl (report_pl _ _ _ _ _) slot).trans hb) hst

/-! ### Streams of a bundle -/

/-- The stream of a slot's bundle at an index. -/
def streamIn (s : State) (slot si : Nat) : Option Stream := (slotBundle s slot).bind fun b => b.streams[si]?

variable {si : Nat}

theorem streamIn_of_pl (h : t.pl = s.pl) (slot si : Nat) : streamIn t slot si = streamIn s slot si := by
  rw [streamIn, slotBundle_of_pl h, streamIn]

theorem streamIn_of_bundle (hb : slotBundle s slot = some b) (si : Nat) : streamIn s slot si = b.streams[si]? := by
  rw [streamIn, hb]
  rfl

theorem streamIn_modStream (s : State) (slot si : Nat) (f : Stream → Stream) : streamIn (modStream s slot si f) slot si = (streamIn s slot si).map f := by
  cases hb : slotBundle s slot with
  | none => simp only [streamIn, modStream, modBundle, hb, Option.bind_none, Option.map_none]
  | some b =>
    rw [modStream, streamIn_of_bundle (slotBundle_modBundle hb _), streamIn_of_bundle hb, getElem?_modAt, if_pos rfl]

theorem streamIn_modColl (s : State) (slot si : Nat) (f : Coll → Coll) :
    streamIn (modColl s slot si f) slot si = (streamIn s slot si).map fun x => { x with coll := f x.coll } := streamIn_modStream s slot si _

theorem streamIn_faultWith (s : State) (slot code src : Nat) (d : List Byte) (si : Nat) :
    streamIn (faultWith s slot code src d) slot si = streamIn s slot si := by
  cases hb : slotBundle s slot with
  | none => rw [faultWith, hb]
  | some b =>
    by_cases hst : b.st = .faulted
    · rw [faultWith, hb]
      dsimp only
      rw [if_pos hst]
    · obtain ⟨b', hb', hbody⟩ := slotBundle_faultWith hb hst code src d
      rw [streamIn_of_bundle hb', streamIn_of_bundle hb, show b'.streams = b.streams from (congrArg Bundle.streams hbody :)]

end Sys2Proof.Machine
end

section
/-!
SUPPORT. The collective engine (R386 to R390): what it needs of its stream, transfer tiles applied, steps sent and followed by the next, results,
abort.
-/
namespace Sys2Proof.Machine
open Sys2Proof

variable {s t u : State} {slot si : Nat} {v : CollView}

/-! ### The streams found by their identifiers -/

theorem streamAt_parts {w : StreamAt} (h : streamAt s slot si = some w) : w.slot = slot ∧ w.si = si ∧ slotBundle s slot = some w.b ∧
    w.b.img.streams[si]? = some w.r ∧ w.b.streams[si]? = some w.x := by
  unfold streamAt at h
  split at h
  · cases h
  · split at h
    · cases h
      exact ⟨rfl, rfl, ‹_›, ‹_›, ‹_›⟩
    · cases h

/-- A stream found by its identifier stands in the slot and at the index that it names. -/
theorem streamById_streamAt {id : Nat} {p : StreamRec → Bool} {w : StreamAt} (h : streamById s id p = some w) : streamAt s w.slot w.si = some w := by
  obtain ⟨e, -, he⟩ := List.exists_of_findSome?_eq_some h
  split at he
  · cases he
  · obtain ⟨q, -, hq⟩ := List.exists_of_findSome?_eq_some he
    split at hq
    · obtain ⟨hslot, hsi, -⟩ := streamAt_parts hq
      rw [hslot, hsi, hq]
    · cases hq

/-! ### What the engine needs of a stream -/

theorem collView_parts (h : collView s slot si = some v) : slotBundle s slot = some v.b ∧ v.b.streams[si]? = some v.x := by
  unfold collView at h
  split at h
  · cases h
  · split at h
    · split at h
      · dsimp only at h
        split at h
        · cases h
          exact ⟨‹_›, ‹_›⟩
        · cases h
      · cases h
    · cases h

theorem collView_streamIn (h : collView s slot si = some v) : streamIn s slot si = some v.x := by
  obtain ⟨hb, hx⟩ := collView_parts h
  rw [streamIn_of_bundle hb, hx]

/-- The collective run of a stream changed: the engine sees the collective run so and all else as before. -/
theorem collView_modColl (h : collView s slot si = some v) (f : Coll → Coll) : ∃ b, collView (modColl s slot si f) slot si =
    some { v with b := b, x := { v.x with coll := f v.x.coll } } := by
  obtain ⟨hb, hx⟩ := collView_parts h
  refine ⟨{ v.b with streams := modAt v.b.streams si fun x => { x with coll := f x.coll } }, ?_⟩
  have hx' : (modAt v.b.streams si fun x => { x with coll := f x.coll })[si]? = some { v.x with coll := f v.x.coll } := by
    rw [getElem?_modAt, if_pos rfl, hx]
    rfl
  rw [collView, hb] at h
  rw [collView, modColl, modStream, slotBundle_modBundle hb]
  dsimp only at h ⊢
  rw [hx] at h
  rw [hx']
  split at h
  · rename_i r x hr hsome
    cases hsome
    rw [hr]
    dsimp only at h ⊢
    split at h
    · rename_i hk
      rw [if_pos hk]
      have hplace (b : Bundle) (l : List Stream) (n k : Nat) : regionPlace { b with streams := l } n k = regionPlace b n k := rfl
      rw [hplace]
      split at h
      · rename_i hp
        exact congrArg (fun w : CollView => some { w with
          b := { v.b with streams := modAt v.b.streams si fun x => { x with coll := f x.coll } }, x := { v.x with coll := f v.x.coll } }) (Option.some.inj h)
      · cases h
    · cases h
  · cases h

/-! ### No step back -/

/-- A stream is there whose collective run is at a step or past it. -/
def AtStep (slot si k : Nat) (s : State) : Prop := ∃ x, streamIn s slot si = some x ∧ k ≤ x.coll.step

/-- From `s` to `t` no collective run of a stream goes a step back. -/
def StepsOn (slot si : Nat) (s t : State) : Prop := ∀ k, AtStep slot si k s → AtStep slot si k t

namespace StepsOn

theorem refl (s : State) : StepsOn slot si s s := fun _ h => h
theorem trans (h : StepsOn slot si s t) (k : StepsOn slot si t u) : StepsOn slot si s u := fun n hn => k n (h n hn)

theorem ite {p : Prop} [Decidable p] (h : StepsOn slot si s t) (k : StepsOn slot si s u) : StepsOn slot si s (if p then t else u) := by
  split
  · exact h
  · exact k

theorem of_stream (h : streamIn t slot si = streamIn s slot si) : StepsOn slot si s t := fun _ ⟨x, hx, hk⟩ => ⟨x, h.trans hx, hk⟩
theorem of_pl (h : t.pl = s.pl) : StepsOn slot si s t := of_stream (streamIn_of_pl h slot si)

theorem modStream (s : State) {f : Stream → Stream} (hf : ∀ x, x.coll.step ≤ (f x).coll.step) : StepsOn slot si s (modStream s slot si f) := by
  rintro k ⟨x, hx, hk⟩
  exact ⟨f x, by rw [streamIn_modStream, hx, Option.map_some], hk.trans (hf x)⟩

theorem modColl (s : State) {f : Coll → Coll} (hf : ∀ c, c.step ≤ (f c).step) : StepsOn slot si s (modColl s slot si f) :=
  modStream s fun x => hf x.coll

end StepsOn

/-- A slot of the staging area read leaves every bundle. -/
theorem stagingRead_pl (s : State) (n a : Nat) : (stackTile (openRows s n a slotBytes) n a).1.pl = s.pl :=
  (((StackOnly.refl n s).openRows a slotBytes).stackTile a).pl

theorem sendTransfer_pl (v : CollView) (step key dest : Nat) (resend : Bool) (s : State) (e : Nat × Nat) :
    (sendTransfer v step key dest resend s e).pl = s.pl :=
  ((FabricOnly.refl _).queueFrom none _ _ _).pl.trans (stagingRead_pl s _ _)

theorem sendTransfers_pl (v : CollView) (step key dest : Nat) (resend : Bool) (l : List (Nat × Nat)) (s : State) :
    (l.foldl (sendTransfer v step key dest resend) s).pl = s.pl :=
  List.foldlRecOn (motive := fun t : State => t.pl = s.pl) l _ rfl fun t ht e _ => (sendTransfer_pl v step key dest resend t e).trans ht

theorem countAlt_pl (s : State) (o : Nat × Nat) (n : Nat) : (countAlt s o n).pl = s.pl := by
  unfold countAlt
  split
  · rfl
  · exact bumpEv_pl _ _ _ _

/-! ### Abort -/

/-- The peers are told of an abort. -/
def tellPeers (v : CollView) (s : State) : State :=
  ((List.range v.p.ranks).filter (· != v.p.rank)).foldl (fun s k =>
    match route s (v.peer k) 2 none none with
    | some o => queueFlits s o.2 2 [msgFlit 2 (v.peer k) (.collAbort (BitVec.ofNat 32 v.r.id))]
    | none => s) s

theorem tellPeers_fabricOnly (v : CollView) (s : State) : FabricOnly s (tellPeers v s) := by
  refine List.foldlRecOn (motive := fun t : State => FabricOnly s t) _ _ (FabricOnly.refl s) fun t ht k _ => ?_
  split
  · exact ht.queueFrom none _ _ _
  · exact ht

theorem collAbort_eq (h : collView s slot si = some v) (cause : Nat) : collAbort s slot si cause =
    tellPeers v (modColl (faultWith (setEvent s F.fabEventCollAbort) slot cause (srcDie (stkDie v.stack)) []) slot si Coll.stop) := by
  rw [collAbort, h]
  rfl

theorem StepsOn.collAbort (s : State) (cause : Nat) : StepsOn slot si s (collAbort s slot si cause) := by
  cases h : collView s slot si with
  | none =>
    rw [Machine.collAbort, h]
    exact refl s
  | some v =>
    rw [collAbort_eq h]
    refine StepsOn.trans ?_ (of_pl (tellPeers_fabricOnly v _).pl)
    refine StepsOn.trans (of_stream ?_) (modColl _ fun _ => Nat.le_refl _)
    rw [streamIn_faultWith, streamIn_of_pl (setEvent_pl _ _)]

/-- The bundle is FAULTED and the engine has dropped the collective run, and the event of an abort stands. -/
structure Aborted (s : State) (slot si : Nat) : Prop where
  ended : ∃ b y, slotBundle s slot = some b ∧ b.streams[si]? = some y ∧ b.st = .faulted ∧ y.coll.started = false ∧ y.coll.active = false
  event : fld s F.fabEventCollAbort = 1

theorem fld_fabEvent_of_bundles (h : BundleWork s t) {f : Fld} (hf : f.reg = .fabEvent) : fld t f = fld s f := by
  have hr : ¬BundleReg (⟨.fabEvent, 0, 0, 0⟩ : RegRef).addr := by unfold BundleReg; decide
  rw [fld, fldAt, hf, h.regs _ hr, fld, fldAt, hf]

theorem fld_of_fabricOnly (h : FabricOnly s t) (f : Fld) : fld t f = fld s f := by
  rw [fld, fldAt, h.regWord, fld, fldAt]

/-- A bundle faulted for an abort, and its collective run dropped. -/
theorem Aborted.of_stop (h : collView s slot si = some v) (hst : v.b.st ≠ .faulted) (cause src : Nat) (d : List Byte) :
    Aborted (modColl (faultWith (setEvent s F.fabEventCollAbort) slot cause src d) slot si Coll.stop) slot si := by
  obtain ⟨hb, hx⟩ := collView_parts h
  obtain ⟨b, hb', hbody⟩ := slotBundle_faultWith ((slotBundle_of_pl (setEvent_pl s F.fabEventCollAbort) slot).trans hb) hst cause src d
  have hx' : b.streams[si]? = some v.x := (congrArg (fun l : List Stream => l[si]?) (congrArg Bundle.streams hbody :)).trans hx
  refine ⟨⟨_, { v.x with coll := v.x.coll.stop }, slotBundle_modBundle hb' _, ?_, (congrArg Bundle.st hbody :), rfl, rfl⟩, ?_⟩
  · rw [getElem?_modAt, if_pos rfl, hx', Option.map_some]
  · have hwork : BundleWork (setEvent s F.fabEventCollAbort) (modColl (faultWith (setEvent s F.fabEventCollAbort) slot cause src d) slot si Coll.stop) :=
      (BundleWork.faultWith _ slot cause src d).trans (BundleWork.modBundle _ slot _)
    rw [fld_fabEvent_of_bundles hwork (f := F.fabEventCollAbort) rfl]
    exact fld_setEvent s (by decide) rfl

theorem Aborted.fabricOnly (h : Aborted s slot si) (k : FabricOnly s t) : Aborted t slot si where
  ended := by
    rw [k.slotBundle]
    exact h.ended
  event := (fld_of_fabricOnly k _).trans h.event

theorem collAbort_aborted (h : collView s slot si = some v) (hst : v.b.st ≠ .faulted) (cause : Nat) : Aborted (collAbort s slot si cause) slot si := by
  rw [collAbort_eq h]
  exact (Aborted.of_stop h hst _ _ _).fabricOnly (tellPeers_fabricOnly v _)

/-! ### A step sent -/

/-- The option that a step goes over, `skip` passed over where another is usable. -/
def stepOption (s : State) (v : CollView) (skip : Option Nat) : Option (Nat × Nat) :=
  match route s (v.peer (v.p.toRank v.x.coll.step)) v.r.vc none skip with
  | some o => some o
  | none => if skip.isSome then route s (v.peer (v.p.toRank v.x.coll.step)) v.r.vc none none else none

/-- A collective run whose step has been sent over an option. -/
def Coll.sentOver (o : Nat × Nat) (c : Coll) : Coll := { c with acked := false, sends := c.sends + 1, option := o.1, link := o.2, blocked := false }

/-- The tiles of a step queued on the link of an option. -/
def stepQueued (s : State) (slot si : Nat) (v : CollView) (resend : Bool) (o : Nat × Nat) : State :=
  (v.p.sends v.x.coll.step).foldl (sendTransfer v v.x.coll.step o.2 (v.peer (v.p.toRank v.x.coll.step)) resend)
    (modColl (countAlt s o (v.p.sends v.x.coll.step).length) slot si (Coll.sentOver o))

theorem stepQueued_pl (s : State) (slot si : Nat) (v : CollView) (resend : Bool) (o : Nat × Nat) :
    (stepQueued s slot si v resend o).pl = (modColl (countAlt s o (v.p.sends v.x.coll.step).length) slot si (Coll.sentOver o)).pl :=
  sendTransfers_pl _ _ _ _ _ _ _

theorem stepQueued_streamIn (s : State) (slot si : Nat) (v : CollView) (resend : Bool) (o : Nat × Nat) :
    streamIn (stepQueued s slot si v resend o) slot si = (streamIn s slot si).map fun x => { x with coll := x.coll.sentOver o } := by
  rw [streamIn_of_pl (stepQueued_pl s slot si v resend o), streamIn_modColl, streamIn_of_pl (countAlt_pl _ _ _)]

/-- A step sent again is counted and reported. -/
def resendReport (s : State) (slot : Nat) (v : CollView) : State :=
  report (bumpEv (setEvent s F.fabEventCollResend) (evDie Ev.collResent (stkDie v.stack) 0) noCtx (v.p.sends v.x.coll.step).length) C.collResend
    (srcDie (stkDie v.stack)) (handleOf slot v.b) []

theorem sendStep_eq (h : collView s slot si = some v) (resend : Bool) (skip : Option Nat) : sendStep s slot si resend skip =
    if (v.p.sends v.x.coll.step).isEmpty then modColl s slot si (fun c => { c with acked := true })
    else if postcodeValid s = false then modColl s slot si (fun c => { c with acked := false, blocked := true })
    else match stepOption s v skip with
      | none => collAbort s slot si C.collAbort
      | some o => if resend then resendReport (stepQueued s slot si v resend o) slot v else stepQueued s slot si v resend o := by
  rw [sendStep, h]
  rfl

theorem resendReport_pl (s : State) (slot : Nat) (v : CollView) : (resendReport s slot v).pl = s.pl := by
  rw [resendReport, report_pl, bumpEv_pl, setEvent_pl]

theorem StepsOn.sendStep (s : State) (resend : Bool) (skip : Option Nat) : StepsOn slot si s (sendStep s slot si resend skip) := by
  cases h : collView s slot si with
  | none =>
    rw [Machine.sendStep, h]
    exact refl s
  | some v =>
    rw [sendStep_eq h]
    refine ite (modColl s fun _ => Nat.le_refl _) (ite (modColl s fun _ => Nat.le_refl _) ?_)
    split
    · exact collAbort s _
    · rename_i o _
      have hq : StepsOn slot si s (stepQueued s slot si v resend o) := by
        rintro k ⟨x, hx, hk⟩
        exact ⟨{ x with coll := x.coll.sentOver o }, by rw [stepQueued_streamIn, hx, Option.map_some], hk⟩
      exact ite (hq.trans (of_pl (resendReport_pl _ slot v))) hq

/-! ### Results -/

/-- A result that is delivered. -/
def deliverOne (v : CollView) (slot si : Nat) (s : State) (e : Nat × Nat) : State :=
  let a := v.base + slotBytes * e.2
  let (s1, t) := stackTile (openRows s v.stack a slotBytes) v.stack a
  modStream s1 slot si (fun x =>
    let h := { t.hdr with streamId := BitVec.ofNat 32 v.r.id, seq := x.nextSeq, index := BitVec.ofNat 32 e.1 }
    { x with nextSeq := x.nextSeq + 1, flight := x.flight ++ [⟨{ t with hdr := h, chk := headerCoded t.chk }, [0]⟩] })

theorem collDeliver_eq (h : collView s slot si = some v) : collDeliver s slot si =
    modColl (v.p.results.foldl (deliverOne v slot si) s) slot si (fun c => { c with active := false, started := false, past := SMap.insert c.past c.frame.toNat c.applied }) := by
  rw [collDeliver, h]
  rfl

theorem deliverOne_streamIn {x : Stream} (hx : streamIn s slot si = some x) (v : CollView) (e : Nat × Nat) :
    ∃ y, streamIn (deliverOne v slot si s e) slot si = some y ∧ y.coll = x.coll ∧ y.flight.length = x.flight.length + 1 := by
  unfold deliverOne
  dsimp only
  rw [streamIn_modStream, streamIn_of_pl (stagingRead_pl s _ _), hx]
  exact ⟨_, rfl, rfl, by simp⟩

theorem deliver_streamIn (v : CollView) (l : List (Nat × Nat)) : ∀ {s : State} {x : Stream}, streamIn s slot si = some x →
    ∃ y, streamIn (l.foldl (deliverOne v slot si) s) slot si = some y ∧ y.coll = x.coll ∧ y.flight.length = x.flight.length + l.length := by
  induction l with
  | nil => exact fun hx => ⟨_, hx, rfl, rfl⟩
  | cons e l ih =>
    intro s x hx
    obtain ⟨y, hy, hcoll, hlen⟩ := deliverOne_streamIn hx v e
    obtain ⟨z, hz, hcoll', hlen'⟩ := ih hy
    exact ⟨z, hz, hcoll'.trans hcoll, by rw [hlen', hlen, List.length_cons]; omega⟩

theorem collDeliver_streamIn (h : collView s slot si = some v) : ∃ y, streamIn (collDeliver s slot si) slot si = some y ∧ y.coll.step = v.x.coll.step ∧
    y.coll.active = false ∧ y.coll.started = false ∧ y.flight.length = v.x.flight.length + v.p.results.length := by
  obtain ⟨y, hy, hcoll, hlen⟩ := deliver_streamIn v v.p.results (collView_streamIn h)
  rw [collDeliver_eq h, streamIn_modColl, hy]
  exact ⟨_, rfl, (congrArg Coll.step hcoll :), rfl, rfl, hlen⟩

/-! ### One step after another -/

/-- A step that is not acknowledged, or not received, goes on. -/
theorem collAdvance_waits (h : ∀ v, collView s slot si = some v → v.x.coll.acked = false ∨ stepReceived v.p v.x.coll v.x.coll.step = false) (n : Nat) :
    collAdvance n s slot si = s := by
  cases n with
  | zero => rfl
  | succ n =>
    rw [collAdvance]
    cases hv : collView s slot si with
    | none => rfl
    | some v =>
      dsimp only
      rw [if_pos]
      rcases h v hv with ha | hr
      · rw [ha]
        simp
      · rw [hr]
        simp

theorem collAdvance_ready (h : collView s slot si = some v) (hs : v.x.coll.started = true) (ha : v.x.coll.acked = true)
    (hr : stepReceived v.p v.x.coll v.x.coll.step = true) (n : Nat) : collAdvance (n + 1) s slot si =
      if v.p.steps ≤ v.x.coll.step + 1 then collDeliver s slot si
      else collAdvance n (sendStep (modColl s slot si (fun c => { c with step := c.step + 1, sends := 0, acked := false })) slot si false none) slot si := by
  rw [collAdvance, h]
  dsimp only
  rw [hs, ha, hr, if_neg (by decide)]

theorem StepsOn.collAdvance (n : Nat) (s : State) : StepsOn slot si s (collAdvance n s slot si) := by
  induction n generalizing s with
  | zero => exact refl s
  | succ n ih =>
    rw [Machine.collAdvance]
    cases hv : collView s slot si with
    | none => exact refl s
    | some v =>
      refine ite (refl s) (ite ?_ ?_)
      · rintro k ⟨x, hx, hk⟩
        obtain ⟨y, hy, hstep, -⟩ := collDeliver_streamIn hv
        obtain rfl : v.x = x := Option.some.inj ((collView_streamIn hv).symm.trans hx)
        exact ⟨y, hy, hstep.symm ▸ hk⟩
      · exact ((modColl s fun _ => Nat.le_succ _).trans (sendStep _ _ _)).trans (ih _)

/-! ### Transfer tiles -/

theorem raddAt_fab (s : State) (slot region n off : Nat) (q : Tile) : (raddAt s slot region n off q).fab = s.fab := by
  have htile := (StackOnly.refl n s).stackTile off
  unfold raddAt
  dsimp only
  split
  · exact htile.fab
  · have hcount := (htile.stkEvent Ev.raddRefused 1).fab
    split
    · exact hcount
    · split
      · exact hcount
      · rw [report_fab, setSlot_fab]
        exact hcount

theorem raddAt_streamIn (s : State) (slot region n off : Nat) (q : Tile) (si : Nat) :
    streamIn (raddAt s slot region n off q) slot si = streamIn s slot si := by
  have htile := (StackOnly.refl n s).stackTile off
  unfold raddAt
  dsimp only
  split
  · exact streamIn_of_pl htile.pl slot si
  · have hcount := (htile.stkEvent Ev.raddRefused 1).pl
    split
    · exact streamIn_of_pl hcount slot si
    · rename_i b hb
      split
      · exact streamIn_of_pl hcount slot si
      · rw [streamIn_of_pl (report_pl _ _ _ _ _), streamIn_of_bundle (slotBundle_setSlot _ _ _), ← streamIn_of_pl hcount, streamIn_of_bundle hb]

/-- A transfer tile in its staging slot: reduced into it, or written there. -/
def transferStored (s : State) (slot : Nat) (v : CollView) (q : Tile) : State :=
  let step := q.hdr.seq.toNat / v.p.width
  let j := q.hdr.seq.toNat % v.p.width
  let off := v.base + slotBytes * (if v.p.op = 3 then v.p.width + j else j)
  let s0 := openRows s v.stack off slotBytes
  if v.p.op ≤ 1 && (v.p.gather step).isNone then raddAt s0 slot v.region v.stack off q else stackPutTile s0 v.stack off q

theorem transferStored_fab (s : State) (slot : Nat) (v : CollView) (q : Tile) : (transferStored s slot v q).fab = s.fab := by
  have hopen (off : Nat) : (openRows s v.stack off slotBytes).fab = s.fab := ((StackOnly.refl v.stack s).openRows off slotBytes).fab
  unfold transferStored
  dsimp only
  split
  · exact (raddAt_fab _ _ _ _ _ _).trans (hopen _)
  · exact hopen _

theorem transferStored_streamIn (s : State) (slot : Nat) (v : CollView) (q : Tile) (si : Nat) :
    streamIn (transferStored s slot v q) slot si = streamIn s slot si := by
  have hopen (off : Nat) : (openRows s v.stack off slotBytes).pl = s.pl := ((StackOnly.refl v.stack s).openRows off slotBytes).pl
  unfold transferStored
  dsimp only
  split
  · exact (raddAt_streamIn _ _ _ _ _ _ si).trans (streamIn_of_pl (hopen _) slot si)
  · exact streamIn_of_pl (hopen _) slot si

/-- A tile applied already is counted, and its step acknowledged again where it is received. -/
theorem transferApply_repeat {q : Tile} (hseen : (v.x.coll.record q.hdr.frame).contains (q.hdr.seq.toNat / v.p.width, q.hdr.seq.toNat % v.p.width) = true) :
    ∃ ev, transferApply s slot si v q = bumpEv s ev noCtx 1 ∨ ∃ dest b, transferApply s slot si v q = sendMsg (bumpEv s ev noCtx 1) dest v.r.vc b := by
  refine ⟨evDie Ev.collDup (stkDie v.stack) 0, ?_⟩
  unfold transferApply
  dsimp only
  rw [if_pos hseen]
  split
  · exact .inr ⟨_, _, rfl⟩
  · exact .inl rfl

/-- A tile not applied before is stored and noted, while its step waits for the acknowledgement. -/
theorem transferApply_new {q : Tile} {x : Stream} (hx : streamIn s slot si = some x) (hack : x.coll.acked = false)
    (hseen : (v.x.coll.record q.hdr.frame).contains (q.hdr.seq.toNat / v.p.width, q.hdr.seq.toNat % v.p.width) = false) :
    let noted := modColl (transferStored s slot v q) slot si (fun c => { c with applied := c.applied ++ [(q.hdr.seq.toNat / v.p.width, q.hdr.seq.toNat % v.p.width)] })
    transferApply s slot si v q = noted ∨ ∃ dest vc b, transferApply s slot si v q = sendMsg noted dest vc b := by
  intro noted
  have hnoted : streamIn noted slot si = some { x with coll := { x.coll with applied := x.coll.applied ++ [(q.hdr.seq.toNat / v.p.width, q.hdr.seq.toNat % v.p.width)] } } := by
    rw [streamIn_modColl, transferStored_streamIn, hx, Option.map_some]
  have hwaits (u : State) (hu : u.pl = noted.pl) (n : Nat) : collAdvance n u slot si = u := by
    refine collAdvance_waits (fun v2 hv2 => .inl ?_) n
    have h2 := (collView_streamIn hv2).symm.trans ((streamIn_of_pl hu slot si).trans hnoted)
    rw [Option.some.inj h2]
    exact hack
  have heq : transferApply s slot si v q = match collView noted slot si with
      | none => noted
      | some v2 => collAdvance (v.p.steps + 1)
          (if stepReceived v2.p v2.x.coll (q.hdr.seq.toNat / v.p.width) then sendAck noted v2 (q.hdr.seq.toNat / v.p.width) else noted) slot si := by
    unfold transferApply
    dsimp only
    rw [if_neg (by rw [hseen]; decide)]
    rfl
  rw [heq]
  split
  · exact .inl rfl
  · split
    · rw [sendAck, hwaits _ (sendMsg_pl _ _ _ _)]
      exact .inr ⟨_, _, _, rfl⟩
    · rw [hwaits _ rfl]
      exact .inl rfl

end Sys2Proof.Machine
end

section
/-!
PROOF. Collective streams (R386 to R390): transfer tiles, acknowledgements, timeouts and aborts.
-/
namespace Sys2Proof.Machine
open Sys2Proof

variable {s t : State} {slot si key vc : Nat} {v : CollView} {id : Word} {w : StreamAt} {a : Arrival} {l : Link} {q : Tile}

/-! ### A transfer tile received -/

theorem FabricOnly.dies (h : FabricOnly s t) : t.dies = s.dies := by
  obtain ⟨_, _, _, _, _, _, rfl⟩ := h
  rfl

theorem popArrival_fabricOnly (s : State) (key : Nat) (a : Arrival) : FabricOnly s (popArrival s key a) := (FabricOnly.refl s).modLink _ _

theorem linkOf_popArrival (hl : linkOf s key = some l) (a : Arrival) : ∃ l', linkOf (popArrival s key a) key = some l' ∧ l'.inbox = l.inbox.erase a :=
  ⟨_, linkOf_modLink_same hl _, rfl⟩

/-- What is only sent leaves the inbox of a link. -/
theorem LinksStill.inbox (h : LinksStill s t) {l : Link} (hl : linkOf s key = some l) : ∃ l', linkOf t key = some l' ∧ l'.inbox = l.inbox := by
  obtain ⟨l', hl', hs⟩ := h.get hl
  exact ⟨l', hl', (congrArg Link.inbox hs :)⟩

theorem exec_collTransferTile (hv : collView s slot si = some v) (hl : linkOf s key = some l) (ha : l.inbox.find? (fun a => a.vc == vc) = some a)
    (hd : a.dest = postcode s) (hw : collStream s a.tile.hdr.streamId = some w) (hslot : w.slot = slot) (hsi : w.si = si)
    (hnow : transferNow v a.tile = true) : exec (.collTransferTile key vc) s = .next (transferApply (popArrival s key a) slot si v a.tile) := by
  refine congrArg done ?_
  rw [hl, Option.bind_some, ha]
  dsimp only
  rw [if_neg (not_not.2 hd), hw]
  dsimp only
  rw [hslot, hsi, hv]
  dsimp only
  rw [if_pos hnow]

/-- A tile applied already leaves bundles and memory, and its link's inbox. -/
theorem transferApply_repeat_keeps (hl : linkOf s key = some l)
    (hseen : (v.x.coll.record q.hdr.frame).contains (q.hdr.seq.toNat / v.p.width, q.hdr.seq.toNat % v.p.width) = true) :
    (transferApply s slot si v q).pl = s.pl ∧ (transferApply s slot si v q).dies = s.dies ∧
      ∃ l', linkOf (transferApply s slot si v q) key = some l' ∧ l'.inbox = l.inbox := by
  obtain ⟨ev, heq | ⟨dest, b, heq⟩⟩ := transferApply_repeat (slot := slot) (si := si) (s := s) hseen
  · rw [heq]
    exact ⟨bumpEv_pl _ _ _ _, bumpEv_dies _ _ _ _, (LinksStill.bumpEv s ev noCtx 1).inbox hl⟩
  · have hf := ((FabricOnly.refl s).bumpEv ev noCtx 1).sendMsg dest v.r.vc b
    rw [heq]
    exact ⟨hf.pl, hf.dies, ((LinksStill.bumpEv s ev noCtx 1).trans (.sendMsg _ dest v.r.vc b)).inbox hl⟩

/-- A tile not applied before is noted at its collective run, stored, and its link keeps its inbox. -/
theorem transferApply_new_keeps {x : Stream} (hx : streamIn s slot si = some x) (hack : x.coll.acked = false) (hl : linkOf s key = some l)
    (hseen : (v.x.coll.record q.hdr.frame).contains (q.hdr.seq.toNat / v.p.width, q.hdr.seq.toNat % v.p.width) = false) :
    streamIn (transferApply s slot si v q) slot si =
        some { x with coll := { x.coll with applied := x.coll.applied ++ [(q.hdr.seq.toNat / v.p.width, q.hdr.seq.toNat % v.p.width)] } } ∧
      (transferApply s slot si v q).dies = (transferStored s slot v q).dies ∧
      ∃ l', linkOf (transferApply s slot si v q) key = some l' ∧ l'.inbox = l.inbox := by
  have hcases := transferApply_new (v := v) (q := q) hx hack hseen
  have hstored : LinksStill s (transferStored s slot v q) := .of_fab (transferStored_fab s slot v q)
  extract_lets noted at hcases
  have hnoted : streamIn noted slot si =
      some { x with coll := { x.coll with applied := x.coll.applied ++ [(q.hdr.seq.toNat / v.p.width, q.hdr.seq.toNat % v.p.width)] } } := by
    rw [streamIn_modColl, transferStored_streamIn, hx, Option.map_some]
  have hlinks : LinksStill s noted := hstored.trans (.modColl _ slot si _)
  have hdies : noted.dies = (transferStored s slot v q).dies := modBundle_dies _ _ _
  clear_value noted
  obtain heq | ⟨dest, vc, b, heq⟩ := hcases
  · rw [heq]
    exact ⟨hnoted, hdies, hlinks.inbox hl⟩
  · have hf := sendMsg_fabricOnly noted dest vc b
    rw [heq]
    exact ⟨(streamIn_of_pl hf.pl slot si).trans hnoted, hf.dies.trans hdies, (hlinks.trans (.sendMsg _ _ _ _)).inbox hl⟩

/-- The offset of the staging slot of a transfer tile. -/
def transferOff (v : CollView) (q : Tile) : Nat :=
  v.base + slotBytes * (if v.p.op = 3 then v.p.width + q.hdr.seq.toNat % v.p.width else q.hdr.seq.toNat % v.p.width)

theorem stackOf_stackPutTile {n : Nat} {k : Stack} (hk : stackOf s n = some k) (off : Nat) (q : Tile) :
    stackOf (stackPutTile s n off q) n = some { k with mem := k.mem.writeSlot off q } := by
  rw [stackPutTile, stackOf_modStack, if_pos rfl, hk]
  rfl

/-- A tile that is not reduced is written into its staging slot. -/
theorem transferStored_written {m : Stack} (hm : stackOf s v.stack = some m) (hr : m.repairing = [])
    (hred : ¬(v.p.op ≤ 1 ∧ v.p.gather (q.hdr.seq.toNat / v.p.width) = none)) :
    ∃ k, stackOf (transferStored s slot v q) v.stack = some k ∧ k.mem = m.mem.writeSlot (transferOff v q) q := by
  obtain ⟨k, hk, hmem⟩ := openRows_mem hm hr (transferOff v q) slotBytes
  refine ⟨{ k with mem := k.mem.writeSlot (transferOff v q) q }, ?_, by rw [hmem]⟩
  unfold transferStored
  dsimp only
  rw [if_neg (by simpa using hred)]
  exact stackOf_stackPutTile hk _ _

/-- A tile that is reduced leaves the sum in its staging slot. -/
theorem transferStored_reduced {m : Stack} {r : Tile} (hm : stackOf s v.stack = some m) (hr : m.repairing = [])
    (hred : v.p.op ≤ 1 ∧ v.p.gather (q.hdr.seq.toNat / v.p.width) = none) (hsum : raddTile (stackTile s v.stack (transferOff v q)).2 q = some r) :
    ∃ k, stackOf (transferStored s slot v q) v.stack = some k ∧ k.mem.read (transferOff v q) 4256 = r.slot := by
  obtain ⟨k, hk, hmem⟩ := openRows_mem hm hr (transferOff v q) slotBytes
  have htile : (stackTile (openRows s v.stack (transferOff v q) slotBytes) v.stack (transferOff v q)).2 = (stackTile s v.stack (transferOff v q)).2 := by
    rw [stackTile, hk, stackTile, hm]
    dsimp only
    rw [hmem]
  have hread : ∃ k', stackOf (stackTile (openRows s v.stack (transferOff v q) slotBytes) v.stack (transferOff v q)).1 v.stack = some k' := by
    rw [stackTile, hk]
    have hfound := stackFound_mem hk (k.mem.readSlot (transferOff v q) false).mem (k.mem.readSlot (transferOff v q) false).fixed
      (k.mem.readSlot (transferOff v q) false).bad
    obtain ⟨k', hk', -⟩ := Option.map_eq_some_iff.1 hfound
    exact ⟨k', hk'⟩
  obtain ⟨k', hk'⟩ := hread
  refine ⟨{ k' with mem := k'.mem.writeSlot (transferOff v q) r }, ?_, Mem.read_writeSlot _ _ _⟩
  unfold transferStored
  dsimp only
  rw [if_pos (by simpa using hred), raddAt]
  dsimp only
  rw [← transferOff, htile, hsum]
  exact stackOf_stackPutTile hk' _ _

/-! ### A step acknowledged -/

theorem ackApply_eq (hv : collView s slot si = some v) (n : Nat) : ackApply s slot si n =
    if v.x.coll.started && v.x.coll.step == n then
      collAdvance (v.p.steps + 1) (modColl s slot si (fun c => { c with acked := true })) slot si
    else s := by
  rw [ackApply, hv]

theorem exec_collStepAck (hw : collStream s id = some w) (hslot : w.slot = slot) (hsi : w.si = si) (n : Nat) :
    exec (.collStepAck id n) s = .next (ackApply s slot si n) := by
  refine congrArg done ?_
  rw [hw]
  dsimp only
  rw [hslot, hsi]

theorem ackApply_acked (hv : collView s slot si = some v) (hs : v.x.coll.started = true) : ackApply s slot si v.x.coll.step =
    collAdvance (v.p.steps + 1) (modColl s slot si (fun c => { c with acked := true })) slot si := by
  rw [ackApply_eq hv, hs, if_pos (by simp)]

/-! ### Aborts -/

theorem exec_collPeerAbort (hv : collView s slot si = some v) (hw : collStream s id = some w) (hslot : w.slot = slot) (hsi : w.si = si)
    (hst : v.b.st ≠ .faulted) : ∃ src, exec (.collPeerAbort id) s =
      .next (modColl (faultWith (setEvent s F.fabEventCollAbort) slot C.collPeerAbort src []) slot si Coll.stop) := by
  obtain ⟨-, -, hb, -⟩ := streamAt_parts (streamById_streamAt hw)
  rw [hslot] at hb
  have hbundle : w.b = v.b := Option.some.inj (hb.symm.trans (collView_parts hv).1)
  refine ⟨srcDie (stkDie v.stack), congrArg done ?_⟩
  rw [hw]
  dsimp only
  rw [hbundle, if_neg hst, hslot, hsi, hv]

theorem exec_collPeerAbort_faulted (hv : collView s slot si = some v) (hw : collStream s id = some w) (hslot : w.slot = slot)
    (hst : v.b.st = .faulted) : exec (.collPeerAbort id) s = .next s := by
  obtain ⟨-, -, hb, -⟩ := streamAt_parts (streamById_streamAt hw)
  rw [hslot] at hb
  have hbundle : w.b = v.b := Option.some.inj (hb.symm.trans (collView_parts hv).1)
  refine congrArg done ?_
  rw [hw]
  dsimp only
  rw [hbundle, if_pos hst]

/-! ### A step not acknowledged in time -/

theorem exec_collStepTimeout (hv : collView s slot si = some v) (hs : v.x.coll.started = true) (ha : v.x.coll.acked = false) :
    exec (.collStepTimeout slot si) s = .next (if 4 ≤ v.x.coll.sends then collAbort s slot si C.collStepTimeout
      else sendStep s slot si true (some v.x.coll.option)) := by
  refine congrArg done ?_
  rw [hv]
  dsimp only
  rw [if_neg (by simp [hs, ha])]

/-- Without any usable option none is left when one is passed over. -/
theorem route_skip_none {dest c : Nat} (h : route s dest c none none = none) (k : Nat) : route s dest c none (some k) = none := by
  unfold route at h ⊢
  rw [List.findSome?_eq_none_iff] at h ⊢
  intro o ho
  have hno := h o ho
  rw [if_neg (by simp)] at hno
  split
  · rfl
  · exact hno

theorem sendStep_again (hv : collView s slot si = some v) (hl : v.p.sends v.x.coll.step ≠ []) (hp : postcodeValid s = true) (skip : Option Nat) :
    sendStep s slot si true skip = match stepOption s v skip with
      | none => collAbort s slot si C.collAbort
      | some o => resendReport (stepQueued s slot si v true o) slot v := by
  rw [sendStep_eq hv, if_neg (by simpa using hl), if_neg (by simp [hp])]
  rfl

theorem fld_resendReport (s : State) (slot : Nat) (v : CollView) : fld (resendReport s slot v) F.fabEventCollResend = 1 := by
  have hregs (u : State) (ev n : Nat) : fld (bumpEv u ev noCtx n) F.fabEventCollResend = fld u F.fabEventCollResend := by
    rw [fld, fldAt, regWord_of_regs (bumpEv_regs _ _ _ _) (bumpEv_ident _ _ _ _), fld, fldAt]
  rw [resendReport, fld_report (f := F.fabEventCollResend) _ _ _ _ _ (by decide), hregs]
  exact fld_setEvent s (by decide) rfl

/-- From a stream in its slot to its bundle. -/
theorem exists_bundle_of_streamIn {x : Stream} (h : streamIn s slot si = some x) : ∃ b, slotBundle s slot = some b ∧ b.streams[si]? = some x :=
  Option.bind_eq_some_iff.1 h

end Sys2Proof.Machine

namespace Sys2Proof.Proofs
open Sys2Proof Sys2Proof.Machine

/-- Settles O49: what each command does to the collective run follows from what the engine sees of the stream; one step after another by
induction on the steps left. -/
theorem collectivesStepTogether : Obligations.CollectivesStepTogether := by
  intro s slot si v hv after c aborted
  obtain ⟨hb, hx⟩ := collView_parts hv
  have hstream := collView_streamIn hv
  have reached {i : Instr} {t : State} {y : Stream} {P : State → Bundle → Stream → Prop} (he : exec i s = .next t) (hy : streamIn t slot si = some y)
      (hP : ∀ b, P t b y) : after i P := by
    obtain ⟨b, hb, hy⟩ := exists_bundle_of_streamIn hy
    exact ⟨t, b, y, he, hb, hy, hP b⟩
  have abort {i : Instr} {t : State} (he : exec i s = .next t) (ht : Aborted t slot si) : aborted i := by
    obtain ⟨⟨b, y, hb, hy, hst, hstarted, hactive⟩, hev⟩ := ht
    exact ⟨t, b, y, he, hb, hy, hst, hstarted, hactive, hev⟩
  refine ⟨fun key vc l a w m hl ha hd hw hslot hsi hnow hm => ?transfer, fun id w hw hslot hsi => ?ack, fun hs ha hl hp => ?timeout, fun h => ?idle⟩
  case transfer =>
    intro step j seen off stored reduces
    have hexec := exec_collTransferTile hv hl ha hd hw hslot hsi hnow
    obtain ⟨l1, hl1, hinbox⟩ := linkOf_popArrival hl a
    have hpop := popArrival_fabricOnly s key a
    have hstream1 := (streamIn_of_pl hpop.pl slot si).trans hstream
    refine ⟨fun hseen => ?_, fun hseen hack => ?_, fun hseen hack hrep => ⟨fun hred => ?_, fun r hred hsum => ?_⟩⟩
    · obtain ⟨hpl, hdies, l', hl', hi⟩ := transferApply_repeat_keeps (slot := slot) (si := si) hl1 hseen
      exact ⟨_, v.b, v.x, hexec, (slotBundle_of_pl (hpl.trans hpop.pl) slot).trans hb, hx, rfl, rfl, hdies.trans hpop.dies, l', hl', hi.trans hinbox⟩
    · obtain ⟨hy, -, l', hl', hi⟩ := transferApply_new_keeps hstream1 hack hl1 hseen
      exact reached hexec hy fun _ => ⟨rfl, l', hl', hi.trans hinbox⟩
    · obtain ⟨-, hdies, -⟩ := transferApply_new_keeps hstream1 hack hl1 hseen
      obtain ⟨k, hk, hmem⟩ := transferStored_written (slot := slot) ((stackOf_of_dies hpop.dies _).trans hm) hrep hred
      refine ⟨_, k, hexec, (stackOf_of_dies hdies _).trans hk, ?_, fun b hout => ?_⟩
      · rw [hmem]
        exact Mem.read_writeSlot _ _ _
      · rw [hmem]
        exact Mem.byte_writeSlot_outside _ _ _ hout
    · obtain ⟨-, hdies, -⟩ := transferApply_new_keeps hstream1 hack hl1 hseen
      have hmem1 := (stackOf_of_dies hpop.dies v.stack).trans hm
      have htile : (stackTile (popArrival s key a) v.stack (transferOff v a.tile)).2 = (stackTile s v.stack (transferOff v a.tile)).2 := by
        rw [stackTile, hmem1, stackTile, hm]
      obtain ⟨k, hk, hread⟩ := transferStored_reduced (slot := slot) hmem1 hrep hred (htile ▸ hsum)
      exact ⟨_, k, hexec, (stackOf_of_dies hdies _).trans hk, hread⟩
  case ack =>
    have hexec := exec_collStepAck hw hslot hsi
    obtain ⟨b, hacked⟩ := collView_modColl hv fun c => { c with acked := true }
    refine ⟨fun hs hr => ?_, fun hs hr hmore => ?_, fun hs hr hlast => ?_, fun n hn => ?_, exec_collPeerAbort_faulted hv hw hslot, fun hst => ?_⟩
    · refine reached (y := { v.x with coll := { c with acked := true } }) ((hexec _).trans (congrArg done (ackApply_acked hv hs))) ?_ fun _ => rfl
      rw [collAdvance_waits fun v2 hv2 => .inr (Option.some.inj (hacked.symm.trans hv2) ▸ hr), streamIn_modColl, hstream, Option.map_some]
    · have hready := collAdvance_ready hacked hs rfl hr v.p.steps
      dsimp only at hready
      rw [if_neg (Nat.not_le.2 hmore)] at hready
      have hfrom : AtStep slot si (c.step + 1) (modColl (modColl s slot si fun c => { c with acked := true }) slot si
          fun c => { c with step := c.step + 1, sends := 0, acked := false }) := by
        refine ⟨{ v.x with coll := { c with step := c.step + 1, sends := 0, acked := false } }, ?_, Nat.le_refl _⟩
        rw [streamIn_modColl, streamIn_modColl, hstream, Option.map_some, Option.map_some]
      obtain ⟨y, hy, hstep⟩ := ((StepsOn.sendStep _ false none).trans (StepsOn.collAdvance v.p.steps _)) _ hfrom
      exact reached ((hexec _).trans (congrArg done ((ackApply_acked hv hs).trans hready))) hy fun _ => hstep
    · have hready := collAdvance_ready hacked hs rfl hr v.p.steps
      dsimp only at hready
      rw [if_pos hlast] at hready
      obtain ⟨y, hy, -, hactive, hstarted, hlen⟩ := collDeliver_streamIn hacked
      exact reached ((hexec _).trans (congrArg done ((ackApply_acked hv hs).trans hready))) hy fun _ => ⟨hactive, hstarted, hlen⟩
    · rw [hexec, ackApply_eq hv, if_neg]
      rcases hn with hn | hn
      · simp [show v.x.coll.step ≠ n from Ne.symm hn]
      · simp [show v.x.coll.started = false from hn]
    · obtain ⟨src, he⟩ := exec_collPeerAbort hv hw hslot hsi hst
      exact abort he (.of_stop hv hst _ _ _)
  case timeout =>
    intro by_
    have hexec := exec_collStepTimeout hv hs ha
    refine ⟨fun o hsends ho => ?_, fun hst hnone => ?_⟩
    · have hopt : stepOption s v (some c.option) = some o := by
        rw [stepOption]
        rcases ho with ho | ⟨hskip, ho⟩
        · rw [show route s _ _ none (some c.option) = some o from ho]
        · rw [show route s _ _ none (some c.option) = none from hskip]
          exact ho
      rw [if_neg (Nat.not_le.2 hsends), sendStep_again hv hl hp, hopt] at hexec
      refine reached (y := { v.x with coll := c.sentOver o }) hexec ?_ fun _ => ⟨?_, fld_resendReport _ _ _⟩
      · rw [streamIn_of_pl (resendReport_pl _ _ _), stepQueued_streamIn, hstream, Option.map_some]
      · exact congrArg (fun k => ({ c with acked := k, sends := c.sends + 1, option := o.1, link := o.2, blocked := false } : Coll)) ha.symm
    · by_cases hsends : 4 ≤ c.sends
      · rw [if_pos hsends] at hexec
        exact abort hexec (collAbort_aborted hv hst _)
      · have hroute : by_ none = none := hnone.resolve_left hsends
        have hopt : stepOption s v (some c.option) = none := by
          rw [stepOption, route_skip_none hroute]
          exact hroute
        rw [if_neg hsends, sendStep_again hv hl hp, hopt] at hexec
        exact abort hexec (collAbort_aborted hv hst _)
  case idle =>
    refine congrArg done ?_
    rw [hv]
    dsimp only
    rw [if_pos h]

end Sys2Proof.Proofs
end

section
/-!
SUPPORT. What resolving a speculation does to the unresolved tiles of every stream of a bundle (R213 to R222): it changes which checkpoints they
wait for, and takes tiles away, and adds none.
-/
namespace Sys2Proof.Machine
open Sys2Proof

variable {s t u : State} {slot si : Nat} {b b' c : Bundle}

/-! ### Unresolved tiles kept or taken away -/

/-- From `b` to `c` a bundle keeps its image and its streams, and has no unresolved tile that it had not, nor one confirmed since. -/
def ProvsLeft (b c : Bundle) : Prop := c.img = b.img ∧ ∀ (si : Nat) (r : StreamRec) (z : Stream), b.img.streams[si]? = some r →
  b.streams[si]? = some z → ∃ z' : Stream, c.streams[si]? = some z' ∧ ∀ p ∈ z'.prov, ∃ q ∈ z.prov, q.seq = p.seq ∧ q.confirmed = p.confirmed

/-- What of a bundle is of its streams' unresolved tiles. -/
def Bundle.posted (b : Bundle) : BundleImg × List (List ProvTile) := (b.img, b.streams.map Stream.prov)

namespace ProvsLeft

theorem of_posted (h : c.posted = b.posted) : ProvsLeft b c := by
  obtain ⟨himg, hprov⟩ := Prod.ext_iff.1 h
  refine ⟨himg, fun si r z _ hz => ?_⟩
  have hsi := congrArg (fun l => l[si]?) hprov
  simp only [Bundle.posted, List.getElem?_map, hz, Option.map_some] at hsi
  obtain ⟨z', hz', hp⟩ := Option.map_eq_some_iff.1 hsi
  exact ⟨z', hz', fun p hmem => ⟨p, hp ▸ hmem, rfl, rfl⟩⟩

theorem trans {d : Bundle} (h : ProvsLeft b c) (k : ProvsLeft c d) : ProvsLeft b d := by
  refine ⟨k.1.trans h.1, fun si r z hr hz => ?_⟩
  obtain ⟨z1, hz1, h1⟩ := h.2 si r z hr hz
  obtain ⟨z2, hz2, h2⟩ := k.2 si r z1 (h.1 ▸ hr) hz1
  refine ⟨z2, hz2, fun p hp => ?_⟩
  obtain ⟨q, hq, hseq, hconf⟩ := h2 p hp
  obtain ⟨o, ho, hseq', hconf'⟩ := h1 q hq
  exact ⟨o, ho, hseq'.trans hseq, hconf'.trans hconf⟩

/-- Streams each changed by its record, none gaining an unresolved tile. -/
theorem of_zip {f : StreamRec × Stream → Stream} (himg : c.img = b.img) (hs : c.streams = (b.img.streams.zip b.streams).map f)
    (hf : ∀ r x, ∀ p ∈ (f (r, x)).prov, ∃ q ∈ x.prov, q.seq = p.seq ∧ q.confirmed = p.confirmed) : ProvsLeft b c := by
  refine ⟨himg, fun si r z hr hz => ⟨f (r, z), ?_, hf r z⟩⟩
  rw [hs, List.getElem?_map, List.getElem?_zip_eq_some (z := (r, z)) |>.2 ⟨hr, hz⟩, Option.map_some]

end ProvsLeft

/-! ### Resolutions in a bundle -/

theorem wakeResolution_left (b : Bundle) : ProvsLeft b (wakeResolution b) := .of_posted rfl

theorem settleProv_left (b : Bundle) : ProvsLeft b (settleProv b) := by
  refine .of_zip rfl rfl fun r x p hp => ?_
  dsimp only at hp
  split at hp
  · exact ⟨p, hp, rfl, rfl⟩
  · exact ⟨p, (List.mem_filter.1 hp).1, rfl, rfl⟩

theorem releaseCkpt_left (b : Bundle) (idx id : Nat) : ProvsLeft b (releaseCkpt b idx id) := by
  refine .of_zip rfl rfl fun r x p hp => ?_
  dsimp only at hp
  split at hp
  · obtain ⟨q, hq, rfl⟩ := List.mem_map.1 hp
    exact ⟨q, hq, rfl, rfl⟩
  · exact ⟨p, hp, rfl, rfl⟩

theorem releaseAll_left (n : Nat) (b : Bundle) : ProvsLeft b (releaseAll n b) := by
  induction n generalizing b with
  | zero => exact settleProv_left b
  | succ n ih =>
    unfold releaseAll
    extract_lets b1
    split
    · exact ((settleProv_left b).trans (releaseCkpt_left _ _ _)).trans (ih _)
    · exact settleProv_left b

/-! ### What changes no unresolved tile -/

/-- From `s` to `t` the bundle of a slot keeps its image and its unresolved tiles. -/
def ProvsKept (slot : Nat) (s t : State) : Prop := (slotBundle t slot).map Bundle.posted = (slotBundle s slot).map Bundle.posted

namespace ProvsKept

theorem of_pl (h : t.pl = s.pl) : ProvsKept slot s t := congrArg (Option.map _) (slotBundle_of_pl h slot)
theorem refl (s : State) : ProvsKept slot s s := of_pl rfl
theorem trans (h : ProvsKept slot s t) (k : ProvsKept slot t u) : ProvsKept slot s u := Eq.trans k h

theorem ite {p : Prop} [Decidable p] (h : ProvsKept slot s t) (k : ProvsKept slot s u) : ProvsKept slot s (if p then t else u) := by
  split
  · exact h
  · exact k

theorem foldl {α : Type} (f : State → α → State) (hf : ∀ s a, ProvsKept slot s (f s a)) (l : List α) (s : State) : ProvsKept slot s (l.foldl f s) :=
  List.foldlRecOn _ _ (refl s) fun _ h a _ => h.trans (hf _ a)

theorem of_bodies (h : BodiesKept s t) : ProvsKept slot s t := by
  have hs := congrArg (Option.map Bundle.posted) (h slot)
  rwa [Option.map_map, Option.map_map, show Bundle.posted ∘ Bundle.body = Bundle.posted from rfl] at hs

theorem of_bundles (hb : slotBundle s slot = some b) (hc : slotBundle t slot = some c) (h : c.posted = b.posted) : ProvsKept slot s t := by
  rw [ProvsKept, hb, hc, Option.map_some, Option.map_some, h]

theorem setSlot (hb : slotBundle s slot = some b) (h : c.posted = b.posted) : ProvsKept slot s (setSlot s slot c) :=
  of_bundles hb (slotBundle_setSlot s slot c) h

theorem modBundle (s : State) {f : Bundle → Bundle} (hf : ∀ b, (f b).posted = b.posted) : ProvsKept slot s (modBundle s slot f) := by
  cases hb : slotBundle s slot with
  | none =>
    rw [Machine.modBundle, hb]
    exact refl s
  | some b => exact of_bundles hb (slotBundle_modBundle hb f) (hf b)

theorem map_modAt {α β : Type} (l : List α) (i : Nat) {f : α → α} {g : α → β} (h : ∀ a, g (f a) = g a) : (modAt l i f).map g = l.map g := by
  refine List.ext_getElem? fun k => ?_
  rw [List.getElem?_map, List.getElem?_map, getElem?_modAt]
  split
  · rename_i hk
    rw [hk, Option.map_map, show g ∘ f = g from funext h]
  · rfl

theorem modStream (s : State) (si : Nat) {f : Stream → Stream} (hf : ∀ x, (f x).prov = x.prov) : ProvsKept slot s (modStream s slot si f) :=
  modBundle s fun b => Prod.ext rfl (map_modAt b.streams si hf)

theorem modColl (s : State) (si : Nat) (f : Coll → Coll) : ProvsKept slot s (modColl s slot si f) := modStream s si fun _ => rfl

/-! ### Frames that complete (R298) -/

theorem governorRaise (s : State) (w : Nat) : ProvsKept slot s (governorRaise s slot w) := by
  unfold Machine.governorRaise
  refine ite (refl s) ?_
  split
  · exact refl s
  · rename_i b hb
    refine ProvsKept.trans ?_ (of_pl (resettle_pl _))
    exact setSlot hb rfl

theorem governorLower (s : State) : ProvsKept slot s (governorLower s slot) := by
  unfold Machine.governorLower
  split
  · exact refl s
  · rename_i b hb
    refine ite (ProvsKept.trans ?_ (of_pl (resettle_pl _))) (refl s)
    exact setSlot hb rfl

theorem frameComplete (s : State) (frame : Word) (c : Nat) : ProvsKept slot s (frameComplete s slot frame c) := by
  unfold Machine.frameComplete
  split
  · exact refl s
  · rename_i b hb
    split
    · exact of_pl (report_pl _ _ _ _ _)
    · rename_i f _
      extract_lets d slack win slacks least b1 s1 s2 s3 s4
      have h1 : ProvsKept slot s s1 := setSlot hb rfl
      have h2 : ProvsKept slot s1 s2 := ite (refl s1) (ite (of_pl (bumpFldAt_pl _ _ _ _ _ _))
        ((of_pl (bumpFldAt_pl _ _ _ _ _ _)).trans (of_pl (lateReport_frame _ slot b f).1)))
      have h4 : ProvsKept slot s2 s4 := (of_pl (setFldAt_pl _ _ _ _ _ _)).trans (of_pl (setFldAt_pl _ _ _ _ _ _))
      exact ((h1.trans h2).trans h4).trans (ite (governorRaise s4 _) (governorLower s4))

theorem completion (s : State) (idx order : Nat) (r : StreamRec) (q : Tile) : ProvsKept slot s (completion s slot idx order r q) := by
  unfold Machine.completion
  split
  · exact refl s
  · refine ite (ProvsKept.trans ?_ (frameComplete _ _ _)) (refl s)
    exact modBundle s fun _ => rfl

/-! ### The collective engine (R386 to R390) -/

theorem faultWith (s : State) (code src : Nat) (d : List Byte) : ProvsKept slot s (faultWith s slot code src d) := by
  cases hb : slotBundle s slot with
  | none =>
    rw [Machine.faultWith, hb]
    exact refl s
  | some b =>
    by_cases hst : b.st = .faulted
    · rw [Machine.faultWith, hb]
      dsimp only
      rw [if_pos hst]
      exact refl s
    · obtain ⟨b', hb', hbody⟩ := slotBundle_faultWith hb hst code src d
      exact of_bundles hb hb' (congrArg Bundle.posted hbody :)

theorem collAbort (s : State) (si cause : Nat) : ProvsKept slot s (collAbort s slot si cause) := by
  cases h : collView s slot si with
  | none =>
    rw [Machine.collAbort, h]
    exact refl s
  | some v =>
    rw [collAbort_eq h]
    exact (((of_pl (setEvent_pl s _)).trans (faultWith _ _ _ _)).trans (modColl _ si _)).trans (of_pl (tellPeers_fabricOnly v _).pl)

theorem sendStep (s : State) (si : Nat) (resend : Bool) (skip : Option Nat) : ProvsKept slot s (sendStep s slot si resend skip) := by
  cases h : collView s slot si with
  | none =>
    rw [Machine.sendStep, h]
    exact refl s
  | some v =>
    rw [sendStep_eq h]
    refine ite (modColl s si _) (ite (modColl s si _) ?_)
    split
    · exact collAbort s si _
    · rename_i o _
      have hq : ProvsKept slot s (stepQueued s slot si v resend o) :=
        ((of_pl (countAlt_pl s o _)).trans (modColl _ si _)).trans (of_pl (stepQueued_pl s slot si v resend o))
      exact ite (hq.trans (of_pl (resendReport_pl _ slot v))) hq

theorem collDeliver (s : State) (si : Nat) : ProvsKept slot s (collDeliver s slot si) := by
  cases h : collView s slot si with
  | none =>
    rw [Machine.collDeliver, h]
    exact refl s
  | some v =>
    rw [collDeliver_eq h]
    refine ProvsKept.trans (foldl _ (fun s e => ?_) _ s) (modColl _ si _)
    exact (of_pl (stagingRead_pl s _ _)).trans (modStream _ si fun _ => rfl)

theorem collAdvance (n : Nat) (s : State) (si : Nat) : ProvsKept slot s (collAdvance n s slot si) := by
  induction n generalizing s with
  | zero => exact refl s
  | succ n ih =>
    rw [Machine.collAdvance]
    split
    · exact refl s
    · exact ite (refl s) (ite (collDeliver s si) (((modColl s si _).trans (sendStep _ si _ _)).trans (ih _)))

theorem collStart (s : State) (si : Nat) : ProvsKept slot s (collStart s slot si) := by
  unfold Machine.collStart
  split
  · exact refl s
  · exact ite (collAbort s si _) (((modColl s si _).trans (sendStep _ si _ _)).trans (collAdvance _ _ si))

theorem collStage (s : State) (si : Nat) (q : Tile) : ProvsKept slot s (collStage s slot si q) := by
  unfold Machine.collStage
  split
  · exact refl s
  · rename_i v _
    extract_lets a s1 s2
    have h1 : ProvsKept slot s s1 := of_pl ((((StackOnly.refl v.stack s).openRows a slotBytes).modStack _).pl)
    have h2 : ProvsKept slot s s2 := h1.trans (modColl s1 si _)
    split
    · exact ite (h2.trans (collStart s2 si)) h2
    · exact h2

theorem launch (s : State) (si : Nat) (q : Tile) : ProvsKept slot s (launch s slot si q) := modStream s si fun _ => rfl

end ProvsKept

/-! ### Resolutions in a slot -/

/-- From `s` to `t` the bundle of a slot has gained no unresolved tile. -/
def SlotLeft (slot : Nat) (s t : State) : Prop := ∀ b, slotBundle s slot = some b → ∃ c, slotBundle t slot = some c ∧ ProvsLeft b c

namespace SlotLeft

theorem of_kept (h : ProvsKept slot s t) : SlotLeft slot s t := by
  intro b hb
  have hk := h
  rw [ProvsKept, hb] at hk
  obtain ⟨c, hc, hp⟩ := Option.map_eq_some_iff.1 hk
  exact ⟨c, hc, .of_posted hp⟩

theorem refl (s : State) : SlotLeft slot s s := of_kept (.refl s)

theorem trans (h : SlotLeft slot s t) (k : SlotLeft slot t u) : SlotLeft slot s u := by
  intro b hb
  obtain ⟨c, hc, h1⟩ := h b hb
  obtain ⟨d, hd, h2⟩ := k c hc
  exact ⟨d, hd, h1.trans h2⟩

theorem foldl {α : Type} (f : State → α → State) (hf : ∀ s a, SlotLeft slot s (f s a)) (l : List α) (s : State) : SlotLeft slot s (l.foldl f s) :=
  List.foldlRecOn _ _ (refl s) fun _ h a _ => h.trans (hf _ a)

/-- The oldest unresolved tile of a stream leaves it. -/
theorem popProv (hb : slotBundle s slot = some b) {x : Stream} (hx : b.streams[si]? = some x) {p : ProvTile} {rest : List ProvTile}
    (hp : x.prov = p :: rest) : SlotLeft slot s (modStream s slot si fun x => { x with prov := rest }) := by
  intro b' hb'
  obtain rfl : b = b' := Option.some.inj (hb.symm.trans hb')
  refine ⟨_, slotBundle_modBundle hb _, rfl, fun sj r z hr hz => ?_⟩
  dsimp only
  rw [getElem?_modAt]
  by_cases hsj : sj = si
  · subst hsj
    obtain rfl : x = z := Option.some.inj (hx.symm.trans hz)
    rw [if_pos rfl, hx]
    exact ⟨_, rfl, fun q hq => ⟨q, hp ▸ List.mem_cons_of_mem p hq, rfl, rfl⟩⟩
  · rw [if_neg hsj]
    exact ⟨z, hz, fun q hq => ⟨q, hq, rfl, rfl⟩⟩

theorem launchHeld (n : Nat) (s : State) (si : Nat) : SlotLeft slot s (launchHeld n s slot si) := by
  induction n generalizing s with
  | zero => exact refl s
  | succ n ih =>
    rw [Machine.launchHeld]
    split
    · exact refl s
    · rename_i b hb
      split
      · rename_i x r hx hr
        split
        · rename_i p rest hp
          split
          · refine ((popProv hb hx hp).trans (of_kept ?_)).trans (ih _)
            exact (ProvsKept.ite (.collStage _ si _) (.launch _ si _)).trans (.completion _ _ _ _ _)
          · exact refl s
        · exact refl s
      · exact refl s

theorem completeResolved (s : State) (b : Bundle) : SlotLeft slot s (completeResolved s slot b) :=
  of_kept (.foldl _ (fun s _ => .ite (.refl s) (.foldl _ (fun s _ => .completion s _ _ _ _) _ s)) _ s)

/-- What a resolution lets go takes unresolved tiles away and adds none. -/
theorem resolveAll (s : State) : SlotLeft slot s (resolveAll s slot) := by
  unfold Machine.resolveAll
  split
  · exact refl s
  · rename_i b hb
    extract_lets fuel s1
    have h0 : SlotLeft slot s (setSlot s slot (wakeResolution (releaseAll fuel b))) := by
      intro b' hb'
      obtain rfl : b = b' := Option.some.inj (hb.symm.trans hb')
      exact ⟨_, slotBundle_setSlot _ _ _, (releaseAll_left fuel b).trans (wakeResolution_left _)⟩
    refine (h0.trans (completeResolved _ b)).trans (foldl _ (fun s si => ?_) _ s1)
    split
    · split
      · exact launchHeld 9 s si
      · exact refl s
    · exact refl s

/-- What holds of every unresolved tile by its number and confirmation holds after as well. -/
theorem stream (h : SlotLeft slot s t) (hb : slotBundle s slot = some b) {r : StreamRec} (hr : b.img.streams[si]? = some r) {x : Stream}
    (hx : b.streams[si]? = some x) {P : Word → Bool → Prop} (hP : ∀ p ∈ x.prov, P p.seq p.confirmed) :
    ∃ c y, slotBundle t slot = some c ∧ c.streams[si]? = some y ∧ ∀ p ∈ y.prov, P p.seq p.confirmed := by
  obtain ⟨c, hc, -, hleft⟩ := h b hb
  obtain ⟨y, hy, hprov⟩ := hleft si r x hr hx
  refine ⟨c, y, hc, hy, fun p hp => ?_⟩
  obtain ⟨q, hq, hseq, hconf⟩ := hprov p hp
  exact hseq ▸ hconf ▸ hP q hq

end SlotLeft

end Sys2Proof.Machine
end

section
/-!
PROOF. CONFIRM and CANCEL (R219 to R222): a range confirmed; what is cancelled from a tile on leaves its stream.
-/
namespace Sys2Proof.Machine
open Sys2Proof

variable {s t u : State} {cell : Nat} {w : Word} {x : Where} {slot si k : Nat} {b : Bundle}

/-! ### What is cancelled -/

/-- Tiles of a stream are cancelled from a place on, or from an earlier one. -/
def CancelledFrom (cm : Cancelled) (si k : Nat) : Prop := ∃ p, SMap.find cm si = some p ∧ p ≤ k

theorem CancelledFrom.insert {cm : Cancelled} (h : CancelledFrom cm si k) (i n : Nat) :
    CancelledFrom (SMap.insert cm i (min n (SMap.getD cm i n))) si k := by
  obtain ⟨p, hp, hle⟩ := h
  by_cases hi : si = i
  · subst hi
    refine ⟨_, SMap.find_insert_self _ _ _, ?_⟩
    rw [SMap.getD, hp]
    exact (Nat.min_le_right _ _).trans hle
  · exact ⟨p, (SMap.find_insert_ne _ _ hi).trans hp, hle⟩

theorem CancelledFrom.cancelMore {cm : Cancelled} (h : CancelledFrom cm si k) (b : Bundle) : CancelledFrom (cancelMore b cm) si k := by
  unfold Machine.cancelMore
  refine List.foldlRecOn (motive := fun c : Cancelled => CancelledFrom c si k) _ _ h fun c hc p _ => ?_
  split
  · exact hc
  · refine List.foldlRecOn (motive := fun c : Cancelled => CancelledFrom c si k) _ _ hc fun d hd e _ => ?_
    split
    · split
      · exact hd.insert _ _
      · exact hd
    · exact hd

theorem CancelledFrom.closure {cm : Cancelled} (h : CancelledFrom cm si k) (b : Bundle) (n : Nat) : CancelledFrom (cancelClosure b n cm) si k := by
  induction n generalizing cm with
  | zero => exact h
  | succ n ih => exact ih (h.cancelMore b)

theorem CancelledFrom.mem {cm : Cancelled} (h : CancelledFrom cm si k) {y : Stream} (hy : b.streams[si]? = some y) {q : Word}
    (hq : q ∈ (y.prov.drop k).map (·.seq)) : q ∈ cancelledSeqs b cm si := by
  obtain ⟨p, hp, hle⟩ := h
  rw [cancelledSeqs, hp, hy]
  dsimp only
  obtain ⟨j, hj⟩ := Nat.exists_eq_add_of_le hle
  rw [hj, ← List.drop_drop] at hq
  obtain ⟨z, hz, rfl⟩ := List.mem_map.1 hq
  exact List.mem_map_of_mem (List.mem_of_mem_drop hz)

/-! ### The rollback -/

theorem ProvsKept.blockFinish (s : State) (w : Where) (op : BlockOp) (lat : Option Nat) : ProvsKept slot s (blockFinish s w op lat) := by
  have work (s : State) (cell code : Nat) (ctx : EvCtx) (n : Nat) : ProvsKept slot s (workEvent s cell code ctx n) := of_pl (bumpEv_pl _ _ _ _)
  unfold Machine.blockFinish
  extract_lets cell ctx mma s1 s2 s3
  have h1 : ProvsKept slot s s1 := of_bodies (.modStation s _ _ _)
  have h2 : ProvsKept slot s1 s2 := ProvsKept.trans (foldl _ (fun s (e : Nat × Nat) => work s cell e.1 ctx e.2) _ s1) (work _ _ _ _ _)
  exact ((h1.trans h2).trans (work s2 _ _ _ _)).trans (work s3 _ _ _ _)

theorem stallCount_pl (s : State) (w : Where) : (stallCount s w).pl = s.pl := ((FabricOnly.refl s).stallCount w).pl

/-- A rollback leaves on a stream no unresolved tile that it cancels. -/
theorem rollback_stream {cm : Cancelled} (hb : slotBundle s slot = some b) {r : StreamRec} (hr : b.img.streams[si]? = some r) {y : Stream}
    (hy : b.streams[si]? = some y) : ∃ c z, slotBundle (rollback s slot cm) slot = some c ∧ c.streams[si]? = some z ∧
      ∀ p ∈ z.prov, p.seq ∉ cancelledSeqs b cm si := by
  unfold rollback
  rw [hb]
  dsimp -zeta only
  extract_lets hit s1 s2 back s3 s4 s5
  have h1 : ProvsKept slot s s1 := by
    refine .foldl _ (fun s h => ?_) _ s
    split
    · refine ProvsKept.trans (.of_pl (stallCount_pl s _)) (.foldl _ (fun s o => ?_) _ _)
      split
      · exact .blockFinish s _ _ _
      · exact .refl s
    · exact .refl s
  have h2 : ProvsKept slot s1 s2 := .foldl _ (fun s h => .of_bodies (.modStation s _ _ _)) _ s1
  obtain ⟨b2, hb2, himg, hleft⟩ := SlotLeft.of_kept (h1.trans h2) b hb
  obtain ⟨y2, hy2, -⟩ := hleft si r y hr hy
  have hb3 := slotBundle_modBundle hb2 fun b2 => { b2 with streams := (withIdx (b.img.streams.zip b2.streams)).map (fun p =>
    rewind p.2.1 (cancelledSeqs b cm p.1) back p.2.2) }
  have hy3 : ((withIdx (b.img.streams.zip b2.streams)).map (fun p => rewind p.2.1 (cancelledSeqs b cm p.1) back p.2.2))[si]? =
      some (rewind r (cancelledSeqs b cm si) back y2) := by
    rw [List.getElem?_map, getElem?_withIdx (x := (r, y2)) (List.getElem?_zip_eq_some.2 ⟨hr, hy2⟩), Option.map_some]
  have h4 : s4.pl = s3.pl := by
    refine List.foldlRecOn (motive := fun t : State => t.pl = s3.pl) _ _ rfl fun t ht h _ => ?_
    split
    · rw [bumpEv_pl, ht]
    · exact ht
  have h5 : s5.pl = s3.pl := by
    dsimp only [s5]
    split
    · exact h4
    · rw [bumpFldAt_pl, setEvent_pl, h4]
  refine (SlotLeft.resolveAll s5).stream (r := r) ((slotBundle_of_pl h5 slot).trans hb3) (himg.symm ▸ hr) hy3
    (P := fun q _ => q ∉ cancelledSeqs b cm si) fun p hp hmem => ?_
  have hkeep := (List.mem_filter.1 hp).2
  simp [hmem] at hkeep

/-- A CANCEL leaves on its stream no unresolved tile from the first one named on. -/
theorem cancelRange_stream (hb : slotBundle s slot = some b) {r : StreamRec} (hr : b.img.streams[si]? = some r) {y : Stream}
    (hy : b.streams[si]? = some y) {lo : Word} (hk : y.prov.findIdx? (fun p => p.seq == lo) = some k) :
    ∃ c z, slotBundle (cancelRange s slot si lo) slot = some c ∧ c.streams[si]? = some z ∧
      ∀ p ∈ z.prov, p.seq ∉ (y.prov.drop k).map (·.seq) := by
  have hfrom (n : Nat) : CancelledFrom (cancelClosure b n [(si, k)]) si k := by
    refine CancelledFrom.closure ⟨k, ?_, Nat.le_refl k⟩ b n
    simp [SMap.find]
  rw [cancelRange, hb]
  dsimp only
  rw [hy]
  dsimp only
  rw [hk]
  obtain ⟨c, z, hc, hz, hgone⟩ := rollback_stream (cm := cancelClosure b _ [(si, k)]) hb hr hy
  exact ⟨c, z, hc, hz, fun p hp hmem => hgone p hp ((hfrom _).mem hy hmem)⟩

/-- A CONFIRM confirms what its stream still has unresolved of its range. -/
theorem resolveAll_confirmRange (hb : slotBundle s slot = some b) {r : StreamRec} (hr : b.img.streams[si]? = some r) {y : Stream}
    (hy : b.streams[si]? = some y) (lo hi : Word) :
    ∃ c z, slotBundle (resolveAll (modStream s slot si (fun x => confirmRange x lo hi)) slot) slot = some c ∧ c.streams[si]? = some z ∧
      ∀ p ∈ z.prov, (p.seq - lo).toNat ≤ (hi - lo).toNat → p.confirmed = true := by
  have hy' : (modAt b.streams si fun x => confirmRange x lo hi)[si]? = some (confirmRange y lo hi) := by
    rw [getElem?_modAt, if_pos rfl, hy, Option.map_some]
  refine (SlotLeft.resolveAll _).stream (r := r) (slotBundle_modBundle hb _) hr hy'
    (P := fun q conf => (q - lo).toNat ≤ (hi - lo).toNat → conf = true) fun p hp => ?_
  obtain ⟨q, -, rfl⟩ := List.mem_map.1 hp
  split
  · exact fun _ => rfl
  · rename_i hout
    exact fun hin => absurd hin hout

/-! ### At issue -/

theorem outEnd_parts {idx n : Nat} {r : StreamRec} {y : Stream} (h : outEnd b idx n = some (si, r, y)) :
    b.img.streams[si]? = some r ∧ b.streams[si]? = some y := by
  unfold outEnd at h
  split at h
  · cases h
  · split at h
    · cases h
      exact ⟨‹_›, ‹_›⟩
    · cases h

theorem OnlyStation.slotBundle {st : Station} (h : OnlyStation s t x st) : slotBundle t x.slot = some (withStation x st) := by
  obtain ⟨c, p, n, rfl⟩ := h
  exact SMap.find_insert_self _ _ _

/-- What CONFIRM and CANCEL do with a range that they may name. -/
theorem needRange_eq (h : Issues s cell w x) (hspec : x.sr.spec ≠ 0) {r : StreamRec} {y : Stream}
    (hend : outEnd x.b x.idx (fRD w) = some (si, r, y)) {ok : Stream → Word → Word → Bool}
    (hok : ok y (BitVec.ofNat 32 ((getG x.st (fRA w)).toNat % 2 ^ 32)) (BitVec.ofNat 32 ((getG x.st (fRB w)).toNat % 2 ^ 32)) = true)
    (f : Nat → Word → Word → State) : needRange (atIssue s x w) ok f =
      f si (BitVec.ofNat 32 ((getG x.st (fRA w)).toNat % 2 ^ 32)) (BitVec.ofNat 32 ((getG x.st (fRB w)).toNat % 2 ^ 32)) := by
  have hi := h.issueOf
  rw [needRange, hi.sr, if_neg hspec, h.bundle, outEnd_withStation, hi.idx, hi.insn, hend, hi.ga, hi.gb]
  dsimp only
  rw [if_pos hok]

theorem needRange_outside (h : Issues s cell w x) (hspec : x.sr.spec = 0) (ok : Stream → Word → Word → Bool) (f : Nat → Word → Word → State) :
    needRange (atIssue s x w) ok f = (atIssue s x w).fault C.specInvalid (fRD w) := by
  have hi := h.issueOf
  rw [needRange, hi.sr, if_pos hspec, hi.insn]

end Sys2Proof.Machine

namespace Sys2Proof.Proofs
open Sys2Proof Sys2Proof.Machine

/-- Settles O30: the range is confirmed or cancelled on its stream, and nothing that the resolution lets go adds an unresolved tile. -/
theorem confirmAndCancelResolve : Obligations.ConfirmAndCancelResolve := by
  intro s cell w x h lo hi after
  have hpast : slotBundle (goOn (atIssue s x w).s (atIssue s x w).w id) x.slot = some (withStation x (past (issued x w))) :=
    (h.issueOf.goOn h.at_.on.lt id).slotBundle
  have outside {c : Instr} {u : State} (hc : exec c s = done u) (hu : u = (atIssue s x w).fault C.specInvalid (fRD w)) (hspec : x.sr.spec = 0) :
      ∃ t, exec c s = .next t ∧ FaultShown t cell x 0x0219 x.st.pc w (fRD w) := by
    have hlt : fRD w < 2 ^ 32 := (fRD_lt w).trans (by decide)
    have hs := shown_of_fault h hc (code := C.specInvalid) (by decide) hu (Nat.mod_eq_of_lt hlt)
    rwa [shownDetail, if_neg fun he => he.1 hspec] at hs
  refine ⟨fun si r y ho hspec hend hok => ?confirm, fun si r y k ho hspec hend hok hk => ?cancel, fun ho hspec => ?confirmOutside, fun ho hspec => ?cancelOutside⟩
  case confirm =>
    obtain ⟨hr, hy⟩ := outEnd_parts hend
    have he := exec_issue_eq (c := .confirm cell w) h rfl ho (by decide) (by decide)
    rw [needRange_eq h hspec hend hok] at he
    obtain ⟨c, z, hc, hz, hconf⟩ := resolveAll_confirmRange (b := withStation x (past (issued x w))) hpast hr hy lo hi
    rw [h.issueOf.slot] at he
    exact ⟨_, c, z, he, hc, hz, hconf⟩
  case cancel =>
    obtain ⟨hr, hy⟩ := outEnd_parts hend
    have he := exec_issue_eq (c := .cancel cell w) h rfl ho (by decide) (by decide)
    rw [needRange_eq h hspec hend hok] at he
    obtain ⟨c, z, hc, hz, hgone⟩ := cancelRange_stream (b := withStation x (past (issued x w))) hpast hr hy hk
    rw [h.issueOf.slot] at he
    exact ⟨_, c, z, he, hc, hz, hgone⟩
  case confirmOutside =>
    exact outside (exec_issue_eq (c := .confirm cell w) h rfl ho (by decide) (by decide)) (needRange_outside h hspec _ _) hspec
  case cancelOutside =>
    exact outside (exec_issue_eq (c := .cancel cell w) h rfl ho (by decide) (by decide)) (needRange_outside h hspec _ _) hspec

end Sys2Proof.Proofs
end

section
/-!
SUPPORT. What a POST reads and writes (R43, R47, R48, R198, R202): its slot, its header's flags, a store slot of clean memory, its
streams.
-/
namespace Sys2Proof.Machine
open Sys2Proof

variable {s t u : State} {cell n slot si : Nat} {w : Word} {x : Where} {b : Bundle} {m : Mem}

/-! ### Flags (R42) -/

theorem flag_setFlag (h : TileHeader) {k j : Nat} (hk : k < 16) (v : Bool) :
    (h.setFlag k v).flag j = if j = k then v else h.flag j := by
  have hlt : setField h.flags.toNat k 1 (b2n v) < 2 ^ 16 := setField_lt h.flags.isLt (by omega) _
  rw [TileHeader.flag, TileHeader.setFlag, BitVec.getLsbD, BitVec.toNat_ofNat, Nat.mod_eq_of_lt hlt, testBit_setField]
  by_cases e : j = k
  · subst e
    rw [if_pos ⟨le_refl _, Nat.lt_succ_self _⟩, Nat.sub_self, if_pos rfl]
    cases v <;> rfl
  · rw [if_neg (by omega), if_neg e]
    rfl

/-- The flags of a posted tile's header: those that POST sets, and the tile's own (R43). -/
theorem postHeader_flag (s : State) (r : StreamRec) (cell : Nat) (seq : Word) (prov : Bool) (q : Tile) (j : Nat) :
    (postHeader s r cell seq prov q).hdr.flag j = if j = flagResend then false else if j = flagProvisional then prov
      else if j = flagDelta then r.kind == 2 else q.hdr.flag j := by
  show (((q.hdr.setFlag flagDelta (r.kind == 2)).setFlag flagProvisional prov).setFlag flagResend false).flag j = _
  rw [flag_setFlag _ (by decide), flag_setFlag _ (by decide), flag_setFlag _ (by decide)]

theorem postHeader_payload (s : State) (r : StreamRec) (cell : Nat) (seq : Word) (prov : Bool) (q : Tile) :
    (postHeader s r cell seq prov q).payload = q.payload := rfl
theorem postHeader_scale (s : State) (r : StreamRec) (cell : Nat) (seq : Word) (prov : Bool) (q : Tile) :
    (postHeader s r cell seq prov q).scale = q.scale := rfl
/-- The header fields that POST leaves to the station (R43). -/
theorem postHeader_hdr (s : State) (r : StreamRec) (cell : Nat) (seq : Word) (prov : Bool) (q : Tile) :
    let h := (postHeader s r cell seq prov q).hdr
    h.frame = q.hdr.frame ∧ h.index = q.hdr.index ∧ h.format = q.hdr.format ∧ h.shape = q.hdr.shape ∧ h.len = q.hdr.len :=
  ⟨rfl, rfl, rfl, rfl, rfl⟩
theorem setFlag_payload (q : Tile) (k : Nat) (v : Bool) : (q.setFlag k v).payload = q.payload := rfl

/-! ### The slot that POST reads -/

theorem trimmedTile_hdr (q : Tile) : (trimmedTile q).hdr = q.hdr := by
  unfold trimmedTile
  dsimp only
  split <;> rfl

/-- The slot that POST reads needs no correction where it issues cleanly. -/
theorem correct_of_post (h : Issues s cell w x) (ho : fOpc w = 0x29) {a : Handle} (ha : getT x.st (fRA w) = some a) :
    x.st.scratch.correct a.addr slotBytes = ⟨x.st.scratch, [], []⟩ := by
  have hmem : Item.slot a.addr slotBytes ∈ scanned x.st w := by
    simp [scanned, fullFootprint, footprint, accessSize, slotItem, ho, ha]
  exact correct_of_scanItems h.clean hmem rfl

theorem Mem.readSlot_hdr_of_correct {a : Nat} (h : m.correct a slotBytes = ⟨m, [], []⟩) (keep : Bool) :
    (m.readSlot a keep).tile.hdr = (slotTile m a).hdr := by
  simp only [Mem.readSlot, h, List.foldl_nil, List.isEmpty_nil, if_true]
  rfl

/-! ### A stack whose memory needs no correction -/

theorem Mem.correct_of_chk_nil (h : m.chk = []) (a k : Nat) : m.correct a k = ⟨m, [], []⟩ := by
  rw [Mem.correct, h]
  rfl

theorem Mem.readSlot_of_chk_nil (h : m.chk = []) (a : Nat) (keep : Bool) : m.readSlot a keep = ⟨Tile.ofSlot (m.read a slotBytes) [], m, [], []⟩ := by
  simp only [Mem.readSlot, Mem.correct_of_chk_nil h, List.foldl_nil, List.isEmpty_nil, if_true, h, List.filter_nil, List.map_nil]
  rw [ite_self]

/-- The memory of a stack is `m`. -/
def StackHolds (s : State) (n : Nat) (m : Mem) : Prop := (stackOf s n).map (·.mem) = some m

theorem StackHolds.next (h : StackHolds s n m) (k : LastKept n s t) : StackHolds t n m := Eq.trans k.mem h

theorem StackHolds.stackRead (h : StackHolds s n m) (hc : m.chk = []) (off len : Nat) : StackHolds (stackRead s n off len).st n m := by
  obtain ⟨k, hk, rfl⟩ := Option.map_eq_some_iff.1 h
  rw [Machine.stackRead, hk]
  dsimp only
  rw [Mem.correct_of_chk_nil hc]
  exact stackFound_mem hk _ _ _

theorem LastKept.spareReports (s : State) (bank : Nat) : LastKept n s (spareReports s n bank) := by
  unfold Machine.spareReports
  split
  · exact .report _ _ _ _ _
  · exact .report _ _ _ _ _
  · exact .refl _ _

theorem StackHolds.finishRepair (h : StackHolds s n m) (hc : m.chk = []) (bank row : Nat) : StackHolds (finishRepair s n bank row) n m := by
  have hrow : StackHolds (correctRow s n (bank * 65536 + row)) n m :=
    List.foldlRecOn (motive := fun t : State => StackHolds t n m) _ _ h fun t ht off _ => ht.stackRead hc off 64
  have hmap : StackHolds (modStack (correctRow s n (bank * 65536 + row)) n fun k => k.remap bank row) n m := by
    obtain ⟨k, hk, hmem⟩ := Option.map_eq_some_iff.1 hrow
    rw [StackHolds, stackOf_modStack, if_pos rfl, hk]
    exact congrArg some hmem
  unfold Machine.finishRepair
  extract_lets s1 s2
  have hcount : LastKept n s1 s2 := (LastKept.stkEvent s1 _ _).trans (LastKept.setFldAt _ _ _ _ _ _)
  exact hmap.next ((hcount.trans (.report _ _ _ _ _)).trans (.spareReports _ _))

theorem StackHolds.openRows (h : StackHolds s n m) (hc : m.chk = []) (off len : Nat) : StackHolds (openRows s n off len) n m := by
  refine StackHolds.next (s := awaitRepairs s n off len) ?_ (.activate _ _)
  unfold awaitRepairs
  split
  · exact h
  · exact List.foldlRecOn (motive := fun t : State => StackHolds t n m) _ _ h fun t ht key _ => ht.finishRepair hc _ _

theorem StackHolds.stackTile (h : StackHolds s n m) (hc : m.chk = []) (off : Nat) :
    (stackTile s n off).2 = Tile.ofSlot (m.read off slotBytes) [] := by
  obtain ⟨k, hk, rfl⟩ := Option.map_eq_some_iff.1 h
  rw [Machine.stackTile, hk]
  dsimp only
  rw [Mem.readSlot_of_chk_nil hc]

/-! ### A stream of a bundle changed -/

theorem OnlyBundle.modStream {y : Stream} (h : OnlyBundle s t slot b) (hy : b.streams[si]? = some y) (f : Stream → Stream) :
    OnlyBundle s (modStream t slot si f) slot { b with streams := b.streams.set si (f y) } := by
  have hmod := h.mod (fun b => { b with streams := modAt b.streams si f })
  rwa [modAt_of hy] at hmod

theorem OnlyBundle.startStream {y : Stream} (h : slotBundle s slot = some b) (hy : b.streams[si]? = some y) (f : Stream → Stream) :
    OnlyBundle s (Machine.modStream s slot si f) slot { b with streams := b.streams.set si (f y) } := by
  have hmod := OnlyBundle.start h (fun b => { b with streams := modAt b.streams si f })
  rwa [modAt_of hy] at hmod

/-- Only counters differ before the bundle changes. -/
theorem OnlyBundle.of_counts (h : OnlyBundle t u slot b) {c : SMap Count} {p : Sampling} {k : Nat}
    (ht : t = { s with counts := c, sampling := p, free := k }) : OnlyBundle s u slot b := by
  subst ht
  exact h

/-- The part of a posted stream under way, or held. -/
theorem OnlyBundle.launch {y : Stream} (h : OnlyBundle s t slot b) (hy : b.streams[si]? = some y) (q : Tile) :
    OnlyBundle s (launch t slot si q) slot { b with streams := b.streams.set si { y with flight := y.flight ++ [⟨q, List.range y.ends.length⟩] } } :=
  h.modStream hy _

/-- A tile that completes no frame leaves the state (R298). -/
theorem completion_of_not {r : StreamRec} {q : Tile} (h : slotBundle s slot = some b) (hq : isCompletion b r = false ∨ q.hdr.flag flagLast = false)
    (idx order : Nat) : completion s slot idx order r q = s := by
  rw [completion, h]
  dsimp only
  rw [if_neg]
  rcases hq with hq | hq <;> simp [hq]

theorem OnlyBundle.deltaCount (h : OnlyBundle s t slot b) (v : Where) (insn : Word) (sent key : Bool) :
    OnlyBundle s (deltaCount t v insn sent key) slot b := (h.bump _ _ _).bump _ _ _

/-! ### A hop -/

theorem hopCounts_frame (s : State) (h : HopInfo) : ∃ c p k, hopCounts s h = { s with counts := c, sampling := p, free := k } := by
  unfold hopCounts
  cases h.link with
  | mesh q => dsimp only; rw [bumpEv_frame, bumpEv_frame, bumpEv_frame]; exact ⟨_, _, _, rfl⟩
  | edge q => dsimp only; rw [bumpEv_frame, bumpEv_frame, bumpEv_frame]; exact ⟨_, _, _, rfl⟩
  | carrier q => dsimp only; rw [bumpEv_frame, bumpEv_frame]; exact ⟨_, _, _, rfl⟩

theorem hopTile_of_lt {h : HopInfo} (hf : h.fails < 4) (q : Tile) : hopTile h q = q := if_neg (by omega)

end Sys2Proof.Machine
end

section
/-!
PROOF. POST (R43, R47, R48, R198, R202, R210, R211): a tile checked at issue, suppressed by its delta end, or launched at its first hop.
-/
namespace Sys2Proof.Machine
open Sys2Proof

variable {s t u : State} {cell n slot si : Nat} {w : Word} {x : Where} {b : Bundle} {r : StreamRec} {y : Stream} {h : Handle}

/-! ### POST at issue -/

/-- The status codes of R48, R200 and R386, each with a DETAIL of 32 bits. -/
theorem postFault_lt {hd : TileHeader} {c d : Nat} (h : postFault r y hd = some (c, d)) : c < 2 ^ 16 ∧ d < 2 ^ 32 := by
  have hindex : hd.index.toNat < 2 ^ 32 := hd.index.isLt
  have hframe : hd.frame.toNat < 2 ^ 32 := hd.frame.isLt
  unfold postFault at h
  split at h
  case h_1 hf =>
    cases h
    unfold headerFault at hf
    split_ifs at hf <;> cases hf <;> exact ⟨by decide, by decide⟩
  case h_2 =>
    split_ifs at h
    · unfold deltaBreach at h
      dsimp only at h
      split_ifs at h
      · cases h; exact ⟨by decide, hindex⟩
      · cases h; exact ⟨by decide, hframe⟩
      · cases h; exact ⟨by decide, hindex⟩
      · split at h
        · split_ifs at h
          cases h
          exact ⟨by decide, hframe⟩
        · cases h
    · cases h
      exact ⟨by decide, hindex⟩

/-- The instruction at issue once its slot is read. -/
def postRead (i : Issue) (a : Handle) : Issue :=
  { i with
    s := modStation i.s i.w.slot i.w.idx (fun st => { st with scratch := (i.w.st.scratch.readSlot a.addr true).mem })
    w := { i.w with st := { i.w.st with scratch := (i.w.st.scratch.readSlot a.addr true).mem } } }

/-- The wait of a POST for its first hop, `full` where R211 would hold the tile. -/
def postWait (i : Issue) (full : Bool) : State := startWait { i with s := if full then resourceWait i.s else i.s } (.post (fRD i.insn))

/-- What a POST does with a tile: a fault of its header, the wait for its first hop, or its end where a delta end suppresses the tile. -/
def postGoes (i : Issue) (si : Nat) (r : StreamRec) (y : Stream) (q : Tile) (wait : State) : State :=
  match postFault r y q.hdr with
  | some (c, d) => i.fault c d
  | none =>
    if r.kind = 2 then
      match deltaView i.s i.w.slot si q with
      | none => wait
      | some v => match v.act.send with
        | some _ => wait
        | none => goOn (deltaCount (deltaApply v i.w.slot si q false) i.w i.insn false false) i.w id
    else wait

/-- What a POST does with the slot that its handle names, at the end that it names. -/
def postBody (i : Issue) : State :=
  needHandle i (fRA i.insn) (fun a =>
    match outEnd i.w.b i.w.idx (fRD i.insn) with
    | none => i.fault C.endInvalid (fRD i.insn)
    | some (si, r, y) =>
      postGoes (postRead i a) si r y (trimmedTile (i.w.st.scratch.readSlot a.addr true).tile)
        (postWait (postRead i a) (specOf i.w.b.img i.w.idx != 0 && decide (8 ≤ y.prov.length))))

theorem execPost_eq (cell : Nat) (w : Word) (s : State) : execPost cell w s = done (issue s cell w 0x29 postBody) := by
  refine congrArg (fun body => done (issue s cell w 0x29 body)) (funext fun i => ?_)
  refine congrArg (needHandle i (fRA i.insn)) (funext fun a => ?_)
  cases outEnd i.w.b i.w.idx (fRD i.insn) with
  | none => rfl
  | some e =>
    dsimp only
    unfold postGoes
    cases postFault e.2.1 e.2.2 (trimmedTile (i.w.st.scratch.readSlot a.addr true).tile).hdr with
    | some f => rfl
    | none => rfl

theorem exec_post (h : Issues s cell w x) (ho : fOpc w = 0x29) {a : Handle} (ha : getT x.st (fRA w) = some a)
    (hend : outEnd x.b x.idx (fRD w) = some (si, r, y)) : exec (.post cell w) s =
      done (postGoes (postRead (atIssue s x w) a) si r y (trimmedTile (x.st.scratch.readSlot a.addr true).tile)
        (postWait (postRead (atIssue s x w) a) (specOf x.b.img x.idx != 0 && decide (8 ≤ y.prov.length)))) := by
  have hi := h.issueOf
  refine (exec_issue_eq (c := .post cell w) h (congrArg id (execPost_eq cell w s)) ho rfl (by decide)).trans (congrArg done ?_)
  have hout : outEnd (atIssue s x w).w.b (atIssue s x w).w.idx (fRD (atIssue s x w).insn) = some (si, r, y) := by
    rw [h.bundle, outEnd_withStation, hi.idx, hi.insn, hend]
  have hscratch : (atIssue s x w).w.st.scratch = x.st.scratch := by rw [hi.st]; rfl
  rw [postBody, needHandle_set (h := a) (by rw [hi.insn, hi.getT, ha]), hout, hscratch, hi.img, hi.idx]

/-- The instruction at issue after its slot is read leaves the station as it is issued. -/
theorem postRead_only (h : Issues s cell w x) (ho : fOpc w = 0x29) {a : Handle} (ha : getT x.st (fRA w) = some a) :
    OnlyStation s (postRead (atIssue s x w) a).s x (issued x w) := by
  obtain ⟨hmem, -⟩ := Mem.readSlot_of_correct (correct_of_post h ho ha) true
  have hi := h.issueOf
  have hscratch : (atIssue s x w).w.st.scratch = x.st.scratch := by rw [hi.st]; rfl
  rw [postRead, hscratch, hmem, hi.slot, hi.idx]
  exact hi.only.mod h.at_.on.lt _

theorem postRead_at (h : Issues s cell w x) (ho : fOpc w = 0x29) {a : Handle} (ha : getT x.st (fRA w) = some a) :
    IssueAt s cell x w (postRead (atIssue s x w) a) where
  only := ⟨_, postRead_only h ho ha⟩
  slot := h.issueAt.slot
  idx := h.issueAt.idx
  cell := h.issueAt.cell
  pc := h.issueAt.pc
  sr := h.issueAt.sr
  img := h.issueAt.img
  streams := h.issueAt.streams
  insn := h.issueAt.insn

theorem postWait_only (h : Issues s cell w x) (ho : fOpc w = 0x29) {a : Handle} (ha : getT x.st (fRA w) = some a) :
    OnlyStation s (postWait (postRead (atIssue s x w) a) false) x
      { issued x w with waiting := .post (fRD w), waitInsn := w, waitSince := now s } := by
  have hi := postRead_at h ho ha
  show OnlyStation s (startWait (postRead (atIssue s x w) a) (.post (fRD (postRead (atIssue s x w) a).insn))) x _
  rw [hi.insn]
  exact (postRead_only h ho ha).startWait (i := postRead (atIssue s x w) a) h.at_.on.lt hi.slot hi.idx hi.insn (.post (fRD w))

/-! ### What a delta end does (R198, R202) -/

/-- A delta end that suppresses a tile closes no frame and was given none poisoned. -/
theorem deltaAct_suppresses {p : DeltaParam} {key : Bool} {fi : FmtInfo} {q k : Tile} (h : (deltaAct p key fi q k).send = none) :
    q.hdr.flag flagLast = false := by
  unfold deltaAct at h
  extract_lets f sb clean taken at h
  split at h
  · cases h
  split at h
  · cases h
  split at h
  · cases h
  · have hsend : (if q.hdr.flag flagLast = true then some (zeroBody q) else none) = none := h
    by_contra hlast
    rw [if_pos (by simpa using hlast)] at hsend
    cases hsend

/-- A keyframe's tile is sent whole. -/
theorem deltaAct_key {p : DeltaParam} {fi : FmtInfo} {q : Tile} (hq : q.poisoned = false) (k : Tile) : (deltaAct p true fi q k).send = some q := by
  simp [deltaAct, hq]

/-- What the delta end of a bundle's stream sees of a tile. -/
theorem deltaView_eq (hb : slotBundle s slot = some b) (hy : b.streams[si]? = some y) (hr : b.img.streams[si]? = some r) {fi : FmtInfo} {q : Tile}
    (hf : fmtInfo q.fmt = some fi) : ∃ v store, deltaView s slot si q = some v ∧ v.st.pl = s.pl ∧ v.d = deltaOpen (isSource b.img r) y.delta q.hdr ∧
      v.act = deltaAct (DeltaParam.parse r.param) v.d.key fi q store ∧
      ∀ n off m, storeAt b r (DeltaParam.parse r.param) q.hdr.index.toNat = some (n, off) → StackHolds s n m → m.chk = [] →
        store = Tile.ofSlot (m.read off 4256) [] := by
  simp only [deltaView, hb, hy, hr, hf]
  cases hp : storeAt b r (DeltaParam.parse r.param) q.hdr.index.toNat with
  | none => exact ⟨_, _, rfl, rfl, rfl, rfl, fun _ _ _ e => nomatch e⟩
  | some e =>
    refine ⟨_, _, rfl, stagingRead_pl s e.1 e.2, rfl, rfl, fun n off m he hm hc => ?_⟩
    cases he
    exact (hm.openRows hc _ _).stackTile hc off

/-- A tile that ends no frame is accounted at its delta end. -/
theorem deltaApply_of_not_last {v : DeltaView} {q : Tile} (hq : q.hdr.flag flagLast = false) (sent : Bool) (hb : slotBundle v.st slot = some b)
    (hy : b.streams[si]? = some y) : ∃ s1, s1.pl = v.st.pl ∧ OnlyBundle s1 (deltaApply v slot si q sent) slot
      { b with streams := b.streams.set si { y with delta := { v.d with
        posted := v.d.posted ++ [q.hdr.index.toNat]
        sent := (v.d.sent + b2n sent) % 2 ^ 32
        suppressed := (v.d.suppressed + b2n (!sent)) % 2 ^ 32 } } } := by
  unfold deltaApply
  simp only [hq, Bool.false_eq_true, if_false]
  split
  · refine ⟨_, ?_, .startStream ?_ hy _⟩
    · rfl
    · exact (slotBundle_of_pl rfl slot).trans hb
  · exact ⟨_, rfl, .startStream hb hy _⟩

theorem OnlyBundle.dies (h : OnlyBundle s t slot b) : t.dies = s.dies := by
  obtain ⟨_, _, _, rfl⟩ := h
  rfl

/-! ### The first hop of a POST -/

theorem arithEvents_pl (s : State) (cell : Nat) (c : EvCtx) (k : Cnt) : (arithEvents s cell c k).pl = s.pl := by simp [arithEvents, workEvent]

/-- What the first hop does with the tile of a POST that it takes, `s` where it takes none. -/
def hopGoes (s s0 : State) (cell : Nat) (x : Where) (si : Nat) (r : StreamRec) (y : Stream) (q : Tile) : State :=
  if r.kind = 2 then
    match deltaView s0 x.slot si q with
    | none => s
    | some v0 =>
      let v := { v0 with st := arithEvents v0.st cell (ctxOf x x.st.pc x.st.waitInsn none) v0.act.cnt }
      match v.act.send with
      | none => endWait (deltaCount (deltaApply v x.slot si q false) x x.st.waitInsn false false) x id
      | some k =>
        endWait (deltaCount (postPlain (deltaApply v x.slot si q true) x si r y (k.setFlag flagKeyframe v.d.key)) x x.st.waitInsn true v.d.key) x id
  else if specOf x.b.img x.idx != 0 then endWait (postProvisional s0 x si r y q) x id
  else endWait (postPlain s0 x si r y q) x id

theorem exec_hop {hop : HopInfo} (h : OnCell s cell x) (hrun : x.st.run = .running) (hwait : x.st.waiting = .post n) {a : Handle}
    (hset : getT x.st (fRA x.st.waitInsn) = some a) (hend : outEnd x.b x.idx n = some (si, r, y)) (hk : r.kind ≠ 3)
    (hfirst : firstHop ⟨cell, hop⟩ = true) (hopen : hopOpen s hop = true) (hfails : hop.fails < 4) :
    exec (.postFirstHopAccept ⟨cell, hop⟩) s = done (if (specOf x.b.img x.idx != 0 && decide (8 ≤ y.prov.length)) = true then s
      else hopGoes s (hopCounts s hop) cell x si r y (trimmedTile (x.st.scratch.readSlot a.addr true).tile)) := by
  refine congrArg done ?_
  rw [h.on]
  dsimp only
  rw [hrun, hwait]
  dsimp only
  rw [hend, hset]
  dsimp only
  rw [hfirst, hopen, hopTile_of_lt hfails, decide_eq_false hk]
  rfl

/-- A tile posted outside every region is under way (R52). -/
theorem postPlain_only (hb : slotBundle t x.slot = some b) {y' : Stream} (hy : b.streams[si]? = some y') (hk : r.kind ≠ 3) {q : Tile}
    (hq : isCompletion b r = false ∨ q.hdr.flag flagLast = false) :
    OnlyBundle t (postPlain t x si r y q) x.slot { b with streams := b.streams.set si { y' with
      nextSeq := y'.nextSeq + 1
      flight := y'.flight ++ [⟨postHeader t r (cellNo x.st) y.nextSeq false q, List.range y'.ends.length⟩] } } := by
  have hlt : si < b.streams.length := (List.getElem?_eq_some_iff.1 hy).1
  have hlaunch := (OnlyBundle.startStream hb hy fun y => { y with nextSeq := y.nextSeq + 1 }).launch
    (si := si) (List.getElem?_set_self hlt) (postHeader t r (cellNo x.st) y.nextSeq false q)
  simp only [List.set_set] at hlaunch
  unfold postPlain
  dsimp only
  rw [if_neg hk, if_neg hk, completion_of_not hlaunch.bundle]
  · exact hlaunch
  · refine hq.imp id fun hlast => ?_
    rw [postHeader_flag]
    exact hlast

/-- A tile posted in a region is provisional (R210): held, or under way inside the region. -/
theorem postProvisional_only (hb : slotBundle t x.slot = some x.b) (hy : x.b.streams[si]? = some y) (hk : r.kind ≠ 3) (q : Tile) :
    OnlyBundle t (postProvisional t x si r y q) x.slot { x.b with streams := x.b.streams.set si { y with
      nextSeq := y.nextSeq + 1
      prov := y.prov ++ [⟨y.nextSeq, x.st.order - 1, false, x.st.ckpts.map (·.id), isBoundary x.b.img r,
        postHeader t r (cellNo x.st) y.nextSeq true q⟩]
      flight := if isBoundary x.b.img r then y.flight
        else y.flight ++ [⟨postHeader t r (cellNo x.st) y.nextSeq true q, List.range y.ends.length⟩] } } := by
  have hlt : si < x.b.streams.length := (List.getElem?_eq_some_iff.1 hy).1
  have hheld : isHeld x.b.img r = isBoundary x.b.img r := by simp [isHeld, hk]
  unfold postProvisional
  simp only [if_neg hk, hheld]
  have hjoin := OnlyBundle.startStream hb hy fun z => { z with
    nextSeq := z.nextSeq + 1
    prov := z.prov ++ [⟨(postHeader t r (cellNo x.st) y.nextSeq true q).hdr.seq, postOrder x, false, x.st.ckpts.map (·.id), isBoundary x.b.img r,
      postHeader t r (cellNo x.st) y.nextSeq true q⟩] }
  split
  · exact hjoin
  · have hlaunch := hjoin.launch (si := si) (List.getElem?_set_self hlt) (postHeader t r (cellNo x.st) y.nextSeq true q)
    simp only [List.set_set] at hlaunch
    exact hlaunch

/-- The wait of a station with no fault deferred ends. -/
theorem OnlyBundle.endPost (h : OnlyBundle s t x.slot b) (hst : b.stations[x.idx]? = some x.st) (hd : x.st.deferred = []) :
    OnlyBundle s (Machine.endWait t x id) x.slot { b with stations := b.stations.set x.idx (past { x.st with waiting := .no }) } :=
  h.endWait hst (f := id) hd

end Sys2Proof.Machine

namespace Sys2Proof.Proofs
open Sys2Proof Sys2Proof.Machine

/-- Settles O21: the POST at issue, its first hop outside every region, and in one. -/
theorem postLaunchesTheTile : Obligations.PostLaunchesTheTile := by
  refine ⟨⟨?issue, ?plain⟩, ?provisional⟩
  case issue =>
    intro s cell w x a si r y h ho ha hend fails
    have hexec := exec_post h ho ha hend
    have hhdr : (trimmedTile (x.st.scratch.readSlot a.addr true).tile).hdr = (slotTile x.st.scratch a.addr).hdr :=
      (trimmedTile_hdr _).trans (Mem.readSlot_hdr_of_correct (correct_of_post h ho ha) true)
    refine ⟨fun hf hk hroom => ?waits, fun c d hf => ?faults, ?suppressed⟩
    case waits =>
      have hfull : (specOf x.b.img x.idx != 0 && decide (8 ≤ y.prov.length)) = false := by
        rcases hroom with hroom | hroom
        · simp [hroom]
        · simp [Nat.not_le.2 hroom]
      have hnone : postFault r y (slotTile x.st.scratch a.addr).hdr = none := hf
      rw [hfull, postGoes, hhdr, hnone] at hexec
      dsimp only at hexec
      rw [if_neg hk] at hexec
      exact ⟨_, hexec, postWait_only h ho ha⟩
    case faults =>
      obtain ⟨hc, hd⟩ := postFault_lt hf
      have hsome : postFault r y (slotTile x.st.scratch a.addr).hdr = some (c, d) := hf
      rw [postGoes, hhdr, hsome] at hexec
      refine ⟨_, hexec, ?_⟩
      have hshown := (postRead_at h ho ha).fault_shown h.at_.on.lt hc d
      rwa [Nat.mod_eq_of_lt hd] at hshown
    case suppressed =>
      intro q d fi n off m hf hk hfmt hstore hstack hclean hsend
      have hi := postRead_at h ho ha
      have honly := postRead_only h ho ha
      obtain ⟨himg, hy⟩ := outEnd_parts hend
      have hb : slotBundle (postRead (atIssue s x w) a).s x.slot = some (withStation x (issued x w)) := honly.slotBundle
      have hmem : StackHolds (postRead (atIssue s x w) a).s n m.mem := by
        rw [StackHolds, stackOf_of_dies honly.onlyBundle.dies, hstack]
        rfl
      obtain ⟨v, store, hview, hpl, hd, hact, hread⟩ := deltaView_eq hb (si := si) hy himg hfmt
      have hstored := hread n off m.mem hstore hmem hclean
      have hnone : v.act.send = none := by rw [hact, hd, hstored]; exact hsend
      have hlast : q.hdr.flag flagLast = false := deltaAct_suppresses (hact ▸ hnone)
      obtain ⟨s1, -, happly⟩ := deltaApply_of_not_last hlast false ((slotBundle_of_pl hpl x.slot).trans hb) (si := si) hy
      have hgo := (happly.deltaCount (postRead (atIssue s x w) a).w w false false).modStation (idx := x.idx) (st := issued x w)
        (List.getElem?_set_self h.at_.on.lt) past
      have hpass : postFault r y (slotTile x.st.scratch a.addr).hdr = none := hf
      rw [postGoes, hhdr, hpass] at hexec
      dsimp only at hexec
      rw [if_pos hk, hi.slot, hview] at hexec
      dsimp only at hexec
      rw [hnone, hi.insn] at hexec
      dsimp only at hexec
      rw [goOn, hi.slot, hi.idx] at hexec
      refine ⟨_, past (issued x w), _, _, hexec, ?_, rfl, rfl, hgo.bundle, List.getElem?_set_self (List.getElem?_eq_some_iff.1 hy).1, rfl, rfl, ?_, ?_⟩
      · exact (stationAt_of_slotBundle hgo.bundle _).trans (List.getElem?_set_self (by simpa [withStation] using h.at_.on.lt))
      · exact congrArg (fun e : DeltaEnd => (e.suppressed + 1) % 2 ^ 32) hd
      · exact congrArg (fun e : DeltaEnd => e.posted ++ [q.hdr.index.toNat]) hd
  case plain =>
    intro s cell n hop x a si r y h hrun hwait hdef hset hend hk3 hspec hfirst hopen hfails q d
    obtain ⟨himg, hy⟩ := outEnd_parts hend
    obtain ⟨c, p, k, hcounts⟩ := hopCounts_frame s hop
    have hb : slotBundle (hopCounts s hop) x.slot = some x.b := by rw [hcounts]; exact h.slot
    have hexec := exec_hop h hrun hwait hset hend hk3 hfirst hopen hfails
    have hfull : ¬ (specOf x.b.img x.idx != 0 && decide (8 ≤ y.prov.length)) = true := by simp [hspec]
    rw [if_neg hfull, hopGoes] at hexec
    refine ⟨fun hk hkey hpoison hlast hfmt => ?delta, fun hk hlast => ?data⟩
    case delta =>
      obtain ⟨fi, hfi⟩ := Option.isSome_iff_exists.1 hfmt
      obtain ⟨v, store, hview, hpl, hd, hact, -⟩ := deltaView_eq hb (si := si) hy himg hfi
      have hkey' : v.d.key = true := by rw [hd]; exact hkey
      have hsend : v.act.send = some q := by rw [hact, hkey']; exact deltaAct_key hpoison store
      rw [if_pos hk, hview] at hexec
      dsimp only at hexec
      rw [hsend] at hexec
      obtain ⟨s1, -, happly⟩ := deltaApply_of_not_last
        (v := { v with st := arithEvents v.st cell (ctxOf x x.st.pc x.st.waitInsn none) v.act.cnt }) hlast true
        ((slotBundle_of_pl ((arithEvents_pl _ _ _ _).trans hpl) x.slot).trans hb) (si := si) hy
      have hlast' : (q.setFlag flagKeyframe v.d.key).hdr.flag flagLast = false := (flag_setFlag _ (by decide) _).trans hlast
      have hend' := ((postPlain_only (y := y) happly.bundle (si := si) (List.getElem?_set_self (List.getElem?_eq_some_iff.1 hy).1) hk3 (.inr hlast')).deltaCount
        x x.st.waitInsn true v.d.key).endPost h.station hdef
      refine ⟨_, _, _, _, hexec, hend'.bundle, List.getElem?_set_self (by simpa using (List.getElem?_eq_some_iff.1 hy).1), rfl,
        (postHeader_payload _ _ _ _ _ _).trans (setFlag_payload _ _ _), rfl, ?_, ?_, ?_, ?_⟩
      · rw [postHeader_flag, hk]; rfl
      · rw [postHeader_flag]
        exact (flag_setFlag _ (by decide) _).trans hkey'
      · show (v.d.sent + 1) % 2 ^ 32 = _
        rw [hd]
      · show v.d.posted ++ _ = _
        rw [hd]
    case data =>
      have hnospec : ¬ (specOf x.b.img x.idx != 0) = true := by simp [hspec]
      rw [if_neg hk, if_neg hnospec] at hexec
      have hend' := (postPlain_only (x := x) (y := y) hb hy hk3 hlast).endPost h.station hdef
      refine ⟨_, _, hexec, hend'.of_counts hcounts, postHeader_payload _ _ _ _ _ _, postHeader_scale _ _ _ _ _ _, rfl, rfl, ?_, ?_, ?_, ?_, ?_, postHeader_hdr _ _ _ _ _ _⟩
      · rw [hcounts]; exact (BitVec.toNat_ofNat _ _).trans (Nat.mod_mod _ _)
      · rw [postHeader_flag]; rfl
      · rw [postHeader_flag]; exact beq_false_of_ne hk
      · rw [postHeader_flag]; rfl
      · have hcell : cellNo x.st = cell := by rw [cellNo, h.placed]; rfl
        rw [hcounts, ← hcell]
        rfl
  case provisional =>
    intro s cell n hop x a si r y h hrun hwait hdef hset hend hk2 hk3 hspec hfirst hopen hfails q held
    obtain ⟨himg, hy⟩ := outEnd_parts hend
    obtain ⟨c, p, k, hcounts⟩ := hopCounts_frame s hop
    have hb : slotBundle (hopCounts s hop) x.slot = some x.b := by rw [hcounts]; exact h.slot
    have hexec := exec_hop h hrun hwait hset hend hk3 hfirst hopen hfails
    have hin : (specOf x.b.img x.idx != 0) = true := by simpa using hspec
    rw [hin, Bool.true_and] at hexec
    refine ⟨fun hfull => ?_, fun hroom => ?_⟩
    · rwa [if_pos (decide_eq_true hfull)] at hexec
    · rw [if_neg (by simpa using hroom), hopGoes, if_neg hk2, if_pos hin] at hexec
      have hend' := (postProvisional_only (x := x) hb hy hk3 q).endPost h.station hdef
      refine ⟨_, _, hexec, hend'.of_counts hcounts, postHeader_payload _ _ _ _ _ _, rfl, ?_⟩
      rw [postHeader_flag]; rfl

end Sys2Proof.Proofs
end

section
/-!
SUPPORT. What loading, moving and unloading bundles leaves as it was (R75 to R105): the hubs, the sessions but for the answers they are given, the
retirement of cells, and what was sent.
-/
namespace Sys2Proof.Machine
open Sys2Proof

variable {s t u : State}

namespace Conversing

/-! ### What operations of other parts leave -/

theorem emit (s : State) (e : Emit) : Conversing s (emit s e) := of_core ((SameCore.refl s).emit e) (.emit s e)
theorem setSlot (s : State) (k : Nat) (b : Bundle) : Conversing s (setSlot s k b) := of_eq rfl rfl rfl rfl rfl rfl
theorem clearSlot (s : State) (k : Nat) : Conversing s (clearSlot s k) := of_eq rfl rfl rfl rfl rfl rfl
theorem settle (s before : State) : Conversing s (settle s before) := of_eq rfl rfl rfl rfl rfl rfl
theorem resettle (s : State) : Conversing s (resettle s) := settle s s
theorem mapGen (s : State) : Conversing s (mapGen s) := bumpFldAt s _ _ _ _ _
theorem raiseKey (s : State) (k : Nat) : Conversing s (raiseKey s k) := modBundle s k _
theorem releaseStage (s : State) (id : Nat) : Conversing s (releaseStage s id) := of_eq rfl rfl rfl rfl rfl rfl

theorem modSession (s : State) (id : Nat) {f : Session → Session} (hf : ∀ x, (f x).place = x.place) : Conversing s (modSession s id f) where
  active := rfl
  ha := rfl
  hb := rfl
  sessions := by
    show (s.sessions.map _).map Session.place = _
    rw [List.map_map]
    refine List.map_congr_left fun x _ => ?_
    show (if x.id = id then f x else x).place = x.place
    split
    · exact hf x
    · rfl
  retired _ _ h := h
  out := .of_eq rfl

theorem finishReq (s : State) (c : Caller) (status : Nat) (body : List Byte) : Conversing s (finishReq s c status body) := by
  unfold Machine.finishReq
  split
  · exact refl s
  · dsimp only
    split
    · refine (modSession s _ ?_).trans (emit _ _)
      exact fun _ => rfl
    · refine modSession s _ ?_
      exact fun _ => rfl

/-! ### Stations moved, saved and restored -/

theorem scrubStation (s : State) (slot idx : Nat) : Conversing s (scrubStation s slot idx) := by
  unfold Machine.scrubStation
  split
  · exact refl s
  · exact (modBundle s slot _).trans (scratchFound _ _ _ _ _)

theorem saveStation (s : State) (slot idx : Nat) : Conversing s (saveStation s slot idx) := by
  unfold Machine.saveStation
  extract_lets s0
  have h0 : Conversing s s0 := scrubStation s slot idx
  split
  · exact h0
  · dsimp only
    split
    · exact h0.trans (modStation _ _ _ _)
    · exact ((h0.trans (openRows _ _ _ _)).trans (modStack _ _ _)).trans (modStation _ _ _ _)

theorem restoreStation (s : State) (slot idx cell : Nat) : Conversing s (restoreStation s slot idx cell) := by
  unfold Machine.restoreStation
  split
  · exact refl s
  · dsimp only
    split
    · exact modStation s _ _ _
    · rename_i p _
      have h0 : Conversing s (Machine.openRows s p.stack p.off p.len) := openRows s _ _ _
      split
      · exact modStation s _ _ _
      · exact (h0.trans (stackFound _ _ _ _ _)).trans (modBundle _ _ _)

theorem holdFor (s : State) (slot : Nat) : Conversing s (holdFor s slot) := of_bundles (.holdFor s slot)

theorem relocate (s : State) (slot idx : Nat) : Conversing s (relocate s slot idx) := by
  unfold Machine.relocate
  split
  · exact refl s
  · split
    · exact refl s
    · dsimp only
      split
      · exact (report s _ _ _ _).trans (holdFor _ _)
      · exact ((((scrubStation s _ _).trans (modStation _ _ _ _)).trans (setEvent _ _)).trans (mapGen _)).trans ((report _ _ _ _ _).trans (settle _ _))

theorem relocateAll (s : State) (slot : Nat) : Conversing s (relocateAll s slot) := by
  unfold Machine.relocateAll
  split
  · exact refl s
  · refine ite (refl s) (foldl _ (fun s i => ?_) _ s)
    split
    · exact ite (relocate s slot i) (refl s)
    · exact refl s

/-! ### A bundle that leaves -/

theorem wipeRuns (s : State) (l : List Placed) : Conversing s (wipeRuns s l) := foldl _ (fun s _ => modStack s _ _) l s
theorem rememberStreams (s : State) (b : Bundle) : Conversing s (rememberStreams s b) := of_eq rfl rfl rfl rfl rfl rfl
theorem forgetStreams (s : State) (b : Bundle) : Conversing s (forgetStreams s b) := of_eq rfl rfl rfl rfl rfl rfl
theorem dlqAdd (s : State) (d reason cell : Nat) (c : List Byte) (x : Tile) : Conversing s (dlqAdd s d reason cell c x) :=
  of_links (.dlqAdd s d reason cell c x)

theorem sendTile (s : State) (d cell dest vc : Nat) (p : Option Nat) (x : Tile) : Conversing s ((sendTile s d cell dest vc p x).getD s) := by
  cases h : Machine.sendTile s d cell dest vc p x with
  | none => exact refl s
  | some t => exact of_links (LinkWork.sendTile s d cell dest vc p x t h)

theorem endFlights (s : State) (b : Bundle) : Conversing s (endFlights s b) := by
  unfold Machine.endFlights
  refine foldl _ (fun s p => ite (refl s) (foldl _ (fun s f => foldl _ (fun s ci => ?_) _ s) _ s)) _ s
  split
  · exact refl s
  · exact ite (refl s) (ite (sendTile s _ _ _ _ _ _) (dlqAdd s _ _ _ _ _))

theorem endReorder (s : State) (b : Bundle) : Conversing s (endReorder s b) := by
  unfold Machine.endReorder
  exact foldl _ (fun s _ => foldl _ (fun s _ => foldl _ (fun s _ => dlqAdd s _ _ _ _ _) _ s) _ s) _ s

theorem orphanHomed (s : State) (slot : Nat) : Conversing s (orphanHomed s slot) := of_bundles (.orphanHomed s slot)

theorem dropBundle (s : State) (slot : Nat) : Conversing s (dropBundle s slot) := by
  unfold Machine.dropBundle
  split
  · exact refl s
  · extract_lets s1 b1 s2 s3
    have h1 : Conversing s s1 := (of_bundles (.stallAll s slot)).trans (orphanHomed _ _)
    have h2 : Conversing s s2 := h1.trans (ite (((endFlights _ _).trans (endReorder _ _)).trans (rememberStreams _ _)) (refl _))
    have h3 : Conversing s s3 := (h2.trans (wipeRuns _ _)).trans (clearSlot _ _)
    exact h3.trans ((ite (mapGen _) (refl _)).trans (settle _ _))

theorem refuseLoad (s : State) (c : Caller) (stage status : Nat) (l : List Entry) : Conversing s (refuseLoad s c stage status l) :=
  ((setEvent s _).trans (releaseStage _ _)).trans (finishReq _ _ _ _)

theorem releaseDrain (s : State) (slot : Nat) : Conversing s (releaseDrain s slot) := by
  unfold Machine.releaseDrain
  split
  · exact refl s
  · refine ite (refl s) ?_
    dsimp only
    exact (ite (setSlot s _ _) ((setSlot s _ _).trans (of_bundles (.holdBundle _ _)))).trans (relocateAll _ _)

theorem refuseSlot (s : State) (slot status : Nat) (l : List Entry) : Conversing s (refuseSlot s slot status l) := by
  unfold Machine.refuseSlot
  split
  · exact refl s
  · extract_lets s1 s2 _ s3
    have h2 : Conversing s s2 := (foldl _ releaseDrain _ s).trans (dropBundle _ _)
    have h3 : Conversing s s3 := h2.trans (of_eq rfl rfl rfl rfl rfl rfl)
    split
    · exact h3.trans (refuseLoad _ _ _ _ _)
    · exact h3

/-! ### Loads -/

theorem startBundle (s : State) (slot : Nat) : Conversing s (startBundle s slot) := by
  unfold Machine.startBundle
  split
  · exact refl s
  · exact ((setSlot s _ _).trans (ite (raiseKey _ _) (refl _))).trans (resettle _)

theorem release (s : State) (slot i : Nat) : Conversing s (release s slot i) := by
  unfold Machine.release
  split
  · exact refl s
  · exact (modBundle s slot _).trans (foldl _ (fun s (w : Waiter) => of_bundles (.answer s slot i w.src C.ok)) _ _)

theorem readyLoad (s : State) (slot : Nat) : Conversing s (readyLoad s slot) := by
  unfold Machine.readyLoad
  split
  · exact refl s
  · extract_lets fresh s0 s1 _ s2 s3 l
    have h1 : Conversing s s1 := (setSlot s _ _).trans (foldl _ (fun s i => release s slot i) _ _)
    have h2 : Conversing s s2 := by
      refine h1.trans (trans (ite ?_ (refl s1)) (setEvent _ _))
      exact of_eq rfl rfl rfl rfl rfl rfl
    have h3 : Conversing s s3 := h2.trans (ite (startBundle _ _) (refl _))
    split
    · exact (h3.trans (releaseStage _ _)).trans (finishReq _ _ _ _)
    · exact h3

theorem slotRegs (s : State) (slot : Nat) : Conversing s (slotRegs s slot) :=
  ((setFldAt s _ _ _ _ _).trans (setFldAt _ _ _ _ _ _)).trans ((setFldAt _ _ _ _ _ _).trans (setFldAt _ _ _ _ _ _))

theorem takeSlot (s : State) (k : Nat) : Conversing s (takeSlot s k).2 := of_eq rfl rfl rfl rfl rfl rfl

theorem unloadSlot (s : State) (slot : Nat) : Conversing s (unloadSlot s slot) := by
  unfold Machine.unloadSlot
  split
  · exact refl s
  · extract_lets s0
    have h0 : Conversing s s0 := relocateAll s slot
    refine ite (h0.trans (refuseSlot _ _ _ _)) ?_
    split
    · exact (h0.trans (dropBundle _ _)).trans (finishReq _ _ _ _)
    · exact h0.trans (dropBundle _ _)

theorem preloadLocal (s : State) (ps : List Placed) (c : ConstRec) : ∀ t, preloadLocal s ps c = .ok t → Conversing s t := by
  unfold Machine.preloadLocal
  dsimp only
  intro t ht
  split at ht
  · cases ht
  split at ht
  · cases ht
  split at ht
  · cases ht
    refine ((openRows s _ _ _).trans (of_steps (.stackRead _ _ _ _))).trans (foldl _ (fun s p => ?_) _ _)
    exact (openRows s _ _ _).trans (modStack _ _ _)
  · cases ht

theorem preloadAll (l : List (List Placed × ConstRec)) (s : State) : ∀ t, preloadAll s l = .ok t → Conversing s t := by
  induction l generalizing s with
  | nil =>
    intro t ht
    cases ht
    exact refl s
  | cons p l ih =>
    intro t ht
    rw [Machine.preloadAll] at ht
    split at ht
    · exact ih s t ht
    · split at ht
      · rename_i s1 h1
        exact (preloadLocal s _ _ s1 h1).trans (ih s1 t ht)
      · cases ht

theorem placeLoad (s : State) (slot : Nat) (o : FitOut) : Conversing s (placeLoad s slot o) := by
  unfold Machine.placeLoad
  split
  · exact refl s
  · rename_i b hb
    extract_lets s1 k
    have h1 : Conversing s s1 := by
      dsimp only [s1]
      split
      · exact unloadSlot s _
      · exact refl s
    split
    rename_i reuse s2 hs2
    have h2 : Conversing s1 s2 := by
      split at hs2
      · cases hs2
        exact refl s1
      · rw [← show (Machine.takeSlot (Machine.clearSlot s1 slot) k).2 = s2 from congrArg Prod.snd hs2]
        exact (clearSlot s1 slot).trans (takeSlot _ _)
    clear hs2
    extract_lets b1 _ s3 s4
    have h3 : Conversing s2 s3 := by
      refine trans (ite ?_ (refl s2)) (setSlot _ _ _)
      exact of_eq rfl rfl rfl rfl rfl rfl
    have h4 : Conversing s3 s4 := ((((wipeRuns s3 _).trans (mapGen _)).trans (settle _ _)).trans (forgetStreams _ _)).trans (slotRegs _ _)
    have hall : Conversing s s4 := ((h1.trans h2).trans h3).trans h4
    clear_value s1 s3 s4
    split
    · exact hall.trans (refuseSlot _ _ _ _)
    · rename_i s5 h5
      have hpre : Conversing s s5 := hall.trans (preloadAll _ _ s5 h5)
      refine ite ?_ (hpre.trans (readyLoad _ _))
      refine hpre.trans (trans (t := { s5 with pl := { s5.pl with busy := some k } }) ?_ (modBundle _ _ _))
      exact of_eq rfl rfl rfl rfl rfl rfl

theorem beginEvict (s : State) (slot : Nat) (reply : Option Caller) : Conversing s (beginEvict s slot reply) := modBundle s slot _

theorem fitLoad (s : State) (slot : Nat) : Conversing s (fitLoad s slot) := by
  have evicts (s' : State) (h : Conversing s s') (l : List Nat) : Conversing s (l.foldl (fun s v => Machine.beginEvict s v none) s') :=
    h.trans (foldl _ (fun s v => beginEvict s v none) l s')
  have waits (x : Placer) (h : x.retired = s.pl.retired) : Conversing s { s with pl := x } := of_eq rfl rfl rfl rfl h rfl
  unfold Machine.fitLoad
  split
  · exact refl s
  · refine ite (refuseSlot s _ _ _) ?_
    split
    split
    · refine ite (ite (placeLoad s _ _) (evicts _ ?_ _)) (refuseSlot s _ _ _)
      exact waits _ rfl
    · refine ite (placeLoad s _ _) (evicts _ ?_ _)
      exact waits _ rfl

theorem planLoad (s : State) (slot : Nat) : Conversing s (planLoad s slot) := by
  unfold Machine.planLoad
  split
  · exact refl s
  · exact ite (refuseSlot s _ _ _) (ite ((setSlot s _ _).trans (fitLoad _ _)) (ite (ite ((setSlot s _ _).trans (fitLoad _ _)) (refuseSlot s _ _ _))
      (setSlot s _ _)))

theorem startLoad (s : State) (r : LoadReq) : Conversing s (startLoad s r) := by
  unfold Machine.startLoad
  split
  · exact finishReq s _ _ _
  · refine ite ((releaseStage s _).trans (finishReq _ _ _ _)) ?_
    split
    · exact refuseLoad s _ _ _ _
    · rename_i img _
      extract_lets k
      split
      rename_i reuse s1 hs1
      have h1 : Conversing s s1 := by
        split at hs1
        · rw [← show (Machine.takeSlot s k).2 = s1 from congrArg Prod.snd hs1]
          exact takeSlot s k
        · cases hs1
          exact refl s
      refine (h1.trans ?_).trans (planLoad _ _)
      exact of_eq rfl rfl rfl rfl rfl rfl

theorem runProbe (s : State) (r : LoadReq) : Conversing s (runProbe s r) := by
  unfold Machine.runProbe
  split
  · exact finishReq s _ _ _
  · refine ite (finishReq s _ _ _) ?_
    split
    · exact finishReq s _ _ _
    · exact finishReq s _ _ _

theorem pumpLoads (n : Nat) (s : State) : Conversing s (pumpLoads n s) := by
  induction n generalizing s with
  | zero => exact refl s
  | succ n ih =>
    unfold Machine.pumpLoads
    refine ite (refl s) ?_
    split
    · rename_i k rest _
      have h1 : Conversing s { s with pl := { s.pl with ready := rest } } := of_eq rfl rfl rfl rfl rfl rfl
      exact ((h1.trans (modBundle _ _ _)).trans (fitLoad _ _)).trans (ih _)
    · rename_i r rest _ _
      have h1 : Conversing s { s with pl := { s.pl with queue := rest } } := of_eq rfl rfl rfl rfl rfl rfl
      exact (h1.trans (ite (runProbe _ _) (startLoad _ _))).trans (ih _)
    · exact refl s

theorem pump_ (s : State) : Conversing s (pump_ s) := pumpLoads _ s

theorem finishEvict (s : State) (slot : Nat) : Conversing s (finishEvict s slot) := by
  unfold Machine.finishEvict
  split
  · exact refl s
  · extract_lets s1 s2 s3 s4 s5 s6
    have h2 : Conversing s s2 := ((orphanHomed s slot).trans (endFlights _ _)).trans (rememberStreams _ _)
    have h4 : Conversing s2 s4 := (modBundle s2 slot _).trans (foldl _ (fun s i => saveStation s slot i) _ _)
    have h6 : Conversing s4 s6 := (((modBundle s4 slot _).trans (mapGen _)).trans (setEvent _ _)).trans (settle _ _)
    have hall : Conversing s s6 := (h2.trans h4).trans h6
    split
    · exact hall.trans (finishReq _ _ _ _)
    · exact hall

/-! ### Cells retired -/

theorem moveRetired (s : State) (cell : Nat) : Conversing s (moveRetired s cell) := by
  unfold Machine.moveRetired
  split
  · exact refl s
  · refine ite (refl s) (ite ?_ (relocateAll s _))
    split
    · exact (modStation s _ _ _).trans (mapGen _)
    · exact (refuseSlot s _ _ _).trans (pump_ _)

end Conversing

end Sys2Proof.Machine
end

section
/-!
SUPPORT. What a hub's takeover leaves as it was (R441, R481, R490 to R492, R514): which hub acts, and how the hubs stand.
-/
namespace Sys2Proof.Machine
open Sys2Proof

variable {s t u : State} {h k : Hub}

/-- From `s` to `t` the same hub acts, and the hubs stay as they are but for their recorders. -/
structure HubsKept (s t : State) : Prop where
  active : t.active = s.active
  ha : t.ha.core = s.ha.core
  hb : t.hb.core = s.hb.core

theorem Conversing.hubs (h : Conversing s t) : HubsKept s t := ⟨h.active, h.ha, h.hb⟩

namespace HubsKept

theorem of_core (h : SameCore s t) : HubsKept s t := ⟨h.active, (congrArg State.ha h :), (congrArg State.hb h :)⟩
theorem of_eq (ha : t.active = s.active) (h1 : t.ha = s.ha) (h2 : t.hb = s.hb) : HubsKept s t := ⟨ha, by rw [h1], by rw [h2]⟩
theorem refl (s : State) : HubsKept s s := of_eq rfl rfl rfl
theorem trans (h : HubsKept s t) (k : HubsKept t u) : HubsKept s u := ⟨k.active.trans h.active, k.ha.trans h.ha, k.hb.trans h.hb⟩

theorem ite {p : Prop} [Decidable p] (h : HubsKept s t) (k : HubsKept s u) : HubsKept s (if p then t else u) := by
  split
  · exact h
  · exact k

theorem foldl {α : Type} (f : State → α → State) (hf : ∀ s a, HubsKept s (f s a)) (l : List α) (s : State) : HubsKept s (l.foldl f s) :=
  List.foldlRecOn _ _ (refl s) fun _ h a _ => h.trans (hf _ a)

theorem hub (h : HubsKept s t) (k : Hub) : (hubOf t k).core = (hubOf s k).core := by
  cases k
  · exact h.ha
  · exact h.hb

theorem health (h : HubsKept s t) (k : Hub) : (hubOf t k).health = (hubOf s k).health := (congrArg HubSt.health (h.hub k) :)

theorem setFld (s : State) (f : Fld) (v : Nat) : HubsKept s (setFld s f v) := of_eq rfl rfl rfl
theorem setEvent (s : State) (f : Fld) : HubsKept s (setEvent s f) := of_eq rfl rfl rfl
theorem hubReport (s : State) (code : Nat) (d : List Byte) : HubsKept s (hubReport s code d) := of_core ((SameCore.refl s).hubReport code d)
theorem srvReport (s : State) (f : Fld) (code : Nat) (d : List Byte) : HubsKept s (srvReport s f code d) := of_core (srvReport_core s f code d)

/-! ### Engines and drivers (R432, R441) -/

theorem setEng (s : State) (h : Hub) (g : Servo) : HubsKept s (setEng s h g) := by cases h <;> exact of_eq rfl rfl rfl
theorem modEng (s : State) (h : Hub) (f : Servo → Servo) : HubsKept s (modEng s h f) := setEng s h _
theorem modBoth (s : State) (h : Hub) (f : Servo → Servo) : HubsKept s (modBoth s h f) := by
  unfold Machine.modBoth
  exact ite ((modEng s h f).trans (modEng _ _ _)) (modEng s h f)

theorem driveSafe (s : State) (g : Servo) (i : Nat) : HubsKept s (driveSafe s g i) := by
  unfold Machine.driveSafe
  refine foldl _ (fun s j => ?_) _ s
  split
  · exact of_eq rfl rfl rfl
  · exact refl s

theorem safeAll (s : State) (h : Hub) : HubsKept s (safeAll s h) := by
  obtain ⟨d, hd⟩ := safeAll_eq s h
  rw [hd]
  exact of_eq rfl rfl rfl

theorem abortCapture (s : State) (h : Hub) : HubsKept s (abortCapture s h) :=
  ite ((modEng s h _).trans (setEvent _ _)) (refl s)

theorem tripLoop (n : Nat) (s : State) (h : Hub) (i cause : Nat) : HubsKept s (tripLoop n s h i cause) := by
  induction n generalizing s i cause with
  | zero => exact refl s
  | succ n ih =>
    unfold Machine.tripLoop
    split
    · extract_lets s1 s2 s3
      have h2 : HubsKept s s2 := ((modBoth s h _).trans (driveSafe _ _ _)).trans (srvReport _ _ _ _)
      have h3 : HubsKept s s3 := h2.trans (ite (abortCapture s2 h) (refl s2))
      exact h3.trans (foldl _ (fun s k => ih s k 3) _ s3)
    · exact refl s

theorem coldOpen (s : State) (h : Hub) (i : Nat) : HubsKept s (coldOpen s h i) := by
  unfold Machine.coldOpen
  extract_lets s1 s2
  have h2 : HubsKept s s2 := ((modEng s h _).trans (driveSafe _ _ _)).trans (srvReport _ _ _ _)
  refine (h2.trans (u := { s2 with drivers := { s2.drivers with gens := SMap.setD s2.drivers.gens i ((engOf s2 h).loop i).gen 0 } }) ?_).trans
    (foldl _ (fun s k => tripLoop 32 s h k 3) _ _)
  exact of_eq rfl rfl rfl

theorem servoTakeover (s : State) (h : Hub) : HubsKept s (servoTakeover s h) :=
  ((abortCapture s _).trans (abortCapture _ _)).trans (foldl _ (fun s i => ite (coldOpen s h i) (refl s)) _ _)

theorem syncEngines (s : State) : HubsKept s (syncEngines s) := by
  unfold Machine.syncEngines
  split
  · exact setEng s _ _
  · exact refl s

theorem servoAfresh (s : State) : HubsKept s (servoAfresh s) := by
  have requal (s : State) : HubsKept s (requal s) := ((setFld s _ _).trans (setFld _ _ _)).trans (setFld _ _ _)
  have setServo (s : State) (x : ServoState) : HubsKept s (setServo s x) := of_eq rfl rfl rfl
  have enterLocked (s : State) : HubsKept s (enterLocked s) :=
    ite (refl s) ((((setServo s _).trans (requal _)).trans (setEvent _ _)).trans (hubReport _ _ _))
  refine trans (ite (setServo s _) (ite (setServo s _) (ite ((setServo s _).trans (enterLocked _)) ?_))) (requal _)
  exact of_eq rfl rfl rfl

/-! ### Takeovers (R105, R441, R490 to R492) -/

theorem fileReports (l : List Report) (s : State) : HubsKept s (l.foldl fileReport s) :=
  foldl _ (fun s r => of_core ((SameCore.refl s).fileReport r)) l s

theorem tellHeld (s : State) : HubsKept s (tellHeld s) := by
  refine trans (t := { s with heldReports := [] }) ?_ (fileReports _ _)
  exact of_eq rfl rfl rfl

theorem tellAbandoned (s : State) : HubsKept s (tellAbandoned s) := by
  refine ite (trans (t := { s with pl := { s.pl with abandoned := [] } }) ?_ (fileReports _ _)) (refl s)
  exact of_eq rfl rfl rfl

theorem abandonLoad (s : State) (slot : Nat) (b : Bundle) : HubsKept s (abandonLoad s slot b) := by
  refine (Conversing.dropBundle s slot).hubs.trans ?_
  exact of_eq rfl rfl rfl

theorem abandonLoads (s : State) : HubsKept s (abandonLoads s) := by
  unfold Machine.abandonLoads
  refine (foldl (fun (s : State) (e : Nat × Bundle) => if e.2.st = .loading ∨ e.2.st = .planWait then Machine.abandonLoad s e.1 e.2 else s)
    (fun s e => ite (abandonLoad s _ _) (refl s)) s.pl.slots s).trans ?_
  exact of_eq rfl rfl rfl

theorem takeOver (s : State) (h : Hub) : HubsKept s (takeOver s h) := by
  unfold Machine.takeOver
  refine HubsKept.trans ?_ (servoTakeover _ h)
  refine (abandonLoads s).trans ?_
  exact of_eq rfl rfl rfl

theorem warmTakeover (s : State) (h : Hub) : HubsKept s (warmTakeover s h) :=
  (((setEvent s _).trans (hubReport _ _ _)).trans (takeOver _ h)).trans (tellAbandoned _)

theorem applyKept (s : State) (h : Hub) : HubsKept s (applyKept s h) := by
  unfold Machine.applyKept
  extract_lets src put s1
  refine HubsKept.trans (foldl _ (fun s g => ?_) _ s) (modEng s1 h _)
  dsimp only [put]
  split
  · exact refl s
  · exact of_eq rfl rfl rfl

theorem faultEvicted (s : State) : HubsKept s (faultEvicted s) :=
  foldl _ (fun s _ => ite (Conversing.of_bundles (.faultWith s _ _ _ _)).hubs (refl s)) _ s

theorem coldTakeover (s : State) (h : Hub) : HubsKept s (coldTakeover s h) := by
  unfold Machine.coldTakeover
  extract_lets s1 s2 s3
  have h1 : HubsKept s s1 := (((setEvent s _).trans (hubReport _ _ _)).trans (applyKept _ h)).trans (faultEvicted _)
  have h3 : HubsKept s s3 := by
    refine (h1.trans (takeOver s1 h)).trans ?_
    exact of_eq rfl rfl rfl
  exact h3.trans (foldl _ (fun s i => ite (coldOpen s h i) (refl s)) _ s3)

theorem bootDone (s : State) : HubsKept s (bootDone s) := by
  have reportNow (s : State) (code src hd : Nat) (d : List Byte) : HubsKept s (reportNow s code src hd d false true) :=
    of_core ((SameCore.refl s).reportNow _ _ _ _ _ _)
  have bootRecords (s : State) : HubsKept s (bootRecords s) := by
    unfold Machine.bootRecords
    extract_lets s1
    have h1 : HubsKept s s1 := ite (reportNow s _ _ _ _) (refl s)
    exact ite (h1.trans (reportNow _ _ _ _ _)) h1
  refine (HubsKept.trans ?_ (bootRecords _)).trans (setFld _ _ _)
  exact of_eq rfl rfl rfl

/-! ### What goes on as a hub begins to act -/

theorem releaseLink (s : State) (key : Nat) : HubsKept s (releaseLink s key) := (Conversing.of_links (releaseLink_work s key)).hubs

theorem swapBooks (s : State) : HubsKept s (swapBooks s) := by
  refine HubsKept.trans ?_ ((Conversing.bumpFldAt { s with fab := { s.fab with active := s.fab.shadow } } F.fabRbCtlGen 0 0 0 1).trans
    (.keptChanged _)).hubs
  exact of_eq rfl rfl rfl

theorem finishRecable (s : State) : HubsKept s (finishRecable s) := by
  unfold Machine.finishRecable
  split
  · exact refl s
  · extract_lets s1 s2
    have h1 : HubsKept s s1 := (swapBooks s).trans (foldl _ (fun s k => (Conversing.of_links (.modLink s k _)).hubs) _ _)
    have h2 : HubsKept s s2 := h1.trans (foldl _ releaseLink _ s1)
    refine h2.trans (HubsKept.trans ?_ ((setEvent { s2 with fab := { s2.fab with recable := .idle, changing := [], recut := [] } } _).trans
      (Conversing.of_links (.flushWaiting _)).hubs))
    exact of_eq rfl rfl rfl

theorem announceAll (s : State) (e : Nat) : HubsKept s (announceAll s e) := by
  unfold Machine.announceAll
  refine foldl _ (fun s h => ite ?_ (refl s)) _ s
  obtain ⟨s2, hs, he⟩ := announce_eq s e h.1
  rw [he]
  exact (Conversing.of_links hs.linkWork).hubs.trans (of_eq rfl rfl rfl)

end HubsKept

/-! ### A hub that acts -/

/-- A hub that copies the replicated state (R514). -/
def HubSt.inSync (x : HubSt) : HubSt := { x with health := .standbySync, current := true, isolated := false }

/-- The standby copies the replicated state, or nothing changes. -/
theorem trySync_eq (s : State) : trySync s = s ∨ ∃ k, s.active = some k ∧ canSync s k = true ∧
    HubsKept (modHub { s with synced := true } (peer k) HubSt.inSync) (trySync s) ∧ (trySync s).xlink = s.xlink ∧ (trySync s).fw = s.fw := by
  unfold trySync
  split
  · exact .inl rfl
  · rename_i k hk
    split
    · exact .inl rfl
    · rename_i hs
      refine .inr ⟨k, hk, by simp only [Bool.or_eq_true, not_or, Bool.not_eq_true'] at hs; simpa using hs.2, ?_⟩
      have hcore (s1 : State) : SameCore (syncEngines s1) (hubReport (setEvent (syncEngines s1) F.redEventSync) C.hubSync []) :=
        ((SameCore.refl _).setEvent _).hubReport _ _
      have hsync (s1 : State) : (syncEngines s1).xlink = s1.xlink ∧ (syncEngines s1).fw = s1.fw := by
        unfold syncEngines
        split
        · rename_i a _
          cases a <;> exact ⟨rfl, rfl⟩
        · exact ⟨rfl, rfl⟩
      have hmod (s1 : State) (x : Hub) (f : HubSt → HubSt) : (modHub s1 x f).xlink = s1.xlink ∧ (modHub s1 x f).fw = s1.fw := by
        cases x <;> exact ⟨rfl, rfl⟩
      refine ⟨((HubsKept.syncEngines _).trans (.setEvent _ _)).trans (.hubReport _ _ _), ?_, ?_⟩
      · exact ((congrArg State.xlink (hcore _) :).trans (hsync _).1).trans (hmod _ _ _).1
      · exact ((congrArg State.fw (hcore _) :).trans (hsync _).2).trans (hmod _ _ _).2

theorem trySync_active (s : State) : (trySync s).active = s.active := by
  rcases trySync_eq s with h | ⟨k, -, -, hkept, -⟩
  · rw [h]
  · exact hkept.active.trans (modHub_active _ _ _)

theorem trySync_xlink (s : State) : (trySync s).xlink = s.xlink := by
  rcases trySync_eq s with h | ⟨_, -, -, -, hx, -⟩
  · rw [h]
  · exact hx

/-- A hub after the standby copied the state: as it was, or in sync where it stands by. -/
theorem trySync_hub (s : State) (h : Hub) : (hubOf (trySync s) h).core = (hubOf s h).core ∨
    (s.active = some (peer h) ∧ standsBy s h = true ∧ (hubOf (trySync s) h).core = (hubOf s h).inSync.core) := by
  rcases trySync_eq s with he | ⟨k, hk, hsync, hkept, -⟩
  · exact .inl (by rw [he])
  · by_cases hh : h = peer k
    · subst hh
      refine .inr ⟨by rw [hk]; cases k <;> rfl, ?_, ?_⟩
      · unfold canSync at hsync
        simp only [Bool.and_eq_true] at hsync
        exact hsync.1.1
      · exact (hkept.hub _).trans (congrArg HubSt.core ((hubOf_modHub _ _ _).trans (congrArg HubSt.inSync (hubOf_of_eq rfl rfl _))))
    · refine .inl ((hkept.hub h).trans (congrArg HubSt.core ?_))
      exact (hubOf_modHub_other _ hh _).trans (hubOf_of_eq rfl rfl h)

/-- The hub that acts stays as it is. -/
theorem trySync_acts {k : Hub} (hk : s.active = some k) : (hubOf (trySync s) k).core = (hubOf s k).core := by
  rcases trySync_hub s k with h | ⟨hp, -⟩
  · exact h
  · exact absurd (Option.some.inj (hk.symm.trans hp)) (peer_ne k).symm

/-- A hub that begins to act is active. -/
theorem becomeActive_acts (s : State) (h : Hub) : (becomeActive s h).active = some h ∧ (hubOf (becomeActive s h) h).health = .active := by
  unfold becomeActive
  extract_lets cur s1 s2 s3 s4
  have h1 : s1.active = some h ∧ (hubOf s1 h).health = .active := ⟨modHub_active _ _ _, by rw [hubOf_modHub]⟩
  have h2 : HubsKept s1 s2 := .ite (.bootDone s1) (.ite (.refl s1) (.ite (.warmTakeover s1 h) (.coldTakeover s1 h)))
  have h3 : s3.active = some h ∧ (hubOf s3 h).health = .active := by
    have hkept : HubsKept (modHub s2 (peer h) fun x => { x with current := false }) s3 := (HubsKept.servoAfresh _).trans (.tellHeld _)
    refine ⟨hkept.active.trans ((modHub_active _ _ _).trans (h2.active.trans h1.1)), (hkept.health h).trans ?_⟩
    rw [hubOf_modHub_other _ (peer_ne h).symm]
    exact (h2.health h).trans h1.2
  have h4 : HubsKept s3 s4 := by
    have hmoved (l : SMap Retired) (s : State) : HubsKept s (l.foldl (fun s e => moveRetired s e.1) s) :=
      .foldl _ (fun s e => (Conversing.moveRetired s e.1).hubs) l s
    exact (((Conversing.resettle s3).hubs.trans (hmoved _ _)).trans (.finishRecable _)).trans (.foldl _ .announceAll _ _)
  have hcore := trySync_acts (h4.active.trans h3.1)
  exact ⟨(trySync_active s4).trans (h4.active.trans h3.1), (congrArg HubSt.health hcore :).trans ((h4.health h).trans h3.2)⟩

end Sys2Proof.Machine
end

section
/-!
PROOF. Leases, health, failures and restarts of the hubs (R480 to R492, R514, R521, R532).
-/
namespace Sys2Proof.Machine
open Sys2Proof

variable {s t u : State} {h k : Hub}

/-! ### RED_FAULT and reports -/

/-- A record written leaves the registers, or sets RECORDER of RED_FAULT. -/
theorem writeRecord_regs (s : State) (hub : Hub) (r : Report) :
    (writeRecord s hub r).regs = s.regs ∨ (writeRecord s hub r).regs = (setFld s F.redFaultRecorder 1).regs := by
  unfold writeRecord recordWithin
  extract_lets c0 c s0
  split
  · exact .inl (setHub_regs _ _ _)
  · rw [setHub_regs]
    split
    · refine .inr ?_
      cases hub <;> rfl
    · exact .inl (setHub_regs _ _ _)

theorem fileReport_regs (s : State) (r : Report) :
    (fileReport s r).regs = s.regs ∨ (fileReport s r).regs = (setFld s F.redFaultRecorder 1).regs := by
  unfold fileReport
  split
  · exact .inl rfl
  · rename_i hub _
    extract_lets s1
    have h1 : s1.regs = s.regs ∨ s1.regs = (setFld s F.redFaultRecorder 1).regs := by
      dsimp only [s1]
      split
      · exact writeRecord_regs s hub r
      · exact .inl rfl
    split
    · rwa [hostEvents_regs]
    · exact h1

/-- A report leaves RED_FAULT but for RECORDER. -/
theorem fld_report_fault (s : State) (code src handle : Nat) (d : List Byte) {f : Fld} (hr : f.reg = .redFault) (hl : 1 ≤ f.lsb)
    (hw : f.lsb + f.width ≤ 32) : fld (report s code src handle d) f = fld s f := by
  have hident : (report s code src handle d).ident = s.ident := report_ident s code src handle d
  rcases fileReport_regs s ⟨code, src, handle, d, true, true, false, s.tb.sec, s.tb.ns, s.tb.frac / 65536, uncertain s⟩ with he | he
  · rw [fld, fldAt, regWord_of_regs (t := report s code src handle d) he hident, fld, fldAt]
  · rw [fld, fldAt, regWord_of_regs (t := report s code src handle d) (s := setFld s F.redFaultRecorder 1) he hident]
    exact fld_setFld_disjoint s (f := F.redFaultRecorder) hr hw (.inr hl) 1

/-! ### The lines of the leases (R480 to R482) -/

/-- What the arbiter's line makes of a hub: its level, the lease, the conflict. -/
def HubSt.wire (x : HubSt) : Bool × Bool × Bool := (x.line, x.lease, x.conflict)

theorem leaseConflict_core (s : State) : SameCore s (leaseConflict s) := ((SameCore.refl s).setEvent _).hubReport _ _

theorem leaseConflict_shown (s : State) : fld (leaseConflict s) F.redFaultConflict = 1 := by
  refine (fld_report_fault _ _ _ _ _ rfl (by decide) (by decide)).trans (fld_setEvent s (by decide) rfl)

theorem wire_of_core (hc : SameCore s t) (k : Hub) : (hubOf t k).wire = (hubOf s k).wire := (congrArg HubSt.wire (hc.hub k) :)

theorem abandonUpdate_wire (s : State) (standby k : Hub) : (hubOf (abandonUpdate s standby) k).wire = (hubOf s k).wire := by
  have hmod : (hubOf (modHub s standby fun x => { x with fw := { x.fw with valid := false } }) k).wire = (hubOf s k).wire := by
    by_cases hk : k = standby
    · rw [hk, hubOf_modHub]
      rfl
    · rw [hubOf_modHub_other _ hk]
  unfold abandonUpdate
  extract_lets s1
  have h1 : (hubOf s1 k).wire = (hubOf s k).wire := by
    dsimp only [s1]
    split
    · exact hmod
    · rfl
  exact (congrArg HubSt.wire (hubOf_of_eq rfl rfl k)).trans h1

theorem abandonUpdate_active (s : State) (standby : Hub) : (abandonUpdate s standby).active = s.active := by
  unfold abandonUpdate
  dsimp only
  split
  · exact modHub_active _ _ _
  · rfl

theorem abandonUpdate_drivers (s : State) (standby : Hub) : (abandonUpdate s standby).drivers = s.drivers := by
  unfold abandonUpdate
  dsimp only
  split
  · cases standby <;> rfl
  · rfl

/-- A hub that no longer acts: the lines stay, the other goes on, and no driver moves. -/
theorem stopActive_frame (s : State) (h : Hub) : (stopActive s h).active ≠ some h ∧ (∀ k, (hubOf (stopActive s h) k).wire = (hubOf s k).wire) ∧
    (stopActive s h).drivers = s.drivers := by
  unfold stopActive
  split
  · rename_i hn
    exact ⟨hn, fun _ => rfl, rfl⟩
  · extract_lets s1
    have hcap : HubsKept s (abortCapture s h) := .abortCapture s h
    refine ⟨?_, fun k => ?_, ?_⟩
    · rw [modHub_active]
      exact fun hn => nomatch hn
    · have h1 : (hubOf s1 k).wire = (hubOf s k).wire := (abandonUpdate_wire _ _ _).trans (congrArg HubSt.wire (hcap.hub k) :)
      have h2 : (hubOf { s1 with active := none, sec := { s1.sec with attesting := none } } k) = hubOf s1 k := hubOf_of_eq rfl rfl k
      by_cases hk : k = h
      · subst hk
        rw [hubOf_modHub, h2]
        exact h1
      · rw [hubOf_modHub_other _ hk, h2]
        exact h1
    · have hd : s1.drivers = s.drivers := (abandonUpdate_drivers _ _).trans (abortCapture_drivers s h)
      cases h <;> exact hd

theorem lineRise_gains (hl : (hubOf s h).line = false) (hp : (hubOf s (peer h)).line = false) :
    lineRise s h = modHub s h fun x => { x with line := true, lease := true, conflict := false } := by
  rw [lineRise, hl, hp]
  rfl

theorem lineRise_conflicts (hl : (hubOf s h).line = false) (hp : (hubOf s (peer h)).line = true) :
    lineRise s h = leaseConflict (modHub s h fun x => { x with line := true, conflict := true }) := by
  rw [lineRise, hl, hp]
  rfl

/-- What both lines make of a hub that rise at once. -/
def HubSt.refused (x : HubSt) : HubSt := { x with line := true, lease := false, conflict := true }

/-- Both lines rise at once: no hub acts, and neither has the lease. -/
theorem bothRise (s : State) (ha : s.ha.line = false) (hb : s.hb.line = false) : ∃ t, exec (.leaseLineRise true true) s = .next t ∧ t.active = none ∧
    (∀ k, (hubOf t k).lease = false ∧ (hubOf t k).conflict = true) ∧ fld t F.redFaultConflict = 1 := by
  have hactive : (match s.active with | some h => stopActive s h | none => s).active = none := by
    cases hs : s.active with
    | none => exact hs
    | some a =>
      dsimp only
      unfold stopActive
      rw [if_neg (by simpa using hs), modHub_active]
  refine ⟨leaseConflict (modHub (modHub (match s.active with | some h => stopActive s h | none => s) .ha HubSt.refused) .hb HubSt.refused), ?_, ?_, fun k => ?_,
    leaseConflict_shown _⟩
  · refine congrArg done ?_
    rw [if_pos (by simp [ha, hb])]
    rfl
  · exact (leaseConflict_core _).active.trans hactive
  · have hwire := wire_of_core (leaseConflict_core (modHub (modHub (match s.active with | some h => stopActive s h | none => s) .ha HubSt.refused) .hb
      HubSt.refused)) k
    have hk : (hubOf (leaseConflict (modHub (modHub (match s.active with | some h => stopActive s h | none => s) .ha HubSt.refused) .hb HubSt.refused)) k).wire =
        (true, false, true) := by
      rw [hwire]
      cases k <;> rfl
    exact ⟨congrArg (fun w : Bool × Bool × Bool => w.2.1) hk, congrArg (fun w : Bool × Bool × Bool => w.2.2) hk⟩

/-- A hub whose lease lapses, before the drivers. -/
def lapsedHub (s : State) (h : Hub) : State := stopActive (modHub s h fun x => { x with lease := false }) h

theorem lapsedHub_frame (s : State) (h : Hub) : (hubOf (lapsedHub s h) h).lease = false ∧ (lapsedHub s h).active ≠ some h ∧
    (hubOf (lapsedHub s h) (peer h)).lease = (hubOf s (peer h)).lease ∧ (lapsedHub s h).drivers = s.drivers := by
  obtain ⟨hact, hwire, hdrivers⟩ := stopActive_frame (modHub s h fun x => { x with lease := false }) h
  have hself := hwire h
  have hpeer := hwire (peer h)
  rw [hubOf_modHub] at hself
  rw [hubOf_modHub_peer] at hpeer
  refine ⟨congrArg (fun w : Bool × Bool × Bool => w.2.1) hself, hact, congrArg (fun w : Bool × Bool × Bool => w.2.1) hpeer, hdrivers.trans ?_⟩
  cases h <;> rfl

theorem exec_leaseLapse (hl : (hubOf s h).lease = true) : exec (.leaseLapse h) s = done (if (hubOf s (peer h)).lease then lapsedHub s h
    else hubReport (setEvent (pinsSafe (lapsedHub s h)) F.redEventLapsed) C.hubLeaseLapsed []) := by
  rw [← (lapsedHub_frame s h).2.2.1]
  exact congrArg done (if_neg (by rw [hl]; decide))

theorem pinsSafe_hubs (s : State) : HubsKept s (pinsSafe s) := .of_eq rfl rfl rfl

/-- Both leases gone: the hubs as they are, every driver at its SAFE value, reported. -/
theorem lapsedBoth (s : State) : HubsKept s (hubReport (setEvent (pinsSafe s) F.redEventLapsed) C.hubLeaseLapsed []) ∧
    fld (hubReport (setEvent (pinsSafe s) F.redEventLapsed) C.hubLeaseLapsed []) F.redEventLapsed = 1 ∧
    (hubReport (setEvent (pinsSafe s) F.redEventLapsed) C.hubLeaseLapsed []).drivers = (pinsSafe s).drivers := by
  refine ⟨((pinsSafe_hubs s).trans (.setEvent _ _)).trans (.hubReport _ _ _), ?_, ?_⟩
  · exact (fld_report _ _ _ _ _ (f := F.redEventLapsed) (by decide)).trans (fld_setEvent _ (by decide) rfl)
  · rw [hubReport_drivers, setEvent_drivers]

/-! ### Health (R483, R484, R490, R492) -/

theorem loseSync_sync (s : State) (x : Hub) : (loseSync s x).active = s.active ∧ (loseSync s x).synced = false ∧ (loseSync s x).xlink = s.xlink := by
  unfold loseSync
  dsimp only
  split
  · cases x <;> exact ⟨rfl, rfl, rfl⟩
  · rename_i hs
    cases x <;> exact ⟨rfl, by simpa using hs, rfl⟩

/-- A hub that fails. -/
theorem hubFail_fails (hf : firmwareRuns (hubOf s h) = true) :
    (hubOf (hubFail s h) h).health = .failed ∧ (hubFail s h).active ≠ some h ∧ fld (hubFail s h) F.redFaultHubFailed = 1 := by
  unfold hubFail
  rw [if_neg (by rw [hf]; decide)]
  extract_lets s1 s2
  have h1 : s1.active ≠ some h := by
    dsimp only [s1]
    split
    · exact (stopActive_frame s h).1
    · rw [(loseSync_sync _ _).1, abandonUpdate_active]
      assumption
  have h2 : s2.active ≠ some h := by
    have he : s2.active = s1.active := by cases h <;> rfl
    rwa [he]
  refine ⟨?_, h2, fld_setEvent _ (by decide) rfl⟩
  rw [hubOf_setEvent]
  refine (congrArg HubSt.health (hubOf_of_eq (s := s2) rfl rfl h)).trans ?_
  rw [hubOf_modEng, hubOf_modHub]
  rfl

/-- A hub whose heartbeat is lost, as it says so. -/
theorem raiseIbi_hub (s : State) (h k : Hub) : hubOf (raiseIbi s h) k = hubOf s k := hubOf_of_eq rfl rfl k

/-- HEARTBEAT_LOSS of a hub that runs, out of recovery. -/
theorem exec_heartbeatLoss (isolate : Bool) (hp : s.phase = .running) (hf : firmwareRuns (hubOf s h) = true) (hr : (hubOf s h).health ≠ .recovery) :
    exec (.heartbeatLoss h isolate) s = done (
      let s1 := if firmwareRuns (hubOf s (peer h)) then { s with xlink := false } else s
      if s.active = some h then
        let s2 := raiseIbi (modHub (loseSync s1 (peer h)) h (fun x => { x with health := .hbLost })) h
        if (hubOf s (peer h)).current then hubReport s2 C.hubUnsync [] else s2
      else if isolate then
        if (hubOf s h).health = .hbLost then modHub (loseSync s1 h) h (fun x => { x with isolated := true, health := .standbyUnsync }) else s1
      else raiseIbi (modHub s1 h (fun x => { x with health := .hbLost })) h) := by
  refine congrArg done (if_neg ?_)
  simp [hp, hf, hr]

/-- A hub as the cross-link returns. -/
def HubSt.linked (x : HubSt) (active : Bool) : HubSt :=
  { x with isolated := false, health := if x.health = .hbLost then (if active then .active else .standbyUnsync) else x.health }

theorem mirrorGap_kept (s : State) (h : Hub) : SameCore s (mirrorGap s h) := by
  unfold mirrorGap
  dsimp only
  split
  · exact .refl s
  · exact (SameCore.refl s).recorder h _

theorem crosslinkReturn_eq (hp : s.phase = .running) : ∃ t, exec .crosslinkReturn s = done (trySync t) ∧
    SameCore { s with xlink := true, ha := s.ha.linked (s.active == some .ha), hb := s.hb.linked (s.active == some .hb) } t := by
  refine ⟨mirrorGap (mirrorGap _ .ha) .hb, congrArg done (if_neg (not_not.2 hp)), ?_⟩
  exact (mirrorGap_kept _ _).trans (mirrorGap_kept _ _)

theorem crosslinkReturn_returns (h : Hub) (hp : s.phase = .running) : ∃ t, exec .crosslinkReturn s = .next t ∧ t.xlink = true ∧
    (hubOf t h).isolated = false ∧ (s.active = some h → (hubOf s h).health = .hbLost → (hubOf t h).health = .active) := by
  obtain ⟨u, hexec, hcore⟩ := crosslinkReturn_eq hp
  have hlinked : (hubOf u h).core = ((hubOf s h).linked (s.active == some h)).core := (hcore.hub h).trans (by cases h <;> rfl)
  refine ⟨trySync u, hexec, (trySync_xlink u).trans (congrArg State.xlink hcore :), ?_, fun ha hl => ?_⟩
  · rcases trySync_hub u h with he | ⟨-, -, he⟩
    · exact (congrArg HubSt.isolated (he.trans hlinked) :)
    · exact (congrArg HubSt.isolated he :)
  · have hact : u.active = some h := hcore.active.trans ha
    refine (congrArg HubSt.health ((trySync_acts hact).trans hlinked) :).trans ?_
    show (if (hubOf s h).health = .hbLost then (if (s.active == some h) = true then Health.active else .standbyUnsync) else (hubOf s h).health) = .active
    rw [if_pos hl, if_pos (by simp [ha])]

/-! ### Restarts (R492, R494, R495, R524) -/

theorem exec_hubRestart_idle (hn : s.phase ≠ .running ∨ firmwareRuns (hubOf s h) = true ∨ isShut s (.hub (hubIndex h)) = true) :
    exec (.hubRestartComplete h) s = .next s := congrArg done (if_pos hn)

/-- The restart of a hub up to the end of an update that waited for it. -/
def hubRestarted (s : State) (h : Hub) : State :=
  trySync (if fld s F.secStatBootDone = 0 ∧ firmwareRuns (hubOf s (peer h)) = false then safeAll (bootHub s h) h else bootHub s h)

theorem exec_hubRestart (hp : s.phase = .running) (hf : firmwareRuns (hubOf s h) = false) (hs : isShut s (.hub (hubIndex h)) = false) :
    exec (.hubRestartComplete h) s = done (
      if s.fw.step = 3 ∧ (hubRestarted s h).active.isSome = true ∧ (hubRestarted s h).active ≠ some h ∧ (hubOf (hubRestarted s h) h).health ≠ .recovery then
        hubReport { hubRestarted s h with fw := { (hubRestarted s h).fw with step := 0, last := C.ok, image := none } } C.fwUpdated
          (d4 (hubOf (hubRestarted s h) h).running.version)
      else hubRestarted s h) := by
  refine congrArg done (if_neg ?_)
  simp [hp, hf, hs]

/-- An update that ends leaves the hubs. -/
theorem updateEnd_kept (s : State) (d : List Byte) :
    HubsKept s (hubReport { s with fw := { s.fw with step := 0, last := C.ok, image := none } } C.fwUpdated d) ∧
      (hubReport { s with fw := { s.fw with step := 0, last := C.ok, image := none } } C.fwUpdated d).fw.step = 0 := by
  have hk : HubsKept s { s with fw := { s.fw with step := 0, last := C.ok, image := none } } := .of_eq rfl rfl rfl
  constructor
  · exact hk.trans (HubsKept.hubReport _ _ _)
  · rw [hubReport_fw]

/-- A restarted hub runs its image, and rejoins as its image lets it. -/
theorem hubRestarted_hub (s : State) (h : Hub) : (hubRestarted s h).active = s.active ∧ (hubOf (hubRestarted s h) h).running = (hubOf s h).fw ∧
    ((hubOf (hubRestarted s h) h).health = bootedHealth s h ∨ ((hubOf (hubRestarted s h) h).health = .standbySync ∧ s.active = some (peer h) ∧
      bootedHealth s h ≠ .recovery)) := by
  have hboot : HubsKept (bootHub s h) (if fld s F.secStatBootDone = 0 ∧ firmwareRuns (hubOf s (peer h)) = false then safeAll (bootHub s h) h else bootHub s h) :=
    .ite (.safeAll _ h) (.refl _)
  obtain ⟨-, -, -, -, -, hactive, -⟩ := bootHub_frame s h
  unfold hubRestarted
  generalize (if fld s F.secStatBootDone = 0 ∧ firmwareRuns (hubOf s (peer h)) = false then safeAll (bootHub s h) h else bootHub s h) = v at hboot ⊢
  have hrun : (hubOf v h).running = (hubOf s h).fw := (congrArg HubSt.running (hboot.hub h) :).trans (bootHub_running s h)
  have hhealth : (hubOf v h).health = bootedHealth s h := (hboot.health h).trans (bootHub_health s h)
  have hact : v.active = s.active := hboot.active.trans hactive
  refine ⟨(trySync_active v).trans hact, ?_, ?_⟩
  · rcases trySync_hub v h with he | ⟨-, -, he⟩
    · exact (congrArg HubSt.running he :).trans hrun
    · exact (congrArg HubSt.running he :).trans hrun
  · rcases trySync_hub v h with he | ⟨ha, hstands, he⟩
    · exact .inl ((congrArg HubSt.health he :).trans hhealth)
    · refine .inr ⟨(congrArg HubSt.health he :), hact.symm.trans ha, fun hrec => ?_⟩
      unfold standsBy at hstands
      rw [hhealth, hrec] at hstands
      simp at hstands

end Sys2Proof.Machine

namespace Sys2Proof.Proofs
open Sys2Proof Sys2Proof.Machine

/-- Settles O54: the lines of the leases, the hub that begins to act, the heartbeats, a hub's failure and its restart. -/
theorem hubsHoldTheLease : Obligations.HubsHoldTheLease := by
  intro s h after x rise
  have hrise : exec rise s = done (lineRise s h) := by cases h <;> rfl
  refine ⟨fun hl hc => ?renews, fun hn => ?idles, fun hl => ⟨fun hp => ⟨?gains, ?both⟩, fun hp => ?conflicts⟩, fun hl => ?high, ?low, fun hl => ?lapsed,
    fun hl => ⟨?lapses, fun hp => ?safe⟩, fun hm => ?acts, fun hm => ?waits, fun isolate hn => ?deaf, fun hp hf hr => ⟨fun ha isolate => ?lost, fun ha => ?standby,
      fun ha hb => ?isolated, fun ha hb => ?kept⟩, fun hp => ?still, fun hp => crosslinkReturn_returns h hp, fun hp hf => ?fails, fun hn => exec_hubRestart_idle hn,
    fun hp hf hs => ⟨fun hv hsvn => ?restarts, fun hbad => ?recovers⟩⟩
  case renews =>
    refine ⟨setHub s h { x with lease := true }, congrArg done (if_pos ?_), hubOf_setHub _ _ _, hubOf_setHub_other _ (peer_ne h) _⟩
    rw [hl, hc]
    rfl
  case idles =>
    refine congrArg done (if_neg ?_)
    rcases hn with hn | hn <;> rw [hn] <;> simp
  case gains => exact ⟨_, hrise.trans (congrArg done (lineRise_gains hl hp)), hubOf_modHub _ _ _, hubOf_modHub_peer _ _ _⟩
  case both =>
    have hlines : s.ha.line = false ∧ s.hb.line = false := by
      cases h
      · exact ⟨hl, hp⟩
      · exact ⟨hp, hl⟩
    obtain ⟨t, hexec, hact, hhubs, hfld⟩ := bothRise s hlines.1 hlines.2
    exact ⟨t, hexec, hact, (hhubs h).1, (hhubs h).2, hfld⟩
  case conflicts =>
    have hwire (k : Hub) := wire_of_core (leaseConflict_core (modHub s h fun x => { x with line := true, conflict := true })) k
    have hself := hwire h
    have hpeer := hwire (peer h)
    rw [hubOf_modHub] at hself
    rw [hubOf_modHub_peer] at hpeer
    exact ⟨_, hrise.trans (congrArg done (lineRise_conflicts hl hp)), congrArg (fun w : Bool × Bool × Bool => w.1) hself,
      congrArg (fun w : Bool × Bool × Bool => w.2.2) hself, congrArg (fun w : Bool × Bool × Bool => w.2.1) hself,
      congrArg (fun w : Bool × Bool × Bool => w.2.1) hpeer, leaseConflict_shown _⟩
  case high => exact hrise.trans (congrArg done (if_pos hl))
  case low =>
    obtain ⟨hact, hwire, -⟩ := stopActive_frame (modHub s h fun x => { x with line := false, lease := false, conflict := false }) h
    have hself := hwire h
    have hpeer := hwire (peer h)
    rw [hubOf_modHub] at hself
    rw [hubOf_modHub_peer] at hpeer
    refine ⟨_, rfl, ?_, ?_, ?_, fun hc => ?_⟩
    · rw [hubOf_modHub_other _ (peer_ne h).symm]
      exact congrArg (fun w : Bool × Bool × Bool => w.1) hself
    · rw [hubOf_modHub_other _ (peer_ne h).symm]
      exact congrArg (fun w : Bool × Bool × Bool => w.2.1) hself
    · rw [modHub_active]
      exact hact
    · have hconf : (hubOf (stopActive (modHub s h fun x => { x with line := false, lease := false, conflict := false }) h) (peer h)).conflict = true :=
        (congrArg (fun w : Bool × Bool × Bool => w.2.2) hpeer).trans hc
      rw [hubOf_modHub, if_pos hconf]
  case lapsed => exact congrArg done (if_pos hl)
  case lapses =>
    obtain ⟨hlease, hact, -, -⟩ := lapsedHub_frame s h
    dsimp only [after]
    rw [exec_leaseLapse hl]
    split
    · exact ⟨_, rfl, hlease, hact⟩
    · have hk := (lapsedBoth (lapsedHub s h)).1
      exact ⟨_, rfl, (congrArg HubSt.lease (hk.hub h) :).trans hlease, hk.active ▸ hact⟩
  case safe =>
    obtain ⟨-, -, -, hdrivers⟩ := lapsedHub_frame s h
    obtain ⟨-, hfld, hpins⟩ := lapsedBoth (lapsedHub s h)
    dsimp only [after]
    rw [exec_leaseLapse hl, if_neg (by rw [hp]; decide)]
    refine ⟨_, rfl, hfld, fun p d hd => ?_⟩
    rw [hpins, pinsSafe, hdrivers]
    exact (SMap.find_mapSnd (fun d : Driver => { d with value := d.safe }) _ _).trans (congrArg (Option.map _) hd)
  case acts => exact ⟨_, congrArg done (if_pos hm), becomeActive_acts s h⟩
  case waits => exact congrArg done (if_neg (by rw [hm]; decide))
  case deaf =>
    refine congrArg done (if_pos ?_)
    rcases hn with hn | hn | hn
    · exact .inr (.inl hn)
    · exact .inl hn
    · exact .inr (.inr hn)
  case lost =>
    obtain ⟨hsyncActive, hsync, hxlink⟩ := loseSync_sync (if firmwareRuns (hubOf s (peer h)) then { s with xlink := false } else s) (peer h)
    dsimp only [after]
    rw [exec_heartbeatLoss isolate hp hf hr]
    dsimp only
    rw [if_pos ha]
    generalize loseSync (if firmwareRuns (hubOf s (peer h)) then { s with xlink := false } else s) (peer h) = u at hsync hxlink
    have hlost : (hubOf (raiseIbi (modHub u h fun x => { x with health := .hbLost }) h) h).health = .hbLost := by
      rw [raiseIbi_hub, hubOf_modHub]
    have hlink : firmwareRuns (hubOf s (peer h)) = true → u.xlink = false := fun hrun => by rw [hxlink, if_pos hrun]
    have hsame : ∀ t, SameCore (raiseIbi (modHub u h fun x => { x with health := .hbLost }) h) t → (hubOf t h).health = .hbLost ∧ t.synced = false ∧
        (firmwareRuns (hubOf s (peer h)) = true → t.xlink = false) := by
      intro t hc
      refine ⟨(congrArg HubSt.health (hc.hub h) :).trans hlost, (congrArg State.synced hc :).trans ?_, fun hrun => (congrArg State.xlink hc :).trans ?_⟩
      · cases h <;> exact hsync
      · cases h <;> exact hlink hrun
    split
    · exact ⟨_, rfl, hsame _ ((SameCore.refl _).hubReport _ _)⟩
    · exact ⟨_, rfl, hsame _ (.refl _)⟩
  case standby =>
    dsimp only [after]
    rw [exec_heartbeatLoss false hp hf hr]
    dsimp only
    rw [if_neg ha, if_neg Bool.false_ne_true]
    refine ⟨_, rfl, ?_⟩
    rw [raiseIbi_hub, hubOf_modHub]
  case isolated =>
    dsimp only [after]
    rw [exec_heartbeatLoss true hp hf hr]
    dsimp only
    rw [if_neg ha, if_pos rfl, if_pos hb]
    refine ⟨_, rfl, ?_⟩
    rw [hubOf_modHub]
    exact ⟨rfl, rfl⟩
  case kept =>
    dsimp only [after]
    rw [exec_heartbeatLoss true hp hf hr]
    dsimp only
    rw [if_neg ha, if_pos rfl, if_neg hb]
    refine ⟨_, rfl, ?_⟩
    split
    · exact hubOf_of_eq rfl rfl h
    · rfl
  case still => exact ⟨congrArg done (if_pos hp), congrArg done (if_pos hp), congrArg done (if_pos (.inl hp))⟩
  case fails =>
    have hwatch : exec (.watchdogExpiry h) s = done (
        if fld s F.redCtlWdogReset = 1 ∧ (hubOf s h).lease = true ∧ healthToggles (hubOf s (peer h)) = false then warmReset s 3 else hubFail s h) :=
      congrArg done (if_neg (by simp [hp, hf, x]))
    refine ⟨⟨_, congrArg done (if_neg (not_not.2 hp)), hubFail_fails hf⟩, fun hn => ?_, fun hreset => ?_⟩
    · exact ⟨_, hwatch.trans (congrArg done (if_neg hn)), hubFail_fails hf⟩
    · have hwiped := warmReset_wiped s 3
      obtain ⟨-, -, -, hcause⟩ := warmReset_frame s 3
      exact ⟨_, hwatch.trans (congrArg done (if_pos hreset)), hcause, hwiped.slots, hwiped.active⟩
  case restarts =>
    have hboot : bootedHealth s h = .standbyUnsync := if_pos ⟨hv, hsvn⟩
    obtain ⟨hactive, hrun, hhealth⟩ := hubRestarted_hub s h
    rw [hboot] at hhealth
    have hstands : ∀ t, HubsKept (hubRestarted s h) t → (hubOf t h).running = (hubOf s h).fw ∧
        ((hubOf t h).health = .standbyUnsync ∨ (hubOf t h).health = .standbySync) ∧ (s.active = none → (hubOf t h).health = .standbyUnsync) := by
      intro t hk
      rw [hk.health h]
      refine ⟨(congrArg HubSt.running (hk.hub h) :).trans hrun, hhealth.imp_right And.left, fun hn => ?_⟩
      rcases hhealth with he | ⟨-, ha, -⟩
      · exact he
      · rw [hn] at ha
        cases ha
    have hrec : (hubOf (hubRestarted s h) h).health ≠ .recovery := by
      rcases hhealth with he | ⟨he, -, -⟩ <;> rw [he] <;> decide
    dsimp only [after]
    rw [exec_hubRestart hp hf hs]
    split
    · obtain ⟨hk, hend⟩ := updateEnd_kept (hubRestarted s h) (d4 (hubOf (hubRestarted s h) h).running.version)
      obtain ⟨h1, h2, h3⟩ := hstands _ hk
      exact ⟨_, rfl, h1, h2, h3, fun _ _ => hend⟩
    · rename_i hn
      obtain ⟨h1, h2, h3⟩ := hstands _ (.refl _)
      refine ⟨_, rfl, h1, h2, h3, fun hstep hact => absurd ?_ hn⟩
      rw [hactive, hact]
      exact ⟨hstep, rfl, by simpa using (peer_ne h), hrec⟩
  case recovers =>
    have hboot : bootedHealth s h = .recovery := by
      refine if_neg fun ⟨hv, hsvn⟩ => ?_
      rcases hbad with hbad | hbad
      · exact absurd (hbad.symm.trans hv) (by decide)
      · exact absurd hsvn (Nat.not_le.2 hbad)
    obtain ⟨-, -, hhealth⟩ := hubRestarted_hub s h
    have hrec : (hubOf (hubRestarted s h) h).health = .recovery := by
      rcases hhealth with he | ⟨-, -, hn⟩
      · exact he.trans hboot
      · exact absurd hboot hn
    dsimp only [after]
    rw [exec_hubRestart hp hf hs, if_neg fun ⟨_, _, _, hn⟩ => hn hrec]
    exact ⟨_, rfl, hrec⟩

end Sys2Proof.Proofs
end

section
/-!
SUPPORT. The scratch of a cell: its counts, its retirement, and the patrol of it (R99, R238, R252, R260).
-/
namespace Sys2Proof.Machine
open Sys2Proof

variable {s t : State} {cell d n : Nat}

/-! ### Counts of words (R260) -/

/-- A register that a die has once. -/
def DieReg (r : Reg) : Prop := r.block = .die ∧ r.dims = []

theorem DieReg.addr {r : Reg} (h : DieReg r) (d : Nat) : (⟨r, d, 0, 0⟩ : RegRef).addr = 0x100000 + d * 0x10000 + r.off := by
  obtain ⟨hb, hd⟩ := h
  simp only [RegRef.addr, hb, hd, Block.base, Nat.add_zero]

/-- Two registers of a die lie apart. -/
theorem DieReg.addr_ne {r q : Reg} (hr : DieReg r) (hq : DieReg q) (h : r.off ≠ q.off) (d : Nat) :
    (⟨r, d, 0, 0⟩ : RegRef).addr ≠ (⟨q, d, 0, 0⟩ : RegRef).addr := by
  rw [hr.addr, hq.addr]
  omega

/-- A register of a die lies apart from those below the dies' blocks. -/
theorem DieReg.addr_ne_low {r : Reg} (hr : DieReg r) {q : RegRef} (hq : q.addr < 0x100000) (d : Nat) : (⟨r, d, 0, 0⟩ : RegRef).addr ≠ q.addr := by
  rw [hr.addr]
  omega

theorem dieReg_scrStat : DieReg .memScrStat := ⟨rfl, rfl⟩
theorem dieReg_scrCe : DieReg .memScrCe := ⟨rfl, rfl⟩
theorem dieReg_scrUe : DieReg .memScrUe := ⟨rfl, rfl⟩

/-- Words counted: the event, a field that stops at its largest value, and the event's bit. -/
def countWords (s : State) (ev : Nat) (c e : Fld) (ctx : EvCtx) (d n : Nat) : State :=
  if n = 0 then s else setEventAt (satFldAt (bumpEv s ev ctx n) c d 0 0 n) e d 0 0

theorem fldAt_lt (s : State) (f : Fld) (d i j : Nat) : fldAt s f d i j < 2 ^ f.width := Nat.mod_lt _ (Nat.two_pow_pos _)

theorem satInc_zero {w v : Nat} (h : v < 2 ^ w) : satInc w v 0 = v := by
  unfold satInc
  omega

theorem fldAt_bumpEv (s : State) (ev : Nat) (ctx : EvCtx) (n : Nat) (f : Fld) (d i j : Nat) : fldAt (bumpEv s ev ctx n) f d i j = fldAt s f d i j := by
  rw [fldAt, regWord_of_regs (bumpEv_regs s ev ctx n) (bumpEv_ident s ev ctx n), fldAt]

theorem fldAt_countWords_same (s : State) (ev : Nat) {c e : Fld} (ctx : EvCtx) (d n : Nat) (hw : c.lsb + c.width ≤ 32)
    (hne : (⟨c.reg, d, 0, 0⟩ : RegRef).addr ≠ (⟨e.reg, d, 0, 0⟩ : RegRef).addr) :
    fldAt (countWords s ev c e ctx d n) c d 0 0 = satInc c.width (fldAt s c d 0 0) n := by
  unfold countWords
  split
  · rename_i h
    rw [h, satInc_zero (fldAt_lt s c d 0 0)]
  · rw [setEventAt, fldAt_setFldAt_other _ hne, satFldAt, fldAt_setFldAt_same _ hw, fldAt_bumpEv]
    refine Nat.mod_eq_of_lt ?_
    have := Nat.two_pow_pos c.width
    unfold satInc
    omega

/-- Words counted leave the other registers. -/
theorem fldAt_countWords_other (s : State) (ev : Nat) {c e g : Fld} (ctx : EvCtx) (d n : Nat) {d' i j : Nat}
    (hc : (⟨g.reg, d', i, j⟩ : RegRef).addr ≠ (⟨c.reg, d, 0, 0⟩ : RegRef).addr) (he : (⟨g.reg, d', i, j⟩ : RegRef).addr ≠ (⟨e.reg, d, 0, 0⟩ : RegRef).addr) :
    fldAt (countWords s ev c e ctx d n) g d' i j = fldAt s g d' i j := by
  unfold countWords
  split
  · rfl
  · rw [setEventAt, fldAt_setFldAt_other _ he, satFldAt, fldAt_setFldAt_other _ hc, fldAt_bumpEv]

theorem countWords_pl (s : State) (ev : Nat) (c e : Fld) (ctx : EvCtx) (d n : Nat) : (countWords s ev c e ctx d n).pl = s.pl := by
  unfold countWords
  split
  · rfl
  · exact bumpEv_pl _ _ _ _

theorem countWords_ident (s : State) (ev : Nat) (c e : Fld) (ctx : EvCtx) (d n : Nat) : (countWords s ev c e ctx d n).ident = s.ident := by
  unfold countWords
  split
  · rfl
  · exact bumpEv_ident _ _ _ _

/-! ### What is found in scratch (R99, R260) -/

/-- The counts of what a pass of scratch found. -/
def wordsFound (s : State) (cell : Nat) (ctx : EvCtx) (ce ue : Nat) : State :=
  countWords (countWords s (evCell Ev.scrCe cell false) F.memScrCeCount F.memScrStatCe ctx (dieOf cell) ce) (evCell Ev.scrUe cell false)
    F.memScrUeCount F.memScrStatUe ctx (dieOf cell) ue

/-- The corrections of the last hour with those found now. -/
def hourOf (s : State) (cell ce : Nat) : List (Nat × Nat) :=
  (SMap.getD s.pl.ceWindow cell []).filter (fun e => decide (s.tb.sec < e.1 + 3600)) ++ [(s.tb.sec, ce)]
/-- How many they are. -/
def hourCount (s : State) (cell ce : Nat) : Nat := ((hourOf s cell ce).map (·.2)).foldl (· + ·) 0
/-- An hour's account written down. -/
def withWindow (s : State) (m : SMap (List (Nat × Nat))) : State := { s with pl := { s.pl with ceWindow := m } }

theorem wordsFound_pl (s : State) (cell : Nat) (ctx : EvCtx) (ce ue : Nat) : (wordsFound s cell ctx ce ue).pl = s.pl :=
  (countWords_pl _ _ _ _ _ _ _).trans (countWords_pl _ _ _ _ _ _ _)

theorem wordsFound_ident (s : State) (cell : Nat) (ctx : EvCtx) (ce ue : Nat) : (wordsFound s cell ctx ce ue).ident = s.ident :=
  (countWords_ident _ _ _ _ _ _ _).trans (countWords_ident _ _ _ _ _ _ _)

/-- Words counted leave BND_CTL. -/
theorem wordsFound_auto (s : State) (cell : Nat) (ctx : EvCtx) (ce ue : Nat) : fld (wordsFound s cell ctx ce ue) F.bndCtlAutoRetire = fld s F.bndCtlAutoRetire := by
  have hne {r : Reg} (hr : DieReg r) : (⟨.bndCtl, 0, 0, 0⟩ : RegRef).addr ≠ (⟨r, dieOf cell, 0, 0⟩ : RegRef).addr := (hr.addr_ne_low (by decide) _).symm
  exact (fldAt_countWords_other _ _ (c := F.memScrUeCount) (e := F.memScrStatUe) (g := F.bndCtlAutoRetire) _ _ _ (hne dieReg_scrUe) (hne dieReg_scrStat)).trans
    (fldAt_countWords_other _ _ (c := F.memScrCeCount) (e := F.memScrStatCe) (g := F.bndCtlAutoRetire) _ _ _ (hne dieReg_scrCe) (hne dieReg_scrStat))

/-- The words counted, the hour's account, and a soft cause where it passes the threshold. -/
theorem scratchFound_eq (s : State) (cell : Nat) (ctx : EvCtx) (ce ue : Nat) : ∃ m, scratchFound s cell ctx ce ue =
    if ce ≠ 0 ∧ fld s F.bndRetireThreshThresh < hourCount s cell ce then softCause (withWindow (wordsFound s cell ctx ce ue) m) cell
    else withWindow (wordsFound s cell ctx ce ue) m := by
  by_cases hce : ce = 0
  · subst hce
    exact ⟨(wordsFound s cell ctx 0 ue).pl.ceWindow, (if_neg (fun h => h.1 rfl)).symm⟩
  · have hw : scratchFound s cell ctx ce ue =
        let w := (SMap.getD (wordsFound s cell ctx ce ue).pl.ceWindow cell []).filter (fun e => decide (s.tb.sec < e.1 + 3600)) ++ [(s.tb.sec, ce)]
        let overs := decide (fld s F.bndRetireThreshThresh < (w.map (·.2)).foldl (· + ·) 0)
        let u := withWindow (wordsFound s cell ctx ce ue) (SMap.setD (wordsFound s cell ctx ce ue).pl.ceWindow cell (if overs then [] else w) [])
        if overs then softCause u cell else u := if_neg hce
    rw [hw, wordsFound_pl]
    dsimp only
    exact ⟨_, if_congr (by simp [hce, hourCount, hourOf]) rfl rfl⟩

/-- What a soft cause may write. -/
theorem softCause_regs (s : State) (cell : Nat) : RegsOutside [⟨.bndEvent, 0, 0, 0⟩, ⟨.redFault, 0, 0, 0⟩] s (softCause s cell) := by
  have hsoft : RegsOutside [⟨.bndEvent, 0, 0, 0⟩, ⟨.redFault, 0, 0, 0⟩] s (softRetire s cell) := by
    unfold softRetire
    split
    · exact .refl _ s
    · have h1 : RegsOutside [⟨.bndEvent, 0, 0, 0⟩, ⟨.redFault, 0, 0, 0⟩] s
          (setEvent { s with pl := { s.pl with retired := SMap.insert s.pl.retired cell .soft } } F.bndEventRetired) :=
        (RegsOutside.of_regs _ rfl rfl).setEvent (.head _)
      dsimp only
      split
      · split
        · exact h1
        · exact h1.trans (.of_regs _ (modBundle_regs _ _ _) (modBundle_ident _ _ _))
      · exact h1
  unfold softCause
  split
  · exact .refl _ s
  · split
    · exact hsoft
    · exact (RegsOutside.refl _ s).report (.tail _ (.head _)) _ _ _ _

/-- The sums that a pass of scratch adds. -/
theorem scratchFound_counts (s : State) (cell : Nat) (ctx : EvCtx) (ce ue : Nat) :
    fldAt (scratchFound s cell ctx ce ue) F.memScrCeCount (dieOf cell) 0 0 =
        satInc F.memScrCeCount.width (fldAt s F.memScrCeCount (dieOf cell) 0 0) ce ∧
      fldAt (scratchFound s cell ctx ce ue) F.memScrUeCount (dieOf cell) 0 0 =
        satInc F.memScrUeCount.width (fldAt s F.memScrUeCount (dieOf cell) 0 0) ue := by
  obtain ⟨m, hm⟩ := scratchFound_eq s cell ctx ce ue
  have hregs : RegsOutside [⟨.bndEvent, 0, 0, 0⟩, ⟨.redFault, 0, 0, 0⟩] (wordsFound s cell ctx ce ue) (scratchFound s cell ctx ce ue) := by
    have hwin : RegsOutside [⟨.bndEvent, 0, 0, 0⟩, ⟨.redFault, 0, 0, 0⟩] (wordsFound s cell ctx ce ue) (withWindow (wordsFound s cell ctx ce ue) m) :=
      .of_regs _ rfl rfl
    rw [hm]
    split
    · exact hwin.trans (softCause_regs _ _)
    · exact hwin
  have hlow {r : Reg} (hr : DieReg r) : ∀ q ∈ [(⟨.bndEvent, 0, 0, 0⟩ : RegRef), ⟨.redFault, 0, 0, 0⟩], (⟨r, dieOf cell, 0, 0⟩ : RegRef).addr ≠ q.addr := by
    refine List.forall_mem_cons.2 ⟨hr.addr_ne_low (by decide) _, List.forall_mem_cons.2 ⟨hr.addr_ne_low (by decide) _, fun _ h => nomatch h⟩⟩
  have hce : (⟨.memScrCe, dieOf cell, 0, 0⟩ : RegRef).addr ≠ (⟨.memScrStat, dieOf cell, 0, 0⟩ : RegRef).addr := dieReg_scrCe.addr_ne dieReg_scrStat (by decide) _
  have hue : (⟨.memScrUe, dieOf cell, 0, 0⟩ : RegRef).addr ≠ (⟨.memScrStat, dieOf cell, 0, 0⟩ : RegRef).addr := dieReg_scrUe.addr_ne dieReg_scrStat (by decide) _
  have hboth : (⟨.memScrCe, dieOf cell, 0, 0⟩ : RegRef).addr ≠ (⟨.memScrUe, dieOf cell, 0, 0⟩ : RegRef).addr := dieReg_scrCe.addr_ne dieReg_scrUe (by decide) _
  constructor
  · rw [hregs.fldAt (f := F.memScrCeCount) (hlow dieReg_scrCe), wordsFound, fldAt_countWords_other _ _ (c := F.memScrUeCount) (e := F.memScrStatUe) (g := F.memScrCeCount) _ _ _ hboth hce]
    exact fldAt_countWords_same s _ (c := F.memScrCeCount) (e := F.memScrStatCe) ctx _ ce (by decide) hce
  · rw [hregs.fldAt (f := F.memScrUeCount) (hlow dieReg_scrUe), wordsFound, fldAt_countWords_same _ _ (c := F.memScrUeCount) (e := F.memScrStatUe) ctx _ ue (by decide) hue,
      fldAt_countWords_other _ _ (c := F.memScrCeCount) (e := F.memScrStatCe) (g := F.memScrUeCount) _ _ _ hboth.symm hue]

/-! ### Retirement (R99, R100) -/

theorem softRetire_soft (hg : goodCell s cell = true) (hn : retiredCell s cell = false) : SMap.find (softRetire s cell).pl.retired cell = some .soft := by
  have h1 : SMap.find (keptChanged (setEvent { s with pl := { s.pl with retired := SMap.insert s.pl.retired cell .soft } } F.bndEventRetired)).pl.retired cell =
      some .soft := SMap.find_insert_self _ _ _
  rw [softRetire, hg, hn, if_neg (by decide)]
  dsimp only
  split
  · split
    · exact h1
    · exact (Conversing.modStation _ _ _ _).retired _ _ h1
  · exact h1

theorem moveRetired_of_kept (h : retiredCell s cell = false) : moveRetired s cell = s := by
  unfold moveRetired
  split
  · rfl
  · rw [if_pos (.inl h)]

/-! ### The patrol (R238, R252) -/

/-- No hit of a queued tile: the queues of a station stay, and so do its bundle's stations. -/
theorem setQueued_stations (b : Bundle) (idx : Nat) (l : List Tile) : (setQueued b idx l).stations = b.stations := by
  unfold setQueued
  refine List.foldlRecOn (motive := fun acc : Bundle × List Tile => acc.1.stations = b.stations) _ _ rfl fun acc h e _ => ?_
  split
  · exact h
  · exact h

theorem exec_scratchPatrol_empty (hg : goodCell s cell = true) (hp : s.phase = .running) (hn : stationOn s cell = none) (hits : List Upset) (others : PatrolHits) :
    exec (.scratchPatrol cell hits others) s = done (scratchFound s cell noCtx ((hits.foldl Mem.upset Mem.wiped).scrub 0 4194304).ce
      ((hits.foldl Mem.upset Mem.wiped).scrub 0 4194304).ue) := by
  refine congrArg done ((if_neg (by simp [hg, hp])).trans ?_)
  rw [hn]
  rfl

/-- The bundle of a station as the patrol of its scratch leaves it, nothing queued. -/
def patrolled (s : State) (x : Where) (st : Station) : State :=
  modBundle s x.slot fun b => setQueued { b with stations := modAt b.stations x.idx fun _ => st } x.idx []

/-- What the patrol of a station's scratch finds, and the station after it. -/
def scrubbed (x : Where) (hits : List Upset) : Scrubbed := (hits.foldl Mem.upset x.st.scratch).scrub 0 (scratchWords x.sr)
def patrolSt (x : Where) (hits : List Upset) (ph : List (Nat × Upset)) (ch : List Upset) : Station × Nat × Nat :=
  patrolRest { x.st with scratch := (scrubbed x hits).mem } ph ch

theorem exec_scratchPatrol_station {x : Where} (hg : goodCell s cell = true) (hp : s.phase = .running) (hc : OnCell s cell x) (hq : queuedOf x.b x.idx = [])
    (hits : List Upset) (qh ph : List (Nat × Upset)) (ch : List Upset) :
    exec (.scratchPatrol cell hits ⟨qh, ph, ch⟩) s = done (moveRetired (scratchFound (patrolled s x (patrolSt x hits ph ch).1) cell noCtx
      ((scrubbed x hits).ce + (patrolSt x hits ph ch).2.1) ((scrubbed x hits).ue + (patrolSt x hits ph ch).2.2)) cell) := by
  refine congrArg done ((if_neg (by simp [hg, hp])).trans ?_)
  rw [hc.on]
  dsimp only
  rw [hq]
  rfl

theorem stationAt_patrolled {x : Where} (hc : OnCell s cell x) (st : Station) : stationAt (patrolled s x st) x.slot x.idx = some st := by
  rw [patrolled, stationAt_of_slotBundle (slotBundle_modBundle hc.slot _), setQueued_stations, getElem?_modAt, if_pos rfl, hc.station]
  rfl

end Sys2Proof.Machine
end

section
/-!
SUPPORT. A stack's patrol, row repair and failure (R252 to R257), and bundles that enter FAULTED (R82, R101).
-/
namespace Sys2Proof.Machine
open Sys2Proof

variable {s t : State} {n d : Nat} {k : Stack}

/-! ### Registers of a stack -/

/-- A register that a die has for each of its stacks. -/
def StkReg (r : Reg) : Prop := r.block = .die ∧ r.dims = [(0x20, 2)]

theorem StkReg.addr {r : Reg} (h : StkReg r) (d i : Nat) : (⟨r, d, i, 0⟩ : RegRef).addr = 0x100000 + d * 0x10000 + r.off + 0x20 * i := by
  obtain ⟨hb, hd⟩ := h
  simp only [RegRef.addr, hb, hd, Block.base]

theorem StkReg.addr_ne {r q : Reg} (hr : StkReg r) (hq : StkReg q) (h : r.off ≠ q.off) (d i : Nat) :
    (⟨r, d, i, 0⟩ : RegRef).addr ≠ (⟨q, d, i, 0⟩ : RegRef).addr := by
  rw [hr.addr, hq.addr]
  omega

theorem stkReg_stat : StkReg .memStkStat := ⟨rfl, rfl⟩
theorem stkReg_disturb : StkReg .memStkDisturb := ⟨rfl, rfl⟩

/-- Activations leave the status of the stack. -/
theorem fldAt_activate (s : State) (n : Nat) (acts : List (Nat × Nat)) {f : Fld} (hf : f.reg = .memStkStat) :
    fldAt (activate s n acts) f (n / 2) (n % 2) 0 = fldAt s f (n / 2) (n % 2) 0 := by
  have hne : (⟨f.reg, n / 2, n % 2, 0⟩ : RegRef).addr ≠ (⟨.memStkDisturb, n / 2, n % 2, 0⟩ : RegRef).addr :=
    hf ▸ stkReg_stat.addr_ne stkReg_disturb (by decide) _ _
  unfold activate
  refine List.foldlRecOn (motive := fun t : State => fldAt t f (n / 2) (n % 2) 0 = fldAt s f (n / 2) (n % 2) 0) _ _ rfl fun t ht e _ => ?_
  dsimp only
  split
  · exact ht
  · refine (fldAt_setFldAt_other (f := F.memStkDisturbRefreshes) _ hne _).trans ?_
    exact (fldAt_bumpEv _ _ _ _ _ _ _ _).trans ht

/-! ### The sweep of a stack (R241) -/

/-- A sweep whose every step leaves the patrol as it was. -/
theorem sweepList_idle {α : Type} {f : Sweep → α → Sweep × α} {w : Sweep} {l : List α} (h : ∀ x ∈ l, (f w x).1 = w) :
    sweepList f w l = (w, l.map fun x => (f w x).2) := by
  have hgen (acc : List α) : l.foldl (fun (acc : Sweep × List α) x => ((f acc.1 x).1, acc.2 ++ [(f acc.1 x).2])) (w, acc) =
      (w, acc ++ l.map fun x => (f w x).2) := by
    induction l generalizing acc with
    | nil => simp
    | cons x l ih =>
      rw [List.foldl_cons, h x (.head l)]
      rw [ih (fun y hy => h y (.tail x hy)), List.map_cons, List.append_assoc]
      rfl
  exact hgen []

/-- A bundle whose streams hold nothing in a reorder store. -/
theorem sweepReorder_idle (d : Nat) (w : Sweep) {e : Nat × Bundle} (h : ∀ y ∈ e.2.streams, ∀ c ∈ y.ends, c.reorder = []) :
    (sweepReorder d w e).1 = w ∧ (sweepReorder d w e).2.2.spills = e.2.spills := by
  refine ⟨?_, rfl⟩
  unfold sweepReorder
  dsimp only
  rw [sweepList_idle]
  intro p hp
  split
  · rw [sweepList_idle]
    intro c hc
    rw [h p.2 (List.of_mem_zip hp).2 c hc]
    rfl
  · rfl

/-- A bundle with no spill reserve on the stack. -/
theorem sweepSpills_idle (w : Sweep) {e : Nat × Bundle} (h : ∀ p ∈ e.2.spills, p.stack ≠ n) : (sweepSpills n w e).1 = w := by
  unfold sweepSpills
  refine List.foldlRecOn (motive := fun acc : Sweep × Bundle => acc.1 = w) _ _ rfl fun acc hacc p hp => ?_
  have hmem : p.2 ∈ e.2.spills := (List.of_mem_zip hp).2
  rw [if_neg (h _ hmem)]
  exact hacc

/-! ### The patrol of a stack (R252) -/

/-- The letters of a die leave its stacks. -/
theorem stackOf_withDlq (s : State) (d : Nat) (l : List DlqEntry) (p : Placer) (n : Nat) :
    stackOf { s with pl := p, dies := modAt s.dies d fun x => { x with dlq := l } } n = stackOf s n := by
  simp only [stackOf, getElem?_modAt]
  by_cases hd : n / 2 = d
  · rw [if_pos hd, hd]
    cases s.dies[d]? <;> rfl
  · rw [if_neg hd]

/-- The words of a stack, hit and corrected; what cannot be is marked. -/
def swept (k : Stack) (hits : List Upset) : Mem :=
  ((hits.foldl Mem.upset k.mem).correct 0 (2 ^ 36)).bad.foldl (fun m e => m.poisonWord e.1) ((hits.foldl Mem.upset k.mem).correct 0 (2 ^ 36)).mem

/-- A stack's patrol where its die and its bundles keep nothing else on it. -/
theorem exec_stackPatrol (hk : stackOf s n = some k) (hf : k.failed = false) (hw : k.wiping = false) (hp : s.phase = .running) (hr : k.repairing = [])
    (hspill : ∀ e ∈ s.pl.slots, ∀ p ∈ e.2.spills, p.stack ≠ n)
    (hdlq : n % 2 = 1 ∨ (dlqOf s (n / 2) = [] ∧ ∀ e ∈ s.pl.slots, ∀ y ∈ e.2.streams, ∀ c ∈ y.ends, c.reorder = [])) (hits : List Upset) (acts : List (Nat × Nat)) :
    ∃ u fixed bad, exec (.stackPatrol n ⟨hits, acts⟩) s =
        done (activate (setEventAt (stackFound u n (swept k hits) fixed bad) F.memStkStatScrubPass (n / 2) (n % 2) 0) n acts) ∧ stackOf u n = some k := by
  have hexec : exec (.stackPatrol n ⟨hits, acts⟩) s = done (match stackOf s n with
    | none => s
    | some k0 =>
      if k0.failed ∨ k0.wiping ∨ s.phase ≠ .running then s
      else
        let s0 := awaitRepairs s n 0 (2 ^ 36)
        let k := (stackOf s0 n).getD k0
        let d := stkDie n
        let w0 : Sweep := ⟨hits, 0, slotBytes, [], [], []⟩
        let q := if stkIdx n = 0 then sweepList (sweepDlq d) w0 (dlqOf s0 d) else (w0, dlqOf s0 d)
        let r := if stkIdx n = 0 then sweepList (sweepReorder d) { q.1 with at_ := reorderBase, gap := 8192 } s0.pl.slots else (q.1, s0.pl.slots)
        let h := sweepList (sweepSpills n) { r.1 with gap := slotBytes } r.2
        let own := hits.filter (fun u => !h.1.seen.any (fun x => x.1 ≤ 16 * u.word && decide (16 * u.word < x.1 + x.2)))
        let c := (own.foldl Mem.upset k.mem).correct 0 (2 ^ 36)
        let m := c.bad.foldl (fun m e => m.poisonWord e.1) c.mem
        let s1 : State := { s0 with pl := { s0.pl with slots := h.2 }, dies := modAt s0.dies d (fun x => { x with dlq := q.2 }) }
        let s2 := stackFound s1 n m (c.fixed ++ h.1.fixed) (c.bad ++ h.1.bad)
        activate (setEventAt s2 F.memStkStatScrubPass d (stkIdx n) 0) n acts) := rfl
  rw [hexec, hk]
  dsimp -zeta only
  rw [if_neg (by simp [hf, hw, hp]), awaitRepairs_of_none hk hr]
  extract_lets s0 k1 d w0 q _ r _ h own c m _ s1 s2
  have hk1 : k1 = k := by
    dsimp only [k1, s0]
    rw [hk, Option.getD_some]
  have hq : q.1 = w0 := by
    dsimp only [q]
    split
    · rename_i hi
      rcases hdlq with hn | hn
      · exact absurd (hn.symm.trans hi) (by decide)
      · rw [show dlqOf s d = [] from hn.1]
        rfl
    · rfl
  have hrw : r.1.seen = [] ∧ ∀ e ∈ r.2, ∀ p ∈ e.2.spills, p.stack ≠ n := by
    dsimp only [r]
    split
    · rename_i hi
      rcases hdlq with hn | hn
      · exact absurd (hn.symm.trans hi) (by decide)
      · rw [sweepList_idle fun e he => (sweepReorder_idle d _ (hn.2 e he)).1]
        refine ⟨congrArg Sweep.seen hq, fun e he => ?_⟩
        obtain ⟨e0, he0, rfl⟩ := List.mem_map.1 he
        rw [(sweepReorder_idle d _ (hn.2 e0 he0)).2]
        exact hspill e0 he0
    · exact ⟨congrArg Sweep.seen hq, hspill⟩
  have hseen : h.1.seen = [] := by
    dsimp only [h]
    rw [sweepList_idle fun e he => sweepSpills_idle _ (hrw.2 e he)]
    exact hrw.1
  have hown : own = hits := by
    dsimp only [own]
    rw [hseen]
    exact List.filter_eq_self.2 fun _ _ => rfl
  have hm : m = swept k hits := by
    dsimp only [m, c]
    rw [hown, hk1]
    rfl
  refine ⟨s1, c.fixed ++ h.1.fixed, c.bad ++ h.1.bad, ?_, (stackOf_withDlq s d q.2 _ n).trans hk⟩
  rw [← hm]
  rfl

end Sys2Proof.Machine
end

section
/-!
SUPPORT. Row repairs, stacks that fail, cells that fail, and bundles that enter FAULTED (R82, R99, R101, R253, R257).
-/
namespace Sys2Proof.Machine
open Sys2Proof

variable {s t : State} {n : Nat} {k : Stack}

/-! ### Row repair (R253) -/

theorem stackRead_repaired (hk : stackOf s n = some k) (off len : Nat) :
    ∃ k', stackOf (stackRead s n off len).st n = some k' ∧ k'.repaired = k.repaired := by
  rw [stackRead, hk]
  obtain ⟨k', hk', he⟩ := Option.map_eq_some_iff.1 (stackFound_lasting hk (((k.mem.correct off len).bad.foldl (fun m e => m.poisonWord e.1) (k.mem.correct off len).mem))
    (k.mem.correct off len).fixed (k.mem.correct off len).bad)
  exact ⟨k', hk', (congrArg Stack.repaired he :)⟩

theorem correctRow_repaired (hk : stackOf s n = some k) (key : Nat) : ∃ k', stackOf (correctRow s n key) n = some k' ∧ k'.repaired = k.repaired := by
  refine List.foldlRecOn (motive := fun t : State => ∃ k', stackOf t n = some k' ∧ k'.repaired = k.repaired) _ _ ⟨k, hk, rfl⟩ fun t ht off _ => ?_
  obtain ⟨k1, hk1, h1⟩ := ht
  obtain ⟨k2, hk2, h2⟩ := stackRead_repaired hk1 off 64
  exact ⟨k2, hk2, h2.trans h1⟩

/-- A repair before its reports. -/
def rowRemapped (s : State) (n bank row : Nat) : State :=
  setEventAt (stkEvent (modStack (correctRow s n (bank * 65536 + row)) n fun k => k.remap bank row) n Ev.stkRepair 1) F.memStkStatRepaired (stkDie n) (stkIdx n) 0

theorem finishRepair_eq (s : State) (n bank row : Nat) :
    finishRepair s n bank row = spareReports (report (rowRemapped s n bank row) C.memRepaired (srcDie (stkDie n)) 0xFFFF []) n bank := rfl

theorem rowRemapped_dies (s : State) (n bank row : Nat) :
    (rowRemapped s n bank row).dies = (modStack (correctRow s n (bank * 65536 + row)) n fun k => k.remap bank row).dies := by
  rw [rowRemapped, setEventAt_dies, stkEvent, bumpEv_dies]

theorem rowRemapped_stack (hk : stackOf s n = some k) (bank row : Nat) : ∃ k', stackOf (rowRemapped s n bank row) n = some k' ∧
    bank * 65536 + row ∉ k'.repairing ∧ SMap.getD k'.repaired bank [] = SMap.getD k.repaired bank [] ++ [row] := by
  obtain ⟨k1, hk1, hrep⟩ := correctRow_repaired hk (bank * 65536 + row)
  refine ⟨k1.remap bank row, ?_, ?_, ?_⟩
  · rw [stackOf_of_dies (rowRemapped_dies s n bank row), stackOf_modStack, if_pos rfl, hk1]
    rfl
  · simp [Stack.remap]
  · rw [Stack.remap]
    dsimp only
    rw [SMap.getD_setD, if_pos rfl, hrep]

theorem rowRemapped_shown (s : State) (n bank row : Nat) : fldAt (rowRemapped s n bank row) F.memStkStatRepaired (n / 2) (n % 2) 0 = 1 :=
  fldAt_setFldAt_same _ (f := F.memStkStatRepaired) (by decide) _ _ _ _

/-! ### Bundles that enter FAULTED (R82) -/

/-- From `s` to `t` every bundle stays, and one that is FAULTED stays so. -/
def FaultedStay (s t : State) : Prop := ∀ slot b, slotBundle s slot = some b → ∃ b', slotBundle t slot = some b' ∧ (b.st = .faulted → b'.st = .faulted)

theorem slotBundle_faultBundle_other (s : State) {slot m : Nat} (h : slot ≠ m) {b : Bundle} (hb : slotBundle s slot = some b) :
    ∃ b', slotBundle (faultBundle s m) slot = some b' ∧ b'.body = b.body := by
  unfold faultBundle
  split
  · exact ⟨b, hb, rfl⟩
  · split
    · exact ⟨b, hb, rfl⟩
    · extract_lets s1
      have h1 : BodiesKept s s1 :=
        (BodiesKept.of_pl (((FabricOnly.refl s).stallAll m).leaveRemote m).pl).trans (.orphanHomed _ m)
      obtain ⟨b', hb', hbody⟩ := h1.some hb
      exact ⟨b', (slotBundle_of_pl (setEvent_pl _ _) slot).trans ((slotBundle_modBundle_other s1 h _).trans hb'), hbody⟩

theorem slotBundle_faultWith_other (s : State) {slot m : Nat} (h : slot ≠ m) (code src : Nat) (d : List Byte) {b : Bundle} (hb : slotBundle s slot = some b) :
    ∃ b', slotBundle (faultWith s m code src d) slot = some b' ∧ b'.body = b.body := by
  unfold faultWith
  split
  · exact ⟨b, hb, rfl⟩
  · split
    · exact ⟨b, hb, rfl⟩
    · exact slotBundle_faultBundle_other _ h ((slotBundle_of_pl (report_pl _ _ _ _ _) slot).trans hb)

/-- A bundle is FAULTED by its own cause, whatever it was. -/
theorem faultWith_faulted {slot : Nat} {b : Bundle} (hb : slotBundle s slot = some b) (code src : Nat) (d : List Byte) :
    ∃ b', slotBundle (faultWith s slot code src d) slot = some b' ∧ b'.st = .faulted := by
  by_cases hst : b.st = .faulted
  · refine ⟨b, ?_, hst⟩
    rw [faultWith, hb]
    dsimp only
    rw [if_pos hst, hb]
  · obtain ⟨b', hb', hbody⟩ := slotBundle_faultWith hb hst code src d
    exact ⟨b', hb', (congrArg Bundle.st hbody :)⟩

theorem faultWith_stay (s : State) (m code src : Nat) (d : List Byte) : FaultedStay s (faultWith s m code src d) := by
  intro slot b hb
  by_cases h : slot = m
  · subst h
    obtain ⟨b', hb', hst⟩ := faultWith_faulted hb code src d
    exact ⟨b', hb', fun _ => hst⟩
  · obtain ⟨b', hb', hbody⟩ := slotBundle_faultWith_other s h code src d hb
    exact ⟨b', hb', fun hst => ((congrArg Bundle.st hbody :) : b'.st = b.st).trans hst⟩

/-! ### A stack that fails (R257) -/

/-- The bundles on a stack enter FAULTED. -/
def faultOn (n : Nat) (s : State) (e : Nat × Bundle) : State :=
  if e.2.placed && onStack e.2 n then faultWith s e.1 C.memStackFailed (srcDie (stkDie n)) [] else s

theorem faultOn_stay (n : Nat) (s : State) (e : Nat × Bundle) : FaultedStay s (faultOn n s e) := by
  unfold faultOn
  split
  · exact faultWith_stay _ _ _ _ _
  · exact fun _ b hb => ⟨b, hb, id⟩

theorem faultOn_dies (n : Nat) (s : State) (e : Nat × Bundle) : (faultOn n s e).dies = s.dies := by
  unfold faultOn
  split
  · exact (BundleWork.faultWith _ _ _ _ _).dies
  · rfl

/-- The stack failed, reported, its die's letters gone. -/
def stackDown (s : State) (n : Nat) : State :=
  let s2 := report (modStack s n fun k => { k with failed := true, wiping := false, repairing := [] }) C.memStackFailed (srcDie (stkDie n)) 0xFFFF []
  if n % 2 = 0 then { s2 with dies := modAt s2.dies (stkDie n) fun x => { x with dlq := [] } } else s2

theorem failStack_eq (s : State) (n : Nat) : failStack s n = (stackDown s n).pl.slots.foldl (faultOn n) (stackDown s n) := rfl

theorem stackDown_pl (s : State) (n : Nat) : (stackDown s n).pl = s.pl := by
  unfold stackDown
  dsimp only
  split <;> exact report_pl _ _ _ _ _

theorem stackOf_stackDown (hk : stackOf s n = some k) : stackOf (stackDown s n) n = some { k with failed := true, wiping := false, repairing := [] } := by
  have h2 : stackOf (report (modStack s n fun k => { k with failed := true, wiping := false, repairing := [] }) C.memStackFailed (srcDie (stkDie n)) 0xFFFF []) n =
      some { k with failed := true, wiping := false, repairing := [] } := by
    rw [stackOf_of_dies (report_dies _ _ _ _ _), stackOf_modStack, if_pos rfl, hk]
    rfl
  unfold stackDown
  dsimp only
  split
  · exact (stackOf_withDlq _ _ [] _ n).trans h2
  · exact h2

theorem dlqOf_stackDown (hn : n % 2 = 0) : dlqOf (stackDown s n) (n / 2) = [] := by
  unfold stackDown
  dsimp only
  rw [if_pos hn]
  simp only [dlqOf, getElem?_modAt, stkDie, if_pos]
  generalize (report (modStack s n fun k => { k with failed := true, wiping := false, repairing := [] }) C.memStackFailed (srcDie (n / 2)) 0xFFFF []).dies[n / 2]? = o
  cases o <;> rfl

theorem failStack_dies (s : State) (n : Nat) : (failStack s n).dies = (stackDown s n).dies :=
  List.foldlRecOn (motive := fun t : State => t.dies = (stackDown s n).dies) _ _ rfl fun t ht e _ => (faultOn_dies n t e).trans ht

/-- Every bundle placed on a stack that fails is FAULTED. -/
theorem failStack_faults {slot : Nat} {b : Bundle} (hb : slotBundle s slot = some b) (hp : b.placed = true) (ho : onStack b n = true) :
    ∃ b', slotBundle (failStack s n) slot = some b' ∧ b'.st = .faulted := by
  have hmem : (slot, b) ∈ (stackDown s n).pl.slots := by
    rw [stackDown_pl]
    exact SMap.mem_of_find hb
  rw [failStack_eq]
  refine foldl_reaches (f := faultOn n) (I := fun t => ∃ b', slotBundle t slot = some b') (D := fun t => ∃ b', slotBundle t slot = some b' ∧ b'.st = .faulted)
    (fun t e ⟨c, hc⟩ => ?_) (fun t e _ ⟨c, hc, hst⟩ => ?_) (fun t ⟨c, hc⟩ => ?_) hmem ⟨b, (slotBundle_of_pl (stackDown_pl s n) slot).trans hb⟩
  · obtain ⟨c', hc', -⟩ := faultOn_stay n t e slot c hc
    exact ⟨c', hc'⟩
  · obtain ⟨c', hc', hkeep⟩ := faultOn_stay n t e slot c hc
    exact ⟨c', hc', hkeep hst⟩
  · rw [faultOn, if_pos (by rw [hp, ho]; rfl)]
    exact faultWith_faulted hc _ _ _

/-! ### A cell that fails (R99, R101) -/

/-- The retirement written down. -/
def hardRetired (s : State) (cell : Nat) : State :=
  keptChanged (setEvent { s with pl := { s.pl with retired := SMap.insert s.pl.retired cell .hard } } F.bndEventRetired)
/-- Its station stopped. -/
def stationLost (s : State) (x : Where) : State := modStation s x.slot x.idx fun st => { st with run := .faulted, waiting := .no, relocating := false }

theorem hardRetired_find (s : State) (cell : Nat) : SMap.find (hardRetired s cell).pl.retired cell = some .hard := SMap.find_insert_self _ _ _

theorem hardRetired_shown (s : State) (cell : Nat) : fld (hardRetired s cell) F.bndEventRetired = 1 :=
  fld_setEvent { s with pl := { s.pl with retired := SMap.insert s.pl.retired cell .hard } } (f := F.bndEventRetired) (by decide) rfl

theorem exec_cellHardFailure {cell : Nat} (hg : goodCell s cell = true) (hn : SMap.find s.pl.retired cell ≠ some .hard) :
    exec (.cellHardFailure cell) s = done (match stationOn s cell with
      | none => hardRetired s cell
      | some w => if w.b.st = .loading then moveRetired (hardRetired s cell) cell
        else faultWith (stationLost (hardRetired s cell) w) w.slot C.cellLost (srcCell cell) (dName w.sr.name ++ d4 cell)) :=
  congrArg done (if_neg (by simp [hg, hn]))

/-- Orphaned tallies write TAL_EVENT alone. -/
theorem answer_regs (l : List RegRef) (s : State) (slot tally : Nat) (src : TallySrc) (status : Nat) : RegsOutside l s (answer s slot tally src status) := by
  cases src with
  | station i => exact .of_regs _ (modBundle_regs _ _ _) (modBundle_ident _ _ _)
  | remote pc tag _ _ => exact .of_regs _ (sendMsg_fabricOnly s _ _ _).regs (sendMsg_fabricOnly s _ _ _).ident

theorem orphanTally_regs (s : State) (slot i : Nat) : RegsOutside [⟨.talEvent, 0, 0, 0⟩] s (orphanTally s slot i) := by
  have hmod (s : State) (f : Bundle → Bundle) : RegsOutside [⟨.talEvent, 0, 0, 0⟩] s (modBundle s slot f) := .of_regs _ (modBundle_regs _ _ _) (modBundle_ident _ _ _)
  unfold orphanTally
  split
  · exact .refl _ s
  · split
    · exact .refl _ s
    · extract_lets s1 s2
      have h1 : RegsOutside [⟨.talEvent, 0, 0, 0⟩] s s1 :=
        List.foldlRecOn (motive := fun t : State => RegsOutside [⟨.talEvent, 0, 0, 0⟩] s t) _ _ (.refl _ s) fun t ht w _ => ht.trans (answer_regs _ _ _ _ _ _)
      have h2 : RegsOutside [⟨.talEvent, 0, 0, 0⟩] s s2 := by
        dsimp only [s2]
        split
        · exact h1
        · exact h1.trans (hmod _ _)
      exact (h2.trans (hmod _ _)).setEvent (.head _)

theorem orphanHomed_regs (s : State) (slot : Nat) : RegsOutside [⟨.talEvent, 0, 0, 0⟩] s (orphanHomed s slot) := by
  unfold orphanHomed
  split
  · exact .refl _ s
  · refine List.foldlRecOn (motive := fun t : State => RegsOutside [⟨.talEvent, 0, 0, 0⟩] s t) _ _ (.refl _ s) fun t ht i _ => ?_
    split
    · split
      · exact ht.trans (orphanTally_regs _ _ _)
      · exact ht
    · exact ht

theorem faultBundle_events {slot : Nat} {b : Bundle} (hb : slotBundle s slot = some b) (hst : b.st ≠ .faulted) :
    fld (faultBundle s slot) F.bndEventFaulted = 1 ∧ fld (faultBundle s slot) F.bndEventRetired = fld s F.bndEventRetired := by
  rw [faultBundle, hb]
  dsimp only
  rw [if_neg hst]
  have hfab := ((FabricOnly.refl s).stallAll slot).leaveRemote slot
  have hregs : RegsOutside [⟨.talEvent, 0, 0, 0⟩] s (orphanHomed (leaveRemote (stallAll s slot) slot) slot) :=
    (RegsOutside.of_regs _ hfab.regs hfab.ident).trans (orphanHomed_regs _ slot)
  refine ⟨fld_setEvent _ (by decide) rfl, ?_⟩
  refine (fld_setFld_disjoint _ (f := F.bndEventFaulted) (g := F.bndEventRetired) rfl (by decide) (by decide) 1).trans ?_
  exact (fld_of_regWord (regWord_modBundle _ _ _ _)).trans (hregs.fld (by decide))

/-- What a bundle that enters FAULTED sets of BND_EVENT, and leaves. -/
theorem faultWith_events {slot : Nat} {b : Bundle} (hb : slotBundle s slot = some b) (hst : b.st ≠ .faulted) (code src : Nat) (d : List Byte) :
    fld (faultWith s slot code src d) F.bndEventFaulted = 1 ∧ fld (faultWith s slot code src d) F.bndEventRetired = fld s F.bndEventRetired := by
  rw [faultWith, hb]
  dsimp only
  rw [if_neg hst]
  obtain ⟨hf, hr⟩ := faultBundle_events ((slotBundle_of_pl (report_pl s code src (handleOf slot b) d) slot).trans hb) hst
  exact ⟨hf, hr.trans (fld_report _ _ _ _ _ (f := F.bndEventRetired) (by decide))⟩

theorem FaultStands.faultWith (slot idx : Nat) (s : State) (m code src : Nat) (d : List Byte) : FaultStands slot idx s (faultWith s m code src d) := by
  unfold Machine.faultWith
  split
  · exact .refl s
  · split
    · exact .refl s
    · exact (FaultStands.report s _ _ _ _).trans (.faultBundle _ m)

end Sys2Proof.Machine
end

section
/-!
PROOF. Cells and stacks are kept (R99 to R101, R238, R252 to R257).
-/
namespace Sys2Proof.Machine
open Sys2Proof

variable {s t : State} {cell : Nat} {x : Where}

theorem dlqOf_of_dies (h : t.dies = s.dies) (d : Nat) : dlqOf t d = dlqOf s d := by rw [dlqOf, h, dlqOf]

/-- The cell of a running bundle's station fails. -/
theorem cellHardFailure_faults (hc : OnCell s cell x) (hg : goodCell s cell = true) (hn : SMap.find s.pl.retired cell ≠ some .hard) (hl : x.b.st ≠ .loading)
    (hf : x.b.st ≠ .faulted) : ∃ t b st, exec (.cellHardFailure cell) s = .next t ∧ SMap.find t.pl.retired cell = some .hard ∧
      slotBundle t x.slot = some b ∧ b.st = .faulted ∧ stationAt t x.slot x.idx = some st ∧ st.run = .faulted ∧ fld t F.bndEventFaulted = 1 ∧
      fld t F.bndEventRetired = 1 := by
  have hslot : slotBundle (hardRetired s cell) x.slot = some x.b := hc.slot
  have hlost : slotBundle (stationLost (hardRetired s cell) x) x.slot = some { x.b with stations := modAt x.b.stations x.idx fun st =>
      { st with run := .faulted, waiting := .no, relocating := false } } := slotBundle_modBundle hslot _
  have hstopped : StoppedIn (stationLost (hardRetired s cell) x) x.slot x.idx := by
    refine ⟨{ x.st with run := .faulted, waiting := .no, relocating := false }, ?_, rfl, rfl⟩
    rw [stationAt_of_slotBundle hlost, getElem?_modAt, if_pos rfl, hc.station]
    rfl
  obtain ⟨b, hb, hst⟩ := faultWith_faulted hlost C.cellLost (srcCell cell) (dName x.sr.name ++ d4 cell)
  obtain ⟨st, hstation, hrun, -⟩ := (FaultStands.faultWith x.slot x.idx _ x.slot C.cellLost (srcCell cell) (dName x.sr.name ++ d4 cell)).stopped hstopped
  obtain ⟨hfaulted, hretired⟩ := faultWith_events hlost hf C.cellLost (srcCell cell) (dName x.sr.name ++ d4 cell)
  refine ⟨_, b, st, ?_, ?_, hb, hst, hstation, hrun, hfaulted, hretired.trans ?_⟩
  · rw [exec_cellHardFailure hg hn, hc.on]
    dsimp only
    rw [if_neg hl]
    rfl
  · exact (Conversing.of_bundles (BundleWork.faultWith _ _ _ _ _)).retired _ _ ((Conversing.modStation _ _ _ _).retired _ _ (hardRetired_find s cell))
  · exact (fld_of_regWord (regWord_modBundle _ _ _ _)).trans (hardRetired_shown s cell)

/-- Without a soft cause what a pass of scratch found leaves the bundles and what is retired. -/
theorem scratchFound_kept (s : State) (cell : Nat) (ctx : EvCtx) (ce ue : Nat)
    (h : fld s F.bndCtlAutoRetire = 0 ∨ ¬ (ce ≠ 0 ∧ fld s F.bndRetireThreshThresh < hourCount s cell ce)) :
    (scratchFound s cell ctx ce ue).pl.slots = s.pl.slots ∧ (scratchFound s cell ctx ce ue).pl.retired = s.pl.retired := by
  obtain ⟨m, hm⟩ := scratchFound_eq s cell ctx ce ue
  have hwin : (withWindow (wordsFound s cell ctx ce ue) m).pl.slots = s.pl.slots ∧ (withWindow (wordsFound s cell ctx ce ue) m).pl.retired = s.pl.retired :=
    ⟨(congrArg Placer.slots (wordsFound_pl s cell ctx ce ue) :), (congrArg Placer.retired (wordsFound_pl s cell ctx ce ue) :)⟩
  have hauto : fld (withWindow (wordsFound s cell ctx ce ue) m) F.bndCtlAutoRetire = fld s F.bndCtlAutoRetire := wordsFound_auto s cell ctx ce ue
  rw [hm]
  split
  · rename_i hover
    have hzero : fld s F.bndCtlAutoRetire = 0 := h.resolve_right (not_not.2 hover)
    unfold softCause
    split
    · exact hwin
    · rw [if_neg (by rw [hauto, hzero]; decide), report_pl]
      exact hwin
  · exact hwin

theorem scratchFound_retires (s : State) (cell : Nat) (ctx : EvCtx) (ce ue : Nat) (hg : goodCell s cell = true) (hn : retiredCell s cell = false)
    (ha : fld s F.bndCtlAutoRetire = 1) (h : ce ≠ 0 ∧ fld s F.bndRetireThreshThresh < hourCount s cell ce) :
    SMap.find (scratchFound s cell ctx ce ue).pl.retired cell = some .soft := by
  obtain ⟨m, hm⟩ := scratchFound_eq s cell ctx ce ue
  have hauto : fld (withWindow (wordsFound s cell ctx ce ue) m) F.bndCtlAutoRetire = fld s F.bndCtlAutoRetire := wordsFound_auto s cell ctx ce ue
  have hret : retiredCell (withWindow (wordsFound s cell ctx ce ue) m) cell = false :=
    (congrArg (fun p : Placer => (SMap.find p.retired cell).isSome) (wordsFound_pl s cell ctx ce ue) :).trans hn
  have hgood : goodCell (withWindow (wordsFound s cell ctx ce ue) m) cell = true := by
    rw [← hg]
    exact congrArg (fun i : Ident => decide (cell < 256 * i.dies) && !i.badCells.contains cell) (wordsFound_ident s cell ctx ce ue)
  rw [hm, if_pos h, softCause, hret, if_neg (by decide), if_pos (hauto.trans ha)]
  exact softRetire_soft hgood hret

theorem patrolled_eq (s : State) (x : Where) (st : Station) : ∃ l, patrolled s x st = { s with pl := { s.pl with slots := l } } := by
  unfold patrolled modBundle
  split
  · exact ⟨_, rfl⟩
  · exact ⟨s.pl.slots, rfl⟩

theorem patrolled_retired (s : State) (x : Where) (st : Station) : (patrolled s x st).pl.retired = s.pl.retired := by
  obtain ⟨l, h⟩ := patrolled_eq s x st
  rw [h]

theorem patrolled_window (s : State) (x : Where) (st : Station) : (patrolled s x st).pl.ceWindow = s.pl.ceWindow := by
  obtain ⟨l, h⟩ := patrolled_eq s x st
  rw [h]

theorem patrolled_tb (s : State) (x : Where) (st : Station) : (patrolled s x st).tb = s.tb := by
  obtain ⟨l, h⟩ := patrolled_eq s x st
  rw [h]

theorem patrolled_ident (s : State) (x : Where) (st : Station) : (patrolled s x st).ident = s.ident := by
  obtain ⟨l, h⟩ := patrolled_eq s x st
  rw [h]

end Sys2Proof.Machine

namespace Sys2Proof.Proofs
open Sys2Proof Sys2Proof.Machine

/-- Settles O42: a failing cell, a station that does not stop, the patrols of scratch and of a stack, a row repaired, a stack that fails. -/
theorem cellsAndStacksAreKept : Obligations.CellsAndStacksAreKept := by
  refine ⟨fun s cell hg hn => ⟨fun hno => ?retired, fun x hc hl hf => cellHardFailure_faults hc hg hn hl hf⟩, fun s cell x hc hr hm => ⟨fun hrep => ?told, fun hrep => ?tells⟩,
    fun s cell hits qh ph ch hg hp => ?_, fun s n hits acts k hk hf hw hp hr hspill hdlq => ?patrol, fun s n bank row k hk hf hp hrow => ?repair,
    fun s n k hk hw hp => ?fails⟩
  case retired =>
    refine ⟨hardRetired s cell, ?_, hardRetired_find s cell, rfl, hardRetired_shown s cell⟩
    rw [exec_cellHardFailure hg hn, hno]
    rfl
  case told =>
    refine congrArg done ?_
    rw [hc.on]
    exact if_neg (by simp [hrep])
  case tells =>
    refine ⟨modStation s x.slot x.idx fun st => { st with relocReported := true }, congrArg done ?_, ?_⟩
    · rw [hc.on]
      exact if_pos (by rw [hr, hm, hrep]; rfl)
    · rw [stationAt_modStation, stationAt_of_slotBundle hc.slot, hc.station]
      rfl
  case patrol =>
    obtain ⟨u, fixed, bad, hexec, hu⟩ := exec_stackPatrol hk hf hw hp hr hspill hdlq hits acts
    obtain ⟨k1, hk1, hmem1⟩ := Option.map_eq_some_iff.1 (stackFound_mem hu (swept k hits) fixed bad)
    have hkept := ((LastKept.setFldAt (n := n) (stackFound u n (swept k hits) fixed bad) F.memStkStatScrubPass (n / 2) (n % 2) 0 1).trans (.activate _ acts)).mem
    rw [hk1] at hkept
    obtain ⟨k2, hk2, hmem2⟩ := Option.map_eq_some_iff.1 hkept
    refine ⟨_, k2, hexec, hk2, hmem2.trans hmem1, (fldAt_activate _ n acts (f := F.memStkStatScrubPass) rfl).trans ?_⟩
    exact fldAt_setFldAt_same _ (f := F.memStkStatScrubPass) (by decide) _ _ _ _
  case repair =>
    obtain ⟨k', hk', hdone, hspare⟩ := rowRemapped_stack hk bank row
    refine ⟨rowRemapped s n bank row, k', ?_, hk', hdone, hspare, rowRemapped_shown s n bank row⟩
    have hrow' : k.repairing.contains (bank * 65536 + row) = true ∨ (k.wiping = true ∧ 0 < sparesLeft k bank ∧ bank < 1024 ∧ row < 65536) :=
      hrow.imp_left List.contains_iff_mem.2
    refine congrArg done ?_
    rw [hk]
    dsimp only
    rw [if_neg (by simp [hf, hp]), if_pos hrow']
    exact finishRepair_eq s n bank row
  case fails =>
    refine ⟨failStack s n, _, congrArg done ?_, (stackOf_of_dies (failStack_dies s n) n).trans (stackOf_stackDown hk), rfl, rfl, fun hn => ?_,
      fun slot b hb hpl ho => failStack_faults hb hpl ho⟩
    · rw [hk]
      exact if_pos (by rw [hw, hp]; rfl)
    · exact (dlqOf_of_dies (failStack_dies s n) _).trans (dlqOf_stackDown hn)
  intro sums
  refine ⟨fun hno => ?_, fun x hc hq hret => ?_⟩
  · refine ⟨_, exec_scratchPatrol_empty hg hp hno hits _, scratchFound_counts s cell noCtx _ _⟩
  · have hregs (f : Fld) (d i j : Nat) : fldAt (patrolled s x (patrolSt x hits ph ch).1) f d i j = fldAt s f d i j := by
      rw [fldAt, patrolled, regWord_modBundle, fldAt]
    have hhour (ce : Nat) : hourCount (patrolled s x (patrolSt x hits ph ch).1) cell ce = hourCount s cell ce := by
      rw [hourCount, hourOf, patrolled_window, patrolled_tb, hourCount, hourOf]
    have hnone : SMap.find s.pl.retired cell = none := Option.isSome_eq_false_iff.1 hret |> Option.isNone_iff_eq_none.1
    have hexec := exec_scratchPatrol_station hg hp hc hq hits qh ph ch
    obtain ⟨hce, hue⟩ := scratchFound_counts (patrolled s x (patrolSt x hits ph ch).1) cell noCtx ((scrubbed x hits).ce + (patrolSt x hits ph ch).2.1)
      ((scrubbed x hits).ue + (patrolSt x hits ph ch).2.2)
    rw [hregs] at hce hue
    refine ⟨fun hn => ?_, fun ha hover => ?_⟩
    · obtain ⟨hslots, hretired⟩ := scratchFound_kept (patrolled s x (patrolSt x hits ph ch).1) cell noCtx
        ((scrubbed x hits).ce + (patrolSt x hits ph ch).2.1) ((scrubbed x hits).ue + (patrolSt x hits ph ch).2.2)
        (by rw [fld, hregs, fld, hregs, hhour]; exact hn)
      rw [patrolled_retired] at hretired
      rw [moveRetired_of_kept (by rw [retiredCell, hretired, hnone]; rfl)] at hexec
      refine ⟨_, hexec, ?_, rfl, by rw [hretired, hnone], hce, hue⟩
      rw [stationAt, slotBundle, hslots]
      exact stationAt_patrolled hc _
    · refine ⟨_, hexec, (Conversing.moveRetired _ _).retired _ _ (scratchFound_retires _ _ _ _ _ ?_ ?_ ?_ ?_)⟩
      · rw [goodCell, patrolled_ident]
        exact hg
      · rw [retiredCell, patrolled_retired, hnone]
        rfl
      · rw [fld, hregs]
        exact ha
      · rw [fld, hregs, hhour]
        exact hover

end Sys2Proof.Proofs
end

section
/-!
SUPPORT. Streams in a slot, dead letters, tiles that leave the module, and tiles that the host sends (R43, R44, R52, R62 to R67, R375).
-/
namespace Sys2Proof.Machine
open Sys2Proof

variable {s t u : State} {slot si d : Nat} {b : Bundle} {y : Stream}

/-! ### A stream of a slot's bundle -/

/-- The bundle of a slot is `b`, and its stream at the index `y`. -/
structure StreamHas (t : State) (slot si : Nat) (b : Bundle) (y : Stream) : Prop where
  bundle : slotBundle t slot = some b
  stream : b.streams[si]? = some y

namespace StreamHas

theorem of_pl (h : StreamHas s slot si b y) (hp : t.pl = s.pl) : StreamHas t slot si b y := ⟨(slotBundle_of_pl hp slot).trans h.bundle, h.stream⟩

theorem of_streamAt {v : StreamAt} (h : streamAt s slot si = some v) : StreamHas s slot si v.b v.x := by
  obtain ⟨-, -, hb, -, hx⟩ := streamAt_parts h
  exact ⟨hb, hx⟩

theorem modStream (h : StreamHas s slot si b y) (f : Stream → Stream) :
    StreamHas (modStream s slot si f) slot si { b with streams := modAt b.streams si f } (f y) := by
  refine ⟨slotBundle_modBundle h.bundle _, ?_⟩
  rw [getElem?_modAt, if_pos rfl, h.stream]
  rfl

/-- The bundle changed beside its streams. -/
theorem modBundle (h : StreamHas s slot si b y) {f : Bundle → Bundle} (hf : (f b).streams = b.streams) : StreamHas (modBundle s slot f) slot si (f b) y :=
  ⟨slotBundle_modBundle h.bundle f, by rw [hf, h.stream]⟩

end StreamHas

/-! ### Dead letters (R62, R64 to R67) -/

/-- A tile enters the queue of its die. -/
def DeadLetter (s t : State) (d reason : Nat) (q : Tile) : Prop := ∀ die, s.dies[d]? = some die → stackFailed die.stks 0 = false →
  die.dlq.length < 1024 → q.hdr.flag flagProvisional = false → ∃ x, dlqOf t d = die.dlq ++ [x] ∧ x.reason = reason ∧ x.tile = q

theorem dlqAdd_adds (s : State) (d reason cell : Nat) (consumer : List Byte) (q : Tile) : DeadLetter s (dlqAdd s d reason cell consumer q) d reason q := by
  intro die hd hf hlen hprov
  refine ⟨⟨reason, fldAt s F.dieDlqTotalTotal d 0 0, s.tb.sec, s.tb.ns, cell, consumer, q, []⟩, ?_, rfl, rfl⟩
  have hfull : (stackFailed die.stks 0 || decide (dlqEntries ≤ die.dlq.length)) = false := by
    rw [hf, Bool.false_or, decide_eq_false_iff_not, dlqEntries]
    omega
  rw [dlqAdd, hprov, if_neg Bool.false_ne_true, hd]
  dsimp only
  rw [hfull, if_neg Bool.false_ne_true, dlqOf, setEventAt_dies, bumpFldAt_dies, getElem?_modAt, if_pos rfl, hd]
  rfl

theorem DeadLetter.of_dies {s' t' : State} {reason : Nat} {q : Tile} (h : DeadLetter s t d reason q) (hs : s'.dies = s.dies) (ht : t'.dies = t.dies) :
    DeadLetter s' t' d reason q := by
  intro die hd hf hlen hprov
  rw [dlqOf_of_dies ht]
  exact h die (hs ▸ hd) hf hlen hprov

theorem dlqAdd_pl (s : State) (d reason cell : Nat) (consumer : List Byte) (q : Tile) : (dlqAdd s d reason cell consumer q).pl = s.pl := by
  unfold dlqAdd
  split
  · rfl
  · split
    · rfl
    · split
      · rw [report_pl, setEventAt_pl, satFldAt_pl]
      · rw [setEventAt_pl, bumpFldAt_pl]

/-! ### Leaving the module (R375) -/

/-- A tile for another module leaves the bundles; with no usable option it enters the dead-letter queue. -/
theorem sendTile_leaves {cell dest vc : Nat} (hv : postcodeValid s = true) (hd : dest ≠ postcode s) (np : Option Nat) (q : Tile) :
    ∃ t, sendTile s d cell dest vc np q = some t ∧ t.pl = s.pl ∧ (route s dest vc np none = none → DeadLetter s t d C.dlqNoRoute q) := by
  unfold sendTile
  rw [hv, if_neg (by decide), if_neg hd]
  split
  · rename_i o ho
    have hfab : FabricOnly s (queueFrom np (countAlt s o 1) o.2 vc (tileFlits vc dest q)) := by
      refine FabricOnly.queueFrom ?_ _ _ _ _
      unfold countAlt
      split
      · exact .refl s
      · exact (FabricOnly.refl s).bumpEv _ _ _
    refine ⟨_, rfl, hfab.pl, fun hn => ?_⟩
    rw [ho] at hn
    cases hn
  · exact ⟨_, rfl, dlqAdd_pl _ _ _ _ _ _, fun _ => dlqAdd_adds _ _ _ _ _ _⟩

/-! ### A tile that the host sends (R43, R44) -/

theorem trimmedTile_scale (q : Tile) : (trimmedTile q).scale = q.scale := by
  unfold trimmedTile
  dsimp only
  split <;> rfl

/-- Beyond its format's content a tile's payload is set to zero. -/
theorem trimmedTile_payload {q : Tile} (h : q.payload.length = 4096) :
    (trimmedTile q).payload.take (tileContent q) = q.payload.take (tileContent q) ∧ ∀ x ∈ (trimmedTile q).payload.drop (tileContent q), x = 0#8 := by
  unfold trimmedTile
  dsimp only
  split
  · rename_i hz
    exact ⟨rfl, fun x hx => by simpa using List.all_eq_true.1 hz x hx⟩
  · rename_i hz
    have hn : tileContent q < 4096 := by
      refine Nat.lt_of_not_le fun hle => hz ?_
      rw [List.drop_eq_nil_of_le (by omega)]
      rfl
    have hlen : (q.payload.take (tileContent q)).length = tileContent q := by rw [List.length_take]; omega
    have hpad : padTo 4096 (q.payload.take (tileContent q)) = q.payload.take (tileContent q) ++ List.replicate (4096 - tileContent q) 0#8 := by
      rw [padTo, hlen, List.take_of_length_le]
      rw [List.length_append, hlen, List.length_replicate]
      omega
    dsimp only
    rw [hpad]
    constructor
    · rw [List.take_append_of_le_length hlen.ge, List.take_of_length_le hlen.le]
    · rw [List.drop_append_of_le_length hlen.ge, List.drop_of_length_le hlen.le, List.nil_append]
      exact fun x hx => List.eq_of_mem_replicate hx

/-- What a tile of the host becomes as it is admitted: `sent` the tile under way. -/
structure Admitted (s : State) (source : Nat) (seq : Word) (q sent : Tile) : Prop where
  content : q.payload.length = 4096 → sent.payload.take (tileContent q) = q.payload.take (tileContent q) ∧ ∀ x ∈ sent.payload.drop (tileContent q), x = 0#8
  scale : sent.scale = q.scale
  chk : sent.chk = []
  seq : sent.hdr.seq = seq
  frame : sent.hdr.frame = q.hdr.frame
  index : sent.hdr.index = q.hdr.index
  origin : sent.hdr.origin = originOf s source
  postmark : sent.hdr.postmark = postmarkNow s
  provisional : sent.hdr.flag flagProvisional = false
  resend : sent.hdr.flag flagResend = false
  poison : sent.hdr.flag flagPoison = false

theorem admitTile_admitted (s : State) (r : StreamRec) (source : Nat) (seq : Word) (q : Tile) : Admitted s source seq q (admitTile s r source seq q) where
  content h := trimmedTile_payload h
  scale := trimmedTile_scale q
  chk := rfl
  seq := rfl
  frame := (congrArg TileHeader.frame (trimmedTile_hdr q) :)
  index := (congrArg TileHeader.index (trimmedTile_hdr q) :)
  origin := rfl
  postmark := rfl
  provisional := by
    refine (flag_setFlag _ (k := flagPoison) (j := flagProvisional) (by decide) false).trans ?_
    rw [if_neg (by decide), postHeader_flag]
    rfl
  resend := by
    refine (flag_setFlag _ (k := flagPoison) (j := flagResend) (by decide) false).trans ?_
    rw [if_neg (by decide), postHeader_flag]
    rfl
  poison := (flag_setFlag _ (k := flagPoison) (j := flagPoison) (by decide) false).trans (if_pos rfl)

theorem frameStarted_streams (s : State) (number start : Nat) (b : Bundle) : (frameStarted s number start b).streams = b.streams := by
  unfold frameStarted
  dsimp only
  split <;> rfl

end Sys2Proof.Machine
end

section
/-!
PROOF. Tiles between stations, modules and the host (R51 to R58, R62, R63, R375, R461).
-/
namespace Sys2Proof.Machine
open Sys2Proof

variable {s t u : State} {slot si ci link vc : Nat} {v : StreamAt}

/-! ### Hops (R52) -/

theorem exec_lastHop {f : Flight} {c : ConsumerRec} {e : ConsEnd} {hop : HopInfo} (hv : streamAt s slot si = some v) (hf : oldestFor v.x ci = some f)
    (hc : v.r.cons[ci]? = some c) (he : v.x.ends[ci]? = some e) (ho : hopOpen s hop = true) (hm : mayCross v.r c hop.link = true) (hs : c.station ≠ 0xFFFE) :
    exec (.tileHop slot si ci true hop) s = done (deliver (hopCounts s hop) v ci c e (hopTile hop f.tile)) := by
  refine congrArg done ?_
  rw [hv]
  dsimp only
  rw [hf, hc, he]
  dsimp only
  rw [ho, hm, if_neg (by decide), if_pos rfl, if_neg hs]

theorem exec_midHop {f : Flight} {c : ConsumerRec} {e : ConsEnd} {hop : HopInfo} (hv : streamAt s slot si = some v) (hf : oldestFor v.x ci = some f)
    (hc : v.r.cons[ci]? = some c) (he : v.x.ends[ci]? = some e) (ho : hopOpen s hop = true) (hm : mayCross v.r c hop.link = true) (hs : hop.fails < 4) :
    exec (.tileHop slot si ci false hop) s = done (hopCounts s hop) := by
  refine congrArg done ?_
  rw [hv]
  dsimp only
  rw [hf, hc, he]
  dsimp only
  rw [ho, hm, if_neg (by decide), if_neg Bool.false_ne_true, hopTile_of_lt hs, if_pos rfl]

theorem hopCounts_pl (s : State) (h : HopInfo) : (hopCounts s h).pl = s.pl := by
  obtain ⟨c, p, k, hu⟩ := hopCounts_frame s h
  rw [hu]

theorem hopCounts_out (s : State) (h : HopInfo) : (hopCounts s h).out = s.out := by
  obtain ⟨c, p, k, hu⟩ := hopCounts_frame s h
  rw [hu]

theorem hopCounts_dies (s : State) (h : HopInfo) : (hopCounts s h).dies = s.dies := by
  obtain ⟨c, p, k, hu⟩ := hopCounts_frame s h
  rw [hu]

theorem hopCounts_active (s : State) (h : HopInfo) : (hopCounts s h).active = s.active := by
  obtain ⟨c, p, k, hu⟩ := hopCounts_frame s h
  rw [hu]

theorem postcode_hopCounts (s : State) (h : HopInfo) : postcode (hopCounts s h) = postcode s ∧ postcodeValid (hopCounts s h) = postcodeValid s := by
  obtain ⟨c, p, k, hu⟩ := hopCounts_frame s h
  rw [hu]
  exact ⟨rfl, rfl⟩

theorem route_hopCounts (s : State) (h : HopInfo) (dest vc : Nat) (np skip : Option Nat) : route (hopCounts s h) dest vc np skip = route s dest vc np skip := by
  obtain ⟨c, p, k, hu⟩ := hopCounts_frame s h
  rw [hu]
  rfl

/-- A stream whose oldest tile a consumer takes. -/
def Stream.taken (ci : Nat) (x : Stream) : Stream := { x with flight := takeFlight ci x.flight }

theorem deliver_station {c : ConsumerRec} {e : ConsEnd} {st : Station} (hs : c.station ≠ 0xFFFF) (hst : v.b.stations[c.station]? = some st) (q : Tile) :
    deliver s v ci c e q = if hasRoom c e && !e.broken && !(st.relocating && st.run != .running) && st.cell.isSome then
      modStream (enqueue s v.slot v.si ci q) v.slot v.si (Stream.taken ci) else s := by
  rw [deliver, if_neg hs, hst]
  rfl

theorem deliver_host {c : ConsumerRec} {e : ConsEnd} (hs : c.station = 0xFFFF) (hk : v.r.kind = 4) (hr : 0 < v.x.receives) (ha : s.active.isSome = true) (q : Tile) :
    deliver s v ci c e q = modStream (emit (modStream s v.slot v.si fun x => { x with receives := x.receives - 1 }) (.toHost (BitVec.ofNat 32 v.r.id) q))
      v.slot v.si (Stream.taken ci) := by
  rw [deliver, if_pos hs, if_pos hk, if_pos ⟨hr, ha⟩]
  rfl

/-- The cell of a stream's producer, 0xFFFF where it is no station here. -/
def producerCell (v : StreamAt) : Nat := match v.b.stations[v.r.producer]? with | some st => cellNo st | none => 0xFFFF

theorem deliver_remote {c : ConsumerRec} {e : ConsEnd} (hs : c.station = 0xFFFF) (h4 : v.r.kind ≠ 4) (h5 : v.r.kind ≠ 5) {q : Tile} {u : State}
    (hu : sendTile s (dieOf (producerCell v)) (producerCell v) v.r.remote v.r.vc none q = some u) :
    deliver s v ci c e q = modStream u v.slot v.si (Stream.taken ci) := by
  rw [deliver, if_pos hs, if_neg h4, if_neg h5, if_neg h5]
  change (match sendTile s (dieOf (producerCell v)) (producerCell v) v.r.remote v.r.vc none q with
    | some s1 => modStream s1 v.slot v.si (Stream.taken ci)
    | none => s) = _
  rw [hu]

/-! ### Arrivals (R55, R62, R63) -/

/-- The tile has left the receive buffer of its link. -/
def Popped (t : State) (link : Nat) (l : Link) (a : Arrival) : Prop := ∃ l', linkOf t link = some l' ∧ l'.inbox = l.inbox.erase a

theorem popped_of_still {l : Link} (hl : linkOf s link = some l) {a : Arrival} (h : LinksStill (popArrival s link a) t) : Popped t link l a := by
  obtain ⟨l1, hl1, hin⟩ := linkOf_popArrival hl a
  obtain ⟨m, hm, hs⟩ := h.get hl1
  exact ⟨m, hm, ((congrArg Link.inbox hs :) : m.inbox = l1.inbox).trans hin⟩

theorem popArrival_frame (s : State) (link : Nat) (a : Arrival) : ∃ l, popArrival s link a = { s with fab := { s.fab with links := l } } := by
  unfold popArrival modLink
  split
  · exact ⟨_, rfl⟩
  · exact ⟨s.fab.links, rfl⟩

theorem popArrival_dies (s : State) (link : Nat) (a : Arrival) : (popArrival s link a).dies = s.dies := by
  obtain ⟨l, h⟩ := popArrival_frame s link a
  rw [h]

theorem popArrival_remembered (s : State) (link : Nat) (a : Arrival) : (popArrival s link a).remembered = s.remembered := by
  obtain ⟨l, h⟩ := popArrival_frame s link a
  rw [h]

theorem postcode_popArrival (s : State) (link : Nat) (a : Arrival) : postcode (popArrival s link a) = postcode s ∧
    postcodeValid (popArrival s link a) = postcodeValid s := by
  obtain ⟨l, h⟩ := popArrival_frame s link a
  rw [h]
  exact ⟨rfl, rfl⟩

theorem reorderUsed_popArrival (s : State) (link : Nat) (a : Arrival) (d : Nat) : reorderUsed (popArrival s link a) d = reorderUsed s d := by
  obtain ⟨l, h⟩ := popArrival_frame s link a
  rw [h]
  rfl

/-- A tile that no stream here takes enters the dead-letter queue of the port's die. -/
theorem lostStream_dead (s : State) (port d : Nat) (q : Tile) {names : List Remembered} (hn : s.remembered[portEngine port]? = some names) :
    ((∀ r ∈ names, r.id ≠ q.hdr.streamId.toNat) → DeadLetter s (lostStream s port d q) d C.dlqUnknownStream q) ∧
    ((∃ r ∈ names, r.id = q.hdr.streamId.toNat) → DeadLetter s (lostStream s port d q) d C.dlqNoConsumer q) := by
  unfold lostStream
  rw [hn, Option.getD_some]
  constructor
  · intro h
    rw [List.find?_eq_none.2 fun r hr => by simpa using h r hr]
    exact dlqAdd_adds _ _ _ _ _ _
  · rintro ⟨r, hr, hid⟩
    obtain ⟨r', hr'⟩ := Option.isSome_iff_exists.1 (List.find?_isSome.2 ⟨r, hr, by simpa using hid⟩ : (names.find? fun r => r.id == q.hdr.streamId.toNat).isSome = true)
    rw [hr']
    exact dlqAdd_adds _ _ _ _ _ _

theorem lostStream_still (s : State) (port d : Nat) (q : Tile) : LinksStill s (lostStream s port d q) := by
  unfold lostStream
  split
  · exact .dlqAdd _ _ _ _ _ _
  · exact .dlqAdd _ _ _ _ _ _

theorem exec_arrival {l : Link} {a : Arrival} (hl : linkOf s link = some l) (ha : l.inbox.find? (fun a => a.vc == vc) = some a) :
    exec (.remoteTileArrival link vc) s = done (
      if a.dest ≠ postcode s then
        match sendTile (popArrival s link a) (engineDie (portEngine (link / 16))) 0xFFFF a.dest vc (some (link / 16)) a.tile with
        | some s1 => if (route (popArrival s link a) a.dest vc (some (link / 16)) none).isSome then portEvent s1 (link / 16) Ev.fwdTiles 1 else s1
        | none => s
      else match streamById s a.tile.hdr.streamId.toNat (fun _ => true) with
        | some v =>
          if v.r.kind = 3 then s
          else if fromRemote v.r || fromStorage v.r then
            if v.b.st = .evicted then dlqAdd (popArrival s link a) (engineDie (portEngine (link / 16))) C.dlqNoConsumer 0xFFFF
              (consumerName v.b (v.r.cons.headD ⟨0, 0, 0⟩)) a.tile
            else match orderTile (popArrival s link a) v (if fromStorage v.r then admitTile s v.r 0xFFE a.tile.hdr.seq a.tile else a.tile) with
              | some s1 => s1
              | none => s
          else lostStream (popArrival s link a) (link / 16) (engineDie (portEngine (link / 16))) a.tile
        | none => lostStream (popArrival s link a) (link / 16) (engineDie (portEngine (link / 16))) a.tile) := by
  have hfind : (linkOf s link).bind (fun l => l.inbox.find? (fun a => a.vc == vc)) = some a := by rw [hl, Option.bind_some, ha]
  refine congrArg done ?_
  rw [hfind] <;> rfl

/-- A tile for a stream from another module is put in order. -/
theorem exec_arrival_ordered {l : Link} {a : Arrival} (hl : linkOf s link = some l) (ha : l.inbox.find? (fun a => a.vc == vc) = some a)
    (hd : a.dest = postcode s) (hv : streamById s a.tile.hdr.streamId.toNat (fun _ => true) = some v) (hr : fromRemote v.r = true) (h3 : v.r.kind ≠ 3)
    (h5 : v.r.kind ≠ 5) (he : v.b.st ≠ .evicted) :
    exec (.remoteTileArrival link vc) s = done ((orderTile (popArrival s link a) v a.tile).getD s) := by
  have hstore : fromStorage v.r = false := by simp [fromStorage, h5]
  rw [exec_arrival hl ha, if_neg (not_not.2 hd), hv]
  dsimp only
  rw [if_neg h3, hr, Bool.true_or, if_pos rfl, if_neg he, hstore, if_neg Bool.false_ne_true]
  refine congrArg done ?_
  split
  · rename_i s1 hs1
    rw [hs1, Option.getD_some]
  · rename_i hs1
    rw [hs1, Option.getD_none]

/-- A stream's ends and the tiles put under way as one is taken in order. -/
def Stream.ordered (x : Stream) (f : ConsEnd → ConsEnd) (fl : List Tile) : Stream :=
  { x with ends := x.ends.map f, flight := x.flight ++ fl.map (fun t => ⟨t, List.range x.ends.length⟩) }

variable {e : ConsEnd}

/-- The tile that is next, and those behind it. -/
theorem orderTile_next (he : v.x.ends[0]? = some e) (hb : e.broken = false) {q : Tile} (hq : q.hdr.seq = e.nextSeq) {out rest : List Tile} {m : Word}
    (hd : drainReorder e.reorder.length (q.hdr.seq + 1) e.reorder = (out, m, rest)) : orderTile s v q =
      some (modStream s v.slot v.si fun x => x.ordered (fun c => { c with nextSeq := m, reorder := rest }) (q :: out)) := by
  rw [orderTile, he]
  dsimp only
  rw [if_neg (by simp [hb, hq]), if_pos hq, hd]
  rfl

/-- One ahead of a missing tile. -/
theorem orderTile_ahead (he : v.x.ends[0]? = some e) (hb : e.broken = false) {q : Tile} (hq : q.hdr.seq ≠ e.nextSeq) (hl : laterThan q.hdr.seq e.nextSeq = true)
    (hn : ∀ u ∈ e.reorder, u.hdr.seq ≠ q.hdr.seq) : orderTile s v q = if 256 ≤ reorderUsed s (reorderDie v.b v.r) then none
      else some (modStream s v.slot v.si fun x => x.ordered (fun c => { c with reorder := c.reorder ++ [q] }) []) := by
  have hany : e.reorder.any (fun u => u.hdr.seq == q.hdr.seq) = false := by simpa using hn
  rw [orderTile, he]
  dsimp only
  rw [if_neg (by simp [hb, hl, hany]), if_neg hq]
  rfl

/-- A repeat. -/
theorem orderTile_repeat (he : v.x.ends[0]? = some e) {q : Tile} (hq : q.hdr.seq ≠ e.nextSeq)
    (hn : laterThan q.hdr.seq e.nextSeq = false ∨ ∃ u ∈ e.reorder, u.hdr.seq = q.hdr.seq) : orderTile s v q =
      some (modStream s v.slot v.si fun x => x.ordered (fun c => { c with discarded := (c.discarded + 1) % 2 ^ 32 }) []) := by
  rw [orderTile, he]
  dsimp only
  rw [if_pos (.inr ⟨hq, hn.imp_right fun ⟨u, hu, hseq⟩ => List.any_eq_true.2 ⟨u, hu, by simpa using hseq⟩⟩)]
  rfl

theorem Stream.ordered_end {x : Stream} (he : x.ends[0]? = some e) (f : ConsEnd → ConsEnd) (fl : List Tile) : (x.ordered f fl).ends[0]? = some (f e) := by
  rw [Stream.ordered, List.getElem?_map, he]
  rfl

/-! ### Gaps (R55) -/

/-- The ends of a stream broken by a gap. -/
def Stream.gapped (x : Stream) : Stream := { x with ends := x.ends.map fun c => { c with broken := true, reorder := [] } }

theorem exec_gap (hv : streamAt s slot si = some v) (he : v.x.ends[0]? = some e) (hr : e.reorder ≠ []) (hb : e.broken = false) :
    exec (.streamGapTimeout slot si) s = done (holdFor (report (modStream s slot si Stream.gapped) C.streamGap (srcActive (modStream s slot si Stream.gapped))
      (handleOf slot v.b) (d4 v.r.id ++ d4 e.nextSeq.toNat)) slot) := by
  refine congrArg done ?_
  rw [hv]
  dsimp only
  rw [he]
  dsimp only
  rw [if_neg (by simp [hr, hb])]
  rfl

/-- A running bundle held for a cause of its own keeps its streams. -/
theorem StreamHas.holdFor {b : Bundle} {y : Stream} (h : StreamHas s slot si b y) (hst : b.st = .running) :
    StreamHas (Machine.holdFor s slot) slot si (heldBundle b) y := by
  have hheld : Machine.holdFor s slot = holdBundle s slot := by
    rw [Machine.holdFor, h.bundle]
    exact if_pos (.inl hst)
  rw [hheld]
  refine ⟨slotBundle_holdBundle h.bundle, ?_⟩
  have hstreams : (heldBundle b).streams = b.streams := (congrArg Bundle.streams (holdAll_body b) :)
  rw [hstreams, h.stream]

/-! ### Tiles and receives of the host (R56, R461) -/

theorem exec_hostTileAdmit {h : Hub} {q : Tile} (ha : s.active = some h)
    (hv : streamById s q.hdr.streamId.toNat (fun r => r.kind == 4 && r.producer == 0xFFFF) = some v) (hq : v.x.qp.isSome = true) :
    exec (.hostTileAdmit q) s = done (
      if v.b.st = .evicting ∨ v.b.st = .evicted ∨ maxInflight v.r ≤ v.x.flight.length then emit s (.rnr q.hdr.streamId)
      else match headerFault v.r.format q.hdr with
        | some c => report (bumpEv (emit s (.sendAck q.hdr.streamId)) (evHub Ev.hostTileRefused h) noCtx 1) c (srcHub h) (handleOf v.slot v.b)
            (d4 v.r.id ++ d4 v.x.nextSeq.toNat ++ q.hdr.bytes)
        | none =>
          let t := admitTile s v.r 0xFFF v.x.nextSeq q
          let s2 := launch (modStream (emit s (.sendAck q.hdr.streamId)) v.slot v.si fun x => { x with nextSeq := x.nextSeq + 1 }) v.slot v.si t
          if v.b.img.limits.framePeriod ≠ 0 ∧ v.b.img.limits.frameStart = 5 ∧
              (match v.b.lastFrame with | some f => laterThan t.hdr.frame f | none => true) = true then
            frameStart (modBundle s2 v.slot fun b => { b with lastFrame := some t.hdr.frame }) v.slot t.hdr.frame.toNat (now s)
          else s2) := by
  refine congrArg done ?_
  rw [ha]
  dsimp only
  rw [hv]
  dsimp only
  rw [if_neg (by rw [← Option.not_isSome, hq]; decide)]
  rfl

/-- The tile under way behind those of its stream. -/
def Stream.admitted (x : Stream) (sent : Tile) : Stream :=
  { x with nextSeq := x.nextSeq + 1, flight := x.flight ++ [⟨sent, List.range x.ends.length⟩] }

/-- A frame that the tile starts, or not: the streams as they are, nothing more said. -/
theorem StreamHas.frames {b : Bundle} {y : Stream} (h : StreamHas s slot si b y) (p : Prop) [Decidable p] (f : Word) (number start : Nat) :
    ∃ b', StreamHas (if p then frameStart (Machine.modBundle s slot fun b => { b with lastFrame := some f }) slot number start else s) slot si b' y ∧
      (if p then frameStart (Machine.modBundle s slot fun b => { b with lastFrame := some f }) slot number start else s).out = s.out := by
  split
  · refine ⟨_, (h.modBundle (f := fun b => { b with lastFrame := some f }) rfl).modBundle (frameStarted_streams _ number start _), ?_⟩
    rw [frameStart_eq, modBundle_out, modBundle_out]
  · exact ⟨b, h, rfl⟩

theorem hostTileAdmit_admits {h : Hub} {q : Tile} (ha : s.active = some h)
    (hv : streamById s q.hdr.streamId.toNat (fun r => r.kind == 4 && r.producer == 0xFFFF) = some v) (hq : v.x.qp.isSome = true) (h1 : v.b.st ≠ .evicting)
    (h2 : v.b.st ≠ .evicted) (h3 : v.x.flight.length < maxInflight v.r) (hok : headerFault v.r.format q.hdr = none) :
    ∃ t b, exec (.hostTileAdmit q) s = .next t ∧ StreamHas t v.slot v.si b (v.x.admitted (admitTile s v.r 0xFFF v.x.nextSeq q)) ∧
      t.out = s.out ++ [.sendAck q.hdr.streamId] := by
  have hhas := (((StreamHas.of_streamAt (streamById_streamAt hv)).of_pl (t := emit s (.sendAck q.hdr.streamId)) rfl).modStream fun x =>
    { x with nextSeq := x.nextSeq + 1 }).modStream fun x =>
      { x with flight := x.flight ++ [⟨admitTile s v.r 0xFFF v.x.nextSeq q, List.range x.ends.length⟩] }
  rw [exec_hostTileAdmit ha hv hq, if_neg (by simp [h1, h2, h3]), hok]
  dsimp only
  obtain ⟨b', hb', hout⟩ := hhas.frames (v.b.img.limits.framePeriod ≠ 0 ∧ v.b.img.limits.frameStart = 5 ∧
    (match v.b.lastFrame with | some f => laterThan (admitTile s v.r 0xFFF v.x.nextSeq q).hdr.frame f | none => true) = true)
    (admitTile s v.r 0xFFF v.x.nextSeq q).hdr.frame (admitTile s v.r 0xFFF v.x.nextSeq q).hdr.frame.toNat (now s)
  refine ⟨_, b', rfl, hb', hout.trans ?_⟩
  rw [modStream_out, modStream_out, emit]

end Sys2Proof.Machine

namespace Sys2Proof.Proofs
open Sys2Proof Sys2Proof.Machine

/-- Settles O40: hops into an end, to the host and to another module; arrivals in order, ahead, repeated, forwarded or lost; a gap; tiles and receives of the host. -/
theorem tilesTravelInOrder : Obligations.TilesTravelInOrder := by
  unfold Obligations.TilesTravelInOrder
  intro after dead
  have stands {c : Instr} {s t : State} {slot si : Nat} {b : Bundle} {y : Stream} {P : State → Bundle → Stream → Prop} (hexec : exec c s = .next t)
      (hhas : StreamHas t slot si b y) (hP : P t b y) : after c s slot si P := ⟨t, b, y, hexec, hhas.bundle, hhas.stream, hP⟩
  refine ⟨fun s slot si ci hop v f c e hv hf hc he ho hm => ⟨fun st hst hlt hcell => ⟨fun hroom hbroken hreloc => ?enters, fun hroom => ?full⟩,
      fun h16 h4 hrec hact => ?host, fun h16 h4 h5 hvalid hrem => ?remote, fun hlt => ?mid⟩,
    fun s link vc l a hl ha => ?_, fun s slot si v e hv he hne hb hst => ?gap, fun s h tile v ha hv hq => ⟨fun hn => ?rnr, fun h1 h2 h3 => ⟨fun hok => ?admits, fun c hbad => ?refuses⟩⟩,
    fun s h id n v ha hv hq => ?posts⟩
  case enters =>
    obtain ⟨rfl, rfl, -, -, -⟩ := streamAt_parts hv
    have hmove : (!(st.relocating && st.run != .running)) = true := by
      rcases hreloc with h | h <;> simp [h]
    have hhas := ((StreamHas.of_streamAt hv).of_pl (hopCounts_pl s hop)).modStream fun x =>
      { x with ends := modAt x.ends ci fun e => { e with queue := e.queue ++ [⟨hopTile hop f.tile, none⟩] } }
    refine stands ((exec_lastHop hv hf hc he ho hm (by omega)).trans (congrArg done ?_)) (hhas.modStream (Stream.taken ci))
      ⟨rfl, rfl, { e with queue := e.queue ++ [⟨hopTile hop f.tile, none⟩] }, ?_, rfl⟩
    · rw [deliver_station (by omega) hst, hroom, hbroken, hmove, hcell]
      rfl
    · exact (getElem?_modAt _ _ _ _).trans (by rw [if_pos rfl, he]; rfl)
  case full =>
    refine stands ((exec_lastHop hv hf hc he ho hm (by omega)).trans (congrArg done ?_)) ((StreamHas.of_streamAt hv).of_pl (hopCounts_pl s hop)) ⟨rfl, rfl⟩
    rw [deliver_station (by omega) hst, hroom, Bool.false_and, Bool.false_and, Bool.false_and, if_neg Bool.false_ne_true]
  case host =>
    obtain ⟨rfl, rfl, -, -, -⟩ := streamAt_parts hv
    have hhas := ((StreamHas.of_streamAt hv).of_pl (hopCounts_pl s hop)).modStream fun x => { x with receives := x.receives - 1 }
    have hsent := hhas.of_pl (t := emit (modStream (hopCounts s hop) v.slot v.si fun x => { x with receives := x.receives - 1 })
      (.toHost (BitVec.ofNat 32 v.r.id) (hopTile hop f.tile))) rfl
    refine stands ((exec_lastHop hv hf hc he ho hm (by omega)).trans (congrArg done (deliver_host h16 h4 hrec (by rwa [hopCounts_active]) _)))
      (hsent.modStream (Stream.taken ci)) ⟨?_, rfl, rfl⟩
    rw [modStream_out, emit, modStream_out, hopCounts_out]
  case remote =>
    obtain ⟨rfl, rfl, -, -, -⟩ := streamAt_parts hv
    obtain ⟨hpc, hpv⟩ := postcode_hopCounts s hop
    obtain ⟨u, hu, hpl, hdead⟩ := sendTile_leaves (d := dieOf (producerCell v)) (cell := producerCell v) (vc := v.r.vc) (hpv.trans hvalid) (hpc.symm ▸ hrem) none
      (hopTile hop f.tile)
    refine stands ((exec_lastHop hv hf hc he ho hm (by omega)).trans (congrArg done (deliver_remote h16 h4 h5 hu)))
      (((StreamHas.of_streamAt hv).of_pl (hpl.trans (hopCounts_pl s hop))).modStream (Stream.taken ci)) ⟨rfl, fun hroute st hst => ?_⟩
    rw [← route_hopCounts s hop] at hroute
    have hcell : producerCell v = cellNo st := by rw [producerCell, hst]
    exact hcell ▸ (hdead hroute).of_dies (hopCounts_dies s hop).symm (modStream_dies _ _ _ _)
  case mid => exact stands (exec_midHop hv hf hc he ho hm hlt) ((StreamHas.of_streamAt hv).of_pl (hopCounts_pl s hop)) ⟨rfl, rfl⟩
  case gap =>
    obtain ⟨rfl, rfl, -, -, -⟩ := streamAt_parts hv
    have hhas := ((StreamHas.of_streamAt hv).modStream Stream.gapped).of_pl (report_pl (modStream s v.slot v.si Stream.gapped) C.streamGap
      (srcActive (modStream s v.slot v.si Stream.gapped)) (handleOf v.slot v.b) (d4 v.r.id ++ d4 e.nextSeq.toNat))
    refine stands (exec_gap hv he hne hb) (hhas.holdFor hst) ⟨rfl, { e with broken := true, reorder := [] }, ?_, rfl, rfl⟩
    rw [Stream.gapped, List.getElem?_map, he]
    rfl
  case rnr => exact (exec_hostTileAdmit ha hv hq).trans (congrArg done (if_pos hn))
  case admits =>
    obtain ⟨t, b, hexec, hhas, hout⟩ := hostTileAdmit_admits ha hv hq h1 h2 h3 hok
    have hsent := admitTile_admitted s v.r 0xFFF v.x.nextSeq tile
    refine ⟨admitTile s v.r 0xFFF v.x.nextSeq tile, stands hexec hhas ⟨rfl, rfl, hout⟩, hsent.content, hsent.scale, hsent.chk, hsent.seq, hsent.frame, hsent.index,
      hsent.origin, ?_, hsent.provisional, hsent.resend, hsent.poison⟩
    rw [hsent.postmark, postmarkNow, BitVec.toNat_ofNat, Nat.mod_mod]
  case refuses =>
    refine ⟨bumpEv (emit s (.sendAck tile.hdr.streamId)) (evHub Ev.hostTileRefused h) noCtx 1, ?_, bumpEv_pl _ _ _ _⟩
    rw [exec_hostTileAdmit ha hv hq, if_neg (by simp [h1, h2, h3]), hbad]
    rfl
  case posts =>
    have hexec : exec (.hostReceivePosted id n) s = done (modStream s v.slot v.si fun x => { x with receives := x.receives + n }) := by
      refine congrArg done ?_
      rw [hv]
      dsimp only
      exact if_neg (by simp [← Option.not_isSome, hq, ha])
    exact stands hexec ((StreamHas.of_streamAt (streamById_streamAt hv)).modStream _) rfl
  intro popped
  refine ⟨fun hdest hvalid => ?forwards, fun hdest hnone => ?lost, fun v e hdest hv hr h3 h5 hev he hb => ?_⟩
  case forwards =>
    obtain ⟨hpc, hpv⟩ := postcode_popArrival s link a
    obtain ⟨u, hu, -, -⟩ := sendTile_leaves (s := popArrival s link a) (d := engineDie (portEngine (link / 16))) (cell := 0xFFFF) (vc := vc) (hpv.trans hvalid)
      (hpc.symm ▸ hdest) (some (link / 16)) a.tile
    have hstill : LinksStill (popArrival s link a) u := .sendTile hu
    rw [exec_arrival hl ha, if_pos hdest, hu]
    dsimp only
    split
    · exact ⟨_, rfl, popped_of_still hl (hstill.trans (.bumpEv _ _ _ _))⟩
    · exact ⟨_, rfl, popped_of_still hl hstill⟩
  case lost =>
    rw [exec_arrival hl ha, if_neg (not_not.2 hdest), hnone]
    refine ⟨_, rfl, popped_of_still hl (lostStream_still _ _ _ _), fun names hnames => ?_⟩
    have hport : portEngine (link / 16) = link / 128 := by
      rw [portEngine]
      omega
    obtain ⟨hun, hno⟩ := lostStream_dead (popArrival s link a) (link / 16) (engineDie (portEngine (link / 16))) a.tile
      (names := names) (by rw [popArrival_remembered, hport, hnames])
    rw [hport] at hun hno
    rw [hport]
    exact ⟨fun h => (hun h).of_dies (popArrival_dies s link a).symm rfl, fun h => (hno h).of_dies (popArrival_dies s link a).symm rfl⟩
  intro got room seq
  have ordered {f : ConsEnd → ConsEnd} {fl : List Tile} {P : Stream → Prop}
      (ho : orderTile (popArrival s link a) v a.tile = some (modStream (popArrival s link a) v.slot v.si fun x => x.ordered f fl)) (hP : P (v.x.ordered f fl)) :
      got P := by
    have hhas := ((StreamHas.of_streamAt (streamById_streamAt hv)).of_pl (popArrival_fabricOnly s link a).pl).modStream fun x => x.ordered f fl
    refine stands ((exec_arrival_ordered hl ha hdest hv hr h3 h5 hev).trans (congrArg done ?_)) hhas ⟨hP, popped_of_still hl (.modBundle _ _ _)⟩
    rw [ho, Option.getD_some]
  refine ⟨fun out m rest hseq hd => ?next, fun hseq hlater hn => ⟨fun hroom => ?ahead, fun hroom => ?full⟩, fun hseq hn => ?again⟩
  case next => exact ordered (orderTile_next he hb hseq hd) ⟨rfl, _, Stream.ordered_end he _ _, rfl, rfl⟩
  case ahead =>
    refine ordered ((orderTile_ahead he hb hseq hlater hn).trans (if_neg ?_)) ⟨?_, _, Stream.ordered_end he _ _, rfl, rfl⟩
    · rw [reorderUsed_popArrival]
      exact Nat.not_le.2 hroom
    · exact List.append_nil _
  case full =>
    refine (exec_arrival_ordered hl ha hdest hv hr h3 h5 hev).trans (congrArg done ?_)
    rw [orderTile_ahead he hb hseq hlater hn, if_pos (by rw [reorderUsed_popArrival]; exact Nat.not_lt.1 hroom), Option.getD_none]
  case again => exact ordered (orderTile_repeat he hseq hn) ⟨List.append_nil _, _, Stream.ordered_end he _ _, rfl, rfl, rfl⟩

end Sys2Proof.Proofs
end

section
/-!
SUPPORT. The queue of loads, and what the end of a bundle, its start and its moves leave of it and of the other slots (R78 to R81, R96, R98, R102).
-/
namespace Sys2Proof.Machine
open Sys2Proof

variable {s t u : State} {k : Nat} {b : Bundle}

/-! ### The queue of loads -/

/-- From `s` to `t` no load was queued, begun or ended. -/
structure LoadsKept (s t : State) : Prop where
  queue : t.pl.queue = s.pl.queue
  ready : t.pl.ready = s.pl.ready
  busy : t.pl.busy = s.pl.busy

namespace LoadsKept

theorem of_pl (h : t.pl = s.pl) : LoadsKept s t := ⟨by rw [h], by rw [h], by rw [h]⟩
theorem refl (s : State) : LoadsKept s s := of_pl rfl
theorem trans (h : LoadsKept s t) (k : LoadsKept t u) : LoadsKept s u := ⟨k.queue.trans h.queue, k.ready.trans h.ready, k.busy.trans h.busy⟩

theorem ite {p : Prop} [Decidable p] (h : LoadsKept s t) (k : LoadsKept s u) : LoadsKept s (if p then t else u) := by
  split
  · exact h
  · exact k

theorem foldl {α : Type} (f : State → α → State) (hf : ∀ s a, LoadsKept s (f s a)) (l : List α) (s : State) : LoadsKept s (l.foldl f s) :=
  List.foldlRecOn _ _ (refl s) fun _ h a _ => h.trans (hf _ a)

theorem of_steps (h : StepWork s t) : LoadsKept s t :=
  ⟨(congrArg (fun x : State => x.pl.queue) h.beside :), (congrArg (fun x : State => x.pl.ready) h.beside :), (congrArg (fun x : State => x.pl.busy) h.beside :)⟩
theorem of_bundles (h : BundleWork s t) : LoadsKept s t := of_steps h.stepWork

theorem setSlot (s : State) (n : Nat) (b : Bundle) : LoadsKept s (setSlot s n b) := ⟨rfl, rfl, rfl⟩
theorem modBundle (s : State) (n : Nat) (f : Bundle → Bundle) : LoadsKept s (modBundle s n f) := of_bundles (.modBundle s n f)
theorem modStation (s : State) (n i : Nat) (f : Station → Station) : LoadsKept s (modStation s n i f) := modBundle s n _
theorem report (s : State) (code src handle : Nat) (d : List Byte) : LoadsKept s (report s code src handle d) := of_bundles (.report s _ _ _ _)
theorem setEvent (s : State) (f : Fld) : LoadsKept s (setEvent s f) := of_pl (setEvent_pl s f)
theorem mapGen (s : State) : LoadsKept s (mapGen s) := of_pl (bumpFldAt_pl _ _ _ _ _ _)
theorem settle (s before : State) : LoadsKept s (settle s before) := of_pl rfl

/-! ### Stations that move (R99, R102) -/

theorem softRetire (s : State) (cell : Nat) : LoadsKept s (softRetire s cell) := by
  have h1 : LoadsKept s (keptChanged (Machine.setEvent { s with pl := { s.pl with retired := SMap.insert s.pl.retired cell .soft } } F.bndEventRetired)) := ⟨rfl, rfl, rfl⟩
  unfold Machine.softRetire
  refine ite (refl s) ?_
  dsimp only
  split
  · exact ite h1 (h1.trans (modStation _ _ _ _))
  · exact h1

theorem softCause (s : State) (cell : Nat) : LoadsKept s (softCause s cell) := ite (refl s) (ite (softRetire s cell) (report s _ _ _ _))

theorem scratchFound (s : State) (cell : Nat) (c : EvCtx) (ce ue : Nat) : LoadsKept s (scratchFound s cell c ce ue) := by
  obtain ⟨m, hm⟩ := scratchFound_eq s cell c ce ue
  have h1 : LoadsKept s (wordsFound s cell c ce ue) := of_pl (wordsFound_pl s cell c ce ue)
  have h2 : LoadsKept s (withWindow (wordsFound s cell c ce ue) m) := h1.trans ⟨rfl, rfl, rfl⟩
  rw [hm]
  exact ite (h2.trans (softCause _ _)) h2

theorem scrubStation (s : State) (slot idx : Nat) : LoadsKept s (scrubStation s slot idx) := by
  unfold Machine.scrubStation
  split
  · exact refl s
  · exact (modBundle s slot _).trans (scratchFound _ _ _ _ _)

theorem relocate (s : State) (slot idx : Nat) : LoadsKept s (relocate s slot idx) := by
  unfold Machine.relocate
  split
  · exact refl s
  · split
    · exact refl s
    · dsimp only
      split
      · exact (report s _ _ _ _).trans (of_bundles (.holdFor _ _))
      · exact ((((scrubStation s _ _).trans (modStation _ _ _ _)).trans (setEvent _ _)).trans (mapGen _)).trans ((report _ _ _ _ _).trans (settle _ _))

theorem relocateAll (s : State) (slot : Nat) : LoadsKept s (relocateAll s slot) := by
  unfold Machine.relocateAll
  split
  · exact refl s
  · refine ite (refl s) (foldl _ (fun s i => ?_) _ s)
    split
    · exact ite (relocate s slot i) (refl s)
    · exact refl s

theorem releaseDrain (s : State) (slot : Nat) : LoadsKept s (releaseDrain s slot) := by
  unfold Machine.releaseDrain
  split
  · exact refl s
  · refine ite (refl s) ?_
    dsimp only
    exact (ite (setSlot s _ _) ((setSlot s _ _).trans (of_bundles (.holdBundle _ _)))).trans (relocateAll _ _)

end LoadsKept

/-! ### One slot's work -/

/-- From `s` to `t` the bundle of slot `k` has changed, or gone: no other slot, and no load was queued, begun or ended. -/
structure SlotWork (k : Nat) (s t : State) : Prop where
  loads : LoadsKept s t
  others : ∀ j, j ≠ k → slotBundle t j = slotBundle s j

namespace SlotWork

theorem of_pl (h : t.pl = s.pl) : SlotWork k s t := ⟨.of_pl h, fun j _ => slotBundle_of_pl h j⟩
theorem refl (k : Nat) (s : State) : SlotWork k s s := of_pl rfl
theorem trans (h : SlotWork k s t) (w : SlotWork k t u) : SlotWork k s u := ⟨h.loads.trans w.loads, fun j hj => (w.others j hj).trans (h.others j hj)⟩

theorem ite {p : Prop} [Decidable p] (h : SlotWork k s t) (w : SlotWork k s u) : SlotWork k s (if p then t else u) := by
  split
  · exact h
  · exact w

theorem foldl {α : Type} (f : State → α → State) (hf : ∀ s a, SlotWork k s (f s a)) (l : List α) (s : State) : SlotWork k s (l.foldl f s) :=
  List.foldlRecOn _ _ (refl k s) fun _ h a _ => h.trans (hf _ a)

theorem setSlot (s : State) (b : Bundle) : SlotWork k s (setSlot s k b) := ⟨.setSlot s k b, fun _ hj => slotBundle_setSlot_other s hj b⟩
theorem modBundle (s : State) (f : Bundle → Bundle) : SlotWork k s (modBundle s k f) := ⟨.modBundle s k f, fun _ hj => slotBundle_modBundle_other s hj f⟩
theorem clearSlot (s : State) : SlotWork k s (clearSlot s k) := ⟨⟨rfl, rfl, rfl⟩, fun _ hj => SMap.find_erase_ne _ hj⟩
theorem setEvent (s : State) (f : Fld) : SlotWork k s (setEvent s f) := of_pl (setEvent_pl s f)
theorem settle (s before : State) : SlotWork k s (settle s before) := of_pl rfl
theorem mapGen (s : State) : SlotWork k s (mapGen s) := of_pl (bumpFldAt_pl _ _ _ _ _ _)

theorem answer (s : State) (tally : Nat) (src : TallySrc) (status : Nat) : SlotWork k s (answer s k tally src status) := by
  cases src with
  | station i => exact modBundle s _
  | remote pc tag _ _ => exact of_pl (sendMsg_fabricOnly s _ _ _).pl

theorem orphanTally (s : State) (i : Nat) : SlotWork k s (orphanTally s k i) := by
  unfold Machine.orphanTally
  split
  · exact refl k s
  · refine ite (refl k s) ?_
    extract_lets s1 s2
    have h1 : SlotWork k s s1 := foldl _ (fun s (w : Waiter) => answer s i w.src C.ownerLost) _ s
    have h2 : SlotWork k s s2 := h1.trans (ite (refl k s1) (modBundle s1 _))
    exact (h2.trans (modBundle s2 _)).trans (setEvent _ _)

theorem orphanHomed (s : State) : SlotWork k s (orphanHomed s k) := by
  unfold Machine.orphanHomed
  split
  · exact refl k s
  · refine foldl _ (fun s i => ?_) _ s
    split
    · exact ite (orphanTally s i) (refl k s)
    · exact refl k s

theorem stallAll (s : State) : SlotWork k s (stallAll s k) := of_pl ((FabricOnly.refl s).stallAll k).pl

end SlotWork

/-! ### A bundle that leaves (R62, R63, R81, R93) -/

theorem sendTile_pl (s : State) (d cell dest vc : Nat) (p : Option Nat) (x : Tile) : ((sendTile s d cell dest vc p x).getD s).pl = s.pl := by
  unfold sendTile
  split
  · rfl
  · split
    · exact dlqAdd_pl _ _ _ _ _ _
    · split
      · exact ((FabricOnly.queueFrom (s := s) (t := countAlt s _ 1) (by unfold countAlt; split; exacts [.refl s, (FabricOnly.refl s).bumpEv _ _ _]) _ _ _ _).pl)
      · exact dlqAdd_pl _ _ _ _ _ _

theorem foldl_pl {α : Type} (f : State → α → State) (hf : ∀ s a, (f s a).pl = s.pl) (l : List α) (s : State) : (l.foldl f s).pl = s.pl :=
  List.foldlRecOn (motive := fun t : State => t.pl = s.pl) _ _ rfl fun t h a _ => (hf t a).trans h

theorem endFlights_pl (s : State) (b : Bundle) : (endFlights s b).pl = s.pl := by
  unfold endFlights
  refine foldl_pl _ (fun s p => ?_) _ s
  split
  · rfl
  refine foldl_pl _ (fun s f => foldl_pl _ (fun s ci => ?_) _ s) _ s
  split
  · rfl
  split
  · rfl
  split
  · exact sendTile_pl _ _ _ _ _ _ _
  · exact dlqAdd_pl _ _ _ _ _ _

theorem endReorder_pl (s : State) (b : Bundle) : (endReorder s b).pl = s.pl := by
  unfold endReorder
  exact foldl_pl _ (fun s _ => foldl_pl _ (fun s _ => foldl_pl _ (fun s _ => dlqAdd_pl s _ _ _ _ _) _ s) _ s) _ s

theorem wipeRuns_pl (s : State) (l : List Placed) : (wipeRuns s l).pl = s.pl :=
  foldl_pl (fun s (p : Placed) => modStack s p.stack fun k => { k with mem := k.mem.wipe p.off p.len }) (fun _ _ => rfl) l s

/-- A bundle has left: its slot is free, the others are as they were. -/
theorem dropBundle_leaves (s : State) (k : Nat) : slotBundle (dropBundle s k) k = none ∧ SlotWork k s (dropBundle s k) := by
  unfold dropBundle
  split
  · exact ⟨by assumption, .refl k s⟩
  · rename_i b _
    extract_lets s1 b1 s2 s3
    have h1 : SlotWork k s s1 := (SlotWork.stallAll s).trans (.orphanHomed _)
    have h2 : SlotWork k s1 s2 := by
      refine .ite (.of_pl ?_) (.refl k s1)
      exact (endReorder_pl _ _).trans (endFlights_pl _ _)
    have h3 : SlotWork k s2 s3 := (SlotWork.of_pl (wipeRuns_pl _ _)).trans (.clearSlot _)
    have hnone : slotBundle s3 k = none := SMap.find_erase_self _ _
    refine ⟨?_, (h1.trans (h2.trans h3)).trans (.trans (.ite (.mapGen _) (.refl k s3)) (.settle _ _))⟩
    rw [slotBundle_of_pl (t := settle _ s) (s := if b.placed then mapGen s3 else s3) rfl]
    split
    · exact (slotBundle_of_pl (bumpFldAt_pl _ _ _ _ _ _) k).trans hnone
    · exact hnone

end Sys2Proof.Machine
end

section
/-!
SUPPORT. A bundle that starts, a load that ends READY or refused, and what its caller is told (R79 to R82, R85, R97).
-/
namespace Sys2Proof.Machine
open Sys2Proof

variable {s t u v : State} {k : Nat} {b : Bundle}

/-! ### What a caller is told -/

/-- The reply of a command given earlier, sent on the active hub's port. -/
theorem told_finishReq {c : Caller} {y : Session} (h : Conversing s u) (ha : s.active.isSome = true) (hy : findSession s c.session = some y) (status : Nat)
    (body : List Byte) : Told s (finishReq u c status body) c status := by
  obtain ⟨p, hp⟩ := Option.isSome_iff_exists.1 ha
  obtain ⟨z, hz⟩ : ∃ z, findSession u c.session = some z := by
    refine Option.isSome_iff_exists.1 ((findSession_isSome u c.session).2 ?_)
    rw [h.sessions]
    exact (findSession_isSome s c.session).1 (by rw [hy]; rfl)
  rw [finishReq_eq (h.active.trans hp) hz]
  exact ⟨p, u.tb.ns, u.tb.sec, qualityWord u, body, hp, List.mem_append_right _ List.mem_cons_self⟩

theorem Told.grows {c : Caller} {status : Nat} (h : Told s t c status) (g : OutGrows t u) : Told s u c status := by
  obtain ⟨p, ns, sec, q, body, hp, hm⟩ := h
  obtain ⟨l, hl⟩ := g
  exact ⟨p, ns, sec, q, body, hp, hl ▸ List.mem_append_left _ hm⟩

/-- What the end of a command does beside its reply. -/
theorem finishReq_kept (s : State) (c : Caller) (status : Nat) (body : List Byte) :
    (finishReq s c status body).pl = s.pl ∧ (finishReq s c status body).dies = s.dies ∧ (finishReq s c status body).regs = s.regs ∧
      (finishReq s c status body).ident = s.ident := by
  unfold finishReq
  split
  · exact ⟨rfl, rfl, rfl, rfl⟩
  · split <;> exact ⟨rfl, rfl, rfl, rfl⟩

/-! ### Loads run one at a time (R78) -/

theorem pump_of_empty (hq : s.pl.queue = []) (hr : s.pl.ready = []) : pump_ s = s := by
  rw [pump_, hq, hr]
  rfl

theorem pumpLoads_queue (n : Nat) (hb : s.pl.busy = none) (ha : s.active.isSome = true) (hr : s.pl.ready = []) {r : LoadReq} {rest : List LoadReq}
    (hq : s.pl.queue = r :: rest) : pumpLoads (n + 1) s =
      pumpLoads n (if r.probe then runProbe { s with pl := { s.pl with queue := rest } } r else startLoad { s with pl := { s.pl with queue := rest } } r) := by
  rw [pumpLoads, hb, if_neg (by simp [← Option.not_isSome, ha])]
  dsimp only
  rw [hr, hq]

theorem pumpLoads_ready (n : Nat) (hb : s.pl.busy = none) (ha : s.active.isSome = true) {j : Nat} {rest : List Nat} (hr : s.pl.ready = j :: rest) :
    pumpLoads (n + 1) s = pumpLoads n (fitLoad (modBundle { s with pl := { s.pl with ready := rest } } j fun b => { b with st := .loading }) j) := by
  rw [pumpLoads, hb, if_neg (by simp [← Option.not_isSome, ha])]
  dsimp only
  rw [hr]

/-- A request that comes while nothing else waits is run at once. -/
theorem pump_queued (hb : s.pl.busy = none) (ha : s.active.isSome = true) (hq : s.pl.queue = []) (hr : s.pl.ready = []) (r : LoadReq) :
    pump_ { s with pl := { s.pl with queue := s.pl.queue ++ [r] } } = if r.probe then runProbe s r else startLoad s r := by
  have hs : ({ s with pl := { s.pl with queue := [] } } : State) = s := by
    rw [← hq]
  have hfuel : pump_ { s with pl := { s.pl with queue := s.pl.queue ++ [r] } } = pumpLoads 1 { s with pl := { s.pl with queue := [r] } } := by
    rw [pump_, hq, hr]
    rfl
  rw [hfuel, pumpLoads_queue 0 (s := { s with pl := { s.pl with queue := [r] } }) hb ha hr (r := r) (rest := []) rfl, pumpLoads]
  exact congrArg (fun t => if r.probe then runProbe t r else startLoad t r) hs

/-- A bundle whose circuits are lit goes on at once while no load runs. -/
theorem pump_ready (hb : s.pl.busy = none) (ha : s.active.isSome = true) (hq : s.pl.queue = []) (hr : s.pl.ready = []) (j : Nat) :
    pump_ { s with pl := { s.pl with ready := s.pl.ready ++ [j] } } = fitLoad (modBundle s j fun b => { b with st := .loading }) j := by
  have hs : ({ s with pl := { s.pl with ready := [] } } : State) = s := by
    rw [← hr]
  have hfuel : pump_ { s with pl := { s.pl with ready := s.pl.ready ++ [j] } } = pumpLoads 1 { s with pl := { s.pl with ready := [j] } } := by
    rw [pump_, hq, hr]
    rfl
  rw [hfuel, pumpLoads_ready 0 (s := { s with pl := { s.pl with ready := [j] } }) hb ha (j := j) (rest := []) rfl, pumpLoads]
  exact congrArg (fun t => fitLoad (modBundle t j fun b => { b with st := .loading }) j) hs

/-! ### A bundle starts (R81, R142, R166) -/

theorem startStations_runs (b : Bundle) : ∀ st ∈ startStations b, st.run = .running ∨ st.run = .halted := by
  intro st hst
  obtain ⟨a, -, rfl⟩ := List.mem_map.1 hst
  cases ha : a.run with
  | halted => exact .inr ha
  | drained => exact .inl rfl
  | fresh => exact .inl rfl
  | running => exact .inl rfl
  | held => exact .inl rfl
  | faulted => exact .inl rfl

/-- What a start makes of a bundle. -/
structure Starts (b c : Bundle) : Prop where
  st : c.st = .running
  ever : c.everStarted = true
  stations : c.stations = startStations b
  img : c.img = b.img
  placed : c.placed = b.placed

theorem startBundle_starts (hb : slotBundle s k = some b) : ∃ c, slotBundle (startBundle s k) k = some c ∧ Starts b c ∧ SlotWork k s (startBundle s k) ∧
    (startBundle s k).dies = s.dies ∧ (startBundle s k).regs = s.regs ∧ (startBundle s k).ident = s.ident := by
  rw [startBundle, hb]
  dsimp -zeta only
  extract_lets first b1 b2 s1
  have h2 : Starts b b2 := by
    dsimp only [b2]
    split <;> exact ⟨rfl, rfl, rfl, rfl, rfl⟩
  have hs1 : slotBundle s1 k = some b2 := SMap.find_insert_self _ _ _
  have hw : SlotWork k s s1 := .setSlot s b2
  split
  · exact ⟨_, (slotBundle_of_pl (t := resettle (raiseKey s1 k)) (s := raiseKey s1 k) rfl k).trans (slotBundle_modBundle hs1 _), ⟨h2.st, h2.ever, h2.stations, h2.img, h2.placed⟩,
      (hw.trans (.modBundle s1 _)).trans (.of_pl rfl), modBundle_dies s1 _ _, modBundle_regs s1 _ _, modBundle_ident s1 _ _⟩
  · exact ⟨b2, hs1, h2, hw.trans (.of_pl rfl), rfl, rfl, rfl⟩

/-! ### A load ends READY (R79 step 7) -/

/-- What a bundle keeps as its tallies are released: all but its stations and tallies, and how many stations there are. -/
def Bundle.frame (b : Bundle) : Bundle × Nat := (b.body, b.stations.length)

/-- From `s` to `t` the bundle of a slot keeps that, in the same work of its slot. -/
structure FrameKept (k : Nat) (s t : State) : Prop where
  frame : (slotBundle t k).map Bundle.frame = (slotBundle s k).map Bundle.frame
  work : SlotWork k s t
  bundles : BundleWork s t

namespace FrameKept

theorem refl (k : Nat) (s : State) : FrameKept k s s := ⟨rfl, .refl k s, .refl s⟩
theorem trans (h : FrameKept k s t) (w : FrameKept k t u) : FrameKept k s u := ⟨w.frame.trans h.frame, h.work.trans w.work, h.bundles.trans w.bundles⟩

theorem foldl {α : Type} (f : State → α → State) (hf : ∀ s a, FrameKept k s (f s a)) (l : List α) (s : State) : FrameKept k s (l.foldl f s) :=
  List.foldlRecOn _ _ (refl k s) fun _ h a _ => h.trans (hf _ a)

theorem modBundle (s : State) {f : Bundle → Bundle} (hf : ∀ b, (f b).frame = b.frame) : FrameKept k s (modBundle s k f) := by
  refine ⟨?_, .modBundle s f, .modBundle s k f⟩
  cases hb : slotBundle s k with
  | none => rw [Machine.modBundle, hb]; exact congrArg (Option.map Bundle.frame) hb
  | some b => rw [slotBundle_modBundle hb, Option.map_some, Option.map_some, hf]

theorem answer (s : State) (tally : Nat) (src : TallySrc) (status : Nat) : FrameKept k s (answer s k tally src status) := by
  cases src with
  | station i => exact modBundle s fun b => by rw [Bundle.frame, length_modAt]; rfl
  | remote pc tag _ _ =>
    exact ⟨congrArg _ (slotBundle_of_pl (sendMsg_fabricOnly s _ _ _).pl k), .answer s tally _ status, .answer s k tally _ status⟩

theorem modTally (s : State) (i : Nat) (f : Tally → Tally) : FrameKept k s (modTally s k i f) := modBundle s fun _ => rfl

theorem release (s : State) (i : Nat) : FrameKept k s (release s k i) := by
  unfold Machine.release
  split
  · exact refl k s
  · exact (modTally s i _).trans (foldl _ (fun s (w : Waiter) => answer s i w.src C.ok) _ _)

theorem some (h : FrameKept k s t) (hb : slotBundle s k = some b) : ∃ c, slotBundle t k = Option.some c ∧ c.body = b.body ∧ c.stations.length = b.stations.length := by
  have hmap := h.frame
  rw [hb] at hmap
  obtain ⟨c, hc, he⟩ := Option.map_eq_some_iff.1 hmap
  exact ⟨c, hc, (congrArg Prod.fst he :), (congrArg Prod.snd he :)⟩

end FrameKept

/-- What a load leaves of its bundle `b` as it ends: `c`. -/
structure LoadEnds (s : State) (k : Nat) (b : Bundle) (u : State) (c : Bundle) : Prop where
  bundle : slotBundle u k = some c
  st : c.st = if b.opts.start then .running else .ready
  img : c.img = b.img
  placed : c.placed = b.placed
  ever : c.everStarted = (b.opts.start || b.everStarted)
  count : c.stations.length = b.stations.length
  others : ∀ j, j ≠ k → slotBundle u j = slotBundle s j
  queue : u.pl.queue = s.pl.queue
  ready : u.pl.ready = s.pl.ready
  busy : u.pl.busy = if s.pl.busy = some k then none else s.pl.busy
  dies : u.dies = s.dies
  shown : fld u F.bndEventReady = 1
  conversing : Conversing s u

/-- The reply of a load that ends READY. -/
def readyBody (k : Nat) (b : Bundle) : List Byte := leBytes 2 (handleOf k b) ++ entriesBody (sortEntries (b.planShort.map (planEntry b.img)))

theorem readyLoad_ends (hb : slotBundle s k = some b) : ∃ u c, LoadEnds s k b u c ∧
    readyLoad s k = (match b.reply with | some r => finishReq (releaseStage u b.stage) r C.ok (readyBody k b) | none => u) := by
  rw [readyLoad, hb]
  dsimp -zeta only
  extract_lets fresh s0 s1 _ s2 s3 l
  have h0 : slotBundle s0 k = some { b with st := .ready, preload := 100, reply := none, tallies := (b.tallies.zip b.img.tallies).map fresh } := SMap.find_insert_self _ _ _
  have h01 : FrameKept k s0 s1 := .foldl _ (fun s i => .release s i) _ _
  obtain ⟨c1, hc1, hbody, hlen⟩ := h01.some h0
  have hw : SlotWork k s s1 := (SlotWork.setSlot s _).trans h01.work
  have h2 : ∃ q, s2 = setEvent { s1 with pl := { s1.pl with busy := q } } F.bndEventReady ∧ q = if s.pl.busy = some k then none else s.pl.busy := by
    dsimp only [s2]
    rw [← hw.loads.busy]
    split
    · exact ⟨none, rfl, rfl⟩
    · exact ⟨s1.pl.busy, rfl, rfl⟩
  obtain ⟨q, h2, hq⟩ := h2
  have hconv : Conversing s s2 := by
    have hbusy : Conversing s1 { s1 with pl := { s1.pl with busy := q } } := .of_eq rfl rfl rfl rfl rfl rfl
    rw [h2]
    exact ((Conversing.setSlot s k _).trans (.of_bundles h01.bundles)).trans (hbusy.trans (.setEvent _ _))
  have hends : LoadEnds s k { b with opts := { b.opts with start := false } } s2 c1 := by
    rw [h2] at hconv ⊢
    exact ⟨hc1, (congrArg Bundle.st hbody :), (congrArg Bundle.img hbody :), (congrArg Bundle.placed hbody :), (congrArg Bundle.everStarted hbody :), hlen, hw.others,
      hw.loads.queue, hw.loads.ready, hq, h01.bundles.dies, fld_setEvent { s1 with pl := { s1.pl with busy := q } } (f := F.bndEventReady) (by decide) rfl, hconv⟩
  clear_value s2
  cases hstart : b.opts.start with
  | false =>
    refine ⟨s2, c1, ⟨hends.bundle, by rw [hends.st, hstart], hends.img, hends.placed, by rw [hends.ever, hstart], hends.count, hends.others, hends.queue, hends.ready,
      hends.busy, hends.dies, hends.shown, hends.conversing⟩, ?_⟩
    have hs3 : s3 = s2 := if_neg (by rw [hstart]; decide)
    rw [hs3]
    rfl
  | true =>
    obtain ⟨c, hc, hst, hwork, hdies, hregs, hident⟩ := startBundle_starts hends.bundle
    refine ⟨startBundle s2 k, c, ⟨hc, by rw [hst.st, hstart]; rfl, hst.img.trans hends.img, hst.placed.trans hends.placed, by rw [hst.ever, hstart]; rfl, ?_,
      fun j hj => (hwork.others j hj).trans (hends.others j hj), hwork.loads.queue.trans hends.queue, hwork.loads.ready.trans hends.ready,
      hwork.loads.busy.trans hends.busy, hdies.trans hends.dies, (fld_of_regWord (regWord_of_regs hregs hident _)).trans hends.shown,
      hends.conversing.trans (.startBundle _ _)⟩, ?_⟩
    · rw [hst.stations, startStations, List.length_map]
      exact hends.count
    · have hs3 : s3 = startBundle s2 k := if_pos hstart
      rw [hs3]
      rfl

/-! ### A load is refused (R85) -/

/-- A load refused that holds a slot: its bundle gone, what is queued as it was, its caller told. -/
theorem refuseSlot_leaves (hb : slotBundle s k = some b) (status : Nat) (l : List Entry) : ∃ u, slotBundle u k = none ∧ Conversing s u ∧
    u.pl.queue = s.pl.queue ∧ u.pl.ready = s.pl.ready.filter (· != k) ∧ (b.victims = [] → ∀ j, j ≠ k → slotBundle u j = slotBundle s j) ∧
    refuseSlot s k status l = (match b.reply with | some c => refuseLoad u c b.stage status l | none => u) := by
  rw [refuseSlot, hb]
  dsimp -zeta only
  extract_lets s1 s2 _ s3
  have h1 : LoadsKept s s1 := .foldl _ (fun s v => .releaseDrain s v) _ s
  obtain ⟨hnone, hw⟩ := dropBundle_leaves s1 k
  have hconv : Conversing s s2 := (Conversing.foldl _ (fun s v => .releaseDrain s v) _ s).trans (.dropBundle _ _)
  have h3 : Conversing s2 s3 := .of_eq rfl rfl rfl rfl rfl rfl
  refine ⟨s3, hnone, hconv.trans h3, (h1.trans hw.loads).queue, congrArg (List.filter (· != k)) (h1.trans hw.loads).ready, fun hv j hj => ?_, rfl⟩
  have hs1 : s1 = s := by
    dsimp only [s1]
    rw [hv]
    rfl
  exact (hw.others j hj).trans (by rw [hs1])

/-- No station waits to move: nothing moves (R102). -/
theorem relocateAll_still (hb : slotBundle s k = some b) (h : ∀ st ∈ b.stations, st.relocating = false) : relocateAll s k = s := by
  rw [relocateAll, hb]
  dsimp only
  split
  · rfl
  · refine List.foldlRecOn (motive := fun t : State => t = s) _ _ rfl fun t ht i _ => ?_
    rw [ht]
    cases hw : whereAt s k i with
    | none => rfl
    | some w =>
      have hst : w.st ∈ b.stations := by
        rw [whereAt, hb] at hw
        dsimp only at hw
        split at hw
        · rename_i st sr hst hsr
          cases hw
          exact List.mem_of_getElem? hst
        · cases hw
      dsimp only
      rw [h _ hst, Bool.false_and, if_neg Bool.false_ne_true]

end Sys2Proof.Machine
end

section
/-!
SUPPORT. A load that fits without victims and needs no images: placed, it is READY (R79 steps 3 to 7).
-/
namespace Sys2Proof.Machine
open Sys2Proof

variable {s t u v : State} {k : Nat} {b : Bundle} {o : FitOut}

theorem finalSlot_of_lt (s : State) (hk : k < 64) : finalSlot s k = k := if_pos hk

theorem slotRegs_pl (s : State) (k : Nat) : (slotRegs s k).pl = s.pl := by
  unfold slotRegs
  dsimp only
  rw [setFldAt_pl, setFldAt_pl, setFldAt_pl, setFldAt_pl]

theorem forgetStreams_pl (s : State) (b : Bundle) : (forgetStreams s b).pl = s.pl := rfl
theorem settle_pl (s t : State) : (settle s t).pl = s.pl := rfl
theorem settle_regs (s t : State) : (settle s t).regs = s.regs := rfl
theorem settle_ident (s t : State) : (settle s t).ident = s.ident := rfl
theorem mapGen_pl (s : State) : (mapGen s).pl = s.pl := bumpFldAt_pl _ _ _ _ _ _

/-- A load's bundle placed in its slot: its runs wiped, the slot's registers set. -/
def loadPlaced (s : State) (k : Nat) (b : Bundle) : State :=
  slotRegs (forgetStreams (settle (mapGen (wipeRuns (setSlot s k b) (placedOf b))) s) b) k

theorem slotBundle_loadPlaced (s : State) (k : Nat) (b : Bundle) : slotBundle (loadPlaced s k b) k = some b ∧ SlotWork k s (loadPlaced s k b) := by
  have hpl : (loadPlaced s k b).pl = (setSlot s k b).pl := by
    rw [loadPlaced, slotRegs_pl, forgetStreams_pl, settle_pl, mapGen_pl, wipeRuns_pl]
  exact ⟨(slotBundle_of_pl hpl k).trans (SMap.find_insert_self _ _ _), (SlotWork.setSlot s b).trans (.of_pl hpl)⟩

theorem Conversing.loadPlaced (s : State) (k : Nat) (b : Bundle) : Conversing s (loadPlaced s k b) :=
  (((((Conversing.setSlot s k b).trans (.wipeRuns _ _)).trans (.mapGen _)).trans (.settle _ _)).trans (.forgetStreams _ _)).trans (.slotRegs _ _)

/-- A load that runs in its own slot goes on in it. -/
theorem busy_own (s : State) (k : Nat) : (if s.pl.busy = some k then { s with pl := { s.pl with busy := some k } } else s) = s := by
  split
  · rename_i h
    rw [← h]
  · rfl

/-- The slot's bundle placed on the resources that the fit found. -/
theorem placeLoad_ready (hb : slotBundle s k = some b) (hr : b.opts.replace = none) (hk : k < 64) (hc : b.img.consts = []) :
    placeLoad s k o = readyLoad (loadPlaced s k (placeBundle b o.plan)) k := by
  have hrep : replaced s b.opts = none := by rw [replaced, hr]; rfl
  have hpre : preloads (placeBundle b o.plan) = [] := by
    have hcs : (placeBundle b o.plan).img.consts = [] := hc
    rw [preloads, hcs]
    rfl
  have hown : ({ placeBundle b o.plan with reuse := b.reuse } : Bundle) = placeBundle b o.plan := rfl
  rw [placeLoad, hb]
  dsimp only
  rw [hrep]
  dsimp only
  rw [finalSlot_of_lt s hk, if_pos rfl, hown, hpre, busy_own]
  rfl

/-- A fit without victims that nothing fails goes on to place the bundle. -/
theorem fitLoad_fits {f : FitIn} (hb : slotBundle s k = some b) (hr : b.opts.replace = none)
    (hf : fitVictims s b.img b.opts (some k) = ([], f, o)) (ho : o.failed = []) : fitLoad s k = placeLoad s k o := by
  rw [fitLoad, hb]
  have hrep : replaceUnknown s b.opts = false := by rw [replaceUnknown, hr]; rfl
  dsimp -zeta only
  rw [hrep, if_neg Bool.false_ne_true, hf]
  dsimp only
  rw [ho]
  split <;> rfl

/-- A load that fits ends READY. -/
theorem fitLoad_ready {f : FitIn} (hb : slotBundle s k = some b) (hr : b.opts.replace = none) (hk : k < 64) (hc : b.img.consts = [])
    (hf : fitVictims s b.img b.opts (some k) = ([], f, o)) (ho : o.failed = []) : ∃ v u c, SlotWork k s v ∧ Conversing s v ∧
      LoadEnds v k (placeBundle b o.plan) u c ∧
      fitLoad s k = (match b.reply with | some r => finishReq (releaseStage u b.stage) r C.ok (readyBody k (placeBundle b o.plan)) | none => u) := by
  obtain ⟨hv, hw⟩ := slotBundle_loadPlaced s k (placeBundle b o.plan)
  obtain ⟨u, c, hends, hready⟩ := readyLoad_ends hv
  exact ⟨_, u, c, hw, .loadPlaced s k _, hends, (fitLoad_fits hb hr hf ho).trans ((placeLoad_ready hb hr hk hc).trans hready)⟩

theorem length_placeBundle (b : Bundle) (p : Plan) : (placeBundle b p).stations.length = b.img.stations.length := by
  rw [placeBundle, List.length_map, withIdx, List.length_zip, List.length_range, Nat.min_self]

theorem planFails_of_none {img : BundleImg} (h : img.plan = none) (s : State) : planFails s img = [] := by rw [planFails, h]

/-- A load whose bundle has no PLAN goes on to its fit. -/
theorem planLoad_of_none (hb : slotBundle s k = some b) (hp : b.img.plan = none) : planLoad s k = fitLoad (setSlot s k { b with planShort := [] }) k := by
  rw [planLoad, hb]
  dsimp only
  rw [planFails_of_none hp]
  rfl

end Sys2Proof.Machine
end

section
/-!
SUPPORT. BUNDLE_LOAD and FIT_PROBE given while no load runs or waits (R77 to R79, R85, R86).
-/
namespace Sys2Proof.Machine
open Sys2Proof

variable {s : State} {r : LoadReq} {c : Caller} {b bytes : List Byte}

/-- The options of a request without REPLACE. -/
def loadOpts (b : List Byte) : LoadOpts := ⟨none, bitAt (fieldLE b 2 2) 1, bitAt (fieldLE b 2 2) 2, bitAt (fieldLE b 2 2) 3⟩

/-- A request that finds no other runs at once. -/
theorem svcLoad_runs (probe : Bool) (hlen : b.length = 6) (ho : fieldLE b 2 2 < 16) (hrep : bitAt (fieldLE b 2 2) 0 = false)
    (hstage : stageBytes s c (fieldLE b 0 2) = some bytes) (hb : s.pl.busy = none) (ha : s.active.isSome = true) (hq : s.pl.queue = [])
    (hr : s.pl.ready = []) : svcLoad probe s c b =
      if probe then runProbe s ⟨probe, c, fieldLE b 0 2, loadOpts b⟩ else startLoad s ⟨probe, c, fieldLE b 0 2, loadOpts b⟩ := by
  rw [svcLoad, sized, if_pos hlen]
  dsimp only
  rw [if_neg, hrep]
  · exact pump_queued hb ha hq hr ⟨probe, c, fieldLE b 0 2, loadOpts b⟩
  · rw [hstage]
    simpa using ho

theorem replaceUnknown_of_none {o : LoadOpts} (s : State) (h : o.replace = none) : replaceUnknown s o = false := by
  rw [replaceUnknown, h]
  rfl

/-- A bundle that fails its verification is refused. -/
theorem startLoad_error {e : Nat} (hstage : stageBytes s r.caller r.stage = some bytes) (hrep : r.opts.replace = none)
    (hv : verifyBundle s bytes = .error e) : startLoad s r = refuseLoad s r.caller r.stage e [] := by
  rw [startLoad, hstage]
  dsimp only
  rw [replaceUnknown_of_none s hrep, if_neg Bool.false_ne_true, hv]

/-- A bundle that takes the slot `k`. -/
def loadBegun (s : State) (r : LoadReq) (k : Nat) (img : BundleImg) : State :=
  { s with pl := { s.pl with
    reuse := SMap.setD s.pl.reuse k (SMap.getD s.pl.reuse k 0 + 1) 0, loads := s.pl.loads + 1
    slots := SMap.insert s.pl.slots k (freshBundle (SMap.getD s.pl.reuse k 0 % 1024) s.pl.loads r.stage img r.opts r.caller) } }

/-- The lowest free slot. -/
def freeSlot (s : State) : Option Nat := (List.range 64).find? (fun k => (slotBundle s k).isNone)

theorem startLoad_takes {img : BundleImg} {k : Nat} (hstage : stageBytes s r.caller r.stage = some bytes) (hrep : r.opts.replace = none)
    (hv : verifyBundle s bytes = .ok img) (hk : freeSlot s = some k) : startLoad s r = planLoad (loadBegun s r k img) k := by
  have hlt : k < 64 := List.mem_range.1 (List.mem_of_find?_eq_some hk)
  rw [freeSlot] at hk
  rw [startLoad, hstage]
  dsimp only
  rw [replaceUnknown_of_none s hrep, if_neg Bool.false_ne_true, hv]
  dsimp only
  rw [hk, Option.getD_some, if_pos hlt]
  rfl

theorem loadBegun_keeps (s : State) (r : LoadReq) (k : Nat) (img : BundleImg) : slotBundle (loadBegun s r k img) k =
    some (freshBundle (SMap.getD s.pl.reuse k 0 % 1024) s.pl.loads r.stage img r.opts r.caller) ∧ SlotWork k s (loadBegun s r k img) ∧
      Conversing s (loadBegun s r k img) :=
  ⟨SMap.find_insert_self _ _ _, ⟨⟨rfl, rfl, rfl⟩, fun _ hj => slotBundle_setSlot_other s hj _⟩, .of_eq rfl rfl rfl rfl rfl rfl⟩

/-- A load with no PLAN goes straight on to its fit. -/
theorem planLoad_begun {img : BundleImg} {k : Nat} (hp : img.plan = none) : planLoad (loadBegun s r k img) k = fitLoad (loadBegun s r k img) k := by
  rw [planLoad_of_none (loadBegun_keeps s r k img).1 hp]
  refine congrArg (fun m => fitLoad { loadBegun s r k img with pl := { (loadBegun s r k img).pl with slots := m } } k) ?_
  exact SMap.insert_insert _ _ _ _

/-- What a probe answers. -/
theorem runProbe_ok {img : BundleImg} {vs : List Nat} {f : FitIn} {o : FitOut} (hstage : stageBytes s r.caller r.stage = some bytes)
    (hrep : r.opts.replace = none) (hv : verifyBundle s bytes = .ok img) (hf : fitVictims s img r.opts none = (vs, f, o)) :
    (∃ status body, runProbe s r = finishReq s r.caller status body) ∧
    (img.plan = none → o.failed = [] → runProbe s r = finishReq s r.caller 0 (entriesBody (probeEntries f o []))) ∧
    (∀ e es, img.plan = none → o.failed = e :: es → runProbe s r = finishReq s r.caller e.code (entriesBody (probeEntries f o []))) := by
  rw [runProbe, hstage]
  dsimp only
  rw [replaceUnknown_of_none s hrep, if_neg Bool.false_ne_true, hv]
  dsimp only
  rw [hf]
  refine ⟨⟨_, _, rfl⟩, fun hp ho => ?_, fun e es hp ho => ?_⟩
  · rw [planFails_of_none hp, degradedOk, hp, ho]
    rfl
  · rw [planFails_of_none hp, degradedOk, hp, ho]
    rfl

theorem runProbe_error {e : Nat} (hstage : stageBytes s r.caller r.stage = some bytes) (hrep : r.opts.replace = none)
    (hv : verifyBundle s bytes = .error e) : runProbe s r = finishReq s r.caller e (entriesBody []) := by
  rw [runProbe, hstage]
  dsimp only
  rw [replaceUnknown_of_none s hrep, if_neg Bool.false_ne_true, hv]

theorem releaseStage_stages (s : State) (id : Nat) : ∀ g ∈ (releaseStage s id).stages, g.id ≠ id := by
  intro g hg
  simpa using (List.mem_filter.1 hg).2

end Sys2Proof.Machine

namespace Sys2Proof.Proofs
open Sys2Proof Sys2Proof.Machine

/-- Settles O37: a load that fails its verification, one that fits, and a probe, each run at once where no other waits. -/
theorem loadsEndReadyOrRefused : Obligations.LoadsEndReadyOrRefused := by
  intro s h b bytes x hlen ho hrep hbusy hqueue hready hstage opts k reuse begun
  have runs (probe : Bool) (code : Nat) {v : State} (hv : ServedOn s h x code b v) : svcLoad probe v (callerOf h code) b =
      if probe then runProbe v ⟨probe, callerOf h code, fieldLE b 0 2, loadOpts b⟩ else startLoad v ⟨probe, callerOf h code, fieldLE b 0 2, loadOpts b⟩ := by
    refine svcLoad_runs probe hlen ho hrep (bytes := bytes) ?_ (hv.pl ▸ hbusy) (by rw [hv.answering.active]; rfl) (hv.pl ▸ hqueue) (hv.pl ▸ hready)
    rw [stageBytes, hv.stages]
    exact hstage
  have staged (code : Nat) {v : State} (hv : ServedOn s h x code b v) : stageBytes v (callerOf h code) (fieldLE b 0 2) = some bytes := by
    rw [stageBytes, hv.stages]
    exact hstage
  refine ⟨fun e ha hver => ?refused, fun img f o ha hver hplan hconst hk hfit hok => ?fits, fun e ha hver => ?probeError, fun img vs f o ha hver hfit => ?probe⟩
  case refused =>
    obtain ⟨v, hv⟩ := ha.servedOn (by decide)
    rw [hv.serving] at hver
    refine hv.replies rfl ((runs false _ hv).trans (startLoad_error (staged _ hv) rfl hver)) (hv.answering.conversing ((Conversing.setEvent v F.bndEventRefused).trans (.releaseStage _ _)))
      fun _ _ => ⟨(congrArg Placer.slots hv.pl :), releaseStage_stages _ _⟩
  case fits =>
    obtain ⟨v, hv⟩ := ha.servedOn (by decide)
    rw [hv.serving] at hver hfit
    have hfree : freeSlot v = some k := by
      have hs : freeSlot v = freeSlot s := by
        unfold freeSlot
        simp only [slotBundle_of_pl hv.pl]
      rw [hs]
      cases hf : freeSlot s with
      | none =>
        have h64 : k = 64 := congrArg (fun z : Option Nat => z.getD 64) hf
        omega
      | some j => exact congrArg (fun z : Option Nat => some (z.getD 64)) hf.symm
    have hbegun : begun v img = loadBegun v ⟨false, callerOf h 0x0021, fieldLE b 0 2, loadOpts b⟩ k img := by
      dsimp only [begun, loadBegun, reuse]
      rw [hv.pl]
      rfl
    rw [hbegun] at hfit
    obtain ⟨hbd, hw, hconv⟩ := loadBegun_keeps v ⟨false, callerOf h 0x0021, fieldLE b 0 2, loadOpts b⟩ k img
    obtain ⟨w, u, c, hw2, hconv2, hends, hfinal⟩ := fitLoad_ready hbd rfl hk hconst hfit hok
    have hsvc := (runs false _ hv).trans ((startLoad_takes (staged _ hv) rfl hver hfree).trans ((planLoad_begun hplan).trans hfinal))
    have hbody : readyBody k (placeBundle (freshBundle (SMap.getD v.pl.reuse k 0 % 1024) v.pl.loads (fieldLE b 0 2) img (loadOpts b) (callerOf h 0x0021)) o.plan) =
        leBytes 2 (k + 64 * reuse) ++ leBytes 2 0 := by
      rw [hv.pl]
      rfl
    refine hv.replies rfl (hsvc.trans (congrArg (finishReq _ _ _) hbody))
      (hv.answering.conversing (((hconv.trans hconv2).trans hends.conversing).trans (.releaseStage _ _))) fun l z => ?_
    refine ⟨c, hends.bundle, hends.st, hends.img, hends.placed, hends.ever.trans (Bool.or_false _), hends.count.trans (length_placeBundle _ _), fun j hj => ?_, hends.shown⟩
    exact (hends.others j hj).trans ((hw2.others j hj).trans ((hw.others j hj).trans (slotBundle_of_pl hv.pl j)))
  case probeError =>
    obtain ⟨v, hv⟩ := ha.servedOn (by decide)
    rw [hv.serving] at hver
    exact hv.replies rfl ((runs true _ hv).trans (runProbe_error (staged _ hv) rfl hver)) hv.answering
      fun _ _ => ⟨by rw [← hv.pl], hv.dies, hv.stages⟩
  case probe =>
    obtain ⟨v, hv⟩ := ha.servedOn (by decide)
    rw [hv.serving] at hver hfit
    obtain ⟨⟨status, body, hany⟩, hfits, hfails⟩ := runProbe_ok (r := ⟨true, callerOf h 0x0022, fieldLE b 0 2, loadOpts b⟩) (staged _ hv) rfl hver hfit
    have answers {status : Nat} {body : List Byte} (heq : runProbe v ⟨true, callerOf h 0x0022, fieldLE b 0 2, loadOpts b⟩ = finishReq v (callerOf h 0x0022) status body) :
        Replies (.fitProbe h) s h 0x0022 status body (fun t => t.pl.slots = s.pl.slots ∧ t.dies = s.dies ∧ t.stages = s.stages) :=
      hv.replies rfl ((runs true _ hv).trans heq) hv.answering fun _ _ => ⟨by rw [← hv.pl], hv.dies, hv.stages⟩
    exact ⟨fun hp ho => answers (hfits hp ho), fun e es hp ho => answers (hfails e es hp ho), status, body, answers hany⟩

end Sys2Proof.Proofs
end

section
/-!
SUPPORT. A bundle held, restored or gone: its stations, and the entries of the other slots (R81, R96, R97).
-/
namespace Sys2Proof.Machine
open Sys2Proof

variable {s t u v : State} {k : Nat} {b c : Bundle}

/-! ### HELD: no station runs (R81) -/

/-- What holding its bundle makes of a station. -/
def heldStation (st : Station) : Station :=
  if st.run ≠ .running then st
  else if st.waiting = .tally ∧ st.tallyOps.any (fun t => t.isWait && t.answer.isSome) = true then { st with run := .held }
  else { st with run := .held, waiting := .no, tallyOps := st.tallyOps.filter (fun t => !t.isWait) }

theorem heldStation_run (st : Station) : (heldStation st).run ≠ .running := by
  unfold heldStation
  split
  · assumption
  · split <;> exact nofun

theorem heldStation_drainReq (st : Station) : (heldStation st).drainReq = st.drainReq := by
  unfold heldStation
  split
  · rfl
  · split <;> rfl

theorem heldStation_relocating (st : Station) : (heldStation st).relocating = st.relocating := by
  unfold heldStation
  split
  · rfl
  · split <;> rfl

theorem holdOne_stations (b : Bundle) (i : Nat) : (holdOne b i).stations = modAt b.stations i heldStation := by
  cases h : b.stations[i]? with
  | none => rw [holdOne, modAt, h]
  | some st =>
    rw [holdOne, modAt, h]
    dsimp only
    unfold heldStation
    split
    · obtain ⟨hi, rfl⟩ := List.getElem?_eq_some_iff.1 h
      exact (List.set_getElem_self hi).symm
    · split <;> rfl

theorem holdAll_station (b : Bundle) {j : Nat} {st : Station} (h : (holdAll b).stations[j]? = some st) :
    ∃ st0, b.stations[j]? = some st0 ∧ st.run ≠ .running ∧ st.drainReq = st0.drainReq ∧ st.relocating = st0.relocating := by
  have hfold (l : List Nat) (b : Bundle) (h : (l.foldl holdOne b).stations[j]? = some st) :
      ∃ st0, b.stations[j]? = some st0 ∧ (st0.run ≠ .running ∨ j ∈ l → st.run ≠ .running) ∧ st.drainReq = st0.drainReq ∧ st.relocating = st0.relocating := by
    induction l generalizing b with
    | nil => exact ⟨st, h, fun hor => hor.resolve_right List.not_mem_nil, rfl, rfl⟩
    | cons i l ih =>
      obtain ⟨st1, h1, hrun, hdrain, hrel⟩ := ih _ h
      rw [holdOne_stations, getElem?_modAt] at h1
      split at h1
      · rename_i hji
        obtain ⟨st0, h0, rfl⟩ := Option.map_eq_some_iff.1 h1
        exact ⟨st0, hji ▸ h0, fun _ => hrun (.inl (heldStation_run st0)), hdrain.trans (heldStation_drainReq st0),
          hrel.trans (heldStation_relocating st0)⟩
      · rename_i hji
        exact ⟨st1, h1, fun hor => hrun (hor.imp_right fun hm => (List.mem_cons.1 hm).resolve_left hji), hdrain, hrel⟩
  obtain ⟨st0, h0, hrun, hkept⟩ := hfold _ b h
  exact ⟨st0, h0, hrun (.inr (List.mem_range.2 (List.getElem?_eq_some_iff.1 h0).1)), hkept⟩

/-! ### A station restored onto a cell (R97) -/

theorem setQueued_img (b : Bundle) (idx : Nat) (l : List Tile) : (setQueued b idx l).img = b.img := by
  unfold setQueued
  refine List.foldlRecOn (motive := fun acc : Bundle × List Tile => acc.1.img = b.img) _ _ rfl fun acc h e _ => ?_
  split
  · exact h
  · exact h

/-- A station that goes on, on a cell. -/
def OnNewCell (cell : Nat) (st : Station) : Prop := st.cell = some cell ∧ (st.run = .running ∨ st.run = .halted)

theorem restoreStation_puts (hb : slotBundle s k = some b) {i : Nat} (hi : i < b.stations.length) (hr : i < b.img.stations.length) (cell : Nat) :
    ∃ c f, slotBundle (restoreStation s k i cell) k = some c ∧ c.img = b.img ∧ c.stations = modAt b.stations i f ∧ ∀ st, OnNewCell cell (f st) := by
  have hw : whereAt s k i = some ⟨k, i, b, b.stations[i], b.img.stations[i]⟩ := by
    rw [whereAt, hb]
    dsimp only
    rw [List.getElem?_eq_getElem hi, List.getElem?_eq_getElem hr]
  rw [restoreStation, hw]
  dsimp -zeta only
  extract_lets put
  have hput (sc : Mem) (code : List Word) (st : Station) : OnNewCell cell (put sc code st) := by
    dsimp only [put]
    split
    · rename_i hhalt
      exact ⟨rfl, .inr hhalt⟩
    · exact ⟨rfl, .inl rfl⟩
  split
  · exact ⟨_, _, slotBundle_modBundle hb _, rfl, rfl, hput _ _⟩
  · extract_lets s0
    split
    · exact ⟨_, _, slotBundle_modBundle hb _, rfl, rfl, hput _ _⟩
    · extract_lets r m s1 _ sc code
      have hpl : s1.pl = s.pl := (((StackOnly.refl _ s).openRows _ _).stackFound _ _ _).pl
      exact ⟨_, _, slotBundle_modBundle ((slotBundle_of_pl hpl k).trans hb) _, setQueued_img _ _ _, setQueued_stations _ _ _, hput _ _⟩

/-- Every station of a bundle restored, each onto its cell. -/
theorem restoreStations_put (cells : Nat → Nat) (hb : slotBundle s k = some b) (hr : b.stations.length ≤ b.img.stations.length) (n : Nat) (hn : n ≤ b.stations.length) :
    ∃ c, slotBundle ((List.range n).foldl (fun s i => restoreStation s k i (cells i)) s) k = some c ∧ c.img = b.img ∧
      c.stations.length = b.stations.length ∧ ∀ i st, i < n → c.stations[i]? = some st → OnNewCell (cells i) st := by
  induction n with
  | zero => exact ⟨b, hb, rfl, rfl, fun i st hi => absurd hi (Nat.not_lt_zero i)⟩
  | succ n ih =>
    obtain ⟨c, hc, himg, hlen, hput⟩ := ih (by omega)
    obtain ⟨d, f, hd, hdimg, hst, hf⟩ := restoreStation_puts hc (i := n) (by omega) (by rw [himg]; omega) (cells n)
    rw [List.range_succ, List.foldl_append]
    refine ⟨d, hd, hdimg.trans himg, by rw [hst, length_modAt, hlen], fun i st hi h => ?_⟩
    rw [hst, getElem?_modAt] at h
    split at h
    · rename_i he
      obtain ⟨st0, -, rfl⟩ := Option.map_eq_some_iff.1 h
      exact he ▸ hf st0
    · exact hput i st (by omega) h

/-! ### The entries of the slots -/

/-- Every slot used in `t` was used in `s`, by a bundle of the same body. -/
def EntriesKept (s t : State) : Prop := ∀ e ∈ t.pl.slots, ∃ e' ∈ s.pl.slots, e'.1 = e.1 ∧ e'.2.body = e.2.body

namespace EntriesKept

theorem of_pl (h : t.pl = s.pl) : EntriesKept s t := fun e he => ⟨e, h ▸ he, rfl, rfl⟩
theorem refl (s : State) : EntriesKept s s := of_pl rfl
theorem trans (h : EntriesKept s t) (w : EntriesKept t u) : EntriesKept s u := fun e he => by
  obtain ⟨f, hf, h1, h2⟩ := w e he
  obtain ⟨g, hg, h3, h4⟩ := h f hf
  exact ⟨g, hg, h3.trans h1, h4.trans h2⟩

theorem ite {p : Prop} [Decidable p] (h : EntriesKept s t) (w : EntriesKept s u) : EntriesKept s (if p then t else u) := by
  split
  · exact h
  · exact w

theorem foldl {α : Type} (f : State → α → State) (hf : ∀ s a, EntriesKept s (f s a)) (l : List α) (s : State) : EntriesKept s (l.foldl f s) :=
  List.foldlRecOn _ _ (refl s) fun _ h a _ => h.trans (hf _ a)

theorem clearSlot (s : State) (n : Nat) : EntriesKept s (clearSlot s n) := fun e he => ⟨e, SMap.mem_erase he, rfl, rfl⟩

theorem modBundle (s : State) (n : Nat) {f : Bundle → Bundle} (hf : ∀ b, (f b).body = b.body) : EntriesKept s (modBundle s n f) := by
  unfold Machine.modBundle
  split
  · rename_i b hb
    intro e he
    rcases SMap.mem_insert he with h | rfl
    · exact ⟨e, h, rfl, rfl⟩
    · exact ⟨(n, b), SMap.mem_of_find hb, rfl, (hf b).symm⟩
  · exact refl s

theorem answer (s : State) (n tally : Nat) (src : TallySrc) (status : Nat) : EntriesKept s (answer s n tally src status) := by
  cases src with
  | station i => exact modBundle s n fun _ => rfl
  | remote pc tag _ _ => exact of_pl (sendMsg_fabricOnly s _ _ _).pl

theorem orphanTally (s : State) (n i : Nat) : EntriesKept s (orphanTally s n i) := by
  unfold Machine.orphanTally
  split
  · exact refl s
  · refine ite (refl s) ?_
    extract_lets s1 s2
    have h1 : EntriesKept s s1 := foldl _ (fun s (w : Waiter) => answer s n i w.src C.ownerLost) _ s
    have h2 : EntriesKept s s2 := h1.trans (ite (refl s1) (modBundle s1 n fun _ => rfl))
    exact (h2.trans (modBundle s2 n (f := fun b => { b with tallies := modAt b.tallies i fun t => { t with orphaned := true, takers := [], watchers := [], markers := [] } })
      fun _ => rfl)).trans (of_pl (setEvent_pl _ _))

theorem orphanHomed (s : State) (n : Nat) : EntriesKept s (orphanHomed s n) := by
  unfold Machine.orphanHomed
  split
  · exact refl s
  · refine foldl _ (fun s i => ?_) _ s
    split
    · exact ite (orphanTally s n i) (refl s)
    · exact refl s

theorem dropBundle (s : State) (n : Nat) : EntriesKept s (dropBundle s n) := by
  unfold Machine.dropBundle
  split
  · exact refl s
  · rename_i b _
    extract_lets s1 b1 s2 s3
    have h1 : EntriesKept s s1 := (of_pl ((FabricOnly.refl s).stallAll n).pl).trans (orphanHomed _ n)
    have h2 : EntriesKept s1 s2 := by
      refine ite (of_pl ?_) (refl s1)
      exact (endReorder_pl _ _).trans (endFlights_pl _ _)
    have h3 : EntriesKept s2 s3 := (of_pl (wipeRuns_pl _ _)).trans (clearSlot _ n)
    exact (h1.trans (h2.trans h3)).trans (.trans (ite (of_pl (mapGen_pl s3)) (refl s3)) (of_pl rfl))

/-- No load waits for a slot that none waited for. -/
theorem victimOf (h : EntriesKept s t) {n : Nat} (hv : victimOf s n = none) : victimOf t n = none := by
  rw [Machine.victimOf, List.find?_eq_none] at hv ⊢
  intro e he hwaits
  obtain ⟨f, hf, -, hbody⟩ := h e he
  refine hv f hf ?_
  have hst : f.2.st = e.2.st := (congrArg Bundle.st hbody :)
  have hvictims : f.2.victims = e.2.victims := (congrArg Bundle.victims hbody :)
  rw [hst, hvictims]
  exact hwaits

end EntriesKept

end Sys2Proof.Machine
end

section
/-!
SUPPORT. The services of START, HOLD, EVICT and UNLOAD by the state of the bundle (R75, R81, R96, R97).
-/
namespace Sys2Proof.Machine
open Sys2Proof

variable {s t u v : State} {h : CtrHdr} {x : Session} {code slot : Nat} {b : List Byte} {c : Caller} {bd : Bundle}

/-! ### A request served -/

theorem Conversing.partials (s : State) (l : List Partial) : Conversing s { s with partials := l } := .of_eq rfl rfl rfl rfl rfl rfl

theorem ServedOn.conversing (hv : ServedOn s h x code b v) : Conversing s v := by
  have h1 : Conversing s (received s) := (Conversing.satFldAt s _ _ _ _ _).trans (.partials (discards s 0) [])
  have h2 := Conversing.modSession (received s) x.id (f := fun y => { y with lastSeq := h.seq, cached := none }) fun _ => rfl
  rw [← hv.serving, serving_eq]
  exact (h1.trans h2).trans (.modSession _ _ (f := fun y => { y with busy := true }) fun _ => rfl)

/-- A request whose service ends in an answer, by the state that the answer leaves. -/
theorem ServedOn.repliesWith (hv : ServedOn s h x code b v) {i : Instr} {f : Service} (hc : exec i s = done (settleCtr (Machine.counterRow code h f s)))
    {status : Nat} {body : List Byte} (hf : f v (callerOf h code) b = finishReq u (callerOf h code) status body) (hu : Answering s h u)
    {P : State → Prop} (hP : P (finishReq u (callerOf h code) status body)) : Replies i s h code status body P := by
  have hsettled : settleCtr (finishReq u (callerOf h code) status body) = finishReq u (callerOf h code) status body :=
    settleCtr_of_noBacklog (hu.conversing (.finishReq u _ _ _)).noBacklog
  obtain ⟨l, o, -, hans⟩ := hu.finishes code status body
  rw [hv.row, hf, hsettled] at hc
  rw [hsettled] at hans
  exact ⟨_, hc, hans, hP⟩

/-! ### Handles (R75) -/

theorem byHandle_of_pl (hp : t.pl = s.pl) (n : Nat) : byHandle t n = byHandle s n := by
  rw [byHandle, slotBundle_of_pl hp, byHandle]

/-- The four commands that name a bundle find none. -/
theorem bundleCommands_unknown (hlen : b.length = 2) (hb : byHandle s (fieldLE b 0 2) = none) :
    svcStart s c b = finishReq s c C.handleUnknown [] ∧ svcHold s c b = finishReq s c C.handleUnknown [] ∧
      svcEvict s c b = finishReq s c C.handleUnknown [] ∧ svcUnload s c b = finishReq s c C.handleUnknown [] := by
  refine ⟨?_, ?_, ?_, ?_⟩
  · rw [svcStart, sized, if_pos hlen, withHandle, hb]
  · rw [svcHold, sized, if_pos hlen, withHandle, hb]
  · rw [svcEvict, sized, if_pos hlen, withHandle, hb]
  · rw [svcUnload, sized, if_pos hlen, withHandle, hb]

/-! ### START (R81, R97, R102) -/

theorem svcStart_ready (hlen : b.length = 2) (hb : byHandle s (fieldLE b 0 2) = some (slot, bd)) (hst : bd.st = .ready) :
    svcStart s c b = finishReq (startBundle s slot) c C.ok [] := by
  rw [svcStart, sized, if_pos hlen, withHandle, hb]
  dsimp only
  rw [hst]

theorem svcStart_held (hlen : b.length = 2) (hb : byHandle s (fieldLE b 0 2) = some (slot, bd)) (hst : bd.st = .held) {c1 : Bundle}
    (hc : slotBundle (relocateAll s slot) slot = some c1) : svcStart s c b =
      if c1.stations.any (fun st => st.relocating && movable st) then finishReq (relocateAll s slot) c C.relocateNoCell []
      else finishReq (startBundle (relocateAll s slot) slot) c C.ok [] := by
  rw [svcStart, sized, if_pos hlen, withHandle, hb]
  dsimp only
  rw [hst]
  dsimp only
  rw [hc]

theorem svcStart_evicted (hlen : b.length = 2) (hb : byHandle s (fieldLE b 0 2) = some (slot, bd)) (hst : bd.st = .evicted) :
    svcStart s c b = startEvicted s slot bd c := by
  rw [svcStart, sized, if_pos hlen, withHandle, hb]
  dsimp only
  rw [hst]

theorem svcStart_other (hlen : b.length = 2) (hb : byHandle s (fieldLE b 0 2) = some (slot, bd)) (h1 : bd.st ≠ .ready) (h2 : bd.st ≠ .held)
    (h3 : bd.st ≠ .evicted) : svcStart s c b = finishReq s c C.stateInvalid [] := by
  rw [svcStart, sized, if_pos hlen, withHandle, hb]
  dsimp only
  split
  · exact absurd ‹_› h3
  · exact absurd ‹_› h1
  · exact absurd ‹_› h2
  · rfl

/-- An evicted bundle on the cells that it is given. -/
theorem startEvicted_runs (hb : slotBundle s slot = some bd) (hr : bd.stations.length ≤ bd.img.stations.length) {dies : List (List Nat × List Nat × Nat)}
    (hp : placeCells s bd = .ok dies) : ∃ u c1, startEvicted s slot bd c = finishReq u c C.ok [] ∧ Conversing s u ∧ slotBundle u slot = some c1 ∧
      c1.st = .running ∧ c1.stations.length = bd.stations.length ∧
      ∀ i st, c1.stations[i]? = some st → OnNewCell (cellIn ⟨dies, [], ⟨[], [], [], 0⟩⟩ i) st := by
  rw [startEvicted, hp]
  dsimp -zeta only
  extract_lets plan s1 s2 s3
  obtain ⟨c1, hc1, -, hlen, hput⟩ := restoreStations_put (s := s) (fun i => cellIn plan i) hb hr bd.stations.length (Nat.le_refl _)
  have hconv1 : Conversing s s1 := .foldl _ (fun s i => .restoreStation s slot i _) _ s
  have hconv3 : Conversing s s3 := hconv1.trans ((Conversing.modBundle s1 slot _).trans (((Conversing.mapGen s2).trans (.forgetStreams _ bd)).trans (.settle _ _)))
  have hpl3 : s3.pl = s2.pl := by
    dsimp only [s3]
    rw [settle_pl, forgetStreams_pl, mapGen_pl]
  have hs3 : slotBundle s3 slot = some { c1 with tallies := c1.tallies.map fun t => if t.home.isSome then { t with orphaned := false } else t } :=
    (slotBundle_of_pl hpl3 slot).trans (slotBundle_modBundle hc1 _)
  refine ⟨_, _, rfl, hconv3.trans ((Conversing.modBundle s3 slot _).trans (.resettle _)), slotBundle_modBundle hs3 _, rfl, hlen, fun i st hst => ?_⟩
  exact hput i st (hlen ▸ (List.getElem?_eq_some_iff.1 hst).1) hst

theorem startEvicted_short {l es : List Entry} {e : Entry} (hp : placeCells s bd = .error l) (hl : sortEntries l = e :: es) :
    startEvicted s slot bd c = finishReq s c e.code (entriesBody (e :: es)) := by
  rw [startEvicted, hp]
  dsimp only
  rw [hl]

/-! ### HOLD and EVICT (R81, R96) -/

theorem svcHold_eq (hlen : b.length = 2) (hb : byHandle s (fieldLE b 0 2) = some (slot, bd)) :
    svcHold s c b = if bd.st = .running then finishReq (holdBundle s slot) c C.ok [] else finishReq s c C.stateInvalid [] := by
  rw [svcHold, sized, if_pos hlen, withHandle, hb]

theorem heldBundle_stops (bd : Bundle) : ∀ st ∈ (heldBundle bd).stations, st.run ≠ .running := by
  intro st hst
  obtain ⟨j, hj⟩ := List.mem_iff_getElem?.1 hst
  obtain ⟨-, -, hrun, -⟩ := holdAll_station bd hj
  exact hrun

theorem svcEvict_eq (hlen : b.length = 2) (hb : byHandle s (fieldLE b 0 2) = some (slot, bd)) : svcEvict s c b =
    if bd.st ≠ .running ∧ bd.st ≠ .held then finishReq s c C.stateInvalid []
    else if bd.img.limits.evictable = false then finishReq s c C.evictNotAllowed []
    else beginEvict (match bd.reply with | some old => finishReq s old C.drainTimeout [] | none => s) slot (some c) := by
  rw [svcEvict, sized, if_pos hlen, withHandle, hb] <;> rfl

/-- The stations of a bundle that is to be evicted are asked to drain. -/
theorem beginEvict_asks (hb : slotBundle s slot = some bd) (r : Option Caller) : ∃ c1, slotBundle (beginEvict s slot r) slot = some c1 ∧ c1.st = .evicting ∧
    c1.evictFrom = bd.st ∧ ∀ st ∈ c1.stations, st.run = .running → st.drainReq = true := by
  refine ⟨_, slotBundle_modBundle hb _, rfl, rfl, fun st hst hrun => ?_⟩
  obtain ⟨st0, -, rfl⟩ := List.mem_map.1 hst
  revert hrun
  cases hr : st0.run with
  | running => exact fun _ => rfl
  | held => exact fun _ => rfl
  | drained => exact fun hrun => absurd (hr.symm.trans hrun) nofun
  | halted => exact fun hrun => absurd (hr.symm.trans hrun) nofun
  | fresh => exact fun hrun => absurd (hr.symm.trans hrun) nofun
  | faulted => exact fun hrun => absurd (hr.symm.trans hrun) nofun

/-! ### UNLOAD (R81, R96) -/

theorem svcUnload_eq (hlen : b.length = 2) (hb : byHandle s (fieldLE b 0 2) = some (slot, bd)) (hv : victimOf (unloadSlot s slot) slot = none)
    (hq : (unloadSlot s slot).pl.queue = []) (hr : (unloadSlot s slot).pl.ready = []) :
    svcUnload s c b = finishReq (unloadSlot s slot) c C.ok (unloadBody bd) := by
  rw [svcUnload, sized, if_pos hlen, withHandle, hb]
  dsimp only
  rw [hv]
  have hpl := (finishReq_kept (unloadSlot s slot) c C.ok (unloadBody bd)).1
  exact pump_of_empty (hpl ▸ hq) (hpl ▸ hr)

/-- A bundle that no load waits for leaves its slot. -/
theorem unloadSlot_drops (hb : slotBundle s slot = some bd) (h1 : bd.st ≠ .loading) (h2 : bd.st ≠ .planWait) (hreply : bd.reply = none)
    (hstill : ∀ st ∈ bd.stations, st.relocating = false) : unloadSlot s slot = dropBundle s slot := by
  rw [unloadSlot, hb]
  dsimp only
  rw [relocateAll_still hb hstill, if_neg (not_or.2 ⟨h1, h2⟩), hreply]

/-- A load that is cancelled is refused. -/
theorem unloadSlot_cancels (hb : slotBundle s slot = some bd) (hst : bd.st = .loading ∨ bd.st = .planWait)
    (hstill : ∀ st ∈ bd.stations, st.relocating = false) : unloadSlot s slot = refuseSlot s slot C.loadCancelled [] := by
  rw [unloadSlot, hb]
  dsimp only
  rw [relocateAll_still hb hstill, if_pos hst]

/-! ### A load that is refused (R85) -/

theorem refuseLoad_pl (s : State) (c : Caller) (stage status : Nat) (l : List Entry) : (refuseLoad s c stage status l).pl = s.pl :=
  (finishReq_kept _ _ _ _).1.trans (setEvent_pl s F.bndEventRefused)

theorem EntriesKept.refuseSlot (hb : slotBundle s slot = some bd) (hv : bd.victims = []) (status : Nat) (l : List Entry) :
    EntriesKept s (refuseSlot s slot status l) := by
  rw [Machine.refuseSlot, hb]
  dsimp only
  rw [hv]
  have h3 (u : State) (q : Option Nat) (r : List Nat) : EntriesKept u { u with pl := { u.pl with busy := q, ready := r } } := fun e he => ⟨e, he, rfl, rfl⟩
  have hall := (EntriesKept.dropBundle s slot).trans (h3 _ (if (Machine.dropBundle s slot).pl.busy = some slot then none else (Machine.dropBundle s slot).pl.busy)
    ((Machine.dropBundle s slot).pl.ready.filter (· != slot)))
  split
  · exact hall.trans (.of_pl (refuseLoad_pl _ _ _ _ _))
  · exact hall

/-- A load refused: its slot free, what waits as it was, and its caller told. -/
theorem refuseSlot_refuses {s0 : State} (h0 : Conversing s0 s) (ha : s0.active.isSome = true) (hb : slotBundle s slot = some bd) (status : Nat) (l : List Entry) :
    slotBundle (refuseSlot s slot status l) slot = none ∧ (refuseSlot s slot status l).pl.queue = s.pl.queue ∧
      (refuseSlot s slot status l).pl.ready = s.pl.ready.filter (· != slot) ∧
      ∀ c y, bd.reply = some c → findSession s0 c.session = some y → Told s0 (refuseSlot s slot status l) c status := by
  obtain ⟨u, hnone, hconv, hq, hr, -, heq⟩ := refuseSlot_leaves hb status l
  rw [heq]
  cases hreply : bd.reply with
  | none => exact ⟨hnone, hq, hr, fun _ _ h => nomatch h⟩
  | some c =>
    have hpl := refuseLoad_pl u c bd.stage status l
    refine ⟨(slotBundle_of_pl hpl slot).trans hnone, hpl.symm ▸ hq, hpl.symm ▸ hr, fun c' y hc hy => ?_⟩
    cases hc
    exact told_finishReq (((h0.trans hconv).trans (.setEvent _ _)).trans (.releaseStage _ _)) ha hy _ _

end Sys2Proof.Machine
end

section
/-!
PROOF. The bundle commands by the state of their bundle.
-/
namespace Sys2Proof.Proofs
open Sys2Proof Sys2Proof.Machine

/-- Settles O38: START, HOLD, EVICT and UNLOAD, each in every state of the bundle that its handle names, and where it names none. -/
theorem bundleControlFollowsTheState : Obligations.BundleControlFollowsTheState := by
  intro s h b x slot bd hlen handle after still
  refine ⟨fun c code hmem ha hnone => ?unknown, fun hbd => ?states⟩
  case unknown =>
    have unknown {i : Instr} {f : Service} (hne : code ≠ 1) (hi : exec i s = done (settleCtr (Machine.counterRow code h f s)))
        (hf : ∀ v c, byHandle v (fieldLE b 0 2) = none → f v c b = finishReq v c C.handleUnknown []) :
        Replies i s h code 0x0120 [] (fun t => t.pl = s.pl) := by
      obtain ⟨v, hv⟩ := ha.servedOn hne
      exact hv.replies hi (hf v _ ((byHandle_of_pl hv.pl _).trans hnone)) hv.answering fun _ _ => hv.pl
    simp only [List.mem_cons, List.not_mem_nil, or_false, Prod.mk.injEq] at hmem
    rcases hmem with ⟨rfl, rfl⟩ | ⟨rfl, rfl⟩ | ⟨rfl, rfl⟩ | ⟨rfl, rfl⟩
    · exact unknown (by decide) rfl fun v c hv => (bundleCommands_unknown hlen hv).1
    · exact unknown (by decide) rfl fun v c hv => (bundleCommands_unknown hlen hv).2.1
    · exact unknown (by decide) rfl fun v c hv => (bundleCommands_unknown hlen hv).2.2.1
    · exact unknown (by decide) rfl fun v c hv => (bundleCommands_unknown hlen hv).2.2.2
  have named {code : Nat} {v : State} (hv : ServedOn s h x code b v) : byHandle v (fieldLE b 0 2) = some (slot, bd) := (byHandle_of_pl hv.pl _).trans hbd
  have found {code : Nat} {v : State} (hv : ServedOn s h x code b v) : slotBundle v slot = some bd := slotBundle_of_byHandle (named hv)
  have starts {v : State} {c : Bundle} (hc : slotBundle v slot = some c) (l : List Session) (o : List Emit) :
      after { startBundle v slot with sessions := l, out := o } (fun c => c.st = .running ∧ c.everStarted = true ∧ ∀ st ∈ c.stations, st.run = .running ∨ st.run = .halted) := by
    obtain ⟨d, hd, hs, -⟩ := startBundle_starts hc
    exact ⟨d, hd, hs.st, hs.ever, hs.stations ▸ startStations_runs c⟩
  refine ⟨fun ha hst => ?start, fun c ha hst hc => ⟨fun hany => ?noCell, fun hany => ?moved⟩, fun dies ha hst hlen2 hp => ?evicted,
    fun l e es ha hst hp hl => ?short, fun ha hst => ?hold, fun ha hst hev hr => ?evict, fun ha hst hev => ?notAllowed,
    fun ha h1 h2 hr hstill hv hq hrd => ?unload, ?cancel,
    fun ha h1 h2 h3 => ?startInvalid, fun ha h1 => ?holdInvalid, fun ha h1 h2 => ?evictInvalid⟩
  case start =>
    obtain ⟨v, hv⟩ := ha.servedOn (by decide)
    have hsvc : svcStart v (callerOf h 0x0023) b = finishReq (startBundle v slot) (callerOf h 0x0023) C.ok [] := by
      rcases hst with hready | ⟨hheld, hstill⟩
      · exact svcStart_ready hlen (named hv) hready
      · have hmove : relocateAll v slot = v := relocateAll_still (found hv) hstill
        rw [svcStart_held hlen (named hv) hheld (hmove.symm ▸ found hv), if_neg, hmove]
        rw [Bool.not_eq_true, List.any_eq_false]
        intro st hm
        rw [hstill st hm]
        exact Bool.false_ne_true
    exact hv.replies rfl hsvc (hv.answering.conversing (.startBundle v slot)) (starts (found hv))
  case noCell =>
    obtain ⟨v, hv⟩ := ha.servedOn (by decide)
    rw [hv.serving] at hc
    exact hv.replies rfl ((svcStart_held hlen (named hv) hst hc).trans (if_pos hany)) (hv.answering.conversing (.relocateAll v slot)) fun _ _ => hc
  case moved =>
    obtain ⟨v, hv⟩ := ha.servedOn (by decide)
    rw [hv.serving] at hc
    refine hv.replies rfl ((svcStart_held hlen (named hv) hst hc).trans (if_neg (Bool.eq_false_iff.1 hany)))
      (hv.answering.conversing ((Conversing.relocateAll v slot).trans (.startBundle _ slot))) fun l o => ?_
    obtain ⟨d, hd, hs, -⟩ := starts hc l o
    exact ⟨d, hd, hs⟩
  case evicted =>
    obtain ⟨v, hv⟩ := ha.servedOn (by decide)
    rw [hv.serving] at hp
    obtain ⟨u, c, hrun, hconv, hc, hcst, hclen, hcells⟩ := startEvicted_runs (c := callerOf h 0x0023) (found hv) hlen2 hp
    exact hv.replies rfl ((svcStart_evicted hlen (named hv) hst).trans hrun) (hv.answering.conversing hconv) fun _ _ => ⟨c, hc, hcst, hclen, hcells⟩
  case short =>
    obtain ⟨v, hv⟩ := ha.servedOn (by decide)
    rw [hv.serving] at hp
    exact hv.replies rfl ((svcStart_evicted hlen (named hv) hst).trans (startEvicted_short hp hl)) hv.answering fun _ _ => hv.pl
  case hold =>
    obtain ⟨v, hv⟩ := ha.servedOn (by decide)
    exact hv.replies rfl ((svcHold_eq hlen (named hv)).trans (if_pos hst)) (hv.answering.conversing (.of_bundles (.holdBundle v slot)))
      fun _ _ => ⟨heldBundle bd, slotBundle_holdBundle (found hv), rfl, rfl, heldBundle_stops bd⟩
  case evict =>
    obtain ⟨v, hv⟩ := ha.servedOn (by decide)
    have hsvc : svcEvict v (callerOf h 0x0025) b = beginEvict v slot (some (callerOf h 0x0025)) := by
      rw [svcEvict_eq hlen (named hv), if_neg (by rcases hst with hst | hst <;> simp [hst]), if_neg (by simp [hev]), hr]
    have hrow : exec (.evict h) s = done (settleCtr (Machine.counterRow 0x0025 h svcEvict s)) := rfl
    rw [hv.row, hsvc, settleCtr_of_noBacklog (hv.answering.conversing (.beginEvict v slot _)).noBacklog] at hrow
    obtain ⟨c, hc, hasked⟩ := beginEvict_asks (found hv) (some (callerOf h 0x0025))
    refine ⟨_, hrow, (modBundle_out _ _ _).trans ?_, c, hc, hasked⟩
    obtain ⟨r, l, rfl⟩ := hv.frame
    rfl
  case notAllowed =>
    obtain ⟨v, hv⟩ := ha.servedOn (by decide)
    have hsvc : svcEvict v (callerOf h 0x0025) b = finishReq v (callerOf h 0x0025) C.evictNotAllowed [] := by
      rw [svcEvict_eq hlen (named hv), if_neg (by rcases hst with hst | hst <;> simp [hst]), if_pos hev]
    exact hv.replies rfl hsvc hv.answering fun _ _ => hv.pl
  case unload =>
    obtain ⟨v, hv'⟩ := ha.servedOn (by decide)
    have hdrop : unloadSlot v slot = dropBundle v slot := unloadSlot_drops (found hv') h1 h2 hr hstill
    obtain ⟨hnone, hw⟩ := dropBundle_leaves v slot
    have hsvc : svcUnload v (callerOf h 0x0026) b = finishReq (dropBundle v slot) (callerOf h 0x0026) C.ok (unloadBody bd) := by
      rw [← hdrop]
      refine svcUnload_eq hlen (named hv') ?_ ?_ ?_
      · rw [hdrop]
        exact ((EntriesKept.of_pl hv'.pl).trans (.dropBundle v slot)).victimOf hv
      · rw [hdrop, hw.loads.queue, hv'.pl, hq]
      · rw [hdrop, hw.loads.ready, hv'.pl, hrd]
    refine hv'.replies rfl hsvc (hv'.answering.conversing (.dropBundle v slot)) fun _ _ => ⟨hnone, fun j hj => ?_⟩
    exact congrArg Option.isSome ((hw.others j hj).trans (slotBundle_of_pl hv'.pl j))
  case cancel =>
    intro ha hst hvict hstill hv hq hrd
    obtain ⟨v, hv'⟩ := ha.servedOn (by decide)
    have hcancel : unloadSlot v slot = refuseSlot v slot C.loadCancelled [] := unloadSlot_cancels (found hv') hst hstill
    obtain ⟨hnone, hqueue, hready, htold⟩ := refuseSlot_refuses hv'.conversing (by rw [ha.active]; rfl) (found hv') C.loadCancelled []
    have hsvc : svcUnload v (callerOf h 0x0026) b = finishReq (refuseSlot v slot C.loadCancelled []) (callerOf h 0x0026) C.ok (unloadBody bd) := by
      rw [← hcancel]
      refine svcUnload_eq hlen (named hv') ?_ ?_ ?_
      · rw [hcancel]
        exact ((EntriesKept.of_pl hv'.pl).trans (.refuseSlot (found hv') hvict _ _)).victimOf hv
      · rw [hcancel, hqueue, hv'.pl, hq]
      · rw [hcancel, hready, hv'.pl, hrd]
        rfl
    refine hv'.repliesWith rfl hsvc (hv'.answering.conversing (.refuseSlot v slot _ _)) ⟨?_, fun c y hc hy => ?_⟩
    · exact (slotBundle_of_pl (finishReq_kept _ _ _ _).1 slot).trans hnone
    · exact (htold c y hc hy).grows (Conversing.finishReq _ _ _ _).out
  case startInvalid =>
    obtain ⟨v, hv⟩ := ha.servedOn (by decide)
    exact hv.replies rfl (svcStart_other hlen (named hv) h1 h2 h3) hv.answering fun _ _ => hv.pl
  case holdInvalid =>
    obtain ⟨v, hv⟩ := ha.servedOn (by decide)
    exact hv.replies rfl ((svcHold_eq hlen (named hv)).trans (if_neg h1)) hv.answering fun _ _ => hv.pl
  case evictInvalid =>
    obtain ⟨v, hv⟩ := ha.servedOn (by decide)
    exact hv.replies rfl ((svcEvict_eq hlen (named hv)).trans (if_pos ⟨h1, h2⟩)) hv.answering fun _ _ => hv.pl

end Sys2Proof.Proofs
end

section
/-!
SUPPORT. An eviction that completes or is withdrawn, and a load that goes on or is refused as its wait ends (R80, R96, R98).
-/
namespace Sys2Proof.Machine
open Sys2Proof

variable {s t u v : State} {k slot : Nat} {b c bd : Bundle}

/-! ### Loads that wait -/

theorem pump_of_busy (h : s.pl.busy.isSome = true) : pump_ s = s := by
  unfold pump_
  generalize s.pl.queue.length + s.pl.ready.length = n
  cases n with
  | zero => rfl
  | succ n => rw [pumpLoads, h, Bool.true_or, if_pos rfl]

/-- Where no session waits, none is served as a command ends. -/
theorem settleCtr_conversing (hn : ∀ y ∈ s.sessions, y.backlog = []) (h : Conversing s t) : settleCtr t = t := by
  refine settleCtr_of_noBacklog ?_
  rw [noBacklog_iff, h.sessions, ← noBacklog_iff]
  exact hn

theorem planCircuitsLit_goes (hb : slotBundle s slot = some bd) (hst : bd.st = .planWait) (ha : s.active.isSome = true) (hr : s.pl.ready = [])
    (hlit : stillUnlit s bd = []) : planCircuitsLit s slot = pump_ { s with pl := { s.pl with ready := s.pl.ready ++ [slot] } } := by
  rw [planCircuitsLit, hb]
  dsimp only
  rw [if_neg]
  rw [hr, hlit, ← Option.not_isSome, ha]
  simp [hst]

theorem planWaitExpiry_ends (hb : slotBundle s slot = some bd) (hst : bd.st = .planWait) (ha : s.active.isSome = true) (hr : s.pl.ready = [])
    (hunlit : stillUnlit s bd ≠ []) : planWaitExpiry s slot =
      if degradedOk bd.img then
        pump_ { setSlot s slot { bd with planShort := bd.planShort ++ stillUnlit s bd } with
          pl := { (setSlot s slot { bd with planShort := bd.planShort ++ stillUnlit s bd }).pl with ready := s.pl.ready ++ [slot] } }
      else pump_ (refuseSlot s slot C.planUnlit ((stillUnlit s bd).map (planEntry bd.img))) := by
  rw [planWaitExpiry, hb]
  dsimp only
  rw [if_neg]
  · rfl
  · rw [hr, ← Option.not_isSome, ha]
    simp [hst, hunlit]

/-! ### Images from outside (R79, R85) -/

theorem Mem.read_store_same (m : Mem) (a : Nat) (bs : List Byte) : (m.store a bs).read a bs.length = bs := by
  refine List.ext_getElem (Mem.length_read _ _ _) fun i h1 h2 => ?_
  rw [Mem.getElem_read, Mem.store, Mem.byte_putBytes, if_pos (by omega), Nat.add_sub_cancel_left, List.getElem?_eq_getElem h2, Option.getD_some]

theorem fillImages_kept (l : List (List Placed × ConstRec)) (s : State) (images : List (List Byte × Bool)) :
    ∀ u, fillImages s l images = .ok u → u.pl = s.pl ∧ Conversing s u := by
  induction l generalizing s images with
  | nil =>
    intro u h
    cases h
    exact ⟨rfl, .refl s⟩
  | cons e l ih =>
    obtain ⟨ps, c⟩ := e
    intro u h
    rw [fillImages.eq_def] at h
    dsimp only at h
    split at h
    · exact ih _ _ u h
    · split at h
      · cases h
      · rename_i data ok rest
        split at h
        · cases h
        · split at h
          · cases h
          · obtain ⟨hp, hc⟩ := ih _ _ u h
            refine ⟨hp.trans (foldl_pl _ (fun s p => ?_) ps s), .trans (.foldl _ (fun s p => ?_) ps s) hc⟩
            · exact ((StackOnly.refl _ s).openRows _ _).pl
            · exact (Conversing.openRows s _ _ _).trans (.modStack _ _ _)

theorem preloadComplete_eq (hb : slotBundle s slot = some bd) (hbusy : s.pl.busy = some slot) (hp : bd.placed = true) (hst : bd.st = .loading)
    (ha : s.active.isSome = true) (images : List (List Byte × Bool)) : preloadComplete s slot images =
      (match fillImages s (preloads bd) images with
        | .ok s1 => pump_ (readyLoad s1 slot)
        | .error e => pump_ (refuseSlot s slot e [])) := by
  rw [preloadComplete, hb]
  dsimp only
  rw [if_neg (by rw [hbusy, hp, ← Option.not_isSome, ha]; simp [hst])] <;> rfl

/-- One image from outside, for one region. -/
theorem fillImages_one {p : Placed} {c : ConstRec} (hx : constExternal s c = true) (data : List Byte) (ok : Bool) :
    fillImages s [([p], c)] [(data, ok)] =
      if !ok || data.length ≠ c.length then .error C.constSource
      else if hashOk c data = false then .error C.constHash
      else .ok (modStack (openRows s p.stack p.off data.length) p.stack fun k => { k with mem := k.mem.store p.off data }) := by
  rw [fillImages, hx]
  rfl

/-- A load whose images are there is READY. -/
theorem readyLoad_told {s0 : State} (h0 : Conversing s0 s) (ha : s0.active.isSome = true) (hb : slotBundle s slot = some bd) (hbusy : s.pl.busy = some slot) :
    ∃ c, slotBundle (readyLoad s slot) slot = some c ∧ c.st = (if bd.opts.start then .running else .ready) ∧ (readyLoad s slot).pl.busy = none ∧
      (readyLoad s slot).pl.queue = s.pl.queue ∧ (readyLoad s slot).pl.ready = s.pl.ready ∧ (readyLoad s slot).dies = s.dies ∧
      ∀ r y, bd.reply = some r → findSession s0 r.session = some y → Told s0 (readyLoad s slot) r C.ok := by
  obtain ⟨u, c, hends, heq⟩ := readyLoad_ends hb
  have hdone : u.pl.busy = none := hends.busy.trans (if_pos hbusy)
  rw [heq]
  cases hreply : bd.reply with
  | none => exact ⟨c, hends.bundle, hends.st, hdone, hends.queue, hends.ready, hends.dies, fun _ _ h => nomatch h⟩
  | some r =>
    obtain ⟨hpl, hdies, -⟩ := finishReq_kept (releaseStage u bd.stage) r C.ok (readyBody slot bd)
    refine ⟨c, (slotBundle_of_pl (t := finishReq (releaseStage u bd.stage) r C.ok (readyBody slot bd)) (s := u) hpl slot).trans hends.bundle, hends.st,
      (congrArg Placer.busy hpl).trans hdone, (congrArg Placer.queue hpl).trans hends.queue, (congrArg Placer.ready hpl).trans hends.ready, hdies.trans hends.dies,
      fun r' y hr hy => ?_⟩
    cases hr
    exact told_finishReq ((h0.trans hends.conversing).trans (.releaseStage u _)) ha hy _ _

end Sys2Proof.Machine
end

section
/-!
SUPPORT. An eviction that completes, or is withdrawn (R96, R98).
-/
namespace Sys2Proof.Machine
open Sys2Proof

variable {s t u v : State} {k slot : Nat} {b c bd : Bundle}

/-! ### Where the stations of a bundle stand -/

/-- A bundle's image, its state and the cells of its stations. -/
def Bundle.shape (b : Bundle) : BundleImg × List (Option Nat) := (b.img, b.stations.map (·.cell))

/-- From `s` to `t` the bundle of a slot, if there is one, keeps its image and its cells. -/
def CellsKept (k : Nat) (s t : State) : Prop := (slotBundle t k).map Bundle.shape = (slotBundle s k).map Bundle.shape

namespace CellsKept

theorem of_pl (h : t.pl = s.pl) : CellsKept k s t := congrArg (Option.map _) (slotBundle_of_pl h k)
theorem refl (s : State) : CellsKept k s s := of_pl rfl
theorem trans (h : CellsKept k s t) (w : CellsKept k t u) : CellsKept k s u := Eq.trans w h

theorem ite {p : Prop} [Decidable p] (h : CellsKept k s t) (w : CellsKept k s u) : CellsKept k s (if p then t else u) := by
  split
  · exact h
  · exact w

theorem foldl {α : Type} (f : State → α → State) (hf : ∀ s a, CellsKept k s (f s a)) (l : List α) (s : State) : CellsKept k s (l.foldl f s) :=
  List.foldlRecOn _ _ (refl s) fun _ h a _ => h.trans (hf _ a)

theorem modBundle (s : State) (n : Nat) {f : Bundle → Bundle} (hf : ∀ b, (f b).shape = b.shape) : CellsKept k s (modBundle s n f) := by
  by_cases hn : k = n
  · subst hn
    cases hb : slotBundle s k with
    | none => rw [Machine.modBundle, hb]; exact refl s
    | some b => rw [CellsKept, slotBundle_modBundle hb, hb, Option.map_some, Option.map_some, hf]
  · rw [CellsKept, slotBundle_modBundle_other s hn]

theorem modStation (s : State) (n i : Nat) {f : Station → Station} (hf : ∀ st, (f st).cell = st.cell) : CellsKept k s (modStation s n i f) :=
  modBundle s n fun b => by rw [Bundle.shape, ProvsKept.map_modAt _ _ hf]; rfl

theorem answer (s : State) (n tally : Nat) (src : TallySrc) (status : Nat) : CellsKept k s (answer s n tally src status) := by
  cases src with
  | station i => exact modStation s n i fun _ => rfl
  | remote pc tag _ _ => exact of_pl (sendMsg_fabricOnly s _ _ _).pl

theorem loseRemote_shape (b : Bundle) (i : Nat) : (loseRemote b i).shape = b.shape := by
  rw [Bundle.shape, loseRemote]
  dsimp only
  rw [List.map_map]
  rfl

theorem orphanTally (s : State) (n i : Nat) : CellsKept k s (orphanTally s n i) := by
  unfold Machine.orphanTally
  split
  · exact refl s
  · refine ite (refl s) ?_
    extract_lets s1 s2
    have h1 : CellsKept k s s1 := foldl _ (fun s (w : Waiter) => answer s n i w.src C.ownerLost) _ s
    have h2 : CellsKept k s s2 := h1.trans (ite (refl s1) (modBundle s1 n fun b => loseRemote_shape b i))
    exact (h2.trans (modBundle s2 n (f := fun b => { b with tallies := modAt b.tallies i fun t => { t with orphaned := true, takers := [], watchers := [], markers := [] } })
      fun _ => rfl)).trans (of_pl (setEvent_pl _ _))

theorem orphanHomed (s : State) (n : Nat) : CellsKept k s (orphanHomed s n) := by
  unfold Machine.orphanHomed
  split
  · exact refl s
  · refine foldl _ (fun s i => ?_) _ s
    split
    · exact ite (orphanTally s n i) (refl s)
    · exact refl s

theorem softRetire (s : State) (cell : Nat) : CellsKept k s (softRetire s cell) := by
  have h1 : CellsKept k s (keptChanged (Machine.setEvent { s with pl := { s.pl with retired := SMap.insert s.pl.retired cell .soft } } F.bndEventRetired)) := rfl
  unfold Machine.softRetire
  refine ite (refl s) ?_
  dsimp only
  split
  · exact ite h1 (h1.trans (modStation _ _ _ fun _ => rfl))
  · exact h1

theorem softCause (s : State) (cell : Nat) : CellsKept k s (softCause s cell) := ite (refl s) (ite (softRetire s cell) (of_pl (report_pl _ _ _ _ _)))

theorem scratchFound (s : State) (cell : Nat) (c : EvCtx) (ce ue : Nat) : CellsKept k s (scratchFound s cell c ce ue) := by
  obtain ⟨m, hm⟩ := scratchFound_eq s cell c ce ue
  have h1 : CellsKept k s (wordsFound s cell c ce ue) := of_pl (wordsFound_pl s cell c ce ue)
  have h2 : CellsKept k s (withWindow (wordsFound s cell c ce ue) m) := h1.trans rfl
  rw [hm]
  exact ite (h2.trans (softCause _ _)) h2

theorem scrubStation (s : State) (n idx : Nat) : CellsKept k s (scrubStation s n idx) := by
  unfold Machine.scrubStation
  split
  · exact refl s
  · refine trans (modBundle s n fun b => ?_) (scratchFound _ _ _ _ _)
    rw [Bundle.shape, setQueued_img, setQueued_stations]
    exact congrArg (Prod.mk b.img) (ProvsKept.map_modAt _ _ fun _ => rfl)

theorem some (h : CellsKept k s t) (hb : slotBundle s k = some b) : ∃ c, slotBundle t k = Option.some c ∧ c.img = b.img ∧
    c.stations.map (·.cell) = b.stations.map (·.cell) := by
  rw [CellsKept, hb] at h
  obtain ⟨c, hc, he⟩ := Option.map_eq_some_iff.1 h
  exact ⟨c, hc, (congrArg Prod.fst he :), (congrArg Prod.snd he :)⟩

end CellsKept

/-- A station saved leaves its cell. -/
theorem saveStation_frees (hb : slotBundle s k = some b) {i : Nat} (hi : i < b.stations.length) (hr : i < b.img.stations.length) :
    ∃ c, slotBundle (saveStation s k i) k = some c ∧ c.img = b.img ∧ c.stations.map (·.cell) = (b.stations.map (·.cell)).set i none := by
  obtain ⟨c0, hc0, himg, hcells⟩ := (CellsKept.scrubStation (k := k) s k i).some hb
  have hlen : c0.stations.length = b.stations.length := by
    rw [← List.length_map (f := fun st : Station => st.cell), hcells, List.length_map]
  have hi0 : i < c0.stations.length := hlen ▸ hi
  have hr0 : i < c0.img.stations.length := himg ▸ hr
  have hw : whereAt (scrubStation s k i) k i = some ⟨k, i, c0, c0.stations[i], c0.img.stations[i]⟩ := by
    rw [whereAt, hc0]
    dsimp only
    rw [List.getElem?_eq_getElem hi0, List.getElem?_eq_getElem hr0]
  have hfree {f : Station → Station} (hf : ∀ st, (f st).cell = none) : (modAt c0.stations i f).map (·.cell) = (b.stations.map (·.cell)).set i none := by
    rw [modAt_of (List.getElem?_eq_getElem hi0), List.map_set, hf, hcells]
  unfold saveStation
  dsimp only
  rw [hw]
  dsimp only
  split
  · exact ⟨_, slotBundle_modBundle hc0 _, himg, hfree fun _ => rfl⟩
  · refine ⟨_, slotBundle_modBundle ((slotBundle_of_pl ?_ k).trans hc0) _, himg, hfree fun _ => rfl⟩
    exact ((StackOnly.refl _ _).openRows _ _).pl

/-- Every station saved: none has a cell. -/
theorem saveStations_free (hb : slotBundle s k = some b) (hr : b.stations.length ≤ b.img.stations.length) (n : Nat) (hn : n ≤ b.stations.length) :
    ∃ c, slotBundle ((List.range n).foldl (fun s i => saveStation s k i) s) k = some c ∧ c.img = b.img ∧ c.stations.length = b.stations.length ∧
      ∀ i st, i < n → c.stations[i]? = some st → st.cell = none := by
  induction n with
  | zero => exact ⟨b, hb, rfl, rfl, fun i st hi => absurd hi (Nat.not_lt_zero i)⟩
  | succ n ih =>
    obtain ⟨c, hc, himg, hlen, hfree⟩ := ih (by omega)
    obtain ⟨d, hd, hdimg, hcells⟩ := saveStation_frees hc (i := n) (by omega) (by rw [himg]; omega)
    rw [List.range_succ, List.foldl_append]
    refine ⟨d, hd, hdimg.trans himg, ?_, fun i st hi h => ?_⟩
    · rw [← List.length_map (f := fun st : Station => st.cell), hcells, List.length_set, List.length_map, hlen]
    · have hcell : (d.stations.map (·.cell))[i]? = some st.cell := by rw [List.getElem?_map, h]; rfl
      rw [hcells, List.getElem?_set] at hcell
      split at hcell
      · split at hcell
        · exact (Option.some.inj hcell).symm
        · cases hcell
      · rw [List.getElem?_map] at hcell
        obtain ⟨st0, h0, he⟩ := Option.map_eq_some_iff.1 hcell
        exact he ▸ hfree i st0 (by omega) h0

/-- A bundle whose stations are saved, as its eviction leaves it. -/
def savedBundle (b : Bundle) : Bundle :=
  { b with st := .evicted, reply := none, stations := b.stations.map fun st => { st with drainReq := false, relocating := false, relocReported := false } }

/-- An eviction that completes. -/
theorem finishEvict_evicts (hb : slotBundle s slot = some bd) (hr : bd.stations.length ≤ bd.img.stations.length) (ha : s.active.isSome = true) :
    ∃ c, slotBundle (finishEvict s slot) slot = some c ∧ c.st = .evicted ∧ (∀ st ∈ c.stations, st.cell = none) ∧
      fld (finishEvict s slot) F.bndEventEvicted = 1 ∧
      ∀ r y, bd.reply = some r → findSession s r.session = some y → Told s (finishEvict s slot) r C.ok := by
  rw [finishEvict, hb]
  dsimp -zeta only
  extract_lets s1 s2 s3 s4 s5 s6
  have h12 : CellsKept slot s s2 := (CellsKept.orphanHomed s slot).trans (.of_pl (endFlights_pl _ _))
  have hc12 : Conversing s s2 := ((Conversing.orphanHomed s slot).trans (.endFlights _ _)).trans (.rememberStreams _ _)
  have h3 : CellsKept slot s2 s3 := CellsKept.modBundle s2 slot (f := _) fun _ => rfl
  obtain ⟨c3, hc3, himg, hcells⟩ := (h12.trans h3).some hb
  have hlen : c3.stations.length = bd.stations.length := by
    rw [← List.length_map (f := fun st : Station => st.cell), hcells, List.length_map]
  obtain ⟨c4, hc4, -, hlen4, hfree⟩ := saveStations_free hc3 (by rw [hlen, himg]; exact hr) bd.stations.length (Nat.le_of_eq hlen.symm)
  have hc5 : slotBundle s5 slot = some (savedBundle c4) := slotBundle_modBundle hc4 _
  have hpl : s6.pl = s5.pl := by
    dsimp only [s6]
    rw [settle_pl, setEvent_pl, mapGen_pl]
  have hcells6 : ∀ st ∈ (savedBundle c4).stations, st.cell = none := by
    intro st hst
    obtain ⟨st0, h0, rfl⟩ := List.mem_map.1 hst
    obtain ⟨i, hi⟩ := List.mem_iff_getElem?.1 h0
    exact hfree i st0 (by rw [← hlen, ← hlen4]; exact (List.getElem?_eq_some_iff.1 hi).1) hi
  have hshown : fld s6 F.bndEventEvicted = 1 := by
    have hset := fld_setEvent (mapGen s5) (f := F.bndEventEvicted) (by decide) rfl
    exact (fld_of_regWord (regWord_of_regs (settle_regs _ s) (settle_ident _ s) _)).trans hset
  have hconv : Conversing s s6 := by
    have h4 : Conversing s2 s4 := (Conversing.modBundle s2 slot _).trans (.foldl _ (fun s i => .saveStation s slot i) _ _)
    have h6 : Conversing s4 s6 := (((Conversing.modBundle s4 slot _).trans (.mapGen _)).trans (.setEvent _ _)).trans (.settle _ _)
    exact (hc12.trans h4).trans h6
  have hc6 := (slotBundle_of_pl hpl slot).trans hc5
  clear_value s6
  cases hreply : bd.reply with
  | none => exact ⟨_, hc6, rfl, hcells6, hshown, fun _ _ h => nomatch h⟩
  | some r =>
    obtain ⟨hplr, -, hregs, hident⟩ := finishReq_kept s6 r C.ok []
    refine ⟨_, (slotBundle_of_pl hplr slot).trans hc6, rfl, hcells6, (fld_of_regWord (regWord_of_regs hregs hident _)).trans hshown, fun r' y hr' hy => ?_⟩
    cases hr'
    exact told_finishReq hconv ha hy _ _

/-! ### An eviction withdrawn (R98) -/

/-- A station of a bundle whose eviction is withdrawn. -/
def undrained (b : Bundle) (st : Station) : Station :=
  if b.evictFrom = .running && st.run = .drained then resumed { st with drainReq := false } else { st with drainReq := false }

theorem undrained_station (b : Bundle) (st : Station) : (undrained b st).drainReq = false ∧ (undrained b st).relocating = st.relocating ∧
    (b.evictFrom = .running → (undrained b st).run ≠ .drained) := by
  unfold undrained
  split
  · exact ⟨rfl, rfl, fun _ => nofun⟩
  · rename_i hnot
    refine ⟨rfl, rfl, fun hfrom hrun => hnot ?_⟩
    rw [hfrom, show st.run = .drained from hrun]
    rfl

/-- The bundle is as it was before the eviction began. -/
theorem releaseDrain_withdraws (hb : slotBundle s slot = some bd) (hst : bd.st = .evicting) (hfrom : bd.evictFrom = .running ∨ bd.evictFrom = .held)
    (hstill : ∀ st ∈ bd.stations, st.relocating = false) : ∃ c, slotBundle (releaseDrain s slot) slot = some c ∧ c.st = bd.evictFrom ∧
      ∀ st ∈ c.stations, st.drainReq = false ∧ (bd.evictFrom = .running → st.run ≠ .drained) := by
  have hundo : ∀ st ∈ bd.stations.map (undrained bd), st.drainReq = false ∧ st.relocating = false ∧ (bd.evictFrom = .running → st.run ≠ .drained) := by
    intro st hm
    obtain ⟨st0, h0, rfl⟩ := List.mem_map.1 hm
    obtain ⟨hd, hr, hrun⟩ := undrained_station bd st0
    exact ⟨hd, hr.trans (hstill st0 h0), hrun⟩
  rw [releaseDrain, hb]
  dsimp only
  rw [if_neg (not_not.2 hst)]
  rcases hfrom with hfrom | hfrom
  · have hs : slotBundle (setSlot s slot { bd with stations := bd.stations.map (undrained bd), st := .running }) slot =
        some { bd with stations := bd.stations.map (undrained bd), st := .running } := SMap.find_insert_self _ _ _
    rw [if_pos hfrom, if_pos hfrom]
    refine ⟨_, (congrArg (fun t => slotBundle t slot) (relocateAll_still hs fun st hm => (hundo st hm).2.1)).trans hs, hfrom.symm, fun st hm => ?_⟩
    exact ⟨(hundo st hm).1, (hundo st hm).2.2⟩
  · have hne : ¬ bd.evictFrom = .running := by rw [hfrom]; exact nofun
    have hs : slotBundle (setSlot s slot { bd with stations := bd.stations.map (undrained bd), st := .evicting }) slot =
        some { bd with stations := bd.stations.map (undrained bd), st := .evicting } := SMap.find_insert_self _ _ _
    have hheld := slotBundle_holdBundle hs
    have hkept : ∀ st ∈ (heldBundle { bd with stations := bd.stations.map (undrained bd), st := .evicting }).stations, st.drainReq = false ∧ st.relocating = false := by
      intro st hm
      obtain ⟨j, hj⟩ := List.mem_iff_getElem?.1 hm
      obtain ⟨st0, h0, -, hd, hr⟩ := holdAll_station _ hj
      obtain ⟨hd0, hr0, -⟩ := hundo st0 (List.mem_of_getElem? h0)
      exact ⟨hd.trans hd0, hr.trans hr0⟩
    rw [if_neg hne, if_neg hne]
    refine ⟨_, (congrArg (fun t => slotBundle t slot) (relocateAll_still hheld fun st hm => (hkept st hm).2)).trans hheld, hfrom.symm, fun st hm => ?_⟩
    exact ⟨(hkept st hm).1, fun h => absurd h hne⟩

end Sys2Proof.Machine
end

section
/-!
PROOF. The ends of the waits of a load and of an eviction.
-/
namespace Sys2Proof.Machine
open Sys2Proof

variable {s : State} {slot k : Nat} {bd bk : Bundle}

/-- EVICT_DRAINED of a bundle that no load waits for. -/
theorem evictDrained_finishes (ha : s.active.isSome = true) (hv : victimOf s slot = none) (hb : slotBundle s slot = some bd) (hst : bd.st = .evicting)
    (hall : allStopped bd = true) : evictDrained s slot = finishEvict s slot := by
  rw [evictDrained, if_neg (by rw [← Option.not_isSome, ha]; decide), hv]
  dsimp only
  rw [hb]
  exact if_pos ⟨hst, hall⟩

/-- A load goes on waiting while a victim has not stopped. -/
theorem victimsDone_waits {v : Nat} {y : Bundle} (hm : v ∈ bk.victims) (hy : slotBundle s v = some y) (hst : y.st = .evicting) (hall : allStopped y = false) :
    victimsDone s k bk = s := by
  rw [victimsDone]
  dsimp only
  split
  · rfl
  · rw [if_neg]
    intro h
    have hev : v ∈ bk.victims.filter (fun v => match slotBundle s v with | some x => x.st == .evicting | none => false) := by
      rw [List.mem_filter, hy]
      exact ⟨hm, beq_iff_eq.2 hst⟩
    have hdone := List.all_eq_true.1 h v hev
    rw [hy] at hdone
    exact absurd (hdone.symm.trans hall) (by decide)

/-- EVICT_DRAIN_TIMEOUT of a bundle that no load waits for. -/
theorem evictDrainTimeout_withdraws (ha : s.active.isSome = true) (hv : victimOf s slot = none) (hb : slotBundle s slot = some bd) (hst : bd.st = .evicting) :
    evictDrainTimeout s slot = (match bd.reply with
      | some c => finishReq (modBundle (releaseDrain s slot) slot (fun b => { b with reply := none })) c C.drainTimeout []
      | none => releaseDrain s slot) := by
  rw [evictDrainTimeout, if_neg (by rw [← Option.not_isSome, ha]; decide), hv]
  dsimp only
  rw [hb]
  dsimp only
  rw [if_pos hst]
  cases bd.reply with
  | none => rfl
  | some c => exact if_pos ⟨by rw [hst]; exact nofun, by rw [hst]; exact nofun⟩

end Sys2Proof.Machine

namespace Sys2Proof.Proofs
open Sys2Proof Sys2Proof.Machine

/-- Settles O39: each event that ends a wait, by what the load or the eviction waited for. -/
theorem waitsOfABundleEnd : Obligations.WaitsOfABundleEnd := by
  intro s slot bd hrun hactive hb hn told started
  have settled {i : Instr} {u t : State} (hi : exec i s = done (settleCtr (if s.phase = .running then u else s))) (hu : u = t) (hc : Conversing s t) :
      exec i s = .next t := by
    rw [hi, if_pos hrun, hu, settleCtr_conversing hn hc]
    rfl
  have refused {i : Instr} {u : State} {n status : Nat} {b : Bundle} {l : List Entry}
      (hi : exec i s = done (settleCtr (if s.phase = .running then u else s))) (hu : u = pump_ (refuseSlot s n status l))
      (hnb : slotBundle s n = some b) (hq : s.pl.queue = []) (hr : s.pl.ready = []) :
      ∃ t, exec i s = .next t ∧ slotBundle t n = none ∧ told t b.reply status := by
    obtain ⟨hnone, hqueue, hready, htold⟩ := refuseSlot_refuses (.refl s) hactive hnb status l
    exact ⟨_, settled hi (hu.trans (pump_of_empty (hqueue.trans hq) (by rw [hready, hr]; rfl))) (.refuseSlot s n status l), hnone, htold⟩
  refine ⟨fun f o hst hbusy hr hq hlit hconst hrep hk hfit hok => ?lit, fun hst hr hbusy hlit => ?litBusy, fun hst hr hbusy hunlit => ⟨fun hdeg => ?degraded, fun hdeg hv hq => ?unlit⟩,
    fun hbusy hp hst hq hr => ⟨fun images u hfill => ?filled, fun p c data hpre hx => ⟨fun k hk hrep hlen hhash => ?stored, fun hv => ⟨?noSource, fun hlen hhash => ?badHash⟩⟩⟩,
    fun hv hst hall hlen => ?drained, fun hv hst hfrom hstill => ?withdrawn,
    fun k bk hv hbk hbusy hq hr => ⟨fun v y hm hy hyst hall => ?stillWaits, ?timeout⟩⟩
  case lit =>
    have hload : slotBundle (modBundle s slot fun b => { b with st := .loading }) slot = some { bd with st := .loading } := slotBundle_modBundle hb _
    obtain ⟨v, u, c, hw, hconv, hends, hfit⟩ := fitLoad_ready hload hrep hk hconst hfit hok
    have hgo := (planCircuitsLit_goes hb hst hactive hr hlit).trans ((pump_ready hbusy hactive hq hr slot).trans hfit)
    have hu : Conversing s u := ((Conversing.modBundle s slot _).trans hconv).trans hends.conversing
    cases hreply : bd.reply with
    | none =>
      exact ⟨u, c, settled rfl (hgo.trans (by rw [hreply])) hu, hends.bundle, hends.st, hends.placed, hends.img, fun _ _ h => nomatch h⟩
    | some r =>
      have hpl := (finishReq_kept (releaseStage u bd.stage) r C.ok (readyBody slot (placeBundle { bd with st := .loading } o.plan))).1
      refine ⟨_, c, settled rfl (hgo.trans (by rw [hreply])) ((hu.trans (.releaseStage u bd.stage)).trans (.finishReq _ r _ _)),
        (slotBundle_of_pl (s := releaseStage u bd.stage) hpl slot).trans hends.bundle, hends.st, hends.placed, hends.img, fun r' y hr' hy => ?_⟩
      cases hr'
      exact told_finishReq (hu.trans (.releaseStage u bd.stage)) hactive hy _ _
  case litBusy =>
    refine settled rfl ?_ (.of_eq rfl rfl rfl rfl rfl rfl)
    rw [planCircuitsLit_goes hb hst hactive hr hlit, hr]
    exact pump_of_busy hbusy
  case degraded =>
    have hgo := (planWaitExpiry_ends hb hst hactive hr hunlit).trans (if_pos hdeg)
    rw [hr] at hgo
    refine ⟨_, _, settled rfl (hgo.trans (pump_of_busy hbusy)) (.of_eq rfl rfl rfl rfl rfl rfl), rfl, SMap.find_insert_self _ _ _, rfl⟩
  case unlit =>
    exact refused rfl ((planWaitExpiry_ends hb hst hactive hr hunlit).trans (if_neg (by rw [hdeg]; decide))) hb hq hr
  case filled =>
    obtain ⟨hpl, hconv⟩ := fillImages_kept _ s images u hfill
    obtain ⟨c, hc, hcst, hdone, hqueue, hready, -, htold⟩ := readyLoad_told hconv hactive ((slotBundle_of_pl hpl slot).trans hb) (hpl ▸ hbusy)
    refine ⟨_, c, settled rfl ?_ (hconv.trans (.readyLoad u slot)), hc, hcst, hdone, htold⟩
    rw [preloadComplete_eq hb hbusy hp hst hactive, hfill]
    exact pump_of_empty (hqueue.trans (hpl ▸ hq)) (hready.trans (hpl ▸ hr))
  case stored =>
    have hfill : fillImages s (preloads bd) [(data, true)] =
        .ok (modStack (openRows s p.stack p.off data.length) p.stack fun k => { k with mem := k.mem.store p.off data }) := by
      rw [hpre, fillImages_one hx, if_neg (by simp [hlen]), if_neg (by rw [hhash]; decide)]
    obtain ⟨hpl, hconv⟩ := fillImages_kept _ s _ _ hfill
    obtain ⟨c, hc, -, -, hqueue, hready, hdies, -⟩ := readyLoad_told hconv hactive ((slotBundle_of_pl hpl slot).trans hb) (hpl ▸ hbusy)
    obtain ⟨k', hk', -⟩ := openRows_mem hk hrep p.off data.length
    refine ⟨_, { k' with mem := k'.mem.store p.off data }, settled rfl ?_ (hconv.trans (.readyLoad _ slot)), ?_, Mem.read_store_same _ _ _⟩
    · rw [preloadComplete_eq hb hbusy hp hst hactive, hfill]
      exact pump_of_empty (hqueue.trans (hpl ▸ hq)) (hready.trans (hpl ▸ hr))
    · rw [stackOf_of_dies hdies, stackOf_modStack, if_pos rfl, hk']
      rfl
  case noSource =>
    refine refused (l := []) rfl ?_ hb hq hr
    rw [preloadComplete_eq hb hbusy hp hst hactive, hpre, fillImages_one hx]
    rfl
  case badHash =>
    refine refused (l := []) rfl ?_ hb hq hr
    rw [preloadComplete_eq hb hbusy hp hst hactive, hpre, fillImages_one hx, if_neg (by simp [hlen]), if_pos hhash]
    rfl
  case drained =>
    obtain ⟨c, hc, hcst, hcells, hshown, htold⟩ := finishEvict_evicts hb hlen hactive
    exact ⟨finishEvict s slot, c, settled rfl (evictDrained_finishes hactive hv hb hst hall) (.finishEvict s slot), hc, hcst, hcells, hshown, htold⟩
  case withdrawn =>
    obtain ⟨c, hc, hcst, hstations⟩ := releaseDrain_withdraws hb hst hfrom hstill
    have hgo := evictDrainTimeout_withdraws hactive hv hb hst
    cases hreply : bd.reply with
    | none =>
      rw [hreply] at hgo
      exact ⟨_, c, settled rfl hgo (.releaseDrain s slot), hc, hcst, (fun _ _ h => nomatch h), hstations⟩
    | some r =>
      rw [hreply] at hgo
      have hmod : Conversing s (modBundle (releaseDrain s slot) slot fun b => { b with reply := none }) := (Conversing.releaseDrain s slot).trans (.modBundle _ _ _)
      have hpl := (finishReq_kept (modBundle (releaseDrain s slot) slot fun b => { b with reply := none }) r C.drainTimeout []).1
      refine ⟨_, _, settled rfl hgo (hmod.trans (.finishReq _ r _ _)), (slotBundle_of_pl hpl slot).trans (slotBundle_modBundle hc _), hcst, fun r' y hr' hy => ?_, hstations⟩
      cases hr'
      exact told_finishReq hmod hactive hy _ _
  case stillWaits =>
    refine settled rfl ?_ (.refl s)
    rw [evictDrained, if_neg (by rw [← Option.not_isSome, hactive]; decide), hv]
    dsimp only
    rw [victimsDone_waits hm hy hyst hall]
    exact pump_of_empty hq hr
  case timeout =>
    refine refused (l := []) rfl ?_ hbk hq hr
    rw [evictDrainTimeout, if_neg (by rw [← Option.not_isSome, hactive]; decide), hv]
    rfl

end Sys2Proof.Proofs
end

section
/-!
SUPPORT. The state that refutes O35: a restored record is the last that an engine waits for, its light is ready (R336), and its links follow their
lanes. One of them, UP with no lane in service, goes DOWN; the tile that waits on it is for the module itself and leaves a dead letter (R368).
-/
namespace Sys2Proof.Machine
open Sys2Proof

/-- An authenticated control session without a key, idle. -/
def restoringSession : Session :=
  { id := 1, control := true, events := false, authed := true, keyIndex := 0, admin := true, key := [], hash := [], lastSeq := 4#32, cached := none
    busy := false, backlog := [], eventNum := 0, eventSecond := 0, eventCount := 0 }

/-- A tile in one flit for the module itself, whose postcode is 1. -/
def homewardTile : Queued := ⟨⟨0, true, true, 1, 0, 0, [], .tile []⟩, none⟩

/-- A link to the module of postcode 2, UP on its port's lane 0, with `q` waiting on VC0. -/
def linkWaiting (q : List Queued) : Link := { freshLink (2, 0, 0) [0] [0] with txq := [q, [], [], []] }

/-- A calibrated item at its factory values. -/
def factoryItem : CalItem := ⟨.factory, false, false, false, false, 0, none, 0, 0, 0, [], false, false, false, 0⟩

/-- Every MON and HEATER item of engine 0 has values but MON item 0. -/
def allButOne : SMap CalItem :=
  ((List.range 200).drop 1).map (fun i => (calKey 0 i, factoryItem)) ++ (List.range 200).map (fun i => (calKey 3 i, factoryItem))

/-- The module of postcode 1 under hub A. The tile for it waits on the link of port 0; the route book gives port 8 for postcode 1. -/
def awaitingLight : State :=
  { State.reset with
    active := some .ha, ha := { HubSt.reset with health := .active, link := true }, sessions := [restoringSession]
    regs := [((⟨.fabPostcode, 0, 0, 0⟩ : RegRef).addr, 65537#32)], cal := { Calib.reset with items := allButOne }
    fab := { Fabric.reset with links := [(0, linkWaiting [homewardTile]), (128, linkWaiting [])], active := [(4, 40)] } }

/-- A good record of MON item 0, without its CRC. -/
def recordHead : List Word := [BitVec.ofNat 32 (2 ^ 14 * 6), 0, 0, 0, 0]

def lastRecord : List Word := recordHead ++ [crc32c (wordBytes recordHead)]

def restoreBody : List Byte := wordBytes lastRecord

def untaggedHeader : CtrHdr := ⟨.ha, 1, 5#32, 0, 1, []⟩

/-- The request CAL_RESTORE with the body `b`, tagged under the session's key. -/
def restoreHeader (b : List Byte) : CtrHdr :=
  { untaggedHeader with dgrams := [⟨0, true, hmac [] (reqHeader untaggedHeader 0x0041 ⟨0, true, [], b⟩ ++ b), b⟩] }

theorem asks_restore (b : List Byte) (hb : b.length ≤ datagramMax awaitingLight .ha) :
    Asks awaitingLight (restoreHeader b) 0x0041 b restoringSession where
  phase := rfl
  active := rfl
  link := rfl
  session := rfl
  permitted := rfl
  idle := rfl
  noneWaits := by
    intro y hy
    rw [List.mem_singleton.1 hy]
    rfl
  later := show laterThan 5#32 4#32 = true by decide
  whole := rfl
  fresh := rfl
  datagram := by
    have hsession : findSession awaitingLight 1 = some restoringSession := rfl
    refine ⟨_, rfl, rfl, rfl, ?_⟩
    simp [dgramOk, hsession, restoreHeader, untaggedHeader, restoringSession, reqHeader, hb]

theorem splitRecords_lastRecord :
    splitRecords restoreBody.length (wordsOf restoreBody) = some [lastRecord] := by decide +kernel

/-- What serving the request leaves: a dead letter of die 0, which had none. -/
theorem deadLetter_of_restore :
    ((settleCtr (svcCalRestore (serving awaitingLight (restoreHeader restoreBody) restoringSession) (callerOf (restoreHeader restoreBody) 0x0041) restoreBody)).dies.map
      (·.dlq.length)) = [1, 0, 0, 0, 0, 0, 0, 0] := by decide +kernel

end Sys2Proof.Machine

namespace Sys2Proof.Proofs
open Sys2Proof Sys2Proof.Machine

/-- Refutes O35: the CAL_RESTORE clause keeps every die, but a restored record can make LIGHT_READY rise, the engine's links then follow their
lanes, and a tile for the module itself that waits on a link going DOWN enters the dead-letter queue of the engine's die. -/
theorem not_writingCommandsWrite : ¬ Obligations.WritingCommandsWrite := by
  intro h
  have hasks := asks_restore restoreBody (by decide +kernel)
  obtain ⟨-, -, -, hrestore, -⟩ := h awaitingLight (restoreHeader restoreBody) restoreBody restoringSession
  obtain ⟨body, -, t, hexec, -, -, hdies⟩ := hrestore [lastRecord] hasks (by decide +kernel) (by decide +kernel) splitRecords_lastRecord
  obtain ⟨v, hv⟩ := hasks.servedOn (by decide)
  have hserved : exec (.calRestore (restoreHeader restoreBody)) awaitingLight =
      .next (settleCtr (svcCalRestore v (callerOf (restoreHeader restoreBody) 0x0041) restoreBody)) :=
    congrArg (done ∘ settleCtr) (hv.row svcCalRestore)
  obtain rfl := Host.Outcome.next.inj (hexec.symm.trans hserved)
  have hletter := deadLetter_of_restore
  rw [hv.serving, hdies] at hletter
  exact absurd hletter (by decide)

end Sys2Proof.Proofs
end
